-- ==== Sys2Proof/Word.lean ====
section
/-! DEFINITION. Word.lean: the word types of the device (bytes, 16-, 32- and 64-bit words, 40-bit physical addresses
as plain numbers) and nothing that a rule of the spec could change. -/

namespace Sys2Proof

abbrev Byte := BitVec 8
abbrev Half := BitVec 16
abbrev Word := BitVec 32
abbrev DWord := BitVec 64

/-- A master identity (R377). -/
abbrev Mid := BitVec 8

end Sys2Proof
end

