-- ==== Sys2Proof/Syntax.lean ====
section
/-! DEFINITION. Syntax.lean: the commands of the block, one constructor per row of spec/opcode_table.json, with the
operands its rule gives it: the unit, the value written, and what arrives from outside the device (a block, a frame, a
measurement, an answer). Register commands carry the whole value written, so that a command decides by the written bits
as the spec does.
Choices of the model: log entries 5 (DEDUCED), 27 (DESIGN CHOICE). -/

namespace Sys2Proof

/-- A 64-bit word as a carrier brings it: its data and its poison mark (R353). -/
structure PWord where
  data : DWord := 0
  mark : Bool := false
deriving DecidableEq, Repr, Inhabited

/-- Statuses of an answer to a request (R375); `aborted`, `deadTarget` and `domainClosed` carry ERR_CAUSE (R385). -/
inductive AnsStatus where
  | ok | lapsed | poisoned | aborted | deadTarget | domainClosed
deriving DecidableEq, Repr, Inhabited

/-- An answer: status, ERR_CAUSE, and the words of a read. -/
structure Answer where
  status : AnsStatus := .ok
  cause : Nat := 0
  words : List PWord := []
deriving DecidableEq, Repr, Inhabited

/-- One entry of a plan's Bells schedules (R9, R54): the Bell and the settings it takes at the commit instant. The
spec gives the part no entry layout. -/
structure BellEntry where
  bell : Fin 64
  cfg : Word
  start : Word
  fine : Fin 16
  period : Word
  width : Fin 268435456
deriving DecidableEq, Repr, Inhabited

/-- Register files of a core, g, p, a, v and f (R60, R61). -/
inductive RegSet where
  | g | p | a | v | f
deriving DecidableEq, Repr, Inhabited

/-- Operations of an atomic syllable (R95). -/
inductive AtomOp where
  | swap | add | and | or | xor | min | max | minu | maxu | cas
deriving DecidableEq, Repr, Inhabited

/-- What a syllable of class 0x1C, 0x1D or 0x1F says where the spec gives no encoding for it: the operation, and the
register numbers that the RR fields D, A and B do not hold. `cmp` is the register compared by compare-and-swap. -/
inductive SysOp where
  | reserved
  | crr (n : Fin 4096)
  | crw (n : Fin 4096)
  | fence
  | fenceC
  | ptst (file : RegSet) (r : Fin 32)
  | sys
  | brk
  | tret
  | iflip
  | done
  | atomic (op : AtomOp) (wide : Bool) (cmp : Fin 32)
  | dcClean
  | dcInv
  | dcCinv
  | tlbinv (all : Bool)
deriving DecidableEq, Repr, Inhabited

/-- The answer to one access that holds its own sheaf (a load-acquire, an atomic, an element of a vector access outside
the plot): position of the syllable, element, and the answer where it is not the one the target's memory gives. -/
structure SyncAns where
  slot : Nat
  elem : Nat := 0
  ans : Answer
deriving DecidableEq, Repr, Inhabited

/-- Ends of an item (R6, R218), as a report codes them. -/
inductive ItemEnd where
  | ok | lapsed | aborted | poisoned
deriving DecidableEq, Repr, Inhabited

/-- A c16 sample of a stream, with its poison mark (R292, R315). -/
structure Sample where
  re : BitVec 16
  im : BitVec 16
  bad : Bool := false
deriving DecidableEq, Repr, Inhabited

/-- One access of whole words: the master, the word-aligned physical address, the words, and the cycles it waited for
its port (R326). -/
structure WriteReq where
  mid : Mid
  addr : Nat
  words : List PWord
  wait : Nat := 0
deriving DecidableEq, Repr, Inhabited

/-- A narrow write to one word: byte enables (bit i enables byte i), the data in place, the mark (R350). -/
structure NarrowReq where
  mid : Mid
  addr : Nat
  enables : Byte
  data : DWord
  mark : Bool := false
  wait : Nat := 0
deriving DecidableEq, Repr, Inhabited

/-- Where a read is served: the memory itself, or a line that Hall core `k` holds in its L1 data cache (R348). -/
inductive ReadVia where
  | memory
  | hallLine (k : Nat)
deriving DecidableEq, Repr, Inhabited

/-- The arrays with spare rows (R364). -/
inductive HarrowArray where
  | granary | barn | plot | imem
deriving DecidableEq, Repr, Inhabited

/-- A failing row that a Harrow test found: its array, the physical core (plots and instruction memories), the bank and
the row, the address of its first failing line, and whether the spare it is tried on fails too. -/
structure FailRow where
  array : HarrowArray
  phys : Nat := 0
  bank : Nat := 0
  row : Nat := 0
  line : Nat := 0
  spareFails : Bool := false
deriving DecidableEq, Repr, Inhabited

/-- How far the Gleaner gets with a region before another access asks for it: to the end, or given up before or after
its first pattern was written (R368). -/
inductive GleanStop where
  | complete | beforePattern | afterPattern
deriving DecidableEq, Repr, Inhabited

/-- A read-back that differed from its pattern: the word within the region and the failing position (R366). -/
structure CellFault where
  word : Nat
  bit : Nat
deriving DecidableEq, Repr, Inhabited

/-- What a unit hands its source NI for injection (R374): operation (R375), virtual network, lines of data, tag, master,
address; for an answer or a VN-C packet the destination NI; deadline and window where they are valid; status and cause of
an answer. -/
structure PacketReq where
  op : Nat
  vn : Nat
  lines : Nat
  tag : Nat
  mid : Mid
  addr : Nat := 0
  dest : Nat := 0
  deadline : Option Nat := none
  window : Option (Nat × Nat) := none
  status : Nat := 0
  cause : Nat := 0
  /-- Word 7 of the head: ATOP and W64 of an ATOMIC. -/
  w7 : Nat := 0
  /-- The data flits' words, with their marks. -/
  data : List PWord := []
deriving DecidableEq, Repr, Inhabited

/-- How the requests of a Carter burst are answered: by the device's own memory, with the bytes read where the source lies
beyond it (and each byte's mark); or one of them with an error status, or a host write POISONED. -/
inductive BurstAnswer where
  | served (ext : List (Nat × Bool))
  | error (st : AnsStatus)
  | hostPoisoned
deriving DecidableEq, Repr, Inhabited

/-- A flit on a parish link: one FLIT block and its data blocks, the byte enables first where BEF = 1 (R443). -/
structure EwlFlit where
  vn : Nat
  ft : Nat
  mark : Nat
  bef : Bool
  be : DWord
  data : List DWord
  crc : Nat
deriving DecidableEq, Repr, Inhabited

/-- What the MACsec receive stage of a port found of a frame (R485); the keys and the cipher stand in the device, the outcome
is measured here: no SecTAG, valid (with the frame's bytes up to its FCS after the SecTAG and ICV are taken off), or failed
on a secure channel: unknown SCI, bad ICV, late PN. -/
inductive SecRx where
  | plain
  | verified (inner : List Nat)
  | failed (sc : Fin 8) (reason : Fin 3)
deriving DecidableEq, Repr, Inhabited

/-- A frame received on a port: its bytes from the destination address through the FCS, its 64-bit cell words that decode
UNCORRECTABLE or POISON (R481), the MACsec outcome, the receive stamp of the ball in units of 2^-16 ns (R487), and the FEC
codewords corrected and not correctable since the last frame (R457). -/
structure RxFrame where
  bytes : List Nat
  bad : List Nat
  sec : SecRx
  stamp : Nat
  corr : Nat
  uncorr : Nat
deriving DecidableEq, Repr, Inhabited

/-- Status of a PCIe completion (R498 to R500): Successful, Unsupported Request, Completer Abort, Request Retry Status. -/
inductive CplStatus where
  | sc | ur | ca | crs
deriving DecidableEq, Repr, Inhabited

/-- A configuration request to a function, by what it bears on (R498, R506, R510): a read or any other write, or a write of
Bus Master Enable, or of VF Enable of PF1. -/
inductive ConfigReq where
  | other
  | busMaster (on : Bool)
  | vfEnable (on : Bool)
deriving DecidableEq, Repr, Inhabited

/-- A request of a device master to the host outbound window (R505): a write of words, or a read of `n` bytes. -/
inductive OutboundReq where
  | write (words : List PWord)
  | read (n : Nat)
deriving DecidableEq, Repr, Inhabited

/-- A completion from the host (R506): data, with EP, or Unsupported Request or Completer Abort. -/
inductive HostCpl where
  | data (words : List DWord) (ep : Bool)
  | failed
deriving DecidableEq, Repr, Inhabited

/-- What a register write may take from outside the device beyond its value: the Bells schedules of a plan and what becomes
of part 5 (R40), a differing parish hash (R39), the servo's filtered error and frequency (R29), whether a hamlet's checkers
pass (R356), and the NI at which the write entered the Commons (R393). -/
structure Outside where
  bells : List BellEntry := []
  poison5 : Bool := false
  reject5 : Bool := false
  hashDiffers : Bool := false
  filtered : Int := 0
  freq : Word := 0
  checkerOk : Bool := true
  ni : Fin 256 := 0
deriving DecidableEq, Repr, Inhabited

inductive Instr where
  /-- REGISTER_WRITE (R636): A write to a register field that has no behaviour of its own stores the value, or is ignored for RO and closed WL fields. The master, the address and the value of a write that covers one 32-bit register. -/
  | registerWrite (mid : Mid) (a : BitVec 40) (v : Word) (o : Outside)
  /-- COUNTER_READ_CLEAR (R6): A read of an RC register returns its value and clears it, except through JTAG. A read that covers the register exactly; whether it comes through JTAG. -/
  | counterReadClear (a : BitVec 40) (jtag : Bool)
  /-- PARTIAL_REGISTER_ACCESS (R635): A register request that does not exactly cover a register is split, returned partially or refused. A request of n bytes from address a that does not cover one register exactly. -/
  | partialRegisterAccess (mid : Mid) (a : BitVec 40) (n : Nat) (write : Bool) (v : DWord) (o : Outside)
  /-- ATOMIC_TO_REGISTER (R634): An ATOMIC request to a register is answered ABORTED REFUSED and changes nothing. -/
  | atomicToRegister (a : BitVec 40)
  /-- LG_START (R37): START in LG_CTRL checks the configuration and arms an IDLE lock group for its action boundary. The value written to LG_CTRL, with START = 1 and STOP = 0. -/
  | lgStart (group : Fin 64) (v : Word) (hashDiffers : Bool)
  /-- LG_STOP (R37): STOP in LG_CTRL puts a RUNNING group in STOPPING or cancels an ARMED group at once. -/
  | lgStop (group : Fin 64) (v : Word)
  /-- LG_START_STOP_BOTH (R37): A write of LG_CTRL with both START and STOP set is ignored in full. -/
  | lgStartStopBoth (group : Fin 64) (v : Word)
  /-- LG_TDD_SWAP (R38): TDD_SWAP checks the inactive bank and makes a swap pending for the next suitable even-SFN frame boundary. -/
  | lgTddSwap (group : Fin 64) (v : Word)
  /-- LG_ACTION_BOUNDARY_START (R37): At the action boundary of its START an ARMED group becomes RUNNING. -/
  | lgActionBoundaryStart (group : Fin 64)
  /-- LG_ACTION_BOUNDARY_STOP (R37): At the action boundary of its STOP the group ceases to advance and its pending plans are WITHDRAWN. -/
  | lgActionBoundaryStop (group : Fin 64)
  /-- LG_RETURN_IDLE (R37): At the sweep instant of its last slot a STOPPING group returns to IDLE. -/
  | lgReturnIdle (group : Fin 64)
  /-- SLOT_BOUNDARY (R33): At each slot boundary a running group advances its slot count, SFN and H-SFN. -/
  | slotBoundary (group : Fin 64)
  /-- TDD_SWAP_APPLY (R38): At the chosen even-SFN frame boundary the pending TDD bank becomes active. -/
  | tddSwapApply (group : Fin 64)
  /-- PLAN_ARM (R41): A write of a header address to LG_PLAN_ARM reads the header, has each block validate its part, and arms or refuses the plan. The value written to LG_PLAN_ARM; what part 5 holds, whether it reads with a poison mark and whether it is rejected (its entry layout is not given). -/
  | planArm (group : Fin 64) (v : Word) (bells : List BellEntry) (poison5 reject5 : Bool)
  /-- PLAN_COMMIT (R10): At the commit instant every block swaps its shadow part for its active table, in every domain together. -/
  | planCommit (group : Fin 64)
  /-- PLAN_WITHDRAW (R43): A write to LG_PLAN_WITHDRAW discards the earliest-armed plan with that SEQUENCE, or sets WITHDRAW_LATE or WITHDRAW_MISS. -/
  | planWithdraw (group : Fin 64) (seq : Word)
  /-- SLOT_SWEEP (R50): At the sweep instant the Reeve lapses waiting items and kills running items of the window. -/
  | slotSweep (group : Fin 64) (wtag : Fin 16)
  /-- SWEEP_RESIDUE_REPORT (R51): 4 µs after a sweep the blocks report what they still hold of the tag, freeing it or setting RESIDUE. -/
  | sweepResidueReport (group : Fin 64)
  /-- RESIDUE_CLEAR (R51): Clearing RESIDUE clears RESIDUE_MASK and frees every residue tag. The value written to LG_SWEEP_STATUS. -/
  | residueClear (group : Fin 64) (v : Word)
  /-- STEEPLE_STEP (R30): A STEP write loads the set time when no group, Bell or snapshot is live, or sets STEP_REFUSED. The value written to STEEPLE_CTRL. -/
  | steepleStep (v : Word)
  /-- STEEPLE_LATCH (R57): Any write to STEEPLE_LATCH latches the full time stamp. -/
  | steepleLatch
  /-- DPLL_PHASE_UPDATE (R29): A phase update from the active source steers the DPLL, stepping or slewing, and can bring it to LOCKED. The measured and the filtered phase error in units of 2^-8 ns, and the frequency the update leaves. -/
  | dpllPhaseUpdate (src : Fin 8) (err filtered : Int) (freq : Word)
  /-- STEEPLE_PTP_OFFSET_WRITE (R29): The PTP servo writes a phase offset that acts as a DPLL phase update. -/
  | steeplePtpOffsetWrite (v : Word) (filtered : Int) (freq : Word)
  /-- DPLL_HOLDOVER_ENTRY (R29): After 3 update intervals without a valid update the DPLL enters HOLDOVER and may switch source. The sources that are valid at the moment. -/
  | dpllHoldoverEntry (valid : List (Fin 8))
  /-- DPLL_SOURCE_WRITE (R598): A write of the priority sources takes effect at the next update, passing through HOLDOVER when the active source changes. The value written to STEEPLE_DPLL_SRC. -/
  | dpllSourceWrite (v : Word)
  /-- REPLICA_LOST (R25): A replica whose clock stops or whose feed is lost for 1 ms enters LOST and sets REPLICA_FAULT. -/
  | replicaLost (domain : Fin 106)
  /-- REPLICA_RESYNC (R25): A LOST replica becomes SYNC again within 10 µs of the return of its clock and feed. -/
  | replicaResync (domain : Fin 106)
  /-- BELL_CFG_WRITE (R53): A write of BELL_CFG starts, stops or changes a Bell, or counts BELL_MISSED when its values or lead are bad. -/
  | bellCfgWrite (bell : Fin 64) (v : Word)
  /-- BELL_EDGE (R53): A Bell reaches a programmed pulse edge, drives its pin and may interrupt the Hall. -/
  | bellEdge (bell : Fin 64)
  /-- PPS_OUT_PULSE (R56): Each PPS output pulses at every whole second plus its compensation. -/
  | ppsOutPulse (k : Fin 2)
  /-- CAPTURE_EDGE (R55): A selected edge on a capture pin or PPS_IN records a time stamp into its FIFO or sets OVERFLOW. -/
  | captureEdge (p : Fin 18) (falling : Bool)
  /-- CAP_POP (R57): A write to CAP_POP retires the oldest capture. -/
  | capPop (p : Fin 18)
  /-- SHEAF_ISSUE (R70): A core issues one sheaf: all syllables read their sources, then commit their results together or trap. Cores 0 to 143 are the physical hamlet cores 9h + p, 144 to 159 the Hall cores, 160 the Hearth. `sys` says what the syllables of classes 0x1C, 0x1D and 0x1F are, in order of position; `answers` are the answers of accesses that hold the sheaf. -/
  | sheafIssue (core : Fin 161) (sys : List SysOp) (answers : List SyncAns)
  /-- INTERRUPT_TAKE (R74): A pending interrupt that its level may take is taken at the next sheaf boundary. -/
  | interruptTake (core : Fin 161)
  /-- TICK_COMPARE_MATCH (R76): With TCE set, the replica reaching TICK_CMP makes the TICK interrupt pending. -/
  | tickCompareMatch (core : Fin 161)
  /-- SOFTWARE_INTERRUPT (R76): A write to a core's software-interrupt register makes SOFTWARE pending on that core. -/
  | softwareInterrupt (core : Fin 161)
  /-- LOAD_ANSWER (R86): The answer to an outstanding load reaches the core and writes its destination. Access `n` of those outstanding; the answer where it is not the one the target's memory gives. -/
  | loadAnswer (core : Fin 161) (n : Nat) (given : Option Answer)
  /-- STORE_ANSWER (R86): The answer to a posted store reaches the core. -/
  | storeAnswer (core : Fin 161) (n : Nat) (given : Option Answer)
  /-- IMEM_WRITE (R101): A write into an instruction half is accepted for the inactive unarmed half, or refused. -/
  | imemWrite (r : WriteReq)
  /-- IMEM_FLIP_ARM (R104): A write of ARM arms a timed flip, or is refused when FLIP_TICK is too far ahead. -/
  | imemFlipArm (h : Fin 16) (c : Fin 9) (v : Word)
  /-- IMEM_FLIP_DISARM (R104): A write of ARM = 0 disarms a pending timed flip. -/
  | imemFlipDisarm (h : Fin 16) (c : Fin 9) (v : Word)
  /-- IMEM_FLIP_APPLY (R103): Once FLIP_TICK has passed and the core is idle with nothing held, the halves flip. -/
  | imemFlipApply (h : Fin 16) (c : Fin 9)
  /-- QUERN_JOB_START (R173): A waiting job starts when the running one frees the Quern and earlier results are written. -/
  | quernJobStart (h : Fin 16)
  /-- QUERN_JOB_END (R175): A job's results are written to memory after its sheaf commits and its status is updated. -/
  | quernJobEnd (h : Fin 16)
  /-- REEVE_SUBMIT_CMD (R188): A write to a submit port reads and checks a loose descriptor, or is ignored while an outcome is pending. The value written to REEVE_SUBMIT_CMD of the port. -/
  | reeveSubmitCmd (port : Fin 16) (v : Word)
  /-- REEVE_SUBMIT_OUTCOME (R188): Within 200 ns the submit outcome is placed in REEVE_SUBMIT_RESULT. -/
  | reeveSubmitOutcome (port : Fin 16)
  /-- REEVE_SUBMIT_RESULT_TAKE (R214): A 64-bit read takes the submit outcome once, or returns the stale record. `wide`: the read is one 64-bit access. -/
  | reeveSubmitResultTake (port : Fin 16) (wide : Bool)
  /-- REEVE_DECR (R190): A write to REEVE_DECR delivers a decrement or lapse token to a named item. The value written to REEVE_DECR. -/
  | reeveDecr (v : Word)
  /-- DECREMENT_ARRIVAL (R191): A decrement or lapse token reaches the Reeve and lowers the named item's count or is dropped. Token `n` of those that have left their sources and not yet arrived. -/
  | decrementArrival (n : Nat)
  /-- REEVE_ABORT (R210): A write of a name to REEVE_ABORT aborts the item according to its state. The value written to REEVE_ABORT. -/
  | reeveAbort (v : Word)
  /-- ITEM_DISPATCH (R195): The Reeve gives an IDLE eligible core its top-ranked ready item. The logical core that is given an item. -/
  | itemDispatch (h : Fin 16) (c : Fin 9)
  /-- ITEM_DEADLINE_LAPSE (R205): A WAITING or READY item whose deadline passes ends LAPSED without dispatch. -/
  | itemDeadlineLapse (slot : Fin 4096)
  /-- HARD_ITEM_KILL (R205): A running hard item at its deadline is killed with LAPSE_KILL. -/
  | hardItemKill (slot : Fin 4096)
  /-- PREEMPT_SELECT (R201): A READY preemptor with no idle core chooses a victim and raises PREEMPT on it. The slot of the preemptor. -/
  | preemptSelect (slot : Fin 4096)
  /-- PREEMPT_WITHDRAW (R203): PREEMPT is withdrawn when the race with done, another idle core or the preemptor's end is lost. The logical core on which PREEMPT is pending. -/
  | preemptWithdraw (h : Fin 16) (c : Fin 9)
  /-- ITEM_RESUME (R204): A PREEMPTED item resumes on its own core at TVBASE + 0x1C0. -/
  | itemResume (h : Fin 16) (c : Fin 9)
  /-- PREEMPTED_KILL_REENTRY (R206): A killed PREEMPTED item is re-entered on its core at TVBASE + 0x80. -/
  | preemptedKillReentry (h : Fin 16) (c : Fin 9)
  /-- CORE_DONE_ARRIVAL (R218): A core's completion reaches the Reeve arbitration point and ends its item, returning the slot. -/
  | coreDoneArrival (h : Fin 16) (c : Fin 9)
  /-- LAPSE_HANDLER_OVERRUN (R48): A lapse handler not returned 2 µs after the kill makes the core LAPSE_OVERRUN and returns the item's tokens. -/
  | lapseHandlerOverrun (h : Fin 16) (c : Fin 9)
  /-- OVERRUN_CORE_RELEASE (R207): RELEASE with OVR_DONE set returns a LAPSE_OVERRUN core to dispatch. The value written to REEVE_CORE_STATE. -/
  | overrunCoreRelease (h : Fin 16) (c : Fin 9) (v : Word)
  /-- WORKSHOP_JOB_HANDOFF (R208): The Reeve gives the top READY workshop item to the least-loaded engine with a free place. The workshop: 0 Kiln, 1 Wheel, 2 Mill. -/
  | workshopJobHandoff (w : Fin 3)
  /-- WORKSHOP_END_STATUS (R208): A workshop end status reaches the Reeve and ends its item with that status. End status `n` of those that have left their engines and not yet arrived. -/
  | workshopEndStatus (n : Nat)
  /-- REPORT_POST_DEFERRED (R213): An item held in ENDING posts its report when a place in its full queue frees. -/
  | reportPostDeferred (q : Fin 64)
  /-- REEVE_REPORT_TAKE (R214): A 64-bit read takes the oldest report once, or returns the stale record. `wide`: the read is one 64-bit access. -/
  | reeveReportTake (q : Fin 64) (wide : Bool)
  /-- REPORT_QUEUE_FLUSH (R219): FLUSH discards a queue's unread reports and its stale record. The value written to REEVE_REPORT_CFG. -/
  | reportQueueFlush (q : Fin 64) (v : Word)
  /-- EV_SET (R215): A write to REEVE_EV_SET sets event flags. The value written to REEVE_EV_SET_LO, or _HI. -/
  | evSet (g : Fin 64) (hi : Bool) (v : Word)
  /-- EV_FLAGS_CLEAR (R215): A write to REEVE_EV_FLAGS clears event flags. The value written to REEVE_EV_FLAGS_LO, or _HI. -/
  | evFlagsClear (g : Fin 64) (hi : Bool) (v : Word)
  /-- REEVE_COMPAT_WRITE (R215): A write of COMPAT is ignored while any event item is live. The value written to REEVE_CTRL. -/
  | reeveCompatWrite (v : Word)
  /-- LDPC_DEC (R240): An LDPC decode job recovers, combines and decodes its code blocks. The engine; its running job is worked for up to `n` code blocks more (a lapse, an abort or an error may come between). -/
  | ldpcDec (e : Fin 16) (n : Nat)
  /-- LDPC_ENC (R232): An LDPC encode job attaches CRC, segments, encodes and rate-matches. -/
  | ldpcEnc (e : Fin 16) (n : Nat)
  /-- POLAR_DEC (R244): A polar decode job list-decodes its code words. -/
  | polarDec (e : Fin 16) (n : Nat)
  /-- POLAR_ENC (R228): A polar encode job codes its code words. -/
  | polarEnc (e : Fin 16) (n : Nat)
  /-- TURBO_DEC (R243): A turbo decode job performs max-log-MAP decoding. -/
  | turboDec (e : Fin 16) (n : Nat)
  /-- TURBO_ENC (R232): A turbo encode job codes and rate-matches its code blocks. -/
  | turboEnc (e : Fin 16) (n : Nat)
  /-- CRC_JOB (R229): A CRC job computes a polynomial remainder into PART_CRC. -/
  | crcJob (e : Fin 16) (n : Nat)
  /-- KILN_HANDLE_WAIT_END (R239): A job waiting on an overlapping handle range starts when the earlier job ends. -/
  | kilnHandleWaitEnd (e : Fin 16)
  /-- KILN_CHECKPOINT_LAPSE (R245): A job whose deadline has passed at a checkpoint stops and ends LAPSED. `staged`: the engine's second job; `wb`: a write-back is under way and completes. -/
  | kilnCheckpointLapse (e : Fin 16) (staged wb : Bool)
  /-- KILN_JOB_END (R224): After every output and write-back is acknowledged the engine writes the record and sends the end status. `recordOk`: the write of the result record is acknowledged. -/
  | kilnJobEnd (e : Fin 16) (staged recordOk : Bool)
  /-- KILN_SWEEP (R246): At a sweep every staged or running job of the window ends LAPSED. The window; the engines whose write-back under way completes. -/
  | kilnSweep (group : Fin 64) (wtag : Fin 16) (wb : List (Fin 16))
  /-- KILN_ABORT (R247): A forwarded abort ends the job ABORTED or OK with ABORT_LATE. The slot of the item whose abort has been forwarded. -/
  | kilnAbort (slot : Fin 4096) (wb : Bool)
  /-- KILN_BUS_ERROR (R249): An error response to a job's access stops it with ERROR BUS. -/
  | kilnBusError (e : Fin 16)
  /-- KILN_HARQ_OPEN (R236): OPEN makes a FREE handle HELD with its region, or is refused. The value written to KILN_HARQ_CMD. -/
  | kilnHarqOpen (v : Word)
  /-- KILN_HARQ_CLOSE (R236): CLOSE frees a HELD handle or makes it CLOSING while jobs name it. -/
  | kilnHarqClose (v : Word)
  /-- KILN_HARQ_AREA_WRITE (R235): A write to KILN_HARQ_AREA sets the area or is ignored with AREA_REFUSED. -/
  | kilnHarqAreaWrite (v : Word)
  /-- WORKSHOP_ENG_EN_WRITE (R257): A write of an engine enable stops or resumes new jobs for that engine. The workshop: 0 Kiln, 1 Wheel, 2 Mill; the value written to its ENG_EN. -/
  | workshopEngEnWrite (w : Fin 3) (v : Word)
  /-- WHEEL_FWD (R271): A forward transform job removes the prefix and transforms to a bin window. The engine; its running job is worked for up to `n` transforms more. -/
  | wheelFwd (e : Fin 16) (n : Nat)
  /-- WHEEL_INV (R271): An inverse transform job adds the prefix and transforms to time samples. -/
  | wheelInv (e : Fin 16) (n : Nat)
  /-- WHEEL_CORR (R271): A correlation job computes powers against a reference and finds the peak. -/
  | wheelCorr (e : Fin 16) (n : Nat)
  /-- UL_WEIGHTS (R281): A Mill job computes MMSE or IRC weights and SINR per group. The engine; its running job is worked for up to `n` groups more. -/
  | ulWeights (e : Fin 8) (n : Nat)
  /-- UL_DETECT (R282): A Mill job applies weights to every resource element of a symbol. -/
  | ulDetect (e : Fin 8) (n : Nat)
  /-- DL_WEIGHTS (R283): A Mill job computes regularised zero-forcing precoder weights. -/
  | dlWeights (e : Fin 8) (n : Nat)
  /-- WHEEL_MILL_CHECKPOINT_LAPSE (R259): A job whose deadline has passed at a unit checkpoint stops and ends LAPSED. `staged`: the engine's second job. -/
  | wheelMillCheckpointLapse (mill : Bool) (e : Fin 16) (staged : Bool)
  /-- WHEEL_MILL_JOB_END (R256): After all writes are acknowledged the engine writes its record and sends the end status. `recordOk`: the write of the result record is acknowledged. -/
  | wheelMillJobEnd (mill : Bool) (e : Fin 16) (staged recordOk : Bool)
  /-- WHEEL_MILL_SWEEP (R260): At a sweep every job of the window ends LAPSED. -/
  | wheelMillSweep (mill : Bool) (group : Fin 64) (wtag : Fin 16)
  /-- WHEEL_MILL_ABORT (R261): A forwarded abort ends the job ABORTED or OK with ABORT_LATE. -/
  | wheelMillAbort (slot : Fin 4096)
  /-- WHEEL_MILL_BUS_ERROR (R262): An error response stops the job with ERROR BUS. -/
  | wheelMillBusError (mill : Bool) (e : Fin 16)
  /-- SIEVE_START (R309): START checks a STOPPED channel and arms it, or sets CFG_ERR. -/
  | sieveStart (c : Fin 1024)
  /-- SIEVE_STOP (R309): STOP puts a RUNNING channel in STOPPING. -/
  | sieveStop (c : Fin 1024)
  /-- SIEVE_SWAP (R305): A swap request starts a fade, becomes pending, replaces a pending one or is a NOOP. The value written to SIEVE_CH_CTRL, with SWAP = 1. -/
  | sieveSwap (c : Fin 1024) (v : Word)
  /-- FORCE_GUARD (R301): FORCE_GUARD puts the channel in GUARD from the next index. -/
  | forceGuard (c : Fin 1024)
  /-- LEAVE_GUARD (R302): LEAVE_GUARD returns the channel to SERVICE when TEST is 0. -/
  | leaveGuard (c : Fin 1024)
  /-- SIEVE_CHANNEL_RUN (R309): An ARMED channel becomes RUNNING at a suitable frame boundary and enters GUARD. -/
  | sieveChannelRun (c : Fin 1024)
  /-- SIEVE_CHANNEL_CEASE (R309): A STOPPING channel ceases at the frame boundary and becomes STOPPED after its last write. -/
  | sieveChannelCease (c : Fin 1024)
  /-- SIEVE_BLOCK_ARRIVAL (R293): A source block arrives and its samples are processed, discarded as overlap or counted as a gap. Source port, channel, SFN and index of the first sample, and the samples. -/
  | sieveBlockArrival (kind : Fin 3) (port : Fin 64) (c : Fin 1024) (sfn : Fin 1024) (n : Nat) (x : List Sample)
  /-- SIEVE_INPUT_TIMEOUT (R293): A sample not supplied by its index time plus LATE / 2 is taken as zero. -/
  | sieveInputTimeout (c : Fin 1024)
  /-- SIEVE_BELL_MARK (R296): A Bell edge marks the stream index and may restart the NCO. -/
  | sieveBellMark (c : Fin 1024)
  /-- SIEVE_FADE_END (R304): After F outputs the new bank becomes active and any pending request is decided. -/
  | sieveFadeEnd (c : Fin 1024)
  /-- SIEVE_GUARD_RETURN (R302): After S + GUARD_EXTRA clean indices an AUTO channel returns to SERVICE. -/
  | sieveGuardReturn (c : Fin 1024)
  /-- SIEVE_COEF_WRITE (R303): A coefficient write is accepted only for a bank not in use. -/
  | sieveCoefWrite (c : Fin 1024) (bank : Fin 2) (j : Fin 16) (v : Word)
  /-- SIEVE_DELAY_WRITE (R308): A write of SIEVE_CH_DELAY to a running channel sets DELAY_PENDING. -/
  | sieveDelayWrite (c : Fin 1024) (v : Word)
  /-- SIEVE_DELAY_APPLY (R308): A pending delay takes effect at the first index after the next slot boundary. -/
  | sieveDelayApply (c : Fin 1024)
  /-- SIEVE_GUARD_CFG_WRITE (R301): A write of SIEVE_CH_GUARD that sets TEST enters GUARD. -/
  | sieveGuardCfgWrite (c : Fin 1024) (v : Word)
  /-- SIEVE_BURST_WRITE (R310): A DOWN burst write begins once its last input sample has arrived. -/
  | sieveBurstWrite (c : Fin 1024)
  /-- SIEVE_BURST_ACK (R311): An acknowledged burst completes a notify group and sends a decrement or lapse token. -/
  | sieveBurstAck (c : Fin 1024)
  /-- SIEVE_BURST_LATE (R312): A burst that would begin at or after its deadline is not started. -/
  | sieveBurstLate (c : Fin 1024)
  /-- SIEVE_SWEEP (R313): At a sweep the unstarted bursts of the window are not started. -/
  | sieveSweep (group : Fin 64) (wtag : Fin 16)
  /-- SIEVE_UP_READY (R314): A write of SIEVE_CH_UP_READY sets the running count of ready samples. -/
  | sieveUpReady (c : Fin 1024) (v : Word)
  /-- SIEVE_UP_OUTPUT_REQUEST (R314): A sink's output-ready request starts an UP burst. -/
  | sieveUpOutputRequest (c : Fin 1024)
  /-- SIEVE_UP_BURST_SKIP (R314): An UP burst not started by its deadline is skipped. -/
  | sieveUpBurstSkip (c : Fin 1024)
  /-- MEMORY_READ (R347): A read of protected memory decodes its words and delivers data with marks. `n` whole words from the word-aligned address. -/
  | memoryRead (mid : Mid) (addr n wait : Nat) (via : ReadVia)
  /-- MEMORY_WRITE (R349): A full-word write stores a fresh clean or poisoned codeword. A write, and the one of port 1 that is granted in the same cycle. -/
  | memoryWrite (r : WriteReq) (other : Option WriteReq)
  /-- RMW_WRITE (R350): A narrow write is completed by read-modify-write. A narrow write, and the one of port 1 that is granted in the same cycle. -/
  | rmwWrite (r : NarrowReq) (other : Option NarrowReq)
  /-- GRANARY_BANK_POWER_REQUEST (R328): A request to change a bank's power state is accepted into a transitional state or refused. The value written to GRANARY_BANK_PWR. -/
  | granaryBankPowerRequest (bank : Fin 64) (v : Word)
  /-- GRANARY_BANK_TRANSITION_END (R328): A bank completes its move to RETENTION, OFF or ON. -/
  | granaryBankTransitionEnd (bank : Fin 64)
  /-- GRANARY_BANK_FILL_END (R352): A bank leaving OFF completes its self-test and fill. -/
  | granaryBankFillEnd (bank : Fin 64) (checkerOk : Bool)
  /-- GRANARY_POOL_ENABLE (R336): A write of ENABLE = 1 enables a pool or is refused. The value written to GRANARY_POOL_CFG. -/
  | granaryPoolEnable (pool : Fin 128) (v : Word)
  /-- GRANARY_POOL_DISABLE (R336): A write of ENABLE = 0 disables a pool or is refused BUSY. -/
  | granaryPoolDisable (pool : Fin 128) (v : Word)
  /-- GRANARY_POOL_TAKE (R337): A take-once read returns and takes the head buffer's token, or zero. -/
  | granaryPoolTake (pool : Fin 128)
  /-- GRANARY_POOL_RELEASE (R338): A token written to GRANARY_POOL_RELEASE returns its buffer or is refused. -/
  | granaryPoolRelease (pool : Fin 128) (token : Word)
  /-- POOL_SWEEP_RETURN (R339): At a sweep every held stamped token of the window is returned. -/
  | poolSweepReturn (group : Fin 64) (wtag : Fin 16)
  /-- POOL_FAULT (R341): An unresolvable voting disagreement in a pool sets FAULT and refuses takes. -/
  | poolFault (pool : Fin 128)
  /-- ECC_INJECT (R359): GO performs one injection into a stored codeword or is refused. The value written to ECC_INJECT_CTRL. -/
  | eccInject (v : Word)
  /-- ECCLOG_POP (R360): A write to ECCLOG_POP retires the oldest log entry. -/
  | ecclogPop
  /-- ECCLOG_FLUSH (R360): FLUSH discards every log entry. The value written to ECCLOG_CTRL. -/
  | ecclogFlush (v : Word)
  /-- HARROW_START (R361): START accepts a Harrow test of a bank or hamlet, or refuses it. The value written to HARROW_CMD; whether a hamlet's checkers pass. -/
  | harrowStart (v : Word) (checkerOk : Bool)
  /-- HARROW_TEST_END (R365): A Harrow test ends with PASS, REPAIRED or UNREPAIRABLE and leaves the target accordingly. -/
  | harrowTestEnd (fails : List FailRow)
  /-- GLEANER_REGION_START (R366): At each interval an agent borrows, tests and restores its next region. -/
  | gleanerRegionStart (mem : Fin 8) (inst : Fin 256) (faults : List CellFault) (stop : GleanStop)
  /-- GLEANER_YIELD (R368): Another access to a borrowed region makes the agent restore and yield. -/
  | gleanerYield (mem : Fin 8) (inst : Fin 256) (mid : Mid)
  /-- PACKET_INJECT (R386): A source NI checks the deadline, issues a slot and injects a packet, or answers it itself. -/
  | packetInject (ni : Fin 256) (q : PacketReq)
  /-- ROUTER_HEAD_ARRIVAL (R386): A head flit arrives at a router, is checked for deadline and forwarded or absorbed. The packet, by its number in the order of injection. -/
  | routerHeadArrival (k : Nat)
  /-- PACKET_EJECT (R387): An attach router ejects a request to its local port and starts its timer. -/
  | packetEject (k : Nat)
  /-- ANSWER_ARRIVAL (R375): An answer reaches the source NI and returns its request slot, or counts as STRAY. -/
  | answerArrival (k : Nat)
  /-- TARGET_TIMEOUT (R387): A request unanswered or unaccepted for 4 µs makes the port DEAD. Local port L`l` of router `r`. -/
  | targetTimeout (r : Fin 64) (l : Fin 4)
  /-- PORT_REVIVE (R388): REVIVE returns a DEAD port to OPEN or is refused. -/
  | portRevive (r : Fin 64) (p : Fin 8)
  /-- PORT_CLOSE (R390): CLOSE marks every NI's entry closed and makes the port CLOSING. -/
  | portClose (r : Fin 64) (p : Fin 8)
  /-- PORT_DRAINED (R390): A CLOSING port whose requests are all answered and buffers empty becomes CLOSED. -/
  | portDrained (r : Fin 64) (l : Fin 4)
  /-- PORT_OPEN (R390): OPEN returns a closed port to OPEN and clears the CLOSED marks. -/
  | portOpen (r : Fin 64) (p : Fin 8)
  /-- PORT_DISABLE (R389): DISABLE makes a mesh port DISABLE_PENDING or is refused. The value written to COMMONS_RTR_PORT_CTRL. -/
  | portDisable (r : Fin 64) (p : Fin 8) (v : Word)
  /-- PORT_DISABLE_COMPLETE (R389): A DISABLE_PENDING port becomes DISABLED when its epoch is current and older epochs are empty. -/
  | portDisableComplete (r : Fin 64) (p : Fin 4)
  /-- PORT_ENABLE (R389): ENABLE returns a disabled or pending mesh port to OPEN. -/
  | portEnable (r : Fin 64) (p : Fin 8)
  /-- ROUTE_ENTRY_STAGE (R380): A write of ROUTE_A or ROUTE_B stages an entry or is refused. `b`: ROUTE_B is written, else ROUTE_A. -/
  | routeEntryStage (n d : Fin 256) (b : Bool) (v : Word)
  /-- ROUTE_ADVANCE (R380): ADVANCE starts an epoch with the staged entries or is refused. -/
  | routeAdvance
  /-- ROUTE_DISCARD_STAGE (R397): DISCARD_STAGE discards the staged entries. -/
  | routeDiscardStage
  /-- BARRIER_ARRIVE (R393): A write to COMMONS_BAR_ARRIVE sends a BARRIER flit toward the root. The source NI of the write. -/
  | barrierArrive (b : Fin 32) (ni : Fin 256)
  /-- BARRIER_RELEASE (R393): When every NI of the mask has arrived the generation increments and a release reaches every NI. `parish`: every other member's part of the barrier is complete (R393). -/
  | barrierRelease (b : Fin 32) (parish : Bool)
  /-- BARRIER_BCAST (R394): A write to COMMONS_BAR_BCAST sends a value along the release path. -/
  | barrierBcast (b : Fin 32) (v : Word)
  /-- PROBE_POP (R397): A write to PROBE_POP retires the oldest trace record. -/
  | probePop (k : Fin 32)
  /-- TALLY_SNAP_ARM (R407): A write of TALLY_SNAP_ARM arms a snapshot or refuses it. The value written; or the instant and address of a broadcast that reaches this member from member 0 (R411). -/
  | tallySnapArm (v : Word) (bcast : Option (Nat × Nat))
  /-- TALLY_SNAPSHOT_CAPTURE (R408): At the instant every slice captures its counters before other actions of the tick. -/
  | tallySnapshotCapture
  /-- TALLY_READOUT_END (R410): The readout writes every record and the trailer and reports DONE with its status. A parish member did not acknowledge in time (R411). -/
  | tallyReadoutEnd (leftOut : Bool)
  /-- TALLY_READOUT_ERROR (R410): A buffer write answered with an error stops the readout without a trailer. On a parish member: the error answer of member 0's memory. -/
  | tallyReadoutError (remote : Option AnsStatus)
  /-- TALLY_PEEK (R412): A write of TALLY_PEEK_ID snapshots one ledger 2 µs later. -/
  | tallyPeek (v : Word)
  /-- TALLY_PEEK_VALUES (R412): The peeked values appear and PEEK_VALID sets. -/
  | tallyPeekValues
  /-- TALLY_FAULT (R402): A ledger with no agreeing copies or out of bounds becomes UNRECONCILED and raises TALLY_FAULT. No two copies of ISSUED (or RETURNED) of the ledger's slice at the place agree. -/
  | tallyFault (id : Fin 4096) (place : Fin 49) (ret : Bool)
  /-- TALLY_VOTE_CORRECT (R402): A disagreeing counter copy is rewritten from the other two. One copy disagrees with the other two. -/
  | tallyVoteCorrect (id : Fin 4096) (place : Fin 49) (ret : Bool)
  /-- CARTER_START_LOOSE (R417): START with PLANNED = 0 begins a loose run at HEAD, or is refused. The channel by its global number; the value written to CARTER_CH_CTRL. -/
  | carterStartLoose (g : Fin 192) (v : Word)
  /-- CARTER_START_PLANNED (R419): START with PLANNED = 1 consumes the planned list into a windowed run, or is dropped. -/
  | carterStartPlanned (g : Fin 192) (v : Word)
  /-- CARTER_STOP (R427): STOP ends a running run ABORTED unless its end is already decided. -/
  | carterStop (g : Fin 192)
  /-- CARTER_DESC_FETCH (R416): A fetched descriptor is checked and becomes current, fails BAD_DESC, or halts the channel. -/
  | carterDescFetch (g : Fin 192)
  /-- CARTER_BURST (R420): A channel issues one burst of up to 4 KiB. -/
  | carterBurst (g : Fin 192)
  /-- CARTER_BURST_ANSWER (R430): A burst answer returns its bytes to the ledger or decides a failure status. The place of the burst among those outstanding. -/
  | carterBurstAnswer (g : Fin 192) (i : Fin 8) (a : BurstAnswer)
  /-- CARTER_DESC_DEADLINE_LAPSE (R425): A descriptor whose deadline has passed before a burst ends LAPSED. -/
  | carterDescDeadlineLapse (g : Fin 192)
  /-- CARTER_DESC_END (R422): When every burst is answered the descriptor writes WB, returns bytes and sends its token. -/
  | carterDescEnd (g : Fin 192)
  /-- CARTER_CHAIN_HALT (R424): A fetch, WB, poison, next-word or chain-limit failure halts the channel. -/
  | carterChainHalt (g : Fin 192)
  /-- CARTER_RUN_END (R428): A run ends, the channel becomes IDLE, its result is placed and END sets. -/
  | carterRunEnd (g : Fin 192)
  /-- CARTER_SWEEP (R426): At a sweep every run of the window ends LAPSED and pending fetches are discarded. -/
  | carterSweep (group : Fin 64) (wtag : Fin 16)
  /-- CARTER_RESULT_TAKE (R428): A 64-bit read takes the run result once, or returns the stale record. `wide`: one 64-bit access. -/
  | carterResultTake (g : Fin 192) (wide : Bool)
  /-- QUAD_CFG_WRITE (R433): A write of QUAD_CFG changes rate only while every lane of the quad is OFF. -/
  | quadCfgWrite (q : Fin 12) (v : Word)
  /-- LANE_CFG_WRITE (R432): A write of LANE_CFG assigns a lane to an owner and test patterns. -/
  | laneCfgWrite (l : Fin 48) (v : Word)
  /-- EWL_ENABLE (R441): Writing EN = 1 starts transmission and hunting, or sets LANE_CONFLICT. The value written to EWL_CFG, with EN = 1. -/
  | ewlEnable (k : Fin 6) (v : Word)
  /-- EWL_DISABLE (R441): Writing EN = 0 puts the link in DISABLED. -/
  | ewlDisable (k : Fin 6) (v : Word)
  /-- EWL_BLOCK_RECEIVE (R436): A 66-bit block is received, checked for sync header and type, and handled. The lane, the sync header, the payload as it arrives (scrambled), and whether the elastic buffer is above its upper mark. -/
  | ewlBlockReceive (l : Fin 48) (hdr : BitVec 2) (raw : DWord) (fullBuf : Bool)
  /-- BLOCK_LOCK_GAIN (R441): After 64 valid sync headers a lane gains block lock. -/
  | blockLockGain (l : Fin 48)
  /-- BLOCK_LOCK_LOSS (R441): After 16 invalid headers within 64 blocks a lane loses block lock. -/
  | blockLockLoss (l : Fin 48)
  /-- MARKER_RECEIVE (R438): A MARKER is received, checked for BIP8 and used for lane mapping, deskew and state. The payload of a MARKER, and the largest skew between the link's lanes that it shows, in blocks. -/
  | markerReceive (l : Fin 48) (payload : DWord) (skew : Nat)
  /-- MARKER_LOCK_LOSS (R441): 4 marker positions without a valid MARKER lose marker lock. -/
  | markerLockLoss (l : Fin 48)
  /-- EWL_LINK_DOWN (R445): A link leaving UP discards its flits and answers outstanding requests DEAD_TARGET. -/
  | ewlLinkDown (k : Fin 6)
  /-- EWL_SILENT (R442): A link not UP for 10 ms sets SILENT. -/
  | ewlSilent (k : Fin 6)
  /-- MARKER_SEND (R437): Every 16,384 blocks the transmitter sends a MARKER on every lane, followed by TIME blocks. BIP8 of each link lane since its last MARKER. -/
  | markerSend (k : Fin 6) (bips : List Byte)
  /-- CHAFF_SEND (R439): Every CHAFF_P64 × 64 blocks the transmitter sends a chaff set. -/
  | chaffSend (k : Fin 6)
  /-- CHAFF_INSERT (R440): Below its lower mark the elastic buffer inserts a chaff set. -/
  | chaffInsert (k : Fin 6)
  /-- EWL_FLIT_RECEIVE (R444): A flit arrives, is CRC-checked and enters the Commons or is forwarded or dropped. -/
  | ewlFlitReceive (k : Fin 6) (f : EwlFlit)
  /-- EWL_CREDIT_RECEIVE (R443): A CREDIT block returns flit credits to the transmitter. -/
  | ewlCreditReceive (k : Fin 6) (payload : DWord)
  /-- EWL_REQUEST_TIMEOUT (R447): A forwarded request unanswered for 3.5 µs is answered DEAD_TARGET and may mark the member REMOTE_DEAD. The place of the request among those forwarded. -/
  | ewlRequestTimeout (i : Nat)
  /-- EWL_MEMBER_REVIVE (R447): REVIVE clears REMOTE_DEAD of a member. -/
  | ewlMemberRevive (d : Fin 8)
  /-- EWL_TIME_RECEIVE (R450): TIME blocks update the link offset and delay and feed the DPLL. -/
  | ewlTimeReceive (k : Fin 6) (payload : DWord)
  /-- EWL_STREAM_RECEIVE (R452): A STREAM burst is handed to the Sieve as one block or discarded. The STREAM block and the samples of its burst. -/
  | ewlStreamReceive (k : Fin 6) (payload : DWord) (x : List Sample)
  /-- EWL_STREAM_SEND (R453): A transmit stream raises output-ready and sends a whole burst. -/
  | ewlStreamSend (st : Fin 64)
  /-- PRBS_CHECK_LOCK (R454): A PRBS checker locks after 64 error-free bits and relocks after 8 errors in 64. Received bits: true where a bit is in error. -/
  | prbsCheckLock (l : Fin 48) (bits : List Bool)
  /-- MARGIN_START (R455): START runs one margin measurement. -/
  | marginStart (l : Fin 48) (v : Word)
  /-- MARGIN_END (R455): A margin measurement ends and its result is DONE. UIs of disagreement. -/
  | marginEnd (l : Fin 48) (n : Nat)
  /-- LANE_RECAL (R595): RECAL restarts a lane's receiver from its power-up settings. -/
  | laneRecal (l : Fin 48)
  /-- LANE_RECAL_END (R595): The recalibrated lane regains CDR lock and BUSY clears. -/
  | laneRecalEnd (l : Fin 48)
  /-- MARKET_PORT_ENABLE (R459): EN = 1 starts a port into training or LINK_WAIT, or sets CFG_ERR. The value written to MARKET_PORT_CFG. -/
  | marketPortEnable (p : Fin 32) (v : Word)
  /-- MARKET_PORT_RETRAIN (R460): RETRAIN restarts training of that port only. The value written to MARKET_PORT_CFG. -/
  | marketPortRetrain (p : Fin 32) (v : Word)
  /-- TRAINING_COMPLETE (R459): Link training completes and the port enters LINK_WAIT. -/
  | trainingComplete (p : Fin 32)
  /-- TRAINING_TIMEOUT (R460): The max_wait_timer expires and training restarts. -/
  | trainingTimeout (p : Fin 32)
  /-- PCS_LOCK (R459): With block lock, alignment and FEC lock the port becomes UP. -/
  | pcsLock (p : Fin 32)
  /-- PCS_LOCK_LOSS (R459): A port losing PCS lock goes back to training or LINK_WAIT. -/
  | pcsLockLoss (p : Fin 32)
  /-- FRAME_RECEIVE (R464): A received frame passes checks, MACsec and classification and takes its ACTION. -/
  | frameReceive (p : Fin 32) (f : RxFrame)
  /-- LANDING_WRITES_ANSWERED (R470): When a section's or frame's writes are answered its notify counter rises and may send a decrement. The place of the landing among those whose writes are outstanding. -/
  | landingWritesAnswered (i : Nat)
  /-- NOTIFY_DEADLINE (R470): A notify set not reaching EXPECT by DEADLINE sends a lapse token. -/
  | notifyDeadline (g : Fin 64) (w : Fin 16) (nset : Fin 128) (sym : Fin 14)
  /-- LANDING_QUEUE_PUSH (R472): The token write to a landing queue is answered, PROD increments and the interrupt rises. -/
  | landingQueuePush (q : Fin 64)
  /-- LQ_CONS_WRITE (R472): A write of CONS advances the consumer unless it passes PROD. -/
  | lqConsWrite (q : Fin 64) (v : Word)
  /-- STREAM_TX_BURST (R475): A transmit stream sends a burst as packets from its template. -/
  | streamTxBurst (st : Fin 64)
  /-- EGRESS_OPEN (R476): An EGRESS entry without doorbell becomes ready at OPEN. -/
  | egressOpen (g : Fin 64) (w : Fin 16) (index : Fin 4096)
  /-- MARKET_TX_READY (R476): A doorbell write makes its EGRESS entry ready or is counted late or unplanned. -/
  | marketTxReady (v : Word)
  /-- EGRESS_START (R477): At a frame boundary the port starts the ready entry with the earliest CLOSE. -/
  | egressStart (p : Fin 32)
  /-- EGRESS_WITHHOLD (R477): At CLOSE an entry that cannot finish in time is withheld. -/
  | egressWithhold (g : Fin 64) (w : Fin 16) (index : Fin 4096)
  /-- FRAME_DEPARTURE (R461): A frame leaves the ball, frees its cells and may release its pool token. -/
  | frameDeparture (p : Fin 32)
  /-- MARKET_TXQ_PUSH (R494): A push queues a host transmit descriptor or is ignored with TXQ_FULL. -/
  | marketTxqPush (t : Fin 16) (v : Word)
  /-- HOST_FRAME_SEND (R488): A host descriptor's frame is sent, with one-step insertion and capture as requested. -/
  | hostFrameSend (t : Fin 16)
  /-- MARKET_TS_POP (R494): A write to MARKET_TS_POP retires the oldest capture. -/
  | marketTsPop (p : Fin 32) (v : Word)
  /-- MARKET_TS_CAP3_READ (R494): A read of MARKET_TS_CAP3 clears TS_OVERFLOW. -/
  | marketTsCap3Read (p : Fin 32)
  /-- MARKET_PORT_STATUS_READ (R494): A read of MARKET_PORT_STATUS clears TXQ_FULL. -/
  | marketPortStatusRead (p : Fin 32)
  /-- MARKET_SWEEP (R480): At a sweep the window's planned entries and frames are discarded. -/
  | marketSweep (g : Fin 64) (w : Fin 16)
  /-- SYNCE_SQUELCH (R493): A SyncE output is driven low while its port or lane is down or SQUELCH is set. -/
  | synceSquelch (k : Fin 2)
  /-- PCIE_LINK_UP (R498): The PCIe link reaches L0. -/
  | pcieLinkUp (speed : Fin 8) (width : Fin 32)
  /-- HOST_CONFIG_REQUEST (R498): A configuration request is answered with retry, normally or Unsupported Request by boot state. -/
  | hostConfigRequest (fn : Fin 256) (r : ConfigReq)
  /-- HOST_MEMORY_READ (R500): A host read decoded by a BAR enters the Commons and completes by the answer. The function, BAR, offset and bytes, and the words that a Coppice personality would return. -/
  | hostMemoryRead (fn : Fin 256) (bar : Fin 6) (off n : Nat) (ext : List PWord)
  /-- HOST_MEMORY_WRITE (R500): A host posted write is forwarded in order or dropped. The function, BAR and offset, and the bytes written; the EP bit. -/
  | hostMemoryWrite (fn : Fin 256) (bar : Fin 6) (off : Nat) (bytes : List Byte) (ep : Bool) (o : Outside)
  /-- HOST_DOORBELL_WRITE (R503): A doorbell write is forwarded to its bound register or dropped. The size of the write in bytes. -/
  | hostDoorbellWrite (fn : Fin 256) (d : Fin 16) (v : Word) (bytes : Nat) (o : Outside)
  /-- HOST_DB_BIND_WRITE (R503): A bind is accepted unless it names a protected block. -/
  | hostDbBindWrite (fn : Fin 128) (d : Fin 16) (v : Word)
  /-- HOST_FN_WIN_WRITE (R504): A function window is enabled only within the Granary or Cellar. -/
  | hostFnWinWrite (fn : Fin 128) (v : Word)
  /-- HOST_OB_MAP_WRITE (R505): A write to HOST_OB_MAP changes mapping for later requests. -/
  | hostObMapWrite (r : Fin 64) (hi : Bool) (v : Word)
  /-- OUTBOUND_REQUEST (R506): A device request to the host outbound window is sent or refused. -/
  | outboundRequest (addr : Nat) (q : OutboundReq)
  /-- OUTBOUND_COMPLETION (R506): A host completion answers its outbound read, or is discarded when late. The place of the read among those outstanding. -/
  | outboundCompletion (i : Nat) (c : HostCpl)
  /-- OUTBOUND_TIMEOUT (R506): An outbound read without completion for 3.5 µs is answered ABORTED. -/
  | outboundTimeout (i : Nat)
  /-- HOST_INTERRUPT_SEND (R507): A routed source sends its MSI-X vector. -/
  | hostInterruptSend (src : Fin 512)
  /-- HCQ_FILL (R508): The host interface takes a source value into a free HCQ entry and sends the vector. Whether the write of the entry fails. -/
  | hcqFill (src : Fin 512) (lost : Bool)
  /-- HCQ_HEAD_WRITE (R508): A head write frees HCQ entries or is dropped. -/
  | hcqHeadWrite (fn : Fin 256) (h : Fin 128) (v : Word)
  /-- FUNCTION_LEVEL_RESET (R511): An FLR or VF Enable clear stops the function's doorbells, queues and outbound requests. A function level reset of the function, or a clearing of its VF Enable. -/
  | functionLevelReset (fn : Fin 256) (vfs : Bool)
  /-- PF2_VF_ENABLE (R510): VF Enable on PF2 puts the VFs in RETRY or ABSENT. -/
  | pf2VfEnable
  /-- PF2_VF_PRESENT (R510): A RETRY VF whose stools are all loaded becomes PRESENT. -/
  | pf2VfPresent (v : Fin 16)
  /-- PF2_WINDOW_EXPIRY (R510): WINDOW_MS after VF Enable a RETRY VF becomes ABSENT. -/
  | pf2WindowExpiry (v : Fin 16)
  /-- PERST_ASSERT (R564): PERST# resets only the host interface. -/
  | perstAssert
  /-- COPPICE_LOAD_BEGIN (R527): BEGIN opens a load or is refused. -/
  | coppiceLoadBegin
  /-- COPPICE_LOAD_END (R527): END before LENGTH bytes ends the load STREAM_SHORT. -/
  | coppiceLoadEnd
  /-- COPPICE_LOAD_ABORT (R531): ABORT ends a running load ABORTED unless its release is decided. -/
  | coppiceLoadAbort
  /-- COPPICE_CFG_DATA_WRITE (R527): A write to the configuration window appends stream bytes, or waits for room, or is discarded. The bytes, each with its word's poison mark, and whether every byte enable is set. -/
  | coppiceCfgDataWrite (mid : Mid) (bytes : List (Nat × Bool)) (whole : Bool)
  /-- COPPICE_ERASE_END (R529): Target stools finish isolation and erase. -/
  | coppiceEraseEnd
  /-- COPPICE_FRAME_WRITE (R530): A buffered frame is checked and written to configuration memory, or ends the load. -/
  | coppiceFrameWrite
  /-- COPPICE_LOAD_TIMEOUT (R527): No data for LOAD_TIMEOUT ms ends the load STREAM_SHORT. -/
  | coppiceLoadTimeout
  /-- COPPICE_TRAILER_CHECK (R532): The trailer CRC is checked and a signature check requested. -/
  | coppiceTrailerCheck
  /-- COPPICE_SIGNATURE_VERIFIED (R532): The Strongroom ends its key and signature check for the load. -/
  | coppiceSignatureVerified
  /-- COPPICE_RELEASE (R533): The shell starts clocks, resets and opens each target, which becomes LOADED. -/
  | coppiceRelease
  /-- STOOL_QUIESCE (R521): QUIESCE closes a LOADED stool's gate and drains it. -/
  | stoolQuiesce (k : Fin 16)
  /-- STOOL_OPEN (R521): OPEN reopens a QUIESCED stool. -/
  | stoolOpen (k : Fin 16)
  /-- STOOL_CLEAR (R521): CLEAR drains and erases a stool to FALLOW. -/
  | stoolClear (k : Fin 16)
  /-- STOOL_USER_RESET (R521): USER_RESET holds the personality's user reset for 16 cycles. -/
  | stoolUserReset (k : Fin 16)
  /-- STOOL_DRAIN_END (R522): A closing gate's drain ends with no request or block outstanding. -/
  | stoolDrainEnd (k : Fin 16)
  /-- STOOL_CLEAR_END (R529): A CLEARING stool finishes erase and becomes FALLOW. -/
  | stoolClearEnd (k : Fin 16)
  /-- STOOL_REQUEST_TIMEOUT (R516): A request to a stool unanswered for 3.5 µs is answered ABORTED by the shell. The request, by its packet's number. -/
  | stoolRequestTimeout (p : Nat)
  /-- STOOL_REQUEST_CHECK (R517): A stool's request is checked against its windows and refused if it fails. `store`: a write or an atomic. -/
  | stoolRequestCheck (k : Fin 16) (store : Bool) (addr n : Nat)
  /-- STOOL_BLOCK_TIMEOUT (R518): A block not taken by a stool within 3.5 µs is acknowledged and discarded. -/
  | stoolBlockTimeout (k : Fin 16)
  /-- STOOL_IRQ_EDGE (R519): A rising edge of a stool interrupt line raises one interrupt. -/
  | stoolIrqEdge (k : Fin 16) (line : Fin 8)
  /-- UCLK_CFG_WRITE (R520): A user clock change is refused while used, or stops the clock briefly. -/
  | uclkCfgWrite (k : Fin 8) (v : Word)
  /-- UCLK_LOCKED (R520): A changed user clock reaches its frequency and LOCKED sets. -/
  | uclkLocked (k : Fin 8)
  /-- COPPICE_READBACK_SELECT (R626): A write of COPPICE_READBACK selects a frame of a loaded stool for reading. -/
  | coppiceReadbackSelect (v : Word)
  /-- STRONG_Q_PROD_WRITE (R541): The bound MID advances a queue's producer index, or the write is refused. -/
  | strongQProdWrite (mid : Mid) (q : Fin 8) (v : Word)
  /-- STRONG_DESCRIPTOR_END (R541): A descriptor's result is written, CONS advances and the interrupt rises. -/
  | strongDescriptorEnd (q : Fin 8)
  /-- DIGEST (R547): DIGEST hashes the source. -/
  | digest (q : Fin 8)
  /-- HMAC (R547): HMAC computes a tag with a key. -/
  | hmac (q : Fin 8)
  /-- GCM_ENC (R547): GCM_ENC encrypts and tags. -/
  | gcmEnc (q : Fin 8)
  /-- GCM_DEC (R547): GCM_DEC decrypts and checks the tag, zeroing output on failure. -/
  | gcmDec (q : Fin 8)
  /-- ECDSA_SIGN (R547): ECDSA_SIGN signs a digest. -/
  | ecdsaSign (q : Fin 8)
  /-- ECDSA_VERIFY (R547): ECDSA_VERIFY checks a signature. -/
  | ecdsaVerify (q : Fin 8)
  /-- ECDH (R547): ECDH derives a shared secret into a new key. Whether the pairwise-consistency test of a new ECC pair passes (R554). -/
  | ecdh (q : Fin 8) (pairOk : Bool)
  /-- KEYGEN (R547): KEYGEN creates a new key from the DRBG. As for ECDH. -/
  | keygen (q : Fin 8) (pairOk : Bool)
  /-- KDF (R547): KDF derives a new key. As for ECDH. -/
  | kdf (q : Fin 8) (pairOk : Bool)
  /-- WRAP (R547): WRAP exports a key in AES-KWP form. -/
  | wrap (q : Fin 8)
  /-- UNWRAP (R547): UNWRAP imports a wrapped key as a new key. As for ECDH. -/
  | unwrap (q : Fin 8) (pairOk : Bool)
  /-- RANDOM (R547): RANDOM writes DRBG bytes. -/
  | random (q : Fin 8)
  /-- KEY_DESTROY (R547): KEY_DESTROY empties a key slot. -/
  | keyDestroy (q : Fin 8)
  /-- MACSEC_INSTALL (R548): MACSEC_INSTALL pushes a key into a MACsec association. -/
  | macsecInstall (q : Fin 8)
  /-- PDCP_KEY_LOAD (R549): PDCP_KEY_LOAD loads a key into a PDCP context. -/
  | pdcpKeyLoad (q : Fin 8)
  /-- PDCP (R549): PDCP protects or unprotects a PDU. -/
  | pdcp (q : Fin 8)
  /-- VERIFY_IMAGE (R555): VERIFY_IMAGE checks a signed image. -/
  | verifyImage (q : Fin 8)
  /-- AUTH_CO (R542): AUTH_CO checks a response and grants the queue role CO. -/
  | authCo (q : Fin 8)
  /-- BIND_QUEUE (R547): BIND_QUEUE binds a queue to a MID, role and ring. -/
  | bindQueue (q : Fin 8)
  /-- SET_MODE (R539): SET_MODE sets APPROVED_ONLY. -/
  | setMode (q : Fin 8)
  /-- ZEROIZE (R551): ZEROIZE starts zeroization, permanently destroying the DUK when asked. -/
  | zeroize (q : Fin 8)
  /-- REVOKE (R556): REVOKE blows a key slot's revoke bit or is refused. -/
  | revoke (q : Fin 8)
  /-- ROLLBACK (R556): ROLLBACK blows rollback bits up to a count or is refused. -/
  | rollback (q : Fin 8)
  /-- NEW_CHALLENGE (R542): NEW_CHALLENGE draws a fresh challenge. -/
  | newChallenge (v : Word)
  /-- CHALLENGE_EXPIRY (R542): A challenge becomes invalid 60 s after it was drawn. -/
  | challengeExpiry
  /-- DEBUG_RESPONSE_SUBMIT (R553): SUBMIT checks a debug response, zeroizes and opens permissions, or rejects it. -/
  | debugResponseSubmit (v : Word)
  /-- ZEROIZE_PIN (R551): ZEROIZE_N low for 1 µs starts zeroization. -/
  | zeroizePin
  /-- ZEROIZATION_COMPLETE (R551): Zeroization completes and the Strongroom returns to OPERATIONAL when the pin is high. -/
  | zeroizationComplete
  /-- STRONG_RESTART (R557): RESTART reruns the power-up self-tests with an empty key store. -/
  | strongRestart (mid : Mid) (v : Word)
  /-- STRONG_SELFTEST_END (R554): The power-up self-tests end, passing to OPERATIONAL or failing. The index of the failing test in the table of R554, counted from 0. -/
  | strongSelftestEnd (failed : Option (Fin 16))
  /-- ENTROPY_HEALTH_FAIL (R554): A continuous test failure puts the Strongroom in ERROR and zeroizes. -/
  | entropyHealthFail
  /-- RESET_N_RELEASE (R563): The rising edge of RESET_N latches the straps and starts the boot sequence. The levels of STRAP_BOOT, STRAP_SPI and STRAP_I2C, and of STRAP_FAST. -/
  | resetNRelease (straps : Fin 4 × Fin 4 × Fin 4) (fast : Bool)
  /-- FUSE_READ_END (R563): The fuse array is read twice and repairs, remaps and trims are applied. What failed (a PLL, a supply, the fuses) with its DETAIL, and the failed cores of the yield record. -/
  | fuseReadEnd (fault : Option (Fin 3 × Nat)) (bad : List (Fin 16 × Fin 9))
  /-- POWERON_HARROW_END (R563): The power-on Harrow test of every SRAM ends. The memories (MEM, INSTANCE) that are unrepairable, and those whose checker fails. -/
  | poweronHarrowEnd (rows checkers : List (Fin 8 × Fin 256))
  /-- POWERON_FILL_END (R563): Every SRAM is filled and the Hall caches invalidated. -/
  | poweronFillEnd
  /-- LBIST_END (R563): Logic self-test completes. The failing blocks by their NI, and the failing cores. -/
  | lbistEnd (blocks : List (Fin 256)) (bad : List (Fin 16 × Fin 9))
  /-- FLASH_SLOT_READ_END (R561): The ROM finishes reading a flash slot. The bytes that the flash answers from the slot's first on. -/
  | flashSlotReadEnd (bytes : List Nat)
  /-- BOOT_IMAGE_VERIFY (R562): A slot image is verified; a pass starts Hearth firmware, a failure tries the next slot. -/
  | bootImageVerify
  /-- HBM_TRAINING_END (R563): Hearth firmware completes HBM3 training. The lanes repaired, or none where training fails. -/
  | hbmTrainingEnd (stack : Fin 2) (repairs : Option (Fin 256))
  /-- CELLAR_FILL_END (R334): The Cellar fill completes and FILLED sets. -/
  | cellarFillEnd
  /-- BOOT_TIMEOUT (R564): No image verified 880 ms after t0 enters the Crier state. -/
  | bootTimeout
  /-- HEARTH_RELEASE (R565): A write of HEARTH_RELEASE releases Hall cores or hamlets, or is refused. -/
  | hearthRelease (mid : Mid) (v : Word)
  /-- HEARTH_CRIER_ENTER (R567): A firmware write enters the Crier state with cause FIRMWARE. -/
  | hearthCrierEnter (mid : Mid) (v : Word)
  /-- HEARTH_LOCKSTEP_MISMATCH (R567): The Hearth comparator detects a lockstep difference. -/
  | hearthLockstepMismatch
  /-- CRIER_ENTRY (R569): A decided cause writes the record and the device moves to the Crier state. -/
  | crierEntry
  /-- CRIER_UART_LINE (R572): Every second the Crier state sends one UART line. -/
  | crierUartLine
  /-- I2C_WRITE (R573): An I²C write sets the byte pointer. -/
  | i2cWrite (bytes : List Nat)
  /-- I2C_READ (R573): An I²C read returns record bytes from the pointer. The bytes read, and whether SCL then stays low while the target drives SDA. -/
  | i2cRead (n : Nat) (cut : Bool)
  /-- I2C_SCL_TIMEOUT (R573): SCL held low over 35 ms makes the target release SDA. -/
  | i2cSclTimeout
  /-- HEARTH_RCV_DATA_WRITE (R575): A host write stores recovery image bytes in Hearth SRAM. Whether every byte enable is set. -/
  | hearthRcvDataWrite (off : Fin 262144) (bytes : List Nat) (whole : Bool)
  /-- RECOVERY_REBOOT (R575): REBOOT with the key starts a recovery reset. -/
  | recoveryReboot (v : Word)
  /-- SPARE_TAKE (R581): TAKE starts a spare-core takeover or is refused. -/
  | spareTake (h : Fin 16) (v : Word)
  /-- SPARE_TAKEOVER_DONE (R582): The takeover completes and the spare carries the logical identity. -/
  | spareTakeoverDone (h : Fin 16)
  /-- HEARTH_READMIT (R588): A readmission applies failed cores and releases a hamlet's sound cores, or is refused. -/
  | hearthReadmit (mid : Mid) (v : Word)
  /-- UCODE_LOAD (R591): LOAD starts a microcode load into a disabled engine or is refused. The workshop (Kiln, Wheel, Mill) and the engine. -/
  | ucodeLoad (w : Fin 3) (e : Fin 16) (v : Word)
  /-- UCODE_LOAD_END (R591): A microcode load ends, replacing the microcode or failing. -/
  | ucodeLoadEnd (w : Fin 3) (e : Fin 16)
  /-- HEARTH_HANDOVER (R597): GO with the key resets the Hearth pair to take a new firmware image. -/
  | hearthHandover (mid : Mid) (v : Word)
  /-- HANDOVER_END (R597): The handover ends with the new or the old firmware running. -/
  | handoverEnd
  /-- PWR_DOM_ON (R604): An ON request to a power domain is accepted or refused, or withdraws a held OFF. -/
  | pwrDomOn (mid : Mid) (d : Fin 48) (v : Word)
  /-- PWR_DOM_OFF (R604): An OFF request to a power domain is accepted, held or refused. -/
  | pwrDomOff (mid : Mid) (d : Fin 48) (v : Word)
  /-- PWR_HOLD_REDECIDE (R604): A held OFF request is decided again after the last relevant commit instant. -/
  | pwrHoldRedecide (d : Fin 48)
  /-- POWER_DOWN (R606): An accepted power-off stops clocks, folds slices and opens the switches. -/
  | powerDown (d : Fin 48)
  /-- POWER_UP_COMPLETE (R607): An accepted power-up settles supplies, locks PLLs, fills memories and releases units. Whether the checkers of a hamlet pass. -/
  | powerUpComplete (d : Fin 48) (checkerOk : Bool)
  /-- HEARTH_DEVRESET (R609): GO with the key starts a device reset now or arms one at a tick. -/
  | hearthDevreset (mid : Mid) (v : Word)
  /-- TIMED_RESET_INSTANT (R609): At the armed tick the device resets after the other actions of the tick. The members that have acknowledged the broadcast in time. -/
  | timedResetInstant (acked : List (Fin 8))
  /-- UNIT_RESET_HAMLET_CORE (R611): KIND 1 resets one physical hamlet core. -/
  | unitResetHamletCore (v : Word)
  /-- UNIT_RESET_HALL_CORE (R611): KIND 2 resets one Hall core. -/
  | unitResetHallCore (mid : Mid) (v : Word)
  /-- UNIT_RESET_CELLAR (R611): KIND 3 resets and retrains one Cellar controller. -/
  | unitResetCellar (v : Word)
  /-- UNIT_RESET_DONE (R611): A unit reset completes and STATE reads DONE. -/
  | unitResetDone
  /-- THROTTLE_UPDATE (R613): Every 100 µs the throttle level moves by at most one toward its target. VDD_CORE power averaged over 1 ms. -/
  | throttleUpdate (milliwatts : Nat)
  /-- TEMP_SENSOR_UPDATE (R612): Every 1 ms each sensor updates HEARTH_TEMP. The reading in units of 0.25 °C, signed. -/
  | tempSensorUpdate (n : Fin 24) (t : BitVec 10)
  /-- THERMAL_TRIP (R615): A sensor at 125 °C for 100 µs or a catastrophic stack drives THERMTRIP_N and holds reset. A Cellar stack reports a catastrophic temperature. -/
  | thermalTrip (stack : Bool)
  /-- INTERNAL_COLD_RESET (R644): A supply or REFCLK0 excursion holds an internal cold reset. -/
  | internalColdReset
  /-- RESET_N_PULSE (R647): A low pulse of RESET_N of 10 µs or more causes a device reset. Every sensor reads below 105 °C. -/
  | resetNPulse (cool : Bool)
  /-- REEVE_TAP_POP (R629): A write to REEVE_TAP_POP retires the oldest tap record. -/
  | reeveTapPop
  /-- TRACE_EXPORT (R620): The exporter writes a record into the ring and advances PROD after it is answered. -/
  | traceExport (src : Fin 33)
  /-- TRACE_WRITE_ERROR (R621): A ring write answered with an error stops the exporter. The answer: ABORTED, DEAD_TARGET or DOMAIN_CLOSED. -/
  | traceWriteError (src : Fin 33) (status : Fin 3)
  /-- HEARTH_EVENT_ENTRY (R622): A hardware source enters an event into the Hearth queue or drops it. -/
  | hearthEventEntry
  /-- HEARTH_EVT_POP (R629): A write to HEARTH_EVT_POP retires the oldest event entry. -/
  | hearthEvtPop (mid : Mid)
  /-- TELEMETRY_SAMPLE (R623): Every PERIOD_MS firmware publishes a SAMPLE record. -/
  | telemetrySample (milliwatts : Nat)
  /-- JTAG_EXTEST (R624): EXTEST drives boundary-scan outputs. What is shifted into the boundary register, and the levels it captures. -/
  | jtagExtest (shifted pins : Nat)
  /-- JTAG_SAMPLE_PRELOAD (R624): SAMPLE/PRELOAD captures and preloads the boundary register. -/
  | jtagSamplePreload (shifted pins : Nat)
  /-- JTAG_IDCODE (R624): IDCODE returns 0x35C0_8567. -/
  | jtagIdcode
  /-- JTAG_CLAMP (R624): CLAMP holds outputs while selecting bypass. -/
  | jtagClamp
  /-- JTAG_HIGHZ (R624): HIGHZ places outputs in high impedance. -/
  | jtagHighz
  /-- JTAG_BYPASS (R624): BYPASS and unknown codes select the bypass register. 0xFF or any code that names no instruction. -/
  | jtagBypass (code : BitVec 8)
  /-- JTAG_DBG_READ (R625): A DBG_ACCESS read starts a permitted 32-bit read through the Hearth NI. Address bits [39:2]. -/
  | jtagDbgRead (a : BitVec 38)
  /-- JTAG_DBG_WRITE (R625): A DBG_ACCESS write starts a permitted 32-bit write. -/
  | jtagDbgWrite (a : BitVec 38) (v : Word)
  /-- JTAG_DBG_ACCESS_DONE (R625): The answer to a DBG_ACCESS completes it and sets DONE and STATUS. What answers beyond the device and its memories. -/
  | jtagDbgAccessDone (given : Answer) (o : Outside)
  /-- DBG_HALT_REQ (R627): HALT_REQ halts the core at the next sheaf boundary. -/
  | dbgHaltReq (core : Fin 160)
  /-- DBG_RESUME (R627): RESUME restarts a debug-halted core. -/
  | dbgResume (core : Fin 160)
  /-- DBG_STEP (R627): STEP issues one sheaf and halts again. -/
  | dbgStep (core : Fin 160)
  /-- DBG_REG_READ (R627): DBG_REG_SEL with WRITE = 0 copies a register and its tag into DBG_REG_DATA. The value written to DBG_REG_SEL. -/
  | dbgRegRead (core : Fin 160) (v : Word)
  /-- DBG_REG_WRITE (R627): DBG_REG_SEL with WRITE = 1 writes DBG_REG_DATA into a register with its tag. -/
  | dbgRegWrite (core : Fin 160) (v : Word)
  /-- DPLL_FORCE_HOLD (R598): A write of FORCE_HOLD or DPLL_EN in STEEPLE_CTRL puts the DPLL into or out of HOLDOVER or free run. The value written to STEEPLE_CTRL. -/
  | dpllForceHold (v : Word)
  /-- ZEROIZE_N_RELEASE (R551): ZEROIZE_N going high after zeroization has completed returns the Strongroom from ZEROIZING to OPERATIONAL. -/
  | zeroizeNRelease
  /-- PCIE_LINK_DOWN (R506): The PCIe link leaves L0, after which outbound requests are refused and host completion queues stop filling. -/
  | pcieLinkDown
  /-- REQUESTER_COMPLETION_TIMEOUT (R506): The PCIe requester completion timeout of an unanswered outbound read expires and frees its tag. -/
  | requesterCompletionTimeout (i : Nat)
  /-- CELLAR_STACK_TEMP_REPORT (R332): An HBM stack reports a temperature that crosses 85 °C, which doubles refresh or returns it to the base rate and updates REFRESH_X2. In °C. -/
  | cellarStackTempReport (stack : Fin 2) (t : BitVec 8)
deriving DecidableEq, Repr

end Sys2Proof
end

