-- ==== Sys2Proof/Decode.lean ====
section
/-! DEFINITION. Decode.lean: commands that a word spells by the bits of the operation table. No row of the table gives
bits, so no word spells a command. -/

namespace Sys2Proof

/-- The command that word `w` of `nbits` bits spells by the table: none, for the table gives no row bits. -/
def decodeTableWord (nbits w : Nat) : Option Instr :=
  match nbits, w with
  | _, _ => none

end Sys2Proof
end

