-- ==== Sys2Proof/Config.lean ====
section
/-! DEFINITION. Config.lean: what the spec leaves to a device, to a standard it only names, or open: constants without a
body, so that no proof can see a value of them.
Choices of the model: log entries 3 (DESIGN CHOICE), 9 (PRESUMED). -/

namespace Sys2Proof.Config

/-- A value the spec leaves open, drawn by the model's own counter. -/
opaque freeValue : Nat → Nat

/-! ## Quern: fp32 results whose order of roundings R176 does not give -/

/-- The fp32 evaluation of `init ± Σ aᵢ·bᵢ` over complex elements (bits of real and imaginary parts); `sub` takes the
sum from `init`. -/
opaque quernDot (sub : Bool) (init : Nat × Nat) (terms : List ((Nat × Nat) × (Nat × Nat))) : Nat × Nat
/-- The fp32 evaluation of a complex quotient. -/
opaque quernDiv (num den : Nat × Nat) : Nat × Nat
/-- The fp32 elements of qinv (64) by elimination with partial pivoting, row by row. -/
opaque quernInv (x : List (Nat × Nat)) : List (Nat × Nat)
/-- The first column at which qinv replaces a pivot. -/
opaque quernInvPivot (x : List (Nat × Nat)) : Option (Fin 8)
/-- The fp32 elements of Q and R of qqr (64 each). -/
opaque quernQr (x : List (Nat × Nat)) : List (Nat × Nat) × List (Nat × Nat)
/-- The 16-bit half that a NaN becomes in a c16 result; R177 states none. -/
opaque quernNanHalf : Nat → Nat

/-! ## Kiln: tables of TS 38.212 and TS 36.212, which the spec names and does not repeat -/

/-- Shift of column `col` in row `row` of base graph 1 or 2 (`bg2`) for lifting set `ils`, before the reduction modulo Zc;
none where the base graph has a zero. -/
opaque ldpcShift (bg2 : Bool) (ils row col : Nat) : Option Nat
/-- The polar reliability sequence: entry `i` of Q of length 1,024. -/
opaque polarQ : Nat → Nat
/-- The input interleaver of length 164. -/
opaque polarIil : Nat → Nat
/-- Whether the CRC24C of a downlink polar code word starts from 24 ones (as for DCI) or from zeros (as for PBCH): the
job has no field for it. -/
opaque polarOnes (a rnti : Nat) : Bool
/-- The parameters f1 and f2 of the turbo interleaver of length K. -/
opaque turboQpp : Nat → Nat × Nat
/-- One half-iteration of R243 over K positions: systematic, parity and a-priori values, the tail values, the border metrics
of the decoder's own previous half-iteration (empty for the first). The result is the extrinsic values before EXT, the
a-posteriori values, and the border metrics. R243 does not fix the branch metrics' scale. -/
opaque turboHalf (k : Nat) (sys par apr tailS tailP : List Int) (borders : List Int) : List Int × List Int × List Int

/-! ## Wheel and Mill: fp32 results, which R275 and R287 give to an accuracy only; the same inputs give the same outputs
on every engine (R264) -/

/-- The fp32 outputs of one FWD (`inv` false) or INV transform, as bits of real and imaginary parts. -/
opaque wheelTransform (inv : Bool) (n norm : Nat) (shift half : Bool) (binFirst binLen cp : Nat) (x : List (Nat × Nat)) : List (Nat × Nat)
/-- The fp32 powers of one CORR transform. -/
opaque wheelPowers (n norm : Nat) (shift : Bool) (binFirst binLen timeLen : Nat) (x ref : List (Nat × Nat)) : List Nat
/-- The weights and SINR words of one UL_WEIGHTS group, and whether a Cholesky pivot was replaced (R281, R284): COV, NANT,
NL, UNBIAS, H, the covariance elements, and σ². -/
opaque millUl (cov nant nl : Nat) (unbias : Bool) (h k : List (Nat × Nat)) (sigma : Nat) : List (Nat × Nat) × List Nat × Bool
/-- The weights of one DL_WEIGHTS group, whether a pivot was replaced (R284) and whether a norm was below 2^−60 (R283). -/
opaque millDl (colnorm nant nl : Nat) (h : List (Nat × Nat)) (alpha : Nat) : List (Nat × Nat) × Bool × Bool
/-- One layer of one resource element: a row of weights times the antenna samples (R282). -/
opaque millDot (w y : List (Nat × Nat)) : Nat × Nat

/-! ## Sieve -/

/-- Taps 0 to 6 of phases 1 to 63 of the fractional interpolator (R307 bounds them and does not give them). -/
opaque fracTap (f k : Nat) : Int

/-! ## Ewenual Link -/

/-- A quotient of R450 that is not a whole number of 2^-6 ns: R450 gives no rounding. -/
opaque ewlRound (num den : Int) : Int

/-! ## Market -/

/-- Captures that a port's two-step FIFO holds (R489 gives no depth). -/
opaque tsFifoDepth : Nat
/-- The status word of a capture (R494 names it and does not describe it). -/
opaque tsStatus (level : Nat) : Nat

/-! MACsec settings of port `p` that firmware writes in registers whose layout R494 does not give -/

/-- BYPASS_ETYPE (R485). -/
opaque macsecBypass (p : Nat) : List Nat
/-- The SCI is included in the SecTAG (R483). -/
opaque macsecSci (p : Nat) : Bool
/-- An XPN cipher suite, and a 256-bit one (R483). -/
opaque macsecXpn (p : Nat) : Bool
opaque macsec256 (p : Nat) : Bool
/-- PN_WARN (R485). -/
opaque macsecWarn (p : Nat) : Nat

/-! ## Coppice -/

/-- Word `w` of an erased configuration frame (R525 calls it no logic), and of a readback of no frame. -/
opaque coppiceErased (w : Nat) : Nat
opaque coppiceNoFrame (w : Nat) : Nat

/-! ## Strongroom: the algorithms of the standards that R547 to R555 name, over bytes -/

/-- SHA-256 (1), SHA-384 (2), SHA-512 (3). -/
opaque sha (alg : Nat) (m : List Nat) : List Nat
/-- HMAC with SHA-256 (1) or SHA-384 (2). -/
opaque hmac (alg : Nat) (key m : List Nat) : List Nat
/-- GCM of SP 800-38D: ciphertext and tag of a plaintext. -/
opaque gcmEnc (key iv aad m : List Nat) : List Nat × List Nat
/-- GCM: the plaintext, where the tag verifies. -/
opaque gcmDec (key iv aad c tag : List Nat) : Option (List Nat)
/-- ECDSA with a nonce from the DRBG; curve 4 P-256, 5 P-384 (the TYPE of R545). -/
opaque ecdsaSign (curve : Nat) (key digest nonce : List Nat) : List Nat
opaque ecdsaVerify (curve : Nat) (pub digest sig : List Nat) : Bool
/-- The public key of a private key. -/
opaque ecPublic (curve : Nat) (key : List Nat) : List Nat
/-- The shared secret of SP 800-56A. -/
opaque ecdh (curve : Nat) (key peer : List Nat) : List Nat
/-- SP 800-108 counter mode with HMAC-SHA-384: `n` bytes. -/
opaque kdf (key label : List Nat) (n : Nat) : List Nat
/-- AES-KWP of SP 800-38F. -/
opaque kwpWrap (kek key : List Nat) : List Nat
opaque kwpUnwrap (kek blob : List Nat) : Option (List Nat)
/-- Output `i` of the DRBG. -/
opaque drbg (i : Nat) : Nat
/-- The keystream ciphering of NEA algorithm `alg` and the MAC-I of NIA algorithm `alg` (5 to 7 for NIA1 to NIA3). -/
opaque nea (alg : Nat) (key : List Nat) (count bearer : Nat) (dir : Bool) (m : List Nat) : List Nat
opaque nia (alg : Nat) (key : List Nat) (count bearer : Nat) (dir : Bool) (m : List Nat) : List Nat

/-! OTP contents programmed at manufacture from a record outside the spec (R558) -/

opaque otpKeyHash (slot : Nat) : List Nat
opaque otpCoHash : List Nat
opaque otpDebugHash : List Nat
opaque otpDuk : List Nat
/-- 0 OPEN, 1 SECURED, 2 LOCKED. -/
opaque otpLifecycle : Fin 3
/-- The 16 bytes of SERIAL. -/
opaque otpSerial : List Nat

/-- ROM_VERSION of the Kindling ROM (R571). -/
opaque romVersion : Nat

end Sys2Proof.Config
end

