-- ==== Sys2Proof/Machine/Tab.lean ====
section
/-! DEFINITION. Machine/Tab.lean: a table from numbers to values, held as plain data in one canonical form: keys strictly
rising, and no entry equal to the default that an unlisted key reads as. -/

namespace Sys2Proof.Machine

structure Tab (α : Type) where
  entries : List (Nat × α) := []
deriving DecidableEq, Repr, Inhabited

def lookupAt {α : Type} (k : Nat) : List (Nat × α) → Option α
  | [] => none
  | (j, v) :: r => if j = k then some v else lookupAt k r

def eraseAt {α : Type} (k : Nat) : List (Nat × α) → List (Nat × α)
  | [] => []
  | (j, v) :: r => if j = k then eraseAt k r else (j, v) :: eraseAt k r

def insertAt {α : Type} (k : Nat) (v : α) : List (Nat × α) → List (Nat × α)
  | [] => [(k, v)]
  | (j, w) :: r => if k < j then (k, v) :: (j, w) :: r else (j, w) :: insertAt k v r

/-- What key `k` holds; an unlisted key holds the default of the type, which is the reset value. -/
def Tab.get {α : Type} [Inhabited α] (t : Tab α) (k : Nat) : α := (lookupAt k t.entries).getD default

/-- Write key `k`, keeping the canonical form. -/
def Tab.set {α : Type} [DecidableEq α] [Inhabited α] (t : Tab α) (k : Nat) (v : α) : Tab α :=
  let r := eraseAt k t.entries
  ⟨if v = default then r else insertAt k v r⟩

def Tab.modify {α : Type} [DecidableEq α] [Inhabited α] (t : Tab α) (k : Nat) (f : α → α) : Tab α := t.set k (f (t.get k))

/-- Put every key that `p` names back to the default. -/
def Tab.clear {α : Type} (t : Tab α) (p : Nat → Bool) : Tab α := ⟨t.entries.filter (fun e => !p e.1)⟩

/-- Change every listed value (a value that becomes the default is dropped). -/
def Tab.map {α : Type} [DecidableEq α] [Inhabited α] (t : Tab α) (f : Nat → α → α) : Tab α :=
  ⟨(t.entries.map (fun e => (e.1, f e.1 e.2))).filter (fun e => e.2 ≠ default)⟩

def Tab.keys {α : Type} (t : Tab α) : List Nat := t.entries.map Prod.fst

def Tab.filterKeys {α : Type} (t : Tab α) (p : Nat → α → Bool) : List Nat := (t.entries.filter (fun e => p e.1 e.2)).map Prod.fst

def Tab.count {α : Type} (t : Tab α) (p : Nat → α → Bool) : Nat := (t.entries.filter (fun e => p e.1 e.2)).length

def Tab.any {α : Type} (t : Tab α) (p : Nat → α → Bool) : Bool := t.entries.any (fun e => p e.1 e.2)

def risingFrom {α : Type} : Nat → List (Nat × α) → Bool
  | _, [] => true
  | n, (j, _) :: r => decide (n ≤ j) && risingFrom (j + 1) r

/-- The canonical form: keys strictly rising, no listed default. -/
def Tab.wf {α : Type} [DecidableEq α] [Inhabited α] (t : Tab α) : Bool :=
  risingFrom 0 t.entries && t.entries.all (fun e => decide (e.2 ≠ default))

end Sys2Proof.Machine
end

