-- ==== Sys2Proof/Machine/RegFile.lean ====
section
/-! DEFINITION. Machine/RegFile.lean: the memory-mapped registers as one file of fields. A field is its register's
address, its lowest bit, its width and its reset value; a field that nothing has written holds its reset value.
Choices of the model: log entries 2 (DESIGN CHOICE). -/

namespace Sys2Proof.Machine

/-- Access types of R6. -/
inductive Acc where
  | rw | ro | wo | w1c | w1s | rc | to | wl
deriving DecidableEq, Repr, Inhabited

/-- One field of one register: address, lowest bit, width, reset value. -/
structure Fld where
  addr : Nat
  lo : Nat
  w : Nat
  reset : Nat
deriving DecidableEq, Repr, Inhabited

/-- A field as the register tables give it. -/
structure FieldDef where
  lo : Nat
  w : Nat
  acc : Acc
  reset : Nat
deriving DecidableEq, Repr, Inhabited

/-- A register as the tables give it: base address, (count, stride) of each index, size in bytes, fields. -/
structure RegDef where
  name : String
  base : Nat
  dims : List (Nat × Nat)
  bytes : Nat := 4
  fields : List FieldDef
deriving DecidableEq, Repr, Inhabited

def Fld.key (f : Fld) : Nat := f.addr * 64 + f.lo

/-- The fields that do not hold their reset value, by `Fld.key`. -/
structure RegFile where
  tab : Tab (Option Nat) := ⟨[]⟩
deriving DecidableEq, Repr, Inhabited

def RegFile.rd (r : RegFile) (f : Fld) : Nat := ((r.tab.get f.key).getD f.reset) % 2 ^ f.w

def RegFile.wr (r : RegFile) (f : Fld) (v : Nat) : RegFile :=
  let x := v % 2 ^ f.w
  ⟨r.tab.set f.key (if x = f.reset then none else some x)⟩

/-- Put every register from address `a` up to, not including, `b` back to its reset value. -/
def RegFile.clearRange (r : RegFile) (a b : Nat) : RegFile :=
  ⟨r.tab.clear (fun k => decide (a * 64 ≤ k) && decide (k < b * 64))⟩

/-- Local port Ll of router r holds a network interface (R370). -/
def localPresent (r l : Nat) : Bool :=
  let x := r % 8
  let y := r / 8
  l == 0 || (l == 1 && (x == 0 || x == 7 || (decide (r ≤ 54) && decide (y ≠ 7)))) || (l == 2 && (x == 0 || x == 7)) || (l == 3 && r == 0)

/-- NI n is present (R370). -/
def niPresent (n : Nat) : Bool := decide (n < 256) && localPresent (n / 4) (n % 4)

/-- Port p of router r is present: mesh ports N, E, S, W lead to a neighbour, local ports hold an NI (R369, R370). -/
def portPresent (r p : Nat) : Bool :=
  if p = 0 then decide (8 ≤ r) else if p = 1 then decide (r % 8 ≠ 7) else if p = 2 then decide (r < 56)
  else if p = 3 then decide (r % 8 ≠ 0) else localPresent r (p - 4)

/-- Reset values that differ by index: STATE of a router's port is OPEN, or ABSENT (R397); the phase 0 taps of the
fractional interpolator (R307);: GLEANER_INTERVAL of MEM 4 (R368); and the two bound Strongroom queues (R540). -/
def specialReset (addr lo dflt : Nat) : Nat :=
  if addr = 0x41000320 then 1000
  else if addr = 0x42000100 then (if lo = 31 then 1 else if lo = 16 then 0xB1 else dflt)
  else if addr = 0x42000110 then (if lo = 31 then 1 else if lo = 16 then 0xC0 else dflt)
  else if addr = 0x4E001004 then 0x40000000
  else if 0x46010000 ≤ addr ∧ addr < 0x46014000 ∧ 0x20 ≤ addr % 0x100 ∧ addr % 0x100 < 0x40 ∧ lo = 29 then
    (if portPresent ((addr - 0x46010000) / 0x100) (addr % 0x100 / 4 - 8) then 0 else 6)
  else dflt

/-- The offset `off` is that of an instance: the digits of the offset in the strides, largest stride first, lie in their
counts and leave nothing. -/
def matchDims : List (Nat × Nat) → Nat → Bool
  | [], off => off == 0
  | (n, s) :: r, off => decide (off / s < n) && matchDims r (off % s)

/-- The index of the instance at offset `off`. -/
def indexOf : List (Nat × Nat) → Nat → List Nat
  | [], _ => []
  | (_, s) :: r, off => (off / s) :: indexOf r (off % s)

/-- Register `d` has an instance at address `a`. -/
def RegDef.hasAddr (d : RegDef) (a : Nat) : Bool := decide (d.base ≤ a) && matchDims d.dims (a - d.base)

/-- The field of table entry `f` in the instance at address `a`. -/
def FieldDef.at (f : FieldDef) (a : Nat) : Fld := ⟨a, f.lo, f.w, specialReset a f.lo f.reset⟩

/-- A hamlet register is reached in the hamlet window or in its mirror block (R633): both name the same register. -/
def busAddr (a : Nat) : Nat :=
  if 0x60000000 ≤ a ∧ a < 0x70000000 then
    let h := (a - 0x60000000) / 0x01000000
    let o := a % 0x01000000
    if o < 0x100000 then 0x10F00000 + h * 0x01000000 + o else a
  else a

end Sys2Proof.Machine
end

