-- ==== Sys2Proof/Machine/Regs.lean ====
section
/-! DEFINITION. Machine/Regs.lean: the register index of R632 to R636. Every register of the device's register tables,
with its physical address (block base of R631 or R632 plus the offset the chapter gives), the strides of its repeated
indices, and each field's bits, access type (R6) and reset value. The accessors name one field each; the table
`R.all` holds every register for the accesses that go by address. A hamlet register stands at its address in the
hamlet window; its mirror (R633) is folded onto it by `busAddr`.
Choices of the model: log entries 2 (DESIGN CHOICE). -/

namespace Sys2Proof.Machine.R

def STEEPLE_CTRL_STEP : Fld := ⟨0x44000000, 31, 1, 0⟩
def STEEPLE_CTRL_DPLL_EN : Fld := ⟨0x44000000, 1, 1, 0⟩
def STEEPLE_CTRL_FORCE_HOLD : Fld := ⟨0x44000000, 0, 1, 0⟩
def STEEPLE_STATUS_SLEWING : Fld := ⟨0x44000004, 11, 1, 0⟩
def STEEPLE_STATUS_TIME_VALID : Fld := ⟨0x44000004, 10, 1, 0⟩
def STEEPLE_STATUS_REPLICA_FAULT : Fld := ⟨0x44000004, 9, 1, 0⟩
def STEEPLE_STATUS_STEP_REFUSED : Fld := ⟨0x44000004, 8, 1, 0⟩
def STEEPLE_STATUS_ACTIVE_SRC : Fld := ⟨0x44000004, 4, 3, 0⟩
def STEEPLE_STATUS_DPLL_STATE : Fld := ⟨0x44000004, 0, 2, 0⟩
def STEEPLE_DPLL_CFG_HOLD_AVG : Fld := ⟨0x44000008, 16, 16, 60⟩
def STEEPLE_DPLL_CFG_AUTO_SWITCH : Fld := ⟨0x44000008, 9, 1, 1⟩
def STEEPLE_DPLL_CFG_BW : Fld := ⟨0x44000008, 0, 2, 1⟩
def STEEPLE_DPLL_SRC_SYNCE_PORT : Fld := ⟨0x4400000C, 24, 7, 0⟩
def STEEPLE_DPLL_SRC_FREQ_REF : Fld := ⟨0x4400000C, 16, 4, 0⟩
def STEEPLE_DPLL_SRC_PRIO3 : Fld := ⟨0x4400000C, 12, 3, 0⟩
def STEEPLE_DPLL_SRC_PRIO2 : Fld := ⟨0x4400000C, 8, 3, 0⟩
def STEEPLE_DPLL_SRC_PRIO1 : Fld := ⟨0x4400000C, 4, 3, 0⟩
def STEEPLE_DPLL_SRC_PRIO0 : Fld := ⟨0x4400000C, 0, 3, 0⟩
def STEEPLE_SLEW_LIMIT_LIMIT_PPB : Fld := ⟨0x44000010, 0, 16, 100⟩
def STEEPLE_PTP_OFFSET : Fld := ⟨0x44000014, 0, 32, 0⟩
def STEEPLE_NOW_TICK : Fld := ⟨0x44000018, 0, 32, 0⟩
def STEEPLE_LATCH : Fld := ⟨0x4400001C, 0, 32, 0⟩
def STEEPLE_LATCH_SEC_HI : Fld := ⟨0x44000020, 0, 16, 0⟩
def STEEPLE_SET_SEC_HI : Fld := ⟨0x44000030, 0, 16, 0⟩
def STEEPLE_LATCH_SEC_LO : Fld := ⟨0x44000024, 0, 32, 0⟩
def STEEPLE_SET_SEC_LO : Fld := ⟨0x44000034, 0, 32, 0⟩
def STEEPLE_LATCH_NS : Fld := ⟨0x44000028, 0, 30, 0⟩
def STEEPLE_SET_NS : Fld := ⟨0x44000038, 0, 30, 0⟩
def STEEPLE_LATCH_FRAC : Fld := ⟨0x4400002C, 0, 16, 0⟩
def STEEPLE_SET_FRAC : Fld := ⟨0x4400003C, 0, 16, 0⟩
def STEEPLE_REPLICA_LOST_LOST (i : Nat) : Fld := ⟨0x44000040 + i * 0x4, 0, 32, 0⟩
def PPS_OUT_CFG_ENABLE (k : Nat) : Fld := ⟨0x44000050 + k * 0x4, 31, 1, 0⟩
def PPS_OUT_CFG_WIDTH_US (k : Nat) : Fld := ⟨0x44000050 + k * 0x4, 0, 20, 0⟩
def PPS_OUT_COMP (k : Nat) : Fld := ⟨0x44000058 + k * 0x4, 0, 32, 0⟩
def LG_CFG_SFN_OFFSET (g : Nat) : Fld := ⟨0x44010000 + g * 0x400, 16, 10, 0⟩
def LG_CFG_SWEEP_OFFSET (g : Nat) : Fld := ⟨0x44010000 + g * 0x400, 12, 4, 2⟩
def LG_CFG_PARISH (g : Nat) : Fld := ⟨0x44010000 + g * 0x400, 9, 1, 0⟩
def LG_CFG_LTE (g : Nat) : Fld := ⟨0x44010000 + g * 0x400, 8, 1, 0⟩
def LG_CFG_ECP (g : Nat) : Fld := ⟨0x44010000 + g * 0x400, 7, 1, 0⟩
def LG_CFG_TDD (g : Nat) : Fld := ⟨0x44010000 + g * 0x400, 6, 1, 0⟩
def LG_CFG_MU (g : Nat) : Fld := ⟨0x44010000 + g * 0x400, 0, 3, 0⟩
def LG_OFFSET_FRAME_OFFSET_NS (g : Nat) : Fld := ⟨0x44010004 + g * 0x400, 0, 24, 0⟩
def LG_STATUS_STATE (g : Nat) : Fld := ⟨0x44010008 + g * 0x400, 30, 2, 0⟩
def LG_STATUS_MISMATCH (g : Nat) : Fld := ⟨0x44010008 + g * 0x400, 29, 1, 0⟩
def LG_STATUS_TDD_SWAP_PENDING (g : Nat) : Fld := ⟨0x44010008 + g * 0x400, 28, 1, 0⟩
def LG_STATUS_ACTIVE_BANK (g : Nat) : Fld := ⟨0x44010008 + g * 0x400, 27, 1, 0⟩
def LG_STATUS_CFG_REFUSED (g : Nat) : Fld := ⟨0x44010008 + g * 0x400, 26, 1, 0⟩
def LG_STATUS_SFN (g : Nat) : Fld := ⟨0x44010008 + g * 0x400, 16, 10, 0⟩
def LG_STATUS_SLOT (g : Nat) : Fld := ⟨0x44010008 + g * 0x400, 0, 10, 0⟩
def LG_CTRL_TDD_SWAP (g : Nat) : Fld := ⟨0x4401000C + g * 0x400, 2, 1, 0⟩
def LG_CTRL_STOP (g : Nat) : Fld := ⟨0x4401000C + g * 0x400, 1, 1, 0⟩
def LG_CTRL_START (g : Nat) : Fld := ⟨0x4401000C + g * 0x400, 0, 1, 0⟩
def LG_ACTION_TICK (g : Nat) : Fld := ⟨0x44010010 + g * 0x400, 0, 32, 0⟩
def LG_TDD_CFG_S_UL_SYMS (g b : Nat) : Fld := ⟨0x44010014 + g * 0x400 + b * 0x4, 14, 4, 0⟩
def LG_TDD_CFG_S_DL_SYMS (g b : Nat) : Fld := ⟨0x44010014 + g * 0x400 + b * 0x4, 10, 4, 0⟩
def LG_TDD_CFG_PERIOD_SLOTS (g b : Nat) : Fld := ⟨0x44010014 + g * 0x400 + b * 0x4, 0, 10, 1⟩
def LG_PLAN_ARM_ADDR (g : Nat) : Fld := ⟨0x4401001C + g * 0x400, 6, 20, 0⟩
def LG_PLAN_STATUS_LAST_OUTCOME (g : Nat) : Fld := ⟨0x44010020 + g * 0x400, 28, 4, 0⟩
def LG_PLAN_STATUS_REFUSE_CAUSE (g : Nat) : Fld := ⟨0x44010020 + g * 0x400, 24, 4, 0⟩
def LG_PLAN_STATUS_REFUSE_PART (g : Nat) : Fld := ⟨0x44010020 + g * 0x400, 21, 3, 0⟩
def LG_PLAN_STATUS_WITHDRAW_LATE (g : Nat) : Fld := ⟨0x44010020 + g * 0x400, 20, 1, 0⟩
def LG_PLAN_STATUS_WITHDRAW_MISS (g : Nat) : Fld := ⟨0x44010020 + g * 0x400, 19, 1, 0⟩
def LG_PLAN_STATUS_ARMED_COUNT (g : Nat) : Fld := ⟨0x44010020 + g * 0x400, 16, 3, 0⟩
def LG_PLAN_STATUS_LAST_SEQ (g : Nat) : Fld := ⟨0x44010020 + g * 0x400, 0, 16, 0⟩
def LG_PLAN_WITHDRAW_SEQUENCE (g : Nat) : Fld := ⟨0x44010024 + g * 0x400, 0, 32, 0⟩
def LG_SWEEP_STATUS_RESIDUE (g : Nat) : Fld := ⟨0x44010028 + g * 0x400, 31, 1, 0⟩
def LG_SWEEP_STATUS_RESIDUE_TAG (g : Nat) : Fld := ⟨0x44010028 + g * 0x400, 16, 4, 0⟩
def LG_SWEEP_STATUS_RESIDUE_MASK (g : Nat) : Fld := ⟨0x44010028 + g * 0x400, 0, 16, 0⟩
def LG_HSFN_HSFN (g : Nat) : Fld := ⟨0x4401002C + g * 0x400, 0, 10, 0⟩
def LG_PLANS_COMMITTED (g : Nat) : Fld := ⟨0x44010030 + g * 0x400, 0, 32, 0⟩
def LG_PLANS_REFUSED (g : Nat) : Fld := ⟨0x44010034 + g * 0x400, 0, 32, 0⟩
def LG_SWEEP_LAPSED (g : Nat) : Fld := ⟨0x44010038 + g * 0x400, 0, 32, 0⟩
def LG_TDD_BANK_ENTRIES (g b j : Nat) : Fld := ⟨0x44010100 + g * 0x400 + b * 0x100 + j * 0x4, 0, 32, 0⟩
def BELL_CFG_LOCK_GROUP (b : Nat) : Fld := ⟨0x44020000 + b * 0x20, 16, 6, 0⟩
def BELL_CFG_LG_EDGE (b : Nat) : Fld := ⟨0x44020000 + b * 0x20, 8, 3, 0⟩
def BELL_CFG_IRQ_EN (b : Nat) : Fld := ⟨0x44020000 + b * 0x20, 6, 1, 0⟩
def BELL_CFG_CAPTURE_EDGE (b : Nat) : Fld := ⟨0x44020000 + b * 0x20, 4, 2, 0⟩
def BELL_CFG_CAPTURE (b : Nat) : Fld := ⟨0x44020000 + b * 0x20, 3, 1, 0⟩
def BELL_CFG_POLARITY (b : Nat) : Fld := ⟨0x44020000 + b * 0x20, 2, 1, 0⟩
def BELL_CFG_MODE (b : Nat) : Fld := ⟨0x44020000 + b * 0x20, 0, 2, 0⟩
def HAMLET_IMEM_CTRL_ARM (h c : Nat) : Fld := ⟨0x10F01000 + h * 0x1000000 + c * 0x10, 0, 1, 0⟩
def HAMLET_IMEM_TICK_FLIP_TICK (h c : Nat) : Fld := ⟨0x10F01004 + h * 0x1000000 + c * 0x10, 0, 32, 0⟩
def HAMLET_IMEM_STATUS_REJECT_COUNT (h c : Nat) : Fld := ⟨0x10F01008 + h * 0x1000000 + c * 0x10, 16, 16, 0⟩
def HAMLET_IMEM_STATUS_FLIP_COUNT (h c : Nat) : Fld := ⟨0x10F01008 + h * 0x1000000 + c * 0x10, 8, 8, 0⟩
def HAMLET_IMEM_STATUS_REFUSED (h c : Nat) : Fld := ⟨0x10F01008 + h * 0x1000000 + c * 0x10, 2, 1, 0⟩
def HAMLET_IMEM_STATUS_ACTIVE (h c : Nat) : Fld := ⟨0x10F01008 + h * 0x1000000 + c * 0x10, 0, 1, 0⟩
def QUERN_STATUS_LOCKED (h : Nat) : Fld := ⟨0x10F02000 + h * 0x1000000, 31, 1, 0⟩
def QUERN_STATUS_OWNER_CORE (h : Nat) : Fld := ⟨0x10F02000 + h * 0x1000000, 24, 4, 0⟩
def QUERN_STATUS_OWNER_NONE (h : Nat) : Fld := ⟨0x10F02000 + h * 0x1000000, 18, 1, 0⟩
def QUERN_STATUS_JOBS_HELD (h : Nat) : Fld := ⟨0x10F02000 + h * 0x1000000, 16, 2, 0⟩
def QUERN_STATUS_OWNER_ITEM (h : Nat) : Fld := ⟨0x10F02000 + h * 0x1000000, 0, 12, 0⟩
def QUERN_COUNTS_LOCK_MISS (h : Nat) : Fld := ⟨0x10F02004 + h * 0x1000000, 24, 8, 0⟩
def QUERN_COUNTS_SQUASHED (h : Nat) : Fld := ⟨0x10F02004 + h * 0x1000000, 16, 8, 0⟩
def QUERN_COUNTS_AUTO_FREE (h : Nat) : Fld := ⟨0x10F02004 + h * 0x1000000, 8, 8, 0⟩
def QUERN_COUNTS_FORCED_FREE (h : Nat) : Fld := ⟨0x10F02004 + h * 0x1000000, 0, 8, 0⟩
def QUERN_JOBS_COUNT (h : Nat) : Fld := ⟨0x10F02008 + h * 0x1000000, 0, 32, 0⟩
def QUERN_CORE_STATUS_STATUS (h c : Nat) : Fld := ⟨0x10F02100 + h * 0x1000000 + c * 0x10, 28, 4, 0⟩
def QUERN_CORE_STATUS_ABORT_LATE (h c : Nat) : Fld := ⟨0x10F02100 + h * 0x1000000 + c * 0x10, 27, 1, 0⟩
def QUERN_CORE_STATUS_SINGULAR (h c : Nat) : Fld := ⟨0x10F02100 + h * 0x1000000 + c * 0x10, 26, 1, 0⟩
def QUERN_CORE_STATUS_SAT (h c : Nat) : Fld := ⟨0x10F02100 + h * 0x1000000 + c * 0x10, 25, 1, 0⟩
def QUERN_CORE_STATUS_NONFINITE (h c : Nat) : Fld := ⟨0x10F02100 + h * 0x1000000 + c * 0x10, 24, 1, 0⟩
def QUERN_CORE_STATUS_INDEX (h c : Nat) : Fld := ⟨0x10F02100 + h * 0x1000000 + c * 0x10, 20, 3, 0⟩
def QUERN_CORE_STATUS_EXP (h c : Nat) : Fld := ⟨0x10F02100 + h * 0x1000000 + c * 0x10, 8, 6, 0⟩
def QUERN_CORE_STATUS_SEQ (h c : Nat) : Fld := ⟨0x10F02100 + h * 0x1000000 + c * 0x10, 0, 8, 0⟩
def QUERN_CORE_FAULT_CAUSE (h c : Nat) : Fld := ⟨0x10F02104 + h * 0x1000000 + c * 0x10, 0, 3, 0⟩
def REEVE_CTRL_COMPAT : Fld := ⟨0x4A000000, 1, 1, 0⟩
def REEVE_CTRL_ENABLE : Fld := ⟨0x4A000000, 0, 1, 0⟩
def REEVE_STATUS_OVERRUN : Fld := ⟨0x4A000004, 3, 1, 0⟩
def REEVE_STATUS_REPORT_HELD : Fld := ⟨0x4A000004, 2, 1, 0⟩
def REEVE_STATUS_ARM_REJECTED : Fld := ⟨0x4A000004, 1, 1, 0⟩
def REEVE_STATUS_SUBMIT_LOST : Fld := ⟨0x4A000004, 0, 1, 0⟩
def REEVE_HAMLET_EN_EN : Fld := ⟨0x4A000008, 0, 16, 65535⟩
def REEVE_CORE_EN_EN (h : Nat) : Fld := ⟨0x4A000010 + h * 0x4, 0, 8, 255⟩
def REEVE_DECR_LAPSE : Fld := ⟨0x4A000080, 31, 1, 0⟩
def REEVE_DECR_NAME : Fld := ⟨0x4A000080, 0, 24, 0⟩
def REEVE_ABORT_NAME : Fld := ⟨0x4A000084, 0, 24, 0⟩
def REEVE_ARM_REJECT_CAUSE : Fld := ⟨0x4A000088, 28, 4, 0⟩
def REEVE_ARM_REJECT_LOCK_GROUP : Fld := ⟨0x4A000088, 16, 6, 0⟩
def REEVE_ARM_REJECT_INDEX : Fld := ⟨0x4A000088, 0, 12, 0⟩
def REEVE_SUBMIT_CMD_ADDR (p : Nat) : Fld := ⟨0x4A000100 + p * 0x10, 6, 20, 0⟩
def REEVE_SUBMIT_RESULT_VALID (p : Nat) : Fld := ⟨0x4A000108 + p * 0x10, 63, 1, 0⟩
def REEVE_SUBMIT_RESULT_STALE (p : Nat) : Fld := ⟨0x4A000108 + p * 0x10, 62, 1, 0⟩
def REEVE_SUBMIT_RESULT_ACCEPTED (p : Nat) : Fld := ⟨0x4A000108 + p * 0x10, 61, 1, 0⟩
def REEVE_SUBMIT_RESULT_CAUSE (p : Nat) : Fld := ⟨0x4A000108 + p * 0x10, 57, 4, 0⟩
def REEVE_SUBMIT_RESULT_SEQ (p : Nat) : Fld := ⟨0x4A000108 + p * 0x10, 40, 8, 0⟩
def REEVE_SUBMIT_RESULT_NAME (p : Nat) : Fld := ⟨0x4A000108 + p * 0x10, 0, 24, 0⟩
def REEVE_REPORT_CFG_IRQ_EN (q : Nat) : Fld := ⟨0x4A000200 + q * 0x10, 31, 1, 0⟩
def REEVE_REPORT_CFG_DEST (q : Nat) : Fld := ⟨0x4A000200 + q * 0x10, 30, 1, 0⟩
def REEVE_REPORT_CFG_FLUSH (q : Nat) : Fld := ⟨0x4A000200 + q * 0x10, 0, 1, 0⟩
def REEVE_REPORT_LEVEL_LOST (q : Nat) : Fld := ⟨0x4A000204 + q * 0x10, 8, 8, 0⟩
def REEVE_REPORT_LEVEL_FULL (q : Nat) : Fld := ⟨0x4A000204 + q * 0x10, 7, 1, 0⟩
def REEVE_REPORT_LEVEL_COUNT (q : Nat) : Fld := ⟨0x4A000204 + q * 0x10, 0, 7, 0⟩
def REEVE_REPORT_TAKE_VALID (q : Nat) : Fld := ⟨0x4A000208 + q * 0x10, 63, 1, 0⟩
def REEVE_REPORT_TAKE_STALE (q : Nat) : Fld := ⟨0x4A000208 + q * 0x10, 62, 1, 0⟩
def REEVE_REPORT_TAKE_STATUS (q : Nat) : Fld := ⟨0x4A000208 + q * 0x10, 58, 4, 0⟩
def REEVE_REPORT_TAKE_LATE (q : Nat) : Fld := ⟨0x4A000208 + q * 0x10, 57, 1, 0⟩
def REEVE_REPORT_TAKE_ABORT_LATE (q : Nat) : Fld := ⟨0x4A000208 + q * 0x10, 56, 1, 0⟩
def REEVE_REPORT_TAKE_TAINTED (q : Nat) : Fld := ⟨0x4A000208 + q * 0x10, 55, 1, 0⟩
def REEVE_REPORT_TAKE_SEQ (q : Nat) : Fld := ⟨0x4A000208 + q * 0x10, 40, 8, 0⟩
def REEVE_REPORT_TAKE_USER_TAG (q : Nat) : Fld := ⟨0x4A000208 + q * 0x10, 24, 16, 0⟩
def REEVE_REPORT_TAKE_NAME (q : Nat) : Fld := ⟨0x4A000208 + q * 0x10, 0, 24, 0⟩
def REEVE_EV_FLAGS_FLAGS (g w : Nat) : Fld := ⟨0x4A000800 + g * 0x10 + w * 0x4, 0, 32, 0⟩
def REEVE_EV_SET_SET (g w : Nat) : Fld := ⟨0x4A000808 + g * 0x10 + w * 0x4, 0, 32, 0⟩
def REEVE_CORE_STATE_STATE (h c : Nat) : Fld := ⟨0x4A001000 + h * 0x40 + c * 0x4, 29, 3, 0⟩
def REEVE_CORE_STATE_RELEASE (h c : Nat) : Fld := ⟨0x4A001000 + h * 0x40 + c * 0x4, 28, 1, 0⟩
def REEVE_CORE_STATE_HELD (h c : Nat) : Fld := ⟨0x4A001000 + h * 0x40 + c * 0x4, 26, 2, 0⟩
def REEVE_CORE_STATE_ITEM_VALID (h c : Nat) : Fld := ⟨0x4A001000 + h * 0x40 + c * 0x4, 25, 1, 0⟩
def REEVE_CORE_STATE_OVR_DONE (h c : Nat) : Fld := ⟨0x4A001000 + h * 0x40 + c * 0x4, 24, 1, 0⟩
def REEVE_CORE_STATE_ITEM_NAME (h c : Nat) : Fld := ⟨0x4A001000 + h * 0x40 + c * 0x4, 0, 24, 0⟩
def REEVE_CORE_BUSY (h c : Nat) : Fld := ⟨0x4A001800 + h * 0x40 + c * 0x4, 0, 32, 0⟩
def REEVE_SLOTS_HIGH_WATER : Fld := ⟨0x4A002000, 16, 13, 0⟩
def REEVE_SLOTS_IN_USE : Fld := ⟨0x4A002000, 0, 13, 0⟩
def REEVE_READY_DEPTH_DEPTH (k : Nat) : Fld := ⟨0x4A002010 + k * 0x4, 0, 13, 0⟩
def REEVE_WS_DEPTH_DEPTH (w : Nat) : Fld := ⟨0x4A002040 + w * 0x4, 0, 13, 0⟩
def REEVE_DISPATCHED : Fld := ⟨0x4A002100, 0, 32, 0⟩
def REEVE_RETIRED : Fld := ⟨0x4A002104, 0, 32, 0⟩
def REEVE_LATE : Fld := ⟨0x4A002108, 0, 32, 0⟩
def REEVE_LAPSED_WAIT : Fld := ⟨0x4A00210C, 0, 32, 0⟩
def REEVE_LAPSED_CASCADE : Fld := ⟨0x4A002110, 0, 32, 0⟩
def REEVE_KILLED : Fld := ⟨0x4A002114, 0, 32, 0⟩
def REEVE_ABORTED : Fld := ⟨0x4A002118, 0, 32, 0⟩
def REEVE_ABORT_LATE : Fld := ⟨0x4A00211C, 0, 32, 0⟩
def REEVE_ABORT_MISS : Fld := ⟨0x4A002120, 0, 32, 0⟩
def REEVE_PREEMPTIONS : Fld := ⟨0x4A002124, 0, 32, 0⟩
def REEVE_DROP_UNPLANNED : Fld := ⟨0x4A002128, 0, 32, 0⟩
def REEVE_DECR_EXCESS : Fld := ⟨0x4A00212C, 0, 32, 0⟩
def REEVE_COMPL_DISCARDED : Fld := ⟨0x4A002130, 0, 32, 0⟩
def REEVE_OVERRUNS : Fld := ⟨0x4A002134, 0, 32, 0⟩
def REEVE_POISONED : Fld := ⟨0x4A002138, 0, 32, 0⟩
def REEVE_HIST_CFG_ALL : Fld := ⟨0x4A002200, 31, 1, 1⟩
def REEVE_HIST_CFG_CLASS : Fld := ⟨0x4A002200, 8, 3, 0⟩
def REEVE_HIST_CFG_WIDTH_LOG2 : Fld := ⟨0x4A002200, 0, 5, 6⟩
def REEVE_HIST (b : Nat) : Fld := ⟨0x4A002210 + b * 0x4, 0, 32, 0⟩
def KILN_CTRL_ENABLE : Fld := ⟨0x4B000000, 0, 1, 0⟩
def KILN_STATUS_HANDLE_WAITING : Fld := ⟨0x4B000004, 1, 1, 0⟩
def KILN_STATUS_AREA_REFUSED : Fld := ⟨0x4B000004, 0, 1, 0⟩
def KILN_ENG_EN_EN : Fld := ⟨0x4B000008, 0, 16, 65535⟩
def KILN_ENG_STATE_STATE (e : Nat) : Fld := ⟨0x4B000040 + e * 0x4, 30, 2, 0⟩
def KILN_ENG_STATE_JOBS_HELD (e : Nat) : Fld := ⟨0x4B000040 + e * 0x4, 28, 2, 0⟩
def KILN_ENG_STATE_ITEM_NAME (e : Nat) : Fld := ⟨0x4B000040 + e * 0x4, 0, 24, 0⟩
def KILN_HARQ_AREA_SIZE : Fld := ⟨0x4B000100, 18, 14, 0⟩
def KILN_HARQ_AREA_BASE : Fld := ⟨0x4B000100, 0, 15, 0⟩
def KILN_HARQ_ARG_LEN : Fld := ⟨0x4B000104, 22, 10, 0⟩
def KILN_HARQ_ARG_BASE : Fld := ⟨0x4B000104, 0, 21, 0⟩
def KILN_HARQ_CMD_OP : Fld := ⟨0x4B000108, 30, 2, 0⟩
def KILN_HARQ_CMD_HANDLE : Fld := ⟨0x4B000108, 0, 14, 0⟩
def KILN_HARQ_RESULT_OP : Fld := ⟨0x4B00010C, 30, 2, 0⟩
def KILN_HARQ_RESULT_OUTCOME : Fld := ⟨0x4B00010C, 28, 2, 0⟩
def KILN_HARQ_RESULT_REASON : Fld := ⟨0x4B00010C, 24, 4, 0⟩
def KILN_HARQ_RESULT_HANDLE : Fld := ⟨0x4B00010C, 0, 14, 0⟩
def KILN_HARQ_HELD_HELD : Fld := ⟨0x4B000110, 0, 15, 0⟩
def KILN_JOBS_OK : Fld := ⟨0x4B000200, 0, 32, 0⟩
def KILN_JOBS_LAPSED : Fld := ⟨0x4B000204, 0, 32, 0⟩
def KILN_JOBS_ABORTED : Fld := ⟨0x4B000208, 0, 32, 0⟩
def KILN_JOBS_POISONED : Fld := ⟨0x4B00020C, 0, 32, 0⟩
def KILN_ABORT_LATE : Fld := ⟨0x4B000210, 0, 32, 0⟩
def KILN_SWEEP_LAPSED : Fld := ⟨0x4B000214, 0, 32, 0⟩
def KILN_HANDLE_WAIT : Fld := ⟨0x4B000218, 0, 32, 0⟩
def KILN_CB_FAIL : Fld := ⟨0x4B00021C, 0, 32, 0⟩
def KILN_ITER_TOTAL : Fld := ⟨0x4B000220, 0, 32, 0⟩
def WHEEL_CTRL_ENABLE : Fld := ⟨0x4C000000, 0, 1, 0⟩
def WHEEL_ENG_EN_EN : Fld := ⟨0x4C000008, 0, 16, 65535⟩
def WHEEL_ENG_STATE_STATE (e : Nat) : Fld := ⟨0x4C000040 + e * 0x4, 30, 2, 0⟩
def WHEEL_ENG_STATE_JOBS_HELD (e : Nat) : Fld := ⟨0x4C000040 + e * 0x4, 28, 2, 0⟩
def WHEEL_ENG_STATE_ITEM_NAME (e : Nat) : Fld := ⟨0x4C000040 + e * 0x4, 0, 24, 0⟩
def WHEEL_JOBS_OK : Fld := ⟨0x4C000200, 0, 32, 0⟩
def WHEEL_JOBS_LAPSED : Fld := ⟨0x4C000204, 0, 32, 0⟩
def WHEEL_JOBS_ABORTED : Fld := ⟨0x4C000208, 0, 32, 0⟩
def WHEEL_JOBS_POISONED : Fld := ⟨0x4C00020C, 0, 32, 0⟩
def WHEEL_ABORT_LATE : Fld := ⟨0x4C000210, 0, 32, 0⟩
def WHEEL_SWEEP_LAPSED : Fld := ⟨0x4C000214, 0, 32, 0⟩
def WHEEL_SAT_JOBS : Fld := ⟨0x4C000218, 0, 32, 0⟩
def WHEEL_UNITS : Fld := ⟨0x4C00021C, 0, 32, 0⟩
def WHEEL_SINGULAR : Fld := ⟨0x4C000220, 0, 32, 0⟩
def MILL_CTRL_ENABLE : Fld := ⟨0x4D000000, 0, 1, 0⟩
def MILL_ENG_EN_EN : Fld := ⟨0x4D000008, 0, 8, 255⟩
def MILL_ENG_STATE_STATE (e : Nat) : Fld := ⟨0x4D000040 + e * 0x4, 30, 2, 0⟩
def MILL_ENG_STATE_JOBS_HELD (e : Nat) : Fld := ⟨0x4D000040 + e * 0x4, 28, 2, 0⟩
def MILL_ENG_STATE_ITEM_NAME (e : Nat) : Fld := ⟨0x4D000040 + e * 0x4, 0, 24, 0⟩
def MILL_JOBS_OK : Fld := ⟨0x4D000200, 0, 32, 0⟩
def MILL_JOBS_LAPSED : Fld := ⟨0x4D000204, 0, 32, 0⟩
def MILL_JOBS_ABORTED : Fld := ⟨0x4D000208, 0, 32, 0⟩
def MILL_JOBS_POISONED : Fld := ⟨0x4D00020C, 0, 32, 0⟩
def MILL_ABORT_LATE : Fld := ⟨0x4D000210, 0, 32, 0⟩
def MILL_SWEEP_LAPSED : Fld := ⟨0x4D000214, 0, 32, 0⟩
def MILL_SAT_JOBS : Fld := ⟨0x4D000218, 0, 32, 0⟩
def MILL_UNITS : Fld := ⟨0x4D00021C, 0, 32, 0⟩
def MILL_SINGULAR : Fld := ⟨0x4D000220, 0, 32, 0⟩
def KILN_UCODE_CTRL_LOAD (e : Nat) : Fld := ⟨0x4B000400 + e * 0x10, 31, 1, 0⟩
def KILN_UCODE_ADDR_ADDR (e : Nat) : Fld := ⟨0x4B000404 + e * 0x10, 0, 32, 0⟩
def KILN_UCODE_STATUS_STATE (e : Nat) : Fld := ⟨0x4B000408 + e * 0x10, 30, 2, 0⟩
def KILN_UCODE_STATUS_RESULT (e : Nat) : Fld := ⟨0x4B000408 + e * 0x10, 28, 2, 0⟩
def KILN_UCODE_STATUS_CAUSE (e : Nat) : Fld := ⟨0x4B000408 + e * 0x10, 24, 4, 0⟩
def KILN_UCODE_STATUS_SEC_VERSION (e : Nat) : Fld := ⟨0x4B000408 + e * 0x10, 0, 7, 0⟩
def KILN_UCODE_VERSION (e : Nat) : Fld := ⟨0x4B00040C + e * 0x10, 0, 32, 0⟩
def WHEEL_UCODE_CTRL_LOAD (e : Nat) : Fld := ⟨0x4C000400 + e * 0x10, 31, 1, 0⟩
def WHEEL_UCODE_ADDR_ADDR (e : Nat) : Fld := ⟨0x4C000404 + e * 0x10, 0, 32, 0⟩
def WHEEL_UCODE_STATUS_STATE (e : Nat) : Fld := ⟨0x4C000408 + e * 0x10, 30, 2, 0⟩
def WHEEL_UCODE_STATUS_RESULT (e : Nat) : Fld := ⟨0x4C000408 + e * 0x10, 28, 2, 0⟩
def WHEEL_UCODE_STATUS_CAUSE (e : Nat) : Fld := ⟨0x4C000408 + e * 0x10, 24, 4, 0⟩
def WHEEL_UCODE_STATUS_SEC_VERSION (e : Nat) : Fld := ⟨0x4C000408 + e * 0x10, 0, 7, 0⟩
def WHEEL_UCODE_VERSION (e : Nat) : Fld := ⟨0x4C00040C + e * 0x10, 0, 32, 0⟩
def MILL_UCODE_CTRL_LOAD (e : Nat) : Fld := ⟨0x4D000400 + e * 0x10, 31, 1, 0⟩
def MILL_UCODE_ADDR_ADDR (e : Nat) : Fld := ⟨0x4D000404 + e * 0x10, 0, 32, 0⟩
def MILL_UCODE_STATUS_STATE (e : Nat) : Fld := ⟨0x4D000408 + e * 0x10, 30, 2, 0⟩
def MILL_UCODE_STATUS_RESULT (e : Nat) : Fld := ⟨0x4D000408 + e * 0x10, 28, 2, 0⟩
def MILL_UCODE_STATUS_CAUSE (e : Nat) : Fld := ⟨0x4D000408 + e * 0x10, 24, 4, 0⟩
def MILL_UCODE_STATUS_SEC_VERSION (e : Nat) : Fld := ⟨0x4D000408 + e * 0x10, 0, 7, 0⟩
def MILL_UCODE_VERSION (e : Nat) : Fld := ⟨0x4D00040C + e * 0x10, 0, 32, 0⟩
def SIEVE_CTRL_ENABLE : Fld := ⟨0x4E000000, 0, 1, 0⟩
def SIEVE_RATE_USED_SUM : Fld := ⟨0x4E000004, 0, 29, 0⟩
def SIEVE_DROP_UNPLANNED : Fld := ⟨0x4E000008, 0, 32, 0⟩
def SIEVE_SWEEP_DROPPED : Fld := ⟨0x4E00000C, 0, 32, 0⟩
def SIEVE_FRAC_ROM_TAPS (f t : Nat) : Fld := ⟨0x4E001000 + f * 0x10 + t * 0x4, 0, 32, (specialReset (0x4E001000 + f * 0x10 + t * 0x4) 0 0)⟩
def SIEVE_CH_CTRL_START (c : Nat) : Fld := ⟨0x4E100000 + c * 0x100, 31, 1, 0⟩
def SIEVE_CH_CTRL_STOP (c : Nat) : Fld := ⟨0x4E100000 + c * 0x100, 30, 1, 0⟩
def SIEVE_CH_CTRL_SWAP (c : Nat) : Fld := ⟨0x4E100000 + c * 0x100, 29, 1, 0⟩
def SIEVE_CH_CTRL_SWAP_BANK (c : Nat) : Fld := ⟨0x4E100000 + c * 0x100, 28, 1, 0⟩
def SIEVE_CH_CTRL_SWAP_FADE_LOG2 (c : Nat) : Fld := ⟨0x4E100000 + c * 0x100, 24, 4, 0⟩
def SIEVE_CH_CTRL_FORCE_GUARD (c : Nat) : Fld := ⟨0x4E100000 + c * 0x100, 23, 1, 0⟩
def SIEVE_CH_CTRL_LEAVE_GUARD (c : Nat) : Fld := ⟨0x4E100000 + c * 0x100, 22, 1, 0⟩
def SIEVE_CH_MODE_DIR (c : Nat) : Fld := ⟨0x4E100004 + c * 0x100, 31, 1, 0⟩
def SIEVE_CH_MODE_PORT_KIND (c : Nat) : Fld := ⟨0x4E100004 + c * 0x100, 28, 3, 0⟩
def SIEVE_CH_MODE_PORT (c : Nat) : Fld := ⟨0x4E100004 + c * 0x100, 22, 6, 0⟩
def SIEVE_CH_MODE_LOCK_GROUP (c : Nat) : Fld := ⟨0x4E100004 + c * 0x100, 16, 6, 0⟩
def SIEVE_CH_MODE_NCO_FRAME (c : Nat) : Fld := ⟨0x4E100004 + c * 0x100, 15, 1, 0⟩
def SIEVE_CH_MODE_BELL_EN (c : Nat) : Fld := ⟨0x4E100004 + c * 0x100, 14, 1, 0⟩
def SIEVE_CH_MODE_BELL_NCO (c : Nat) : Fld := ⟨0x4E100004 + c * 0x100, 13, 1, 0⟩
def SIEVE_CH_MODE_BELL_SEL (c : Nat) : Fld := ⟨0x4E100004 + c * 0x100, 7, 6, 0⟩
def SIEVE_CH_RATE_SPF (c : Nat) : Fld := ⟨0x4E100008 + c * 0x100, 0, 23, 0⟩
def SIEVE_CH_NCO_FREQ (c : Nat) : Fld := ⟨0x4E10000C + c * 0x100, 0, 32, 0⟩
def SIEVE_CH_NCO_PHASE (c : Nat) : Fld := ⟨0x4E100010 + c * 0x100, 0, 32, 0⟩
def SIEVE_CH_STAGE01_L1_M1 (c : Nat) : Fld := ⟨0x4E100014 + c * 0x100, 10, 6, 0⟩
def SIEVE_CH_STAGE01_M1_M1 (c : Nat) : Fld := ⟨0x4E100014 + c * 0x100, 4, 6, 0⟩
def SIEVE_CH_STAGE01_SH1 (c : Nat) : Fld := ⟨0x4E100014 + c * 0x100, 0, 3, 0⟩
def SIEVE_CH_STAGE01_L2_M1 (c : Nat) : Fld := ⟨0x4E100014 + c * 0x100, 26, 6, 0⟩
def SIEVE_CH_STAGE01_M2_M1 (c : Nat) : Fld := ⟨0x4E100014 + c * 0x100, 20, 6, 0⟩
def SIEVE_CH_STAGE01_SH2 (c : Nat) : Fld := ⟨0x4E100014 + c * 0x100, 16, 3, 0⟩
def SIEVE_CH_STAGE23_L3_M1 (c : Nat) : Fld := ⟨0x4E100018 + c * 0x100, 10, 6, 0⟩
def SIEVE_CH_STAGE23_M3_M1 (c : Nat) : Fld := ⟨0x4E100018 + c * 0x100, 4, 6, 0⟩
def SIEVE_CH_STAGE23_SH3 (c : Nat) : Fld := ⟨0x4E100018 + c * 0x100, 0, 3, 0⟩
def SIEVE_CH_STAGE23_L4_M1 (c : Nat) : Fld := ⟨0x4E100018 + c * 0x100, 26, 6, 0⟩
def SIEVE_CH_STAGE23_M4_M1 (c : Nat) : Fld := ⟨0x4E100018 + c * 0x100, 20, 6, 0⟩
def SIEVE_CH_STAGE23_SH4 (c : Nat) : Fld := ⟨0x4E100018 + c * 0x100, 16, 3, 0⟩
def SIEVE_CH_STAGE5_L5_M1 (c : Nat) : Fld := ⟨0x4E10001C + c * 0x100, 10, 6, 0⟩
def SIEVE_CH_STAGE5_M5_M1 (c : Nat) : Fld := ⟨0x4E10001C + c * 0x100, 4, 6, 0⟩
def SIEVE_CH_STAGE5_SH5 (c : Nat) : Fld := ⟨0x4E10001C + c * 0x100, 0, 3, 0⟩
def SIEVE_CH_FIR_TAPS_M1 (c : Nat) : Fld := ⟨0x4E100020 + c * 0x100, 26, 6, 0⟩
def SIEVE_CH_FIR_FIR_SH (c : Nat) : Fld := ⟨0x4E100020 + c * 0x100, 16, 4, 0⟩
def SIEVE_CH_FIR_START_BANK (c : Nat) : Fld := ⟨0x4E100020 + c * 0x100, 8, 1, 0⟩
def SIEVE_CH_FIR_OUT_SH (c : Nat) : Fld := ⟨0x4E100020 + c * 0x100, 0, 3, 0⟩
def SIEVE_CH_DELAY_INT (c : Nat) : Fld := ⟨0x4E100024 + c * 0x100, 16, 12, 0⟩
def SIEVE_CH_DELAY_FRAC (c : Nat) : Fld := ⟨0x4E100024 + c * 0x100, 0, 6, 0⟩
def SIEVE_CH_RING_BASE_ADDR (c : Nat) : Fld := ⟨0x4E100028 + c * 0x100, 6, 20, 0⟩
def SIEVE_CH_RING_LEN_LEN (c : Nat) : Fld := ⟨0x4E10002C + c * 0x100, 0, 20, 0⟩
def SIEVE_CH_BURST_LATE (c : Nat) : Fld := ⟨0x4E100030 + c * 0x100, 16, 16, 0⟩
def SIEVE_CH_BURST_BURST_U (c : Nat) : Fld := ⟨0x4E100030 + c * 0x100, 0, 6, 0⟩
def SIEVE_CH_NOTIFY_EN (c : Nat) : Fld := ⟨0x4E100034 + c * 0x100, 31, 1, 0⟩
def SIEVE_CH_NOTIFY_DIV_M1 (c : Nat) : Fld := ⟨0x4E100034 + c * 0x100, 12, 12, 0⟩
def SIEVE_CH_NOTIFY_BASE (c : Nat) : Fld := ⟨0x4E100034 + c * 0x100, 0, 12, 0⟩
def SIEVE_CH_GUARD_AUTO (c : Nat) : Fld := ⟨0x4E100038 + c * 0x100, 31, 1, 1⟩
def SIEVE_CH_GUARD_GUARD_ON_WRAP (c : Nat) : Fld := ⟨0x4E100038 + c * 0x100, 30, 1, 1⟩
def SIEVE_CH_GUARD_TEST (c : Nat) : Fld := ⟨0x4E100038 + c * 0x100, 29, 1, 0⟩
def SIEVE_CH_GUARD_GUARD_EXTRA (c : Nat) : Fld := ⟨0x4E100038 + c * 0x100, 0, 16, 0⟩
def SIEVE_CH_TEST (c : Nat) : Fld := ⟨0x4E10003C + c * 0x100, 0, 32, 0⟩
def SIEVE_CH_UP_READY (c : Nat) : Fld := ⟨0x4E100040 + c * 0x100, 0, 32, 0⟩
def SIEVE_CH_STATUS_STATE (c : Nat) : Fld := ⟨0x4E100044 + c * 0x100, 30, 2, 0⟩
def SIEVE_CH_STATUS_MODE (c : Nat) : Fld := ⟨0x4E100044 + c * 0x100, 29, 1, 1⟩
def SIEVE_CH_STATUS_ACTIVE_BANK (c : Nat) : Fld := ⟨0x4E100044 + c * 0x100, 28, 1, 0⟩
def SIEVE_CH_STATUS_FADING (c : Nat) : Fld := ⟨0x4E100044 + c * 0x100, 27, 1, 0⟩
def SIEVE_CH_STATUS_SWAP_PENDING (c : Nat) : Fld := ⟨0x4E100044 + c * 0x100, 26, 1, 0⟩
def SIEVE_CH_STATUS_PENDING_BANK (c : Nat) : Fld := ⟨0x4E100044 + c * 0x100, 25, 1, 0⟩
def SIEVE_CH_STATUS_DELAY_PENDING (c : Nat) : Fld := ⟨0x4E100044 + c * 0x100, 24, 1, 0⟩
def SIEVE_CH_STATUS_GUARD_SAT (c : Nat) : Fld := ⟨0x4E100044 + c * 0x100, 23, 1, 0⟩
def SIEVE_CH_STATUS_WRAPPED (c : Nat) : Fld := ⟨0x4E100044 + c * 0x100, 22, 1, 0⟩
def SIEVE_CH_STATUS_CFG_ERR (c : Nat) : Fld := ⟨0x4E100044 + c * 0x100, 16, 3, 0⟩
def SIEVE_CH_STATUS_GUARD_LEFT (c : Nat) : Fld := ⟨0x4E100044 + c * 0x100, 0, 16, 0⟩
def SIEVE_CH_COUNT (c : Nat) : Fld := ⟨0x4E100048 + c * 0x100, 0, 32, 0⟩
def SIEVE_CH_SUPPORT (c : Nat) : Fld := ⟨0x4E10004C + c * 0x100, 0, 32, 0⟩
def SIEVE_CH_SAT_COUNT (c : Nat) : Fld := ⟨0x4E100050 + c * 0x100, 0, 32, 0⟩
def SIEVE_CH_WRAP_COUNT (c : Nat) : Fld := ⟨0x4E100054 + c * 0x100, 0, 32, 0⟩
def SIEVE_CH_DISC_COUNT (c : Nat) : Fld := ⟨0x4E100058 + c * 0x100, 0, 32, 0⟩
def SIEVE_CH_BURSTS (c : Nat) : Fld := ⟨0x4E10005C + c * 0x100, 0, 32, 0⟩
def SIEVE_CH_LATE_BURSTS (c : Nat) : Fld := ⟨0x4E100060 + c * 0x100, 0, 32, 0⟩
def SIEVE_CH_POISON (c : Nat) : Fld := ⟨0x4E100064 + c * 0x100, 0, 32, 0⟩
def SIEVE_CH_SWAP_COUNTS_OVERWRITE (c : Nat) : Fld := ⟨0x4E100068 + c * 0x100, 24, 8, 0⟩
def SIEVE_CH_SWAP_COUNTS_NOOP (c : Nat) : Fld := ⟨0x4E100068 + c * 0x100, 16, 8, 0⟩
def SIEVE_CH_SWAP_COUNTS_COEF_REFUSED (c : Nat) : Fld := ⟨0x4E100068 + c * 0x100, 0, 16, 0⟩
def SIEVE_CH_BELL_IDX_MARK_VALID (c : Nat) : Fld := ⟨0x4E10006C + c * 0x100, 31, 1, 0⟩
def SIEVE_CH_BELL_IDX_MARK_LOST (c : Nat) : Fld := ⟨0x4E10006C + c * 0x100, 30, 1, 0⟩
def SIEVE_CH_BELL_IDX_NB (c : Nat) : Fld := ⟨0x4E10006C + c * 0x100, 0, 23, 0⟩
def SIEVE_CH_BELL_SFN_SFN (c : Nat) : Fld := ⟨0x4E100070 + c * 0x100, 0, 10, 0⟩
def SIEVE_CH_COEF (c b j : Nat) : Fld := ⟨0x4E100080 + c * 0x100 + b * 0x40 + j * 0x4, 0, 32, 0⟩
def HAMLET_BARN_CONFLICT (h m : Nat) : Fld := ⟨0x10F03000 + h * 0x1000000 + m * 0x4, 0, 32, 0⟩
def HAMLET_BARN_WAIT (h m : Nat) : Fld := ⟨0x10F03040 + h * 0x1000000 + m * 0x4, 0, 32, 0⟩
def HAMLET_BARN_COLLISION (h : Nat) : Fld := ⟨0x10F03080 + h * 0x1000000, 0, 32, 0⟩
def PLOT_CORE_STALL (h c : Nat) : Fld := ⟨0x10F03100 + h * 0x1000000 + c * 0x10, 0, 32, 0⟩
def PLOT_EXT_CONFLICT (h c : Nat) : Fld := ⟨0x10F03104 + h * 0x1000000 + c * 0x10, 0, 32, 0⟩
def PLOT_EXT_WAIT (h c : Nat) : Fld := ⟨0x10F03108 + h * 0x1000000 + c * 0x10, 0, 32, 0⟩
def PLOT_COLLISION (h c : Nat) : Fld := ⟨0x10F0310C + h * 0x1000000 + c * 0x10, 0, 32, 0⟩
def GRANARY_BANK_PWR_STATE (b : Nat) : Fld := ⟨0x47000000 + b * 0x4, 29, 3, 0⟩
def GRANARY_BANK_PWR_REFUSED (b : Nat) : Fld := ⟨0x47000000 + b * 0x4, 28, 1, 0⟩
def GRANARY_BANK_PWR_CAUSE (b : Nat) : Fld := ⟨0x47000000 + b * 0x4, 26, 2, 0⟩
def GRANARY_BANK_PWR_REQ_VALID (b : Nat) : Fld := ⟨0x47000000 + b * 0x4, 2, 1, 0⟩
def GRANARY_BANK_PWR_REQ (b : Nat) : Fld := ⟨0x47000000 + b * 0x4, 0, 2, 0⟩
def GRANARY_CLOSED_ACCESS : Fld := ⟨0x47000100, 0, 32, 0⟩
def GRANARY_COLLISION : Fld := ⟨0x47000104, 0, 32, 0⟩
def GRANARY_RELEASE_BAD_SEEN : Fld := ⟨0x47000108, 31, 1, 0⟩
def GRANARY_RELEASE_BAD_POOL : Fld := ⟨0x47000108, 24, 7, 0⟩
def GRANARY_RELEASE_BAD_GEN : Fld := ⟨0x47000108, 20, 4, 0⟩
def GRANARY_RELEASE_BAD_INDEX : Fld := ⟨0x47000108, 0, 16, 0⟩
def GRANARY_CONFLICT (m : Nat) : Fld := ⟨0x47000400 + m * 0x4, 0, 32, 0⟩
def GRANARY_WAIT (m : Nat) : Fld := ⟨0x47000800 + m * 0x4, 0, 32, 0⟩
def CELLAR_STACK_STATUS_TRAINED (s : Nat) : Fld := ⟨0x48000000 + s * 0x4, 31, 1, 0⟩
def CELLAR_STACK_STATUS_FILLED (s : Nat) : Fld := ⟨0x48000000 + s * 0x4, 30, 1, 0⟩
def CELLAR_STACK_STATUS_REFRESH_X2 (s : Nat) : Fld := ⟨0x48000000 + s * 0x4, 29, 1, 0⟩
def CELLAR_STACK_STATUS_LANE_REPAIRS (s : Nat) : Fld := ⟨0x48000000 + s * 0x4, 16, 8, 0⟩
def CELLAR_STACK_STATUS_TEMP (s : Nat) : Fld := ⟨0x48000000 + s * 0x4, 0, 8, 0⟩
def CELLAR_COLLISION : Fld := ⟨0x48000010, 0, 32, 0⟩
def CELLAR_CONFLICT (m : Nat) : Fld := ⟨0x48000400 + m * 0x4, 0, 32, 0⟩
def CELLAR_WAIT (m : Nat) : Fld := ⟨0x48000800 + m * 0x4, 0, 32, 0⟩
def GRANARY_POOL_CFG_ENABLE (p : Nat) : Fld := ⟨0x47010000 + p * 0x20, 31, 1, 0⟩
def GRANARY_POOL_CFG_WINDOWED (p : Nat) : Fld := ⟨0x47010000 + p * 0x20, 30, 1, 0⟩
def GRANARY_POOL_CFG_BUF_UNITS_M1 (p : Nat) : Fld := ⟨0x47010000 + p * 0x20, 0, 14, 0⟩
def GRANARY_POOL_BASE_ADDR (p : Nat) : Fld := ⟨0x47010004 + p * 0x20, 6, 20, 0⟩
def GRANARY_POOL_COUNT_COUNT (p : Nat) : Fld := ⟨0x47010008 + p * 0x20, 0, 16, 0⟩
def GRANARY_POOL_STATUS_ENABLED (p : Nat) : Fld := ⟨0x4701000C + p * 0x20, 31, 1, 0⟩
def GRANARY_POOL_STATUS_FAULT (p : Nat) : Fld := ⟨0x4701000C + p * 0x20, 30, 1, 0⟩
def GRANARY_POOL_STATUS_REFUSED (p : Nat) : Fld := ⟨0x4701000C + p * 0x20, 29, 1, 0⟩
def GRANARY_POOL_STATUS_CAUSE (p : Nat) : Fld := ⟨0x4701000C + p * 0x20, 26, 3, 0⟩
def GRANARY_POOL_STATUS_HELD (p : Nat) : Fld := ⟨0x4701000C + p * 0x20, 0, 16, 0⟩
def GRANARY_POOL_TAKE_TOKEN (p : Nat) : Fld := ⟨0x47010010 + p * 0x20, 0, 32, 0⟩
def GRANARY_POOL_RELEASE_TOKEN (p : Nat) : Fld := ⟨0x47010014 + p * 0x20, 0, 32, 0⟩
def GRANARY_POOL_EMPTY_TAKES (p : Nat) : Fld := ⟨0x47010018 + p * 0x20, 0, 32, 0⟩
def GRANARY_POOL_SWEEP_RETURNED (p : Nat) : Fld := ⟨0x4701001C + p * 0x20, 0, 32, 0⟩
def ECCLOG_CTRL_FLUSH : Fld := ⟨0x41000000, 1, 1, 0⟩
def ECCLOG_CTRL_IRQ_EN : Fld := ⟨0x41000000, 0, 1, 0⟩
def ECCLOG_STATUS_HIGH_DROPPED : Fld := ⟨0x41000004, 24, 8, 0⟩
def ECCLOG_STATUS_LOW_DROPPED : Fld := ⟨0x41000004, 16, 8, 0⟩
def ECCLOG_STATUS_LEVEL : Fld := ⟨0x41000004, 0, 10, 0⟩
def ECCLOG_HEAD (w : Nat) : Fld := ⟨0x41000010 + w * 0x4, 0, 32, 0⟩
def ECCLOG_POP : Fld := ⟨0x41000020, 0, 32, 0⟩
def ECC_INJECT_CTRL_GO : Fld := ⟨0x41000100, 31, 1, 0⟩
def ECC_INJECT_CTRL_DONE : Fld := ⟨0x41000100, 30, 1, 0⟩
def ECC_INJECT_CTRL_REFUSED : Fld := ⟨0x41000100, 29, 1, 0⟩
def ECC_INJECT_CTRL_CHECK_XOR : Fld := ⟨0x41000100, 16, 8, 0⟩
def ECC_INJECT_CTRL_DATA_FLIP_A : Fld := ⟨0x41000100, 8, 8, 255⟩
def ECC_INJECT_CTRL_DATA_FLIP_B : Fld := ⟨0x41000100, 0, 8, 255⟩
def ECC_INJECT_ADDR_LO_ADDR : Fld := ⟨0x41000104, 3, 29, 0⟩
def ECC_INJECT_ADDR_HI_ADDR : Fld := ⟨0x41000108, 0, 8, 0⟩
def HARROW_CMD_START : Fld := ⟨0x41000200, 31, 1, 0⟩
def HARROW_CMD_TARGET : Fld := ⟨0x41000200, 28, 2, 0⟩
def HARROW_CMD_INSTANCE : Fld := ⟨0x41000200, 22, 6, 0⟩
def HARROW_CMD_PRESERVE : Fld := ⟨0x41000200, 21, 1, 0⟩
def HARROW_CMD_REPAIR : Fld := ⟨0x41000200, 20, 1, 0⟩
def HARROW_CMD_BG : Fld := ⟨0x41000200, 16, 4, 0⟩
def HARROW_STATUS_STATE : Fld := ⟨0x41000204, 30, 2, 0⟩
def HARROW_STATUS_RESULT : Fld := ⟨0x41000204, 28, 2, 0⟩
def HARROW_STATUS_CAUSE : Fld := ⟨0x41000204, 24, 4, 0⟩
def HARROW_STATUS_ROWS_REPAIRED : Fld := ⟨0x41000204, 16, 8, 0⟩
def HARROW_STATUS_FAIL_CORES : Fld := ⟨0x41000204, 0, 9, 0⟩
def HARROW_FAIL_ADDR : Fld := ⟨0x41000208, 0, 28, 0⟩
def GLEANER_CTRL_EN : Fld := ⟨0x41000300, 0, 8, 0⟩
def GLEANER_INTERVAL_INTERVAL (k : Nat) : Fld := ⟨0x41000310 + k * 0x4, 0, 16, (specialReset (0x41000310 + k * 0x4) 0 300)⟩
def GLEANER_REGIONS : Fld := ⟨0x41000340, 0, 32, 0⟩
def GLEANER_YIELDS : Fld := ⟨0x41000344, 0, 32, 0⟩
def GLEANER_CE : Fld := ⟨0x41000348, 0, 32, 0⟩
def GLEANER_UE : Fld := ⟨0x4100034C, 0, 32, 0⟩
def GLEANER_CELL_FAULTS : Fld := ⟨0x41000350, 0, 32, 0⟩
def GLEANER_POISON_SEEN : Fld := ⟨0x41000354, 0, 32, 0⟩
def ECC_CE (m i : Nat) : Fld := ⟨0x41010000 + m * 0x1000 + i * 0x10, 0, 32, 0⟩
def ECC_UE (m i : Nat) : Fld := ⟨0x41010004 + m * 0x1000 + i * 0x10, 0, 32, 0⟩
def ECC_POISON_READ (m i : Nat) : Fld := ⟨0x41010008 + m * 0x1000 + i * 0x10, 0, 32, 0⟩
def COMMONS_CTRL_IRQ_DEAD : Fld := ⟨0x46000000, 31, 1, 1⟩
def COMMONS_CTRL_ADVANCE : Fld := ⟨0x46000000, 30, 1, 0⟩
def COMMONS_CTRL_DISCARD_STAGE : Fld := ⟨0x46000000, 29, 1, 0⟩
def COMMONS_CTRL_AGE_SHIFT : Fld := ⟨0x46000000, 0, 5, 6⟩
def COMMONS_STATUS_DEAD_SEEN : Fld := ⟨0x46000004, 31, 1, 0⟩
def COMMONS_STATUS_ROUTE_REJECTED : Fld := ⟨0x46000004, 30, 1, 0⟩
def COMMONS_STATUS_ARMED3 : Fld := ⟨0x46000004, 29, 1, 0⟩
def COMMONS_STATUS_STAGED : Fld := ⟨0x46000004, 28, 1, 0⟩
def COMMONS_STATUS_EPOCH : Fld := ⟨0x46000004, 26, 2, 0⟩
def COMMONS_REJECT_SRC_NI : Fld := ⟨0x46000008, 24, 8, 0⟩
def COMMONS_REJECT_DEST_NI : Fld := ⟨0x46000008, 16, 8, 0⟩
def COMMONS_REJECT_CAUSE : Fld := ⟨0x46000008, 0, 4, 0⟩
def COMMONS_DEAD_LAST_ROUTER : Fld := ⟨0x4600000C, 3, 6, 0⟩
def COMMONS_DEAD_LAST_PORT : Fld := ⟨0x4600000C, 0, 3, 0⟩
def COMMONS_EPOCH_LIVE (e : Nat) : Fld := ⟨0x46000010 + e * 0x4, 0, 32, 0⟩
def COMMONS_DROP_UNPLANNED : Fld := ⟨0x46000020, 0, 32, 0⟩
def COMMONS_BAR_CFG_PARISH (b : Nat) : Fld := ⟨0x46001000 + b * 0x40, 31, 1, 0⟩
def COMMONS_BAR_CFG_IRQ_EN (b : Nat) : Fld := ⟨0x46001000 + b * 0x40, 30, 1, 0⟩
def COMMONS_BAR_CFG_EXTRA (b : Nat) : Fld := ⟨0x46001000 + b * 0x40, 0, 8, 0⟩
def COMMONS_BAR_ARRIVE (b : Nat) : Fld := ⟨0x46001004 + b * 0x40, 0, 32, 0⟩
def COMMONS_BAR_GEN (b : Nat) : Fld := ⟨0x46001008 + b * 0x40, 0, 32, 0⟩
def COMMONS_BAR_BCAST (b : Nat) : Fld := ⟨0x4600100C + b * 0x40, 0, 32, 0⟩
def COMMONS_BAR_VALUE (b : Nat) : Fld := ⟨0x46001010 + b * 0x40, 0, 32, 0⟩
def COMMONS_BAR_MASK (b w : Nat) : Fld := ⟨0x46001020 + b * 0x40 + w * 0x4, 0, 32, 0⟩
def PROBE_CFG_EN (k : Nat) : Fld := ⟨0x46004000 + k * 0x40, 31, 1, 0⟩
def PROBE_CFG_MODE (k : Nat) : Fld := ⟨0x46004000 + k * 0x40, 30, 1, 0⟩
def PROBE_CFG_WRAP (k : Nat) : Fld := ⟨0x46004000 + k * 0x40, 29, 1, 0⟩
def PROBE_CFG_ROUTER (k : Nat) : Fld := ⟨0x46004000 + k * 0x40, 23, 6, 0⟩
def PROBE_CFG_PORT (k : Nat) : Fld := ⟨0x46004000 + k * 0x40, 20, 3, 0⟩
def PROBE_CFG_VN (k : Nat) : Fld := ⟨0x46004000 + k * 0x40, 18, 2, 0⟩
def PROBE_CFG_ALL_VN (k : Nat) : Fld := ⟨0x46004000 + k * 0x40, 17, 1, 0⟩
def PROBE_CFG_ADDR_EN (k : Nat) : Fld := ⟨0x46004000 + k * 0x40, 16, 1, 0⟩
def PROBE_CFG_OP (k : Nat) : Fld := ⟨0x46004000 + k * 0x40, 12, 4, 0⟩
def PROBE_CFG_OP_ANY (k : Nat) : Fld := ⟨0x46004000 + k * 0x40, 11, 1, 1⟩
def PROBE_CFG_ERR_ONLY (k : Nat) : Fld := ⟨0x46004000 + k * 0x40, 10, 1, 0⟩
def PROBE_CFG_LOCK_GROUP (k : Nat) : Fld := ⟨0x46004000 + k * 0x40, 4, 6, 0⟩
def PROBE_CFG_WTAG (k : Nat) : Fld := ⟨0x46004000 + k * 0x40, 0, 4, 0⟩
def PROBE_MID_WIN_EN (k : Nat) : Fld := ⟨0x46004004 + k * 0x40, 31, 1, 0⟩
def PROBE_MID_MASK (k : Nat) : Fld := ⟨0x46004004 + k * 0x40, 8, 8, 0⟩
def PROBE_MID_VALUE (k : Nat) : Fld := ⟨0x46004004 + k * 0x40, 0, 8, 0⟩
def PROBE_BASE (k : Nat) : Fld := ⟨0x46004008 + k * 0x40, 0, 32, 0⟩
def PROBE_LIMIT (k : Nat) : Fld := ⟨0x4600400C + k * 0x40, 0, 32, 0⟩
def PROBE_PKTS (k : Nat) : Fld := ⟨0x46004010 + k * 0x40, 0, 32, 0⟩
def PROBE_FLITS (k : Nat) : Fld := ⟨0x46004014 + k * 0x40, 0, 32, 0⟩
def PROBE_LAT_SUM (k : Nat) : Fld := ⟨0x46004018 + k * 0x40, 0, 32, 0⟩
def PROBE_LAT_MAX (k : Nat) : Fld := ⟨0x4600401C + k * 0x40, 0, 32, 0⟩
def PROBE_HEAD (k w : Nat) : Fld := ⟨0x46004020 + k * 0x40 + w * 0x4, 0, 32, 0⟩
def PROBE_POP (k : Nat) : Fld := ⟨0x46004030 + k * 0x40, 0, 32, 0⟩
def PROBE_LEVEL_LEVEL (k : Nat) : Fld := ⟨0x46004034 + k * 0x40, 0, 9, 0⟩
def COMMONS_RTR_PORT_CTRL_CMD (r p : Nat) : Fld := ⟨0x46010000 + r * 0x100 + p * 0x4, 29, 3, 0⟩
def COMMONS_RTR_PORT_CTRL_EPOCH (r p : Nat) : Fld := ⟨0x46010000 + r * 0x100 + p * 0x4, 0, 2, 0⟩
def COMMONS_RTR_PORT_STATUS_STATE (r p : Nat) : Fld := ⟨0x46010020 + r * 0x100 + p * 0x4, 29, 3, (specialReset (0x46010020 + r * 0x100 + p * 0x4) 29 0)⟩
def COMMONS_RTR_PORT_STATUS_REFUSED (r p : Nat) : Fld := ⟨0x46010020 + r * 0x100 + p * 0x4, 28, 1, (specialReset (0x46010020 + r * 0x100 + p * 0x4) 28 0)⟩
def COMMONS_RTR_PORT_STATUS_CAUSE (r p : Nat) : Fld := ⟨0x46010020 + r * 0x100 + p * 0x4, 26, 2, (specialReset (0x46010020 + r * 0x100 + p * 0x4) 26 0)⟩
def COMMONS_RTR_PORT_STATUS_DRAINED (r p : Nat) : Fld := ⟨0x46010020 + r * 0x100 + p * 0x4, 25, 1, (specialReset (0x46010020 + r * 0x100 + p * 0x4) 25 0)⟩
def COMMONS_RTR_PORT_STATUS_USE_COUNT (r p : Nat) : Fld := ⟨0x46010020 + r * 0x100 + p * 0x4, 0, 17, (specialReset (0x46010020 + r * 0x100 + p * 0x4) 0 0)⟩
def COMMONS_RTR_LAPSED (r : Nat) : Fld := ⟨0x46010040 + r * 0x100, 0, 32, 0⟩
def COMMONS_RTR_ABSORBED_DEAD (r : Nat) : Fld := ⟨0x46010044 + r * 0x100, 0, 32, 0⟩
def COMMONS_RTR_ABSORBED_CLOSED (r : Nat) : Fld := ⟨0x46010048 + r * 0x100, 0, 32, 0⟩
def COMMONS_RTR_STALE (r : Nat) : Fld := ⟨0x4601004C + r * 0x100, 0, 32, 0⟩
def COMMONS_NI_CFG_BASE_URG_Q (n : Nat) : Fld := ⟨0x46020000 + n * 0x1000, 28, 4, 4⟩
def COMMONS_NI_CFG_BASE_URG_A (n : Nat) : Fld := ⟨0x46020000 + n * 0x1000, 24, 4, 8⟩
def COMMONS_NI_CFG_BASE_URG_S (n : Nat) : Fld := ⟨0x46020000 + n * 0x1000, 20, 4, 4⟩
def COMMONS_NI_CFG_BASE_URG_C (n : Nat) : Fld := ⟨0x46020000 + n * 0x1000, 16, 4, 12⟩
def COMMONS_NI_STATUS_HOLDING (n : Nat) : Fld := ⟨0x46020004 + n * 0x1000, 31, 1, 0⟩
def COMMONS_NI_STATUS_OUT_S (n : Nat) : Fld := ⟨0x46020004 + n * 0x1000, 16, 6, 0⟩
def COMMONS_NI_STATUS_OUT_Q (n : Nat) : Fld := ⟨0x46020004 + n * 0x1000, 0, 7, 0⟩
def COMMONS_NI_STRAY (n : Nat) : Fld := ⟨0x46020008 + n * 0x1000, 0, 32, 0⟩
def COMMONS_NI_SELF_ANSWERED (n : Nat) : Fld := ⟨0x4602000C + n * 0x1000, 0, 32, 0⟩
def COMMONS_NI_ROUTE_A_VALID (n d : Nat) : Fld := ⟨0x46020800 + n * 0x1000 + d * 0x8, 31, 1, 0⟩
def COMMONS_NI_ROUTE_A_CLOSED (n d : Nat) : Fld := ⟨0x46020800 + n * 0x1000 + d * 0x8, 30, 1, 0⟩
def COMMONS_NI_ROUTE_A_FIRST (n d : Nat) : Fld := ⟨0x46020800 + n * 0x1000 + d * 0x8, 28, 2, 0⟩
def COMMONS_NI_ROUTE_A_HOPS (n d : Nat) : Fld := ⟨0x46020800 + n * 0x1000 + d * 0x8, 23, 5, 0⟩
def COMMONS_NI_ROUTE_B_CODES (n d : Nat) : Fld := ⟨0x46020804 + n * 0x1000 + d * 0x8, 0, 32, 0⟩
def TALLY_CTRL_IRQ_FAULT : Fld := ⟨0x45000000, 31, 1, 1⟩
def TALLY_CTRL_IRQ_SNAP : Fld := ⟨0x45000000, 30, 1, 0⟩
def TALLY_STATUS_FAULT : Fld := ⟨0x45000004, 31, 1, 0⟩
def TALLY_STATUS_SNAP_REFUSED : Fld := ⟨0x45000004, 30, 1, 0⟩
def TALLY_STATUS_REFUSE_CAUSE : Fld := ⟨0x45000004, 27, 3, 0⟩
def TALLY_STATUS_GATE_REFUSED : Fld := ⟨0x45000004, 26, 1, 0⟩
def TALLY_STATUS_GATE_CAUSE : Fld := ⟨0x45000004, 24, 2, 0⟩
def TALLY_STATUS_GATE_DOMAIN : Fld := ⟨0x45000004, 0, 6, 0⟩
def TALLY_FAULT_LAST_ID : Fld := ⟨0x45000008, 0, 12, 0⟩
def TALLY_FAULT_COUNT_COUNT : Fld := ⟨0x4500000C, 0, 12, 0⟩
def TALLY_CORRECTED : Fld := ⟨0x45000010, 0, 32, 0⟩
def TALLY_SNAP_TICK : Fld := ⟨0x45000020, 0, 32, 0⟩
def TALLY_SNAP_ADDR_ADDR : Fld := ⟨0x45000024, 6, 20, 0⟩
def TALLY_SNAP_ARM_ARM : Fld := ⟨0x45000028, 31, 1, 0⟩
def TALLY_SNAP_ARM_PARISH : Fld := ⟨0x45000028, 30, 1, 0⟩
def TALLY_SNAP_STATUS_STATE : Fld := ⟨0x4500002C, 30, 2, 0⟩
def TALLY_SNAP_STATUS_STATUS : Fld := ⟨0x4500002C, 26, 4, 0⟩
def TALLY_SNAP_STATUS_RECORDS : Fld := ⟨0x4500002C, 13, 13, 0⟩
def TALLY_SNAP_STATUS_SNAP_SEQ : Fld := ⟨0x4500002C, 0, 8, 0⟩
def TALLY_PEEK_ID_ID : Fld := ⟨0x45000030, 0, 12, 0⟩
def TALLY_PEEK_STATUS_PEEK_VALID : Fld := ⟨0x45000034, 31, 1, 0⟩
def TALLY_PEEK_STATUS_PEEK_ABSENT : Fld := ⟨0x45000034, 30, 1, 0⟩
def TALLY_PEEK_STATUS_UNRECONCILED : Fld := ⟨0x45000034, 29, 1, 0⟩
def TALLY_PEEK_STATUS_BOUND : Fld := ⟨0x45000034, 28, 1, 0⟩
def TALLY_PEEK_STATUS_LEDGER_ID : Fld := ⟨0x45000034, 0, 12, 0⟩
def TALLY_PEEK_ISSUED_LO : Fld := ⟨0x45000038, 0, 32, 0⟩
def TALLY_PEEK_ISSUED_HI : Fld := ⟨0x4500003C, 0, 32, 0⟩
def TALLY_PEEK_RETURNED_LO : Fld := ⟨0x45000040, 0, 32, 0⟩
def TALLY_PEEK_RETURNED_HI : Fld := ⟨0x45000044, 0, 32, 0⟩
def TALLY_PEEK_OUT : Fld := ⟨0x45000048, 0, 32, 0⟩
def TALLY_DOMAIN_HELD_UNRECONCILED (d : Nat) : Fld := ⟨0x45000100 + d * 0x4, 31, 1, 0⟩
def TALLY_DOMAIN_HELD_NOT_DRAINED (d : Nat) : Fld := ⟨0x45000100 + d * 0x4, 30, 1, 0⟩
def TALLY_DOMAIN_HELD_HELD (d : Nat) : Fld := ⟨0x45000100 + d * 0x4, 0, 20, 0⟩
def CARTER_CTRL_ENABLE : Fld := ⟨0x49000000, 0, 1, 0⟩
def CARTER_DROP_UNPLANNED : Fld := ⟨0x49000004, 0, 32, 0⟩
def CARTER_SWEEP_STOPPED : Fld := ⟨0x49000008, 0, 32, 0⟩
def CARTER_CH_CTRL_START (c : Nat) : Fld := ⟨0x49001000 + c * 0x40, 31, 1, 0⟩
def CARTER_CH_CTRL_STOP (c : Nat) : Fld := ⟨0x49001000 + c * 0x40, 30, 1, 0⟩
def CARTER_CH_CTRL_PLANNED (c : Nat) : Fld := ⟨0x49001000 + c * 0x40, 29, 1, 0⟩
def CARTER_CH_CTRL_SPACE (c : Nat) : Fld := ⟨0x49001000 + c * 0x40, 28, 1, 0⟩
def CARTER_CH_CTRL_HEAD (c : Nat) : Fld := ⟨0x49001000 + c * 0x40, 5, 21, 0⟩
def CARTER_CH_CFG_IRQ_EN (c : Nat) : Fld := ⟨0x49001004 + c * 0x40, 31, 1, 0⟩
def CARTER_CH_CFG_DEST (c : Nat) : Fld := ⟨0x49001004 + c * 0x40, 29, 2, 0⟩
def CARTER_CH_CFG_PRIO (c : Nat) : Fld := ⟨0x49001004 + c * 0x40, 28, 1, 0⟩
def CARTER_CH_CFG_LIMIT (c : Nat) : Fld := ⟨0x49001004 + c * 0x40, 0, 17, 65536⟩
def CARTER_CH_STATE_STATE (c : Nat) : Fld := ⟨0x49001008 + c * 0x40, 30, 2, 0⟩
def CARTER_CH_STATE_PLAN_READY (c : Nat) : Fld := ⟨0x49001008 + c * 0x40, 29, 1, 0⟩
def CARTER_CH_STATE_WINDOWED (c : Nat) : Fld := ⟨0x49001008 + c * 0x40, 28, 1, 0⟩
def CARTER_CH_STATE_LOCK_GROUP (c : Nat) : Fld := ⟨0x49001008 + c * 0x40, 22, 6, 0⟩
def CARTER_CH_STATE_WTAG (c : Nat) : Fld := ⟨0x49001008 + c * 0x40, 18, 4, 0⟩
def CARTER_CH_STATE_DESC_COUNT (c : Nat) : Fld := ⟨0x49001008 + c * 0x40, 0, 17, 0⟩
def CARTER_CH_RESULT_VALID (c : Nat) : Fld := ⟨0x49001010 + c * 0x40, 63, 1, 0⟩
def CARTER_CH_RESULT_STALE (c : Nat) : Fld := ⟨0x49001010 + c * 0x40, 62, 1, 0⟩
def CARTER_CH_RESULT_END (c : Nat) : Fld := ⟨0x49001010 + c * 0x40, 58, 4, 0⟩
def CARTER_CH_RESULT_ABORT_LATE (c : Nat) : Fld := ⟨0x49001010 + c * 0x40, 57, 1, 0⟩
def CARTER_CH_RESULT_FETCH (c : Nat) : Fld := ⟨0x49001010 + c * 0x40, 56, 1, 0⟩
def CARTER_CH_RESULT_ANY_BAD (c : Nat) : Fld := ⟨0x49001010 + c * 0x40, 55, 1, 0⟩
def CARTER_CH_RESULT_ANY_LAPSED (c : Nat) : Fld := ⟨0x49001010 + c * 0x40, 54, 1, 0⟩
def CARTER_CH_RESULT_ANY_POISONED (c : Nat) : Fld := ⟨0x49001010 + c * 0x40, 53, 1, 0⟩
def CARTER_CH_RESULT_SEQ (c : Nat) : Fld := ⟨0x49001010 + c * 0x40, 40, 8, 0⟩
def CARTER_CH_RESULT_DESC_COUNT (c : Nat) : Fld := ⟨0x49001010 + c * 0x40, 0, 17, 0⟩
def CARTER_CH_CUR_SPACE (c : Nat) : Fld := ⟨0x4900100C + c * 0x40, 30, 1, 0⟩
def CARTER_CH_CUR_ADDR (c : Nat) : Fld := ⟨0x4900100C + c * 0x40, 5, 21, 0⟩
def CARTER_CH_IRQ_END (c : Nat) : Fld := ⟨0x49001018 + c * 0x40, 1, 1, 0⟩
def CARTER_CH_IRQ_DESC (c : Nat) : Fld := ⟨0x49001018 + c * 0x40, 0, 1, 0⟩
def CARTER_CH_BYTES (c : Nat) : Fld := ⟨0x4900101C + c * 0x40, 0, 32, 0⟩
def CARTER_CH_BAD (c : Nat) : Fld := ⟨0x49001020 + c * 0x40, 0, 32, 0⟩
def CARTER_CH_LAPSED (c : Nat) : Fld := ⟨0x49001024 + c * 0x40, 0, 32, 0⟩
def CARTER_CH_POISONED (c : Nat) : Fld := ⟨0x49001028 + c * 0x40, 0, 32, 0⟩
def CARTER_CH_COUNTS_REFUSED_STARTS (c : Nat) : Fld := ⟨0x4900102C + c * 0x40, 16, 16, 0⟩
def CARTER_CH_COUNTS_PLAN_REPLACED (c : Nat) : Fld := ⟨0x4900102C + c * 0x40, 0, 16, 0⟩
def HCARTER_CTRL_ENABLE (h : Nat) : Fld := ⟨0x10F04000 + h * 0x1000000, 0, 1, 0⟩
def HCARTER_DROP_UNPLANNED (h : Nat) : Fld := ⟨0x10F04004 + h * 0x1000000, 0, 32, 0⟩
def HCARTER_SWEEP_STOPPED (h : Nat) : Fld := ⟨0x10F04008 + h * 0x1000000, 0, 32, 0⟩
def HCARTER_CH_CTRL_START (h c : Nat) : Fld := ⟨0x10F04100 + h * 0x1000000 + c * 0x40, 31, 1, 0⟩
def HCARTER_CH_CTRL_STOP (h c : Nat) : Fld := ⟨0x10F04100 + h * 0x1000000 + c * 0x40, 30, 1, 0⟩
def HCARTER_CH_CTRL_PLANNED (h c : Nat) : Fld := ⟨0x10F04100 + h * 0x1000000 + c * 0x40, 29, 1, 0⟩
def HCARTER_CH_CTRL_SPACE (h c : Nat) : Fld := ⟨0x10F04100 + h * 0x1000000 + c * 0x40, 28, 1, 0⟩
def HCARTER_CH_CTRL_HEAD (h c : Nat) : Fld := ⟨0x10F04100 + h * 0x1000000 + c * 0x40, 5, 21, 0⟩
def HCARTER_CH_CFG_IRQ_EN (h c : Nat) : Fld := ⟨0x10F04104 + h * 0x1000000 + c * 0x40, 31, 1, 0⟩
def HCARTER_CH_CFG_DEST (h c : Nat) : Fld := ⟨0x10F04104 + h * 0x1000000 + c * 0x40, 29, 2, 0⟩
def HCARTER_CH_CFG_PRIO (h c : Nat) : Fld := ⟨0x10F04104 + h * 0x1000000 + c * 0x40, 28, 1, 0⟩
def HCARTER_CH_CFG_LIMIT (h c : Nat) : Fld := ⟨0x10F04104 + h * 0x1000000 + c * 0x40, 0, 17, 65536⟩
def HCARTER_CH_STATE_STATE (h c : Nat) : Fld := ⟨0x10F04108 + h * 0x1000000 + c * 0x40, 30, 2, 0⟩
def HCARTER_CH_STATE_PLAN_READY (h c : Nat) : Fld := ⟨0x10F04108 + h * 0x1000000 + c * 0x40, 29, 1, 0⟩
def HCARTER_CH_STATE_WINDOWED (h c : Nat) : Fld := ⟨0x10F04108 + h * 0x1000000 + c * 0x40, 28, 1, 0⟩
def HCARTER_CH_STATE_LOCK_GROUP (h c : Nat) : Fld := ⟨0x10F04108 + h * 0x1000000 + c * 0x40, 22, 6, 0⟩
def HCARTER_CH_STATE_WTAG (h c : Nat) : Fld := ⟨0x10F04108 + h * 0x1000000 + c * 0x40, 18, 4, 0⟩
def HCARTER_CH_STATE_DESC_COUNT (h c : Nat) : Fld := ⟨0x10F04108 + h * 0x1000000 + c * 0x40, 0, 17, 0⟩
def HCARTER_CH_RESULT_VALID (h c : Nat) : Fld := ⟨0x10F04110 + h * 0x1000000 + c * 0x40, 63, 1, 0⟩
def HCARTER_CH_RESULT_STALE (h c : Nat) : Fld := ⟨0x10F04110 + h * 0x1000000 + c * 0x40, 62, 1, 0⟩
def HCARTER_CH_RESULT_END (h c : Nat) : Fld := ⟨0x10F04110 + h * 0x1000000 + c * 0x40, 58, 4, 0⟩
def HCARTER_CH_RESULT_ABORT_LATE (h c : Nat) : Fld := ⟨0x10F04110 + h * 0x1000000 + c * 0x40, 57, 1, 0⟩
def HCARTER_CH_RESULT_FETCH (h c : Nat) : Fld := ⟨0x10F04110 + h * 0x1000000 + c * 0x40, 56, 1, 0⟩
def HCARTER_CH_RESULT_ANY_BAD (h c : Nat) : Fld := ⟨0x10F04110 + h * 0x1000000 + c * 0x40, 55, 1, 0⟩
def HCARTER_CH_RESULT_ANY_LAPSED (h c : Nat) : Fld := ⟨0x10F04110 + h * 0x1000000 + c * 0x40, 54, 1, 0⟩
def HCARTER_CH_RESULT_ANY_POISONED (h c : Nat) : Fld := ⟨0x10F04110 + h * 0x1000000 + c * 0x40, 53, 1, 0⟩
def HCARTER_CH_RESULT_SEQ (h c : Nat) : Fld := ⟨0x10F04110 + h * 0x1000000 + c * 0x40, 40, 8, 0⟩
def HCARTER_CH_RESULT_DESC_COUNT (h c : Nat) : Fld := ⟨0x10F04110 + h * 0x1000000 + c * 0x40, 0, 17, 0⟩
def HCARTER_CH_CUR_SPACE (h c : Nat) : Fld := ⟨0x10F0410C + h * 0x1000000 + c * 0x40, 30, 1, 0⟩
def HCARTER_CH_CUR_ADDR (h c : Nat) : Fld := ⟨0x10F0410C + h * 0x1000000 + c * 0x40, 5, 21, 0⟩
def HCARTER_CH_IRQ_END (h c : Nat) : Fld := ⟨0x10F04118 + h * 0x1000000 + c * 0x40, 1, 1, 0⟩
def HCARTER_CH_IRQ_DESC (h c : Nat) : Fld := ⟨0x10F04118 + h * 0x1000000 + c * 0x40, 0, 1, 0⟩
def HCARTER_CH_BYTES (h c : Nat) : Fld := ⟨0x10F0411C + h * 0x1000000 + c * 0x40, 0, 32, 0⟩
def HCARTER_CH_BAD (h c : Nat) : Fld := ⟨0x10F04120 + h * 0x1000000 + c * 0x40, 0, 32, 0⟩
def HCARTER_CH_LAPSED (h c : Nat) : Fld := ⟨0x10F04124 + h * 0x1000000 + c * 0x40, 0, 32, 0⟩
def HCARTER_CH_POISONED (h c : Nat) : Fld := ⟨0x10F04128 + h * 0x1000000 + c * 0x40, 0, 32, 0⟩
def HCARTER_CH_COUNTS_REFUSED_STARTS (h c : Nat) : Fld := ⟨0x10F0412C + h * 0x1000000 + c * 0x40, 16, 16, 0⟩
def HCARTER_CH_COUNTS_PLAN_REPLACED (h c : Nat) : Fld := ⟨0x10F0412C + h * 0x1000000 + c * 0x40, 0, 16, 0⟩
def QUAD_CFG_REF (q : Nat) : Fld := ⟨0x4F000000 + q * 0x4, 4, 3, 0⟩
def QUAD_CFG_RATE (q : Nat) : Fld := ⟨0x4F000000 + q * 0x4, 0, 4, 0⟩
def LANE_CFG_USE (l : Nat) : Fld := ⟨0x4F001000 + l * 0x40, 30, 2, 0⟩
def LANE_CFG_OWNER (l : Nat) : Fld := ⟨0x4F001000 + l * 0x40, 25, 5, 0⟩
def LANE_CFG_TX_INV (l : Nat) : Fld := ⟨0x4F001000 + l * 0x40, 24, 1, 0⟩
def LANE_CFG_RX_INV (l : Nat) : Fld := ⟨0x4F001000 + l * 0x40, 23, 1, 0⟩
def LANE_CFG_ADAPT_FREEZE (l : Nat) : Fld := ⟨0x4F001000 + l * 0x40, 22, 1, 0⟩
def LANE_CFG_TX_PAT (l : Nat) : Fld := ⟨0x4F001000 + l * 0x40, 20, 2, 0⟩
def LANE_CFG_RX_PAT (l : Nat) : Fld := ⟨0x4F001000 + l * 0x40, 18, 2, 0⟩
def LANE_STATUS_SIGNAL (l : Nat) : Fld := ⟨0x4F001004 + l * 0x40, 31, 1, 0⟩
def LANE_STATUS_CDR_LOCK (l : Nat) : Fld := ⟨0x4F001004 + l * 0x40, 30, 1, 0⟩
def LANE_STATUS_BLOCK_LOCK (l : Nat) : Fld := ⟨0x4F001004 + l * 0x40, 29, 1, 0⟩
def LANE_STATUS_MARKER_LOCK (l : Nat) : Fld := ⟨0x4F001004 + l * 0x40, 28, 1, 0⟩
def LANE_STATUS_PRBS_LOCK (l : Nat) : Fld := ⟨0x4F001004 + l * 0x40, 27, 1, 0⟩
def LANE_STATUS_RATE_ERR (l : Nat) : Fld := ⟨0x4F001004 + l * 0x40, 26, 1, 0⟩
def LANE_ERR_SYNC_ERR (l : Nat) : Fld := ⟨0x4F001008 + l * 0x40, 16, 16, 0⟩
def LANE_ERR_BIP_ERR (l : Nat) : Fld := ⟨0x4F001008 + l * 0x40, 0, 16, 0⟩
def LANE_PRBS_ERR (l : Nat) : Fld := ⟨0x4F00100C + l * 0x40, 0, 32, 0⟩
def LANE_MARGIN_CTRL_START (l : Nat) : Fld := ⟨0x4F001010 + l * 0x40, 31, 1, 0⟩
def LANE_MARGIN_CTRL_EYE (l : Nat) : Fld := ⟨0x4F001010 + l * 0x40, 29, 2, 1⟩
def LANE_MARGIN_CTRL_DWELL_LOG2 (l : Nat) : Fld := ⟨0x4F001010 + l * 0x40, 24, 5, 20⟩
def LANE_MARGIN_CTRL_H_OFF (l : Nat) : Fld := ⟨0x4F001010 + l * 0x40, 8, 6, 0⟩
def LANE_MARGIN_CTRL_V_OFF (l : Nat) : Fld := ⟨0x4F001010 + l * 0x40, 0, 6, 0⟩
def LANE_MARGIN_RESULT_DONE (l : Nat) : Fld := ⟨0x4F001014 + l * 0x40, 31, 1, 0⟩
def LANE_MARGIN_RESULT_MISMATCH (l : Nat) : Fld := ⟨0x4F001014 + l * 0x40, 0, 31, 0⟩
def LANE_RECAL_RECAL (l : Nat) : Fld := ⟨0x4F001018 + l * 0x40, 31, 1, 0⟩
def LANE_RECAL_BUSY (l : Nat) : Fld := ⟨0x4F001018 + l * 0x40, 30, 1, 0⟩
def EWL_CFG_EN (k : Nat) : Fld := ⟨0x4F004000 + k * 0x100, 31, 1, 0⟩
def EWL_CFG_MODE (k : Nat) : Fld := ⟨0x4F004000 + k * 0x100, 30, 1, 0⟩
def EWL_CFG_LANES_M1 (k : Nat) : Fld := ⟨0x4F004000 + k * 0x100, 27, 3, 0⟩
def EWL_CFG_FIRST_LANE (k : Nat) : Fld := ⟨0x4F004000 + k * 0x100, 21, 6, 0⟩
def EWL_CFG_EXPECT_MEMBER (k : Nat) : Fld := ⟨0x4F004000 + k * 0x100, 18, 3, 0⟩
def EWL_CFG_TIME_EN (k : Nat) : Fld := ⟨0x4F004000 + k * 0x100, 17, 1, 0⟩
def EWL_CFG_LINK_ID (k : Nat) : Fld := ⟨0x4F004000 + k * 0x100, 8, 8, 0⟩
def EWL_CFG_CHAFF_P64 (k : Nat) : Fld := ⟨0x4F004000 + k * 0x100, 0, 6, 63⟩
def EWL_STATUS_STATE (k : Nat) : Fld := ⟨0x4F004004 + k * 0x100, 30, 2, 0⟩
def EWL_STATUS_SILENT (k : Nat) : Fld := ⟨0x4F004004 + k * 0x100, 29, 1, 0⟩
def EWL_STATUS_MEMBER_MISMATCH (k : Nat) : Fld := ⟨0x4F004004 + k * 0x100, 28, 1, 0⟩
def EWL_STATUS_LANE_MISMATCH (k : Nat) : Fld := ⟨0x4F004004 + k * 0x100, 27, 1, 0⟩
def EWL_STATUS_LANE_CONFLICT (k : Nat) : Fld := ⟨0x4F004004 + k * 0x100, 26, 1, 0⟩
def EWL_STATUS_TIME_VALID (k : Nat) : Fld := ⟨0x4F004004 + k * 0x100, 25, 1, 0⟩
def EWL_STATUS_AM_LOCKED (k : Nat) : Fld := ⟨0x4F004004 + k * 0x100, 8, 8, 0⟩
def EWL_STATUS_SKEW (k : Nat) : Fld := ⟨0x4F004004 + k * 0x100, 0, 8, 0⟩
def EWL_TIME_ASYM (k : Nat) : Fld := ⟨0x4F004008 + k * 0x100, 0, 32, 0⟩
def EWL_TIME_OFFSET (k : Nat) : Fld := ⟨0x4F00400C + k * 0x100, 0, 32, 0⟩
def EWL_TIME_DELAY (k : Nat) : Fld := ⟨0x4F004010 + k * 0x100, 0, 32, 0⟩
def EWL_COUNTS_LINK_DROPS (k : Nat) : Fld := ⟨0x4F004014 + k * 0x100, 16, 16, 0⟩
def EWL_COUNTS_CRC_ERR (k : Nat) : Fld := ⟨0x4F004014 + k * 0x100, 0, 16, 0⟩
def EWL_CHAFF_DELETED (k : Nat) : Fld := ⟨0x4F004018 + k * 0x100, 16, 16, 0⟩
def EWL_CHAFF_INSERTED (k : Nat) : Fld := ⟨0x4F004018 + k * 0x100, 0, 16, 0⟩
def EWL_DROPS_ROUTE_DROPS (k : Nat) : Fld := ⟨0x4F00401C + k * 0x100, 16, 16, 0⟩
def EWL_DROPS_STREAM_DROPS (k : Nat) : Fld := ⟨0x4F00401C + k * 0x100, 0, 16, 0⟩
def EWL_PARISH_IN_PARISH : Fld := ⟨0x4F008000, 31, 1, 0⟩
def EWL_PARISH_MEMBER : Fld := ⟨0x4F008000, 0, 3, 0⟩
def EWL_ROUTE : Fld := ⟨0x4F008004, 0, 32, 0⟩
def EWL_MEMBER_STATUS_REMOTE_DEAD (d : Nat) : Fld := ⟨0x4F008010 + d * 0x4, 31, 1, 0⟩
def EWL_MEMBER_STATUS_REVIVE (d : Nat) : Fld := ⟨0x4F008010 + d * 0x4, 30, 1, 0⟩
def EWL_MEMBER_STATUS_REACHABLE (d : Nat) : Fld := ⟨0x4F008010 + d * 0x4, 29, 1, 0⟩
def EWL_MEMBER_STATUS_LATE_ANSWERS (d : Nat) : Fld := ⟨0x4F008010 + d * 0x4, 12, 12, 0⟩
def EWL_MEMBER_STATUS_TIMEOUTS (d : Nat) : Fld := ⟨0x4F008010 + d * 0x4, 0, 12, 0⟩
def EWL_STREAM_CFG_EN (s : Nat) : Fld := ⟨0x4F009000 + s * 0x4, 31, 1, 0⟩
def EWL_STREAM_CFG_DIR (s : Nat) : Fld := ⟨0x4F009000 + s * 0x4, 30, 1, 0⟩
def EWL_STREAM_CFG_LINK (s : Nat) : Fld := ⟨0x4F009000 + s * 0x4, 27, 3, 0⟩
def MARKET_CTRL_ENABLE : Fld := ⟨0x50000000, 0, 1, 0⟩
def MARKET_DROP_UNPLANNED : Fld := ⟨0x50000004, 0, 32, 0⟩
def MARKET_SWEEP_DROPPED : Fld := ⟨0x50000008, 0, 32, 0⟩
def MARKET_NOTIFY_LAPSED : Fld := ⟨0x5000000C, 0, 32, 0⟩
def MARKET_BUF_CFG_LAND_RESERVE : Fld := ⟨0x50000010, 16, 16, 0⟩
def MARKET_BUF_CFG_TC_MAX : Fld := ⟨0x50000010, 0, 16, 0⟩
def MARKET_BUF_STATUS_CELLS : Fld := ⟨0x50000014, 0, 17, 0⟩
def MARKET_TX_READY_LOCK_GROUP : Fld := ⟨0x50000018, 16, 6, 0⟩
def MARKET_TX_READY_WTAG : Fld := ⟨0x50000018, 12, 4, 0⟩
def MARKET_TX_READY_INDEX : Fld := ⟨0x50000018, 0, 12, 0⟩
def MARKET_PCP_TO_TC_MAP : Fld := ⟨0x5000001C, 0, 24, 0⟩
def MARKET_PORT_CFG_EN (p : Nat) : Fld := ⟨0x50001000 + p * 0x100, 31, 1, 0⟩
def MARKET_PORT_CFG_TRAIN (p : Nat) : Fld := ⟨0x50001000 + p * 0x100, 30, 1, 0⟩
def MARKET_PORT_CFG_RETRAIN (p : Nat) : Fld := ⟨0x50001000 + p * 0x100, 29, 1, 0⟩
def MARKET_PORT_CFG_MODE (p : Nat) : Fld := ⟨0x50001000 + p * 0x100, 26, 3, 0⟩
def MARKET_PORT_CFG_FEC (p : Nat) : Fld := ⟨0x50001000 + p * 0x100, 23, 3, 0⟩
def MARKET_PORT_CFG_FIRST_LANE (p : Nat) : Fld := ⟨0x50001000 + p * 0x100, 17, 6, 0⟩
def MARKET_PORT_CFG_MAX_FRAME (p : Nat) : Fld := ⟨0x50001000 + p * 0x100, 0, 14, 1518⟩
def MARKET_PORT_STATUS_STATE (p : Nat) : Fld := ⟨0x50001004 + p * 0x100, 30, 2, 0⟩
def MARKET_PORT_STATUS_CFG_ERR (p : Nat) : Fld := ⟨0x50001004 + p * 0x100, 29, 1, 0⟩
def MARKET_PORT_STATUS_TXQ_FULL (p : Nat) : Fld := ⟨0x50001004 + p * 0x100, 28, 1, 0⟩
def MARKET_PORT_STATUS_FEC_LOCK (p : Nat) : Fld := ⟨0x50001004 + p * 0x100, 27, 1, 0⟩
def MARKET_PTP_CFG_ROLE (p : Nat) : Fld := ⟨0x50001008 + p * 0x100, 30, 2, 0⟩
def MARKET_PTP_CFG_ASYM_EN (p : Nat) : Fld := ⟨0x50001008 + p * 0x100, 29, 1, 0⟩
def MARKET_PTP_CFG_TS_OVERFLOW (p : Nat) : Fld := ⟨0x50001008 + p * 0x100, 28, 1, 0⟩
def MARKET_PTP_CFG_GUARD_NS (p : Nat) : Fld := ⟨0x50001008 + p * 0x100, 0, 24, 0⟩
def MARKET_PTP_IN_LAT (p : Nat) : Fld := ⟨0x5000100C + p * 0x100, 0, 32, 0⟩
def MARKET_PTP_OUT_LAT (p : Nat) : Fld := ⟨0x50001010 + p * 0x100, 0, 32, 0⟩
def MARKET_PTP_ASYM (p : Nat) : Fld := ⟨0x50001014 + p * 0x100, 0, 32, 0⟩
def MARKET_PTP_PDELAY (p : Nat) : Fld := ⟨0x50001018 + p * 0x100, 0, 32, 0⟩
def MARKET_TS_CAP (p w : Nat) : Fld := ⟨0x50001020 + p * 0x100 + w * 0x4, 0, 32, 0⟩
def MARKET_TS_POP (p : Nat) : Fld := ⟨0x50001030 + p * 0x100, 0, 32, 0⟩
def MARKET_PORT_COUNT (p i : Nat) : Fld := ⟨0x50001040 + p * 0x100 + i * 0x4, 0, 32, 0⟩
def MARKET_FEC_CORR (p : Nat) : Fld := ⟨0x50001080 + p * 0x100, 0, 32, 0⟩
def MARKET_FEC_UNCORR (p : Nat) : Fld := ⟨0x50001084 + p * 0x100, 0, 32, 0⟩
def MARKET_LINK_LOSS (p : Nat) : Fld := ⟨0x50001088 + p * 0x100, 0, 32, 0⟩
def MARKET_TRAIN_RESTARTS (p : Nat) : Fld := ⟨0x5000108C + p * 0x100, 0, 32, 0⟩
def MARKET_FLOW (e w : Nat) : Fld := ⟨0x50010000 + e * 0x20 + w * 0x4, 0, 32, 0⟩
def MARKET_LQ_CFG_IRQ_EN (q : Nat) : Fld := ⟨0x50020000 + q * 0x10, 31, 1, 0⟩
def MARKET_LQ_CFG_DEST (q : Nat) : Fld := ⟨0x50020000 + q * 0x10, 30, 1, 0⟩
def MARKET_LQ_CFG_SIZE_LOG2 (q : Nat) : Fld := ⟨0x50020000 + q * 0x10, 0, 5, 0⟩
def MARKET_LQ_BASE_ADDR (q : Nat) : Fld := ⟨0x50020004 + q * 0x10, 2, 24, 0⟩
def MARKET_LQ_PROD (q : Nat) : Fld := ⟨0x50020008 + q * 0x10, 0, 32, 0⟩
def MARKET_LQ_CONS (q : Nat) : Fld := ⟨0x5002000C + q * 0x10, 0, 32, 0⟩
def MARKET_STREAM_CFG_EN (s : Nat) : Fld := ⟨0x50021000 + s * 0x20, 31, 1, 0⟩
def MARKET_STREAM_CFG_DIR (s : Nat) : Fld := ⟨0x50021000 + s * 0x20, 30, 1, 0⟩
def MARKET_STREAM_CFG_TARGET (s : Nat) : Fld := ⟨0x50021000 + s * 0x20, 29, 1, 0⟩
def MARKET_STREAM_CFG_STOOL (s : Nat) : Fld := ⟨0x50021000 + s * 0x20, 25, 4, 0⟩
def MARKET_STREAM_CFG_PORT (s : Nat) : Fld := ⟨0x50021000 + s * 0x20, 20, 5, 0⟩
def MARKET_STREAM_CFG_TC (s : Nat) : Fld := ⟨0x50021000 + s * 0x20, 17, 3, 0⟩
def MARKET_STREAM_CFG_SPP (s : Nat) : Fld := ⟨0x50021000 + s * 0x20, 0, 12, 0⟩
def MARKET_STREAM_ANCHOR_SEQ (s : Nat) : Fld := ⟨0x50021004 + s * 0x20, 0, 32, 0⟩
def MARKET_STREAM_ANCHOR_SFN (s : Nat) : Fld := ⟨0x50021008 + s * 0x20, 0, 32, 0⟩
def MARKET_STREAM_ANCHOR_IDX (s : Nat) : Fld := ⟨0x5002100C + s * 0x20, 0, 32, 0⟩
def MARKET_STREAM_TEMPLATE_ADDR (s : Nat) : Fld := ⟨0x50021010 + s * 0x20, 6, 20, 0⟩
def MARKET_STREAM_TEMPLATE_HLEN (s : Nat) : Fld := ⟨0x50021010 + s * 0x20, 0, 6, 0⟩
def MARKET_STREAM_ERR (s : Nat) : Fld := ⟨0x50021014 + s * 0x20, 0, 32, 0⟩
def MARKET_TXQ_PUSH (t : Nat) : Fld := ⟨0x50022000 + t * 0x10, 0, 32, 0⟩
def MARKET_TXQ_LEVEL_LEVEL (t : Nat) : Fld := ⟨0x50022004 + t * 0x10, 0, 8, 0⟩
def MARKET_SYNCE_OUT_EN (k : Nat) : Fld := ⟨0x50038000 + k * 0x4, 31, 1, 0⟩
def MARKET_SYNCE_OUT_SQUELCH (k : Nat) : Fld := ⟨0x50038000 + k * 0x4, 30, 1, 0⟩
def MARKET_SYNCE_OUT_SQUELCHED (k : Nat) : Fld := ⟨0x50038000 + k * 0x4, 29, 1, 1⟩
def MARKET_SYNCE_OUT_FREQ (k : Nat) : Fld := ⟨0x50038000 + k * 0x4, 28, 1, 0⟩
def MARKET_SYNCE_OUT_PORT (k : Nat) : Fld := ⟨0x50038000 + k * 0x4, 0, 5, 0⟩
def HOST_STATUS_BOOT : Fld := ⟨0x43000000, 30, 2, 0⟩
def HOST_STATUS_LINK_UP : Fld := ⟨0x43000000, 29, 1, 0⟩
def HOST_STATUS_SPEED : Fld := ⟨0x43000000, 26, 3, 0⟩
def HOST_STATUS_WIDTH : Fld := ⟨0x43000000, 21, 5, 0⟩
def HOST_PF2_WINDOW_WINDOW_MS : Fld := ⟨0x43000004, 0, 10, 850⟩
def HOST_IN_WERR : Fld := ⟨0x43000010, 0, 32, 0⟩
def HOST_DB_UNBOUND : Fld := ⟨0x43000014, 0, 32, 0⟩
def HOST_OB_TIMEOUTS : Fld := ⟨0x43000018, 0, 32, 0⟩
def HOST_LATE_CPL : Fld := ⟨0x4300001C, 0, 32, 0⟩
def HOST_HCQ_LOST : Fld := ⟨0x43000020, 0, 32, 0⟩
def HOST_OB_MAP_LO_EN (r : Nat) : Fld := ⟨0x43001000 + r * 0x8, 31, 1, 0⟩
def HOST_OB_MAP_LO_NS (r : Nat) : Fld := ⟨0x43001000 + r * 0x8, 30, 1, 0⟩
def HOST_OB_MAP_LO_FN (r : Nat) : Fld := ⟨0x43001000 + r * 0x8, 16, 8, 0⟩
def HOST_OB_MAP_LO_ADDR_31_30 (r : Nat) : Fld := ⟨0x43001000 + r * 0x8, 0, 2, 0⟩
def HOST_OB_MAP_HI_ADDR (r : Nat) : Fld := ⟨0x43001004 + r * 0x8, 0, 32, 0⟩
def HOST_DB_BIND_EN (f d : Nat) : Fld := ⟨0x43002000 + f * 0x40 + d * 0x4, 31, 1, 0⟩
def HOST_DB_BIND_OFFSET (f d : Nat) : Fld := ⟨0x43002000 + f * 0x40 + d * 0x4, 2, 28, 0⟩
def HOST_FN_WIN_EN (f : Nat) : Fld := ⟨0x43004000 + f * 0x4, 31, 1, 0⟩
def HOST_FN_WIN_BASE (f : Nat) : Fld := ⟨0x43004000 + f * 0x4, 0, 20, 0⟩
def HOST_PF2_VF_STOOLS_STATE (v : Nat) : Fld := ⟨0x43004200 + v * 0x4, 30, 2, 0⟩
def HOST_PF2_VF_STOOLS_MASK (v : Nat) : Fld := ⟨0x43004200 + v * 0x4, 0, 16, 0⟩
def HOST_IRQ_ROUTE_EN (s : Nat) : Fld := ⟨0x43005000 + s * 0x4, 31, 1, 0⟩
def HOST_IRQ_ROUTE_VIA_HCQ (s : Nat) : Fld := ⟨0x43005000 + s * 0x4, 30, 1, 0⟩
def HOST_IRQ_ROUTE_HCQ (s : Nat) : Fld := ⟨0x43005000 + s * 0x4, 23, 7, 0⟩
def HOST_IRQ_ROUTE_FN (s : Nat) : Fld := ⟨0x43005000 + s * 0x4, 15, 8, 0⟩
def HOST_IRQ_ROUTE_VECTOR (s : Nat) : Fld := ⟨0x43005000 + s * 0x4, 8, 7, 0⟩
def HOST_HCQ_CFG_EN (h : Nat) : Fld := ⟨0x43006000 + h * 0x10, 31, 1, 0⟩
def HOST_HCQ_CFG_FN (h : Nat) : Fld := ⟨0x43006000 + h * 0x10, 23, 8, 0⟩
def HOST_HCQ_CFG_VECTOR (h : Nat) : Fld := ⟨0x43006000 + h * 0x10, 16, 7, 0⟩
def HOST_HCQ_CFG_SIZE_LOG2 (h : Nat) : Fld := ⟨0x43006000 + h * 0x10, 0, 4, 4⟩
def HOST_HCQ_BASE_LO_ADDR (h : Nat) : Fld := ⟨0x43006004 + h * 0x10, 6, 26, 0⟩
def HOST_HCQ_BASE_HI_ADDR (h : Nat) : Fld := ⟨0x43006008 + h * 0x10, 0, 32, 0⟩
def HOST_HCQ_TAIL (h : Nat) : Fld := ⟨0x4300600C + h * 0x10, 0, 32, 0⟩
def COPPICE_CTRL_IRQ_LOAD : Fld := ⟨0x51000000, 2, 1, 0⟩
def COPPICE_CTRL_SECURE_REQ : Fld := ⟨0x51000000, 1, 1, 0⟩
def COPPICE_CTRL_ENABLE : Fld := ⟨0x51000000, 0, 1, 0⟩
def COPPICE_ID : Fld := ⟨0x51000004, 0, 32, 547841⟩
def COPPICE_REV_REV : Fld := ⟨0x51000008, 0, 4, 3⟩
def COPPICE_LOAD_CTRL_BEGIN : Fld := ⟨0x51000010, 31, 1, 0⟩
def COPPICE_LOAD_CTRL_END : Fld := ⟨0x51000010, 30, 1, 0⟩
def COPPICE_LOAD_CTRL_ABORT : Fld := ⟨0x51000010, 29, 1, 0⟩
def COPPICE_LOAD_STATUS_STATE : Fld := ⟨0x51000014, 28, 4, 0⟩
def COPPICE_LOAD_STATUS_STATUS : Fld := ⟨0x51000014, 25, 3, 0⟩
def COPPICE_LOAD_STATUS_ABORT_LATE : Fld := ⟨0x51000014, 24, 1, 0⟩
def COPPICE_LOAD_STATUS_TOUCHED : Fld := ⟨0x51000014, 23, 1, 0⟩
def COPPICE_LOAD_STATUS_BEGIN_REFUSED : Fld := ⟨0x51000014, 22, 1, 0⟩
def COPPICE_LOAD_STATUS_CAUSE : Fld := ⟨0x51000014, 16, 4, 0⟩
def COPPICE_LOAD_STATUS_MASK : Fld := ⟨0x51000014, 0, 16, 0⟩
def COPPICE_LOAD_BYTES : Fld := ⟨0x51000018, 0, 32, 0⟩
def COPPICE_LOAD_FRAME : Fld := ⟨0x5100001C, 0, 32, 0⟩
def COPPICE_LOAD_TIMEOUT_MS : Fld := ⟨0x51000020, 0, 14, 100⟩
def COPPICE_IDLE_WRITES : Fld := ⟨0x51000024, 0, 32, 0⟩
def COPPICE_EXTRA_BYTES : Fld := ⟨0x51000028, 0, 32, 0⟩
def COPPICE_UCLK_CFG_EN (k : Nat) : Fld := ⟨0x51000100 + k * 0x4, 31, 1, 0⟩
def COPPICE_UCLK_CFG_LOCKED (k : Nat) : Fld := ⟨0x51000100 + k * 0x4, 30, 1, 0⟩
def COPPICE_UCLK_CFG_REFUSED (k : Nat) : Fld := ⟨0x51000100 + k * 0x4, 29, 1, 0⟩
def COPPICE_UCLK_CFG_FREQ_KHZ (k : Nat) : Fld := ⟨0x51000100 + k * 0x4, 0, 20, 100000⟩
def COPPICE_STOOL_CTRL_CMD (s : Nat) : Fld := ⟨0x51001000 + s * 0x40, 29, 3, 0⟩
def COPPICE_STOOL_STATUS_STATE (s : Nat) : Fld := ⟨0x51001004 + s * 0x40, 29, 3, 0⟩
def COPPICE_STOOL_STATUS_REFUSED (s : Nat) : Fld := ⟨0x51001004 + s * 0x40, 28, 1, 0⟩
def COPPICE_STOOL_STATUS_CAUSE (s : Nat) : Fld := ⟨0x51001004 + s * 0x40, 26, 2, 0⟩
def COPPICE_STOOL_STATUS_CLOCKS (s : Nat) : Fld := ⟨0x51001004 + s * 0x40, 18, 8, 0⟩
def COPPICE_STOOL_PID (s : Nat) : Fld := ⟨0x51001008 + s * 0x40, 0, 32, 0⟩
def COPPICE_STOOL_IRQ_IRQ_HOST (s : Nat) : Fld := ⟨0x5100100C + s * 0x40, 0, 8, 0⟩
def COPPICE_STOOL_WIN_BASE_EN (s w : Nat) : Fld := ⟨0x51001010 + s * 0x40 + w * 0x8, 31, 1, 0⟩
def COPPICE_STOOL_WIN_BASE_WR (s w : Nat) : Fld := ⟨0x51001010 + s * 0x40 + w * 0x8, 30, 1, 0⟩
def COPPICE_STOOL_WIN_BASE_BASE (s w : Nat) : Fld := ⟨0x51001010 + s * 0x40 + w * 0x8, 0, 20, 0⟩
def COPPICE_STOOL_WIN_LIMIT_LIMIT (s w : Nat) : Fld := ⟨0x51001014 + s * 0x40 + w * 0x8, 0, 20, 0⟩
def COPPICE_STOOL_TIMEOUTS (s : Nat) : Fld := ⟨0x51001030 + s * 0x40, 0, 32, 0⟩
def COPPICE_STOOL_LATE (s : Nat) : Fld := ⟨0x51001034 + s * 0x40, 0, 32, 0⟩
def COPPICE_STOOL_DROPS (s : Nat) : Fld := ⟨0x51001038 + s * 0x40, 0, 32, 0⟩
def COPPICE_STOOL_REFUSED (s : Nat) : Fld := ⟨0x5100103C + s * 0x40, 0, 32, 0⟩
def COPPICE_READBACK_STOOL : Fld := ⟨0x51002000, 28, 4, 0⟩
def COPPICE_READBACK_TYPE : Fld := ⟨0x51002000, 26, 2, 0⟩
def COPPICE_READBACK_INDEX : Fld := ⟨0x51002000, 0, 11, 0⟩
def COPPICE_READBACK_DATA (w : Nat) : Fld := ⟨0x51002400 + w * 0x4, 0, 32, 0⟩
def STRONG_STATUS_STATE : Fld := ⟨0x42000000, 30, 2, 0⟩
def STRONG_STATUS_APPROVED : Fld := ⟨0x42000000, 29, 1, 0⟩
def STRONG_STATUS_APPROVED_ONLY : Fld := ⟨0x42000000, 28, 1, 0⟩
def STRONG_STATUS_POST_PASS : Fld := ⟨0x42000000, 27, 1, 0⟩
def STRONG_STATUS_ZEROIZE_PIN : Fld := ⟨0x42000000, 26, 1, 0⟩
def STRONG_STATUS_KEYS : Fld := ⟨0x42000000, 0, 11, 0⟩
def STRONG_ERR_CAUSE : Fld := ⟨0x42000004, 0, 4, 0⟩
def STRONG_OTP_STATE_LIFECYCLE : Fld := ⟨0x42000008, 30, 2, 0⟩
def STRONG_OTP_STATE_DUK_DESTROYED : Fld := ⟨0x42000008, 29, 1, 0⟩
def STRONG_OTP_STATE_BOOT_SLOT : Fld := ⟨0x42000008, 20, 5, 0⟩
def STRONG_OTP_STATE_REVOKE : Fld := ⟨0x42000008, 16, 4, 0⟩
def STRONG_OTP_STATE_ROLLBACK : Fld := ⟨0x42000008, 0, 7, 0⟩
def STRONG_ZEROIZE_COUNT : Fld := ⟨0x4200000C, 0, 32, 0⟩
def STRONG_CTRL_RESTART : Fld := ⟨0x42000010, 0, 1, 0⟩
def STRONG_SERIAL (i : Nat) : Fld := ⟨0x42000014 + i * 0x4, 0, 32, 0⟩
def STRONG_CHALLENGE (i : Nat) : Fld := ⟨0x42000024 + i * 0x4, 0, 32, 0⟩
def STRONG_DBG_CTRL_NEW_CHALLENGE : Fld := ⟨0x42000044, 1, 1, 0⟩
def STRONG_DBG_CTRL_SUBMIT : Fld := ⟨0x42000044, 0, 1, 0⟩
def STRONG_DBG_STATUS_LOCKOUT : Fld := ⟨0x42000048, 31, 1, 0⟩
def STRONG_DBG_STATUS_ACCEPTED : Fld := ⟨0x42000048, 30, 1, 0⟩
def STRONG_DBG_STATUS_PERM : Fld := ⟨0x42000048, 0, 5, 0⟩
def STRONG_Q_CFG_BOUND (q : Nat) : Fld := ⟨0x42000100 + q * 0x10, 31, 1, (specialReset (0x42000100 + q * 0x10) 31 0)⟩
def STRONG_Q_CFG_ROLE (q : Nat) : Fld := ⟨0x42000100 + q * 0x10, 29, 2, (specialReset (0x42000100 + q * 0x10) 29 0)⟩
def STRONG_Q_CFG_DEST (q : Nat) : Fld := ⟨0x42000100 + q * 0x10, 28, 1, (specialReset (0x42000100 + q * 0x10) 28 0)⟩
def STRONG_Q_CFG_MID (q : Nat) : Fld := ⟨0x42000100 + q * 0x10, 16, 8, (specialReset (0x42000100 + q * 0x10) 16 0)⟩
def STRONG_Q_CFG_SIZE_LOG2 (q : Nat) : Fld := ⟨0x42000100 + q * 0x10, 0, 4, (specialReset (0x42000100 + q * 0x10) 0 4)⟩
def STRONG_Q_BASE_ADDR (q : Nat) : Fld := ⟨0x42000104 + q * 0x10, 6, 20, 0⟩
def STRONG_Q_PROD_PROD (q : Nat) : Fld := ⟨0x42000108 + q * 0x10, 0, 16, 0⟩
def STRONG_Q_CONS_CONS (q : Nat) : Fld := ⟨0x4200010C + q * 0x10, 0, 16, 0⟩
def STRONG_DBG_RESP (w : Nat) : Fld := ⟨0x42000200 + w * 0x4, 0, 32, 0⟩
def HEARTH_BOOT_STATUS_STATE : Fld := ⟨0x40000000, 30, 2, 0⟩
def HEARTH_BOOT_STATUS_REFUSED : Fld := ⟨0x40000000, 29, 1, 0⟩
def HEARTH_BOOT_STATUS_FAST : Fld := ⟨0x40000000, 28, 1, 0⟩
def HEARTH_BOOT_STATUS_CAUSE : Fld := ⟨0x40000000, 16, 8, 0⟩
def HEARTH_BOOT_STATUS_STEP : Fld := ⟨0x40000000, 8, 8, 1⟩
def HEARTH_BOOT_STATUS_BOOT_SLOT : Fld := ⟨0x40000000, 0, 8, 255⟩
def HEARTH_STRAPS_RECOVERY : Fld := ⟨0x40000004, 31, 1, 0⟩
def HEARTH_STRAPS_FAST : Fld := ⟨0x40000004, 6, 1, 0⟩
def HEARTH_STRAPS_I2C : Fld := ⟨0x40000004, 4, 2, 0⟩
def HEARTH_STRAPS_SPI : Fld := ⟨0x40000004, 2, 2, 0⟩
def HEARTH_STRAPS_BOOT : Fld := ⟨0x40000004, 0, 2, 0⟩
def HEARTH_RELEASE_HAMLET : Fld := ⟨0x40000008, 16, 16, 0⟩
def HEARTH_RELEASE_HALL : Fld := ⟨0x40000008, 0, 16, 0⟩
def HEARTH_HALL_VECTOR_LO : Fld := ⟨0x40000010, 0, 32, 0⟩
def HEARTH_HALL_VECTOR_HI : Fld := ⟨0x40000014, 0, 8, 0⟩
def HEARTH_CRIER_ENTER : Fld := ⟨0x40000020, 0, 32, 0⟩
def HEARTH_RCV_CTRL_KEY : Fld := ⟨0x40000024, 16, 16, 0⟩
def HEARTH_RCV_CTRL_REBOOT : Fld := ⟨0x40000024, 0, 1, 0⟩
def CRIER_RECORD (w : Nat) : Fld := ⟨0x40000100 + w * 0x4, 0, 32, 0⟩
def HAMLET_SPARE_CTRL_TAKE (h : Nat) : Fld := ⟨0x10F05000 + h * 0x1000000, 31, 1, 0⟩
def HAMLET_SPARE_CTRL_COPY (h : Nat) : Fld := ⟨0x10F05000 + h * 0x1000000, 30, 1, 0⟩
def HAMLET_SPARE_CTRL_LOGICAL (h : Nat) : Fld := ⟨0x10F05000 + h * 0x1000000, 0, 4, 0⟩
def HAMLET_SPARE_STATUS_STATE (h : Nat) : Fld := ⟨0x10F05004 + h * 0x1000000, 30, 2, 0⟩
def HAMLET_SPARE_STATUS_BUSY (h : Nat) : Fld := ⟨0x10F05004 + h * 0x1000000, 29, 1, 0⟩
def HAMLET_SPARE_STATUS_REFUSED (h : Nat) : Fld := ⟨0x10F05004 + h * 0x1000000, 28, 1, 0⟩
def HAMLET_SPARE_STATUS_CAUSE (h : Nat) : Fld := ⟨0x10F05004 + h * 0x1000000, 25, 3, 0⟩
def HAMLET_SPARE_STATUS_LOGICAL (h : Nat) : Fld := ⟨0x10F05004 + h * 0x1000000, 8, 4, 0⟩
def HAMLET_SPARE_STATUS_SPARE_PHYS (h : Nat) : Fld := ⟨0x10F05004 + h * 0x1000000, 4, 4, 8⟩
def HAMLET_SPARE_STATUS_VICTIM_PHYS (h : Nat) : Fld := ⟨0x10F05004 + h * 0x1000000, 0, 4, 0⟩
def HEARTH_READMIT_HAMLET : Fld := ⟨0x4000000C, 0, 16, 0⟩
def HEARTH_READMIT_STATUS_REFUSED : Fld := ⟨0x40000018, 31, 1, 0⟩
def HEARTH_READMIT_STATUS_CAUSE : Fld := ⟨0x40000018, 28, 3, 0⟩
def HEARTH_READMIT_STATUS_HAMLET : Fld := ⟨0x40000018, 16, 4, 0⟩
def HEARTH_READMIT_STATUS_LOST : Fld := ⟨0x40000018, 0, 8, 0⟩
def HEARTH_HANDOVER_KEY : Fld := ⟨0x40000028, 16, 16, 0⟩
def HEARTH_HANDOVER_GO : Fld := ⟨0x40000028, 15, 1, 0⟩
def HEARTH_HANDOVER_RESULT : Fld := ⟨0x40000028, 13, 2, 0⟩
def HEARTH_HANDOVER_REASON : Fld := ⟨0x40000028, 0, 3, 0⟩
def HEARTH_DEVRESET_KEY : Fld := ⟨0x40000030, 16, 16, 0⟩
def HEARTH_DEVRESET_GO : Fld := ⟨0x40000030, 15, 1, 0⟩
def HEARTH_DEVRESET_AT_TICK : Fld := ⟨0x40000030, 14, 1, 0⟩
def HEARTH_DEVRESET_PARISH : Fld := ⟨0x40000030, 13, 1, 0⟩
def HEARTH_RESET_TICK : Fld := ⟨0x40000034, 0, 32, 0⟩
def HEARTH_RESET_STATUS_LAST_CAUSE : Fld := ⟨0x40000038, 29, 3, 0⟩
def HEARTH_RESET_STATUS_REFUSED : Fld := ⟨0x40000038, 28, 1, 0⟩
def HEARTH_RESET_STATUS_CAUSE : Fld := ⟨0x40000038, 26, 2, 0⟩
def HEARTH_RESET_STATUS_ARMED : Fld := ⟨0x40000038, 25, 1, 0⟩
def HEARTH_RESET_STATUS_MISSED : Fld := ⟨0x40000038, 0, 8, 0⟩
def HEARTH_UNIT_RESET_KIND : Fld := ⟨0x40000040, 29, 3, 0⟩
def HEARTH_UNIT_RESET_STATE : Fld := ⟨0x40000040, 27, 2, 0⟩
def HEARTH_UNIT_RESET_REFUSED : Fld := ⟨0x40000040, 26, 1, 0⟩
def HEARTH_UNIT_RESET_CAUSE : Fld := ⟨0x40000040, 24, 2, 0⟩
def HEARTH_UNIT_RESET_A : Fld := ⟨0x40000040, 16, 8, 0⟩
def HEARTH_UNIT_RESET_B : Fld := ⟨0x40000040, 8, 8, 0⟩
def PWR_DOM_STATE (d : Nat) : Fld := ⟨0x40001000 + d * 0x4, 29, 3, 0⟩
def PWR_DOM_REFUSED (d : Nat) : Fld := ⟨0x40001000 + d * 0x4, 28, 1, 0⟩
def PWR_DOM_CAUSE (d : Nat) : Fld := ⟨0x40001000 + d * 0x4, 25, 3, 0⟩
def PWR_DOM_REQ_VALID (d : Nat) : Fld := ⟨0x40001000 + d * 0x4, 2, 1, 0⟩
def PWR_DOM_REQ (d : Nat) : Fld := ⟨0x40001000 + d * 0x4, 0, 2, 0⟩
def HEARTH_THROTTLE_IRQ_EN : Fld := ⟨0x40002000, 31, 1, 0⟩
def HEARTH_THROTTLE_LEVEL : Fld := ⟨0x40002000, 28, 3, 0⟩
def HEARTH_THROTTLE_FORCE_L : Fld := ⟨0x40002000, 25, 3, 0⟩
def HEARTH_THROTTLE_LIMIT_W : Fld := ⟨0x40002000, 16, 9, 135⟩
def HEARTH_THROTTLE_THROTTLE_C : Fld := ⟨0x40002000, 0, 7, 100⟩
def HEARTH_TEMP_TEMP (n : Nat) : Fld := ⟨0x40002100 + n * 0x4, 0, 10, 0⟩
def REEVE_TAP_CFG_EN : Fld := ⟨0x4A003000, 31, 1, 0⟩
def REEVE_TAP_CFG_WRAP : Fld := ⟨0x4A003000, 30, 1, 0⟩
def REEVE_TAP_CFG_LG_EN : Fld := ⟨0x4A003000, 29, 1, 0⟩
def REEVE_TAP_CFG_LOCK_GROUP : Fld := ⟨0x4A003000, 23, 6, 0⟩
def REEVE_TAP_CFG_EVENTS : Fld := ⟨0x4A003000, 0, 5, 0⟩
def REEVE_TAP_HEAD (w : Nat) : Fld := ⟨0x4A003010 + w * 0x4, 0, 32, 0⟩
def REEVE_TAP_POP : Fld := ⟨0x4A003020, 0, 32, 0⟩
def REEVE_TAP_LEVEL_LOST : Fld := ⟨0x4A003024, 11, 16, 0⟩
def REEVE_TAP_LEVEL_LEVEL : Fld := ⟨0x4A003024, 0, 11, 0⟩
def TRACE_CFG_EN : Fld := ⟨0x40003000, 31, 1, 0⟩
def TRACE_CFG_SIZE_LOG2 : Fld := ⟨0x40003000, 0, 5, 8⟩
def TRACE_SRC_EN0 : Fld := ⟨0x40003004, 0, 32, 0⟩
def TRACE_SRC_EN1 : Fld := ⟨0x40003008, 0, 1, 0⟩
def TRACE_BASE_LO_ADDR : Fld := ⟨0x4000300C, 5, 27, 0⟩
def TRACE_BASE_HI_ADDR : Fld := ⟨0x40003010, 0, 8, 0⟩
def TRACE_PROD : Fld := ⟨0x40003014, 0, 32, 0⟩
def TRACE_CONS : Fld := ⟨0x40003018, 0, 32, 0⟩
def TRACE_STATUS_ERROR : Fld := ⟨0x4000301C, 31, 1, 0⟩
def TRACE_STATUS_STATUS : Fld := ⟨0x4000301C, 27, 4, 0⟩
def TRACE_STATUS_FULL : Fld := ⟨0x4000301C, 26, 1, 0⟩
def TELEM_CFG_EN : Fld := ⟨0x40003800, 31, 1, 0⟩
def TELEM_CFG_IRQ_EN : Fld := ⟨0x40003800, 30, 1, 0⟩
def TELEM_CFG_DEST : Fld := ⟨0x40003800, 29, 1, 0⟩
def TELEM_CFG_SIZE_LOG2 : Fld := ⟨0x40003800, 16, 4, 8⟩
def TELEM_CFG_PERIOD_MS : Fld := ⟨0x40003800, 0, 16, 1000⟩
def TELEM_BASE_ADDR : Fld := ⟨0x40003804, 6, 20, 0⟩
def TELEM_PROD : Fld := ⟨0x40003808, 0, 32, 0⟩
def TELEM_CONS : Fld := ⟨0x4000380C, 0, 32, 0⟩
def TELEM_LOST : Fld := ⟨0x40003810, 0, 32, 0⟩
def HEARTH_EVT_HEAD (w : Nat) : Fld := ⟨0x40003900 + w * 0x4, 0, 32, 0⟩
def HEARTH_EVT_POP : Fld := ⟨0x40003910, 0, 32, 0⟩
def HEARTH_EVT_STATUS_HIGH_DROPPED : Fld := ⟨0x40003914, 24, 8, 0⟩
def HEARTH_EVT_STATUS_LOW_DROPPED : Fld := ⟨0x40003914, 16, 8, 0⟩
def HEARTH_EVT_STATUS_LEVEL : Fld := ⟨0x40003914, 0, 9, 0⟩
def DBG_CTRL_HALT_REQ (h c : Nat) : Fld := ⟨0x10F06000 + h * 0x1000000 + c * 0x40, 31, 1, 0⟩
def DBG_CTRL_RESUME (h c : Nat) : Fld := ⟨0x10F06000 + h * 0x1000000 + c * 0x40, 30, 1, 0⟩
def DBG_CTRL_STEP (h c : Nat) : Fld := ⟨0x10F06000 + h * 0x1000000 + c * 0x40, 29, 1, 0⟩
def DBG_CTRL_BP_TRAP (h c : Nat) : Fld := ⟨0x10F06000 + h * 0x1000000 + c * 0x40, 28, 1, 0⟩
def DBG_CTRL_BP_EN (h c : Nat) : Fld := ⟨0x10F06000 + h * 0x1000000 + c * 0x40, 0, 4, 0⟩
def DBG_STATUS_DBG_HALTED (h c : Nat) : Fld := ⟨0x10F06004 + h * 0x1000000 + c * 0x40, 31, 1, 0⟩
def DBG_STATUS_REASON (h c : Nat) : Fld := ⟨0x10F06004 + h * 0x1000000 + c * 0x40, 28, 3, 0⟩
def DBG_STATUS_PC (h c : Nat) : Fld := ⟨0x10F06004 + h * 0x1000000 + c * 0x40, 0, 15, 0⟩
def DBG_BP (h c n : Nat) : Fld := ⟨0x10F06008 + h * 0x1000000 + c * 0x40 + n * 0x4, 0, 32, 0⟩
def DBG_REG_SEL_WRITE (h c : Nat) : Fld := ⟨0x10F06018 + h * 0x1000000 + c * 0x40, 31, 1, 0⟩
def DBG_REG_SEL_TAG (h c : Nat) : Fld := ⟨0x10F06018 + h * 0x1000000 + c * 0x40, 30, 1, 0⟩
def DBG_REG_SEL_FILE (h c : Nat) : Fld := ⟨0x10F06018 + h * 0x1000000 + c * 0x40, 12, 4, 0⟩
def DBG_REG_SEL_NUMBER (h c : Nat) : Fld := ⟨0x10F06018 + h * 0x1000000 + c * 0x40, 0, 12, 0⟩
def DBG_REG_DATA (h c : Nat) : Fld := ⟨0x10F0601C + h * 0x1000000 + c * 0x40, 0, 32, 0⟩
def HDBG_CTRL_HALT_REQ (c : Nat) : Fld := ⟨0x52006000 + c * 0x40, 31, 1, 0⟩
def HDBG_CTRL_RESUME (c : Nat) : Fld := ⟨0x52006000 + c * 0x40, 30, 1, 0⟩
def HDBG_CTRL_STEP (c : Nat) : Fld := ⟨0x52006000 + c * 0x40, 29, 1, 0⟩
def HDBG_CTRL_BP_TRAP (c : Nat) : Fld := ⟨0x52006000 + c * 0x40, 28, 1, 0⟩
def HDBG_CTRL_BP_EN (c : Nat) : Fld := ⟨0x52006000 + c * 0x40, 0, 4, 0⟩
def HDBG_STATUS_DBG_HALTED (c : Nat) : Fld := ⟨0x52006004 + c * 0x40, 31, 1, 0⟩
def HDBG_STATUS_REASON (c : Nat) : Fld := ⟨0x52006004 + c * 0x40, 28, 3, 0⟩
def HDBG_STATUS_PC (c : Nat) : Fld := ⟨0x52006004 + c * 0x40, 0, 15, 0⟩
def HDBG_BP (c n : Nat) : Fld := ⟨0x52006008 + c * 0x40 + n * 0x4, 0, 32, 0⟩
def HDBG_REG_SEL_WRITE (c : Nat) : Fld := ⟨0x52006018 + c * 0x40, 31, 1, 0⟩
def HDBG_REG_SEL_TAG (c : Nat) : Fld := ⟨0x52006018 + c * 0x40, 30, 1, 0⟩
def HDBG_REG_SEL_FILE (c : Nat) : Fld := ⟨0x52006018 + c * 0x40, 12, 4, 0⟩
def HDBG_REG_SEL_NUMBER (c : Nat) : Fld := ⟨0x52006018 + c * 0x40, 0, 12, 0⟩
def HDBG_REG_DATA (c : Nat) : Fld := ⟨0x5200601C + c * 0x40, 0, 32, 0⟩
def BELL_START (b : Nat) : Fld := ⟨0x44020004 + b * 0x20, 0, 32, 0⟩
def BELL_START_FINE (b : Nat) : Fld := ⟨0x44020008 + b * 0x20, 0, 4, 0⟩
def BELL_PERIOD (b : Nat) : Fld := ⟨0x4402000C + b * 0x20, 0, 32, 0⟩
def BELL_WIDTH (b : Nat) : Fld := ⟨0x44020010 + b * 0x20, 0, 28, 0⟩
def BELL_MISSED (b : Nat) : Fld := ⟨0x44020014 + b * 0x20, 0, 32, 0⟩
def CAP_STATUS_OVERFLOW (p : Nat) : Fld := ⟨0x44030000 + p * 0x20, 8, 1, 0⟩
def CAP_STATUS_LEVEL (p : Nat) : Fld := ⟨0x44030000 + p * 0x20, 0, 5, 0⟩
def CAP_SEC (p : Nat) : Fld := ⟨0x44030004 + p * 0x20, 0, 32, 0⟩
def CAP_NS (p : Nat) : Fld := ⟨0x44030008 + p * 0x20, 0, 32, 0⟩
def CAP_FRAC (p : Nat) : Fld := ⟨0x4403000C + p * 0x20, 0, 32, 0⟩
def CAP_POP (p : Nat) : Fld := ⟨0x44030010 + p * 0x20, 0, 32, 0⟩

/-- Register table, part 0 (R632). -/
def tbl0 : List RegDef := [
  { name := "STEEPLE_CTRL", base := 0x44000000, dims := [], fields := [⟨31, 1, .wo, 0⟩, ⟨1, 1, .rw, 0⟩, ⟨0, 1, .rw, 0⟩] },
  { name := "STEEPLE_STATUS", base := 0x44000004, dims := [], fields := [⟨11, 1, .ro, 0⟩, ⟨10, 1, .ro, 0⟩, ⟨9, 1, .w1c, 0⟩, ⟨8, 1, .w1c, 0⟩, ⟨4, 3, .ro, 0⟩, ⟨0, 2, .ro, 0⟩] },
  { name := "STEEPLE_DPLL_CFG", base := 0x44000008, dims := [], fields := [⟨16, 16, .rw, 60⟩, ⟨9, 1, .rw, 1⟩, ⟨0, 2, .rw, 1⟩] },
  { name := "STEEPLE_DPLL_SRC", base := 0x4400000C, dims := [], fields := [⟨24, 7, .rw, 0⟩, ⟨16, 4, .rw, 0⟩, ⟨12, 3, .rw, 0⟩, ⟨8, 3, .rw, 0⟩, ⟨4, 3, .rw, 0⟩, ⟨0, 3, .rw, 0⟩] },
  { name := "STEEPLE_SLEW_LIMIT", base := 0x44000010, dims := [], fields := [⟨0, 16, .rw, 100⟩] },
  { name := "STEEPLE_PTP_OFFSET", base := 0x44000014, dims := [], fields := [⟨0, 32, .wo, 0⟩] },
  { name := "STEEPLE_NOW_TICK", base := 0x44000018, dims := [], fields := [⟨0, 32, .ro, 0⟩] },
  { name := "STEEPLE_LATCH", base := 0x4400001C, dims := [], fields := [⟨0, 32, .wo, 0⟩] },
  { name := "STEEPLE_LATCH_SEC_HI", base := 0x44000020, dims := [], fields := [⟨0, 16, .ro, 0⟩] },
  { name := "STEEPLE_SET_SEC_HI", base := 0x44000030, dims := [], fields := [⟨0, 16, .rw, 0⟩] },
  { name := "STEEPLE_LATCH_SEC_LO", base := 0x44000024, dims := [], fields := [⟨0, 32, .ro, 0⟩] },
  { name := "STEEPLE_SET_SEC_LO", base := 0x44000034, dims := [], fields := [⟨0, 32, .rw, 0⟩] },
  { name := "STEEPLE_LATCH_NS", base := 0x44000028, dims := [], fields := [⟨0, 30, .ro, 0⟩] },
  { name := "STEEPLE_SET_NS", base := 0x44000038, dims := [], fields := [⟨0, 30, .rw, 0⟩] },
  { name := "STEEPLE_LATCH_FRAC", base := 0x4400002C, dims := [], fields := [⟨0, 16, .ro, 0⟩] },
  { name := "STEEPLE_SET_FRAC", base := 0x4400003C, dims := [], fields := [⟨0, 16, .rw, 0⟩] },
  { name := "STEEPLE_REPLICA_LOST", base := 0x44000040, dims := [(4, 0x4)], fields := [⟨0, 32, .ro, 0⟩] },
  { name := "PPS_OUT_CFG", base := 0x44000050, dims := [(2, 0x4)], fields := [⟨31, 1, .rw, 0⟩, ⟨0, 20, .rw, 0⟩] },
  { name := "PPS_OUT_COMP", base := 0x44000058, dims := [(2, 0x4)], fields := [⟨0, 32, .rw, 0⟩] },
  { name := "LG_CFG", base := 0x44010000, dims := [(64, 0x400)], fields := [⟨16, 10, .rw, 0⟩, ⟨12, 4, .rw, 2⟩, ⟨9, 1, .rw, 0⟩, ⟨8, 1, .rw, 0⟩, ⟨7, 1, .rw, 0⟩, ⟨6, 1, .rw, 0⟩, ⟨0, 3, .rw, 0⟩] },
  { name := "LG_OFFSET", base := 0x44010004, dims := [(64, 0x400)], fields := [⟨0, 24, .rw, 0⟩] },
  { name := "LG_STATUS", base := 0x44010008, dims := [(64, 0x400)], fields := [⟨30, 2, .ro, 0⟩, ⟨29, 1, .ro, 0⟩, ⟨28, 1, .ro, 0⟩, ⟨27, 1, .ro, 0⟩, ⟨26, 1, .ro, 0⟩, ⟨16, 10, .ro, 0⟩, ⟨0, 10, .ro, 0⟩] },
  { name := "LG_CTRL", base := 0x4401000C, dims := [(64, 0x400)], fields := [⟨2, 1, .wo, 0⟩, ⟨1, 1, .wo, 0⟩, ⟨0, 1, .wo, 0⟩] },
  { name := "LG_ACTION_TICK", base := 0x44010010, dims := [(64, 0x400)], fields := [⟨0, 32, .rw, 0⟩] },
  { name := "LG_TDD_CFG", base := 0x44010014, dims := [(64, 0x400), (2, 0x4)], fields := [⟨14, 4, .rw, 0⟩, ⟨10, 4, .rw, 0⟩, ⟨0, 10, .rw, 1⟩] },
  { name := "LG_PLAN_ARM", base := 0x4401001C, dims := [(64, 0x400)], fields := [⟨6, 20, .wo, 0⟩] },
  { name := "LG_PLAN_STATUS", base := 0x44010020, dims := [(64, 0x400)], fields := [⟨28, 4, .ro, 0⟩, ⟨24, 4, .ro, 0⟩, ⟨21, 3, .ro, 0⟩, ⟨20, 1, .w1c, 0⟩, ⟨19, 1, .w1c, 0⟩, ⟨16, 3, .ro, 0⟩, ⟨0, 16, .ro, 0⟩] },
  { name := "LG_PLAN_WITHDRAW", base := 0x44010024, dims := [(64, 0x400)], fields := [⟨0, 32, .wo, 0⟩] },
  { name := "LG_SWEEP_STATUS", base := 0x44010028, dims := [(64, 0x400)], fields := [⟨31, 1, .w1c, 0⟩, ⟨16, 4, .ro, 0⟩, ⟨0, 16, .ro, 0⟩] },
  { name := "LG_HSFN", base := 0x4401002C, dims := [(64, 0x400)], fields := [⟨0, 10, .ro, 0⟩] },
  { name := "LG_PLANS_COMMITTED", base := 0x44010030, dims := [(64, 0x400)], fields := [⟨0, 32, .ro, 0⟩] },
  { name := "LG_PLANS_REFUSED", base := 0x44010034, dims := [(64, 0x400)], fields := [⟨0, 32, .ro, 0⟩] },
  { name := "LG_SWEEP_LAPSED", base := 0x44010038, dims := [(64, 0x400)], fields := [⟨0, 32, .ro, 0⟩] },
  { name := "LG_TDD_BANK", base := 0x44010100, dims := [(64, 0x400), (2, 0x100), (40, 0x4)], fields := [⟨0, 32, .rw, 0⟩] },
  { name := "BELL_CFG", base := 0x44020000, dims := [(64, 0x20)], fields := [⟨16, 6, .rw, 0⟩, ⟨8, 3, .rw, 0⟩, ⟨6, 1, .rw, 0⟩, ⟨4, 2, .rw, 0⟩, ⟨3, 1, .rw, 0⟩, ⟨2, 1, .rw, 0⟩, ⟨0, 2, .rw, 0⟩] },
  { name := "HAMLET_IMEM_CTRL", base := 0x10F01000, dims := [(16, 0x1000000), (9, 0x10)], fields := [⟨0, 1, .rw, 0⟩] },
  { name := "HAMLET_IMEM_TICK", base := 0x10F01004, dims := [(16, 0x1000000), (9, 0x10)], fields := [⟨0, 32, .rw, 0⟩] },
  { name := "HAMLET_IMEM_STATUS", base := 0x10F01008, dims := [(16, 0x1000000), (9, 0x10)], fields := [⟨16, 16, .ro, 0⟩, ⟨8, 8, .ro, 0⟩, ⟨2, 1, .w1c, 0⟩, ⟨0, 1, .ro, 0⟩] },
  { name := "QUERN_STATUS", base := 0x10F02000, dims := [(16, 0x1000000)], fields := [⟨31, 1, .ro, 0⟩, ⟨24, 4, .ro, 0⟩, ⟨18, 1, .ro, 0⟩, ⟨16, 2, .ro, 0⟩, ⟨0, 12, .ro, 0⟩] },
  { name := "QUERN_COUNTS", base := 0x10F02004, dims := [(16, 0x1000000)], fields := [⟨24, 8, .rc, 0⟩, ⟨16, 8, .rc, 0⟩, ⟨8, 8, .rc, 0⟩, ⟨0, 8, .rc, 0⟩] }]

/-- Register table, part 1 (R632). -/
def tbl1 : List RegDef := [
  { name := "QUERN_JOBS", base := 0x10F02008, dims := [(16, 0x1000000)], fields := [⟨0, 32, .ro, 0⟩] },
  { name := "QUERN_CORE_STATUS", base := 0x10F02100, dims := [(16, 0x1000000), (9, 0x10)], fields := [⟨28, 4, .ro, 0⟩, ⟨27, 1, .ro, 0⟩, ⟨26, 1, .ro, 0⟩, ⟨25, 1, .ro, 0⟩, ⟨24, 1, .ro, 0⟩, ⟨20, 3, .ro, 0⟩, ⟨8, 6, .ro, 0⟩, ⟨0, 8, .ro, 0⟩] },
  { name := "QUERN_CORE_FAULT", base := 0x10F02104, dims := [(16, 0x1000000), (9, 0x10)], fields := [⟨0, 3, .ro, 0⟩] },
  { name := "REEVE_CTRL", base := 0x4A000000, dims := [], fields := [⟨1, 1, .rw, 0⟩, ⟨0, 1, .rw, 0⟩] },
  { name := "REEVE_STATUS", base := 0x4A000004, dims := [], fields := [⟨3, 1, .w1c, 0⟩, ⟨2, 1, .ro, 0⟩, ⟨1, 1, .w1c, 0⟩, ⟨0, 1, .w1c, 0⟩] },
  { name := "REEVE_HAMLET_EN", base := 0x4A000008, dims := [], fields := [⟨0, 16, .rw, 65535⟩] },
  { name := "REEVE_CORE_EN", base := 0x4A000010, dims := [(16, 0x4)], fields := [⟨0, 8, .rw, 255⟩] },
  { name := "REEVE_DECR", base := 0x4A000080, dims := [], fields := [⟨31, 1, .wo, 0⟩, ⟨0, 24, .wo, 0⟩] },
  { name := "REEVE_ABORT", base := 0x4A000084, dims := [], fields := [⟨0, 24, .wo, 0⟩] },
  { name := "REEVE_ARM_REJECT", base := 0x4A000088, dims := [], fields := [⟨28, 4, .ro, 0⟩, ⟨16, 6, .ro, 0⟩, ⟨0, 12, .ro, 0⟩] },
  { name := "REEVE_SUBMIT_CMD", base := 0x4A000100, dims := [(16, 0x10)], fields := [⟨6, 20, .wo, 0⟩] },
  { name := "REEVE_SUBMIT_RESULT", base := 0x4A000108, dims := [(16, 0x10)], bytes := 8, fields := [⟨63, 1, .to, 0⟩, ⟨62, 1, .to, 0⟩, ⟨61, 1, .to, 0⟩, ⟨57, 4, .to, 0⟩, ⟨40, 8, .to, 0⟩, ⟨0, 24, .to, 0⟩] },
  { name := "REEVE_REPORT_CFG", base := 0x4A000200, dims := [(64, 0x10)], fields := [⟨31, 1, .rw, 0⟩, ⟨30, 1, .rw, 0⟩, ⟨0, 1, .wo, 0⟩] },
  { name := "REEVE_REPORT_LEVEL", base := 0x4A000204, dims := [(64, 0x10)], fields := [⟨8, 8, .ro, 0⟩, ⟨7, 1, .ro, 0⟩, ⟨0, 7, .ro, 0⟩] },
  { name := "REEVE_REPORT_TAKE", base := 0x4A000208, dims := [(64, 0x10)], bytes := 8, fields := [⟨63, 1, .to, 0⟩, ⟨62, 1, .to, 0⟩, ⟨58, 4, .to, 0⟩, ⟨57, 1, .to, 0⟩, ⟨56, 1, .to, 0⟩, ⟨55, 1, .to, 0⟩, ⟨40, 8, .to, 0⟩, ⟨24, 16, .to, 0⟩, ⟨0, 24, .to, 0⟩] },
  { name := "REEVE_EV_FLAGS", base := 0x4A000800, dims := [(64, 0x10), (2, 0x4)], fields := [⟨0, 32, .w1c, 0⟩] },
  { name := "REEVE_EV_SET", base := 0x4A000808, dims := [(64, 0x10), (2, 0x4)], fields := [⟨0, 32, .wo, 0⟩] },
  { name := "REEVE_CORE_STATE", base := 0x4A001000, dims := [(16, 0x40), (9, 0x4)], fields := [⟨29, 3, .ro, 0⟩, ⟨28, 1, .w1s, 0⟩, ⟨26, 2, .ro, 0⟩, ⟨25, 1, .ro, 0⟩, ⟨24, 1, .ro, 0⟩, ⟨0, 24, .ro, 0⟩] },
  { name := "REEVE_CORE_BUSY", base := 0x4A001800, dims := [(16, 0x40), (9, 0x4)], fields := [⟨0, 32, .ro, 0⟩] },
  { name := "REEVE_SLOTS", base := 0x4A002000, dims := [], fields := [⟨16, 13, .ro, 0⟩, ⟨0, 13, .ro, 0⟩] },
  { name := "REEVE_READY_DEPTH", base := 0x4A002010, dims := [(8, 0x4)], fields := [⟨0, 13, .ro, 0⟩] },
  { name := "REEVE_WS_DEPTH", base := 0x4A002040, dims := [(3, 0x4)], fields := [⟨0, 13, .ro, 0⟩] },
  { name := "REEVE_DISPATCHED", base := 0x4A002100, dims := [], fields := [⟨0, 32, .ro, 0⟩] },
  { name := "REEVE_RETIRED", base := 0x4A002104, dims := [], fields := [⟨0, 32, .ro, 0⟩] },
  { name := "REEVE_LATE", base := 0x4A002108, dims := [], fields := [⟨0, 32, .ro, 0⟩] },
  { name := "REEVE_LAPSED_WAIT", base := 0x4A00210C, dims := [], fields := [⟨0, 32, .ro, 0⟩] },
  { name := "REEVE_LAPSED_CASCADE", base := 0x4A002110, dims := [], fields := [⟨0, 32, .ro, 0⟩] },
  { name := "REEVE_KILLED", base := 0x4A002114, dims := [], fields := [⟨0, 32, .ro, 0⟩] },
  { name := "REEVE_ABORTED", base := 0x4A002118, dims := [], fields := [⟨0, 32, .ro, 0⟩] },
  { name := "REEVE_ABORT_LATE", base := 0x4A00211C, dims := [], fields := [⟨0, 32, .ro, 0⟩] },
  { name := "REEVE_ABORT_MISS", base := 0x4A002120, dims := [], fields := [⟨0, 32, .ro, 0⟩] },
  { name := "REEVE_PREEMPTIONS", base := 0x4A002124, dims := [], fields := [⟨0, 32, .ro, 0⟩] },
  { name := "REEVE_DROP_UNPLANNED", base := 0x4A002128, dims := [], fields := [⟨0, 32, .ro, 0⟩] },
  { name := "REEVE_DECR_EXCESS", base := 0x4A00212C, dims := [], fields := [⟨0, 32, .ro, 0⟩] },
  { name := "REEVE_COMPL_DISCARDED", base := 0x4A002130, dims := [], fields := [⟨0, 32, .ro, 0⟩] },
  { name := "REEVE_OVERRUNS", base := 0x4A002134, dims := [], fields := [⟨0, 32, .ro, 0⟩] },
  { name := "REEVE_POISONED", base := 0x4A002138, dims := [], fields := [⟨0, 32, .ro, 0⟩] },
  { name := "REEVE_HIST_CFG", base := 0x4A002200, dims := [], fields := [⟨31, 1, .rw, 1⟩, ⟨8, 3, .rw, 0⟩, ⟨0, 5, .rw, 6⟩] },
  { name := "REEVE_HIST", base := 0x4A002210, dims := [(8, 0x4)], fields := [⟨0, 32, .rc, 0⟩] },
  { name := "KILN_CTRL", base := 0x4B000000, dims := [], fields := [⟨0, 1, .rw, 0⟩] }]

/-- Register table, part 2 (R632). -/
def tbl2 : List RegDef := [
  { name := "KILN_STATUS", base := 0x4B000004, dims := [], fields := [⟨1, 1, .ro, 0⟩, ⟨0, 1, .w1c, 0⟩] },
  { name := "KILN_ENG_EN", base := 0x4B000008, dims := [], fields := [⟨0, 16, .rw, 65535⟩] },
  { name := "KILN_ENG_STATE", base := 0x4B000040, dims := [(16, 0x4)], fields := [⟨30, 2, .ro, 0⟩, ⟨28, 2, .ro, 0⟩, ⟨0, 24, .ro, 0⟩] },
  { name := "KILN_HARQ_AREA", base := 0x4B000100, dims := [], fields := [⟨18, 14, .rw, 0⟩, ⟨0, 15, .rw, 0⟩] },
  { name := "KILN_HARQ_ARG", base := 0x4B000104, dims := [], fields := [⟨22, 10, .rw, 0⟩, ⟨0, 21, .rw, 0⟩] },
  { name := "KILN_HARQ_CMD", base := 0x4B000108, dims := [], fields := [⟨30, 2, .wo, 0⟩, ⟨0, 14, .wo, 0⟩] },
  { name := "KILN_HARQ_RESULT", base := 0x4B00010C, dims := [], fields := [⟨30, 2, .ro, 0⟩, ⟨28, 2, .ro, 0⟩, ⟨24, 4, .ro, 0⟩, ⟨0, 14, .ro, 0⟩] },
  { name := "KILN_HARQ_HELD", base := 0x4B000110, dims := [], fields := [⟨0, 15, .ro, 0⟩] },
  { name := "KILN_JOBS_OK", base := 0x4B000200, dims := [], fields := [⟨0, 32, .ro, 0⟩] },
  { name := "KILN_JOBS_LAPSED", base := 0x4B000204, dims := [], fields := [⟨0, 32, .ro, 0⟩] },
  { name := "KILN_JOBS_ABORTED", base := 0x4B000208, dims := [], fields := [⟨0, 32, .ro, 0⟩] },
  { name := "KILN_JOBS_POISONED", base := 0x4B00020C, dims := [], fields := [⟨0, 32, .ro, 0⟩] },
  { name := "KILN_ABORT_LATE", base := 0x4B000210, dims := [], fields := [⟨0, 32, .ro, 0⟩] },
  { name := "KILN_SWEEP_LAPSED", base := 0x4B000214, dims := [], fields := [⟨0, 32, .ro, 0⟩] },
  { name := "KILN_HANDLE_WAIT", base := 0x4B000218, dims := [], fields := [⟨0, 32, .ro, 0⟩] },
  { name := "KILN_CB_FAIL", base := 0x4B00021C, dims := [], fields := [⟨0, 32, .ro, 0⟩] },
  { name := "KILN_ITER_TOTAL", base := 0x4B000220, dims := [], fields := [⟨0, 32, .ro, 0⟩] },
  { name := "WHEEL_CTRL", base := 0x4C000000, dims := [], fields := [⟨0, 1, .rw, 0⟩] },
  { name := "WHEEL_ENG_EN", base := 0x4C000008, dims := [], fields := [⟨0, 16, .rw, 65535⟩] },
  { name := "WHEEL_ENG_STATE", base := 0x4C000040, dims := [(16, 0x4)], fields := [⟨30, 2, .ro, 0⟩, ⟨28, 2, .ro, 0⟩, ⟨0, 24, .ro, 0⟩] },
  { name := "WHEEL_JOBS_OK", base := 0x4C000200, dims := [], fields := [⟨0, 32, .ro, 0⟩] },
  { name := "WHEEL_JOBS_LAPSED", base := 0x4C000204, dims := [], fields := [⟨0, 32, .ro, 0⟩] },
  { name := "WHEEL_JOBS_ABORTED", base := 0x4C000208, dims := [], fields := [⟨0, 32, .ro, 0⟩] },
  { name := "WHEEL_JOBS_POISONED", base := 0x4C00020C, dims := [], fields := [⟨0, 32, .ro, 0⟩] },
  { name := "WHEEL_ABORT_LATE", base := 0x4C000210, dims := [], fields := [⟨0, 32, .ro, 0⟩] },
  { name := "WHEEL_SWEEP_LAPSED", base := 0x4C000214, dims := [], fields := [⟨0, 32, .ro, 0⟩] },
  { name := "WHEEL_SAT_JOBS", base := 0x4C000218, dims := [], fields := [⟨0, 32, .ro, 0⟩] },
  { name := "WHEEL_UNITS", base := 0x4C00021C, dims := [], fields := [⟨0, 32, .ro, 0⟩] },
  { name := "WHEEL_SINGULAR", base := 0x4C000220, dims := [], fields := [⟨0, 32, .ro, 0⟩] },
  { name := "MILL_CTRL", base := 0x4D000000, dims := [], fields := [⟨0, 1, .rw, 0⟩] },
  { name := "MILL_ENG_EN", base := 0x4D000008, dims := [], fields := [⟨0, 8, .rw, 255⟩] },
  { name := "MILL_ENG_STATE", base := 0x4D000040, dims := [(8, 0x4)], fields := [⟨30, 2, .ro, 0⟩, ⟨28, 2, .ro, 0⟩, ⟨0, 24, .ro, 0⟩] },
  { name := "MILL_JOBS_OK", base := 0x4D000200, dims := [], fields := [⟨0, 32, .ro, 0⟩] },
  { name := "MILL_JOBS_LAPSED", base := 0x4D000204, dims := [], fields := [⟨0, 32, .ro, 0⟩] },
  { name := "MILL_JOBS_ABORTED", base := 0x4D000208, dims := [], fields := [⟨0, 32, .ro, 0⟩] },
  { name := "MILL_JOBS_POISONED", base := 0x4D00020C, dims := [], fields := [⟨0, 32, .ro, 0⟩] },
  { name := "MILL_ABORT_LATE", base := 0x4D000210, dims := [], fields := [⟨0, 32, .ro, 0⟩] },
  { name := "MILL_SWEEP_LAPSED", base := 0x4D000214, dims := [], fields := [⟨0, 32, .ro, 0⟩] },
  { name := "MILL_SAT_JOBS", base := 0x4D000218, dims := [], fields := [⟨0, 32, .ro, 0⟩] },
  { name := "MILL_UNITS", base := 0x4D00021C, dims := [], fields := [⟨0, 32, .ro, 0⟩] }]

/-- Register table, part 3 (R632). -/
def tbl3 : List RegDef := [
  { name := "MILL_SINGULAR", base := 0x4D000220, dims := [], fields := [⟨0, 32, .ro, 0⟩] },
  { name := "KILN_UCODE_CTRL", base := 0x4B000400, dims := [(16, 0x10)], fields := [⟨31, 1, .wo, 0⟩] },
  { name := "KILN_UCODE_ADDR", base := 0x4B000404, dims := [(16, 0x10)], fields := [⟨0, 32, .rw, 0⟩] },
  { name := "KILN_UCODE_STATUS", base := 0x4B000408, dims := [(16, 0x10)], fields := [⟨30, 2, .ro, 0⟩, ⟨28, 2, .ro, 0⟩, ⟨24, 4, .ro, 0⟩, ⟨0, 7, .ro, 0⟩] },
  { name := "KILN_UCODE_VERSION", base := 0x4B00040C, dims := [(16, 0x10)], fields := [⟨0, 32, .ro, 0⟩] },
  { name := "WHEEL_UCODE_CTRL", base := 0x4C000400, dims := [(16, 0x10)], fields := [⟨31, 1, .wo, 0⟩] },
  { name := "WHEEL_UCODE_ADDR", base := 0x4C000404, dims := [(16, 0x10)], fields := [⟨0, 32, .rw, 0⟩] },
  { name := "WHEEL_UCODE_STATUS", base := 0x4C000408, dims := [(16, 0x10)], fields := [⟨30, 2, .ro, 0⟩, ⟨28, 2, .ro, 0⟩, ⟨24, 4, .ro, 0⟩, ⟨0, 7, .ro, 0⟩] },
  { name := "WHEEL_UCODE_VERSION", base := 0x4C00040C, dims := [(16, 0x10)], fields := [⟨0, 32, .ro, 0⟩] },
  { name := "MILL_UCODE_CTRL", base := 0x4D000400, dims := [(8, 0x10)], fields := [⟨31, 1, .wo, 0⟩] },
  { name := "MILL_UCODE_ADDR", base := 0x4D000404, dims := [(8, 0x10)], fields := [⟨0, 32, .rw, 0⟩] },
  { name := "MILL_UCODE_STATUS", base := 0x4D000408, dims := [(8, 0x10)], fields := [⟨30, 2, .ro, 0⟩, ⟨28, 2, .ro, 0⟩, ⟨24, 4, .ro, 0⟩, ⟨0, 7, .ro, 0⟩] },
  { name := "MILL_UCODE_VERSION", base := 0x4D00040C, dims := [(8, 0x10)], fields := [⟨0, 32, .ro, 0⟩] },
  { name := "SIEVE_CTRL", base := 0x4E000000, dims := [], fields := [⟨0, 1, .rw, 0⟩] },
  { name := "SIEVE_RATE_USED", base := 0x4E000004, dims := [], fields := [⟨0, 29, .ro, 0⟩] },
  { name := "SIEVE_DROP_UNPLANNED", base := 0x4E000008, dims := [], fields := [⟨0, 32, .ro, 0⟩] },
  { name := "SIEVE_SWEEP_DROPPED", base := 0x4E00000C, dims := [], fields := [⟨0, 32, .ro, 0⟩] },
  { name := "SIEVE_FRAC_ROM", base := 0x4E001000, dims := [(64, 0x10), (4, 0x4)], fields := [⟨0, 32, .ro, 0⟩] },
  { name := "SIEVE_CH_CTRL", base := 0x4E100000, dims := [(1024, 0x100)], fields := [⟨31, 1, .wo, 0⟩, ⟨30, 1, .wo, 0⟩, ⟨29, 1, .wo, 0⟩, ⟨28, 1, .wo, 0⟩, ⟨24, 4, .wo, 0⟩, ⟨23, 1, .wo, 0⟩, ⟨22, 1, .wo, 0⟩] },
  { name := "SIEVE_CH_MODE", base := 0x4E100004, dims := [(1024, 0x100)], fields := [⟨31, 1, .rw, 0⟩, ⟨28, 3, .rw, 0⟩, ⟨22, 6, .rw, 0⟩, ⟨16, 6, .rw, 0⟩, ⟨15, 1, .rw, 0⟩, ⟨14, 1, .rw, 0⟩, ⟨13, 1, .rw, 0⟩, ⟨7, 6, .rw, 0⟩] },
  { name := "SIEVE_CH_RATE", base := 0x4E100008, dims := [(1024, 0x100)], fields := [⟨0, 23, .rw, 0⟩] },
  { name := "SIEVE_CH_NCO_FREQ", base := 0x4E10000C, dims := [(1024, 0x100)], fields := [⟨0, 32, .rw, 0⟩] },
  { name := "SIEVE_CH_NCO_PHASE", base := 0x4E100010, dims := [(1024, 0x100)], fields := [⟨0, 32, .rw, 0⟩] },
  { name := "SIEVE_CH_STAGE01", base := 0x4E100014, dims := [(1024, 0x100)], fields := [⟨10, 6, .rw, 0⟩, ⟨4, 6, .rw, 0⟩, ⟨0, 3, .rw, 0⟩, ⟨26, 6, .rw, 0⟩, ⟨20, 6, .rw, 0⟩, ⟨16, 3, .rw, 0⟩] },
  { name := "SIEVE_CH_STAGE23", base := 0x4E100018, dims := [(1024, 0x100)], fields := [⟨10, 6, .rw, 0⟩, ⟨4, 6, .rw, 0⟩, ⟨0, 3, .rw, 0⟩, ⟨26, 6, .rw, 0⟩, ⟨20, 6, .rw, 0⟩, ⟨16, 3, .rw, 0⟩] },
  { name := "SIEVE_CH_STAGE5", base := 0x4E10001C, dims := [(1024, 0x100)], fields := [⟨10, 6, .rw, 0⟩, ⟨4, 6, .rw, 0⟩, ⟨0, 3, .rw, 0⟩] },
  { name := "SIEVE_CH_FIR", base := 0x4E100020, dims := [(1024, 0x100)], fields := [⟨26, 6, .rw, 0⟩, ⟨16, 4, .rw, 0⟩, ⟨8, 1, .rw, 0⟩, ⟨0, 3, .rw, 0⟩] },
  { name := "SIEVE_CH_DELAY", base := 0x4E100024, dims := [(1024, 0x100)], fields := [⟨16, 12, .rw, 0⟩, ⟨0, 6, .rw, 0⟩] },
  { name := "SIEVE_CH_RING_BASE", base := 0x4E100028, dims := [(1024, 0x100)], fields := [⟨6, 20, .rw, 0⟩] },
  { name := "SIEVE_CH_RING_LEN", base := 0x4E10002C, dims := [(1024, 0x100)], fields := [⟨0, 20, .rw, 0⟩] },
  { name := "SIEVE_CH_BURST", base := 0x4E100030, dims := [(1024, 0x100)], fields := [⟨16, 16, .rw, 0⟩, ⟨0, 6, .rw, 0⟩] },
  { name := "SIEVE_CH_NOTIFY", base := 0x4E100034, dims := [(1024, 0x100)], fields := [⟨31, 1, .rw, 0⟩, ⟨12, 12, .rw, 0⟩, ⟨0, 12, .rw, 0⟩] },
  { name := "SIEVE_CH_GUARD", base := 0x4E100038, dims := [(1024, 0x100)], fields := [⟨31, 1, .rw, 1⟩, ⟨30, 1, .rw, 1⟩, ⟨29, 1, .rw, 0⟩, ⟨0, 16, .rw, 0⟩] },
  { name := "SIEVE_CH_TEST", base := 0x4E10003C, dims := [(1024, 0x100)], fields := [⟨0, 32, .rw, 0⟩] },
  { name := "SIEVE_CH_UP_READY", base := 0x4E100040, dims := [(1024, 0x100)], fields := [⟨0, 32, .rw, 0⟩] },
  { name := "SIEVE_CH_STATUS", base := 0x4E100044, dims := [(1024, 0x100)], fields := [⟨30, 2, .ro, 0⟩, ⟨29, 1, .ro, 1⟩, ⟨28, 1, .ro, 0⟩, ⟨27, 1, .ro, 0⟩, ⟨26, 1, .ro, 0⟩, ⟨25, 1, .ro, 0⟩, ⟨24, 1, .ro, 0⟩, ⟨23, 1, .w1c, 0⟩, ⟨22, 1, .w1c, 0⟩, ⟨16, 3, .ro, 0⟩, ⟨0, 16, .ro, 0⟩] },
  { name := "SIEVE_CH_COUNT", base := 0x4E100048, dims := [(1024, 0x100)], fields := [⟨0, 32, .ro, 0⟩] },
  { name := "SIEVE_CH_SUPPORT", base := 0x4E10004C, dims := [(1024, 0x100)], fields := [⟨0, 32, .ro, 0⟩] },
  { name := "SIEVE_CH_SAT_COUNT", base := 0x4E100050, dims := [(1024, 0x100)], fields := [⟨0, 32, .rc, 0⟩] },
  { name := "SIEVE_CH_WRAP_COUNT", base := 0x4E100054, dims := [(1024, 0x100)], fields := [⟨0, 32, .rc, 0⟩] }]

/-- Register table, part 4 (R632). -/
def tbl4 : List RegDef := [
  { name := "SIEVE_CH_DISC_COUNT", base := 0x4E100058, dims := [(1024, 0x100)], fields := [⟨0, 32, .rc, 0⟩] },
  { name := "SIEVE_CH_BURSTS", base := 0x4E10005C, dims := [(1024, 0x100)], fields := [⟨0, 32, .ro, 0⟩] },
  { name := "SIEVE_CH_LATE_BURSTS", base := 0x4E100060, dims := [(1024, 0x100)], fields := [⟨0, 32, .ro, 0⟩] },
  { name := "SIEVE_CH_POISON", base := 0x4E100064, dims := [(1024, 0x100)], fields := [⟨0, 32, .ro, 0⟩] },
  { name := "SIEVE_CH_SWAP_COUNTS", base := 0x4E100068, dims := [(1024, 0x100)], fields := [⟨24, 8, .rc, 0⟩, ⟨16, 8, .rc, 0⟩, ⟨0, 16, .rc, 0⟩] },
  { name := "SIEVE_CH_BELL_IDX", base := 0x4E10006C, dims := [(1024, 0x100)], fields := [⟨31, 1, .w1c, 0⟩, ⟨30, 1, .w1c, 0⟩, ⟨0, 23, .ro, 0⟩] },
  { name := "SIEVE_CH_BELL_SFN", base := 0x4E100070, dims := [(1024, 0x100)], fields := [⟨0, 10, .ro, 0⟩] },
  { name := "SIEVE_CH_COEF", base := 0x4E100080, dims := [(1024, 0x100), (2, 0x40), (16, 0x4)], fields := [⟨0, 32, .rw, 0⟩] },
  { name := "HAMLET_BARN_CONFLICT", base := 0x10F03000, dims := [(16, 0x1000000), (12, 0x4)], fields := [⟨0, 32, .ro, 0⟩] },
  { name := "HAMLET_BARN_WAIT", base := 0x10F03040, dims := [(16, 0x1000000), (12, 0x4)], fields := [⟨0, 32, .ro, 0⟩] },
  { name := "HAMLET_BARN_COLLISION", base := 0x10F03080, dims := [(16, 0x1000000)], fields := [⟨0, 32, .ro, 0⟩] },
  { name := "PLOT_CORE_STALL", base := 0x10F03100, dims := [(16, 0x1000000), (9, 0x10)], fields := [⟨0, 32, .ro, 0⟩] },
  { name := "PLOT_EXT_CONFLICT", base := 0x10F03104, dims := [(16, 0x1000000), (9, 0x10)], fields := [⟨0, 32, .ro, 0⟩] },
  { name := "PLOT_EXT_WAIT", base := 0x10F03108, dims := [(16, 0x1000000), (9, 0x10)], fields := [⟨0, 32, .ro, 0⟩] },
  { name := "PLOT_COLLISION", base := 0x10F0310C, dims := [(16, 0x1000000), (9, 0x10)], fields := [⟨0, 32, .ro, 0⟩] },
  { name := "GRANARY_BANK_PWR", base := 0x47000000, dims := [(64, 0x4)], fields := [⟨29, 3, .ro, 0⟩, ⟨28, 1, .w1c, 0⟩, ⟨26, 2, .ro, 0⟩, ⟨2, 1, .wo, 0⟩, ⟨0, 2, .wo, 0⟩] },
  { name := "GRANARY_CLOSED_ACCESS", base := 0x47000100, dims := [], fields := [⟨0, 32, .ro, 0⟩] },
  { name := "GRANARY_COLLISION", base := 0x47000104, dims := [], fields := [⟨0, 32, .ro, 0⟩] },
  { name := "GRANARY_RELEASE_BAD", base := 0x47000108, dims := [], fields := [⟨31, 1, .w1c, 0⟩, ⟨24, 7, .ro, 0⟩, ⟨20, 4, .ro, 0⟩, ⟨0, 16, .ro, 0⟩] },
  { name := "GRANARY_CONFLICT", base := 0x47000400, dims := [(256, 0x4)], fields := [⟨0, 32, .ro, 0⟩] },
  { name := "GRANARY_WAIT", base := 0x47000800, dims := [(256, 0x4)], fields := [⟨0, 32, .ro, 0⟩] },
  { name := "CELLAR_STACK_STATUS", base := 0x48000000, dims := [(2, 0x4)], fields := [⟨31, 1, .ro, 0⟩, ⟨30, 1, .ro, 0⟩, ⟨29, 1, .ro, 0⟩, ⟨16, 8, .ro, 0⟩, ⟨0, 8, .ro, 0⟩] },
  { name := "CELLAR_COLLISION", base := 0x48000010, dims := [], fields := [⟨0, 32, .ro, 0⟩] },
  { name := "CELLAR_CONFLICT", base := 0x48000400, dims := [(256, 0x4)], fields := [⟨0, 32, .ro, 0⟩] },
  { name := "CELLAR_WAIT", base := 0x48000800, dims := [(256, 0x4)], fields := [⟨0, 32, .ro, 0⟩] },
  { name := "GRANARY_POOL_CFG", base := 0x47010000, dims := [(128, 0x20)], fields := [⟨31, 1, .rw, 0⟩, ⟨30, 1, .rw, 0⟩, ⟨0, 14, .rw, 0⟩] },
  { name := "GRANARY_POOL_BASE", base := 0x47010004, dims := [(128, 0x20)], fields := [⟨6, 20, .rw, 0⟩] },
  { name := "GRANARY_POOL_COUNT", base := 0x47010008, dims := [(128, 0x20)], fields := [⟨0, 16, .rw, 0⟩] },
  { name := "GRANARY_POOL_STATUS", base := 0x4701000C, dims := [(128, 0x20)], fields := [⟨31, 1, .ro, 0⟩, ⟨30, 1, .ro, 0⟩, ⟨29, 1, .w1c, 0⟩, ⟨26, 3, .ro, 0⟩, ⟨0, 16, .ro, 0⟩] },
  { name := "GRANARY_POOL_TAKE", base := 0x47010010, dims := [(128, 0x20)], fields := [⟨0, 32, .to, 0⟩] },
  { name := "GRANARY_POOL_RELEASE", base := 0x47010014, dims := [(128, 0x20)], fields := [⟨0, 32, .wo, 0⟩] },
  { name := "GRANARY_POOL_EMPTY_TAKES", base := 0x47010018, dims := [(128, 0x20)], fields := [⟨0, 32, .ro, 0⟩] },
  { name := "GRANARY_POOL_SWEEP_RETURNED", base := 0x4701001C, dims := [(128, 0x20)], fields := [⟨0, 32, .ro, 0⟩] },
  { name := "ECCLOG_CTRL", base := 0x41000000, dims := [], fields := [⟨1, 1, .wo, 0⟩, ⟨0, 1, .rw, 0⟩] },
  { name := "ECCLOG_STATUS", base := 0x41000004, dims := [], fields := [⟨24, 8, .rc, 0⟩, ⟨16, 8, .rc, 0⟩, ⟨0, 10, .ro, 0⟩] },
  { name := "ECCLOG_HEAD", base := 0x41000010, dims := [(4, 0x4)], fields := [⟨0, 32, .ro, 0⟩] },
  { name := "ECCLOG_POP", base := 0x41000020, dims := [], fields := [⟨0, 32, .wo, 0⟩] },
  { name := "ECC_INJECT_CTRL", base := 0x41000100, dims := [], fields := [⟨31, 1, .wl, 0⟩, ⟨30, 1, .ro, 0⟩, ⟨29, 1, .ro, 0⟩, ⟨16, 8, .wl, 0⟩, ⟨8, 8, .wl, 255⟩, ⟨0, 8, .wl, 255⟩] },
  { name := "ECC_INJECT_ADDR_LO", base := 0x41000104, dims := [], fields := [⟨3, 29, .wl, 0⟩] },
  { name := "ECC_INJECT_ADDR_HI", base := 0x41000108, dims := [], fields := [⟨0, 8, .wl, 0⟩] }]

/-- Register table, part 5 (R632). -/
def tbl5 : List RegDef := [
  { name := "HARROW_CMD", base := 0x41000200, dims := [], fields := [⟨31, 1, .wo, 0⟩, ⟨28, 2, .wo, 0⟩, ⟨22, 6, .wo, 0⟩, ⟨21, 1, .wo, 0⟩, ⟨20, 1, .wo, 0⟩, ⟨16, 4, .wo, 0⟩] },
  { name := "HARROW_STATUS", base := 0x41000204, dims := [], fields := [⟨30, 2, .ro, 0⟩, ⟨28, 2, .ro, 0⟩, ⟨24, 4, .ro, 0⟩, ⟨16, 8, .ro, 0⟩, ⟨0, 9, .ro, 0⟩] },
  { name := "HARROW_FAIL", base := 0x41000208, dims := [], fields := [⟨0, 28, .ro, 0⟩] },
  { name := "GLEANER_CTRL", base := 0x41000300, dims := [], fields := [⟨0, 8, .rw, 0⟩] },
  { name := "GLEANER_INTERVAL", base := 0x41000310, dims := [(8, 0x4)], fields := [⟨0, 16, .rw, 300⟩] },
  { name := "GLEANER_REGIONS", base := 0x41000340, dims := [], fields := [⟨0, 32, .ro, 0⟩] },
  { name := "GLEANER_YIELDS", base := 0x41000344, dims := [], fields := [⟨0, 32, .ro, 0⟩] },
  { name := "GLEANER_CE", base := 0x41000348, dims := [], fields := [⟨0, 32, .ro, 0⟩] },
  { name := "GLEANER_UE", base := 0x4100034C, dims := [], fields := [⟨0, 32, .ro, 0⟩] },
  { name := "GLEANER_CELL_FAULTS", base := 0x41000350, dims := [], fields := [⟨0, 32, .ro, 0⟩] },
  { name := "GLEANER_POISON_SEEN", base := 0x41000354, dims := [], fields := [⟨0, 32, .ro, 0⟩] },
  { name := "ECC_CE", base := 0x41010000, dims := [(8, 0x1000), (256, 0x10)], fields := [⟨0, 32, .ro, 0⟩] },
  { name := "ECC_UE", base := 0x41010004, dims := [(8, 0x1000), (256, 0x10)], fields := [⟨0, 32, .ro, 0⟩] },
  { name := "ECC_POISON_READ", base := 0x41010008, dims := [(8, 0x1000), (256, 0x10)], fields := [⟨0, 32, .ro, 0⟩] },
  { name := "COMMONS_CTRL", base := 0x46000000, dims := [], fields := [⟨31, 1, .rw, 1⟩, ⟨30, 1, .wo, 0⟩, ⟨29, 1, .wo, 0⟩, ⟨0, 5, .rw, 6⟩] },
  { name := "COMMONS_STATUS", base := 0x46000004, dims := [], fields := [⟨31, 1, .w1c, 0⟩, ⟨30, 1, .w1c, 0⟩, ⟨29, 1, .ro, 0⟩, ⟨28, 1, .ro, 0⟩, ⟨26, 2, .ro, 0⟩] },
  { name := "COMMONS_REJECT", base := 0x46000008, dims := [], fields := [⟨24, 8, .ro, 0⟩, ⟨16, 8, .ro, 0⟩, ⟨0, 4, .ro, 0⟩] },
  { name := "COMMONS_DEAD_LAST", base := 0x4600000C, dims := [], fields := [⟨3, 6, .ro, 0⟩, ⟨0, 3, .ro, 0⟩] },
  { name := "COMMONS_EPOCH_LIVE", base := 0x46000010, dims := [(4, 0x4)], fields := [⟨0, 32, .ro, 0⟩] },
  { name := "COMMONS_DROP_UNPLANNED", base := 0x46000020, dims := [], fields := [⟨0, 32, .ro, 0⟩] },
  { name := "COMMONS_BAR_CFG", base := 0x46001000, dims := [(32, 0x40)], fields := [⟨31, 1, .rw, 0⟩, ⟨30, 1, .rw, 0⟩, ⟨0, 8, .rc, 0⟩] },
  { name := "COMMONS_BAR_ARRIVE", base := 0x46001004, dims := [(32, 0x40)], fields := [⟨0, 32, .wo, 0⟩] },
  { name := "COMMONS_BAR_GEN", base := 0x46001008, dims := [(32, 0x40)], fields := [⟨0, 32, .ro, 0⟩] },
  { name := "COMMONS_BAR_BCAST", base := 0x4600100C, dims := [(32, 0x40)], fields := [⟨0, 32, .wo, 0⟩] },
  { name := "COMMONS_BAR_VALUE", base := 0x46001010, dims := [(32, 0x40)], fields := [⟨0, 32, .ro, 0⟩] },
  { name := "COMMONS_BAR_MASK", base := 0x46001020, dims := [(32, 0x40), (8, 0x4)], fields := [⟨0, 32, .rw, 0⟩] },
  { name := "PROBE_CFG", base := 0x46004000, dims := [(32, 0x40)], fields := [⟨31, 1, .rw, 0⟩, ⟨30, 1, .rw, 0⟩, ⟨29, 1, .rw, 0⟩, ⟨23, 6, .rw, 0⟩, ⟨20, 3, .rw, 0⟩, ⟨18, 2, .rw, 0⟩, ⟨17, 1, .rw, 0⟩, ⟨16, 1, .rw, 0⟩, ⟨12, 4, .rw, 0⟩, ⟨11, 1, .rw, 1⟩, ⟨10, 1, .rw, 0⟩, ⟨4, 6, .rw, 0⟩, ⟨0, 4, .rw, 0⟩] },
  { name := "PROBE_MID", base := 0x46004004, dims := [(32, 0x40)], fields := [⟨31, 1, .rw, 0⟩, ⟨8, 8, .rw, 0⟩, ⟨0, 8, .rw, 0⟩] },
  { name := "PROBE_BASE", base := 0x46004008, dims := [(32, 0x40)], fields := [⟨0, 32, .rw, 0⟩] },
  { name := "PROBE_LIMIT", base := 0x4600400C, dims := [(32, 0x40)], fields := [⟨0, 32, .rw, 0⟩] },
  { name := "PROBE_PKTS", base := 0x46004010, dims := [(32, 0x40)], fields := [⟨0, 32, .ro, 0⟩] },
  { name := "PROBE_FLITS", base := 0x46004014, dims := [(32, 0x40)], fields := [⟨0, 32, .ro, 0⟩] },
  { name := "PROBE_LAT_SUM", base := 0x46004018, dims := [(32, 0x40)], fields := [⟨0, 32, .ro, 0⟩] },
  { name := "PROBE_LAT_MAX", base := 0x4600401C, dims := [(32, 0x40)], fields := [⟨0, 32, .rc, 0⟩] },
  { name := "PROBE_HEAD", base := 0x46004020, dims := [(32, 0x40), (4, 0x4)], fields := [⟨0, 32, .ro, 0⟩] },
  { name := "PROBE_POP", base := 0x46004030, dims := [(32, 0x40)], fields := [⟨0, 32, .wo, 0⟩] },
  { name := "PROBE_LEVEL", base := 0x46004034, dims := [(32, 0x40)], fields := [⟨0, 9, .ro, 0⟩] },
  { name := "COMMONS_RTR_PORT_CTRL", base := 0x46010000, dims := [(64, 0x100), (8, 0x4)], fields := [⟨29, 3, .wo, 0⟩, ⟨0, 2, .wo, 0⟩] },
  { name := "COMMONS_RTR_PORT_STATUS", base := 0x46010020, dims := [(64, 0x100), (8, 0x4)], fields := [⟨29, 3, .ro, 0⟩, ⟨28, 1, .w1c, 0⟩, ⟨26, 2, .ro, 0⟩, ⟨25, 1, .ro, 0⟩, ⟨0, 17, .ro, 0⟩] },
  { name := "COMMONS_RTR_LAPSED", base := 0x46010040, dims := [(64, 0x100)], fields := [⟨0, 32, .ro, 0⟩] }]

/-- Register table, part 6 (R632). -/
def tbl6 : List RegDef := [
  { name := "COMMONS_RTR_ABSORBED_DEAD", base := 0x46010044, dims := [(64, 0x100)], fields := [⟨0, 32, .ro, 0⟩] },
  { name := "COMMONS_RTR_ABSORBED_CLOSED", base := 0x46010048, dims := [(64, 0x100)], fields := [⟨0, 32, .ro, 0⟩] },
  { name := "COMMONS_RTR_STALE", base := 0x4601004C, dims := [(64, 0x100)], fields := [⟨0, 32, .ro, 0⟩] },
  { name := "COMMONS_NI_CFG", base := 0x46020000, dims := [(256, 0x1000)], fields := [⟨28, 4, .rw, 4⟩, ⟨24, 4, .rw, 8⟩, ⟨20, 4, .rw, 4⟩, ⟨16, 4, .rw, 12⟩] },
  { name := "COMMONS_NI_STATUS", base := 0x46020004, dims := [(256, 0x1000)], fields := [⟨31, 1, .ro, 0⟩, ⟨16, 6, .ro, 0⟩, ⟨0, 7, .ro, 0⟩] },
  { name := "COMMONS_NI_STRAY", base := 0x46020008, dims := [(256, 0x1000)], fields := [⟨0, 32, .ro, 0⟩] },
  { name := "COMMONS_NI_SELF_ANSWERED", base := 0x4602000C, dims := [(256, 0x1000)], fields := [⟨0, 32, .ro, 0⟩] },
  { name := "COMMONS_NI_ROUTE_A", base := 0x46020800, dims := [(256, 0x1000), (256, 0x8)], fields := [⟨31, 1, .rw, 0⟩, ⟨30, 1, .rw, 0⟩, ⟨28, 2, .rw, 0⟩, ⟨23, 5, .rw, 0⟩] },
  { name := "COMMONS_NI_ROUTE_B", base := 0x46020804, dims := [(256, 0x1000), (256, 0x8)], fields := [⟨0, 32, .rw, 0⟩] },
  { name := "TALLY_CTRL", base := 0x45000000, dims := [], fields := [⟨31, 1, .rw, 1⟩, ⟨30, 1, .rw, 0⟩] },
  { name := "TALLY_STATUS", base := 0x45000004, dims := [], fields := [⟨31, 1, .w1c, 0⟩, ⟨30, 1, .w1c, 0⟩, ⟨27, 3, .ro, 0⟩, ⟨26, 1, .w1c, 0⟩, ⟨24, 2, .ro, 0⟩, ⟨0, 6, .ro, 0⟩] },
  { name := "TALLY_FAULT_LAST", base := 0x45000008, dims := [], fields := [⟨0, 12, .ro, 0⟩] },
  { name := "TALLY_FAULT_COUNT", base := 0x4500000C, dims := [], fields := [⟨0, 12, .ro, 0⟩] },
  { name := "TALLY_CORRECTED", base := 0x45000010, dims := [], fields := [⟨0, 32, .ro, 0⟩] },
  { name := "TALLY_SNAP_TICK", base := 0x45000020, dims := [], fields := [⟨0, 32, .rw, 0⟩] },
  { name := "TALLY_SNAP_ADDR", base := 0x45000024, dims := [], fields := [⟨6, 20, .rw, 0⟩] },
  { name := "TALLY_SNAP_ARM", base := 0x45000028, dims := [], fields := [⟨31, 1, .wo, 0⟩, ⟨30, 1, .wo, 0⟩] },
  { name := "TALLY_SNAP_STATUS", base := 0x4500002C, dims := [], fields := [⟨30, 2, .ro, 0⟩, ⟨26, 4, .ro, 0⟩, ⟨13, 13, .ro, 0⟩, ⟨0, 8, .ro, 0⟩] },
  { name := "TALLY_PEEK_ID", base := 0x45000030, dims := [], fields := [⟨0, 12, .wo, 0⟩] },
  { name := "TALLY_PEEK_STATUS", base := 0x45000034, dims := [], fields := [⟨31, 1, .ro, 0⟩, ⟨30, 1, .ro, 0⟩, ⟨29, 1, .ro, 0⟩, ⟨28, 1, .ro, 0⟩, ⟨0, 12, .ro, 0⟩] },
  { name := "TALLY_PEEK_ISSUED_LO", base := 0x45000038, dims := [], fields := [⟨0, 32, .ro, 0⟩] },
  { name := "TALLY_PEEK_ISSUED_HI", base := 0x4500003C, dims := [], fields := [⟨0, 32, .ro, 0⟩] },
  { name := "TALLY_PEEK_RETURNED_LO", base := 0x45000040, dims := [], fields := [⟨0, 32, .ro, 0⟩] },
  { name := "TALLY_PEEK_RETURNED_HI", base := 0x45000044, dims := [], fields := [⟨0, 32, .ro, 0⟩] },
  { name := "TALLY_PEEK_OUT", base := 0x45000048, dims := [], fields := [⟨0, 32, .ro, 0⟩] },
  { name := "TALLY_DOMAIN_HELD", base := 0x45000100, dims := [(48, 0x4)], fields := [⟨31, 1, .ro, 0⟩, ⟨30, 1, .ro, 0⟩, ⟨0, 20, .ro, 0⟩] },
  { name := "CARTER_CTRL", base := 0x49000000, dims := [], fields := [⟨0, 1, .rw, 0⟩] },
  { name := "CARTER_DROP_UNPLANNED", base := 0x49000004, dims := [], fields := [⟨0, 32, .ro, 0⟩] },
  { name := "CARTER_SWEEP_STOPPED", base := 0x49000008, dims := [], fields := [⟨0, 32, .ro, 0⟩] },
  { name := "CARTER_CH_CTRL", base := 0x49001000, dims := [(64, 0x40)], fields := [⟨31, 1, .wo, 0⟩, ⟨30, 1, .wo, 0⟩, ⟨29, 1, .wo, 0⟩, ⟨28, 1, .wo, 0⟩, ⟨5, 21, .wo, 0⟩] },
  { name := "CARTER_CH_CFG", base := 0x49001004, dims := [(64, 0x40)], fields := [⟨31, 1, .rw, 0⟩, ⟨29, 2, .rw, 0⟩, ⟨28, 1, .rw, 0⟩, ⟨0, 17, .rw, 65536⟩] },
  { name := "CARTER_CH_STATE", base := 0x49001008, dims := [(64, 0x40)], fields := [⟨30, 2, .ro, 0⟩, ⟨29, 1, .ro, 0⟩, ⟨28, 1, .ro, 0⟩, ⟨22, 6, .ro, 0⟩, ⟨18, 4, .ro, 0⟩, ⟨0, 17, .ro, 0⟩] },
  { name := "CARTER_CH_RESULT", base := 0x49001010, dims := [(64, 0x40)], bytes := 8, fields := [⟨63, 1, .to, 0⟩, ⟨62, 1, .to, 0⟩, ⟨58, 4, .to, 0⟩, ⟨57, 1, .to, 0⟩, ⟨56, 1, .to, 0⟩, ⟨55, 1, .to, 0⟩, ⟨54, 1, .to, 0⟩, ⟨53, 1, .to, 0⟩, ⟨40, 8, .to, 0⟩, ⟨0, 17, .to, 0⟩] },
  { name := "CARTER_CH_CUR", base := 0x4900100C, dims := [(64, 0x40)], fields := [⟨30, 1, .ro, 0⟩, ⟨5, 21, .ro, 0⟩] },
  { name := "CARTER_CH_IRQ", base := 0x49001018, dims := [(64, 0x40)], fields := [⟨1, 1, .w1c, 0⟩, ⟨0, 1, .w1c, 0⟩] },
  { name := "CARTER_CH_BYTES", base := 0x4900101C, dims := [(64, 0x40)], fields := [⟨0, 32, .ro, 0⟩] },
  { name := "CARTER_CH_BAD", base := 0x49001020, dims := [(64, 0x40)], fields := [⟨0, 32, .ro, 0⟩] },
  { name := "CARTER_CH_LAPSED", base := 0x49001024, dims := [(64, 0x40)], fields := [⟨0, 32, .ro, 0⟩] },
  { name := "CARTER_CH_POISONED", base := 0x49001028, dims := [(64, 0x40)], fields := [⟨0, 32, .ro, 0⟩] },
  { name := "CARTER_CH_COUNTS", base := 0x4900102C, dims := [(64, 0x40)], fields := [⟨16, 16, .ro, 0⟩, ⟨0, 16, .ro, 0⟩] }]

/-- Register table, part 7 (R632). -/
def tbl7 : List RegDef := [
  { name := "HCARTER_CTRL", base := 0x10F04000, dims := [(16, 0x1000000)], fields := [⟨0, 1, .rw, 0⟩] },
  { name := "HCARTER_DROP_UNPLANNED", base := 0x10F04004, dims := [(16, 0x1000000)], fields := [⟨0, 32, .ro, 0⟩] },
  { name := "HCARTER_SWEEP_STOPPED", base := 0x10F04008, dims := [(16, 0x1000000)], fields := [⟨0, 32, .ro, 0⟩] },
  { name := "HCARTER_CH_CTRL", base := 0x10F04100, dims := [(16, 0x1000000), (8, 0x40)], fields := [⟨31, 1, .wo, 0⟩, ⟨30, 1, .wo, 0⟩, ⟨29, 1, .wo, 0⟩, ⟨28, 1, .wo, 0⟩, ⟨5, 21, .wo, 0⟩] },
  { name := "HCARTER_CH_CFG", base := 0x10F04104, dims := [(16, 0x1000000), (8, 0x40)], fields := [⟨31, 1, .rw, 0⟩, ⟨29, 2, .rw, 0⟩, ⟨28, 1, .rw, 0⟩, ⟨0, 17, .rw, 65536⟩] },
  { name := "HCARTER_CH_STATE", base := 0x10F04108, dims := [(16, 0x1000000), (8, 0x40)], fields := [⟨30, 2, .ro, 0⟩, ⟨29, 1, .ro, 0⟩, ⟨28, 1, .ro, 0⟩, ⟨22, 6, .ro, 0⟩, ⟨18, 4, .ro, 0⟩, ⟨0, 17, .ro, 0⟩] },
  { name := "HCARTER_CH_RESULT", base := 0x10F04110, dims := [(16, 0x1000000), (8, 0x40)], bytes := 8, fields := [⟨63, 1, .to, 0⟩, ⟨62, 1, .to, 0⟩, ⟨58, 4, .to, 0⟩, ⟨57, 1, .to, 0⟩, ⟨56, 1, .to, 0⟩, ⟨55, 1, .to, 0⟩, ⟨54, 1, .to, 0⟩, ⟨53, 1, .to, 0⟩, ⟨40, 8, .to, 0⟩, ⟨0, 17, .to, 0⟩] },
  { name := "HCARTER_CH_CUR", base := 0x10F0410C, dims := [(16, 0x1000000), (8, 0x40)], fields := [⟨30, 1, .ro, 0⟩, ⟨5, 21, .ro, 0⟩] },
  { name := "HCARTER_CH_IRQ", base := 0x10F04118, dims := [(16, 0x1000000), (8, 0x40)], fields := [⟨1, 1, .w1c, 0⟩, ⟨0, 1, .w1c, 0⟩] },
  { name := "HCARTER_CH_BYTES", base := 0x10F0411C, dims := [(16, 0x1000000), (8, 0x40)], fields := [⟨0, 32, .ro, 0⟩] },
  { name := "HCARTER_CH_BAD", base := 0x10F04120, dims := [(16, 0x1000000), (8, 0x40)], fields := [⟨0, 32, .ro, 0⟩] },
  { name := "HCARTER_CH_LAPSED", base := 0x10F04124, dims := [(16, 0x1000000), (8, 0x40)], fields := [⟨0, 32, .ro, 0⟩] },
  { name := "HCARTER_CH_POISONED", base := 0x10F04128, dims := [(16, 0x1000000), (8, 0x40)], fields := [⟨0, 32, .ro, 0⟩] },
  { name := "HCARTER_CH_COUNTS", base := 0x10F0412C, dims := [(16, 0x1000000), (8, 0x40)], fields := [⟨16, 16, .ro, 0⟩, ⟨0, 16, .ro, 0⟩] },
  { name := "QUAD_CFG", base := 0x4F000000, dims := [(12, 0x4)], fields := [⟨4, 3, .rw, 0⟩, ⟨0, 4, .rw, 0⟩] },
  { name := "LANE_CFG", base := 0x4F001000, dims := [(48, 0x40)], fields := [⟨30, 2, .rw, 0⟩, ⟨25, 5, .rw, 0⟩, ⟨24, 1, .rw, 0⟩, ⟨23, 1, .rw, 0⟩, ⟨22, 1, .rw, 0⟩, ⟨20, 2, .rw, 0⟩, ⟨18, 2, .rw, 0⟩] },
  { name := "LANE_STATUS", base := 0x4F001004, dims := [(48, 0x40)], fields := [⟨31, 1, .ro, 0⟩, ⟨30, 1, .ro, 0⟩, ⟨29, 1, .ro, 0⟩, ⟨28, 1, .ro, 0⟩, ⟨27, 1, .ro, 0⟩, ⟨26, 1, .ro, 0⟩] },
  { name := "LANE_ERR", base := 0x4F001008, dims := [(48, 0x40)], fields := [⟨16, 16, .rc, 0⟩, ⟨0, 16, .rc, 0⟩] },
  { name := "LANE_PRBS_ERR", base := 0x4F00100C, dims := [(48, 0x40)], fields := [⟨0, 32, .rc, 0⟩] },
  { name := "LANE_MARGIN_CTRL", base := 0x4F001010, dims := [(48, 0x40)], fields := [⟨31, 1, .rw, 0⟩, ⟨29, 2, .rw, 1⟩, ⟨24, 5, .rw, 20⟩, ⟨8, 6, .rw, 0⟩, ⟨0, 6, .rw, 0⟩] },
  { name := "LANE_MARGIN_RESULT", base := 0x4F001014, dims := [(48, 0x40)], fields := [⟨31, 1, .ro, 0⟩, ⟨0, 31, .ro, 0⟩] },
  { name := "LANE_RECAL", base := 0x4F001018, dims := [(48, 0x40)], fields := [⟨31, 1, .wo, 0⟩, ⟨30, 1, .ro, 0⟩] },
  { name := "EWL_CFG", base := 0x4F004000, dims := [(6, 0x100)], fields := [⟨31, 1, .rw, 0⟩, ⟨30, 1, .rw, 0⟩, ⟨27, 3, .rw, 0⟩, ⟨21, 6, .rw, 0⟩, ⟨18, 3, .rw, 0⟩, ⟨17, 1, .rw, 0⟩, ⟨8, 8, .rw, 0⟩, ⟨0, 6, .rw, 63⟩] },
  { name := "EWL_STATUS", base := 0x4F004004, dims := [(6, 0x100)], fields := [⟨30, 2, .ro, 0⟩, ⟨29, 1, .ro, 0⟩, ⟨28, 1, .ro, 0⟩, ⟨27, 1, .ro, 0⟩, ⟨26, 1, .ro, 0⟩, ⟨25, 1, .ro, 0⟩, ⟨8, 8, .ro, 0⟩, ⟨0, 8, .ro, 0⟩] },
  { name := "EWL_TIME_ASYM", base := 0x4F004008, dims := [(6, 0x100)], fields := [⟨0, 32, .rw, 0⟩] },
  { name := "EWL_TIME_OFFSET", base := 0x4F00400C, dims := [(6, 0x100)], fields := [⟨0, 32, .ro, 0⟩] },
  { name := "EWL_TIME_DELAY", base := 0x4F004010, dims := [(6, 0x100)], fields := [⟨0, 32, .ro, 0⟩] },
  { name := "EWL_COUNTS", base := 0x4F004014, dims := [(6, 0x100)], fields := [⟨16, 16, .ro, 0⟩, ⟨0, 16, .ro, 0⟩] },
  { name := "EWL_CHAFF", base := 0x4F004018, dims := [(6, 0x100)], fields := [⟨16, 16, .ro, 0⟩, ⟨0, 16, .ro, 0⟩] },
  { name := "EWL_DROPS", base := 0x4F00401C, dims := [(6, 0x100)], fields := [⟨16, 16, .ro, 0⟩, ⟨0, 16, .ro, 0⟩] },
  { name := "EWL_PARISH", base := 0x4F008000, dims := [], fields := [⟨31, 1, .rw, 0⟩, ⟨0, 3, .rw, 0⟩] },
  { name := "EWL_ROUTE", base := 0x4F008004, dims := [], fields := [⟨0, 32, .rw, 0⟩] },
  { name := "EWL_MEMBER_STATUS", base := 0x4F008010, dims := [(8, 0x4)], fields := [⟨31, 1, .ro, 0⟩, ⟨30, 1, .w1s, 0⟩, ⟨29, 1, .ro, 0⟩, ⟨12, 12, .ro, 0⟩, ⟨0, 12, .ro, 0⟩] },
  { name := "EWL_STREAM_CFG", base := 0x4F009000, dims := [(64, 0x4)], fields := [⟨31, 1, .rw, 0⟩, ⟨30, 1, .rw, 0⟩, ⟨27, 3, .rw, 0⟩] },
  { name := "MARKET_CTRL", base := 0x50000000, dims := [], fields := [⟨0, 1, .rw, 0⟩] },
  { name := "MARKET_DROP_UNPLANNED", base := 0x50000004, dims := [], fields := [⟨0, 32, .ro, 0⟩] },
  { name := "MARKET_SWEEP_DROPPED", base := 0x50000008, dims := [], fields := [⟨0, 32, .ro, 0⟩] },
  { name := "MARKET_NOTIFY_LAPSED", base := 0x5000000C, dims := [], fields := [⟨0, 32, .ro, 0⟩] },
  { name := "MARKET_BUF_CFG", base := 0x50000010, dims := [], fields := [⟨16, 16, .rw, 0⟩, ⟨0, 16, .rw, 0⟩] },
  { name := "MARKET_BUF_STATUS", base := 0x50000014, dims := [], fields := [⟨0, 17, .ro, 0⟩] }]

/-- Register table, part 8 (R632). -/
def tbl8 : List RegDef := [
  { name := "MARKET_TX_READY", base := 0x50000018, dims := [], fields := [⟨16, 6, .wo, 0⟩, ⟨12, 4, .wo, 0⟩, ⟨0, 12, .wo, 0⟩] },
  { name := "MARKET_PCP_TO_TC", base := 0x5000001C, dims := [], fields := [⟨0, 24, .rw, 0⟩] },
  { name := "MARKET_PORT_CFG", base := 0x50001000, dims := [(32, 0x100)], fields := [⟨31, 1, .rw, 0⟩, ⟨30, 1, .rw, 0⟩, ⟨29, 1, .wo, 0⟩, ⟨26, 3, .rw, 0⟩, ⟨23, 3, .rw, 0⟩, ⟨17, 6, .rw, 0⟩, ⟨0, 14, .rw, 1518⟩] },
  { name := "MARKET_PORT_STATUS", base := 0x50001004, dims := [(32, 0x100)], fields := [⟨30, 2, .ro, 0⟩, ⟨29, 1, .ro, 0⟩, ⟨28, 1, .ro, 0⟩, ⟨27, 1, .ro, 0⟩] },
  { name := "MARKET_PTP_CFG", base := 0x50001008, dims := [(32, 0x100)], fields := [⟨30, 2, .rw, 0⟩, ⟨29, 1, .rw, 0⟩, ⟨28, 1, .ro, 0⟩, ⟨0, 24, .rw, 0⟩] },
  { name := "MARKET_PTP_IN_LAT", base := 0x5000100C, dims := [(32, 0x100)], fields := [⟨0, 32, .rw, 0⟩] },
  { name := "MARKET_PTP_OUT_LAT", base := 0x50001010, dims := [(32, 0x100)], fields := [⟨0, 32, .rw, 0⟩] },
  { name := "MARKET_PTP_ASYM", base := 0x50001014, dims := [(32, 0x100)], fields := [⟨0, 32, .rw, 0⟩] },
  { name := "MARKET_PTP_PDELAY", base := 0x50001018, dims := [(32, 0x100)], fields := [⟨0, 32, .rw, 0⟩] },
  { name := "MARKET_TS_CAP", base := 0x50001020, dims := [(32, 0x100), (4, 0x4)], fields := [⟨0, 32, .ro, 0⟩] },
  { name := "MARKET_TS_POP", base := 0x50001030, dims := [(32, 0x100)], fields := [⟨0, 32, .wo, 0⟩] },
  { name := "MARKET_PORT_COUNT", base := 0x50001040, dims := [(32, 0x100), (16, 0x4)], fields := [⟨0, 32, .ro, 0⟩] },
  { name := "MARKET_FEC_CORR", base := 0x50001080, dims := [(32, 0x100)], fields := [⟨0, 32, .ro, 0⟩] },
  { name := "MARKET_FEC_UNCORR", base := 0x50001084, dims := [(32, 0x100)], fields := [⟨0, 32, .ro, 0⟩] },
  { name := "MARKET_LINK_LOSS", base := 0x50001088, dims := [(32, 0x100)], fields := [⟨0, 32, .ro, 0⟩] },
  { name := "MARKET_TRAIN_RESTARTS", base := 0x5000108C, dims := [(32, 0x100)], fields := [⟨0, 32, .ro, 0⟩] },
  { name := "MARKET_FLOW", base := 0x50010000, dims := [(1024, 0x20), (8, 0x4)], fields := [⟨0, 32, .rw, 0⟩] },
  { name := "MARKET_LQ_CFG", base := 0x50020000, dims := [(64, 0x10)], fields := [⟨31, 1, .rw, 0⟩, ⟨30, 1, .rw, 0⟩, ⟨0, 5, .rw, 0⟩] },
  { name := "MARKET_LQ_BASE", base := 0x50020004, dims := [(64, 0x10)], fields := [⟨2, 24, .rw, 0⟩] },
  { name := "MARKET_LQ_PROD", base := 0x50020008, dims := [(64, 0x10)], fields := [⟨0, 32, .ro, 0⟩] },
  { name := "MARKET_LQ_CONS", base := 0x5002000C, dims := [(64, 0x10)], fields := [⟨0, 32, .rw, 0⟩] },
  { name := "MARKET_STREAM_CFG", base := 0x50021000, dims := [(64, 0x20)], fields := [⟨31, 1, .rw, 0⟩, ⟨30, 1, .rw, 0⟩, ⟨29, 1, .rw, 0⟩, ⟨25, 4, .rw, 0⟩, ⟨20, 5, .rw, 0⟩, ⟨17, 3, .rw, 0⟩, ⟨0, 12, .rw, 0⟩] },
  { name := "MARKET_STREAM_ANCHOR_SEQ", base := 0x50021004, dims := [(64, 0x20)], fields := [⟨0, 32, .rw, 0⟩] },
  { name := "MARKET_STREAM_ANCHOR_SFN", base := 0x50021008, dims := [(64, 0x20)], fields := [⟨0, 32, .rw, 0⟩] },
  { name := "MARKET_STREAM_ANCHOR_IDX", base := 0x5002100C, dims := [(64, 0x20)], fields := [⟨0, 32, .rw, 0⟩] },
  { name := "MARKET_STREAM_TEMPLATE", base := 0x50021010, dims := [(64, 0x20)], fields := [⟨6, 20, .rw, 0⟩, ⟨0, 6, .rw, 0⟩] },
  { name := "MARKET_STREAM_ERR", base := 0x50021014, dims := [(64, 0x20)], fields := [⟨0, 32, .ro, 0⟩] },
  { name := "MARKET_TXQ_PUSH", base := 0x50022000, dims := [(16, 0x10)], fields := [⟨0, 32, .wo, 0⟩] },
  { name := "MARKET_TXQ_LEVEL", base := 0x50022004, dims := [(16, 0x10)], fields := [⟨0, 8, .ro, 0⟩] },
  { name := "MARKET_SYNCE_OUT", base := 0x50038000, dims := [(2, 0x4)], fields := [⟨31, 1, .rw, 0⟩, ⟨30, 1, .rw, 0⟩, ⟨29, 1, .ro, 1⟩, ⟨28, 1, .rw, 0⟩, ⟨0, 5, .rw, 0⟩] },
  { name := "HOST_STATUS", base := 0x43000000, dims := [], fields := [⟨30, 2, .ro, 0⟩, ⟨29, 1, .ro, 0⟩, ⟨26, 3, .ro, 0⟩, ⟨21, 5, .ro, 0⟩] },
  { name := "HOST_PF2_WINDOW", base := 0x43000004, dims := [], fields := [⟨0, 10, .rw, 850⟩] },
  { name := "HOST_IN_WERR", base := 0x43000010, dims := [], fields := [⟨0, 32, .ro, 0⟩] },
  { name := "HOST_DB_UNBOUND", base := 0x43000014, dims := [], fields := [⟨0, 32, .ro, 0⟩] },
  { name := "HOST_OB_TIMEOUTS", base := 0x43000018, dims := [], fields := [⟨0, 32, .ro, 0⟩] },
  { name := "HOST_LATE_CPL", base := 0x4300001C, dims := [], fields := [⟨0, 32, .ro, 0⟩] },
  { name := "HOST_HCQ_LOST", base := 0x43000020, dims := [], fields := [⟨0, 32, .ro, 0⟩] },
  { name := "HOST_OB_MAP_LO", base := 0x43001000, dims := [(64, 0x8)], fields := [⟨31, 1, .rw, 0⟩, ⟨30, 1, .rw, 0⟩, ⟨16, 8, .rw, 0⟩, ⟨0, 2, .rw, 0⟩] },
  { name := "HOST_OB_MAP_HI", base := 0x43001004, dims := [(64, 0x8)], fields := [⟨0, 32, .rw, 0⟩] },
  { name := "HOST_DB_BIND", base := 0x43002000, dims := [(128, 0x40), (16, 0x4)], fields := [⟨31, 1, .rw, 0⟩, ⟨2, 28, .rw, 0⟩] }]

/-- Register table, part 9 (R632). -/
def tbl9 : List RegDef := [
  { name := "HOST_FN_WIN", base := 0x43004000, dims := [(128, 0x4)], fields := [⟨31, 1, .rw, 0⟩, ⟨0, 20, .rw, 0⟩] },
  { name := "HOST_PF2_VF_STOOLS", base := 0x43004200, dims := [(16, 0x4)], fields := [⟨30, 2, .ro, 0⟩, ⟨0, 16, .rw, 0⟩] },
  { name := "HOST_IRQ_ROUTE", base := 0x43005000, dims := [(512, 0x4)], fields := [⟨31, 1, .rw, 0⟩, ⟨30, 1, .rw, 0⟩, ⟨23, 7, .rw, 0⟩, ⟨15, 8, .rw, 0⟩, ⟨8, 7, .rw, 0⟩] },
  { name := "HOST_HCQ_CFG", base := 0x43006000, dims := [(128, 0x10)], fields := [⟨31, 1, .rw, 0⟩, ⟨23, 8, .rw, 0⟩, ⟨16, 7, .rw, 0⟩, ⟨0, 4, .rw, 4⟩] },
  { name := "HOST_HCQ_BASE_LO", base := 0x43006004, dims := [(128, 0x10)], fields := [⟨6, 26, .rw, 0⟩] },
  { name := "HOST_HCQ_BASE_HI", base := 0x43006008, dims := [(128, 0x10)], fields := [⟨0, 32, .rw, 0⟩] },
  { name := "HOST_HCQ_TAIL", base := 0x4300600C, dims := [(128, 0x10)], fields := [⟨0, 32, .ro, 0⟩] },
  { name := "COPPICE_CTRL", base := 0x51000000, dims := [], fields := [⟨2, 1, .rw, 0⟩, ⟨1, 1, .w1s, 0⟩, ⟨0, 1, .rw, 0⟩] },
  { name := "COPPICE_ID", base := 0x51000004, dims := [], fields := [⟨0, 32, .ro, 547841⟩] },
  { name := "COPPICE_REV", base := 0x51000008, dims := [], fields := [⟨0, 4, .ro, 3⟩] },
  { name := "COPPICE_LOAD_CTRL", base := 0x51000010, dims := [], fields := [⟨31, 1, .wo, 0⟩, ⟨30, 1, .wo, 0⟩, ⟨29, 1, .wo, 0⟩] },
  { name := "COPPICE_LOAD_STATUS", base := 0x51000014, dims := [], fields := [⟨28, 4, .ro, 0⟩, ⟨25, 3, .ro, 0⟩, ⟨24, 1, .ro, 0⟩, ⟨23, 1, .ro, 0⟩, ⟨22, 1, .ro, 0⟩, ⟨16, 4, .ro, 0⟩, ⟨0, 16, .ro, 0⟩] },
  { name := "COPPICE_LOAD_BYTES", base := 0x51000018, dims := [], fields := [⟨0, 32, .ro, 0⟩] },
  { name := "COPPICE_LOAD_FRAME", base := 0x5100001C, dims := [], fields := [⟨0, 32, .ro, 0⟩] },
  { name := "COPPICE_LOAD_TIMEOUT", base := 0x51000020, dims := [], fields := [⟨0, 14, .rw, 100⟩] },
  { name := "COPPICE_IDLE_WRITES", base := 0x51000024, dims := [], fields := [⟨0, 32, .ro, 0⟩] },
  { name := "COPPICE_EXTRA_BYTES", base := 0x51000028, dims := [], fields := [⟨0, 32, .ro, 0⟩] },
  { name := "COPPICE_UCLK_CFG", base := 0x51000100, dims := [(8, 0x4)], fields := [⟨31, 1, .rw, 0⟩, ⟨30, 1, .ro, 0⟩, ⟨29, 1, .w1c, 0⟩, ⟨0, 20, .rw, 100000⟩] },
  { name := "COPPICE_STOOL_CTRL", base := 0x51001000, dims := [(16, 0x40)], fields := [⟨29, 3, .wo, 0⟩] },
  { name := "COPPICE_STOOL_STATUS", base := 0x51001004, dims := [(16, 0x40)], fields := [⟨29, 3, .ro, 0⟩, ⟨28, 1, .w1c, 0⟩, ⟨26, 2, .ro, 0⟩, ⟨18, 8, .ro, 0⟩] },
  { name := "COPPICE_STOOL_PID", base := 0x51001008, dims := [(16, 0x40)], fields := [⟨0, 32, .ro, 0⟩] },
  { name := "COPPICE_STOOL_IRQ", base := 0x5100100C, dims := [(16, 0x40)], fields := [⟨0, 8, .rw, 0⟩] },
  { name := "COPPICE_STOOL_WIN_BASE", base := 0x51001010, dims := [(16, 0x40), (4, 0x8)], fields := [⟨31, 1, .rw, 0⟩, ⟨30, 1, .rw, 0⟩, ⟨0, 20, .rw, 0⟩] },
  { name := "COPPICE_STOOL_WIN_LIMIT", base := 0x51001014, dims := [(16, 0x40), (4, 0x8)], fields := [⟨0, 20, .rw, 0⟩] },
  { name := "COPPICE_STOOL_TIMEOUTS", base := 0x51001030, dims := [(16, 0x40)], fields := [⟨0, 32, .ro, 0⟩] },
  { name := "COPPICE_STOOL_LATE", base := 0x51001034, dims := [(16, 0x40)], fields := [⟨0, 32, .ro, 0⟩] },
  { name := "COPPICE_STOOL_DROPS", base := 0x51001038, dims := [(16, 0x40)], fields := [⟨0, 32, .ro, 0⟩] },
  { name := "COPPICE_STOOL_REFUSED", base := 0x5100103C, dims := [(16, 0x40)], fields := [⟨0, 32, .ro, 0⟩] },
  { name := "COPPICE_READBACK", base := 0x51002000, dims := [], fields := [⟨28, 4, .rw, 0⟩, ⟨26, 2, .rw, 0⟩, ⟨0, 11, .rw, 0⟩] },
  { name := "COPPICE_READBACK_DATA", base := 0x51002400, dims := [(256, 0x4)], fields := [⟨0, 32, .ro, 0⟩] },
  { name := "STRONG_STATUS", base := 0x42000000, dims := [], fields := [⟨30, 2, .ro, 0⟩, ⟨29, 1, .ro, 0⟩, ⟨28, 1, .ro, 0⟩, ⟨27, 1, .ro, 0⟩, ⟨26, 1, .ro, 0⟩, ⟨0, 11, .ro, 0⟩] },
  { name := "STRONG_ERR", base := 0x42000004, dims := [], fields := [⟨0, 4, .ro, 0⟩] },
  { name := "STRONG_OTP_STATE", base := 0x42000008, dims := [], fields := [⟨30, 2, .ro, 0⟩, ⟨29, 1, .ro, 0⟩, ⟨20, 5, .ro, 0⟩, ⟨16, 4, .ro, 0⟩, ⟨0, 7, .ro, 0⟩] },
  { name := "STRONG_ZEROIZE_COUNT", base := 0x4200000C, dims := [], fields := [⟨0, 32, .ro, 0⟩] },
  { name := "STRONG_CTRL", base := 0x42000010, dims := [], fields := [⟨0, 1, .wo, 0⟩] },
  { name := "STRONG_SERIAL", base := 0x42000014, dims := [(4, 0x4)], fields := [⟨0, 32, .ro, 0⟩] },
  { name := "STRONG_CHALLENGE", base := 0x42000024, dims := [(8, 0x4)], fields := [⟨0, 32, .ro, 0⟩] },
  { name := "STRONG_DBG_CTRL", base := 0x42000044, dims := [], fields := [⟨1, 1, .wo, 0⟩, ⟨0, 1, .wo, 0⟩] },
  { name := "STRONG_DBG_STATUS", base := 0x42000048, dims := [], fields := [⟨31, 1, .ro, 0⟩, ⟨30, 1, .ro, 0⟩, ⟨0, 5, .ro, 0⟩] },
  { name := "STRONG_Q_CFG", base := 0x42000100, dims := [(8, 0x10)], fields := [⟨31, 1, .ro, 0⟩, ⟨29, 2, .ro, 0⟩, ⟨28, 1, .ro, 0⟩, ⟨16, 8, .ro, 0⟩, ⟨0, 4, .ro, 4⟩] }]

/-- Register table, part 10 (R632). -/
def tbl10 : List RegDef := [
  { name := "STRONG_Q_BASE", base := 0x42000104, dims := [(8, 0x10)], fields := [⟨6, 20, .ro, 0⟩] },
  { name := "STRONG_Q_PROD", base := 0x42000108, dims := [(8, 0x10)], fields := [⟨0, 16, .rw, 0⟩] },
  { name := "STRONG_Q_CONS", base := 0x4200010C, dims := [(8, 0x10)], fields := [⟨0, 16, .ro, 0⟩] },
  { name := "STRONG_DBG_RESP", base := 0x42000200, dims := [(49, 0x4)], fields := [⟨0, 32, .wo, 0⟩] },
  { name := "HEARTH_BOOT_STATUS", base := 0x40000000, dims := [], fields := [⟨30, 2, .ro, 0⟩, ⟨29, 1, .w1c, 0⟩, ⟨28, 1, .ro, 0⟩, ⟨16, 8, .ro, 0⟩, ⟨8, 8, .ro, 1⟩, ⟨0, 8, .ro, 255⟩] },
  { name := "HEARTH_STRAPS", base := 0x40000004, dims := [], fields := [⟨31, 1, .ro, 0⟩, ⟨6, 1, .ro, 0⟩, ⟨4, 2, .ro, 0⟩, ⟨2, 2, .ro, 0⟩, ⟨0, 2, .ro, 0⟩] },
  { name := "HEARTH_RELEASE", base := 0x40000008, dims := [], fields := [⟨16, 16, .w1s, 0⟩, ⟨0, 16, .w1s, 0⟩] },
  { name := "HEARTH_HALL_VECTOR_LO", base := 0x40000010, dims := [], fields := [⟨0, 32, .rw, 0⟩] },
  { name := "HEARTH_HALL_VECTOR_HI", base := 0x40000014, dims := [], fields := [⟨0, 8, .rw, 0⟩] },
  { name := "HEARTH_CRIER_ENTER", base := 0x40000020, dims := [], fields := [⟨0, 32, .wo, 0⟩] },
  { name := "HEARTH_RCV_CTRL", base := 0x40000024, dims := [], fields := [⟨16, 16, .wo, 0⟩, ⟨0, 1, .wo, 0⟩] },
  { name := "CRIER_RECORD", base := 0x40000100, dims := [(12, 0x4)], fields := [⟨0, 32, .ro, 0⟩] },
  { name := "HAMLET_SPARE_CTRL", base := 0x10F05000, dims := [(16, 0x1000000)], fields := [⟨31, 1, .wo, 0⟩, ⟨30, 1, .wo, 0⟩, ⟨0, 4, .wo, 0⟩] },
  { name := "HAMLET_SPARE_STATUS", base := 0x10F05004, dims := [(16, 0x1000000)], fields := [⟨30, 2, .ro, 0⟩, ⟨29, 1, .ro, 0⟩, ⟨28, 1, .w1c, 0⟩, ⟨25, 3, .ro, 0⟩, ⟨8, 4, .ro, 0⟩, ⟨4, 4, .ro, 8⟩, ⟨0, 4, .ro, 0⟩] },
  { name := "HEARTH_READMIT", base := 0x4000000C, dims := [], fields := [⟨0, 16, .w1s, 0⟩] },
  { name := "HEARTH_READMIT_STATUS", base := 0x40000018, dims := [], fields := [⟨31, 1, .w1c, 0⟩, ⟨28, 3, .ro, 0⟩, ⟨16, 4, .ro, 0⟩, ⟨0, 8, .ro, 0⟩] },
  { name := "HEARTH_HANDOVER", base := 0x40000028, dims := [], fields := [⟨16, 16, .wo, 0⟩, ⟨15, 1, .wo, 0⟩, ⟨13, 2, .ro, 0⟩, ⟨0, 3, .ro, 0⟩] },
  { name := "HEARTH_DEVRESET", base := 0x40000030, dims := [], fields := [⟨16, 16, .wo, 0⟩, ⟨15, 1, .wo, 0⟩, ⟨14, 1, .wo, 0⟩, ⟨13, 1, .wo, 0⟩] },
  { name := "HEARTH_RESET_TICK", base := 0x40000034, dims := [], fields := [⟨0, 32, .rw, 0⟩] },
  { name := "HEARTH_RESET_STATUS", base := 0x40000038, dims := [], fields := [⟨29, 3, .ro, 0⟩, ⟨28, 1, .w1c, 0⟩, ⟨26, 2, .ro, 0⟩, ⟨25, 1, .ro, 0⟩, ⟨0, 8, .ro, 0⟩] },
  { name := "HEARTH_UNIT_RESET", base := 0x40000040, dims := [], fields := [⟨29, 3, .wo, 0⟩, ⟨27, 2, .ro, 0⟩, ⟨26, 1, .w1c, 0⟩, ⟨24, 2, .ro, 0⟩, ⟨16, 8, .wo, 0⟩, ⟨8, 8, .wo, 0⟩] },
  { name := "PWR_DOM", base := 0x40001000, dims := [(48, 0x4)], fields := [⟨29, 3, .ro, 0⟩, ⟨28, 1, .w1c, 0⟩, ⟨25, 3, .ro, 0⟩, ⟨2, 1, .wo, 0⟩, ⟨0, 2, .wo, 0⟩] },
  { name := "HEARTH_THROTTLE", base := 0x40002000, dims := [], fields := [⟨31, 1, .rw, 0⟩, ⟨28, 3, .ro, 0⟩, ⟨25, 3, .rw, 0⟩, ⟨16, 9, .rw, 135⟩, ⟨0, 7, .rw, 100⟩] },
  { name := "HEARTH_TEMP", base := 0x40002100, dims := [(24, 0x4)], fields := [⟨0, 10, .ro, 0⟩] },
  { name := "REEVE_TAP_CFG", base := 0x4A003000, dims := [], fields := [⟨31, 1, .rw, 0⟩, ⟨30, 1, .rw, 0⟩, ⟨29, 1, .rw, 0⟩, ⟨23, 6, .rw, 0⟩, ⟨0, 5, .rw, 0⟩] },
  { name := "REEVE_TAP_HEAD", base := 0x4A003010, dims := [(4, 0x4)], fields := [⟨0, 32, .ro, 0⟩] },
  { name := "REEVE_TAP_POP", base := 0x4A003020, dims := [], fields := [⟨0, 32, .wo, 0⟩] },
  { name := "REEVE_TAP_LEVEL", base := 0x4A003024, dims := [], fields := [⟨11, 16, .ro, 0⟩, ⟨0, 11, .ro, 0⟩] },
  { name := "TRACE_CFG", base := 0x40003000, dims := [], fields := [⟨31, 1, .rw, 0⟩, ⟨0, 5, .rw, 8⟩] },
  { name := "TRACE_SRC_EN0", base := 0x40003004, dims := [], fields := [⟨0, 32, .rw, 0⟩] },
  { name := "TRACE_SRC_EN1", base := 0x40003008, dims := [], fields := [⟨0, 1, .rw, 0⟩] },
  { name := "TRACE_BASE_LO", base := 0x4000300C, dims := [], fields := [⟨5, 27, .rw, 0⟩] },
  { name := "TRACE_BASE_HI", base := 0x40003010, dims := [], fields := [⟨0, 8, .rw, 0⟩] },
  { name := "TRACE_PROD", base := 0x40003014, dims := [], fields := [⟨0, 32, .ro, 0⟩] },
  { name := "TRACE_CONS", base := 0x40003018, dims := [], fields := [⟨0, 32, .rw, 0⟩] },
  { name := "TRACE_STATUS", base := 0x4000301C, dims := [], fields := [⟨31, 1, .w1c, 0⟩, ⟨27, 4, .ro, 0⟩, ⟨26, 1, .ro, 0⟩] },
  { name := "TELEM_CFG", base := 0x40003800, dims := [], fields := [⟨31, 1, .rw, 0⟩, ⟨30, 1, .rw, 0⟩, ⟨29, 1, .rw, 0⟩, ⟨16, 4, .rw, 8⟩, ⟨0, 16, .rw, 1000⟩] },
  { name := "TELEM_BASE", base := 0x40003804, dims := [], fields := [⟨6, 20, .rw, 0⟩] },
  { name := "TELEM_PROD", base := 0x40003808, dims := [], fields := [⟨0, 32, .rw, 0⟩] },
  { name := "TELEM_CONS", base := 0x4000380C, dims := [], fields := [⟨0, 32, .rw, 0⟩] }]

/-- Register table, part 11 (R632). -/
def tbl11 : List RegDef := [
  { name := "TELEM_LOST", base := 0x40003810, dims := [], fields := [⟨0, 32, .rw, 0⟩] },
  { name := "HEARTH_EVT_HEAD", base := 0x40003900, dims := [(4, 0x4)], fields := [⟨0, 32, .ro, 0⟩] },
  { name := "HEARTH_EVT_POP", base := 0x40003910, dims := [], fields := [⟨0, 32, .wo, 0⟩] },
  { name := "HEARTH_EVT_STATUS", base := 0x40003914, dims := [], fields := [⟨24, 8, .rc, 0⟩, ⟨16, 8, .rc, 0⟩, ⟨0, 9, .ro, 0⟩] },
  { name := "DBG_CTRL", base := 0x10F06000, dims := [(16, 0x1000000), (9, 0x40)], fields := [⟨31, 1, .w1s, 0⟩, ⟨30, 1, .w1s, 0⟩, ⟨29, 1, .w1s, 0⟩, ⟨28, 1, .rw, 0⟩, ⟨0, 4, .rw, 0⟩] },
  { name := "DBG_STATUS", base := 0x10F06004, dims := [(16, 0x1000000), (9, 0x40)], fields := [⟨31, 1, .ro, 0⟩, ⟨28, 3, .ro, 0⟩, ⟨0, 15, .ro, 0⟩] },
  { name := "DBG_BP", base := 0x10F06008, dims := [(16, 0x1000000), (9, 0x40), (4, 0x4)], fields := [⟨0, 32, .rw, 0⟩] },
  { name := "DBG_REG_SEL", base := 0x10F06018, dims := [(16, 0x1000000), (9, 0x40)], fields := [⟨31, 1, .rw, 0⟩, ⟨30, 1, .rw, 0⟩, ⟨12, 4, .rw, 0⟩, ⟨0, 12, .rw, 0⟩] },
  { name := "DBG_REG_DATA", base := 0x10F0601C, dims := [(16, 0x1000000), (9, 0x40)], fields := [⟨0, 32, .rw, 0⟩] },
  { name := "HDBG_CTRL", base := 0x52006000, dims := [(16, 0x40)], fields := [⟨31, 1, .w1s, 0⟩, ⟨30, 1, .w1s, 0⟩, ⟨29, 1, .w1s, 0⟩, ⟨28, 1, .rw, 0⟩, ⟨0, 4, .rw, 0⟩] },
  { name := "HDBG_STATUS", base := 0x52006004, dims := [(16, 0x40)], fields := [⟨31, 1, .ro, 0⟩, ⟨28, 3, .ro, 0⟩, ⟨0, 15, .ro, 0⟩] },
  { name := "HDBG_BP", base := 0x52006008, dims := [(16, 0x40), (4, 0x4)], fields := [⟨0, 32, .rw, 0⟩] },
  { name := "HDBG_REG_SEL", base := 0x52006018, dims := [(16, 0x40)], fields := [⟨31, 1, .rw, 0⟩, ⟨30, 1, .rw, 0⟩, ⟨12, 4, .rw, 0⟩, ⟨0, 12, .rw, 0⟩] },
  { name := "HDBG_REG_DATA", base := 0x5200601C, dims := [(16, 0x40)], fields := [⟨0, 32, .rw, 0⟩] },
  { name := "BELL_START", base := 0x44020004, dims := [(64, 0x20)], fields := [⟨0, 32, .rw, 0⟩] },
  { name := "BELL_START_FINE", base := 0x44020008, dims := [(64, 0x20)], fields := [⟨0, 4, .rw, 0⟩] },
  { name := "BELL_PERIOD", base := 0x4402000C, dims := [(64, 0x20)], fields := [⟨0, 32, .rw, 0⟩] },
  { name := "BELL_WIDTH", base := 0x44020010, dims := [(64, 0x20)], fields := [⟨0, 28, .rw, 0⟩] },
  { name := "BELL_MISSED", base := 0x44020014, dims := [(64, 0x20)], fields := [⟨0, 32, .ro, 0⟩] },
  { name := "CAP_STATUS", base := 0x44030000, dims := [(18, 0x20)], fields := [⟨8, 1, .w1c, 0⟩, ⟨0, 5, .ro, 0⟩] },
  { name := "CAP_SEC", base := 0x44030004, dims := [(18, 0x20)], fields := [⟨0, 32, .ro, 0⟩] },
  { name := "CAP_NS", base := 0x44030008, dims := [(18, 0x20)], fields := [⟨0, 32, .ro, 0⟩] },
  { name := "CAP_FRAC", base := 0x4403000C, dims := [(18, 0x20)], fields := [⟨0, 32, .ro, 0⟩] },
  { name := "CAP_POP", base := 0x44030010, dims := [(18, 0x20)], fields := [⟨0, 32, .wo, 0⟩] }]

/-- Every register of the device register space and the hamlet register blocks. -/
def all : List RegDef := tbl0 ++ tbl1 ++ tbl2 ++ tbl3 ++ tbl4 ++ tbl5 ++ tbl6 ++ tbl7 ++ tbl8 ++ tbl9 ++ tbl10 ++ tbl11

end Sys2Proof.Machine.R
end

