-- ==== Sys2Proof/Machine/State.lean ====
section
/-! DEFINITION. Machine/State.lean: everything the spec gives the machine, as plain data. The memory-mapped registers are
one file of fields (`regs`); what a chapter describes beside its registers stands in one structure per block.
Choices of the model: log entries 2 (DESIGN CHOICE), 3 (DESIGN CHOICE), 4 (DESIGN CHOICE), 8 (DEDUCED), 71 (DEDUCED). -/

namespace Sys2Proof.Machine

/-- Blocks that interrupt the Hall. -/
inductive HallSrc where
  | bell | residue | replica | eccHigh | overrun | doubleFault | report | landing | carter | portDead | tallyFault
  | snapshot | barrier | macsec | throttle | hearth | coppiceLoad | stool | strongroom | telemetry | workshop | ewl | spare
deriving DecidableEq, Repr, Inhabited

/-- An interrupt pending at the Hall interrupt controller. -/
structure HallIrq where
  src : HallSrc
  idx : Nat
deriving DecidableEq, Repr, Inhabited

/-- What the device sends to the outside world. -/
inductive Sent where
  | tlp (words : List PWord) (addr : Nat) (fn : Nat) (ep : Bool)
  | msix (fn vector : Nat)
  /-- A flit on an Ewenual link (R443). -/
  | ewlFlit (link : Nat) (f : EwlFlit)
  /-- Credits returned, by virtual network. -/
  | ewlCredit (link : Nat) (credits : List Nat)
  /-- Blocks on a link lane: sync header and payload before scrambling (R436). -/
  | ewlBlocks (link lane : Nat) (blocks : List (Nat × DWord))
  /-- A write into the parish window of a member. -/
  | parish (member addr : Nat) (words : List Nat)
  /-- A completion to the host (R500): function, status, bytes, EP. -/
  | cpl (fn : Nat) (st : CplStatus) (bytes : List Nat) (ep : Bool)
  /-- A memory read request to the host (R506). -/
  | hostRead (fn : Nat) (addr n : Nat)
  /-- An Ethernet frame with its FCS on a Market port; with a packet number where MACsec protects it (R485). -/
  | frame (port : Nat) (bytes : List Nat) (pn : Option Nat)
  /-- A line of ASCII on MGMT_UART_TX (R572). -/
  | uart (bytes : List Nat)
  /-- Bytes of the I²C target (R573). -/
  | i2c (bytes : List Nat)
  /-- A broadcast on VN-C to every parish member: a device reset at a tick (R610). -/
  | resetCall (tick : Nat)
deriving DecidableEq, Repr, Inhabited

/-- What a lock group's action boundary will do (R37). -/
inductive LgAction where
  | none | start | stop
deriving DecidableEq, Repr, Inhabited

/-- A slot window (R50): its slot (counted from frame 0), its tag, its sweep instant in ns, and whether the Reeve has
swept it. -/
structure Window where
  slot : Int
  wtag : Nat
  sweepNs : Int
  swept : Bool := false
deriving DecidableEq, Repr, Inhabited

/-- A plan that is armed (R40, R41): its sequence, its commit instant and slot, and the shadow parts that the blocks
other than the Reeve hold (the Reeve holds its items in SHADOW). -/
structure ArmedPlan where
  id : Nat
  seq : Nat
  commitNs : Int
  slot : Int
  wtag : Nat
  sweepNs : Int
  part1 : List Word := []
  part2 : List Word := []
  part3 : List Word := []
  part4 : List Word := []
  bells : List BellEntry := []
deriving DecidableEq, Repr, Inhabited

/-- A lock group beyond its registers: the pending action and its boundary, the current slot counted from frame 0, a
pending TDD swap's boundary, the armed plans in arming order, and the live windows. -/
structure LockGroup where
  action : LgAction := .none
  actionNs : Int := 0
  cur : Int := 0
  ceased : Bool := false
  swapNs : Int := 0
  armed : List ArmedPlan := []
  windows : List Window := []
  /-- The frame boundary at which the group last became RUNNING. -/
  runNs : Int := 0
deriving DecidableEq, Repr, Inhabited

/-- A Bell beyond its registers (R53): the next pulse (periodic count), the start instant in units of 2^-16 ns, the
level, the end of the running pulse, and the last slot pulsed in lock-group mode. -/
structure Bell where
  count : Nat := 0
  start : Int := 0
  high : Bool := false
  ends : Int := 0
  lastSlot : Option Int := none
  /-- The instant of its last leading edge, in units of 2^-16 ns. -/
  edge : Option Int := none
deriving DecidableEq, Repr, Inhabited

/-- A capture stamp (R55), with the invalid flag of R25. -/
structure Stamp where
  sec : Nat
  ns : Nat
  frac : Nat
  invalid : Bool
deriving DecidableEq, Repr, Inhabited

/-- A PPS output (R56): the next whole second to pulse, the level and the end of the pulse. -/
structure PpsOut where
  nextSec : Option Int := none
  high : Bool := false
  ends : Int := 0
deriving DecidableEq, Repr, Inhabited

/-- The Steeple beyond its registers. Time is held in units of 2^-16 ns from the PTP epoch (R20). -/
structure Steeple where
  now : Nat := 0
  good : Nat := 0
  missed : Nat := 0
  /-- The rate word of the DPLL: the frequency the last update left; held in HOLDOVER (R29). -/
  freq : Nat := 0
  /-- What remains to be slewed, in units of 2^-16 ns, and the fraction of a unit slewed so far in parts per 10^9 (R30). -/
  slew : Int := 0
  slewAcc : Nat := 0
  /-- A phase source change (R598): 1 it waits for the next update, 2 the DPLL passes through HOLDOVER. -/
  srcPhase : Nat := 0
  groups : Tab LockGroup := ⟨[]⟩
  bells : Tab Bell := ⟨[]⟩
  caps : Tab (List Stamp) := ⟨[]⟩
  pps : Tab PpsOut := ⟨[]⟩
  /-- Domains whose replica is not SYNC (R25). -/
  lost : List Nat := []
  nextPlan : Nat := 0
deriving DecidableEq, Repr, Inhabited

/-- Privilege levels (R66): STATUS.PRIV 0b11, 0b01, 0b00. -/
inductive Level where
  | keeper | steward | worker
deriving DecidableEq, Repr, Inhabited

/-- Whether a core issues sheaves: held in reset, running, without work after a done, waiting for its done to reach the
Reeve (with the done's variant), or HALTED (R81, R198). -/
inductive CoreRun where
  | held | running | idle | doneSent (variant : Nat) | halted
deriving DecidableEq, Repr, Inhabited

/-- A complex accumulator (R60). -/
structure Accu where
  re : BitVec 40 := 0
  im : BitVec 40 := 0
deriving DecidableEq, Repr, Inhabited

inductive AccessKind where
  | load | store | maint | fence
deriving DecidableEq, Repr, Inhabited

/-- An access of a core that its target has not answered yet (R86, R92), or a fence that orders such accesses (R93):
core address, bus address, size in bytes, destination or data, and the position of its syllable. -/
structure Access where
  kind : AccessKind := .fence
  addr : Nat := 0
  bus : Nat := 0
  size : Nat := 0
  signExt : Bool := false
  file : RegSet := .g
  reg : Nat := 0
  data : Nat := 0
  mark : Bool := false
  slot : Nat := 0
  device : Bool := false
  cached : Bool := false
  release : Bool := false
  mask : Nat := 0
  inTrap : Bool := false
  /-- Place in the core's issue order. -/
  seq : Nat := 0
deriving DecidableEq, Repr, Inhabited

/-- A translation a Hall core holds (R88, R89): page, size in bits, ASID, permissions, memory type, MOD. -/
structure TlbEntry where
  page : Nat
  bits : Nat
  asid : Nat
  global : Bool
  phys : Nat
  memtype : Nat
  workerRwx : Nat
  stewardRwx : Nat
  modified : Bool
deriving DecidableEq, Repr, Inhabited

/-- A core (R60, R61): program counter, level and interrupt enables, registers with their poison tags, control registers
by number, unanswered accesses in issue order, load errors not yet taken, and pending interrupt codes. On Horty-D f
registers lie in v. -/
structure Core where
  run : CoreRun := .held
  pc : Nat := 0
  level : Level := .keeper
  ie : Bool := false
  tce : Bool := false
  g : Tab DWord := ⟨[]⟩
  gt : Tab Bool := ⟨[]⟩
  p : Tab (BitVec 128) := ⟨[]⟩
  pt : Tab Bool := ⟨[]⟩
  a : Tab Accu := ⟨[]⟩
  aT : Tab Bool := ⟨[]⟩
  v : Tab (BitVec 1024) := ⟨[]⟩
  vt : Tab (BitVec 16) := ⟨[]⟩
  f : Tab DWord := ⟨[]⟩
  ft : Tab Bool := ⟨[]⟩
  ctrl : Tab DWord := ⟨[]⟩
  acc : List Access := []
  errs : List Access := []
  irqs : List Nat := []
  /-- POSTED_ERR (R86). -/
  postedErr : BitVec 32 := 0
  tlb : List TlbEntry := []
  /-- Steeple time of the release, from which CYCLE counts. -/
  since : Nat := 0
  /-- Halted by the debug unit (R627), and the next sheaf is a STEP. -/
  dbgHalt : Bool := false
  dbgStep : Bool := false
  /-- The next sheaf issues although a breakpoint matches: it follows a RESUME or is a STEP. -/
  dbgPass : Bool := false
  /-- Accesses issued so far. -/
  seq : Nat := 0
deriving DecidableEq, Repr, Inhabited

/-- A Quern job (R172 to R175): the issuing physical core, operation, format, core addresses and exponents of X, Y and Z,
and what is decided when it has computed (`result` is none until it has read its operands). -/
structure QuernJob where
  core : Nat
  op : Nat
  fmt : Nat
  x : Nat
  y : Nat
  z : Nat
  /-- Posted stores of the issuing core that the job's reads must follow (R173). -/
  after : List Access := []
  result : Option (List PWord) := none
  status : Nat := 0
  singular : Bool := false
  sat : Bool := false
  nonfinite : Bool := false
  index : Nat := 0
  exp : Nat := 0
deriving DecidableEq, Repr, Inhabited

/-- The Quern of a hamlet: its lock's owner (logical core, item slot or none) and its jobs, the running one first (R168,
R173). -/
structure Quern where
  owner : Option (Nat × Option Nat) := none
  jobs : List QuernJob := []
deriving DecidableEq, Repr, Inhabited

/-- An item descriptor as the Reeve reads it at acceptance (R184); `succs` are the valid successor entries, the
extension's last. -/
structure ItemDesc where
  target : Nat := 0
  cls : Nat := 0
  hard : Bool := false
  tol : Bool := false
  preemptor : Bool := false
  pinned : Bool := false
  report : Bool := false
  reportQ : Nat := 0
  deps : Nat := 0
  deadline : Nat := 0
  hamletMask : Nat := 0
  unitMask : Nat := 0
  userTag : Nat := 0
  entry : Nat := 0
  args : List Nat := []
  succs : List Nat := []
  evWait : Bool := false
  evAny : Bool := false
  evConsume : Bool := false
  evGroup : Nat := 0
  evMask : DWord := 0
  evSet : Bool := false
  setGroup : Nat := 0
  setFlag : Nat := 0
  /-- OP of a Kiln item's job as it was read at acceptance (R223). -/
  kilnOp : Nat := 0
deriving DecidableEq, Repr, Inhabited

/-- Item states (R193). -/
inductive ItemState where
  | shadow | waiting | ready | running | preempted | killing | ending
deriving DecidableEq, Repr, Inhabited

/-- Where a running item is: on a logical core of a hamlet, or on an engine of a workshop (0 Kiln, 1 Wheel, 2 Mill). -/
inductive Place where
  | core (h c : Nat)
  | engine (w e : Nat)
deriving DecidableEq, Repr, Inhabited

/-- An item in its slot (R181, R193): the plan it belongs to and its window and batch position, or a loose item; its
count; the lapse tokens it received; its place in the order of arrivals in READY; its decided outcome; and whether its
report is posted and its end path has been reached. -/
structure Item where
  d : ItemDesc := {}
  window : Option (Nat × Nat × Nat) := none
  plan : Nat := 0
  name : Nat := 0
  state : ItemState := .waiting
  count : Nat := 0
  tainted : Bool := false
  lapses : Nat := 0
  ltags : List Nat := []
  arrival : Nat := 0
  readyTick : Int := 0
  place : Option Place := none
  outcome : Option ItemEnd := none
  late : Bool := false
  abortLate : Bool := false
  abortSeen : Bool := false
  reason : Nat := 0
  killAt : Option Nat := none
  reported : Bool := false
  released : Bool := false
deriving DecidableEq, Repr, Inhabited

/-- States of a core at the Reeve, as REEVE_CORE_STATE codes them (R219). -/
inductive CoreSt where
  | offline | idle | running | preempting | killing | lapseOverrun | halted
deriving DecidableEq, Repr, Inhabited

/-- A logical core at the Reeve: its state, current item, PREEMPTED items, the preemptor reserved for it and whether the
core has taken PREEMPT, OVR_DONE, and the time from which its current item counts in CORE_BUSY with the Reeve cycles
counted before. -/
structure ReeveCore where
  st : CoreSt := .offline
  cur : Option Nat := none
  held : List Nat := []
  reserved : Option Nat := none
  taken : Bool := false
  ovrDone : Bool := false
  from_ : Nat := 0
  busy : Nat := 0
deriving DecidableEq, Repr, Inhabited

/-- A decrement or lapse token on its way to the Reeve (R190), with the lapse record it brings (R200). -/
structure Token where
  name : Nat
  lapse : Bool
  tag : Nat
deriving DecidableEq, Repr, Inhabited

/-- An end status on its way from an engine to the Reeve (R208). -/
structure WsEnd where
  slot : Nat
  status : ItemEnd
  abortLate : Bool
deriving DecidableEq, Repr, Inhabited

/-- A submit port (R188, R214): the outcome decided and not yet placed, the placed untaken outcome, the last taken one,
and the number of outcomes placed. -/
structure SubmitPort where
  coming : Option Nat := none
  placed : Option Nat := none
  taken : Option Nat := none
  seq : Nat := 0
deriving DecidableEq, Repr, Inhabited

/-- A report queue (R213, R214): unread reports oldest first, the last taken one, the number of reports placed, and the
slots of ended items that wait for a place, in the order of their outcomes. -/
structure ReportQueue where
  unread : List Nat := []
  taken : Option Nat := none
  seq : Nat := 0
  waiting : List Nat := []
deriving DecidableEq, Repr, Inhabited

/-- The Reeve beyond its registers: items by slot, generations, committed batches whose names still refer (group, tag,
count), the logical cores by 9h + c, tokens and end statuses under way, ports and queues, and the order of arrivals. -/
structure Reeve where
  items : Tab (Option Item) := ⟨[]⟩
  gens : Tab Nat := ⟨[]⟩
  batches : List (Nat × Nat × Nat) := []
  cores : Tab ReeveCore := ⟨[]⟩
  tokens : List Token := []
  wsEnds : List WsEnd := []
  ports : Tab SubmitPort := ⟨[]⟩
  queues : Tab ReportQueue := ⟨[]⟩
  arrivals : Nat := 0
  /-- Aborts forwarded to engines and not yet decided there: item slots (R210). -/
  wsAborts : List Nat := []
deriving DecidableEq, Repr, Inhabited

/-- A job of a workshop engine (R208, R224, R256), staged or running: the item's slot, the descriptor's address and words, the
OP read at acceptance, the group table of a Mill job, and its progress: units worked, HARQ write-backs (R238) or units written in full (R259), whether
every output has been acknowledged, the outcome decided before that with its ERROR, and what its result record will hold. -/
structure WsJob where
  slot : Nat := 0
  addr : Nat := 0
  accept : Nat := 0
  words : List Nat := []
  table : List Nat := []
  seq : Nat := 0
  started : Bool := false
  /-- It waits for an earlier job of its handle (R239). -/
  waiting : Bool := false
  done : Nat := 0
  wb : Nat := 0
  outs : Bool := false
  decided : Option ItemEnd := none
  error : Nat := 0
  abortLate : Bool := false
  poisoned : Bool := false
  crc : Nat := 0
  crcMark : Bool := false
  /-- The bits of the last output byte of an encoder that the next code block completes. -/
  carry : Nat := 0
  iters : Nat := 0
  pass : Nat := 0
  sat : Bool := false
  nonfinite : Bool := false
  satCount : Nat := 0
  exps : Option (Int × Int) := none
  peak : Option (Nat × Nat) := none
  peakMark : Bool := false
  sums : List Nat := []
  sumMark : Bool := false
  /-- The reference of a CORR job, read once (R274), and whether it was poisoned. -/
  ref : List (Nat × Nat) := []
  refMark : Bool := false
  singular : Bool := false
  firstSing : Nat := 0
  singCount : Nat := 0
deriving DecidableEq, Repr, Inhabited

/-- A HARQ handle (R236): FREE (0), HELD (1) or CLOSING (2), and its region in 4 KiB pages of the area. -/
structure Handle where
  st : Nat := 0
  base : Nat := 0
  len : Nat := 0
deriving DecidableEq, Repr, Inhabited

/-- The workshops: each engine's jobs, the running one first, by workshop × 16 + engine (0 Kiln, 1 Wheel, 2 Mill); how
many jobs have been staged; the HARQ handles. -/
structure Workshops where
  jobs : Tab (List WsJob) := ⟨[]⟩
  staged : Nat := 0
  handles : Tab Handle := ⟨[]⟩
deriving DecidableEq, Repr, Inhabited

/-- A fade toward bank `bank` over 2^log2 outputs (R304): the instant (units of 2^-16 ns) at or after which it begins, and
the output it has reached once it has begun. -/
structure Fade where
  bank : Nat
  log2 : Nat
  start : Int
  j : Option Nat := none
deriving DecidableEq, Repr, Inhabited

/-- A burst of a DOWN channel (R310): its first low-rate index counted from the first frame boundary, its samples, the
integer delay that places it, and whether its write has begun and been answered with an error. -/
structure SvBurst where
  k0 : Nat
  data : List (Int × Int × Bool)
  int : Nat
  started : Bool := false
  failed : Bool := false
deriving DecidableEq, Repr, Inhabited

/-- A Sieve channel beyond its registers (R290 to R315). Indices count from the first frame boundary `f0` (ns). `hist` holds
the inputs of stages 1 to 5, newest first, `fir` and `frh` those of the FIR and the interpolator; `plast` is the last
poisoned input index; `mark` the Bell edge already marked; `ncoPend` marks to come into effect; `missed` the notify groups
with a burst not started. -/
structure SieveCh where
  startNs : Int := 0
  f0 : Int := 0
  stopNs : Int := 0
  next : Nat := 0
  inGap : Bool := false
  hist : List (List (Int × Int)) := []
  fir : List (Int × Int) := []
  frh : List (Int × Int) := []
  ncoBase : Nat := 0
  ncoPend : List Nat := []
  mark : Option Int := none
  plast : Option Nat := none
  guard : Bool := true
  leave : Bool := false
  gcount : Nat := 0
  active : Nat := 0
  fade : Option Fade := none
  pend : Option (Nat × Nat) := none
  int : Nat := 0
  frac : Nat := 0
  dpend : Option Int := none
  buf : List (Int × Int × Bool) := []
  bursts : List SvBurst := []
  missed : List Nat := []
deriving DecidableEq, Repr, Inhabited

/-- Samples that an UP channel has handed to the stream port it names (R292, R314): kind, port, channel, SFN and index of
the first sample. -/
structure SvOut where
  kind : Nat
  port : Nat
  ch : Nat
  sfn : Nat
  index : Nat
  data : List Sample
deriving DecidableEq, Repr, Inhabited

/-- The Sieve. -/
structure Sieve where
  chans : Tab SieveCh := ⟨[]⟩
  out : List SvOut := []
deriving DecidableEq, Repr, Inhabited

/-- Protected memory (R343): the data bytes by storage address and the check byte of each word by its storage
address. A byte that nothing has written reads zero, the fill of R351. -/
structure Memory where
  data : Tab Byte := ⟨[]⟩
  check : Tab Byte := ⟨[]⟩
deriving DecidableEq, Repr, Inhabited

/-- One entry of the error log (R358). -/
structure LogEntry where
  kind : Nat
  mem : Nat
  inst : Nat
  syndrome : Nat
  mid : Nat
  addr : Nat
  count : Nat
  bit : Nat
  tick : Nat
deriving DecidableEq, Repr, Inhabited

/-- The Harrow's running test (R361). -/
structure Harrow where
  target : Nat := 0
  inst : Nat := 0
  preserve : Bool := false
  repair : Bool := false
  bg : Nat := 0
deriving DecidableEq, Repr, Inhabited

/-- A Gleaner agent (R366 to R368): its next region, and the saved codewords of a region it has borrowed, with whether
a pattern has been written over it. -/
structure Gleaner where
  next : Nat := 0
  lastStart : Option Nat := none
  borrowed : Bool := false
  region : Nat := 0
  saved : List (DWord × Byte) := []
  wrote : Bool := false
deriving DecidableEq, Repr, Inhabited

/-- A run-time repair: the array bank it lies in and the row (R364). -/
structure Repair where
  array : HarrowArray
  inst : Nat
  phys : Nat
  bank : Nat
  row : Nat
deriving DecidableEq, Repr, Inhabited

/-- A held buffer of a pool: its index and the (lock group, window tag) it is stamped with (R339). -/
structure HeldBuf where
  index : Nat
  stamp : Option (Nat × Nat) := none
deriving DecidableEq, Repr, Inhabited

/-- A buffer pool (R336 to R341): the free list, head first, the held buffers, and each buffer's generation. -/
structure Pool where
  free : List Nat := []
  held : List HeldBuf := []
  gens : Tab Nat := ⟨[]⟩
deriving DecidableEq, Repr, Inhabited

/-- The state in which a Granary bank's move ends (R328). -/
inductive BankMove where
  | none | toRetention | toOff | toOnKept | toOnFilled
deriving DecidableEq, Repr, Inhabited

/-- A line of a Hall core's L1 data cache (R96, R348): eight stored codewords and whether it is dirty. -/
structure CacheLine where
  valid : Bool := false
  dirty : Bool := false
  words : List (DWord × Byte) := []
deriving DecidableEq, Repr, Inhabited

/-- Memory, its testers and the Granary's pools. -/
structure MemSys where
  mem : Memory := ⟨⟨[]⟩, ⟨[]⟩⟩
  log : List LogEntry := []
  harrow : Harrow := ⟨0, 0, false, false, 0⟩
  gleaners : Tab Gleaner := ⟨[]⟩
  repairs : List Repair := []
  pools : Tab Pool := ⟨[]⟩
  moves : Tab BankMove := ⟨[]⟩
  /-- Hamlets whose memories are closed: not yet filled, or a checker failed (R352, R356). -/
  hamletClosed : Tab Bool := ⟨[]⟩
  /-- FAIL_CORES of each hamlet's last test (R588). -/
  failCores : Tab Nat := ⟨[]⟩
  /-- Lines of the Hall cores' L1 data caches, by core × 2^40 + line address. -/
  lines : Tab CacheLine := ⟨[]⟩
deriving DecidableEq, Repr, Inhabited

/-- Where a packet is: in the input buffer of a router's port, or in the buffer toward a local port since an instant. -/
inductive PktAt where
  | input (r p : Nat)
  | port (r l : Nat) (since : Nat)
deriving DecidableEq, Repr, Inhabited

/-- A packet in the Commons (R373, R374): its number, head fields, the remaining hop codes, its heading, its flits, and
where it is. -/
structure Packet where
  id : Nat
  op : Nat
  vn : Nat
  src : Nat
  dest : Nat
  tag : Nat
  mid : Nat
  addr : Nat
  lines : Nat
  epoch : Nat
  base : Nat
  inj : Nat
  deadline : Option Nat
  window : Option (Nat × Nat)
  status : Nat
  cause : Nat
  heading : Nat
  codes : List Nat
  place : PktAt
  w7 : Nat := 0
  data : List PWord := []
deriving DecidableEq, Repr, Inhabited

/-- A request that its attach router has ejected and whose answer has not left the port (R387). -/
structure Ejected where
  pkt : Packet
  tick : Nat
deriving DecidableEq, Repr, Inhabited

/-- A request that its source NI has injected and whose answer has not arrived (R375, R392). -/
structure OutReq where
  src : Nat
  tag : Nat
  dest : Nat
  vn : Nat
  window : Option (Nat × Nat)
deriving DecidableEq, Repr, Inhabited

/-- A staged route entry (R380). -/
structure StagedRoute where
  src : Nat
  dest : Nat
  a : Nat
  b : Nat
deriving DecidableEq, Repr, Inhabited

/-- The Commons beyond its registers: packets, ejected and outstanding requests, route changes whose older requests hold
new packets (R376), staged entries, the virtual network (Q or S) served last at each output (R382), arrivals and events of
barriers, trace records of probes, DEAD ports that are being closed, and the epoch E of each DISABLE. -/
structure Commons where
  count : Nat := 0
  flight : List Packet := []
  ejected : List Ejected := []
  outs : List OutReq := []
  holds : List (Nat × Nat × Nat) := []
  staged : List StagedRoute := []
  last : Tab Nat := ⟨[]⟩
  arrivals : Tab (List Nat) := ⟨[]⟩
  /-- Barrier events at the interrupt controllers of the units behind NIs: (NI, barrier). -/
  events : List (Nat × Nat) := []
  traces : Tab (List (List Nat)) := ⟨[]⟩
  wasDead : List Nat := []
  disableE : Tab Nat := ⟨[]⟩
deriving DecidableEq, Repr, Inhabited

/-- A slice of a ledger: tokens issued and taken back at one place (R656). -/
structure Slice where
  issued : DWord := 0
  returned : DWord := 0
deriving DecidableEq, Repr, Inhabited

/-- What a ledger has lost: UNRECONCILED and BOUND (R401, R402). -/
structure LedgerFlags where
  unreconciled : Bool := false
  bound : Bool := false
deriving DecidableEq, Repr, Inhabited

/-- One record of a snapshot as it was captured (R409). -/
structure LedgerRecord where
  id : Nat
  issued : DWord
  returned : DWord
  flags : LedgerFlags
  transit : DWord
deriving DecidableEq, Repr, Inhabited

/-- The Tally beyond its registers: slices by LEDGER_ID × 64 + place (a power domain, or 48 for the always-on part),
the ledgers' flags, the sequence, an armed or captured snapshot, and a running peek. -/
structure Tally where
  slices : Tab Slice := ⟨[]⟩
  flags : Tab LedgerFlags := ⟨[]⟩
  seq : Nat := 0
  parish : Bool := false
  snap : List LedgerRecord := []
  /-- The ledger of a running peek and the instant of its capture. -/
  peek : Option (Nat × Nat) := none
  /-- A member's snapshot is written to member 0 at this address (R411). -/
  remote : Option Nat := none
  /-- The tick of the capture. -/
  capTick : Nat := 0
  /-- The address of the buffer as the arm found it, in units of 64 bytes (R407, R409). -/
  capAddr : Nat := 0
deriving DecidableEq, Repr, Inhabited

/-- A planned list (R419): its head, the plan's group, window tag and sweep instant. -/
structure CarterPlan where
  space : Bool
  head : Nat
  group : Nat
  wtag : Nat
  sweepNs : Int
deriving DecidableEq, Repr, Inhabited

/-- A descriptor that has been fetched and has not ended (R415, R422): its bus address and words, whether it passed R416,
the next row and offset, the bursts outstanding (source, destination, bytes), the bytes moved, and what is decided. -/
structure CarterDesc where
  addr : Nat
  words : List Nat
  good : Bool
  row : Nat := 0
  off : Nat := 0
  out : List (Nat × Nat × Nat) := []
  moved : Nat := 0
  decided : Option Nat := none
  poison : Bool := false
deriving DecidableEq, Repr, Inhabited

/-- A Carter channel beyond its registers: the planned list, the window of a windowed run, the fetch to come (SPACE,
address), the descriptor, flags of the run, how it will end (END, FETCH), a halt to come, and its results. -/
structure CarterCh where
  plan : Option CarterPlan := none
  win : Option CarterPlan := none
  fetch : Option (Bool × Nat) := none
  desc : Option CarterDesc := none
  anyBad : Bool := false
  anyLapsed : Bool := false
  anyPoisoned : Bool := false
  /-- A sweep (1) or a STOP (2) has decided that the run ends. -/
  ending : Option Nat := none
  halt : Option (Nat × Bool) := none
  final : Option (Nat × Bool) := none
  abortLate : Bool := false
  placed : Option Nat := none
  taken : Option Nat := none
  seq : Nat := 0
deriving DecidableEq, Repr, Inhabited

/-- The Carters: channels by global number, and the channel served last by Carter (0 Granary, 1 + h) × 2 + PRIO (R420). -/
structure Carters where
  chans : Tab CarterCh := ⟨[]⟩
  last : Tab (Option Nat) := ⟨[]⟩
deriving DecidableEq, Repr, Inhabited

/-- The receiver of a lane beyond its registers (R436 to R441, R454): consecutive valid sync headers, the last 64 headers
(newest first, true where invalid), blocks since the last marker position, positions missed, the last marker's LANE and
LINK_ID, the parity of the payloads since, the last 58 payload bits for the descrambler, and the PRBS checker's run of
error-free bits and last 64 bits. -/
structure LaneRx where
  run : Nat := 0
  hist : List Bool := []
  since : Nat := 0
  missed : Nat := 0
  seen : Bool := false
  lane : Nat := 0
  linkId : Nat := 0
  bip : Nat := 0
  scr : BitVec 58 := 0
  prun : Nat := 0
  phist : List Bool := []
deriving DecidableEq, Repr, Inhabited

/-- A link beyond its registers: whether the last marker on link lane 0 satisfies UP, consecutive markers there with
RX_ALIGNED = 0, the largest skew of the present alignment, the instant from which SILENT counts, flits to be discarded since
the link left UP, the next COUNT, departures (COUNT, stamp) newest first, the last partner marker received, and the TIME
blocks of this period. -/
structure EwlLink where
  good : Bool := false
  low : Nat := 0
  skew : Nat := 0
  from_ : Nat := 0
  down : Bool := false
  count : Nat := 0
  sent : List (Nat × Nat) := []
  rcv : Option (Nat × Nat) := none
  t3 : Option (Nat × Nat) := none
  t2 : Option (Nat × Nat) := none
deriving DecidableEq, Repr, Inhabited

/-- A request that an Ewenual NI has forwarded: to member `member` over link `link` at an instant; `late` once it is
answered without the member's answer (R447). -/
structure EwlFwd where
  pkt : Packet
  member : Nat
  link : Nat
  tick : Nat
  late : Bool
deriving DecidableEq, Repr, Inhabited

/-- A request that arrived from a member and entered the Commons (R446): its NI and tag there, and its origin. -/
structure EwlRemote where
  ni : Nat
  tag : Nat
  origin : Nat
  src : Nat
  otag : Nat
deriving DecidableEq, Repr, Inhabited

/-- A packet that is arriving on a link: its head words, and its data so far. -/
structure EwlPart where
  head : List Nat
  data : List PWord
deriving DecidableEq, Repr, Inhabited

/-- A burst handed to the Sieve (R452). -/
structure StreamBurst where
  stream : Nat
  sfn : Nat
  index : Nat
  data : List Sample
deriving DecidableEq, Repr, Inhabited

/-- Lanes and Ewenual Link: lanes, links, flits to send and credits by link × 4 + virtual network, arriving packets,
forwarded requests, requests of members, the instant of each member's last answer, bursts handed to the Sieve. -/
structure Ewenual where
  lanes : Tab LaneRx := ⟨[]⟩
  links : Tab EwlLink := ⟨[]⟩
  tx : Tab (List EwlFlit) := ⟨[]⟩
  credits : Tab Nat := ⟨[]⟩
  rx : Tab (Option EwlPart) := ⟨[]⟩
  fwd : List EwlFwd := []
  remote : List EwlRemote := []
  lastAns : Tab (Option Nat) := ⟨[]⟩
  bursts : List StreamBurst := []
deriving DecidableEq, Repr, Inhabited

/-- An ingress entry of part 1 (R466): PLACE or POOL_IN. -/
structure MktIn where
  port : Nat
  msg : Nat
  eaxc : Nat
  place : Bool
  depth : Nat
  stride : Nat
  addr : Nat
  prbs : Nat
  udh : Bool
  iqw : Nat
  meth : Nat
  pool : Nat
  queue : Nat
  notify : Bool
  nset : Nat
deriving DecidableEq, Repr, Inhabited

/-- A NOTIFY entry (R466, R470); `sent` once its token has left. -/
structure MktNotify where
  nset : Nat
  sym : Nat
  expect : Nat
  index : Nat
  deadline : Nat
  sent : Bool := false
deriving DecidableEq, Repr, Inhabited

/-- An EGRESS entry (R466, R476, R477): its window is open, its doorbell has come, and it is over (sent or withheld). -/
structure MktOut where
  port : Nat
  tc : Nat
  doorbell : Bool
  release : Bool
  len : Nat
  src : Nat
  open_ : Nat
  close : Nat
  token : Nat
  index : Nat
  opened : Bool := false
  rung : Bool := false
  done : Bool := false
deriving DecidableEq, Repr, Inhabited

/-- Part 1 of a plan in effect for a slot of group `g` (R467), with the counters of its notify sets by nset × 16 + symbol. -/
structure MktPlan where
  g : Nat
  slot : Int
  wtag : Nat
  sweepNs : Int
  ins : List MktIn
  notes : List MktNotify
  outs : List MktOut
  counts : Tab Nat := ⟨[]⟩
deriving DecidableEq, Repr, Inhabited

/-- A frame in the buffer: its cells, the copies still to leave, and its class where it is switched or host traffic (R461). -/
structure MktBuf where
  cells : Nat
  copies : Nat
  tc : Option Nat
deriving DecidableEq, Repr, Inhabited

/-- A frame to be sent: bytes from the destination address up to the FCS with the marks of its cell words, its buffer, the
ingress port and receive time (2^-16 ns) of a switched frame, the token to release, the requests of a host
descriptor, and how long ago a cut-through frame began. -/
structure TxFrame where
  tc : Nat
  bytes : List (Nat × Bool)
  buf : Nat
  rx : Option (Nat × Int) := none
  token : Option Nat := none
  oneStep : Bool := false
  capture : Bool := false
  tag : Nat := 0
  stomp : Bool := false
  early : Nat := 0
  win : Option (Nat × Nat) := none
deriving DecidableEq, Repr, Inhabited

/-- The frame that a port is sending: its bytes with FCS, its packet number where MACsec protects it, its end in units of
2^-16 / 25 ns, and what its departure frees. -/
structure TxNow where
  out : List Nat
  pn : Option Nat
  ends : Nat
  buf : Nat
  token : Option Nat
  win : Option (Nat × Nat)
deriving DecidableEq, Repr, Inhabited

/-- A landing whose writes are outstanding (R470, R471): its buffer, port, window, the units it will count (notify set,
symbol, units), writes answered with an error, and the token and queue of a whole frame. -/
structure Landing where
  buf : Nat
  port : Nat
  win : Option (Nat × Nat)
  counts : List (Nat × Nat × Nat)
  errs : Nat
  pool : Option (Nat × Nat)
deriving DecidableEq, Repr, Inhabited

/-- MACsec of a port (R483 to R485): whether it is enabled, the installed associations (secure channel × 4 + AN, 0 transmit)
with their keys, the transmit association in use, its next PN, and the counters: TX_PN_EXHAUST, and drops by reason (0 no
SecTAG, then 1 + 3 × channel + reason). -/
structure MacsecPort where
  on : Bool := false
  keys : Tab (List Nat) := ⟨[]⟩
  an : Nat := 0
  pn : Nat := 0
  exhaust : Nat := 0
  drops : Tab Nat := ⟨[]⟩
deriving DecidableEq, Repr, Inhabited

/-- A stream beyond its registers (R474, R475): NEXT_SEQ and NEXT_POS (none while the anchors stand), and its template. -/
structure MktStream where
  seq : Option Nat := none
  pos : Option (Nat × Nat) := none
  template : List Nat := []
deriving DecidableEq, Repr, Inhabited

/-- The Market. -/
structure Market where
  plans : List MktPlan := []
  bufs : Tab MktBuf := ⟨[]⟩
  nextBuf : Nat := 1
  queues : Tab (List TxFrame) := ⟨[]⟩
  now : Tab (Option TxNow) := ⟨[]⟩
  free : Tab Nat := ⟨[]⟩
  landings : List Landing := []
  pushes : List (Nat × Nat × Nat) := []
  lqFull : Tab Nat := ⟨[]⟩
  streams : Tab MktStream := ⟨[]⟩
  blocks : List StreamBurst := []
  txq : Tab (List Nat) := ⟨[]⟩
  caps : Tab (List (Nat × Nat × Nat × Nat)) := ⟨[]⟩
  sec : Tab MacsecPort := ⟨[]⟩
deriving DecidableEq, Repr, Inhabited

/-- An outbound read whose tag is in use (R506): its function, size, the instant it was sent, and whether it has been
answered already. -/
structure HostRead where
  fn : Nat
  n : Nat
  sent : Nat
  late : Bool
deriving DecidableEq, Repr, Inhabited

/-- The host interface beyond its registers: functions with Bus Master Enable, functions stopped by an FLR or a clearing of
VF Enable, VF Enable of PF1 and PF2, the instant of PF2's VF Enable, outbound reads, and the host's head index of each
completion queue (R498, R506, R508, R510, R511). -/
structure HostIf where
  master : List Nat := []
  stopped : List Nat := []
  vf1 : Bool := false
  vf2 : Bool := false
  vfAt : Nat := 0
  reads : List HostRead := []
  heads : Tab Nat := ⟨[]⟩
deriving DecidableEq, Repr, Inhabited

/-- The Coppice beyond its registers: the bytes of the running load's stream with their words' poison marks, the instant of
BEGIN or of the last write to the window, the written frames of configuration memory by stool × 768 + INDEX, and for each
stool the cycles of the user reset that it has been given (R521, R523, R527, R529). -/
structure Coppice where
  bytes : List (Nat × Bool) := []
  last : Nat := 0
  cfg : Tab (List Nat) := ⟨[]⟩
  userResets : Tab Nat := ⟨[]⟩
deriving DecidableEq, Repr, Inhabited

/-- A key slot (R545). -/
structure StrongKey where
  live : Bool := false
  gen : Nat := 0
  type : Nat := 0
  usage : Nat := 0
  bytes : List Nat := []
deriving DecidableEq, Repr, Inhabited

/-- A PDCP context: ciphering and integrity algorithm with key (R549). -/
structure PdcpCtx where
  cipher : Option (Nat × List Nat) := none
  integ : Option (Nat × List Nat) := none
deriving DecidableEq, Repr, Inhabited

/-- A command whose end is decided and whose result word is not yet written: STATUS, APPROVED, ERROR, OUT (R543). -/
structure StrongResult where
  status : Nat
  approved : Bool
  error : Nat
  out : Nat
deriving DecidableEq, Repr, Inhabited

/-- The Strongroom beyond its registers: key slots, PDCP contexts, decided commands by queue, the challenge with the instant
it was drawn, rejected responses, draws made from the DRBG, OTP bits blown since manufacture (REVOKE, ROLLBACK,
DUK_DESTROYED), what verified the running Hearth firmware (key slot, SEC_VERSION), whether the self-tests run by RESTART,
and a zeroization that has not completed. -/
structure Strongroom where
  keys : Tab StrongKey := ⟨[]⟩
  pdcp : Tab PdcpCtx := ⟨[]⟩
  ends : Tab (Option StrongResult) := ⟨[]⟩
  challenge : Option (List Nat × Nat) := none
  rejected : Nat := 0
  drbg : Nat := 0
  revoked : List Nat := []
  rollback : Nat := 0
  dukGone : Bool := false
  boot : Option (Nat × Nat) := none
  restarted : Bool := false
  zeroing : Bool := false
deriving DecidableEq, Repr, Inhabited

/-- Power-up and the Crier beyond registers (21). `t0` is the instant at which RESET_N rose, none while reset is held; `slot`
holds the header and SIG of a slot that the ROM has read and not verified; `tried` the reasons of the slots rejected;
`bad` the failed cores (hamlet, physical core); `version` and `entry` are those of the running Hearth image. `crierDue` is
the first Crier cause that has been decided and not yet entered (R568), with its DETAIL and the instant of its decision
unknown until entry; `crierAt` is the instant of entry. `line` is the instant of the last UART line, with `lines` sent; `ptr`
the byte pointer of the I²C target and `sda` whether it holds SDA low. -/
structure Boot where
  t0 : Option Nat := none
  fused : Bool := false
  tested : Bool := false
  filled : Bool := false
  lbist : Bool := false
  slot : Option (List Nat × List Nat) := none
  tried : List Nat := []
  bad : List (Nat × Nat) := []
  verified : Bool := false
  version : Nat := 0
  entry : Nat := 0
  crierDue : Option (Nat × Nat) := none
  crierAt : Option Nat := none
  line : Option Nat := none
  lines : Nat := 0
  ptr : Nat := 0
  sda : Bool := false
deriving DecidableEq, Repr, Inhabited

/-- Outputs that the chapters on boot and reset drive: CRIER_N and THERMTRIP_N low; lane transmitters at electrical idle with
the outputs of R569 held low. -/
structure Pins where
  crierLow : Bool := false
  thermLow : Bool := false
  quiet : Bool := false
deriving DecidableEq, Repr, Inhabited

/-- Hamlets: which physical core stands behind each aperture (R582), which hamlets have been released since their last
power-up (R588), and the takeover that runs (R581). -/
structure Hamlets where
  coreMap : Tab (Option Nat) := ⟨[]⟩
  released : List Nat := []
  takeover : Tab (Option (Nat × Bool)) := ⟨[]⟩
deriving DecidableEq, Repr, Inhabited

/-- Power, resets and throttling beyond registers (23): the thermal and the power level of R613; a thermal trip is held; a
timed reset is parish-wide; the OFF requests held by R604 come from these masters, by domain. -/
structure Power where
  thermal : Nat := 0
  power : Nat := 0
  tripped : Bool := false
  parish : Bool := false
  holder : Tab Nat := ⟨[]⟩
deriving DecidableEq, Repr, Inhabited

/-- An event of the Hearth event queue (R622): source, event code, priority, DETAIL, DETAIL2. -/
structure HearthEvent where
  source : Nat
  event : Nat
  high : Bool
  detail : Nat
  detail2 : Nat
deriving DecidableEq, Repr, Inhabited

/-- The JTAG TAP (R624, R625): the instruction, the boundary register with what it drives, high impedance, the register
last shifted out, and DBG_ACCESS: BUSY, DONE, STATUS, data, and the access under way (write, address, data). -/
structure JtagTap where
  ir : Nat := 2
  boundary : Nat := 0
  driven : Option Nat := none
  hiz : Bool := false
  tdo : Nat := 0
  busy : Bool := false
  done : Bool := false
  status : Nat := 0
  data : Nat := 0
  access : Option (Bool × Nat × Nat) := none
deriving DecidableEq, Repr, Inhabited

/-- Observability beyond registers. `raised` are events, with their ticks, that hardware has decided and HEARTH_EVENT_ENTRY
enters into the Hearth event queue `queue`; `lost` counts by source the records that its buffer has lost since its last
exported record (R620). -/
structure Debug where
  /-- Records of the Reeve event tap, oldest first (R618). -/
  tap : List (List Nat) := []
  raised : List (HearthEvent × Nat) := []
  queue : List (List Nat) := []
  lost : Tab Nat := ⟨[]⟩
  jtag : JtagTap := {}
deriving DecidableEq, Repr, Inhabited

structure State where
  /-- commands that wait, first in first out. -/
  pending : List Instr := []
  /-- every memory-mapped register (R632). -/
  regs : RegFile := ⟨⟨[]⟩⟩
  /-- the answer to the last request (R375). -/
  ans : Answer := ⟨.ok, 0, []⟩
  /-- interrupts pending at the Hall interrupt controller. -/
  hallIrq : List HallIrq := []
  /-- host interrupt sources with an interrupt to send (R507). -/
  hostIrq : List Nat := []
  /-- what the device has sent to the outside, oldest first. -/
  sent : List Sent := []
  /-- the model's own counter for free values (not the spec's). -/
  free : Nat := 0
  /-- the Steeple, lock groups and Bells (02). -/
  stp : Steeple := {}
  /-- the cores (03 to 05): 144 hamlet cores by physical number 9h + p, 16 Hall cores, the Hearth pair. -/
  cores : Tab Core := ⟨[]⟩
  /-- the Querns by hamlet (06). -/
  querns : Tab Quern := ⟨[]⟩
  /-- the Reeve (07). -/
  reeve : Reeve := {}
  /-- the workshops' engines and the HARQ handles (08, 09). -/
  ws : Workshops := {}
  /-- the Sieve (10). -/
  sv : Sieve := {}
  /-- memory, testers, pools (11, 12). -/
  ms : MemSys := {}
  /-- the Commons (13). -/
  net : Commons := {}
  /-- the Tally's ledgers (14). -/
  tally : Tally := {}
  /-- the Carters (15). -/
  crt : Carters := {}
  /-- Lanes and Ewenual Link (16). -/
  ewl : Ewenual := {}
  /-- Market Ethernet switch (17). -/
  mkt : Market := {}
  /-- PCIe host interface (18). -/
  host : HostIf := {}
  /-- Coppice fabric (19). -/
  cop : Coppice := {}
  /-- Strongroom (20). -/
  strong : Strongroom := {}
  /-- power-up and the Crier (21). -/
  boot : Boot := {}
  /-- outputs of boot, Crier and thermal trip (21, 23). -/
  pins : Pins := {}
  /-- core identities and release of the hamlets (21, 22). -/
  hml : Hamlets := {}
  /-- power, resets and throttling (23). -/
  pwr : Power := {}
  /-- observability and debug (24). -/
  dbg : Debug := {}
deriving DecidableEq, Repr

/-- Stops of a command that the model cannot carry out. -/
inductive Fault where
  /-- Raised by PACKET_INJECT for a packet whose head breaks the forms of R373 and R375 (an OP on the wrong virtual
  network, a length or a tag beyond its field): no such packet exists on the device. Safe. -/
  | illFormed (what : String)
deriving DecidableEq, Repr

/-- Commands without a meaning. -/
inductive Refusal where
  /-- Raised by an arm of `exec` whose command is not modelled yet. Safe. -/
  | notModelled (mnemonic : String)
deriving DecidableEq, Repr

/-- The machine right after reset: no command waits, every register holds its reset value (the register file lists
only departures from them), memory holds the zero codeword everywhere (R351). -/
def State.reset : State := {}

end Sys2Proof.Machine
end

