-- ==== Sys2Proof/Machine/Ops.lean ====
section
/-! DEFINITION. Machine/Ops.lean: the operations every block shares: fields of registers, the words a write carries, the
Steeple's time, answers and interrupts, and requests to protected memory.
Choices of the model: log entries 12 (DESIGN CHOICE), 13 (DEDUCED), 17 (DEDUCED). -/

namespace Sys2Proof.Machine

abbrev Outc := Host.Outcome State Fault Refusal

/-! ## Fields of registers -/

def State.rd (s : State) (f : Fld) : Nat := s.regs.rd f
def State.bit (s : State) (f : Fld) : Bool := decide (s.regs.rd f ≠ 0)
def State.wr (s : State) (f : Fld) (v : Nat) : State := { s with regs := s.regs.wr f v }
def State.wrB (s : State) (f : Fld) (b : Bool) : State := s.wr f (if b then 1 else 0)
/-- A wrapping counter counts `n`. -/
def State.add (s : State) (f : Fld) (n : Nat) : State := s.wr f (s.rd f + n)
def State.inc (s : State) (f : Fld) : State := s.add f 1
def State.dec (s : State) (f : Fld) : State := s.wr f (s.rd f - 1)
/-- A saturating counter counts `n`. -/
def State.addSat (s : State) (f : Fld) (n : Nat) : State := s.wr f (min (s.rd f + n) (2 ^ f.w - 1))
def State.incSat (s : State) (f : Fld) : State := s.addSat f 1

/-- Bits `[lo + w - 1 : lo]` of a written word. -/
def bitsOf (v : Word) (lo w : Nat) : Nat := v.toNat / 2 ^ lo % 2 ^ w
def bitOf (v : Word) (i : Nat) : Bool := v.getLsbD i
/-- The bits of the written word that field `f` covers. -/
def Fld.of (f : Fld) (v : Word) : Nat := bitsOf v f.lo f.w
/-- Bits of a number. -/
def nbits (v lo w : Nat) : Nat := v / 2 ^ lo % 2 ^ w
def nbit (v i : Nat) : Bool := decide (v / 2 ^ i % 2 = 1)

/-- Store the written bits of each listed field. -/
def State.wrWord (s : State) (v : Word) (fs : List Fld) : State := fs.foldl (fun t f => t.wr f (f.of v)) s

/-- Clear each listed bit that the written word has at 1 (type W1C). -/
def State.w1c (s : State) (v : Word) (fs : List Fld) : State :=
  fs.foldl (fun t f => t.wr f ((BitVec.ofNat f.w (t.rd f)) &&& ~~~(BitVec.ofNat f.w (f.of v))).toNat) s

/-- A value taken as two's complement of `w` bits. -/
def sext (w v : Nat) : Int := if v % 2 ^ w < 2 ^ (w - 1) then (v % 2 ^ w : Nat) else (v % 2 ^ w : Nat) - (2 ^ w : Nat)
/-- The `w` low bits of a signed value. -/
def trunc (w : Nat) (x : Int) : Nat := (x % (2 ^ w : Nat)).toNat

/-! ## Time (R20 to R22) -/

def tickMod : Nat := 4294967296

/-- The tick of an instant in ns (R21). -/
def tickOfNs (t : Int) : Nat := ((t / 4) % (tickMod : Int)).toNat
/-- Steeple time in whole ns. -/
def State.nowNs (s : State) : Int := ((s.stp.now / 65536 : Nat) : Int)
/-- The steeple tick. -/
def State.tick (s : State) : Nat := s.stp.now / 262144 % tickMod
/-- Tick `a` is before tick `b` (R22). -/
def tickBefore (a b : Nat) : Bool :=
  let d := (b + (tickMod - a % tickMod)) % tickMod
  decide (1 ≤ d) && decide (d ≤ 2147483647)
/-- Deadline `d` has passed at tick `t` (R45). -/
def passed (t d : Nat) : Bool := !tickBefore t d
/-- Ticks from `t` to the tick value `d` by the wrapping count. -/
def leadTicks (t d : Nat) : Nat := (d + (tickMod - t % tickMod)) % tickMod
/-- An instant in ns has been reached. -/
def State.reached (s : State) (t : Int) : Bool := decide (t ≤ s.nowNs)
/-- The instant, in ticks counted from the epoch without wrapping, that a tick value names within half the range of now. -/
def State.absTick (s : State) (d : Nat) : Int :=
  let l := leadTicks s.tick d
  ((s.stp.now / 262144 : Nat) : Int) + (if l < 2147483648 then (l : Int) else (l : Int) - (tickMod : Int))

/-- The half-range limit of R23: 2^28 ticks. -/
def maxLead : Nat := 268435456

/-! ## Answers, interrupts, what leaves the device -/

def State.reply (s : State) (a : Answer) : State := { s with ans := a }
def State.ack (s : State) : State := s.reply ⟨.ok, 0, []⟩
/-- ABORTED with ERR_CAUSE 7 REFUSED (R385). -/
def State.refusedAns (s : State) : State := s.reply ⟨.aborted, 7, []⟩
def State.irq (s : State) (src : HallSrc) (i : Nat) : State :=
  { s with hallIrq := if s.hallIrq.contains ⟨src, i⟩ then s.hallIrq else s.hallIrq ++ [⟨src, i⟩] }
def State.irqIf (s : State) (c : Bool) (src : HallSrc) (i : Nat) : State := if c then s.irq src i else s
/-- A host interrupt source has an interrupt to send (R507). -/
def State.irqHost (s : State) (i : Nat) : State :=
  { s with hostIrq := if s.hostIrq.contains i then s.hostIrq else s.hostIrq ++ [i] }
def State.send (s : State) (m : Sent) : State := { s with sent := s.sent ++ [m] }

/-- A record of trace source `k` is discarded or overwritten (R620). -/
def State.loseRecord (s : State) (k : Nat) : State := { s with dbg := { s.dbg with lost := s.dbg.lost.modify k (· + 1) } }

/-- The next free value: the model's own counter, applied to an opaque function of Config by the caller. -/
def State.fresh (s : State) : Nat × State := (s.free, { s with free := s.free + 1 })

/-! ## The code of protected memory (R343 to R345) -/

/-- Columns of data bits 0 to 63 (R343). -/
def columns : List Nat :=
  [0x07, 0x0B, 0x0D, 0x0E, 0x13, 0x15, 0x16, 0x19, 0x1A, 0x1C, 0x23, 0x25, 0x26, 0x29, 0x2A, 0x2C,
   0x31, 0x32, 0x34, 0x38, 0x43, 0x45, 0x46, 0x49, 0x4A, 0x4C, 0x51, 0x52, 0x54, 0x58, 0x61, 0x62] ++
  [0x64, 0x68, 0x70, 0x83, 0x85, 0x86, 0x89, 0x8A, 0x8C, 0x91, 0x92, 0x94, 0x98, 0xA1, 0xA2, 0xA4,
   0xA8, 0xB0, 0xC1, 0xC2, 0xC4, 0xC8, 0xD0, 0xE0, 0x1F, 0x2F, 0x37, 0x3B, 0x3D, 0x3E, 0x4F, 0x57]

def checkFrom (d : DWord) : Nat → List Nat → Byte
  | _, [] => 0
  | i, c :: r => (if d.getLsbD i then BitVec.ofNat 8 c else 0) ^^^ checkFrom d (i + 1) r

/-- The check byte C(d) of R343. -/
def checkByte (d : DWord) : Byte := checkFrom d 0 columns

inductive EccOut where
  | clean | corrected (pos : Nat) | poison | uncorrectable
deriving DecidableEq, Repr, Inhabited

/-- The position whose column is `c`: data bits first, then check bits (R345). -/
def columnPos (c : Nat) : Option Nat :=
  match columns.findIdx? (fun x => x == c) with
  | some i => some i
  | none => if c = 1 then some 64 else if c = 2 then some 65 else if c = 4 then some 66 else if c = 8 then some 67
    else if c = 16 then some 68 else if c = 32 then some 69 else if c = 64 then some 70 else if c = 128 then some 71 else none

def syndrome (d : DWord) (c : Byte) : Byte := c ^^^ checkByte d

/-- The outcome of a read (R345). -/
def eccOutcome (d : DWord) (c : Byte) : EccOut :=
  let y := (syndrome d c).toNat
  if y = 0 then .clean else if y = 0xFE then .poison
  else match columnPos y with
    | some p => .corrected p
    | none => .uncorrectable

def flipBit (d : DWord) (p : Nat) : DWord := if p < 64 then d ^^^ ((1 : DWord) <<< p) else d

/-- The data a read delivers (R345). -/
def eccData (d : DWord) (c : Byte) : PWord :=
  match eccOutcome d c with
  | .clean => ⟨d, false⟩
  | .corrected p => ⟨flipBit d p, false⟩
  | .poison => ⟨d, true⟩
  | .uncorrectable => ⟨d, true⟩

/-- The check byte a word is stored with: clean, or the poison encoding (R344). -/
def encodeCheck (w : PWord) : Byte := if w.mark then checkByte w.data ^^^ 0xFE else checkByte w.data

/-! ## Storage -/

def byteAt (m : Memory) (a : Nat) : Byte := m.data.get a

def joinBytes : List Byte → Nat
  | [] => 0
  | b :: r => b.toNat + 256 * joinBytes r

/-- The stored data of the word at word-aligned address `a`, little-endian. -/
def Memory.rawData (m : Memory) (a : Nat) : DWord :=
  BitVec.ofNat 64 (joinBytes ((List.range 8).map (fun i => m.data.get (a + i))))

def Memory.rawCheck (m : Memory) (a : Nat) : Byte := m.check.get a

def setBytes (t : Tab Byte) (a : Nat) (d : DWord) : Nat → Tab Byte
  | 0 => t
  | n + 1 => (setBytes t a d n).set (a + n) (d.extractLsb' (8 * n) 8)

/-- Store a codeword as it stands. -/
def Memory.putRaw (m : Memory) (a : Nat) (d : DWord) (c : Byte) : Memory :=
  { data := setBytes m.data a d 8, check := m.check.set a c }

/-- Store a word with a fresh codeword (R349). -/
def Memory.put (m : Memory) (a : Nat) (w : PWord) : Memory := m.putRaw a w.data (encodeCheck w)

/-- What a word reads as, without counting (R345). -/
def Memory.word (m : Memory) (a : Nat) : PWord := eccData (m.rawData a) (m.rawCheck a)

/-- Fill an address range with the zero codeword (R351). -/
def Memory.fill (m : Memory) (a b : Nat) : Memory :=
  let inR := fun k => decide (a ≤ k) && decide (k < b)
  { data := m.data.clear inR, check := m.check.clear inR }

/-- The canonical form of both lists of cells. -/
def Memory.wf (m : Memory) : Bool := m.data.wf && m.check.wf

/-! ## Regions (R346, R630, R631) -/

def granaryEnd : Nat := 0x04000000
def cellarBase : Nat := 0x400000000
def cellarEnd : Nat := 0xC00000000
/-- Storage of the Hearth's private SRAM and of Coppice block RAM, beyond the 40-bit map. -/
def hearthBase : Nat := 0x10000000000
def hearthSize : Nat := 0x80000
def bramBase : Nat := 0x10010000000
def bramSize : Nat := 0x180000

inductive Region where
  | granary (bank : Nat)
  | barn (h : Nat)
  | plot (h p : Nat)
  | imem (h p : Nat)
  | cellar (stack pc : Nat)
  | hearth
  | bram (stool : Nat)
  | unmapped
  | gap
deriving DecidableEq, Repr, Inhabited

/-- The region of a storage address; plots and instruction memories are numbered by physical core. -/
def regionOf (a : Nat) : Region :=
  if a < granaryEnd then .granary (a / 0x100000)
  else if 0x10000000 ≤ a ∧ a < 0x20000000 then
    let h := (a - 0x10000000) / 0x01000000
    let o := a % 0x01000000
    if o < 0x200000 then .barn h
    else if 0x800000 ≤ o ∧ o < 0xC80000 then
      let p := (o - 0x800000) / 0x80000
      let q := (o - 0x800000) % 0x80000
      if q < 0x40000 then .plot h p else if q < 0x50000 then .imem h p else .unmapped
    else .unmapped
  else if cellarBase ≤ a ∧ a < cellarEnd then
    let o := a - cellarBase
    .cellar (o / 256 % 2) (o / 512 % 32)
  else if hearthBase ≤ a ∧ a < hearthBase + hearthSize then .hearth
  else if bramBase ≤ a ∧ a < bramBase + 16 * bramSize then .bram ((a - bramBase) / bramSize)
  else .gap

/-- MEM and INSTANCE of a region (R346). -/
def Region.ids : Region → Option (Nat × Nat)
  | .plot h p => some (0, 9 * h + p)
  | .imem h p => some (1, 9 * h + p)
  | .barn h => some (2, h)
  | .granary b => some (3, b)
  | .cellar st pc => some (4, 32 * st + pc)
  | .hearth => some (6, 0)
  | .bram st => some (7, 16 + st)
  | _ => none

/-- First address of the memory of physical core `p` of hamlet `h`: its plot data, then its two instruction halves. -/
def plotBase (h p : Nat) : Nat := 0x10800000 + h * 0x01000000 + p * 0x80000
def imemBase (h p half : Nat) : Nat := plotBase h p + 0x40000 + half * 0x8000
def barnBase (h : Nat) : Nat := 0x10000000 + h * 0x01000000

/-- The physical core behind plot aperture `c` of hamlet `h` (R83, R582). -/
def State.physOf (s : State) (h c : Nat) : Nat := (s.hml.coreMap.get (9 * h + c)).getD c

/-- The logical core (or 8) whose aperture reaches physical core `p`. -/
def State.logicalOf (s : State) (h p : Nat) : Nat := ((List.range 9).find? (fun c => s.physOf h c == p)).getD 8

/-- The storage address behind a bus address: an aperture reaches its physical core. -/
def State.storeAddr (s : State) (a : Nat) : Nat :=
  if 0x10000000 ≤ a ∧ a < 0x20000000 then
    let h := (a - 0x10000000) / 0x01000000
    let o := a % 0x01000000
    if 0x800000 ≤ o ∧ o < 0xC80000 then plotBase h (s.physOf h ((o - 0x800000) / 0x80000)) + (o - 0x800000) % 0x80000 else a
  else a

/-- A hamlet's memories answer: its domain is on, filled, and not closed by a failed checker (R352, R356). -/
def State.hamletOpen (s : State) (h : Nat) : Bool := decide (s.rd (R.PWR_DOM_STATE h) = 0) && !s.ms.hamletClosed.get h

/-- Why a region does not answer now: the bank, hamlet or stack is closed (R329, R352), or there is no such address. -/
def State.regionRefuse (s : State) (r : Region) : Option Answer :=
  match r with
  | .granary b => if s.rd (R.GRANARY_BANK_PWR_STATE b) = 0 then none else some ⟨.domainClosed, 4, []⟩
  | .barn h => if s.hamletOpen h then none else some ⟨.domainClosed, 4, []⟩
  | .plot h _ => if s.hamletOpen h then none else some ⟨.domainClosed, 4, []⟩
  | .imem h _ => if s.hamletOpen h then none else some ⟨.domainClosed, 4, []⟩
  | .cellar st _ => if s.rd (R.PWR_DOM_STATE (45 + st)) = 0 then none else some ⟨.domainClosed, 4, []⟩
  | .hearth => none
  | .bram _ => none
  | .unmapped => some ⟨.aborted, 6, []⟩
  | .gap => some ⟨.deadTarget, 3, []⟩

/-! ## The error log (R357, R358) -/

def logHigh (k : Nat) : Bool := k == 1 || k == 2 || k == 8 || k == 9

def headOr (l : List LogEntry) : LogEntry := l.headD ⟨0, 0, 0, 0, 0, 0, 0, 0, 0⟩

def LogEntry.w0 (e : LogEntry) : Nat := e.kind * 2^28 + e.mem * 2^24 + e.inst * 2^16 + e.syndrome * 256 + e.mid
def LogEntry.w1 (e : LogEntry) : Nat := e.addr % 2^32
def LogEntry.w2 (e : LogEntry) : Nat := e.count * 2^16 + e.bit * 256 + e.addr / 2^32 % 256

/-- The head registers and LEVEL show the log (R360). -/
def State.showLog (s : State) (l : List LogEntry) : State :=
  let e := headOr l
  ((((({ s with ms := { s.ms with log := l } }).wr (R.ECCLOG_HEAD 0) (if l = [] then 0 else e.w0)).wr (R.ECCLOG_HEAD 1)
    (if l = [] then 0 else e.w1)).wr (R.ECCLOG_HEAD 2) (if l = [] then 0 else e.w2)).wr (R.ECCLOG_HEAD 3) (if l = [] then 0 else e.tick)).wr
    R.ECCLOG_STATUS_LEVEL l.length

/-- Enter an event as an entry of its own, or drop it by priority (R358). A high-priority entry is also an event of the
Hearth queue (R622). -/
def State.enterLog (s : State) (e : LogEntry) : State :=
  if logHigh e.kind then
    if s.ms.log.length < 512 then
      let t := (s.showLog (s.ms.log ++ [e])).irqIf (s.bit R.ECCLOG_CTRL_IRQ_EN) .eccHigh 0
      { t with dbg := { t.dbg with raised := t.dbg.raised ++ [(⟨6, 1, true, e.w0, e.w1⟩, s.tick)] } }
    else s.incSat R.ECCLOG_STATUS_HIGH_DROPPED
  else if s.ms.log.length < 448 then s.showLog (s.ms.log ++ [e])
  else s.incSat R.ECCLOG_STATUS_LOW_DROPPED

/-- An event of the error log: merged into the newest entry where kind, memory and address agree, else entered (R358). -/
def State.logEvent (s : State) (e : LogEntry) : State :=
  match s.ms.log.getLast? with
  | some n =>
    if n.kind = e.kind ∧ n.mem = e.mem ∧ n.inst = e.inst ∧ n.addr = e.addr then
      s.showLog (s.ms.log.dropLast ++ [{ n with count := min (n.count + 1) 65535 }])
    else s.enterLog e
  | none => s.enterLog e

def State.logAt (s : State) (kind : Nat) (ids : Nat × Nat) (syn mid addr bit : Nat) : State :=
  s.logEvent ⟨kind, ids.1, ids.2, syn, mid, addr / 8 * 8, 1, bit, s.tick⟩

/-! ## Reads and writes of protected memory (R347 to R350) -/

/-- Count and log a read of a stored codeword by its outcome (R347). -/
def State.countRead (s : State) (ids : Nat × Nat) (mid : Mid) (addr : Nat) (d : DWord) (c : Byte) (ueKind : Nat) : State :=
  match eccOutcome d c with
  | .clean => s
  | .corrected p => (s.inc (R.ECC_CE ids.1 ids.2)).logAt 0 ids (syndrome d c).toNat mid.toNat addr p
  | .poison => s.inc (R.ECC_POISON_READ ids.1 ids.2)
  | .uncorrectable => (s.inc (R.ECC_UE ids.1 ids.2)).logAt ueKind ids (syndrome d c).toNat mid.toNat addr 255

/-- Read one stored word at storage address `a` (word-aligned): the data delivered, and the state with its counts. -/
def State.readWord (s : State) (mid : Mid) (a : Nat) : PWord × State :=
  let d := s.ms.mem.rawData a
  let c := s.ms.mem.rawCheck a
  match (regionOf a).ids with
  | some ids => (eccData d c, s.countRead ids mid a d c 1)
  | none => (eccData d c, s)

/-- Read `n` words, first word first. -/
def State.readWords (s : State) (mid : Mid) : Nat → Nat → List PWord × State
  | _, 0 => ([], s)
  | a, n + 1 =>
    let x := s.readWord mid a
    let y := State.readWords x.2 mid (a + 8) n
    (x.1 :: y.1, y.2)

def State.setMem (s : State) (m : Memory) : State := { s with ms := { s.ms with mem := m } }

/-- Write whole words with fresh codewords (R349). -/
def State.writeWords (s : State) : Nat → List PWord → State
  | _, [] => s
  | a, w :: r => State.writeWords (s.setMem (s.ms.mem.put a w)) (a + 8) r

/-- Merge enabled bytes into a word. -/
def mergeBytes (old new : DWord) (en : Byte) : DWord :=
  (List.range 8).foldl (fun acc i =>
    if en.getLsbD i then
      (acc &&& ~~~((255 : DWord) <<< (8 * i))) ||| (new &&& ((255 : DWord) <<< (8 * i)))
    else acc) old

/-- A narrow write by read-modify-write (R350). -/
def State.rmwWord (s : State) (mid : Mid) (a : Nat) (en : Byte) (new : DWord) (mark : Bool) : State :=
  let d := s.ms.mem.rawData a
  let c := s.ms.mem.rawCheck a
  let old := eccData d c
  let t := match (regionOf a).ids with
    | some ids => s.countRead ids mid a d c 2
    | none => s
  t.setMem (t.ms.mem.put a ⟨mergeBytes old.data new en, old.mark || mark⟩)

/-- Write bytes `bs` from byte address `a` with mark `m`: whole words by R349, partial words by R350. -/
def State.writeBytes (s : State) (mid : Mid) (m : Bool) : Nat → List Byte → State
  | _, [] => s
  | a, b :: r =>
    State.writeBytes (s.rmwWord mid (a / 8 * 8) (BitVec.ofNat 8 (2 ^ (a % 8))) (BitVec.ofNat 64 (b.toNat * 2 ^ (8 * (a % 8)))) m) mid m (a + 1) r

/-- The 32-bit word at a word-aligned 4-byte address of a list of 64-bit words that starts at its first word. -/
def word32 (ws : List PWord) (i : Nat) : Word :=
  let d := (ws.getD (i / 2) default).data
  if i % 2 = 0 then d.extractLsb' 0 32 else d.extractLsb' 32 32

def anyMark (ws : List PWord) : Bool := ws.any (·.mark)

/-- Two 32-bit words as one 64-bit word. -/
def pair32 (lo hi : Nat) : DWord := BitVec.ofNat 64 (lo % 2 ^ 32 + hi % 2 ^ 32 * 2 ^ 32)

/-- A read of the Granary by a block of the device that must see every word: the words, or an error answer, which counts
where a bank is closed (R329). -/
def State.granaryRead (s : State) (mid : Mid) (a n : Nat) : Option (List PWord) × State :=
  if a + 8 * n ≤ granaryEnd ∧ (List.range n).all (fun i => s.regionRefuse (regionOf (a + 8 * i)) = none) then
    let x := s.readWords mid a n
    (some x.1, x.2)
  else (none, if a + 8 * n ≤ granaryEnd then s.inc R.GRANARY_CLOSED_ACCESS else s)

end Sys2Proof.Machine
end

