-- ==== Sys2Proof/Machine/Ledger.lean ====
section
/-! DEFINITION. Machine/Ledger.lean: the Tally's ledgers as every block uses them: issuing and returning tokens, the
bound, and the fault that ends a ledger's reconciliation (R400 to R403, R656).
Choices of the model: log entries 16 (DESIGN CHOICE). -/

namespace Sys2Proof.Machine

/-- LEDGER_ID of kind `k`, index `i` (R400). -/
def ledgerId (k i : Nat) : Nat := k * 256 + i

/-- A ledger is present: its INDEX names a present resource (R400). -/
def ledgerPresent (id : Nat) : Bool :=
  let i := id % 256
  match id / 256 with
  | 0 => decide (i < 4)
  | 1 => niPresent i
  | 2 => niPresent i
  | 3 => decide (i = 0)
  | 4 => decide (i < 128)
  | 5 => decide (i = 0)
  | 6 => decide (i = 0)
  | 7 => decide (i < 192)
  | 8 => decide (i = 0)
  | _ => false

/-- Every present ledger, in increasing LEDGER_ID order. -/
def allLedgers : List Nat := (List.range 2304).filter ledgerPresent

/-- CAPACITY (R400). -/
def State.ledgerCap (s : State) (id : Nat) : Nat :=
  let i := id % 256
  match id / 256 with
  | 0 => if i = 0 then 4016 else if i = 1 then 4016 else if i = 2 then 8032 else 2008
  | 1 => 64
  | 2 => 32
  | 3 => 65536
  | 4 => if s.bit (R.GRANARY_POOL_STATUS_ENABLED i) then s.rd (R.GRANARY_POOL_COUNT_COUNT i) else 0
  | 5 => 4096
  | 8 => 16384
  | _ => 4294967295

/-- The always-on place of a slice (R603, R656). -/
def alwaysOn : Nat := 48

def sliceKey (id place : Nat) : Nat := id * 64 + place

/-- A ledger is the sum of its slices (R656). -/
def State.ledgerIssued (s : State) (id : Nat) : DWord :=
  s.tally.slices.entries.foldl (fun n e => if e.1 / 64 = id then n + e.2.issued else n) 0
def State.ledgerReturned (s : State) (id : Nat) : DWord :=
  s.tally.slices.entries.foldl (fun n e => if e.1 / 64 = id then n + e.2.returned else n) 0
/-- OUTSTANDING (R401). -/
def State.ledgerOut (s : State) (id : Nat) : DWord := s.ledgerIssued id - s.ledgerReturned id

/-- An event that hardware enters into the Hearth queue (R622). -/
def State.raise (s : State) (e : HearthEvent) : State := { s with dbg := { s.dbg with raised := s.dbg.raised ++ [(e, s.tick)] } }

/-- A ledger becomes UNRECONCILED, once, and raises TALLY_FAULT; a pool's ledger takes its pool with it (R402, R341). -/
def State.ledgerFault (s : State) (id : Nat) : State :=
  if (s.tally.flags.get id).unreconciled then s
  else
    let t := { s with tally := { s.tally with flags := s.tally.flags.modify id (fun f => { f with unreconciled := true }) } }
    let u := (((t.wr R.TALLY_STATUS_FAULT 1).wr R.TALLY_FAULT_LAST_ID id).inc R.TALLY_FAULT_COUNT_COUNT).raise ⟨1, 1, true, id, 0⟩
    let v := u.irqIf (u.bit R.TALLY_CTRL_IRQ_FAULT) .tallyFault 0
    if id / 256 = 4 then v.wr (R.GRANARY_POOL_STATUS_FAULT (id % 256)) 1 else v

/-- A ledger past its CAPACITY sets BOUND and becomes UNRECONCILED (R401). -/
def State.ledgerCheck (s : State) (id : Nat) : State :=
  if s.ledgerCap id < (s.ledgerOut id).toNat then
    State.ledgerFault { s with tally := { s.tally with flags := s.tally.flags.modify id (fun f => { f with bound := true }) } } id
  else s

/-- Count tokens issued and returned at the slice of ledger `id` at `place`. -/
def State.ledgerAt (s : State) (id place issued returned : Nat) : State :=
  State.ledgerCheck { s with tally := { s.tally with
    slices := s.tally.slices.modify (sliceKey id place)
      (fun x => ⟨x.issued + BitVec.ofNat 64 issued, x.returned + BitVec.ofNat 64 returned⟩) } } id

/-- The place where KIND 1 and 2 tokens are counted, and those of every other kind but decrements (R656). -/
def ledgerPlace (id : Nat) : Nat :=
  let i := id % 256
  match id / 256 with
  | 3 => 39
  | 5 => 33
  | 7 => if i < 64 then 44 else (i - 64) / 8
  | 8 => 34
  | _ => alwaysOn

def State.ledgerCount (s : State) (id issued returned : Nat) : State := s.ledgerAt id (ledgerPlace id) issued returned

/-- A decrement or lapse token leaves its source: an item (the Reeve's slice) or an NI (R656). -/
def State.decrIssue (s : State) (byReeve : Bool) : State := s.ledgerAt (ledgerId 6 0) (if byReeve then 33 else alwaysOn) 1 0
/-- The Reeve applies or drops a token. -/
def State.decrReturn (s : State) : State := s.ledgerAt (ledgerId 6 0) 33 0 1
/-- A router absorbs a token, which counts as applied (R386, R387). -/
def State.decrAbsorb (s : State) : State := s.ledgerAt (ledgerId 6 0) alwaysOn 0 1

/-- Fold every slice of domain `d` into the Tally's own slice and clear it (R403). -/
def State.foldSlices (s : State) (d : Nat) : State :=
  s.tally.slices.entries.foldl (fun t e =>
    if e.1 % 64 = d ∧ d < alwaysOn then
      { t with tally := { t.tally with
        slices := ((t.tally.slices.modify (e.1 / 64 * 64 + alwaysOn)
          (fun x => ⟨x.issued + e.2.issued, x.returned + e.2.returned⟩)).set e.1 default) } }
    else t) s

end Sys2Proof.Machine
end

