-- ==== Sys2Proof/Machine/Commons.lean ====
section
/-! DEFINITION. Machine/Commons.lean: the network on chip: routes, packets, answers, dead and closed ports, barriers and
probes (chapter 13).
Choices of the model: log entries 10 (DESIGN CHOICE), 42 (DEDUCED), 43 (DEDUCED), 44 (DEDUCED), 45 (DEDUCED), 46
(DESIGN CHOICE), 50 (PRESUMED), 51 (DEDUCED). -/

namespace Sys2Proof.Machine

/-! ## Addresses to NIs (R370, R371, R630 to R632) -/

/-- The NI of hamlet `h`. -/
def hamletNi (h : Nat) : Nat := 4 * ([9, 10, 11, 12, 13, 14, 17, 18, 41, 42, 43, 44, 45, 46, 49, 50].getD h 0) + 1
def hallNis : List Nat := [77, 81, 213, 217]
def coppiceNi (s : Nat) : Nat := [149, 153, 205, 209].getD (s / 4) 149
def isCoppiceNi (n : Nat) : Bool := n == 149 || n == 153 || n == 205 || n == 209
/-- The stool whose region holds address `a` of the Coppice window (R515). -/
def stoolOf (a : Nat) : Nat := (a - 0x80000000) / 0x04000000 % 16
/-- The NI that serves register block `k` (R632). -/
def blockNi (k : Nat) : Option Nat :=
  if k < 19 then some ([9, 9, 13, 5, 17, 21, 3, 0, 1, 25, 85, 101, 109, 113, 89, 141, 117, 149, 77].getD k 0)
  else if 32 ≤ k ∧ k < 48 then some (hamletNi (k - 32)) else none

/-- The destination NI of address `a` inside the device, for a request of master `mid` (R371). -/
def localNi (a : Nat) (mid : Mid) : Option Nat :=
  if a < granaryEnd then some (4 * (a / 0x100000))
  else if 0x10000000 ≤ a ∧ a < 0x20000000 then some (hamletNi ((a - 0x10000000) / 0x01000000))
  else if 0x40000000 ≤ a ∧ a < 0x80000000 then blockNi ((a - 0x40000000) / 0x01000000)
  else if 0x80000000 ≤ a ∧ a < 0xC0000000 then some (coppiceNi ((a - 0x80000000) / 0x04000000))
  else if cellarBase ≤ a ∧ a < cellarEnd then
    let o := a - cellarBase
    some (4 * (8 * (o / 512 % 32 / 4) + 7 * (o / 256 % 2)) + 1 + mid.toNat % 2)
  else if 0x1000000000 ≤ a ∧ a < 0x2000000000 then some 5
  else none

/-- Entry `d` of EWL_ROUTE: the link, where VALID = 1. -/
def State.ewlRoute (s : State) (d : Nat) : Option Nat :=
  let e := nbits (s.rd R.EWL_ROUTE) (4 * d) 4
  if 8 ≤ e then some (e % 8) else none

/-- The destination NI of a request (R371): parish windows by R18 and R446. -/
def State.destNi (s : State) (a : Nat) (mid : Mid) : Option Nat :=
  if 0x2000000000 ≤ a ∧ a < 0xA000000000 then
    let d := a / 0x1000000000 - 2
    if s.bit R.EWL_PARISH_IN_PARISH ∧ s.rd R.EWL_PARISH_MEMBER = d then localNi (a % 0x1000000000) mid
    else match s.ewlRoute d with
      | some k => if s.bit (R.EWL_STATUS_SILENT k) ∨ ¬ s.bit R.EWL_PARISH_IN_PARISH then none else some (if k < 3 then 141 else 145)
      | none => none
  else localNi a mid

/-! ## Routes (R378, R379) -/

/-- The heading after hop code `c`: straight on, left (N W S E), right (N E S W). -/
def turn (h c : Nat) : Nat := if c = 1 then (h + 3) % 4 else if c = 2 then (h + 1) % 4 else h

/-- The router one hop from `r` toward heading `h`, if the mesh goes on. -/
def hop (r h : Nat) : Option Nat :=
  if !portPresent r h then none
  else some (if h = 0 then r - 8 else if h = 1 then r + 1 else if h = 2 then r + 8 else r - 1)

/-- The hop codes of an entry with HOPS `n`. -/
def hopCodes (n codes : Nat) : List Nat := (List.range n).map (fun k => codes / 4 ^ k % 4)

/-- The walk that leaves router `r` with heading `h` and meets codes `cs`: the ports (router, port) it leaves through, the
headings of its hops, and the router it ends at; none outside the mesh. -/
def walkFrom : Nat → Nat → List Nat → Option (List (Nat × Nat) × List Nat × Nat)
  | r, _, [] => some ([], [], r)
  | r, h, c :: cs =>
    match hop r h with
    | none => none
    | some r2 =>
      if c = 3 then some ([(r, h)], [h], r2)
      else (walkFrom r2 (turn h c) cs).map (fun x => ((r, h) :: x.1, h :: x.2.1, x.2.2))

/-- An entry as the tables hold it. -/
structure RouteEntry where
  valid : Bool
  closed : Bool
  first : Nat
  hops : Nat
  codes : Nat
deriving DecidableEq, Repr, Inhabited

def routeOf (a b : Nat) : RouteEntry := ⟨nbit a 31, nbit a 30, nbits a 28 2, nbits a 23 5, b % 2 ^ 32⟩

def State.route (s : State) (n d : Nat) : RouteEntry :=
  ⟨s.bit (R.COMMONS_NI_ROUTE_A_VALID n d), s.bit (R.COMMONS_NI_ROUTE_A_CLOSED n d), s.rd (R.COMMONS_NI_ROUTE_A_FIRST n d),
    s.rd (R.COMMONS_NI_ROUTE_A_HOPS n d), s.rd (R.COMMONS_NI_ROUTE_B_CODES n d)⟩

/-- Ports that the entry's walk uses: mesh ports it leaves through and the local port it ejects at (R397). -/
def RouteEntry.ports (e : RouteEntry) (n d : Nat) : List (Nat × Nat) :=
  if !e.valid then []
  else match walkFrom (n / 4) e.first (hopCodes e.hops e.codes) with
    | some (l, _, r) => l ++ [(r, 4 + d % 4)]
    | none => []

/-- West-first: W only on hops before the first hop of another heading (R379). -/
def westFirst (hs : List Nat) : Bool := !((hs.dropWhile (fun h => h == 3)).contains 3)

def State.portSt (s : State) (r p : Nat) : Nat := s.rd (R.COMMONS_RTR_PORT_STATUS_STATE r p)

/-- A master of hamlet h reaches its own hamlet's memories without the Commons. -/
def ownPort (n : Nat) (mid : Mid) : Bool :=
  (decide (mid.toNat < 0x90) && n == hamletNi (mid.toNat / 9)) || (decide (0x90 ≤ mid.toNat) && decide (mid.toNat < 0xA0) && n == hamletNi (mid.toNat - 0x90))

/-- What answers a request of `mid` to bus address `a` in place of its target: the attach router of a DEAD, CLOSING or CLOSED
port (R385, R387, R390). -/
def State.portRefuse (s : State) (mid : Mid) (a : Nat) : Option Answer :=
  match localNi a mid with
  | none => none
  | some n =>
    let st := s.portSt (n / 4) (4 + n % 4)
    if ownPort n mid then none
    else if st = 5 then some ⟨.deadTarget, 2, []⟩
    else if st = 3 ∨ st = 4 then some ⟨.domainClosed, 4, []⟩ else none

/-- Rules 1 and 2 of R379. -/
def RouteEntry.codeOk (e : RouteEntry) (n d : Nat) : Bool :=
  if n / 4 = d / 4 then e.hops == 0 && e.first == 0 && e.codes == 0
  else
    decide (1 ≤ e.hops) && decide (e.hops ≤ 16) && (hopCodes e.hops e.codes).getLast? == some 3 &&
      !((hopCodes e.hops e.codes).dropLast.contains 3) && decide (e.codes / 4 ^ e.hops = 0)

/-- The cause of the first failing rule of R379, if one fails. -/
def State.routeFault (s : State) (n d : Nat) (e : RouteEntry) : Option Nat :=
  if !e.valid then none
  else if !e.codeOk n d then some 4
  else match walkFrom (n / 4) e.first (hopCodes e.hops e.codes) with
    | none => some 1
    | some (l, hs, r) =>
      if r ≠ d / 4 ∨ ¬ niPresent d then some 2
      else if !westFirst hs then some 3
      else if (l ++ [(r, 4 + d % 4)]).any (fun x => s.portSt x.1 x.2 == 1 || s.portSt x.1 x.2 == 2) then some 5
      else none

/-! ## Route tables by epoch (R376, R380, R381) -/

def State.setNet (s : State) (f : Commons → Commons) : State := { s with net := f s.net }

def State.useAdd (s : State) (l : List (Nat × Nat)) : State := l.foldl (fun t x => t.inc (R.COMMONS_RTR_PORT_STATUS_USE_COUNT x.1 x.2)) s
def State.useSub (s : State) (l : List (Nat × Nat)) : State := l.foldl (fun t x => t.dec (R.COMMONS_RTR_PORT_STATUS_USE_COUNT x.1 x.2)) s

/-- HOLDING reads 1 while a changed route holds packets (R376). -/
def State.showHold (s : State) (n : Nat) : State := s.wrB (R.COMMONS_NI_STATUS_HOLDING n) (s.net.holds.any (fun h => h.1 == n))

/-- One entry takes effect; where its route differs, earlier requests to that NI hold new VN-Q and VN-S packets (R376). -/
def State.applyRoute (s : State) (x : StagedRoute) : State :=
  let old := s.route x.src x.dest
  let e := routeOf x.a x.b
  let t := (s.useSub (old.ports x.src x.dest)).useAdd (e.ports x.src x.dest)
  let u := ((((t.wrB (R.COMMONS_NI_ROUTE_A_VALID x.src x.dest) e.valid).wrB (R.COMMONS_NI_ROUTE_A_CLOSED x.src x.dest) e.closed).wr
    (R.COMMONS_NI_ROUTE_A_FIRST x.src x.dest) e.first).wr (R.COMMONS_NI_ROUTE_A_HOPS x.src x.dest) e.hops).wr
    (R.COMMONS_NI_ROUTE_B_CODES x.src x.dest) e.codes
  let same : Bool := old.valid == e.valid && old.first == e.first && old.hops == e.hops && old.codes == e.codes
  if same then u
  else
    let hs := ([0, 2].filter (fun vn => s.net.outs.any (fun o => o.src == x.src && o.dest == x.dest && o.vn == vn))).map (fun vn => (x.src, x.dest, vn))
    (u.setNet (fun c => { c with holds := c.holds.filter (fun h => !hs.contains h) ++ hs })).showHold x.src

/-- An epoch starts: its entries apply at once and the epoch number increments (R380). -/
def State.startEpoch (s : State) (l : List StagedRoute) : State :=
  (l.foldl State.applyRoute s).wr R.COMMONS_STATUS_EPOCH ((s.rd R.COMMONS_STATUS_EPOCH + 1) % 4)

/-- ROUTE_REJECTED with the cause and the failing entry, zero for causes 7 to 9 (R380). -/
def State.rejectRoute (s : State) (cause src dest : Nat) : State :=
  let z : Bool := decide (7 ≤ cause)
  ((((s.wr R.COMMONS_STATUS_ROUTE_REJECTED 1).wr R.COMMONS_REJECT_CAUSE cause).wr R.COMMONS_REJECT_SRC_NI (if z then 0 else src)).wr
    R.COMMONS_REJECT_DEST_NI (if z then 0 else dest))

/-- Packets of the epoch number to be taken are alive. -/
def State.epochBusy (s : State) : Bool := s.bit (R.COMMONS_EPOCH_LIVE ((s.rd R.COMMONS_STATUS_EPOCH + 1) % 4))

/-- Entries of part 3: four words each (R381). -/
def routesOf : List Word → List StagedRoute
  | a :: b :: c :: _ :: r => ⟨bitsOf a 24 8, bitsOf a 16 8, b.toNat, c.toNat⟩ :: routesOf r
  | _ => []

/-- The check of part 3 at arming: the cause and the entry it names, if it is rejected (R380). -/
def State.part3Fault (s : State) (count : Nat) (l : List StagedRoute) : Option (Nat × Nat × Nat) :=
  if s.bit R.COMMONS_STATUS_STAGED then some (7, 0, 0)
  else if s.bit R.COMMONS_STATUS_ARMED3 then some (8, 0, 0)
  else if 8192 < count then some (9, 0, 0)
  else
    l.findSome? (fun x =>
      if !niPresent x.src then some (2, x.src, x.dest)
      else match s.routeFault x.src x.dest (routeOf x.a x.b) with
        | some c => some (c, x.src, x.dest)
        | none => if s.epochBusy then some (6, x.src, x.dest) else none)

/-- ROUTE_ENTRY_STAGE: a write of one word stages the entry, whose other word is the staged one or else the current one
(R380). -/
def execRouteEntryStage (n d : Fin 256) (b : Bool) (v : Word) (s : State) : Outc :=
  let n := n.val
  let d := d.val
  if !niPresent n then .next (s.reply ⟨.aborted, 6, []⟩)
  else if s.bit R.COMMONS_STATUS_ARMED3 then .next (s.rejectRoute 8 0 0)
  else
    let e := s.route n d
    let cur : StagedRoute := (s.net.staged.find? (fun x => x.src == n && x.dest == d)).getD
      ⟨n, d, (if e.valid then 2 ^ 31 else 0) + (if e.closed then 2 ^ 30 else 0) + e.first * 2 ^ 28 + e.hops * 2 ^ 23, e.codes⟩
    let x : StagedRoute := if b then { cur with b := v.toNat } else { cur with a := v.toNat }
    match s.routeFault n d (routeOf x.a x.b) with
    | some c => .next (s.rejectRoute c n d)
    | none =>
      .next ((s.setNet (fun c => { c with staged := c.staged.filter (fun y => !(y.src == n && y.dest == d)) ++ [x] })).wr R.COMMONS_STATUS_STAGED 1)

/-- ROUTE_ADVANCE: the staged entries start an epoch, or the first is refused with EPOCH_LIVE (R380). -/
def execRouteAdvance (s : State) : Outc :=
  match s.net.staged with
  | [] => .next s
  | x :: _ =>
    if s.epochBusy then .next (s.rejectRoute 6 x.src x.dest)
    else .next (((s.startEpoch s.net.staged).setNet (fun c => { c with staged := [] })).wr R.COMMONS_STATUS_STAGED 0)

/-- ROUTE_DISCARD_STAGE (R397). -/
def execRouteDiscardStage (s : State) : Outc :=
  .next ((s.setNet (fun c => { c with staged := [] })).wr R.COMMONS_STATUS_STAGED 0)

/-! ## Packets (R373 to R377, R382, R383, R392) -/

/-- Buffer places per input port (R372), and link credits' VN as the Tally numbers it. -/
def vnBuf (vn : Nat) : Nat := if vn = 2 then 16 else if vn = 3 then 4 else 8
/-- Flits of a packet: a head, and data for a WRITE, an ATOMIC or a data answer (R373). -/
def Packet.flits (p : Packet) : Nat := 1 + (if p.op = 1 ∨ p.op = 2 ∨ p.op = 4 then p.lines else 0)
/-- Places that a packet takes in one buffer: its flits follow its head. -/
def Packet.places (p : Packet) : Nat := min p.flits (vnBuf p.vn)
def Packet.isReq (p : Packet) : Bool := decide (p.op ≤ 2)
def Packet.isAns (p : Packet) : Bool := p.op == 4 || p.op == 5 || p.op == 6

/-- Flits are sent on a link: each takes a credit; those beyond the buffer have passed on already (R392). -/
def State.creditSend (s : State) (p : Packet) : State := s.ledgerCount (ledgerId 0 p.vn) p.flits (p.flits - p.places)
/-- The packet leaves its buffer. -/
def State.creditBack (s : State) (p : Packet) : State := s.ledgerCount (ledgerId 0 p.vn) 0 p.places

/-- The buffer a packet stands in, and whether `n` more places fit there. -/
def sameBuf : PktAt → PktAt → Bool
  | .input r p, .input r2 p2 => r == r2 && p == p2
  | .port r l _, .port r2 l2 _ => r == r2 && l == l2
  | _, _ => false
def Commons.used (c : Commons) (b : PktAt) (vn : Nat) : Nat :=
  (c.flight.filter (fun p => sameBuf p.place b && p.vn == vn)).foldl (fun n p => n + p.places) 0
def Commons.fits (c : Commons) (b : PktAt) (p : Packet) : Bool := decide (c.used b p.vn + p.places ≤ vnBuf p.vn)

def Commons.packet (c : Commons) (k : Nat) : Option Packet := c.flight.find? (fun p => p.id == k)
def State.dropPacket (s : State) (k : Nat) : State := s.setNet (fun c => { c with flight := c.flight.filter (fun p => p.id != k) })
def State.movePacket (s : State) (p : Packet) : State :=
  s.setNet (fun c => { c with flight := c.flight.map (fun x => if x.id == p.id then p else x) })

/-- A packet has been ejected or absorbed: it is no longer alive in its epoch, and its buffer places are free (R392, R397). -/
def State.endPacket (s : State) (p : Packet) : State := ((s.dropPacket p.id).creditBack p).dec (R.COMMONS_EPOCH_LIVE p.epoch)

/-- A packet enters the Commons by the table of NI `n`; one that no valid route carries stands at its destination. -/
def State.enterPacket (s : State) (n : Nat) (p : Packet) : State :=
  let e := s.route n p.dest
  let ep := s.rd R.COMMONS_STATUS_EPOCH
  let q : Packet := { p with
    id := s.net.count, epoch := ep, inj := s.tick, heading := e.first, codes := hopCodes e.hops e.codes,
    place := if e.valid then .input (n / 4) (4 + n % 4) else .port (p.dest / 4) (p.dest % 4) s.stp.now }
  ((s.setNet (fun c => { c with count := c.count + 1, flight := c.flight ++ [q] })).inc (R.COMMONS_EPOCH_LIVE ep)).creditSend q

/-- A router answers a request with ANS_ERR through the table of its L0 NI (R385). -/
def State.routerAnswer (s : State) (r : Nat) (p : Packet) (status cause : Nat) : State :=
  if p.isReq then
    s.enterPacket (4 * r) { p with
    op := 6, vn := 1, src := 4 * r, dest := p.src, lines := 0, deadline := none, status := status, cause := cause, w7 := 0, data := [],
      base := s.rd (R.COMMONS_NI_CFG_BASE_URG_A (4 * r)) }
  else s

def statusOf (n : Nat) : AnsStatus :=
  if n = 0 then .ok else if n = 1 then .lapsed else if n = 2 then .poisoned else if n = 3 then .aborted else if n = 4 then .deadTarget else .domainClosed

/-- The source NI answers itself (R385). -/
def State.selfAnswer (s : State) (n : Nat) (a : Answer) : State := (s.inc (R.COMMONS_NI_SELF_ANSWERED n)).reply a

/-- KIND of the request slots of a virtual network, and its field of NI status (R392, R397). -/
def slotLedger (vn n : Nat) : Nat := ledgerId (if vn = 2 then 2 else 1) n
def outFld (vn n : Nat) : Fld := if vn = 2 then R.COMMONS_NI_STATUS_OUT_S n else R.COMMONS_NI_STATUS_OUT_Q n
def slotCap (vn : Nat) : Nat := if vn = 2 then 32 else 64

/-- A local port discards what its unit emits: it is DEAD, or is being closed from DEAD (R387, R390). -/
def State.portMute (s : State) (r p : Nat) : Bool :=
  s.portSt r p == 5 || (s.portSt r p == 3 && s.net.wasDead.contains (8 * r + p))

/-- BASE_URG by virtual network (R383). -/
def State.baseUrg (s : State) (n vn : Nat) : Nat :=
  if vn = 0 then s.rd (R.COMMONS_NI_CFG_BASE_URG_Q n) else if vn = 1 then s.rd (R.COMMONS_NI_CFG_BASE_URG_A n)
  else if vn = 2 then s.rd (R.COMMONS_NI_CFG_BASE_URG_S n) else s.rd (R.COMMONS_NI_CFG_BASE_URG_C n)

/-- The packet fits the forms of R373 and R375. -/
def packetFormed (q : PacketReq) : Bool :=
  decide (q.tag < 4096) && decide (q.op ≤ 12) && q.op != 3 && q.op != 7 && decide (q.lines ≤ 64) &&
    (if q.op ≤ 2 then (q.vn == 0 && q.lines == 1) || (q.vn == 2 && q.op != 2 && decide (1 ≤ q.lines) && decide (q.addr % 64 = 0) &&
        !(decide (cellarBase ≤ q.addr) && decide (q.addr < cellarEnd) && decide (256 < q.addr % 256 + 64 * q.lines)))
     else if q.op ≤ 6 then q.vn == 1 else q.vn == 3)

/-- PACKET_INJECT of a request (R376, R385, R386, R392): an NI without a free slot, or holding by R376, does not inject. -/
def State.injectRequest (s : State) (n : Nat) (q : PacketReq) : State :=
  match s.destNi q.addr q.mid with
  | none => s.selfAnswer n ⟨.deadTarget, 3, []⟩
  | some d =>
    let e := s.route n d
    if !e.valid then s.selfAnswer n ⟨.deadTarget, 3, []⟩
    else if e.closed then s.selfAnswer n ⟨.domainClosed, 4, []⟩
    else if q.deadline.any (fun t => passed s.tick t) then s.selfAnswer n ⟨.lapsed, 1, []⟩
    else if s.net.holds.contains (n, d, q.vn) ∨ slotCap q.vn ≤ s.rd (outFld q.vn n) ∨
        s.net.outs.any (fun o => o.src == n && o.tag == q.tag) then s
    else
      let p : Packet := {
    id := 0, op := q.op, vn := q.vn, src := n, dest := d, tag := q.tag, mid := q.mid.toNat, addr := q.addr, lines := q.lines,
        epoch := 0, base := s.baseUrg n q.vn, inj := 0, deadline := q.deadline, window := if q.deadline.isSome then q.window else none,
        status := 0, cause := 0, heading := 0, codes := [], place := .input 0 0, w7 := q.w7, data := q.data }
      if !s.net.fits (.input (n / 4) (4 + n % 4)) p then s
      else if s.portMute (n / 4) (4 + n % 4) then
        ((s.add (R.COMMONS_RTR_STALE (n / 4)) p.flits).ledgerCount (slotLedger q.vn n) 1 1).reply ⟨.deadTarget, 2, []⟩
      else
        let t := (s.inc (outFld q.vn n)).ledgerCount (slotLedger q.vn n) 1 0
        (t.setNet (fun c => { c with outs := c.outs ++ [⟨n, q.tag, d, q.vn, p.window⟩] })).enterPacket n p

/-- PACKET_INJECT: a request, a unit's answer to a request that was ejected to it (which copies the request's tag and
window), or a packet of VN-C. -/
def execPacketInject (ni : Fin 256) (q : PacketReq) (s : State) : Outc :=
  let n := ni.val
  if !packetFormed q then .fault (.illFormed "PACKET_INJECT")
  else if !niPresent n then .next s
  else if q.op ≤ 2 then .next (s.injectRequest n q)
  else
    let ej := s.net.ejected.find? (fun e => e.pkt.dest == n && e.pkt.src == q.dest && e.pkt.tag == q.tag)
    let win := if q.op ≤ 6 then (match ej with | some e => e.pkt.window | none => none) else none
    let p : Packet := {
    id := 0, op := q.op, vn := q.vn, src := n, dest := q.dest, tag := q.tag, mid := q.mid.toNat, addr := q.addr, lines := q.lines,
      epoch := 0, base := s.baseUrg n q.vn, inj := 0, deadline := if q.op ≤ 6 then none else q.deadline, window := win,
      status := q.status, cause := q.cause, heading := 0, codes := [], place := .input 0 0, w7 := q.w7, data := q.data }
    if s.portMute (n / 4) (4 + n % 4) then .next (s.add (R.COMMONS_RTR_STALE (n / 4)) p.flits)
    else if q.op ≤ 6 ∧ ej.isNone ∧ isCoppiceNi n then .next (s.inc (R.COPPICE_STOOL_LATE (stoolOf q.addr)))
    else if !s.net.fits (.input (n / 4) (4 + n % 4)) p then .next s
    else
      let t := if q.op ≤ 6 then s.setNet (fun c => { c with ejected := c.ejected.filter (fun e => !(e.pkt.dest == n && e.pkt.src == q.dest && e.pkt.tag == q.tag)) }) else s
      .next (t.enterPacket n p)

/-! ## Probes (R395, R396) -/

/-- The oldest record and the level of probe `k`; the exporter's probes read HEAD zero (R619). -/
def State.showProbe (s : State) (k : Nat) (l : List (List Nat)) : State :=
  let t := s.setNet (fun c => { c with traces := c.traces.set k l })
  let h := if s.bit R.TRACE_CFG_EN && nbit (s.rd R.TRACE_SRC_EN0) k then [] else l.headD []
  ((((t.wr (R.PROBE_HEAD k 0) (h.getD 0 0)).wr (R.PROBE_HEAD k 1) (h.getD 1 0)).wr (R.PROBE_HEAD k 2) (h.getD 2 0)).wr (R.PROBE_HEAD k 3) (h.getD 3 0)).wr
    (R.PROBE_LEVEL_LEVEL k) l.length

/-- URG at a router (R383). -/
def State.urg (s : State) (p : Packet) : Nat :=
  min 15 (p.base + (s.tick + (tickMod - p.inj % tickMod)) % tickMod / 2 ^ s.rd R.COMMONS_CTRL_AGE_SHIFT)

/-- Every enabled filter of probe `k` matches head `p` at input port `i` of router `r`. -/
def State.probeHits (s : State) (k r i : Nat) (p : Packet) : Bool :=
  s.bit (R.PROBE_CFG_EN k) && s.rd (R.PROBE_CFG_ROUTER k) == r && s.rd (R.PROBE_CFG_PORT k) == i &&
    (s.bit (R.PROBE_CFG_ALL_VN k) || s.rd (R.PROBE_CFG_VN k) == p.vn) &&
    (BitVec.ofNat 8 p.mid &&& BitVec.ofNat 8 (s.rd (R.PROBE_MID_MASK k))) == (BitVec.ofNat 8 (s.rd (R.PROBE_MID_VALUE k)) &&& BitVec.ofNat 8 (s.rd (R.PROBE_MID_MASK k))) &&
    (s.bit (R.PROBE_CFG_OP_ANY k) || s.rd (R.PROBE_CFG_OP k) == p.op) &&
    (!s.bit (R.PROBE_CFG_ERR_ONLY k) || (p.isAns && p.status != 0)) &&
    (!s.bit (R.PROBE_CFG_ADDR_EN k) || (decide (s.rd (R.PROBE_BASE k) ≤ p.addr / 256) && decide (p.addr / 256 ≤ s.rd (R.PROBE_LIMIT k)))) &&
    (!s.bit (R.PROBE_MID_WIN_EN k) || p.window == some (s.rd (R.PROBE_CFG_LOCK_GROUP k), s.rd (R.PROBE_CFG_WTAG k)))

/-- The trace record of a head (R396). -/
def State.traceRecord (s : State) (p : Packet) : List Nat :=
  [s.tick, p.mid * 2 ^ 24 + p.src * 2 ^ 16 + p.dest * 256 + p.op * 16 + p.status, p.addr % 2 ^ 32,
    p.addr / 2 ^ 32 % 256 * 2 ^ 24 + s.urg p * 2 ^ 20 + p.vn * 2 ^ 18 + (p.lines - 1) % 64 * 2 ^ 12 + p.tag]

/-- Probe `k` counts or traces a head (R395). -/
def State.probe (s : State) (r i : Nat) (p : Packet) (k : Nat) : State :=
  if !s.probeHits k r i p then s
  else if s.bit (R.PROBE_CFG_MODE k) then
    let l := s.net.traces.get k
    if l.length < 256 then s.showProbe k (l ++ [s.traceRecord p])
    else if s.bit (R.PROBE_CFG_WRAP k) then (s.showProbe k (l.drop 1 ++ [s.traceRecord p])).loseRecord k
    else s.loseRecord k
  else
    let lat := (s.tick + (tickMod - p.inj % tickMod)) % tickMod
    let t := ((s.inc (R.PROBE_PKTS k)).add (R.PROBE_FLITS k) p.flits).add (R.PROBE_LAT_SUM k) lat
    t.wr (R.PROBE_LAT_MAX k) (max (t.rd (R.PROBE_LAT_MAX k)) lat)

def State.probes (s : State) (r i : Nat) (p : Packet) : State := (List.range 32).foldl (fun t k => State.probe t r i p k) s

/-- PROBE_POP: ignored while the exporter takes the probe's records (R397, R619). -/
def execProbePop (k : Fin 32) (s : State) : Outc :=
  if s.bit R.TRACE_CFG_EN ∧ nbit (s.rd R.TRACE_SRC_EN0) k.val then .next s
  else .next (s.showProbe k.val ((s.net.traces.get k.val).drop 1))

/-! ## Routers (R382, R383, R385 to R390) -/

/-- Where the head goes from router `r`: an output port (mesh or local), its next heading and codes. -/
def Packet.out (p : Packet) (i : Nat) : Nat × Nat × List Nat :=
  if 4 ≤ i then (if p.codes = [] then (4 + p.dest % 4, p.heading, []) else (p.heading, p.heading, p.codes))
  else match p.codes with
    | [] => (4 + p.dest % 4, p.heading, [])
    | c :: cs => if c = 3 then (4 + p.dest % 4, p.heading, []) else (turn p.heading c, turn p.heading c, cs)

/-- The buffer behind output port `o` of router `r`. -/
def bufAfter (r o now : Nat) : Option PktAt :=
  if 4 ≤ o then some (.port r (o - 4) now)
  else (hop r o).map (fun r2 => .input r2 ((o + 2) % 4))

/-- Head `a` of one virtual network is granted before head `b`: URG, then the earlier INJ_TICK, then the lower input port;
a later packet of one input port waits for the earlier (R382). -/
def State.headBefore (s : State) (a b : Packet) (ia ib : Nat) : Bool :=
  if ia = ib then decide (a.id < b.id)
  else if s.urg a ≠ s.urg b then decide (s.urg b < s.urg a)
  else if a.inj ≠ b.inj then tickBefore a.inj b.inj
  else decide (ia < ib)

/-- The output serves packet `a` before packet `b` (R382): VN-C, VN-A, then VN-Q or VN-S of the higher URG, the one not
served last on a tie. -/
def State.servedBefore (s : State) (key : Nat) (a b : Packet) (ia ib : Nat) : Bool :=
  let rank := fun (p : Packet) => if p.vn = 3 then 0 else if p.vn = 1 then 1 else 2
  if a.vn = b.vn then s.headBefore a b ia ib
  else if rank a ≠ rank b then decide (rank a < rank b)
  else if s.urg a ≠ s.urg b then decide (s.urg b < s.urg a)
  else decide (s.net.last.get key ≠ a.vn)

/-- Input port of a packet that stands at router `r`. -/
def inputAt (r : Nat) (p : Packet) : Option Nat :=
  match p.place with
  | .input r2 i => if r2 = r then some i else none
  | .port _ _ _ => none

/-- No other head at router `r` that the output could take is granted before `p`. -/
def State.granted (s : State) (r i o : Nat) (p : Packet) : Bool :=
  s.net.flight.all (fun x =>
    x.id == p.id ||
    (match inputAt r x with
     | none => true
     | some j =>
       let later := i == j && x.vn == p.vn
       !(((later || (x.out j).1 == o) && (match bufAfter r o s.stp.now with | some b => later || s.net.fits b x | none => later)) &&
         s.servedBefore (8 * r + o) x p j i)))

/-- A DECR that a router discards counts as applied (R387). -/
def State.absorbToken (s : State) (p : Packet) : State := if p.op = 8 then s.decrAbsorb else s

/-- ROUTER_HEAD_ARRIVAL (R385 to R390): deadline, then the state of the output. -/
def execRouterHeadArrival (k : Nat) (s : State) : Outc :=
  match s.net.packet k with
  | none => .next s
  | some p =>
    match p.place with
    | .port _ _ _ => .next s
    | .input r i =>
      let t := s.probes r i p
      if p.deadline.any (fun d => passed s.tick d) then
        .next ((((t.inc (R.COMMONS_RTR_LAPSED r)).endPacket p).absorbToken p).routerAnswer r p 1 1)
      else
        let o := p.out i
        let st := s.portSt r o.1
        if o.1 < 4 ∧ st = 1 then .next ((((t.inc R.COMMONS_DROP_UNPLANNED).endPacket p).absorbToken p).routerAnswer r p 5 5)
        else if 4 ≤ o.1 ∧ s.portMute r o.1 ∧ ¬ p.isAns then
          .next ((((t.inc (R.COMMONS_RTR_ABSORBED_DEAD r)).endPacket p).absorbToken p).routerAnswer r p 4 2)
        else if 4 ≤ o.1 ∧ st = 4 then
          .next ((((t.inc (R.COMMONS_RTR_ABSORBED_CLOSED r)).endPacket p).absorbToken p).routerAnswer r p 5 4)
        else match bufAfter r o.1 s.stp.now with
          | none => .next s
          | some b =>
            if !s.net.fits b p ∨ !s.granted r i o.1 p then .next s
            else
              let q : Packet := { p with heading := o.2.1, codes := o.2.2, place := b }
              let u := ((t.creditBack p).movePacket q).creditSend q
              .next (if p.vn = 0 ∨ p.vn = 2 then u.setNet (fun c => { c with last := c.last.set (8 * r + o.1) p.vn }) else u)

/-! ## Parish links: packets that leave the device (R443 to R447) -/

/-- The sum of x^16 + x^12 + x^5 + 1 over the bits of a word, bit 0 first. -/
def crc16Bit (c : BitVec 16) (b : Bool) : BitVec 16 :=
  let x := c <<< 1
  if c.msb != b then x ^^^ 0x1021 else x
def crc16Word (c : BitVec 16) (d : DWord) : BitVec 16 := (List.range 64).foldl (fun c i => crc16Bit c (d.getLsbD i)) c

/-- CRC16 over the data blocks of a flit, the byte enables first where they are sent (R443). -/
def flitCrc (f : EwlFlit) : Nat := (((if f.bef then f.be :: f.data else f.data).foldl crc16Word 0xFFFF)).toNat

/-- The 16 head words of a packet on a link (R374, R444). -/
def Packet.headWords (p : Packet) (target origin hops : Nat) : List Nat :=
  [0, p.vn * 2 ^ 28 + p.src * 2 ^ 16 + p.mid * 256 + p.base * 16 + p.base, p.op * 2 ^ 28 + (p.lines - 1) % 64 * 2 ^ 22 + p.tag * 256 + p.addr / 2 ^ 32 % 256,
    p.addr % 2 ^ 32, p.deadline.getD 0,
    (if p.deadline.isSome then 2 ^ 31 else 0) + (match p.window with | some (g, w) => 2 ^ 30 + g * 2 ^ 24 + w * 2 ^ 20 | none => 0) +
      p.status * 2 ^ 12 + p.cause * 256 + p.dest, p.inj, p.w7, 0, 0, 0, 0, 0, 0, 0, target * 2 ^ 29 + origin * 2 ^ 26 + hops * 2 ^ 23]

def pairs64 : List Nat → List DWord
  | a :: b :: r => pair32 a b :: pairs64 r
  | _ => []

def mkFlit (vn ft mark : Nat) (d : List DWord) : EwlFlit :=
  let f : EwlFlit := { vn := vn, ft := ft, mark := mark, bef := false, be := 0xFFFFFFFFFFFFFFFF, data := d, crc := 0 }
  { f with crc := flitCrc f }

/-- The flits of a packet: its head, then one per line (R373). -/
def Packet.linkFlits (p : Packet) (target origin hops : Nat) : List EwlFlit :=
  let n := p.flits - 1
  mkFlit p.vn (if n = 0 then 3 else 0) 0 (pairs64 (p.headWords target origin hops)) ::
    (List.range n).map (fun i =>
      let ws := (List.range 8).map (fun j => p.data.getD (8 * i + j) default)
      mkFlit p.vn (if i + 1 = n then 2 else 1) (((ws.zipIdx).map (fun x => if x.1.mark then 2 ^ x.2 else 0)).sum) (ws.map (·.data)))

/-- Queued flits of a link and virtual network leave while it holds credits (R443). -/
def State.pumpTx (s : State) (k vn : Nat) : State :=
  let q := s.ewl.tx.get (4 * k + vn)
  let c := s.ewl.credits.get (4 * k + vn)
  let n := min c q.length
  let t := { s with ewl := { s.ewl with tx := s.ewl.tx.set (4 * k + vn) (q.drop n), credits := s.ewl.credits.set (4 * k + vn) (c - n) } }
  (q.take n).foldl (fun u f => u.send (.ewlFlit k f)) t

/-- A packet leaves on link `k`. -/
def State.ewlSend (s : State) (k target origin hops : Nat) (p : Packet) : State :=
  State.pumpTx { s with ewl := { s.ewl with tx := s.ewl.tx.modify (4 * k + p.vn) (fun q => q ++ p.linkFlits target origin hops) } } k p.vn

def State.ewlUp (s : State) (k : Nat) : Bool := s.rd (R.EWL_STATUS_STATE k) == 3

/-- The parish number of the device. -/
def State.member (s : State) : Nat := s.rd R.EWL_PARISH_MEMBER

/-- The unit behind NI `p.dest` answers an ejected request. -/
def State.unitAnswer (s : State) (p : Packet) (op status cause lines : Nat) (data : List PWord) : State :=
  let n := p.dest
  let t := s.setNet (fun c => { c with ejected := c.ejected.filter (fun e => !(e.pkt.dest == n && e.pkt.src == p.src && e.pkt.tag == p.tag)) })
  if s.portMute (n / 4) (4 + n % 4) then t.add (R.COMMONS_RTR_STALE (n / 4)) 1
  else t.enterPacket n { p with
    op := op, vn := 1, src := n, dest := p.src, lines := lines, deadline := none, status := status, cause := cause, w7 := 0, data := data, base := s.baseUrg n 1 }

/-- An Ewenual NI forwards a request to a parish member, or answers it at once with DEAD_TARGET (R446, R447). -/
def State.ewlForward (s : State) (p : Packet) : State :=
  let d := p.addr / 0x1000000000 - 2
  match s.ewlRoute d with
  | none => s.unitAnswer p 6 4 2 0 []
  | some k =>
    if !s.ewlUp k ∨ s.bit (R.EWL_MEMBER_STATUS_REMOTE_DEAD d) then s.unitAnswer p 6 4 2 0 []
    else State.ewlSend { s with ewl := { s.ewl with fwd := s.ewl.fwd ++ [⟨p, d, k, s.stp.now, false⟩] } } k d s.member 0 p

/-- The answer to a request that came from a member returns over the route toward it (R446, R448). -/
def State.ewlReturn (s : State) (n : Nat) (p : Packet) : State :=
  match s.ewl.remote.find? (fun x => x.ni == n && x.tag == p.tag) with
  | none => s
  | some x =>
    let t := { s with ewl := { s.ewl with remote := s.ewl.remote.filter (fun y => !(y.ni == n && y.tag == p.tag)) } }
    match s.ewlRoute x.origin with
    | none => t
    | some k => if s.ewlUp k then t.ewlSend k x.origin x.origin 0 { p with src := n, dest := x.src, tag := x.otag } else t

/-- The packet is a request for another parish member, at an Ewenual NI. -/
def Packet.toParish (p : Packet) : Bool :=
  p.isReq && (p.dest == 141 || p.dest == 145) && decide (0x2000000000 ≤ p.addr) && decide (p.addr < 0xA000000000)

/-- The packet is for a stool that is not LOADED: its shell answers DOMAIN_CLOSED (R515). -/
def State.stoolShut (s : State) (p : Packet) : Bool := isCoppiceNi p.dest && decide (s.rd (R.COPPICE_STOOL_STATUS_STATE (stoolOf p.addr)) ≠ 2)

/-- PACKET_EJECT: the attach router ejects a request and starts its timer (R387); a packet of VN-C is delivered. -/
def execPacketEject (k : Nat) (s : State) : Outc :=
  match s.net.packet k with
  | none => .next s
  | some p =>
    match p.place with
    | .input _ _ => .next s
    | .port _ _ _ =>
      if p.isAns then .next s
      else if p.isReq then
        let t := (s.endPacket p).setNet (fun c => { c with ejected := c.ejected ++ [⟨p, s.stp.now⟩] })
        .next (if p.toParish then t.ewlForward p else if s.stoolShut p then t.unitAnswer p 6 5 4 0 [] else t)
      else .next (s.endPacket p)

/-- ANSWER_ARRIVAL: the answer returns its slot and is delivered, or counts in STRAY (R375, R392); a change of route no
longer holds packets whose older requests are all answered (R376). -/
def execAnswerArrival (k : Nat) (s : State) : Outc :=
  match s.net.packet k with
  | none => .next s
  | some p =>
    match p.place with
    | .input _ _ => .next s
    | .port _ _ _ =>
      if !p.isAns then .next s
      else
        let n := p.dest
        let t := s.endPacket p
        match s.net.outs.find? (fun o => o.src == n && o.tag == p.tag) with
        | none => .next (t.inc (R.COMMONS_NI_STRAY n))
        | some o =>
          let outs := s.net.outs.filter (fun x => !(x.src == n && x.tag == p.tag))
          let hs := s.net.holds.filter (fun h => !(h.1 == n && h.2.1 == o.dest && h.2.2 == o.vn) ||
            outs.any (fun x => x.src == n && x.dest == o.dest && x.vn == o.vn))
          let u := (t.setNet (fun c => { c with outs := outs, holds := hs })).showHold n
          .next ((((u.dec (outFld o.vn n)).ledgerCount (slotLedger o.vn n) 0 1).ewlReturn n p).reply ⟨statusOf p.status, p.cause, p.data⟩)

/-- 4 µs in units of 2^-16 ns. -/
def fourUs : Nat := 4000 * 65536

/-- The packets that wait for local port (r, l). -/
def Commons.waiting (c : Commons) (r l : Nat) : List Packet :=
  c.flight.filter (fun p => match p.place with | .port a b _ => a == r && b == l | .input _ _ => false)

/-- A port becomes DEAD: everything ejected there and unanswered, and every request held for it, is answered DEAD_TARGET;
held packets of VN-C are discarded (R387). -/
def State.killPort (s : State) (r l : Nat) : State :=
  let ej := s.net.ejected.filter (fun e => e.pkt.dest == 4 * r + l)
  let held := (s.net.waiting r l).filter (fun p => !p.isAns)
  let a := (s.setNet (fun c => { c with ejected := c.ejected.filter (fun e => e.pkt.dest != 4 * r + l) })).wr (R.COMMONS_RTR_PORT_STATUS_STATE r (4 + l)) 5
  let b := ej.foldl (fun t e => t.routerAnswer r e.pkt 4 2) a
  let c := held.foldl (fun t p => (((t.inc (R.COMMONS_RTR_ABSORBED_DEAD r)).endPacket p).absorbToken p).routerAnswer r p 4 2) b
  ((((c.wr R.COMMONS_STATUS_DEAD_SEEN 1).wr R.COMMONS_DEAD_LAST_ROUTER r).wr R.COMMONS_DEAD_LAST_PORT (4 + l)).raise ⟨3, 1, true, 8 * r + 4 + l, 0⟩).irqIf
    (s.bit R.COMMONS_CTRL_IRQ_DEAD) .portDead (8 * r + 4 + l)

/-- TARGET_TIMEOUT (R387): no answer within 4 µs of ejection, or a request not accepted for 4 µs. -/
def execTargetTimeout (r : Fin 64) (l : Fin 4) (s : State) : Outc :=
  let r := r.val
  let l := l.val
  let late := s.net.ejected.any (fun e => e.pkt.dest == 4 * r + l && decide (e.tick + fourUs ≤ s.stp.now)) ||
    (s.net.waiting r l).any (fun p => p.isReq && (match p.place with | .port _ _ t => decide (t + fourUs ≤ s.stp.now) | .input _ _ => false))
  let st := s.portSt r (4 + l)
  if late ∧ (st = 0 ∨ st = 3) ∧ ¬ s.portMute r (4 + l) then .next (s.killPort r l) else .next s

/-! ## Commands on ports (R388 to R390) -/

/-- A command is refused with its cause: 1 IN_USE, 2 STATE (R397). -/
def State.refusePort (s : State) (r p cause : Nat) : State :=
  (s.wr (R.COMMONS_RTR_PORT_STATUS_REFUSED r p) 1).wr (R.COMMONS_RTR_PORT_STATUS_CAUSE r p) cause

def State.setPortSt (s : State) (r p st : Nat) : State := s.wr (R.COMMONS_RTR_PORT_STATUS_STATE r p) st

/-- PORT_REVIVE (R388). -/
def execPortRevive (r : Fin 64) (p : Fin 8) (s : State) : Outc :=
  if s.portSt r.val p.val = 5 then .next (s.setPortSt r.val p.val 0) else .next (s.refusePort r.val p.val 2)

/-- Every NI sets or clears CLOSED in its entry for NI `d` (R390). -/
def State.markClosed (s : State) (d : Nat) (v : Bool) : State :=
  ((List.range 256).filter niPresent).foldl (fun t n => t.wrB (R.COMMONS_NI_ROUTE_A_CLOSED n d) v) s

/-- PORT_CLOSE: accepted on a local port that is OPEN or DEAD (R390). -/
def execPortClose (r : Fin 64) (p : Fin 8) (s : State) : Outc :=
  let r := r.val
  let p := p.val
  let st := s.portSt r p
  if 4 ≤ p ∧ (st = 0 ∨ st = 5) then
    let t := (s.markClosed (4 * r + (p - 4)) true).setPortSt r p 3
    .next (if st = 5 then t.setNet (fun c => { c with wasDead := c.wasDead.filter (fun x => x != 8 * r + p) ++ [8 * r + p] }) else t)
  else .next (s.refusePort r p 2)

/-- PORT_DRAINED: every request delivered to the unit and every request of its masters is answered, and the buffers are
empty (R390). -/
def execPortDrained (r : Fin 64) (l : Fin 4) (s : State) : Outc :=
  let r := r.val
  let l := l.val
  let n := 4 * r + l
  let busy := s.net.ejected.any (fun e => e.pkt.dest == n) || s.net.outs.any (fun o => o.src == n) || s.net.waiting r l != [] ||
    s.net.flight.any (fun x => inputAt r x == some (4 + l))
  if s.portSt r (4 + l) = 3 ∧ ¬ busy then .next ((s.setPortSt r (4 + l) 4).wr (R.COMMONS_RTR_PORT_STATUS_DRAINED r (4 + l)) 1) else .next s

/-- PORT_OPEN (R390). -/
def execPortOpen (r : Fin 64) (p : Fin 8) (s : State) : Outc :=
  let r := r.val
  let p := p.val
  if 4 ≤ p ∧ s.portSt r p = 4 then
    .next ((((s.markClosed (4 * r + (p - 4)) false).setPortSt r p 0).wr (R.COMMONS_RTR_PORT_STATUS_DRAINED r p) 0).setNet
      (fun c => { c with wasDead := c.wasDead.filter (fun x => x != 8 * r + p) }))
  else .next (s.refusePort r p 2)

/-- PORT_DISABLE (R389). -/
def execPortDisable (r : Fin 64) (p : Fin 8) (v : Word) (s : State) : Outc :=
  let r := r.val
  let p := p.val
  if 4 ≤ p ∨ s.portSt r p ≠ 0 then .next (s.refusePort r p 2)
  else if s.rd (R.COMMONS_RTR_PORT_STATUS_USE_COUNT r p) ≠ 0 then .next (s.refusePort r p 1)
  else .next ((s.setPortSt r p 2).setNet (fun c => { c with disableE := c.disableE.set (8 * r + p) (bitsOf v 0 2) }))

/-- PORT_DISABLE_COMPLETE (R389). -/
def execPortDisableComplete (r : Fin 64) (p : Fin 4) (s : State) : Outc :=
  let e := s.net.disableE.get (8 * r.val + p.val)
  if s.portSt r.val p.val = 2 ∧ s.rd R.COMMONS_STATUS_EPOCH = e ∧ ((List.range 4).all (fun i => i == e || !s.bit (R.COMMONS_EPOCH_LIVE i))) then
    .next (s.setPortSt r.val p.val 1)
  else .next s

/-- PORT_ENABLE (R389): ignored on an OPEN mesh port. -/
def execPortEnable (r : Fin 64) (p : Fin 8) (s : State) : Outc :=
  let st := s.portSt r.val p.val
  if 4 ≤ p.val ∨ st = 6 then .next (s.refusePort r.val p.val 2)
  else if st = 1 ∨ st = 2 then .next (s.setPortSt r.val p.val 0)
  else .next s

/-! ## Barriers (R393, R394) -/

/-- NIs of the mask of barrier `b`. -/
def State.barMask (s : State) (b : Nat) : List Nat :=
  (List.range 256).filter (fun n => niPresent n && nbit (s.rd (R.COMMONS_BAR_MASK b (n / 32))) (n % 32))

/-- Each NI of the mask raises a barrier event to its unit's interrupt controller, where IRQ_EN = 1. -/
def State.barEvents (s : State) (b : Nat) : State :=
  if s.bit (R.COMMONS_BAR_CFG_IRQ_EN b) then
    (s.barMask b).foldl (fun t n =>
      (t.setNet (fun c => { c with events := if c.events.contains (n, b) then c.events else c.events ++ [(n, b)] })).irqIf
        (hallNis.contains n) .barrier b) s
  else s

/-- BARRIER_ARRIVE: a second arrival of one NI in a generation is discarded and counted in EXTRA (R393). -/
def execBarrierArrive (b : Fin 32) (ni : Fin 256) (s : State) : Outc :=
  let b := b.val
  let l := s.net.arrivals.get b
  if l.contains ni.val then .next (s.inc (R.COMMONS_BAR_CFG_EXTRA b)).ack
  else .next (s.setNet (fun c => { c with arrivals := c.arrivals.set b (l ++ [ni.val]) })).ack

/-- BARRIER_RELEASE (R393). -/
def execBarrierRelease (b : Fin 32) (parish : Bool) (s : State) : Outc :=
  let b := b.val
  let l := s.net.arrivals.get b
  if s.barMask b ≠ [] ∧ (s.barMask b).all (fun n => l.contains n) ∧ (parish ∨ ¬ s.bit (R.COMMONS_BAR_CFG_PARISH b)) then
    .next (((s.setNet (fun c => { c with arrivals := c.arrivals.set b [] })).inc (R.COMMONS_BAR_GEN b)).barEvents b)
  else .next s

/-- BARRIER_BCAST (R394). -/
def execBarrierBcast (b : Fin 32) (v : Word) (s : State) : Outc := .next ((s.wr (R.COMMONS_BAR_VALUE b.val) v.toNat).barEvents b.val)

/-! ## Residue (R391) -/

/-- Transactions of a window in the Commons: outstanding requests, and packets that belong to none. -/
def State.commonsResidue (s : State) (g w : Nat) : Nat :=
  (s.net.outs.filter (fun o => o.window == some (g, w))).length +
    (s.net.flight.filter (fun p => p.window == some (g, w) &&
      !s.net.outs.any (fun o => o.tag == p.tag && (if p.isReq then o.src == p.src else o.src == p.dest)))).length

end Sys2Proof.Machine
end

