-- ==== Sys2Proof/Machine/Memory.lean ====
section
/-! DEFINITION. Machine/Memory.lean: requests to protected memory, Granary banks and pools, the error log and injection,
the Harrow and the Gleaner (chapters 11 and 12).
Choices of the model: log entries 8 (DEDUCED), 12 (DESIGN CHOICE), 13 (DEDUCED), 14 (DEDUCED), 15 (DESIGN CHOICE), 16
(DESIGN CHOICE). -/

namespace Sys2Proof.Machine

/-! ## The Gleaner (R366 to R368) -/

def gleanKey (mem inst : Nat) : Nat := mem * 256 + inst

/-- First storage address and size of the memory that agent (mem, inst) steps through; Cellar pseudo-channels are
interleaved, so their agents step over the whole Cellar offset range of the channel (R333). -/
def gleanRange (mem inst : Nat) : Option (Nat × Nat) :=
  match mem with
  | 0 => if inst < 144 then some (plotBase (inst / 9) (inst % 9), 0x40000) else none
  | 1 => if inst < 144 then some (imemBase (inst / 9) (inst % 9) 0, 0x10000) else none
  | 2 => if inst < 16 then some (barnBase inst, 0x200000) else none
  | 3 => if inst < 64 then some (inst * 0x100000, 0x100000) else none
  | 4 => if inst < 64 then some (cellarBase, 0x20000000) else none
  | 6 => if inst = 0 then some (hearthBase, hearthSize) else none
  | 7 => if 16 ≤ inst ∧ inst < 32 then some (bramBase + (inst - 16) * bramSize, bramSize) else none
  | _ => none

/-- The storage address of byte `o` of the memory of agent (mem, inst): contiguous, but for a Cellar pseudo-channel,
whose 256-byte blocks lie 16 KiB apart (R333). -/
def gleanAddr (mem inst o : Nat) : Nat :=
  if mem = 4 then cellarBase + o / 256 * 16384 + inst % 32 * 512 + inst / 32 * 256 + o % 256
  else match gleanRange mem inst with
    | some (b, _) => b + o
    | none => 0

/-- Word `i` of the region that starts at offset `r` of the agent's memory. -/
def gleanWord (mem inst r i : Nat) : Nat := gleanAddr mem inst (r + 8 * i)

/-- Restore one saved word by its outcome (R367). -/
def State.gleanRestore (s : State) (mem inst a : Nat) (w : DWord × Byte) : State :=
  let syn := (syndrome w.1 w.2).toNat
  match eccOutcome w.1 w.2 with
  | .clean => s.setMem (s.ms.mem.putRaw a w.1 w.2)
  | .corrected p =>
    (((s.setMem (s.ms.mem.put a (eccData w.1 w.2))).inc R.GLEANER_CE).inc (R.ECC_CE mem inst)).logAt 4 (mem, inst) syn 0 a p
  | .poison => (s.setMem (s.ms.mem.putRaw a w.1 w.2)).inc R.GLEANER_POISON_SEEN
  | .uncorrectable =>
    (((s.setMem (s.ms.mem.put a ⟨w.1, true⟩)).inc R.GLEANER_UE).inc (R.ECC_UE mem inst)).logAt 5 (mem, inst) syn 0 a 255

def State.gleanRestoreAll (s : State) (mem inst r : Nat) : Nat → List (DWord × Byte) → State
  | _, [] => s
  | i, w :: rest => State.gleanRestoreAll (s.gleanRestore mem inst (gleanWord mem inst r i) w) mem inst r (i + 1) rest

def State.setGleaner (s : State) (k : Nat) (g : Gleaner) : State := { s with ms := { s.ms with gleaners := s.ms.gleaners.set k g } }

/-- A request that has waited 16 cycles takes the plot's second access of the next cycle; whether the core's sheaf then needs
both accesses, and so stalls for that cycle, is a free value (R130, R326). -/
def State.coreStall (s : State) (h c wait : Nat) : State :=
  if 16 ≤ wait then let x := s.fresh; x.2.add (R.PLOT_CORE_STALL h c) (Config.freeValue x.1 % 2) else s

/-- The conflict and wait counters of master `mid` at a memory (R326). -/
def State.countWait (s : State) (a : Nat) (mid : Mid) (wait : Nat) : State :=
  if wait = 0 then s else
  match regionOf a with
  | .granary _ => (s.inc (R.GRANARY_CONFLICT mid.toNat)).add (R.GRANARY_WAIT mid.toNat) wait
  | .cellar _ _ => (s.inc (R.CELLAR_CONFLICT mid.toNat)).add (R.CELLAR_WAIT mid.toNat) wait
  | .barn h =>
    let m := mid.toNat
    let n := if 9 * h ≤ m ∧ m < 9 * h + 9 ∧ m < 0x90 then m - 9 * h else if m = 0x90 + h then 9 else 11
    (s.inc (R.HAMLET_BARN_CONFLICT h n)).add (R.HAMLET_BARN_WAIT h n) wait
  | .plot h p => (s.inc (R.PLOT_EXT_CONFLICT h (s.logicalOf h p))).add (R.PLOT_EXT_WAIT h (s.logicalOf h p)) wait
  | _ => s

/-- A request of master `mid` waited `wait` cycles: its counters, and in a plot the stall that it forces. -/
def State.countConflict (s : State) (a : Nat) (mid : Mid) (wait : Nat) : State :=
  let t := s.countWait a mid wait
  match regionOf a with
  | .plot h p => t.coreStall h (s.logicalOf h p) wait
  | _ => t

/-- The agent gives up its borrowed region at once: nothing was written, or the saved words are written back (R368). -/
def State.gleanYield (s : State) (mem inst : Nat) (mid : Mid) : State :=
  let k := gleanKey mem inst
  let g := s.ms.gleaners.get k
  if g.borrowed then
    let t := if g.wrote then s.gleanRestoreAll mem inst g.region 0 g.saved else s
    let u := t.setGleaner k { g with borrowed := false, saved := [], wrote := false, next := g.region }
    let v := u.inc R.GLEANER_YIELDS
    v.countWait (gleanWord mem inst g.region 0) mid 12
  else s

/-- The test of a borrowed region ends: its words are restored from the save buffer and the agent goes on (R366, R368). -/
def State.gleanFinish (s : State) (mem inst : Nat) : State :=
  let k := gleanKey mem inst
  let g := s.ms.gleaners.get k
  let size := match gleanRange mem inst with | some (_, z) => z | none => 512
  let t := if g.wrote then s.gleanRestoreAll mem inst g.region 0 g.saved else s
  (t.inc R.GLEANER_REGIONS).setGleaner k { g with borrowed := false, saved := [], wrote := false, next := (g.region + 512) % size }

/-- An access to a word makes the agent that has borrowed its region yield; a Cellar region does not yield: the access
sees the saved words, which the end of the test restores (R368). -/
def State.yieldFor (s : State) (a : Nat) (mid : Mid) : State :=
  match (regionOf a).ids with
  | some (mem, inst) =>
    let g := s.ms.gleaners.get (gleanKey mem inst)
    if g.borrowed && (List.range 64).any (fun i => gleanWord mem inst g.region i == a / 8 * 8) then
      (if mem = 4 then s.gleanFinish mem inst else s.gleanYield mem inst mid)
    else s
  | none => s

/-- GLEANER_YIELD: another access to a borrowed region makes the agent restore and yield (R368). -/
def execGleanerYield (mem : Fin 8) (inst : Fin 256) (mid : Mid) (s : State) : Outc :=
  .next (if mem.val = 4 then s.gleanFinish 4 inst.val else s.gleanYield mem.val inst.val mid)

/-- The last pattern of R366, alternating 1010 over all 72 bits. -/
def lastPattern : DWord × Byte := (0xAAAAAAAAAAAAAAAA, 0xAA)

def State.putPattern (s : State) (mem inst r : Nat) : Nat → State
  | 0 => s
  | n + 1 => (s.putPattern mem inst r n).setMem ((s.putPattern mem inst r n).ms.mem.putRaw (gleanWord mem inst r n) lastPattern.1 lastPattern.2)

/-- A region may be tested: its agent exists and is enabled, its interval has passed, and its memory is on and not held
by the Harrow (R366). -/
def State.gleanDue (s : State) (mem inst : Nat) : Bool :=
  let g := s.ms.gleaners.get (gleanKey mem inst)
  let due := match g.lastStart with
    | none => true
    | some t => decide (t + 10 * s.rd (R.GLEANER_INTERVAL_INTERVAL mem) ≤ s.stp.now / 65536)
  mem != 5 && nbit (s.rd R.GLEANER_CTRL_EN) mem && due && !g.borrowed && (gleanRange mem inst).isSome &&
    (s.regionRefuse (regionOf (gleanWord mem inst g.next 0))).isNone

/-- GLEANER_REGION_START: the agent borrows its next region, tests it, and restores it (R366, R367); it is left borrowed
where another access asks for it first. -/
def execGleanerRegionStart (mem : Fin 8) (inst : Fin 256) (faults : List CellFault) (stop : GleanStop) (s : State) : Outc :=
  let m := mem.val
  let n := inst.val
  let k := gleanKey m n
  if s.gleanDue m n then
    let g := s.ms.gleaners.get k
    let r := g.next
    let size := match gleanRange m n with | some (_, z) => z | none => 512
    let saved := (List.range 64).map (fun i => (s.ms.mem.rawData (gleanWord m n r i), s.ms.mem.rawCheck (gleanWord m n r i)))
    let start := some (s.stp.now / 65536)
    match stop with
    | .beforePattern => .next (s.setGleaner k { g with lastStart := start, borrowed := true, region := r, saved := saved, wrote := false })
    | .afterPattern =>
      .next ((s.setGleaner k { g with lastStart := start, borrowed := true, region := r, saved := saved, wrote := true }).putPattern m n r 64)
    | .complete =>
      let t := faults.foldl (fun t f => (t.inc R.GLEANER_CELL_FAULTS).logAt 6 (m, n) 0 0 (gleanWord m n r (f.word % 64)) (f.bit % 72)) s
      let u := t.gleanRestoreAll m n r 0 saved
      .next ((u.inc R.GLEANER_REGIONS).setGleaner k { g with lastStart := start, next := (r + 512) % size })
  else .next s

/-! ## Requests (R347 to R350, R322 to R324, R329) -/

/-- Where a request to bus address `a` goes: a storage address, or the answer that refuses it (R329, R352, R583, R631). -/
def State.target (s : State) (a : Nat) : Sum Answer Nat :=
  let st := s.storeAddr a
  let busy := if 0x10000000 ≤ a ∧ a < 0x20000000 ∧ 0x800000 ≤ a % 0x01000000 ∧ a % 0x01000000 < 0xC80000 then
      let h := (a - 0x10000000) / 0x01000000
      let c := (a % 0x01000000 - 0x800000) / 0x80000
      s.bit (R.HAMLET_SPARE_STATUS_BUSY h) && (c == 8 || some c == (s.hml.takeover.get h).map Prod.fst)
    else false
  if busy then .inl ⟨.aborted, 7, []⟩
  else if 0x80000000 ≤ st ∧ st < 0xC0000000 ∧ s.rd (R.COPPICE_STOOL_STATUS_STATE ((st - 0x80000000) / 0x04000000)) ≠ 2 then
    .inl ⟨.domainClosed, 4, []⟩
  else match s.regionRefuse (regionOf st) with
    | some r => .inl r
    | none => .inr st

/-- Where a request of `mid` goes that travels the Commons: its target, behind the port of its target's NI. -/
def State.targetFor (s : State) (mid : Mid) (a : Nat) : Sum Answer Nat :=
  match s.portRefuse mid a with
  | some r => .inl r
  | none => s.target a

/-- A refused access to a closed Granary bank counts in GRANARY_CLOSED_ACCESS (R329); one through a busy aperture, or a write
that its instruction half refuses, in REJECT_COUNT (R101, R583). -/
def State.countRefusal (s : State) (a : Nat) (r : Answer) : State :=
  let t := match regionOf (s.storeAddr a) with
    | .granary _ => if r.status = AnsStatus.domainClosed then s.inc R.GRANARY_CLOSED_ACCESS else s
    | _ => s
  if r.cause = 7 ∧ 0x10000000 ≤ a then
    t.incSat (R.HAMLET_IMEM_STATUS_REJECT_COUNT ((a - 0x10000000) / 0x01000000) ((a % 0x01000000 - 0x800000) / 0x80000))
  else t

def State.refuseAccess (s : State) (a : Nat) (r : Answer) : State := (s.countRefusal a r).reply r

/-- MEMORY_READ served by a Hall core's cache line (R348): an UNCORRECTABLE word in a clean line discards the line and is
read again from memory, counted in UE and logged RECOVERED; in a dirty line it is delivered poisoned by R347. -/
def State.readLine (s : State) (k : Nat) (mid : Mid) (a n : Nat) : State :=
  let key := k * 2 ^ 40 + a / 64 * 64
  let ln := s.ms.lines.get key
  if !ln.valid then s else
  let go := fun (acc : List PWord × State) (i : Nat) =>
    let w := ln.words.getD ((a % 64) / 8 + i) (0, 0)
    let addr := a + 8 * i
    match eccOutcome w.1 w.2 with
    | .uncorrectable =>
      if ln.dirty then (acc.1 ++ [⟨w.1, true⟩], acc.2.countRead (5, k) mid addr w.1 w.2 1)
      else
        let t := { acc.2 with ms := { acc.2.ms with lines := acc.2.ms.lines.set key {} } }
        let u := ((t.inc (R.ECC_UE 5 k))).logAt 3 (5, k) (syndrome w.1 w.2).toNat mid.toNat addr 255
        let y := u.readWord mid (u.storeAddr addr)
        (acc.1 ++ [y.1], y.2)
    | _ => (acc.1 ++ [eccData w.1 w.2], acc.2.countRead (5, k) mid addr w.1 w.2 1)
  let x := (List.range n).foldl go ([], s)
  x.2.reply ⟨.ok, 0, x.1⟩

/-- MEMORY_READ: each word is decoded and delivered with its mark; the stored words do not change (R345, R347). -/
def execMemoryRead (mid : Mid) (addr n wait : Nat) (via : ReadVia) (s : State) : Outc :=
  match via with
  | .hallLine k => .next (s.readLine k mid (addr / 8 * 8) n)
  | .memory =>
    let a := addr / 8 * 8
    match s.target a with
    | .inl r => .next (s.refuseAccess a r)
    | .inr st =>
      let t := ((s.yieldFor st mid).countConflict st mid wait)
      let x := t.readWords mid st n
      .next (x.2.reply ⟨.ok, 0, x.1⟩)

/-- A write to an instruction half is refused for the active half, and for the inactive half while a flip is armed (R101). -/
def State.imemRefused (s : State) (h p half : Nat) : Bool :=
  let c := s.logicalOf h p
  decide (s.rd (R.HAMLET_IMEM_STATUS_ACTIVE h c) = half) || s.bit (R.HAMLET_IMEM_CTRL_ARM h c)

/-- One write of whole words through the bus (R349): performed, or refused with its answer. -/
def State.busWrite (s : State) (r : WriteReq) : State :=
  let a := r.addr / 8 * 8
  match s.target a with
  | .inl e => s.refuseAccess a e
  | .inr st =>
    match regionOf st with
    | .imem h p =>
      if s.imemRefused h p (st / 0x8000 % 2) then
        (s.incSat (R.HAMLET_IMEM_STATUS_REJECT_COUNT h (s.logicalOf h p))).refusedAns
      else (((s.yieldFor st r.mid).writeWords st r.words).ack)
    | _ => ((((s.yieldFor st r.mid).countConflict st r.mid r.wait).writeWords st r.words).ack)

/-- The COLLISION counter of a memory (R323, R325, R327). -/
def State.countCollision (s : State) (a : Nat) : State :=
  match regionOf a with
  | .granary _ => s.inc R.GRANARY_COLLISION
  | .cellar _ _ => s.inc R.CELLAR_COLLISION
  | .barn h => s.inc (R.HAMLET_BARN_COLLISION h)
  | .plot h p => s.inc (R.PLOT_COLLISION h (s.logicalOf h p))
  | _ => s

/-- Two writes of whole words that differ in a word both write. -/
def wordsCollide (a b : WriteReq) : Bool :=
  (List.range a.words.length).any (fun i =>
    let ad := a.addr / 8 * 8 + 8 * i
    (List.range b.words.length).any (fun j =>
      b.addr / 8 * 8 + 8 * j == ad && (a.words.getD i default).data != (b.words.getD j default).data))

/-- MEMORY_WRITE: every word is stored with a fresh clean or poisoned codeword (R349). Of two writes granted in one cycle,
the one of port 1 is the later, and a differing byte counts one collision (R323). -/
def execMemoryWrite (a : WriteReq) (other : Option WriteReq) (s : State) : Outc :=
  match other with
  | none => .next (s.busWrite a)
  | some b =>
    let t := (s.busWrite a).busWrite b
    .next (if wordsCollide a b && (s.target (a.addr / 8 * 8)).isRight then t.countCollision (s.storeAddr (a.addr / 8 * 8)) else t)

/-- One narrow write through the bus (R350). -/
def State.busNarrow (s : State) (r : NarrowReq) : State :=
  let a := r.addr / 8 * 8
  match s.target a with
  | .inl e => s.refuseAccess a e
  | .inr st =>
    let go := (((s.yieldFor st r.mid).countConflict st r.mid r.wait).rmwWord r.mid st r.enables r.data r.mark).ack
    match regionOf st with
    | .imem h p =>
      if s.imemRefused h p (st / 0x8000 % 2) then
        (s.incSat (R.HAMLET_IMEM_STATUS_REJECT_COUNT h (s.logicalOf h p))).refusedAns
      else go
    | _ => go

/-- RMW_WRITE: the old codeword is decoded, the enabled bytes merged, the word stored (R350). Two narrow writes to one
word granted in one cycle are one read-modify-write, port 1 over port 0 (R324). -/
def execRmwWrite (a : NarrowReq) (other : Option NarrowReq) (s : State) : Outc :=
  match other with
  | none => .next (s.busNarrow a)
  | some b =>
    if a.addr / 8 = b.addr / 8 then
      let both := a.enables &&& b.enables
      let coll := mergeBytes 0 a.data both != mergeBytes 0 b.data both
      let m : NarrowReq := { mid := b.mid, addr := a.addr, enables := a.enables ||| b.enables,
                             data := mergeBytes a.data b.data b.enables, mark := a.mark || b.mark, wait := b.wait }
      let t := s.busNarrow m
      .next (if coll && (s.target (a.addr / 8 * 8)).isRight then t.countCollision (s.storeAddr (a.addr / 8 * 8)) else t)
    else .next ((s.busNarrow a).busNarrow b)

/-! ## Granary banks (R328 to R330) -/

def State.setMove (s : State) (b : Nat) (m : BankMove) : State := { s with ms := { s.ms with moves := s.ms.moves.set b m } }

/-- First and end address of pool `p` by its configuration (R336). -/
def State.poolRange (s : State) (p : Nat) : Nat × Nat :=
  let b := s.rd (R.GRANARY_POOL_BASE_ADDR p) * 64
  (b, b + s.rd (R.GRANARY_POOL_COUNT_COUNT p) * ((s.rd (R.GRANARY_POOL_CFG_BUF_UNITS_M1 p) + 1) * 64))

def rangesMeet (a b : Nat × Nat) : Bool := decide (a.1 < b.2) && decide (b.1 < a.2)

def State.poolOverlaps (s : State) (b : Nat) : Bool :=
  (List.range 128).any (fun p => s.bit (R.GRANARY_POOL_STATUS_ENABLED p) && rangesMeet (s.poolRange p) (b * 0x100000, (b + 1) * 0x100000))

def State.bankRefuse (s : State) (b cause : Nat) : State :=
  (s.wr (R.GRANARY_BANK_PWR_REFUSED b) 1).wr (R.GRANARY_BANK_PWR_CAUSE b) cause

def State.bankMove (s : State) (b st : Nat) (m : BankMove) : State := (s.wr (R.GRANARY_BANK_PWR_STATE b) st).setMove b m

/-- GRANARY_BANK_POWER_REQUEST: a request to change a bank's power state is accepted into a transitional state, ignored,
or refused (R328, R330). -/
def execGranaryBankPowerRequest (bank : Fin 64) (v : Word) (s : State) : Outc :=
  let b := bank.val
  let t := s.w1c v [R.GRANARY_BANK_PWR_REFUSED b]
  let st := t.rd (R.GRANARY_BANK_PWR_STATE b)
  let req := (R.GRANARY_BANK_PWR_REQ b).of v
  if (R.GRANARY_BANK_PWR_REQ_VALID b).of v = 0 ∨ req = 3 then .next t.ack
  else if 3 ≤ st then .next (t.bankRefuse b 2).ack
  else if req = st then .next t.ack
  else if st = 0 then
    if t.poolOverlaps b then .next (t.bankRefuse b 1).ack
    else .next (t.bankMove b 3 (if req = 1 then .toRetention else .toOff)).ack
  else if st = 1 then
    if req = 0 then .next (t.bankMove b 4 .toOnKept).ack else .next (t.bankMove b 3 .toOff).ack
  else if req = 1 then .next (t.bankRefuse b 3).ack
  else .next (t.bankMove b 4 .toOnFilled).ack

/-- GRANARY_BANK_TRANSITION_END: the bank completes its move; a bank leaving OFF goes on to FILLING (R328). -/
def execGranaryBankTransitionEnd (bank : Fin 64) (s : State) : Outc :=
  let b := bank.val
  match s.ms.moves.get b with
  | .none => .next s
  | .toRetention => .next (s.bankMove b 1 .none)
  | .toOff => .next ((s.setMem (s.ms.mem.fill (b * 0x100000) ((b + 1) * 0x100000))).bankMove b 2 .none)
  | .toOnKept => .next (s.bankMove b 0 .none)
  | .toOnFilled => .next (if s.rd (R.GRANARY_BANK_PWR_STATE b) = 4 then s.wr (R.GRANARY_BANK_PWR_STATE b) 5 else s)

/-- GRANARY_BANK_FILL_END: the self-test and fill of a bank leaving OFF end (R352); a failed checker leaves the bank
unfilled in HARROW and logs CHECKER_FAIL (R356). -/
def execGranaryBankFillEnd (bank : Fin 64) (checkerOk : Bool) (s : State) : Outc :=
  let b := bank.val
  if s.rd (R.GRANARY_BANK_PWR_STATE b) = 5 then
    if checkerOk then .next ((s.setMem (s.ms.mem.fill (b * 0x100000) ((b + 1) * 0x100000))).bankMove b 0 .none)
    else .next ((s.bankMove b 6 .none).logAt 9 (3, b) 0 0 (b * 0x100000) 255)
  else .next s

/-! ## Buffer pools (R336 to R341) -/

def State.pool (s : State) (p : Nat) : Pool := s.ms.pools.get p
def State.setPool (s : State) (p : Nat) (x : Pool) : State := { s with ms := { s.ms with pools := s.ms.pools.set p x } }

/-- HELD shows the held buffers. -/
def State.showHeld (s : State) (p : Nat) : State := s.wr (R.GRANARY_POOL_STATUS_HELD p) (s.pool p).held.length

/-- The configured COUNT of every enabled pool but `p`, summed (R336). -/
def State.poolSum (s : State) (p : Nat) : Nat :=
  ((List.range 128).filter (fun q => q != p && s.bit (R.GRANARY_POOL_STATUS_ENABLED q))).foldl
    (fun n q => n + s.rd (R.GRANARY_POOL_COUNT_COUNT q)) 0

/-- The first cause of R336 that refuses to enable pool `p` with the configuration in `s`, or 0. -/
def State.poolCause (s : State) (p : Nat) : Nat :=
  let r := s.poolRange p
  if s.rd (R.GRANARY_POOL_COUNT_COUNT p) = 0 ∨ granaryEnd < r.2 then 1
  else if (List.range 128).any (fun q => q != p && s.bit (R.GRANARY_POOL_STATUS_ENABLED q) && rangesMeet r (s.poolRange q)) then 2
  else if (List.range 64).any (fun b => rangesMeet r (b * 0x100000, (b + 1) * 0x100000) && decide (s.rd (R.GRANARY_BANK_PWR_STATE b) ≠ 0)) then 3
  else if 262144 < s.poolSum p + s.rd (R.GRANARY_POOL_COUNT_COUNT p) then 4
  else 0

/-- GRANARY_POOL_ENABLE: a write of ENABLE = 1. The other fields of a disabled pool are written; an enabled pool ignores
them (R336). -/
def execGranaryPoolEnable (pool : Fin 128) (v : Word) (s : State) : Outc :=
  let p := pool.val
  if (R.GRANARY_POOL_CFG_ENABLE p).of v = 0 then .next s
  else if s.bit (R.GRANARY_POOL_STATUS_ENABLED p) then .next s.ack
  else
    let t := s.wrWord v [R.GRANARY_POOL_CFG_WINDOWED p, R.GRANARY_POOL_CFG_BUF_UNITS_M1 p]
    match t.poolCause p with
    | 0 =>
      let u := t.setPool p { free := List.range (t.rd (R.GRANARY_POOL_COUNT_COUNT p)), held := [], gens := ⟨[]⟩ }
      .next (((u.wr (R.GRANARY_POOL_CFG_ENABLE p) 1).wr (R.GRANARY_POOL_STATUS_ENABLED p) 1).showHeld p).ack
    | c => .next ((t.wr (R.GRANARY_POOL_STATUS_REFUSED p) 1).wr (R.GRANARY_POOL_STATUS_CAUSE p) c).ack

/-- GRANARY_POOL_DISABLE: a write of ENABLE = 0 disables the pool, or is refused BUSY while a buffer is held (R336). -/
def execGranaryPoolDisable (pool : Fin 128) (v : Word) (s : State) : Outc :=
  let p := pool.val
  if (R.GRANARY_POOL_CFG_ENABLE p).of v = 1 then .next s
  else if s.bit (R.GRANARY_POOL_STATUS_ENABLED p) then
    if (s.pool p).held = [] then
      .next ((((s.setPool p {}).wr (R.GRANARY_POOL_CFG_ENABLE p) 0).wr (R.GRANARY_POOL_STATUS_ENABLED p) 0).wrWord v
        [R.GRANARY_POOL_CFG_WINDOWED p, R.GRANARY_POOL_CFG_BUF_UNITS_M1 p]).ack
    else .next ((s.wr (R.GRANARY_POOL_STATUS_REFUSED p) 1).wr (R.GRANARY_POOL_STATUS_CAUSE p) 5).ack
  else .next (s.wrWord v [R.GRANARY_POOL_CFG_WINDOWED p, R.GRANARY_POOL_CFG_BUF_UNITS_M1 p]).ack

/-- The token of buffer `i` of pool `p` with generation `g` (R337). -/
def tokenOf (p g i : Nat) : Nat := p % 128 * 2 ^ 24 + g % 16 * 2 ^ 20 + i % 65536

/-- Count one issue or return on the ledger of pool `p`'s tokens (R341, R400). -/
def State.poolLedger (s : State) (p issued returned : Nat) : State := s.ledgerCount (ledgerId 4 p) issued returned

/-- Take the buffer at the head of the free list, stamped as given; none where the pool is empty, disabled or faulty. -/
def State.poolTake (s : State) (p : Nat) (stamp : Option (Nat × Nat)) : Option Nat × State :=
  if s.bit (R.GRANARY_POOL_STATUS_ENABLED p) && !s.bit (R.GRANARY_POOL_STATUS_FAULT p) then
    let x := s.pool p
    match x.free with
    | [] => (none, s.inc (R.GRANARY_POOL_EMPTY_TAKES p))
    | i :: r =>
      (some (tokenOf p (x.gens.get i) i),
       (((s.setPool p { x with free := r, held := x.held ++ [⟨i, stamp⟩] }).showHeld p).poolLedger p 1 0))
  else (none, s.inc (R.GRANARY_POOL_EMPTY_TAKES p))

/-- A writer's take: stamped with its window where the pool is WINDOWED (R339). -/
def State.poolTakeWriter (s : State) (p g tag : Nat) : Option Nat × State :=
  s.poolTake p (if s.bit (R.GRANARY_POOL_CFG_WINDOWED p) then some (g, tag) else none)

/-- Return buffer `i` to the tail of the free list with its next generation (R337). -/
def State.poolReturn (s : State) (p i : Nat) : State :=
  let x := s.pool p
  ((s.setPool p { free := x.free ++ [i], held := x.held.filter (fun h => h.index != i),
                  gens := x.gens.set i ((x.gens.get i + 1) % 16) }).showHeld p).poolLedger p 0 1

/-- GRANARY_POOL_TAKE: a take-once read of 32 bits (R337). -/
def execGranaryPoolTake (pool : Fin 128) (s : State) : Outc :=
  match s.poolTake pool.val none with
  | (some tok, t) => .next (t.reply ⟨.ok, 0, [⟨BitVec.ofNat 64 (2 ^ 31 + tok), false⟩]⟩)
  | (none, t) => .next (t.reply ⟨.ok, 0, [⟨0, false⟩]⟩)

/-- A released token is accepted: its fields are right, the buffer is held and the generation is current (R338). -/
def State.releaseOk (s : State) (p : Nat) (tok : Nat) : Bool :=
  let i := nbits tok 0 16
  s.bit (R.GRANARY_POOL_STATUS_ENABLED p) && decide (nbits tok 24 7 = p) && decide (nbits tok 16 4 = 0) && decide (nbits tok 31 1 = 0) &&
    (s.pool p).held.any (fun h => h.index == i) && decide ((s.pool p).gens.get i = nbits tok 20 4)

def State.releaseBad (s : State) (tok : Nat) : State :=
  (((s.wr R.GRANARY_RELEASE_BAD_SEEN 1).wr R.GRANARY_RELEASE_BAD_POOL (nbits tok 24 7)).wr R.GRANARY_RELEASE_BAD_GEN (nbits tok 20 4)).wr
    R.GRANARY_RELEASE_BAD_INDEX (nbits tok 0 16)

/-- A token returned to pool `p`, or refused and recorded (R338). -/
def State.poolRelease (s : State) (p tok : Nat) : State :=
  if s.releaseOk p tok then s.poolReturn p (nbits tok 0 16) else s.releaseBad tok

/-- GRANARY_POOL_RELEASE: a token written to the release register of pool `pool` (R338). -/
def execGranaryPoolRelease (pool : Fin 128) (token : Word) (s : State) : Outc := .next (s.poolRelease pool.val token.toNat).ack

/-- A live window of group `g` with tag `w` whose sweep instant has been reached (R50). -/
def State.windowSwept (s : State) (g w : Nat) : Bool :=
  (s.stp.groups.get g).windows.any (fun x => x.wtag == w && s.reached x.sweepNs)

/-- Return every held buffer of pool `p` stamped with window (g, w) (R339). -/
def State.poolSweep (s : State) (g w p : Nat) : State :=
  if s.bit (R.GRANARY_POOL_CFG_WINDOWED p) && s.bit (R.GRANARY_POOL_STATUS_ENABLED p) then
    ((s.pool p).held.filter (fun h => h.stamp == some (g, w))).foldl
      (fun t h => (t.poolReturn p h.index).inc (R.GRANARY_POOL_SWEEP_RETURNED p)) s
  else s

/-- POOL_SWEEP_RETURN: at the sweep instant of a window every held token stamped with it is returned (R339). -/
def execPoolSweepReturn (group : Fin 64) (wtag : Fin 16) (s : State) : Outc :=
  if s.windowSwept group.val wtag.val then .next (s.ms.pools.keys.foldl (fun t p => t.poolSweep group.val wtag.val p) s) else .next s

/-- POOL_FAULT: a disagreement that voting cannot resolve sets FAULT, and the pool's ledger becomes UNRECONCILED (R341). -/
def execPoolFault (pool : Fin 128) (s : State) : Outc :=
  .next ((s.wr (R.GRANARY_POOL_STATUS_FAULT pool.val) 1).ledgerFault (ledgerId 4 pool.val))

/-! ## Injection and the log's commands (R358 to R360) -/

/-- The WL lock is open: LIFECYCLE is OPEN, or permission bit 3 has been opened (R360). -/
def State.wlOpen (s : State) : Bool :=
  decide (s.rd R.STRONG_OTP_STATE_LIFECYCLE = 0) || nbit (s.rd R.STRONG_DBG_STATUS_PERM) 3

/-- The memory of a region is on and not held by the Harrow, and injection reaches it (R359). -/
def State.injectable (s : State) (a : Nat) : Bool :=
  match regionOf (s.storeAddr a) with
  | .plot _ _ => (s.target a).isRight
  | .imem _ _ => (s.target a).isRight
  | .barn _ => (s.target a).isRight
  | .granary _ => (s.target a).isRight
  | .cellar _ _ => (s.target a).isRight
  | _ => false

/-- ECC_INJECT: one injection into a stored codeword, or its refusal (R359). While the WL lock is closed the write is
ignored (R636). -/
def execEccInject (v : Word) (s : State) : Outc :=
  if !s.wlOpen then .next s.ack
  else
    let t := s.wrWord v [R.ECC_INJECT_CTRL_CHECK_XOR, R.ECC_INJECT_CTRL_DATA_FLIP_A, R.ECC_INJECT_CTRL_DATA_FLIP_B]
    if R.ECC_INJECT_CTRL_GO.of v = 0 then .next t.ack
    else
      let u := (t.wr R.ECC_INJECT_CTRL_DONE 0).wr R.ECC_INJECT_CTRL_REFUSED 0
      let a := u.rd R.ECC_INJECT_ADDR_HI_ADDR * 2 ^ 32 + u.rd R.ECC_INJECT_ADDR_LO_ADDR * 8
      if u.injectable a then
        let st := u.storeAddr a
        let w := u.yieldFor st 0xB1
        let fa := w.rd R.ECC_INJECT_CTRL_DATA_FLIP_A
        let fb := w.rd R.ECC_INJECT_CTRL_DATA_FLIP_B
        let d0 := w.ms.mem.rawData st
        let d1 := flipBit d0 fa
        let d2 := if fb = fa then d1 else flipBit d1 fb
        let c := w.ms.mem.rawCheck st ^^^ BitVec.ofNat 8 (w.rd R.ECC_INJECT_CTRL_CHECK_XOR)
        let x := (w.setMem (w.ms.mem.putRaw st d2 c)).wr R.ECC_INJECT_CTRL_DONE 1
        match (regionOf st).ids with
        | some ids => .next (x.logAt 10 ids 0 0 a 255).ack
        | none => .next x.ack
      else .next (u.wr R.ECC_INJECT_CTRL_REFUSED 1).ack

/-- ECCLOG_POP: any write retires the oldest entry; ignored when the log is empty (R360). -/
def execEcclogPop (s : State) : Outc := .next (s.showLog s.ms.log.tail).ack

/-- ECCLOG_FLUSH: FLUSH = 1 discards every entry; IRQ_EN is written (R360). -/
def execEcclogFlush (v : Word) (s : State) : Outc :=
  let t := s.wrWord v [R.ECCLOG_CTRL_IRQ_EN]
  .next (if R.ECCLOG_CTRL_FLUSH.of v = 1 then (t.showLog []).ack else t.ack)

/-! ## The Harrow (R361 to R365) -/

def State.harrowRefuse (s : State) (cause : Nat) : State :=
  (s.wr R.HARROW_STATUS_RESULT 3).wr R.HARROW_STATUS_CAUSE cause

/-- The first cause of R361 that refuses the request, or 0. -/
def State.harrowCause (s : State) (v : Word) : Nat :=
  let tgt := bitsOf v 28 2
  let inst := bitsOf v 22 6
  if s.rd R.HARROW_STATUS_STATE = 1 then 3
  else if bitOf v 30 ∨ bitsOf v 0 16 ≠ 0 ∨ 2 ≤ tgt ∨ bitsOf v 16 4 = 0 ∨ (tgt = 1 ∧ bitOf v 21) ∨ (tgt = 1 ∧ 16 ≤ inst) then 4
  else if tgt = 0 ∧ s.rd (R.GRANARY_BANK_PWR_STATE inst) ≠ 0 then 1
  else if tgt = 1 ∧ s.rd (R.PWR_DOM_STATE inst) ≠ 1 then 1
  else if tgt = 0 ∧ s.poolOverlaps inst then 2
  else 0

/-- HARROW_START: a test of a bank or a hamlet is accepted or refused (R361). A hamlet is powered up closed, its checkers
self-tested; a failed checker leaves it closed and unfilled (R356). -/
def execHarrowStart (v : Word) (checkerOk : Bool) (s : State) : Outc :=
  if !bitOf v 31 then .next s.ack
  else match s.harrowCause v with
  | 0 =>
    let inst := bitsOf v 22 6
    let t := (((s.wr R.HARROW_STATUS_STATE 1).wr R.HARROW_STATUS_RESULT 0).wr R.HARROW_STATUS_CAUSE 0)
    let u := { t with ms := { t.ms with harrow := ⟨bitsOf v 28 2, inst, bitOf v 21, bitOf v 20, bitsOf v 16 4⟩ } }
    if bitsOf v 28 2 = 0 then .next (u.wr (R.GRANARY_BANK_PWR_STATE inst) 6).ack
    else
      let w := (u.wr (R.PWR_DOM_STATE inst) 0)
      let x := { w with ms := { w.ms with hamletClosed := w.ms.hamletClosed.set inst true } }
      .next (if checkerOk then x.ack else (x.logAt 9 (2, inst) 0 0 (barnBase inst) 255).ack)
  | c => .next (s.harrowRefuse c).ack

/-- Spare rows of each array bank (R364). -/
def sparesOf : HarrowArray → Nat
  | .granary => 16
  | .barn => 4
  | .plot => 2
  | .imem => 2

def arrayMem : HarrowArray → Nat
  | .granary => 3
  | .barn => 2
  | .plot => 0
  | .imem => 1

/-- One failing row: mapped to a free spare and logged REPAIRED, or logged UNREPAIRABLE (R364). -/
def State.harrowRow (s : State) (inst : Nat) (repair : Bool) (f : FailRow) : State :=
  let mem := arrayMem f.array
  let ins := if mem = 0 ∨ mem = 1 then 9 * inst + f.phys else inst
  let used := (s.ms.repairs.filter (fun r => r.array == f.array && r.inst == inst && r.phys == f.phys && r.bank == f.bank)).length
  if repair && decide (used < sparesOf f.array) then
    let t := { s with ms := { s.ms with repairs := s.ms.repairs ++ [Repair.mk f.array inst f.phys f.bank f.row] } }
    if f.spareFails then
      ((t.logAt 8 (mem, ins) 0 0 f.line 255).wr R.HARROW_STATUS_RESULT 2)
    else
      let u := (t.logAt 7 (mem, ins) 0 0 f.line 255).add R.HARROW_STATUS_ROWS_REPAIRED 1
      u.wr R.HARROW_STATUS_RESULT (max 1 (u.rd R.HARROW_STATUS_RESULT))
  else
    let t := (s.logAt 8 (mem, ins) 0 0 f.line 255).wr R.HARROW_STATUS_RESULT 2
    t

/-- A failing row that no spare repairs, of a plot or instruction memory: its core fails (R365). -/
def State.harrowFailCore (s : State) (f : FailRow) : State :=
  if f.array = .plot ∨ f.array = .imem then
    s.wr R.HARROW_STATUS_FAIL_CORES (((BitVec.ofNat 9 (s.rd R.HARROW_STATUS_FAIL_CORES)) ||| BitVec.ofNat 9 (2 ^ f.phys)).toNat)
  else s

def State.harrowRows (s : State) (inst : Nat) (repair : Bool) : List FailRow → State
  | [] => s
  | f :: r =>
    let t := s.harrowRow inst repair f
    let bad := decide (t.ms.repairs.length = s.ms.repairs.length) || f.spareFails
    State.harrowRows (if bad then t.harrowFailCore f else t) inst repair r

/-- Restore a preserved word: corrected where it read CORRECTED, poisoned and logged UE where it read UNCORRECTABLE (R365). -/
def State.preserveWord (s : State) (b a : Nat) : State :=
  let d := s.ms.mem.rawData a
  let c := s.ms.mem.rawCheck a
  match eccOutcome d c with
  | .corrected _ => s.setMem (s.ms.mem.put a (eccData d c))
  | .uncorrectable => (s.setMem (s.ms.mem.put a ⟨d, true⟩)).logAt 1 (3, b) (syndrome d c).toNat 0 a 255
  | _ => s

/-- The word addresses of bank `b` that hold something. -/
def Memory.usedWords (m : Memory) (lo hi : Nat) : List Nat :=
  ((m.data.keys ++ m.check.keys).filter (fun k => decide (lo ≤ k) && decide (k < hi))).map (fun k => k / 8 * 8) |>.dedup

/-- HARROW_TEST_END: the failing rows are mapped or logged, RESULT is set, and the target is left as R365 says. -/
def execHarrowTestEnd (fails : List FailRow) (s : State) : Outc :=
  if s.rd R.HARROW_STATUS_STATE = 1 then
    let hr := s.ms.harrow
    let lines := fails.map (·.line)
    let s0 := ((s.wr R.HARROW_STATUS_ROWS_REPAIRED 0).wr R.HARROW_STATUS_FAIL_CORES 0).wr R.HARROW_FAIL_ADDR
      (match lines with | [] => 0 | l :: _ => l / 64 % 2 ^ 28)
    let t := (s0.harrowRows hr.inst hr.repair fails).wr R.HARROW_STATUS_STATE 2
    let b := hr.inst
    if hr.target = 0 then
      if t.rd R.HARROW_STATUS_RESULT = 2 then .next t
      else
        let u := if hr.preserve then (t.ms.mem.usedWords (b * 0x100000) ((b + 1) * 0x100000)).foldl (fun x a => x.preserveWord b a) t
          else t.setMem (t.ms.mem.fill (b * 0x100000) ((b + 1) * 0x100000))
        .next (u.wr (R.GRANARY_BANK_PWR_STATE b) 0)
    else
      let u := t.setMem (t.ms.mem.fill (barnBase b) (barnBase b + 0x01000000))
      .next { u with ms := { u.ms with hamletClosed := u.ms.hamletClosed.set b false, failCores := u.ms.failCores.set b (u.rd R.HARROW_STATUS_FAIL_CORES) } }
  else .next s

end Sys2Proof.Machine
end

