-- ==== Sys2Proof/Machine/Dma.lean ====
section
/-! DEFINITION. Machine/Dma.lean: reads and writes of byte ranges by the engines of the device: each 64-bit word through
its target, with poison marks, narrow writes by byte enables, and the first error answer (R349, R350).
Choices of the model: log entries 7 (DEDUCED). -/

namespace Sys2Proof.Machine

/-- The answer that refuses a write to the word at `a`, if there is one. -/
def State.writeRefused (s : State) (a : Nat) : Option Answer :=
  match s.target a with
  | .inl r => some r
  | .inr st => match regionOf st with
    | .imem h p => if s.imemRefused h p (st / 0x8000 % 2) then some ⟨.aborted, 7, []⟩ else none
    | _ => none

/-- Read `n` words from word-aligned address `a`: the words, or none at an error answer. -/
def State.dmaWords (s : State) (mid : Mid) : Nat → Nat → Option (List PWord) × State
  | _, 0 => (some [], s)
  | a, n + 1 =>
    match s.portRefuse mid a with
    | some _ => (none, s)
    | none =>
      match s.target a with
      | .inl r => (none, s.countRefusal a r)
      | .inr st =>
        let x := (s.yieldFor st mid).readWord mid st
        match State.dmaWords x.2 mid (a + 8) n with
        | (some l, t) => (some (x.1 :: l), t)
        | (none, t) => (none, t)

/-- The bytes of words, each with its word's mark. -/
def wordBytes (l : List PWord) : List (Nat × Bool) :=
  l.flatMap (fun w => (List.range 8).map (fun i => (w.data.toNat / 2 ^ (8 * i) % 256, w.mark)))

/-- Read `n` bytes from address `a`. -/
def State.dmaRead (s : State) (mid : Mid) (a n : Nat) : Option (List (Nat × Bool)) × State :=
  if n = 0 then (some [], s)
  else match s.dmaWords mid (a / 8 * 8) ((a + n + 7) / 8 - a / 8) with
    | (some l, t) => (some (((wordBytes l).drop (a % 8)).take n), t)
    | (none, t) => (none, t)

/-- Write the bytes of one word from byte `o` on. -/
def State.dmaWord (s : State) (mid : Mid) (a o : Nat) (bs : List (Nat × Bool)) : State :=
  let st := s.storeAddr a
  let d := BitVec.ofNat 64 ((bs.zipIdx).foldl (fun n x => n + x.1.1 % 256 * 2 ^ (8 * (o + x.2))) 0)
  let m := bs.any Prod.snd
  let t := s.yieldFor st mid
  if bs.length = 8 then t.writeWords st [⟨d, m⟩]
  else t.rmwWord mid st (BitVec.ofNat 8 ((2 ^ bs.length - 1) * 2 ^ o)) d m

/-- Write words until the bytes end or an answer is an error: whether all were acknowledged. -/
def State.dmaGo (s : State) (mid : Mid) : Nat → Nat → List (Nat × Bool) → Bool × State
  | 0, _, _ => (true, s)
  | f + 1, a, bs =>
    if bs = [] then (true, s)
    else match s.portRefuse mid (a / 8 * 8) with
      | some _ => (false, s)
      | none =>
        match s.writeRefused (a / 8 * 8) with
        | some r => (false, s.countRefusal (a / 8 * 8) r)
        | none =>
          let n := 8 - a % 8
          State.dmaGo (s.dmaWord mid (a / 8 * 8) (a % 8) (bs.take n)) mid f (a + n) (bs.drop n)

/-- Write bytes, each with the mark that its word takes. -/
def State.dmaWrite (s : State) (mid : Mid) (a : Nat) (bs : List (Nat × Bool)) : Bool × State := s.dmaGo mid bs.length a bs

def clean (l : List Nat) : List (Nat × Bool) := l.map (fun b => (b, false))
def anyBad (l : List (Nat × Bool)) : Bool := l.any Prod.snd
def byteVals (l : List (Nat × Bool)) : List Nat := l.map Prod.fst

/-- `n` marked bytes whose values the spec leaves open. -/
def State.openBytes (s : State) (n : Nat) : List (Nat × Bool) × State :=
  ((List.range n).map (fun i => (Config.freeValue (s.free + i) % 256, true)), { s with free := s.free + n })

/-- The 32-bit little-endian words of a byte list. -/
def le32 : Nat → List Nat → List Nat
  | 0, _ => []
  | n + 1, l => (l.getD 0 0 + l.getD 1 0 * 256 + l.getD 2 0 * 65536 + l.getD 3 0 * 16777216) :: le32 n (l.drop 4)

def bytesOf32 (w : Nat) : List Nat := (List.range 4).map (fun i => w / 2 ^ (8 * i) % 256)

end Sys2Proof.Machine
end

