-- ==== Sys2Proof/Machine/Lanes.lean ====
section
/-! DEFINITION. Machine/Lanes.lean: serial lanes and Ewenual Link (chapter 16).
Choices of the model: log entries 49 (DEDUCED), 50 (PRESUMED), 51 (DEDUCED). -/

namespace Sys2Proof.Machine

/-! ## Lanes and links -/

def State.laneRx (s : State) (l : Nat) : LaneRx := s.ewl.lanes.get l
def State.setLane (s : State) (l : Nat) (x : LaneRx) : State := { s with ewl := { s.ewl with lanes := s.ewl.lanes.set l x } }
def State.elink (s : State) (k : Nat) : EwlLink := s.ewl.links.get k
def State.setElink (s : State) (k : Nat) (x : EwlLink) : State := { s with ewl := { s.ewl with links := s.ewl.links.set k x } }
def State.ewlSt (s : State) (k : Nat) : Nat := s.rd (R.EWL_STATUS_STATE k)

/-- The Ewenual link that owns lane `l` (R432). -/
def State.laneLink (s : State) (l : Nat) : Option Nat :=
  if s.rd (R.LANE_CFG_USE l) = 2 ∧ s.rd (R.LANE_CFG_OWNER l) < 6 then some (s.rd (R.LANE_CFG_OWNER l)) else none

/-- Physical lanes of link `k`, link lane 0 first (R437). -/
def State.linkLanes (s : State) (k : Nat) : List Nat := (List.range (s.rd (R.EWL_CFG_LANES_M1 k) + 1)).map (fun j => s.rd (R.EWL_CFG_FIRST_LANE k) + j)

/-- Every lane of the link is present and assigned to it (R432). -/
def State.lanesOwned (s : State) (k : Nat) : Bool := (s.linkLanes k).all (fun l => decide (l < 48) && s.laneLink l == some k)

/-- REACHABLE of every member (R456). -/
def State.showReach (s : State) : State :=
  (List.range 8).foldl (fun t d => t.wrB (R.EWL_MEMBER_STATUS_REACHABLE d) (match t.ewlRoute d with | some k => decide (k < 6) && t.ewlUp k | none => false)) s

/-- Bit j of AM_LOCKED: link lane j has marker lock. -/
def State.showLocks (s : State) (k : Nat) : State :=
  s.wr (R.EWL_STATUS_AM_LOCKED k) (((s.linkLanes k).zipIdx.map (fun x => if s.bit (R.LANE_STATUS_MARKER_LOCK x.1) then 2 ^ x.2 else 0)).sum)

/-- The link leaves ALIGNED or UP for HUNT (R441); what it held is then discarded (R445). -/
def State.toHunt (s : State) (k : Nat) : State :=
  let x := s.elink k
  let up : Bool := s.ewlUp k
  let t := (s.wr (R.EWL_STATUS_STATE k) 1).wr (R.EWL_STATUS_TIME_VALID k) 0
  (t.setElink k { x with good := false, low := 0, skew := 0, down := x.down || up, from_ := if up then s.stp.now else x.from_ }).showReach

/-- R438 holds: LANE values 0 to n − 1 once each, one LINK_ID, skew at most 48. -/
def State.mapOk (s : State) (k : Nat) : Bool :=
  let ls := s.linkLanes k
  (List.range ls.length).all (fun j => ls.any (fun l => (s.laneRx l).lane == j)) &&
    ls.all (fun l => (s.laneRx l).linkId == (s.laneRx (ls.headD 0)).linkId) && decide ((s.elink k).skew ≤ 48)

/-- The link becomes UP: 32 credits for each virtual network (R441 to R443). -/
def State.toUp (s : State) (k : Nat) : State :=
  let t := (s.wr (R.EWL_STATUS_STATE k) 3).wr (R.EWL_STATUS_SILENT k) 0
  State.showReach { t with ewl := { t.ewl with credits := (List.range 4).foldl (fun c vn => c.set (4 * k + vn) 32) t.ewl.credits } }

/-- The state that the locks, the markers and R438 give an enabled link (R441). -/
def State.linkEval (s : State) (k : Nat) : State :=
  let t := s.showLocks k
  if s.ewlSt k = 0 then t
  else
    let locked := (s.linkLanes k).all (fun l => s.bit (R.LANE_STATUS_BLOCK_LOCK l) && s.bit (R.LANE_STATUS_MARKER_LOCK l))
    if !locked then (if s.ewlSt k = 1 then t else t.toHunt k)
    else
      let u := if s.ewlSt k = 1 then
          (if s.mapOk k then (t.wr (R.EWL_STATUS_STATE k) 2).wr (R.EWL_STATUS_LANE_MISMATCH k) 0 else t.wr (R.EWL_STATUS_LANE_MISMATCH k) 1)
        else t
      if u.ewlSt k = 2 ∧ (u.elink k).good then u.toUp k
      else if u.ewlSt k = 3 ∧ 2 ≤ (u.elink k).low then u.toHunt k else u

def State.laneEval (s : State) (l : Nat) : State :=
  match s.laneLink l with
  | some k => if (s.linkLanes k).contains l then s.linkEval k else s
  | none => s

/-! ## Configuration (R432 to R435) -/

/-- RATE does not allow the lane's USE (R433). -/
def rateBad (use rate : Nat) : Bool :=
  if use = 0 then false else if use = 1 then !(rate == 3 || rate == 5 || rate == 8) else decide (9 < rate)

/-- QUAD_CFG_WRITE: ignored where it changes RATE while a lane of the quad is in use. -/
def execQuadCfgWrite (q : Fin 12) (v : Word) (s : State) : Outc :=
  let q := q.val
  if bitsOf v 0 4 ≠ s.rd (R.QUAD_CFG_RATE q) ∧ (List.range 4).any (fun j => s.rd (R.LANE_CFG_USE (4 * q + j)) != 0) then .next s
  else .next (s.wrWord v [R.QUAD_CFG_REF q, R.QUAD_CFG_RATE q])

/-- A lane's receiver loses its locks. -/
def State.unlock (s : State) (l : Nat) : State :=
  (((s.wr (R.LANE_STATUS_BLOCK_LOCK l) 0).wr (R.LANE_STATUS_MARKER_LOCK l) 0).wr (R.LANE_STATUS_PRBS_LOCK l) 0).setLane l {}

/-- LANE_CFG_WRITE: a lane that changes hands loses its locks. -/
def execLaneCfgWrite (l : Fin 48) (v : Word) (s : State) : Outc :=
  let l := l.val
  let was := s.laneLink l
  let moved : Bool := bitsOf v 30 2 != s.rd (R.LANE_CFG_USE l) || bitsOf v 25 5 != s.rd (R.LANE_CFG_OWNER l)
  let t := s.wrWord v [R.LANE_CFG_USE l, R.LANE_CFG_OWNER l, R.LANE_CFG_TX_INV l, R.LANE_CFG_RX_INV l, R.LANE_CFG_ADAPT_FREEZE l, R.LANE_CFG_TX_PAT l, R.LANE_CFG_RX_PAT l]
  let u := t.wrB (R.LANE_STATUS_RATE_ERR l) (rateBad (bitsOf v 30 2) (s.rd (R.QUAD_CFG_RATE (l / 4))))
  let w := if moved then u.unlock l else u
  .next (match was with | some k => w.linkEval k | none => w)

def ewlCfgFields (k : Nat) : List Fld :=
  [R.EWL_CFG_MODE k, R.EWL_CFG_LANES_M1 k, R.EWL_CFG_FIRST_LANE k, R.EWL_CFG_EXPECT_MEMBER k, R.EWL_CFG_TIME_EN k, R.EWL_CFG_LINK_ID k]

/-- The fields of EWL_CFG other than EN; ignored while EN = 1 (R456). -/
def State.ewlCfg (s : State) (k : Nat) (v : Word) : State :=
  if s.bit (R.EWL_CFG_EN k) then s
  else (s.wrWord v (ewlCfgFields k)).wr (R.EWL_CFG_CHAFF_P64 k) (max 16 (bitsOf v 0 6))

/-- EWL_ENABLE: HUNT, or LANE_CONFLICT where a lane is not assigned to the link (R432, R441). -/
def execEwlEnable (k : Fin 6) (v : Word) (s : State) : Outc :=
  let k := k.val
  if s.bit (R.EWL_CFG_EN k) ∨ !bitOf v 31 then .next s
  else
    let t := s.ewlCfg k v
    if t.lanesOwned k then
      let u := (((t.wr (R.EWL_CFG_EN k) 1).wr (R.EWL_STATUS_STATE k) 1).wr (R.EWL_STATUS_LANE_CONFLICT k) 0).wr (R.EWL_STATUS_SKEW k) 0
      .next ((u.setElink k { down := (s.elink k).down, from_ := s.stp.now }).linkEval k)
    else .next ((t.wr (R.EWL_CFG_EN k) 1).wr (R.EWL_STATUS_LANE_CONFLICT k) 1)

/-- EWL_DISABLE (R441). -/
def execEwlDisable (k : Fin 6) (v : Word) (s : State) : Outc :=
  let k := k.val
  if bitOf v 31 then .next s
  else if s.bit (R.EWL_CFG_EN k) then .next (((s.toHunt k).wr (R.EWL_CFG_EN k) 0).wr (R.EWL_STATUS_STATE k) 0)
  else .next (s.ewlCfg k v)

/-! ## Blocks (R436 to R441) -/

/-- The self-synchronising descrambler x^58 + x^39 + 1, bit 0 first. -/
def descramble (scr : BitVec 58) (raw : DWord) : DWord × BitVec 58 :=
  (List.range 64).foldl (fun x i =>
    let b := raw.getLsbD i
    let o := (b != x.2.getLsbD 38) != x.2.getLsbD 57
    (if o then x.1 ||| ((1 : DWord) <<< i) else x.1, (x.2 <<< 1) ||| (if b then 1 else 0))) (0, scr)

/-- Even parity of bits i, i + 8 onward to i + 56 of a payload. -/
def bip8 (d : DWord) : Nat := ((List.range 8).foldl (fun (c : Byte) i => c ^^^ d.extractLsb' (8 * i) 8) 0).toNat

def blockTypes : List Nat := [0x1E, 0x4B, 0x55, 0x66, 0x78, 0x87, 0x99, 0xB4]

/-- EWL_BLOCK_RECEIVE: sync header, TYPE, chaff at the elastic buffer (R436, R440); the block counts for the lane's locks,
its marker position and BIP8. -/
def execEwlBlockReceive (l : Fin 48) (hdr : BitVec 2) (raw : DWord) (fullBuf : Bool) (s : State) : Outc :=
  let l := l.val
  match s.laneLink l with
  | none => .next s
  | some k =>
    let x := s.laneRx l
    let ok : Bool := hdr == 1 || hdr == 2
    let d := descramble x.scr raw
    let at_ : Bool := x.since == 16383
    let y : LaneRx := { x with
      run := if ok then x.run + 1 else 0, hist := ((!ok) :: x.hist).take 64, since := if at_ then 0 else x.since + 1,
      missed := if at_ then x.missed + 1 else x.missed, bip := ((BitVec.ofNat 8 x.bip) ^^^ (BitVec.ofNat 8 (bip8 raw))).toNat, scr := d.2 }
    let t := ((s.setLane l y).wr (R.LANE_STATUS_SIGNAL l) 1).wr (R.LANE_STATUS_CDR_LOCK l) 1
    let ty := d.1.toNat % 256
    if !ok ∨ (hdr = 2 ∧ !blockTypes.contains ty) then .next (t.incSat (R.LANE_ERR_SYNC_ERR l))
    else if hdr = 2 ∧ ty = 0x55 ∧ fullBuf ∧ l = s.rd (R.EWL_CFG_FIRST_LANE k) ∧ 2 ≤ s.ewlSt k then .next (t.inc (R.EWL_CHAFF_DELETED k))
    else .next t

/-- BLOCK_LOCK_GAIN: 64 consecutive valid sync headers (R441). -/
def execBlockLockGain (l : Fin 48) (s : State) : Outc :=
  if 64 ≤ (s.laneRx l.val).run ∧ ¬ s.bit (R.LANE_STATUS_BLOCK_LOCK l.val) then .next ((s.wr (R.LANE_STATUS_BLOCK_LOCK l.val) 1).laneEval l.val)
  else .next s

/-- BLOCK_LOCK_LOSS: 16 invalid sync headers within 64 blocks (R441). -/
def execBlockLockLoss (l : Fin 48) (s : State) : Outc :=
  if s.bit (R.LANE_STATUS_BLOCK_LOCK l.val) ∧ 16 ≤ ((s.laneRx l.val).hist.filter id).length then
    .next ((s.wr (R.LANE_STATUS_BLOCK_LOCK l.val) 0).laneEval l.val)
  else .next s

/-- A stamp: Steeple time modulo 2^40 in units of 2^-6 ns (R449). -/
def State.ewlStamp (s : State) : Nat := s.stp.now / 1024 % 2 ^ 40

def dbits (d : DWord) (lo w : Nat) : Nat := d.toNat / 2 ^ lo % 2 ^ w

/-- What a marker on link lane 0 tells the link (R441, R449). -/
def State.leadMarker (s : State) (k : Nat) (m : DWord) : State :=
  let x := s.elink k
  let rx : Bool := dbits m 11 1 == 1
  let parish : Bool := s.rd (R.EWL_CFG_MODE k) == 0
  let same : Bool := dbits m 12 3 == s.rd (R.EWL_CFG_EXPECT_MEMBER k)
  let t := s.wrB (R.EWL_STATUS_MEMBER_MISMATCH k) (parish && !same)
  let stale := s.bit (R.EWL_CFG_TIME_EN k) && (x.t3.isNone || x.t2.isNone)
  let u := if stale then t.wr (R.EWL_STATUS_TIME_VALID k) 0 else t
  u.setElink k { x with
    good := rx && (!parish || (dbits m 15 1 == 1 && same)), low := if rx then 0 else x.low + 1,
    rcv := some (dbits m 24 8, s.ewlStamp), t3 := none, t2 := none }

/-- MARKER_RECEIVE (R437, R438, R441). -/
def execMarkerReceive (l : Fin 48) (payload : DWord) (skew : Nat) (s : State) : Outc :=
  let l := l.val
  match s.laneLink l with
  | none => .next s
  | some k =>
    let x := s.laneRx l
    let locked := s.bit (R.LANE_STATUS_MARKER_LOCK l)
    if payload.toNat % 256 ≠ 0x4B ∨ s.ewlSt k = 0 ∨ (locked ∧ x.since ≠ 16383) then .next s
    else
      let lane := dbits payload 8 3
      let y : LaneRx := { x with
        run := x.run + 1, hist := (false :: x.hist).take 64, since := 0, missed := 0, seen := true, lane := lane, linkId := dbits payload 16 8, bip := 0 }
      let t := if x.seen ∧ x.since = 16383 ∧ dbits payload 32 8 ≠ x.bip then s.incSat (R.LANE_ERR_BIP_ERR l) else s
      let u := (t.setLane l y).wrB (R.LANE_STATUS_MARKER_LOCK l) (locked || (x.seen && x.since == 16383 && x.lane == lane))
      let w := (u.wr (R.EWL_STATUS_SKEW k) (min 255 (max (u.rd (R.EWL_STATUS_SKEW k)) skew))).setElink k { u.elink k with skew := skew }
      let z := if lane = 0 then w.leadMarker k payload else w
      .next (z.laneEval l)

/-- MARKER_LOCK_LOSS: 4 consecutive marker positions without a valid MARKER (R441). -/
def execMarkerLockLoss (l : Fin 48) (s : State) : Outc :=
  let x := s.laneRx l.val
  if s.bit (R.LANE_STATUS_MARKER_LOCK l.val) ∧ 4 ≤ x.missed then
    .next (((s.setLane l.val { x with seen := false, missed := 0 }).wr (R.LANE_STATUS_MARKER_LOCK l.val) 0).laneEval l.val)
  else .next s

/-- EWL_LINK_DOWN: flits are discarded, outstanding requests over the link are answered DEAD_TARGET (R445, R447). -/
def execEwlLinkDown (k : Fin 6) (s : State) : Outc :=
  let k := k.val
  let x := s.elink k
  if !x.down then .next s
  else
    let t := (s.setElink k { x with down := false }).inc (R.EWL_COUNTS_LINK_DROPS k)
    let gone := t.ewl.fwd.filter (fun f => f.link == k && !f.late)
    let u := { t with ewl := { t.ewl with
      tx := t.ewl.tx.clear (fun i => i / 4 == k), rx := t.ewl.rx.clear (fun i => i / 4 == k), credits := t.ewl.credits.clear (fun i => i / 4 == k),
      fwd := t.ewl.fwd.map (fun f => if f.link == k then { f with late := true } else f) } }
    .next (gone.foldl (fun w f => w.unitAnswer f.pkt 6 4 2 0 []) u)

/-- EWL_SILENT: not UP for 10 ms (R442). -/
def execEwlSilent (k : Fin 6) (s : State) : Outc :=
  if s.ewlSt k.val ≠ 0 ∧ s.ewlSt k.val ≠ 3 ∧ (s.elink k.val).from_ + 10000000 * 65536 ≤ s.stp.now then .next (s.wr (R.EWL_STATUS_SILENT k.val) 1)
  else .next s

/-! ## What the transmitter sends on its own (R437, R439, R449) -/

/-- The payload of the marker of link lane `j`. -/
def State.markerOf (s : State) (k j bip : Nat) : DWord :=
  let parish : Bool := s.rd (R.EWL_CFG_MODE k) == 0 && s.bit R.EWL_PARISH_IN_PARISH
  BitVec.ofNat 64 (0x4B + j * 2 ^ 8 + (if 2 ≤ s.ewlSt k then 2 ^ 11 else 0) + (if parish then s.member * 2 ^ 12 + 2 ^ 15 else 0) +
    s.rd (R.EWL_CFG_LINK_ID k) * 2 ^ 16 + (s.elink k).count * 2 ^ 24 + bip * 2 ^ 32)

def timeBlock (sub count stamp : Nat) : Nat × DWord := (2, BitVec.ofNat 64 (0x87 + sub * 2 ^ 8 + count * 2 ^ 9 + stamp * 2 ^ 17))

/-- MARKER_SEND: a marker on every lane, and with TIME_EN the two TIME blocks on link lane 0. -/
def execMarkerSend (k : Fin 6) (bips : List Byte) (s : State) : Outc :=
  let k := k.val
  if s.ewlSt k = 0 then .next s
  else
    let x := s.elink k
    let st := s.ewlStamp
    let times := if s.bit (R.EWL_CFG_TIME_EN k) then
        timeBlock 0 x.count st :: (match x.rcv with | some r => [timeBlock 1 r.1 r.2] | none => [])
      else []
    let t := (s.linkLanes k).zipIdx.foldl (fun t e =>
      if t.rd (R.LANE_CFG_TX_PAT e.1) = 0 then
        t.send (.ewlBlocks k e.2 ((2, t.markerOf k e.2 (bips.getD e.2 0).toNat) :: (if e.2 = 0 then times else [])))
      else t) s
    .next (t.setElink k { x with count := (x.count + 1) % 256, sent := ((x.count, st) :: x.sent).take 4 })

/-- CHAFF_SEND (R439). -/
def execChaffSend (k : Fin 6) (s : State) : Outc :=
  if s.ewlSt k.val = 0 then .next s
  else .next ((s.linkLanes k.val).zipIdx.foldl (fun t e =>
    if t.rd (R.LANE_CFG_TX_PAT e.1) = 0 then t.send (.ewlBlocks k.val e.2 [(2, 0x55)]) else t) s)

/-- CHAFF_INSERT: the elastic buffer is below its lower mark (R440). -/
def execChaffInsert (k : Fin 6) (s : State) : Outc :=
  if 2 ≤ s.ewlSt k.val then .next (s.inc (R.EWL_CHAFF_INSERTED k.val)) else .next s

/-! ## Parish transport (R443 to R448) -/

/-- The head words of a head flit. -/
def headOf (d : List DWord) : List Nat := d.flatMap (fun w => [w.toNat % 2 ^ 32, w.toNat / 2 ^ 32])

/-- The packet that head words describe (R374). -/
def packetOf (h : List Nat) (data : List PWord) : PacketReq :=
  let w := fun i => h.getD i 0
  let dl : Bool := nbit (w 5) 31
  {
    op := nbits (w 2) 28 4, vn := nbits (w 1) 28 2, lines := nbits (w 2) 22 6 + 1, tag := nbits (w 2) 8 12, mid := BitVec.ofNat 8 (nbits (w 1) 8 8),
    addr := nbits (w 2) 0 8 * 2 ^ 32 + w 3, dest := nbits (w 5) 0 8, deadline := if dl then some (w 4) else none,
    window := if dl && nbit (w 5) 30 then some (nbits (w 5) 24 6, nbits (w 5) 20 4) else none, status := nbits (w 5) 12 4, cause := nbits (w 5) 8 4,
    w7 := w 7, data := data }

/-- Flit places that are free again are returned to the partner (R443). -/
def State.returnCredits (s : State) (k vn n : Nat) : State := s.send (.ewlCredit k ((List.range 4).map (fun i => if i = vn then n else 0)))

/-- The first tag that names no outstanding request of NI `n`. -/
def State.freeTag (s : State) (n : Nat) : Nat :=
  ((List.range 96).find? (fun t => !s.net.outs.any (fun o => o.src == n && o.tag == t))).getD 96

/-- An answer from a member returns to the requester, or comes too late (R447). -/
def State.memberAnswer (s : State) (q : PacketReq) : State :=
  match s.ewl.fwd.find? (fun f => f.pkt.src == q.dest && f.pkt.tag == q.tag) with
  | none => s
  | some f =>
    let t := { s with ewl := { s.ewl with
      fwd := s.ewl.fwd.filter (fun g => !(g.pkt.src == q.dest && g.pkt.tag == q.tag)), lastAns := s.ewl.lastAns.set f.member (some s.stp.now) } }
    if f.late then t.inc (R.EWL_MEMBER_STATUS_LATE_ANSWERS f.member)
    else t.unitAnswer f.pkt q.op q.status q.cause (if q.op = 4 then q.lines else 0) q.data

/-- A whole packet has arrived on link `k` (R444, R446): it enters the Commons, or goes on, or is dropped. None: it cannot
enter yet, and its flits wait. -/
def State.linkPacket (s : State) (k : Nat) (p : EwlPart) : Option State :=
  let q := packetOf p.head p.data
  let w := p.head.getD 15 0
  let target := nbits w 29 3
  let origin := nbits w 26 3
  let hops := nbits w 23 3
  let ni := if k < 3 then 141 else 145
  if target = s.member ∧ s.bit R.EWL_PARISH_IN_PARISH then
    if q.op ≤ 2 then
      let tag := s.freeTag ni
      let t := s.injectRequest ni { q with tag := tag, mid := BitVec.ofNat 8 (0xF0 + origin) }
      if t.net.outs.any (fun o => o.src == ni && o.tag == tag) then
        some { t with ewl := { t.ewl with remote := t.ewl.remote ++ [EwlRemote.mk ni tag origin (nbits (p.head.getD 1 0) 16 8) q.tag] } }
      else if t = s then none
      else
        -- answered by this NI itself: the answer returns at once
        let u := { t with ewl := { t.ewl with remote := t.ewl.remote ++ [EwlRemote.mk ni tag origin (nbits (p.head.getD 1 0) 16 8) q.tag] } }
        some (u.ewlReturn ni {
          id := 0, op := 6, vn := 1, src := ni, dest := ni, tag := tag, mid := 0xF0 + origin, addr := q.addr, lines := 0, epoch := 0,
          base := s.baseUrg ni 1, inj := s.tick, deadline := none, window := q.window,
          status := (match t.ans.status with | .ok => 0 | .lapsed => 1 | .poisoned => 2 | .aborted => 3 | .deadTarget => 4 | .domainClosed => 5),
          cause := t.ans.cause, heading := 0, codes := [], place := .input 0 0 })
    else if q.op ≤ 6 then some (s.memberAnswer q)
    else some s
  else match s.ewlRoute target with
    | none => some (s.inc (R.EWL_DROPS_ROUTE_DROPS k))
    | some j =>
      if hops = 7 ∨ !s.ewlUp j then some (s.inc (R.EWL_DROPS_ROUTE_DROPS k))
      else some (s.ewlSend j target origin (hops + 1)
        {
          id := 0, op := q.op, vn := q.vn, src := nbits (p.head.getD 1 0) 16 8, dest := q.dest, tag := q.tag, mid := q.mid.toNat, addr := q.addr,
          lines := q.lines, epoch := 0, base := nbits (p.head.getD 1 0) 4 4, inj := p.head.getD 6 0, deadline := q.deadline, window := q.window,
          status := q.status, cause := q.cause, heading := 0, codes := [], place := .input 0 0, w7 := q.w7, data := q.data })

/-- EWL_FLIT_RECEIVE (R443 to R446). -/
def execEwlFlitReceive (k : Fin 6) (f : EwlFlit) (s : State) : Outc :=
  let k := k.val
  let vn := f.vn % 4
  let key := 4 * k + vn
  if !s.ewlUp k then .next s
  else
    let ok : Bool := flitCrc f == f.crc
    let isHead : Bool := f.ft % 4 == 0 || f.ft % 4 == 3
    let isLast : Bool := f.ft % 4 == 2 || f.ft % 4 == 3
    if isHead ∧ !ok then .next ((s.inc (R.EWL_COUNTS_CRC_ERR k)).toHunt k)
    else
      let t := if ok then s else s.inc (R.EWL_COUNTS_CRC_ERR k)
      let words : List PWord := f.data.zipIdx.map (fun x => PWord.mk x.1 (!ok || nbit f.mark x.2))
      let part : Option EwlPart := if isHead then some ⟨headOf f.data, []⟩ else (s.ewl.rx.get key).map (fun p => { p with data := p.data ++ words })
      match part with
      | none => .next (t.returnCredits k vn 1)
      | some p =>
        let keep := fun (u : State) (x : Option EwlPart) => { u with ewl := { u.ewl with rx := u.ewl.rx.set key x } }
        if !isLast then .next (keep t (some p))
        else match (keep t none).linkPacket k p with
          | some u => .next (u.returnCredits k vn (1 + (p.data.length + 7) / 8))
          | none => .next s

/-- EWL_CREDIT_RECEIVE (R443). -/
def execEwlCreditReceive (k : Fin 6) (payload : DWord) (s : State) : Outc :=
  let k := k.val
  if !s.ewlUp k then .next s
  else .next ((List.range 4).foldl (fun t vn =>
    State.pumpTx { t with ewl := { t.ewl with credits := t.ewl.credits.modify (4 * k + vn) (fun c => c + dbits payload (8 + 8 * vn) 8) } } k vn) s)

/-- 3.5 µs in units of 2^-16 ns. -/
def ewlLimit : Nat := 3500 * 65536

/-- EWL_REQUEST_TIMEOUT (R447). -/
def execEwlRequestTimeout (i : Nat) (s : State) : Outc :=
  match s.ewl.fwd[i]? with
  | none => .next s
  | some f =>
    if f.late ∨ s.stp.now < f.tick + ewlLimit then .next s
    else
      let heard : Bool := match s.ewl.lastAns.get f.member with
        | some t => decide (s.stp.now < t + ewlLimit)
        | none => false
      let t := { s with ewl := { s.ewl with fwd := s.ewl.fwd.set i { f with late := true } } }
      let u := (t.inc (R.EWL_MEMBER_STATUS_TIMEOUTS f.member)).unitAnswer f.pkt 6 4 2 0 []
      .next (if heard then u else u.wr (R.EWL_MEMBER_STATUS_REMOTE_DEAD f.member) 1)

/-- EWL_MEMBER_REVIVE (R447). -/
def execEwlMemberRevive (d : Fin 8) (s : State) : Outc := .next (s.wr (R.EWL_MEMBER_STATUS_REMOTE_DEAD d.val) 0)

/-! ## Time transfer (R449, R450) -/

/-- A quotient in whole units; where it is not whole R450 gives no rounding. -/
def ewlQuot (num den : Int) : Int := if num % den = 0 then num / den else Config.ewlRound num den

/-- EWL_TIME_RECEIVE: with both TIME blocks of a marker period and matching COUNT values, offset and delay (R450). -/
def execEwlTimeReceive (k : Fin 6) (payload : DWord) (s : State) : Outc :=
  let k := k.val
  let x := s.elink k
  if payload.toNat % 256 ≠ 0x87 ∨ s.ewlSt k = 0 ∨ ¬ s.bit (R.EWL_CFG_TIME_EN k) then .next s
  else
    let e := some (dbits payload 9 8, dbits payload 17 40)
    let y : EwlLink := if dbits payload 8 1 = 0 then { x with t3 := e } else { x with t2 := e }
    let t := s.setElink k y
    match y.t3, y.t2, y.rcv with
    | some a, some b, some r =>
      match y.sent.find? (fun m => m.1 == b.1) with
      | some m =>
        if a.1 = r.1 ∧ s.ewlUp k then
          let back := sext 40 (r.2 + 2 ^ 40 - a.2)
          let out := sext 40 (b.2 + 2 ^ 40 - m.2)
          let asym := sext 32 (s.rd (R.EWL_TIME_ASYM k))
          let off := ewlQuot ((back - out) * 1000 - asym * 64) 2000
          let del := ewlQuot (out + back) 2
          .next (((t.wr (R.EWL_TIME_OFFSET k) (trunc 32 off)).wr (R.EWL_TIME_DELAY k) (trunc 32 del)).wr (R.EWL_STATUS_TIME_VALID k) 1)
        else .next (t.wr (R.EWL_STATUS_TIME_VALID k) 0)
      | none => .next (t.wr (R.EWL_STATUS_TIME_VALID k) 0)
    | _, _, _ => .next t

/-! ## Radio streams (R452, R453) -/

/-- EWL_STREAM_RECEIVE: the burst is handed to the Sieve, or discarded. -/
def execEwlStreamReceive (k : Fin 6) (payload : DWord) (x : List Sample) (s : State) : Outc :=
  let k := k.val
  let st := dbits payload 8 6
  if !s.ewlUp k ∨ s.rd (R.EWL_CFG_MODE k) ≠ 1 then .next s
  else if ¬ s.bit (R.EWL_STREAM_CFG_EN st) ∨ s.bit (R.EWL_STREAM_CFG_DIR st) ∨ s.rd (R.EWL_STREAM_CFG_LINK st) ≠ k then .next (s.inc (R.EWL_DROPS_STREAM_DROPS k))
  else
    let n := 2 * (dbits payload 47 9 + 1)
    .next { s with ewl := { s.ewl with bursts := s.ewl.bursts ++ [⟨st, dbits payload 14 10, dbits payload 24 23, x.take n⟩] } }

def sampleBits (x : Sample) : Nat := x.re.toNat + x.im.toNat * 65536

/-- The data blocks of a burst: two samples each, POISON where one is poisoned (R453). -/
def streamBlocks : List Sample → List (Nat × DWord)
  | a :: b :: r => (if a.bad || b.bad then (2, 0xB4) else (1, BitVec.ofNat 64 (sampleBits a + sampleBits b * 2 ^ 32))) :: streamBlocks r
  | [a] => [if a.bad then (2, 0xB4) else (1, BitVec.ofNat 64 (sampleBits a))]
  | [] => []

/-- EWL_STREAM_SEND: a burst that the Sieve has handed over is sent whole (R453). -/
def execEwlStreamSend (st : Fin 64) (s : State) : Outc :=
  let st := st.val
  let k := s.rd (R.EWL_STREAM_CFG_LINK st)
  match s.sv.out.find? (fun o => o.kind == 1 && o.port == st) with
  | none => .next s
  | some o =>
    if ¬ s.bit (R.EWL_STREAM_CFG_EN st) ∨ ¬ s.bit (R.EWL_STREAM_CFG_DIR st) ∨ !s.ewlUp k ∨ s.rd (R.EWL_CFG_MODE k) ≠ 1 then .next s
    else
      let b := streamBlocks o.data
      let h : DWord := BitVec.ofNat 64 (0x78 + st * 2 ^ 8 + o.sfn * 2 ^ 14 + o.index * 2 ^ 24 + (b.length - 1) * 2 ^ 47)
      .next (State.send { s with sv := { s.sv with out := s.sv.out.erase o } } (.ewlBlocks k 0 ((2, h) :: b)))

/-! ## Test patterns, margining (R454, R455) -/

/-- One received bit at the checker: 64 clean bits lock, 8 errors within 64 bits unlock. -/
def State.prbsBit (s : State) (l : Nat) (e : Bool) : State :=
  let x := s.laneRx l
  let locked := s.bit (R.LANE_STATUS_PRBS_LOCK l)
  let h := (e :: x.phist).take 64
  if locked then
    let t := if e then s.incSat (R.LANE_PRBS_ERR l) else s
    if 8 ≤ (h.filter id).length then (t.setLane l { x with prun := 0, phist := [] }).wr (R.LANE_STATUS_PRBS_LOCK l) 0
    else t.setLane l { x with phist := h }
  else
    let n := if e then 0 else x.prun + 1
    if 64 ≤ n then (s.setLane l { x with prun := 0, phist := [] }).wr (R.LANE_STATUS_PRBS_LOCK l) 1
    else s.setLane l { x with prun := n }

/-- PRBS_CHECK_LOCK (R454). -/
def execPrbsCheckLock (l : Fin 48) (bits : List Bool) (s : State) : Outc :=
  if s.rd (R.LANE_CFG_RX_PAT l.val) = 0 then .next s else .next (bits.foldl (fun t e => t.prbsBit l.val e) s)

/-- MARGIN_START (R455). -/
def execMarginStart (l : Fin 48) (v : Word) (s : State) : Outc :=
  let l := l.val
  let t := s.wrWord v [R.LANE_MARGIN_CTRL_EYE l, R.LANE_MARGIN_CTRL_DWELL_LOG2 l, R.LANE_MARGIN_CTRL_H_OFF l, R.LANE_MARGIN_CTRL_V_OFF l]
  if bitOf v 31 then .next ((t.wr (R.LANE_MARGIN_CTRL_START l) 1).wr (R.LANE_MARGIN_RESULT_DONE l) 0) else .next t

/-- MARGIN_END (R455). -/
def execMarginEnd (l : Fin 48) (n : Nat) (s : State) : Outc :=
  let l := l.val
  if s.bit (R.LANE_MARGIN_CTRL_START l) then
    .next (((s.wr (R.LANE_MARGIN_RESULT_MISMATCH l) (min n (2 ^ 31 - 1))).wr (R.LANE_MARGIN_RESULT_DONE l) 1).wr (R.LANE_MARGIN_CTRL_START l) 0)
  else .next s

end Sys2Proof.Machine
end

