-- ==== Sys2Proof/Machine/Flags.lean ====
section
/-! DEFINITION. Machine/Flags.lean: fixed-point rounding and range fitting with their sticky flags (R108, R109), and
floating point with its exception flags: round to nearest with ties toward +∞, subnormals as zero (R115).
Choices of the model: log entries 9 (PRESUMED), 30 (DEDUCED). -/

namespace Sys2Proof.Machine

/-- Shift `x` right by `s` with round half up; `s ≤ 0` shifts left (R109). -/
def rshr (x : Int) (s : Int) : Int :=
  if 0 < s then (x + 2 ^ (s.toNat - 1)) / 2 ^ s.toNat else x * 2 ^ (-s).toNat

/-- `y` lies outside a `w`-bit two's complement value. -/
def outside (y : Int) (w : Nat) : Bool := decide (y > 2 ^ (w - 1) - 1) || decide (y < -(2 ^ (w - 1)))

/-- The value of fit(y, w, sat); DP_STATUS.OVF sets where `outside y w` (R109). -/
def fit (y : Int) (w : Nat) (sat : Bool) : Int :=
  if outside y w && sat then (if y > 0 then 2 ^ (w - 1) - 1 else -(2 ^ (w - 1)))
  else (y + 2 ^ (w - 1)) % 2 ^ w - 2 ^ (w - 1)

/-! ## Floating point -/

/-- A format: exponent bits and fraction bits. -/
structure Fmt where
  eb : Nat
  mb : Nat
deriving DecidableEq, Repr

def fp16 : Fmt := ⟨5, 10⟩
def fp32 : Fmt := ⟨8, 23⟩
def fp64 : Fmt := ⟨11, 52⟩

def Fmt.width (f : Fmt) : Nat := 1 + f.eb + f.mb
def Fmt.bias (f : Fmt) : Int := 2 ^ (f.eb - 1) - 1
def Fmt.qnan (f : Fmt) : Nat := (2 ^ f.eb - 1) * 2 ^ f.mb + 2 ^ (f.mb - 1)
def Fmt.inf (f : Fmt) (neg : Bool) : Nat := (if neg then 2 ^ (f.eb + f.mb) else 0) + (2 ^ f.eb - 1) * 2 ^ f.mb
def Fmt.zero (f : Fmt) (neg : Bool) : Nat := if neg then 2 ^ (f.eb + f.mb) else 0

/-- A value: a NaN (signalling or not), an infinity, or sign, magnitude and exponent of two. -/
inductive Fp where
  | nan (sig : Bool)
  | inf (neg : Bool)
  | fin (neg : Bool) (m : Nat) (e : Int)
deriving DecidableEq, Repr

/-- Flags as FP_FLAGS places them: DI 32, NV 16, DZ 8, OF 4, UF 2, NX 1. -/
structure FpR where
  bits : Nat
  fl : Nat := 0
deriving DecidableEq, Repr

def orFl (a b : Nat) : Nat := Nat.lor a b

/-- Read an operand: a subnormal reads as zero of its sign and sets DI. -/
def Fmt.unpack (f : Fmt) (x : Nat) : Fp × Nat :=
  let neg := decide (x / 2 ^ (f.eb + f.mb) % 2 = 1)
  let e := x / 2 ^ f.mb % 2 ^ f.eb
  let m := x % 2 ^ f.mb
  if e = 2 ^ f.eb - 1 then
    (if m = 0 then (.inf neg, 0) else (.nan (decide (m < 2 ^ (f.mb - 1))), 0))
  else if e = 0 then (.fin neg 0 0, if m = 0 then 0 else 32)
  else (.fin neg (2 ^ f.mb + m) ((e : Int) - f.bias - (f.mb : Int)), 0)

/-- Round the exact value ± (num / den) · 2^e, num > 0: to nearest, ties toward +∞; overflow to infinity; a result that
would be subnormal becomes zero of its sign (R115). -/
def Fmt.round (f : Fmt) (neg : Bool) (num den : Nat) (e : Int) : FpR :=
  let k0 : Int := (Nat.log2 num : Int) - (Nat.log2 den : Int)
  let ge := fun k : Int => if 0 ≤ k then decide (den * 2 ^ k.toNat ≤ num) else decide (den ≤ num * 2 ^ (-k).toNat)
  let k := if ge k0 then k0 else k0 - 1
  let sh := (f.mb : Int) - k
  let n := if 0 ≤ sh then num * 2 ^ sh.toNat else num
  let d := if 0 ≤ sh then den else den * 2 ^ (-sh).toNat
  let q := n / d
  let r := n % d
  let up := decide (d < 2 * r) || (decide (2 * r = d) && !neg)
  let q1 := if up then q + 1 else q
  let top := decide (q1 = 2 ^ (f.mb + 1))
  let ex := (if top then k + 1 else k) + e + f.bias
  let q2 := if top then 2 ^ f.mb else q1
  let nx := if r = 0 then 0 else 1
  if (2 ^ f.eb - 1 : Int) ≤ ex then ⟨f.inf neg, 5⟩
  else if ex ≤ 0 then ⟨f.zero neg, 3⟩
  else ⟨f.zero neg + ex.toNat * 2 ^ f.mb + (q2 - 2 ^ f.mb), nx⟩

/-- Round an exact sum of signed magnitude `x · 2^e`; an exact zero takes the sign given. -/
def Fmt.roundInt (f : Fmt) (x : Int) (e : Int) (zneg : Bool) : FpR :=
  if x = 0 then ⟨f.zero zneg, 0⟩ else f.round (decide (x < 0)) x.natAbs 1 e

def Fp.isNan : Fp → Bool
  | .nan _ => true
  | _ => false
def Fp.isSig : Fp → Bool
  | .nan true => true
  | _ => false

def signed (neg : Bool) (m : Nat) : Int := if neg then -(m : Int) else (m : Int)

/-- fadd of two read values. -/
def Fmt.addV (f : Fmt) (a b : Fp) : FpR :=
  match a, b with
  | .nan _, _ => ⟨f.qnan, if a.isSig || b.isSig then 16 else 0⟩
  | _, .nan _ => ⟨f.qnan, if a.isSig || b.isSig then 16 else 0⟩
  | .inf x, .inf y => if x = y then ⟨f.inf x, 0⟩ else ⟨f.qnan, 16⟩
  | .inf x, _ => ⟨f.inf x, 0⟩
  | _, .inf y => ⟨f.inf y, 0⟩
  | .fin n1 m1 e1, .fin n2 m2 e2 =>
    let e := if m1 = 0 then e2 else if m2 = 0 then e1 else min e1 e2
    let x := signed n1 m1 * 2 ^ (e1 - e).toNat + signed n2 m2 * 2 ^ (e2 - e).toNat
    f.roundInt x e (n1 && n2)

def Fp.neg : Fp → Fp
  | .nan s => .nan s
  | .inf n => .inf !n
  | .fin n m e => .fin (!n) m e

/-- The exact product, or a NaN with its NV flag. -/
def Fp.mulExact (a b : Fp) : Fp × Nat :=
  match a, b with
  | .nan _, _ => (.nan false, if a.isSig || b.isSig then 16 else 0)
  | _, .nan _ => (.nan false, if a.isSig || b.isSig then 16 else 0)
  | .inf x, .inf y => (.inf (x != y), 0)
  | .inf x, .fin y m _ => if m = 0 then (.nan false, 16) else (.inf (x != y), 0)
  | .fin x m _, .inf y => if m = 0 then (.nan false, 16) else (.inf (x != y), 0)
  | .fin x m e, .fin y n g => (.fin (x != y) (m * n) (e + g), 0)

def Fmt.mulV (f : Fmt) (a b : Fp) : FpR :=
  match Fp.mulExact a b with
  | (.nan _, fl) => ⟨f.qnan, fl⟩
  | (.inf n, _) => ⟨f.inf n, 0⟩
  | (.fin n m e, _) => f.roundInt (signed n m) e n

/-- c + a·b with one rounding. -/
def Fmt.fmaV (f : Fmt) (c a b : Fp) : FpR :=
  match Fp.mulExact a b with
  | (.nan _, fl) => ⟨f.qnan, if c.isSig then 16 else fl⟩
  | (p, _) => f.addV c p

def Fmt.divV (f : Fmt) (a b : Fp) : FpR :=
  match a, b with
  | .nan _, _ => ⟨f.qnan, if a.isSig || b.isSig then 16 else 0⟩
  | _, .nan _ => ⟨f.qnan, if a.isSig || b.isSig then 16 else 0⟩
  | .inf _, .inf _ => ⟨f.qnan, 16⟩
  | .inf x, .fin y _ _ => ⟨f.inf (x != y), 0⟩
  | .fin x _ _, .inf y => ⟨f.zero (x != y), 0⟩
  | .fin x m e, .fin y n g =>
    if n = 0 then (if m = 0 then ⟨f.qnan, 16⟩ else ⟨f.inf (x != y), 8⟩)
    else if m = 0 then ⟨f.zero (x != y), 0⟩
    else f.round (x != y) m n (e - g)

/-- The integer square root of `n`, found bit by bit from bit `k`. -/
def isqrtFrom (n : Nat) : Nat → Nat → Nat
  | 0, r => r
  | k + 1, r =>
    let t := r + 2 ^ k
    isqrtFrom n k (if t * t ≤ n then t else r)

def isqrt (n : Nat) : Nat := isqrtFrom n (Nat.log2 n / 2 + 1) 0

def Fmt.sqrtV (f : Fmt) (a : Fp) : FpR :=
  match a with
  | .nan s => ⟨f.qnan, if s then 16 else 0⟩
  | .inf n => if n then ⟨f.qnan, 16⟩ else ⟨f.inf false, 0⟩
  | .fin n m e =>
    if m = 0 then ⟨f.zero n, 0⟩
    else if n then ⟨f.qnan, 16⟩
    else
      let up := 2 * f.mb + 8
      let odd := decide (e % 2 = 1)
      let m1 := m * 2 ^ (up + if odd then 1 else 0)
      let e1 := e - (up : Int) - (if odd then 1 else 0)
      let r := isqrt m1
      let sticky := if r * r = m1 then 0 else 1
      f.round false (2 * r + sticky) 2 (e1 / 2)

/-- Order of two values that are not NaN: less, equal, greater. -/
def Fp.key : Fp → Int × Int → Int
  | .nan _, _ => 0
  | .inf n, (_, big) => if n then -big else big
  | .fin n m e, (lo, _) => signed n m * 2 ^ (e - lo).toNat

/-- The least exponent of two values, and a bound above both. -/
def cmpScale (a b : Fp) : Int × Int :=
  let ex := fun x : Fp => match x with | .fin _ _ e => e | _ => 0
  let lo := min (ex a) (ex b)
  let mg := fun x : Fp => match x with | .fin _ m e => (m : Int) * 2 ^ (e - lo).toNat | _ => 0
  (lo, mg a + mg b + 1)

def Fp.lt (a b : Fp) : Bool := let c := cmpScale a b; !a.isNan && !b.isNan && decide (a.key c < b.key c)
def Fp.eq (a b : Fp) : Bool := let c := cmpScale a b; !a.isNan && !b.isNan && decide (a.key c = b.key c)

def Fp.isNeg : Fp → Bool
  | .fin n _ _ => n
  | .inf n => n
  | .nan _ => false

/-- Write a value that the format holds exactly. -/
def Fmt.pack (f : Fmt) (a : Fp) : FpR :=
  match a with
  | .nan s => ⟨f.qnan, if s then 16 else 0⟩
  | .inf n => ⟨f.inf n, 0⟩
  | .fin n m e => f.roundInt (signed n m) e n

/-- fmin (`mx` false) and fmax: a NaN yields the other operand, −0 is below +0 (R116). -/
def Fmt.minMaxV (f : Fmt) (mx : Bool) (a b : Fp) : FpR :=
  let nv := if a.isSig || b.isSig then 16 else 0
  if a.isNan && b.isNan then ⟨f.qnan, nv⟩
  else if a.isNan then ⟨(f.pack b).bits, nv⟩
  else if b.isNan then ⟨(f.pack a).bits, nv⟩
  else
    let less := a.lt b || (a.eq b && a.isNeg && !b.isNeg)
    ⟨(f.pack (if less != mx then a else b)).bits, nv⟩

/-- A floating-point value rounded to a signed integer by R115, its flags, and whether `fit` left the range. -/
def Fp.toInt32 (a : Fp) : Int × Nat × Bool :=
  match a with
  | .nan _ => (0, 16, false)
  | .inf n => (if n then -(2 ^ 31) else 2 ^ 31 - 1, 16, true)
  | .fin n m e =>
    let x := signed n m
    let y := rshr x (-e)
    let exact_ := decide (0 ≤ e) || decide (m % 2 ^ (-e).toNat = 0)
    if outside y 32 then (fit y 32 true, 16, true) else (y, if exact_ then 0 else 1, false)

/-- The two-operand operations fadd, fsub, fmul, fdiv, fsqrt, fmin, fmax by FUNC 0 to 6 (R116). -/
def Fmt.op2 (f : Fmt) (func : Nat) (x y : Nat) : FpR :=
  let a := f.unpack x
  let b := f.unpack y
  let r := match func with
    | 0 => f.addV a.1 b.1
    | 1 => f.addV a.1 b.1.neg
    | 2 => f.mulV a.1 b.1
    | 3 => f.divV a.1 b.1
    | 4 => f.sqrtV a.1
    | 5 => f.minMaxV false a.1 b.1
    | _ => f.minMaxV true a.1 b.1
  ⟨r.bits, orFl r.fl (orFl a.2 (if func = 4 then 0 else b.2))⟩

/-- fmadd and fmsub: fD ± fA · fB with one rounding. -/
def Fmt.op3 (f : Fmt) (sub : Bool) (d x y : Nat) : FpR :=
  let c := f.unpack d
  let a := f.unpack x
  let b := f.unpack y
  let r := f.fmaV c.1 (if sub then a.1.neg else a.1) b.1
  ⟨r.bits, orFl r.fl (orFl c.2 (orFl a.2 b.2))⟩

/-- feq, flt, fle, fun by k 0 to 3: the relation and its flags (R116). -/
def Fmt.cmp (f : Fmt) (k x y : Nat) : Bool × Nat :=
  let a := f.unpack x
  let b := f.unpack y
  let di := orFl a.2 b.2
  let anyNan := a.1.isNan || b.1.isNan
  let nv := if k = 0 then a.1.isSig || b.1.isSig else if k = 3 then false else anyNan
  let r := match k with
    | 0 => a.1.eq b.1
    | 1 => a.1.lt b.1
    | 2 => a.1.lt b.1 || a.1.eq b.1
    | _ => anyNan
  (r, orFl di (if nv then 16 else 0))

/-- Convert from one format to another. -/
def Fmt.convert (src dst : Fmt) (x : Nat) : FpR :=
  let a := src.unpack x
  let r := dst.pack a.1
  ⟨r.bits, orFl r.fl a.2⟩

def Fmt.ofInt (f : Fmt) (x : Int) : FpR := f.roundInt x 0 false

end Sys2Proof.Machine
end

