-- ==== Sys2Proof/Machine/Operands.lean ====
section
/-! DEFINITION. Machine/Operands.lean: the fields of a Horty syllable, the registers they name with their poison tags,
and the effects a syllable gathers before its sheaf commits (R60 to R70). -/

namespace Sys2Proof.Machine

/-! ## Fields (R67) -/

def syEnd (w : Word) : Bool := w.getLsbD 31
def syPred (w : Word) : Nat := bitsOf w 28 3
def syPneg (w : Word) : Bool := w.getLsbD 27
def syMajor (w : Word) : Nat := bitsOf w 21 6
def syD (w : Word) : Nat := bitsOf w 16 5
def syA (w : Word) : Nat := bitsOf w 11 5
def syB (w : Word) : Nat := bitsOf w 6 5
def syFunc (w : Word) : Nat := bitsOf w 0 6
def syImm11 (w : Word) : Int := sext 11 (bitsOf w 0 11)
def syImm16 (w : Word) : Int := sext 16 (bitsOf w 0 16)
def sySize (w : Word) : Nat := bitsOf w 9 2
def syOff9 (w : Word) : Int := sext 9 (bitsOf w 0 9)
def syOff21 (w : Word) : Int := sext 21 (bitsOf w 0 21)

/-! ## Cores and registers -/

def State.core (s : State) (k : Nat) : Core := s.cores.get k
def State.setCore (s : State) (k : Nat) (c : Core) : State := { s with cores := s.cores.set k c }
def State.modCore (s : State) (k : Nat) (f : Core → Core) : State := s.setCore k (f (s.core k))

/-- Cores 0 to 143 are Horty-D (R59). -/
def isD (k : Nat) : Bool := decide (k < 144)
def xlen (k : Nat) : Nat := if isD k then 32 else 64

def Core.gv (c : Core) (n : Nat) : Nat := if n = 0 then 0 else (c.g.get n).toNat
def Core.gtag (c : Core) (n : Nat) : Bool := n != 0 && c.gt.get n
def Core.pv (c : Core) (n : Nat) : BitVec 128 := if n = 0 then BitVec.allOnes 128 else c.p.get n
def Core.ptag (c : Core) (n : Nat) : Bool := n != 0 && c.pt.get n
def Core.av (c : Core) (n : Nat) : Accu := c.a.get n
def Core.atag (c : Core) (n : Nat) : Bool := c.aT.get n
def Core.vv (c : Core) (n : Nat) : BitVec 1024 := c.v.get n
def Core.vtag (c : Core) (n : Nat) : BitVec 16 := c.vt.get n
/-- f registers: the first granule of v on Horty-D, registers of their own on Horty-S (R61, R63). -/
def Core.fv (c : Core) (d : Bool) (n : Nat) : Nat := if d then ((c.vv n).extractLsb' 0 64).toNat else (c.f.get n).toNat
def Core.ftag (c : Core) (d : Bool) (n : Nat) : Bool := if d then (c.vtag n).getLsbD 0 else c.ft.get n
/-- A control register held by number. -/
def Core.cr (c : Core) (n : Nat) : Nat := (c.ctrl.get n).toNat
def Core.setCr (c : Core) (n v : Nat) : Core := { c with ctrl := c.ctrl.set n (BitVec.ofNat 64 v) }

/-- One register that a syllable writes. -/
inductive RegW where
  | g (n : Nat) (v : Nat) (t : Bool)
  | p (n : Nat) (v : BitVec 128) (t : Bool)
  | a (n : Nat) (v : Accu) (t : Bool)
  | v (n : Nat) (x : BitVec 1024) (t : BitVec 16)
  | f (n : Nat) (v : Nat) (t : Bool)
  | cr (n : Nat) (v : Nat)
deriving DecidableEq, Repr

/-- Write one register; writes to g0 and p0 are ignored (R62); a write of f changes the first granule of v (R63). -/
def Core.write (c : Core) (k : Nat) (r : RegW) : Core :=
  match r with
  | .g n x t => if n = 0 then c else { c with g := c.g.set n (BitVec.ofNat 64 (x % 2 ^ xlen k)), gt := c.gt.set n t }
  | .p n x t => if n = 0 then c else { c with p := c.p.set n (if isD k then x else x &&& 1), pt := c.pt.set n t }
  | .a n x t => { c with a := c.a.set n x, aT := c.aT.set n t }
  | .v n x t => { c with v := c.v.set n x, vt := c.vt.set n t }
  | .f n x t =>
    if isD k then
      let old := c.vv n
      let w := (old >>> 64 <<< 64) ||| BitVec.ofNat 1024 (x % 2 ^ 64)
      let tg := (c.vtag n &&& 0xFFFE) ||| (if t then 1 else 0)
      { c with v := c.v.set n w, vt := c.vt.set n tg }
    else { c with f := c.f.set n (BitVec.ofNat 64 x), ft := c.ft.set n t }
  | .cr n x => c.setCr n x

def Core.writes (c : Core) (k : Nat) (rs : List RegW) : Core := rs.foldl (fun d r => d.write k r) c

/-! ## Traps and effects -/

/-- A synchronous cause with its TVAL and the poison use it reports (R75, R98). -/
structure Trap where
  code : Nat
  tval : Nat := 0
  use : Nat := 0
  file : Nat := 0
  reg : Nat := 0
  slot : Nat := 0
  fpFlags : Nat := 0
  qcause : Nat := 0
deriving DecidableEq, Repr

def regSetCode : RegSet → Nat
  | .g => 0
  | .p => 1
  | .a => 2
  | .v => 3
  | .f => 3

/-- A bite of use code `u` by a register (R98). -/
def bite (u tval : Nat) (file : RegSet) (r : Nat) : Trap := { code := 11, tval := tval, use := u, file := regSetCode file, reg := r }

/-- What an executing syllable does outside registers. -/
inductive Act where
  | none
  | goto (pc : Nat)
  | sys
  | brk
  | tret
  | iflip (pc : Nat)
  | done (variant : Nat)
  | fenceC
  | fence (mask : Nat)
  | load (x : Access)
  | acquire (x : Access)
  | store (x : Access)
  | atomic (x : Access) (op : AtomOp) (cmp : Nat) (b : Nat) (bt : Bool)
  | vload (target : Nat) (elems : List (Nat × Nat)) (ew : Nat) (dst : Nat) (fault : Option (Nat × Trap)) (own : Bool)
  | vstore (elems : List (Nat × Nat × Nat × Bool)) (ew : Nat) (fault : Option (Nat × Trap)) (own : Bool)
  | maint (op : SysOp) (addr bus : Nat) (va asid : Nat)
  | qlock (d : Nat)
  | qfree
  | qsync
  | qabort
  | qjob (op fmt x y z : Nat)
deriving DecidableEq, Repr

/-- The effects of one syllable: registers written, sticky DP_STATUS bits, floating-point flags, and its act. -/
structure Eff where
  ws : List RegW := []
  ovf : Bool := false
  aov : Bool := false
  fl : Nat := 0
  act : Act := .none
deriving DecidableEq, Repr

/-- What a syllable sees when its sheaf issues. -/
structure Ctx where
  k : Nat
  c : Core
  w : Word
  pc : Nat
  next : Nat
deriving DecidableEq, Repr

abbrev Res := Except Trap Eff

def Ctx.d (x : Ctx) : Bool := isD x.k
def Ctx.xl (x : Ctx) : Nat := xlen x.k
/-- ILLEGAL_SYLLABLE, whose TVAL is the syllable (R75). -/
def Ctx.illegal (x : Ctx) : Res := .error { code := 1, tval := x.w.toNat }
def Ctx.privilege (x : Ctx) : Res := .error { code := 3, tval := x.w.toNat }
def Ctx.ga (x : Ctx) : Nat := x.c.gv (syA x.w)
def Ctx.gb (x : Ctx) : Nat := x.c.gv (syB x.w)
def Ctx.ta (x : Ctx) : Bool := x.c.gtag (syA x.w)
def Ctx.tb (x : Ctx) : Bool := x.c.gtag (syB x.w)
/-- A result in gD. -/
def Ctx.toG (x : Ctx) (v : Int) (t : Bool) : Eff := { ws := [.g (syD x.w) (trunc x.xl v) t] }

end Sys2Proof.Machine
end

