-- ==== Sys2Proof/Machine/HortyScalar.lean ====
section
/-! DEFINITION. Machine/HortyScalar.lean: the integer, floating-point and multiply-accumulate syllables (chapter 04).
Choices of the model: log entries 30 (DEDUCED). -/

namespace Sys2Proof.Machine

/-! ## Integer unit (R110 to R114) -/

/-- A c16 word from its halves. -/
def c16 (re im : Int) : Nat := trunc 16 re + trunc 16 im * 65536
def lo16 (v : Nat) : Int := sext 16 (v % 65536)
def hi16 (v : Nat) : Int := sext 16 (v / 65536 % 65536)

def clzN (xl v : Nat) : Nat := if v % 2 ^ xl = 0 then xl else xl - 1 - Nat.log2 (v % 2 ^ xl)
def popcN : Nat → Nat → Nat
  | 0, _ => 0
  | n + 1, v => v % 2 + popcN n (v / 2)

def minI (a b : Int) : Int := if a ≤ b then a else b
def maxI (a b : Int) : Int := if a ≤ b then b else a

/-- Signed and unsigned division by R111: quotient and remainder. -/
def divRem (xl : Nat) (signed_ : Bool) (a b : Nat) : Int × Int :=
  let x : Int := if signed_ then sext xl a else (a : Int)
  let y : Int := if signed_ then sext xl b else (b : Int)
  if b = 0 then (-1, x)
  else if signed_ ∧ x = -(2 ^ (xl - 1)) ∧ y = -1 then (x, 0)
  else (Int.tdiv x y, Int.tmod x y)

/-- Two halves through fit(·, 16, 1); whether either left the range. -/
def c16Fit (re im : Int) (xl : Nat) : Int × Bool :=
  (if xl = 64 then sext 32 (c16 (fit re 16 true) (fit im 16 true)) else (c16 (fit re 16 true) (fit im 16 true) : Int),
   outside re 16 || outside im 16)

/-- MAJOR 0x00 (R111): the result and whether fit left its range. -/
def aluRR (xl func a b : Nat) : Option (Int × Bool) :=
  let sa := sext xl a
  let sb := sext xl b
  let n := b % xl
  let fitR := fun y : Int => some (fit y xl true, outside y xl)
  match func with
  | 0x00 => some (sa + sb, false)
  | 0x01 => some (sa - sb, false)
  | 0x02 => some ((Nat.land a b : Nat), false)
  | 0x03 => some ((Nat.lor a b : Nat), false)
  | 0x04 => some ((Nat.xor a b : Nat), false)
  | 0x05 => some ((Nat.land a (2 ^ xl - 1 - b % 2 ^ xl) : Nat), false)
  | 0x06 => some ((a * 2 ^ n : Nat), false)
  | 0x07 => some ((a / 2 ^ n : Nat), false)
  | 0x08 => some (sa / 2 ^ n, false)
  | 0x09 => some (rshr sa n, false)
  | 0x0A => some (sa * sb, false)
  | 0x0B => some (sa * sb / 2 ^ xl, false)
  | 0x0C => some ((a * b / 2 ^ xl : Nat), false)
  | 0x0D => some ((divRem xl true a b).1, false)
  | 0x0E => some ((divRem xl false a b).1, false)
  | 0x0F => some ((divRem xl true a b).2, false)
  | 0x10 => some ((divRem xl false a b).2, false)
  | 0x11 => some (minI sa sb, false)
  | 0x12 => some (maxI sa sb, false)
  | 0x13 => some ((min a b : Nat), false)
  | 0x14 => some ((max a b : Nat), false)
  | 0x15 => fitR (sa + sb)
  | 0x16 => fitR (sa - sb)
  | 0x17 => fitR (sa.natAbs : Int)
  | 0x18 => some ((clzN xl a : Nat), false)
  | 0x19 => some (((if sa < 0 then clzN xl (2 ^ xl - 1 - a) else clzN xl a) - 1 : Nat), false)
  | 0x1A => some ((popcN xl a : Nat), false)
  | 0x1B => some (c16Fit (lo16 a + lo16 b) (hi16 a + hi16 b) xl)
  | 0x1C => some (c16Fit (lo16 a - lo16 b) (hi16 a - hi16 b) xl)
  | 0x1D => some (c16Fit (lo16 a) (-(hi16 a)) xl)
  | _ => none

def aluUnary (func : Nat) : Bool := func == 0x17 || func == 0x18 || func == 0x19 || func == 0x1A || func == 0x1D

/-- A compare: 0 eq, 1 ne, 2 lt, 3 ge, 4 ltu, 5 geu (R110). -/
def cmpRel (k : Nat) (sa sb : Int) (a b : Nat) : Option Bool :=
  match k with
  | 0 => some (decide (a = b))
  | 1 => some (decide (a ≠ b))
  | 2 => some (decide (sa < sb))
  | 3 => some (decide (sb ≤ sa))
  | 4 => some (decide (a < b))
  | 5 => some (decide (b ≤ a))
  | _ => none

/-- Every bit of a predicate equal to `b` (R112). -/
def allP (b : Bool) : BitVec 128 := if b then BitVec.allOnes 128 else 0

def bitrevN : Nat → Nat → Nat
  | 0, _ => 0
  | n + 1, v => v % 2 * 2 ^ n + bitrevN n (v / 2)

/-- brinc.s (R114). -/
def brinc (a b s : Nat) : Nat :=
  let n := min (b % 32) 16
  if n = 0 then a
  else
    let fld := a / 2 ^ s % 2 ^ n
    let nf := bitrevN n ((bitrevN n fld + 1) % 2 ^ n)
    a - fld * 2 ^ s + nf * 2 ^ s

/-- addc.k (R114). -/
def addcirc (base len a : Nat) (b : Int) : Int :=
  if len = 0 then (a : Int) + b else (base : Int) + ((a : Int) - (base : Int) + b) % (len : Int)

def Ctx.pd (x : Ctx) (v : BitVec 128) (t : Bool) : Res :=
  if syD x.w / 8 ≠ 0 then x.illegal else .ok { ws := [.p (syD x.w % 8) v t] }

/-- MAJOR 0x0B: predicate logic (R113). -/
def Ctx.predLogic (x : Ctx) : Res :=
  let a := syA x.w
  let b := syB x.w
  let pa := x.c.pv (a % 8)
  let pb := x.c.pv (b % 8)
  let ta := x.c.ptag (a % 8)
  let tb := x.c.ptag (b % 8)
  let bin := fun v => if a / 8 ≠ 0 ∨ b / 8 ≠ 0 then x.illegal else x.pd v (ta || tb)
  let un := fun v => if a / 8 ≠ 0 ∨ b ≠ 0 then x.illegal else x.pd v ta
  match syFunc x.w with
  | 0 => bin (pa &&& pb)
  | 1 => bin (pa ||| pb)
  | 2 => bin (pa ^^^ pb)
  | 3 => bin (pa &&& ~~~pb)
  | 4 => un (~~~pa)
  | 5 => un pa
  | 6 => if a / 8 ≠ 0 ∨ b ≠ 0 then x.illegal else .ok (x.toG (if pa.getLsbD 0 then 1 else 0) ta)
  | 7 => if b ≠ 0 then x.illegal else x.pd (allP (decide (x.ga ≠ 0))) x.ta
  | _ => x.illegal

/-- The integer classes, MAJOR 0x00 to 0x0B (R110). -/
def Ctx.integer (x : Ctx) : Res :=
  let a := x.ga
  let xl := x.xl
  let sa := sext xl a
  let imm := syImm11 x.w
  let ui := trunc xl imm
  match syMajor x.w with
  | 0x00 =>
    if aluUnary (syFunc x.w) ∧ syB x.w ≠ 0 then x.illegal
    else match aluRR xl (syFunc x.w) a x.gb with
      | some (v, o) => .ok { x.toG v (x.ta || x.tb) with ovf := o }
      | none => x.illegal
  | 0x01 => .ok (x.toG (sa + imm) x.ta)
  | 0x02 => .ok (x.toG (Nat.land a ui : Nat) x.ta)
  | 0x03 => .ok (x.toG (Nat.lor a ui : Nat) x.ta)
  | 0x04 => .ok (x.toG (Nat.xor a ui : Nat) x.ta)
  | 0x05 =>
    let n := bitsOf x.w 0 6
    if bitsOf x.w 6 2 ≠ 0 ∨ xl ≤ n then x.illegal
    else match bitsOf x.w 8 3 with
      | 0 => .ok (x.toG (a * 2 ^ n : Nat) x.ta)
      | 1 => .ok (x.toG (a / 2 ^ n : Nat) x.ta)
      | 2 => .ok (x.toG (sa / 2 ^ n) x.ta)
      | 3 => .ok (x.toG (rshr sa n) x.ta)
      | _ => x.illegal
  | 0x06 =>
    match cmpRel (syFunc x.w) sa (sext xl x.gb) a x.gb with
    | some r => x.pd (allP r) (x.ta || x.tb)
    | none => x.illegal
  | 0x07 =>
    match cmpRel (syD x.w / 8) sa imm a ui with
    | some r => .ok { ws := [.p (syD x.w % 8) (allP r) x.ta] }
    | none => x.illegal
  | 0x08 => .ok (x.toG (syImm16 x.w) false)
  | 0x09 => .ok (x.toG (sext 32 (bitsOf x.w 0 16 * 65536)) false)
  | 0x0A =>
    let f := syFunc x.w
    if f < 4 then .ok (x.toG (addcirc (x.c.cr (0x010 + f)) (x.c.cr (0x014 + f)) a (sext xl x.gb)) (x.ta || x.tb))
    else if f < 8 then .ok (x.toG (brinc a x.gb (f - 4) : Nat) (x.ta || x.tb))
    else x.illegal
  | _ => x.predLogic

/-! ## Floating-point unit (R115 to R117) -/

/-- Flags that FP_CTRL enables trap, and the sheaf commits nothing (R117). -/
def Ctx.fpDone (x : Ctx) (e : Eff) : Res :=
  if Nat.land (e.fl % 32) (x.c.cr 0x100) ≠ 0 then .error { code := 15, fpFlags := e.fl % 32 } else .ok e

def Ctx.toF (x : Ctx) (r : FpR) (t : Bool) : Res := x.fpDone { ws := [.f (syD x.w) r.bits t], fl := r.fl }

/-- MAJOR 0x0C and 0x0D (R116). -/
def Ctx.fpArith (x : Ctx) (f : Fmt) : Res :=
  let rd := fun n => x.c.fv x.d n % 2 ^ f.width
  let va := rd (syA x.w)
  let vb := rd (syB x.w)
  let ta := x.c.ftag x.d (syA x.w)
  let tb := x.c.ftag x.d (syB x.w)
  let td := x.c.ftag x.d (syD x.w)
  let un := fun r : FpR => if syB x.w ≠ 0 then x.illegal else x.toF r ta
  let top := 2 ^ (f.width - 1)
  match syFunc x.w with
  | 4 => un (f.op2 4 va 0)
  | 7 => un ⟨va % top, 0⟩
  | 8 => un ⟨(va + top) % (2 * top), 0⟩
  | 9 => x.toF (f.op3 false (rd (syD x.w)) va vb) (ta || tb || td)
  | 10 => x.toF (f.op3 true (rd (syD x.w)) va vb) (ta || tb || td)
  | 11 => un ⟨va, 0⟩
  | n => if n < 7 then x.toF (f.op2 n va vb) (ta || tb) else x.illegal

/-- MAJOR 0x0E: conversions and moves (R116). -/
def Ctx.fpConvert (x : Ctx) : Res :=
  let fa := x.c.fv x.d (syA x.w)
  let ta := x.c.ftag x.d (syA x.w)
  let toI := fun f : Fmt =>
    let u := f.unpack (fa % 2 ^ f.width)
    let r := u.1.toInt32
    x.fpDone { ws := [.g (syD x.w) (trunc x.xl r.1) ta], fl := orFl r.2.1 u.2, ovf := r.2.2 }
  let ga := sext x.xl x.ga
  if syB x.w ≠ 0 then x.illegal
  else match syFunc x.w with
    | 0 => x.toF (fp64.convert fp32 fa) ta
    | 1 => x.toF (fp32.convert fp64 (fa % 2 ^ 32)) ta
    | 2 => toI fp32
    | 3 => x.toF (fp32.ofInt ga) x.ta
    | 4 => toI fp64
    | 5 => x.toF (fp64.ofInt ga) x.ta
    | 6 => .ok (x.toG (fa % 2 ^ x.xl : Nat) ta)
    | 7 => .ok { ws := [.f (syD x.w) x.ga x.ta] }
    | 8 => if x.d then .ok (x.toG (fa / 2 ^ 32 : Nat) ta) else x.illegal
    | 9 => if x.d then .ok { ws := [.f (syD x.w) (x.c.fv x.d (syD x.w) % 2 ^ 32 + x.ga * 2 ^ 32) (x.ta || x.c.ftag x.d (syD x.w))] } else x.illegal
    | _ => x.illegal

/-- MAJOR 0x0F: compares to a predicate (R116). -/
def Ctx.fpCompare (x : Ctx) : Res :=
  let n := syFunc x.w
  if 8 ≤ n ∨ syD x.w / 8 ≠ 0 then x.illegal
  else
    let f := if n < 4 then fp32 else fp64
    let r := f.cmp (n % 4) (x.c.fv x.d (syA x.w) % 2 ^ f.width) (x.c.fv x.d (syB x.w) % 2 ^ f.width)
    x.fpDone { ws := [.p (syD x.w) (allP r.1) (x.c.ftag x.d (syA x.w) || x.c.ftag x.d (syB x.w))], fl := r.2 }

/-! ## Multiply-accumulate unit (R118 to R127) -/

/-- acc(y) of R119: the half kept and whether AOV sets. -/
def Core.accFit (c : Core) (y : Int) : Int × Bool :=
  if outside y 40 then ((if c.cr 0x003 % 2 = 1 then (if y > 0 then 2 ^ 39 - 1 else -(2 ^ 39)) else y), true) else (y, false)

/-- Write both halves of an accumulator through acc(). -/
def Ctx.toAcc (x : Ctx) (n : Nat) (re im : Int) (t : Bool) : Eff :=
  let r := x.c.accFit re
  let i := x.c.accFit im
  { ws := [.a n ⟨BitVec.ofInt 40 r.1, BitVec.ofInt 40 i.1⟩ t], aov := r.2 || i.2 }

/-- The product P of two c16 words by kind 0 to 3 (R120). -/
def product (kind a b : Nat) : Int × Int :=
  let ar := lo16 a
  let ai := hi16 a
  let br := lo16 b
  let bi := hi16 b
  match kind with
  | 0 => (ar * br - ai * bi, ar * bi + ai * br)
  | 1 => (ar * br + ai * bi, ai * br - ar * bi)
  | 2 => (ar * br, ai * bi)
  | _ => (ar * ar + ai * ai, br * br + bi * bi)

/-- MAJOR 0x20 (R120, R125). -/
def Ctx.cmac (x : Ctx) : Res :=
  let n := bitsOf x.w 18 3
  let f := syFunc x.w
  let p := product (f / 4) x.ga x.gb
  let o := x.c.av n
  let t := x.ta || x.tb
  if bitsOf x.w 16 2 ≠ 0 ∨ 16 ≤ f then x.illegal
  else match f % 4 with
    | 0 => .ok (x.toAcc n p.1 p.2 t)
    | 1 => .ok (x.toAcc n (o.re.toInt + p.1) (o.im.toInt + p.2) (t || x.c.atag n))
    | 2 => .ok (x.toAcc n (o.re.toInt - p.1) (o.im.toInt - p.2) (t || x.c.atag n))
    | _ => x.illegal

/-- MAJOR 0x21 (R121, R125). -/
def Ctx.accOp (x : Ctx) : Res :=
  let n := bitsOf x.w 18 3
  let sN := bitsOf x.w 15 3
  let aN := bitsOf x.w 10 5
  let sh := bitsOf x.w 6 4
  let o := x.c.av n
  let s := x.c.av sN
  let g := x.c.gv aN
  let tg := x.c.gtag aN
  let td := x.c.atag n
  let ts := x.c.atag sN
  let re := s.re.toInt
  let im := s.im.toInt
  let useS := fun e : Eff => if aN ≠ 0 ∨ sh ≠ 0 then x.illegal else .ok e
  let useSSh := fun e : Eff => if aN ≠ 0 then x.illegal else .ok e
  let useA := fun e : Eff => if sN ≠ 0 then x.illegal else .ok e
  match syFunc x.w with
  | 0x00 => if sN ≠ 0 ∨ aN ≠ 0 ∨ sh ≠ 0 then x.illegal else .ok (x.toAcc n 0 0 false)
  | 0x01 => useS (x.toAcc n re im ts)
  | 0x02 => useS (x.toAcc n (o.re.toInt + re) (o.im.toInt + im) (td || ts))
  | 0x03 => useS (x.toAcc n (o.re.toInt - re) (o.im.toInt - im) (td || ts))
  | 0x04 => useS (x.toAcc n (-re) (-im) ts)
  | 0x05 => useS (x.toAcc n re (-im) ts)
  | 0x06 => useSSh (x.toAcc n (rshr re sh) (rshr im sh) ts)
  | 0x07 => useSSh (x.toAcc n (re * 2 ^ sh) (im * 2 ^ sh) ts)
  | 0x08 => useA (x.toAcc n (lo16 g * 2 ^ sh) (hi16 g * 2 ^ sh) tg)
  | 0x09 => useA (x.toAcc n (sext 32 g * 2 ^ sh) o.im.toInt (td || tg))
  | 0x0A => useA (x.toAcc n o.re.toInt (sext 32 g * 2 ^ sh) (td || tg))
  | 0x0B =>
    if sN ≠ 0 ∨ sh ≠ 0 then x.illegal
    else .ok { ws := [.a n ⟨BitVec.ofNat 40 (o.re.toNat % 2 ^ 32 + g % 256 * 2 ^ 32), BitVec.ofNat 40 (o.im.toNat % 2 ^ 32 + g / 256 % 256 * 2 ^ 32)⟩ (td || tg)] }
  | _ => x.illegal

/-- BEXP as a signed shift. -/
def Core.bexp (c : Core) : Int := sext 6 (c.cr 0x002)

/-- MAJOR 0x22: moves of an accumulator (R122). -/
def Ctx.accMove (x : Ctx) : Res :=
  let n := bitsOf x.w 13 3
  let sat := bitOf x.w 12
  let auto := bitOf x.w 11
  let sh6 := sext 6 (bitsOf x.w 5 6)
  let s := if auto then x.c.bexp else sh6
  let a := x.c.av n
  let t := x.c.atag n
  let re := rshr a.re.toInt s
  let im := rshr a.im.toInt s
  if (auto ∧ sh6 ≠ 0) ∨ sh6 < -8 then x.illegal
  else match bitsOf x.w 0 5 with
    | 0 => .ok { x.toG (c16 (fit re 16 sat) (fit im 16 sat) : Nat) t with ovf := outside re 16 || outside im 16 }
    | 1 => .ok { x.toG (fit re 32 sat) t with ovf := outside re 32 }
    | 2 => .ok { x.toG (fit im 32 sat) t with ovf := outside im 32 }
    | 3 => if sat ∨ auto ∨ sh6 ≠ 0 then x.illegal
           else .ok (x.toG (a.im.toNat / 2 ^ 32 * 256 + a.re.toNat / 2 ^ 32 : Nat) t)
    | _ => x.illegal

/-- b(x) of R123: the bits a two's complement value needs. -/
def bitsNeeded (v : Int) : Int :=
  let m := if v < 0 then (-v - 1).toNat else v.toNat
  if m = 0 then 1 else (Nat.log2 m : Int) + 2

/-- The n of the norm rule for the widest of its values (R123). -/
def normN (b : Int) (w32 hr : Bool) : Int :=
  let n := b - (if w32 then 32 else 16) + (if hr then 1 else 0)
  if n < -8 then -8 else if 31 < n then 31 else n

/-- BEXP after a norm that found `n` (R123). -/
def Core.normTo (c : Core) (n : Int) (mx : Bool) : RegW :=
  .cr 0x002 (trunc 6 (if mx ∧ n < c.bexp then c.bexp else n))

/-- MAJOR 0x23: norm (R123, R125). -/
def Ctx.norm (x : Ctx) : Res :=
  let n := bitsOf x.w 18 3
  let a := x.c.av n
  if 2 ≤ bitsOf x.w 16 2 ∨ bitsOf x.w 0 14 ≠ 0 then x.illegal
  else if x.c.atag n then .error (bite 7 0 .a n)
  else .ok { ws := [x.c.normTo (normN (maxI (bitsNeeded a.re.toInt) (bitsNeeded a.im.toInt)) (decide (bitsOf x.w 16 2 = 1)) (bitOf x.w 14)) (bitOf x.w 15)] }

/-- Fold value `v` (for KIND 3 an fp32 pattern) with an index into an accumulator (R126). -/
def foldBest (old : Accu) (kind : Nat) (first mn : Bool) (v : Int) (idx : Int) : Accu :=
  let better :=
    if first then true
    else if kind = 3 then
      let fv := (fp32.unpack (trunc 32 v)).1
      let fo := (fp32.unpack (old.re.toNat % 2 ^ 32)).1
      !fv.isNan && (fo.isNan || (if mn then fv.lt fo else fo.lt fv))
    else if mn then decide (v < old.re.toInt) else decide (old.re.toInt < v)
  if better then ⟨BitVec.ofInt 40 v, BitVec.ofInt 40 idx⟩ else old

/-- MAJOR 0x24: maxi.s and mini.s (R126). -/
def Ctx.search (x : Ctx) : Res :=
  let n := bitsOf x.w 18 3
  let f := syFunc x.w
  let kind := f / 2 % 4
  let g := x.ga
  let v := match kind with
    | 0 => sext 32 g
    | 1 => lo16 g
    | 2 => lo16 g * lo16 g + hi16 g * hi16 g
    | _ => sext 32 g
  if bitsOf x.w 16 2 ≠ 0 ∨ 16 ≤ f then x.illegal
  else .ok { ws := [.a n (foldBest (x.c.av n) kind (decide (f / 8 = 1)) (decide (f % 2 = 1)) v (sext 32 x.gb)) (x.c.atag n || x.ta || x.tb)] }

/-- MAJOR 0x20 to 0x2F (R118). -/
def Ctx.mac (x : Ctx) : Res :=
  match syMajor x.w with
  | 0x20 => x.cmac
  | 0x21 => x.accOp
  | 0x22 => x.accMove
  | 0x23 => x.norm
  | 0x24 => x.search
  | _ => x.illegal

end Sys2Proof.Machine
end

