-- ==== Sys2Proof/Machine/HortyVector.lean ====
section
/-! DEFINITION. Machine/HortyVector.lean: the vector syllables of Horty-V but its memory accesses (chapter 05). -/

namespace Sys2Proof.Machine

/-! ## Elements, masks and tags (R134 to R140) -/

def Core.ewCode (c : Core) : Nat := c.cr 0 / 65536 % 4
def Core.ew (c : Core) : Nat := 8 * 2 ^ c.ewCode
def Core.vlen (c : Core) : Nat := c.cr 0 % 65536
def vlmax (ewCode : Nat) : Nat := 128 / 2 ^ ewCode

def elemN (v : Nat) (ew i : Nat) : Nat := v / 2 ^ (i * ew) % 2 ^ ew
def setElemN (v : Nat) (ew i x : Nat) : Nat := v - elemN v ew i * 2 ^ (i * ew) + x % 2 ^ ew * 2 ^ (i * ew)

def syM (w : Word) : Nat := bitsOf w 3 3
def syVFunc (w : Word) : Nat := bitsOf w 0 3

/-- Element `i` is active (R138). -/
def Ctx.active (x : Ctx) (i : Nat) : Bool := decide (i < x.c.vlen) && (x.c.pv (syM x.w)).getLsbD i

/-- Element `i` of a vector register and the tag of its granule. -/
def Core.el (c : Core) (n ew i : Nat) : Nat := elemN (c.vv n).toNat ew i
def Core.elTag (c : Core) (n ew i : Nat) : Bool := (c.vtag n).getLsbD (i * ew / 64)

/-- Write the elements for which `f` gives a value and its source tags; tags by R139. -/
def Core.vwrite (c : Core) (d ew : Nat) (f : Nat → Option (Nat × Bool)) : RegW :=
  let es := (List.range (1024 / ew)).map f
  let old := (c.vv d).toNat
  let val := (List.range (1024 / ew)).foldl (fun acc i => match f i with
    | some (y, _) => setElemN acc ew i y
    | none => acc) old
  let per := 64 / ew
  let tg := (List.range 16).foldl (fun (acc : BitVec 16) g =>
    let mine := (es.drop (g * per)).take per
    let wrote := mine.any Option.isSome
    let kept := mine.any Option.isNone
    let src := mine.any (fun e => match e with | some (_, t) => t | none => false)
    let oldT := (c.vtag d).getLsbD g
    let t := if wrote then src || (kept && oldT) else oldT
    if t then acc ||| ((1 : BitVec 16) <<< g) else acc) 0
  .v d (BitVec.ofNat 1024 val) tg

/-- A result in vD over the active elements. -/
def Ctx.toV (x : Ctx) (f : Nat → Nat × Bool) : RegW := x.c.vwrite (syD x.w) x.c.ew (fun i => if x.active i then some (f i) else none)

/-- A poisoned mask bites, provided the syllable has elements to work on (R139). -/
def Ctx.maskBites (x : Ctx) : Bool := x.c.ptag (syM x.w) && decide (x.c.vlen ≠ 0)

def Ctx.guardMask (x : Ctx) (r : Res) : Res :=
  match r with
  | .error t => if t.code = 1 ∨ !x.maskBites then .error t else .error (bite 3 0 .p (syM x.w))
  | .ok e => if x.maskBites then .error (bite 3 0 .p (syM x.w)) else .ok e

/-- A g register broadcast to elements of width `ew` (R142). -/
def bcast (ew v : Nat) : Nat := if ew = 64 then trunc 64 (sext 32 v) else v % 2 ^ ew

/-! ## Moves and integer operations (R136, R142) -/

/-- MAJOR 0x30. -/
def Ctx.vmove (x : Ctx) : Res :=
  let ew := x.c.ew
  let mx := vlmax x.c.ewCode
  let a := syA x.w
  let b := syB x.w
  let d := syD x.w
  match syVFunc x.w with
  | 0 =>
    if 4 ≤ b ∨ syM x.w ≠ 0 then x.illegal
    else if x.ta then .error (bite 7 0 .g a)
    else let n := min x.ga (vlmax b)
      .ok { ws := [.cr 0 (b * 65536 + n), .g d n false] }
  | 1 => if b ≠ 0 then x.illegal else x.guardMask (.ok { ws := [x.toV (fun _ => (bcast ew x.ga, x.ta))] })
  | 2 =>
    if syM x.w ≠ 0 then x.illegal
    else
      let i := x.gb
      let t := x.tb || (decide (i < mx) && x.c.elTag a ew i)
      .ok (x.toG (if i < mx then (if ew = 64 then ((x.c.el a ew i % 2 ^ 32 : Nat) : Int) else sext ew (x.c.el a ew i)) else 0) t)
  | 3 => if a ≠ 0 ∨ b ≠ 0 then x.illegal else x.guardMask (.ok { ws := [x.toV (fun i => (i, false))] })
  | 4 =>
    if d = a ∨ d = b then x.illegal
    else x.guardMask (.ok { ws := [x.toV (fun i =>
      let j := x.c.el b ew i
      (if j < mx then x.c.el a ew j else 0, x.c.elTag b ew i || (decide (j < mx) && x.c.elTag a ew j)))] })
  | 5 => x.guardMask (.ok { ws := [x.toV (fun i =>
      let j := i + x.gb
      (if j < mx then x.c.el a ew j else 0, x.tb || (decide (j < mx) && x.c.elTag a ew j)))] })
  | 6 =>
    if d = a then x.illegal
    else x.guardMask (.ok { ws := [x.c.vwrite d ew (fun i =>
      if x.active i && decide (x.gb ≤ i) then some (x.c.el a ew (i - x.gb), x.tb || x.c.elTag a ew (i - x.gb)) else none)] })
  | _ => x.illegal

/-- The integer operations of MAJOR 0x31 by FUNC, and whether fit left its range. -/
def vintOp (func ew a b : Nat) : Nat × Bool :=
  let sa := sext ew a
  let sb := sext ew b
  match func with
  | 0 => (trunc ew (sa + sb), false)
  | 1 => (trunc ew (sa - sb), false)
  | 2 => (trunc ew (fit (sa + sb) ew true), outside (sa + sb) ew)
  | 3 => (trunc ew (fit (sa - sb) ew true), outside (sa - sb) ew)
  | 4 => (trunc ew (minI sa sb), false)
  | 5 => (trunc ew (maxI sa sb), false)
  | 6 => (Nat.land a b, false)
  | _ => (Nat.lor a b, false)

def Ctx.anyActive (x : Ctx) (p : Nat → Bool) : Bool := (List.range (vlmax x.c.ewCode)).any (fun i => x.active i && p i)

/-- The B operand of element `i`: a vector element, or a broadcast g register. -/
def Ctx.vb (x : Ctx) (scalar : Bool) (ew i : Nat) : Nat × Bool :=
  if scalar then (bcast ew x.gb, x.tb) else (x.c.el (syB x.w) ew i, x.c.elTag (syB x.w) ew i)

/-- MAJOR 0x31 and 0x32. -/
def Ctx.vint (x : Ctx) (scalar : Bool) : Res :=
  let ew := x.c.ew
  let op := fun i => vintOp (syVFunc x.w) ew (x.c.el (syA x.w) ew i) (x.vb scalar ew i).1
  x.guardMask (.ok { ws := [x.toV (fun i => ((op i).1, x.c.elTag (syA x.w) ew i || (x.vb scalar ew i).2))],
                     ovf := x.anyActive (fun i => (op i).2) })

/-- MAJOR 0x33. -/
def Ctx.vshift (x : Ctx) : Res :=
  let ew := x.c.ew
  let n := x.gb % ew
  let a := fun i => x.c.el (syA x.w) ew i
  let b := fun i => x.c.el (syB x.w) ew i
  let ta := fun i => x.c.elTag (syA x.w) ew i
  let sh := fun g : Nat → Nat => x.guardMask (.ok { ws := [x.toV (fun i => (g i, ta i || x.tb))] })
  let pair := fun g : Nat → Int × Int =>
    if ew ≠ 32 then x.illegal
    else x.guardMask (.ok { ws := [x.toV (fun i => (c16 (fit (g i).1 16 true) (fit (g i).2 16 true),
                              ta i || (syVFunc x.w != 7 && x.c.elTag (syB x.w) ew i)))],
                            ovf := x.anyActive (fun i => outside (g i).1 16 || outside (g i).2 16) })
  match syVFunc x.w with
  | 0 => sh (fun i => a i * 2 ^ n % 2 ^ ew)
  | 1 => sh (fun i => a i / 2 ^ n)
  | 2 => sh (fun i => trunc ew (sext ew (a i) / 2 ^ n))
  | 3 => sh (fun i => trunc ew (rshr (sext ew (a i)) n))
  | 4 => x.guardMask (.ok { ws := [x.toV (fun i => (Nat.xor (a i) (b i), ta i || x.c.elTag (syB x.w) ew i))] })
  | 5 => pair (fun i => (lo16 (a i) + lo16 (b i), hi16 (a i) + hi16 (b i)))
  | 6 => pair (fun i => (lo16 (a i) - lo16 (b i), hi16 (a i) - hi16 (b i)))
  | _ => if syB x.w ≠ 0 then x.illegal else pair (fun i => (lo16 (a i), -(hi16 (a i))))

/-- The format of a floating-point element width. -/
def ewFmt (ew : Nat) : Option Fmt := if ew = 16 then some fp16 else if ew = 32 then some fp32 else none

/-- Write bit `i` of pD for each active element; the other bits and their tag stay (R142). -/
def Ctx.toPBits (x : Ctx) (f : Nat → Bool × Bool) : RegW :=
  let d := syD x.w % 8
  let n := vlmax x.c.ewCode
  let v := (List.range n).foldl (fun (acc : BitVec 128) i =>
    if x.active i then (if (f i).1 then acc ||| ((1 : BitVec 128) <<< i) else acc &&& ~~~((1 : BitVec 128) <<< i)) else acc) (x.c.pv d)
  let src := (List.range n).any (fun i => x.active i && (f i).2)
  let all := decide (n = 128) && (List.range n).all (fun i => x.active i)
  .p d v (src || (x.c.ptag d && !all))

/-- MAJOR 0x34. -/
def Ctx.vcompare (x : Ctx) : Res :=
  let ew := x.c.ew
  let a := fun i => x.c.el (syA x.w) ew i
  let b := fun i => x.c.el (syB x.w) ew i
  let t := fun i => x.c.elTag (syA x.w) ew i || x.c.elTag (syB x.w) ew i
  if 8 ≤ syD x.w then x.illegal
  else if syVFunc x.w < 6 then
    x.guardMask (.ok { ws := [x.toPBits (fun i => ((cmpRel (syVFunc x.w) (sext ew (a i)) (sext ew (b i)) (a i) (b i)).getD false, t i))] })
  else match ewFmt ew with
    | none => x.illegal
    | some f =>
      let fl := (List.range (vlmax x.c.ewCode)).foldl (fun n i => if x.active i then orFl n (f.cmp (syVFunc x.w - 6) (a i) (b i)).2 else n) 0
      x.guardMask (x.fpDone { ws := [x.toPBits (fun i => ((f.cmp (syVFunc x.w - 6) (a i) (b i)).1, t i))], fl := fl })

/-! ## Complex lanes (R143 to R148) -/

/-- The register and element that hold the real half of lane `i` of group `d`; the imaginary half lies two registers on. -/
def laneReg (d i : Nat) : Nat := d + i / 16
def Core.laneRe (c : Core) (d i : Nat) : Int := sext 40 (c.el (laneReg d i) 64 (i % 16))
def Core.laneIm (c : Core) (d i : Nat) : Int := sext 40 (c.el (laneReg d i + 2) 64 (i % 16))
def Core.laneTag (c : Core) (d i : Nat) : Bool := c.elTag (laneReg d i) 64 (i % 16) || c.elTag (laneReg d i + 2) 64 (i % 16)

/-- Write the active lanes of group `d`: per lane both halves and their tags. -/
def Ctx.toGroup (x : Ctx) (d : Nat) (f : Nat → (Int × Bool) × (Int × Bool)) : List RegW :=
  (List.range 4).map (fun r =>
    x.c.vwrite (d + r) 64 (fun j =>
      let i := r % 2 * 16 + j
      if x.active i then (let h := if r < 2 then (f i).1 else (f i).2; some (trunc 64 h.1, h.2)) else none))

def inGroup (d n : Nat) : Bool := decide (d ≤ n) && decide (n < d + 4)

/-- MAJOR 0x35 and 0x36 (R144, R145). -/
def Ctx.vcmac (x : Ctx) (scalar : Bool) : Res :=
  let d := syD x.w
  let a := syA x.w
  if x.c.ew ≠ 32 ∨ d % 4 ≠ 0 ∨ inGroup d a ∨ (!scalar && inGroup d (syB x.w)) then x.illegal
  else
    let b := fun i => if scalar then (x.gb, x.tb) else (x.c.el (syB x.w) 32 i, x.c.elTag (syB x.w) 32 i)
    let sub := decide (syVFunc x.w % 2 = 1)
    let p := fun i => product (syVFunc x.w / 2) (x.c.el a 32 i) (b i).1
    let re := fun i => x.c.accFit (if sub then x.c.laneRe d i - (p i).1 else x.c.laneRe d i + (p i).1)
    let im := fun i => x.c.accFit (if sub then x.c.laneIm d i - (p i).2 else x.c.laneIm d i + (p i).2)
    let src := fun i => x.c.elTag a 32 i || (b i).2
    x.guardMask (.ok { ws := x.toGroup d (fun i =>
                         ((sext 40 (trunc 40 (re i).1), src i || x.c.elTag (laneReg d i) 64 (i % 16)),
                          (sext 40 (trunc 40 (im i).1), src i || x.c.elTag (laneReg d i + 2) 64 (i % 16)))),
                       aov := x.anyActive (fun i => (re i).2 || (im i).2) })

/-- MAJOR 0x37 (R146). -/
def Ctx.vcmulr (x : Ctx) : Res :=
  if x.c.ew ≠ 32 then x.illegal
  else
    let scalar := decide (syVFunc x.w % 2 = 1)
    let b := fun i => if scalar then (x.gb, x.tb) else (x.c.el (syB x.w) 32 i, x.c.elTag (syB x.w) 32 i)
    let p := fun i => product (syVFunc x.w / 2) (x.c.el (syA x.w) 32 i) (b i).1
    let re := fun i => rshr (p i).1 15
    let im := fun i => rshr (p i).2 15
    x.guardMask (.ok { ws := [x.toV (fun i => (c16 (fit (re i) 16 true) (fit (im i) 16 true), x.c.elTag (syA x.w) 32 i || (b i).2))],
                       ovf := x.anyActive (fun i => outside (re i) 16 || outside (im i) 16) })

/-- A signed shift clamped to −8 to +31. -/
def clampShift (v : Int) : Int := if v < -8 then -8 else if 31 < v then 31 else v

/-- vnarrow in its three forms (R147). -/
def Ctx.vnarrow (x : Ctx) (s : Int) (st sat : Bool) : Res :=
  let a := syA x.w
  if a % 4 ≠ 0 then x.illegal
  else
    let re := fun i => rshr (x.c.laneRe a i) s
    let im := fun i => rshr (x.c.laneIm a i) s
    x.guardMask (.ok { ws := [x.toV (fun i => (c16 (fit (re i) 16 sat) (fit (im i) 16 sat), x.c.laneTag a i || st))],
                       ovf := x.anyActive (fun i => outside (re i) 16 || outside (im i) 16) })

/-- vnorm (R147). -/
def Ctx.vnorm (x : Ctx) : Res :=
  let a := syA x.w
  let b := syB x.w
  if a % 4 ≠ 0 ∨ b % 4 ≠ 0 ∨ syD x.w ≠ 0 then x.illegal
  else
    let lanes := (List.range 32).filter x.active
    let r : Res :=
      match lanes.find? (fun i => x.c.laneTag a i) with
      | some i => .error (bite 7 0 .v (if x.c.elTag (laneReg a i) 64 (i % 16) then laneReg a i else laneReg a i + 2))
      | none =>
        if lanes = [] then .ok {}
        else
          let m := lanes.foldl (fun n i => maxI n (maxI (bitsNeeded (x.c.laneRe a i)) (bitsNeeded (x.c.laneIm a i)))) 1
          .ok { ws := [x.c.normTo (normN m (decide (b / 4 % 2 = 1)) (decide (b / 8 % 2 = 1))) (decide (b / 16 = 1))] }
    x.guardMask r

/-- MAJOR 0x38 (R147, R148). -/
def Ctx.vgroup (x : Ctx) : Res :=
  let d := syD x.w
  let a := syA x.w
  let b := syB x.w
  let f := syVFunc x.w
  if f < 5 ∧ x.c.ew ≠ 32 then x.illegal
  else match f with
    | 0 => if d % 4 ≠ 0 ∨ a ≠ 0 ∨ b ≠ 0 then x.illegal else x.guardMask (.ok { ws := x.toGroup d (fun _ => ((0, false), (0, false))) })
    | 1 => if b ≠ 0 then x.illegal else x.vnarrow x.c.bexp false true
    | 2 => x.vnarrow (clampShift (sext 32 x.gb)) x.tb true
    | 3 => x.vnarrow (clampShift (sext 32 x.gb)) x.tb false
    | 4 => x.vnorm
    | 5 =>
      if syM x.w ≠ 0 ∨ b ≠ 0 ∨ 8 ≤ a then x.illegal
      else
        let t := x.c.ptag a
        .ok { ws := [.v d ((x.c.vv d >>> 128 <<< 128) ||| (x.c.pv a).setWidth 1024) ((x.c.vtag d &&& 0xFFFC) ||| (if t then 3 else 0))] }
    | 6 =>
      if syM x.w ≠ 0 ∨ b ≠ 0 ∨ 8 ≤ d then x.illegal
      else .ok { ws := [.p d ((x.c.vv a).extractLsb' 0 128) (x.c.vtag a &&& 3 != 0)] }
    | _ => x.illegal

/-! ## Floating-point lanes, conversions, search and reduction (R142, R149, R150) -/

/-- A vector floating-point result; any enabled flag traps and writes no element (R117, R142). -/
def Ctx.vfDone (x : Ctx) (w : RegW) (fl : Nat) (ovf : Bool) : Res := x.guardMask (x.fpDone { ws := [w], fl := fl, ovf := ovf })

def Ctx.vflags (x : Ctx) (f : Nat → Nat) : Nat :=
  (List.range (vlmax x.c.ewCode)).foldl (fun n i => if x.active i then orFl n (f i) else n) 0

/-- MAJOR 0x39 FUNC 7: conversions by kind (R142). -/
def Ctx.vconvert (x : Ctx) : Res :=
  let a := syA x.w
  let s32 := fun i => x.c.el a 32 i
  let t32 := fun i => x.c.elTag a 32 i
  if x.c.ew ≠ 32 then x.illegal
  else match syB x.w with
    | 0 =>
      let r := fun i => fp16.convert fp32 (x.c.el a 16 i)
      x.vfDone (x.toV (fun i => ((r i).bits, x.c.elTag a 16 i))) (x.vflags (fun i => (r i).fl)) false
    | 1 =>
      let r := fun i => fp32.convert fp16 (s32 i)
      x.vfDone (x.c.vwrite (syD x.w) 16 (fun i => if x.active i then some ((r i).bits, t32 i) else none)) (x.vflags (fun i => (r i).fl)) false
    | 2 =>
      let r := fun i => fp32.ofInt (sext 32 (s32 i))
      x.vfDone (x.toV (fun i => ((r i).bits, t32 i))) (x.vflags (fun i => (r i).fl)) false
    | 3 =>
      let u := fun i => fp32.unpack (s32 i)
      let r := fun i => (u i).1.toInt32
      x.vfDone (x.toV (fun i => (trunc 32 (r i).1, t32 i))) (x.vflags (fun i => orFl (u i).2 (r i).2.1)) (x.anyActive (fun i => (r i).2.2))
    | _ => x.illegal

/-- MAJOR 0x39 and 0x3A (R142). -/
def Ctx.vfloat (x : Ctx) (scalar : Bool) : Res :=
  let ew := x.c.ew
  match ewFmt ew with
  | none => x.illegal
  | some f =>
    if syVFunc x.w = 7 then (if scalar then x.illegal else x.vconvert)
    else
      let a := fun i => x.c.el (syA x.w) ew i
      let b := fun i => if scalar then x.c.fv true (syB x.w) % 2 ^ f.width else x.c.el (syB x.w) ew i
      let tb := fun i => if scalar then x.c.ftag true (syB x.w) else x.c.elTag (syB x.w) ew i
      let d := fun i => x.c.el (syD x.w) ew i
      let r := fun i => match syVFunc x.w with
        | 3 => f.op3 false (d i) (a i) (b i)
        | 4 => f.op3 true (d i) (a i) (b i)
        | 5 => f.op2 5 (a i) (b i)
        | 6 => f.op2 6 (a i) (b i)
        | n => f.op2 n (a i) (b i)
      let usesD := syVFunc x.w == 3 || syVFunc x.w == 4
      x.vfDone (x.toV (fun i => ((r i).bits, x.c.elTag (syA x.w) ew i || tb i || (usesD && x.c.elTag (syD x.w) ew i))))
        (x.vflags (fun i => (r i).fl)) false

/-- The value of an element for a search, and whether it can be chosen (R149). -/
def Ctx.searchVal (x : Ctx) (kind i : Nat) : Int × Bool :=
  let e := x.c.el (syA x.w) x.c.ew i
  match kind with
  | 0 => (sext x.c.ew e, true)
  | 1 => (lo16 e * lo16 e + hi16 e * hi16 e, true)
  | _ =>
    let b := if x.c.ew = 16 then (fp16.convert fp32 e).bits else e
    (sext 32 b, !(fp32.unpack b).1.isNan)

/-- MAJOR 0x3B (R149, R150). -/
def Ctx.vsearch (x : Ctx) : Res :=
  let n := bitsOf x.w 18 3
  let first := bitOf x.w 17
  let mn := bitOf x.w 16
  let f := syVFunc x.w
  let ew := x.c.ew
  let act := (List.range (vlmax x.c.ewCode)).filter x.active
  let src := act.any (fun i => x.c.elTag (syA x.w) ew i)
  let old := x.c.av n
  if f < 3 then
    if (f = 0 ∧ ew = 64) ∨ (f = 1 ∧ ew ≠ 32) ∨ (f = 2 ∧ ew ≠ 16 ∧ ew ≠ 32) then x.illegal
    else
      let kind := if f = 2 then 3 else 0
      let cand := act.filter (fun i => (x.searchVal f i).2)
      match cand with
      | [] => x.guardMask (.ok {})
      | i0 :: rest =>
        let best := rest.foldl (fun (b : Nat) i =>
          let o : Accu := ⟨BitVec.ofInt 40 (x.searchVal f b).1, 0⟩
          if foldBest o kind false mn (x.searchVal f i).1 1 = o then b else i) i0
        x.guardMask (.ok { ws := [.a n (foldBest old kind first mn (x.searchVal f best).1 (sext 32 (x.gb + best))) (x.c.atag n || src || x.tb)] })
  else if f = 3 then
    if ew ≠ 32 ∨ mn ∨ syB x.w ≠ 0 then x.illegal
    else
      let sr := act.foldl (fun s i => s + lo16 (x.c.el (syA x.w) 32 i)) 0
      let si := act.foldl (fun s i => s + hi16 (x.c.el (syA x.w) 32 i)) 0
      let b := if first then (0, 0) else (old.re.toInt, old.im.toInt)
      x.guardMask (.ok (x.toAcc n (b.1 + sr) (b.2 + si) (src || (!first && x.c.atag n))))
  else x.illegal

/-- MAJOR 0x30 to 0x3B. -/
def Ctx.vector (x : Ctx) : Res :=
  match syMajor x.w with
  | 0x30 => x.vmove
  | 0x31 => x.vint false
  | 0x32 => x.vint true
  | 0x33 => x.vshift
  | 0x34 => x.vcompare
  | 0x35 => x.vcmac false
  | 0x36 => x.vcmac true
  | 0x37 => x.vcmulr
  | 0x38 => x.vgroup
  | 0x39 => x.vfloat false
  | 0x3A => x.vfloat true
  | 0x3B => x.vsearch
  | _ => x.illegal

end Sys2Proof.Machine
end

