-- ==== Sys2Proof/Machine/HortyMem.lean ====
section
/-! DEFINITION. Machine/HortyMem.lean: where a core's addresses lead (R83, R84, R87 to R90, R152), its translation, and
the evaluation of memory syllables up to their faults (R79, R85, R98, R155, R156).
Choices of the model: log entries 28 (DEDUCED). -/

namespace Sys2Proof.Machine

/-! ## Identities and address windows -/

/-- Hamlet and physical core of a hamlet core. -/
def hamOf (k : Nat) : Nat := k / 9
def phyOf (k : Nat) : Nat := k % 9

/-- The MID of a core (R377). -/
def State.midOf (s : State) (k : Nat) : Mid :=
  if k < 144 then BitVec.ofNat 8 (9 * hamOf k + s.logicalOf (hamOf k) (phyOf k))
  else if k < 160 then BitVec.ofNat 8 (0xA0 + (k - 144)) else 0xB1

/-- Where an access leads: its bus address, and whether it is the core's own plot or instruction memory (with the storage
address), device memory, the host window, memory a vector may reach, memory an atomic may reach, cacheable memory. -/
structure Tgt where
  bus : Nat
  store : Nat := 0
  own : Bool := false
  device : Bool := false
  host : Bool := false
  vec : Bool := false
  atom : Bool := false
  cached : Bool := false
  guarded : Bool := false
deriving DecidableEq, Repr

/-- Where offset `o` of hamlet `h`'s window leads for core `k` (R83, R631). -/
def State.hamTgt (s : State) (k h o : Nat) : Option Tgt :=
  let bus := 0x10000000 + h * 0x01000000 + o
  if o < 0x200000 then some { bus := bus, vec := true, atom := true }
  else if 0x800000 ≤ o ∧ o < 0xC80000 then
    let c := (o - 0x800000) / 0x80000
    let q := (o - 0x800000) % 0x80000
    let mine := decide (isD k ∧ hamOf k = h ∧ s.physOf h c = phyOf k)
    if q < 0x40000 then some { bus := bus, store := s.storeAddr bus, own := mine, vec := true, atom := mine }
    else if q < 0x50000 then some { bus := bus, guarded := mine && s.imemRefused h (phyOf k) (q / 0x8000 % 2) }
    else none
  else if 0xF00000 ≤ o then some { bus := bus, device := true }
  else none

/-- Where a bus address leads. -/
def State.busTgt (s : State) (k a : Nat) : Option Tgt :=
  if a < granaryEnd then some { bus := a, vec := true, atom := true, cached := true }
  else if 0x10000000 ≤ a ∧ a < 0x20000000 then
    match s.hamTgt k ((a - 0x10000000) / 0x01000000) (a % 0x01000000) with
    | some t => some t
    | none => some { bus := a }
  else if 0x40000000 ≤ a ∧ a < 0x80000000 then some { bus := a, device := true }
  else if cellarBase ≤ a ∧ a < cellarEnd then some { bus := a, cached := true }
  else if 0x1000000000 ≤ a ∧ a < 0x2000000000 then some { bus := a, device := true, host := true }
  else some { bus := a, cached := decide (hearthBase ≤ a) }

/-- Where core address `a` of hamlet core `k` leads; none where the access faults (R83, R84, R101). -/
def State.dTgt (s : State) (k : Nat) (c : Core) (a : Nat) (write : Bool) : Option Tgt :=
  let h := hamOf k
  let p := phyOf k
  let n := a / 0x10000000
  let o := a % 0x10000000
  let lc := s.logicalOf h p
  if n = 0 then
    if o < 0x01000000 then
      match s.hamTgt k h o with
      | some t => if write && t.guarded then none else some t
      | none => none
    else if o < 0x01040000 then some { bus := plotBase h lc + (o - 0x01000000), store := plotBase h p + (o - 0x01000000), own := true, vec := true, atom := true }
    else if o < 0x01048000 then
      if write ∧ s.bit (R.HAMLET_IMEM_CTRL_ARM h lc) then none
      else some { bus := 0, store := imemBase h p (1 - s.rd (R.HAMLET_IMEM_STATUS_ACTIVE h lc)) + (o - 0x01040000), own := true }
    else if o < 0x01050000 then
      if write then none
      else some { bus := 0, store := imemBase h p (s.rd (R.HAMLET_IMEM_STATUS_ACTIVE h lc)) + (o - 0x01048000), own := true }
    else none
  else
    let w := c.cr (0xC20 + n)
    if !nbit w 31 || (write && !nbit w 30) || (decide (c.level = .worker) && !nbit w 29) then none
    else
      let phys := w % 4096 * 0x10000000 + o
      if 0x10000000 ≤ phys ∧ phys < 0x20000000 ∧ (phys - 0x10000000) / 0x01000000 = h then
        match s.hamTgt k h (phys % 0x01000000) with
        | some t => if write && t.guarded then none else some t
        | none => none
      else s.busTgt k phys

/-! ## Translation on a Hall core (R87 to R89) -/

/-- A line of any Hall core's data cache that holds `a`: the core that holds it. The caches are coherent among Hall cores
(R12). -/
def State.lineOwner (s : State) (a : Nat) : Option Nat :=
  (List.range 16).find? (fun j => (s.ms.lines.get (j * 2 ^ 40 + a / 64 * 64)).valid)

/-- The word at `a` as the Hall caches see it, without counting. -/
def State.hallPeek (s : State) (a : Nat) : PWord :=
  match s.lineOwner a with
  | some j =>
    let w := (s.ms.lines.get (j * 2 ^ 40 + a / 64 * 64)).words.getD (a % 64 / 8) (0, 0)
    eccData w.1 w.2
  | none => s.ms.mem.word (s.storeAddr (a / 8 * 8))

/-- A translation: the physical address, the memory type, the table entries to update, and what the TLB keeps. -/
structure Walk where
  phys : Nat
  memtype : Nat
  updates : List (Nat × DWord) := []
  entry : Option TlbEntry := none
deriving DecidableEq, Repr

/-- Permissions allow an access of kind 0 load, 1 store, 2 fetch: bits read, write, execute from high to low; a page that
grants write without read faults on every access (R88). -/
def rwxOk (rwx kind : Nat) : Bool :=
  let r := nbit rwx 2
  let w := nbit rwx 1
  let e := nbit rwx 0
  (!w || r) && (match kind with | 0 => r | 1 => w | _ => e)

def permFor (worker : Bool) (w st : Nat) : Nat := if worker then w else st

/-- Drop the permissions that LIMIT bits take away. -/
def limitRwx (rwx : Nat) (worker limW limWr limX : Bool) : Nat :=
  if worker && limW then 0
  else (if nbit rwx 2 then 4 else 0) + (if nbit rwx 1 && !limWr then 2 else 0) + (if nbit rwx 0 && !limX then 1 else 0)

/-- Walk from the table at `tbl`, level `4 - n`, with the LIMIT bits met so far (R88, R89). -/
def State.walk (s : State) (va asid : Nat) (worker : Bool) (kind : Nat) (limW limWr limX : Bool) : Nat → Nat → Option Walk
  | 0, _ => none
  | n + 1, tbl =>
    let idx := va / 2 ^ (12 + 9 * n) % 512
    let at_ := tbl + 8 * idx
    let e := (s.hallPeek at_).data.toNat
    let ty := nbits e 62 2
    if ty = 1 then
      if n = 0 ∨ nbits e 40 19 ≠ 0 ∨ nbits e 0 12 ≠ 0 then none
      else s.walk va asid worker kind (limW || nbit e 61) (limWr || nbit e 60) (limX || nbit e 59) n (nbits e 12 28 * 4096)
    else if ty = 2 then
      let bits := 12 + 9 * n
      let w := limitRwx (nbits e 53 3) true limW limWr limX
      let st := limitRwx (nbits e 50 3) false limW limWr limX
      if 3 ≤ n ∨ nbits e 0 12 ≠ 0 ∨ 3 ≤ nbits e 56 3 ∨ nbits e 12 28 * 4096 % 2 ^ bits ≠ 0 ∨ !rwxOk (permFor worker w st) kind then none
      else
        let e1 := if nbit e 60 then e else e + 2 ^ 60
        let e2 := if kind = 1 ∧ !nbit e1 59 then e1 + 2 ^ 59 else e1
        some { phys := nbits e 12 28 * 4096 + va % 2 ^ bits, memtype := nbits e 56 3,
               updates := if e2 = e then [] else [(at_, BitVec.ofNat 64 e2)],
               entry := some { page := va / 2 ^ bits, bits := bits, asid := asid, global := nbit e 61, phys := nbits e 12 28 * 4096,
                               memtype := nbits e 56 3, workerRwx := w, stewardRwx := st, modified := nbit e2 59 } }
    else none

/-- Translate a virtual address of a Hall core; none is a page fault (R87, R88). -/
def State.translate (s : State) (c : Core) (va kind : Nat) : Option Walk :=
  let pt := c.cr 0x410
  let asid := nbits pt 40 16
  let worker := decide (c.level = .worker)
  if va / 2 ^ 48 ≠ (if nbit va 47 then 65535 else 0) then none
  else
    let v := va % 2 ^ 48
    let hit := c.tlb.find? (fun t => t.page == v / 2 ^ t.bits && (t.global || t.asid == asid))
    match hit with
    | some t =>
      if kind = 1 ∧ !t.modified then s.walk v asid worker kind false false false 4 (nbits pt 12 28 * 4096)
      else if rwxOk (permFor worker t.workerRwx t.stewardRwx) kind then some { phys := t.phys + v % 2 ^ t.bits, memtype := t.memtype }
      else none
    | none => s.walk v asid worker kind false false false 4 (nbits pt 12 28 * 4096)

/-- A core's addresses are translated: a Hall core below Keeper with PTBR.EN (R87). -/
def translates (k : Nat) (c : Core) : Bool := decide (144 ≤ k ∧ k < 160) && decide (c.level ≠ .keeper) && nbit (c.cr 0x410) 63

/-- A data access of a Horty-S core: the target and the walk, or the cause of a fault (R75, R87, R90). -/
def State.sTgt (s : State) (k : Nat) (c : Core) (a kind : Nat) : Except Nat (Tgt × Option Walk) :=
  if translates k c then
    match s.translate c a kind with
    | none => .error (if kind = 0 then 9 else 10)
    | some w => match s.busTgt k w.phys with
      | some t => .ok ({ t with device := decide (w.memtype = 0), cached := decide (w.memtype = 2) && t.cached }, some w)
      | none => .error (if kind = 0 then 6 else 7)
  else match s.busTgt k (a % 2 ^ 41) with
    | some t => .ok ({ t with cached := t.cached && decide (k < 160) }, none)
    | none => .error (if kind = 0 then 6 else 7)

/-- A data access of any core: the target and the walk, or the cause of a fault. -/
def State.tgt (s : State) (k : Nat) (c : Core) (a kind : Nat) : Except Nat (Tgt × Option Walk) :=
  if isD k then
    match s.dTgt k c a (decide (kind = 1)) with
    | some t => .ok (t, none)
    | none => .error (if kind = 0 then 6 else 7)
  else s.sTgt k c a kind

/-! ## Answers of accesses that hold their sheaf -/

/-- The answer to element `e` of the syllable at `slot`: as given, or as the target's memory answers. -/
def State.syncErr (s : State) (k : Nat) (ans : List SyncAns) (slot e : Nat) (t : Tgt) : Option AnsStatus :=
  match ans.find? (fun y => y.slot == slot && y.elem == e) with
  | some y => if y.ans.status = .ok ∨ y.ans.status = .poisoned then none else some y.ans.status
  | none =>
    if t.own || t.device then none
    else match s.targetFor (s.midOf k) t.bus with
      | .inl r => some r.status
      | .inr _ => none

/-! ## Scalar memory syllables (R67, R68, R85, R95, R96, R98) -/

def sizeBytes (code : Nat) : Nat := 2 ^ code

/-- Check an access: address bite, device and host bites of stored data, alignment, page, access (R79). -/
def Ctx.checkAccess (x : Ctx) (s : State) (addr size kind : Nat) (baseReg : Nat) (baseTag : Bool) (dataTag : Option (RegSet × Nat)) :
    Except Trap (Tgt × Option Walk) :=
  if baseTag then .error (bite 1 addr .g baseReg)
  else
    let t := s.tgt x.k x.c addr kind
    let dataBite : Option Trap := match t, dataTag with
      | .ok (y, _), some (fl, r) => if kind = 1 ∧ y.host then some (bite 5 addr fl r) else if kind = 1 ∧ y.device then some (bite 4 0 fl r) else none
      | _, _ => none
    match dataBite with
    | some b => .error b
    | none =>
      if addr % size ≠ 0 then .error { code := 5, tval := addr }
      else match t with
        | .ok y => .ok y
        | .error n => .error { code := n, tval := addr }

/-- A translation's table updates and TLB entry travel with the effect. -/
structure MemRes where
  eff : Eff
  walk : Option Walk := none
deriving DecidableEq, Repr

abbrev MRes := Except Trap MemRes

def MRes.ofRes (r : Res) : MRes :=
  match r with
  | .ok e => .ok { eff := e }
  | .error t => .error t

/-- Scalar loads and stores, MAJOR 0x10 to 0x16. -/
def Ctx.scalarMem (x : Ctx) (s : State) (slot : Nat) (ans : List SyncAns) : MRes :=
  let mj := syMajor x.w
  let sz := sySize x.w
  let size := sizeBytes sz
  let addr := trunc x.xl ((x.ga : Int) + syOff9 x.w * (size : Int))
  let d := syD x.w
  let fp := decide (mj = 0x12 ∨ mj = 0x15)
  let isStore := decide (mj = 0x14 ∨ mj = 0x15 ∨ mj = 0x16)
  let badSize := if fp then decide (sz < 2) else x.d && decide (sz = 3)
  if mj = 0x17 ∨ badSize then .error { code := 1, tval := x.w.toNat }
  else if isStore then
    let data := if fp then x.c.fv x.d d else x.c.gv d
    let tag := if fp then x.c.ftag x.d d else x.c.gtag d
    match x.checkAccess s addr size 1 (syA x.w) x.ta (if tag then some (if fp then .v else .g, d) else none) with
    | .error t => .error t
    | .ok (t, w) =>
      .ok { eff := { act := .store { kind := .store, addr := addr, bus := if t.own then t.store else t.bus, size := size, data := data % 2 ^ (8 * size),
                                     mark := tag, slot := slot, device := t.device, cached := t.cached, release := decide (mj = 0x16), mask := if t.own then 1 else 0 } },
            walk := w }
  else
    match x.checkAccess s addr size 0 (syA x.w) x.ta none with
    | .error t => .error t
    | .ok (t, w) =>
      let a : Access := { kind := .load, addr := addr, bus := if t.own then t.store else t.bus, size := size, signExt := decide (mj = 0x10 ∨ mj = 0x13),
                          file := if fp then .v else .g, reg := d, slot := slot, device := t.device, cached := t.cached, mask := if t.own then 1 else 0 }
      if mj = 0x13 ∨ !x.d then
        match (if t.own then none else s.syncErr x.k ans slot 0 t) with
        | some _ => .error { code := 12, tval := addr }
        | none => .ok { eff := { act := .acquire a }, walk := w }
      else .ok { eff := { act := .load a }, walk := w }

/-- Class 0x1D: an atomic, performed at its target (R95). -/
def Ctx.atomicMem (x : Ctx) (s : State) (slot : Nat) (ans : List SyncAns) (op : AtomOp) (wide : Bool) (cmp : Nat) : MRes :=
  let size := if wide then 8 else 4
  let addr := x.ga
  match x.checkAccess s addr size 1 (syA x.w) x.ta (if x.tb then some (.g, syB x.w) else none) with
  | .error t => .error t
  | .ok (t, w) =>
    let ok := if x.d then t.atom else !t.device
    if !ok then .error { code := 6, tval := addr }
    else match (if t.own then none else s.syncErr x.k ans slot 0 t) with
      | some _ => .error { code := 12, tval := addr }
      | none =>
        .ok { eff := { act := .atomic { kind := .load, addr := addr, bus := if t.own then t.store else t.bus, size := size, signExt := true,
                                        file := .g, reg := syD x.w, slot := slot, cached := t.cached, mask := if t.own then 1 else 0 }
                              op (x.c.gv cmp) x.gb (x.tb || (decide (op = .cas) && x.c.gtag cmp)) }, walk := w }

/-- Class 0x1F: line and TLB maintenance (R89, R96). -/
def Ctx.maintMem (x : Ctx) (s : State) (op : SysOp) : MRes :=
  match op with
  | .tlbinv all =>
    if x.c.level = .worker then .error { code := 3, tval := x.w.toNat }
    else .ok { eff := { act := .maint (.tlbinv all) 0 0 x.ga x.gb } }
  | _ =>
    let kind := if op = .dcClean then 0 else 1
    if x.ta then .error (bite 1 x.ga .g (syA x.w))
    else match s.tgt x.k x.c x.ga kind with
      | .error n => .error { code := n, tval := x.ga }
      | .ok (t, w) => .ok { eff := { act := .maint op x.ga t.bus 0 0 }, walk := w }

/-! ## Vector memory syllables (R151 to R158) -/

/-- The address of element `i`. -/
def Ctx.vaddr (x : Ctx) (i : Nat) : Nat :=
  let ew := x.c.ew
  let m := bitsOf x.w 0 2
  let off : Int := match m with
    | 0 => (i * ew / 8 : Nat)
    | 1 => (i : Int) * sext 32 x.gb
    | _ => ((x.c.el (syB x.w) ew i % 2 ^ 32) * (ew / 8) : Nat)
  trunc 32 ((x.ga : Int) + off)

/-- The fault of element `i`, or its target (R79, R152, R153). -/
def Ctx.velem (x : Ctx) (s : State) (store : Bool) (slot : Nat) (ans : List SyncAns) (i : Nat) : Except Trap Tgt :=
  let a := x.vaddr i
  if a % (x.c.ew / 8) ≠ 0 then .error { code := 5, tval := a }
  else match s.dTgt x.k x.c a store with
    | none => .error { code := if store then 7 else 6, tval := a }
    | some t =>
      if !t.vec then .error { code := if store then 7 else 6, tval := a }
      else if store then .ok t
      else match s.syncErr x.k ans slot i t with
        | some _ => .error { code := 12, tval := a }
        | none => .ok t

/-- The active elements from VRESUME on, up to the first that faults (R154, R156). -/
def Ctx.velems (x : Ctx) (s : State) (store : Bool) (slot : Nat) (ans : List SyncAns) : List Nat → List (Nat × Tgt) × Option (Nat × Trap)
  | [] => ([], none)
  | i :: r =>
    match x.velem s store slot ans i with
    | .error t => ([], some (i, t))
    | .ok t => let y := Ctx.velems x s store slot ans r; ((i, t) :: y.1, y.2)

/-- MAJOR 0x3C and 0x3D. -/
def Ctx.vectorMem (x : Ctx) (s : State) (slot : Nat) (ans : List SyncAns) : MRes :=
  let store := decide (syMajor x.w = 0x3D)
  let ff := bitOf x.w 2
  let mode := bitsOf x.w 0 2
  let ew := x.c.ew
  let start := x.c.cr 1 % 65536
  let all := (List.range (vlmax x.c.ewCode)).filter x.active
  let act := all.filter (fun i => decide (start ≤ i))
  if mode = 3 ∨ (store ∧ ff) ∨ (mode = 0 ∧ syB x.w ≠ 0) ∨ (mode = 2 ∧ ew = 8) then .error { code := 1, tval := x.w.toNat }
  else if x.c.vlen = 0 then .ok { eff := { ws := [.cr 1 0] } }
  else if x.maskBites then .error (bite 3 0 .p (syM x.w))
  else if x.ta then .error (bite 1 x.ga .g (syA x.w))
  else if mode = 1 ∧ x.tb then .error (bite 1 x.ga .g (syB x.w))
  else if mode = 2 ∧ all.any (fun i => x.c.elTag (syB x.w) ew i) then .error (bite 1 x.ga .v (syB x.w))
  else
    let es := x.velems s store slot ans act
    let own := es.1.all (fun e => e.2.own)
    let addrOf := fun t : Tgt => if t.own then t.store else s.storeAddr t.bus
    if store then
      .ok { eff := { act := .vstore (es.1.map (fun e => (e.1, addrOf e.2, x.c.el (syD x.w) ew e.1, x.c.elTag (syD x.w) ew e.1))) ew es.2 own } }
    else
      let first := act.headD 0
      let soft := match es.2 with
        | some (k, _) => ff && decide (first < k)
        | none => false
      if soft then
        .ok { eff := { act := .vload 0 (es.1.map (fun e => (e.1, addrOf e.2))) ew (syD x.w) none own,
                       ws := [.cr 0 (x.c.cr 0 / 65536 * 65536 + (match es.2 with | some (k, _) => k | none => 0))] } }
      else .ok { eff := { act := .vload 0 (es.1.map (fun e => (e.1, addrOf e.2))) ew (syD x.w) es.2 own } }

/-! ## Performing accesses -/

/-- Bytes `[a, a + n)` of a word's data, as a number. -/
def wordPart (d : DWord) (o n : Nat) : Nat := d.toNat / 2 ^ (8 * o) % 2 ^ (8 * n)

/-- Read a scalar of at most 8 bytes at a storage address. -/
def State.readPart (s : State) (mid : Mid) (st size : Nat) : (Nat × Bool) × State :=
  let t := s.yieldFor st mid
  let y := t.readWord mid (st / 8 * 8)
  ((wordPart y.1.data (st % 8) size, y.1.mark), y.2)

/-- Write a scalar: a whole word with a fresh codeword, else by read-modify-write (R349, R350, R99). -/
def State.writePart (s : State) (mid : Mid) (st size data : Nat) (mark : Bool) : State :=
  let t := s.yieldFor st mid
  if size = 8 then t.setMem (t.ms.mem.put st ⟨BitVec.ofNat 64 data, mark⟩)
  else t.rmwWord mid (st / 8 * 8) (BitVec.ofNat 8 ((2 ^ size - 1) * 2 ^ (st % 8))) (BitVec.ofNat 64 (data * 2 ^ (8 * (st % 8)))) mark

/-- Bring the line of `a` into Hall core `j`'s cache: from the core that holds it, or from memory (R12, R96). -/
def State.fillLine (s : State) (j : Nat) (mid : Mid) (a : Nat) : State :=
  let base := a / 64 * 64
  let put := fun (t : State) (o : Nat) (l : CacheLine) => { t with ms := { t.ms with lines := t.ms.lines.set (o * 2 ^ 40 + base) l } }
  match s.lineOwner a with
  | some o => if o = j then s else put (put s o {}) j (s.ms.lines.get (o * 2 ^ 40 + base))
  | none =>
    let y := s.readWords mid (s.storeAddr base) 8
    put y.2 j { valid := true, dirty := false, words := y.1.map (fun w => (w.data, encodeCheck w)) }

/-- Change the word of a cached line. -/
def State.putLine (s : State) (j a : Nat) (w : PWord) : State :=
  let key := j * 2 ^ 40 + a / 64 * 64
  let l := s.ms.lines.get key
  { s with ms := { s.ms with lines := s.ms.lines.set key { l with dirty := true, words := l.words.set (a % 64 / 8) (w.data, encodeCheck w) } } }

/-- Write line `a` of core `j` back, and keep or discard it (R96). -/
def State.cleanLine (s : State) (j a : Nat) (write discard : Bool) : State :=
  let key := j * 2 ^ 40 + a / 64 * 64
  let l := s.ms.lines.get key
  let t := if write && l.valid && l.dirty then s.writeWords (s.storeAddr (a / 64 * 64)) (l.words.map (fun w => eccData w.1 w.2)) else s
  { t with ms := { t.ms with lines := t.ms.lines.set key (if discard then {} else { l with dirty := l.dirty && !write }) } }

/-- Read a word through the Hall caches. -/
def State.hallRead (s : State) (k : Nat) (mid : Mid) (a : Nat) : PWord × State :=
  let t := s.fillLine (k - 144) mid a
  let key := (k - 144) * 2 ^ 40 + a / 64 * 64
  let w := (t.ms.lines.get key).words.getD (a % 64 / 8) (0, 0)
  match eccOutcome w.1 w.2 with
  | .uncorrectable =>
    if (t.ms.lines.get key).dirty then (⟨w.1, true⟩, t.countRead (5, k - 144) mid a w.1 w.2 1)
    else
      let u := ((t.cleanLine (k - 144) a false true).inc (R.ECC_UE 5 (k - 144))).logAt 3 (5, k - 144) (syndrome w.1 w.2).toNat mid.toNat a 255
      let v := u.fillLine (k - 144) mid a
      let z := (v.ms.lines.get key).words.getD (a % 64 / 8) (0, 0)
      (eccData z.1 z.2, v)
  | _ => (eccData w.1 w.2, t.countRead (5, k - 144) mid a w.1 w.2 1)

/-- Write part of a word through the Hall caches. -/
def State.hallWrite (s : State) (k : Nat) (mid : Mid) (a size data : Nat) (mark : Bool) : State :=
  let y := s.hallRead k mid a
  let o := a % 8
  let m := mergeBytes y.1.data (BitVec.ofNat 64 (data * 2 ^ (8 * o))) (BitVec.ofNat 8 ((2 ^ size - 1) * 2 ^ o))
  y.2.putLine (k - 144) a ⟨m, if size = 8 then mark else y.1.mark || mark⟩

/-- The plain content of the register at a bus address: each field's bits, without any side effect of a read. -/
def State.regWord (s : State) (a : Nat) : Nat :=
  match R.all.find? (fun d => d.hasAddr (busAddr a)) with
  | some d => d.fields.foldl (fun n f => n + s.rd (f.at (busAddr a)) * 2 ^ f.lo) 0
  | none => 0

/-- Serve one scalar read of core `k` at its target. -/
def State.serveRead (s : State) (k : Nat) (a : Access) : (Nat × Bool) × State :=
  let mid := s.midOf k
  if a.device then (((s.regWord a.bus) % 2 ^ (8 * a.size), false), s)
  else if a.mask = 1 then s.readPart mid a.bus a.size
  else if a.cached && decide (144 ≤ k) then
    let y := s.hallRead k mid a.bus
    ((wordPart y.1.data (a.bus % 8) a.size, y.1.mark), y.2)
  else s.readPart mid (s.storeAddr a.bus) a.size

/-- Serve one scalar write at its target; a device register's own command carries out what the write does there. -/
def State.serveWrite (s : State) (k : Nat) (a : Access) : State :=
  let mid := s.midOf k
  if a.device then s
  else if a.mask = 1 then s.writePart mid a.bus a.size a.data a.mark
  else if a.cached && decide (144 ≤ k) then s.hallWrite k mid a.bus a.size a.data a.mark
  else s.writePart mid (s.storeAddr a.bus) a.size a.data a.mark

/-- The value a load writes. -/
def loadValue (k : Nat) (a : Access) (v : Nat) : Nat := if a.signExt then trunc (xlen k) (sext (8 * a.size) v) else v

def loadWrite (k : Nat) (a : Access) (v : Nat) (t : Bool) : RegW :=
  if a.file = .v then .f a.reg v t else .g a.reg (loadValue k a v) t

/-- The new value of an atomic (R95). -/
def atomNew (op : AtomOp) (w old b cmp : Nat) : Nat :=
  match op with
  | .swap => b
  | .add => old + b
  | .and => Nat.land old b
  | .or => Nat.lor old b
  | .xor => Nat.xor old b
  | .min => if sext w old ≤ sext w b then old else b
  | .max => if sext w old ≤ sext w b then b else old
  | .minu => min old (b % 2 ^ w)
  | .maxu => max old (b % 2 ^ w)
  | .cas => if old = cmp % 2 ^ w then b else old

/-- Perform the elements of a vector load into vD (R139, R154). -/
def State.vloadDo (s : State) (k dst ew : Nat) (es : List (Nat × Nat)) : State :=
  let mid := s.midOf k
  let go := fun (acc : List (Nat × Nat × Bool) × State) (e : Nat × Nat) =>
    let y := acc.2.readPart mid e.2 (ew / 8)
    ((e.1, y.1.1, y.1.2) :: acc.1, y.2)
  let r := es.foldl go ([], s)
  let c := r.2.core k
  let w := c.vwrite dst ew (fun i => (r.1.find? (fun q => q.1 == i)).map (fun q => q.2))
  r.2.setCore k (c.write k w)

/-- Perform the elements of a vector store in increasing index. -/
def State.vstoreDo (s : State) (k ew : Nat) (es : List (Nat × Nat × Nat × Bool)) : State :=
  es.foldl (fun t e => t.writePart (t.midOf k) e.2.1 (ew / 8) e.2.2.1 e.2.2.2) s

end Sys2Proof.Machine
end

