-- ==== Sys2Proof/Machine/Quern.lean ====
section
/-! DEFINITION. Machine/Quern.lean: the matrix coprocessor of a hamlet: its lock, its jobs with their numerics, squash,
abort and the writing of results (R163 to R180).
Choices of the model: log entries 31 (DESIGN CHOICE). -/

namespace Sys2Proof.Machine

/-! ## Elements -/

/-- A complex element: the fp32 bits of its real and imaginary parts. -/
abbrev Cplx := Nat × Nat

/-- An fp32 result as the Quern writes it: one NaN, no subnormal (R115). -/
def fpClean (x : Nat) : Nat :=
  let y := x % 2 ^ 32
  match fp32.unpack y with
  | (.nan _, _) => fp32.qnan
  | (.fin n 0 _, _) => fp32.zero n
  | _ => y

def cClean (x : Cplx) : Cplx := (fpClean x.1, fpClean x.2)
def fpNeg (x : Nat) : Nat := Nat.xor x (2 ^ 31)
def cConj (x : Cplx) : Cplx := (x.1, fpNeg x.2)
def cDot (sub : Bool) (init : Cplx) (ts : List (Cplx × Cplx)) : Cplx := cClean (Config.quernDot sub init ts)
def cDiv (a b : Cplx) : Cplx := cClean (Config.quernDiv a b)
def at8 (m : List Cplx) (r c : Nat) : Cplx := m.getD (8 * r + c) (0, 0)

/-- The squared magnitude of a pivot lies below 2^-120, or the pivot is NaN (R176). -/
def tinyPivot (x : Cplx) : Bool :=
  match fp32.unpack x.1, fp32.unpack x.2 with
  | (.fin _ m e, _), (.fin _ n g, _) =>
    let b : Int := min (-120) (min (2 * e) (2 * g))
    decide (m * m * 2 ^ (2 * e - b).toNat + n * n * 2 ^ (2 * g - b).toNat < 2 ^ (-120 - b).toNat)
  | (.nan _, _), _ => true
  | _, (.nan _, _) => true
  | _, _ => false

/-- The value under a root of qchol lies below 2^-120 (negative values included), or is NaN. -/
def tinyRoot (x : Nat) : Bool :=
  match fp32.unpack x with
  | (.fin neg m e, _) =>
    let b : Int := min (-120) e
    neg || decide (m * 2 ^ (e - b).toNat < 2 ^ (-120 - b).toNat)
  | (.nan _, _) => true
  | (.inf neg, _) => neg

def pow2m60 : Nat := (127 - 60) * 2 ^ 23
def pow2m120 : Nat := (127 - 120) * 2 ^ 23

/-! ## Operations (R166, R176) -/

/-- What a job computes: its result elements row by row (Q then R for qqr), and the column of the first replaced pivot. -/
structure QOut where
  els : List Cplx
  pivot : Option Nat := none
deriving DecidableEq, Repr

def rowsOf (f : Nat → Nat → Cplx) : List Cplx := (List.range 64).map (fun i => f (i / 8) (i % 8))

def qMul (z : Option (List Cplx)) (x y : List Cplx) (herm : Bool) : List Cplx :=
  rowsOf (fun r c => cDot false ((z.map (fun m => at8 m r c)).getD (0, 0))
    ((List.range 8).map (fun k => (if herm then cConj (at8 x k r) else at8 x r k, at8 y k c))))

/-- Column `j` of L from the columns before it: its diagonal, the elements below, and whether its pivot was replaced. -/
def cholCol (x : List Cplx) (cols : List (List Cplx)) (j : Nat) : List Cplx × Bool :=
  let l := fun r k => (cols.getD k []).getD r (0, 0)
  let v := (cDot true ((at8 x j j).1, 0) ((List.range j).map (fun k => (l j k, cConj (l j k))))).1
  let bad := tinyRoot v
  let d : Cplx := ((fp32.op2 4 (if bad then pow2m120 else v) 0).bits, 0)
  ((List.range 8).map (fun r =>
    if r < j then (0, 0)
    else if r = j then d
    else cDiv (cDot true (at8 x r j) ((List.range j).map (fun k => (l r k, cConj (l j k))))) d), bad)

def qChol (x : List Cplx) : QOut :=
  let go := fun (acc : List (List Cplx) × Option Nat) j =>
    let y := cholCol x acc.1 j
    (acc.1 ++ [y.1], if acc.2 = none ∧ y.2 then some j else acc.2)
  let r := (List.range 8).foldl go ([], none)
  { els := rowsOf (fun i c => (r.1.getD c []).getD i (0, 0)), pivot := r.2 }

/-- Solve with the lower triangle of `x` (rows downwards) or with its conjugate transpose (rows upwards). -/
def qTrs (x y : List Cplx) (upper : Bool) : QOut :=
  let order := if upper then (List.range 8).reverse else List.range 8
  let go := fun (acc : List (Nat × List Cplx) × Option Nat) r =>
    let p := if upper then cConj (at8 x r r) else at8 x r r
    let bad := tinyPivot p
    let d : Cplx := if bad then (pow2m60, 0) else p
    let row := (List.range 8).map (fun c =>
      cDiv (cDot true (at8 y r c) (acc.1.map (fun q => (if upper then cConj (at8 x q.1 r) else at8 x r q.1, q.2.getD c (0, 0))))) d)
    (acc.1 ++ [(r, row)], if acc.2 = none ∧ bad then some r else acc.2)
  let z := order.foldl go ([], none)
  { els := rowsOf (fun r c => (((z.1.find? (fun q => q.1 == r)).map (fun q => q.2)).getD []).getD c (0, 0)), pivot := z.2 }

/-- R of qqr is upper triangular with a real diagonal that is not negative. -/
def qQr (x : List Cplx) : QOut :=
  let y := Config.quernQr x
  { els := rowsOf (fun r c => cClean (at8 y.1 r c)) ++ rowsOf (fun r c =>
      if c < r then (0, 0) else if c = r then (fpClean (at8 y.2 r c).1 % 2 ^ 31, 0) else cClean (at8 y.2 r c)) }

def qCompute (op : Nat) (x y z : List Cplx) : QOut :=
  match op with
  | 0 => { els := qMul none x y false }
  | 1 => { els := qMul none x y true }
  | 2 => { els := qMul (some z) x y false }
  | 3 => qChol x
  | 4 => qTrs x y false
  | 5 => qTrs x y true
  | 6 => { els := rowsOf (fun r c => cClean (at8 (Config.quernInv x) r c)), pivot := (Config.quernInvPivot x).map (fun c => c.val) }
  | _ => qQr x

/-! ## Formats (R163, R164, R177) -/

def matBytes (fmt : Nat) : Nat := if fmt = 1 then 512 else 256

/-- The operands an operation reads: X, Y, and the old Z. -/
def readsY (op : Nat) : Bool := decide (op ≤ 2 ∨ op = 4 ∨ op = 5)
def readsZ (op : Nat) : Bool := decide (op = 2)
/-- Only the lower triangle of X is read. -/
def lowerOnly (op : Nat) : Bool := decide (op = 3 ∨ op = 4 ∨ op = 5)

/-- The elements of a matrix read as words: c16 with its block exponent, or fp32. -/
def qElems (fmt : Nat) (ws : List PWord) (e : Int) : List Cplx :=
  (List.range 64).map (fun i =>
    if fmt = 1 then
      let d := (ws.getD i {}).data.toNat
      (d % 2 ^ 32, d / 2 ^ 32)
    else
      let d := (ws.getD (i / 2) {}).data.toNat / 2 ^ (32 * (i % 2)) % 2 ^ 32
      ((fp32.roundInt (sext 16 d) (e - 15) false).bits, (fp32.roundInt (sext 16 (d / 65536)) (e - 15) false).bits))

/-- The words of a matrix that an operation reads. -/
def qWordRead (fmt : Nat) (low : Bool) (i : Nat) : Bool :=
  if low then (if fmt = 1 then decide (i % 8 ≤ i / 8) else decide (2 * i % 8 ≤ 2 * i / 8)) else true

/-- A part of a result as a c16 half at exponent `e`, and whether it saturates. -/
def c16Half (x : Nat) (e : Int) : Nat × Bool :=
  match fp32.unpack x with
  | (.nan _, _) => (Config.quernNanHalf x % 65536, false)
  | (.inf neg, _) => (trunc 16 (if neg then -32768 else 32767), true)
  | (.fin neg m g, _) =>
    let y := rshr (signed neg m) (-(g + 15 - e))
    (trunc 16 (fit y 16 true), outside y 16)

def c16Sat (els : List Cplx) (e : Int) : Bool := els.any (fun x => (c16Half x.1 e).2 || (c16Half x.2 e).2)

/-- The automatic exponent: the smallest at which no half saturates, or 31. -/
def autoExp (els : List Cplx) : Int :=
  (((List.range 63).map (fun i => (i : Int) - 31)).find? (fun e => !c16Sat els e)).getD 31

/-- The words of a result. -/
def qWords (fmt : Nat) (els : List Cplx) (e : Int) (mark : Bool) : List PWord :=
  if fmt = 1 then els.map (fun x => ⟨BitVec.ofNat 64 (x.1 + x.2 * 2 ^ 32), mark⟩)
  else
    let h := fun x : Cplx => (c16Half x.1 e).1 + (c16Half x.2 e).1 * 65536
    (List.range (els.length / 2)).map (fun i => ⟨BitVec.ofNat 64 (h (els.getD (2 * i) (0, 0)) + h (els.getD (2 * i + 1) (0, 0)) * 2 ^ 32), mark⟩)

/-! ## Addresses and the checks at issue (R165, R172) -/

/-- The storage address of `n` bytes at core address `a` of core `k`, within its plot or its hamlet's barn. -/
def quernAddr (k a n : Nat) : Option Nat :=
  if 0x01000000 ≤ a ∧ a + n ≤ 0x01040000 then some (plotBase (hamOf k) (phyOf k) + (a - 0x01000000))
  else if a + n ≤ 0x200000 then some (barnBase (hamOf k) + a)
  else none

def ptrBase (p : Nat) : Nat := p / 64 * 64
def ptrExp (p : Nat) : Int := sext 6 p

/-- The logical core and current item of a physical hamlet core: the Quern's owner identity (R168). -/
def State.quernMe (s : State) (k : Nat) : Nat × Option Nat :=
  let l := s.logicalOf (hamOf k) (phyOf k)
  (l, (s.reeve.cores.get (9 * hamOf k + l)).cur)

def State.quernMine (s : State) (k : Nat) : Bool := decide ((s.querns.get (hamOf k)).owner = some (s.quernMe k))

/-- QUERN_CORE_FAULT.CAUSE of a job syllable, 0 for none. -/
def State.quernCheck (s : State) (k op fmt x y z : Nat) : Nat :=
  let n := matBytes fmt
  let ins := [x] ++ (if readsY op then [y] else []) ++ (if readsZ op then [z] else [])
  let out := (ptrBase z, if op = 7 then 2 * n else n)
  let okAt := fun a m => decide ((quernAddr k a m).isSome)
  if !s.quernMine k then 1
  else if !(ins.all (fun p => okAt (ptrBase p) n)) || !(okAt out.1 n) || (decide (op = 7) && !(okAt (out.1 + n) n)) then 3
  else if fmt = 1 ∧ (ins ++ [z]).any (fun p => p % 64 != 0) then 4
  else if fmt = 0 ∧ ins.any (fun p => p % 64 == 32) then 4
  else 0

/-! ## Lock and jobs (R168 to R175) -/

/-- QUERN_STATUS shows the lock and the jobs held. -/
def State.setQuern (s : State) (h : Nat) (q : Quern) : State :=
  let t := { s with querns := s.querns.set h q }
  let o := q.owner.getD (0, some 0)
  ((((t.wrB (R.QUERN_STATUS_LOCKED h) q.owner.isSome).wr (R.QUERN_STATUS_OWNER_CORE h) o.1).wrB (R.QUERN_STATUS_OWNER_NONE h)
    (decide (o.2 = none))).wr (R.QUERN_STATUS_JOBS_HELD h) q.jobs.length).wr (R.QUERN_STATUS_OWNER_ITEM h) (o.2.getD 0)

/-- qlock: 1 when held by the caller. -/
def State.quernLock (s : State) (k : Nat) : Bool × State :=
  let h := hamOf k
  let q := s.querns.get h
  match q.owner with
  | none => (true, s.setQuern h { q with owner := some (s.quernMe k) })
  | some o => if o = s.quernMe k then (true, s) else (false, s.incSat (R.QUERN_COUNTS_LOCK_MISS h))

def State.quernFree (s : State) (h : Nat) : State := s.setQuern h { s.querns.get h with owner := none }

/-- QUERN_CORE_STATUS of logical core `c` (R175): a job has ended. -/
def State.quernEnd (s : State) (h c : Nat) (j : QuernJob) (status : Nat) (late : Bool) : State :=
  let ok := decide (status = 0)
  let t := ((((((s.wr (R.QUERN_CORE_STATUS_STATUS h c) status).wrB (R.QUERN_CORE_STATUS_ABORT_LATE h c) late).wrB
    (R.QUERN_CORE_STATUS_SINGULAR h c) (ok && j.singular)).wrB (R.QUERN_CORE_STATUS_SAT h c) (ok && j.sat)).wrB
    (R.QUERN_CORE_STATUS_NONFINITE h c) (ok && j.nonfinite)).wr (R.QUERN_CORE_STATUS_INDEX h c) (if ok then j.index else 0)).wr
    (R.QUERN_CORE_STATUS_EXP h c) (if ok then j.exp else 0)
  (t.inc (R.QUERN_CORE_STATUS_SEQ h c)).inc (R.QUERN_JOBS_COUNT h)

/-- qabort, and the abort of an item's jobs: every unended job ends ABORTED and its results are discarded (R174). -/
def State.quernAbort (s : State) (h : Nat) : State :=
  let q := s.querns.get h
  let t := s.setQuern h { q with jobs := [] }
  q.jobs.foldl (fun u j => u.quernEnd h (s.logicalOf h (phyOf j.core)) j 2 false) t

/-- The jobs of item `slot` of logical core `c` abort and its lock is freed (R171, R580). -/
def State.quernForce (s : State) (h c slot : Nat) : State :=
  if (s.querns.get h).owner = some (c, some slot) then ((s.quernAbort h).quernFree h).incSat (R.QUERN_COUNTS_FORCED_FREE h) else s

/-- Read the words of a matrix. -/
def State.quernRead (s : State) (k p fmt : Nat) : List PWord × State :=
  match quernAddr k (ptrBase p) (matBytes fmt) with
  | some a => s.readWords (s.midOf k) a (matBytes fmt / 8)
  | none => ([], s)

/-- The words of X that are not read count nothing: only those that `low` names are read. -/
def State.quernReadLow (s : State) (k p fmt : Nat) : List PWord × State :=
  match quernAddr k (ptrBase p) (matBytes fmt) with
  | some a =>
    (List.range (matBytes fmt / 8)).foldl (fun acc i =>
      if qWordRead fmt true i then
        let y := acc.2.readWord (acc.2.midOf k) (a + 8 * i)
        (acc.1 ++ [y.1], y.2)
      else (acc.1 ++ [({} : PWord)], acc.2)) ([], s)
  | none => ([], s)

/-- The running job reads its operands and computes (R173, R176 to R178). -/
def State.quernStart (s : State) (h : Nat) : State :=
  let q := s.querns.get h
  match q.jobs with
  | [] => s
  | j :: rest =>
    if j.result.isSome || j.after.any (fun a => (s.core j.core).acc.contains a) then s
    else
      let rx := if lowerOnly j.op then s.quernReadLow j.core j.x j.fmt else s.quernRead j.core j.x j.fmt
      let ry := if readsY j.op then rx.2.quernRead j.core j.y j.fmt else ([], rx.2)
      let rz := if readsZ j.op then ry.2.quernRead j.core j.z j.fmt else ([], ry.2)
      let poison := anyMark rx.1 || anyMark ry.1 || anyMark rz.1
      let o := qCompute j.op (qElems j.fmt rx.1 (ptrExp j.x)) (qElems j.fmt ry.1 (ptrExp j.y)) (qElems j.fmt rz.1 (ptrExp j.z))
      let e := if ptrExp j.z = -32 then autoExp o.els else ptrExp j.z
      let bad := fun x : Nat => match fp32.unpack x with
        | (.fin _ _ _, _) => false
        | _ => true
      let j1 : QuernJob := { j with
        result := some (qWords j.fmt o.els e poison), status := if poison then 1 else 0, singular := o.pivot.isSome,
        index := o.pivot.getD 0, sat := decide (j.fmt = 0) && c16Sat o.els e,
        nonfinite := decide (j.fmt = 1) && o.els.any (fun x => bad x.1 || bad x.2),
        exp := if j.fmt = 0 then trunc 6 e else 0 }
      { rz.2 with querns := rz.2.querns.set h { q with jobs := j1 :: rest } }

/-- A committed job joins the queue; it starts at once on an idle Quern. -/
def State.quernSubmit (s : State) (k op fmt x y z : Nat) : State :=
  let h := hamOf k
  let q := s.querns.get h
  let j : QuernJob := { core := k, op := op, fmt := fmt, x := x, y := y, z := z,
                        after := (s.core k).acc.filter (fun a => a.kind = .store) }
  let t := s.setQuern h { q with jobs := q.jobs ++ [j] }
  if q.jobs = [] then t.quernStart h else t

/-- The results of the running job are written and it ends (R173, R175, R178). -/
def State.quernFinish (s : State) (h : Nat) : State :=
  let q := s.querns.get h
  match q.jobs with
  | [] => s
  | j :: rest =>
    match j.result with
    | none => s
    | some ws =>
      let n := matBytes j.fmt / 8
      let put := fun (t : State) (a : Nat) (l : List PWord) => match quernAddr j.core a (matBytes j.fmt) with
        | some st => t.writeWords st l
        | none => t
      let t := put (s.setQuern h { q with jobs := rest }) (ptrBase j.z) (ws.take n)
      let u := if j.op = 7 then put t (ptrBase j.z + matBytes j.fmt) (ws.drop n) else t
      u.quernEnd h (s.logicalOf h (phyOf j.core)) j j.status false

/-! ## Meanings -/

def execQuernJobStart (h : Fin 16) (s : State) : Outc := .next (s.quernStart h.val)

def execQuernJobEnd (h : Fin 16) (s : State) : Outc := .next (s.quernFinish h.val)

end Sys2Proof.Machine
end

