-- ==== Sys2Proof/Machine/Reeve.lean ====
section
/-! DEFINITION. Machine/Reeve.lean: the task scheduler: slots and names, descriptors and their checks, counts, ranking and
dispatch, preemption, kills, ends, reports and event flags (R181 to R220, R45 to R51).
Choices of the model: log entries 24 (DEDUCED), 33 (DEDUCED), 34 (DEDUCED), 35 (DEDUCED). -/

namespace Sys2Proof.Machine

def reeveMid : Mid := 0xB2

/-! ## Descriptors (R184) -/

/-- Word `i` of a descriptor read as eight 64-bit words. -/
def dw (ws : List PWord) (i : Nat) : Nat := (word32 ws i).toNat

/-- A valid successor entry's batch position. -/
def succOf (e : Nat) : Option Nat := if nbit e 15 then some (e % 4096) else none

/-- The 16-bit entries of a list of 32-bit words, lower half first. -/
def halves (l : List Nat) : List Nat := l.flatMap (fun w => [w % 65536, w / 65536 % 65536])

/-- The entries that a descriptor holds itself. -/
def ownEntries (ws : List PWord) : List Nat := halves [dw ws 8, dw ws 9, dw ws 10]

def extCount (ws : List PWord) : Nat := nbits (dw ws 11) 26 6
def extAddr (ws : List PWord) : Nat := nbits (dw ws 11) 6 20 * 64

def parseItem (ws : List PWord) (ext : List Nat) : ItemDesc :=
  let w0 := dw ws 0
  let w2 := dw ws 2
  let w3 := dw ws 3
  let w12 := dw ws 12
  let w15 := dw ws 15
  { target := nbits w0 29 3, cls := nbits w0 26 3, hard := nbit w0 25, tol := nbit w0 24, preemptor := nbit w0 23, pinned := nbit w0 22,
    report := nbit w0 21, reportQ := nbits w0 15 6, deps := nbits w0 0 12, deadline := dw ws 1, hamletMask := nbits w2 16 16,
    unitMask := nbits w2 0 16, userTag := nbits w3 16 16, entry := nbits w3 0 15, args := [dw ws 4, dw ws 5, dw ws 6, dw ws 7],
    succs := (ownEntries ws ++ ext).filterMap succOf, evWait := nbit w12 31, evAny := nbit w12 30, evConsume := nbit w12 29,
    evGroup := nbits w12 0 6, evMask := pair32 (dw ws 13) (dw ws 14), evSet := nbit w15 31, setGroup := nbits w15 8 6, setFlag := nbits w15 0 6 }

/-- A field that R184 requires to be zero and is not, a reserved TARGET, or an ENTRY that is not a multiple of 4. -/
def fieldBad (ws : List PWord) (ext : List Nat) : Bool :=
  let w0 := dw ws 0
  let w2 := dw ws 2
  let w3 := dw ws 3
  let t := nbits w0 29 3
  let ent := (ownEntries ws ++ ext).any (fun e => nbits e 12 3 != 0)
  decide (5 ≤ t) || nbits w0 12 3 != 0 || nbit w3 15 || nbits w3 0 2 != 0 || ent || nbits (dw ws 11) 0 6 != 0 ||
  nbits (dw ws 12) 6 23 != 0 || nbits (dw ws 15) 14 17 != 0 || nbits (dw ws 15) 6 2 != 0 ||
  (if t = 0 then nbits w2 8 8 != 0
   else nbits w2 16 16 != 0 || nbits w3 0 15 != 0 || dw ws 5 != 0 || dw ws 6 != 0 || dw ws 7 != 0 ||
     (decide (t = 4) && (nbits w2 0 16 != 0 || dw ws 4 != 0)))

/-- The Kiln engines that run an OP (R221), as a mask. -/
def kilnMask (op : Nat) : Nat :=
  match op with
  | 1 => 0x00FF
  | 2 => 0x0F00
  | 3 => 0x3000
  | 4 => 0x3000
  | 5 => 0xC000
  | 6 => 0x0F00
  | 7 => 0x0F00
  | _ => 0

/-- AFFINITY (R185, R223, R254); `op` is the OP of a Kiln item's job where it was read. -/
def affinityBad (d : ItemDesc) (op : Option Nat) : Bool :=
  match d.target with
  | 0 => decide (d.hamletMask = 0 ∨ d.unitMask % 256 = 0)
  | 1 => decide (d.unitMask = 0) || (match op with | some o => Nat.land d.unitMask (65535 - kilnMask o) != 0 | none => false)
  | 2 => decide (d.unitMask = 0)
  | 3 => decide (d.unitMask = 0 ∨ d.unitMask / 256 ≠ 0)
  | _ => false

def evNonZero (ws : List PWord) : Bool := dw ws 12 != 0 || dw ws 13 != 0 || dw ws 14 != 0 || dw ws 15 != 0

/-- The words of one descriptor and of its extension as they were read, or cause READ or POISON. -/
def State.readDesc (s : State) (addr : Nat) (ext : Bool) : Except Nat (List PWord × List Nat) × State :=
  match s.granaryRead reeveMid addr 8 with
  | (none, t) => (.error 9, t)
  | (some ws, t) =>
    if anyMark ws then (.error 8, t)
    else
      let n := extCount ws
      if !ext || n = 0 then (.ok (ws, []), t)
      else match t.granaryRead reeveMid (extAddr ws) ((n + 3) / 4) with
        | (none, u) => (.error 9, u)
        | (some es, u) =>
          if anyMark es then (.error 8, u)
          else (.ok (ws, (halves ((List.range (2 * es.length)).map (fun i => (word32 es i).toNat))).take n), u)

/-- Word 0x00 of a Kiln item's job descriptor (R223): its OP, or cause READ or POISON. -/
def State.readKilnOp (s : State) (a : Nat) : Except Nat Nat × State :=
  match s.target a with
  | .inl _ => (.error 9, s)
  | .inr _ =>
    let y := s.readWord reeveMid (s.storeAddr (a / 8 * 8))
    if y.1.mark then (.error 8, y.2) else (.ok (y.1.data.toNat / 2 ^ 28 % 16), y.2)

def opOf (k : Except Nat Nat) : Nat :=
  match k with
  | .ok o => o
  | .error _ => 0

/-- The first cause of R185 beyond NO_SLOT, READ and POISON of the descriptor itself, 0 for none. `late` is the DEADLINE
condition, `succBad` the SUCC condition, `named` how many entries of the batch name the item. -/
def descCause (compat : Bool) (ws : List PWord) (ext : List Nat) (kiln : Except Nat Nat) (late succBad : Bool) (named : Nat) : Nat :=
  let d := parseItem ws ext
  let op : Option Nat := match kiln with
    | .ok o => some o
    | .error _ => none
  if fieldBad ws ext then 2
  else if (match kiln with | .ok _ => true | .error _ => false) && affinityBad d op then 3
  else if late then 4
  else if succBad then 5
  else if d.deps < named then 6
  else if (evNonZero ws && !compat) || (d.evWait && (d.deps != 0 || named != 0)) then 7
  else if d.target = 1 then (match kiln with | .error c => c | .ok _ => 0)
  else 0

/-! ## Items, slots and names (R181 to R183) -/

def State.item (s : State) (slot : Nat) : Option Item := s.reeve.items.get slot

/-- The lowest number from `n` on that is no key of a rising list. -/
def firstGap : Nat → List Nat → Nat
  | n, [] => n
  | n, k :: r => if n < k then n else firstGap (n + 1) r

def State.freeSlots (s : State) : Nat := 4096 - s.reeve.items.entries.length

/-- The registers that show how full the Reeve is (R219). -/
def State.showReeve (s : State) : State :=
  let l := s.reeve.items.entries.filterMap (fun e => e.2)
  let n := l.length
  let depth := fun p => (l.filter (fun i => decide (i.state = .ready) && p i)).length
  let t := (s.wr R.REEVE_SLOTS_IN_USE n).wr R.REEVE_SLOTS_HIGH_WATER (max n (s.rd R.REEVE_SLOTS_HIGH_WATER))
  let u := (List.range 8).foldl (fun x k => x.wr (R.REEVE_READY_DEPTH_DEPTH k) (depth (fun i => decide (i.d.target = 0 ∧ i.d.cls = k)))) t
  let v := (List.range 3).foldl (fun x w => x.wr (R.REEVE_WS_DEPTH_DEPTH w) (depth (fun i => decide (i.d.target = w + 1)))) u
  v.wrB R.REEVE_STATUS_REPORT_HELD (s.reeve.queues.any (fun _ q => decide (q.waiting ≠ [])))

def State.setItem (s : State) (slot : Nat) (i : Option Item) : State :=
  State.showReeve { s with reeve := { s.reeve with items := s.reeve.items.set slot i } }

def State.modItem (s : State) (slot : Nat) (f : Item → Item) : State :=
  match s.item slot with
  | some i => s.setItem slot (some (f i))
  | none => s

/-- The name of a windowed item, and of a loose one (R182). -/
def windowName (g w i : Nat) : Nat := g * 65536 + w * 4096 + i
def looseName (slot gen : Nat) : Nat := 2 ^ 23 + gen / 16 % 16 * 65536 + gen % 16 * 4096 + slot

/-- Take a slot for an item (R181). -/
def State.takeSlot (s : State) (i : Nat → Nat → Item) : Nat × State :=
  let k := firstGap 0 s.reeve.items.keys
  (k, (s.setItem k (some (i k (s.reeve.gens.get k)))).ledgerCount (ledgerId 5 0) 1 0)

/-- Return a slot (R218). -/
def State.freeSlot (s : State) (slot : Nat) : State :=
  let t := { s with reeve := { s.reeve with gens := s.reeve.gens.modify slot (fun g => (g + 1) % 256) } }
  (t.setItem slot none).ledgerCount (ledgerId 5 0) 0 1

inductive Named where
  | item (slot : Nat)
  | ended
  | nothing
deriving DecidableEq, Repr

/-- What a name refers to when it reaches the Reeve (R183): an item, a windowed item whose slot has been returned, or
nothing. -/
def State.named (s : State) (n : Nat) : Named :=
  if nbit n 23 then
    let k := n % 4096
    let g := nbits n 16 4 * 16 + nbits n 12 4
    match s.item k with
    | some i => if i.window = none ∧ s.reeve.gens.get k = g ∧ nbits n 20 3 = 0 then .item k else .nothing
    | none => .nothing
  else
    let g := nbits n 16 6
    let w := nbits n 12 4
    let x := n % 4096
    if nbit n 22 then .nothing
    else if s.reeve.batches.any (fun b => decide (b.1 = g ∧ b.2.1 = w ∧ x < b.2.2)) then
      match s.reeve.items.entries.find? (fun e => match e.2 with
        | some i => decide (i.window = some (g, w, x)) && decide (i.state ≠ .shadow)
        | none => false) with
      | some e => .item e.1
      | none => .ended
    else .nothing

/-! ## Cores at the Reeve -/

def rkey (h c : Nat) : Nat := 9 * h + c
def State.rcore (s : State) (h c : Nat) : ReeveCore := s.reeve.cores.get (rkey h c)
/-- The physical core behind logical core `c`, as a core number. -/
def State.coreAt (s : State) (h c : Nat) : Nat := 9 * h + s.physOf h c

def coreStCode : CoreSt → Nat
  | .offline => 0
  | .idle => 1
  | .running => 2
  | .preempting => 3
  | .killing => 4
  | .lapseOverrun => 5
  | .halted => 7

/-- REEVE_CORE_STATE and REEVE_CORE_BUSY show the core. -/
def State.setRcore (s : State) (h c : Nat) (r : ReeveCore) : State :=
  let old := s.rcore h c
  let r1 : ReeveCore :=
    if old.cur.isSome ∧ r.cur = none then { r with busy := old.busy + (s.stp.now - old.from_) * 3 / 131072 }
    else if r.cur.isSome ∧ old.cur ≠ r.cur then { r with from_ := s.stp.now }
    else r
  let t := { s with reeve := { s.reeve with cores := s.reeve.cores.set (rkey h c) r1 } }
  let name := match r.cur with
    | some k => ((s.item k).map (·.name)).getD 0
    | none => 0
  (((((t.wr (R.REEVE_CORE_STATE_STATE h c) (coreStCode r.st)).wr (R.REEVE_CORE_STATE_HELD h c) r.held.length).wrB
    (R.REEVE_CORE_STATE_ITEM_VALID h c) r.cur.isSome).wrB (R.REEVE_CORE_STATE_OVR_DONE h c) r.ovrDone).wr
    (R.REEVE_CORE_STATE_ITEM_NAME h c) name).wr (R.REEVE_CORE_BUSY h c) (r1.busy / 1024)

def State.modRcore (s : State) (h c : Nat) (f : ReeveCore → ReeveCore) : State := s.setRcore h c (f (s.rcore h c))

/-- Interrupt codes of a core (R76). -/
def irqPreempt : Nat := 1
def irqLapseKill : Nat := 2

def State.coreIrq (s : State) (k code : Nat) : State :=
  s.modCore k (fun c => { c with irqs := if c.irqs.contains code then c.irqs else c.irqs ++ [code] })
def State.coreUnirq (s : State) (k code : Nat) : State :=
  s.modCore k (fun c => { c with irqs := c.irqs.filter (fun x => x != code) })

/-! ## Event tap (R618) -/

/-- HEAD and LEVEL of the tap; while the exporter takes the tap's records, HEAD reads zero (R619). -/
def State.showTap (s : State) (l : List (List Nat)) : State :=
  let t := { s with dbg := { s.dbg with tap := l } }
  let h := if s.bit R.TRACE_CFG_EN && s.bit R.TRACE_SRC_EN1 then [] else l.headD []
  (((((t.wr (R.REEVE_TAP_HEAD 0) (h.getD 0 0)).wr (R.REEVE_TAP_HEAD 1) (h.getD 1 0)).wr (R.REEVE_TAP_HEAD 2) (h.getD 2 0)).wr
    (R.REEVE_TAP_HEAD 3) (h.getD 3 0)).wr R.REEVE_TAP_LEVEL_LEVEL l.length)

def itemEndCode : ItemEnd → Nat
  | .ok => 0
  | .lapsed => 1
  | .aborted => 2
  | .poisoned => 3

/-- Record event `ev` (1 to 5) of an item. -/
def State.tapEvent (s : State) (ev : Nat) (slot : Nat) : State :=
  match s.item slot with
  | none => s
  | some i =>
    let sel := s.bit R.REEVE_TAP_CFG_EN && nbit (s.rd R.REEVE_TAP_CFG_EVENTS) (ev - 1) && decide (i.d.target ≤ 3) &&
      (!s.bit R.REEVE_TAP_CFG_LG_EN || (match i.window with
        | some (g, _, _) => decide (g = s.rd R.REEVE_TAP_CFG_LOCK_GROUP)
        | none => false))
    if !sel then s
    else
      let st := if ev = 2 then (i.outcome.map itemEndCode).getD 0 else 0
      let pl := match i.place with
        | some (.core h c) => h * 256 + c
        | some (.engine w e) => (0x80 + w) * 256 + e
        | none => 0
      let rec_ := [s.tick, ev * 2 ^ 28 + st * 2 ^ 24 + i.name, i.d.userTag * 65536 + pl, i.d.deadline]
      if s.dbg.tap.length < 1024 then s.showTap (s.dbg.tap ++ [rec_])
      else if s.bit R.REEVE_TAP_CFG_WRAP then ((s.showTap (s.dbg.tap.drop 1 ++ [rec_])).incSat R.REEVE_TAP_LEVEL_LOST).loseRecord 32
      else (s.incSat R.REEVE_TAP_LEVEL_LOST).loseRecord 32

/-! ## Tokens (R190) -/

/-- Put a token on its way. -/
def State.sendToken (s : State) (byReeve : Bool) (t : Token) : State :=
  let u := s.decrIssue byReeve
  { u with reeve := { u.reeve with tokens := u.reeve.tokens ++ [t] } }

/-- An ending item sends a token to each successor. -/
def State.sendSuccs (s : State) (i : Item) (lapse : Bool) : State :=
  match i.window with
  | none => s
  | some (g, w, _) => i.d.succs.foldl (fun t x => t.sendToken true ⟨windowName g w x, lapse, i.d.userTag⟩) s

/-! ## Reports (R212 to R214) -/

/-- The report of an item, without VALID, STALE and SEQ. -/
def reportBody (i : Item) : Nat :=
  (i.outcome.map itemEndCode).getD 0 * 2 ^ 58 + (if i.late then 2 ^ 57 else 0) + (if i.abortLate then 2 ^ 56 else 0) +
  (if i.tainted then 2 ^ 55 else 0) + i.d.userTag * 2 ^ 24 + i.name

def State.setQueue (s : State) (q : Nat) (x : ReportQueue) : State :=
  let t := State.showReeve { s with reeve := { s.reeve with queues := s.reeve.queues.set q x } }
  (t.wr (R.REEVE_REPORT_LEVEL_COUNT q) x.unread.length).wrB (R.REEVE_REPORT_LEVEL_FULL q) (decide (x.unread.length = 64))

/-- Place a report in its queue, which has room, and raise its interrupt. -/
def State.placeReport (s : State) (q slot : Nat) : State :=
  match s.item slot with
  | none => s
  | some i =>
    let x := s.reeve.queues.get q
    let t := s.setQueue q { x with unread := x.unread ++ [reportBody i + x.seq % 256 * 2 ^ 40], seq := (x.seq + 1) % 256 }
    let u := t.modItem slot (fun y => { y with reported := true })
    if u.bit (R.REEVE_REPORT_CFG_IRQ_EN q) then
      if u.bit (R.REEVE_REPORT_CFG_DEST q) then u.irqHost q else u.irq .report q
    else u

/-- An item whose outcome is decided posts its report, or waits for a place. -/
def State.postReport (s : State) (slot : Nat) : State :=
  match s.item slot with
  | none => s
  | some i =>
    if !i.d.report && !i.abortSeen then s.modItem slot (fun y => { y with reported := true })
    else
      let q := i.d.reportQ
      let x := s.reeve.queues.get q
      if x.waiting = [] ∧ x.unread.length < 64 then s.placeReport q slot
      else s.setQueue q { x with waiting := x.waiting ++ [slot] }

/-- The end path of an item is reached: its slot is returned once its report is posted (R213, R218). -/
def State.release (s : State) (slot : Nat) : State :=
  match s.item slot with
  | none => s
  | some i => if i.reported then s.freeSlot slot else s.setItem slot (some { i with released := true, state := .ending })

/-! ## Outcomes -/

/-- Counters of an outcome (R219). -/
def State.countEnd (s : State) (i : Item) (o : ItemEnd) : State :=
  match o with
  | .ok =>
    let t := s.inc R.REEVE_RETIRED
    let u := if i.late then t.inc R.REEVE_LATE else t
    if i.abortLate then u.inc R.REEVE_ABORT_LATE else u
  | .aborted => s.inc R.REEVE_ABORTED
  | .poisoned => s.inc R.REEVE_POISONED
  | .lapsed => s

/-- PREEMPT on a core is withdrawn while the core has not taken it (R203). -/
def State.withdraw (s : State) (h c : Nat) : State :=
  let r := s.rcore h c
  if r.reserved.isSome ∧ !r.taken then
    let t := s.coreUnirq (s.coreAt h c) irqPreempt
    t.setRcore h c { r with reserved := none, st := if r.st = .preempting then .running else r.st }
  else s

/-- A reservation for an item that has ended is dropped; PREEMPT is withdrawn where the core has not taken it. -/
def State.unreserve (s : State) (slot : Nat) : State :=
  (s.reeve.cores.filterKeys (fun _ r => decide (r.reserved = some slot))).foldl (fun t k =>
    let h := k / 9
    let c := k % 9
    if (t.rcore h c).taken then t.modRcore h c (fun r => { r with reserved := none }) else t.withdraw h c) s

/-! ### Event flags (R215, R216) -/

def State.flags (s : State) (g : Nat) : DWord := pair32 (s.rd (R.REEVE_EV_FLAGS_FLAGS g 0)) (s.rd (R.REEVE_EV_FLAGS_FLAGS g 1))
def State.setFlags (s : State) (g : Nat) (v : DWord) : State :=
  (s.wr (R.REEVE_EV_FLAGS_FLAGS g 0) (v.toNat % 2 ^ 32)).wr (R.REEVE_EV_FLAGS_FLAGS g 1) (v.toNat / 2 ^ 32)

/-- The flags satisfy an item's mask. -/
def State.evMet (s : State) (d : ItemDesc) : Bool :=
  let f := s.flags d.evGroup &&& d.evMask
  if d.evAny then f != 0 else f == d.evMask

/-- An item arrives in READY. -/
def State.makeReady (s : State) (slot : Nat) : State :=
  s.modItem slot (fun i => { i with state := .ready, arrival := s.reeve.arrivals, readyTick := ((s.stp.now / 262144 : Nat) : Int) })

/-- Decide an outcome: tokens leave, a flag is set, the report is posted (R190, R205, R213, R215). -/
def State.conclude (s : State) (slot : Nat) (o : ItemEnd) (late : Bool) : State :=
  match s.item slot with
  | none => s
  | some i0 =>
    let i := { i0 with outcome := some o, late := late }
    let t := (s.setItem slot (some i)).countEnd i o
    let u := t.sendSuccs i (decide (o = .lapsed ∨ o = .aborted))
    let v := if o = .ok ∧ i.d.evSet ∧ u.bit R.REEVE_CTRL_COMPAT then
        u.setFlags i.d.setGroup (u.flags i.d.setGroup ||| BitVec.ofNat 64 (2 ^ i.d.setFlag)) else u
    ((v.tapEvent 2 slot).postReport slot).unreserve slot

/-- An item that is not on a unit ends: its outcome is decided and its slot returned the cycle after. -/
def State.endWaiting (s : State) (slot : Nat) (o : ItemEnd) : State := (s.conclude slot o false).release slot

/-- The deadline of a live item has passed (R45). -/
def State.late (s : State) (i : Item) : Bool := passed s.tick i.d.deadline

/-- A WAITING or READY item whose deadline has passed ends LAPSED (R205). -/
def State.lapseIfPassed (s : State) (slot : Nat) : State :=
  match s.item slot with
  | some i => if (i.state = .waiting ∨ i.state = .ready) ∧ s.late i then (s.inc R.REEVE_LAPSED_WAIT).endWaiting slot .lapsed else s
  | none => s

/-- A WAITING item whose count is zero and whose condition holds goes on: it lapses by its taint, ends as a join, or
becomes READY (R47, R187, R209, R216). -/
def State.settle (s : State) (slot : Nat) : State :=
  match s.item slot with
  | none => s
  | some i =>
    if i.state ≠ .waiting ∨ i.count ≠ 0 ∨ (i.d.evWait && !s.evMet i.d) then s
    else if i.tainted ∧ !i.d.tol then (s.inc R.REEVE_LAPSED_CASCADE).endWaiting slot .lapsed
    else if i.d.target = 4 then s.endWaiting slot .ok
    else s.makeReady slot

/-- Settle WAITING items whose flags are met, one after another. -/
def State.settleLoop : Nat → State → State
  | 0, s => s
  | n + 1, s =>
    match s.reeve.items.filterKeys (fun _ o => match o with
      | some i => i.d.evWait && (i.state == .waiting) && s.evMet i.d
      | none => false) with
    | [] => s
    | k :: _ => State.settleLoop n ((s.lapseIfPassed k).settle k)

/-- Waiting items are settled anew, after flags may have been set. -/
def State.settleAll (s : State) : State := State.settleLoop (s.reeve.items.entries.length + 1) s

/-- Commands that bring items into READY count as one arrival. -/
def State.newArrival (s : State) : State := { s with reeve := { s.reeve with arrivals := s.reeve.arrivals + 1 } }

/-- A decrement or lapse token reaches the Reeve (R191, R47). -/
def State.applyToken (s : State) (t : Token) : State :=
  let s0 := s.decrReturn
  let s1 := match s0.named t.name with
    | .item k => s0.lapseIfPassed k
    | _ => s0
  match s1.named t.name with
  | .nothing => s1.inc R.REEVE_DROP_UNPLANNED
  | .ended => s1.inc R.REEVE_DECR_EXCESS
  | .item k =>
    match s1.item k with
    | none => s1
    | some i =>
      if i.outcome.isSome ∨ i.count = 0 then s1.inc R.REEVE_DECR_EXCESS
      else
        let j := { i with count := i.count - 1, tainted := i.tainted || t.lapse,
                          lapses := if t.lapse then min (i.lapses + 1) 4095 else i.lapses,
                          ltags := if t.lapse && decide (i.ltags.length < 4) then i.ltags ++ [t.tag] else i.ltags }
        ((s1.setItem k (some j)).settle k).settleAll

/-! ## Kills (R205, R206, R171) -/

/-- Kill an item on a core: its outcome is decided, LAPSE_KILL is raised, or a PREEMPTED item waits for re-entry. -/
def State.killItem (s : State) (slot reason : Nat) (o : ItemEnd) : State :=
  match s.item slot with
  | none => s
  | some i =>
    match i.place with
    | some (.core h c) =>
      if i.outcome.isSome ∨ (i.state ≠ .running ∧ i.state ≠ .preempted) then s
      else
        let t := ((s.setItem slot (some { i with reason := reason })).inc R.REEVE_KILLED).conclude slot o false
        let u := t.tapEvent 5 slot
        if i.state = .preempted then u
        else (u.modItem slot (fun x => { x with killAt := some s.stp.now })).coreIrq (s.coreAt h c) irqLapseKill
    | _ => s

/-- A core has no current item any more and becomes IDLE. -/
def State.idleCore (s : State) (h c : Nat) : State :=
  let t := s.modRcore h c (fun r => { r with st := .idle, cur := none, taken := false })
  t.modCore (s.coreAt h c) (fun x => { x with run := .idle })

/-- The item of a core ends with its slot, its Quern jobs and lock (R48, R580). -/
def State.cutItem (s : State) (h c slot : Nat) : State := ((s.quernForce h c slot).release slot).inc R.REEVE_OVERRUNS

/-- A core HALTs: its current item ends LAPSED (R580). -/
def State.haltItem (s : State) (h c : Nat) : State :=
  let r := s.rcore h c
  let t := match r.cur with
    | none => s
    | some k =>
      let u := match s.item k with
        | some i => if i.outcome = none then s.conclude k .lapsed false else s
        | none => s
      u.cutItem h c k
  let v := t.withdraw h c
  v.modRcore h c (fun x => { x with st := .halted, cur := none, reserved := none, taken := false })

/-! ## Ranking (R194) -/

/-- Item `a` in slot `ka` ranks before item `b` in slot `kb`. -/
def ranksBefore (ka : Nat) (a : Item) (kb : Nat) (b : Item) : Bool :=
  if a.d.cls ≠ b.d.cls then decide (b.d.cls < a.d.cls)
  else if a.d.deadline ≠ b.d.deadline then tickBefore a.d.deadline b.d.deadline
  else if a.arrival ≠ b.arrival then decide (a.arrival < b.arrival)
  else decide (ka < kb)

/-- The top-ranked slot of those that `p` admits. -/
def State.topItem (s : State) (p : Nat → Item → Bool) : Option Nat :=
  (s.reeve.items.entries.foldl (fun (best : Option (Nat × Item)) e =>
    match e.2 with
    | none => best
    | some i =>
      if !p e.1 i then best
      else match best with
        | none => some (e.1, i)
        | some b => if ranksBefore e.1 i b.1 b.2 then some (e.1, i) else best) none).map (·.1)

/-- A timed flip waits for the core (R103). -/
def State.flipWaits (s : State) (h c : Nat) : Bool :=
  s.bit (R.HAMLET_IMEM_CTRL_ARM h c) && passed s.tick (s.rd (R.HAMLET_IMEM_TICK_FLIP_TICK h c))

/-- A core is eligible for an item in every respect except state (R195). -/
def State.eligible (s : State) (h c : Nat) (d : ItemDesc) : Bool :=
  decide (d.target = 0) && nbit d.hamletMask h && nbit (s.rd R.REEVE_HAMLET_EN_EN) h && decide (c < 8) &&
  nbit (d.unitMask % 256) c && nbit (s.rd (R.REEVE_CORE_EN_EN h)) c && !s.flipWaits h c

/-- A core whose reservation keeps a preemptor from other cores: it has taken PREEMPT (R203). -/
def State.reservedElsewhere (s : State) (h c slot : Nat) : Bool :=
  s.reeve.cores.any (fun k r => decide (r.reserved = some slot ∧ k ≠ rkey h c) && r.taken)

/-- What an IDLE core takes next: an item re-entered by a kill comes first (R206), then the preemptor reserved for it
(R202), then the top-ranked of its READY and PREEMPTED items (R194, R195). -/
inductive NextItem where
  | none
  | reenter (slot : Nat)
  | resume (slot : Nat)
  | dispatch (slot : Nat)
deriving DecidableEq, Repr

def State.nextFor (s : State) (h c : Nat) : NextItem :=
  let r := s.rcore h c
  if r.st ≠ .idle then .none
  else match r.held.find? (fun k => match s.item k with
      | some i => i.outcome.isSome
      | _ => false) with
    | some k => .reenter k
    | _ =>
      let fresh := fun (k : Nat) (i : Item) => decide (i.state = .ready) && s.eligible h c i.d && !s.reservedElsewhere h c k && s.bit R.REEVE_CTRL_ENABLE
      let kept := match r.reserved with
        | some p => (match s.item p with | some i => fresh p i | _ => false)
        | _ => false
      if kept then .dispatch (r.reserved.getD 0)
      else
        match s.topItem (fun k i => fresh k i || (decide (i.state = .preempted) && r.held.contains k)) with
        | some k => if r.held.contains k then .resume k else .dispatch k
        | _ => .none

/-- The waiting-time histogram counts a dispatched core item (R220). -/
def State.histogram (s : State) (i : Item) : State :=
  if s.bit R.REEVE_HIST_CFG_ALL ∨ s.rd R.REEVE_HIST_CFG_CLASS = i.d.cls then
    let w := (((s.stp.now / 262144 : Nat) : Int) - i.readyTick).toNat
    s.inc (R.REEVE_HIST (min 7 (w / 2 ^ s.rd R.REEVE_HIST_CFG_WIDTH_LOG2)))
  else s

/-- Trap status bit BUSY (R66). -/
def clearBusy (v : Nat) : Nat := v % 2 ^ 31

/-- A new item begins on a core (R197). -/
def State.beginItem (s : State) (h c slot : Nat) (i : Item) : State :=
  let k := s.coreAt h c
  let consumed := if i.d.evWait ∧ i.d.evConsume then s.setFlags i.d.evGroup (s.flags i.d.evGroup &&& ~~~i.d.evMask) else s
  let t := ((consumed.setItem slot (some { i with state := .running, place := some (.core h c) })).histogram i).inc R.REEVE_DISPATCHED
  let u := t.modRcore h c (fun r => { r with st := .running, cur := some slot, reserved := if r.reserved = some slot then none else r.reserved, taken := false })
  let v := u.modCore k (fun x =>
    let y := x.writes k [.g 1 (i.d.args.getD 0 0) false, .g 2 (i.d.args.getD 1 0) false, .g 3 (i.d.args.getD 2 0) false, .g 4 (i.d.args.getD 3 0) false]
    { (y.setCr 0x404 (clearBusy (y.cr 0x404))).setCr 0xC04 (clearBusy (y.cr 0xC04)) with
      run := .running, pc := i.d.entry, level := .worker })
  (v.tapEvent 1 slot)

/-- A held item is entered at Keeper, at an offset of its trap vector (R204, R206). -/
def State.enterHeld (s : State) (h c slot off : Nat) (killed : Bool) : State :=
  let k := s.coreAt h c
  let t := s.modItem slot (fun i => { i with state := if killed then .killing else .running, place := some (.core h c),
                                             killAt := if killed then some s.stp.now else i.killAt })
  let u := t.modRcore h c (fun r => { r with st := if killed then .killing else .running, cur := some slot,
                                             held := r.held.filter (fun x => x != slot), taken := false })
  u.modCore k (fun x => { x with run := .running, level := .keeper, ie := false, pc := (x.cr 0xC00 + off) % 2 ^ xlen k })

/-! ## Aborts (R210) -/

/-- A write of a name to REEVE_ABORT. -/
def State.abortItem (s : State) (n : Nat) : State :=
  match s.named n with
  | .item k =>
    match s.item k with
    | none => s.inc R.REEVE_ABORT_MISS
    | some i =>
      let t := s.setItem k (some { i with abortSeen := i.abortSeen || decide (i.outcome = none) })
      if i.outcome.isSome then
        if i.outcome = some .ok ∧ !i.abortLate then (s.setItem k (some { i with abortLate := true })).inc R.REEVE_ABORT_LATE
        else if i.abortSeen ∨ i.d.report then s
        else (s.setItem k (some { i with abortSeen := true, reported := false })).postReport k
      else match i.state with
        | .waiting => t.endWaiting k .aborted
        | .ready => t.endWaiting k .aborted
        | .running => match i.place with
          | some (.engine _ _) => { t with reeve := { t.reeve with wsAborts := t.reeve.wsAborts ++ [k] } }
          | _ => t.killItem k 3 .aborted
        | .preempted => t.killItem k 3 .aborted
        | _ => s.inc R.REEVE_ABORT_MISS
  | _ => s.inc R.REEVE_ABORT_MISS

/-! ## The slot sweep of the Reeve (R50) -/

/-- Items of window (group, tag) lapse or are killed. -/
def State.reeveSweep (s : State) (g w : Nat) : State :=
  (s.reeve.items.filterKeys (fun _ o => match o with
    | some i => (match i.window with | some (a, b, _) => decide (a = g ∧ b = w) | none => false) && decide (i.state ≠ .shadow) && decide (i.outcome = none)
    | none => false)).foldl (fun t k =>
      match t.item k with
      | some i => match i.state with
        | .waiting => t.endWaiting k .lapsed
        | .ready => t.endWaiting k .lapsed
        | .running => t.killItem k 2 .lapsed
        | .preempted => t.killItem k 2 .lapsed
        | _ => t
      | none => t) s

/-! ## Submit ports (R188) -/

/-- The checks of a loose descriptor beyond NO_SLOT: the item, or a cause. -/
def State.looseCheck (s : State) (addr : Nat) : Except Nat ItemDesc × State :=
  if !s.bit R.REEVE_CTRL_ENABLE then (.error 2, s)
  else match s.readDesc addr false with
    | (.error c, t) => (.error c, t)
    | (.ok (ws, _), t) =>
      let d := parseItem ws []
      let k := if d.target = 1 then t.readKilnOp (d.args.getD 0 0 * 256) else (.ok 0, t)
      let lead := leadTicks t.tick d.deadline
      let late := passed t.tick d.deadline || decide (maxLead < lead)
      let cause := descCause (t.bit R.REEVE_CTRL_COMPAT) ws [] k.1 late (d.succs != [] || extCount ws != 0) 0
      if cause = 0 then (.ok { d with kilnOp := opOf k.1 }, k.2) else (.error cause, k.2)

/-- The fields of an outcome below SEQ. -/
def outcomeBody (accepted : Bool) (cause name : Nat) : Nat := (if accepted then 2 ^ 61 else 0) + cause * 2 ^ 57 + name

def State.setPort (s : State) (p : Nat) (x : SubmitPort) : State := { s with reeve := { s.reeve with ports := s.reeve.ports.set p x } }

/-! ## The batch of a plan (R186, R187) -/

/-- Read every descriptor of a batch. -/
def State.readBatch (s : State) (addr : Nat) : Nat → Nat → List (Except Nat (List PWord × List Nat)) × State
  | _, 0 => ([], s)
  | i, n + 1 =>
    let x := s.readDesc (addr + 64 * i) true
    let y := State.readBatch x.2 addr (i + 1) n
    (x.1 :: y.1, y.2)

/-- How many entries of a batch name position `x`. -/
def namings (l : List ItemDesc) (x : Nat) : Nat := l.foldl (fun n d => n + (d.succs.filter (fun y => y == x)).length) 0

def descOf (r : Except Nat (List PWord × List Nat)) : ItemDesc :=
  match r with
  | .ok (ws, ext) => parseItem ws ext
  | .error _ => {}

/-- Check a batch read as `rs`: cause and Kiln OP in batch order, and the state after the Kiln words are read. -/
def State.checkBatch (s : State) (commitTick sweepTick : Nat) (ds : List ItemDesc) : Nat → List (Except Nat (List PWord × List Nat)) → List (Nat × Nat) × State
  | _, [] => ([], s)
  | i, r :: rest =>
    let x : (Nat × Nat) × State := match r with
      | .error c => ((c, 0), s)
      | .ok (ws, ext) =>
        let d := parseItem ws ext
        let k := if d.target = 1 then s.readKilnOp (d.args.getD 0 0 * 256) else (.ok 0, s)
        let late := passed commitTick d.deadline || (tickBefore sweepTick d.deadline)
        ((descCause (s.bit R.REEVE_CTRL_COMPAT) ws ext k.1 late (d.succs.any (fun y => decide (ds.length ≤ y))) (namings ds i), opOf k.1), k.2)
    let y := State.checkBatch x.2 commitTick sweepTick ds (i + 1) rest
    (x.1 :: y.1, y.2)

/-- What the Reeve answers to part 0 of a plan. -/
inductive BatchResult where
  | accepted (ds : List ItemDesc)
  | rejected (poison : Bool)
deriving DecidableEq, Repr

/-- Validate part 0 (R186); a rejection is recorded. -/
def State.batchCheck (s : State) (g addr n commitTick sweepTick : Nat) : BatchResult × State :=
  let reject := fun (t : State) (cause idx : Nat) (poison : Bool) =>
    ((BatchResult.rejected poison, ((((t.wr R.REEVE_ARM_REJECT_CAUSE cause).wr R.REEVE_ARM_REJECT_LOCK_GROUP g).wr R.REEVE_ARM_REJECT_INDEX idx).wr
      R.REEVE_STATUS_ARM_REJECTED 1)) : BatchResult × State)
  if n = 0 then (.accepted [], s)
  else if s.freeSlots < n then reject s 1 0 false
  else if !s.bit R.REEVE_CTRL_ENABLE then reject s 2 0 false
  else
    let x := s.readBatch addr 0 n
    let ds := x.1.map descOf
    let y := x.2.checkBatch commitTick sweepTick ds 0 x.1
    let poison := x.1.any (fun r => match r with | .error c => decide (c = 8) | .ok _ => false)
    match y.1.findIdx? (fun c => c.1 != 0) with
    | none => (.accepted ((ds.zip y.1).map (fun x => { x.1 with kilnOp := x.2.2 })), y.2)
    | some i => reject y.2 (y.1.getD i (0, 0)).1 i poison

/-- Take the slots of an accepted batch, in SHADOW. -/
def State.takeBatch (s : State) (g w plan : Nat) : Nat → List ItemDesc → State
  | _, [] => s
  | i, d :: r =>
    State.takeBatch (s.takeSlot (fun _ _ => { d := d, window := some (g, w, i), plan := plan, name := windowName g w i, state := .shadow, count := d.deps })).2
      g w plan (i + 1) r

/-- The items of an armed plan in SHADOW. -/
def State.shadowItems (s : State) (plan : Nat) : List Nat :=
  s.reeve.items.filterKeys (fun _ o => match o with
    | some i => decide (i.state = .shadow ∧ i.plan = plan)
    | none => false)

/-- A refused or withdrawn plan returns its slots (R218). -/
def State.dropBatch (s : State) (plan : Nat) : State := (s.shadowItems plan).foldl (fun t k => t.freeSlot k) s

/-- A plan commits: its items become WAITING, and READY where nothing holds them (R187). -/
def State.commitBatch (s : State) (g w plan n : Nat) : State :=
  let ks := s.shadowItems plan
  let t := { s with reeve := { s.reeve with batches := s.reeve.batches ++ [(g, w, n)] } }
  let u := ks.foldl (fun t k => t.modItem k (fun i => { i with state := .waiting })) t.newArrival
  (ks.foldl (fun t k => t.settle k) u).settleAll

/-! ## Meanings -/

/-- REEVE_SUBMIT_CMD (R188). -/
def execReeveSubmitCmd (port : Fin 16) (v : Word) (s : State) : Outc :=
  let p := port.val
  let x := s.reeve.ports.get p
  if x.coming.isSome then .next (s.wr R.REEVE_STATUS_SUBMIT_LOST 1)
  else if s.freeSlots = 0 then .next (s.setPort p { x with coming := some (outcomeBody false 1 0) })
  else match s.looseCheck (bitsOf v 6 20 * 64) with
    | (.error c, t) => .next (t.setPort p { x with coming := some (outcomeBody false c 0) })
    | (.ok d, t) =>
      let y := t.newArrival.takeSlot (fun k g => { d := d, name := looseName k g, state := .waiting, count := d.deps })
      let name := ((y.2.item y.1).map (·.name)).getD 0
      .next (((y.2.setPort p { x with coming := some (outcomeBody true 0 name) }).settle y.1).settleAll)

/-- REEVE_SUBMIT_OUTCOME (R188). -/
def execReeveSubmitOutcome (port : Fin 16) (s : State) : Outc :=
  let x := s.reeve.ports.get port.val
  match x.coming with
  | none => .next s
  | some b =>
    let t := if x.placed.isSome then s.wr R.REEVE_STATUS_SUBMIT_LOST 1 else s
    .next (t.setPort port.val { x with coming := none, placed := some (b + x.seq % 256 * 2 ^ 40), seq := (x.seq + 1) % 256 })

/-- REEVE_SUBMIT_RESULT_TAKE (R214). -/
def execReeveSubmitResultTake (port : Fin 16) (wide : Bool) (s : State) : Outc :=
  let x := s.reeve.ports.get port.val
  let say := fun (t : State) (v : Nat) => t.reply ⟨.ok, 0, [⟨BitVec.ofNat 64 v, false⟩]⟩
  if !wide then .next (say s 0)
  else match x.placed, x.taken with
    | some b, _ => .next (say (s.setPort port.val { x with placed := none, taken := some b }) (2 ^ 63 + b))
    | none, some b => .next (say s (2 ^ 62 + b))
    | none, none => .next (say s 0)

/-- REEVE_DECR (R190): a token that the Reeve itself makes and applies. -/
def execReeveDecr (v : Word) (s : State) : Outc :=
  .next ((s.decrIssue true).newArrival.applyToken ⟨bitsOf v 0 24, bitOf v 31, 0xFFFF⟩)

/-- DECREMENT_ARRIVAL (R191). -/
def execDecrementArrival (n : Nat) (s : State) : Outc :=
  match s.reeve.tokens[n]? with
  | none => .next s
  | some t => .next (State.applyToken ({ s with reeve := { s.reeve with tokens := s.reeve.tokens.eraseIdx n } }).newArrival t)

/-- REEVE_ABORT (R210). -/
def execReeveAbort (v : Word) (s : State) : Outc := .next (s.abortItem (bitsOf v 0 24))

/-- ITEM_DISPATCH (R195): a deadline that has passed wins over the dispatch (R49); a consuming item whose condition no
longer holds returns to WAITING (R216). -/
def execItemDispatch (h : Fin 16) (c : Fin 9) (s : State) : Outc :=
  match s.nextFor h.val c.val with
  | .dispatch k =>
    match s.item k with
    | none => .next s
    | some i =>
      if s.late i then .next (s.lapseIfPassed k)
      else if i.d.evWait ∧ i.d.evConsume ∧ !s.evMet i.d then .next (s.setItem k (some { i with state := .waiting }))
      else
        let others := s.reeve.cores.filterKeys (fun j r => decide (r.reserved = some k ∧ j ≠ rkey h.val c.val))
        let t := others.foldl (fun t j => t.withdraw (j / 9) (j % 9)) s
        .next (t.beginItem h.val c.val k i)
  | _ => .next s

/-- ITEM_DEADLINE_LAPSE (R205). -/
def execItemDeadlineLapse (slot : Fin 4096) (s : State) : Outc := .next (s.lapseIfPassed slot.val)

/-- HARD_ITEM_KILL (R205). -/
def execHardItemKill (slot : Fin 4096) (s : State) : Outc :=
  match s.item slot.val with
  | some i => if i.d.hard ∧ (i.state = .running ∨ i.state = .preempted) ∧ s.late i then .next (s.killItem slot.val 1 .lapsed) else .next s
  | none => .next s

/-- A core and its running item that a preemptor may take (R201). -/
def State.victimOk (s : State) (p : Item) (h c : Nat) : Option Item :=
  let r := s.rcore h c
  match r.cur with
  | none => none
  | some k =>
    match s.item k with
    | none => none
    | some i =>
      if s.eligible h c p.d ∧ i.state = .running ∧ i.outcome = none ∧ i.d.cls < p.d.cls ∧ !i.d.pinned ∧ r.st = .running ∧
         r.held.length < 2 ∧ r.reserved = none then some i else none

/-- PREEMPT_SELECT (R201, R202 steps 1 and 2). -/
def execPreemptSelect (slot : Fin 4096) (s : State) : Outc :=
  match s.item slot.val with
  | none => .next s
  | some p =>
    let cores := (List.range 128).map (fun n => (n / 8, n % 8))
    let idle := cores.any (fun x => decide ((s.rcore x.1 x.2).st = .idle) && s.eligible x.1 x.2 p.d)
    let already := s.reeve.cores.any (fun _ r => decide (r.reserved = some slot.val))
    if p.state ≠ .ready ∨ !p.d.preemptor ∨ p.d.target ≠ 0 ∨ idle ∨ already ∨ s.late p ∨ !s.bit R.REEVE_CTRL_ENABLE then .next s
    else
      let better := fun (a b : Item) => if a.d.cls ≠ b.d.cls then decide (a.d.cls < b.d.cls) else tickBefore b.d.deadline a.d.deadline
      let best := cores.foldl (fun (best : Option ((Nat × Nat) × Item)) x =>
        match s.victimOk p x.1 x.2 with
        | none => best
        | some i => match best with
          | none => some (x, i)
          | some b => if better i b.2 then some (x, i) else best) none
      match best with
      | none => .next s
      | some ((h, c), _) =>
        .next ((s.modRcore h c (fun r => { r with st := .preempting, reserved := some slot.val, taken := false })).coreIrq (s.coreAt h c) irqPreempt)

/-- PREEMPT_WITHDRAW (R203): another eligible core is IDLE, or the preemptor no longer waits. -/
def execPreemptWithdraw (h : Fin 16) (c : Fin 9) (s : State) : Outc :=
  match (s.rcore h.val c.val).reserved with
  | none => .next s
  | some p =>
    let cores := (List.range 128).map (fun n => (n / 8, n % 8))
    let lost : Bool := match s.item p with
      | none => true
      | some i => decide (i.outcome.isSome) || cores.any (fun x => decide (x ≠ (h.val, c.val)) && decide ((s.rcore x.1 x.2).st = .idle) && s.eligible x.1 x.2 i.d)
    if lost then .next (s.withdraw h.val c.val) else .next s

/-- ITEM_RESUME (R204). -/
def execItemResume (h : Fin 16) (c : Fin 9) (s : State) : Outc :=
  match s.nextFor h.val c.val with
  | .resume k => .next ((s.enterHeld h.val c.val k 0x1C0 false).tapEvent 4 k)
  | _ => .next s

/-- PREEMPTED_KILL_REENTRY (R206). -/
def execPreemptedKillReentry (h : Fin 16) (c : Fin 9) (s : State) : Outc :=
  match s.nextFor h.val c.val with
  | .reenter k => .next (s.enterHeld h.val c.val k 0x80 true)
  | _ => .next s

/-- CORE_DONE_ARRIVAL (R198, R207, R218, R49). -/
def execCoreDoneArrival (h : Fin 16) (c : Fin 9) (s0 : State) : Outc :=
  let h := h.val
  let c := c.val
  let k := s0.coreAt h c
  match (s0.core k).run with
  | .doneSent v =>
    let s := s0.modCore k (fun x => { x with run := .idle })
    let r := s.rcore h c
    -- PREEMPT that the core has not taken is withdrawn; the preemptor stays reserved for this core
    let calm := fun (t : State) => if r.taken then t else t.coreUnirq k irqPreempt
    match r.st with
    | .lapseOverrun => .next (s.setRcore h c { r with ovrDone := true })
    | .halted => .next s
    | _ =>
      match r.cur with
      | none => .next ((calm s).idleCore h c)
      | some slot =>
        match s.item slot with
        | none => .next ((calm s).idleCore h c)
        | some i =>
          if r.st = .killing then .next ((calm (s.release slot)).idleCore h c)
          else if i.outcome.isSome then
            .next ((calm (((s.coreUnirq k irqLapseKill).inc R.REEVE_COMPL_DISCARDED).release slot)).idleCore h c)
          else if v = 2 then
            let t := s.setItem slot (some { i with state := .preempted })
            let u := if r.reserved.isSome then t.inc R.REEVE_PREEMPTIONS else t
            .next ((calm (u.modRcore h c (fun x => { x with held := x.held ++ [slot] }))).idleCore h c)
          else
            let t := s.newArrival.conclude slot (if v = 1 then .lapsed else .ok) (decide (v = 0) && s.late i)
            .next ((calm ((t.release slot).settleAll)).idleCore h c)
  | _ => .next s0

/-- LAPSE_HANDLER_OVERRUN (R48, R171). -/
def execLapseHandlerOverrun (h : Fin 16) (c : Fin 9) (s : State) : Outc :=
  let r := s.rcore h.val c.val
  match r.cur with
  | none => .next s
  | some slot =>
    match s.item slot with
    | none => .next s
    | some i =>
      match i.killAt with
      | none => .next s
      | some t0 =>
        if s.stp.now < t0 + 2000 * 65536 ∨ r.st = .lapseOverrun then .next s
        else
          let t := s.cutItem h.val c.val slot
          let u := (t.withdraw h.val c.val).modRcore h.val c.val (fun x => { x with st := .lapseOverrun, cur := none, reserved := none, taken := false })
          .next ((u.wr R.REEVE_STATUS_OVERRUN 1).irq .overrun (rkey h.val c.val))

/-- OVERRUN_CORE_RELEASE (R207). -/
def execOverrunCoreRelease (h : Fin 16) (c : Fin 9) (v : Word) (s : State) : Outc :=
  let r := s.rcore h.val c.val
  if bitOf v 28 ∧ r.st = .lapseOverrun ∧ r.ovrDone then
    .next ((s.setRcore h.val c.val { r with ovrDone := false }).idleCore h.val c.val)
  else .next s

/-- REPORT_POST_DEFERRED (R213). -/
def execReportPostDeferred (q : Fin 64) (s : State) : Outc :=
  let x := s.reeve.queues.get q.val
  match x.waiting with
  | [] => .next s
  | slot :: rest =>
    if x.unread.length < 64 then
      let t := (s.setQueue q.val { x with waiting := rest }).placeReport q.val slot
      match t.item slot with
      | some i => .next (if i.released then t.freeSlot slot else t)
      | none => .next t
    else .next s

/-- REEVE_REPORT_TAKE (R214). -/
def execReeveReportTake (q : Fin 64) (wide : Bool) (s : State) : Outc :=
  let x := s.reeve.queues.get q.val
  let say := fun (t : State) (v : Nat) => t.reply ⟨.ok, 0, [⟨BitVec.ofNat 64 v, false⟩]⟩
  if !wide then .next (say s 0)
  else match x.unread with
    | b :: r => .next (say (s.setQueue q.val { x with unread := r, taken := some b }) (2 ^ 63 + b))
    | [] => match x.taken with
      | some b => .next (say s (2 ^ 62 + b))
      | none => .next (say s 0)

/-- REPORT_QUEUE_FLUSH: a write of REEVE_REPORT_CFG (R219). -/
def execReportQueueFlush (q : Fin 64) (v : Word) (s : State) : Outc :=
  let t := s.wrWord v [R.REEVE_REPORT_CFG_IRQ_EN q.val, R.REEVE_REPORT_CFG_DEST q.val]
  if bitOf v 0 then
    let x := s.reeve.queues.get q.val
    .next ((t.addSat (R.REEVE_REPORT_LEVEL_LOST q.val) x.unread.length).setQueue q.val { x with unread := [], taken := none })
  else .next t

/-- EV_SET (R215). -/
def execEvSet (g : Fin 64) (hi : Bool) (v : Word) (s : State) : Outc :=
  if s.bit R.REEVE_CTRL_COMPAT then
    let m : DWord := if hi then BitVec.ofNat 64 (v.toNat * 2 ^ 32) else BitVec.ofNat 64 v.toNat
    .next ((s.setFlags g.val (s.flags g.val ||| m)).newArrival.settleAll)
  else .next s

/-- EV_FLAGS_CLEAR (R215). -/
def execEvFlagsClear (g : Fin 64) (hi : Bool) (v : Word) (s : State) : Outc :=
  let m : DWord := if hi then BitVec.ofNat 64 (v.toNat * 2 ^ 32) else BitVec.ofNat 64 v.toNat
  .next (s.setFlags g.val (s.flags g.val &&& ~~~m))

def descHasEv (d : ItemDesc) : Bool :=
  d.evWait || d.evAny || d.evConsume || d.evGroup != 0 || d.evMask != 0 || d.evSet || d.setGroup != 0 || d.setFlag != 0

/-- REEVE_COMPAT_WRITE: a write of REEVE_CTRL (R215, R219). -/
def execReeveCompatWrite (v : Word) (s : State) : Outc :=
  let live := s.reeve.items.any (fun _ o => match o with
    | some i => descHasEv i.d
    | none => false)
  let t := s.wr R.REEVE_CTRL_ENABLE (R.REEVE_CTRL_ENABLE.of v)
  .next (if live then t else t.wr R.REEVE_CTRL_COMPAT (R.REEVE_CTRL_COMPAT.of v))

end Sys2Proof.Machine
end

