-- ==== Sys2Proof/Machine/SieveDsp.lean ====
section
/-! DEFINITION. Machine/SieveDsp.lean: the arithmetic of a Sieve channel: NCO, stages, FIR with cross-fade, interpolator,
SERVICE and GUARD (R295 to R307).
Choices of the model: log entries 40 (DEDUCED). -/

namespace Sys2Proof.Machine

/-! ## The NCO (R295): exact rounding of 32,767 cos θ and 32,767 sin θ for θ = 2π a / 2^18 -/

/-- π/2 in units of 2^-80. -/
def halfPi80 : Int := 0x1921fb54442d18469898c

/-- Terms of the power series of cosine (`k` from 0) or sine (`k` from 1), in units of 2^-80. -/
def trigTerms (x : Int) : Nat → Nat → Int → Int → Int
  | 0, _, _, acc => acc
  | n + 1, k, t, acc =>
    let t' := -(t * x / 2 ^ 80 * x / 2 ^ 80 / (((k + 1) * (k + 2) : Nat) : Int))
    trigTerms x n (k + 2) t' (acc + t')

/-- cos and sin of θ for the 18-bit angle `a`, in units of 2^-80. -/
def cosSin80 (a : Nat) : Int × Int :=
  let x := halfPi80 * ((a % 65536 : Nat) : Int) / 65536
  let c := trigTerms x 15 0 (2 ^ 80) (2 ^ 80)
  let s := trigTerms x 15 1 x x
  match a / 65536 % 4 with
  | 0 => (c, s)
  | 1 => (-s, c)
  | 2 => (-c, -s)
  | _ => (s, -c)

def rnd80 (x : Int) : Int := (32767 * x * 2 + 2 ^ 80) / 2 ^ 81

/-- The NCO value c of a phase. -/
def ncoValue (phase : Nat) : Int × Int :=
  let v := cosSin80 (phase % 2 ^ 32 / 2 ^ 14)
  (rnd80 v.1, rnd80 v.2)

/-- The fractional interpolator (R307): phase 0 is a pure delay of 3 samples; every phase sums to 16,384. -/
def fracCoef (f k : Nat) : Int :=
  if f = 0 then (if k = 3 then 16384 else 0)
  else if k < 7 then Config.fracTap f k
  else 16384 - ((List.range 7).map (Config.fracTap f)).foldl (· + ·) 0

/-! ## A channel's settings -/

structure SvCfg where
  spf : Nat
  p : List Nat
  l : List Nat
  sh : List Nat
  taps : Nat
  firSh : Nat
  outSh : Nat
  freq : Int
  phase : Nat
  ncoFrame : Bool
  auto : Bool
  onWrap : Bool
  test : Bool
  extra : Nat
  testV : Int × Int
  coef : List (List Int)
  f0 : Int
  bl : Nat
deriving DecidableEq, Repr

def SvCfg.pn (c : SvCfg) (i : Nat) : Nat := c.p.getD i 1
def SvCfg.p5 (c : SvCfg) : Nat := c.pn 5

/-- The support S (R302). -/
def supportOf (l p : List Nat) (taps : Nat) : Nat :=
  1 + ((List.range 5).map (fun i => (l.getD i 1 - 1) * p.getD i 1)).foldl (· + ·) 0 + (taps - 1) * p.getD 5 1 + 7 * p.getD 5 1

def SvCfg.support (c : SvCfg) : Nat := supportOf c.l c.p c.taps

/-- Index time of `n` is at or after `t` (units of 2^-16 ns). -/
def SvCfg.atOrAfter (c : SvCfg) (n : Nat) (t : Int) : Bool :=
  decide (t * (c.spf : Int) ≤ (c.f0 * (c.spf : Int) + (n : Int) * 10000000) * 65536)

/-- Index time of `n` in whole ns, rounded down. -/
def SvCfg.indexNs (c : SvCfg) (n : Nat) : Int := c.f0 + (n : Int) * 10000000 / (c.spf : Int)

/-! ## Work on a channel -/

/-- A channel while its samples are processed: what it counts, its sticky flags, and what the index in hand has met. -/
structure SvRun where
  ch : SieveCh
  sat : Nat := 0
  wrap : Nat := 0
  guardSat : Bool := false
  wrapped : Bool := false
  noop : Nat := 0
  replaced : Nat := 0
  poison : Nat := 0
  metSat : Bool := false
  metWrap : Bool := false

/-- put(y, 18) of R299. -/
def SvRun.put (r : SvRun) (y : Int) : Int × SvRun :=
  if outside y 18 then
    if r.ch.guard then (fit y 18 true, { r with sat := r.sat + 1, guardSat := true, metSat := true })
    else (fit y 18 false, { r with wrap := r.wrap + 1, wrapped := true, metWrap := true })
  else (y, r)

def SvRun.put2 (r : SvRun) (y : Int × Int) : (Int × Int) × SvRun :=
  let a := r.put y.1
  let b := a.2.put y.2
  ((a.1, b.1), b.2)

/-- The final conversion to c16 (R299). -/
def SvRun.final (r : SvRun) (y : Int) : Int × SvRun :=
  if outside y 16 then
    (fit y 16 true, { r with sat := r.sat + 1, guardSat := r.guardSat || r.ch.guard, metSat := r.metSat || r.ch.guard })
  else (y, r)

def SvRun.final2 (r : SvRun) (y : Int × Int) : (Int × Int) × SvRun :=
  let a := r.final y.1
  let b := a.2.final y.2
  ((a.1, b.1), b.2)

def sum2 (l : List (Int × Int)) : Int × Int := l.foldl (fun a x => (a.1 + x.1, a.2 + x.2)) (0, 0)
def dot2 (c : List Int) (l : List (Int × Int)) : Int × Int := sum2 ((c.zip l).map (fun x => (x.1 * x.2.1, x.1 * x.2.2)))
def rshr2 (y : Int × Int) (s : Nat) : Int × Int := (rshr y.1 s, rshr y.2 s)

/-- Enter GUARD for a cause of R301. -/
def SieveCh.enterGuard (h : SieveCh) : SieveCh := { h with guard := true, gcount := 0, leave := false }

/-- Before index `n`: marks that take effect, and the return to SERVICE (R296, R302). -/
def SvRun.pre (c : SvCfg) (r : SvRun) (n : Nat) : SvRun :=
  let h := r.ch
  let due := h.ncoPend.filter (fun m => decide (m ≤ n))
  let h1 := { h with ncoBase := due.getLast?.getD h.ncoBase, ncoPend := h.ncoPend.filter (fun m => decide (n < m)) }
  let back := h1.guard && n % c.p5 == 0 && !c.test && (h1.leave || (c.auto && decide (c.support + c.extra ≤ h1.gcount)))
  { r with ch := if back then { h1 with guard := false, leave := false } else h1, metSat := false, metWrap := false }

/-- After an index: the count of R302, and GUARD after a wrap (R301). -/
def SvRun.post (c : SvCfg) (r : SvRun) : SvRun :=
  let h := r.ch
  let h1 := if r.metSat then { h with gcount := 0 }
    else if h.guard && c.auto && !c.test then { h with gcount := h.gcount + 1 } else h
  let h2 := if r.metWrap && c.onWrap then h1.enterGuard else h1
  { r with ch := { h2 with next := h2.next + 1 } }

/-- The mixer at index `n` (R295). -/
def SvCfg.mix (c : SvCfg) (h : SieveCh) (n : Nat) (x : Int × Int) : Int × Int :=
  let m := if c.ncoFrame then n % c.spf else n - h.ncoBase
  let v := ncoValue ((((c.phase : Int) + (m : Int) * c.freq) % 4294967296).toNat)
  (rshr (x.1 * v.1 - x.2 * v.2) 15, rshr (x.1 * v.2 + x.2 * v.1) 15)

/-! ## The FIR and its cross-fade (R303 to R305) -/

def SvRun.fir1 (c : SvCfg) (r : SvRun) (bank : Nat) : (Int × Int) × SvRun :=
  r.put2 (rshr2 (dot2 ((c.coef.getD bank []).take c.taps) r.ch.fir) (14 + c.firSh))

/-- A swap request is decided (R305); it may start from `start` on. -/
def SvRun.request (r : SvRun) (bank log2 : Nat) (start : Int) : SvRun :=
  let h := r.ch
  match h.fade with
  | some _ => { r with ch := { h with pend := some (bank, log2) }, replaced := if h.pend.isSome then r.replaced + 1 else r.replaced }
  | none =>
    if bank = h.active then { r with noop := r.noop + 1 }
    else { r with ch := { h with fade := some { bank := bank, log2 := log2, start := start } } }

/-- A fade that has reached F ends: its bank is active and a pending request is decided (R304, R305). -/
def SvRun.fadeEnd (r : SvRun) (start : Int) : SvRun :=
  match r.ch.fade with
  | some f =>
    if f.j = some (2 ^ f.log2) then
      let h := { r.ch with active := f.bank, fade := none }
      match h.pend with
      | some (b, l) => SvRun.request { r with ch := { h with pend := none } } b l start
      | none => { r with ch := h }
    else r
  | none => r

/-- The FIR value at index `n`. -/
def SvRun.firOut (c : SvCfg) (r0 : SvRun) (n : Nat) : (Int × Int) × SvRun :=
  let r := r0.fadeEnd ((c.f0 * (c.spf : Int) + (n : Int) * 10000000) * 65536 / (c.spf : Int))
  match r.ch.fade with
  | none => r.fir1 c r.ch.active
  | some f =>
    if f.j = none ∧ !c.atOrAfter n f.start then r.fir1 c r.ch.active
    else
      let j := f.j.getD 0
      let a := r.fir1 c r.ch.active
      let b := a.2.fir1 c f.bank
      let mixv := fun (x y : Int) => rshr ((2 ^ f.log2 - (j : Int)) * x + (j : Int) * y) f.log2
      ((mixv a.1.1 b.1.1, mixv a.1.2 b.1.2), { b.2 with ch := { b.2.ch with fade := some { f with j := some (j + 1) } } })

/-- The interpolator over its last 8 inputs. -/
def SvRun.fracOut (r : SvRun) : (Int × Int) × SvRun :=
  r.put2 (rshr2 (dot2 ((List.range 8).map (fracCoef r.ch.frac)) r.ch.frh) 14)

/-- Every output sample whose support holds a poisoned input is poisoned (R315). -/
def SvCfg.tainted (c : SvCfg) (h : SieveCh) (n : Nat) : Bool :=
  match h.plast with
  | some m => decide (n < m + c.support)
  | none => false

/-- The pending delay takes effect at the first low-rate index at or after its slot boundary (R308). -/
def SvRun.delay (c : SvCfg) (r : SvRun) (n int frac : Nat) : SvRun :=
  match r.ch.dpend with
  | some t => if c.atOrAfter n t then { r with ch := { r.ch with int := int, frac := frac, dpend := none } } else r
  | none => r

/-! ## DOWN (R297) -/

/-- The stages from stage `i + 1` on, at index `n`: the output of stage 5 where one is due. -/
def SvRun.stages (c : SvCfg) (n : Nat) : Nat → SvRun → Int × Int → Option (Int × Int) × SvRun
  | 0, r, u => (some u, r)
  | f + 1, r, u =>
    let i := 4 - f
    let li := c.l.getD i 1
    let line := (u :: (r.ch.hist.getD i [])).take li
    let r1 := { r with ch := { r.ch with hist := r.ch.hist.set i line } }
    if n % c.pn (i + 1) ≠ 0 then (none, r1)
    else if li = 1 ∧ c.pn (i + 1) = c.pn i then SvRun.stages c n f r1 u
    else
      let v := r1.put2 (rshr2 (sum2 line) (c.sh.getD i 0))
      SvRun.stages c n f v.2 v.1

/-- A low-rate sample goes into the burst that is being filled (R310). -/
def SvRun.emit (c : SvCfg) (r : SvRun) (k : Nat) (y : Int × Int) (bad : Bool) : SvRun :=
  let buf := r.ch.buf ++ [(y.1, y.2, bad)]
  let h := if buf.length = c.bl then
      { r.ch with buf := [], bursts := r.ch.bursts ++ [{ k0 := k + 1 - c.bl, data := buf, int := r.ch.int }] }
    else { r.ch with buf := buf }
  { r with ch := h, poison := if bad then r.poison + 1 else r.poison }

/-- One high-rate index of a DOWN channel. -/
def SvRun.down (c : SvCfg) (int frac : Nat) (r0 : SvRun) (x : Int × Int) (bad : Bool) : SvRun :=
  let n := r0.ch.next
  let r := SvRun.pre c r0 n
  let r1 := if bad && !c.test then { r with ch := { r.ch with plast := some n } } else r
  let u := if c.test then c.testV else c.mix r1.ch n (if bad then (0, 0) else x)
  let s := SvRun.stages c n 5 r1 u
  match s.1 with
  | none => s.2.post c
  | some v =>
    let r2 := SvRun.delay c { s.2 with ch := { s.2.ch with fir := (v :: s.2.ch.fir).take c.taps } } n int frac
    let f := r2.firOut c n
    let r3 := { f.2 with ch := { f.2.ch with frh := (f.1 :: f.2.ch.frh).take 8 } }
    let q := r3.fracOut
    let y := q.2.final2 (rshr2 q.1 c.outSh)
    (y.2.emit c (n / c.p5) y.1 (c.tainted y.2.ch n)).post c

/-! ## UP (R298) -/

/-- Stages 5 to 1 at index `n`: `v` is the input of stage `i + 1`, due when `n` is a multiple of P_(i+1). -/
def SvRun.upStages (c : SvCfg) (n : Nat) : Nat → SvRun → Int × Int → (Int × Int) × SvRun
  | 0, r, v => (v, r)
  | f + 1, r, v =>
    let i := f
    if n % c.pn i ≠ 0 then SvRun.upStages c n f r (0, 0)
    else
      let li := c.l.getD i 1
      let x := if n % c.pn (i + 1) = 0 then v else (0, 0)
      let line := (x :: (r.ch.hist.getD i [])).take li
      let r1 := { r with ch := { r.ch with hist := r.ch.hist.set i line } }
      if li = 1 ∧ c.pn (i + 1) = c.pn i then SvRun.upStages c n f r1 x
      else
        let w := r1.put2 (rshr2 (sum2 line) (c.sh.getD i 0))
        SvRun.upStages c n f w.2 w.1

/-- One high-rate index of an UP channel; `x` is the low-rate sample where one is due. -/
def SvRun.up (c : SvCfg) (int frac : Nat) (r0 : SvRun) (x : Int × Int) (bad : Bool) : (Int × Int × Bool) × SvRun :=
  let n := r0.ch.next
  let r := SvRun.pre c r0 n
  let due := n % c.p5 == 0
  let r1 := if bad && due then { r with ch := { r.ch with plast := some n } } else r
  let low : (Int × Int) × SvRun := if due then
      let r2 := SvRun.delay c r1 n int frac
      let r3 := { r2 with ch := { r2.ch with frh := ((if bad then (0, 0) else x) :: r2.ch.frh).take 8 } }
      let q := r3.fracOut
      let r4 := { q.2 with ch := { q.2.ch with fir := (q.1 :: q.2.ch.fir).take c.taps } }
      r4.firOut c n
    else ((0, 0), r1)
  let s := SvRun.upStages c n 5 low.2 low.1
  let y := s.2.final2 (rshr2 (c.mix s.2.ch n s.1) c.outSh)
  let mark := c.tainted y.2.ch n
  ((y.1.1, y.1.2, mark), SvRun.post c { y.2 with poison := if mark then y.2.poison + 1 else y.2.poison })

end Sys2Proof.Machine
end

