-- ==== Sys2Proof/Machine/Steeple.lean ====
section
/-! DEFINITION. Machine/Steeple.lean: the Steeple's time and its DPLL, lock groups from one slot to the next, Bells, PPS
outputs and captures (chapter 02). Starting and stopping groups, and plans, stand in Machine/Plan.lean.
Choices of the model: log entries 17 (DEDUCED), 18 (DESIGN CHOICE), 19 (DESIGN CHOICE), 25 (DEDUCED). -/

namespace Sys2Proof.Machine

/-! ## Master time and the DPLL (R20, R29, R30, R598) -/

def State.setStp (s : State) (x : Steeple) : State := { s with stp := x }

/-- No group is armed or runs, no Bell is enabled and no snapshot is armed: the Steeple may step (R30). -/
def State.mayStep (s : State) : Bool :=
  (List.range 64).all (fun g => decide (s.rd (R.LG_STATUS_STATE g) = 0)) &&
  (List.range 64).all (fun b => decide (s.rd (R.BELL_CFG_MODE b) = 0)) && decide (s.rd R.TALLY_SNAP_STATUS_STATE ≠ 1)

/-- DPLL_STATE changes; a change is an event of the Hearth queue (R622). -/
def State.dpllTo (s : State) (d : Nat) : State :=
  if s.rd R.STEEPLE_STATUS_DPLL_STATE = d then s
  else (s.wr R.STEEPLE_STATUS_DPLL_STATE d).raise ⟨4, 2, false, d, s.rd R.STEEPLE_STATUS_ACTIVE_SRC⟩

/-- Begin ACQUIRING on a source. -/
def State.dpllAcquire (s : State) (src : Nat) : State :=
  let t := s.wr R.STEEPLE_STATUS_ACTIVE_SRC src
  (t.setStp { t.stp with good := 0, missed := 0 }).dpllTo 1

/-- The phase sources in order of priority; code 0 names none. -/
def State.prios (s : State) : List Nat :=
  [s.rd R.STEEPLE_DPLL_SRC_PRIO0, s.rd R.STEEPLE_DPLL_SRC_PRIO1, s.rd R.STEEPLE_DPLL_SRC_PRIO2, s.rd R.STEEPLE_DPLL_SRC_PRIO3].filter
    (fun x => decide (1 ≤ x ∧ x ≤ 4))

/-- Remove a phase error: by a step where R30 allows it in ACQUIRING, else by slewing. `err` is in units of 2^-8 ns, the
Steeple's time minus the source's. -/
def State.dpllSteer (s : State) (err : Int) (freq : Nat) : State :=
  let far := decide (256000 < err.natAbs)
  if s.rd R.STEEPLE_STATUS_DPLL_STATE = 1 && far && s.mayStep then
    ((s.setStp { s.stp with now := ((s.stp.now : Int) - err * 256).toNat, freq := freq, slew := 0, slewAcc := 0 }).wr
      R.STEEPLE_STATUS_TIME_VALID 1).wr R.STEEPLE_STATUS_SLEWING 0
  else (s.setStp { s.stp with freq := freq, slew := - (err * 256) }).wrB R.STEEPLE_STATUS_SLEWING (decide (err ≠ 0))

/-- Count an update toward LOCKED: 8 consecutive ones with a filtered error below 20 ns (R29). -/
def State.dpllCount (s : State) (filtered : Int) : State :=
  let n := if filtered.natAbs < 5120 then s.stp.good + 1 else 0
  let t := s.setStp { s.stp with good := n, missed := 0 }
  if 8 ≤ n ∧ t.rd R.STEEPLE_STATUS_DPLL_STATE = 1 then (t.dpllTo 2).wr R.STEEPLE_STATUS_TIME_VALID 1 else t

/-- A valid phase update from source `src` (R29, R598). -/
def State.dpllUpdate (s : State) (src : Nat) (err filtered : Int) (freq : Nat) : State :=
  if !s.bit R.STEEPLE_CTRL_DPLL_EN || s.bit R.STEEPLE_CTRL_FORCE_HOLD then s
  else if s.stp.srcPhase = 1 then (s.setStp { s.stp with srcPhase := 2 }).dpllTo 3
  else if s.stp.srcPhase = 2 then (s.setStp { s.stp with srcPhase := 0 }).dpllAcquire (s.prios.headD 0)
  else
    let st := s.rd R.STEEPLE_STATUS_DPLL_STATE
    let t := if (st = 0 ∧ s.prios.contains src) ∨ (st = 3 ∧ s.rd R.STEEPLE_STATUS_ACTIVE_SRC = src) then s.dpllAcquire src else s
    if t.rd R.STEEPLE_STATUS_ACTIVE_SRC = src ∧ (t.rd R.STEEPLE_STATUS_DPLL_STATE = 1 ∨ t.rd R.STEEPLE_STATUS_DPLL_STATE = 2) then
      (t.dpllSteer err freq).dpllCount filtered
    else t

/-- DPLL_PHASE_UPDATE (R29). -/
def execDpllPhaseUpdate (src : Fin 8) (err filtered : Int) (freq : Word) (s : State) : Outc :=
  .next (s.dpllUpdate src.val err filtered freq.toNat)

/-- STEEPLE_PTP_OFFSET_WRITE: the written offset acts as a phase update of source 1 (R29, R57). -/
def execSteeplePtpOffsetWrite (v : Word) (filtered : Int) (freq : Word) (s : State) : Outc :=
  .next ((s.dpllUpdate 1 v.toInt filtered freq.toNat).ack)

/-- DPLL_HOLDOVER_ENTRY: 3 update intervals without a valid update of the active source (R29). -/
def execDpllHoldoverEntry (valid : List (Fin 8)) (s : State) : Outc :=
  if s.rd R.STEEPLE_STATUS_DPLL_STATE = 2 then
    let t := (s.setStp { s.stp with good := 0, missed := 3 }).dpllTo 3
    if t.bit R.STEEPLE_DPLL_CFG_AUTO_SWITCH then
      match t.prios.find? (fun p => valid.any (fun v => v.val == p)) with
      | some p => .next (t.dpllAcquire p)
      | none => .next t
    else .next t
  else .next s

/-- DPLL_SOURCE_WRITE: STEEPLE_DPLL_SRC (R598). -/
def execDpllSourceWrite (v : Word) (s : State) : Outc :=
  let st := s.rd R.STEEPLE_STATUS_DPLL_STATE
  let t := s.wrWord v [R.STEEPLE_DPLL_SRC_PRIO0, R.STEEPLE_DPLL_SRC_PRIO1, R.STEEPLE_DPLL_SRC_PRIO2, R.STEEPLE_DPLL_SRC_PRIO3]
  let u := if st = 0 ∨ st = 3 then t.wrWord v [R.STEEPLE_DPLL_SRC_FREQ_REF, R.STEEPLE_DPLL_SRC_SYNCE_PORT] else t
  let changed := decide (u.prios.headD 0 ≠ u.rd R.STEEPLE_STATUS_ACTIVE_SRC)
  .next (if changed && decide (st = 1 ∨ st = 2) then (u.setStp { u.stp with srcPhase := 1 }).ack else u.ack)

/-- DPLL_EN and FORCE_HOLD as written to STEEPLE_CTRL, and the state they put the DPLL in (R29, R598). -/
def State.dpllCtrl (s : State) (v : Word) : State :=
  let held := s.bit R.STEEPLE_CTRL_FORCE_HOLD
  let t := s.wrWord v [R.STEEPLE_CTRL_DPLL_EN, R.STEEPLE_CTRL_FORCE_HOLD]
  if !t.bit R.STEEPLE_CTRL_DPLL_EN then (t.wr R.STEEPLE_STATUS_ACTIVE_SRC 0).dpllTo 0
  else if t.bit R.STEEPLE_CTRL_FORCE_HOLD then t.dpllTo 3
  else if held then
    (if t.rd R.STEEPLE_STATUS_ACTIVE_SRC = 0 then t.dpllTo 0 else t.dpllAcquire (t.rd R.STEEPLE_STATUS_ACTIVE_SRC))
  else t

/-- DPLL_FORCE_HOLD: a write of STEEPLE_CTRL as it bears on the DPLL (R598). -/
def execDpllForceHold (v : Word) (s : State) : Outc := .next (s.dpllCtrl v).ack

/-- The time held in the SET registers, in units of 2^-16 ns. -/
def State.setTime (s : State) : Nat :=
  (((s.rd R.STEEPLE_SET_SEC_HI * 2 ^ 32 + s.rd R.STEEPLE_SET_SEC_LO) * 1000000000 + s.rd R.STEEPLE_SET_NS) * 65536 + s.rd R.STEEPLE_SET_FRAC)

/-- STEEPLE_STEP: load the set time, or STEP_REFUSED (R30). -/
def execSteepleStep (v : Word) (s : State) : Outc :=
  let t := s.dpllCtrl v
  if R.STEEPLE_CTRL_STEP.of v = 0 then .next t.ack
  else if t.mayStep then
    .next (((t.setStp { t.stp with now := t.setTime, slew := 0, slewAcc := 0 }).wr R.STEEPLE_STATUS_TIME_VALID 1).wr R.STEEPLE_STATUS_SLEWING 0).ack
  else .next (t.wr R.STEEPLE_STATUS_STEP_REFUSED 1).ack

/-- STEEPLE_LATCH: any write latches the full stamp (R57). -/
def execSteepleLatch (s : State) : Outc :=
  let n := s.stp.now / 65536
  let sec := n / 1000000000
  .next ((((s.wr R.STEEPLE_LATCH_SEC_HI (sec / 2 ^ 32)).wr R.STEEPLE_LATCH_SEC_LO sec).wr R.STEEPLE_LATCH_NS (n % 1000000000)).wr
    R.STEEPLE_LATCH_FRAC s.stp.now).ack

/-- The LOST bit of a domain (R25, R600). -/
def State.setLost (s : State) (d : Nat) (lost : Bool) : State :=
  let old := s.rd (R.STEEPLE_REPLICA_LOST_LOST (d / 32))
  let bitv := 2 ^ (d % 32)
  let cleared := if nbit old (d % 32) then old - bitv else old
  (s.setStp { s.stp with lost := if lost then (d :: s.stp.lost.filter (· != d)) else s.stp.lost.filter (· != d) }).wr
    (R.STEEPLE_REPLICA_LOST_LOST (d / 32)) (if lost then cleared + bitv else cleared)

/-- REPLICA_LOST (R25). -/
def execReplicaLost (domain : Fin 106) (s : State) : Outc :=
  if s.stp.lost.contains domain.val then .next s
  else .next (((s.setLost domain.val true).wr R.STEEPLE_STATUS_REPLICA_FAULT 1).raise ⟨4, 1, true, domain.val, 0⟩)

/-- REPLICA_RESYNC (R25). -/
def execReplicaResync (domain : Fin 106) (s : State) : Outc := .next (s.setLost domain.val false)

/-! ## Slots of a lock group (R33 to R38) -/

/-- The GPS epoch on the PTP timescale, in ns (R35). -/
def epochNs : Int := 315964819000000000

def State.group (s : State) (g : Nat) : LockGroup := s.stp.groups.get g
def State.setGroup (s : State) (g : Nat) (x : LockGroup) : State := { s with stp := { s.stp with groups := s.stp.groups.set g x } }

/-- Slot duration in ns (R33). -/
def State.slotNs (s : State) (g : Nat) : Int := ((1000000 / 2 ^ s.rd (R.LG_CFG_MU g) : Nat) : Int)
def State.slotsPerFrame (s : State) (g : Nat) : Nat := 10 * 2 ^ s.rd (R.LG_CFG_MU g)
/-- Frame boundary 0 of the group, in ns (R35). -/
def State.groupBase (s : State) (g : Nat) : Int := epochNs + (s.rd (R.LG_OFFSET_FRAME_OFFSET_NS g) : Int)
/-- Start of slot `n`, counted from frame 0. -/
def State.slotStart (s : State) (g : Nat) (n : Int) : Int := s.groupBase g + n * s.slotNs g
/-- The window tag of a slot (R35). -/
def slotTag (n : Int) : Nat := (n % 16).toNat
def State.sweepNs (s : State) (g : Nat) (n : Int) : Int := s.slotStart g n + (s.rd (R.LG_CFG_SWEEP_OFFSET g) : Int) * s.slotNs g
/-- SFN of frame `k` (R35). -/
def State.sfnOf (s : State) (g : Nat) (k : Int) : Nat := ((k + (s.rd (R.LG_CFG_SFN_OFFSET g) : Int)) % 1024).toNat
def State.hsfnOf (s : State) (g : Nat) (k : Int) : Nat := ((k + (s.rd (R.LG_CFG_SFN_OFFSET g) : Int)) / 1024 % 1024).toNat

/-- LG_STATUS and LG_HSFN show slot `n`. -/
def State.showSlot (s : State) (g : Nat) (n : Int) : State :=
  let k := n / (s.slotsPerFrame g : Int)
  ((s.wr (R.LG_STATUS_SLOT g) (n % (s.slotsPerFrame g : Int)).toNat).wr (R.LG_STATUS_SFN g) (s.sfnOf g k)).wr (R.LG_HSFN_HSFN g) (s.hsfnOf g k)

/-- Time-triggered actions of one tick come in the order of R27: no action of an earlier order that is due by `t` waits. -/
def State.earlierDone (s : State) (order : Nat) (t : Int) : Bool :=
  let groups := List.range 64
  !(decide (1 < order) && decide (s.rd R.TALLY_SNAP_STATUS_STATE = 1) && decide (s.absTick (s.rd R.TALLY_SNAP_TICK) * 4 ≤ t)) &&
  !(decide (2 < order) && groups.any (fun g => (s.group g).windows.any (fun w => !w.swept && decide (w.sweepNs ≤ t)))) &&
  !(decide (3 < order) && groups.any (fun g => ((s.group g).action != .none && decide ((s.group g).actionNs ≤ t)) ||
      (s.bit (R.LG_STATUS_TDD_SWAP_PENDING g) && decide ((s.group g).swapNs ≤ t)))) &&
  !(decide (4 < order) && groups.any (fun g => (s.group g).armed.any (fun p => decide (p.commitNs ≤ t))))

/-- LG_ACTION_BOUNDARY_START: an ARMED group becomes RUNNING at its action boundary (R37). -/
def execLgActionBoundaryStart (group : Fin 64) (s : State) : Outc :=
  let g := group.val
  let x := s.group g
  if s.rd (R.LG_STATUS_STATE g) = 1 ∧ x.action = .start ∧ s.reached x.actionNs ∧ s.earlierDone 3 x.actionNs then
    let n := (x.actionNs - s.groupBase g) / s.slotNs g
    .next (((s.setGroup g { x with action := .none, cur := n, ceased := false, runNs := x.actionNs }).wr (R.LG_STATUS_STATE g) 2).showSlot g n)
  else .next s

/-- LG_RETURN_IDLE: at the sweep instant of its last slot a STOPPING group returns to IDLE (R37). -/
def execLgReturnIdle (group : Fin 64) (s : State) : Outc :=
  let g := group.val
  let x := s.group g
  if s.rd (R.LG_STATUS_STATE g) = 3 ∧ x.ceased ∧ s.reached (s.sweepNs g x.cur) ∧ s.earlierDone 3 (s.sweepNs g x.cur) then
    .next ((s.setGroup g { x with ceased := false }).wr (R.LG_STATUS_STATE g) 0)
  else .next s

/-- The group advances at its boundaries now: it runs, or stops later than the boundary of slot `n` (R37). -/
def State.advances (s : State) (g : Nat) (n : Int) : Bool :=
  let st := s.rd (R.LG_STATUS_STATE g)
  let x := s.group g
  decide (st = 2) || (decide (st = 3) && !x.ceased && decide (s.slotStart g n < x.actionNs))

/-- SLOT_BOUNDARY: the group enters its next slot (R33, R35). -/
def execSlotBoundary (group : Fin 64) (s : State) : Outc :=
  let g := group.val
  let x := s.group g
  let n := x.cur + 1
  if s.advances g n && s.reached (s.slotStart g n) then .next ((s.setGroup g { x with cur := n }).showSlot g n)
  else .next s

/-- The inactive bank. -/
def State.idleBank (s : State) (g : Nat) : Nat := 1 - s.rd (R.LG_STATUS_ACTIVE_BANK g)

/-- A bank and its LG_TDD_CFG keep the rules of R36; without TDD banks are ignored. -/
def State.bankOk (s : State) (g b : Nat) : Bool :=
  if s.bit (R.LG_CFG_TDD g) then
    let p := s.rd (R.LG_TDD_CFG_PERIOD_SLOTS g b)
    decide (1 ≤ p) && decide (p ≤ 640) && decide (20000000 % (p * (1000000 / 2 ^ s.rd (R.LG_CFG_MU g))) = 0) &&
      decide (s.rd (R.LG_TDD_CFG_S_DL_SYMS g b) + s.rd (R.LG_TDD_CFG_S_UL_SYMS g b) ≤ (if s.bit (R.LG_CFG_ECP g) then 12 else 14))
  else true

/-- LG_CFG and LG_OFFSET keep the rules of R34. -/
def State.cfgOk (s : State) (g : Nat) : Bool :=
  let mu := s.rd (R.LG_CFG_MU g)
  decide (mu ≤ 6) && (if s.bit (R.LG_CFG_LTE g) then decide (mu = 0) else (!s.bit (R.LG_CFG_ECP g) || decide (mu = 2))) &&
    decide (1 ≤ s.rd (R.LG_CFG_SWEEP_OFFSET g)) && decide (s.rd (R.LG_CFG_SWEEP_OFFSET g) ≤ 7) && decide (s.rd (R.LG_OFFSET_FRAME_OFFSET_NS g) ≤ 9999999)

/-- The first frame boundary at or after instant `t` (ns), and where `even` is set, one whose SFN is even. -/
def State.frameAtOrAfter (s : State) (g : Nat) (t : Int) (even : Bool) : Int :=
  let k := -((s.groupBase g - t) / 10000000)
  let k' := if even ∧ s.sfnOf g k % 2 = 1 then k + 1 else k
  s.groupBase g + k' * 10000000

/-- Steeple time in ns, rounded up. -/
def State.nowUp (s : State) : Int := (((s.stp.now + 65535) / 65536 : Nat) : Int)

/-- TDD_SWAP_APPLY: the pending swap takes effect at its boundary (R38). -/
def execTddSwapApply (group : Fin 64) (s : State) : Outc :=
  let g := group.val
  let x := s.group g
  if s.bit (R.LG_STATUS_TDD_SWAP_PENDING g) ∧ s.reached x.swapNs ∧ s.earlierDone 3 x.swapNs then
    .next ((s.wr (R.LG_STATUS_ACTIVE_BANK g) (s.idleBank g)).wr (R.LG_STATUS_TDD_SWAP_PENDING g) 0)
  else .next s

/-! ## Bells (R52 to R54) -/

def State.bell (s : State) (b : Nat) : Bell := s.stp.bells.get b
def State.setBell (s : State) (b : Nat) (x : Bell) : State := { s with stp := { s.stp with bells := s.stp.bells.set b x } }

/-- Slot kind of slot `n`: 0 D, 1 U, 2 S, 3 F, from the active bank (R36). -/
def State.patternIndex (s : State) (g : Nat) (n : Int) : Nat :=
  let spf := (s.slotsPerFrame g : Int)
  let k := n / spf
  let k0 := if s.sfnOf g k % 2 = 1 then k - 1 else k
  ((n - k0 * spf) % (max 1 (s.rd (R.LG_TDD_CFG_PERIOD_SLOTS g (s.rd (R.LG_STATUS_ACTIVE_BANK g)))) : Int)).toNat

def State.slotKind (s : State) (g : Nat) (n : Int) : Nat :=
  let i := s.patternIndex g n
  nbits (s.rd (R.LG_TDD_BANK_ENTRIES g (s.rd (R.LG_STATUS_ACTIVE_BANK g)) (i / 16))) (2 * (i % 16)) 2

def State.sDl (s : State) (g : Nat) : Nat := s.rd (R.LG_TDD_CFG_S_DL_SYMS g (s.rd (R.LG_STATUS_ACTIVE_BANK g)))
def State.sUl (s : State) (g : Nat) : Nat := s.rd (R.LG_TDD_CFG_S_UL_SYMS g (s.rd (R.LG_STATUS_ACTIVE_BANK g)))

/-- The direction in which slot `n` ends: 1 down, 2 up, 0 neither. -/
def State.endDir (s : State) (g : Nat) (n : Int) : Nat :=
  match s.slotKind g n with
  | 0 => 1
  | 1 => 2
  | 2 => if 0 < s.sUl g then 2 else if 0 < s.sDl g then 1 else 0
  | _ => 0

/-- The last direction before slot `n`, looking back at most `fuel` slots. -/
def State.dirBefore (s : State) (g : Nat) (n : Int) : Nat → Nat
  | 0 => 0
  | f + 1 => let d := s.endDir g (n - 1); if d = 0 then s.dirBefore g (n - 1) f else d

/-- The start of symbol `l` of slot `n` after the slot's start, in units of the NR basic time unit Tc (R33). -/
def State.symTc (s : State) (g : Nat) (n : Int) (l : Nat) : Nat :=
  let mu := s.rd (R.LG_CFG_MU g)
  if s.bit (R.LG_CFG_ECP g) then l * (2048 + 512) * 64 / 2 ^ mu
  else
    let i := (n % (2 ^ mu : Nat)).toNat
    let longFirst := decide (i = 0) || decide (mu ≠ 0 ∧ 2 * i = 2 ^ mu)
    l * (2048 + 144) * 64 / 2 ^ mu + (if longFirst && decide (0 < l) then 1024 else 0) + (if mu = 0 ∧ 7 < l then 1024 else 0)

/-- Tc in units of 2^-16 ns, rounded half up: one Tc is 100000/3 units (R33). -/
def tcUnits (n : Nat) : Nat := (200000 * n + 3) / 6

/-- The edge of kind `e` in slot `n`, after the slot's start in units of 2^-16 ns, if the slot has one (R53). -/
def State.lgEdge (s : State) (g e : Nat) (n : Int) : Option Nat :=
  let spf := (s.slotsPerFrame g : Int)
  let tdd := s.bit (R.LG_CFG_TDD g)
  let last := if s.bit (R.LG_CFG_ECP g) then 12 else 14
  match e with
  | 0 => some 0
  | 1 => if n % spf = 0 then some 0 else none
  | 2 => if tdd then (if s.patternIndex g n = 0 then some 0 else none)
         else if n % spf = 0 ∧ s.sfnOf g (n / spf) % 2 = 0 then some 0 else none
  | 3 => if !tdd then none else
         match s.slotKind g n with
         | 1 => if s.dirBefore g n 640 = 1 then some 0 else none
         | 2 => if 0 < s.sUl g ∧ (0 < s.sDl g ∨ s.dirBefore g n 640 = 1) then some (tcUnits (s.symTc g n (last - s.sUl g))) else none
         | _ => none
  | 4 => if !tdd then none else
         match s.slotKind g n with
         | 0 => if s.dirBefore g n 640 = 2 then some 0 else none
         | 2 => if 0 < s.sDl g ∧ s.dirBefore g n 640 = 2 then some 0 else none
         | _ => none
  | _ => none

/-- The start instant of a once or periodic Bell, in units of 2^-16 ns (R53). -/
def State.bellStart (s : State) (b : Nat) : Int :=
  s.absTick (s.rd (R.BELL_START b)) * 262144 + (s.rd (R.BELL_START_FINE b) : Int) * 16384

/-- The values of Bell `b` with which mode `m` does not start it, or a start that misses its lead (R53, R28). -/
def State.bellBad (s : State) (b m : Nat) : Bool :=
  let w := s.rd (R.BELL_WIDTH b)
  let p := s.rd (R.BELL_PERIOD b)
  let lead := s.bellStart b - (s.stp.now : Int)
  decide (w = 0) || (decide (m = 2) && (decide (p = 0) || decide (p ≤ w * 8))) ||
    (decide (m ≠ 3) && (decide (lead < 65536000) || decide ((maxLead : Int) * 262144 < lead)))

/-- The instant of the lock-group edge of Bell `b` in slot `n`, in units of 2^-16 ns, if the slot has one (R53). -/
def State.bellLgInstant (s : State) (b : Nat) (n : Int) : Option Int :=
  let g := s.rd (R.BELL_CFG_LOCK_GROUP b)
  (s.lgEdge g (s.rd (R.BELL_CFG_LG_EDGE b)) n).map (fun u => (s.slotStart g n + sext 32 (s.rd (R.BELL_START b))) * 65536 + (u : Int))

/-- Start Bell `b` in mode `m`, or count it in BELL_MISSED (R53). -/
def State.bellBegin (s : State) (b m : Nat) : State :=
  if m = 0 then s.wr (R.BELL_CFG_MODE b) 0
  else if s.bellBad b m then (s.wr (R.BELL_CFG_MODE b) 0).inc (R.BELL_MISSED b)
  else
    let cur := (s.group (s.rd (R.BELL_CFG_LOCK_GROUP b))).cur
    let gone := match s.bellLgInstant b (cur + 1) with
      | some t => decide (t ≤ (s.stp.now : Int))
      | none => false
    let past := match s.bellLgInstant b cur with
      | some t => decide (t ≤ (s.stp.now : Int))
      | none => false
    let seen : Option Int := if gone then some (cur + 1) else (if past then some cur else none)
    (s.setBell b { s.bell b with count := 0, start := s.bellStart b, lastSlot := seen }).wr (R.BELL_CFG_MODE b) m

def bellCfgFields (b : Nat) : List Fld :=
  [R.BELL_CFG_LOCK_GROUP b, R.BELL_CFG_LG_EDGE b, R.BELL_CFG_IRQ_EN b, R.BELL_CFG_CAPTURE_EDGE b, R.BELL_CFG_CAPTURE b, R.BELL_CFG_POLARITY b]

/-- A write of BELL_CFG while the Bell is off, or one that turns it off (R53, R54). -/
def State.bellCfg (s : State) (b : Nat) (v : Word) : State :=
  (s.wrWord v (bellCfgFields b)).bellBegin b ((R.BELL_CFG_MODE b).of v)

/-- BELL_CFG_WRITE (R53, R54). -/
def execBellCfgWrite (bell : Fin 64) (v : Word) (s : State) : Outc :=
  let b := bell.val
  if s.rd (R.BELL_CFG_MODE b) ≠ 0 ∧ (R.BELL_CFG_MODE b).of v ≠ 0 then .next (s.wrWord v [R.BELL_CFG_IRQ_EN b]).ack
  else .next (s.bellCfg b v).ack

/-- A pulse begins at `t` (units of 2^-16 ns). -/
def State.bellPulse (s : State) (b : Nat) (t : Int) (x : Bell) : State :=
  (s.setBell b { x with high := true, edge := some t, ends := t + (s.rd (R.BELL_WIDTH b) : Int) * 262144 }).irqIf (s.bit (R.BELL_CFG_IRQ_EN b)) .bell b

/-- The leading edge that is due at Bell `b`, with the Bell after it (R53). -/
def State.bellDue (s : State) (b : Nat) : Option (Int × Bell) :=
  let x := s.bell b
  let now := (s.stp.now : Int)
  match s.rd (R.BELL_CFG_MODE b) with
  | 1 => if x.count = 0 ∧ x.start ≤ now then some (x.start, { x with count := 1 }) else none
  | 2 =>
    let t := x.start + (x.count : Int) * (s.rd (R.BELL_PERIOD b) : Int) * 65536
    if t ≤ now then some (t, { x with count := x.count + 1 }) else none
  | 3 =>
    let g := s.rd (R.BELL_CFG_LOCK_GROUP b)
    let cur := (s.group g).cur
    let live := decide (s.rd (R.LG_STATUS_STATE g) = 2) || (decide (s.rd (R.LG_STATUS_STATE g) = 3) && !(s.group g).ceased)
    let at_ := fun n : Int => match x.lastSlot with
      | some l => if n ≤ l then none else s.bellLgInstant b n
      | none => s.bellLgInstant b n
    if !live then none
    else match at_ cur with
      | some t => if t ≤ now then some (t, { x with lastSlot := some cur }) else none
      | none => match at_ (cur + 1) with
        | some t => if t ≤ now ∧ s.advances g (cur + 1) then some (t, { x with lastSlot := some (cur + 1) }) else none
        | none => none
  | _ => none

/-- BELL_EDGE: the end of the running pulse, or the next leading edge that is due (R53). -/
def execBellEdge (bell : Fin 64) (s : State) : Outc :=
  let b := bell.val
  let x := s.bell b
  if x.high then
    if x.ends ≤ (s.stp.now : Int) then .next (s.setBell b { x with high := false }) else .next s
  else match s.bellDue b with
    | some (t, y) => if s.earlierDone 5 (t / 65536) then .next (s.bellPulse b t y) else .next s
    | none => .next s

/-! ## PPS outputs and captures (R55, R56) -/

/-- PPS_OUT_PULSE: the end of the running pulse, or the pulse of the second that has been reached (R56). -/
def execPpsOutPulse (k : Fin 2) (s : State) : Outc :=
  let x := s.stp.pps.get k.val
  let put := fun (y : PpsOut) => s.setStp { s.stp with pps := s.stp.pps.set k.val y }
  if x.high then
    if x.ends ≤ (s.stp.now : Int) then .next (put { x with high := false }) else .next s
  else if s.bit (R.PPS_OUT_CFG_ENABLE k.val) then
    let comp := sext 32 (s.rd (R.PPS_OUT_COMP k.val))
    let sec := (s.nowNs - comp) / 1000000000
    let at_ := sec * 1000000000 + comp
    let fresh := match x.nextSec with | none => true | some n => decide (n ≤ sec)
    if fresh && s.earlierDone 5 at_ then
      .next (put { nextSec := some (sec + 1), high := true,
                   ends := (at_ + (s.rd (R.PPS_OUT_CFG_WIDTH_US k.val) : Int) * 1000) * 65536 })
    else .next s
  else .next s

/-- The head of capture FIFO `p` and its LEVEL show in its registers. -/
def State.showCap (s : State) (p : Nat) (l : List Stamp) : State :=
  let h := l.headD ⟨0, 0, 0, false⟩
  (((({ s with stp := { s.stp with caps := s.stp.caps.set p l } }).wr (R.CAP_STATUS_LEVEL p) l.length).wr (R.CAP_SEC p) h.sec).wr
    (R.CAP_NS p) h.ns).wr (R.CAP_FRAC p) h.frac

/-- The edges capture `p` records: as its Bell selects, every edge of a PPS_IN pin (R55, R56). -/
def State.capSelects (s : State) (p : Nat) (falling : Bool) : Bool :=
  if p < 16 then
    s.bit (R.BELL_CFG_CAPTURE p) &&
      (match s.rd (R.BELL_CFG_CAPTURE_EDGE p) with
       | 0 => !falling
       | 1 => falling
       | 2 => true
       | _ => false)
  else true

/-- CAPTURE_EDGE: a stamp with 250 ps resolution enters the FIFO, or OVERFLOW (R55). -/
def execCaptureEdge (p : Fin 18) (falling : Bool) (s : State) : Outc :=
  if s.capSelects p.val falling then
    let l := s.stp.caps.get p.val
    if 16 ≤ l.length then .next (s.wr (R.CAP_STATUS_OVERFLOW p.val) 1)
    else
      let n := s.stp.now / 65536
      let st : Stamp := ⟨n / 1000000000 % 2 ^ 32, n % 1000000000, s.stp.now % 65536 / 16384 * 16384, s.stp.lost.contains 84⟩
      .next (s.showCap p.val (l ++ [st]))
  else .next s

/-- CAP_POP: a write retires the oldest capture (R57). -/
def execCapPop (p : Fin 18) (s : State) : Outc := .next (s.showCap p.val (s.stp.caps.get p.val).tail).ack

/-- The clock advances by one tick: the master count with what slewing adds or takes off (R30). -/
def State.advance (s : State) : State :=
  let x := s.stp
  let acc := x.slewAcc + 262144 * s.rd R.STEEPLE_SLEW_LIMIT_LIMIT_PPB
  let most := acc / 1000000000
  let n := min most x.slew.natAbs
  let d : Int := if 0 ≤ x.slew then (n : Int) else -(n : Int)
  if x.slew = 0 then s.setStp { x with now := x.now + 262144 }
  else (s.setStp { x with now := ((x.now : Int) + 262144 + d).toNat, slew := x.slew - d, slewAcc := acc % 1000000000 }).wrB
    R.STEEPLE_STATUS_SLEWING (decide (x.slew ≠ d))

end Sys2Proof.Machine
end

