-- ==== Sys2Proof/Machine/Sieve.lean ====
section
/-! DEFINITION. Machine/Sieve.lean: Sieve channels: checks, start and stop, input, Bell marks, swaps, delays, bursts and
their accounting (R290 to R316).
Choices of the model: log entries 40 (DEDUCED), 41 (DESIGN CHOICE), 74 (DEDUCED). -/

namespace Sys2Proof.Machine

def sieveMid : Mid := 0xB6

def State.chan (s : State) (c : Nat) : SieveCh := s.sv.chans.get c
def State.setChan (s : State) (c : Nat) (h : SieveCh) : State := { s with sv := { s.sv with chans := s.sv.chans.set c h } }
def State.chanSt (s : State) (c : Nat) : Nat := s.rd (R.SIEVE_CH_STATUS_STATE c)

/-- The settings of channel `c` as its registers hold them. The register window of a bank holds its coefficients 0 to 31
only; coefficients 32 to 63, which no register reaches, are zero. -/
def State.svCfg (s : State) (c : Nat) : SvCfg :=
  let ms := [s.rd (R.SIEVE_CH_STAGE01_M1_M1 c), s.rd (R.SIEVE_CH_STAGE01_M2_M1 c), s.rd (R.SIEVE_CH_STAGE23_M3_M1 c),
    s.rd (R.SIEVE_CH_STAGE23_M4_M1 c), s.rd (R.SIEVE_CH_STAGE5_M5_M1 c)]
  let coefs := fun b => (List.range 16).flatMap (fun j =>
    let w := s.rd (R.SIEVE_CH_COEF c b j)
    [sext 16 w, sext 16 (w / 65536)])
  let t := s.rd (R.SIEVE_CH_TEST c)
  { spf := s.rd (R.SIEVE_CH_RATE_SPF c),
    p := (ms.foldl (fun l m => l ++ [l.getLast?.getD 1 * (m + 1)]) [1]),
    l := [s.rd (R.SIEVE_CH_STAGE01_L1_M1 c) + 1, s.rd (R.SIEVE_CH_STAGE01_L2_M1 c) + 1, s.rd (R.SIEVE_CH_STAGE23_L3_M1 c) + 1,
      s.rd (R.SIEVE_CH_STAGE23_L4_M1 c) + 1, s.rd (R.SIEVE_CH_STAGE5_L5_M1 c) + 1],
    sh := [s.rd (R.SIEVE_CH_STAGE01_SH1 c), s.rd (R.SIEVE_CH_STAGE01_SH2 c), s.rd (R.SIEVE_CH_STAGE23_SH3 c),
      s.rd (R.SIEVE_CH_STAGE23_SH4 c), s.rd (R.SIEVE_CH_STAGE5_SH5 c)],
    taps := s.rd (R.SIEVE_CH_FIR_TAPS_M1 c) + 1, firSh := s.rd (R.SIEVE_CH_FIR_FIR_SH c), outSh := s.rd (R.SIEVE_CH_FIR_OUT_SH c),
    freq := sext 32 (s.rd (R.SIEVE_CH_NCO_FREQ c)), phase := s.rd (R.SIEVE_CH_NCO_PHASE c), ncoFrame := s.bit (R.SIEVE_CH_MODE_NCO_FRAME c),
    auto := s.bit (R.SIEVE_CH_GUARD_AUTO c), onWrap := s.bit (R.SIEVE_CH_GUARD_GUARD_ON_WRAP c), test := s.bit (R.SIEVE_CH_GUARD_TEST c),
    extra := s.rd (R.SIEVE_CH_GUARD_GUARD_EXTRA c), testV := (sext 16 t, sext 16 (t / 65536)), coef := [coefs 0, coefs 1],
    f0 := (s.chan c).f0, bl := 16 * s.rd (R.SIEVE_CH_BURST_BURST_U c) }

/-- S as the registers give it (R302). -/
def State.showSupport (s : State) (c : Nat) : State := s.wr (R.SIEVE_CH_SUPPORT c) (s.svCfg c).support

/-- STATUS, COUNT and SUPPORT show the channel (R316). -/
def State.showChan (s : State) (c : Nat) : State :=
  let h := s.chan c
  let g := s.svCfg c
  let left := if h.guard && g.auto then min (g.support + g.extra - h.gcount) 65535 else 0
  let t := ((((s.wrB (R.SIEVE_CH_STATUS_MODE c) h.guard).wr (R.SIEVE_CH_STATUS_ACTIVE_BANK c) h.active).wrB (R.SIEVE_CH_STATUS_FADING c) h.fade.isSome).wrB
    (R.SIEVE_CH_STATUS_SWAP_PENDING c) h.pend.isSome).wr (R.SIEVE_CH_STATUS_PENDING_BANK c) (h.pend.getD (0, 0)).1
  (((t.wrB (R.SIEVE_CH_STATUS_DELAY_PENDING c) h.dpend.isSome).wr (R.SIEVE_CH_STATUS_GUARD_LEFT c) left).wr (R.SIEVE_CH_COUNT c)
    ((h.next + g.p5 - 1) / g.p5)).showSupport c

/-- Put a channel back after work on it, with what it counted (R299, R305, R315). -/
def State.endRun (s : State) (c : Nat) (r : SvRun) : State :=
  let t := ((((s.setChan c r.ch).addSat (R.SIEVE_CH_SAT_COUNT c) r.sat).addSat (R.SIEVE_CH_WRAP_COUNT c) r.wrap).addSat
    (R.SIEVE_CH_SWAP_COUNTS_NOOP c) r.noop).addSat (R.SIEVE_CH_SWAP_COUNTS_OVERWRITE c) r.replaced
  let u := (if r.guardSat then t.wr (R.SIEVE_CH_STATUS_GUARD_SAT c) 1 else t).add (R.SIEVE_CH_POISON c) r.poison
  (if r.wrapped then u.wr (R.SIEVE_CH_STATUS_WRAPPED c) 1 else u).showChan c

def State.onRun (s : State) (c : Nat) (f : SvCfg → SvRun → SvRun) : State := s.endRun c (f (s.svCfg c) { ch := s.chan c })

def State.onChan (s : State) (c : Nat) (f : SieveCh → SieveCh) : State := (s.setChan c (f (s.chan c))).showChan c

def State.chanGroup (s : State) (c : Nat) : Nat := s.rd (R.SIEVE_CH_MODE_LOCK_GROUP c)

/-- Low-rate samples per slot. -/
def State.perSlot (s : State) (c : Nat) : Nat :=
  let g := s.svCfg c
  g.spf / g.p5 / s.slotsPerFrame (s.chanGroup c)

/-! ## Start and stop (R291, R309) -/

/-- The first condition of R291 that holds, as CFG_ERR; 0 for none. -/
def State.sieveCfgErr (s : State) (c : Nat) : Nat :=
  let g := s.svCfg c
  let lg := s.chanGroup c
  let sps := s.slotsPerFrame lg
  let low := g.spf / g.p5
  let per := low / sps
  let ring := s.rd (R.SIEVE_CH_RING_LEN_LEN c)
  let lgSt := s.rd (R.LG_STATUS_STATE lg)
  if !s.bit R.SIEVE_CTRL_ENABLE ∨ g.spf < 100 ∨ 4915200 < g.spf ∨ g.spf % g.p5 ≠ 0 ∨ low % sps ≠ 0 ∨
     320000000 < s.rd R.SIEVE_RATE_USED_SUM + g.spf then 1
  else if g.sh.any (fun x => decide (6 < x)) ∨ 4096 < g.p5 then 2
  else if g.bl = 0 ∨ s.rd (R.SIEVE_CH_BURST_LATE c) = 0 ∨ per % g.bl ≠ 0 ∨ per / g.bl % (s.rd (R.SIEVE_CH_NOTIFY_DIV_M1 c) + 1) ≠ 0 ∨
     ring = 0 ∨ ring % g.bl ≠ 0 ∨ low % ring ≠ 0 ∨ ring < s.rd (R.SIEVE_CH_DELAY_INT c) + 2 * g.bl ∨
     granaryEnd < s.rd (R.SIEVE_CH_RING_BASE_ADDR c) * 64 + 4 * ring then 3
  else if lgSt = 0 ∨ lgSt = 3 then 4
  else if 2 < s.rd (R.SIEVE_CH_MODE_PORT_KIND c) then 5
  else if s.bit (R.SIEVE_CH_MODE_BELL_NCO c) ∧ s.bit (R.SIEVE_CH_MODE_NCO_FRAME c) then 6
  else 0

/-- SIEVE_START (R291, R303, R309). -/
def execSieveStart (c : Fin 1024) (s : State) : Outc :=
  let c := c.val
  if s.chanSt c ≠ 0 then .next s
  else
    let e := s.sieveCfgErr c
    let t := s.wr (R.SIEVE_CH_STATUS_CFG_ERR c) e
    if e ≠ 0 then .next t
    else
      let u := (t.wr (R.SIEVE_CH_STATUS_STATE c) 1).add R.SIEVE_RATE_USED_SUM (s.rd (R.SIEVE_CH_RATE_SPF c))
      .next (u.onChan c (fun h => { h with startNs := s.nowUp, active := s.rd (R.SIEVE_CH_FIR_START_BANK c),
                                           int := s.rd (R.SIEVE_CH_DELAY_INT c), frac := s.rd (R.SIEVE_CH_DELAY_FRAC c), dpend := none, guard := true, leave := false,
                                           gcount := 0 }))

/-- SIEVE_STOP: a RUNNING channel becomes STOPPING; a pending request is discarded (R305, R309). -/
def execSieveStop (c : Fin 1024) (s : State) : Outc :=
  let c := c.val
  let g := s.chanGroup c
  let t := s.onChan c (fun h => { h with pend := none })
  if s.chanSt c = 2 then
    let b := s.groupBase g + ((s.nowNs - s.groupBase g) / 10000000 + 1) * 10000000
    .next ((t.wr (R.SIEVE_CH_STATUS_STATE c) 3).onChan c (fun h => { h with stopNs := b }))
  else .next t

/-- SIEVE_CHANNEL_RUN: at the first frame boundary at least 10 µs after START at which the group is RUNNING; every
history is zero, and the channel is in GUARD (R301, R309). -/
def execSieveChannelRun (c : Fin 1024) (s : State) : Outc :=
  let c := c.val
  let g := s.chanGroup c
  let b := s.frameAtOrAfter g (max ((s.chan c).startNs + 10000) (s.group g).runNs) false
  if s.chanSt c = 1 ∧ s.rd (R.LG_STATUS_STATE g) = 2 ∧ s.reached b then
    .next ((s.wr (R.SIEVE_CH_STATUS_STATE c) 2).onChan c (fun h =>
      { h with f0 := b, next := 0, inGap := false, hist := [[], [], [], [], []], fir := [], frh := [], ncoBase := 0, ncoPend := [],
               mark := (s.bell (s.rd (R.SIEVE_CH_MODE_BELL_SEL c))).edge, plast := none, guard := true, leave := false, gcount := 0,
               buf := [], bursts := [], missed := [] }))
  else .next s

/-- The group of a channel has ceased or is IDLE (R309, R37). -/
def State.groupCeased (s : State) (g : Nat) : Bool :=
  decide (s.rd (R.LG_STATUS_STATE g) = 0) || (decide (s.rd (R.LG_STATUS_STATE g) = 3) && (s.group g).ceased)

/-! ## Samples -/

/-- Process input samples of a DOWN channel from its next index on. -/
def State.svTake (s : State) (c : Nat) (x : List Sample) : State :=
  let int := s.rd (R.SIEVE_CH_DELAY_INT c)
  let frac := s.rd (R.SIEVE_CH_DELAY_FRAC c)
  s.onRun c (fun g r => x.foldl (fun r v => SvRun.down g int frac r (v.re.toInt, v.im.toInt) v.bad) r)

/-- A gap, an overlap or an underrun counts and puts the channel in GUARD (R293, R301, R314). -/
def State.svDisc (s : State) (c : Nat) : State := (s.incSat (R.SIEVE_CH_DISC_COUNT c)).onChan c SieveCh.enterGuard

/-- A gap begins, once. -/
def State.svGap (s : State) (c : Nat) : State :=
  if (s.chan c).inGap then s else (s.svDisc c).onChan c (fun h => { h with inGap := true })

/-- Every sample whose index time plus floor(LATE / 2) ticks has passed is taken as zero (R293). -/
def State.svCatch (s : State) (c : Nat) : State :=
  let h := s.chan c
  let g := s.svCfg c
  let late : Int := ((s.rd (R.SIEVE_CH_BURST_LATE c) / 2 * 4 : Nat) : Int)
  let x := (s.stp.now : Int) - (h.f0 + late) * 65536
  let due := if x < 0 then 0 else (x * (g.spf : Int) / (10000000 * 65536)).toNat + 1
  if h.next < due then (s.svGap c).svTake c (List.replicate (due - h.next) ⟨0, 0, false⟩) else s

def State.svDown (s : State) (c : Nat) : Bool := !s.bit (R.SIEVE_CH_MODE_DIR c) && decide (s.chanSt c = 2 ∨ s.chanSt c = 3)

/-- The index from the first frame boundary of sample `n` of the frame nearest to now with this SFN (R292). -/
def State.svIndex (s : State) (c sfn n : Nat) : Int :=
  let g := s.chanGroup c
  let cur := (s.nowNs - s.groupBase g) / 10000000
  let d := ((sfn : Int) - (cur + (s.rd (R.LG_CFG_SFN_OFFSET g) : Int))) % 1024
  let d := if d < 512 then d else d - 1024
  let k0 := ((s.chan c).f0 - s.groupBase g) / 10000000
  (cur + d - k0) * (s.rd (R.SIEVE_CH_RATE_SPF c) : Int) + (n : Int)

/-- SIEVE_BLOCK_ARRIVAL (R292 to R294). -/
def execSieveBlockArrival (kind : Fin 3) (port : Fin 64) (c : Fin 1024) (sfn : Fin 1024) (n : Nat) (x : List Sample) (s : State) : Outc :=
  let c := c.val
  if !s.svDown c ∨ s.rd (R.SIEVE_CH_MODE_PORT_KIND c) ≠ kind.val ∨ s.rd (R.SIEVE_CH_MODE_PORT c) ≠ port.val then .next (s.inc R.SIEVE_DROP_UNPLANNED)
  else
    let t := s.svCatch c
    let a := t.svIndex c sfn.val n
    let nx : Int := ((t.chan c).next : Int)
    if a + (x.length : Int) ≤ nx then .next (if x = [] then t else t.svDisc c)
    else
      let u := if a < nx then t.svDisc c
        else if nx < a then (t.svGap c).svTake c (List.replicate (a - nx).toNat ⟨0, 0, false⟩) else t
      let v := u.onChan c (fun h => { h with inGap := false })
      .next (v.svTake c (x.drop (nx - a).toNat))

/-- SIEVE_INPUT_TIMEOUT (R293). -/
def execSieveInputTimeout (c : Fin 1024) (s : State) : Outc := .next (if s.svDown c.val then s.svCatch c.val else s)

/-- SIEVE_BELL_MARK: the last edge of the channel's Bell marks the stream (R296). -/
def execSieveBellMark (c : Fin 1024) (s : State) : Outc :=
  let c := c.val
  let h := s.chan c
  match (s.bell (s.rd (R.SIEVE_CH_MODE_BELL_SEL c))).edge with
  | none => .next s
  | some e =>
    if s.chanSt c ≠ 2 ∨ !s.bit (R.SIEVE_CH_MODE_BELL_EN c) ∨ h.mark = some e then .next s
    else
      let g := s.svCfg c
      let d := (e - h.f0 * 65536) * (g.spf : Int)
      let nb := (-((-d) / (10000000 * 65536))).toNat
      let lg := s.chanGroup c
      let k := (h.f0 - s.groupBase lg) / 10000000 + ((nb / g.spf : Nat) : Int)
      let t := if s.bit (R.SIEVE_CH_BELL_IDX_MARK_VALID c) then s.wr (R.SIEVE_CH_BELL_IDX_MARK_LOST c) 1 else s
      let u := ((t.wr (R.SIEVE_CH_BELL_IDX_NB c) (nb % g.spf)).wr (R.SIEVE_CH_BELL_SFN_SFN c) (s.sfnOf lg k)).wr (R.SIEVE_CH_BELL_IDX_MARK_VALID c) 1
      .next (u.onChan c (fun h => { h with mark := some e, ncoPend := if s.bit (R.SIEVE_CH_MODE_BELL_NCO c) then h.ncoPend ++ [nb] else h.ncoPend }))

/-! ## Commands of a channel -/

/-- A swap request that arrives at instant `start` (units of 2^-16 ns) (R305). -/
def State.sieveRequest (s : State) (c bank log2 : Nat) (start : Int) : State := s.onRun c (fun _ r => r.request bank log2 start)

/-- SIEVE_SWAP (R305): a FADE_LOG2 outside 4 to 12 ignores the request, and so does a channel that is STOPPED. -/
def execSieveSwap (c : Fin 1024) (v : Word) (s : State) : Outc :=
  let l := (R.SIEVE_CH_CTRL_SWAP_FADE_LOG2 c.val).of v
  if bitOf v 29 ∧ 4 ≤ l ∧ l ≤ 12 ∧ s.chanSt c.val ≠ 0 then
    .next (s.sieveRequest c.val ((R.SIEVE_CH_CTRL_SWAP_BANK c.val).of v) l (s.stp.now : Int))
  else .next s

/-- FORCE_GUARD (R301). -/
def execForceGuard (c : Fin 1024) (s : State) : Outc := .next (s.onChan c.val SieveCh.enterGuard)

/-- LEAVE_GUARD: SERVICE from the next index that is a multiple of P_5, with TEST = 0 (R302). -/
def execLeaveGuard (c : Fin 1024) (s : State) : Outc :=
  if s.bit (R.SIEVE_CH_GUARD_TEST c.val) ∨ !(s.chan c.val).guard then .next s
  else .next (s.onChan c.val (fun h => { h with leave := true }))

/-- SIEVE_FADE_END (R304, R305). -/
def execSieveFadeEnd (c : Fin 1024) (s : State) : Outc :=
  .next (s.onRun c.val (fun g r => r.fadeEnd ((g.f0 * (g.spf : Int) + (r.ch.next : Int) * 10000000) * 65536 / (g.spf : Int))))

/-- SIEVE_GUARD_RETURN (R302). -/
def execSieveGuardReturn (c : Fin 1024) (s : State) : Outc := .next (s.onRun c.val (fun g r => SvRun.pre g r r.ch.next))

/-- SIEVE_COEF_WRITE (R303): a STOPPED channel has no active bank. -/
def execSieveCoefWrite (c : Fin 1024) (bank : Fin 2) (j : Fin 16) (v : Word) (s : State) : Outc :=
  let c := c.val
  let b := bank.val
  let h := s.chan c
  let inFade : Bool := match h.fade with
    | some f => decide (f.bank = b)
    | none => false
  let inPend : Bool := match h.pend with
    | some p => decide (p.1 = b)
    | none => false
  if s.chanSt c ≠ 0 ∧ (h.active = b ∨ inFade ∨ inPend) then .next (s.incSat (R.SIEVE_CH_SWAP_COUNTS_COEF_REFUSED c))
  else .next (s.wr (R.SIEVE_CH_COEF c b j.val) v.toNat)

/-- SIEVE_DELAY_WRITE (R308). -/
def execSieveDelayWrite (c : Fin 1024) (v : Word) (s : State) : Outc :=
  let c := c.val
  let t := s.wrWord v [R.SIEVE_CH_DELAY_INT c, R.SIEVE_CH_DELAY_FRAC c]
  if s.chanSt c = 0 then .next t
  else
    let g := s.chanGroup c
    let b := s.slotStart g ((s.nowNs - s.groupBase g) / s.slotNs g + 1)
    .next (t.onChan c (fun h => { h with dpend := some (b * 65536) }))

/-- SIEVE_DELAY_APPLY (R308): at the next low-rate index. -/
def execSieveDelayApply (c : Fin 1024) (s : State) : Outc :=
  let c := c.val
  if s.chanSt c = 2 ∨ s.chanSt c = 3 then
    .next (s.onRun c (fun g r => SvRun.delay g r ((r.ch.next + g.p5 - 1) / g.p5 * g.p5) (s.rd (R.SIEVE_CH_DELAY_INT c)) (s.rd (R.SIEVE_CH_DELAY_FRAC c))))
  else .next s

/-- SIEVE_GUARD_CFG_WRITE: a write of 1 to TEST enters GUARD (R301, R302). -/
def execSieveGuardCfgWrite (c : Fin 1024) (v : Word) (s : State) : Outc :=
  let c := c.val
  let t := s.wrWord v [R.SIEVE_CH_GUARD_AUTO c, R.SIEVE_CH_GUARD_GUARD_ON_WRAP c, R.SIEVE_CH_GUARD_TEST c, R.SIEVE_CH_GUARD_GUARD_EXTRA c]
  .next (t.onChan c (fun h => if bitOf v 29 then h.enterGuard else h))

/-! ## Bursts of DOWN channels (R310 to R313) -/

/-- The slot of low-rate index `k`, counted from frame 0 of the group. -/
def State.svSlot (s : State) (c k : Nat) : Int :=
  let g := s.chanGroup c
  ((s.chan c).f0 - s.groupBase g) / s.slotNs g + ((k / s.perSlot c : Nat) : Int)

/-- The deadline tick of a DOWN burst (R312). -/
def State.burstDeadline (s : State) (c : Nat) (b : SvBurst) : Nat :=
  let g := s.svCfg c
  (tickOfNs (g.indexNs ((b.k0 + g.bl - 1) * g.p5)) + s.rd (R.SIEVE_CH_BURST_LATE c)) % tickMod

/-- A burst is resolved: written (`ok`) or not started. The last of its notify group sends the group's token (R311). -/
def State.burstDone (s : State) (c k0 : Nat) (ok : Bool) : State :=
  let h := s.chan c
  let bl := (s.svCfg c).bl
  let div := s.rd (R.SIEVE_CH_NOTIFY_DIV_M1 c) + 1
  let n := k0 / bl
  let grp := n / div
  let missed := if ok || h.missed.contains grp then h.missed else h.missed ++ [grp]
  if !s.bit (R.SIEVE_CH_NOTIFY_EN c) then s
  else if n % div + 1 = div then
    let lapse := missed.contains grp
    let t := s.setChan c { h with missed := missed.filter (fun x => x != grp) }
    let idx := (s.rd (R.SIEVE_CH_NOTIFY_BASE c) + k0 % s.perSlot c / bl / div) % 4096
    t.sendToken false ⟨windowName (s.chanGroup c) (slotTag (s.svSlot c k0)) idx, lapse, 0xFFFF⟩
  else s.setChan c { h with missed := missed }

/-- Take burst `i` out of those held. -/
def State.dropBurst (s : State) (c i : Nat) : State := s.setChan c { s.chan c with bursts := (s.chan c).bursts.eraseIdx i }

/-- A burst that is not started: late (R312) or swept (R313). -/
def State.burstSkip (s : State) (c i : Nat) (late : Bool) : State :=
  match (s.chan c).bursts[i]? with
  | none => s
  | some b => ((s.dropBurst c i).inc (if late then R.SIEVE_CH_LATE_BURSTS c else R.SIEVE_SWEEP_DROPPED)).burstDone c b.k0 false

/-- The bytes of c16 samples. -/
def c16Bytes (l : List (Int × Int × Bool)) : List (Nat × Bool) :=
  l.flatMap (fun x =>
    let a := trunc 16 x.1
    let b := trunc 16 x.2.1
    [(a % 256, x.2.2), (a / 256, x.2.2), (b % 256, x.2.2), (b / 256, x.2.2)])

/-- Samples go into the ring from position `p`, turning at its end (R307). -/
def State.ringWrite (s : State) (c p : Nat) (l : List (Int × Int × Bool)) : Bool × State :=
  let len := s.rd (R.SIEVE_CH_RING_LEN_LEN c)
  let base := s.rd (R.SIEVE_CH_RING_BASE_ADDR c) * 64
  let x := s.dmaWrite sieveMid (base + 4 * p) (c16Bytes (l.take (len - p)))
  let y := x.2.dmaWrite sieveMid base (c16Bytes (l.drop (len - p)))
  (x.1 && y.1, y.2)

/-- The first burst whose write has not begun. -/
def State.waitingBurst (s : State) (c : Nat) : Option Nat := (s.chan c).bursts.findIdx? (fun b => !b.started)

/-- SIEVE_BURST_WRITE (R310, R312, R313). -/
def execSieveBurstWrite (c : Fin 1024) (s : State) : Outc :=
  let c := c.val
  match s.waitingBurst c with
  | none => .next s
  | some i =>
    match (s.chan c).bursts[i]? with
    | none => .next s
    | some b =>
      if passed s.tick (s.burstDeadline c b) then .next (s.burstSkip c i true)
      else if s.reached (s.sweepNs (s.chanGroup c) (s.svSlot c b.k0)) then .next (s.burstSkip c i false)
      else
        let x := s.ringWrite c ((b.k0 + b.int) % s.rd (R.SIEVE_CH_RING_LEN_LEN c)) b.data
        .next (x.2.onChan c (fun h => { h with bursts := h.bursts.set i { b with started := true, failed := !x.1 } }))

/-- SIEVE_BURST_ACK (R311): a burst whose write was answered with an error counts as not written. -/
def execSieveBurstAck (c : Fin 1024) (s : State) : Outc :=
  let c := c.val
  match (s.chan c).bursts.findIdx? (·.started) with
  | none => .next s
  | some i =>
    match (s.chan c).bursts[i]? with
    | none => .next s
    | some b =>
      let t := s.dropBurst c i
      .next ((if b.failed then t else t.inc (R.SIEVE_CH_BURSTS c)).burstDone c b.k0 (!b.failed))

/-- SIEVE_BURST_LATE (R312). -/
def execSieveBurstLate (c : Fin 1024) (s : State) : Outc :=
  let c := c.val
  match s.waitingBurst c with
  | none => .next s
  | some i =>
    match (s.chan c).bursts[i]? with
    | none => .next s
    | some b => if passed s.tick (s.burstDeadline c b) then .next (s.burstSkip c i true) else .next s

/-- Drop the unstarted bursts of a window on one channel. -/
def State.sweepChan (s : State) (c tag : Nat) : Nat → State
  | 0 => s
  | n + 1 =>
    let t := State.sweepChan s c tag n
    match (t.chan c).bursts.findIdx? (fun b => !b.started && decide (slotTag (t.svSlot c b.k0) = tag)) with
    | some i => t.burstSkip c i false
    | none => t

/-- SIEVE_SWEEP (R313). -/
def execSieveSweep (group : Fin 64) (wtag : Fin 16) (s : State) : Outc :=
  if (s.stp.groups.get group.val).windows.any (fun x => decide (x.wtag = wtag.val) && s.reached x.sweepNs) then
    .next ((s.sv.chans.keys.filter (fun c => decide (s.chanGroup c = group.val) && s.svDown c)).foldl
      (fun t c => t.sweepChan c wtag.val (t.chan c).bursts.length) s)
  else .next s

/-- Bursts of a window still held, from their first sample (R313, R51). -/
def State.sieveHeld (s : State) (g tag : Nat) : Nat :=
  s.sv.chans.entries.foldl (fun n e =>
    let c := e.1
    if s.chanGroup c ≠ g ∨ !s.svDown c then n
    else
      let own := fun k => decide (slotTag (s.svSlot c k) = tag)
      let k1 := (e.2.next + (s.svCfg c).p5 - 1) / (s.svCfg c).p5
      n + (e.2.bursts.filter (fun b => own b.k0)).length + (if e.2.buf ≠ [] ∧ own (k1 - e.2.buf.length) then 1 else 0)) 0

/-- SIEVE_CHANNEL_CEASE: at its frame boundary, or with its group; a partly filled burst is discarded, and the channel is
STOPPED once no burst is held (R309). -/
def execSieveChannelCease (c : Fin 1024) (s : State) : Outc :=
  let c := c.val
  let st := s.chanSt c
  let own := decide (st = 3) && s.reached (s.chan c).stopNs
  if (own || (decide (st ≠ 0) && s.groupCeased (s.chanGroup c))) && decide ((s.chan c).bursts = []) then
    let t := (s.wr (R.SIEVE_CH_STATUS_STATE c) 0).wr R.SIEVE_RATE_USED_SUM (s.rd R.SIEVE_RATE_USED_SUM - s.rd (R.SIEVE_CH_RATE_SPF c))
    .next (t.onChan c (fun h => { h with buf := [], fade := none, pend := none, dpend := none, missed := [] }))
  else .next s

/-! ## UP channels (R314) -/

/-- SIEVE_UP_READY. -/
def execSieveUpReady (c : Fin 1024) (v : Word) (s : State) : Outc := .next (s.wr (R.SIEVE_CH_UP_READY c.val) v.toNat)

/-- The deadline of the next UP burst has passed: its first sample's index time minus LATE ticks. -/
def State.upLate (s : State) (c : Nat) : Bool :=
  let g := s.svCfg c
  passed s.tick ((tickOfNs (g.indexNs (s.chan c).next) + (tickMod - s.rd (R.SIEVE_CH_BURST_LATE c))) % tickMod)

/-- Low-rate sample `k` from the ring: its value, whether it was ready, and its mark. An error answer gives a poisoned
sample. -/
def State.ringRead (s : State) (c k : Nat) : ((Int × Int) × Bool × Bool) × State :=
  if !tickBefore (k % tickMod) (s.rd (R.SIEVE_CH_UP_READY c)) then (((0, 0), false, false), s)
  else
    let len := s.rd (R.SIEVE_CH_RING_LEN_LEN c)
    let p := (k + len * 4096 - (s.chan c).int) % len
    match s.dmaRead sieveMid (s.rd (R.SIEVE_CH_RING_BASE_ADDR c) * 64 + 4 * p) 4 with
    | (none, t) => (((0, 0), true, true), t)
    | (some l, t) =>
      let b := byteVals l
      (((sext 16 (b.getD 0 0 + 256 * b.getD 1 0), sext 16 (b.getD 2 0 + 256 * b.getD 3 0)), true, anyBad l), t)

/-- Work one low-rate sample of an UP channel: its P_5 high-rate samples. -/
def State.upLow (s : State) (c : Nat) : List Sample × State :=
  let int := s.rd (R.SIEVE_CH_DELAY_INT c)
  let frac := s.rd (R.SIEVE_CH_DELAY_FRAC c)
  let s1 := s.onRun c (fun g r => SvRun.delay g r r.ch.next int frac)
  let k := (s1.chan c).next / (s1.svCfg c).p5
  let x := s1.ringRead c k
  let t := if x.1.2.1 then x.2 else x.2.svDisc c
  let g := t.svCfg c
  let r := (List.range g.p5).foldl (fun (acc : List (Int × Int × Bool) × SvRun) _ =>
    let y := SvRun.up g int frac acc.2 x.1.1 x.1.2.2
    (acc.1 ++ [y.1], y.2)) ([], { ch := t.chan c })
  (r.1.map (fun v => ⟨BitVec.ofInt 16 v.1, BitVec.ofInt 16 v.2.1, v.2.2⟩), t.endRun c r.2)

def State.upLows (s : State) (c : Nat) : Nat → List Sample × State
  | 0 => ([], s)
  | n + 1 =>
    let x := State.upLows s c n
    let y := x.2.upLow c
    (x.1 ++ y.1, y.2)

/-- An UP channel that runs. -/
def State.svUp (s : State) (c : Nat) : Bool := s.bit (R.SIEVE_CH_MODE_DIR c) && decide (s.chanSt c = 2 ∨ s.chanSt c = 3)

/-- SIEVE_UP_OUTPUT_REQUEST: the next burst is handed to the sink, unless its deadline has passed (R314). -/
def execSieveUpOutputRequest (c : Fin 1024) (s : State) : Outc :=
  let c := c.val
  if !s.svUp c ∨ s.upLate c then .next s
  else
    let h := s.chan c
    let g := s.svCfg c
    let x := s.upLows c g.bl
    let lg := s.chanGroup c
    let k := (h.f0 - s.groupBase lg) / 10000000 + ((h.next / g.spf : Nat) : Int)
    let o : SvOut := ⟨s.rd (R.SIEVE_CH_MODE_PORT_KIND c), s.rd (R.SIEVE_CH_MODE_PORT c), c, s.sfnOf lg k, h.next % g.spf, x.1⟩
    .next (State.inc { x.2 with sv := { x.2.sv with out := x.2.sv.out ++ [o] } } (R.SIEVE_CH_BURSTS c))

/-- SIEVE_UP_BURST_SKIP: a burst not started by its deadline is skipped; its samples are worked and not handed over (R314). -/
def execSieveUpBurstSkip (c : Fin 1024) (s : State) : Outc :=
  let c := c.val
  if s.svUp c ∧ s.upLate c then .next ((s.upLows c (s.svCfg c).bl).2.inc (R.SIEVE_CH_LATE_BURSTS c)) else .next s

end Sys2Proof.Machine
end

