-- ==== Sys2Proof/Machine/Market.lean ====
section
/-! DEFINITION. Machine/Market.lean: the Market Ethernet switch: ports, buffer cells, classification, landing, streams,
planned egress, host transmit queues, MACsec and PTP (chapter 17).
Choices of the model: log entries 52 (PRESUMED), 53 (DEDUCED), 54 (DESIGN CHOICE), 55 (DESIGN CHOICE). -/

namespace Sys2Proof.Machine

def marketMid : Mid := 0xB7
def State.setMkt (s : State) (m : Market) : State := { s with mkt := m }
def State.portInc (s : State) (p i : Nat) : State := s.inc (R.MARKET_PORT_COUNT p i)
def State.mktPort (s : State) (p : Nat) : Nat := s.rd (R.MARKET_PORT_STATUS_STATE p)
/-- Frames pass while the switch is enabled and the port is UP (R459, R494). -/
def State.mktUp (s : State) (p : Nat) : Bool := s.bit R.MARKET_CTRL_ENABLE && s.mktPort p == 3

/-! ## Time on the wire -/

/-- Instants of the wire are counted in units of 2^-16 / 25 ns, in which a byte of each MODE is a whole number (R457). -/
def byteTime (mode : Nat) : Nat :=
  if mode = 0 then 1310720 else if mode = 1 then 524288 else if mode = 2 then 262144 else 131072
def State.portByte (s : State) (p : Nat) : Nat := byteTime (s.rd (R.MARKET_PORT_CFG_MODE p))
def State.wireNow (s : State) : Nat := s.stp.now * 25
/-- Preamble, start of frame, and `n` bytes. -/
def State.wireTime (s : State) (p n : Nat) : Nat := (8 + n) * s.portByte p
/-- The instant a port can begin its next frame. -/
def State.portFree (s : State) (p : Nat) : Nat := max s.wireNow (s.mkt.free.get p)

/-! ## Frames (R458, R463) -/

def fb (f : List Nat) (i : Nat) : Nat := f.getD i 0
def fw (f : List Nat) (i : Nat) : Nat := fb f i * 256 + fb f (i + 1)

def crc32Byte (c : Nat) (b : Nat) : Nat :=
  (List.range 8).foldl (fun c _ => if c % 2 = 1 then c / 2 ^^^ 0xEDB88320 else c / 2) (c ^^^ (b % 256))
/-- The FCS of IEEE 802.3. -/
def fcs (f : List Nat) : Nat := (f.foldl crc32Byte 0xFFFFFFFF) ^^^ 0xFFFFFFFF

/-- What classification reads of a frame: ETHERTYPE, where its payload begins, inner VID and PCP, KEY8, SUB, UDP destination
port, and where its PTP message and UDP checksum lie (R463). -/
structure FrameKeys where
  et : Nat
  off : Nat
  vid : Nat
  pcp : Option Nat
  key8 : Nat := 0
  sub : Nat := 0
  udp : Nat := 0
  ptp : Option Nat := none
  ipv : Nat := 0
  check : Nat := 0
deriving DecidableEq, Repr, Inhabited

def parseFrame (f : List Nat) : FrameKeys :=
  let a := if fw f 12 = 0x88A8 then 16 else 12
  let tagged : Bool := fw f a == 0x8100
  let vid := if tagged then fw f (a + 2) % 4096 else 0
  let pcp := if tagged then some (fb f (a + 2) / 32) else none
  let b := if tagged then a + 4 else a
  let et := fw f b
  let off := b + 2
  if et = 0xAEFE then { et := et, off := off, vid := vid, pcp := pcp, key8 := fb f (off + 1), sub := fw f (off + 4) }
  else if et = 0xFC3D then { et := et, off := off, vid := vid, pcp := pcp, key8 := fb f (off + 1) }
  else if et = 0x88F7 then { et := et, off := off, vid := vid, pcp := pcp, key8 := fb f off % 16, ptp := some off }
  else
    let v4 : Bool := et == 0x0800 && fb f off == 0x45 && fb f (off + 9) == 17
    let v6 : Bool := et == 0x86DD && fb f (off + 6) == 17
    if v4 || v6 then
      let u := if v4 then off + 20 else off + 40
      let d := fw f (u + 2)
      let isPtp : Bool := d == 319 || d == 320
      { et := et, off := off, vid := vid, pcp := pcp, key8 := if isPtp then fb f (u + 8) % 16 else 0, udp := d,
        ptp := if isPtp then some (u + 8) else none, ipv := if v4 then 4 else 6, check := u + 6 }
    else { et := et, off := off, vid := vid, pcp := pcp }

/-- A length field that does not match the frame: more than its data, or less where the frame was not padded (R458). -/
def badLength (body : Nat) (k : FrameKeys) : Bool :=
  if 1536 ≤ k.et then false
  else decide (1500 < k.et) || decide (body - k.off < k.et) || (decide (46 < body - k.off) && k.et != body - k.off)

/-! ## Buffer cells (R461) -/

def cellsOf (n : Nat) : Nat := (n + 255) / 256
def State.cellsUsed (s : State) : Nat := s.rd R.MARKET_BUF_STATUS_CELLS
def State.cellsSwitched (s : State) : Nat := s.mkt.bufs.entries.foldl (fun n e => if e.2.tc.isSome then n + e.2.cells else n) 0
def State.cellsOfTc (s : State) (tc : Nat) : Nat := s.mkt.bufs.entries.foldl (fun n e => if e.2.tc = some tc then n + e.2.cells else n) 0

/-- `n` cells can be had: landing and streams may use all, switched and host traffic keeps off the reserve and its quota. -/
def State.cellsRoom (s : State) (tc : Option Nat) (n : Nat) : Bool :=
  decide (s.cellsUsed + n ≤ 65536) &&
    match tc with
    | none => true
    | some c => decide (s.cellsSwitched + n ≤ 65536 - s.rd R.MARKET_BUF_CFG_LAND_RESERVE) && decide (s.cellsOfTc c + n ≤ s.rd R.MARKET_BUF_CFG_TC_MAX)

/-- Allocate cells for a frame with `copies` copies: its buffer number. -/
def State.cellsTake (s : State) (tc : Option Nat) (n copies : Nat) : Nat × State :=
  let i := s.mkt.nextBuf
  let t := { s with mkt := { s.mkt with bufs := s.mkt.bufs.set i ⟨n, copies, tc⟩, nextBuf := i + 1 } }
  (i, (t.add R.MARKET_BUF_STATUS_CELLS n).ledgerCount (ledgerId 3 0) n 0)

/-- One copy of the frame is gone; with the last one its cells are free. -/
def State.cellsFree (s : State) (i : Nat) : State :=
  let b := s.mkt.bufs.get i
  if b.copies ≤ 1 then
    ((s.setMkt { s.mkt with bufs := s.mkt.bufs.set i default }).wr R.MARKET_BUF_STATUS_CELLS (s.cellsUsed - b.cells)).ledgerCount (ledgerId 3 0) 0 b.cells
  else s.setMkt { s.mkt with bufs := s.mkt.bufs.set i { b with copies := b.copies - 1 } }

/-! ## Ports (R457, R459, R460) -/

/-- Lanes of a port by its MODE. -/
def portLanes (mode : Nat) : Nat := if mode = 3 then 2 else if mode = 4 then 4 else 1
def modeRate (mode : Nat) : Nat := if mode = 0 then 3 else if mode = 1 ∨ mode = 4 then 5 else 8
def fecAllowed (mode fec : Nat) : Bool :=
  match mode with
  | 0 => fec == 0
  | 1 => fec == 0 || fec == 1
  | 2 => fec == 2
  | 3 => fec == 3
  | 4 => fec == 0 || fec == 4
  | _ => false

/-- Every condition of R457 holds for the port. -/
def State.portCfgOk (s : State) (p : Nat) : Bool :=
  let mode := s.rd (R.MARKET_PORT_CFG_MODE p)
  let first := s.rd (R.MARKET_PORT_CFG_FIRST_LANE p)
  let n := portLanes mode
  decide (mode ≤ 4) && fecAllowed mode (s.rd (R.MARKET_PORT_CFG_FEC p)) && first % n == 0 && decide (first + n ≤ 48) &&
    s.rd (R.QUAD_CFG_RATE (first / 4)) == modeRate mode &&
    (List.range n).all (fun j => s.rd (R.LANE_CFG_USE (first + j)) == 1 && s.rd (R.LANE_CFG_OWNER (first + j)) == p)

/-- SQUELCHED of a SyncE output (R493). -/
def State.showSynce (s : State) (k : Nat) : State :=
  let p := s.rd (R.MARKET_SYNCE_OUT_PORT k)
  s.wrB (R.MARKET_SYNCE_OUT_SQUELCHED k)
    (s.bit (R.MARKET_SYNCE_OUT_SQUELCH k) || s.mktPort p != 3 || !s.bit (R.LANE_STATUS_CDR_LOCK (s.rd (R.MARKET_PORT_CFG_FIRST_LANE p))))

/-- The port enters a state. -/
def State.portTo (s : State) (p st : Nat) : State := ((s.wr (R.MARKET_PORT_STATUS_STATE p) st).showSynce 0).showSynce 1

/-- TRAINING with TRAIN = 1, else LINK_WAIT. -/
def State.portBegin (s : State) (p : Nat) : State := s.portTo p (if s.bit (R.MARKET_PORT_CFG_TRAIN p) then 1 else 2)

/-- The fields of MARKET_PORT_CFG other than EN and RETRAIN; ignored while EN = 1 (R494). -/
def State.portCfg (s : State) (p : Nat) (v : Word) : State :=
  if s.bit (R.MARKET_PORT_CFG_EN p) then s
  else (s.wrWord v [R.MARKET_PORT_CFG_TRAIN p, R.MARKET_PORT_CFG_MODE p, R.MARKET_PORT_CFG_FEC p, R.MARKET_PORT_CFG_FIRST_LANE p]).wr
    (R.MARKET_PORT_CFG_MAX_FRAME p) (min 9600 (max 1518 (bitsOf v 0 14)))

/-- MARKET_PORT_ENABLE (R457, R459). -/
def execMarketPortEnable (p : Fin 32) (v : Word) (s : State) : Outc :=
  let p := p.val
  let was := s.bit (R.MARKET_PORT_CFG_EN p)
  let t := (s.portCfg p v).wrB (R.MARKET_PORT_CFG_EN p) (bitOf v 31)
  if !bitOf v 31 then .next ((t.wr (R.MARKET_PORT_STATUS_FEC_LOCK p) 0).portTo p 0).ack
  else if was then .next t.ack
  else if t.portCfgOk p then .next ((t.wr (R.MARKET_PORT_STATUS_CFG_ERR p) 0).portBegin p).ack
  else .next (t.wr (R.MARKET_PORT_STATUS_CFG_ERR p) 1).ack

/-- MARKET_PORT_RETRAIN: training of a started port begins again (R460). -/
def execMarketPortRetrain (p : Fin 32) (v : Word) (s : State) : Outc :=
  if bitOf v 29 ∧ s.mktPort p.val ≠ 0 ∧ s.bit (R.MARKET_PORT_CFG_TRAIN p.val) then
    .next ((s.wr (R.MARKET_PORT_STATUS_FEC_LOCK p.val) 0).portTo p.val 1).ack
  else .next s.ack

/-- TRAINING_COMPLETE (R459). -/
def execTrainingComplete (p : Fin 32) (s : State) : Outc := .next (if s.mktPort p.val = 1 then s.portTo p.val 2 else s)

/-- TRAINING_TIMEOUT: training restarts from its first state (R460). -/
def execTrainingTimeout (p : Fin 32) (s : State) : Outc := .next (if s.mktPort p.val = 1 then s.inc (R.MARKET_TRAIN_RESTARTS p.val) else s)

/-- An UP port loses its link (R459). -/
def State.portLoss (s : State) (p : Nat) : State :=
  if s.mktPort p = 3 then ((s.inc (R.MARKET_LINK_LOSS p)).wr (R.MARKET_PORT_STATUS_FEC_LOCK p) 0).portBegin p else s

/-- PCS_LOCK_LOSS (R459). -/
def execPcsLockLoss (p : Fin 32) (s : State) : Outc := .next (s.portLoss p.val)

/-! ## PTP (R486 to R492) -/

def sec2 : Int := 1000000000 * 65536

/-- Bytes of a number, most significant first. -/
def beBytes : Nat → Nat → List Nat
  | 0, _ => []
  | n + 1, v => v / 256 ^ n % 256 :: beBytes n v
def beNum (l : List Nat) : Nat := l.foldl (fun n b => n * 256 + b) 0

/-- Replace the bytes of `f` from place `i`. -/
def splice (f : List (Nat × Bool)) (i : Nat) (x : List Nat) : List (Nat × Bool) :=
  f.take i ++ (x.zip ((f.drop i).map Prod.snd)) ++ f.drop (i + x.length)

/-- The ones' complement sum of a checksum over 16-bit words. -/
def sum16 : Nat → List Nat → Nat
  | 0, _ => 0
  | n + 1, l => fw l 0 + sum16 n (l.drop 2)

/-- Write PTP message bytes `x` at offset `o` of the message, and mend the UDP checksum: zero for IPv4, updated for IPv6
(R489). -/
def ptpWrite (k : FrameKeys) (f : List (Nat × Bool)) (o : Nat) (x : List Nat) : List (Nat × Bool) :=
  match k.ptp with
  | none => f
  | some a =>
    let old := ((f.drop (a + o)).take x.length).map Prod.fst
    let g := splice f (a + o) x
    if k.ipv = 4 then splice g k.check [0, 0]
    else if k.ipv = 6 then
      let n := (x.length + 1) / 2
      let c := fw ((f.drop k.check).map Prod.fst) 0
      let y := (65535 - c + sum16 n x + (65535 * n - sum16 n old)) % 65535
      splice g k.check (beBytes 2 (if y = 0 then 65535 else 65535 - y))
    else g

/-- Add to correctionField, in units of 2^-16 ns. -/
def ptpCorrect (k : FrameKeys) (f : List (Nat × Bool)) (d : Int) : List (Nat × Bool) :=
  match k.ptp with
  | none => f
  | some a =>
    let old := beNum (((f.drop (a + 8)).take 8).map Prod.fst)
    if d = 0 then f else ptpWrite k f 8 (beBytes 8 (trunc 64 ((old : Int) + d)))

def State.asym (s : State) (p : Nat) : Int := if s.bit (R.MARKET_PTP_CFG_ASYM_EN p) then sext 32 (s.rd (R.MARKET_PTP_ASYM p)) else 0

/-- A frame on a port with a ROLE is stamped; the stamp is valid while the lane's replica is SYNC (R25, R487). -/
def State.stamped (s : State) (p : Nat) : Bool := decide (s.rd (R.MARKET_PTP_CFG_ROLE p) ≠ 0)
def State.rxTime (s : State) (p stamp : Nat) : Int := (stamp : Int) - sext 32 (s.rd (R.MARKET_PTP_IN_LAT p))
def State.rxValid (s : State) (p : Nat) : Bool := s.stamped p && !s.stp.lost.contains (s.rd (R.MARKET_PORT_CFG_FIRST_LANE p))

/-- The asymmetry correction of a stamped frame (R490): Sync, Pdelay_Resp, Follow_Up. -/
def State.rxAsym (s : State) (p : Nat) (k : FrameKeys) (f : List (Nat × Bool)) : List (Nat × Bool) :=
  if s.stamped p && k.ptp.isSome && (k.key8 == 0 || k.key8 == 3 || k.key8 == 8) then ptpCorrect k f (s.asym p) else f

/-- The captures of port `p` and their head registers (R489, R494). -/
def State.showCaps (s : State) (p : Nat) (l : List (Nat × Nat × Nat × Nat)) : State :=
  let e := l.headD (0, 0, 0, 0)
  let t := s.setMkt { s.mkt with caps := s.mkt.caps.set p l }
  (((t.wr (R.MARKET_TS_CAP p 0) e.1).wr (R.MARKET_TS_CAP p 1) e.2.1).wr (R.MARKET_TS_CAP p 2) (e.2.2.1 * 65536 + e.2.2.2)).wr
    (R.MARKET_TS_CAP p 3) (Config.tsStatus l.length)

/-- TS_CAPTURE: the departure time goes into the two-step FIFO, or is the newest and is discarded (R489). -/
def State.capture (s : State) (p : Nat) (t : Int) (tag : Nat) : State :=
  let l := s.mkt.caps.get p
  if l.length < Config.tsFifoDepth then
    s.showCaps p (l ++ [((t / sec2 % 4294967296).toNat, (t / 65536 % 1000000000).toNat, (t % 65536).toNat, tag)])
  else s.wr (R.MARKET_PTP_CFG_TS_OVERFLOW p) 1

/-- What PTP changes in a frame that departs with its timestamp point at `t` (R488 to R492). -/
def State.txPtp (s : State) (p : Nat) (f : TxFrame) (t : Int) : List (Nat × Bool) :=
  let k := parseFrame (f.bytes.map Prod.fst)
  let b := f.bytes
  let role := s.rd (R.MARKET_PTP_CFG_ROLE p)
  if k.ptp.isNone then b
  else
    let c := match f.rx with
      | some (i, rx) =>
        if 2 ≤ s.rd (R.MARKET_PTP_CFG_ROLE i) ∧ k.key8 ≤ 3 then
          t - rx + (if s.rd (R.MARKET_PTP_CFG_ROLE i) = 3 ∧ k.key8 = 0 then sext 32 (s.rd (R.MARKET_PTP_PDELAY i)) else 0)
        else 0
      | none => 0
    let a := if role ≠ 0 ∧ (k.key8 = 1 ∨ k.key8 = 2) then - s.asym p else 0
    let d := ptpCorrect k b (c + a)
    if f.oneStep ∧ role ≠ 0 ∧ k.key8 = 0 then
      ptpCorrect k (ptpWrite k d 34 (beBytes 6 (t / sec2).toNat ++ beBytes 4 (t / 65536 % 1000000000).toNat)) (t % 65536)
    else d

/-! ## MACsec (R483 to R485) -/

def State.msec (s : State) (p : Nat) : MacsecPort := s.mkt.sec.get p
def State.setMsec (s : State) (p : Nat) (x : MacsecPort) : State := s.setMkt { s.mkt with sec := s.mkt.sec.set p x }
/-- A port is protected once an association has been installed in it. -/
def State.msecOn (s : State) (p : Nat) : Bool := (s.msec p).on
def pnMax (xpn : Bool) : Nat := if xpn then 2 ^ 64 - 1 else 2 ^ 32 - 1
/-- Bytes that SecTAG and ICV add. -/
def secBytes (sci : Bool) : Nat := if sci then 32 else 24
/-- The frame is sent protected. -/
def State.protects (s : State) (p et : Nat) : Bool := s.msecOn p && !((Config.macsecBypass p).contains et)

/-! ## Sending (R462, R477, R479, R481) -/

/-- The bytes before the first poisoned word (R481). -/
def cleanPrefix (f : List (Nat × Bool)) : List Nat := (f.takeWhile (fun b => !b.2)).map Prod.fst
def pad60 (f : List Nat) : List Nat := f ++ List.replicate (60 - f.length) 0
def invert32 (x : Nat) : Nat := 4294967295 - x % 4294967296

/-- Bytes on the wire of a frame, its SecTAG, ICV and FCS with it. -/
def State.wireBytes (s : State) (p et n : Nat) : Nat := max n 60 + (if s.protects p et then secBytes (Config.macsecSci p) else 0) + 4

/-- Start frame `f` on port `p`: PTP, poison, MACsec (R481, R485, R489). -/
def State.startFrame (s : State) (p : Nat) (f : TxFrame) : State :=
  let start := s.portFree p - f.early
  let t : Int := ((start + 8 * s.portByte p) / 25 : Nat) + sext 32 (s.rd (R.MARKET_PTP_OUT_LAT p))
  let b := s.txPtp p f t
  let bad := anyBad b
  let body := pad60 (cleanPrefix b)
  let et := (parseFrame body).et
  let prot := s.protects p et
  let m := s.msec p
  if prot && (decide (pnMax (Config.macsecXpn p) < m.pn) || m.keys.get m.an == []) then ((s.setMsec p { m with exhaust := m.exhaust + 1 }).cellsFree f.buf)
  else
    let c := fcs body
    let out := body ++ bytesOf32 (if bad || f.stomp then invert32 c else c)
    let ends := start + s.wireTime p (s.wireBytes p et body.length)
    let s1 := if bad then s.portInc p 14 else s
    let s2 := if f.stomp then s1.portInc p 15 else s1
    let s3 := if f.capture then s2.capture p t f.tag else s2
    let s4 := if prot then (s3.setMsec p { m with pn := m.pn + 1 }).irqIf (m.pn + 1 == Config.macsecWarn p) .macsec p else s3
    s4.setMkt { s4.mkt with
      now := s4.mkt.now.set p (some ⟨out, if prot then some m.pn else none, ends, f.buf, f.token, f.win⟩),
      free := s4.mkt.free.set p (ends + 12 * s.portByte p) }

/-- The units of the wire at which a tick value falls. -/
def State.tickWire (s : State) (d : Nat) : Int := s.absTick d * (262144 * 25)

/-- The entry is ready (R476). -/
def outReady (e : MktOut) : Bool := !e.done && e.opened && (!e.doorbell || e.rung)

/-- The last FCS bit of the entry's frame leaves the ball before CLOSE (R477). -/
def State.outFits (s : State) (e : MktOut) : Bool :=
  decide (((s.portFree e.port + s.wireTime e.port (max e.len 60 + (if s.msecOn e.port then secBytes (Config.macsecSci e.port) else 0) + 4) : Nat) : Int) < s.tickWire e.close)

/-- The entry that port `p` starts next: the earliest CLOSE, then the lowest INDEX. -/
def State.nextOut (s : State) (p : Nat) : Option (Nat × Nat × MktOut) :=
  (s.mkt.plans.flatMap (fun x => x.outs.map (fun e => (x.g, x.wtag, e)))).foldl (fun b x =>
    if x.2.2.port = p ∧ outReady x.2.2 ∧ s.outFits x.2.2 then
      match b with
      | none => some x
      | some y =>
        if s.absTick x.2.2.close < s.absTick y.2.2.close ∨ (x.2.2.close = y.2.2.close ∧ x.2.2.index < y.2.2.index) then some x else b
    else b) none

/-- The port keeps off other frames before the OPEN of an entry (R477). -/
def State.guarded (s : State) (p : Nat) : Bool :=
  let g : Int := (s.rd (R.MARKET_PTP_CFG_GUARD_NS p) : Int) * (65536 * 25)
  s.mkt.plans.any (fun x => x.outs.any (fun e => e.port == p && !e.done && !e.opened &&
    decide (s.tickWire e.open_ - g ≤ ((s.portFree p : Nat) : Int)) && decide (((s.portFree p : Nat) : Int) < s.tickWire e.open_)))

/-- The first queued frame of the highest class (R479). -/
def topFrame (l : List TxFrame) : Option TxFrame :=
  l.foldl (fun b f => match b with | none => some f | some x => if x.tc < f.tc then some f else b) none

/-- At a frame boundary the port starts a queued frame, where no planned entry is preferred (R477, R479). A frame dropped
for want of a packet number is followed by the next. -/
def State.pumpGo (p : Nat) : Nat → State → State
  | 0, s => s
  | n + 1, s =>
    if s.mktUp p && (s.mkt.now.get p).isNone && (s.nextOut p).isNone && !s.guarded p then
      match topFrame (s.mkt.queues.get p) with
      | none => s
      | some f =>
        let t := (s.setMkt { s.mkt with queues := s.mkt.queues.set p ((s.mkt.queues.get p).erase f) }).startFrame p f
        State.pumpGo p n t
    else s
def State.pump (s : State) (p : Nat) : State := State.pumpGo p ((s.mkt.queues.get p).length) s

def State.enqTx (s : State) (p : Nat) (f : TxFrame) : State :=
  (s.setMkt { s.mkt with queues := s.mkt.queues.set p (s.mkt.queues.get p ++ [f]) }).pump p

/-- PCS_LOCK: block lock, alignment and FEC lock: UP (R459). -/
def execPcsLock (p : Fin 32) (s : State) : Outc :=
  if s.mktPort p.val = 2 then
    .next (((s.wrB (R.MARKET_PORT_STATUS_FEC_LOCK p.val) (decide (s.rd (R.MARKET_PORT_CFG_FEC p.val) ≠ 0))).portTo p.val 3).pump p.val)
  else .next s

/-- Mark the whole cell words that hold a marked byte. -/
def cellMarks (bytes : List Nat) (bad : List Nat) : List (Nat × Bool) := bytes.zipIdx.map (fun x => (x.1, bad.contains (x.2 / 8)))

/-! ## Part 1 of a plan (R466, R467) -/

/-- Bits that each KIND may use in words 0 to 7. -/
def entryMask : Nat → List Nat
  | 1 => [0xFFE0FFFF, 0x00FFFFFF, 0xFFFFFFFF, 0xFFFF01FF, 0x8FF00000, 0, 0, 0]
  | 2 => [0xFFE0FFFF, 0, 0x7F, 0x00FF0000, 0x3F, 0, 0, 0]
  | 3 => [0xF07F000F, 0xFFFFFFFF, 0xFFF, 0xFFFFFFFF, 0, 0, 0, 0]
  | 4 => [0xFFFC3FFF, 0xFFFFFFFF, 0xFF000000, 0xFFFFFFFF, 0xFFFFFFFF, 0xFFFFFFFF, 0xFFF, 0]
  | _ => []

inductive MktEntry where
  | ingress (e : MktIn)
  | note (e : MktNotify)
  | egress (e : MktOut)
deriving DecidableEq, Repr, Inhabited

def recordSize (meth iqw : Nat) : Nat := if meth = 1 then 1 + 3 * iqw else 48

/-- One entry of part 1, or none where R467 rejects its values; `sweep` is the sweep instant's tick. -/
def mktParse (sweep : Nat) (w : List Nat) : Option MktEntry :=
  let x := fun i => w.getD i 0
  let kind := nbits (x 0) 28 4
  let m := entryMask kind
  if m = [] ∨ (List.range 8).any (fun i => decide (x i &&& (4294967295 - m.getD i 0) ≠ 0)) then none
  else if kind ≤ 2 then
    let e : MktIn := {
      port := nbits (x 0) 23 5, msg := nbits (x 0) 21 2, eaxc := nbits (x 0) 0 16, place := kind == 1, depth := nbits (x 1) 16 8,
      stride := nbits (x 1) 0 16, addr := nbits (x 3) 24 8 * 2 ^ 32 + x 2, prbs := nbits (x 3) 0 9, udh := nbit (x 4) 31,
      iqw := nbits (x 4) 24 4, meth := nbits (x 4) 20 4, pool := nbits (x 2) 0 7, queue := nbits (x 4) 0 6, notify := nbit (x 3) 23,
      nset := nbits (x 3) 16 7 }
    let shape : Bool := decide (1 ≤ e.depth ∧ e.depth ≤ 14 ∧ e.stride ≠ 0 ∧ 1 ≤ e.prbs ∧ e.prbs ≤ 275) &&
      ((e.meth == 1 && decide (8 ≤ e.iqw ∧ e.iqw ≤ 14)) || (e.meth == 0 && e.iqw == 0)) &&
      decide (e.addr + (e.depth - 1) * e.stride * 64 + e.prbs * recordSize e.meth e.iqw ≤ granaryEnd)
    if 1 < e.msg ∨ (e.place ∧ !shape) then none else some (.ingress e)
  else if kind = 3 then
    if 13 < nbits (x 0) 0 4 ∨ x 1 = 0 ∨ tickBefore sweep (x 3) then none
    else some (.note { nset := nbits (x 0) 16 7, sym := nbits (x 0) 0 4, expect := x 1, index := x 2, deadline := x 3 })
  else
    let e : MktOut := {
      port := nbits (x 0) 23 5, tc := nbits (x 0) 20 3, doorbell := nbit (x 0) 19, release := nbit (x 0) 18, len := nbits (x 0) 0 14,
      src := nbits (x 2) 24 8 * 2 ^ 32 + x 1, open_ := x 3, close := x 4, token := x 5, index := x 6 }
    let inMem : Bool := decide (e.src + e.len ≤ granaryEnd) || (decide (cellarBase ≤ e.src) && decide (e.src + e.len ≤ cellarEnd))
    if e.len < 14 ∨ 9596 < e.len ∨ !inMem ∨ (e.token ≠ 0 ∧ !e.release) ∨ !tickBefore e.open_ e.close ∨ tickBefore sweep e.close then none
    else some (.egress e)

/-- One entry of part 1, or none where R467 rejects it: a RELEASE token needs its pool enabled. -/
def State.mktEntry (s : State) (sweep : Nat) (w : List Nat) : Option MktEntry :=
  match mktParse sweep w with
  | some (.egress e) => if e.release ∧ !s.bit (R.GRANARY_POOL_STATUS_ENABLED (nbits e.token 24 7)) then none else some (.egress e)
  | x => x

def takeWords : Nat → List Nat → List (List Nat)
  | 0, _ => []
  | n + 1, l => l.take 8 :: takeWords n (l.drop 8)

/-- The entries of part 1, or none where it is rejected (R467). -/
def State.mktEntries (s : State) (sweep count : Nat) (words : List Nat) : Option (List MktEntry) :=
  if 8192 < count then none
  else
    let es := (takeWords count words).map (s.mktEntry sweep)
    if es.any Option.isNone then none
    else
      let l := es.filterMap id
      let ins := l.filterMap (fun e => match e with | .ingress x => some (x.port, x.msg, x.eaxc) | _ => none)
      let notes := l.filterMap (fun e => match e with | .note x => some (x.nset, x.sym) | _ => none)
      let outs := l.filterMap (fun e => match e with | .egress x => some x.index | _ => none)
      if ins.dedup.length = ins.length ∧ notes.dedup.length = notes.length ∧ outs.dedup.length = outs.length then some l else none

/-- The entries of part 1 take effect for the plan's slot (R467). -/
def State.mktCommit (s : State) (g : Nat) (slot : Int) (wtag : Nat) (sweepNs : Int) (l : List MktEntry) : State :=
  if l = [] then s
  else s.setMkt { s.mkt with plans := s.mkt.plans ++ [{
    g := g, slot := slot, wtag := wtag, sweepNs := sweepNs,
    ins := l.filterMap (fun e => match e with | .ingress x => some x | _ => none),
    notes := l.filterMap (fun e => match e with | .note x => some x | _ => none),
    outs := l.filterMap (fun e => match e with | .egress x => some x | _ => none) }] }

def MktPlan.isOf (x : MktPlan) (g w : Nat) : Bool := x.g == g && x.wtag == w
def State.onPlan (s : State) (g w : Nat) (f : MktPlan → MktPlan) : State :=
  s.setMkt { s.mkt with plans := s.mkt.plans.map (fun x => if x.isOf g w then f x else x) }
def State.planOf (s : State) (g w : Nat) : Option MktPlan := s.mkt.plans.find? (fun x => x.isOf g w)

/-! ## Notify sets (R470) -/

def MktPlan.setNote (x : MktPlan) (n : MktNotify) : MktPlan :=
  { x with notes := x.notes.map (fun m => if m.nset = n.nset ∧ m.sym = n.sym then n else m) }
def MktPlan.note (x : MktPlan) (nset sym : Nat) : Option MktNotify := x.notes.find? (fun m => m.nset == nset && m.sym == sym)

/-- The one token of a NOTIFY entry. -/
def State.sendNote (s : State) (g w : Nat) (n : MktNotify) (lapse : Bool) : State :=
  (s.onPlan g w (fun x => x.setNote { n with sent := true })).sendToken false ⟨windowName g w n.index, lapse, 0xFFFF⟩

/-- `units` units are counted in set `nset`, symbol `sym`. -/
def State.countNote (s : State) (g w nset sym units : Nat) : State :=
  let t := s.onPlan g w (fun x => { x with counts := x.counts.modify (nset * 16 + sym) (fun c => c + units) })
  match t.planOf g w with
  | none => s
  | some x =>
    match x.note nset sym with
    | none => t
    | some n => if !n.sent && decide (n.expect ≤ x.counts.get (nset * 16 + sym)) then t.sendNote g w n false else t

/-- The lapse token of a NOTIFY entry that did not reach EXPECT. -/
def State.lapseNote (s : State) (g w : Nat) (n : MktNotify) : State :=
  if n.sent then s else (s.sendNote g w n true).inc R.MARKET_NOTIFY_LAPSED

/-- NOTIFY_DEADLINE (R470). -/
def execNotifyDeadline (g : Fin 64) (w : Fin 16) (nset : Fin 128) (sym : Fin 14) (s : State) : Outc :=
  match (s.planOf g.val w.val).bind (fun x => x.note nset.val sym.val) with
  | none => .next s
  | some n => .next (if passed s.tick n.deadline then s.lapseNote g.val w.val n else s)

/-! ## Landing (R468 to R472) -/

/-- What the sections of a frame have done so far: the bytes left to parse lie from `pos` to `stop`. -/
structure Sections where
  st : State
  counts : List (Nat × Nat × Nat) := []
  errs : Nat := 0

/-- Land the sections of a U-plane frame from `pos` on (R468, R469): each in place, or dropped. -/
def landSections (e : MktIn) (port stop : Nat) (f : List (Nat × Bool)) : Nat → Nat → Option Nat → Nat → Sections → Sections
  | 0, _, _, _, x => x
  | fuel + 1, pos, prev, sym0, x =>
    let bad := fun (y : Sections) => { y with st := y.st.portInc port 7 }
    if stop ≤ pos then x
    else if stop < pos + 4 + (if e.udh then 2 else 0) then bad x
    else
      let b := fun i => (f.getD i (0, false)).1
      let start := b (pos + 1) % 4 * 256 + b (pos + 2)
      let num : Int := if b (pos + 3) = 0 then (e.prbs : Int) - start else (b (pos + 3) : Int)
      let comp := b (pos + 4)
      let data := pos + 4 + (if e.udh then 2 else 0)
      let sym := match prev with | none => sym0 | some q => q + b (pos + 1) / 4 % 2
      let rs := recordSize e.meth e.iqw
      let size := num.toNat * rs
      if stop < data + size then bad x
      else
        let wrong : Bool := b (pos + 1) / 8 % 2 == 1 || decide (num ≤ 0) || decide ((e.prbs : Int) < start + num) ||
          (e.udh && comp != e.iqw * 16 + e.meth) || decide (13 < sym)
        if wrong then landSections e port stop f fuel (data + size) (some sym) sym0 (bad x)
        else
          let a := e.addr + sym % e.depth * (e.stride * 64) + start * rs
          let y := x.st.dmaWrite marketMid a ((f.drop data).take size)
          let z : Sections := if y.1 then
              { st := y.2, counts := if e.notify then x.counts ++ [(e.nset, sym, num.toNat)] else x.counts, errs := x.errs }
            else { st := y.2, counts := x.counts, errs := x.errs + 1 }
          landSections e port stop f fuel (data + size) (some sym) sym0 z

/-- The 16-byte landing header (R471). -/
def State.landHeader (s : State) (p len stamp : Nat) (verified : Bool) : List Nat :=
  let t := s.rxTime p stamp
  let valid : Bool := s.rxValid p
  let st : Bool := s.stamped p
  bytesOf32 (len * 65536 + p * 256 + (if valid then 128 else 0) + (if verified then 64 else 0)) ++
    bytesOf32 (if st then (t / sec2 % 4294967296).toNat else 0) ++ bytesOf32 (if st then (t / 65536 % 1000000000).toNat else 0) ++
    bytesOf32 (if st then (t % 65536).toNat * 65536 else 0)

def State.addLanding (s : State) (l : Landing) : State := s.setMkt { s.mkt with landings := s.mkt.landings ++ [l] }

/-- Land a whole frame in pool `pool`, its token for queue `queue` (R471); the frame has buffer `buf`. -/
def State.landPool (s : State) (p buf pool queue stamp : Nat) (verified : Bool) (win : Option (Nat × Nat)) (counts : List (Nat × Nat × Nat))
    (f : List (Nat × Bool)) : State :=
  let x := match win with
    | some (g, w) => s.poolTakeWriter pool g w
    | none => s.poolTake pool none
  match x.1 with
  | none => (x.2.portInc p 8).cellsFree buf
  | some tok =>
    let size := (s.rd (R.GRANARY_POOL_CFG_BUF_UNITS_M1 pool) + 1) * 64
    if size < f.length + 16 then ((x.2.poolRelease pool tok).portInc p 9).cellsFree buf
    else
      let a := s.rd (R.GRANARY_POOL_BASE_ADDR pool) * 64 + tok % 65536 * size
      let y := x.2.dmaWrite marketMid a (clean (s.landHeader p f.length stamp verified) ++ f)
      y.2.addLanding ⟨buf, p, win, counts, if y.1 then 0 else 1, some (tok, queue)⟩

/-- A plan of group `g` in effect for slot `n`, its window not swept (R465). -/
def State.slotPlan (s : State) (g : Nat) (n : Int) : Option MktPlan :=
  s.mkt.plans.find? (fun x => x.g == g && decide (x.slot = n) && !s.reached x.sweepNs)

/-- LOCKED_FRAME_MATCH (R465): slot, plan, ingress entry; then the landing that the entry names. -/
def State.landLocked (s : State) (p buf g : Nat) (k : FrameKeys) (f : List (Nat × Bool)) (stamp : Nat) (verified : Bool) : State :=
  let drop := fun (t : State) => t.cellsFree buf
  let b := fun i => (f.getD (k.off + i) (0, false)).1
  if k.et ≠ 0xAEFE ∨ (k.key8 ≠ 0 ∧ k.key8 ≠ 2) ∨ f.length < k.off + 12 then drop (s.portInc p 6)
  else
    let slot := b 10 % 16 * 4 + b 11 / 64
    let sym := b 11 % 64
    let spf := s.slotsPerFrame g
    if 10 ≤ b 10 / 16 ∨ spf / 10 ≤ slot then drop (s.portInc p 6)
    else
      let cur := (s.group g).cur
      let frame := cur / (spf : Int)
      let d := sext 8 ((b 9 + 256 - s.sfnOf g frame % 256) % 256)
      let n := (frame + d) * (spf : Int) + ((b 10 / 16 * (spf / 10) + slot : Nat) : Int)
      let running : Bool := s.rd (R.LG_STATUS_STATE g) == 2 || s.rd (R.LG_STATUS_STATE g) == 3
      match (if running then s.slotPlan g n else none) with
      | none => drop (s.inc R.MARKET_DROP_UNPLANNED)
      | some x =>
        match x.ins.find? (fun e => e.port == p && e.msg == k.key8 / 2 && e.eaxc == k.sub) with
        | none => drop (s.inc R.MARKET_DROP_UNPLANNED)
        | some e =>
          if e.place then
            let stop := min (k.off + 4 + b 2 * 256 + b 3) f.length
            let r := landSections e p stop f f.length (k.off + 12) none sym { st := s }
            r.st.addLanding ⟨buf, p, some (g, x.wtag), r.counts, r.errs, none⟩
          else s.landPool p buf e.pool e.queue stamp verified (some (g, x.wtag)) (if e.notify then [(e.nset, sym, 1)] else []) f

/-- Entries of landing queue `q` (R472). -/
def State.lqSize (s : State) (q : Nat) : Nat := 2 ^ min 16 (max 4 (s.rd (R.MARKET_LQ_CFG_SIZE_LOG2 q)))
/-- No room for one more token, counting those on their way. -/
def State.lqIsFull (s : State) (q : Nat) : Bool :=
  decide (s.lqSize q ≤ (s.rd (R.MARKET_LQ_PROD q) + 4294967296 - s.rd (R.MARKET_LQ_CONS q)) % 4294967296 + (s.mkt.pushes.filter (fun x => x.1 == q)).length)

/-- LANDING_WRITES_ANSWERED (R461, R470, R471). -/
def execLandingWritesAnswered (i : Nat) (s : State) : Outc :=
  match s.mkt.landings[i]? with
  | none => .next s
  | some l =>
    let t := (s.setMkt { s.mkt with landings := s.mkt.landings.eraseIdx i }).cellsFree l.buf
    let u := t.add (R.MARKET_PORT_COUNT l.port 10) l.errs
    let count := fun (x : State) => match l.win with
      | some (g, w) => l.counts.foldl (fun y c => y.countNote g w c.1 c.2.1 c.2.2) x
      | none => x
    match l.pool with
    | none => .next (count u)
    | some (tok, q) =>
      if l.errs ≠ 0 then .next (u.poolRelease (nbits tok 24 7) tok)
      else if u.lqIsFull q then .next ((u.setMkt { u.mkt with lqFull := u.mkt.lqFull.modify q (· + 1) }).poolRelease (nbits tok 24 7) tok)
      else .next (count (u.setMkt { u.mkt with pushes := u.mkt.pushes ++ [(q, tok, l.port)] }))

/-- LANDING_QUEUE_PUSH: the token is written, PROD increments, the interrupt rises (R471, R472, R507). -/
def execLandingQueuePush (q : Fin 64) (s : State) : Outc :=
  let q := q.val
  match s.mkt.pushes.find? (fun x => x.1 == q) with
  | none => .next s
  | some x =>
    let t := s.setMkt { s.mkt with pushes := s.mkt.pushes.erase x }
    let prod := s.rd (R.MARKET_LQ_PROD q)
    let y := t.dmaWrite marketMid (s.rd (R.MARKET_LQ_BASE_ADDR q) * 4 + prod % s.lqSize q * 4) (clean (bytesOf32 x.2.1))
    if y.1 then
      let u := y.2.inc (R.MARKET_LQ_PROD q)
      .next (if u.bit (R.MARKET_LQ_CFG_IRQ_EN q) then (if u.bit (R.MARKET_LQ_CFG_DEST q) then u.irqHost (256 + q) else u.irq .landing q) else u)
    else .next ((y.2.portInc x.2.2 10).poolRelease (nbits x.2.1 24 7) x.2.1)

/-- LQ_CONS_WRITE: ignored where it would move CONS past PROD (R472). -/
def execLqConsWrite (q : Fin 64) (v : Word) (s : State) : Outc :=
  let prod := s.rd (R.MARKET_LQ_PROD q.val)
  let cons := s.rd (R.MARKET_LQ_CONS q.val)
  let held := (prod + 4294967296 - cons) % 4294967296
  let step := (v.toNat + 4294967296 - cons) % 4294967296
  .next (if step ≤ held then s.wr (R.MARKET_LQ_CONS q.val) v.toNat else s).ack

/-! ## Streams (R473 to R475) -/

def State.stream (s : State) (st : Nat) : MktStream := s.mkt.streams.get st
def State.setStream (s : State) (st : Nat) (x : MktStream) : State := s.setMkt { s.mkt with streams := s.mkt.streams.set st x }

/-- A write of MARKET_STREAM_CFG: disabling returns the anchors, enabling reads the template once (R474, R475). -/
def State.streamCfg (s : State) (st : Nat) (v : Word) : State :=
  let was := s.bit (R.MARKET_STREAM_CFG_EN st)
  let t := s.wrWord v [R.MARKET_STREAM_CFG_EN st, R.MARKET_STREAM_CFG_DIR st, R.MARKET_STREAM_CFG_TARGET st, R.MARKET_STREAM_CFG_STOOL st,
    R.MARKET_STREAM_CFG_PORT st, R.MARKET_STREAM_CFG_TC st, R.MARKET_STREAM_CFG_SPP st]
  if was = bitOf v 31 then t
  else if bitOf v 31 then
    let x := t.dmaRead marketMid (t.rd (R.MARKET_STREAM_TEMPLATE_ADDR st) * 64) (t.rd (R.MARKET_STREAM_TEMPLATE_HLEN st) * 2)
    x.2.setStream st { template := byteVals (x.1.getD []) }
  else t.setStream st default

/-- SPF of the Sieve channel that takes the stream (R474). -/
def State.streamSpf (s : State) (st : Nat) : Option Nat :=
  ((List.range 1024).find? (fun c => s.rd (R.SIEVE_CH_MODE_PORT_KIND c) == 0 && s.rd (R.SIEVE_CH_MODE_PORT c) == st && !s.bit (R.SIEVE_CH_MODE_DIR c) &&
    s.chanSt c != 0)).map (fun c => s.rd (R.SIEVE_CH_RATE_SPF c))

/-- The samples of a packet: big-endian I, Q pairs (R473). -/
def iqSamples : Nat → List (Nat × Bool) → List Sample
  | 0, _ => []
  | n + 1, l =>
    let b := fun i => (l.getD i (0, false)).1
    ⟨BitVec.ofNat 16 (b 0 * 256 + b 1), BitVec.ofNat 16 (b 2 * 256 + b 3), anyBad (l.take 4)⟩ :: iqSamples n (l.drop 4)

/-- STREAM_PACKET_RECEIVE (R473, R474): the position of the packet, and the block handed to the target. -/
def State.streamRx (s : State) (st : Nat) (k : FrameKeys) (f : List (Nat × Bool)) : State :=
  let spp := s.rd (R.MARKET_STREAM_CFG_SPP st)
  let b := f.map Prod.fst
  let len := fw b (k.off + 2)
  if k.et ≠ 0xFC3D ∨ ¬ s.bit (R.MARKET_STREAM_CFG_EN st) ∨ s.bit (R.MARKET_STREAM_CFG_DIR st) ∨ spp = 0 ∨ len ≠ 4 * spp ∨ f.length < k.off + 8 + len then
    s.inc (R.MARKET_STREAM_ERR st)
  else
    let x := s.stream st
    let seq := beNum ((b.drop (k.off + 4)).take 4)
    let next := x.seq.getD (s.rd (R.MARKET_STREAM_ANCHOR_SEQ st))
    let pos := x.pos.getD (s.rd (R.MARKET_STREAM_ANCHOR_SFN st), s.rd (R.MARKET_STREAM_ANCHOR_IDX st))
    let d := sext 32 ((seq + 4294967296 - next) % 4294967296)
    let data := iqSamples spp (f.drop (k.off + 8))
    match s.streamSpf st with
    | some spf =>
      let span : Int := ((1024 * spf : Nat) : Int)
      let at_ := (((pos.1 * spf + pos.2 : Nat) : Int) + d * (spp : Int)) % span
      let after := (at_ + (spp : Int)) % span
      let t := s.setMkt { s.mkt with blocks := s.mkt.blocks ++ [StreamBurst.mk st (at_ / (spf : Int)).toNat (at_ % (spf : Int)).toNat data] }
      if 0 ≤ d then t.setStream st { x with seq := some ((seq + 1) % 4294967296), pos := some ((after / (spf : Int)).toNat, (after % (spf : Int)).toNat) } else t
    | none =>
      -- no channel gives SPF: the position is a free value
      let t := { s with free := s.free + 2 }
      let u := t.setMkt { t.mkt with blocks := t.mkt.blocks ++ [StreamBurst.mk st (Config.freeValue s.free) (Config.freeValue (s.free + 1)) data] }
      if 0 ≤ d then u.setStream st { x with seq := some ((seq + 1) % 4294967296) } else u

/-- The bytes of samples, big-endian. -/
def sampleBytes (l : List Sample) : List (Nat × Bool) :=
  l.flatMap (fun x => [(x.re.toNat / 256, x.bad), (x.re.toNat % 256, x.bad), (x.im.toNat / 256, x.bad), (x.im.toNat % 256, x.bad)])

/-- Packets of `spp` samples (R475). -/
def packets (spp : Nat) : Nat → List Sample → List (List Sample)
  | 0, _ => []
  | n + 1, l => l.take spp :: packets spp n (l.drop spp)

/-- STREAM_TX_BURST (R475). -/
def execStreamTxBurst (st : Fin 64) (s : State) : Outc :=
  let st := st.val
  match s.sv.out.find? (fun o => o.kind == 0 && o.port == st) with
  | none => .next s
  | some o =>
    let spp := s.rd (R.MARKET_STREAM_CFG_SPP st)
    let gone := { s with sv := { s.sv with out := s.sv.out.erase o } }
    if ¬ s.bit (R.MARKET_STREAM_CFG_EN st) ∨ ¬ s.bit (R.MARKET_STREAM_CFG_DIR st) then .next s
    else if spp = 0 ∨ o.data.length % spp ≠ 0 then .next (gone.inc (R.MARKET_STREAM_ERR st))
    else
      let p := s.rd (R.MARKET_STREAM_CFG_PORT st)
      let tc := s.rd (R.MARKET_STREAM_CFG_TC st)
      let x := s.stream st
      let n := o.data.length / spp
      let size := x.template.length + 4 + 4 * spp
      if !s.cellsRoom none (n * cellsOf (size + 4)) then .next s
      else
        let first := x.seq.getD (s.rd (R.MARKET_STREAM_ANCHOR_SEQ st))
        let t := (packets spp n o.data).zipIdx.foldl (fun t q =>
          let b := clean (x.template ++ beBytes 4 ((first + q.2) % 4294967296)) ++ sampleBytes q.1
          let y := State.cellsTake t none (cellsOf (size + 4)) 1
          y.2.enqTx p { tc := tc, bytes := cellMarks (byteVals b) ((b.zipIdx.filter (fun z => z.1.2)).map (fun z => z.2 / 8)), buf := y.1 }) gone
        .next (t.setStream st { x with seq := some ((first + n) % 4294967296) })

/-! ## Reception (R458, R462, R464, R485) -/

/-- The standing entry a frame matches: the lowest-numbered (R464). -/
def State.flowMatch (s : State) (p : Nat) (k : FrameKeys) : Option Nat :=
  (List.range 1024).find? (fun e =>
    let w := fun i => s.rd (R.MARKET_FLOW e i)
    let et := nbits (w 0) 0 16
    let udp := nbits (w 4) 0 16
    nbit (w 0) 31 && nbit (w 1) p && (et == 0 || et == k.et) && (k.vid ^^^ nbits (w 2) 0 12) &&& nbits (w 2) 16 12 == 0 &&
      (k.sub ^^^ nbits (w 3) 0 16) &&& nbits (w 3) 16 16 == 0 && (k.key8 ^^^ nbits (w 4) 16 8) &&& nbits (w 4) 24 8 == 0 && (udp == 0 || udp == k.udp))

/-- The class of a forwarded frame: by its PCP, or that of its entry (R479). -/
def State.flowTc (s : State) (e : Nat) (k : FrameKeys) : Nat :=
  match k.pcp with
  | some c => nbits (s.rd R.MARKET_PCP_TO_TC_MAP) (3 * c) 3
  | none => nbits (s.rd (R.MARKET_FLOW e 0)) 25 3

/-- A dropped frame took its cells and gives them back (R461). -/
def State.dropFrame (s : State) (n : Nat) (p i : Nat) : State := (s.ledgerCount (ledgerId 3 0) n n).portInc p i

/-- Ports of FWD_MASK. -/
def maskPorts (m : Nat) : List Nat := (List.range 32).filter (nbit m)

/-- An idle egress port no faster than the ingress port: cut-through (R462). -/
def State.cutThrough (s : State) (i e n : Nat) : Bool :=
  s.mktUp e && decide (256 < n) && decide (s.portByte i ≤ s.portByte e) && (s.mkt.now.get e).isNone && s.mkt.queues.get e == [] && decide (s.mkt.free.get e + (n - 256) * s.portByte i ≤ s.wireNow) &&
    (s.nextOut e).isNone && !s.guarded e

/-- FRAME_FORWARD (R462, R479): one copy for each port; a frame that fails its FCS leaves only where it was cut through,
with the inverted FCS. -/
def State.forward (s : State) (p e n : Nat) (k : FrameKeys) (b : List (Nat × Bool)) (rx : Option (Nat × Int)) (ok : Bool) : State :=
  let tc := s.flowTc e k
  let all := maskPorts (s.rd (R.MARKET_FLOW e 6))
  let early := fun q => s.cutThrough p q n
  let ports := if ok then all else all.filter early
  if ports = [] then (if ok then s.ledgerCount (ledgerId 3 0) n n else s.dropFrame (cellsOf n) p 1)
  else if !s.cellsRoom (some tc) (cellsOf n) then s.portInc p 5
  else
    let x := s.cellsTake (some tc) (cellsOf n) ports.length
    let t := if ok then x.2 else x.2.portInc p 1
    ports.foldl (fun u q =>
      -- a cut-through frame has been on its way since its first cell came in
      u.enqTx q { tc := tc, bytes := b, buf := x.1, rx := rx, stomp := !ok, early := if early q then (n - 256) * s.portByte p else 0 }) t

/-- A frame that has passed its checks and MACsec takes its ACTION (R464); `n` is its length as received. -/
def State.classify (s : State) (p n : Nat) (b : List (Nat × Bool)) (stamp : Nat) (verified : Bool) : State :=
  let k := parseFrame (byteVals b)
  let f := s.rxAsym p k b
  match s.flowMatch p k with
  | none => s.dropFrame (cellsOf n) p 3
  | some e =>
    let act := nbits (s.rd (R.MARKET_FLOW e 0)) 28 3
    let w5 := s.rd (R.MARKET_FLOW e 5)
    if act = 4 then s.forward p e n k f (if s.stamped p then some (p, s.rxTime p stamp) else none) true
    else if act = 0 ∨ 4 < act then s.dropFrame (cellsOf n) p 4
    else if !s.cellsRoom none (cellsOf n) then s.portInc p 5
    else
      let x := s.cellsTake none (cellsOf n) 1
      if act = 1 then x.2.landLocked p x.1 (nbits w5 0 6) k f stamp verified
      else if act = 2 then x.2.landPool p x.1 (nbits w5 0 7) (nbits w5 8 6) stamp verified none [] f
      else (x.2.streamRx (nbits w5 0 6) k f).cellsFree x.1

/-- FRAME_RECEIVE (R458 to R474, R485). -/
def execFrameReceive (p : Fin 32) (f : RxFrame) (s : State) : Outc :=
  let p := p.val
  if !s.mktUp p then .next s
  else
    let t := ((s.portInc p 0).add (R.MARKET_FEC_CORR p) f.corr).add (R.MARKET_FEC_UNCORR p) f.uncorr
    let n := f.bytes.length
    let body := f.bytes.take (n - 4)
    let k := parseFrame body
    let okLen : Bool := decide (64 ≤ n) && decide (n ≤ s.rd (R.MARKET_PORT_CFG_MAX_FRAME p)) && !badLength body.length k
    let okFcs : Bool := bytesOf32 (fcs body) == f.bytes.drop (n - 4)
    let marked := cellMarks body f.bad
    let prot := t.protects p k.et
    if !okLen then .next (t.dropFrame (cellsOf n) p 1)
    else if !okFcs then
      match (if prot then none else t.flowMatch p k) with
      | some e =>
        if nbits (t.rd (R.MARKET_FLOW e 0)) 28 3 = 4 then .next (t.forward p e n k marked none false) else .next (t.dropFrame (cellsOf n) p 1)
      | none => .next (t.dropFrame (cellsOf n) p 1)
    else if k.et = 0x8808 then .next (t.dropFrame (cellsOf n) p 2)
    else if prot then
      let m := t.msec p
      let drop := fun i => (t.setMsec p { m with drops := m.drops.modify i (· + 1) }).ledgerCount (ledgerId 3 0) (cellsOf n) (cellsOf n)
      match f.sec with
      | .plain => .next (drop 0)
      | .failed sc r => .next (drop (1 + 3 * sc.val + r.val))
      | .verified inner => .next (t.classify p n (cellMarks inner f.bad) f.stamp true)
    else .next (t.classify p n marked f.stamp false)

/-! ## Planned egress (R476 to R478, R480) -/

def MktPlan.setOut (x : MktPlan) (e : MktOut) : MktPlan := { x with outs := x.outs.map (fun y => if y.index = e.index then e else y) }
def MktPlan.out (x : MktPlan) (i : Nat) : Option MktOut := x.outs.find? (fun e => e.index == i)
def State.setOut (s : State) (g w : Nat) (e : MktOut) : State := s.onPlan g w (fun x => x.setOut e)
def State.outOf (s : State) (g w i : Nat) : Option MktOut := (s.planOf g w).bind (fun x => x.out i)

/-- EGRESS_OPEN: the window of the entry opens; without a doorbell the entry is ready (R476). -/
def execEgressOpen (g : Fin 64) (w : Fin 16) (index : Fin 4096) (s : State) : Outc :=
  match s.outOf g.val w.val index.val with
  | none => .next s
  | some e => .next (if !e.opened && passed s.tick e.open_ then (s.setOut g.val w.val { e with opened := true }).pump e.port else s)

/-- MARKET_TX_READY: a doorbell (R476). -/
def execMarketTxReady (v : Word) (s : State) : Outc :=
  let g := bitsOf v 16 6
  let w := bitsOf v 12 4
  match s.outOf g w (bitsOf v 0 12) with
  | none => .next (s.inc R.MARKET_DROP_UNPLANNED).ack
  | some e =>
    if e.done ∨ e.rung then .next (s.portInc e.port 13).ack
    else if e.doorbell then .next (s.setOut g w { e with rung := true }).ack
    else .next s.ack

/-- The entry is withheld (R477). -/
def State.withhold (s : State) (g w : Nat) (e : MktOut) : State := if e.done then s else (s.setOut g w { e with done := true }).portInc e.port 12

/-- EGRESS_START: the source is read into cells, and the frame starts (R477, R481, R485). -/
def execEgressStart (p : Fin 32) (s : State) : Outc :=
  let p := p.val
  if !s.mktUp p || (s.mkt.now.get p).isSome then .next s
  else match s.nextOut p with
    | none => .next s
    | some (g, w, e) =>
      let x := s.dmaRead marketMid e.src e.len
      let n := cellsOf (max e.len 60 + 4)
      match x.1 with
      | none => .next (x.2.withhold g w e)
      | some b =>
        if !x.2.cellsRoom none n then .next (x.2.withhold g w e)
        else
          let y := x.2.cellsTake none n 1
          .next ((y.2.setOut g w { e with done := true }).startFrame p
            { tc := e.tc, bytes := b, buf := y.1, token := if e.release then some e.token else none, win := some (g, w) })

/-- EGRESS_WITHHOLD: at CLOSE (R477). -/
def execEgressWithhold (g : Fin 64) (w : Fin 16) (index : Fin 4096) (s : State) : Outc :=
  match s.outOf g.val w.val index.val with
  | none => .next s
  | some e => .next (if passed s.tick e.close then (s.withhold g.val w.val e).pump e.port else s)

/-- FRAME_DEPARTURE: the frame has left the ball: its cells are free, its token goes back (R461, R478). -/
def execFrameDeparture (p : Fin 32) (s : State) : Outc :=
  let p := p.val
  match s.mkt.now.get p with
  | none => .next s
  | some f =>
    if s.wireNow < f.ends then .next s
    else
      let t := ((s.setMkt { s.mkt with now := s.mkt.now.set p none }).send (.frame p f.out f.pn)).portInc p 11
      let u := t.cellsFree f.buf
      .next ((match f.token with | some k => u.poolRelease (nbits k 24 7) k | none => u).pump p)

/-- MARKET_SWEEP: every planned entry of the window, and any frame of it still in cells, is discarded (R480). -/
def execMarketSweep (g : Fin 64) (w : Fin 16) (s : State) : Outc :=
  let g := g.val
  let w := w.val
  match s.planOf g w with
  | none => .next s
  | some x =>
    if !s.reached x.sweepNs then .next s
    else
      let a := x.notes.foldl (fun t n => t.lapseNote g w n) s
      let b := x.outs.foldl (fun t e => t.withhold g w e) a
      let mine := fun (l : Landing) => l.win == some (g, w)
      let c := (b.mkt.landings.filter mine).foldl (fun t l => (t.cellsFree l.buf).inc R.MARKET_SWEEP_DROPPED) b
      let d := (List.range 32).foldl (fun t p => match t.mkt.now.get p with
        | some f => if f.win = some (g, w) ∧ t.wireNow < f.ends then
            ((t.setMkt { t.mkt with now := t.mkt.now.set p none }).cellsFree f.buf).inc R.MARKET_SWEEP_DROPPED else t
        | none => t) c
      .next (d.setMkt { d.mkt with plans := d.mkt.plans.filter (fun y => !y.isOf g w), landings := d.mkt.landings.filter (fun l => !mine l) })

/-- Cells and planned frames of the window that the Market still holds (R480, R51). -/
def State.marketHeld (s : State) (g w : Nat) : Nat :=
  let bufs := (s.mkt.landings.filter (fun l => l.win == some (g, w))).map Landing.buf ++
    (List.range 32).filterMap (fun p => match s.mkt.now.get p with | some f => if f.win = some (g, w) then some f.buf else none | none => none)
  bufs.foldl (fun n i => n + (s.mkt.bufs.get i).cells + 1) 0

/-! ## Host transmit queues and registers (R488, R494) -/

/-- MARKET_TXQ_PUSH. -/
def execMarketTxqPush (t : Fin 16) (v : Word) (s : State) : Outc :=
  let t := t.val
  let l := s.mkt.txq.get t
  if l.length < 255 then .next ((s.setMkt { s.mkt with txq := s.mkt.txq.set t (l ++ [v.toNat]) }).wr (R.MARKET_TXQ_LEVEL_LEVEL t) (l.length + 1)).ack
  else
    let x := s.dmaRead marketMid (v.toNat / 16 * 16) 16
    let w1 := (le32 4 (byteVals (x.1.getD []))).getD 1 0
    .next (x.2.wr (R.MARKET_PORT_STATUS_TXQ_FULL (nbits w1 16 5)) 1).ack

/-- HOST_FRAME_SEND: the oldest descriptor of a host queue becomes a frame of its class (R479, R488). Its departure writes
and captures are made when it starts. -/
def execHostFrameSend (t : Fin 16) (s : State) : Outc :=
  let t := t.val
  match s.mkt.txq.get t with
  | [] => .next s
  | a :: r =>
    let x := s.dmaRead marketMid (a / 16 * 16) 16
    let pop := fun (u : State) => (u.setMkt { u.mkt with txq := u.mkt.txq.set t r }).wr (R.MARKET_TXQ_LEVEL_LEVEL t) r.length
    match x.1 with
    | none => .next (pop x.2)
    | some db =>
      let w := le32 4 (byteVals db)
      let w1 := w.getD 1 0
      let w2 := w.getD 2 0
      let len := nbits w1 0 14
      let tc := nbits w2 29 3
      let p := nbits w1 16 5
      let y := x.2.dmaRead marketMid (nbits w1 24 8 * 2 ^ 32 + w.getD 0 0) len
      match y.1 with
      | none => .next (pop y.2)
      | some b =>
        if !y.2.cellsRoom (some tc) (cellsOf (max len 60 + 4)) then .next s
        else
          let z := (pop y.2).cellsTake (some tc) (cellsOf (max len 60 + 4)) 1
          .next (z.2.enqTx p { tc := tc, bytes := b, buf := z.1, token := if nbit w2 26 then some (w.getD 3 0) else none, oneStep := nbit w2 28,
                                 capture := nbit w2 27, tag := nbits w2 0 16 })

/-- MARKET_TS_POP: the oldest capture retires. -/
def execMarketTsPop (p : Fin 32) (_v : Word) (s : State) : Outc := .next (s.showCaps p.val (s.mkt.caps.get p.val).tail).ack

/-- MARKET_TS_CAP3_READ: the status word; TS_OVERFLOW clears. -/
def execMarketTsCap3Read (p : Fin 32) (s : State) : Outc :=
  .next ((s.wr (R.MARKET_PTP_CFG_TS_OVERFLOW p.val) 0).reply ⟨.ok, 0, [⟨BitVec.ofNat 64 (s.rd (R.MARKET_TS_CAP p.val 3)), false⟩]⟩)

/-- MARKET_PORT_STATUS_READ: TXQ_FULL clears. -/
def execMarketPortStatusRead (p : Fin 32) (s : State) : Outc :=
  let p := p.val
  let v := s.rd (R.MARKET_PORT_STATUS_STATE p) * 2 ^ 30 + s.rd (R.MARKET_PORT_STATUS_CFG_ERR p) * 2 ^ 29 + s.rd (R.MARKET_PORT_STATUS_TXQ_FULL p) * 2 ^ 28 +
    s.rd (R.MARKET_PORT_STATUS_FEC_LOCK p) * 2 ^ 27
  .next ((s.wr (R.MARKET_PORT_STATUS_TXQ_FULL p) 0).reply ⟨.ok, 0, [⟨BitVec.ofNat 64 v, false⟩]⟩)

/-- SYNCE_SQUELCH (R493). -/
def execSynceSquelch (k : Fin 2) (s : State) : Outc := .next (s.showSynce k.val)

/-! ## Recalibration of a lane (R595) -/

/-- LANE_RECAL: the receiver restarts from its power-up settings; a Market port on the lane retrains. -/
def execLaneRecal (l : Fin 48) (s : State) : Outc :=
  let l := l.val
  let t := (((s.unlock l).wr (R.LANE_STATUS_CDR_LOCK l) 0).wr (R.LANE_RECAL_BUSY l) 1).laneEval l
  .next (if s.rd (R.LANE_CFG_USE l) = 1 then t.portLoss (s.rd (R.LANE_CFG_OWNER l)) else t)

/-- LANE_RECAL_END: CDR lock returns. -/
def execLaneRecalEnd (l : Fin 48) (s : State) : Outc :=
  if s.bit (R.LANE_RECAL_BUSY l.val) then .next ((s.wr (R.LANE_STATUS_CDR_LOCK l.val) 1).wr (R.LANE_RECAL_BUSY l.val) 0) else .next s

end Sys2Proof.Machine
end

