-- ==== Sys2Proof/Machine/Strong.lean ====
section
/-! DEFINITION. Machine/Strong.lean: the Strongroom: command queues, keys, services, zeroization, authentication and
self-tests (chapter 20). The algorithms it names are constants of Config.
Choices of the model: log entries 62 (DESIGN CHOICE), 63 (PRESUMED). -/

namespace Sys2Proof.Machine

def strongMid : Mid := 0xBF
def State.setStrong (s : State) (x : Strongroom) : State := { s with strong := x }
/-- STATE: 0 SELFTEST, 1 OPERATIONAL, 2 ZEROIZING, 3 ERROR (R538). -/
def State.strongSt (s : State) : Nat := s.rd R.STRONG_STATUS_STATE

/-- `n` bytes. -/
def fitLen (n : Nat) (l : List Nat) : List Nat := (l ++ List.replicate n 0).take n

/-- APPROVED (R539). -/
def State.showApproved (s : State) : State :=
  s.wrB R.STRONG_STATUS_APPROVED (s.strongSt == 1 && s.bit R.STRONG_STATUS_APPROVED_ONLY && s.rd R.STRONG_DBG_STATUS_PERM == 0)
def State.strongTo (s : State) (st : Nat) : State := (s.wr R.STRONG_STATUS_STATE st).showApproved

/-- `n` bytes from the DRBG (R554). -/
def State.draw (s : State) (n : Nat) : List Nat × State :=
  ((List.range n).map (fun i => Config.drbg (s.strong.drbg + i) % 256), s.setStrong { s.strong with drbg := s.strong.drbg + n })

/-! ## Keys (R545) -/

def keyLen (type : Nat) : Nat := if type = 1 ∨ type = 6 then 16 else if type = 5 then 48 else 32
def State.keyAt (s : State) (slot : Nat) : StrongKey := s.strong.keys.get slot
def State.setKey (s : State) (slot : Nat) (k : StrongKey) : State :=
  let t := s.setStrong { s.strong with keys := s.strong.keys.set slot k }
  t.wr R.STRONG_STATUS_KEYS (t.strong.keys.count (fun _ x => x.live))
/-- Empty a slot. -/
def State.emptyKey (s : State) (slot : Nat) : State := s.setKey slot { gen := ((s.keyAt slot).gen + 1) % 64 }
/-- The key that a handle names. -/
def State.keyOf (s : State) (handle : Nat) : Option (Nat × StrongKey) :=
  let k := s.keyAt (handle % 1024)
  if handle ≠ 0 ∧ k.live ∧ k.gen = handle / 1024 % 64 then some (handle % 1024, k) else none
/-- The first free slot whose handle is not zero. -/
def State.freeKey (s : State) : Option Nat := (List.range 1024).find? (fun i => !(s.keyAt i).live && decide (i + 1024 * (s.keyAt i).gen ≠ 0))
def keyTypeOk (p : Nat) : Bool := decide (1 ≤ nbits p 16 4) && decide (nbits p 16 4 ≤ 6) && decide (p = nbits p 16 4 * 65536 + nbits p 0 7)

/-! ## Zeroization (R551) -/

def State.clearChallenge (s : State) : State :=
  (List.range 8).foldl (fun t i => t.wr (R.STRONG_CHALLENGE i) 0) (s.setStrong { s.strong with challenge := none })

/-- Overwrite every volatile secret. -/
def State.wipe (s : State) : State :=
  let t := s.strong.keys.entries.foldl (fun t e => if e.2.live then t.emptyKey e.1 else t) s
  let u := (t.setStrong { t.strong with pdcp := ⟨[]⟩ }).clearChallenge
  let v := (List.range 8).foldl (fun x q => x.wr (R.STRONG_Q_CFG_ROLE q) 0) u
  v.setMkt { v.mkt with sec := v.mkt.sec.map (fun _ m => { m with keys := ⟨[]⟩ }) }

/-- Zeroization starts. -/
def State.zeroize (s : State) : State :=
  let t := s.wipe
  (t.setStrong { t.strong with zeroing := true }).strongTo 2

/-- Entry to ERROR, which also zeroizes (R554, R557, R622). -/
def State.strongError (s : State) (cause : Nat) : State :=
  (((s.wipe.inc R.STRONG_ZEROIZE_COUNT).wr R.STRONG_ERR_CAUSE cause).strongTo 3).raise ⟨2, 1, true, cause, 0⟩

/-! ## Descriptors (R541 to R544) -/

structure StrongDesc where
  q : Nat
  at_ : Nat
  w : List Nat
deriving DecidableEq, Repr, Inhabited

def StrongDesc.word (d : StrongDesc) (i : Nat) : Nat := d.w.getD i 0
def StrongDesc.op (d : StrongDesc) : Nat := nbits (d.word 0) 24 8
def StrongDesc.key (d : StrongDesc) : Nat := nbits (d.word 0) 0 16
def StrongDesc.p0 (d : StrongDesc) : Nat := d.word 1
def StrongDesc.len (d : StrongDesc) : Nat := d.word 2
def StrongDesc.aux (d : StrongDesc) : Nat := d.word 3
def StrongDesc.src (d : StrongDesc) : Nat := d.word 5 * 2 ^ 32 + d.word 4
def StrongDesc.dst (d : StrongDesc) : Nat := d.word 7 * 2 ^ 32 + d.word 6
def StrongDesc.param (d : StrongDesc) (i : Nat) : Nat := d.word (7 + i)

/-- Reserved bits of the descriptor are zero. -/
def StrongDesc.formed (d : StrongDesc) : Bool :=
  decide (nbits (d.word 0) 16 8 = 0) && decide (d.word 5 < 256) && decide (d.word 7 < 256) && d.word 12 == 0 && d.word 13 == 0 && d.word 14 == 0

def State.strongBase (s : State) (q : Nat) : Nat :=
  s.rd (R.STRONG_Q_BASE_ADDR q) * 64 + s.rd (R.STRONG_Q_CONS_CONS q) % 2 ^ s.rd (R.STRONG_Q_CFG_SIZE_LOG2 q) * 64

/-- The descriptor at the queue's consumer index: its words, or the ERROR that reading it gives. -/
def State.strongFetch (s : State) (q : Nat) : Except Nat StrongDesc × State :=
  let a := s.strongBase q
  let x := s.dmaRead strongMid a 64
  match x.1 with
  | none => (.error 7, x.2)
  | some b => (if anyBad b then .error 6 else .ok ⟨q, a, le32 16 (byteVals b)⟩, x.2)

/-- A buffer lies entirely in the Granary or the Cellar. -/
def bufOk (a n : Nat) : Bool := decide (a + n ≤ granaryEnd) || (decide (cellarBase ≤ a) && decide (a + n ≤ cellarEnd))

/-- Source and destination obey R543. -/
def StrongDesc.buffers (d : StrongDesc) (src dst : Nat) : Bool :=
  (src == 0 || bufOk d.src src) &&
    (dst == 0 || (bufOk d.dst dst && !rangesMeet (d.dst, d.dst + dst) (d.src, d.src + src) && !rangesMeet (d.dst, d.dst + dst) (d.at_, d.at_ + 64)))

def okRes (out : Nat) : StrongResult := ⟨0, true, 0, out⟩
def errRes (e : Nat) : StrongResult := ⟨2, false, e, 0⟩
def poisonRes : StrongResult := ⟨3, false, 0, 0⟩

def serviceOps : List Nat :=
  [0x01, 0x02, 0x03, 0x04, 0x05, 0x06, 0x07, 0x08, 0x09, 0x0A, 0x0B, 0x0C, 0x0D, 0x0E, 0x0F, 0x10, 0x11, 0x20, 0x21, 0x22, 0x23, 0x24, 0x25]

/-- The queue's role allows the OP (R540, R547). -/
def roleOk (op role : Nat) : Bool :=
  if op = 0x01 ∨ op = 0x06 ∨ op = 0x0C ∨ op = 0x11 then true
  else if op = 0x20 then role == 0
  else if 0x21 ≤ op then role == 2
  else decide (1 ≤ role)

/-- The OPs whose KEY must be zero. -/
def keyless (op : Nat) : Bool := op == 0x01 || op == 0x06 || op == 0x08 || op == 0x0C || op == 0x10 || op == 0x11 || decide (0x20 ≤ op)

/-- The checks of every service: reserved OP or field, role. -/
def State.strongCheck (s : State) (d : StrongDesc) : Option Nat :=
  if !serviceOps.contains d.op ∨ !d.formed ∨ (keyless d.op ∧ d.key ≠ 0) then some 1
  else if !roleOk d.op (s.rd (R.STRONG_Q_CFG_ROLE d.q)) then some 2 else none

/-- Queue `q` has a descriptor whose end is not decided, and the Strongroom is not testing itself. -/
def State.strongDue (s : State) (q : Nat) : Bool :=
  s.rd (R.STRONG_Q_CONS_CONS q) != s.rd (R.STRONG_Q_PROD_PROD q) && (s.strong.ends.get q).isNone && s.strongSt != 0

def State.decideRes (s : State) (q : Nat) (r : StrongResult) : State := s.setStrong { s.strong with ends := s.strong.ends.set q (some r) }

/-- The end of a descriptor that no service performs: the Strongroom's state, or a descriptor that names none. -/
def State.strongBad (s : State) (q : Nat) : Option StrongResult :=
  if s.strongSt = 2 then some (errRes 11)
  else if s.strongSt = 3 then some (errRes 10)
  else match (s.strongFetch q).1 with
    | .error e => some (errRes e)
    | .ok d => (s.strongCheck d).map errRes

/-- Perform the descriptor of queue `q` where it holds service `op`; `f` decides its result. -/
def State.service (s : State) (q op : Nat) (f : StrongDesc → State → StrongResult × State) : Outc :=
  if !s.strongDue q ∨ s.strongSt ≠ 1 then .next s
  else match s.strongFetch q with
    | (.error _, _) => .next s
    | (.ok d, t) =>
      if d.op ≠ op then .next s
      else match t.strongCheck d with
        | some _ => .next s
        | none =>
          let r := f d t
          .next (r.2.decideRes q r.1)

/-- Read the source: its bytes, or the result that a poisoned word or an error answer gives. -/
def State.source (s : State) (d : StrongDesc) (n : Nat) : Except StrongResult (List Nat) × State :=
  let x := s.dmaRead strongMid d.src n
  match x.1 with
  | none => (.error (errRes 7), x.2)
  | some b => (if anyBad b then .error poisonRes else .ok (byteVals b), x.2)

/-- Write the destination and end OK, or BUS. -/
def State.deliver (s : State) (d : StrongDesc) (l : List Nat) (r : StrongResult) : StrongResult × State :=
  let x := s.dmaWrite strongMid d.dst (clean (l.map (· % 256)))
  (if x.1 then r else errRes 7, x.2)

/-- A service that turns its source into `dst` bytes of output. -/
def State.mapBytes (s : State) (d : StrongDesc) (dst : Nat) (f : List Nat → List Nat) : StrongResult × State :=
  if !d.buffers d.len dst then (errRes 5, s)
  else match s.source d d.len with
    | (.error r, t) => (r, t)
    | (.ok b, t) => t.deliver d (fitLen dst (f b)) (okRes 0)

/-- The key of the descriptor with a TYPE among `types` and USAGE bit `u`, or its ERROR. -/
def State.keyFor (s : State) (d : StrongDesc) (types : List Nat) (u : Nat) : Except Nat StrongKey :=
  match s.keyOf d.key with
  | none => .error 3
  | some (_, k) => if types.contains k.type ∧ nbit k.usage u then .ok k else .error 4

/-- STRONG_Q_PROD_WRITE: from the bound MID only. -/
def execStrongQProdWrite (mid : Mid) (q : Fin 8) (v : Word) (s : State) : Outc :=
  if s.bit (R.STRONG_Q_CFG_BOUND q.val) ∧ s.rd (R.STRONG_Q_CFG_MID q.val) = mid.toNat then .next (s.wr (R.STRONG_Q_PROD_PROD q.val) v.toNat).ack
  else .next s.refusedAns

/-- Write the result word, advance CONS, raise the queue's interrupt. -/
def State.finishDesc (s : State) (q : Nat) (r : StrongResult) : State :=
  let a := s.strongBase q + 60
  let w := 2 ^ 31 + r.status * 2 ^ 28 + (if r.approved then 2 ^ 27 else 0) + r.error * 2 ^ 21 + r.out
  let t := (s.dmaWrite strongMid a (clean (bytesOf32 w))).2
  let u := (t.setStrong { t.strong with ends := t.strong.ends.set q none }).inc (R.STRONG_Q_CONS_CONS q)
  if u.bit (R.STRONG_Q_CFG_DEST q) then u.irqHost (449 + q) else u.irq .strongroom q

/-- STRONG_DESCRIPTOR_END. -/
def execStrongDescriptorEnd (q : Fin 8) (s : State) : Outc :=
  let q := q.val
  match s.strong.ends.get q with
  | some r => .next (s.finishDesc q r)
  | none =>
    if !s.strongDue q then .next s
    else match s.strongBad q with
      | some r => .next ((s.strongFetch q).2.finishDesc q r)
      | none => .next s

/-! ## Services (R547) -/

/-- DIGEST. -/
def execDigest (q : Fin 8) (s : State) : Outc :=
  s.service q.val 0x01 (fun d t =>
    if d.p0 = 0 ∨ 3 < d.p0 then (errRes 1, t)
    else t.mapBytes d (if d.p0 = 1 then 32 else if d.p0 = 2 then 48 else 64) (Config.sha d.p0))

/-- HMAC. -/
def execHmac (q : Fin 8) (s : State) : Outc :=
  s.service q.val 0x02 (fun d t =>
    if d.p0 = 0 ∨ 2 < d.p0 then (errRes 1, t)
    else match t.keyFor d [3] 2 with
      | .error e => (errRes e, t)
      | .ok k => t.mapBytes d (if d.p0 = 1 then 32 else 48) (Config.hmac d.p0 k.bytes))

/-- The 96-bit IV. -/
def StrongDesc.iv (d : StrongDesc) : List Nat := bytesOf32 (d.param 1) ++ bytesOf32 (d.param 2) ++ bytesOf32 (d.param 3)

/-- GCM_ENC: ciphertext, then tag. -/
def execGcmEnc (q : Fin 8) (s : State) : Outc :=
  s.service q.val 0x03 (fun d t =>
    if d.len < d.aux then (errRes 1, t)
    else match t.keyFor d [1, 2] 0 with
      | .error e => (errRes e, t)
      | .ok k => t.mapBytes d (d.len - d.aux + 16) (fun b =>
          let x := Config.gcmEnc k.bytes d.iv (b.take d.aux) (b.drop d.aux)
          fitLen (d.len - d.aux) x.1 ++ fitLen 16 x.2))

/-- GCM_DEC: the plaintext, or zero over DST and AUTH_FAIL (R544). -/
def execGcmDec (q : Fin 8) (s : State) : Outc :=
  s.service q.val 0x04 (fun d t =>
    if d.len < d.aux + 16 then (errRes 1, t)
    else match t.keyFor d [1, 2] 1 with
      | .error e => (errRes e, t)
      | .ok k =>
        let n := d.len - d.aux - 16
        if !d.buffers d.len n then (errRes 5, t)
        else match t.source d d.len with
          | (.error r, u) => (r, u)
          | (.ok b, u) =>
            match Config.gcmDec k.bytes d.iv (b.take d.aux) ((b.drop d.aux).take n) (b.drop (d.aux + n)) with
            | some p => u.deliver d (fitLen n p) (okRes 0)
            | none => u.deliver d (List.replicate n 0) (errRes 8))

def sigLen (curve : Nat) : Nat := if curve = 4 then 64 else 96

/-- ECDSA_SIGN. -/
def execEcdsaSign (q : Fin 8) (s : State) : Outc :=
  s.service q.val 0x05 (fun d t =>
    if d.len ≠ 32 ∧ d.len ≠ 48 then (errRes 1, t)
    else match t.keyFor d [4, 5] 2 with
      | .error e => (errRes e, t)
      | .ok k =>
        let x := t.draw (keyLen k.type)
        x.2.mapBytes d (sigLen k.type) (fun b => Config.ecdsaSign k.type k.bytes b x.1))

/-- ECDSA_VERIFY: the source's length tells curve and digest. -/
def execEcdsaVerify (q : Fin 8) (s : State) : Outc :=
  s.service q.val 0x06 (fun d t =>
    let curve := if d.len = 160 ∨ d.len = 176 then 4 else if d.len = 224 ∨ d.len = 240 then 5 else 0
    if curve = 0 then (errRes 1, t)
    else if !d.buffers d.len 0 then (errRes 5, t)
    else match t.source d d.len with
      | (.error r, u) => (r, u)
      | (.ok b, u) =>
        let n := sigLen curve
        (okRes (if Config.ecdsaVerify curve (b.take n) ((b.drop n).take (d.len - 2 * n)) (b.drop (d.len - n)) then 1 else 0), u))

/-- Enter a new key, or end STORE_FULL; an ECC pair that fails its pairwise-consistency test ends in ERROR (R544, R554). -/
def State.newKey (s : State) (d : StrongDesc) (bytes : List Nat) (pairOk : Bool) : StrongResult × State :=
  let type := nbits d.p0 16 4
  match s.freeKey with
  | none => (errRes 12, s)
  | some i =>
    if (type = 4 ∨ type = 5) ∧ !pairOk then (errRes 11, s.strongError 2)
    else
      let g := (s.keyAt i).gen
      (okRes (i + 1024 * g), s.setKey i { live := true, gen := g, type := type, usage := nbits d.p0 0 7, bytes := fitLen (keyLen type) bytes })

/-- ECDH. -/
def execEcdh (q : Fin 8) (pairOk : Bool) (s : State) : Outc :=
  s.service q.val 0x07 (fun d t =>
    if !keyTypeOk d.p0 then (errRes 1, t)
    else match t.keyFor d [4, 5] 4 with
      | .error e => (errRes e, t)
      | .ok k =>
        if d.len ≠ sigLen k.type then (errRes 1, t)
        else if !d.buffers d.len 0 then (errRes 5, t)
        else if t.freeKey.isNone then (errRes 12, t)
        else match t.source d d.len with
          | (.error r, u) => (r, u)
          | (.ok b, u) => u.newKey d (Config.ecdh k.type k.bytes b) pairOk)

/-- KEYGEN: for an ECC pair the public key goes to DST. -/
def execKeygen (q : Fin 8) (pairOk : Bool) (s : State) : Outc :=
  s.service q.val 0x08 (fun d t =>
    let type := nbits d.p0 16 4
    let n := if type = 4 ∨ type = 5 then sigLen type else 0
    if !keyTypeOk d.p0 then (errRes 1, t)
    else if !d.buffers 0 n then (errRes 5, t)
    else if t.freeKey.isNone then (errRes 12, t)
    else
      let x := t.draw (keyLen type)
      if n = 0 then x.2.newKey d x.1 pairOk
      else if !pairOk then x.2.newKey d x.1 false
      else
        let y := x.2.deliver d (fitLen n (Config.ecPublic type x.1)) (okRes 0)
        if y.1.error = 0 then y.2.newKey d x.1 true else y)

/-- KDF. -/
def execKdf (q : Fin 8) (pairOk : Bool) (s : State) : Outc :=
  s.service q.val 0x09 (fun d t =>
    if !keyTypeOk d.p0 then (errRes 1, t)
    else if d.key = 0 ∧ t.strong.dukGone then (errRes 13, t)
    else match t.keyFor d [1, 2, 3, 4, 5, 6] 4 with
      | .error e => (errRes e, t)
      | .ok k =>
        if !d.buffers d.len 0 then (errRes 5, t)
        else if t.freeKey.isNone then (errRes 12, t)
        else match t.source d d.len with
          | (.error r, u) => (r, u)
          | (.ok b, u) => u.newKey d (Config.kdf k.bytes b (keyLen (nbits d.p0 16 4))) pairOk)

/-- The key-encryption key of WRAP and UNWRAP: the device's for KEY = 0 (R546, R552). -/
def State.kekOf (s : State) (d : StrongDesc) : Except Nat (List Nat) :=
  if d.key = 0 then
    (if s.strong.dukGone then .error 13 else .ok (Config.kdf Config.otpDuk (bytesOf32 0x57524B31 ++ bytesOf32 (d.param 1)) 32))
  else match s.keyFor d [1, 2] 3 with
    | .error e => .error e
    | .ok k => .ok k.bytes

/-- WRAP. -/
def execWrap (q : Fin 8) (s : State) : Outc :=
  s.service q.val 0x0A (fun d t =>
    if 65536 ≤ d.p0 then (errRes 1, t)
    else match t.keyOf d.p0, t.kekOf d with
      | none, _ => (errRes 3, t)
      | _, .error e => (errRes e, t)
      | some (_, k), .ok kek =>
        let n := 8 + (k.bytes.length + 7) / 8 * 8
        if !d.buffers 0 n then (errRes 5, t) else t.deliver d (fitLen n (Config.kwpWrap kek k.bytes)) (okRes 0))

/-- UNWRAP. -/
def execUnwrap (q : Fin 8) (pairOk : Bool) (s : State) : Outc :=
  s.service q.val 0x0B (fun d t =>
    if !keyTypeOk d.p0 then (errRes 1, t)
    else match t.kekOf d with
      | .error e => (errRes e, t)
      | .ok kek =>
        if !d.buffers d.len 0 then (errRes 5, t)
        else if t.freeKey.isNone then (errRes 12, t)
        else match t.source d d.len with
          | (.error r, u) => (r, u)
          | (.ok b, u) =>
            match Config.kwpUnwrap kek b with
            | none => (errRes 8, u)
            | some key => if key.length ≠ keyLen (nbits d.p0 16 4) then (errRes 1, u) else u.newKey d key pairOk)

/-- RANDOM. -/
def execRandom (q : Fin 8) (s : State) : Outc :=
  s.service q.val 0x0C (fun d t =>
    if d.len = 0 ∨ 65536 < d.len then (errRes 1, t)
    else if !d.buffers 0 d.len then (errRes 5, t)
    else
      let x := t.draw d.len
      x.2.deliver d x.1 (okRes 0))

/-- KEY_DESTROY. -/
def execKeyDestroy (q : Fin 8) (s : State) : Outc :=
  s.service q.val 0x0D (fun d t => match t.keyOf d.key with
    | none => (errRes 3, t)
    | some (i, _) => (okRes 0, t.emptyKey i))

/-- MACSEC_INSTALL (R548). -/
def execMacsecInstall (q : Fin 8) (s : State) : Outc :=
  s.service q.val 0x0E (fun d t =>
    let p := nbits d.p0 24 5
    let sc := nbits d.p0 16 4
    let an := nbits d.p0 0 2
    if d.p0 ≠ p * 2 ^ 24 + sc * 2 ^ 16 + an ∨ 8 < sc then (errRes 1, t)
    else match t.keyFor d [1, 2] 5 with
      | .error e => (errRes e, t)
      | .ok k =>
        if (k.type == 2) != Config.macsec256 p then (errRes 4, t)
        else
          let m := t.msec p
          let n : MacsecPort := { m with on := true, keys := m.keys.set (4 * sc + an) k.bytes }
          -- firmware writes the next PN of a transmit association: a free value
          if sc = 0 then (okRes 0, State.setMsec { t with free := t.free + 1 } p { n with an := an, pn := Config.freeValue t.free })
          else (okRes 0, t.setMsec p n))

/-- Algorithms that are not approved: NEA1, NIA1, NEA3, NIA3 (R549). -/
def unapproved (alg : Nat) : Bool := alg == 1 || alg == 3 || alg == 5 || alg == 7

/-- PDCP_KEY_LOAD (R549). -/
def execPdcpKeyLoad (q : Fin 8) (s : State) : Outc :=
  s.service q.val 0x0F (fun d t =>
    let alg := nbits d.p0 12 4
    if 65536 ≤ d.p0 ∨ !([1, 2, 3, 5, 6, 7].contains alg) then (errRes 1, t)
    else match t.keyFor d [1, 6] 6 with
      | .error e => (errRes e, t)
      | .ok k =>
        if unapproved alg ∧ t.bit R.STRONG_STATUS_APPROVED_ONLY then (errRes 9, t)
        else
          let c := t.strong.pdcp.get (nbits d.p0 0 12)
          let x : PdcpCtx := if alg < 4 then { c with cipher := some (alg, k.bytes) } else { c with integ := some (alg, k.bytes) }
          (⟨0, !unapproved alg, 0, 0⟩, t.setStrong { t.strong with pdcp := t.strong.pdcp.set (nbits d.p0 0 12) x }))

/-- Ciphering of a context: NEA0 where it has no key. -/
def PdcpCtx.crypt (c : PdcpCtx) (count bearer : Nat) (dir : Bool) (m : List Nat) : List Nat :=
  match c.cipher with
  | none => m
  | some (a, k) => fitLen m.length (Config.nea a k count bearer dir m)
/-- MAC-I of a context: NIA0 where it has no key. -/
def PdcpCtx.mac (c : PdcpCtx) (count bearer : Nat) (dir : Bool) (m : List Nat) : List Nat :=
  match c.integ with
  | none => [0, 0, 0, 0]
  | some (a, k) => fitLen 4 (Config.nia a k count bearer dir m)

/-- PDCP (R549). -/
def execPdcp (q : Fin 8) (s : State) : Outc :=
  s.service q.val 0x10 (fun d t =>
    let un := nbit d.p0 16
    let dir := nbit d.p0 17
    let bearer := nbits d.p0 20 5
    let c := t.strong.pdcp.get (nbits d.p0 0 12)
    let appr : Bool := !((match c.cipher with | some (a, _) => unapproved a | none => false) || (match c.integ with | some (a, _) => unapproved a | none => false))
    let count := d.param 1
    if nbits d.p0 12 4 ≠ 0 ∨ nbits d.p0 18 2 ≠ 0 ∨ nbits d.p0 25 7 ≠ 0 ∨ d.len < d.aux + (if un then 4 else 0) then (errRes 1, t)
    else
      let n := if un then d.len - 4 else d.len + 4
      if !d.buffers d.len n then (errRes 5, t)
      else if !appr ∧ t.bit R.STRONG_STATUS_APPROVED_ONLY then (errRes 9, t)
      else match t.source d d.len with
        | (.error r, u) => (r, u)
        | (.ok b, u) =>
          let hd := b.take d.aux
          if !un then
            u.deliver d (hd ++ c.crypt count bearer dir (b.drop d.aux ++ c.mac count bearer dir b)) ⟨0, appr, 0, 0⟩
          else
            let x := c.crypt count bearer dir (b.drop d.aux)
            let body := x.take (d.len - d.aux - 4)
            if x.drop (d.len - d.aux - 4) = c.mac count bearer dir (hd ++ body) then u.deliver d (hd ++ body) ⟨0, appr, 0, 0⟩
            else u.deliver d (List.replicate n 0) (errRes 8))

/-! ## Images and authentication (R542, R555, R556) -/

/-- The checks of R555 on an image, in order: 1 MAGIC, 2 header, 3 key, 4 rollback, 5 signature; none where it passes (the
codes of R562). -/
def State.imageFault (s : State) (kind : Nat) (b : List Nat) : Option Nat :=
  let w := fun i => (le32 36 b).getD i 0
  let len := w 4
  let slot := nbits (w 1) 8 2
  let pub := (b.drop 48).take 96
  if w 0 ≠ 0x4D494B53 then some 1
  else if nbits (w 1) 0 8 ≠ kind ∨ nbits (w 1) 10 22 ≠ 0 ∨ [6, 7, 8, 9, 10, 11].any (fun i => w i != 0) ∨ b.length < 240 + len ∨ 64 < w 3 then some 2
  else if s.strong.revoked.contains slot ∨ Config.sha 2 pub ≠ Config.otpKeyHash slot then some 3
  else if w 3 < s.strong.rollback then some 4
  else if !Config.ecdsaVerify 5 pub (Config.sha 2 (b.take (144 + len))) ((b.drop (144 + len)).take 96) then some 5
  else none

/-- VERIFY_IMAGE. -/
def execVerifyImage (q : Fin 8) (s : State) : Outc :=
  s.service q.val 0x11 (fun d t =>
    if !d.buffers d.len 0 then (errRes 5, t)
    else match t.source d d.len with
      | (.error r, u) => (r, u)
      | (.ok b, u) => (okRes (if (u.imageFault (nbits d.p0 0 8) b).isNone then 1 else 0), u))

/-- A response over the current challenge verifies (R542). -/
def State.responseOk (s : State) (label : Nat) (hash : List Nat) (mask : Nat) (pub sig : List Nat) : Bool :=
  match s.strong.challenge with
  | none => false
  | some (c, drawn) =>
    decide (s.stp.now < drawn + 60 * 1000000000 * 65536) && decide (s.strong.rejected < 3) && decide (Config.sha 2 pub = hash) &&
      Config.ecdsaVerify 5 pub (Config.sha 2 (bytesOf32 label ++ c ++ Config.otpSerial ++ bytesOf32 mask)) sig

/-- A rejected response counts; the third locks out. -/
def State.reject (s : State) : State :=
  let n := s.strong.rejected + 1
  let t := (s.clearChallenge)
  (t.setStrong { t.strong with rejected := n }).wrB R.STRONG_DBG_STATUS_LOCKOUT (decide (3 ≤ n))

/-- AUTH_CO. -/
def execAuthCo (q : Fin 8) (s : State) : Outc :=
  s.service q.val 0x20 (fun d t =>
    if d.len ≠ 196 then (errRes 1, t)
    else if !d.buffers d.len 0 then (errRes 5, t)
    else match t.source d d.len with
      | (.error r, u) => (r, u)
      | (.ok b, u) =>
        let mask := (le32 1 b).headD 0
        if mask = d.q ∧ u.responseOk 0x434F4131 Config.otpCoHash mask ((b.drop 4).take 96) (b.drop 100) then
          (okRes 0, u.clearChallenge.wr (R.STRONG_Q_CFG_ROLE d.q) 2)
        else (errRes 8, u.reject))

/-- BIND_QUEUE. -/
def execBindQueue (q : Fin 8) (s : State) : Outc :=
  s.service q.val 0x21 (fun d t =>
    let k := nbits d.p0 24 3
    let size := nbits d.p0 0 4
    let base := d.param 2 * 2 ^ 32 + d.param 1
    if nbits d.p0 27 5 ≠ 0 ∨ nbits d.p0 4 10 ≠ 0 ∨ size < 4 ∨ 12 < size then (errRes 1, t)
    else if base % 64 ≠ 0 ∨ granaryEnd < base + 64 * 2 ^ size then (errRes 5, t)
    else if k = d.q then (errRes 13, t)
    else
      let u := ((((t.wr (R.STRONG_Q_CFG_BOUND k) 1).wr (R.STRONG_Q_CFG_ROLE k) (if nbit d.p0 14 then 0 else 1)).wr (R.STRONG_Q_CFG_DEST k)
        (nbits d.p0 15 1)).wr (R.STRONG_Q_CFG_MID k) (nbits d.p0 16 8)).wr (R.STRONG_Q_CFG_SIZE_LOG2 k) size
      let v := ((u.wr (R.STRONG_Q_BASE_ADDR k) (base / 64)).wr (R.STRONG_Q_PROD_PROD k) 0).wr (R.STRONG_Q_CONS_CONS k) 0
      (okRes 0, v.setStrong { v.strong with ends := v.strong.ends.set k none }))

/-- SET_MODE. -/
def execSetMode (q : Fin 8) (s : State) : Outc :=
  s.service q.val 0x22 (fun _ t => (okRes 0, (t.wr R.STRONG_STATUS_APPROVED_ONLY 1).showApproved))

/-- ZEROIZE; with PERMANENT the DUK is destroyed (R551, R552). -/
def execZeroize (q : Fin 8) (s : State) : Outc :=
  s.service q.val 0x23 (fun d t =>
    if 1 < d.p0 then (errRes 1, t)
    else
      let u := if d.p0 = 1 then (t.setStrong { t.strong with dukGone := true }).wr R.STRONG_OTP_STATE_DUK_DESTROYED 1 else t
      (okRes 0, u.zeroize))

/-- REVOKE (R556). -/
def execRevoke (q : Fin 8) (s : State) : Outc :=
  s.service q.val 0x24 (fun d t =>
    let k := nbits d.p0 0 2
    if 4 ≤ d.p0 then (errRes 1, t)
    else if t.strong.boot.map Prod.fst = some k ∨ (List.range 4).all (fun i => i == k || t.strong.revoked.contains i) then (errRes 13, t)
    else
      let l := k :: t.strong.revoked.filter (· != k)
      (okRes 0, (t.setStrong { t.strong with revoked := l }).wr R.STRONG_OTP_STATE_REVOKE ((l.map (fun i => 2 ^ i)).sum)))

/-- ROLLBACK (R556). -/
def execRollback (q : Fin 8) (s : State) : Outc :=
  s.service q.val 0x25 (fun d t =>
    let n := nbits d.p0 0 7
    if 128 ≤ d.p0 then (errRes 1, t)
    else if 64 < n ∨ ((t.strong.boot.map Prod.snd).getD 0) < n then (errRes 13, t)
    else
      let m := max n t.strong.rollback
      (okRes 0, (t.setStrong { t.strong with rollback := m }).wr R.STRONG_OTP_STATE_ROLLBACK m))

/-! ## Challenges, debug, zeroization, self-tests (R542, R551 to R557) -/

/-- NEW_CHALLENGE: a write of STRONG_DBG_CTRL. -/
def execNewChallenge (v : Word) (s : State) : Outc :=
  if bitOf v 1 ∧ s.strongSt = 1 then
    let x := s.draw 32
    let t := x.2.setStrong { x.2.strong with challenge := some (x.1, s.stp.now) }
    .next ((List.range 8).foldl (fun u i => u.wr (R.STRONG_CHALLENGE i) ((le32 8 x.1).getD i 0)) t).ack
  else .next s.ack

/-- CHALLENGE_EXPIRY. -/
def execChallengeExpiry (s : State) : Outc :=
  match s.strong.challenge with
  | some (_, drawn) => .next (if drawn + 60 * 1000000000 * 65536 ≤ s.stp.now then s.clearChallenge else s)
  | none => .next s

/-- DEBUG_RESPONSE_SUBMIT: an accepted response zeroizes and opens its permissions (R553). -/
def execDebugResponseSubmit (v : Word) (s : State) : Outc :=
  if !bitOf v 0 ∨ s.strongSt ≠ 1 then .next s.ack
  else
    let b := (List.range 49).flatMap (fun i => bytesOf32 (s.rd (R.STRONG_DBG_RESP i)))
    let mask := s.rd (R.STRONG_DBG_RESP 0)
    if s.rd R.STRONG_OTP_STATE_LIFECYCLE ≠ 2 ∧ s.responseOk 0x44424731 Config.otpDebugHash mask ((b.drop 4).take 96) (b.drop 100) then
      let t := s.zeroize.wr R.STRONG_DBG_STATUS_ACCEPTED 1
      .next (t.wr R.STRONG_DBG_STATUS_PERM (t.rd R.STRONG_DBG_STATUS_PERM ||| mask % 32)).showApproved.ack
    else .next (s.reject.wr R.STRONG_DBG_STATUS_ACCEPTED 0).ack

/-- ZEROIZE_PIN: the pin has been low for 1 µs. -/
def execZeroizePin (s : State) : Outc :=
  let t := s.wr R.STRONG_STATUS_ZEROIZE_PIN 1
  .next (if s.strongSt = 0 ∨ s.strongSt = 3 then t.wipe.inc R.STRONG_ZEROIZE_COUNT else if s.strong.zeroing then t else t.zeroize)

/-- ZEROIZATION_COMPLETE. -/
def execZeroizationComplete (s : State) : Outc :=
  if s.strong.zeroing then
    let t := (s.setStrong { s.strong with zeroing := false }).inc R.STRONG_ZEROIZE_COUNT
    .next (if t.bit R.STRONG_STATUS_ZEROIZE_PIN then t else t.strongTo 1)
  else .next s

/-- ZEROIZE_N_RELEASE. -/
def execZeroizeNRelease (s : State) : Outc :=
  let t := s.wr R.STRONG_STATUS_ZEROIZE_PIN 0
  .next (if s.strongSt = 2 ∧ !s.strong.zeroing then t.strongTo 1 else t)

/-- STRONG_RESTART: from the Hearth only; the self-tests run again with an empty key store (R557). -/
def execStrongRestart (mid : Mid) (v : Word) (s : State) : Outc :=
  if mid ≠ 0xB1 then .next s.refusedAns
  else if bitOf v 0 then
    let t := s.strong.keys.entries.foldl (fun t e => if e.2.live then t.emptyKey e.1 else t) s
    .next ((t.setStrong { t.strong with restarted := true, zeroing := false }).strongTo 0).ack
  else .next s.ack

/-- The OTP as its registers show it (R558, R559). -/
def State.showOtp (s : State) : State :=
  let life := Config.otpLifecycle.val
  let t := (List.range 4).foldl (fun t i => t.wr (R.STRONG_SERIAL i) ((le32 4 (fitLen 16 Config.otpSerial)).getD i 0)) s
  let u := ((t.wr R.STRONG_OTP_STATE_LIFECYCLE life).wrB R.STRONG_OTP_STATE_DUK_DESTROYED s.strong.dukGone).wr R.STRONG_OTP_STATE_REVOKE
    ((s.strong.revoked.map (fun i => 2 ^ i)).sum)
  (u.wr R.STRONG_OTP_STATE_ROLLBACK s.strong.rollback).wr R.STRONG_DBG_STATUS_PERM (if life = 0 then 31 else 0)

/-- STRONG_SELFTEST_END: at power-up a failure is a cause of the Crier state; after RESTART it leaves ERROR (R554, R557). -/
def execStrongSelftestEnd (failed : Option (Fin 16)) (s : State) : Outc :=
  if s.strongSt ≠ 0 then .next s
  else match failed with
    | none =>
      let t := if s.strong.restarted then s else s.showOtp.wr R.HEARTH_BOOT_STATUS_STEP (max 8 (s.rd R.HEARTH_BOOT_STATUS_STEP))
      .next ((t.wr R.STRONG_STATUS_POST_PASS 1).strongTo 1)
    | some i =>
      let t := s.wr R.STRONG_STATUS_POST_PASS 0
      if s.strong.restarted then .next (((t.wr R.STRONG_ERR_CAUSE 3).strongTo 3).raise ⟨2, 1, true, 3, 0⟩)
      else .next { t with boot := { t.boot with crierDue := t.boot.crierDue.or (some (8, i.val + 1)) } }

/-- ENTROPY_HEALTH_FAIL: ERROR, and zeroization (R554). -/
def execEntropyHealthFail (s : State) : Outc :=
  if s.strongSt = 0 ∨ s.strongSt = 3 then .next s else .next (s.strongError 1)

end Sys2Proof.Machine
end

