-- ==== Sys2Proof/Machine/Coppice.lean ====
section
/-! DEFINITION. Machine/Coppice.lean: the reconfigurable fabric: the load of a bit-stream, the states of the stools and the
shell (chapter 19). What a personality computes is the customer's; its requests, answers and blocks are other commands.
Choices of the model: log entries 60 (DESIGN CHOICE), 61 (DESIGN CHOICE). -/

namespace Sys2Proof.Machine

def State.setCop (s : State) (f : Coppice → Coppice) : State := { s with cop := f s.cop }
/-- STATE of the load: 0 IDLE to 8 DONE. -/
def State.loadSt (s : State) : Nat := s.rd R.COPPICE_LOAD_STATUS_STATE
def State.loadTo (s : State) (n : Nat) : State := s.wr R.COPPICE_LOAD_STATUS_STATE n
/-- A load runs. -/
def State.loading (s : State) : Bool := decide (1 ≤ s.loadSt) && decide (s.loadSt ≤ 7)
/-- STATE of stool `k` (R521): 0 FALLOW, 1 LOADING, 2 LOADED, 3 QUIESCING, 4 QUIESCED, 5 CLEARING. -/
def State.stoolSt (s : State) (k : Nat) : Nat := s.rd (R.COPPICE_STOOL_STATUS_STATE k)
def State.stoolTo (s : State) (k n : Nat) : State := s.wr (R.COPPICE_STOOL_STATUS_STATE k) n

/-! ## The bit-stream (R523 to R526) -/

/-- Word `i` of the header. -/
def State.hdr (s : State) (i : Nat) : Nat := (le32 1 (byteVals ((s.cop.bytes.drop (4 * i)).take 4))).headD 0
def State.hdrFrames (s : State) : Nat := s.hdr 5
def State.hdrLength (s : State) : Nat := s.hdr 6
def State.hdrSigned (s : State) : Bool := nbit (s.hdr 4) 0
/-- The stools that STOOL_MASK names. -/
def State.targets (s : State) : List Nat := (List.range 16).filter (nbit (s.hdr 3))
/-- The running load names stool `k`: its header has passed (R534). -/
def State.loadNames (s : State) (k : Nat) : Bool := s.loading && decide (2 ≤ s.loadSt) && s.targets.contains k
/-- Bytes of the stream that have left the holding buffer (R527). -/
def State.consumed (s : State) : Nat := if s.loadSt < 2 then 0 else 64 + 1032 * s.rd R.COPPICE_LOAD_FRAME

/-- The checks of R528 in order: status and cause of the first failure. -/
def State.headerFault (s : State) : Option (Nat × Nat) :=
  let b := s.cop.bytes.take 64
  let h := s.hdr
  if anyBad b then some (5, 0)
  else if h 0 ≠ 0x50434F43 ∨ nbits (h 4) 24 8 ≠ 1 ∨ nbits (h 4) 16 8 ≠ 0 ∨ nbits (h 4) 1 7 ≠ 0 ∨ nbits (h 2) 16 16 ≠ 0 ∨ nbits (h 3) 16 16 ≠ 0 ∨
      (List.range 7).any (fun i => h (8 + i) != 0) ∨ h 15 ≠ fcs (byteVals (b.take 60)) then some (4, 1)
  else if h 1 ≠ s.rd R.COPPICE_ID ∨ ¬ nbit (h 2) (s.rd R.COPPICE_REV_REV) then some (1, 0)
  else if s.targets = [] ∨ h 5 = 0 ∨ 36864 < h 5 ∨ h 6 ≠ (if s.hdrSigned then 264 else 68) + 1032 * h 5 then some (4, 1)
  else if ¬ s.hdrSigned ∧ s.bit R.COPPICE_CTRL_SECURE_REQ then some (4, 2)
  else if (List.range 8).any (fun k => nbit (h 4) (8 + k) && !(s.bit (R.COPPICE_UCLK_CFG_EN k) && s.bit (R.COPPICE_UCLK_CFG_LOCKED k))) then some (4, 3)
  else if s.targets.any (fun k => s.stoolSt k == 3 || s.stoolSt k == 5) then some (4, 10)
  else none

/-- Erase a stool: no configuration frame written, block RAM at the zero codeword (R529). -/
def State.eraseStool (s : State) (k : Nat) : State :=
  let t := s.setCop (fun c => { c with cfg := c.cfg.clear (fun i => i / 768 == k) })
  t.setMem (t.ms.mem.fill (bramBase + k * bramSize) (bramBase + (k + 1) * bramSize))

/-- A stool becomes FALLOW: erased, with PID and CLOCKS zero. -/
def State.fallow (s : State) (k : Nat) : State :=
  (((s.eraseStool k).stoolTo k 0).wr (R.COPPICE_STOOL_PID k) 0).wr (R.COPPICE_STOOL_STATUS_CLOCKS k) 0

/-- A load ends: its outcome, and one load-end interrupt (R519, R531). -/
def State.loadDone (s : State) (status cause : Nat) : State :=
  let t := (((s.wr R.COPPICE_LOAD_STATUS_STATUS status).wr R.COPPICE_LOAD_STATUS_CAUSE cause).loadTo 8).setCop (fun c => { c with bytes := [] })
  (t.irqHost 448).irqIf (t.bit R.COPPICE_CTRL_IRQ_LOAD) .coppiceLoad 0

/-- A load fails: after its header, every target is erased and FALLOW (R528, R530, R531). -/
def State.loadFail (s : State) (status cause : Nat) : State :=
  (if 2 ≤ s.loadSt then s.targets.foldl State.fallow s else s).loadDone status cause

/-! ## The configuration port (R527, R528) -/

/-- COPPICE_LOAD_BEGIN. -/
def execCoppiceLoadBegin (s : State) : Outc :=
  if s.loading ∨ ¬ s.bit R.COPPICE_CTRL_ENABLE then .next (s.wr R.COPPICE_LOAD_STATUS_BEGIN_REFUSED 1)
  else
    let t := (((((s.loadTo 1).wr R.COPPICE_LOAD_STATUS_STATUS 0).wr R.COPPICE_LOAD_STATUS_CAUSE 0).wr R.COPPICE_LOAD_STATUS_ABORT_LATE 0).wr
      R.COPPICE_LOAD_STATUS_TOUCHED 0).wr R.COPPICE_LOAD_STATUS_BEGIN_REFUSED 0
    .next ((((t.wr R.COPPICE_LOAD_STATUS_MASK 0).wr R.COPPICE_LOAD_BYTES 0).wr R.COPPICE_LOAD_FRAME 0).setCop
      (fun c => { c with bytes := [], last := s.stp.now }))

/-- The whole stream has arrived. -/
def State.streamWhole (s : State) : Bool := decide (2 ≤ s.loadSt) && decide (s.hdrLength ≤ s.cop.bytes.length)

/-- COPPICE_LOAD_END. -/
def execCoppiceLoadEnd (s : State) : Outc :=
  if s.loading ∧ ¬ s.streamWhole then .next (s.loadFail 3 0) else .next s

/-- COPPICE_LOAD_ABORT: after the release is decided it comes too late (R531). -/
def execCoppiceLoadAbort (s : State) : Outc :=
  if !s.loading then .next s
  else if s.loadSt = 7 then .next (s.wr R.COPPICE_LOAD_STATUS_ABORT_LATE 1)
  else .next (s.loadFail 4 9)

/-- COPPICE_LOAD_TIMEOUT: MS outside 1 to 10,000 acts as the nearer limit. -/
def execCoppiceLoadTimeout (s : State) : Outc :=
  let ms := min (max 1 (s.rd R.COPPICE_LOAD_TIMEOUT_MS)) 10000
  if s.loading ∧ ¬ s.streamWhole ∧ s.cop.last + ms * 1000000 * 65536 ≤ s.stp.now then .next (s.loadFail 3 0) else .next s

/-- The header has arrived: it fails, or its targets are LOADING (R528, R529). -/
def State.takeHeader (s : State) : State :=
  let t := s.wr R.COPPICE_LOAD_STATUS_MASK (nbits (s.hdr 3) 0 16)
  match t.headerFault with
  | some (st, cause) => t.loadFail st cause
  | none =>
    let u := t.targets.foldl (fun x k => (x.stoolTo k 1).wr (R.COPPICE_STOOL_STATUS_CLOCKS k) (nbits (s.hdr 4) 8 8)) t
    (u.wr R.COPPICE_LOAD_STATUS_TOUCHED 1).loadTo 2

/-- Bytes beyond LENGTH are discarded and counted. -/
def State.dropExtra (s : State) : State :=
  let n := s.cop.bytes.length - s.hdrLength
  if 2 ≤ s.loadSt ∧ s.loading ∧ 0 < n then
    ((s.setCop (fun c => { c with bytes := c.bytes.take s.hdrLength })).add R.COPPICE_EXTRA_BYTES n).wr R.COPPICE_LOAD_BYTES s.hdrLength
  else s

/-- COPPICE_CFG_DATA_WRITE. -/
def execCoppiceCfgDataWrite (mid : Mid) (bytes : List (Nat × Bool)) (whole : Bool) (s : State) : Outc :=
  if mid ≠ 0xC0 then .next s.refusedAns
  else if !s.loading then .next (s.inc R.COPPICE_IDLE_WRITES).ack
  else if s.loadSt = 7 then .next (s.add R.COPPICE_EXTRA_BYTES bytes.length).ack
  else if bytes.length % 4 ≠ 0 ∨ !whole then .next (s.loadFail 4 8).ack
  else if 131072 < s.cop.bytes.length + bytes.length - s.consumed ∧ !s.streamWhole then .next s
  else
    let t := (s.setCop (fun c => { c with bytes := c.bytes ++ bytes, last := s.stp.now })).add R.COPPICE_LOAD_BYTES bytes.length
    .next ((if t.loadSt = 1 ∧ 64 ≤ t.cop.bytes.length then t.takeHeader else t).dropExtra).ack

/-! ## Stools and their drain (R521, R522, R529) -/

/-- A request to or from stool `k` is unanswered. -/
def State.stoolRequests (s : State) (k : Nat) : Bool :=
  s.net.ejected.any (fun e => isCoppiceNi e.pkt.dest && stoolOf e.pkt.addr == k) ||
    s.net.ejected.any (fun e => e.pkt.mid == 0xD0 + k) || s.net.flight.any (fun p => p.mid == 0xD0 + k && (p.isReq || p.isAns))

/-- A block on a stream of stool `k`. -/
def State.forStool (s : State) (k : Nat) (b : StreamBurst) : Bool :=
  s.bit (R.MARKET_STREAM_CFG_TARGET b.stream) && s.rd (R.MARKET_STREAM_CFG_STOOL b.stream) == k
def svForStool (k : Nat) (o : SvOut) : Bool := o.kind == 2 && o.port / 4 == k

/-- The shell holds a block of stool `k`. -/
def State.stoolBlocks (s : State) (k : Nat) : Bool := s.mkt.blocks.any (s.forStool k) || s.sv.out.any (svForStool k)

def State.drained (s : State) (k : Nat) : Bool := !s.stoolRequests k && !s.stoolBlocks k

/-- STOOL_DRAIN_END: a QUIESCING stool is QUIESCED; once every target of a load has drained, the load is ERASING. -/
def execStoolDrainEnd (k : Fin 16) (s : State) : Outc :=
  if !s.drained k.val then .next s
  else if s.stoolSt k.val = 3 then .next (s.stoolTo k.val 4)
  else if s.loadSt = 2 ∧ s.loadNames k.val ∧ s.targets.all s.drained then .next (s.loadTo 3)
  else .next s

/-- STOOL_CLEAR_END. -/
def execStoolClearEnd (k : Fin 16) (s : State) : Outc :=
  if s.stoolSt k.val = 5 ∧ s.drained k.val then .next (s.fallow k.val) else .next s

/-- COPPICE_ERASE_END. -/
def execCoppiceEraseEnd (s : State) : Outc :=
  if (s.loadSt = 2 ∨ s.loadSt = 3) ∧ s.targets.all s.drained then .next ((s.targets.foldl State.eraseStool s).loadTo 4) else .next s

/-- A command to a stool: refused BUSY where a load names it, STATE where it does not apply (R521, R534). -/
def State.stoolCmd (s : State) (k : Nat) (ok : Bool) (t : State) : State :=
  let no := fun (c : Nat) => (s.wr (R.COPPICE_STOOL_STATUS_REFUSED k) 1).wr (R.COPPICE_STOOL_STATUS_CAUSE k) c
  if s.loadNames k then no 1 else if ok then t else no 2

/-- STOOL_QUIESCE. -/
def execStoolQuiesce (k : Fin 16) (s : State) : Outc := .next (s.stoolCmd k.val (s.stoolSt k.val == 2) (s.stoolTo k.val 3))

/-- STOOL_OPEN. -/
def execStoolOpen (k : Fin 16) (s : State) : Outc := .next (s.stoolCmd k.val (s.stoolSt k.val == 4) (s.stoolTo k.val 2))

/-- STOOL_CLEAR. -/
def execStoolClear (k : Fin 16) (s : State) : Outc :=
  .next (s.stoolCmd k.val (s.stoolSt k.val == 2 || s.stoolSt k.val == 4) (s.stoolTo k.val 5))

/-- The user reset of a personality is held for 16 cycles of each declared clock. -/
def State.userReset (s : State) (k : Nat) : State := s.setCop (fun c => { c with userResets := c.userResets.modify k (· + 1) })

/-- STOOL_USER_RESET: the stool's state is unchanged. -/
def execStoolUserReset (k : Fin 16) (s : State) : Outc :=
  .next (s.stoolCmd k.val (s.stoolSt k.val == 2 || s.stoolSt k.val == 4) (s.userReset k.val))

/-! ## Frames, trailer, release (R530 to R533) -/

/-- The checks of a frame (R530): status and cause of the first failure. -/
def State.frameFault (s : State) (f : List (Nat × Bool)) : Option (Nat × Nat) :=
  let b := byteVals f
  let a := (le32 1 b).headD 0
  if anyBad f then some (5, 0)
  else if 2 ≤ nbits a 26 2 ∨ (if nbits a 26 2 = 0 then 768 else 1536) ≤ nbits a 0 11 ∨ nbits a 11 15 ≠ 0 ∨ ¬ s.targets.contains (nbits a 28 4) then some (2, 0)
  else if (le32 1 (b.drop 1028)).headD 0 ≠ fcs (b.take 1028) then some (4, 4)
  else none

/-- The 64-bit words of bytes. -/
def dwordsOf : Nat → List Nat → List PWord
  | 0, _ => []
  | n + 1, b => ⟨BitVec.ofNat 64 (((b.take 8).zipIdx).foldl (fun x e => x + e.1 * 2 ^ (8 * e.2)) 0), false⟩ :: dwordsOf n (b.drop 8)

/-- Write a checked frame to configuration memory or block RAM (R525). -/
def State.writeFrame (s : State) (b : List Nat) : State :=
  let a := (le32 1 b).headD 0
  let pay := (b.drop 4).take 1024
  if nbits a 26 2 = 0 then s.setCop (fun c => { c with cfg := c.cfg.set (nbits a 28 4 * 768 + nbits a 0 11) pay })
  else s.writeWords (bramBase + nbits a 28 4 * bramSize + nbits a 0 11 * 1024) (dwordsOf 128 pay)

/-- COPPICE_FRAME_WRITE: the next frame, once the holding buffer has it whole. -/
def execCoppiceFrameWrite (s : State) : Outc :=
  let k := s.rd R.COPPICE_LOAD_FRAME
  let f := (s.cop.bytes.drop (64 + 1032 * k)).take 1032
  if s.loadSt ≠ 4 ∨ f.length < 1032 then .next s
  else match s.frameFault f with
    | some (st, cause) => .next (s.loadFail st cause)
    | none =>
      let t := (s.writeFrame (byteVals f)).wr R.COPPICE_LOAD_FRAME (k + 1)
      .next (if k + 1 = s.hdrFrames then t.loadTo 5 else t)

/-- COPPICE_TRAILER_CHECK: the release of an unsigned load is decided here (R531, R532). -/
def execCoppiceTrailerCheck (s : State) : Outc :=
  let n := 64 + 1032 * s.hdrFrames
  let b := byteVals s.cop.bytes
  if s.loadSt ≠ 5 ∨ ¬ s.streamWhole then .next s
  else if (le32 1 (b.drop n)).headD 0 ≠ fcs (b.take n) then .next (s.loadFail 4 5)
  else .next (s.loadTo (if s.hdrSigned then 6 else 7))

/-- COPPICE_SIGNATURE_VERIFIED: key slot, then signature; a signed load's release is decided here (R532). -/
def execCoppiceSignatureVerified (s : State) : Outc :=
  let n := 68 + 1032 * s.hdrFrames
  let b := byteVals s.cop.bytes
  let slot := (le32 1 (b.drop n)).headD 0
  let pub := (b.drop (n + 4)).take 96
  if s.loadSt ≠ 6 then .next s
  else if 4 ≤ slot ∨ s.strong.revoked.contains slot ∨ Config.sha 2 pub ≠ Config.otpKeyHash slot then .next (s.loadFail 4 6)
  else if Config.ecdsaVerify 5 pub (Config.sha 2 (b.take (n + 100))) ((b.drop (n + 100)).take 96) then .next (s.loadTo 7)
  else .next (s.loadFail 4 7)

/-- COPPICE_RELEASE: user reset, gate open, LOADED with the header's PERSONALITY_ID (R533). -/
def execCoppiceRelease (s : State) : Outc :=
  if s.loadSt ≠ 7 then .next s
  else .next ((s.targets.foldl (fun t k => ((t.userReset k).stoolTo k 2).wr (R.COPPICE_STOOL_PID k) (s.hdr 7)) s).loadDone 0 0)

/-! ## The shell (R515 to R520) -/

/-- STOOL_REQUEST_TIMEOUT: a request delivered to a stool 3.5 µs ago. -/
def execStoolRequestTimeout (p : Nat) (s : State) : Outc :=
  match s.net.ejected.find? (fun e => e.pkt.id == p) with
  | none => .next s
  | some e =>
    if isCoppiceNi e.pkt.dest ∧ e.tick + 3500 * 65536 ≤ s.stp.now then
      .next ((s.unitAnswer e.pkt 6 3 8 0 []).inc (R.COPPICE_STOOL_TIMEOUTS (stoolOf e.pkt.addr)))
    else .next s

/-- A window of stool `k` passes the request (R517). -/
def State.windowPasses (s : State) (k : Nat) (store : Bool) (addr n : Nat) (w : Nat) : Bool :=
  s.bit (R.COPPICE_STOOL_WIN_BASE_EN k w) && decide (s.rd (R.COPPICE_STOOL_WIN_BASE_BASE k w) * 0x100000 ≤ addr) &&
    decide (addr + n ≤ (s.rd (R.COPPICE_STOOL_WIN_LIMIT_LIMIT k w) + 1) * 0x100000) && (!store || s.bit (R.COPPICE_STOOL_WIN_BASE_WR k w))

/-- STOOL_REQUEST_CHECK: the shell takes a request from a LOADED stool only; one that passes then enters by PACKET_INJECT. -/
def execStoolRequestCheck (k : Fin 16) (store : Bool) (addr n : Nat) (s : State) : Outc :=
  if s.stoolSt k.val ≠ 2 ∨ (List.range 4).any (s.windowPasses k.val store addr n) then .next s
  else .next (s.inc (R.COPPICE_STOOL_REFUSED k.val)).refusedAns

/-- STOOL_BLOCK_TIMEOUT: the oldest block held for the stool is acknowledged and discarded (R518). -/
def execStoolBlockTimeout (k : Fin 16) (s : State) : Outc :=
  match s.mkt.blocks.findIdx? (s.forStool k.val) with
  | some i => .next ({ s with mkt := { s.mkt with blocks := s.mkt.blocks.eraseIdx i } }.inc (R.COPPICE_STOOL_DROPS k.val))
  | none =>
    match s.sv.out.findIdx? (svForStool k.val) with
    | some i => .next ({ s with sv := { s.sv with out := s.sv.out.eraseIdx i } }.inc (R.COPPICE_STOOL_DROPS k.val))
    | none => .next s

/-- STOOL_IRQ_EDGE (R519). -/
def execStoolIrqEdge (k : Fin 16) (line : Fin 8) (s : State) : Outc :=
  if s.stoolSt k.val ≠ 2 then .next s
  else if nbit (s.rd (R.COPPICE_STOOL_IRQ_IRQ_HOST k.val)) line.val then .next (s.irqHost (320 + 8 * k.val + line.val))
  else .next (s.irq .stool (8 * k.val + line.val))

/-- UCLK_CFG_WRITE: refused while a LOADING or LOADED stool declares the clock; an accepted change drops LOCKED (R520). -/
def execUclkCfgWrite (k : Fin 8) (v : Word) (s : State) : Outc :=
  let k := k.val
  let f := min (max 10000 ((R.COPPICE_UCLK_CFG_FREQ_KHZ k).of v)) 600000
  let en := (R.COPPICE_UCLK_CFG_EN k).of v
  let t := s.w1c v [R.COPPICE_UCLK_CFG_REFUSED k]
  if f = s.rd (R.COPPICE_UCLK_CFG_FREQ_KHZ k) ∧ en = s.rd (R.COPPICE_UCLK_CFG_EN k) then .next t.ack
  else if (List.range 16).any (fun i => (s.stoolSt i == 1 || s.stoolSt i == 2) && nbit (s.rd (R.COPPICE_STOOL_STATUS_CLOCKS i)) k) then
    .next (t.wr (R.COPPICE_UCLK_CFG_REFUSED k) 1).ack
  else .next (((t.wr (R.COPPICE_UCLK_CFG_FREQ_KHZ k) f).wr (R.COPPICE_UCLK_CFG_EN k) en).wr (R.COPPICE_UCLK_CFG_LOCKED k) 0).ack

/-- UCLK_LOCKED: the clock runs at its frequency, and its replica resynchronises (domain 76 + k, R600). -/
def execUclkLocked (k : Fin 8) (s : State) : Outc :=
  if s.bit (R.COPPICE_UCLK_CFG_EN k.val) ∧ ¬ s.bit (R.COPPICE_UCLK_CFG_LOCKED k.val) then
    .next ((s.wr (R.COPPICE_UCLK_CFG_LOCKED k.val) 1).setLost (76 + k.val) false)
  else .next s

/-! ## Readback (R626) -/

/-- COPPICE_READBACK_SELECT. -/
def execCoppiceReadbackSelect (v : Word) (s : State) : Outc :=
  .next (s.wrWord v [R.COPPICE_READBACK_STOOL, R.COPPICE_READBACK_TYPE, R.COPPICE_READBACK_INDEX]).ack

/-- Word `w` of the selected frame; a stool that is not LOADED reads zero. -/
def State.readbackWord (s : State) (w : Nat) : Nat :=
  let k := s.rd R.COPPICE_READBACK_STOOL
  let i := s.rd R.COPPICE_READBACK_INDEX
  if s.stoolSt k ≠ 2 then 0
  else if s.rd R.COPPICE_READBACK_TYPE = 0 ∧ i < 768 then
    match s.cop.cfg.get (k * 768 + i) with
    | [] => Config.coppiceErased w % 2 ^ 32
    | b => (le32 1 (b.drop (4 * w))).headD 0
  else if s.rd R.COPPICE_READBACK_TYPE = 1 ∧ i < 1536 then
    (s.ms.mem.word (bramBase + k * bramSize + i * 1024 + 4 * w / 8 * 8)).data.toNat / 2 ^ (32 * (w % 2)) % 2 ^ 32
  else Config.coppiceNoFrame w % 2 ^ 32

end Sys2Proof.Machine
end

