-- ==== Sys2Proof/Machine/Tally.lean ====
section
/-! DEFINITION. Machine/Tally.lean: faults and votes of ledgers, the gate of power-down, snapshots and peeks (chapter 14).
Choices of the model: log entries 47 (DEDUCED). -/

namespace Sys2Proof.Machine

/-! ## Slices, votes and the gate (R402, R403, R406, R656) -/

/-- The ledger has a slice at the place (R656). -/
def slicePresent (id place : Nat) : Bool :=
  ledgerPresent id &&
    (match id / 256 with
     | 5 => place == 33 || decide (place < 16)
     | 6 => place == 33 || place == alwaysOn
     | _ => place == ledgerPlace id)

/-- TALLY_FAULT: no two copies of a counter agree, so that its value is open and the ledger becomes UNRECONCILED (R402). -/
def execTallyFault (id : Fin 4096) (place : Fin 49) (ret : Bool) (s : State) : Outc :=
  if slicePresent id.val place.val then
    let x := s.fresh
    let v : DWord := BitVec.ofNat 64 (Config.freeValue x.1)
    let t := x.2
    let u := { t with tally := { t.tally with
      slices := t.tally.slices.modify (sliceKey id.val place.val) (fun y => if ret then ⟨y.issued, v⟩ else ⟨v, y.returned⟩) } }
    .next (u.ledgerFault id.val)
  else .next s

/-- TALLY_VOTE_CORRECT: the copy is rewritten from the other two (R402). -/
def execTallyVoteCorrect (id : Fin 4096) (place : Fin 49) (_ret : Bool) (s : State) : Outc :=
  if slicePresent id.val place.val then .next (s.inc R.TALLY_CORRECTED) else .next s

/-- NIs whose request-slot ledgers, and whose ports, are bound to power domain `d` (R656). -/
def domainNis (d : Nat) : List Nat :=
  if d < 16 then [hamletNi d]
  else if 28 ≤ d ∧ d < 32 then [hallNis.getD (d - 28) 0]
  else if d = 33 then [85] else if d = 34 then [101] else if d = 35 then [105] else if d = 36 then [109] else if d = 37 then [113]
  else if d = 38 then [89] else if d = 39 then [117, 121, 133, 137] else if d = 42 then [141, 145] else if d = 43 then [149, 153, 205, 209]
  else if d = 44 then [25]
  else if d = 45 ∨ d = 46 then (List.range 8).flatMap (fun k => [4 * (8 * k + 7 * (d - 45)) + 1, 4 * (8 * k + 7 * (d - 45)) + 2])
  else if d = 47 then [17] else []

/-- Ledgers with a slice in power domain `d`, or bound to it by their NI. -/
def domainLedgers (d : Nat) : List Nat :=
  allLedgers.filter (fun id => slicePresent id d || ((id / 256 == 1 || id / 256 == 2) && (domainNis d).contains (id % 256)))

/-- Tokens that a slice issued and has not seen returned. -/
def Slice.held (x : Slice) : Nat := let o := (x.issued - x.returned).toNat; if o < 2 ^ 63 then o else 0

/-- Items whose slots a hamlet's slice holds: those RUNNING, PREEMPTED or KILLING on its cores (R656). -/
def State.hamletItems (s : State) (h : Nat) : Nat :=
  (List.range 9).foldl (fun n c => let r := s.rcore h c; n + r.held.length + (if r.cur.isSome then 1 else 0)) 0

/-- Tokens held by the slices and NI ledgers of a domain. -/
def State.domainTokens (s : State) (d : Nat) : Nat :=
  (domainLedgers d).foldl (fun n id =>
    n + (if id / 256 = 1 ∨ id / 256 = 2 then (s.ledgerOut id).toNat
         else if id / 256 = 5 ∧ d < 16 then 0
         else (s.tally.slices.get (sliceKey id d)).held)) (if d < 16 then s.hamletItems d else 0)

def State.domainUnreconciled (s : State) (d : Nat) : Bool := (domainLedgers d).any (fun id => (s.tally.flags.get id).unreconciled)
def State.domainUndrained (s : State) (d : Nat) : Bool := (domainNis d).any (fun n => !s.bit (R.COMMONS_RTR_PORT_STATUS_DRAINED (n / 4) (4 + n % 4)))

/-- TALLY_DOMAIN_HELD of a domain. -/
def State.showDomain (s : State) (d : Nat) : State :=
  ((s.wrB (R.TALLY_DOMAIN_HELD_UNRECONCILED d) (s.domainUnreconciled d)).wrB (R.TALLY_DOMAIN_HELD_NOT_DRAINED d) (s.domainUndrained d)).wr
    (R.TALLY_DOMAIN_HELD_HELD d) (min (s.domainTokens d) (2 ^ 20 - 1))

/-- The gate's cause, or 0 where it lets the domain be switched off (R406): 1 HELD, 2 UNRECONCILED; `held` is a further
ground for HELD that a chapter names. -/
def State.gateCause (s : State) (d : Nat) (held : Bool) : Nat :=
  if s.domainUnreconciled d then 2 else if held || s.domainUndrained d || s.domainTokens d != 0 then 1 else 0

/-- A check of the gate, with its record of a refusal (R406, R413). -/
def State.gateCheck (s : State) (d : Nat) (held : Bool) : Nat × State :=
  let c := s.gateCause d held
  let t := s.showDomain d
  (c, if c = 0 then t else ((t.wr R.TALLY_STATUS_GATE_REFUSED 1).wr R.TALLY_STATUS_GATE_CAUSE c).wr R.TALLY_STATUS_GATE_DOMAIN d)

/-! ## Snapshots (R407 to R411) -/

/-- Records and trailer of a snapshot, in bytes (R409). -/
def snapBytes : Nat := 32 * 607

/-- The buffer lies in Granary banks that are ON (R407). -/
def State.snapBufferOk (s : State) (a : Nat) : Bool :=
  decide (a + snapBytes ≤ granaryEnd) && (List.range 65).all (fun b =>
    !(decide (a < (b + 1) * 0x100000) && decide (b * 0x100000 < a + snapBytes)) || s.rd (R.GRANARY_BANK_PWR_STATE b) == 0)

/-- The first cause of R407 that refuses an arm, or 0. -/
def State.snapCause (s : State) (parish : Bool) : Nat :=
  let d := leadTicks s.tick (s.rd R.TALLY_SNAP_TICK)
  if d < 500 ∨ 2147483648 ≤ d then 1
  else if maxLead < d then 2
  else if s.rd R.TALLY_SNAP_STATUS_STATE = 1 ∨ s.rd R.TALLY_SNAP_STATUS_STATE = 2 then 3
  else if !s.snapBufferOk (64 * s.rd R.TALLY_SNAP_ADDR_ADDR) then 4
  else if parish ∧ (¬ s.bit R.EWL_PARISH_IN_PARISH ∨ s.rd R.EWL_PARISH_MEMBER ≠ 0) then 5
  else 0

def State.armSnap (s : State) (tick : Nat) (parish : Bool) (remote : Option Nat) : State :=
  let t := ((s.wr R.TALLY_SNAP_STATUS_STATE 1).wr R.TALLY_SNAP_STATUS_STATUS 0).wr R.TALLY_SNAP_STATUS_RECORDS 0
  { t with tally := { t.tally with parish := parish, remote := remote, capTick := tick, capAddr := s.rd R.TALLY_SNAP_ADDR_ADDR, snap := [] } }

/-- TALLY_SNAP_ARM (R407); a member that takes no part in a broadcast is left out (R411). -/
def execTallySnapArm (v : Word) (bcast : Option (Nat × Nat)) (s : State) : Outc :=
  match bcast with
  | some (tick, addr) =>
    if s.bit R.EWL_PARISH_IN_PARISH ∧ s.rd R.EWL_PARISH_MEMBER ≠ 0 ∧ s.rd R.TALLY_SNAP_STATUS_STATE ≠ 1 ∧ s.rd R.TALLY_SNAP_STATUS_STATE ≠ 2 ∧
        tickBefore s.tick tick then
      .next (s.armSnap tick false (some (addr + s.rd R.EWL_PARISH_MEMBER * 0x8000)))
    else .next s
  | none =>
    if !bitOf v 31 then .next s
    else
      let c := s.snapCause (bitOf v 30)
      if c = 0 then .next (s.armSnap (s.rd R.TALLY_SNAP_TICK) (bitOf v 30) none)
      else .next ((s.wr R.TALLY_STATUS_SNAP_REFUSED 1).wr R.TALLY_STATUS_REFUSE_CAUSE c)

/-- What a ledger shows at this instant; every outstanding decrement is in TRANSIT, and no other token is (R408). -/
def State.ledgerRecord (s : State) (id : Nat) : LedgerRecord :=
  ⟨id, s.ledgerIssued id, s.ledgerReturned id, s.tally.flags.get id, if id / 256 = 6 then s.ledgerOut id else 0⟩

/-- TALLY_SNAPSHOT_CAPTURE: every ledger at one instant (R408). -/
def execTallySnapshotCapture (s : State) : Outc :=
  if s.rd R.TALLY_SNAP_STATUS_STATE = 1 ∧ passed s.tick s.tally.capTick then
    let seq := (s.tally.seq + 1) % 2 ^ 32
    .next ((({ s with tally := { s.tally with snap := allLedgers.map s.ledgerRecord, seq := seq, capTick := s.tick } }).wr R.TALLY_SNAP_STATUS_STATE 2).wr
      R.TALLY_SNAP_STATUS_SNAP_SEQ seq)
  else .next s

def lo32 (d : DWord) : Nat := d.toNat % 2 ^ 32
def hi32 (d : DWord) : Nat := d.toNat / 2 ^ 32

/-- The eight words of a record (R409). -/
def LedgerRecord.words (r : LedgerRecord) (member seq : Nat) : List Nat :=
  [2 ^ 31 + (if r.flags.unreconciled then 2 ^ 30 else 0) + (if r.flags.bound then 2 ^ 29 else 0) + member * 2 ^ 12 + r.id, seq,
    lo32 r.issued, hi32 r.issued, lo32 r.returned, hi32 r.returned, lo32 (r.issued - r.returned), lo32 r.transit]

def State.snapMember (s : State) : Nat := if s.bit R.EWL_PARISH_IN_PARISH then s.rd R.EWL_PARISH_MEMBER else 0

/-- The records of the captured snapshot, the trailer last (R409). -/
def State.snapRecords (s : State) : List (List Nat) :=
  s.tally.snap.map (fun r => r.words s.snapMember s.tally.seq) ++
    [[2 ^ 31 + s.snapMember * 2 ^ 12 + 0xFFF, s.tally.seq, s.tally.snap.length + 1, 0, s.tally.capTick, 0, 0, 0]]

def midTally : Mid := 0xBE

/-- Write records from address `a` until one is answered with an error: the records written, that answer, the state. -/
def State.writeRecords (s : State) (a : Nat) : List (List Nat) → Nat × Option Answer × State
  | [] => (0, none, s)
  | r :: rest =>
    match s.writeRefused a with
    | some e => (0, some e, s)
    | none =>
      let t := (s.dmaWrite midTally a (clean (r.flatMap bytesOf32))).2
      let x := State.writeRecords t (a + 32) rest
      (x.1 + 1, x.2)

/-- A snapshot ends (R410). -/
def State.endSnap (s : State) (status records : Nat) : State :=
  ((((s.wr R.TALLY_SNAP_STATUS_STATE 3).wr R.TALLY_SNAP_STATUS_STATUS status).wr R.TALLY_SNAP_STATUS_RECORDS records).irqIf
    (s.bit R.TALLY_CTRL_IRQ_SNAP) .snapshot 0)

/-- STATUS of a snapshot whose write was answered with an error. -/
def snapStatus (a : AnsStatus) : Nat := if a = AnsStatus.domainClosed then 2 else if a = AnsStatus.deadTarget then 3 else 4

/-- TALLY_READOUT_END: every record and the trailer are written; a member's go to member 0, and only member 0 reports DONE
(R409 to R411). -/
def execTallyReadoutEnd (leftOut : Bool) (s : State) : Outc :=
  if s.rd R.TALLY_SNAP_STATUS_STATE ≠ 2 then .next s
  else match s.tally.remote with
    | some a => .next ((s.send (.parish 0 a s.snapRecords.flatten)).wr R.TALLY_SNAP_STATUS_STATE 0)
    | none =>
      let x := s.writeRecords (64 * s.tally.capAddr) s.snapRecords
      match x.2.1 with
      | some _ => .next s
      | none =>
        let bad := s.tally.snap.any (fun r => r.flags.unreconciled || r.flags.bound)
        .next (x.2.2.endSnap (if leftOut ∧ s.tally.parish then 3 else if bad then 1 else 0) x.1)

/-- TALLY_READOUT_ERROR: an error answer to a buffer write stops the readout without a trailer (R410). -/
def execTallyReadoutError (remote : Option AnsStatus) (s : State) : Outc :=
  if s.rd R.TALLY_SNAP_STATUS_STATE ≠ 2 then .next s
  else match s.tally.remote, remote with
    | some _, some _ => .next (s.wr R.TALLY_SNAP_STATUS_STATE 0)
    | some _, none => .next s
    | none, _ =>
      let x := s.writeRecords (64 * s.tally.capAddr) s.snapRecords
      match x.2.1 with
      | some e => .next (x.2.2.endSnap (snapStatus e.status) x.1)
      | none => .next s

/-! ## Peeks (R412) -/

/-- TALLY_PEEK: a peek replaces a running one. -/
def execTallyPeek (v : Word) (s : State) : Outc :=
  let id := bitsOf v 0 12
  let t := ((((s.wr R.TALLY_PEEK_STATUS_PEEK_VALID 0).wrB R.TALLY_PEEK_STATUS_PEEK_ABSENT (!ledgerPresent id)).wr
    R.TALLY_PEEK_STATUS_UNRECONCILED 0).wr R.TALLY_PEEK_STATUS_BOUND 0).wr R.TALLY_PEEK_STATUS_LEDGER_ID id
  .next { t with tally := { t.tally with peek := if ledgerPresent id then some (id, s.stp.now + 2000 * 65536) else none } }

/-- TALLY_PEEK_VALUES: the ledger at the peek's instant. -/
def execTallyPeekValues (s : State) : Outc :=
  match s.tally.peek with
  | none => .next s
  | some (id, t0) =>
    if s.stp.now < t0 then .next s
    else
      let r := s.ledgerRecord id
      let t := ((((s.wr R.TALLY_PEEK_ISSUED_LO (lo32 r.issued)).wr R.TALLY_PEEK_ISSUED_HI (hi32 r.issued)).wr R.TALLY_PEEK_RETURNED_LO
        (lo32 r.returned)).wr R.TALLY_PEEK_RETURNED_HI (hi32 r.returned)).wr R.TALLY_PEEK_OUT (lo32 (r.issued - r.returned))
      let u := ((t.wr R.TALLY_PEEK_STATUS_PEEK_VALID 1).wrB R.TALLY_PEEK_STATUS_UNRECONCILED r.flags.unreconciled).wrB
        R.TALLY_PEEK_STATUS_BOUND r.flags.bound
      .next { u with tally := { u.tally with peek := none } }

end Sys2Proof.Machine
end

