-- ==== Sys2Proof/Machine/Boot.lean ====
section
/-! DEFINITION. Machine/Boot.lean: power-up, self-test, the release of cores and the Crier state (chapter 21). The Kindling
ROM and Hearth firmware act through these commands; the Hearth cores issue sheaves from the firmware's ENTRY on.
Choices of the model: log entries 63 (PRESUMED), 64 (DESIGN CHOICE), 65 (DESIGN CHOICE). -/

namespace Sys2Proof.Machine

def State.setBoot (s : State) (f : Boot → Boot) : State := { s with boot := f s.boot }
/-- The Hearth core pair. -/
def hearthCore : Nat := 160
def hearthMid : Mid := 0xB1

/-- A cause of the Crier state is decided: the first stands (R568). -/
def State.crier (s : State) (cause detail : Nat) : State := s.setBoot (fun b => { b with crierDue := b.crierDue.or (some (cause, detail)) })
/-- The device is in the Crier state. -/
def State.inCrier (s : State) : Bool := s.boot.crierAt.isSome
/-- A step of R563 has been reached. -/
def State.stepTo (s : State) (n : Nat) : State := s.wr R.HEARTH_BOOT_STATUS_STEP (max n (s.rd R.HEARTH_BOOT_STATUS_STEP))
/-- The boot sequence runs: RESET_N has risen, and no cause of the Crier state has been decided. -/
def State.booting (s : State) : Bool := s.boot.t0.isSome && s.boot.crierDue.isNone && !s.inCrier
/-- HEARTH_STRAPS. -/
def State.straps (s : State) : Nat :=
  s.rd R.HEARTH_STRAPS_RECOVERY * 2 ^ 31 + s.rd R.HEARTH_STRAPS_FAST * 64 + s.rd R.HEARTH_STRAPS_I2C * 16 + s.rd R.HEARTH_STRAPS_SPI * 4 +
    s.rd R.HEARTH_STRAPS_BOOT
def State.recovering (s : State) : Bool := s.bit R.HEARTH_STRAPS_RECOVERY

/-- The state of R64 at address `pc`. -/
def State.releaseCore (s : State) (k pc : Nat) : State := s.setCore k { run := .running, pc := pc, since := s.stp.now }
def State.holdCore (s : State) (k : Nat) : State := s.setCore k {}

/-! ## The Crier record (R571) -/

/-- LIFECYCLE as the record shows it: unknown until the power-up self-tests have read the OTP. -/
def State.lifecycle (s : State) : Nat := if s.strongSt ≠ 0 ∨ s.strong.restarted then s.rd R.STRONG_OTP_STATE_LIFECYCLE else 0xFF

/-- Word `w` of the live boot state, as it stands outside the Crier state. -/
def State.liveWord (s : State) (w : Nat) : Nat :=
  match w with
  | 0 => 0xC7 * 2 ^ 24 + s.rd R.HEARTH_BOOT_STATUS_CAUSE * 2 ^ 16 + s.rd R.HEARTH_BOOT_STATUS_STEP * 256 + s.rd R.HEARTH_BOOT_STATUS_STATE
  | 2 => s.straps
  | 3 => match s.boot.t0 with
    | some t => min ((s.stp.now - t) / 65536000000000) (2 ^ 32 - 1)
    | none => 0
  | 5 => Config.romVersion % 2 ^ 16 * 2 ^ 16 + s.rd R.HEARTH_BOOT_STATUS_BOOT_SLOT * 256 + s.lifecycle
  | 6 => s.boot.version
  | 7 => (s.boot.lines + 65535) % 65536 * (if s.boot.lines = 0 then 0 else 1)
  | 8 => s.rd (R.STRONG_SERIAL 0)
  | 9 => s.rd (R.STRONG_SERIAL 1)
  | 10 => s.rd (R.STRONG_SERIAL 2)
  | 11 => s.rd (R.STRONG_SERIAL 3)
  | _ => 0

/-- CRIER_RECORD word `w`: frozen in the Crier state, but for UPTIME and SEQ (R568). -/
def State.crierWord (s : State) (w : Nat) : Nat := if s.inCrier ∧ w ≠ 3 ∧ w ≠ 7 then s.rd (R.CRIER_RECORD w) else s.liveWord w

/-! ## Boot (R560 to R564, R566) -/

/-- RESET_N_RELEASE: the straps are latched, BOOT as 0b00 after a recovery reset (R576); FAST is honoured while LIFECYCLE is
OPEN. -/
def execResetNRelease (straps : Fin 4 × Fin 4 × Fin 4) (fast : Bool) (s : State) : Outc :=
  if s.boot.t0.isSome ∨ s.pwr.tripped then .next s
  else
    let b := if s.recovering then 0 else straps.1.val
    let t := ((((s.wr R.HEARTH_STRAPS_BOOT b).wr R.HEARTH_STRAPS_SPI straps.2.1.val).wr R.HEARTH_STRAPS_I2C straps.2.2.val).wrB R.HEARTH_STRAPS_FAST
      fast).wrB R.HEARTH_BOOT_STATUS_FAST (fast && Config.otpLifecycle.val == 0)
    let u := t.setBoot (fun x => { x with t0 := some s.stp.now })
    .next (if b = 3 then u.crier 9 u.straps else u)

/-- The spare is unusable (R585). -/
def State.spareNone (s : State) (h : Nat) : State := s.wr (R.HAMLET_SPARE_STATUS_STATE h) 2

/-- A physical core has failed at boot: the spare takes its logical identity; with a second one the device enters the Crier
state (R566). -/
def State.failCore (s : State) (h p : Nat) : State :=
  if s.boot.bad.contains (h, p) then s
  else
    let t := s.setBoot (fun b => { b with bad := b.bad ++ [(h, p)] })
    let l := (t.boot.bad.filter (fun x => x.1 == h)).map Prod.snd
    if 2 ≤ l.length then t.crier 7 (h * 2 ^ 16 + (l.map (fun i => 2 ^ i)).sum)
    else if p = 8 then t.spareNone h
    else
      let u := { t with hml := { t.hml with coreMap := (t.hml.coreMap.set (9 * h + p) (some 8)).set (9 * h + 8) (some p) } }
      (u.spareNone h).wr (R.HAMLET_SPARE_STATUS_SPARE_PHYS h) p

def State.failCores (s : State) (l : List (Nat × Nat)) : State := l.foldl (fun t x => t.failCore x.1 x.2) s

/-- FUSE_READ_END: step 2. -/
def execFuseReadEnd (fault : Option (Fin 3 × Nat)) (bad : List (Fin 16 × Fin 9)) (s : State) : Outc :=
  if !s.booting ∨ s.boot.fused then .next s
  else match fault with
    | some (k, d) => .next (s.crier (1 + k.val) d)
    | none => .next (((s.setBoot (fun b => { b with fused := true })).failCores (bad.map (fun x => (x.1.val, x.2.val)))).stepTo 2)

/-- A plot or an instruction memory: its hamlet and physical core. -/
def hamletMemory (x : Nat × Nat) : Option (Nat × Nat) := if x.1 ≤ 1 ∧ x.2 < 144 then some (x.2 / 9, x.2 % 9) else none

/-- POWERON_HARROW_END: steps 3 and 4. -/
def execPoweronHarrowEnd (rows checkers : List (Fin 8 × Fin 256)) (s : State) : Outc :=
  let detail := fun (x : Fin 8 × Fin 256) => x.1.val * 2 ^ 24 + x.2.val * 2 ^ 16
  let other := rows.filter (fun x => (hamletMemory (x.1.val, x.2.val)).isNone)
  if !s.booting ∨ !s.boot.fused ∨ s.boot.tested then .next s
  else
    let t := (s.setBoot (fun b => { b with tested := true })).stepTo 4
    match other, checkers with
    | x :: _, _ => .next (t.crier 4 (detail x))
    | [], x :: _ => .next (t.crier 5 (detail x))
    | [], [] => .next (t.failCores (rows.filterMap (fun x => hamletMemory (x.1.val, x.2.val))))

/-- POWERON_FILL_END: steps 5 and 6; after a recovery reset the upper half of Hearth SRAM is kept (R576). -/
def execPoweronFillEnd (s : State) : Outc :=
  if !s.booting ∨ !s.boot.tested ∨ s.boot.filled then .next s
  else
    let keep := if s.recovering then hearthBase + 0x40000 else hearthBase + hearthSize
    let m := ((s.ms.mem.fill 0 cellarBase).fill hearthBase keep).fill bramBase (bramBase + 16 * bramSize)
    let t := s.setMem m
    .next (({ t with ms := { t.ms with lines := ⟨[]⟩ } }.setBoot (fun b => { b with filled := true })).stepTo 6)

/-- LBIST_END: step 9. -/
def execLbistEnd (blocks : List (Fin 256)) (bad : List (Fin 16 × Fin 9)) (s : State) : Outc :=
  if !s.booting ∨ !s.boot.filled ∨ s.boot.lbist then .next s
  else
    let t := (s.setBoot (fun b => { b with lbist := true })).stepTo 9
    match blocks with
    | n :: r => .next (t.crier 6 (r.foldl (fun m x => min m x.val) n.val))
    | [] => .next (t.failCores (bad.map (fun x => (x.1.val, x.2.val))))

/-- Write an image body to Hearth SRAM from offset `o`. -/
def State.hearthWrite (s : State) (o : Nat) (b : List Nat) : State :=
  let n := b.length / 8
  (s.writeWords (hearthBase + o) (dwordsOf n b)).writeBytes hearthMid false (hearthBase + o + 8 * n) ((b.drop (8 * n)).map (BitVec.ofNat 8))

/-- `n` bytes of Hearth SRAM from offset `o`, each with its word's mark; beyond its end zeros. -/
def State.hearthRead (s : State) (o n : Nat) : List (Nat × Bool) :=
  let ws := (List.range ((n + 7) / 8)).map (fun i => if o + 8 * i < hearthSize then s.ms.mem.word (hearthBase + o + 8 * i) else ⟨0, false⟩)
  (wordBytes ws).take n

/-- FLASH_SLOT_READ_END: the body is read where MAGIC and LENGTH allow, and loaded from offset 0 (R561). -/
def execFlashSlotReadEnd (bytes : List Nat) (s : State) : Outc :=
  if !s.booting ∨ !s.boot.filled ∨ s.boot.verified ∨ s.boot.slot.isSome ∨ s.recovering ∨ s.rd R.HEARTH_STRAPS_BOOT = 2 ∨ 2 ≤ s.boot.tried.length then .next s
  else
    let h := fitLen 144 bytes
    let w := le32 36 h
    let len := w.getD 4 0
    let t := s.setBoot (fun b => { b with slot := some (h, fitLen 96 (bytes.drop (144 + len))) })
    .next (if w.getD 0 0 = 0x4D494B53 ∧ len ≤ 196608 then t.hearthWrite 0 (fitLen len (bytes.drop 144)) else t)

/-- The reason of R562 that rejects an image with this header, marked body and SIG; LENGTH above the limit before the
checks of R555. -/
def State.rejects (s : State) (h : List Nat) (body : List (Nat × Bool)) (sig : List Nat) : Option Nat :=
  let w := le32 36 h
  if w.getD 0 0 = 0x4D494B53 ∧ 196608 < w.getD 4 0 then some 2
  else match s.imageFault 1 (h ++ byteVals body ++ sig) with
    | some r => some r
    | none => if anyBad body then some 6 else none

/-- LENGTH of a header, within the limit. -/
def bodyLen (h : List Nat) : Nat := min ((le32 36 h).getD 4 0) 196608

/-- An image passes: it runs from ENTRY (R563, R597). -/
def State.runImage (s : State) (h : List Nat) : State :=
  let w := le32 36 h
  let t := s.setBoot (fun b => { b with verified := true, slot := none, version := w.getD 2 0, entry := w.getD 5 0 })
  let u := t.wr R.STRONG_OTP_STATE_BOOT_SLOT (nbits (w.getD 1 0) 8 2)
  (u.setStrong { u.strong with boot := some (nbits (w.getD 1 0) 8 2, w.getD 3 0) }).releaseCore hearthCore (w.getD 5 0)

/-- The image of the recovery copy at offset 0x4_0000: header, body, SIG and the reason that rejects it. -/
def State.recoveryImage (s : State) : List Nat × List (Nat × Bool) × Option Nat :=
  let hb := s.hearthRead 0x40000 144
  let h := byteVals hb
  let body := s.hearthRead (0x40000 + 144) (bodyLen h)
  let sb := s.hearthRead (0x40000 + 144 + bodyLen h) 96
  let r := s.rejects h body (byteVals sb)
  (h, body, if r.isNone ∧ (anyBad hb ∨ anyBad sb) then some 6 else r)

def State.bootReady (s : State) (slot : Nat) : State :=
  ((s.wr R.HEARTH_BOOT_STATUS_BOOT_SLOT slot).wr R.HOST_STATUS_BOOT 1).stepTo 11

/-- BOOT_IMAGE_VERIFY: steps 10 and 11, once the Strongroom and logic self-test are through. -/
def execBootImageVerify (s : State) : Outc :=
  if !s.booting ∨ s.boot.verified ∨ s.strongSt ≠ 1 ∨ !(s.boot.lbist || (s.boot.filled && s.bit R.HEARTH_BOOT_STATUS_FAST)) then .next s
  else
    let t := s.stepTo 10
    if s.recovering then
      match s.recoveryImage with
      | (h, body, none) => .next (((t.hearthWrite 0 (byteVals body)).runImage h).bootReady 2)
      | (_, _, some r) => .next (t.crier 10 (r * 2 ^ 16))
    else if s.rd R.HEARTH_STRAPS_BOOT = 2 then .next (t.crier 11 0)
    else match s.boot.slot with
      | none => .next s
      | some (h, sig) =>
        let n := (s.boot.tried.length + s.rd R.HEARTH_STRAPS_BOOT) % 2
        match s.rejects h (s.hearthRead 0 (bodyLen h)) sig with
        | none => .next ((t.runImage h).bootReady n)
        | some r =>
          let u := t.setBoot (fun b => { b with slot := none, tried := b.tried ++ [r] })
          match s.boot.tried with
          | [] => .next u
          | r0 :: _ => .next (u.crier 10 (if n = 1 then r0 * 256 + r else r * 256 + r0))

/-- HBM_TRAINING_END: step 12. -/
def execHbmTrainingEnd (stack : Fin 2) (repairs : Option (Fin 256)) (s : State) : Outc :=
  if !s.booting ∨ !s.boot.verified then .next s
  else match repairs with
    | none => .next (s.crier 15 stack.val)
    | some n =>
      let t := (s.wr (R.CELLAR_STACK_STATUS_TRAINED stack.val) 1).wr (R.CELLAR_STACK_STATUS_LANE_REPAIRS stack.val) n.val
      .next (if t.bit (R.CELLAR_STACK_STATUS_TRAINED 0) ∧ t.bit (R.CELLAR_STACK_STATUS_TRAINED 1) then t.stepTo 12 else t)

/-- CELLAR_FILL_END: the whole Cellar holds the zero codeword (R334). -/
def execCellarFillEnd (s : State) : Outc :=
  if s.inCrier ∨ ¬ s.bit (R.CELLAR_STACK_STATUS_TRAINED 0) ∨ ¬ s.bit (R.CELLAR_STACK_STATUS_TRAINED 1) then .next s
  else .next ((((s.setMem (s.ms.mem.fill cellarBase cellarEnd)).wr (R.CELLAR_STACK_STATUS_FILLED 0) 1).wr (R.CELLAR_STACK_STATUS_FILLED 1) 1).stepTo 13)

/-- BOOT_TIMEOUT (R564). -/
def execBootTimeout (s : State) : Outc :=
  match s.boot.t0 with
  | none => .next s
  | some t => if s.booting ∧ !s.boot.verified ∧ t + 880 * 65536000000 ≤ s.stp.now then .next (s.crier 12 (s.rd R.HEARTH_BOOT_STATUS_STEP)) else .next s

/-! ## Release (R565) -/

/-- A core has been released: RUNNING. -/
def State.nowRunning (s : State) : State := (s.wr R.HEARTH_BOOT_STATUS_STATE 1).stepTo 14

def State.hallVector (s : State) : Nat := s.rd R.HEARTH_HALL_VECTOR_HI * 2 ^ 32 + s.rd R.HEARTH_HALL_VECTOR_LO

/-- Release the core behind logical core `c` of hamlet `h`: at PC 0 of its active half, OFFLINE at the Reeve. -/
def State.releaseLogical (s : State) (h c : Nat) : State :=
  (s.releaseCore (9 * h + s.physOf h c) 0).modRcore h c (fun r => { r with st := .offline, ovrDone := false, taken := false })

/-- Instruction half 0 of a hamlet's cores is active, and its eight logical cores start. -/
def State.releaseHamlet (s : State) (h : Nat) : State :=
  let t := (List.range 8).foldl (fun t c => (t.releaseLogical h c).wr (R.HAMLET_IMEM_STATUS_ACTIVE h c) 0) s
  { t with hml := { t.hml with released := h :: t.hml.released.filter (· != h) } }

/-- HEARTH_RELEASE: from the Hearth, once the Cellar is ready and every Granary bank is ON. -/
def execHearthRelease (mid : Mid) (v : Word) (s : State) : Outc :=
  if mid ≠ hearthMid then .next s.refusedAns
  else if !([0, 1].all (fun k => s.bit (R.CELLAR_STACK_STATUS_TRAINED k) && s.bit (R.CELLAR_STACK_STATUS_FILLED k)) &&
      (List.range 64).all (fun b => s.rd (R.GRANARY_BANK_PWR_STATE b) == 0)) then .next (s.wr R.HEARTH_BOOT_STATUS_REFUSED 1).ack
  else
    let hall := (List.range 16).filter (fun k => bitOf v k && !nbit (s.rd R.HEARTH_RELEASE_HALL) k)
    let ham := (List.range 16).filter (fun h => bitOf v (16 + h) && !nbit (s.rd R.HEARTH_RELEASE_HAMLET) h)
    let t := hall.foldl (fun t k => (t.releaseCore (144 + k) s.hallVector).wr R.HEARTH_RELEASE_HALL (t.rd R.HEARTH_RELEASE_HALL + 2 ^ k)) s
    let u := ham.foldl (fun t h => (t.releaseHamlet h).wr R.HEARTH_RELEASE_HAMLET (t.rd R.HEARTH_RELEASE_HAMLET + 2 ^ h)) t
    .next (if hall = [] ∧ ham = [] then u.ack else u.nowRunning.ack)

/-! ## The Crier state (R567 to R573) -/

/-- HEARTH_CRIER_ENTER: from the Hearth only. -/
def execHearthCrierEnter (mid : Mid) (v : Word) (s : State) : Outc :=
  if mid ≠ hearthMid then .next s.refusedAns else .next (s.crier 16 v.toNat).ack

/-- HEARTH_LOCKSTEP_MISMATCH. -/
def execHearthLockstepMismatch (s : State) : Outc := .next (s.crier 13 0)

/-- The record is frozen (R571). -/
def State.freezeRecord (s : State) (cause detail : Nat) : State :=
  let at_ := match s.boot.t0 with
    | some t => (s.stp.now - t) / 65536000000
    | none => 0
  let t := (s.wr R.HEARTH_BOOT_STATUS_STATE 2).wr R.HEARTH_BOOT_STATUS_CAUSE cause
  let u := (List.range 12).foldl (fun x w => x.wr (R.CRIER_RECORD w) (if w = 1 then detail else if w = 4 then at_ else t.liveWord w)) t
  u.setBoot (fun b => { b with crierAt := some s.stp.now })

/-- Every local port but those of the host interface, the Hearth and the Strongroom is CLOSED; it is DRAINED where nothing of
its unit is unanswered. -/
def State.crierPort (s : State) (n : Nat) : State :=
  let busy := s.net.ejected.any (fun e => e.pkt.dest == n) || s.net.outs.any (fun o => o.src == n)
  (s.setPortSt (n / 4) (4 + n % 4) 4).wrB (R.COMMONS_RTR_PORT_STATUS_DRAINED (n / 4) (4 + n % 4)) (!busy)

/-- Power-off is requested for every domain (R569, R570): the gate may refuse it. -/
def State.crierPower (s : State) (d : Nat) : State :=
  if s.rd (R.PWR_DOM_STATE d) = 1 then s
  else
    let x := s.gateCheck d false
    if x.1 = 0 then x.2.wr (R.PWR_DOM_STATE d) 2 else x.2

/-- CRIER_ENTRY: what R569 does, as one command; each POWER_DOWN then ends its domain's power-off. -/
def execCrierEntry (s : State) : Outc :=
  match s.boot.crierDue with
  | none => .next s
  | some (cause, detail) =>
    if s.inCrier then .next s
    else
      let t := ((s.freezeRecord cause detail).holdCore hearthCore).wr R.HOST_STATUS_BOOT 2
      let u := (List.range 32).foldl (fun x p => x.wr (R.MARKET_PORT_STATUS_STATE p) 0) { t with pins := { t.pins with crierLow := true, quiet := true } }
      let v := ((List.range 256).filter (fun n => niPresent n && n != 5 && n != 9 && n != 13)).foldl State.crierPort u
      let w := (List.range 16).foldl State.fallow v
      let x := (List.range 64).foldl (fun y b => (y.wr (R.GRANARY_BANK_PWR_STATE b) 2).setMem (y.ms.mem.fill (b * 0x100000) ((b + 1) * 0x100000))) w
      .next ((List.range 48).foldl State.crierPower x)

/-- `n` uppercase hexadecimal digits, and `n` decimal digits, as ASCII. -/
def hexDigits (n v : Nat) : List Nat := (List.range n).map (fun i => let d := v / 16 ^ (n - 1 - i) % 16; if d < 10 then 48 + d else 55 + d)
def decDigits (n v : Nat) : List Nat := (List.range n).map (fun i => 48 + v / 10 ^ (n - 1 - i) % 10)

/-- The line of R572. -/
def State.crierLine (s : State) : List Nat :=
  let w := s.crierWord
  let secs := min ((s.stp.now - s.boot.crierAt.getD 0) / 65536000000000) 999999
  [67, 82, 73, 69, 82, 32, 71, 56, 32, 66, 49, 32, 83, 78, 61] ++ hexDigits 8 (w 11) ++ [45] ++ hexDigits 8 (w 10) ++ [45] ++ hexDigits 8 (w 9) ++ [45] ++
    hexDigits 8 (w 8) ++ [32, 67, 61] ++ hexDigits 2 (w 0 / 2 ^ 16) ++ [32, 83, 61] ++ hexDigits 2 (w 0 / 256) ++ [32, 68, 61] ++ hexDigits 8 (w 1) ++
    [32, 84, 61] ++ decDigits 6 secs ++ [32, 78, 61] ++ hexDigits 4 (s.boot.lines % 65536) ++ [13, 10]

/-- CRIER_UART_LINE: no line follows another by less than 990 ms. -/
def execCrierUartLine (s : State) : Outc :=
  if !s.inCrier ∨ s.boot.line.any (fun t => decide (s.stp.now < t + 990 * 65536000000)) then .next s
  else .next ((s.send (.uart s.crierLine)).setBoot (fun b => { b with line := some s.stp.now, lines := b.lines + 1 }))

/-! ## I²C (R573) -/

/-- The target answers from step 2 on. -/
def State.i2cOn (s : State) : Bool := decide (2 ≤ s.rd R.HEARTH_BOOT_STATUS_STEP)

/-- I2C_WRITE. -/
def execI2cWrite (bytes : List Nat) (s : State) : Outc :=
  match bytes with
  | b :: _ => .next (if s.i2cOn then s.setBoot (fun x => { x with ptr := b % 64 }) else s)
  | [] => .next s

/-- Byte `i` of the target. -/
def State.i2cByte (s : State) (i : Nat) : Nat := if i < 48 then s.crierWord (i / 4) / 256 ^ (i % 4) % 256 else 0

/-- I2C_READ. -/
def execI2cRead (n : Nat) (cut : Bool) (s : State) : Outc :=
  if !s.i2cOn then .next s
  else .next ((s.send (.i2c ((List.range n).map (fun i => s.i2cByte ((s.boot.ptr + i) % 64))))).setBoot
    (fun x => { x with ptr := (x.ptr + n) % 64, sda := cut }))

/-- I2C_SCL_TIMEOUT. -/
def execI2cSclTimeout (s : State) : Outc := .next (s.setBoot (fun x => { x with sda := false }))

/-! ## Recovery and device reset (R575, R576, R608) -/

/-- The recovery registers answer. -/
def State.recoveryOpen (s : State) : Bool := s.inCrier && s.rd R.HEARTH_BOOT_STATUS_CAUSE != 13

/-- HEARTH_RCV_DATA_WRITE. -/
def execHearthRcvDataWrite (off : Fin 262144) (bytes : List Nat) (whole : Bool) (s : State) : Outc :=
  if !s.recoveryOpen ∨ bytes.length % 4 ≠ 0 ∨ off.val % 4 ≠ 0 ∨ !whole ∨ 0x40000 < off.val + bytes.length then .next s.refusedAns
  else .next (s.writeBytes 0xC0 false (hearthBase + 0x40000 + off.val) (bytes.map (BitVec.ofNat 8))).ack

/-- The device reset: everything returns to its reset state but what R608 keeps, LAST_CAUSE, MISSED and the OTP; a recovery
reset also keeps the upper half of Hearth SRAM. RESET_N_RELEASE then starts the boot. -/
def State.deviceReset (s : State) (cause : Nat) (recovery : Bool) : State :=
  let keep := fun (k : Nat) => recovery && decide (hearthBase + 0x40000 ≤ k) && decide (k < hearthBase + hearthSize)
  let r : State := { State.reset with pending := s.pending, free := s.free, sent := s.sent, ans := s.ans }
  let t := r.setMem ⟨s.ms.mem.data.clear (fun k => !keep k), s.ms.mem.check.clear (fun k => !keep k)⟩
  let u := t.setStrong { t.strong with revoked := s.strong.revoked, rollback := s.strong.rollback, dukGone := s.strong.dukGone, drbg := s.strong.drbg }
  ((u.wr R.HEARTH_RESET_STATUS_LAST_CAUSE cause).wr R.HEARTH_RESET_STATUS_MISSED (s.rd R.HEARTH_RESET_STATUS_MISSED)).wrB R.HEARTH_STRAPS_RECOVERY recovery

/-- RECOVERY_REBOOT. -/
def execRecoveryReboot (v : Word) (s : State) : Outc :=
  if !s.recoveryOpen then .next s.refusedAns
  else if bitsOf v 16 16 = 0x5243 ∧ bitOf v 0 then .next (s.deviceReset 4 true).ack
  else .next s.ack

end Sys2Proof.Machine
end

