-- ==== Sys2Proof/Machine/Carter.lean ====
section
/-! DEFINITION. Machine/Carter.lean: the DMA engines (chapter 15). Channels go by their global numbers (R414).
Choices of the model: log entries 48 (DEDUCED). -/

namespace Sys2Proof.Machine

/-- Channel `g` of a hamlet Carter: hamlet and local channel. -/
def carterHamlet (g : Nat) : Option Nat := if g < 64 then none else some ((g - 64) / 8)
def carterMid (g : Nat) : Mid := if g < 64 then 0xB0 else BitVec.ofNat 8 (0x90 + (g - 64) / 8)

/-- A field of channel `g`: hamlet channels have the same registers in the hamlet block (R431). -/
def chFld (g : Nat) (f : Nat → Fld) : Fld :=
  if g < 64 then f g
  else { f 0 with addr := (f 0).addr - 0x49001000 + 0x10F04100 + (g - 64) / 8 * 0x01000000 + (g - 64) % 8 * 0x40 }

/-- A block register of the Carter of channel `g`. -/
def carterFld (g : Nat) (f : Fld) : Fld :=
  if g < 64 then f else { f with addr := f.addr - 0x49000000 + 0x10F04000 + (g - 64) / 8 * 0x01000000 }

def State.carter (s : State) (g : Nat) : CarterCh := s.crt.chans.get g

/-- The registers show the channel (R431). -/
def State.setCarter (s : State) (g : Nat) (x : CarterCh) : State :=
  let t := { s with crt := { s.crt with chans := s.crt.chans.set g x } }
  let w := match x.win with | some p => some p | none => x.plan
  (((t.wrB (chFld g R.CARTER_CH_STATE_PLAN_READY) x.plan.isSome).wrB (chFld g R.CARTER_CH_STATE_WINDOWED) x.win.isSome).wr
    (chFld g R.CARTER_CH_STATE_LOCK_GROUP) ((w.map (·.group)).getD 0)).wr (chFld g R.CARTER_CH_STATE_WTAG) ((w.map (·.wtag)).getD 0)

/-- STATE: 0 IDLE, 1 RUNNING, 2 STOPPING. -/
def State.carterSt (s : State) (g : Nat) : Nat := s.rd (chFld g R.CARTER_CH_STATE_STATE)

/-! ## Descriptors (R415, R416) -/

def CarterDesc.w (d : CarterDesc) (i : Nat) : Nat := d.words.getD i 0
def CarterDesc.rows (d : CarterDesc) : Nat := nbits (d.w 1) 24 8 + 1
def CarterDesc.len (d : CarterDesc) : Nat := nbits (d.w 1) 0 24
def CarterDesc.zero (d : CarterDesc) : Bool := nbits (d.w 0) 28 2 == 1
def CarterDesc.src (d : CarterDesc) (r : Nat) : Nat := d.w 2 + nbits (d.w 4) 24 8 * 2 ^ 32 + r * nbits (d.w 5) 16 16
def CarterDesc.dst (d : CarterDesc) (r : Nat) : Nat := d.w 3 + nbits (d.w 4) 16 8 * 2 ^ 32 + r * nbits (d.w 5) 0 16
def CarterDesc.last (d : CarterDesc) : Bool := nbit (d.w 7) 31
def CarterDesc.bytes (d : CarterDesc) : Nat := d.len * d.rows

/-- Word 0x1C fails R416; `gran`: the Granary Carter. -/
def CarterDesc.badNext (d : CarterDesc) (gran : Bool) : Bool :=
  nbits (d.w 7) 26 4 != 0 || nbits (d.w 7) 0 5 != 0 || (!d.last && gran && nbit (d.w 7) 30)

/-- All bytes of a range are permitted targets (R416). -/
def permitted (a n : Nat) : Bool :=
  let inside := fun (lo hi : Nat) => decide (lo ≤ a) && decide (a + n ≤ hi)
  inside 0 granaryEnd || inside cellarBase cellarEnd || inside 0x80000000 0xC0000000 || inside 0x1000000000 0xA000000000 ||
  (decide (0x10000000 ≤ a) && decide (a < 0x20000000) &&
    (let h := a / 0x01000000 * 0x01000000
     let o := a % 0x01000000
     inside h (h + 0x200000) ||
     (decide (0x800000 ≤ o) && decide (o < 0xC80000) &&
       (let p := h + 0x800000 + (o - 0x800000) / 0x80000 * 0x80000
        inside p (p + 0x50000)))))

/-- Bytes of one row that are both source and destination. -/
def rowOverlap (a b n : Nat) : Bool := decide (a < b + n) && decide (b < a + n)

/-- The descriptor fails R416. -/
def CarterDesc.bad (d : CarterDesc) (gran : Bool) : Bool :=
  d.badNext gran || nbits (d.w 0) 24 2 != 0 || decide (1 < nbits (d.w 0) 28 2) || d.len == 0 || (!nbit (d.w 0) 27 && d.w 6 != 0) ||
  (d.rows == 1 && d.w 5 != 0) || (d.zero && (d.w 2 != 0 || nbits (d.w 4) 24 8 != 0 || nbits (d.w 5) 16 16 != 0)) ||
  (List.range d.rows).any (fun r => !permitted (d.dst r) d.len || (!d.zero && (!permitted (d.src r) d.len || rowOverlap (d.src r) (d.dst r) d.len)))

/-- The bus address of a descriptor (SPACE, address), if it lies in the permitted space (R415). -/
def descAddr (g : Nat) (f : Bool × Nat) : Option Nat :=
  if !f.1 then (if f.2 < granaryEnd then some f.2 else none)
  else match carterHamlet g with
    | none => none
    | some h => if f.2 < 0x200000 then some (barnBase h + f.2) else none

/-! ## Starting (R417 to R419) -/

/-- A START is refused (R417). -/
def State.startRefused (s : State) (g : Nat) (v : Word) : Bool :=
  s.carterSt g != 0 || !s.bit (carterFld g R.CARTER_CTRL_ENABLE) || (decide (g < 64) && bitOf v 28)

/-- A run begins with the fetch of its first descriptor. -/
def State.startRun (s : State) (g : Nat) (x : CarterCh) (fetch : Bool × Nat) (win : Option CarterPlan) : State :=
  let y : CarterCh := { x with
    win := win, fetch := some fetch, desc := none, anyBad := false, anyLapsed := false, anyPoisoned := false,
    ending := none, halt := none, final := none, abortLate := false }
  ((s.setCarter g y).wr (chFld g R.CARTER_CH_STATE_STATE) 1).wr (chFld g R.CARTER_CH_STATE_DESC_COUNT) 0

/-- CARTER_START_LOOSE (R417). -/
def execCarterStartLoose (g : Fin 192) (v : Word) (s : State) : Outc :=
  let g := g.val
  if !bitOf v 31 ∨ bitOf v 29 then .next s
  else if s.startRefused g v then .next (s.inc (chFld g R.CARTER_CH_COUNTS_REFUSED_STARTS))
  else .next (s.startRun g (s.carter g) (bitOf v 28, bitsOf v 5 21 * 32) none)

/-- CARTER_START_PLANNED: the list is consumed, or the start is dropped (R419). -/
def execCarterStartPlanned (g : Fin 192) (v : Word) (s : State) : Outc :=
  let g := g.val
  let x := s.carter g
  if !bitOf v 31 ∨ !bitOf v 29 then .next s
  else if s.startRefused g v then .next (s.inc (chFld g R.CARTER_CH_COUNTS_REFUSED_STARTS))
  else match x.plan with
    | none => .next (s.inc (carterFld g R.CARTER_DROP_UNPLANNED))
    | some p =>
      if s.reached p.sweepNs then .next ((s.setCarter g { x with plan := none }).inc (carterFld g R.CARTER_DROP_UNPLANNED))
      else .next (s.startRun g { x with plan := none } (p.space, p.head) (some p))

/-- Entries of part 2: (channel, SPACE, head) (R418). -/
def listsOf : List Word → List (Nat × Bool × Nat)
  | a :: b :: r => (bitsOf a 24 8, bitOf b 30, bitsOf b 5 21 * 32) :: listsOf r
  | _ => []

/-- Part 2 is rejected at arming (R418). -/
def part2Bad : List Word → List Nat → Bool
  | a :: b :: r, seen =>
    let c := bitsOf a 24 8
    bitsOf a 0 24 != 0 || bitOf b 31 || bitsOf b 26 4 != 0 || bitsOf b 0 5 != 0 || decide (191 < c) || (decide (c < 64) && bitOf b 30) ||
      seen.contains c || part2Bad r (c :: seen)
  | _, _ => false

/-- At the commit instant each entry becomes its channel's planned list (R419). -/
def State.commitLists (s : State) (group wtag : Nat) (sweepNs : Int) (l : List (Nat × Bool × Nat)) : State :=
  l.foldl (fun t e =>
    let x := t.carter e.1
    let u := if x.plan.isSome then t.inc (chFld e.1 R.CARTER_CH_COUNTS_PLAN_REPLACED) else t
    u.setCarter e.1 { x with plan := some ⟨e.2.1, e.2.2, group, wtag, sweepNs⟩ }) s

/-! ## Fetching (R416, R421, R424) -/

/-- CARTER_DESC_FETCH: one read of the descriptor; it is checked and becomes current, or fails, or the channel will halt. -/
def execCarterDescFetch (g : Fin 192) (s : State) : Outc :=
  let g := g.val
  let x := s.carter g
  match x.fetch with
  | none => .next s
  | some f =>
    let t := (s.wrB (chFld g R.CARTER_CH_CUR_SPACE) f.1).wr (chFld g R.CARTER_CH_CUR_ADDR) (f.2 / 32)
    match descAddr g f with
    | none => .next (t.setCarter g { x with fetch := none, halt := some (4, true) })
    | some a =>
      match t.dmaRead (carterMid g) a 32 with
      | (none, u) => .next (u.setCarter g { x with fetch := none, halt := some (4, true) })
      | (some l, u) =>
        let w := u.inc (chFld g R.CARTER_CH_STATE_DESC_COUNT)
        if anyBad l then .next (w.setCarter g { x with fetch := none, halt := some (3, true) })
        else
          let d : CarterDesc := { addr := a, words := le32 8 (byteVals l), good := true }
          if d.bad (decide (g < 64)) then .next (w.setCarter g { x with fetch := none, desc := some { d with good := false, decided := some 4 } })
          else .next ((w.setCarter g { x with fetch := none, desc := some d }).ledgerCount (ledgerId 7 g) d.bytes 0)

/-! ## Bursts (R420, R422, R425, R429, R430) -/

/-- The deadline of a descriptor: its own, or the sweep instant in a windowed run (R425). -/
def CarterCh.lapsed (x : CarterCh) (s : State) (d : CarterDesc) : Bool :=
  if nbit (d.w 0) 27 then passed s.tick (d.w 6)
  else match x.win with
    | some p => s.reached p.sweepNs
    | none => false

/-- A burst of the descriptor is still to be issued. -/
def CarterDesc.more (d : CarterDesc) : Bool := d.good && d.decided.isNone && decide (d.row < d.rows)

/-- The channel could issue a burst now. -/
def State.burstReady (s : State) (g : Nat) : Bool :=
  match (s.carter g).desc with
  | some d => s.carterSt g == 1 && d.more && decide (d.out.length < 8)
  | none => false

/-- Channels of the Carter of channel `g`. -/
def carterChans (g : Nat) : List Nat := if g < 64 then List.range 64 else (List.range 8).map (fun c => 64 + (g - 64) / 8 * 8 + c)

def carterKey (g : Nat) (prio : Bool) : Nat := (if g < 64 then 0 else 1 + (g - 64) / 8) * 2 + (if prio then 1 else 0)

/-- The channel that its Carter serves next: PRIO = 1 first, each group in turn by channel number (R420). -/
def State.carterNext (s : State) (g : Nat) : Option Nat :=
  let pick := fun (p : Bool) =>
    let l := (carterChans g).filter (fun c => s.bit (chFld c R.CARTER_CH_CFG_PRIO) == p && s.burstReady c)
    match s.crt.last.get (carterKey g p) with
    | none => l.head?
    | some k => match l.find? (fun c => decide (k < c)) with | some c => some c | none => l.head?
  match pick true with
  | some c => some c
  | none => pick false

/-- The Cellar, after the device's own parish window is mapped back (R18). -/
def State.ownAddr (s : State) (a : Nat) : Nat :=
  if 0x2000000000 ≤ a ∧ a < 0xA000000000 ∧ s.bit R.EWL_PARISH_IN_PARISH ∧ a / 0x1000000000 - 2 = s.rd R.EWL_PARISH_MEMBER then a % 0x1000000000 else a

/-- The address lies in the device's own memory. -/
def inDevice (a : Nat) : Bool := decide (a < 0x20000000) || (decide (cellarBase ≤ a) && decide (a < cellarEnd))

/-- Bytes of the next burst: no 4 KiB boundary of the destination is crossed, nor a 256-byte boundary in the Cellar. -/
def State.burstLen (s : State) (d : CarterDesc) : Nat :=
  let a := d.dst d.row + d.off
  let o := s.ownAddr a
  let n := min (d.len - d.off) (4096 - a % 4096)
  if cellarBase ≤ o ∧ o < cellarEnd then min n (256 - a % 256) else n

/-- Decide a descriptor's status, if none is decided (R422). -/
def CarterDesc.fix (d : CarterDesc) (st : Nat) : CarterDesc := { d with decided := d.decided.or (some st) }

/-- CARTER_BURST: the Carter serves the channel whose turn it is; a passed deadline decides LAPSED instead (R420, R425). -/
def execCarterBurst (g : Fin 192) (s : State) : Outc :=
  let g := g.val
  let x := s.carter g
  match x.desc with
  | none => .next s
  | some d =>
    if s.carterNext g ≠ some g then .next s
    else if x.lapsed s d then .next (s.setCarter g { x with desc := some (d.fix 1) })
    else
      let n := s.burstLen d
      let done : Bool := decide (d.len ≤ d.off + n)
      let e : CarterDesc := { d with
        out := d.out ++ [(d.src d.row + d.off, d.dst d.row + d.off, n)], row := if done then d.row + 1 else d.row, off := if done then 0 else d.off + n }
      let t := s.setCarter g { x with desc := some e }
      let k := carterKey g (s.bit (chFld g R.CARTER_CH_CFG_PRIO))
      .next { t with crt := { t.crt with last := t.crt.last.set k (some g) } }

/-- CARTER_DESC_DEADLINE_LAPSE (R425). -/
def execCarterDescDeadlineLapse (g : Fin 192) (s : State) : Outc :=
  let x := s.carter g.val
  match x.desc with
  | none => .next s
  | some d => if d.more ∧ x.lapsed s d then .next (s.setCarter g.val { x with desc := some (d.fix 1) }) else .next s

/-- The bytes that a burst reads: zeros for ZERO, the device's memory, or what arrives from beyond it. -/
def State.burstSource (s : State) (g : Nat) (d : CarterDesc) (src n : Nat) (ext : List (Nat × Bool)) : Option (List (Nat × Bool)) × State :=
  if d.zero then (some (List.replicate n (0, false)), s)
  else if inDevice (s.ownAddr src) then s.dmaRead (carterMid g) (s.ownAddr src) n
  else (some ((ext ++ List.replicate n (0, false)).take n), s)

/-- The marks that a burst's bytes carry: each byte its source word's mark (R429). -/
def burstPoison (l : List (Nat × Bool)) : Bool := l.any Prod.snd

/-- A burst moves its bytes: the ledger takes them back at the answer (R430). -/
def State.moveBurst (s : State) (g : Nat) (x : CarterCh) (d : CarterDesc) (n : Nat) (bad : Bool) : State :=
  ((s.setCarter g { x with desc := some { d with moved := d.moved + n, poison := d.poison || bad } }).ledgerCount (ledgerId 7 g) 0 n).add
    (chFld g R.CARTER_CH_BYTES) n

/-- CARTER_BURST_ANSWER (R422, R429, R430). -/
def execCarterBurstAnswer (g : Fin 192) (i : Fin 8) (a : BurstAnswer) (s : State) : Outc :=
  let g := g.val
  let x := s.carter g
  match x.desc with
  | none => .next s
  | some d0 =>
    match d0.out[i.val]? with
    | none => .next s
    | some b =>
      let d : CarterDesc := { d0 with out := d0.out.eraseIdx i.val }
      let fail := fun (t : State) (st : Nat) => t.setCarter g { x with desc := some (d.fix st) }
      match a with
      | .error .lapsed => .next (fail s 1)
      | .error .ok => .next s
      | .error .poisoned => .next (s.moveBurst g x d b.2.2 true)
      | .error _ => .next (fail s 4)
      | .hostPoisoned => .next (s.moveBurst g x d b.2.2 true)
      | .served ext =>
        match s.burstSource g d b.1 b.2.2 ext with
        | (none, t) => .next (fail t 4)
        | (some l, t) =>
          if inDevice (s.ownAddr b.2.1) then
            let y := t.dmaWrite (carterMid g) (s.ownAddr b.2.1) l
            if y.1 then .next (y.2.moveBurst g x d b.2.2 (burstPoison l)) else .next (fail y.2 4)
          else .next (t.moveBurst g x d b.2.2 (burstPoison l))

/-! ## Ends (R422 to R424, R428) -/

/-- Interrupt causes of a channel: END and DESC to the chosen destination (R428). -/
def State.carterIrq (s : State) (g : Nat) : State :=
  if !s.bit (chFld g R.CARTER_CH_CFG_IRQ_EN) then s
  else
    let d := s.rd (chFld g R.CARTER_CH_CFG_DEST)
    if d = 0 then s.irq .carter g
    else if d = 2 then s.irqHost (64 + g)
    else match d, carterHamlet g with
      | 1, some h => (List.range 9).foldl (fun t c => t.coreIrq (9 * h + c) 4) s
      | _, _ => s

/-- The name a descriptor's token goes to (R415): DECR_WIN takes the window of a windowed run. -/
def CarterCh.tokenName (x : CarterCh) (d : CarterDesc) : Nat :=
  let n := nbits (d.w 0) 0 24
  match x.win with
  | some p => if nbit (d.w 0) 26 then p.group * 65536 + p.wtag * 4096 + n % 4096 else n
  | none => n

/-- The status with which a descriptor ends (R422): 0 OK, 1 LAPSED, 2 ABORTED, 3 POISONED, 4 BAD_DESC. -/
def CarterDesc.status (d : CarterDesc) : Nat := d.decided.getD (if d.poison then 3 else 0)

/-- What follows the end of a descriptor: the run ends, halts, or goes on with NEXT (R423, R424, R426, R427). -/
def CarterCh.after (x : CarterCh) (d : CarterDesc) (gran wbOk full : Bool) : CarterCh :=
  match x.ending with
  | some 1 => { x with final := some (1, false) }
  | some _ => { x with final := some (2, false) }
  | none =>
    if !wbOk then { x with halt := some (4, true) }
    else if d.badNext gran then { x with halt := some (4, false) }
    else if d.last then { x with final := some (0, false) }
    else if full then { x with halt := some (5, false) }
    else { x with fetch := some (nbit (d.w 7) 30, nbits (d.w 7) 5 21 * 32) }

/-- CARTER_DESC_END: when every burst is answered, the WB field is written, the bytes not moved are returned, and then the
token leaves (R422, R423). -/
def execCarterDescEnd (g : Fin 192) (s : State) : Outc :=
  let g := g.val
  let x := s.carter g
  match x.desc with
  | none => .next s
  | some d =>
    if d.out ≠ [] ∨ d.more then .next s
    else
      let st := d.status
      let wb := s.dmaWrite (carterMid g) (d.addr + 0x10) (clean [0, 0x80 + st * 8])
      let left := if d.good then d.bytes - d.moved else 0
      let t := wb.2.ledgerCount (ledgerId 7 g) 0 left
      let full : Bool := decide (s.rd (chFld g R.CARTER_CH_CFG_LIMIT) ≤ s.rd (chFld g R.CARTER_CH_STATE_DESC_COUNT))
      let y : CarterCh := { x with desc := none, anyBad := x.anyBad || st == 4, anyLapsed := x.anyLapsed || st == 1, anyPoisoned := x.anyPoisoned || st == 3 }
      let u := t.setCarter g (y.after d (decide (g < 64)) wb.1 full)
      let c := if st = 4 then u.inc (chFld g R.CARTER_CH_BAD) else if st = 1 then u.inc (chFld g R.CARTER_CH_LAPSED)
        else if st = 3 then u.inc (chFld g R.CARTER_CH_POISONED) else u
      let k := if nbit (d.w 0) 31 then c.sendToken false ⟨x.tokenName d, !(st == 0 || st == 3), 0xFFFF⟩ else c
      .next (if nbit (d.w 0) 30 then (k.wr (chFld g R.CARTER_CH_IRQ_DESC) 1).carterIrq g else k)

/-- CARTER_CHAIN_HALT (R424). -/
def execCarterChainHalt (g : Fin 192) (s : State) : Outc :=
  let x := s.carter g.val
  match x.halt with
  | none => .next s
  | some h => .next (s.setCarter g.val { x with halt := none, final := some h })

/-- CARTER_RUN_END: the channel becomes IDLE, its result is placed and END sets (R428). -/
def execCarterRunEnd (g : Fin 192) (s : State) : Outc :=
  let g := g.val
  let x := s.carter g
  match x.final, x.desc with
  | some (e, f), none =>
    let b := fun (c : Bool) (i : Nat) => if c then 2 ^ i else 0
    let r := e * 2 ^ 58 + b (x.abortLate && e == 0) 57 + b f 56 + b x.anyBad 55 + b x.anyLapsed 54 + b x.anyPoisoned 53 + x.seq % 256 * 2 ^ 40 +
      s.rd (chFld g R.CARTER_CH_STATE_DESC_COUNT)
    let y : CarterCh := { x with win := none, fetch := none, ending := none, final := none, abortLate := false, placed := some r, seq := (x.seq + 1) % 256 }
    .next ((((s.setCarter g y).wr (chFld g R.CARTER_CH_STATE_STATE) 0).wr (chFld g R.CARTER_CH_IRQ_END) 1).carterIrq g)
  | _, _ => .next s

/-- CARTER_RESULT_TAKE: the take-once rule of R214 (R428). -/
def execCarterResultTake (g : Fin 192) (wide : Bool) (s : State) : Outc :=
  let x := s.carter g.val
  let say := fun (t : State) (v : Nat) => t.reply ⟨.ok, 0, [⟨BitVec.ofNat 64 v, false⟩]⟩
  if !wide then .next (say s 0)
  else match x.placed, x.taken with
    | some b, _ => .next (say (s.setCarter g.val { x with placed := none, taken := some b }) (2 ^ 63 + b))
    | none, some b => .next (say s (2 ^ 62 + b))
    | none, none => .next (say s 0)

/-! ## Sweep and stop (R426, R427) -/

/-- The run will end by a sweep (1) or a STOP (2): a current descriptor ends with that status, and one that is not current,
or is yet to be fetched, is discarded. -/
def CarterCh.endBy (x : CarterCh) (why : Nat) : CarterCh :=
  match x.desc with
  | some d =>
    if d.good then { x with fetch := none, ending := x.ending.or (some why), desc := some (d.fix why) }
    else { x with fetch := none, desc := none, final := some (why, false) }
  | none => { x with fetch := none, final := x.final.or (some (why, false)) }

/-- CARTER_STOP (R427). -/
def execCarterStop (g : Fin 192) (s : State) : Outc :=
  let g := g.val
  let x := s.carter g
  if s.carterSt g ≠ 1 then .next s
  else if x.final.isSome ∨ x.halt.isSome ∨ x.ending.isSome then .next (s.setCarter g { x with abortLate := true })
  else .next ((s.setCarter g (x.endBy 2)).wr (chFld g R.CARTER_CH_STATE_STATE) 2)

/-- CARTER_SWEEP: every run of the window, and every planned list that was not started (R419, R426). -/
def execCarterSweep (group : Fin 64) (wtag : Fin 16) (s : State) : Outc :=
  let mine : State → Option CarterPlan → Bool := fun t p => match p with
    | some q => q.group == group.val && q.wtag == wtag.val && t.reached q.sweepNs
    | none => false
  .next ((List.range 192).foldl (fun t g =>
    let x0 := t.carter g
    let x : CarterCh := if mine t x0.plan then { x0 with plan := none } else x0
    if t.carterSt g ≠ 0 ∧ mine t x.win ∧ x.final.isNone ∧ x.halt.isNone ∧ x.ending ≠ some 1 then
      (t.setCarter g (x.endBy 1)).inc (carterFld g R.CARTER_SWEEP_STOPPED)
    else if x = x0 then t else t.setCarter g x) s)

/-- Bytes of a window that the Carters' ledgers still show outstanding 4 µs after its sweep (R426). -/
def State.carterResidue (s : State) (g w : Nat) : Nat :=
  (List.range 192).foldl (fun n c => match (s.carter c).win with
    | some p => if p.group = g ∧ p.wtag = w ∧ s.carterSt c ≠ 0 then n + (s.ledgerOut (ledgerId 7 c)).toNat else n
    | none => n) 0

end Sys2Proof.Machine
end

