-- ==== Sys2Proof/Machine/Horty.lean ====
section
/-! DEFINITION. Machine/Horty.lean: a core issues sheaves, takes traps and interrupts, has its loads and stores answered,
and its instruction halves written and flipped (R59 to R106, R197 to R207).
Choices of the model: log entries 26 (DEDUCED), 27 (DESIGN CHOICE), 28 (DEDUCED), 29 (DEDUCED), 32 (DESIGN CHOICE). -/

namespace Sys2Proof.Machine

/-! ## Traps (R73 to R81) -/

def levelCode : Level → Nat
  | .worker => 0
  | .steward => 1
  | .keeper => 3

def levelOf (n : Nat) : Level := if n = 3 then .keeper else if n = 1 then .steward else .worker

/-- STATUS[7:0] (R66). -/
def Core.status (c : Core) : Nat := (if c.tce then 128 else 0) + (if c.ie then 16 else 0) + levelCode c.level

/-- Number of the first trap register of a level. -/
def trapBase : Level → Nat
  | .keeper => 0xC00
  | _ => 0x400

def Core.busy (c : Core) (l : Level) : Bool := nbit (c.cr (trapBase l + 4)) 31
def Core.anyBusy (c : Core) : Bool := c.busy .keeper || c.busy .steward

/-- The level of a synchronous cause before escalation (R73). -/
def Core.routeSync (c : Core) (code : Nat) : Level :=
  match c.level with
  | .keeper => .keeper
  | .steward => if nbit (c.cr 0xC07) (code - 1) then .steward else .keeper
  | .worker => if nbit (c.cr 0xC06) (code - 1) then .steward else .keeper

/-- The level of an interrupt (R73). -/
def Core.routeIrq (c : Core) (code : Nat) : Level := if nbits (c.cr 0xC08) (2 * code) 2 = 1 then .steward else .keeper

/-- What a trap entry writes beside level and pc. -/
structure Entry where
  code : Nat
  irq : Bool := false
  resume : Nat
  tval : Nat := 0
  defer : Bool := false
  use : Nat := 0
  reg : Nat := 0
  file : Nat := 0
  slot : Nat := 0
deriving DecidableEq, Repr

/-- Write the trap registers of level `t` and enter it (R80). -/
def Core.enter (c : Core) (k : Nat) (t : Level) (esc : Bool) (e : Entry) : Core :=
  let b := trapBase t
  let bit := fun (p : Bool) (n : Nat) => if p then 2 ^ n else 0
  let ts := 2 ^ 31 + bit e.defer 30 + bit esc 24 + c.status * 2 ^ 16 + e.use * 2 ^ 12 + e.reg * 2 ^ 7 + e.file * 2 ^ 5 +
    e.slot * 2 ^ 3 + bit (isD k && decide (c.cr 1 % 65536 ≠ 0)) 2
  { ((((c.setCr (b + 2) e.resume).setCr (b + 1) ((if e.irq then 0x100 else 0) + e.code)).setCr (b + 3) (e.tval % 2 ^ xlen k)).setCr (b + 4) ts) with
    ie := false, level := t,
    pc := ((c.cr b) + (if e.irq then e.code * 0x40 else 0)) % 2 ^ xlen k }

/-- A core halts by a double fault and reports it (R81, R580, R567). -/
def State.haltCore (s : State) (k : Nat) : State :=
  let t := s.modCore k (fun c => { c with run := .halted })
  if k < 144 then (t.haltItem (hamOf k) (t.logicalOf (hamOf k) (phyOf k))).irq .doubleFault k
  else if k < 160 then t.irq .doubleFault k
  else { t with boot := { t.boot with crierDue := t.boot.crierDue.orElse (fun _ => some (0x0E, (t.core k).cr 0xC01)) } }

/-- Take a synchronous trap (R80). -/
def State.trapSync (s : State) (k : Nat) (e : Entry) : State :=
  let c := s.core k
  let t0 := c.routeSync e.code
  let esc := decide (t0 = .steward) && c.busy .steward
  let t := if esc then .keeper else t0
  if t = .keeper ∧ c.busy .keeper then s.haltCore k
  else s.setCore k (c.enter k t esc e)

/-- The deferred BUS_ERROR of the oldest load answered with an error (R86). -/
def State.takeDeferred (s : State) (k : Nat) (a : Access) : State :=
  let t := s.modCore k (fun c => { c with errs := c.errs.tail })
  t.trapSync k { code := 12, resume := (s.core k).pc, tval := a.addr, defer := true, reg := a.reg, file := regSetCode a.file, slot := a.slot }

/-- The deferred error that this boundary takes, if any. -/
def Core.deferred (c : Core) : Option Access :=
  match c.errs with
  | [] => none
  | a :: _ => if a.inTrap ∨ !c.anyBusy then some a else none

def Core.loadsOut (c : Core) : Nat := (c.acc.filter (fun a => decide (a.kind = .load))).length

/-! ## Control registers (R65, R66, R133, R199) -/

/-- The core has control register `n`. -/
def crExists (k n : Nat) : Bool :=
  let d := isD k
  let both := [0x100, 0x101, 0x200, 0x201, 0x202, 0x203, 0x204, 0x205, 0x400, 0x401, 0x402, 0x403, 0x404, 0x405, 0x406, 0x407,
               0xC00, 0xC01, 0xC02, 0xC03, 0xC04, 0xC05, 0xC06, 0xC07, 0xC08]
  both.contains n ||
  (d && (decide (n ≤ 4) || (decide (0x010 ≤ n) && decide (n ≤ 0x017)) || (decide (0x208 ≤ n) && decide (n ≤ 0x20C)) || (decide (0xC21 ≤ n) && decide (n ≤ 0xC2F)))) ||
  (decide (144 ≤ k ∧ k < 160) && decide (n = 0x410))

def crLevelOk (l : Level) (n : Nat) : Bool := decide (n / 1024 % 4 ≤ levelCode l)

/-- The clock of a core, in kHz (R59). -/
def coreKHz (k : Nat) : Nat := if k < 144 then 1600000 else if k < 160 then 2000000 else 600000

/-- Clock domain of a core (R600). -/
def coreDomain (k : Nat) : Nat := if k < 144 then 60 + hamOf k else if k < 160 then 86 else 85

/-- The current item of a hamlet core. -/
def State.coreItem (s : State) (k : Nat) : Option Item :=
  (s.reeve.cores.get (9 * hamOf k + s.logicalOf (hamOf k) (phyOf k))).cur.bind s.item

def CoreIdWord (s : State) (k : Nat) : Nat :=
  let par := if s.bit R.EWL_PARISH_IN_PARISH then s.rd R.EWL_PARISH_MEMBER else 0
  par * 2 ^ 24 +
  (if k < 144 then hamOf k * 2 ^ 16 + s.logicalOf (hamOf k) (phyOf k) * 256 + phyOf k
   else if k < 160 then 2 ^ 30 + (k - 144) * 256 + (k - 144)
   else 2 ^ 31)

/-- The value crr reads. -/
def State.crRead (s : State) (k n : Nat) : Nat :=
  let c := s.core k
  let cyc := (s.stp.now - c.since) * coreKHz k / 65536000000
  let it := if isD k then s.coreItem k else none
  match n with
  | 0x200 => CoreIdWord s k
  | 0x201 => if isD k then 1024 else 0
  | 0x202 => cyc % 2 ^ 32
  | 0x203 => cyc / 2 ^ 32 % 2 ^ 32
  | 0x204 => s.tick
  | 0x205 => if s.stp.lost.contains (coreDomain k) then 0 else 1
  | 0x208 => match it with | some i => 2 ^ 31 + i.name | none => 0
  | 0x209 => match it with | some i => i.reason * 2 ^ 30 + (if i.tainted then 2 ^ 29 else 0) + i.ltags.length * 2 ^ 12 + i.lapses % 4096 | none => 0
  | 0x20A => match it with | some i => i.ltags.getD 0 0 + i.ltags.getD 1 0 * 65536 | none => 0
  | 0x20B => match it with | some i => i.ltags.getD 2 0 + i.ltags.getD 3 0 * 65536 | none => 0
  | 0x20C => match it with | some i => i.d.deadline | none => 0
  | 0x406 => c.status
  | _ => c.cr n

/-- Clear the bits of a W1C register that `v` has at 1. -/
def w1cNat (old v mask : Nat) : Nat := (BitVec.ofNat 64 old &&& ~~~(BitVec.ofNat 64 (Nat.land v mask))).toNat

/-- A crw of value `v` (R65, R66, R133, R135, R87). -/
def Core.crWrite (c : Core) (k n v : Nat) : Core :=
  let w := v % 2 ^ 32
  match n with
  | 0x000 => let e := nbits w 16 2; c.setCr 0 (e * 65536 + min (w % 65536) (vlmax e))
  | 0x001 => c.setCr 1 (w % 65536)
  | 0x002 => c.setCr 2 (trunc 6 (clampShift (sext 32 w)))
  | 0x003 => c.setCr 3 (w % 2)
  | 0x004 => c.setCr 4 (w1cNat (c.cr 4) w 3)
  | 0x100 => c.setCr 0x100 (w % 32)
  | 0x101 => c.setCr 0x101 (w1cNat (c.cr 0x101) w 63)
  | 0x401 => c.setCr n (w % 1024)
  | 0xC01 => c.setCr n (w % 1024)
  | 0x404 => c.setCr n (Nat.land w 0xC1FFFFFC)
  | 0xC04 => c.setCr n (Nat.land w 0xC1FFFFFC)
  | 0x406 => { c with tce := nbit w 7, ie := nbit w 4 }
  | 0x407 => c.setCr n w
  | 0x410 => if nbits v 56 7 = 0 ∧ nbits v 0 12 = 0 then c.setCr n v else c
  | 0xC06 => c.setCr n (w % 65536)
  | 0xC07 => c.setCr n (w % 65536)
  | 0xC08 => c.setCr n ((List.range 4).foldl (fun a i => a + (if nbits w (2 * (i + 3)) 2 = 1 then 2 ^ (2 * (i + 3)) else 0)) 0)
  | _ =>
    if 0xC21 ≤ n ∧ n ≤ 0xC2F then c.setCr n (Nat.land w 0xE0000FFF)
    else if (0x400 ≤ n ∧ n ≤ 0x405) ∨ (0xC00 ≤ n ∧ n ≤ 0xC05) then c.setCr n (v % 2 ^ xlen k)
    else c.setCr n w

/-! ## Encoding checks of a sheaf (R68, R69) -/

/-- Class of a MAJOR: 0 integer, 1 floating point, 2 scalar memory, 3 control transfer, 4 system, 5 atomic, 6 Quern,
7 maintenance, 8 multiply-accumulate, 9 vector, 10 vector memory, 11 reserved. -/
def classOf (m : Nat) : Nat :=
  if m < 0x0C then 0 else if m < 0x10 then 1 else if m < 0x17 then 2 else if m = 0x17 then 11 else if m < 0x1B then 3
  else if m = 0x1B then 11 else if m = 0x1C then 4 else if m = 0x1D then 5 else if m = 0x1E then 6 else if m = 0x1F then 7
  else if m < 0x30 then 8 else if m < 0x3C then 9 else 10

def classLimit (c : Nat) : Nat := if c = 0 then 2 else if c = 2 then 2 else 1

def isMemClass (c : Nat) : Bool := c == 2 || c == 5 || c == 7 || c == 10

def lastOnly : SysOp → Bool
  | .sys => true
  | .brk => true
  | .tret => true
  | .iflip => true
  | .done => true
  | _ => false

/-- One syllable of a sheaf: its word, whether the word fetched is poisoned, and its system operation. -/
structure Syl where
  w : Word
  bad : Bool := false
  op : SysOp := .reserved
deriving DecidableEq, Repr

/-- Registers that a syllable writes, by file (0 g, 1 p, 2 a, 3 v and f, 4 control) and number (R69). -/
def dests (y : Syl) : List (Nat × Nat) :=
  let w := y.w
  let d := syD w
  let m := syMajor w
  let g := fun n : Nat => if n = 0 then ([] : List (Nat × Nat)) else [(0, n)]
  let p := fun n : Nat => if n % 8 = 0 then ([] : List (Nat × Nat)) else [(1, n % 8)]
  let grp := [(3, d), (3, d + 1), (3, d + 2), (3, d + 3)]
  let f := syVFunc w
  match m with
  | 0x06 => p d
  | 0x07 => p d
  | 0x0B => if syFunc w = 6 then g d else p d
  | 0x0C => [(3, d)]
  | 0x0D => [(3, d)]
  | 0x0E => if syFunc w = 2 ∨ syFunc w = 4 ∨ syFunc w = 6 ∨ syFunc w = 8 then g d else [(3, d)]
  | 0x0F => p d
  | 0x12 => [(3, d)]
  | 0x14 => []
  | 0x15 => []
  | 0x16 => []
  | 0x17 => []
  | 0x18 => []
  | 0x19 => [(0, 31)]
  | 0x1B => []
  | 0x1C => match y.op with
    | .crr _ => g d
    | .ptst _ _ => g d
    | .crw n => [(4, n.val)]
    | _ => []
  | 0x1E => if syFunc w = 0 ∨ syFunc w = 3 then g d else []
  | 0x1F => []
  | 0x20 => [(2, bitsOf w 18 3)]
  | 0x21 => [(2, bitsOf w 18 3)]
  | 0x22 => g d
  | 0x23 => [(4, 2)]
  | 0x24 => [(2, bitsOf w 18 3)]
  | 0x30 => if f = 0 then (4, 0) :: g d else if f = 2 then g d else [(3, d)]
  | 0x31 => [(3, d)]
  | 0x32 => [(3, d)]
  | 0x33 => [(3, d)]
  | 0x34 => p d
  | 0x35 => grp
  | 0x36 => grp
  | 0x37 => [(3, d)]
  | 0x38 => if f = 0 then grp else if f = 4 then [(4, 2)] else if f = 6 then p d else [(3, d)]
  | 0x39 => [(3, d)]
  | 0x3A => [(3, d)]
  | 0x3B => [(2, bitsOf w 18 3)]
  | 0x3C => if bitOf w 2 then [(3, d), (4, 0), (4, 1)] else [(3, d), (4, 1)]
  | 0x3D => [(4, 1)]
  | _ => if m < 0x20 then g d else []

def hasDup (l : List (Nat × Nat)) : Bool :=
  match l with
  | [] => false
  | x :: r => r.contains x || hasDup r

/-- ILLEGAL_SHEAF, but for the number of syllables. -/
def sheafBad (ys : List Syl) : Bool :=
  let cs := ys.map (fun y => classOf (syMajor y.w))
  let n := ys.length
  let early := (List.range (n - 1)).any (fun i =>
    let y := ys.getD i ⟨0, false, .reserved⟩
    classOf (syMajor y.w) == 3 || (classOf (syMajor y.w) == 4 && lastOnly y.op))
  (List.range 11).any (fun c => decide (classLimit c < (cs.filter (fun x => x == c)).length)) ||
  decide (2 < (cs.filter isMemClass).length) || early || hasDup (ys.flatMap dests)

/-! ## Fetch (R72, R75, R90, R98) -/

/-- Apply a walk's table updates and keep its translation (R89). -/
def State.applyWalk (s : State) (k : Nat) (w : Option Walk) : State :=
  match w with
  | none => s
  | some x =>
    let t := x.updates.foldl (fun u e => u.hallWrite k (u.midOf k) e.1 8 e.2.toNat false) s
    match x.entry with
    | none => t
    | some e => t.modCore k (fun c => { c with tlb := e :: c.tlb.filter (fun o => !(o.page == e.page && o.bits == e.bits && o.asid == e.asid)) })

/-- A syllable as a read of 4 bytes delivers it. -/
def fetched (y : (Nat × Bool) × State) : Except Nat (Word × Bool) × State := (.ok (BitVec.ofNat 32 y.1.1, y.1.2), y.2)

/-- Fetch the word at a translated address of a Hall core or of the Hearth pair. -/
def State.fetchAt (t : State) (k phys : Nat) (cached dev : Bool) : Except Nat (Word × Bool) × State :=
  if dev then (.error 4, t)
  else match t.targetFor (t.midOf k) phys with
    | .inl _ => (.error 4, t)
    | .inr st =>
      if cached then
        let y := t.hallPeek phys
        (.ok (BitVec.ofNat 32 (wordPart y.data (phys % 8) 4), y.mark), t)
      else
        fetched (t.readPart (t.midOf k) st 4)

/-- Storage address of the syllable at `a` in the active half of a hamlet core's instruction memory. -/
def State.imemWord (s : State) (k a : Nat) : Nat :=
  imemBase (hamOf k) (phyOf k) (s.rd (R.HAMLET_IMEM_STATUS_ACTIVE (hamOf k) (s.logicalOf (hamOf k) (phyOf k)))) + a / 4 * 4

/-- Where a core without translation fetches from: 41 address bits. -/
def fetchPhys (a : Nat) : Nat := a % 2 ^ 41

/-- Read the syllable at an address: its word and mark, or the code of a fetch fault. -/
def State.fetchWord (s : State) (k : Nat) (a : Nat) : Except Nat (Word × Bool) × State :=
  let c := s.core k
  if isD k then
    if 0x7FFC < a then (.error 4, s)
    else
      fetched (s.readPart (s.midOf k) (s.imemWord k a) 4)
  else if translates k c then
    match s.translate c a 2 with
    | none => (.error 8, s)
    | some w => match s.busTgt k w.phys with
      | none => (.error 4, s)
      | some t => (s.applyWalk k (some w)).fetchAt k w.phys (decide (w.memtype = 2) && t.cached) (decide (w.memtype = 0) || t.device)
  else match s.busTgt k (fetchPhys a) with
    | none => (.error 4, s)
    | some t => s.fetchAt k (fetchPhys a) (t.cached && decide (k < 160)) t.device

/-- Fetch a sheaf from `a`: its syllables, at most `n`, and whether END closed it; or a fetch fault. -/
def State.fetchSheaf (s : State) (k : Nat) : Nat → Nat → Nat → Except Trap (List Syl × Bool) × State
  | _, _, 0 => (.ok ([], false), s)
  | a, slot, n + 1 =>
    match s.fetchWord k a with
    | (.error e, t) => (.error { code := e, tval := a, slot := slot }, t)
    | (.ok (w, bad), t) =>
      let y : Syl := ⟨w, bad, .reserved⟩
      if syEnd w then (.ok ([y], true), t)
      else match State.fetchSheaf t k (a + 4) (slot + 1) n with
        | (.error e, u) => (.error e, u)
        | (.ok (r, e), u) => (.ok (y :: r, e), u)

/-- Hand the system operations to the syllables of classes 0x1C, 0x1D and 0x1F, in order of position. -/
def giveOps : List Syl → List SysOp → List Syl
  | [], _ => []
  | y :: r, ops =>
    let m := syMajor y.w
    if m = 0x1C ∨ m = 0x1D ∨ m = 0x1F then
      match ops with
      | [] => y :: giveOps r []
      | o :: os => { y with op := o } :: giveOps r os
    else y :: giveOps r ops

/-! ## Evaluation of a syllable -/

/-- QUERN_CORE_STATUS of a core as a word (R180). -/
def State.quernStat (s : State) (h c : Nat) : Nat :=
  s.rd (R.QUERN_CORE_STATUS_STATUS h c) * 2 ^ 28 + s.rd (R.QUERN_CORE_STATUS_ABORT_LATE h c) * 2 ^ 27 + s.rd (R.QUERN_CORE_STATUS_SINGULAR h c) * 2 ^ 26 +
  s.rd (R.QUERN_CORE_STATUS_SAT h c) * 2 ^ 25 + s.rd (R.QUERN_CORE_STATUS_NONFINITE h c) * 2 ^ 24 + s.rd (R.QUERN_CORE_STATUS_INDEX h c) * 2 ^ 20 +
  s.rd (R.QUERN_CORE_STATUS_EXP h c) * 2 ^ 8 + s.rd (R.QUERN_CORE_STATUS_SEQ h c)

/-- Class 0x1E (R166 to R172). -/
def Ctx.quern (x : Ctx) (s : State) : Res :=
  let f := syFunc x.w
  let d := syD x.w
  let ab := decide (syA x.w = 0 ∧ syB x.w = 0)
  if !x.d then x.illegal
  else if 32 ≤ f then
    let op := f % 16
    let fmt := f / 16 % 2
    if 8 ≤ op ∨ (!readsY op ∧ syB x.w ≠ 0) then x.illegal
    else if x.ta then .error (bite 1 x.ga .g (syA x.w))
    else if readsY op ∧ x.tb then .error (bite 1 x.gb .g (syB x.w))
    else if x.c.gtag d then .error (bite 1 (x.c.gv d) .g d)
    else
      let cause := s.quernCheck x.k op fmt x.ga x.gb (x.c.gv d)
      if cause ≠ 0 then .error { code := 16, qcause := cause } else .ok { act := .qjob op fmt x.ga x.gb (x.c.gv d) }
  else match f with
    | 0 => if ab then .ok { act := .qlock d } else x.illegal
    | 1 => if !ab || d != 0 then x.illegal else if s.quernMine x.k then .ok { act := .qfree } else .error { code := 16, qcause := 1 }
    | 2 => if ab && d == 0 then .ok { act := .qsync } else x.illegal
    | 3 => if ab then .ok (x.toG (s.quernStat (hamOf x.k) (s.logicalOf (hamOf x.k) (phyOf x.k)) : Nat) false) else x.illegal
    | 4 => if ab && d == 0 then .ok { act := .qabort } else x.illegal
    | _ => x.illegal

/-- Class 0x1C (R65, R75, R93, R100, R105, R198). -/
def Ctx.system (x : Ctx) (s : State) (op : SysOp) : Res :=
  match op with
  | .crr n =>
    if !crExists x.k n.val then x.illegal
    else if !crLevelOk x.c.level n.val then x.privilege
    else .ok { ws := [.g (syD x.w) (s.crRead x.k n.val) false] }
  | .crw n =>
    if !crExists x.k n.val ∨ nbit n.val 9 then x.illegal
    else if !crLevelOk x.c.level n.val then x.privilege
    else if x.ta then .error (bite 7 0 .g (syA x.w))
    else .ok { ws := [.cr n.val x.ga] }
  | .fence => .ok { act := .fence (syA x.w % 16) }
  | .fenceC => .ok { act := .fenceC }
  | .ptst file r =>
    let b := fun t : Bool => if t then (1 : Int) else 0
    match file with
    | .g => .ok (x.toG (b (x.c.gtag r.val)) false)
    | .p => if r.val < 8 then .ok (x.toG (b (x.c.ptag r.val)) false) else x.illegal
    | .a => if x.d ∧ r.val < 8 then .ok (x.toG (b (x.c.atag r.val)) false) else x.illegal
    | .v => if x.d then .ok (x.toG (((x.c.vtag r.val).toNat : Nat) : Int) false) else x.illegal
    | .f => .ok (x.toG (b (x.c.ftag x.d r.val)) false)
  | .sys => .ok { act := .sys }
  | .brk => .ok { act := .brk }
  | .tret => if x.c.level = .worker then x.privilege else .ok { act := .tret }
  | .iflip =>
    if !x.d then x.illegal
    else if x.c.level ≠ .keeper then x.privilege
    else if x.ta then .error (bite 2 0 .g (syA x.w))
    else .ok { act := .iflip x.ga }
  | .done =>
    if !x.d ∨ 2 < syA x.w ∨ syD x.w ≠ 0 ∨ syB x.w ≠ 0 then x.illegal else .ok { act := .done (syA x.w) }
  | _ => x.illegal

/-- Class 0x18 to 0x1A (R68, R72). -/
def Ctx.control (x : Ctx) : Res :=
  let tgt := trunc x.xl ((x.pc : Int) + syOff21 x.w * 4)
  match syMajor x.w with
  | 0x18 => .ok { act := .goto tgt }
  | 0x19 => .ok { ws := [.g 31 x.next false], act := .goto tgt }
  | _ => if x.ta then .error (bite 2 0 .g (syA x.w)) else .ok { ws := [.g (syD x.w) x.next false], act := .goto x.ga }

/-- A syllable that executes, without its guard. -/
def Ctx.evaluate (x : Ctx) (s : State) (op : SysOp) (slot : Nat) (ans : List SyncAns) : MRes :=
  let m := syMajor x.w
  let res := MRes.ofRes
  match classOf m with
  | 0 => res x.integer
  | 1 => match m with
    | 0x0C => res (x.fpArith fp32)
    | 0x0D => res (x.fpArith fp64)
    | 0x0E => res x.fpConvert
    | _ => res x.fpCompare
  | 2 => x.scalarMem s slot ans
  | 3 => res x.control
  | 4 => res (x.system s op)
  | 5 => match op with
    | .atomic o wide cmp => x.atomicMem s slot ans o wide cmp.val
    | _ => res x.illegal
  | 6 => res (x.quern s)
  | 7 => match op with
    | .dcClean => if x.d then res x.illegal else x.maintMem s op
    | .dcInv => if x.d then res x.illegal else x.maintMem s op
    | .dcCinv => if x.d then res x.illegal else x.maintMem s op
    | .tlbinv _ => if x.d then res x.illegal else x.maintMem s op
    | _ => res x.illegal
  | 8 => if x.d then res x.mac else res x.illegal
  | 9 => if x.d then res x.vector else res x.illegal
  | 10 => if x.d ∧ m < 0x3E then x.vectorMem s slot ans else res x.illegal
  | _ => res x.illegal

/-- A syllable with its guard: none where it does not execute (R70, R98). -/
def Ctx.guarded (x : Ctx) (s : State) (y : Syl) (slot : Nat) (ans : List SyncAns) : Except Trap (Option MemRes) :=
  let p := syPred y.w
  let runs := (x.c.pv p).getLsbD 0 != syPneg y.w
  if y.bad then .error { bite 6 0 .g 0 with slot := slot }
  else if p = 0 ∧ syPneg y.w then .error { code := 1, tval := y.w.toNat, slot := slot }
  else
    let r := x.evaluate s y.op slot ans
    if x.c.ptag p then
      match r with
      | .error t => .error (if t.code = 1 ∨ t.code = 3 then { t with slot := slot } else { bite 3 0 .p p with slot := slot })
      | .ok _ => .error { bite 3 0 .p p with slot := slot }
    else if !runs then .ok none
    else match r with
      | .error t => .error { t with slot := slot }
      | .ok e => .ok (some e)

/-- The element fault of a vector memory syllable, which traps after its earlier elements (R156). -/
def elemFault (e : MemRes) : Option (Nat × Trap) :=
  match e.eff.act with
  | .vload _ _ _ _ f _ => f
  | .vstore _ _ f _ => f
  | _ => none

/-- Evaluate the syllables of a sheaf in order, up to the first that faults: what executes, with its position, and the
fault of the lowest position (R79). -/
def State.evalAll (s : State) (k : Nat) (c : Core) (pc next : Nat) (ans : List SyncAns) :
    Nat → List Syl → List (Nat × MemRes) × Option (Trap × Option MemRes)
  | _, [] => ([], none)
  | i, y :: r =>
    match Ctx.guarded ⟨k, c, y.w, pc, next⟩ s y i ans with
    | .error t => ([], some (t, none))
    | .ok none => State.evalAll s k c pc next ans (i + 1) r
    | .ok (some e) =>
      match elemFault e with
      | some (_, t) => ([], some ({ t with slot := i }, some e))
      | none =>
        let z := State.evalAll s k c pc next ans (i + 1) r
        ((i, e) :: z.1, z.2)

/-- Quern jobs of the syllables that come after a fault are squashed with those before it: how many valid job syllables
the sheaf holds. -/
def State.jobsIn (s : State) (k : Nat) (c : Core) (pc next : Nat) (ans : List SyncAns) (ys : List Syl) : Nat :=
  ((List.range ys.length).filter (fun i =>
    let y := ys.getD i ⟨0, false, .reserved⟩
    match Ctx.guarded ⟨k, c, y.w, pc, next⟩ s y i ans with
    | .ok (some e) => (match e.eff.act with | .qjob _ _ _ _ _ => true | _ => false)
    | _ => false)).length

/-! ## Order of accesses (R91 to R93) -/

def Access.isLoad (a : Access) : Bool := decide (a.kind = .load)

/-- Access `a`, issued earlier, must be performed before access `b`. -/
def mustPrecede (a b : Access) : Bool :=
  decide (a.kind ≠ .fence) &&
  ((a.mask == b.mask && a.bus / 64 == b.bus / 64) || (a.device && b.device) || (b.device && !b.isLoad && !a.isLoad) || b.release)

/-- A fence between `a` and `b` that orders them (R93). -/
def fenceBit (f a b : Access) : Bool := nbit f.mask ((if a.isLoad then 0 else 2) + (if b.isLoad then 0 else 1))

/-- Access `n` of the queue may be performed now. -/
def mayPerform (q : List Access) (n : Nat) : Bool :=
  match q[n]? with
  | none => false
  | some b =>
    (List.range n).all (fun i =>
      match q[i]? with
      | none => true
      | some a =>
        decide (a.kind = .fence) ||
        (!mustPrecede a b && !(List.range n).any (fun j => decide (i < j) && (match q[j]? with
          | some f => decide (f.kind = .fence) && fenceBit f a b
          | none => false))))

/-- Fences with nothing before them have done their work. -/
def dropFences : List Access → List Access
  | [] => []
  | a :: r => if a.kind = .fence then dropFences r else a :: r

/-- Position in the queue of the `n`-th access of a kind. -/
def nthOf (load : Bool) : List Access → Nat → Nat → Option Nat
  | [], _, _ => none
  | a :: r, i, n =>
    if a.kind ≠ .fence ∧ a.isLoad = load then (if n = 0 then some i else nthOf load r (i + 1) (n - 1))
    else nthOf load r (i + 1) n

/-! ## What holds a sheaf before it issues -/

/-- Fields of a syllable that may name a register. -/
def namesReg (y : Syl) (n : Nat) : Bool :=
  syD y.w == n || syA y.w == n || syB y.w == n || bitsOf y.w 10 5 == n || (syMajor y.w == 0x19 && n == 31) ||
  (match y.op with
   | .ptst _ r => r.val == n
   | .atomic _ _ c => c.val == n
   | _ => false)

/-- The sheaf uses a register whose load has not returned (R86). -/
def waitsForLoad (c : Core) (ys : List Syl) : Bool :=
  c.acc.any (fun a => a.isLoad && ys.any (fun y => namesReg y a.reg || (decide (a.file = .v) && decide (9 ≤ classOf (syMajor y.w) ∧ classOf (syMajor y.w) ≤ 10))))

/-- An access that holds its sheaf must wait for earlier ones. -/
def mustWait (q : List Access) (x : Access) : Bool := !mayPerform (q ++ [x]) q.length

/-- An effect cannot issue yet. -/
def State.holds (s : State) (k : Nat) (c : Core) (a : Act) : Bool :=
  let q := s.querns.get (hamOf k)
  let idle := decide (q.jobs = [])
  match a with
  | .fenceC => decide (c.acc ≠ [])
  | .done _ => decide (c.acc ≠ []) || (isD k && s.quernMine k && !idle)
  | .acquire x => mustWait c.acc x
  | .atomic x _ _ _ _ => mustWait c.acc { x with release := true }
  | .vload _ es _ _ _ own => !own && es.any (fun e => mustWait c.acc { kind := .load, bus := e.2, mask := 1 })
  | .maint _ _ bus _ _ => mustWait c.acc { kind := .load, bus := bus }
  | .qsync => !idle
  | .qfree => !idle
  | .qjob _ _ _ _ _ => decide (2 ≤ q.jobs.length)
  | _ => false

/-! ## Commit -/

def stamp (a : Access) (c : Core) : Access := { a with seq := c.seq, inTrap := c.anyBusy }

/-- Put an access into the core's queue. -/
def State.enqueue (s : State) (k : Nat) (a : Access) : State :=
  s.modCore k (fun c => { c with acc := c.acc ++ [stamp a c], seq := c.seq + 1 })

/-- The stores of a sheaf: to the core's own memory at once, to other targets posted (R86). -/
def State.commitStore (s : State) (k : Nat) (a : Act) : State :=
  match a with
  | .store x => if x.mask = 1 then s.serveWrite k x else s.enqueue k x
  | .vstore es ew _ own =>
    if own then s.vstoreDo k ew es
    else es.foldl (fun t e => t.enqueue k { kind := .store, addr := e.2.1, bus := e.2.1, size := ew / 8, data := e.2.2.1, mark := e.2.2.2, mask := 1 }) s
  | _ => s

/-- An atomic at its target (R95, R99). -/
def State.doAtomic (s : State) (k : Nat) (x : Access) (op : AtomOp) (cmp b : Nat) (bt : Bool) : State :=
  let y := s.serveRead k x
  let t := if y.1.2 then y.2 else y.2.serveWrite k { x with kind := .store, data := atomNew op (8 * x.size) y.1.1 b cmp % 2 ^ (8 * x.size), mark := bt }
  t.modCore k (fun c => c.write k (loadWrite k x y.1.1 y.1.2))

/-- Line and TLB maintenance (R89, R96). -/
def State.doMaint (s : State) (k : Nat) (op : SysOp) (bus va asid : Nat) : State :=
  if k < 144 ∨ 160 ≤ k then s
  else
    let line := fun (w d : Bool) => match s.lineOwner bus with
      | some j => s.cleanLine j bus w d
      | none => s
    match op with
    | .dcClean => line true false
    | .dcInv => line false true
    | .dcCinv => line true true
    | .tlbinv all =>
      let stays := fun (t : TlbEntry) => !all && !(t.page == va % 2 ^ 48 / 2 ^ t.bits && (t.global || t.asid == asid % 65536))
      s.modCore k (fun c => { c with tlb := c.tlb.filter stays })
    | _ => s

/-- The loads and other acts of a sheaf, after its stores. -/
def State.commitRest (s : State) (k : Nat) (a : Act) : State :=
  match a with
  | .load x =>
    if x.mask = 1 then
      let y := s.serveRead k x
      y.2.modCore k (fun c => c.write k (loadWrite k x y.1.1 y.1.2))
    else s.enqueue k x
  | .acquire x =>
    let y := s.serveRead k x
    y.2.modCore k (fun c => c.write k (loadWrite k x y.1.1 y.1.2))
  | .atomic x op cmp b bt => s.doAtomic k x op cmp b bt
  | .vload _ es ew dst _ _ => s.vloadDo k dst ew es
  | .maint op _ bus va asid => s.doMaint k op bus va asid
  | .fence m => if m = 0 then s else s.modCore k (fun c => { c with acc := dropFences (c.acc ++ [{ kind := .fence, mask := m }]) })
  | .qlock d => let y := s.quernLock k; y.2.modCore k (fun c => c.write k (.g d (if y.1 then 1 else 0) false))
  | .qfree => s.quernFree (hamOf k)
  | .qabort => s.quernAbort (hamOf k)
  | .qjob op fmt x y z => s.quernSubmit k op fmt x y z
  | _ => s

/-- Posted stores and loads of one sheaf join the queue in syllable order; a store before a load of the same word (R71). -/
def orderActs (l : List Act) : List Act :=
  match l with
  | [.load a, .store b] => if a.bus / 8 = b.bus / 8 ∧ !a.device then [.store b, .load a] else l
  | _ => l

def isQueued (a : Act) : Bool :=
  match a with
  | .load x => decide (x.mask ≠ 1)
  | .store x => decide (x.mask ≠ 1)
  | _ => false

/-- Sticky status that a sheaf sets (R109, R119, R117). -/
def Core.sticky (c : Core) (es : List Eff) : Core :=
  let o := es.any (·.ovf)
  let a := es.any (·.aov)
  let fl := es.foldl (fun n e => orFl n (e.fl % 64)) 0
  let c1 := if o ∨ a then c.setCr 4 (orFl (c.cr 4) ((if o then 1 else 0) + (if a then 2 else 0))) else c
  if fl = 0 then c1 else c1.setCr 0x101 (orFl (c1.cr 0x101) fl)

/-- Registers are written; a crw goes through its register's own rule. -/
def Core.commitWrites (c : Core) (k : Nat) (ws : List (RegW × Bool)) : Core :=
  ws.foldl (fun d w => match w.1 with
    | .cr n v => if w.2 then d.crWrite k n v else d.setCr n v
    | r => d.write k r) c

def isCrw (op : SysOp) : Bool :=
  match op with
  | .crw _ => true
  | _ => false

/-- iflip (R105). -/
def State.flipNow (s : State) (h c : Nat) : State :=
  ((s.wr (R.HAMLET_IMEM_STATUS_ACTIVE h c) (1 - s.rd (R.HAMLET_IMEM_STATUS_ACTIVE h c))).wr (R.HAMLET_IMEM_CTRL_ARM h c) 0).inc
    (R.HAMLET_IMEM_STATUS_FLIP_COUNT h c)

/-- A vector memory syllable that completes sets VRESUME.INDEX to 0 (R154). -/
def clearsResume (es : List Eff) : Bool := es.any (fun e => match e.act with
  | .vload _ _ _ _ _ _ => true
  | .vstore _ _ _ _ => true
  | _ => false)

/-- Commit a sheaf: registers, stores, loads and other acts, then the control transfer (R70, R71, R72, R80). -/
def State.commit (s : State) (k : Nat) (ys : List Syl) (next : Nat) (rs : List (Nat × MemRes)) : State :=
  let es := rs.map (fun r => r.2.eff)
  let acts := es.map (·.act)
  let t0 := rs.foldl (fun t r => t.applyWalk k r.2.walk) s
  let ws := rs.flatMap (fun r => r.2.eff.ws.map (fun w => (w, isCrw (ys.getD r.1 ⟨0, false, .reserved⟩).op && decide (syMajor (ys.getD r.1 ⟨0, false, .reserved⟩).w = 0x1C))))
  let t1 := t0.modCore k (fun c =>
    let d := (c.commitWrites k ws).sticky es
    { (if clearsResume es then d.setCr 1 0 else d) with pc := next })
  let queued := orderActs (acts.filter isQueued)
  let t2 := (acts.filter (fun a => !isQueued a)).foldl (fun t a => t.commitStore k a) t1
  let t3 := queued.foldl (fun t a => (t.commitStore k a).commitRest k a) t2
  let t4 := (acts.filter (fun a => !isQueued a)).foldl (fun t a => t.commitRest k a) t3
  acts.foldl (fun t a =>
    match a with
    | .goto p => t.modCore k (fun c => { c with pc := p / 4 * 4 })
    | .sys => t.trapSync k { code := 13, resume := next }
    | .brk => t.trapSync k { code := 14, resume := next }
    | .tret => t.modCore k (fun c =>
        let b := trapBase c.level
        let sv := c.cr (b + 4)
        { (c.setCr (b + 4) (clearBusy (sv % 2 ^ 32))) with pc := c.cr (b + 2) / 4 * 4, ie := nbit sv 20, level := levelOf (nbits sv 16 2) })
    | .iflip p =>
      (t.flipNow (hamOf k) (t.logicalOf (hamOf k) (phyOf k))).modCore k (fun c => { c with pc := p / 4 * 4 })
    | .done v =>
      let u := if t.quernMine k then (t.quernFree (hamOf k)).incSat (R.QUERN_COUNTS_AUTO_FREE (hamOf k)) else t
      u.modCore k (fun c => { c with run := .doneSent v })
    | _ => t) t4

/-- The trap of a sheaf: earlier elements of a faulting vector access stay performed, jobs are squashed (R78, R156, R174,
R117, R172). -/
def State.sheafTrap (s : State) (k pc : Nat) (t : Trap) (part : Option MemRes) (jobs : Nat) : State :=
  let s1 := match part with
    | none => s
    | some e =>
      let u := (s.commitStore k e.eff.act).commitRest k e.eff.act
      match elemFault e with
      | some (i, _) => u.modCore k (fun c => c.setCr 1 i)
      | none => u
  let s2 := if jobs = 0 then s1 else s1.addSat (R.QUERN_COUNTS_SQUASHED (hamOf k)) jobs
  let s3 := if t.code = 15 then s2.modCore k (fun c => c.setCr 0x101 (c.cr 0x101 % 64 + t.fpFlags % 32 * 256)) else s2
  let s4 := if t.code = 16 then s3.wr (R.QUERN_CORE_FAULT_CAUSE (hamOf k) (s3.logicalOf (hamOf k) (phyOf k))) t.qcause else s3
  s4.trapSync k { code := t.code, resume := pc, tval := t.tval, use := t.use, reg := t.reg, file := t.file, slot := t.slot }

/-! ## Debug halts (R627, R628) -/

/-- Registers of a core's debug unit: BP_TRAP, BP_EN, breakpoint n, DBG_HALTED, REASON, PC. -/
structure DbgRegs where
  bpTrap : Fld
  bpEn : Fld
  bp : Nat → Fld
  halted : Fld
  reason : Fld
  pc : Fld

def dbgRegs (k : Nat) : Option DbgRegs :=
  if k < 144 then
    let h := hamOf k
    let c := phyOf k
    some ⟨R.DBG_CTRL_BP_TRAP h c, R.DBG_CTRL_BP_EN h c, R.DBG_BP h c, R.DBG_STATUS_DBG_HALTED h c, R.DBG_STATUS_REASON h c, R.DBG_STATUS_PC h c⟩
  else if k < 160 then
    let c := k - 144
    some ⟨R.HDBG_CTRL_BP_TRAP c, R.HDBG_CTRL_BP_EN c, R.HDBG_BP c, R.HDBG_STATUS_DBG_HALTED c, R.HDBG_STATUS_REASON c, R.HDBG_STATUS_PC c⟩
  else none

/-- Halt a core for debug. -/
def State.dbgStop (s : State) (k reason : Nat) : State :=
  match dbgRegs k with
  | none => s
  | some r =>
    let t := s.modCore k (fun c => { c with dbgHalt := true, dbgStep := false, dbgPass := false })
    ((t.wr r.halted 1).wr r.reason reason).wr r.pc (t.core k).pc

def State.bpMatch (s : State) (k pc : Nat) : Bool :=
  match dbgRegs k with
  | none => false
  | some r => (List.range 4).any (fun n => nbit (s.rd r.bpEn) n && decide (s.rd (r.bp n) = pc % 2 ^ 32))

/-- After a STEP the core halts again. -/
def State.afterIssue (s : State) (k : Nat) : State :=
  let c := s.core k
  if c.dbgStep then s.dbgStop k 3 else s.modCore k (fun x => { x with dbgPass := false })

/-! ## SHEAF_ISSUE -/

/-- One sheaf of a running core (R70): a deferred error, a breakpoint, a fetch fault, a hold, a trap or a commit. -/
def State.issue (s : State) (k : Nat) (sys : List SysOp) (ans : List SyncAns) : State :=
  let c := s.core k
  let pc := c.pc
  if c.run ≠ .running ∨ (c.dbgHalt ∧ !c.dbgStep) then s
  else match c.deferred with
    | some a => s.takeDeferred k a
    | none =>
      if s.bpMatch k pc ∧ !c.dbgPass then
        (match dbgRegs k with
         | some r => if s.bit r.bpTrap then (if 0 < c.loadsOut then s else (s.trapSync k { code := 14, resume := pc }).afterIssue k) else s.dbgStop k 2
         | none => s)
      else
        let trap := fun (t : State) (x : Trap) (part : Option MemRes) (jobs : Nat) =>
          if 0 < c.loadsOut then s else (t.sheafTrap k pc x part jobs).afterIssue k
        match s.fetchSheaf k pc 0 4 with
        | (.error x, t) => trap t x none 0
        | (.ok (ys0, ended), t) =>
          let ys := giveOps ys0 sys
          if !ys.any (·.bad) && (!ended || sheafBad ys) then trap t { code := 2, tval := pc } none 0
          else if waitsForLoad c ys then s
          else
            let next := (pc + 4 * ys.length) % 2 ^ xlen k
            let ev := t.evalAll k c pc next ans 0 ys
            match ev.2 with
            | some (x, part) =>
              if (match part with | some e => t.holds k c e.eff.act | none => false) then s
              else trap t x part (if isD k then t.jobsIn k c pc next ans ys else 0)
            | none =>
              let newLoads := (ev.1.filter (fun r => match r.2.eff.act with | .load x => decide (x.mask ≠ 1) | _ => false)).length
              if ev.1.any (fun r => t.holds k c r.2.eff.act) ∨ (0 < newLoads ∧ 8 < c.loadsOut + newLoads) then s
              else (t.commit k ys next ev.1).afterIssue k

def execSheafIssue (core : Fin 161) (sys : List SysOp) (answers : List SyncAns) (s : State) : Outc :=
  .next (s.issue core.val sys answers)

/-! ## Interrupts (R74, R76, R82) -/

/-- The order in which interrupts are taken (R74). -/
def irqOrder : List Nat := [2, 1, 6, 4, 3, 5]

def rankLevel : Level → Nat
  | .worker => 0
  | .steward => 1
  | .keeper => 2

/-- The core may take interrupt `code` now. -/
def Core.mayTake (c : Core) (code : Nat) : Bool :=
  let l := c.routeIrq code
  decide (rankLevel c.level < rankLevel l) || (decide (c.level = l) && c.ie)

/-- The interrupts pending at a core; a Hall core sees those of the Hall interrupt controller as HAMLET. -/
def State.pendingIrqs (s : State) (k : Nat) : List Nat :=
  let l := (s.core k).irqs
  if 144 ≤ k ∧ k < 160 ∧ s.hallIrq ≠ [] ∧ !l.contains 4 then 4 :: l else l

/-- An interrupt has been taken: it is no longer pending, and the Reeve learns of PREEMPT and LAPSE_KILL (R202, R205). -/
def State.irqTaken (s : State) (k code : Nat) : State :=
  let t := (s.coreUnirq k code)
  let u := if code = 4 ∧ 144 ≤ k ∧ k < 160 then { t with hallIrq := t.hallIrq.tail } else t
  if k < 144 then
    let h := hamOf k
    let c := u.logicalOf h (phyOf k)
    let r := u.rcore h c
    if code = irqPreempt then
      let v := u.setRcore h c { r with taken := true }
      match r.cur with
      | some x => v.tapEvent 3 x
      | none => v
    else if code = irqLapseKill then
      match r.cur with
      | some x => (u.modItem x (fun i => { i with state := .killing })).modRcore h c (fun y => { y with st := .killing })
      | none => u
    else u
  else u

def execInterruptTake (core : Fin 161) (s : State) : Outc :=
  let k := core.val
  let c := s.core k
  if c.run ≠ .running ∨ c.dbgHalt ∨ 0 < c.loadsOut then .next s
  else match c.deferred with
    | some a => .next (s.takeDeferred k a)
    | none =>
      match irqOrder.find? (fun n => (s.pendingIrqs k).contains n && c.mayTake n) with
      | none => .next s
      | some n =>
        let t := s.setCore k (c.enter k (c.routeIrq n) false { code := n, irq := true, resume := c.pc })
        .next (t.irqTaken k n)

/-- TICK_COMPARE_MATCH (R76). -/
def execTickCompareMatch (core : Fin 161) (s : State) : Outc :=
  let c := s.core core.val
  if c.tce ∧ passed s.tick (c.cr 0x407 % 2 ^ 32) ∧ c.run ≠ .held then .next (s.coreIrq core.val 3) else .next s

/-- SOFTWARE_INTERRUPT (R76). -/
def execSoftwareInterrupt (core : Fin 161) (s : State) : Outc := .next (s.coreIrq core.val 5)

/-! ## Answers (R86) -/

/-- The status with which an access is answered: as given, or as its target answers. -/
def State.answerStatus (s : State) (k : Nat) (a : Access) (given : Option Answer) : AnsStatus :=
  match given with
  | some g => g.status
  | none =>
    if a.device then .ok
    else if a.mask = 1 then (match s.regionRefuse (regionOf a.bus) with | some r => r.status | none => .ok)
    else match s.targetFor (s.midOf k) a.bus with
      | .inl r => r.status
      | .inr _ => .ok

def goodStatus (x : AnsStatus) : Bool := decide (x = .ok ∨ x = .poisoned)

/-- The value an answer brings: as given, or read at the target. -/
def State.answerValue (s : State) (k : Nat) (a : Access) (given : Option Answer) : (Nat × Bool) × State :=
  match given with
  | some g =>
    let w := g.words.getD 0 {}
    ((wordPart w.data (a.bus % 8) a.size, w.mark || decide (g.status = .poisoned)), s)
  | none => s.serveRead k a

/-- Insert an error in issue order. -/
def insertErr (a : Access) : List Access → List Access
  | [] => [a]
  | b :: r => if a.seq < b.seq then a :: b :: r else b :: insertErr a r

/-- LOAD_ANSWER (R86). -/
def execLoadAnswer (core : Fin 161) (n : Nat) (given : Option Answer) (s : State) : Outc :=
  let k := core.val
  let c := s.core k
  match nthOf true c.acc 0 n with
  | none => .next s
  | some i =>
    match c.acc[i]? with
    | none => .next s
    | some a =>
      if !mayPerform c.acc i then .next s
      else
        let gone := fun (t : State) => t.modCore k (fun x => { x with acc := dropFences (x.acc.eraseIdx i) })
        if goodStatus (s.answerStatus k a given) then
          let y := s.answerValue k a given
          .next ((gone y.2).modCore k (fun x => x.write k (loadWrite k a y.1.1 y.1.2)))
        else .next ((gone s).modCore k (fun x => { x with errs := insertErr a x.errs }))

/-- STORE_ANSWER (R86): the store is performed and acknowledged, or raises POSTED_ERROR. -/
def execStoreAnswer (core : Fin 161) (n : Nat) (given : Option Answer) (s : State) : Outc :=
  let k := core.val
  let c := s.core k
  match nthOf false c.acc 0 n with
  | none => .next s
  | some i =>
    match c.acc[i]? with
    | none => .next s
    | some a =>
      if !mayPerform c.acc i then .next s
      else
        let gone := fun (t : State) => t.modCore k (fun x => { x with acc := dropFences (x.acc.eraseIdx i) })
        if goodStatus (s.answerStatus k a given) then .next (gone (s.serveWrite k a))
        else .next ((gone s).modCore k (fun x =>
          { x with postedErr := x.postedErr + 1, irqs := if x.irqs.contains 6 then x.irqs else x.irqs ++ [6] }))

/-! ## Instruction halves (R101 to R105) -/

/-- IMEM_WRITE: a write through an aperture (R101). -/
def execImemWrite (r : WriteReq) (s : State) : Outc := .next (s.busWrite r)

/-- IMEM_FLIP_ARM: a write of HAMLET_IMEM_CTRL with ARM = 1 (R102, R104). -/
def execImemFlipArm (h : Fin 16) (c : Fin 9) (v : Word) (s : State) : Outc :=
  if !bitOf v 0 then .next s
  else
    let d := s.rd (R.HAMLET_IMEM_TICK_FLIP_TICK h.val c.val)
    if !passed s.tick d ∧ maxLead < leadTicks s.tick d then .next (s.wr (R.HAMLET_IMEM_STATUS_REFUSED h.val c.val) 1)
    else .next (s.wr (R.HAMLET_IMEM_CTRL_ARM h.val c.val) 1)

/-- IMEM_FLIP_DISARM: a write of HAMLET_IMEM_CTRL with ARM = 0 (R104). -/
def execImemFlipDisarm (h : Fin 16) (c : Fin 9) (v : Word) (s : State) : Outc :=
  if bitOf v 0 then .next s else .next (s.wr (R.HAMLET_IMEM_CTRL_ARM h.val c.val) 0)

/-- IMEM_FLIP_APPLY (R103). -/
def execImemFlipApply (h : Fin 16) (c : Fin 9) (s : State) : Outc :=
  let r := s.rcore h.val c.val
  if s.flipWaits h.val c.val ∧ r.cur = none ∧ r.held = [] then .next (s.flipNow h.val c.val) else .next s

end Sys2Proof.Machine
end

