-- ==== Sys2Proof/Machine/KilnCode.lean ====
section
/-! DEFINITION. Machine/KilnCode.lean: the numerics of the Kiln (R232 to R244): CRCs, segmentation, the codes, rate
matching, HARQ combining and decoding. Bit sequences are lists, first bit first. What R222 and R233 take from TS 38.212
and TS 36.212 follows those standards.
Choices of the model: log entries 9 (PRESUMED), 37 (DESIGN CHOICE). -/

namespace Sys2Proof.Machine

def ceilDiv (a b : Nat) : Nat := (a + b - 1) / b
def r64 (n : Nat) : Nat := ceilDiv n 64 * 64

/-! ## Bits -/

def byteBits (b : Nat) : List Bool := (List.range 8).map (fun i => nbitAt b (7 - i))
where nbitAt (v i : Nat) : Bool := decide (v / 2 ^ i % 2 = 1)

/-- The first `n` bits of a packed sequence (R232). -/
def unpackBits (bs : List Nat) (n : Nat) : List Bool := (bs.flatMap byteBits).take n

def bitsNat (l : List Bool) : Nat := l.foldl (fun n b => 2 * n + (if b then 1 else 0)) 0

/-- A bit sequence packed into bytes, unused bits zero (R232). -/
def packBits : Nat → List Bool → List Nat
  | 0, _ => []
  | n + 1, l => if l = [] then [] else bitsNat (l.take 8) * 2 ^ (8 - (l.take 8).length) :: packBits n (l.drop 8)

def packAll (l : List Bool) : List Nat := packBits l.length l

def natBits (w v : Nat) : List Bool := (List.range w).map (fun i => decide (v / 2 ^ (w - 1 - i) % 2 = 1))

def xorL (l : List Bool) : Bool := l.foldl (· ^^ ·) false

/-! ## CRCs -/

/-- A generator polynomial without its leading term, and its degree. -/
structure Poly where
  low : Nat
  deg : Nat
deriving DecidableEq, Repr

def gCrc24a : Poly := ⟨0x864CFB, 24⟩
def gCrc24b : Poly := ⟨0x800063, 24⟩
def gCrc24c : Poly := ⟨0xB2B117, 24⟩
def gCrc16 : Poly := ⟨0x1021, 16⟩
def gCrc11 : Poly := ⟨0x621, 11⟩
def gCrc6 : Poly := ⟨0x21, 6⟩

/-- POLY codes of R229. -/
def polyOf : Nat → Poly
  | 0 => gCrc24a
  | 1 => gCrc24b
  | 2 => gCrc24c
  | 3 => gCrc16
  | 4 => gCrc11
  | _ => gCrc6

/-- r·x + b modulo g. -/
def Poly.step (g : Poly) (r : Nat) (b : Bool) : Nat :=
  let v := 2 * r + (if b then 1 else 0)
  if 2 ^ g.deg ≤ v then Nat.xor (v - 2 ^ g.deg) g.low else v

/-- The remainder of a bit sequence, its first bit the highest power. -/
def Poly.rem (g : Poly) (l : List Bool) : Nat := l.foldl g.step 0

/-- The product of two remainders. -/
def Poly.mul (g : Poly) (a b : Nat) : Nat :=
  (natBits g.deg b).foldl (fun r x => Nat.xor (g.step r false) (if x then a else 0)) 0

/-- x^e modulo g, over the `n` low bits of e. -/
def Poly.pow (g : Poly) : Nat → Nat → Nat
  | 0, _ => 1
  | n + 1, e =>
    let h := g.pow n (e / 2)
    let q := g.mul h h
    if e % 2 = 1 then g.step q false else q

/-- The remainder followed by `e` zero bits. -/
def Poly.shift (g : Poly) (r e : Nat) : Nat := g.mul r (g.pow 40 e)

/-- The CRC bits of a sequence. -/
def Poly.crc (g : Poly) (l : List Bool) : List Bool := natBits g.deg (g.shift (g.rem l) g.deg)

/-- A sequence that ends in its own CRC passes. -/
def Poly.holds (g : Poly) (l : List Bool) : Bool := g.rem l == 0

/-! ## Segmentation (R233) -/

/-- A transport block's code blocks: their number, K′ (K+ for turbo), Zc, the length K of each, the filler of each, the
code-block CRC length, and the payload length of each. -/
structure Seg where
  c : Nat := 0
  kp : Nat := 0
  zc : Nat := 0
  ks : List Nat := []
  fill : List Nat := []
  lcb : Nat := 0
  plens : List Nat := []
deriving DecidableEq, Repr, Inhabited

/-- The 51 lifting sizes, increasing. -/
def liftSizes : List Nat :=
  [2, 3, 4, 5, 6, 7, 8, 9, 10, 11, 12, 13, 14, 15, 16, 18, 20, 22, 24, 26, 28, 30, 32, 36, 40, 44, 48, 52] ++
  [56, 60, 64, 72, 80, 88, 96, 104, 112, 120, 128, 144, 160, 176, 192, 208, 224, 240, 256, 288, 320, 352, 384]

/-- The lifting set of a lifting size: its odd part, 2 for powers of two. -/
def liftSet (z : Nat) : Nat :=
  ([2, 3, 5, 7, 9, 11, 13, 15].findIdx? (fun a => (List.range 8).any (fun j => a * 2 ^ j == z))).getD 0

/-- Length of the transport-block CRC of an LDPC job, and its polynomial. -/
def tbPoly (a : Nat) : Poly := if 3824 < a then gCrc24a else gCrc16

/-- LDPC segmentation; none where R230 makes it a FIELD error. -/
def ldpcSeg (a : Nat) (bg2 : Bool) : Option Seg :=
  let b := a + (tbPoly a).deg
  let kcb := if bg2 then 3840 else 8448
  let c := if b ≤ kcb then 1 else ceilDiv b (kcb - 24)
  let lcb := if b ≤ kcb then 0 else 24
  let bp := b + c * lcb
  if bp % c ≠ 0 ∨ (bp / c - lcb) % 8 ≠ 0 then none
  else
    let kp := bp / c
    let kb := if bg2 then (if 640 < b then 10 else if 560 < b then 9 else if 192 < b then 8 else 6) else 22
    match liftSizes.find? (fun z => decide (kp ≤ kb * z)) with
    | none => none
    | some z =>
      let k := (if bg2 then 10 else 22) * z
      some { c := c, kp := kp, zc := z, ks := List.replicate c k, fill := List.replicate c (k - kp), lcb := lcb,
             plens := List.replicate c (kp - lcb) }

/-- The code-block lengths of TS 36.212. -/
def turboKs : List Nat :=
  (List.range 60).map (fun i => 40 + 8 * i) ++ (List.range 32).map (fun i => 528 + 16 * i) ++
  (List.range 32).map (fun i => 1056 + 32 * i) ++ (List.range 64).map (fun i => 2112 + 64 * i)

def turboSeg (a : Nat) : Option Seg :=
  let b := a + 24
  let c := if b ≤ 6144 then 1 else ceilDiv b 6120
  let lcb := if b ≤ 6144 then 0 else 24
  let bp := b + c * lcb
  match turboKs.find? (fun k => decide (bp ≤ c * k)) with
  | none => none
  | some kp =>
    let km := if c = 1 then 0 else ((turboKs.filter (fun k => decide (k < kp))).getLast?).getD 0
    let cm := if c = 1 then 0 else (c * kp - bp) / (kp - km)
    let f := (c - cm) * kp + cm * km - bp
    let ks := List.replicate cm km ++ List.replicate (c - cm) kp
    let fill := f :: List.replicate (c - 1) 0
    some { c := c, kp := kp, zc := 0, ks := ks, fill := fill, lcb := lcb, plens := (ks.zip fill).map (fun x => x.1 - lcb - x.2) }

/-- Kw of TS 36.212. -/
def turboKw (k : Nat) : Nat := 96 * ceilDiv (k + 4) 32

/-- E_r of code block `r` (R233). -/
def rateE (g unit c r : Nat) : Nat :=
  let gp := g / unit
  unit * (if r + gp % c + 1 ≤ c then gp / c else ceilDiv gp c)

/-! ## LDPC -/

def ldpcRows (bg2 : Bool) : Nat := if bg2 then 42 else 46
def ldpcCols (bg2 : Bool) : Nat := if bg2 then 52 else 68
def ldpcInfo (bg2 : Bool) : Nat := if bg2 then 10 else 22
/-- N / Zc. -/
def ldpcDen (bg2 : Bool) : Nat := if bg2 then 50 else 66

/-- The entries of a base-graph row for lifting size `z`: column and shift. -/
def ldpcRow (bg2 : Bool) (z row : Nat) : List (Nat × Nat) :=
  (List.range (ldpcCols bg2)).filterMap (fun c => (Config.ldpcShift bg2 (liftSet z) row c).map (fun v => (c, v % z)))

/-- Bits of one block of `z` bits read at a rotation. -/
def rotBlock (z : Nat) (x : List Bool) (v : Nat) : List Bool := (List.range z).map (fun i => x.getD ((i + v) % z) false)

def xorBlocks (z : Nat) (l : List (List Bool)) : List Bool := (List.range z).map (fun i => xorL (l.map (fun b => b.getD i false)))

/-- The sum of the entries of a row over the known blocks. -/
def rowSum (z : Nat) (blocks : List (List Bool)) (es : List (Nat × Nat)) : List Bool :=
  xorBlocks z (es.map (fun e => rotBlock z (blocks.getD e.1 []) e.2))

/-- The parity blocks of an LDPC code word: the first solves the sum of the four core rows, each further one its own row. -/
def ldpcParity (bg2 : Bool) (z : Nat) (info : List (List Bool)) : List (List Bool) :=
  let kb := ldpcInfo bg2
  let core := (List.range 4).map (fun r => ldpcRow bg2 z r)
  let total := xorBlocks z (core.map (fun es => rowSum z info (es.filter (fun e => decide (e.1 < kb)))))
  let firstShifts := core.flatMap (fun es => (es.filter (fun e => e.1 == kb)).map Prod.snd)
  let x := (firstShifts.find? (fun v => firstShifts.count v % 2 == 1)).getD 0
  let p0 := rotBlock z total (z - x % z)
  (List.range (ldpcRows bg2 - 1)).foldl (fun ps i =>
    let n := i + 1
    let row := ldpcRow bg2 z (if n ≤ 3 then n - 1 else n)
    ps ++ [rowSum z (info ++ ps) (row.filter (fun e => decide (e.1 < kb + n)))]) [p0]

def chunks (z : Nat) : Nat → List Bool → List (List Bool)
  | 0, _ => []
  | n + 1, l => l.take z :: chunks z n (l.drop z)

/-- The circular buffer of an LDPC code block of K bits (fillers as zeros): everything after the first 2·Zc columns. -/
def ldpcEncode (bg2 : Bool) (z : Nat) (c : List Bool) : List Bool :=
  let info := chunks z (ldpcInfo bg2) c
  ((info ++ ldpcParity bg2 z info).flatten).drop (2 * z)

/-- k0 of a redundancy version. -/
def ldpcK0 (bg2 : Bool) (z ncb rv : Nat) : Nat :=
  let n := (if bg2 then [0, 13, 25, 43] else [0, 17, 33, 56]).getD rv 0
  n * ncb / (ldpcDen bg2 * z) * z

/-- The positions of a circular buffer from `k0` on that are not skipped, in order. -/
def ringOrder (ncb k0 : Nat) (skip : Nat → Bool) : List Nat :=
  ((List.range ncb).map (fun j => (k0 + j) % ncb)).filter (fun p => !skip p)

/-- Rate matching: `e` bits from the order. -/
def rateMatch (order : List Nat) (buf : List Bool) (e : Nat) : List Bool :=
  let arr := order.toArray
  let b := buf.toArray
  (List.range e).map (fun k => b.getD (arr.getD (k % arr.size) 0) false)

/-- Bit interleaving of TS 38.212 with Qm bits per symbol: f(i + j·Qm) = e(i·E/Qm + j). -/
def interleave (qm : Nat) (l : List Bool) : List Bool :=
  let m := l.length / qm
  let a := l.toArray
  (List.range l.length).map (fun k => a.getD (k % qm * m + k / qm) false)

/-- The position in e of input soft bit `k` of `e` (R231). -/
def deinterleave (qm e k : Nat) : Nat := k % qm * (e / qm) + k / qm

/-! ## Soft bits and HARQ combining (R231, R237) -/

def softOf (b : Nat) : Int :=
  let v : Int := if b % 256 < 128 then (b % 256 : Nat) else (b % 256 : Nat) - (256 : Nat)
  if v = -128 then -127 else v

def softByte (v : Int) : Nat := (v % 256).toNat

def clip (m : Int) (v : Int) : Int := if m < v then m else if v < -m then -m else v

/-- The sums of soft bits by position, and the positions that took a poisoned one. `pos k` is the position of soft bit
`k`. -/
def combineSums (ncb : Nat) (pos : Nat → Nat) (soft : List (Int × Bool)) : Array (Int × Bool) :=
  (soft.foldl (fun (x : Nat × Array (Int × Bool)) sb =>
    let p := pos x.1
    let o := x.2.getD p (0, false)
    (x.1 + 1, x.2.setIfInBounds p (o.1 + sb.1, o.2 || sb.2))) (0, Array.replicate ncb (0, false))).2

/-- The buffer after store or combine: filler positions hold +127 (R237). -/
def combineBuf (ncb : Nat) (filler : Nat → Bool) (sums : Array (Int × Bool)) (old : List (Int × Bool)) : List (Int × Bool) :=
  let o := old.toArray
  (List.range ncb).map (fun p =>
    let x := sums.getD p (0, false)
    let y := o.getD p (0, false)
    if filler p then (127, x.2 || y.2) else (clip 127 (x.1 + y.1), x.2 || y.2))

/-! ## LDPC decoding (R240 to R242) -/

def sgn (x : Int) : Int := if x < 0 then -1 else 1

/-- The lifted columns of row (block r, row z). -/
def liftedCols (z : Nat) (row : List (Nat × Nat)) (i : Nat) : List Nat := row.map (fun e => e.1 * z + (i + e.2) % z)

/-- One row of one iteration: the new messages and column values. -/
def ldpcRowStep (norm : Nat) (filler : Nat → Bool) (cols : List Nat) (app : Array Int) (msg : List Int) : List Int × Array Int :=
  let t := (cols.zip (msg ++ List.replicate cols.length 0)).map (fun x => clip 511 (app.getD x.1 0 - x.2))
  let mags := t.map Int.natAbs
  let m1 := mags.foldl min 512
  let jm := (mags.findIdx? (fun m => m == m1)).getD 0
  let m2 := ((mags.zipIdx).filter (fun x => x.2 != jm)).foldl (fun a x => min a x.1) 512
  let s := t.foldl (fun a x => a * sgn x) 1
  let new := (t.zipIdx).map (fun x =>
    let mag := if x.2 = jm then m2 else m1
    s * sgn x.1 * min (rshr ((norm * mag : Nat) : Int) 4) 63)
  let app' := ((cols.zip (t.zip new)).foldl (fun (a : Array Int) x =>
    if filler x.1 then a else a.setIfInBounds x.1 (clip 511 (x.2.1 + x.2.2))) app)
  (new, app')

/-- One iteration over every row. -/
def ldpcIter (norm z : Nat) (filler : Nat → Bool) (rows : List (List (Nat × Nat))) (st : Array Int × List (List Int)) : Array Int × List (List Int) :=
  let lifted := rows.flatMap (fun r => (List.range z).map (fun i => liftedCols z r i))
  let out := (lifted.zip (st.2 ++ List.replicate lifted.length [])).foldl (fun (x : Array Int × List (List Int)) cm =>
    let y := ldpcRowStep norm filler cm.1 x.1 cm.2
    (y.2, y.1 :: x.2)) (st.1, [])
  (out.1, out.2.reverse)

def hardBits (app : Array Int) : List Bool := app.toList.map (fun v => decide (v < 0))

def parityHolds (z : Nat) (rows : List (List (Nat × Nat))) (hard : List Bool) : Bool :=
  let h := hard.toArray
  rows.all (fun r => (List.range z).all (fun i => !xorL ((liftedCols z r i).map (fun c => h.getD c false))))

/-- Iterate until `stop` or the limit: the column values and the iterations performed. -/
def iterate {α : Type} (step : α → α) (stop : α → Bool) : Nat → Nat → α → α × Nat
  | 0, k, x => (x, k)
  | n + 1, k, x =>
    let y := step x
    if stop y then (y, k + 1) else iterate step stop n (k + 1) y

/-- What decoding one code block gives: its first K′ hard decisions, PASS and iterations. -/
structure Decoded where
  bits : List Bool
  pass : Bool
  iters : Nat
deriving DecidableEq, Repr

/-- LDPC_DEC of one code block from its combined buffer. -/
def ldpcDecode (bg2 : Bool) (z kp k ncb norm maxIter et : Nat) (g : Poly) (buf : List Int) : Decoded :=
  let rows := (List.range (ldpcRows bg2)).map (fun r => ldpcRow bg2 z r)
  let b := buf.toArray
  let filler := fun j => decide (kp ≤ j ∧ j < k)
  let app0 : Array Int := ((List.range (ldpcCols bg2 * z)).map (fun j =>
    if filler j then (511 : Int) else if j < 2 * z then 0 else if j - 2 * z < ncb then b.getD (j - 2 * z) 0 else 0)).toArray
  let ok := fun (x : Array Int × List (List Int)) => g.holds ((hardBits x.1).take kp)
  let stop := fun (x : Array Int × List (List Int)) =>
    (et == 1 && parityHolds z rows (hardBits x.1)) || (et == 2 && ok x) || (et == 3 && parityHolds z rows (hardBits x.1) && ok x)
  let r := iterate (ldpcIter norm z filler rows) stop maxIter 0 (app0, [])
  ⟨(hardBits r.1.1).take kp, ok r.1, r.2⟩

/-! ## Turbo -/

/-- One constituent encoder: parity of each input bit, and the state left (g0 = 13, g1 = 15 octal). -/
def rscRun : List Bool → Bool × Bool × Bool → List Bool × (Bool × Bool × Bool)
  | [], st => ([], st)
  | x :: r, (a, b, c) =>
    let fb := x ^^ b ^^ c
    let z := fb ^^ a ^^ c
    let y := rscRun r (fb, a, b)
    (z :: y.1, y.2)

/-- The termination of a constituent encoder: three input and three parity bits. -/
def rscTail : Nat → Bool × Bool × Bool → List (Bool × Bool)
  | 0, _ => []
  | n + 1, (a, b, c) => (b ^^ c, a ^^ c) :: rscTail n (false, a, b)

def qppIndex (k i : Nat) : Nat := ((Config.turboQpp k).1 * i + (Config.turboQpp k).2 * i * i) % k

/-- The three streams d0, d1, d2 of K + 4 bits. -/
def turboEncode (c : List Bool) : List Bool × List Bool × List Bool :=
  let k := c.length
  let a := c.toArray
  let x := rscRun c (false, false, false)
  let y := rscRun ((List.range k).map (fun i => a.getD (qppIndex k i) false)) (false, false, false)
  let t := rscTail 3 x.2
  let u := rscTail 3 y.2
  let xs := fun i => (t.getD i (false, false)).1
  let zs := fun i => (t.getD i (false, false)).2
  let xs' := fun i => (u.getD i (false, false)).1
  let zs' := fun i => (u.getD i (false, false)).2
  (c ++ [xs 0, zs 1, xs' 0, zs' 1], x.1 ++ [zs 0, xs 2, zs' 0, xs' 2], y.1 ++ [xs 1, zs 2, xs' 1, zs' 2])

def colPerm : List Nat := [0, 16, 8, 24, 4, 20, 12, 28, 2, 18, 10, 26, 6, 22, 14, 30, 1, 17, 9, 25, 5, 21, 13, 29, 3, 19, 11, 27, 7, 23, 15, 31]

/-- What position `p` of the circular buffer of TS 36.212 holds: stream and index, none for a dummy. -/
def turboPos (k p : Nat) : Option (Nat × Nat) :=
  let d := k + 4
  let rows := ceilDiv d 32
  let kpi := 32 * rows
  let nd := kpi - d
  let strm := if p < kpi then 0 else 1 + (p - kpi) % 2
  let q := if p < kpi then p else (p - kpi) / 2
  let col := colPerm.getD (q / rows) 0
  let y := if strm = 2 then (col + 32 * (q % rows) + 1) % kpi else col + 32 * (q % rows)
  if y < nd then none else some (strm, y - nd)

/-- A position that rate matching skips: a dummy, or a filler bit of the first two streams. -/
def turboSkip (k f p : Nat) : Bool :=
  match turboPos k p with
  | none => true
  | some (s, i) => decide (s < 2 ∧ i < f)

def turboFiller (k f p : Nat) : Bool :=
  match turboPos k p with
  | none => false
  | some (s, i) => decide (s < 2 ∧ i < f)

def turboK0 (k ncb rv : Nat) : Nat :=
  let rows := ceilDiv (k + 4) 32
  rows * (2 * ceilDiv ncb (8 * rows) * rv + 2)

/-- The circular buffer of an encoded code block; dummies as zeros. -/
def turboBuf (k : Nat) (d : List Bool × List Bool × List Bool) : List Bool :=
  let a := [d.1.toArray, d.2.1.toArray, d.2.2.toArray]
  (List.range (turboKw k)).map (fun p => match turboPos k p with
    | none => false
    | some (s, i) => (a.getD s #[]).getD i false)

/-- The soft streams d0, d1, d2 from the combined buffer; a position beyond Ncb carries no information. -/
def turboStreams (k : Nat) (buf : List Int) : List (Array Int) :=
  let b := buf.toArray
  let put := fun (st : List (Array Int)) (p : Nat) => match turboPos k p with
    | none => st
    | some (s, i) => st.set s ((st.getD s #[]).setIfInBounds i (b.getD p 0))
  (List.range (turboKw k)).foldl put (List.replicate 3 (Array.replicate (k + 4) 0))

structure TurboSt where
  apr : List Int
  hard : List Bool
  bor1 : List Int
  bor2 : List Int

/-- A full iteration: two half-iterations with extrinsic scaling (R243). -/
def turboIter (k ext : Nat) (st : List (Array Int)) (x : TurboSt) : TurboSt :=
  let d0 := st.getD 0 #[]
  let d1 := st.getD 1 #[]
  let d2 := st.getD 2 #[]
  let g := fun (a : Array Int) i => a.getD i 0
  let sys := (List.range k).map (g d0)
  let scale := fun (l : List Int) => l.map (fun e => clip 127 (rshr ((ext : Int) * e) 4))
  let h1 := Config.turboHalf k sys ((List.range k).map (g d1)) x.apr [g d0 k, g d2 k, g d1 (k + 1)] [g d1 k, g d0 (k + 1), g d2 (k + 1)] x.bor1
  let e1 := (scale h1.1).toArray
  let sysI := (List.range k).map (fun i => g d0 (qppIndex k i))
  let aprI := (List.range k).map (fun i => g e1 (qppIndex k i))
  let h2 := Config.turboHalf k sysI ((List.range k).map (g d2)) aprI [g d0 (k + 2), g d2 (k + 2), g d1 (k + 3)] [g d1 (k + 2), g d0 (k + 3), g d2 (k + 3)] x.bor2
  let back := fun (l : List Int) => ((l.zipIdx).foldl (fun (a : Array Int) v => a.setIfInBounds (qppIndex k v.2) v.1) (Array.replicate k 0)).toList
  ⟨back (scale h2.1), (back h2.2.1).map (fun v => decide (v < 0)), h1.2.2, h2.2.2⟩

/-- TURBO_DEC of one code block. -/
def turboDecode (k ext maxIter et : Nat) (g : Poly) (buf : List Int) : Decoded :=
  let st := turboStreams k buf
  let ok := fun (x : TurboSt) => g.holds x.hard
  let r := iterate (turboIter k ext st) (fun x => et == 2 && ok x) maxIter 0 ⟨List.replicate k 0, List.replicate k false, [], []⟩
  ⟨r.1.hard, ok r.1, r.2⟩

/-! ## Polar (R228, R244) -/

/-- log2 of the smallest power of two that is at least `x`. -/
def clog2 (x : Nat) : Nat := if x ≤ 1 then 0 else Nat.log2 (x - 1) + 1

/-- log2 of the mother code length for K bits in E. -/
def polarN (k e nmax : Nat) : Nat :=
  let c := clog2 e
  let n1 := if 8 * e ≤ 9 * 2 ^ (c - 1) ∧ 16 * k < 9 * e then c - 1 else c
  max (min (min n1 (clog2 (8 * k))) nmax) 5

def polarP : List Nat := [0, 1, 2, 4, 3, 5, 6, 7, 8, 16, 9, 17, 10, 18, 11, 19, 12, 20, 13, 21, 14, 22, 15, 23, 24, 25, 26, 28, 27, 29, 30, 31]

/-- The sub-block interleaver. -/
def polarJ (n i : Nat) : Nat :=
  let w := 2 ^ n / 32
  polarP.getD (32 * i / 2 ^ n) 0 * w + i % w

/-- The information positions, least reliable first. -/
def polarInfo (n k e npc : Nat) : List Nat :=
  let nn := 2 ^ n
  let tmp : List Nat :=
    if nn ≤ e then []
    else if 16 * k ≤ 7 * e then
      let t := if 3 * nn ≤ 4 * e then ceilDiv (3 * nn - 2 * e) 4 else ceilDiv (9 * nn - 4 * e) 16
      (List.range (nn - e)).map (polarJ n) ++ List.range t
    else (List.range (nn - e)).map (fun i => polarJ n (e + i))
  let q := ((List.range 1024).map Config.polarQ).filter (fun i => decide (i < nn) && !tmp.contains i)
  q.drop (q.length - (k + npc))

/-- The row weight of position `i`: 2 to the number of ones of i. -/
def rowWeight (i : Nat) : Nat := 2 ^ (((List.range 10).map (fun b => i / 2 ^ b % 2)).foldl (· + ·) 0)

/-- Parity-check positions: the least reliable ones, and one of least row weight among the rest, the most reliable of those. -/
def polarPc (info : List Nat) (npc wm : Nat) : List Nat :=
  let low := info.take (npc - wm)
  let best := info.drop npc
  let w := best.foldl (fun m i => min m (rowWeight i)) 1024
  low ++ (if wm = 0 then [] else ((best.filter (fun i => rowWeight i == w)).getLast?).toList)

/-- The transform by the Kronecker power of the kernel, in place order. -/
def polarTransform : Nat → List Bool → List Bool
  | 0, l => l
  | n + 1, l =>
    let a := polarTransform n (l.take (2 ^ n))
    let b := polarTransform n (l.drop (2 ^ n))
    List.zipWith (· ^^ ·) a b ++ b

/-- The parameters of one polar code block: mother code, K bits, parity-check positions. -/
structure PolarCode where
  n : Nat
  k : Nat
  e : Nat
  info : List Nat
  pc : List Nat

def polarCode (k e nmax : Nat) (uplink : Bool) : PolarCode :=
  let n := polarN k e nmax
  let npc := if uplink ∧ 18 ≤ k ∧ k ≤ 25 then 3 else 0
  let wm := if npc = 3 ∧ 192 < e + 3 - k then 1 else 0
  let info := polarInfo n k e npc
  ⟨n, k, e, info, if npc = 0 then [] else polarPc info npc wm⟩

/-- The y registers of the parity-check construction: rotate, then take in a bit. -/
def pcRotate (y : List Bool) : List Bool := y.drop 1 ++ y.take 1
def pcFeed (y : List Bool) (u : Bool) : List Bool := ((y.getD 0 false) ^^ u) :: y.drop 1

/-- The bits u of a code word. -/
def polarU (p : PolarCode) (c : List Bool) : List Bool :=
  ((List.range (2 ^ p.n)).foldl (fun (x : List Bool × List Bool × List Bool) i =>
    let y := pcRotate x.2.1
    if p.info.contains i then
      if p.pc.contains i then (y.getD 0 false :: x.1, y, x.2.2)
      else
        let u := x.2.2.getD 0 false
        (u :: x.1, pcFeed y u, x.2.2.drop 1)
    else (false :: x.1, y, x.2.2)) ([], List.replicate 5 false, c)).1.reverse

/-- What rate-matched bit `k` is of the mother code word: its index. -/
def polarSel (p : PolarCode) (k : Nat) : Nat :=
  let nn := 2 ^ p.n
  polarJ p.n (if nn ≤ p.e then k % nn else if 16 * p.k ≤ 7 * p.e then k + (nn - p.e) else k)

/-- Coded-bit interleaving (uplink): read position of output bit. -/
def triOrder (e : Nat) : List Nat :=
  let t := ((List.range (e + 1)).find? (fun t => decide (e ≤ t * (t + 1) / 2))).getD 0
  (List.range t).flatMap (fun j => (List.range (t - j)).filterMap (fun i =>
    let start := i * t - i * (i - 1) / 2
    let v := start + j
    if v < e then some v else none))

def polarEncode (p : PolarCode) (uplink : Bool) (c : List Bool) : List Bool :=
  let d := (polarTransform p.n (polarU p c)).toArray
  let e := ((List.range p.e).map (fun k => d.getD (polarSel p k) false))
  if uplink then
    let a := e.toArray
    (triOrder p.e).map (fun v => a.getD v false)
  else e

/-- LLRs of the mother code word from the soft bits. -/
def polarLlrs (p : PolarCode) (uplink : Bool) (soft : List Int) : List Int :=
  let nn := 2 ^ p.n
  let s := soft.toArray
  let e : Array Int := if uplink then
      (((triOrder p.e).zipIdx).foldl (fun (a : Array Int) x => a.setIfInBounds x.1 (s.getD x.2 0)) (Array.replicate p.e 0))
    else s
  let shortened := nn > p.e ∧ ¬ 16 * p.k ≤ 7 * p.e
  let init : Array Int := Array.replicate nn (if shortened then 255 else 0)
  let zeroed := if shortened then (List.range p.e).foldl (fun (a : Array Int) k => a.setIfInBounds (polarSel p k) 0) init else init
  ((List.range p.e).foldl (fun (a : Array Int) k =>
    let i := polarSel p k
    a.setIfInBounds i (clip 255 (a.getD i 0 + e.getD k 0))) zeroed).toList

def polarF (a b : Int) : Int := sgn a * sgn b * ((min a.natAbs b.natAbs : Nat) : Int)
def polarG (a b : Int) (u : Bool) : Int := clip 255 (b + (if u then -a else a))

/-- The LLR of leaf `us.length` given the decisions `us` before it. -/
def polarLeaf : Nat → List Int → List Bool → Int
  | 0, l, _ => l.headD 0
  | n + 1, l, us =>
    let a := l.take (2 ^ n)
    let b := l.drop (2 ^ n)
    if us.length < 2 ^ n then polarLeaf n (List.zipWith polarF a b) us
    else
      let x := polarTransform n (us.take (2 ^ n))
      polarLeaf n ((List.zipWith (fun p u => polarG p.1 p.2 u) (a.zip b) x)) (us.drop (2 ^ n))

/-- A path: its decisions, metric, parity registers and information bits. -/
structure PolarPath where
  us : List Bool
  metric : Nat
  y : List Bool
  c : List Bool

def penalty (m : Nat) (l : Int) (u : Bool) : Nat := if u = decide (l < 0) then m else min 65535 (m + l.natAbs)

/-- Insert by metric behind equal metrics. -/
def insertPath (p : PolarPath) : List PolarPath → List PolarPath
  | [] => [p]
  | q :: r => if p.metric < q.metric then p :: q :: r else q :: insertPath p r

def sortPaths (l : List PolarPath) : List PolarPath := l.foldl (fun acc p => insertPath p acc) []

/-- Keep the `n` paths of lowest metric, in their order. -/
def keepPaths (n : Nat) (l : List PolarPath) : List PolarPath :=
  let idx := (l.zipIdx).map (fun x => (x.2, x.1.metric))
  (l.zipIdx).filterMap (fun x =>
    let before := (idx.filter (fun y => decide (y.2 < x.1.metric) || (y.2 == x.1.metric && decide (y.1 < x.2)))).length
    if before < n then some x.1 else none)

/-- One leaf of list decoding. -/
def polarLeafStep (p : PolarCode) (list : Nat) (llrs : List Int) (paths : List PolarPath) (i : Nat) : List PolarPath :=
  let one := fun (q : PolarPath) =>
    let l := polarLeaf p.n llrs q.us
    let y := pcRotate q.y
    if p.info.contains i then
      if p.pc.contains i then
        let u := y.getD 0 false
        [({ us := q.us ++ [u], metric := penalty q.metric l u, y := y, c := q.c } : PolarPath)]
      else
        [false, true].map (fun u => { us := q.us ++ [u], metric := penalty q.metric l u, y := pcFeed y u, c := q.c ++ [u] })
    else [{ us := q.us ++ [false], metric := penalty q.metric l false, y := y, c := q.c }]
  keepPaths list (paths.flatMap one)

/-- The surviving paths in order of increasing metric: their K information bits. -/
def polarList (p : PolarCode) (list : Nat) (llrs : List Int) : List (List Bool) :=
  let r := (List.range (2 ^ p.n)).foldl (fun ps i => polarLeafStep p list llrs ps i)
    [{ us := [], metric := 0, y := List.replicate 5 false, c := [] }]
  (sortPaths r).map (·.c)

/-! ### Payloads -/

/-- Input interleaving: bit `i` of c' is bit π(i) of c. -/
def iilOrder (k : Nat) : List Nat :=
  ((List.range 164).map Config.polarIil).filterMap (fun x => if 164 - k ≤ x then some (x - (164 - k)) else none)

def polarPoly : Nat → Poly
  | 0 => gCrc24c
  | 1 => gCrc11
  | _ => gCrc6

/-- The CRC bits of a payload, masked by RNTI in the downlink. -/
def polarCrc (crc rnti : Nat) (a : List Bool) : List Bool :=
  let g := polarPoly crc
  let pre := if crc = 0 && Config.polarOnes a.length rnti then List.replicate 24 true else []
  let p := g.crc (pre ++ a)
  if crc = 0 then List.zipWith (· ^^ ·) p (natBits 24 rnti) else p

/-- The payload segments: with SEG, two halves, a zero in front of the first where A is odd. -/
def polarSegments (seg : Bool) (a : List Bool) : List (List Bool) :=
  if seg then
    let x := if a.length % 2 = 1 then false :: a else a
    [x.take (x.length / 2), x.drop (x.length / 2)]
  else [a]

/-- POLAR_ENC of one code word. -/
def polarEncWord (crc rnti e nmax : Nat) (seg : Bool) (a : List Bool) : List Bool :=
  let uplink := decide (crc ≠ 0)
  let segs := polarSegments seg a
  let er := e / segs.length
  let out := segs.flatMap (fun s =>
    let c := s ++ polarCrc crc rnti s
    let arr := c.toArray
    let c' := if uplink then c else (iilOrder c.length).map (fun i => arr.getD i false)
    polarEncode (polarCode c.length er nmax uplink) uplink c')
  out ++ List.replicate (e - out.length) false

/-- POLAR_DEC of one code word: the payload and whether it passes. -/
def polarDecWord (crc rnti a e nmax list : Nat) (seg : Bool) (soft : List Int) : List Bool × Bool :=
  let uplink := decide (crc ≠ 0)
  let g := polarPoly crc
  let n := if seg then 2 else 1
  let as := if seg then ceilDiv a 2 else a
  let er := e / n
  let p := polarCode (as + g.deg) er nmax uplink
  let one := fun (s : List Int) =>
    let cands := (polarList p list (polarLlrs p uplink s)).map (fun c' =>
      if uplink then c'
      else (((iilOrder p.k).zip c').foldl (fun (arr : Array Bool) x => arr.setIfInBounds x.1 x.2) (Array.replicate p.k false)).toList)
    let ok := fun (c : List Bool) => decide (c.drop as = polarCrc crc rnti (c.take as))
    match cands.find? ok with
    | some c => (c.take as, true)
    | none => ((cands.headD []).take as, false)
  let rs := (List.range n).map (fun i => one ((soft.drop (i * er)).take er))
  let bits := rs.flatMap Prod.fst
  (bits.drop (bits.length - a), rs.all Prod.snd)

end Sys2Proof.Machine
end

