-- ==== Sys2Proof/Machine/Workshop.lean ====
section
/-! DEFINITION. Machine/Workshop.lean: what the Kiln, the Wheel and the Mill share: engines and their jobs, checkpoints,
sweeps, aborts, result records and end statuses (R224, R225, R245 to R250, R255 to R262). Workshops are numbered 0 Kiln,
1 Wheel, 2 Mill.
Choices of the model: log entries 36 (DEDUCED), 38 (DEDUCED). -/

namespace Sys2Proof.Machine

def wsMid (w : Nat) : Mid := BitVec.ofNat 8 (0xB3 + w)

/-- A field of a register at the offset that the three workshops share. -/
def wsFld (w off lo wd reset : Nat) : Fld := ⟨0x4B000000 + w * 0x01000000 + off, lo, wd, reset⟩

def wsEnable (w : Nat) : Fld := wsFld w 0 0 1 0
def engEn (w : Nat) : Fld := wsFld w 8 0 (if w = 2 then 8 else 16) (if w = 2 then 255 else 65535)
def engCount (w : Nat) : Nat := if w = 2 then 8 else 16
def wsCounter (w off : Nat) : Fld := wsFld w off 0 32 0

def jobKey (w e : Nat) : Nat := w * 16 + e
def State.jobs (s : State) (w e : Nat) : List WsJob := s.ws.jobs.get (jobKey w e)
def State.job (s : State) (w e i : Nat) : Option WsJob := (s.jobs w e)[i]?

/-- ENG_STATE shows the engine (R253, R289). -/
def State.showEng (s : State) (w e : Nat) : State :=
  let l := s.jobs w e
  let on := nbit (s.rd (engEn w)) e
  let st := if on then (if l = [] then 0 else 1) else (if l = [] then 2 else 3)
  let name := match l with
    | j :: _ => if j.started then ((s.item j.slot).map (·.name)).getD 0 else 0
    | [] => 0
  ((s.wr (wsFld w (0x40 + 4 * e) 30 2 0) st).wr (wsFld w (0x40 + 4 * e) 28 2 0) l.length).wr (wsFld w (0x40 + 4 * e) 0 24 0) name

/-- HANDLE_WAITING shows whether a Kiln job waits (R239, R253). -/
def State.showWaiting (s : State) : State := s.wrB R.KILN_STATUS_HANDLE_WAITING (s.ws.jobs.any (fun k l => decide (k < 16) && l.any (·.waiting)))

def State.setJobs (s : State) (w e : Nat) (l : List WsJob) : State :=
  (State.showEng { s with ws := { s.ws with jobs := s.ws.jobs.set (jobKey w e) l } } w e).showWaiting

def State.setJob (s : State) (w e i : Nat) (j : WsJob) : State := s.setJobs w e ((s.jobs w e).set i j)

/-- The deadline of a job's item has passed (R45). -/
def State.jobLate (s : State) (j : WsJob) : Bool :=
  match s.item j.slot with
  | some i => s.late i
  | none => false

/-- The window of a job's item. -/
def State.jobWindow (s : State) (j : WsJob) : Option (Nat × Nat) :=
  match s.item j.slot with
  | some i => i.window.map (fun x => (x.1, x.2.1))
  | none => none

/-- A job is still undecided: no outcome, and outputs not all acknowledged. -/
def WsJob.live (j : WsJob) : Bool := j.decided.isNone && !j.outs

def WsJob.stop (j : WsJob) (o : ItemEnd) (error : Nat) : WsJob := { j with decided := some o, error := error }

/-- The HARQ area of the Cellar (R235). -/
def State.harqLo (s : State) : Nat := cellarBase + s.rd R.KILN_HARQ_AREA_BASE * 0x100000
def State.harqHi (s : State) : Nat := s.harqLo + s.rd R.KILN_HARQ_AREA_SIZE * 0x100000

/-- The regions of R226 and R255: the Granary, or the Cellar outside the HARQ area. -/
def State.inRegion (s : State) (a n : Nat) : Bool :=
  decide (a + n ≤ granaryEnd) ||
  (decide (cellarBase ≤ a) && decide (a + n ≤ cellarEnd) && (decide (a + n ≤ s.harqLo) || decide (s.harqHi ≤ a) || decide (n = 0)))

def overlaps (a n b m : Nat) : Bool := decide (a < b + m) && decide (b < a + n)

/-- The first two checks at staging (R230, R258): the descriptor's address, then its read. An error code, or its words. -/
def State.readJob (s : State) (w addr : Nat) : Except Nat (List Nat) × State :=
  if !s.inRegion addr 0x60 then (.error 3, s)
  else match s.dmaRead (wsMid w) addr 64 with
    | (none, t) => (.error 6, t)
    | (some l, t) => if anyBad l then (.error 5, t) else (.ok (le32 16 (byteVals l)), t)

/-- The job's outcome as its record carries it: decided, or OK, or POISONED where it read poison (R248, R273, R285). -/
def WsJob.outcome (j : WsJob) : ItemEnd :=
  match j.decided with
  | some o => o
  | none => if j.poisoned then .poisoned else .ok

/-- Counters of an ended job (R253, R289). -/
def State.countJob (s : State) (w : Nat) (o : ItemEnd) (abortLate : Bool) : State :=
  let t := match o with
    | .ok => s.inc (wsCounter w 0x200)
    | .lapsed => s.inc (wsCounter w 0x204)
    | .aborted => s.inc (wsCounter w 0x208)
    | .poisoned => s.inc (wsCounter w 0x20C)
  if abortLate then t.inc (wsCounter w 0x210) else t

/-- Write the result record at the descriptor + 0x40: whether it is acknowledged (R224, R256). `marks` tells the 64-bit
words that are written poisoned. -/
def State.writeRecord (s : State) (w : Nat) (j : WsJob) (words : List Nat) (marks : List Bool) : Bool × State :=
  s.dmaWrite (wsMid w) (j.addr + 0x40) (((words.flatMap bytesOf32).zipIdx).map (fun x => (x.1, marks.getD (x.2 / 8) false)))

/-- End job `i` of engine `e`: the record, the counters, the end status on its way, and the place free (R224, R247, R256). -/
def State.endJob (s : State) (w e i : Nat) (recordOk : Bool) (record : WsJob → State → List Nat × List Bool) : State :=
  match s.job w e i with
  | none => s
  | some j0 =>
    let j := { j0 with abortLate := j0.abortLate && decide (j0.outcome = .ok) }
    let r := record j s
    let x := if recordOk then s.writeRecord w j r.1 r.2 else (false, s)
    let o : ItemEnd := if x.1 then j.outcome else .aborted
    let late := x.1 && j.abortLate
    let t := (x.2.countJob w o late).setJobs w e ((x.2.jobs w e).eraseIdx i)
    { t with reeve := { t.reeve with wsEnds := t.reeve.wsEnds ++ [⟨j.slot, o, late⟩] } }

/-- Change every job of a workshop; the functions may change the rest of the state. -/
def State.overJobs (s : State) (w : Nat) (f : State → Nat → Nat → WsJob → State) : State :=
  (List.range (engCount w)).foldl (fun t e => (List.range 2).foldl (fun u i => match u.job w e i with
    | some j => f u e i j
    | none => u) t) s

/-- A window whose sweep instant has been reached (R50). -/
def State.sweepReached (s : State) (g w : Nat) : Bool :=
  (s.stp.groups.get g).windows.any (fun x => decide (x.wtag = w) && s.reached x.sweepNs)

/-- Lapse every undecided job of a window (R246, R260). `extra` completes the unit write under way. -/
def State.sweepWs (s : State) (w g tag : Nat) (extra : State → Nat → Nat → WsJob → WsJob × State) : State :=
  s.overJobs w (fun t e i j =>
    if j.live && decide (t.jobWindow j = some (g, tag)) then
      let x := extra t e i j
      (((x.2.setJob w e i (x.1.stop .lapsed 0)).inc (wsCounter w 0x214)).inc (R.LG_SWEEP_LAPSED g))
    else t)

/-- An abort of item `slot` reaches the engines of workshop `w` (R247, R261): OK with ABORT_LATE where every output has
been acknowledged, else ABORTED. An end status that has left and not arrived becomes ABORT_LATE. -/
def State.abortWs (s : State) (w slot : Nat) (extra : State → Nat → Nat → WsJob → WsJob × State) : State :=
  let held := (List.range (engCount w)).any (fun e => (s.jobs w e).any (fun j => j.slot == slot))
  let t := { s with reeve := { s.reeve with wsAborts := s.reeve.wsAborts.filter (fun k => k != slot) } }
  if held then
    t.overJobs w (fun u e i j =>
      if j.slot ≠ slot then u
      else if j.live then
        let x := if j.started then extra u e i j else (j, u)
        x.2.setJob w e i (x.1.stop .aborted 0)
      else if j.decided = none then u.setJob w e i { j with abortLate := true }
      else u)
  else
    let hit := fun (x : WsEnd) => decide (x.slot = slot) && decide (x.status = .ok) && !x.abortLate
    if t.reeve.wsEnds.any hit then
      State.inc { t with reeve := { t.reeve with wsEnds := t.reeve.wsEnds.map (fun x => if hit x then { x with abortLate := true } else x) } } (wsCounter w 0x210)
    else t

/-- A job whose deadline has passed at a checkpoint ends LAPSED (R245, R259). -/
def State.lapseJob (s : State) (w e i : Nat) (extra : State → Nat → Nat → WsJob → WsJob × State) : State :=
  match s.job w e i with
  | none => s
  | some j =>
    if j.live && s.jobLate j then
      let x := if j.started then extra s e i j else (j, s)
      x.2.setJob w e i (x.1.stop .lapsed 0)
    else s

/-- Work up to `n` units of the running job of an engine: `unit` works one and says whether it was the last. A job starts
when it is first worked; its deadline is checked at start and after each unit (R245, R259). -/
def State.workUnits (s : State) (w e : Nat) (unit : State → WsJob → WsJob × State) (last : WsJob → Bool) : Nat → State
  | 0 => s
  | n + 1 =>
    match s.job w e 0 with
    | none => s
    | some j0 =>
      if !j0.live || j0.waiting then s
      else if s.jobLate j0 then s.setJob w e 0 ({ j0 with started := true }.stop .lapsed 0)
      else
        let x := unit s { j0 with started := true }
        let j := if x.1.decided = none ∧ last x.1 then { x.1 with outs := true } else x.1
        State.workUnits (x.2.setJob w e 0 j) w e unit last n

/-- WORKSHOP_ENG_EN_WRITE: an engine whose bit is 0 is given no new job; its jobs run on (R225, R257). -/
def execWorkshopEngEnWrite (w : Fin 3) (v : Word) (s : State) : Outc :=
  .next ((List.range (engCount w.val)).foldl (fun t e => t.showEng w.val e) (s.wr (engEn w.val) (bitsOf v 0 (engCount w.val))))

end Sys2Proof.Machine
end

