-- ==== Sys2Proof/Machine/Kiln.lean ====
section
/-! DEFINITION. Machine/Kiln.lean: the channel coding engines: job checks, jobs, HARQ handles, ends (R221 to R253).
Choices of the model: log entries 9 (PRESUMED), 37 (DESIGN CHOICE), 38 (DEDUCED). -/

namespace Sys2Proof.Machine

/-! ## Descriptors (R226 to R229) -/

/-- The bits of words 0x00 to 0x10 that an OP's tables assign; every other bit must be zero. -/
def kilnMasks (op : Nat) : List Nat :=
  match op with
  | 1 => [0x8F3FF0, 0x1FFFFF, 0xFFFFFFF7, 0xFFFFFFFF, 0x3FFF]
  | 2 => [0x800000, 0x1FFFFF, 0xFFFFFFF7, 0xFFFFFFFF, 0]
  | 3 => [0xF30F00, 0x3FFF07FF, 0xFC00FFFF, 0, 0]
  | 4 => [0xF00F00, 0x3FFF07FF, 0xFC00FFFF, 0, 0]
  | 5 => [0x0F3F0F, 0x1FFFFF, 0xFFFFFFF7, 0xFFFFFFFF, 0x3FFF]
  | 6 => [0, 0x1FFFFF, 0xFFFFFFF7, 0xFFFFFFFF, 0]
  | 7 => [0xE00000, 0xFFFFFF, 0xFFFFFFFF, 0, 0]
  | _ => []

def wd (ws : List Nat) (i : Nat) : Nat := ws.getD i 0

/-- FORMAT is 0x1, the OP is one of R221, and every unassigned bit and word is zero. -/
def kilnForm (ws : List Nat) : Bool :=
  let op := nbits (wd ws 0) 28 4
  let m := kilnMasks op
  decide (nbits (wd ws 0) 24 4 = 1) && decide (m ≠ []) &&
  (m.zipIdx).all (fun x => decide (Nat.land (if x.2 = 0 then wd ws 0 % 2 ^ 24 else wd ws x.2) x.1 = (if x.2 = 0 then wd ws 0 % 2 ^ 24 else wd ws x.2))) &&
  [5, 6, 7, 10, 11, 12, 13, 14, 15].all (fun i => wd ws i == 0) && (op != 7 || wd ws 9 == 0)

def jobIn (ws : List Nat) : Nat := wd ws 8 * 256
def jobOut (ws : List Nat) : Nat := wd ws 9 * 256
def jobOp (ws : List Nat) : Nat := nbits (wd ws 0) 28 4

/-- A transport-block job (OP 1, 2, 5, 6) as its fields give it. -/
structure TbJob where
  turbo : Bool
  decode : Bool
  bg2 : Bool
  mode : Nat
  et : Nat
  maxIter : Nat
  norm : Nat
  a : Nat
  g : Nat
  rv : Nat
  qm : Nat
  nl : Nat
  first : Nat
  count : Nat
  ncb : Nat
  handle : Nat
  seg : Seg
deriving DecidableEq, Repr

/-- The fields of a transport-block job, none at a FIELD error (R227, R230). -/
def parseTb (ws : List Nat) : Option TbJob :=
  let op := jobOp ws
  let turbo := decide (op = 5 ∨ op = 6)
  let decode := decide (op = 1 ∨ op = 5)
  let w0 := wd ws 0
  let a := wd ws 1 % 2 ^ 21
  let g := nbits (wd ws 2) 10 22
  let qm := nbits (wd ws 2) 4 4
  let nl := nbits (wd ws 2) 0 3
  let first := nbits (wd ws 3) 24 8
  let count := nbits (wd ws 3) 16 8
  let ncb := nbits (wd ws 3) 0 16
  let mode := nbits w0 18 2
  let et := nbits w0 16 2
  let mi := nbits w0 8 6
  let nf := if turbo then nbits w0 0 4 else nbits w0 4 4
  let bg2 := nbit w0 23
  let unit := nl * qm
  let ranges := [1, 2, 4, 6, 8, 10].contains qm && decide (1 ≤ g) && decide (1 ≤ count ∧ count ≤ 64) &&
    decide (1 ≤ nl ∧ nl ≤ (if turbo then 2 else 4)) && decide ((if turbo then 16 else 24) ≤ a ∧ a ≤ 1277992) && (!turbo || a % 8 == 0)
  let dec := !decode || (mode != 3 && (nf == 0 || decide (8 ≤ nf)) && decide (1 ≤ mi) &&
    (if turbo then decide (mi ≤ 16) && (et == 0 || et == 2) else decide (mi ≤ 32)))
  if !(ranges && dec) then none
  else match (if turbo then turboSeg a else ldpcSeg a bg2) with
    | none => none
    | some sg =>
      let top := if turbo then turboKw sg.kp else ldpcDen bg2 * sg.zc
      if g % unit ≠ 0 ∨ sg.c < first + count ∨ g / unit < sg.c ∨ top < ncb then none
      else some { turbo := turbo, decode := decode, bg2 := bg2, mode := if decode then mode else 0, et := et, maxIter := mi,
                  norm := if nf = 0 then 16 else nf, a := a, g := g, rv := nbits (wd ws 2) 8 2, qm := qm, nl := nl, first := first,
                  count := count, ncb := ncb, handle := wd ws 4 % 2 ^ 14, seg := sg }

namespace TbJob

def tb (t : TbJob) : Poly := if t.turbo then gCrc24a else tbPoly t.a
/-- B, the length of b. -/
def blen (t : TbJob) : Nat := t.a + t.tb.deg
def k (t : TbJob) (r : Nat) : Nat := t.seg.ks.getD r 0
def fill (t : TbJob) (r : Nat) : Nat := t.seg.fill.getD r 0
def plen (t : TbJob) (r : Nat) : Nat := t.seg.plens.getD r 0
def full (t : TbJob) (r : Nat) : Nat := if t.turbo then turboKw (t.k r) else ldpcDen t.bg2 * t.seg.zc
/-- Ncb of code block `r`, and the stride S of its HARQ buffer (R237). -/
def ncbOf (t : TbJob) (r : Nat) : Nat := if t.ncb = 0 then t.full r else min t.ncb (t.full r)
def stride (t : TbJob) : Nat :=
  let top := if t.turbo then turboKw t.seg.kp else t.full 0
  r64 (if t.ncb = 0 then top else min t.ncb top)
def e (t : TbJob) (r : Nat) : Nat := rateE t.g (t.nl * t.qm) t.seg.c r
/-- Coded bits of the job before code block `r`, and payload bits of b before it. -/
def eOff (t : TbJob) (r : Nat) : Nat := ((List.range (r - t.first)).map (fun i => t.e (t.first + i))).foldl (· + ·) 0
def pos (t : TbJob) (r : Nat) : Nat := (t.seg.plens.take r).foldl (· + ·) 0
def skip (t : TbJob) (r p : Nat) : Bool :=
  if t.turbo then turboSkip (t.k r) (t.fill r) p
  else decide (t.seg.kp ≤ p + 2 * t.seg.zc ∧ p + 2 * t.seg.zc < t.k r)
def filler (t : TbJob) (r p : Nat) : Bool :=
  if t.turbo then turboFiller (t.k r) (t.fill r) p
  else decide (t.seg.kp ≤ p + 2 * t.seg.zc ∧ p + 2 * t.seg.zc < t.k r)
/-- The order in which rate matching reads the circular buffer of code block `r`. -/
def order (t : TbJob) (r : Nat) : List Nat :=
  let ncb := t.ncbOf r
  let k0 := if t.turbo then turboK0 (t.k r) ncb t.rv else ldpcK0 t.bg2 t.seg.zc ncb t.rv
  ringOrder ncb k0 (t.skip r)
def last (t : TbJob) : Nat := t.first + t.count

end TbJob

/-- A polar job's fields. -/
structure PolarJob where
  crc : Nat
  seg : Bool
  list : Nat
  nmax : Nat
  e : Nat
  a : Nat
  count : Nat
  rnti : Nat
deriving DecidableEq, Repr

def parsePolar (ws : List Nat) : Option PolarJob :=
  let w0 := wd ws 0
  let crc := nbits w0 22 2
  let iil := nbit w0 21
  let seg := nbit w0 20
  let nmax := nbits w0 8 4
  let e := nbits (wd ws 1) 16 14
  let a := nbits (wd ws 1) 0 11
  let rnti := nbits (wd ws 2) 0 16
  let l := (polarPoly crc).deg
  let a2 := if seg then ceilDiv a 2 else a
  let e2 := if seg then e / 2 else e
  let dir := if crc = 0 then iil && nmax == 9 && !seg
    else !iil && nmax == 10 && rnti == 0 && (if a ≤ 19 then crc == 2 else crc == 1)
  if crc ≠ 3 ∧ (1 ≤ e ∧ e ≤ 8192) ∧ (12 ≤ a ∧ a ≤ 1706) ∧ a2 + l < e2 ∧ dir then
    some { crc := crc, seg := seg, list := 2 ^ nbits w0 16 2, nmax := nmax, e := e, a := a, count := nbits (wd ws 2) 26 6 + 1, rnti := rnti }
  else none

def PolarJob.inLen (p : PolarJob) (decode : Bool) : Nat := if decode then p.e else ceilDiv p.a 8
def PolarJob.outLen (p : PolarJob) (decode : Bool) : Nat := if decode then ceilDiv p.a 8 else ceilDiv p.e 8

/-- A CRC job's fields (R229). -/
structure CrcJob where
  g : Poly
  len : Nat
  tail : Nat
deriving DecidableEq, Repr

def parseCrc (ws : List Nat) : Option CrcJob :=
  let p := nbits (wd ws 0) 21 3
  let n := wd ws 1 % 2 ^ 24
  if p ≤ 5 ∧ 1 ≤ n then some ⟨polyOf p, n, wd ws 2⟩ else none

inductive KJob where
  | tb (t : TbJob)
  | polar (decode : Bool) (p : PolarJob)
  | crc (c : CrcJob)
deriving DecidableEq, Repr

/-- The fourth check of R230. -/
def parseKiln (ws : List Nat) : Option KJob :=
  if kilnForm ws then
    match jobOp ws with
    | 3 => (parsePolar ws).map (.polar true)
    | 4 => (parsePolar ws).map (.polar false)
    | 7 => (parseCrc ws).map .crc
    | _ => (parseTb ws).map .tb
  else none

def KJob.harq : KJob → Option (Nat × Nat × Nat)
  | .tb t => if t.mode ≠ 0 then some (t.handle, t.first, t.last) else none
  | _ => none

/-- How many units a job has: code blocks, code words, or pieces of 64 KiB of CRC input. -/
def KJob.units : KJob → Nat
  | .tb t => t.count
  | .polar _ p => p.count
  | .crc c => ceilDiv (ceilDiv c.len 8) 65536

/-- The ranges a job reads and writes: address, bytes, and whether it is an output. -/
def KJob.ranges (j : KJob) (ws : List Nat) : List (Nat × Nat × Bool) :=
  match j with
  | .crc c => [(jobIn ws, ceilDiv c.len 8, false)]
  | .polar d p => [(jobIn ws, p.count * r64 (p.inLen d), false), (jobOut ws, p.count * r64 (p.outLen d), true)]
  | .tb t =>
    let p0 := t.pos t.first
    let p1 := t.pos t.last
    let et := t.eOff t.last
    if t.decode then [(jobIn ws, et, false), (jobOut ws + p0 / 8, (p1 - p0) / 8, true)]
    else
      let whole := t.last = t.seg.c
      let a0 := if whole then 0 else p0 / 8
      let a1 := if whole then ceilDiv t.a 8 else ceilDiv (min p1 t.a) 8
      [(jobIn ws + a0, a1 - a0, false), (jobOut ws, ceilDiv et 8, true)]

def State.handle (s : State) (h : Nat) : Handle := s.ws.handles.get h
def State.setHandle (s : State) (h : Nat) (x : Handle) : State :=
  let t := { s with ws := { s.ws with handles := s.ws.handles.set h x } }
  t.wr R.KILN_HARQ_HELD_HELD (t.ws.handles.count (fun _ y => decide (y.st ≠ 0)))

/-- The checks of R230 from the OP on: an error code, 0 for none. -/
def State.kilnCheck (s : State) (accept addr : Nat) (ws : List Nat) : Nat :=
  if jobOp ws ≠ accept then 2
  else match parseKiln ws with
    | none => 1
    | some j =>
      if (j.ranges ws).any (fun r => decide (r.2.1 ≠ 0) && (!s.inRegion r.1 r.2.1 || (r.2.2 && overlaps r.1 r.2.1 addr 64))) then 3
      else match j with
        | .tb t => if t.mode ≠ 0 ∧ ((s.handle t.handle).st ≠ 1 ∨ (s.handle t.handle).len * 4096 < t.seg.c * t.stride) then 4 else 0
        | _ => 0

/-- The HARQ handle and code blocks that a held job names. -/
def WsJob.harq (j : WsJob) : Option (Nat × Nat × Nat) := (parseKiln j.words).bind (·.harq)

/-- Some held job names handle `h`. -/
def State.named? (s : State) (h : Nat) : Bool :=
  s.ws.jobs.any (fun k l => decide (k < 16) && l.any (fun j => match j.harq with
    | some x => decide (x.1 = h)
    | none => false))

/-- An earlier job of the same handle with overlapping code blocks is held (R239). -/
def State.mustWait (s : State) (j : WsJob) : Bool :=
  match j.harq with
  | none => false
  | some (h, a, b) =>
    s.ws.jobs.any (fun k l => decide (k < 16) && l.any (fun x => match x.harq with
      | some (h', a', b') => decide (x.seq < j.seq ∧ h' = h ∧ a' < b ∧ a < b') && (x.started || x.decided.isNone)
      | none => false))

/-- A Kiln engine stages a job (R223, R230, R239, R245): its checks, its deadline, and whether it waits for a handle. -/
def State.stageKiln (s : State) (e slot : Nat) (d : ItemDesc) : State :=
  let addr := d.args.getD 0 0 * 256
  let t := { s with ws := { s.ws with staged := s.ws.staged + 1 } }
  let base : WsJob := { slot := slot, addr := addr, accept := d.kilnOp, seq := t.ws.staged }
  let put := fun (u : State) (j : WsJob) => u.setJobs 0 e (u.jobs 0 e ++ [j])
  match t.readJob 0 addr with
  | (.error c, u) => put u (base.stop .aborted c)
  | (.ok ws, u) =>
    let j := { base with words := ws }
    let c := u.kilnCheck d.kilnOp addr ws
    if c ≠ 0 then put u (j.stop .aborted c)
    else if u.jobLate j then put u (j.stop .lapsed 0)
    else if u.mustWait j then put (u.inc R.KILN_HANDLE_WAIT) { j with waiting := true }
    else put u j

/-! ## Units of work -/

def busStop (j : WsJob) : WsJob := j.stop .aborted 6

/-- Recover and combine the soft bits of code block `r`, and write the buffer back (R231, R237, R238). The buffer, or none
at an error response. -/
def State.kilnCombine (s : State) (j : WsJob) (t : TbJob) (r : Nat) : Option (List (Int × Bool)) × WsJob × State :=
  let mid := wsMid 0
  let e := t.e r
  match s.dmaRead mid (jobIn j.words + t.eOff r) e with
  | (none, u) => (none, busStop j, u)
  | (some inp, u) =>
    let hb := u.harqLo + (u.handle t.handle).base * 4096 + r * t.stride
    let ncb := t.ncbOf r
    match (if t.mode = 2 then u.dmaRead mid hb ncb else (some [], u)) with
    | (none, v) => (none, busStop j, v)
    | (some old, v) =>
      let order := (t.order r).toArray
      let n := order.size
      let at_ := fun k => order.getD ((if t.turbo then k else deinterleave t.qm e k) % n) 0
      let soft := inp.map (fun b => (softOf b.1, b.2))
      let buf := combineBuf ncb (t.filler r) (combineSums ncb at_ soft) (old.map (fun b => (softOf b.1, b.2)))
      let bad := anyBad inp || anyBad old
      let j1 := { j with poisoned := j.poisoned || bad }
      if t.mode = 0 then (some buf, j1, v)
      else match v.dmaWrite mid hb (buf.map (fun x => (softByte x.1, x.2))) with
        | (true, w) => (some buf, { j1 with wb := j1.wb + 1 }, w)
        | (false, w) => (none, busStop j1, w)

/-- Decode code block `r` from its combined buffer and write its payload (R232, R234, R240 to R243, R248). -/
def State.kilnDecode (s : State) (j : WsJob) (t : TbJob) (r : Nat) (buf : List (Int × Bool)) (bad : Bool) : WsJob × State :=
  let mid := wsMid 0
  let out := jobOut j.words + t.pos r / 8
  let n := t.plen r
  if bad then
    let x := s.openBytes (n / 8)
    let y := x.2.fresh
    let z := y.2.fresh
    match z.2.dmaWrite mid out x.1 with
    | (true, u) =>
      ({ j with crcMark := true, crc := Nat.xor j.crc (Config.freeValue y.1 % 2 ^ t.tb.deg), iters := j.iters + 1 + Config.freeValue z.1 % t.maxIter,
                done := j.done + 1 }, u.inc R.KILN_CB_FAIL)
    | (false, u) => (busStop j, u)
  else
    let vals := buf.map Prod.fst
    let g := if t.seg.c = 1 then t.tb else gCrc24b
    let d := if t.turbo then turboDecode (t.k r) t.norm t.maxIter t.et g vals
      else ldpcDecode t.bg2 t.seg.zc t.seg.kp (t.k r) (t.ncbOf r) t.norm t.maxIter t.et g vals
    let payload := ((if t.turbo then d.bits.drop (t.fill r) else d.bits)).take n
    let part := t.tb.shift (t.tb.rem payload) (t.blen - (t.pos r + n))
    match s.dmaWrite mid out (clean (packAll payload)) with
    | (true, u) =>
      ({ j with crc := Nat.xor j.crc part, iters := j.iters + d.iters, done := j.done + 1,
                pass := if d.pass then j.pass + 2 ^ j.done else j.pass }, if d.pass then u else u.inc R.KILN_CB_FAIL)
    | (false, u) => (busStop j, u)

/-- One code block of a decode job: the write-back in full, then the decoding (R238). -/
def State.unitDecode (s : State) (j : WsJob) (t : TbJob) : WsJob × State :=
  let r := t.first + j.done
  match s.kilnCombine { j with poisoned := false } t r with
  | (none, j1, u) => ({ j1 with poisoned := j.poisoned || j1.poisoned }, u)
  | (some buf, j1, u) => u.kilnDecode { j1 with poisoned := j.poisoned || j1.poisoned } t r buf j1.poisoned

/-- Bits [lo, lo + n) of a, read from IN_ADDR. -/
def State.readA (s : State) (j : WsJob) (lo n : Nat) : Option (List Bool × Bool) × State :=
  match s.dmaRead (wsMid 0) (jobIn j.words + lo / 8) (ceilDiv (lo + n) 8 - lo / 8) with
  | (none, u) => (none, u)
  | (some l, u) => (some (((unpackBits (byteVals l) (8 * l.length)).drop (lo % 8)).take n, anyBad l), u)

/-- One code block of an encode job (R232, R248). -/
def State.unitEncode (s : State) (j : WsJob) (t : TbJob) : WsJob × State :=
  let mid := wsMid 0
  let r := t.first + j.done
  let p0 := t.pos r
  let n := t.plen r
  let own := min (p0 + n) t.a - p0
  match s.readA j p0 own with
  | (none, u) => (busStop j, u)
  | (some (bits, bad0), u) =>
    match (if t.a < p0 + n then u.readA j 0 t.a else (some ([], false), u)) with
    | (none, v) => (busStop j, v)
    | (some (all, bad1), v) =>
      let bad := bad0 || bad1
      let p := if t.a < p0 + n then (t.tb.crc all).drop (p0 - t.a) else []
      let payload := bits ++ p.take (n - own)
      let lead := if t.turbo then List.replicate (t.fill r) false ++ payload else payload
      let c0 := if t.seg.c = 1 then lead else lead ++ gCrc24b.crc lead
      let e := t.e r
      let coded := if t.turbo then rateMatch (t.order r) (turboBuf (t.k r) (turboEncode c0)) e
        else interleave t.qm (rateMatch (t.order r) (ldpcEncode t.bg2 t.seg.zc (c0 ++ List.replicate (t.k r - t.seg.kp) false)) e)
      let o := t.eOff r
      let whole := (natBits 8 j.carry).take (o % 8) ++ coded
      let bytes := packAll whole
      let carry := if whole.length % 8 = 0 then 0 else bytes.getLast?.getD 0
      let x := if bad then v.openBytes bytes.length else (clean bytes, v)
      match x.2.dmaWrite mid (jobOut j.words + o / 8) x.1 with
      | (true, w) => ({ j with poisoned := j.poisoned || bad, done := j.done + 1, carry := carry }, w)
      | (false, w) => (busStop { j with poisoned := j.poisoned || bad }, w)

/-- One code word of a polar job (R232, R244, R248). -/
def State.unitPolar (s : State) (j : WsJob) (decode : Bool) (p : PolarJob) : WsJob × State :=
  let mid := wsMid 0
  let n := p.inLen decode
  let m := p.outLen decode
  match s.dmaRead mid (jobIn j.words + j.done * r64 n) n with
  | (none, u) => (busStop j, u)
  | (some inp, u) =>
    let out := jobOut j.words + j.done * r64 m
    let bad := anyBad inp
    let res : List Bool × Bool := if bad then ([], false)
      else if decode then polarDecWord p.crc p.rnti p.a p.e p.nmax p.list p.seg (inp.map (fun b => softOf b.1))
      else (polarEncWord p.crc p.rnti p.e p.nmax p.seg (unpackBits (byteVals inp) p.a), true)
    let x := if bad then u.openBytes m else (clean (packAll res.1), u)
    match x.2.dmaWrite mid out x.1 with
    | (true, v) =>
      ({ j with poisoned := j.poisoned || bad, done := j.done + 1, pass := if decode && res.2 then j.pass + 2 ^ j.done else j.pass },
       if decode && !res.2 then v.inc R.KILN_CB_FAIL else v)
    | (false, v) => (busStop { j with poisoned := j.poisoned || bad }, v)

/-- Up to 64 KiB of a CRC job's input; the last piece appends TAIL zero bits (R229). -/
def State.unitCrc (s : State) (j : WsJob) (c : CrcJob) : WsJob × State :=
  let from_ := j.done * 65536
  let n := min 65536 (ceilDiv c.len 8 - from_)
  match s.dmaRead (wsMid 0) (jobIn j.words + from_) n with
  | (none, u) => (busStop j, u)
  | (some inp, u) =>
    let bits := unpackBits (byteVals inp) (min (8 * n) (c.len - 8 * from_))
    let r := Nat.xor (c.g.shift j.crc bits.length) (c.g.rem bits)
    let fin := decide (c.len ≤ 8 * (from_ + n))
    let bad := anyBad inp
    ({ j with crc := if fin then c.g.shift r c.tail else r, crcMark := j.crcMark || bad, poisoned := j.poisoned || bad, done := j.done + 1 }, u)

/-- One unit of the running job. -/
def State.kilnUnit (s : State) (j : WsJob) : WsJob × State :=
  match parseKiln j.words with
  | some (.tb t) => if t.decode then s.unitDecode j t else s.unitEncode j t
  | some (.polar d p) => s.unitPolar j d p
  | some (.crc c) => s.unitCrc j c
  | none => (j, s)

def kilnLast (j : WsJob) : Bool :=
  match parseKiln j.words with
  | some k => decide (k.units ≤ j.done)
  | none => true

/-- Work the running job of a Kiln engine if its OP is `op`. -/
def State.kilnWork (s : State) (op e n : Nat) : Outc :=
  match s.job 0 e 0 with
  | some j => if jobOp j.words = op then .next (s.workUnits 0 e State.kilnUnit kilnLast n) else .next s
  | none => .next s

/-- The write-back under way of a stopped job completes (R238, R245 to R247). -/
def State.finishWb (s : State) (j : WsJob) : WsJob × State :=
  match parseKiln j.words with
  | some (.tb t) =>
    if t.mode ≠ 0 ∧ j.started ∧ j.done < t.count ∧ j.wb = j.done then
      let x := s.kilnCombine j t (t.first + j.done)
      (x.2.1, x.2.2)
    else (j, s)
  | _ => (j, s)

/-- The words of a Kiln result record, and which of its 64-bit words are poisoned (R248, R250). -/
def kilnRecord (e : Nat) (j : WsJob) (s : State) : List Nat × List Bool :=
  let k := parseKiln j.words
  let crcJob := match k with | some (.crc _) => true | _ => false
  let w0 := itemEndCode j.outcome * 2 ^ 28 + (if j.abortLate then 2 ^ 27 else 0) + j.error * 2 ^ 21 + j.wb * 2 ^ 14 + e * 256 +
    (if crcJob then 0 else j.done)
  let fin := match k with
    | some (.tb t) => t.seg.c * 2 ^ 24 + t.seg.zc * 2 ^ 15 + t.seg.kp
    | _ => 0
  ([w0, s.tick, j.crc, j.iters, j.pass % 2 ^ 32, j.pass / 2 ^ 32, fin, 0], [false, j.crcMark, false, false])

/-- CLOSING handles that no held job names any more become FREE (R236). -/
def State.freeClosing (s : State) (h : Nat) : State :=
  if (s.handle h).st = 2 ∧ !s.named? h then (s.setHandle h {}).ledgerCount (ledgerId 8 0) 0 1 else s

/-! ## Meanings -/

/-- LDPC_DEC (R240 to R242). -/
def execLdpcDec (e : Fin 16) (n : Nat) (s : State) : Outc := s.kilnWork 1 e.val n
/-- LDPC_ENC (R232). -/
def execLdpcEnc (e : Fin 16) (n : Nat) (s : State) : Outc := s.kilnWork 2 e.val n
/-- POLAR_DEC (R244). -/
def execPolarDec (e : Fin 16) (n : Nat) (s : State) : Outc := s.kilnWork 3 e.val n
/-- POLAR_ENC (R228). -/
def execPolarEnc (e : Fin 16) (n : Nat) (s : State) : Outc := s.kilnWork 4 e.val n
/-- TURBO_DEC (R243). -/
def execTurboDec (e : Fin 16) (n : Nat) (s : State) : Outc := s.kilnWork 5 e.val n
/-- TURBO_ENC (R232). -/
def execTurboEnc (e : Fin 16) (n : Nat) (s : State) : Outc := s.kilnWork 6 e.val n
/-- CRC_JOB (R229). -/
def execCrcJob (e : Fin 16) (n : Nat) (s : State) : Outc := s.kilnWork 7 e.val n

/-- KILN_HANDLE_WAIT_END (R239). -/
def execKilnHandleWaitEnd (e : Fin 16) (s : State) : Outc :=
  .next ((List.range 2).foldl (fun t i => match t.job 0 e.val i with
    | some j => if j.waiting && !t.mustWait j then t.setJob 0 e.val i { j with waiting := false } else t
    | none => t) s)

/-- The write-back under way, if the command says that one is. -/
def wbExtra (wb : Nat → Bool) : State → Nat → Nat → WsJob → WsJob × State :=
  fun s e i j => if i = 0 ∧ wb e then s.finishWb j else (j, s)

/-- KILN_CHECKPOINT_LAPSE (R245). -/
def execKilnCheckpointLapse (e : Fin 16) (staged wb : Bool) (s : State) : Outc :=
  .next (s.lapseJob 0 e.val (if staged then 1 else 0) (wbExtra (fun _ => wb)))

/-- KILN_JOB_END (R224, R236, R249, R250): only of a job that is decided or has every output acknowledged. -/
def execKilnJobEnd (e : Fin 16) (staged recordOk : Bool) (s : State) : Outc :=
  let i := if staged then 1 else 0
  match s.job 0 e.val i with
  | none => .next s
  | some j =>
    if j.live then .next s
    else
      let t := s.endJob 0 e.val i recordOk (kilnRecord e.val)
      let u := t.add R.KILN_ITER_TOTAL j.iters
      .next (match j.harq with
        | some x => u.freeClosing x.1
        | none => u)

/-- KILN_SWEEP (R246). -/
def execKilnSweep (group : Fin 64) (wtag : Fin 16) (wb : List (Fin 16)) (s : State) : Outc :=
  if s.sweepReached group.val wtag.val then
    .next (s.sweepWs 0 group.val wtag.val (wbExtra (fun e => wb.any (fun x => decide (x.val = e)))))
  else .next s

/-- KILN_ABORT (R247). -/
def execKilnAbort (slot : Fin 4096) (wb : Bool) (s : State) : Outc :=
  match s.item slot.val with
  | some i => if s.reeve.wsAborts.contains slot.val ∧ i.d.target = 1 then .next (s.abortWs 0 slot.val (wbExtra (fun _ => wb))) else .next s
  | none => .next s

/-- KILN_BUS_ERROR (R249): an error response to an access of the running job. -/
def execKilnBusError (e : Fin 16) (s : State) : Outc :=
  match s.job 0 e.val 0 with
  | some j => if j.started && j.live then .next (s.setJob 0 e.val 0 (busStop j)) else .next s
  | none => .next s

/-- KILN_HARQ_RESULT shows a command's outcome (R236). -/
def State.harqResult (s : State) (op h outcome reason : Nat) : State :=
  (((s.wr R.KILN_HARQ_RESULT_OP op).wr R.KILN_HARQ_RESULT_OUTCOME outcome).wr R.KILN_HARQ_RESULT_REASON reason).wr R.KILN_HARQ_RESULT_HANDLE h

/-- KILN_HARQ_OPEN (R236). -/
def execKilnHarqOpen (v : Word) (s : State) : Outc :=
  let h := bitsOf v 0 14
  let base := s.rd R.KILN_HARQ_ARG_BASE
  let len := s.rd R.KILN_HARQ_ARG_LEN
  let size := s.rd R.KILN_HARQ_AREA_SIZE
  if bitsOf v 30 2 ≠ 1 then .next s
  else if (s.handle h).st ≠ 0 then .next (s.harqResult 1 h 1 1)
  else if size = 0 then .next (s.harqResult 1 h 1 4)
  else if len = 0 ∨ size * 256 < base + len then .next (s.harqResult 1 h 1 3)
  else .next (((s.setHandle h ⟨1, base, len⟩).ledgerCount (ledgerId 8 0) 1 0).harqResult 1 h 0 0)

/-- KILN_HARQ_CLOSE (R236). -/
def execKilnHarqClose (v : Word) (s : State) : Outc :=
  let h := bitsOf v 0 14
  if bitsOf v 30 2 ≠ 2 then .next s
  else if (s.handle h).st ≠ 1 then .next (s.harqResult 2 h 1 2)
  else if s.named? h then .next ((s.setHandle h { s.handle h with st := 2 }).harqResult 2 h 2 0)
  else .next (((s.setHandle h {}).ledgerCount (ledgerId 8 0) 0 1).harqResult 2 h 0 0)

/-- KILN_HARQ_AREA_WRITE (R235). -/
def execKilnHarqAreaWrite (v : Word) (s : State) : Outc :=
  let size := bitsOf v 18 14
  let base := bitsOf v 0 15
  if s.ws.handles.any (fun _ h => decide (h.st ≠ 0)) ∨ 8192 < size ∨ 32768 < base + size then .next (s.wr R.KILN_STATUS_AREA_REFUSED 1)
  else .next ((s.wr R.KILN_HARQ_AREA_SIZE size).wr R.KILN_HARQ_AREA_BASE base)

end Sys2Proof.Machine
end

