-- ==== Sys2Proof/Machine/Service.lean ====
section
/-! DEFINITION. Machine/Service.lean: replacing parts in service: spare cores, readmission of a hamlet, workshop microcode,
Hearth firmware (chapter 22).
Choices of the model: log entries 66 (DESIGN CHOICE), 75 (DEDUCED). -/

namespace Sys2Proof.Machine

/-! ## Spare-core takeover (R581 to R585) -/

/-- REEVE_CORE_EN of a logical core. -/
def State.coreEn (s : State) (h c : Nat) : Bool := nbit (s.rd (R.REEVE_CORE_EN_EN h)) c

/-- A takeover is possible in this state of the logical core. -/
def spareState (c : CoreSt) : Bool := c == .offline || c == .idle || c == .lapseOverrun || c == .halted

/-- The first cause that refuses a TAKE, or 0: 1 FIELD, 2 ENABLED, 3 STATE, 4 NO_SPARE. -/
def State.takeCause (s : State) (h : Nat) (v : Word) : Nat :=
  let l := bitsOf v 0 4
  if 7 < l ∨ bitsOf v 4 26 ≠ 0 then 1
  else if s.coreEn h l then 2
  else if !spareState (s.rcore h l).st then 3
  else if s.rd (R.HAMLET_SPARE_STATUS_STATE h) ≠ 0 ∨ s.bit (R.HAMLET_SPARE_STATUS_BUSY h) then 4
  else 0

/-- SPARE_TAKE: from here the victim's core is in reset. -/
def execSpareTake (h : Fin 16) (v : Word) (s : State) : Outc :=
  let h := h.val
  let l := bitsOf v 0 4
  if !bitOf v 31 then .next s.ack
  else match s.takeCause h v with
    | 0 =>
      let t := (s.holdCore (9 * h + s.physOf h l)).wr (R.HAMLET_SPARE_STATUS_BUSY h) 1
      .next { t with hml := { t.hml with takeover := t.hml.takeover.set h (some (l, bitOf v 30)) } }.ack
    | c => .next ((s.wr (R.HAMLET_SPARE_STATUS_REFUSED h) 1).wr (R.HAMLET_SPARE_STATUS_CAUSE h) c).ack

/-- Copy one core's plot data and instruction halves to another's, each word by its outcome (R582). -/
def State.copyPlot (s : State) (h p q : Nat) : State :=
  let a := plotBase h p
  let b := plotBase h q
  let m := s.ms.mem
  s.setMem ((m.usedWords a (a + 0x50000)).foldl (fun n x => n.put (b + (x - a)) (m.word x)) (m.fill b (b + 0x50000)))

/-- The identity of logical core `l` moves to the spare, and aperture 8 to the victim (R582, R584). -/
def State.moveIdentity (s : State) (h l : Nat) : State :=
  let victim := s.physOf h l
  let spare := s.physOf h 8
  let t := { s with hml := { s.hml with coreMap := (s.hml.coreMap.set (9 * h + l) (some spare)).set (9 * h + 8) (some victim) } }
  ((t.wr (R.HAMLET_SPARE_STATUS_STATE h) 1).wr (R.HAMLET_SPARE_STATUS_LOGICAL h) l).wr (R.HAMLET_SPARE_STATUS_VICTIM_PHYS h) victim

/-- SPARE_TAKEOVER_DONE: copy, identity, and the spare's start at PC 0 of its active half (R582). -/
def execSpareTakeoverDone (h : Fin 16) (s : State) : Outc :=
  let h := h.val
  match s.hml.takeover.get h with
  | none => .next s
  | some (l, copy) =>
    let t := if copy then s.copyPlot h (s.physOf h l) (s.physOf h 8) else s
    let u := (t.moveIdentity h l).wr (R.HAMLET_SPARE_STATUS_BUSY h) 0
    .next ({ u with hml := { u.hml with takeover := u.hml.takeover.set h none } }.releaseLogical h l)

/-! ## Readmission (R588, R589) -/

/-- The first cause that refuses to readmit hamlet `h`, or 0: 1 NOT_FILLED, 2 NOT_OPEN, 3 RUNNING. -/
def State.readmitCause (s : State) (h : Nat) : Nat :=
  let n := hamletNi h
  if !s.hamletOpen h ∨ (s.rd R.HARROW_STATUS_STATE = 1 ∧ s.ms.harrow.target = 1 ∧ s.ms.harrow.inst = h) then 1
  else if s.portSt (n / 4) (4 + n % 4) ≠ 0 then 2
  else if s.hml.released.contains h then 3
  else 0

/-- A failed core that carries an identity gives it to an available spare. -/
def State.replaceCore (s : State) (h p : Nat) : State :=
  if s.logicalOf h p < 8 ∧ s.rd (R.HAMLET_SPARE_STATUS_STATE h) = 0 then s.moveIdentity h (s.logicalOf h p) else s

/-- Readmit hamlet `h`. -/
def State.readmit (s : State) (h : Nat) : State :=
  let s1 := s.wr R.HEARTH_READMIT_STATUS_HAMLET h
  match s.readmitCause h with
  | 0 =>
    let bad := (List.range 9).filter (nbit (s.ms.failCores.get h))
    let t := if bad.contains (s.physOf h 8) ∧ s.rd (R.HAMLET_SPARE_STATUS_STATE h) = 0 then s1.spareNone h else s1
    let u := bad.foldl (fun x p => x.replaceCore h p) t
    let lost := (List.range 8).filter (fun c => bad.contains (u.physOf h c))
    let v := ((List.range 8).filter (fun c => !lost.contains c)).foldl (fun x c => (x.releaseLogical h c).wr (R.HAMLET_IMEM_STATUS_ACTIVE h c) 0) u
    ({ v with hml := { v.hml with released := h :: v.hml.released } }.wr R.HEARTH_READMIT_STATUS_CAUSE 0).wr R.HEARTH_READMIT_STATUS_LOST
      ((lost.map (fun c => 2 ^ c)).sum)
  | c => (s1.wr R.HEARTH_READMIT_STATUS_REFUSED 1).wr R.HEARTH_READMIT_STATUS_CAUSE c

/-- HEARTH_READMIT: from the Hearth and the Hall. -/
def execHearthReadmit (mid : Mid) (v : Word) (s : State) : Outc :=
  if mid = hearthMid ∨ (0xA0 ≤ mid.toNat ∧ mid.toNat ≤ 0xAF) then .next (((List.range 16).filter (fun h => bitOf v h)).foldl State.readmit s).ack
  else .next s.refusedAns

/-! ## Workshop microcode (R590 to R593) -/

/-- Fields of engine `e`'s microcode registers. -/
def ucodeAddr (w e : Nat) : Fld := wsFld w (0x404 + 0x10 * e) 0 32 0
def ucodeState (w e : Nat) : Fld := wsFld w (0x408 + 0x10 * e) 30 2 0
def ucodeResult (w e : Nat) : Fld := wsFld w (0x408 + 0x10 * e) 28 2 0
def ucodeCause (w e : Nat) : Fld := wsFld w (0x408 + 0x10 * e) 24 4 0
def ucodeSec (w e : Nat) : Fld := wsFld w (0x408 + 0x10 * e) 0 7 0
def ucodeVersion (w e : Nat) : Fld := wsFld w (0x40C + 0x10 * e) 0 32 0

/-- TARGET of an engine: 1 LDPC decoder, 2 LDPC encoder, 3 polar engine, 4 turbo decoder, 5 Wheel, 6 Mill. -/
def ucodeTarget (w e : Nat) : Nat := if w = 1 then 5 else if w = 2 then 6 else if e < 8 then 1 else if e < 12 then 2 else if e < 14 then 3 else 4

/-- UCODE_LOAD: refused unless the engine is DISABLED and empty. -/
def execUcodeLoad (w : Fin 3) (e : Fin 16) (v : Word) (s : State) : Outc :=
  let w := w.val
  let e := e.val
  if !bitOf v 31 ∨ engCount w ≤ e then .next s.ack
  else if nbit (s.rd (engEn w)) e ∨ s.jobs w e ≠ [] ∨ s.rd (ucodeState w e) = 1 then .next ((s.wr (ucodeResult w e) 2).wr (ucodeCause w e) 1).ack
  else .next (((s.wr (ucodeState w e) 1).wr (ucodeResult w e) 0).wr (ucodeCause w e) 0).ack

/-- A read by the microcode loader of workshop kind `w`; none beyond the regions it may read. -/
def State.ucodeRead (s : State) (w a n : Nat) : Option (List (Nat × Bool)) × State :=
  if s.inRegion a n then s.dmaRead (wsMid w) a n else (none, s)

/-- The load of an image at address `a`: its failure's cause, or its VERSION and SEC_VERSION. -/
def State.ucodeImage (s : State) (w e a : Nat) : Except Nat (Nat × Nat) × State :=
  match s.ucodeRead w a 144 with
  | (none, t) => (.error 2, t)
  | (some h, t) =>
    let hw := le32 36 (byteVals h)
    let len := hw.getD 4 0
    if anyBad h then (.error 3, t)
    else if s.strongSt ≠ 1 then (.error 4, t)
    else if len < 4 ∨ 262144 < len ∨ hw.getD 0 0 ≠ 0x4D494B53 then (.error 5, t)
    else match t.ucodeRead w a (240 + len) with
      | (none, u) => (.error 2, u)
      | (some b, u) =>
        if anyBad b then (.error 3, u)
        else if (u.imageFault 3 (byteVals b)).isSome then (.error 5, u)
        else if (le32 1 ((byteVals b).drop 144)).headD 0 ≠ ucodeTarget w e then (.error 6, u)
        else (.ok (hw.getD 2 0, hw.getD 3 0), u)

/-- UCODE_LOAD_END: the microcode is replaced, or the earlier one runs on. -/
def execUcodeLoadEnd (w : Fin 3) (e : Fin 16) (s : State) : Outc :=
  let w := w.val
  let e := e.val
  if engCount w ≤ e ∨ s.rd (ucodeState w e) ≠ 1 then .next s
  else match s.ucodeImage w e (s.rd (ucodeAddr w e) * 256) with
    | (.ok (version, sec), t) => .next (((t.wr (ucodeState w e) 2).wr (ucodeVersion w e) version).wr (ucodeSec w e) sec)
    | (.error c, t) => .next (((t.wr (ucodeState w e) 2).wr (ucodeResult w e) 1).wr (ucodeCause w e) c)

/-! ## Hearth firmware (R597) -/

/-- HEARTH_HANDOVER: only the Hearth core pair is reset. -/
def execHearthHandover (mid : Mid) (v : Word) (s : State) : Outc :=
  if mid ≠ hearthMid ∨ bitsOf v 16 16 ≠ 0x4857 ∨ !bitOf v 15 ∨ s.inCrier ∨ s.rd R.HEARTH_HANDOVER_RESULT = 1 then .next s.ack
  else .next (((s.holdCore hearthCore).wr R.HEARTH_HANDOVER_RESULT 1).wr R.HEARTH_HANDOVER_REASON 0).ack

/-- HANDOVER_END: the image at 0x4_0000 runs, or the old firmware enters again. -/
def execHandoverEnd (s : State) : Outc :=
  if s.rd R.HEARTH_HANDOVER_RESULT ≠ 1 ∨ s.inCrier then .next s
  else match s.recoveryImage with
    | (h, body, none) => .next (((s.hearthWrite 0 (byteVals body)).runImage h).wr R.HEARTH_HANDOVER_RESULT 2)
    | (_, _, some r) => .next (((s.releaseCore hearthCore s.boot.entry).wr R.HEARTH_HANDOVER_RESULT 3).wr R.HEARTH_HANDOVER_REASON r)

end Sys2Proof.Machine
end

