-- ==== Sys2Proof/Machine/Power.lean ====
section
/-! DEFINITION. Machine/Power.lean: power domains, resets, temperature and throttling (chapter 23).
Choices of the model: log entries 67 (DESIGN CHOICE). -/

namespace Sys2Proof.Machine

/-- STATE of a power domain: 0 ON, 1 OFF, 2 POWERING_DOWN, 3 POWERING_UP, 4 HOLD. -/
def State.domSt (s : State) (d : Nat) : Nat := s.rd (R.PWR_DOM_STATE d)
def State.domTo (s : State) (d n : Nat) : State := s.wr (R.PWR_DOM_STATE d) n
def State.domOn (s : State) (d : Nat) : Bool := s.domSt d == 0

/-! ## Requests (R603, R604) -/

/-- The last column of R603 allows the domain to be switched off; for Hall cores, see SELF. -/
def State.mayPowerOff (s : State) (d : Nat) : Bool :=
  if d < 16 then true
  else if d < 28 then (List.range 4).all (fun i => s.rd (R.LANE_CFG_USE (4 * (d - 16) + i)) == 0)
  else if d < 32 then true
  else if d = 32 then [28, 29, 30, 31].all (fun x => s.domSt x == 1)
  else if d = 33 then !s.bit R.REEVE_CTRL_ENABLE
  else if d = 34 then s.rd R.KILN_ENG_EN_EN % 256 == 0
  else if d = 35 then s.rd R.KILN_ENG_EN_EN / 256 == 0
  else if d = 36 then s.rd R.WHEEL_ENG_EN_EN == 0
  else if d = 37 then s.rd R.MILL_ENG_EN_EN == 0
  else if d = 38 then (List.range 1024).all (fun c => s.rd (R.SIEVE_CH_STATUS_STATE c) == 0)
  else if d = 39 then s.domSt 40 == 1 && s.domSt 41 == 1
  else if d = 40 ∨ d = 41 then (List.range 16).all (fun i => !s.bit (R.MARKET_PORT_CFG_EN (16 * (d - 40) + i)))
  else if d = 42 then (List.range 6).all (fun k => !s.bit (R.EWL_CFG_EN k))
  else if d = 43 then (List.range 16).all (fun k => s.stoolSt k == 0)
  else if d = 44 then (List.range 64).all (fun c => s.rd (R.CARTER_CH_STATE_STATE c) == 0)
  else true

/-- The domain that `d` depends on is on. -/
def State.mayPowerOn (s : State) (d : Nat) : Bool :=
  if 28 ≤ d ∧ d < 32 then s.domOn 32 else if d = 40 ∨ d = 41 then s.domOn 39 else true

/-- The request comes from a Hall core of the domain. -/
def selfDomain (mid : Mid) (d : Nat) : Bool :=
  decide (28 ≤ d) && decide (d < 32) && decide (0xA0 + 4 * (d - 28) ≤ mid.toNat) && decide (mid.toNat < 0xA4 + 4 * (d - 28))

/-- A part of an armed plan is held in domain `d` (R26). -/
def State.heldPlan (s : State) (d : Nat) : Bool :=
  s.stp.groups.any (fun _ g => g.armed.any (fun p =>
    (d == 39 && p.part1 != []) || (d == 38 && p.part4 != []) || (d == 47 && p.bells != []) ||
      (listsOf p.part2).any (fun x => (d == 44 && decide (x.1 < 64)) || (decide (64 ≤ x.1) && (x.1 - 64) / 8 == d)) ||
      (d == 33 && s.reeve.items.any (fun _ o => o.any (fun i => i.state == .shadow && i.plan == p.id)))))

def State.domRefuse (s : State) (d cause : Nat) : State := (s.wr (R.PWR_DOM_REFUSED d) 1).wr (R.PWR_DOM_CAUSE d) cause

/-- An OFF request is decided in the order of R604: 3 BUSY, 5 ESSENTIAL, 6 SELF, 4 IN_USE, HOLD, then the gate. -/
def State.decideOff (s : State) (mid : Mid) (d : Nat) : State :=
  if s.domSt d = 2 ∨ s.domSt d = 3 then s.domRefuse d 3
  else if d = 47 then s.domRefuse d 5
  else if selfDomain mid d then s.domRefuse d 6
  else if !s.mayPowerOff d then s.domRefuse d 4
  else if s.heldPlan d then { s.domTo d 4 with pwr := { s.pwr with holder := s.pwr.holder.set d mid.toNat } }
  else
    let x := s.gateCheck d false
    if x.1 = 0 then x.2.domTo d 2 else (x.2.domTo d 0).domRefuse d x.1

def State.pwrClear (s : State) (d : Nat) (v : Word) : State := s.w1c v [R.PWR_DOM_REFUSED d]

/-- PWR_DOM_OFF. -/
def execPwrDomOff (mid : Mid) (d : Fin 48) (v : Word) (s : State) : Outc :=
  let d := d.val
  let t := s.pwrClear d v
  if !bitOf v 2 ∨ bitsOf v 0 2 ≠ 1 ∨ t.domSt d = 1 ∨ t.domSt d = 4 then .next t.ack else .next (t.decideOff mid d).ack

/-- PWR_DOM_ON: withdraws an OFF request that is held. -/
def execPwrDomOn (mid : Mid) (d : Fin 48) (v : Word) (s : State) : Outc :=
  let d := d.val
  let t := s.pwrClear d v
  if !bitOf v 2 ∨ bitsOf v 0 2 ≠ 0 ∨ t.domSt d = 0 then .next t.ack
  else if t.domSt d = 4 then .next (t.domTo d 0).ack
  else if t.domSt d = 2 ∨ t.domSt d = 3 then .next (t.domRefuse d 3).ack
  else if !t.mayPowerOn d then .next (t.domRefuse d (if selfDomain mid d then 6 else 4)).ack
  else .next (t.domTo d 3).ack

/-- PWR_HOLD_REDECIDE: after the commit of the last plan that holds a part in the domain. -/
def execPwrHoldRedecide (d : Fin 48) (s : State) : Outc :=
  let d := d.val
  if s.domSt d ≠ 4 ∨ s.heldPlan d then .next s else .next ((s.domTo d 0).decideOff (BitVec.ofNat 8 (s.pwr.holder.get d)) d)

/-! ## Power-down and power-up (R606, R607) -/

def State.clearRegs (s : State) (a b : Nat) : State := { s with regs := s.regs.clearRange a b }
def inRange (a b k : Nat) : Bool := decide (a ≤ k) && decide (k < b)

/-- A domain loses the contents of its registers and memories, but for the Cellar and the always-on record of a takeover. -/
def State.loseDomain (s : State) (d : Nat) : State :=
  if d < 16 then
    let a := 0x10F00000 + d * 0x01000000
    let t := ((s.clearRegs a (a + 0x5000)).clearRegs (a + 0x5008) (a + 0x100000)).setMem (s.ms.mem.fill (barnBase d) (barnBase d + 0x01000000))
    let u := (List.range 9).foldl (fun x c => x.modRcore d c (fun r => { r with st := .offline, ovrDone := false, taken := false })) t
    { u with
      cores := u.cores.clear (fun k => inRange (9 * d) (9 * d + 9) k), querns := u.querns.set d default,
      crt := { u.crt with chans := u.crt.chans.clear (fun k => inRange (64 + 8 * d) (72 + 8 * d) k) },
      hml := { u.hml with released := u.hml.released.filter (· != d) },
      ms := { u.ms with hamletClosed := u.ms.hamletClosed.set d true } }
  else if d < 28 then
    let q := d - 16
    let t := (s.clearRegs (0x4F000000 + 4 * q) (0x4F000004 + 4 * q)).clearRegs (0x4F001000 + 0x100 * q) (0x4F001100 + 0x100 * q)
    { t with ewl := { t.ewl with lanes := t.ewl.lanes.clear (fun l => l / 4 == q) } }
  else if d < 32 then
    let k := 4 * (d - 28)
    let t := s.clearRegs (0x52006000 + 0x40 * k) (0x52006100 + 0x40 * k)
    { t with
      cores := t.cores.clear (fun i => inRange (144 + k) (148 + k) i),
      ms := { t.ms with lines := t.ms.lines.clear (fun i => inRange k (k + 4) (i / 2 ^ 40)) } }
  else if d = 32 then s
  else if d = 33 then { s.clearRegs 0x4A000000 0x4B000000 with reeve := {} }
  else if d = 34 then
    let t := (s.clearRegs 0x4B000000 0x4B000400).clearRegs 0x4B000400 0x4B000480
    { t with ws := { t.ws with jobs := t.ws.jobs.clear (fun i => decide (i < 8)), handles := ⟨[]⟩ } }
  else if d = 35 then
    let t := s.clearRegs 0x4B000480 0x4B000500
    { t with ws := { t.ws with jobs := t.ws.jobs.clear (fun i => inRange 8 16 i) } }
  else if d = 36 then { s.clearRegs 0x4C000000 0x4D000000 with ws := { s.ws with jobs := s.ws.jobs.clear (fun i => inRange 16 32 i) } }
  else if d = 37 then { s.clearRegs 0x4D000000 0x4E000000 with ws := { s.ws with jobs := s.ws.jobs.clear (fun i => inRange 32 48 i) } }
  else if d = 38 then { s.clearRegs 0x4E000000 0x4F000000 with sv := {} }
  else if d = 39 then { (s.clearRegs 0x50000000 0x50001000).clearRegs 0x50003000 0x51000000 with mkt := {} }
  else if d < 42 then s.clearRegs (0x50001000 + 0x1000 * (d - 40)) (0x50002000 + 0x1000 * (d - 40))
  else if d = 42 then { s.clearRegs 0x4F004000 0x50000000 with ewl := { lanes := s.ewl.lanes } }
  else if d = 43 then
    { s.clearRegs 0x51000000 0x52000000 with cop := {}, ms := { s.ms with mem := s.ms.mem.fill bramBase (bramBase + 16 * bramSize) } }
  else if d = 44 then
    { s.clearRegs 0x49000000 0x4A000000 with crt := { s.crt with chans := s.crt.chans.clear (fun k => decide (k < 64)) } }
  else if d = 47 then { s.clearRegs 0x44000000 0x45000000 with stp := { now := s.stp.now } }
  else s

/-- Clock domains of a power domain (R603): their replicas read OFF and clear their LOST bits (R602). -/
def domainClocks (d : Nat) : List Nat :=
  if d < 16 then [60 + d]
  else if d < 28 then [4 * (d - 16), 4 * (d - 16) + 1, 4 * (d - 16) + 2, 4 * (d - 16) + 3, 32 + d]
  else if d = 32 then [87] else if d = 33 then [88] else if d = 36 then [92] else if d = 37 then [93] else if d = 38 then [94]
  else if d = 42 then [96] else if d = 43 then [97, 76, 77, 78, 79, 80, 81, 82, 83] else if d = 44 then [90] else if d = 45 then [98]
  else if d = 46 then [99] else []

/-- POWER_DOWN: slices folded, contents lost, OFF. -/
def execPowerDown (d : Fin 48) (s : State) : Outc :=
  let d := d.val
  if s.domSt d ≠ 2 then .next s
  else .next ((domainClocks d).foldl (fun t c => t.setLost c false) ((((s.foldSlices d).loseDomain d).domTo d 1)))

/-- POWER_UP_COMPLETE: units in their reset state, Commons ports CLOSED; a hamlet whose checkers fail stays closed (R352,
R356). -/
def execPowerUpComplete (d : Fin 48) (checkerOk : Bool) (s : State) : Outc :=
  let d := d.val
  if s.domSt d ≠ 3 then .next s
  else
    let t := (domainNis d).foldl (fun x n => x.setPortSt (n / 4) (4 + n % 4) 4) (s.domTo d 0)
    if 16 ≤ d then .next t
    else if checkerOk then .next { t with ms := { t.ms with hamletClosed := t.ms.hamletClosed.set d false } }
    else .next (t.logAt 9 (2, d) 0 0 (barnBase d) 255)

/-! ## Resets (R608 to R611) -/

def resetMid (mid : Mid) : Bool := mid == hearthMid || (decide (0xA0 ≤ mid.toNat) && decide (mid.toNat ≤ 0xAF)) || mid == 0xC0

def State.resetRefuse (s : State) (cause : Nat) : State := (s.wr R.HEARTH_RESET_STATUS_REFUSED 1).wr R.HEARTH_RESET_STATUS_CAUSE cause

/-- HEARTH_DEVRESET: LATE and FAR by the leads of R28 (1 LATE, 2 FAR, 3 NOT_ROOT). -/
def execHearthDevreset (mid : Mid) (v : Word) (s : State) : Outc :=
  let tick := s.rd R.HEARTH_RESET_TICK
  let lead := leadTicks s.tick tick
  if !resetMid mid then .next s.refusedAns
  else if bitsOf v 16 16 ≠ 0x5253 ∨ !bitOf v 15 then .next s.ack
  else if bitOf v 13 ∧ (!bitOf v 14 ∨ ¬ s.bit R.EWL_PARISH_IN_PARISH ∨ s.rd R.EWL_PARISH_MEMBER ≠ 0) then .next (s.resetRefuse 3).ack
  else if !bitOf v 14 then .next (s.deviceReset 2 false).ack
  else if lead < 2500 ∨ 2147483648 ≤ lead then .next (s.resetRefuse 1).ack
  else if maxLead < lead then .next (s.resetRefuse 2).ack
  else
    let t := { s.wr R.HEARTH_RESET_STATUS_ARMED 1 with pwr := { s.pwr with parish := bitOf v 13 } }
    .next (if bitOf v 13 then t.send (.resetCall tick) else t).ack

/-- TIMED_RESET_INSTANT: with a parish-wide reset, members that have not acknowledged are MISSED (R610). -/
def execTimedResetInstant (acked : List (Fin 8)) (s : State) : Outc :=
  if s.bit R.HEARTH_RESET_STATUS_ARMED ∧ passed s.tick (s.rd R.HEARTH_RESET_TICK) then
    if s.pwr.parish then
      let missed := (List.range 8).filter (fun m => m != s.rd R.EWL_PARISH_MEMBER && (s.ewlRoute m).isSome && !(acked.map Fin.val).contains m)
      .next ((s.wr R.HEARTH_RESET_STATUS_MISSED ((missed.map (fun m => 2 ^ m)).sum)).deviceReset 3 false)
    else .next (s.deviceReset 2 false)
  else .next s

def State.unitRefuse (s : State) (cause : Nat) : State := (s.wr R.HEARTH_UNIT_RESET_REFUSED 1).wr R.HEARTH_UNIT_RESET_CAUSE cause

/-- A unit reset is decided: BUSY while one runs, FIELD, STATE, else it starts. -/
def State.unitReset (s : State) (v : Word) (kind : Nat) (field ok : Bool) (f : State → State) : State :=
  let t := s.w1c v [R.HEARTH_UNIT_RESET_REFUSED]
  if bitsOf v 29 3 ≠ kind then t
  else if t.rd R.HEARTH_UNIT_RESET_STATE = 1 then t.unitRefuse 2
  else if !field then t.unitRefuse 3
  else if !ok then t.unitRefuse 1
  else (f (t.wrWord v [R.HEARTH_UNIT_RESET_KIND, R.HEARTH_UNIT_RESET_A, R.HEARTH_UNIT_RESET_B])).wr R.HEARTH_UNIT_RESET_STATE 1

/-- UNIT_RESET_HAMLET_CORE: the core's item ends as by R580; the core is in reset until the reset is done. -/
def execUnitResetHamletCore (v : Word) (s : State) : Outc :=
  let h := bitsOf v 16 8
  let p := bitsOf v 8 8
  let c := s.logicalOf h p
  .next (s.unitReset v 1 (decide (h < 16) && decide (p < 9) && bitsOf v 0 8 == 0)
    (decide (c < 8) && !s.coreEn h c && s.hamletOpen h && s.hml.released.contains h)
    (fun t => ((t.haltItem h c).holdCore (9 * h + p)))).ack

/-- UNIT_RESET_HALL_CORE: dirty lines are written back, and the caches invalidated. -/
def execUnitResetHallCore (mid : Mid) (v : Word) (s : State) : Outc :=
  let k := bitsOf v 8 8
  .next (s.unitReset v 2 (decide (k < 16) && bitsOf v 0 8 == 0) (decide (mid.toNat ≠ 0xA0 + k))
    (fun t =>
      let mine := (t.ms.lines.keys.filter (fun i => i / 2 ^ 40 == k)).map (fun i => i % 2 ^ 40)
      (mine.foldl (fun x a => x.cleanLine k a true true) t).holdCore (144 + k))).ack

/-- The requests that a Cellar pseudo-channel has queued. -/
def State.cellarQueue (s : State) (stack pc : Nat) : List Ejected :=
  s.net.ejected.filter (fun e => decide (cellarBase ≤ e.pkt.addr) && decide (e.pkt.addr < cellarEnd) && regionOf e.pkt.addr == .cellar stack pc)

/-- UNIT_RESET_CELLAR: every queued request is answered ABORTED, TARGET_FAULT. -/
def execUnitResetCellar (v : Word) (s : State) : Outc :=
  let a := bitsOf v 16 8
  let b := bitsOf v 8 8
  .next (s.unitReset v 3 (decide (a < 2) && decide (b < 32) && bitsOf v 0 8 == 0) (s.domOn (45 + a))
    (fun t => (t.cellarQueue a b).foldl (fun x e => x.unitAnswer e.pkt 6 3 8 0 []) t)).ack

/-- UNIT_RESET_DONE: the core restarts. -/
def execUnitResetDone (s : State) : Outc :=
  if s.rd R.HEARTH_UNIT_RESET_STATE ≠ 1 then .next s
  else
    let t := s.wr R.HEARTH_UNIT_RESET_STATE 2
    let a := s.rd R.HEARTH_UNIT_RESET_A
    let b := s.rd R.HEARTH_UNIT_RESET_B
    if s.rd R.HEARTH_UNIT_RESET_KIND = 1 then .next (t.releaseLogical a (t.logicalOf a b))
    else if s.rd R.HEARTH_UNIT_RESET_KIND = 2 then .next (t.releaseCore (144 + b) t.hallVector)
    else .next t

/-! ## Temperature and throttling (R612 to R615) -/

/-- Sensor `n` in units of 0.25 °C. -/
def State.temp (s : State) (n : Nat) : Int := sext 10 (s.rd (R.HEARTH_TEMP_TEMP n))
/-- The sensor with the highest reading. -/
def State.hottest (s : State) : Nat := (List.range 24).foldl (fun b n => if s.temp b < s.temp n then n else b) 0
def State.throttleC (s : State) : Int := min (max 85 (s.rd R.HEARTH_THROTTLE_THROTTLE_C : Int)) 105
def State.limitW (s : State) : Nat := min (max 20 (s.rd R.HEARTH_THROTTLE_LIMIT_W)) 135

/-- A level that rises and falls by one. -/
def moveLevel (l : Nat) (up down : Bool) : Nat := if up then min 7 (l + 1) else if down then l - 1 else l

/-- THROTTLE_UPDATE. -/
def execThrottleUpdate (milliwatts : Nat) (s : State) : Outc :=
  let t := moveLevel s.pwr.thermal ((List.range 24).any (fun n => decide (4 * s.throttleC ≤ s.temp n)))
    ((List.range 24).all (fun n => decide (s.temp n < 4 * (s.throttleC - 5))))
  let p := moveLevel s.pwr.power (decide (s.limitW * 1000 < milliwatts)) (decide (milliwatts + 5000 < s.limitW * 1000))
  let want := max t (max p (s.rd R.HEARTH_THROTTLE_FORCE_L))
  let l := s.rd R.HEARTH_THROTTLE_LEVEL
  let n := if l < want then l + 1 else if want < l then l - 1 else l
  let u := { s with pwr := { s.pwr with thermal := t, power := p } }.wr R.HEARTH_THROTTLE_LEVEL n
  .next (if n = l then u else (u.raise ⟨5, 1, false, n, u.hottest⟩).irqIf (s.bit R.HEARTH_THROTTLE_IRQ_EN) .throttle 0)

/-- TEMP_SENSOR_UPDATE. -/
def execTempSensorUpdate (n : Fin 24) (t : BitVec 10) (s : State) : Outc := .next (s.wr (R.HEARTH_TEMP_TEMP n.val) t.toNat)

/-- CELLAR_STACK_TEMP_REPORT (R332). -/
def execCellarStackTempReport (stack : Fin 2) (t : BitVec 8) (s : State) : Outc :=
  .next ((s.wr (R.CELLAR_STACK_STATUS_TEMP stack.val) t.toNat).wrB (R.CELLAR_STACK_STATUS_REFRESH_X2 stack.val) (decide (85 < t.toNat)))

/-- THERMAL_TRIP: every domain is switched off without the gate, and device reset is held (R615). -/
def execThermalTrip (stack : Bool) (s : State) : Outc :=
  if stack ∨ (List.range 24).any (fun n => decide (500 ≤ s.temp n)) then
    let t := (List.range 48).foldl (fun x d => x.domTo d 1) (s.deviceReset 5 false)
    .next { t with pins := { t.pins with thermLow := true }, pwr := { t.pwr with tripped := true } }
  else .next s

/-- INTERNAL_COLD_RESET: nothing survives but the OTP (R608, R644). -/
def execInternalColdReset (s : State) : Outc := .next ((s.deviceReset 0 false).wr R.HEARTH_RESET_STATUS_MISSED 0)

/-- RESET_N_PULSE: a device reset; while a thermal trip is held, only once every sensor is cool, and LAST_CAUSE stays THERMAL
(R615, R647). -/
def execResetNPulse (cool : Bool) (s : State) : Outc :=
  if s.pwr.tripped then .next (if cool then s.deviceReset 5 false else s) else .next (s.deviceReset 1 false)

end Sys2Proof.Machine
end

