-- ==== Sys2Proof/Machine/Debug.lean ====
section
/-! DEFINITION. Machine/Debug.lean: the event tap, the trace exporter, the Hearth event queue, telemetry, boundary scan and
core debug (chapter 24). JTAG accesses to the bus stand in Machine/HostBus.lean.
Choices of the model: log entries 32 (DESIGN CHOICE), 68 (DESIGN CHOICE). -/

namespace Sys2Proof.Machine

def State.setDbg (s : State) (f : Debug → Debug) : State := { s with dbg := f s.dbg }

/-! ## Event tap and trace exporter (R618 to R621) -/

/-- The exporter takes the records of source `k` (R619). -/
def State.exports (s : State) (k : Nat) : Bool :=
  s.bit R.TRACE_CFG_EN && (if k < 32 then nbit (s.rd R.TRACE_SRC_EN0) k else s.bit R.TRACE_SRC_EN1)

/-- REEVE_TAP_POP: ignored while the exporter takes the tap's records. -/
def execReeveTapPop (s : State) : Outc := .next (if s.exports 32 then s.ack else (s.showTap (s.dbg.tap.drop 1)).ack)

/-- Records of source `k`, oldest first. -/
def State.traceRecords (s : State) (k : Nat) : List (List Nat) := if k < 32 then s.net.traces.get k else s.dbg.tap

def State.traceSize (s : State) : Nat := 2 ^ s.rd R.TRACE_CFG_SIZE_LOG2
/-- Ring records that the consumer has not freed, modulo 2^32. -/
def ringHeld (prod cons : Nat) : Nat := (prod + 2 ^ 32 - cons) % 2 ^ 32
def State.traceFull (s : State) : Bool := ringHeld (s.rd R.TRACE_PROD) (s.rd R.TRACE_CONS) == s.traceSize
def State.showFull (s : State) : State := s.wrB R.TRACE_STATUS_FULL s.traceFull

/-- The ring address of the next record. -/
def State.traceAddr (s : State) : Nat :=
  s.rd R.TRACE_BASE_HI_ADDR * 2 ^ 32 + s.rd R.TRACE_BASE_LO_ADDR * 32 + s.rd R.TRACE_PROD % s.traceSize * 32

/-- Source `k` has a record that the exporter may take. -/
def State.traceDue (s : State) (k : Nat) : Bool := s.exports k && s.traceRecords k != [] && !s.traceFull

/-- TRACE_EXPORT: a write that its target would refuse ends by TRACE_WRITE_ERROR. -/
def execTraceExport (src : Fin 33) (s : State) : Outc :=
  let k := src.val
  if !s.traceDue k then .next s.showFull
  else
    let rec_ := (s.traceRecords k).headD []
    let w := [2 ^ 31 + k * 2 ^ 24 + min (s.dbg.lost.get k) 65535, 0, 0, 0] ++ rec_
    let x := s.dmaWrite hearthMid s.traceAddr (clean (w.flatMap bytesOf32))
    if !x.1 then .next s
    else
      let t := if k < 32 then x.2.showProbe k ((s.traceRecords k).drop 1) else x.2.showTap ((s.traceRecords k).drop 1)
      .next ((t.setDbg (fun d => { d with lost := d.lost.set k 0 })).inc R.TRACE_PROD).showFull

/-- TRACE_WRITE_ERROR: the exporter stops. -/
def execTraceWriteError (src : Fin 33) (status : Fin 3) (s : State) : Outc :=
  if s.traceDue src.val then .next (((s.wr R.TRACE_CFG_EN 0).wr R.TRACE_STATUS_ERROR 1).wr R.TRACE_STATUS_STATUS (3 + status.val)) else .next s

/-! ## Hearth event queue and telemetry (R622, R623) -/

/-- HEAD and LEVEL of the event queue. -/
def State.showEvents (s : State) (l : List (List Nat)) : State :=
  let h := l.headD []
  ((((((s.setDbg (fun d => { d with queue := l })).wr (R.HEARTH_EVT_HEAD 0) (h.getD 0 0)).wr (R.HEARTH_EVT_HEAD 1) (h.getD 1 0)).wr
    (R.HEARTH_EVT_HEAD 2) (h.getD 2 0)).wr (R.HEARTH_EVT_HEAD 3) (h.getD 3 0))).wr R.HEARTH_EVT_STATUS_LEVEL l.length

/-- HEARTH_EVENT_ENTRY: the oldest event that hardware has raised is entered, or dropped by its priority. -/
def execHearthEventEntry (s : State) : Outc :=
  match s.dbg.raised with
  | [] => .next s
  | (e, tick) :: r =>
    let t := s.setDbg (fun d => { d with raised := r })
    let n := s.dbg.queue.length
    if n < (if e.high then 256 else 224) then
      .next (t.showEvents (s.dbg.queue ++ [[e.source * 2 ^ 24 + e.event * 2 ^ 16, e.detail, e.detail2, tick]]))
    else .next (t.inc (if e.high then R.HEARTH_EVT_STATUS_HIGH_DROPPED else R.HEARTH_EVT_STATUS_LOW_DROPPED))

/-- HEARTH_EVT_POP: from the Hearth only. -/
def execHearthEvtPop (mid : Mid) (s : State) : Outc :=
  if mid ≠ hearthMid then .next s.refusedAns else .next (s.showEvents (s.dbg.queue.drop 1)).ack

/-- The words of a SAMPLE record. -/
def State.sample (s : State) (milliwatts : Nat) : List Nat :=
  let n := s.hottest
  [2 ^ 24 + s.rd R.TELEM_PROD % 2 ^ 16, s.tick,
    trunc 8 (s.temp n / 4) * 2 ^ 24 + n * 2 ^ 16 + s.rd R.HEARTH_THROTTLE_LEVEL * 256 + s.rd R.STEEPLE_STATUS_DPLL_STATE,
    milliwatts % 2 ^ 32, s.rd R.REEVE_SLOTS_IN_USE, s.rd R.TALLY_FAULT_COUNT_COUNT, 0, 0]

/-- TELEMETRY_SAMPLE: nothing is published during a handover or without Hearth firmware; a full ring counts in LOST. -/
def execTelemetrySample (milliwatts : Nat) (s : State) : Outc :=
  let size := 2 ^ min (max 6 (s.rd R.TELEM_CFG_SIZE_LOG2)) 15
  if !s.bit R.TELEM_CFG_EN ∨ s.rd R.HEARTH_HANDOVER_RESULT = 1 ∨ !s.boot.verified ∨ s.inCrier then .next s
  else if ringHeld (s.rd R.TELEM_PROD) (s.rd R.TELEM_CONS) = size then .next (s.inc R.TELEM_LOST)
  else
    let x := s.dmaWrite hearthMid (s.rd R.TELEM_BASE_ADDR * 64 + s.rd R.TELEM_PROD % size * 32) (clean ((s.sample milliwatts).flatMap bytesOf32))
    if !x.1 then .next x.2
    else
      let t := x.2.inc R.TELEM_PROD
      if !s.bit R.TELEM_CFG_IRQ_EN then .next t
      else if s.bit R.TELEM_CFG_DEST then .next (t.irqHost 457)
      else .next (t.irq .telemetry 0)

/-! ## Boundary scan (R624) -/

def State.setTap (s : State) (f : JtagTap → JtagTap) : State := s.setDbg (fun d => { d with jtag := f d.jtag })

/-- JTAG_EXTEST: the captured levels are shifted out, and the boundary register drives the outputs. -/
def execJtagExtest (shifted pins : Nat) (s : State) : Outc :=
  .next (s.setTap (fun t => { t with ir := 0x00, boundary := shifted, driven := some shifted, hiz := false, tdo := pins }))

/-- JTAG_SAMPLE_PRELOAD: the outputs stay the device's own. -/
def execJtagSamplePreload (shifted pins : Nat) (s : State) : Outc :=
  .next (s.setTap (fun t => { t with ir := 0x01, boundary := shifted, driven := none, hiz := false, tdo := pins }))

/-- JTAG_IDCODE. -/
def execJtagIdcode (s : State) : Outc := .next (s.setTap (fun t => { t with ir := 0x02, driven := none, hiz := false, tdo := 0x35C08567 }))

/-- JTAG_CLAMP: the boundary register drives the outputs while the bypass register is selected. -/
def execJtagClamp (s : State) : Outc := .next (s.setTap (fun t => { t with ir := 0x03, driven := some t.boundary, hiz := false, tdo := 0 }))

/-- JTAG_HIGHZ. -/
def execJtagHighz (s : State) : Outc := .next (s.setTap (fun t => { t with ir := 0x04, driven := none, hiz := true, tdo := 0 }))

/-- The instruction register holds a code that selects BYPASS. -/
def bypassCode (c : BitVec 8) : Bool := !([0x00, 0x01, 0x02, 0x03, 0x04, 0x10] : List (BitVec 8)).contains c

/-- JTAG_BYPASS. -/
def execJtagBypass (code : BitVec 8) (s : State) : Outc :=
  if bypassCode code then .next (s.setTap (fun t => { t with ir := code.toNat, driven := none, hiz := false, tdo := 0 })) else .next s

/-! ## Core debug (R627, R628) -/

/-- DBG_HALT_REQ: commands stand between sheaves. -/
def execDbgHaltReq (core : Fin 160) (s : State) : Outc :=
  if (s.core core.val).dbgHalt ∨ (s.core core.val).run = .held then .next s.ack else .next (s.dbgStop core.val 1).ack

/-- DBG_RESUME. -/
def execDbgResume (core : Fin 160) (s : State) : Outc :=
  match dbgRegs core.val with
  | none => .next s
  | some r =>
    if !(s.core core.val).dbgHalt then .next s.ack
    else .next (((s.modCore core.val (fun c => { c with dbgHalt := false, dbgStep := false, dbgPass := true })).wr r.halted 0).wr r.reason 0).ack

/-- DBG_STEP: the next sheaf issues, and the core halts again. -/
def execDbgStep (core : Fin 160) (s : State) : Outc :=
  if !(s.core core.val).dbgHalt then .next s.ack else .next (s.modCore core.val (fun c => { c with dbgStep := true, dbgPass := true })).ack

/-- DBG_REG_SEL: TAG, and DBG_REG_DATA. -/
def dbgSel (k : Nat) : Fld × Fld × Fld × Fld :=
  if k < 144 then (R.DBG_REG_SEL_TAG (hamOf k) (phyOf k), R.DBG_REG_SEL_FILE (hamOf k) (phyOf k), R.DBG_REG_SEL_NUMBER (hamOf k) (phyOf k), R.DBG_REG_DATA (hamOf k) (phyOf k))
  else (R.HDBG_REG_SEL_TAG (k - 144), R.HDBG_REG_SEL_FILE (k - 144), R.HDBG_REG_SEL_NUMBER (k - 144), R.HDBG_REG_DATA (k - 144))

/-- FILE and NUMBER name a register part of core `k`. -/
def dbgNames (k file n : Nat) : Bool :=
  if file = 0 ∨ file = 3 ∨ file = 4 then decide (n < 32)
  else if file = 1 then !isD k && decide (n < 32)
  else if file = 2 then (if isD k then decide (n < 32) else decide (n < 8))
  else if file = 5 then crExists k n
  else if file = 6 then isD k && decide (n < 1024)
  else if file = 7 ∨ file = 8 ∨ file = 9 then isD k && decide (n < 8)
  else false

/-- The value of a register part and its tag. -/
def State.dbgRead (s : State) (k file n : Nat) : Nat × Bool :=
  let c := s.core k
  if !dbgNames k file n then (0, false)
  else match file with
    | 0 => (c.gv n % 2 ^ 32, c.gtag n)
    | 1 => (c.gv n / 2 ^ 32 % 2 ^ 32, c.gtag n)
    | 2 => if isD k then ((c.pv (n / 4)).toNat / 2 ^ (32 * (n % 4)) % 2 ^ 32, c.ptag (n / 4)) else ((c.pv n).toNat % 2, c.ptag n)
    | 3 => (c.fv (isD k) n % 2 ^ 32, c.ftag (isD k) n)
    | 4 => (c.fv (isD k) n / 2 ^ 32 % 2 ^ 32, c.ftag (isD k) n)
    | 5 => (s.crRead k n % 2 ^ 32, false)
    | 6 => ((c.vv (n / 32)).toNat / 2 ^ (32 * (n % 32)) % 2 ^ 32, (c.vtag (n / 32)).getLsbD (n % 32 / 2))
    | 7 => ((c.av n).re.toNat % 2 ^ 32, c.atag n)
    | 8 => ((c.av n).im.toNat % 2 ^ 32, c.atag n)
    | _ => ((c.av n).im.toNat / 2 ^ 32 * 256 + (c.av n).re.toNat / 2 ^ 32, c.atag n)

/-- `x` with its 32-bit word `i` replaced. -/
def setWord (x i v : Nat) : Nat := x - x / 2 ^ (32 * i) % 2 ^ 32 * 2 ^ (32 * i) + v % 2 ^ 32 * 2 ^ (32 * i)

/-- Write a register part and its tag. -/
def Core.dbgWrite (c : Core) (k file n v : Nat) (tag : Bool) : Core :=
  let fw := fun (x : Nat) => c.write k (.f n x tag)
  match file with
  | 0 => c.write k (.g n (setWord (c.gv n) 0 v) tag)
  | 1 => c.write k (.g n (setWord (c.gv n) 1 v) tag)
  | 2 => if isD k then c.write k (.p (n / 4) (BitVec.ofNat 128 (setWord (c.pv (n / 4)).toNat (n % 4) v)) tag) else c.write k (.p n (BitVec.ofNat 128 v) tag)
  | 3 => fw (setWord (c.fv (isD k) n) 0 v)
  | 4 => fw (setWord (c.fv (isD k) n) 1 v)
  | 5 => c.crWrite k n v
  | 6 =>
    let old := c.vtag (n / 32)
    let bit := BitVec.ofNat 16 (2 ^ (n % 32 / 2))
    c.write k (.v (n / 32) (BitVec.ofNat 1024 (setWord (c.vv (n / 32)).toNat (n % 32) v)) (if tag then old ||| bit else old &&& ~~~bit))
  | 7 => c.write k (.a n { c.av n with re := BitVec.ofNat 40 (setWord (c.av n).re.toNat 0 v) } tag)
  | 8 => c.write k (.a n { c.av n with im := BitVec.ofNat 40 (setWord (c.av n).im.toNat 0 v) } tag)
  | _ => c.write k (.a n
      { re := BitVec.ofNat 40 ((c.av n).re.toNat % 2 ^ 32 + v % 256 * 2 ^ 32), im := BitVec.ofNat 40 ((c.av n).im.toNat % 2 ^ 32 + v / 256 % 256 * 2 ^ 32) } tag)

/-- DBG_REG_READ: ignored while the core runs. -/
def execDbgRegRead (core : Fin 160) (v : Word) (s : State) : Outc :=
  let k := core.val
  let (tag, file, num, data) := dbgSel k
  if bitOf v 31 ∨ !(s.core k).dbgHalt then .next s.ack
  else
    let x := s.dbgRead k (bitsOf v 12 4) (bitsOf v 0 12)
    .next (((s.wrWord v [file, num]).wr data x.1).wrB tag x.2).ack

/-- DBG_REG_WRITE: ignored while the core runs. -/
def execDbgRegWrite (core : Fin 160) (v : Word) (s : State) : Outc :=
  let k := core.val
  let (tag, file, num, data) := dbgSel k
  if !bitOf v 31 ∨ !(s.core k).dbgHalt then .next s.ack
  else
    let t := s.wrWord v [tag, file, num]
    if dbgNames k (bitsOf v 12 4) (bitsOf v 0 12) then .next (t.modCore k (fun c => c.dbgWrite k (bitsOf v 12 4) (bitsOf v 0 12) (s.rd data) (bitOf v 30))).ack
    else .next t.ack

end Sys2Proof.Machine
end

