-- ==== Sys2Proof/Machine/WheelMill.lean ====
section
/-! DEFINITION. Machine/WheelMill.lean: the transform and MIMO engines: formats, job checks, transforms and groups, records
(R254 to R289). Halves and elements in fp32 are held as their bits.
Choices of the model: log entries 38 (DEDUCED), 39 (DESIGN CHOICE). -/

namespace Sys2Proof.Machine

/-! ## Formats (R265 to R267) -/

/-- m × 2^e in fp32. -/
def fp32Of (m e : Int) : Nat := (fp32.roundInt m e false).bits

/-- An fp32 input: a subnormal reads as zero of its sign (R115, R267). -/
def flush32 (x : Nat) : Nat := if x / 2 ^ 23 % 256 = 0 then x / 2 ^ 31 % 2 * 2 ^ 31 else x

def u16 (b0 b1 : Nat) : Nat := b0 + 256 * b1
def u32 (l : List Nat) : Nat := l.getD 0 0 + l.getD 1 0 * 256 + l.getD 2 0 * 65536 + l.getD 3 0 * 16777216

/-- Bytes of a C16 or FP32 element. -/
def elemSize (fmt : Nat) : Nat := if fmt = 1 then 8 else 4

/-- An element of C16 or FP32 from its bytes. -/
def element (fmt : Nat) (e : Int) (l : List Nat) : Nat × Nat :=
  if fmt = 1 then (flush32 (u32 l), flush32 (u32 (l.drop 4)))
  else (fp32Of (sext 16 (u16 (l.getD 0 0) (l.getD 1 0))) (e - 15), fp32Of (sext 16 (u16 (l.getD 2 0) (l.getD 3 0))) (e - 15))

/-- `n` elements with their marks. -/
def elements (fmt : Nat) (e : Int) (l : List (Nat × Bool)) : Nat → List ((Nat × Nat) × Bool)
  | 0 => []
  | n + 1 =>
    let z := elemSize fmt
    (element fmt e (byteVals (l.take z)), anyBad (l.take z)) :: elements fmt e (l.drop z) n

/-- The bits of a byte, first bit 7. -/
def msbBits (l : List Nat) : List Bool := l.flatMap (fun b => (List.range 8).map (fun i => nbit b (7 - i)))

def bitsVal (l : List Bool) : Nat := l.foldl (fun n b => 2 * n + (if b then 1 else 0)) 0

/-- Twelve samples of a PRB record (R265, R266). -/
def prbSamples (fmt w : Nat) (e : Int) (l : List Nat) : List (Nat × Nat) :=
  match fmt with
  | 2 =>
    let x := l.getD 0 0 % 16
    let bits := msbBits (l.drop 1)
    let m := fun i => sext w (bitsVal ((bits.drop (i * w)).take w))
    (List.range 12).map (fun k => (fp32Of (m (2 * k)) (e - 15 + x), fp32Of (m (2 * k + 1)) (e - 15 + x)))
  | 3 =>
    let m := fun i => sext 16 (u16 (l.getD (2 * i + 1) 0) (l.getD (2 * i) 0))
    (List.range 12).map (fun k => (fp32Of (m (2 * k)) (e - 15), fp32Of (m (2 * k + 1)) (e - 15)))
  | _ =>
    let z := elemSize fmt
    (List.range 12).map (fun k => element fmt e (l.drop (k * z)))

/-- floor(v × 2^(15 − e) + 1/2) of a finite value, none of a NaN; an infinity exceeds every range (R267). -/
def halfOf (v : Nat) (e : Int) : Option Int :=
  match (fp32.unpack v).1 with
  | .nan _ => none
  | .inf n => some (if n then -(2 ^ 40) else 2 ^ 40)
  | .fin n m q => some (rshr (signed n m) (-(q + 15 - e)))

def isNanInf (v : Nat) : Bool := decide (v / 2 ^ 23 % 256 = 255)

def halfSat (v : Nat) (e : Int) : Bool :=
  match halfOf v e with
  | some x => outside x 16
  | none => false

/-- The automatic exponent: the smallest at which no finite half saturates, else 31. -/
def blockExp (vs : List Nat) : Int :=
  let fin := vs.filter (fun v => !isNanInf v)
  (((List.range 63).map (fun i => (i : Int) - 31)).find? (fun e => !fin.any (fun v => halfSat v e))).getD 31

/-- OUT_EXP as a signed value. -/
def exp6 (x : Nat) : Int := sext 6 x

/-- What an output block does to the record: exponent chosen, halves saturated, NaN or infinity seen, and its bytes. -/
structure Block where
  exp : Int
  sats : Nat
  nonfinite : Bool
  bytes : List (Nat × Bool)

/-- A block of elements in the output format (R267); poisoned elements take no part. -/
def outBlock (fmt : Nat) (outExp : Int) (els : List ((Nat × Nat) × Bool)) : Block :=
  let good := (els.filter (fun x => !x.2)).flatMap (fun x => [x.1.1, x.1.2])
  let nf := good.any isNanInf
  if fmt = 1 then
    ⟨0, 0, nf, els.flatMap (fun x => (bytesOf32 x.1.1 ++ bytesOf32 x.1.2).map (fun b => (b, x.2)))⟩
  else
    let e := if outExp = -32 then blockExp good else outExp
    let half := fun v => match halfOf v e with
      | some y => trunc 16 (fit y 16 true)
      | none => 0
    ⟨e, (good.filter (fun v => halfSat v e)).length, nf,
     els.flatMap (fun x => [half x.1.1 % 256, half x.1.1 / 256, half x.1.2 % 256, half x.1.2 / 256].map (fun b => (b, x.2)))⟩

def jobNote (j : WsJob) (auto : Bool) (b : Block) : WsJob :=
  { j with sat := j.sat || decide (0 < b.sats), nonfinite := j.nonfinite || b.nonfinite,
           satCount := min (j.satCount + b.sats) (2 ^ 32 - 1),
           exps := if auto then some (match j.exps with
             | some (mx, mn) => (max mx b.exp, min mn b.exp)
             | none => (b.exp, b.exp)) else j.exps }

/-! ## Wheel jobs (R268 to R273) -/

def fftSizes : List Nat := [128, 256, 512, 1024, 2048, 4096, 8192, 1536, 3072, 6144]

def divOut (p : Nat) : Nat → Nat → Nat
  | 0, n => n
  | f + 1, n => if n ≠ 0 ∧ n % p = 0 then divOut p f (n / p) else n

def dftSize (n : Nat) : Bool := decide (2 ≤ n ∧ n ≤ 3300) && divOut 5 8 (divOut 3 8 (divOut 2 12 n)) == 1

structure WheelJob where
  op : Nat
  inFmt : Nat
  outFmt : Nat
  norm : Nat
  shift : Bool
  half : Bool
  n : Nat
  binFirst : Nat
  binLen : Nat
  sum : Bool
  cp : Nat
  timeLen : Nat
  count : Nat
  inExp : Int
  outExp : Int
  ref : Nat
  inStride : Nat
  outStride : Nat
  exp : Nat
  inp : Nat
  out : Nat
deriving DecidableEq, Repr

namespace WheelJob
def inElems (w : WheelJob) : Nat := if w.op = 1 then w.n + w.cp else w.binLen
def outElems (w : WheelJob) : Nat := if w.op = 1 then w.binLen else w.n + w.cp
def inBytes (w : WheelJob) : Nat := w.inElems * elemSize w.inFmt
def outBytes (w : WheelJob) : Nat := if w.op = 3 then w.timeLen * 4 else w.outElems * elemSize w.outFmt
def auto (w : WheelJob) : Bool := decide (w.outFmt = 0 ∧ w.outExp = -32)
end WheelJob

def wword (ws : List Nat) (i : Nat) : Nat := ws.getD i 0

/-- The fields of a Wheel job, none at a FIELD error (R265, R267 to R270). -/
def parseWheel (ws : List Nat) : Option WheelJob :=
  let w0 := wword ws 0
  let w1 := wword ws 1
  let w2 := wword ws 2
  let w3 := wword ws 3
  let w5 := wword ws 5
  let j : WheelJob := {
    op := nbits w0 28 4, inFmt := nbits w0 21 3, outFmt := nbits w0 18 3, norm := nbits w0 16 2, shift := nbit w0 15,
    half := nbit w0 14, n := nbits w0 0 14, binFirst := nbits w1 16 14, binLen := nbits w1 0 14, sum := nbit w2 31, cp := nbits w2 16 14,
    timeLen := nbits w2 0 14, count := nbits w3 16 12 + 1, inExp := exp6 (nbits w3 8 6), outExp := exp6 (nbits w3 0 6),
    ref := wword ws 4 * 256, inStride := nbits w5 16 16 * 64, outStride := nbits w5 0 16 * 64, exp := wword ws 6 * 256,
    inp := wword ws 8 * 256, out := wword ws 9 * 256 }
  let corr := decide (j.op = 3)
  let fft := fftSizes.contains j.n
  let zeros := nbits w1 30 2 == 0 && nbits w1 14 2 == 0 && !nbit w2 30 && nbits w2 14 2 == 0 && nbits w3 28 4 == 0 && nbits w3 14 2 == 0 &&
    nbits w3 6 2 == 0 && [7, 10, 11, 12, 13, 14, 15].all (fun i => wword ws i == 0)
  let basic := nbits w0 24 4 == 1 && decide (1 ≤ j.op ∧ j.op ≤ 3) && decide (j.inFmt ≤ 1) && decide (j.outFmt ≤ 1) && j.norm != 3 &&
    (fft || dftSize j.n) && decide (j.binFirst < j.n) && decide (1 ≤ j.binLen ∧ j.binLen ≤ j.n) && decide (j.cp ≤ j.n)
  let kind := if corr then j.outFmt == 1 && !j.half && j.cp == 0 && decide (1 ≤ j.timeLen ∧ j.timeLen ≤ j.n)
    else !j.sum && j.timeLen == 0 && j.ref == 0
  let exps := (if j.inFmt = 1 then decide (j.inExp = 0) else decide (j.inExp ≠ -32)) && (j.outFmt != 1 || decide (j.outExp = 0)) && (j.auto || j.exp == 0)
  let dft := fft || (!corr && !j.shift && !j.half && j.cp == 0 && j.binFirst == 0 && j.binLen == j.n)
  let strides := j.count == 1 || (decide (j.inBytes ≤ j.inStride) && (if j.sum then j.outStride == 0 else decide (j.outBytes ≤ j.outStride)))
  if zeros && basic && kind && exps && dft && strides then some j else none

/-- Inputs and outputs of every transform: address, bytes, and whether it is an output. -/
def WheelJob.ranges (w : WheelJob) : List (Nat × Nat × Bool) :=
  (List.range w.count).map (fun t => (w.inp + t * w.inStride, w.inBytes, false)) ++
  (if w.op = 3 then [(w.ref, w.binLen * elemSize w.inFmt, false)] else []) ++
  (if w.sum then [(w.out, w.outBytes, true)] else (List.range w.count).map (fun t => (w.out + t * w.outStride, w.outBytes, true))) ++
  (if w.auto then [(w.exp, w.count, true)] else [])

/-- A range lies in the regions, and as an output overlaps none of the guarded ranges (R258). -/
def State.rangeOk (s : State) (guard : List (Nat × Nat)) (r : Nat × Nat × Bool) : Bool :=
  r.2.1 == 0 || (s.inRegion r.1 r.2.1 && (!r.2.2 || !guard.any (fun g => overlaps r.1 r.2.1 g.1 g.2)))

def State.wheelCheck (s : State) (addr : Nat) (ws : List Nat) : Nat :=
  match parseWheel ws with
  | none => 1
  | some w => if w.ranges.all (s.rangeOk [(addr, 64)]) then 0 else 3

def wmStop (j : WsJob) : WsJob := j.stop .aborted 6

/-- The largest power so far; strict, a NaN never chosen (R272). -/
def peakOf (best : Option (Nat × Nat)) (idx p : Nat) : Option (Nat × Nat) :=
  let v := (fp32.unpack p).1
  if v.isNan then best
  else match best with
    | none => some (p, idx)
    | some b => if ((fp32.unpack b.1).1).lt v then some (p, idx) else best

def peaks (best : Option (Nat × Nat)) (base : Nat) (ps : List Nat) : Option (Nat × Nat) :=
  (ps.zipIdx).foldl (fun b x => peakOf b (base + x.2) x.1) best

/-- Read the reference of a CORR job, once. -/
def State.wheelRef (s : State) (j : WsJob) (w : WheelJob) : Option WsJob × State :=
  if w.op = 3 ∧ j.done = 0 then
    match s.dmaRead (wsMid 1) w.ref (w.binLen * elemSize w.inFmt) with
    | (none, u) => (none, u)
    | (some l, u) => (some { j with ref := (elements w.inFmt w.inExp l w.binLen).map Prod.fst, refMark := anyBad l }, u)
  else (some j, s)

/-- The fp32 words of powers. -/
def powerBytes (ps : List Nat) (mark : Bool) : List (Nat × Bool) := ps.flatMap (fun p => (bytesOf32 p).map (fun b => (b, mark)))

/-- One transform of a Wheel job (R271 to R273). -/
def State.wheelUnit (s : State) (j00 : WsJob) : WsJob × State :=
  let mid := wsMid 1
  match parseWheel j00.words with
  | none => (j00, s)
  | some w =>
    match s.wheelRef j00 w with
    | (none, u) => (wmStop j00, u)
    | (some j0, s0) =>
      let t := j0.done
      match s0.dmaRead mid (w.inp + t * w.inStride) w.inBytes with
      | (none, u) => (wmStop j0, u)
      | (some inp, u) =>
        let bad := anyBad inp || (decide (w.op = 3) && j0.refMark)
        let x := (elements w.inFmt w.inExp inp w.inElems).map Prod.fst
        let j := { j0 with poisoned := j0.poisoned || bad, done := t + 1 }
        let last := decide (t + 1 = w.count)
        if w.op = 3 then
          let got := Config.wheelPowers w.n w.norm w.shift w.binFirst w.binLen w.timeLen x j0.ref
          let ps := (List.range w.timeLen).map (fun i => got.getD i 0)
          if w.sum then
            let sums := if t = 0 then ps else List.zipWith (fun a b => (fp32.op2 0 a b).bits) j0.sums ps
            let mark := j0.sumMark || bad
            let j1 := { j with sums := sums, sumMark := mark }
            if last then
              let y := if mark then u.openBytes w.outBytes else (powerBytes sums false, u)
              let j2 := { j1 with peak := if mark then none else peaks none 0 sums, peakMark := mark,
                                  nonfinite := j1.nonfinite || (!mark && sums.any isNanInf) }
              match y.2.dmaWrite mid w.out y.1 with
              | (true, v) => ({ j2 with wb := w.count }, v)
              | (false, v) => (wmStop j2, v)
            else (j1, u)
          else
            let y := if bad then u.openBytes w.outBytes else (powerBytes ps false, u)
            let j2 := { j with peak := if bad then j.peak else peaks j.peak (t * w.timeLen) ps, peakMark := j.peakMark || bad,
                               nonfinite := j.nonfinite || (!bad && ps.any isNanInf) }
            match y.2.dmaWrite mid (w.out + t * w.outStride) y.1 with
            | (true, v) => ({ j2 with wb := j2.wb + 1 }, v)
            | (false, v) => (wmStop j2, v)
        else
          let got := Config.wheelTransform (decide (w.op = 2)) w.n w.norm w.shift w.half w.binFirst w.binLen w.cp x
          let els := (List.range w.outElems).map (fun i => (got.getD i (0, 0), bad))
          let b := outBlock w.outFmt w.outExp els
          let y := if bad then u.openBytes w.outBytes else (b.bytes, u)
          let j2 := jobNote j w.auto b
          match y.2.dmaWrite mid (w.out + t * w.outStride) y.1 with
          | (false, v) => (wmStop j2, v)
          | (true, v) =>
            if w.auto then
              match v.dmaWrite mid (w.exp + t) [(trunc 8 b.exp, false)] with
              | (true, z) => ({ j2 with wb := j2.wb + 1 }, z)
              | (false, z) => (wmStop j2, z)
            else ({ j2 with wb := j2.wb + 1 }, v)

def wheelLast (j : WsJob) : Bool :=
  match parseWheel j.words with
  | some w => decide (w.count ≤ j.done)
  | none => true

/-! ## Mill jobs (R277 to R285) -/

structure MillJob where
  op : Nat
  inFmt : Nat
  outFmt : Nat
  bfpW : Nat
  cov : Nat
  colnorm : Nat
  unbias : Bool
  layout : Bool
  nant : Nat
  groups : Nat
  inExp : Int
  outExp : Int
  antStride : Nat
  lstride : Nat
  grp : Nat
  wgt : Nat
  exp : Nat
  inp : Nat
  out : Nat
deriving DecidableEq, Repr

def MillJob.auto (m : MillJob) : Bool := decide (m.outFmt = 0 ∧ m.outExp = -32)
/-- Bytes of a PRB record (R265). -/
def MillJob.prb (m : MillJob) : Nat := if m.inFmt = 2 then 1 + 3 * m.bfpW else if m.inFmt = 1 then 96 else 48

/-- The fields of a Mill job, none at a FIELD error (R265, R267, R277, R278). -/
def parseMill (ws : List Nat) : Option MillJob :=
  let w0 := wword ws 0
  let w1 := wword ws 1
  let w2 := wword ws 2
  let j : MillJob := {
    op := nbits w0 28 4, inFmt := nbits w0 21 3, outFmt := nbits w0 18 3, bfpW := nbits w0 14 4, cov := nbits w0 12 2,
    colnorm := nbits w0 10 2, unbias := nbit w0 9, layout := nbit w0 8, nant := nbits w0 0 7, groups := nbits w1 16 9,
    inExp := exp6 (nbits w1 8 6), outExp := exp6 (nbits w1 0 6), antStride := nbits w2 16 16 * 64, lstride := nbits w2 0 16 * 64,
    grp := wword ws 4 * 256, wgt := wword ws 5 * 256, exp := wword ws 6 * 256, inp := wword ws 8 * 256, out := wword ws 9 * 256 }
  let zeros := !nbit w0 7 && nbits w1 25 7 == 0 && nbits w1 14 2 == 0 && nbits w1 6 2 == 0 &&
    [3, 7, 10, 11, 12, 13, 14, 15].all (fun i => wword ws i == 0)
  let basic := nbits w0 24 4 == 1 && decide (1 ≤ j.nant ∧ j.nant ≤ 64) && decide (1 ≤ j.groups)
  let kind := match j.op with
    | 1 => j.outFmt == 1 && decide (j.inFmt ≤ 1) && j.cov != 3 && j.colnorm == 0 && !j.layout && j.antStride == 0 && j.lstride == 0 && j.wgt == 0
    | 2 => decide (j.outFmt ≤ 1) && decide (j.inFmt ≤ 3) && j.cov == 0 && j.colnorm == 0 && !j.unbias && (j.layout == (j.lstride != 0))
    | 3 => decide (j.outFmt ≤ 1) && decide (j.inFmt ≤ 1) && j.colnorm != 3 && j.cov == 0 && !j.unbias && !j.layout && j.antStride == 0 &&
        j.lstride == 0 && j.wgt == 0
    | _ => false
  let exps := (if j.inFmt = 2 then decide (8 ≤ j.bfpW ∧ j.bfpW ≤ 14) else j.bfpW == 0) &&
    (if j.inFmt = 1 then decide (j.inExp = 0) else decide (j.inExp ≠ -32)) && (j.outFmt != 1 || decide (j.outExp = 0)) && (j.auto || j.exp == 0)
  if zeros && basic && kind && exps then some j else none

structure Group where
  nl : Nat
  prbFirst : Nat
  prbCount : Nat
  src : Nat
  dst : Nat
  param : Nat
deriving DecidableEq, Repr

/-- Entry `g` of a group table, none at a FIELD error (R279, R280). -/
def parseGroup (m : MillJob) (tab : List Nat) (g : Nat) : Option Group :=
  let w0 := wword tab (4 * g)
  let x : Group := { nl := nbits w0 24 6, prbFirst := nbits w0 12 9, prbCount := nbits w0 0 5, src := wword tab (4 * g + 1),
                     dst := wword tab (4 * g + 2), param := wword tab (4 * g + 3) }
  let v := flush32 x.param
  let pos := decide (v ≠ 0 ∧ v < 2 ^ 31 ∧ v ≤ 0x7F800000)
  let zero := decide (v % 2 ^ 31 = 0)
  let par := if m.op = 1 ∧ m.cov = 0 then pos else if m.op = 3 then pos || zero else x.param == 0
  if nbits w0 30 2 = 0 ∧ nbits w0 21 3 = 0 ∧ nbits w0 5 7 = 0 ∧ (1 ≤ x.nl ∧ x.nl ≤ (if m.op = 3 then 32 else 16)) ∧ x.nl ≤ m.nant ∧
     x.prbFirst ≤ 274 ∧ (1 ≤ x.prbCount ∧ x.prbCount ≤ 16) ∧ x.prbFirst + x.prbCount ≤ 275 ∧ x.src % 64 = 0 ∧
     x.dst % (if m.op = 2 then 16 else 64) = 0 ∧ par ∧ (m.op ≠ 2 ∨ (x.prbFirst + x.prbCount) * m.prb ≤ m.antStride) then some x
  else none

/-- Where a group's blocks lie (R280): offset of the covariance, and the ranges read and written. -/
def MillJob.covAt (m : MillJob) (x : Group) : Nat := m.inp + x.src + (m.nant * x.nl * elemSize m.inFmt + 63) / 64 * 64

def MillJob.antAt (m : MillJob) (x : Group) (r p : Nat) : Nat := m.inp + r * m.antStride + (x.prbFirst + p) * m.prb

/-- Output address and elements of a group; with LAYOUT 1, one plane per layer. -/
def MillJob.outs (m : MillJob) (x : Group) : List (Nat × Nat) :=
  match m.op with
  | 1 => [(m.out + x.dst, x.nl * m.nant * 8 + 4 * x.nl)]
  | 2 =>
    let es := elemSize m.outFmt
    if m.layout then (List.range x.nl).map (fun l => (m.out + x.dst + l * m.lstride, 12 * x.prbCount * es))
    else [(m.out + x.dst, 12 * x.prbCount * x.nl * es)]
  | _ => [(m.out + x.dst, m.nant * x.nl * elemSize m.outFmt)]

def MillJob.ins (m : MillJob) (x : Group) : List (Nat × Nat) :=
  let es := elemSize m.inFmt
  match m.op with
  | 1 => [(m.inp + x.src, m.nant * x.nl * es)] ++
    (if m.cov = 1 then [(m.covAt x, m.nant * (m.nant + 1) / 2 * es)] else if m.cov = 2 then [(m.covAt x, 4 * m.nant)] else [])
  | 2 => (List.range m.nant).map (fun r => (m.antAt x r 0, x.prbCount * m.prb)) ++ [(m.wgt + x.src, x.nl * m.nant * 8)]
  | _ => [(m.inp + x.src, x.nl * m.nant * es)]

/-- The checks of R258 from the fields on; the group table's words, or an error code. -/
def State.millCheck (s : State) (addr : Nat) (ws : List Nat) : Except Nat (List Nat) × State :=
  match parseMill ws with
  | none => (.error 1, s)
  | some m =>
    let tn := 16 * m.groups
    let held := [(m.grp, tn), (m.inp, 1), (m.out, 1)] ++ (if m.op = 2 then [(m.wgt, 1)] else []) ++ (if m.auto then [(m.exp, 1)] else [])
    if !held.all (fun r => s.inRegion r.1 r.2) then (.error 3, s)
    else match s.dmaRead (wsMid 2) m.grp tn with
      | (none, u) => (.error 6, u)
      | (some l, u) =>
        if anyBad l then (.error 5, u)
        else
          let tab := le32 (4 * m.groups) (byteVals l)
          let gs := (List.range m.groups).map (parseGroup m tab)
          if gs.any (·.isNone) then (.error 1, u)
          else
            let rs := gs.filterMap id |>.flatMap (fun x =>
              (m.ins x).map (fun r => (r.1, r.2, false)) ++ (m.outs x).map (fun r => (r.1, r.2, true)))
            let all := rs ++ (if m.auto then [(m.exp, m.groups, true)] else [])
            if all.all (u.rangeOk [(addr, 64), (m.grp, tn)]) then (.ok tab, u) else (.error 3, u)

/-- Write several ranges in order. -/
def State.dmaWriteAll (s : State) (mid : Mid) : List (Nat × List (Nat × Bool)) → Bool × State
  | [] => (true, s)
  | r :: rest =>
    match s.dmaWrite mid r.1 r.2 with
    | (true, t) => State.dmaWriteAll t mid rest
    | (false, t) => (false, t)

/-- Read several ranges in order. -/
def State.dmaReadAll (s : State) (mid : Mid) : List (Nat × Nat) → Option (List (List (Nat × Bool))) × State
  | [] => (some [], s)
  | r :: rest =>
    match s.dmaRead mid r.1 r.2 with
    | (none, t) => (none, t)
    | (some l, t) => match State.dmaReadAll t mid rest with
      | (some m, u) => (some (l :: m), u)
      | (none, u) => (none, u)

/-- A variance that is not positive and finite is replaced by 2^−120 (R284). -/
def variance (v : Nat) : Nat × Bool :=
  let x := flush32 v
  if x = 0 ∨ 2 ^ 31 ≤ x ∨ isNanInf x then (0x03800000, true) else (x, false)

/-- Write a group's output with its exponent byte, and count it. -/
def State.millOut (s : State) (j : WsJob) (m : MillJob) (g : Nat) (outs : List (Nat × List (Nat × Bool))) (b : Block) : WsJob × State :=
  let mid := wsMid 2
  let j1 := jobNote { j with done := j.done + 1 } m.auto b
  match s.dmaWriteAll mid (outs ++ (if m.auto then [(m.exp + g, [(trunc 8 b.exp, false)])] else [])) with
  | (true, u) => ({ j1 with wb := j1.wb + 1 }, u)
  | (false, u) => (wmStop j1, u)

/-- A singular group counts (R284). -/
def singNote (j : WsJob) (g : Nat) (counted other : Bool) : WsJob :=
  { j with singular := j.singular || counted || other, firstSing := if counted && j.singCount == 0 then g else j.firstSing,
           singCount := if counted then j.singCount + 1 else j.singCount }

/-- The antenna samples of resource element `k` (within the group) from the records read, and whether one was poisoned. -/
def antSamples (m : MillJob) (recs : List (List (Nat × Bool))) (p k : Nat) : List (Nat × Nat) :=
  recs.map (fun r => (prbSamples m.inFmt m.bfpW m.inExp (byteVals ((r.drop (p * m.prb)).take m.prb))).getD k (0, 0))

/-- One group of a Mill job (R281 to R285). -/
def State.millUnit (s : State) (j : WsJob) : WsJob × State :=
  let mid := wsMid 2
  match parseMill j.words with
  | none => (j, s)
  | some m =>
    let g := j.done
    match parseGroup m j.table g with
    | none => (j, s)
    | some x =>
      match s.dmaReadAll mid (m.ins x) with
      | (none, u) => (wmStop j, u)
      | (some ins, u) =>
        let bad := ins.any anyBad
        let j0 := { j with poisoned := j.poisoned || bad }
        let open_ : Block := ⟨-31, 0, false, []⟩
        match m.op with
        | 1 =>
          let h := (elements m.inFmt m.inExp (ins.getD 0 []) (m.nant * x.nl)).map Prod.fst
          let vs := if m.cov = 2 then (le32 m.nant (byteVals (ins.getD 1 []))).map variance else []
          let k : List (Nat × Nat) := if m.cov = 1 then
              let l := (elements m.inFmt m.inExp (ins.getD 1 []) (m.nant * (m.nant + 1) / 2)).map Prod.fst
              (List.range m.nant).flatMap (fun r => (List.range (r + 1)).map (fun c =>
                let e := l.getD (r * (r + 1) / 2 + c) (0, 0)
                if c = r then (e.1, 0) else e))
            else vs.map (fun v => (v.1, 0))
          if bad then
            let y := u.openBytes (x.nl * m.nant * 8 + 4 * x.nl)
            y.2.millOut j0 m g [(m.out + x.dst, y.1)] open_
          else
            let r := Config.millUl m.cov m.nant x.nl m.unbias h k (flush32 x.param)
            let w := (List.range (x.nl * m.nant)).map (fun i => (r.1.getD i (0, 0), false))
            let sinr := (List.range x.nl).map (fun i => r.2.1.getD i 0)
            let b := outBlock 1 0 w
            let b1 := { b with nonfinite := b.nonfinite || sinr.any isNanInf }
            u.millOut (singNote j0 g (r.2.2 || vs.any Prod.snd) false) m g [(m.out + x.dst, b.bytes ++ powerBytes sinr false)] b1
        | 2 =>
          let recs := ins.take m.nant
          let wbytes := ins.getD m.nant []
          let w := (elements 1 0 wbytes (x.nl * m.nant)).map Prod.fst
          let wbad := anyBad wbytes
          let prbBad := fun p => recs.any (fun r => anyBad ((r.drop (p * m.prb)).take m.prb))
          let el := fun (k l : Nat) =>
            let p := k / 12
            let mark := wbad || prbBad p
            (if mark then (0, 0) else Config.millDot ((w.drop (l * m.nant)).take m.nant) (antSamples m recs p (k % 12)), mark)
          let res := 12 * x.prbCount
          let es := if m.layout then (List.range x.nl).flatMap (fun l => (List.range res).map (fun k => el k l))
            else (List.range res).flatMap (fun k => (List.range x.nl).map (fun l => el k l))
          let b := outBlock m.outFmt m.outExp es
          let n := 12 * x.prbCount * elemSize m.outFmt
          let opened := u.openBytes (b.bytes.length)
          let bytes := List.zipWith (fun a o => if a.2 then o else a) b.bytes opened.1
          let outs := if m.layout then (List.range x.nl).map (fun l => (m.out + x.dst + l * m.lstride, (bytes.drop (l * n)).take n))
            else [(m.out + x.dst, bytes)]
          (if bad then opened.2 else u).millOut j0 m g outs b
        | _ =>
          let h := (elements m.inFmt m.inExp (ins.getD 0 []) (x.nl * m.nant)).map Prod.fst
          if bad then
            let y := u.openBytes (m.nant * x.nl * elemSize m.outFmt)
            y.2.millOut j0 m g [(m.out + x.dst, y.1)] open_
          else
            let r := Config.millDl m.colnorm m.nant x.nl h (flush32 x.param)
            let b := outBlock m.outFmt m.outExp ((List.range (m.nant * x.nl)).map (fun i => (r.1.getD i (0, 0), false)))
            u.millOut (singNote j0 g r.2.1 r.2.2) m g [(m.out + x.dst, b.bytes)] b

def millLast (j : WsJob) : Bool :=
  match parseMill j.words with
  | some m => decide (m.groups ≤ j.done)
  | none => true

/-! ## Staging, ends and records (R256 to R262, R276, R288) -/

/-- A Wheel (1) or Mill (2) engine stages a job. -/
def State.stageWm (s : State) (w e slot : Nat) (d : ItemDesc) : State :=
  let addr := d.args.getD 0 0 * 256
  let t := { s with ws := { s.ws with staged := s.ws.staged + 1 } }
  let base : WsJob := { slot := slot, addr := addr, seq := t.ws.staged }
  let put := fun (u : State) (j : WsJob) => u.setJobs w e (u.jobs w e ++ [j])
  match t.readJob w addr with
  | (.error c, u) => put u (base.stop .aborted c)
  | (.ok ws, u) =>
    let j := { base with words := ws }
    let fin := fun (v : State) (k : WsJob) => if v.jobLate k then put v (k.stop .lapsed 0) else put v k
    if w = 1 then
      let c := u.wheelCheck addr ws
      if c ≠ 0 then put u (j.stop .aborted c) else fin u j
    else match u.millCheck addr ws with
      | (.error c, v) => put v (j.stop .aborted c)
      | (.ok tab, v) => fin v { j with table := tab }

def exp6Bits (x : Int) : Nat := trunc 6 x

/-- The words of a result record of the Wheel (1) or the Mill (2). -/
def wmRecord (w e : Nat) (j : WsJob) (s : State) : List Nat × List Bool :=
  let w0 := itemEndCode j.outcome * 2 ^ 28 + (if j.abortLate then 2 ^ 27 else 0) + (if j.sat then 2 ^ 26 else 0) +
    (if j.nonfinite then 2 ^ 25 else 0) + j.error * 2 ^ 20 + (if w = 2 ∧ j.singular then 2 ^ 19 else 0) + e * 2 ^ 16 + j.wb
  let ex := match j.exps with
    | some (mx, mn) => exp6Bits mx * 2 ^ 24 + exp6Bits mn * 2 ^ 16
    | none => 0
  let pk := j.peak.getD (0, 0)
  ([w0, s.tick, j.satCount, ex, if w = 2 then j.firstSing * 2 ^ 16 + j.singCount else pk.1, if w = 2 then 0 else pk.2, 0, 0],
   [false, false, decide (w = 1) && j.peakMark, false])

/-- Work the running job of a Wheel or Mill engine if its OP is `op`. -/
def State.wmWork (s : State) (w op e n : Nat) : Outc :=
  match s.job w e 0 with
  | some j =>
    if nbits (wword j.words 0) 28 4 = op then
      .next (if w = 1 then s.workUnits 1 e State.wheelUnit wheelLast n else s.workUnits 2 e State.millUnit millLast n)
    else .next s
  | none => .next s

def noExtra : State → Nat → Nat → WsJob → WsJob × State := fun s _ _ j => (j, s)
def wmOf (mill : Bool) : Nat := if mill then 2 else 1

/-- WHEEL_FWD (R271). -/
def execWheelFwd (e : Fin 16) (n : Nat) (s : State) : Outc := s.wmWork 1 1 e.val n
/-- WHEEL_INV (R271). -/
def execWheelInv (e : Fin 16) (n : Nat) (s : State) : Outc := s.wmWork 1 2 e.val n
/-- WHEEL_CORR (R271, R272). -/
def execWheelCorr (e : Fin 16) (n : Nat) (s : State) : Outc := s.wmWork 1 3 e.val n
/-- UL_WEIGHTS (R281). -/
def execUlWeights (e : Fin 8) (n : Nat) (s : State) : Outc := s.wmWork 2 1 e.val n
/-- UL_DETECT (R282). -/
def execUlDetect (e : Fin 8) (n : Nat) (s : State) : Outc := s.wmWork 2 2 e.val n
/-- DL_WEIGHTS (R283). -/
def execDlWeights (e : Fin 8) (n : Nat) (s : State) : Outc := s.wmWork 2 3 e.val n

/-- WHEEL_MILL_CHECKPOINT_LAPSE (R259). -/
def execWheelMillCheckpointLapse (mill : Bool) (e : Fin 16) (staged : Bool) (s : State) : Outc :=
  .next (s.lapseJob (wmOf mill) e.val (if staged then 1 else 0) noExtra)

/-- WHEEL_MILL_JOB_END (R256, R289). -/
def execWheelMillJobEnd (mill : Bool) (e : Fin 16) (staged recordOk : Bool) (s : State) : Outc :=
  let w := wmOf mill
  let i := if staged then 1 else 0
  match s.job w e.val i with
  | none => .next s
  | some j =>
    if j.live then .next s
    else
      let t := (s.endJob w e.val i recordOk (wmRecord w e.val)).add (wsCounter w 0x21C) j.wb
      let u := if j.sat then t.inc (wsCounter w 0x218) else t
      .next (if mill then u.add (wsCounter 2 0x220) j.singCount else u)

/-- WHEEL_MILL_SWEEP (R260). -/
def execWheelMillSweep (mill : Bool) (group : Fin 64) (wtag : Fin 16) (s : State) : Outc :=
  if s.sweepReached group.val wtag.val then .next (s.sweepWs (wmOf mill) group.val wtag.val noExtra) else .next s

/-- WHEEL_MILL_ABORT (R261). -/
def execWheelMillAbort (slot : Fin 4096) (s : State) : Outc :=
  match s.item slot.val with
  | some i =>
    if s.reeve.wsAborts.contains slot.val ∧ (i.d.target = 2 ∨ i.d.target = 3) then .next (s.abortWs (i.d.target - 1) slot.val noExtra) else .next s
  | none => .next s

/-- WHEEL_MILL_BUS_ERROR (R262). -/
def execWheelMillBusError (mill : Bool) (e : Fin 16) (s : State) : Outc :=
  let w := wmOf mill
  match s.job w e.val 0 with
  | some j => if j.started && j.live then .next (s.setJob w e.val 0 (wmStop j)) else .next s
  | none => .next s

end Sys2Proof.Machine
end

