-- ==== Sys2Proof/Machine/Handover.lean ====
section
/-! DEFINITION. Machine/Handover.lean: workshop items between the Reeve and the workshops' engines (R208).
Choices of the model: log entries 36 (DEDUCED). -/

namespace Sys2Proof.Machine

/-! ## Hand-over by the Reeve (R208) -/

/-- STATE of the power domain of an engine (R603). -/
def engPwr (w e : Nat) : Fld := R.PWR_DOM_STATE (if w = 0 then 34 + e / 8 else 35 + w)

/-- The engine that takes an item: enabled, powered, not loading microcode (R591), named by UNIT_MASK, with a free place, holding the fewest jobs. -/
def State.engineFor (s : State) (w : Nat) (d : ItemDesc) : Option Nat :=
  let ok := fun e => nbit d.unitMask e && nbit (s.rd (engEn w)) e && decide ((s.jobs w e).length < 2) &&
    s.rd (engPwr w e) == 0 && s.rd (wsFld w (0x408 + 0x10 * e) 30 2 0) != 1
  (List.range (engCount w)).foldl (fun best e => if !ok e then best else match best with
    | none => some e
    | some b => if (s.jobs w e).length < (s.jobs w b).length then some e else best) none

/-- WORKSHOP_JOB_HANDOFF (R208, R225, R257): a deadline that has passed wins over the hand-over (R49); a consuming item
whose condition no longer holds returns to WAITING (R216). -/
def execWorkshopJobHandoff (w : Fin 3) (s : State) : Outc :=
  let n := w.val
  if !s.bit (wsEnable n) || !s.bit R.REEVE_CTRL_ENABLE then .next s
  else match s.topItem (fun _ i => decide (i.state = .ready ∧ i.d.target = n + 1) && (s.engineFor n i.d).isSome) with
    | none => .next s
    | some k =>
      match s.item k with
      | none => .next s
      | some i =>
        if s.late i then .next (s.lapseIfPassed k)
        else if i.d.evWait ∧ i.d.evConsume ∧ !s.evMet i.d then .next (s.setItem k (some { i with state := .waiting }))
        else
          let e := (s.engineFor n i.d).getD 0
          let t := if i.d.evWait ∧ i.d.evConsume then s.setFlags i.d.evGroup (s.flags i.d.evGroup &&& ~~~i.d.evMask) else s
          let u := (t.setItem k (some { i with state := .running, place := some (.engine n e) })).tapEvent 1 k
          .next (if n = 0 then u.stageKiln e k i.d else u.stageWm n e k i.d)

/-- WORKSHOP_END_STATUS (R208, R210, R218): the item ends with the status that the workshop returns. -/
def execWorkshopEndStatus (n : Nat) (s : State) : Outc :=
  match s.reeve.wsEnds[n]? with
  | none => .next s
  | some x =>
    let t := { s with reeve := { s.reeve with wsEnds := s.reeve.wsEnds.eraseIdx n, wsAborts := s.reeve.wsAborts.filter (fun k => k != x.slot) } }
    match t.item x.slot with
    | none => .next t
    | some i =>
      let u := t.setItem x.slot (some { i with abortLate := x.abortLate })
      let v := u.newArrival.conclude x.slot x.status (decide (x.status = .ok) && s.late i)
      .next ((v.release x.slot).settleAll)

end Sys2Proof.Machine
end

