-- ==== Sys2Proof/Machine/RegAccess.lean ====
section
/-! DEFINITION. Machine/RegAccess.lean: how any master reads a register (R6, R214, R502, R632 to R638). Writes stand in
Machine/Register.lean, after the blocks whose meanings they name.
Choices of the model: log entries 6 (DEDUCED), 69 (DESIGN CHOICE). -/

namespace Sys2Proof.Machine

/-- The registers of table entry `d` are those of field `f` (an accessor at index 0). -/
def RegDef.is (d : RegDef) (f : Fld) : Bool := d.base == f.addr

/-- The write-only data windows COPPICE_CFG_DATA and HEARTH_RCV_DATA (R527, R575). -/
def isStreamWindow (a : Nat) : Bool :=
  (decide (0x51010000 ≤ a) && decide (a < 0x51020000)) || (decide (0x40040000 ≤ a) && decide (a < 0x40080000))

/-- The data windows that are read: SIEVE_FRAC_ROM and the frame data of COPPICE_READBACK (R635). -/
def isReadWindow (a : Nat) : Bool :=
  (decide (0x4E001000 ≤ a) && decide (a < 0x4E001400)) || (decide (0x51002400 ≤ a) && decide (a < 0x51002800))

/-- The register at a bus address, if one is there (R632, R633). -/
def regAt (a : Nat) : Option RegDef := R.all.find? (fun d => d.hasAddr (busAddr a))

/-- An address of the device register space or of a hamlet register block. -/
def isRegAddr (a : Nat) : Bool :=
  (decide (0x40000000 ≤ a) && decide (a < 0x80000000)) ||
    (decide (0x10000000 ≤ a) && decide (a < 0x20000000) && decide (0xF00000 ≤ a % 0x01000000))

/-- The NI that serves the register block of `a`. -/
def regNi (a : Nat) : Option Nat :=
  if a < 0x40000000 then some (hamletNi ((a - 0x10000000) / 0x01000000)) else blockNi ((a - 0x40000000) / 0x01000000)

/-- The registers of a recovery boot, which answer in the Crier state only (R575). -/
def isRecovery (a : Nat) : Bool := (decide (0x40040000 ≤ a) && decide (a < 0x40080000)) || a == R.HEARTH_RCV_CTRL_KEY.addr

/-- Why a register request gets no further than its block: a reserved block, a CLOSED or DEAD port, no such register, a
recovery register outside the Crier state (R575, R630, R636, R638). -/
def State.regRefuse (s : State) (a : Nat) : Option Answer :=
  match regNi a with
  | none => some ⟨.deadTarget, 3, []⟩
  | some n =>
    let st := s.portSt (n / 4) (4 + n % 4)
    if st = 3 ∨ st = 4 then some ⟨.domainClosed, 4, []⟩
    else if st = 5 then some ⟨.deadTarget, 2, []⟩
    else if (regAt a).isNone && !isStreamWindow a then some ⟨.aborted, 6, []⟩
    else if isRecovery a && !s.recoveryOpen then some ⟨.aborted, 7, []⟩ else none

/-- What a read of a field returns. -/
def State.readField (s : State) (a : Nat) (f : FieldDef) : Nat :=
  if f.acc = .wo ∨ f.acc = .to then 0 else s.rd (f.at (busAddr a))

/-- Word `t` of phase `f` in SIEVE_FRAC_ROM: tap 2t + 1 above tap 2t. -/
def fracWord (f t : Nat) : Nat := (fracCoef f (2 * t + 1) % 65536).toNat * 65536 + (fracCoef f (2 * t) % 65536).toNat

/-- The value of the register at `a`, as a read returns it; TALLY_DOMAIN_HELD shows its domain as it now is (R406). -/
def State.regVal (s : State) (a : Nat) : Nat :=
  if busAddr a = R.STEEPLE_NOW_TICK.addr then s.tick
  else if (R.COPPICE_READBACK_DATA 0).addr ≤ a ∧ a < (R.COPPICE_READBACK_DATA 256).addr then s.readbackWord ((a - (R.COPPICE_READBACK_DATA 0).addr) / 4)
  else if (R.CRIER_RECORD 0).addr ≤ a ∧ a < (R.CRIER_RECORD 12).addr then s.crierWord ((a - (R.CRIER_RECORD 0).addr) / 4)
  else if (R.SIEVE_FRAC_ROM_TAPS 0 0).addr ≤ a ∧ a < (R.SIEVE_FRAC_ROM_TAPS 64 0).addr then
    fracWord ((a - (R.SIEVE_FRAC_ROM_TAPS 0 0).addr) / 16) ((a - (R.SIEVE_FRAC_ROM_TAPS 0 0).addr) % 16 / 4)
  else match regAt a with
    | some d =>
      let t := if d.is (R.TALLY_DOMAIN_HELD_HELD 0) then s.showDomain ((busAddr a - d.base) / 4) else s
      d.fields.foldl (fun n f => n + t.readField a f * 2 ^ f.lo) 0
    | none => 0

/-- Clear the RC fields of the register at `a`, and what a read of a Market port clears beside them (R6, R489, R494). -/
def State.clearRc (s : State) (a : Nat) : State :=
  match regAt a with
  | some d =>
    let t := (d.fields.filter (fun f => f.acc == .rc)).foldl (fun t f => t.wr (f.at (busAddr a)) 0) s
    let p := (busAddr a - d.base) / 0x100
    if d.is (R.MARKET_PORT_STATUS_STATE 0) then t.wr (R.MARKET_PORT_STATUS_TXQ_FULL p) 0
    else if d.is (R.MARKET_TS_CAP 0 0) ∧ (busAddr a - d.base) % 0x100 = 12 then t.wr (R.MARKET_PTP_CFG_TS_OVERFLOW p) 0
    else t
  | none => s

/-- The value a take-once register gives to a read that covers it whole; none where the register is not take-once. -/
def State.takeOnce (s : State) (a : Nat) : Option Outc :=
  let b := busAddr a
  match regAt a with
  | none => none
  | some d =>
    let i := fun n => (indexOf d.dims (b - d.base)).getD n 0
    if d.is (R.REEVE_SUBMIT_RESULT_VALID 0) then some (execReeveSubmitResultTake (Fin.ofNat 16 (i 0)) true s)
    else if d.is (R.REEVE_REPORT_TAKE_VALID 0) then some (execReeveReportTake (Fin.ofNat 64 (i 0)) true s)
    else if d.is (R.GRANARY_POOL_TAKE_TOKEN 0) then some (execGranaryPoolTake (Fin.ofNat 128 (i 0)) s)
    else if d.is (R.CARTER_CH_RESULT_VALID 0) then some (execCarterResultTake (Fin.ofNat 192 (i 0)) true s)
    else if d.is (R.HCARTER_CH_RESULT_VALID 0 0) then some (execCarterResultTake (Fin.ofNat 192 (64 + 8 * i 0 + i 1)) true s)
    else none

/-- A read that covers one register exactly: its value, with its side effects unless `quiet` (R6, R625). -/
def State.regReadOne (s : State) (a : Nat) (quiet : Bool) : Nat × State :=
  if quiet then (s.regVal a, s)
  else match s.takeOnce a with
    | some (.next t) => ((t.ans.words.headD default).data.toNat, t)
    | _ => (s.regVal a, s.clearRc a)

def regBytes (a : Nat) : Nat := match regAt a with | some d => d.bytes | none => 4

/-- The 4-byte part of the register that covers byte address `a`, as a partial read returns it. -/
def State.regPart (s : State) (a : Nat) : Nat :=
  let w := a / 4 * 4
  if (regAt w).isSome then s.regVal w % 2 ^ 32
  else if (regAt (w / 8 * 8)).isSome ∧ regBytes (w / 8 * 8) = 8 ∧ w % 8 = 4 then s.regVal (w / 8 * 8) / 2 ^ 32 else 0

/-- Byte address `a` lies in a register. -/
def inReg (a : Nat) : Bool := (regAt (a / 4 * 4)).isSome || ((regAt (a / 8 * 8)).isSome && regBytes (a / 8 * 8) == 8)

/-- A read of `n` bytes from register address `a` (R635): exactly one register; two 32-bit registers, the lower first; part
of a register, without side effect; or refused. -/
def State.regRead (s : State) (a n : Nat) (quiet : Bool) : State :=
  let say := fun (t : State) (v : Nat) => t.reply ⟨.ok, 0, [⟨BitVec.ofNat 64 v, false⟩]⟩
  match s.regRefuse (if (regAt a).isSome then a else if inReg a then (if (regAt (a / 4 * 4)).isSome then a / 4 * 4 else a / 8 * 8) else a) with
  | some r => s.reply r
  | none =>
    if isStreamWindow a then say s 0
    else if a / 8 ≠ (a + n - 1) / 8 ∧ a / 64 = (a + n - 1) / 64 ∧ isReadWindow a ∧ isReadWindow (a + n - 1) then
      s.reply ⟨.ok, 0, (List.range ((a + n - 1) / 8 - a / 8 + 1)).map (fun i =>
        ⟨pair32 (s.regVal (a / 8 * 8 + 8 * i)) (s.regVal (a / 8 * 8 + 8 * i + 4)), false⟩)⟩
    else if a / 8 ≠ (a + n - 1) / 8 ∨ n = 0 then s.refusedAns
    else if (regAt a).isSome ∧ n = regBytes a then
      let x := s.regReadOne a quiet
      say x.2 x.1
    else if n = 8 ∧ a % 8 = 0 ∧ (regAt a).isSome ∧ regBytes a = 4 then
      match s.regRefuse (a + 4) with
      | some r => s.reply r
      | none =>
        let x := s.regReadOne a quiet
        let y := x.2.regReadOne (a + 4) quiet
        say y.2 (x.1 % 2 ^ 32 + y.1 * 2 ^ 32)
    else
      let v := s.regPart a + (if a % 8 < 4 ∧ 4 < a % 4 + n then s.regPart (a / 8 * 8 + 4) * 2 ^ 32 else 0)
      say s (v / 2 ^ (8 * (a % 4)) % 2 ^ (8 * n))

end Sys2Proof.Machine
end

