-- ==== Sys2Proof/Machine/Host.lean ====
section
/-! DEFINITION. Machine/Host.lean: the PCIe host interface but for requests that reach the device's registers, which stand
in Machine/HostBus.lean (chapter 18).
Choices of the model: log entries 57 (DESIGN CHOICE), 58 (DESIGN CHOICE). -/

namespace Sys2Proof.Machine

def hostMid : Mid := 0xC0
def State.setHost (s : State) (h : HostIf) : State := { s with host := h }
def State.linkUp (s : State) : Bool := s.bit R.HOST_STATUS_LINK_UP
/-- BOOT of HOST_STATUS: 0 RETRY, 1 READY, 2 CRIER. -/
def State.hostBoot (s : State) : Nat := s.rd R.HOST_STATUS_BOOT
/-- Bus Master Enable. -/
def State.busMaster (s : State) (fn : Nat) : Bool := s.host.master.contains fn
/-- STATE of PF2 VF v: 0 DISABLED, 1 RETRY, 2 PRESENT, 3 ABSENT. -/
def State.vfSt (s : State) (v : Nat) : Nat := s.rd (R.HOST_PF2_VF_STOOLS_STATE v)

/-! ## Link and configuration (R498, R499, R510, R511) -/

/-- PCIE_LINK_UP. -/
def execPcieLinkUp (speed : Fin 8) (width : Fin 32) (s : State) : Outc :=
  .next (((s.wr R.HOST_STATUS_LINK_UP 1).wr R.HOST_STATUS_SPEED speed.val).wr R.HOST_STATUS_WIDTH width.val)

/-- PCIE_LINK_DOWN. -/
def execPcieLinkDown (s : State) : Outc :=
  .next (((s.wr R.HOST_STATUS_LINK_UP 0).wr R.HOST_STATUS_SPEED 0).wr R.HOST_STATUS_WIDTH 0)

/-- How a function answers a configuration request now. -/
def State.configAnswer (s : State) (fn : Nat) : CplStatus :=
  if s.hostBoot = 0 then .crs
  else if fn = 0 then .sc
  else if s.hostBoot = 2 then .ur
  else if fn = 1 ∨ fn = 2 then .sc
  else if 0x10 ≤ fn ∧ fn < 0x50 then (if s.host.vf1 then .sc else .ur)
  else if 0x50 ≤ fn ∧ fn < 0x60 then
    (if s.vfSt (fn - 0x50) = 1 then .crs else if s.vfSt (fn - 0x50) = 2 then .sc else .ur)
  else .ur

/-- HOST_CONFIG_REQUEST. -/
def execHostConfigRequest (fn : Fin 256) (r : ConfigReq) (s : State) : Outc :=
  let fn := fn.val
  let st := s.configAnswer fn
  let t := s.send (.cpl fn st [] false)
  if st ≠ .sc then .next t
  else match r with
    | .other => .next t
    | .busMaster on =>
      let rest := t.host.master.filter (· != fn)
      if on then .next (t.setHost { t.host with master := fn :: rest, stopped := t.host.stopped.filter (· != fn) })
      else .next (t.setHost { t.host with master := rest })
    | .vfEnable on => .next (if fn = 1 ∧ on then t.setHost { t.host with vf1 := true } else t)

/-- The function stops: its doorbells, head writes and queues, and its outbound regions, until Bus Master Enable is set
again (R511). -/
def State.stopFn (s : State) (fn : Nat) : State :=
  s.setHost { s.host with master := s.host.master.filter (· != fn), stopped := fn :: s.host.stopped.filter (· != fn) }

/-- FUNCTION_LEVEL_RESET (R510, R511). -/
def execFunctionLevelReset (fn : Fin 256) (vfs : Bool) (s : State) : Outc :=
  let fn := fn.val
  if !vfs then .next (s.stopFn fn)
  else if fn = 1 then .next (((List.range 64).foldl (fun t v => t.stopFn (0x10 + v)) s).setHost
    { ((List.range 64).foldl (fun t v => t.stopFn (0x10 + v)) s).host with vf1 := false })
  else if fn = 2 then
    let t := (List.range 16).foldl (fun t v => (t.stopFn (0x50 + v)).wr (R.HOST_PF2_VF_STOOLS_STATE v) 0) s
    .next (t.setHost { t.host with vf2 := false })
  else .next s

/-- A stool holds a personality and no load of it is running (R510): LOADED, QUIESCED or draining toward them. -/
def State.stoolLoaded (s : State) (k : Nat) : Bool := decide (2 ≤ s.rd (R.COPPICE_STOOL_STATUS_STATE k)) && decide (s.rd (R.COPPICE_STOOL_STATUS_STATE k) ≤ 4)

def State.vfMask (s : State) (v : Nat) : List Nat := (List.range 16).filter (nbit (s.rd (R.HOST_PF2_VF_STOOLS_MASK v)))
def State.vfLoaded (s : State) (v : Nat) : Bool := (s.vfMask v).all s.stoolLoaded

/-- PF2_VF_ENABLE: every VF goes to RETRY, or to ABSENT with an empty mask (R510). -/
def execPf2VfEnable (s : State) : Outc :=
  if s.hostBoot ≠ 1 ∨ s.host.vf2 then .next s
  else
    let t := (List.range 16).foldl (fun t v => t.wr (R.HOST_PF2_VF_STOOLS_STATE v) (if s.vfMask v = [] then 3 else 1)) s
    .next (t.setHost { t.host with vf2 := true, vfAt := s.stp.now })

/-- The end of the window of PF2 (R510). -/
def State.vfEnd (s : State) : Nat := s.host.vfAt + min 1000 (max 1 (s.rd R.HOST_PF2_WINDOW_WINDOW_MS)) * 1000000 * 65536

/-- PF2_VF_PRESENT (R510). -/
def execPf2VfPresent (v : Fin 16) (s : State) : Outc :=
  if s.vfSt v.val = 1 ∧ s.vfLoaded v.val then .next (s.wr (R.HOST_PF2_VF_STOOLS_STATE v.val) 2) else .next s

/-- PF2_WINDOW_EXPIRY: a load completion in the same cycle is decided first (R510). -/
def execPf2WindowExpiry (v : Fin 16) (s : State) : Outc :=
  if s.vfSt v.val = 1 ∧ s.vfEnd ≤ s.stp.now then
    .next (s.wr (R.HOST_PF2_VF_STOOLS_STATE v.val) (if s.vfLoaded v.val ∧ s.stp.now / 262144 = s.vfEnd / 262144 then 2 else 3))
  else .next s

/-- PERST_ASSERT: the host interface goes back to its reset values; BOOT shows the boot, which goes on (R564). -/
def execPerstAssert (s : State) : Outc :=
  let b := s.hostBoot
  .next (State.wr { s with regs := s.regs.clearRange 0x43000000 0x44000000, host := {} } R.HOST_STATUS_BOOT b)

/-! ## Settings (R503 to R505) -/

/-- HOST_DB_BIND_WRITE: EN stays 0 for a register of the Hearth, the Strongroom or the host interface. -/
def execHostDbBindWrite (fn : Fin 128) (d : Fin 16) (v : Word) (s : State) : Outc :=
  let block := bitsOf v 24 6
  let t := s.wrWord v [R.HOST_DB_BIND_EN fn.val d.val, R.HOST_DB_BIND_OFFSET fn.val d.val]
  .next (if block = 0 ∨ block = 2 ∨ block = 3 then t.wr (R.HOST_DB_BIND_EN fn.val d.val) 0 else t).ack

/-- The window [a, a + 64 MiB) lies in the Granary or in the Cellar. -/
def windowOk (a : Nat) : Bool := decide (a + 0x4000000 ≤ granaryEnd) || (decide (cellarBase ≤ a) && decide (a + 0x4000000 ≤ cellarEnd))

/-- HOST_FN_WIN_WRITE. -/
def execHostFnWinWrite (fn : Fin 128) (v : Word) (s : State) : Outc :=
  let t := s.wrWord v [R.HOST_FN_WIN_EN fn.val, R.HOST_FN_WIN_BASE fn.val]
  .next (if windowOk (bitsOf v 0 20 * 2 ^ 20) then t else t.wr (R.HOST_FN_WIN_EN fn.val) 0).ack

/-- HOST_OB_MAP_WRITE: for requests that reach the host interface after it. -/
def execHostObMapWrite (r : Fin 64) (hi : Bool) (v : Word) (s : State) : Outc :=
  if hi then .next (s.wr (R.HOST_OB_MAP_HI_ADDR r.val) v.toNat).ack
  else .next (s.wrWord v [R.HOST_OB_MAP_LO_EN r.val, R.HOST_OB_MAP_LO_NS r.val, R.HOST_OB_MAP_LO_FN r.val, R.HOST_OB_MAP_LO_ADDR_31_30 r.val]).ack

/-! ## Device requests to the host (R505, R506) -/

def outboundBase : Nat := 0x1000000000

/-- OUTBOUND_REQUEST. -/
def execOutboundRequest (addr : Nat) (q : OutboundReq) (s : State) : Outc :=
  let r := (addr - outboundBase) / 0x40000000
  let fn := s.rd (R.HOST_OB_MAP_LO_FN r)
  if addr < outboundBase ∨ 64 ≤ r then .next (s.reply ⟨.deadTarget, 3, []⟩)
  else if ¬ s.bit (R.HOST_OB_MAP_LO_EN r) ∨ !s.busMaster fn ∨ s.host.stopped.contains fn ∨ !s.linkUp then .next s.refusedAns
  else
    let a := s.rd (R.HOST_OB_MAP_HI_ADDR r) * 2 ^ 32 + s.rd (R.HOST_OB_MAP_LO_ADDR_31_30 r) * 2 ^ 30 + (addr - outboundBase) % 0x40000000
    match q with
    | .write ws =>
      let t := s.send (.tlp ws a fn (anyMark ws))
      .next (if anyMark ws then t.reply ⟨.poisoned, 9, []⟩ else t.ack)
    | .read n => .next ((s.setHost { s.host with reads := s.host.reads ++ [⟨fn, n, s.stp.now, false⟩] }).send (.hostRead fn a n))

def State.dropRead (s : State) (i : Nat) : State := s.setHost { s.host with reads := s.host.reads.eraseIdx i }

/-- OUTBOUND_COMPLETION. -/
def execOutboundCompletion (i : Nat) (c : HostCpl) (s : State) : Outc :=
  match s.host.reads[i]? with
  | none => .next s
  | some x =>
    if x.late then .next ((s.dropRead i).inc R.HOST_LATE_CPL)
    else match c with
      | .data ws ep => .next ((s.dropRead i).reply ⟨.ok, 0, ws.map (fun w => ⟨w, ep⟩)⟩)
      | .failed => .next ((s.dropRead i).reply ⟨.aborted, 8, []⟩)

/-- OUTBOUND_TIMEOUT: 3.5 µs without a completion. -/
def execOutboundTimeout (i : Nat) (s : State) : Outc :=
  match s.host.reads[i]? with
  | none => .next s
  | some x =>
    if x.late ∨ s.stp.now < x.sent + 3500 * 65536 then .next s
    else .next (((s.setHost { s.host with reads := s.host.reads.set i { x with late := true } }).inc R.HOST_OB_TIMEOUTS).reply ⟨.aborted, 8, []⟩)

/-- REQUESTER_COMPLETION_TIMEOUT: the tag of an answered read is free again. -/
def execRequesterCompletionTimeout (i : Nat) (s : State) : Outc :=
  match s.host.reads[i]? with
  | none => .next s
  | some x => .next (if x.late then s.dropRead i else s)

/-! ## Interrupts and host completion queues (R507, R508) -/

def State.dropHostIrq (s : State) (i : Nat) : State := { s with hostIrq := s.hostIrq.filter (· != i) }

/-- HOST_INTERRUPT_SEND. -/
def execHostInterruptSend (src : Fin 512) (s : State) : Outc :=
  let i := src.val
  if s.hostIrq.contains i && s.bit (R.HOST_IRQ_ROUTE_EN i) && !s.bit (R.HOST_IRQ_ROUTE_VIA_HCQ i) && s.linkUp then
    .next ((s.dropHostIrq i).send (.msix (s.rd (R.HOST_IRQ_ROUTE_FN i)) (s.rd (R.HOST_IRQ_ROUTE_VECTOR i))))
  else .next s

/-- The oldest value of a source: KIND, SOURCE, the 64-bit value with its poison mark, and the state after its take. -/
def State.takeSource (s : State) (i : Nat) : Option (Nat × Nat × Nat × Bool × State) :=
  let taken := fun (o : Outc) => match o with | .next t => ((t.ans.words.headD default).data.toNat, t) | _ => (0, s)
  if i < 64 then
    if (s.reeve.queues.get i).unread = [] then none
    else
      let x := taken (execReeveReportTake (Fin.ofNat 64 i) true s)
      some (0, i, x.1, false, x.2)
  else if i < 128 then
    if (s.carter (i - 64)).placed.isNone then none
    else
      let x := taken (execCarterResultTake (Fin.ofNat 192 (i - 64)) true s)
      some (1, i - 64, x.1, false, x.2)
  else if 256 ≤ i ∧ i < 320 then
    let q := i - 256
    let cons := s.rd (R.MARKET_LQ_CONS q)
    if cons = s.rd (R.MARKET_LQ_PROD q) then none
    else
      let x := s.dmaRead hostMid (s.rd (R.MARKET_LQ_BASE_ADDR q) * 4 + cons % s.lqSize q * 4) 4
      let b := x.1.getD []
      some (2, q, (le32 1 (byteVals b)).headD 0, anyBad b, x.2.inc (R.MARKET_LQ_CONS q))
  else none

def State.hcqSize (s : State) (h : Nat) : Nat := 2 ^ s.rd (R.HOST_HCQ_CFG_SIZE_LOG2 h)
/-- Entries of queue `h` that the host has not freed. -/
def State.hcqHeld (s : State) (h : Nat) : Nat := (s.rd (R.HOST_HCQ_TAIL h) + 4294967296 - s.host.heads.get h) % 4294967296

/-- HCQ_FILL. -/
def execHcqFill (src : Fin 512) (lost : Bool) (s : State) : Outc :=
  let i := src.val
  let h := s.rd (R.HOST_IRQ_ROUTE_HCQ i)
  let fn := s.rd (R.HOST_HCQ_CFG_FN h)
  if !(s.bit (R.HOST_IRQ_ROUTE_EN i) && s.bit (R.HOST_IRQ_ROUTE_VIA_HCQ i) && s.bit (R.HOST_HCQ_CFG_EN h) && decide (s.hcqHeld h < s.hcqSize h) &&
      s.busMaster fn && !s.host.stopped.contains fn && s.linkUp) then .next s
  else match s.takeSource i with
    | none => .next s
    | some (kind, source, v, bad, t) =>
      if lost then .next ((t.dropHostIrq i).inc R.HOST_HCQ_LOST)
      else
        let tail := s.rd (R.HOST_HCQ_TAIL h)
        let phase := if tail / s.hcqSize h % 2 = 0 then 2 ^ 31 else 0
        let base := s.rd (R.HOST_HCQ_BASE_HI_ADDR h) * 2 ^ 32 + s.rd (R.HOST_HCQ_BASE_LO_ADDR h) * 64
        let ws : List PWord := [⟨pair32 (phase + kind * 2 ^ 28 + source) s.tick, bad⟩, ⟨BitVec.ofNat 64 v, bad⟩]
        .next ((((t.dropHostIrq i).send (.tlp ws (base + tail % s.hcqSize h * 16) fn bad)).inc (R.HOST_HCQ_TAIL h)).send (.msix fn (s.rd (R.HOST_HCQ_CFG_VECTOR h))))

/-- HCQ_HEAD_WRITE: from the queue's own function, and not past TAIL. -/
def execHcqHeadWrite (fn : Fin 256) (h : Fin 128) (v : Word) (s : State) : Outc :=
  let h := h.val
  let step := (v.toNat + 4294967296 - s.host.heads.get h) % 4294967296
  if s.rd (R.HOST_HCQ_CFG_FN h) ≠ fn.val ∨ s.hcqHeld h < step ∨ s.host.stopped.contains fn.val then .next (s.inc R.HOST_DB_UNBOUND)
  else .next (s.setHost { s.host with heads := s.host.heads.set h v.toNat })

end Sys2Proof.Machine
end

