-- ==== Sys2Proof/Machine/Plan.lean ====
section
/-! DEFINITION. Machine/Plan.lean: starting, stopping and swapping lock groups, and plans: arming, commit, withdrawal, the
slot sweep and its residue (R37 to R44, R50, R51).
Choices of the model: log entries 20 (DESIGN CHOICE), 21 (DEDUCED), 22 (DEDUCED), 23 (DEDUCED), 24 (DEDUCED). -/

namespace Sys2Proof.Machine

/-! ## LG_CTRL (R37 to R39) -/

def State.lgSt (s : State) (g : Nat) : Nat := s.rd (R.LG_STATUS_STATE g)

/-- The lead of LG_ACTION_TICK lies beyond the maximum (R37). -/
def State.actionFar (s : State) (g : Nat) : Bool :=
  let l := leadTicks s.tick (s.rd (R.LG_ACTION_TICK g))
  decide (maxLead < l) && decide (l < 2147483648)

/-- The action boundary of a START or STOP that is accepted now (R37, R28). -/
def State.actionBoundary (s : State) (g : Nat) : Int :=
  let least : Int := if s.bit (R.LG_CFG_PARISH g) then 1000000 else 100000
  s.frameAtOrAfter g (max (s.absTick (s.rd (R.LG_ACTION_TICK g)) * 4) (s.nowUp + least)) false

/-- The member must follow the parish source and does not (R31). -/
def State.offParish (s : State) : Bool :=
  s.bit R.EWL_PARISH_IN_PARISH && decide (s.rd R.EWL_PARISH_MEMBER ≠ 0) && decide (s.rd R.STEEPLE_STATUS_ACTIVE_SRC ≠ 4)

/-- START in IDLE (R34, R36, R37, R39). -/
def State.lgStart (s : State) (g : Nat) (hashDiffers : Bool) : State :=
  if !s.cfgOk g || !s.bankOk g 0 then s.wr (R.LG_STATUS_CFG_REFUSED g) 1
  else
    let bad := s.bit (R.LG_CFG_PARISH g) && (hashDiffers || s.offParish)
    let t := ((s.wr (R.LG_STATUS_ACTIVE_BANK g) 0).wr (R.LG_STATUS_CFG_REFUSED g) 0).wrB (R.LG_STATUS_MISMATCH g) bad
    if bad then t
    else (t.setGroup g { t.group g with action := .start, actionNs := s.actionBoundary g }).wr (R.LG_STATUS_STATE g) 1

/-- LG_START: a write of LG_CTRL with START and not STOP. -/
def execLgStart (group : Fin 64) (v : Word) (hashDiffers : Bool) (s : State) : Outc :=
  let g := group.val
  if !bitOf v 0 || bitOf v 1 then .next s.ack
  else if s.actionFar g then .next (s.wr (R.LG_STATUS_CFG_REFUSED g) 1).ack
  else if s.lgSt g = 0 then .next (s.lgStart g hashDiffers).ack
  else .next s.ack

/-! ## Discarding plans (R37, R43) -/

/-- LAST_OUTCOME and LAST_SEQ (R41). -/
def State.planOutcome (s : State) (g outcome seq : Nat) : State :=
  (s.wr (R.LG_PLAN_STATUS_LAST_OUTCOME g) outcome).wr (R.LG_PLAN_STATUS_LAST_SEQ g) seq

def State.setArmed (s : State) (g : Nat) (l : List ArmedPlan) : State :=
  (s.setGroup g { s.group g with armed := l }).wr (R.LG_PLAN_STATUS_ARMED_COUNT g) l.length

/-- A plan with all its shadow parts is discarded with outcome WITHDRAWN; its Reeve slots return (R43, R186). -/
def State.withdrawn (s : State) (g : Nat) (p : ArmedPlan) : State :=
  let t := (s.setArmed g ((s.group g).armed.filter (fun q => q.id != p.id))).dropBatch p.id
  let u := if p.part3 = [] then t else t.wr R.COMMONS_STATUS_ARMED3 0
  u.planOutcome g 4 p.seq

/-- Every armed plan of the group is WITHDRAWN, in arming order. -/
def State.withdrawAll (s : State) (g : Nat) : State := (s.group g).armed.foldl (fun t p => t.withdrawn g p) s

/-- LG_STOP: a write of LG_CTRL with STOP and not START (R37). -/
def execLgStop (group : Fin 64) (v : Word) (s : State) : Outc :=
  let g := group.val
  if !bitOf v 1 || bitOf v 0 then .next s.ack
  else if s.actionFar g then .next (s.wr (R.LG_STATUS_CFG_REFUSED g) 1).ack
  else if s.lgSt g = 2 then
    .next ((s.setGroup g { s.group g with action := .stop, actionNs := s.actionBoundary g }).wr (R.LG_STATUS_STATE g) 3).ack
  else if s.lgSt g = 1 then
    .next (((s.setGroup g { s.group g with action := .none }).wr (R.LG_STATUS_STATE g) 0).withdrawAll g).ack
  else .next s.ack

/-- LG_START_STOP_BOTH: ignored in full (R37). -/
def execLgStartStopBoth (_group : Fin 64) (_v : Word) (s : State) : Outc := .next s.ack

/-- LG_TDD_SWAP: a write of LG_CTRL with TDD_SWAP (R38). -/
def execLgTddSwap (group : Fin 64) (v : Word) (s : State) : Outc :=
  let g := group.val
  if !bitOf v 2 || (bitOf v 0 && bitOf v 1) || (s.lgSt g != 1 && s.lgSt g != 2) || s.bit (R.LG_STATUS_TDD_SWAP_PENDING g) then .next s.ack
  else if s.bankOk g (s.idleBank g) then
    .next ((s.setGroup g { s.group g with swapNs := s.frameAtOrAfter g (s.nowUp + 50000) true }).wr (R.LG_STATUS_TDD_SWAP_PENDING g) 1).ack
  else .next (s.wr (R.LG_STATUS_CFG_REFUSED g) 1).ack

/-- LG_ACTION_BOUNDARY_STOP: the group ceases to advance, and its pending plans are WITHDRAWN (R37). -/
def execLgActionBoundaryStop (group : Fin 64) (s : State) : Outc :=
  let g := group.val
  let x := s.group g
  if s.lgSt g = 3 ∧ x.action = .stop ∧ s.reached x.actionNs ∧ s.earlierDone 3 x.actionNs then
    let n := (x.actionNs - s.groupBase g) / s.slotNs g - 1
    .next (((s.setGroup g { x with action := .none, cur := n, ceased := true }).showSlot g n).withdrawAll g)
  else .next s

/-! ## Arming (R40 to R42) -/

/-- The header of a plan: its 16 words (R40). -/
def planPart (w : List Nat) (i : Nat) : Nat × Nat := (nbits (w.getD (4 + 2 * i) 0) 6 20 * 64, nbits (w.getD (5 + 2 * i) 0) 0 16)

/-- FORMAT, LOCK_GROUP and the bits written as zero (R40). -/
def headerBad (g : Nat) (w : List Nat) : Bool :=
  let x := fun i => w.getD i 0
  x 0 / 65536 != 1 || nbits (x 0) 6 10 != 0 || nbits (x 0) 0 6 != g || nbits (x 2) 26 6 != 0 || nbits (x 2) 10 6 != 0 ||
    (List.range 6).any (fun i => nbits (x (4 + 2 * i)) 26 6 != 0 || nbits (x (4 + 2 * i)) 0 6 != 0 || nbits (x (5 + 2 * i)) 16 16 != 0)

/-- The slot that SFN and SLOT name after commit slot `nc`, if it is in reach (R41). -/
def State.namedSlot (s : State) (g : Nat) (nc : Int) (sfn slot : Nat) : Option Int :=
  let spf := (s.slotsPerFrame g : Int)
  if spf ≤ (slot : Int) then none
  else
    let k := nc / spf
    let k1 := k + ((sfn : Int) - (s.sfnOf g k : Int)) % 1024
    let n0 := k1 * spf + (slot : Int)
    let n := if n0 ≤ nc then n0 + 1024 * spf else n0
    if n - nc ≤ 4 then some n else none

/-- What the header's instant and slot come to: a cause 1 to 7 of R41, or the commit instant and the slot. -/
def State.planTiming (s : State) (g commitTick sfn slot : Nat) : Except Nat (Int × Int) :=
  let lead := leadTicks s.tick commitTick
  let t := s.absTick commitTick * 4
  let x := s.group g
  if lead < 12500 ∨ 2147483648 ≤ lead then .error 1
  else if maxLead < lead then .error 2
  else if s.lgSt g = 0 ∨ s.lgSt g = 3 ∨ (s.lgSt g = 1 ∧ t + 4 ≤ x.actionNs) then .error 3
  else
    let nc := -((s.groupBase g - t) / s.slotNs g)
    if t + 4 ≤ s.slotStart g nc then .error 4
    else match s.namedSlot g nc sfn slot with
      | none => .error 4
      | some n =>
        if 4 ≤ x.armed.length then .error 5
        else if x.armed.any (fun p => decide (s.slotStart g nc ≤ p.commitNs)) then .error 6
        else if nbit (s.rd (R.LG_SWEEP_STATUS_RESIDUE_MASK g)) (slotTag n) then .error 7
        else .ok (s.slotStart g nc, n)

/-- REFUSED with its cause and part (R41). -/
def State.planRefused (s : State) (g cause part seq : Nat) : State :=
  ((((s.wr (R.LG_PLAN_STATUS_REFUSE_CAUSE g) cause).wr (R.LG_PLAN_STATUS_REFUSE_PART g) part).inc (R.LG_PLANS_REFUSED g)).planOutcome g 3 seq)

def partMid (i : Nat) : Mid :=
  match i with
  | 1 => 0xB7
  | 2 => 0xB0
  | 3 => 0xE1
  | 4 => 0xB6
  | _ => 0xE0

/-- Words of 4 bytes of an entry of parts 1 to 4. -/
def partSize (i : Nat) : Nat :=
  match i with
  | 1 => 8
  | 2 => 2
  | 3 => 4
  | _ => 1

/-- A part as it was read: its words, none where it lies beyond the Granary or its read failed, and whether a word carries
the poison mark. -/
structure PartRead where
  words : Option (List Word) := some []
  poison : Bool := false
deriving DecidableEq, Repr, Inhabited

/-- Read part `i` (1 to 4) (R40, R41). -/
def State.readPlanPart (s : State) (i : Nat) (e : Nat × Nat) : PartRead × State :=
  if e.2 = 0 then ({}, s)
  else
    let n := e.2 * partSize i
    if granaryEnd < e.1 + 4 * n then ({ words := none }, s)
    else match s.granaryRead (partMid i) e.1 ((n + 1) / 2) with
      | (none, t) => ({ words := none }, t)
      | (some ws, t) => ({ words := some ((List.range n).map (word32 ws)), poison := anyMark ws }, t)

/-- One swap of part 4 (R306). -/
structure SwapEntry where
  chan : Nat
  bank : Nat
  log2 : Nat
deriving DecidableEq, Repr, Inhabited

def swapOf (v : Word) : SwapEntry := ⟨bitsOf v 20 10, bitsOf v 16 1, bitsOf v 0 4⟩

/-- Part 4 is rejected (R306). -/
def State.part4Bad (s : State) (g : Nat) : List Word → List Nat → Bool
  | [], _ => false
  | v :: r, seen =>
    let e := swapOf v
    bitsOf v 30 2 != 0 || bitsOf v 17 3 != 0 || bitsOf v 4 12 != 0 || decide (e.log2 < 4 ∨ 12 < e.log2) ||
      decide (s.chanGroup e.chan ≠ g) || decide (s.chanSt e.chan = 0 ∨ s.chanSt e.chan = 3) || seen.contains e.chan ||
      s.part4Bad g r (e.chan :: seen)

/-- Part 0 as the Reeve judges it: its items, whether it is rejected, whether it holds a poisoned word (R186). -/
def State.readPart0 (s : State) (g commitTick sweepTick : Nat) (e : Nat × Nat) : (List ItemDesc × Bool × Bool) × State :=
  if e.2 = 0 then (([], false, false), s)
  else if granaryEnd < e.1 + 64 * e.2 then (([], true, false), s)
  else
    let poison := ((s.readBatch e.1 0 e.2).1).any (fun r => match r with | .error c => decide (c = 8) | .ok _ => false)
    match s.batchCheck g e.1 e.2 commitTick sweepTick with
    | (.accepted ds, t) => ((ds, false, poison), t)
    | (.rejected p, t) => (([], true, p || poison), t)

/-- The parts of a plan whose header passed: refuse for POISON, then for the first rejected part, else arm (R41). -/
def State.armParts (s : State) (g : Nat) (w : List Nat) (headPoison : Bool) (commitNs slot : Int) (bells : List BellEntry)
    (poison5 reject5 : Bool) : State :=
  let seq := w.getD 3 0
  let sweep := s.sweepNs g slot
  let sweepTick := tickOfNs sweep
  let p0 := s.readPart0 g (w.getD 1 0) sweepTick (planPart w 0)
  let p1 := p0.2.readPlanPart 1 (planPart w 1)
  let p2 := p1.2.readPlanPart 2 (planPart w 2)
  let p3 := p2.2.readPlanPart 3 (planPart w 3)
  let p4 := p3.2.readPlanPart 4 (planPart w 4)
  let t := p4.2
  let l1 := p1.1.words.getD []
  let l2 := p2.1.words.getD []
  let l3 := p3.1.words.getD []
  let l4 := p4.1.words.getD []
  let n1 := (planPart w 1).2
  let n3 := (planPart w 3).2
  let has5 : Bool := (planPart w 5).2 != 0
  let bad1 : Bool := p1.1.words.isNone || (n1 != 0 && (t.mktEntries sweepTick n1 (l1.map BitVec.toNat)).isNone)
  let bad2 : Bool := p2.1.words.isNone || part2Bad l2 []
  let fault3 := if n3 = 0 ∨ p3.1.words.isNone then none else t.part3Fault n3 (routesOf l3)
  let bad3 : Bool := p3.1.words.isNone || fault3.isSome
  let bad4 : Bool := p4.1.words.isNone || t.part4Bad g l4 []
  let u := match fault3 with
    | some (c, a, b) => t.rejectRoute c a b
    | none => t
  if headPoison || p0.1.2.2 || p1.1.poison || p2.1.poison || p3.1.poison || p4.1.poison || (has5 && poison5) then u.planRefused g 9 0 seq
  else match ([p0.1.2.1, bad1, bad2, bad3, bad4, has5 && reject5] : List Bool).findIdx? (fun b => b) with
    | some i => u.planRefused g 10 i seq
    | none =>
      let id := u.stp.nextPlan
      let wtag := slotTag slot
      let p : ArmedPlan := { id := id, seq := seq, commitNs := commitNs, slot := slot, wtag := wtag, sweepNs := sweep, part1 := l1,
                             part2 := l2, part3 := l3, part4 := l4, bells := if has5 then bells else [] }
      let a := (u.setStp { u.stp with nextPlan := id + 1 }).takeBatch g wtag id 0 p0.1.1
      let b := if l3 = [] then a else a.wr R.COMMONS_STATUS_ARMED3 1
      (b.setArmed g ((b.group g).armed ++ [p])).planOutcome g 1 seq

/-- A write to LG_PLAN_ARM. -/
def State.planArm (s : State) (g addr : Nat) (bells : List BellEntry) (poison5 reject5 : Bool) : State :=
  match s.granaryRead 0xE0 addr 8 with
  | (none, t) =>
    let x := t.fresh
    x.2.planRefused g 11 0 (Config.freeValue x.1)
  | (some ws, t) =>
    let w := (List.range 16).map (fun i => (word32 ws i).toNat)
    let seq := w.getD 3 0
    match t.planTiming g (w.getD 1 0) (nbits (w.getD 2 0) 16 10) (nbits (w.getD 2 0) 0 10) with
    | .error c => t.planRefused g c 0 seq
    | .ok (commitNs, slot) =>
      if headerBad g w then t.planRefused g 8 0 seq
      else t.armParts g w (anyMark ws) commitNs slot bells poison5 reject5

/-- PLAN_ARM. -/
def execPlanArm (group : Fin 64) (v : Word) (bells : List BellEntry) (poison5 reject5 : Bool) (s : State) : Outc :=
  .next (s.planArm group.val (bitsOf v 6 20 * 64) bells poison5 reject5).ack

/-! ## Commit and withdrawal (R10, R43, R187, R305, R380, R419, R467) -/

/-- A Bells schedule takes effect (R54). -/
def State.bellApply (s : State) (e : BellEntry) : State :=
  let b := e.bell.val
  let t := (((s.wr (R.BELL_START b) e.start.toNat).wr (R.BELL_START_FINE b) e.fine.val).wr (R.BELL_PERIOD b) e.period.toNat).wr
    (R.BELL_WIDTH b) e.width.val
  t.bellCfg b e.cfg

/-- A swap of part 4 arrives at the commit instant; one whose channel has stopped is ignored (R305, R306). -/
def State.planSwap (s : State) (commitNs : Int) (e : SwapEntry) : State :=
  if s.chanSt e.chan = 0 then s else s.sieveRequest e.chan e.bank e.log2 (commitNs * 65536)

/-- Every part of a plan takes effect. -/
def State.planParts (s : State) (g : Nat) (p : ArmedPlan) : State :=
  let a := s.commitBatch g p.wtag p.id (s.shadowItems p.id).length
  let b := a.mktCommit g p.slot p.wtag p.sweepNs
    ((takeWords (p.part1.length / 8) (p.part1.map BitVec.toNat)).filterMap (mktParse (tickOfNs p.sweepNs)))
  let c := b.commitLists g p.wtag p.sweepNs (listsOf p.part2)
  let d := if p.part3 = [] then c else (c.startEpoch (routesOf p.part3)).wr R.COMMONS_STATUS_ARMED3 0
  let e := (p.part4.map swapOf).foldl (fun t x => t.planSwap p.commitNs x) d
  p.bells.foldl State.bellApply e

/-- The window of a slot begins (R50). -/
def State.addWindow (s : State) (g : Nat) (p : ArmedPlan) : State :=
  let x := s.group g
  if x.windows.any (fun w => w.slot == p.slot) then s
  else s.setGroup g { x with windows := x.windows ++ [{ slot := p.slot, wtag := p.wtag, sweepNs := p.sweepNs }] }

/-- PLAN_COMMIT: the earliest armed plan of the group, at its commit instant. -/
def execPlanCommit (group : Fin 64) (s : State) : Outc :=
  let g := group.val
  match (s.group g).armed with
  | [] => .next s
  | p :: rest =>
    if s.reached p.commitNs && s.earlierDone 4 p.commitNs then
      .next ((((s.setArmed g rest).addWindow g p).planParts g p).inc (R.LG_PLANS_COMMITTED g) |>.planOutcome g 2 p.seq)
    else .next s

/-- PLAN_WITHDRAW (R43). -/
def execPlanWithdraw (group : Fin 64) (seq : Word) (s : State) : Outc :=
  let g := group.val
  match (s.group g).armed.find? (fun p => p.seq == seq.toNat) with
  | none => .next (s.wr (R.LG_PLAN_STATUS_WITHDRAW_MISS g) 1).ack
  | some p =>
    if (s.stp.now : Int) + 655360000 ≤ p.commitNs * 65536 then .next (s.withdrawn g p).ack
    else .next (s.wr (R.LG_PLAN_STATUS_WITHDRAW_LATE g) 1).ack

/-! ## The sweep and its residue (R50, R51) -/

/-- The Reeve's items of a window, armed plans' items apart. -/
def State.windowItems (s : State) (g w : Nat) : List Nat :=
  s.reeve.items.filterKeys (fun _ o => o.any (fun i => i.state != .shadow && i.window.any (fun x => x.1 == g && x.2.1 == w)))

/-- Items that the Reeve's sweep lapses or kills: the workshops sweep those that their engines hold. -/
def State.sweepable (s : State) (g w : Nat) : List Nat :=
  (s.windowItems g w).filter (fun k => (s.item k).any (fun i => i.outcome.isNone &&
    (i.state == .waiting || i.state == .ready || ((i.state == .running || i.state == .preempted) &&
      (match i.place with | some (.core _ _) => true | _ => false)))))

/-- SLOT_SWEEP. -/
def execSlotSweep (group : Fin 64) (wtag : Fin 16) (s : State) : Outc :=
  let g := group.val
  let x := s.group g
  match x.windows.find? (fun w => w.wtag == wtag.val && !w.swept) with
  | none => .next s
  | some w =>
    if s.reached w.sweepNs && s.earlierDone 2 w.sweepNs then
      let t := s.setGroup g { x with windows := x.windows.map (fun y => if y.slot = w.slot then { y with swept := true } else y) }
      .next ((t.add (R.LG_SWEEP_LAPSED g) (t.sweepable g wtag.val).length).reeveSweep g wtag.val)
    else .next s

/-- Everything that the blocks still hold of a window (R51). -/
def State.residue (s : State) (g w : Nat) : Nat :=
  (s.windowItems g w).length + s.commonsResidue g w + s.carterResidue g w + s.sieveHeld g w + s.marketHeld g w +
    s.ws.jobs.entries.foldl (fun n e => n + (e.2.filter (fun j => decide (s.jobWindow j = some (g, w)))).length) 0

/-- A tag is free again: the names of its window refer to nothing (R183). -/
def State.freeWindowTag (s : State) (g : Nat) (p : Nat → Bool) : State :=
  { s with reeve := { s.reeve with batches := s.reeve.batches.filter (fun b => !(b.1 == g && p b.2.1)) } }

/-- SWEEP_RESIDUE_REPORT: of the oldest swept window whose 4 µs have passed. -/
def execSweepResidueReport (group : Fin 64) (s : State) : Outc :=
  let g := group.val
  let x := s.group g
  match x.windows.find? (fun w => w.swept && s.reached (w.sweepNs + 4000)) with
  | none => .next s
  | some w =>
    let t := s.setGroup g { x with windows := x.windows.filter (fun y => y.slot != w.slot) }
    if s.residue g w.wtag = 0 then .next (t.freeWindowTag g (fun k => k == w.wtag))
    else
      let mask := t.rd (R.LG_SWEEP_STATUS_RESIDUE_MASK g)
      let u := if t.bit (R.LG_SWEEP_STATUS_RESIDUE g) then t else t.wr (R.LG_SWEEP_STATUS_RESIDUE_TAG g) w.wtag
      .next (((u.wr (R.LG_SWEEP_STATUS_RESIDUE g) 1).wr (R.LG_SWEEP_STATUS_RESIDUE_MASK g)
        (if nbit mask w.wtag then mask else mask + 2 ^ w.wtag)).irq .residue g)

/-- RESIDUE_CLEAR: clearing RESIDUE clears RESIDUE_MASK and frees its tags (R51). -/
def execResidueClear (group : Fin 64) (v : Word) (s : State) : Outc :=
  let g := group.val
  if (R.LG_SWEEP_STATUS_RESIDUE g).of v = 1 then
    let mask := s.rd (R.LG_SWEEP_STATUS_RESIDUE_MASK g)
    .next ((((s.wr (R.LG_SWEEP_STATUS_RESIDUE g) 0).wr (R.LG_SWEEP_STATUS_RESIDUE_MASK g) 0).wr (R.LG_SWEEP_STATUS_RESIDUE_TAG g) 0).freeWindowTag g (fun k => nbit mask k)).ack
  else .next s.ack

end Sys2Proof.Machine
end

