-- ==== Sys2Proof/Machine/Register.lean ====
section
/-! DEFINITION. Machine/Register.lean: how any master writes a register (R6, R634 to R637). A register with meanings of its
own takes them from its block; every other field stores, clears, sets or ignores by its access type.
Choices of the model: log entries 6 (DEDUCED), 69 (DESIGN CHOICE), 70 (DESIGN CHOICE). -/

namespace Sys2Proof.Machine

/-- Run meanings one after another while each answers a next state. -/
def chain : List (State → Outc) → State → Outc
  | [], s => .next s
  | f :: r, s => match f s with
    | .next t => chain r t
    | x => x

/-- Write one field by its access type (R6). -/
def State.writeField (s : State) (b : Nat) (v : Word) (f : FieldDef) : State :=
  let x := f.at b
  match f.acc with
  | .rw => s.wr x (x.of v)
  | .w1c => s.w1c v [x]
  | .w1s => s.wr x (Nat.lor (s.rd x) (x.of v))
  | .wl => if s.wlOpen then s.wr x (x.of v) else s
  | _ => s

/-- Store a write in the fields of register `d` at `b`. -/
def State.writeFields (s : State) (d : RegDef) (b : Nat) (v : Word) : State := d.fields.foldl (fun t f => t.writeField b v f) s

def plainly (f : State → State) : Option (State → Outc) := some (fun s => .next (f s))
def heldWhile (c : Bool) (f : State → State) : Option (State → Outc) := plainly (fun s => if c then s else f s)
def may (c : Bool) (f : State → Outc) : State → Outc := fun s => if c then f s else .next s

/-- The Steeple's registers (R30, R34, R37, R38, R41, R43, R51, R54, R57). -/
def writeSteeple (d : RegDef) (g k : Nat) (b : Nat) (v : Word) (o : Outside) (s : State) : Option (State → Outc) :=
  let store := fun (t : State) => t.writeFields d b v
  let lg : Fin 64 := Fin.ofNat 64 g
  let both : Bool := bitOf v 0 && bitOf v 1
  let bankShut : Bool := s.lgSt g != 0 && (k == s.rd (R.LG_STATUS_ACTIVE_BANK g) || s.bit (R.LG_STATUS_TDD_SWAP_PENDING g))
  let bellOn : Bool := s.rd (R.BELL_CFG_MODE g) != 0
  if d.is R.STEEPLE_CTRL_STEP then some (execSteepleStep v)
  else if d.is R.STEEPLE_DPLL_SRC_SYNCE_PORT then some (execDpllSourceWrite v)
  else if d.is R.STEEPLE_PTP_OFFSET then some (execSteeplePtpOffsetWrite v o.filtered o.freq)
  else if d.is R.STEEPLE_LATCH then some execSteepleLatch
  else if d.is (R.LG_CFG_MU 0) || d.is (R.LG_OFFSET_FRAME_OFFSET_NS 0) then heldWhile (s.lgSt g != 0) store
  else if d.is (R.LG_CTRL_START 0) then
    some (if both then execLgStartStopBoth lg v else chain [execLgTddSwap lg v, execLgStart lg v o.hashDiffers, execLgStop lg v])
  else if d.is (R.LG_TDD_CFG_PERIOD_SLOTS 0 0) || d.is (R.LG_TDD_BANK_ENTRIES 0 0 0) then heldWhile bankShut store
  else if d.is (R.LG_PLAN_ARM_ADDR 0) then some (execPlanArm lg v o.bells o.poison5 o.reject5)
  else if d.is (R.LG_PLAN_WITHDRAW_SEQUENCE 0) then some (execPlanWithdraw lg v)
  else if d.is (R.LG_SWEEP_STATUS_RESIDUE 0) then some (execResidueClear lg v)
  else if d.is (R.BELL_CFG_MODE 0) then some (execBellCfgWrite lg v)
  else if d.is (R.BELL_START 0) || d.is (R.BELL_START_FINE 0) || d.is (R.BELL_PERIOD 0) || d.is (R.BELL_WIDTH 0) then heldWhile bellOn store
  else if d.is (R.CAP_POP 0) then some (execCapPop (Fin.ofNat 18 g))
  else none

/-- A command of a Carter channel and its other registers (R417, R427, R431). -/
def writeCarter (d : RegDef) (g : Nat) (v : Word) : Option (State → Outc) :=
  let c : Fin 192 := Fin.ofNat 192 g
  if d.is (R.CARTER_CH_CTRL_START 0) || d.is (R.HCARTER_CH_CTRL_START 0 0) then
    some (chain [execCarterStartLoose c v, execCarterStartPlanned c v, may (bitOf v 30) (execCarterStop c)])
  else if d.is (R.CARTER_CH_CFG_LIMIT 0) || d.is (R.HCARTER_CH_CFG_LIMIT 0 0) then
    plainly (fun s => (s.wrWord v [chFld g R.CARTER_CH_CFG_IRQ_EN, chFld g R.CARTER_CH_CFG_DEST, chFld g R.CARTER_CH_CFG_PRIO]).wr
      (chFld g R.CARTER_CH_CFG_LIMIT) (max 1 (min 65536 (bitsOf v 0 17))))
  else none

/-- The debug registers of a core (R626, R627). -/
def writeDebug (d : RegDef) (core : Nat) (b : Nat) (v : Word) (s : State) : Option (State → Outc) :=
  let k : Fin 160 := Fin.ofNat 160 core
  if d.is (R.DBG_CTRL_HALT_REQ 0 0) || d.is (R.HDBG_CTRL_HALT_REQ 0) then
    some (chain [fun t => .next (t.writeFields { d with fields := d.fields.filter (fun f => f.acc == .rw) } b v),
      may (bitOf v 31) (execDbgHaltReq k), may (bitOf v 30) (execDbgResume k), may (bitOf v 29) (execDbgStep k)])
  else if d.is (R.DBG_REG_SEL_TAG 0 0) || d.is (R.HDBG_REG_SEL_TAG 0) then some (chain [execDbgRegRead k v, execDbgRegWrite k v])
  else if d.is (R.DBG_REG_DATA 0 0) || d.is (R.HDBG_REG_DATA 0) then heldWhile (!(s.core core).dbgHalt) (fun t => t.writeFields d b v)
  else none

/-- The registers of a hamlet (R83, R108, R577, R627). -/
def writeHamlet (d : RegDef) (h c : Nat) (b : Nat) (v : Word) (s : State) : Option (State → Outc) :=
  let hh : Fin 16 := Fin.ofNat 16 h
  let cc : Fin 9 := Fin.ofNat 9 c
  if d.is (R.HAMLET_IMEM_CTRL_ARM 0 0) then some (if bitOf v 0 then execImemFlipArm hh cc v else execImemFlipDisarm hh cc v)
  else if d.is (R.HAMLET_IMEM_TICK_FLIP_TICK 0 0) then heldWhile (s.bit (R.HAMLET_IMEM_CTRL_ARM h c)) (fun t => t.writeFields d b v)
  else if d.is (R.HAMLET_SPARE_CTRL_TAKE 0) then some (execSpareTake hh v)
  else match writeCarter d (64 + 8 * h + c) v with
    | some f => some f
    | none => writeDebug d (9 * h + c) b v s

/-- The Reeve's registers (R188, R195, R206, R207, R213, R217, R219, R618). -/
def writeReeve (d : RegDef) (i j : Nat) (v : Word) : Option (State → Outc) :=
  if d.is R.REEVE_CTRL_ENABLE then some (execReeveCompatWrite v)
  else if d.is R.REEVE_DECR_LAPSE then some (execReeveDecr v)
  else if d.is R.REEVE_ABORT_NAME then some (execReeveAbort v)
  else if d.is (R.REEVE_SUBMIT_CMD_ADDR 0) then some (execReeveSubmitCmd (Fin.ofNat 16 i) v)
  else if d.is (R.REEVE_REPORT_CFG_IRQ_EN 0) then some (execReportQueueFlush (Fin.ofNat 64 i) v)
  else if d.is (R.REEVE_EV_FLAGS_FLAGS 0 0) then some (execEvFlagsClear (Fin.ofNat 64 i) (j == 1) v)
  else if d.is (R.REEVE_EV_SET_SET 0 0) then some (execEvSet (Fin.ofNat 64 i) (j == 1) v)
  else if d.is (R.REEVE_CORE_STATE_STATE 0 0) then some (execOverrunCoreRelease (Fin.ofNat 16 i) (Fin.ofNat 9 j) v)
  else if d.is R.REEVE_TAP_POP then some execReeveTapPop
  else none

/-- The workshops' registers (R225, R236, R257, R587). -/
def writeWorkshop (d : RegDef) (i : Nat) (v : Word) : Option (State → Outc) :=
  let e : Fin 16 := Fin.ofNat 16 i
  if d.is R.KILN_ENG_EN_EN then some (execWorkshopEngEnWrite 0 v)
  else if d.is R.WHEEL_ENG_EN_EN then some (execWorkshopEngEnWrite 1 v)
  else if d.is R.MILL_ENG_EN_EN then some (execWorkshopEngEnWrite 2 v)
  else if d.is R.KILN_HARQ_AREA_SIZE then some (execKilnHarqAreaWrite v)
  else if d.is R.KILN_HARQ_CMD_OP then some (chain [execKilnHarqOpen v, execKilnHarqClose v])
  else if d.is (R.KILN_UCODE_CTRL_LOAD 0) then some (execUcodeLoad 0 e v)
  else if d.is (R.WHEEL_UCODE_CTRL_LOAD 0) then some (execUcodeLoad 1 e v)
  else if d.is (R.MILL_UCODE_CTRL_LOAD 0) then some (execUcodeLoad 2 e v)
  else none

/-- Registers of a Sieve channel that are written only while it is STOPPED (R309). -/
def sieveStatic : List Fld :=
  [R.SIEVE_CH_MODE_DIR 0, R.SIEVE_CH_RATE_SPF 0, R.SIEVE_CH_STAGE01_SH1 0, R.SIEVE_CH_STAGE23_SH3 0, R.SIEVE_CH_STAGE5_SH5 0, R.SIEVE_CH_FIR_TAPS_M1 0,
   R.SIEVE_CH_NCO_FREQ 0, R.SIEVE_CH_NCO_PHASE 0, R.SIEVE_CH_RING_BASE_ADDR 0, R.SIEVE_CH_RING_LEN_LEN 0, R.SIEVE_CH_BURST_LATE 0, R.SIEVE_CH_NOTIFY_EN 0]

/-- The Sieve's registers (R301 to R305, R308, R309, R314). -/
def writeSieve (d : RegDef) (c i j : Nat) (b : Nat) (v : Word) (s : State) : Option (State → Outc) :=
  let ch : Fin 1024 := Fin.ofNat 1024 c
  if sieveStatic.any (fun f => d.is f) then heldWhile (s.chanSt c != 0) (fun t => (t.writeFields d b v).showSupport c)
  else if d.is (R.SIEVE_CH_CTRL_START 0) then
    some (chain [may (bitOf v 31) (execSieveStart ch), may (bitOf v 30) (execSieveStop ch), execSieveSwap ch v,
      may (bitOf v 23) (execForceGuard ch), may (bitOf v 22) (execLeaveGuard ch)])
  else if d.is (R.SIEVE_CH_DELAY_INT 0) then some (execSieveDelayWrite ch v)
  else if d.is (R.SIEVE_CH_GUARD_AUTO 0) then some (execSieveGuardCfgWrite ch v)
  else if d.is (R.SIEVE_CH_UP_READY 0) then some (execSieveUpReady ch v)
  else if d.is (R.SIEVE_CH_COEF 0 0 0) then some (execSieveCoefWrite ch (Fin.ofNat 2 i) (Fin.ofNat 16 j) v)
  else none

/-- The Granary's registers (R330, R336, R338). -/
def writeGranary (d : RegDef) (i : Nat) (b : Nat) (v : Word) (s : State) : Option (State → Outc) :=
  let p : Fin 128 := Fin.ofNat 128 i
  if d.is (R.GRANARY_BANK_PWR_STATE 0) then some (execGranaryBankPowerRequest (Fin.ofNat 64 i) v)
  else if d.is (R.GRANARY_POOL_CFG_ENABLE 0) then some (if bitOf v 31 then execGranaryPoolEnable p v else execGranaryPoolDisable p v)
  else if d.is (R.GRANARY_POOL_BASE_ADDR 0) || d.is (R.GRANARY_POOL_COUNT_COUNT 0) then
    heldWhile (s.bit (R.GRANARY_POOL_STATUS_ENABLED i)) (fun t => t.writeFields d b v)
  else if d.is (R.GRANARY_POOL_RELEASE_TOKEN 0) then some (execGranaryPoolRelease p v)
  else none

/-- The memory test registers (R358 to R363, R368). -/
def writeMemTest (d : RegDef) (b : Nat) (v : Word) (o : Outside) : Option (State → Outc) :=
  if d.is R.ECCLOG_CTRL_FLUSH then some (execEcclogFlush v)
  else if d.is R.ECCLOG_POP then some execEcclogPop
  else if d.is R.ECC_INJECT_CTRL_GO then some (execEccInject v)
  else if d.is R.HARROW_CMD_START then some (execHarrowStart v o.checkerOk)
  else if d.is R.GLEANER_CTRL_EN then plainly (fun s => s.wr R.GLEANER_CTRL_EN (Nat.land (bitsOf v 0 8) 0xDF))
  else if d.is (R.GLEANER_INTERVAL_INTERVAL 0) then plainly (fun s => s.writeFields d b (BitVec.ofNat 32 (max 16 (bitsOf v 0 16))))
  else none

/-- The Commons' registers (R376, R380, R385, R388 to R390, R393 to R396). -/
def writeCommons (d : RegDef) (i j : Nat) (b : Nat) (v : Word) (o : Outside) : Option (State → Outc) :=
  let r : Fin 64 := Fin.ofNat 64 i
  let p : Fin 8 := Fin.ofNat 8 j
  let cmd := bitsOf v 29 3
  let store := fun (t : State) => t.writeFields d b v
  if d.is R.COMMONS_CTRL_IRQ_DEAD then
    some (chain [fun t => .next (store t), may (bitOf v 29) execRouteDiscardStage, may (bitOf v 30) execRouteAdvance])
  else if d.is (R.COMMONS_BAR_ARRIVE 0) then some (execBarrierArrive (Fin.ofNat 32 i) o.ni)
  else if d.is (R.COMMONS_BAR_BCAST 0) then some (execBarrierBcast (Fin.ofNat 32 i) v)
  else if d.is (R.PROBE_POP 0) then some (execProbePop (Fin.ofNat 32 i))
  else if d.is (R.COMMONS_RTR_PORT_CTRL_CMD 0 0) then
    some (if cmd = 1 then execPortDisable r p v else if cmd = 2 then execPortEnable r p else if cmd = 3 then execPortClose r p
      else if cmd = 4 then execPortOpen r p else if cmd = 5 then execPortRevive r p else fun s => .next s)
  else if d.is (R.COMMONS_NI_ROUTE_A_VALID 0 0) then some (execRouteEntryStage (Fin.ofNat 256 i) (Fin.ofNat 256 j) false v)
  else if d.is (R.COMMONS_NI_ROUTE_B_CODES 0 0) then some (execRouteEntryStage (Fin.ofNat 256 i) (Fin.ofNat 256 j) true v)
  else none

/-- The Tally's registers (R408, R411, R413). -/
def writeTally (d : RegDef) (v : Word) : Option (State → Outc) :=
  if d.is R.TALLY_SNAP_ARM_ARM then some (execTallySnapArm v none)
  else if d.is R.TALLY_PEEK_ID_ID then some (execTallyPeek v)
  else none

/-- The registers of the Lanes and of the Ewenual Link (R433, R434, R446, R590). -/
def writeLanes (d : RegDef) (i : Nat) (b : Nat) (v : Word) : Option (State → Outc) :=
  let l : Fin 48 := Fin.ofNat 48 i
  let k : Fin 6 := Fin.ofNat 6 i
  if d.is (R.QUAD_CFG_RATE 0) then some (execQuadCfgWrite (Fin.ofNat 12 i) v)
  else if d.is (R.LANE_CFG_USE 0) then some (execLaneCfgWrite l v)
  else if d.is (R.LANE_MARGIN_CTRL_START 0) then some (execMarginStart l v)
  else if d.is (R.LANE_RECAL_RECAL 0) then some (may (bitOf v 31) (execLaneRecal l))
  else if d.is (R.EWL_CFG_EN 0) then some (if bitOf v 31 then execEwlEnable k v else execEwlDisable k v)
  else if d.is R.EWL_ROUTE then plainly (fun s => (s.writeFields d b v).showReach)
  else if d.is (R.EWL_MEMBER_STATUS_REVIVE 0) then some (may (bitOf v 30) (execEwlMemberRevive (Fin.ofNat 8 i)))
  else none

/-- The Market's registers (R455, R472, R474, R476, R488, R489, R492). -/
def writeMarket (d : RegDef) (i : Nat) (b : Nat) (v : Word) : Option (State → Outc) :=
  let p : Fin 32 := Fin.ofNat 32 i
  if d.is R.MARKET_TX_READY_LOCK_GROUP then some (execMarketTxReady v)
  else if d.is (R.MARKET_PORT_CFG_EN 0) then some (chain [execMarketPortEnable p v, execMarketPortRetrain p v])
  else if d.is (R.MARKET_TS_POP 0) then some (execMarketTsPop p v)
  else if d.is (R.MARKET_LQ_CONS 0) then some (execLqConsWrite (Fin.ofNat 64 i) v)
  else if d.is (R.MARKET_STREAM_CFG_EN 0) then plainly (fun s => s.streamCfg i v)
  else if d.is (R.MARKET_TXQ_PUSH 0) then some (execMarketTxqPush (Fin.ofNat 16 i) v)
  else if d.is (R.MARKET_SYNCE_OUT_PORT 0) then plainly (fun s => (s.writeFields d b v).showSynce i)
  else none

/-- The host interface's registers (R503 to R505, R508, R512). -/
def writeHostIf (d : RegDef) (i j : Nat) (v : Word) : Option (State → Outc) :=
  if d.is (R.HOST_OB_MAP_LO_EN 0) then some (execHostObMapWrite (Fin.ofNat 64 i) false v)
  else if d.is (R.HOST_OB_MAP_HI_ADDR 0) then some (execHostObMapWrite (Fin.ofNat 64 i) true v)
  else if d.is (R.HOST_DB_BIND_EN 0 0) then some (execHostDbBindWrite (Fin.ofNat 128 i) (Fin.ofNat 16 j) v)
  else if d.is (R.HOST_FN_WIN_EN 0) then some (execHostFnWinWrite (Fin.ofNat 128 i) v)
  else if d.is (R.HOST_HCQ_CFG_EN 0) then
    plainly (fun s =>
      let t := if s.bit (R.HOST_HCQ_CFG_EN i) then s else s.wr (R.HOST_HCQ_CFG_SIZE_LOG2 i) (max 4 (min 12 (bitsOf v 0 4)))
      t.wrWord v [R.HOST_HCQ_CFG_EN i, R.HOST_HCQ_CFG_FN i, R.HOST_HCQ_CFG_VECTOR i])
  else none

/-- The Coppice's registers (R518, R520, R527 to R531, R533, R626). -/
def writeCoppice (d : RegDef) (i : Nat) (b : Nat) (v : Word) (s : State) : Option (State → Outc) :=
  let k : Fin 16 := Fin.ofNat 16 i
  let cmd := bitsOf v 29 3
  let st := s.rd (R.COPPICE_STOOL_STATUS_STATE i)
  if d.is R.COPPICE_LOAD_CTRL_BEGIN then
    some (chain [may (bitOf v 31) execCoppiceLoadBegin, may (bitOf v 30) execCoppiceLoadEnd, may (bitOf v 29) execCoppiceLoadAbort])
  else if d.is (R.COPPICE_UCLK_CFG_EN 0) then some (execUclkCfgWrite (Fin.ofNat 8 i) v)
  else if d.is (R.COPPICE_STOOL_CTRL_CMD 0) then
    some (if cmd = 1 then execStoolQuiesce k else if cmd = 2 then execStoolOpen k else if cmd = 3 then execStoolClear k
      else if cmd = 4 then execStoolUserReset k else fun s => .next s)
  else if d.is (R.COPPICE_STOOL_WIN_BASE_EN 0 0) || d.is (R.COPPICE_STOOL_WIN_LIMIT_LIMIT 0 0) then
    heldWhile (st != 0 && st != 4) (fun t => t.writeFields d b v)
  else if d.is R.COPPICE_READBACK_STOOL then some (execCoppiceReadbackSelect v)
  else none

/-- The Strongroom's registers (R542, R544, R553, R557). -/
def writeStrong (d : RegDef) (i : Nat) (b : Nat) (v : Word) (mid : Mid) : Option (State → Outc) :=
  if d.is R.STRONG_CTRL_RESTART then some (execStrongRestart mid v)
  else if d.is R.STRONG_DBG_CTRL_SUBMIT then some (chain [execNewChallenge v, execDebugResponseSubmit v])
  else if d.is (R.STRONG_Q_PROD_PROD 0) then some (execStrongQProdWrite mid (Fin.ofNat 8 i) v)
  else if d.is (R.STRONG_DBG_RESP 0) then plainly (fun s => s.wr ⟨b, 0, 32, 0⟩ v.toNat)
  else none

/-- The nearer limit of a range. -/
def clampTo (lo hi x : Nat) : Nat := max lo (min hi x)

/-- The Hearth's registers (R565, R568, R569, R575, R584, R596, R604, R609 to R613, R620 to R623). -/
def writeHearth (d : RegDef) (i : Nat) (b : Nat) (v : Word) (mid : Mid) : Option (State → Outc) :=
  let store := fun (t : State) => t.writeFields d b v
  let from_ := fun (ok : Bool) => some (fun (s : State) => (.next (if ok then store s else s.refusedAns) : Outc))
  if d.is R.HEARTH_RELEASE_HALL then some (execHearthRelease mid v)
  else if d.is R.HEARTH_HALL_VECTOR_LO || d.is R.HEARTH_HALL_VECTOR_HI || d.is R.TELEM_PROD then from_ (mid == hearthMid)
  else if d.is R.TELEM_CONS then some (fun s => .next (
    if (s.bit R.TELEM_CFG_DEST && mid == 0xC0) || (!s.bit R.TELEM_CFG_DEST && decide (0xA0 ≤ mid.toNat ∧ mid.toNat ≤ 0xAF)) then store s else s.refusedAns))
  else if d.is R.HEARTH_CRIER_ENTER then some (execHearthCrierEnter mid v)
  else if d.is R.HEARTH_RCV_CTRL_KEY then some (execRecoveryReboot v)
  else if d.is R.HEARTH_READMIT_HAMLET then some (execHearthReadmit mid v)
  else if d.is R.HEARTH_HANDOVER_KEY then some (execHearthHandover mid v)
  else if d.is R.HEARTH_DEVRESET_KEY then some (execHearthDevreset mid v)
  else if d.is R.HEARTH_UNIT_RESET_KIND then
    some (if bitsOf v 29 3 = 2 then execUnitResetHallCore mid v else if bitsOf v 29 3 = 3 then execUnitResetCellar v else execUnitResetHamletCore v)
  else if d.is (R.PWR_DOM_STATE 0) then
    some (if bitsOf v 0 2 = 0 then execPwrDomOn mid (Fin.ofNat 48 i) v else execPwrDomOff mid (Fin.ofNat 48 i) v)
  else if d.is R.HEARTH_THROTTLE_LIMIT_W then
    plainly (fun s => (((s.wrWord v [R.HEARTH_THROTTLE_IRQ_EN, R.HEARTH_THROTTLE_FORCE_L]).wr R.HEARTH_THROTTLE_LIMIT_W
      (clampTo 20 135 (bitsOf v 16 9))).wr R.HEARTH_THROTTLE_THROTTLE_C (clampTo 85 105 (bitsOf v 0 7))))
  else if d.is R.TRACE_CFG_EN then
    plainly (fun s => (if s.bit R.TRACE_CFG_EN then s else s.wr R.TRACE_CFG_SIZE_LOG2 (clampTo 8 20 (bitsOf v 0 5))).wrWord v [R.TRACE_CFG_EN])
  else if d.is R.HEARTH_EVT_POP then some (execHearthEvtPop mid)
  else none

/-- The meaning of a write to register `d` at `b`, where the register has one of its own. -/
def State.ownWrite (s : State) (d : RegDef) (b : Nat) (v : Word) (mid : Mid) (o : Outside) : Option (State → Outc) :=
  let x := indexOf d.dims (b - d.base)
  let i := x.getD 0 0
  let j := x.getD 1 0
  let blk := d.base / 0x01000000
  if blk = 0x10 then writeHamlet d i j b v s
  else if blk = 0x40 then writeHearth d i b v mid
  else if blk = 0x41 then writeMemTest d b v o
  else if blk = 0x42 then writeStrong d i b v mid
  else if blk = 0x43 then writeHostIf d i j v
  else if blk = 0x44 then writeSteeple d i j b v o s
  else if blk = 0x45 then writeTally d v
  else if blk = 0x46 then writeCommons d i j b v o
  else if blk = 0x47 then writeGranary d i b v s
  else if blk = 0x49 then writeCarter d i v
  else if blk = 0x4A then writeReeve d i j v
  else if blk = 0x4B ∨ blk = 0x4C ∨ blk = 0x4D then writeWorkshop d i v
  else if blk = 0x4E then writeSieve d i j (x.getD 2 0) b v s
  else if blk = 0x4F then writeLanes d i b v
  else if blk = 0x50 then writeMarket d i b v
  else if blk = 0x51 then writeCoppice d i b v s
  else if blk = 0x52 then writeDebug d (144 + i) b v s
  else none

/-- The register at `a` takes a write that covers it. -/
def State.writeOne (s : State) (mid : Mid) (a : Nat) (v : Word) (o : Outside) : Outc :=
  match regAt a with
  | none => .next (s.reply ⟨.aborted, 6, []⟩)
  | some d => match s.ownWrite d (busAddr a) v mid o with
    | some f => f s.ack
    | none => .next (s.writeFields d (busAddr a) v).ack

/-- The low `n` bytes of a write into a data window (R527, R575). A longer one is COPPICE_CFG_DATA_WRITE's or
HEARTH_RCV_DATA_WRITE's, whose operand holds its bytes. -/
def State.windowWrite (s : State) (mid : Mid) (a n : Nat) (v : DWord) : Outc :=
  let bs := (List.range n).map (fun i => v.toNat / 2 ^ (8 * i) % 256)
  if 8 < n then .next s
  else if 0x51010000 ≤ a then execCoppiceCfgDataWrite mid (clean bs) true s
  else execHearthRcvDataWrite (Fin.ofNat 262144 (a - 0x40040000)) bs true s

/-- A write of 4 bytes that cover one 32-bit register, or its refusal (R635, R636, R638). -/
def State.regWrite (s : State) (mid : Mid) (a : Nat) (v : Word) (o : Outside) : Outc :=
  match s.regRefuse a with
  | some r => .next (s.reply r)
  | none =>
    if isStreamWindow a then s.windowWrite mid a 4 (v.setWidth 64)
    else if regBytes a = 4 then s.writeOne mid a v o else .next s.refusedAns

/-- A write of `n` bytes from `a` (R635): one register, two 32-bit registers with the lower first, or refused. A take-once
register is read only: an aligned 8-byte write that covers it is ignored (R636). -/
def State.regWriteBytes (s : State) (mid : Mid) (a n : Nat) (v : DWord) (o : Outside) : Outc :=
  match s.regRefuse (if (regAt a).isSome then a else if inReg a then (if (regAt (a / 4 * 4)).isSome then a / 4 * 4 else a / 8 * 8) else a) with
  | some r => .next (s.reply r)
  | none =>
    if isStreamWindow a then s.windowWrite mid a n v
    else if n = 4 ∧ (regAt a).isSome ∧ regBytes a = 4 then s.writeOne mid a (v.extractLsb' 0 32) o
    else if n = 8 ∧ a % 8 = 0 ∧ (regAt a).isSome then
      if regBytes a = 8 then .next s.ack
      else match s.regRefuse (a + 4) with
        | some r => .next (s.reply r)
        | none => match s.writeOne mid a (v.extractLsb' 0 32) o with
          | .next t =>
            if t.ans.status = .aborted then .next (s.reply t.ans)
            else match t.writeOne mid (a + 4) (v.extractLsb' 32 32) o with
              | .next u => if u.ans.status = .aborted then .next (s.reply u.ans) else .next u
              | x => x
          | x => x
    else .next s.refusedAns

/-- REGISTER_WRITE: a write that covers one 32-bit register (R6, R636). -/
def execRegisterWrite (mid : Mid) (a : BitVec 40) (v : Word) (o : Outside) (s : State) : Outc := s.regWrite mid a.toNat v o

/-- COUNTER_READ_CLEAR: a read that covers a register exactly; RC fields clear, but for a read through JTAG (R6, R625). -/
def execCounterReadClear (a : BitVec 40) (jtag : Bool) (s : State) : Outc := .next (s.regRead a.toNat (regBytes a.toNat) jtag)

/-- PARTIAL_REGISTER_ACCESS (R635). -/
def execPartialRegisterAccess (mid : Mid) (a : BitVec 40) (n : Nat) (write : Bool) (v : DWord) (o : Outside) (s : State) : Outc :=
  if write then s.regWriteBytes mid a.toNat n v o else .next (s.regRead a.toNat n false)

/-- ATOMIC_TO_REGISTER: answered ABORTED REFUSED; nothing changes (R634). -/
def execAtomicToRegister (_a : BitVec 40) (s : State) : Outc := .next s.refusedAns

end Sys2Proof.Machine
end

