-- ==== Sys2Proof/Machine/HostBus.lean ====
section
/-! DEFINITION. Machine/HostBus.lean: requests of the host and of JTAG that reach the device's registers and memory (R498 to
R504, R625, R626).
Choices of the model: log entries 56 (DEDUCED), 57 (DESIGN CHOICE), 59 (DEDUCED). -/

namespace Sys2Proof.Machine

/-! ## What a BAR maps (R496, R499) -/

/-- Where a host request goes: a register or a memory address; a doorbell or a head of a function page; a stool; Unsupported
Request, where no BAR decodes it; or Completer Abort and a dropped write. -/
inductive HostTarget where
  | reg (a : Nat)
  | mem (a : Nat)
  | bell (d : Nat)
  | head (h : Nat)
  | stool (a : Nat)
  | refused
  | unsupported
deriving DecidableEq, Repr, Inhabited

/-- A function page: 16 doorbells, and the heads of the 128 host completion queues (R503). -/
def pageTarget (off : Nat) : HostTarget :=
  if off < 0x40 then .bell (off / 4) else if 0x100 ≤ off ∧ off < 0x300 then .head ((off - 0x100) / 4)
  else if off < 0x10000 then .refused else .unsupported

/-- The function window of `fn` (R504). -/
def State.windowTarget (s : State) (fn off : Nat) : HostTarget :=
  if 0x4000000 ≤ off then .unsupported
  else if s.bit (R.HOST_FN_WIN_EN fn) then .mem (s.rd (R.HOST_FN_WIN_BASE fn) * 2 ^ 20 + off) else .refused

/-- What BAR `bar` of function `fn` maps at offset `off` now (R496, R499, R510). -/
def State.barTarget (s : State) (fn bar off : Nat) : HostTarget :=
  if fn = 0 then
    if bar = 0 ∧ off < 0x40000000 then
      let blk := off / 0x01000000
      if s.hostBoot = 2 ∧ blk ≠ 0 ∧ blk ≠ 3 then .refused else .reg (0x40000000 + off)
    else if bar = 2 ∧ off < 0x4000000 then (if s.hostBoot = 2 then .refused else .mem off)
    else if bar = 4 ∧ off < 0x800000000 then (if s.hostBoot = 2 then .refused else .mem (cellarBase + off))
    else .unsupported
  else if s.hostBoot = 2 then .unsupported
  else if fn = 1 ∨ (0x10 ≤ fn ∧ fn < 0x50 ∧ s.host.vf1) then
    if bar = 0 then pageTarget off else if bar = 2 then s.windowTarget fn off else .unsupported
  else if fn = 2 then
    if bar = 0 then pageTarget off else if bar = 2 ∧ off < 0x40000000 then .stool (0x80000000 + off) else .unsupported
  else if 0x50 ≤ fn ∧ fn < 0x60 ∧ s.vfSt (fn - 0x50) = 2 then
    if bar = 0 then pageTarget off
    else if bar = 2 ∧ off < 0x4000000 then
      (if s.vfLoaded (fn - 0x50) then .stool (0x80000000 + (s.vfMask (fn - 0x50)).headD 0 * 0x4000000 + off) else .refused)
    else .unsupported
  else .unsupported

/-- What decodes a request of `n` bytes: a BAR that maps its first and its last byte (R500; no BAR decodes one across its end). -/
def State.hostTarget (s : State) (fn bar off n : Nat) : HostTarget :=
  if s.barTarget fn bar (off + n - 1) = .unsupported then .unsupported else s.barTarget fn bar off

/-- A stool that is not LOADED answers DOMAIN_CLOSED (R515). -/
def State.stoolAnswers (s : State) (a : Nat) : Bool := s.stoolSt (stoolOf a) == 2

def State.complete (s : State) (fn : Nat) (st : CplStatus) (bytes : List Nat) (ep : Bool) : State := s.send (.cpl fn st bytes ep)

/-- The bytes of an answer to a read of `n` bytes at a register or stool address: one word holds them from its low end,
several words hold them from their own addresses. -/
def answerBytes (a n : Nat) (ws : List PWord) : List Nat :=
  let l := byteVals (wordBytes ws)
  if a / 8 = (a + n - 1) / 8 then l.take n else (l.drop (a % 8)).take n

/-- HOST_MEMORY_READ (R498 to R504). -/
def execHostMemoryRead (fn : Fin 256) (bar : Fin 6) (off n : Nat) (ext : List PWord) (s : State) : Outc :=
  let f := fn.val
  if s.hostBoot = 0 ∨ !s.linkUp then .next s
  else match s.hostTarget f bar.val off n with
    | .reg a =>
      let t := s.regRead a n false
      .next (if t.ans.status = .ok then t.complete f .sc (answerBytes a n t.ans.words) (anyMark t.ans.words) else t.complete f .ca [] false)
    | .mem a =>
      let x := s.dmaRead hostMid a n
      .next (match x.1 with
        | some l => x.2.complete f .sc (byteVals l) (anyBad l)
        | none => x.2.complete f .ca [] false)
    | .bell _ => .next (s.complete f .sc (List.replicate n 0) false)
    | .head _ =>
      let x := s.openBytes n
      .next (x.2.complete f .sc (byteVals x.1) false)
    | .stool a => .next (if s.stoolAnswers a then s.complete f .sc (answerBytes a n ext) (anyMark ext) else s.complete f .ca [] false)
    | .refused => .next (s.complete f .ca [] false)
    | .unsupported => .next (s.complete f .ur [] false)

/-- A host write is dropped and counted (R500). -/
def State.hostDrop (s : State) : State := s.inc R.HOST_IN_WERR

/-- A posted write is complete, or its error answer drops and counts it (R500). -/
def hostPosted (x : Outc) : Outc :=
  match x with
  | .next t => .next (if t.ans.status = .ok then t else t.hostDrop)
  | y => y

def valueOf (bytes : List Byte) : DWord := BitVec.ofNat 64 (joinBytes bytes)

/-- A write that reaches the register space: the data windows take it whole, other registers by R635. -/
def State.hostRegWrite (s : State) (a : Nat) (bytes : List Byte) (o : Outside) : Outc :=
  let l := bytes.map BitVec.toNat
  if 0x51010000 ≤ a ∧ a < 0x51020000 then
    match s.regRefuse a with
    | some r => .next (s.reply r)
    | none => execCoppiceCfgDataWrite hostMid (clean l) true s
  else if 0x40040000 ≤ a ∧ a < 0x40080000 then execHearthRcvDataWrite (Fin.ofNat 262144 (a - 0x40040000)) l true s
  else s.regWriteBytes hostMid a bytes.length (valueOf bytes) o

/-- A doorbell write of function `fn` (R503, R511). -/
def State.doorbell (s : State) (fn d : Nat) (v : Word) (bytes : Nat) (o : Outside) : Outc :=
  if bytes ≠ 4 ∨ 128 ≤ fn ∨ ¬ s.bit (R.HOST_DB_BIND_EN fn d) ∨ s.host.stopped.contains fn then .next (s.inc R.HOST_DB_UNBOUND)
  else hostPosted (s.regWrite hostMid (0x40000000 + s.rd (R.HOST_DB_BIND_OFFSET fn d) * 4) v o)

/-- HOST_DOORBELL_WRITE. -/
def execHostDoorbellWrite (fn : Fin 256) (d : Fin 16) (v : Word) (bytes : Nat) (o : Outside) (s : State) : Outc :=
  s.doorbell fn.val d.val v bytes o

/-- HOST_MEMORY_WRITE (R498 to R504); a poisoned write reaches no register (R501). -/
def execHostMemoryWrite (fn : Fin 256) (bar : Fin 6) (off : Nat) (bytes : List Byte) (ep : Bool) (o : Outside) (s : State) : Outc :=
  let f := fn.val
  let n := bytes.length
  if s.hostBoot = 0 ∨ !s.linkUp then .next s
  else match s.hostTarget f bar.val off bytes.length with
    | .reg a => if ep then .next s.hostDrop else hostPosted (s.hostRegWrite a bytes o)
    | .mem a =>
      let x := s.dmaWrite hostMid a (bytes.map (fun b => (b.toNat, ep)))
      .next (if x.1 then x.2 else x.2.hostDrop)
    | .bell d => if ep then .next s.hostDrop else s.doorbell f d (BitVec.ofNat 32 (valueOf bytes).toNat) (if off % 4 = 0 then n else 0) o
    | .head h =>
      if ep then .next s.hostDrop
      else if n ≠ 4 ∨ off % 4 ≠ 0 then .next (s.inc R.HOST_DB_UNBOUND)
      else execHcqHeadWrite fn (Fin.ofNat 128 h) (BitVec.ofNat 32 (valueOf bytes).toNat) s
    | .stool a => .next (if s.stoolAnswers a then s else s.hostDrop)
    | .refused => .next s.hostDrop
    | .unsupported => .next s

/-! ## JTAG (R625, R626) -/

/-- A debug permission is open (R553). -/
def State.dbgPerm (s : State) (k : Nat) : Bool := decide (s.rd R.STRONG_OTP_STATE_LIFECYCLE = 0) || nbit (s.rd R.STRONG_DBG_STATUS_PERM) k

def inRegs (f : Fld) (n a : Nat) : Bool := decide (f.addr ≤ a) && decide (a < f.addr + 4 * n)

/-- Registers that a debugger reaches without a permission (R626). -/
def freeRead (a : Nat) : Bool :=
  inRegs (R.CRIER_RECORD 0) 12 a || inRegs R.HEARTH_BOOT_STATUS_STATE 1 a || inRegs R.HEARTH_STRAPS_FAST 1 a || inRegs R.STRONG_STATUS_STATE 1 a ||
    inRegs (R.STRONG_SERIAL 0) 4 a || inRegs (R.STRONG_CHALLENGE 0) 8 a || inRegs R.STRONG_DBG_STATUS_PERM 1 a
def freeWrite (a : Nat) : Bool := inRegs R.STRONG_DBG_CTRL_SUBMIT 1 a || inRegs (R.STRONG_DBG_RESP 0) 49 a

/-- A register is one of the debug registers of the Hall cores, or of the hamlet cores. -/
def isHallDebug (a : Nat) : Bool := decide (0x52006000 ≤ a) && decide (a < 0x52006400)
def isHamletDebug (a : Nat) : Bool :=
  let b := busAddr a
  decide (0x10000000 ≤ b) && decide (b < 0x20000000) && decide (0xF06000 ≤ b % 0x01000000) && decide (b % 0x01000000 < 0xF06240)
def hasWl (a : Nat) : Bool := match regAt a with | some d => d.fields.any (fun f => f.acc == .wl) | none => false

/-- The access is admitted (R626). -/
def State.jtagAdmits (s : State) (write : Bool) (a : Nat) : Bool :=
  let space : Bool := decide (0x40000000 ≤ a) && decide (a < 0x80000000)
  (if write then freeWrite a else freeRead a) || s.dbgPerm 0 ||
    (s.dbgPerm 1 && ((!write && space) || isHallDebug a)) || (s.dbgPerm 2 && ((!write && space) || isHamletDebug a)) ||
    (s.dbgPerm 3 && write && hasWl a) || (s.dbgPerm 4 && !write && decide (0x51002000 ≤ a) && decide (a < 0x51002800))

/-- An access starts, or ends ABORTED without being sent; while one runs it is ignored. -/
def State.jtagStart (s : State) (write : Bool) (a v : Nat) : State :=
  if s.dbg.jtag.busy then s
  else if s.jtagAdmits write a then s.setTap (fun t => { t with busy := true, done := false, access := some (write, a, v) })
  else s.setTap (fun t => { t with done := true, status := 3, data := 0 })

/-- JTAG_DBG_READ. -/
def execJtagDbgRead (a : BitVec 38) (s : State) : Outc := .next (s.jtagStart false (a.toNat * 4) 0)
/-- JTAG_DBG_WRITE. -/
def execJtagDbgWrite (a : BitVec 38) (v : Word) (s : State) : Outc := .next (s.jtagStart true (a.toNat * 4) v.toNat)

/-- STATUS of an answer (R625). -/
def jtagStatus (r : AnsStatus) : Nat :=
  match r with
  | .ok => 0
  | .deadTarget => 4
  | .domainClosed => 5
  | _ => 3

/-- An address that lies beyond the device's registers and memories: the Coppice, parish and host windows. -/
def isBeyond (a : Nat) : Bool := !isRegAddr a && decide (regionOf a = .gap)

/-- The answer to a JTAG access: of a register, of memory, or the given one of what lies beyond the device. -/
def State.jtagAccess (s : State) (write : Bool) (a v : Nat) (given : Answer) (o : Outside) : Outc :=
  if isRegAddr a then
    if write then s.regWrite hearthMid a (BitVec.ofNat 32 v) { o with ni := 9 } else .next (s.regRead a 4 true)
  else if isBeyond a then .next (s.reply given)
  else match if write then s.writeRefused (a / 8 * 8) else (match s.target (a / 8 * 8) with | .inl r => some r | .inr _ => none) with
    | some r => .next (s.refuseAccess (a / 8 * 8) r)
    | none =>
      if write then .next (s.dmaWrite hearthMid a (clean (bytesOf32 v))).2.ack
      else
        let x := s.dmaRead hearthMid a 4
        .next (x.2.reply ⟨.ok, 0, [⟨BitVec.ofNat 64 ((le32 1 (byteVals (x.1.getD []))).headD 0), false⟩]⟩)

/-- JTAG_DBG_ACCESS_DONE: the access under way is answered. -/
def execJtagDbgAccessDone (given : Answer) (o : Outside) (s : State) : Outc :=
  match s.dbg.jtag.access with
  | none => .next s
  | some (write, a, v) =>
    match s.jtagAccess write a v given o with
    | .next t =>
      .next (t.setTap (fun x => { x with busy := false, done := true, access := none, status := jtagStatus t.ans.status,
                                         data := if write then 0 else (t.ans.words.headD default).data.toNat % 2 ^ 32 }))
    | y => y

end Sys2Proof.Machine
end

