-- ==== Sys2Proof/Machine/Dispatch.lean ====
section
/-! DEFINITION. Machine/Dispatch.lean: one arm per command, each a direct call of its meaning. -/

namespace Sys2Proof.Machine

def exec (i : Instr) (s : State) : Host.Outcome State Fault Refusal :=
  match i with
  | .registerWrite mid a v o => Sys2Proof.Machine.execRegisterWrite mid a v o s
  | .counterReadClear a jtag => Sys2Proof.Machine.execCounterReadClear a jtag s
  | .partialRegisterAccess mid a n write v o => Sys2Proof.Machine.execPartialRegisterAccess mid a n write v o s
  | .atomicToRegister a => Sys2Proof.Machine.execAtomicToRegister a s
  | .lgStart group v hashDiffers => Sys2Proof.Machine.execLgStart group v hashDiffers s
  | .lgStop group v => Sys2Proof.Machine.execLgStop group v s
  | .lgStartStopBoth group v => Sys2Proof.Machine.execLgStartStopBoth group v s
  | .lgTddSwap group v => Sys2Proof.Machine.execLgTddSwap group v s
  | .lgActionBoundaryStart group => Sys2Proof.Machine.execLgActionBoundaryStart group s
  | .lgActionBoundaryStop group => Sys2Proof.Machine.execLgActionBoundaryStop group s
  | .lgReturnIdle group => Sys2Proof.Machine.execLgReturnIdle group s
  | .slotBoundary group => Sys2Proof.Machine.execSlotBoundary group s
  | .tddSwapApply group => Sys2Proof.Machine.execTddSwapApply group s
  | .planArm group v bells poison5 reject5 => Sys2Proof.Machine.execPlanArm group v bells poison5 reject5 s
  | .planCommit group => Sys2Proof.Machine.execPlanCommit group s
  | .planWithdraw group seq => Sys2Proof.Machine.execPlanWithdraw group seq s
  | .slotSweep group wtag => Sys2Proof.Machine.execSlotSweep group wtag s
  | .sweepResidueReport group => Sys2Proof.Machine.execSweepResidueReport group s
  | .residueClear group v => Sys2Proof.Machine.execResidueClear group v s
  | .steepleStep v => Sys2Proof.Machine.execSteepleStep v s
  | .steepleLatch => Sys2Proof.Machine.execSteepleLatch s
  | .dpllPhaseUpdate src err filtered freq => Sys2Proof.Machine.execDpllPhaseUpdate src err filtered freq s
  | .steeplePtpOffsetWrite v filtered freq => Sys2Proof.Machine.execSteeplePtpOffsetWrite v filtered freq s
  | .dpllHoldoverEntry valid => Sys2Proof.Machine.execDpllHoldoverEntry valid s
  | .dpllSourceWrite v => Sys2Proof.Machine.execDpllSourceWrite v s
  | .replicaLost domain => Sys2Proof.Machine.execReplicaLost domain s
  | .replicaResync domain => Sys2Proof.Machine.execReplicaResync domain s
  | .bellCfgWrite bell v => Sys2Proof.Machine.execBellCfgWrite bell v s
  | .bellEdge bell => Sys2Proof.Machine.execBellEdge bell s
  | .ppsOutPulse k => Sys2Proof.Machine.execPpsOutPulse k s
  | .captureEdge p falling => Sys2Proof.Machine.execCaptureEdge p falling s
  | .capPop p => Sys2Proof.Machine.execCapPop p s
  | .sheafIssue core sys answers => Sys2Proof.Machine.execSheafIssue core sys answers s
  | .interruptTake core => Sys2Proof.Machine.execInterruptTake core s
  | .tickCompareMatch core => Sys2Proof.Machine.execTickCompareMatch core s
  | .softwareInterrupt core => Sys2Proof.Machine.execSoftwareInterrupt core s
  | .loadAnswer core n given => Sys2Proof.Machine.execLoadAnswer core n given s
  | .storeAnswer core n given => Sys2Proof.Machine.execStoreAnswer core n given s
  | .imemWrite r => Sys2Proof.Machine.execImemWrite r s
  | .imemFlipArm h c v => Sys2Proof.Machine.execImemFlipArm h c v s
  | .imemFlipDisarm h c v => Sys2Proof.Machine.execImemFlipDisarm h c v s
  | .imemFlipApply h c => Sys2Proof.Machine.execImemFlipApply h c s
  | .quernJobStart h => Sys2Proof.Machine.execQuernJobStart h s
  | .quernJobEnd h => Sys2Proof.Machine.execQuernJobEnd h s
  | .reeveSubmitCmd port v => Sys2Proof.Machine.execReeveSubmitCmd port v s
  | .reeveSubmitOutcome port => Sys2Proof.Machine.execReeveSubmitOutcome port s
  | .reeveSubmitResultTake port wide => Sys2Proof.Machine.execReeveSubmitResultTake port wide s
  | .reeveDecr v => Sys2Proof.Machine.execReeveDecr v s
  | .decrementArrival n => Sys2Proof.Machine.execDecrementArrival n s
  | .reeveAbort v => Sys2Proof.Machine.execReeveAbort v s
  | .itemDispatch h c => Sys2Proof.Machine.execItemDispatch h c s
  | .itemDeadlineLapse slot => Sys2Proof.Machine.execItemDeadlineLapse slot s
  | .hardItemKill slot => Sys2Proof.Machine.execHardItemKill slot s
  | .preemptSelect slot => Sys2Proof.Machine.execPreemptSelect slot s
  | .preemptWithdraw h c => Sys2Proof.Machine.execPreemptWithdraw h c s
  | .itemResume h c => Sys2Proof.Machine.execItemResume h c s
  | .preemptedKillReentry h c => Sys2Proof.Machine.execPreemptedKillReentry h c s
  | .coreDoneArrival h c => Sys2Proof.Machine.execCoreDoneArrival h c s
  | .lapseHandlerOverrun h c => Sys2Proof.Machine.execLapseHandlerOverrun h c s
  | .overrunCoreRelease h c v => Sys2Proof.Machine.execOverrunCoreRelease h c v s
  | .workshopJobHandoff w => Sys2Proof.Machine.execWorkshopJobHandoff w s
  | .workshopEndStatus n => Sys2Proof.Machine.execWorkshopEndStatus n s
  | .reportPostDeferred q => Sys2Proof.Machine.execReportPostDeferred q s
  | .reeveReportTake q wide => Sys2Proof.Machine.execReeveReportTake q wide s
  | .reportQueueFlush q v => Sys2Proof.Machine.execReportQueueFlush q v s
  | .evSet g hi v => Sys2Proof.Machine.execEvSet g hi v s
  | .evFlagsClear g hi v => Sys2Proof.Machine.execEvFlagsClear g hi v s
  | .reeveCompatWrite v => Sys2Proof.Machine.execReeveCompatWrite v s
  | .ldpcDec e n => Sys2Proof.Machine.execLdpcDec e n s
  | .ldpcEnc e n => Sys2Proof.Machine.execLdpcEnc e n s
  | .polarDec e n => Sys2Proof.Machine.execPolarDec e n s
  | .polarEnc e n => Sys2Proof.Machine.execPolarEnc e n s
  | .turboDec e n => Sys2Proof.Machine.execTurboDec e n s
  | .turboEnc e n => Sys2Proof.Machine.execTurboEnc e n s
  | .crcJob e n => Sys2Proof.Machine.execCrcJob e n s
  | .kilnHandleWaitEnd e => Sys2Proof.Machine.execKilnHandleWaitEnd e s
  | .kilnCheckpointLapse e staged wb => Sys2Proof.Machine.execKilnCheckpointLapse e staged wb s
  | .kilnJobEnd e staged recordOk => Sys2Proof.Machine.execKilnJobEnd e staged recordOk s
  | .kilnSweep group wtag wb => Sys2Proof.Machine.execKilnSweep group wtag wb s
  | .kilnAbort slot wb => Sys2Proof.Machine.execKilnAbort slot wb s
  | .kilnBusError e => Sys2Proof.Machine.execKilnBusError e s
  | .kilnHarqOpen v => Sys2Proof.Machine.execKilnHarqOpen v s
  | .kilnHarqClose v => Sys2Proof.Machine.execKilnHarqClose v s
  | .kilnHarqAreaWrite v => Sys2Proof.Machine.execKilnHarqAreaWrite v s
  | .workshopEngEnWrite w v => Sys2Proof.Machine.execWorkshopEngEnWrite w v s
  | .wheelFwd e n => Sys2Proof.Machine.execWheelFwd e n s
  | .wheelInv e n => Sys2Proof.Machine.execWheelInv e n s
  | .wheelCorr e n => Sys2Proof.Machine.execWheelCorr e n s
  | .ulWeights e n => Sys2Proof.Machine.execUlWeights e n s
  | .ulDetect e n => Sys2Proof.Machine.execUlDetect e n s
  | .dlWeights e n => Sys2Proof.Machine.execDlWeights e n s
  | .wheelMillCheckpointLapse mill e staged => Sys2Proof.Machine.execWheelMillCheckpointLapse mill e staged s
  | .wheelMillJobEnd mill e staged recordOk => Sys2Proof.Machine.execWheelMillJobEnd mill e staged recordOk s
  | .wheelMillSweep mill group wtag => Sys2Proof.Machine.execWheelMillSweep mill group wtag s
  | .wheelMillAbort slot => Sys2Proof.Machine.execWheelMillAbort slot s
  | .wheelMillBusError mill e => Sys2Proof.Machine.execWheelMillBusError mill e s
  | .sieveStart c => Sys2Proof.Machine.execSieveStart c s
  | .sieveStop c => Sys2Proof.Machine.execSieveStop c s
  | .sieveSwap c v => Sys2Proof.Machine.execSieveSwap c v s
  | .forceGuard c => Sys2Proof.Machine.execForceGuard c s
  | .leaveGuard c => Sys2Proof.Machine.execLeaveGuard c s
  | .sieveChannelRun c => Sys2Proof.Machine.execSieveChannelRun c s
  | .sieveChannelCease c => Sys2Proof.Machine.execSieveChannelCease c s
  | .sieveBlockArrival kind port c sfn n x => Sys2Proof.Machine.execSieveBlockArrival kind port c sfn n x s
  | .sieveInputTimeout c => Sys2Proof.Machine.execSieveInputTimeout c s
  | .sieveBellMark c => Sys2Proof.Machine.execSieveBellMark c s
  | .sieveFadeEnd c => Sys2Proof.Machine.execSieveFadeEnd c s
  | .sieveGuardReturn c => Sys2Proof.Machine.execSieveGuardReturn c s
  | .sieveCoefWrite c bank j v => Sys2Proof.Machine.execSieveCoefWrite c bank j v s
  | .sieveDelayWrite c v => Sys2Proof.Machine.execSieveDelayWrite c v s
  | .sieveDelayApply c => Sys2Proof.Machine.execSieveDelayApply c s
  | .sieveGuardCfgWrite c v => Sys2Proof.Machine.execSieveGuardCfgWrite c v s
  | .sieveBurstWrite c => Sys2Proof.Machine.execSieveBurstWrite c s
  | .sieveBurstAck c => Sys2Proof.Machine.execSieveBurstAck c s
  | .sieveBurstLate c => Sys2Proof.Machine.execSieveBurstLate c s
  | .sieveSweep group wtag => Sys2Proof.Machine.execSieveSweep group wtag s
  | .sieveUpReady c v => Sys2Proof.Machine.execSieveUpReady c v s
  | .sieveUpOutputRequest c => Sys2Proof.Machine.execSieveUpOutputRequest c s
  | .sieveUpBurstSkip c => Sys2Proof.Machine.execSieveUpBurstSkip c s
  | .memoryRead mid addr n wait via => Sys2Proof.Machine.execMemoryRead mid addr n wait via s
  | .memoryWrite r other => Sys2Proof.Machine.execMemoryWrite r other s
  | .rmwWrite r other => Sys2Proof.Machine.execRmwWrite r other s
  | .granaryBankPowerRequest bank v => Sys2Proof.Machine.execGranaryBankPowerRequest bank v s
  | .granaryBankTransitionEnd bank => Sys2Proof.Machine.execGranaryBankTransitionEnd bank s
  | .granaryBankFillEnd bank checkerOk => Sys2Proof.Machine.execGranaryBankFillEnd bank checkerOk s
  | .granaryPoolEnable pool v => Sys2Proof.Machine.execGranaryPoolEnable pool v s
  | .granaryPoolDisable pool v => Sys2Proof.Machine.execGranaryPoolDisable pool v s
  | .granaryPoolTake pool => Sys2Proof.Machine.execGranaryPoolTake pool s
  | .granaryPoolRelease pool token => Sys2Proof.Machine.execGranaryPoolRelease pool token s
  | .poolSweepReturn group wtag => Sys2Proof.Machine.execPoolSweepReturn group wtag s
  | .poolFault pool => Sys2Proof.Machine.execPoolFault pool s
  | .eccInject v => Sys2Proof.Machine.execEccInject v s
  | .ecclogPop => Sys2Proof.Machine.execEcclogPop s
  | .ecclogFlush v => Sys2Proof.Machine.execEcclogFlush v s
  | .harrowStart v checkerOk => Sys2Proof.Machine.execHarrowStart v checkerOk s
  | .harrowTestEnd fails => Sys2Proof.Machine.execHarrowTestEnd fails s
  | .gleanerRegionStart mem inst faults stop => Sys2Proof.Machine.execGleanerRegionStart mem inst faults stop s
  | .gleanerYield mem inst mid => Sys2Proof.Machine.execGleanerYield mem inst mid s
  | .packetInject ni q => Sys2Proof.Machine.execPacketInject ni q s
  | .routerHeadArrival k => Sys2Proof.Machine.execRouterHeadArrival k s
  | .packetEject k => Sys2Proof.Machine.execPacketEject k s
  | .answerArrival k => Sys2Proof.Machine.execAnswerArrival k s
  | .targetTimeout r l => Sys2Proof.Machine.execTargetTimeout r l s
  | .portRevive r p => Sys2Proof.Machine.execPortRevive r p s
  | .portClose r p => Sys2Proof.Machine.execPortClose r p s
  | .portDrained r l => Sys2Proof.Machine.execPortDrained r l s
  | .portOpen r p => Sys2Proof.Machine.execPortOpen r p s
  | .portDisable r p v => Sys2Proof.Machine.execPortDisable r p v s
  | .portDisableComplete r p => Sys2Proof.Machine.execPortDisableComplete r p s
  | .portEnable r p => Sys2Proof.Machine.execPortEnable r p s
  | .routeEntryStage n d b v => Sys2Proof.Machine.execRouteEntryStage n d b v s
  | .routeAdvance => Sys2Proof.Machine.execRouteAdvance s
  | .routeDiscardStage => Sys2Proof.Machine.execRouteDiscardStage s
  | .barrierArrive b ni => Sys2Proof.Machine.execBarrierArrive b ni s
  | .barrierRelease b parish => Sys2Proof.Machine.execBarrierRelease b parish s
  | .barrierBcast b v => Sys2Proof.Machine.execBarrierBcast b v s
  | .probePop k => Sys2Proof.Machine.execProbePop k s
  | .tallySnapArm v bcast => Sys2Proof.Machine.execTallySnapArm v bcast s
  | .tallySnapshotCapture => Sys2Proof.Machine.execTallySnapshotCapture s
  | .tallyReadoutEnd leftOut => Sys2Proof.Machine.execTallyReadoutEnd leftOut s
  | .tallyReadoutError remote => Sys2Proof.Machine.execTallyReadoutError remote s
  | .tallyPeek v => Sys2Proof.Machine.execTallyPeek v s
  | .tallyPeekValues => Sys2Proof.Machine.execTallyPeekValues s
  | .tallyFault id place ret => Sys2Proof.Machine.execTallyFault id place ret s
  | .tallyVoteCorrect id place ret => Sys2Proof.Machine.execTallyVoteCorrect id place ret s
  | .carterStartLoose g v => Sys2Proof.Machine.execCarterStartLoose g v s
  | .carterStartPlanned g v => Sys2Proof.Machine.execCarterStartPlanned g v s
  | .carterStop g => Sys2Proof.Machine.execCarterStop g s
  | .carterDescFetch g => Sys2Proof.Machine.execCarterDescFetch g s
  | .carterBurst g => Sys2Proof.Machine.execCarterBurst g s
  | .carterBurstAnswer g b a => Sys2Proof.Machine.execCarterBurstAnswer g b a s
  | .carterDescDeadlineLapse g => Sys2Proof.Machine.execCarterDescDeadlineLapse g s
  | .carterDescEnd g => Sys2Proof.Machine.execCarterDescEnd g s
  | .carterChainHalt g => Sys2Proof.Machine.execCarterChainHalt g s
  | .carterRunEnd g => Sys2Proof.Machine.execCarterRunEnd g s
  | .carterSweep group wtag => Sys2Proof.Machine.execCarterSweep group wtag s
  | .carterResultTake g wide => Sys2Proof.Machine.execCarterResultTake g wide s
  | .quadCfgWrite q v => Sys2Proof.Machine.execQuadCfgWrite q v s
  | .laneCfgWrite l v => Sys2Proof.Machine.execLaneCfgWrite l v s
  | .ewlEnable k v => Sys2Proof.Machine.execEwlEnable k v s
  | .ewlDisable k v => Sys2Proof.Machine.execEwlDisable k v s
  | .ewlBlockReceive l hdr raw fullBuf => Sys2Proof.Machine.execEwlBlockReceive l hdr raw fullBuf s
  | .blockLockGain l => Sys2Proof.Machine.execBlockLockGain l s
  | .blockLockLoss l => Sys2Proof.Machine.execBlockLockLoss l s
  | .markerReceive l payload skew => Sys2Proof.Machine.execMarkerReceive l payload skew s
  | .markerLockLoss l => Sys2Proof.Machine.execMarkerLockLoss l s
  | .ewlLinkDown k => Sys2Proof.Machine.execEwlLinkDown k s
  | .ewlSilent k => Sys2Proof.Machine.execEwlSilent k s
  | .markerSend k bips => Sys2Proof.Machine.execMarkerSend k bips s
  | .chaffSend k => Sys2Proof.Machine.execChaffSend k s
  | .chaffInsert k => Sys2Proof.Machine.execChaffInsert k s
  | .ewlFlitReceive k f => Sys2Proof.Machine.execEwlFlitReceive k f s
  | .ewlCreditReceive k payload => Sys2Proof.Machine.execEwlCreditReceive k payload s
  | .ewlRequestTimeout n => Sys2Proof.Machine.execEwlRequestTimeout n s
  | .ewlMemberRevive d => Sys2Proof.Machine.execEwlMemberRevive d s
  | .ewlTimeReceive k payload => Sys2Proof.Machine.execEwlTimeReceive k payload s
  | .ewlStreamReceive k payload x => Sys2Proof.Machine.execEwlStreamReceive k payload x s
  | .ewlStreamSend st => Sys2Proof.Machine.execEwlStreamSend st s
  | .prbsCheckLock l bits => Sys2Proof.Machine.execPrbsCheckLock l bits s
  | .marginStart l v => Sys2Proof.Machine.execMarginStart l v s
  | .marginEnd l n => Sys2Proof.Machine.execMarginEnd l n s
  | .laneRecal l => Sys2Proof.Machine.execLaneRecal l s
  | .laneRecalEnd l => Sys2Proof.Machine.execLaneRecalEnd l s
  | .marketPortEnable p v => Sys2Proof.Machine.execMarketPortEnable p v s
  | .marketPortRetrain p v => Sys2Proof.Machine.execMarketPortRetrain p v s
  | .trainingComplete p => Sys2Proof.Machine.execTrainingComplete p s
  | .trainingTimeout p => Sys2Proof.Machine.execTrainingTimeout p s
  | .pcsLock p => Sys2Proof.Machine.execPcsLock p s
  | .pcsLockLoss p => Sys2Proof.Machine.execPcsLockLoss p s
  | .frameReceive p f => Sys2Proof.Machine.execFrameReceive p f s
  | .landingWritesAnswered n => Sys2Proof.Machine.execLandingWritesAnswered n s
  | .notifyDeadline g w nset sym => Sys2Proof.Machine.execNotifyDeadline g w nset sym s
  | .landingQueuePush q => Sys2Proof.Machine.execLandingQueuePush q s
  | .lqConsWrite q v => Sys2Proof.Machine.execLqConsWrite q v s
  | .streamTxBurst st => Sys2Proof.Machine.execStreamTxBurst st s
  | .egressOpen g w index => Sys2Proof.Machine.execEgressOpen g w index s
  | .marketTxReady v => Sys2Proof.Machine.execMarketTxReady v s
  | .egressStart p => Sys2Proof.Machine.execEgressStart p s
  | .egressWithhold g w index => Sys2Proof.Machine.execEgressWithhold g w index s
  | .frameDeparture p => Sys2Proof.Machine.execFrameDeparture p s
  | .marketTxqPush t v => Sys2Proof.Machine.execMarketTxqPush t v s
  | .hostFrameSend t => Sys2Proof.Machine.execHostFrameSend t s
  | .marketTsPop p v => Sys2Proof.Machine.execMarketTsPop p v s
  | .marketTsCap3Read p => Sys2Proof.Machine.execMarketTsCap3Read p s
  | .marketPortStatusRead p => Sys2Proof.Machine.execMarketPortStatusRead p s
  | .marketSweep g w => Sys2Proof.Machine.execMarketSweep g w s
  | .synceSquelch k => Sys2Proof.Machine.execSynceSquelch k s
  | .pcieLinkUp speed width => Sys2Proof.Machine.execPcieLinkUp speed width s
  | .hostConfigRequest fn r => Sys2Proof.Machine.execHostConfigRequest fn r s
  | .hostMemoryRead fn bar off n ext => Sys2Proof.Machine.execHostMemoryRead fn bar off n ext s
  | .hostMemoryWrite fn bar off bytes ep o => Sys2Proof.Machine.execHostMemoryWrite fn bar off bytes ep o s
  | .hostDoorbellWrite fn d v bytes o => Sys2Proof.Machine.execHostDoorbellWrite fn d v bytes o s
  | .hostDbBindWrite fn d v => Sys2Proof.Machine.execHostDbBindWrite fn d v s
  | .hostFnWinWrite fn v => Sys2Proof.Machine.execHostFnWinWrite fn v s
  | .hostObMapWrite r hi v => Sys2Proof.Machine.execHostObMapWrite r hi v s
  | .outboundRequest addr q => Sys2Proof.Machine.execOutboundRequest addr q s
  | .outboundCompletion n c => Sys2Proof.Machine.execOutboundCompletion n c s
  | .outboundTimeout n => Sys2Proof.Machine.execOutboundTimeout n s
  | .hostInterruptSend src => Sys2Proof.Machine.execHostInterruptSend src s
  | .hcqFill src lost => Sys2Proof.Machine.execHcqFill src lost s
  | .hcqHeadWrite fn h v => Sys2Proof.Machine.execHcqHeadWrite fn h v s
  | .functionLevelReset fn vfs => Sys2Proof.Machine.execFunctionLevelReset fn vfs s
  | .pf2VfEnable => Sys2Proof.Machine.execPf2VfEnable s
  | .pf2VfPresent v => Sys2Proof.Machine.execPf2VfPresent v s
  | .pf2WindowExpiry v => Sys2Proof.Machine.execPf2WindowExpiry v s
  | .perstAssert => Sys2Proof.Machine.execPerstAssert s
  | .coppiceLoadBegin => Sys2Proof.Machine.execCoppiceLoadBegin s
  | .coppiceLoadEnd => Sys2Proof.Machine.execCoppiceLoadEnd s
  | .coppiceLoadAbort => Sys2Proof.Machine.execCoppiceLoadAbort s
  | .coppiceCfgDataWrite mid bytes whole => Sys2Proof.Machine.execCoppiceCfgDataWrite mid bytes whole s
  | .coppiceEraseEnd => Sys2Proof.Machine.execCoppiceEraseEnd s
  | .coppiceFrameWrite => Sys2Proof.Machine.execCoppiceFrameWrite s
  | .coppiceLoadTimeout => Sys2Proof.Machine.execCoppiceLoadTimeout s
  | .coppiceTrailerCheck => Sys2Proof.Machine.execCoppiceTrailerCheck s
  | .coppiceSignatureVerified => Sys2Proof.Machine.execCoppiceSignatureVerified s
  | .coppiceRelease => Sys2Proof.Machine.execCoppiceRelease s
  | .stoolQuiesce k => Sys2Proof.Machine.execStoolQuiesce k s
  | .stoolOpen k => Sys2Proof.Machine.execStoolOpen k s
  | .stoolClear k => Sys2Proof.Machine.execStoolClear k s
  | .stoolUserReset k => Sys2Proof.Machine.execStoolUserReset k s
  | .stoolDrainEnd k => Sys2Proof.Machine.execStoolDrainEnd k s
  | .stoolClearEnd k => Sys2Proof.Machine.execStoolClearEnd k s
  | .stoolRequestTimeout p => Sys2Proof.Machine.execStoolRequestTimeout p s
  | .stoolRequestCheck k store addr n => Sys2Proof.Machine.execStoolRequestCheck k store addr n s
  | .stoolBlockTimeout k => Sys2Proof.Machine.execStoolBlockTimeout k s
  | .stoolIrqEdge k line => Sys2Proof.Machine.execStoolIrqEdge k line s
  | .uclkCfgWrite k v => Sys2Proof.Machine.execUclkCfgWrite k v s
  | .uclkLocked k => Sys2Proof.Machine.execUclkLocked k s
  | .coppiceReadbackSelect v => Sys2Proof.Machine.execCoppiceReadbackSelect v s
  | .strongQProdWrite mid q v => Sys2Proof.Machine.execStrongQProdWrite mid q v s
  | .strongDescriptorEnd q => Sys2Proof.Machine.execStrongDescriptorEnd q s
  | .digest q => Sys2Proof.Machine.execDigest q s
  | .hmac q => Sys2Proof.Machine.execHmac q s
  | .gcmEnc q => Sys2Proof.Machine.execGcmEnc q s
  | .gcmDec q => Sys2Proof.Machine.execGcmDec q s
  | .ecdsaSign q => Sys2Proof.Machine.execEcdsaSign q s
  | .ecdsaVerify q => Sys2Proof.Machine.execEcdsaVerify q s
  | .ecdh q pairOk => Sys2Proof.Machine.execEcdh q pairOk s
  | .keygen q pairOk => Sys2Proof.Machine.execKeygen q pairOk s
  | .kdf q pairOk => Sys2Proof.Machine.execKdf q pairOk s
  | .wrap q => Sys2Proof.Machine.execWrap q s
  | .unwrap q pairOk => Sys2Proof.Machine.execUnwrap q pairOk s
  | .random q => Sys2Proof.Machine.execRandom q s
  | .keyDestroy q => Sys2Proof.Machine.execKeyDestroy q s
  | .macsecInstall q => Sys2Proof.Machine.execMacsecInstall q s
  | .pdcpKeyLoad q => Sys2Proof.Machine.execPdcpKeyLoad q s
  | .pdcp q => Sys2Proof.Machine.execPdcp q s
  | .verifyImage q => Sys2Proof.Machine.execVerifyImage q s
  | .authCo q => Sys2Proof.Machine.execAuthCo q s
  | .bindQueue q => Sys2Proof.Machine.execBindQueue q s
  | .setMode q => Sys2Proof.Machine.execSetMode q s
  | .zeroize q => Sys2Proof.Machine.execZeroize q s
  | .revoke q => Sys2Proof.Machine.execRevoke q s
  | .rollback q => Sys2Proof.Machine.execRollback q s
  | .newChallenge v => Sys2Proof.Machine.execNewChallenge v s
  | .challengeExpiry => Sys2Proof.Machine.execChallengeExpiry s
  | .debugResponseSubmit v => Sys2Proof.Machine.execDebugResponseSubmit v s
  | .zeroizePin => Sys2Proof.Machine.execZeroizePin s
  | .zeroizationComplete => Sys2Proof.Machine.execZeroizationComplete s
  | .strongRestart mid v => Sys2Proof.Machine.execStrongRestart mid v s
  | .strongSelftestEnd failed => Sys2Proof.Machine.execStrongSelftestEnd failed s
  | .entropyHealthFail => Sys2Proof.Machine.execEntropyHealthFail s
  | .resetNRelease straps fast => Sys2Proof.Machine.execResetNRelease straps fast s
  | .fuseReadEnd fault bad => Sys2Proof.Machine.execFuseReadEnd fault bad s
  | .poweronHarrowEnd rows checkers => Sys2Proof.Machine.execPoweronHarrowEnd rows checkers s
  | .poweronFillEnd => Sys2Proof.Machine.execPoweronFillEnd s
  | .lbistEnd blocks bad => Sys2Proof.Machine.execLbistEnd blocks bad s
  | .flashSlotReadEnd bytes => Sys2Proof.Machine.execFlashSlotReadEnd bytes s
  | .bootImageVerify => Sys2Proof.Machine.execBootImageVerify s
  | .hbmTrainingEnd stack repairs => Sys2Proof.Machine.execHbmTrainingEnd stack repairs s
  | .cellarFillEnd => Sys2Proof.Machine.execCellarFillEnd s
  | .bootTimeout => Sys2Proof.Machine.execBootTimeout s
  | .hearthRelease mid v => Sys2Proof.Machine.execHearthRelease mid v s
  | .hearthCrierEnter mid v => Sys2Proof.Machine.execHearthCrierEnter mid v s
  | .hearthLockstepMismatch => Sys2Proof.Machine.execHearthLockstepMismatch s
  | .crierEntry => Sys2Proof.Machine.execCrierEntry s
  | .crierUartLine => Sys2Proof.Machine.execCrierUartLine s
  | .i2cWrite bytes => Sys2Proof.Machine.execI2cWrite bytes s
  | .i2cRead n cut => Sys2Proof.Machine.execI2cRead n cut s
  | .i2cSclTimeout => Sys2Proof.Machine.execI2cSclTimeout s
  | .hearthRcvDataWrite off bytes whole => Sys2Proof.Machine.execHearthRcvDataWrite off bytes whole s
  | .recoveryReboot v => Sys2Proof.Machine.execRecoveryReboot v s
  | .spareTake h v => Sys2Proof.Machine.execSpareTake h v s
  | .spareTakeoverDone h => Sys2Proof.Machine.execSpareTakeoverDone h s
  | .hearthReadmit mid v => Sys2Proof.Machine.execHearthReadmit mid v s
  | .ucodeLoad w e v => Sys2Proof.Machine.execUcodeLoad w e v s
  | .ucodeLoadEnd w e => Sys2Proof.Machine.execUcodeLoadEnd w e s
  | .hearthHandover mid v => Sys2Proof.Machine.execHearthHandover mid v s
  | .handoverEnd => Sys2Proof.Machine.execHandoverEnd s
  | .pwrDomOn mid d v => Sys2Proof.Machine.execPwrDomOn mid d v s
  | .pwrDomOff mid d v => Sys2Proof.Machine.execPwrDomOff mid d v s
  | .pwrHoldRedecide d => Sys2Proof.Machine.execPwrHoldRedecide d s
  | .powerDown d => Sys2Proof.Machine.execPowerDown d s
  | .powerUpComplete d checkerOk => Sys2Proof.Machine.execPowerUpComplete d checkerOk s
  | .hearthDevreset mid v => Sys2Proof.Machine.execHearthDevreset mid v s
  | .timedResetInstant acked => Sys2Proof.Machine.execTimedResetInstant acked s
  | .unitResetHamletCore v => Sys2Proof.Machine.execUnitResetHamletCore v s
  | .unitResetHallCore mid v => Sys2Proof.Machine.execUnitResetHallCore mid v s
  | .unitResetCellar v => Sys2Proof.Machine.execUnitResetCellar v s
  | .unitResetDone => Sys2Proof.Machine.execUnitResetDone s
  | .throttleUpdate milliwatts => Sys2Proof.Machine.execThrottleUpdate milliwatts s
  | .tempSensorUpdate n t => Sys2Proof.Machine.execTempSensorUpdate n t s
  | .thermalTrip stack => Sys2Proof.Machine.execThermalTrip stack s
  | .internalColdReset => Sys2Proof.Machine.execInternalColdReset s
  | .resetNPulse cool => Sys2Proof.Machine.execResetNPulse cool s
  | .reeveTapPop => Sys2Proof.Machine.execReeveTapPop s
  | .traceExport src => Sys2Proof.Machine.execTraceExport src s
  | .traceWriteError src status => Sys2Proof.Machine.execTraceWriteError src status s
  | .hearthEventEntry => Sys2Proof.Machine.execHearthEventEntry s
  | .hearthEvtPop mid => Sys2Proof.Machine.execHearthEvtPop mid s
  | .telemetrySample milliwatts => Sys2Proof.Machine.execTelemetrySample milliwatts s
  | .jtagExtest shifted pins => Sys2Proof.Machine.execJtagExtest shifted pins s
  | .jtagSamplePreload shifted pins => Sys2Proof.Machine.execJtagSamplePreload shifted pins s
  | .jtagIdcode => Sys2Proof.Machine.execJtagIdcode s
  | .jtagClamp => Sys2Proof.Machine.execJtagClamp s
  | .jtagHighz => Sys2Proof.Machine.execJtagHighz s
  | .jtagBypass code => Sys2Proof.Machine.execJtagBypass code s
  | .jtagDbgRead a => Sys2Proof.Machine.execJtagDbgRead a s
  | .jtagDbgWrite a v => Sys2Proof.Machine.execJtagDbgWrite a v s
  | .jtagDbgAccessDone given o => Sys2Proof.Machine.execJtagDbgAccessDone given o s
  | .dbgHaltReq core => Sys2Proof.Machine.execDbgHaltReq core s
  | .dbgResume core => Sys2Proof.Machine.execDbgResume core s
  | .dbgStep core => Sys2Proof.Machine.execDbgStep core s
  | .dbgRegRead core v => Sys2Proof.Machine.execDbgRegRead core v s
  | .dbgRegWrite core v => Sys2Proof.Machine.execDbgRegWrite core v s
  | .dpllForceHold v => Sys2Proof.Machine.execDpllForceHold v s
  | .zeroizeNRelease => Sys2Proof.Machine.execZeroizeNRelease s
  | .pcieLinkDown => Sys2Proof.Machine.execPcieLinkDown s
  | .requesterCompletionTimeout n => Sys2Proof.Machine.execRequesterCompletionTimeout n s
  | .cellarStackTempReport stack t => Sys2Proof.Machine.execCellarStackTempReport stack t s

end Sys2Proof.Machine
end

