-- ==== Sys2Proof/Machine/Frame.lean ====
section
/-! DEFINITION. Machine/Frame.lean: the parts of the state, and what it is for a state to differ from another in some of
them only.
Choices of the model: log entries 73 (DESIGN CHOICE). -/

namespace Sys2Proof.Machine

/-- A part of the state: a field of it, with the memory (`mem`) apart from the rest of `ms`. -/
inductive Part where
  | pending | regs | ans | hallIrq | hostIrq | sent | free | stp | cores | querns | reeve | ws | sv | mem
  | ms | net | tally | crt | ewl | mkt | host | cop | strong | boot | pins | hml | pwr | dbg
deriving DecidableEq, Repr

/-- Part `p` is the same in both states. -/
def Part.same (p : Part) (s t : State) : Prop :=
  match p with
  | .pending => t.pending = s.pending
  | .regs => t.regs = s.regs
  | .ans => t.ans = s.ans
  | .hallIrq => t.hallIrq = s.hallIrq
  | .hostIrq => t.hostIrq = s.hostIrq
  | .sent => t.sent = s.sent
  | .free => t.free = s.free
  | .stp => t.stp = s.stp
  | .cores => t.cores = s.cores
  | .querns => t.querns = s.querns
  | .reeve => t.reeve = s.reeve
  | .ws => t.ws = s.ws
  | .sv => t.sv = s.sv
  | .mem => t.ms.mem = s.ms.mem
  | .ms => t.ms = { s.ms with mem := t.ms.mem }
  | .net => t.net = s.net
  | .tally => t.tally = s.tally
  | .crt => t.crt = s.crt
  | .ewl => t.ewl = s.ewl
  | .mkt => t.mkt = s.mkt
  | .host => t.host = s.host
  | .cop => t.cop = s.cop
  | .strong => t.strong = s.strong
  | .boot => t.boot = s.boot
  | .pins => t.pins = s.pins
  | .hml => t.hml = s.hml
  | .pwr => t.pwr = s.pwr
  | .dbg => t.dbg = s.dbg

/-- `t` differs from `s` in the listed parts only. -/
def only (l : List Part) (s t : State) : Prop := ∀ p, p ∉ l → p.same s t

end Sys2Proof.Machine
end

