-- ==== Sys2Proof/Safety.lean ====
section
/-! DEFINITION. Safety.lean: what counts as a run of the block that nothing stops. -/

namespace Sys2Proof

/-- The step from `s` answers a next state. -/
def Machine.State.goesOn (s : Machine.State) : Prop := ∃ t, Machine.step s = .next t

end Sys2Proof
end

