-- ==== Sys2Proof/WellFormed.lean ====
section
/-! DEFINITION. WellFormed.lean: the commands whose operands fit the forms that the spec gives them. Every operand has a type
that holds its range, but for the head of a packet, whose fields bear on one another (R373, R375). -/

namespace Sys2Proof

/-- A command is well formed. -/
def Instr.wf (i : Instr) : Bool :=
  match i with
  | .packetInject _ q => Machine.packetFormed q
  | _ => true

end Sys2Proof
end

