-- ==== Sys2Proof/Certificates/Slice0/Obligations.lean ====
section
/-! DEFINITION. Certificates/Slice0/Obligations.lean: the statements for the provers. `∃ t, exec c s = .next t ∧ …` says that
command `c` completes from `s` and what the state after it holds. The frames are: for every command, the parts of the state
it may change (`Claims.partsOf`; what is not `mem` leaves every byte of memory), and, at a command, the registers it may
change (`sameRegs`). -/

namespace Sys2Proof.Claims
open Machine

/-- The registers of `t` differ from those of `s` in the listed fields only. -/
def sameRegs (s t : State) (l : List Fld) : Prop := ∀ f : Fld, (∀ x ∈ l, f.key ≠ x.key) → t.rd f = s.rd f

/-- Every byte of memory of `t`, and every check byte, is that of `s` outside the storage addresses that `p` names. -/
def sameMemory (s t : State) (p : Nat → Prop) : Prop :=
  ∀ a, ¬ p a → t.ms.mem.data.get a = s.ms.mem.data.get a ∧ t.ms.mem.check.get a = s.ms.mem.check.get a

/-- The answer of an accepted write. -/
def acked : Answer := ⟨.ok, 0, []⟩

/-- ABORTED with ERR_CAUSE `c`. -/
def abortedBy (c : Nat) : Answer := ⟨.aborted, c, []⟩

end Sys2Proof.Claims

section

open Sys2Proof Sys2Proof.Machine Sys2Proof.Claims

/-! ## The block as a whole -/

namespace Sys2Proof.Claims
open Machine

/-- Every part but the queue. -/
def every : List Part := [.regs, .ans, .hallIrq, .hostIrq, .sent, .free, .stp, .cores, .querns, .reeve, .ws, .sv, .mem, .ms, .net, .tally, .crt, .ewl,
  .mkt, .host, .cop, .strong, .boot, .pins, .hml, .pwr, .dbg]

/-- The parts of the state that a command may change; no command changes the queue. A register write may perform the
command of the register's own chapter, and a device reset changes everything. -/
def partsOf (c : Instr) : List Part :=
  match c with
  | .atomicToRegister .. | .lgStartStopBoth .. => [.ans]
  | .bootTimeout | .hearthLockstepMismatch | .i2cWrite .. | .i2cSclTimeout => [.boot]
  | .tickCompareMatch .. | .softwareInterrupt .. => [.cores]
  | .jtagExtest .. | .jtagSamplePreload .. | .jtagIdcode | .jtagClamp | .jtagHighz | .jtagBypass .. | .jtagDbgRead .. | .jtagDbgWrite .. => [.dbg]
  | .requesterCompletionTimeout .. => [.host]
  | .tddSwapApply .. | .imemFlipArm .. | .imemFlipDisarm .. | .imemFlipApply .. | .evFlagsClear .. | .reeveCompatWrite .. | .kilnHarqAreaWrite ..
  | .workshopEngEnWrite .. | .sieveCoefWrite .. | .sieveUpReady .. | .portRevive .. | .portDrained .. | .portDisableComplete .. | .portEnable ..
  | .tallyVoteCorrect .. | .quadCfgWrite .. | .ewlSilent .. | .chaffInsert .. | .ewlMemberRevive .. | .marginStart .. | .marginEnd ..
  | .laneRecalEnd .. | .trainingComplete .. | .trainingTimeout .. | .pcsLockLoss .. | .synceSquelch .. | .pcieLinkUp .. | .pf2VfPresent ..
  | .pf2WindowExpiry .. | .stoolQuiesce .. | .stoolOpen .. | .stoolClear .. | .stoolDrainEnd .. | .tempSensorUpdate .. | .traceWriteError ..
  | .zeroizeNRelease | .pcieLinkDown | .cellarStackTempReport .. => [.regs]
  | .chaffSend .. => [.sent]
  | .ppsOutPulse .. => [.stp]
  | .hearthCrierEnter .. => [.ans, .boot]
  | .dbgStep .. => [.ans, .cores]
  | .reeveSubmitResultTake .. => [.ans, .reeve]
  | .stoolIrqEdge .. => [.hallIrq, .hostIrq]
  | .bellEdge .. => [.hallIrq, .stp]
  | .hostInterruptSend .. => [.hostIrq, .sent]
  | .steepleLatch | .marketPortEnable .. | .marketPortRetrain .. | .lqConsWrite .. | .marketTsCap3Read .. | .marketPortStatusRead ..
  | .hostDbBindWrite .. | .hostFnWinWrite .. | .hostObMapWrite .. | .stoolRequestCheck .. | .uclkCfgWrite .. | .coppiceReadbackSelect ..
  | .strongQProdWrite .. | .ucodeLoad .. | .pwrDomOn .. | .dbgRegRead .. => [.regs, .ans]
  | .resetNRelease .. | .hbmTrainingEnd .. => [.regs, .boot]
  | .coppiceLoadBegin | .stoolUserReset .. => [.regs, .cop]
  | .carterStartLoose .. | .carterStartPlanned .. | .carterStop .. | .carterBurst .. | .carterDescDeadlineLapse .. | .carterChainHalt ..
  | .carterSweep .. => [.regs, .crt]
  | .hearthEventEntry => [.regs, .dbg]
  | .laneCfgWrite .. | .ewlEnable .. | .ewlDisable .. | .ewlBlockReceive .. | .blockLockGain .. | .blockLockLoss .. | .markerReceive ..
  | .markerLockLoss .. | .ewlTimeReceive .. | .ewlStreamReceive .. | .prbsCheckLock .. | .laneRecal .. => [.regs, .ewl]
  | .hcqHeadWrite .. | .functionLevelReset .. | .pf2VfEnable | .perstAssert => [.regs, .host]
  | .cellarFillEnd => [.regs, .mem]
  | .portClose .. | .portOpen .. | .portDisable .. | .routeAdvance | .routeDiscardStage | .probePop .. => [.regs, .net]
  | .pwrHoldRedecide .. => [.regs, .pwr]
  | .reeveSubmitOutcome .. | .reportQueueFlush .. => [.regs, .reeve]
  | .lgActionBoundaryStart .. | .lgReturnIdle .. | .slotBoundary .. | .replicaResync .. | .captureEdge .. | .uclkLocked .. => [.regs, .stp]
  | .challengeExpiry | .zeroizationComplete => [.regs, .strong]
  | .sieveStart .. | .sieveStop .. | .sieveSwap .. | .forceGuard .. | .leaveGuard .. | .sieveChannelRun .. | .sieveChannelCease ..
  | .sieveBlockArrival .. | .sieveInputTimeout .. | .sieveBellMark .. | .sieveFadeEnd .. | .sieveGuardReturn .. | .sieveDelayWrite ..
  | .sieveDelayApply .. | .sieveGuardCfgWrite .. => [.regs, .sv]
  | .tallySnapArm .. | .tallySnapshotCapture | .tallyPeek .. | .tallyPeekValues => [.regs, .tally]
  | .kilnHandleWaitEnd .. | .kilnBusError .. | .wheelMillCheckpointLapse .. | .wheelMillSweep .. | .wheelMillBusError .. => [.regs, .ws]
  | .crierUartLine | .i2cRead .. => [.sent, .boot]
  | .markerSend .. | .ewlCreditReceive .. => [.sent, .ewl]
  | .hostConfigRequest .. => [.sent, .host]
  | .ewlStreamSend .. => [.sent, .sv]
  | .outboundRequest .. => [.ans, .sent, .host]
  | .hearthHandover .. | .dbgHaltReq .. | .dbgResume .. | .dbgRegWrite .. => [.regs, .ans, .cores]
  | .carterResultTake .. => [.regs, .ans, .crt]
  | .reeveTapPop | .hearthEvtPop .. => [.regs, .ans, .dbg]
  | .outboundCompletion .. | .outboundTimeout .. => [.regs, .ans, .host]
  | .marketTxReady .. | .marketTsPop .. => [.regs, .ans, .mkt]
  | .granaryBankPowerRequest .. | .granaryPoolEnable .. | .granaryPoolDisable .. | .ecclogPop | .ecclogFlush .. => [.regs, .ans, .ms]
  | .routeEntryStage .. | .barrierArrive .. => [.regs, .ans, .net]
  | .pwrDomOff .. => [.regs, .ans, .pwr]
  | .residueClear .. | .reeveReportTake .. => [.regs, .ans, .reeve]
  | .lgStart .. | .lgTddSwap .. | .dpllSourceWrite .. | .bellCfgWrite .. | .capPop .. => [.regs, .ans, .stp]
  | .newChallenge .. | .strongRestart .. => [.regs, .ans, .strong]
  | .strongSelftestEnd .. => [.regs, .boot, .dbg]
  | .fuseReadEnd .. | .poweronHarrowEnd .. | .lbistEnd .. => [.regs, .boot, .hml]
  | .preemptSelect .. | .preemptWithdraw .. | .preemptedKillReentry .. | .overrunCoreRelease .. | .unitResetDone => [.regs, .cores, .reeve]
  | .barrierRelease .. | .barrierBcast .. => [.regs, .hallIrq, .net]
  | .coppiceEraseEnd | .stoolClearEnd .. => [.regs, .mem, .cop]
  | .granaryBankTransitionEnd .. => [.regs, .mem, .ms]
  | .zeroizePin => [.regs, .mkt, .strong]
  | .quernJobEnd .. => [.regs, .querns, .mem]
  | .wheelMillAbort .. => [.regs, .reeve, .ws]
  | .dpllPhaseUpdate .. | .dpllHoldoverEntry .. | .replicaLost .. => [.regs, .stp, .dbg]
  | .stoolBlockTimeout .. => [.regs, .sv, .mkt]
  | .spareTake .. => [.regs, .ans, .cores, .hml]
  | .debugResponseSubmit .. => [.regs, .ans, .mkt, .strong]
  | .steepleStep .. | .steeplePtpOffsetWrite .. | .dpllForceHold .. => [.regs, .ans, .stp, .dbg]
  | .itemResume .. => [.regs, .cores, .reeve, .dbg]
  | .coppiceRelease => [.regs, .hallIrq, .hostIrq, .cop]
  | .powerUpComplete .. => [.regs, .hallIrq, .ms, .dbg]
  | .throttleUpdate .. => [.regs, .hallIrq, .pwr, .dbg]
  | .sweepResidueReport .. => [.regs, .hallIrq, .stp, .reeve]
  | .poolFault .. => [.regs, .hallIrq, .tally, .dbg]
  | .poweronFillEnd => [.regs, .mem, .ms, .boot]
  | .entropyHealthFail => [.regs, .mkt, .strong, .dbg]
  | .unitResetHallCore .. => [.regs, .ans, .cores, .mem, .ms]
  | .hearthRelease .. | .hearthReadmit .. => [.regs, .ans, .cores, .reeve, .hml]
  | .harrowStart .. => [.regs, .ans, .hallIrq, .ms, .dbg]
  | .spareTakeoverDone .. => [.regs, .cores, .reeve, .mem, .hml]
  | .tallyFault .. => [.regs, .hallIrq, .free, .tally, .dbg]
  | .carterRunEnd .. => [.regs, .hallIrq, .hostIrq, .cores, .crt]
  | .coppiceLoadEnd | .coppiceLoadAbort | .coppiceFrameWrite | .coppiceLoadTimeout | .coppiceTrailerCheck | .coppiceSignatureVerified
    => [.regs, .hallIrq, .hostIrq, .mem, .cop]
  | .granaryBankFillEnd .. | .harrowTestEnd .. | .gleanerRegionStart .. | .gleanerYield .. | .tallyReadoutError .. | .ucodeLoadEnd ..
    => [.regs, .hallIrq, .mem, .ms, .dbg]
  | .poolSweepReturn .. => [.regs, .hallIrq, .ms, .tally, .dbg]
  | .routerHeadArrival .. | .targetTimeout .. | .stoolRequestTimeout .. => [.regs, .hallIrq, .net, .tally, .dbg]
  | .quernJobStart .. => [.regs, .hallIrq, .querns, .ms, .dbg]
  | .pcsLock .. | .egressOpen .. | .egressWithhold .. => [.regs, .hallIrq, .tally, .mkt, .dbg]
  | .kilnHarqOpen .. | .kilnHarqClose .. => [.regs, .hallIrq, .ws, .tally, .dbg]
  | .coppiceCfgDataWrite .. => [.regs, .ans, .hallIrq, .hostIrq, .mem, .cop]
  | .eccInject .. | .hearthRcvDataWrite .. => [.regs, .ans, .hallIrq, .mem, .ms, .dbg]
  | .granaryPoolTake .. | .granaryPoolRelease .. => [.regs, .ans, .hallIrq, .ms, .tally, .dbg]
  | .packetInject .. | .unitResetCellar .. => [.regs, .ans, .hallIrq, .net, .tally, .dbg]
  | .crierEntry => [.regs, .cores, .mem, .cop, .boot, .pins]
  | .loadAnswer .. | .storeAnswer .. => [.regs, .hallIrq, .cores, .mem, .ms, .dbg]
  | .telemetrySample .. => [.regs, .hallIrq, .hostIrq, .mem, .ms, .dbg]
  | .reportPostDeferred .. => [.regs, .hallIrq, .hostIrq, .reeve, .tally, .dbg]
  | .flashSlotReadEnd .. => [.regs, .hallIrq, .mem, .ms, .boot, .dbg]
  | .traceExport .. => [.regs, .hallIrq, .mem, .ms, .net, .dbg]
  | .digest .. | .hmac .. | .gcmEnc .. | .gcmDec .. | .ecdsaSign .. | .ecdsaVerify .. | .wrap .. | .random .. | .keyDestroy .. | .pdcpKeyLoad ..
  | .pdcp .. | .verifyImage .. | .authCo .. | .bindQueue .. | .setMode .. | .revoke .. | .rollback .. => [.regs, .hallIrq, .mem, .ms, .strong, .dbg]
  | .ewlLinkDown .. | .ewlRequestTimeout .. => [.regs, .hallIrq, .net, .tally, .ewl, .dbg]
  | .sieveBurstAck .. | .sieveBurstLate .. | .sieveSweep .. => [.regs, .hallIrq, .reeve, .sv, .tally, .dbg]
  | .notifyDeadline .. | .marketSweep .. => [.regs, .hallIrq, .reeve, .tally, .mkt, .dbg]
  | .tallyReadoutEnd .. => [.regs, .hallIrq, .sent, .mem, .ms, .dbg]
  | .lgActionBoundaryStop .. => [.regs, .hallIrq, .stp, .reeve, .tally, .dbg]
  | .sieveUpOutputRequest .. | .sieveUpBurstSkip .. => [.regs, .hallIrq, .sv, .mem, .ms, .dbg]
  | .streamTxBurst .. => [.regs, .hallIrq, .sv, .tally, .mkt, .dbg]
  | .kilnCheckpointLapse .. | .kilnSweep .. => [.regs, .hallIrq, .ws, .mem, .ms, .dbg]
  | .imemWrite .. | .memoryRead .. | .memoryWrite .. | .rmwWrite .. => [.regs, .ans, .hallIrq, .free, .mem, .ms, .dbg]
  | .marketTxqPush .. => [.regs, .ans, .hallIrq, .mem, .ms, .mkt, .dbg]
  | .lgStop .. | .planWithdraw .. => [.regs, .ans, .hallIrq, .stp, .reeve, .tally, .dbg]
  | .lapseHandlerOverrun .. => [.regs, .hallIrq, .cores, .querns, .reeve, .tally, .dbg]
  | .ldpcDec .. | .ldpcEnc .. | .polarDec .. | .polarEnc .. | .turboDec .. | .turboEnc .. | .crcJob .. | .wheelFwd .. | .wheelInv .. | .wheelCorr ..
  | .ulWeights .. | .ulDetect .. | .dlWeights .. => [.regs, .hallIrq, .free, .ws, .mem, .ms, .dbg]
  | .reeveDecr .. | .decrementArrival .. | .reeveAbort .. | .itemDispatch .. | .itemDeadlineLapse .. | .hardItemKill .. | .coreDoneArrival ..
  | .workshopEndStatus .. | .evSet .. => [.regs, .hallIrq, .hostIrq, .cores, .reeve, .tally, .dbg]
  | .strongDescriptorEnd .. => [.regs, .hallIrq, .hostIrq, .mem, .ms, .strong, .dbg]
  | .ecdh .. | .keygen .. | .kdf .. | .unwrap .. | .zeroize .. => [.regs, .hallIrq, .mem, .ms, .mkt, .strong, .dbg]
  | .carterDescFetch .. | .carterBurstAnswer .. => [.regs, .hallIrq, .mem, .ms, .tally, .crt, .dbg]
  | .egressStart .. | .hostFrameSend .. => [.regs, .hallIrq, .mem, .ms, .tally, .mkt, .dbg]
  | .landingWritesAnswered .. => [.regs, .hallIrq, .reeve, .ms, .tally, .mkt, .dbg]
  | .kilnAbort .. | .wheelMillJobEnd .. => [.regs, .hallIrq, .reeve, .ws, .mem, .ms, .dbg]
  | .frameDeparture .. => [.regs, .hallIrq, .sent, .ms, .tally, .mkt, .dbg]
  | .packetEject .. => [.regs, .hallIrq, .sent, .net, .tally, .ewl, .dbg]
  | .counterReadClear .. => [.regs, .ans, .hallIrq, .reeve, .ms, .tally, .crt, .dbg]
  | .answerArrival .. | .ewlFlitReceive .. => [.regs, .ans, .hallIrq, .sent, .net, .tally, .ewl, .dbg]
  | .bootImageVerify | .handoverEnd => [.regs, .hallIrq, .cores, .mem, .ms, .strong, .boot, .dbg]
  | .macsecInstall .. => [.regs, .hallIrq, .free, .mem, .ms, .mkt, .strong, .dbg]
  | .frameReceive .. => [.regs, .hallIrq, .free, .mem, .ms, .tally, .mkt, .dbg]
  | .reeveSubmitCmd .. => [.regs, .hallIrq, .hostIrq, .cores, .reeve, .ms, .tally, .dbg]
  | .landingQueuePush .. => [.regs, .hallIrq, .hostIrq, .mem, .ms, .tally, .mkt, .dbg]
  | .slotSweep .. => [.regs, .hallIrq, .hostIrq, .stp, .cores, .reeve, .tally, .dbg]
  | .sieveBurstWrite .. => [.regs, .hallIrq, .reeve, .sv, .mem, .ms, .tally, .dbg]
  | .kilnJobEnd .. => [.regs, .hallIrq, .reeve, .ws, .mem, .ms, .tally, .dbg]
  | .planArm .. => [.regs, .ans, .hallIrq, .free, .stp, .reeve, .ms, .tally, .dbg]
  | .unitResetHamletCore .. => [.regs, .ans, .hallIrq, .hostIrq, .cores, .querns, .reeve, .tally, .dbg]
  | .interruptTake .. => [.regs, .hallIrq, .hostIrq, .cores, .querns, .reeve, .tally, .boot, .dbg]
  | .carterDescEnd .. => [.regs, .hallIrq, .hostIrq, .cores, .reeve, .mem, .ms, .tally, .crt, .dbg]
  | .workshopJobHandoff .. => [.regs, .hallIrq, .hostIrq, .cores, .reeve, .ws, .mem, .ms, .tally, .dbg]
  | .hcqFill .. => [.regs, .ans, .hallIrq, .hostIrq, .sent, .reeve, .mem, .ms, .tally, .crt, .dbg]
  | .hostMemoryRead .. => [.regs, .ans, .hallIrq, .sent, .free, .reeve, .mem, .ms, .tally, .crt, .dbg]
  | .sheafIssue .. => [.regs, .hallIrq, .hostIrq, .cores, .querns, .reeve, .mem, .ms, .tally, .boot, .dbg]
  | .planCommit .. => [.regs, .hallIrq, .hostIrq, .stp, .cores, .reeve, .sv, .net, .tally, .crt, .mkt, .dbg]
  | .powerDown .. => [.regs, .stp, .cores, .querns, .reeve, .ws, .sv, .mem, .ms, .tally, .crt, .ewl, .mkt, .cop, .hml]
  | .registerWrite .. | .partialRegisterAccess .. | .hostMemoryWrite .. | .hostDoorbellWrite .. | .recoveryReboot .. | .hearthDevreset ..
  | .timedResetInstant .. | .thermalTrip .. | .internalColdReset | .resetNPulse .. | .jtagDbgAccessDone .. => every

/-- The canonical form of the memory and of the register file: addresses strictly rise, and nothing is listed that an unlisted
address reads as. -/
def canonical (s : State) : Prop := s.ms.mem.wf = true ∧ s.regs.tab.wf = true

end Sys2Proof.Claims

/-- The front command runs on the queue's rest. On an empty queue one tick of Steeple time passes: the model's choice (log entry
1), so no rule is cited for that clause. -/
def Obligations.StepRunsFrontCommand : Prop :=
  (∀ (s : State) (c : Instr) (rest : List Instr), s.pending = c :: rest → step s = exec c { s with pending := rest }) ∧
  (∀ (s : State), s.pending = [] → s.stp.slew = 0 → step s = .next { s with stp := { s.stp with now := s.stp.now + 4 * 65536 } }) ∧
  (∀ (s t : State), s.pending = [] → step s = .next t → t.pending = [] ∧ t.ms = s.ms ∧ t.cores = s.cores ∧ sameRegs s t [R.STEEPLE_STATUS_SLEWING])

/-- What reset leaves: the values of the register tables' Reset columns (the others read 0: log entry 2), empty memory, and the
canonical forms. -/
def Obligations.ResetState : Prop :=
  (∀ f : Fld, State.reset.rd f = f.reset % 2 ^ f.w) ∧
  (State.reset.rd R.STEEPLE_DPLL_CFG_HOLD_AVG = 60 ∧ State.reset.rd R.STEEPLE_SLEW_LIMIT_LIMIT_PPB = 100 ∧
    (∀ g < 64, State.reset.rd (R.LG_CFG_SWEEP_OFFSET g) = 2 ∧ ∀ b < 2, State.reset.rd (R.LG_TDD_CFG_PERIOD_SLOTS g b) = 1)) ∧
  (State.reset.rd R.REEVE_HAMLET_EN_EN = 0xFFFF ∧ ∀ h < 16, State.reset.rd (R.REEVE_CORE_EN_EN h) = 0xFF) ∧
  (State.reset.rd R.KILN_ENG_EN_EN = 0xFFFF ∧ State.reset.rd R.WHEEL_ENG_EN_EN = 0xFFFF ∧ State.reset.rd R.MILL_ENG_EN_EN = 0xFF) ∧
  (∀ c < 1024, State.reset.rd (R.SIEVE_CH_GUARD_AUTO c) = 1) ∧
  (State.reset.rd R.COMMONS_CTRL_AGE_SHIFT = 6 ∧ ∀ n < 256, State.reset.rd (R.COMMONS_NI_CFG_BASE_URG_C n) = 12) ∧
  (State.reset.rd R.TALLY_CTRL_IRQ_FAULT = 1 ∧ (∀ c < 64, State.reset.rd (R.CARTER_CH_CFG_LIMIT c) = 65536) ∧
    ∀ p < 32, State.reset.rd (R.MARKET_PORT_CFG_MAX_FRAME p) = 1518) ∧
  (State.reset.rd R.HOST_PF2_WINDOW_WINDOW_MS = 850 ∧ State.reset.rd R.COPPICE_LOAD_TIMEOUT_MS = 100 ∧ State.reset.rd R.HEARTH_THROTTLE_LIMIT_W = 135 ∧
    State.reset.rd R.HEARTH_BOOT_STATUS_STEP = 1 ∧ State.reset.rd R.HEARTH_BOOT_STATUS_BOOT_SLOT = 255) ∧
  State.reset.pending = [] ∧ State.reset.ms.mem = ⟨⟨[]⟩, ⟨[]⟩⟩ ∧ canonical State.reset

/-- Every step keeps the canonical forms of the memory and of the register file.
The model's choices that it rests on: log entry 12. -/
def Obligations.StepKeepsCanonicalForms : Prop := ∀ (s t : State), canonical s → step s = .next t → canonical t

/-- No well-formed command stops: each has its effect, or is answered, or is ignored, and the run goes on. An ill-formed packet
(R373, R375) is the only command that stops.
The model's choices that it rests on: log entry 10. -/
def Obligations.EveryWellFormedCommandCompletes : Prop :=
  (∀ (c : Instr) (s : State), c.wf = true → ∃ t, exec c s = .next t) ∧
  (∀ (ni : Fin 256) (q : PacketReq) (s : State), packetFormed q = false → exec (.packetInject ni q) s = .fault (.illFormed "PACKET_INJECT")) ∧
  (∀ (s : State), (∀ c ∈ s.pending, c.wf = true) → s.goesOn)

/-- The frame of every command: it changes the listed parts of the state only; where `mem` is not listed, every byte of memory
reads as before.
The model's choices that it rests on: log entry 7. -/
def Obligations.CommandFrames : Prop := ∀ (c : Instr) (s t : State), exec c s = .next t → only (partsOf c) s t

/-! ## The Steeple (02) -/

/-- R21, R22: the tick of a time and the order of tick values. -/
def Obligations.TickOfTimeAndHalfRangeOrder : Prop :=
  (∀ (s : State) (sec ns frac : Nat), sec < 2 ^ 48 → ns ≤ 999999999 → frac ≤ 65535 →
    s.stp.now = (sec * 1000000000 + ns) * 65536 + frac → s.tick = (sec * 250000000 + ns / 4) % 2 ^ 32) ∧
  (∀ a b : Nat, a < 2 ^ 32 → b < 2 ^ 32 →
    (tickBefore a b = true ↔ 1 ≤ (b + 2 ^ 32 - a) % 2 ^ 32 ∧ (b + 2 ^ 32 - a) % 2 ^ 32 ≤ 2 ^ 31 - 1)) ∧
  (∀ a b : Nat, a < 2 ^ 32 → b < 2 ^ 32 → (tickBefore a b = false ↔ (a + 2 ^ 32 - b) % 2 ^ 32 ≤ 2 ^ 31))

/-- R30, R57, R25: loading and latching the time, and replicas that are lost and resynchronise.
The model's choices that it rests on: log entry 17. -/
def Obligations.SteepleTimeCommands : Prop :=
  (∀ (s : State) (v : Word), (R.STEEPLE_CTRL_STEP).of v = 1 → s.mayStep = true → ∃ t, exec (.steepleStep v) s = .next t ∧
    t.stp.now = ((s.rd R.STEEPLE_SET_SEC_HI * 2 ^ 32 + s.rd R.STEEPLE_SET_SEC_LO) * 1000000000 + s.rd R.STEEPLE_SET_NS) * 65536 +
      s.rd R.STEEPLE_SET_FRAC ∧
    t.stp.slew = 0 ∧ t.rd R.STEEPLE_STATUS_TIME_VALID = 1 ∧ t.rd R.STEEPLE_STATUS_SLEWING = 0 ∧ t.ans = acked ∧
    t.rd R.STEEPLE_STATUS_STEP_REFUSED = s.rd R.STEEPLE_STATUS_STEP_REFUSED) ∧
  (∀ (s : State) (v : Word), (R.STEEPLE_CTRL_STEP).of v = 1 → s.mayStep = false → ∃ t, exec (.steepleStep v) s = .next t ∧
    t.rd R.STEEPLE_STATUS_STEP_REFUSED = 1 ∧ t.stp.now = s.stp.now ∧ t.ans = acked) ∧
  (∀ (s : State) (v : Word), ∃ t, exec (.steepleStep v) s = .next t ∧
    sameRegs s t [R.STEEPLE_CTRL_DPLL_EN, R.STEEPLE_CTRL_FORCE_HOLD, R.STEEPLE_STATUS_SLEWING, R.STEEPLE_STATUS_TIME_VALID,
      R.STEEPLE_STATUS_STEP_REFUSED, R.STEEPLE_STATUS_ACTIVE_SRC, R.STEEPLE_STATUS_DPLL_STATE]) ∧
  (∀ (s : State) (sec ns frac : Nat), sec < 2 ^ 48 → ns ≤ 999999999 → frac ≤ 65535 →
    s.stp.now = (sec * 1000000000 + ns) * 65536 + frac → ∃ t, exec .steepleLatch s = .next t ∧
    t.rd R.STEEPLE_LATCH_SEC_HI = sec / 2 ^ 32 ∧ t.rd R.STEEPLE_LATCH_SEC_LO = sec % 2 ^ 32 ∧ t.rd R.STEEPLE_LATCH_NS = ns ∧
    t.rd R.STEEPLE_LATCH_FRAC = frac ∧ t.ans = acked ∧
    sameRegs s t [R.STEEPLE_LATCH_SEC_HI, R.STEEPLE_LATCH_SEC_LO, R.STEEPLE_LATCH_NS, R.STEEPLE_LATCH_FRAC]) ∧
  (∀ (s : State) (d : Fin 106), d.val ∉ s.stp.lost → ∃ t, exec (.replicaLost d) s = .next t ∧
    nbit (t.rd (R.STEEPLE_REPLICA_LOST_LOST (d.val / 32))) (d.val % 32) = true ∧ t.rd R.STEEPLE_STATUS_REPLICA_FAULT = 1 ∧
    t.stp.lost = d.val :: s.stp.lost ∧ t.stp.now = s.stp.now ∧
    sameRegs s t [R.STEEPLE_REPLICA_LOST_LOST (d.val / 32), R.STEEPLE_STATUS_REPLICA_FAULT]) ∧
  (∀ (s : State) (d : Fin 106), ∃ t, exec (.replicaResync d) s = .next t ∧
    nbit (t.rd (R.STEEPLE_REPLICA_LOST_LOST (d.val / 32))) (d.val % 32) = false ∧ d.val ∉ t.stp.lost ∧ sameRegs s t [R.STEEPLE_REPLICA_LOST_LOST (d.val / 32)])

/-- R29, R598: the DPLL's states.
The model's choices that it rests on: log entry 19. -/
def Obligations.DpllStates : Prop :=
  (∀ (s : State) (src : Fin 8) (err filtered : Int) (freq : Word), s.bit R.STEEPLE_CTRL_DPLL_EN = true →
    s.bit R.STEEPLE_CTRL_FORCE_HOLD = false → s.stp.srcPhase = 0 → s.rd R.STEEPLE_STATUS_DPLL_STATE = 1 →
    s.rd R.STEEPLE_STATUS_ACTIVE_SRC = src.val → filtered.natAbs < 5120 → 7 ≤ s.stp.good →
    ∃ t, exec (.dpllPhaseUpdate src err filtered freq) s = .next t ∧ t.rd R.STEEPLE_STATUS_DPLL_STATE = 2 ∧
      t.rd R.STEEPLE_STATUS_TIME_VALID = 1 ∧ t.stp.freq = freq.toNat) ∧
  (∀ (s : State) (src : Fin 8) (err filtered : Int) (freq : Word), s.bit R.STEEPLE_CTRL_DPLL_EN = true →
    s.bit R.STEEPLE_CTRL_FORCE_HOLD = false → s.stp.srcPhase = 0 →
    (s.rd R.STEEPLE_STATUS_DPLL_STATE = 2 ∨ (s.rd R.STEEPLE_STATUS_DPLL_STATE = 1 ∧ err.natAbs ≤ 256000)) →
    s.rd R.STEEPLE_STATUS_ACTIVE_SRC = src.val → ∃ t, exec (.dpllPhaseUpdate src err filtered freq) s = .next t ∧
      t.stp.now = s.stp.now ∧ t.stp.slew = -(err * 256) ∧
      t.stp.good = (if filtered.natAbs < 5120 then s.stp.good + 1 else 0) ∧
      sameRegs s t [R.STEEPLE_STATUS_SLEWING, R.STEEPLE_STATUS_TIME_VALID, R.STEEPLE_STATUS_DPLL_STATE]) ∧
  (∀ (s u : State) (v : Word) (filtered : Int) (freq : Word), exec (.dpllPhaseUpdate 1 v.toInt filtered freq) s = .next u →
    exec (.steeplePtpOffsetWrite v filtered freq) s = .next { u with ans := acked }) ∧
  (∀ (s : State) (valid : List (Fin 8)), s.rd R.STEEPLE_STATUS_DPLL_STATE = 2 → s.bit R.STEEPLE_DPLL_CFG_AUTO_SWITCH = false →
    ∃ t, exec (.dpllHoldoverEntry valid) s = .next t ∧ t.rd R.STEEPLE_STATUS_DPLL_STATE = 3 ∧ t.stp.freq = s.stp.freq ∧ sameRegs s t [R.STEEPLE_STATUS_DPLL_STATE]) ∧
  (∀ (s : State) (valid : List (Fin 8)) (p : Nat), s.rd R.STEEPLE_STATUS_DPLL_STATE = 2 →
    s.bit R.STEEPLE_DPLL_CFG_AUTO_SWITCH = true → s.prios.find? (fun p => valid.any (fun v => v.val == p)) = some p →
    ∃ t, exec (.dpllHoldoverEntry valid) s = .next t ∧ t.rd R.STEEPLE_STATUS_DPLL_STATE = 1 ∧
      t.rd R.STEEPLE_STATUS_ACTIVE_SRC = p ∧ t.stp.good = 0 ∧
      sameRegs s t [R.STEEPLE_STATUS_DPLL_STATE, R.STEEPLE_STATUS_ACTIVE_SRC]) ∧
  (∀ (s : State) (v : Word), ∃ t, exec (.dpllSourceWrite v) s = .next t ∧ t.ans = acked ∧
    (∀ f ∈ [R.STEEPLE_DPLL_SRC_PRIO0, R.STEEPLE_DPLL_SRC_PRIO1, R.STEEPLE_DPLL_SRC_PRIO2, R.STEEPLE_DPLL_SRC_PRIO3],
      t.rd f = f.of v) ∧
    (∀ f ∈ [R.STEEPLE_DPLL_SRC_FREQ_REF, R.STEEPLE_DPLL_SRC_SYNCE_PORT],
      t.rd f = if s.rd R.STEEPLE_STATUS_DPLL_STATE = 0 ∨ s.rd R.STEEPLE_STATUS_DPLL_STATE = 3 then f.of v else s.rd f) ∧
    sameRegs s t [R.STEEPLE_DPLL_SRC_PRIO0, R.STEEPLE_DPLL_SRC_PRIO1, R.STEEPLE_DPLL_SRC_PRIO2, R.STEEPLE_DPLL_SRC_PRIO3,
      R.STEEPLE_DPLL_SRC_FREQ_REF, R.STEEPLE_DPLL_SRC_SYNCE_PORT]) ∧
  (∀ (s : State) (v : Word), (R.STEEPLE_CTRL_DPLL_EN).of v = 1 → (R.STEEPLE_CTRL_FORCE_HOLD).of v = 1 →
    ∃ t, exec (.dpllForceHold v) s = .next t ∧ t.rd R.STEEPLE_STATUS_DPLL_STATE = 3 ∧ t.rd R.STEEPLE_CTRL_FORCE_HOLD = 1 ∧
      t.stp = s.stp ∧ t.ans = acked ∧
      sameRegs s t [R.STEEPLE_CTRL_DPLL_EN, R.STEEPLE_CTRL_FORCE_HOLD, R.STEEPLE_STATUS_DPLL_STATE]) ∧
  (∀ (s : State) (v : Word), (R.STEEPLE_CTRL_DPLL_EN).of v = 0 → ∃ t, exec (.dpllForceHold v) s = .next t ∧
    t.rd R.STEEPLE_STATUS_DPLL_STATE = 0 ∧ t.rd R.STEEPLE_STATUS_ACTIVE_SRC = 0)

/-- R33, R35, R37, R38: a lock group through its states at its boundaries.
The model's choices that it rests on: log entries 20 and 21. -/
def Obligations.LockGroupBoundaries : Prop :=
  (∀ (s : State) (g : Fin 64), s.rd (R.LG_STATUS_STATE g) = 1 → (s.group g).action = .start → s.reached (s.group g).actionNs = true →
    s.earlierDone 3 (s.group g).actionNs = true → ∃ t, exec (.lgActionBoundaryStart g) s = .next t ∧
    t.rd (R.LG_STATUS_STATE g) = 2 ∧ (t.group g).action = .none ∧
    (t.group g).cur = ((s.group g).actionNs - s.groupBase g) / s.slotNs g ∧
    sameRegs s t [R.LG_STATUS_STATE g, R.LG_STATUS_SLOT g, R.LG_STATUS_SFN g, R.LG_HSFN_HSFN g]) ∧
  (∀ (s : State) (g : Fin 64), s.rd (R.LG_STATUS_STATE g) = 2 → s.reached (s.slotStart g ((s.group g).cur + 1)) = true →
    ∃ t, exec (.slotBoundary g) s = .next t ∧ t.group g = { s.group g with cur := (s.group g).cur + 1 } ∧
    t.rd (R.LG_STATUS_SLOT g) = ((((s.group g).cur + 1) % (s.slotsPerFrame g : Int)).toNat) % 1024 ∧
    t.rd (R.LG_STATUS_SFN g) = ((((s.group g).cur + 1) / (s.slotsPerFrame g : Int) + (s.rd (R.LG_CFG_SFN_OFFSET g) : Int)) % 1024).toNat ∧ sameRegs s t [R.LG_STATUS_SLOT g, R.LG_STATUS_SFN g, R.LG_HSFN_HSFN g]) ∧
  (∀ (s : State) (g : Fin 64), s.rd (R.LG_STATUS_STATE g) = 3 → (s.group g).ceased = true →
    s.reached (s.sweepNs g (s.group g).cur) = true → s.earlierDone 3 (s.sweepNs g (s.group g).cur) = true →
    ∃ t, exec (.lgReturnIdle g) s = .next t ∧ t.rd (R.LG_STATUS_STATE g) = 0 ∧ sameRegs s t [R.LG_STATUS_STATE g]) ∧
  (∀ (s : State) (g : Fin 64), s.rd (R.LG_STATUS_TDD_SWAP_PENDING g) = 1 → s.reached (s.group g).swapNs = true →
    s.earlierDone 3 (s.group g).swapNs = true → ∃ t, exec (.tddSwapApply g) s = .next t ∧
    t.rd (R.LG_STATUS_ACTIVE_BANK g) = 1 - s.rd (R.LG_STATUS_ACTIVE_BANK g) ∧ t.rd (R.LG_STATUS_TDD_SWAP_PENDING g) = 0 ∧ sameRegs s t [R.LG_STATUS_ACTIVE_BANK g, R.LG_STATUS_TDD_SWAP_PENDING g]) ∧
  (∀ (s : State) (g : Fin 64), s.lgSt g = 3 → (s.group g).action = .stop → s.reached (s.group g).actionNs = true →
    s.earlierDone 3 (s.group g).actionNs = true → (s.group g).armed = [] → ∃ t, exec (.lgActionBoundaryStop g) s = .next t ∧
    (t.group g).ceased = true ∧ (t.group g).action = .none ∧
    (t.group g).cur = ((s.group g).actionNs - s.groupBase g) / s.slotNs g - 1 ∧ t.rd (R.LG_STATUS_STATE g) = 3 ∧ sameRegs s t [R.LG_STATUS_SLOT g, R.LG_STATUS_SFN g, R.LG_HSFN_HSFN g]) ∧
  (∀ (s : State) (g : Fin 64), s.lgSt g = 3 → (s.group g).action = .stop → s.reached (s.group g).actionNs = true →
    s.earlierDone 3 (s.group g).actionNs = true → (s.group g).armed ≠ [] → ∃ t, exec (.lgActionBoundaryStop g) s = .next t ∧
    t.rd (R.LG_PLAN_STATUS_LAST_OUTCOME g) = 4)

/-- R37, R38: writes of LG_CTRL.
The model's choices that it rests on: log entries 6, 20 and 21. -/
def Obligations.LockGroupControl : Prop :=
  (∀ (s : State) (g : Fin 64) (v : Word) (hd : Bool), bitOf v 0 = true → bitOf v 1 = false → s.actionFar g = false → s.lgSt g = 0 →
    s.cfgOk g = true → s.bankOk g 0 = true → s.bit (R.LG_CFG_PARISH g) = false → ∃ t, exec (.lgStart g v hd) s = .next t ∧
    t.lgSt g = 1 ∧ t.rd (R.LG_STATUS_ACTIVE_BANK g) = 0 ∧ t.rd (R.LG_STATUS_CFG_REFUSED g) = 0 ∧ (t.group g).action = .start ∧
    t.ans = acked ∧
    sameRegs s t [R.LG_STATUS_STATE g, R.LG_STATUS_ACTIVE_BANK g, R.LG_STATUS_CFG_REFUSED g, R.LG_STATUS_MISMATCH g]) ∧
  (∀ (s : State) (g : Fin 64) (v : Word) (hd : Bool), bitOf v 0 = true → bitOf v 1 = false → s.lgSt g = 0 →
    (s.actionFar g = true ∨ s.cfgOk g = false ∨ s.bankOk g 0 = false) →
    exec (.lgStart g v hd) s = .next { s.wr (R.LG_STATUS_CFG_REFUSED g) 1 with ans := acked }) ∧
  (∀ (s : State) (g : Fin 64) (v : Word) (hd : Bool), bitOf v 0 = true → bitOf v 1 = false → s.actionFar g = false → s.lgSt g ≠ 0 →
    exec (.lgStart g v hd) s = .next { s with ans := acked }) ∧
  (∀ (s : State) (g : Fin 64) (v : Word), bitOf v 1 = true → bitOf v 0 = false → s.actionFar g = false → s.lgSt g = 2 →
    ∃ t, exec (.lgStop g v) s = .next t ∧ t.lgSt g = 3 ∧ (t.group g).action = .stop ∧ t.ans = acked ∧ sameRegs s t [R.LG_STATUS_STATE g]) ∧
  (∀ (s : State) (g : Fin 64) (v : Word), bitOf v 1 = true → bitOf v 0 = false → s.actionFar g = false → s.lgSt g = 1 →
    (s.group g).armed = [] → ∃ t, exec (.lgStop g v) s = .next t ∧ t.lgSt g = 0 ∧ (t.group g).action = .none ∧
    sameRegs s t [R.LG_STATUS_STATE g]) ∧
  (∀ (s : State) (g : Fin 64) (v : Word), exec (.lgStartStopBoth g v) s = .next { s with ans := acked }) ∧
  (∀ (s : State) (g : Fin 64) (v : Word), bitOf v 2 = true → (bitOf v 0 && bitOf v 1) = false → (s.lgSt g = 1 ∨ s.lgSt g = 2) →
    s.bit (R.LG_STATUS_TDD_SWAP_PENDING g) = false → s.bankOk g (s.idleBank g) = true →
    ∃ t, exec (.lgTddSwap g v) s = .next t ∧ t.rd (R.LG_STATUS_TDD_SWAP_PENDING g) = 1 ∧
    s.nowUp + 50000 ≤ (t.group g).swapNs ∧ t.ans = acked ∧
    sameRegs s t [R.LG_STATUS_TDD_SWAP_PENDING g]) ∧
  (∀ (s : State) (g : Fin 64) (v : Word), bitOf v 2 = true → (bitOf v 0 && bitOf v 1) = false → (s.lgSt g = 1 ∨ s.lgSt g = 2) →
    s.bit (R.LG_STATUS_TDD_SWAP_PENDING g) = false → s.bankOk g (s.idleBank g) = false →
    exec (.lgTddSwap g v) s = .next { s.wr (R.LG_STATUS_CFG_REFUSED g) 1 with ans := acked })

/-- R52 to R57: Bells, PPS outputs and captures.
The model's choices that it rests on: log entry 25. -/
def Obligations.BellsOutputsAndCaptures : Prop :=
  (∀ (s : State) (b : Fin 64) (v : Word), s.rd (R.BELL_CFG_MODE b) ≠ 0 → (R.BELL_CFG_MODE b).of v ≠ 0 →
    ∃ t, exec (.bellCfgWrite b v) s = .next t ∧ t.rd (R.BELL_CFG_IRQ_EN b) = (R.BELL_CFG_IRQ_EN b).of v ∧ t.stp = s.stp ∧
      t.ans = acked ∧ sameRegs s t [R.BELL_CFG_IRQ_EN b]) ∧
  (∀ (s : State) (b : Fin 64) (v : Word), (s.rd (R.BELL_CFG_MODE b) = 0 ∨ (R.BELL_CFG_MODE b).of v = 0) →
    ∃ t, exec (.bellCfgWrite b v) s = .next t ∧ t.ans = acked ∧
      sameRegs s t (R.BELL_CFG_MODE b :: R.BELL_MISSED b :: bellCfgFields b)) ∧
  (∀ (s : State) (b : Fin 64) (v : Word), (R.BELL_CFG_MODE b).of v = 0 →
    ∃ t, exec (.bellCfgWrite b v) s = .next t ∧ t.rd (R.BELL_CFG_MODE b) = 0 ∧ t.rd (R.BELL_MISSED b) = s.rd (R.BELL_MISSED b) ∧
      (∀ f ∈ bellCfgFields b, t.rd f = f.of v)) ∧
  (∀ (s : State) (b : Fin 64) (v : Word), s.rd (R.BELL_CFG_MODE b) = 0 → (R.BELL_CFG_MODE b).of v ≠ 0 → s.rd (R.BELL_WIDTH b) = 0 →
    ∃ t, exec (.bellCfgWrite b v) s = .next t ∧ t.rd (R.BELL_CFG_MODE b) = 0 ∧
      t.rd (R.BELL_MISSED b) = (s.rd (R.BELL_MISSED b) + 1) % 2 ^ (R.BELL_MISSED b).w) ∧
  (∀ (s : State) (b : Fin 64) (v : Word), s.rd (R.BELL_CFG_MODE b) = 0 → (R.BELL_CFG_MODE b).of v = 1 → s.rd (R.BELL_WIDTH b) ≠ 0 →
    65536000 ≤ s.bellStart b - (s.stp.now : Int) → s.bellStart b - (s.stp.now : Int) ≤ 268435456 * 262144 →
    ∃ t, exec (.bellCfgWrite b v) s = .next t ∧ t.rd (R.BELL_CFG_MODE b) = 1 ∧ (t.bell b).start = s.bellStart b ∧ (t.bell b).count = 0 ∧
      t.rd (R.BELL_MISSED b) = s.rd (R.BELL_MISSED b)) ∧
  (∀ (s : State) (b : Fin 64), (s.bell b).high = false → s.rd (R.BELL_CFG_MODE b) = 2 →
    (s.bell b).start + ((s.bell b).count : Int) * (s.rd (R.BELL_PERIOD b) : Int) * 65536 ≤ (s.stp.now : Int) →
    s.earlierDone 5 (((s.bell b).start + ((s.bell b).count : Int) * (s.rd (R.BELL_PERIOD b) : Int) * 65536) / 65536) = true →
    ∃ t, exec (.bellEdge b) s = .next t ∧ (t.bell b).high = true ∧ (t.bell b).count = (s.bell b).count + 1 ∧
      (t.bell b).ends = (s.bell b).start + ((s.bell b).count : Int) * (s.rd (R.BELL_PERIOD b) : Int) * 65536 +
        (s.rd (R.BELL_WIDTH b) : Int) * 262144 ∧
      (s.bit (R.BELL_CFG_IRQ_EN b) = true → ⟨.bell, b⟩ ∈ t.hallIrq) ∧ t.regs = s.regs) ∧
  (∀ (s : State) (b : Fin 64), (s.bell b).high = true → (s.bell b).ends ≤ (s.stp.now : Int) →
    ∃ t, exec (.bellEdge b) s = .next t ∧ (t.bell b).high = false ∧ t.regs = s.regs ∧ t.hallIrq = s.hallIrq) ∧
  (∀ (s : State) (k : Fin 2), (s.stp.pps.get k).high = false → s.bit (R.PPS_OUT_CFG_ENABLE k) = true → s.rd (R.PPS_OUT_COMP k) = 0 →
    (s.stp.pps.get k).nextSec = some (s.nowNs / 1000000000) → s.earlierDone 5 (s.nowNs / 1000000000 * 1000000000) = true →
    ∃ t, exec (.ppsOutPulse k) s = .next t ∧ (t.stp.pps.get k).high = true ∧
      (t.stp.pps.get k).nextSec = some (s.nowNs / 1000000000 + 1) ∧
      (t.stp.pps.get k).ends = (s.nowNs / 1000000000 * 1000000000 + (s.rd (R.PPS_OUT_CFG_WIDTH_US k) : Int) * 1000) * 65536 ∧ t.regs = s.regs) ∧
  (∀ (s : State) (p : Fin 18) (falling : Bool), s.capSelects p falling = true → (s.stp.caps.get p).length < 16 →
    ∃ t st, exec (.captureEdge p falling) s = .next t ∧ t.stp.caps.get p = s.stp.caps.get p ++ [st] ∧
      st.ns = s.stp.now / 65536 % 1000000000 ∧ t.rd (R.CAP_STATUS_LEVEL p) = (s.stp.caps.get p).length + 1 ∧
      sameRegs s t [R.CAP_STATUS_LEVEL p, R.CAP_SEC p, R.CAP_NS p, R.CAP_FRAC p]) ∧
  (∀ (s : State) (p : Fin 18) (falling : Bool), s.capSelects p falling = true → 16 ≤ (s.stp.caps.get p).length →
    ∃ t, exec (.captureEdge p falling) s = .next t ∧ t.rd (R.CAP_STATUS_OVERFLOW p) = 1 ∧ t.stp = s.stp ∧
      sameRegs s t [R.CAP_STATUS_OVERFLOW p]) ∧
  (∀ (s : State) (p : Fin 18) (a b : Stamp) (r : List Stamp), s.stp.caps.get p = a :: b :: r → ∃ t, exec (.capPop p) s = .next t ∧
    t.stp.caps.get p = b :: r ∧ t.rd (R.CAP_SEC p) = b.sec % 2 ^ 32 ∧ t.rd (R.CAP_NS p) = b.ns % 2 ^ (R.CAP_NS p).w ∧ t.ans = acked ∧
    sameRegs s t [R.CAP_STATUS_LEVEL p, R.CAP_SEC p, R.CAP_NS p, R.CAP_FRAC p])

/-- R40 to R43: arming, committing and withdrawing a plan.
The model's choices that it rests on: log entries 22 and 23. -/
def Obligations.PlanArmCommitWithdraw : Prop :=
  (∀ (s : State) (g : Fin 64) (v : Word) (bells : List BellEntry) (p5 r5 : Bool), (s.granaryRead 0xE0 (bitsOf v 6 20 * 64) 8).1 = none →
    ∃ t, exec (.planArm g v bells p5 r5) s = .next t ∧ t.rd (R.LG_PLAN_STATUS_LAST_OUTCOME g) = 3 ∧
      t.rd (R.LG_PLAN_STATUS_REFUSE_CAUSE g) = 11 ∧ t.stp = s.stp ∧ t.ans = acked) ∧
  (∀ (s u : State) (ws : List PWord) (g : Fin 64) (v : Word) (bells : List BellEntry) (p5 r5 : Bool) (c : Nat),
    s.granaryRead 0xE0 (bitsOf v 6 20 * 64) 8 = (some ws, u) → c < 16 →
    u.planTiming g (word32 ws 1).toNat (bitsOf (word32 ws 2) 16 10) (bitsOf (word32 ws 2) 0 10) = .error c →
    ∃ t, exec (.planArm g v bells p5 r5) s = .next t ∧ t.rd (R.LG_PLAN_STATUS_LAST_OUTCOME g) = 3 ∧
      t.rd (R.LG_PLAN_STATUS_REFUSE_CAUSE g) = c ∧ t.rd (R.LG_PLAN_STATUS_LAST_SEQ g) = (word32 ws 3).toNat % 2 ^ 16 ∧
      t.rd (R.LG_PLANS_REFUSED g) = (u.rd (R.LG_PLANS_REFUSED g) + 1) % 2 ^ (R.LG_PLANS_REFUSED g).w ∧ t.stp = u.stp) ∧
  (∀ (s u : State) (ws : List PWord) (g : Fin 64) (v : Word) (bells : List BellEntry) (p5 r5 : Bool) (commitNs slot : Int),
    s.granaryRead 0xE0 (bitsOf v 6 20 * 64) 8 = (some ws, u) →
    u.planTiming g (word32 ws 1).toNat (bitsOf (word32 ws 2) 16 10) (bitsOf (word32 ws 2) 0 10) = .ok (commitNs, slot) →
    headerBad g ((List.range 16).map (fun i => (word32 ws i).toNat)) = false → anyMark ws = false →
    (∀ i < 6, (planPart ((List.range 16).map (fun i => (word32 ws i).toNat)) i).2 = 0) →
    ∃ t, exec (.planArm g v bells p5 r5) s = .next t ∧ t.rd (R.LG_PLAN_STATUS_LAST_OUTCOME g) = 1 ∧
      t.rd (R.LG_PLAN_STATUS_LAST_SEQ g) = (word32 ws 3).toNat % 2 ^ 16 ∧
      ((t.group g).armed.map (fun p => (p.seq, p.commitNs, p.slot))) =
        (u.group g).armed.map (fun p => (p.seq, p.commitNs, p.slot)) ++ [((word32 ws 3).toNat, commitNs, slot)]) ∧
  (∀ (s : State) (g : Fin 64) (p : ArmedPlan) (rest : List ArmedPlan), (s.group g).armed = p :: rest → s.reached p.commitNs = true →
    s.earlierDone 4 p.commitNs = true → ∃ t, exec (.planCommit g) s = .next t ∧
      t.rd (R.LG_PLAN_STATUS_LAST_OUTCOME g) = 2 ∧ t.rd (R.LG_PLAN_STATUS_LAST_SEQ g) = p.seq % 2 ^ 16) ∧
  (∀ (s : State) (g : Fin 64) (p : ArmedPlan) (rest : List ArmedPlan), (s.group g).armed = p :: rest → s.reached p.commitNs = false →
    exec (.planCommit g) s = .next s) ∧
  (∀ (s : State) (g : Fin 64) (seq : Word) (p : ArmedPlan), (s.group g).armed.find? (fun p => p.seq == seq.toNat) = some p →
    (s.stp.now : Int) + 655360000 ≤ p.commitNs * 65536 → ∃ t, exec (.planWithdraw g seq) s = .next t ∧
      (t.group g).armed = (s.group g).armed.filter (fun q => q.id != p.id) ∧ t.rd (R.LG_PLAN_STATUS_LAST_OUTCOME g) = 4 ∧ t.ans = acked) ∧
  (∀ (s : State) (g : Fin 64) (seq : Word) (p : ArmedPlan), (s.group g).armed.find? (fun p => p.seq == seq.toNat) = some p →
    p.commitNs * 65536 < (s.stp.now : Int) + 655360000 → ∃ t, exec (.planWithdraw g seq) s = .next t ∧
      t.rd (R.LG_PLAN_STATUS_WITHDRAW_LATE g) = 1 ∧ t.stp = s.stp ∧ sameRegs s t [R.LG_PLAN_STATUS_WITHDRAW_LATE g]) ∧
  (∀ (s : State) (g : Fin 64) (seq : Word), (∀ p ∈ (s.group g).armed, p.seq ≠ seq.toNat) →
    ∃ t, exec (.planWithdraw g seq) s = .next t ∧ t.rd (R.LG_PLAN_STATUS_WITHDRAW_MISS g) = 1 ∧ t.stp = s.stp ∧
      sameRegs s t [R.LG_PLAN_STATUS_WITHDRAW_MISS g])

/-- R50, R51: the slot sweep and its residue.
The model's choices that it rests on: log entries 22 and 24. -/
def Obligations.SlotSweepAndResidue : Prop :=
  (∀ (s : State) (g : Fin 64) (wtag : Fin 16) (w : Window), (s.group g).windows.find? (fun w => w.wtag == wtag.val && !w.swept) = some w →
    s.reached w.sweepNs = true → s.earlierDone 2 w.sweepNs = true → ∃ t, exec (.slotSweep g wtag) s = .next t ∧
      (t.group g).windows = (s.group g).windows.map (fun y => if y.slot = w.slot then { y with swept := true } else y)) ∧
  (∀ (s : State) (g : Fin 64) (w : Window), (s.group g).windows.find? (fun w => w.swept && s.reached (w.sweepNs + 4000)) = some w →
    s.residue g w.wtag = 0 → ∃ t, exec (.sweepResidueReport g) s = .next t ∧
      (t.group g).windows = (s.group g).windows.filter (fun y => y.slot != w.slot) ∧ t.regs = s.regs ∧ t.hallIrq = s.hallIrq) ∧
  (∀ (s : State) (g : Fin 64) (w : Window), (s.group g).windows.find? (fun w => w.swept && s.reached (w.sweepNs + 4000)) = some w →
    s.residue g w.wtag ≠ 0 → s.rd (R.LG_SWEEP_STATUS_RESIDUE g) = 0 → w.wtag < 16 → s.rd (R.LG_SWEEP_STATUS_RESIDUE_MASK g) = 0 →
    ∃ t, exec (.sweepResidueReport g) s = .next t ∧ t.rd (R.LG_SWEEP_STATUS_RESIDUE g) = 1 ∧
      t.rd (R.LG_SWEEP_STATUS_RESIDUE_TAG g) = w.wtag ∧ t.rd (R.LG_SWEEP_STATUS_RESIDUE_MASK g) = 2 ^ w.wtag ∧
      ⟨.residue, g⟩ ∈ t.hallIrq ∧
      sameRegs s t [R.LG_SWEEP_STATUS_RESIDUE g, R.LG_SWEEP_STATUS_RESIDUE_TAG g, R.LG_SWEEP_STATUS_RESIDUE_MASK g]) ∧
  (∀ (s : State) (g : Fin 64) (v : Word), (R.LG_SWEEP_STATUS_RESIDUE g).of v = 1 → ∃ t, exec (.residueClear g v) s = .next t ∧
    t.rd (R.LG_SWEEP_STATUS_RESIDUE g) = 0 ∧ t.rd (R.LG_SWEEP_STATUS_RESIDUE_MASK g) = 0 ∧ t.stp = s.stp ∧ t.ans = acked ∧
    sameRegs s t [R.LG_SWEEP_STATUS_RESIDUE g, R.LG_SWEEP_STATUS_RESIDUE_TAG g, R.LG_SWEEP_STATUS_RESIDUE_MASK g]) ∧
  (∀ (s : State) (g : Fin 64) (v : Word), (R.LG_SWEEP_STATUS_RESIDUE g).of v = 0 →
    exec (.residueClear g v) s = .next { s with ans := acked })

/-! ## Horty cores and the Quern (03, 05) -/

namespace Sys2Proof.Claims
open Machine

/-- Core `k` runs and is about to issue the sheaf of the one syllable `w`, which does not bite, with guard p0. -/
structure oneSheaf (s : State) (k : Nat) (w : Word) : Prop where
  running : (s.core k).run = .running
  noDebug : (s.core k).dbgHalt = false ∧ (s.core k).dbgStep = false
  nothingOut : (s.core k).acc = [] ∧ (s.core k).errs = []
  noBreak : s.bpMatch k (s.core k).pc = false
  fetch : s.fetchSheaf k (s.core k).pc 0 4 = (.ok ([⟨w, false, .reserved⟩], true), s)
  guard : syPred w = 0 ∧ syPneg w = false

/-- What a trap entry at level `l` leaves in core `c'` (R80): cause and resume address, STATUS.IE and the level, the pc. -/
def entered (c c' : Core) (k : Nat) (l : Level) (code resume vector : Nat) : Prop :=
  c'.level = l ∧ c'.ie = false ∧ c'.cr (trapBase l + 1) = code ∧ c'.cr (trapBase l + 2) = resume ∧ c'.pc = vector % 2 ^ xlen k ∧
    nbit (c'.cr (trapBase l + 4)) 31 = true ∧ c'.g = c.g ∧ c'.p = c.p

end Sys2Proof.Claims

/-- R62, R68, R70, R110: what one integer or branch syllable commits.
The model's choices that it rests on: log entries 26 and 27. -/
def Obligations.SheafOfOneSyllable : Prop :=
  (∀ (s : State) (core : Fin 161) (w : Word) (sys : List SysOp) (ans : List SyncAns), oneSheaf s core w → syMajor w = 0x01 →
    ∃ t, exec (.sheafIssue core sys ans) s = .next t ∧ (t.core core).pc = ((s.core core).pc + 4) % 2 ^ xlen core ∧
      (t.core core).gv (syD w) = (if syD w = 0 then 0 else
        trunc (xlen core) (sext (xlen core) ((s.core core).gv (syA w)) + syImm11 w)) ∧
      (t.core core).gtag (syD w) = (syD w != 0 && (s.core core).gtag (syA w)) ∧
      (∀ n, n ≠ syD w → (t.core core).gv n = (s.core core).gv n ∧ (t.core core).gtag n = (s.core core).gtag n) ∧
      (t.core core).level = (s.core core).level ∧ t.regs = s.regs ∧ t.ms = s.ms) ∧
  (∀ (s : State) (core : Fin 161) (w : Word) (sys : List SysOp) (ans : List SyncAns), oneSheaf s core w → syMajor w = 0x18 →
    ∃ t, exec (.sheafIssue core sys ans) s = .next t ∧
      (t.core core).pc = trunc (xlen core) (((s.core core).pc : Int) + syOff21 w * 4) / 4 * 4 ∧ (t.core core).g = (s.core core).g ∧
      t.regs = s.regs ∧ t.ms = s.ms)

/-- R73, R75, R80, R81: sys and brk take their trap; a syllable of an undefined class is refused with its word; a trap at a
busy Keeper level halts the core.
The model's choices that it rests on: log entry 29. -/
def Obligations.SheafTraps : Prop :=
  (∀ (s : State) (core : Fin 161) (w : Word) (ans : List SyncAns), oneSheaf s core w → syMajor w = 0x1C →
    (s.core core).level = .keeper → (s.core core).busy .keeper = false →
    (∃ t, exec (.sheafIssue core [.sys] ans) s = .next t ∧ entered (s.core core) (t.core core) core .keeper 13
      (((s.core core).pc + 4) % 2 ^ xlen core) ((s.core core).cr 0xC00)) ∧
    (∃ t, exec (.sheafIssue core [.brk] ans) s = .next t ∧ entered (s.core core) (t.core core) core .keeper 14
      (((s.core core).pc + 4) % 2 ^ xlen core) ((s.core core).cr 0xC00))) ∧
  (∀ (s : State) (core : Fin 161) (w : Word) (ans : List SyncAns), oneSheaf s core w → syMajor w = 0x1C →
    (s.core core).level = .keeper → (s.core core).busy .keeper = true → core.val < 144 →
    ∃ t, exec (.sheafIssue core [.sys] ans) s = .next t ∧ (t.core core).run = .halted ∧ ⟨.doubleFault, core⟩ ∈ t.hallIrq) ∧
  (∀ (s : State) (core : Fin 161) (w : Word) (sys : List SysOp) (ans : List SyncAns), oneSheaf s core w → syMajor w = 0x2F →
    (s.core core).level = .keeper → (s.core core).busy .keeper = false → (s.core core).pc < 2 ^ 32 →
    ∃ t, exec (.sheafIssue core sys ans) s = .next t ∧ (t.core core).cr 0xC03 = w.toNat ∧
      entered (s.core core) (t.core core) core .keeper 1 (s.core core).pc ((s.core core).cr 0xC00))

/-- R74, R76, R80, R82: interrupts become pending and are taken in their order.
The model's choices that it rests on: log entry 26. -/
def Obligations.CoreInterrupts : Prop :=
  (∀ (s : State) (core : Fin 161) (n : Nat), core.val < 144 → (s.core core).run = .running → (s.core core).dbgHalt = false →
    (s.core core).acc = [] → (s.core core).errs = [] → n ∈ irqOrder → n ∈ (s.core core).irqs → (s.core core).mayTake n = true →
    (∀ m ∈ irqOrder, m ∈ (s.core core).irqs → (s.core core).mayTake m = true → m = n) → (s.core core).pc < 2 ^ 64 →
    ∃ t, exec (.interruptTake core) s = .next t ∧
      (n = 3 ∨ n = 5 → entered (s.core core) (t.core core) core ((s.core core).routeIrq n) (0x100 + n) (s.core core).pc
        ((s.core core).cr (trapBase ((s.core core).routeIrq n)) + n * 0x40)) ∧
      n ∉ (t.core core).irqs) ∧
  (∀ (s : State) (core : Fin 161), (s.core core).tce = true → passed s.tick ((s.core core).cr 0x407 % 2 ^ 32) = true →
    (s.core core).run ≠ .held → ∃ t, exec (.tickCompareMatch core) s = .next t ∧ 3 ∈ (t.core core).irqs ∧
      (t.core core).pc = (s.core core).pc ∧ t.regs = s.regs) ∧
  (∀ (s : State) (core : Fin 161), ∃ t, exec (.softwareInterrupt core) s = .next t ∧ 5 ∈ (t.core core).irqs ∧
    (t.core core).pc = (s.core core).pc ∧ (∀ k, k ≠ core.val → t.core k = s.core k) ∧ t.regs = s.regs)

/-- R86: answers to loads and posted stores.
The model's choices that it rests on: log entries 7 and 28. -/
def Obligations.LoadAndStoreAnswers : Prop :=
  (∀ (s : State) (core : Fin 161) (a : Access) (g : Answer), (s.core core).acc = [a] → a.kind = .load → g.status = .ok →
    ∃ t, exec (.loadAnswer core 0 (some g)) s = .next t ∧ t.regs = s.regs ∧ t.ms = s.ms ∧ (∀ k, k ≠ core.val → t.core k = s.core k) ∧
      t.core core = ({ s.core core with acc := [] } : Core).write core
        (loadWrite core a (wordPart (g.words.getD 0 {}).data (a.bus % 8) a.size) (g.words.getD 0 {}).mark)) ∧
  (∀ (s : State) (core : Fin 161) (a : Access) (g : Answer), (s.core core).acc = [a] → a.kind = .load → (s.core core).errs = [] →
    g.status = .aborted → ∃ t, exec (.loadAnswer core 0 (some g)) s = .next t ∧ (t.core core).acc = [] ∧
      (t.core core).errs = [a] ∧ (t.core core).g = (s.core core).g ∧ t.regs = s.regs) ∧
  (∀ (s : State) (core : Fin 161) (a : Access) (g : Answer), (s.core core).acc = [a] → a.kind = .store → g.status = .deadTarget →
    ∃ t, exec (.storeAnswer core 0 (some g)) s = .next t ∧ (t.core core).acc = [] ∧
      (t.core core).postedErr = (s.core core).postedErr + 1 ∧ 6 ∈ (t.core core).irqs ∧ t.ms = s.ms ∧ t.regs = s.regs) ∧
  (∀ (s : State) (core : Fin 161) (a : Access) (g : Answer), (s.core core).acc = [a] → a.kind = .store → g.status = .ok →
    exec (.storeAnswer core 0 (some g)) s =
      .next ((s.serveWrite core a).modCore core (fun x => { x with acc := dropFences (x.acc.eraseIdx 0) })))

/-- R101 to R105: writes of instruction halves and the flip.
The model's choices that it rests on: log entry 13. -/
def Obligations.InstructionHalves : Prop :=
  (∀ (s : State) (r : WriteReq) (st h p : Nat), s.target (r.addr / 8 * 8) = .inr st → regionOf st = .imem h p →
    s.imemRefused h p (st / 0x8000 % 2) = true → ∃ t, exec (.imemWrite r) s = .next t ∧ t.ans = abortedBy 7 ∧ t.ms = s.ms ∧
      t.rd (R.HAMLET_IMEM_STATUS_REJECT_COUNT h (s.logicalOf h p)) =
        min (s.rd (R.HAMLET_IMEM_STATUS_REJECT_COUNT h (s.logicalOf h p)) + 1)
          (2 ^ (R.HAMLET_IMEM_STATUS_REJECT_COUNT h (s.logicalOf h p)).w - 1)) ∧
  (∀ (s : State) (r : WriteReq) (st h p : Nat), s.target (r.addr / 8 * 8) = .inr st → regionOf st = .imem h p →
    s.imemRefused h p (st / 0x8000 % 2) = false → (∀ k, (s.ms.gleaners.get k).borrowed = false) →
    exec (.imemWrite r) s = .next { s.writeWords st r.words with ans := acked }) ∧
  (∀ (s : State) (h : Fin 16) (c : Fin 9) (v : Word), bitOf v 0 = true →
    (tickBefore s.tick (s.rd (R.HAMLET_IMEM_TICK_FLIP_TICK h c)) = false ∨
      leadTicks s.tick (s.rd (R.HAMLET_IMEM_TICK_FLIP_TICK h c)) ≤ maxLead) → ∃ t, exec (.imemFlipArm h c v) s = .next t ∧
      t.rd (R.HAMLET_IMEM_CTRL_ARM h c) = 1 ∧ sameRegs s t [R.HAMLET_IMEM_CTRL_ARM h c]) ∧
  (∀ (s : State) (h : Fin 16) (c : Fin 9) (v : Word), bitOf v 0 = true →
    tickBefore s.tick (s.rd (R.HAMLET_IMEM_TICK_FLIP_TICK h c)) = true →
      maxLead < leadTicks s.tick (s.rd (R.HAMLET_IMEM_TICK_FLIP_TICK h c)) → ∃ t, exec (.imemFlipArm h c v) s = .next t ∧
      t.rd (R.HAMLET_IMEM_STATUS_REFUSED h c) = 1 ∧ sameRegs s t [R.HAMLET_IMEM_STATUS_REFUSED h c]) ∧
  (∀ (s : State) (h : Fin 16) (c : Fin 9) (v : Word), bitOf v 0 = false → ∃ t, exec (.imemFlipDisarm h c v) s = .next t ∧
      t.rd (R.HAMLET_IMEM_CTRL_ARM h c) = 0 ∧ sameRegs s t [R.HAMLET_IMEM_CTRL_ARM h c]) ∧
  (∀ (s : State) (h : Fin 16) (c : Fin 9), s.flipWaits h c = true → (s.rcore h c).cur = none → (s.rcore h c).held = [] →
    s.rd (R.HAMLET_IMEM_STATUS_ACTIVE h c) ≤ 1 → ∃ t, exec (.imemFlipApply h c) s = .next t ∧
      t.rd (R.HAMLET_IMEM_STATUS_ACTIVE h c) = 1 - s.rd (R.HAMLET_IMEM_STATUS_ACTIVE h c) ∧ t.rd (R.HAMLET_IMEM_CTRL_ARM h c) = 0 ∧
      t.rd (R.HAMLET_IMEM_STATUS_FLIP_COUNT h c) = (s.rd (R.HAMLET_IMEM_STATUS_FLIP_COUNT h c) + 1) % 2 ^ (R.HAMLET_IMEM_STATUS_FLIP_COUNT h c).w ∧
      t.ms = s.ms ∧ sameRegs s t [R.HAMLET_IMEM_STATUS_ACTIVE h c, R.HAMLET_IMEM_CTRL_ARM h c, R.HAMLET_IMEM_STATUS_FLIP_COUNT h c]) ∧
  (∀ (s : State) (h : Fin 16) (c : Fin 9), ((s.rcore h c).cur ≠ none ∨ (s.rcore h c).held ≠ []) → exec (.imemFlipApply h c) s = .next s)

/-- R173, R175, R178: a Quern job computes from its operands, and its end writes the result and the status.
The model's choices that it rests on: log entry 31. -/
def Obligations.QuernJobs : Prop :=
  (∀ (s : State) (h : Fin 16) (j : QuernJob) (rest : List QuernJob), (s.querns.get h).jobs = j :: rest → j.result = none →
    (∀ a ∈ j.after, a ∉ (s.core j.core).acc) → ∃ t j1, exec (.quernJobStart h) s = .next t ∧ (t.querns.get h).jobs = j1 :: rest ∧
      j1.result ≠ none ∧ j1.z = j.z ∧ j1.core = j.core ∧ (j1.status = 0 ∨ j1.status = 1) ∧ t.ms.mem = s.ms.mem) ∧
  (∀ (s : State) (h : Fin 16) (j : QuernJob) (rest : List QuernJob) (ws : List PWord), (s.querns.get h).jobs = j :: rest →
    j.result = some ws → j.op ≠ 7 → j.status < 4 → ∃ t, exec (.quernJobEnd h) s = .next t ∧ (t.querns.get h).jobs = rest ∧
      t.rd (R.QUERN_CORE_STATUS_STATUS h (s.logicalOf h (phyOf j.core))) = j.status ∧
      t.rd (R.QUERN_CORE_STATUS_SEQ h (s.logicalOf h (phyOf j.core))) =
        (s.rd (R.QUERN_CORE_STATUS_SEQ h (s.logicalOf h (phyOf j.core))) + 1) % 2 ^ (R.QUERN_CORE_STATUS_SEQ h (s.logicalOf h (phyOf j.core))).w ∧
      t.rd (R.QUERN_JOBS_COUNT h) = (s.rd (R.QUERN_JOBS_COUNT h) + 1) % 2 ^ (R.QUERN_JOBS_COUNT h).w ∧
      (∀ st, quernAddr j.core (ptrBase j.z) (matBytes j.fmt) = some st →
        t.ms.mem = (s.writeWords st (ws.take (matBytes j.fmt / 8))).ms.mem) ∧
      (quernAddr j.core (ptrBase j.z) (matBytes j.fmt) = none → t.ms = s.ms))

/-! ## The Reeve (06, 07) -/

/-- R195, R197, R201 to R206: items are dispatched, lapse, are killed, and make way for a preemptor.
The model's choices that it rests on: log entry 34. -/
def Obligations.ReeveDispatchAndPreemption : Prop :=
  (∀ (s : State) (h : Fin 16) (c : Fin 9) (k : Nat) (i : Item), s.nextFor h c = .dispatch k → s.item k = some i → s.late i = false →
    i.d.evWait = false → ∃ t, exec (.itemDispatch h c) s = .next t ∧ (t.rcore h c).cur = some k ∧ (t.rcore h c).st = .running ∧
      (t.item k).map (fun x => (x.state, x.place)) = some (.running, some (.core h c)) ∧
      (t.core (s.coreAt h c)).run = .running ∧ (t.core (s.coreAt h c)).pc = i.d.entry ∧ (t.core (s.coreAt h c)).level = .worker ∧
      (∀ n < 4, (t.core (s.coreAt h c)).gv (n + 1) = i.d.args.getD n 0 % 2 ^ xlen (s.coreAt h c)) ∧
      t.rd R.REEVE_DISPATCHED = (s.rd R.REEVE_DISPATCHED + 1) % 2 ^ R.REEVE_DISPATCHED.w ∧ t.ms.mem = s.ms.mem) ∧
  (∀ (s : State) (h : Fin 16) (c : Fin 9) (k : Nat) (i : Item), s.nextFor h c = .dispatch k → s.item k = some i → s.late i = true →
    exec (.itemDispatch h c) s = .next (s.lapseIfPassed k)) ∧
  (∀ (s : State) (slot : Fin 4096) (i : Item), s.item slot = some i → (i.state = .waiting ∨ i.state = .ready) → s.late i = true →
    i.d.report = false → i.abortSeen = false → ∃ t, exec (.itemDeadlineLapse slot) s = .next t ∧ t.item slot = none ∧
      t.rd R.REEVE_LAPSED_WAIT = (s.rd R.REEVE_LAPSED_WAIT + 1) % 2 ^ R.REEVE_LAPSED_WAIT.w) ∧
  (∀ (s : State) (slot : Fin 4096) (i : Item), s.item slot = some i → s.late i = false → exec (.itemDeadlineLapse slot) s = .next s) ∧
  (∀ (s : State) (slot : Fin 4096) (i : Item) (h c : Nat), s.item slot = some i → i.d.hard = true → i.state = .running → i.outcome = none →
    i.place = some (.core h c) → s.late i = true → ∃ t, exec (.hardItemKill slot) s = .next t ∧
      (t.item slot).map (fun x => (x.outcome, x.reason, x.killAt)) = some (some .lapsed, 1, some s.stp.now) ∧
      2 ∈ (t.core (s.coreAt h c)).irqs ∧ t.rd R.REEVE_KILLED = (s.rd R.REEVE_KILLED + 1) % 2 ^ R.REEVE_KILLED.w) ∧
  (∀ (s : State) (slot : Fin 4096) (p : Item) (h0 c0 : Nat), s.item slot = some p → p.state = .ready → p.d.preemptor = true →
    p.d.target = 0 → s.late p = false → s.bit R.REEVE_CTRL_ENABLE = true → h0 < 16 → c0 < 8 → (s.victimOk p h0 c0).isSome = true →
    (∀ h c, h < 16 → c < 8 → (s.rcore h c).st = .idle → s.eligible h c p.d = false) →
    s.reeve.cores.any (fun _ r => decide (r.reserved = some slot.val)) = false → ∃ t h c, exec (.preemptSelect slot) s = .next t ∧ h < 16 ∧ c < 8 ∧
      (s.victimOk p h c).isSome = true ∧ (t.rcore h c).reserved = some slot.val ∧ (t.rcore h c).st = .preempting ∧
      1 ∈ (t.core (s.coreAt h c)).irqs ∧ t.reeve.items = s.reeve.items) ∧
  (∀ (s : State) (h : Fin 16) (c : Fin 9) (p : Nat), (s.rcore h c).reserved = some p → (s.rcore h c).taken = false → s.item p = none →
    (s.rcore h c).st = .preempting → ∃ t, exec (.preemptWithdraw h c) s = .next t ∧ (t.rcore h c).reserved = none ∧
      (t.rcore h c).st = .running ∧ 1 ∉ (t.core (s.coreAt h c)).irqs) ∧
  (∀ (s : State) (h : Fin 16) (c : Fin 9) (k : Nat) (i : Item), s.nextFor h c = .resume k → s.item k = some i →
    ∃ t, exec (.itemResume h c) s = .next t ∧ (t.rcore h c).cur = some k ∧ (t.rcore h c).st = .running ∧ k ∉ (t.rcore h c).held ∧
      (t.item k).map (·.state) = some .running ∧ (t.core (s.coreAt h c)).level = .keeper ∧
      (t.core (s.coreAt h c)).pc = ((s.core (s.coreAt h c)).cr 0xC00 + 0x1C0) % 2 ^ xlen (s.coreAt h c)) ∧
  (∀ (s : State) (h : Fin 16) (c : Fin 9) (k : Nat) (i : Item), s.nextFor h c = .reenter k → s.item k = some i →
    ∃ t, exec (.preemptedKillReentry h c) s = .next t ∧ (t.rcore h c).cur = some k ∧ (t.rcore h c).st = .killing ∧
      (t.item k).map (·.state) = some .killing ∧
      (t.core (s.coreAt h c)).pc = ((s.core (s.coreAt h c)).cr 0xC00 + 0x80) % 2 ^ xlen (s.coreAt h c))

/-- R48, R198, R207, R218: the ends of items on cores.
The model's choices that it rests on: log entry 33. -/
def Obligations.ReeveItemEnds : Prop :=
  (∀ (s : State) (h : Fin 16) (c : Fin 9) (slot : Nat) (i : Item), (s.core (s.coreAt h c)).run = .doneSent 0 →
    (s.rcore h c).st = .running → (s.rcore h c).cur = some slot → s.item slot = some i → i.outcome = none → i.d.report = false →
    i.abortSeen = false → ∃ t, exec (.coreDoneArrival h c) s = .next t ∧ t.item slot = none ∧ (t.rcore h c).cur = none ∧
      (t.rcore h c).st = .idle ∧ (t.core (s.coreAt h c)).run = .idle) ∧
  (∀ (s : State) (h : Fin 16) (c : Fin 9) (slot : Nat) (i : Item), (s.core (s.coreAt h c)).run = .doneSent 2 →
    (s.rcore h c).st = .preempting → (s.rcore h c).cur = some slot → s.item slot = some i → i.outcome = none →
    ∃ t, exec (.coreDoneArrival h c) s = .next t ∧ (t.item slot).map (·.state) = some .preempted ∧
      (t.rcore h c).held = (s.rcore h c).held ++ [slot] ∧ (t.rcore h c).cur = none ∧ (t.rcore h c).st = .idle) ∧
  (∀ (s : State) (h : Fin 16) (c : Fin 9) (slot t0 : Nat) (i : Item), (s.rcore h c).cur = some slot → s.item slot = some i →
    i.killAt = some t0 → t0 + 2000 * 65536 ≤ s.stp.now → (s.rcore h c).st ≠ .lapseOverrun →
    ∃ t, exec (.lapseHandlerOverrun h c) s = .next t ∧ (t.rcore h c).st = .lapseOverrun ∧ (t.rcore h c).cur = none ∧
      t.rd R.REEVE_STATUS_OVERRUN = 1 ∧ ⟨.overrun, rkey h c⟩ ∈ t.hallIrq ∧
      t.rd R.REEVE_OVERRUNS = (s.rd R.REEVE_OVERRUNS + 1) % 2 ^ R.REEVE_OVERRUNS.w) ∧
  (∀ (s : State) (h : Fin 16) (c : Fin 9) (v : Word), bitOf v 28 = true → (s.rcore h c).st = .lapseOverrun → (s.rcore h c).ovrDone = true →
    ∃ t, exec (.overrunCoreRelease h c v) s = .next t ∧ (t.rcore h c).st = .idle ∧ (t.rcore h c).ovrDone = false ∧
      (t.core (s.coreAt h c)).run = .idle)

/-- R183, R188, R190, R191, R210, R214: submissions, their outcomes, decrements and aborts.
The model's choices that it rests on: log entries 33 and 35. -/
def Obligations.ReeveSubmitDecrementAbort : Prop :=
  (∀ (s : State) (p : Fin 16) (v : Word), (s.reeve.ports.get p).coming ≠ none →
    exec (.reeveSubmitCmd p v) s = .next (s.wr R.REEVE_STATUS_SUBMIT_LOST 1)) ∧
  (∀ (s : State) (p : Fin 16) (v : Word), (s.reeve.ports.get p).coming = none → s.freeSlots = 0 →
    ∃ t, exec (.reeveSubmitCmd p v) s = .next t ∧ (t.reeve.ports.get p).coming = some (outcomeBody false 1 0) ∧
      t.reeve.items = s.reeve.items ∧ t.regs = s.regs) ∧
  (∀ (s u : State) (p : Fin 16) (v : Word) (c : Nat), (s.reeve.ports.get p).coming = none → s.freeSlots ≠ 0 →
    s.looseCheck (bitsOf v 6 20 * 64) = (.error c, u) → ∃ t, exec (.reeveSubmitCmd p v) s = .next t ∧
      (t.reeve.ports.get p).coming = some (outcomeBody false c 0) ∧ t.reeve.items = u.reeve.items ∧ t.regs = u.regs) ∧
  (∀ (s u : State) (p : Fin 16) (v : Word) (d : ItemDesc), (s.reeve.ports.get p).coming = none → s.freeSlots ≠ 0 →
    s.looseCheck (bitsOf v 6 20 * 64) = (.ok d, u) → d.deps ≠ 0 → d.evWait = false → ∃ t, exec (.reeveSubmitCmd p v) s = .next t ∧
      (t.item (firstGap 0 u.reeve.items.keys)).map (fun x => (x.d, x.state, x.count)) = some (d, .waiting, d.deps) ∧
      (t.reeve.ports.get p).coming = some (outcomeBody true 0 (looseName (firstGap 0 u.reeve.items.keys)
        (u.reeve.gens.get (firstGap 0 u.reeve.items.keys))))) ∧
  (∀ (s : State) (p : Fin 16) (b : Nat), (s.reeve.ports.get p).coming = some b → (s.reeve.ports.get p).placed = none →
    ∃ t, exec (.reeveSubmitOutcome p) s = .next t ∧
      t.reeve.ports.get p = { s.reeve.ports.get p with coming := none, placed := some (b + (s.reeve.ports.get p).seq % 256 * 2 ^ 40),
                                                       seq := ((s.reeve.ports.get p).seq + 1) % 256 } ∧ t.regs = s.regs) ∧
  (∀ (s : State) (p : Fin 16) (b : Nat), (s.reeve.ports.get p).placed = some b →
    (∃ t, exec (.reeveSubmitResultTake p true) s = .next t ∧ t.ans = ⟨.ok, 0, [⟨BitVec.ofNat 64 (2 ^ 63 + b), false⟩]⟩ ∧
      (t.reeve.ports.get p).placed = none ∧ (t.reeve.ports.get p).taken = some b) ∧
    (∃ t, exec (.reeveSubmitResultTake p false) s = .next t ∧ t.ans = ⟨.ok, 0, [⟨0, false⟩]⟩ ∧ t.reeve = s.reeve)) ∧
  (∀ (s : State) (v : Word) (k : Nat) (i : Item), s.named (bitsOf v 0 24) = .item k → s.item k = some i → s.late i = false →
    i.outcome = none → 2 ≤ i.count → i.d.evWait = false → bitOf v 31 = false → ∃ t, exec (.reeveDecr v) s = .next t ∧
      (t.item k).map (fun x => (x.count, x.tainted, x.state)) = some (i.count - 1, i.tainted, i.state)) ∧
  (∀ (s : State) (n : Nat) (tok : Token) (k : Nat) (i : Item), s.reeve.tokens[n]? = some tok → s.named tok.name = .item k →
    s.item k = some i → s.late i = false → i.outcome = none → 2 ≤ i.count → i.d.evWait = false → tok.lapse = true →
    ∃ t, exec (.decrementArrival n) s = .next t ∧
      (t.item k).map (fun x => (x.count, x.tainted, x.lapses)) = some (i.count - 1, true, min (i.lapses + 1) 4095)) ∧
  (∀ (s : State) (v : Word), s.named (bitsOf v 0 24) = .nothing → ∃ t, exec (.reeveDecr v) s = .next t ∧
    t.rd R.REEVE_DROP_UNPLANNED = (s.rd R.REEVE_DROP_UNPLANNED + 1) % 2 ^ R.REEVE_DROP_UNPLANNED.w ∧ t.reeve.items = s.reeve.items) ∧
  (∀ (s : State) (v : Word) (k : Nat) (i : Item), s.named (bitsOf v 0 24) = .item k → s.item k = some i → i.outcome = none →
    (i.state = .waiting ∨ i.state = .ready) → (s.reeve.queues.get i.d.reportQ).waiting = [] →
    (s.reeve.queues.get i.d.reportQ).unread.length < 64 → ∃ t, exec (.reeveAbort v) s = .next t ∧ t.item k = none ∧
      (t.reeve.queues.get i.d.reportQ).unread.length = (s.reeve.queues.get i.d.reportQ).unread.length + 1 ∧
      t.rd R.REEVE_ABORTED = (s.rd R.REEVE_ABORTED + 1) % 2 ^ R.REEVE_ABORTED.w) ∧
  (∀ (s : State) (v : Word), s.named (bitsOf v 0 24) = .nothing → exec (.reeveAbort v) s = .next (s.inc R.REEVE_ABORT_MISS))

/-- R213 to R216, R219: report queues, event flags and REEVE_CTRL.
The model's choices that it rests on: log entry 34. -/
def Obligations.ReeveReportsAndFlags : Prop :=
  (∀ (s : State) (q : Fin 64) (slot : Nat) (rest : List Nat) (i : Item), (s.reeve.queues.get q).waiting = slot :: rest →
    (s.reeve.queues.get q).unread.length < 64 → s.item slot = some i → i.released = false →
    ∃ t, exec (.reportPostDeferred q) s = .next t ∧ (t.reeve.queues.get q).waiting = rest ∧
      (t.reeve.queues.get q).unread.length = (s.reeve.queues.get q).unread.length + 1 ∧ (t.item slot).map (·.reported) = some true) ∧
  (∀ (s : State) (q : Fin 64) (b : Nat) (r : List Nat), (s.reeve.queues.get q).unread = b :: r →
    ∃ t, exec (.reeveReportTake q true) s = .next t ∧ t.ans = ⟨.ok, 0, [⟨BitVec.ofNat 64 (2 ^ 63 + b), false⟩]⟩ ∧
      (t.reeve.queues.get q).unread = r ∧ (t.reeve.queues.get q).taken = some b ∧
      t.rd (R.REEVE_REPORT_LEVEL_COUNT q) = r.length % 2 ^ (R.REEVE_REPORT_LEVEL_COUNT q).w) ∧
  (∀ (s : State) (q : Fin 64) (b : Nat), (s.reeve.queues.get q).unread = [] → (s.reeve.queues.get q).taken = some b →
    exec (.reeveReportTake q true) s = .next { s with ans := ⟨.ok, 0, [⟨BitVec.ofNat 64 (2 ^ 62 + b), false⟩]⟩ }) ∧
  (∀ (s : State) (q : Fin 64) (v : Word), bitOf v 0 = true → ∃ t, exec (.reportQueueFlush q v) s = .next t ∧
    (t.reeve.queues.get q).unread = [] ∧ t.rd (R.REEVE_REPORT_LEVEL_COUNT q) = 0 ∧ t.rd (R.REEVE_REPORT_LEVEL_FULL q) = 0 ∧
    t.rd (R.REEVE_REPORT_CFG_IRQ_EN q) = (R.REEVE_REPORT_CFG_IRQ_EN q).of v ∧
    t.rd (R.REEVE_REPORT_LEVEL_LOST q) = min (s.rd (R.REEVE_REPORT_LEVEL_LOST q) + (s.reeve.queues.get q).unread.length)
      (2 ^ (R.REEVE_REPORT_LEVEL_LOST q).w - 1)) ∧
  (∀ (s : State) (g : Fin 64) (v : Word), s.bit R.REEVE_CTRL_COMPAT = true → s.reeve.items.entries = [] →
    ∃ t, exec (.evSet g false v) s = .next t ∧ t.flags g = s.flags g ||| v.zeroExtend 64 ∧
      sameRegs s t [R.REEVE_EV_FLAGS_FLAGS g 0, R.REEVE_EV_FLAGS_FLAGS g 1]) ∧
  (∀ (s : State) (g : Fin 64) (v : Word), s.bit R.REEVE_CTRL_COMPAT = false → exec (.evSet g false v) s = .next s) ∧
  (∀ (s : State) (g : Fin 64) (v : Word), ∃ t, exec (.evFlagsClear g true v) s = .next t ∧
    t.flags g = s.flags g &&& ~~~(v.zeroExtend 64 <<< 32) ∧ sameRegs s t [R.REEVE_EV_FLAGS_FLAGS g 0, R.REEVE_EV_FLAGS_FLAGS g 1]) ∧
  (∀ (s : State) (v : Word), s.reeve.items.entries = [] → ∃ t, exec (.reeveCompatWrite v) s = .next t ∧
    t.rd R.REEVE_CTRL_ENABLE = R.REEVE_CTRL_ENABLE.of v ∧ t.rd R.REEVE_CTRL_COMPAT = R.REEVE_CTRL_COMPAT.of v ∧
    sameRegs s t [R.REEVE_CTRL_ENABLE, R.REEVE_CTRL_COMPAT])

/-! ## The workshops: Kiln, Wheel and Mill (08, 09) -/

namespace Sys2Proof.Claims
open Machine

/-- The first job `j` of an engine may be worked now: it is not decided, does not wait, and its deadline has not passed. -/
def workable (s : State) (w e : Nat) (j : WsJob) : Prop :=
  s.job w e 0 = some j ∧ j.live = true ∧ j.waiting = false ∧ s.jobLate j = false

/-- `j1` is `j` one unit further: started, one unit more done, and its outputs complete as `last` says. -/
def unitFurther (j j1 : WsJob) (last : WsJob → Bool) : Prop :=
  j1.started = true ∧ j1.done = j.done + 1 ∧ j1.decided = none ∧ j1.outs = last j1 ∧ j1.slot = j.slot ∧ j1.words = j.words ∧ j1.addr = j.addr

end Sys2Proof.Claims

/-- R221, R229, R232, R240 to R245: the Kiln's operations work the running job unit by unit; a passed deadline lapses it
instead; the CRC of a short clean input.
The model's choices that it rests on: log entries 9 and 38. -/
def Obligations.KilnOperations : Prop :=
  (∀ p ∈ ([(1, Instr.ldpcDec), (2, Instr.ldpcEnc), (3, Instr.polarDec), (4, Instr.polarEnc), (5, Instr.turboDec), (6, Instr.turboEnc),
      (7, Instr.crcJob)] : List (Nat × (Fin 16 → Nat → Instr))),
    ∀ (s : State) (e : Fin 16) (j : WsJob), workable s 0 e j → jobOp j.words = p.1 → (parseKiln j.words).isSome = true →
      (s.kilnUnit { j with started := true }).1.decided = none → ∃ t j1, exec (p.2 e 1) s = .next t ∧ t.job 0 e 0 = some j1 ∧
        unitFurther j j1 kilnLast ∧ t.reeve = s.reeve) ∧
  (∀ p ∈ ([(1, Instr.ldpcDec), (2, Instr.ldpcEnc), (3, Instr.polarDec), (4, Instr.polarEnc), (5, Instr.turboDec), (6, Instr.turboEnc),
      (7, Instr.crcJob)] : List (Nat × (Fin 16 → Nat → Instr))),
    ∀ (s : State) (e : Fin 16) (j : WsJob), s.job 0 e 0 = some j → j.live = true → j.waiting = false → s.jobLate j = true →
      jobOp j.words = p.1 → ∃ t j1, exec (p.2 e 1) s = .next t ∧ t.job 0 e 0 = some j1 ∧ j1.decided = some .lapsed ∧ j1.done = j.done ∧
        t.ms = s.ms) ∧
  (∀ (s u : State) (e : Fin 16) (j : WsJob) (c : CrcJob) (inp : List (Nat × Bool)), workable s 0 e j → jobOp j.words = 7 →
    parseKiln j.words = some (.crc c) → j.done = 0 → c.len ≤ 8 * 65536 → s.dmaRead (wsMid 0) (jobIn j.words) (ceilDiv c.len 8) = (some inp, u) →
    anyBad inp = false → ∃ t j1, exec (.crcJob e 1) s = .next t ∧ t.job 0 e 0 = some j1 ∧ j1.outs = true ∧
      j1.crc = c.g.shift (Nat.xor (c.g.shift j.crc c.len) (c.g.rem ((unpackBits (byteVals inp) c.len)))) c.tail ∧ t.ms = u.ms)

/-- R271, R281 to R283: the Wheel's and the Mill's operations work the running job unit by unit.
The model's choices that it rests on: log entries 38 and 39. -/
def Obligations.WheelAndMillOperations : Prop :=
  (∀ p ∈ ([(1, Instr.wheelFwd), (2, Instr.wheelInv), (3, Instr.wheelCorr)] : List (Nat × (Fin 16 → Nat → Instr))),
    ∀ (s : State) (e : Fin 16) (j : WsJob), workable s 1 e j → nbits (wword j.words 0) 28 4 = p.1 → (parseWheel j.words).isSome = true →
      (s.wheelUnit { j with started := true }).1.decided = none → ∃ t j1, exec (p.2 e 1) s = .next t ∧ t.job 1 e 0 = some j1 ∧
        unitFurther j j1 wheelLast ∧ t.reeve = s.reeve) ∧
  (∀ p ∈ ([(1, Instr.ulWeights), (2, Instr.ulDetect), (3, Instr.dlWeights)] : List (Nat × (Fin 8 → Nat → Instr))),
    ∀ (s : State) (e : Fin 8) (j : WsJob) (m : MillJob), workable s 2 e j → nbits (wword j.words 0) 28 4 = p.1 →
      parseMill j.words = some m → (parseGroup m j.table j.done).isSome = true →
      (s.millUnit { j with started := true }).1.decided = none → ∃ t j1, exec (p.2 e 1) s = .next t ∧ t.job 2 e 0 = some j1 ∧
        unitFurther j j1 millLast ∧ t.reeve = s.reeve)

/-- R208, R224, R225, R256, R218: items go to engines, and come back with their job's status.
The model's choices that it rests on: log entry 36. -/
def Obligations.WorkshopHandoverAndEnds : Prop :=
  (∀ (s : State) (w : Fin 3) (k : Nat) (i : Item), s.bit (wsEnable w) = true → s.bit R.REEVE_CTRL_ENABLE = true →
    s.topItem (fun _ i => decide (i.state = .ready ∧ i.d.target = w.val + 1) && (s.engineFor w i.d).isSome) = some k → s.item k = some i →
    s.late i = false → i.d.evWait = false → ∃ t, exec (.workshopJobHandoff w) s = .next t ∧
      (t.item k).map (fun x => (x.state, x.place)) = some (.running, some (.engine w ((s.engineFor w i.d).getD 0))) ∧
      (t.jobs w ((s.engineFor w i.d).getD 0)).length = (s.jobs w ((s.engineFor w i.d).getD 0)).length + 1) ∧
  (∀ (s : State) (n : Nat) (x : WsEnd) (i : Item), s.reeve.wsEnds[n]? = some x → s.item x.slot = some i → i.d.report = false →
    i.abortSeen = false → ∃ t, exec (.workshopEndStatus n) s = .next t ∧ t.item x.slot = none ∧ t.reeve.wsEnds = s.reeve.wsEnds.eraseIdx n) ∧
  (∀ (s : State) (w : Fin 3) (v : Word), ∃ t, exec (.workshopEngEnWrite w v) s = .next t ∧
    t.rd (engEn w) = bitsOf v 0 (engCount w) ∧ t.ws = s.ws) ∧
  (∀ (s : State) (e : Fin 16) (j : WsJob), s.job 0 e 0 = some j → j.live = false → ∃ t o late, exec (.kilnJobEnd e false true) s = .next t ∧
    t.jobs 0 e = (s.jobs 0 e).eraseIdx 0 ∧ t.reeve.wsEnds = s.reeve.wsEnds ++ [⟨j.slot, o, late⟩] ∧ (o = j.outcome ∨ o = .aborted)) ∧
  (∀ (s : State) (e : Fin 16) (j : WsJob), s.job 0 e 0 = some j → j.live = false → ∃ t, exec (.kilnJobEnd e false false) s = .next t ∧
    t.jobs 0 e = (s.jobs 0 e).eraseIdx 0 ∧ t.reeve.wsEnds = s.reeve.wsEnds ++ [⟨j.slot, .aborted, false⟩] ∧ t.ms.mem = s.ms.mem) ∧
  (∀ (s : State) (mill : Bool) (e : Fin 16) (j : WsJob), s.job (wmOf mill) e 0 = some j → j.live = false →
    ∃ t, exec (.wheelMillJobEnd mill e false false) s = .next t ∧ t.jobs (wmOf mill) e = (s.jobs (wmOf mill) e).eraseIdx 0 ∧
      t.reeve.wsEnds = s.reeve.wsEnds ++ [⟨j.slot, .aborted, false⟩] ∧ t.ms.mem = s.ms.mem) ∧
  (∀ (s : State) (e : Fin 16) (j : WsJob), s.job 0 e 0 = some j → j.waiting = true → s.mustWait j = false →
    ∃ t, exec (.kilnHandleWaitEnd e) s = .next t ∧ t.job 0 e 0 = some { j with waiting := false } ∧ t.ms = s.ms)

/-- R245 to R249, R259 to R262: checkpoints, sweeps, aborts and bus errors decide jobs.
The model's choices that it rests on: log entry 38. -/
def Obligations.WorkshopJobsDecided : Prop :=
  (∀ (s : State) (e : Fin 16) (staged : Bool) (j : WsJob), s.job 0 e (if staged then 1 else 0) = some j → j.live = true → s.jobLate j = true →
    ∃ t, exec (.kilnCheckpointLapse e staged false) s = .next t ∧
      t.job 0 e (if staged then 1 else 0) = some (j.stop .lapsed 0) ∧ t.ms = s.ms) ∧
  (∀ (s : State) (mill : Bool) (e : Fin 16) (staged : Bool) (j : WsJob), s.job (wmOf mill) e (if staged then 1 else 0) = some j → j.live = true →
    s.jobLate j = true → ∃ t, exec (.wheelMillCheckpointLapse mill e staged) s = .next t ∧
      t.job (wmOf mill) e (if staged then 1 else 0) = some (j.stop .lapsed 0) ∧ t.ms = s.ms) ∧
  (∀ (s : State) (g : Fin 64) (tag : Fin 16) (e : Fin 16) (j : WsJob), s.sweepReached g tag = true → s.job 0 e 0 = some j → j.live = true →
    s.jobWindow j = some (g.val, tag.val) → ∃ t, exec (.kilnSweep g tag []) s = .next t ∧ t.job 0 e 0 = some (j.stop .lapsed 0) ∧ t.ms = s.ms) ∧
  (∀ (s : State) (g : Fin 64) (tag : Fin 16) (e : Fin 8) (mill : Bool) (j : WsJob), s.sweepReached g tag = true → s.job (wmOf mill) e 0 = some j →
    j.live = true → s.jobWindow j = some (g.val, tag.val) → ∃ t, exec (.wheelMillSweep mill g tag) s = .next t ∧
      t.job (wmOf mill) e 0 = some (j.stop .lapsed 0) ∧ t.ms = s.ms) ∧
  (∀ (s : State) (slot : Fin 4096) (i : Item) (e : Fin 16) (j : WsJob), s.item slot = some i → i.d.target = 1 → slot.val ∈ s.reeve.wsAborts →
    s.job 0 e 0 = some j → j.slot = slot → j.live = true → ∃ t, exec (.kilnAbort slot false) s = .next t ∧
      t.job 0 e 0 = some (j.stop .aborted 0) ∧ slot.val ∉ t.reeve.wsAborts ∧ t.ms = s.ms) ∧
  (∀ (s : State) (slot : Fin 4096) (i : Item) (e : Fin 8) (j : WsJob), s.item slot = some i → (i.d.target = 2 ∨ i.d.target = 3) →
    slot.val ∈ s.reeve.wsAborts → s.job (i.d.target - 1) e 0 = some j → j.slot = slot → j.live = true →
    ∃ t, exec (.wheelMillAbort slot) s = .next t ∧ t.job (i.d.target - 1) e 0 = some (j.stop .aborted 0) ∧
      slot.val ∉ t.reeve.wsAborts ∧ t.ms = s.ms) ∧
  (∀ (s : State) (e : Fin 16) (j : WsJob), s.job 0 e 0 = some j → j.started = true → j.live = true →
    ∃ t, exec (.kilnBusError e) s = .next t ∧ t.job 0 e 0 = some (j.stop .aborted 6) ∧ t.ms = s.ms) ∧
  (∀ (s : State) (mill : Bool) (e : Fin 16) (j : WsJob), s.job (wmOf mill) e 0 = some j → j.started = true → j.live = true →
    ∃ t, exec (.wheelMillBusError mill e) s = .next t ∧ t.job (wmOf mill) e 0 = some (j.stop .aborted 6) ∧ t.ms = s.ms)

/-- R235, R236: HARQ handles and their area.
The model's choices that it rests on: log entry 37. -/
def Obligations.KilnHarqHandles : Prop :=
  (∀ (s : State) (v : Word), bitsOf v 30 2 = 1 → (s.handle (bitsOf v 0 14)).st = 0 → s.rd R.KILN_HARQ_ARG_LEN ≠ 0 →
    s.rd R.KILN_HARQ_AREA_SIZE ≠ 0 → s.rd R.KILN_HARQ_ARG_BASE + s.rd R.KILN_HARQ_ARG_LEN ≤ s.rd R.KILN_HARQ_AREA_SIZE * 256 →
    ∃ t, exec (.kilnHarqOpen v) s = .next t ∧
      t.handle (bitsOf v 0 14) = ⟨1, s.rd R.KILN_HARQ_ARG_BASE, s.rd R.KILN_HARQ_ARG_LEN⟩ ∧
      t.rd R.KILN_HARQ_RESULT_OP = 1 ∧ t.rd R.KILN_HARQ_RESULT_OUTCOME = 0 ∧ t.rd R.KILN_HARQ_RESULT_HANDLE = bitsOf v 0 14 ∧ t.ms = s.ms) ∧
  (∀ (s : State) (v : Word), bitsOf v 30 2 = 1 → (s.handle (bitsOf v 0 14)).st ≠ 0 → ∃ t, exec (.kilnHarqOpen v) s = .next t ∧
    t.rd R.KILN_HARQ_RESULT_OUTCOME = 1 ∧ t.rd R.KILN_HARQ_RESULT_REASON = 1 ∧ t.ws = s.ws ∧
    sameRegs s t [R.KILN_HARQ_RESULT_OP, R.KILN_HARQ_RESULT_OUTCOME, R.KILN_HARQ_RESULT_REASON, R.KILN_HARQ_RESULT_HANDLE]) ∧
  (∀ (s : State) (v : Word), bitsOf v 30 2 = 2 → (s.handle (bitsOf v 0 14)).st = 1 → s.named? (bitsOf v 0 14) = false →
    ∃ t, exec (.kilnHarqClose v) s = .next t ∧ t.handle (bitsOf v 0 14) = {} ∧ t.rd R.KILN_HARQ_RESULT_OP = 2 ∧
      t.rd R.KILN_HARQ_RESULT_OUTCOME = 0 ∧ t.ms = s.ms) ∧
  (∀ (s : State) (v : Word), bitsOf v 30 2 = 2 → (s.handle (bitsOf v 0 14)).st = 1 → s.named? (bitsOf v 0 14) = true →
    ∃ t, exec (.kilnHarqClose v) s = .next t ∧ (t.handle (bitsOf v 0 14)).st = 2 ∧ t.rd R.KILN_HARQ_RESULT_OUTCOME = 2) ∧
  (∀ (s : State) (v : Word), s.ws.handles.any (fun _ h => decide (h.st ≠ 0)) = false → bitsOf v 18 14 ≤ 8192 →
    bitsOf v 0 15 + bitsOf v 18 14 ≤ 32768 → ∃ t, exec (.kilnHarqAreaWrite v) s = .next t ∧ t.rd R.KILN_HARQ_AREA_SIZE = bitsOf v 18 14 ∧
      t.rd R.KILN_HARQ_AREA_BASE = bitsOf v 0 15 ∧ sameRegs s t [R.KILN_HARQ_AREA_SIZE, R.KILN_HARQ_AREA_BASE]) ∧
  (∀ (s : State) (v : Word), s.ws.handles.any (fun _ h => decide (h.st ≠ 0)) = true → ∃ t, exec (.kilnHarqAreaWrite v) s = .next t ∧
    t.rd R.KILN_STATUS_AREA_REFUSED = 1 ∧ t.ws = s.ws ∧ sameRegs s t [R.KILN_STATUS_AREA_REFUSED])

/-! ## The Sieve (10) -/

namespace Sys2Proof.Claims
open Machine

/-- Input indices of channel `c` whose index time plus floor(LATE / 2) ticks has passed, counted from index 0 (R293). -/
def overdue (s : State) (c : Nat) : Nat :=
  let x := (s.stp.now : Int) - ((s.chan c).f0 + ((s.rd (R.SIEVE_CH_BURST_LATE c) / 2 * 4 : Nat) : Int)) * 65536
  if x < 0 then 0 else (x * ((s.svCfg c).spf : Int) / (10000000 * 65536)).toNat + 1

end Sys2Proof.Claims

/-- R291, R296, R301 to R305, R308, R309: the life of a channel, its Bell marks, its mode, its banks, its delay.
The model's choices that it rests on: log entries 40, 41 and 74. -/
def Obligations.SieveChannelLifeAndSettings : Prop :=
  (∀ (s : State) (c : Fin 1024), s.chanSt c = 0 → s.sieveCfgErr c = 0 → ∃ t, exec (.sieveStart c) s = .next t ∧ t.chanSt c = 1 ∧
    t.rd (R.SIEVE_CH_STATUS_CFG_ERR c) = 0 ∧ (t.chan c).startNs = s.nowUp ∧ (t.chan c).active = s.rd (R.SIEVE_CH_FIR_START_BANK c) ∧
    t.rd R.SIEVE_RATE_USED_SUM = (s.rd R.SIEVE_RATE_USED_SUM + s.rd (R.SIEVE_CH_RATE_SPF c)) % 2 ^ 29 ∧ t.ms = s.ms) ∧
  (∀ (s : State) (c : Fin 1024), s.chanSt c = 0 → s.sieveCfgErr c ≠ 0 → ∃ t, exec (.sieveStart c) s = .next t ∧ t.chanSt c = 0 ∧
    t.rd (R.SIEVE_CH_STATUS_CFG_ERR c) = s.sieveCfgErr c ∧ sameRegs s t [R.SIEVE_CH_STATUS_CFG_ERR c] ∧ t.sv = s.sv) ∧
  (∀ (s : State) (c : Fin 1024), s.chanSt c = 1 → s.rd (R.LG_STATUS_STATE (s.chanGroup c)) = 2 →
    s.reached (s.frameAtOrAfter (s.chanGroup c) (max ((s.chan c).startNs + 10000) (s.group (s.chanGroup c)).runNs) false) = true →
    ∃ t, exec (.sieveChannelRun c) s = .next t ∧ t.chanSt c = 2 ∧ (t.chan c).next = 0 ∧ (t.chan c).guard = true ∧ (t.chan c).fir = [] ∧
      (t.chan c).f0 = s.frameAtOrAfter (s.chanGroup c) (max ((s.chan c).startNs + 10000) (s.group (s.chanGroup c)).runNs) false ∧
      t.rd (R.SIEVE_CH_STATUS_MODE c) = 1) ∧
  (∀ (s : State) (c : Fin 1024), s.chanSt c = 2 → ∃ t, exec (.sieveStop c) s = .next t ∧ t.chanSt c = 3 ∧ (t.chan c).pend = none ∧
    s.nowNs < (t.chan c).stopNs ∧ (t.chan c).stopNs ≤ s.nowNs + 10000000 ∧ ((t.chan c).stopNs - s.groupBase (s.chanGroup c)) % 10000000 = 0 ∧
    (t.chan c).bursts = (s.chan c).bursts) ∧
  (∀ (s : State) (c : Fin 1024), s.chanSt c = 3 → s.reached (s.chan c).stopNs = true → (s.chan c).bursts = [] →
    ∃ t, exec (.sieveChannelCease c) s = .next t ∧ t.chanSt c = 0 ∧ (t.chan c).buf = [] ∧ (t.chan c).fade = none ∧
      t.rd R.SIEVE_RATE_USED_SUM = s.rd R.SIEVE_RATE_USED_SUM - s.rd (R.SIEVE_CH_RATE_SPF c)) ∧
  (∀ (s : State) (c : Fin 1024) (v : Word), bitOf v 29 = true → 4 ≤ (R.SIEVE_CH_CTRL_SWAP_FADE_LOG2 c).of v →
    (R.SIEVE_CH_CTRL_SWAP_FADE_LOG2 c).of v ≤ 12 → s.chanSt c ≠ 0 → (s.chan c).fade = none →
    (R.SIEVE_CH_CTRL_SWAP_BANK c).of v ≠ (s.chan c).active → ∃ t, exec (.sieveSwap c v) s = .next t ∧
      (t.chan c).fade = some ⟨(R.SIEVE_CH_CTRL_SWAP_BANK c).of v, (R.SIEVE_CH_CTRL_SWAP_FADE_LOG2 c).of v, s.stp.now, none⟩ ∧
      t.rd (R.SIEVE_CH_STATUS_FADING c) = 1) ∧
  (∀ (s : State) (c : Fin 1024) (v : Word) (f : Fade), bitOf v 29 = true → 4 ≤ (R.SIEVE_CH_CTRL_SWAP_FADE_LOG2 c).of v →
    (R.SIEVE_CH_CTRL_SWAP_FADE_LOG2 c).of v ≤ 12 → s.chanSt c ≠ 0 → (s.chan c).fade = some f → ∃ t, exec (.sieveSwap c v) s = .next t ∧
      (t.chan c).fade = some f ∧ (t.chan c).pend = some ((R.SIEVE_CH_CTRL_SWAP_BANK c).of v, (R.SIEVE_CH_CTRL_SWAP_FADE_LOG2 c).of v) ∧
      t.rd (R.SIEVE_CH_STATUS_SWAP_PENDING c) = 1) ∧
  (∀ (s : State) (c : Fin 1024) (v : Word), (R.SIEVE_CH_CTRL_SWAP_FADE_LOG2 c).of v < 4 → exec (.sieveSwap c v) s = .next s) ∧
  (∀ (s : State) (c : Fin 1024) (f : Fade), (s.chan c).fade = some f → f.j = some (2 ^ f.log2) → (s.chan c).pend = none →
    ∃ t, exec (.sieveFadeEnd c) s = .next t ∧ (t.chan c).active = f.bank ∧ (t.chan c).fade = none ∧ t.rd (R.SIEVE_CH_STATUS_FADING c) = 0) ∧
  (∀ (s : State) (c : Fin 1024), ∃ t, exec (.forceGuard c) s = .next t ∧ (t.chan c).guard = true ∧ (t.chan c).gcount = 0 ∧
    t.rd (R.SIEVE_CH_STATUS_MODE c) = 1 ∧ (t.chan c).next = (s.chan c).next) ∧
  (∀ (s : State) (c : Fin 1024), s.bit (R.SIEVE_CH_GUARD_TEST c) = false → (s.chan c).guard = true →
    ∃ t, exec (.leaveGuard c) s = .next t ∧ (t.chan c).leave = true ∧ (t.chan c).guard = true) ∧
  (∀ (s : State) (c : Fin 1024), s.bit (R.SIEVE_CH_GUARD_TEST c) = true → exec (.leaveGuard c) s = .next s) ∧
  (∀ (s : State) (c : Fin 1024), (s.chan c).guard = true → (s.chan c).leave = true → s.bit (R.SIEVE_CH_GUARD_TEST c) = false →
    (s.chan c).next % (s.svCfg c).p5 = 0 → ∃ t, exec (.sieveGuardReturn c) s = .next t ∧ (t.chan c).guard = false ∧
      t.rd (R.SIEVE_CH_STATUS_MODE c) = 0) ∧
  (∀ (s : State) (c : Fin 1024) (v : Word), bitOf v 29 = true → ∃ t, exec (.sieveGuardCfgWrite c v) s = .next t ∧
    t.rd (R.SIEVE_CH_GUARD_TEST c) = 1 ∧ t.rd (R.SIEVE_CH_GUARD_AUTO c) = bitsOf v 31 1 ∧ t.rd (R.SIEVE_CH_GUARD_GUARD_ON_WRAP c) = bitsOf v 30 1 ∧
    t.rd (R.SIEVE_CH_GUARD_GUARD_EXTRA c) = bitsOf v 0 16 ∧ (t.chan c).guard = true) ∧
  (∀ (s : State) (c : Fin 1024) (b : Fin 2) (j : Fin 16) (v : Word), s.chanSt c = 0 → ∃ t, exec (.sieveCoefWrite c b j v) s = .next t ∧
    t.rd (R.SIEVE_CH_COEF c b j) = v.toNat ∧ sameRegs s t [R.SIEVE_CH_COEF c b j] ∧ t.sv = s.sv) ∧
  (∀ (s : State) (c : Fin 1024) (b : Fin 2) (j : Fin 16) (v : Word), s.chanSt c ≠ 0 → (s.chan c).active = b →
    ∃ t, exec (.sieveCoefWrite c b j v) s = .next t ∧ sameRegs s t [R.SIEVE_CH_SWAP_COUNTS_COEF_REFUSED c] ∧ t.sv = s.sv ∧
      t.rd (R.SIEVE_CH_SWAP_COUNTS_COEF_REFUSED c) = min (s.rd (R.SIEVE_CH_SWAP_COUNTS_COEF_REFUSED c) + 1) 65535) ∧
  (∀ (s : State) (c : Fin 1024) (v : Word), s.chanSt c = 0 → ∃ t, exec (.sieveDelayWrite c v) s = .next t ∧
    t.rd (R.SIEVE_CH_DELAY_INT c) = bitsOf v 16 12 ∧ t.rd (R.SIEVE_CH_DELAY_FRAC c) = bitsOf v 0 6 ∧
    sameRegs s t [R.SIEVE_CH_DELAY_INT c, R.SIEVE_CH_DELAY_FRAC c]) ∧
  (∀ (s : State) (c : Fin 1024) (v : Word), s.chanSt c ≠ 0 → ∃ t b, exec (.sieveDelayWrite c v) s = .next t ∧
    t.rd (R.SIEVE_CH_DELAY_INT c) = bitsOf v 16 12 ∧ (t.chan c).int = (s.chan c).int ∧ (t.chan c).dpend = some (b * 65536) ∧
    s.nowNs < b ∧ b ≤ s.nowNs + s.slotNs (s.chanGroup c) ∧ t.rd (R.SIEVE_CH_STATUS_DELAY_PENDING c) = 1) ∧
  (∀ (s : State) (c : Fin 1024) (b : Int), s.chanSt c = 2 → (s.chan c).dpend = some b →
    (s.svCfg c).atOrAfter (((s.chan c).next + (s.svCfg c).p5 - 1) / (s.svCfg c).p5 * (s.svCfg c).p5) b = true →
    ∃ t, exec (.sieveDelayApply c) s = .next t ∧ (t.chan c).int = s.rd (R.SIEVE_CH_DELAY_INT c) ∧
      (t.chan c).frac = s.rd (R.SIEVE_CH_DELAY_FRAC c) ∧ (t.chan c).dpend = none ∧ t.rd (R.SIEVE_CH_STATUS_DELAY_PENDING c) = 0) ∧
  (∀ (s : State) (c : Fin 1024) (e : Int), (s.bell (s.rd (R.SIEVE_CH_MODE_BELL_SEL c))).edge = some e → s.chanSt c = 2 →
    s.bit (R.SIEVE_CH_MODE_BELL_EN c) = true → (s.chan c).mark ≠ some e → ∃ t n, exec (.sieveBellMark c) s = .next t ∧
      t.rd (R.SIEVE_CH_BELL_IDX_MARK_VALID c) = 1 ∧ (t.chan c).mark = some e ∧ t.rd (R.SIEVE_CH_BELL_IDX_NB c) = n % (s.svCfg c).spf % 2 ^ 23 ∧
      n = (-((-((e - (s.chan c).f0 * 65536) * ((s.svCfg c).spf : Int))) / (10000000 * 65536))).toNat ∧
      (s.bit (R.SIEVE_CH_BELL_IDX_MARK_VALID c) = true → t.rd (R.SIEVE_CH_BELL_IDX_MARK_LOST c) = 1))

/-- R292 to R294, R310 to R314: input blocks, bursts into the ring and their tokens, sweeps, and UP output.
The model's choices that it rests on: log entry 41. -/
def Obligations.SieveInputAndBursts : Prop :=
  (∀ (s : State) (k : Fin 3) (p : Fin 64) (c f : Fin 1024) (n : Nat) (x : List Sample),
    (s.svDown c = false ∨ s.rd (R.SIEVE_CH_MODE_PORT_KIND c) ≠ k ∨ s.rd (R.SIEVE_CH_MODE_PORT c) ≠ p) →
    exec (.sieveBlockArrival k p c f n x) s = .next (s.inc R.SIEVE_DROP_UNPLANNED)) ∧
  (∀ (s : State) (k : Fin 3) (p : Fin 64) (c f : Fin 1024) (n : Nat) (x : List Sample), s.svDown c = true →
    s.rd (R.SIEVE_CH_MODE_PORT_KIND c) = k → s.rd (R.SIEVE_CH_MODE_PORT c) = p → overdue s c ≤ (s.chan c).next →
    s.svIndex c f n = (s.chan c).next → x ≠ [] → ∃ t, exec (.sieveBlockArrival k p c f n x) s = .next t ∧
      (t.chan c).next = (s.chan c).next + x.length ∧ (t.chan c).inGap = false ∧
      t.rd (R.SIEVE_CH_DISC_COUNT c) = s.rd (R.SIEVE_CH_DISC_COUNT c) ∧ t.ms = s.ms) ∧
  (∀ (s : State) (k : Fin 3) (p : Fin 64) (c f : Fin 1024) (n : Nat) (x : List Sample), s.svDown c = true →
    s.rd (R.SIEVE_CH_MODE_PORT_KIND c) = k → s.rd (R.SIEVE_CH_MODE_PORT c) = p → overdue s c ≤ (s.chan c).next →
    (s.chan c).inGap = false → ((s.chan c).next : Int) < s.svIndex c f n → ∃ t, exec (.sieveBlockArrival k p c f n x) s = .next t ∧
      ((t.chan c).next : Int) = s.svIndex c f n + x.length ∧
      t.rd (R.SIEVE_CH_DISC_COUNT c) = min (s.rd (R.SIEVE_CH_DISC_COUNT c) + 1) (2 ^ 32 - 1)) ∧
  (∀ (s : State) (c : Fin 1024), s.svDown c = true → ∃ t, exec (.sieveInputTimeout c) s = .next t ∧
    (t.chan c).next = max (s.chan c).next (overdue s c) ∧ t.ms = s.ms) ∧
  (∀ (s : State) (c : Fin 1024) (i : Nat) (b : SvBurst), s.waitingBurst c = some i → (s.chan c).bursts[i]? = some b →
    passed s.tick (s.burstDeadline c b) = false → s.reached (s.sweepNs (s.chanGroup c) (s.svSlot c b.k0)) = false →
    ∃ t bad, exec (.sieveBurstWrite c) s = .next t ∧ (t.chan c).bursts = (s.chan c).bursts.set i { b with started := true, failed := bad } ∧
      t.ms = (s.ringWrite c ((b.k0 + b.int) % s.rd (R.SIEVE_CH_RING_LEN_LEN c)) b.data).2.ms) ∧
  (∀ (s : State) (c : Fin 1024) (i : Nat) (b : SvBurst), (s.chan c).bursts.findIdx? (·.started) = some i → (s.chan c).bursts[i]? = some b →
    b.failed = false → ∃ t, exec (.sieveBurstAck c) s = .next t ∧ (t.chan c).bursts = (s.chan c).bursts.eraseIdx i ∧
      t.rd (R.SIEVE_CH_BURSTS c) = (s.rd (R.SIEVE_CH_BURSTS c) + 1) % 2 ^ 32 ∧ t.ms = s.ms) ∧
  (∀ (s : State) (c : Fin 1024) (i : Nat) (b : SvBurst), (s.chan c).bursts.findIdx? (·.started) = some i → (s.chan c).bursts[i]? = some b →
    b.failed = false → s.bit (R.SIEVE_CH_NOTIFY_EN c) = true → s.rd (R.SIEVE_CH_NOTIFY_DIV_M1 c) = 0 → (s.chan c).missed = [] →
    ∃ t x, exec (.sieveBurstAck c) s = .next t ∧ t.reeve.tokens = s.reeve.tokens ++ [x] ∧ x.lapse = false ∧
      x.name = windowName (s.chanGroup c) (slotTag (s.svSlot c b.k0))
        ((s.rd (R.SIEVE_CH_NOTIFY_BASE c) + b.k0 % s.perSlot c / (s.svCfg c).bl) % 4096)) ∧
  (∀ (s : State) (c : Fin 1024) (i : Nat) (b : SvBurst), s.waitingBurst c = some i → (s.chan c).bursts[i]? = some b →
    passed s.tick (s.burstDeadline c b) = true → ∃ t, exec (.sieveBurstLate c) s = .next t ∧
      (t.chan c).bursts = (s.chan c).bursts.eraseIdx i ∧ t.rd (R.SIEVE_CH_LATE_BURSTS c) = (s.rd (R.SIEVE_CH_LATE_BURSTS c) + 1) % 2 ^ 32 ∧
      t.ms = s.ms) ∧
  (∀ (s : State) (g : Fin 64) (w : Fin 16), (∀ x ∈ (s.stp.groups.get g).windows, x.wtag ≠ w.val) → exec (.sieveSweep g w) s = .next s) ∧
  (∀ (s : State) (g : Fin 64) (w : Fin 16) (x : Window) (c : Nat) (b : SvBurst), x ∈ (s.stp.groups.get g).windows → x.wtag = w.val →
    s.reached x.sweepNs = true → s.sv.chans.keys = [c] → s.chanGroup c = g.val → s.svDown c = true → (s.chan c).bursts = [b] →
    b.started = false → slotTag (s.svSlot c b.k0) = w.val → ∃ t, exec (.sieveSweep g w) s = .next t ∧ (t.chan c).bursts = [] ∧
      t.rd R.SIEVE_SWEEP_DROPPED = (s.rd R.SIEVE_SWEEP_DROPPED + 1) % 2 ^ 32) ∧
  (∀ (s : State) (c : Fin 1024) (v : Word), ∃ t, exec (.sieveUpReady c v) s = .next t ∧ t.rd (R.SIEVE_CH_UP_READY c) = v.toNat ∧
    sameRegs s t [R.SIEVE_CH_UP_READY c] ∧ t.sv = s.sv) ∧
  (∀ (s : State) (c : Fin 1024), s.svUp c = true → s.upLate c = false → ∃ t data, exec (.sieveUpOutputRequest c) s = .next t ∧
    t.sv.out = s.sv.out ++ [⟨s.rd (R.SIEVE_CH_MODE_PORT_KIND c), s.rd (R.SIEVE_CH_MODE_PORT c), c,
      s.sfnOf (s.chanGroup c) (((s.chan c).f0 - s.groupBase (s.chanGroup c)) / 10000000 + (((s.chan c).next / (s.svCfg c).spf : Nat) : Int)),
      (s.chan c).next % (s.svCfg c).spf, data⟩] ∧
    t.rd (R.SIEVE_CH_BURSTS c) = (s.rd (R.SIEVE_CH_BURSTS c) + 1) % 2 ^ 32) ∧
  (∀ (s : State) (c : Fin 1024), s.svUp c = true → s.upLate c = true → ∃ t, exec (.sieveUpBurstSkip c) s = .next t ∧
    t.sv.out = s.sv.out ∧ t.rd (R.SIEVE_CH_LATE_BURSTS c) = (s.rd (R.SIEVE_CH_LATE_BURSTS c) + 1) % 2 ^ 32)

/-! ## Protected memory, pools, the error log, Harrow and Gleaner (11, 12) -/

namespace Sys2Proof.Claims

/-- The columns of data bits 0 to 63 (R343): the 8-bit values of three set bits, rising, then eight of five. -/
def dataColumns : List Nat := [
  0x07, 0x0B, 0x0D, 0x0E, 0x13, 0x15, 0x16, 0x19, 0x1A, 0x1C, 0x23, 0x25, 0x26, 0x29, 0x2A, 0x2C, 0x31, 0x32, 0x34, 0x38, 0x43, 0x45, 0x46, 0x49, 0x4A,
  0x4C, 0x51, 0x52, 0x54, 0x58, 0x61, 0x62, 0x64, 0x68, 0x70, 0x83, 0x85, 0x86, 0x89, 0x8A, 0x8C, 0x91, 0x92, 0x94, 0x98, 0xA1, 0xA2, 0xA4, 0xA8, 0xB0,
  0xC1, 0xC2, 0xC4, 0xC8, 0xD0, 0xE0, 0x1F, 0x2F, 0x37, 0x3B, 0x3D, 0x3E, 0x4F, 0x57]

end Sys2Proof.Claims

/-- R343 to R345: the code corrects every single error, never miscorrects a double one, and keeps poison. -/
def Obligations.EccCorrectsOneErrorDetectsTwo : Prop :=
  (∀ (d : DWord) (j : Nat), j < 8 → (checkByte d).getLsbD j =
    ((List.range 64).filter (fun i => (dataColumns.getD i 0).testBit j)).foldl (fun x i => Bool.xor x (d.getLsbD i)) false) ∧
  (∀ d : DWord, encodeCheck ⟨d, false⟩ = checkByte d ∧ encodeCheck ⟨d, true⟩ = checkByte d ^^^ 0xFE) ∧
  (∀ w : PWord, eccData w.data (encodeCheck w) = w) ∧
  (∀ (d : DWord) (p : Nat), p < 64 → eccOutcome (flipBit d p) (checkByte d) = .corrected p ∧ eccData (flipBit d p) (checkByte d) = ⟨d, false⟩) ∧
  (∀ (d : DWord) (j : Nat), j < 8 → eccOutcome d (checkByte d ^^^ BitVec.ofNat 8 (2 ^ j)) = .corrected (64 + j) ∧
    eccData d (checkByte d ^^^ BitVec.ofNat 8 (2 ^ j)) = ⟨d, false⟩) ∧
  (∀ (d : DWord) (p q : Nat), p < 64 → q < 64 → p ≠ q → eccOutcome (flipBit (flipBit d p) q) (checkByte d) = .uncorrectable) ∧
  (∀ (d : DWord) (p j : Nat), p < 64 → j < 8 → eccOutcome (flipBit d p) (checkByte d ^^^ BitVec.ofNat 8 (2 ^ j)) = .uncorrectable) ∧
  (∀ (d : DWord) (i j : Nat), i < 8 → j < 8 → i ≠ j →
    eccOutcome d (checkByte d ^^^ BitVec.ofNat 8 (2 ^ i) ^^^ BitVec.ofNat 8 (2 ^ j)) = .uncorrectable) ∧
  (∀ (d : DWord) (p : Nat), p < 64 → eccOutcome (flipBit d p) (encodeCheck ⟨d, true⟩) = .uncorrectable ∧
    (eccData (flipBit d p) (encodeCheck ⟨d, true⟩)).mark = true) ∧
  (∀ (d : DWord) (j : Nat), j < 8 → eccOutcome d (encodeCheck ⟨d, true⟩ ^^^ BitVec.ofNat 8 (2 ^ j)) = .uncorrectable ∧
    eccData d (encodeCheck ⟨d, true⟩ ^^^ BitVec.ofNat 8 (2 ^ j)) = ⟨d, true⟩)

/-- R345 to R350, R329: requests to protected memory.
The model's choices that it rests on: log entries 7, 12 and 14. -/
def Obligations.MemoryRequests : Prop :=
  (∀ (s : State) (r : WriteReq) (st : Nat), s.target (r.addr / 8 * 8) = .inr st → (∀ h p, regionOf st ≠ .imem h p) → st % 8 = 0 →
    (∀ k, (s.ms.gleaners.get k).borrowed = false) → r.wait = 0 → ∃ t, exec (.memoryWrite r none) s = .next t ∧ t.ans = acked ∧
      (∀ i (h : i < r.words.length), t.ms.mem.word (st + 8 * i) = r.words[i]) ∧
      sameMemory s t (fun a => st ≤ a ∧ a < st + 8 * r.words.length) ∧ t.regs = s.regs) ∧
  (∀ (s : State) (mid : Mid) (addr n st : Nat), s.target (addr / 8 * 8) = .inr st → (∀ k, (s.ms.gleaners.get k).borrowed = false) →
    (∀ i < n, eccOutcome (s.ms.mem.rawData (st + 8 * i)) (s.ms.mem.rawCheck (st + 8 * i)) = .clean) →
    exec (.memoryRead mid addr n 0 .memory) s =
      .next { s with ans := ⟨.ok, 0, (List.range n).map (fun i => ⟨s.ms.mem.rawData (st + 8 * i), false⟩)⟩ }) ∧
  (∀ (s : State) (mid : Mid) (addr st : Nat) (ids : Nat × Nat), s.target (addr / 8 * 8) = .inr st → (regionOf st).ids = some ids →
    (∀ k, (s.ms.gleaners.get k).borrowed = false) →
    eccOutcome (s.ms.mem.rawData st) (s.ms.mem.rawCheck st) = .uncorrectable → ∃ t, exec (.memoryRead mid addr 1 0 .memory) s = .next t ∧
      t.ans = ⟨.ok, 0, [⟨s.ms.mem.rawData st, true⟩]⟩ ∧ t.ms.mem = s.ms.mem ∧
      t.rd (R.ECC_UE ids.1 ids.2) = (s.rd (R.ECC_UE ids.1 ids.2) + 1) % 2 ^ (R.ECC_UE ids.1 ids.2).w) ∧
  (∀ (s : State) (mid : Mid) (addr n wait : Nat) (r : Answer), s.target (addr / 8 * 8) = .inl r →
    ∃ t, exec (.memoryRead mid addr n wait .memory) s = .next t ∧ t.ans = r ∧ t.ms = s.ms) ∧
  (∀ (s : State) (r : NarrowReq) (st : Nat), s.target (r.addr / 8 * 8) = .inr st → (∀ h p, regionOf st ≠ .imem h p) →
    st % 8 = 0 → (∀ k, (s.ms.gleaners.get k).borrowed = false) → r.wait = 0 →
    eccOutcome (s.ms.mem.rawData st) (s.ms.mem.rawCheck st) = .clean → ∃ t, exec (.rmwWrite r none) s = .next t ∧ t.ans = acked ∧
      (∀ i < 8, t.ms.mem.data.get (st + i) =
        (if r.enables.getLsbD i then r.data.extractLsb' (8 * i) 8 else s.ms.mem.data.get (st + i))) ∧
      (t.ms.mem.word st).mark = r.mark ∧ sameMemory s t (fun a => st ≤ a ∧ a < st + 8) ∧ t.regs = s.regs)

/-- R328, R330, R352, R356: a Granary bank moves between its power states.
The model's choices that it rests on: log entry 67. -/
def Obligations.GranaryBankPower : Prop :=
  (∀ (s : State) (b : Fin 64) (v : Word), (R.GRANARY_BANK_PWR_REQ_VALID b).of v = 1 → (R.GRANARY_BANK_PWR_REFUSED b).of v = 0 →
    s.rd (R.GRANARY_BANK_PWR_STATE b) = 0 → (R.GRANARY_BANK_PWR_REQ b).of v = 2 → s.poolOverlaps b = false →
    ∃ t, exec (.granaryBankPowerRequest b v) s = .next t ∧ t.rd (R.GRANARY_BANK_PWR_STATE b) = 3 ∧ t.ms.moves.get b = .toOff ∧
      t.ms.mem = s.ms.mem ∧ t.ans = acked) ∧
  (∀ (s : State) (b : Fin 64) (v : Word), (R.GRANARY_BANK_PWR_REQ_VALID b).of v = 1 → 3 ≤ s.rd (R.GRANARY_BANK_PWR_STATE b) →
    (R.GRANARY_BANK_PWR_REQ b).of v ≠ 3 → ∃ t, exec (.granaryBankPowerRequest b v) s = .next t ∧
      t.rd (R.GRANARY_BANK_PWR_REFUSED b) = 1 ∧ t.rd (R.GRANARY_BANK_PWR_CAUSE b) = 2 ∧
      t.rd (R.GRANARY_BANK_PWR_STATE b) = s.rd (R.GRANARY_BANK_PWR_STATE b) ∧ t.ms = s.ms) ∧
  (∀ (s : State) (b : Fin 64), s.ms.moves.get b = .toRetention → ∃ t, exec (.granaryBankTransitionEnd b) s = .next t ∧
    t.rd (R.GRANARY_BANK_PWR_STATE b) = 1 ∧ t.ms.mem = s.ms.mem ∧ sameRegs s t [R.GRANARY_BANK_PWR_STATE b]) ∧
  (∀ (s : State) (b : Fin 64), s.ms.moves.get b = .toOff → ∃ t, exec (.granaryBankTransitionEnd b) s = .next t ∧
    t.rd (R.GRANARY_BANK_PWR_STATE b) = 2 ∧ sameMemory s t (fun a => b.val * 0x100000 ≤ a ∧ a < (b.val + 1) * 0x100000) ∧
    sameRegs s t [R.GRANARY_BANK_PWR_STATE b]) ∧
  (∀ (s : State) (b : Fin 64), s.rd (R.GRANARY_BANK_PWR_STATE b) = 5 → ∃ t, exec (.granaryBankFillEnd b true) s = .next t ∧
    t.rd (R.GRANARY_BANK_PWR_STATE b) = 0 ∧ sameRegs s t [R.GRANARY_BANK_PWR_STATE b] ∧
    (∀ a, b.val * 0x100000 ≤ a → a < (b.val + 1) * 0x100000 → t.ms.mem.data.get a = 0 ∧ t.ms.mem.check.get a = 0) ∧
    sameMemory s t (fun a => b.val * 0x100000 ≤ a ∧ a < (b.val + 1) * 0x100000)) ∧
  (∀ (s : State) (b : Fin 64), s.rd (R.GRANARY_BANK_PWR_STATE b) = 5 → ∃ t, exec (.granaryBankFillEnd b false) s = .next t ∧
    t.rd (R.GRANARY_BANK_PWR_STATE b) = 6 ∧ t.ms.mem = s.ms.mem)

/-- R336 to R341: pools and the tokens they give out.
The model's choices that it rests on: log entry 33. -/
def Obligations.BufferPools : Prop :=
  (∀ (s : State) (p : Fin 128) (v : Word), (R.GRANARY_POOL_CFG_ENABLE p).of v = 1 → s.bit (R.GRANARY_POOL_STATUS_ENABLED p) = false →
    (s.wrWord v [R.GRANARY_POOL_CFG_WINDOWED p, R.GRANARY_POOL_CFG_BUF_UNITS_M1 p]).poolCause p = 0 →
    ∃ t, exec (.granaryPoolEnable p v) s = .next t ∧ t.rd (R.GRANARY_POOL_STATUS_ENABLED p) = 1 ∧
      (t.pool p).free = List.range (s.rd (R.GRANARY_POOL_COUNT_COUNT p)) ∧ (t.pool p).held = [] ∧ (∀ i, (t.pool p).gens.get i = 0) ∧
      t.rd (R.GRANARY_POOL_STATUS_HELD p) = 0 ∧ t.ans = acked) ∧
  (∀ (s : State) (p : Fin 128) (v : Word), (R.GRANARY_POOL_CFG_ENABLE p).of v = 1 → s.bit (R.GRANARY_POOL_STATUS_ENABLED p) = false →
    s.rd (R.GRANARY_POOL_COUNT_COUNT p) = 0 → ∃ t, exec (.granaryPoolEnable p v) s = .next t ∧
      t.rd (R.GRANARY_POOL_STATUS_REFUSED p) = 1 ∧ t.rd (R.GRANARY_POOL_STATUS_CAUSE p) = 1 ∧
      t.rd (R.GRANARY_POOL_STATUS_ENABLED p) = 0 ∧ t.ms = s.ms) ∧
  (∀ (s : State) (p : Fin 128) (v : Word), (R.GRANARY_POOL_CFG_ENABLE p).of v = 0 → s.bit (R.GRANARY_POOL_STATUS_ENABLED p) = true →
    (s.pool p).held = [] → ∃ t, exec (.granaryPoolDisable p v) s = .next t ∧ t.rd (R.GRANARY_POOL_STATUS_ENABLED p) = 0 ∧
      t.rd (R.GRANARY_POOL_CFG_ENABLE p) = 0 ∧ t.ans = acked) ∧
  (∀ (s : State) (p : Fin 128) (v : Word), (R.GRANARY_POOL_CFG_ENABLE p).of v = 0 → s.bit (R.GRANARY_POOL_STATUS_ENABLED p) = true →
    (s.pool p).held ≠ [] → ∃ t, exec (.granaryPoolDisable p v) s = .next t ∧ t.rd (R.GRANARY_POOL_STATUS_REFUSED p) = 1 ∧
      t.rd (R.GRANARY_POOL_STATUS_CAUSE p) = 5 ∧ t.ms = s.ms ∧
      sameRegs s t [R.GRANARY_POOL_STATUS_REFUSED p, R.GRANARY_POOL_STATUS_CAUSE p]) ∧
  (∀ (s : State) (p : Fin 128) (i : Nat) (r : List Nat), s.bit (R.GRANARY_POOL_STATUS_ENABLED p) = true →
    s.bit (R.GRANARY_POOL_STATUS_FAULT p) = false → (s.pool p).free = i :: r → ∃ t, exec (.granaryPoolTake p) s = .next t ∧
      t.ans = ⟨.ok, 0, [⟨BitVec.ofNat 64 (2 ^ 31 + tokenOf p ((s.pool p).gens.get i) i), false⟩]⟩ ∧ (t.pool p).free = r ∧
      (t.pool p).held = (s.pool p).held ++ [⟨i, none⟩]) ∧
  (∀ (s : State) (p : Fin 128), (s.bit (R.GRANARY_POOL_STATUS_ENABLED p) = false ∨ (s.pool p).free = []) →
    ∃ t, exec (.granaryPoolTake p) s = .next t ∧ t.ans = ⟨.ok, 0, [⟨0, false⟩]⟩ ∧ t.ms = s.ms ∧
      t.rd (R.GRANARY_POOL_EMPTY_TAKES p) = (s.rd (R.GRANARY_POOL_EMPTY_TAKES p) + 1) % 2 ^ (R.GRANARY_POOL_EMPTY_TAKES p).w ∧
      sameRegs s t [R.GRANARY_POOL_EMPTY_TAKES p]) ∧
  (∀ (s : State) (p : Fin 128) (tok : Word), s.releaseOk p tok.toNat = true → ∃ t, exec (.granaryPoolRelease p tok) s = .next t ∧
    (t.pool p).free = (s.pool p).free ++ [nbits tok.toNat 0 16] ∧ (t.pool p).held = (s.pool p).held.filter (fun h => h.index != nbits tok.toNat 0 16) ∧
    (t.pool p).gens.get (nbits tok.toNat 0 16) = ((s.pool p).gens.get (nbits tok.toNat 0 16) + 1) % 16 ∧ t.ans = acked) ∧
  (∀ (s : State) (p : Fin 128) (tok : Word), s.releaseOk p tok.toNat = false → ∃ t, exec (.granaryPoolRelease p tok) s = .next t ∧
    t.rd R.GRANARY_RELEASE_BAD_SEEN = 1 ∧ t.rd R.GRANARY_RELEASE_BAD_POOL = nbits tok.toNat 24 7 ∧ t.ms = s.ms ∧
    sameRegs s t [R.GRANARY_RELEASE_BAD_SEEN, R.GRANARY_RELEASE_BAD_POOL, R.GRANARY_RELEASE_BAD_GEN, R.GRANARY_RELEASE_BAD_INDEX]) ∧
  (∀ (s : State) (g : Fin 64) (w : Fin 16), s.windowSwept g w = true → s.ms.pools.keys = [0] →
    s.bit (R.GRANARY_POOL_CFG_WINDOWED 0) = true → s.bit (R.GRANARY_POOL_STATUS_ENABLED 0) = true →
    ((s.pool 0).held.map (·.index)).Nodup → ∃ t, exec (.poolSweepReturn g w) s = .next t ∧
      (t.pool 0).held = (s.pool 0).held.filter (fun h => h.stamp != some (g.val, w.val)) ∧
      (t.pool 0).free = (s.pool 0).free ++ ((s.pool 0).held.filter (fun h => h.stamp == some (g.val, w.val))).map (·.index)) ∧
  (∀ (s : State) (p : Fin 128), ∃ t, exec (.poolFault p) s = .next t ∧ t.rd (R.GRANARY_POOL_STATUS_FAULT p) = 1 ∧ t.ms = s.ms)

/-- R358 to R360: injection and the error log.
The model's choices that it rests on: log entry 15. -/
def Obligations.ErrorLogAndInjection : Prop :=
  (∀ (s : State), ∃ t, exec .ecclogPop s = .next t ∧ t.ms.log = s.ms.log.tail ∧ t.rd R.ECCLOG_STATUS_LEVEL = (s.ms.log.length - 1) % 2 ^ R.ECCLOG_STATUS_LEVEL.w ∧
    t.ms.mem = s.ms.mem ∧ t.ans = acked ∧
    sameRegs s t [R.ECCLOG_STATUS_LEVEL, R.ECCLOG_HEAD 0, R.ECCLOG_HEAD 1, R.ECCLOG_HEAD 2, R.ECCLOG_HEAD 3]) ∧
  (∀ (s : State) (v : Word), R.ECCLOG_CTRL_FLUSH.of v = 1 → ∃ t, exec (.ecclogFlush v) s = .next t ∧ t.ms.log = [] ∧
    t.rd R.ECCLOG_STATUS_LEVEL = 0 ∧ t.rd R.ECCLOG_CTRL_IRQ_EN = R.ECCLOG_CTRL_IRQ_EN.of v ∧ (∀ i < 4, t.rd (R.ECCLOG_HEAD i) = 0)) ∧
  (∀ (s : State) (v : Word), s.wlOpen = false → exec (.eccInject v) s = .next { s with ans := acked }) ∧
  (∀ (s : State) (v : Word) (ids : Nat × Nat), s.wlOpen = true → R.ECC_INJECT_CTRL_GO.of v = 1 →
    R.ECC_INJECT_CTRL_DATA_FLIP_A.of v = R.ECC_INJECT_CTRL_DATA_FLIP_B.of v →
    s.injectable (s.rd R.ECC_INJECT_ADDR_HI_ADDR * 2 ^ 32 + s.rd R.ECC_INJECT_ADDR_LO_ADDR * 8) = true →
    (∀ k, (s.ms.gleaners.get k).borrowed = false) →
    (regionOf (s.storeAddr (s.rd R.ECC_INJECT_ADDR_HI_ADDR * 2 ^ 32 + s.rd R.ECC_INJECT_ADDR_LO_ADDR * 8))).ids = some ids →
    ∃ t, exec (.eccInject v) s = .next t ∧ t.rd R.ECC_INJECT_CTRL_DONE = 1 ∧ t.rd R.ECC_INJECT_CTRL_REFUSED = 0 ∧ t.ans = acked ∧
      t.ms.mem = s.ms.mem.putRaw (s.storeAddr (s.rd R.ECC_INJECT_ADDR_HI_ADDR * 2 ^ 32 + s.rd R.ECC_INJECT_ADDR_LO_ADDR * 8))
        (flipBit (s.ms.mem.rawData (s.storeAddr (s.rd R.ECC_INJECT_ADDR_HI_ADDR * 2 ^ 32 + s.rd R.ECC_INJECT_ADDR_LO_ADDR * 8))) (R.ECC_INJECT_CTRL_DATA_FLIP_A.of v))
        (s.ms.mem.rawCheck (s.storeAddr (s.rd R.ECC_INJECT_ADDR_HI_ADDR * 2 ^ 32 + s.rd R.ECC_INJECT_ADDR_LO_ADDR * 8)) ^^^
          BitVec.ofNat 8 (R.ECC_INJECT_CTRL_CHECK_XOR.of v))) ∧
  (∀ (s : State) (v : Word), s.wlOpen = true → R.ECC_INJECT_CTRL_GO.of v = 1 →
    s.injectable (s.rd R.ECC_INJECT_ADDR_HI_ADDR * 2 ^ 32 + s.rd R.ECC_INJECT_ADDR_LO_ADDR * 8) = false →
    ∃ t, exec (.eccInject v) s = .next t ∧ t.rd R.ECC_INJECT_CTRL_DONE = 0 ∧ t.rd R.ECC_INJECT_CTRL_REFUSED = 1 ∧ t.ms = s.ms)

/-- R361 to R368: the Harrow takes and tests a Granary bank; the Gleaner borrows a region and gives it back.
The model's choices that it rests on: log entry 15. -/
def Obligations.HarrowAndGleaner : Prop :=
  (∀ (s : State) (v : Word) (ok : Bool), bitOf v 31 = true → s.harrowCause v = 0 → bitsOf v 28 2 = 0 →
    ∃ t, exec (.harrowStart v ok) s = .next t ∧ t.rd R.HARROW_STATUS_STATE = 1 ∧ t.rd (R.GRANARY_BANK_PWR_STATE (bitsOf v 22 6)) = 6 ∧
      t.rd R.HARROW_STATUS_RESULT = 0 ∧ t.ms.mem = s.ms.mem ∧ t.ans = acked ∧
      sameRegs s t [R.HARROW_STATUS_STATE, R.HARROW_STATUS_RESULT, R.HARROW_STATUS_CAUSE, R.GRANARY_BANK_PWR_STATE (bitsOf v 22 6)]) ∧
  (∀ (s : State) (v : Word) (ok : Bool) (c : Nat), bitOf v 31 = true → s.harrowCause v = c → c ≠ 0 →
    ∃ t, exec (.harrowStart v ok) s = .next t ∧ t.rd R.HARROW_STATUS_RESULT = 3 ∧ t.rd R.HARROW_STATUS_CAUSE = c ∧ t.ms = s.ms ∧
      sameRegs s t [R.HARROW_STATUS_RESULT, R.HARROW_STATUS_CAUSE]) ∧
  (∀ (s : State), s.rd R.HARROW_STATUS_STATE = 1 → s.rd R.HARROW_STATUS_RESULT = 0 → s.ms.harrow.target = 0 →
    s.ms.harrow.preserve = false → ∃ t, exec (.harrowTestEnd []) s = .next t ∧ t.rd R.HARROW_STATUS_STATE = 2 ∧
      t.rd (R.GRANARY_BANK_PWR_STATE s.ms.harrow.inst) = 0 ∧ t.rd R.HARROW_STATUS_ROWS_REPAIRED = 0 ∧
      (∀ a, s.ms.harrow.inst * 0x100000 ≤ a → a < (s.ms.harrow.inst + 1) * 0x100000 → t.ms.mem.data.get a = 0)) ∧
  (∀ (s : State) (m : Fin 8) (n : Fin 256), s.gleanDue m n = true → ∃ t, exec (.gleanerRegionStart m n [] .beforePattern) s = .next t ∧
    (t.ms.gleaners.get (gleanKey m n)).borrowed = true ∧ (t.ms.gleaners.get (gleanKey m n)).region = (s.ms.gleaners.get (gleanKey m n)).next ∧
    t.ms.mem = s.ms.mem ∧ t.regs = s.regs) ∧
  (∀ (s : State) (m : Fin 8) (n : Fin 256) (mid : Mid), m.val ≠ 4 → (s.ms.gleaners.get (gleanKey m n)).borrowed = true →
    (s.ms.gleaners.get (gleanKey m n)).wrote = false → ∃ t, exec (.gleanerYield m n mid) s = .next t ∧
    (t.ms.gleaners.get (gleanKey m n)).borrowed = false ∧
    (t.ms.gleaners.get (gleanKey m n)).next = (s.ms.gleaners.get (gleanKey m n)).region ∧ t.ms.mem = s.ms.mem ∧
    t.rd R.GLEANER_YIELDS = (s.rd R.GLEANER_YIELDS + 1) % 2 ^ R.GLEANER_YIELDS.w)

/-! ## The Commons (13) -/

/-- R379, R380, R388 to R390, R393 to R395, R397: route tables, ports, barriers and probes under command.
The model's choices that it rests on: log entries 45 and 46. -/
def Obligations.CommonsRoutesPortsAndBarriers : Prop :=
  (∀ (s : State) (n d : Fin 256) (v : Word), niPresent n = true → s.bit R.COMMONS_STATUS_ARMED3 = false →
    (∀ x ∈ s.net.staged, ¬ (x.src = n.val ∧ x.dest = d.val)) → s.routeFault n d (routeOf v.toNat (s.route n d).codes) = none →
    ∃ t, exec (.routeEntryStage n d false v) s = .next t ∧ t.net.staged = s.net.staged ++ [⟨n, d, v.toNat, (s.route n d).codes⟩] ∧
      t.rd R.COMMONS_STATUS_STAGED = 1 ∧ sameRegs s t [R.COMMONS_STATUS_STAGED] ∧ t.route n d = s.route n d) ∧
  (∀ (s : State) (n d : Fin 256) (v : Word) (a b : Nat), niPresent n = true → s.bit R.COMMONS_STATUS_ARMED3 = false →
    s.net.staged = [⟨n, d, a, b⟩] → s.routeFault n d (routeOf a v.toNat) = none → ∃ t, exec (.routeEntryStage n d true v) s = .next t ∧
      t.net.staged = [⟨n, d, a, v.toNat⟩] ∧ t.route n d = s.route n d) ∧
  (∀ (s : State) (n d : Fin 256) (v : Word) (c : Nat), niPresent n = true → s.bit R.COMMONS_STATUS_ARMED3 = false →
    (∀ x ∈ s.net.staged, ¬ (x.src = n.val ∧ x.dest = d.val)) → s.routeFault n d (routeOf v.toNat (s.route n d).codes) = some c →
    ∃ t, exec (.routeEntryStage n d false v) s = .next t ∧ t.net = s.net ∧ t.rd R.COMMONS_STATUS_ROUTE_REJECTED = 1 ∧
      t.rd R.COMMONS_REJECT_CAUSE = c ∧ t.rd R.COMMONS_REJECT_SRC_NI = n ∧ t.rd R.COMMONS_REJECT_DEST_NI = d) ∧
  (∀ (s : State) (x : StagedRoute), s.net.staged = [x] → s.epochBusy = false → ∃ t, exec .routeAdvance s = .next t ∧
    t.route x.src x.dest = routeOf x.a x.b ∧ t.net.staged = [] ∧ t.rd R.COMMONS_STATUS_STAGED = 0 ∧
    t.rd R.COMMONS_STATUS_EPOCH = (s.rd R.COMMONS_STATUS_EPOCH + 1) % 4) ∧
  (∀ (s : State) (x : StagedRoute) (l : List StagedRoute), s.net.staged = x :: l → s.epochBusy = true → ∃ t, exec .routeAdvance s = .next t ∧
    t.net = s.net ∧ t.rd R.COMMONS_STATUS_ROUTE_REJECTED = 1 ∧ t.rd R.COMMONS_REJECT_CAUSE = 6 ∧
    t.rd R.COMMONS_STATUS_EPOCH = s.rd R.COMMONS_STATUS_EPOCH) ∧
  (∀ (s : State), ∃ t, exec .routeDiscardStage s = .next t ∧ t.net.staged = [] ∧ t.rd R.COMMONS_STATUS_STAGED = 0 ∧
    sameRegs s t [R.COMMONS_STATUS_STAGED]) ∧
  (∀ (s : State) (r : Fin 64) (p : Fin 8), s.portSt r p = 5 → ∃ t, exec (.portRevive r p) s = .next t ∧ t.portSt r p = 0 ∧
    sameRegs s t [R.COMMONS_RTR_PORT_STATUS_STATE r p] ∧ t.net = s.net) ∧
  (∀ (s : State) (r : Fin 64) (p : Fin 8), s.portSt r p ≠ 5 → ∃ t, exec (.portRevive r p) s = .next t ∧ t.portSt r p = s.portSt r p ∧
    t.rd (R.COMMONS_RTR_PORT_STATUS_REFUSED r p) = 1 ∧ t.rd (R.COMMONS_RTR_PORT_STATUS_CAUSE r p) = 2) ∧
  (∀ (s : State) (r : Fin 64) (p : Fin 8), 4 ≤ p.val → s.portSt r p = 0 → ∃ t, exec (.portClose r p) s = .next t ∧ t.portSt r p = 3 ∧
    ∀ n < 256, niPresent n = true → (t.route n (4 * r.val + (p.val - 4))).closed = true) ∧
  (∀ (s : State) (r : Fin 64) (l : Fin 4), s.portSt r (4 + l.val) = 3 → (∀ e ∈ s.net.ejected, e.pkt.dest ≠ 4 * r.val + l.val) →
    (∀ o ∈ s.net.outs, o.src ≠ 4 * r.val + l.val) → s.net.waiting r l = [] → (∀ x ∈ s.net.flight, inputAt r x ≠ some (4 + l.val)) →
    ∃ t, exec (.portDrained r l) s = .next t ∧ t.portSt r (4 + l.val) = 4 ∧ t.rd (R.COMMONS_RTR_PORT_STATUS_DRAINED r (4 + l.val)) = 1 ∧
      sameRegs s t [R.COMMONS_RTR_PORT_STATUS_STATE r (4 + l.val), R.COMMONS_RTR_PORT_STATUS_DRAINED r (4 + l.val)]) ∧
  (∀ (s : State) (r : Fin 64) (p : Fin 8), 4 ≤ p.val → s.portSt r p = 4 → ∃ t, exec (.portOpen r p) s = .next t ∧ t.portSt r p = 0 ∧
    t.rd (R.COMMONS_RTR_PORT_STATUS_DRAINED r p) = 0 ∧ ∀ n < 256, niPresent n = true → (t.route n (4 * r.val + (p.val - 4))).closed = false) ∧
  (∀ (s : State) (r : Fin 64) (p : Fin 8) (v : Word), p.val < 4 → s.portSt r p = 0 → s.rd (R.COMMONS_RTR_PORT_STATUS_USE_COUNT r p) = 0 →
    ∃ t, exec (.portDisable r p v) s = .next t ∧ t.portSt r p = 2 ∧ t.net.disableE.get (8 * r.val + p.val) = bitsOf v 0 2) ∧
  (∀ (s : State) (r : Fin 64) (p : Fin 8) (v : Word), p.val < 4 → s.portSt r p = 0 → s.rd (R.COMMONS_RTR_PORT_STATUS_USE_COUNT r p) ≠ 0 →
    ∃ t, exec (.portDisable r p v) s = .next t ∧ t.portSt r p = 0 ∧ t.rd (R.COMMONS_RTR_PORT_STATUS_REFUSED r p) = 1 ∧
      t.rd (R.COMMONS_RTR_PORT_STATUS_CAUSE r p) = 1 ∧ t.net = s.net) ∧
  (∀ (s : State) (r : Fin 64) (p : Fin 4), s.portSt r p = 2 → s.rd R.COMMONS_STATUS_EPOCH = s.net.disableE.get (8 * r.val + p.val) →
    (∀ i < 4, i ≠ s.net.disableE.get (8 * r.val + p.val) → s.rd (R.COMMONS_EPOCH_LIVE i) = 0) →
    ∃ t, exec (.portDisableComplete r p) s = .next t ∧ t.portSt r p = 1 ∧ sameRegs s t [R.COMMONS_RTR_PORT_STATUS_STATE r p]) ∧
  (∀ (s : State) (r : Fin 64) (p : Fin 8), p.val < 4 → (s.portSt r p = 1 ∨ s.portSt r p = 2) → ∃ t, exec (.portEnable r p) s = .next t ∧
    t.portSt r p = 0 ∧ sameRegs s t [R.COMMONS_RTR_PORT_STATUS_STATE r p]) ∧
  (∀ (s : State) (b : Fin 32) (n : Fin 256), n.val ∉ s.net.arrivals.get b → ∃ t, exec (.barrierArrive b n) s = .next t ∧
    t.net.arrivals.get b = s.net.arrivals.get b ++ [n.val] ∧ t.regs = s.regs ∧ t.ans = acked) ∧
  (∀ (s : State) (b : Fin 32) (n : Fin 256), n.val ∈ s.net.arrivals.get b → ∃ t, exec (.barrierArrive b n) s = .next t ∧
    t.net = s.net ∧ t.rd (R.COMMONS_BAR_CFG_EXTRA b) = (s.rd (R.COMMONS_BAR_CFG_EXTRA b) + 1) % 256 ∧ t.ans = acked) ∧
  (∀ (s : State) (b : Fin 32), s.barMask b ≠ [] → (∀ n ∈ s.barMask b, n ∈ s.net.arrivals.get b) → ∃ t, exec (.barrierRelease b true) s = .next t ∧
    t.net.arrivals.get b = [] ∧ t.rd (R.COMMONS_BAR_GEN b) = (s.rd (R.COMMONS_BAR_GEN b) + 1) % 2 ^ 32 ∧ sameRegs s t [R.COMMONS_BAR_GEN b] ∧
    (s.bit (R.COMMONS_BAR_CFG_IRQ_EN b) = true → ∀ n ∈ s.barMask b, (n, b.val) ∈ t.net.events)) ∧
  (∀ (s : State) (b : Fin 32) (v : Word), ∃ t, exec (.barrierBcast b v) s = .next t ∧ t.rd (R.COMMONS_BAR_VALUE b) = v.toNat ∧
    sameRegs s t [R.COMMONS_BAR_VALUE b] ∧ t.net.arrivals = s.net.arrivals) ∧
  (∀ (s : State) (k : Fin 32), s.bit R.TRACE_CFG_EN = false → ∃ t, exec (.probePop k) s = .next t ∧
    t.net.traces.get k = (s.net.traces.get k).drop 1 ∧
    t.rd (R.PROBE_LEVEL_LEVEL k) = ((s.net.traces.get k).length - 1) % 2 ^ (R.PROBE_LEVEL_LEVEL k).w ∧
    t.rd (R.PROBE_HEAD k 0) = (((s.net.traces.get k).drop 1).headD []).getD 0 0 % 2 ^ 32)

/-- R375, R376, R382, R385 to R387, R392: packets enter, travel, lapse, are ejected, and are answered; a port dies.
The model's choices that it rests on: log entries 42, 43 and 44. -/
def Obligations.CommonsPacketsAndDeadPorts : Prop :=
  (∀ (s : State) (n : Fin 256) (q : PacketReq), packetFormed q = false → exec (.packetInject n q) s = .fault (.illFormed "PACKET_INJECT")) ∧
  (∀ (s : State) (n : Fin 256) (q : PacketReq) (d : Nat), packetFormed q = true → niPresent n = true → q.op ≤ 2 → s.destNi q.addr q.mid = some d →
    (s.route n d).valid = false → ∃ t, exec (.packetInject n q) s = .next t ∧ t.ans = ⟨.deadTarget, 3, []⟩ ∧ t.net = s.net ∧
      t.rd (R.COMMONS_NI_SELF_ANSWERED n) = (s.rd (R.COMMONS_NI_SELF_ANSWERED n) + 1) % 2 ^ 32) ∧
  (∀ (s : State) (n : Fin 256) (q : PacketReq) (d : Nat), packetFormed q = true → niPresent n = true → q.op ≤ 2 → s.destNi q.addr q.mid = some d →
    (s.route n d).valid = true → (s.route n d).closed = true → ∃ t, exec (.packetInject n q) s = .next t ∧ t.ans = ⟨.domainClosed, 4, []⟩ ∧
      t.net = s.net) ∧
  (∀ (s : State) (n : Fin 256) (q : PacketReq) (d k : Nat), packetFormed q = true → niPresent n = true → q.op ≤ 2 → s.destNi q.addr q.mid = some d →
    (s.route n d).valid = true → (s.route n d).closed = false → q.deadline = some k → passed s.tick k = true →
    ∃ t, exec (.packetInject n q) s = .next t ∧ t.ans = ⟨.lapsed, 1, []⟩ ∧ t.net = s.net) ∧
  (∀ (s : State) (n : Fin 256) (q : PacketReq) (d : Nat), packetFormed q = true → niPresent n = true → q.op ≤ 2 → s.destNi q.addr q.mid = some d →
    (s.route n d).valid = true → (s.route n d).closed = false → q.deadline = none → (n.val, d, q.vn) ∉ s.net.holds →
    s.rd (outFld q.vn n) < slotCap q.vn → (∀ o ∈ s.net.outs, o.src = n.val → o.tag ≠ q.tag) →
    s.net.used (.input (n.val / 4) (4 + n.val % 4)) q.vn = 0 → s.portMute (n.val / 4) (4 + n.val % 4) = false →
    ∃ t p, exec (.packetInject n q) s = .next t ∧ t.net.outs = s.net.outs ++ [⟨n, q.tag, d, q.vn, none⟩] ∧ t.net.flight = s.net.flight ++ [p] ∧
      p.id = s.net.count ∧ p.src = n.val ∧ p.dest = d ∧ p.vn = q.vn ∧ p.addr = q.addr ∧ p.inj = s.tick ∧ p.epoch = s.rd R.COMMONS_STATUS_EPOCH ∧
      p.heading = (s.route n d).first ∧ p.codes = hopCodes (s.route n d).hops (s.route n d).codes ∧ p.place = .input (n.val / 4) (4 + n.val % 4) ∧
      t.rd (outFld q.vn n) = s.rd (outFld q.vn n) + 1 ∧
      t.rd (R.COMMONS_EPOCH_LIVE (s.rd R.COMMONS_STATUS_EPOCH)) = (s.rd (R.COMMONS_EPOCH_LIVE (s.rd R.COMMONS_STATUS_EPOCH)) + 1) % 2 ^ 32) ∧
  (∀ (s : State) (k d r i : Nat) (p : Packet), s.net.packet k = some p → p.place = .input r i → r < 64 → p.epoch < 4 → p.deadline = some d →
    passed s.tick d = true → p.isReq = true → k < s.net.count → ∃ t a, exec (.routerHeadArrival k) s = .next t ∧ t.net.packet k = none ∧
      t.net.flight = s.net.flight.filter (fun x => x.id != k) ++ [a] ∧ a.op = 6 ∧ a.status = 1 ∧ a.cause = 1 ∧ a.dest = p.src ∧ a.tag = p.tag ∧
      t.rd (R.COMMONS_RTR_LAPSED r) = (s.rd (R.COMMONS_RTR_LAPSED r) + 1) % 2 ^ 32) ∧
  (∀ (s : State) (k r i : Nat) (p : Packet) (b : PktAt), s.net.packet k = some p → p.place = .input r i → p.deadline = none →
    s.portSt r (p.out i).1 = 0 → bufAfter r (p.out i).1 s.stp.now = some b → s.net.fits b p = true → s.granted r i (p.out i).1 p = true →
    ∃ t, exec (.routerHeadArrival k) s = .next t ∧
      t.net.packet k = some { p with heading := (p.out i).2.1, codes := (p.out i).2.2, place := b } ∧ t.net.outs = s.net.outs) ∧
  (∀ (s : State) (k r l u : Nat) (p : Packet), s.net.packet k = some p → p.place = .port r l u → p.isReq = true → p.toParish = false →
    s.stoolShut p = false → p.epoch < 4 → ∃ t, exec (.packetEject k) s = .next t ∧ t.net.ejected = s.net.ejected ++ [⟨p, s.stp.now⟩] ∧
      t.net.packet k = none ∧ t.rd (R.COMMONS_EPOCH_LIVE p.epoch) = s.rd (R.COMMONS_EPOCH_LIVE p.epoch) - 1) ∧
  (∀ (s : State) (k r l u : Nat) (p : Packet), s.net.packet k = some p → p.place = .port r l u → p.isAns = true → p.dest < 256 →
    (∀ o ∈ s.net.outs, ¬ (o.src = p.dest ∧ o.tag = p.tag)) → p.epoch < 4 → ∃ t, exec (.answerArrival k) s = .next t ∧ t.net.packet k = none ∧
      t.rd (R.COMMONS_NI_STRAY p.dest) = (s.rd (R.COMMONS_NI_STRAY p.dest) + 1) % 2 ^ 32 ∧ t.ans = s.ans) ∧
  (∀ (s : State) (k r l u : Nat) (p : Packet) (o : OutReq), s.net.packet k = some p → p.place = .port r l u → p.isAns = true →
    s.net.outs.find? (fun o => o.src == p.dest && o.tag == p.tag) = some o → ∃ t, exec (.answerArrival k) s = .next t ∧
      t.ans = ⟨statusOf p.status, p.cause, p.data⟩ ∧ t.net.outs = s.net.outs.filter (fun x => !(x.src == p.dest && x.tag == p.tag)) ∧
      t.net.packet k = none) ∧
  (∀ (s : State) (r : Fin 64) (l : Fin 4) (e : Ejected), s.portSt r (4 + l.val) = 0 → e ∈ s.net.ejected → e.pkt.dest = 4 * r.val + l.val →
    e.tick + fourUs ≤ s.stp.now → ∃ t, exec (.targetTimeout r l) s = .next t ∧ t.portSt r (4 + l.val) = 5 ∧
      t.rd R.COMMONS_STATUS_DEAD_SEEN = 1 ∧ t.rd R.COMMONS_DEAD_LAST_ROUTER = r ∧ t.rd R.COMMONS_DEAD_LAST_PORT = 4 + l.val ∧
      (∀ x ∈ t.net.ejected, x.pkt.dest ≠ 4 * r.val + l.val) ∧
      (s.bit R.COMMONS_CTRL_IRQ_DEAD = true → ⟨.portDead, 8 * r.val + 4 + l.val⟩ ∈ t.hallIrq))

/-! ## The Tally (14) -/

/-- R402, R407 to R412: faults and votes of ledgers, snapshots, peeks.
The model's choices that it rests on: log entries 16 and 47. -/
def Obligations.TallySnapshotsPeeksAndFaults : Prop :=
  (∀ (s : State) (v : Word), bitOf v 31 = true → s.snapCause (bitOf v 30) = 0 → ∃ t, exec (.tallySnapArm v none) s = .next t ∧
    t.rd R.TALLY_SNAP_STATUS_STATE = 1 ∧ t.rd R.TALLY_SNAP_STATUS_STATUS = 0 ∧ t.rd R.TALLY_SNAP_STATUS_RECORDS = 0 ∧
    t.tally.capTick = s.rd R.TALLY_SNAP_TICK ∧ t.tally.parish = bitOf v 30 ∧
    sameRegs s t [R.TALLY_SNAP_STATUS_STATE, R.TALLY_SNAP_STATUS_STATUS, R.TALLY_SNAP_STATUS_RECORDS]) ∧
  (∀ (s : State) (v : Word), bitOf v 31 = true → s.snapCause (bitOf v 30) ≠ 0 → ∃ t, exec (.tallySnapArm v none) s = .next t ∧
    t.rd R.TALLY_STATUS_SNAP_REFUSED = 1 ∧ t.rd R.TALLY_STATUS_REFUSE_CAUSE = s.snapCause (bitOf v 30) ∧ t.tally = s.tally ∧
    sameRegs s t [R.TALLY_STATUS_SNAP_REFUSED, R.TALLY_STATUS_REFUSE_CAUSE]) ∧
  (∀ (s : State) (v : Word), bitOf v 31 = false → exec (.tallySnapArm v none) s = .next s) ∧
  (∀ (s : State) (v : Word) (k a : Nat), s.bit R.EWL_PARISH_IN_PARISH = true → s.rd R.EWL_PARISH_MEMBER ≠ 0 →
    s.rd R.TALLY_SNAP_STATUS_STATE ≠ 1 → s.rd R.TALLY_SNAP_STATUS_STATE ≠ 2 → tickBefore s.tick k = true →
    ∃ t, exec (.tallySnapArm v (some (k, a))) s = .next t ∧ t.rd R.TALLY_SNAP_STATUS_STATE = 1 ∧ t.tally.capTick = k ∧
      t.tally.remote = some (a + s.rd R.EWL_PARISH_MEMBER * 0x8000)) ∧
  (∀ (s : State), s.rd R.TALLY_SNAP_STATUS_STATE = 1 → passed s.tick s.tally.capTick = true → ∃ t, exec .tallySnapshotCapture s = .next t ∧
    t.tally.snap = allLedgers.map s.ledgerRecord ∧ t.tally.capTick = s.tick ∧ t.tally.seq = (s.tally.seq + 1) % 2 ^ 32 ∧
    t.tally.slices = s.tally.slices ∧ t.rd R.TALLY_SNAP_STATUS_STATE = 2 ∧ t.rd R.TALLY_SNAP_STATUS_SNAP_SEQ = (s.tally.seq + 1) % 256 ∧
    sameRegs s t [R.TALLY_SNAP_STATUS_STATE, R.TALLY_SNAP_STATUS_SNAP_SEQ]) ∧
  (∀ (s : State), passed s.tick s.tally.capTick = false → exec .tallySnapshotCapture s = .next s) ∧
  (∀ (s : State) (l : Bool), s.rd R.TALLY_SNAP_STATUS_STATE = 2 → s.tally.remote = none →
    (s.writeRecords (64 * s.tally.capAddr) s.snapRecords).2.1 = none → ∃ t, exec (.tallyReadoutEnd l) s = .next t ∧
      t.rd R.TALLY_SNAP_STATUS_STATE = 3 ∧ t.rd R.TALLY_SNAP_STATUS_RECORDS = (s.tally.snap.length + 1) % 2 ^ 13 ∧
      t.rd R.TALLY_SNAP_STATUS_STATUS = (if l = true ∧ s.tally.parish = true then 3 else
        if s.tally.snap.any (fun r => r.flags.unreconciled || r.flags.bound) then 1 else 0) ∧
      t.ms = (s.writeRecords (64 * s.tally.capAddr) s.snapRecords).2.2.ms ∧
      (s.bit R.TALLY_CTRL_IRQ_SNAP = true → ⟨.snapshot, 0⟩ ∈ t.hallIrq)) ∧
  (∀ (s : State) (l : Bool) (a : Nat), s.rd R.TALLY_SNAP_STATUS_STATE = 2 → s.tally.remote = some a → ∃ t, exec (.tallyReadoutEnd l) s = .next t ∧
    t.sent = s.sent ++ [.parish 0 a s.snapRecords.flatten] ∧ t.rd R.TALLY_SNAP_STATUS_STATE = 0 ∧ t.ms = s.ms) ∧
  (∀ (s : State) (r : Option AnsStatus) (e : Answer), s.rd R.TALLY_SNAP_STATUS_STATE = 2 → s.tally.remote = none →
    (s.writeRecords (64 * s.tally.capAddr) s.snapRecords).2.1 = some e → ∃ t, exec (.tallyReadoutError r) s = .next t ∧
      t.rd R.TALLY_SNAP_STATUS_STATE = 3 ∧ t.rd R.TALLY_SNAP_STATUS_STATUS = snapStatus e.status) ∧
  (∀ (s : State) (v : Word), ∃ t, exec (.tallyPeek v) s = .next t ∧ t.rd R.TALLY_PEEK_STATUS_PEEK_VALID = 0 ∧
    t.rd R.TALLY_PEEK_STATUS_LEDGER_ID = bitsOf v 0 12 ∧
    t.rd R.TALLY_PEEK_STATUS_PEEK_ABSENT = (if ledgerPresent (bitsOf v 0 12) then 0 else 1) ∧
    t.tally.peek = (if ledgerPresent (bitsOf v 0 12) then some (bitsOf v 0 12, s.stp.now + 2000 * 65536) else none)) ∧
  (∀ (s : State) (id t0 : Nat), s.tally.peek = some (id, t0) → t0 ≤ s.stp.now → ∃ t, exec .tallyPeekValues s = .next t ∧
    t.rd R.TALLY_PEEK_STATUS_PEEK_VALID = 1 ∧ t.rd R.TALLY_PEEK_ISSUED_LO + 2 ^ 32 * t.rd R.TALLY_PEEK_ISSUED_HI = (s.ledgerIssued id).toNat ∧
    t.rd R.TALLY_PEEK_RETURNED_LO + 2 ^ 32 * t.rd R.TALLY_PEEK_RETURNED_HI = (s.ledgerReturned id).toNat ∧
    t.rd R.TALLY_PEEK_OUT = (s.ledgerIssued id - s.ledgerReturned id).toNat % 2 ^ 32 ∧ t.tally.peek = none) ∧
  (∀ (s : State) (id : Fin 4096) (p : Fin 49) (r : Bool), slicePresent id p = true → (s.tally.flags.get id).unreconciled = false →
    ∃ t, exec (.tallyFault id p r) s = .next t ∧ (t.tally.flags.get id).unreconciled = true ∧ t.rd R.TALLY_STATUS_FAULT = 1 ∧
      t.rd R.TALLY_FAULT_LAST_ID = id ∧ t.tally.slices.get (sliceKey id p) =
        (if r then ⟨(s.tally.slices.get (sliceKey id p)).issued, BitVec.ofNat 64 (Config.freeValue s.free)⟩
         else ⟨BitVec.ofNat 64 (Config.freeValue s.free), (s.tally.slices.get (sliceKey id p)).returned⟩) ∧
      (s.bit R.TALLY_CTRL_IRQ_FAULT = true → ⟨.tallyFault, 0⟩ ∈ t.hallIrq)) ∧
  (∀ (s : State) (id : Fin 4096) (p : Fin 49) (r : Bool), slicePresent id p = true → ∃ t, exec (.tallyVoteCorrect id p r) s = .next t ∧
    t.rd R.TALLY_CORRECTED = (s.rd R.TALLY_CORRECTED + 1) % 2 ^ 32 ∧ t.tally = s.tally ∧ sameRegs s t [R.TALLY_CORRECTED])

/-! ## The Carters (15) -/

/-- R417, R419, R424, R426 to R428: runs start, stop, are swept, halt and end, and their results are taken.
The model's choices that it rests on: log entry 48. -/
def Obligations.CarterRuns : Prop :=
  (∀ (s : State) (g : Fin 192) (v : Word), bitOf v 31 = true → bitOf v 29 = false → s.startRefused g v = false →
    ∃ t, exec (.carterStartLoose g v) s = .next t ∧ t.carterSt g = 1 ∧ (t.carter g).fetch = some (bitOf v 28, bitsOf v 5 21 * 32) ∧
      (t.carter g).win = none ∧ (t.carter g).desc = none ∧ t.rd (chFld g R.CARTER_CH_STATE_DESC_COUNT) = 0 ∧
      (t.carter g).plan = (s.carter g).plan) ∧
  (∀ (s : State) (g : Fin 192) (v : Word), bitOf v 31 = true → s.startRefused g v = true →
    exec (if bitOf v 29 then .carterStartPlanned g v else .carterStartLoose g v) s = .next (s.inc (chFld g R.CARTER_CH_COUNTS_REFUSED_STARTS))) ∧
  (∀ (s : State) (g : Fin 192) (v : Word) (p : CarterPlan), bitOf v 31 = true → bitOf v 29 = true → s.startRefused g v = false →
    (s.carter g).plan = some p → s.reached p.sweepNs = false → ∃ t, exec (.carterStartPlanned g v) s = .next t ∧ t.carterSt g = 1 ∧
      (t.carter g).plan = none ∧ (t.carter g).win = some p ∧ (t.carter g).fetch = some (p.space, p.head) ∧
      t.rd (chFld g R.CARTER_CH_STATE_WINDOWED) = 1 ∧ t.rd (chFld g R.CARTER_CH_STATE_PLAN_READY) = 0) ∧
  (∀ (s : State) (g : Fin 192) (v : Word), bitOf v 31 = true → bitOf v 29 = true → s.startRefused g v = false → (s.carter g).plan = none →
    exec (.carterStartPlanned g v) s = .next (s.inc (carterFld g R.CARTER_DROP_UNPLANNED))) ∧
  (∀ (s : State) (g : Fin 192), s.carterSt g = 1 → (s.carter g).final = none → (s.carter g).halt = none → (s.carter g).ending = none →
    (s.carter g).desc = none → ∃ t, exec (.carterStop g) s = .next t ∧ t.carterSt g = 2 ∧ (t.carter g).final = some (2, false) ∧
      (t.carter g).fetch = none) ∧
  (∀ (s : State) (g : Fin 192) (d : CarterDesc), s.carterSt g = 1 → (s.carter g).final = none → (s.carter g).halt = none →
    (s.carter g).ending = none → (s.carter g).desc = some d → d.good = true → d.decided = none → ∃ t, exec (.carterStop g) s = .next t ∧
      t.carterSt g = 2 ∧ (t.carter g).ending = some 2 ∧ (t.carter g).desc = some { d with decided := some 2 } ∧ (t.carter g).fetch = none) ∧
  (∀ (s : State) (g : Fin 192), s.carterSt g ≠ 1 → exec (.carterStop g) s = .next s) ∧
  (∀ (s : State) (lg : Fin 64) (w : Fin 16) (g : Nat) (p : CarterPlan), g < 192 → s.carterSt g ≠ 0 → (s.carter g).win = some p → p.group = lg.val →
    p.wtag = w.val → s.reached p.sweepNs = true → (s.carter g).final = none → (s.carter g).halt = none → (s.carter g).ending = none →
    (s.carter g).desc = none → ∃ t, exec (.carterSweep lg w) s = .next t ∧ (t.carter g).final = some (1, false) ∧ (t.carter g).fetch = none) ∧
  (∀ (s : State) (lg : Fin 64) (w : Fin 16) (g : Nat) (p : CarterPlan), g < 192 → s.carterSt g = 0 → (s.carter g).plan = some p → p.group = lg.val →
    p.wtag = w.val → s.reached p.sweepNs = true → ∃ t, exec (.carterSweep lg w) s = .next t ∧ (t.carter g).plan = none ∧ t.carterSt g = 0) ∧
  (∀ (s : State) (g : Fin 192) (h : Nat × Bool), (s.carter g).halt = some h → ∃ t, exec (.carterChainHalt g) s = .next t ∧
    (t.carter g).halt = none ∧ (t.carter g).final = some h ∧ t.carterSt g = s.carterSt g) ∧
  (∀ (s : State) (g : Fin 192) (e : Nat) (f : Bool), (s.carter g).final = some (e, f) → (s.carter g).desc = none →
    ∃ t r, exec (.carterRunEnd g) s = .next t ∧ t.carterSt g = 0 ∧ t.rd (chFld g R.CARTER_CH_IRQ_END) = 1 ∧ (t.carter g).placed = some r ∧
      r / 2 ^ 58 = e ∧ r / 2 ^ 56 % 2 = (if f then 1 else 0) ∧ r / 2 ^ 55 % 2 = (if (s.carter g).anyBad then 1 else 0) ∧
      r / 2 ^ 40 % 256 = (s.carter g).seq % 256 ∧ r % 2 ^ 17 = s.rd (chFld g R.CARTER_CH_STATE_DESC_COUNT) ∧
      (t.carter g).seq = ((s.carter g).seq + 1) % 256 ∧
      (s.bit (chFld g R.CARTER_CH_CFG_IRQ_EN) = true → s.rd (chFld g R.CARTER_CH_CFG_DEST) = 0 → ⟨.carter, g⟩ ∈ t.hallIrq)) ∧
  (∀ (s : State) (g : Fin 192) (b : Nat), (s.carter g).placed = some b → ∃ t, exec (.carterResultTake g true) s = .next t ∧
    t.ans = ⟨.ok, 0, [⟨BitVec.ofNat 64 (2 ^ 63 + b), false⟩]⟩ ∧ (t.carter g).placed = none ∧ (t.carter g).taken = some b) ∧
  (∀ (s : State) (g : Fin 192) (b : Nat), (s.carter g).placed = none → (s.carter g).taken = some b →
    exec (.carterResultTake g true) s = .next { s with ans := ⟨.ok, 0, [⟨BitVec.ofNat 64 (2 ^ 62 + b), false⟩]⟩ }) ∧
  (∀ (s : State) (g : Fin 192), exec (.carterResultTake g false) s = .next { s with ans := ⟨.ok, 0, [⟨0, false⟩]⟩ })

/-- R416, R420 to R423, R425: a descriptor is fetched and checked, moves burst by burst, lapses, and ends.
The model's choices that it rests on: log entry 48. -/
def Obligations.CarterDescriptors : Prop :=
  (∀ (s u : State) (g : Fin 192) (f : Bool × Nat) (a : Nat) (l : List (Nat × Bool)), (s.carter g).fetch = some f → descAddr g f = some a →
    State.dmaRead ((s.wrB (chFld g R.CARTER_CH_CUR_SPACE) f.1).wr (chFld g R.CARTER_CH_CUR_ADDR) (f.2 / 32)) (carterMid g) a 32 = (some l, u) →
    anyBad l = false → CarterDesc.bad { addr := a, words := le32 8 (byteVals l), good := true } (decide (g.val < 64)) = false →
    ∃ t, exec (.carterDescFetch g) s = .next t ∧ (t.carter g).desc = some { addr := a, words := le32 8 (byteVals l), good := true } ∧
      (t.carter g).fetch = none ∧ t.ms = u.ms) ∧
  (∀ (s u : State) (g : Fin 192) (f : Bool × Nat) (a : Nat) (l : List (Nat × Bool)), (s.carter g).fetch = some f → descAddr g f = some a →
    State.dmaRead ((s.wrB (chFld g R.CARTER_CH_CUR_SPACE) f.1).wr (chFld g R.CARTER_CH_CUR_ADDR) (f.2 / 32)) (carterMid g) a 32 = (some l, u) →
    anyBad l = false → CarterDesc.bad { addr := a, words := le32 8 (byteVals l), good := true } (decide (g.val < 64)) = true →
    ∃ t, exec (.carterDescFetch g) s = .next t ∧
      (t.carter g).desc = some { addr := a, words := le32 8 (byteVals l), good := false, decided := some 4 } ∧ (t.carter g).fetch = none) ∧
  (∀ (s u : State) (g : Fin 192) (f : Bool × Nat) (a : Nat) (l : List (Nat × Bool)), (s.carter g).fetch = some f → descAddr g f = some a →
    State.dmaRead ((s.wrB (chFld g R.CARTER_CH_CUR_SPACE) f.1).wr (chFld g R.CARTER_CH_CUR_ADDR) (f.2 / 32)) (carterMid g) a 32 = (some l, u) →
    anyBad l = true → ∃ t, exec (.carterDescFetch g) s = .next t ∧ (t.carter g).desc = (s.carter g).desc ∧
      (t.carter g).halt = some (3, true) ∧ (t.carter g).fetch = none) ∧
  (∀ (s : State) (g : Fin 192) (d : CarterDesc), (s.carter g).desc = some d → s.carterNext g = some g.val → (s.carter g).lapsed s d = false →
    ∃ t e, exec (.carterBurst g) s = .next t ∧ (t.carter g).desc = some e ∧
      e.out = d.out ++ [(d.src d.row + d.off, d.dst d.row + d.off, s.burstLen d)] ∧ e.moved = d.moved ∧ e.decided = d.decided ∧
      (e.row, e.off) = (if d.len ≤ d.off + s.burstLen d then (d.row + 1, 0) else (d.row, d.off + s.burstLen d)) ∧ t.ms = s.ms ∧
      t.crt.last.get (carterKey g (s.bit (chFld g R.CARTER_CH_CFG_PRIO))) = some g.val) ∧
  (∀ (s u v : State) (g : Fin 192) (i : Fin 8) (d : CarterDesc) (b : Nat × Nat × Nat) (x : List (Nat × Bool)) (l : List (Nat × Bool)),
    (s.carter g).desc = some d → d.out[i.val]? = some b →
    s.burstSource g { d with out := d.out.eraseIdx i.val } b.1 b.2.2 x = (some l, u) → inDevice (s.ownAddr b.2.1) = true →
    u.dmaWrite (carterMid g) (s.ownAddr b.2.1) l = (true, v) → ∃ t, exec (.carterBurstAnswer g i (.served x)) s = .next t ∧
      (t.carter g).desc = some { d with out := d.out.eraseIdx i.val, moved := d.moved + b.2.2, poison := d.poison || burstPoison l } ∧ t.ms = v.ms) ∧
  (∀ (s : State) (g : Fin 192) (i : Fin 8) (d : CarterDesc) (b : Nat × Nat × Nat) (st : AnsStatus), (s.carter g).desc = some d →
    d.out[i.val]? = some b → d.decided = none → (st = .deadTarget ∨ st = .domainClosed ∨ st = .aborted ∨ st = .lapsed) →
    ∃ t, exec (.carterBurstAnswer g i (.error st)) s = .next t ∧
      (t.carter g).desc = some { d with out := d.out.eraseIdx i.val, decided := some (if st = .lapsed then 1 else 4) } ∧ t.ms = s.ms) ∧
  (∀ (s : State) (g : Fin 192) (d : CarterDesc), (s.carter g).desc = some d → d.more = true → (s.carter g).lapsed s d = true →
    ∃ t, exec (.carterDescDeadlineLapse g) s = .next t ∧ (t.carter g).desc = some { d with decided := some 1 }) ∧
  (∀ (s : State) (g : Fin 192) (d : CarterDesc), (s.carter g).desc = some d → (d.more = false ∨ (s.carter g).lapsed s d = false) →
    exec (.carterDescDeadlineLapse g) s = .next s) ∧
  (∀ (s : State) (g : Fin 192) (d : CarterDesc), (s.carter g).desc = some d → d.out = [] → d.more = false → ∃ t, exec (.carterDescEnd g) s = .next t ∧
    (t.carter g).desc = none ∧ t.ms = (s.dmaWrite (carterMid g) (d.addr + 0x10) (clean [0, 0x80 + d.status * 8])).2.ms ∧
    (nbit (d.w 0) 30 = true → t.rd (chFld g R.CARTER_CH_IRQ_DESC) = 1) ∧
    (nbit (d.w 0) 31 = true → t.reeve.tokens = s.reeve.tokens ++ [⟨(s.carter g).tokenName d, !(d.status == 0 || d.status == 3), 0xFFFF⟩]) ∧
    (nbit (d.w 0) 31 = false → t.reeve = s.reeve) ∧
    ((s.carter g).ending = none → (s.dmaWrite (carterMid g) (d.addr + 0x10) (clean [0, 0x80 + d.status * 8])).1 = true →
      d.badNext (decide (g.val < 64)) = false → d.last = true → (t.carter g).final = some (0, false)) ∧
    ((s.carter g).ending = none → (s.dmaWrite (carterMid g) (d.addr + 0x10) (clean [0, 0x80 + d.status * 8])).1 = true →
      d.badNext (decide (g.val < 64)) = false → d.last = false → s.rd (chFld g R.CARTER_CH_STATE_DESC_COUNT) < s.rd (chFld g R.CARTER_CH_CFG_LIMIT) →
      (t.carter g).fetch = some (nbit (d.w 7) 30, nbits (d.w 7) 5 21 * 32)))

/-! ## Lanes and Ewenual Link (16) -/

/-- R432 to R442, R454, R455: lanes and their locks, links, what a transmitter sends on its own, patterns, margins.
The model's choices that it rests on: log entry 49. -/
def Obligations.LanesAndLinkStates : Prop :=
  (∀ (s : State) (q : Fin 12) (v : Word), (∀ j < 4, s.rd (R.LANE_CFG_USE (4 * q.val + j)) = 0) → ∃ t, exec (.quadCfgWrite q v) s = .next t ∧
    t.rd (R.QUAD_CFG_RATE q) = bitsOf v 0 4 ∧ t.rd (R.QUAD_CFG_REF q) = bitsOf v 4 3 ∧ sameRegs s t [R.QUAD_CFG_RATE q, R.QUAD_CFG_REF q]) ∧
  (∀ (s : State) (q : Fin 12) (v : Word) (j : Nat), j < 4 → s.rd (R.LANE_CFG_USE (4 * q.val + j)) ≠ 0 → bitsOf v 0 4 ≠ s.rd (R.QUAD_CFG_RATE q) →
    exec (.quadCfgWrite q v) s = .next s) ∧
  (∀ (s : State) (l : Fin 48) (v : Word), bitsOf v 30 2 ≠ s.rd (R.LANE_CFG_USE l) → ∃ t, exec (.laneCfgWrite l v) s = .next t ∧
    t.rd (R.LANE_CFG_USE l) = bitsOf v 30 2 ∧ t.rd (R.LANE_CFG_OWNER l) = bitsOf v 25 5 ∧ t.rd (R.LANE_CFG_RX_PAT l) = bitsOf v 18 2 ∧
    t.rd (R.LANE_STATUS_BLOCK_LOCK l) = 0 ∧ t.rd (R.LANE_STATUS_MARKER_LOCK l) = 0 ∧
    t.rd (R.LANE_STATUS_RATE_ERR l) = (if rateBad (bitsOf v 30 2) (s.rd (R.QUAD_CFG_RATE (l.val / 4))) then 1 else 0)) ∧
  (∀ (s : State) (k : Fin 6) (v : Word), s.bit (R.EWL_CFG_EN k) = false → bitOf v 31 = true → (s.ewlCfg k v).lanesOwned k = true →
    ∃ t, exec (.ewlEnable k v) s = .next t ∧ t.rd (R.EWL_CFG_EN k) = 1 ∧ (t.ewlSt k = 1 ∨ t.ewlSt k = 2) ∧
      t.rd (R.EWL_STATUS_LANE_CONFLICT k) = 0 ∧ t.rd (R.EWL_CFG_LANES_M1 k) = bitsOf v 27 3 ∧ t.rd (R.EWL_CFG_FIRST_LANE k) = bitsOf v 21 6) ∧
  (∀ (s : State) (k : Fin 6) (v : Word), s.bit (R.EWL_CFG_EN k) = false → bitOf v 31 = true → (s.ewlCfg k v).lanesOwned k = false →
    ∃ t, exec (.ewlEnable k v) s = .next t ∧ t.rd (R.EWL_STATUS_LANE_CONFLICT k) = 1 ∧ t.ewlSt k = s.ewlSt k ∧ t.ewl = s.ewl) ∧
  (∀ (s : State) (k : Fin 6) (v : Word), s.bit (R.EWL_CFG_EN k) = true → bitOf v 31 = false → ∃ t, exec (.ewlDisable k v) s = .next t ∧
    t.rd (R.EWL_CFG_EN k) = 0 ∧ t.ewlSt k = 0 ∧ (t.elink k).good = false ∧ t.rd (R.EWL_CFG_LANES_M1 k) = s.rd (R.EWL_CFG_LANES_M1 k)) ∧
  (∀ (s : State) (l : Fin 48) (k : Nat) (raw : DWord) (b : Bool), s.laneLink l = some k → ∃ t, exec (.ewlBlockReceive l 1 raw b) s = .next t ∧
    (t.laneRx l).run = (s.laneRx l).run + 1 ∧ (t.laneRx l).hist = (false :: (s.laneRx l).hist).take 64 ∧ t.rd (R.LANE_STATUS_SIGNAL l) = 1) ∧
  (∀ (s : State) (l : Fin 48) (k : Nat) (raw : DWord) (b : Bool), s.laneLink l = some k → ∃ t, exec (.ewlBlockReceive l 0 raw b) s = .next t ∧
    (t.laneRx l).run = 0 ∧ (t.laneRx l).hist = (true :: (s.laneRx l).hist).take 64 ∧
    t.rd (R.LANE_ERR_SYNC_ERR l) = min (s.rd (R.LANE_ERR_SYNC_ERR l) + 1) (2 ^ 16 - 1)) ∧
  (∀ (s : State) (l : Fin 48), 64 ≤ (s.laneRx l).run → s.bit (R.LANE_STATUS_BLOCK_LOCK l) = false → ∃ t, exec (.blockLockGain l) s = .next t ∧
    t.rd (R.LANE_STATUS_BLOCK_LOCK l) = 1 ∧ t.ewl.lanes = s.ewl.lanes) ∧
  (∀ (s : State) (l : Fin 48) (k : Nat), s.bit (R.LANE_STATUS_BLOCK_LOCK l) = true → 16 ≤ ((s.laneRx l).hist.filter id).length →
    s.laneLink l = some k → l.val ∈ s.linkLanes k → s.ewlSt k = 3 → ∃ t, exec (.blockLockLoss l) s = .next t ∧
      t.rd (R.LANE_STATUS_BLOCK_LOCK l) = 0 ∧ t.ewlSt k = 1 ∧ (t.elink k).down = true) ∧
  (∀ (s : State) (l : Fin 48) (k n : Nat) (m : DWord), s.laneLink l = some k → m.toNat % 256 = 0x4B → s.ewlSt k ≠ 0 →
    s.bit (R.LANE_STATUS_MARKER_LOCK l) = false → (s.laneRx l).seen = true → (s.laneRx l).since = 16383 →
    (s.laneRx l).lane = dbits m 8 3 → ∃ t, exec (.markerReceive l m n) s = .next t ∧ t.rd (R.LANE_STATUS_MARKER_LOCK l) = 1 ∧
      (t.laneRx l).lane = dbits m 8 3 ∧ (t.laneRx l).linkId = dbits m 16 8 ∧ (t.laneRx l).since = 0) ∧
  (∀ (s : State) (l : Fin 48), s.bit (R.LANE_STATUS_MARKER_LOCK l) = true → 4 ≤ (s.laneRx l).missed → ∃ t, exec (.markerLockLoss l) s = .next t ∧
    t.rd (R.LANE_STATUS_MARKER_LOCK l) = 0 ∧ (t.laneRx l).seen = false) ∧
  (∀ (s : State) (k : Fin 6), (s.elink k).down = true → ∃ t, exec (.ewlLinkDown k) s = .next t ∧ (t.elink k).down = false ∧
    (∀ vn < 4, t.ewl.tx.get (4 * k.val + vn) = [] ∧ t.ewl.rx.get (4 * k.val + vn) = none ∧ t.ewl.credits.get (4 * k.val + vn) = 0) ∧
    (∀ f ∈ t.ewl.fwd, f.link = k.val → f.late = true)) ∧
  (∀ (s : State) (k : Fin 6), s.ewlSt k ≠ 0 → s.ewlSt k ≠ 3 → (s.elink k).from_ + 10000000 * 65536 ≤ s.stp.now →
    ∃ t, exec (.ewlSilent k) s = .next t ∧ t.rd (R.EWL_STATUS_SILENT k) = 1 ∧ sameRegs s t [R.EWL_STATUS_SILENT k]) ∧
  (∀ (s : State) (k : Fin 6) (bs : List Byte), s.ewlSt k ≠ 0 → s.rd (R.EWL_CFG_LANES_M1 k) = 0 → s.bit (R.EWL_CFG_TIME_EN k) = false →
    s.rd (R.LANE_CFG_TX_PAT (s.rd (R.EWL_CFG_FIRST_LANE k))) = 0 → ∃ t, exec (.markerSend k bs) s = .next t ∧
      t.sent = s.sent ++ [.ewlBlocks k 0 [(2, s.markerOf k 0 (bs.getD 0 0).toNat)]] ∧ (t.elink k).count = ((s.elink k).count + 1) % 256) ∧
  (∀ (s : State) (k : Fin 6), s.ewlSt k ≠ 0 → s.rd (R.EWL_CFG_LANES_M1 k) = 0 →
    s.rd (R.LANE_CFG_TX_PAT (s.rd (R.EWL_CFG_FIRST_LANE k))) = 0 → ∃ t, exec (.chaffSend k) s = .next t ∧
      t.sent = s.sent ++ [.ewlBlocks k 0 [(2, 0x55)]] ∧ t.regs = s.regs) ∧
  (∀ (s : State) (k : Fin 6), 2 ≤ s.ewlSt k → ∃ t, exec (.chaffInsert k) s = .next t ∧
    t.rd (R.EWL_CHAFF_INSERTED k) = (s.rd (R.EWL_CHAFF_INSERTED k) + 1) % 2 ^ 16 ∧ sameRegs s t [R.EWL_CHAFF_INSERTED k]) ∧
  (∀ (s : State) (l : Fin 48), s.rd (R.LANE_CFG_RX_PAT l) ≠ 0 → s.bit (R.LANE_STATUS_PRBS_LOCK l) = false → (s.laneRx l).prun = 63 →
    ∃ t, exec (.prbsCheckLock l [false]) s = .next t ∧ t.rd (R.LANE_STATUS_PRBS_LOCK l) = 1) ∧
  (∀ (s : State) (l : Fin 48) (bs : List Bool), s.rd (R.LANE_CFG_RX_PAT l) = 0 → exec (.prbsCheckLock l bs) s = .next s) ∧
  (∀ (s : State) (l : Fin 48) (v : Word), bitOf v 31 = true → ∃ t, exec (.marginStart l v) s = .next t ∧ t.rd (R.LANE_MARGIN_CTRL_START l) = 1 ∧
    t.rd (R.LANE_MARGIN_RESULT_DONE l) = 0 ∧ t.rd (R.LANE_MARGIN_CTRL_EYE l) = bitsOf v 29 2 ∧
    t.rd (R.LANE_MARGIN_CTRL_DWELL_LOG2 l) = bitsOf v 24 5 ∧ t.rd (R.LANE_MARGIN_CTRL_H_OFF l) = bitsOf v 8 6 ∧
    t.rd (R.LANE_MARGIN_CTRL_V_OFF l) = bitsOf v 0 6) ∧
  (∀ (s : State) (l : Fin 48) (n : Nat), s.bit (R.LANE_MARGIN_CTRL_START l) = true → ∃ t, exec (.marginEnd l n) s = .next t ∧
    t.rd (R.LANE_MARGIN_RESULT_MISMATCH l) = min n (2 ^ 31 - 1) ∧ t.rd (R.LANE_MARGIN_RESULT_DONE l) = 1 ∧ t.rd (R.LANE_MARGIN_CTRL_START l) = 0) ∧
  (∀ (s : State) (l : Fin 48), s.rd (R.LANE_CFG_USE l) ≠ 1 → ∃ t, exec (.laneRecal l) s = .next t ∧ t.rd (R.LANE_RECAL_BUSY l) = 1 ∧
    t.rd (R.LANE_STATUS_CDR_LOCK l) = 0 ∧ t.rd (R.LANE_STATUS_BLOCK_LOCK l) = 0 ∧ t.laneRx l = {}) ∧
  (∀ (s : State) (l : Fin 48), s.bit (R.LANE_RECAL_BUSY l) = true → ∃ t, exec (.laneRecalEnd l) s = .next t ∧ t.rd (R.LANE_RECAL_BUSY l) = 0 ∧
    t.rd (R.LANE_STATUS_CDR_LOCK l) = 1 ∧ t.ewl = s.ewl)

/-- R443 to R447, R449, R450, R452, R453: flits, credits, members, time transfer and radio streams.
The model's choices that it rests on: log entries 50 and 51. -/
def Obligations.EwenualTransport : Prop :=
  (∀ (s : State) (k : Fin 6) (f : EwlFlit), s.ewlUp k = false → exec (.ewlFlitReceive k f) s = .next s) ∧
  (∀ (s : State) (k : Fin 6) (f : EwlFlit), s.ewlUp k = true → f.ft = 0 → flitCrc f ≠ f.crc → ∃ t, exec (.ewlFlitReceive k f) s = .next t ∧
    t.ewlSt k = 1 ∧ t.rd (R.EWL_COUNTS_CRC_ERR k) = (s.rd (R.EWL_COUNTS_CRC_ERR k) + 1) % 2 ^ 16 ∧ t.ewl.rx = s.ewl.rx) ∧
  (∀ (s : State) (k : Fin 6) (f : EwlFlit), s.ewlUp k = true → f.ft = 0 → f.vn < 4 → flitCrc f = f.crc → ∃ t, exec (.ewlFlitReceive k f) s = .next t ∧
    t.ewl.rx.get (4 * k.val + f.vn) = some ⟨headOf f.data, []⟩ ∧ t.regs = s.regs) ∧
  (∀ (s : State) (k : Fin 6) (m : DWord), s.ewlUp k = true → (∀ vn < 4, s.ewl.tx.get (4 * k.val + vn) = []) →
    ∃ t, exec (.ewlCreditReceive k m) s = .next t ∧
      (∀ vn < 4, t.ewl.credits.get (4 * k.val + vn) = s.ewl.credits.get (4 * k.val + vn) + dbits m (8 + 8 * vn) 8) ∧ t.sent = s.sent) ∧
  (∀ (s : State) (i : Nat) (f : EwlFwd), s.ewl.fwd[i]? = some f → f.late = false → f.tick + ewlLimit ≤ s.stp.now → f.member < 8 →
    f.pkt.dest < 256 → s.ewl.lastAns.get f.member = none → ∃ t, exec (.ewlRequestTimeout i) s = .next t ∧
      t.ewl.fwd = s.ewl.fwd.set i { f with late := true } ∧ t.rd (R.EWL_MEMBER_STATUS_REMOTE_DEAD f.member) = 1 ∧
      t.rd (R.EWL_MEMBER_STATUS_TIMEOUTS f.member) = (s.rd (R.EWL_MEMBER_STATUS_TIMEOUTS f.member) + 1) % 2 ^ 12) ∧
  (∀ (s : State) (i : Nat) (f : EwlFwd), s.ewl.fwd[i]? = some f → s.stp.now < f.tick + ewlLimit → exec (.ewlRequestTimeout i) s = .next s) ∧
  (∀ (s : State) (d : Fin 8), ∃ t, exec (.ewlMemberRevive d) s = .next t ∧ t.rd (R.EWL_MEMBER_STATUS_REMOTE_DEAD d) = 0 ∧
    sameRegs s t [R.EWL_MEMBER_STATUS_REMOTE_DEAD d]) ∧
  (∀ (s : State) (k : Fin 6) (m : DWord), m.toNat % 256 = 0x87 → s.ewlSt k ≠ 0 → s.bit (R.EWL_CFG_TIME_EN k) = true → dbits m 8 1 = 0 →
    (s.elink k).t2 = none → ∃ t, exec (.ewlTimeReceive k m) s = .next t ∧ (t.elink k).t3 = some (dbits m 9 8, dbits m 17 40) ∧ t.regs = s.regs) ∧
  (∀ (s : State) (k : Fin 6) (m : DWord) (a b r n : Nat × Nat), m.toNat % 256 = 0x87 → s.ewlUp k = true → s.bit (R.EWL_CFG_TIME_EN k) = true →
    dbits m 8 1 = 1 → (s.elink k).t3 = some a → b = (dbits m 9 8, dbits m 17 40) → (s.elink k).rcv = some r → a.1 = r.1 →
    (s.elink k).sent.find? (fun x => x.1 == b.1) = some n → ∃ t, exec (.ewlTimeReceive k m) s = .next t ∧ t.rd (R.EWL_STATUS_TIME_VALID k) = 1 ∧
      t.rd (R.EWL_TIME_OFFSET k) = trunc 32 (ewlQuot ((sext 40 (r.2 + 2 ^ 40 - a.2) - sext 40 (b.2 + 2 ^ 40 - n.2)) * 1000
        - sext 32 (s.rd (R.EWL_TIME_ASYM k)) * 64) 2000) ∧
      t.rd (R.EWL_TIME_DELAY k) = trunc 32 (ewlQuot (sext 40 (b.2 + 2 ^ 40 - n.2) + sext 40 (r.2 + 2 ^ 40 - a.2)) 2)) ∧
  (∀ (s : State) (k : Fin 6) (m : DWord) (x : List Sample), s.ewlUp k = true → s.rd (R.EWL_CFG_MODE k) = 1 →
    s.bit (R.EWL_STREAM_CFG_EN (dbits m 8 6)) = true → s.bit (R.EWL_STREAM_CFG_DIR (dbits m 8 6)) = false →
    s.rd (R.EWL_STREAM_CFG_LINK (dbits m 8 6)) = k → ∃ t, exec (.ewlStreamReceive k m x) s = .next t ∧
      t.ewl.bursts = s.ewl.bursts ++ [⟨dbits m 8 6, dbits m 14 10, dbits m 24 23, x.take (2 * (dbits m 47 9 + 1))⟩] ∧ t.regs = s.regs) ∧
  (∀ (s : State) (k : Fin 6) (m : DWord) (x : List Sample), s.ewlUp k = true → s.rd (R.EWL_CFG_MODE k) = 1 →
    s.bit (R.EWL_STREAM_CFG_EN (dbits m 8 6)) = false → exec (.ewlStreamReceive k m x) s = .next (s.inc (R.EWL_DROPS_STREAM_DROPS k))) ∧
  (∀ (s : State) (st : Fin 64) (o : SvOut), s.sv.out.find? (fun o => o.kind == 1 && o.port == st.val) = some o →
    s.bit (R.EWL_STREAM_CFG_EN st) = true → s.bit (R.EWL_STREAM_CFG_DIR st) = true → s.ewlUp (s.rd (R.EWL_STREAM_CFG_LINK st)) = true →
    s.rd (R.EWL_CFG_MODE (s.rd (R.EWL_STREAM_CFG_LINK st))) = 1 → ∃ t, exec (.ewlStreamSend st) s = .next t ∧ t.sv.out = s.sv.out.erase o ∧
      t.sent = s.sent ++ [.ewlBlocks (s.rd (R.EWL_STREAM_CFG_LINK st)) 0 ((2, BitVec.ofNat 64 (0x78 + st.val * 2 ^ 8 + o.sfn * 2 ^ 14 +
        o.index * 2 ^ 24 + ((streamBlocks o.data).length - 1) * 2 ^ 47)) :: streamBlocks o.data)])

/-! ## The Market (17) -/

namespace Sys2Proof.Claims
open Machine

/-- A frame that passes its length and FCS checks at port `p` (R458), is not protected, and is no PAUSE frame. -/
def frameGood (s : State) (p : Nat) (f : RxFrame) : Prop :=
  64 ≤ f.bytes.length ∧ f.bytes.length ≤ s.rd (R.MARKET_PORT_CFG_MAX_FRAME p) ∧
  badLength (f.bytes.take (f.bytes.length - 4)).length (parseFrame (f.bytes.take (f.bytes.length - 4))) = false ∧
  bytesOf32 (fcs (f.bytes.take (f.bytes.length - 4))) = f.bytes.drop (f.bytes.length - 4) ∧
  (parseFrame (f.bytes.take (f.bytes.length - 4))).et ≠ 0x8808 ∧ s.msecOn p = false

/-- What classification reads of a received frame. -/
def rxKeys (f : RxFrame) : FrameKeys := parseFrame (byteVals (cellMarks (f.bytes.take (f.bytes.length - 4)) f.bad))

end Sys2Proof.Claims

/-- R457 to R460, R463, R464, R473, R474, R493: ports, their links, and frames that are received.
The model's choices that it rests on: log entries 52 and 53. -/
def Obligations.MarketPortsAndReception : Prop :=
  (∀ (s : State) (p : Fin 32) (v : Word), bitOf v 31 = true → s.bit (R.MARKET_PORT_CFG_EN p) = false →
    ((s.portCfg p v).wrB (R.MARKET_PORT_CFG_EN p) true).portCfgOk p = true → ∃ t, exec (.marketPortEnable p v) s = .next t ∧
      t.rd (R.MARKET_PORT_CFG_EN p) = 1 ∧ t.mktPort p = (if bitOf v 30 then 1 else 2) ∧ t.rd (R.MARKET_PORT_STATUS_CFG_ERR p) = 0 ∧
      t.rd (R.MARKET_PORT_CFG_MAX_FRAME p) = min 9600 (max 1518 (bitsOf v 0 14)) ∧ t.ans = acked) ∧
  (∀ (s : State) (p : Fin 32) (v : Word), bitOf v 31 = true → s.bit (R.MARKET_PORT_CFG_EN p) = false →
    ((s.portCfg p v).wrB (R.MARKET_PORT_CFG_EN p) true).portCfgOk p = false → ∃ t, exec (.marketPortEnable p v) s = .next t ∧
      t.rd (R.MARKET_PORT_STATUS_CFG_ERR p) = 1 ∧ t.mktPort p = s.mktPort p) ∧
  (∀ (s : State) (p : Fin 32) (v : Word), bitOf v 31 = false → ∃ t, exec (.marketPortEnable p v) s = .next t ∧
    t.rd (R.MARKET_PORT_CFG_EN p) = 0 ∧ t.mktPort p = 0 ∧ t.mkt = s.mkt) ∧
  (∀ (s : State) (p : Fin 32) (v : Word), bitOf v 29 = true → s.mktPort p ≠ 0 → s.bit (R.MARKET_PORT_CFG_TRAIN p) = true →
    ∃ t, exec (.marketPortRetrain p v) s = .next t ∧ t.mktPort p = 1 ∧ t.rd (R.MARKET_PORT_STATUS_FEC_LOCK p) = 0) ∧
  (∀ (s : State) (p : Fin 32), s.mktPort p = 1 → ∃ t, exec (.trainingComplete p) s = .next t ∧ t.mktPort p = 2 ∧ t.mkt = s.mkt) ∧
  (∀ (s : State) (p : Fin 32), s.mktPort p = 1 → ∃ t, exec (.trainingTimeout p) s = .next t ∧ t.mktPort p = 1 ∧
    t.rd (R.MARKET_TRAIN_RESTARTS p) = (s.rd (R.MARKET_TRAIN_RESTARTS p) + 1) % 2 ^ 32 ∧ sameRegs s t [R.MARKET_TRAIN_RESTARTS p]) ∧
  (∀ (s : State) (p : Fin 32), s.mktPort p = 2 → s.mkt.queues.get p = [] → ∃ t, exec (.pcsLock p) s = .next t ∧ t.mktPort p = 3 ∧
    t.rd (R.MARKET_PORT_STATUS_FEC_LOCK p) = (if s.rd (R.MARKET_PORT_CFG_FEC p) ≠ 0 then 1 else 0) ∧ t.mkt = s.mkt) ∧
  (∀ (s : State) (p : Fin 32), s.mktPort p = 3 → ∃ t, exec (.pcsLockLoss p) s = .next t ∧
    t.mktPort p = (if s.bit (R.MARKET_PORT_CFG_TRAIN p) then 1 else 2) ∧ t.rd (R.MARKET_PORT_STATUS_FEC_LOCK p) = 0 ∧
    t.rd (R.MARKET_LINK_LOSS p) = (s.rd (R.MARKET_LINK_LOSS p) + 1) % 2 ^ 32) ∧
  (∀ (s : State) (k : Fin 2), s.bit (R.MARKET_SYNCE_OUT_SQUELCH k) = true → ∃ t, exec (.synceSquelch k) s = .next t ∧
    t.rd (R.MARKET_SYNCE_OUT_SQUELCHED k) = 1 ∧ sameRegs s t [R.MARKET_SYNCE_OUT_SQUELCHED k]) ∧
  (∀ (s : State) (k : Fin 2), s.bit (R.MARKET_SYNCE_OUT_SQUELCH k) = false → s.mktPort (s.rd (R.MARKET_SYNCE_OUT_PORT k)) = 3 →
    s.bit (R.LANE_STATUS_CDR_LOCK (s.rd (R.MARKET_PORT_CFG_FIRST_LANE (s.rd (R.MARKET_SYNCE_OUT_PORT k))))) = true →
    ∃ t, exec (.synceSquelch k) s = .next t ∧ t.rd (R.MARKET_SYNCE_OUT_SQUELCHED k) = 0) ∧
  (∀ (s : State) (p : Fin 32) (f : RxFrame), s.mktUp p = false → exec (.frameReceive p f) s = .next s) ∧
  (∀ (s : State) (p : Fin 32) (f : RxFrame), s.mktUp p = true → f.bytes.length < 64 → ∃ t, exec (.frameReceive p f) s = .next t ∧ t.mkt = s.mkt ∧
    t.rd (R.MARKET_PORT_COUNT p 0) = (s.rd (R.MARKET_PORT_COUNT p 0) + 1) % 2 ^ 32 ∧
    t.rd (R.MARKET_PORT_COUNT p 1) = (s.rd (R.MARKET_PORT_COUNT p 1) + 1) % 2 ^ 32) ∧
  (∀ (s : State) (p : Fin 32) (f : RxFrame), s.mktUp p = true → frameGood s p f → s.flowMatch p (rxKeys f) = none →
    ∃ t, exec (.frameReceive p f) s = .next t ∧ t.mkt = s.mkt ∧
      t.rd (R.MARKET_PORT_COUNT p 0) = (s.rd (R.MARKET_PORT_COUNT p 0) + 1) % 2 ^ 32 ∧
      t.rd (R.MARKET_PORT_COUNT p 3) = (s.rd (R.MARKET_PORT_COUNT p 3) + 1) % 2 ^ 32) ∧
  (∀ (s : State) (p : Fin 32) (f : RxFrame) (e st spf : Nat), s.mktUp p = true → frameGood s p f → s.stamped p = false →
    s.flowMatch p (rxKeys f) = some e → nbits (s.rd (R.MARKET_FLOW e 0)) 28 3 = 3 → st = nbits (s.rd (R.MARKET_FLOW e 5)) 0 6 →
    s.cellsRoom none (cellsOf f.bytes.length) = true → (rxKeys f).et = 0xFC3D → s.bit (R.MARKET_STREAM_CFG_EN st) = true →
    s.bit (R.MARKET_STREAM_CFG_DIR st) = false → s.rd (R.MARKET_STREAM_CFG_SPP st) ≠ 0 →
    fw f.bytes ((rxKeys f).off + 2) = 4 * s.rd (R.MARKET_STREAM_CFG_SPP st) →
    (rxKeys f).off + 8 + 4 * s.rd (R.MARKET_STREAM_CFG_SPP st) ≤ f.bytes.length - 4 → s.mkt.streams.get st = {} →
    beNum ((f.bytes.drop ((rxKeys f).off + 4)).take 4) = s.rd (R.MARKET_STREAM_ANCHOR_SEQ st) → s.streamSpf st = some spf →
    s.rd (R.MARKET_STREAM_ANCHOR_IDX st) < spf → s.rd (R.MARKET_STREAM_ANCHOR_SFN st) < 1024 → ∃ t data, exec (.frameReceive p f) s = .next t ∧
      t.mkt.blocks = s.mkt.blocks ++ [⟨st, s.rd (R.MARKET_STREAM_ANCHOR_SFN st), s.rd (R.MARKET_STREAM_ANCHOR_IDX st), data⟩] ∧
      data.length = s.rd (R.MARKET_STREAM_CFG_SPP st) ∧
      (t.mkt.streams.get st).seq = some ((s.rd (R.MARKET_STREAM_ANCHOR_SEQ st) + 1) % 4294967296))

/-- R470 to R472, R475 to R480, R488, R489, R494: landings and their tokens, planned egress, streams, host queues, captures.
The model's choices that it rests on: log entries 54 and 55. -/
def Obligations.MarketLandingEgressAndQueues : Prop :=
  (∀ (s : State) (i : Nat) (l : Landing) (g w ns sym n : Nat) (x : MktPlan) (m : MktNotify), s.mkt.landings[i]? = some l → l.pool = none →
    l.win = some (g, w) → l.counts = [(ns, sym, n)] → s.planOf g w = some x → x.note ns sym = some m → m.sent = false →
    m.expect ≤ x.counts.get (ns * 16 + sym) + n → ∃ t, exec (.landingWritesAnswered i) s = .next t ∧
      t.mkt.landings = s.mkt.landings.eraseIdx i ∧ t.reeve.tokens = s.reeve.tokens ++ [⟨windowName g w m.index, false, 0xFFFF⟩]) ∧
  (∀ (s : State) (i : Nat) (l : Landing) (tok q : Nat), s.mkt.landings[i]? = some l → l.pool = some (tok, q) → l.errs = 0 → l.counts = [] →
    s.lqIsFull q = false → ∃ t, exec (.landingWritesAnswered i) s = .next t ∧ t.mkt.landings = s.mkt.landings.eraseIdx i ∧
      t.mkt.pushes = s.mkt.pushes ++ [(q, tok, l.port)]) ∧
  (∀ (s : State) (g : Fin 64) (w : Fin 16) (ns : Fin 128) (sym : Fin 14) (x : MktPlan) (m : MktNotify), s.planOf g w = some x →
    x.note ns sym = some m → m.sent = false → passed s.tick m.deadline = true → ∃ t, exec (.notifyDeadline g w ns sym) s = .next t ∧
      t.reeve.tokens = s.reeve.tokens ++ [⟨windowName g w m.index, true, 0xFFFF⟩] ∧
      t.rd R.MARKET_NOTIFY_LAPSED = (s.rd R.MARKET_NOTIFY_LAPSED + 1) % 2 ^ 32) ∧
  (∀ (s : State) (g : Fin 64) (w : Fin 16) (ns : Fin 128) (sym : Fin 14) (x : MktPlan) (m : MktNotify), s.planOf g w = some x →
    x.note ns sym = some m → (m.sent = true ∨ passed s.tick m.deadline = false) → exec (.notifyDeadline g w ns sym) s = .next s) ∧
  (∀ (s u : State) (q : Fin 64) (x : Nat × Nat × Nat), s.mkt.pushes.find? (fun x => x.1 == q.val) = some x →
    State.dmaWrite (s.setMkt { s.mkt with pushes := s.mkt.pushes.erase x }) marketMid
      (s.rd (R.MARKET_LQ_BASE_ADDR q) * 4 + s.rd (R.MARKET_LQ_PROD q) % s.lqSize q * 4) (clean (bytesOf32 x.2.1)) = (true, u) →
    ∃ t, exec (.landingQueuePush q) s = .next t ∧ t.ms = u.ms ∧ t.mkt.pushes = s.mkt.pushes.erase x ∧
      t.rd (R.MARKET_LQ_PROD q) = (s.rd (R.MARKET_LQ_PROD q) + 1) % 2 ^ 32 ∧
      (s.bit (R.MARKET_LQ_CFG_IRQ_EN q) = true → s.bit (R.MARKET_LQ_CFG_DEST q) = false → ⟨.landing, q⟩ ∈ t.hallIrq)) ∧
  (∀ (s : State) (q : Fin 64) (v : Word), (v.toNat + 4294967296 - s.rd (R.MARKET_LQ_CONS q)) % 4294967296 ≤
      (s.rd (R.MARKET_LQ_PROD q) + 4294967296 - s.rd (R.MARKET_LQ_CONS q)) % 4294967296 → ∃ t, exec (.lqConsWrite q v) s = .next t ∧
    t.rd (R.MARKET_LQ_CONS q) = v.toNat ∧ sameRegs s t [R.MARKET_LQ_CONS q] ∧ t.ans = acked) ∧
  (∀ (s : State) (q : Fin 64) (v : Word), (s.rd (R.MARKET_LQ_PROD q) + 4294967296 - s.rd (R.MARKET_LQ_CONS q)) % 4294967296 <
      (v.toNat + 4294967296 - s.rd (R.MARKET_LQ_CONS q)) % 4294967296 → exec (.lqConsWrite q v) s = .next s.ack) ∧
  (∀ (s : State) (st : Fin 64) (o : SvOut) (spp : Nat), s.sv.out.find? (fun o => o.kind == 0 && o.port == st.val) = some o →
    s.bit (R.MARKET_STREAM_CFG_EN st) = true → s.bit (R.MARKET_STREAM_CFG_DIR st) = true → spp = s.rd (R.MARKET_STREAM_CFG_SPP st) → spp ≠ 0 →
    o.data.length % spp = 0 →
    s.cellsRoom none (o.data.length / spp * cellsOf ((s.mkt.streams.get st).template.length + 4 + 4 * spp + 4)) = true →
    ∃ t, exec (.streamTxBurst st) s = .next t ∧ t.sv.out = s.sv.out.erase o ∧
      (t.mkt.streams.get st).seq = some (((s.mkt.streams.get st).seq.getD (s.rd (R.MARKET_STREAM_ANCHOR_SEQ st)) + o.data.length / spp) % 4294967296)) ∧
  (∀ (s : State) (g : Fin 64) (w : Fin 16) (i : Fin 4096) (e : MktOut), s.outOf g w i = some e → e.opened = false → passed s.tick e.open_ = true →
    s.mkt.queues.get e.port = [] → ∃ t, exec (.egressOpen g w i) s = .next t ∧ t.outOf g w i = some { e with opened := true } ∧ t.regs = s.regs) ∧
  (∀ (s : State) (v : Word) (e : MktOut), s.outOf (bitsOf v 16 6) (bitsOf v 12 4) (bitsOf v 0 12) = some e → e.done = false → e.rung = false →
    e.doorbell = true → ∃ t, exec (.marketTxReady v) s = .next t ∧
      t.outOf (bitsOf v 16 6) (bitsOf v 12 4) (bitsOf v 0 12) = some { e with rung := true } ∧ t.regs = s.regs ∧ t.ans = acked) ∧
  (∀ (s : State) (v : Word), s.outOf (bitsOf v 16 6) (bitsOf v 12 4) (bitsOf v 0 12) = none →
    exec (.marketTxReady v) s = .next (s.inc R.MARKET_DROP_UNPLANNED).ack) ∧
  (∀ (s u : State) (p : Fin 32) (g w : Nat) (e : MktOut) (b : List (Nat × Bool)), s.mktUp p = true → s.mkt.now.get p = none → s.msecOn p = false →
    s.nextOut p = some (g, w, e) → s.dmaRead marketMid e.src e.len = (some b, u) → u.cellsRoom none (cellsOf (max e.len 60 + 4)) = true →
    ∃ t x, exec (.egressStart p) s = .next t ∧ t.mkt.now.get p = some x ∧ x.win = some (g, w) ∧ x.pn = none ∧
      x.token = (if e.release then some e.token else none) ∧ s.wireNow ≤ x.ends ∧
      t.rd R.MARKET_BUF_STATUS_CELLS = s.rd R.MARKET_BUF_STATUS_CELLS + cellsOf (max e.len 60 + 4)) ∧
  (∀ (s : State) (g : Fin 64) (w : Fin 16) (i : Fin 4096) (e : MktOut), s.outOf g w i = some e → e.done = false → passed s.tick e.close = true →
    s.mkt.queues.get e.port = [] → ∃ t, exec (.egressWithhold g w i) s = .next t ∧ t.outOf g w i = some { e with done := true } ∧
      t.rd (R.MARKET_PORT_COUNT e.port 12) = (s.rd (R.MARKET_PORT_COUNT e.port 12) + 1) % 2 ^ 32) ∧
  (∀ (s : State) (p : Fin 32) (f : TxNow), s.mkt.now.get p = some f → f.ends ≤ s.wireNow → s.mkt.queues.get p = [] →
    ∃ t, exec (.frameDeparture p) s = .next t ∧ t.mkt.now.get p = none ∧ t.sent = s.sent ++ [.frame p f.out f.pn] ∧
      t.rd (R.MARKET_PORT_COUNT p 11) = (s.rd (R.MARKET_PORT_COUNT p 11) + 1) % 2 ^ 32) ∧
  (∀ (s : State) (q : Fin 16) (v : Word), (s.mkt.txq.get q).length < 255 → ∃ t, exec (.marketTxqPush q v) s = .next t ∧
    t.mkt.txq.get q = s.mkt.txq.get q ++ [v.toNat] ∧ t.rd (R.MARKET_TXQ_LEVEL_LEVEL q) = (s.mkt.txq.get q).length + 1 ∧ t.ans = acked) ∧
  (∀ (s u v : State) (q : Fin 16) (a : Nat) (r : List Nat) (d b : List (Nat × Bool)) (w : List Nat), s.mkt.txq.get q = a :: r →
    s.dmaRead marketMid (a / 16 * 16) 16 = (some d, u) → w = le32 4 (byteVals d) →
    u.dmaRead marketMid (nbits (w.getD 1 0) 24 8 * 2 ^ 32 + w.getD 0 0) (nbits (w.getD 1 0) 0 14) = (some b, v) →
    v.cellsRoom (some (nbits (w.getD 2 0) 29 3)) (cellsOf (max (nbits (w.getD 1 0) 0 14) 60 + 4)) = true →
    s.mktUp (nbits (w.getD 1 0) 16 5) = false → ∃ t f, exec (.hostFrameSend q) s = .next t ∧ t.mkt.txq.get q = r ∧
      t.rd (R.MARKET_TXQ_LEVEL_LEVEL q) = r.length % 256 ∧
      t.mkt.queues.get (nbits (w.getD 1 0) 16 5) = s.mkt.queues.get (nbits (w.getD 1 0) 16 5) ++ [f] ∧ f.bytes = b ∧ f.tc = nbits (w.getD 2 0) 29 3) ∧
  (∀ (s : State) (p : Fin 32) (v : Word), ∃ t, exec (.marketTsPop p v) s = .next t ∧ t.mkt.caps.get p = (s.mkt.caps.get p).tail ∧
    t.rd (R.MARKET_TS_CAP p 0) = (((s.mkt.caps.get p).tail).headD (0, 0, 0, 0)).1 % 2 ^ 32 ∧ t.ans = acked) ∧
  (∀ (s : State) (p : Fin 32), ∃ t, exec (.marketTsCap3Read p) s = .next t ∧ t.rd (R.MARKET_PTP_CFG_TS_OVERFLOW p) = 0 ∧
    t.ans = ⟨.ok, 0, [⟨BitVec.ofNat 64 (s.rd (R.MARKET_TS_CAP p 3)), false⟩]⟩ ∧ sameRegs s t [R.MARKET_PTP_CFG_TS_OVERFLOW p] ∧ t.mkt = s.mkt) ∧
  (∀ (s : State) (p : Fin 32), ∃ t, exec (.marketPortStatusRead p) s = .next t ∧ t.rd (R.MARKET_PORT_STATUS_TXQ_FULL p) = 0 ∧
    t.ans = ⟨.ok, 0, [⟨BitVec.ofNat 64 (s.rd (R.MARKET_PORT_STATUS_STATE p) * 2 ^ 30 + s.rd (R.MARKET_PORT_STATUS_CFG_ERR p) * 2 ^ 29 +
      s.rd (R.MARKET_PORT_STATUS_TXQ_FULL p) * 2 ^ 28 + s.rd (R.MARKET_PORT_STATUS_FEC_LOCK p) * 2 ^ 27), false⟩]⟩ ∧
    sameRegs s t [R.MARKET_PORT_STATUS_TXQ_FULL p]) ∧
  (∀ (s : State) (g : Fin 64) (w : Fin 16) (x : MktPlan), s.planOf g w = some x → s.reached x.sweepNs = true →
    ∃ t, exec (.marketSweep g w) s = .next t ∧ t.mkt.plans = s.mkt.plans.filter (fun y => !y.isOf g w) ∧
      t.mkt.landings = s.mkt.landings.filter (fun l => !(l.win == some (g.val, w.val)))) ∧
  (∀ (s : State) (g : Fin 64) (w : Fin 16), s.planOf g w = none → exec (.marketSweep g w) s = .next s)

/-! ## The host interface (18) -/

/-- R498, R499, R503 to R506, R510, R511: the link, functions and their resets, PF2's VFs, settings, outbound requests.
The model's choices that it rests on: log entries 57 and 58. -/
def Obligations.HostLinkFunctionsAndOutbound : Prop :=
  (∀ (s : State) (v : Fin 8) (w : Fin 32), ∃ t, exec (.pcieLinkUp v w) s = .next t ∧ t.rd R.HOST_STATUS_LINK_UP = 1 ∧
    t.rd R.HOST_STATUS_SPEED = v ∧ t.rd R.HOST_STATUS_WIDTH = w ∧
    sameRegs s t [R.HOST_STATUS_LINK_UP, R.HOST_STATUS_SPEED, R.HOST_STATUS_WIDTH]) ∧
  (∀ (s : State), ∃ t, exec .pcieLinkDown s = .next t ∧ t.rd R.HOST_STATUS_LINK_UP = 0 ∧ t.host = s.host ∧
    sameRegs s t [R.HOST_STATUS_LINK_UP, R.HOST_STATUS_SPEED, R.HOST_STATUS_WIDTH]) ∧
  (∀ (s : State) (fn : Fin 256) (r : ConfigReq), s.hostBoot = 0 → ∃ t, exec (.hostConfigRequest fn r) s = .next t ∧
    t.sent = s.sent ++ [.cpl fn .crs [] false] ∧ t.host = s.host) ∧
  (∀ (s : State) (fn : Fin 256) (on : Bool), s.configAnswer fn = .sc → ∃ t, exec (.hostConfigRequest fn (.busMaster on)) s = .next t ∧
    t.sent = s.sent ++ [.cpl fn .sc [] false] ∧ t.busMaster fn = on ∧ (on = true → fn.val ∉ t.host.stopped) ∧
    (∀ f, f ≠ fn.val → t.busMaster f = s.busMaster f)) ∧
  (∀ (s : State) (fn : Fin 256), ∃ t, exec (.functionLevelReset fn false) s = .next t ∧ t.busMaster fn = false ∧ fn.val ∈ t.host.stopped ∧
    (∀ f, f ≠ fn.val → t.busMaster f = s.busMaster f) ∧ t.regs = s.regs) ∧
  (∀ (s : State), ∃ t, exec (.functionLevelReset 2 true) s = .next t ∧ t.host.vf2 = false ∧
    (∀ v < 16, t.vfSt v = 0 ∧ t.busMaster (0x50 + v) = false ∧ 0x50 + v ∈ t.host.stopped)) ∧
  (∀ (s : State), s.hostBoot = 1 → s.host.vf2 = false → ∃ t, exec .pf2VfEnable s = .next t ∧ t.host.vf2 = true ∧ t.host.vfAt = s.stp.now ∧
    (∀ v < 16, t.vfSt v = (if s.vfMask v = [] then 3 else 1))) ∧
  (∀ (s : State) (v : Fin 16), s.vfSt v = 1 → s.vfLoaded v = true → ∃ t, exec (.pf2VfPresent v) s = .next t ∧ t.vfSt v = 2 ∧
    sameRegs s t [R.HOST_PF2_VF_STOOLS_STATE v]) ∧
  (∀ (s : State) (v : Fin 16), s.vfSt v = 1 → s.vfEnd ≤ s.stp.now → s.vfLoaded v = false → ∃ t, exec (.pf2WindowExpiry v) s = .next t ∧
    t.vfSt v = 3 ∧ sameRegs s t [R.HOST_PF2_VF_STOOLS_STATE v]) ∧
  (∀ (s : State), ∃ t, exec .perstAssert s = .next t ∧ t.hostBoot = s.hostBoot ∧ t.host = {} ∧
    (∀ f : Fld, f.lo < 64 → 0x43000000 ≤ f.addr → f.addr < 0x44000000 → f.key ≠ R.HOST_STATUS_BOOT.key → t.rd f = f.reset % 2 ^ f.w) ∧
    (∀ f : Fld, f.lo < 64 → (f.addr < 0x43000000 ∨ 0x44000000 ≤ f.addr) → t.rd f = s.rd f)) ∧
  (∀ (s : State) (f : Fin 128) (d : Fin 16) (v : Word), ∃ t, exec (.hostDbBindWrite f d v) s = .next t ∧
    t.rd (R.HOST_DB_BIND_EN f d) = (if bitsOf v 24 6 = 0 ∨ bitsOf v 24 6 = 2 ∨ bitsOf v 24 6 = 3 then 0 else bitsOf v 31 1) ∧
    t.rd (R.HOST_DB_BIND_OFFSET f d) = bitsOf v 2 28 ∧ sameRegs s t [R.HOST_DB_BIND_EN f d, R.HOST_DB_BIND_OFFSET f d] ∧ t.ans = acked) ∧
  (∀ (s : State) (f : Fin 128) (v : Word), ∃ t, exec (.hostFnWinWrite f v) s = .next t ∧
    t.rd (R.HOST_FN_WIN_EN f) = (if windowOk (bitsOf v 0 20 * 2 ^ 20) then bitsOf v 31 1 else 0) ∧ t.rd (R.HOST_FN_WIN_BASE f) = bitsOf v 0 20 ∧
    sameRegs s t [R.HOST_FN_WIN_EN f, R.HOST_FN_WIN_BASE f]) ∧
  (∀ (s : State) (r : Fin 64) (v : Word), ∃ t, exec (.hostObMapWrite r true v) s = .next t ∧ t.rd (R.HOST_OB_MAP_HI_ADDR r) = v.toNat ∧
    sameRegs s t [R.HOST_OB_MAP_HI_ADDR r]) ∧
  (∀ (s : State) (r : Fin 64) (v : Word), ∃ t, exec (.hostObMapWrite r false v) s = .next t ∧ t.rd (R.HOST_OB_MAP_LO_EN r) = bitsOf v 31 1 ∧
    t.rd (R.HOST_OB_MAP_LO_NS r) = bitsOf v 30 1 ∧ t.rd (R.HOST_OB_MAP_LO_FN r) = bitsOf v 16 8 ∧ t.rd (R.HOST_OB_MAP_LO_ADDR_31_30 r) = bitsOf v 0 2) ∧
  (∀ (s : State) (a r fn : Nat) (ws : List PWord), r < 64 → a < 0x40000000 → fn = s.rd (R.HOST_OB_MAP_LO_FN r) → s.bit (R.HOST_OB_MAP_LO_EN r) = true →
    s.busMaster fn = true → fn ∉ s.host.stopped → s.linkUp = true → anyMark ws = false →
    ∃ t, exec (.outboundRequest (outboundBase + r * 0x40000000 + a) (.write ws)) s = .next t ∧ t.ans = acked ∧
      t.sent = s.sent ++ [.tlp ws (s.rd (R.HOST_OB_MAP_HI_ADDR r) * 2 ^ 32 + s.rd (R.HOST_OB_MAP_LO_ADDR_31_30 r) * 2 ^ 30 + a) fn false]) ∧
  (∀ (s : State) (a r fn n : Nat), r < 64 → a < 0x40000000 → fn = s.rd (R.HOST_OB_MAP_LO_FN r) → s.bit (R.HOST_OB_MAP_LO_EN r) = true →
    s.busMaster fn = true → fn ∉ s.host.stopped → s.linkUp = true →
    ∃ t, exec (.outboundRequest (outboundBase + r * 0x40000000 + a) (.read n)) s = .next t ∧
      t.host.reads = s.host.reads ++ [⟨fn, n, s.stp.now, false⟩] ∧ t.sent.length = s.sent.length + 1) ∧
  (∀ (s : State) (a r : Nat) (q : OutboundReq), r < 64 → a < 0x40000000 → s.bit (R.HOST_OB_MAP_LO_EN r) = false →
    exec (.outboundRequest (outboundBase + r * 0x40000000 + a) q) s = .next s.refusedAns) ∧
  (∀ (s : State) (i : Nat) (x : HostRead) (ws : List DWord) (ep : Bool), s.host.reads[i]? = some x → x.late = false →
    ∃ t, exec (.outboundCompletion i (.data ws ep)) s = .next t ∧ t.ans = ⟨.ok, 0, ws.map (fun w => ⟨w, ep⟩)⟩ ∧
      t.host.reads = s.host.reads.eraseIdx i) ∧
  (∀ (s : State) (i : Nat) (x : HostRead) (c : HostCpl), s.host.reads[i]? = some x → x.late = true → ∃ t, exec (.outboundCompletion i c) s = .next t ∧
    t.ans = s.ans ∧ t.host.reads = s.host.reads.eraseIdx i ∧ t.rd R.HOST_LATE_CPL = (s.rd R.HOST_LATE_CPL + 1) % 2 ^ 32) ∧
  (∀ (s : State) (i : Nat) (x : HostRead), s.host.reads[i]? = some x → x.late = false → x.sent + 3500 * 65536 ≤ s.stp.now →
    ∃ t, exec (.outboundTimeout i) s = .next t ∧ t.ans = abortedBy 8 ∧ t.host.reads = s.host.reads.set i { x with late := true } ∧
      t.rd R.HOST_OB_TIMEOUTS = (s.rd R.HOST_OB_TIMEOUTS + 1) % 2 ^ 32) ∧
  (∀ (s : State) (i : Nat) (x : HostRead), s.host.reads[i]? = some x → x.late = true → ∃ t, exec (.requesterCompletionTimeout i) s = .next t ∧
    t.host.reads = s.host.reads.eraseIdx i ∧ t.ans = s.ans)

/-- R500 to R504, R507, R508, R625, R626: requests of the host and of JTAG, interrupts, completion queues.
The model's choices that it rests on: log entries 56 and 59. -/
def Obligations.HostAndJtagAccesses : Prop :=
  (∀ (s u : State) (off n : Nat) (ext : List PWord) (l : List (Nat × Bool)), s.hostBoot = 1 → s.linkUp = true → off < 0x4000000 → off + n ≤ 0x4000000 →
    s.dmaRead hostMid off n = (some l, u) → ∃ t, exec (.hostMemoryRead 0 2 off n ext) s = .next t ∧ t.ms = u.ms ∧
      t.sent = s.sent ++ [.cpl 0 .sc (byteVals l) (anyBad l)]) ∧
  (∀ (s : State) (off n : Nat) (ext : List PWord), s.hostBoot = 1 → s.linkUp = true → s.bit (R.HOST_FN_WIN_EN 1) = false → off < 0x4000000 → off + n ≤ 0x4000000 →
    exec (.hostMemoryRead 1 2 off n ext) s = .next (s.send (.cpl 1 .ca [] false))) ∧
  (∀ (s : State) (off n : Nat) (ext : List PWord), s.hostBoot = 1 → s.linkUp = true → 0x4000000 < off + n →
    exec (.hostMemoryRead 0 2 off n ext) s = .next (s.send (.cpl 0 .ur [] false))) ∧
  (∀ (s : State) (fn : Fin 256) (b : Fin 6) (off n : Nat) (ext : List PWord), s.hostBoot = 1 → s.linkUp = true → 0x60 ≤ fn.val →
    exec (.hostMemoryRead fn b off n ext) s = .next (s.send (.cpl fn .ur [] false))) ∧
  (∀ (s u : State) (off : Nat) (bs : List Byte) (ep : Bool) (o : Outside), s.hostBoot = 1 → s.linkUp = true → off < 0x4000000 → off + bs.length ≤ 0x4000000 →
    s.dmaWrite hostMid off (bs.map (fun b => (b.toNat, ep))) = (true, u) → exec (.hostMemoryWrite 0 2 off bs ep o) s = .next u) ∧
  (∀ (s u : State) (off : Nat) (bs : List Byte) (ep : Bool) (o : Outside), s.hostBoot = 1 → s.linkUp = true → off < 0x4000000 → off + bs.length ≤ 0x4000000 →
    s.dmaWrite hostMid off (bs.map (fun b => (b.toNat, ep))) = (false, u) → exec (.hostMemoryWrite 0 2 off bs ep o) s = .next (u.inc R.HOST_IN_WERR)) ∧
  (∀ (s : State) (off : Nat) (bs : List Byte) (o : Outside), s.hostBoot = 1 → s.linkUp = true → off < 0x40000000 → off + bs.length ≤ 0x40000000 →
    exec (.hostMemoryWrite 0 0 off bs true o) s = .next (s.inc R.HOST_IN_WERR)) ∧
  (∀ (s u : State) (fn : Fin 128) (d : Fin 16) (v : Word) (o : Outside), s.bit (R.HOST_DB_BIND_EN fn d) = true → fn.val ∉ s.host.stopped →
    s.regWrite hostMid (0x40000000 + s.rd (R.HOST_DB_BIND_OFFSET fn d) * 4) v o = .next u → u.ans.status = .ok →
    exec (.hostDoorbellWrite (fn.castLE (by decide)) d v 4 o) s = .next u) ∧
  (∀ (s : State) (fn : Fin 256) (d : Fin 16) (v : Word) (n : Nat) (o : Outside), (n ≠ 4 ∨ s.bit (R.HOST_DB_BIND_EN fn d) = false) →
    exec (.hostDoorbellWrite fn d v n o) s = .next (s.inc R.HOST_DB_UNBOUND)) ∧
  (∀ (s : State) (i : Fin 512), i.val ∈ s.hostIrq → s.bit (R.HOST_IRQ_ROUTE_EN i) = true → s.bit (R.HOST_IRQ_ROUTE_VIA_HCQ i) = false →
    s.linkUp = true → ∃ t, exec (.hostInterruptSend i) s = .next t ∧ i.val ∉ t.hostIrq ∧ t.regs = s.regs ∧
      t.sent = s.sent ++ [.msix (s.rd (R.HOST_IRQ_ROUTE_FN i)) (s.rd (R.HOST_IRQ_ROUTE_VECTOR i))]) ∧
  (∀ (s u : State) (i : Fin 512) (h fn k src v : Nat) (bad : Bool), h = s.rd (R.HOST_IRQ_ROUTE_HCQ i) → fn = s.rd (R.HOST_HCQ_CFG_FN h) →
    s.bit (R.HOST_IRQ_ROUTE_EN i) = true → s.bit (R.HOST_IRQ_ROUTE_VIA_HCQ i) = true → s.bit (R.HOST_HCQ_CFG_EN h) = true →
    s.hcqHeld h < s.hcqSize h → s.busMaster fn = true → fn ∉ s.host.stopped → s.linkUp = true → s.takeSource i = some (k, src, v, bad, u) →
    (∃ t ws a, exec (.hcqFill i false) s = .next t ∧ t.rd (R.HOST_HCQ_TAIL h) = (s.rd (R.HOST_HCQ_TAIL h) + 1) % 2 ^ 32 ∧
      t.sent = s.sent ++ [.tlp ws a fn bad, .msix fn (s.rd (R.HOST_HCQ_CFG_VECTOR h))] ∧
      a = s.rd (R.HOST_HCQ_BASE_HI_ADDR h) * 2 ^ 32 + s.rd (R.HOST_HCQ_BASE_LO_ADDR h) * 64 + s.rd (R.HOST_HCQ_TAIL h) % s.hcqSize h * 16 ∧
      ws.map (·.data) = [pair32 ((if s.rd (R.HOST_HCQ_TAIL h) / s.hcqSize h % 2 = 0 then 2 ^ 31 else 0) + k * 2 ^ 28 + src) s.tick, BitVec.ofNat 64 v]) ∧
    (∃ t, exec (.hcqFill i true) s = .next t ∧ t.rd (R.HOST_HCQ_TAIL h) = s.rd (R.HOST_HCQ_TAIL h) ∧
      t.rd R.HOST_HCQ_LOST = (s.rd R.HOST_HCQ_LOST + 1) % 2 ^ 32 ∧ t.sent = s.sent)) ∧
  (∀ (s : State) (fn : Fin 256) (h : Fin 128) (v : Word), s.rd (R.HOST_HCQ_CFG_FN h) = fn → fn.val ∉ s.host.stopped →
    (v.toNat + 4294967296 - s.host.heads.get h) % 4294967296 ≤ s.hcqHeld h → ∃ t, exec (.hcqHeadWrite fn h v) s = .next t ∧
      t.host.heads.get h = v.toNat ∧ t.regs = s.regs) ∧
  (∀ (s : State) (fn : Fin 256) (h : Fin 128) (v : Word), (s.rd (R.HOST_HCQ_CFG_FN h) ≠ fn ∨
      s.hcqHeld h < (v.toNat + 4294967296 - s.host.heads.get h) % 4294967296) →
    exec (.hcqHeadWrite fn h v) s = .next (s.inc R.HOST_DB_UNBOUND)) ∧
  (∀ (s : State) (a : BitVec 38), s.dbg.jtag.busy = false → s.jtagAdmits false (a.toNat * 4) = true → ∃ t, exec (.jtagDbgRead a) s = .next t ∧
    t.dbg.jtag.busy = true ∧ t.dbg.jtag.access = some (false, a.toNat * 4, 0) ∧ t.regs = s.regs) ∧
  (∀ (s : State) (a : BitVec 38), s.dbg.jtag.busy = false → s.jtagAdmits false (a.toNat * 4) = false → ∃ t, exec (.jtagDbgRead a) s = .next t ∧
    t.dbg.jtag.busy = false ∧ t.dbg.jtag.done = true ∧ t.dbg.jtag.status = 3 ∧ t.dbg.jtag.access = s.dbg.jtag.access) ∧
  (∀ (s : State) (a : BitVec 38) (v : Word), s.dbg.jtag.busy = false → s.jtagAdmits true (a.toNat * 4) = true → ∃ t, exec (.jtagDbgWrite a v) s = .next t ∧
    t.dbg.jtag.busy = true ∧ t.dbg.jtag.access = some (true, a.toNat * 4, v.toNat) ∧ t.regs = s.regs) ∧
  (∀ (s u : State) (w : Bool) (a v : Nat) (r : Answer) (o : Outside), s.dbg.jtag.access = some (w, a, v) → s.jtagAccess w a v r o = .next u →
    ∃ t, exec (.jtagDbgAccessDone r o) s = .next t ∧ t.dbg.jtag.busy = false ∧ t.dbg.jtag.done = true ∧ t.dbg.jtag.access = none ∧
      t.dbg.jtag.status = jtagStatus u.ans.status ∧ t.regs = u.regs ∧
      t.dbg.jtag.data = (if w then 0 else (u.ans.words.headD default).data.toNat % 2 ^ 32))

/-! ## The Coppice (19) -/

namespace Sys2Proof.Claims
open Machine

/-- A load has ended with `status` and `cause`, with one load-end interrupt (R519, R531). -/
def loadEnded (t : State) (status cause : Nat) : Prop :=
  t.loadSt = 8 ∧ t.rd R.COPPICE_LOAD_STATUS_STATUS = status ∧ t.rd R.COPPICE_LOAD_STATUS_CAUSE = cause ∧ t.cop.bytes = [] ∧ 448 ∈ t.hostIrq ∧
    (t.bit R.COPPICE_CTRL_IRQ_LOAD = true → ⟨.coppiceLoad, 0⟩ ∈ t.hallIrq)

/-- Stool `k` is as it was: state, personality and configuration. -/
def sameStool (s t : State) (k : Nat) : Prop :=
  t.stoolSt k = s.stoolSt k ∧ t.rd (R.COPPICE_STOOL_PID k) = s.rd (R.COPPICE_STOOL_PID k) ∧
    ∀ i < 768, t.cop.cfg.get (k * 768 + i) = s.cop.cfg.get (k * 768 + i)

/-- The storage address lies in the block RAM of a target of the load that runs in `s`. -/
def targetRam (s : State) (a : Nat) : Prop := ∃ k ∈ s.targets, bramBase + k * bramSize ≤ a ∧ a < bramBase + (k + 1) * bramSize

/-- A load that ran in `s` has failed: past its header every target is erased and FALLOW, and no other stool is touched. -/
def loadFailed (s t : State) (status cause : Nat) : Prop :=
  loadEnded t status cause ∧
  (2 ≤ s.loadSt → ∀ k ∈ s.targets, t.stoolSt k = 0 ∧ t.rd (R.COPPICE_STOOL_PID k) = 0 ∧ (∀ i < 768, t.cop.cfg.get (k * 768 + i) = []) ∧
    ∀ a, bramBase + k * bramSize ≤ a → a < bramBase + (k + 1) * bramSize → t.ms.mem.data.get a = 0) ∧
  (∀ k < 16, (s.loadSt < 2 ∨ k ∉ s.targets) → sameStool s t k) ∧
  sameMemory s t (fun a => 2 ≤ s.loadSt ∧ targetRam s a) ∧
  t.rd R.COPPICE_LOAD_STATUS_TOUCHED = s.rd R.COPPICE_LOAD_STATUS_TOUCHED ∧ t.rd R.COPPICE_LOAD_FRAME = s.rd R.COPPICE_LOAD_FRAME

/-- `s` with `bytes` appended to the stream of its load. -/
def withBytes (s : State) (bytes : List (Nat × Bool)) : State := s.setCop (fun c => { c with bytes := c.bytes ++ bytes })

end Sys2Proof.Claims

/-- R527 to R529, R531: a load opens, takes its bytes, passes or fails its header, is ended early, and erases its targets.
The model's choices that it rests on: log entry 60. -/
def Obligations.CoppiceLoadOpensAndTakesBytes : Prop :=
  (∀ (s : State), s.loading = false → s.bit R.COPPICE_CTRL_ENABLE = true → ∃ t, exec .coppiceLoadBegin s = .next t ∧ t.loadSt = 1 ∧ t.cop.bytes = [] ∧
    (∀ f ∈ [R.COPPICE_LOAD_STATUS_STATUS, R.COPPICE_LOAD_STATUS_CAUSE, R.COPPICE_LOAD_STATUS_ABORT_LATE, R.COPPICE_LOAD_STATUS_TOUCHED,
      R.COPPICE_LOAD_STATUS_BEGIN_REFUSED, R.COPPICE_LOAD_STATUS_MASK, R.COPPICE_LOAD_BYTES, R.COPPICE_LOAD_FRAME], t.rd f = 0) ∧
    (∀ k < 16, sameStool s t k)) ∧
  (∀ (s : State), (s.loading = true ∨ s.bit R.COPPICE_CTRL_ENABLE = false) →
    exec .coppiceLoadBegin s = .next (s.wr R.COPPICE_LOAD_STATUS_BEGIN_REFUSED 1)) ∧
  (∀ (s : State) (mid : Mid) (bs : List (Nat × Bool)) (e : Bool), mid ≠ 0xC0 →
    exec (.coppiceCfgDataWrite mid bs e) s = .next { s with ans := abortedBy 7 }) ∧
  (∀ (s : State) (bs : List (Nat × Bool)) (e : Bool), s.loading = false → ∃ t, exec (.coppiceCfgDataWrite 0xC0 bs e) s = .next t ∧ t.ans = acked ∧
    t.rd R.COPPICE_IDLE_WRITES = (s.rd R.COPPICE_IDLE_WRITES + 1) % 2 ^ 32 ∧ t.cop = s.cop ∧ sameRegs s t [R.COPPICE_IDLE_WRITES]) ∧
  (∀ (s : State) (bs : List (Nat × Bool)) (e : Bool), s.loading = true → s.loadSt ≠ 7 → (bs.length % 4 ≠ 0 ∨ e = false) →
    ∃ t, exec (.coppiceCfgDataWrite 0xC0 bs e) s = .next t ∧ t.ans = acked ∧ loadFailed s t 4 8) ∧
  (∀ (s : State) (bs : List (Nat × Bool)), s.loadSt = 1 → bs.length % 4 = 0 → s.cop.bytes.length + bs.length < 64 →
    ∃ t, exec (.coppiceCfgDataWrite 0xC0 bs true) s = .next t ∧ t.ans = acked ∧ t.loadSt = 1 ∧ t.cop.bytes = s.cop.bytes ++ bs ∧
      t.rd R.COPPICE_LOAD_BYTES = (s.rd R.COPPICE_LOAD_BYTES + bs.length) % 2 ^ 32 ∧ sameRegs s t [R.COPPICE_LOAD_BYTES]) ∧
  (∀ (s : State) (bs : List (Nat × Bool)), s.loadSt = 1 → bs.length % 4 = 0 → 64 ≤ s.cop.bytes.length + bs.length →
    s.cop.bytes.length + bs.length ≤ 131072 → (withBytes s bs).headerFault = none →
    ∃ t, exec (.coppiceCfgDataWrite 0xC0 bs true) s = .next t ∧ t.ans = acked ∧ t.loadSt = 2 ∧ t.rd R.COPPICE_LOAD_STATUS_TOUCHED = 1 ∧
      t.rd R.COPPICE_LOAD_STATUS_MASK = nbits ((withBytes s bs).hdr 3) 0 16 ∧
      (∀ k ∈ (withBytes s bs).targets, t.stoolSt k = 1 ∧ t.rd (R.COPPICE_STOOL_STATUS_CLOCKS k) = nbits ((withBytes s bs).hdr 4) 8 8) ∧
      (∀ k < 16, k ∉ (withBytes s bs).targets → sameStool s t k)) ∧
  (∀ (s : State) (bs : List (Nat × Bool)) (c : Nat × Nat), s.loadSt = 1 → bs.length % 4 = 0 → 64 ≤ s.cop.bytes.length + bs.length →
    s.cop.bytes.length + bs.length ≤ 131072 → (withBytes s bs).headerFault = some c →
    ∃ t, exec (.coppiceCfgDataWrite 0xC0 bs true) s = .next t ∧ t.ans = acked ∧ loadEnded t c.1 c.2 ∧ (∀ k < 16, sameStool s t k) ∧
      t.rd R.COPPICE_LOAD_STATUS_TOUCHED = s.rd R.COPPICE_LOAD_STATUS_TOUCHED) ∧
  (∀ (s : State) (bs : List (Nat × Bool)), 2 ≤ s.loadSt → s.loadSt ≤ 6 → bs.length % 4 = 0 →
    s.cop.bytes.length + bs.length ≤ 131072 + s.consumed → (withBytes s bs).cop.bytes.length ≤ (withBytes s bs).hdrLength →
    ∃ t, exec (.coppiceCfgDataWrite 0xC0 bs true) s = .next t ∧ t.ans = acked ∧ t.cop.bytes = s.cop.bytes ++ bs ∧ t.loadSt = s.loadSt ∧
      t.rd R.COPPICE_LOAD_BYTES = (s.rd R.COPPICE_LOAD_BYTES + bs.length) % 2 ^ 32 ∧ sameRegs s t [R.COPPICE_LOAD_BYTES]) ∧
  (∀ (s : State) (bs : List (Nat × Bool)), 2 ≤ s.loadSt → s.loadSt ≤ 6 → bs.length % 4 = 0 →
    s.cop.bytes.length + bs.length ≤ 131072 + s.consumed → (withBytes s bs).hdrLength < s.cop.bytes.length + bs.length →
    ∃ t, exec (.coppiceCfgDataWrite 0xC0 bs true) s = .next t ∧ t.ans = acked ∧ t.cop.bytes = (s.cop.bytes ++ bs).take (withBytes s bs).hdrLength ∧
      t.rd R.COPPICE_EXTRA_BYTES = (s.rd R.COPPICE_EXTRA_BYTES + (s.cop.bytes.length + bs.length - (withBytes s bs).hdrLength)) % 2 ^ 32) ∧
  (∀ (s : State) (bs : List (Nat × Bool)), s.loading = true → s.loadSt ≠ 7 → s.streamWhole = false → bs.length % 4 = 0 →
    131072 + s.consumed < s.cop.bytes.length + bs.length → exec (.coppiceCfgDataWrite 0xC0 bs true) s = .next s) ∧
  (∀ (s : State), s.loading = true → s.streamWhole = false → ∃ t, exec .coppiceLoadEnd s = .next t ∧ loadFailed s t 3 0) ∧
  (∀ (s : State), s.streamWhole = true → exec .coppiceLoadEnd s = .next s) ∧
  (∀ (s : State), s.loading = true → s.loadSt ≠ 7 → ∃ t, exec .coppiceLoadAbort s = .next t ∧ loadFailed s t 4 9) ∧
  (∀ (s : State), s.loadSt = 7 → exec .coppiceLoadAbort s = .next (s.wr R.COPPICE_LOAD_STATUS_ABORT_LATE 1)) ∧
  (∀ (s : State), s.loading = true → s.streamWhole = false → 1 ≤ s.rd R.COPPICE_LOAD_TIMEOUT_MS → s.rd R.COPPICE_LOAD_TIMEOUT_MS ≤ 10000 →
    s.cop.last + s.rd R.COPPICE_LOAD_TIMEOUT_MS * 1000000 * 65536 ≤ s.stp.now → ∃ t, exec .coppiceLoadTimeout s = .next t ∧ loadFailed s t 3 0) ∧
  (∀ (s : State) (k : Fin 16), s.loadSt = 2 → k.val ∈ s.targets → s.targets.all s.drained = true → ∃ t, exec (.stoolDrainEnd k) s = .next t ∧
    (if s.stoolSt k = 3 then t.stoolSt k = 4 else t.loadSt = 3)) ∧
  (∀ (s : State), (s.loadSt = 2 ∨ s.loadSt = 3) → s.targets.all s.drained = true → ∃ t, exec .coppiceEraseEnd s = .next t ∧ t.loadSt = 4 ∧
    sameRegs s t [R.COPPICE_LOAD_STATUS_STATE] ∧
    (∀ k ∈ s.targets, (∀ i < 768, t.cop.cfg.get (k * 768 + i) = []) ∧
      ∀ a, bramBase + k * bramSize ≤ a → a < bramBase + (k + 1) * bramSize → t.ms.mem.data.get a = 0) ∧
    (∀ k < 16, k ∉ s.targets → sameStool s t k) ∧ sameMemory s t (targetRam s))

/-- R530 to R533: frames are checked and written, the trailer and the signature decide, and the release loads the targets.
The model's choices that it rests on: log entry 60. -/
def Obligations.CoppiceFramesTrailerAndRelease : Prop :=
  (∀ (s : State) (f : List (Nat × Bool)) (a : Nat), s.loadSt = 4 → f = (s.cop.bytes.drop (64 + 1032 * s.rd R.COPPICE_LOAD_FRAME)).take 1032 →
    f.length = 1032 → s.frameFault f = none → a = (le32 1 (byteVals f)).headD 0 →
    ∃ t, exec .coppiceFrameWrite s = .next t ∧ t.rd R.COPPICE_LOAD_FRAME = (s.rd R.COPPICE_LOAD_FRAME + 1) % 2 ^ 32 ∧
      t.loadSt = (if s.rd R.COPPICE_LOAD_FRAME + 1 = s.hdrFrames then 5 else 4) ∧
      sameRegs s t [R.COPPICE_LOAD_FRAME, R.COPPICE_LOAD_STATUS_STATE] ∧
      (nbits a 26 2 = 0 → t.cop.cfg.get (nbits a 28 4 * 768 + nbits a 0 11) = ((byteVals f).drop 4).take 1024 ∧ t.ms = s.ms ∧
        (∀ i, i ≠ nbits a 28 4 * 768 + nbits a 0 11 → t.cop.cfg.get i = s.cop.cfg.get i)) ∧
      (nbits a 26 2 = 1 → t.cop.cfg = s.cop.cfg ∧ sameMemory s t (fun p => bramBase + nbits a 28 4 * bramSize + nbits a 0 11 * 1024 ≤ p ∧
        p < bramBase + nbits a 28 4 * bramSize + nbits a 0 11 * 1024 + 1024) ∧
        ((∀ x ∈ f, x.1 < 256) → ∀ i < 1024,
          (t.ms.mem.data.get (bramBase + nbits a 28 4 * bramSize + nbits a 0 11 * 1024 + i)).toNat = (byteVals f).getD (4 + i) 0))) ∧
  (∀ (s : State) (f : List (Nat × Bool)) (c : Nat × Nat), s.loadSt = 4 →
    f = (s.cop.bytes.drop (64 + 1032 * s.rd R.COPPICE_LOAD_FRAME)).take 1032 → f.length = 1032 → s.frameFault f = some c →
    ∃ t, exec .coppiceFrameWrite s = .next t ∧ loadFailed s t c.1 c.2) ∧
  (∀ (s : State), s.loadSt = 5 → s.streamWhole = true →
    (le32 1 ((byteVals s.cop.bytes).drop (64 + 1032 * s.hdrFrames))).headD 0 = fcs ((byteVals s.cop.bytes).take (64 + 1032 * s.hdrFrames)) →
    ∃ t, exec .coppiceTrailerCheck s = .next t ∧ t.loadSt = (if s.hdrSigned then 6 else 7) ∧ sameRegs s t [R.COPPICE_LOAD_STATUS_STATE] ∧ t.cop = s.cop) ∧
  (∀ (s : State), s.loadSt = 5 → s.streamWhole = true →
    (le32 1 ((byteVals s.cop.bytes).drop (64 + 1032 * s.hdrFrames))).headD 0 ≠ fcs ((byteVals s.cop.bytes).take (64 + 1032 * s.hdrFrames)) →
    ∃ t, exec .coppiceTrailerCheck s = .next t ∧ loadFailed s t 4 5) ∧
  (∀ (s : State) (b pub : List Nat) (n slot : Nat), s.loadSt = 6 → b = byteVals s.cop.bytes → n = 68 + 1032 * s.hdrFrames →
    slot = (le32 1 (b.drop n)).headD 0 → pub = (b.drop (n + 4)).take 96 →
    ∃ t, exec .coppiceSignatureVerified s = .next t ∧
      (if 4 ≤ slot ∨ slot ∈ s.strong.revoked ∨ Config.sha 2 pub ≠ Config.otpKeyHash slot then loadFailed s t 4 6
       else if Config.ecdsaVerify 5 pub (Config.sha 2 (b.take (n + 100))) ((b.drop (n + 100)).take 96) = true then t.loadSt = 7
       else loadFailed s t 4 7)) ∧
  (∀ (s : State), s.loadSt = 7 → ∃ t, exec .coppiceRelease s = .next t ∧ loadEnded t 0 0 ∧
    (∀ k ∈ s.targets, t.stoolSt k = 2 ∧ t.rd (R.COPPICE_STOOL_PID k) = s.hdr 7 % 2 ^ 32 ∧ t.cop.userResets.get k = s.cop.userResets.get k + 1) ∧
    (∀ k < 16, k ∉ s.targets → sameStool s t k ∧ t.cop.userResets.get k = s.cop.userResets.get k) ∧ t.ms = s.ms ∧ t.cop.cfg = s.cop.cfg)

/-- R516 to R522, R534: commands of stools, their drains, requests, blocks and interrupts; the user clocks; readback.
The model's choices that it rests on: log entry 61. -/
def Obligations.CoppiceStoolsAndClocks : Prop :=
  (∀ (s : State) (k : Fin 16), s.loadNames k = false →
    (s.stoolSt k = 2 → ∃ t, exec (.stoolQuiesce k) s = .next t ∧ t.stoolSt k = 3 ∧ sameRegs s t [R.COPPICE_STOOL_STATUS_STATE k] ∧ t.cop = s.cop) ∧
    (s.stoolSt k = 4 → ∃ t, exec (.stoolOpen k) s = .next t ∧ t.stoolSt k = 2 ∧ sameRegs s t [R.COPPICE_STOOL_STATUS_STATE k] ∧ t.cop = s.cop) ∧
    (s.stoolSt k = 2 ∨ s.stoolSt k = 4 → ∃ t, exec (.stoolClear k) s = .next t ∧ t.stoolSt k = 5 ∧ sameRegs s t [R.COPPICE_STOOL_STATUS_STATE k] ∧
      t.cop = s.cop) ∧
    (s.stoolSt k = 2 ∨ s.stoolSt k = 4 → ∃ t, exec (.stoolUserReset k) s = .next t ∧ t.regs = s.regs ∧
      t.cop.userResets.get k = s.cop.userResets.get k + 1)) ∧
  (∀ (s : State) (k : Fin 16) (c : Instr), c ∈ [.stoolQuiesce k, .stoolOpen k, .stoolClear k, .stoolUserReset k] → s.loadNames k = true →
    ∃ t, exec c s = .next t ∧ t.rd (R.COPPICE_STOOL_STATUS_REFUSED k) = 1 ∧ t.rd (R.COPPICE_STOOL_STATUS_CAUSE k) = 1 ∧
      sameRegs s t [R.COPPICE_STOOL_STATUS_REFUSED k, R.COPPICE_STOOL_STATUS_CAUSE k] ∧ t.cop = s.cop) ∧
  (∀ (s : State) (k : Fin 16) (c : Instr), c ∈ [.stoolQuiesce k, .stoolOpen k, .stoolClear k, .stoolUserReset k] → s.loadNames k = false →
    s.stoolSt k ∉ [2, 4] → ∃ t, exec c s = .next t ∧ t.rd (R.COPPICE_STOOL_STATUS_REFUSED k) = 1 ∧ t.rd (R.COPPICE_STOOL_STATUS_CAUSE k) = 2 ∧
      sameRegs s t [R.COPPICE_STOOL_STATUS_REFUSED k, R.COPPICE_STOOL_STATUS_CAUSE k] ∧ t.cop = s.cop) ∧
  (∀ (s : State) (k : Fin 16), s.drained k = true → s.stoolSt k = 3 → ∃ t, exec (.stoolDrainEnd k) s = .next t ∧ t.stoolSt k = 4 ∧
    sameRegs s t [R.COPPICE_STOOL_STATUS_STATE k] ∧ t.cop = s.cop) ∧
  (∀ (s : State) (k : Fin 16), s.drained k = false → exec (.stoolDrainEnd k) s = .next s ∧ exec (.stoolClearEnd k) s = .next s) ∧
  (∀ (s : State) (k : Fin 16), s.drained k = true → s.stoolSt k = 5 → ∃ t, exec (.stoolClearEnd k) s = .next t ∧ t.stoolSt k = 0 ∧
    t.rd (R.COPPICE_STOOL_PID k) = 0 ∧ (∀ i < 768, t.cop.cfg.get (k.val * 768 + i) = []) ∧
    (∀ j < 16, j ≠ k.val → sameStool s t j) ∧
    sameMemory s t (fun a => bramBase + k.val * bramSize ≤ a ∧ a < bramBase + (k.val + 1) * bramSize)) ∧
  (∀ (s : State) (p : Nat) (e : Ejected), s.net.ejected.find? (fun e => e.pkt.id == p) = some e → isCoppiceNi e.pkt.dest = true →
    e.tick + 3500 * 65536 ≤ s.stp.now → stoolOf e.pkt.addr < 16 → ∃ t, exec (.stoolRequestTimeout p) s = .next t ∧
      t.rd (R.COPPICE_STOOL_TIMEOUTS (stoolOf e.pkt.addr)) = (s.rd (R.COPPICE_STOOL_TIMEOUTS (stoolOf e.pkt.addr)) + 1) % 2 ^ 32 ∧
      e ∉ t.net.ejected) ∧
  (∀ (s : State) (k : Fin 16) (store : Bool) (a n : Nat), s.stoolSt k = 2 → (∃ w < 4, s.windowPasses k store a n w = true) →
    exec (.stoolRequestCheck k store a n) s = .next s) ∧
  (∀ (s : State) (k : Fin 16) (store : Bool) (a n : Nat), s.stoolSt k = 2 → (∀ w < 4, s.windowPasses k store a n w = false) →
    ∃ t, exec (.stoolRequestCheck k store a n) s = .next t ∧ t.ans = abortedBy 7 ∧
      t.rd (R.COPPICE_STOOL_REFUSED k) = (s.rd (R.COPPICE_STOOL_REFUSED k) + 1) % 2 ^ 32 ∧ sameRegs s t [R.COPPICE_STOOL_REFUSED k] ∧ t.net = s.net) ∧
  (∀ (s : State) (k : Fin 16) (i : Nat), s.mkt.blocks.findIdx? (s.forStool k) = some i → ∃ t, exec (.stoolBlockTimeout k) s = .next t ∧
    t.mkt.blocks = s.mkt.blocks.eraseIdx i ∧ t.rd (R.COPPICE_STOOL_DROPS k) = (s.rd (R.COPPICE_STOOL_DROPS k) + 1) % 2 ^ 32) ∧
  (∀ (s : State) (k : Fin 16) (i : Nat), s.mkt.blocks.findIdx? (s.forStool k) = none → s.sv.out.findIdx? (svForStool k) = some i →
    ∃ t, exec (.stoolBlockTimeout k) s = .next t ∧ t.sv.out = s.sv.out.eraseIdx i ∧
      t.rd (R.COPPICE_STOOL_DROPS k) = (s.rd (R.COPPICE_STOOL_DROPS k) + 1) % 2 ^ 32) ∧
  (∀ (s : State) (k : Fin 16) (l : Fin 8), s.stoolSt k = 2 → ∃ t, exec (.stoolIrqEdge k l) s = .next t ∧ t.regs = s.regs ∧
    (if nbit (s.rd (R.COPPICE_STOOL_IRQ_IRQ_HOST k)) l = true then 320 + 8 * k.val + l.val ∈ t.hostIrq else ⟨.stool, 8 * k.val + l.val⟩ ∈ t.hallIrq)) ∧
  (∀ (s : State) (k : Fin 16) (l : Fin 8), s.stoolSt k ≠ 2 → exec (.stoolIrqEdge k l) s = .next s) ∧
  (∀ (s : State) (k : Fin 8) (v : Word) (f : Nat), f = min (max 10000 (bitsOf v 0 20)) 600000 →
    (f ≠ s.rd (R.COPPICE_UCLK_CFG_FREQ_KHZ k) ∨ bitsOf v 31 1 ≠ s.rd (R.COPPICE_UCLK_CFG_EN k)) →
    (∀ i < 16, s.stoolSt i = 1 ∨ s.stoolSt i = 2 → nbit (s.rd (R.COPPICE_STOOL_STATUS_CLOCKS i)) k = false) →
    ∃ t, exec (.uclkCfgWrite k v) s = .next t ∧ t.rd (R.COPPICE_UCLK_CFG_FREQ_KHZ k) = f ∧ t.rd (R.COPPICE_UCLK_CFG_EN k) = bitsOf v 31 1 ∧
      t.rd (R.COPPICE_UCLK_CFG_LOCKED k) = 0 ∧ t.ans = acked) ∧
  (∀ (s : State) (k : Fin 8) (v : Word) (i : Nat), i < 16 → (s.stoolSt i = 1 ∨ s.stoolSt i = 2) →
    nbit (s.rd (R.COPPICE_STOOL_STATUS_CLOCKS i)) k = true → bitsOf v 31 1 ≠ s.rd (R.COPPICE_UCLK_CFG_EN k) →
    ∃ t, exec (.uclkCfgWrite k v) s = .next t ∧ t.rd (R.COPPICE_UCLK_CFG_REFUSED k) = 1 ∧ sameRegs s t [R.COPPICE_UCLK_CFG_REFUSED k]) ∧
  (∀ (s : State) (k : Fin 8), s.bit (R.COPPICE_UCLK_CFG_EN k) = true → s.bit (R.COPPICE_UCLK_CFG_LOCKED k) = false →
    ∃ t, exec (.uclkLocked k) s = .next t ∧ t.rd (R.COPPICE_UCLK_CFG_LOCKED k) = 1 ∧ 76 + k.val ∉ t.stp.lost) ∧
  (∀ (s : State) (v : Word), ∃ t, exec (.coppiceReadbackSelect v) s = .next t ∧ t.rd R.COPPICE_READBACK_STOOL = bitsOf v 28 4 ∧
    t.rd R.COPPICE_READBACK_TYPE = bitsOf v 26 2 ∧ t.rd R.COPPICE_READBACK_INDEX = bitsOf v 0 11 ∧
    sameRegs s t [R.COPPICE_READBACK_STOOL, R.COPPICE_READBACK_TYPE, R.COPPICE_READBACK_INDEX])

/-! ## The Strongroom (20) -/

namespace Sys2Proof.Claims
open Machine

/-- Queue `q` of the OPERATIONAL Strongroom has reached descriptor `d` with service `op`; fetching it leaves `t`, and no check of R544 that holds for every service fails. -/
def performs (s : State) (q op : Nat) (d : StrongDesc) (t : State) : Prop :=
  s.strongDue q = true ∧ s.strongSt = 1 ∧ s.strongFetch q = (.ok d, t) ∧ d.op = op ∧ t.strongCheck d = none

/-- The descriptor's KEY names a key with one of `types` and USAGE bit `u`. -/
def names (t : State) (d : StrongDesc) (types : List Nat) (u : Nat) (k : StrongKey) : Prop :=
  ∃ i, t.keyOf d.key = some (i, k) ∧ k.type ∈ types ∧ nbit k.usage u = true

/-- The source of `d` reads as the bytes `l`, with no poison mark, and leaves `u`. -/
def sourceIs (t : State) (d : StrongDesc) (l : List (Nat × Bool)) (u : State) : Prop :=
  t.dmaRead strongMid d.src d.len = (some l, u) ∧ anyBad l = false

/-- Storing `b` at the destination of `d` leaves `w`; `ok` where every write is acknowledged. -/
def stored (u : State) (d : StrongDesc) (b : List Nat) (ok : Bool) (w : State) : Prop :=
  u.dmaWrite strongMid d.dst (clean (b.map (· % 256))) = (ok, w)

/-- OK with OUT, of an approved service. -/
def okOut (n : Nat) : StrongResult := ⟨0, true, 0, n⟩
/-- ABORTED with ERROR `e`. -/
def abortedErr (e : Nat) : StrongResult := ⟨2, false, e, 0⟩
/-- OK where the output was stored, else ERROR BUS. -/
def okStored (ok : Bool) : StrongResult := if ok then okOut 0 else abortedErr 7

/-- The new key enters free slot `i` of `u`, and its handle is OUT. -/
def keyMade (u : State) (d : StrongDesc) (q i : Nat) (bytes : List Nat) : State :=
  (u.setKey i { live := true, gen := (u.keyAt i).gen, type := nbits d.p0 16 4, usage := nbits d.p0 0 7,
                bytes := fitLen (keyLen (nbits d.p0 16 4)) bytes }).decideRes q (okOut (i + 1024 * (u.keyAt i).gen))

def digestLen (alg : Nat) : Nat := if alg = 1 then 32 else if alg = 2 then 48 else 64

end Sys2Proof.Claims

/-- R543 to R549, R555: what each service of a queue's descriptor computes, stores, enters and answers.
The model's choices that it rests on: log entries 62 and 63. -/
def Obligations.StrongServicesPerformed : Prop :=
  (∀ (s t u w : State) (ok : Bool) (q : Fin 8) (d : StrongDesc) (l : List (Nat × Bool)), performs s q 0x01 d t → 1 ≤ d.p0 → d.p0 ≤ 3 →
    d.buffers d.len (digestLen d.p0) = true → sourceIs t d l u → stored u d (fitLen (digestLen d.p0) (Config.sha d.p0 (byteVals l))) ok w →
    exec (.digest q) s = .next (w.decideRes q (okStored ok))) ∧
  (∀ (s t u w : State) (ok : Bool) (q : Fin 8) (d : StrongDesc) (k : StrongKey) (l : List (Nat × Bool)), performs s q 0x02 d t → (d.p0 = 1 ∨ d.p0 = 2) →
    names t d [3] 2 k → d.buffers d.len (digestLen d.p0) = true → sourceIs t d l u →
    stored u d (fitLen (digestLen d.p0) (Config.hmac d.p0 k.bytes (byteVals l))) ok w → exec (.hmac q) s = .next (w.decideRes q (okStored ok))) ∧
  (∀ (s t u w : State) (ok : Bool) (q : Fin 8) (d : StrongDesc) (k : StrongKey) (l : List (Nat × Bool)) (x : List Nat × List Nat), performs s q 0x03 d t →
    d.aux ≤ d.len → names t d [1, 2] 0 k → d.buffers d.len (d.len - d.aux + 16) = true → sourceIs t d l u →
    x = Config.gcmEnc k.bytes d.iv ((byteVals l).take d.aux) ((byteVals l).drop d.aux) →
    stored u d (fitLen (d.len - d.aux + 16) (fitLen (d.len - d.aux) x.1 ++ fitLen 16 x.2)) ok w → exec (.gcmEnc q) s = .next (w.decideRes q (okStored ok))) ∧
  (∀ (s t u w : State) (ok : Bool) (q : Fin 8) (d : StrongDesc) (k : StrongKey) (l : List (Nat × Bool)) (n : Nat) (p : Option (List Nat)),
    performs s q 0x04 d t → d.len = d.aux + n + 16 → names t d [1, 2] 1 k → d.buffers d.len n = true → sourceIs t d l u →
    p = Config.gcmDec k.bytes d.iv ((byteVals l).take d.aux) (((byteVals l).drop d.aux).take n) ((byteVals l).drop (d.aux + n)) →
    stored u d (match p with | some x => fitLen n x | none => List.replicate n 0) ok w →
    exec (.gcmDec q) s = .next (w.decideRes q (if p.isSome || !ok then okStored ok else abortedErr 8))) ∧
  (∀ (s t u w : State) (ok : Bool) (q : Fin 8) (d : StrongDesc) (k : StrongKey) (l : List (Nat × Bool)), performs s q 0x05 d t → (d.len = 32 ∨ d.len = 48) →
    names t d [4, 5] 2 k → d.buffers d.len (sigLen k.type) = true → sourceIs (t.draw (keyLen k.type)).2 d l u →
    stored u d (fitLen (sigLen k.type) (Config.ecdsaSign k.type k.bytes (byteVals l) (t.draw (keyLen k.type)).1)) ok w →
    exec (.ecdsaSign q) s = .next (w.decideRes q (okStored ok))) ∧
  (∀ (s t u : State) (q : Fin 8) (d : StrongDesc) (l : List (Nat × Bool)) (c n m : Nat), performs s q 0x06 d t → (m = 32 ∨ m = 48) →
    (c = 4 ∧ n = 64 ∨ c = 5 ∧ n = 96) → d.len = 2 * n + m → d.buffers d.len 0 = true → sourceIs t d l u → exec (.ecdsaVerify q) s =
      .next (u.decideRes q (okOut (if Config.ecdsaVerify c ((byteVals l).take n) (((byteVals l).drop n).take m) ((byteVals l).drop (n + m)) then 1 else 0)))) ∧
  (∀ (s t u : State) (q : Fin 8) (d : StrongDesc) (k : StrongKey) (l : List (Nat × Bool)) (i : Nat), performs s q 0x07 d t → keyTypeOk d.p0 = true →
    names t d [4, 5] 4 k → d.len = sigLen k.type → d.buffers d.len 0 = true → t.freeKey = some i → sourceIs t d l u →
    exec (.ecdh q true) s = .next (keyMade u d q i (Config.ecdh k.type k.bytes (byteVals l)))) ∧
  (∀ (s t : State) (q : Fin 8) (d : StrongDesc) (p : Bool) (i : Nat), performs s q 0x08 d t → keyTypeOk d.p0 = true → nbits d.p0 16 4 ∉ [4, 5] →
    d.buffers 0 0 = true → t.freeKey = some i → exec (.keygen q p) s =
      .next (keyMade (t.draw (keyLen (nbits d.p0 16 4))).2 d q i (t.draw (keyLen (nbits d.p0 16 4))).1)) ∧
  (∀ (s t w : State) (ok : Bool) (q : Fin 8) (d : StrongDesc) (n i : Nat), performs s q 0x08 d t → keyTypeOk d.p0 = true → nbits d.p0 16 4 = n →
    n ∈ [4, 5] → d.buffers 0 (sigLen n) = true → t.freeKey = some i →
    stored (t.draw (keyLen n)).2 d (fitLen (sigLen n) (Config.ecPublic n (t.draw (keyLen n)).1)) ok w →
    exec (.keygen q true) s = .next (if ok then keyMade w d q i (t.draw (keyLen n)).1 else w.decideRes q (abortedErr 7))) ∧
  (∀ (s t : State) (q : Fin 8) (d : StrongDesc) (n : Nat), performs s q 0x08 d t → keyTypeOk d.p0 = true → nbits d.p0 16 4 = n → n ∈ [4, 5] →
    d.buffers 0 (sigLen n) = true → t.freeKey ≠ none → ∃ v, exec (.keygen q false) s = .next v ∧ v.strongSt = 3 ∧ v.rd R.STRONG_ERR_CAUSE = 2 ∧
      v.strong.ends.get q = some (abortedErr 11) ∧ (∀ j, (v.keyAt j).live = false)) ∧
  (∀ (s t u : State) (q : Fin 8) (d : StrongDesc) (k : StrongKey) (l : List (Nat × Bool)) (i : Nat), performs s q 0x09 d t → keyTypeOk d.p0 = true →
    names t d [1, 2, 3, 4, 5, 6] 4 k → d.buffers d.len 0 = true → t.freeKey = some i → sourceIs t d l u →
    exec (.kdf q true) s = .next (keyMade u d q i (Config.kdf k.bytes (byteVals l) (keyLen (nbits d.p0 16 4))))) ∧
  (∀ (s t w : State) (ok : Bool) (q : Fin 8) (d : StrongDesc) (i : Nat) (k : StrongKey) (kek : List Nat), performs s q 0x0A d t → d.p0 < 65536 →
    t.keyOf d.p0 = some (i, k) → t.kekOf d = .ok kek → d.buffers 0 (8 + (k.bytes.length + 7) / 8 * 8) = true →
    stored t d (fitLen (8 + (k.bytes.length + 7) / 8 * 8) (Config.kwpWrap kek k.bytes)) ok w → exec (.wrap q) s = .next (w.decideRes q (okStored ok))) ∧
  (∀ (s t u : State) (q : Fin 8) (d : StrongDesc) (kek : List Nat) (l : List (Nat × Bool)) (i : Nat), performs s q 0x0B d t → keyTypeOk d.p0 = true →
    t.kekOf d = .ok kek → d.buffers d.len 0 = true → t.freeKey = some i → sourceIs t d l u → exec (.unwrap q true) s =
      .next (match Config.kwpUnwrap kek (byteVals l) with
        | none => u.decideRes q (abortedErr 8)
        | some key => if key.length = keyLen (nbits d.p0 16 4) then keyMade u d q i key else u.decideRes q (abortedErr 1))) ∧
  (∀ (s t w : State) (ok : Bool) (q : Fin 8) (d : StrongDesc), performs s q 0x0C d t → 1 ≤ d.len → d.len ≤ 65536 → d.buffers 0 d.len = true →
    stored (t.draw d.len).2 d (t.draw d.len).1 ok w → exec (.random q) s = .next (w.decideRes q (okStored ok))) ∧
  (∀ (s t : State) (q : Fin 8) (d : StrongDesc) (i : Nat) (k : StrongKey), performs s q 0x0D d t → t.keyOf d.key = some (i, k) →
    ∃ v, exec (.keyDestroy q) s = .next v ∧ v.strong.ends.get q = some (okOut 0) ∧ v.keyAt i = { gen := ((t.keyAt i).gen + 1) % 64 } ∧
      (∀ j, j ≠ i → v.keyAt j = t.keyAt j) ∧ v.mkt = t.mkt) ∧
  (∀ (s t : State) (q : Fin 8) (d : StrongDesc) (k : StrongKey) (p c a : Nat), performs s q 0x0E d t → p < 32 → c ≤ 8 → a < 4 →
    d.p0 = p * 2 ^ 24 + c * 2 ^ 16 + a → names t d [1, 2] 5 k →
    (if decide (k.type = 2) = Config.macsec256 p then
      ∃ v, exec (.macsecInstall q) s = .next v ∧ v.strong.ends.get q = some (okOut 0) ∧ (v.msec p).on = true ∧ (v.msec p).keys.get (4 * c + a) = k.bytes ∧
        (∀ j, j ≠ 4 * c + a → (v.msec p).keys.get j = (t.msec p).keys.get j) ∧ (∀ r, r ≠ p → v.msec r = t.msec r) ∧ (c = 0 → (v.msec p).an = a)
     else exec (.macsecInstall q) s = .next (t.decideRes q (abortedErr 4)))) ∧
  (∀ (s t : State) (q : Fin 8) (d : StrongDesc) (k : StrongKey) (x a : Nat), performs s q 0x0F d t → x < 4096 → a ∈ [1, 2, 3, 5, 6, 7] →
    d.p0 = a * 4096 + x → names t d [1, 6] 6 k → (a ∈ [2, 6] ∨ t.bit R.STRONG_STATUS_APPROVED_ONLY = false) →
    ∃ v, exec (.pdcpKeyLoad q) s = .next v ∧ v.strong.ends.get q = some ⟨0, decide (a ∈ [2, 6]), 0, 0⟩ ∧
      v.strong.pdcp.get x = (if a < 4 then { t.strong.pdcp.get x with cipher := some (a, k.bytes) } else { t.strong.pdcp.get x with integ := some (a, k.bytes) }) ∧
      (∀ y, y ≠ x → v.strong.pdcp.get y = t.strong.pdcp.get y)) ∧
  (∀ (s t : State) (q : Fin 8) (d : StrongDesc) (k : StrongKey) (x a : Nat), performs s q 0x0F d t → x < 4096 → a ∈ [1, 3, 5, 7] →
    d.p0 = a * 4096 + x → names t d [1, 6] 6 k → t.bit R.STRONG_STATUS_APPROVED_ONLY = true →
    exec (.pdcpKeyLoad q) s = .next (t.decideRes q (abortedErr 9))) ∧
  (∀ (s t u w : State) (ok : Bool) (q : Fin 8) (d : StrongDesc) (l : List (Nat × Bool)) (x bearer dir : Nat) (c : PdcpCtx), performs s q 0x10 d t → x < 4096 →
    bearer < 32 → dir < 2 → d.p0 = bearer * 2 ^ 20 + dir * 2 ^ 17 + x → d.aux ≤ d.len → d.buffers d.len (d.len + 4) = true → c = t.strong.pdcp.get x →
    (c.cipher = none ∨ ∃ k, c.cipher = some (2, k)) → (c.integ = none ∨ ∃ k, c.integ = some (6, k)) → sourceIs t d l u →
    stored u d ((byteVals l).take d.aux ++ c.crypt (d.param 1) bearer (decide (dir = 1))
      ((byteVals l).drop d.aux ++ c.mac (d.param 1) bearer (decide (dir = 1)) (byteVals l))) ok w →
    exec (.pdcp q) s = .next (w.decideRes q (okStored ok))) ∧
  (∀ (s t u w : State) (ok : Bool) (q : Fin 8) (d : StrongDesc) (l : List (Nat × Bool)) (x bearer dir n : Nat) (c : PdcpCtx) (y : List Nat) (good : Bool), performs s q 0x10 d t →
    x < 4096 → bearer < 32 → dir < 2 → d.p0 = bearer * 2 ^ 20 + dir * 2 ^ 17 + 2 ^ 16 + x → d.len = d.aux + n + 4 → d.buffers d.len (d.aux + n) = true →
    c = t.strong.pdcp.get x → (c.cipher = none ∨ ∃ k, c.cipher = some (2, k)) → (c.integ = none ∨ ∃ k, c.integ = some (6, k)) → sourceIs t d l u →
    y = c.crypt (d.param 1) bearer (decide (dir = 1)) ((byteVals l).drop d.aux) →
    good = decide (y.drop n = c.mac (d.param 1) bearer (decide (dir = 1)) ((byteVals l).take d.aux ++ y.take n)) →
    stored u d (if good then (byteVals l).take d.aux ++ y.take n else List.replicate (d.aux + n) 0) ok w →
    exec (.pdcp q) s = .next (w.decideRes q (if good || !ok then okStored ok else abortedErr 8))) ∧
  (∀ (s t u : State) (q : Fin 8) (d : StrongDesc) (l : List (Nat × Bool)), performs s q 0x11 d t → d.buffers d.len 0 = true → sourceIs t d l u →
    exec (.verifyImage q) s = .next (u.decideRes q (okOut (if u.imageFault (nbits d.p0 0 8) (byteVals l) = none then 1 else 0))))

/-- R538 to R544, R551 to R557: queues and their results, commands of the crypto officer, challenges, zeroization, self-tests.
The model's choices that it rests on: log entries 62 and 63. -/
def Obligations.StrongQueuesOfficerAndStates : Prop :=
  (∀ (s : State) (mid : Mid) (q : Fin 8) (v : Word), s.bit (R.STRONG_Q_CFG_BOUND q) = true → s.rd (R.STRONG_Q_CFG_MID q) = mid.toNat →
    ∃ t, exec (.strongQProdWrite mid q v) s = .next t ∧ t.ans = acked ∧ t.rd (R.STRONG_Q_PROD_PROD q) = bitsOf v 0 16 ∧
      sameRegs s t [R.STRONG_Q_PROD_PROD q]) ∧
  (∀ (s : State) (mid : Mid) (q : Fin 8) (v : Word), (s.bit (R.STRONG_Q_CFG_BOUND q) = false ∨ s.rd (R.STRONG_Q_CFG_MID q) ≠ mid.toNat) →
    exec (.strongQProdWrite mid q v) s = .next { s with ans := abortedBy 7 }) ∧
  (∀ (s w : State) (ok : Bool) (q : Fin 8) (r : StrongResult), s.strong.ends.get q = some r →
    s.dmaWrite strongMid (s.strongBase q + 60) (clean (bytesOf32 (2 ^ 31 + r.status * 2 ^ 28 + (if r.approved then 2 ^ 27 else 0) + r.error * 2 ^ 21 + r.out)))
      = (ok, w) → ∃ t, exec (.strongDescriptorEnd q) s = .next t ∧ t.strong.ends.get q = none ∧ t.ms = w.ms ∧
      t.rd (R.STRONG_Q_CONS_CONS q) = (w.rd (R.STRONG_Q_CONS_CONS q) + 1) % 2 ^ 16 ∧
      (if w.bit (R.STRONG_Q_CFG_DEST q) = true then 449 + q.val ∈ t.hostIrq else ⟨.strongroom, q.val⟩ ∈ t.hallIrq)) ∧
  (∀ (s : State) (q : Fin 8), s.strongDue q = true → (s.strongSt = 2 ∨ s.strongSt = 3) →
    exec (.strongDescriptorEnd q) s = .next ((s.strongFetch q).2.finishDesc q (abortedErr (if s.strongSt = 2 then 11 else 10)))) ∧
  (∀ (s t : State) (q : Fin 8), s.strongDue q = true → s.strongSt = 1 → s.strongFetch q = (.error 6, t) →
    exec (.strongDescriptorEnd q) s = .next (t.finishDesc q (abortedErr 6))) ∧
  (∀ (s t : State) (q : Fin 8) (d : StrongDesc), s.strongDue q = true → s.strongSt = 1 → s.strongFetch q = (.ok d, t) → d.op ∈ serviceOps →
    d.formed = true → (keyless d.op = true → d.key = 0) → roleOk d.op (s.rd (R.STRONG_Q_CFG_ROLE q)) = false →
    exec (.strongDescriptorEnd q) s = .next (t.finishDesc q (abortedErr 2))) ∧
  (∀ (s t u : State) (q : Fin 8) (d : StrongDesc) (l : List (Nat × Bool)), performs s q 0x20 d t → d.len = 196 → d.buffers d.len 0 = true → sourceIs t d l u →
    (if (le32 1 (byteVals l)).headD 0 = q.val ∧
        u.responseOk 0x434F4131 Config.otpCoHash q ((byteVals l).drop 4 |>.take 96) ((byteVals l).drop 100) = true then
      ∃ v, exec (.authCo q) s = .next v ∧ v.strong.ends.get q = some (okOut 0) ∧ v.rd (R.STRONG_Q_CFG_ROLE q) = 2 ∧ v.strong.challenge = none ∧
        v.strong.rejected = u.strong.rejected
     else ∃ v, exec (.authCo q) s = .next v ∧ v.strong.ends.get q = some (abortedErr 8) ∧ v.rd (R.STRONG_Q_CFG_ROLE q) = u.rd (R.STRONG_Q_CFG_ROLE q) ∧
        v.strong.challenge = none ∧ v.strong.rejected = u.strong.rejected + 1 ∧
        v.rd R.STRONG_DBG_STATUS_LOCKOUT = (if 3 ≤ u.strong.rejected + 1 then 1 else 0))) ∧
  (∀ (s t : State) (q : Fin 8) (d : StrongDesc) (k mid dest role size base : Nat), performs s q 0x21 d t → k < 8 → mid < 256 → dest < 2 → role < 2 →
    4 ≤ size → size ≤ 12 → d.p0 = k * 2 ^ 24 + mid * 2 ^ 16 + dest * 2 ^ 15 + role * 2 ^ 14 + size → base = d.param 2 * 2 ^ 32 + d.param 1 →
    base % 64 = 0 → base + 64 * 2 ^ size ≤ granaryEnd → k ≠ q.val → ∃ v, exec (.bindQueue q) s = .next v ∧ v.strong.ends.get q = some (okOut 0) ∧
      v.bit (R.STRONG_Q_CFG_BOUND k) = true ∧ v.rd (R.STRONG_Q_CFG_ROLE k) = 1 - role ∧ v.rd (R.STRONG_Q_CFG_DEST k) = dest ∧
      v.rd (R.STRONG_Q_CFG_MID k) = mid ∧ v.rd (R.STRONG_Q_CFG_SIZE_LOG2 k) = size ∧ v.rd (R.STRONG_Q_BASE_ADDR k) = base / 64 ∧
      v.rd (R.STRONG_Q_PROD_PROD k) = 0 ∧ v.rd (R.STRONG_Q_CONS_CONS k) = 0) ∧
  (∀ (s t : State) (q : Fin 8) (d : StrongDesc) (size base : Nat), performs s q 0x21 d t → nbits d.p0 24 3 = q.val → nbits d.p0 27 5 = 0 →
    nbits d.p0 4 10 = 0 → nbits d.p0 0 4 = size → 4 ≤ size → size ≤ 12 → base = d.param 2 * 2 ^ 32 + d.param 1 → base % 64 = 0 →
    base + 64 * 2 ^ size ≤ granaryEnd → exec (.bindQueue q) s = .next (t.decideRes q (abortedErr 13))) ∧
  (∀ (s t : State) (q : Fin 8) (d : StrongDesc), performs s q 0x22 d t → ∃ v, exec (.setMode q) s = .next v ∧ v.strong.ends.get q = some (okOut 0) ∧
    v.rd R.STRONG_STATUS_APPROVED_ONLY = 1 ∧ (t.strongSt = 1 → t.rd R.STRONG_DBG_STATUS_PERM = 0 → v.rd R.STRONG_STATUS_APPROVED = 1)) ∧
  (∀ (s t : State) (q : Fin 8) (d : StrongDesc), performs s q 0x23 d t → d.p0 ≤ 1 → ∃ v, exec (.zeroize q) s = .next v ∧
    v.strong.ends.get q = some (okOut 0) ∧ v.strongSt = 2 ∧ v.strong.zeroing = true ∧ (∀ j, (v.keyAt j).live = false) ∧
    ((∃ j, (t.keyAt j).live = true) → v.rd R.STRONG_STATUS_KEYS = 0) ∧
    v.strong.pdcp = ⟨[]⟩ ∧ v.strong.challenge = none ∧ (∀ r < 8, v.rd (R.STRONG_Q_CFG_ROLE r) = 0) ∧ (∀ p j, (v.msec p).keys.get j = []) ∧
    (d.p0 = 1 → v.strong.dukGone = true ∧ v.rd R.STRONG_OTP_STATE_DUK_DESTROYED = 1) ∧ (d.p0 = 0 → v.strong.dukGone = t.strong.dukGone)) ∧
  (∀ (s t : State) (q : Fin 8) (d : StrongDesc), performs s q 0x24 d t → d.p0 < 4 →
    (t.strong.boot.map Prod.fst = some d.p0 ∨ (∀ i < 4, i = d.p0 ∨ i ∈ t.strong.revoked)) →
    exec (.revoke q) s = .next (t.decideRes q (abortedErr 13))) ∧
  (∀ (s t : State) (q : Fin 8) (d : StrongDesc) (j : Nat), performs s q 0x24 d t → d.p0 < 4 → t.strong.boot.map Prod.fst ≠ some d.p0 →
    j < 4 → j ≠ d.p0 → j ∉ t.strong.revoked → ∃ v, exec (.revoke q) s = .next v ∧ v.strong.ends.get q = some (okOut 0) ∧
      ∀ i, (i ∈ v.strong.revoked ↔ i = d.p0 ∨ i ∈ t.strong.revoked)) ∧
  (∀ (s t : State) (q : Fin 8) (d : StrongDesc), performs s q 0x25 d t → d.p0 < 128 →
    (if 64 < d.p0 ∨ (t.strong.boot.map Prod.snd).getD 0 < d.p0 then exec (.rollback q) s = .next (t.decideRes q (abortedErr 13))
     else ∃ v, exec (.rollback q) s = .next v ∧ v.strong.ends.get q = some (okOut 0) ∧ v.strong.rollback = max d.p0 t.strong.rollback ∧
       v.rd R.STRONG_OTP_STATE_ROLLBACK = max d.p0 t.strong.rollback % 2 ^ 7)) ∧
  (∀ (s : State) (v : Word), bitOf v 1 = true → s.strongSt = 1 → ∃ t, exec (.newChallenge v) s = .next t ∧ t.ans = acked ∧
    t.strong.challenge = some ((s.draw 32).1, s.stp.now) ∧ t.strong.drbg = s.strong.drbg + 32 ∧
    (∀ i < 8, t.rd (R.STRONG_CHALLENGE i) = (le32 8 (s.draw 32).1).getD i 0)) ∧
  (∀ (s : State) (c : List Nat) (a : Nat), s.strong.challenge = some (c, a) → a + 60 * 1000000000 * 65536 ≤ s.stp.now →
    ∃ t, exec .challengeExpiry s = .next t ∧ t.strong.challenge = none ∧ ∀ i < 8, t.rd (R.STRONG_CHALLENGE i) = 0) ∧
  (∀ (s : State) (v : Word) (b : List Nat) (m : Nat), bitOf v 0 = true → s.strongSt = 1 → m = s.rd (R.STRONG_DBG_RESP 0) →
    b = (List.range 49).flatMap (fun i => bytesOf32 (s.rd (R.STRONG_DBG_RESP i))) →
    (if s.rd R.STRONG_OTP_STATE_LIFECYCLE ≠ 2 ∧ s.responseOk 0x44424731 Config.otpDebugHash m (b.drop 4 |>.take 96) (b.drop 100) = true then
      ∃ t, exec (.debugResponseSubmit v) s = .next t ∧ t.ans = acked ∧ t.strongSt = 2 ∧ t.strong.zeroing = true ∧ (∀ j, (t.keyAt j).live = false) ∧
        t.rd R.STRONG_DBG_STATUS_ACCEPTED = 1 ∧ t.rd R.STRONG_DBG_STATUS_PERM = s.rd R.STRONG_DBG_STATUS_PERM ||| m % 32
     else ∃ t, exec (.debugResponseSubmit v) s = .next t ∧ t.ans = acked ∧ t.strongSt = 1 ∧ t.strong.rejected = s.strong.rejected + 1 ∧
        t.strong.challenge = none ∧ t.rd R.STRONG_DBG_STATUS_PERM = s.rd R.STRONG_DBG_STATUS_PERM ∧ t.rd R.STRONG_DBG_STATUS_ACCEPTED = 0)) ∧
  (∀ (s : State), s.strongSt = 1 → s.strong.zeroing = false → ∃ t, exec .zeroizePin s = .next t ∧ t.strongSt = 2 ∧ t.strong.zeroing = true ∧
    t.rd R.STRONG_STATUS_ZEROIZE_PIN = 1 ∧ (∀ j, (t.keyAt j).live = false)) ∧
  (∀ (s : State), s.strong.zeroing = true → ∃ t, exec .zeroizationComplete s = .next t ∧ t.strong.zeroing = false ∧
    t.rd R.STRONG_ZEROIZE_COUNT = (s.rd R.STRONG_ZEROIZE_COUNT + 1) % 2 ^ 32 ∧
    t.strongSt = (if s.bit R.STRONG_STATUS_ZEROIZE_PIN = true then s.strongSt else 1)) ∧
  (∀ (s : State), ∃ t, exec .zeroizeNRelease s = .next t ∧ t.rd R.STRONG_STATUS_ZEROIZE_PIN = 0 ∧
    t.strongSt = (if s.strongSt = 2 ∧ s.strong.zeroing = false then 1 else s.strongSt)) ∧
  (∀ (s : State) (v : Word), bitOf v 0 = true → ∃ t, exec (.strongRestart 0xB1 v) s = .next t ∧ t.ans = acked ∧ t.strongSt = 0 ∧
    t.strong.restarted = true ∧ (∀ j, (t.keyAt j).live = false)) ∧
  (∀ (s : State) (mid : Mid) (v : Word), mid ≠ 0xB1 → exec (.strongRestart mid v) s = .next { s with ans := abortedBy 7 }) ∧
  (∀ (s : State), s.strongSt = 0 → ∃ t, exec (.strongSelftestEnd none) s = .next t ∧ t.strongSt = 1 ∧ t.rd R.STRONG_STATUS_POST_PASS = 1) ∧
  (∀ (s : State) (i : Fin 16), s.strongSt = 0 → s.strong.restarted = false → ∃ t, exec (.strongSelftestEnd (some i)) s = .next t ∧ t.strongSt = 0 ∧
    t.rd R.STRONG_STATUS_POST_PASS = 0 ∧ (s.boot.crierDue = none → t.boot.crierDue = some (8, i.val + 1))) ∧
  (∀ (s : State) (i : Fin 16), s.strongSt = 0 → s.strong.restarted = true → ∃ t, exec (.strongSelftestEnd (some i)) s = .next t ∧ t.strongSt = 3 ∧
    t.rd R.STRONG_ERR_CAUSE = 3 ∧ t.boot = s.boot) ∧
  (∀ (s : State), (s.strongSt = 1 ∨ s.strongSt = 2) → ∃ t, exec .entropyHealthFail s = .next t ∧ t.strongSt = 3 ∧ t.rd R.STRONG_ERR_CAUSE = 1 ∧
    t.rd R.STRONG_ZEROIZE_COUNT = (s.rd R.STRONG_ZEROIZE_COUNT + 1) % 2 ^ 32 ∧ (∀ j, (t.keyAt j).live = false) ∧
    t.dbg.raised = s.dbg.raised ++ [(⟨2, 1, true, 1, 0⟩, s.tick)])

/-! ## Power-up, self-test and the Crier state (21) -/

namespace Sys2Proof.Claims
open Machine

/-- A cause of the Crier state is decided in `t`: the first stands (R568). -/
def crierDecided (s t : State) (cause detail : Nat) : Prop :=
  t.boot.crierDue = (match s.boot.crierDue with | some x => some x | none => some (cause, detail))

/-- Core `k` of `t` runs from `pc`. -/
def coreStarts (t : State) (k pc : Nat) : Prop := (t.core k).run = .running ∧ (t.core k).pc = pc

/-- The ROM may verify an image in `s`: the Strongroom is OPERATIONAL and logic self-test is through or skipped. -/
def mayVerify (s : State) : Prop :=
  s.booting = true ∧ s.boot.verified = false ∧ s.strongSt = 1 ∧ (s.boot.lbist = true ∨ (s.boot.filled = true ∧ s.bit R.HEARTH_BOOT_STATUS_FAST = true))

/-- The image with header `h` runs in `t` from ENTRY, and `slot` is the boot slot. -/
def imageRuns (t : State) (h : List Nat) (slot : Nat) : Prop :=
  t.boot.verified = true ∧ t.boot.version = (le32 36 h).getD 2 0 ∧ coreStarts t 160 ((le32 36 h).getD 5 0) ∧
    t.strong.boot = some (nbits ((le32 36 h).getD 1 0) 8 2, (le32 36 h).getD 3 0) ∧ t.rd R.HEARTH_BOOT_STATUS_BOOT_SLOT = slot ∧
    t.rd R.HOST_STATUS_BOOT = 1

end Sys2Proof.Claims

/-- R560 to R566: the steps of the boot sequence, what each one decides, and the release of the cores.
The model's choices that it rests on: log entries 63 and 64. -/
def Obligations.BootSequenceAndRelease : Prop :=
  (∀ (s : State) (b p i : Fin 4) (f : Bool), s.boot.t0 = none → s.pwr.tripped = false → ∃ t, exec (.resetNRelease (b, p, i) f) s = .next t ∧
    t.boot.t0 = some s.stp.now ∧ t.rd R.HEARTH_STRAPS_BOOT = (if s.bit R.HEARTH_STRAPS_RECOVERY then 0 else b.val) ∧ t.rd R.HEARTH_STRAPS_SPI = p ∧
    t.rd R.HEARTH_STRAPS_I2C = i ∧ t.rd R.HEARTH_STRAPS_FAST = (if f then 1 else 0) ∧
    t.rd R.HEARTH_BOOT_STATUS_FAST = (if f = true ∧ Config.otpLifecycle.val = 0 then 1 else 0) ∧
    (if b.val = 3 ∧ s.bit R.HEARTH_STRAPS_RECOVERY = false then crierDecided s t 9 t.straps else t.boot.crierDue = s.boot.crierDue)) ∧
  (∀ (s : State) (k : Fin 3) (d : Nat) (l : List (Fin 16 × Fin 9)), s.booting = true → s.boot.fused = false →
    ∃ t, exec (.fuseReadEnd (some (k, d)) l) s = .next t ∧ crierDecided s t (1 + k.val) d ∧ t.boot.fused = false) ∧
  (∀ (s : State), s.booting = true → s.boot.fused = false → ∃ t, exec (.fuseReadEnd none []) s = .next t ∧ t.boot.fused = true ∧
    t.rd R.HEARTH_BOOT_STATUS_STEP = max 2 (s.rd R.HEARTH_BOOT_STATUS_STEP) ∧ t.boot.crierDue = none) ∧
  (∀ (s : State) (h : Fin 16) (p : Fin 9), s.booting = true → s.boot.fused = false → (∀ x ∈ s.boot.bad, x.1 ≠ h.val) →
    ∃ t, exec (.fuseReadEnd none [(h, p)]) s = .next t ∧ t.boot.bad = s.boot.bad ++ [(h.val, p.val)] ∧ t.boot.crierDue = none ∧
      t.rd (R.HAMLET_SPARE_STATUS_STATE h) = 2 ∧
      (p.val ≠ 8 → t.hml.coreMap.get (9 * h.val + p.val) = some 8 ∧ t.hml.coreMap.get (9 * h.val + 8) = some p.val ∧
        t.rd (R.HAMLET_SPARE_STATUS_SPARE_PHYS h) = p)) ∧
  (∀ (s : State) (h : Fin 16) (p q : Fin 9), s.booting = true → s.boot.fused = false → s.boot.bad = [(h.val, p.val)] → p ≠ q →
    ∃ t, exec (.fuseReadEnd none [(h, q)]) s = .next t ∧ t.boot.crierDue = some (7, h.val * 2 ^ 16 + (2 ^ p.val + 2 ^ q.val))) ∧
  (∀ (s : State) (m : Fin 8) (i : Fin 256), s.booting = true → s.boot.fused = true → s.boot.tested = false →
    (2 ≤ m.val ∨ 144 ≤ i.val → ∃ t, exec (.poweronHarrowEnd [(m, i)] []) s = .next t ∧ t.boot.crierDue = some (4, m.val * 2 ^ 24 + i.val * 2 ^ 16)) ∧
    (∃ t, exec (.poweronHarrowEnd [] [(m, i)]) s = .next t ∧ t.boot.crierDue = some (5, m.val * 2 ^ 24 + i.val * 2 ^ 16)) ∧
    (m.val ≤ 1 → i.val < 144 → (∀ x ∈ s.boot.bad, x.1 ≠ i.val / 9) → ∃ t, exec (.poweronHarrowEnd [(m, i)] []) s = .next t ∧
      t.boot.crierDue = none ∧ t.boot.bad = s.boot.bad ++ [(i.val / 9, i.val % 9)] ∧ t.boot.tested = true)) ∧
  (∀ (s : State), s.booting = true → s.boot.tested = true → s.boot.filled = false → ∃ t, exec .poweronFillEnd s = .next t ∧ t.boot.filled = true ∧
    t.rd R.HEARTH_BOOT_STATUS_STEP = max 6 (s.rd R.HEARTH_BOOT_STATUS_STEP) ∧ t.ms.lines = ⟨[]⟩ ∧
    (∀ a, (a < cellarBase ∨ hearthBase ≤ a ∧ a < hearthBase + 0x40000 ∨ bramBase ≤ a ∧ a < bramBase + 16 * bramSize) → t.ms.mem.data.get a = 0) ∧
    (s.bit R.HEARTH_STRAPS_RECOVERY = true → ∀ a, hearthBase + 0x40000 ≤ a → a < hearthBase + hearthSize → t.ms.mem.data.get a = s.ms.mem.data.get a)) ∧
  (∀ (s : State) (n : Fin 256), s.booting = true → s.boot.filled = true → s.boot.lbist = false →
    ∃ t, exec (.lbistEnd [n] []) s = .next t ∧ t.boot.crierDue = some (6, n.val)) ∧
  (∀ (s : State), s.booting = true → s.boot.filled = true → s.boot.lbist = false → ∃ t, exec (.lbistEnd [] []) s = .next t ∧ t.boot.lbist = true ∧
    t.boot.crierDue = none ∧ t.rd R.HEARTH_BOOT_STATUS_STEP = max 9 (s.rd R.HEARTH_BOOT_STATUS_STEP)) ∧
  (∀ (s : State) (b : List Nat), s.booting = true → s.boot.filled = true → s.boot.verified = false → s.boot.slot = none →
    s.bit R.HEARTH_STRAPS_RECOVERY = false → s.rd R.HEARTH_STRAPS_BOOT ≠ 2 → s.boot.tried.length < 2 → 144 ≤ b.length →
    (le32 36 b).getD 0 0 = 0x4D494B53 → (le32 36 b).getD 4 0 ≤ 196608 → ∃ t, exec (.flashSlotReadEnd b) s = .next t ∧
      t.boot.slot = some (b.take 144, fitLen 96 (b.drop (144 + (le32 36 b).getD 4 0))) ∧
      sameMemory s t (fun a => hearthBase ≤ a ∧ a < hearthBase + ((le32 36 b).getD 4 0 + 7) / 8 * 8)) ∧
  (∀ (s : State) (h sig : List Nat) (n : Nat), mayVerify s → s.bit R.HEARTH_STRAPS_RECOVERY = false → s.rd R.HEARTH_STRAPS_BOOT ≠ 2 →
    s.boot.slot = some (h, sig) → n = (s.boot.tried.length + s.rd R.HEARTH_STRAPS_BOOT) % 2 →
    (match s.rejects h (s.hearthRead 0 (bodyLen h)) sig with
     | none => ∃ t, exec .bootImageVerify s = .next t ∧ imageRuns t h n
     | some r => ∃ t, exec .bootImageVerify s = .next t ∧ t.boot.slot = none ∧ t.boot.verified = false ∧ t.boot.tried = s.boot.tried ++ [r] ∧
       (∀ r0, s.boot.tried = [r0] → t.boot.crierDue = some (10, if n = 1 then r0 * 256 + r else r * 256 + r0)) ∧
       (s.boot.tried = [] → t.boot.crierDue = none))) ∧
  (∀ (s : State) (h : List Nat) (body : List (Nat × Bool)) (r : Option Nat), mayVerify s → s.bit R.HEARTH_STRAPS_RECOVERY = true →
    s.recoveryImage = (h, body, r) → (match r with
      | none => ∃ t, exec .bootImageVerify s = .next t ∧ imageRuns t h 2
      | some r => ∃ t, exec .bootImageVerify s = .next t ∧ t.boot.crierDue = some (10, r * 2 ^ 16))) ∧
  (∀ (s : State), mayVerify s → s.bit R.HEARTH_STRAPS_RECOVERY = false → s.rd R.HEARTH_STRAPS_BOOT = 2 →
    ∃ t, exec .bootImageVerify s = .next t ∧ t.boot.crierDue = some (11, 0)) ∧
  (∀ (s : State) (k : Fin 2) (n : Fin 256), s.booting = true → s.boot.verified = true → ∃ t, exec (.hbmTrainingEnd k (some n)) s = .next t ∧
    t.rd (R.CELLAR_STACK_STATUS_TRAINED k) = 1 ∧ t.rd (R.CELLAR_STACK_STATUS_LANE_REPAIRS k) = n ∧ t.boot.crierDue = none) ∧
  (∀ (s : State) (k : Fin 2), s.booting = true → s.boot.verified = true → ∃ t, exec (.hbmTrainingEnd k none) s = .next t ∧
    t.boot.crierDue = some (15, k.val)) ∧
  (∀ (s : State), s.inCrier = false → s.bit (R.CELLAR_STACK_STATUS_TRAINED 0) = true → s.bit (R.CELLAR_STACK_STATUS_TRAINED 1) = true →
    ∃ t, exec .cellarFillEnd s = .next t ∧ t.rd (R.CELLAR_STACK_STATUS_FILLED 0) = 1 ∧ t.rd (R.CELLAR_STACK_STATUS_FILLED 1) = 1 ∧
      (∀ a, cellarBase ≤ a → a < cellarEnd → t.ms.mem.data.get a = 0) ∧ sameMemory s t (fun a => cellarBase ≤ a ∧ a < cellarEnd)) ∧
  (∀ (s : State) (a : Nat), s.boot.t0 = some a → s.booting = true → s.boot.verified = false → a + 880 * 65536000000 ≤ s.stp.now →
    ∃ t, exec .bootTimeout s = .next t ∧ t.boot.crierDue = some (12, s.rd R.HEARTH_BOOT_STATUS_STEP)) ∧
  (∀ (s : State) (mid : Mid) (v : Word), mid ≠ 0xB1 → exec (.hearthRelease mid v) s = .next { s with ans := abortedBy 7 }) ∧
  (∀ (s : State) (v : Word), (∀ k < 2, s.bit (R.CELLAR_STACK_STATUS_TRAINED k) = true ∧ s.bit (R.CELLAR_STACK_STATUS_FILLED k) = true) →
    (∀ b < 64, s.rd (R.GRANARY_BANK_PWR_STATE b) = 0) → (∀ h < 16, ∀ c < 8, s.physOf h c ≤ 8) →
    ∃ t, exec (.hearthRelease 0xB1 v) s = .next t ∧ t.ans = acked ∧
      (∀ h < 16, bitOf v (16 + h) = true → nbit (s.rd R.HEARTH_RELEASE_HAMLET) h = false → ∀ c < 8, coreStarts t (9 * h + s.physOf h c) 0) ∧
      (∀ k < 16, (bitOf v k = true ∧ nbit (s.rd R.HEARTH_RELEASE_HALL) k = false →
          coreStarts t (144 + k) (s.rd R.HEARTH_HALL_VECTOR_HI * 2 ^ 32 + s.rd R.HEARTH_HALL_VECTOR_LO)) ∧
        (bitOf v k = true → nbit (t.rd R.HEARTH_RELEASE_HALL) k = true) ∧
        (bitOf v (16 + k) = true → nbit (t.rd R.HEARTH_RELEASE_HAMLET) k = true)) ∧
      (v.toNat ≠ 0 → s.rd R.HEARTH_RELEASE_HALL = 0 → s.rd R.HEARTH_RELEASE_HAMLET = 0 → t.rd R.HEARTH_BOOT_STATUS_STATE = 1)) ∧
  (∀ (s : State) (v : Word), (∃ b < 64, s.rd (R.GRANARY_BANK_PWR_STATE b) ≠ 0) → ∃ t, exec (.hearthRelease 0xB1 v) s = .next t ∧ t.ans = acked ∧
    t.rd R.HEARTH_BOOT_STATUS_REFUSED = 1 ∧ sameRegs s t [R.HEARTH_BOOT_STATUS_REFUSED] ∧ t.cores = s.cores)

/-- R567 to R577: causes of the Crier state, its entry, its record, lines and I²C target, and recovery.
The model's choices that it rests on: log entry 65. -/
def Obligations.CrierStateAndRecovery : Prop :=
  (∀ (s : State), ∃ t, exec .hearthLockstepMismatch s = .next t ∧ crierDecided s t 13 0 ∧ t.regs = s.regs) ∧
  (∀ (s : State) (v : Word), ∃ t, exec (.hearthCrierEnter 0xB1 v) s = .next t ∧ crierDecided s t 16 v.toNat ∧ t.ans = acked) ∧
  (∀ (s : State) (mid : Mid) (v : Word), mid ≠ 0xB1 → exec (.hearthCrierEnter mid v) s = .next { s with ans := abortedBy 7 }) ∧
  (∀ (s : State) (c d : Nat), s.boot.crierDue = some (c, d) → s.inCrier = false → ∃ t, exec .crierEntry s = .next t ∧
    t.boot.crierAt = some s.stp.now ∧ t.boot.crierDue = some (c, d) ∧ t.rd R.HEARTH_BOOT_STATUS_STATE = 2 ∧ t.rd R.HEARTH_BOOT_STATUS_CAUSE = c % 2 ^ 8 ∧
    t.rd (R.CRIER_RECORD 0) = (0xC7 * 2 ^ 24 + c % 2 ^ 8 * 2 ^ 16 + s.rd R.HEARTH_BOOT_STATUS_STEP * 256 + 2) ∧ t.rd (R.CRIER_RECORD 1) = d % 2 ^ 32 ∧
    t.rd (R.CRIER_RECORD 2) = s.straps ∧ t.rd R.HOST_STATUS_BOOT = 2 ∧ t.pins.crierLow = true ∧ t.pins.quiet = true ∧ (t.core 160).run ≠ .running ∧
    (∀ p < 32, t.rd (R.MARKET_PORT_STATUS_STATE p) = 0) ∧ (∀ k < 16, t.stoolSt k = 0) ∧
    (∀ n < 256, niPresent n = true → n ∉ [5, 9, 13] → t.portSt (n / 4) (4 + n % 4) = 4) ∧
    (∀ b < 64, t.rd (R.GRANARY_BANK_PWR_STATE b) = 2) ∧ (∀ a < 64 * 0x100000, t.ms.mem.data.get a = 0)) ∧
  (∀ (s : State), (s.boot.crierDue = none ∨ s.inCrier = true) → exec .crierEntry s = .next s) ∧
  (∀ (s : State), s.inCrier = true → s.boot.line = none → ∃ t, exec .crierUartLine s = .next t ∧ t.sent = s.sent ++ [.uart s.crierLine] ∧
    t.boot.line = some s.stp.now ∧ t.boot.lines = s.boot.lines + 1 ∧ t.regs = s.regs) ∧
  (∀ (s : State) (a : Nat), s.inCrier = true → s.boot.line = some a → a + 990 * 65536000000 ≤ s.stp.now →
    ∃ t, exec .crierUartLine s = .next t ∧ t.sent = s.sent ++ [.uart s.crierLine] ∧ t.boot.lines = s.boot.lines + 1) ∧
  (∀ (s : State), s.inCrier = false → exec .crierUartLine s = .next s) ∧
  (∀ (s : State) (b : Nat) (l : List Nat), 2 ≤ s.rd R.HEARTH_BOOT_STATUS_STEP → b < 64 → ∃ t, exec (.i2cWrite (b :: l)) s = .next t ∧
    t.boot.ptr = b ∧ t.regs = s.regs ∧ t.sent = s.sent) ∧
  (∀ (s : State) (n : Nat) (cut : Bool), 2 ≤ s.rd R.HEARTH_BOOT_STATUS_STEP → ∃ t, exec (.i2cRead n cut) s = .next t ∧
    t.sent = s.sent ++ [.i2c ((List.range n).map (fun i => if (s.boot.ptr + i) % 64 < 48 then
      s.crierWord ((s.boot.ptr + i) % 64 / 4) / 256 ^ ((s.boot.ptr + i) % 64 % 4) % 256 else 0))] ∧
    t.boot.ptr = (s.boot.ptr + n) % 64 ∧ t.boot.sda = cut ∧ t.regs = s.regs) ∧
  (∀ (s : State), ∃ t, exec .i2cSclTimeout s = .next t ∧ t.boot.sda = false ∧ t.regs = s.regs) ∧
  (∀ (s : State) (off : Fin 262144) (b : List Nat), s.inCrier = true → s.rd R.HEARTH_BOOT_STATUS_CAUSE ≠ 13 → b.length % 4 = 0 → off.val % 4 = 0 →
    off.val + b.length ≤ 0x40000 → ∃ t, exec (.hearthRcvDataWrite off b true) s = .next t ∧ t.ans = acked ∧
      sameMemory s t (fun a => hearthBase + 0x40000 + off.val / 8 * 8 ≤ a ∧ a < hearthBase + 0x40000 + (off.val + b.length + 7) / 8 * 8)) ∧
  (∀ (s : State) (off : Fin 262144) (b : List Nat) (w : Bool), (s.inCrier = false ∨ s.rd R.HEARTH_BOOT_STATUS_CAUSE = 13 ∨ b.length % 4 ≠ 0 ∨ w = false) →
    exec (.hearthRcvDataWrite off b w) s = .next { s with ans := abortedBy 7 }) ∧
  (∀ (s : State) (v : Word), s.inCrier = true → s.rd R.HEARTH_BOOT_STATUS_CAUSE ≠ 13 → bitsOf v 16 16 = 0x5243 → bitOf v 0 = true →
    ∃ t, exec (.recoveryReboot v) s = .next t ∧ t.ans = acked ∧ t.boot = {} ∧ t.rd R.HEARTH_STRAPS_RECOVERY = 1 ∧
      t.rd R.HEARTH_RESET_STATUS_LAST_CAUSE = 4 ∧ t.strong.revoked = s.strong.revoked ∧ t.strong.rollback = s.strong.rollback ∧
      t.strong.dukGone = s.strong.dukGone ∧
      (∀ a, hearthBase + 0x40000 ≤ a → a < hearthBase + hearthSize → t.ms.mem.data.get a = s.ms.mem.data.get a) ∧
      (∀ a, (a < hearthBase + 0x40000 ∨ hearthBase + hearthSize ≤ a) → t.ms.mem.data.get a = 0)) ∧
  (∀ (s : State) (v : Word), s.inCrier = true → s.rd R.HEARTH_BOOT_STATUS_CAUSE ≠ 13 → (bitsOf v 16 16 ≠ 0x5243 ∨ bitOf v 0 = false) →
    exec (.recoveryReboot v) s = .next { s with ans := acked }) ∧
  (∀ (s : State) (v : Word), (s.inCrier = false ∨ s.rd R.HEARTH_BOOT_STATUS_CAUSE = 13) → exec (.recoveryReboot v) s = .next { s with ans := abortedBy 7 })

/-! ## Replacing parts in service (22) -/

/-- R581 to R597: a spare takes a core's identity, a hamlet is readmitted, microcode is loaded, Hearth firmware hands over.
The model's choices that it rests on: log entries 66 and 75. -/
def Obligations.ServiceReplacement : Prop :=
  (∀ (s : State) (h : Fin 16) (v : Word) (l : Nat), bitOf v 31 = true → l = bitsOf v 0 4 → l ≤ 7 → bitsOf v 4 26 = 0 → s.coreEn h l = false →
    (s.rcore h l).st ∈ [.offline, .idle, .lapseOverrun, .halted] → s.rd (R.HAMLET_SPARE_STATUS_STATE h) = 0 →
    s.bit (R.HAMLET_SPARE_STATUS_BUSY h) = false → ∃ t, exec (.spareTake h v) s = .next t ∧ t.ans = acked ∧
      t.rd (R.HAMLET_SPARE_STATUS_BUSY h) = 1 ∧ t.hml.takeover.get h = some (l, bitOf v 30) ∧ t.core (9 * h.val + s.physOf h l) = {} ∧
      sameRegs s t [R.HAMLET_SPARE_STATUS_BUSY h]) ∧
  (∀ (s : State) (h : Fin 16) (v : Word), bitOf v 31 = true → s.takeCause h v ≠ 0 → ∃ t, exec (.spareTake h v) s = .next t ∧ t.ans = acked ∧
    t.rd (R.HAMLET_SPARE_STATUS_REFUSED h) = 1 ∧ t.rd (R.HAMLET_SPARE_STATUS_CAUSE h) = s.takeCause h v ∧ t.cores = s.cores ∧ t.hml = s.hml ∧
    sameRegs s t [R.HAMLET_SPARE_STATUS_REFUSED h, R.HAMLET_SPARE_STATUS_CAUSE h]) ∧
  (∀ (s : State) (h : Fin 16) (v : Word), (s.takeCause h v = 1 ↔ (7 < bitsOf v 0 4 ∨ bitsOf v 4 26 ≠ 0)) ∧
    (s.takeCause h v = 2 ↔ (bitsOf v 0 4 ≤ 7 ∧ bitsOf v 4 26 = 0 ∧ s.coreEn h (bitsOf v 0 4) = true)) ∧ s.takeCause h v ≤ 4) ∧
  (∀ (s : State) (h : Fin 16) (l p q : Nat) (copy : Bool), s.hml.takeover.get h = some (l, copy) → l < 8 → s.physOf h l = p → s.physOf h 8 = q → p ≤ 8 →
    q ≤ 8 → p ≠ q → ∃ t, exec (.spareTakeoverDone h) s = .next t ∧ t.physOf h l = q ∧ t.physOf h 8 = p ∧ t.hml.takeover.get h = none ∧
      t.rd (R.HAMLET_SPARE_STATUS_STATE h) = 1 ∧ t.rd (R.HAMLET_SPARE_STATUS_LOGICAL h) = l ∧ t.rd (R.HAMLET_SPARE_STATUS_VICTIM_PHYS h) = p ∧
      t.rd (R.HAMLET_SPARE_STATUS_BUSY h) = 0 ∧ (t.core (9 * h.val + q)).run = .running ∧ (t.core (9 * h.val + q)).pc = 0 ∧
      (t.rcore h l).st = .offline ∧ (copy = false → t.ms = s.ms)) ∧
  (∀ (s : State) (mid : Mid) (v : Word) (h : Nat), (mid = 0xB1 ∨ 0xA0 ≤ mid.toNat ∧ mid.toNat ≤ 0xAF) → h < 16 → v.toNat = 2 ^ h →
    s.readmitCause h = 0 → (∀ c < 9, s.physOf h c ≤ 8) → ∃ t, exec (.hearthReadmit mid v) s = .next t ∧ t.ans = acked ∧
      t.rd R.HEARTH_READMIT_STATUS_HAMLET = h ∧ h ∈ t.hml.released ∧
      (s.ms.failCores.get h = 0 → t.rd R.HEARTH_READMIT_STATUS_LOST = 0 ∧ ∀ c < 8, (t.core (9 * h + s.physOf h c)).run = .running ∧
        (t.core (9 * h + s.physOf h c)).pc = 0 ∧ (t.rcore h c).st = .offline)) ∧
  (∀ (s : State) (mid : Mid) (v : Word) (h : Nat), (mid = 0xB1 ∨ 0xA0 ≤ mid.toNat ∧ mid.toNat ≤ 0xAF) → h < 16 → v.toNat = 2 ^ h →
    s.readmitCause h ≠ 0 → ∃ t, exec (.hearthReadmit mid v) s = .next t ∧ t.ans = acked ∧ t.rd R.HEARTH_READMIT_STATUS_HAMLET = h ∧
      t.rd R.HEARTH_READMIT_STATUS_REFUSED = 1 ∧ t.rd R.HEARTH_READMIT_STATUS_CAUSE = s.readmitCause h ∧ t.cores = s.cores ∧ t.hml = s.hml) ∧
  (∀ (s : State) (mid : Mid) (v : Word), mid ≠ 0xB1 → (mid.toNat < 0xA0 ∨ 0xAF < mid.toNat) →
    exec (.hearthReadmit mid v) s = .next { s with ans := abortedBy 7 }) ∧
  (∀ (s : State) (w : Fin 3) (e : Fin 16) (v : Word), bitOf v 31 = true → e.val < engCount w → nbit (s.rd (engEn w)) e = false → s.jobs w e = [] →
    s.rd (ucodeState w e) ≠ 1 → ∃ t, exec (.ucodeLoad w e v) s = .next t ∧ t.ans = acked ∧ t.rd (ucodeState w e) = 1 ∧ t.rd (ucodeResult w e) = 0 ∧
      t.rd (ucodeCause w e) = 0 ∧ sameRegs s t [ucodeState w e, ucodeResult w e, ucodeCause w e]) ∧
  (∀ (s : State) (w : Fin 3) (e : Fin 16) (v : Word), bitOf v 31 = true → e.val < engCount w → (nbit (s.rd (engEn w)) e = true ∨ s.jobs w e ≠ []) →
    ∃ t, exec (.ucodeLoad w e v) s = .next t ∧ t.ans = acked ∧ t.rd (ucodeResult w e) = 2 ∧ t.rd (ucodeCause w e) = 1 ∧
      sameRegs s t [ucodeResult w e, ucodeCause w e]) ∧
  (∀ (s u : State) (w : Fin 3) (e : Fin 16) (x : Except Nat (Nat × Nat)), e.val < engCount w → s.rd (ucodeState w e) = 1 →
    s.ucodeImage w e (s.rd (ucodeAddr w e) * 256) = (x, u) → ∃ t, exec (.ucodeLoadEnd w e) s = .next t ∧ t.rd (ucodeState w e) = 2 ∧
      (match x with
       | .ok (version, sec) => t.rd (ucodeVersion w e) = version % 2 ^ 32 ∧ t.rd (ucodeSec w e) = sec % 2 ^ 7 ∧
           sameRegs u t [ucodeState w e, ucodeVersion w e, ucodeSec w e]
       | .error c => t.rd (ucodeResult w e) = 1 ∧ t.rd (ucodeCause w e) = c % 2 ^ 4 ∧
           sameRegs u t [ucodeState w e, ucodeResult w e, ucodeCause w e])) ∧
  (∀ (s : State) (v : Word), bitsOf v 16 16 = 0x4857 → bitOf v 15 = true → s.inCrier = false → s.rd R.HEARTH_HANDOVER_RESULT ≠ 1 →
    ∃ t, exec (.hearthHandover 0xB1 v) s = .next t ∧ t.ans = acked ∧ t.rd R.HEARTH_HANDOVER_RESULT = 1 ∧ t.rd R.HEARTH_HANDOVER_REASON = 0 ∧
      t.core 160 = {} ∧ (∀ k, k ≠ 160 → t.core k = s.core k) ∧ t.ms = s.ms) ∧
  (∀ (s : State) (mid : Mid) (v : Word), (mid ≠ 0xB1 ∨ bitsOf v 16 16 ≠ 0x4857 ∨ bitOf v 15 = false) →
    exec (.hearthHandover mid v) s = .next { s with ans := acked }) ∧
  (∀ (s : State) (h : List Nat) (body : List (Nat × Bool)) (r : Option Nat), s.rd R.HEARTH_HANDOVER_RESULT = 1 → s.inCrier = false →
    s.recoveryImage = (h, body, r) → ∃ t, exec .handoverEnd s = .next t ∧ (t.core 160).run = .running ∧
      (match r with
       | none => t.rd R.HEARTH_HANDOVER_RESULT = 2 ∧ (t.core 160).pc = (le32 36 h).getD 5 0 ∧ t.boot.version = (le32 36 h).getD 2 0
       | some r => t.rd R.HEARTH_HANDOVER_RESULT = 3 ∧ t.rd R.HEARTH_HANDOVER_REASON = r % 2 ^ R.HEARTH_HANDOVER_REASON.w ∧
           (t.core 160).pc = s.boot.entry ∧ t.ms = s.ms))

/-! ## Power domains, resets, throttling (23) -/

namespace Sys2Proof.Claims
open Machine

/-- PWR_DOM of domain `d` shows a refusal with `cause`; nothing else of the registers is changed but the Tally's view of the gate. -/
def domRefused (s t : State) (d cause : Nat) : Prop :=
  t.rd (R.PWR_DOM_REFUSED d) = 1 ∧ t.rd (R.PWR_DOM_CAUSE d) = cause ∧ t.domSt d = s.domSt d

/-- A request to power domain `d`: REQ_VALID with REQ `r`. -/
def asks (v : Word) (r : Nat) : Prop := bitOf v 2 = true ∧ bitsOf v 0 2 = r

/-- The device has been reset: `cause` is LAST_CAUSE, memory holds nothing listed, the OTP is kept. -/
def deviceIsReset (s t : State) (cause : Nat) : Prop :=
  t.rd R.HEARTH_RESET_STATUS_LAST_CAUSE = cause ∧ (∀ a, t.ms.mem.data.get a = 0) ∧ t.boot = {} ∧ t.reeve = State.reset.reeve ∧ t.net = State.reset.net ∧
    t.tally = State.reset.tally ∧ t.cores = State.reset.cores ∧ t.hml = State.reset.hml ∧ t.strong.keys = State.reset.strong.keys ∧
    t.strong.revoked = s.strong.revoked ∧ t.strong.rollback = s.strong.rollback ∧ t.strong.dukGone = s.strong.dukGone ∧ t.pending = s.pending

/-- A unit reset of `v` may start in `s`, for KIND `k`. -/
def unitFree (s : State) (v : Word) (k : Nat) : Prop := bitsOf v 29 3 = k ∧ s.rd R.HEARTH_UNIT_RESET_STATE ≠ 1

/-- `cause` refuses the unit reset. -/
def unitRefused (t : State) (cause : Nat) : Prop := t.rd R.HEARTH_UNIT_RESET_REFUSED = 1 ∧ t.rd R.HEARTH_UNIT_RESET_CAUSE = cause ∧ t.ans = acked

end Sys2Proof.Claims

/-- R603 to R607: requests to power domains, their power-down and their power-up.
The model's choices that it rests on: log entry 67. -/
def Obligations.PowerDomains : Prop :=
  (∀ (s : State) (mid : Mid) (d : Fin 48) (v : Word), asks v 1 → (s.domSt d = 1 ∨ s.domSt d = 4) → ∃ t, exec (.pwrDomOff mid d v) s = .next t ∧
    t.ans = acked ∧ t.domSt d = s.domSt d ∧ sameRegs s t [R.PWR_DOM_REFUSED d]) ∧
  (∀ (s : State) (mid : Mid) (d : Fin 48) (v : Word), asks v 1 → (s.domSt d = 2 ∨ s.domSt d = 3) → ∃ t, exec (.pwrDomOff mid d v) s = .next t ∧
    t.ans = acked ∧ domRefused s t d 3) ∧
  (∀ (s : State) (mid : Mid) (v : Word), asks v 1 → s.domSt 47 = 0 → ∃ t, exec (.pwrDomOff mid 47 v) s = .next t ∧ t.ans = acked ∧ domRefused s t 47 5) ∧
  (∀ (s : State) (mid : Mid) (d : Fin 48) (v : Word), asks v 1 → s.domSt d = 0 → selfDomain mid d = true → ∃ t, exec (.pwrDomOff mid d v) s = .next t ∧
    t.ans = acked ∧ domRefused s t d 6) ∧
  (∀ (s : State) (mid : Mid) (d : Fin 48) (v : Word), asks v 1 → s.domSt d = 0 → d.val ≠ 47 → selfDomain mid d = false → s.mayPowerOff d = false →
    ∃ t, exec (.pwrDomOff mid d v) s = .next t ∧ t.ans = acked ∧ domRefused s t d 4) ∧
  (∀ (s : State) (mid : Mid) (d : Fin 48) (v : Word), asks v 1 → s.domSt d = 0 → d.val ≠ 47 → selfDomain mid d = false → s.mayPowerOff d = true →
    s.heldPlan d = true → ∃ t, exec (.pwrDomOff mid d v) s = .next t ∧ t.ans = acked ∧ t.domSt d = 4 ∧ t.pwr.holder.get d = mid.toNat) ∧
  (∀ (s : State) (mid : Mid) (d : Fin 48) (v : Word), asks v 1 → s.domSt d = 0 → d.val ≠ 47 → selfDomain mid d = false → s.mayPowerOff d = true →
    s.heldPlan d = false → ∃ t, exec (.pwrDomOff mid d v) s = .next t ∧ t.ans = acked ∧
      (if s.gateCause d false = 0 then t.domSt d = 2 else domRefused s t d (s.gateCause d false % 2 ^ 3))) ∧
  (∀ (s : State) (mid : Mid) (d : Fin 48) (v : Word), asks v 0 → s.domSt d = 0 → ∃ t, exec (.pwrDomOn mid d v) s = .next t ∧ t.ans = acked ∧
    t.domSt d = 0 ∧ sameRegs s t [R.PWR_DOM_REFUSED d]) ∧
  (∀ (s : State) (mid : Mid) (d : Fin 48) (v : Word), asks v 0 → s.domSt d = 4 → ∃ t, exec (.pwrDomOn mid d v) s = .next t ∧ t.ans = acked ∧ t.domSt d = 0) ∧
  (∀ (s : State) (mid : Mid) (d : Fin 48) (v : Word), asks v 0 → (s.domSt d = 2 ∨ s.domSt d = 3) → ∃ t, exec (.pwrDomOn mid d v) s = .next t ∧
    t.ans = acked ∧ domRefused s t d 3) ∧
  (∀ (s : State) (mid : Mid) (d : Fin 48) (v : Word), asks v 0 → s.domSt d = 1 → s.mayPowerOn d = true → ∃ t, exec (.pwrDomOn mid d v) s = .next t ∧
    t.ans = acked ∧ t.domSt d = 3) ∧
  (∀ (s : State) (mid : Mid) (d : Fin 48) (v : Word), asks v 0 → s.domSt d = 1 → s.mayPowerOn d = false → selfDomain mid d = false →
    ∃ t, exec (.pwrDomOn mid d v) s = .next t ∧ t.ans = acked ∧ domRefused s t d 4) ∧
  (∀ (s : State) (d : Fin 48), s.domSt d = 4 → s.heldPlan d = true → exec (.pwrHoldRedecide d) s = .next s) ∧
  (∀ (s : State) (d : Fin 48), s.domSt d = 4 → s.heldPlan d = false → d.val ≠ 47 → selfDomain (BitVec.ofNat 8 (s.pwr.holder.get d)) d = false →
    (s.domTo d 0).mayPowerOff d = true → (s.domTo d 0).gateCause d false = 0 → ∃ t, exec (.pwrHoldRedecide d) s = .next t ∧ t.domSt d = 2) ∧
  (∀ (s : State) (d : Fin 48), s.domSt d = 2 → ∃ t, exec (.powerDown d) s = .next t ∧ t.domSt d = 1 ∧ (∀ c ∈ domainClocks d, c ∉ t.stp.lost) ∧
    (d.val < 16 → (∀ a, barnBase d ≤ a → a < barnBase d + 0x01000000 → t.ms.mem.data.get a = 0) ∧ (∀ k < 9, (t.core (9 * d.val + k)).run = .held) ∧
      t.ms.hamletClosed.get d = true ∧ d.val ∉ t.hml.released ∧ t.hml.coreMap = s.hml.coreMap) ∧
    (d.val = 45 ∨ d.val = 46 → t.ms.mem = s.ms.mem)) ∧
  (∀ (s : State) (d : Fin 48), s.domSt d ≠ 2 → exec (.powerDown d) s = .next s) ∧
  (∀ (s : State) (d : Fin 48), s.domSt d = 3 → ∃ t, exec (.powerUpComplete d true) s = .next t ∧ t.domSt d = 0 ∧
    (∀ n ∈ domainNis d, t.portSt (n / 4) (4 + n % 4) = 4) ∧ (d.val < 16 → t.ms.hamletClosed.get d = false)) ∧
  (∀ (s : State) (d : Fin 48), s.domSt d = 3 → d.val < 16 → ∃ t, exec (.powerUpComplete d false) s = .next t ∧ t.domSt d = 0 ∧
    t.ms.hamletClosed.get d = s.ms.hamletClosed.get d ∧ (∀ n ∈ domainNis d, t.portSt (n / 4) (4 + n % 4) = 4))

/-- R608 to R615: device resets at once, at a tick and of a parish, unit resets, temperature and the throttle level.
The model's choices that it rests on: log entry 67. -/
def Obligations.ResetsAndThrottling : Prop :=
  (∀ (s : State) (mid : Mid) (v : Word), resetMid mid = true → bitsOf v 16 16 = 0x5253 → bitOf v 15 = true → bitOf v 14 = false → bitOf v 13 = false →
    ∃ t, exec (.hearthDevreset mid v) s = .next t ∧ t.ans = acked ∧ deviceIsReset s t 2) ∧
  (∀ (s : State) (mid : Mid) (v : Word), resetMid mid = false → exec (.hearthDevreset mid v) s = .next { s with ans := abortedBy 7 }) ∧
  (∀ (s : State) (mid : Mid) (v : Word), resetMid mid = true → (bitsOf v 16 16 ≠ 0x5253 ∨ bitOf v 15 = false) →
    exec (.hearthDevreset mid v) s = .next { s with ans := acked }) ∧
  (∀ (s : State) (mid : Mid) (v : Word) (lead : Nat), resetMid mid = true → bitsOf v 16 16 = 0x5253 → bitOf v 15 = true → bitOf v 14 = true →
    (bitOf v 13 = true → s.bit R.EWL_PARISH_IN_PARISH = true ∧ s.rd R.EWL_PARISH_MEMBER = 0) → lead = leadTicks s.tick (s.rd R.HEARTH_RESET_TICK) →
    (if lead < 2500 ∨ 2147483648 ≤ lead then ∃ t, exec (.hearthDevreset mid v) s = .next t ∧ t.ans = acked ∧
        t.rd R.HEARTH_RESET_STATUS_REFUSED = 1 ∧ t.rd R.HEARTH_RESET_STATUS_CAUSE = 1
     else if maxLead < lead then ∃ t, exec (.hearthDevreset mid v) s = .next t ∧ t.ans = acked ∧
        t.rd R.HEARTH_RESET_STATUS_REFUSED = 1 ∧ t.rd R.HEARTH_RESET_STATUS_CAUSE = 2
     else ∃ t, exec (.hearthDevreset mid v) s = .next t ∧ t.ans = acked ∧ t.rd R.HEARTH_RESET_STATUS_ARMED = 1 ∧ t.pwr.parish = bitOf v 13 ∧
        sameRegs s t [R.HEARTH_RESET_STATUS_ARMED] ∧ (bitOf v 13 = true → t.sent = s.sent ++ [.resetCall (s.rd R.HEARTH_RESET_TICK)]))) ∧
  (∀ (s : State) (mid : Mid) (v : Word), resetMid mid = true → bitsOf v 16 16 = 0x5253 → bitOf v 15 = true → bitOf v 13 = true →
    (bitOf v 14 = false ∨ s.bit R.EWL_PARISH_IN_PARISH = false ∨ s.rd R.EWL_PARISH_MEMBER ≠ 0) → ∃ t, exec (.hearthDevreset mid v) s = .next t ∧
      t.ans = acked ∧ t.rd R.HEARTH_RESET_STATUS_REFUSED = 1 ∧ t.rd R.HEARTH_RESET_STATUS_CAUSE = 3) ∧
  (∀ (s : State) (l : List (Fin 8)), s.bit R.HEARTH_RESET_STATUS_ARMED = true → passed s.tick (s.rd R.HEARTH_RESET_TICK) = true → s.pwr.parish = false →
    ∃ t, exec (.timedResetInstant l) s = .next t ∧ deviceIsReset s t 2) ∧
  (∀ (s : State) (l : List (Fin 8)), s.bit R.HEARTH_RESET_STATUS_ARMED = true → passed s.tick (s.rd R.HEARTH_RESET_TICK) = true → s.pwr.parish = true →
    ∃ t, exec (.timedResetInstant l) s = .next t ∧ deviceIsReset s t 3 ∧ ∀ m < 8, (nbit (t.rd R.HEARTH_RESET_STATUS_MISSED) m = true ↔
      m ≠ s.rd R.EWL_PARISH_MEMBER ∧ s.ewlRoute m ≠ none ∧ ∀ x ∈ l, x.val ≠ m)) ∧
  (∀ (s : State) (v : Word) (h p c : Nat), unitFree s v 1 → h = bitsOf v 16 8 → p = bitsOf v 8 8 → bitsOf v 0 8 = 0 → h < 16 → p < 9 → c = s.logicalOf h p → c < 8 →
    s.coreEn h c = false → s.hamletOpen h = true → h ∈ s.hml.released → ∃ t, exec (.unitResetHamletCore v) s = .next t ∧ t.ans = acked ∧
      t.rd R.HEARTH_UNIT_RESET_STATE = 1 ∧ t.rd R.HEARTH_UNIT_RESET_KIND = 1 ∧ t.core (9 * h + p) = {} ∧ (t.rcore h c).cur = none) ∧
  (∀ (s : State) (v : Word), unitFree s v 1 → (16 ≤ bitsOf v 16 8 ∨ 9 ≤ bitsOf v 8 8 ∨ bitsOf v 0 8 ≠ 0) →
    ∃ t, exec (.unitResetHamletCore v) s = .next t ∧ unitRefused t 3 ∧ t.cores = s.cores) ∧
  (∀ (s : State) (v : Word), bitsOf v 29 3 = 1 → s.rd R.HEARTH_UNIT_RESET_STATE = 1 → ∃ t, exec (.unitResetHamletCore v) s = .next t ∧
    unitRefused t 2 ∧ t.cores = s.cores) ∧
  (∀ (s : State) (mid : Mid) (v : Word) (k : Nat), unitFree s v 2 → k = bitsOf v 8 8 → k < 16 → bitsOf v 0 8 = 0 → mid.toNat ≠ 0xA0 + k →
    ∃ t, exec (.unitResetHallCore mid v) s = .next t ∧ t.ans = acked ∧ t.rd R.HEARTH_UNIT_RESET_STATE = 1 ∧ t.rd R.HEARTH_UNIT_RESET_KIND = 2 ∧
      t.core (144 + k) = {}) ∧
  (∀ (s : State) (v : Word) (k : Fin 16), unitFree s v 2 → k.val = bitsOf v 8 8 → bitsOf v 0 8 = 0 →
    ∃ t, exec (.unitResetHallCore (BitVec.ofNat 8 (0xA0 + k.val)) v) s = .next t ∧ unitRefused t 1 ∧ t.cores = s.cores) ∧
  (∀ (s : State) (v : Word) (a b : Nat), unitFree s v 3 → a = bitsOf v 16 8 → b = bitsOf v 8 8 → a < 2 → b < 32 → bitsOf v 0 8 = 0 → s.domSt (45 + a) = 0 →
    ∃ t, exec (.unitResetCellar v) s = .next t ∧ t.ans = acked ∧ t.rd R.HEARTH_UNIT_RESET_STATE = 1 ∧ t.rd R.HEARTH_UNIT_RESET_KIND = 3 ∧
      t.cellarQueue a b = [] ∧ t.ms = s.ms) ∧
  (∀ (s : State), s.rd R.HEARTH_UNIT_RESET_STATE = 1 → ∃ t, exec .unitResetDone s = .next t ∧ t.rd R.HEARTH_UNIT_RESET_STATE = 2 ∧
    (s.rd R.HEARTH_UNIT_RESET_KIND = 2 → (t.core (144 + s.rd R.HEARTH_UNIT_RESET_B)).run = .running ∧
      (t.core (144 + s.rd R.HEARTH_UNIT_RESET_B)).pc = s.rd R.HEARTH_HALL_VECTOR_HI * 2 ^ 32 + s.rd R.HEARTH_HALL_VECTOR_LO) ∧
    (s.rd R.HEARTH_UNIT_RESET_KIND = 1 → ∀ h c, h = s.rd R.HEARTH_UNIT_RESET_A → c = s.logicalOf h (s.rd R.HEARTH_UNIT_RESET_B) →
      (t.core (9 * h + s.physOf h c)).run = .running ∧ (t.core (9 * h + s.physOf h c)).pc = 0 ∧ (t.rcore h c).st = .offline)) ∧
  (∀ (s : State) (mw l th pw want : Nat), l = s.rd R.HEARTH_THROTTLE_LEVEL →
    th = moveLevel s.pwr.thermal ((List.range 24).any (fun n => decide (4 * s.throttleC ≤ s.temp n)))
      ((List.range 24).all (fun n => decide (s.temp n < 4 * (s.throttleC - 5)))) →
    pw = moveLevel s.pwr.power (decide (s.limitW * 1000 < mw)) (decide (mw + 5000 < s.limitW * 1000)) →
    want = max th (max pw (s.rd R.HEARTH_THROTTLE_FORCE_L)) → want ≤ 7 → ∃ t, exec (.throttleUpdate mw) s = .next t ∧ t.pwr.thermal = th ∧ t.pwr.power = pw ∧
      t.rd R.HEARTH_THROTTLE_LEVEL = (if l < want then l + 1 else if want < l then l - 1 else l) ∧
      sameRegs s t [R.HEARTH_THROTTLE_LEVEL] ∧
      (l ≠ want → t.dbg.raised = s.dbg.raised ++ [(⟨5, 1, false, t.rd R.HEARTH_THROTTLE_LEVEL, s.hottest⟩, s.tick)] ∧
        (s.bit R.HEARTH_THROTTLE_IRQ_EN = true → ⟨.throttle, 0⟩ ∈ t.hallIrq)) ∧
      (l = want → t.dbg = s.dbg ∧ t.hallIrq = s.hallIrq)) ∧
  (∀ (s : State) (n : Fin 24) (x : BitVec 10), ∃ t, exec (.tempSensorUpdate n x) s = .next t ∧ t.rd (R.HEARTH_TEMP_TEMP n) = x.toNat ∧
    sameRegs s t [R.HEARTH_TEMP_TEMP n]) ∧
  (∀ (s : State) (k : Fin 2) (x : BitVec 8), ∃ t, exec (.cellarStackTempReport k x) s = .next t ∧ t.rd (R.CELLAR_STACK_STATUS_TEMP k) = x.toNat ∧
    t.rd (R.CELLAR_STACK_STATUS_REFRESH_X2 k) = (if 85 < x.toNat then 1 else 0) ∧
    sameRegs s t [R.CELLAR_STACK_STATUS_TEMP k, R.CELLAR_STACK_STATUS_REFRESH_X2 k]) ∧
  (∀ (s : State) (stack : Bool), (stack = true ∨ ∃ n < 24, 500 ≤ s.temp n) → ∃ t, exec (.thermalTrip stack) s = .next t ∧ deviceIsReset s t 5 ∧
    t.pins.thermLow = true ∧ t.pwr.tripped = true ∧ ∀ d < 48, t.domSt d = 1) ∧
  (∀ (s : State), (∀ n < 24, s.temp n < 500) → exec (.thermalTrip false) s = .next s) ∧
  (∀ (s : State), ∃ t, exec .internalColdReset s = .next t ∧ deviceIsReset s t 0 ∧ t.rd R.HEARTH_RESET_STATUS_MISSED = 0) ∧
  (∀ (s : State) (c : Bool), s.pwr.tripped = false → ∃ t, exec (.resetNPulse c) s = .next t ∧ deviceIsReset s t 1 ∧ t.pwr.tripped = false) ∧
  (∀ (s : State), s.pwr.tripped = true → exec (.resetNPulse false) s = .next s ∧
    ∃ t, exec (.resetNPulse true) s = .next t ∧ deviceIsReset s t 5 ∧ t.pwr.tripped = false ∧ t.pins.thermLow = false)

/-! ## Observability and debug (24) -/

/-- R618 to R624: the event tap, the trace exporter, the Hearth event queue, telemetry and boundary scan.
The model's choices that it rests on: log entry 68. -/
def Obligations.TracesEventsAndBoundaryScan : Prop :=
  (∀ (s : State), s.exports 32 = false → ∃ t, exec .reeveTapPop s = .next t ∧ t.dbg.tap = s.dbg.tap.drop 1 ∧ t.ans = acked) ∧
  (∀ (s : State), s.exports 32 = true → exec .reeveTapPop s = .next { s with ans := acked }) ∧
  (∀ (s u : State) (k : Fin 33) (r : List Nat) (l : List (List Nat)), s.exports k = true → s.traceRecords k = r :: l → s.traceFull = false →
    s.dmaWrite hearthMid s.traceAddr (clean (([2 ^ 31 + k.val * 2 ^ 24 + min (s.dbg.lost.get k) 65535, 0, 0, 0] ++ r).flatMap bytesOf32)) = (true, u) →
    ∃ t, exec (.traceExport k) s = .next t ∧ t.ms = u.ms ∧ t.traceRecords k = l ∧ t.dbg.lost.get k = 0 ∧
      t.rd R.TRACE_PROD = (u.rd R.TRACE_PROD + 1) % 2 ^ 32) ∧
  (∀ (s u : State) (k : Fin 33), s.traceDue k = true →
    s.dmaWrite hearthMid s.traceAddr (clean (([2 ^ 31 + k.val * 2 ^ 24 + min (s.dbg.lost.get k) 65535, 0, 0, 0] ++ (s.traceRecords k).headD []).flatMap bytesOf32))
      = (false, u) → exec (.traceExport k) s = .next s) ∧
  (∀ (s : State) (k : Fin 33), s.traceDue k = false → ∃ t, exec (.traceExport k) s = .next t ∧ t.dbg = s.dbg ∧ t.ms = s.ms ∧
    t.rd R.TRACE_STATUS_FULL = (if s.traceFull then 1 else 0) ∧ sameRegs s t [R.TRACE_STATUS_FULL]) ∧
  (∀ (s : State) (k : Fin 33) (st : Fin 3), s.traceDue k = true → ∃ t, exec (.traceWriteError k st) s = .next t ∧ t.rd R.TRACE_CFG_EN = 0 ∧
    t.rd R.TRACE_STATUS_ERROR = 1 ∧ t.rd R.TRACE_STATUS_STATUS = 3 + st.val ∧ t.dbg = s.dbg ∧
    sameRegs s t [R.TRACE_CFG_EN, R.TRACE_STATUS_ERROR, R.TRACE_STATUS_STATUS]) ∧
  (∀ (s : State) (e : HearthEvent) (tick : Nat) (r : List (HearthEvent × Nat)) (l : List (List Nat)), s.dbg.raised = (e, tick) :: r →
    s.dbg.queue.length < (if e.high then 256 else 224) → l = s.dbg.queue ++ [[e.source * 2 ^ 24 + e.event * 2 ^ 16, e.detail, e.detail2, tick]] →
    ∃ t, exec .hearthEventEntry s = .next t ∧ t.dbg.raised = r ∧ t.dbg.queue = l ∧ t.rd R.HEARTH_EVT_STATUS_LEVEL = l.length ∧
      ∀ i < 4, t.rd (R.HEARTH_EVT_HEAD i) = (l.headD []).getD i 0 % 2 ^ 32) ∧
  (∀ (s : State) (e : HearthEvent) (tick : Nat) (r : List (HearthEvent × Nat)), s.dbg.raised = (e, tick) :: r →
    (if e.high then 256 else 224) ≤ s.dbg.queue.length → ∃ t, exec .hearthEventEntry s = .next t ∧ t.dbg.raised = r ∧ t.dbg.queue = s.dbg.queue ∧
      t.rd (if e.high then R.HEARTH_EVT_STATUS_HIGH_DROPPED else R.HEARTH_EVT_STATUS_LOW_DROPPED) =
        (s.rd (if e.high then R.HEARTH_EVT_STATUS_HIGH_DROPPED else R.HEARTH_EVT_STATUS_LOW_DROPPED) + 1) % 2 ^ 8) ∧
  (∀ (s : State), ∃ t, exec (.hearthEvtPop 0xB1) s = .next t ∧ t.ans = acked ∧ t.dbg.queue = s.dbg.queue.drop 1 ∧
    ∀ i < 4, t.rd (R.HEARTH_EVT_HEAD i) = ((s.dbg.queue.drop 1).headD []).getD i 0 % 2 ^ 32) ∧
  (∀ (s : State) (mid : Mid), mid ≠ 0xB1 → exec (.hearthEvtPop mid) s = .next { s with ans := abortedBy 7 }) ∧
  (∀ (s u : State) (mw size : Nat), s.bit R.TELEM_CFG_EN = true → s.rd R.HEARTH_HANDOVER_RESULT ≠ 1 → s.boot.verified = true → s.inCrier = false →
    6 ≤ s.rd R.TELEM_CFG_SIZE_LOG2 → s.rd R.TELEM_CFG_SIZE_LOG2 ≤ 15 → size = 2 ^ s.rd R.TELEM_CFG_SIZE_LOG2 →
    ringHeld (s.rd R.TELEM_PROD) (s.rd R.TELEM_CONS) ≠ size →
    s.dmaWrite hearthMid (s.rd R.TELEM_BASE_ADDR * 64 + s.rd R.TELEM_PROD % size * 32) (clean ((s.sample mw).flatMap bytesOf32)) = (true, u) →
    ∃ t, exec (.telemetrySample mw) s = .next t ∧ t.ms = u.ms ∧ t.rd R.TELEM_PROD = (u.rd R.TELEM_PROD + 1) % 2 ^ 32 ∧
      (s.bit R.TELEM_CFG_IRQ_EN = true → if s.bit R.TELEM_CFG_DEST = true then 457 ∈ t.hostIrq else ⟨.telemetry, 0⟩ ∈ t.hallIrq)) ∧
  (∀ (s : State) (mw : Nat), s.bit R.TELEM_CFG_EN = true → s.rd R.HEARTH_HANDOVER_RESULT ≠ 1 → s.boot.verified = true → s.inCrier = false →
    6 ≤ s.rd R.TELEM_CFG_SIZE_LOG2 → s.rd R.TELEM_CFG_SIZE_LOG2 ≤ 15 → ringHeld (s.rd R.TELEM_PROD) (s.rd R.TELEM_CONS) = 2 ^ s.rd R.TELEM_CFG_SIZE_LOG2 →
    exec (.telemetrySample mw) s = .next (s.inc R.TELEM_LOST)) ∧
  (∀ (s : State) (mw : Nat), (s.bit R.TELEM_CFG_EN = false ∨ s.rd R.HEARTH_HANDOVER_RESULT = 1 ∨ s.boot.verified = false) →
    exec (.telemetrySample mw) s = .next s) ∧
  (∀ (s : State) (sh pn : Nat) (c : BitVec 8), (c = 0xFF ∨ c.toNat ∉ [0x00, 0x01, 0x02, 0x03, 0x04, 0x10]) →
    (∃ t, exec (.jtagExtest sh pn) s = .next t ∧ t.dbg.jtag = { s.dbg.jtag with ir := 0x00, boundary := sh, driven := some sh, hiz := false, tdo := pn } ∧ t.regs = s.regs) ∧
    (∃ t, exec (.jtagSamplePreload sh pn) s = .next t ∧ t.dbg.jtag = { s.dbg.jtag with ir := 0x01, boundary := sh, driven := none, hiz := false, tdo := pn } ∧ t.regs = s.regs) ∧
    (∃ t, exec .jtagIdcode s = .next t ∧ t.dbg.jtag = { s.dbg.jtag with ir := 0x02, driven := none, hiz := false, tdo := 0x35C08567 } ∧ t.regs = s.regs) ∧
    (∃ t, exec .jtagClamp s = .next t ∧ t.dbg.jtag = { s.dbg.jtag with ir := 0x03, driven := some s.dbg.jtag.boundary, hiz := false, tdo := 0 } ∧ t.regs = s.regs) ∧
    (∃ t, exec .jtagHighz s = .next t ∧ t.dbg.jtag = { s.dbg.jtag with ir := 0x04, driven := none, hiz := true, tdo := 0 } ∧ t.regs = s.regs) ∧
    (∃ t, exec (.jtagBypass c) s = .next t ∧ t.dbg.jtag = { s.dbg.jtag with ir := c.toNat, driven := none, hiz := false, tdo := 0 } ∧ t.regs = s.regs))

/-- R627, R628: a core halts, resumes, steps, and its registers are read and written while it is halted.
The model's choices that it rests on: log entry 32. -/
def Obligations.CoreDebug : Prop :=
  (∀ (s : State) (k : Fin 160), (s.core k).dbgHalt = false → (s.core k).run ≠ .held → ∃ t, exec (.dbgHaltReq k) s = .next t ∧ t.ans = acked ∧
    t.core k = { s.core k with dbgHalt := true, dbgStep := false, dbgPass := false } ∧ (∀ j, j ≠ k.val → t.core j = s.core j) ∧ t.ms = s.ms ∧ t.reeve = s.reeve) ∧
  (∀ (s : State) (k : Fin 160), ((s.core k).dbgHalt = true ∨ (s.core k).run = .held) → exec (.dbgHaltReq k) s = .next { s with ans := acked }) ∧
  (∀ (s : State) (k : Fin 160), (s.core k).dbgHalt = true → ∃ t, exec (.dbgResume k) s = .next t ∧ t.ans = acked ∧
    t.core k = { s.core k with dbgHalt := false, dbgStep := false, dbgPass := true } ∧ (∀ j, j ≠ k.val → t.core j = s.core j) ∧
    ∀ r, dbgRegs k = some r → t.rd r.halted = 0 ∧ t.rd r.reason = 0) ∧
  (∀ (s : State) (k : Fin 160), (s.core k).dbgHalt = true → ∃ t, exec (.dbgStep k) s = .next t ∧ t.ans = acked ∧ t.regs = s.regs ∧
    t.core k = { s.core k with dbgStep := true, dbgPass := true } ∧ (∀ j, j ≠ k.val → t.core j = s.core j)) ∧
  (∀ (s : State) (k : Fin 160) (v : Word) (c : Instr), (s.core k).dbgHalt = false →
    c ∈ [.dbgResume k, .dbgStep k, .dbgRegRead k v, .dbgRegWrite k v] → exec c s = .next { s with ans := acked }) ∧
  (∀ (s : State) (k : Fin 160) (v : Word) (x : Nat × Bool), (s.core k).dbgHalt = true → bitOf v 31 = false →
    x = s.dbgRead k (bitsOf v 12 4) (bitsOf v 0 12) → ∃ t, exec (.dbgRegRead k v) s = .next t ∧ t.ans = acked ∧ t.cores = s.cores ∧
      t.rd (dbgSel k).2.2.2 = x.1 % 2 ^ 32 ∧ t.rd (dbgSel k).1 = (if x.2 then 1 else 0)) ∧
  (∀ (s : State) (k : Fin 160) (v d : Word) (n : Nat), (s.core k).dbgHalt = true → bitOf v 31 = true → bitsOf v 12 4 = 0 → bitsOf v 0 12 = n →
    1 ≤ n → n < 32 → s.rd (dbgSel k).2.2.2 = d.toNat → ∃ t, exec (.dbgRegWrite k v) s = .next t ∧ t.ans = acked ∧
      (t.core k).gv n % 2 ^ 32 = d.toNat ∧ (t.core k).gtag n = bitOf v 30 ∧ (∀ m < 32, m ≠ n → (t.core k).gv m = (s.core k).gv m) ∧
      (∀ j, j ≠ k.val → t.core j = s.core j)) ∧
  (∀ (s : State) (k : Fin 160) (v : Word), (s.core k).dbgHalt = true → bitOf v 31 = true → dbgNames k (bitsOf v 12 4) (bitsOf v 0 12) = false →
    ∃ t, exec (.dbgRegWrite k v) s = .next t ∧ t.ans = acked ∧ t.cores = s.cores)

/-! ## Register accesses (25) -/

namespace Sys2Proof.Claims
open Machine

/-- The requests that `writes` and `reads` speak of: the register `d` of 4 bytes at `a` is reached. -/
def reaches (s : State) (a : Nat) (d : RegDef) : Prop :=
  s.regRefuse a = none ∧ isStreamWindow a = false ∧ regAt a = some d ∧ d.bytes = 4

/-- Bit `i` of a field after a write of `x` to it, by its access type (R6). -/
def writtenBit (f : FieldDef) (wlOpen : Bool) (old x : Nat) (i : Nat) : Bool :=
  match f.acc with
  | .rw => x.testBit i
  | .w1c => old.testBit i && !x.testBit i
  | .w1s => old.testBit i || x.testBit i
  | .wl => if wlOpen then x.testBit i else old.testBit i
  | _ => old.testBit i

end Sys2Proof.Claims

/-- R6, R634 to R636, R638: register writes, reads and refusals.
The model's choices that it rests on: log entries 69 and 70. -/
def Obligations.RegisterAccesses : Prop :=
  (∀ (s : State) (mid : Mid) (a : BitVec 40) (v : Word) (o : Outside) (d : RegDef), reaches s a.toNat d →
    s.ownWrite d (busAddr a.toNat) v mid o = none → ∃ t, exec (.registerWrite mid a v o) s = .next t ∧ t.ans = acked ∧
      (∀ f ∈ d.fields, ∀ i < f.w, (t.rd (f.at (busAddr a.toNat))).testBit i =
        writtenBit f s.wlOpen (s.rd (f.at (busAddr a.toNat))) (v.toNat / 2 ^ f.lo) i) ∧
      sameRegs s t (d.fields.map (fun f => f.at (busAddr a.toNat))) ∧ t.ms = s.ms ∧ t.cores = s.cores ∧ t.reeve = s.reeve ∧ t.net = s.net) ∧
  (∀ (s : State) (mid : Mid) (a : BitVec 40) (v : Word) (o : Outside) (d : RegDef) (f : State → Outc), reaches s a.toNat d →
    s.ownWrite d (busAddr a.toNat) v mid o = some f → exec (.registerWrite mid a v o) s = f { s with ans := acked }) ∧
  (∀ (s : State) (mid : Mid) (a : BitVec 40) (v : Word) (o : Outside), s.regRefuse a.toNat = none → isStreamWindow a.toNat = true →
    exec (.registerWrite mid a v o) s = if 0x51010000 ≤ a.toNat then exec (.coppiceCfgDataWrite mid (clean (bytesOf32 v.toNat)) true) s
      else exec (.hearthRcvDataWrite (Fin.ofNat 262144 (a.toNat - 0x40040000)) (bytesOf32 v.toNat) true) s) ∧
  (∀ (s : State) (mid : Mid) (a : BitVec 40) (v : Word) (o : Outside) (j : Bool) (r : Answer), s.regRefuse a.toNat = some r →
    exec (.registerWrite mid a v o) s = .next { s with ans := r } ∧
    (((regAt a.toNat).isSome = true ∨ inReg a.toNat = false) → exec (.counterReadClear a j) s = .next { s with ans := r })) ∧
  (∀ (s : State) (a : Nat), regNi a = none → s.regRefuse a = some ⟨.deadTarget, 3, []⟩) ∧
  (∀ (s : State) (a n : Nat), regNi a = some n →
    ((s.portSt (n / 4) (4 + n % 4) = 3 ∨ s.portSt (n / 4) (4 + n % 4) = 4) → s.regRefuse a = some ⟨.domainClosed, 4, []⟩) ∧
    (s.portSt (n / 4) (4 + n % 4) = 5 → s.regRefuse a = some ⟨.deadTarget, 2, []⟩) ∧
    (s.portSt (n / 4) (4 + n % 4) < 3 → regAt a = none → isStreamWindow a = false → s.regRefuse a = some (abortedBy 6))) ∧
  (∀ (s : State) (a : BitVec 40) (d : RegDef), reaches s a.toNat d → s.takeOnce a.toNat = none → d.is (R.MARKET_PORT_STATUS_STATE 0) = false →
    d.is (R.MARKET_TS_CAP 0 0) = false → ∃ t, exec (.counterReadClear a false) s = .next t ∧
      t.ans = ⟨.ok, 0, [⟨BitVec.ofNat 64 (s.regVal a.toNat), false⟩]⟩ ∧
      (∀ f ∈ d.fields, t.rd (f.at (busAddr a.toNat)) = if f.acc = .rc then 0 else s.rd (f.at (busAddr a.toNat))) ∧
      sameRegs s t (d.fields.map (fun f => f.at (busAddr a.toNat))) ∧ t.ms = s.ms) ∧
  (∀ (s : State) (a : BitVec 40) (d : RegDef), reaches s a.toNat d →
    exec (.counterReadClear a true) s = .next { s with ans := ⟨.ok, 0, [⟨BitVec.ofNat 64 (s.regVal a.toNat), false⟩]⟩ }) ∧
  (∀ (s : State) (a : Nat) (d : RegDef), regAt a = some d → busAddr a ≠ R.STEEPLE_NOW_TICK.addr →
    ¬ ((R.COPPICE_READBACK_DATA 0).addr ≤ a ∧ a < (R.COPPICE_READBACK_DATA 256).addr) → ¬ ((R.CRIER_RECORD 0).addr ≤ a ∧ a < (R.CRIER_RECORD 12).addr) →
    ∀ f ∈ d.fields, s.regVal a / 2 ^ f.lo % 2 ^ f.w = if f.acc = .wo ∨ f.acc = .to then 0 else s.rd (f.at (busAddr a))) ∧
  (∀ (s : State) (mid : Mid) (a : BitVec 40) (n : Nat) (v : DWord) (o : Outside) (d : RegDef), reaches s (a.toNat / 4 * 4) d → 1 ≤ n → n < 4 →
    a.toNat % 4 + n ≤ 4 → isStreamWindow a.toNat = false →
    exec (.partialRegisterAccess mid a n true v o) s = .next { s with ans := abortedBy 7 } ∧
    exec (.partialRegisterAccess mid a n false v o) s = .next { s with ans := ⟨.ok, 0,
      [⟨BitVec.ofNat 64 (s.regVal (a.toNat / 4 * 4) % 2 ^ 32 / 2 ^ (8 * (a.toNat % 4)) % 2 ^ (8 * n)), false⟩]⟩ }) ∧
  (∀ (s : State) (mid : Mid) (a : BitVec 40) (n : Nat) (v : DWord) (o : Outside) (d : RegDef) (write : Bool), reaches s a.toNat d →
    a.toNat / 8 ≠ (a.toNat + n - 1) / 8 → isReadWindow a.toNat = false →
    exec (.partialRegisterAccess mid a n write v o) s = .next { s with ans := abortedBy 7 }) ∧
  (∀ (s t : State) (mid : Mid) (a : BitVec 40) (v : DWord) (o : Outside) (d e : RegDef), a.toNat % 8 = 0 → reaches s a.toNat d →
    reaches s (a.toNat + 4) e → s.writeOne mid a.toNat (v.extractLsb' 0 32) o = .next t →
    (t.ans.status = .aborted → exec (.partialRegisterAccess mid a 8 true v o) s = .next { s with ans := t.ans }) ∧
    (∀ u, t.ans.status ≠ .aborted → t.writeOne mid (a.toNat + 4) (v.extractLsb' 32 32) o = .next u →
      exec (.partialRegisterAccess mid a 8 true v o) s = .next (if u.ans.status = .aborted then { s with ans := u.ans } else u))) ∧
  (∀ (s : State) (mid : Mid) (a : BitVec 40) (v : DWord) (o : Outside) (d e : RegDef), a.toNat % 8 = 0 → reaches s a.toNat d →
    reaches s (a.toNat + 4) e → s.takeOnce a.toNat = none → s.takeOnce (a.toNat + 4) = none →
    ∃ t, exec (.partialRegisterAccess mid a 8 false v o) s = .next t ∧
      t.ans = ⟨.ok, 0, [⟨BitVec.ofNat 64 (s.regVal a.toNat % 2 ^ 32 + (s.clearRc a.toNat).regVal (a.toNat + 4) * 2 ^ 32), false⟩]⟩ ∧
      t.regs = ((s.clearRc a.toNat).clearRc (a.toNat + 4)).regs) ∧
  (∀ (s : State) (a : BitVec 40), exec (.atomicToRegister a) s = .next { s with ans := abortedBy 7 })

end
end

