-- ==== Sys2Proof/Laws/Tab.lean ====
section
/-! SUPPORT. Laws/Tab.lean: reading a table after writing it, and the canonical form that every operation keeps. -/

namespace Sys2Proof.Machine

variable {α : Type}

theorem lookupAt_eraseAt_ne (k j : Nat) (h : j ≠ k) : ∀ l : List (Nat × α), lookupAt j (eraseAt k l) = lookupAt j l
  | [] => rfl
  | (i, v) :: r => by
    by_cases hi : i = k
    · subst hi; simp [eraseAt, lookupAt, Ne.symm h, lookupAt_eraseAt_ne i j h r]
    · simp only [eraseAt, hi, if_false, lookupAt, lookupAt_eraseAt_ne k j h r]

theorem lookupAt_eraseAt_same (k : Nat) : ∀ l : List (Nat × α), lookupAt k (eraseAt k l) = none
  | [] => rfl
  | (i, v) :: r => by
    by_cases hi : i = k
    · subst hi; simp [eraseAt, lookupAt_eraseAt_same i r]
    · simp [eraseAt, lookupAt, hi, lookupAt_eraseAt_same k r]

theorem lookupAt_insertAt_ne (k j : Nat) (v : α) (h : j ≠ k) : ∀ l : List (Nat × α), lookupAt j (insertAt k v l) = lookupAt j l
  | [] => by simp [insertAt, lookupAt, Ne.symm h]
  | (i, w) :: r => by
    by_cases hk : k < i
    · simp [insertAt, hk, lookupAt, Ne.symm h]
    · simp only [insertAt, hk, if_false, lookupAt, lookupAt_insertAt_ne k j v h r]

theorem lookupAt_insertAt_same (k : Nat) (v : α) : ∀ l : List (Nat × α), lookupAt k l = none → lookupAt k (insertAt k v l) = some v
  | [], _ => by simp [insertAt, lookupAt]
  | (i, w) :: r, h => by
    by_cases hk : k < i
    · simp [insertAt, hk, lookupAt]
    · by_cases hi : i = k
      · simp [lookupAt, hi] at h
      · simp [insertAt, hk, lookupAt, hi] at h ⊢
        exact lookupAt_insertAt_same k v r h

theorem lookupAt_filter (p : Nat → Bool) (k : Nat) : ∀ l : List (Nat × α),
    lookupAt k (l.filter (fun e => !p e.1)) = if p k then none else lookupAt k l
  | [] => by simp [lookupAt]
  | (i, v) :: r => by
    have ih := lookupAt_filter p k r
    by_cases hi : i = k
    · subst hi; by_cases hp : p i <;> simp_all [List.filter, lookupAt]
    · by_cases hp : p i <;> simp_all [List.filter, lookupAt]

/-! ## The canonical form -/

theorem risingFrom_mono {m n : Nat} (h : m ≤ n) : ∀ l : List (Nat × α), risingFrom n l = true → risingFrom m l = true
  | [], _ => rfl
  | (j, v) :: r, hr => by
    simp only [risingFrom, Bool.and_eq_true, decide_eq_true_eq] at hr ⊢
    exact ⟨le_trans h hr.1, hr.2⟩

theorem risingFrom_eraseAt (k : Nat) : ∀ (n : Nat) (l : List (Nat × α)), risingFrom n l = true → risingFrom n (eraseAt k l) = true
  | _, [], _ => rfl
  | n, (j, v) :: r, h => by
    simp only [risingFrom, Bool.and_eq_true, decide_eq_true_eq] at h
    by_cases hj : j = k
    · simp only [eraseAt, hj, if_true]
      exact risingFrom_eraseAt k n r (risingFrom_mono (by omega) r h.2)
    · simp only [eraseAt, hj, if_false, risingFrom, Bool.and_eq_true, decide_eq_true_eq]
      exact ⟨h.1, risingFrom_eraseAt k (j + 1) r h.2⟩

theorem risingFrom_insertAt (k : Nat) (v : α) : ∀ (n : Nat) (l : List (Nat × α)), n ≤ k → lookupAt k l = none →
    risingFrom n l = true → risingFrom n (insertAt k v l) = true
  | _, [], hn, _, _ => by simp [insertAt, risingFrom, hn]
  | n, (j, w) :: r, hn, hl, h => by
    simp only [risingFrom, Bool.and_eq_true, decide_eq_true_eq] at h
    by_cases hk : k < j
    · simp only [insertAt, hk, if_true, risingFrom, Bool.and_eq_true, decide_eq_true_eq]
      exact ⟨hn, hk, h.2⟩
    · by_cases hj : j = k
      · simp [lookupAt, hj] at hl
      · simp only [lookupAt, hj, if_false] at hl
        simp only [insertAt, hk, if_false, risingFrom, Bool.and_eq_true, decide_eq_true_eq]
        exact ⟨h.1, risingFrom_insertAt k v (j + 1) r (by omega) hl h.2⟩

theorem risingFrom_filter (p : Nat × α → Bool) : ∀ (n : Nat) (l : List (Nat × α)), risingFrom n l = true → risingFrom n (l.filter p) = true
  | _, [], _ => rfl
  | n, (j, v) :: r, h => by
    simp only [risingFrom, Bool.and_eq_true, decide_eq_true_eq] at h
    by_cases hp : p (j, v)
    · simp only [List.filter_cons, hp, if_true, risingFrom, Bool.and_eq_true, decide_eq_true_eq]
      exact ⟨h.1, risingFrom_filter p (j + 1) r h.2⟩
    · simp only [List.filter_cons, hp, Bool.false_eq_true, if_false]
      exact risingFrom_filter p n r (risingFrom_mono (by omega) r h.2)

theorem risingFrom_map (f : Nat → α → α) : ∀ (n : Nat) (l : List (Nat × α)), risingFrom n l = true →
    risingFrom n (l.map (fun e => (e.1, f e.1 e.2))) = true
  | _, [], _ => rfl
  | n, (j, v) :: r, h => by
    simp only [risingFrom, Bool.and_eq_true, decide_eq_true_eq] at h
    simp only [List.map_cons, risingFrom, Bool.and_eq_true, decide_eq_true_eq]
    exact ⟨h.1, risingFrom_map f (j + 1) r h.2⟩

theorem mem_eraseAt (k : Nat) (e : Nat × α) : ∀ l : List (Nat × α), e ∈ eraseAt k l → e ∈ l
  | [], h => h
  | (j, v) :: r, h => by
    by_cases hj : j = k
    · simp only [eraseAt, hj, if_true] at h; exact List.mem_cons_of_mem _ (mem_eraseAt k e r h)
    · simp only [eraseAt, hj, if_false, List.mem_cons] at h ⊢
      exact h.imp id (mem_eraseAt k e r)

theorem mem_insertAt (k : Nat) (v : α) (e : Nat × α) : ∀ l : List (Nat × α), e ∈ insertAt k v l → e = (k, v) ∨ e ∈ l
  | [], h => by simpa [insertAt] using h
  | (j, w) :: r, h => by
    by_cases hk : k < j
    · simpa [insertAt, hk] using h
    · simp only [insertAt, hk, if_false, List.mem_cons] at h ⊢
      rcases h with h | h
      · exact .inr (.inl h)
      · exact (mem_insertAt k v e r h).imp id .inr

/-! ## Tables -/

variable [Inhabited α]

@[simp] theorem Tab.get_empty (k : Nat) : (⟨[]⟩ : Tab α).get k = default := rfl

theorem Tab.get_clear (t : Tab α) (p : Nat → Bool) (k : Nat) : (t.clear p).get k = if p k then default else t.get k := by
  unfold Tab.get Tab.clear
  rw [lookupAt_filter]
  split <;> simp_all

variable [DecidableEq α]

@[simp] theorem Tab.get_set_same (t : Tab α) (k : Nat) (v : α) : (t.set k v).get k = v := by
  unfold Tab.get Tab.set
  split <;> simp_all [lookupAt_eraseAt_same, lookupAt_insertAt_same]

theorem Tab.get_set_ne (t : Tab α) (k j : Nat) (v : α) (h : j ≠ k) : (t.set k v).get j = t.get j := by
  unfold Tab.get Tab.set
  split <;> simp_all [lookupAt_eraseAt_ne, lookupAt_insertAt_ne]

theorem Tab.get_set (t : Tab α) (k j : Nat) (v : α) : (t.set k v).get j = if j = k then v else t.get j := by
  by_cases h : j = k
  · subst h; simp
  · simp [h, Tab.get_set_ne]

@[simp] theorem Tab.get_modify_same (t : Tab α) (k : Nat) (f : α → α) : (t.modify k f).get k = f (t.get k) := by
  simp [Tab.modify]

theorem Tab.get_modify_ne (t : Tab α) (k j : Nat) (f : α → α) (h : j ≠ k) : (t.modify k f).get j = t.get j := by
  simp [Tab.modify, Tab.get_set_ne _ _ _ _ h]

theorem Tab.wf_set (t : Tab α) (k : Nat) (v : α) (h : t.wf = true) : (t.set k v).wf = true := by
  simp only [Tab.wf, Bool.and_eq_true, List.all_eq_true, decide_eq_true_eq] at h ⊢
  unfold Tab.set
  split
  · exact ⟨risingFrom_eraseAt k 0 _ h.1, fun e he => h.2 e (mem_eraseAt k e _ he)⟩
  · rename_i hv
    refine ⟨risingFrom_insertAt k v 0 _ (Nat.zero_le k) (lookupAt_eraseAt_same k _) (risingFrom_eraseAt k 0 _ h.1), fun e he => ?_⟩
    rcases mem_insertAt k v e _ he with rfl | he
    · exact hv
    · exact h.2 e (mem_eraseAt k e _ he)

theorem Tab.wf_modify (t : Tab α) (k : Nat) (f : α → α) (h : t.wf = true) : (t.modify k f).wf = true := Tab.wf_set t k _ h

theorem Tab.wf_clear (t : Tab α) (p : Nat → Bool) (h : t.wf = true) : (t.clear p).wf = true := by
  simp only [Tab.wf, Bool.and_eq_true, List.all_eq_true, decide_eq_true_eq] at h ⊢
  exact ⟨risingFrom_filter _ 0 _ h.1, fun e he => h.2 e (List.mem_of_mem_filter he)⟩

theorem Tab.wf_map (t : Tab α) (f : Nat → α → α) (h : t.wf = true) : (t.map f).wf = true := by
  simp only [Tab.wf, Bool.and_eq_true, List.all_eq_true, decide_eq_true_eq] at h ⊢
  refine ⟨risingFrom_filter _ 0 _ (risingFrom_map f 0 _ h.1), fun e he => ?_⟩
  simpa using (List.mem_filter.mp he).2

@[simp] theorem Tab.wf_empty : (⟨[]⟩ : Tab α).wf = true := rfl

end Sys2Proof.Machine
end

