-- ==== Sys2Proof/Laws/RegFile.lean ====
section
/-! SUPPORT. Laws/RegFile.lean: what a field of a register reads as after a write, and the canonical form of the register file. -/

namespace Sys2Proof.Machine

@[simp] theorem RegFile.rd_wr_same (r : RegFile) (f : Fld) (v : Nat) : (r.wr f v).rd f = v % 2 ^ f.w := by
  unfold RegFile.rd RegFile.wr
  simp only [Tab.get_set_same]
  split
  · rename_i h
    simp [← h]
  · simp

theorem RegFile.rd_wr_ne (r : RegFile) (f g : Fld) (v : Nat) (h : g.key ≠ f.key) : (r.wr f v).rd g = r.rd g := by
  unfold RegFile.rd RegFile.wr
  simp only [Tab.get_set_ne _ _ _ _ h]

theorem RegFile.wf_wr (r : RegFile) (f : Fld) (v : Nat) (h : r.tab.wf = true) : (r.wr f v).tab.wf = true :=
  Tab.wf_set r.tab f.key _ h

theorem RegFile.wf_clearRange (r : RegFile) (a b : Nat) (h : r.tab.wf = true) : (r.clearRange a b).tab.wf = true :=
  Tab.wf_clear r.tab _ h

theorem RegFile.rd_clearRange (r : RegFile) (a b : Nat) (f : Fld) :
    (r.clearRange a b).rd f = if a * 64 ≤ f.key ∧ f.key < b * 64 then f.reset % 2 ^ f.w else r.rd f := by
  unfold RegFile.rd RegFile.clearRange
  simp only [Tab.get_clear, Bool.and_eq_true, decide_eq_true_eq]
  split <;> rfl

theorem RegFile.rd_lt (r : RegFile) (f : Fld) : r.rd f < 2 ^ f.w := Nat.mod_lt _ (Nat.two_pow_pos f.w)

end Sys2Proof.Machine
end

