-- ==== Sys2Proof/Laws/State.lean ====
section
/-! SUPPORT. Laws/State.lean: what each field of the state and each register holds after an update of the operations that
every block shares. -/

namespace Sys2Proof.Machine

/-! ## Fields of the state after an update -/

@[simp] theorem State.wr_pending (s : State) (f : Fld) (v : Nat) : (s.wr f v).pending = s.pending := rfl
@[simp] theorem State.wr_ans (s : State) (f : Fld) (v : Nat) : (s.wr f v).ans = s.ans := rfl
@[simp] theorem State.wr_hallIrq (s : State) (f : Fld) (v : Nat) : (s.wr f v).hallIrq = s.hallIrq := rfl
@[simp] theorem State.wr_hostIrq (s : State) (f : Fld) (v : Nat) : (s.wr f v).hostIrq = s.hostIrq := rfl
@[simp] theorem State.wr_sent (s : State) (f : Fld) (v : Nat) : (s.wr f v).sent = s.sent := rfl
@[simp] theorem State.wr_free (s : State) (f : Fld) (v : Nat) : (s.wr f v).free = s.free := rfl
@[simp] theorem State.wr_stp (s : State) (f : Fld) (v : Nat) : (s.wr f v).stp = s.stp := rfl
@[simp] theorem State.wr_cores (s : State) (f : Fld) (v : Nat) : (s.wr f v).cores = s.cores := rfl
@[simp] theorem State.wr_querns (s : State) (f : Fld) (v : Nat) : (s.wr f v).querns = s.querns := rfl
@[simp] theorem State.wr_reeve (s : State) (f : Fld) (v : Nat) : (s.wr f v).reeve = s.reeve := rfl
@[simp] theorem State.wr_ws (s : State) (f : Fld) (v : Nat) : (s.wr f v).ws = s.ws := rfl
@[simp] theorem State.wr_sv (s : State) (f : Fld) (v : Nat) : (s.wr f v).sv = s.sv := rfl
@[simp] theorem State.wr_ms (s : State) (f : Fld) (v : Nat) : (s.wr f v).ms = s.ms := rfl
@[simp] theorem State.wr_net (s : State) (f : Fld) (v : Nat) : (s.wr f v).net = s.net := rfl
@[simp] theorem State.wr_tally (s : State) (f : Fld) (v : Nat) : (s.wr f v).tally = s.tally := rfl
@[simp] theorem State.wr_crt (s : State) (f : Fld) (v : Nat) : (s.wr f v).crt = s.crt := rfl
@[simp] theorem State.wr_ewl (s : State) (f : Fld) (v : Nat) : (s.wr f v).ewl = s.ewl := rfl
@[simp] theorem State.wr_mkt (s : State) (f : Fld) (v : Nat) : (s.wr f v).mkt = s.mkt := rfl
@[simp] theorem State.wr_host (s : State) (f : Fld) (v : Nat) : (s.wr f v).host = s.host := rfl
@[simp] theorem State.wr_cop (s : State) (f : Fld) (v : Nat) : (s.wr f v).cop = s.cop := rfl
@[simp] theorem State.wr_strong (s : State) (f : Fld) (v : Nat) : (s.wr f v).strong = s.strong := rfl
@[simp] theorem State.wr_boot (s : State) (f : Fld) (v : Nat) : (s.wr f v).boot = s.boot := rfl
@[simp] theorem State.wr_pins (s : State) (f : Fld) (v : Nat) : (s.wr f v).pins = s.pins := rfl
@[simp] theorem State.wr_hml (s : State) (f : Fld) (v : Nat) : (s.wr f v).hml = s.hml := rfl
@[simp] theorem State.wr_pwr (s : State) (f : Fld) (v : Nat) : (s.wr f v).pwr = s.pwr := rfl
@[simp] theorem State.wr_dbg (s : State) (f : Fld) (v : Nat) : (s.wr f v).dbg = s.dbg := rfl
@[simp] theorem State.wrB_pending (s : State) (f : Fld) (b : Bool) : (s.wrB f b).pending = s.pending := rfl
@[simp] theorem State.wrB_ans (s : State) (f : Fld) (b : Bool) : (s.wrB f b).ans = s.ans := rfl
@[simp] theorem State.wrB_hallIrq (s : State) (f : Fld) (b : Bool) : (s.wrB f b).hallIrq = s.hallIrq := rfl
@[simp] theorem State.wrB_hostIrq (s : State) (f : Fld) (b : Bool) : (s.wrB f b).hostIrq = s.hostIrq := rfl
@[simp] theorem State.wrB_sent (s : State) (f : Fld) (b : Bool) : (s.wrB f b).sent = s.sent := rfl
@[simp] theorem State.wrB_free (s : State) (f : Fld) (b : Bool) : (s.wrB f b).free = s.free := rfl
@[simp] theorem State.wrB_stp (s : State) (f : Fld) (b : Bool) : (s.wrB f b).stp = s.stp := rfl
@[simp] theorem State.wrB_cores (s : State) (f : Fld) (b : Bool) : (s.wrB f b).cores = s.cores := rfl
@[simp] theorem State.wrB_querns (s : State) (f : Fld) (b : Bool) : (s.wrB f b).querns = s.querns := rfl
@[simp] theorem State.wrB_reeve (s : State) (f : Fld) (b : Bool) : (s.wrB f b).reeve = s.reeve := rfl
@[simp] theorem State.wrB_ws (s : State) (f : Fld) (b : Bool) : (s.wrB f b).ws = s.ws := rfl
@[simp] theorem State.wrB_sv (s : State) (f : Fld) (b : Bool) : (s.wrB f b).sv = s.sv := rfl
@[simp] theorem State.wrB_ms (s : State) (f : Fld) (b : Bool) : (s.wrB f b).ms = s.ms := rfl
@[simp] theorem State.wrB_net (s : State) (f : Fld) (b : Bool) : (s.wrB f b).net = s.net := rfl
@[simp] theorem State.wrB_tally (s : State) (f : Fld) (b : Bool) : (s.wrB f b).tally = s.tally := rfl
@[simp] theorem State.wrB_crt (s : State) (f : Fld) (b : Bool) : (s.wrB f b).crt = s.crt := rfl
@[simp] theorem State.wrB_ewl (s : State) (f : Fld) (b : Bool) : (s.wrB f b).ewl = s.ewl := rfl
@[simp] theorem State.wrB_mkt (s : State) (f : Fld) (b : Bool) : (s.wrB f b).mkt = s.mkt := rfl
@[simp] theorem State.wrB_host (s : State) (f : Fld) (b : Bool) : (s.wrB f b).host = s.host := rfl
@[simp] theorem State.wrB_cop (s : State) (f : Fld) (b : Bool) : (s.wrB f b).cop = s.cop := rfl
@[simp] theorem State.wrB_strong (s : State) (f : Fld) (b : Bool) : (s.wrB f b).strong = s.strong := rfl
@[simp] theorem State.wrB_boot (s : State) (f : Fld) (b : Bool) : (s.wrB f b).boot = s.boot := rfl
@[simp] theorem State.wrB_pins (s : State) (f : Fld) (b : Bool) : (s.wrB f b).pins = s.pins := rfl
@[simp] theorem State.wrB_hml (s : State) (f : Fld) (b : Bool) : (s.wrB f b).hml = s.hml := rfl
@[simp] theorem State.wrB_pwr (s : State) (f : Fld) (b : Bool) : (s.wrB f b).pwr = s.pwr := rfl
@[simp] theorem State.wrB_dbg (s : State) (f : Fld) (b : Bool) : (s.wrB f b).dbg = s.dbg := rfl
@[simp] theorem State.add_pending (s : State) (f : Fld) (n : Nat) : (s.add f n).pending = s.pending := rfl
@[simp] theorem State.add_ans (s : State) (f : Fld) (n : Nat) : (s.add f n).ans = s.ans := rfl
@[simp] theorem State.add_hallIrq (s : State) (f : Fld) (n : Nat) : (s.add f n).hallIrq = s.hallIrq := rfl
@[simp] theorem State.add_hostIrq (s : State) (f : Fld) (n : Nat) : (s.add f n).hostIrq = s.hostIrq := rfl
@[simp] theorem State.add_sent (s : State) (f : Fld) (n : Nat) : (s.add f n).sent = s.sent := rfl
@[simp] theorem State.add_free (s : State) (f : Fld) (n : Nat) : (s.add f n).free = s.free := rfl
@[simp] theorem State.add_stp (s : State) (f : Fld) (n : Nat) : (s.add f n).stp = s.stp := rfl
@[simp] theorem State.add_cores (s : State) (f : Fld) (n : Nat) : (s.add f n).cores = s.cores := rfl
@[simp] theorem State.add_querns (s : State) (f : Fld) (n : Nat) : (s.add f n).querns = s.querns := rfl
@[simp] theorem State.add_reeve (s : State) (f : Fld) (n : Nat) : (s.add f n).reeve = s.reeve := rfl
@[simp] theorem State.add_ws (s : State) (f : Fld) (n : Nat) : (s.add f n).ws = s.ws := rfl
@[simp] theorem State.add_sv (s : State) (f : Fld) (n : Nat) : (s.add f n).sv = s.sv := rfl
@[simp] theorem State.add_ms (s : State) (f : Fld) (n : Nat) : (s.add f n).ms = s.ms := rfl
@[simp] theorem State.add_net (s : State) (f : Fld) (n : Nat) : (s.add f n).net = s.net := rfl
@[simp] theorem State.add_tally (s : State) (f : Fld) (n : Nat) : (s.add f n).tally = s.tally := rfl
@[simp] theorem State.add_crt (s : State) (f : Fld) (n : Nat) : (s.add f n).crt = s.crt := rfl
@[simp] theorem State.add_ewl (s : State) (f : Fld) (n : Nat) : (s.add f n).ewl = s.ewl := rfl
@[simp] theorem State.add_mkt (s : State) (f : Fld) (n : Nat) : (s.add f n).mkt = s.mkt := rfl
@[simp] theorem State.add_host (s : State) (f : Fld) (n : Nat) : (s.add f n).host = s.host := rfl
@[simp] theorem State.add_cop (s : State) (f : Fld) (n : Nat) : (s.add f n).cop = s.cop := rfl
@[simp] theorem State.add_strong (s : State) (f : Fld) (n : Nat) : (s.add f n).strong = s.strong := rfl
@[simp] theorem State.add_boot (s : State) (f : Fld) (n : Nat) : (s.add f n).boot = s.boot := rfl
@[simp] theorem State.add_pins (s : State) (f : Fld) (n : Nat) : (s.add f n).pins = s.pins := rfl
@[simp] theorem State.add_hml (s : State) (f : Fld) (n : Nat) : (s.add f n).hml = s.hml := rfl
@[simp] theorem State.add_pwr (s : State) (f : Fld) (n : Nat) : (s.add f n).pwr = s.pwr := rfl
@[simp] theorem State.add_dbg (s : State) (f : Fld) (n : Nat) : (s.add f n).dbg = s.dbg := rfl
@[simp] theorem State.inc_pending (s : State) (f : Fld) : (s.inc f).pending = s.pending := rfl
@[simp] theorem State.inc_ans (s : State) (f : Fld) : (s.inc f).ans = s.ans := rfl
@[simp] theorem State.inc_hallIrq (s : State) (f : Fld) : (s.inc f).hallIrq = s.hallIrq := rfl
@[simp] theorem State.inc_hostIrq (s : State) (f : Fld) : (s.inc f).hostIrq = s.hostIrq := rfl
@[simp] theorem State.inc_sent (s : State) (f : Fld) : (s.inc f).sent = s.sent := rfl
@[simp] theorem State.inc_free (s : State) (f : Fld) : (s.inc f).free = s.free := rfl
@[simp] theorem State.inc_stp (s : State) (f : Fld) : (s.inc f).stp = s.stp := rfl
@[simp] theorem State.inc_cores (s : State) (f : Fld) : (s.inc f).cores = s.cores := rfl
@[simp] theorem State.inc_querns (s : State) (f : Fld) : (s.inc f).querns = s.querns := rfl
@[simp] theorem State.inc_reeve (s : State) (f : Fld) : (s.inc f).reeve = s.reeve := rfl
@[simp] theorem State.inc_ws (s : State) (f : Fld) : (s.inc f).ws = s.ws := rfl
@[simp] theorem State.inc_sv (s : State) (f : Fld) : (s.inc f).sv = s.sv := rfl
@[simp] theorem State.inc_ms (s : State) (f : Fld) : (s.inc f).ms = s.ms := rfl
@[simp] theorem State.inc_net (s : State) (f : Fld) : (s.inc f).net = s.net := rfl
@[simp] theorem State.inc_tally (s : State) (f : Fld) : (s.inc f).tally = s.tally := rfl
@[simp] theorem State.inc_crt (s : State) (f : Fld) : (s.inc f).crt = s.crt := rfl
@[simp] theorem State.inc_ewl (s : State) (f : Fld) : (s.inc f).ewl = s.ewl := rfl
@[simp] theorem State.inc_mkt (s : State) (f : Fld) : (s.inc f).mkt = s.mkt := rfl
@[simp] theorem State.inc_host (s : State) (f : Fld) : (s.inc f).host = s.host := rfl
@[simp] theorem State.inc_cop (s : State) (f : Fld) : (s.inc f).cop = s.cop := rfl
@[simp] theorem State.inc_strong (s : State) (f : Fld) : (s.inc f).strong = s.strong := rfl
@[simp] theorem State.inc_boot (s : State) (f : Fld) : (s.inc f).boot = s.boot := rfl
@[simp] theorem State.inc_pins (s : State) (f : Fld) : (s.inc f).pins = s.pins := rfl
@[simp] theorem State.inc_hml (s : State) (f : Fld) : (s.inc f).hml = s.hml := rfl
@[simp] theorem State.inc_pwr (s : State) (f : Fld) : (s.inc f).pwr = s.pwr := rfl
@[simp] theorem State.inc_dbg (s : State) (f : Fld) : (s.inc f).dbg = s.dbg := rfl
@[simp] theorem State.dec_pending (s : State) (f : Fld) : (s.dec f).pending = s.pending := rfl
@[simp] theorem State.dec_ans (s : State) (f : Fld) : (s.dec f).ans = s.ans := rfl
@[simp] theorem State.dec_hallIrq (s : State) (f : Fld) : (s.dec f).hallIrq = s.hallIrq := rfl
@[simp] theorem State.dec_hostIrq (s : State) (f : Fld) : (s.dec f).hostIrq = s.hostIrq := rfl
@[simp] theorem State.dec_sent (s : State) (f : Fld) : (s.dec f).sent = s.sent := rfl
@[simp] theorem State.dec_free (s : State) (f : Fld) : (s.dec f).free = s.free := rfl
@[simp] theorem State.dec_stp (s : State) (f : Fld) : (s.dec f).stp = s.stp := rfl
@[simp] theorem State.dec_cores (s : State) (f : Fld) : (s.dec f).cores = s.cores := rfl
@[simp] theorem State.dec_querns (s : State) (f : Fld) : (s.dec f).querns = s.querns := rfl
@[simp] theorem State.dec_reeve (s : State) (f : Fld) : (s.dec f).reeve = s.reeve := rfl
@[simp] theorem State.dec_ws (s : State) (f : Fld) : (s.dec f).ws = s.ws := rfl
@[simp] theorem State.dec_sv (s : State) (f : Fld) : (s.dec f).sv = s.sv := rfl
@[simp] theorem State.dec_ms (s : State) (f : Fld) : (s.dec f).ms = s.ms := rfl
@[simp] theorem State.dec_net (s : State) (f : Fld) : (s.dec f).net = s.net := rfl
@[simp] theorem State.dec_tally (s : State) (f : Fld) : (s.dec f).tally = s.tally := rfl
@[simp] theorem State.dec_crt (s : State) (f : Fld) : (s.dec f).crt = s.crt := rfl
@[simp] theorem State.dec_ewl (s : State) (f : Fld) : (s.dec f).ewl = s.ewl := rfl
@[simp] theorem State.dec_mkt (s : State) (f : Fld) : (s.dec f).mkt = s.mkt := rfl
@[simp] theorem State.dec_host (s : State) (f : Fld) : (s.dec f).host = s.host := rfl
@[simp] theorem State.dec_cop (s : State) (f : Fld) : (s.dec f).cop = s.cop := rfl
@[simp] theorem State.dec_strong (s : State) (f : Fld) : (s.dec f).strong = s.strong := rfl
@[simp] theorem State.dec_boot (s : State) (f : Fld) : (s.dec f).boot = s.boot := rfl
@[simp] theorem State.dec_pins (s : State) (f : Fld) : (s.dec f).pins = s.pins := rfl
@[simp] theorem State.dec_hml (s : State) (f : Fld) : (s.dec f).hml = s.hml := rfl
@[simp] theorem State.dec_pwr (s : State) (f : Fld) : (s.dec f).pwr = s.pwr := rfl
@[simp] theorem State.dec_dbg (s : State) (f : Fld) : (s.dec f).dbg = s.dbg := rfl
@[simp] theorem State.addSat_pending (s : State) (f : Fld) (n : Nat) : (s.addSat f n).pending = s.pending := rfl
@[simp] theorem State.addSat_ans (s : State) (f : Fld) (n : Nat) : (s.addSat f n).ans = s.ans := rfl
@[simp] theorem State.addSat_hallIrq (s : State) (f : Fld) (n : Nat) : (s.addSat f n).hallIrq = s.hallIrq := rfl
@[simp] theorem State.addSat_hostIrq (s : State) (f : Fld) (n : Nat) : (s.addSat f n).hostIrq = s.hostIrq := rfl
@[simp] theorem State.addSat_sent (s : State) (f : Fld) (n : Nat) : (s.addSat f n).sent = s.sent := rfl
@[simp] theorem State.addSat_free (s : State) (f : Fld) (n : Nat) : (s.addSat f n).free = s.free := rfl
@[simp] theorem State.addSat_stp (s : State) (f : Fld) (n : Nat) : (s.addSat f n).stp = s.stp := rfl
@[simp] theorem State.addSat_cores (s : State) (f : Fld) (n : Nat) : (s.addSat f n).cores = s.cores := rfl
@[simp] theorem State.addSat_querns (s : State) (f : Fld) (n : Nat) : (s.addSat f n).querns = s.querns := rfl
@[simp] theorem State.addSat_reeve (s : State) (f : Fld) (n : Nat) : (s.addSat f n).reeve = s.reeve := rfl
@[simp] theorem State.addSat_ws (s : State) (f : Fld) (n : Nat) : (s.addSat f n).ws = s.ws := rfl
@[simp] theorem State.addSat_sv (s : State) (f : Fld) (n : Nat) : (s.addSat f n).sv = s.sv := rfl
@[simp] theorem State.addSat_ms (s : State) (f : Fld) (n : Nat) : (s.addSat f n).ms = s.ms := rfl
@[simp] theorem State.addSat_net (s : State) (f : Fld) (n : Nat) : (s.addSat f n).net = s.net := rfl
@[simp] theorem State.addSat_tally (s : State) (f : Fld) (n : Nat) : (s.addSat f n).tally = s.tally := rfl
@[simp] theorem State.addSat_crt (s : State) (f : Fld) (n : Nat) : (s.addSat f n).crt = s.crt := rfl
@[simp] theorem State.addSat_ewl (s : State) (f : Fld) (n : Nat) : (s.addSat f n).ewl = s.ewl := rfl
@[simp] theorem State.addSat_mkt (s : State) (f : Fld) (n : Nat) : (s.addSat f n).mkt = s.mkt := rfl
@[simp] theorem State.addSat_host (s : State) (f : Fld) (n : Nat) : (s.addSat f n).host = s.host := rfl
@[simp] theorem State.addSat_cop (s : State) (f : Fld) (n : Nat) : (s.addSat f n).cop = s.cop := rfl
@[simp] theorem State.addSat_strong (s : State) (f : Fld) (n : Nat) : (s.addSat f n).strong = s.strong := rfl
@[simp] theorem State.addSat_boot (s : State) (f : Fld) (n : Nat) : (s.addSat f n).boot = s.boot := rfl
@[simp] theorem State.addSat_pins (s : State) (f : Fld) (n : Nat) : (s.addSat f n).pins = s.pins := rfl
@[simp] theorem State.addSat_hml (s : State) (f : Fld) (n : Nat) : (s.addSat f n).hml = s.hml := rfl
@[simp] theorem State.addSat_pwr (s : State) (f : Fld) (n : Nat) : (s.addSat f n).pwr = s.pwr := rfl
@[simp] theorem State.addSat_dbg (s : State) (f : Fld) (n : Nat) : (s.addSat f n).dbg = s.dbg := rfl
@[simp] theorem State.incSat_pending (s : State) (f : Fld) : (s.incSat f).pending = s.pending := rfl
@[simp] theorem State.incSat_ans (s : State) (f : Fld) : (s.incSat f).ans = s.ans := rfl
@[simp] theorem State.incSat_hallIrq (s : State) (f : Fld) : (s.incSat f).hallIrq = s.hallIrq := rfl
@[simp] theorem State.incSat_hostIrq (s : State) (f : Fld) : (s.incSat f).hostIrq = s.hostIrq := rfl
@[simp] theorem State.incSat_sent (s : State) (f : Fld) : (s.incSat f).sent = s.sent := rfl
@[simp] theorem State.incSat_free (s : State) (f : Fld) : (s.incSat f).free = s.free := rfl
@[simp] theorem State.incSat_stp (s : State) (f : Fld) : (s.incSat f).stp = s.stp := rfl
@[simp] theorem State.incSat_cores (s : State) (f : Fld) : (s.incSat f).cores = s.cores := rfl
@[simp] theorem State.incSat_querns (s : State) (f : Fld) : (s.incSat f).querns = s.querns := rfl
@[simp] theorem State.incSat_reeve (s : State) (f : Fld) : (s.incSat f).reeve = s.reeve := rfl
@[simp] theorem State.incSat_ws (s : State) (f : Fld) : (s.incSat f).ws = s.ws := rfl
@[simp] theorem State.incSat_sv (s : State) (f : Fld) : (s.incSat f).sv = s.sv := rfl
@[simp] theorem State.incSat_ms (s : State) (f : Fld) : (s.incSat f).ms = s.ms := rfl
@[simp] theorem State.incSat_net (s : State) (f : Fld) : (s.incSat f).net = s.net := rfl
@[simp] theorem State.incSat_tally (s : State) (f : Fld) : (s.incSat f).tally = s.tally := rfl
@[simp] theorem State.incSat_crt (s : State) (f : Fld) : (s.incSat f).crt = s.crt := rfl
@[simp] theorem State.incSat_ewl (s : State) (f : Fld) : (s.incSat f).ewl = s.ewl := rfl
@[simp] theorem State.incSat_mkt (s : State) (f : Fld) : (s.incSat f).mkt = s.mkt := rfl
@[simp] theorem State.incSat_host (s : State) (f : Fld) : (s.incSat f).host = s.host := rfl
@[simp] theorem State.incSat_cop (s : State) (f : Fld) : (s.incSat f).cop = s.cop := rfl
@[simp] theorem State.incSat_strong (s : State) (f : Fld) : (s.incSat f).strong = s.strong := rfl
@[simp] theorem State.incSat_boot (s : State) (f : Fld) : (s.incSat f).boot = s.boot := rfl
@[simp] theorem State.incSat_pins (s : State) (f : Fld) : (s.incSat f).pins = s.pins := rfl
@[simp] theorem State.incSat_hml (s : State) (f : Fld) : (s.incSat f).hml = s.hml := rfl
@[simp] theorem State.incSat_pwr (s : State) (f : Fld) : (s.incSat f).pwr = s.pwr := rfl
@[simp] theorem State.incSat_dbg (s : State) (f : Fld) : (s.incSat f).dbg = s.dbg := rfl
@[simp] theorem State.reply_pending (s : State) (a : Answer) : (s.reply a).pending = s.pending := rfl
@[simp] theorem State.reply_regs (s : State) (a : Answer) : (s.reply a).regs = s.regs := rfl
@[simp] theorem State.reply_hallIrq (s : State) (a : Answer) : (s.reply a).hallIrq = s.hallIrq := rfl
@[simp] theorem State.reply_hostIrq (s : State) (a : Answer) : (s.reply a).hostIrq = s.hostIrq := rfl
@[simp] theorem State.reply_sent (s : State) (a : Answer) : (s.reply a).sent = s.sent := rfl
@[simp] theorem State.reply_free (s : State) (a : Answer) : (s.reply a).free = s.free := rfl
@[simp] theorem State.reply_stp (s : State) (a : Answer) : (s.reply a).stp = s.stp := rfl
@[simp] theorem State.reply_cores (s : State) (a : Answer) : (s.reply a).cores = s.cores := rfl
@[simp] theorem State.reply_querns (s : State) (a : Answer) : (s.reply a).querns = s.querns := rfl
@[simp] theorem State.reply_reeve (s : State) (a : Answer) : (s.reply a).reeve = s.reeve := rfl
@[simp] theorem State.reply_ws (s : State) (a : Answer) : (s.reply a).ws = s.ws := rfl
@[simp] theorem State.reply_sv (s : State) (a : Answer) : (s.reply a).sv = s.sv := rfl
@[simp] theorem State.reply_ms (s : State) (a : Answer) : (s.reply a).ms = s.ms := rfl
@[simp] theorem State.reply_net (s : State) (a : Answer) : (s.reply a).net = s.net := rfl
@[simp] theorem State.reply_tally (s : State) (a : Answer) : (s.reply a).tally = s.tally := rfl
@[simp] theorem State.reply_crt (s : State) (a : Answer) : (s.reply a).crt = s.crt := rfl
@[simp] theorem State.reply_ewl (s : State) (a : Answer) : (s.reply a).ewl = s.ewl := rfl
@[simp] theorem State.reply_mkt (s : State) (a : Answer) : (s.reply a).mkt = s.mkt := rfl
@[simp] theorem State.reply_host (s : State) (a : Answer) : (s.reply a).host = s.host := rfl
@[simp] theorem State.reply_cop (s : State) (a : Answer) : (s.reply a).cop = s.cop := rfl
@[simp] theorem State.reply_strong (s : State) (a : Answer) : (s.reply a).strong = s.strong := rfl
@[simp] theorem State.reply_boot (s : State) (a : Answer) : (s.reply a).boot = s.boot := rfl
@[simp] theorem State.reply_pins (s : State) (a : Answer) : (s.reply a).pins = s.pins := rfl
@[simp] theorem State.reply_hml (s : State) (a : Answer) : (s.reply a).hml = s.hml := rfl
@[simp] theorem State.reply_pwr (s : State) (a : Answer) : (s.reply a).pwr = s.pwr := rfl
@[simp] theorem State.reply_dbg (s : State) (a : Answer) : (s.reply a).dbg = s.dbg := rfl
@[simp] theorem State.ack_pending (s : State) : (s.ack).pending = s.pending := rfl
@[simp] theorem State.ack_regs (s : State) : (s.ack).regs = s.regs := rfl
@[simp] theorem State.ack_hallIrq (s : State) : (s.ack).hallIrq = s.hallIrq := rfl
@[simp] theorem State.ack_hostIrq (s : State) : (s.ack).hostIrq = s.hostIrq := rfl
@[simp] theorem State.ack_sent (s : State) : (s.ack).sent = s.sent := rfl
@[simp] theorem State.ack_free (s : State) : (s.ack).free = s.free := rfl
@[simp] theorem State.ack_stp (s : State) : (s.ack).stp = s.stp := rfl
@[simp] theorem State.ack_cores (s : State) : (s.ack).cores = s.cores := rfl
@[simp] theorem State.ack_querns (s : State) : (s.ack).querns = s.querns := rfl
@[simp] theorem State.ack_reeve (s : State) : (s.ack).reeve = s.reeve := rfl
@[simp] theorem State.ack_ws (s : State) : (s.ack).ws = s.ws := rfl
@[simp] theorem State.ack_sv (s : State) : (s.ack).sv = s.sv := rfl
@[simp] theorem State.ack_ms (s : State) : (s.ack).ms = s.ms := rfl
@[simp] theorem State.ack_net (s : State) : (s.ack).net = s.net := rfl
@[simp] theorem State.ack_tally (s : State) : (s.ack).tally = s.tally := rfl
@[simp] theorem State.ack_crt (s : State) : (s.ack).crt = s.crt := rfl
@[simp] theorem State.ack_ewl (s : State) : (s.ack).ewl = s.ewl := rfl
@[simp] theorem State.ack_mkt (s : State) : (s.ack).mkt = s.mkt := rfl
@[simp] theorem State.ack_host (s : State) : (s.ack).host = s.host := rfl
@[simp] theorem State.ack_cop (s : State) : (s.ack).cop = s.cop := rfl
@[simp] theorem State.ack_strong (s : State) : (s.ack).strong = s.strong := rfl
@[simp] theorem State.ack_boot (s : State) : (s.ack).boot = s.boot := rfl
@[simp] theorem State.ack_pins (s : State) : (s.ack).pins = s.pins := rfl
@[simp] theorem State.ack_hml (s : State) : (s.ack).hml = s.hml := rfl
@[simp] theorem State.ack_pwr (s : State) : (s.ack).pwr = s.pwr := rfl
@[simp] theorem State.ack_dbg (s : State) : (s.ack).dbg = s.dbg := rfl
@[simp] theorem State.refusedAns_pending (s : State) : (s.refusedAns).pending = s.pending := rfl
@[simp] theorem State.refusedAns_regs (s : State) : (s.refusedAns).regs = s.regs := rfl
@[simp] theorem State.refusedAns_hallIrq (s : State) : (s.refusedAns).hallIrq = s.hallIrq := rfl
@[simp] theorem State.refusedAns_hostIrq (s : State) : (s.refusedAns).hostIrq = s.hostIrq := rfl
@[simp] theorem State.refusedAns_sent (s : State) : (s.refusedAns).sent = s.sent := rfl
@[simp] theorem State.refusedAns_free (s : State) : (s.refusedAns).free = s.free := rfl
@[simp] theorem State.refusedAns_stp (s : State) : (s.refusedAns).stp = s.stp := rfl
@[simp] theorem State.refusedAns_cores (s : State) : (s.refusedAns).cores = s.cores := rfl
@[simp] theorem State.refusedAns_querns (s : State) : (s.refusedAns).querns = s.querns := rfl
@[simp] theorem State.refusedAns_reeve (s : State) : (s.refusedAns).reeve = s.reeve := rfl
@[simp] theorem State.refusedAns_ws (s : State) : (s.refusedAns).ws = s.ws := rfl
@[simp] theorem State.refusedAns_sv (s : State) : (s.refusedAns).sv = s.sv := rfl
@[simp] theorem State.refusedAns_ms (s : State) : (s.refusedAns).ms = s.ms := rfl
@[simp] theorem State.refusedAns_net (s : State) : (s.refusedAns).net = s.net := rfl
@[simp] theorem State.refusedAns_tally (s : State) : (s.refusedAns).tally = s.tally := rfl
@[simp] theorem State.refusedAns_crt (s : State) : (s.refusedAns).crt = s.crt := rfl
@[simp] theorem State.refusedAns_ewl (s : State) : (s.refusedAns).ewl = s.ewl := rfl
@[simp] theorem State.refusedAns_mkt (s : State) : (s.refusedAns).mkt = s.mkt := rfl
@[simp] theorem State.refusedAns_host (s : State) : (s.refusedAns).host = s.host := rfl
@[simp] theorem State.refusedAns_cop (s : State) : (s.refusedAns).cop = s.cop := rfl
@[simp] theorem State.refusedAns_strong (s : State) : (s.refusedAns).strong = s.strong := rfl
@[simp] theorem State.refusedAns_boot (s : State) : (s.refusedAns).boot = s.boot := rfl
@[simp] theorem State.refusedAns_pins (s : State) : (s.refusedAns).pins = s.pins := rfl
@[simp] theorem State.refusedAns_hml (s : State) : (s.refusedAns).hml = s.hml := rfl
@[simp] theorem State.refusedAns_pwr (s : State) : (s.refusedAns).pwr = s.pwr := rfl
@[simp] theorem State.refusedAns_dbg (s : State) : (s.refusedAns).dbg = s.dbg := rfl
@[simp] theorem State.irq_pending (s : State) (x : HallSrc) (i : Nat) : (s.irq x i).pending = s.pending := rfl
@[simp] theorem State.irq_regs (s : State) (x : HallSrc) (i : Nat) : (s.irq x i).regs = s.regs := rfl
@[simp] theorem State.irq_ans (s : State) (x : HallSrc) (i : Nat) : (s.irq x i).ans = s.ans := rfl
@[simp] theorem State.irq_hostIrq (s : State) (x : HallSrc) (i : Nat) : (s.irq x i).hostIrq = s.hostIrq := rfl
@[simp] theorem State.irq_sent (s : State) (x : HallSrc) (i : Nat) : (s.irq x i).sent = s.sent := rfl
@[simp] theorem State.irq_free (s : State) (x : HallSrc) (i : Nat) : (s.irq x i).free = s.free := rfl
@[simp] theorem State.irq_stp (s : State) (x : HallSrc) (i : Nat) : (s.irq x i).stp = s.stp := rfl
@[simp] theorem State.irq_cores (s : State) (x : HallSrc) (i : Nat) : (s.irq x i).cores = s.cores := rfl
@[simp] theorem State.irq_querns (s : State) (x : HallSrc) (i : Nat) : (s.irq x i).querns = s.querns := rfl
@[simp] theorem State.irq_reeve (s : State) (x : HallSrc) (i : Nat) : (s.irq x i).reeve = s.reeve := rfl
@[simp] theorem State.irq_ws (s : State) (x : HallSrc) (i : Nat) : (s.irq x i).ws = s.ws := rfl
@[simp] theorem State.irq_sv (s : State) (x : HallSrc) (i : Nat) : (s.irq x i).sv = s.sv := rfl
@[simp] theorem State.irq_ms (s : State) (x : HallSrc) (i : Nat) : (s.irq x i).ms = s.ms := rfl
@[simp] theorem State.irq_net (s : State) (x : HallSrc) (i : Nat) : (s.irq x i).net = s.net := rfl
@[simp] theorem State.irq_tally (s : State) (x : HallSrc) (i : Nat) : (s.irq x i).tally = s.tally := rfl
@[simp] theorem State.irq_crt (s : State) (x : HallSrc) (i : Nat) : (s.irq x i).crt = s.crt := rfl
@[simp] theorem State.irq_ewl (s : State) (x : HallSrc) (i : Nat) : (s.irq x i).ewl = s.ewl := rfl
@[simp] theorem State.irq_mkt (s : State) (x : HallSrc) (i : Nat) : (s.irq x i).mkt = s.mkt := rfl
@[simp] theorem State.irq_host (s : State) (x : HallSrc) (i : Nat) : (s.irq x i).host = s.host := rfl
@[simp] theorem State.irq_cop (s : State) (x : HallSrc) (i : Nat) : (s.irq x i).cop = s.cop := rfl
@[simp] theorem State.irq_strong (s : State) (x : HallSrc) (i : Nat) : (s.irq x i).strong = s.strong := rfl
@[simp] theorem State.irq_boot (s : State) (x : HallSrc) (i : Nat) : (s.irq x i).boot = s.boot := rfl
@[simp] theorem State.irq_pins (s : State) (x : HallSrc) (i : Nat) : (s.irq x i).pins = s.pins := rfl
@[simp] theorem State.irq_hml (s : State) (x : HallSrc) (i : Nat) : (s.irq x i).hml = s.hml := rfl
@[simp] theorem State.irq_pwr (s : State) (x : HallSrc) (i : Nat) : (s.irq x i).pwr = s.pwr := rfl
@[simp] theorem State.irq_dbg (s : State) (x : HallSrc) (i : Nat) : (s.irq x i).dbg = s.dbg := rfl
@[simp] theorem State.irqIf_pending (s : State) (c : Bool) (x : HallSrc) (i : Nat) : (s.irqIf c x i).pending = s.pending := by cases c <;> rfl
@[simp] theorem State.irqIf_regs (s : State) (c : Bool) (x : HallSrc) (i : Nat) : (s.irqIf c x i).regs = s.regs := by cases c <;> rfl
@[simp] theorem State.irqIf_ans (s : State) (c : Bool) (x : HallSrc) (i : Nat) : (s.irqIf c x i).ans = s.ans := by cases c <;> rfl
@[simp] theorem State.irqIf_hostIrq (s : State) (c : Bool) (x : HallSrc) (i : Nat) : (s.irqIf c x i).hostIrq = s.hostIrq := by cases c <;> rfl
@[simp] theorem State.irqIf_sent (s : State) (c : Bool) (x : HallSrc) (i : Nat) : (s.irqIf c x i).sent = s.sent := by cases c <;> rfl
@[simp] theorem State.irqIf_free (s : State) (c : Bool) (x : HallSrc) (i : Nat) : (s.irqIf c x i).free = s.free := by cases c <;> rfl
@[simp] theorem State.irqIf_stp (s : State) (c : Bool) (x : HallSrc) (i : Nat) : (s.irqIf c x i).stp = s.stp := by cases c <;> rfl
@[simp] theorem State.irqIf_cores (s : State) (c : Bool) (x : HallSrc) (i : Nat) : (s.irqIf c x i).cores = s.cores := by cases c <;> rfl
@[simp] theorem State.irqIf_querns (s : State) (c : Bool) (x : HallSrc) (i : Nat) : (s.irqIf c x i).querns = s.querns := by cases c <;> rfl
@[simp] theorem State.irqIf_reeve (s : State) (c : Bool) (x : HallSrc) (i : Nat) : (s.irqIf c x i).reeve = s.reeve := by cases c <;> rfl
@[simp] theorem State.irqIf_ws (s : State) (c : Bool) (x : HallSrc) (i : Nat) : (s.irqIf c x i).ws = s.ws := by cases c <;> rfl
@[simp] theorem State.irqIf_sv (s : State) (c : Bool) (x : HallSrc) (i : Nat) : (s.irqIf c x i).sv = s.sv := by cases c <;> rfl
@[simp] theorem State.irqIf_ms (s : State) (c : Bool) (x : HallSrc) (i : Nat) : (s.irqIf c x i).ms = s.ms := by cases c <;> rfl
@[simp] theorem State.irqIf_net (s : State) (c : Bool) (x : HallSrc) (i : Nat) : (s.irqIf c x i).net = s.net := by cases c <;> rfl
@[simp] theorem State.irqIf_tally (s : State) (c : Bool) (x : HallSrc) (i : Nat) : (s.irqIf c x i).tally = s.tally := by cases c <;> rfl
@[simp] theorem State.irqIf_crt (s : State) (c : Bool) (x : HallSrc) (i : Nat) : (s.irqIf c x i).crt = s.crt := by cases c <;> rfl
@[simp] theorem State.irqIf_ewl (s : State) (c : Bool) (x : HallSrc) (i : Nat) : (s.irqIf c x i).ewl = s.ewl := by cases c <;> rfl
@[simp] theorem State.irqIf_mkt (s : State) (c : Bool) (x : HallSrc) (i : Nat) : (s.irqIf c x i).mkt = s.mkt := by cases c <;> rfl
@[simp] theorem State.irqIf_host (s : State) (c : Bool) (x : HallSrc) (i : Nat) : (s.irqIf c x i).host = s.host := by cases c <;> rfl
@[simp] theorem State.irqIf_cop (s : State) (c : Bool) (x : HallSrc) (i : Nat) : (s.irqIf c x i).cop = s.cop := by cases c <;> rfl
@[simp] theorem State.irqIf_strong (s : State) (c : Bool) (x : HallSrc) (i : Nat) : (s.irqIf c x i).strong = s.strong := by cases c <;> rfl
@[simp] theorem State.irqIf_boot (s : State) (c : Bool) (x : HallSrc) (i : Nat) : (s.irqIf c x i).boot = s.boot := by cases c <;> rfl
@[simp] theorem State.irqIf_pins (s : State) (c : Bool) (x : HallSrc) (i : Nat) : (s.irqIf c x i).pins = s.pins := by cases c <;> rfl
@[simp] theorem State.irqIf_hml (s : State) (c : Bool) (x : HallSrc) (i : Nat) : (s.irqIf c x i).hml = s.hml := by cases c <;> rfl
@[simp] theorem State.irqIf_pwr (s : State) (c : Bool) (x : HallSrc) (i : Nat) : (s.irqIf c x i).pwr = s.pwr := by cases c <;> rfl
@[simp] theorem State.irqIf_dbg (s : State) (c : Bool) (x : HallSrc) (i : Nat) : (s.irqIf c x i).dbg = s.dbg := by cases c <;> rfl
@[simp] theorem State.irqHost_pending (s : State) (i : Nat) : (s.irqHost i).pending = s.pending := rfl
@[simp] theorem State.irqHost_regs (s : State) (i : Nat) : (s.irqHost i).regs = s.regs := rfl
@[simp] theorem State.irqHost_ans (s : State) (i : Nat) : (s.irqHost i).ans = s.ans := rfl
@[simp] theorem State.irqHost_hallIrq (s : State) (i : Nat) : (s.irqHost i).hallIrq = s.hallIrq := rfl
@[simp] theorem State.irqHost_sent (s : State) (i : Nat) : (s.irqHost i).sent = s.sent := rfl
@[simp] theorem State.irqHost_free (s : State) (i : Nat) : (s.irqHost i).free = s.free := rfl
@[simp] theorem State.irqHost_stp (s : State) (i : Nat) : (s.irqHost i).stp = s.stp := rfl
@[simp] theorem State.irqHost_cores (s : State) (i : Nat) : (s.irqHost i).cores = s.cores := rfl
@[simp] theorem State.irqHost_querns (s : State) (i : Nat) : (s.irqHost i).querns = s.querns := rfl
@[simp] theorem State.irqHost_reeve (s : State) (i : Nat) : (s.irqHost i).reeve = s.reeve := rfl
@[simp] theorem State.irqHost_ws (s : State) (i : Nat) : (s.irqHost i).ws = s.ws := rfl
@[simp] theorem State.irqHost_sv (s : State) (i : Nat) : (s.irqHost i).sv = s.sv := rfl
@[simp] theorem State.irqHost_ms (s : State) (i : Nat) : (s.irqHost i).ms = s.ms := rfl
@[simp] theorem State.irqHost_net (s : State) (i : Nat) : (s.irqHost i).net = s.net := rfl
@[simp] theorem State.irqHost_tally (s : State) (i : Nat) : (s.irqHost i).tally = s.tally := rfl
@[simp] theorem State.irqHost_crt (s : State) (i : Nat) : (s.irqHost i).crt = s.crt := rfl
@[simp] theorem State.irqHost_ewl (s : State) (i : Nat) : (s.irqHost i).ewl = s.ewl := rfl
@[simp] theorem State.irqHost_mkt (s : State) (i : Nat) : (s.irqHost i).mkt = s.mkt := rfl
@[simp] theorem State.irqHost_host (s : State) (i : Nat) : (s.irqHost i).host = s.host := rfl
@[simp] theorem State.irqHost_cop (s : State) (i : Nat) : (s.irqHost i).cop = s.cop := rfl
@[simp] theorem State.irqHost_strong (s : State) (i : Nat) : (s.irqHost i).strong = s.strong := rfl
@[simp] theorem State.irqHost_boot (s : State) (i : Nat) : (s.irqHost i).boot = s.boot := rfl
@[simp] theorem State.irqHost_pins (s : State) (i : Nat) : (s.irqHost i).pins = s.pins := rfl
@[simp] theorem State.irqHost_hml (s : State) (i : Nat) : (s.irqHost i).hml = s.hml := rfl
@[simp] theorem State.irqHost_pwr (s : State) (i : Nat) : (s.irqHost i).pwr = s.pwr := rfl
@[simp] theorem State.irqHost_dbg (s : State) (i : Nat) : (s.irqHost i).dbg = s.dbg := rfl
@[simp] theorem State.send_pending (s : State) (m : Sent) : (s.send m).pending = s.pending := rfl
@[simp] theorem State.send_regs (s : State) (m : Sent) : (s.send m).regs = s.regs := rfl
@[simp] theorem State.send_ans (s : State) (m : Sent) : (s.send m).ans = s.ans := rfl
@[simp] theorem State.send_hallIrq (s : State) (m : Sent) : (s.send m).hallIrq = s.hallIrq := rfl
@[simp] theorem State.send_hostIrq (s : State) (m : Sent) : (s.send m).hostIrq = s.hostIrq := rfl
@[simp] theorem State.send_free (s : State) (m : Sent) : (s.send m).free = s.free := rfl
@[simp] theorem State.send_stp (s : State) (m : Sent) : (s.send m).stp = s.stp := rfl
@[simp] theorem State.send_cores (s : State) (m : Sent) : (s.send m).cores = s.cores := rfl
@[simp] theorem State.send_querns (s : State) (m : Sent) : (s.send m).querns = s.querns := rfl
@[simp] theorem State.send_reeve (s : State) (m : Sent) : (s.send m).reeve = s.reeve := rfl
@[simp] theorem State.send_ws (s : State) (m : Sent) : (s.send m).ws = s.ws := rfl
@[simp] theorem State.send_sv (s : State) (m : Sent) : (s.send m).sv = s.sv := rfl
@[simp] theorem State.send_ms (s : State) (m : Sent) : (s.send m).ms = s.ms := rfl
@[simp] theorem State.send_net (s : State) (m : Sent) : (s.send m).net = s.net := rfl
@[simp] theorem State.send_tally (s : State) (m : Sent) : (s.send m).tally = s.tally := rfl
@[simp] theorem State.send_crt (s : State) (m : Sent) : (s.send m).crt = s.crt := rfl
@[simp] theorem State.send_ewl (s : State) (m : Sent) : (s.send m).ewl = s.ewl := rfl
@[simp] theorem State.send_mkt (s : State) (m : Sent) : (s.send m).mkt = s.mkt := rfl
@[simp] theorem State.send_host (s : State) (m : Sent) : (s.send m).host = s.host := rfl
@[simp] theorem State.send_cop (s : State) (m : Sent) : (s.send m).cop = s.cop := rfl
@[simp] theorem State.send_strong (s : State) (m : Sent) : (s.send m).strong = s.strong := rfl
@[simp] theorem State.send_boot (s : State) (m : Sent) : (s.send m).boot = s.boot := rfl
@[simp] theorem State.send_pins (s : State) (m : Sent) : (s.send m).pins = s.pins := rfl
@[simp] theorem State.send_hml (s : State) (m : Sent) : (s.send m).hml = s.hml := rfl
@[simp] theorem State.send_pwr (s : State) (m : Sent) : (s.send m).pwr = s.pwr := rfl
@[simp] theorem State.send_dbg (s : State) (m : Sent) : (s.send m).dbg = s.dbg := rfl
@[simp] theorem State.loseRecord_pending (s : State) (k : Nat) : (s.loseRecord k).pending = s.pending := rfl
@[simp] theorem State.loseRecord_regs (s : State) (k : Nat) : (s.loseRecord k).regs = s.regs := rfl
@[simp] theorem State.loseRecord_ans (s : State) (k : Nat) : (s.loseRecord k).ans = s.ans := rfl
@[simp] theorem State.loseRecord_hallIrq (s : State) (k : Nat) : (s.loseRecord k).hallIrq = s.hallIrq := rfl
@[simp] theorem State.loseRecord_hostIrq (s : State) (k : Nat) : (s.loseRecord k).hostIrq = s.hostIrq := rfl
@[simp] theorem State.loseRecord_sent (s : State) (k : Nat) : (s.loseRecord k).sent = s.sent := rfl
@[simp] theorem State.loseRecord_free (s : State) (k : Nat) : (s.loseRecord k).free = s.free := rfl
@[simp] theorem State.loseRecord_stp (s : State) (k : Nat) : (s.loseRecord k).stp = s.stp := rfl
@[simp] theorem State.loseRecord_cores (s : State) (k : Nat) : (s.loseRecord k).cores = s.cores := rfl
@[simp] theorem State.loseRecord_querns (s : State) (k : Nat) : (s.loseRecord k).querns = s.querns := rfl
@[simp] theorem State.loseRecord_reeve (s : State) (k : Nat) : (s.loseRecord k).reeve = s.reeve := rfl
@[simp] theorem State.loseRecord_ws (s : State) (k : Nat) : (s.loseRecord k).ws = s.ws := rfl
@[simp] theorem State.loseRecord_sv (s : State) (k : Nat) : (s.loseRecord k).sv = s.sv := rfl
@[simp] theorem State.loseRecord_ms (s : State) (k : Nat) : (s.loseRecord k).ms = s.ms := rfl
@[simp] theorem State.loseRecord_net (s : State) (k : Nat) : (s.loseRecord k).net = s.net := rfl
@[simp] theorem State.loseRecord_tally (s : State) (k : Nat) : (s.loseRecord k).tally = s.tally := rfl
@[simp] theorem State.loseRecord_crt (s : State) (k : Nat) : (s.loseRecord k).crt = s.crt := rfl
@[simp] theorem State.loseRecord_ewl (s : State) (k : Nat) : (s.loseRecord k).ewl = s.ewl := rfl
@[simp] theorem State.loseRecord_mkt (s : State) (k : Nat) : (s.loseRecord k).mkt = s.mkt := rfl
@[simp] theorem State.loseRecord_host (s : State) (k : Nat) : (s.loseRecord k).host = s.host := rfl
@[simp] theorem State.loseRecord_cop (s : State) (k : Nat) : (s.loseRecord k).cop = s.cop := rfl
@[simp] theorem State.loseRecord_strong (s : State) (k : Nat) : (s.loseRecord k).strong = s.strong := rfl
@[simp] theorem State.loseRecord_boot (s : State) (k : Nat) : (s.loseRecord k).boot = s.boot := rfl
@[simp] theorem State.loseRecord_pins (s : State) (k : Nat) : (s.loseRecord k).pins = s.pins := rfl
@[simp] theorem State.loseRecord_hml (s : State) (k : Nat) : (s.loseRecord k).hml = s.hml := rfl
@[simp] theorem State.loseRecord_pwr (s : State) (k : Nat) : (s.loseRecord k).pwr = s.pwr := rfl
@[simp] theorem State.raise_pending (s : State) (e : HearthEvent) : (s.raise e).pending = s.pending := rfl
@[simp] theorem State.raise_regs (s : State) (e : HearthEvent) : (s.raise e).regs = s.regs := rfl
@[simp] theorem State.raise_ans (s : State) (e : HearthEvent) : (s.raise e).ans = s.ans := rfl
@[simp] theorem State.raise_hallIrq (s : State) (e : HearthEvent) : (s.raise e).hallIrq = s.hallIrq := rfl
@[simp] theorem State.raise_hostIrq (s : State) (e : HearthEvent) : (s.raise e).hostIrq = s.hostIrq := rfl
@[simp] theorem State.raise_sent (s : State) (e : HearthEvent) : (s.raise e).sent = s.sent := rfl
@[simp] theorem State.raise_free (s : State) (e : HearthEvent) : (s.raise e).free = s.free := rfl
@[simp] theorem State.raise_stp (s : State) (e : HearthEvent) : (s.raise e).stp = s.stp := rfl
@[simp] theorem State.raise_cores (s : State) (e : HearthEvent) : (s.raise e).cores = s.cores := rfl
@[simp] theorem State.raise_querns (s : State) (e : HearthEvent) : (s.raise e).querns = s.querns := rfl
@[simp] theorem State.raise_reeve (s : State) (e : HearthEvent) : (s.raise e).reeve = s.reeve := rfl
@[simp] theorem State.raise_ws (s : State) (e : HearthEvent) : (s.raise e).ws = s.ws := rfl
@[simp] theorem State.raise_sv (s : State) (e : HearthEvent) : (s.raise e).sv = s.sv := rfl
@[simp] theorem State.raise_ms (s : State) (e : HearthEvent) : (s.raise e).ms = s.ms := rfl
@[simp] theorem State.raise_net (s : State) (e : HearthEvent) : (s.raise e).net = s.net := rfl
@[simp] theorem State.raise_tally (s : State) (e : HearthEvent) : (s.raise e).tally = s.tally := rfl
@[simp] theorem State.raise_crt (s : State) (e : HearthEvent) : (s.raise e).crt = s.crt := rfl
@[simp] theorem State.raise_ewl (s : State) (e : HearthEvent) : (s.raise e).ewl = s.ewl := rfl
@[simp] theorem State.raise_mkt (s : State) (e : HearthEvent) : (s.raise e).mkt = s.mkt := rfl
@[simp] theorem State.raise_host (s : State) (e : HearthEvent) : (s.raise e).host = s.host := rfl
@[simp] theorem State.raise_cop (s : State) (e : HearthEvent) : (s.raise e).cop = s.cop := rfl
@[simp] theorem State.raise_strong (s : State) (e : HearthEvent) : (s.raise e).strong = s.strong := rfl
@[simp] theorem State.raise_boot (s : State) (e : HearthEvent) : (s.raise e).boot = s.boot := rfl
@[simp] theorem State.raise_pins (s : State) (e : HearthEvent) : (s.raise e).pins = s.pins := rfl
@[simp] theorem State.raise_hml (s : State) (e : HearthEvent) : (s.raise e).hml = s.hml := rfl
@[simp] theorem State.raise_pwr (s : State) (e : HearthEvent) : (s.raise e).pwr = s.pwr := rfl
@[simp] theorem State.setMem_pending (s : State) (m : Memory) : (s.setMem m).pending = s.pending := rfl
@[simp] theorem State.setMem_regs (s : State) (m : Memory) : (s.setMem m).regs = s.regs := rfl
@[simp] theorem State.setMem_ans (s : State) (m : Memory) : (s.setMem m).ans = s.ans := rfl
@[simp] theorem State.setMem_hallIrq (s : State) (m : Memory) : (s.setMem m).hallIrq = s.hallIrq := rfl
@[simp] theorem State.setMem_hostIrq (s : State) (m : Memory) : (s.setMem m).hostIrq = s.hostIrq := rfl
@[simp] theorem State.setMem_sent (s : State) (m : Memory) : (s.setMem m).sent = s.sent := rfl
@[simp] theorem State.setMem_free (s : State) (m : Memory) : (s.setMem m).free = s.free := rfl
@[simp] theorem State.setMem_stp (s : State) (m : Memory) : (s.setMem m).stp = s.stp := rfl
@[simp] theorem State.setMem_cores (s : State) (m : Memory) : (s.setMem m).cores = s.cores := rfl
@[simp] theorem State.setMem_querns (s : State) (m : Memory) : (s.setMem m).querns = s.querns := rfl
@[simp] theorem State.setMem_reeve (s : State) (m : Memory) : (s.setMem m).reeve = s.reeve := rfl
@[simp] theorem State.setMem_ws (s : State) (m : Memory) : (s.setMem m).ws = s.ws := rfl
@[simp] theorem State.setMem_sv (s : State) (m : Memory) : (s.setMem m).sv = s.sv := rfl
@[simp] theorem State.setMem_net (s : State) (m : Memory) : (s.setMem m).net = s.net := rfl
@[simp] theorem State.setMem_tally (s : State) (m : Memory) : (s.setMem m).tally = s.tally := rfl
@[simp] theorem State.setMem_crt (s : State) (m : Memory) : (s.setMem m).crt = s.crt := rfl
@[simp] theorem State.setMem_ewl (s : State) (m : Memory) : (s.setMem m).ewl = s.ewl := rfl
@[simp] theorem State.setMem_mkt (s : State) (m : Memory) : (s.setMem m).mkt = s.mkt := rfl
@[simp] theorem State.setMem_host (s : State) (m : Memory) : (s.setMem m).host = s.host := rfl
@[simp] theorem State.setMem_cop (s : State) (m : Memory) : (s.setMem m).cop = s.cop := rfl
@[simp] theorem State.setMem_strong (s : State) (m : Memory) : (s.setMem m).strong = s.strong := rfl
@[simp] theorem State.setMem_boot (s : State) (m : Memory) : (s.setMem m).boot = s.boot := rfl
@[simp] theorem State.setMem_pins (s : State) (m : Memory) : (s.setMem m).pins = s.pins := rfl
@[simp] theorem State.setMem_hml (s : State) (m : Memory) : (s.setMem m).hml = s.hml := rfl
@[simp] theorem State.setMem_pwr (s : State) (m : Memory) : (s.setMem m).pwr = s.pwr := rfl
@[simp] theorem State.setMem_dbg (s : State) (m : Memory) : (s.setMem m).dbg = s.dbg := rfl

/-! ## Registers after an update -/

/-- A register reads the same in every state with the same register file. -/
theorem State.rd_congr {s t : State} (h : t.regs = s.regs) (f : Fld) : t.rd f = s.rd f := by simp [State.rd, h]
theorem State.bit_congr {s t : State} (h : t.regs = s.regs) (f : Fld) : t.bit f = s.bit f := by simp [State.bit, h]

@[simp] theorem State.reply_rd (s : State) (a : Answer) (g : Fld) : (s.reply a).rd g = s.rd g := State.rd_congr (by simp) g
@[simp] theorem State.reply_bit (s : State) (a : Answer) (g : Fld) : (s.reply a).bit g = s.bit g := State.bit_congr (by simp) g
@[simp] theorem State.ack_rd (s : State) (g : Fld) : (s.ack).rd g = s.rd g := State.rd_congr (by simp) g
@[simp] theorem State.ack_bit (s : State) (g : Fld) : (s.ack).bit g = s.bit g := State.bit_congr (by simp) g
@[simp] theorem State.refusedAns_rd (s : State) (g : Fld) : (s.refusedAns).rd g = s.rd g := State.rd_congr (by simp) g
@[simp] theorem State.refusedAns_bit (s : State) (g : Fld) : (s.refusedAns).bit g = s.bit g := State.bit_congr (by simp) g
@[simp] theorem State.irq_rd (s : State) (x : HallSrc) (i : Nat) (g : Fld) : (s.irq x i).rd g = s.rd g := State.rd_congr (by simp) g
@[simp] theorem State.irq_bit (s : State) (x : HallSrc) (i : Nat) (g : Fld) : (s.irq x i).bit g = s.bit g := State.bit_congr (by simp) g
@[simp] theorem State.irqIf_rd (s : State) (c : Bool) (x : HallSrc) (i : Nat) (g : Fld) : (s.irqIf c x i).rd g = s.rd g := State.rd_congr (by simp) g
@[simp] theorem State.irqIf_bit (s : State) (c : Bool) (x : HallSrc) (i : Nat) (g : Fld) : (s.irqIf c x i).bit g = s.bit g := State.bit_congr (by simp) g
@[simp] theorem State.irqHost_rd (s : State) (i : Nat) (g : Fld) : (s.irqHost i).rd g = s.rd g := State.rd_congr (by simp) g
@[simp] theorem State.irqHost_bit (s : State) (i : Nat) (g : Fld) : (s.irqHost i).bit g = s.bit g := State.bit_congr (by simp) g
@[simp] theorem State.send_rd (s : State) (m : Sent) (g : Fld) : (s.send m).rd g = s.rd g := State.rd_congr (by simp) g
@[simp] theorem State.send_bit (s : State) (m : Sent) (g : Fld) : (s.send m).bit g = s.bit g := State.bit_congr (by simp) g
@[simp] theorem State.loseRecord_rd (s : State) (k : Nat) (g : Fld) : (s.loseRecord k).rd g = s.rd g := State.rd_congr (by simp) g
@[simp] theorem State.loseRecord_bit (s : State) (k : Nat) (g : Fld) : (s.loseRecord k).bit g = s.bit g := State.bit_congr (by simp) g
@[simp] theorem State.raise_rd (s : State) (e : HearthEvent) (g : Fld) : (s.raise e).rd g = s.rd g := State.rd_congr (by simp) g
@[simp] theorem State.raise_bit (s : State) (e : HearthEvent) (g : Fld) : (s.raise e).bit g = s.bit g := State.bit_congr (by simp) g
@[simp] theorem State.setMem_rd (s : State) (m : Memory) (g : Fld) : (s.setMem m).rd g = s.rd g := State.rd_congr (by simp) g
@[simp] theorem State.setMem_bit (s : State) (m : Memory) (g : Fld) : (s.setMem m).bit g = s.bit g := State.bit_congr (by simp) g

/-- A state with other parts than its registers replaced reads every register as before. -/
@[simp] theorem State.mk_rd (pending ans hallIrq hostIrq sent free stp cores querns reeve ws sv ms net tally crt ewl mkt host cop strong boot pins hml pwr dbg) (regs : RegFile) (fld : Fld) :
    (State.mk pending regs ans hallIrq hostIrq sent free stp cores querns reeve ws sv ms net tally crt ewl mkt host cop strong boot pins hml pwr dbg).rd fld = regs.rd fld := rfl
@[simp] theorem State.mk_bit (pending ans hallIrq hostIrq sent free stp cores querns reeve ws sv ms net tally crt ewl mkt host cop strong boot pins hml pwr dbg) (regs : RegFile) (fld : Fld) :
    (State.mk pending regs ans hallIrq hostIrq sent free stp cores querns reeve ws sv ms net tally crt ewl mkt host cop strong boot pins hml pwr dbg).bit fld = decide (regs.rd fld ≠ 0) := rfl
@[simp] theorem State.regs_rd (s : State) (f : Fld) : s.regs.rd f = s.rd f := rfl

@[simp] theorem State.wr_rd_same (s : State) (f : Fld) (v : Nat) : (s.wr f v).rd f = v % 2 ^ f.w := RegFile.rd_wr_same s.regs f v
theorem State.wr_rd_ne (s : State) (f g : Fld) (v : Nat) (h : g.key ≠ f.key) : (s.wr f v).rd g = s.rd g :=
  RegFile.rd_wr_ne s.regs f g v h
@[simp] theorem State.wrB_rd_same (s : State) (f : Fld) (b : Bool) : (s.wrB f b).rd f = (if b then 1 else 0) % 2 ^ f.w :=
  State.wr_rd_same s f _
theorem State.wrB_rd_ne (s : State) (f g : Fld) (b : Bool) (h : g.key ≠ f.key) : (s.wrB f b).rd g = s.rd g :=
  State.wr_rd_ne s f g _ h
@[simp] theorem State.add_rd_same (s : State) (f : Fld) (n : Nat) : (s.add f n).rd f = (s.rd f + n) % 2 ^ f.w := State.wr_rd_same s f _
theorem State.add_rd_ne (s : State) (f g : Fld) (n : Nat) (h : g.key ≠ f.key) : (s.add f n).rd g = s.rd g := State.wr_rd_ne s f g _ h
@[simp] theorem State.inc_rd_same (s : State) (f : Fld) : (s.inc f).rd f = (s.rd f + 1) % 2 ^ f.w := State.add_rd_same s f 1
theorem State.inc_rd_ne (s : State) (f g : Fld) (h : g.key ≠ f.key) : (s.inc f).rd g = s.rd g := State.add_rd_ne s f g 1 h
theorem State.dec_rd_ne (s : State) (f g : Fld) (h : g.key ≠ f.key) : (s.dec f).rd g = s.rd g := State.wr_rd_ne s f g _ h
theorem State.addSat_rd_ne (s : State) (f g : Fld) (n : Nat) (h : g.key ≠ f.key) : (s.addSat f n).rd g = s.rd g := State.wr_rd_ne s f g _ h
theorem State.incSat_rd_ne (s : State) (f g : Fld) (h : g.key ≠ f.key) : (s.incSat f).rd g = s.rd g := State.addSat_rd_ne s f g 1 h

/-- A saturating counter stays at its largest value. -/
theorem State.incSat_rd_same (s : State) (f : Fld) : (s.incSat f).rd f = min (s.rd f + 1) (2 ^ f.w - 1) := by
  simp only [State.incSat, State.addSat, State.wr_rd_same]
  exact Nat.mod_eq_of_lt (by have := Nat.two_pow_pos f.w; omega)

theorem State.rd_lt (s : State) (f : Fld) : s.rd f < 2 ^ f.w := RegFile.rd_lt s.regs f
theorem State.bit_eq (s : State) (f : Fld) : s.bit f = decide (s.rd f ≠ 0) := rfl
theorem State.wr_bit_same (s : State) (f : Fld) (v : Nat) : (s.wr f v).bit f = decide (v % 2 ^ f.w ≠ 0) := by simp [State.bit_eq]
theorem State.wr_bit_ne (s : State) (f g : Fld) (v : Nat) (h : g.key ≠ f.key) : (s.wr f v).bit g = s.bit g := by
  simp [State.bit_eq, State.wr_rd_ne s f g v h]

/-- A field that no listed field shares its place with reads as before. -/
theorem State.wrWord_rd_ne (v : Word) (g : Fld) : ∀ (fs : List Fld) (s : State), (∀ f ∈ fs, g.key ≠ f.key) →
    (s.wrWord v fs).rd g = s.rd g
  | [], _, _ => rfl
  | f :: r, s, h => by
    have := State.wrWord_rd_ne v g r (s.wr f (f.of v)) (fun x hx => h x (List.mem_cons_of_mem _ hx))
    rw [show s.wrWord v (f :: r) = (s.wr f (f.of v)).wrWord v r from rfl, this, State.wr_rd_ne s f g _ (h f (List.mem_cons_self))]

theorem State.w1c_rd_ne (v : Word) (g : Fld) : ∀ (fs : List Fld) (s : State), (∀ f ∈ fs, g.key ≠ f.key) →
    (s.w1c v fs).rd g = s.rd g
  | [], _, _ => rfl
  | f :: r, s, h => by
    have := State.w1c_rd_ne v g r (s.wr f ((BitVec.ofNat f.w (s.rd f)) &&& ~~~(BitVec.ofNat f.w (f.of v))).toNat) (fun x hx => h x (List.mem_cons_of_mem _ hx))
    rw [show s.w1c v (f :: r) = (s.wr f ((BitVec.ofNat f.w (s.rd f)) &&& ~~~(BitVec.ofNat f.w (f.of v))).toNat).w1c v r from rfl,
      this, State.wr_rd_ne s f g _ (h f (List.mem_cons_self))]

end Sys2Proof.Machine
end

