-- ==== Sys2Proof/Laws/Keeps.lean ====
section
/-! SUPPORT. Laws/Keeps.lean: what an operation of the machine may do to the state: it changes the listed parts only, and keeps
the canonical form of the memory and of the register file. One rule for every update of a record, and for folds. -/

namespace Sys2Proof.Machine

/-- The canonical forms of the memory and of the register file. -/
def State.canonical (s : State) : Prop := s.ms.mem.wf = true ∧ s.regs.tab.wf = true

/-- From `s` to `t` only the parts `l` differ, and the canonical forms are kept. -/
def Keeps (l : List Part) (s t : State) : Prop := only l s t ∧ (s.ms.mem.wf = true → t.ms.mem.wf = true) ∧
  (s.regs.tab.wf = true → t.regs.tab.wf = true)

variable {l : List Part} {s t u : State}

theorem Keeps.refl (l : List Part) (s : State) : Keeps l s s := by
  refine ⟨fun p _ => ?_, id, id⟩
  cases p <;> rfl

theorem Part.same_trans (p : Part) (h : p.same s t) (k : p.same t u) : p.same s u := by
  cases p <;> first | exact Eq.trans k h | (have h' : t.ms = { s.ms with mem := t.ms.mem } := h; exact Eq.trans k (by rw [h']))

theorem Keeps.trans (h : Keeps l s t) (k : Keeps l t u) : Keeps l s u :=
  ⟨fun p hp => p.same_trans (h.1 p hp) (k.1 p hp), k.2.1 ∘ h.2.1, k.2.2 ∘ h.2.2⟩

theorem Keeps.mono {l' : List Part} (h : Keeps l s t) (hl : l ⊆ l') : Keeps l' s t :=
  ⟨fun p hp => h.1 p (fun h' => hp (hl h')), h.2⟩

theorem Keeps.canonical (h : Keeps l s t) (c : s.canonical) : t.canonical := ⟨h.2.1 c.1, h.2.2 c.2⟩

theorem keeps_foldl {α : Type} (g : State → α → State) (hg : ∀ t a, Keeps l s t → Keeps l s (g t a)) :
    ∀ (xs : List α) (t : State), Keeps l s t → Keeps l s (xs.foldl g t)
  | [], _, h => h
  | a :: r, t, h => keeps_foldl g hg r (g t a) (hg t a h)

theorem keeps_foldl_snd {α β : Type} (g : β × State → α → β × State) (hg : ∀ x a, Keeps l s x.2 → Keeps l s (g x a).2) :
    ∀ (xs : List α) (x : β × State), Keeps l s x.2 → Keeps l s (xs.foldl g x).2
  | [], _, h => h
  | a :: r, x, h => keeps_foldl_snd g hg r (g x a) (hg x a h)

theorem Keeps.snd_eq {α : Type} {p : α × State} {x : α} {w : State} (e : p = (x, w)) (k : Keeps l s p.2) : Keeps l s w := by
  rwa [e] at k

theorem Keeps.snd_eq3 {α β : Type} {p : α × β × State} {x : α} {y : β} {w : State} (e : p = (x, y, w)) (k : Keeps l s p.2.2) :
    Keeps l s w := by
  rwa [e] at k

/-- Where a command completes, only the parts `l` differ and the canonical forms are kept. -/
structure KeepsOut (l : List Part) (s : State) (o : Outc) : Prop where
  keeps : ∀ t, o = .next t → Keeps l s t

theorem keepsOut_next (h : Keeps l s t) : KeepsOut l s (.next t) := by
  refine ⟨fun u e => ?_⟩
  injection e with e
  exact e ▸ h

theorem keepsOut_fault (f : Fault) : KeepsOut l s (.fault f) := ⟨fun _ e => nomatch e⟩

theorem keepsOut_ite {c : Prop} [Decidable c] {a b : Outc} (ha : KeepsOut l s a) (hb : KeepsOut l s b) :
    KeepsOut l s (if c then a else b) := by
  split
  · exact ha
  · exact hb

theorem keeps_ite {c : Prop} [Decidable c] {a b : State} (ha : Keeps l s a) (hb : Keeps l s b) : Keeps l s (if c then a else b) := by
  split
  · exact ha
  · exact hb

theorem keeps_wr (h : Keeps l s t) (h1 : Part.regs ∈ l) (f : Fld) (v : Nat) : Keeps l s (t.wr f v) := by
  refine h.trans ⟨fun p hp => ?_, id, RegFile.wf_wr t.regs f v⟩
  cases p <;> first | rfl | exact absurd h1 hp

/-! ## Memory -/

theorem wf_setBytes (d : Tab Byte) (a : Nat) (x : DWord) : ∀ n, d.wf = true → (setBytes d a x n).wf = true
  | 0, h => h
  | n + 1, h => Tab.wf_set _ _ _ (wf_setBytes d a x n h)

theorem Memory.wf_putRaw (m : Memory) (a : Nat) (d : DWord) (c : Byte) (h : m.wf = true) : (m.putRaw a d c).wf = true := by
  simp only [Memory.wf, Bool.and_eq_true] at h ⊢
  exact ⟨wf_setBytes m.data a d 8 h.1, Tab.wf_set m.check a c h.2⟩

theorem Memory.wf_put (m : Memory) (a : Nat) (w : PWord) (h : m.wf = true) : (m.put a w).wf = true := m.wf_putRaw a _ _ h

theorem Memory.wf_fill (m : Memory) (a b : Nat) (h : m.wf = true) : (m.fill a b).wf = true := by
  simp only [Memory.wf, Bool.and_eq_true] at h ⊢
  exact ⟨Tab.wf_clear m.data _ h.1, Tab.wf_clear m.check _ h.2⟩

theorem Memory.wf_foldl {α : Type} (g : Memory → α → Memory) (hg : ∀ m a, m.wf = true → (g m a).wf = true) :
    ∀ (xs : List α) (m : Memory), m.wf = true → (xs.foldl g m).wf = true
  | [], _, h => h
  | a :: r, m, h => Memory.wf_foldl g hg r (g m a) (hg m a h)

theorem keeps_setMem (h : Keeps l s t) (h1 : Part.mem ∈ l) (m : Memory) (hm : t.ms.mem.wf = true → m.wf = true) : Keeps l s (t.setMem m) := by
  refine h.trans ⟨fun p hp => ?_, hm, id⟩
  cases p <;> first | rfl | exact absurd h1 hp

/-! ## Updates of records -/

theorem keeps_set_ans (h : Keeps l s t) (h1 : Part.ans ∈ l) (x0 : Answer) :
    Keeps l s { t with ans := x0 } := by
  refine h.trans ⟨fun p hp => ?_, id, id⟩
  cases p <;> first | rfl | exact absurd h1 hp

theorem keeps_set_boot (h : Keeps l s t) (h1 : Part.boot ∈ l) (x0 : Boot) :
    Keeps l s { t with boot := x0 } := by
  refine h.trans ⟨fun p hp => ?_, id, id⟩
  cases p <;> first | rfl | exact absurd h1 hp

theorem keeps_set_cop (h : Keeps l s t) (h1 : Part.cop ∈ l) (x0 : Coppice) :
    Keeps l s { t with cop := x0 } := by
  refine h.trans ⟨fun p hp => ?_, id, id⟩
  cases p <;> first | rfl | exact absurd h1 hp

theorem keeps_set_cores (h : Keeps l s t) (h1 : Part.cores ∈ l) (x0 : Tab Core) :
    Keeps l s { t with cores := x0 } := by
  refine h.trans ⟨fun p hp => ?_, id, id⟩
  cases p <;> first | rfl | exact absurd h1 hp

theorem keeps_set_crt (h : Keeps l s t) (h1 : Part.crt ∈ l) (x0 : Carters) :
    Keeps l s { t with crt := x0 } := by
  refine h.trans ⟨fun p hp => ?_, id, id⟩
  cases p <;> first | rfl | exact absurd h1 hp

theorem keeps_set_dbg (h : Keeps l s t) (h1 : Part.dbg ∈ l) (x0 : Debug) :
    Keeps l s { t with dbg := x0 } := by
  refine h.trans ⟨fun p hp => ?_, id, id⟩
  cases p <;> first | rfl | exact absurd h1 hp

theorem keeps_set_ewl (h : Keeps l s t) (h1 : Part.ewl ∈ l) (x0 : Ewenual) :
    Keeps l s { t with ewl := x0 } := by
  refine h.trans ⟨fun p hp => ?_, id, id⟩
  cases p <;> first | rfl | exact absurd h1 hp

theorem keeps_set_free (h : Keeps l s t) (h1 : Part.free ∈ l) (x0 : Nat) :
    Keeps l s { t with free := x0 } := by
  refine h.trans ⟨fun p hp => ?_, id, id⟩
  cases p <;> first | rfl | exact absurd h1 hp

theorem keeps_set_hallIrq (h : Keeps l s t) (h1 : Part.hallIrq ∈ l) (x0 : List HallIrq) :
    Keeps l s { t with hallIrq := x0 } := by
  refine h.trans ⟨fun p hp => ?_, id, id⟩
  cases p <;> first | rfl | exact absurd h1 hp

theorem keeps_set_hml (h : Keeps l s t) (h1 : Part.hml ∈ l) (x0 : Hamlets) :
    Keeps l s { t with hml := x0 } := by
  refine h.trans ⟨fun p hp => ?_, id, id⟩
  cases p <;> first | rfl | exact absurd h1 hp

theorem keeps_set_host (h : Keeps l s t) (h1 : Part.host ∈ l) (x0 : HostIf) :
    Keeps l s { t with host := x0 } := by
  refine h.trans ⟨fun p hp => ?_, id, id⟩
  cases p <;> first | rfl | exact absurd h1 hp

theorem keeps_set_hostIrq (h : Keeps l s t) (h1 : Part.hostIrq ∈ l) (x0 : List Nat) :
    Keeps l s { t with hostIrq := x0 } := by
  refine h.trans ⟨fun p hp => ?_, id, id⟩
  cases p <;> first | rfl | exact absurd h1 hp

theorem keeps_set_mkt (h : Keeps l s t) (h1 : Part.mkt ∈ l) (x0 : Market) :
    Keeps l s { t with mkt := x0 } := by
  refine h.trans ⟨fun p hp => ?_, id, id⟩
  cases p <;> first | rfl | exact absurd h1 hp

theorem keeps_set_ms (h : Keeps l s t) (h1 : Part.ms ∈ l) (x0 : MemSys) (hm : x0.mem = t.ms.mem) :
    Keeps l s { t with ms := x0 } := by
  refine h.trans ⟨fun p hp => ?_, fun w => by simpa [hm] using w, id⟩
  cases p <;> first | rfl | exact absurd h1 hp | exact hm

theorem keeps_set_net (h : Keeps l s t) (h1 : Part.net ∈ l) (x0 : Commons) :
    Keeps l s { t with net := x0 } := by
  refine h.trans ⟨fun p hp => ?_, id, id⟩
  cases p <;> first | rfl | exact absurd h1 hp

theorem keeps_set_pins (h : Keeps l s t) (h1 : Part.pins ∈ l) (x0 : Pins) :
    Keeps l s { t with pins := x0 } := by
  refine h.trans ⟨fun p hp => ?_, id, id⟩
  cases p <;> first | rfl | exact absurd h1 hp

theorem keeps_set_pwr (h : Keeps l s t) (h1 : Part.pwr ∈ l) (x0 : Power) :
    Keeps l s { t with pwr := x0 } := by
  refine h.trans ⟨fun p hp => ?_, id, id⟩
  cases p <;> first | rfl | exact absurd h1 hp

theorem keeps_set_querns (h : Keeps l s t) (h1 : Part.querns ∈ l) (x0 : Tab Quern) :
    Keeps l s { t with querns := x0 } := by
  refine h.trans ⟨fun p hp => ?_, id, id⟩
  cases p <;> first | rfl | exact absurd h1 hp

theorem keeps_set_reeve (h : Keeps l s t) (h1 : Part.reeve ∈ l) (x0 : Reeve) :
    Keeps l s { t with reeve := x0 } := by
  refine h.trans ⟨fun p hp => ?_, id, id⟩
  cases p <;> first | rfl | exact absurd h1 hp

theorem keeps_set_sent (h : Keeps l s t) (h1 : Part.sent ∈ l) (x0 : List Sent) :
    Keeps l s { t with sent := x0 } := by
  refine h.trans ⟨fun p hp => ?_, id, id⟩
  cases p <;> first | rfl | exact absurd h1 hp

theorem keeps_set_stp (h : Keeps l s t) (h1 : Part.stp ∈ l) (x0 : Steeple) :
    Keeps l s { t with stp := x0 } := by
  refine h.trans ⟨fun p hp => ?_, id, id⟩
  cases p <;> first | rfl | exact absurd h1 hp

theorem keeps_set_strong (h : Keeps l s t) (h1 : Part.strong ∈ l) (x0 : Strongroom) :
    Keeps l s { t with strong := x0 } := by
  refine h.trans ⟨fun p hp => ?_, id, id⟩
  cases p <;> first | rfl | exact absurd h1 hp

theorem keeps_set_sv (h : Keeps l s t) (h1 : Part.sv ∈ l) (x0 : Sieve) :
    Keeps l s { t with sv := x0 } := by
  refine h.trans ⟨fun p hp => ?_, id, id⟩
  cases p <;> first | rfl | exact absurd h1 hp

theorem keeps_set_tally (h : Keeps l s t) (h1 : Part.tally ∈ l) (x0 : Tally) :
    Keeps l s { t with tally := x0 } := by
  refine h.trans ⟨fun p hp => ?_, id, id⟩
  cases p <;> first | rfl | exact absurd h1 hp

theorem keeps_set_ws (h : Keeps l s t) (h1 : Part.ws ∈ l) (x0 : Workshops) :
    Keeps l s { t with ws := x0 } := by
  refine h.trans ⟨fun p hp => ?_, id, id⟩
  cases p <;> first | rfl | exact absurd h1 hp

theorem keeps_set_cores_ms (h : Keeps l s t) (h1 : Part.cores ∈ l) (h2 : Part.ms ∈ l) (x0 : Tab Core) (x1 : MemSys) (hm : x1.mem = t.ms.mem) :
    Keeps l s { t with cores := x0, ms := x1 } := by
  refine h.trans ⟨fun p hp => ?_, fun w => by simpa [hm] using w, id⟩
  cases p <;> first | rfl | exact absurd h1 hp | exact absurd h2 hp | exact hm

theorem keeps_set_mem_cop (h : Keeps l s t) (h1 : Part.mem ∈ l) (h2 : Part.cop ∈ l) (x0 : Memory) (x1 : Coppice) (hr : t.ms.mem.wf = true → x0.wf = true) :
    Keeps l s { t with ms := { t.ms with mem := x0 }, cop := x1 } := by
  refine h.trans ⟨fun p hp => ?_, hr, id⟩
  cases p <;> first | rfl | exact absurd h1 hp | exact absurd h2 hp

theorem keeps_set_pins_pwr (h : Keeps l s t) (h1 : Part.pins ∈ l) (h2 : Part.pwr ∈ l) (x0 : Pins) (x1 : Power) :
    Keeps l s { t with pins := x0, pwr := x1 } := by
  refine h.trans ⟨fun p hp => ?_, id, id⟩
  cases p <;> first | rfl | exact absurd h1 hp | exact absurd h2 hp

theorem keeps_set_regs_host (h : Keeps l s t) (h1 : Part.regs ∈ l) (h2 : Part.host ∈ l) (x0 : RegFile) (x1 : HostIf) (hr : t.regs.tab.wf = true → x0.tab.wf = true) :
    Keeps l s { t with regs := x0, host := x1 } := by
  refine h.trans ⟨fun p hp => ?_, id, hr⟩
  cases p <;> first | rfl | exact absurd h1 hp | exact absurd h2 hp

theorem keeps_set_cores_querns_ms_crt_hml (h : Keeps l s t) (h1 : Part.cores ∈ l) (h2 : Part.querns ∈ l) (h3 : Part.ms ∈ l) (h4 : Part.crt ∈ l) (h5 : Part.hml ∈ l) (x0 : Tab Core) (x1 : Tab Quern) (x2 : MemSys) (x3 : Carters) (x4 : Hamlets) (hm : x2.mem = t.ms.mem) :
    Keeps l s { t with cores := x0, querns := x1, ms := x2, crt := x3, hml := x4 } := by
  refine h.trans ⟨fun p hp => ?_, fun w => by simpa [hm] using w, id⟩
  cases p <;> first | rfl | exact absurd h1 hp | exact absurd h2 hp | exact absurd h3 hp | exact absurd h4 hp | exact absurd h5 hp | exact hm

end Sys2Proof.Machine
end

