-- ==== Sys2Proof/Laws/KeepsOps.lean ====
section
/-! SUPPORT. Laws/KeepsOps.lean: which parts of the state each operation of Machine/Ops.lean may change, and that it keeps the
canonical forms. -/

namespace Sys2Proof.Machine

variable {l : List Part} {s t : State}

theorem keeps_reply (h : Keeps l s t) (h_ans : Part.ans ∈ l) (a : Answer) :
    Keeps l s (t.reply a) := by
  unfold State.reply
  repeat' (first
    | with_reducible assumption | intro _ | with_reducible apply keeps_ite | dsimp only | split | with_reducible apply keeps_set_ans
)

theorem keeps_ack (h : Keeps l s t) (h_ans : Part.ans ∈ l) :
    Keeps l s (t.ack) := by
  unfold State.ack
  repeat' (first
    | with_reducible assumption | intro _ | with_reducible apply keeps_ite | with_reducible apply keeps_reply
)

theorem keeps_add (h : Keeps l s t) (h_regs : Part.regs ∈ l) (f : Fld) (n : Nat) :
    Keeps l s (t.add f n) := by
  unfold State.add
  repeat' (first
    | with_reducible assumption | intro _ | with_reducible apply keeps_ite | with_reducible apply keeps_wr
)

theorem keeps_addSat (h : Keeps l s t) (h_regs : Part.regs ∈ l) (f : Fld) (n : Nat) :
    Keeps l s (t.addSat f n) := by
  unfold State.addSat
  repeat' (first
    | with_reducible assumption | intro _ | with_reducible apply keeps_ite | with_reducible apply keeps_wr
)

theorem keeps_showLog (h : Keeps l s t) (h_regs : Part.regs ∈ l) (h_ms : Part.ms ∈ l) (l_1 : List LogEntry) :
    Keeps l s (t.showLog l_1) := by
  unfold State.showLog
  repeat' (first
    | with_reducible assumption | intro _ | with_reducible apply keeps_ite | with_reducible apply keeps_wr | dsimp only | split
    | with_reducible apply keeps_set_ms)

theorem keeps_irq (h : Keeps l s t) (h_hallIrq : Part.hallIrq ∈ l) (src : HallSrc) (i : Nat) :
    Keeps l s (t.irq src i) := by
  unfold State.irq
  repeat' (first
    | with_reducible assumption | intro _ | with_reducible apply keeps_ite | dsimp only | split | with_reducible apply keeps_set_hallIrq
)

theorem keeps_irqIf (h : Keeps l s t) (h_hallIrq : Part.hallIrq ∈ l) (c : Bool) (src : HallSrc) (i : Nat) :
    Keeps l s (t.irqIf c src i) := by
  unfold State.irqIf
  repeat' (first
    | with_reducible assumption | intro _ | with_reducible apply keeps_ite | with_reducible apply keeps_irq
)

theorem keeps_incSat (h : Keeps l s t) (h_regs : Part.regs ∈ l) (f : Fld) :
    Keeps l s (t.incSat f) := by
  unfold State.incSat
  repeat' (first
    | with_reducible assumption | intro _ | with_reducible apply keeps_ite | with_reducible apply keeps_addSat
)

theorem keeps_enterLog (h : Keeps l s t) (h_regs : Part.regs ∈ l) (h_hallIrq : Part.hallIrq ∈ l) (h_ms : Part.ms ∈ l) (h_dbg : Part.dbg ∈ l) (e : LogEntry) :
    Keeps l s (t.enterLog e) := by
  unfold State.enterLog
  repeat' (first
    | with_reducible assumption | intro _ | with_reducible apply keeps_ite | with_reducible apply keeps_irqIf
    | with_reducible apply keeps_showLog | with_reducible apply keeps_incSat | dsimp only | split | with_reducible apply keeps_set_dbg
)

theorem keeps_logEvent (h : Keeps l s t) (h_regs : Part.regs ∈ l) (h_hallIrq : Part.hallIrq ∈ l) (h_ms : Part.ms ∈ l) (h_dbg : Part.dbg ∈ l) (e : LogEntry) :
    Keeps l s (t.logEvent e) := by
  unfold State.logEvent
  repeat' (first
    | with_reducible assumption | intro _ | with_reducible apply keeps_ite | with_reducible apply keeps_showLog
    | with_reducible apply keeps_enterLog | dsimp only | split)

theorem keeps_logAt (h : Keeps l s t) (h_regs : Part.regs ∈ l) (h_hallIrq : Part.hallIrq ∈ l) (h_ms : Part.ms ∈ l) (h_dbg : Part.dbg ∈ l) (kind : Nat) (ids : Nat × Nat) (syn : Nat) (mid : Nat) (addr : Nat) (bit : Nat) :
    Keeps l s (t.logAt kind ids syn mid addr bit) := by
  unfold State.logAt
  repeat' (first
    | with_reducible assumption | intro _ | with_reducible apply keeps_ite | with_reducible apply keeps_logEvent
)

theorem keeps_inc (h : Keeps l s t) (h_regs : Part.regs ∈ l) (f : Fld) :
    Keeps l s (t.inc f) := by
  unfold State.inc
  repeat' (first
    | with_reducible assumption | intro _ | with_reducible apply keeps_ite | with_reducible apply keeps_add
)

theorem keeps_countRead (h : Keeps l s t) (h_regs : Part.regs ∈ l) (h_hallIrq : Part.hallIrq ∈ l) (h_ms : Part.ms ∈ l) (h_dbg : Part.dbg ∈ l) (ids : Nat × Nat) (mid : Mid) (addr : Nat) (d : DWord) (c : Byte) (ueKind : Nat) :
    Keeps l s (t.countRead ids mid addr d c ueKind) := by
  unfold State.countRead
  repeat' (first
    | with_reducible assumption | intro _ | with_reducible apply keeps_ite | with_reducible apply keeps_logAt
    | with_reducible apply keeps_inc | dsimp only | split)

theorem keeps_dec (h : Keeps l s t) (h_regs : Part.regs ∈ l) (f : Fld) :
    Keeps l s (t.dec f) := by
  unfold State.dec
  repeat' (first
    | with_reducible assumption | intro _ | with_reducible apply keeps_ite | with_reducible apply keeps_wr
)

theorem keeps_fresh (h : Keeps l s t) (h_free : Part.free ∈ l) :
    Keeps l s (t.fresh).2 := by
  unfold State.fresh
  repeat' (first
    | with_reducible assumption | intro _ | with_reducible apply keeps_ite | dsimp only | split | with_reducible apply keeps_set_free
)

theorem keeps_readWord (h : Keeps l s t) (h_regs : Part.regs ∈ l) (h_hallIrq : Part.hallIrq ∈ l) (h_ms : Part.ms ∈ l) (h_dbg : Part.dbg ∈ l) (mid : Mid) (a : Nat) :
    Keeps l s (t.readWord mid a).2 := by
  unfold State.readWord
  repeat' (first
    | with_reducible assumption | intro _ | with_reducible apply keeps_ite | with_reducible apply keeps_countRead | dsimp only | split
)

theorem keeps_readWords (h : Keeps l s t) (h_regs : Part.regs ∈ l) (h_hallIrq : Part.hallIrq ∈ l) (h_ms : Part.ms ∈ l) (h_dbg : Part.dbg ∈ l) (mid : Mid) (x2 : Nat) (x3 : Nat) :
    Keeps l s (t.readWords mid x2 x3).2 := by
  induction x3 generalizing t x2 with
  | zero =>
    unfold State.readWords
    repeat' (with_reducible assumption

)
  | succ n ih =>
    unfold State.readWords
    repeat' (first
      | with_reducible assumption | intro _ | with_reducible apply ih | with_reducible apply keeps_ite | with_reducible apply keeps_readWord

)

theorem keeps_granaryRead (h : Keeps l s t) (h_regs : Part.regs ∈ l) (h_hallIrq : Part.hallIrq ∈ l) (h_ms : Part.ms ∈ l) (h_dbg : Part.dbg ∈ l) (mid : Mid) (a : Nat) (n : Nat) :
    Keeps l s (t.granaryRead mid a n).2 := by
  unfold State.granaryRead
  repeat' (first
    | with_reducible assumption | intro _ | with_reducible apply keeps_ite | with_reducible apply keeps_readWords
    | with_reducible apply keeps_inc | refine Keeps.snd_eq (by assumption) ?_ | dsimp only | split)

theorem keeps_irqHost (h : Keeps l s t) (h_hostIrq : Part.hostIrq ∈ l) (i : Nat) :
    Keeps l s (t.irqHost i) := by
  unfold State.irqHost
  repeat' (first
    | with_reducible assumption | intro _ | with_reducible apply keeps_ite | dsimp only | split | with_reducible apply keeps_set_hostIrq
)

theorem keeps_loseRecord (h : Keeps l s t) (h_dbg : Part.dbg ∈ l) (k : Nat) :
    Keeps l s (t.loseRecord k) := by
  unfold State.loseRecord
  repeat' (first
    | with_reducible assumption | intro _ | with_reducible apply keeps_ite | dsimp only | split | with_reducible apply keeps_set_dbg
)

theorem keeps_refusedAns (h : Keeps l s t) (h_ans : Part.ans ∈ l) :
    Keeps l s (t.refusedAns) := by
  unfold State.refusedAns
  repeat' (first
    | with_reducible assumption | intro _ | with_reducible apply keeps_ite | with_reducible apply keeps_reply
)

theorem keeps_rmwWord (h : Keeps l s t) (h_regs : Part.regs ∈ l) (h_hallIrq : Part.hallIrq ∈ l) (h_mem : Part.mem ∈ l) (h_ms : Part.ms ∈ l) (h_dbg : Part.dbg ∈ l) (mid : Mid) (a : Nat) (en : Byte) (new : DWord) (mark : Bool) :
    Keeps l s (t.rmwWord mid a en new mark) := by
  unfold State.rmwWord
  repeat' (first
    | with_reducible assumption | intro _ | with_reducible apply keeps_ite | with_reducible apply keeps_countRead
    | with_reducible apply keeps_setMem | with_reducible apply Memory.wf_putRaw | with_reducible apply Memory.wf_put
    | with_reducible apply Memory.wf_fill | with_reducible apply Memory.wf_foldl | dsimp only | split)

theorem keeps_send (h : Keeps l s t) (h_sent : Part.sent ∈ l) (m : Sent) :
    Keeps l s (t.send m) := by
  unfold State.send
  repeat' (first
    | with_reducible assumption | intro _ | with_reducible apply keeps_ite | dsimp only | split | with_reducible apply keeps_set_sent
)

theorem keeps_w1c (h : Keeps l s t) (h_regs : Part.regs ∈ l) (v : Word) (fs : List Fld) :
    Keeps l s (t.w1c v fs) := by
  unfold State.w1c
  repeat' (first
    | with_reducible assumption | intro _ | with_reducible apply keeps_ite | with_reducible apply keeps_wr
    | with_reducible apply keeps_foldl)

theorem keeps_wrB (h : Keeps l s t) (h_regs : Part.regs ∈ l) (f : Fld) (b : Bool) :
    Keeps l s (t.wrB f b) := by
  unfold State.wrB
  repeat' (first
    | with_reducible assumption | intro _ | with_reducible apply keeps_ite | with_reducible apply keeps_wr
)

theorem keeps_wrWord (h : Keeps l s t) (h_regs : Part.regs ∈ l) (v : Word) (fs : List Fld) :
    Keeps l s (t.wrWord v fs) := by
  unfold State.wrWord
  repeat' (first
    | with_reducible assumption | intro _ | with_reducible apply keeps_ite | with_reducible apply keeps_wr
    | with_reducible apply keeps_foldl)

theorem keeps_writeBytes (h : Keeps l s t) (h_regs : Part.regs ∈ l) (h_hallIrq : Part.hallIrq ∈ l) (h_mem : Part.mem ∈ l) (h_ms : Part.ms ∈ l) (h_dbg : Part.dbg ∈ l) (mid : Mid) (m : Bool) (x3 : Nat) (x4 : List Byte) :
    Keeps l s (t.writeBytes mid m x3 x4) := by
  induction x4 generalizing t x3 with
  | nil =>
    unfold State.writeBytes
    repeat' (with_reducible assumption
)
  | cons y r ih =>
    unfold State.writeBytes
    repeat' (first
      | with_reducible assumption | intro _ | with_reducible apply ih | with_reducible apply keeps_ite | with_reducible apply keeps_rmwWord
)

theorem keeps_writeWords (h : Keeps l s t) (h_mem : Part.mem ∈ l) (x1 : Nat) (x2 : List PWord) :
    Keeps l s (t.writeWords x1 x2) := by
  induction x2 generalizing t x1 with
  | nil =>
    unfold State.writeWords
    repeat' (with_reducible assumption


)
  | cons y r ih =>
    unfold State.writeWords
    repeat' (first
      | with_reducible assumption | intro _ | with_reducible apply ih | with_reducible apply keeps_ite | with_reducible apply keeps_setMem
      | with_reducible apply keeps_setMem | with_reducible apply keeps_setMem | with_reducible apply Memory.wf_putRaw
      | with_reducible apply Memory.wf_put
)

end Sys2Proof.Machine
end

