-- ==== Sys2Proof/Laws/KeepsLedger.lean ====
section
/-! SUPPORT. Laws/KeepsLedger.lean: which parts of the state each operation of Machine/Ledger.lean may change, and that it keeps the
canonical forms. -/

namespace Sys2Proof.Machine

variable {l : List Part} {s t : State}

theorem keeps_raise (h : Keeps l s t) (h_dbg : Part.dbg ∈ l) (e : HearthEvent) :
    Keeps l s (t.raise e) := by
  unfold State.raise
  repeat' (first
    | with_reducible assumption | intro _ | with_reducible apply keeps_ite | dsimp only | split | with_reducible apply keeps_set_dbg
)

theorem keeps_ledgerFault (h : Keeps l s t) (h_regs : Part.regs ∈ l) (h_hallIrq : Part.hallIrq ∈ l) (h_tally : Part.tally ∈ l) (h_dbg : Part.dbg ∈ l) (id : Nat) :
    Keeps l s (t.ledgerFault id) := by
  unfold State.ledgerFault
  repeat' (first
    | with_reducible assumption | intro _ | with_reducible apply keeps_ite | with_reducible apply keeps_raise
    | with_reducible apply keeps_inc | with_reducible apply keeps_wr | with_reducible apply keeps_irqIf | dsimp only | split
    | with_reducible apply keeps_set_tally)

theorem keeps_ledgerCheck (h : Keeps l s t) (h_regs : Part.regs ∈ l) (h_hallIrq : Part.hallIrq ∈ l) (h_tally : Part.tally ∈ l) (h_dbg : Part.dbg ∈ l) (id : Nat) :
    Keeps l s (t.ledgerCheck id) := by
  unfold State.ledgerCheck
  repeat' (first
    | with_reducible assumption | intro _ | with_reducible apply keeps_ite | with_reducible apply keeps_ledgerFault | dsimp only | split
    | with_reducible apply keeps_set_tally)

theorem keeps_ledgerAt (h : Keeps l s t) (h_regs : Part.regs ∈ l) (h_hallIrq : Part.hallIrq ∈ l) (h_tally : Part.tally ∈ l) (h_dbg : Part.dbg ∈ l) (id : Nat) (place : Nat) (issued : Nat) (returned : Nat) :
    Keeps l s (t.ledgerAt id place issued returned) := by
  unfold State.ledgerAt
  repeat' (first
    | with_reducible assumption | intro _ | with_reducible apply keeps_ite | with_reducible apply keeps_ledgerCheck | dsimp only | split
    | with_reducible apply keeps_set_tally)

theorem keeps_decrAbsorb (h : Keeps l s t) (h_regs : Part.regs ∈ l) (h_hallIrq : Part.hallIrq ∈ l) (h_tally : Part.tally ∈ l) (h_dbg : Part.dbg ∈ l) :
    Keeps l s (t.decrAbsorb) := by
  unfold State.decrAbsorb
  repeat' (first
    | with_reducible assumption | intro _ | with_reducible apply keeps_ite | with_reducible apply keeps_ledgerAt
)

theorem keeps_decrIssue (h : Keeps l s t) (h_regs : Part.regs ∈ l) (h_hallIrq : Part.hallIrq ∈ l) (h_tally : Part.tally ∈ l) (h_dbg : Part.dbg ∈ l) (byReeve : Bool) :
    Keeps l s (t.decrIssue byReeve) := by
  unfold State.decrIssue
  repeat' (first
    | with_reducible assumption | intro _ | with_reducible apply keeps_ite | with_reducible apply keeps_ledgerAt
)

theorem keeps_decrReturn (h : Keeps l s t) (h_regs : Part.regs ∈ l) (h_hallIrq : Part.hallIrq ∈ l) (h_tally : Part.tally ∈ l) (h_dbg : Part.dbg ∈ l) :
    Keeps l s (t.decrReturn) := by
  unfold State.decrReturn
  repeat' (first
    | with_reducible assumption | intro _ | with_reducible apply keeps_ite | with_reducible apply keeps_ledgerAt
)

theorem keeps_foldSlices (h : Keeps l s t) (h_tally : Part.tally ∈ l) (d : Nat) :
    Keeps l s (t.foldSlices d) := by
  unfold State.foldSlices
  repeat' (first
    | with_reducible assumption | intro _ | with_reducible apply keeps_ite | with_reducible apply keeps_foldl
    | with_reducible apply keeps_foldl_snd | dsimp only | split | with_reducible apply keeps_set_tally)

theorem keeps_ledgerCount (h : Keeps l s t) (h_regs : Part.regs ∈ l) (h_hallIrq : Part.hallIrq ∈ l) (h_tally : Part.tally ∈ l) (h_dbg : Part.dbg ∈ l) (id : Nat) (issued : Nat) (returned : Nat) :
    Keeps l s (t.ledgerCount id issued returned) := by
  unfold State.ledgerCount
  repeat' (first
    | with_reducible assumption | intro _ | with_reducible apply keeps_ite | with_reducible apply keeps_ledgerAt
)

end Sys2Proof.Machine
end

