-- ==== Sys2Proof/Laws/KeepsCommons.lean ====
section
/-! SUPPORT. Laws/KeepsCommons.lean: which parts of the state each operation of Machine/Commons.lean may change, and that it keeps the
canonical forms. -/

namespace Sys2Proof.Machine

variable {l : List Part} {s t : State}

theorem keeps_absorbToken (h : Keeps l s t) (h_regs : Part.regs ∈ l) (h_hallIrq : Part.hallIrq ∈ l) (h_tally : Part.tally ∈ l) (h_dbg : Part.dbg ∈ l) (p : Packet) :
    Keeps l s (t.absorbToken p) := by
  unfold State.absorbToken
  repeat' (first
    | with_reducible assumption | intro _ | with_reducible apply keeps_ite | with_reducible apply keeps_decrAbsorb
)

theorem keeps_useAdd (h : Keeps l s t) (h_regs : Part.regs ∈ l) (l_1 : List (Nat × Nat)) :
    Keeps l s (t.useAdd l_1) := by
  unfold State.useAdd
  repeat' (first
    | with_reducible assumption | intro _ | with_reducible apply keeps_ite | with_reducible apply keeps_inc
    | with_reducible apply keeps_foldl)

theorem keeps_useSub (h : Keeps l s t) (h_regs : Part.regs ∈ l) (l_1 : List (Nat × Nat)) :
    Keeps l s (t.useSub l_1) := by
  unfold State.useSub
  repeat' (first
    | with_reducible assumption | intro _ | with_reducible apply keeps_ite | with_reducible apply keeps_dec
    | with_reducible apply keeps_foldl)

theorem keeps_showHold (h : Keeps l s t) (h_regs : Part.regs ∈ l) (n : Nat) :
    Keeps l s (t.showHold n) := by
  unfold State.showHold
  repeat' (first
    | with_reducible assumption | intro _ | with_reducible apply keeps_ite | with_reducible apply keeps_wrB
)

theorem keeps_setNet (h : Keeps l s t) (h_net : Part.net ∈ l) (f : Commons → Commons) :
    Keeps l s (t.setNet f) := by
  unfold State.setNet
  repeat' (first
    | with_reducible assumption | intro _ | with_reducible apply keeps_ite | dsimp only | split | with_reducible apply keeps_set_net
)

theorem keeps_applyRoute (h : Keeps l s t) (h_regs : Part.regs ∈ l) (h_net : Part.net ∈ l) (x : StagedRoute) :
    Keeps l s (t.applyRoute x) := by
  unfold State.applyRoute
  repeat' (first
    | with_reducible assumption | intro _ | with_reducible apply keeps_ite | with_reducible apply keeps_useAdd
    | with_reducible apply keeps_useSub | with_reducible apply keeps_wr | with_reducible apply keeps_wrB | with_reducible apply keeps_showHold
    | with_reducible apply keeps_setNet)

theorem keeps_barEvents (h : Keeps l s t) (h_hallIrq : Part.hallIrq ∈ l) (h_net : Part.net ∈ l) (b : Nat) :
    Keeps l s (t.barEvents b) := by
  unfold State.barEvents
  repeat' (first
    | with_reducible assumption | intro _ | with_reducible apply keeps_ite | with_reducible apply keeps_irqIf
    | with_reducible apply keeps_setNet | with_reducible apply keeps_foldl
)

theorem keeps_creditBack (h : Keeps l s t) (h_regs : Part.regs ∈ l) (h_hallIrq : Part.hallIrq ∈ l) (h_tally : Part.tally ∈ l) (h_dbg : Part.dbg ∈ l) (p : Packet) :
    Keeps l s (t.creditBack p) := by
  unfold State.creditBack
  repeat' (first
    | with_reducible assumption | intro _ | with_reducible apply keeps_ite | with_reducible apply keeps_ledgerCount
)

theorem keeps_creditSend (h : Keeps l s t) (h_regs : Part.regs ∈ l) (h_hallIrq : Part.hallIrq ∈ l) (h_tally : Part.tally ∈ l) (h_dbg : Part.dbg ∈ l) (p : Packet) :
    Keeps l s (t.creditSend p) := by
  unfold State.creditSend
  repeat' (first
    | with_reducible assumption | intro _ | with_reducible apply keeps_ite | with_reducible apply keeps_ledgerCount
)

theorem keeps_dropPacket (h : Keeps l s t) (h_net : Part.net ∈ l) (k : Nat) :
    Keeps l s (t.dropPacket k) := by
  unfold State.dropPacket
  repeat' (first
    | with_reducible assumption | intro _ | with_reducible apply keeps_ite | with_reducible apply keeps_setNet
)

theorem keeps_endPacket (h : Keeps l s t) (h_regs : Part.regs ∈ l) (h_hallIrq : Part.hallIrq ∈ l) (h_net : Part.net ∈ l) (h_tally : Part.tally ∈ l) (h_dbg : Part.dbg ∈ l) (p : Packet) :
    Keeps l s (t.endPacket p) := by
  unfold State.endPacket
  repeat' (first
    | with_reducible assumption | intro _ | with_reducible apply keeps_ite | with_reducible apply keeps_dec
    | with_reducible apply keeps_creditBack | with_reducible apply keeps_dropPacket)

theorem keeps_enterPacket (h : Keeps l s t) (h_regs : Part.regs ∈ l) (h_hallIrq : Part.hallIrq ∈ l) (h_net : Part.net ∈ l) (h_tally : Part.tally ∈ l) (h_dbg : Part.dbg ∈ l) (n : Nat) (p : Packet) :
    Keeps l s (t.enterPacket n p) := by
  unfold State.enterPacket
  repeat' (first
    | with_reducible assumption | intro _ | with_reducible apply keeps_ite | with_reducible apply keeps_creditSend
    | with_reducible apply keeps_inc | with_reducible apply keeps_setNet)

theorem keeps_unitAnswer (h : Keeps l s t) (h_regs : Part.regs ∈ l) (h_hallIrq : Part.hallIrq ∈ l) (h_net : Part.net ∈ l) (h_tally : Part.tally ∈ l) (h_dbg : Part.dbg ∈ l) (p : Packet) (op : Nat) (status : Nat) (cause : Nat) (lines : Nat) (data : List PWord) :
    Keeps l s (t.unitAnswer p op status cause lines data) := by
  unfold State.unitAnswer
  repeat' (first
    | with_reducible assumption | intro _ | with_reducible apply keeps_ite | with_reducible apply keeps_setNet
    | with_reducible apply keeps_add | with_reducible apply keeps_enterPacket)

theorem keeps_pumpTx (h : Keeps l s t) (h_sent : Part.sent ∈ l) (h_ewl : Part.ewl ∈ l) (k : Nat) (vn : Nat) :
    Keeps l s (t.pumpTx k vn) := by
  unfold State.pumpTx
  repeat' (first
    | with_reducible assumption | intro _ | with_reducible apply keeps_ite | with_reducible apply keeps_send
    | with_reducible apply keeps_foldl | with_reducible apply keeps_foldl_snd | dsimp only | split | with_reducible apply keeps_set_ewl
)

theorem keeps_ewlSend (h : Keeps l s t) (h_sent : Part.sent ∈ l) (h_ewl : Part.ewl ∈ l) (k : Nat) (target : Nat) (origin : Nat) (hops : Nat) (p : Packet) :
    Keeps l s (t.ewlSend k target origin hops p) := by
  unfold State.ewlSend
  repeat' (first
    | with_reducible assumption | intro _ | with_reducible apply keeps_ite | with_reducible apply keeps_pumpTx | dsimp only | split
    | with_reducible apply keeps_set_ewl)

theorem keeps_ewlForward (h : Keeps l s t) (h_regs : Part.regs ∈ l) (h_hallIrq : Part.hallIrq ∈ l) (h_sent : Part.sent ∈ l) (h_net : Part.net ∈ l) (h_tally : Part.tally ∈ l) (h_ewl : Part.ewl ∈ l) (h_dbg : Part.dbg ∈ l) (p : Packet) :
    Keeps l s (t.ewlForward p) := by
  unfold State.ewlForward
  repeat' (first
    | with_reducible assumption | intro _ | with_reducible apply keeps_ite | with_reducible apply keeps_unitAnswer
    | with_reducible apply keeps_ewlSend | dsimp only | split | with_reducible apply keeps_set_ewl)

theorem keeps_ewlReturn (h : Keeps l s t) (h_sent : Part.sent ∈ l) (h_ewl : Part.ewl ∈ l) (n : Nat) (p : Packet) :
    Keeps l s (t.ewlReturn n p) := by
  unfold State.ewlReturn
  repeat' (first
    | with_reducible assumption | intro _ | with_reducible apply keeps_ite | with_reducible apply keeps_ewlSend | dsimp only | split
    | with_reducible apply keeps_set_ewl)

theorem keeps_selfAnswer (h : Keeps l s t) (h_regs : Part.regs ∈ l) (h_ans : Part.ans ∈ l) (n : Nat) (a : Answer) :
    Keeps l s (t.selfAnswer n a) := by
  unfold State.selfAnswer
  repeat' (first
    | with_reducible assumption | intro _ | with_reducible apply keeps_ite | with_reducible apply keeps_reply
    | with_reducible apply keeps_inc)

theorem keeps_injectRequest (h : Keeps l s t) (h_regs : Part.regs ∈ l) (h_ans : Part.ans ∈ l) (h_hallIrq : Part.hallIrq ∈ l) (h_net : Part.net ∈ l) (h_tally : Part.tally ∈ l) (h_dbg : Part.dbg ∈ l) (n : Nat) (q : PacketReq) :
    Keeps l s (t.injectRequest n q) := by
  unfold State.injectRequest
  repeat' (first
    | with_reducible assumption | intro _ | with_reducible apply keeps_ite | with_reducible apply keeps_selfAnswer
    | with_reducible apply keeps_reply | with_reducible apply keeps_ledgerCount | with_reducible apply keeps_add | with_reducible apply keeps_inc
    | with_reducible apply keeps_enterPacket | with_reducible apply keeps_setNet | dsimp only | split)

theorem keeps_routerAnswer (h : Keeps l s t) (h_regs : Part.regs ∈ l) (h_hallIrq : Part.hallIrq ∈ l) (h_net : Part.net ∈ l) (h_tally : Part.tally ∈ l) (h_dbg : Part.dbg ∈ l) (r : Nat) (p : Packet) (status : Nat) (cause : Nat) :
    Keeps l s (t.routerAnswer r p status cause) := by
  unfold State.routerAnswer
  repeat' (first
    | with_reducible assumption | intro _ | with_reducible apply keeps_ite | with_reducible apply keeps_enterPacket
)

theorem keeps_killPort (h : Keeps l s t) (h_regs : Part.regs ∈ l) (h_hallIrq : Part.hallIrq ∈ l) (h_net : Part.net ∈ l) (h_tally : Part.tally ∈ l) (h_dbg : Part.dbg ∈ l) (r : Nat) (l_2 : Nat) :
    Keeps l s (t.killPort r l_2) := by
  unfold State.killPort
  repeat' (first
    | with_reducible assumption | intro _ | with_reducible apply keeps_ite | with_reducible apply keeps_wr
    | with_reducible apply keeps_setNet | with_reducible apply keeps_routerAnswer | with_reducible apply keeps_absorbToken
    | with_reducible apply keeps_endPacket | with_reducible apply keeps_inc | with_reducible apply keeps_irqIf | with_reducible apply keeps_raise
    | with_reducible apply keeps_foldl)

theorem keeps_markClosed (h : Keeps l s t) (h_regs : Part.regs ∈ l) (d : Nat) (v : Bool) :
    Keeps l s (t.markClosed d v) := by
  unfold State.markClosed
  repeat' (first
    | with_reducible assumption | intro _ | with_reducible apply keeps_ite | with_reducible apply keeps_wrB
    | with_reducible apply keeps_foldl)

theorem keeps_movePacket (h : Keeps l s t) (h_net : Part.net ∈ l) (p : Packet) :
    Keeps l s (t.movePacket p) := by
  unfold State.movePacket
  repeat' (first
    | with_reducible assumption | intro _ | with_reducible apply keeps_ite | with_reducible apply keeps_setNet
)

theorem keeps_showProbe (h : Keeps l s t) (h_regs : Part.regs ∈ l) (h_net : Part.net ∈ l) (k : Nat) (l_2 : List (List Nat)) :
    Keeps l s (t.showProbe k l_2) := by
  unfold State.showProbe
  repeat' (first
    | with_reducible assumption | intro _ | with_reducible apply keeps_ite | with_reducible apply keeps_setNet
    | with_reducible apply keeps_wr)

theorem keeps_probe (h : Keeps l s t) (h_regs : Part.regs ∈ l) (h_net : Part.net ∈ l) (h_dbg : Part.dbg ∈ l) (r : Nat) (i : Nat) (p : Packet) (k : Nat) :
    Keeps l s (t.probe r i p k) := by
  unfold State.probe
  repeat' (first
    | with_reducible assumption | intro _ | with_reducible apply keeps_ite | with_reducible apply keeps_showProbe
    | with_reducible apply keeps_loseRecord | with_reducible apply keeps_add | with_reducible apply keeps_inc | with_reducible apply keeps_wr
)

theorem keeps_probes (h : Keeps l s t) (h_regs : Part.regs ∈ l) (h_net : Part.net ∈ l) (h_dbg : Part.dbg ∈ l) (r : Nat) (i : Nat) (p : Packet) :
    Keeps l s (t.probes r i p) := by
  unfold State.probes
  repeat' (first
    | with_reducible assumption | intro _ | with_reducible apply keeps_ite | with_reducible apply keeps_probe
    | with_reducible apply keeps_foldl)

theorem keeps_refusePort (h : Keeps l s t) (h_regs : Part.regs ∈ l) (r : Nat) (p : Nat) (cause : Nat) :
    Keeps l s (t.refusePort r p cause) := by
  unfold State.refusePort
  repeat' (first
    | with_reducible assumption | intro _ | with_reducible apply keeps_ite | with_reducible apply keeps_wr
)

theorem keeps_rejectRoute (h : Keeps l s t) (h_regs : Part.regs ∈ l) (cause : Nat) (src : Nat) (dest : Nat) :
    Keeps l s (t.rejectRoute cause src dest) := by
  unfold State.rejectRoute
  repeat' (first
    | with_reducible assumption | intro _ | with_reducible apply keeps_ite | with_reducible apply keeps_wr
)

theorem keeps_setPortSt (h : Keeps l s t) (h_regs : Part.regs ∈ l) (r : Nat) (p : Nat) (st : Nat) :
    Keeps l s (t.setPortSt r p st) := by
  unfold State.setPortSt
  repeat' (first
    | with_reducible assumption | intro _ | with_reducible apply keeps_ite | with_reducible apply keeps_wr
)

theorem keeps_startEpoch (h : Keeps l s t) (h_regs : Part.regs ∈ l) (h_net : Part.net ∈ l) (l_1 : List StagedRoute) :
    Keeps l s (t.startEpoch l_1) := by
  unfold State.startEpoch
  repeat' (first
    | with_reducible assumption | intro _ | with_reducible apply keeps_ite | with_reducible apply keeps_wr
    | with_reducible apply keeps_applyRoute | with_reducible apply keeps_foldl
)

end Sys2Proof.Machine
end

