-- ==== Sys2Proof/Laws/KeepsMemory.lean ====
section
/-! SUPPORT. Laws/KeepsMemory.lean: which parts of the state each operation of Machine/Memory.lean may change, and that it keeps the
canonical forms. -/

namespace Sys2Proof.Machine

variable {l : List Part} {s t : State}

theorem keeps_setMove (h : Keeps l s t) (h_ms : Part.ms ∈ l) (b : Nat) (m : BankMove) :
    Keeps l s (t.setMove b m) := by
  unfold State.setMove
  repeat' (first
    | with_reducible assumption | intro _ | with_reducible apply keeps_ite | dsimp only | split | with_reducible apply keeps_set_ms
)

theorem keeps_bankMove (h : Keeps l s t) (h_regs : Part.regs ∈ l) (h_ms : Part.ms ∈ l) (b : Nat) (st : Nat) (m : BankMove) :
    Keeps l s (t.bankMove b st m) := by
  unfold State.bankMove
  repeat' (first
    | with_reducible assumption | intro _ | with_reducible apply keeps_ite | with_reducible apply keeps_setMove
    | with_reducible apply keeps_wr)

theorem keeps_bankRefuse (h : Keeps l s t) (h_regs : Part.regs ∈ l) (b : Nat) (cause : Nat) :
    Keeps l s (t.bankRefuse b cause) := by
  unfold State.bankRefuse
  repeat' (first
    | with_reducible assumption | intro _ | with_reducible apply keeps_ite | with_reducible apply keeps_wr
)

theorem keeps_countRefusal (h : Keeps l s t) (h_regs : Part.regs ∈ l) (a : Nat) (r : Answer) :
    Keeps l s (t.countRefusal a r) := by
  unfold State.countRefusal
  repeat' (first
    | with_reducible assumption | intro _ | with_reducible apply keeps_ite | with_reducible apply keeps_inc
    | with_reducible apply keeps_incSat | dsimp only | split)

theorem keeps_refuseAccess (h : Keeps l s t) (h_regs : Part.regs ∈ l) (h_ans : Part.ans ∈ l) (a : Nat) (r : Answer) :
    Keeps l s (t.refuseAccess a r) := by
  unfold State.refuseAccess
  repeat' (first
    | with_reducible assumption | intro _ | with_reducible apply keeps_ite | with_reducible apply keeps_reply
    | with_reducible apply keeps_countRefusal)

theorem keeps_countWait (h : Keeps l s t) (h_regs : Part.regs ∈ l) (a : Nat) (mid : Mid) (wait : Nat) :
    Keeps l s (t.countWait a mid wait) := by
  unfold State.countWait
  repeat' (first
    | with_reducible assumption | intro _ | with_reducible apply keeps_ite | with_reducible apply keeps_add
    | with_reducible apply keeps_inc | dsimp only | split)

theorem keeps_coreStall (h : Keeps l s t) (h_regs : Part.regs ∈ l) (h_free : Part.free ∈ l) (h_1 : Nat) (c : Nat) (wait : Nat) :
    Keeps l s (t.coreStall h_1 c wait) := by
  unfold State.coreStall
  repeat' (first
    | with_reducible assumption | intro _ | with_reducible apply keeps_ite | with_reducible apply keeps_fresh
    | with_reducible apply keeps_add)

theorem keeps_countConflict (h : Keeps l s t) (h_regs : Part.regs ∈ l) (h_free : Part.free ∈ l) (a : Nat) (mid : Mid) (wait : Nat) :
    Keeps l s (t.countConflict a mid wait) := by
  unfold State.countConflict
  repeat' (first
    | with_reducible assumption | intro _ | with_reducible apply keeps_ite | with_reducible apply keeps_countWait
    | with_reducible apply keeps_coreStall | dsimp only | split)

theorem keeps_gleanRestore (h : Keeps l s t) (h_regs : Part.regs ∈ l) (h_hallIrq : Part.hallIrq ∈ l) (h_mem : Part.mem ∈ l) (h_ms : Part.ms ∈ l) (h_dbg : Part.dbg ∈ l) (mem : Nat) (inst : Nat) (a : Nat) (w : DWord × Byte) :
    Keeps l s (t.gleanRestore mem inst a w) := by
  unfold State.gleanRestore
  repeat' (first
    | with_reducible assumption | intro _ | with_reducible apply keeps_ite | with_reducible apply keeps_setMem
    | with_reducible apply keeps_logAt | with_reducible apply keeps_inc | with_reducible apply Memory.wf_putRaw | with_reducible apply Memory.wf_put
    | with_reducible apply Memory.wf_fill | with_reducible apply Memory.wf_foldl | dsimp only | split)

theorem keeps_gleanRestoreAll (h : Keeps l s t) (h_regs : Part.regs ∈ l) (h_hallIrq : Part.hallIrq ∈ l) (h_mem : Part.mem ∈ l) (h_ms : Part.ms ∈ l) (h_dbg : Part.dbg ∈ l) (mem : Nat) (inst : Nat) (r : Nat) (x4 : Nat) (x5 : List (DWord × Byte)) :
    Keeps l s (t.gleanRestoreAll mem inst r x4 x5) := by
  induction x5 generalizing t x4 with
  | nil =>
    unfold State.gleanRestoreAll
    repeat' (with_reducible assumption

)
  | cons y r ih =>
    unfold State.gleanRestoreAll
    repeat' (first
      | with_reducible assumption | intro _ | with_reducible apply ih | with_reducible apply keeps_ite
      | with_reducible apply keeps_gleanRestore
)

theorem keeps_setGleaner (h : Keeps l s t) (h_ms : Part.ms ∈ l) (k : Nat) (g : Gleaner) :
    Keeps l s (t.setGleaner k g) := by
  unfold State.setGleaner
  repeat' (first
    | with_reducible assumption | intro _ | with_reducible apply keeps_ite | dsimp only | split | with_reducible apply keeps_set_ms
)

theorem keeps_gleanFinish (h : Keeps l s t) (h_regs : Part.regs ∈ l) (h_hallIrq : Part.hallIrq ∈ l) (h_mem : Part.mem ∈ l) (h_ms : Part.ms ∈ l) (h_dbg : Part.dbg ∈ l) (mem : Nat) (inst : Nat) :
    Keeps l s (t.gleanFinish mem inst) := by
  unfold State.gleanFinish
  repeat' (first
    | with_reducible assumption | intro _ | with_reducible apply keeps_ite | with_reducible apply keeps_gleanRestoreAll
    | with_reducible apply keeps_setGleaner | with_reducible apply keeps_inc)

theorem keeps_gleanYield (h : Keeps l s t) (h_regs : Part.regs ∈ l) (h_hallIrq : Part.hallIrq ∈ l) (h_mem : Part.mem ∈ l) (h_ms : Part.ms ∈ l) (h_dbg : Part.dbg ∈ l) (mem : Nat) (inst : Nat) (mid : Mid) :
    Keeps l s (t.gleanYield mem inst mid) := by
  unfold State.gleanYield
  repeat' (first
    | with_reducible assumption | intro _ | with_reducible apply keeps_ite | with_reducible apply keeps_gleanRestoreAll
    | with_reducible apply keeps_setGleaner | with_reducible apply keeps_inc | with_reducible apply keeps_countWait
)

theorem keeps_yieldFor (h : Keeps l s t) (h_regs : Part.regs ∈ l) (h_hallIrq : Part.hallIrq ∈ l) (h_mem : Part.mem ∈ l) (h_ms : Part.ms ∈ l) (h_dbg : Part.dbg ∈ l) (a : Nat) (mid : Mid) :
    Keeps l s (t.yieldFor a mid) := by
  unfold State.yieldFor
  repeat' (first
    | with_reducible assumption | intro _ | with_reducible apply keeps_ite | with_reducible apply keeps_gleanFinish
    | with_reducible apply keeps_gleanYield | dsimp only | split)

theorem keeps_busNarrow (h : Keeps l s t) (h_regs : Part.regs ∈ l) (h_ans : Part.ans ∈ l) (h_hallIrq : Part.hallIrq ∈ l) (h_free : Part.free ∈ l) (h_mem : Part.mem ∈ l) (h_ms : Part.ms ∈ l) (h_dbg : Part.dbg ∈ l) (r : NarrowReq) :
    Keeps l s (t.busNarrow r) := by
  unfold State.busNarrow
  repeat' (first
    | with_reducible assumption | intro _ | with_reducible apply keeps_ite | with_reducible apply keeps_refuseAccess
    | with_reducible apply keeps_ack | with_reducible apply keeps_rmwWord | with_reducible apply keeps_countConflict
    | with_reducible apply keeps_yieldFor | with_reducible apply keeps_refusedAns | with_reducible apply keeps_incSat | dsimp only | split
)

theorem keeps_busWrite (h : Keeps l s t) (h_regs : Part.regs ∈ l) (h_ans : Part.ans ∈ l) (h_hallIrq : Part.hallIrq ∈ l) (h_free : Part.free ∈ l) (h_mem : Part.mem ∈ l) (h_ms : Part.ms ∈ l) (h_dbg : Part.dbg ∈ l) (r : WriteReq) :
    Keeps l s (t.busWrite r) := by
  unfold State.busWrite
  repeat' (first
    | with_reducible assumption | intro _ | with_reducible apply keeps_ite | with_reducible apply keeps_refuseAccess
    | with_reducible apply keeps_refusedAns | with_reducible apply keeps_incSat | with_reducible apply keeps_ack
    | with_reducible apply keeps_writeWords | with_reducible apply keeps_yieldFor | with_reducible apply keeps_countConflict | dsimp only | split
)

theorem keeps_countCollision (h : Keeps l s t) (h_regs : Part.regs ∈ l) (a : Nat) :
    Keeps l s (t.countCollision a) := by
  unfold State.countCollision
  repeat' (first
    | with_reducible assumption | intro _ | with_reducible apply keeps_ite | with_reducible apply keeps_inc | dsimp only | split
)

theorem keeps_harrowFailCore (h : Keeps l s t) (h_regs : Part.regs ∈ l) (f : FailRow) :
    Keeps l s (t.harrowFailCore f) := by
  unfold State.harrowFailCore
  repeat' (first
    | with_reducible assumption | intro _ | with_reducible apply keeps_ite | with_reducible apply keeps_wr
)

theorem keeps_harrowRefuse (h : Keeps l s t) (h_regs : Part.regs ∈ l) (cause : Nat) :
    Keeps l s (t.harrowRefuse cause) := by
  unfold State.harrowRefuse
  repeat' (first
    | with_reducible assumption | intro _ | with_reducible apply keeps_ite | with_reducible apply keeps_wr
)

theorem keeps_harrowRow (h : Keeps l s t) (h_regs : Part.regs ∈ l) (h_hallIrq : Part.hallIrq ∈ l) (h_ms : Part.ms ∈ l) (h_dbg : Part.dbg ∈ l) (inst : Nat) (repair : Bool) (f : FailRow) :
    Keeps l s (t.harrowRow inst repair f) := by
  unfold State.harrowRow
  repeat' (first
    | with_reducible assumption | intro _ | with_reducible apply keeps_ite | with_reducible apply keeps_wr
    | with_reducible apply keeps_logAt | with_reducible apply keeps_add | dsimp only | split | with_reducible apply keeps_set_ms
)

theorem keeps_harrowRows (h : Keeps l s t) (h_regs : Part.regs ∈ l) (h_hallIrq : Part.hallIrq ∈ l) (h_ms : Part.ms ∈ l) (h_dbg : Part.dbg ∈ l) (inst : Nat) (repair : Bool) (x3 : List FailRow) :
    Keeps l s (t.harrowRows inst repair x3) := by
  induction x3 generalizing t with
  | nil =>
    unfold State.harrowRows
    repeat' (with_reducible assumption

)
  | cons y r ih =>
    unfold State.harrowRows
    repeat' (first
      | with_reducible assumption | intro _ | with_reducible apply ih | with_reducible apply keeps_ite | with_reducible apply keeps_harrowRow
      | with_reducible apply keeps_harrowFailCore
)

theorem keeps_poolLedger (h : Keeps l s t) (h_regs : Part.regs ∈ l) (h_hallIrq : Part.hallIrq ∈ l) (h_tally : Part.tally ∈ l) (h_dbg : Part.dbg ∈ l) (p : Nat) (issued : Nat) (returned : Nat) :
    Keeps l s (t.poolLedger p issued returned) := by
  unfold State.poolLedger
  repeat' (first
    | with_reducible assumption | intro _ | with_reducible apply keeps_ite | with_reducible apply keeps_ledgerCount
)

theorem keeps_showHeld (h : Keeps l s t) (h_regs : Part.regs ∈ l) (p : Nat) :
    Keeps l s (t.showHeld p) := by
  unfold State.showHeld
  repeat' (first
    | with_reducible assumption | intro _ | with_reducible apply keeps_ite | with_reducible apply keeps_wr
)

theorem keeps_setPool (h : Keeps l s t) (h_ms : Part.ms ∈ l) (p : Nat) (x : Pool) :
    Keeps l s (t.setPool p x) := by
  unfold State.setPool
  repeat' (first
    | with_reducible assumption | intro _ | with_reducible apply keeps_ite | dsimp only | split | with_reducible apply keeps_set_ms
)

theorem keeps_poolReturn (h : Keeps l s t) (h_regs : Part.regs ∈ l) (h_hallIrq : Part.hallIrq ∈ l) (h_ms : Part.ms ∈ l) (h_tally : Part.tally ∈ l) (h_dbg : Part.dbg ∈ l) (p : Nat) (i : Nat) :
    Keeps l s (t.poolReturn p i) := by
  unfold State.poolReturn
  repeat' (first
    | with_reducible assumption | intro _ | with_reducible apply keeps_ite | with_reducible apply keeps_poolLedger
    | with_reducible apply keeps_showHeld | with_reducible apply keeps_setPool)

theorem keeps_releaseBad (h : Keeps l s t) (h_regs : Part.regs ∈ l) (tok : Nat) :
    Keeps l s (t.releaseBad tok) := by
  unfold State.releaseBad
  repeat' (first
    | with_reducible assumption | intro _ | with_reducible apply keeps_ite | with_reducible apply keeps_wr
)

theorem keeps_poolRelease (h : Keeps l s t) (h_regs : Part.regs ∈ l) (h_hallIrq : Part.hallIrq ∈ l) (h_ms : Part.ms ∈ l) (h_tally : Part.tally ∈ l) (h_dbg : Part.dbg ∈ l) (p : Nat) (tok : Nat) :
    Keeps l s (t.poolRelease p tok) := by
  unfold State.poolRelease
  repeat' (first
    | with_reducible assumption | intro _ | with_reducible apply keeps_ite | with_reducible apply keeps_poolReturn
    | with_reducible apply keeps_releaseBad)

theorem keeps_poolSweep (h : Keeps l s t) (h_regs : Part.regs ∈ l) (h_hallIrq : Part.hallIrq ∈ l) (h_ms : Part.ms ∈ l) (h_tally : Part.tally ∈ l) (h_dbg : Part.dbg ∈ l) (g : Nat) (w : Nat) (p : Nat) :
    Keeps l s (t.poolSweep g w p) := by
  unfold State.poolSweep
  repeat' (first
    | with_reducible assumption | intro _ | with_reducible apply keeps_ite | with_reducible apply keeps_inc
    | with_reducible apply keeps_poolReturn | with_reducible apply keeps_foldl
)

theorem keeps_poolTake (h : Keeps l s t) (h_regs : Part.regs ∈ l) (h_hallIrq : Part.hallIrq ∈ l) (h_ms : Part.ms ∈ l) (h_tally : Part.tally ∈ l) (h_dbg : Part.dbg ∈ l) (p : Nat) (stamp : Option (Nat × Nat)) :
    Keeps l s (t.poolTake p stamp).2 := by
  unfold State.poolTake
  repeat' (first
    | with_reducible assumption | intro _ | with_reducible apply keeps_ite | with_reducible apply keeps_inc
    | with_reducible apply keeps_poolLedger | with_reducible apply keeps_showHeld | with_reducible apply keeps_setPool | dsimp only | split
)

theorem keeps_poolTakeWriter (h : Keeps l s t) (h_regs : Part.regs ∈ l) (h_hallIrq : Part.hallIrq ∈ l) (h_ms : Part.ms ∈ l) (h_tally : Part.tally ∈ l) (h_dbg : Part.dbg ∈ l) (p : Nat) (g : Nat) (tag : Nat) :
    Keeps l s (t.poolTakeWriter p g tag).2 := by
  unfold State.poolTakeWriter
  repeat' (first
    | with_reducible assumption | intro _ | with_reducible apply keeps_ite | with_reducible apply keeps_poolTake
)

theorem keeps_preserveWord (h : Keeps l s t) (h_regs : Part.regs ∈ l) (h_hallIrq : Part.hallIrq ∈ l) (h_mem : Part.mem ∈ l) (h_ms : Part.ms ∈ l) (h_dbg : Part.dbg ∈ l) (b : Nat) (a : Nat) :
    Keeps l s (t.preserveWord b a) := by
  unfold State.preserveWord
  repeat' (first
    | with_reducible assumption | intro _ | with_reducible apply keeps_ite | with_reducible apply keeps_setMem
    | with_reducible apply keeps_logAt | with_reducible apply Memory.wf_putRaw | with_reducible apply Memory.wf_put
    | with_reducible apply Memory.wf_fill | with_reducible apply Memory.wf_foldl | dsimp only | split)

theorem keeps_putPattern (h : Keeps l s t) (h_mem : Part.mem ∈ l) (mem : Nat) (inst : Nat) (r : Nat) (x4 : Nat) :
    Keeps l s (t.putPattern mem inst r x4) := by
  induction x4 generalizing t with
  | zero =>
    unfold State.putPattern
    repeat' (with_reducible assumption


)
  | succ n ih =>
    unfold State.putPattern
    repeat' (first
      | with_reducible assumption | intro _ | with_reducible apply ih | with_reducible apply keeps_ite | with_reducible apply keeps_setMem
      | with_reducible apply keeps_setMem | with_reducible apply keeps_setMem | with_reducible apply Memory.wf_putRaw

)

theorem keeps_readLine (h : Keeps l s t) (h_regs : Part.regs ∈ l) (h_ans : Part.ans ∈ l) (h_hallIrq : Part.hallIrq ∈ l) (h_ms : Part.ms ∈ l) (h_dbg : Part.dbg ∈ l) (k : Nat) (mid : Mid) (a : Nat) (n : Nat) :
    Keeps l s (t.readLine k mid a n) := by
  unfold State.readLine
  repeat' (first
    | with_reducible assumption | intro _ | with_reducible apply keeps_ite | with_reducible apply keeps_countRead
    | with_reducible apply keeps_logAt | with_reducible apply keeps_inc | with_reducible apply keeps_readWord | with_reducible apply keeps_reply
    | with_reducible apply keeps_foldl | with_reducible apply keeps_foldl_snd | refine Keeps.snd_eq (by assumption) ?_ | dsimp only | split
    | with_reducible apply keeps_set_ms)

theorem keeps_execGranaryPoolTake (h : Keeps l s t) (h_regs : Part.regs ∈ l) (h_ans : Part.ans ∈ l) (h_hallIrq : Part.hallIrq ∈ l) (h_ms : Part.ms ∈ l) (h_tally : Part.tally ∈ l) (h_dbg : Part.dbg ∈ l) (pool : Fin 128) :
    KeepsOut l s (execGranaryPoolTake pool t) := by
  unfold execGranaryPoolTake
  repeat' (first
    | with_reducible assumption | intro _ | with_reducible apply keeps_ite | with_reducible apply keepsOut_ite
    | with_reducible apply keepsOut_next | with_reducible apply keepsOut_fault | with_reducible apply keeps_poolTake
    | with_reducible apply keeps_reply | refine Keeps.snd_eq (by assumption) ?_ | dsimp only | split)

end Sys2Proof.Machine
end

