-- ==== Sys2Proof/Laws/KeepsSteeple.lean ====
section
/-! SUPPORT. Laws/KeepsSteeple.lean: which parts of the state each operation of Machine/Steeple.lean may change, and that it keeps the
canonical forms. -/

namespace Sys2Proof.Machine

variable {l : List Part} {s t : State}

theorem keeps_setStp (h : Keeps l s t) (h_stp : Part.stp ∈ l) (x : Steeple) :
    Keeps l s (t.setStp x) := by
  unfold State.setStp
  repeat' (first
    | with_reducible assumption | intro _ | with_reducible apply keeps_ite | dsimp only | split | with_reducible apply keeps_set_stp
)

theorem keeps_advance (h : Keeps l s t) (h_regs : Part.regs ∈ l) (h_stp : Part.stp ∈ l) :
    Keeps l s (t.advance) := by
  unfold State.advance
  repeat' (first
    | with_reducible assumption | intro _ | with_reducible apply keeps_ite | with_reducible apply keeps_setStp
    | with_reducible apply keeps_wrB)

theorem keeps_setBell (h : Keeps l s t) (h_stp : Part.stp ∈ l) (b : Nat) (x : Bell) :
    Keeps l s (t.setBell b x) := by
  unfold State.setBell
  repeat' (first
    | with_reducible assumption | intro _ | with_reducible apply keeps_ite | dsimp only | split | with_reducible apply keeps_set_stp
)

theorem keeps_bellBegin (h : Keeps l s t) (h_regs : Part.regs ∈ l) (h_stp : Part.stp ∈ l) (b : Nat) (m : Nat) :
    Keeps l s (t.bellBegin b m) := by
  unfold State.bellBegin
  repeat' (first
    | with_reducible assumption | intro _ | with_reducible apply keeps_ite | with_reducible apply keeps_wr | with_reducible apply keeps_inc
    | with_reducible apply keeps_setBell)

theorem keeps_bellCfg (h : Keeps l s t) (h_regs : Part.regs ∈ l) (h_stp : Part.stp ∈ l) (b : Nat) (v : Word) :
    Keeps l s (t.bellCfg b v) := by
  unfold State.bellCfg
  repeat' (first
    | with_reducible assumption | intro _ | with_reducible apply keeps_ite | with_reducible apply keeps_bellBegin
    | with_reducible apply keeps_wrWord)

theorem keeps_bellPulse (h : Keeps l s t) (h_hallIrq : Part.hallIrq ∈ l) (h_stp : Part.stp ∈ l) (b : Nat) (t_2 : Int) (x : Bell) :
    Keeps l s (t.bellPulse b t_2 x) := by
  unfold State.bellPulse
  repeat' (first
    | with_reducible assumption | intro _ | with_reducible apply keeps_ite | with_reducible apply keeps_irqIf
    | with_reducible apply keeps_setBell)

theorem keeps_dpllTo (h : Keeps l s t) (h_regs : Part.regs ∈ l) (h_dbg : Part.dbg ∈ l) (d : Nat) :
    Keeps l s (t.dpllTo d) := by
  unfold State.dpllTo
  repeat' (first
    | with_reducible assumption | intro _ | with_reducible apply keeps_ite | with_reducible apply keeps_raise
    | with_reducible apply keeps_wr)

theorem keeps_dpllAcquire (h : Keeps l s t) (h_regs : Part.regs ∈ l) (h_stp : Part.stp ∈ l) (h_dbg : Part.dbg ∈ l) (src : Nat) :
    Keeps l s (t.dpllAcquire src) := by
  unfold State.dpllAcquire
  repeat' (first
    | with_reducible assumption | intro _ | with_reducible apply keeps_ite | with_reducible apply keeps_wr
    | with_reducible apply keeps_dpllTo | with_reducible apply keeps_setStp)

theorem keeps_dpllCount (h : Keeps l s t) (h_regs : Part.regs ∈ l) (h_stp : Part.stp ∈ l) (h_dbg : Part.dbg ∈ l) (filtered : Int) :
    Keeps l s (t.dpllCount filtered) := by
  unfold State.dpllCount
  repeat' (first
    | with_reducible assumption | intro _ | with_reducible apply keeps_ite | with_reducible apply keeps_setStp
    | with_reducible apply keeps_wr | with_reducible apply keeps_dpllTo)

theorem keeps_dpllCtrl (h : Keeps l s t) (h_regs : Part.regs ∈ l) (h_stp : Part.stp ∈ l) (h_dbg : Part.dbg ∈ l) (v : Word) :
    Keeps l s (t.dpllCtrl v) := by
  unfold State.dpllCtrl
  repeat' (first
    | with_reducible assumption | intro _ | with_reducible apply keeps_ite | with_reducible apply keeps_wrWord
    | with_reducible apply keeps_dpllTo | with_reducible apply keeps_wr | with_reducible apply keeps_dpllAcquire
)

theorem keeps_dpllSteer (h : Keeps l s t) (h_regs : Part.regs ∈ l) (h_stp : Part.stp ∈ l) (err : Int) (freq : Nat) :
    Keeps l s (t.dpllSteer err freq) := by
  unfold State.dpllSteer
  repeat' (first
    | with_reducible assumption | intro _ | with_reducible apply keeps_ite | with_reducible apply keeps_wr
    | with_reducible apply keeps_setStp | with_reducible apply keeps_wrB)

theorem keeps_dpllUpdate (h : Keeps l s t) (h_regs : Part.regs ∈ l) (h_stp : Part.stp ∈ l) (h_dbg : Part.dbg ∈ l) (src : Nat) (err : Int) (filtered : Int) (freq : Nat) :
    Keeps l s (t.dpllUpdate src err filtered freq) := by
  unfold State.dpllUpdate
  repeat' (first
    | with_reducible assumption | intro _ | with_reducible apply keeps_ite | with_reducible apply keeps_dpllTo
    | with_reducible apply keeps_setStp | with_reducible apply keeps_dpllAcquire | with_reducible apply keeps_dpllCount
    | with_reducible apply keeps_dpllSteer)

theorem keeps_setGroup (h : Keeps l s t) (h_stp : Part.stp ∈ l) (g : Nat) (x : LockGroup) :
    Keeps l s (t.setGroup g x) := by
  unfold State.setGroup
  repeat' (first
    | with_reducible assumption | intro _ | with_reducible apply keeps_ite | dsimp only | split | with_reducible apply keeps_set_stp
)

theorem keeps_setLost (h : Keeps l s t) (h_regs : Part.regs ∈ l) (h_stp : Part.stp ∈ l) (d : Nat) (lost : Bool) :
    Keeps l s (t.setLost d lost) := by
  unfold State.setLost
  repeat' (first
    | with_reducible assumption | intro _ | with_reducible apply keeps_ite | with_reducible apply keeps_wr
    | with_reducible apply keeps_setStp)

theorem keeps_showCap (h : Keeps l s t) (h_regs : Part.regs ∈ l) (h_stp : Part.stp ∈ l) (p : Nat) (l_2 : List Stamp) :
    Keeps l s (t.showCap p l_2) := by
  unfold State.showCap
  repeat' (first
    | with_reducible assumption | intro _ | with_reducible apply keeps_ite | with_reducible apply keeps_wr | dsimp only | split
    | with_reducible apply keeps_set_stp)

theorem keeps_showSlot (h : Keeps l s t) (h_regs : Part.regs ∈ l) (g : Nat) (n : Int) :
    Keeps l s (t.showSlot g n) := by
  unfold State.showSlot
  repeat' (first
    | with_reducible assumption | intro _ | with_reducible apply keeps_ite | with_reducible apply keeps_wr
)

end Sys2Proof.Machine
end

