-- ==== Sys2Proof/Laws/KeepsOperands.lean ====
section
/-! SUPPORT. Laws/KeepsOperands.lean: which parts of the state each operation of Machine/Operands.lean may change, and that it keeps the
canonical forms. -/

namespace Sys2Proof.Machine

variable {l : List Part} {s t : State}

theorem keeps_setCore (h : Keeps l s t) (h_cores : Part.cores ∈ l) (k : Nat) (c : Core) :
    Keeps l s (t.setCore k c) := by
  unfold State.setCore
  repeat' (first
    | with_reducible assumption | intro _ | with_reducible apply keeps_ite | dsimp only | split | with_reducible apply keeps_set_cores
)

theorem keeps_modCore (h : Keeps l s t) (h_cores : Part.cores ∈ l) (k : Nat) (f : Core → Core) :
    Keeps l s (t.modCore k f) := by
  unfold State.modCore
  repeat' (first
    | with_reducible assumption | intro _ | with_reducible apply keeps_ite | with_reducible apply keeps_setCore
)

end Sys2Proof.Machine
end

