-- ==== Sys2Proof/Laws/KeepsHortyMem.lean ====
section
/-! SUPPORT. Laws/KeepsHortyMem.lean: which parts of the state each operation of Machine/HortyMem.lean may change, and that it keeps the
canonical forms. -/

namespace Sys2Proof.Machine

variable {l : List Part} {s t : State}

theorem keeps_cleanLine (h : Keeps l s t) (h_mem : Part.mem ∈ l) (h_ms : Part.ms ∈ l) (j : Nat) (a : Nat) (write : Bool) (discard : Bool) :
    Keeps l s (t.cleanLine j a write discard) := by
  unfold State.cleanLine
  repeat' (first
    | with_reducible assumption | intro _ | with_reducible apply keeps_ite | with_reducible apply keeps_writeWords | dsimp only | split
    | with_reducible apply keeps_set_ms)

theorem keeps_fillLine (h : Keeps l s t) (h_regs : Part.regs ∈ l) (h_hallIrq : Part.hallIrq ∈ l) (h_ms : Part.ms ∈ l) (h_dbg : Part.dbg ∈ l) (j : Nat) (mid : Mid) (a : Nat) :
    Keeps l s (t.fillLine j mid a) := by
  unfold State.fillLine
  repeat' (first
    | with_reducible assumption | intro _ | with_reducible apply keeps_ite | with_reducible apply keeps_readWords
    | refine Keeps.snd_eq (by assumption) ?_ | dsimp only | split | with_reducible apply keeps_set_ms)

theorem keeps_hallRead (h : Keeps l s t) (h_regs : Part.regs ∈ l) (h_hallIrq : Part.hallIrq ∈ l) (h_mem : Part.mem ∈ l) (h_ms : Part.ms ∈ l) (h_dbg : Part.dbg ∈ l) (k : Nat) (mid : Mid) (a : Nat) :
    Keeps l s (t.hallRead k mid a).2 := by
  unfold State.hallRead
  repeat' (first
    | with_reducible assumption | intro _ | with_reducible apply keeps_ite | with_reducible apply keeps_fillLine
    | with_reducible apply keeps_countRead | with_reducible apply keeps_logAt | with_reducible apply keeps_inc | with_reducible apply keeps_cleanLine
    | dsimp only | split)

theorem keeps_putLine (h : Keeps l s t) (h_ms : Part.ms ∈ l) (j : Nat) (a : Nat) (w : PWord) :
    Keeps l s (t.putLine j a w) := by
  unfold State.putLine
  repeat' (first
    | with_reducible assumption | intro _ | with_reducible apply keeps_ite | dsimp only | split | with_reducible apply keeps_set_ms
)

theorem keeps_hallWrite (h : Keeps l s t) (h_regs : Part.regs ∈ l) (h_hallIrq : Part.hallIrq ∈ l) (h_mem : Part.mem ∈ l) (h_ms : Part.ms ∈ l) (h_dbg : Part.dbg ∈ l) (k : Nat) (mid : Mid) (a : Nat) (size : Nat) (data : Nat) (mark : Bool) :
    Keeps l s (t.hallWrite k mid a size data mark) := by
  unfold State.hallWrite
  repeat' (first
    | with_reducible assumption | intro _ | with_reducible apply keeps_ite | with_reducible apply keeps_hallRead
    | with_reducible apply keeps_putLine)

theorem keeps_readPart (h : Keeps l s t) (h_regs : Part.regs ∈ l) (h_hallIrq : Part.hallIrq ∈ l) (h_mem : Part.mem ∈ l) (h_ms : Part.ms ∈ l) (h_dbg : Part.dbg ∈ l) (mid : Mid) (st : Nat) (size : Nat) :
    Keeps l s (t.readPart mid st size).2 := by
  unfold State.readPart
  repeat' (first
    | with_reducible assumption | intro _ | with_reducible apply keeps_ite | with_reducible apply keeps_yieldFor
    | with_reducible apply keeps_readWord)

theorem keeps_serveRead (h : Keeps l s t) (h_regs : Part.regs ∈ l) (h_hallIrq : Part.hallIrq ∈ l) (h_mem : Part.mem ∈ l) (h_ms : Part.ms ∈ l) (h_dbg : Part.dbg ∈ l) (k : Nat) (a : Access) :
    Keeps l s (t.serveRead k a).2 := by
  unfold State.serveRead
  repeat' (first
    | with_reducible assumption | intro _ | with_reducible apply keeps_ite | with_reducible apply keeps_readPart
    | with_reducible apply keeps_hallRead | refine Keeps.snd_eq (by assumption) ?_ | dsimp only | split)

theorem keeps_writePart (h : Keeps l s t) (h_regs : Part.regs ∈ l) (h_hallIrq : Part.hallIrq ∈ l) (h_mem : Part.mem ∈ l) (h_ms : Part.ms ∈ l) (h_dbg : Part.dbg ∈ l) (mid : Mid) (st : Nat) (size : Nat) (data : Nat) (mark : Bool) :
    Keeps l s (t.writePart mid st size data mark) := by
  unfold State.writePart
  repeat' (first
    | with_reducible assumption | intro _ | with_reducible apply keeps_ite | with_reducible apply keeps_yieldFor
    | with_reducible apply keeps_setMem | with_reducible apply keeps_rmwWord | with_reducible apply Memory.wf_putRaw
    | with_reducible apply Memory.wf_put
)

theorem keeps_serveWrite (h : Keeps l s t) (h_regs : Part.regs ∈ l) (h_hallIrq : Part.hallIrq ∈ l) (h_mem : Part.mem ∈ l) (h_ms : Part.ms ∈ l) (h_dbg : Part.dbg ∈ l) (k : Nat) (a : Access) :
    Keeps l s (t.serveWrite k a) := by
  unfold State.serveWrite
  repeat' (first
    | with_reducible assumption | intro _ | with_reducible apply keeps_ite | with_reducible apply keeps_writePart
    | with_reducible apply keeps_hallWrite)

theorem keeps_vloadDo (h : Keeps l s t) (h_regs : Part.regs ∈ l) (h_hallIrq : Part.hallIrq ∈ l) (h_cores : Part.cores ∈ l) (h_mem : Part.mem ∈ l) (h_ms : Part.ms ∈ l) (h_dbg : Part.dbg ∈ l) (k : Nat) (dst : Nat) (ew : Nat) (es : List (Nat × Nat)) :
    Keeps l s (t.vloadDo k dst ew es) := by
  unfold State.vloadDo
  repeat' (first
    | with_reducible assumption | intro _ | with_reducible apply keeps_ite | with_reducible apply keeps_readPart
    | with_reducible apply keeps_setCore | with_reducible apply keeps_foldl | with_reducible apply keeps_foldl_snd
)

theorem keeps_vstoreDo (h : Keeps l s t) (h_regs : Part.regs ∈ l) (h_hallIrq : Part.hallIrq ∈ l) (h_mem : Part.mem ∈ l) (h_ms : Part.ms ∈ l) (h_dbg : Part.dbg ∈ l) (k : Nat) (ew : Nat) (es : List (Nat × Nat × Nat × Bool)) :
    Keeps l s (t.vstoreDo k ew es) := by
  unfold State.vstoreDo
  repeat' (first
    | with_reducible assumption | intro _ | with_reducible apply keeps_ite | with_reducible apply keeps_writePart
    | with_reducible apply keeps_foldl)

end Sys2Proof.Machine
end

