-- ==== Sys2Proof/Laws/KeepsQuern.lean ====
section
/-! SUPPORT. Laws/KeepsQuern.lean: which parts of the state each operation of Machine/Quern.lean may change, and that it keeps the
canonical forms. -/

namespace Sys2Proof.Machine

variable {l : List Part} {s t : State}

theorem keeps_setQuern (h : Keeps l s t) (h_regs : Part.regs ∈ l) (h_querns : Part.querns ∈ l) (h_1 : Nat) (q : Quern) :
    Keeps l s (t.setQuern h_1 q) := by
  unfold State.setQuern
  repeat' (first
    | with_reducible assumption | intro _ | with_reducible apply keeps_ite | with_reducible apply keeps_wr | with_reducible apply keeps_wrB
    | dsimp only | split | with_reducible apply keeps_set_querns)

theorem keeps_quernEnd (h : Keeps l s t) (h_regs : Part.regs ∈ l) (h_1 : Nat) (c : Nat) (j : QuernJob) (status : Nat) (late : Bool) :
    Keeps l s (t.quernEnd h_1 c j status late) := by
  unfold State.quernEnd
  repeat' (first
    | with_reducible assumption | intro _ | with_reducible apply keeps_ite | with_reducible apply keeps_wr | with_reducible apply keeps_wrB
    | with_reducible apply keeps_inc)

theorem keeps_quernAbort (h : Keeps l s t) (h_regs : Part.regs ∈ l) (h_querns : Part.querns ∈ l) (h_1 : Nat) :
    Keeps l s (t.quernAbort h_1) := by
  unfold State.quernAbort
  repeat' (first
    | with_reducible assumption | intro _ | with_reducible apply keeps_ite | with_reducible apply keeps_setQuern
    | with_reducible apply keeps_quernEnd | with_reducible apply keeps_foldl
)

theorem keeps_quernFinish (h : Keeps l s t) (h_regs : Part.regs ∈ l) (h_querns : Part.querns ∈ l) (h_mem : Part.mem ∈ l) (h_1 : Nat) :
    Keeps l s (t.quernFinish h_1) := by
  unfold State.quernFinish
  repeat' (first
    | with_reducible assumption | intro _ | with_reducible apply keeps_ite | with_reducible apply keeps_writeWords
    | with_reducible apply keeps_setQuern | with_reducible apply keeps_quernEnd | dsimp only | split)

theorem keeps_quernFree (h : Keeps l s t) (h_regs : Part.regs ∈ l) (h_querns : Part.querns ∈ l) (h_1 : Nat) :
    Keeps l s (t.quernFree h_1) := by
  unfold State.quernFree
  repeat' (first
    | with_reducible assumption | intro _ | with_reducible apply keeps_ite | with_reducible apply keeps_setQuern
)

theorem keeps_quernForce (h : Keeps l s t) (h_regs : Part.regs ∈ l) (h_querns : Part.querns ∈ l) (h_1 : Nat) (c : Nat) (slot : Nat) :
    Keeps l s (t.quernForce h_1 c slot) := by
  unfold State.quernForce
  repeat' (first
    | with_reducible assumption | intro _ | with_reducible apply keeps_ite | with_reducible apply keeps_incSat
    | with_reducible apply keeps_quernFree | with_reducible apply keeps_quernAbort)

theorem keeps_quernLock (h : Keeps l s t) (h_regs : Part.regs ∈ l) (h_querns : Part.querns ∈ l) (k : Nat) :
    Keeps l s (t.quernLock k).2 := by
  unfold State.quernLock
  repeat' (first
    | with_reducible assumption | intro _ | with_reducible apply keeps_ite | with_reducible apply keeps_setQuern
    | with_reducible apply keeps_incSat | dsimp only | split)

theorem keeps_quernRead (h : Keeps l s t) (h_regs : Part.regs ∈ l) (h_hallIrq : Part.hallIrq ∈ l) (h_ms : Part.ms ∈ l) (h_dbg : Part.dbg ∈ l) (k : Nat) (p : Nat) (fmt : Nat) :
    Keeps l s (t.quernRead k p fmt).2 := by
  unfold State.quernRead
  repeat' (first
    | with_reducible assumption | intro _ | with_reducible apply keeps_ite | with_reducible apply keeps_readWords
    | refine Keeps.snd_eq (by assumption) ?_ | dsimp only | split)

theorem keeps_quernReadLow (h : Keeps l s t) (h_regs : Part.regs ∈ l) (h_hallIrq : Part.hallIrq ∈ l) (h_ms : Part.ms ∈ l) (h_dbg : Part.dbg ∈ l) (k : Nat) (p : Nat) (fmt : Nat) :
    Keeps l s (t.quernReadLow k p fmt).2 := by
  unfold State.quernReadLow
  repeat' (first
    | with_reducible assumption | intro _ | with_reducible apply keeps_ite | with_reducible apply keeps_readWord
    | with_reducible apply keeps_foldl | with_reducible apply keeps_foldl_snd | refine Keeps.snd_eq (by assumption) ?_ | dsimp only | split
)

theorem keeps_quernStart (h : Keeps l s t) (h_regs : Part.regs ∈ l) (h_hallIrq : Part.hallIrq ∈ l) (h_querns : Part.querns ∈ l) (h_ms : Part.ms ∈ l) (h_dbg : Part.dbg ∈ l) (h_1 : Nat) :
    Keeps l s (t.quernStart h_1) := by
  unfold State.quernStart
  repeat' (first
    | with_reducible assumption | intro _ | with_reducible apply keeps_ite | with_reducible apply keeps_quernReadLow
    | with_reducible apply keeps_quernRead | refine Keeps.snd_eq (by assumption) ?_ | dsimp only | split | with_reducible apply keeps_set_querns
)

theorem keeps_quernSubmit (h : Keeps l s t) (h_regs : Part.regs ∈ l) (h_hallIrq : Part.hallIrq ∈ l) (h_querns : Part.querns ∈ l) (h_ms : Part.ms ∈ l) (h_dbg : Part.dbg ∈ l) (k : Nat) (op : Nat) (fmt : Nat) (x : Nat) (y : Nat) (z : Nat) :
    Keeps l s (t.quernSubmit k op fmt x y z) := by
  unfold State.quernSubmit
  repeat' (first
    | with_reducible assumption | intro _ | with_reducible apply keeps_ite | with_reducible apply keeps_setQuern
    | with_reducible apply keeps_quernStart)

end Sys2Proof.Machine
end

