-- ==== Sys2Proof/Laws/KeepsReeve.lean ====
section
/-! SUPPORT. Laws/KeepsReeve.lean: which parts of the state each operation of Machine/Reeve.lean may change, and that it keeps the
canonical forms. -/

namespace Sys2Proof.Machine

variable {l : List Part} {s t : State}

theorem keeps_showReeve (h : Keeps l s t) (h_regs : Part.regs ∈ l) :
    Keeps l s (t.showReeve) := by
  unfold State.showReeve
  repeat' (first
    | with_reducible assumption | intro _ | with_reducible apply keeps_ite | with_reducible apply keeps_wr | with_reducible apply keeps_wrB
    | with_reducible apply keeps_foldl)

theorem keeps_setItem (h : Keeps l s t) (h_regs : Part.regs ∈ l) (h_reeve : Part.reeve ∈ l) (slot : Nat) (i : Option Item) :
    Keeps l s (t.setItem slot i) := by
  unfold State.setItem
  repeat' (first
    | with_reducible assumption | intro _ | with_reducible apply keeps_ite | with_reducible apply keeps_showReeve | dsimp only | split
    | with_reducible apply keeps_set_reeve)

theorem keeps_modItem (h : Keeps l s t) (h_regs : Part.regs ∈ l) (h_reeve : Part.reeve ∈ l) (slot : Nat) (f : Item → Item) :
    Keeps l s (t.modItem slot f) := by
  unfold State.modItem
  repeat' (first
    | with_reducible assumption | intro _ | with_reducible apply keeps_ite | with_reducible apply keeps_setItem | dsimp only | split
)

theorem keeps_setQueue (h : Keeps l s t) (h_regs : Part.regs ∈ l) (h_reeve : Part.reeve ∈ l) (q : Nat) (x : ReportQueue) :
    Keeps l s (t.setQueue q x) := by
  unfold State.setQueue
  repeat' (first
    | with_reducible assumption | intro _ | with_reducible apply keeps_ite | with_reducible apply keeps_showReeve
    | with_reducible apply keeps_wrB | with_reducible apply keeps_wr | dsimp only | split | with_reducible apply keeps_set_reeve
)

theorem keeps_placeReport (h : Keeps l s t) (h_regs : Part.regs ∈ l) (h_hallIrq : Part.hallIrq ∈ l) (h_hostIrq : Part.hostIrq ∈ l) (h_reeve : Part.reeve ∈ l) (q : Nat) (slot : Nat) :
    Keeps l s (t.placeReport q slot) := by
  unfold State.placeReport
  repeat' (first
    | with_reducible assumption | intro _ | with_reducible apply keeps_ite | with_reducible apply keeps_setQueue
    | with_reducible apply keeps_modItem | with_reducible apply keeps_irqHost | with_reducible apply keeps_irq | dsimp only | split
)

theorem keeps_postReport (h : Keeps l s t) (h_regs : Part.regs ∈ l) (h_hallIrq : Part.hallIrq ∈ l) (h_hostIrq : Part.hostIrq ∈ l) (h_reeve : Part.reeve ∈ l) (slot : Nat) :
    Keeps l s (t.postReport slot) := by
  unfold State.postReport
  repeat' (first
    | with_reducible assumption | intro _ | with_reducible apply keeps_ite | with_reducible apply keeps_modItem
    | with_reducible apply keeps_placeReport | with_reducible apply keeps_setQueue | dsimp only | split)

theorem keeps_freeSlot (h : Keeps l s t) (h_regs : Part.regs ∈ l) (h_hallIrq : Part.hallIrq ∈ l) (h_reeve : Part.reeve ∈ l) (h_tally : Part.tally ∈ l) (h_dbg : Part.dbg ∈ l) (slot : Nat) :
    Keeps l s (t.freeSlot slot) := by
  unfold State.freeSlot
  repeat' (first
    | with_reducible assumption | intro _ | with_reducible apply keeps_ite | with_reducible apply keeps_ledgerCount
    | with_reducible apply keeps_setItem | dsimp only | split | with_reducible apply keeps_set_reeve)

theorem keeps_release (h : Keeps l s t) (h_regs : Part.regs ∈ l) (h_hallIrq : Part.hallIrq ∈ l) (h_reeve : Part.reeve ∈ l) (h_tally : Part.tally ∈ l) (h_dbg : Part.dbg ∈ l) (slot : Nat) :
    Keeps l s (t.release slot) := by
  unfold State.release
  repeat' (first
    | with_reducible assumption | intro _ | with_reducible apply keeps_ite | with_reducible apply keeps_freeSlot
    | with_reducible apply keeps_setItem | dsimp only | split)

theorem keeps_countEnd (h : Keeps l s t) (h_regs : Part.regs ∈ l) (i : Item) (o : ItemEnd) :
    Keeps l s (t.countEnd i o) := by
  unfold State.countEnd
  repeat' (first
    | with_reducible assumption | intro _ | with_reducible apply keeps_ite | with_reducible apply keeps_inc | dsimp only | split
)

theorem keeps_sendToken (h : Keeps l s t) (h_regs : Part.regs ∈ l) (h_hallIrq : Part.hallIrq ∈ l) (h_reeve : Part.reeve ∈ l) (h_tally : Part.tally ∈ l) (h_dbg : Part.dbg ∈ l) (byReeve : Bool) (t_2 : Token) :
    Keeps l s (t.sendToken byReeve t_2) := by
  unfold State.sendToken
  repeat' (first
    | with_reducible assumption | intro _ | with_reducible apply keeps_ite | with_reducible apply keeps_decrIssue | dsimp only | split
    | with_reducible apply keeps_set_reeve)

theorem keeps_sendSuccs (h : Keeps l s t) (h_regs : Part.regs ∈ l) (h_hallIrq : Part.hallIrq ∈ l) (h_reeve : Part.reeve ∈ l) (h_tally : Part.tally ∈ l) (h_dbg : Part.dbg ∈ l) (i : Item) (lapse : Bool) :
    Keeps l s (t.sendSuccs i lapse) := by
  unfold State.sendSuccs
  repeat' (first
    | with_reducible assumption | intro _ | with_reducible apply keeps_ite | with_reducible apply keeps_sendToken
    | with_reducible apply keeps_foldl | with_reducible apply keeps_foldl_snd | dsimp only | split)

theorem keeps_setFlags (h : Keeps l s t) (h_regs : Part.regs ∈ l) (g : Nat) (v : DWord) :
    Keeps l s (t.setFlags g v) := by
  unfold State.setFlags
  repeat' (first
    | with_reducible assumption | intro _ | with_reducible apply keeps_ite | with_reducible apply keeps_wr
)

theorem keeps_setRcore (h : Keeps l s t) (h_regs : Part.regs ∈ l) (h_reeve : Part.reeve ∈ l) (h_1 : Nat) (c : Nat) (r : ReeveCore) :
    Keeps l s (t.setRcore h_1 c r) := by
  unfold State.setRcore
  repeat' (first
    | with_reducible assumption | intro _ | with_reducible apply keeps_ite | with_reducible apply keeps_wr | with_reducible apply keeps_wrB
    | dsimp only | split | with_reducible apply keeps_set_reeve)

theorem keeps_modRcore (h : Keeps l s t) (h_regs : Part.regs ∈ l) (h_reeve : Part.reeve ∈ l) (h_1 : Nat) (c : Nat) (f : ReeveCore → ReeveCore) :
    Keeps l s (t.modRcore h_1 c f) := by
  unfold State.modRcore
  repeat' (first
    | with_reducible assumption | intro _ | with_reducible apply keeps_ite | with_reducible apply keeps_setRcore
)

theorem keeps_coreUnirq (h : Keeps l s t) (h_cores : Part.cores ∈ l) (k : Nat) (code : Nat) :
    Keeps l s (t.coreUnirq k code) := by
  unfold State.coreUnirq
  repeat' (first
    | with_reducible assumption | intro _ | with_reducible apply keeps_ite | with_reducible apply keeps_modCore
)

theorem keeps_withdraw (h : Keeps l s t) (h_regs : Part.regs ∈ l) (h_cores : Part.cores ∈ l) (h_reeve : Part.reeve ∈ l) (h_1 : Nat) (c : Nat) :
    Keeps l s (t.withdraw h_1 c) := by
  unfold State.withdraw
  repeat' (first
    | with_reducible assumption | intro _ | with_reducible apply keeps_ite | with_reducible apply keeps_coreUnirq
    | with_reducible apply keeps_setRcore)

theorem keeps_unreserve (h : Keeps l s t) (h_regs : Part.regs ∈ l) (h_cores : Part.cores ∈ l) (h_reeve : Part.reeve ∈ l) (slot : Nat) :
    Keeps l s (t.unreserve slot) := by
  unfold State.unreserve
  repeat' (first
    | with_reducible assumption | intro _ | with_reducible apply keeps_ite | with_reducible apply keeps_modRcore
    | with_reducible apply keeps_withdraw | with_reducible apply keeps_foldl
)

theorem keeps_showTap (h : Keeps l s t) (h_regs : Part.regs ∈ l) (h_dbg : Part.dbg ∈ l) (l_1 : List (List Nat)) :
    Keeps l s (t.showTap l_1) := by
  unfold State.showTap
  repeat' (first
    | with_reducible assumption | intro _ | with_reducible apply keeps_ite | with_reducible apply keeps_wr | dsimp only | split
    | with_reducible apply keeps_set_dbg)

theorem keeps_tapEvent (h : Keeps l s t) (h_regs : Part.regs ∈ l) (h_dbg : Part.dbg ∈ l) (ev : Nat) (slot : Nat) :
    Keeps l s (t.tapEvent ev slot) := by
  unfold State.tapEvent
  repeat' (first
    | with_reducible assumption | intro _ | with_reducible apply keeps_ite | with_reducible apply keeps_showTap
    | with_reducible apply keeps_loseRecord | with_reducible apply keeps_incSat | dsimp only | split)

theorem keeps_conclude (h : Keeps l s t) (h_regs : Part.regs ∈ l) (h_hallIrq : Part.hallIrq ∈ l) (h_hostIrq : Part.hostIrq ∈ l) (h_cores : Part.cores ∈ l) (h_reeve : Part.reeve ∈ l) (h_tally : Part.tally ∈ l) (h_dbg : Part.dbg ∈ l) (slot : Nat) (o : ItemEnd) (late : Bool) :
    Keeps l s (t.conclude slot o late) := by
  unfold State.conclude
  repeat' (first
    | with_reducible assumption | intro _ | with_reducible apply keeps_ite | with_reducible apply keeps_countEnd
    | with_reducible apply keeps_setItem | with_reducible apply keeps_sendSuccs | with_reducible apply keeps_setFlags
    | with_reducible apply keeps_unreserve | with_reducible apply keeps_postReport | with_reducible apply keeps_tapEvent | dsimp only | split
)

theorem keeps_endWaiting (h : Keeps l s t) (h_regs : Part.regs ∈ l) (h_hallIrq : Part.hallIrq ∈ l) (h_hostIrq : Part.hostIrq ∈ l) (h_cores : Part.cores ∈ l) (h_reeve : Part.reeve ∈ l) (h_tally : Part.tally ∈ l) (h_dbg : Part.dbg ∈ l) (slot : Nat) (o : ItemEnd) :
    Keeps l s (t.endWaiting slot o) := by
  unfold State.endWaiting
  repeat' (first
    | with_reducible assumption | intro _ | with_reducible apply keeps_ite | with_reducible apply keeps_release
    | with_reducible apply keeps_conclude)

theorem keeps_coreIrq (h : Keeps l s t) (h_cores : Part.cores ∈ l) (k : Nat) (code : Nat) :
    Keeps l s (t.coreIrq k code) := by
  unfold State.coreIrq
  repeat' (first
    | with_reducible assumption | intro _ | with_reducible apply keeps_ite | with_reducible apply keeps_modCore
)

theorem keeps_killItem (h : Keeps l s t) (h_regs : Part.regs ∈ l) (h_hallIrq : Part.hallIrq ∈ l) (h_hostIrq : Part.hostIrq ∈ l) (h_cores : Part.cores ∈ l) (h_reeve : Part.reeve ∈ l) (h_tally : Part.tally ∈ l) (h_dbg : Part.dbg ∈ l) (slot : Nat) (reason : Nat) (o : ItemEnd) :
    Keeps l s (t.killItem slot reason o) := by
  unfold State.killItem
  repeat' (first
    | with_reducible assumption | intro _ | with_reducible apply keeps_ite | with_reducible apply keeps_conclude
    | with_reducible apply keeps_inc | with_reducible apply keeps_setItem | with_reducible apply keeps_tapEvent | with_reducible apply keeps_coreIrq
    | with_reducible apply keeps_modItem | dsimp only | split)

theorem keeps_abortItem (h : Keeps l s t) (h_regs : Part.regs ∈ l) (h_hallIrq : Part.hallIrq ∈ l) (h_hostIrq : Part.hostIrq ∈ l) (h_cores : Part.cores ∈ l) (h_reeve : Part.reeve ∈ l) (h_tally : Part.tally ∈ l) (h_dbg : Part.dbg ∈ l) (n : Nat) :
    Keeps l s (t.abortItem n) := by
  unfold State.abortItem
  repeat' (first
    | with_reducible assumption | intro _ | with_reducible apply keeps_ite | with_reducible apply keeps_inc
    | with_reducible apply keeps_setItem | with_reducible apply keeps_postReport | with_reducible apply keeps_endWaiting
    | with_reducible apply keeps_killItem | dsimp only | split | with_reducible apply keeps_set_reeve)

theorem keeps_lapseIfPassed (h : Keeps l s t) (h_regs : Part.regs ∈ l) (h_hallIrq : Part.hallIrq ∈ l) (h_hostIrq : Part.hostIrq ∈ l) (h_cores : Part.cores ∈ l) (h_reeve : Part.reeve ∈ l) (h_tally : Part.tally ∈ l) (h_dbg : Part.dbg ∈ l) (slot : Nat) :
    Keeps l s (t.lapseIfPassed slot) := by
  unfold State.lapseIfPassed
  repeat' (first
    | with_reducible assumption | intro _ | with_reducible apply keeps_ite | with_reducible apply keeps_endWaiting
    | with_reducible apply keeps_inc | dsimp only | split)

theorem keeps_makeReady (h : Keeps l s t) (h_regs : Part.regs ∈ l) (h_reeve : Part.reeve ∈ l) (slot : Nat) :
    Keeps l s (t.makeReady slot) := by
  unfold State.makeReady
  repeat' (first
    | with_reducible assumption | intro _ | with_reducible apply keeps_ite | with_reducible apply keeps_modItem
)

theorem keeps_settle (h : Keeps l s t) (h_regs : Part.regs ∈ l) (h_hallIrq : Part.hallIrq ∈ l) (h_hostIrq : Part.hostIrq ∈ l) (h_cores : Part.cores ∈ l) (h_reeve : Part.reeve ∈ l) (h_tally : Part.tally ∈ l) (h_dbg : Part.dbg ∈ l) (slot : Nat) :
    Keeps l s (t.settle slot) := by
  unfold State.settle
  repeat' (first
    | with_reducible assumption | intro _ | with_reducible apply keeps_ite | with_reducible apply keeps_endWaiting
    | with_reducible apply keeps_inc | with_reducible apply keeps_makeReady | dsimp only | split)

theorem keeps_settleLoop (h : Keeps l s t) (h_regs : Part.regs ∈ l) (h_hallIrq : Part.hallIrq ∈ l) (h_hostIrq : Part.hostIrq ∈ l) (h_cores : Part.cores ∈ l) (h_reeve : Part.reeve ∈ l) (h_tally : Part.tally ∈ l) (h_dbg : Part.dbg ∈ l) (x0 : Nat) :
    Keeps l s (State.settleLoop x0 t) := by
  induction x0 generalizing t with
  | zero =>
    unfold State.settleLoop
    repeat' (with_reducible assumption

)
  | succ n ih =>
    unfold State.settleLoop
    repeat' (first
      | with_reducible assumption | intro _ | with_reducible apply ih | with_reducible apply keeps_ite | with_reducible apply keeps_settle
      | with_reducible apply keeps_lapseIfPassed | with_reducible apply keeps_settle | with_reducible apply keeps_lapseIfPassed
      | with_reducible apply keeps_settle | with_reducible apply keeps_lapseIfPassed | dsimp only | split)

theorem keeps_settleAll (h : Keeps l s t) (h_regs : Part.regs ∈ l) (h_hallIrq : Part.hallIrq ∈ l) (h_hostIrq : Part.hostIrq ∈ l) (h_cores : Part.cores ∈ l) (h_reeve : Part.reeve ∈ l) (h_tally : Part.tally ∈ l) (h_dbg : Part.dbg ∈ l) :
    Keeps l s (t.settleAll) := by
  unfold State.settleAll
  repeat' (first
    | with_reducible assumption | intro _ | with_reducible apply keeps_ite | with_reducible apply keeps_settleLoop
)

theorem keeps_applyToken (h : Keeps l s t) (h_regs : Part.regs ∈ l) (h_hallIrq : Part.hallIrq ∈ l) (h_hostIrq : Part.hostIrq ∈ l) (h_cores : Part.cores ∈ l) (h_reeve : Part.reeve ∈ l) (h_tally : Part.tally ∈ l) (h_dbg : Part.dbg ∈ l) (t_1 : Token) :
    Keeps l s (t.applyToken t_1) := by
  unfold State.applyToken
  repeat' (first
    | with_reducible assumption | intro _ | with_reducible apply keeps_ite | with_reducible apply keeps_decrReturn
    | with_reducible apply keeps_lapseIfPassed | with_reducible apply keeps_inc | with_reducible apply keeps_settleAll
    | with_reducible apply keeps_settle | with_reducible apply keeps_setItem | dsimp only | split)

theorem keeps_readDesc (h : Keeps l s t) (h_regs : Part.regs ∈ l) (h_hallIrq : Part.hallIrq ∈ l) (h_ms : Part.ms ∈ l) (h_dbg : Part.dbg ∈ l) (addr : Nat) (ext : Bool) :
    Keeps l s (t.readDesc addr ext).2 := by
  unfold State.readDesc
  repeat' (first
    | with_reducible assumption | intro _ | with_reducible apply keeps_ite | with_reducible apply keeps_granaryRead
    | refine Keeps.snd_eq (by assumption) ?_ | dsimp only | split)

theorem keeps_readBatch (h : Keeps l s t) (h_regs : Part.regs ∈ l) (h_hallIrq : Part.hallIrq ∈ l) (h_ms : Part.ms ∈ l) (h_dbg : Part.dbg ∈ l) (addr : Nat) (x2 : Nat) (x3 : Nat) :
    Keeps l s (t.readBatch addr x2 x3).2 := by
  induction x3 generalizing t x2 with
  | zero =>
    unfold State.readBatch
    repeat' (with_reducible assumption

)
  | succ n ih =>
    unfold State.readBatch
    repeat' (first
      | with_reducible assumption | intro _ | with_reducible apply ih | with_reducible apply keeps_ite | with_reducible apply keeps_readDesc

)

theorem keeps_readKilnOp (h : Keeps l s t) (h_regs : Part.regs ∈ l) (h_hallIrq : Part.hallIrq ∈ l) (h_ms : Part.ms ∈ l) (h_dbg : Part.dbg ∈ l) (a : Nat) :
    Keeps l s (t.readKilnOp a).2 := by
  unfold State.readKilnOp
  repeat' (first
    | with_reducible assumption | intro _ | with_reducible apply keeps_ite | with_reducible apply keeps_readWord
    | refine Keeps.snd_eq (by assumption) ?_ | dsimp only | split)

theorem keeps_checkBatch (h : Keeps l s t) (h_regs : Part.regs ∈ l) (h_hallIrq : Part.hallIrq ∈ l) (h_ms : Part.ms ∈ l) (h_dbg : Part.dbg ∈ l) (commitTick : Nat) (sweepTick : Nat) (ds : List ItemDesc) (x4 : Nat) (x5 : List (Except Nat (List PWord × List Nat))) :
    Keeps l s (t.checkBatch commitTick sweepTick ds x4 x5).2 := by
  induction x5 generalizing t x4 with
  | nil =>
    unfold State.checkBatch
    repeat' (with_reducible assumption

)
  | cons y r ih =>
    unfold State.checkBatch
    repeat' (first
      | with_reducible assumption | intro _ | with_reducible apply ih | with_reducible apply keeps_ite
      | with_reducible apply keeps_readKilnOp | with_reducible apply keeps_readKilnOp | with_reducible apply keeps_readKilnOp
      | refine Keeps.snd_eq (by assumption) ?_ | dsimp only | split)

theorem keeps_batchCheck (h : Keeps l s t) (h_regs : Part.regs ∈ l) (h_hallIrq : Part.hallIrq ∈ l) (h_ms : Part.ms ∈ l) (h_dbg : Part.dbg ∈ l) (g : Nat) (addr : Nat) (n : Nat) (commitTick : Nat) (sweepTick : Nat) :
    Keeps l s (t.batchCheck g addr n commitTick sweepTick).2 := by
  unfold State.batchCheck
  repeat' (first
    | with_reducible assumption | intro _ | with_reducible apply keeps_ite | with_reducible apply keeps_wr
    | with_reducible apply keeps_readBatch | with_reducible apply keeps_checkBatch | refine Keeps.snd_eq (by assumption) ?_ | dsimp only | split
)

theorem keeps_histogram (h : Keeps l s t) (h_regs : Part.regs ∈ l) (i : Item) :
    Keeps l s (t.histogram i) := by
  unfold State.histogram
  repeat' (first
    | with_reducible assumption | intro _ | with_reducible apply keeps_ite | with_reducible apply keeps_inc
)

theorem keeps_beginItem (h : Keeps l s t) (h_regs : Part.regs ∈ l) (h_cores : Part.cores ∈ l) (h_reeve : Part.reeve ∈ l) (h_dbg : Part.dbg ∈ l) (h_1 : Nat) (c : Nat) (slot : Nat) (i : Item) :
    Keeps l s (t.beginItem h_1 c slot i) := by
  unfold State.beginItem
  repeat' (first
    | with_reducible assumption | intro _ | with_reducible apply keeps_ite | with_reducible apply keeps_setFlags
    | with_reducible apply keeps_inc | with_reducible apply keeps_histogram | with_reducible apply keeps_setItem | with_reducible apply keeps_modRcore
    | with_reducible apply keeps_modCore | with_reducible apply keeps_tapEvent)

theorem keeps_newArrival (h : Keeps l s t) (h_reeve : Part.reeve ∈ l) :
    Keeps l s (t.newArrival) := by
  unfold State.newArrival
  repeat' (first
    | with_reducible assumption | intro _ | with_reducible apply keeps_ite | dsimp only | split | with_reducible apply keeps_set_reeve
)

theorem keeps_commitBatch (h : Keeps l s t) (h_regs : Part.regs ∈ l) (h_hallIrq : Part.hallIrq ∈ l) (h_hostIrq : Part.hostIrq ∈ l) (h_cores : Part.cores ∈ l) (h_reeve : Part.reeve ∈ l) (h_tally : Part.tally ∈ l) (h_dbg : Part.dbg ∈ l) (g : Nat) (w : Nat) (plan : Nat) (n : Nat) :
    Keeps l s (t.commitBatch g w plan n) := by
  unfold State.commitBatch
  repeat' (first
    | with_reducible assumption | intro _ | with_reducible apply keeps_ite | with_reducible apply keeps_modItem
    | with_reducible apply keeps_newArrival | with_reducible apply keeps_settleAll | with_reducible apply keeps_settle
    | with_reducible apply keeps_foldl | with_reducible apply keeps_foldl_snd | dsimp only | split | with_reducible apply keeps_set_reeve
)

theorem keeps_cutItem (h : Keeps l s t) (h_regs : Part.regs ∈ l) (h_hallIrq : Part.hallIrq ∈ l) (h_querns : Part.querns ∈ l) (h_reeve : Part.reeve ∈ l) (h_tally : Part.tally ∈ l) (h_dbg : Part.dbg ∈ l) (h_1 : Nat) (c : Nat) (slot : Nat) :
    Keeps l s (t.cutItem h_1 c slot) := by
  unfold State.cutItem
  repeat' (first
    | with_reducible assumption | intro _ | with_reducible apply keeps_ite | with_reducible apply keeps_inc
    | with_reducible apply keeps_release | with_reducible apply keeps_quernForce)

theorem keeps_dropBatch (h : Keeps l s t) (h_regs : Part.regs ∈ l) (h_hallIrq : Part.hallIrq ∈ l) (h_reeve : Part.reeve ∈ l) (h_tally : Part.tally ∈ l) (h_dbg : Part.dbg ∈ l) (plan : Nat) :
    Keeps l s (t.dropBatch plan) := by
  unfold State.dropBatch
  repeat' (first
    | with_reducible assumption | intro _ | with_reducible apply keeps_ite | with_reducible apply keeps_freeSlot
    | with_reducible apply keeps_foldl)

theorem keeps_enterHeld (h : Keeps l s t) (h_regs : Part.regs ∈ l) (h_cores : Part.cores ∈ l) (h_reeve : Part.reeve ∈ l) (h_1 : Nat) (c : Nat) (slot : Nat) (off : Nat) (killed : Bool) :
    Keeps l s (t.enterHeld h_1 c slot off killed) := by
  unfold State.enterHeld
  repeat' (first
    | with_reducible assumption | intro _ | with_reducible apply keeps_ite | with_reducible apply keeps_modItem
    | with_reducible apply keeps_modRcore | with_reducible apply keeps_modCore)

theorem keeps_haltItem (h : Keeps l s t) (h_regs : Part.regs ∈ l) (h_hallIrq : Part.hallIrq ∈ l) (h_hostIrq : Part.hostIrq ∈ l) (h_cores : Part.cores ∈ l) (h_querns : Part.querns ∈ l) (h_reeve : Part.reeve ∈ l) (h_tally : Part.tally ∈ l) (h_dbg : Part.dbg ∈ l) (h_1 : Nat) (c : Nat) :
    Keeps l s (t.haltItem h_1 c) := by
  unfold State.haltItem
  repeat' (first
    | with_reducible assumption | intro _ | with_reducible apply keeps_ite | with_reducible apply keeps_conclude
    | with_reducible apply keeps_cutItem | with_reducible apply keeps_withdraw | with_reducible apply keeps_modRcore | dsimp only | split
)

theorem keeps_idleCore (h : Keeps l s t) (h_regs : Part.regs ∈ l) (h_cores : Part.cores ∈ l) (h_reeve : Part.reeve ∈ l) (h_1 : Nat) (c : Nat) :
    Keeps l s (t.idleCore h_1 c) := by
  unfold State.idleCore
  repeat' (first
    | with_reducible assumption | intro _ | with_reducible apply keeps_ite | with_reducible apply keeps_modRcore
    | with_reducible apply keeps_modCore)

theorem keeps_looseCheck (h : Keeps l s t) (h_regs : Part.regs ∈ l) (h_hallIrq : Part.hallIrq ∈ l) (h_ms : Part.ms ∈ l) (h_dbg : Part.dbg ∈ l) (addr : Nat) :
    Keeps l s (t.looseCheck addr).2 := by
  unfold State.looseCheck
  repeat' (first
    | with_reducible assumption | intro _ | with_reducible apply keeps_ite | with_reducible apply keeps_readDesc
    | with_reducible apply keeps_readKilnOp | refine Keeps.snd_eq (by assumption) ?_ | dsimp only | split)

theorem keeps_reeveSweep (h : Keeps l s t) (h_regs : Part.regs ∈ l) (h_hallIrq : Part.hallIrq ∈ l) (h_hostIrq : Part.hostIrq ∈ l) (h_cores : Part.cores ∈ l) (h_reeve : Part.reeve ∈ l) (h_tally : Part.tally ∈ l) (h_dbg : Part.dbg ∈ l) (g : Nat) (w : Nat) :
    Keeps l s (t.reeveSweep g w) := by
  unfold State.reeveSweep
  repeat' (first
    | with_reducible assumption | intro _ | with_reducible apply keeps_ite | with_reducible apply keeps_endWaiting
    | with_reducible apply keeps_killItem | with_reducible apply keeps_foldl | with_reducible apply keeps_foldl_snd | dsimp only | split
)

theorem keeps_setPort (h : Keeps l s t) (h_reeve : Part.reeve ∈ l) (p : Nat) (x : SubmitPort) :
    Keeps l s (t.setPort p x) := by
  unfold State.setPort
  repeat' (first
    | with_reducible assumption | intro _ | with_reducible apply keeps_ite | dsimp only | split | with_reducible apply keeps_set_reeve
)

theorem keeps_takeSlot (h : Keeps l s t) (h_regs : Part.regs ∈ l) (h_hallIrq : Part.hallIrq ∈ l) (h_reeve : Part.reeve ∈ l) (h_tally : Part.tally ∈ l) (h_dbg : Part.dbg ∈ l) (i : Nat → Nat → Item) :
    Keeps l s (t.takeSlot i).2 := by
  unfold State.takeSlot
  repeat' (first
    | with_reducible assumption | intro _ | with_reducible apply keeps_ite | with_reducible apply keeps_ledgerCount
    | with_reducible apply keeps_setItem)

theorem keeps_takeBatch (h : Keeps l s t) (h_regs : Part.regs ∈ l) (h_hallIrq : Part.hallIrq ∈ l) (h_reeve : Part.reeve ∈ l) (h_tally : Part.tally ∈ l) (h_dbg : Part.dbg ∈ l) (g : Nat) (w : Nat) (plan : Nat) (x4 : Nat) (x5 : List ItemDesc) :
    Keeps l s (t.takeBatch g w plan x4 x5) := by
  induction x5 generalizing t x4 with
  | nil =>
    unfold State.takeBatch
    repeat' (with_reducible assumption

)
  | cons y r ih =>
    unfold State.takeBatch
    repeat' (first
      | with_reducible assumption | intro _ | with_reducible apply ih | with_reducible apply keeps_ite | with_reducible apply keeps_takeSlot

)

theorem keeps_execReeveReportTake (h : Keeps l s t) (h_regs : Part.regs ∈ l) (h_ans : Part.ans ∈ l) (h_reeve : Part.reeve ∈ l) (q : Fin 64) (wide : Bool) :
    KeepsOut l s (execReeveReportTake q wide t) := by
  unfold execReeveReportTake
  repeat' (first
    | with_reducible assumption | intro _ | with_reducible apply keeps_ite | with_reducible apply keepsOut_ite
    | with_reducible apply keepsOut_next | with_reducible apply keepsOut_fault | with_reducible apply keeps_reply
    | with_reducible apply keeps_setQueue | dsimp only | split)

theorem keeps_execReeveSubmitResultTake (h : Keeps l s t) (h_ans : Part.ans ∈ l) (h_reeve : Part.reeve ∈ l) (port : Fin 16) (wide : Bool) :
    KeepsOut l s (execReeveSubmitResultTake port wide t) := by
  unfold execReeveSubmitResultTake
  repeat' (first
    | with_reducible assumption | intro _ | with_reducible apply keeps_ite | with_reducible apply keepsOut_ite
    | with_reducible apply keepsOut_next | with_reducible apply keepsOut_fault | with_reducible apply keeps_reply | with_reducible apply keeps_setPort
    | dsimp only | split)

end Sys2Proof.Machine
end

