-- ==== Sys2Proof/Laws/KeepsHorty.lean ====
section
/-! SUPPORT. Laws/KeepsHorty.lean: which parts of the state each operation of Machine/Horty.lean may change, and that it keeps the
canonical forms. -/

namespace Sys2Proof.Machine

variable {l : List Part} {s t : State}

theorem keeps_dbgStop (h : Keeps l s t) (h_regs : Part.regs ∈ l) (h_cores : Part.cores ∈ l) (k : Nat) (reason : Nat) :
    Keeps l s (t.dbgStop k reason) := by
  unfold State.dbgStop
  repeat' (first
    | with_reducible assumption | intro _ | with_reducible apply keeps_ite | with_reducible apply keeps_modCore
    | with_reducible apply keeps_wr | dsimp only | split)

theorem keeps_afterIssue (h : Keeps l s t) (h_regs : Part.regs ∈ l) (h_cores : Part.cores ∈ l) (k : Nat) :
    Keeps l s (t.afterIssue k) := by
  unfold State.afterIssue
  repeat' (first
    | with_reducible assumption | intro _ | with_reducible apply keeps_ite | with_reducible apply keeps_dbgStop
    | with_reducible apply keeps_modCore)

theorem keeps_answerValue (h : Keeps l s t) (h_regs : Part.regs ∈ l) (h_hallIrq : Part.hallIrq ∈ l) (h_mem : Part.mem ∈ l) (h_ms : Part.ms ∈ l) (h_dbg : Part.dbg ∈ l) (k : Nat) (a : Access) (given : Option Answer) :
    Keeps l s (t.answerValue k a given).2 := by
  unfold State.answerValue
  repeat' (first
    | with_reducible assumption | intro _ | with_reducible apply keeps_ite | with_reducible apply keeps_serveRead
    | refine Keeps.snd_eq (by assumption) ?_ | dsimp only | split)

theorem keeps_applyWalk (h : Keeps l s t) (h_regs : Part.regs ∈ l) (h_hallIrq : Part.hallIrq ∈ l) (h_cores : Part.cores ∈ l) (h_mem : Part.mem ∈ l) (h_ms : Part.ms ∈ l) (h_dbg : Part.dbg ∈ l) (k : Nat) (w : Option Walk) :
    Keeps l s (t.applyWalk k w) := by
  unfold State.applyWalk
  repeat' (first
    | with_reducible assumption | intro _ | with_reducible apply keeps_ite | with_reducible apply keeps_hallWrite
    | with_reducible apply keeps_modCore | with_reducible apply keeps_foldl | with_reducible apply keeps_foldl_snd | dsimp only | split
)

theorem keeps_enqueue (h : Keeps l s t) (h_cores : Part.cores ∈ l) (k : Nat) (a : Access) :
    Keeps l s (t.enqueue k a) := by
  unfold State.enqueue
  repeat' (first
    | with_reducible assumption | intro _ | with_reducible apply keeps_ite | with_reducible apply keeps_modCore
)

theorem keeps_commitStore (h : Keeps l s t) (h_regs : Part.regs ∈ l) (h_hallIrq : Part.hallIrq ∈ l) (h_cores : Part.cores ∈ l) (h_mem : Part.mem ∈ l) (h_ms : Part.ms ∈ l) (h_dbg : Part.dbg ∈ l) (k : Nat) (a : Act) :
    Keeps l s (t.commitStore k a) := by
  unfold State.commitStore
  repeat' (first
    | with_reducible assumption | intro _ | with_reducible apply keeps_ite | with_reducible apply keeps_serveWrite
    | with_reducible apply keeps_enqueue | with_reducible apply keeps_vstoreDo | with_reducible apply keeps_foldl
    | with_reducible apply keeps_foldl_snd | dsimp only | split)

theorem keeps_doAtomic (h : Keeps l s t) (h_regs : Part.regs ∈ l) (h_hallIrq : Part.hallIrq ∈ l) (h_cores : Part.cores ∈ l) (h_mem : Part.mem ∈ l) (h_ms : Part.ms ∈ l) (h_dbg : Part.dbg ∈ l) (k : Nat) (x : Access) (op : AtomOp) (cmp : Nat) (b : Nat) (bt : Bool) :
    Keeps l s (t.doAtomic k x op cmp b bt) := by
  unfold State.doAtomic
  repeat' (first
    | with_reducible assumption | intro _ | with_reducible apply keeps_ite | with_reducible apply keeps_serveRead
    | with_reducible apply keeps_serveWrite | with_reducible apply keeps_modCore
)

theorem keeps_doMaint (h : Keeps l s t) (h_cores : Part.cores ∈ l) (h_mem : Part.mem ∈ l) (h_ms : Part.ms ∈ l) (k : Nat) (op : SysOp) (bus : Nat) (va : Nat) (asid : Nat) :
    Keeps l s (t.doMaint k op bus va asid) := by
  unfold State.doMaint
  repeat' (first
    | with_reducible assumption | intro _ | with_reducible apply keeps_ite | with_reducible apply keeps_cleanLine
    | with_reducible apply keeps_modCore | dsimp only | split)

theorem keeps_commitRest (h : Keeps l s t) (h_regs : Part.regs ∈ l) (h_hallIrq : Part.hallIrq ∈ l) (h_cores : Part.cores ∈ l) (h_querns : Part.querns ∈ l) (h_mem : Part.mem ∈ l) (h_ms : Part.ms ∈ l) (h_dbg : Part.dbg ∈ l) (k : Nat) (a : Act) :
    Keeps l s (t.commitRest k a) := by
  unfold State.commitRest
  repeat' (first
    | with_reducible assumption | intro _ | with_reducible apply keeps_ite | with_reducible apply keeps_serveRead
    | with_reducible apply keeps_modCore | with_reducible apply keeps_enqueue | with_reducible apply keeps_doAtomic
    | with_reducible apply keeps_vloadDo | with_reducible apply keeps_doMaint | with_reducible apply keeps_quernLock
    | with_reducible apply keeps_quernFree | with_reducible apply keeps_quernAbort | with_reducible apply keeps_quernSubmit
    | refine Keeps.snd_eq (by assumption) ?_ | dsimp only | split)

theorem keeps_haltCore (h : Keeps l s t) (h_regs : Part.regs ∈ l) (h_hallIrq : Part.hallIrq ∈ l) (h_hostIrq : Part.hostIrq ∈ l) (h_cores : Part.cores ∈ l) (h_querns : Part.querns ∈ l) (h_reeve : Part.reeve ∈ l) (h_tally : Part.tally ∈ l) (h_boot : Part.boot ∈ l) (h_dbg : Part.dbg ∈ l) (k : Nat) :
    Keeps l s (t.haltCore k) := by
  unfold State.haltCore
  repeat' (first
    | with_reducible assumption | intro _ | with_reducible apply keeps_ite | with_reducible apply keeps_modCore
    | with_reducible apply keeps_irq | with_reducible apply keeps_haltItem | dsimp only | split | with_reducible apply keeps_set_boot
)

theorem keeps_trapSync (h : Keeps l s t) (h_regs : Part.regs ∈ l) (h_hallIrq : Part.hallIrq ∈ l) (h_hostIrq : Part.hostIrq ∈ l) (h_cores : Part.cores ∈ l) (h_querns : Part.querns ∈ l) (h_reeve : Part.reeve ∈ l) (h_tally : Part.tally ∈ l) (h_boot : Part.boot ∈ l) (h_dbg : Part.dbg ∈ l) (k : Nat) (e : Entry) :
    Keeps l s (t.trapSync k e) := by
  unfold State.trapSync
  repeat' (first
    | with_reducible assumption | intro _ | with_reducible apply keeps_ite | with_reducible apply keeps_haltCore
    | with_reducible apply keeps_setCore)

theorem keeps_flipNow (h : Keeps l s t) (h_regs : Part.regs ∈ l) (h_1 : Nat) (c : Nat) :
    Keeps l s (t.flipNow h_1 c) := by
  unfold State.flipNow
  repeat' (first
    | with_reducible assumption | intro _ | with_reducible apply keeps_ite | with_reducible apply keeps_inc | with_reducible apply keeps_wr
)

theorem keeps_commit (h : Keeps l s t) (h_regs : Part.regs ∈ l) (h_hallIrq : Part.hallIrq ∈ l) (h_hostIrq : Part.hostIrq ∈ l) (h_cores : Part.cores ∈ l) (h_querns : Part.querns ∈ l) (h_reeve : Part.reeve ∈ l) (h_mem : Part.mem ∈ l) (h_ms : Part.ms ∈ l) (h_tally : Part.tally ∈ l) (h_boot : Part.boot ∈ l) (h_dbg : Part.dbg ∈ l) (k : Nat) (ys : List Syl) (next : Nat) (rs : List (Nat × MemRes)) :
    Keeps l s (t.commit k ys next rs) := by
  unfold State.commit
  repeat' (first
    | with_reducible assumption | intro _ | with_reducible apply keeps_ite | with_reducible apply keeps_applyWalk
    | with_reducible apply keeps_modCore | with_reducible apply keeps_commitStore | with_reducible apply keeps_commitRest
    | with_reducible apply keeps_trapSync | with_reducible apply keeps_flipNow | with_reducible apply keeps_incSat
    | with_reducible apply keeps_quernFree | with_reducible apply keeps_foldl | with_reducible apply keeps_foldl_snd | dsimp only | split
)

theorem keeps_fetched {y : (Nat × Bool) × State} (h : Keeps l s y.2) : Keeps l s (fetched y).2 := h

theorem keeps_fetchAt (h : Keeps l s t) (h_regs : Part.regs ∈ l) (h_hallIrq : Part.hallIrq ∈ l) (h_mem : Part.mem ∈ l) (h_ms : Part.ms ∈ l)
    (h_dbg : Part.dbg ∈ l) (k : Nat) (phys : Nat) (cached : Bool) (dev : Bool) :
    Keeps l s (t.fetchAt k phys cached dev).2 := by
  unfold State.fetchAt
  split
  · exact h
  · split
    · exact h
    · split
      · exact h
      · exact keeps_fetched (keeps_readPart h h_regs h_hallIrq h_mem h_ms h_dbg _ _ 4)

theorem keeps_fetchWord (h : Keeps l s t) (h_regs : Part.regs ∈ l) (h_hallIrq : Part.hallIrq ∈ l) (h_cores : Part.cores ∈ l)
    (h_mem : Part.mem ∈ l) (h_ms : Part.ms ∈ l) (h_dbg : Part.dbg ∈ l) (k : Nat) (a : Nat) :
    Keeps l s (t.fetchWord k a).2 := by
  unfold State.fetchWord
  by_cases hd : isD k = true
  · rw [if_pos hd]
    by_cases ha : 0x7FFC < a
    · rw [if_pos ha]; exact h
    · rw [if_neg ha]
      exact keeps_fetched (keeps_readPart h h_regs h_hallIrq h_mem h_ms h_dbg (t.midOf k) (t.imemWord k a) 4)
  · rw [if_neg hd]
    split
    · split
      · exact h
      · split
        · exact h
        · exact keeps_fetchAt (keeps_applyWalk h h_regs h_hallIrq h_cores h_mem h_ms h_dbg ..) h_regs h_hallIrq h_mem h_ms h_dbg ..
    · split
      · exact h
      · exact keeps_fetchAt h h_regs h_hallIrq h_mem h_ms h_dbg ..

theorem keeps_fetchSheaf (h : Keeps l s t) (h_regs : Part.regs ∈ l) (h_hallIrq : Part.hallIrq ∈ l) (h_cores : Part.cores ∈ l) (h_mem : Part.mem ∈ l) (h_ms : Part.ms ∈ l) (h_dbg : Part.dbg ∈ l) (k : Nat) (x2 : Nat) (x3 : Nat) (x4 : Nat) :
    Keeps l s (t.fetchSheaf k x2 x3 x4).2 := by
  induction x4 generalizing t x2 x3 with
  | zero =>
    unfold State.fetchSheaf
    repeat' (with_reducible assumption

)
  | succ n ih =>
    unfold State.fetchSheaf
    repeat' (first
      | with_reducible assumption | intro _ | with_reducible apply ih | with_reducible apply keeps_ite | with_reducible apply keeps_fetchWord
      | with_reducible apply keeps_fetchWord | with_reducible apply keeps_fetchWord | refine Keeps.snd_eq (by assumption) ?_ | dsimp only | split
)

theorem keeps_irqTaken (h : Keeps l s t) (h_regs : Part.regs ∈ l) (h_hallIrq : Part.hallIrq ∈ l) (h_cores : Part.cores ∈ l) (h_reeve : Part.reeve ∈ l) (h_dbg : Part.dbg ∈ l) (k : Nat) (code : Nat) :
    Keeps l s (t.irqTaken k code) := by
  unfold State.irqTaken
  repeat' (first
    | with_reducible assumption | intro _ | with_reducible apply keeps_ite | with_reducible apply keeps_coreUnirq
    | with_reducible apply keeps_setRcore | with_reducible apply keeps_tapEvent | with_reducible apply keeps_modRcore
    | with_reducible apply keeps_modItem | dsimp only | split | with_reducible apply keeps_set_hallIrq)

theorem keeps_takeDeferred (h : Keeps l s t) (h_regs : Part.regs ∈ l) (h_hallIrq : Part.hallIrq ∈ l) (h_hostIrq : Part.hostIrq ∈ l) (h_cores : Part.cores ∈ l) (h_querns : Part.querns ∈ l) (h_reeve : Part.reeve ∈ l) (h_tally : Part.tally ∈ l) (h_boot : Part.boot ∈ l) (h_dbg : Part.dbg ∈ l) (k : Nat) (a : Access) :
    Keeps l s (t.takeDeferred k a) := by
  unfold State.takeDeferred
  repeat' (first
    | with_reducible assumption | intro _ | with_reducible apply keeps_ite | with_reducible apply keeps_modCore
    | with_reducible apply keeps_trapSync)

theorem keeps_sheafTrap (h : Keeps l s t) (h_regs : Part.regs ∈ l) (h_hallIrq : Part.hallIrq ∈ l) (h_hostIrq : Part.hostIrq ∈ l) (h_cores : Part.cores ∈ l) (h_querns : Part.querns ∈ l) (h_reeve : Part.reeve ∈ l) (h_mem : Part.mem ∈ l) (h_ms : Part.ms ∈ l) (h_tally : Part.tally ∈ l) (h_boot : Part.boot ∈ l) (h_dbg : Part.dbg ∈ l) (k : Nat) (pc : Nat) (t_3 : Trap) (part : Option MemRes) (jobs : Nat) :
    Keeps l s (t.sheafTrap k pc t_3 part jobs) := by
  unfold State.sheafTrap
  repeat' (first
    | with_reducible assumption | intro _ | with_reducible apply keeps_ite | with_reducible apply keeps_commitRest
    | with_reducible apply keeps_commitStore | with_reducible apply keeps_modCore | with_reducible apply keeps_addSat | with_reducible apply keeps_wr
    | with_reducible apply keeps_trapSync | dsimp only | split)

theorem keeps_issue (h : Keeps l s t) (h_regs : Part.regs ∈ l) (h_hallIrq : Part.hallIrq ∈ l) (h_hostIrq : Part.hostIrq ∈ l) (h_cores : Part.cores ∈ l) (h_querns : Part.querns ∈ l) (h_reeve : Part.reeve ∈ l) (h_mem : Part.mem ∈ l) (h_ms : Part.ms ∈ l) (h_tally : Part.tally ∈ l) (h_boot : Part.boot ∈ l) (h_dbg : Part.dbg ∈ l) (k : Nat) (sys : List SysOp) (ans : List SyncAns) :
    Keeps l s (t.issue k sys ans) := by
  unfold State.issue
  repeat' (first
    | with_reducible assumption | intro _ | with_reducible apply keeps_ite | with_reducible apply keeps_takeDeferred
    | with_reducible apply keeps_afterIssue | with_reducible apply keeps_trapSync | with_reducible apply keeps_dbgStop
    | with_reducible apply keeps_sheafTrap | with_reducible apply keeps_fetchSheaf | with_reducible apply keeps_commit
    | refine Keeps.snd_eq (by assumption) ?_ | dsimp only | split)

end Sys2Proof.Machine
end

