-- ==== Sys2Proof/Laws/KeepsDma.lean ====
section
/-! SUPPORT. Laws/KeepsDma.lean: which parts of the state each operation of Machine/Dma.lean may change, and that it keeps the
canonical forms. -/

namespace Sys2Proof.Machine

variable {l : List Part} {s t : State}

theorem keeps_dmaWord (h : Keeps l s t) (h_regs : Part.regs ∈ l) (h_hallIrq : Part.hallIrq ∈ l) (h_mem : Part.mem ∈ l) (h_ms : Part.ms ∈ l) (h_dbg : Part.dbg ∈ l) (mid : Mid) (a : Nat) (o : Nat) (bs : List (Nat × Bool)) :
    Keeps l s (t.dmaWord mid a o bs) := by
  unfold State.dmaWord
  repeat' (first
    | with_reducible assumption | intro _ | with_reducible apply keeps_ite | with_reducible apply keeps_yieldFor
    | with_reducible apply keeps_writeWords | with_reducible apply keeps_rmwWord
)

theorem keeps_dmaGo (h : Keeps l s t) (h_regs : Part.regs ∈ l) (h_hallIrq : Part.hallIrq ∈ l) (h_mem : Part.mem ∈ l) (h_ms : Part.ms ∈ l) (h_dbg : Part.dbg ∈ l) (mid : Mid) (x2 : Nat) (x3 : Nat) (x4 : List (Nat × Bool)) :
    Keeps l s (t.dmaGo mid x2 x3 x4).2 := by
  induction x2 generalizing t x3 x4 with
  | zero =>
    unfold State.dmaGo
    repeat' (with_reducible assumption


)
  | succ n ih =>
    unfold State.dmaGo
    repeat' (first
      | with_reducible assumption | intro _ | with_reducible apply ih | with_reducible apply keeps_ite
      | with_reducible apply keeps_countRefusal | with_reducible apply keeps_dmaWord | with_reducible apply keeps_countRefusal
      | with_reducible apply keeps_dmaWord | with_reducible apply keeps_countRefusal | with_reducible apply keeps_dmaWord
      | refine Keeps.snd_eq (by assumption) ?_ | dsimp only | split)

theorem keeps_dmaWords (h : Keeps l s t) (h_regs : Part.regs ∈ l) (h_hallIrq : Part.hallIrq ∈ l) (h_mem : Part.mem ∈ l) (h_ms : Part.ms ∈ l) (h_dbg : Part.dbg ∈ l) (mid : Mid) (x2 : Nat) (x3 : Nat) :
    Keeps l s (t.dmaWords mid x2 x3).2 := by
  induction x3 generalizing t x2 with
  | zero =>
    unfold State.dmaWords
    repeat' (with_reducible assumption



)
  | succ n ih =>
    unfold State.dmaWords
    repeat' (first
      | with_reducible assumption | intro _ | with_reducible apply ih | with_reducible apply keeps_ite
      | with_reducible apply keeps_countRefusal | with_reducible apply keeps_readWord | with_reducible apply keeps_yieldFor
      | with_reducible apply keeps_countRefusal | with_reducible apply keeps_readWord | with_reducible apply keeps_yieldFor
      | with_reducible apply keeps_countRefusal | with_reducible apply keeps_readWord | with_reducible apply keeps_yieldFor
      | refine Keeps.snd_eq (by assumption) ?_ | dsimp only | split)

theorem keeps_dmaRead (h : Keeps l s t) (h_regs : Part.regs ∈ l) (h_hallIrq : Part.hallIrq ∈ l) (h_mem : Part.mem ∈ l) (h_ms : Part.ms ∈ l) (h_dbg : Part.dbg ∈ l) (mid : Mid) (a : Nat) (n : Nat) :
    Keeps l s (t.dmaRead mid a n).2 := by
  unfold State.dmaRead
  repeat' (first
    | with_reducible assumption | intro _ | with_reducible apply keeps_ite | with_reducible apply keeps_dmaWords
    | refine Keeps.snd_eq (by assumption) ?_ | dsimp only | split)

theorem keeps_dmaWrite (h : Keeps l s t) (h_regs : Part.regs ∈ l) (h_hallIrq : Part.hallIrq ∈ l) (h_mem : Part.mem ∈ l) (h_ms : Part.ms ∈ l) (h_dbg : Part.dbg ∈ l) (mid : Mid) (a : Nat) (bs : List (Nat × Bool)) :
    Keeps l s (t.dmaWrite mid a bs).2 := by
  unfold State.dmaWrite
  repeat' (first
    | with_reducible assumption | intro _ | with_reducible apply keeps_ite | with_reducible apply keeps_dmaGo
)

theorem keeps_openBytes (h : Keeps l s t) (h_free : Part.free ∈ l) (n : Nat) :
    Keeps l s (t.openBytes n).2 := by
  unfold State.openBytes
  repeat' (first
    | with_reducible assumption | intro _ | with_reducible apply keeps_ite | dsimp only | split | with_reducible apply keeps_set_free
)

end Sys2Proof.Machine
end

