-- ==== Sys2Proof/Laws/KeepsWorkshop.lean ====
section
/-! SUPPORT. Laws/KeepsWorkshop.lean: which parts of the state each operation of Machine/Workshop.lean may change, and that it keeps the
canonical forms. -/

namespace Sys2Proof.Machine

variable {l : List Part} {s t : State}

theorem keeps_overJobs (h : Keeps l s t) (w : Nat) (f : State → Nat → Nat → WsJob → State) (h_f : ∀ u y0 y1 y2, Keeps l s u → Keeps l s (f u y0 y1 y2)) :
    Keeps l s (t.overJobs w f) := by
  unfold State.overJobs
  repeat' (first
    | with_reducible assumption | intro _ | with_reducible apply keeps_ite | with_reducible apply h_f | with_reducible apply keeps_foldl
    | with_reducible apply keeps_foldl_snd | dsimp only | split)

theorem keeps_showWaiting (h : Keeps l s t) (h_regs : Part.regs ∈ l) :
    Keeps l s (t.showWaiting) := by
  unfold State.showWaiting
  repeat' (first
    | with_reducible assumption | intro _ | with_reducible apply keeps_ite | with_reducible apply keeps_wrB
)

theorem keeps_showEng (h : Keeps l s t) (h_regs : Part.regs ∈ l) (w : Nat) (e : Nat) :
    Keeps l s (t.showEng w e) := by
  unfold State.showEng
  repeat' (first
    | with_reducible assumption | intro _ | with_reducible apply keeps_ite | with_reducible apply keeps_wr
)

theorem keeps_setJobs (h : Keeps l s t) (h_regs : Part.regs ∈ l) (h_ws : Part.ws ∈ l) (w : Nat) (e : Nat) (l_3 : List WsJob) :
    Keeps l s (t.setJobs w e l_3) := by
  unfold State.setJobs
  repeat' (first
    | with_reducible assumption | intro _ | with_reducible apply keeps_ite | with_reducible apply keeps_showWaiting
    | with_reducible apply keeps_showEng | dsimp only | split | with_reducible apply keeps_set_ws)

theorem keeps_setJob (h : Keeps l s t) (h_regs : Part.regs ∈ l) (h_ws : Part.ws ∈ l) (w : Nat) (e : Nat) (i : Nat) (j : WsJob) :
    Keeps l s (t.setJob w e i j) := by
  unfold State.setJob
  repeat' (first
    | with_reducible assumption | intro _ | with_reducible apply keeps_ite | with_reducible apply keeps_setJobs
)

theorem keeps_abortWs (h : Keeps l s t) (h_regs : Part.regs ∈ l) (h_reeve : Part.reeve ∈ l) (h_ws : Part.ws ∈ l) (w : Nat) (slot : Nat) (extra : State → Nat → Nat → WsJob → WsJob × State) (h_extra : ∀ u y0 y1 y2, Keeps l s u → Keeps l s (extra u y0 y1 y2).2) :
    Keeps l s (t.abortWs w slot extra) := by
  unfold State.abortWs
  repeat' (first
    | with_reducible assumption | intro _ | with_reducible apply keeps_ite | with_reducible apply h_extra
    | with_reducible apply keeps_overJobs | with_reducible apply keeps_setJob | with_reducible apply keeps_inc | dsimp only | split
    | with_reducible apply keeps_set_reeve)

theorem keeps_countJob (h : Keeps l s t) (h_regs : Part.regs ∈ l) (w : Nat) (o : ItemEnd) (abortLate : Bool) :
    Keeps l s (t.countJob w o abortLate) := by
  unfold State.countJob
  repeat' (first
    | with_reducible assumption | intro _ | with_reducible apply keeps_ite | with_reducible apply keeps_inc | dsimp only | split
)

theorem keeps_writeRecord (h : Keeps l s t) (h_regs : Part.regs ∈ l) (h_hallIrq : Part.hallIrq ∈ l) (h_mem : Part.mem ∈ l) (h_ms : Part.ms ∈ l) (h_dbg : Part.dbg ∈ l) (w : Nat) (j : WsJob) (words : List Nat) (marks : List Bool) :
    Keeps l s (t.writeRecord w j words marks).2 := by
  unfold State.writeRecord
  repeat' (first
    | with_reducible assumption | intro _ | with_reducible apply keeps_ite | with_reducible apply keeps_dmaWrite
)

theorem keeps_endJob (h : Keeps l s t) (h_regs : Part.regs ∈ l) (h_hallIrq : Part.hallIrq ∈ l) (h_reeve : Part.reeve ∈ l) (h_ws : Part.ws ∈ l) (h_mem : Part.mem ∈ l) (h_ms : Part.ms ∈ l) (h_dbg : Part.dbg ∈ l) (w : Nat) (e : Nat) (i : Nat) (recordOk : Bool) (record : WsJob → State → List Nat × List Bool) :
    Keeps l s (t.endJob w e i recordOk record) := by
  unfold State.endJob
  repeat' (first
    | with_reducible assumption | intro _ | with_reducible apply keeps_ite | with_reducible apply keeps_writeRecord
    | with_reducible apply keeps_setJobs | with_reducible apply keeps_countJob | refine Keeps.snd_eq (by assumption) ?_ | dsimp only | split
    | with_reducible apply keeps_set_reeve)

theorem keeps_lapseJob (h : Keeps l s t) (h_regs : Part.regs ∈ l) (h_ws : Part.ws ∈ l) (w : Nat) (e : Nat) (i : Nat) (extra : State → Nat → Nat → WsJob → WsJob × State) (h_extra : ∀ u y0 y1 y2, Keeps l s u → Keeps l s (extra u y0 y1 y2).2) :
    Keeps l s (t.lapseJob w e i extra) := by
  unfold State.lapseJob
  repeat' (first
    | with_reducible assumption | intro _ | with_reducible apply keeps_ite | with_reducible apply h_extra
    | with_reducible apply keeps_setJob | dsimp only | split)

theorem keeps_readJob (h : Keeps l s t) (h_regs : Part.regs ∈ l) (h_hallIrq : Part.hallIrq ∈ l) (h_mem : Part.mem ∈ l) (h_ms : Part.ms ∈ l) (h_dbg : Part.dbg ∈ l) (w : Nat) (addr : Nat) :
    Keeps l s (t.readJob w addr).2 := by
  unfold State.readJob
  repeat' (first
    | with_reducible assumption | intro _ | with_reducible apply keeps_ite | with_reducible apply keeps_dmaRead
    | refine Keeps.snd_eq (by assumption) ?_ | dsimp only | split)

theorem keeps_sweepWs (h : Keeps l s t) (h_regs : Part.regs ∈ l) (h_ws : Part.ws ∈ l) (w : Nat) (g : Nat) (tag : Nat) (extra : State → Nat → Nat → WsJob → WsJob × State) (h_extra : ∀ u y0 y1 y2, Keeps l s u → Keeps l s (extra u y0 y1 y2).2) :
    Keeps l s (t.sweepWs w g tag extra) := by
  unfold State.sweepWs
  repeat' (first
    | with_reducible assumption | intro _ | with_reducible apply keeps_ite | with_reducible apply h_extra
    | with_reducible apply keeps_overJobs | with_reducible apply keeps_inc | with_reducible apply keeps_setJob
)

theorem keeps_workUnits (h : Keeps l s t) (h_regs : Part.regs ∈ l) (h_ws : Part.ws ∈ l) (w : Nat) (e : Nat) (unit : State → WsJob → WsJob × State) (h_unit : ∀ u y0, Keeps l s u → Keeps l s (unit u y0).2) (last : WsJob → Bool) (x5 : Nat) :
    Keeps l s (t.workUnits w e unit last x5) := by
  induction x5 generalizing t with
  | zero =>
    unfold State.workUnits
    repeat' (with_reducible assumption

)
  | succ n ih =>
    unfold State.workUnits
    repeat' (first
      | with_reducible assumption | intro _ | with_reducible apply ih | with_reducible apply keeps_ite | with_reducible apply h_unit
      | with_reducible apply keeps_setJob | with_reducible apply keeps_setJob | with_reducible apply keeps_setJob | dsimp only | split
)

end Sys2Proof.Machine
end

