-- ==== Sys2Proof/Laws/KeepsKiln.lean ====
section
/-! SUPPORT. Laws/KeepsKiln.lean: which parts of the state each operation of Machine/Kiln.lean may change, and that it keeps the
canonical forms. -/

namespace Sys2Proof.Machine

variable {l : List Part} {s t : State}

theorem keeps_kilnCombine (h : Keeps l s t) (h_regs : Part.regs ∈ l) (h_hallIrq : Part.hallIrq ∈ l) (h_mem : Part.mem ∈ l) (h_ms : Part.ms ∈ l) (h_dbg : Part.dbg ∈ l) (j : WsJob) (t_2 : TbJob) (r : Nat) :
    Keeps l s (t.kilnCombine j t_2 r).2.2 := by
  unfold State.kilnCombine
  repeat' (first
    | with_reducible assumption | intro _ | with_reducible apply keeps_ite | with_reducible apply keeps_dmaRead
    | with_reducible apply keeps_dmaWrite | refine Keeps.snd_eq (by assumption) ?_ | dsimp only | split)

theorem keeps_finishWb (h : Keeps l s t) (h_regs : Part.regs ∈ l) (h_hallIrq : Part.hallIrq ∈ l) (h_mem : Part.mem ∈ l) (h_ms : Part.ms ∈ l) (h_dbg : Part.dbg ∈ l) (j : WsJob) :
    Keeps l s (t.finishWb j).2 := by
  unfold State.finishWb
  repeat' (first
    | with_reducible assumption | intro _ | with_reducible apply keeps_ite | with_reducible apply keeps_kilnCombine
    | refine Keeps.snd_eq3 (by assumption) ?_ | dsimp only | split)

theorem keeps_setHandle (h : Keeps l s t) (h_regs : Part.regs ∈ l) (h_ws : Part.ws ∈ l) (h_1 : Nat) (x : Handle) :
    Keeps l s (t.setHandle h_1 x) := by
  unfold State.setHandle
  repeat' (first
    | with_reducible assumption | intro _ | with_reducible apply keeps_ite | with_reducible apply keeps_wr | dsimp only | split
    | with_reducible apply keeps_set_ws)

theorem keeps_freeClosing (h : Keeps l s t) (h_regs : Part.regs ∈ l) (h_hallIrq : Part.hallIrq ∈ l) (h_ws : Part.ws ∈ l) (h_tally : Part.tally ∈ l) (h_dbg : Part.dbg ∈ l) (h_1 : Nat) :
    Keeps l s (t.freeClosing h_1) := by
  unfold State.freeClosing
  repeat' (first
    | with_reducible assumption | intro _ | with_reducible apply keeps_ite | with_reducible apply keeps_ledgerCount
    | with_reducible apply keeps_setHandle)

theorem keeps_harqResult (h : Keeps l s t) (h_regs : Part.regs ∈ l) (op : Nat) (h_2 : Nat) (outcome : Nat) (reason : Nat) :
    Keeps l s (t.harqResult op h_2 outcome reason) := by
  unfold State.harqResult
  repeat' (first
    | with_reducible assumption | intro _ | with_reducible apply keeps_ite | with_reducible apply keeps_wr
)

theorem keeps_kilnDecode (h : Keeps l s t) (h_regs : Part.regs ∈ l) (h_hallIrq : Part.hallIrq ∈ l) (h_free : Part.free ∈ l) (h_mem : Part.mem ∈ l) (h_ms : Part.ms ∈ l) (h_dbg : Part.dbg ∈ l) (j : WsJob) (t_2 : TbJob) (r : Nat) (buf : List (Int × Bool)) (bad : Bool) :
    Keeps l s (t.kilnDecode j t_2 r buf bad).2 := by
  unfold State.kilnDecode
  repeat' (first
    | with_reducible assumption | intro _ | with_reducible apply keeps_ite | with_reducible apply keeps_openBytes
    | with_reducible apply keeps_fresh | with_reducible apply keeps_dmaWrite | with_reducible apply keeps_inc | refine Keeps.snd_eq (by assumption) ?_
    | dsimp only | split)

theorem keeps_unitDecode (h : Keeps l s t) (h_regs : Part.regs ∈ l) (h_hallIrq : Part.hallIrq ∈ l) (h_free : Part.free ∈ l) (h_mem : Part.mem ∈ l) (h_ms : Part.ms ∈ l) (h_dbg : Part.dbg ∈ l) (j : WsJob) (t_2 : TbJob) :
    Keeps l s (t.unitDecode j t_2).2 := by
  unfold State.unitDecode
  repeat' (first
    | with_reducible assumption | intro _ | with_reducible apply keeps_ite | with_reducible apply keeps_kilnCombine
    | with_reducible apply keeps_kilnDecode | refine Keeps.snd_eq (by assumption) ?_ | refine Keeps.snd_eq3 (by assumption) ?_ | dsimp only | split
)

theorem keeps_readA (h : Keeps l s t) (h_regs : Part.regs ∈ l) (h_hallIrq : Part.hallIrq ∈ l) (h_mem : Part.mem ∈ l) (h_ms : Part.ms ∈ l) (h_dbg : Part.dbg ∈ l) (j : WsJob) (lo : Nat) (n : Nat) :
    Keeps l s (t.readA j lo n).2 := by
  unfold State.readA
  repeat' (first
    | with_reducible assumption | intro _ | with_reducible apply keeps_ite | with_reducible apply keeps_dmaRead
    | refine Keeps.snd_eq (by assumption) ?_ | dsimp only | split)

theorem keeps_unitEncode (h : Keeps l s t) (h_regs : Part.regs ∈ l) (h_hallIrq : Part.hallIrq ∈ l) (h_free : Part.free ∈ l) (h_mem : Part.mem ∈ l) (h_ms : Part.ms ∈ l) (h_dbg : Part.dbg ∈ l) (j : WsJob) (t_2 : TbJob) :
    Keeps l s (t.unitEncode j t_2).2 := by
  unfold State.unitEncode
  repeat' (first
    | with_reducible assumption | intro _ | with_reducible apply keeps_ite | with_reducible apply keeps_readA
    | with_reducible apply keeps_openBytes | with_reducible apply keeps_dmaWrite | refine Keeps.snd_eq (by assumption) ?_ | dsimp only | split
)

theorem keeps_unitPolar (h : Keeps l s t) (h_regs : Part.regs ∈ l) (h_hallIrq : Part.hallIrq ∈ l) (h_free : Part.free ∈ l) (h_mem : Part.mem ∈ l) (h_ms : Part.ms ∈ l) (h_dbg : Part.dbg ∈ l) (j : WsJob) (decode : Bool) (p : PolarJob) :
    Keeps l s (t.unitPolar j decode p).2 := by
  unfold State.unitPolar
  repeat' (first
    | with_reducible assumption | intro _ | with_reducible apply keeps_ite | with_reducible apply keeps_dmaRead
    | with_reducible apply keeps_openBytes | with_reducible apply keeps_dmaWrite | with_reducible apply keeps_inc
    | refine Keeps.snd_eq (by assumption) ?_ | dsimp only | split)

theorem keeps_unitCrc (h : Keeps l s t) (h_regs : Part.regs ∈ l) (h_hallIrq : Part.hallIrq ∈ l) (h_mem : Part.mem ∈ l) (h_ms : Part.ms ∈ l) (h_dbg : Part.dbg ∈ l) (j : WsJob) (c : CrcJob) :
    Keeps l s (t.unitCrc j c).2 := by
  unfold State.unitCrc
  repeat' (first
    | with_reducible assumption | intro _ | with_reducible apply keeps_ite | with_reducible apply keeps_dmaRead
    | refine Keeps.snd_eq (by assumption) ?_ | dsimp only | split)

theorem keeps_kilnUnit (h : Keeps l s t) (h_regs : Part.regs ∈ l) (h_hallIrq : Part.hallIrq ∈ l) (h_free : Part.free ∈ l) (h_mem : Part.mem ∈ l) (h_ms : Part.ms ∈ l) (h_dbg : Part.dbg ∈ l) (j : WsJob) :
    Keeps l s (t.kilnUnit j).2 := by
  unfold State.kilnUnit
  repeat' (first
    | with_reducible assumption | intro _ | with_reducible apply keeps_ite | with_reducible apply keeps_unitDecode
    | with_reducible apply keeps_unitEncode | with_reducible apply keeps_unitPolar | with_reducible apply keeps_unitCrc
    | refine Keeps.snd_eq (by assumption) ?_ | dsimp only | split)

theorem keeps_stageKiln (h : Keeps l s t) (h_regs : Part.regs ∈ l) (h_hallIrq : Part.hallIrq ∈ l) (h_ws : Part.ws ∈ l) (h_mem : Part.mem ∈ l) (h_ms : Part.ms ∈ l) (h_dbg : Part.dbg ∈ l) (e : Nat) (slot : Nat) (d : ItemDesc) :
    Keeps l s (t.stageKiln e slot d) := by
  unfold State.stageKiln
  repeat' (first
    | with_reducible assumption | intro _ | with_reducible apply keeps_ite | with_reducible apply keeps_setJobs
    | with_reducible apply keeps_readJob | with_reducible apply keeps_inc | refine Keeps.snd_eq (by assumption) ?_ | dsimp only | split
    | with_reducible apply keeps_set_ws)

theorem keeps_wbExtra (h : Keeps l s t) (h_regs : Part.regs ∈ l) (h_hallIrq : Part.hallIrq ∈ l) (h_mem : Part.mem ∈ l) (h_ms : Part.ms ∈ l) (h_dbg : Part.dbg ∈ l) (wb : Nat → Bool) (x2 : Nat) (x3 : Nat) (x4 : WsJob) :
    Keeps l s (wbExtra wb t x2 x3 x4).2 := by
  unfold wbExtra
  repeat' (first
    | with_reducible assumption | intro _ | with_reducible apply keeps_ite | with_reducible apply keeps_finishWb
    | refine Keeps.snd_eq (by assumption) ?_ | dsimp only | split)

end Sys2Proof.Machine
end

