-- ==== Sys2Proof/Laws/KeepsWheelMill.lean ====
section
/-! SUPPORT. Laws/KeepsWheelMill.lean: which parts of the state each operation of Machine/WheelMill.lean may change, and that it keeps the
canonical forms. -/

namespace Sys2Proof.Machine

variable {l : List Part} {s t : State}

theorem keeps_dmaReadAll (h : Keeps l s t) (h_regs : Part.regs ∈ l) (h_hallIrq : Part.hallIrq ∈ l) (h_mem : Part.mem ∈ l) (h_ms : Part.ms ∈ l) (h_dbg : Part.dbg ∈ l) (mid : Mid) (x2 : List (Nat × Nat)) :
    Keeps l s (t.dmaReadAll mid x2).2 := by
  induction x2 generalizing t with
  | nil =>
    unfold State.dmaReadAll
    repeat' (with_reducible assumption

)
  | cons y r ih =>
    unfold State.dmaReadAll
    repeat' (first
      | with_reducible assumption | intro _ | with_reducible apply ih | with_reducible apply keeps_ite | with_reducible apply keeps_dmaRead
      | with_reducible apply keeps_dmaRead | with_reducible apply keeps_dmaRead | refine Keeps.snd_eq (by assumption) ?_ | dsimp only | split
)

theorem keeps_dmaWriteAll (h : Keeps l s t) (h_regs : Part.regs ∈ l) (h_hallIrq : Part.hallIrq ∈ l) (h_mem : Part.mem ∈ l) (h_ms : Part.ms ∈ l) (h_dbg : Part.dbg ∈ l) (mid : Mid) (x2 : List (Nat × List (Nat × Bool))) :
    Keeps l s (t.dmaWriteAll mid x2).2 := by
  induction x2 generalizing t with
  | nil =>
    unfold State.dmaWriteAll
    repeat' (with_reducible assumption

)
  | cons y r ih =>
    unfold State.dmaWriteAll
    repeat' (first
      | with_reducible assumption | intro _ | with_reducible apply ih | with_reducible apply keeps_ite | with_reducible apply keeps_dmaWrite
      | with_reducible apply keeps_dmaWrite | with_reducible apply keeps_dmaWrite | refine Keeps.snd_eq (by assumption) ?_ | dsimp only | split
)

theorem keeps_millCheck (h : Keeps l s t) (h_regs : Part.regs ∈ l) (h_hallIrq : Part.hallIrq ∈ l) (h_mem : Part.mem ∈ l) (h_ms : Part.ms ∈ l) (h_dbg : Part.dbg ∈ l) (addr : Nat) (ws : List Nat) :
    Keeps l s (t.millCheck addr ws).2 := by
  unfold State.millCheck
  repeat' (first
    | with_reducible assumption | intro _ | with_reducible apply keeps_ite | with_reducible apply keeps_dmaRead
    | refine Keeps.snd_eq (by assumption) ?_ | dsimp only | split)

theorem keeps_millOut (h : Keeps l s t) (h_regs : Part.regs ∈ l) (h_hallIrq : Part.hallIrq ∈ l) (h_mem : Part.mem ∈ l) (h_ms : Part.ms ∈ l) (h_dbg : Part.dbg ∈ l) (j : WsJob) (m : MillJob) (g : Nat) (outs : List (Nat × List (Nat × Bool))) (b : Block) :
    Keeps l s (t.millOut j m g outs b).2 := by
  unfold State.millOut
  repeat' (first
    | with_reducible assumption | intro _ | with_reducible apply keeps_ite | with_reducible apply keeps_dmaWriteAll
    | refine Keeps.snd_eq (by assumption) ?_ | dsimp only | split)

theorem keeps_millUnit (h : Keeps l s t) (h_regs : Part.regs ∈ l) (h_hallIrq : Part.hallIrq ∈ l) (h_free : Part.free ∈ l) (h_mem : Part.mem ∈ l) (h_ms : Part.ms ∈ l) (h_dbg : Part.dbg ∈ l) (j : WsJob) :
    Keeps l s (t.millUnit j).2 := by
  unfold State.millUnit
  repeat' (first
    | with_reducible assumption | intro _ | with_reducible apply keeps_ite | with_reducible apply keeps_dmaReadAll
    | with_reducible apply keeps_openBytes | with_reducible apply keeps_millOut | refine Keeps.snd_eq (by assumption) ?_ | dsimp only | split
)

theorem keeps_stageWm (h : Keeps l s t) (h_regs : Part.regs ∈ l) (h_hallIrq : Part.hallIrq ∈ l) (h_ws : Part.ws ∈ l) (h_mem : Part.mem ∈ l) (h_ms : Part.ms ∈ l) (h_dbg : Part.dbg ∈ l) (w : Nat) (e : Nat) (slot : Nat) (d : ItemDesc) :
    Keeps l s (t.stageWm w e slot d) := by
  unfold State.stageWm
  repeat' (first
    | with_reducible assumption | intro _ | with_reducible apply keeps_ite | with_reducible apply keeps_setJobs
    | with_reducible apply keeps_readJob | with_reducible apply keeps_millCheck | refine Keeps.snd_eq (by assumption) ?_ | dsimp only | split
    | with_reducible apply keeps_set_ws)

theorem keeps_wheelRef (h : Keeps l s t) (h_regs : Part.regs ∈ l) (h_hallIrq : Part.hallIrq ∈ l) (h_mem : Part.mem ∈ l) (h_ms : Part.ms ∈ l) (h_dbg : Part.dbg ∈ l) (j : WsJob) (w : WheelJob) :
    Keeps l s (t.wheelRef j w).2 := by
  unfold State.wheelRef
  repeat' (first
    | with_reducible assumption | intro _ | with_reducible apply keeps_ite | with_reducible apply keeps_dmaRead
    | refine Keeps.snd_eq (by assumption) ?_ | dsimp only | split)

theorem keeps_wheelUnit (h : Keeps l s t) (h_regs : Part.regs ∈ l) (h_hallIrq : Part.hallIrq ∈ l) (h_free : Part.free ∈ l) (h_mem : Part.mem ∈ l) (h_ms : Part.ms ∈ l) (h_dbg : Part.dbg ∈ l) (j00 : WsJob) :
    Keeps l s (t.wheelUnit j00).2 := by
  unfold State.wheelUnit
  repeat' (first
    | with_reducible assumption | intro _ | with_reducible apply keeps_ite | with_reducible apply keeps_wheelRef
    | with_reducible apply keeps_dmaRead | with_reducible apply keeps_openBytes | with_reducible apply keeps_dmaWrite
    | refine Keeps.snd_eq (by assumption) ?_ | dsimp only | split)

theorem keeps_noExtra (h : Keeps l s t) (x1 : Nat) (x2 : Nat) (x3 : WsJob) :
    Keeps l s (noExtra t x1 x2 x3).2 := by
  unfold noExtra
  repeat' (with_reducible assumption)

end Sys2Proof.Machine
end

