-- ==== Sys2Proof/Laws/KeepsSieve.lean ====
section
/-! SUPPORT. Laws/KeepsSieve.lean: which parts of the state each operation of Machine/Sieve.lean may change, and that it keeps the
canonical forms. -/

namespace Sys2Proof.Machine

variable {l : List Part} {s t : State}

theorem keeps_setChan (h : Keeps l s t) (h_sv : Part.sv ∈ l) (c : Nat) (h_2 : SieveCh) :
    Keeps l s (t.setChan c h_2) := by
  unfold State.setChan
  repeat' (first
    | with_reducible assumption | intro _ | with_reducible apply keeps_ite | dsimp only | split | with_reducible apply keeps_set_sv
)

theorem keeps_burstDone (h : Keeps l s t) (h_regs : Part.regs ∈ l) (h_hallIrq : Part.hallIrq ∈ l) (h_reeve : Part.reeve ∈ l) (h_sv : Part.sv ∈ l) (h_tally : Part.tally ∈ l) (h_dbg : Part.dbg ∈ l) (c : Nat) (k0 : Nat) (ok : Bool) :
    Keeps l s (t.burstDone c k0 ok) := by
  unfold State.burstDone
  repeat' (first
    | with_reducible assumption | intro _ | with_reducible apply keeps_ite | with_reducible apply keeps_setChan
    | with_reducible apply keeps_sendToken)

theorem keeps_dropBurst (h : Keeps l s t) (h_sv : Part.sv ∈ l) (c : Nat) (i : Nat) :
    Keeps l s (t.dropBurst c i) := by
  unfold State.dropBurst
  repeat' (first
    | with_reducible assumption | intro _ | with_reducible apply keeps_ite | with_reducible apply keeps_setChan
)

theorem keeps_burstSkip (h : Keeps l s t) (h_regs : Part.regs ∈ l) (h_hallIrq : Part.hallIrq ∈ l) (h_reeve : Part.reeve ∈ l) (h_sv : Part.sv ∈ l) (h_tally : Part.tally ∈ l) (h_dbg : Part.dbg ∈ l) (c : Nat) (i : Nat) (late : Bool) :
    Keeps l s (t.burstSkip c i late) := by
  unfold State.burstSkip
  repeat' (first
    | with_reducible assumption | intro _ | with_reducible apply keeps_ite | with_reducible apply keeps_burstDone
    | with_reducible apply keeps_inc | with_reducible apply keeps_dropBurst | dsimp only | split)

theorem keeps_showSupport (h : Keeps l s t) (h_regs : Part.regs ∈ l) (c : Nat) :
    Keeps l s (t.showSupport c) := by
  unfold State.showSupport
  repeat' (first
    | with_reducible assumption | intro _ | with_reducible apply keeps_ite | with_reducible apply keeps_wr
)

theorem keeps_showChan (h : Keeps l s t) (h_regs : Part.regs ∈ l) (c : Nat) :
    Keeps l s (t.showChan c) := by
  unfold State.showChan
  repeat' (first
    | with_reducible assumption | intro _ | with_reducible apply keeps_ite | with_reducible apply keeps_wr | with_reducible apply keeps_wrB
    | with_reducible apply keeps_showSupport)

theorem keeps_endRun (h : Keeps l s t) (h_regs : Part.regs ∈ l) (h_sv : Part.sv ∈ l) (c : Nat) (r : SvRun) :
    Keeps l s (t.endRun c r) := by
  unfold State.endRun
  repeat' (first
    | with_reducible assumption | intro _ | with_reducible apply keeps_ite | with_reducible apply keeps_addSat
    | with_reducible apply keeps_setChan | with_reducible apply keeps_add | with_reducible apply keeps_wr | with_reducible apply keeps_showChan
)

theorem keeps_onChan (h : Keeps l s t) (h_regs : Part.regs ∈ l) (h_sv : Part.sv ∈ l) (c : Nat) (f : SieveCh → SieveCh) :
    Keeps l s (t.onChan c f) := by
  unfold State.onChan
  repeat' (first
    | with_reducible assumption | intro _ | with_reducible apply keeps_ite | with_reducible apply keeps_showChan
    | with_reducible apply keeps_setChan)

theorem keeps_onRun (h : Keeps l s t) (h_regs : Part.regs ∈ l) (h_sv : Part.sv ∈ l) (c : Nat) (f : SvCfg → SvRun → SvRun) :
    Keeps l s (t.onRun c f) := by
  unfold State.onRun
  repeat' (first
    | with_reducible assumption | intro _ | with_reducible apply keeps_ite | with_reducible apply keeps_endRun
)

theorem keeps_ringRead (h : Keeps l s t) (h_regs : Part.regs ∈ l) (h_hallIrq : Part.hallIrq ∈ l) (h_mem : Part.mem ∈ l) (h_ms : Part.ms ∈ l) (h_dbg : Part.dbg ∈ l) (c : Nat) (k : Nat) :
    Keeps l s (t.ringRead c k).2 := by
  unfold State.ringRead
  repeat' (first
    | with_reducible assumption | intro _ | with_reducible apply keeps_ite | with_reducible apply keeps_dmaRead
    | refine Keeps.snd_eq (by assumption) ?_ | dsimp only | split)

theorem keeps_ringWrite (h : Keeps l s t) (h_regs : Part.regs ∈ l) (h_hallIrq : Part.hallIrq ∈ l) (h_mem : Part.mem ∈ l) (h_ms : Part.ms ∈ l) (h_dbg : Part.dbg ∈ l) (c : Nat) (p : Nat) (l_3 : List (Int × Int × Bool)) :
    Keeps l s (t.ringWrite c p l_3).2 := by
  unfold State.ringWrite
  repeat' (first
    | with_reducible assumption | intro _ | with_reducible apply keeps_ite | with_reducible apply keeps_dmaWrite
)

theorem keeps_sieveRequest (h : Keeps l s t) (h_regs : Part.regs ∈ l) (h_sv : Part.sv ∈ l) (c : Nat) (bank : Nat) (log2 : Nat) (start : Int) :
    Keeps l s (t.sieveRequest c bank log2 start) := by
  unfold State.sieveRequest
  repeat' (first
    | with_reducible assumption | intro _ | with_reducible apply keeps_ite | with_reducible apply keeps_onRun
)

theorem keeps_svTake (h : Keeps l s t) (h_regs : Part.regs ∈ l) (h_sv : Part.sv ∈ l) (c : Nat) (x : List Sample) :
    Keeps l s (t.svTake c x) := by
  unfold State.svTake
  repeat' (first
    | with_reducible assumption | intro _ | with_reducible apply keeps_ite | with_reducible apply keeps_onRun
)

theorem keeps_svDisc (h : Keeps l s t) (h_regs : Part.regs ∈ l) (h_sv : Part.sv ∈ l) (c : Nat) :
    Keeps l s (t.svDisc c) := by
  unfold State.svDisc
  repeat' (first
    | with_reducible assumption | intro _ | with_reducible apply keeps_ite | with_reducible apply keeps_onChan
    | with_reducible apply keeps_incSat)

theorem keeps_svGap (h : Keeps l s t) (h_regs : Part.regs ∈ l) (h_sv : Part.sv ∈ l) (c : Nat) :
    Keeps l s (t.svGap c) := by
  unfold State.svGap
  repeat' (first
    | with_reducible assumption | intro _ | with_reducible apply keeps_ite | with_reducible apply keeps_onChan
    | with_reducible apply keeps_svDisc)

theorem keeps_svCatch (h : Keeps l s t) (h_regs : Part.regs ∈ l) (h_sv : Part.sv ∈ l) (c : Nat) :
    Keeps l s (t.svCatch c) := by
  unfold State.svCatch
  repeat' (first
    | with_reducible assumption | intro _ | with_reducible apply keeps_ite | with_reducible apply keeps_svTake
    | with_reducible apply keeps_svGap)

theorem keeps_sweepChan (h : Keeps l s t) (h_regs : Part.regs ∈ l) (h_hallIrq : Part.hallIrq ∈ l) (h_reeve : Part.reeve ∈ l) (h_sv : Part.sv ∈ l) (h_tally : Part.tally ∈ l) (h_dbg : Part.dbg ∈ l) (c : Nat) (tag : Nat) (x3 : Nat) :
    Keeps l s (t.sweepChan c tag x3) := by
  induction x3 generalizing t with
  | zero =>
    unfold State.sweepChan
    repeat' (with_reducible assumption
)
  | succ n ih =>
    unfold State.sweepChan
    repeat' (first
      | with_reducible assumption | intro _ | with_reducible apply ih | with_reducible apply keeps_ite | with_reducible apply keeps_burstSkip
      | with_reducible apply keeps_burstSkip | with_reducible apply keeps_burstSkip | dsimp only | split)

theorem keeps_upLow (h : Keeps l s t) (h_regs : Part.regs ∈ l) (h_hallIrq : Part.hallIrq ∈ l) (h_sv : Part.sv ∈ l) (h_mem : Part.mem ∈ l) (h_ms : Part.ms ∈ l) (h_dbg : Part.dbg ∈ l) (c : Nat) :
    Keeps l s (t.upLow c).2 := by
  unfold State.upLow
  repeat' (first
    | with_reducible assumption | intro _ | with_reducible apply keeps_ite | with_reducible apply keeps_onRun
    | with_reducible apply keeps_ringRead | with_reducible apply keeps_svDisc | with_reducible apply keeps_endRun
)

theorem keeps_upLows (h : Keeps l s t) (h_regs : Part.regs ∈ l) (h_hallIrq : Part.hallIrq ∈ l) (h_sv : Part.sv ∈ l) (h_mem : Part.mem ∈ l) (h_ms : Part.ms ∈ l) (h_dbg : Part.dbg ∈ l) (c : Nat) (x2 : Nat) :
    Keeps l s (t.upLows c x2).2 := by
  induction x2 generalizing t with
  | zero =>
    unfold State.upLows
    repeat' (with_reducible assumption

)
  | succ n ih =>
    unfold State.upLows
    repeat' (first
      | with_reducible assumption | intro _ | with_reducible apply ih | with_reducible apply keeps_ite | with_reducible apply keeps_upLow

)

end Sys2Proof.Machine
end

