-- ==== Sys2Proof/Laws/KeepsTally.lean ====
section
/-! SUPPORT. Laws/KeepsTally.lean: which parts of the state each operation of Machine/Tally.lean may change, and that it keeps the
canonical forms. -/

namespace Sys2Proof.Machine

variable {l : List Part} {s t : State}

theorem keeps_armSnap (h : Keeps l s t) (h_regs : Part.regs ∈ l) (h_tally : Part.tally ∈ l) (tick : Nat) (parish : Bool) (remote : Option Nat) :
    Keeps l s (t.armSnap tick parish remote) := by
  unfold State.armSnap
  repeat' (first
    | with_reducible assumption | intro _ | with_reducible apply keeps_ite | with_reducible apply keeps_wr | dsimp only | split
    | with_reducible apply keeps_set_tally)

theorem keeps_endSnap (h : Keeps l s t) (h_regs : Part.regs ∈ l) (h_hallIrq : Part.hallIrq ∈ l) (status : Nat) (records : Nat) :
    Keeps l s (t.endSnap status records) := by
  unfold State.endSnap
  repeat' (first
    | with_reducible assumption | intro _ | with_reducible apply keeps_ite | with_reducible apply keeps_irqIf
    | with_reducible apply keeps_wr)

theorem keeps_showDomain (h : Keeps l s t) (h_regs : Part.regs ∈ l) (d : Nat) :
    Keeps l s (t.showDomain d) := by
  unfold State.showDomain
  repeat' (first
    | with_reducible assumption | intro _ | with_reducible apply keeps_ite | with_reducible apply keeps_wr | with_reducible apply keeps_wrB
)

theorem keeps_gateCheck (h : Keeps l s t) (h_regs : Part.regs ∈ l) (d : Nat) (held : Bool) :
    Keeps l s (t.gateCheck d held).2 := by
  unfold State.gateCheck
  repeat' (first
    | with_reducible assumption | intro _ | with_reducible apply keeps_ite | with_reducible apply keeps_showDomain
    | with_reducible apply keeps_wr)

theorem keeps_writeRecords (h : Keeps l s t) (h_regs : Part.regs ∈ l) (h_hallIrq : Part.hallIrq ∈ l) (h_mem : Part.mem ∈ l) (h_ms : Part.ms ∈ l) (h_dbg : Part.dbg ∈ l) (a : Nat) (x2 : List (List Nat)) :
    Keeps l s (t.writeRecords a x2).2.2 := by
  induction x2 generalizing t a with
  | nil =>
    unfold State.writeRecords
    repeat' (with_reducible assumption

)
  | cons y r ih =>
    unfold State.writeRecords
    repeat' (first
      | with_reducible assumption | intro _ | with_reducible apply ih | with_reducible apply keeps_ite | with_reducible apply keeps_dmaWrite
      | with_reducible apply keeps_dmaWrite | with_reducible apply keeps_dmaWrite | refine Keeps.snd_eq (by assumption) ?_
      | refine Keeps.snd_eq3 (by assumption) ?_ | dsimp only | split)

end Sys2Proof.Machine
end

