-- ==== Sys2Proof/Laws/KeepsCarter.lean ====
section
/-! SUPPORT. Laws/KeepsCarter.lean: which parts of the state each operation of Machine/Carter.lean may change, and that it keeps the
canonical forms. -/

namespace Sys2Proof.Machine

variable {l : List Part} {s t : State}

theorem keeps_burstSource (h : Keeps l s t) (h_regs : Part.regs ∈ l) (h_hallIrq : Part.hallIrq ∈ l) (h_mem : Part.mem ∈ l) (h_ms : Part.ms ∈ l) (h_dbg : Part.dbg ∈ l) (g : Nat) (d : CarterDesc) (src : Nat) (n : Nat) (ext : List (Nat × Bool)) :
    Keeps l s (t.burstSource g d src n ext).2 := by
  unfold State.burstSource
  repeat' (first
    | with_reducible assumption | intro _ | with_reducible apply keeps_ite | with_reducible apply keeps_dmaRead
    | refine Keeps.snd_eq (by assumption) ?_ | dsimp only | split)

theorem keeps_carterIrq (h : Keeps l s t) (h_hallIrq : Part.hallIrq ∈ l) (h_hostIrq : Part.hostIrq ∈ l) (h_cores : Part.cores ∈ l) (g : Nat) :
    Keeps l s (t.carterIrq g) := by
  unfold State.carterIrq
  repeat' (first
    | with_reducible assumption | intro _ | with_reducible apply keeps_ite | with_reducible apply keeps_irq
    | with_reducible apply keeps_irqHost | with_reducible apply keeps_coreIrq | with_reducible apply keeps_foldl
    | with_reducible apply keeps_foldl_snd | dsimp only | split)

theorem keeps_setCarter (h : Keeps l s t) (h_regs : Part.regs ∈ l) (h_crt : Part.crt ∈ l) (g : Nat) (x : CarterCh) :
    Keeps l s (t.setCarter g x) := by
  unfold State.setCarter
  repeat' (first
    | with_reducible assumption | intro _ | with_reducible apply keeps_ite | with_reducible apply keeps_wr | with_reducible apply keeps_wrB
    | dsimp only | split | with_reducible apply keeps_set_crt)

theorem keeps_commitLists (h : Keeps l s t) (h_regs : Part.regs ∈ l) (h_crt : Part.crt ∈ l) (group : Nat) (wtag : Nat) (sweepNs : Int) (l_4 : List (Nat × Bool × Nat)) :
    Keeps l s (t.commitLists group wtag sweepNs l_4) := by
  unfold State.commitLists
  repeat' (first
    | with_reducible assumption | intro _ | with_reducible apply keeps_ite | with_reducible apply keeps_inc
    | with_reducible apply keeps_setCarter | with_reducible apply keeps_foldl
)

theorem keeps_moveBurst (h : Keeps l s t) (h_regs : Part.regs ∈ l) (h_hallIrq : Part.hallIrq ∈ l) (h_tally : Part.tally ∈ l) (h_crt : Part.crt ∈ l) (h_dbg : Part.dbg ∈ l) (g : Nat) (x : CarterCh) (d : CarterDesc) (n : Nat) (bad : Bool) :
    Keeps l s (t.moveBurst g x d n bad) := by
  unfold State.moveBurst
  repeat' (first
    | with_reducible assumption | intro _ | with_reducible apply keeps_ite | with_reducible apply keeps_add
    | with_reducible apply keeps_ledgerCount | with_reducible apply keeps_setCarter)

theorem keeps_startRun (h : Keeps l s t) (h_regs : Part.regs ∈ l) (h_crt : Part.crt ∈ l) (g : Nat) (x : CarterCh) (fetch : Bool × Nat) (win : Option CarterPlan) :
    Keeps l s (t.startRun g x fetch win) := by
  unfold State.startRun
  repeat' (first
    | with_reducible assumption | intro _ | with_reducible apply keeps_ite | with_reducible apply keeps_wr
    | with_reducible apply keeps_setCarter)

theorem keeps_execCarterResultTake (h : Keeps l s t) (h_regs : Part.regs ∈ l) (h_ans : Part.ans ∈ l) (h_crt : Part.crt ∈ l) (g : Fin 192) (wide : Bool) :
    KeepsOut l s (execCarterResultTake g wide t) := by
  unfold execCarterResultTake
  repeat' (first
    | with_reducible assumption | intro _ | with_reducible apply keeps_ite | with_reducible apply keepsOut_ite
    | with_reducible apply keepsOut_next | with_reducible apply keepsOut_fault | with_reducible apply keeps_reply
    | with_reducible apply keeps_setCarter | dsimp only | split)

end Sys2Proof.Machine
end

