-- ==== Sys2Proof/Laws/KeepsLanes.lean ====
section
/-! SUPPORT. Laws/KeepsLanes.lean: which parts of the state each operation of Machine/Lanes.lean may change, and that it keeps the
canonical forms. -/

namespace Sys2Proof.Machine

variable {l : List Part} {s t : State}

theorem keeps_ewlCfg (h : Keeps l s t) (h_regs : Part.regs ∈ l) (k : Nat) (v : Word) :
    Keeps l s (t.ewlCfg k v) := by
  unfold State.ewlCfg
  repeat' (first
    | with_reducible assumption | intro _ | with_reducible apply keeps_ite | with_reducible apply keeps_wr
    | with_reducible apply keeps_wrWord)

theorem keeps_showLocks (h : Keeps l s t) (h_regs : Part.regs ∈ l) (k : Nat) :
    Keeps l s (t.showLocks k) := by
  unfold State.showLocks
  repeat' (first
    | with_reducible assumption | intro _ | with_reducible apply keeps_ite | with_reducible apply keeps_wr
)

theorem keeps_showReach (h : Keeps l s t) (h_regs : Part.regs ∈ l) :
    Keeps l s (t.showReach) := by
  unfold State.showReach
  repeat' (first
    | with_reducible assumption | intro _ | with_reducible apply keeps_ite | with_reducible apply keeps_wrB
    | with_reducible apply keeps_foldl)

theorem keeps_setElink (h : Keeps l s t) (h_ewl : Part.ewl ∈ l) (k : Nat) (x : EwlLink) :
    Keeps l s (t.setElink k x) := by
  unfold State.setElink
  repeat' (first
    | with_reducible assumption | intro _ | with_reducible apply keeps_ite | dsimp only | split | with_reducible apply keeps_set_ewl
)

theorem keeps_toHunt (h : Keeps l s t) (h_regs : Part.regs ∈ l) (h_ewl : Part.ewl ∈ l) (k : Nat) :
    Keeps l s (t.toHunt k) := by
  unfold State.toHunt
  repeat' (first
    | with_reducible assumption | intro _ | with_reducible apply keeps_ite | with_reducible apply keeps_wr
    | with_reducible apply keeps_showReach | with_reducible apply keeps_setElink)

theorem keeps_toUp (h : Keeps l s t) (h_regs : Part.regs ∈ l) (h_ewl : Part.ewl ∈ l) (k : Nat) :
    Keeps l s (t.toUp k) := by
  unfold State.toUp
  repeat' (first
    | with_reducible assumption | intro _ | with_reducible apply keeps_ite | with_reducible apply keeps_wr
    | with_reducible apply keeps_showReach | with_reducible apply keeps_foldl | with_reducible apply keeps_foldl_snd | dsimp only | split
    | with_reducible apply keeps_set_ewl)

theorem keeps_linkEval (h : Keeps l s t) (h_regs : Part.regs ∈ l) (h_ewl : Part.ewl ∈ l) (k : Nat) :
    Keeps l s (t.linkEval k) := by
  unfold State.linkEval
  repeat' (first
    | with_reducible assumption | intro _ | with_reducible apply keeps_ite | with_reducible apply keeps_showLocks
    | with_reducible apply keeps_toHunt | with_reducible apply keeps_wr | with_reducible apply keeps_toUp
)

theorem keeps_laneEval (h : Keeps l s t) (h_regs : Part.regs ∈ l) (h_ewl : Part.ewl ∈ l) (l_1 : Nat) :
    Keeps l s (t.laneEval l_1) := by
  unfold State.laneEval
  repeat' (first
    | with_reducible assumption | intro _ | with_reducible apply keeps_ite | with_reducible apply keeps_linkEval | dsimp only | split
)

theorem keeps_leadMarker (h : Keeps l s t) (h_regs : Part.regs ∈ l) (h_ewl : Part.ewl ∈ l) (k : Nat) (m : DWord) :
    Keeps l s (t.leadMarker k m) := by
  unfold State.leadMarker
  repeat' (first
    | with_reducible assumption | intro _ | with_reducible apply keeps_ite | with_reducible apply keeps_wrB | with_reducible apply keeps_wr
    | with_reducible apply keeps_setElink)

theorem keeps_memberAnswer (h : Keeps l s t) (h_regs : Part.regs ∈ l) (h_hallIrq : Part.hallIrq ∈ l) (h_net : Part.net ∈ l) (h_tally : Part.tally ∈ l) (h_ewl : Part.ewl ∈ l) (h_dbg : Part.dbg ∈ l) (q : PacketReq) :
    Keeps l s (t.memberAnswer q) := by
  unfold State.memberAnswer
  repeat' (first
    | with_reducible assumption | intro _ | with_reducible apply keeps_ite | with_reducible apply keeps_inc
    | with_reducible apply keeps_unitAnswer | dsimp only | split | with_reducible apply keeps_set_ewl)

theorem keeps_setLane (h : Keeps l s t) (h_ewl : Part.ewl ∈ l) (l_1 : Nat) (x : LaneRx) :
    Keeps l s (t.setLane l_1 x) := by
  unfold State.setLane
  repeat' (first
    | with_reducible assumption | intro _ | with_reducible apply keeps_ite | dsimp only | split | with_reducible apply keeps_set_ewl
)

theorem keeps_prbsBit (h : Keeps l s t) (h_regs : Part.regs ∈ l) (h_ewl : Part.ewl ∈ l) (l_1 : Nat) (e : Bool) :
    Keeps l s (t.prbsBit l_1 e) := by
  unfold State.prbsBit
  repeat' (first
    | with_reducible assumption | intro _ | with_reducible apply keeps_ite | with_reducible apply keeps_incSat
    | with_reducible apply keeps_wr | with_reducible apply keeps_setLane)

theorem keeps_returnCredits (h : Keeps l s t) (h_sent : Part.sent ∈ l) (k : Nat) (vn : Nat) (n : Nat) :
    Keeps l s (t.returnCredits k vn n) := by
  unfold State.returnCredits
  repeat' (first
    | with_reducible assumption | intro _ | with_reducible apply keeps_ite | with_reducible apply keeps_send
)

theorem keeps_unlock (h : Keeps l s t) (h_regs : Part.regs ∈ l) (h_ewl : Part.ewl ∈ l) (l_1 : Nat) :
    Keeps l s (t.unlock l_1) := by
  unfold State.unlock
  repeat' (first
    | with_reducible assumption | intro _ | with_reducible apply keeps_ite | with_reducible apply keeps_setLane
    | with_reducible apply keeps_wr)

end Sys2Proof.Machine
end

