-- ==== Sys2Proof/Laws/KeepsMarket.lean ====
section
/-! SUPPORT. Laws/KeepsMarket.lean: which parts of the state each operation of Machine/Market.lean may change, and that it keeps the
canonical forms. -/

namespace Sys2Proof.Machine

variable {l : List Part} {s t : State}

theorem keeps_setMkt (h : Keeps l s t) (h_mkt : Part.mkt ∈ l) (m : Market) :
    Keeps l s (t.setMkt m) := by
  unfold State.setMkt
  repeat' (first
    | with_reducible assumption | intro _ | with_reducible apply keeps_ite | dsimp only | split | with_reducible apply keeps_set_mkt
)

theorem keeps_addLanding (h : Keeps l s t) (h_mkt : Part.mkt ∈ l) (l_1 : Landing) :
    Keeps l s (t.addLanding l_1) := by
  unfold State.addLanding
  repeat' (first
    | with_reducible assumption | intro _ | with_reducible apply keeps_ite | with_reducible apply keeps_setMkt
)

theorem keeps_showCaps (h : Keeps l s t) (h_regs : Part.regs ∈ l) (h_mkt : Part.mkt ∈ l) (p : Nat) (l_2 : List (Nat × Nat × Nat × Nat)) :
    Keeps l s (t.showCaps p l_2) := by
  unfold State.showCaps
  repeat' (first
    | with_reducible assumption | intro _ | with_reducible apply keeps_ite | with_reducible apply keeps_setMkt
    | with_reducible apply keeps_wr)

theorem keeps_capture (h : Keeps l s t) (h_regs : Part.regs ∈ l) (h_mkt : Part.mkt ∈ l) (p : Nat) (t_2 : Int) (tag : Nat) :
    Keeps l s (t.capture p t_2 tag) := by
  unfold State.capture
  repeat' (first
    | with_reducible assumption | intro _ | with_reducible apply keeps_ite | with_reducible apply keeps_showCaps
    | with_reducible apply keeps_wr)

theorem keeps_cellsFree (h : Keeps l s t) (h_regs : Part.regs ∈ l) (h_hallIrq : Part.hallIrq ∈ l) (h_tally : Part.tally ∈ l) (h_mkt : Part.mkt ∈ l) (h_dbg : Part.dbg ∈ l) (i : Nat) :
    Keeps l s (t.cellsFree i) := by
  unfold State.cellsFree
  repeat' (first
    | with_reducible assumption | intro _ | with_reducible apply keeps_ite | with_reducible apply keeps_ledgerCount
    | with_reducible apply keeps_wr | with_reducible apply keeps_setMkt)

theorem keeps_cellsTake (h : Keeps l s t) (h_regs : Part.regs ∈ l) (h_hallIrq : Part.hallIrq ∈ l) (h_tally : Part.tally ∈ l) (h_mkt : Part.mkt ∈ l) (h_dbg : Part.dbg ∈ l) (tc : Option Nat) (n : Nat) (copies : Nat) :
    Keeps l s (t.cellsTake tc n copies).2 := by
  unfold State.cellsTake
  repeat' (first
    | with_reducible assumption | intro _ | with_reducible apply keeps_ite | with_reducible apply keeps_ledgerCount
    | with_reducible apply keeps_add | dsimp only | split | with_reducible apply keeps_set_mkt)

theorem keeps_portInc (h : Keeps l s t) (h_regs : Part.regs ∈ l) (p : Nat) (i : Nat) :
    Keeps l s (t.portInc p i) := by
  unfold State.portInc
  repeat' (first
    | with_reducible assumption | intro _ | with_reducible apply keeps_ite | with_reducible apply keeps_inc
)

theorem keeps_dropFrame (h : Keeps l s t) (h_regs : Part.regs ∈ l) (h_hallIrq : Part.hallIrq ∈ l) (h_tally : Part.tally ∈ l) (h_dbg : Part.dbg ∈ l) (n : Nat) (p : Nat) (i : Nat) :
    Keeps l s (t.dropFrame n p i) := by
  unfold State.dropFrame
  repeat' (first
    | with_reducible assumption | intro _ | with_reducible apply keeps_ite | with_reducible apply keeps_portInc
    | with_reducible apply keeps_ledgerCount)

theorem keeps_setMsec (h : Keeps l s t) (h_mkt : Part.mkt ∈ l) (p : Nat) (x : MacsecPort) :
    Keeps l s (t.setMsec p x) := by
  unfold State.setMsec
  repeat' (first
    | with_reducible assumption | intro _ | with_reducible apply keeps_ite | with_reducible apply keeps_setMkt
)

theorem keeps_startFrame (h : Keeps l s t) (h_regs : Part.regs ∈ l) (h_hallIrq : Part.hallIrq ∈ l) (h_tally : Part.tally ∈ l) (h_mkt : Part.mkt ∈ l) (h_dbg : Part.dbg ∈ l) (p : Nat) (f : TxFrame) :
    Keeps l s (t.startFrame p f) := by
  unfold State.startFrame
  repeat' (first
    | with_reducible assumption | intro _ | with_reducible apply keeps_ite | with_reducible apply keeps_cellsFree
    | with_reducible apply keeps_setMsec | with_reducible apply keeps_portInc | with_reducible apply keeps_capture | with_reducible apply keeps_irqIf
    | with_reducible apply keeps_setMkt)

theorem keeps_pumpGo (h : Keeps l s t) (h_regs : Part.regs ∈ l) (h_hallIrq : Part.hallIrq ∈ l) (h_tally : Part.tally ∈ l) (h_mkt : Part.mkt ∈ l) (h_dbg : Part.dbg ∈ l) (p : Nat) (x1 : Nat) :
    Keeps l s (State.pumpGo p x1 t) := by
  induction x1 generalizing t with
  | zero =>
    unfold State.pumpGo
    repeat' (with_reducible assumption


)
  | succ n ih =>
    unfold State.pumpGo
    repeat' (first
      | with_reducible assumption | intro _ | with_reducible apply ih | with_reducible apply keeps_ite
      | with_reducible apply keeps_startFrame | with_reducible apply keeps_setMkt | with_reducible apply keeps_startFrame
      | with_reducible apply keeps_setMkt | with_reducible apply keeps_startFrame | with_reducible apply keeps_setMkt | dsimp only | split
)

theorem keeps_pump (h : Keeps l s t) (h_regs : Part.regs ∈ l) (h_hallIrq : Part.hallIrq ∈ l) (h_tally : Part.tally ∈ l) (h_mkt : Part.mkt ∈ l) (h_dbg : Part.dbg ∈ l) (p : Nat) :
    Keeps l s (t.pump p) := by
  unfold State.pump
  repeat' (first
    | with_reducible assumption | intro _ | with_reducible apply keeps_ite | with_reducible apply keeps_pumpGo
)

theorem keeps_enqTx (h : Keeps l s t) (h_regs : Part.regs ∈ l) (h_hallIrq : Part.hallIrq ∈ l) (h_tally : Part.tally ∈ l) (h_mkt : Part.mkt ∈ l) (h_dbg : Part.dbg ∈ l) (p : Nat) (f : TxFrame) :
    Keeps l s (t.enqTx p f) := by
  unfold State.enqTx
  repeat' (first
    | with_reducible assumption | intro _ | with_reducible apply keeps_ite | with_reducible apply keeps_pump
    | with_reducible apply keeps_setMkt)

theorem keeps_forward (h : Keeps l s t) (h_regs : Part.regs ∈ l) (h_hallIrq : Part.hallIrq ∈ l) (h_tally : Part.tally ∈ l) (h_mkt : Part.mkt ∈ l) (h_dbg : Part.dbg ∈ l) (p : Nat) (e : Nat) (n : Nat) (k : FrameKeys) (b : List (Nat × Bool)) (rx : Option (Nat × Int)) (ok : Bool) :
    Keeps l s (t.forward p e n k b rx ok) := by
  unfold State.forward
  repeat' (first
    | with_reducible assumption | intro _ | with_reducible apply keeps_ite | with_reducible apply keeps_ledgerCount
    | with_reducible apply keeps_dropFrame | with_reducible apply keeps_portInc | with_reducible apply keeps_cellsTake
    | with_reducible apply keeps_enqTx | with_reducible apply keeps_foldl
)

theorem keeps_landPool (h : Keeps l s t) (h_regs : Part.regs ∈ l) (h_hallIrq : Part.hallIrq ∈ l) (h_mem : Part.mem ∈ l) (h_ms : Part.ms ∈ l) (h_tally : Part.tally ∈ l) (h_mkt : Part.mkt ∈ l) (h_dbg : Part.dbg ∈ l) (p : Nat) (buf : Nat) (pool : Nat) (queue : Nat) (stamp : Nat) (verified : Bool) (win : Option (Nat × Nat)) (counts : List (Nat × Nat × Nat)) (f : List (Nat × Bool)) :
    Keeps l s (t.landPool p buf pool queue stamp verified win counts f) := by
  unfold State.landPool
  repeat' (first
    | with_reducible assumption | intro _ | with_reducible apply keeps_ite | with_reducible apply keeps_poolTakeWriter
    | with_reducible apply keeps_poolTake | with_reducible apply keeps_cellsFree | with_reducible apply keeps_portInc
    | with_reducible apply keeps_poolRelease | with_reducible apply keeps_dmaWrite | with_reducible apply keeps_addLanding
    | refine Keeps.snd_eq (by assumption) ?_ | dsimp only | split)

theorem keeps_landSections (h_regs : Part.regs ∈ l) (h_hallIrq : Part.hallIrq ∈ l) (h_mem : Part.mem ∈ l) (h_ms : Part.ms ∈ l)
    (h_dbg : Part.dbg ∈ l) (e : MktIn) (port stop : Nat) (f : List (Nat × Bool)) (fuel pos : Nat) (prev : Option Nat) (sym0 : Nat)
    (x : Sections) (h : Keeps l s x.st) : Keeps l s (landSections e port stop f fuel pos prev sym0 x).st := by
  induction fuel generalizing pos prev x with
  | zero => exact h
  | succ n ih =>
    unfold landSections
    repeat' (first
      | with_reducible assumption | with_reducible apply ih | with_reducible apply keeps_portInc | with_reducible apply keeps_dmaWrite
      | dsimp only | split)

theorem keeps_landLocked (h : Keeps l s t) (h_regs : Part.regs ∈ l) (h_hallIrq : Part.hallIrq ∈ l) (h_mem : Part.mem ∈ l) (h_ms : Part.ms ∈ l) (h_tally : Part.tally ∈ l) (h_mkt : Part.mkt ∈ l) (h_dbg : Part.dbg ∈ l) (p : Nat) (buf : Nat) (g : Nat) (k : FrameKeys) (f : List (Nat × Bool)) (stamp : Nat) (verified : Bool) :
    Keeps l s (t.landLocked p buf g k f stamp verified) := by
  unfold State.landLocked
  repeat' (first
    | with_reducible assumption | intro _ | with_reducible apply keeps_ite | with_reducible apply keeps_landSections
    | with_reducible apply keeps_cellsFree | with_reducible apply keeps_portInc | with_reducible apply keeps_inc
    | with_reducible apply keeps_addLanding | with_reducible apply keeps_landPool | dsimp only | split)

theorem keeps_setStream (h : Keeps l s t) (h_mkt : Part.mkt ∈ l) (st : Nat) (x : MktStream) :
    Keeps l s (t.setStream st x) := by
  unfold State.setStream
  repeat' (first
    | with_reducible assumption | intro _ | with_reducible apply keeps_ite | with_reducible apply keeps_setMkt
)

theorem keeps_streamRx (h : Keeps l s t) (h_regs : Part.regs ∈ l) (h_free : Part.free ∈ l) (h_mkt : Part.mkt ∈ l) (st : Nat) (k : FrameKeys) (f : List (Nat × Bool)) :
    Keeps l s (t.streamRx st k f) := by
  unfold State.streamRx
  repeat' (first
    | with_reducible assumption | intro _ | with_reducible apply keeps_ite | with_reducible apply keeps_inc
    | with_reducible apply keeps_setMkt | with_reducible apply keeps_setStream | dsimp only | split | with_reducible apply keeps_set_free
)

theorem keeps_classify (h : Keeps l s t) (h_regs : Part.regs ∈ l) (h_hallIrq : Part.hallIrq ∈ l) (h_free : Part.free ∈ l) (h_mem : Part.mem ∈ l) (h_ms : Part.ms ∈ l) (h_tally : Part.tally ∈ l) (h_mkt : Part.mkt ∈ l) (h_dbg : Part.dbg ∈ l) (p : Nat) (n : Nat) (b : List (Nat × Bool)) (stamp : Nat) (verified : Bool) :
    Keeps l s (t.classify p n b stamp verified) := by
  unfold State.classify
  repeat' (first
    | with_reducible assumption | intro _ | with_reducible apply keeps_ite | with_reducible apply keeps_dropFrame
    | with_reducible apply keeps_forward | with_reducible apply keeps_portInc | with_reducible apply keeps_cellsTake
    | with_reducible apply keeps_landLocked | with_reducible apply keeps_landPool | with_reducible apply keeps_cellsFree
    | with_reducible apply keeps_streamRx | refine Keeps.snd_eq (by assumption) ?_ | dsimp only | split)

theorem keeps_onPlan (h : Keeps l s t) (h_mkt : Part.mkt ∈ l) (g : Nat) (w : Nat) (f : MktPlan → MktPlan) :
    Keeps l s (t.onPlan g w f) := by
  unfold State.onPlan
  repeat' (first
    | with_reducible assumption | intro _ | with_reducible apply keeps_ite | with_reducible apply keeps_setMkt
)

theorem keeps_sendNote (h : Keeps l s t) (h_regs : Part.regs ∈ l) (h_hallIrq : Part.hallIrq ∈ l) (h_reeve : Part.reeve ∈ l) (h_tally : Part.tally ∈ l) (h_mkt : Part.mkt ∈ l) (h_dbg : Part.dbg ∈ l) (g : Nat) (w : Nat) (n : MktNotify) (lapse : Bool) :
    Keeps l s (t.sendNote g w n lapse) := by
  unfold State.sendNote
  repeat' (first
    | with_reducible assumption | intro _ | with_reducible apply keeps_ite | with_reducible apply keeps_sendToken
    | with_reducible apply keeps_onPlan)

theorem keeps_countNote (h : Keeps l s t) (h_regs : Part.regs ∈ l) (h_hallIrq : Part.hallIrq ∈ l) (h_reeve : Part.reeve ∈ l) (h_tally : Part.tally ∈ l) (h_mkt : Part.mkt ∈ l) (h_dbg : Part.dbg ∈ l) (g : Nat) (w : Nat) (nset : Nat) (sym : Nat) (units : Nat) :
    Keeps l s (t.countNote g w nset sym units) := by
  unfold State.countNote
  repeat' (first
    | with_reducible assumption | intro _ | with_reducible apply keeps_ite | with_reducible apply keeps_onPlan
    | with_reducible apply keeps_sendNote | dsimp only | split)

theorem keeps_lapseNote (h : Keeps l s t) (h_regs : Part.regs ∈ l) (h_hallIrq : Part.hallIrq ∈ l) (h_reeve : Part.reeve ∈ l) (h_tally : Part.tally ∈ l) (h_mkt : Part.mkt ∈ l) (h_dbg : Part.dbg ∈ l) (g : Nat) (w : Nat) (n : MktNotify) :
    Keeps l s (t.lapseNote g w n) := by
  unfold State.lapseNote
  repeat' (first
    | with_reducible assumption | intro _ | with_reducible apply keeps_ite | with_reducible apply keeps_inc
    | with_reducible apply keeps_sendNote)

theorem keeps_mktCommit (h : Keeps l s t) (h_mkt : Part.mkt ∈ l) (g : Nat) (slot : Int) (wtag : Nat) (sweepNs : Int) (l_5 : List MktEntry) :
    Keeps l s (t.mktCommit g slot wtag sweepNs l_5) := by
  unfold State.mktCommit
  repeat' (first
    | with_reducible assumption | intro _ | with_reducible apply keeps_ite | with_reducible apply keeps_setMkt
)

theorem keeps_showSynce (h : Keeps l s t) (h_regs : Part.regs ∈ l) (k : Nat) :
    Keeps l s (t.showSynce k) := by
  unfold State.showSynce
  repeat' (first
    | with_reducible assumption | intro _ | with_reducible apply keeps_ite | with_reducible apply keeps_wrB
)

theorem keeps_portTo (h : Keeps l s t) (h_regs : Part.regs ∈ l) (p : Nat) (st : Nat) :
    Keeps l s (t.portTo p st) := by
  unfold State.portTo
  repeat' (first
    | with_reducible assumption | intro _ | with_reducible apply keeps_ite | with_reducible apply keeps_showSynce
    | with_reducible apply keeps_wr)

theorem keeps_portBegin (h : Keeps l s t) (h_regs : Part.regs ∈ l) (p : Nat) :
    Keeps l s (t.portBegin p) := by
  unfold State.portBegin
  repeat' (first
    | with_reducible assumption | intro _ | with_reducible apply keeps_ite | with_reducible apply keeps_portTo
)

theorem keeps_portCfg (h : Keeps l s t) (h_regs : Part.regs ∈ l) (p : Nat) (v : Word) :
    Keeps l s (t.portCfg p v) := by
  unfold State.portCfg
  repeat' (first
    | with_reducible assumption | intro _ | with_reducible apply keeps_ite | with_reducible apply keeps_wr
    | with_reducible apply keeps_wrWord)

theorem keeps_portLoss (h : Keeps l s t) (h_regs : Part.regs ∈ l) (p : Nat) :
    Keeps l s (t.portLoss p) := by
  unfold State.portLoss
  repeat' (first
    | with_reducible assumption | intro _ | with_reducible apply keeps_ite | with_reducible apply keeps_portBegin
    | with_reducible apply keeps_wr | with_reducible apply keeps_inc)

theorem keeps_setOut (h : Keeps l s t) (h_mkt : Part.mkt ∈ l) (g : Nat) (w : Nat) (e : MktOut) :
    Keeps l s (t.setOut g w e) := by
  unfold State.setOut
  repeat' (first
    | with_reducible assumption | intro _ | with_reducible apply keeps_ite | with_reducible apply keeps_onPlan
)

theorem keeps_streamCfg (h : Keeps l s t) (h_regs : Part.regs ∈ l) (h_hallIrq : Part.hallIrq ∈ l) (h_mem : Part.mem ∈ l) (h_ms : Part.ms ∈ l) (h_mkt : Part.mkt ∈ l) (h_dbg : Part.dbg ∈ l) (st : Nat) (v : Word) :
    Keeps l s (t.streamCfg st v) := by
  unfold State.streamCfg
  repeat' (first
    | with_reducible assumption | intro _ | with_reducible apply keeps_ite | with_reducible apply keeps_wrWord
    | with_reducible apply keeps_dmaRead | with_reducible apply keeps_setStream
)

theorem keeps_withhold (h : Keeps l s t) (h_regs : Part.regs ∈ l) (h_mkt : Part.mkt ∈ l) (g : Nat) (w : Nat) (e : MktOut) :
    Keeps l s (t.withhold g w e) := by
  unfold State.withhold
  repeat' (first
    | with_reducible assumption | intro _ | with_reducible apply keeps_ite | with_reducible apply keeps_portInc
    | with_reducible apply keeps_setOut)

end Sys2Proof.Machine
end

