-- ==== Sys2Proof/Laws/KeepsStrong.lean ====
section
/-! SUPPORT. Laws/KeepsStrong.lean: which parts of the state each operation of Machine/Strong.lean may change, and that it keeps the
canonical forms. -/

namespace Sys2Proof.Machine

variable {l : List Part} {s t : State}

theorem keeps_setStrong (h : Keeps l s t) (h_strong : Part.strong ∈ l) (x : Strongroom) :
    Keeps l s (t.setStrong x) := by
  unfold State.setStrong
  repeat' (first
    | with_reducible assumption | intro _ | with_reducible apply keeps_ite | dsimp only | split | with_reducible apply keeps_set_strong
)

theorem keeps_clearChallenge (h : Keeps l s t) (h_regs : Part.regs ∈ l) (h_strong : Part.strong ∈ l) :
    Keeps l s (t.clearChallenge) := by
  unfold State.clearChallenge
  repeat' (first
    | with_reducible assumption | intro _ | with_reducible apply keeps_ite | with_reducible apply keeps_wr
    | with_reducible apply keeps_setStrong | with_reducible apply keeps_foldl
)

theorem keeps_decideRes (h : Keeps l s t) (h_strong : Part.strong ∈ l) (q : Nat) (r : StrongResult) :
    Keeps l s (t.decideRes q r) := by
  unfold State.decideRes
  repeat' (first
    | with_reducible assumption | intro _ | with_reducible apply keeps_ite | with_reducible apply keeps_setStrong
)

theorem keeps_deliver (h : Keeps l s t) (h_regs : Part.regs ∈ l) (h_hallIrq : Part.hallIrq ∈ l) (h_mem : Part.mem ∈ l) (h_ms : Part.ms ∈ l) (h_dbg : Part.dbg ∈ l) (d : StrongDesc) (l_2 : List Nat) (r : StrongResult) :
    Keeps l s (t.deliver d l_2 r).2 := by
  unfold State.deliver
  repeat' (first
    | with_reducible assumption | intro _ | with_reducible apply keeps_ite | with_reducible apply keeps_dmaWrite
)

theorem keeps_draw (h : Keeps l s t) (h_strong : Part.strong ∈ l) (n : Nat) :
    Keeps l s (t.draw n).2 := by
  unfold State.draw
  repeat' (first
    | with_reducible assumption | intro _ | with_reducible apply keeps_ite | with_reducible apply keeps_setStrong
)

theorem keeps_setKey (h : Keeps l s t) (h_regs : Part.regs ∈ l) (h_strong : Part.strong ∈ l) (slot : Nat) (k : StrongKey) :
    Keeps l s (t.setKey slot k) := by
  unfold State.setKey
  repeat' (first
    | with_reducible assumption | intro _ | with_reducible apply keeps_ite | with_reducible apply keeps_setStrong
    | with_reducible apply keeps_wr)

theorem keeps_emptyKey (h : Keeps l s t) (h_regs : Part.regs ∈ l) (h_strong : Part.strong ∈ l) (slot : Nat) :
    Keeps l s (t.emptyKey slot) := by
  unfold State.emptyKey
  repeat' (first
    | with_reducible assumption | intro _ | with_reducible apply keeps_ite | with_reducible apply keeps_setKey
)

theorem keeps_finishDesc (h : Keeps l s t) (h_regs : Part.regs ∈ l) (h_hallIrq : Part.hallIrq ∈ l) (h_hostIrq : Part.hostIrq ∈ l) (h_mem : Part.mem ∈ l) (h_ms : Part.ms ∈ l) (h_strong : Part.strong ∈ l) (h_dbg : Part.dbg ∈ l) (q : Nat) (r : StrongResult) :
    Keeps l s (t.finishDesc q r) := by
  unfold State.finishDesc
  repeat' (first
    | with_reducible assumption | intro _ | with_reducible apply keeps_ite | with_reducible apply keeps_dmaWrite
    | with_reducible apply keeps_inc | with_reducible apply keeps_setStrong | with_reducible apply keeps_irqHost | with_reducible apply keeps_irq
)

theorem keeps_source (h : Keeps l s t) (h_regs : Part.regs ∈ l) (h_hallIrq : Part.hallIrq ∈ l) (h_mem : Part.mem ∈ l) (h_ms : Part.ms ∈ l) (h_dbg : Part.dbg ∈ l) (d : StrongDesc) (n : Nat) :
    Keeps l s (t.source d n).2 := by
  unfold State.source
  repeat' (first
    | with_reducible assumption | intro _ | with_reducible apply keeps_ite | with_reducible apply keeps_dmaRead
    | refine Keeps.snd_eq (by assumption) ?_ | dsimp only | split)

theorem keeps_mapBytes (h : Keeps l s t) (h_regs : Part.regs ∈ l) (h_hallIrq : Part.hallIrq ∈ l) (h_mem : Part.mem ∈ l) (h_ms : Part.ms ∈ l) (h_dbg : Part.dbg ∈ l) (d : StrongDesc) (dst : Nat) (f : List Nat → List Nat) :
    Keeps l s (t.mapBytes d dst f).2 := by
  unfold State.mapBytes
  repeat' (first
    | with_reducible assumption | intro _ | with_reducible apply keeps_ite | with_reducible apply keeps_source
    | with_reducible apply keeps_deliver | refine Keeps.snd_eq (by assumption) ?_ | dsimp only | split)

theorem keeps_showApproved (h : Keeps l s t) (h_regs : Part.regs ∈ l) :
    Keeps l s (t.showApproved) := by
  unfold State.showApproved
  repeat' (first
    | with_reducible assumption | intro _ | with_reducible apply keeps_ite | with_reducible apply keeps_wrB
)

theorem keeps_strongTo (h : Keeps l s t) (h_regs : Part.regs ∈ l) (st : Nat) :
    Keeps l s (t.strongTo st) := by
  unfold State.strongTo
  repeat' (first
    | with_reducible assumption | intro _ | with_reducible apply keeps_ite | with_reducible apply keeps_showApproved
    | with_reducible apply keeps_wr)

theorem keeps_wipe (h : Keeps l s t) (h_regs : Part.regs ∈ l) (h_mkt : Part.mkt ∈ l) (h_strong : Part.strong ∈ l) :
    Keeps l s (t.wipe) := by
  unfold State.wipe
  repeat' (first
    | with_reducible assumption | intro _ | with_reducible apply keeps_ite | with_reducible apply keeps_emptyKey
    | with_reducible apply keeps_clearChallenge | with_reducible apply keeps_setStrong | with_reducible apply keeps_wr
    | with_reducible apply keeps_setMkt | with_reducible apply keeps_foldl
)

theorem keeps_strongError (h : Keeps l s t) (h_regs : Part.regs ∈ l) (h_mkt : Part.mkt ∈ l) (h_strong : Part.strong ∈ l) (h_dbg : Part.dbg ∈ l) (cause : Nat) :
    Keeps l s (t.strongError cause) := by
  unfold State.strongError
  repeat' (first
    | with_reducible assumption | intro _ | with_reducible apply keeps_ite | with_reducible apply keeps_raise
    | with_reducible apply keeps_strongTo | with_reducible apply keeps_wr | with_reducible apply keeps_inc | with_reducible apply keeps_wipe
)

theorem keeps_newKey (h : Keeps l s t) (h_regs : Part.regs ∈ l) (h_mkt : Part.mkt ∈ l) (h_strong : Part.strong ∈ l) (h_dbg : Part.dbg ∈ l) (d : StrongDesc) (bytes : List Nat) (pairOk : Bool) :
    Keeps l s (t.newKey d bytes pairOk).2 := by
  unfold State.newKey
  repeat' (first
    | with_reducible assumption | intro _ | with_reducible apply keeps_ite | with_reducible apply keeps_strongError
    | with_reducible apply keeps_setKey | dsimp only | split)

theorem keeps_reject (h : Keeps l s t) (h_regs : Part.regs ∈ l) (h_strong : Part.strong ∈ l) :
    Keeps l s (t.reject) := by
  unfold State.reject
  repeat' (first
    | with_reducible assumption | intro _ | with_reducible apply keeps_ite | with_reducible apply keeps_clearChallenge
    | with_reducible apply keeps_wrB | with_reducible apply keeps_setStrong)

theorem keeps_showOtp (h : Keeps l s t) (h_regs : Part.regs ∈ l) :
    Keeps l s (t.showOtp) := by
  unfold State.showOtp
  repeat' (first
    | with_reducible assumption | intro _ | with_reducible apply keeps_ite | with_reducible apply keeps_wr | with_reducible apply keeps_wrB
    | with_reducible apply keeps_foldl)

theorem keeps_strongFetch (h : Keeps l s t) (h_regs : Part.regs ∈ l) (h_hallIrq : Part.hallIrq ∈ l) (h_mem : Part.mem ∈ l) (h_ms : Part.ms ∈ l) (h_dbg : Part.dbg ∈ l) (q : Nat) :
    Keeps l s (t.strongFetch q).2 := by
  unfold State.strongFetch
  repeat' (first
    | with_reducible assumption | intro _ | with_reducible apply keeps_ite | with_reducible apply keeps_dmaRead
    | refine Keeps.snd_eq (by assumption) ?_ | dsimp only | split)

theorem keeps_zeroize (h : Keeps l s t) (h_regs : Part.regs ∈ l) (h_mkt : Part.mkt ∈ l) (h_strong : Part.strong ∈ l) :
    Keeps l s (t.zeroize) := by
  unfold State.zeroize
  repeat' (first
    | with_reducible assumption | intro _ | with_reducible apply keeps_ite | with_reducible apply keeps_wipe
    | with_reducible apply keeps_strongTo | with_reducible apply keeps_setStrong)

end Sys2Proof.Machine
end

