-- ==== Sys2Proof/Laws/KeepsCoppice.lean ====
section
/-! SUPPORT. Laws/KeepsCoppice.lean: which parts of the state each operation of Machine/Coppice.lean may change, and that it keeps the
canonical forms. -/

namespace Sys2Proof.Machine

variable {l : List Part} {s t : State}

theorem keeps_setCop (h : Keeps l s t) (h_cop : Part.cop ∈ l) (f : Coppice → Coppice) :
    Keeps l s (t.setCop f) := by
  unfold State.setCop
  repeat' (first
    | with_reducible assumption | intro _ | with_reducible apply keeps_ite | dsimp only | split | with_reducible apply keeps_set_cop
)

theorem keeps_dropExtra (h : Keeps l s t) (h_regs : Part.regs ∈ l) (h_cop : Part.cop ∈ l) :
    Keeps l s (t.dropExtra) := by
  unfold State.dropExtra
  repeat' (first
    | with_reducible assumption | intro _ | with_reducible apply keeps_ite | with_reducible apply keeps_wr | with_reducible apply keeps_add
    | with_reducible apply keeps_setCop)

theorem keeps_eraseStool (h : Keeps l s t) (h_mem : Part.mem ∈ l) (h_cop : Part.cop ∈ l) (k : Nat) :
    Keeps l s (t.eraseStool k) := by
  unfold State.eraseStool
  repeat' (first
    | with_reducible assumption | intro _ | with_reducible apply keeps_ite | with_reducible apply keeps_setCop
    | with_reducible apply keeps_setMem | with_reducible apply Memory.wf_putRaw | with_reducible apply Memory.wf_put
    | with_reducible apply Memory.wf_fill)

theorem keeps_stoolTo (h : Keeps l s t) (h_regs : Part.regs ∈ l) (k : Nat) (n : Nat) :
    Keeps l s (t.stoolTo k n) := by
  unfold State.stoolTo
  repeat' (first
    | with_reducible assumption | intro _ | with_reducible apply keeps_ite | with_reducible apply keeps_wr
)

theorem keeps_fallow (h : Keeps l s t) (h_regs : Part.regs ∈ l) (h_mem : Part.mem ∈ l) (h_cop : Part.cop ∈ l) (k : Nat) :
    Keeps l s (t.fallow k) := by
  unfold State.fallow
  repeat' (first
    | with_reducible assumption | intro _ | with_reducible apply keeps_ite | with_reducible apply keeps_wr
    | with_reducible apply keeps_stoolTo | with_reducible apply keeps_eraseStool)

theorem keeps_loadTo (h : Keeps l s t) (h_regs : Part.regs ∈ l) (n : Nat) :
    Keeps l s (t.loadTo n) := by
  unfold State.loadTo
  repeat' (first
    | with_reducible assumption | intro _ | with_reducible apply keeps_ite | with_reducible apply keeps_wr
)

theorem keeps_loadDone (h : Keeps l s t) (h_regs : Part.regs ∈ l) (h_hallIrq : Part.hallIrq ∈ l) (h_hostIrq : Part.hostIrq ∈ l) (h_cop : Part.cop ∈ l) (status : Nat) (cause : Nat) :
    Keeps l s (t.loadDone status cause) := by
  unfold State.loadDone
  repeat' (first
    | with_reducible assumption | intro _ | with_reducible apply keeps_ite | with_reducible apply keeps_setCop
    | with_reducible apply keeps_loadTo | with_reducible apply keeps_wr | with_reducible apply keeps_irqIf | with_reducible apply keeps_irqHost
)

theorem keeps_loadFail (h : Keeps l s t) (h_regs : Part.regs ∈ l) (h_hallIrq : Part.hallIrq ∈ l) (h_hostIrq : Part.hostIrq ∈ l) (h_mem : Part.mem ∈ l) (h_cop : Part.cop ∈ l) (status : Nat) (cause : Nat) :
    Keeps l s (t.loadFail status cause) := by
  unfold State.loadFail
  repeat' (first
    | with_reducible assumption | intro _ | with_reducible apply keeps_ite | with_reducible apply keeps_loadDone
    | with_reducible apply keeps_fallow | with_reducible apply keeps_foldl
)

theorem keeps_stoolCmd (h : Keeps l s t) (h_regs : Part.regs ∈ l) (k : Nat) (ok : Bool) (t_3 : State) (h_t_3 : Keeps l s t_3) :
    Keeps l s (t.stoolCmd k ok t_3) := by
  unfold State.stoolCmd
  repeat' (first
    | with_reducible assumption | intro _ | with_reducible apply keeps_ite | with_reducible apply keeps_wr
)

theorem keeps_takeHeader (h : Keeps l s t) (h_regs : Part.regs ∈ l) (h_hallIrq : Part.hallIrq ∈ l) (h_hostIrq : Part.hostIrq ∈ l) (h_mem : Part.mem ∈ l) (h_cop : Part.cop ∈ l) :
    Keeps l s (t.takeHeader) := by
  unfold State.takeHeader
  repeat' (first
    | with_reducible assumption | intro _ | with_reducible apply keeps_ite | with_reducible apply keeps_wr
    | with_reducible apply keeps_loadFail | with_reducible apply keeps_stoolTo | with_reducible apply keeps_loadTo | with_reducible apply keeps_foldl
    | with_reducible apply keeps_foldl_snd | dsimp only | split)

theorem keeps_userReset (h : Keeps l s t) (h_cop : Part.cop ∈ l) (k : Nat) :
    Keeps l s (t.userReset k) := by
  unfold State.userReset
  repeat' (first
    | with_reducible assumption | intro _ | with_reducible apply keeps_ite | with_reducible apply keeps_setCop
)

theorem keeps_writeFrame (h : Keeps l s t) (h_mem : Part.mem ∈ l) (h_cop : Part.cop ∈ l) (b : List Nat) :
    Keeps l s (t.writeFrame b) := by
  unfold State.writeFrame
  repeat' (first
    | with_reducible assumption | intro _ | with_reducible apply keeps_ite | with_reducible apply keeps_setCop
    | with_reducible apply keeps_writeWords)

end Sys2Proof.Machine
end

