-- ==== Sys2Proof/Laws/KeepsBoot.lean ====
section
/-! SUPPORT. Laws/KeepsBoot.lean: which parts of the state each operation of Machine/Boot.lean may change, and that it keeps the
canonical forms. -/

namespace Sys2Proof.Machine

variable {l : List Part} {s t : State}

theorem keeps_stepTo (h : Keeps l s t) (h_regs : Part.regs ∈ l) (n : Nat) :
    Keeps l s (t.stepTo n) := by
  unfold State.stepTo
  repeat' (first
    | with_reducible assumption | intro _ | with_reducible apply keeps_ite | with_reducible apply keeps_wr
)

theorem keeps_bootReady (h : Keeps l s t) (h_regs : Part.regs ∈ l) (slot : Nat) :
    Keeps l s (t.bootReady slot) := by
  unfold State.bootReady
  repeat' (first
    | with_reducible assumption | intro _ | with_reducible apply keeps_ite | with_reducible apply keeps_stepTo
    | with_reducible apply keeps_wr)

theorem keeps_setBoot (h : Keeps l s t) (h_boot : Part.boot ∈ l) (f : Boot → Boot) :
    Keeps l s (t.setBoot f) := by
  unfold State.setBoot
  repeat' (first
    | with_reducible assumption | intro _ | with_reducible apply keeps_ite | dsimp only | split | with_reducible apply keeps_set_boot
)

theorem keeps_crier (h : Keeps l s t) (h_boot : Part.boot ∈ l) (cause : Nat) (detail : Nat) :
    Keeps l s (t.crier cause detail) := by
  unfold State.crier
  repeat' (first
    | with_reducible assumption | intro _ | with_reducible apply keeps_ite | with_reducible apply keeps_setBoot
)

theorem keeps_crierPort (h : Keeps l s t) (h_regs : Part.regs ∈ l) (n : Nat) :
    Keeps l s (t.crierPort n) := by
  unfold State.crierPort
  repeat' (first
    | with_reducible assumption | intro _ | with_reducible apply keeps_ite | with_reducible apply keeps_wrB
    | with_reducible apply keeps_setPortSt)

theorem keeps_crierPower (h : Keeps l s t) (h_regs : Part.regs ∈ l) (d : Nat) :
    Keeps l s (t.crierPower d) := by
  unfold State.crierPower
  repeat' (first
    | with_reducible assumption | intro _ | with_reducible apply keeps_ite | with_reducible apply keeps_gateCheck
    | with_reducible apply keeps_wr)

theorem keeps_deviceReset (h : Keeps l s t) (h_regs : Part.regs ∈ l) (h_ans : Part.ans ∈ l) (h_hallIrq : Part.hallIrq ∈ l) (h_hostIrq : Part.hostIrq ∈ l) (h_sent : Part.sent ∈ l) (h_free : Part.free ∈ l) (h_stp : Part.stp ∈ l) (h_cores : Part.cores ∈ l) (h_querns : Part.querns ∈ l) (h_reeve : Part.reeve ∈ l) (h_ws : Part.ws ∈ l) (h_sv : Part.sv ∈ l) (h_mem : Part.mem ∈ l) (h_ms : Part.ms ∈ l) (h_net : Part.net ∈ l) (h_tally : Part.tally ∈ l) (h_crt : Part.crt ∈ l) (h_ewl : Part.ewl ∈ l) (h_mkt : Part.mkt ∈ l) (h_host : Part.host ∈ l) (h_cop : Part.cop ∈ l) (h_strong : Part.strong ∈ l) (h_boot : Part.boot ∈ l) (h_pins : Part.pins ∈ l) (h_hml : Part.hml ∈ l) (h_pwr : Part.pwr ∈ l) (h_dbg : Part.dbg ∈ l) (cause : Nat) (recovery : Bool) :
    Keeps l s (t.deviceReset cause recovery) := by
  unfold State.deviceReset
  dsimp only
  apply keeps_wrB _ h_regs
  apply keeps_wr _ h_regs
  apply keeps_wr _ h_regs
  apply keeps_setStrong _ h_strong
  refine h.trans ⟨fun p hp => ?_, fun w => ?_, fun _ => rfl⟩
  · cases p <;> first | rfl | exact absurd h_regs hp | exact absurd h_ans hp | exact absurd h_hallIrq hp | exact absurd h_hostIrq hp | exact absurd h_sent hp | exact absurd h_free hp | exact absurd h_stp hp | exact absurd h_cores hp | exact absurd h_querns hp | exact absurd h_reeve hp | exact absurd h_ws hp | exact absurd h_sv hp | exact absurd h_mem hp | exact absurd h_ms hp | exact absurd h_net hp | exact absurd h_tally hp | exact absurd h_crt hp | exact absurd h_ewl hp | exact absurd h_mkt hp | exact absurd h_host hp | exact absurd h_cop hp | exact absurd h_strong hp | exact absurd h_boot hp | exact absurd h_pins hp | exact absurd h_hml hp | exact absurd h_pwr hp | exact absurd h_dbg hp
  · simp only [Memory.wf, Bool.and_eq_true] at w ⊢
    exact ⟨Tab.wf_clear _ _ w.1, Tab.wf_clear _ _ w.2⟩

theorem keeps_spareNone (h : Keeps l s t) (h_regs : Part.regs ∈ l) (h_1 : Nat) :
    Keeps l s (t.spareNone h_1) := by
  unfold State.spareNone
  repeat' (first
    | with_reducible assumption | intro _ | with_reducible apply keeps_ite | with_reducible apply keeps_wr
)

theorem keeps_failCore (h : Keeps l s t) (h_regs : Part.regs ∈ l) (h_boot : Part.boot ∈ l) (h_hml : Part.hml ∈ l) (h_1 : Nat) (p : Nat) :
    Keeps l s (t.failCore h_1 p) := by
  unfold State.failCore
  repeat' (first
    | with_reducible assumption | intro _ | with_reducible apply keeps_ite | with_reducible apply keeps_setBoot
    | with_reducible apply keeps_crier | with_reducible apply keeps_spareNone | with_reducible apply keeps_wr | dsimp only | split
    | with_reducible apply keeps_set_hml)

theorem keeps_failCores (h : Keeps l s t) (h_regs : Part.regs ∈ l) (h_boot : Part.boot ∈ l) (h_hml : Part.hml ∈ l) (l_1 : List (Nat × Nat)) :
    Keeps l s (t.failCores l_1) := by
  unfold State.failCores
  repeat' (first
    | with_reducible assumption | intro _ | with_reducible apply keeps_ite | with_reducible apply keeps_failCore
    | with_reducible apply keeps_foldl)

theorem keeps_freezeRecord (h : Keeps l s t) (h_regs : Part.regs ∈ l) (h_boot : Part.boot ∈ l) (cause : Nat) (detail : Nat) :
    Keeps l s (t.freezeRecord cause detail) := by
  unfold State.freezeRecord
  repeat' (first
    | with_reducible assumption | intro _ | with_reducible apply keeps_ite | with_reducible apply keeps_wr
    | with_reducible apply keeps_setBoot | with_reducible apply keeps_foldl
)

theorem keeps_hearthWrite (h : Keeps l s t) (h_regs : Part.regs ∈ l) (h_hallIrq : Part.hallIrq ∈ l) (h_mem : Part.mem ∈ l) (h_ms : Part.ms ∈ l) (h_dbg : Part.dbg ∈ l) (o : Nat) (b : List Nat) :
    Keeps l s (t.hearthWrite o b) := by
  unfold State.hearthWrite
  repeat' (first
    | with_reducible assumption | intro _ | with_reducible apply keeps_ite | with_reducible apply keeps_writeBytes
    | with_reducible apply keeps_writeWords)

theorem keeps_holdCore (h : Keeps l s t) (h_cores : Part.cores ∈ l) (k : Nat) :
    Keeps l s (t.holdCore k) := by
  unfold State.holdCore
  repeat' (first
    | with_reducible assumption | intro _ | with_reducible apply keeps_ite | with_reducible apply keeps_setCore
)

theorem keeps_nowRunning (h : Keeps l s t) (h_regs : Part.regs ∈ l) :
    Keeps l s (t.nowRunning) := by
  unfold State.nowRunning
  repeat' (first
    | with_reducible assumption | intro _ | with_reducible apply keeps_ite | with_reducible apply keeps_stepTo
    | with_reducible apply keeps_wr)

theorem keeps_releaseCore (h : Keeps l s t) (h_cores : Part.cores ∈ l) (k : Nat) (pc : Nat) :
    Keeps l s (t.releaseCore k pc) := by
  unfold State.releaseCore
  repeat' (first
    | with_reducible assumption | intro _ | with_reducible apply keeps_ite | with_reducible apply keeps_setCore
)

theorem keeps_releaseLogical (h : Keeps l s t) (h_regs : Part.regs ∈ l) (h_cores : Part.cores ∈ l) (h_reeve : Part.reeve ∈ l) (h_1 : Nat) (c : Nat) :
    Keeps l s (t.releaseLogical h_1 c) := by
  unfold State.releaseLogical
  repeat' (first
    | with_reducible assumption | intro _ | with_reducible apply keeps_ite | with_reducible apply keeps_modRcore
    | with_reducible apply keeps_releaseCore)

theorem keeps_releaseHamlet (h : Keeps l s t) (h_regs : Part.regs ∈ l) (h_cores : Part.cores ∈ l) (h_reeve : Part.reeve ∈ l) (h_hml : Part.hml ∈ l) (h_1 : Nat) :
    Keeps l s (t.releaseHamlet h_1) := by
  unfold State.releaseHamlet
  repeat' (first
    | with_reducible assumption | intro _ | with_reducible apply keeps_ite | with_reducible apply keeps_wr
    | with_reducible apply keeps_releaseLogical | with_reducible apply keeps_foldl | with_reducible apply keeps_foldl_snd | dsimp only | split
    | with_reducible apply keeps_set_hml)

theorem keeps_runImage (h : Keeps l s t) (h_regs : Part.regs ∈ l) (h_cores : Part.cores ∈ l) (h_strong : Part.strong ∈ l) (h_boot : Part.boot ∈ l) (h_1 : List Nat) :
    Keeps l s (t.runImage h_1) := by
  unfold State.runImage
  repeat' (first
    | with_reducible assumption | intro _ | with_reducible apply keeps_ite | with_reducible apply keeps_setBoot
    | with_reducible apply keeps_wr | with_reducible apply keeps_releaseCore | with_reducible apply keeps_setStrong
)

end Sys2Proof.Machine
end

