-- ==== Sys2Proof/Laws/KeepsService.lean ====
section
/-! SUPPORT. Laws/KeepsService.lean: which parts of the state each operation of Machine/Service.lean may change, and that it keeps the
canonical forms. -/

namespace Sys2Proof.Machine

variable {l : List Part} {s t : State}

theorem keeps_copyPlot (h : Keeps l s t) (h_mem : Part.mem ∈ l) (h_1 : Nat) (p : Nat) (q : Nat) :
    Keeps l s (t.copyPlot h_1 p q) := by
  unfold State.copyPlot
  repeat' (first
    | with_reducible assumption | intro _ | with_reducible apply keeps_ite | with_reducible apply keeps_setMem
    | with_reducible apply keeps_foldl | with_reducible apply keeps_foldl_snd | with_reducible apply Memory.wf_putRaw
    | with_reducible apply Memory.wf_put | with_reducible apply Memory.wf_fill | with_reducible apply Memory.wf_foldl
)

theorem keeps_moveIdentity (h : Keeps l s t) (h_regs : Part.regs ∈ l) (h_hml : Part.hml ∈ l) (h_1 : Nat) (l_2 : Nat) :
    Keeps l s (t.moveIdentity h_1 l_2) := by
  unfold State.moveIdentity
  repeat' (first
    | with_reducible assumption | intro _ | with_reducible apply keeps_ite | with_reducible apply keeps_wr | dsimp only | split
    | with_reducible apply keeps_set_hml)

theorem keeps_replaceCore (h : Keeps l s t) (h_regs : Part.regs ∈ l) (h_hml : Part.hml ∈ l) (h_1 : Nat) (p : Nat) :
    Keeps l s (t.replaceCore h_1 p) := by
  unfold State.replaceCore
  repeat' (first
    | with_reducible assumption | intro _ | with_reducible apply keeps_ite | with_reducible apply keeps_moveIdentity
)

theorem keeps_readmit (h : Keeps l s t) (h_regs : Part.regs ∈ l) (h_cores : Part.cores ∈ l) (h_reeve : Part.reeve ∈ l) (h_hml : Part.hml ∈ l) (h_1 : Nat) :
    Keeps l s (t.readmit h_1) := by
  unfold State.readmit
  repeat' (first
    | with_reducible assumption | intro _ | with_reducible apply keeps_ite | with_reducible apply keeps_wr
    | with_reducible apply keeps_spareNone | with_reducible apply keeps_replaceCore | with_reducible apply keeps_releaseLogical
    | with_reducible apply keeps_foldl | with_reducible apply keeps_foldl_snd | dsimp only | split | with_reducible apply keeps_set_hml
)

theorem keeps_ucodeRead (h : Keeps l s t) (h_regs : Part.regs ∈ l) (h_hallIrq : Part.hallIrq ∈ l) (h_mem : Part.mem ∈ l) (h_ms : Part.ms ∈ l) (h_dbg : Part.dbg ∈ l) (w : Nat) (a : Nat) (n : Nat) :
    Keeps l s (t.ucodeRead w a n).2 := by
  unfold State.ucodeRead
  repeat' (first
    | with_reducible assumption | intro _ | with_reducible apply keeps_ite | with_reducible apply keeps_dmaRead
    | refine Keeps.snd_eq (by assumption) ?_ | dsimp only | split)

theorem keeps_ucodeImage (h : Keeps l s t) (h_regs : Part.regs ∈ l) (h_hallIrq : Part.hallIrq ∈ l) (h_mem : Part.mem ∈ l) (h_ms : Part.ms ∈ l) (h_dbg : Part.dbg ∈ l) (w : Nat) (e : Nat) (a : Nat) :
    Keeps l s (t.ucodeImage w e a).2 := by
  unfold State.ucodeImage
  repeat' (first
    | with_reducible assumption | intro _ | with_reducible apply keeps_ite | with_reducible apply keeps_ucodeRead
    | refine Keeps.snd_eq (by assumption) ?_ | dsimp only | split)

end Sys2Proof.Machine
end

