-- ==== Sys2Proof/Laws/KeepsPlan.lean ====
section
/-! SUPPORT. Laws/KeepsPlan.lean: which parts of the state each operation of Machine/Plan.lean may change, and that it keeps the
canonical forms. -/

namespace Sys2Proof.Machine

variable {l : List Part} {s t : State}

theorem keeps_addWindow (h : Keeps l s t) (h_stp : Part.stp ∈ l) (g : Nat) (p : ArmedPlan) :
    Keeps l s (t.addWindow g p) := by
  unfold State.addWindow
  repeat' (first
    | with_reducible assumption | intro _ | with_reducible apply keeps_ite | with_reducible apply keeps_setGroup
)

theorem keeps_readPart0 (h : Keeps l s t) (h_regs : Part.regs ∈ l) (h_hallIrq : Part.hallIrq ∈ l) (h_ms : Part.ms ∈ l) (h_dbg : Part.dbg ∈ l) (g : Nat) (commitTick : Nat) (sweepTick : Nat) (e : Nat × Nat) :
    Keeps l s (t.readPart0 g commitTick sweepTick e).2 := by
  unfold State.readPart0
  repeat' (first
    | with_reducible assumption | intro _ | with_reducible apply keeps_ite | with_reducible apply keeps_readBatch
    | with_reducible apply keeps_batchCheck | refine Keeps.snd_eq (by assumption) ?_ | dsimp only | split)

theorem keeps_readPlanPart (h : Keeps l s t) (h_regs : Part.regs ∈ l) (h_hallIrq : Part.hallIrq ∈ l) (h_ms : Part.ms ∈ l) (h_dbg : Part.dbg ∈ l) (i : Nat) (e : Nat × Nat) :
    Keeps l s (t.readPlanPart i e).2 := by
  unfold State.readPlanPart
  repeat' (first
    | with_reducible assumption | intro _ | with_reducible apply keeps_ite | with_reducible apply keeps_granaryRead
    | refine Keeps.snd_eq (by assumption) ?_ | dsimp only | split)

theorem keeps_planOutcome (h : Keeps l s t) (h_regs : Part.regs ∈ l) (g : Nat) (outcome : Nat) (seq : Nat) :
    Keeps l s (t.planOutcome g outcome seq) := by
  unfold State.planOutcome
  repeat' (first
    | with_reducible assumption | intro _ | with_reducible apply keeps_ite | with_reducible apply keeps_wr
)

theorem keeps_planRefused (h : Keeps l s t) (h_regs : Part.regs ∈ l) (g : Nat) (cause : Nat) (part : Nat) (seq : Nat) :
    Keeps l s (t.planRefused g cause part seq) := by
  unfold State.planRefused
  repeat' (first
    | with_reducible assumption | intro _ | with_reducible apply keeps_ite | with_reducible apply keeps_planOutcome
    | with_reducible apply keeps_inc | with_reducible apply keeps_wr)

theorem keeps_setArmed (h : Keeps l s t) (h_regs : Part.regs ∈ l) (h_stp : Part.stp ∈ l) (g : Nat) (l_2 : List ArmedPlan) :
    Keeps l s (t.setArmed g l_2) := by
  unfold State.setArmed
  repeat' (first
    | with_reducible assumption | intro _ | with_reducible apply keeps_ite | with_reducible apply keeps_wr
    | with_reducible apply keeps_setGroup)

theorem keeps_armParts (h : Keeps l s t) (h_regs : Part.regs ∈ l) (h_hallIrq : Part.hallIrq ∈ l) (h_stp : Part.stp ∈ l) (h_reeve : Part.reeve ∈ l) (h_ms : Part.ms ∈ l) (h_tally : Part.tally ∈ l) (h_dbg : Part.dbg ∈ l) (g : Nat) (w : List Nat) (headPoison : Bool) (commitNs : Int) (slot : Int) (bells : List BellEntry) (poison5 : Bool) (reject5 : Bool) :
    Keeps l s (t.armParts g w headPoison commitNs slot bells poison5 reject5) := by
  unfold State.armParts
  repeat' (first
    | with_reducible assumption | intro _ | with_reducible apply keeps_ite | with_reducible apply keeps_readPart0
    | with_reducible apply keeps_readPlanPart | with_reducible apply keeps_rejectRoute | with_reducible apply keeps_planRefused
    | with_reducible apply keeps_takeBatch | with_reducible apply keeps_setStp | with_reducible apply keeps_wr
    | with_reducible apply keeps_planOutcome | with_reducible apply keeps_setArmed | refine Keeps.snd_eq (by assumption) ?_ | dsimp only | split
)

theorem keeps_bellApply (h : Keeps l s t) (h_regs : Part.regs ∈ l) (h_stp : Part.stp ∈ l) (e : BellEntry) :
    Keeps l s (t.bellApply e) := by
  unfold State.bellApply
  repeat' (first
    | with_reducible assumption | intro _ | with_reducible apply keeps_ite | with_reducible apply keeps_wr
    | with_reducible apply keeps_bellCfg)

theorem keeps_freeWindowTag (h : Keeps l s t) (h_reeve : Part.reeve ∈ l) (g : Nat) (p : Nat → Bool) :
    Keeps l s (t.freeWindowTag g p) := by
  unfold State.freeWindowTag
  repeat' (first
    | with_reducible assumption | intro _ | with_reducible apply keeps_ite | dsimp only | split | with_reducible apply keeps_set_reeve
)

theorem keeps_lgStart (h : Keeps l s t) (h_regs : Part.regs ∈ l) (h_stp : Part.stp ∈ l) (g : Nat) (hashDiffers : Bool) :
    Keeps l s (t.lgStart g hashDiffers) := by
  unfold State.lgStart
  repeat' (first
    | with_reducible assumption | intro _ | with_reducible apply keeps_ite | with_reducible apply keeps_wr | with_reducible apply keeps_wrB
    | with_reducible apply keeps_setGroup)

theorem keeps_planArm (h : Keeps l s t) (h_regs : Part.regs ∈ l) (h_hallIrq : Part.hallIrq ∈ l) (h_free : Part.free ∈ l) (h_stp : Part.stp ∈ l) (h_reeve : Part.reeve ∈ l) (h_ms : Part.ms ∈ l) (h_tally : Part.tally ∈ l) (h_dbg : Part.dbg ∈ l) (g : Nat) (addr : Nat) (bells : List BellEntry) (poison5 : Bool) (reject5 : Bool) :
    Keeps l s (t.planArm g addr bells poison5 reject5) := by
  unfold State.planArm
  repeat' (first
    | with_reducible assumption | intro _ | with_reducible apply keeps_ite | with_reducible apply keeps_granaryRead
    | with_reducible apply keeps_fresh | with_reducible apply keeps_planRefused | with_reducible apply keeps_armParts
    | refine Keeps.snd_eq (by assumption) ?_ | dsimp only | split)

theorem keeps_planSwap (h : Keeps l s t) (h_regs : Part.regs ∈ l) (h_sv : Part.sv ∈ l) (commitNs : Int) (e : SwapEntry) :
    Keeps l s (t.planSwap commitNs e) := by
  unfold State.planSwap
  repeat' (first
    | with_reducible assumption | intro _ | with_reducible apply keeps_ite | with_reducible apply keeps_sieveRequest
)

theorem keeps_planParts (h : Keeps l s t) (h_regs : Part.regs ∈ l) (h_hallIrq : Part.hallIrq ∈ l) (h_hostIrq : Part.hostIrq ∈ l) (h_stp : Part.stp ∈ l) (h_cores : Part.cores ∈ l) (h_reeve : Part.reeve ∈ l) (h_sv : Part.sv ∈ l) (h_net : Part.net ∈ l) (h_tally : Part.tally ∈ l) (h_crt : Part.crt ∈ l) (h_mkt : Part.mkt ∈ l) (h_dbg : Part.dbg ∈ l) (g : Nat) (p : ArmedPlan) :
    Keeps l s (t.planParts g p) := by
  unfold State.planParts
  repeat' (first
    | with_reducible assumption | intro _ | with_reducible apply keeps_ite | with_reducible apply keeps_commitBatch
    | with_reducible apply keeps_mktCommit | with_reducible apply keeps_commitLists | with_reducible apply keeps_wr
    | with_reducible apply keeps_startEpoch | with_reducible apply keeps_planSwap | with_reducible apply keeps_bellApply
    | with_reducible apply keeps_foldl)

theorem keeps_withdrawn (h : Keeps l s t) (h_regs : Part.regs ∈ l) (h_hallIrq : Part.hallIrq ∈ l) (h_stp : Part.stp ∈ l) (h_reeve : Part.reeve ∈ l) (h_tally : Part.tally ∈ l) (h_dbg : Part.dbg ∈ l) (g : Nat) (p : ArmedPlan) :
    Keeps l s (t.withdrawn g p) := by
  unfold State.withdrawn
  repeat' (first
    | with_reducible assumption | intro _ | with_reducible apply keeps_ite | with_reducible apply keeps_dropBatch
    | with_reducible apply keeps_setArmed | with_reducible apply keeps_wr | with_reducible apply keeps_planOutcome
)

theorem keeps_withdrawAll (h : Keeps l s t) (h_regs : Part.regs ∈ l) (h_hallIrq : Part.hallIrq ∈ l) (h_stp : Part.stp ∈ l) (h_reeve : Part.reeve ∈ l) (h_tally : Part.tally ∈ l) (h_dbg : Part.dbg ∈ l) (g : Nat) :
    Keeps l s (t.withdrawAll g) := by
  unfold State.withdrawAll
  repeat' (first
    | with_reducible assumption | intro _ | with_reducible apply keeps_ite | with_reducible apply keeps_withdrawn
    | with_reducible apply keeps_foldl)

end Sys2Proof.Machine
end

