-- ==== Sys2Proof/Laws/KeepsPower.lean ====
section
/-! SUPPORT. Laws/KeepsPower.lean: which parts of the state each operation of Machine/Power.lean may change, and that it keeps the
canonical forms. -/

namespace Sys2Proof.Machine

variable {l : List Part} {s t : State}

theorem keeps_clearRegs (h : Keeps l s t) (h_regs : Part.regs ∈ l) (a b : Nat) : Keeps l s (t.clearRegs a b) := by
  refine h.trans ⟨fun p hp => ?_, id, RegFile.wf_clearRange t.regs a b⟩
  cases p <;> first | rfl | exact absurd h_regs hp

theorem keeps_domRefuse (h : Keeps l s t) (h_regs : Part.regs ∈ l) (d : Nat) (cause : Nat) :
    Keeps l s (t.domRefuse d cause) := by
  unfold State.domRefuse
  repeat' (first
    | with_reducible assumption | intro _ | with_reducible apply keeps_ite | with_reducible apply keeps_wr
)

theorem keeps_domTo (h : Keeps l s t) (h_regs : Part.regs ∈ l) (d : Nat) (n : Nat) :
    Keeps l s (t.domTo d n) := by
  unfold State.domTo
  repeat' (first
    | with_reducible assumption | intro _ | with_reducible apply keeps_ite | with_reducible apply keeps_wr
)

theorem keeps_decideOff (h : Keeps l s t) (h_regs : Part.regs ∈ l) (h_pwr : Part.pwr ∈ l) (mid : Mid) (d : Nat) :
    Keeps l s (t.decideOff mid d) := by
  unfold State.decideOff
  repeat' (first
    | with_reducible assumption | intro _ | with_reducible apply keeps_ite | with_reducible apply keeps_domRefuse
    | with_reducible apply keeps_domTo | with_reducible apply keeps_gateCheck | refine Keeps.snd_eq (by assumption) ?_ | dsimp only | split
    | with_reducible apply keeps_set_pwr)

theorem keeps_loseDomain (h : Keeps l s t) (h_regs : Part.regs ∈ l) (h_stp : Part.stp ∈ l) (h_cores : Part.cores ∈ l) (h_querns : Part.querns ∈ l) (h_reeve : Part.reeve ∈ l) (h_ws : Part.ws ∈ l) (h_sv : Part.sv ∈ l) (h_mem : Part.mem ∈ l) (h_ms : Part.ms ∈ l) (h_crt : Part.crt ∈ l) (h_ewl : Part.ewl ∈ l) (h_mkt : Part.mkt ∈ l) (h_cop : Part.cop ∈ l) (h_hml : Part.hml ∈ l) (d : Nat) :
    Keeps l s (t.loseDomain d) := by
  have c : ∀ (u : State) (a b : Nat), Keeps l s u → Keeps l s (u.clearRegs a b) := fun u a b hu => keeps_clearRegs hu h_regs a b
  unfold State.loseDomain
  refine keeps_ite ?_ ?_
  · refine keeps_set_cores_querns_ms_crt_hml ?_ h_cores h_querns h_ms h_crt h_hml _ _ _ _ _ rfl
    refine keeps_foldl _ (fun u i hu => keeps_modRcore hu h_regs h_reeve ..) _ _ ?_
    exact keeps_setMem (c _ _ _ (c _ _ _ h)) h_mem _ (Memory.wf_fill t.ms.mem _ _)
  · refine keeps_ite ?_ ?_
    · exact keeps_set_ewl (c _ _ _ (c _ _ _ h)) h_ewl _
    · refine keeps_ite ?_ ?_
      · exact keeps_set_cores_ms (c _ _ _ h) h_cores h_ms _ _ rfl
      · refine keeps_ite ?_ ?_
        · exact h
        · refine keeps_ite ?_ ?_
          · exact keeps_set_reeve (c _ _ _ h) h_reeve _
          · refine keeps_ite ?_ ?_
            · exact keeps_set_ws (c _ _ _ (c _ _ _ h)) h_ws _
            · refine keeps_ite ?_ ?_
              · exact keeps_set_ws (c _ _ _ h) h_ws _
              · refine keeps_ite ?_ ?_
                · exact keeps_set_ws (c _ _ _ h) h_ws _
                · refine keeps_ite ?_ ?_
                  · exact keeps_set_ws (c _ _ _ h) h_ws _
                  · refine keeps_ite ?_ ?_
                    · exact keeps_set_sv (c _ _ _ h) h_sv _
                    · refine keeps_ite ?_ ?_
                      · exact keeps_set_mkt (c _ _ _ (c _ _ _ h)) h_mkt _
                      · refine keeps_ite ?_ ?_
                        · exact c _ _ _ h
                        · refine keeps_ite ?_ ?_
                          · exact keeps_set_ewl (c _ _ _ h) h_ewl _
                          · refine keeps_ite ?_ ?_
                            · exact keeps_set_mem_cop (c _ _ _ h) h_mem h_cop _ _ (Memory.wf_fill t.ms.mem _ _)
                            · refine keeps_ite ?_ ?_
                              · exact keeps_set_crt (c _ _ _ h) h_crt _
                              · refine keeps_ite ?_ ?_
                                · exact keeps_set_stp (c _ _ _ h) h_stp _
                                · exact h

theorem keeps_pwrClear (h : Keeps l s t) (h_regs : Part.regs ∈ l) (d : Nat) (v : Word) :
    Keeps l s (t.pwrClear d v) := by
  unfold State.pwrClear
  repeat' (first
    | with_reducible assumption | intro _ | with_reducible apply keeps_ite | with_reducible apply keeps_w1c
)

theorem keeps_resetRefuse (h : Keeps l s t) (h_regs : Part.regs ∈ l) (cause : Nat) :
    Keeps l s (t.resetRefuse cause) := by
  unfold State.resetRefuse
  repeat' (first
    | with_reducible assumption | intro _ | with_reducible apply keeps_ite | with_reducible apply keeps_wr
)

theorem keeps_unitRefuse (h : Keeps l s t) (h_regs : Part.regs ∈ l) (cause : Nat) :
    Keeps l s (t.unitRefuse cause) := by
  unfold State.unitRefuse
  repeat' (first
    | with_reducible assumption | intro _ | with_reducible apply keeps_ite | with_reducible apply keeps_wr
)

theorem keeps_unitReset (h : Keeps l s t) (h_regs : Part.regs ∈ l) (v : Word) (kind : Nat) (field : Bool) (ok : Bool) (f : State → State) (h_f : ∀ u, Keeps l s u → Keeps l s (f u)) :
    Keeps l s (t.unitReset v kind field ok f) := by
  unfold State.unitReset
  repeat' (first
    | with_reducible assumption | intro _ | with_reducible apply keeps_ite | with_reducible apply h_f | with_reducible apply keeps_w1c
    | with_reducible apply keeps_unitRefuse | with_reducible apply keeps_wr | with_reducible apply keeps_wrWord
)

end Sys2Proof.Machine
end

