-- ==== Sys2Proof/Laws/KeepsDebug.lean ====
section
/-! SUPPORT. Laws/KeepsDebug.lean: which parts of the state each operation of Machine/Debug.lean may change, and that it keeps the
canonical forms. -/

namespace Sys2Proof.Machine

variable {l : List Part} {s t : State}

theorem keeps_setDbg (h : Keeps l s t) (h_dbg : Part.dbg ∈ l) (f : Debug → Debug) :
    Keeps l s (t.setDbg f) := by
  unfold State.setDbg
  repeat' (first
    | with_reducible assumption | intro _ | with_reducible apply keeps_ite | dsimp only | split | with_reducible apply keeps_set_dbg
)

theorem keeps_setTap (h : Keeps l s t) (h_dbg : Part.dbg ∈ l) (f : JtagTap → JtagTap) :
    Keeps l s (t.setTap f) := by
  unfold State.setTap
  repeat' (first
    | with_reducible assumption | intro _ | with_reducible apply keeps_ite | with_reducible apply keeps_setDbg
)

theorem keeps_showEvents (h : Keeps l s t) (h_regs : Part.regs ∈ l) (h_dbg : Part.dbg ∈ l) (l_1 : List (List Nat)) :
    Keeps l s (t.showEvents l_1) := by
  unfold State.showEvents
  repeat' (first
    | with_reducible assumption | intro _ | with_reducible apply keeps_ite | with_reducible apply keeps_wr
    | with_reducible apply keeps_setDbg)

theorem keeps_showFull (h : Keeps l s t) (h_regs : Part.regs ∈ l) :
    Keeps l s (t.showFull) := by
  unfold State.showFull
  repeat' (first
    | with_reducible assumption | intro _ | with_reducible apply keeps_ite | with_reducible apply keeps_wrB
)

end Sys2Proof.Machine
end

