-- ==== Sys2Proof/Laws/KeepsRegAccess.lean ====
section
/-! SUPPORT. Laws/KeepsRegAccess.lean: which parts of the state each operation of Machine/RegAccess.lean may change, and that it keeps the
canonical forms. -/

namespace Sys2Proof.Machine

variable {l : List Part} {s t : State}

theorem keeps_clearRc (h : Keeps l s t) (h_regs : Part.regs ∈ l) (a : Nat) :
    Keeps l s (t.clearRc a) := by
  unfold State.clearRc
  repeat' (first
    | with_reducible assumption | intro _ | with_reducible apply keeps_ite | with_reducible apply keeps_wr
    | with_reducible apply keeps_foldl | with_reducible apply keeps_foldl_snd | dsimp only | split)

theorem keeps_takeOnce (h : Keeps l s t) (h_regs : Part.regs ∈ l) (h_ans : Part.ans ∈ l) (h_hallIrq : Part.hallIrq ∈ l) (h_reeve : Part.reeve ∈ l)
    (h_ms : Part.ms ∈ l) (h_tally : Part.tally ∈ l) (h_crt : Part.crt ∈ l) (h_dbg : Part.dbg ∈ l) (a : Nat) (w : State)
    (e : t.takeOnce a = some (.next w)) : Keeps l s w := by
  unfold State.takeOnce at e
  dsimp only at e
  split at e
  · cases e
  · split_ifs at e
    · exact (keeps_execReeveSubmitResultTake h h_ans h_reeve _ _).keeps w (Option.some.inj e)
    · exact (keeps_execReeveReportTake h h_regs h_ans h_reeve _ _).keeps w (Option.some.inj e)
    · exact (keeps_execGranaryPoolTake h h_regs h_ans h_hallIrq h_ms h_tally h_dbg _).keeps w (Option.some.inj e)
    · exact (keeps_execCarterResultTake h h_regs h_ans h_crt _ _).keeps w (Option.some.inj e)
    · exact (keeps_execCarterResultTake h h_regs h_ans h_crt _ _).keeps w (Option.some.inj e)

theorem keeps_regReadOne (h : Keeps l s t) (h_regs : Part.regs ∈ l) (h_ans : Part.ans ∈ l) (h_hallIrq : Part.hallIrq ∈ l) (h_reeve : Part.reeve ∈ l)
    (h_ms : Part.ms ∈ l) (h_tally : Part.tally ∈ l) (h_crt : Part.crt ∈ l) (h_dbg : Part.dbg ∈ l) (a : Nat) (quiet : Bool) :
    Keeps l s (t.regReadOne a quiet).2 := by
  unfold State.regReadOne
  split
  · exact h
  · split
    · exact keeps_takeOnce h h_regs h_ans h_hallIrq h_reeve h_ms h_tally h_crt h_dbg a _ (by assumption)
    · exact keeps_clearRc h h_regs a

theorem keeps_regRead (h : Keeps l s t) (h_regs : Part.regs ∈ l) (h_ans : Part.ans ∈ l) (h_hallIrq : Part.hallIrq ∈ l) (h_reeve : Part.reeve ∈ l) (h_ms : Part.ms ∈ l) (h_tally : Part.tally ∈ l) (h_crt : Part.crt ∈ l) (h_dbg : Part.dbg ∈ l) (a : Nat) (n : Nat) (quiet : Bool) :
    Keeps l s (t.regRead a n quiet) := by
  unfold State.regRead
  repeat' (first
    | with_reducible assumption | intro _ | with_reducible apply keeps_ite | with_reducible apply keeps_reply
    | with_reducible apply keeps_refusedAns | with_reducible apply keeps_regReadOne | refine Keeps.snd_eq (by assumption) ?_ | dsimp only | split
)

end Sys2Proof.Machine
end

