-- ==== Sys2Proof/Laws/KeepsHost.lean ====
section
/-! SUPPORT. Laws/KeepsHost.lean: which parts of the state each operation of Machine/Host.lean may change, and that it keeps the
canonical forms. -/

namespace Sys2Proof.Machine

variable {l : List Part} {s t : State}

theorem keeps_dropHostIrq (h : Keeps l s t) (h_hostIrq : Part.hostIrq ∈ l) (i : Nat) :
    Keeps l s (t.dropHostIrq i) := by
  unfold State.dropHostIrq
  repeat' (first
    | with_reducible assumption | intro _ | with_reducible apply keeps_ite | dsimp only | split | with_reducible apply keeps_set_hostIrq
)

theorem keeps_setHost (h : Keeps l s t) (h_host : Part.host ∈ l) (h_1 : HostIf) :
    Keeps l s (t.setHost h_1) := by
  unfold State.setHost
  repeat' (first
    | with_reducible assumption | intro _ | with_reducible apply keeps_ite | dsimp only | split | with_reducible apply keeps_set_host
)

theorem keeps_dropRead (h : Keeps l s t) (h_host : Part.host ∈ l) (i : Nat) :
    Keeps l s (t.dropRead i) := by
  unfold State.dropRead
  repeat' (first
    | with_reducible assumption | intro _ | with_reducible apply keeps_ite | with_reducible apply keeps_setHost
)

theorem keeps_stopFn (h : Keeps l s t) (h_host : Part.host ∈ l) (fn : Nat) :
    Keeps l s (t.stopFn fn) := by
  unfold State.stopFn
  repeat' (first
    | with_reducible assumption | intro _ | with_reducible apply keeps_ite | with_reducible apply keeps_setHost
)

end Sys2Proof.Machine
end

