-- ==== Sys2Proof/Laws/KeepsRegister.lean ====
section
/-! SUPPORT. Laws/KeepsRegister.lean: which parts of the state each operation of Machine/Register.lean may change, and that it keeps the
canonical forms. -/

namespace Sys2Proof.Machine

variable {l : List Part} {s t : State}

theorem keeps_writeField (h : Keeps l s t) (h_regs : Part.regs ∈ l) (b : Nat) (v : Word) (f : FieldDef) :
    Keeps l s (t.writeField b v f) := by
  unfold State.writeField
  repeat' (first
    | with_reducible assumption | intro _ | with_reducible apply keeps_ite | with_reducible apply keeps_wr | with_reducible apply keeps_w1c
    | dsimp only | split)

theorem keeps_writeFields (h : Keeps l s t) (h_regs : Part.regs ∈ l) (d : RegDef) (b : Nat) (v : Word) :
    Keeps l s (t.writeFields d b v) := by
  unfold State.writeFields
  repeat' (first
    | with_reducible assumption | intro _ | with_reducible apply keeps_ite | with_reducible apply keeps_writeField
    | with_reducible apply keeps_foldl)

end Sys2Proof.Machine
end

