-- ==== Sys2Proof/Laws/KeepsHostBus.lean ====
section
/-! SUPPORT. Laws/KeepsHostBus.lean: which parts of the state each operation of Machine/HostBus.lean may change, and that it keeps the
canonical forms. -/

namespace Sys2Proof.Machine

variable {l : List Part} {s t : State}

theorem keeps_complete (h : Keeps l s t) (h_sent : Part.sent ∈ l) (fn : Nat) (st : CplStatus) (bytes : List Nat) (ep : Bool) :
    Keeps l s (t.complete fn st bytes ep) := by
  unfold State.complete
  repeat' (first
    | with_reducible assumption | intro _ | with_reducible apply keeps_ite | with_reducible apply keeps_send
)

theorem keeps_hostDrop (h : Keeps l s t) (h_regs : Part.regs ∈ l) :
    Keeps l s (t.hostDrop) := by
  unfold State.hostDrop
  repeat' (first
    | with_reducible assumption | intro _ | with_reducible apply keeps_ite | with_reducible apply keeps_inc
)

theorem keeps_jtagStart (h : Keeps l s t) (h_dbg : Part.dbg ∈ l) (write : Bool) (a : Nat) (v : Nat) :
    Keeps l s (t.jtagStart write a v) := by
  unfold State.jtagStart
  repeat' (first
    | with_reducible assumption | intro _ | with_reducible apply keeps_ite | with_reducible apply keeps_setTap
)

end Sys2Proof.Machine
end

