-- ==== Sys2Proof/Tests/Slice0.lean ====
section
/-! SUPPORT. Tests/Slice0.lean: ill-formed commands, which WellFormed refuses, and for every statement with hypotheses concrete
states and operands that meet them. Expected values come from the spec's rules, worked by hand. -/

namespace Sys2Proof.Tests
set_option Elab.async false
open Machine

/-- Reset with group 0 in state `st`, and what its group holds. -/
def atGroup (st : Nat) (x : LockGroup) : State := (State.reset.wr (R.LG_STATUS_STATE 0) st).setGroup 0 x

/-! ## Well-formed commands -/

/-- A read of one line. -/
def oneRead : PacketReq := { op := 0, vn := 0, lines := 1, tag := 7, mid := 0xB0 }

/-- OP 3 names no packet (R375). -/
def illFormedPacket : PacketReq := { oneRead with op := 3 }

def injects (q : PacketReq) : Bool := Instr.wf (.packetInject 0 q)

theorem test_wf_good : injects oneRead = true ∧ injects { oneRead with vn := 2, lines := 64, addr := 64 } = true ∧
    injects { oneRead with op := 4, vn := 1 } = true ∧ injects { oneRead with op := 8, vn := 3 } = true := by decide +kernel
theorem test_wf_tag : injects { oneRead with tag := 4096 } = false := by decide +kernel
theorem test_wf_op : injects { oneRead with op := 13, vn := 3 } = false ∧ injects illFormedPacket = false ∧ injects { oneRead with op := 7, vn := 3 } = false := by
  decide +kernel
theorem test_wf_lines : injects { oneRead with vn := 2, lines := 65 } = false ∧ injects { oneRead with vn := 2, lines := 0 } = false ∧
    injects { oneRead with lines := 2 } = false := by decide +kernel
theorem test_wf_atomic : injects { oneRead with op := 2, vn := 2 } = false := by decide +kernel
theorem test_wf_aligned : injects { oneRead with vn := 2, addr := 32 } = false := by decide +kernel
theorem test_wf_page : injects { oneRead with vn := 2, lines := 2, addr := cellarBase + 192 } = false ∧
    injects { oneRead with vn := 2, lines := 2, addr := cellarBase + 128 } = true := by decide +kernel
theorem test_wf_network : injects { oneRead with op := 5 } = false ∧ injects { oneRead with op := 9 } = false ∧ injects { oneRead with vn := 3 } = false := by
  decide +kernel

/-! ## The block as a whole -/

theorem test_witness_StepRunsFrontCommand :
    ({ State.reset with pending := [.steepleLatch, .jtagIdcode] } : State).pending = .steepleLatch :: [.jtagIdcode] ∧
    (State.reset.pending = [] ∧ State.reset.stp.slew = 0 ∧ step State.reset = .next State.reset.advance) :=
  ⟨rfl, rfl, rfl, rfl⟩

theorem test_witness_StepKeepsCanonicalForms : Claims.canonical State.reset ∧ step State.reset = .next State.reset.advance :=
  ⟨⟨by decide +kernel, by decide +kernel⟩, rfl⟩

/-- A request of one word of data that needs none is ill formed. -/
theorem test_witness_EveryWellFormedCommandCompletes :
    (Instr.steepleLatch).wf = true ∧ packetFormed illFormedPacket = false ∧ ∀ c ∈ State.reset.pending, c.wf = true := by
  refine ⟨rfl, by decide +kernel, fun c h => nomatch h⟩

theorem test_witness_CommandFrames : ∃ t, exec .jtagIdcode State.reset = .next t := ⟨_, rfl⟩

/-! ## The Steeple (02) -/


theorem test_witness_TickOfTimeAndHalfRangeOrder : ∃ s : State, s.stp.now = (1 * 1000000000 + 8) * 65536 + 5 ∧ s.tick = 250000002 :=
  ⟨State.reset.setStp { now := (1 * 1000000000 + 8) * 65536 + 5 }, by decide, by decide⟩

theorem test_witness_SteepleTimeCommands :
    ((R.STEEPLE_CTRL_STEP).of 0x80000000 = 1 ∧ State.reset.mayStep = true) ∧ (atGroup 1 {}).mayStep = false ∧
    (State.reset.stp.now = (0 * 1000000000 + 0) * 65536 + 0) ∧ (105 ∉ State.reset.stp.lost) := by
  refine ⟨⟨by decide, by decide⟩, by decide, by decide, by decide⟩

/-- Reset with the DPLL enabled in state `st` on source 1. -/
def atDpll (st good : Nat) : State :=
  ((State.reset.wr R.STEEPLE_CTRL_DPLL_EN 1).wr R.STEEPLE_STATUS_DPLL_STATE st |>.wr R.STEEPLE_STATUS_ACTIVE_SRC 1).setStp { good := good }

theorem test_witness_DpllStates :
    ((atDpll 1 7).bit R.STEEPLE_CTRL_DPLL_EN = true ∧ (atDpll 1 7).bit R.STEEPLE_CTRL_FORCE_HOLD = false ∧ (atDpll 1 7).stp.srcPhase = 0 ∧
      (atDpll 1 7).rd R.STEEPLE_STATUS_DPLL_STATE = 1 ∧ (atDpll 1 7).rd R.STEEPLE_STATUS_ACTIVE_SRC = 1 ∧ 7 ≤ (atDpll 1 7).stp.good) ∧
    (let s := (atDpll 2 0).wr R.STEEPLE_DPLL_CFG_AUTO_SWITCH 0
     s.rd R.STEEPLE_STATUS_DPLL_STATE = 2 ∧ s.bit R.STEEPLE_DPLL_CFG_AUTO_SWITCH = false) ∧
    (let s := ((atDpll 2 0).wr R.STEEPLE_DPLL_CFG_AUTO_SWITCH 1).wr R.STEEPLE_DPLL_SRC_PRIO0 2
     s.rd R.STEEPLE_STATUS_DPLL_STATE = 2 ∧ s.bit R.STEEPLE_DPLL_CFG_AUTO_SWITCH = true ∧
      s.prios.find? (fun p => ([2] : List (Fin 8)).any (fun v => v.val == p)) = some 2) ∧
    ((R.STEEPLE_CTRL_DPLL_EN).of 0xFFFFFFFF = 1 ∧ (R.STEEPLE_CTRL_FORCE_HOLD).of 0xFFFFFFFF = 1 ∧ (R.STEEPLE_CTRL_DPLL_EN).of 0 = 0) := by
  decide

theorem test_witness_LockGroupBoundaries :
    (let s := atGroup 1 { action := .start }
     s.rd (R.LG_STATUS_STATE 0) = 1 ∧ (s.group 0).action = .start ∧ s.reached (s.group 0).actionNs = true ∧
      s.earlierDone 3 (s.group 0).actionNs = true) ∧
    (let s := atGroup 2 { cur := -315964819001 }
     s.rd (R.LG_STATUS_STATE 0) = 2 ∧ s.reached (s.slotStart 0 ((s.group 0).cur + 1)) = true) ∧
    (let s := atGroup 3 { ceased := true, cur := -315964819008 }
     s.rd (R.LG_STATUS_STATE 0) = 3 ∧ (s.group 0).ceased = true ∧ s.reached (s.sweepNs 0 (s.group 0).cur) = true ∧
      s.earlierDone 3 (s.sweepNs 0 (s.group 0).cur) = true) ∧
    (let s := (atGroup 2 {}).wr (R.LG_STATUS_TDD_SWAP_PENDING 0) 1
     s.rd (R.LG_STATUS_TDD_SWAP_PENDING 0) = 1 ∧ s.reached (s.group 0).swapNs = true ∧ s.earlierDone 3 (s.group 0).swapNs = true) ∧
    (let s := atGroup 3 { action := .stop }
     s.lgSt 0 = 3 ∧ (s.group 0).action = .stop ∧ s.reached (s.group 0).actionNs = true ∧
      s.earlierDone 3 (s.group 0).actionNs = true ∧ (s.group 0).armed = []) ∧
    (let s := atGroup 3 { action := .stop, armed := [⟨0, 5, 0, 0, 0, 0, [], [], [], [], []⟩] }
     s.lgSt 0 = 3 ∧ (s.group 0).action = .stop ∧ s.reached (s.group 0).actionNs = true ∧
      s.earlierDone 3 (s.group 0).actionNs = true ∧ (s.group 0).armed ≠ []) := by
  refine ⟨?_, ?_, ?_, ?_, ?_, ?_⟩ <;> decide +kernel

/-- Reset with a group 0 that keeps the rules of R34. -/
def startable : State := State.reset.wr (R.LG_CFG_SWEEP_OFFSET 0) 1

theorem test_witness_LockGroupControl :
    (bitOf 1 0 = true ∧ bitOf 1 1 = false ∧ startable.actionFar 0 = false ∧ startable.lgSt 0 = 0 ∧ startable.cfgOk 0 = true ∧
      startable.bankOk 0 0 = true ∧ startable.bit (R.LG_CFG_PARISH 0) = false) ∧
    (let s := startable.wr (R.LG_CFG_SWEEP_OFFSET 0) 0
     s.lgSt 0 = 0 ∧ s.cfgOk 0 = false) ∧
    ((atGroup 2 {}).actionFar 0 = false ∧ (atGroup 2 {}).lgSt 0 = 2 ∧ (atGroup 2 {}).bit (R.LG_STATUS_TDD_SWAP_PENDING 0) = false ∧
      (atGroup 2 {}).bankOk 0 1 = true) ∧
    ((atGroup 1 {}).lgSt 0 = 1 ∧ ((atGroup 1 {}).group 0).armed = []) ∧
    (bitOf 2 1 = true ∧ bitOf 2 0 = false ∧ bitOf 4 2 = true ∧ (bitOf 4 0 && bitOf 4 1) = false) ∧
    (let s := ((atGroup 2 {}).wr (R.LG_CFG_TDD 0) 1).wr (R.LG_TDD_CFG_PERIOD_SLOTS 0 1) 7
     s.lgSt 0 = 2 ∧ s.bit (R.LG_STATUS_TDD_SWAP_PENDING 0) = false ∧ s.bankOk 0 (s.idleBank 0) = false) := by
  decide +kernel

/-- Reset with Bell 0 ready: WIDTH 1, START 1000 µs after the epoch. -/
def bellSet (mode : Nat) : State :=
  (((State.reset.wr (R.BELL_WIDTH 0) 1).wr (R.BELL_START 0) 250000).wr (R.BELL_PERIOD 0) 100).wr (R.BELL_CFG_MODE 0) mode

theorem test_witness_BellsOutputsAndCaptures :
    ((bellSet 1).rd (R.BELL_CFG_MODE (0 : Fin 64)) ≠ 0 ∧ (R.BELL_CFG_MODE 0).of 0xFFFFFFFF ≠ 0) ∧ (R.BELL_CFG_MODE 0).of 0 = 0 ∧
    (∃ v : Word, (bellSet 0).rd (R.BELL_CFG_MODE 0) = 0 ∧ (R.BELL_CFG_MODE 0).of v = 1 ∧ (bellSet 0).rd (R.BELL_WIDTH 0) ≠ 0 ∧
      65536000 ≤ (bellSet 0).bellStart 0 - ((bellSet 0).stp.now : Int) ∧
      (bellSet 0).bellStart 0 - ((bellSet 0).stp.now : Int) ≤ 268435456 * 262144) ∧
    (State.reset.rd (R.BELL_CFG_MODE 0) = 0 ∧ State.reset.rd (R.BELL_WIDTH 0) = 0) ∧
    (((bellSet 2).bell 0).high = false ∧ (bellSet 2).rd (R.BELL_CFG_MODE 0) = 2 ∧
      ((bellSet 2).bell 0).start + (((bellSet 2).bell 0).count : Int) * ((bellSet 2).rd (R.BELL_PERIOD 0) : Int) * 65536 ≤ ((bellSet 2).stp.now : Int) ∧
      (bellSet 2).earlierDone 5 0 = true) ∧
    (let s := (bellSet 2).setBell 0 { high := true }
     (s.bell 0).high = true ∧ (s.bell 0).ends ≤ (s.stp.now : Int)) ∧
    (let s := (State.reset.wr (R.PPS_OUT_CFG_ENABLE 0) 1).setStp { pps := Tab.set ⟨[]⟩ 0 { nextSec := some 0 } }
     (s.stp.pps.get 0).high = false ∧ s.bit (R.PPS_OUT_CFG_ENABLE 0) = true ∧ s.rd (R.PPS_OUT_COMP 0) = 0 ∧
      (s.stp.pps.get 0).nextSec = some (s.nowNs / 1000000000) ∧ s.earlierDone 5 (s.nowNs / 1000000000 * 1000000000) = true) ∧
    (State.reset.capSelects 17 true = true ∧ (State.reset.stp.caps.get 17).length < 16) ∧
    (let s := State.reset.setStp { caps := Tab.set ⟨[]⟩ 17 (List.replicate 16 ⟨1, 2, 3, false⟩) }
     s.capSelects 17 true = true ∧ 16 ≤ (s.stp.caps.get 17).length) ∧
    (let s := State.reset.setStp { caps := Tab.set ⟨[]⟩ 17 [⟨1, 2, 3, false⟩, ⟨4, 5, 6, false⟩] }
     s.stp.caps.get 17 = ⟨1, 2, 3, false⟩ :: ⟨4, 5, 6, false⟩ :: []) := by
  refine ⟨?_, ?_, ⟨1, ?_⟩, ?_, ?_, ?_, ?_, ?_, ?_, ?_⟩ <;> decide +kernel

/-- The header of a plan for group 0 without parts: commit at `tick`, slot `slot` of frame `sfn`. -/
def planHeader (tick sfn slot : Nat) : List PWord :=
  [⟨pair32 0x10000 tick, false⟩, ⟨pair32 (sfn * 65536 + slot) 7, false⟩] ++ List.replicate 6 ⟨0, false⟩

/-- The Granary bank 0 ON. -/
def banksOn : State := State.reset.wr (R.GRANARY_BANK_PWR_STATE 0) 0

/-- Group 0 runs, at slot 0 of Steeple time, and its plan header lies at Granary address 0. -/
def planReady : State :=
  ((atGroup 2 {}).wr (R.GRANARY_BANK_PWR_STATE 0) 0).writeWords 0 (planHeader 250000 660 2)

theorem test_witness_PlanArmCommitWithdraw :
    (let s := State.reset.wr (R.GRANARY_BANK_PWR_STATE 0) 1
     (s.granaryRead 0xE0 (bitsOf 0 6 20 * 64) 8).1 = none) ∧
    (let x := banksOn.granaryRead 0xE0 (bitsOf 0 6 20 * 64) 8
     x.1.isSome = true ∧ x.2.planTiming 0 0 0 0 = .error 1) ∧
    (let x := planReady.granaryRead 0xE0 (bitsOf 0 6 20 * 64) 8
     x.1 = some (planHeader 250000 660 2) ∧ (x.2.planTiming 0 250000 660 2).isOk = true ∧
      headerBad 0 ((List.range 16).map (fun i => (word32 (planHeader 250000 660 2) i).toNat)) = false ∧
      anyMark (planHeader 250000 660 2) = false) ∧
    (let s := atGroup 2 { armed := [⟨0, 5, 0, 0, 0, 0, [], [], [], [], []⟩] }
     s.reached 0 = true ∧ s.earlierDone 4 0 = true ∧ ((s.group 0).armed.find? (fun p => p.seq == (5 : Word).toNat)).isSome = true ∧
      (∀ p ∈ (s.group 0).armed, p.seq ≠ (6 : Word).toNat)) ∧
    (let s := atGroup 2 { armed := [⟨0, 5, 20000, 0, 0, 0, [], [], [], [], []⟩] }
     s.reached 20000 = false ∧ (s.stp.now : Int) + 655360000 ≤ 20000 * 65536) := by
  refine ⟨?_, ?_, ?_, ?_, ?_⟩ <;> decide +kernel

/-- Group 0 with the window of slot 3. -/
def windowed (swept : Bool) (mode : Nat) : State :=
  (atGroup 2 { windows := [{ slot := 3, wtag := 3, sweepNs := -5000, swept := swept }] }).wr (R.CAP_STATUS_LEVEL 0) mode

theorem test_witness_SlotSweepAndResidue :
    (let s := windowed false 0
     ((s.group 0).windows.find? (fun w => w.wtag == 3 && !w.swept)).isSome = true ∧ s.reached (-5000) = true ∧ s.earlierDone 2 (-5000) = true) ∧
    (let s := windowed true 0
     ((s.group 0).windows.find? (fun w => w.swept && s.reached (w.sweepNs + 4000))).isSome = true ∧ s.residue 0 3 = 0 ∧
      s.rd (R.LG_SWEEP_STATUS_RESIDUE 0) = 0 ∧ s.rd (R.LG_SWEEP_STATUS_RESIDUE_MASK 0) = 0) ∧
    ((R.LG_SWEEP_STATUS_RESIDUE 0).of 0xFFFFFFFF = 1 ∧ (R.LG_SWEEP_STATUS_RESIDUE 0).of 0 = 0) := by
  refine ⟨?_, ?_, ?_⟩ <;> decide +kernel

/-! ## Horty cores and the Quern (03, 05) -/

/-- Reset with core 0 as given and the sheaf word `w` at address 0 of its active instruction half. -/
def coreAt (c : Core) (w : Word) : State :=
  (State.reset.setCore 0 c).setMem (State.reset.ms.mem.put (imemBase 0 0 0) ⟨w.zeroExtend 64, false⟩)

/-- The hypotheses of `oneSheaf`, as a test. -/
theorem oneSheaf_coreAt (c : Core) (w : Word) (h1 : c.run = .running) (h2 : c.dbgHalt = false) (h3 : c.dbgStep = false)
    (h4 : c.acc = []) (h5 : c.errs = []) (h6 : (coreAt c w).bpMatch 0 ((coreAt c w).core 0).pc = false)
    (h7 : (coreAt c w).fetchSheaf 0 ((coreAt c w).core 0).pc 0 4 = (.ok ([⟨w, false, .reserved⟩], true), coreAt c w))
    (h8 : syPred w = 0 ∧ syPneg w = false) : Claims.oneSheaf (coreAt c w) 0 w := by
  have e : (coreAt c w).core 0 = c := Tab.get_set_same ..
  exact ⟨by rw [e, h1], by rw [e, h2, h3]; simp, by rw [e, h4, h5]; simp, h6, h7, h8⟩

theorem test_witness_SheafOfOneSyllable :
    (Claims.oneSheaf (coreAt { run := .running } 0x80210005) (0 : Fin 161) 0x80210005 ∧ syMajor 0x80210005 = 0x01) ∧
    (Claims.oneSheaf (coreAt { run := .running } 0x83000002) (0 : Fin 161) 0x83000002 ∧ syMajor 0x83000002 = 0x18) := by
  refine ⟨⟨oneSheaf_coreAt _ _ rfl rfl rfl rfl rfl ?_ ?_ ?_, ?_⟩, ⟨oneSheaf_coreAt _ _ rfl rfl rfl rfl rfl ?_ ?_ ?_, ?_⟩⟩ <;>
    decide +kernel

theorem test_witness_SheafTraps :
    (Claims.oneSheaf (coreAt { run := .running } 0x83800000) (0 : Fin 161) 0x83800000 ∧ syMajor 0x83800000 = 0x1C) ∧
    (Claims.oneSheaf (coreAt { run := .running, ctrl := Tab.set ⟨[]⟩ 0xC04 0x80000000 } 0x83800000) (0 : Fin 161) 0x83800000) ∧
    (Claims.oneSheaf (coreAt { run := .running } 0x85E00000) (0 : Fin 161) 0x85E00000 ∧ syMajor 0x85E00000 = 0x2F) ∧
    ((coreAt { run := .running } 0x83800000).core 0).level = .keeper ∧ ((coreAt { run := .running } 0x83800000).core 0).busy .keeper = false ∧
    ((coreAt { run := .running, ctrl := Tab.set ⟨[]⟩ 0xC04 0x80000000 } 0x83800000).core 0).busy .keeper = true := by
  refine ⟨⟨oneSheaf_coreAt _ _ rfl rfl rfl rfl rfl ?_ ?_ ?_, ?_⟩, oneSheaf_coreAt _ _ rfl rfl rfl rfl rfl ?_ ?_ ?_,
    ⟨oneSheaf_coreAt _ _ rfl rfl rfl rfl rfl ?_ ?_ ?_, ?_⟩, ?_, ?_, ?_⟩ <;> decide +kernel

theorem test_witness_CoreInterrupts :
    (let s := State.reset.setCore 0 { run := .running, ie := true, irqs := [5] }
     (s.core 0).run = .running ∧ (s.core 0).acc = [] ∧ (s.core 0).mayTake 5 = true ∧
      (∀ m ∈ irqOrder, m ∈ (s.core 0).irqs → (s.core 0).mayTake m = true → m = 5)) ∧
    (let s := State.reset.setCore 0 { run := .running, tce := true }
     (s.core 0).tce = true ∧ passed s.tick ((s.core 0).cr 0x407 % 2 ^ 32) = true ∧ (s.core 0).run ≠ .held) := by
  refine ⟨?_, ?_⟩ <;> decide +kernel

theorem test_witness_LoadAndStoreAnswers :
    (let s := State.reset.setCore 0 { acc := [{ kind := .load, reg := 1 }] }
     (s.core 0).acc = [{ kind := .load, reg := 1 }] ∧ (s.core 0).errs = []) ∧
    (State.reset.setCore 0 { acc := [{ kind := .store }] }).core 0 = { acc := [{ kind := .store }] } := by
  refine ⟨?_, ?_⟩ <;> decide +kernel

theorem test_witness_InstructionHalves :
    (∃ st, (State.reset.wr (R.PWR_DOM_STATE 0) 0).target 0x10848000 = .inr st ∧ regionOf st = .imem 0 0 ∧
      State.reset.imemRefused 0 0 (st / 0x8000 % 2) = false) ∧
    (∃ st, (State.reset.wr (R.PWR_DOM_STATE 0) 0).target 0x10840000 = .inr st ∧ regionOf st = .imem 0 0 ∧
      State.reset.imemRefused 0 0 (st / 0x8000 % 2) = true) ∧
    (∀ k, (State.reset.ms.gleaners.get k).borrowed = false) ∧
    (bitOf 1 0 = true ∧ bitOf 0 0 = false ∧ leadTicks State.reset.tick (State.reset.rd (R.HAMLET_IMEM_TICK_FLIP_TICK 0 0)) ≤ maxLead) ∧
    (let s := State.reset.wr (R.HAMLET_IMEM_TICK_FLIP_TICK 0 0) 0x20000000
     tickBefore s.tick (s.rd (R.HAMLET_IMEM_TICK_FLIP_TICK 0 0)) = true ∧ maxLead < leadTicks s.tick (s.rd (R.HAMLET_IMEM_TICK_FLIP_TICK 0 0))) ∧
    (let s := State.reset.wr (R.HAMLET_IMEM_CTRL_ARM 0 0) 1
     s.flipWaits 0 0 = true ∧ (s.rcore 0 0).cur = none ∧ (s.rcore 0 0).held = [] ∧ s.rd (R.HAMLET_IMEM_STATUS_ACTIVE 0 0) ≤ 1) ∧
    ((State.reset.setRcore 0 0 { cur := some 3 }).rcore 0 0).cur ≠ none := by
  refine ⟨⟨0x10848000, ?_⟩, ⟨0x10840000, ?_⟩, fun k => rfl, ?_, ?_, ?_, ?_⟩ <;> decide +kernel

theorem test_witness_QuernJobs :
    (let s := State.reset.setQuern 0 { jobs := [⟨0, 0, 1, 0, 0, 0, [], none, 0, false, false, false, 0, 0⟩] }
     (s.querns.get 0).jobs.length = 1) ∧
    (let s := State.reset.setQuern 0 { jobs := [⟨0, 0, 1, 0, 0, 0, [], some [⟨7, false⟩], 0, false, false, false, 0, 0⟩] }
     ((s.querns.get 0).jobs.map (·.result)) = [some [⟨7, false⟩]]) := by
  refine ⟨?_, ?_⟩ <;> decide +kernel

/-! ## The Reeve (06, 07) -/

/-- Reset with the Reeve and core 0 of hamlet 0 enabled, item `i` in slot 5, and logical core 0 as given. -/
def reeveAt (i : Item) (r : ReeveCore) : State :=
  let s := ((State.reset.wr R.REEVE_CTRL_ENABLE 1).wr R.REEVE_HAMLET_EN_EN 1).wr (R.REEVE_CORE_EN_EN 0) 1
  { s with reeve := { s.reeve with items := Tab.set ⟨[]⟩ 5 (some i), cores := Tab.set ⟨[]⟩ 0 r } }

/-- A core item for hamlet 0, core 0, with a deadline ahead of tick 0, or at it. -/
def coreItem (late : Bool) (st : ItemState) : Item :=
  { d := { hamletMask := 1, unitMask := 1, cls := 3, hard := true, preemptor := true, deadline := if late then 0 else 1000, deps := 2 },
    state := st, name := looseName 5 0, count := 2 }

theorem test_witness_ReeveDispatchAndPreemption :
    (let s := reeveAt (coreItem false .ready) { st := .idle }
     s.nextFor 0 0 = .dispatch 5 ∧ s.item 5 = some (coreItem false .ready) ∧ s.late (coreItem false .ready) = false) ∧
    (let s := reeveAt (coreItem true .ready) { st := .idle }
     s.nextFor 0 0 = .dispatch 5 ∧ s.late (coreItem true .ready) = true) ∧
    (let i := { coreItem true .running with place := some (.core 0 0) }
     (reeveAt i {}).item 5 = some i ∧ i.d.hard = true ∧ (reeveAt i {}).late i = true ∧ i.outcome = none) ∧
    (let s0 := reeveAt (coreItem false .ready) { st := .running, cur := some 6 }
     let s := { s0 with reeve := { s0.reeve with items := s0.reeve.items.set 6 (some { state := .running, place := some (.core 0 0) }) } }
     s.bit R.REEVE_CTRL_ENABLE = true ∧ (s.victimOk (coreItem false .ready) 0 0).isSome = true ∧
      (∀ h < 16, ∀ c < 8, (s.rcore h c).st = .idle → s.eligible h c (coreItem false .ready).d = false) ∧
      s.reeve.cores.any (fun _ r => decide (r.reserved = some 5)) = false) ∧
    (let s := reeveAt {} { st := .preempting, reserved := some 7 }
     (s.rcore 0 0).reserved = some 7 ∧ (s.rcore 0 0).taken = false ∧ s.item 7 = none ∧ (s.rcore 0 0).st = .preempting) ∧
    (reeveAt (coreItem false .preempted) { st := .idle, held := [5] }).nextFor 0 0 = .resume 5 ∧
    (reeveAt { coreItem false .preempted with outcome := some .lapsed } { st := .idle, held := [5] }).nextFor 0 0 = .reenter 5 := by
  refine ⟨?_, ?_, ?_, ?_, ?_, ?_, ?_⟩ <;> decide +kernel

theorem test_witness_ReeveItemEnds :
    (let s := (reeveAt (coreItem false .running) { st := .running, cur := some 5 }).setCore 0 { run := .doneSent 0 }
     (s.core (s.coreAt 0 0)).run = .doneSent 0 ∧ (s.rcore 0 0).st = .running ∧ (s.rcore 0 0).cur = some 5 ∧ s.item 5 = some (coreItem false .running)) ∧
    (let s := (reeveAt (coreItem false .running) { st := .preempting, cur := some 5 }).setCore 0 { run := .doneSent 2 }
     (s.core (s.coreAt 0 0)).run = .doneSent 2 ∧ (s.rcore 0 0).st = .preempting) ∧
    (let s := (reeveAt { coreItem false .running with killAt := some 0 } { st := .running, cur := some 5 }).setStp { now := 2000 * 65536 }
     (s.item 5).map (·.killAt) = some (some 0) ∧ 0 + 2000 * 65536 ≤ s.stp.now ∧ (s.rcore 0 0).st ≠ .lapseOverrun) ∧
    (let s := reeveAt {} { st := .lapseOverrun, ovrDone := true }
     bitOf 0x10000000 28 = true ∧ (s.rcore 0 0).st = .lapseOverrun ∧ (s.rcore 0 0).ovrDone = true) := by
  refine ⟨?_, ?_, ?_, ?_⟩ <;> decide +kernel

/-- The descriptor of a core item with DEPS 1, deadline 1000 and hamlet 0, core 0. -/
def looseDesc : List PWord := [⟨pair32 1 1000, false⟩, ⟨pair32 0x10001 0, false⟩] ++ List.replicate 6 ⟨0, false⟩

theorem test_witness_ReeveSubmitDecrementAbort :
    ((State.reset.setPort 0 { coming := some 1 }).reeve.ports.get 0).coming ≠ none ∧
    (State.reset.freeSlots ≠ 0 ∧ (State.reset.reeve.ports.get 0).coming = none ∧ (State.reset.looseCheck (bitsOf 0 6 20 * 64)).1 = .error 2) ∧
    (let s := (reeveAt {} {}).writeWords 0 looseDesc
     ∃ d u, s.looseCheck (bitsOf 0 6 20 * 64) = (.ok d, u) ∧ d.deps ≠ 0 ∧ d.evWait = false) ∧
    ((State.reset.setPort 0 { placed := some 1 }).reeve.ports.get 0).placed = some 1 ∧
    (let s := reeveAt (coreItem false .waiting) {}
     s.named (bitsOf (BitVec.ofNat 32 (looseName 5 0)) 0 24) = .item 5 ∧ s.item 5 = some (coreItem false .waiting) ∧
      s.late (coreItem false .waiting) = false ∧ 2 ≤ (coreItem false .waiting).count ∧ (coreItem false .waiting).outcome = none ∧
      s.named (bitsOf 0 0 24) = .nothing) ∧
    (let s0 := reeveAt (coreItem false .waiting) {}
     let s := { s0 with reeve := { s0.reeve with tokens := [⟨looseName 5 0, true, 7⟩] } }
     s.reeve.tokens[0]? = some ⟨looseName 5 0, true, 7⟩ ∧ s.named (looseName 5 0) = .item 5) := by
  refine ⟨?_, ?_, ⟨_, _, rfl, ?_⟩, ?_, ?_, ?_⟩ <;> decide +kernel

theorem test_witness_ReeveSubmitDecrementAbort_full :
    ({ State.reset with reeve := { items := ⟨(List.range 4096).map (fun k => (k, some {}))⟩ } } : State).freeSlots = 0 := by
  simp [State.freeSlots]

theorem test_witness_ReeveReportsAndFlags :
    (let s := (reeveAt {} {}).setQueue 0 { waiting := [5], unread := [9], taken := some 8 }
     (s.reeve.queues.get 0).waiting = [5] ∧ (s.reeve.queues.get 0).unread = [9] ∧ (s.item 5).map (·.released) = some false) ∧
    (let s := State.reset.setQueue 0 { taken := some 8 }
     (s.reeve.queues.get 0).unread = [] ∧ (s.reeve.queues.get 0).taken = some 8) ∧
    ((State.reset.wr R.REEVE_CTRL_COMPAT 1).bit R.REEVE_CTRL_COMPAT = true ∧ State.reset.reeve.items.entries = [] ∧
      State.reset.bit R.REEVE_CTRL_COMPAT = false ∧ bitOf 1 0 = true) := by
  refine ⟨?_, ?_, ?_⟩ <;> decide +kernel

/-! ## The workshops: Kiln, Wheel and Mill (08, 09) -/

/-- Reset with job `j` first on engine 0 of workshop `w`, for a live item of target `w + 1` in slot 5, in a window of group 0. -/
def jobAt (w : Nat) (late : Bool) (j : WsJob) : State :=
  let s := State.reset.setMem (State.reset.ms.mem.put 0x100 ⟨0, true⟩)
  let i : Item := { d := { target := w + 1, deadline := if late then 0 else 1000 }, window := some (0, 3, 0), state := .running }
  let t : State := { s with reeve := { s.reeve with items := Tab.set ⟨[]⟩ 5 (some i) } }
  let u : State := { t with ws := { t.ws with jobs := Tab.set ⟨[]⟩ (jobKey w 0) [j] } }
  u.setGroup 0 { windows := [⟨3, 3, -5, false⟩] }

/-- The words of a Kiln job with IN_ADDR 0x100 and OUT_ADDR 0x200. -/
def kilnWords (op x a w2 w3 : Nat) : List Nat := [op * 2 ^ 28 + 2 ^ 24 + x, a, w2, w3, 0, 0, 0, 0, 1, 2, 0, 0, 0, 0, 0, 0]

/-- Small jobs of OP 1 to 7. -/
def smallJobs : List (Nat × List Nat) :=
  [(1, kilnWords 1 (0x800000 + 8 * 256) 24 (100 * 1024 + 2 * 16 + 1) 0x10000), (2, kilnWords 2 0x800000 24 (100 * 1024 + 2 * 16 + 1) 0x10000),
   (3, kilnWords 3 (0x800000 + 10 * 256) (64 * 65536 + 12) 0 0), (4, kilnWords 4 (0x800000 + 10 * 256) (64 * 65536 + 12) 0 0),
   (5, kilnWords 5 (8 * 256) 24 (100 * 1024 + 2 * 16 + 1) 0x10000), (6, kilnWords 6 0 24 (100 * 1024 + 2 * 16 + 1) 0x10000),
   (7, [7 * 2 ^ 28 + 2 ^ 24, 16, 0, 0, 0, 0, 0, 0, 4, 0, 0, 0, 0, 0, 0, 0])]

/-- What KilnOperations asks of a job. -/
def kilnReady (p : Nat × List Nat) : Bool :=
  let j : WsJob := { slot := 5, words := p.2 }
  let s := jobAt 0 false j
  s.job 0 0 0 == some j && j.live && !j.waiting && !s.jobLate j && jobOp j.words == p.1 && (parseKiln j.words).isSome &&
    (s.kilnUnit { j with started := true }).1.decided.isNone && (jobAt 0 true j).jobLate j

theorem test_witness_KilnOperations_decoders : ∀ p ∈ [smallJobs.getD 0 default, smallJobs.getD 2 default, smallJobs.getD 4 default], kilnReady p = true := by
  decide +kernel

theorem test_witness_KilnOperations_encoders : ∀ p ∈ [smallJobs.getD 1 default, smallJobs.getD 3 default, smallJobs.getD 5 default], kilnReady p = true := by
  decide +kernel

theorem test_witness_KilnOperations :
    kilnReady (smallJobs.getD 6 default) = true ∧
    (let s := jobAt 0 false { slot := 5, words := (smallJobs.getD 6 default).2 }
     parseKiln (smallJobs.getD 6 default).2 = some (.crc ⟨polyOf 0, 16, 0⟩) ∧
      ((s.dmaRead (wsMid 0) (jobIn (smallJobs.getD 6 default).2) (ceilDiv 16 8)).1.map anyBad = some false)) := by
  refine ⟨?_, ?_⟩ <;> decide +kernel

def wheelWords (op : Nat) : List Nat := [op * 2 ^ 28 + 2 ^ 24 + 2 ^ 21 + 2 ^ 18 + 128, 128, if op = 3 then 8 else 0, 0, if op = 3 then 32 else 0, 0, 0, 0, 1, 16, 0, 0, 0, 0, 0, 0]
def millWords (op : Nat) : List Nat :=
  [op * 2 ^ 28 + 2 ^ 24 + 2 ^ 21 + 2 ^ 18 + 1, 2 ^ 16, if op = 2 then 2 * 2 ^ 16 else 0, 0, 48, if op = 2 then 64 else 0, 0, 0, 1, 16, 0, 0, 0, 0, 0, 0]

theorem test_witness_WheelAndMillOperations :
    (∀ op ∈ [1, 2, 3], let j : WsJob := { slot := 5, words := wheelWords op }
      (jobAt 1 false j).job 1 0 0 = some j ∧ j.live = true ∧ (jobAt 1 false j).jobLate j = false ∧ nbits (wword j.words 0) 28 4 = op ∧
      (parseWheel j.words).isSome = true ∧ ((jobAt 1 false j).wheelUnit { j with started := true }).1.decided = none) ∧
    (∀ op ∈ [1, 2, 3], let j : WsJob := { slot := 5, words := millWords op, table := [2 ^ 24 + 1, 0, 0, if op = 1 then 0x3F800000 else 0] }
      (jobAt 2 false j).job 2 0 0 = some j ∧ (jobAt 2 false j).jobLate j = false ∧ nbits (wword j.words 0) 28 4 = op ∧
      (parseMill j.words).map (fun m => (parseGroup m j.table 0).isSome) = some true ∧
      ((jobAt 2 false j).millUnit { j with started := true }).1.decided = none) := by
  refine ⟨?_, ?_⟩ <;> decide +kernel

/-- The Wheel is enabled and an item for it is READY in slot 5. -/
def handable : State :=
  let s := ((State.reset.wr R.REEVE_CTRL_ENABLE 1).wr (wsEnable 1) 1).wr (engPwr 1 0) 0
  { s with reeve := { s.reeve with items := Tab.set ⟨[]⟩ 5 (some { d := { target := 2, unitMask := 1, deadline := 1000 }, state := .ready }) } }

theorem test_witness_WorkshopHandoverAndEnds :
    (handable.bit (wsEnable 1) = true ∧ handable.bit R.REEVE_CTRL_ENABLE = true ∧
      handable.topItem (fun _ i => decide (i.state = .ready ∧ i.d.target = 1 + 1) && (handable.engineFor 1 i.d).isSome) = some 5) ∧
    (let s0 := jobAt 0 false {}
     let s := { s0 with reeve := { s0.reeve with wsEnds := [⟨5, .ok, false⟩] } }
     s.reeve.wsEnds[0]? = some ⟨5, .ok, false⟩ ∧ (s.item 5).isSome = true) ∧
    (let j : WsJob := { slot := 5, decided := some .lapsed, waiting := true }
     (jobAt 0 false j).job 0 0 0 = some j ∧ j.live = false ∧ (jobAt 2 false j).job (wmOf true) 0 0 = some j ∧ (jobAt 0 false j).mustWait j = false) := by
  refine ⟨?_, ?_, ?_⟩ <;> decide +kernel

theorem test_witness_WorkshopJobsDecided :
    (∀ w < 3, let j : WsJob := { slot := 5, started := true }
      let s := jobAt w true j
      let t := { s with reeve := { s.reeve with wsAborts := [5] } }
      t.job w 0 0 = some j ∧ j.live = true ∧ t.jobLate j = true ∧ t.sweepReached 0 3 = true ∧ t.jobWindow j = some (0, 3) ∧
        (t.item 5).map (·.d.target) = some (w + 1) ∧ 5 ∈ t.reeve.wsAborts) := by
  decide +kernel

/-- A HARQ area of one 1 MiB unit, and handle 3 as given. -/
def harqAt (x : Handle) : State :=
  (((State.reset.wr R.KILN_HARQ_AREA_SIZE 1).wr R.KILN_HARQ_ARG_LEN 2).setHandle 3 x)

theorem test_witness_KilnHarqHandles :
    (let s := harqAt {}
     bitsOf 0x40000003 30 2 = 1 ∧ bitsOf 0x40000003 0 14 = 3 ∧ (s.handle 3).st = 0 ∧ s.rd R.KILN_HARQ_ARG_LEN ≠ 0 ∧ s.rd R.KILN_HARQ_AREA_SIZE ≠ 0 ∧
      s.rd R.KILN_HARQ_ARG_BASE + s.rd R.KILN_HARQ_ARG_LEN ≤ s.rd R.KILN_HARQ_AREA_SIZE * 256 ∧
      s.ws.handles.any (fun _ h => decide (h.st ≠ 0)) = false) ∧
    (let s := harqAt ⟨1, 0, 2⟩
     bitsOf 0x80000003 30 2 = 2 ∧ bitsOf 0x80000003 0 14 = 3 ∧ (s.handle 3).st = 1 ∧ s.named? 3 = false ∧
      s.ws.handles.any (fun _ h => decide (h.st ≠ 0)) = true) ∧
    (let ws := kilnWords 1 (0x840000 + 8 * 256) 24 (100 * 1024 + 2 * 16 + 1) 0x10000
     let s0 := harqAt ⟨1, 0, 2⟩
     let s := { s0 with ws := { s0.ws with jobs := Tab.set ⟨[]⟩ 0 [{ words := ws.set 4 3 }] } }
     (s.handle 3).st = 1 ∧ s.named? 3 = true) := by
  refine ⟨?_, ?_, ?_⟩ <;> decide +kernel

/-! ## The Sieve (10) -/

/-- Reset with Sieve channel 0 in state `st`, 100 samples per frame, LATE 16, bursts of 16, ring of 64, and as given beyond its registers. -/
def sieveAt (st : Nat) (h : SieveCh) : State :=
  (((((((((State.reset.wr R.SIEVE_CTRL_ENABLE 1).wr (R.SIEVE_CH_STATUS_STATE 0) st).wr (R.SIEVE_CH_RATE_SPF 0) 19200).wr (R.SIEVE_CH_BURST_LATE 0) 16).wr
    (R.SIEVE_CH_BURST_BURST_U 0) 1).wr (R.SIEVE_CH_RING_LEN_LEN 0) 64).wr (R.SIEVE_CH_RING_BASE_ADDR 0) 16).wr (R.LG_STATUS_STATE 0) 2).setGroup 0 {}).setChan 0 h

/-- A burst of 16 samples from index `k`. -/
def burstAt (k : Nat) (started : Bool) : SvBurst := ⟨k, List.replicate 16 (1, 2, false), 0, started, false⟩

theorem test_witness_SieveChannelLifeAndSettings_start :
    ((sieveAt 0 {}).chanSt 0 = 0 ∧ (sieveAt 0 {}).sieveCfgErr 0 = 0 ∧ State.reset.sieveCfgErr 0 ≠ 0 ∧ State.reset.chanSt 0 = 0) ∧
    (let s := sieveAt 1 { startNs := -10000000000000 }
     s.chanSt 0 = 1 ∧ s.rd (R.LG_STATUS_STATE (s.chanGroup 0)) = 2 ∧ 
      (s.setStp { s.stp with now := 315964819020000000 * 65536 }).reached
       (s.frameAtOrAfter (s.chanGroup 0) (max ((s.chan 0).startNs + 10000) (s.group (s.chanGroup 0)).runNs) false) = true) ∧
    (sieveAt 2 {}).chanSt 0 = 2 ∧
    (let s := sieveAt 3 {}
     s.chanSt 0 = 3 ∧ s.reached (s.chan 0).stopNs = true ∧ (s.chan 0).bursts = []) := by
  refine ⟨?_, ?_, ?_, ?_⟩ <;> decide +kernel

theorem test_witness_SieveChannelLifeAndSettings_mode :
    (let v : Word := 0x34000000
     let c : Fin 1024 := 0
     bitOf v 29 = true ∧ 4 ≤ (R.SIEVE_CH_CTRL_SWAP_FADE_LOG2 c).of v ∧ (R.SIEVE_CH_CTRL_SWAP_FADE_LOG2 c).of v ≤ 12 ∧
      (R.SIEVE_CH_CTRL_SWAP_BANK c).of v ≠ ((sieveAt 2 {}).chan c).active ∧ ((sieveAt 2 {}).chan c).fade = none ∧
      (R.SIEVE_CH_CTRL_SWAP_FADE_LOG2 c).of 0x20000000 < 4) ∧
    ((sieveAt 2 { fade := some ⟨1, 4, 0, some 16⟩ }).chan 0).fade = some ⟨1, 4, 0, some (2 ^ 4)⟩ ∧
    ((sieveAt 2 { guard := true }).bit (R.SIEVE_CH_GUARD_TEST 0) = false ∧ ((sieveAt 2 { guard := true }).chan 0).guard = true ∧
      (State.reset.wr (R.SIEVE_CH_GUARD_TEST 0) 1).bit (R.SIEVE_CH_GUARD_TEST 0) = true) ∧
    (let s := sieveAt 2 { guard := true, leave := true }
     (s.chan 0).guard = true ∧ (s.chan 0).leave = true ∧ s.bit (R.SIEVE_CH_GUARD_TEST 0) = false ∧ (s.chan 0).next % (s.svCfg 0).p5 = 0) ∧
    ((sieveAt 2 {}).chan 0).active = 0 ∧
    (let s := sieveAt 2 { dpend := some 0 }
     (s.chan 0).dpend = some 0 ∧ (s.svCfg 0).atOrAfter (((s.chan 0).next + (s.svCfg 0).p5 - 1) / (s.svCfg 0).p5 * (s.svCfg 0).p5) 0 = true) ∧
    (let s := ((sieveAt 2 {}).wr (R.SIEVE_CH_MODE_BELL_EN 0) 1).setBell 0 { edge := some 5 }
     (s.bell (s.rd (R.SIEVE_CH_MODE_BELL_SEL 0))).edge = some 5 ∧ s.bit (R.SIEVE_CH_MODE_BELL_EN 0) = true ∧ (s.chan 0).mark ≠ some 5) := by
  refine ⟨?_, ?_, ?_, ?_, ?_, ?_, ?_⟩ <;> decide +kernel

/-- Channel 0 RUNNING in a group whose frame 0 begins at instant 0, at frame 0. -/
def sieveDown (h : SieveCh) : State := sieveAt 2 { h with f0 := epochNs }

theorem test_witness_SieveInputAndBursts_input :
    (State.reset.svDown 0 = false ∧ (sieveDown {}).svDown 0 = true ∧ (sieveDown {}).rd (R.SIEVE_CH_MODE_PORT_KIND 0) = 0 ∧
      (sieveDown {}).rd (R.SIEVE_CH_MODE_PORT 0) = 0 ∧ Claims.overdue (sieveDown {}) 0 ≤ ((sieveDown {}).chan 0).next) ∧
    (let s := (sieveDown {}).setStp { (sieveDown {}).stp with now := epochNs.toNat * 65536 }
     s.svIndex 0 0 0 = (s.chan 0).next ∧ ((s.chan 0).next : Int) < s.svIndex 0 0 5 ∧ (s.chan 0).inGap = false ∧
      Claims.overdue s 0 ≤ (s.chan 0).next) := by
  refine ⟨?_, ?_⟩ <;> decide +kernel

theorem test_witness_SieveInputAndBursts_bursts :
    (let s := sieveDown { bursts := [burstAt 0 false] }
     s.waitingBurst 0 = some 0 ∧ (s.chan 0).bursts[0]? = some (burstAt 0 false) ∧ passed s.tick (s.burstDeadline 0 (burstAt 0 false)) = false ∧
      s.reached (s.sweepNs (s.chanGroup 0) (s.svSlot 0 0)) = false ∧
      passed ((s.setStp { s.stp with now := 262144 * (s.burstDeadline 0 (burstAt 0 false)) }).tick) (s.burstDeadline 0 (burstAt 0 false)) = true) ∧
    (let s := (sieveDown { bursts := [burstAt 0 true] }).wr (R.SIEVE_CH_NOTIFY_EN 0) 1
     (s.chan 0).bursts.findIdx? (·.started) = some 0 ∧ (s.chan 0).bursts[0]? = some (burstAt 0 true) ∧ s.bit (R.SIEVE_CH_NOTIFY_EN 0) = true ∧
      s.rd (R.SIEVE_CH_NOTIFY_DIV_M1 0) = 0 ∧ (s.chan 0).missed = []) ∧
    (let s0 := sieveDown { bursts := [burstAt 0 false] }
     let s := s0.setGroup 0 { windows := [⟨0, slotTag (s0.svSlot 0 0), -5, false⟩] }
     s.reached (-5) = true ∧ s.sv.chans.keys = [0] ∧ s.chanGroup 0 = 0 ∧ s.svDown 0 = true ∧ (s.chan 0).bursts = [burstAt 0 false] ∧
      slotTag (s.svSlot 0 0) < 16 ∧ (s.stp.groups.get 0).windows = [⟨0, slotTag (s.svSlot 0 0), -5, false⟩]) ∧
    (let s := (sieveDown {}).wr (R.SIEVE_CH_MODE_DIR 0) 1
     s.svUp 0 = true ∧ s.upLate 0 = false ∧
      State.upLate (s.setStp { s.stp with now := 262144 * (tickOfNs ((s.svCfg 0).indexNs 0)) }) 0 = true) := by
  refine ⟨?_, ?_, ?_, ?_⟩ <;> decide +kernel

/-! ## Protected memory, pools, the error log, Harrow and Gleaner (11, 12) -/

theorem test_witness_EccCorrectsOneErrorDetectsTwo :
    eccData (flipBit 5 63) (checkByte 5) = ⟨5, false⟩ ∧ eccOutcome (flipBit (flipBit 5 0) 63) (checkByte 5) = .uncorrectable := by
  decide +kernel

theorem test_witness_MemoryRequests :
    (State.reset.target 0x1000 = .inr 0x1000 ∧ regionOf 0x1000 = .granary 0 ∧ (regionOf 0x1000).ids = some (3, 0)) ∧
    (∀ k, (State.reset.ms.gleaners.get k).borrowed = false) ∧
    (eccOutcome (State.reset.ms.mem.rawData 0x1000) (State.reset.ms.mem.rawCheck 0x1000) = .clean) ∧
    (let s := State.reset.setMem (State.reset.ms.mem.putRaw 0x1000 3 0)
     s.target 0x1000 = .inr 0x1000 ∧ eccOutcome (s.ms.mem.rawData 0x1000) (s.ms.mem.rawCheck 0x1000) = .uncorrectable) ∧
    ((State.reset.wr (R.GRANARY_BANK_PWR_STATE 0) 2).target 0x1000 = .inl ⟨.domainClosed, 4, []⟩) := by
  refine ⟨?_, fun k => rfl, ?_, ?_, ?_⟩ <;> decide +kernel

/-- Bank 3 in power state `st` with a move under way. -/
def bankAt (st : Nat) (m : BankMove) : State := State.reset.bankMove 3 st m

theorem test_witness_GranaryBankPower :
    (∃ v, (R.GRANARY_BANK_PWR_REQ_VALID 3).of v = 1 ∧ (R.GRANARY_BANK_PWR_REFUSED 3).of v = 0 ∧ (R.GRANARY_BANK_PWR_REQ 3).of v = 2) ∧
    ((bankAt 0 .none).rd (R.GRANARY_BANK_PWR_STATE 3) = 0 ∧ (bankAt 0 .none).poolOverlaps 3 = false) ∧
    (3 ≤ (bankAt 4 .toOnKept).rd (R.GRANARY_BANK_PWR_STATE 3)) ∧
    ((bankAt 3 .toRetention).ms.moves.get 3 = .toRetention ∧ (bankAt 3 .toOff).ms.moves.get 3 = .toOff) ∧
    (bankAt 5 .toOnFilled).rd (R.GRANARY_BANK_PWR_STATE 3) = 5 := by
  refine ⟨⟨BitVec.ofNat 32 (2 * 2 ^ (R.GRANARY_BANK_PWR_REQ 3).lo + 2 ^ (R.GRANARY_BANK_PWR_REQ_VALID 3).lo), ?_⟩, ?_, ?_, ?_, ?_⟩ <;>
    decide +kernel

/-- Pool 0 with two buffers, enabled or not. -/
def poolAt (enabled : Nat) (x : Pool) : State :=
  ((State.reset.wr (R.GRANARY_POOL_COUNT_COUNT 0) 2).wr (R.GRANARY_POOL_STATUS_ENABLED 0) enabled).setPool 0 x

theorem test_witness_BufferPools :
    (∃ v, (R.GRANARY_POOL_CFG_ENABLE 0).of v = 1 ∧ (poolAt 0 {}).bit (R.GRANARY_POOL_STATUS_ENABLED 0) = false ∧
      ((poolAt 0 {}).wrWord v [R.GRANARY_POOL_CFG_WINDOWED 0, R.GRANARY_POOL_CFG_BUF_UNITS_M1 0]).poolCause 0 = 0) ∧
    (State.reset.bit (R.GRANARY_POOL_STATUS_ENABLED 0) = false ∧ State.reset.rd (R.GRANARY_POOL_COUNT_COUNT 0) = 0) ∧
    ((R.GRANARY_POOL_CFG_ENABLE 0).of 0 = 0 ∧ (poolAt 1 {}).bit (R.GRANARY_POOL_STATUS_ENABLED 0) = true ∧ ((poolAt 1 {}).pool 0).held = []) ∧
    (let s := poolAt 1 { free := [1], held := [⟨0, none⟩] }
     (s.pool 0).held ≠ [] ∧ s.bit (R.GRANARY_POOL_STATUS_FAULT 0) = false ∧ (s.pool 0).free = [1] ∧ s.releaseOk 0 0 = true ∧
      s.releaseOk 0 1 = false) ∧
    (let s := ((poolAt 1 { free := [1], held := [⟨0, some (0, 3)⟩] }).wr (R.GRANARY_POOL_CFG_WINDOWED 0) 1).setGroup 0 { windows := [⟨3, 3, -5, false⟩] }
     s.windowSwept 0 3 = true ∧ s.ms.pools.keys = [0] ∧ s.bit (R.GRANARY_POOL_CFG_WINDOWED 0) = true ∧
      ((s.pool 0).held.map (·.index)).Nodup) := by
  refine ⟨⟨BitVec.ofNat 32 (2 ^ (R.GRANARY_POOL_CFG_ENABLE 0).lo), ?_⟩, ?_, ?_, ?_, ?_⟩ <;> decide +kernel

/-- Injection is permitted and the command names the word at Granary address 0x1000. -/
def injectAt : State := (State.reset.wr R.STRONG_DBG_STATUS_PERM 8).wr R.ECC_INJECT_ADDR_LO_ADDR 0x200

theorem test_witness_ErrorLogAndInjection :
    R.ECCLOG_CTRL_FLUSH.of 0xFFFFFFFF = 1 ∧ (State.reset.wr R.STRONG_OTP_STATE_LIFECYCLE 1).wlOpen = false ∧ injectAt.wlOpen = true ∧
    (R.ECC_INJECT_CTRL_GO.of 0xFFFFFFFF = 1 ∧ R.ECC_INJECT_CTRL_DATA_FLIP_A.of 0xFFFFFFFF = R.ECC_INJECT_CTRL_DATA_FLIP_B.of 0xFFFFFFFF) ∧
    injectAt.injectable (injectAt.rd R.ECC_INJECT_ADDR_HI_ADDR * 2 ^ 32 + injectAt.rd R.ECC_INJECT_ADDR_LO_ADDR * 8) = true ∧
    (regionOf (injectAt.storeAddr (injectAt.rd R.ECC_INJECT_ADDR_HI_ADDR * 2 ^ 32 + injectAt.rd R.ECC_INJECT_ADDR_LO_ADDR * 8))).ids = some (3, 0) ∧
    (let s := injectAt.wr R.ECC_INJECT_ADDR_HI_ADDR 0x2
     s.injectable (s.rd R.ECC_INJECT_ADDR_HI_ADDR * 2 ^ 32 + s.rd R.ECC_INJECT_ADDR_LO_ADDR * 8) = false) := by
  decide +kernel

theorem test_witness_HarrowAndGleaner :
    (bitOf 0x80010000 31 = true ∧ State.reset.harrowCause 0x80010000 = 0 ∧ bitsOf 0x80010000 28 2 = 0) ∧
    State.reset.harrowCause 0x80000000 = 4 ∧
    (let s := (State.reset.wr R.HARROW_STATUS_STATE 1)
     s.rd R.HARROW_STATUS_STATE = 1 ∧ s.rd R.HARROW_STATUS_RESULT = 0 ∧ s.ms.harrow.target = 0 ∧ s.ms.harrow.preserve = false) ∧
    (State.reset.wr R.GLEANER_CTRL_EN 8).gleanDue 3 0 = true ∧
    (let s := State.reset.setGleaner (gleanKey 3 0) { borrowed := true }
     (s.ms.gleaners.get (gleanKey 3 0)).borrowed = true ∧ (s.ms.gleaners.get (gleanKey 3 0)).wrote = false) := by
  decide +kernel

/-! ## The Commons (13) -/

/-- Reset with entry 0 of the table of NI 0 as given. -/
def routeAt (valid closed : Bool) : State := (State.reset.wrB (R.COMMONS_NI_ROUTE_A_VALID 0 0) valid).wrB (R.COMMONS_NI_ROUTE_A_CLOSED 0 0) closed

/-- A read of one line at address 0 by NI 0. -/
def readReq (deadline : Option Nat) : PacketReq := { op := 0, vn := 0, lines := 1, tag := 7, mid := 0xB0, deadline := deadline }

/-- Packet 0: a read, or an answer to it. -/
def packetAt (op : Nat) (deadline : Option Nat) (place : PktAt) : Packet :=
  { id := 0, op := op, vn := if op = 6 then 1 else 0, src := 0, dest := 0, tag := 7, mid := 0xB0, addr := 0, lines := 1, epoch := 0, base := 4, inj := 0,
    deadline := deadline, window := none, status := 0, cause := 0, heading := 0, codes := [], place := place }

/-- Packet 0 is on its way, and its request outstanding where `out`. -/
def netAt (op : Nat) (deadline : Option Nat) (place : PktAt) (out : Bool) : State :=
  State.reset.setNet (fun c => { c with count := 1, flight := [packetAt op deadline place], outs := if out then [⟨0, 7, 0, 0, none⟩] else [] })

theorem test_witness_CommonsRoutesPortsAndBarriers_routes :
    (niPresent 0 = true ∧ State.reset.bit R.COMMONS_STATUS_ARMED3 = false ∧ State.reset.net.staged = [] ∧
      State.reset.routeFault 0 0 (routeOf (0x80000000 : Word).toNat (State.reset.route 0 0).codes) = none ∧
      State.reset.routeFault 0 4 (routeOf (0x80000000 : Word).toNat (State.reset.route 0 4).codes) = some 4) ∧
    (let s := State.reset.setNet (fun c => { c with staged := [⟨0, 0, 2 ^ 31, 0⟩] })
     s.net.staged = [⟨0, 0, 2 ^ 31, 0⟩] ∧ s.routeFault 0 0 (routeOf (2 ^ 31) (0 : Word).toNat) = none ∧ s.epochBusy = false ∧
      (s.wr (R.COMMONS_EPOCH_LIVE 1) 1).epochBusy = true) := by
  refine ⟨?_, ?_⟩ <;> decide +kernel

theorem test_witness_CommonsRoutesPortsAndBarriers_ports :
    (let r : Fin 64 := 0
     ((State.reset.setPortSt r 4 5).portSt r 4 = 5 ∧ State.reset.portSt r 4 = 0 ∧ (State.reset.setPortSt r 4 4).portSt r 4 = 4) ∧
     (let s := State.reset.setPortSt r 4 3
      s.portSt r 4 = 3 ∧ s.net.ejected = [] ∧ s.net.outs = [] ∧ s.net.waiting r 0 = [] ∧ s.net.flight = []) ∧
     (State.reset.portSt r 1 = 0 ∧ State.reset.rd (R.COMMONS_RTR_PORT_STATUS_USE_COUNT r 1) = 0 ∧
      (State.reset.wr (R.COMMONS_RTR_PORT_STATUS_USE_COUNT r 1) 3).rd (R.COMMONS_RTR_PORT_STATUS_USE_COUNT r 1) ≠ 0) ∧
     (let s := State.reset.setPortSt r 1 2
      s.portSt r 1 = 2 ∧ s.rd R.COMMONS_STATUS_EPOCH = s.net.disableE.get (8 * 0 + 1) ∧ (∀ i < 4, s.rd (R.COMMONS_EPOCH_LIVE i) = 0))) ∧
    ((0 : Nat) ∉ State.reset.net.arrivals.get 0 ∧
     (let s := (State.reset.wr (R.COMMONS_BAR_MASK 0 0) 1).setNet (fun c => { c with arrivals := c.arrivals.set 0 [0] })
      0 ∈ s.net.arrivals.get 0 ∧ s.barMask 0 ≠ [] ∧ (∀ n ∈ s.barMask 0, n ∈ s.net.arrivals.get 0) ∧
      (s.wr (R.COMMONS_BAR_CFG_IRQ_EN 0) 1).bit (R.COMMONS_BAR_CFG_IRQ_EN 0) = true) ∧ State.reset.bit R.TRACE_CFG_EN = false) := by
  refine ⟨?_, ?_⟩ <;> decide +kernel

theorem test_witness_CommonsPacketsAndDeadPorts_inject :
    packetFormed { readReq none with lines := 2 } = false ∧
    (packetFormed (readReq none) = true ∧ niPresent 0 = true ∧ State.reset.destNi 0 0xB0 = some 0 ∧ (State.reset.route 0 0).valid = false) ∧
    (((routeAt true true).route 0 0).valid = true ∧ ((routeAt true true).route 0 0).closed = true ∧ (routeAt true true).destNi 0 0xB0 = some 0) ∧
    (let s := routeAt true false
     packetFormed (readReq (some 0)) = true ∧ s.destNi 0 0xB0 = some 0 ∧ (s.route 0 0).valid = true ∧ (s.route 0 0).closed = false ∧ passed s.tick 0 = true ∧
      (0, 0, 0) ∉ s.net.holds ∧ s.rd (outFld 0 0) < slotCap 0 ∧ s.net.outs = [] ∧ s.net.used (.input 0 4) 0 = 0 ∧ s.portMute 0 4 = false) := by
  refine ⟨?_, ?_, ?_, ?_⟩ <;> decide +kernel

theorem test_witness_CommonsPacketsAndDeadPorts_travel :
    (let s := netAt 0 (some 0) (.input 0 4) true
     s.net.packet 0 = some (packetAt 0 (some 0) (.input 0 4)) ∧ passed s.tick 0 = true ∧ (packetAt 0 (some 0) (.input 0 4)).isReq = true ∧ 0 < s.net.count) ∧
    (let s := netAt 0 none (.input 0 4) true
     let p := packetAt 0 none (.input 0 4)
     s.net.packet 0 = some p ∧ s.portSt 0 (p.out 4).1 = 0 ∧ bufAfter 0 (p.out 4).1 s.stp.now = some (.port 0 0 0) ∧
      s.net.fits (.port 0 0 0) p = true ∧ s.granted 0 4 (p.out 4).1 p = true) ∧
    (let s := netAt 0 none (.port 0 0 0) true
     let p := packetAt 0 none (.port 0 0 0)
     s.net.packet 0 = some p ∧ p.isReq = true ∧ p.toParish = false ∧ s.stoolShut p = false) ∧
    (let s := netAt 6 none (.port 0 0 0) false
     let p := packetAt 6 none (.port 0 0 0)
     s.net.packet 0 = some p ∧ p.isAns = true ∧ s.net.outs = [] ∧
      (netAt 6 none (.port 0 0 0) true).net.outs.find? (fun o => o.src == p.dest && o.tag == p.tag) = some ⟨0, 7, 0, 0, none⟩) ∧
    (let s0 := State.reset.setNet (fun c => { c with ejected := [⟨packetAt 0 none (.port 0 0 0), 0⟩] })
     let s := (s0.setStp { s0.stp with now := fourUs }).wr R.COMMONS_CTRL_IRQ_DEAD 1
     s.portSt 0 4 = 0 ∧ s.net.ejected = [⟨packetAt 0 none (.port 0 0 0), 0⟩] ∧ (0 : Nat) + fourUs ≤ s.stp.now ∧ s.bit R.COMMONS_CTRL_IRQ_DEAD = true) := by
  refine ⟨?_, ?_, ?_, ?_, ?_⟩ <;> decide +kernel

/-! ## The Tally (14) -/

/-- Reset with the Granary's first bank ON, and the snapshot in state `st`. -/
def tallyAt (st : Nat) (x : Tally) : State := { State.reset.wr R.TALLY_SNAP_STATUS_STATE st with tally := x }

theorem test_witness_TallySnapshotsPeeksAndFaults :
    (bitOf 0x80000000 31 = true ∧ State.reset.snapCause (bitOf 0x80000000 30) = 1 ∧
      ((State.reset.wr R.TALLY_SNAP_TICK 1000).wr (R.GRANARY_BANK_PWR_STATE 0) 0).snapCause (bitOf 0x80000000 30) = 0) ∧
    (let s := (State.reset.wr R.EWL_PARISH_IN_PARISH 1).wr R.EWL_PARISH_MEMBER 2
     s.bit R.EWL_PARISH_IN_PARISH = true ∧ s.rd R.EWL_PARISH_MEMBER = 2 ∧ s.rd R.TALLY_SNAP_STATUS_STATE = 0 ∧ tickBefore s.tick 9 = true) ∧
    ((tallyAt 1 {}).rd R.TALLY_SNAP_STATUS_STATE = 1 ∧ passed (tallyAt 1 {}).tick (tallyAt 1 {}).tally.capTick = true ∧
      passed (tallyAt 1 { capTick := 5 }).tick 5 = false) ∧
    (let s := (tallyAt 2 { snap := [⟨0, 3, 2, {}, 0⟩] }).wr R.TALLY_CTRL_IRQ_SNAP 1
     s.rd R.TALLY_SNAP_STATUS_STATE = 2 ∧ s.tally.remote = none ∧ (s.writeRecords (64 * s.tally.capAddr) s.snapRecords).2.1 = none ∧
      s.bit R.TALLY_CTRL_IRQ_SNAP = true) ∧
    (tallyAt 2 { remote := some 64 }).tally.remote = some 64 ∧
    (let s := (tallyAt 2 { snap := [] }).wr (R.GRANARY_BANK_PWR_STATE 0) 2
     ((s.writeRecords (64 * s.tally.capAddr) s.snapRecords).2.1).isSome = true) ∧
    (tallyAt 0 { peek := some (3, 0) }).tally.peek = some (3, 0) ∧ slicePresent 0x300 39 = true ∧
    ((tallyAt 0 {}).tally.flags.get 0x300).unreconciled = false := by
  refine ⟨?_, ?_, ?_, ?_, ?_, ?_, ?_⟩ <;> decide +kernel

/-! ## The Carters (15) -/

/-- Reset with the Granary Carter enabled, and its channel 0 in state `st` and as given. -/
def carterAt (st : Nat) (x : CarterCh) : State :=
  ((State.reset.wr (carterFld 0 R.CARTER_CTRL_ENABLE) 1).wr (chFld 0 R.CARTER_CH_STATE_STATE) st).setCarter 0 x

/-- A list of lock group 0, window tag 3, whose sweep instant is `t`. -/
def listAt (t : Int) : CarterPlan := ⟨false, 0x40, 0, 3, t⟩

/-- A descriptor that copies 16 bytes from 0x100 to 0x200, with the flags `w0`. -/
def copyDesc (w0 : Nat) : List Nat := [w0, 16, 0x100, 0x200, 0, 0, 0, 2 ^ 31]

theorem test_witness_CarterRuns :
    (bitOf 0x80000040 31 = true ∧ bitOf 0x80000040 29 = false ∧ (carterAt 0 {}).startRefused 0 0x80000040 = false ∧
      (carterAt 1 {}).startRefused 0 0x80000040 = true ∧ bitOf 0xA0000000 29 = true) ∧
    (let s := carterAt 0 { plan := some (listAt 5) }
     s.startRefused 0 0xA0000000 = false ∧ (s.carter 0).plan = some (listAt 5) ∧ s.reached (listAt 5).sweepNs = false) ∧
    (let s := carterAt 1 {}
     s.carterSt 0 = 1 ∧ (s.carter 0).final = none ∧ (s.carter 0).halt = none ∧ (s.carter 0).ending = none ∧ (s.carter 0).desc = none) ∧
    ((carterAt 1 { desc := some { addr := 0, words := [], good := true } }).carter 0).desc = some { addr := 0, words := [], good := true } ∧
    (let s := carterAt 1 { win := some (listAt 0) }
     s.carterSt 0 ≠ 0 ∧ (s.carter 0).win = some (listAt 0) ∧ s.reached (listAt 0).sweepNs = true ∧
      ((carterAt 0 { plan := some (listAt 0) }).carter 0).plan = some (listAt 0)) ∧
    (let s := (carterAt 1 { halt := some (4, true), final := some (0, false), seq := 3, anyBad := true }).wr (chFld 0 R.CARTER_CH_CFG_IRQ_EN) 1
     (s.carter 0).halt = some (4, true) ∧ (s.carter 0).final = some (0, false) ∧ (s.carter 0).desc = none ∧
      s.bit (chFld 0 R.CARTER_CH_CFG_IRQ_EN) = true ∧ s.rd (chFld 0 R.CARTER_CH_CFG_DEST) = 0) ∧
    (((carterAt 0 { placed := some 7 }).carter 0).placed = some 7 ∧ ((carterAt 0 { taken := some 7 }).carter 0).taken = some 7 ∧
      ((carterAt 0 { taken := some 7 }).carter 0).placed = none) := by
  refine ⟨?_, ?_, ?_, ?_, ?_, ?_, ?_⟩ <;> decide +kernel

/-- Channel 0 has fetched nothing yet, and its descriptor lies at 0x40. -/
def fetchAt (w0 : Nat) (bad : Bool) : State :=
  let d := copyDesc w0
  (carterAt 1 { fetch := some (false, 0x40) }).writeWords 0x40
    [⟨pair32 (d.getD 0 0) (d.getD 1 0), bad⟩, ⟨pair32 (d.getD 2 0) (d.getD 3 0), false⟩, ⟨pair32 (d.getD 4 0) (d.getD 5 0), false⟩, ⟨pair32 (d.getD 6 0) (d.getD 7 0), false⟩]

/-- Channel 0 works on the copy, with bursts `out` outstanding and `row` rows issued. -/
def descAt (w0 row : Nat) (out : List (Nat × Nat × Nat)) : State :=
  carterAt 1 { desc := some { addr := 0x40, words := copyDesc w0, good := true, row := row, out := out }, win := some (listAt 0) }

theorem test_witness_CarterDescriptors :
    (let s := fetchAt 0 false
     (s.carter 0).fetch = some (false, 0x40) ∧ descAddr 0 (false, 0x40) = some 0x40 ∧
      (let r := ((s.wrB (chFld 0 R.CARTER_CH_CUR_SPACE) false).wr (chFld 0 R.CARTER_CH_CUR_ADDR) (0x40 / 32)).dmaRead (carterMid 0) 0x40 32
       r.1.map (fun l => (anyBad l, CarterDesc.bad { addr := 0x40, words := le32 8 (byteVals l), good := true } true)) = some (false, false))) ∧
    (let r := (((fetchAt (2 ^ 29) false).wrB (chFld 0 R.CARTER_CH_CUR_SPACE) false).wr (chFld 0 R.CARTER_CH_CUR_ADDR) (0x40 / 32)).dmaRead (carterMid 0) 0x40 32
     r.1.map (fun l => (anyBad l, CarterDesc.bad { addr := 0x40, words := le32 8 (byteVals l), good := true } true)) = some (false, true)) ∧
    (let r := (((fetchAt 0 true).wrB (chFld 0 R.CARTER_CH_CUR_SPACE) false).wr (chFld 0 R.CARTER_CH_CUR_ADDR) (0x40 / 32)).dmaRead (carterMid 0) 0x40 32
     r.1.map anyBad = some true) ∧
    (let s := descAt (2 ^ 27) 0 []
     let d : CarterDesc := { addr := 0x40, words := copyDesc (2 ^ 27), good := true }
     (s.carter 0).desc = some d ∧ s.carterNext 0 = some 0 ∧ d.more = true ∧ (s.carter 0).lapsed s d = true ∧
      ((carterAt 1 { desc := some d }).carter 0).lapsed (carterAt 1 { desc := some { d with words := copyDesc 0 } }) { d with words := copyDesc 0 } = false) ∧
    (let s := descAt 0 1 [(0x100, 0x200, 16)]
     let d : CarterDesc := { addr := 0x40, words := copyDesc 0, good := true, row := 1, out := [(0x100, 0x200, 16)] }
     (s.carter 0).desc = some d ∧ d.out[0]? = some (0x100, 0x200, 16) ∧ d.decided = none ∧ inDevice (s.ownAddr 0x200) = true ∧
      (let x := s.burstSource 0 { d with out := [] } 0x100 16 []
       x.1.isSome = true ∧ (x.2.dmaWrite (carterMid 0) (s.ownAddr 0x200) (x.1.getD [])).1 = true)) ∧
    (let s := carterAt 1 { desc := some { addr := 0x40, words := copyDesc (2 ^ 31 + 2 ^ 30), good := true, row := 1, moved := 16 } }
     let d : CarterDesc := { addr := 0x40, words := copyDesc (2 ^ 31 + 2 ^ 30), good := true, row := 1, moved := 16 }
     (s.carter 0).desc = some d ∧ d.out = [] ∧ d.more = false ∧ nbit (d.w 0) 30 = true ∧ nbit (d.w 0) 31 = true ∧ d.badNext true = false ∧ d.last = true ∧
      (s.carter 0).ending = none ∧ (s.dmaWrite (carterMid 0) (d.addr + 0x10) (clean [0, 0x80 + d.status * 8])).1 = true ∧
      s.rd (chFld 0 R.CARTER_CH_STATE_DESC_COUNT) < s.rd (chFld 0 R.CARTER_CH_CFG_LIMIT) ∧ CarterDesc.last { d with words := [0, 0, 0, 0, 0, 0, 0, 0] } = false) := by
  refine ⟨?_, ?_, ?_, ?_, ?_, ?_⟩ <;> decide +kernel

/-! ## Lanes and Ewenual Link (16) -/

/-- Reset with lane 0 given to Ewenual link 0, which is in state `st`; lane 0 as given beyond its registers. -/
def linkAt (st : Nat) (x : LaneRx) : State :=
  ((((State.reset.wr (R.LANE_CFG_USE 0) 2).wr (R.EWL_CFG_EN 0) (if st = 0 then 0 else 1)).wr (R.EWL_STATUS_STATE 0) st).setLane 0 x)

theorem test_witness_LanesAndLinkStates_lanes :
    (State.reset.rd (R.LANE_CFG_USE 0) = 0 ∧ (linkAt 0 {}).rd (R.LANE_CFG_USE 0) ≠ 0 ∧ bitsOf 5 0 4 ≠ (linkAt 0 {}).rd (R.QUAD_CFG_RATE 0) ∧
      bitsOf 0x80000000 30 2 ≠ State.reset.rd (R.LANE_CFG_USE 0)) ∧
    ((linkAt 0 {}).bit (R.EWL_CFG_EN 0) = false ∧ bitOf 0x80000000 31 = true ∧ ((linkAt 0 {}).ewlCfg 0 0x80000000).lanesOwned 0 = true ∧
      (State.reset.ewlCfg 0 0x80000000).lanesOwned 0 = false ∧ (linkAt 1 {}).bit (R.EWL_CFG_EN 0) = true) ∧
    ((linkAt 0 {}).laneLink 0 = some 0 ∧ 64 ≤ ((linkAt 0 { run := 64 }).laneRx 0).run ∧ (linkAt 0 { run := 64 }).bit (R.LANE_STATUS_BLOCK_LOCK 0) = false) ∧
    (let s := (linkAt 3 { hist := List.replicate 16 true }).wr (R.LANE_STATUS_BLOCK_LOCK 0) 1
     s.bit (R.LANE_STATUS_BLOCK_LOCK 0) = true ∧ 16 ≤ ((s.laneRx 0).hist.filter id).length ∧ s.laneLink 0 = some 0 ∧ 0 ∈ s.linkLanes 0 ∧ s.ewlSt 0 = 3) ∧
    (let s := linkAt 1 { seen := true, since := 16383 }
     (0x4B : DWord).toNat % 256 = 0x4B ∧ s.ewlSt 0 ≠ 0 ∧ s.bit (R.LANE_STATUS_MARKER_LOCK 0) = false ∧ (s.laneRx 0).seen = true ∧
      (s.laneRx 0).since = 16383 ∧ (s.laneRx 0).lane = dbits 0x4B 8 3) ∧
    (let s := (linkAt 1 { missed := 4 }).wr (R.LANE_STATUS_MARKER_LOCK 0) 1
     s.bit (R.LANE_STATUS_MARKER_LOCK 0) = true ∧ 4 ≤ (s.laneRx 0).missed) := by
  refine ⟨?_, ?_, ?_, ?_, ?_, ?_⟩ <;> decide +kernel

theorem test_witness_LanesAndLinkStates_links :
    (((linkAt 1 {}).setElink 0 { down := true }).elink 0).down = true ∧
    (let s := (linkAt 1 {}).setStp { (linkAt 1 {}).stp with now := 10000000 * 65536 }
     s.ewlSt 0 = 1 ∧ (s.elink 0).from_ + 10000000 * 65536 ≤ s.stp.now) ∧
    ((linkAt 1 {}).rd (R.EWL_CFG_LANES_M1 0) = 0 ∧ (linkAt 1 {}).bit (R.EWL_CFG_TIME_EN 0) = false ∧
      (linkAt 1 {}).rd (R.LANE_CFG_TX_PAT ((linkAt 1 {}).rd (R.EWL_CFG_FIRST_LANE 0))) = 0 ∧ 2 ≤ (linkAt 2 {}).ewlSt 0) ∧
    (let s := (linkAt 0 { prun := 63 }).wr (R.LANE_CFG_RX_PAT 0) 1
     s.rd (R.LANE_CFG_RX_PAT 0) ≠ 0 ∧ s.bit (R.LANE_STATUS_PRBS_LOCK 0) = false ∧ (s.laneRx 0).prun = 63) ∧
    ((State.reset.wr (R.LANE_MARGIN_CTRL_START 0) 1).bit (R.LANE_MARGIN_CTRL_START 0) = true ∧ (linkAt 0 {}).rd (R.LANE_CFG_USE 0) ≠ 1 ∧
      (State.reset.wr (R.LANE_RECAL_BUSY 0) 1).bit (R.LANE_RECAL_BUSY 0) = true) := by
  refine ⟨?_, ?_, ?_, ?_, ?_⟩ <;> decide +kernel

/-- A head flit without data blocks, with CRC16 right or not. -/
def flitAt (ok : Bool) : EwlFlit :=
  let f : EwlFlit := { vn := 0, ft := 0, mark := 0, bef := false, be := 0, data := [], crc := 0 }
  { f with crc := if ok then flitCrc f else flitCrc f + 1 }

theorem test_witness_EwenualTransport :
    (State.reset.ewlUp 0 = false ∧ (linkAt 3 {}).ewlUp 0 = true ∧ flitCrc (flitAt false) ≠ (flitAt false).crc ∧ flitCrc (flitAt true) = (flitAt true).crc) ∧
    (∀ vn < 4, (linkAt 3 {}).ewl.tx.get (4 * 0 + vn) = []) ∧
    (let f : EwlFwd := ⟨packetAt 0 none (.port 0 0 0), 2, 0, 0, false⟩
     let s := State.reset.setStp { State.reset.stp with now := ewlLimit }
     let t : State := { s with ewl := { s.ewl with fwd := [f] } }
     t.ewl.fwd[0]? = some f ∧ f.tick + ewlLimit ≤ t.stp.now ∧ f.pkt.dest < 256 ∧ t.ewl.lastAns.get 2 = none ∧ State.reset.stp.now < f.tick + ewlLimit) ∧
    (let s := ((linkAt 3 {}).wr (R.EWL_CFG_TIME_EN 0) 1).setElink 0 { t3 := some (0, 5), rcv := some (0, 9), sent := [(0, 1)] }
     (0x87 : DWord).toNat % 256 = 0x87 ∧ (0x187 : DWord).toNat % 256 = 0x87 ∧ s.ewlUp 0 = true ∧ s.bit (R.EWL_CFG_TIME_EN 0) = true ∧
      dbits 0x187 8 1 = 1 ∧ dbits 0x87 8 1 = 0 ∧ (s.elink 0).t2 = none ∧ (s.elink 0).sent.find? (fun x => x.1 == dbits 0x187 9 8) = some (0, 1)) ∧
    (let s := ((linkAt 3 {}).wr (R.EWL_CFG_MODE 0) 1).wr (R.EWL_STREAM_CFG_EN 0) 1
     s.rd (R.EWL_CFG_MODE 0) = 1 ∧ s.bit (R.EWL_STREAM_CFG_EN (dbits 0 8 6)) = true ∧ s.bit (R.EWL_STREAM_CFG_DIR (dbits 0 8 6)) = false ∧
      s.rd (R.EWL_STREAM_CFG_LINK (dbits 0 8 6)) = 0 ∧ (linkAt 3 {}).bit (R.EWL_STREAM_CFG_EN 0) = false ∧
      (s.wr (R.EWL_STREAM_CFG_DIR 0) 1).bit (R.EWL_STREAM_CFG_DIR 0) = true) ∧
    (let o : SvOut := ⟨1, 0, 0, 3, 4, [⟨1, 2, false⟩]⟩
     [o].find? (fun o => o.kind == 1 && o.port == 0) = some o) := by
  refine ⟨?_, ?_, ?_, ?_, ?_, ?_⟩ <;> decide +kernel

/-! ## The Market (17) -/

/-- Reset with the switch enabled and port 0 in state `st`. -/
def portAt (st : Nat) (x : Market) : State := { (State.reset.wr R.MARKET_CTRL_ENABLE 1).wr (R.MARKET_PORT_STATUS_STATE 0) st with mkt := x }

theorem test_witness_MarketPortsAndReception_ports :
    (let s := ((State.reset.wr (R.QUAD_CFG_RATE 0) 3).wr (R.LANE_CFG_USE 0) 1).wr (R.MARKET_PORT_CFG_EN 0) 0
     bitOf 0x80000000 31 = true ∧ s.bit (R.MARKET_PORT_CFG_EN 0) = false ∧
      ((s.portCfg 0 0x80000000).wrB (R.MARKET_PORT_CFG_EN 0) true).portCfgOk 0 = true ∧
      ((State.reset.portCfg 0 0x80000000).wrB (R.MARKET_PORT_CFG_EN 0) true).portCfgOk 0 = false) ∧
    (bitOf 0x20000000 29 = true ∧ ((portAt 3 {}).wr (R.MARKET_PORT_CFG_TRAIN 0) 1).bit (R.MARKET_PORT_CFG_TRAIN 0) = true ∧
      (portAt 1 {}).mktPort 0 = 1 ∧ (portAt 2 {}).mktPort 0 = 2 ∧ (portAt 2 {}).mkt.queues.get 0 = [] ∧ (portAt 3 {}).mktPort 0 = 3) ∧
    (let s := (portAt 3 {}).wr (R.LANE_STATUS_CDR_LOCK 0) 1
     (State.reset.wr (R.MARKET_SYNCE_OUT_SQUELCH 0) 1).bit (R.MARKET_SYNCE_OUT_SQUELCH 0) = true ∧ s.bit (R.MARKET_SYNCE_OUT_SQUELCH 0) = false ∧
      s.mktPort (s.rd (R.MARKET_SYNCE_OUT_PORT 0)) = 3 ∧
      s.bit (R.LANE_STATUS_CDR_LOCK (s.rd (R.MARKET_PORT_CFG_FIRST_LANE (s.rd (R.MARKET_SYNCE_OUT_PORT 0))))) = true) := by
  refine ⟨?_, ?_, ?_⟩ <;> decide +kernel

/-- An eCPRI-like stream packet of 12 samples (ETHERTYPE 0xFC3D), without its FCS. -/
def streamBody : List Nat := [1, 2, 3, 4, 5, 6, 7, 8, 9, 10, 11, 12, 0xFC, 0x3D, 0, 0, 0, 48, 0, 0, 0, 0] ++ List.replicate 48 0

def streamFrame : RxFrame := { bytes := streamBody ++ bytesOf32 3502913702, bad := [], sec := .plain, stamp := 0, corr := 0, uncorr := 0 }

set_option maxRecDepth 100000 in
theorem streamBody_fcs : fcs streamBody = 3502913702 := by
  simp [fcs, crc32Byte, streamBody, List.range, List.range.loop, List.replicate]

theorem test_witness_MarketPortsAndReception_frame : Claims.frameGood (portAt 3 {}) 0 streamFrame := by
  refine ⟨by decide +kernel, by decide +kernel, by decide +kernel, ?_, by decide +kernel, by decide +kernel⟩
  have h : streamFrame.bytes.take (streamFrame.bytes.length - 4) = streamBody := by decide +kernel
  rw [h, streamBody_fcs]
  decide +kernel

/-- Entry 0 of the flow table hands the frames of port 0 to stream 0, which a Sieve channel takes. -/
def streamAt : State :=
  (((((portAt 3 {}).wr (R.MARKET_FLOW 0 0) (2 ^ 31 + 3 * 2 ^ 28)).wr (R.MARKET_FLOW 0 1) 1).wr (R.MARKET_STREAM_CFG_EN 0) 1).wr (R.MARKET_STREAM_CFG_SPP 0) 12).wr
    (R.SIEVE_CH_STATUS_STATE 0) 2 |>.wr (R.SIEVE_CH_RATE_SPF 0) 100

theorem test_witness_MarketPortsAndReception_reception :
    (State.reset.mktUp 0 = false ∧ (portAt 3 {}).mktUp 0 = true ∧ (portAt 3 {}).flowMatch 0 (Claims.rxKeys streamFrame) = none) ∧
    (streamAt.mktUp 0 = true ∧ streamAt.stamped 0 = false ∧ streamAt.flowMatch 0 (Claims.rxKeys streamFrame) = some 0 ∧
      nbits (streamAt.rd (R.MARKET_FLOW 0 0)) 28 3 = 3 ∧ nbits (streamAt.rd (R.MARKET_FLOW 0 5)) 0 6 = 0 ∧
      streamAt.cellsRoom none (cellsOf streamFrame.bytes.length) = true ∧ (Claims.rxKeys streamFrame).et = 0xFC3D) ∧
    (streamAt.bit (R.MARKET_STREAM_CFG_EN 0) = true ∧ streamAt.bit (R.MARKET_STREAM_CFG_DIR 0) = false ∧ streamAt.rd (R.MARKET_STREAM_CFG_SPP 0) = 12 ∧
      fw streamFrame.bytes ((Claims.rxKeys streamFrame).off + 2) = 48 ∧ (Claims.rxKeys streamFrame).off + 8 + 48 ≤ streamFrame.bytes.length - 4 ∧
      streamAt.mkt.streams.get 0 = {} ∧
      beNum ((streamFrame.bytes.drop ((Claims.rxKeys streamFrame).off + 4)).take 4) = streamAt.rd (R.MARKET_STREAM_ANCHOR_SEQ 0)) ∧
    (streamAt.streamSpf 0 = some 100 ∧ streamAt.rd (R.MARKET_STREAM_ANCHOR_IDX 0) < 100 ∧ streamAt.rd (R.MARKET_STREAM_ANCHOR_SFN 0) < 1024) := by
  refine ⟨?_, ?_, ?_, ?_⟩ <;> decide +kernel

/-- A plan of lock group 0, window tag 3, with one NOTIFY entry and one EGRESS entry of port 0. -/
def marketPlan (o : MktOut) (sweep : Int) : MktPlan :=
  { g := 0, slot := 0, wtag := 3, sweepNs := sweep, ins := [], notes := [{ nset := 1, sym := 2, expect := 4, index := 7, deadline := 0 }], outs := [o] }

/-- An EGRESS entry of 60 bytes at address 0, open from tick 0 up to tick `close`. -/
def egressAt (close : Nat) : MktOut :=
  { port := 0, tc := 0, doorbell := true, release := false, len := 60, src := 0, open_ := 0, close := close, token := 0, index := 5 }

theorem test_witness_MarketLandingEgressAndQueues_landing :
    (let x := marketPlan (egressAt 9) 5
     let s := portAt 3 { plans := [x], landings := [⟨1, 0, some (0, 3), [(1, 2, 4)], 0, none⟩] }
     s.mkt.landings[0]? = some ⟨1, 0, some (0, 3), [(1, 2, 4)], 0, none⟩ ∧ s.planOf 0 3 = some x ∧
      x.note 1 2 = some { nset := 1, sym := 2, expect := 4, index := 7, deadline := 0 } ∧ 4 ≤ x.counts.get (1 * 16 + 2) + 4 ∧ passed s.tick 0 = true) ∧
    (let s := portAt 3 { landings := [⟨1, 0, none, [], 0, some (9, 0)⟩], pushes := [(0, 9, 1)] }
     s.mkt.landings[0]? = some ⟨1, 0, none, [], 0, some (9, 0)⟩ ∧ s.lqIsFull 0 = false ∧ s.mkt.pushes.find? (fun x => x.1 == 0) = some (0, 9, 1) ∧
      ((s.setMkt { s.mkt with pushes := s.mkt.pushes.erase (0, 9, 1) }).dmaWrite marketMid
        (s.rd (R.MARKET_LQ_BASE_ADDR 0) * 4 + s.rd (R.MARKET_LQ_PROD 0) % s.lqSize 0 * 4) (clean (bytesOf32 9))).1 = true) ∧
    (let s := State.reset.wr (R.MARKET_LQ_PROD 0) 5
     ((3 : Word).toNat + 4294967296 - s.rd (R.MARKET_LQ_CONS 0)) % 4294967296 ≤ (s.rd (R.MARKET_LQ_PROD 0) + 4294967296 - s.rd (R.MARKET_LQ_CONS 0)) % 4294967296 ∧
      (s.rd (R.MARKET_LQ_PROD 0) + 4294967296 - s.rd (R.MARKET_LQ_CONS 0)) % 4294967296 < ((6 : Word).toNat + 4294967296 - s.rd (R.MARKET_LQ_CONS 0)) % 4294967296) := by
  refine ⟨?_, ?_, ?_⟩ <;> decide +kernel

/-- A burst of 12 samples for stream 0, which is enabled for transmission. -/
def burstOut : SvOut := ⟨0, 0, 0, 3, 4, List.replicate 12 ⟨1, 2, false⟩⟩

theorem test_witness_MarketLandingEgressAndQueues_egress :
    (let s : State := { (streamAt.wr (R.MARKET_STREAM_CFG_DIR 0) 1) with sv := { out := [burstOut] } }
     s.sv.out.find? (fun o => o.kind == 0 && o.port == 0) = some burstOut ∧ s.bit (R.MARKET_STREAM_CFG_EN 0) = true ∧ s.bit (R.MARKET_STREAM_CFG_DIR 0) = true ∧
      s.rd (R.MARKET_STREAM_CFG_SPP 0) = 12 ∧ burstOut.data.length % 12 = 0 ∧
      s.cellsRoom none (burstOut.data.length / 12 * cellsOf ((s.mkt.streams.get 0).template.length + 4 + 4 * 12 + 4)) = true) ∧
    (let s := portAt 3 { plans := [marketPlan (egressAt 0) 0] }
     s.outOf 0 3 5 = some (egressAt 0) ∧ passed s.tick 0 = true ∧ s.mkt.queues.get 0 = [] ∧ s.planOf 0 3 = some (marketPlan (egressAt 0) 0) ∧
      s.reached 0 = true ∧ s.outOf (bitsOf 0x3005 16 6) (bitsOf 0x3005 12 4) (bitsOf 0x3005 0 12) = some (egressAt 0) ∧
      s.outOf (bitsOf 0x3006 16 6) (bitsOf 0x3006 12 4) (bitsOf 0x3006 0 12) = none) ∧
    (let e : MktOut := { egressAt 100000 with opened := true, rung := true }
     let s := portAt 3 { plans := [marketPlan e 0] }
     s.mktUp 0 = true ∧ s.mkt.now.get 0 = none ∧ s.msecOn 0 = false ∧ s.nextOut 0 = some (0, 3, e) ∧
      (let x := s.dmaRead marketMid 0 60
       x.1.isSome = true ∧ x.2.cellsRoom none (cellsOf (max 60 60 + 4)) = true)) ∧
    (let f : TxNow := ⟨[1], none, 0, 0, none, none⟩
     let s := portAt 3 { now := Tab.set ⟨[]⟩ 0 (some f) }
     s.mkt.now.get 0 = some f ∧ f.ends ≤ s.wireNow) ∧
    (((portAt 3 {}).mkt.txq.get 0).length < 255 ∧ (portAt 3 { txq := Tab.set ⟨[]⟩ 0 [16] }).mkt.txq.get 0 = [16] ∧ (portAt 2 {}).mktUp 0 = false ∧
      (let x := ((portAt 2 {}).wr R.MARKET_BUF_CFG_TC_MAX 9).dmaRead marketMid (16 / 16 * 16) 16
       let w := le32 4 (byteVals (x.1.getD []))
       let y := x.2.dmaRead marketMid (nbits (w.getD 1 0) 24 8 * 2 ^ 32 + w.getD 0 0) (nbits (w.getD 1 0) 0 14)
       x.1.isSome = true ∧ y.1.isSome = true ∧ y.2.cellsRoom (some (nbits (w.getD 2 0) 29 3)) 1 = true)) := by
  refine ⟨?_, ?_, ?_, ?_, ?_⟩ <;> decide +kernel

/-! ## The host interface (18) -/

/-- Reset with the link up, BOOT READY, and function 1 a bus master. -/
def hostAt (x : HostIf) : State :=
  { (State.reset.wr R.HOST_STATUS_BOOT 1).wr R.HOST_STATUS_LINK_UP 1 with host := { x with master := 1 :: x.master } }

theorem test_witness_HostLinkFunctionsAndOutbound :
    ((State.reset.wr R.HOST_STATUS_BOOT 0).hostBoot = 0 ∧ (hostAt {}).configAnswer 1 = .sc ∧ (hostAt {}).hostBoot = 1 ∧ (hostAt {}).host.vf2 = false) ∧
    (let s := ((hostAt { vf2 := true }).wr (R.HOST_PF2_VF_STOOLS_STATE 0) 1).wr (R.HOST_PF2_VF_STOOLS_MASK 0) 1
     s.vfSt 0 = 1 ∧ s.vfLoaded 0 = false ∧ (s.wr (R.COPPICE_STOOL_STATUS_STATE 0) 2).vfLoaded 0 = true ∧ (s.wr (R.COPPICE_STOOL_STATUS_STATE 0) 2).vfSt 0 = 1 ∧
      (s.setStp { s.stp with now := s.vfEnd }).vfEnd ≤ (s.setStp { s.stp with now := s.vfEnd }).stp.now) ∧
    (let s := ((hostAt {}).wr (R.HOST_OB_MAP_LO_EN 3) 1).wr (R.HOST_OB_MAP_LO_FN 3) 1
     s.rd (R.HOST_OB_MAP_LO_FN 3) = 1 ∧ s.bit (R.HOST_OB_MAP_LO_EN 3) = true ∧ s.busMaster 1 = true ∧ s.host.stopped = [] ∧ s.linkUp = true ∧
      anyMark [⟨5, false⟩] = false ∧ (hostAt {}).bit (R.HOST_OB_MAP_LO_EN 3) = false) ∧
    ((hostAt { reads := [⟨1, 8, 0, false⟩] }).host.reads[0]? = some ⟨1, 8, 0, false⟩ ∧ (hostAt { reads := [⟨1, 8, 0, true⟩] }).host.reads[0]? = some ⟨1, 8, 0, true⟩ ∧
      (let s := (hostAt {}).setStp { (hostAt {}).stp with now := 3500 * 65536 }
       0 + 3500 * 65536 ≤ s.stp.now)) := by
  refine ⟨?_, ?_, ?_, ?_⟩ <;> decide +kernel

/-- A report waits at host interrupt source 0, routed to host completion queue 0 of function 1. -/
def hcqAt : State :=
  ((((hostAt {}).wr (R.HOST_IRQ_ROUTE_EN 0) 1).wr (R.HOST_IRQ_ROUTE_VIA_HCQ 0) 1).wr (R.HOST_HCQ_CFG_EN 0) 1).wr (R.HOST_HCQ_CFG_FN 0) 1
    |>.setQueue 0 { unread := [9] }

theorem test_witness_HostAndJtagAccesses :
    ((hostAt {}).hostBoot = 1 ∧ (hostAt {}).linkUp = true ∧ ((hostAt {}).dmaRead hostMid 64 8).1.isSome = true ∧
      (hostAt {}).bit (R.HOST_FN_WIN_EN 1) = false ∧ ((hostAt {}).dmaWrite hostMid 64 [(1, false)]).1 = true ∧
      (((hostAt {}).wr (R.GRANARY_BANK_PWR_STATE 0) 2).dmaWrite hostMid 64 [(1, false)]).1 = false) ∧
    (let s := ((hostAt {}).wr (R.HOST_DB_BIND_EN 1 0) 1).wr (R.HOST_DB_BIND_OFFSET 1 0) ((R.REEVE_CTRL_ENABLE.addr - 0x40000000) / 4)
     s.bit (R.HOST_DB_BIND_EN 1 0) = true ∧ s.host.stopped = [] ∧
      (match s.regWrite hostMid (0x40000000 + s.rd (R.HOST_DB_BIND_OFFSET 1 0) * 4) 0 {} with
       | .next u => decide (u.ans.status = .ok)
       | _ => false) = true ∧ (hostAt {}).bit (R.HOST_DB_BIND_EN 1 0) = false) ∧
    (let s : State := { (hostAt {}).wr (R.HOST_IRQ_ROUTE_EN 0) 1 with hostIrq := [0] }
     0 ∈ s.hostIrq ∧ s.bit (R.HOST_IRQ_ROUTE_EN 0) = true ∧ s.bit (R.HOST_IRQ_ROUTE_VIA_HCQ 0) = false ∧ s.linkUp = true) ∧
    (hcqAt.bit (R.HOST_IRQ_ROUTE_EN 0) = true ∧ hcqAt.bit (R.HOST_IRQ_ROUTE_VIA_HCQ 0) = true ∧ hcqAt.bit (R.HOST_HCQ_CFG_EN 0) = true ∧
      hcqAt.hcqHeld 0 < hcqAt.hcqSize 0 ∧ hcqAt.busMaster 1 = true ∧ (hcqAt.takeSource 0).isSome = true ∧ hcqAt.rd (R.HOST_HCQ_CFG_FN 0) = 1) ∧
    ((let s := hcqAt.wr (R.HOST_HCQ_TAIL 0) 5
      ((3 : Word).toNat + 4294967296 - s.host.heads.get 0) % 4294967296 ≤ s.hcqHeld 0 ∧
      s.hcqHeld 0 < ((6 : Word).toNat + 4294967296 - s.host.heads.get 0) % 4294967296)) ∧
    (let s := State.reset.wr R.STRONG_OTP_STATE_LIFECYCLE 0
     s.dbg.jtag.busy = false ∧ s.jtagAdmits false (0x12000000 * 4) = true ∧ s.jtagAdmits true (0x12000000 * 4) = true ∧
      (State.reset.wr R.STRONG_OTP_STATE_LIFECYCLE 2).jtagAdmits false (0x12000000 * 4) = false) ∧
    (let s := State.reset.setTap (fun t => { t with access := some (false, 0x40, 0) })
     s.dbg.jtag.access = some (false, 0x40, 0) ∧
      (match s.jtagAccess false 0x40 0 ⟨.ok, 0, []⟩ {} with
       | .next u => decide (u.ans.status = .ok)
       | _ => false) = true) := by
  refine ⟨?_, ?_, ?_, ?_, ?_, ?_, ?_⟩ <;> decide +kernel

/-! ## The Coppice (19) -/

/-- Reset with ENABLE = 1 and a load in state `st` of the bytes `l`. -/
def loadAt (st : Nat) (l : List Nat) : State :=
  ((State.reset.wr R.COPPICE_CTRL_ENABLE 1).wr R.COPPICE_LOAD_STATUS_STATE st).setCop (fun c => { c with bytes := l.map (fun b => (b, false)) })

/-- A header that names stool 0, with one frame and a PERSONALITY_ID that brings its running CRC to zero. -/
def hdrStart : List Nat := [0x43, 0x4F, 0x43, 0x50, 0x01, 0x5C, 0x08, 0, 8, 0, 0, 0, 1, 0, 0, 0, 0, 0, 0, 1, 1, 0, 0, 0, 0x4C, 4, 0, 0, 109, 231, 255, 117]
def hdrBytes : List Nat := hdrStart ++ List.replicate 28 0 ++ [255, 255, 255, 255]

theorem fcs_zeros (l : List Nat) (n : Nat) (h : l.foldl crc32Byte 0xFFFFFFFF = 0) : fcs (l ++ List.replicate n 0) = 0xFFFFFFFF := by
  have z : ∀ m, (List.replicate m 0).foldl crc32Byte 0 = 0 := by
    intro m
    induction m with
    | zero => rfl
    | succ m ih => rw [List.replicate_succ, List.foldl_cons]; exact ih
  rw [fcs, List.foldl_append, h, z]; rfl

set_option maxRecDepth 100000 in
theorem hdrStart_crc : hdrStart.foldl crc32Byte 0xFFFFFFFF = 0 := by
  simp [crc32Byte, hdrStart, List.range, List.range.loop]

theorem test_witness_hdr : (Claims.withBytes (loadAt 1 []) (hdrBytes.map (fun b => (b, false)))).headerFault = none := by decide +kernel

/-- Bytes whose CRC is 0xFFFFFFFF: a start that brings the running CRC to zero, then zeros. -/
theorem fcs_of_start (l b : List Nat) (n : Nat) (h : l.foldl crc32Byte 0xFFFFFFFF = 0) (e : b = l ++ List.replicate n 0) : fcs b = 0xFFFFFFFF := by
  rw [e]; exact fcs_zeros l n h

/-- A frame of stool 0, type `ty` and index 5, whose first payload bytes bring its running CRC to zero. -/
def frameBytes (start : List Nat) : List (Nat × Bool) := (start ++ List.replicate 1020 0 ++ [255, 255, 255, 255]).map (fun b => (b, false))
def configStart : List Nat := [5, 0, 0, 0, 209, 208, 101, 233]
def bramStart : List Nat := [5, 0, 0, 4, 200, 20, 8, 238]

set_option maxRecDepth 100000 in
theorem configStart_crc : configStart.foldl crc32Byte 0xFFFFFFFF = 0 := by simp [crc32Byte, configStart, List.range, List.range.loop]
set_option maxRecDepth 100000 in
theorem bramStart_crc : bramStart.foldl crc32Byte 0xFFFFFFFF = 0 := by simp [crc32Byte, bramStart, List.range, List.range.loop]

def frameAt (start : List Nat) : State := (loadAt 4 hdrBytes).setCop (fun c => { c with bytes := c.bytes ++ frameBytes start })

theorem test_witness_CoppiceFramesTrailerAndRelease_config : (frameAt configStart).frameFault (frameBytes configStart) = none := by
  have h : fcs ((byteVals (frameBytes configStart)).take 1028) = 0xFFFFFFFF := fcs_of_start _ _ 1020 configStart_crc (by decide +kernel)
  simp only [State.frameFault, h]
  decide +kernel

theorem test_witness_CoppiceFramesTrailerAndRelease_bram : (frameAt bramStart).frameFault (frameBytes bramStart) = none := by
  have h : fcs ((byteVals (frameBytes bramStart)).take 1028) = 0xFFFFFFFF := fcs_of_start _ _ 1020 bramStart_crc (by decide +kernel)
  simp only [State.frameFault, h]
  decide +kernel

theorem test_witness_CoppiceFramesTrailerAndRelease :
    (∀ l ∈ [configStart, bramStart], let s := frameAt l
     s.loadSt = 4 ∧ frameBytes l = (s.cop.bytes.drop (64 + 1032 * s.rd R.COPPICE_LOAD_FRAME)).take 1032 ∧ (frameBytes l).length = 1032) ∧
    (let f : List (Nat × Bool) := [(5, true)] ++ List.replicate 1031 (0, false)
     let s := (loadAt 4 hdrBytes).setCop (fun c => { c with bytes := c.bytes ++ f })
     s.loadSt = 4 ∧ f = (s.cop.bytes.drop (64 + 1032 * s.rd R.COPPICE_LOAD_FRAME)).take 1032 ∧ f.length = 1032 ∧ s.frameFault f = some (5, 0)) ∧
    ((loadAt 6 []).loadSt = 6 ∧ (loadAt 7 hdrBytes).loadSt = 7) := by
  refine ⟨?_, ?_, ?_⟩ <;> decide +kernel

/-- A whole stream in state TRAILER: a header of 28 bytes, four that bring its CRC to zero, zeros, and the trailer `c`. -/
def trailerAt (c : List Nat) : State := loadAt 5 (hdrStart ++ List.replicate 1064 0 ++ c)

theorem test_witness_CoppiceFramesTrailerAndRelease_trailer :
    ((trailerAt [255, 255, 255, 255]).loadSt = 5 ∧ (trailerAt [255, 255, 255, 255]).streamWhole = true ∧
      (trailerAt [0, 0, 0, 0]).loadSt = 5 ∧ (trailerAt [0, 0, 0, 0]).streamWhole = true) ∧
    ∀ c ∈ [[255, 255, 255, 255], [0, 0, 0, 0]],
      (le32 1 ((byteVals (trailerAt c).cop.bytes).drop (64 + 1032 * (trailerAt c).hdrFrames))).headD 0 = (if c = [0, 0, 0, 0] then 0 else 0xFFFFFFFF) ∧
      fcs ((byteVals (trailerAt c).cop.bytes).take (64 + 1032 * (trailerAt c).hdrFrames)) = 0xFFFFFFFF := by
  refine ⟨by decide +kernel, fun c hc => ⟨?_, fcs_of_start hdrStart _ 1064 hdrStart_crc ?_⟩⟩
  · revert c; decide +kernel
  · revert c; decide +kernel

theorem test_witness_CoppiceLoadOpensAndTakesBytes :
    ((loadAt 0 []).loading = false ∧ (loadAt 0 []).bit R.COPPICE_CTRL_ENABLE = true ∧ State.reset.bit R.COPPICE_CTRL_ENABLE = false ∧
      (loadAt 1 []).loading = true ∧ (loadAt 1 []).loadSt ≠ 7 ∧ (loadAt 1 []).streamWhole = false) ∧
    ((Claims.withBytes (loadAt 1 []) (hdrBytes.map (fun b => (b, false)))).headerFault = none ∧
      (Claims.withBytes (loadAt 1 []) (List.replicate 64 (0, false))).headerFault = some (4, 1) ∧ (hdrBytes.map (fun b => (b, false))).length = 64) ∧
    (let s := loadAt 4 hdrBytes
     (Claims.withBytes s [(1, false), (2, false), (3, false), (4, false)]).cop.bytes.length ≤
       (Claims.withBytes s [(1, false), (2, false), (3, false), (4, false)]).hdrLength ∧ 64 + 4 ≤ 131072 + s.consumed) ∧
    (let s := loadAt 4 (hdrBytes ++ List.replicate 1036 0)
     (Claims.withBytes s [(1, false), (2, false), (3, false), (4, false)]).hdrLength < s.cop.bytes.length + 4 ∧ s.streamWhole = true) ∧
    (let s := (loadAt 1 []).setStp { (loadAt 1 []).stp with now := 100 * 1000000 * 65536 }
     1 ≤ s.rd R.COPPICE_LOAD_TIMEOUT_MS ∧ s.rd R.COPPICE_LOAD_TIMEOUT_MS ≤ 10000 ∧
      s.cop.last + s.rd R.COPPICE_LOAD_TIMEOUT_MS * 1000000 * 65536 ≤ s.stp.now) ∧
    ((loadAt 2 hdrBytes).loadSt = 2 ∧ 0 ∈ (loadAt 2 hdrBytes).targets ∧ (loadAt 2 hdrBytes).targets.all (loadAt 2 hdrBytes).drained = true ∧
      ((loadAt 2 hdrBytes).stoolTo 0 3).targets.all ((loadAt 2 hdrBytes).stoolTo 0 3).drained = true ∧ ((loadAt 2 hdrBytes).stoolTo 0 3).stoolSt 0 = 3) := by
  refine ⟨?_, ?_, ?_, ?_, ?_, ?_⟩ <;> decide +kernel

theorem test_witness_CoppiceLoadOpensAndTakesBytes_full :
    (loadAt 2 hdrBytes).loading = true ∧ (loadAt 2 hdrBytes).loadSt ≠ 7 ∧ (loadAt 2 hdrBytes).streamWhole = false ∧
      131072 + (loadAt 2 hdrBytes).consumed < (loadAt 2 hdrBytes).cop.bytes.length + (List.replicate 131080 ((0 : Nat), false)).length := by
  rw [List.length_replicate]; decide +kernel

/-- Reset with stool 0 in state `st`. -/
def stoolAt (st : Nat) : State := State.reset.stoolTo 0 st

theorem test_witness_CoppiceStoolsAndClocks :
    ((stoolAt 2).loadNames 0 = false ∧ (stoolAt 2).stoolSt 0 = 2 ∧ (stoolAt 4).loadNames 0 = false ∧ (stoolAt 4).stoolSt 0 = 4 ∧
      (loadAt 4 hdrBytes).loadNames 0 = true ∧ (stoolAt 0).loadNames 0 = false ∧ (stoolAt 0).stoolSt 0 ∉ [2, 4]) ∧
    ((stoolAt 3).drained 0 = true ∧ (stoolAt 3).stoolSt 0 = 3 ∧ (stoolAt 5).drained 0 = true ∧ (stoolAt 5).stoolSt 0 = 5) ∧
    (let p : Packet := { packetAt 0 none (.port 8 2 0) with dest := 149, addr := 0x80000000, id := 4 }
     let s := (stoolAt 2).setStp { (stoolAt 2).stp with now := 3500 * 65536 }
     let t : State := s.setNet (fun c => { c with ejected := [⟨p, 0⟩] })
     t.net.ejected.find? (fun e => e.pkt.id == 4) = some ⟨p, 0⟩ ∧ (0 : Nat) + 3500 * 65536 ≤ t.stp.now ∧ stoolOf p.addr < 16 ∧ isCoppiceNi p.dest = true ∧ t.drained 0 = false) ∧
    (let s := ((stoolAt 2).wr (R.COPPICE_STOOL_WIN_BASE_EN 0 1) 1).wr (R.COPPICE_STOOL_WIN_LIMIT_LIMIT 0 1) 4
     s.windowPasses 0 false 64 8 1 = true ∧ ∀ w < 4, s.windowPasses 0 true 64 8 w = false) ∧
    (let s := ((stoolAt 2).wr (R.MARKET_STREAM_CFG_TARGET 3) 1)
     let t : State := { s with mkt := { s.mkt with blocks := [⟨3, 0, 0, []⟩] } }
     let u : State := { s with sv := { s.sv with out := [⟨2, 0, 0, 3, 4, [⟨1, 2, false⟩]⟩] } }
     t.mkt.blocks.findIdx? (t.forStool 0) = some 0 ∧ u.mkt.blocks.findIdx? (u.forStool 0) = none ∧ u.sv.out.findIdx? (svForStool 0) = some 0) ∧
    (let s := ((stoolAt 2).wr (R.COPPICE_STOOL_STATUS_CLOCKS 0) 1)
     nbit (s.rd (R.COPPICE_STOOL_STATUS_CLOCKS 0)) 0 = true ∧ bitsOf 0x80002710 31 1 ≠ s.rd (R.COPPICE_UCLK_CFG_EN 0) ∧
      (∀ i < 16, s.stoolSt i = 1 ∨ s.stoolSt i = 2 → nbit (s.rd (R.COPPICE_STOOL_STATUS_CLOCKS i)) 1 = false) ∧
      (s.wr (R.COPPICE_UCLK_CFG_EN 0) 1).bit (R.COPPICE_UCLK_CFG_EN 0) = true ∧ s.bit (R.COPPICE_UCLK_CFG_LOCKED 0) = false ∧
      bitsOf 0x80002710 31 1 ≠ s.rd (R.COPPICE_UCLK_CFG_EN 1)) := by
  refine ⟨?_, ?_, ?_, ?_, ?_, ?_⟩ <;> decide +kernel

/-! ## The Strongroom (20) -/

/-- The OPERATIONAL Strongroom with `role` at queue 0, whose ring at address 0 holds one descriptor of the 32-bit words `l`; slot 7 holds `k`. -/
def strongAt (role : Nat) (l : List Nat) (k : StrongKey) : State :=
  let s := ((State.reset.wr R.STRONG_STATUS_STATE 1).wr (R.STRONG_Q_CFG_ROLE 0) role).wr (R.STRONG_Q_PROD_PROD 0) 1
  (s.setKey 7 k).writeWords 0 ((List.range 8).map (fun i => ⟨BitVec.ofNat 64 (l.getD (2 * i) 0 + l.getD (2 * i + 1) 0 * 2 ^ 32), false⟩))

/-- OP and KEY, PARAM0, LEN, AUX, source 0x1000, destination 0x2000, PARAM1 and PARAM2. -/
def descOf (op key p0 len aux p1 p2 : Nat) : List Nat := [op * 2 ^ 24 + key, p0, len, aux, 0x1000, 0, 0x2000, 0, p1, p2]

/-- The descriptor is reached, and `f` holds of it, of the state its fetch leaves, and of its source. -/
def reached (s : State) (op : Nat) (f : StrongDesc → State → Bool) : Bool :=
  s.strongDue 0 && decide (s.strongSt = 1) &&
    (match s.strongFetch 0 with
     | (.ok d, t) => decide (d.op = op) && decide (t.strongCheck d = none) && f d t
     | _ => false)

def sourceOk (t : State) (d : StrongDesc) : Bool := match t.dmaRead strongMid d.src d.len with
  | (some l, _) => !anyBad l
  | _ => false

def namesKey (t : State) (d : StrongDesc) (types : List Nat) (u : Nat) : Bool := match t.keyOf d.key with
  | some (_, k) => types.contains k.type && nbit k.usage u
  | none => false

/-- A key of `type` in slot 7, generation 2, that allows everything. -/
def aKey (type : Nat) : StrongKey := { live := true, gen := 2, type := type, usage := 127, bytes := List.replicate (keyLen type) 5 }
def aHandle : Nat := 7 + 1024 * 2

theorem test_witness_StrongServicesPerformed_bytes :
    reached (strongAt 0 (descOf 1 0 1 64 0 0 0) (aKey 1)) 1 (fun d t => d.buffers d.len (Claims.digestLen d.p0) && sourceOk t d) = true ∧
    reached (strongAt 1 (descOf 2 aHandle 2 64 0 0 0) (aKey 3)) 2 (fun d t => namesKey t d [3] 2 && d.buffers d.len 48 && sourceOk t d) = true ∧
    reached (strongAt 1 (descOf 3 aHandle 0 64 16 1 2) (aKey 1)) 3 (fun d t => namesKey t d [1, 2] 0 && decide (d.aux ≤ d.len) && d.buffers d.len 64 && sourceOk t d) = true ∧
    reached (strongAt 1 (descOf 4 aHandle 0 64 16 1 2) (aKey 2)) 4 (fun d t => namesKey t d [1, 2] 1 && decide (d.len = d.aux + 32 + 16) && d.buffers d.len 32 && sourceOk t d) = true ∧
    reached (strongAt 1 (descOf 5 aHandle 0 48 0 0 0) (aKey 5)) 5 (fun d t => namesKey t d [4, 5] 2 && d.buffers d.len 96 && sourceOk (t.draw 48).2 d) = true ∧
    reached (strongAt 0 (descOf 6 0 0 240 0 0 0) (aKey 1)) 6 (fun d t => decide (d.len = 2 * 96 + 48) && d.buffers d.len 0 && sourceOk t d) = true ∧
    reached (strongAt 0 (descOf 0xC 0 0 8 0 0 0) (aKey 1)) 0xC (fun d _ => d.buffers 0 d.len) = true ∧
    reached (strongAt 0 (descOf 0x11 0 4 144 0 0 0) (aKey 1)) 0x11 (fun d t => d.buffers d.len 0 && sourceOk t d) = true := by
  refine ⟨?_, ?_, ?_, ?_, ?_, ?_, ?_, ?_⟩ <;> decide +kernel

theorem test_witness_StrongServicesPerformed_keys :
    reached (strongAt 1 (descOf 7 aHandle 0x10001 96 0 0 0) (aKey 5)) 7 (fun d t => keyTypeOk d.p0 && namesKey t d [4, 5] 4 && decide (d.len = 96) &&
      d.buffers d.len 0 && decide (t.freeKey = some 1) && sourceOk t d) = true ∧
    reached (strongAt 1 (descOf 8 0 0x10001 0 0 0 0) (aKey 5)) 8 (fun d t => keyTypeOk d.p0 && decide (nbits d.p0 16 4 ∉ [4, 5]) && d.buffers 0 0 && decide (t.freeKey = some 1)) = true ∧
    reached (strongAt 1 (descOf 8 0 0x50004 0 0 0 0) (aKey 5)) 8 (fun d t => keyTypeOk d.p0 && decide (nbits d.p0 16 4 = 5) && d.buffers 0 96 && decide (t.freeKey = some 1)) = true ∧
    reached (strongAt 1 (descOf 9 aHandle 0x10001 16 0 0 0) (aKey 2)) 9 (fun d t => keyTypeOk d.p0 && namesKey t d [1, 2, 3, 4, 5, 6] 4 && d.buffers d.len 0 &&
      decide (t.freeKey = some 1) && sourceOk t d) = true ∧
    reached (strongAt 1 (descOf 0xA aHandle aHandle 0 0 0 0) (aKey 2)) 0xA (fun d t => decide (t.keyOf d.p0 = some (7, aKey 2)) &&
      (match t.kekOf d with | .ok _ => true | _ => false) && d.buffers 0 40) = true ∧
    reached (strongAt 1 (descOf 0xB aHandle 0x10020 24 0 0 0) (aKey 1)) 0xB (fun d t => keyTypeOk d.p0 && (match t.kekOf d with | .ok _ => true | _ => false) &&
      d.buffers d.len 0 && decide (t.freeKey = some 1) && sourceOk t d) = true ∧
    reached (strongAt 1 (descOf 0xD aHandle 0 0 0 0 0) (aKey 1)) 0xD (fun d t => decide (t.keyOf d.key = some (7, aKey 1))) = true ∧
    reached (strongAt 1 (descOf 0xE aHandle (31 * 2 ^ 24 + 8 * 2 ^ 16 + 3) 0 0 0 0) (aKey 1)) 0xE (fun d t => decide (d.p0 = 31 * 2 ^ 24 + 8 * 2 ^ 16 + 3) && namesKey t d [1, 2] 5) = true ∧
    reached (strongAt 1 (descOf 0xF aHandle (2 * 4096 + 4095) 0 0 0 0) (aKey 6)) 0xF (fun d t => decide (d.p0 = 2 * 4096 + 4095) && namesKey t d [1, 6] 6) = true ∧
    (let s := (strongAt 1 (descOf 0xF aHandle (3 * 4096 + 9) 0 0 0 0) (aKey 6)).wr R.STRONG_STATUS_APPROVED_ONLY 1
     reached s 0xF (fun d t => decide (d.p0 = 3 * 4096 + 9) && namesKey t d [1, 6] 6 && t.bit R.STRONG_STATUS_APPROVED_ONLY)) = true := by
  refine ⟨?_, ?_, ?_, ?_, ?_, ?_, ?_, ?_, ?_, ?_⟩ <;> decide +kernel

theorem test_witness_StrongServicesPerformed_pdcp :
    reached (strongAt 1 (descOf 0x10 0 (31 * 2 ^ 20 + 2 ^ 17 + 5) 16 3 9 0) (aKey 6)) 0x10 (fun d t => decide (d.p0 = 31 * 2 ^ 20 + 1 * 2 ^ 17 + 5) &&
      decide (d.aux ≤ d.len) && d.buffers d.len (d.len + 4) && decide (t.strong.pdcp.get 5 = {}) && sourceOk t d) = true ∧
    reached (strongAt 1 (descOf 0x10 0 (31 * 2 ^ 20 + 2 ^ 16 + 5) 20 3 9 0) (aKey 6)) 0x10 (fun d t => decide (d.p0 = 31 * 2 ^ 20 + 0 * 2 ^ 17 + 2 ^ 16 + 5) &&
      decide (d.len = d.aux + 13 + 4) && d.buffers d.len (d.aux + 13) && decide (t.strong.pdcp.get 5 = {}) && sourceOk t d) = true := by
  refine ⟨?_, ?_⟩ <;> decide +kernel

theorem test_witness_StrongQueuesOfficerAndStates_commands :
    reached (strongAt 0 (descOf 0x20 0 0 196 0 0 0) (aKey 1)) 0x20 (fun d t => decide (d.len = 196) && d.buffers d.len 0 && sourceOk t d) = true ∧
    reached (strongAt 2 (descOf 0x21 0 (3 * 2 ^ 24 + 0xA2 * 2 ^ 16 + 4) 0 0 0x10000 0) (aKey 1)) 0x21 (fun d _ =>
      decide (d.p0 = 3 * 2 ^ 24 + 0xA2 * 2 ^ 16 + 0 * 2 ^ 15 + 0 * 2 ^ 14 + 4) && decide (d.param 2 * 2 ^ 32 + d.param 1 = 0x10000)) = true ∧
    reached (strongAt 2 (descOf 0x21 0 (0xA2 * 2 ^ 16 + 4) 0 0 0x10000 0) (aKey 1)) 0x21 (fun d _ => decide (nbits d.p0 24 3 = 0) &&
      decide (nbits d.p0 27 5 = 0) && decide (nbits d.p0 4 10 = 0) && decide (nbits d.p0 0 4 = 4) && decide (d.param 2 * 2 ^ 32 + d.param 1 = 0x10000)) = true ∧
    reached (strongAt 2 (descOf 0x22 0 0 0 0 0 0) (aKey 1)) 0x22 (fun _ t => decide (t.rd R.STRONG_DBG_STATUS_PERM = 0)) = true ∧
    reached (strongAt 2 (descOf 0x23 0 1 0 0 0 0) (aKey 1)) 0x23 (fun d t => decide (d.p0 ≤ 1) && (t.keyAt 7).live) = true ∧
    reached (strongAt 2 (descOf 0x24 0 2 0 0 0 0) (aKey 1)) 0x24 (fun d t => decide (d.p0 < 4) && decide (t.strong.boot.map Prod.fst ≠ some d.p0) &&
      decide (1 ∉ t.strong.revoked)) = true ∧
    (let s := (strongAt 2 (descOf 0x24 0 2 0 0 0 0) (aKey 1)).setStrong { (strongAt 2 (descOf 0x24 0 2 0 0 0 0) (aKey 1)).strong with revoked := [0, 1, 3] }
     reached s 0x24 (fun d t => (List.range 4).all (fun i => i == d.p0 || t.strong.revoked.contains i))) = true ∧
    (let s := (strongAt 2 (descOf 0x25 0 64 0 0 0 0) (aKey 1)).setStrong { (strongAt 2 (descOf 0x25 0 64 0 0 0 0) (aKey 1)).strong with boot := some (1, 64) }
     reached s 0x25 (fun d t => decide (d.p0 < 128) && decide (¬ (64 < d.p0 ∨ (t.strong.boot.map Prod.snd).getD 0 < d.p0)))) = true := by
  refine ⟨?_, ?_, ?_, ?_, ?_, ?_, ?_, ?_⟩ <;> decide +kernel

theorem test_witness_StrongQueuesOfficerAndStates :
    (State.reset.bit (R.STRONG_Q_CFG_BOUND 0) = true ∧ State.reset.rd (R.STRONG_Q_CFG_MID 0) = (0xB1 : Mid).toNat ∧ State.reset.bit (R.STRONG_Q_CFG_BOUND 2) = false ∧
      State.reset.strongSt = 0 ∧ State.reset.strong.restarted = false) ∧
    ((State.reset.decideRes 0 (Claims.okOut 3)).strong.ends.get 0 = some (Claims.okOut 3) ∧
      ((State.reset.decideRes 0 (Claims.okOut 3)).dmaWrite strongMid 60 (clean (bytesOf32 (2 ^ 31 + 3)))).1 = true) ∧
    (let s := (strongAt 0 (descOf 2 0 0 0 0 0 0) (aKey 1))
     (s.wr R.STRONG_STATUS_STATE 2).strongDue 0 = true ∧ (s.wr R.STRONG_STATUS_STATE 2).strongSt = 2 ∧ (s.wr R.STRONG_STATUS_STATE 3).strongDue 0 = true ∧
      (s.wr R.STRONG_STATUS_STATE 3).strongSt = 3 ∧ s.strongDue 0 = true ∧ s.strongSt = 1 ∧
      (match s.strongFetch 0 with
       | (.ok d, _) => decide (d.op ∈ serviceOps) && d.formed && !keyless d.op && !roleOk d.op (s.rd (R.STRONG_Q_CFG_ROLE 0))
       | _ => false) = true ∧
      (match (s.writeWords 0 [⟨0, true⟩]).strongFetch 0 with | (.error 6, _) => true | _ => false) = true) ∧
    (let s := (State.reset.wr R.STRONG_STATUS_STATE 1).setStrong { State.reset.strong with challenge := some (List.replicate 32 1, 0), zeroing := true, restarted := true }
     bitOf 3 1 = true ∧ bitOf 3 0 = true ∧ s.strongSt = 1 ∧ s.strong.zeroing = true ∧ s.strong.challenge = some (List.replicate 32 1, 0) ∧
      (let t := s.setStp { s.stp with now := 60 * 1000000000 * 65536 }
       0 + 60 * 1000000000 * 65536 ≤ t.stp.now) ∧ (s.wr R.STRONG_STATUS_STATE 0).strongSt = 0 ∧ (s.wr R.STRONG_STATUS_STATE 0).strong.restarted = true) := by
  refine ⟨?_, ?_, ?_, ?_⟩ <;> decide +kernel

/-! ## Power-up, self-test and the Crier state (21) -/

/-- Reset with what the boot logic holds. -/
def bootAt (b : Boot) : State := State.reset.setBoot (fun _ => b)

/-- A header with MAGIC, KIND 1 and LENGTH 8, and an image of it. -/
def bootHeader : List Nat := [0x53, 0x4B, 0x49, 0x4D, 1, 0, 0, 0, 0, 0, 0, 0, 0, 0, 0, 0, 8, 0, 0, 0] ++ List.replicate 124 0

/-- The boot has reached the verification of a slot's image. -/
def verifyAt : State := (bootAt { t0 := some 0, fused := true, tested := true, filled := true, lbist := true, slot := some (bootHeader, List.replicate 96 0) }).wr
  R.STRONG_STATUS_STATE 1

theorem test_witness_BootSequenceAndRelease_steps :
    (State.reset.boot.t0 = none ∧ State.reset.pwr.tripped = false) ∧
    ((bootAt { t0 := some 0 }).booting = true ∧ (bootAt { t0 := some 0 }).boot.fused = false ∧ (bootAt { t0 := some 0 }).boot.bad = []) ∧
    ((bootAt { t0 := some 0, bad := [(3, 1)] }).booting = true ∧ (bootAt { t0 := some 0, bad := [(3, 1)] }).boot.fused = false ∧
      (bootAt { t0 := some 0, bad := [(3, 1)] }).boot.bad = [((3 : Fin 16).val, (1 : Fin 9).val)] ∧ (1 : Fin 9) ≠ 4) ∧
    ((bootAt { t0 := some 0, fused := true }).booting = true ∧ (bootAt { t0 := some 0, fused := true }).boot.tested = false) ∧
    ((bootAt { t0 := some 0, tested := true }).booting = true ∧ (bootAt { t0 := some 0, tested := true }).boot.filled = false ∧
      ((bootAt { t0 := some 0, tested := true }).wr R.HEARTH_STRAPS_RECOVERY 1).bit R.HEARTH_STRAPS_RECOVERY = true) ∧
    ((bootAt { t0 := some 0, filled := true }).booting = true ∧ (bootAt { t0 := some 0, filled := true }).boot.lbist = false) ∧
    (let s := (bootAt { t0 := some 0 }).setStp { State.reset.stp with now := 880 * 65536000000 }
     s.boot.t0 = some 0 ∧ s.booting = true ∧ s.boot.verified = false ∧ 0 + 880 * 65536000000 ≤ s.stp.now) := by
  refine ⟨?_, ?_, ?_, ?_, ?_, ?_, ?_⟩ <;> decide +kernel

theorem test_witness_BootSequenceAndRelease_images :
    (let s := bootAt { t0 := some 0, filled := true }
     s.booting = true ∧ s.boot.filled = true ∧ s.boot.verified = false ∧ s.boot.slot = none ∧ s.bit R.HEARTH_STRAPS_RECOVERY = false ∧
      s.rd R.HEARTH_STRAPS_BOOT ≠ 2 ∧ s.boot.tried.length < 2 ∧ 144 ≤ bootHeader.length ∧ (le32 36 bootHeader).getD 0 0 = 0x4D494B53 ∧
      (le32 36 bootHeader).getD 4 0 ≤ 196608) ∧
    (Claims.mayVerify verifyAt ∧ verifyAt.bit R.HEARTH_STRAPS_RECOVERY = false ∧ verifyAt.rd R.HEARTH_STRAPS_BOOT ≠ 2 ∧
      verifyAt.boot.slot = some (bootHeader, List.replicate 96 0)) ∧
    (Claims.mayVerify (verifyAt.wr R.HEARTH_STRAPS_RECOVERY 1) ∧ (verifyAt.wr R.HEARTH_STRAPS_RECOVERY 1).bit R.HEARTH_STRAPS_RECOVERY = true ∧
      (verifyAt.wr R.HEARTH_STRAPS_RECOVERY 1).recoveryImage.2.2 = some 1) ∧
    (Claims.mayVerify (verifyAt.wr R.HEARTH_STRAPS_BOOT 2) ∧ (verifyAt.wr R.HEARTH_STRAPS_BOOT 2).rd R.HEARTH_STRAPS_BOOT = 2) := by
  refine ⟨?_, ⟨⟨?_, ?_, ?_, .inl ?_⟩, ?_⟩, ⟨⟨?_, ?_, ?_, .inl ?_⟩, ?_⟩, ⟨⟨?_, ?_, ?_, .inl ?_⟩, ?_⟩⟩ <;> decide +kernel

theorem test_witness_BootSequenceAndRelease_release :
    (let s := bootAt { t0 := some 0, verified := true }
     s.booting = true ∧ s.boot.verified = true ∧ s.inCrier = false) ∧
    (let s := ((State.reset.wr (R.CELLAR_STACK_STATUS_TRAINED 0) 1).wr (R.CELLAR_STACK_STATUS_TRAINED 1) 1)
     s.inCrier = false ∧ s.bit (R.CELLAR_STACK_STATUS_TRAINED 0) = true ∧ s.bit (R.CELLAR_STACK_STATUS_TRAINED 1) = true ∧
      (let u := (s.wr (R.CELLAR_STACK_STATUS_FILLED 0) 1).wr (R.CELLAR_STACK_STATUS_FILLED 1) 1
       (∀ k < 2, u.bit (R.CELLAR_STACK_STATUS_TRAINED k) = true ∧ u.bit (R.CELLAR_STACK_STATUS_FILLED k) = true) ∧
        (∀ b < 64, u.rd (R.GRANARY_BANK_PWR_STATE b) = 0) ∧ (∀ h < 16, ∀ c < 8, u.physOf h c ≤ 8) ∧ u.rd R.HEARTH_RELEASE_HALL = 0 ∧
        u.rd R.HEARTH_RELEASE_HAMLET = 0) ∧ (s.wr (R.GRANARY_BANK_PWR_STATE 63) 2).rd (R.GRANARY_BANK_PWR_STATE 63) ≠ 0) := by
  refine ⟨?_, ?_⟩ <;> decide +kernel

theorem test_witness_CrierStateAndRecovery :
    ((bootAt { crierDue := some (16, 7) }).boot.crierDue = some (16, 7) ∧ (bootAt { crierDue := some (16, 7) }).inCrier = false) ∧
    ((bootAt { crierAt := some 0 }).inCrier = true ∧ (bootAt { crierAt := some 0 }).boot.line = none ∧ State.reset.inCrier = false) ∧
    (let s := (bootAt { crierAt := some 0, line := some 0 }).setStp { State.reset.stp with now := 990 * 65536000000 }
     s.inCrier = true ∧ s.boot.line = some 0 ∧ 0 + 990 * 65536000000 ≤ s.stp.now) ∧
    (2 ≤ (State.reset.wr R.HEARTH_BOOT_STATUS_STEP 2).rd R.HEARTH_BOOT_STATUS_STEP) ∧
    ((bootAt { crierAt := some 0 }).rd R.HEARTH_BOOT_STATUS_CAUSE ≠ 13 ∧ ((bootAt { crierAt := some 0 }).wr R.HEARTH_BOOT_STATUS_CAUSE 13).rd R.HEARTH_BOOT_STATUS_CAUSE = 13 ∧
      bitsOf 0x52430001 16 16 = 0x5243 ∧ bitOf 0x52430001 0 = true ∧ bitsOf 0x52440001 16 16 ≠ 0x5243) := by
  refine ⟨?_, ?_, ?_, ?_, ?_⟩ <;> decide +kernel

/-! ## Replacing parts in service (22) -/

/-- Reset with logical core 5 of hamlet 3 disabled and HALTED. -/
def takeAt : State := (State.reset.wr (R.REEVE_CORE_EN_EN 3) 0xDF).setRcore 3 5 { st := .halted }
/-- A takeover of it runs. -/
def takingAt : State := { takeAt with hml := { takeAt.hml with takeover := Tab.set ⟨[]⟩ 3 (some (5, true)) } }

theorem test_witness_ServiceReplacement :
    (bitOf 0xC0000005 31 = true ∧ bitsOf 0xC0000005 0 4 = 5 ∧ bitsOf 0xC0000005 4 26 = 0 ∧ takeAt.coreEn 3 5 = false ∧ (takeAt.rcore 3 5).st = .halted ∧
      takeAt.rd (R.HAMLET_SPARE_STATUS_STATE 3) = 0 ∧ takeAt.bit (R.HAMLET_SPARE_STATUS_BUSY 3) = false ∧ takeAt.takeCause 3 0xC0000006 ≠ 0) ∧
    (takingAt.hml.takeover.get 3 = some (5, true) ∧ takingAt.physOf 3 5 = 5 ∧ takingAt.physOf 3 8 = 8) ∧
    ((4 : Word).toNat = 2 ^ 2 ∧ State.reset.readmitCause 2 = 0 ∧
      State.readmitCause { State.reset with hml := { State.reset.hml with released := [2] } } 2 = 3 ∧ State.reset.ms.failCores.get 2 = 0 ∧ ∀ c < 9, State.reset.physOf 2 c ≤ 8) ∧
    ((1 : Fin 16).val < engCount 2 ∧ nbit ((State.reset.wr (engEn 2) 0).rd (engEn 2)) 1 = false ∧ (State.reset.wr (engEn 2) 0).jobs 2 1 = [] ∧
      (State.reset.wr (engEn 2) 0).rd (ucodeState 2 1) ≠ 1 ∧ nbit (State.reset.rd (engEn 2)) 1 = true ∧
      (State.reset.wr (ucodeState 2 1) 1).rd (ucodeState 2 1) = 1) ∧
    (bitsOf 0x48578000 16 16 = 0x4857 ∧ bitOf 0x48578000 15 = true ∧ State.reset.inCrier = false ∧ State.reset.rd R.HEARTH_HANDOVER_RESULT ≠ 1 ∧
      (State.reset.wr R.HEARTH_HANDOVER_RESULT 1).rd R.HEARTH_HANDOVER_RESULT = 1) := by
  refine ⟨?_, ?_, ?_, ?_, ?_⟩ <;> decide +kernel

/-! ## Power domains, resets, throttling (23) -/

/-- Reset with power domain `d` in state `st`. -/
def domAt (d st : Nat) : State := State.reset.domTo d st

theorem test_witness_PowerDomains :
    ((bitOf 5 2 = true ∧ bitsOf 5 0 2 = 1) ∧ (bitOf 4 2 = true ∧ bitsOf 4 0 2 = 0)) ∧
    ((∀ st < 5, (domAt 20 st).domSt 20 = st) ∧ State.reset.domSt 47 = 0) ∧
    (selfDomain 0xA1 28 = true ∧ State.reset.domSt 28 = 0) ∧
    ((State.reset.wr R.REEVE_CTRL_ENABLE 1).mayPowerOff 33 = false ∧ State.reset.mayPowerOff 33 = true ∧ selfDomain 0xA1 33 = false ∧
      State.reset.heldPlan 33 = false ∧ State.reset.gateCause 20 false = 0 ∧ State.reset.mayPowerOff 20 = true ∧ State.reset.heldPlan 20 = false) ∧
    ((domAt 40 1).mayPowerOn 40 = true ∧ ((domAt 40 1).domTo 39 1).mayPowerOn 40 = false ∧ ((domAt 40 1).domTo 39 1).domSt 40 = 1 ∧ selfDomain 0 40 = false) ∧
    ((domAt 20 4).heldPlan 20 = false ∧ selfDomain (BitVec.ofNat 8 ((domAt 20 4).pwr.holder.get 20)) 20 = false ∧
      ((domAt 20 4).domTo 20 0).mayPowerOff 20 = true ∧ ((domAt 20 4).domTo 20 0).gateCause 20 false = 0) ∧
    ((domAt 7 2).domSt 7 = 2 ∧ (domAt 7 3).domSt 7 = 3 ∧ (domAt 45 2).domSt 45 = 2) := by
  refine ⟨?_, ?_, ?_, ?_, ?_, ?_, ?_⟩ <;> decide +kernel

/-- A Market entry of an armed plan holds domain 39 while its MACs are off. -/
theorem test_witness_PowerDomains_held :
    let s := (((domAt 40 1).domTo 41 1)).setGroup 0 { armed := [{ id := 0, seq := 0, commitNs := 0, slot := 0, wtag := 0, sweepNs := 0, part1 := [0] }] }
    s.domSt 39 = 0 ∧ selfDomain 0xB1 39 = false ∧ s.mayPowerOff 39 = true ∧ s.heldPlan 39 = true ∧ (s.domTo 39 4).heldPlan 39 = true := by
  decide +kernel

theorem test_witness_ResetsAndThrottling_reset :
    (resetMid 0xB1 = true ∧ resetMid 0xB0 = false ∧ bitsOf 0x52538000 16 16 = 0x5253 ∧ bitOf 0x52538000 15 = true ∧ bitOf 0x52538000 14 = false ∧
      bitOf 0x52538000 13 = false ∧ bitOf 0x5253E000 14 = true ∧ bitOf 0x5253E000 13 = true ∧ bitOf 0x5253A000 14 = false) ∧
    (let s := (State.reset.wr R.EWL_PARISH_IN_PARISH 1).wr R.HEARTH_RESET_TICK 4000
     s.bit R.EWL_PARISH_IN_PARISH = true ∧ s.rd R.EWL_PARISH_MEMBER = 0 ∧ leadTicks s.tick (s.rd R.HEARTH_RESET_TICK) = 4000 ∧ 4000 ≤ maxLead ∧
      leadTicks State.reset.tick (State.reset.rd R.HEARTH_RESET_TICK) < 2500 ∧ State.reset.bit R.EWL_PARISH_IN_PARISH = false) ∧
    (let s := State.reset.wr R.HEARTH_RESET_STATUS_ARMED 1
     let p : State := { s with pwr := { s.pwr with parish := true } }
     s.bit R.HEARTH_RESET_STATUS_ARMED = true ∧ passed s.tick (s.rd R.HEARTH_RESET_TICK) = true ∧ s.pwr.parish = false ∧ p.pwr.parish = true ∧
      p.bit R.HEARTH_RESET_STATUS_ARMED = true) ∧
    ((∀ n < 24, State.reset.temp n < 500) ∧ (500 : Int) ≤ (State.reset.wr (R.HEARTH_TEMP_TEMP 3) 500).temp 3 ∧ State.reset.pwr.tripped = false) := by
  refine ⟨?_, ?_, ?_, ?_⟩ <;> decide +kernel

theorem test_witness_ResetsAndThrottling_units :
    (let s : State := { State.reset.wr (R.REEVE_CORE_EN_EN 3) 0xDF with hml := { State.reset.hml with released := [3] } }
     bitsOf 0x20030500 29 3 = 1 ∧ s.rd R.HEARTH_UNIT_RESET_STATE ≠ 1 ∧ bitsOf 0x20030500 16 8 = 3 ∧ bitsOf 0x20030500 8 8 = 5 ∧ bitsOf 0x20030500 0 8 = 0 ∧
      s.logicalOf 3 5 = 5 ∧ s.coreEn 3 5 = false ∧ s.hamletOpen 3 = true ∧ 3 ∈ s.hml.released) ∧
    (bitsOf 0x20100500 29 3 = 1 ∧ 16 ≤ bitsOf 0x20100500 16 8 ∧ (State.reset.wr R.HEARTH_UNIT_RESET_STATE 1).rd R.HEARTH_UNIT_RESET_STATE = 1) ∧
    (bitsOf 0x40000F00 29 3 = 2 ∧ bitsOf 0x40000F00 8 8 = 15 ∧ bitsOf 0x40000F00 0 8 = 0 ∧ (0xA0 : Mid).toNat ≠ 0xA0 + 15) ∧
    (bitsOf 0x60011F00 29 3 = 3 ∧ bitsOf 0x60011F00 16 8 = 1 ∧ bitsOf 0x60011F00 8 8 = 31 ∧ bitsOf 0x60011F00 0 8 = 0 ∧ State.reset.domSt 46 = 0) ∧
    (let s := State.reset
     moveLevel s.pwr.thermal ((List.range 24).any (fun n => decide (4 * s.throttleC ≤ s.temp n))) ((List.range 24).all (fun n => decide (s.temp n < 4 * (s.throttleC - 5)))) = 0 ∧
      moveLevel s.pwr.power (decide (s.limitW * 1000 < 200000)) (decide (200000 + 5000 < s.limitW * 1000)) = 1 ∧ s.rd R.HEARTH_THROTTLE_LEVEL = 0) := by
  refine ⟨?_, ?_, ?_, ?_, ?_⟩ <;> decide +kernel

/-! ## Observability and debug (24) -/

/-- Reset with the exporter on for the tap and probe 2, a record in each, and its ring in the Granary. -/
def exporting : State :=
  let s := (((State.reset.wr R.TRACE_CFG_EN 1).wr R.TRACE_CFG_SIZE_LOG2 8).wr R.TRACE_SRC_EN0 4).wr R.TRACE_SRC_EN1 1
  { s with net := { s.net with traces := s.net.traces.set 2 [[1, 2, 3, 4]] }, dbg := { s.dbg with tap := [[5, 6, 7, 8]] } }

theorem test_witness_TracesEventsAndBoundaryScan_export :
    (exporting.exports 32 = true ∧ State.reset.exports 32 = false) ∧
    (exporting.exports 2 = true ∧ exporting.traceRecords 2 = [1, 2, 3, 4] :: [] ∧ exporting.traceFull = false ∧ exporting.traceDue 32 = true ∧
      (exporting.dmaWrite hearthMid exporting.traceAddr (clean (([2 ^ 31 + 2 * 2 ^ 24 + min (exporting.dbg.lost.get 2) 65535, 0, 0, 0] ++ [1, 2, 3, 4]).flatMap bytesOf32))).1 = true) ∧
    (let s := exporting.wr R.TRACE_BASE_HI_ADDR 0xF0
     s.traceDue 2 = true ∧
      (s.dmaWrite hearthMid s.traceAddr (clean (([2 ^ 31 + 2 * 2 ^ 24 + min (s.dbg.lost.get 2) 65535, 0, 0, 0] ++ (s.traceRecords 2).headD []).flatMap bytesOf32))).1 = false) ∧
    exporting.traceDue 0 = false := by
  refine ⟨?_, ?_, ?_, ?_⟩ <;> decide +kernel

/-- Reset with `n` entries in the Hearth event queue and one event of the given priority raised. -/
def eventsAt (n : Nat) (high : Bool) : State :=
  { State.reset with dbg := { State.reset.dbg with queue := List.replicate n [0, 0, 0, 0], raised := [(⟨1, 2, high, 3, 4⟩, 9)] } }

theorem test_witness_TracesEventsAndBoundaryScan_events :
    ((eventsAt 255 true).dbg.raised = (⟨1, 2, true, 3, 4⟩, 9) :: [] ∧ (eventsAt 255 true).dbg.queue.length < 256) ∧
    ((eventsAt 223 false).dbg.queue.length < 224 ∧ 224 ≤ (eventsAt 224 false).dbg.queue.length ∧ 256 ≤ (eventsAt 256 true).dbg.queue.length) ∧
    ((0xC0 : Mid) ≠ 0xB1) ∧
    ((0xFF : BitVec 8).toNat ∉ [0x00, 0x01, 0x02, 0x03, 0x04, 0x10] ∧ (0x05 : BitVec 8).toNat ∉ [0x00, 0x01, 0x02, 0x03, 0x04, 0x10]) := by
  refine ⟨?_, ?_, ?_, ?_⟩ <;> decide +kernel

/-- Reset with Hearth firmware and telemetry on, its ring in the Granary. -/
def telemetryOn : State :=
  let s := (((State.reset.wr R.TELEM_CFG_EN 1).wr R.TELEM_CFG_SIZE_LOG2 6).wr R.TELEM_CFG_IRQ_EN 1).wr R.TELEM_BASE_ADDR 64
  { s with boot := { s.boot with verified := true } }

theorem test_witness_TracesEventsAndBoundaryScan_telemetry :
    let s := telemetryOn
    let x := s.dmaWrite hearthMid (s.rd R.TELEM_BASE_ADDR * 64 + s.rd R.TELEM_PROD % 64 * 32) (clean ((s.sample 20000).flatMap bytesOf32))
    (s.bit R.TELEM_CFG_EN = true ∧ s.rd R.HEARTH_HANDOVER_RESULT ≠ 1 ∧ s.boot.verified = true ∧ s.inCrier = false) ∧
    (s.rd R.TELEM_CFG_SIZE_LOG2 = 6 ∧ ringHeld (s.rd R.TELEM_PROD) (s.rd R.TELEM_CONS) ≠ 64 ∧ x.1 = true ∧ s.bit R.TELEM_CFG_IRQ_EN = true) ∧
    (ringHeld ((s.wr R.TELEM_PROD 64).rd R.TELEM_PROD) (s.rd R.TELEM_CONS) = 2 ^ 6 ∧ State.reset.bit R.TELEM_CFG_EN = false) := by
  decide +kernel

theorem test_witness_CoreDebug :
    ((State.reset.core 3).dbgHalt = false ∧ ((State.reset.modCore 3 (fun c => { c with run := .running })).core 3).run ≠ .held ∧
      ((State.reset.core 0).run = .held)) ∧
    (let s := State.reset.modCore 150 (fun c => { c with dbgHalt := true })
     (s.core 150).dbgHalt = true ∧ bitOf 0x00000005 31 = false ∧ bitOf 0xC0000005 31 = true ∧ bitsOf 0xC0000005 12 4 = 0 ∧ bitsOf 0xC0000005 0 12 = 5 ∧
      bitsOf 0xC000001F 0 12 = 31 ∧ s.rd (dbgSel 150).2.2.2 = (0 : Word).toNat ∧ dbgNames 150 (bitsOf 0x80006000 12 4) (bitsOf 0x80006000 0 12) = false) := by
  refine ⟨?_, ?_⟩ <;> decide +kernel

/-! ## Register accesses (25) -/

def setSecHi : RegDef := { name := "STEEPLE_SET_SEC_HI", base := 0x44000030, dims := [], fields := [] }

/-- The register at an address. -/
def regOf (a : Nat) : RegDef := (regAt a).getD setSecHi

theorem test_witness_RegisterAccesses_reached :
    (∀ a ∈ [0x44000030, 0x44000034, 0x44000004, 0x4A002210, 0x41000004, 0x4A000004], State.reset.regRefuse a = none ∧ isStreamWindow a = false ∧
      regAt a = some (regOf a) ∧ (regOf a).bytes = 4) ∧
    ((State.reset.ownWrite (regOf 0x44000030) (busAddr 0x44000030) 7 0xC0 default).isNone = true ∧
      (State.reset.ownWrite (regOf 0x44000004) (busAddr 0x44000004) 7 0xC0 default).isNone = true ∧
      (State.reset.ownWrite (regOf 0x40000008) (busAddr 0x40000008) 7 0xC0 default).isSome = true) := by
  refine ⟨?_, ?_⟩ <;> decide +kernel

theorem test_witness_RegisterAccesses_refused :
    (State.reset.regRefuse 0x51010000 = none ∧ isStreamWindow 0x51010000 = true) ∧
    (let s : State := { State.reset with boot := { State.reset.boot with crierAt := some 0 } }
     s.regRefuse 0x40040000 = none ∧ isStreamWindow 0x40040000 = true ∧ State.reset.regRefuse 0x40040000 = some (Claims.abortedBy 7)) ∧
    (regNi 0x53000000 = none ∧ regNi 0x44000030 = some 17) ∧
    ((regAt 0x53000000).isSome = false ∧ inReg 0x53000000 = false ∧ State.reset.regRefuse 0x53000000 = some ⟨.deadTarget, 3, []⟩) ∧
    (∀ st ∈ [3, 4, 5], (State.reset.wr (R.COMMONS_RTR_PORT_STATUS_STATE (17 / 4) (4 + 17 % 4)) st).portSt (17 / 4) (4 + 17 % 4) = st) ∧
    (State.reset.portSt (17 / 4) (4 + 17 % 4) < 3 ∧ regAt 0x44FFFFF0 = none ∧ isStreamWindow 0x44FFFFF0 = false) := by
  refine ⟨?_, ?_, ?_, ?_, ?_, ?_⟩ <;> decide +kernel

theorem test_witness_RegisterAccesses_pairs :
    (State.reset.takeOnce 0x44000030).isNone = true ∧ (State.reset.takeOnce 0x44000034).isNone = true ∧
    (0x44000030 % 8 = 0) ∧ (0x44000032 / 4 * 4 = 0x44000030 ∧ 0x44000032 % 4 + 2 ≤ 4 ∧ isStreamWindow 0x44000032 = false) ∧
    (0x44000034 / 8 ≠ (0x44000034 + 8 - 1) / 8 ∧ isReadWindow 0x44000034 = false) ∧
    (busAddr 0x44000030 ≠ R.STEEPLE_NOW_TICK.addr ∧ ¬ ((R.COPPICE_READBACK_DATA 0).addr ≤ 0x44000030 ∧ 0x44000030 < (R.COPPICE_READBACK_DATA 256).addr)) ∧
    ((regOf 0x4A002210).is (R.MARKET_PORT_STATUS_STATE 0) = false ∧ (regOf 0x4A002210).is (R.MARKET_TS_CAP 0 0) = false) := by
  decide +kernel

end Sys2Proof.Tests
end

/-! ## Steeple ticks (R21, R22)

The half-range order is a fact about the wrapping count `leadTicks` from one tick value to the other, whose two directions add up
to a multiple of 2^32: at most one of them falls short of half the range, and both are exactly half of it at the distance 2^31. -/

namespace Sys2Proof.Machine

theorem tickMod_eq_two_pow : tickMod = 2 ^ 32 := by norm_num [tickMod]

/-- A tick is 2^18 units of 2^-16 ns, and a second is a whole number of ticks, so NS alone is rounded down. -/
theorem timeUnits_div_tickUnits (sec ns frac : Nat) (hfrac : frac ≤ 65535) :
    ((sec * 1000000000 + ns) * 65536 + frac) / 262144 = sec * 250000000 + ns / 4 := by
  omega

/-- R21, for every SEC and NS. -/
theorem State.tick_of_now {s : State} {sec ns frac : Nat} (hfrac : frac ≤ 65535)
    (hnow : s.stp.now = (sec * 1000000000 + ns) * 65536 + frac) : s.tick = (sec * 250000000 + ns / 4) % 2 ^ 32 := by
  rw [State.tick, hnow, timeUnits_div_tickUnits sec ns frac hfrac, tickMod_eq_two_pow]

theorem leadTicks_eq_sub_mod {t : Nat} (ht : t < 2 ^ 32) (d : Nat) : leadTicks t d = (d + 2 ^ 32 - t) % 2 ^ 32 := by
  rw [leadTicks, tickMod_eq_two_pow, Nat.mod_eq_of_lt ht, Nat.add_sub_assoc ht.le]

/-- The counts of the two directions add up to 0 or to the whole range. -/
theorem leadTicks_comm (a b : Nat) : leadTicks b a = (2 ^ 32 - leadTicks a b) % 2 ^ 32 := by
  simp only [leadTicks, tickMod_eq_two_pow]
  omega

theorem tickBefore_eq_true_iff (a b : Nat) : tickBefore a b = true ↔ 1 ≤ leadTicks a b ∧ leadTicks a b ≤ 2 ^ 31 - 1 := by
  simp [tickBefore, leadTicks]

/-- At or after is the complement of before, the tie at 2^31 included (R22). -/
theorem tickBefore_eq_false_iff (a b : Nat) : tickBefore a b = false ↔ leadTicks b a ≤ 2 ^ 31 := by
  have hlt : leadTicks a b < 2 ^ 32 := Nat.mod_lt _ (by decide)
  rw [← Bool.not_eq_true, tickBefore_eq_true_iff, leadTicks_comm a b]
  omega

/-- Settles O6, by the count of whole ticks in a time and the half-range order as a fact about `leadTicks`. -/
theorem tickOfTimeAndHalfRangeOrder : Obligations.TickOfTimeAndHalfRangeOrder := by
  refine ⟨fun s sec ns frac _ _ hfrac hnow => State.tick_of_now hfrac hnow, fun a b ha _ => ?_, fun a b _ hb => ?_⟩
  · rw [tickBefore_eq_true_iff, leadTicks_eq_sub_mod ha]
  · rw [tickBefore_eq_false_iff, leadTicks_eq_sub_mod hb]

end Sys2Proof.Machine

/-! ## The code of protected memory (R343 to R345)

C(d) is linear over exclusive-or, so the syndrome of a read is the exclusive-or of the columns of the inverted positions, and of
0xFE where the word was stored poisoned. Every column has odd weight, and so has 0xFE: one inverted position leaves its own column,
and any two of these (two positions, or poison and one position) leave a syndrome of even weight, which is neither. -/

namespace Sys2Proof.Machine

open Sys2Proof.Claims

/-- The columns of codeword positions 0 to 71: data bits, then check bits (R343). -/
def codeColumns : List Nat := columns ++ [1, 2, 4, 8, 16, 32, 64, 128]

/-- The column of codeword position `p` as a syndrome. -/
def column (p : Nat) : Byte := BitVec.ofNat 8 (codeColumns.getD p 0)

/-- The number of set bits among the lowest `n` is odd. -/
def oddBits (y : Byte) : Nat → Bool
  | 0 => false
  | n + 1 => oddBits y n ^^ y.getLsbD n

/-- The number of set bits is odd. -/
def oddWeight (y : Byte) : Bool := oddBits y 8

theorem oddBits_xor (a b : Byte) (n : Nat) : oddBits (a ^^^ b) n = (oddBits a n ^^ oddBits b n) := by
  induction n with
  | zero => rfl
  | succ n ih => simp only [oddBits, BitVec.getLsbD_xor, ih, Bool.xor_assoc, Bool.xor_left_comm (oddBits b n)]

theorem oddWeight_xor (a b : Byte) : oddWeight (a ^^^ b) = (oddWeight a ^^ oddWeight b) := oddBits_xor a b 8

/-! ### Columns and positions -/

theorem column_oddWeight : ∀ p < 72, oddWeight (column p) = true := by decide

theorem column_ne_poison : ∀ p < 72, column p ≠ 0xFE := by decide

theorem columnPos_column : ∀ p < 72, columnPos (column p).toNat = some p := by decide

theorem column_check : ∀ j < 8, column (64 + j) = BitVec.ofNat 8 (2 ^ j) := by decide

theorem column_inj {p q : Nat} (hp : p < 72) (hq : q < 72) (h : column p = column q) : p = q := by
  have hpos := columnPos_column p hp
  rw [h, columnPos_column q hq] at hpos
  exact (Option.some.inj hpos).symm

/-- The search among the data columns, then the check columns one by one, is a search in all 72. -/
theorem columnPos_eq_findIdx? (c : Nat) : columnPos c = codeColumns.findIdx? (fun x => x == c) := by
  have hlen : columns.length = 64 := rfl
  rw [codeColumns, List.findIdx?_append, columnPos, hlen]
  cases columns.findIdx? (fun x => x == c) with
  | some i => rfl
  | none => simp only [List.findIdx?_cons, beq_iff_eq, eq_comm (b := c)]; split_ifs <;> rfl

theorem column_of_columnPos {y : Byte} {p : Nat} (h : columnPos y.toNat = some p) : p < 72 ∧ column p = y := by
  rw [columnPos_eq_findIdx?, List.findIdx?_eq_some_iff_getElem] at h
  obtain ⟨hp, hy, -⟩ := h
  refine ⟨hp, ?_⟩
  rw [column, List.getD_eq_getElem _ _ hp, beq_iff_eq.mp hy, BitVec.ofNat_toNat, BitVec.setWidth_eq]

/-! ### What a syndrome decodes to -/

theorem eccOutcome_of_syndrome_zero {d : DWord} {c : Byte} (h : syndrome d c = 0) : eccOutcome d c = .clean := by
  simp [eccOutcome, h]

theorem eccOutcome_of_syndrome_poison {d : DWord} {c : Byte} (h : syndrome d c = 0xFE) : eccOutcome d c = .poison := by
  simp [eccOutcome, h]

theorem eccOutcome_of_syndrome_other {d : DWord} {c : Byte} (h0 : syndrome d c ≠ 0) (hfe : syndrome d c ≠ 0xFE) :
    eccOutcome d c = (columnPos (syndrome d c).toNat).elim .uncorrectable .corrected := by
  have h0' : (syndrome d c).toNat ≠ 0 := fun h => h0 (BitVec.eq_of_toNat_eq h)
  have hfe' : (syndrome d c).toNat ≠ 0xFE := fun h => hfe (BitVec.eq_of_toNat_eq h)
  simp only [eccOutcome, if_neg h0', if_neg hfe']
  cases columnPos (syndrome d c).toNat <;> rfl

theorem eccOutcome_of_syndrome_column {d : DWord} {c : Byte} {p : Nat} (hp : p < 72) (h : syndrome d c = column p) :
    eccOutcome d c = .corrected p := by
  have hodd := column_oddWeight p hp
  have h0 : column p ≠ 0 := fun hz => by rw [hz] at hodd; cases hodd
  rw [eccOutcome_of_syndrome_other (h ▸ h0) (h ▸ column_ne_poison p hp), h, columnPos_column p hp, Option.elim_some]

/-- Neither a column nor 0xFE has even weight. -/
theorem eccOutcome_of_syndrome_even {d : DWord} {c : Byte} (h0 : syndrome d c ≠ 0) (heven : oddWeight (syndrome d c) = false) :
    eccOutcome d c = .uncorrectable := by
  have hfe : syndrome d c ≠ 0xFE := fun h => by rw [h] at heven; cases heven
  have hnone : columnPos (syndrome d c).toNat = none := by
    cases hpos : columnPos (syndrome d c).toNat with
    | none => rfl
    | some p =>
      obtain ⟨hp, hcol⟩ := column_of_columnPos hpos
      rw [← hcol, column_oddWeight p hp] at heven
      cases heven
  rw [eccOutcome_of_syndrome_other h0 hfe, hnone, Option.elim_none]

theorem eccOutcome_of_syndrome_odd_xor_odd {d : DWord} {c x y : Byte} (h : syndrome d c = x ^^^ y) (hx : oddWeight x = true)
    (hy : oddWeight y = true) (hne : x ≠ y) : eccOutcome d c = .uncorrectable := by
  refine eccOutcome_of_syndrome_even ?_ ?_
  · rw [h]; exact fun hz => hne (BitVec.xor_eq_zero_iff.mp hz)
  · rw [h, oddWeight_xor, hx, hy]; rfl

theorem eccOutcome_of_double_error {d : DWord} {c : Byte} {p q : Nat} (hp : p < 72) (hq : q < 72) (hne : p ≠ q)
    (h : syndrome d c = column p ^^^ column q) : eccOutcome d c = .uncorrectable :=
  eccOutcome_of_syndrome_odd_xor_odd h (column_oddWeight p hp) (column_oddWeight q hq) (fun he => hne (column_inj hp hq he))

theorem eccOutcome_of_poison_error {d : DWord} {c : Byte} {p : Nat} (hp : p < 72) (h : syndrome d c = 0xFE ^^^ column p) :
    eccOutcome d c = .uncorrectable :=
  eccOutcome_of_syndrome_odd_xor_odd h rfl (column_oddWeight p hp) (column_ne_poison p hp).symm

theorem eccData_of_corrected {d : DWord} {c : Byte} {p : Nat} (h : eccOutcome d c = .corrected p) :
    eccData d c = ⟨flipBit d p, false⟩ := by
  rw [eccData, h]

theorem eccData_of_uncorrectable {d : DWord} {c : Byte} (h : eccOutcome d c = .uncorrectable) : eccData d c = ⟨d, true⟩ := by
  rw [eccData, h]

/-! ### The check byte is linear -/

theorem checkFrom_xor (a b : DWord) (i : Nat) (cs : List Nat) : checkFrom (a ^^^ b) i cs = checkFrom a i cs ^^^ checkFrom b i cs := by
  induction cs generalizing i with
  | nil => simp [checkFrom]
  | cons c cs ih =>
    have hhead : (if (a ^^^ b).getLsbD i then BitVec.ofNat 8 c else 0) =
        (if a.getLsbD i then BitVec.ofNat 8 c else 0) ^^^ (if b.getLsbD i then BitVec.ofNat 8 c else 0) := by
      cases ha : a.getLsbD i <;> cases hb : b.getLsbD i <;> simp [ha, hb]
    simp only [checkFrom, ih, hhead]
    ac_rfl

theorem getLsbD_bit {p : Nat} (hp : p < 64) (i : Nat) : ((1 : DWord) <<< p).getLsbD i = decide (i = p) := by
  rw [show (1 : DWord) <<< p = BitVec.twoPow 64 p from rfl, BitVec.getLsbD_twoPow, decide_eq_true hp, Bool.true_and]
  exact decide_eq_decide.mpr eq_comm

theorem checkFrom_bit {p : Nat} (hp : p < 64) (i : Nat) (cs : List Nat) :
    checkFrom ((1 : DWord) <<< p) i cs = if i ≤ p then BitVec.ofNat 8 (cs.getD (p - i) 0) else 0 := by
  induction cs generalizing i with
  | nil => simp [checkFrom]
  | cons c cs ih =>
    rw [checkFrom, ih, getLsbD_bit hp]
    obtain hlt | rfl | hgt := Nat.lt_trichotomy i p
    · obtain ⟨k, rfl⟩ := Nat.exists_eq_add_of_lt hlt
      simp [Nat.add_assoc, Nat.add_sub_add_left]
    · simp
    · simp [hgt.ne', hgt.not_ge, show ¬ i + 1 ≤ p by omega]

/-- The check byte of a single set bit is its column. -/
theorem checkByte_bit {p : Nat} (hp : p < 64) : checkByte ((1 : DWord) <<< p) = column p := by
  rw [checkByte, checkFrom_bit hp, if_pos p.zero_le, Nat.sub_zero, column, codeColumns, List.getD_append _ _ _ _ hp]

theorem flipBit_flipBit (d : DWord) (p : Nat) : flipBit (flipBit d p) p = d := by
  by_cases hp : p < 64
  · simp only [flipBit, if_pos hp, BitVec.xor_assoc, BitVec.xor_self, BitVec.xor_zero]
  · simp only [flipBit, if_neg hp]

theorem flipBit_check (d : DWord) (j : Nat) : flipBit d (64 + j) = d :=
  if_neg (by omega)

theorem checkByte_flipBit (d : DWord) {p : Nat} (hp : p < 64) : checkByte (flipBit d p) = checkByte d ^^^ column p := by
  rw [flipBit, if_pos hp, checkByte, checkFrom_xor, ← checkByte, ← checkByte, checkByte_bit hp]

/-! ### The syndrome adds up the columns of the inverted positions -/

theorem syndrome_checkByte (d : DWord) : syndrome d (checkByte d) = 0#8 := by
  rw [syndrome, BitVec.xor_self]

theorem syndrome_xor (d : DWord) (c e : Byte) : syndrome d (c ^^^ e) = syndrome d c ^^^ e := by
  simp only [syndrome]
  ac_rfl

theorem syndrome_check (d : DWord) (c : Byte) {j : Nat} (hj : j < 8) :
    syndrome d (c ^^^ BitVec.ofNat 8 (2 ^ j)) = syndrome d c ^^^ column (64 + j) := by
  rw [syndrome_xor, column_check j hj]

theorem syndrome_flipBit (d : DWord) (c : Byte) {p : Nat} (hp : p < 64) : syndrome (flipBit d p) c = syndrome d c ^^^ column p := by
  rw [syndrome, checkByte_flipBit d hp, ← BitVec.xor_assoc, ← syndrome]

theorem syndrome_flipBit_checkByte (d : DWord) {p : Nat} (hp : p < 64) : syndrome (flipBit d p) (checkByte d) = column p := by
  rw [syndrome_flipBit d _ hp, syndrome_checkByte, BitVec.zero_xor]

theorem syndrome_check_checkByte (d : DWord) {j : Nat} (hj : j < 8) :
    syndrome d (checkByte d ^^^ BitVec.ofNat 8 (2 ^ j)) = column (64 + j) := by
  rw [syndrome_check d _ hj, syndrome_checkByte, BitVec.zero_xor]

theorem encodeCheck_clean (d : DWord) : encodeCheck ⟨d, false⟩ = checkByte d := if_neg Bool.false_ne_true

theorem encodeCheck_poison (d : DWord) : encodeCheck ⟨d, true⟩ = checkByte d ^^^ 0xFE := if_pos rfl

theorem syndrome_poison (d : DWord) : syndrome d (encodeCheck ⟨d, true⟩) = 0xFE := by
  rw [encodeCheck_poison, syndrome_xor, syndrome_checkByte, BitVec.zero_xor]

theorem eccData_encodeCheck (w : PWord) : eccData w.data (encodeCheck w) = w := by
  obtain ⟨d, mark⟩ := w
  cases mark with
  | false => rw [eccData, encodeCheck_clean, eccOutcome_of_syndrome_zero (syndrome_checkByte d)]
  | true => rw [eccData, eccOutcome_of_syndrome_poison (syndrome_poison d)]

/-! ### The bits of the check byte -/

theorem foldl_xor_init {α : Type} (f : α → Bool) (l : List α) (b : Bool) :
    l.foldl (fun x i => x ^^ f i) b = (b ^^ l.foldl (fun x i => x ^^ f i) false) := by
  induction l generalizing b with
  | nil => simp
  | cons a l ih => simp only [List.foldl_cons, ih (b ^^ f a), Bool.false_xor, ih (f a), Bool.xor_assoc]

theorem getLsbD_checkFrom (d : DWord) {j : Nat} (hj : j < 8) (i : Nat) (cs : List Nat) : (checkFrom d i cs).getLsbD j =
    ((List.range cs.length).filter (fun k => (cs.getD k 0).testBit j)).foldl (fun x k => x ^^ d.getLsbD (i + k)) false := by
  induction cs generalizing i with
  | nil => simp [checkFrom]
  | cons c cs ih =>
    have htail := ih (i + 1)
    have hshift (k : Nat) : i + 1 + k = i + (k + 1) := by omega
    simp only [hshift] at htail
    have hcol : (BitVec.ofNat 8 c).getLsbD j = c.testBit j := by rw [BitVec.getLsbD_ofNat, decide_eq_true hj, Bool.true_and]
    rw [checkFrom, BitVec.getLsbD_xor, htail, List.length_cons, List.range_succ_eq_map, List.filter_cons, List.filter_map]
    cases hc : c.testBit j <;> cases hd : d.getLsbD i <;>
      simp [hc, hd, hcol, List.foldl_map, Function.comp_def, foldl_xor_init _ _ true]

theorem dataColumns_eq_columns : dataColumns = columns := rfl

theorem getLsbD_checkByte (d : DWord) {j : Nat} (hj : j < 8) : (checkByte d).getLsbD j =
    ((List.range 64).filter (fun i => (dataColumns.getD i 0).testBit j)).foldl (fun x i => x ^^ d.getLsbD i) false := by
  rw [dataColumns_eq_columns, checkByte, getLsbD_checkFrom d hj]
  simp only [Nat.zero_add]
  rfl

/-- Settles O31: the syndrome of each error pattern is the exclusive-or of the columns of its positions, which the weight decides. -/
theorem eccCorrectsOneErrorDetectsTwo : Obligations.EccCorrectsOneErrorDetectsTwo := by
  refine ⟨fun d j hj => getLsbD_checkByte d hj, fun d => ⟨encodeCheck_clean d, encodeCheck_poison d⟩, eccData_encodeCheck,
    fun d p hp => ?_, fun d j hj => ?_, fun d p q hp hq hne => ?_, fun d p j hp hj => ?_, fun d i j hi hj hne => ?_,
    fun d p hp => ?_, fun d j hj => ?_⟩
  · have hout : eccOutcome (flipBit d p) (checkByte d) = .corrected p :=
      eccOutcome_of_syndrome_column (by omega) (syndrome_flipBit_checkByte d hp)
    exact ⟨hout, by rw [eccData_of_corrected hout, flipBit_flipBit]⟩
  · have hout : eccOutcome d (checkByte d ^^^ BitVec.ofNat 8 (2 ^ j)) = .corrected (64 + j) :=
      eccOutcome_of_syndrome_column (by omega) (syndrome_check_checkByte d hj)
    exact ⟨hout, by rw [eccData_of_corrected hout, flipBit_check]⟩
  · exact eccOutcome_of_double_error (p := p) (q := q) (by omega) (by omega) hne (by
      rw [syndrome_flipBit _ _ hq, syndrome_flipBit_checkByte d hp])
  · exact eccOutcome_of_double_error (p := p) (q := 64 + j) (by omega) (by omega) (by omega) (by
      rw [syndrome_check _ _ hj, syndrome_flipBit_checkByte d hp])
  · exact eccOutcome_of_double_error (p := 64 + i) (q := 64 + j) (by omega) (by omega) (by omega) (by
      rw [syndrome_check _ _ hj, syndrome_check_checkByte d hi])
  · have hout : eccOutcome (flipBit d p) (encodeCheck ⟨d, true⟩) = .uncorrectable :=
      eccOutcome_of_poison_error (p := p) (by omega) (by rw [syndrome_flipBit _ _ hp, syndrome_poison])
    exact ⟨hout, by rw [eccData_of_uncorrectable hout]⟩
  · have hout : eccOutcome d (encodeCheck ⟨d, true⟩ ^^^ BitVec.ofNat 8 (2 ^ j)) = .uncorrectable :=
      eccOutcome_of_poison_error (p := 64 + j) (by omega) (by rw [syndrome_check _ _ hj, syndrome_poison])
    exact ⟨hout, eccData_of_uncorrectable hout⟩

end Sys2Proof.Machine

/-! ## What a command answers and which parts it may change

`Completes l s o` is the rule that every command's meaning meets: it answers a next state, which differs from `s` in the parts
`l` only and keeps the canonical forms. One theorem per command; the operations that a meaning calls come in by their laws. -/

namespace Sys2Proof.Machine

-- One declaration after another: many proofs at a time need more threads' stacks than the check's memory limit leaves room for.
set_option Elab.async false

open Sys2Proof.Claims

variable {l l' : List Part} {s t : State} {o : Outc}

/-- The meaning answers a next state that differs in the parts `l` only and keeps the canonical forms. -/
def Completes (l : List Part) (s : State) (o : Outc) : Prop := ∃ t, o = .next t ∧ Keeps l s t

theorem completes_next (h : Keeps l s t) : Completes l s (.next t) := ⟨t, rfl, h⟩

theorem completes_ite {c : Prop} [Decidable c] {a b : Outc} (ha : Completes l s a) (hb : Completes l s b) :
    Completes l s (if c then a else b) := by
  split
  · exact ha
  · exact hb

theorem Completes.trans (h : Keeps l s t) (k : Completes l t o) : Completes l s o := by
  obtain ⟨u, ho, hu⟩ := k
  exact ⟨u, ho, h.trans hu⟩

/-- No command changes the queue, so that a command's parts are among the others. -/
theorem Completes.every (k : Completes l s o) (hl : ∀ p ∈ l, p ≠ .pending := by decide) : Completes every s o := by
  obtain ⟨u, ho, hu⟩ := k
  refine ⟨u, ho, hu.mono fun p hp => ?_⟩
  have := hl p hp
  cases p <;> first | decide | contradiction

theorem Part.mem_of_elem {p : Part} (h : l.elem p = true) : p ∈ l := List.mem_of_elem_eq_true h

theorem keeps_clearRange (h : Keeps l s t) (h_regs : Part.regs ∈ l) (a b : Nat) :
    Keeps l s { t with regs := t.regs.clearRange a b } := by
  refine h.trans ⟨fun p hp => ?_, id, RegFile.wf_clearRange t.regs a b⟩
  cases p <;> first | rfl | exact absurd h_regs hp

/-- A service that keeps what the state before it kept, for every descriptor (R544). -/
theorem completes_service (h : Keeps l s t) (h_regs : Part.regs ∈ l) (h_hallIrq : Part.hallIrq ∈ l) (h_mem : Part.mem ∈ l)
    (h_ms : Part.ms ∈ l) (h_dbg : Part.dbg ∈ l) (h_strong : Part.strong ∈ l) (q op : Nat) (f : StrongDesc → State → StrongResult × State)
    (hf : ∀ d u, Keeps l s u → Keeps l s (f d u).2) : Completes l s (t.service q op f) := by
  have hfetch : Keeps l s (t.strongFetch q).2 := keeps_strongFetch h h_regs h_hallIrq h_mem h_ms h_dbg q
  unfold State.service
  refine completes_ite (completes_next h) ?_
  split
  · exact completes_next h
  next d u hx =>
    rw [hx] at hfetch
    refine completes_ite (completes_next h) ?_
    split
    · exact completes_next h
    · exact completes_next (keeps_decideRes (hf d u hfetch) h_strong q _)

theorem completes_kilnWork (h : Keeps l s t) (h_regs : Part.regs ∈ l) (h_hallIrq : Part.hallIrq ∈ l) (h_free : Part.free ∈ l)
    (h_ws : Part.ws ∈ l) (h_mem : Part.mem ∈ l) (h_ms : Part.ms ∈ l) (h_dbg : Part.dbg ∈ l) (op e n : Nat) :
    Completes l s (t.kilnWork op e n) := by
  have hunit : ∀ u j, Keeps l s u → Keeps l s (u.kilnUnit j).2 :=
    fun u j hu => keeps_kilnUnit hu h_regs h_hallIrq h_free h_mem h_ms h_dbg j
  unfold State.kilnWork
  split
  · exact completes_ite (completes_next (keeps_workUnits h h_regs h_ws 0 e _ hunit _ n)) (completes_next h)
  · exact completes_next h

theorem completes_wmWork (h : Keeps l s t) (h_regs : Part.regs ∈ l) (h_hallIrq : Part.hallIrq ∈ l) (h_free : Part.free ∈ l)
    (h_ws : Part.ws ∈ l) (h_mem : Part.mem ∈ l) (h_ms : Part.ms ∈ l) (h_dbg : Part.dbg ∈ l) (w op e n : Nat) :
    Completes l s (t.wmWork w op e n) := by
  have hwheel : ∀ u j, Keeps l s u → Keeps l s (u.wheelUnit j).2 :=
    fun u j hu => keeps_wheelUnit hu h_regs h_hallIrq h_free h_mem h_ms h_dbg j
  have hmill : ∀ u j, Keeps l s u → Keeps l s (u.millUnit j).2 :=
    fun u j hu => keeps_millUnit hu h_regs h_hallIrq h_free h_mem h_ms h_dbg j
  unfold State.wmWork
  split
  · refine completes_ite (completes_next (keeps_ite ?_ ?_)) (completes_next h)
    · exact keeps_workUnits h h_regs h_ws 1 e _ hwheel _ n
    · exact keeps_workUnits h h_regs h_ws 2 e _ hmill _ n
  · exact completes_next h

theorem completes_execCounterReadClear (a : BitVec 40) (jtag : Bool) (s : State) :
    Completes [.regs, .ans, .hallIrq, .reeve, .ms, .tally, .crt, .dbg] s (execCounterReadClear a jtag s) := by
  unfold execCounterReadClear
  repeat' (first
    | with_reducible exact Keeps.refl _ _ | exact Part.mem_of_elem rfl | with_reducible apply completes_next
    | with_reducible apply keeps_regRead)

theorem completes_execAtomicToRegister (a : BitVec 40) (s : State) :
    Completes [.ans] s (execAtomicToRegister a s) := by
  unfold execAtomicToRegister
  repeat' (first
    | with_reducible exact Keeps.refl _ _ | exact Part.mem_of_elem rfl | with_reducible apply completes_next
    | with_reducible apply keeps_refusedAns)

theorem completes_execLgStart (group : Fin 64) (v : Word) (hashDiffers : Bool) (s : State) :
    Completes [.regs, .ans, .stp] s (execLgStart group v hashDiffers s) := by
  unfold execLgStart
  repeat' (first
    | with_reducible exact Keeps.refl _ _ | exact Part.mem_of_elem rfl | with_reducible apply completes_ite
    | with_reducible apply completes_next | with_reducible apply keeps_ite | with_reducible apply keeps_wr
    | with_reducible apply keeps_ack | with_reducible apply keeps_lgStart)

theorem completes_execLgStop (group : Fin 64) (v : Word) (s : State) :
    Completes [.regs, .ans, .hallIrq, .stp, .reeve, .tally, .dbg] s (execLgStop group v s) := by
  unfold execLgStop
  repeat' (first
    | with_reducible exact Keeps.refl _ _ | exact Part.mem_of_elem rfl | with_reducible apply completes_ite
    | with_reducible apply completes_next | with_reducible apply keeps_ite | with_reducible apply keeps_wr
    | with_reducible apply keeps_ack | with_reducible apply keeps_setGroup | with_reducible apply keeps_withdrawAll)

theorem completes_execLgStartStopBoth (group : Fin 64) (v : Word) (s : State) :
    Completes [.ans] s (execLgStartStopBoth group v s) := by
  unfold execLgStartStopBoth
  repeat' (first
    | with_reducible exact Keeps.refl _ _ | exact Part.mem_of_elem rfl | with_reducible apply completes_next
    | with_reducible apply keeps_ack)

theorem completes_execLgTddSwap (group : Fin 64) (v : Word) (s : State) :
    Completes [.regs, .ans, .stp] s (execLgTddSwap group v s) := by
  unfold execLgTddSwap
  repeat' (first
    | with_reducible exact Keeps.refl _ _ | exact Part.mem_of_elem rfl | with_reducible apply completes_ite
    | with_reducible apply completes_next | with_reducible apply keeps_ite | with_reducible apply keeps_wr
    | with_reducible apply keeps_ack | with_reducible apply keeps_setGroup)

theorem completes_execLgActionBoundaryStart (group : Fin 64) (s : State) :
    Completes [.regs, .stp] s (execLgActionBoundaryStart group s) := by
  unfold execLgActionBoundaryStart
  repeat' (first
    | with_reducible exact Keeps.refl _ _ | exact Part.mem_of_elem rfl | with_reducible apply completes_ite
    | with_reducible apply completes_next | with_reducible apply keeps_ite | with_reducible apply keeps_wr
    | with_reducible apply keeps_setGroup | with_reducible apply keeps_showSlot)

theorem completes_execLgActionBoundaryStop (group : Fin 64) (s : State) :
    Completes [.regs, .hallIrq, .stp, .reeve, .tally, .dbg] s (execLgActionBoundaryStop group s) := by
  unfold execLgActionBoundaryStop
  repeat' (first
    | with_reducible exact Keeps.refl _ _ | exact Part.mem_of_elem rfl | with_reducible apply completes_ite
    | with_reducible apply completes_next | with_reducible apply keeps_ite | with_reducible apply keeps_setGroup
    | with_reducible apply keeps_showSlot | with_reducible apply keeps_withdrawAll)

theorem completes_execLgReturnIdle (group : Fin 64) (s : State) :
    Completes [.regs, .stp] s (execLgReturnIdle group s) := by
  unfold execLgReturnIdle
  repeat' (first
    | with_reducible exact Keeps.refl _ _ | exact Part.mem_of_elem rfl | with_reducible apply completes_ite
    | with_reducible apply completes_next | with_reducible apply keeps_ite | with_reducible apply keeps_wr
    | with_reducible apply keeps_setGroup)

theorem completes_execSlotBoundary (group : Fin 64) (s : State) :
    Completes [.regs, .stp] s (execSlotBoundary group s) := by
  unfold execSlotBoundary
  repeat' (first
    | with_reducible exact Keeps.refl _ _ | exact Part.mem_of_elem rfl | with_reducible apply completes_ite
    | with_reducible apply completes_next | with_reducible apply keeps_ite | with_reducible apply keeps_setGroup
    | with_reducible apply keeps_showSlot)

theorem completes_execTddSwapApply (group : Fin 64) (s : State) :
    Completes [.regs] s (execTddSwapApply group s) := by
  unfold execTddSwapApply
  repeat' (first
    | with_reducible exact Keeps.refl _ _ | exact Part.mem_of_elem rfl | with_reducible apply completes_ite
    | with_reducible apply completes_next | with_reducible apply keeps_ite | with_reducible apply keeps_wr)

theorem completes_execPlanArm (group : Fin 64) (v : Word) (bells : List BellEntry) (poison5 reject5 : Bool) (s : State) :
    Completes [.regs, .ans, .hallIrq, .free, .stp, .reeve, .ms, .tally, .dbg] s (execPlanArm group v bells poison5 reject5 s) := by
  unfold execPlanArm
  repeat' (first
    | with_reducible exact Keeps.refl _ _ | exact Part.mem_of_elem rfl | with_reducible apply completes_next
    | with_reducible apply keeps_ack | with_reducible apply keeps_planArm)

theorem completes_execPlanCommit (group : Fin 64) (s : State) :
    Completes [.regs, .hallIrq, .hostIrq, .stp, .cores, .reeve, .sv, .net, .tally, .crt, .mkt, .dbg] s (execPlanCommit group s) := by
  unfold execPlanCommit
  repeat' (first
    | with_reducible exact Keeps.refl _ _ | exact Part.mem_of_elem rfl | with_reducible apply completes_ite
    | with_reducible apply completes_next | with_reducible apply keeps_ite | with_reducible apply keeps_inc
    | with_reducible apply keeps_addWindow | with_reducible apply keeps_planOutcome | with_reducible apply keeps_setArmed
    | with_reducible apply keeps_planParts | dsimp only | split)

theorem completes_execPlanWithdraw (group : Fin 64) (seq : Word) (s : State) :
    Completes [.regs, .ans, .hallIrq, .stp, .reeve, .tally, .dbg] s (execPlanWithdraw group seq s) := by
  unfold execPlanWithdraw
  repeat' (first
    | with_reducible assumption | with_reducible exact Keeps.refl _ _ | exact Part.mem_of_elem rfl | intro _
    | with_reducible apply completes_ite | with_reducible apply completes_next | with_reducible apply keeps_ite
    | with_reducible apply keeps_wr | with_reducible apply keeps_ack | with_reducible apply keeps_withdrawn | dsimp only | split)

theorem completes_execSlotSweep (group : Fin 64) (wtag : Fin 16) (s : State) :
    Completes [.regs, .hallIrq, .hostIrq, .stp, .cores, .reeve, .tally, .dbg] s (execSlotSweep group wtag s) := by
  unfold execSlotSweep
  repeat' (first
    | with_reducible assumption | with_reducible exact Keeps.refl _ _ | exact Part.mem_of_elem rfl | intro _
    | with_reducible apply completes_ite | with_reducible apply completes_next | with_reducible apply keeps_ite
    | with_reducible apply keeps_add | with_reducible apply keeps_setGroup | with_reducible apply keeps_reeveSweep | dsimp only | split)

theorem completes_execSweepResidueReport (group : Fin 64) (s : State) :
    Completes [.regs, .hallIrq, .stp, .reeve] s (execSweepResidueReport group s) := by
  unfold execSweepResidueReport
  repeat' (first
    | with_reducible assumption | with_reducible exact Keeps.refl _ _ | exact Part.mem_of_elem rfl | intro _
    | with_reducible apply completes_ite | with_reducible apply completes_next | with_reducible apply keeps_ite
    | with_reducible apply keeps_wr | with_reducible apply keeps_irq | with_reducible apply keeps_setGroup
    | with_reducible apply keeps_freeWindowTag | dsimp only | split)

theorem completes_execResidueClear (group : Fin 64) (v : Word) (s : State) :
    Completes [.regs, .ans, .reeve] s (execResidueClear group v s) := by
  unfold execResidueClear
  repeat' (first
    | with_reducible assumption | with_reducible exact Keeps.refl _ _ | exact Part.mem_of_elem rfl | intro _
    | with_reducible apply completes_ite | with_reducible apply completes_next | with_reducible apply keeps_ite
    | with_reducible apply keeps_wr | with_reducible apply keeps_ack | with_reducible apply keeps_freeWindowTag)

theorem completes_execSteepleStep (v : Word) (s : State) :
    Completes [.regs, .ans, .stp, .dbg] s (execSteepleStep v s) := by
  unfold execSteepleStep
  repeat' (first
    | with_reducible exact Keeps.refl _ _ | exact Part.mem_of_elem rfl | with_reducible apply completes_ite
    | with_reducible apply completes_next | with_reducible apply keeps_ite | with_reducible apply keeps_wr
    | with_reducible apply keeps_ack | with_reducible apply keeps_setStp | with_reducible apply keeps_dpllCtrl)

theorem completes_execSteepleLatch (s : State) :
    Completes [.regs, .ans] s (execSteepleLatch s) := by
  unfold execSteepleLatch
  repeat' (first
    | with_reducible exact Keeps.refl _ _ | exact Part.mem_of_elem rfl | with_reducible apply completes_next
    | with_reducible apply keeps_wr | with_reducible apply keeps_ack)

theorem completes_execDpllPhaseUpdate (src : Fin 8) (err filtered : Int) (freq : Word) (s : State) :
    Completes [.regs, .stp, .dbg] s (execDpllPhaseUpdate src err filtered freq s) := by
  unfold execDpllPhaseUpdate
  repeat' (first
    | with_reducible exact Keeps.refl _ _ | exact Part.mem_of_elem rfl | with_reducible apply completes_next
    | with_reducible apply keeps_dpllUpdate)

theorem completes_execSteeplePtpOffsetWrite (v : Word) (filtered : Int) (freq : Word) (s : State) :
    Completes [.regs, .ans, .stp, .dbg] s (execSteeplePtpOffsetWrite v filtered freq s) := by
  unfold execSteeplePtpOffsetWrite
  repeat' (first
    | with_reducible exact Keeps.refl _ _ | exact Part.mem_of_elem rfl | with_reducible apply completes_next
    | with_reducible apply keeps_ack | with_reducible apply keeps_dpllUpdate)

theorem completes_execDpllHoldoverEntry (valid : List (Fin 8)) (s : State) :
    Completes [.regs, .stp, .dbg] s (execDpllHoldoverEntry valid s) := by
  unfold execDpllHoldoverEntry
  repeat' (first
    | with_reducible assumption | with_reducible exact Keeps.refl _ _ | exact Part.mem_of_elem rfl | intro _
    | with_reducible apply completes_ite | with_reducible apply completes_next | with_reducible apply keeps_ite
    | with_reducible apply keeps_setStp | with_reducible apply keeps_dpllTo | with_reducible apply keeps_dpllAcquire | dsimp only | split)

theorem completes_execDpllSourceWrite (v : Word) (s : State) :
    Completes [.regs, .ans, .stp] s (execDpllSourceWrite v s) := by
  unfold execDpllSourceWrite
  repeat' (first
    | with_reducible exact Keeps.refl _ _ | exact Part.mem_of_elem rfl | with_reducible apply completes_ite
    | with_reducible apply completes_next | with_reducible apply keeps_ite | with_reducible apply keeps_ack
    | with_reducible apply keeps_wrWord | with_reducible apply keeps_setStp)

theorem completes_execReplicaLost (domain : Fin 106) (s : State) :
    Completes [.regs, .stp, .dbg] s (execReplicaLost domain s) := by
  unfold execReplicaLost
  repeat' (first
    | with_reducible exact Keeps.refl _ _ | exact Part.mem_of_elem rfl | with_reducible apply completes_ite
    | with_reducible apply completes_next | with_reducible apply keeps_ite | with_reducible apply keeps_wr
    | with_reducible apply keeps_raise | with_reducible apply keeps_setLost)

theorem completes_execReplicaResync (domain : Fin 106) (s : State) :
    Completes [.regs, .stp] s (execReplicaResync domain s) := by
  unfold execReplicaResync
  repeat' (first
    | with_reducible exact Keeps.refl _ _ | exact Part.mem_of_elem rfl | with_reducible apply completes_next
    | with_reducible apply keeps_setLost)

theorem completes_execBellCfgWrite (bell : Fin 64) (v : Word) (s : State) :
    Completes [.regs, .ans, .stp] s (execBellCfgWrite bell v s) := by
  unfold execBellCfgWrite
  repeat' (first
    | with_reducible exact Keeps.refl _ _ | exact Part.mem_of_elem rfl | with_reducible apply completes_ite
    | with_reducible apply completes_next | with_reducible apply keeps_ite | with_reducible apply keeps_ack
    | with_reducible apply keeps_wrWord | with_reducible apply keeps_bellCfg)

theorem completes_execBellEdge (bell : Fin 64) (s : State) :
    Completes [.hallIrq, .stp] s (execBellEdge bell s) := by
  unfold execBellEdge
  repeat' (first
    | with_reducible exact Keeps.refl _ _ | exact Part.mem_of_elem rfl | with_reducible apply completes_ite
    | with_reducible apply completes_next | with_reducible apply keeps_ite | with_reducible apply keeps_setBell
    | with_reducible apply keeps_bellPulse | dsimp only | split)

theorem completes_execPpsOutPulse (k : Fin 2) (s : State) :
    Completes [.stp] s (execPpsOutPulse k s) := by
  unfold execPpsOutPulse
  repeat' (first
    | with_reducible assumption | with_reducible exact Keeps.refl _ _ | exact Part.mem_of_elem rfl | intro _
    | with_reducible apply completes_ite | with_reducible apply completes_next | with_reducible apply keeps_ite
    | with_reducible apply keeps_fresh | with_reducible apply keeps_setStp)

theorem completes_execCaptureEdge (p : Fin 18) (falling : Bool) (s : State) :
    Completes [.regs, .stp] s (execCaptureEdge p falling s) := by
  unfold execCaptureEdge
  repeat' (first
    | with_reducible exact Keeps.refl _ _ | exact Part.mem_of_elem rfl | with_reducible apply completes_ite
    | with_reducible apply completes_next | with_reducible apply keeps_ite | with_reducible apply keeps_wr
    | with_reducible apply keeps_showCap)

theorem completes_execCapPop (p : Fin 18) (s : State) :
    Completes [.regs, .ans, .stp] s (execCapPop p s) := by
  unfold execCapPop
  repeat' (first
    | with_reducible exact Keeps.refl _ _ | exact Part.mem_of_elem rfl | with_reducible apply completes_next
    | with_reducible apply keeps_ack | with_reducible apply keeps_showCap)

theorem completes_execSheafIssue (core : Fin 161) (sys : List SysOp) (answers : List SyncAns) (s : State) :
    Completes [.regs, .hallIrq, .hostIrq, .cores, .querns, .reeve, .mem, .ms, .tally, .boot, .dbg] s (execSheafIssue core sys answers s) := by
  unfold execSheafIssue
  repeat' (first
    | with_reducible exact Keeps.refl _ _ | exact Part.mem_of_elem rfl | with_reducible apply completes_next
    | with_reducible apply keeps_issue)

theorem completes_execInterruptTake (core : Fin 161) (s : State) :
    Completes [.regs, .hallIrq, .hostIrq, .cores, .querns, .reeve, .tally, .boot, .dbg] s (execInterruptTake core s) := by
  unfold execInterruptTake
  repeat' (first
    | with_reducible assumption | with_reducible exact Keeps.refl _ _ | exact Part.mem_of_elem rfl | intro _
    | with_reducible apply completes_ite | with_reducible apply completes_next | with_reducible apply keeps_ite
    | with_reducible apply keeps_irq | with_reducible apply keeps_setCore | with_reducible apply keeps_irqTaken
    | with_reducible apply keeps_takeDeferred | dsimp only | split)

theorem completes_execTickCompareMatch (core : Fin 161) (s : State) :
    Completes [.cores] s (execTickCompareMatch core s) := by
  unfold execTickCompareMatch
  repeat' (first
    | with_reducible exact Keeps.refl _ _ | exact Part.mem_of_elem rfl | with_reducible apply completes_ite
    | with_reducible apply completes_next | with_reducible apply keeps_ite | with_reducible apply keeps_coreIrq)

theorem completes_execSoftwareInterrupt (core : Fin 161) (s : State) :
    Completes [.cores] s (execSoftwareInterrupt core s) := by
  unfold execSoftwareInterrupt
  repeat' (first
    | with_reducible exact Keeps.refl _ _ | exact Part.mem_of_elem rfl | with_reducible apply completes_next
    | with_reducible apply keeps_coreIrq)

theorem completes_execLoadAnswer (core : Fin 161) (n : Nat) (given : Option Answer) (s : State) :
    Completes [.regs, .hallIrq, .cores, .mem, .ms, .dbg] s (execLoadAnswer core n given s) := by
  unfold execLoadAnswer
  repeat' (first
    | with_reducible assumption | with_reducible exact Keeps.refl _ _ | exact Part.mem_of_elem rfl | intro _
    | with_reducible apply completes_ite | with_reducible apply completes_next | with_reducible apply keeps_ite
    | with_reducible apply keeps_modCore | with_reducible apply keeps_answerValue | refine Keeps.snd_eq (by assumption) ?_ | dsimp only
    | split)

theorem completes_execStoreAnswer (core : Fin 161) (n : Nat) (given : Option Answer) (s : State) :
    Completes [.regs, .hallIrq, .cores, .mem, .ms, .dbg] s (execStoreAnswer core n given s) := by
  unfold execStoreAnswer
  repeat' (first
    | with_reducible assumption | with_reducible exact Keeps.refl _ _ | exact Part.mem_of_elem rfl | intro _
    | with_reducible apply completes_ite | with_reducible apply completes_next | with_reducible apply keeps_ite
    | with_reducible apply keeps_modCore | with_reducible apply keeps_serveWrite | dsimp only | split)

theorem completes_execImemWrite (r : WriteReq) (s : State) :
    Completes [.regs, .ans, .hallIrq, .free, .mem, .ms, .dbg] s (execImemWrite r s) := by
  unfold execImemWrite
  repeat' (first
    | with_reducible exact Keeps.refl _ _ | exact Part.mem_of_elem rfl | with_reducible apply completes_next
    | with_reducible apply keeps_busWrite)

theorem completes_execImemFlipArm (h : Fin 16) (c : Fin 9) (v : Word) (s : State) :
    Completes [.regs] s (execImemFlipArm h c v s) := by
  unfold execImemFlipArm
  repeat' (first
    | with_reducible exact Keeps.refl _ _ | exact Part.mem_of_elem rfl | with_reducible apply completes_ite
    | with_reducible apply completes_next | with_reducible apply keeps_ite | with_reducible apply keeps_wr)

theorem completes_execImemFlipDisarm (h : Fin 16) (c : Fin 9) (v : Word) (s : State) :
    Completes [.regs] s (execImemFlipDisarm h c v s) := by
  unfold execImemFlipDisarm
  repeat' (first
    | with_reducible exact Keeps.refl _ _ | exact Part.mem_of_elem rfl | with_reducible apply completes_ite
    | with_reducible apply completes_next | with_reducible apply keeps_ite | with_reducible apply keeps_wr)

theorem completes_execImemFlipApply (h : Fin 16) (c : Fin 9) (s : State) :
    Completes [.regs] s (execImemFlipApply h c s) := by
  unfold execImemFlipApply
  repeat' (first
    | with_reducible exact Keeps.refl _ _ | exact Part.mem_of_elem rfl | with_reducible apply completes_ite
    | with_reducible apply completes_next | with_reducible apply keeps_ite | with_reducible apply keeps_flipNow)

theorem completes_execQuernJobStart (h : Fin 16) (s : State) :
    Completes [.regs, .hallIrq, .querns, .ms, .dbg] s (execQuernJobStart h s) := by
  unfold execQuernJobStart
  repeat' (first
    | with_reducible exact Keeps.refl _ _ | exact Part.mem_of_elem rfl | with_reducible apply completes_next
    | with_reducible apply keeps_quernStart)

theorem completes_execQuernJobEnd (h : Fin 16) (s : State) :
    Completes [.regs, .querns, .mem] s (execQuernJobEnd h s) := by
  unfold execQuernJobEnd
  repeat' (first
    | with_reducible exact Keeps.refl _ _ | exact Part.mem_of_elem rfl | with_reducible apply completes_next
    | with_reducible apply keeps_quernFinish)

theorem completes_execReeveSubmitCmd (port : Fin 16) (v : Word) (s : State) :
    Completes [.regs, .hallIrq, .hostIrq, .cores, .reeve, .ms, .tally, .dbg] s (execReeveSubmitCmd port v s) := by
  unfold execReeveSubmitCmd
  repeat' (first
    | with_reducible assumption | with_reducible exact Keeps.refl _ _ | exact Part.mem_of_elem rfl | intro _
    | with_reducible apply completes_ite | with_reducible apply completes_next | with_reducible apply keeps_ite
    | with_reducible apply keeps_wr | with_reducible apply keeps_settle | with_reducible apply keeps_settleAll
    | with_reducible apply keeps_newArrival | with_reducible apply keeps_looseCheck | with_reducible apply keeps_setPort
    | with_reducible apply keeps_takeSlot | refine Keeps.snd_eq (by assumption) ?_ | dsimp only | split)

theorem completes_execReeveSubmitOutcome (port : Fin 16) (s : State) :
    Completes [.regs, .reeve] s (execReeveSubmitOutcome port s) := by
  unfold execReeveSubmitOutcome
  repeat' (first
    | with_reducible exact Keeps.refl _ _ | exact Part.mem_of_elem rfl | with_reducible apply completes_ite
    | with_reducible apply completes_next | with_reducible apply keeps_ite | with_reducible apply keeps_wr
    | with_reducible apply keeps_setPort | dsimp only | split)

theorem completes_execReeveSubmitResultTake (port : Fin 16) (wide : Bool) (s : State) :
    Completes [.ans, .reeve] s (execReeveSubmitResultTake port wide s) := by
  unfold execReeveSubmitResultTake
  repeat' (first
    | with_reducible assumption | with_reducible exact Keeps.refl _ _ | exact Part.mem_of_elem rfl | intro _
    | with_reducible apply completes_ite | with_reducible apply completes_next | with_reducible apply keeps_ite
    | with_reducible apply keeps_reply | with_reducible apply keeps_setPort | with_reducible apply keeps_execReeveSubmitResultTake
    | dsimp only | split)

theorem completes_execReeveDecr (v : Word) (s : State) :
    Completes [.regs, .hallIrq, .hostIrq, .cores, .reeve, .tally, .dbg] s (execReeveDecr v s) := by
  unfold execReeveDecr
  repeat' (first
    | with_reducible exact Keeps.refl _ _ | exact Part.mem_of_elem rfl | with_reducible apply completes_next
    | with_reducible apply keeps_decrIssue | with_reducible apply keeps_applyToken | with_reducible apply keeps_newArrival)

theorem completes_execDecrementArrival (n : Nat) (s : State) :
    Completes [.regs, .hallIrq, .hostIrq, .cores, .reeve, .tally, .dbg] s (execDecrementArrival n s) := by
  unfold execDecrementArrival
  repeat' (first
    | with_reducible exact Keeps.refl _ _ | exact Part.mem_of_elem rfl | with_reducible apply completes_next
    | with_reducible apply keeps_applyToken | with_reducible apply keeps_newArrival | dsimp only | split
    | with_reducible apply keeps_set_reeve)

theorem completes_execReeveAbort (v : Word) (s : State) :
    Completes [.regs, .hallIrq, .hostIrq, .cores, .reeve, .tally, .dbg] s (execReeveAbort v s) := by
  unfold execReeveAbort
  repeat' (first
    | with_reducible exact Keeps.refl _ _ | exact Part.mem_of_elem rfl | with_reducible apply completes_next
    | with_reducible apply keeps_abortItem)

theorem completes_execItemDispatch (h : Fin 16) (c : Fin 9) (s : State) :
    Completes [.regs, .hallIrq, .hostIrq, .cores, .reeve, .tally, .dbg] s (execItemDispatch h c s) := by
  unfold execItemDispatch
  repeat' (first
    | with_reducible assumption | with_reducible exact Keeps.refl _ _ | exact Part.mem_of_elem rfl | intro _
    | with_reducible apply completes_ite | with_reducible apply completes_next | with_reducible apply keeps_ite
    | with_reducible apply keeps_foldl | with_reducible apply keeps_foldl | with_reducible apply keeps_setItem
    | with_reducible apply keeps_withdraw | with_reducible apply keeps_lapseIfPassed | with_reducible apply keeps_beginItem | dsimp only
    | split)

theorem completes_execItemDeadlineLapse (slot : Fin 4096) (s : State) :
    Completes [.regs, .hallIrq, .hostIrq, .cores, .reeve, .tally, .dbg] s (execItemDeadlineLapse slot s) := by
  unfold execItemDeadlineLapse
  repeat' (first
    | with_reducible exact Keeps.refl _ _ | exact Part.mem_of_elem rfl | with_reducible apply completes_next
    | with_reducible apply keeps_lapseIfPassed)

theorem completes_execHardItemKill (slot : Fin 4096) (s : State) :
    Completes [.regs, .hallIrq, .hostIrq, .cores, .reeve, .tally, .dbg] s (execHardItemKill slot s) := by
  unfold execHardItemKill
  repeat' (first
    | with_reducible exact Keeps.refl _ _ | exact Part.mem_of_elem rfl | with_reducible apply completes_ite
    | with_reducible apply completes_next | with_reducible apply keeps_ite | with_reducible apply keeps_killItem | dsimp only | split)

theorem completes_execPreemptSelect (slot : Fin 4096) (s : State) :
    Completes [.regs, .cores, .reeve] s (execPreemptSelect slot s) := by
  unfold execPreemptSelect
  repeat' (first
    | with_reducible assumption | with_reducible exact Keeps.refl _ _ | exact Part.mem_of_elem rfl | intro _
    | with_reducible apply completes_ite | with_reducible apply completes_next | with_reducible apply keeps_ite
    | with_reducible apply keeps_foldl | with_reducible apply keeps_foldl | with_reducible apply keeps_modRcore
    | with_reducible apply keeps_coreIrq | refine Keeps.snd_eq (by assumption) ?_ | dsimp only | split)

theorem completes_execPreemptWithdraw (h : Fin 16) (c : Fin 9) (s : State) :
    Completes [.regs, .cores, .reeve] s (execPreemptWithdraw h c s) := by
  unfold execPreemptWithdraw
  repeat' (first
    | with_reducible assumption | with_reducible exact Keeps.refl _ _ | exact Part.mem_of_elem rfl | intro _
    | with_reducible apply completes_ite | with_reducible apply completes_next | with_reducible apply keeps_ite
    | with_reducible apply keeps_withdraw | refine Keeps.snd_eq (by assumption) ?_ | dsimp only | split)

theorem completes_execItemResume (h : Fin 16) (c : Fin 9) (s : State) :
    Completes [.regs, .cores, .reeve, .dbg] s (execItemResume h c s) := by
  unfold execItemResume
  repeat' (first
    | with_reducible exact Keeps.refl _ _ | exact Part.mem_of_elem rfl | with_reducible apply completes_next
    | with_reducible apply keeps_tapEvent | with_reducible apply keeps_enterHeld | dsimp only | split)

theorem completes_execPreemptedKillReentry (h : Fin 16) (c : Fin 9) (s : State) :
    Completes [.regs, .cores, .reeve] s (execPreemptedKillReentry h c s) := by
  unfold execPreemptedKillReentry
  repeat' (first
    | with_reducible exact Keeps.refl _ _ | exact Part.mem_of_elem rfl | with_reducible apply completes_next
    | with_reducible apply keeps_enterHeld | dsimp only | split)

theorem completes_execCoreDoneArrival (h : Fin 16) (c : Fin 9) (s : State) :
    Completes [.regs, .hallIrq, .hostIrq, .cores, .reeve, .tally, .dbg] s (execCoreDoneArrival h c s) := by
  unfold execCoreDoneArrival
  repeat' (first
    | with_reducible assumption | with_reducible exact Keeps.refl _ _ | exact Part.mem_of_elem rfl | intro _
    | with_reducible apply completes_ite | with_reducible apply completes_next | with_reducible apply keeps_ite
    | with_reducible apply keeps_inc | with_reducible apply keeps_modCore | with_reducible apply keeps_setItem
    | with_reducible apply keeps_release | with_reducible apply keeps_setRcore | with_reducible apply keeps_modRcore
    | with_reducible apply keeps_coreUnirq | with_reducible apply keeps_conclude | with_reducible apply keeps_settleAll
    | with_reducible apply keeps_newArrival | with_reducible apply keeps_idleCore | with_reducible apply keeps_withdrawn | dsimp only
    | split)

theorem completes_execLapseHandlerOverrun (h : Fin 16) (c : Fin 9) (s : State) :
    Completes [.regs, .hallIrq, .cores, .querns, .reeve, .tally, .dbg] s (execLapseHandlerOverrun h c s) := by
  unfold execLapseHandlerOverrun
  repeat' (first
    | with_reducible assumption | with_reducible exact Keeps.refl _ _ | exact Part.mem_of_elem rfl | intro _
    | with_reducible apply completes_ite | with_reducible apply completes_next | with_reducible apply keeps_ite
    | with_reducible apply keeps_wr | with_reducible apply keeps_irq | with_reducible apply keeps_modRcore
    | with_reducible apply keeps_withdraw | with_reducible apply keeps_cutItem | dsimp only | split)

theorem completes_execOverrunCoreRelease (h : Fin 16) (c : Fin 9) (v : Word) (s : State) :
    Completes [.regs, .cores, .reeve] s (execOverrunCoreRelease h c v s) := by
  unfold execOverrunCoreRelease
  repeat' (first
    | with_reducible exact Keeps.refl _ _ | exact Part.mem_of_elem rfl | with_reducible apply completes_ite
    | with_reducible apply completes_next | with_reducible apply keeps_ite | with_reducible apply keeps_setRcore
    | with_reducible apply keeps_idleCore)

theorem completes_execWorkshopJobHandoff (w : Fin 3) (s : State) :
    Completes [.regs, .hallIrq, .hostIrq, .cores, .reeve, .ws, .mem, .ms, .tally, .dbg] s (execWorkshopJobHandoff w s) := by
  unfold execWorkshopJobHandoff
  repeat' (first
    | with_reducible assumption | with_reducible exact Keeps.refl _ _ | exact Part.mem_of_elem rfl | intro _
    | with_reducible apply completes_ite | with_reducible apply completes_next | with_reducible apply keeps_ite
    | with_reducible apply keeps_setItem | with_reducible apply keeps_setFlags | with_reducible apply keeps_tapEvent
    | with_reducible apply keeps_lapseIfPassed | with_reducible apply keeps_stageKiln | with_reducible apply keeps_stageWm | dsimp only
    | split)

theorem completes_execWorkshopEndStatus (n : Nat) (s : State) :
    Completes [.regs, .hallIrq, .hostIrq, .cores, .reeve, .tally, .dbg] s (execWorkshopEndStatus n s) := by
  unfold execWorkshopEndStatus
  repeat' (first
    | with_reducible assumption | with_reducible exact Keeps.refl _ _ | exact Part.mem_of_elem rfl | intro _
    | with_reducible apply completes_next | with_reducible apply keeps_setItem | with_reducible apply keeps_release
    | with_reducible apply keeps_conclude | with_reducible apply keeps_settleAll | with_reducible apply keeps_newArrival | dsimp only
    | split | with_reducible apply keeps_set_reeve)

theorem completes_execReportPostDeferred (q : Fin 64) (s : State) :
    Completes [.regs, .hallIrq, .hostIrq, .reeve, .tally, .dbg] s (execReportPostDeferred q s) := by
  unfold execReportPostDeferred
  repeat' (first
    | with_reducible exact Keeps.refl _ _ | exact Part.mem_of_elem rfl | with_reducible apply completes_ite
    | with_reducible apply completes_next | with_reducible apply keeps_ite | with_reducible apply keeps_setQueue
    | with_reducible apply keeps_placeReport | with_reducible apply keeps_freeSlot | dsimp only | split)

theorem completes_execReeveReportTake (q : Fin 64) (wide : Bool) (s : State) :
    Completes [.regs, .ans, .reeve] s (execReeveReportTake q wide s) := by
  unfold execReeveReportTake
  repeat' (first
    | with_reducible assumption | with_reducible exact Keeps.refl _ _ | exact Part.mem_of_elem rfl | intro _
    | with_reducible apply completes_ite | with_reducible apply completes_next | with_reducible apply keeps_ite
    | with_reducible apply keeps_reply | with_reducible apply keeps_setQueue | with_reducible apply keeps_execReeveReportTake | dsimp only
    | split)

theorem completes_execReportQueueFlush (q : Fin 64) (v : Word) (s : State) :
    Completes [.regs, .reeve] s (execReportQueueFlush q v s) := by
  unfold execReportQueueFlush
  repeat' (first
    | with_reducible exact Keeps.refl _ _ | exact Part.mem_of_elem rfl | with_reducible apply completes_ite
    | with_reducible apply completes_next | with_reducible apply keeps_ite | with_reducible apply keeps_addSat
    | with_reducible apply keeps_wrWord | with_reducible apply keeps_setQueue)

theorem completes_execEvSet (g : Fin 64) (hi : Bool) (v : Word) (s : State) :
    Completes [.regs, .hallIrq, .hostIrq, .cores, .reeve, .tally, .dbg] s (execEvSet g hi v s) := by
  unfold execEvSet
  repeat' (first
    | with_reducible exact Keeps.refl _ _ | exact Part.mem_of_elem rfl | with_reducible apply completes_ite
    | with_reducible apply completes_next | with_reducible apply keeps_ite | with_reducible apply keeps_setFlags
    | with_reducible apply keeps_settleAll | with_reducible apply keeps_newArrival)

theorem completes_execEvFlagsClear (g : Fin 64) (hi : Bool) (v : Word) (s : State) :
    Completes [.regs] s (execEvFlagsClear g hi v s) := by
  unfold execEvFlagsClear
  repeat' (first
    | with_reducible exact Keeps.refl _ _ | exact Part.mem_of_elem rfl | with_reducible apply completes_ite
    | with_reducible apply completes_next | with_reducible apply keeps_ite | with_reducible apply keeps_setFlags)

theorem completes_execReeveCompatWrite (v : Word) (s : State) :
    Completes [.regs] s (execReeveCompatWrite v s) := by
  unfold execReeveCompatWrite
  repeat' (first
    | with_reducible assumption | with_reducible exact Keeps.refl _ _ | exact Part.mem_of_elem rfl | intro _
    | with_reducible apply completes_ite | with_reducible apply completes_next | with_reducible apply keeps_ite
    | with_reducible apply keeps_wr)

theorem completes_execLdpcDec (e : Fin 16) (n : Nat) (s : State) :
    Completes [.regs, .hallIrq, .free, .ws, .mem, .ms, .dbg] s (execLdpcDec e n s) := by
  unfold execLdpcDec
  repeat' (first
    | with_reducible exact Keeps.refl _ _ | exact Part.mem_of_elem rfl | intro _ | with_reducible apply completes_next
    | with_reducible apply completes_kilnWork)

theorem completes_execLdpcEnc (e : Fin 16) (n : Nat) (s : State) :
    Completes [.regs, .hallIrq, .free, .ws, .mem, .ms, .dbg] s (execLdpcEnc e n s) := by
  unfold execLdpcEnc
  repeat' (first
    | with_reducible exact Keeps.refl _ _ | exact Part.mem_of_elem rfl | intro _ | with_reducible apply completes_next
    | with_reducible apply completes_kilnWork)

theorem completes_execPolarDec (e : Fin 16) (n : Nat) (s : State) :
    Completes [.regs, .hallIrq, .free, .ws, .mem, .ms, .dbg] s (execPolarDec e n s) := by
  unfold execPolarDec
  repeat' (first
    | with_reducible exact Keeps.refl _ _ | exact Part.mem_of_elem rfl | intro _ | with_reducible apply completes_next
    | with_reducible apply completes_kilnWork)

theorem completes_execPolarEnc (e : Fin 16) (n : Nat) (s : State) :
    Completes [.regs, .hallIrq, .free, .ws, .mem, .ms, .dbg] s (execPolarEnc e n s) := by
  unfold execPolarEnc
  repeat' (first
    | with_reducible exact Keeps.refl _ _ | exact Part.mem_of_elem rfl | intro _ | with_reducible apply completes_next
    | with_reducible apply completes_kilnWork)

theorem completes_execTurboDec (e : Fin 16) (n : Nat) (s : State) :
    Completes [.regs, .hallIrq, .free, .ws, .mem, .ms, .dbg] s (execTurboDec e n s) := by
  unfold execTurboDec
  repeat' (first
    | with_reducible exact Keeps.refl _ _ | exact Part.mem_of_elem rfl | intro _ | with_reducible apply completes_next
    | with_reducible apply completes_kilnWork)

theorem completes_execTurboEnc (e : Fin 16) (n : Nat) (s : State) :
    Completes [.regs, .hallIrq, .free, .ws, .mem, .ms, .dbg] s (execTurboEnc e n s) := by
  unfold execTurboEnc
  repeat' (first
    | with_reducible exact Keeps.refl _ _ | exact Part.mem_of_elem rfl | intro _ | with_reducible apply completes_next
    | with_reducible apply completes_kilnWork)

theorem completes_execCrcJob (e : Fin 16) (n : Nat) (s : State) :
    Completes [.regs, .hallIrq, .free, .ws, .mem, .ms, .dbg] s (execCrcJob e n s) := by
  unfold execCrcJob
  repeat' (first
    | with_reducible exact Keeps.refl _ _ | exact Part.mem_of_elem rfl | intro _ | with_reducible apply completes_next
    | with_reducible apply completes_kilnWork)

theorem completes_execKilnHandleWaitEnd (e : Fin 16) (s : State) :
    Completes [.regs, .ws] s (execKilnHandleWaitEnd e s) := by
  unfold execKilnHandleWaitEnd
  repeat' (first
    | with_reducible assumption | with_reducible exact Keeps.refl _ _ | exact Part.mem_of_elem rfl | intro _
    | with_reducible apply completes_ite | with_reducible apply completes_next | with_reducible apply keeps_ite
    | with_reducible apply keeps_foldl | with_reducible apply keeps_foldl | with_reducible apply keeps_setJob | dsimp only | split)

theorem completes_execKilnCheckpointLapse (e : Fin 16) (staged wb : Bool) (s : State) :
    Completes [.regs, .hallIrq, .ws, .mem, .ms, .dbg] s (execKilnCheckpointLapse e staged wb s) := by
  unfold execKilnCheckpointLapse
  repeat' (first
    | with_reducible assumption | with_reducible exact Keeps.refl _ _ | exact Part.mem_of_elem rfl | intro _
    | with_reducible apply completes_ite | with_reducible apply completes_next | with_reducible apply keeps_ite
    | with_reducible apply keeps_lapseJob | with_reducible apply keeps_wbExtra)

theorem completes_execKilnJobEnd (e : Fin 16) (staged recordOk : Bool) (s : State) :
    Completes [.regs, .hallIrq, .reeve, .ws, .mem, .ms, .tally, .dbg] s (execKilnJobEnd e staged recordOk s) := by
  unfold execKilnJobEnd
  repeat' (first
    | with_reducible exact Keeps.refl _ _ | exact Part.mem_of_elem rfl | intro _ | with_reducible apply completes_ite
    | with_reducible apply completes_next | with_reducible apply keeps_ite | with_reducible apply keeps_add
    | with_reducible apply keeps_endJob | with_reducible apply keeps_freeClosing | refine Keeps.snd_eq (by assumption) ?_ | dsimp only
    | split)

theorem completes_execKilnSweep (group : Fin 64) (wtag : Fin 16) (wb : List (Fin 16)) (s : State) :
    Completes [.regs, .hallIrq, .ws, .mem, .ms, .dbg] s (execKilnSweep group wtag wb s) := by
  unfold execKilnSweep
  repeat' (first
    | with_reducible assumption | with_reducible exact Keeps.refl _ _ | exact Part.mem_of_elem rfl | intro _
    | with_reducible apply completes_ite | with_reducible apply completes_next | with_reducible apply keeps_ite
    | with_reducible apply keeps_sweepWs | with_reducible apply keeps_wbExtra)

theorem completes_execKilnAbort (slot : Fin 4096) (wb : Bool) (s : State) :
    Completes [.regs, .hallIrq, .reeve, .ws, .mem, .ms, .dbg] s (execKilnAbort slot wb s) := by
  unfold execKilnAbort
  repeat' (first
    | with_reducible assumption | with_reducible exact Keeps.refl _ _ | exact Part.mem_of_elem rfl | intro _
    | with_reducible apply completes_ite | with_reducible apply completes_next | with_reducible apply keeps_ite
    | with_reducible apply keeps_abortWs | with_reducible apply keeps_wbExtra | dsimp only | split)

theorem completes_execKilnBusError (e : Fin 16) (s : State) :
    Completes [.regs, .ws] s (execKilnBusError e s) := by
  unfold execKilnBusError
  repeat' (first
    | with_reducible exact Keeps.refl _ _ | exact Part.mem_of_elem rfl | intro _ | with_reducible apply completes_ite
    | with_reducible apply completes_next | with_reducible apply keeps_ite | with_reducible apply keeps_setJob | dsimp only | split)

theorem completes_execKilnHarqOpen (v : Word) (s : State) :
    Completes [.regs, .hallIrq, .ws, .tally, .dbg] s (execKilnHarqOpen v s) := by
  unfold execKilnHarqOpen
  repeat' (first
    | with_reducible exact Keeps.refl _ _ | exact Part.mem_of_elem rfl | intro _ | with_reducible apply completes_ite
    | with_reducible apply completes_next | with_reducible apply keeps_ite | with_reducible apply keeps_ledgerCount
    | with_reducible apply keeps_setHandle | with_reducible apply keeps_harqResult)

theorem completes_execKilnHarqClose (v : Word) (s : State) :
    Completes [.regs, .hallIrq, .ws, .tally, .dbg] s (execKilnHarqClose v s) := by
  unfold execKilnHarqClose
  repeat' (first
    | with_reducible exact Keeps.refl _ _ | exact Part.mem_of_elem rfl | intro _ | with_reducible apply completes_ite
    | with_reducible apply completes_next | with_reducible apply keeps_ite | with_reducible apply keeps_ledgerCount
    | with_reducible apply keeps_setHandle | with_reducible apply keeps_harqResult)

theorem completes_execKilnHarqAreaWrite (v : Word) (s : State) :
    Completes [.regs] s (execKilnHarqAreaWrite v s) := by
  unfold execKilnHarqAreaWrite
  repeat' (first
    | with_reducible assumption | with_reducible exact Keeps.refl _ _ | exact Part.mem_of_elem rfl | intro _
    | with_reducible apply completes_ite | with_reducible apply completes_next | with_reducible apply keeps_ite
    | with_reducible apply keeps_wr)

theorem completes_execWorkshopEngEnWrite (w : Fin 3) (v : Word) (s : State) :
    Completes [.regs] s (execWorkshopEngEnWrite w v s) := by
  unfold execWorkshopEngEnWrite
  repeat' (first
    | with_reducible assumption | with_reducible exact Keeps.refl _ _ | exact Part.mem_of_elem rfl | intro _
    | with_reducible apply completes_next | with_reducible apply keeps_foldl | with_reducible apply keeps_foldl
    | with_reducible apply keeps_wr | with_reducible apply keeps_showEng)

theorem completes_execWheelFwd (e : Fin 16) (n : Nat) (s : State) :
    Completes [.regs, .hallIrq, .free, .ws, .mem, .ms, .dbg] s (execWheelFwd e n s) := by
  unfold execWheelFwd
  repeat' (first
    | with_reducible exact Keeps.refl _ _ | exact Part.mem_of_elem rfl | intro _ | with_reducible apply completes_next
    | with_reducible apply completes_wmWork)

theorem completes_execWheelInv (e : Fin 16) (n : Nat) (s : State) :
    Completes [.regs, .hallIrq, .free, .ws, .mem, .ms, .dbg] s (execWheelInv e n s) := by
  unfold execWheelInv
  repeat' (first
    | with_reducible exact Keeps.refl _ _ | exact Part.mem_of_elem rfl | intro _ | with_reducible apply completes_next
    | with_reducible apply completes_wmWork)

theorem completes_execWheelCorr (e : Fin 16) (n : Nat) (s : State) :
    Completes [.regs, .hallIrq, .free, .ws, .mem, .ms, .dbg] s (execWheelCorr e n s) := by
  unfold execWheelCorr
  repeat' (first
    | with_reducible exact Keeps.refl _ _ | exact Part.mem_of_elem rfl | intro _ | with_reducible apply completes_next
    | with_reducible apply completes_wmWork)

theorem completes_execUlWeights (e : Fin 8) (n : Nat) (s : State) :
    Completes [.regs, .hallIrq, .free, .ws, .mem, .ms, .dbg] s (execUlWeights e n s) := by
  unfold execUlWeights
  repeat' (first
    | with_reducible exact Keeps.refl _ _ | exact Part.mem_of_elem rfl | intro _ | with_reducible apply completes_next
    | with_reducible apply completes_wmWork)

theorem completes_execUlDetect (e : Fin 8) (n : Nat) (s : State) :
    Completes [.regs, .hallIrq, .free, .ws, .mem, .ms, .dbg] s (execUlDetect e n s) := by
  unfold execUlDetect
  repeat' (first
    | with_reducible exact Keeps.refl _ _ | exact Part.mem_of_elem rfl | intro _ | with_reducible apply completes_next
    | with_reducible apply completes_wmWork)

theorem completes_execDlWeights (e : Fin 8) (n : Nat) (s : State) :
    Completes [.regs, .hallIrq, .free, .ws, .mem, .ms, .dbg] s (execDlWeights e n s) := by
  unfold execDlWeights
  repeat' (first
    | with_reducible exact Keeps.refl _ _ | exact Part.mem_of_elem rfl | intro _ | with_reducible apply completes_next
    | with_reducible apply completes_wmWork)

theorem completes_execWheelMillCheckpointLapse (mill : Bool) (e : Fin 16) (staged : Bool) (s : State) :
    Completes [.regs, .ws] s (execWheelMillCheckpointLapse mill e staged s) := by
  unfold execWheelMillCheckpointLapse
  repeat' (first
    | with_reducible assumption | with_reducible exact Keeps.refl _ _ | exact Part.mem_of_elem rfl | intro _
    | with_reducible apply completes_ite | with_reducible apply completes_next | with_reducible apply keeps_ite
    | with_reducible apply keeps_lapseJob | with_reducible apply keeps_noExtra)

theorem completes_execWheelMillJobEnd (mill : Bool) (e : Fin 16) (staged recordOk : Bool) (s : State) :
    Completes [.regs, .hallIrq, .reeve, .ws, .mem, .ms, .dbg] s (execWheelMillJobEnd mill e staged recordOk s) := by
  unfold execWheelMillJobEnd
  repeat' (first
    | with_reducible assumption | with_reducible exact Keeps.refl _ _ | exact Part.mem_of_elem rfl | intro _
    | with_reducible apply completes_ite | with_reducible apply completes_next | with_reducible apply keeps_ite
    | with_reducible apply keeps_add | with_reducible apply keeps_inc | with_reducible apply keeps_endJob | dsimp only | split)

theorem completes_execWheelMillSweep (mill : Bool) (group : Fin 64) (wtag : Fin 16) (s : State) :
    Completes [.regs, .ws] s (execWheelMillSweep mill group wtag s) := by
  unfold execWheelMillSweep
  repeat' (first
    | with_reducible assumption | with_reducible exact Keeps.refl _ _ | exact Part.mem_of_elem rfl | intro _
    | with_reducible apply completes_ite | with_reducible apply completes_next | with_reducible apply keeps_ite
    | with_reducible apply keeps_sweepWs | with_reducible apply keeps_noExtra)

theorem completes_execWheelMillAbort (slot : Fin 4096) (s : State) :
    Completes [.regs, .reeve, .ws] s (execWheelMillAbort slot s) := by
  unfold execWheelMillAbort
  repeat' (first
    | with_reducible assumption | with_reducible exact Keeps.refl _ _ | exact Part.mem_of_elem rfl | intro _
    | with_reducible apply completes_ite | with_reducible apply completes_next | with_reducible apply keeps_ite
    | with_reducible apply keeps_abortWs | with_reducible apply keeps_noExtra | dsimp only | split)

theorem completes_execWheelMillBusError (mill : Bool) (e : Fin 16) (s : State) :
    Completes [.regs, .ws] s (execWheelMillBusError mill e s) := by
  unfold execWheelMillBusError
  repeat' (first
    | with_reducible assumption | with_reducible exact Keeps.refl _ _ | exact Part.mem_of_elem rfl | intro _
    | with_reducible apply completes_ite | with_reducible apply completes_next | with_reducible apply keeps_ite
    | with_reducible apply keeps_setJob | dsimp only | split)

theorem completes_execSieveStart (c : Fin 1024) (s : State) :
    Completes [.regs, .sv] s (execSieveStart c s) := by
  unfold execSieveStart
  repeat' (first
    | with_reducible assumption | with_reducible exact Keeps.refl _ _ | exact Part.mem_of_elem rfl | intro _
    | with_reducible apply completes_ite | with_reducible apply completes_next | with_reducible apply keeps_ite
    | with_reducible apply keeps_wr | with_reducible apply keeps_add | with_reducible apply keeps_onChan)

theorem completes_execSieveStop (c : Fin 1024) (s : State) :
    Completes [.regs, .sv] s (execSieveStop c s) := by
  unfold execSieveStop
  repeat' (first
    | with_reducible assumption | with_reducible exact Keeps.refl _ _ | exact Part.mem_of_elem rfl | intro _
    | with_reducible apply completes_ite | with_reducible apply completes_next | with_reducible apply keeps_ite
    | with_reducible apply keeps_wr | with_reducible apply keeps_onChan)

theorem completes_execSieveSwap (c : Fin 1024) (v : Word) (s : State) :
    Completes [.regs, .sv] s (execSieveSwap c v s) := by
  unfold execSieveSwap
  repeat' (first
    | with_reducible exact Keeps.refl _ _ | exact Part.mem_of_elem rfl | with_reducible apply completes_ite
    | with_reducible apply completes_next | with_reducible apply keeps_ite | with_reducible apply keeps_sieveRequest)

theorem completes_execForceGuard (c : Fin 1024) (s : State) :
    Completes [.regs, .sv] s (execForceGuard c s) := by
  unfold execForceGuard
  repeat' (first
    | with_reducible exact Keeps.refl _ _ | exact Part.mem_of_elem rfl | with_reducible apply completes_next
    | with_reducible apply keeps_onChan)

theorem completes_execLeaveGuard (c : Fin 1024) (s : State) :
    Completes [.regs, .sv] s (execLeaveGuard c s) := by
  unfold execLeaveGuard
  repeat' (first
    | with_reducible assumption | with_reducible exact Keeps.refl _ _ | exact Part.mem_of_elem rfl | intro _
    | with_reducible apply completes_ite | with_reducible apply completes_next | with_reducible apply keeps_ite
    | with_reducible apply keeps_onChan)

theorem completes_execSieveChannelRun (c : Fin 1024) (s : State) :
    Completes [.regs, .sv] s (execSieveChannelRun c s) := by
  unfold execSieveChannelRun
  repeat' (first
    | with_reducible assumption | with_reducible exact Keeps.refl _ _ | exact Part.mem_of_elem rfl | intro _
    | with_reducible apply completes_ite | with_reducible apply completes_next | with_reducible apply keeps_ite
    | with_reducible apply keeps_wr | with_reducible apply keeps_onChan)

theorem completes_execSieveChannelCease (c : Fin 1024) (s : State) :
    Completes [.regs, .sv] s (execSieveChannelCease c s) := by
  unfold execSieveChannelCease
  repeat' (first
    | with_reducible assumption | with_reducible exact Keeps.refl _ _ | exact Part.mem_of_elem rfl | intro _
    | with_reducible apply completes_ite | with_reducible apply completes_next | with_reducible apply keeps_ite
    | with_reducible apply keeps_wr | with_reducible apply keeps_onChan)

theorem completes_execSieveBlockArrival (kind : Fin 3) (port : Fin 64) (c : Fin 1024) (sfn : Fin 1024) (n : Nat) (x : List Sample) (s : State) :
    Completes [.regs, .sv] s (execSieveBlockArrival kind port c sfn n x s) := by
  unfold execSieveBlockArrival
  repeat' (first
    | with_reducible assumption | with_reducible exact Keeps.refl _ _ | exact Part.mem_of_elem rfl | intro _
    | with_reducible apply completes_ite | with_reducible apply completes_next | with_reducible apply keeps_ite
    | with_reducible apply keeps_inc | with_reducible apply keeps_onChan | with_reducible apply keeps_svTake
    | with_reducible apply keeps_svDisc | with_reducible apply keeps_svGap | with_reducible apply keeps_svCatch)

theorem completes_execSieveInputTimeout (c : Fin 1024) (s : State) :
    Completes [.regs, .sv] s (execSieveInputTimeout c s) := by
  unfold execSieveInputTimeout
  repeat' (first
    | with_reducible exact Keeps.refl _ _ | exact Part.mem_of_elem rfl | with_reducible apply completes_ite
    | with_reducible apply completes_next | with_reducible apply keeps_ite | with_reducible apply keeps_svCatch)

theorem completes_execSieveBellMark (c : Fin 1024) (s : State) :
    Completes [.regs, .sv] s (execSieveBellMark c s) := by
  unfold execSieveBellMark
  repeat' (first
    | with_reducible assumption | with_reducible exact Keeps.refl _ _ | exact Part.mem_of_elem rfl | intro _
    | with_reducible apply completes_ite | with_reducible apply completes_next | with_reducible apply keeps_ite
    | with_reducible apply keeps_wr | with_reducible apply keeps_onChan | dsimp only | split)

theorem completes_execSieveFadeEnd (c : Fin 1024) (s : State) :
    Completes [.regs, .sv] s (execSieveFadeEnd c s) := by
  unfold execSieveFadeEnd
  repeat' (first
    | with_reducible assumption | with_reducible exact Keeps.refl _ _ | exact Part.mem_of_elem rfl | intro _
    | with_reducible apply completes_next | with_reducible apply keeps_onRun)

theorem completes_execSieveGuardReturn (c : Fin 1024) (s : State) :
    Completes [.regs, .sv] s (execSieveGuardReturn c s) := by
  unfold execSieveGuardReturn
  repeat' (first
    | with_reducible assumption | with_reducible exact Keeps.refl _ _ | exact Part.mem_of_elem rfl | intro _
    | with_reducible apply completes_next | with_reducible apply keeps_onRun)

theorem completes_execSieveCoefWrite (c : Fin 1024) (bank : Fin 2) (j : Fin 16) (v : Word) (s : State) :
    Completes [.regs] s (execSieveCoefWrite c bank j v s) := by
  unfold execSieveCoefWrite
  repeat' (first
    | with_reducible exact Keeps.refl _ _ | exact Part.mem_of_elem rfl | with_reducible apply completes_ite
    | with_reducible apply completes_next | with_reducible apply keeps_ite | with_reducible apply keeps_wr
    | with_reducible apply keeps_incSat)

theorem completes_execSieveDelayWrite (c : Fin 1024) (v : Word) (s : State) :
    Completes [.regs, .sv] s (execSieveDelayWrite c v s) := by
  unfold execSieveDelayWrite
  repeat' (first
    | with_reducible assumption | with_reducible exact Keeps.refl _ _ | exact Part.mem_of_elem rfl | intro _
    | with_reducible apply completes_ite | with_reducible apply completes_next | with_reducible apply keeps_ite
    | with_reducible apply keeps_wrWord | with_reducible apply keeps_onChan)

theorem completes_execSieveDelayApply (c : Fin 1024) (s : State) :
    Completes [.regs, .sv] s (execSieveDelayApply c s) := by
  unfold execSieveDelayApply
  repeat' (first
    | with_reducible assumption | with_reducible exact Keeps.refl _ _ | exact Part.mem_of_elem rfl | intro _
    | with_reducible apply completes_ite | with_reducible apply completes_next | with_reducible apply keeps_ite
    | with_reducible apply keeps_onRun)

theorem completes_execSieveGuardCfgWrite (c : Fin 1024) (v : Word) (s : State) :
    Completes [.regs, .sv] s (execSieveGuardCfgWrite c v s) := by
  unfold execSieveGuardCfgWrite
  repeat' (first
    | with_reducible assumption | with_reducible exact Keeps.refl _ _ | exact Part.mem_of_elem rfl | intro _
    | with_reducible apply completes_ite | with_reducible apply completes_next | with_reducible apply keeps_ite
    | with_reducible apply keeps_wrWord | with_reducible apply keeps_onChan)

theorem completes_execSieveBurstWrite (c : Fin 1024) (s : State) :
    Completes [.regs, .hallIrq, .reeve, .sv, .mem, .ms, .tally, .dbg] s (execSieveBurstWrite c s) := by
  unfold execSieveBurstWrite
  repeat' (first
    | with_reducible assumption | with_reducible exact Keeps.refl _ _ | exact Part.mem_of_elem rfl | intro _
    | with_reducible apply completes_ite | with_reducible apply completes_next | with_reducible apply keeps_ite
    | with_reducible apply keeps_burstSkip | with_reducible apply keeps_onChan | with_reducible apply keeps_ringWrite
    | refine Keeps.snd_eq (by assumption) ?_ | dsimp only | split)

theorem completes_execSieveBurstAck (c : Fin 1024) (s : State) :
    Completes [.regs, .hallIrq, .reeve, .sv, .tally, .dbg] s (execSieveBurstAck c s) := by
  unfold execSieveBurstAck
  repeat' (first
    | with_reducible exact Keeps.refl _ _ | exact Part.mem_of_elem rfl | with_reducible apply completes_ite
    | with_reducible apply completes_next | with_reducible apply keeps_ite | with_reducible apply keeps_inc
    | with_reducible apply keeps_burstDone | with_reducible apply keeps_dropBurst | dsimp only | split)

theorem completes_execSieveBurstLate (c : Fin 1024) (s : State) :
    Completes [.regs, .hallIrq, .reeve, .sv, .tally, .dbg] s (execSieveBurstLate c s) := by
  unfold execSieveBurstLate
  repeat' (first
    | with_reducible exact Keeps.refl _ _ | exact Part.mem_of_elem rfl | with_reducible apply completes_ite
    | with_reducible apply completes_next | with_reducible apply keeps_ite | with_reducible apply keeps_burstSkip | dsimp only | split)

theorem completes_execSieveSweep (group : Fin 64) (wtag : Fin 16) (s : State) :
    Completes [.regs, .hallIrq, .reeve, .sv, .tally, .dbg] s (execSieveSweep group wtag s) := by
  unfold execSieveSweep
  repeat' (first
    | with_reducible assumption | with_reducible exact Keeps.refl _ _ | exact Part.mem_of_elem rfl | intro _
    | with_reducible apply completes_ite | with_reducible apply completes_next | with_reducible apply keeps_ite
    | with_reducible apply keeps_foldl | with_reducible apply keeps_foldl | with_reducible apply keeps_sweepChan)

theorem completes_execSieveUpReady (c : Fin 1024) (v : Word) (s : State) :
    Completes [.regs] s (execSieveUpReady c v s) := by
  unfold execSieveUpReady
  repeat' (first
    | with_reducible exact Keeps.refl _ _ | exact Part.mem_of_elem rfl | with_reducible apply completes_next
    | with_reducible apply keeps_wr)

theorem completes_execSieveUpOutputRequest (c : Fin 1024) (s : State) :
    Completes [.regs, .hallIrq, .sv, .mem, .ms, .dbg] s (execSieveUpOutputRequest c s) := by
  unfold execSieveUpOutputRequest
  repeat' (first
    | with_reducible exact Keeps.refl _ _ | exact Part.mem_of_elem rfl | with_reducible apply completes_ite
    | with_reducible apply completes_next | with_reducible apply keeps_ite | with_reducible apply keeps_inc
    | with_reducible apply keeps_upLows | refine Keeps.snd_eq (by assumption) ?_ | dsimp only | split | with_reducible apply keeps_set_sv)

theorem completes_execSieveUpBurstSkip (c : Fin 1024) (s : State) :
    Completes [.regs, .hallIrq, .sv, .mem, .ms, .dbg] s (execSieveUpBurstSkip c s) := by
  unfold execSieveUpBurstSkip
  repeat' (first
    | with_reducible exact Keeps.refl _ _ | exact Part.mem_of_elem rfl | with_reducible apply completes_ite
    | with_reducible apply completes_next | with_reducible apply keeps_ite | with_reducible apply keeps_inc
    | with_reducible apply keeps_upLows)

theorem completes_execMemoryRead (mid : Mid) (addr n wait : Nat) (via : ReadVia) (s : State) :
    Completes [.regs, .ans, .hallIrq, .free, .mem, .ms, .dbg] s (execMemoryRead mid addr n wait via s) := by
  unfold execMemoryRead
  repeat' (first
    | with_reducible exact Keeps.refl _ _ | exact Part.mem_of_elem rfl | with_reducible apply completes_next
    | with_reducible apply keeps_reply | with_reducible apply keeps_readWords | with_reducible apply keeps_refuseAccess
    | with_reducible apply keeps_countConflict | with_reducible apply keeps_yieldFor | with_reducible apply keeps_readLine
    | refine Keeps.snd_eq (by assumption) ?_ | dsimp only | split)

theorem completes_execMemoryWrite (a : WriteReq) (other : Option WriteReq) (s : State) :
    Completes [.regs, .ans, .hallIrq, .free, .mem, .ms, .dbg] s (execMemoryWrite a other s) := by
  unfold execMemoryWrite
  repeat' (first
    | with_reducible exact Keeps.refl _ _ | exact Part.mem_of_elem rfl | with_reducible apply completes_ite
    | with_reducible apply completes_next | with_reducible apply keeps_ite | with_reducible apply keeps_busWrite
    | with_reducible apply keeps_countCollision | dsimp only | split)

theorem completes_execRmwWrite (a : NarrowReq) (other : Option NarrowReq) (s : State) :
    Completes [.regs, .ans, .hallIrq, .free, .mem, .ms, .dbg] s (execRmwWrite a other s) := by
  unfold execRmwWrite
  repeat' (first
    | with_reducible exact Keeps.refl _ _ | exact Part.mem_of_elem rfl | with_reducible apply completes_ite
    | with_reducible apply completes_next | with_reducible apply keeps_ite | with_reducible apply keeps_busNarrow
    | with_reducible apply keeps_countCollision | dsimp only | split)

theorem completes_execGranaryBankPowerRequest (bank : Fin 64) (v : Word) (s : State) :
    Completes [.regs, .ans, .ms] s (execGranaryBankPowerRequest bank v s) := by
  unfold execGranaryBankPowerRequest
  repeat' (first
    | with_reducible exact Keeps.refl _ _ | exact Part.mem_of_elem rfl | with_reducible apply completes_ite
    | with_reducible apply completes_next | with_reducible apply keeps_ite | with_reducible apply keeps_ack
    | with_reducible apply keeps_w1c | with_reducible apply keeps_bankMove | with_reducible apply keeps_bankRefuse)

theorem completes_execGranaryBankTransitionEnd (bank : Fin 64) (s : State) :
    Completes [.regs, .mem, .ms] s (execGranaryBankTransitionEnd bank s) := by
  unfold execGranaryBankTransitionEnd
  repeat' (first
    | with_reducible assumption | with_reducible exact Keeps.refl _ _ | exact Part.mem_of_elem rfl | with_reducible apply completes_ite
    | with_reducible apply completes_next | with_reducible apply keeps_ite | with_reducible apply keeps_wr
    | with_reducible apply Memory.wf_putRaw | with_reducible apply Memory.wf_put | with_reducible apply Memory.wf_fill
    | with_reducible apply Memory.wf_foldl | with_reducible apply keeps_setMem | with_reducible apply keeps_bankMove | dsimp only | split)

theorem completes_execGranaryBankFillEnd (bank : Fin 64) (checkerOk : Bool) (s : State) :
    Completes [.regs, .hallIrq, .mem, .ms, .dbg] s (execGranaryBankFillEnd bank checkerOk s) := by
  unfold execGranaryBankFillEnd
  repeat' (first
    | with_reducible assumption | with_reducible exact Keeps.refl _ _ | exact Part.mem_of_elem rfl | with_reducible apply completes_ite
    | with_reducible apply completes_next | with_reducible apply keeps_ite | with_reducible apply Memory.wf_putRaw
    | with_reducible apply Memory.wf_put | with_reducible apply Memory.wf_fill | with_reducible apply Memory.wf_foldl
    | with_reducible apply keeps_setMem | with_reducible apply keeps_logAt | with_reducible apply keeps_bankMove)

theorem completes_execGranaryPoolEnable (pool : Fin 128) (v : Word) (s : State) :
    Completes [.regs, .ans, .ms] s (execGranaryPoolEnable pool v s) := by
  unfold execGranaryPoolEnable
  repeat' (first
    | with_reducible exact Keeps.refl _ _ | exact Part.mem_of_elem rfl | with_reducible apply completes_ite
    | with_reducible apply completes_next | with_reducible apply keeps_ite | with_reducible apply keeps_wr
    | with_reducible apply keeps_ack | with_reducible apply keeps_wrWord | with_reducible apply keeps_showHeld
    | with_reducible apply keeps_setPool | dsimp only | split)

theorem completes_execGranaryPoolDisable (pool : Fin 128) (v : Word) (s : State) :
    Completes [.regs, .ans, .ms] s (execGranaryPoolDisable pool v s) := by
  unfold execGranaryPoolDisable
  repeat' (first
    | with_reducible exact Keeps.refl _ _ | exact Part.mem_of_elem rfl | with_reducible apply completes_ite
    | with_reducible apply completes_next | with_reducible apply keeps_ite | with_reducible apply keeps_wr
    | with_reducible apply keeps_ack | with_reducible apply keeps_wrWord | with_reducible apply keeps_setPool)

theorem completes_execGranaryPoolTake (pool : Fin 128) (s : State) :
    Completes [.regs, .ans, .hallIrq, .ms, .tally, .dbg] s (execGranaryPoolTake pool s) := by
  unfold execGranaryPoolTake
  repeat' (first
    | with_reducible exact Keeps.refl _ _ | exact Part.mem_of_elem rfl | with_reducible apply completes_next
    | with_reducible apply keeps_reply | with_reducible apply keeps_poolTake | with_reducible apply keeps_execGranaryPoolTake
    | refine Keeps.snd_eq (by assumption) ?_ | dsimp only | split)

theorem completes_execGranaryPoolRelease (pool : Fin 128) (token : Word) (s : State) :
    Completes [.regs, .ans, .hallIrq, .ms, .tally, .dbg] s (execGranaryPoolRelease pool token s) := by
  unfold execGranaryPoolRelease
  repeat' (first
    | with_reducible exact Keeps.refl _ _ | exact Part.mem_of_elem rfl | with_reducible apply completes_next
    | with_reducible apply keeps_ack | with_reducible apply keeps_poolRelease)

theorem completes_execPoolSweepReturn (group : Fin 64) (wtag : Fin 16) (s : State) :
    Completes [.regs, .hallIrq, .ms, .tally, .dbg] s (execPoolSweepReturn group wtag s) := by
  unfold execPoolSweepReturn
  repeat' (first
    | with_reducible assumption | with_reducible exact Keeps.refl _ _ | exact Part.mem_of_elem rfl | intro _
    | with_reducible apply completes_ite | with_reducible apply completes_next | with_reducible apply keeps_ite
    | with_reducible apply keeps_foldl | with_reducible apply keeps_foldl | with_reducible apply keeps_poolSweep)

theorem completes_execPoolFault (pool : Fin 128) (s : State) :
    Completes [.regs, .hallIrq, .tally, .dbg] s (execPoolFault pool s) := by
  unfold execPoolFault
  repeat' (first
    | with_reducible exact Keeps.refl _ _ | exact Part.mem_of_elem rfl | with_reducible apply completes_next
    | with_reducible apply keeps_wr | with_reducible apply keeps_ledgerFault)

theorem completes_execEccInject (v : Word) (s : State) :
    Completes [.regs, .ans, .hallIrq, .mem, .ms, .dbg] s (execEccInject v s) := by
  unfold execEccInject
  repeat' (first
    | with_reducible assumption | with_reducible exact Keeps.refl _ _ | exact Part.mem_of_elem rfl | with_reducible apply completes_ite
    | with_reducible apply completes_next | with_reducible apply keeps_ite | with_reducible apply keeps_wr
    | with_reducible apply Memory.wf_putRaw | with_reducible apply Memory.wf_put | with_reducible apply Memory.wf_fill
    | with_reducible apply Memory.wf_foldl | with_reducible apply keeps_setMem | with_reducible apply keeps_ack
    | with_reducible apply keeps_logAt | with_reducible apply keeps_wrWord | with_reducible apply keeps_yieldFor | dsimp only | split)

theorem completes_execEcclogPop (s : State) :
    Completes [.regs, .ans, .ms] s (execEcclogPop s) := by
  unfold execEcclogPop
  repeat' (first
    | with_reducible exact Keeps.refl _ _ | exact Part.mem_of_elem rfl | with_reducible apply completes_next
    | with_reducible apply keeps_ack | with_reducible apply keeps_showLog)

theorem completes_execEcclogFlush (v : Word) (s : State) :
    Completes [.regs, .ans, .ms] s (execEcclogFlush v s) := by
  unfold execEcclogFlush
  repeat' (first
    | with_reducible exact Keeps.refl _ _ | exact Part.mem_of_elem rfl | with_reducible apply completes_ite
    | with_reducible apply completes_next | with_reducible apply keeps_ite | with_reducible apply keeps_ack
    | with_reducible apply keeps_showLog | with_reducible apply keeps_wrWord)

theorem completes_execHarrowStart (v : Word) (checkerOk : Bool) (s : State) :
    Completes [.regs, .ans, .hallIrq, .ms, .dbg] s (execHarrowStart v checkerOk s) := by
  unfold execHarrowStart
  repeat' (first
    | with_reducible exact Keeps.refl _ _ | with_reducible rfl | exact Part.mem_of_elem rfl | with_reducible apply completes_ite
    | with_reducible apply completes_next | with_reducible apply keeps_ite | with_reducible apply keeps_wr
    | with_reducible apply keeps_ack | with_reducible apply keeps_logAt | with_reducible apply keeps_harrowRefuse | dsimp only | split
    | with_reducible apply keeps_set_ms)

theorem completes_execHarrowTestEnd (fails : List FailRow) (s : State) :
    Completes [.regs, .hallIrq, .mem, .ms, .dbg] s (execHarrowTestEnd fails s) := by
  unfold execHarrowTestEnd
  repeat' (first
    | with_reducible assumption | with_reducible rfl | with_reducible exact Keeps.refl _ _ | exact Part.mem_of_elem rfl | intro _
    | with_reducible apply completes_ite | with_reducible apply completes_next | with_reducible apply keeps_ite
    | with_reducible apply keeps_foldl | with_reducible apply keeps_foldl | with_reducible apply keeps_wr
    | with_reducible apply Memory.wf_putRaw | with_reducible apply Memory.wf_put | with_reducible apply Memory.wf_fill
    | with_reducible apply Memory.wf_foldl | with_reducible apply keeps_setMem | with_reducible apply keeps_harrowRows
    | with_reducible apply keeps_preserveWord | with_reducible apply keeps_failCores | dsimp only | split
    | with_reducible apply keeps_set_ms)

theorem completes_execGleanerRegionStart (mem : Fin 8) (inst : Fin 256) (faults : List CellFault) (stop : GleanStop) (s : State) :
    Completes [.regs, .hallIrq, .mem, .ms, .dbg] s (execGleanerRegionStart mem inst faults stop s) := by
  unfold execGleanerRegionStart
  repeat' (first
    | with_reducible assumption | with_reducible exact Keeps.refl _ _ | exact Part.mem_of_elem rfl | intro _
    | with_reducible apply completes_ite | with_reducible apply completes_next | with_reducible apply keeps_ite
    | with_reducible apply keeps_foldl | with_reducible apply keeps_foldl | with_reducible apply keeps_logAt
    | with_reducible apply keeps_inc | with_reducible apply keeps_gleanRestoreAll | with_reducible apply keeps_setGleaner
    | with_reducible apply keeps_putPattern | with_reducible apply keeps_complete | dsimp only | split)

theorem completes_execGleanerYield (mem : Fin 8) (inst : Fin 256) (mid : Mid) (s : State) :
    Completes [.regs, .hallIrq, .mem, .ms, .dbg] s (execGleanerYield mem inst mid s) := by
  unfold execGleanerYield
  repeat' (first
    | with_reducible exact Keeps.refl _ _ | exact Part.mem_of_elem rfl | with_reducible apply completes_ite
    | with_reducible apply completes_next | with_reducible apply keeps_ite | with_reducible apply keeps_gleanFinish
    | with_reducible apply keeps_gleanYield)

theorem completes_execPacketInject (ni : Fin 256) (q : PacketReq) (s : State) (hq : packetFormed q = true) :
    Completes [.regs, .ans, .hallIrq, .net, .tally, .dbg] s (execPacketInject ni q s) := by
  unfold execPacketInject
  rw [if_neg (by simp [hq])]
  repeat' (first
    | with_reducible assumption | with_reducible exact Keeps.refl _ _ | exact Part.mem_of_elem rfl | intro _
    | with_reducible apply completes_ite | with_reducible apply completes_next | with_reducible apply keeps_ite
    | with_reducible apply keeps_add | with_reducible apply keeps_inc | with_reducible apply keeps_setNet
    | with_reducible apply keeps_enterPacket | with_reducible apply keeps_injectRequest)

theorem completes_execRouterHeadArrival (k : Nat) (s : State) :
    Completes [.regs, .hallIrq, .net, .tally, .dbg] s (execRouterHeadArrival k s) := by
  unfold execRouterHeadArrival
  repeat' (first
    | with_reducible assumption | with_reducible exact Keeps.refl _ _ | exact Part.mem_of_elem rfl | intro _
    | with_reducible apply completes_ite | with_reducible apply completes_next | with_reducible apply keeps_ite
    | with_reducible apply keeps_inc | with_reducible apply keeps_absorbToken | with_reducible apply keeps_setNet
    | with_reducible apply keeps_creditBack | with_reducible apply keeps_creditSend | with_reducible apply keeps_endPacket
    | with_reducible apply keeps_routerAnswer | with_reducible apply keeps_movePacket | with_reducible apply keeps_probes
    | refine Keeps.snd_eq (by assumption) ?_ | dsimp only | split)

theorem completes_execPacketEject (k : Nat) (s : State) :
    Completes [.regs, .hallIrq, .sent, .net, .tally, .ewl, .dbg] s (execPacketEject k s) := by
  unfold execPacketEject
  repeat' (first
    | with_reducible assumption | with_reducible exact Keeps.refl _ _ | exact Part.mem_of_elem rfl | intro _
    | with_reducible apply completes_ite | with_reducible apply completes_next | with_reducible apply keeps_ite
    | with_reducible apply keeps_setNet | with_reducible apply keeps_endPacket | with_reducible apply keeps_unitAnswer
    | with_reducible apply keeps_ewlForward | dsimp only | split)

theorem completes_execAnswerArrival (k : Nat) (s : State) :
    Completes [.regs, .ans, .hallIrq, .sent, .net, .tally, .ewl, .dbg] s (execAnswerArrival k s) := by
  unfold execAnswerArrival
  repeat' (first
    | with_reducible assumption | with_reducible exact Keeps.refl _ _ | exact Part.mem_of_elem rfl | intro _
    | with_reducible apply completes_ite | with_reducible apply completes_next | with_reducible apply keeps_ite
    | with_reducible apply keeps_reply | with_reducible apply keeps_inc | with_reducible apply keeps_dec
    | with_reducible apply keeps_ledgerCount | with_reducible apply keeps_showHold | with_reducible apply keeps_setNet
    | with_reducible apply keeps_endPacket | with_reducible apply keeps_ewlReturn | refine Keeps.snd_eq (by assumption) ?_ | dsimp only
    | split)

theorem completes_execTargetTimeout (r : Fin 64) (l : Fin 4) (s : State) :
    Completes [.regs, .hallIrq, .net, .tally, .dbg] s (execTargetTimeout r l s) := by
  unfold execTargetTimeout
  repeat' (first
    | with_reducible assumption | with_reducible exact Keeps.refl _ _ | exact Part.mem_of_elem rfl | intro _
    | with_reducible apply completes_ite | with_reducible apply completes_next | with_reducible apply keeps_ite
    | with_reducible apply keeps_killPort)

theorem completes_execPortRevive (r : Fin 64) (p : Fin 8) (s : State) :
    Completes [.regs] s (execPortRevive r p s) := by
  unfold execPortRevive
  repeat' (first
    | with_reducible exact Keeps.refl _ _ | exact Part.mem_of_elem rfl | with_reducible apply completes_ite
    | with_reducible apply completes_next | with_reducible apply keeps_ite | with_reducible apply keeps_refusePort
    | with_reducible apply keeps_setPortSt)

theorem completes_execPortClose (r : Fin 64) (p : Fin 8) (s : State) :
    Completes [.regs, .net] s (execPortClose r p s) := by
  unfold execPortClose
  repeat' (first
    | with_reducible assumption | with_reducible exact Keeps.refl _ _ | exact Part.mem_of_elem rfl | intro _
    | with_reducible apply completes_ite | with_reducible apply completes_next | with_reducible apply keeps_ite
    | with_reducible apply keeps_setNet | with_reducible apply keeps_markClosed | with_reducible apply keeps_refusePort
    | with_reducible apply keeps_setPortSt)

theorem completes_execPortDrained (r : Fin 64) (l : Fin 4) (s : State) :
    Completes [.regs] s (execPortDrained r l s) := by
  unfold execPortDrained
  repeat' (first
    | with_reducible assumption | with_reducible exact Keeps.refl _ _ | exact Part.mem_of_elem rfl | intro _
    | with_reducible apply completes_ite | with_reducible apply completes_next | with_reducible apply keeps_ite
    | with_reducible apply keeps_wr | with_reducible apply keeps_setPortSt)

theorem completes_execPortOpen (r : Fin 64) (p : Fin 8) (s : State) :
    Completes [.regs, .net] s (execPortOpen r p s) := by
  unfold execPortOpen
  repeat' (first
    | with_reducible assumption | with_reducible exact Keeps.refl _ _ | exact Part.mem_of_elem rfl | intro _
    | with_reducible apply completes_ite | with_reducible apply completes_next | with_reducible apply keeps_ite
    | with_reducible apply keeps_wr | with_reducible apply keeps_setNet | with_reducible apply keeps_markClosed
    | with_reducible apply keeps_refusePort | with_reducible apply keeps_setPortSt)

theorem completes_execPortDisable (r : Fin 64) (p : Fin 8) (v : Word) (s : State) :
    Completes [.regs, .net] s (execPortDisable r p v s) := by
  unfold execPortDisable
  repeat' (first
    | with_reducible assumption | with_reducible exact Keeps.refl _ _ | exact Part.mem_of_elem rfl | intro _
    | with_reducible apply completes_ite | with_reducible apply completes_next | with_reducible apply keeps_ite
    | with_reducible apply keeps_setNet | with_reducible apply keeps_refusePort | with_reducible apply keeps_setPortSt)

theorem completes_execPortDisableComplete (r : Fin 64) (p : Fin 4) (s : State) :
    Completes [.regs] s (execPortDisableComplete r p s) := by
  unfold execPortDisableComplete
  repeat' (first
    | with_reducible assumption | with_reducible exact Keeps.refl _ _ | exact Part.mem_of_elem rfl | intro _
    | with_reducible apply completes_ite | with_reducible apply completes_next | with_reducible apply keeps_ite
    | with_reducible apply keeps_setPortSt)

theorem completes_execPortEnable (r : Fin 64) (p : Fin 8) (s : State) :
    Completes [.regs] s (execPortEnable r p s) := by
  unfold execPortEnable
  repeat' (first
    | with_reducible exact Keeps.refl _ _ | exact Part.mem_of_elem rfl | with_reducible apply completes_ite
    | with_reducible apply completes_next | with_reducible apply keeps_ite | with_reducible apply keeps_refusePort
    | with_reducible apply keeps_setPortSt)

theorem completes_execRouteEntryStage (n d : Fin 256) (b : Bool) (v : Word) (s : State) :
    Completes [.regs, .ans, .net] s (execRouteEntryStage n d b v s) := by
  unfold execRouteEntryStage
  repeat' (first
    | with_reducible assumption | with_reducible exact Keeps.refl _ _ | exact Part.mem_of_elem rfl | intro _
    | with_reducible apply completes_ite | with_reducible apply completes_next | with_reducible apply keeps_ite
    | with_reducible apply keeps_wr | with_reducible apply keeps_reply | with_reducible apply keeps_setNet
    | with_reducible apply keeps_rejectRoute | dsimp only | split)

theorem completes_execRouteAdvance (s : State) :
    Completes [.regs, .net] s (execRouteAdvance s) := by
  unfold execRouteAdvance
  repeat' (first
    | with_reducible assumption | with_reducible exact Keeps.refl _ _ | exact Part.mem_of_elem rfl | intro _
    | with_reducible apply completes_ite | with_reducible apply completes_next | with_reducible apply keeps_ite
    | with_reducible apply keeps_wr | with_reducible apply keeps_setNet | with_reducible apply keeps_rejectRoute
    | with_reducible apply keeps_startEpoch | dsimp only | split)

theorem completes_execRouteDiscardStage (s : State) :
    Completes [.regs, .net] s (execRouteDiscardStage s) := by
  unfold execRouteDiscardStage
  repeat' (first
    | with_reducible assumption | with_reducible exact Keeps.refl _ _ | exact Part.mem_of_elem rfl | intro _
    | with_reducible apply completes_next | with_reducible apply keeps_wr | with_reducible apply keeps_setNet)

theorem completes_execBarrierArrive (b : Fin 32) (ni : Fin 256) (s : State) :
    Completes [.regs, .ans, .net] s (execBarrierArrive b ni s) := by
  unfold execBarrierArrive
  repeat' (first
    | with_reducible assumption | with_reducible exact Keeps.refl _ _ | exact Part.mem_of_elem rfl | intro _
    | with_reducible apply completes_ite | with_reducible apply completes_next | with_reducible apply keeps_ite
    | with_reducible apply keeps_ack | with_reducible apply keeps_inc | with_reducible apply keeps_setNet)

theorem completes_execBarrierRelease (b : Fin 32) (parish : Bool) (s : State) :
    Completes [.regs, .hallIrq, .net] s (execBarrierRelease b parish s) := by
  unfold execBarrierRelease
  repeat' (first
    | with_reducible assumption | with_reducible exact Keeps.refl _ _ | exact Part.mem_of_elem rfl | intro _
    | with_reducible apply completes_ite | with_reducible apply completes_next | with_reducible apply keeps_ite
    | with_reducible apply keeps_inc | with_reducible apply keeps_setNet | with_reducible apply keeps_barEvents)

theorem completes_execBarrierBcast (b : Fin 32) (v : Word) (s : State) :
    Completes [.regs, .hallIrq, .net] s (execBarrierBcast b v s) := by
  unfold execBarrierBcast
  repeat' (first
    | with_reducible exact Keeps.refl _ _ | exact Part.mem_of_elem rfl | with_reducible apply completes_next
    | with_reducible apply keeps_wr | with_reducible apply keeps_barEvents)

theorem completes_execProbePop (k : Fin 32) (s : State) :
    Completes [.regs, .net] s (execProbePop k s) := by
  unfold execProbePop
  repeat' (first
    | with_reducible exact Keeps.refl _ _ | exact Part.mem_of_elem rfl | with_reducible apply completes_ite
    | with_reducible apply completes_next | with_reducible apply keeps_ite | with_reducible apply keeps_showProbe)

theorem completes_execTallySnapArm (v : Word) (bcast : Option (Nat × Nat)) (s : State) :
    Completes [.regs, .tally] s (execTallySnapArm v bcast s) := by
  unfold execTallySnapArm
  repeat' (first
    | with_reducible exact Keeps.refl _ _ | exact Part.mem_of_elem rfl | with_reducible apply completes_ite
    | with_reducible apply completes_next | with_reducible apply keeps_ite | with_reducible apply keeps_wr
    | with_reducible apply keeps_armSnap | dsimp only | split)

theorem completes_execTallySnapshotCapture (s : State) :
    Completes [.regs, .tally] s (execTallySnapshotCapture s) := by
  unfold execTallySnapshotCapture
  repeat' (first
    | with_reducible exact Keeps.refl _ _ | exact Part.mem_of_elem rfl | with_reducible apply completes_ite
    | with_reducible apply completes_next | with_reducible apply keeps_ite | with_reducible apply keeps_wr | dsimp only | split
    | with_reducible apply keeps_set_tally)

theorem completes_execTallyReadoutEnd (leftOut : Bool) (s : State) :
    Completes [.regs, .hallIrq, .sent, .mem, .ms, .dbg] s (execTallyReadoutEnd leftOut s) := by
  unfold execTallyReadoutEnd
  repeat' (first
    | with_reducible assumption | with_reducible exact Keeps.refl _ _ | exact Part.mem_of_elem rfl | intro _
    | with_reducible apply completes_ite | with_reducible apply completes_next | with_reducible apply keeps_ite
    | with_reducible apply keeps_wr | with_reducible apply keeps_send | with_reducible apply keeps_endSnap
    | with_reducible apply keeps_writeRecords | refine Keeps.snd_eq (by assumption) ?_ | dsimp only | split)

theorem completes_execTallyReadoutError (remote : Option AnsStatus) (s : State) :
    Completes [.regs, .hallIrq, .mem, .ms, .dbg] s (execTallyReadoutError remote s) := by
  unfold execTallyReadoutError
  repeat' (first
    | with_reducible exact Keeps.refl _ _ | exact Part.mem_of_elem rfl | with_reducible apply completes_ite
    | with_reducible apply completes_next | with_reducible apply keeps_ite | with_reducible apply keeps_wr
    | with_reducible apply keeps_endSnap | with_reducible apply keeps_writeRecords | refine Keeps.snd_eq (by assumption) ?_ | dsimp only
    | split)

theorem completes_execTallyPeek (v : Word) (s : State) :
    Completes [.regs, .tally] s (execTallyPeek v s) := by
  unfold execTallyPeek
  repeat' (first
    | with_reducible exact Keeps.refl _ _ | exact Part.mem_of_elem rfl | with_reducible apply completes_ite
    | with_reducible apply completes_next | with_reducible apply keeps_ite | with_reducible apply keeps_wr
    | with_reducible apply keeps_wrB | dsimp only | split | with_reducible apply keeps_set_tally)

theorem completes_execTallyPeekValues (s : State) :
    Completes [.regs, .tally] s (execTallyPeekValues s) := by
  unfold execTallyPeekValues
  repeat' (first
    | with_reducible exact Keeps.refl _ _ | exact Part.mem_of_elem rfl | with_reducible apply completes_ite
    | with_reducible apply completes_next | with_reducible apply keeps_ite | with_reducible apply keeps_wr
    | with_reducible apply keeps_wrB | dsimp only | split | with_reducible apply keeps_set_tally)

theorem completes_execTallyFault (id : Fin 4096) (place : Fin 49) (ret : Bool) (s : State) :
    Completes [.regs, .hallIrq, .free, .tally, .dbg] s (execTallyFault id place ret s) := by
  unfold execTallyFault
  repeat' (first
    | with_reducible assumption | with_reducible exact Keeps.refl _ _ | exact Part.mem_of_elem rfl | intro _
    | with_reducible apply completes_ite | with_reducible apply completes_next | with_reducible apply keeps_ite
    | with_reducible apply keeps_fresh | with_reducible apply keeps_ledgerFault | refine Keeps.snd_eq (by assumption) ?_ | dsimp only
    | split | with_reducible apply keeps_set_tally)

theorem completes_execTallyVoteCorrect (id : Fin 4096) (place : Fin 49) (ret : Bool) (s : State) :
    Completes [.regs] s (execTallyVoteCorrect id place ret s) := by
  unfold execTallyVoteCorrect
  repeat' (first
    | with_reducible exact Keeps.refl _ _ | exact Part.mem_of_elem rfl | with_reducible apply completes_ite
    | with_reducible apply completes_next | with_reducible apply keeps_ite | with_reducible apply keeps_inc)

theorem completes_execCarterStartLoose (g : Fin 192) (v : Word) (s : State) :
    Completes [.regs, .crt] s (execCarterStartLoose g v s) := by
  unfold execCarterStartLoose
  repeat' (first
    | with_reducible exact Keeps.refl _ _ | exact Part.mem_of_elem rfl | with_reducible apply completes_ite
    | with_reducible apply completes_next | with_reducible apply keeps_ite | with_reducible apply keeps_inc
    | with_reducible apply keeps_startRun)

theorem completes_execCarterStartPlanned (g : Fin 192) (v : Word) (s : State) :
    Completes [.regs, .crt] s (execCarterStartPlanned g v s) := by
  unfold execCarterStartPlanned
  repeat' (first
    | with_reducible exact Keeps.refl _ _ | exact Part.mem_of_elem rfl | with_reducible apply completes_ite
    | with_reducible apply completes_next | with_reducible apply keeps_ite | with_reducible apply keeps_inc
    | with_reducible apply keeps_setCarter | with_reducible apply keeps_startRun | dsimp only | split)

theorem completes_execCarterStop (g : Fin 192) (s : State) :
    Completes [.regs, .crt] s (execCarterStop g s) := by
  unfold execCarterStop
  repeat' (first
    | with_reducible exact Keeps.refl _ _ | exact Part.mem_of_elem rfl | with_reducible apply completes_ite
    | with_reducible apply completes_next | with_reducible apply keeps_ite | with_reducible apply keeps_wr
    | with_reducible apply keeps_setCarter)

theorem completes_execCarterDescFetch (g : Fin 192) (s : State) :
    Completes [.regs, .hallIrq, .mem, .ms, .tally, .crt, .dbg] s (execCarterDescFetch g s) := by
  unfold execCarterDescFetch
  repeat' (first
    | with_reducible exact Keeps.refl _ _ | exact Part.mem_of_elem rfl | with_reducible apply completes_ite
    | with_reducible apply completes_next | with_reducible apply keeps_ite | with_reducible apply keeps_wr
    | with_reducible apply keeps_inc | with_reducible apply keeps_wrB | with_reducible apply keeps_ledgerCount
    | with_reducible apply keeps_dmaRead | with_reducible apply keeps_setCarter | refine Keeps.snd_eq (by assumption) ?_ | dsimp only
    | split)

theorem completes_execCarterBurst (g : Fin 192) (s : State) :
    Completes [.regs, .crt] s (execCarterBurst g s) := by
  unfold execCarterBurst
  repeat' (first
    | with_reducible exact Keeps.refl _ _ | exact Part.mem_of_elem rfl | with_reducible apply completes_ite
    | with_reducible apply completes_next | with_reducible apply keeps_ite | with_reducible apply keeps_setCarter | dsimp only | split
    | with_reducible apply keeps_set_crt)

theorem completes_execCarterBurstAnswer (g : Fin 192) (i : Fin 8) (a : BurstAnswer) (s : State) :
    Completes [.regs, .hallIrq, .mem, .ms, .tally, .crt, .dbg] s (execCarterBurstAnswer g i a s) := by
  unfold execCarterBurstAnswer
  repeat' (first
    | with_reducible assumption | with_reducible exact Keeps.refl _ _ | exact Part.mem_of_elem rfl | intro _
    | with_reducible apply completes_ite | with_reducible apply completes_next | with_reducible apply keeps_ite
    | with_reducible apply keeps_dmaWrite | with_reducible apply keeps_burstSource | with_reducible apply keeps_setCarter
    | with_reducible apply keeps_moveBurst | refine Keeps.snd_eq (by assumption) ?_ | dsimp only | split)

theorem completes_execCarterDescDeadlineLapse (g : Fin 192) (s : State) :
    Completes [.regs, .crt] s (execCarterDescDeadlineLapse g s) := by
  unfold execCarterDescDeadlineLapse
  repeat' (first
    | with_reducible exact Keeps.refl _ _ | exact Part.mem_of_elem rfl | with_reducible apply completes_ite
    | with_reducible apply completes_next | with_reducible apply keeps_ite | with_reducible apply keeps_setCarter | dsimp only | split)

theorem completes_execCarterDescEnd (g : Fin 192) (s : State) :
    Completes [.regs, .hallIrq, .hostIrq, .cores, .reeve, .mem, .ms, .tally, .crt, .dbg] s (execCarterDescEnd g s) := by
  unfold execCarterDescEnd
  repeat' (first
    | with_reducible exact Keeps.refl _ _ | exact Part.mem_of_elem rfl | with_reducible apply completes_ite
    | with_reducible apply completes_next | with_reducible apply keeps_ite | with_reducible apply keeps_wr
    | with_reducible apply keeps_inc | with_reducible apply keeps_ledgerCount | with_reducible apply keeps_sendToken
    | with_reducible apply keeps_dmaWrite | with_reducible apply keeps_carterIrq | with_reducible apply keeps_setCarter
    | refine Keeps.snd_eq (by assumption) ?_ | dsimp only | split)

theorem completes_execCarterChainHalt (g : Fin 192) (s : State) :
    Completes [.regs, .crt] s (execCarterChainHalt g s) := by
  unfold execCarterChainHalt
  repeat' (first
    | with_reducible exact Keeps.refl _ _ | exact Part.mem_of_elem rfl | with_reducible apply completes_next
    | with_reducible apply keeps_setCarter | dsimp only | split)

theorem completes_execCarterRunEnd (g : Fin 192) (s : State) :
    Completes [.regs, .hallIrq, .hostIrq, .cores, .crt] s (execCarterRunEnd g s) := by
  unfold execCarterRunEnd
  repeat' (first
    | with_reducible assumption | with_reducible exact Keeps.refl _ _ | exact Part.mem_of_elem rfl | intro _
    | with_reducible apply completes_ite | with_reducible apply completes_next | with_reducible apply keeps_ite
    | with_reducible apply keeps_wr | with_reducible apply keeps_carterIrq | with_reducible apply keeps_setCarter | dsimp only | split)

theorem completes_execCarterSweep (group : Fin 64) (wtag : Fin 16) (s : State) :
    Completes [.regs, .crt] s (execCarterSweep group wtag s) := by
  unfold execCarterSweep
  repeat' (first
    | with_reducible assumption | with_reducible exact Keeps.refl _ _ | exact Part.mem_of_elem rfl | intro _
    | with_reducible apply completes_ite | with_reducible apply completes_next | with_reducible apply keeps_ite
    | with_reducible apply keeps_foldl | with_reducible apply keeps_foldl | with_reducible apply keeps_inc
    | with_reducible apply keeps_setCarter)

theorem completes_execCarterResultTake (g : Fin 192) (wide : Bool) (s : State) :
    Completes [.regs, .ans, .crt] s (execCarterResultTake g wide s) := by
  unfold execCarterResultTake
  repeat' (first
    | with_reducible assumption | with_reducible exact Keeps.refl _ _ | exact Part.mem_of_elem rfl | intro _
    | with_reducible apply completes_ite | with_reducible apply completes_next | with_reducible apply keeps_ite
    | with_reducible apply keeps_reply | with_reducible apply keeps_setCarter | with_reducible apply keeps_execCarterResultTake
    | dsimp only | split)

theorem completes_execQuadCfgWrite (q : Fin 12) (v : Word) (s : State) :
    Completes [.regs] s (execQuadCfgWrite q v s) := by
  unfold execQuadCfgWrite
  repeat' (first
    | with_reducible assumption | with_reducible exact Keeps.refl _ _ | exact Part.mem_of_elem rfl | intro _
    | with_reducible apply completes_ite | with_reducible apply completes_next | with_reducible apply keeps_ite
    | with_reducible apply keeps_wrWord)

theorem completes_execLaneCfgWrite (l : Fin 48) (v : Word) (s : State) :
    Completes [.regs, .ewl] s (execLaneCfgWrite l v s) := by
  unfold execLaneCfgWrite
  repeat' (first
    | with_reducible exact Keeps.refl _ _ | exact Part.mem_of_elem rfl | with_reducible apply completes_ite
    | with_reducible apply completes_next | with_reducible apply keeps_ite | with_reducible apply keeps_wrB
    | with_reducible apply keeps_wrWord | with_reducible apply keeps_linkEval | with_reducible apply keeps_unlock | dsimp only | split)

theorem completes_execEwlEnable (k : Fin 6) (v : Word) (s : State) :
    Completes [.regs, .ewl] s (execEwlEnable k v s) := by
  unfold execEwlEnable
  repeat' (first
    | with_reducible exact Keeps.refl _ _ | exact Part.mem_of_elem rfl | with_reducible apply completes_ite
    | with_reducible apply completes_next | with_reducible apply keeps_ite | with_reducible apply keeps_wr
    | with_reducible apply keeps_ewlCfg | with_reducible apply keeps_setElink | with_reducible apply keeps_linkEval)

theorem completes_execEwlDisable (k : Fin 6) (v : Word) (s : State) :
    Completes [.regs, .ewl] s (execEwlDisable k v s) := by
  unfold execEwlDisable
  repeat' (first
    | with_reducible exact Keeps.refl _ _ | exact Part.mem_of_elem rfl | with_reducible apply completes_ite
    | with_reducible apply completes_next | with_reducible apply keeps_ite | with_reducible apply keeps_wr
    | with_reducible apply keeps_ewlCfg | with_reducible apply keeps_toHunt)

theorem completes_execEwlBlockReceive (l : Fin 48) (hdr : BitVec 2) (raw : DWord) (fullBuf : Bool) (s : State) :
    Completes [.regs, .ewl] s (execEwlBlockReceive l hdr raw fullBuf s) := by
  unfold execEwlBlockReceive
  repeat' (first
    | with_reducible exact Keeps.refl _ _ | exact Part.mem_of_elem rfl | with_reducible apply completes_ite
    | with_reducible apply completes_next | with_reducible apply keeps_ite | with_reducible apply keeps_wr
    | with_reducible apply keeps_incSat | with_reducible apply keeps_inc | with_reducible apply keeps_setLane
    | refine Keeps.snd_eq (by assumption) ?_ | dsimp only | split)

theorem completes_execBlockLockGain (l : Fin 48) (s : State) :
    Completes [.regs, .ewl] s (execBlockLockGain l s) := by
  unfold execBlockLockGain
  repeat' (first
    | with_reducible exact Keeps.refl _ _ | exact Part.mem_of_elem rfl | with_reducible apply completes_ite
    | with_reducible apply completes_next | with_reducible apply keeps_ite | with_reducible apply keeps_wr
    | with_reducible apply keeps_laneEval)

theorem completes_execBlockLockLoss (l : Fin 48) (s : State) :
    Completes [.regs, .ewl] s (execBlockLockLoss l s) := by
  unfold execBlockLockLoss
  repeat' (first
    | with_reducible exact Keeps.refl _ _ | exact Part.mem_of_elem rfl | with_reducible apply completes_ite
    | with_reducible apply completes_next | with_reducible apply keeps_ite | with_reducible apply keeps_wr
    | with_reducible apply keeps_laneEval)

theorem completes_execMarkerReceive (l : Fin 48) (payload : DWord) (skew : Nat) (s : State) :
    Completes [.regs, .ewl] s (execMarkerReceive l payload skew s) := by
  unfold execMarkerReceive
  repeat' (first
    | with_reducible exact Keeps.refl _ _ | exact Part.mem_of_elem rfl | with_reducible apply completes_ite
    | with_reducible apply completes_next | with_reducible apply keeps_ite | with_reducible apply keeps_wr
    | with_reducible apply keeps_incSat | with_reducible apply keeps_wrB | with_reducible apply keeps_setElink
    | with_reducible apply keeps_laneEval | with_reducible apply keeps_leadMarker | with_reducible apply keeps_setLane
    | refine Keeps.snd_eq (by assumption) ?_ | dsimp only | split)

theorem completes_execMarkerLockLoss (l : Fin 48) (s : State) :
    Completes [.regs, .ewl] s (execMarkerLockLoss l s) := by
  unfold execMarkerLockLoss
  repeat' (first
    | with_reducible exact Keeps.refl _ _ | exact Part.mem_of_elem rfl | with_reducible apply completes_ite
    | with_reducible apply completes_next | with_reducible apply keeps_ite | with_reducible apply keeps_wr
    | with_reducible apply keeps_laneEval | with_reducible apply keeps_setLane)

theorem completes_execEwlLinkDown (k : Fin 6) (s : State) :
    Completes [.regs, .hallIrq, .net, .tally, .ewl, .dbg] s (execEwlLinkDown k s) := by
  unfold execEwlLinkDown
  repeat' (first
    | with_reducible assumption | with_reducible exact Keeps.refl _ _ | exact Part.mem_of_elem rfl | intro _
    | with_reducible apply completes_ite | with_reducible apply completes_next | with_reducible apply keeps_ite
    | with_reducible apply keeps_foldl | with_reducible apply keeps_foldl | with_reducible apply keeps_inc
    | with_reducible apply keeps_unitAnswer | with_reducible apply keeps_setElink | dsimp only | split
    | with_reducible apply keeps_set_ewl)

theorem completes_execEwlSilent (k : Fin 6) (s : State) :
    Completes [.regs] s (execEwlSilent k s) := by
  unfold execEwlSilent
  repeat' (first
    | with_reducible exact Keeps.refl _ _ | exact Part.mem_of_elem rfl | with_reducible apply completes_ite
    | with_reducible apply completes_next | with_reducible apply keeps_ite | with_reducible apply keeps_wr)

theorem completes_execMarkerSend (k : Fin 6) (bips : List Byte) (s : State) :
    Completes [.sent, .ewl] s (execMarkerSend k bips s) := by
  unfold execMarkerSend
  repeat' (first
    | with_reducible assumption | with_reducible exact Keeps.refl _ _ | exact Part.mem_of_elem rfl | intro _
    | with_reducible apply completes_ite | with_reducible apply completes_next | with_reducible apply keeps_ite
    | with_reducible apply keeps_foldl | with_reducible apply keeps_foldl | with_reducible apply keeps_send
    | with_reducible apply keeps_setElink)

theorem completes_execChaffSend (k : Fin 6) (s : State) :
    Completes [.sent] s (execChaffSend k s) := by
  unfold execChaffSend
  repeat' (first
    | with_reducible assumption | with_reducible exact Keeps.refl _ _ | exact Part.mem_of_elem rfl | intro _
    | with_reducible apply completes_ite | with_reducible apply completes_next | with_reducible apply keeps_ite
    | with_reducible apply keeps_foldl | with_reducible apply keeps_foldl | with_reducible apply keeps_send)

theorem completes_execChaffInsert (k : Fin 6) (s : State) :
    Completes [.regs] s (execChaffInsert k s) := by
  unfold execChaffInsert
  repeat' (first
    | with_reducible exact Keeps.refl _ _ | exact Part.mem_of_elem rfl | with_reducible apply completes_ite
    | with_reducible apply completes_next | with_reducible apply keeps_ite | with_reducible apply keeps_inc)

theorem keeps_linkPacket (h : Keeps l s t) (h_regs : Part.regs ∈ l) (h_ans : Part.ans ∈ l) (h_hallIrq : Part.hallIrq ∈ l) (h_sent : Part.sent ∈ l)
    (h_net : Part.net ∈ l) (h_tally : Part.tally ∈ l) (h_ewl : Part.ewl ∈ l) (h_dbg : Part.dbg ∈ l) (k : Nat) (p : EwlPart) (w : State)
    (e : t.linkPacket k p = some w) : Keeps l s w := by
  have hinject (n : Nat) (q : PacketReq) : Keeps l s (t.injectRequest n q) := by
    apply keeps_injectRequest h <;> assumption
  have hsend (j a b c : Nat) (q : Packet) : Keeps l s (t.ewlSend j a b c q) := by
    apply keeps_ewlSend h <;> assumption
  have hdrop (f : Fld) : Keeps l s (t.inc f) := keeps_inc h h_regs f
  unfold State.linkPacket at e
  dsimp only at e
  generalize (if k < 3 then 141 else 145) = ni at e
  split at e
  · split at e
    · split at e
      · cases e
        exact keeps_set_ewl (hinject _ _) h_ewl _
      · split at e
        · cases e
        · cases e
          apply keeps_ewlReturn (keeps_set_ewl (hinject _ _) h_ewl _) <;> assumption
    · split at e
      · cases e
        apply keeps_memberAnswer h <;> assumption
      · cases e
        exact h
  · split at e
    · cases e
      exact hdrop _
    · split at e
      · cases e
        exact hdrop _
      · cases e
        exact hsend _ _ _ _ _

theorem completes_execEwlFlitReceive (k : Fin 6) (f : EwlFlit) (s : State) :
    Completes [.regs, .ans, .hallIrq, .sent, .net, .tally, .ewl, .dbg] s (execEwlFlitReceive k f s) := by
  have hreturn {t : State} (h : Keeps [.regs, .ans, .hallIrq, .sent, .net, .tally, .ewl, .dbg] s t) (k vn n : Nat) :
      Keeps [.regs, .ans, .hallIrq, .sent, .net, .tally, .ewl, .dbg] s (t.returnCredits k vn n) := by
    apply keeps_returnCredits h <;> exact Part.mem_of_elem rfl
  have hkeep (ok : Bool) (x : Ewenual) : Keeps [.regs, .ans, .hallIrq, .sent, .net, .tally, .ewl, .dbg] s
      { (if ok then s else s.inc (R.EWL_COUNTS_CRC_ERR k.val)) with ewl := x } :=
    keeps_set_ewl (keeps_ite (Keeps.refl _ s) (keeps_inc (Keeps.refl _ s) (Part.mem_of_elem rfl) _)) (Part.mem_of_elem rfl) x
  unfold execEwlFlitReceive
  refine completes_ite (completes_next (Keeps.refl _ s)) (completes_ite ?_ ?_)
  · exact completes_next (keeps_toHunt (l := [.regs, .ans, .hallIrq, .sent, .net, .tally, .ewl, .dbg])
      (keeps_inc (Keeps.refl _ s) (Part.mem_of_elem rfl) _) (Part.mem_of_elem rfl) (Part.mem_of_elem rfl) _)
  · dsimp only
    split
    · exact completes_next (hreturn (keeps_ite (Keeps.refl _ s) (keeps_inc (Keeps.refl _ s) (Part.mem_of_elem rfl) _)) _ _ _)
    · refine completes_ite (completes_next (hkeep _ _)) ?_
      split
      next u e =>
        refine completes_next (hreturn ?_ _ _ _)
        apply keeps_linkPacket (e := e) (hkeep _ _) <;> exact Part.mem_of_elem rfl
      · exact completes_next (Keeps.refl _ s)

theorem completes_execEwlCreditReceive (k : Fin 6) (payload : DWord) (s : State) :
    Completes [.sent, .ewl] s (execEwlCreditReceive k payload s) := by
  unfold execEwlCreditReceive
  repeat' (first
    | with_reducible assumption | with_reducible exact Keeps.refl _ _ | exact Part.mem_of_elem rfl | intro _
    | with_reducible apply completes_ite | with_reducible apply completes_next | with_reducible apply keeps_ite
    | with_reducible apply keeps_foldl | with_reducible apply keeps_foldl | with_reducible apply keeps_pumpTx | dsimp only | split
    | with_reducible apply keeps_set_ewl)

theorem completes_execEwlRequestTimeout (i : Nat) (s : State) :
    Completes [.regs, .hallIrq, .net, .tally, .ewl, .dbg] s (execEwlRequestTimeout i s) := by
  unfold execEwlRequestTimeout
  repeat' (first
    | with_reducible exact Keeps.refl _ _ | exact Part.mem_of_elem rfl | with_reducible apply completes_ite
    | with_reducible apply completes_next | with_reducible apply keeps_ite | with_reducible apply keeps_wr
    | with_reducible apply keeps_inc | with_reducible apply keeps_unitAnswer | dsimp only | split | with_reducible apply keeps_set_ewl)

theorem completes_execEwlMemberRevive (d : Fin 8) (s : State) :
    Completes [.regs] s (execEwlMemberRevive d s) := by
  unfold execEwlMemberRevive
  repeat' (first
    | with_reducible exact Keeps.refl _ _ | exact Part.mem_of_elem rfl | with_reducible apply completes_next
    | with_reducible apply keeps_wr)

theorem completes_execEwlTimeReceive (k : Fin 6) (payload : DWord) (s : State) :
    Completes [.regs, .ewl] s (execEwlTimeReceive k payload s) := by
  unfold execEwlTimeReceive
  repeat' (first
    | with_reducible assumption | with_reducible exact Keeps.refl _ _ | exact Part.mem_of_elem rfl | intro _
    | with_reducible apply completes_ite | with_reducible apply completes_next | with_reducible apply keeps_ite
    | with_reducible apply keeps_wr | with_reducible apply keeps_setElink | refine Keeps.snd_eq (by assumption) ?_ | dsimp only | split)

theorem completes_execEwlStreamReceive (k : Fin 6) (payload : DWord) (x : List Sample) (s : State) :
    Completes [.regs, .ewl] s (execEwlStreamReceive k payload x s) := by
  unfold execEwlStreamReceive
  repeat' (first
    | with_reducible exact Keeps.refl _ _ | exact Part.mem_of_elem rfl | with_reducible apply completes_ite
    | with_reducible apply completes_next | with_reducible apply keeps_ite | with_reducible apply keeps_inc | dsimp only | split
    | with_reducible apply keeps_set_ewl)

theorem completes_execEwlStreamSend (st : Fin 64) (s : State) :
    Completes [.sent, .sv] s (execEwlStreamSend st s) := by
  unfold execEwlStreamSend
  repeat' (first
    | with_reducible assumption | with_reducible exact Keeps.refl _ _ | exact Part.mem_of_elem rfl | intro _
    | with_reducible apply completes_ite | with_reducible apply completes_next | with_reducible apply keeps_ite
    | with_reducible apply keeps_send | dsimp only | split | with_reducible apply keeps_set_sv)

theorem completes_execPrbsCheckLock (l : Fin 48) (bits : List Bool) (s : State) :
    Completes [.regs, .ewl] s (execPrbsCheckLock l bits s) := by
  unfold execPrbsCheckLock
  repeat' (first
    | with_reducible assumption | with_reducible exact Keeps.refl _ _ | exact Part.mem_of_elem rfl | intro _
    | with_reducible apply completes_ite | with_reducible apply completes_next | with_reducible apply keeps_ite
    | with_reducible apply keeps_foldl | with_reducible apply keeps_foldl | with_reducible apply keeps_prbsBit)

theorem completes_execMarginStart (l : Fin 48) (v : Word) (s : State) :
    Completes [.regs] s (execMarginStart l v s) := by
  unfold execMarginStart
  repeat' (first
    | with_reducible exact Keeps.refl _ _ | exact Part.mem_of_elem rfl | with_reducible apply completes_ite
    | with_reducible apply completes_next | with_reducible apply keeps_ite | with_reducible apply keeps_wr
    | with_reducible apply keeps_wrWord)

theorem completes_execMarginEnd (l : Fin 48) (n : Nat) (s : State) :
    Completes [.regs] s (execMarginEnd l n s) := by
  unfold execMarginEnd
  repeat' (first
    | with_reducible exact Keeps.refl _ _ | exact Part.mem_of_elem rfl | with_reducible apply completes_ite
    | with_reducible apply completes_next | with_reducible apply keeps_ite | with_reducible apply keeps_wr)

theorem completes_execLaneRecal (l : Fin 48) (s : State) :
    Completes [.regs, .ewl] s (execLaneRecal l s) := by
  unfold execLaneRecal
  repeat' (first
    | with_reducible exact Keeps.refl _ _ | exact Part.mem_of_elem rfl | with_reducible apply completes_ite
    | with_reducible apply completes_next | with_reducible apply keeps_ite | with_reducible apply keeps_wr
    | with_reducible apply keeps_laneEval | with_reducible apply keeps_unlock | with_reducible apply keeps_portLoss)

theorem completes_execLaneRecalEnd (l : Fin 48) (s : State) :
    Completes [.regs] s (execLaneRecalEnd l s) := by
  unfold execLaneRecalEnd
  repeat' (first
    | with_reducible exact Keeps.refl _ _ | exact Part.mem_of_elem rfl | with_reducible apply completes_ite
    | with_reducible apply completes_next | with_reducible apply keeps_ite | with_reducible apply keeps_wr)

theorem completes_execMarketPortEnable (p : Fin 32) (v : Word) (s : State) :
    Completes [.regs, .ans] s (execMarketPortEnable p v s) := by
  unfold execMarketPortEnable
  repeat' (first
    | with_reducible exact Keeps.refl _ _ | exact Part.mem_of_elem rfl | with_reducible apply completes_ite
    | with_reducible apply completes_next | with_reducible apply keeps_ite | with_reducible apply keeps_wr
    | with_reducible apply keeps_ack | with_reducible apply keeps_wrB | with_reducible apply keeps_portTo
    | with_reducible apply keeps_portBegin | with_reducible apply keeps_portCfg)

theorem completes_execMarketPortRetrain (p : Fin 32) (v : Word) (s : State) :
    Completes [.regs, .ans] s (execMarketPortRetrain p v s) := by
  unfold execMarketPortRetrain
  repeat' (first
    | with_reducible exact Keeps.refl _ _ | exact Part.mem_of_elem rfl | with_reducible apply completes_ite
    | with_reducible apply completes_next | with_reducible apply keeps_ite | with_reducible apply keeps_wr
    | with_reducible apply keeps_ack | with_reducible apply keeps_portTo)

theorem completes_execTrainingComplete (p : Fin 32) (s : State) :
    Completes [.regs] s (execTrainingComplete p s) := by
  unfold execTrainingComplete
  repeat' (first
    | with_reducible exact Keeps.refl _ _ | exact Part.mem_of_elem rfl | with_reducible apply completes_ite
    | with_reducible apply completes_next | with_reducible apply keeps_ite | with_reducible apply keeps_portTo)

theorem completes_execTrainingTimeout (p : Fin 32) (s : State) :
    Completes [.regs] s (execTrainingTimeout p s) := by
  unfold execTrainingTimeout
  repeat' (first
    | with_reducible exact Keeps.refl _ _ | exact Part.mem_of_elem rfl | with_reducible apply completes_ite
    | with_reducible apply completes_next | with_reducible apply keeps_ite | with_reducible apply keeps_inc)

theorem completes_execPcsLock (p : Fin 32) (s : State) :
    Completes [.regs, .hallIrq, .tally, .mkt, .dbg] s (execPcsLock p s) := by
  unfold execPcsLock
  repeat' (first
    | with_reducible exact Keeps.refl _ _ | exact Part.mem_of_elem rfl | with_reducible apply completes_ite
    | with_reducible apply completes_next | with_reducible apply keeps_ite | with_reducible apply keeps_wrB
    | with_reducible apply keeps_pump | with_reducible apply keeps_portTo)

theorem completes_execPcsLockLoss (p : Fin 32) (s : State) :
    Completes [.regs] s (execPcsLockLoss p s) := by
  unfold execPcsLockLoss
  repeat' (first
    | with_reducible exact Keeps.refl _ _ | exact Part.mem_of_elem rfl | with_reducible apply completes_next
    | with_reducible apply keeps_portLoss)

theorem completes_execFrameReceive (p : Fin 32) (f : RxFrame) (s : State) :
    Completes [.regs, .hallIrq, .free, .mem, .ms, .tally, .mkt, .dbg] s (execFrameReceive p f s) := by
  unfold execFrameReceive
  repeat' (first
    | with_reducible assumption | with_reducible exact Keeps.refl _ _ | exact Part.mem_of_elem rfl | intro _
    | with_reducible apply completes_ite | with_reducible apply completes_next | with_reducible apply keeps_ite
    | with_reducible apply keeps_add | with_reducible apply keeps_ledgerCount | with_reducible apply keeps_portInc
    | with_reducible apply keeps_dropFrame | with_reducible apply keeps_setMsec | with_reducible apply keeps_forward
    | with_reducible apply keeps_classify | dsimp only | split)

theorem completes_execLandingWritesAnswered (i : Nat) (s : State) :
    Completes [.regs, .hallIrq, .reeve, .ms, .tally, .mkt, .dbg] s (execLandingWritesAnswered i s) := by
  unfold execLandingWritesAnswered
  repeat' (first
    | with_reducible assumption | with_reducible exact Keeps.refl _ _ | exact Part.mem_of_elem rfl | intro _
    | with_reducible apply completes_ite | with_reducible apply completes_next | with_reducible apply keeps_ite
    | with_reducible apply keeps_foldl | with_reducible apply keeps_foldl | with_reducible apply keeps_add
    | with_reducible apply keeps_poolRelease | with_reducible apply keeps_setMkt | with_reducible apply keeps_cellsFree
    | with_reducible apply keeps_countNote | refine Keeps.snd_eq (by assumption) ?_ | dsimp only | split)

theorem completes_execNotifyDeadline (g : Fin 64) (w : Fin 16) (nset : Fin 128) (sym : Fin 14) (s : State) :
    Completes [.regs, .hallIrq, .reeve, .tally, .mkt, .dbg] s (execNotifyDeadline g w nset sym s) := by
  unfold execNotifyDeadline
  repeat' (first
    | with_reducible assumption | with_reducible exact Keeps.refl _ _ | exact Part.mem_of_elem rfl | intro _
    | with_reducible apply completes_ite | with_reducible apply completes_next | with_reducible apply keeps_ite
    | with_reducible apply keeps_lapseNote | dsimp only | split)

theorem completes_execLandingQueuePush (q : Fin 64) (s : State) :
    Completes [.regs, .hallIrq, .hostIrq, .mem, .ms, .tally, .mkt, .dbg] s (execLandingQueuePush q s) := by
  unfold execLandingQueuePush
  repeat' (first
    | with_reducible assumption | with_reducible exact Keeps.refl _ _ | exact Part.mem_of_elem rfl | intro _
    | with_reducible apply completes_ite | with_reducible apply completes_next | with_reducible apply keeps_ite
    | with_reducible apply keeps_irq | with_reducible apply keeps_inc | with_reducible apply keeps_irqHost
    | with_reducible apply keeps_poolRelease | with_reducible apply keeps_dmaWrite | with_reducible apply keeps_setMkt
    | with_reducible apply keeps_portInc | refine Keeps.snd_eq (by assumption) ?_ | dsimp only | split)

theorem completes_execLqConsWrite (q : Fin 64) (v : Word) (s : State) :
    Completes [.regs, .ans] s (execLqConsWrite q v s) := by
  unfold execLqConsWrite
  repeat' (first
    | with_reducible exact Keeps.refl _ _ | exact Part.mem_of_elem rfl | with_reducible apply completes_ite
    | with_reducible apply completes_next | with_reducible apply keeps_ite | with_reducible apply keeps_wr
    | with_reducible apply keeps_ack)

theorem completes_execStreamTxBurst (st : Fin 64) (s : State) :
    Completes [.regs, .hallIrq, .sv, .tally, .mkt, .dbg] s (execStreamTxBurst st s) := by
  unfold execStreamTxBurst
  repeat' (first
    | with_reducible assumption | with_reducible exact Keeps.refl _ _ | exact Part.mem_of_elem rfl | intro _
    | with_reducible apply completes_ite | with_reducible apply completes_next | with_reducible apply keeps_ite
    | with_reducible apply keeps_foldl | with_reducible apply keeps_foldl | with_reducible apply keeps_inc
    | with_reducible apply keeps_cellsTake | with_reducible apply keeps_enqTx | with_reducible apply keeps_setStream
    | refine Keeps.snd_eq (by assumption) ?_ | dsimp only | split | with_reducible apply keeps_set_sv)

theorem completes_execEgressOpen (g : Fin 64) (w : Fin 16) (index : Fin 4096) (s : State) :
    Completes [.regs, .hallIrq, .tally, .mkt, .dbg] s (execEgressOpen g w index s) := by
  unfold execEgressOpen
  repeat' (first
    | with_reducible exact Keeps.refl _ _ | exact Part.mem_of_elem rfl | with_reducible apply completes_ite
    | with_reducible apply completes_next | with_reducible apply keeps_ite | with_reducible apply keeps_pump
    | with_reducible apply keeps_setOut | dsimp only | split)

theorem completes_execMarketTxReady (v : Word) (s : State) :
    Completes [.regs, .ans, .mkt] s (execMarketTxReady v s) := by
  unfold execMarketTxReady
  repeat' (first
    | with_reducible exact Keeps.refl _ _ | exact Part.mem_of_elem rfl | with_reducible apply completes_ite
    | with_reducible apply completes_next | with_reducible apply keeps_ite | with_reducible apply keeps_ack
    | with_reducible apply keeps_inc | with_reducible apply keeps_portInc | with_reducible apply keeps_setOut | dsimp only | split)

theorem completes_execEgressStart (p : Fin 32) (s : State) :
    Completes [.regs, .hallIrq, .mem, .ms, .tally, .mkt, .dbg] s (execEgressStart p s) := by
  unfold execEgressStart
  repeat' (first
    | with_reducible exact Keeps.refl _ _ | exact Part.mem_of_elem rfl | with_reducible apply completes_ite
    | with_reducible apply completes_next | with_reducible apply keeps_ite | with_reducible apply keeps_release
    | with_reducible apply keeps_dmaRead | with_reducible apply keeps_cellsTake | with_reducible apply keeps_startFrame
    | with_reducible apply keeps_setOut | with_reducible apply keeps_withhold | refine Keeps.snd_eq (by assumption) ?_ | dsimp only
    | split)

theorem completes_execEgressWithhold (g : Fin 64) (w : Fin 16) (index : Fin 4096) (s : State) :
    Completes [.regs, .hallIrq, .tally, .mkt, .dbg] s (execEgressWithhold g w index s) := by
  unfold execEgressWithhold
  repeat' (first
    | with_reducible exact Keeps.refl _ _ | exact Part.mem_of_elem rfl | with_reducible apply completes_ite
    | with_reducible apply completes_next | with_reducible apply keeps_ite | with_reducible apply keeps_pump
    | with_reducible apply keeps_withhold | dsimp only | split)

theorem completes_execFrameDeparture (p : Fin 32) (s : State) :
    Completes [.regs, .hallIrq, .sent, .ms, .tally, .mkt, .dbg] s (execFrameDeparture p s) := by
  unfold execFrameDeparture
  repeat' (first
    | with_reducible exact Keeps.refl _ _ | exact Part.mem_of_elem rfl | with_reducible apply completes_ite
    | with_reducible apply completes_next | with_reducible apply keeps_ite | with_reducible apply keeps_send
    | with_reducible apply keeps_poolRelease | with_reducible apply keeps_setMkt | with_reducible apply keeps_cellsFree
    | with_reducible apply keeps_portInc | with_reducible apply keeps_pump | dsimp only | split)

theorem completes_execMarketTxqPush (t : Fin 16) (v : Word) (s : State) :
    Completes [.regs, .ans, .hallIrq, .mem, .ms, .mkt, .dbg] s (execMarketTxqPush t v s) := by
  unfold execMarketTxqPush
  repeat' (first
    | with_reducible exact Keeps.refl _ _ | exact Part.mem_of_elem rfl | with_reducible apply completes_ite
    | with_reducible apply completes_next | with_reducible apply keeps_ite | with_reducible apply keeps_wr
    | with_reducible apply keeps_ack | with_reducible apply keeps_dmaRead | with_reducible apply keeps_setMkt)

/-- The reads of the descriptor and of the frame are named, so that no check of the proof runs them. -/
theorem completes_execHostFrameSend (t : Fin 16) (s : State) :
    Completes [.regs, .hallIrq, .mem, .ms, .tally, .mkt, .dbg] s (execHostFrameSend t s) := by
  have hread {t : State} (h : Keeps [.regs, .hallIrq, .mem, .ms, .tally, .mkt, .dbg] s t) (mid : Mid) (a n : Nat) :
      Keeps [.regs, .hallIrq, .mem, .ms, .tally, .mkt, .dbg] s (t.dmaRead mid a n).2 := by
    apply keeps_dmaRead h <;> exact Part.mem_of_elem rfl
  have hpop {t : State} (h : Keeps [.regs, .hallIrq, .mem, .ms, .tally, .mkt, .dbg] s t) (m : Market) (f : Fld) (v : Nat) :
      Keeps [.regs, .hallIrq, .mem, .ms, .tally, .mkt, .dbg] s ((t.setMkt m).wr f v) :=
    keeps_wr (keeps_setMkt h (Part.mem_of_elem rfl) m) (Part.mem_of_elem rfl) f v
  obtain ⟨read, hr⟩ : ∃ f, State.dmaRead = f := ⟨_, rfl⟩
  unfold execHostFrameSend
  rw [hr] at hread ⊢
  have hdesc (a : Nat) := hread (Keeps.refl _ s) marketMid a 16
  dsimp only
  split
  · exact completes_next (Keeps.refl _ s)
  · split
    · exact completes_next (hpop (hdesc _) _ _ _)
    · split
      · exact completes_next (hpop (hread (hdesc _) _ _ _) _ _ _)
      · refine completes_ite (completes_next (Keeps.refl _ s)) (completes_next ?_)
        apply keeps_enqTx
        · apply keeps_cellsTake (hpop (hread (hdesc _) _ _ _) _ _ _) <;> exact Part.mem_of_elem rfl
        all_goals exact Part.mem_of_elem rfl

theorem completes_execMarketTsPop (p : Fin 32) (v : Word) (s : State) :
    Completes [.regs, .ans, .mkt] s (execMarketTsPop p v s) := by
  unfold execMarketTsPop
  repeat' (first
    | with_reducible exact Keeps.refl _ _ | exact Part.mem_of_elem rfl | with_reducible apply completes_next
    | with_reducible apply keeps_ack | with_reducible apply keeps_showCaps)

theorem completes_execMarketTsCap3Read (p : Fin 32) (s : State) :
    Completes [.regs, .ans] s (execMarketTsCap3Read p s) := by
  unfold execMarketTsCap3Read
  repeat' (first
    | with_reducible exact Keeps.refl _ _ | exact Part.mem_of_elem rfl | with_reducible apply completes_next
    | with_reducible apply keeps_wr | with_reducible apply keeps_reply)

theorem completes_execMarketPortStatusRead (p : Fin 32) (s : State) :
    Completes [.regs, .ans] s (execMarketPortStatusRead p s) := by
  unfold execMarketPortStatusRead
  repeat' (first
    | with_reducible exact Keeps.refl _ _ | exact Part.mem_of_elem rfl | with_reducible apply completes_next
    | with_reducible apply keeps_wr | with_reducible apply keeps_reply)

theorem completes_execMarketSweep (g : Fin 64) (w : Fin 16) (s : State) :
    Completes [.regs, .hallIrq, .reeve, .tally, .mkt, .dbg] s (execMarketSweep g w s) := by
  unfold execMarketSweep
  repeat' (first
    | with_reducible assumption | with_reducible exact Keeps.refl _ _ | exact Part.mem_of_elem rfl | intro _
    | with_reducible apply completes_ite | with_reducible apply completes_next | with_reducible apply keeps_ite
    | with_reducible apply keeps_foldl | with_reducible apply keeps_foldl | with_reducible apply keeps_inc
    | with_reducible apply keeps_setMkt | with_reducible apply keeps_cellsFree | with_reducible apply keeps_lapseNote
    | with_reducible apply keeps_withhold | dsimp only | split)

theorem completes_execSynceSquelch (k : Fin 2) (s : State) :
    Completes [.regs] s (execSynceSquelch k s) := by
  unfold execSynceSquelch
  repeat' (first
    | with_reducible exact Keeps.refl _ _ | exact Part.mem_of_elem rfl | with_reducible apply completes_next
    | with_reducible apply keeps_showSynce)

theorem completes_execPcieLinkUp (speed : Fin 8) (width : Fin 32) (s : State) :
    Completes [.regs] s (execPcieLinkUp speed width s) := by
  unfold execPcieLinkUp
  repeat' (first
    | with_reducible exact Keeps.refl _ _ | exact Part.mem_of_elem rfl | with_reducible apply completes_next
    | with_reducible apply keeps_wr)

theorem completes_execHostConfigRequest (fn : Fin 256) (r : ConfigReq) (s : State) :
    Completes [.sent, .host] s (execHostConfigRequest fn r s) := by
  unfold execHostConfigRequest
  repeat' (first
    | with_reducible exact Keeps.refl _ _ | exact Part.mem_of_elem rfl | with_reducible apply completes_ite
    | with_reducible apply completes_next | with_reducible apply keeps_ite | with_reducible apply keeps_send
    | with_reducible apply keeps_setHost | dsimp only | split)

theorem completes_execHostMemoryRead (fn : Fin 256) (bar : Fin 6) (off n : Nat) (ext : List PWord) (s : State) :
    Completes [.regs, .ans, .hallIrq, .sent, .free, .reeve, .mem, .ms, .tally, .crt, .dbg] s (execHostMemoryRead fn bar off n ext s) := by
  unfold execHostMemoryRead
  repeat' (first
    | with_reducible exact Keeps.refl _ _ | exact Part.mem_of_elem rfl | with_reducible apply completes_ite
    | with_reducible apply completes_next | with_reducible apply keeps_ite | with_reducible apply keeps_dmaRead
    | with_reducible apply keeps_openBytes | with_reducible apply keeps_regRead | with_reducible apply keeps_complete
    | refine Keeps.snd_eq (by assumption) ?_ | dsimp only | split)

theorem completes_execHostDbBindWrite (fn : Fin 128) (d : Fin 16) (v : Word) (s : State) :
    Completes [.regs, .ans] s (execHostDbBindWrite fn d v s) := by
  unfold execHostDbBindWrite
  repeat' (first
    | with_reducible exact Keeps.refl _ _ | exact Part.mem_of_elem rfl | with_reducible apply completes_ite
    | with_reducible apply completes_next | with_reducible apply keeps_ite | with_reducible apply keeps_wr
    | with_reducible apply keeps_ack | with_reducible apply keeps_wrWord)

theorem completes_execHostFnWinWrite (fn : Fin 128) (v : Word) (s : State) :
    Completes [.regs, .ans] s (execHostFnWinWrite fn v s) := by
  unfold execHostFnWinWrite
  repeat' (first
    | with_reducible exact Keeps.refl _ _ | exact Part.mem_of_elem rfl | with_reducible apply completes_ite
    | with_reducible apply completes_next | with_reducible apply keeps_ite | with_reducible apply keeps_wr
    | with_reducible apply keeps_ack | with_reducible apply keeps_wrWord)

theorem completes_execHostObMapWrite (r : Fin 64) (hi : Bool) (v : Word) (s : State) :
    Completes [.regs, .ans] s (execHostObMapWrite r hi v s) := by
  unfold execHostObMapWrite
  repeat' (first
    | with_reducible exact Keeps.refl _ _ | exact Part.mem_of_elem rfl | with_reducible apply completes_ite
    | with_reducible apply completes_next | with_reducible apply keeps_ite | with_reducible apply keeps_wr
    | with_reducible apply keeps_ack | with_reducible apply keeps_wrWord)

theorem completes_execOutboundRequest (addr : Nat) (q : OutboundReq) (s : State) :
    Completes [.ans, .sent, .host] s (execOutboundRequest addr q s) := by
  unfold execOutboundRequest
  repeat' (first
    | with_reducible exact Keeps.refl _ _ | exact Part.mem_of_elem rfl | with_reducible apply completes_ite
    | with_reducible apply completes_next | with_reducible apply keeps_ite | with_reducible apply keeps_reply
    | with_reducible apply keeps_ack | with_reducible apply keeps_refusedAns | with_reducible apply keeps_send
    | with_reducible apply keeps_setHost | dsimp only | split)

theorem completes_execOutboundCompletion (i : Nat) (c : HostCpl) (s : State) :
    Completes [.regs, .ans, .host] s (execOutboundCompletion i c s) := by
  unfold execOutboundCompletion
  repeat' (first
    | with_reducible assumption | with_reducible exact Keeps.refl _ _ | exact Part.mem_of_elem rfl | intro _
    | with_reducible apply completes_ite | with_reducible apply completes_next | with_reducible apply keeps_ite
    | with_reducible apply keeps_reply | with_reducible apply keeps_inc | with_reducible apply keeps_dropRead | dsimp only | split)

theorem completes_execOutboundTimeout (i : Nat) (s : State) :
    Completes [.regs, .ans, .host] s (execOutboundTimeout i s) := by
  unfold execOutboundTimeout
  repeat' (first
    | with_reducible exact Keeps.refl _ _ | exact Part.mem_of_elem rfl | with_reducible apply completes_ite
    | with_reducible apply completes_next | with_reducible apply keeps_ite | with_reducible apply keeps_reply
    | with_reducible apply keeps_inc | with_reducible apply keeps_setHost | dsimp only | split)

theorem completes_execHostInterruptSend (src : Fin 512) (s : State) :
    Completes [.hostIrq, .sent] s (execHostInterruptSend src s) := by
  unfold execHostInterruptSend
  repeat' (first
    | with_reducible exact Keeps.refl _ _ | exact Part.mem_of_elem rfl | with_reducible apply completes_ite
    | with_reducible apply completes_next | with_reducible apply keeps_ite | with_reducible apply keeps_send
    | with_reducible apply keeps_dropHostIrq)

theorem keeps_takeSource (h : Keeps l s t) (h_regs : Part.regs ∈ l) (h_ans : Part.ans ∈ l) (h_hallIrq : Part.hallIrq ∈ l) (h_reeve : Part.reeve ∈ l)
    (h_mem : Part.mem ∈ l) (h_ms : Part.ms ∈ l) (h_crt : Part.crt ∈ l) (h_dbg : Part.dbg ∈ l) (i : Nat) {x : Nat × Nat × Nat × Bool × State}
    (e : t.takeSource i = some x) : Keeps l s x.2.2.2.2 := by
  have htaken {o : Outc} (ho : KeepsOut l s o) :
      Keeps l s (match o with | .next t => ((t.ans.words.headD default).data.toNat, t) | _ => (0, t)).2 := by
    cases o with
    | next u => exact ho.keeps u rfl
    | fault => exact h
    | refused => exact h
  unfold State.takeSource at e
  split at e
  · split at e
    · cases e
    · cases e
      exact htaken (keeps_execReeveReportTake h h_regs h_ans h_reeve _ true)
  · split at e
    · split at e
      · cases e
      · cases e
        exact htaken (keeps_execCarterResultTake h h_regs h_ans h_crt _ true)
    · split at e
      · dsimp only at e
        split at e
        · cases e
        · cases e
          exact keeps_inc (keeps_dmaRead h h_regs h_hallIrq h_mem h_ms h_dbg _ _ _) h_regs _
      · cases e

theorem completes_execHcqFill (src : Fin 512) (lost : Bool) (s : State) :
    Completes [.regs, .ans, .hallIrq, .hostIrq, .sent, .reeve, .mem, .ms, .tally, .crt, .dbg] s (execHcqFill src lost s) := by
  unfold execHcqFill
  refine completes_ite (completes_next (Keeps.refl _ s)) ?_
  split
  · exact completes_next (Keeps.refl _ s)
  next kind source v bad t e =>
    have hd : Keeps [.regs, .ans, .hallIrq, .hostIrq, .sent, .reeve, .mem, .ms, .tally, .crt, .dbg] s (t.dropHostIrq src.val) := by
      refine keeps_dropHostIrq ?_ (Part.mem_of_elem rfl) _
      apply keeps_takeSource (e := e) (Keeps.refl _ s) <;> exact Part.mem_of_elem rfl
    refine completes_ite (completes_next (keeps_inc hd (Part.mem_of_elem rfl) _)) (completes_next ?_)
    exact keeps_send (keeps_inc (keeps_send hd (Part.mem_of_elem rfl) _) (Part.mem_of_elem rfl) _) (Part.mem_of_elem rfl) _

theorem completes_execHcqHeadWrite (fn : Fin 256) (h : Fin 128) (v : Word) (s : State) :
    Completes [.regs, .host] s (execHcqHeadWrite fn h v s) := by
  unfold execHcqHeadWrite
  repeat' (first
    | with_reducible exact Keeps.refl _ _ | exact Part.mem_of_elem rfl | with_reducible apply completes_ite
    | with_reducible apply completes_next | with_reducible apply keeps_ite | with_reducible apply keeps_inc
    | with_reducible apply keeps_setHost)

theorem completes_execFunctionLevelReset (fn : Fin 256) (vfs : Bool) (s : State) :
    Completes [.regs, .host] s (execFunctionLevelReset fn vfs s) := by
  unfold execFunctionLevelReset
  repeat' (first
    | with_reducible assumption | with_reducible exact Keeps.refl _ _ | exact Part.mem_of_elem rfl | intro _
    | with_reducible apply completes_ite | with_reducible apply completes_next | with_reducible apply keeps_ite
    | with_reducible apply keeps_foldl | with_reducible apply keeps_foldl | with_reducible apply keeps_wr
    | with_reducible apply keeps_setHost | with_reducible apply keeps_stopFn)

theorem completes_execPf2VfEnable (s : State) :
    Completes [.regs, .host] s (execPf2VfEnable s) := by
  unfold execPf2VfEnable
  repeat' (first
    | with_reducible assumption | with_reducible exact Keeps.refl _ _ | exact Part.mem_of_elem rfl | intro _
    | with_reducible apply completes_ite | with_reducible apply completes_next | with_reducible apply keeps_ite
    | with_reducible apply keeps_foldl | with_reducible apply keeps_foldl | with_reducible apply keeps_wr
    | with_reducible apply keeps_setHost)

theorem completes_execPf2VfPresent (v : Fin 16) (s : State) :
    Completes [.regs] s (execPf2VfPresent v s) := by
  unfold execPf2VfPresent
  repeat' (first
    | with_reducible exact Keeps.refl _ _ | exact Part.mem_of_elem rfl | with_reducible apply completes_ite
    | with_reducible apply completes_next | with_reducible apply keeps_ite | with_reducible apply keeps_wr)

theorem completes_execPf2WindowExpiry (v : Fin 16) (s : State) :
    Completes [.regs] s (execPf2WindowExpiry v s) := by
  unfold execPf2WindowExpiry
  repeat' (first
    | with_reducible exact Keeps.refl _ _ | exact Part.mem_of_elem rfl | with_reducible apply completes_ite
    | with_reducible apply completes_next | with_reducible apply keeps_ite | with_reducible apply keeps_wr)

theorem completes_execPerstAssert (s : State) : Completes [.regs, .host] s (execPerstAssert s) := by
  refine completes_next (keeps_wr (keeps_set_host (keeps_clearRange (Keeps.refl _ s) ?_ _ _) ?_ {}) ?_ _ _) <;> exact Part.mem_of_elem rfl

theorem completes_execCoppiceLoadBegin (s : State) :
    Completes [.regs, .cop] s (execCoppiceLoadBegin s) := by
  unfold execCoppiceLoadBegin
  repeat' (first
    | with_reducible assumption | with_reducible exact Keeps.refl _ _ | exact Part.mem_of_elem rfl | intro _
    | with_reducible apply completes_ite | with_reducible apply completes_next | with_reducible apply keeps_ite
    | with_reducible apply keeps_wr | with_reducible apply keeps_setCop | with_reducible apply keeps_loadTo)

theorem completes_execCoppiceLoadEnd (s : State) :
    Completes [.regs, .hallIrq, .hostIrq, .mem, .cop] s (execCoppiceLoadEnd s) := by
  unfold execCoppiceLoadEnd
  repeat' (first
    | with_reducible exact Keeps.refl _ _ | exact Part.mem_of_elem rfl | with_reducible apply completes_ite
    | with_reducible apply completes_next | with_reducible apply keeps_ite | with_reducible apply keeps_loadFail)

theorem completes_execCoppiceLoadAbort (s : State) :
    Completes [.regs, .hallIrq, .hostIrq, .mem, .cop] s (execCoppiceLoadAbort s) := by
  unfold execCoppiceLoadAbort
  repeat' (first
    | with_reducible exact Keeps.refl _ _ | exact Part.mem_of_elem rfl | with_reducible apply completes_ite
    | with_reducible apply completes_next | with_reducible apply keeps_ite | with_reducible apply keeps_wr
    | with_reducible apply keeps_loadFail)

theorem completes_execCoppiceCfgDataWrite (mid : Mid) (bytes : List (Nat × Bool)) (whole : Bool) (s : State) :
    Completes [.regs, .ans, .hallIrq, .hostIrq, .mem, .cop] s (execCoppiceCfgDataWrite mid bytes whole s) := by
  unfold execCoppiceCfgDataWrite
  repeat' (first
    | with_reducible assumption | with_reducible exact Keeps.refl _ _ | exact Part.mem_of_elem rfl | intro _
    | with_reducible apply completes_ite | with_reducible apply completes_next | with_reducible apply keeps_ite
    | with_reducible apply keeps_ack | with_reducible apply keeps_add | with_reducible apply keeps_inc
    | with_reducible apply keeps_refusedAns | with_reducible apply keeps_setCop | with_reducible apply keeps_dropExtra
    | with_reducible apply keeps_loadFail | with_reducible apply keeps_takeHeader)

theorem completes_execCoppiceEraseEnd (s : State) :
    Completes [.regs, .mem, .cop] s (execCoppiceEraseEnd s) := by
  unfold execCoppiceEraseEnd
  repeat' (first
    | with_reducible assumption | with_reducible exact Keeps.refl _ _ | exact Part.mem_of_elem rfl | intro _
    | with_reducible apply completes_ite | with_reducible apply completes_next | with_reducible apply keeps_ite
    | with_reducible apply keeps_foldl | with_reducible apply keeps_foldl | with_reducible apply keeps_eraseStool
    | with_reducible apply keeps_loadTo)

theorem completes_execCoppiceFrameWrite (s : State) :
    Completes [.regs, .hallIrq, .hostIrq, .mem, .cop] s (execCoppiceFrameWrite s) := by
  unfold execCoppiceFrameWrite
  repeat' (first
    | with_reducible exact Keeps.refl _ _ | exact Part.mem_of_elem rfl | with_reducible apply completes_ite
    | with_reducible apply completes_next | with_reducible apply keeps_ite | with_reducible apply keeps_wr
    | with_reducible apply keeps_loadTo | with_reducible apply keeps_loadFail | with_reducible apply keeps_writeFrame | dsimp only | split)

theorem completes_execCoppiceLoadTimeout (s : State) :
    Completes [.regs, .hallIrq, .hostIrq, .mem, .cop] s (execCoppiceLoadTimeout s) := by
  unfold execCoppiceLoadTimeout
  repeat' (first
    | with_reducible exact Keeps.refl _ _ | exact Part.mem_of_elem rfl | with_reducible apply completes_ite
    | with_reducible apply completes_next | with_reducible apply keeps_ite | with_reducible apply keeps_loadFail)

theorem completes_execCoppiceTrailerCheck (s : State) :
    Completes [.regs, .hallIrq, .hostIrq, .mem, .cop] s (execCoppiceTrailerCheck s) := by
  unfold execCoppiceTrailerCheck
  repeat' (first
    | with_reducible exact Keeps.refl _ _ | exact Part.mem_of_elem rfl | with_reducible apply completes_ite
    | with_reducible apply completes_next | with_reducible apply keeps_ite | with_reducible apply keeps_loadTo
    | with_reducible apply keeps_loadFail)

theorem completes_execCoppiceSignatureVerified (s : State) :
    Completes [.regs, .hallIrq, .hostIrq, .mem, .cop] s (execCoppiceSignatureVerified s) := by
  unfold execCoppiceSignatureVerified
  repeat' (first
    | with_reducible exact Keeps.refl _ _ | exact Part.mem_of_elem rfl | with_reducible apply completes_ite
    | with_reducible apply completes_next | with_reducible apply keeps_ite | with_reducible apply keeps_loadTo
    | with_reducible apply keeps_loadFail)

theorem completes_execCoppiceRelease (s : State) :
    Completes [.regs, .hallIrq, .hostIrq, .cop] s (execCoppiceRelease s) := by
  unfold execCoppiceRelease
  repeat' (first
    | with_reducible assumption | with_reducible exact Keeps.refl _ _ | exact Part.mem_of_elem rfl | intro _
    | with_reducible apply completes_ite | with_reducible apply completes_next | with_reducible apply keeps_ite
    | with_reducible apply keeps_foldl | with_reducible apply keeps_foldl | with_reducible apply keeps_wr
    | with_reducible apply keeps_stoolTo | with_reducible apply keeps_loadDone | with_reducible apply keeps_userReset)

theorem completes_execStoolQuiesce (k : Fin 16) (s : State) :
    Completes [.regs] s (execStoolQuiesce k s) := by
  unfold execStoolQuiesce
  repeat' (first
    | with_reducible exact Keeps.refl _ _ | exact Part.mem_of_elem rfl | with_reducible apply completes_next
    | with_reducible apply keeps_stoolTo | with_reducible apply keeps_stoolCmd)

theorem completes_execStoolOpen (k : Fin 16) (s : State) :
    Completes [.regs] s (execStoolOpen k s) := by
  unfold execStoolOpen
  repeat' (first
    | with_reducible exact Keeps.refl _ _ | exact Part.mem_of_elem rfl | with_reducible apply completes_next
    | with_reducible apply keeps_stoolTo | with_reducible apply keeps_stoolCmd)

theorem completes_execStoolClear (k : Fin 16) (s : State) :
    Completes [.regs] s (execStoolClear k s) := by
  unfold execStoolClear
  repeat' (first
    | with_reducible exact Keeps.refl _ _ | exact Part.mem_of_elem rfl | with_reducible apply completes_next
    | with_reducible apply keeps_stoolTo | with_reducible apply keeps_stoolCmd)

theorem completes_execStoolUserReset (k : Fin 16) (s : State) :
    Completes [.regs, .cop] s (execStoolUserReset k s) := by
  unfold execStoolUserReset
  repeat' (first
    | with_reducible exact Keeps.refl _ _ | exact Part.mem_of_elem rfl | with_reducible apply completes_next
    | with_reducible apply keeps_stoolCmd | with_reducible apply keeps_userReset)

theorem completes_execStoolDrainEnd (k : Fin 16) (s : State) :
    Completes [.regs] s (execStoolDrainEnd k s) := by
  unfold execStoolDrainEnd
  repeat' (first
    | with_reducible exact Keeps.refl _ _ | exact Part.mem_of_elem rfl | with_reducible apply completes_ite
    | with_reducible apply completes_next | with_reducible apply keeps_ite | with_reducible apply keeps_stoolTo
    | with_reducible apply keeps_loadTo)

theorem completes_execStoolClearEnd (k : Fin 16) (s : State) :
    Completes [.regs, .mem, .cop] s (execStoolClearEnd k s) := by
  unfold execStoolClearEnd
  repeat' (first
    | with_reducible exact Keeps.refl _ _ | exact Part.mem_of_elem rfl | with_reducible apply completes_ite
    | with_reducible apply completes_next | with_reducible apply keeps_ite | with_reducible apply keeps_fallow)

theorem completes_execStoolRequestTimeout (p : Nat) (s : State) :
    Completes [.regs, .hallIrq, .net, .tally, .dbg] s (execStoolRequestTimeout p s) := by
  unfold execStoolRequestTimeout
  repeat' (first
    | with_reducible assumption | with_reducible exact Keeps.refl _ _ | exact Part.mem_of_elem rfl | intro _
    | with_reducible apply completes_ite | with_reducible apply completes_next | with_reducible apply keeps_ite
    | with_reducible apply keeps_inc | with_reducible apply keeps_unitAnswer | dsimp only | split)

theorem completes_execStoolRequestCheck (k : Fin 16) (store : Bool) (addr n : Nat) (s : State) :
    Completes [.regs, .ans] s (execStoolRequestCheck k store addr n s) := by
  unfold execStoolRequestCheck
  repeat' (first
    | with_reducible exact Keeps.refl _ _ | exact Part.mem_of_elem rfl | with_reducible apply completes_ite
    | with_reducible apply completes_next | with_reducible apply keeps_ite | with_reducible apply keeps_inc
    | with_reducible apply keeps_refusedAns)

theorem completes_execStoolBlockTimeout (k : Fin 16) (s : State) :
    Completes [.regs, .sv, .mkt] s (execStoolBlockTimeout k s) := by
  unfold execStoolBlockTimeout
  repeat' (first
    | with_reducible exact Keeps.refl _ _ | exact Part.mem_of_elem rfl | with_reducible apply completes_next
    | with_reducible apply keeps_inc | dsimp only | split | with_reducible apply keeps_set_mkt | with_reducible apply keeps_set_sv)

theorem completes_execStoolIrqEdge (k : Fin 16) (line : Fin 8) (s : State) :
    Completes [.hallIrq, .hostIrq] s (execStoolIrqEdge k line s) := by
  unfold execStoolIrqEdge
  repeat' (first
    | with_reducible exact Keeps.refl _ _ | exact Part.mem_of_elem rfl | with_reducible apply completes_ite
    | with_reducible apply completes_next | with_reducible apply keeps_ite | with_reducible apply keeps_irq
    | with_reducible apply keeps_irqHost)

theorem completes_execUclkCfgWrite (k : Fin 8) (v : Word) (s : State) :
    Completes [.regs, .ans] s (execUclkCfgWrite k v s) := by
  unfold execUclkCfgWrite
  repeat' (first
    | with_reducible assumption | with_reducible exact Keeps.refl _ _ | exact Part.mem_of_elem rfl | intro _
    | with_reducible apply completes_ite | with_reducible apply completes_next | with_reducible apply keeps_ite
    | with_reducible apply keeps_wr | with_reducible apply keeps_ack | with_reducible apply keeps_w1c)

theorem completes_execUclkLocked (k : Fin 8) (s : State) :
    Completes [.regs, .stp] s (execUclkLocked k s) := by
  unfold execUclkLocked
  repeat' (first
    | with_reducible exact Keeps.refl _ _ | exact Part.mem_of_elem rfl | with_reducible apply completes_ite
    | with_reducible apply completes_next | with_reducible apply keeps_ite | with_reducible apply keeps_wr
    | with_reducible apply keeps_setLost)

theorem completes_execCoppiceReadbackSelect (v : Word) (s : State) :
    Completes [.regs, .ans] s (execCoppiceReadbackSelect v s) := by
  unfold execCoppiceReadbackSelect
  repeat' (first
    | with_reducible exact Keeps.refl _ _ | exact Part.mem_of_elem rfl | with_reducible apply completes_next
    | with_reducible apply keeps_ack | with_reducible apply keeps_wrWord)

theorem completes_execStrongQProdWrite (mid : Mid) (q : Fin 8) (v : Word) (s : State) :
    Completes [.regs, .ans] s (execStrongQProdWrite mid q v s) := by
  unfold execStrongQProdWrite
  repeat' (first
    | with_reducible exact Keeps.refl _ _ | exact Part.mem_of_elem rfl | with_reducible apply completes_ite
    | with_reducible apply completes_next | with_reducible apply keeps_ite | with_reducible apply keeps_wr
    | with_reducible apply keeps_ack | with_reducible apply keeps_refusedAns)

theorem completes_execStrongDescriptorEnd (q : Fin 8) (s : State) :
    Completes [.regs, .hallIrq, .hostIrq, .mem, .ms, .strong, .dbg] s (execStrongDescriptorEnd q s) := by
  unfold execStrongDescriptorEnd
  repeat' (first
    | with_reducible exact Keeps.refl _ _ | exact Part.mem_of_elem rfl | with_reducible apply completes_ite
    | with_reducible apply completes_next | with_reducible apply keeps_ite | with_reducible apply keeps_finishDesc
    | with_reducible apply keeps_strongFetch | refine Keeps.snd_eq (by assumption) ?_ | dsimp only | split)

theorem completes_execDigest (q : Fin 8) (s : State) :
    Completes [.regs, .hallIrq, .mem, .ms, .strong, .dbg] s (execDigest q s) := by
  unfold execDigest
  repeat' (first
    | with_reducible assumption | with_reducible exact Keeps.refl _ _ | exact Part.mem_of_elem rfl | intro _
    | with_reducible apply completes_ite | with_reducible apply completes_next | with_reducible apply completes_service
    | with_reducible apply keeps_ite | with_reducible apply keeps_mapBytes | dsimp only | split)

theorem completes_execHmac (q : Fin 8) (s : State) :
    Completes [.regs, .hallIrq, .mem, .ms, .strong, .dbg] s (execHmac q s) := by
  unfold execHmac
  repeat' (first
    | with_reducible assumption | with_reducible exact Keeps.refl _ _ | exact Part.mem_of_elem rfl | intro _
    | with_reducible apply completes_ite | with_reducible apply completes_next | with_reducible apply completes_service
    | with_reducible apply keeps_ite | with_reducible apply keeps_mapBytes | dsimp only | split)

theorem completes_execGcmEnc (q : Fin 8) (s : State) :
    Completes [.regs, .hallIrq, .mem, .ms, .strong, .dbg] s (execGcmEnc q s) := by
  unfold execGcmEnc
  repeat' (first
    | with_reducible assumption | with_reducible exact Keeps.refl _ _ | exact Part.mem_of_elem rfl | intro _
    | with_reducible apply completes_ite | with_reducible apply completes_next | with_reducible apply completes_service
    | with_reducible apply keeps_ite | with_reducible apply keeps_mapBytes | refine Keeps.snd_eq (by assumption) ?_ | dsimp only | split)

theorem completes_execGcmDec (q : Fin 8) (s : State) :
    Completes [.regs, .hallIrq, .mem, .ms, .strong, .dbg] s (execGcmDec q s) := by
  unfold execGcmDec
  repeat' (first
    | with_reducible assumption | with_reducible exact Keeps.refl _ _ | exact Part.mem_of_elem rfl | intro _
    | with_reducible apply completes_ite | with_reducible apply completes_next | with_reducible apply completes_service
    | with_reducible apply keeps_ite | with_reducible apply keeps_deliver | with_reducible apply keeps_source
    | refine Keeps.snd_eq (by assumption) ?_ | dsimp only | split)

theorem completes_execEcdsaSign (q : Fin 8) (s : State) :
    Completes [.regs, .hallIrq, .mem, .ms, .strong, .dbg] s (execEcdsaSign q s) := by
  unfold execEcdsaSign
  repeat' (first
    | with_reducible assumption | with_reducible exact Keeps.refl _ _ | exact Part.mem_of_elem rfl | intro _
    | with_reducible apply completes_ite | with_reducible apply completes_next | with_reducible apply completes_service
    | with_reducible apply keeps_ite | with_reducible apply keeps_draw | with_reducible apply keeps_mapBytes
    | refine Keeps.snd_eq (by assumption) ?_ | dsimp only | split)

theorem completes_execEcdsaVerify (q : Fin 8) (s : State) :
    Completes [.regs, .hallIrq, .mem, .ms, .strong, .dbg] s (execEcdsaVerify q s) := by
  unfold execEcdsaVerify
  repeat' (first
    | with_reducible assumption | with_reducible exact Keeps.refl _ _ | exact Part.mem_of_elem rfl | intro _
    | with_reducible apply completes_ite | with_reducible apply completes_next | with_reducible apply completes_service
    | with_reducible apply keeps_ite | with_reducible apply keeps_source | refine Keeps.snd_eq (by assumption) ?_ | dsimp only | split)

theorem completes_execEcdh (q : Fin 8) (pairOk : Bool) (s : State) :
    Completes [.regs, .hallIrq, .mem, .ms, .mkt, .strong, .dbg] s (execEcdh q pairOk s) := by
  unfold execEcdh
  repeat' (first
    | with_reducible assumption | with_reducible exact Keeps.refl _ _ | exact Part.mem_of_elem rfl | intro _
    | with_reducible apply completes_ite | with_reducible apply completes_next | with_reducible apply completes_service
    | with_reducible apply keeps_ite | with_reducible apply keeps_source | with_reducible apply keeps_newKey
    | refine Keeps.snd_eq (by assumption) ?_ | dsimp only | split)

theorem completes_execKeygen (q : Fin 8) (pairOk : Bool) (s : State) :
    Completes [.regs, .hallIrq, .mem, .ms, .mkt, .strong, .dbg] s (execKeygen q pairOk s) := by
  unfold execKeygen
  repeat' (first
    | with_reducible assumption | with_reducible exact Keeps.refl _ _ | exact Part.mem_of_elem rfl | intro _
    | with_reducible apply completes_ite | with_reducible apply completes_next | with_reducible apply completes_service
    | with_reducible apply keeps_ite | with_reducible apply keeps_deliver | with_reducible apply keeps_draw
    | with_reducible apply keeps_newKey | refine Keeps.snd_eq (by assumption) ?_ | dsimp only | split)

theorem completes_execKdf (q : Fin 8) (pairOk : Bool) (s : State) :
    Completes [.regs, .hallIrq, .mem, .ms, .mkt, .strong, .dbg] s (execKdf q pairOk s) := by
  unfold execKdf
  repeat' (first
    | with_reducible assumption | with_reducible exact Keeps.refl _ _ | exact Part.mem_of_elem rfl | intro _
    | with_reducible apply completes_ite | with_reducible apply completes_next | with_reducible apply completes_service
    | with_reducible apply keeps_ite | with_reducible apply keeps_source | with_reducible apply keeps_newKey
    | refine Keeps.snd_eq (by assumption) ?_ | dsimp only | split)

theorem completes_execWrap (q : Fin 8) (s : State) :
    Completes [.regs, .hallIrq, .mem, .ms, .strong, .dbg] s (execWrap q s) := by
  unfold execWrap
  repeat' (first
    | with_reducible assumption | with_reducible exact Keeps.refl _ _ | exact Part.mem_of_elem rfl | intro _
    | with_reducible apply completes_ite | with_reducible apply completes_next | with_reducible apply completes_service
    | with_reducible apply keeps_ite | with_reducible apply keeps_deliver | dsimp only | split)

theorem completes_execUnwrap (q : Fin 8) (pairOk : Bool) (s : State) :
    Completes [.regs, .hallIrq, .mem, .ms, .mkt, .strong, .dbg] s (execUnwrap q pairOk s) := by
  unfold execUnwrap
  repeat' (first
    | with_reducible assumption | with_reducible exact Keeps.refl _ _ | exact Part.mem_of_elem rfl | intro _
    | with_reducible apply completes_ite | with_reducible apply completes_next | with_reducible apply completes_service
    | with_reducible apply keeps_ite | with_reducible apply keeps_source | with_reducible apply keeps_newKey
    | refine Keeps.snd_eq (by assumption) ?_ | dsimp only | split)

theorem completes_execRandom (q : Fin 8) (s : State) :
    Completes [.regs, .hallIrq, .mem, .ms, .strong, .dbg] s (execRandom q s) := by
  unfold execRandom
  repeat' (first
    | with_reducible assumption | with_reducible exact Keeps.refl _ _ | exact Part.mem_of_elem rfl | intro _
    | with_reducible apply completes_ite | with_reducible apply completes_next | with_reducible apply completes_service
    | with_reducible apply keeps_ite | with_reducible apply keeps_deliver | with_reducible apply keeps_draw
    | refine Keeps.snd_eq (by assumption) ?_ | dsimp only | split)

theorem completes_execKeyDestroy (q : Fin 8) (s : State) :
    Completes [.regs, .hallIrq, .mem, .ms, .strong, .dbg] s (execKeyDestroy q s) := by
  unfold execKeyDestroy
  repeat' (first
    | with_reducible assumption | with_reducible exact Keeps.refl _ _ | exact Part.mem_of_elem rfl | intro _
    | with_reducible apply completes_next | with_reducible apply completes_service | with_reducible apply keeps_emptyKey | dsimp only
    | split)

theorem completes_execMacsecInstall (q : Fin 8) (s : State) :
    Completes [.regs, .hallIrq, .free, .mem, .ms, .mkt, .strong, .dbg] s (execMacsecInstall q s) := by
  unfold execMacsecInstall
  repeat' (first
    | with_reducible assumption | with_reducible exact Keeps.refl _ _ | exact Part.mem_of_elem rfl | intro _
    | with_reducible apply completes_ite | with_reducible apply completes_next | with_reducible apply completes_service
    | with_reducible apply keeps_ite | with_reducible apply keeps_setMsec | dsimp only | split | with_reducible apply keeps_set_free)

theorem completes_execPdcpKeyLoad (q : Fin 8) (s : State) :
    Completes [.regs, .hallIrq, .mem, .ms, .strong, .dbg] s (execPdcpKeyLoad q s) := by
  unfold execPdcpKeyLoad
  repeat' (first
    | with_reducible assumption | with_reducible exact Keeps.refl _ _ | exact Part.mem_of_elem rfl | intro _
    | with_reducible apply completes_ite | with_reducible apply completes_next | with_reducible apply completes_service
    | with_reducible apply keeps_ite | with_reducible apply keeps_setStrong | dsimp only | split)

theorem completes_execPdcp (q : Fin 8) (s : State) :
    Completes [.regs, .hallIrq, .mem, .ms, .strong, .dbg] s (execPdcp q s) := by
  unfold execPdcp
  repeat' (first
    | with_reducible assumption | with_reducible exact Keeps.refl _ _ | exact Part.mem_of_elem rfl | intro _
    | with_reducible apply completes_ite | with_reducible apply completes_next | with_reducible apply completes_service
    | with_reducible apply keeps_ite | with_reducible apply keeps_deliver | with_reducible apply keeps_source
    | refine Keeps.snd_eq (by assumption) ?_ | dsimp only | split)

theorem completes_execVerifyImage (q : Fin 8) (s : State) :
    Completes [.regs, .hallIrq, .mem, .ms, .strong, .dbg] s (execVerifyImage q s) := by
  unfold execVerifyImage
  repeat' (first
    | with_reducible assumption | with_reducible exact Keeps.refl _ _ | exact Part.mem_of_elem rfl | intro _
    | with_reducible apply completes_ite | with_reducible apply completes_next | with_reducible apply completes_service
    | with_reducible apply keeps_ite | with_reducible apply keeps_source | refine Keeps.snd_eq (by assumption) ?_ | dsimp only | split)

theorem completes_execAuthCo (q : Fin 8) (s : State) :
    Completes [.regs, .hallIrq, .mem, .ms, .strong, .dbg] s (execAuthCo q s) := by
  unfold execAuthCo
  repeat' (first
    | with_reducible assumption | with_reducible exact Keeps.refl _ _ | exact Part.mem_of_elem rfl | intro _
    | with_reducible apply completes_ite | with_reducible apply completes_next | with_reducible apply completes_service
    | with_reducible apply keeps_ite | with_reducible apply keeps_wr | with_reducible apply keeps_clearChallenge
    | with_reducible apply keeps_source | with_reducible apply keeps_reject | refine Keeps.snd_eq (by assumption) ?_ | dsimp only | split)

theorem completes_execBindQueue (q : Fin 8) (s : State) :
    Completes [.regs, .hallIrq, .mem, .ms, .strong, .dbg] s (execBindQueue q s) := by
  unfold execBindQueue
  repeat' (first
    | with_reducible assumption | with_reducible exact Keeps.refl _ _ | exact Part.mem_of_elem rfl | intro _
    | with_reducible apply completes_ite | with_reducible apply completes_next | with_reducible apply completes_service
    | with_reducible apply keeps_ite | with_reducible apply keeps_wr | with_reducible apply keeps_setStrong | dsimp only | split)

theorem completes_execSetMode (q : Fin 8) (s : State) :
    Completes [.regs, .hallIrq, .mem, .ms, .strong, .dbg] s (execSetMode q s) := by
  unfold execSetMode
  repeat' (first
    | with_reducible assumption | with_reducible exact Keeps.refl _ _ | exact Part.mem_of_elem rfl | intro _
    | with_reducible apply completes_next | with_reducible apply completes_service | with_reducible apply keeps_wr
    | with_reducible apply keeps_showApproved)

theorem completes_execZeroize (q : Fin 8) (s : State) :
    Completes [.regs, .hallIrq, .mem, .ms, .mkt, .strong, .dbg] s (execZeroize q s) := by
  unfold execZeroize
  repeat' (first
    | with_reducible assumption | with_reducible exact Keeps.refl _ _ | exact Part.mem_of_elem rfl | intro _
    | with_reducible apply completes_ite | with_reducible apply completes_next | with_reducible apply completes_service
    | with_reducible apply keeps_ite | with_reducible apply keeps_wr | with_reducible apply keeps_setStrong
    | with_reducible apply keeps_zeroize | dsimp only | split)

theorem completes_execRevoke (q : Fin 8) (s : State) :
    Completes [.regs, .hallIrq, .mem, .ms, .strong, .dbg] s (execRevoke q s) := by
  unfold execRevoke
  repeat' (first
    | with_reducible assumption | with_reducible exact Keeps.refl _ _ | exact Part.mem_of_elem rfl | intro _
    | with_reducible apply completes_ite | with_reducible apply completes_next | with_reducible apply completes_service
    | with_reducible apply keeps_ite | with_reducible apply keeps_wr | with_reducible apply keeps_setStrong | dsimp only | split)

theorem completes_execRollback (q : Fin 8) (s : State) :
    Completes [.regs, .hallIrq, .mem, .ms, .strong, .dbg] s (execRollback q s) := by
  unfold execRollback
  repeat' (first
    | with_reducible assumption | with_reducible exact Keeps.refl _ _ | exact Part.mem_of_elem rfl | intro _
    | with_reducible apply completes_ite | with_reducible apply completes_next | with_reducible apply completes_service
    | with_reducible apply keeps_ite | with_reducible apply keeps_wr | with_reducible apply keeps_setStrong | dsimp only | split)

theorem completes_execNewChallenge (v : Word) (s : State) :
    Completes [.regs, .ans, .strong] s (execNewChallenge v s) := by
  unfold execNewChallenge
  repeat' (first
    | with_reducible assumption | with_reducible exact Keeps.refl _ _ | exact Part.mem_of_elem rfl | intro _
    | with_reducible apply completes_ite | with_reducible apply completes_next | with_reducible apply keeps_ite
    | with_reducible apply keeps_foldl | with_reducible apply keeps_foldl | with_reducible apply keeps_wr | with_reducible apply keeps_ack
    | with_reducible apply keeps_setStrong | with_reducible apply keeps_draw)

theorem completes_execChallengeExpiry (s : State) :
    Completes [.regs, .strong] s (execChallengeExpiry s) := by
  unfold execChallengeExpiry
  repeat' (first
    | with_reducible exact Keeps.refl _ _ | exact Part.mem_of_elem rfl | with_reducible apply completes_ite
    | with_reducible apply completes_next | with_reducible apply keeps_ite | with_reducible apply keeps_clearChallenge | dsimp only
    | split)

theorem completes_execDebugResponseSubmit (v : Word) (s : State) :
    Completes [.regs, .ans, .mkt, .strong] s (execDebugResponseSubmit v s) := by
  unfold execDebugResponseSubmit
  repeat' (first
    | with_reducible assumption | with_reducible exact Keeps.refl _ _ | exact Part.mem_of_elem rfl | intro _
    | with_reducible apply completes_ite | with_reducible apply completes_next | with_reducible apply keeps_ite
    | with_reducible apply keeps_wr | with_reducible apply keeps_ack | with_reducible apply keeps_showApproved
    | with_reducible apply keeps_reject | with_reducible apply keeps_zeroize)

theorem completes_execZeroizePin (s : State) :
    Completes [.regs, .mkt, .strong] s (execZeroizePin s) := by
  unfold execZeroizePin
  repeat' (first
    | with_reducible exact Keeps.refl _ _ | exact Part.mem_of_elem rfl | with_reducible apply completes_ite
    | with_reducible apply completes_next | with_reducible apply keeps_ite | with_reducible apply keeps_wr
    | with_reducible apply keeps_inc | with_reducible apply keeps_wipe | with_reducible apply keeps_zeroize)

theorem completes_execZeroizationComplete (s : State) :
    Completes [.regs, .strong] s (execZeroizationComplete s) := by
  unfold execZeroizationComplete
  repeat' (first
    | with_reducible exact Keeps.refl _ _ | exact Part.mem_of_elem rfl | with_reducible apply completes_ite
    | with_reducible apply completes_next | with_reducible apply keeps_ite | with_reducible apply keeps_inc
    | with_reducible apply keeps_setStrong | with_reducible apply keeps_strongTo)

theorem completes_execStrongRestart (mid : Mid) (v : Word) (s : State) :
    Completes [.regs, .ans, .strong] s (execStrongRestart mid v s) := by
  unfold execStrongRestart
  repeat' (first
    | with_reducible assumption | with_reducible exact Keeps.refl _ _ | exact Part.mem_of_elem rfl | intro _
    | with_reducible apply completes_ite | with_reducible apply completes_next | with_reducible apply keeps_ite
    | with_reducible apply keeps_foldl | with_reducible apply keeps_foldl | with_reducible apply keeps_ack
    | with_reducible apply keeps_refusedAns | with_reducible apply keeps_setStrong | with_reducible apply keeps_emptyKey
    | with_reducible apply keeps_strongTo)

theorem completes_execStrongSelftestEnd (failed : Option (Fin 16)) (s : State) :
    Completes [.regs, .boot, .dbg] s (execStrongSelftestEnd failed s) := by
  unfold execStrongSelftestEnd
  repeat' (first
    | with_reducible exact Keeps.refl _ _ | exact Part.mem_of_elem rfl | with_reducible apply completes_ite
    | with_reducible apply completes_next | with_reducible apply keeps_ite | with_reducible apply keeps_wr
    | with_reducible apply keeps_raise | with_reducible apply keeps_strongTo | with_reducible apply keeps_showOtp | dsimp only | split
    | with_reducible apply keeps_set_boot)

theorem completes_execEntropyHealthFail (s : State) :
    Completes [.regs, .mkt, .strong, .dbg] s (execEntropyHealthFail s) := by
  unfold execEntropyHealthFail
  repeat' (first
    | with_reducible exact Keeps.refl _ _ | exact Part.mem_of_elem rfl | with_reducible apply completes_ite
    | with_reducible apply completes_next | with_reducible apply keeps_ite | with_reducible apply keeps_strongError)

theorem completes_execResetNRelease (straps : Fin 4 × Fin 4 × Fin 4) (fast : Bool) (s : State) :
    Completes [.regs, .boot] s (execResetNRelease straps fast s) := by
  unfold execResetNRelease
  repeat' (first
    | with_reducible assumption | with_reducible exact Keeps.refl _ _ | exact Part.mem_of_elem rfl | intro _
    | with_reducible apply completes_ite | with_reducible apply completes_next | with_reducible apply keeps_ite
    | with_reducible apply keeps_wr | with_reducible apply keeps_wrB | with_reducible apply keeps_setBoot
    | with_reducible apply keeps_crier)

theorem completes_execFuseReadEnd (fault : Option (Fin 3 × Nat)) (bad : List (Fin 16 × Fin 9)) (s : State) :
    Completes [.regs, .boot, .hml] s (execFuseReadEnd fault bad s) := by
  unfold execFuseReadEnd
  repeat' (first
    | with_reducible assumption | with_reducible exact Keeps.refl _ _ | exact Part.mem_of_elem rfl | intro _
    | with_reducible apply completes_ite | with_reducible apply completes_next | with_reducible apply keeps_ite
    | with_reducible apply keeps_stepTo | with_reducible apply keeps_setBoot | with_reducible apply keeps_crier
    | with_reducible apply keeps_failCores | refine Keeps.snd_eq (by assumption) ?_ | dsimp only | split)

theorem completes_execPoweronHarrowEnd (rows checkers : List (Fin 8 × Fin 256)) (s : State) :
    Completes [.regs, .boot, .hml] s (execPoweronHarrowEnd rows checkers s) := by
  unfold execPoweronHarrowEnd
  repeat' (first
    | with_reducible assumption | with_reducible exact Keeps.refl _ _ | exact Part.mem_of_elem rfl | intro _
    | with_reducible apply completes_ite | with_reducible apply completes_next | with_reducible apply keeps_ite
    | with_reducible apply keeps_stepTo | with_reducible apply keeps_setBoot | with_reducible apply keeps_crier
    | with_reducible apply keeps_failCores | refine Keeps.snd_eq (by assumption) ?_ | dsimp only | split)

theorem completes_execPoweronFillEnd (s : State) :
    Completes [.regs, .mem, .ms, .boot] s (execPoweronFillEnd s) := by
  unfold execPoweronFillEnd
  repeat' (first
    | with_reducible assumption | with_reducible rfl | with_reducible exact Keeps.refl _ _ | exact Part.mem_of_elem rfl | intro _
    | with_reducible apply completes_ite | with_reducible apply completes_next | with_reducible apply keeps_ite
    | with_reducible apply Memory.wf_putRaw | with_reducible apply Memory.wf_put | with_reducible apply Memory.wf_fill
    | with_reducible apply Memory.wf_foldl | with_reducible apply keeps_setMem | with_reducible apply keeps_stepTo
    | with_reducible apply keeps_setBoot | dsimp only | split | with_reducible apply keeps_set_ms)

theorem completes_execLbistEnd (blocks : List (Fin 256)) (bad : List (Fin 16 × Fin 9)) (s : State) :
    Completes [.regs, .boot, .hml] s (execLbistEnd blocks bad s) := by
  unfold execLbistEnd
  repeat' (first
    | with_reducible assumption | with_reducible exact Keeps.refl _ _ | exact Part.mem_of_elem rfl | intro _
    | with_reducible apply completes_ite | with_reducible apply completes_next | with_reducible apply keeps_ite
    | with_reducible apply keeps_foldl | with_reducible apply keeps_foldl | with_reducible apply keeps_stepTo
    | with_reducible apply keeps_setBoot | with_reducible apply keeps_crier | with_reducible apply keeps_failCores
    | refine Keeps.snd_eq (by assumption) ?_ | dsimp only | split)

theorem completes_execFlashSlotReadEnd (bytes : List Nat) (s : State) :
    Completes [.regs, .hallIrq, .mem, .ms, .boot, .dbg] s (execFlashSlotReadEnd bytes s) := by
  unfold execFlashSlotReadEnd
  repeat' (first
    | with_reducible assumption | with_reducible exact Keeps.refl _ _ | exact Part.mem_of_elem rfl | intro _
    | with_reducible apply completes_ite | with_reducible apply completes_next | with_reducible apply keeps_ite
    | with_reducible apply keeps_setBoot | with_reducible apply keeps_hearthWrite)

/-- The checks of an image are named, so that no check of the proof runs them. -/
theorem completes_execBootImageVerify (s : State) :
    Completes [.regs, .hallIrq, .cores, .mem, .ms, .strong, .boot, .dbg] s (execBootImageVerify s) := by
  have hstep : Keeps [.regs, .hallIrq, .cores, .mem, .ms, .strong, .boot, .dbg] s (s.stepTo 10) := by
    apply keeps_stepTo (Keeps.refl _ s) <;> exact Part.mem_of_elem rfl
  have hcrier {t : State} (h : Keeps [.regs, .hallIrq, .cores, .mem, .ms, .strong, .boot, .dbg] s t) (c d : Nat) :
      Keeps [.regs, .hallIrq, .cores, .mem, .ms, .strong, .boot, .dbg] s (t.crier c d) := keeps_crier h (Part.mem_of_elem rfl) c d
  have hrun {t : State} (h : Keeps [.regs, .hallIrq, .cores, .mem, .ms, .strong, .boot, .dbg] s t) (i : List Nat) (n : Nat) :
      Keeps [.regs, .hallIrq, .cores, .mem, .ms, .strong, .boot, .dbg] s ((t.runImage i).bootReady n) := by
    refine keeps_bootReady ?_ (Part.mem_of_elem rfl) n
    apply keeps_runImage h <;> exact Part.mem_of_elem rfl
  have hslot (b : Boot → Boot) : Keeps [.regs, .hallIrq, .cores, .mem, .ms, .strong, .boot, .dbg] s ((s.stepTo 10).setBoot b) :=
    keeps_setBoot hstep (Part.mem_of_elem rfl) b
  unfold execBootImageVerify
  obtain ⟨rejects, hrejects⟩ : ∃ f, s.rejects = f := ⟨_, rfl⟩
  obtain ⟨image, himage⟩ : ∃ x, s.recoveryImage = x := ⟨_, rfl⟩
  rw [hrejects, himage]
  refine completes_ite (completes_next (Keeps.refl _ s)) (completes_ite ?_ (completes_ite (completes_next (hcrier hstep _ _)) ?_))
  · split
    · refine completes_next (hrun ?_ _ _)
      apply keeps_hearthWrite hstep <;> exact Part.mem_of_elem rfl
    · exact completes_next (hcrier hstep _ _)
  · split
    · exact completes_next (Keeps.refl _ s)
    · dsimp only
      split
      · exact completes_next (hrun hstep _ _)
      · split
        · exact completes_next (hslot _)
        · exact completes_next (hcrier (hslot _) _ _)

theorem completes_execHbmTrainingEnd (stack : Fin 2) (repairs : Option (Fin 256)) (s : State) :
    Completes [.regs, .boot] s (execHbmTrainingEnd stack repairs s) := by
  unfold execHbmTrainingEnd
  repeat' (first
    | with_reducible exact Keeps.refl _ _ | exact Part.mem_of_elem rfl | with_reducible apply completes_ite
    | with_reducible apply completes_next | with_reducible apply keeps_ite | with_reducible apply keeps_wr
    | with_reducible apply keeps_stepTo | with_reducible apply keeps_crier | dsimp only | split)

theorem completes_execCellarFillEnd (s : State) :
    Completes [.regs, .mem] s (execCellarFillEnd s) := by
  unfold execCellarFillEnd
  repeat' (first
    | with_reducible assumption | with_reducible exact Keeps.refl _ _ | exact Part.mem_of_elem rfl | with_reducible apply completes_ite
    | with_reducible apply completes_next | with_reducible apply keeps_ite | with_reducible apply keeps_wr
    | with_reducible apply Memory.wf_putRaw | with_reducible apply Memory.wf_put | with_reducible apply Memory.wf_fill
    | with_reducible apply Memory.wf_foldl | with_reducible apply keeps_setMem | with_reducible apply keeps_stepTo)

theorem completes_execBootTimeout (s : State) :
    Completes [.boot] s (execBootTimeout s) := by
  unfold execBootTimeout
  repeat' (first
    | with_reducible exact Keeps.refl _ _ | exact Part.mem_of_elem rfl | with_reducible apply completes_ite
    | with_reducible apply completes_next | with_reducible apply keeps_ite | with_reducible apply keeps_crier | dsimp only | split)

theorem completes_execHearthRelease (mid : Mid) (v : Word) (s : State) :
    Completes [.regs, .ans, .cores, .reeve, .hml] s (execHearthRelease mid v s) := by
  unfold execHearthRelease
  repeat' (first
    | with_reducible assumption | with_reducible exact Keeps.refl _ _ | exact Part.mem_of_elem rfl | intro _
    | with_reducible apply completes_ite | with_reducible apply completes_next | with_reducible apply keeps_ite
    | with_reducible apply keeps_foldl | with_reducible apply keeps_foldl | with_reducible apply keeps_wr | with_reducible apply keeps_ack
    | with_reducible apply keeps_refusedAns | with_reducible apply keeps_nowRunning | with_reducible apply keeps_releaseCore
    | with_reducible apply keeps_releaseHamlet)

theorem completes_execHearthCrierEnter (mid : Mid) (v : Word) (s : State) :
    Completes [.ans, .boot] s (execHearthCrierEnter mid v s) := by
  unfold execHearthCrierEnter
  repeat' (first
    | with_reducible exact Keeps.refl _ _ | exact Part.mem_of_elem rfl | with_reducible apply completes_ite
    | with_reducible apply completes_next | with_reducible apply keeps_ite | with_reducible apply keeps_ack
    | with_reducible apply keeps_refusedAns | with_reducible apply keeps_crier)

theorem completes_execHearthLockstepMismatch (s : State) :
    Completes [.boot] s (execHearthLockstepMismatch s) := by
  unfold execHearthLockstepMismatch
  repeat' (first
    | with_reducible exact Keeps.refl _ _ | exact Part.mem_of_elem rfl | with_reducible apply completes_next
    | with_reducible apply keeps_crier)

theorem completes_execCrierEntry (s : State) :
    Completes [.regs, .cores, .mem, .cop, .boot, .pins] s (execCrierEntry s) := by
  unfold execCrierEntry
  repeat' (first
    | with_reducible assumption | with_reducible exact Keeps.refl _ _ | exact Part.mem_of_elem rfl | intro _
    | with_reducible apply completes_ite | with_reducible apply completes_next | with_reducible apply keeps_ite
    | with_reducible apply keeps_foldl | with_reducible apply keeps_foldl | with_reducible apply keeps_wr
    | with_reducible apply Memory.wf_putRaw | with_reducible apply Memory.wf_put | with_reducible apply Memory.wf_fill
    | with_reducible apply Memory.wf_foldl | with_reducible apply keeps_setMem | with_reducible apply keeps_fallow
    | with_reducible apply keeps_crierPort | with_reducible apply keeps_crierPower | with_reducible apply keeps_freezeRecord
    | with_reducible apply keeps_holdCore | assumption | dsimp only | split | with_reducible apply keeps_set_pins)

theorem completes_execCrierUartLine (s : State) :
    Completes [.sent, .boot] s (execCrierUartLine s) := by
  unfold execCrierUartLine
  repeat' (first
    | with_reducible assumption | with_reducible exact Keeps.refl _ _ | exact Part.mem_of_elem rfl | intro _
    | with_reducible apply completes_ite | with_reducible apply completes_next | with_reducible apply keeps_ite
    | with_reducible apply keeps_send | with_reducible apply keeps_setBoot)

theorem completes_execI2cWrite (bytes : List Nat) (s : State) :
    Completes [.boot] s (execI2cWrite bytes s) := by
  unfold execI2cWrite
  repeat' (first
    | with_reducible assumption | with_reducible exact Keeps.refl _ _ | exact Part.mem_of_elem rfl | intro _
    | with_reducible apply completes_ite | with_reducible apply completes_next | with_reducible apply keeps_ite
    | with_reducible apply keeps_setBoot | dsimp only | split)

theorem completes_execI2cRead (n : Nat) (cut : Bool) (s : State) :
    Completes [.sent, .boot] s (execI2cRead n cut s) := by
  unfold execI2cRead
  repeat' (first
    | with_reducible assumption | with_reducible exact Keeps.refl _ _ | exact Part.mem_of_elem rfl | intro _
    | with_reducible apply completes_ite | with_reducible apply completes_next | with_reducible apply keeps_ite
    | with_reducible apply keeps_send | with_reducible apply keeps_setBoot)

theorem completes_execI2cSclTimeout (s : State) :
    Completes [.boot] s (execI2cSclTimeout s) := by
  unfold execI2cSclTimeout
  repeat' (first
    | with_reducible assumption | with_reducible exact Keeps.refl _ _ | exact Part.mem_of_elem rfl | intro _
    | with_reducible apply completes_next | with_reducible apply keeps_setBoot)

theorem completes_execHearthRcvDataWrite (off : Fin 262144) (bytes : List Nat) (whole : Bool) (s : State) :
    Completes [.regs, .ans, .hallIrq, .mem, .ms, .dbg] s (execHearthRcvDataWrite off bytes whole s) := by
  unfold execHearthRcvDataWrite
  repeat' (first
    | with_reducible exact Keeps.refl _ _ | exact Part.mem_of_elem rfl | with_reducible apply completes_ite
    | with_reducible apply completes_next | with_reducible apply keeps_ite | with_reducible apply keeps_ack
    | with_reducible apply keeps_refusedAns | with_reducible apply keeps_writeBytes)

theorem completes_execRecoveryReboot (v : Word) (s : State) :
    Completes every s (execRecoveryReboot v s) := by
  unfold execRecoveryReboot
  repeat' (first
    | with_reducible exact Keeps.refl _ _ | exact Part.mem_of_elem rfl | with_reducible apply completes_ite
    | with_reducible apply completes_next | with_reducible apply keeps_ite | with_reducible apply keeps_ack
    | with_reducible apply keeps_refusedAns | with_reducible apply keeps_deviceReset)

theorem completes_execSpareTake (h : Fin 16) (v : Word) (s : State) :
    Completes [.regs, .ans, .cores, .hml] s (execSpareTake h v s) := by
  unfold execSpareTake
  repeat' (first
    | with_reducible exact Keeps.refl _ _ | exact Part.mem_of_elem rfl | with_reducible apply completes_ite
    | with_reducible apply completes_next | with_reducible apply keeps_ite | with_reducible apply keeps_wr
    | with_reducible apply keeps_ack | with_reducible apply keeps_holdCore | dsimp only | split | with_reducible apply keeps_set_hml)

theorem completes_execSpareTakeoverDone (h : Fin 16) (s : State) :
    Completes [.regs, .cores, .reeve, .mem, .hml] s (execSpareTakeoverDone h s) := by
  unfold execSpareTakeoverDone
  repeat' (first
    | with_reducible exact Keeps.refl _ _ | exact Part.mem_of_elem rfl | with_reducible apply completes_ite
    | with_reducible apply completes_next | with_reducible apply keeps_ite | with_reducible apply keeps_wr
    | with_reducible apply keeps_releaseLogical | with_reducible apply keeps_copyPlot | with_reducible apply keeps_moveIdentity
    | dsimp only | split | with_reducible apply keeps_set_hml)

theorem completes_execHearthReadmit (mid : Mid) (v : Word) (s : State) :
    Completes [.regs, .ans, .cores, .reeve, .hml] s (execHearthReadmit mid v s) := by
  unfold execHearthReadmit
  repeat' (first
    | with_reducible assumption | with_reducible exact Keeps.refl _ _ | exact Part.mem_of_elem rfl | intro _
    | with_reducible apply completes_ite | with_reducible apply completes_next | with_reducible apply keeps_ite
    | with_reducible apply keeps_foldl | with_reducible apply keeps_foldl | with_reducible apply keeps_ack
    | with_reducible apply keeps_refusedAns | with_reducible apply keeps_readmit)

theorem completes_execUcodeLoad (w : Fin 3) (e : Fin 16) (v : Word) (s : State) :
    Completes [.regs, .ans] s (execUcodeLoad w e v s) := by
  unfold execUcodeLoad
  repeat' (first
    | with_reducible exact Keeps.refl _ _ | exact Part.mem_of_elem rfl | with_reducible apply completes_ite
    | with_reducible apply completes_next | with_reducible apply keeps_ite | with_reducible apply keeps_wr
    | with_reducible apply keeps_ack)

theorem completes_execUcodeLoadEnd (w : Fin 3) (e : Fin 16) (s : State) :
    Completes [.regs, .hallIrq, .mem, .ms, .dbg] s (execUcodeLoadEnd w e s) := by
  unfold execUcodeLoadEnd
  repeat' (first
    | with_reducible exact Keeps.refl _ _ | exact Part.mem_of_elem rfl | with_reducible apply completes_ite
    | with_reducible apply completes_next | with_reducible apply keeps_ite | with_reducible apply keeps_wr
    | with_reducible apply keeps_ucodeImage | refine Keeps.snd_eq (by assumption) ?_ | dsimp only | split)

theorem completes_execHearthHandover (mid : Mid) (v : Word) (s : State) :
    Completes [.regs, .ans, .cores] s (execHearthHandover mid v s) := by
  unfold execHearthHandover
  repeat' (first
    | with_reducible exact Keeps.refl _ _ | exact Part.mem_of_elem rfl | with_reducible apply completes_ite
    | with_reducible apply completes_next | with_reducible apply keeps_ite | with_reducible apply keeps_wr
    | with_reducible apply keeps_ack | with_reducible apply keeps_holdCore)

theorem completes_execHandoverEnd (s : State) :
    Completes [.regs, .hallIrq, .cores, .mem, .ms, .strong, .boot, .dbg] s (execHandoverEnd s) := by
  unfold execHandoverEnd
  repeat' (first
    | with_reducible exact Keeps.refl _ _ | exact Part.mem_of_elem rfl | with_reducible apply completes_ite
    | with_reducible apply completes_next | with_reducible apply keeps_ite | with_reducible apply keeps_wr
    | with_reducible apply keeps_hearthWrite | with_reducible apply keeps_releaseCore | with_reducible apply keeps_runImage
    | refine Keeps.snd_eq (by assumption) ?_ | dsimp only | split)

theorem completes_execPwrDomOn (mid : Mid) (d : Fin 48) (v : Word) (s : State) :
    Completes [.regs, .ans] s (execPwrDomOn mid d v s) := by
  unfold execPwrDomOn
  repeat' (first
    | with_reducible exact Keeps.refl _ _ | exact Part.mem_of_elem rfl | with_reducible apply completes_ite
    | with_reducible apply completes_next | with_reducible apply keeps_ite | with_reducible apply keeps_ack
    | with_reducible apply keeps_domRefuse | with_reducible apply keeps_domTo | with_reducible apply keeps_pwrClear)

theorem completes_execPwrDomOff (mid : Mid) (d : Fin 48) (v : Word) (s : State) :
    Completes [.regs, .ans, .pwr] s (execPwrDomOff mid d v s) := by
  unfold execPwrDomOff
  repeat' (first
    | with_reducible exact Keeps.refl _ _ | exact Part.mem_of_elem rfl | with_reducible apply completes_ite
    | with_reducible apply completes_next | with_reducible apply keeps_ite | with_reducible apply keeps_ack
    | with_reducible apply keeps_decideOff | with_reducible apply keeps_pwrClear)

theorem completes_execPwrHoldRedecide (d : Fin 48) (s : State) :
    Completes [.regs, .pwr] s (execPwrHoldRedecide d s) := by
  unfold execPwrHoldRedecide
  repeat' (first
    | with_reducible exact Keeps.refl _ _ | exact Part.mem_of_elem rfl | with_reducible apply completes_ite
    | with_reducible apply completes_next | with_reducible apply keeps_ite | with_reducible apply keeps_domTo
    | with_reducible apply keeps_decideOff)

theorem completes_execPowerDown (d : Fin 48) (s : State) :
    Completes [.regs, .stp, .cores, .querns, .reeve, .ws, .sv, .mem, .ms, .tally, .crt, .ewl, .mkt, .cop, .hml] s (execPowerDown d s) := by
  unfold execPowerDown
  repeat' (first
    | with_reducible assumption | with_reducible exact Keeps.refl _ _ | exact Part.mem_of_elem rfl | intro _
    | with_reducible apply completes_ite | with_reducible apply completes_next | with_reducible apply keeps_ite
    | with_reducible apply keeps_foldl | with_reducible apply keeps_foldl | with_reducible apply keeps_foldSlices
    | with_reducible apply keeps_setLost | with_reducible apply keeps_domTo | with_reducible apply keeps_loseDomain)

theorem completes_execPowerUpComplete (d : Fin 48) (checkerOk : Bool) (s : State) :
    Completes [.regs, .hallIrq, .ms, .dbg] s (execPowerUpComplete d checkerOk s) := by
  unfold execPowerUpComplete
  repeat' (first
    | with_reducible assumption | with_reducible rfl | with_reducible exact Keeps.refl _ _ | exact Part.mem_of_elem rfl | intro _
    | with_reducible apply completes_ite | with_reducible apply completes_next | with_reducible apply keeps_ite
    | with_reducible apply keeps_foldl | with_reducible apply keeps_foldl | with_reducible apply keeps_logAt
    | with_reducible apply keeps_setPortSt | with_reducible apply keeps_domTo | dsimp only | split | with_reducible apply keeps_set_ms)

theorem completes_execHearthDevreset (mid : Mid) (v : Word) (s : State) :
    Completes every s (execHearthDevreset mid v s) := by
  unfold execHearthDevreset
  repeat' (first
    | with_reducible exact Keeps.refl _ _ | exact Part.mem_of_elem rfl | with_reducible apply completes_ite
    | with_reducible apply completes_next | with_reducible apply keeps_ite | with_reducible apply keeps_wr
    | with_reducible apply keeps_ack | with_reducible apply keeps_refusedAns | with_reducible apply keeps_send
    | with_reducible apply keeps_deviceReset | with_reducible apply keeps_resetRefuse | dsimp only | split
    | with_reducible apply keeps_set_pwr)

theorem completes_execTimedResetInstant (acked : List (Fin 8)) (s : State) :
    Completes every s (execTimedResetInstant acked s) := by
  unfold execTimedResetInstant
  repeat' (first
    | with_reducible assumption | with_reducible exact Keeps.refl _ _ | exact Part.mem_of_elem rfl | intro _
    | with_reducible apply completes_ite | with_reducible apply completes_next | with_reducible apply keeps_ite
    | with_reducible apply keeps_wr | with_reducible apply keeps_deviceReset)

theorem completes_execUnitResetHamletCore (v : Word) (s : State) :
    Completes [.regs, .ans, .hallIrq, .hostIrq, .cores, .querns, .reeve, .tally, .dbg] s (execUnitResetHamletCore v s) := by
  unfold execUnitResetHamletCore
  repeat' (first
    | with_reducible assumption | with_reducible exact Keeps.refl _ _ | exact Part.mem_of_elem rfl | intro _
    | with_reducible apply completes_next | with_reducible apply keeps_ack | with_reducible apply keeps_haltItem
    | with_reducible apply keeps_holdCore | with_reducible apply keeps_unitReset)

theorem completes_execUnitResetHallCore (mid : Mid) (v : Word) (s : State) :
    Completes [.regs, .ans, .cores, .mem, .ms] s (execUnitResetHallCore mid v s) := by
  unfold execUnitResetHallCore
  repeat' (first
    | with_reducible assumption | with_reducible exact Keeps.refl _ _ | exact Part.mem_of_elem rfl | intro _
    | with_reducible apply completes_next | with_reducible apply keeps_foldl | with_reducible apply keeps_foldl
    | with_reducible apply keeps_ack | with_reducible apply keeps_cleanLine | with_reducible apply keeps_holdCore
    | with_reducible apply keeps_unitReset)

theorem completes_execUnitResetCellar (v : Word) (s : State) :
    Completes [.regs, .ans, .hallIrq, .net, .tally, .dbg] s (execUnitResetCellar v s) := by
  unfold execUnitResetCellar
  repeat' (first
    | with_reducible assumption | with_reducible exact Keeps.refl _ _ | exact Part.mem_of_elem rfl | intro _
    | with_reducible apply completes_next | with_reducible apply keeps_foldl | with_reducible apply keeps_foldl
    | with_reducible apply keeps_ack | with_reducible apply keeps_unitAnswer | with_reducible apply keeps_unitReset)

theorem completes_execUnitResetDone (s : State) :
    Completes [.regs, .cores, .reeve] s (execUnitResetDone s) := by
  unfold execUnitResetDone
  repeat' (first
    | with_reducible exact Keeps.refl _ _ | exact Part.mem_of_elem rfl | with_reducible apply completes_ite
    | with_reducible apply completes_next | with_reducible apply keeps_ite | with_reducible apply keeps_wr
    | with_reducible apply keeps_releaseCore | with_reducible apply keeps_releaseLogical)

theorem completes_execThrottleUpdate (milliwatts : Nat) (s : State) :
    Completes [.regs, .hallIrq, .pwr, .dbg] s (execThrottleUpdate milliwatts s) := by
  unfold execThrottleUpdate
  repeat' (first
    | with_reducible assumption | with_reducible exact Keeps.refl _ _ | exact Part.mem_of_elem rfl | intro _
    | with_reducible apply completes_ite | with_reducible apply completes_next | with_reducible apply keeps_ite
    | with_reducible apply keeps_wr | with_reducible apply keeps_irqIf | with_reducible apply keeps_raise | dsimp only | split
    | with_reducible apply keeps_set_pwr)

theorem completes_execTempSensorUpdate (n : Fin 24) (t : BitVec 10) (s : State) :
    Completes [.regs] s (execTempSensorUpdate n t s) := by
  unfold execTempSensorUpdate
  repeat' (first
    | with_reducible exact Keeps.refl _ _ | exact Part.mem_of_elem rfl | with_reducible apply completes_next
    | with_reducible apply keeps_wr)

theorem completes_execThermalTrip (stack : Bool) (s : State) :
    Completes every s (execThermalTrip stack s) := by
  unfold execThermalTrip
  repeat' (first
    | with_reducible assumption | with_reducible exact Keeps.refl _ _ | exact Part.mem_of_elem rfl | intro _
    | with_reducible apply completes_ite | with_reducible apply completes_next | with_reducible apply keeps_ite
    | with_reducible apply keeps_foldl | with_reducible apply keeps_foldl | with_reducible apply keeps_deviceReset
    | with_reducible apply keeps_domTo | dsimp only | split | with_reducible apply keeps_set_pins | with_reducible apply keeps_set_pwr
    | with_reducible apply keeps_set_pins_pwr)

theorem completes_execInternalColdReset (s : State) :
    Completes every s (execInternalColdReset s) := by
  unfold execInternalColdReset
  repeat' (first
    | with_reducible exact Keeps.refl _ _ | exact Part.mem_of_elem rfl | with_reducible apply completes_next
    | with_reducible apply keeps_wr | with_reducible apply keeps_deviceReset)

theorem completes_execResetNPulse (cool : Bool) (s : State) :
    Completes every s (execResetNPulse cool s) := by
  unfold execResetNPulse
  repeat' (first
    | with_reducible exact Keeps.refl _ _ | exact Part.mem_of_elem rfl | with_reducible apply completes_ite
    | with_reducible apply completes_next | with_reducible apply keeps_ite | with_reducible apply keeps_deviceReset)

theorem completes_execReeveTapPop (s : State) :
    Completes [.regs, .ans, .dbg] s (execReeveTapPop s) := by
  unfold execReeveTapPop
  repeat' (first
    | with_reducible exact Keeps.refl _ _ | exact Part.mem_of_elem rfl | with_reducible apply completes_ite
    | with_reducible apply completes_next | with_reducible apply keeps_ite | with_reducible apply keeps_ack
    | with_reducible apply keeps_showTap)

theorem completes_execTraceExport (src : Fin 33) (s : State) :
    Completes [.regs, .hallIrq, .mem, .ms, .net, .dbg] s (execTraceExport src s) := by
  unfold execTraceExport
  repeat' (first
    | with_reducible assumption | with_reducible exact Keeps.refl _ _ | exact Part.mem_of_elem rfl | intro _
    | with_reducible apply completes_ite | with_reducible apply completes_next | with_reducible apply keeps_ite
    | with_reducible apply keeps_inc | with_reducible apply keeps_showProbe | with_reducible apply keeps_showTap
    | with_reducible apply keeps_dmaWrite | with_reducible apply keeps_setDbg | with_reducible apply keeps_showFull)

theorem completes_execTraceWriteError (src : Fin 33) (status : Fin 3) (s : State) :
    Completes [.regs] s (execTraceWriteError src status s) := by
  unfold execTraceWriteError
  repeat' (first
    | with_reducible exact Keeps.refl _ _ | exact Part.mem_of_elem rfl | with_reducible apply completes_ite
    | with_reducible apply completes_next | with_reducible apply keeps_ite | with_reducible apply keeps_wr)

theorem completes_execHearthEventEntry (s : State) :
    Completes [.regs, .dbg] s (execHearthEventEntry s) := by
  unfold execHearthEventEntry
  repeat' (first
    | with_reducible assumption | with_reducible exact Keeps.refl _ _ | exact Part.mem_of_elem rfl | intro _
    | with_reducible apply completes_ite | with_reducible apply completes_next | with_reducible apply keeps_ite
    | with_reducible apply keeps_inc | with_reducible apply keeps_source | with_reducible apply keeps_setDbg
    | with_reducible apply keeps_showEvents | refine Keeps.snd_eq (by assumption) ?_ | dsimp only | split)

theorem completes_execHearthEvtPop (mid : Mid) (s : State) :
    Completes [.regs, .ans, .dbg] s (execHearthEvtPop mid s) := by
  unfold execHearthEvtPop
  repeat' (first
    | with_reducible exact Keeps.refl _ _ | exact Part.mem_of_elem rfl | with_reducible apply completes_ite
    | with_reducible apply completes_next | with_reducible apply keeps_ite | with_reducible apply keeps_ack
    | with_reducible apply keeps_refusedAns | with_reducible apply keeps_showEvents)

theorem completes_execTelemetrySample (milliwatts : Nat) (s : State) :
    Completes [.regs, .hallIrq, .hostIrq, .mem, .ms, .dbg] s (execTelemetrySample milliwatts s) := by
  unfold execTelemetrySample
  repeat' (first
    | with_reducible exact Keeps.refl _ _ | exact Part.mem_of_elem rfl | with_reducible apply completes_ite
    | with_reducible apply completes_next | with_reducible apply keeps_ite | with_reducible apply keeps_irq
    | with_reducible apply keeps_inc | with_reducible apply keeps_irqHost | with_reducible apply keeps_dmaWrite)

theorem completes_execJtagExtest (shifted pins : Nat) (s : State) :
    Completes [.dbg] s (execJtagExtest shifted pins s) := by
  unfold execJtagExtest
  repeat' (first
    | with_reducible assumption | with_reducible exact Keeps.refl _ _ | exact Part.mem_of_elem rfl | intro _
    | with_reducible apply completes_next | with_reducible apply keeps_setTap)

theorem completes_execJtagSamplePreload (shifted pins : Nat) (s : State) :
    Completes [.dbg] s (execJtagSamplePreload shifted pins s) := by
  unfold execJtagSamplePreload
  repeat' (first
    | with_reducible assumption | with_reducible exact Keeps.refl _ _ | exact Part.mem_of_elem rfl | intro _
    | with_reducible apply completes_next | with_reducible apply keeps_setTap)

theorem completes_execJtagIdcode (s : State) :
    Completes [.dbg] s (execJtagIdcode s) := by
  unfold execJtagIdcode
  repeat' (first
    | with_reducible assumption | with_reducible exact Keeps.refl _ _ | exact Part.mem_of_elem rfl | intro _
    | with_reducible apply completes_next | with_reducible apply keeps_setTap)

theorem completes_execJtagClamp (s : State) :
    Completes [.dbg] s (execJtagClamp s) := by
  unfold execJtagClamp
  repeat' (first
    | with_reducible assumption | with_reducible exact Keeps.refl _ _ | exact Part.mem_of_elem rfl | intro _
    | with_reducible apply completes_next | with_reducible apply keeps_setTap)

theorem completes_execJtagHighz (s : State) :
    Completes [.dbg] s (execJtagHighz s) := by
  unfold execJtagHighz
  repeat' (first
    | with_reducible assumption | with_reducible exact Keeps.refl _ _ | exact Part.mem_of_elem rfl | intro _
    | with_reducible apply completes_next | with_reducible apply keeps_setTap)

theorem completes_execJtagBypass (code : BitVec 8) (s : State) :
    Completes [.dbg] s (execJtagBypass code s) := by
  unfold execJtagBypass
  repeat' (first
    | with_reducible assumption | with_reducible exact Keeps.refl _ _ | exact Part.mem_of_elem rfl | intro _
    | with_reducible apply completes_ite | with_reducible apply completes_next | with_reducible apply keeps_ite
    | with_reducible apply keeps_setTap)

theorem completes_execJtagDbgRead (a : BitVec 38) (s : State) :
    Completes [.dbg] s (execJtagDbgRead a s) := by
  unfold execJtagDbgRead
  repeat' (first
    | with_reducible exact Keeps.refl _ _ | exact Part.mem_of_elem rfl | with_reducible apply completes_next
    | with_reducible apply keeps_jtagStart)

theorem completes_execJtagDbgWrite (a : BitVec 38) (v : Word) (s : State) :
    Completes [.dbg] s (execJtagDbgWrite a v s) := by
  unfold execJtagDbgWrite
  repeat' (first
    | with_reducible exact Keeps.refl _ _ | exact Part.mem_of_elem rfl | with_reducible apply completes_next
    | with_reducible apply keeps_jtagStart)

theorem completes_execDbgHaltReq (core : Fin 160) (s : State) :
    Completes [.regs, .ans, .cores] s (execDbgHaltReq core s) := by
  unfold execDbgHaltReq
  repeat' (first
    | with_reducible exact Keeps.refl _ _ | exact Part.mem_of_elem rfl | with_reducible apply completes_ite
    | with_reducible apply completes_next | with_reducible apply keeps_ite | with_reducible apply keeps_ack
    | with_reducible apply keeps_dbgStop)

theorem completes_execDbgResume (core : Fin 160) (s : State) :
    Completes [.regs, .ans, .cores] s (execDbgResume core s) := by
  unfold execDbgResume
  repeat' (first
    | with_reducible assumption | with_reducible exact Keeps.refl _ _ | exact Part.mem_of_elem rfl | intro _
    | with_reducible apply completes_ite | with_reducible apply completes_next | with_reducible apply keeps_ite
    | with_reducible apply keeps_wr | with_reducible apply keeps_ack | with_reducible apply keeps_modCore | dsimp only | split)

theorem completes_execDbgStep (core : Fin 160) (s : State) :
    Completes [.ans, .cores] s (execDbgStep core s) := by
  unfold execDbgStep
  repeat' (first
    | with_reducible assumption | with_reducible exact Keeps.refl _ _ | exact Part.mem_of_elem rfl | intro _
    | with_reducible apply completes_ite | with_reducible apply completes_next | with_reducible apply keeps_ite
    | with_reducible apply keeps_ack | with_reducible apply keeps_modCore)

theorem completes_execDbgRegRead (core : Fin 160) (v : Word) (s : State) :
    Completes [.regs, .ans] s (execDbgRegRead core v s) := by
  unfold execDbgRegRead
  repeat' (first
    | with_reducible exact Keeps.refl _ _ | exact Part.mem_of_elem rfl | with_reducible apply completes_ite
    | with_reducible apply completes_next | with_reducible apply keeps_ite | with_reducible apply keeps_wr
    | with_reducible apply keeps_ack | with_reducible apply keeps_wrB | with_reducible apply keeps_wrWord)

theorem completes_execDbgRegWrite (core : Fin 160) (v : Word) (s : State) :
    Completes [.regs, .ans, .cores] s (execDbgRegWrite core v s) := by
  unfold execDbgRegWrite
  repeat' (first
    | with_reducible assumption | with_reducible exact Keeps.refl _ _ | exact Part.mem_of_elem rfl | intro _
    | with_reducible apply completes_ite | with_reducible apply completes_next | with_reducible apply keeps_ite
    | with_reducible apply keeps_ack | with_reducible apply keeps_wrWord | with_reducible apply keeps_modCore)

theorem completes_execDpllForceHold (v : Word) (s : State) :
    Completes [.regs, .ans, .stp, .dbg] s (execDpllForceHold v s) := by
  unfold execDpllForceHold
  repeat' (first
    | with_reducible exact Keeps.refl _ _ | exact Part.mem_of_elem rfl | with_reducible apply completes_next
    | with_reducible apply keeps_ack | with_reducible apply keeps_dpllCtrl)

theorem completes_execZeroizeNRelease (s : State) :
    Completes [.regs] s (execZeroizeNRelease s) := by
  unfold execZeroizeNRelease
  repeat' (first
    | with_reducible exact Keeps.refl _ _ | exact Part.mem_of_elem rfl | with_reducible apply completes_ite
    | with_reducible apply completes_next | with_reducible apply keeps_ite | with_reducible apply keeps_wr
    | with_reducible apply keeps_strongTo)

theorem completes_execPcieLinkDown (s : State) :
    Completes [.regs] s (execPcieLinkDown s) := by
  unfold execPcieLinkDown
  repeat' (first
    | with_reducible exact Keeps.refl _ _ | exact Part.mem_of_elem rfl | with_reducible apply completes_next
    | with_reducible apply keeps_wr)

theorem completes_execRequesterCompletionTimeout (i : Nat) (s : State) :
    Completes [.host] s (execRequesterCompletionTimeout i s) := by
  unfold execRequesterCompletionTimeout
  repeat' (first
    | with_reducible exact Keeps.refl _ _ | exact Part.mem_of_elem rfl | with_reducible apply completes_ite
    | with_reducible apply completes_next | with_reducible apply keeps_ite | with_reducible apply keeps_dropRead | dsimp only | split)

theorem completes_execCellarStackTempReport (stack : Fin 2) (t : BitVec 8) (s : State) :
    Completes [.regs] s (execCellarStackTempReport stack t s) := by
  unfold execCellarStackTempReport
  repeat' (first
    | with_reducible exact Keeps.refl _ _ | exact Part.mem_of_elem rfl | with_reducible apply completes_next
    | with_reducible apply keeps_wr | with_reducible apply keeps_wrB)

/-! ### Register writes

A write to a register with a meaning of its own performs that meaning, on any state. Every such meaning completes. -/

/-- Where the table of meanings has an entry, it completes from every state. -/
structure Performs (x : Option (State → Outc)) : Prop where
  completes : ∀ f, x = some f → ∀ s, Completes every s (f s)

theorem performs_none : Performs none := ⟨fun _ h => nomatch h⟩

theorem performs_some {f : State → Outc} (h : ∀ s, Completes every s (f s)) : Performs (some f) := by
  refine ⟨?_⟩
  rintro g ⟨⟩
  exact h

theorem performs_ite {c : Prop} [Decidable c] {a b : Option (State → Outc)} (ha : Performs a) (hb : Performs b) :
    Performs (if c then a else b) := by
  split
  · exact ha
  · exact hb

theorem performs_plainly {f : State → State} (h : ∀ s, Keeps every s (f s)) : Performs (plainly f) :=
  performs_some fun s => completes_next (h s)

theorem performs_heldWhile (c : Bool) {f : State → State} (h : ∀ s, Keeps every s (f s)) : Performs (heldWhile c f) :=
  performs_plainly fun s => keeps_ite (Keeps.refl _ s) (h s)

/-- The choice of a meaning does not depend on the state that it runs on. -/
theorem completes_apply_ite {c : Prop} [Decidable c] {f g : State → Outc} (hf : Completes l s (f s)) (hg : Completes l s (g s)) :
    Completes l s ((if c then f else g) s) := by
  split
  · exact hf
  · exact hg

theorem completes_may (c : Bool) {f : State → Outc} (h : Completes l s (f s)) : Completes l s (may c f s) :=
  completes_ite h (completes_next (Keeps.refl l s))

theorem completes_chain_nil (s : State) : Completes l s (chain [] s) := completes_next (Keeps.refl l s)

theorem completes_chain_cons {f : State → Outc} {r : List (State → Outc)} (hf : ∀ s, Completes l s (f s))
    (hr : ∀ s, Completes l s (chain r s)) (s : State) : Completes l s (chain (f :: r) s) := by
  obtain ⟨t, ht, hk⟩ := hf s
  rw [chain, ht]
  exact Completes.trans hk (hr t)

theorem keeps_every_writeFields (s : State) (d : RegDef) (b : Nat) (v : Word) : Keeps every s (s.writeFields d b v) :=
  keeps_writeFields (Keeps.refl _ s) (Part.mem_of_elem rfl) d b v

theorem keeps_every_wr (s : State) (f : Fld) (v : Nat) : Keeps every s (s.wr f v) :=
  keeps_wr (Keeps.refl _ s) (Part.mem_of_elem rfl) f v

theorem keeps_every_wrWord (h : Keeps every s t) (v : Word) (fs : List Fld) : Keeps every s (t.wrWord v fs) :=
  keeps_wrWord h (Part.mem_of_elem rfl) v fs

theorem keeps_every_storeOrRefuse (c : Prop) [Decidable c] (s : State) (d : RegDef) (b : Nat) (v : Word) :
    Keeps every s (if c then s.writeFields d b v else s.refusedAns) :=
  keeps_ite (keeps_every_writeFields ..) (keeps_refusedAns (Keeps.refl _ _) (Part.mem_of_elem rfl))

theorem performs_writeSteeple (d : RegDef) (g k b : Nat) (v : Word) (o : Outside) (s : State) :
    Performs (writeSteeple d g k b v o s) := by
  unfold writeSteeple
  exact
    performs_ite (performs_some fun _ => (completes_execSteepleStep ..).every) <|
    performs_ite (performs_some fun _ => (completes_execDpllSourceWrite ..).every) <|
    performs_ite (performs_some fun _ => (completes_execSteeplePtpOffsetWrite ..).every) <|
    performs_ite (performs_some fun _ => (completes_execSteepleLatch ..).every) <|
    performs_ite (performs_heldWhile _ fun _ => keeps_every_writeFields ..) <|
    performs_ite (performs_some fun _ => completes_apply_ite (completes_execLgStartStopBoth (Fin.ofNat 64 g) v _).every <|
      completes_chain_cons (fun _ => (completes_execLgTddSwap ..).every) (completes_chain_cons (fun _ => (completes_execLgStart ..).every) <|
        completes_chain_cons (fun _ => (completes_execLgStop ..).every) completes_chain_nil) _) <|
    performs_ite (performs_heldWhile _ fun _ => keeps_every_writeFields ..) <|
    performs_ite (performs_some fun _ => (completes_execPlanArm ..).every) <|
    performs_ite (performs_some fun _ => (completes_execPlanWithdraw ..).every) <|
    performs_ite (performs_some fun _ => (completes_execResidueClear ..).every) <|
    performs_ite (performs_some fun _ => (completes_execBellCfgWrite ..).every) <|
    performs_ite (performs_heldWhile _ fun _ => keeps_every_writeFields ..) <|
    performs_ite (performs_some fun _ => (completes_execCapPop ..).every) <|
    performs_none

theorem performs_writeCarter (d : RegDef) (g : Nat) (v : Word) : Performs (writeCarter d g v) := by
  unfold writeCarter
  exact
    performs_ite (performs_some <| completes_chain_cons (fun _ => (completes_execCarterStartLoose ..).every) <|
      completes_chain_cons (fun _ => (completes_execCarterStartPlanned ..).every) <|
      completes_chain_cons (fun _ => completes_may _ (completes_execCarterStop ..).every) <|
      completes_chain_nil) <|
    performs_ite (performs_plainly fun _ => keeps_wr (keeps_every_wrWord (Keeps.refl _ _) _ _) (Part.mem_of_elem rfl) _ _) <|
    performs_none

theorem performs_writeDebug (d : RegDef) (core b : Nat) (v : Word) (s : State) : Performs (writeDebug d core b v s) := by
  unfold writeDebug
  exact
    performs_ite (performs_some <| completes_chain_cons (fun _ => completes_next (keeps_every_writeFields ..)) <|
      completes_chain_cons (fun _ => completes_may _ (completes_execDbgHaltReq ..).every) <|
      completes_chain_cons (fun _ => completes_may _ (completes_execDbgResume ..).every) <|
      completes_chain_cons (fun _ => completes_may _ (completes_execDbgStep ..).every) <|
      completes_chain_nil) <|
    performs_ite (performs_some <| completes_chain_cons (fun _ => (completes_execDbgRegRead ..).every) <|
      completes_chain_cons (fun _ => (completes_execDbgRegWrite ..).every) <|
      completes_chain_nil) <|
    performs_ite (performs_heldWhile _ fun _ => keeps_every_writeFields ..) <|
    performs_none

theorem performs_writeHamlet (d : RegDef) (h c b : Nat) (v : Word) (s : State) : Performs (writeHamlet d h c b v s) := by
  unfold writeHamlet
  refine performs_ite (performs_some fun _ => completes_apply_ite (completes_execImemFlipArm ..).every (completes_execImemFlipDisarm ..).every) <|
    performs_ite (performs_heldWhile _ fun _ => keeps_every_writeFields ..) <|
    performs_ite (performs_some fun _ => (completes_execSpareTake ..).every) ?_
  have hcarter := performs_writeCarter d (64 + 8 * h + c) v
  split
  next f hf => exact hf ▸ hcarter
  next => exact performs_writeDebug ..

theorem performs_writeReeve (d : RegDef) (i j : Nat) (v : Word) : Performs (writeReeve d i j v) := by
  unfold writeReeve
  exact
    performs_ite (performs_some fun _ => (completes_execReeveCompatWrite ..).every) <|
    performs_ite (performs_some fun _ => (completes_execReeveDecr ..).every) <|
    performs_ite (performs_some fun _ => (completes_execReeveAbort ..).every) <|
    performs_ite (performs_some fun _ => (completes_execReeveSubmitCmd ..).every) <|
    performs_ite (performs_some fun _ => (completes_execReportQueueFlush ..).every) <|
    performs_ite (performs_some fun _ => (completes_execEvFlagsClear ..).every) <|
    performs_ite (performs_some fun _ => (completes_execEvSet ..).every) <|
    performs_ite (performs_some fun _ => (completes_execOverrunCoreRelease ..).every) <|
    performs_ite (performs_some fun _ => (completes_execReeveTapPop ..).every) <|
    performs_none

theorem performs_writeWorkshop (d : RegDef) (i : Nat) (v : Word) : Performs (writeWorkshop d i v) := by
  unfold writeWorkshop
  exact
    performs_ite (performs_some fun _ => (completes_execWorkshopEngEnWrite ..).every) <|
    performs_ite (performs_some fun _ => (completes_execWorkshopEngEnWrite ..).every) <|
    performs_ite (performs_some fun _ => (completes_execWorkshopEngEnWrite ..).every) <|
    performs_ite (performs_some fun _ => (completes_execKilnHarqAreaWrite ..).every) <|
    performs_ite (performs_some <| completes_chain_cons (fun _ => (completes_execKilnHarqOpen ..).every) <|
      completes_chain_cons (fun _ => (completes_execKilnHarqClose ..).every) <|
      completes_chain_nil) <|
    performs_ite (performs_some fun _ => (completes_execUcodeLoad ..).every) <|
    performs_ite (performs_some fun _ => (completes_execUcodeLoad ..).every) <|
    performs_ite (performs_some fun _ => (completes_execUcodeLoad ..).every) <|
    performs_none

theorem performs_writeSieve (d : RegDef) (c i j b : Nat) (v : Word) (s : State) : Performs (writeSieve d c i j b v s) := by
  unfold writeSieve
  exact
    performs_ite (performs_heldWhile _ fun _ => keeps_showSupport (keeps_every_writeFields ..) (Part.mem_of_elem rfl) _) <|
    performs_ite (performs_some <| completes_chain_cons (fun _ => completes_may _ (completes_execSieveStart ..).every) <|
      completes_chain_cons (fun _ => completes_may _ (completes_execSieveStop ..).every) <|
      completes_chain_cons (fun _ => (completes_execSieveSwap ..).every) <|
      completes_chain_cons (fun _ => completes_may _ (completes_execForceGuard ..).every) <|
      completes_chain_cons (fun _ => completes_may _ (completes_execLeaveGuard ..).every) <|
      completes_chain_nil) <|
    performs_ite (performs_some fun _ => (completes_execSieveDelayWrite ..).every) <|
    performs_ite (performs_some fun _ => (completes_execSieveGuardCfgWrite ..).every) <|
    performs_ite (performs_some fun _ => (completes_execSieveUpReady ..).every) <|
    performs_ite (performs_some fun _ => (completes_execSieveCoefWrite ..).every) <|
    performs_none

theorem performs_writeGranary (d : RegDef) (i b : Nat) (v : Word) (s : State) : Performs (writeGranary d i b v s) := by
  unfold writeGranary
  exact
    performs_ite (performs_some fun _ => (completes_execGranaryBankPowerRequest ..).every) <|
    performs_ite (performs_some fun _ => completes_apply_ite (completes_execGranaryPoolEnable ..).every <| (completes_execGranaryPoolDisable ..).every) <|
    performs_ite (performs_heldWhile _ fun _ => keeps_every_writeFields ..) <|
    performs_ite (performs_some fun _ => (completes_execGranaryPoolRelease ..).every) <|
    performs_none

theorem performs_writeMemTest (d : RegDef) (b : Nat) (v : Word) (o : Outside) : Performs (writeMemTest d b v o) := by
  unfold writeMemTest
  exact
    performs_ite (performs_some fun _ => (completes_execEcclogFlush ..).every) <|
    performs_ite (performs_some fun _ => (completes_execEcclogPop ..).every) <|
    performs_ite (performs_some fun _ => (completes_execEccInject ..).every) <|
    performs_ite (performs_some fun _ => (completes_execHarrowStart ..).every) <|
    performs_ite (performs_plainly fun _ => keeps_every_wr ..) <|
    performs_ite (performs_plainly fun _ => keeps_every_writeFields ..) <|
    performs_none

theorem performs_writeCommons (d : RegDef) (i j b : Nat) (v : Word) (o : Outside) : Performs (writeCommons d i j b v o) := by
  unfold writeCommons
  exact
    performs_ite (performs_some <| completes_chain_cons (fun _ => completes_next (keeps_every_writeFields ..)) <|
      completes_chain_cons (fun _ => completes_may _ (completes_execRouteDiscardStage ..).every) <|
      completes_chain_cons (fun _ => completes_may _ (completes_execRouteAdvance ..).every) <|
      completes_chain_nil) <|
    performs_ite (performs_some fun _ => (completes_execBarrierArrive ..).every) <|
    performs_ite (performs_some fun _ => (completes_execBarrierBcast ..).every) <|
    performs_ite (performs_some fun _ => (completes_execProbePop ..).every) <|
    performs_ite (performs_some fun _ => completes_apply_ite (completes_execPortDisable ..).every <| completes_apply_ite (completes_execPortEnable ..).every <| completes_apply_ite (completes_execPortClose ..).every <| completes_apply_ite (completes_execPortOpen ..).every <| completes_apply_ite (completes_execPortRevive ..).every <| completes_next (Keeps.refl _ _)) <|
    performs_ite (performs_some fun _ => (completes_execRouteEntryStage ..).every) <|
    performs_ite (performs_some fun _ => (completes_execRouteEntryStage ..).every) <|
    performs_none

theorem performs_writeTally (d : RegDef) (v : Word) : Performs (writeTally d v) := by
  unfold writeTally
  exact
    performs_ite (performs_some fun _ => (completes_execTallySnapArm ..).every) <|
    performs_ite (performs_some fun _ => (completes_execTallyPeek ..).every) <|
    performs_none

theorem performs_writeLanes (d : RegDef) (i b : Nat) (v : Word) : Performs (writeLanes d i b v) := by
  unfold writeLanes
  exact
    performs_ite (performs_some fun _ => (completes_execQuadCfgWrite ..).every) <|
    performs_ite (performs_some fun _ => (completes_execLaneCfgWrite ..).every) <|
    performs_ite (performs_some fun _ => (completes_execMarginStart ..).every) <|
    performs_ite (performs_some fun _ => completes_may _ (completes_execLaneRecal ..).every) <|
    performs_ite (performs_some fun _ => completes_apply_ite (completes_execEwlEnable ..).every <| (completes_execEwlDisable ..).every) <|
    performs_ite (performs_plainly fun _ => keeps_showReach (keeps_every_writeFields ..) (Part.mem_of_elem rfl)) <|
    performs_ite (performs_some fun _ => completes_may _ (completes_execEwlMemberRevive ..).every) <|
    performs_none

theorem performs_writeMarket (d : RegDef) (i b : Nat) (v : Word) : Performs (writeMarket d i b v) := by
  unfold writeMarket
  exact
    performs_ite (performs_some fun _ => (completes_execMarketTxReady ..).every) <|
    performs_ite (performs_some <| completes_chain_cons (fun _ => (completes_execMarketPortEnable ..).every) <|
      completes_chain_cons (fun _ => (completes_execMarketPortRetrain ..).every) <|
      completes_chain_nil) <|
    performs_ite (performs_some fun _ => (completes_execMarketTsPop (Fin.ofNat 32 i) v _).every) <|
    performs_ite (performs_some fun _ => (completes_execLqConsWrite ..).every) <|
    performs_ite (performs_plainly fun _ => by apply keeps_streamCfg (Keeps.refl _ _) <;> exact Part.mem_of_elem rfl) <|
    performs_ite (performs_some fun _ => (completes_execMarketTxqPush ..).every) <|
    performs_ite (performs_plainly fun _ => keeps_showSynce (keeps_every_writeFields ..) (Part.mem_of_elem rfl) _) <|
    performs_none

theorem performs_writeHostIf (d : RegDef) (i j : Nat) (v : Word) : Performs (writeHostIf d i j v) := by
  unfold writeHostIf
  exact
    performs_ite (performs_some fun _ => (completes_execHostObMapWrite ..).every) <|
    performs_ite (performs_some fun _ => (completes_execHostObMapWrite ..).every) <|
    performs_ite (performs_some fun _ => (completes_execHostDbBindWrite ..).every) <|
    performs_ite (performs_some fun _ => (completes_execHostFnWinWrite ..).every) <|
    performs_ite (performs_plainly fun _ => keeps_every_wrWord (keeps_ite (Keeps.refl _ _) (keeps_every_wr ..)) _ _) <|
    performs_none

theorem performs_writeCoppice (d : RegDef) (i b : Nat) (v : Word) (s : State) : Performs (writeCoppice d i b v s) := by
  unfold writeCoppice
  exact
    performs_ite (performs_some <| completes_chain_cons (fun _ => completes_may _ (completes_execCoppiceLoadBegin ..).every) <|
      completes_chain_cons (fun _ => completes_may _ (completes_execCoppiceLoadEnd ..).every) <|
      completes_chain_cons (fun _ => completes_may _ (completes_execCoppiceLoadAbort ..).every) <|
      completes_chain_nil) <|
    performs_ite (performs_some fun _ => (completes_execUclkCfgWrite ..).every) <|
    performs_ite (performs_some fun _ => completes_apply_ite (completes_execStoolQuiesce ..).every <| completes_apply_ite (completes_execStoolOpen ..).every <| completes_apply_ite (completes_execStoolClear ..).every <| completes_apply_ite (completes_execStoolUserReset ..).every <| completes_next (Keeps.refl _ _)) <|
    performs_ite (performs_heldWhile _ fun _ => keeps_every_writeFields ..) <|
    performs_ite (performs_some fun _ => (completes_execCoppiceReadbackSelect ..).every) <|
    performs_none

theorem performs_writeStrong (d : RegDef) (i b : Nat) (v : Word) (mid : Mid) : Performs (writeStrong d i b v mid) := by
  unfold writeStrong
  exact
    performs_ite (performs_some fun _ => (completes_execStrongRestart ..).every) <|
    performs_ite (performs_some <| completes_chain_cons (fun _ => (completes_execNewChallenge ..).every) <|
      completes_chain_cons (fun _ => (completes_execDebugResponseSubmit ..).every) <|
      completes_chain_nil) <|
    performs_ite (performs_some fun _ => (completes_execStrongQProdWrite ..).every) <|
    performs_ite (performs_plainly fun _ => keeps_every_wr ..) <|
    performs_none

theorem performs_writeHearth (d : RegDef) (i b : Nat) (v : Word) (mid : Mid) : Performs (writeHearth d i b v mid) := by
  unfold writeHearth
  exact
    performs_ite (performs_some fun _ => (completes_execHearthRelease ..).every) <|
    performs_ite (performs_some fun _ => completes_next (keeps_every_storeOrRefuse ..)) <|
    performs_ite (performs_some fun _ => completes_next (keeps_every_storeOrRefuse ..)) <|
    performs_ite (performs_some fun _ => (completes_execHearthCrierEnter ..).every) <|
    performs_ite (performs_some fun _ => (completes_execRecoveryReboot ..).every) <|
    performs_ite (performs_some fun _ => (completes_execHearthReadmit ..).every) <|
    performs_ite (performs_some fun _ => (completes_execHearthHandover ..).every) <|
    performs_ite (performs_some fun _ => (completes_execHearthDevreset ..).every) <|
    performs_ite (performs_some fun _ => completes_apply_ite (completes_execUnitResetHallCore ..).every <| completes_apply_ite (completes_execUnitResetCellar ..).every <| (completes_execUnitResetHamletCore ..).every) <|
    performs_ite (performs_some fun _ => completes_apply_ite (completes_execPwrDomOn ..).every <| (completes_execPwrDomOff ..).every) <|
    performs_ite (performs_plainly fun _ => keeps_wr (keeps_wr (keeps_every_wrWord (Keeps.refl _ _) _ _) (Part.mem_of_elem rfl) _ _) (Part.mem_of_elem rfl) _ _) <|
    performs_ite (performs_plainly fun _ => keeps_every_wrWord (keeps_ite (Keeps.refl _ _) (keeps_every_wr ..)) _ _) <|
    performs_ite (performs_some fun _ => (completes_execHearthEvtPop ..).every) <|
    performs_none

theorem performs_ownWrite (s : State) (d : RegDef) (b : Nat) (v : Word) (mid : Mid) (o : Outside) : Performs (s.ownWrite d b v mid o) := by
  unfold State.ownWrite
  exact
    performs_ite (performs_writeHamlet ..) <|
    performs_ite (performs_writeHearth ..) <|
    performs_ite (performs_writeMemTest ..) <|
    performs_ite (performs_writeStrong ..) <|
    performs_ite (performs_writeHostIf ..) <|
    performs_ite (performs_writeSteeple ..) <|
    performs_ite (performs_writeTally ..) <|
    performs_ite (performs_writeCommons ..) <|
    performs_ite (performs_writeGranary ..) <|
    performs_ite (performs_writeCarter ..) <|
    performs_ite (performs_writeReeve ..) <|
    performs_ite (performs_writeWorkshop ..) <|
    performs_ite (performs_writeSieve ..) <|
    performs_ite (performs_writeLanes ..) <|
    performs_ite (performs_writeMarket ..) <|
    performs_ite (performs_writeCoppice ..) <|
    performs_ite (performs_writeDebug ..) <|
    performs_none

theorem keeps_every_reply (h : Keeps every s t) (a : Answer) : Keeps every s (t.reply a) := keeps_reply h (Part.mem_of_elem rfl) a

theorem keeps_every_ack (h : Keeps every s t) : Keeps every s t.ack := keeps_ack h (Part.mem_of_elem rfl)

theorem keeps_every_refusedAns (h : Keeps every s t) : Keeps every s t.refusedAns := keeps_refusedAns h (Part.mem_of_elem rfl)

theorem completes_writeOne (s : State) (mid : Mid) (a : Nat) (v : Word) (o : Outside) : Completes every s (s.writeOne mid a v o) := by
  have hack : Keeps every s s.ack := keeps_every_ack (Keeps.refl _ s)
  unfold State.writeOne
  split
  · exact completes_next (keeps_every_reply (Keeps.refl _ s) _)
  · split
    next f hf => exact Completes.trans hack ((performs_ownWrite ..).completes f hf _)
    next => exact completes_next (keeps_every_ack (keeps_every_writeFields ..))

theorem completes_windowWrite (s : State) (mid : Mid) (a n : Nat) (v : DWord) : Completes every s (s.windowWrite mid a n v) := by
  unfold State.windowWrite
  exact completes_ite (completes_next (Keeps.refl _ s)) (completes_ite (completes_execCoppiceCfgDataWrite ..).every (completes_execHearthRcvDataWrite ..).every)

theorem completes_regWrite (s : State) (mid : Mid) (a : Nat) (v : Word) (o : Outside) : Completes every s (s.regWrite mid a v o) := by
  unfold State.regWrite
  split
  · exact completes_next (keeps_every_reply (Keeps.refl _ s) _)
  · exact completes_ite (completes_windowWrite ..) (completes_ite (completes_writeOne ..) (completes_next (keeps_every_refusedAns (Keeps.refl _ s))))

/-- The two halves of an 8-byte write are two writes, the second from the state that the first leaves (R636). -/
theorem completes_regWriteBytes (s : State) (mid : Mid) (a n : Nat) (v : DWord) (o : Outside) :
    Completes every s (s.regWriteBytes mid a n v o) := by
  obtain ⟨t, ht, hst⟩ := completes_writeOne s mid a (v.extractLsb' 0 32) o
  obtain ⟨u, hu, htu⟩ := completes_writeOne t mid (a + 4) (v.extractLsb' 32 32) o
  have hreply (x : Answer) : Completes every s (.next (s.reply x)) := completes_next (keeps_every_reply (Keeps.refl _ s) x)
  unfold State.regWriteBytes
  rw [ht]
  dsimp only
  rw [hu]
  dsimp only
  split
  · exact hreply _
  · refine completes_ite (completes_windowWrite ..) (completes_ite (completes_next hst) (completes_ite (completes_ite ?_ ?_) ?_))
    · exact completes_next (keeps_every_ack (Keeps.refl _ s))
    · split
      · exact hreply _
      · exact completes_ite (hreply _) (completes_ite (hreply _) (completes_next (hst.trans htu)))
    · exact completes_next (keeps_every_refusedAns (Keeps.refl _ s))

theorem completes_execRegisterWrite (mid : Mid) (a : BitVec 40) (v : Word) (o : Outside) (s : State) :
    Completes every s (execRegisterWrite mid a v o s) := completes_regWrite ..

theorem completes_execPartialRegisterAccess (mid : Mid) (a : BitVec 40) (n : Nat) (write : Bool) (v : DWord) (o : Outside) (s : State) :
    Completes every s (execPartialRegisterAccess mid a n write v o s) := by
  unfold execPartialRegisterAccess
  refine completes_ite (completes_regWriteBytes ..) (completes_next ?_)
  apply keeps_regRead (Keeps.refl _ s) <;> exact Part.mem_of_elem rfl

theorem keeps_every_hostDrop (s : State) (h : Keeps every s t) : Keeps every s t.hostDrop := keeps_hostDrop h (Part.mem_of_elem rfl)

theorem completes_hostPosted (h : Completes every s o) : Completes every s (hostPosted o) := by
  obtain ⟨t, rfl, ht⟩ := h
  exact completes_next (keeps_ite ht (keeps_every_hostDrop s ht))

theorem completes_hostRegWrite (s : State) (a : Nat) (bytes : List Byte) (o : Outside) : Completes every s (s.hostRegWrite a bytes o) := by
  unfold State.hostRegWrite
  refine completes_ite ?_ (completes_ite (completes_execHearthRcvDataWrite ..).every (completes_regWriteBytes ..))
  split
  · exact completes_next (keeps_every_reply (Keeps.refl _ s) _)
  · exact (completes_execCoppiceCfgDataWrite ..).every

theorem completes_doorbell (s : State) (fn d : Nat) (v : Word) (bytes : Nat) (o : Outside) : Completes every s (s.doorbell fn d v bytes o) :=
  completes_ite (completes_next (keeps_inc (Keeps.refl _ s) (Part.mem_of_elem rfl) _)) (completes_hostPosted (completes_regWrite ..))

theorem completes_execHostDoorbellWrite (fn : Fin 256) (d : Fin 16) (v : Word) (bytes : Nat) (o : Outside) (s : State) :
    Completes every s (execHostDoorbellWrite fn d v bytes o s) := completes_doorbell ..

theorem completes_execHostMemoryWrite (fn : Fin 256) (bar : Fin 6) (off : Nat) (bytes : List Byte) (ep : Bool) (o : Outside) (s : State) :
    Completes every s (execHostMemoryWrite fn bar off bytes ep o s) := by
  have hsame : Completes every s (.next s) := completes_next (Keeps.refl _ s)
  have hdrop : Completes every s (.next s.hostDrop) := completes_next (keeps_every_hostDrop s (Keeps.refl _ s))
  have hdma (mid : Mid) (a : Nat) (b : List (Nat × Bool)) : Keeps every s (s.dmaWrite mid a b).2 := by
    apply keeps_dmaWrite (Keeps.refl _ s) <;> exact Part.mem_of_elem rfl
  unfold execHostMemoryWrite
  refine completes_ite hsame ?_
  split
  case h_1 => exact completes_ite hdrop (completes_hostPosted (completes_hostRegWrite ..))
  case h_2 => exact completes_next (keeps_ite (hdma ..) (keeps_every_hostDrop s (hdma ..)))
  case h_3 => exact completes_ite hdrop (completes_doorbell ..)
  case h_4 =>
    exact completes_ite hdrop (completes_ite (completes_next (keeps_inc (Keeps.refl _ s) (Part.mem_of_elem rfl) _))
      (completes_execHcqHeadWrite ..).every)
  case h_5 => exact completes_next (keeps_ite (Keeps.refl _ s) (keeps_every_hostDrop s (Keeps.refl _ s)))
  case h_6 => exact hdrop
  case h_7 => exact hsame

theorem completes_jtagAccess (s : State) (write : Bool) (a v : Nat) (given : Answer) (o : Outside) :
    Completes every s (s.jtagAccess write a v given o) := by
  unfold State.jtagAccess
  refine completes_ite (completes_ite (completes_regWrite ..) (completes_next ?_))
    (completes_ite (completes_next (keeps_every_reply (Keeps.refl _ s) _)) ?_)
  · apply keeps_regRead (Keeps.refl _ s) <;> exact Part.mem_of_elem rfl
  · split
    · refine completes_next ?_
      apply keeps_refuseAccess (Keeps.refl _ s) <;> exact Part.mem_of_elem rfl
    · refine completes_ite (completes_next (keeps_every_ack ?_)) (completes_next (keeps_every_reply ?_ _))
      · apply keeps_dmaWrite (Keeps.refl _ s) <;> exact Part.mem_of_elem rfl
      · apply keeps_dmaRead (Keeps.refl _ s) <;> exact Part.mem_of_elem rfl

theorem completes_execJtagDbgAccessDone (given : Answer) (o : Outside) (s : State) :
    Completes every s (execJtagDbgAccessDone given o s) := by
  unfold execJtagDbgAccessDone
  split
  · exact completes_next (Keeps.refl _ s)
  next write a v _ =>
    obtain ⟨t, ht, hk⟩ := completes_jtagAccess s write a v given o
    rw [ht]
    exact completes_next (keeps_setTap hk (Part.mem_of_elem rfl) _)

theorem exec_completes (c : Instr) (s : State) (hc : c.wf = true) : Completes (partsOf c) s (exec c s) := by
  cases c with
  | registerWrite _ _ _ _ => exact completes_execRegisterWrite _ _ _ _ s
  | counterReadClear _ _ => exact completes_execCounterReadClear _ _ s
  | partialRegisterAccess _ _ _ _ _ _ => exact completes_execPartialRegisterAccess _ _ _ _ _ _ s
  | atomicToRegister a => exact completes_execAtomicToRegister a s
  | lgStart _ _ _ => exact completes_execLgStart _ _ _ s
  | lgStop _ _ => exact completes_execLgStop _ _ s
  | lgStartStopBoth group v => exact completes_execLgStartStopBoth group v s
  | lgTddSwap _ _ => exact completes_execLgTddSwap _ _ s
  | lgActionBoundaryStart _ => exact completes_execLgActionBoundaryStart _ s
  | lgActionBoundaryStop _ => exact completes_execLgActionBoundaryStop _ s
  | lgReturnIdle _ => exact completes_execLgReturnIdle _ s
  | slotBoundary _ => exact completes_execSlotBoundary _ s
  | tddSwapApply _ => exact completes_execTddSwapApply _ s
  | planArm _ _ _ _ _ => exact completes_execPlanArm _ _ _ _ _ s
  | planCommit _ => exact completes_execPlanCommit _ s
  | planWithdraw _ _ => exact completes_execPlanWithdraw _ _ s
  | slotSweep _ _ => exact completes_execSlotSweep _ _ s
  | sweepResidueReport _ => exact completes_execSweepResidueReport _ s
  | residueClear _ _ => exact completes_execResidueClear _ _ s
  | steepleStep _ => exact completes_execSteepleStep _ s
  | steepleLatch => exact completes_execSteepleLatch s
  | dpllPhaseUpdate _ _ _ _ => exact completes_execDpllPhaseUpdate _ _ _ _ s
  | steeplePtpOffsetWrite _ _ _ => exact completes_execSteeplePtpOffsetWrite _ _ _ s
  | dpllHoldoverEntry _ => exact completes_execDpllHoldoverEntry _ s
  | dpllSourceWrite _ => exact completes_execDpllSourceWrite _ s
  | replicaLost _ => exact completes_execReplicaLost _ s
  | replicaResync _ => exact completes_execReplicaResync _ s
  | bellCfgWrite _ _ => exact completes_execBellCfgWrite _ _ s
  | bellEdge _ => exact completes_execBellEdge _ s
  | ppsOutPulse _ => exact completes_execPpsOutPulse _ s
  | captureEdge _ _ => exact completes_execCaptureEdge _ _ s
  | capPop _ => exact completes_execCapPop _ s
  | sheafIssue _ _ _ => exact completes_execSheafIssue _ _ _ s
  | interruptTake _ => exact completes_execInterruptTake _ s
  | tickCompareMatch _ => exact completes_execTickCompareMatch _ s
  | softwareInterrupt _ => exact completes_execSoftwareInterrupt _ s
  | loadAnswer _ _ _ => exact completes_execLoadAnswer _ _ _ s
  | storeAnswer _ _ _ => exact completes_execStoreAnswer _ _ _ s
  | imemWrite _ => exact completes_execImemWrite _ s
  | imemFlipArm _ _ _ => exact completes_execImemFlipArm _ _ _ s
  | imemFlipDisarm _ _ _ => exact completes_execImemFlipDisarm _ _ _ s
  | imemFlipApply _ _ => exact completes_execImemFlipApply _ _ s
  | quernJobStart _ => exact completes_execQuernJobStart _ s
  | quernJobEnd _ => exact completes_execQuernJobEnd _ s
  | reeveSubmitCmd _ _ => exact completes_execReeveSubmitCmd _ _ s
  | reeveSubmitOutcome _ => exact completes_execReeveSubmitOutcome _ s
  | reeveSubmitResultTake _ _ => exact completes_execReeveSubmitResultTake _ _ s
  | reeveDecr _ => exact completes_execReeveDecr _ s
  | decrementArrival _ => exact completes_execDecrementArrival _ s
  | reeveAbort _ => exact completes_execReeveAbort _ s
  | itemDispatch _ _ => exact completes_execItemDispatch _ _ s
  | itemDeadlineLapse _ => exact completes_execItemDeadlineLapse _ s
  | hardItemKill _ => exact completes_execHardItemKill _ s
  | preemptSelect _ => exact completes_execPreemptSelect _ s
  | preemptWithdraw _ _ => exact completes_execPreemptWithdraw _ _ s
  | itemResume _ _ => exact completes_execItemResume _ _ s
  | preemptedKillReentry _ _ => exact completes_execPreemptedKillReentry _ _ s
  | coreDoneArrival _ _ => exact completes_execCoreDoneArrival _ _ s
  | lapseHandlerOverrun _ _ => exact completes_execLapseHandlerOverrun _ _ s
  | overrunCoreRelease _ _ _ => exact completes_execOverrunCoreRelease _ _ _ s
  | workshopJobHandoff _ => exact completes_execWorkshopJobHandoff _ s
  | workshopEndStatus _ => exact completes_execWorkshopEndStatus _ s
  | reportPostDeferred _ => exact completes_execReportPostDeferred _ s
  | reeveReportTake _ _ => exact completes_execReeveReportTake _ _ s
  | reportQueueFlush _ _ => exact completes_execReportQueueFlush _ _ s
  | evSet _ _ _ => exact completes_execEvSet _ _ _ s
  | evFlagsClear _ _ _ => exact completes_execEvFlagsClear _ _ _ s
  | reeveCompatWrite _ => exact completes_execReeveCompatWrite _ s
  | ldpcDec _ _ => exact completes_execLdpcDec _ _ s
  | ldpcEnc _ _ => exact completes_execLdpcEnc _ _ s
  | polarDec _ _ => exact completes_execPolarDec _ _ s
  | polarEnc _ _ => exact completes_execPolarEnc _ _ s
  | turboDec _ _ => exact completes_execTurboDec _ _ s
  | turboEnc _ _ => exact completes_execTurboEnc _ _ s
  | crcJob _ _ => exact completes_execCrcJob _ _ s
  | kilnHandleWaitEnd _ => exact completes_execKilnHandleWaitEnd _ s
  | kilnCheckpointLapse _ _ _ => exact completes_execKilnCheckpointLapse _ _ _ s
  | kilnJobEnd _ _ _ => exact completes_execKilnJobEnd _ _ _ s
  | kilnSweep _ _ _ => exact completes_execKilnSweep _ _ _ s
  | kilnAbort _ _ => exact completes_execKilnAbort _ _ s
  | kilnBusError _ => exact completes_execKilnBusError _ s
  | kilnHarqOpen _ => exact completes_execKilnHarqOpen _ s
  | kilnHarqClose _ => exact completes_execKilnHarqClose _ s
  | kilnHarqAreaWrite _ => exact completes_execKilnHarqAreaWrite _ s
  | workshopEngEnWrite _ _ => exact completes_execWorkshopEngEnWrite _ _ s
  | wheelFwd _ _ => exact completes_execWheelFwd _ _ s
  | wheelInv _ _ => exact completes_execWheelInv _ _ s
  | wheelCorr _ _ => exact completes_execWheelCorr _ _ s
  | ulWeights _ _ => exact completes_execUlWeights _ _ s
  | ulDetect _ _ => exact completes_execUlDetect _ _ s
  | dlWeights _ _ => exact completes_execDlWeights _ _ s
  | wheelMillCheckpointLapse _ _ _ => exact completes_execWheelMillCheckpointLapse _ _ _ s
  | wheelMillJobEnd _ _ _ _ => exact completes_execWheelMillJobEnd _ _ _ _ s
  | wheelMillSweep _ _ _ => exact completes_execWheelMillSweep _ _ _ s
  | wheelMillAbort _ => exact completes_execWheelMillAbort _ s
  | wheelMillBusError _ _ => exact completes_execWheelMillBusError _ _ s
  | sieveStart _ => exact completes_execSieveStart _ s
  | sieveStop _ => exact completes_execSieveStop _ s
  | sieveSwap _ _ => exact completes_execSieveSwap _ _ s
  | forceGuard _ => exact completes_execForceGuard _ s
  | leaveGuard _ => exact completes_execLeaveGuard _ s
  | sieveChannelRun _ => exact completes_execSieveChannelRun _ s
  | sieveChannelCease _ => exact completes_execSieveChannelCease _ s
  | sieveBlockArrival _ _ _ _ _ _ => exact completes_execSieveBlockArrival _ _ _ _ _ _ s
  | sieveInputTimeout _ => exact completes_execSieveInputTimeout _ s
  | sieveBellMark _ => exact completes_execSieveBellMark _ s
  | sieveFadeEnd _ => exact completes_execSieveFadeEnd _ s
  | sieveGuardReturn _ => exact completes_execSieveGuardReturn _ s
  | sieveCoefWrite _ _ _ _ => exact completes_execSieveCoefWrite _ _ _ _ s
  | sieveDelayWrite _ _ => exact completes_execSieveDelayWrite _ _ s
  | sieveDelayApply _ => exact completes_execSieveDelayApply _ s
  | sieveGuardCfgWrite _ _ => exact completes_execSieveGuardCfgWrite _ _ s
  | sieveBurstWrite _ => exact completes_execSieveBurstWrite _ s
  | sieveBurstAck _ => exact completes_execSieveBurstAck _ s
  | sieveBurstLate _ => exact completes_execSieveBurstLate _ s
  | sieveSweep _ _ => exact completes_execSieveSweep _ _ s
  | sieveUpReady _ _ => exact completes_execSieveUpReady _ _ s
  | sieveUpOutputRequest _ => exact completes_execSieveUpOutputRequest _ s
  | sieveUpBurstSkip _ => exact completes_execSieveUpBurstSkip _ s
  | memoryRead _ _ _ _ _ => exact completes_execMemoryRead _ _ _ _ _ s
  | memoryWrite _ _ => exact completes_execMemoryWrite _ _ s
  | rmwWrite _ _ => exact completes_execRmwWrite _ _ s
  | granaryBankPowerRequest _ _ => exact completes_execGranaryBankPowerRequest _ _ s
  | granaryBankTransitionEnd _ => exact completes_execGranaryBankTransitionEnd _ s
  | granaryBankFillEnd _ _ => exact completes_execGranaryBankFillEnd _ _ s
  | granaryPoolEnable _ _ => exact completes_execGranaryPoolEnable _ _ s
  | granaryPoolDisable _ _ => exact completes_execGranaryPoolDisable _ _ s
  | granaryPoolTake _ => exact completes_execGranaryPoolTake _ s
  | granaryPoolRelease _ _ => exact completes_execGranaryPoolRelease _ _ s
  | poolSweepReturn _ _ => exact completes_execPoolSweepReturn _ _ s
  | poolFault _ => exact completes_execPoolFault _ s
  | eccInject _ => exact completes_execEccInject _ s
  | ecclogPop => exact completes_execEcclogPop s
  | ecclogFlush _ => exact completes_execEcclogFlush _ s
  | harrowStart _ _ => exact completes_execHarrowStart _ _ s
  | harrowTestEnd _ => exact completes_execHarrowTestEnd _ s
  | gleanerRegionStart _ _ _ _ => exact completes_execGleanerRegionStart _ _ _ _ s
  | gleanerYield _ _ _ => exact completes_execGleanerYield _ _ _ s
  | packetInject ni q => exact completes_execPacketInject ni q s hc
  | routerHeadArrival _ => exact completes_execRouterHeadArrival _ s
  | packetEject _ => exact completes_execPacketEject _ s
  | answerArrival _ => exact completes_execAnswerArrival _ s
  | targetTimeout _ _ => exact completes_execTargetTimeout _ _ s
  | portRevive _ _ => exact completes_execPortRevive _ _ s
  | portClose _ _ => exact completes_execPortClose _ _ s
  | portDrained _ _ => exact completes_execPortDrained _ _ s
  | portOpen _ _ => exact completes_execPortOpen _ _ s
  | portDisable _ _ _ => exact completes_execPortDisable _ _ _ s
  | portDisableComplete _ _ => exact completes_execPortDisableComplete _ _ s
  | portEnable _ _ => exact completes_execPortEnable _ _ s
  | routeEntryStage _ _ _ _ => exact completes_execRouteEntryStage _ _ _ _ s
  | routeAdvance => exact completes_execRouteAdvance s
  | routeDiscardStage => exact completes_execRouteDiscardStage s
  | barrierArrive _ _ => exact completes_execBarrierArrive _ _ s
  | barrierRelease _ _ => exact completes_execBarrierRelease _ _ s
  | barrierBcast _ _ => exact completes_execBarrierBcast _ _ s
  | probePop _ => exact completes_execProbePop _ s
  | tallySnapArm _ _ => exact completes_execTallySnapArm _ _ s
  | tallySnapshotCapture => exact completes_execTallySnapshotCapture s
  | tallyReadoutEnd _ => exact completes_execTallyReadoutEnd _ s
  | tallyReadoutError _ => exact completes_execTallyReadoutError _ s
  | tallyPeek _ => exact completes_execTallyPeek _ s
  | tallyPeekValues => exact completes_execTallyPeekValues s
  | tallyFault _ _ _ => exact completes_execTallyFault _ _ _ s
  | tallyVoteCorrect id place ret => exact completes_execTallyVoteCorrect id place ret s
  | carterStartLoose _ _ => exact completes_execCarterStartLoose _ _ s
  | carterStartPlanned _ _ => exact completes_execCarterStartPlanned _ _ s
  | carterStop _ => exact completes_execCarterStop _ s
  | carterDescFetch _ => exact completes_execCarterDescFetch _ s
  | carterBurst _ => exact completes_execCarterBurst _ s
  | carterBurstAnswer _ _ _ => exact completes_execCarterBurstAnswer _ _ _ s
  | carterDescDeadlineLapse _ => exact completes_execCarterDescDeadlineLapse _ s
  | carterDescEnd _ => exact completes_execCarterDescEnd _ s
  | carterChainHalt _ => exact completes_execCarterChainHalt _ s
  | carterRunEnd _ => exact completes_execCarterRunEnd _ s
  | carterSweep _ _ => exact completes_execCarterSweep _ _ s
  | carterResultTake _ _ => exact completes_execCarterResultTake _ _ s
  | quadCfgWrite _ _ => exact completes_execQuadCfgWrite _ _ s
  | laneCfgWrite _ _ => exact completes_execLaneCfgWrite _ _ s
  | ewlEnable _ _ => exact completes_execEwlEnable _ _ s
  | ewlDisable _ _ => exact completes_execEwlDisable _ _ s
  | ewlBlockReceive _ _ _ _ => exact completes_execEwlBlockReceive _ _ _ _ s
  | blockLockGain _ => exact completes_execBlockLockGain _ s
  | blockLockLoss _ => exact completes_execBlockLockLoss _ s
  | markerReceive _ _ _ => exact completes_execMarkerReceive _ _ _ s
  | markerLockLoss _ => exact completes_execMarkerLockLoss _ s
  | ewlLinkDown _ => exact completes_execEwlLinkDown _ s
  | ewlSilent _ => exact completes_execEwlSilent _ s
  | markerSend _ _ => exact completes_execMarkerSend _ _ s
  | chaffSend _ => exact completes_execChaffSend _ s
  | chaffInsert _ => exact completes_execChaffInsert _ s
  | ewlFlitReceive _ _ => exact completes_execEwlFlitReceive _ _ s
  | ewlCreditReceive _ _ => exact completes_execEwlCreditReceive _ _ s
  | ewlRequestTimeout _ => exact completes_execEwlRequestTimeout _ s
  | ewlMemberRevive _ => exact completes_execEwlMemberRevive _ s
  | ewlTimeReceive _ _ => exact completes_execEwlTimeReceive _ _ s
  | ewlStreamReceive _ _ _ => exact completes_execEwlStreamReceive _ _ _ s
  | ewlStreamSend _ => exact completes_execEwlStreamSend _ s
  | prbsCheckLock _ _ => exact completes_execPrbsCheckLock _ _ s
  | marginStart _ _ => exact completes_execMarginStart _ _ s
  | marginEnd _ _ => exact completes_execMarginEnd _ _ s
  | laneRecal _ => exact completes_execLaneRecal _ s
  | laneRecalEnd _ => exact completes_execLaneRecalEnd _ s
  | marketPortEnable _ _ => exact completes_execMarketPortEnable _ _ s
  | marketPortRetrain _ _ => exact completes_execMarketPortRetrain _ _ s
  | trainingComplete _ => exact completes_execTrainingComplete _ s
  | trainingTimeout _ => exact completes_execTrainingTimeout _ s
  | pcsLock _ => exact completes_execPcsLock _ s
  | pcsLockLoss _ => exact completes_execPcsLockLoss _ s
  | frameReceive _ _ => exact completes_execFrameReceive _ _ s
  | landingWritesAnswered _ => exact completes_execLandingWritesAnswered _ s
  | notifyDeadline _ _ _ _ => exact completes_execNotifyDeadline _ _ _ _ s
  | landingQueuePush _ => exact completes_execLandingQueuePush _ s
  | lqConsWrite _ _ => exact completes_execLqConsWrite _ _ s
  | streamTxBurst _ => exact completes_execStreamTxBurst _ s
  | egressOpen _ _ _ => exact completes_execEgressOpen _ _ _ s
  | marketTxReady _ => exact completes_execMarketTxReady _ s
  | egressStart _ => exact completes_execEgressStart _ s
  | egressWithhold _ _ _ => exact completes_execEgressWithhold _ _ _ s
  | frameDeparture _ => exact completes_execFrameDeparture _ s
  | marketTxqPush _ _ => exact completes_execMarketTxqPush _ _ s
  | hostFrameSend _ => exact completes_execHostFrameSend _ s
  | marketTsPop p v => exact completes_execMarketTsPop p v s
  | marketTsCap3Read _ => exact completes_execMarketTsCap3Read _ s
  | marketPortStatusRead _ => exact completes_execMarketPortStatusRead _ s
  | marketSweep _ _ => exact completes_execMarketSweep _ _ s
  | synceSquelch _ => exact completes_execSynceSquelch _ s
  | pcieLinkUp _ _ => exact completes_execPcieLinkUp _ _ s
  | hostConfigRequest _ _ => exact completes_execHostConfigRequest _ _ s
  | hostMemoryRead _ _ _ _ _ => exact completes_execHostMemoryRead _ _ _ _ _ s
  | hostMemoryWrite _ _ _ _ _ _ => exact completes_execHostMemoryWrite _ _ _ _ _ _ s
  | hostDoorbellWrite _ _ _ _ _ => exact completes_execHostDoorbellWrite _ _ _ _ _ s
  | hostDbBindWrite _ _ _ => exact completes_execHostDbBindWrite _ _ _ s
  | hostFnWinWrite _ _ => exact completes_execHostFnWinWrite _ _ s
  | hostObMapWrite _ _ _ => exact completes_execHostObMapWrite _ _ _ s
  | outboundRequest _ _ => exact completes_execOutboundRequest _ _ s
  | outboundCompletion _ _ => exact completes_execOutboundCompletion _ _ s
  | outboundTimeout _ => exact completes_execOutboundTimeout _ s
  | hostInterruptSend _ => exact completes_execHostInterruptSend _ s
  | hcqFill _ _ => exact completes_execHcqFill _ _ s
  | hcqHeadWrite _ _ _ => exact completes_execHcqHeadWrite _ _ _ s
  | functionLevelReset _ _ => exact completes_execFunctionLevelReset _ _ s
  | pf2VfEnable => exact completes_execPf2VfEnable s
  | pf2VfPresent _ => exact completes_execPf2VfPresent _ s
  | pf2WindowExpiry _ => exact completes_execPf2WindowExpiry _ s
  | perstAssert => exact completes_execPerstAssert s
  | coppiceLoadBegin => exact completes_execCoppiceLoadBegin s
  | coppiceLoadEnd => exact completes_execCoppiceLoadEnd s
  | coppiceLoadAbort => exact completes_execCoppiceLoadAbort s
  | coppiceCfgDataWrite _ _ _ => exact completes_execCoppiceCfgDataWrite _ _ _ s
  | coppiceEraseEnd => exact completes_execCoppiceEraseEnd s
  | coppiceFrameWrite => exact completes_execCoppiceFrameWrite s
  | coppiceLoadTimeout => exact completes_execCoppiceLoadTimeout s
  | coppiceTrailerCheck => exact completes_execCoppiceTrailerCheck s
  | coppiceSignatureVerified => exact completes_execCoppiceSignatureVerified s
  | coppiceRelease => exact completes_execCoppiceRelease s
  | stoolQuiesce _ => exact completes_execStoolQuiesce _ s
  | stoolOpen _ => exact completes_execStoolOpen _ s
  | stoolClear _ => exact completes_execStoolClear _ s
  | stoolUserReset _ => exact completes_execStoolUserReset _ s
  | stoolDrainEnd _ => exact completes_execStoolDrainEnd _ s
  | stoolClearEnd _ => exact completes_execStoolClearEnd _ s
  | stoolRequestTimeout _ => exact completes_execStoolRequestTimeout _ s
  | stoolRequestCheck _ _ _ _ => exact completes_execStoolRequestCheck _ _ _ _ s
  | stoolBlockTimeout _ => exact completes_execStoolBlockTimeout _ s
  | stoolIrqEdge _ _ => exact completes_execStoolIrqEdge _ _ s
  | uclkCfgWrite _ _ => exact completes_execUclkCfgWrite _ _ s
  | uclkLocked _ => exact completes_execUclkLocked _ s
  | coppiceReadbackSelect _ => exact completes_execCoppiceReadbackSelect _ s
  | strongQProdWrite _ _ _ => exact completes_execStrongQProdWrite _ _ _ s
  | strongDescriptorEnd _ => exact completes_execStrongDescriptorEnd _ s
  | digest _ => exact completes_execDigest _ s
  | hmac _ => exact completes_execHmac _ s
  | gcmEnc _ => exact completes_execGcmEnc _ s
  | gcmDec _ => exact completes_execGcmDec _ s
  | ecdsaSign _ => exact completes_execEcdsaSign _ s
  | ecdsaVerify _ => exact completes_execEcdsaVerify _ s
  | ecdh _ _ => exact completes_execEcdh _ _ s
  | keygen _ _ => exact completes_execKeygen _ _ s
  | kdf _ _ => exact completes_execKdf _ _ s
  | wrap _ => exact completes_execWrap _ s
  | unwrap _ _ => exact completes_execUnwrap _ _ s
  | random _ => exact completes_execRandom _ s
  | keyDestroy _ => exact completes_execKeyDestroy _ s
  | macsecInstall _ => exact completes_execMacsecInstall _ s
  | pdcpKeyLoad _ => exact completes_execPdcpKeyLoad _ s
  | pdcp _ => exact completes_execPdcp _ s
  | verifyImage _ => exact completes_execVerifyImage _ s
  | authCo _ => exact completes_execAuthCo _ s
  | bindQueue _ => exact completes_execBindQueue _ s
  | setMode _ => exact completes_execSetMode _ s
  | zeroize _ => exact completes_execZeroize _ s
  | revoke _ => exact completes_execRevoke _ s
  | rollback _ => exact completes_execRollback _ s
  | newChallenge _ => exact completes_execNewChallenge _ s
  | challengeExpiry => exact completes_execChallengeExpiry s
  | debugResponseSubmit _ => exact completes_execDebugResponseSubmit _ s
  | zeroizePin => exact completes_execZeroizePin s
  | zeroizationComplete => exact completes_execZeroizationComplete s
  | strongRestart _ _ => exact completes_execStrongRestart _ _ s
  | strongSelftestEnd _ => exact completes_execStrongSelftestEnd _ s
  | entropyHealthFail => exact completes_execEntropyHealthFail s
  | resetNRelease _ _ => exact completes_execResetNRelease _ _ s
  | fuseReadEnd _ _ => exact completes_execFuseReadEnd _ _ s
  | poweronHarrowEnd _ _ => exact completes_execPoweronHarrowEnd _ _ s
  | poweronFillEnd => exact completes_execPoweronFillEnd s
  | lbistEnd _ _ => exact completes_execLbistEnd _ _ s
  | flashSlotReadEnd _ => exact completes_execFlashSlotReadEnd _ s
  | bootImageVerify => exact completes_execBootImageVerify s
  | hbmTrainingEnd _ _ => exact completes_execHbmTrainingEnd _ _ s
  | cellarFillEnd => exact completes_execCellarFillEnd s
  | bootTimeout => exact completes_execBootTimeout s
  | hearthRelease _ _ => exact completes_execHearthRelease _ _ s
  | hearthCrierEnter _ _ => exact completes_execHearthCrierEnter _ _ s
  | hearthLockstepMismatch => exact completes_execHearthLockstepMismatch s
  | crierEntry => exact completes_execCrierEntry s
  | crierUartLine => exact completes_execCrierUartLine s
  | i2cWrite _ => exact completes_execI2cWrite _ s
  | i2cRead _ _ => exact completes_execI2cRead _ _ s
  | i2cSclTimeout => exact completes_execI2cSclTimeout s
  | hearthRcvDataWrite _ _ _ => exact completes_execHearthRcvDataWrite _ _ _ s
  | recoveryReboot _ => exact completes_execRecoveryReboot _ s
  | spareTake _ _ => exact completes_execSpareTake _ _ s
  | spareTakeoverDone _ => exact completes_execSpareTakeoverDone _ s
  | hearthReadmit _ _ => exact completes_execHearthReadmit _ _ s
  | ucodeLoad _ _ _ => exact completes_execUcodeLoad _ _ _ s
  | ucodeLoadEnd _ _ => exact completes_execUcodeLoadEnd _ _ s
  | hearthHandover _ _ => exact completes_execHearthHandover _ _ s
  | handoverEnd => exact completes_execHandoverEnd s
  | pwrDomOn _ _ _ => exact completes_execPwrDomOn _ _ _ s
  | pwrDomOff _ _ _ => exact completes_execPwrDomOff _ _ _ s
  | pwrHoldRedecide _ => exact completes_execPwrHoldRedecide _ s
  | powerDown _ => exact completes_execPowerDown _ s
  | powerUpComplete _ _ => exact completes_execPowerUpComplete _ _ s
  | hearthDevreset _ _ => exact completes_execHearthDevreset _ _ s
  | timedResetInstant _ => exact completes_execTimedResetInstant _ s
  | unitResetHamletCore _ => exact completes_execUnitResetHamletCore _ s
  | unitResetHallCore _ _ => exact completes_execUnitResetHallCore _ _ s
  | unitResetCellar _ => exact completes_execUnitResetCellar _ s
  | unitResetDone => exact completes_execUnitResetDone s
  | throttleUpdate _ => exact completes_execThrottleUpdate _ s
  | tempSensorUpdate _ _ => exact completes_execTempSensorUpdate _ _ s
  | thermalTrip _ => exact completes_execThermalTrip _ s
  | internalColdReset => exact completes_execInternalColdReset s
  | resetNPulse _ => exact completes_execResetNPulse _ s
  | reeveTapPop => exact completes_execReeveTapPop s
  | traceExport _ => exact completes_execTraceExport _ s
  | traceWriteError _ _ => exact completes_execTraceWriteError _ _ s
  | hearthEventEntry => exact completes_execHearthEventEntry s
  | hearthEvtPop _ => exact completes_execHearthEvtPop _ s
  | telemetrySample _ => exact completes_execTelemetrySample _ s
  | jtagExtest _ _ => exact completes_execJtagExtest _ _ s
  | jtagSamplePreload _ _ => exact completes_execJtagSamplePreload _ _ s
  | jtagIdcode => exact completes_execJtagIdcode s
  | jtagClamp => exact completes_execJtagClamp s
  | jtagHighz => exact completes_execJtagHighz s
  | jtagBypass _ => exact completes_execJtagBypass _ s
  | jtagDbgRead _ => exact completes_execJtagDbgRead _ s
  | jtagDbgWrite _ _ => exact completes_execJtagDbgWrite _ _ s
  | jtagDbgAccessDone _ _ => exact completes_execJtagDbgAccessDone _ _ s
  | dbgHaltReq _ => exact completes_execDbgHaltReq _ s
  | dbgResume _ => exact completes_execDbgResume _ s
  | dbgStep _ => exact completes_execDbgStep _ s
  | dbgRegRead _ _ => exact completes_execDbgRegRead _ _ s
  | dbgRegWrite _ _ => exact completes_execDbgRegWrite _ _ s
  | dpllForceHold _ => exact completes_execDpllForceHold _ s
  | zeroizeNRelease => exact completes_execZeroizeNRelease s
  | pcieLinkDown => exact completes_execPcieLinkDown s
  | requesterCompletionTimeout _ => exact completes_execRequesterCompletionTimeout _ s
  | cellarStackTempReport _ _ => exact completes_execCellarStackTempReport _ _ s

/-- Where a command answers a next state, it is well formed: only an ill-formed packet stops (R373, R375). -/
theorem wf_of_exec_next (c : Instr) (s t : State) (h : exec c s = .next t) : c.wf = true := by
  cases c with
  | packetInject ni q =>
    by_contra hq
    simp [exec, execPacketInject, show packetFormed q = false from by simpa [Instr.wf] using hq] at h
  | _ => rfl

theorem exec_keeps {c : Instr} {s t : State} (h : exec c s = .next t) : Keeps (partsOf c) s t := by
  obtain ⟨u, hu, hk⟩ := exec_completes c s (wf_of_exec_next c s t h)
  rw [h] at hu
  cases hu
  exact hk

/-- Settles O5: the parts that each meaning may change, meaning by meaning. -/
theorem commandFrames : Obligations.CommandFrames := fun _ _ _ h => (exec_keeps h).1

/-- Settles O3: every meaning keeps both forms, and so does a tick on an empty queue. -/
theorem stepKeepsCanonicalForms : Obligations.StepKeepsCanonicalForms := by
  intro s t hs h
  unfold step at h
  split at h
  · cases h
    exact (keeps_advance (Keeps.refl [.regs, .stp] s) (by decide) (by decide)).canonical hs
  next c rest _ => exact (exec_keeps h).canonical (s := { s with pending := rest }) hs

theorem exec_packetInject_illFormed (ni : Fin 256) (q : PacketReq) (s : State) (hq : packetFormed q = false) :
    exec (.packetInject ni q) s = .fault (.illFormed "PACKET_INJECT") := by
  simp [exec, execPacketInject, hq]

/-- Settles O4: each meaning answers a next state, and so does a tick on an empty queue. -/
theorem everyWellFormedCommandCompletes : Obligations.EveryWellFormedCommandCompletes := by
  have hexec (c : Instr) (s : State) (hc : c.wf = true) : ∃ t, exec c s = .next t := by
    obtain ⟨t, ht, -⟩ := exec_completes c s hc
    exact ⟨t, ht⟩
  refine ⟨hexec, exec_packetInject_illFormed, fun s hs => ?_⟩
  unfold State.goesOn step
  split
  · exact ⟨_, rfl⟩
  next c rest hp => exact hexec c _ (hs c (by simp [hp]))

end Sys2Proof.Machine

/-! ## Which registers differ

`sameRegs s t l` says that the registers of `t` are those of `s` but for the fields `l`. One rule for every operation on registers;
an operation on another part of the state keeps it by `sameRegs.of_regs`. -/

namespace Sys2Proof.Claims

set_option Elab.async false

open Sys2Proof.Machine

variable {s t u : State} {l l' : List Fld}

theorem sameRegs.refl (s : State) (l : List Fld) : sameRegs s s l := fun _ _ => rfl

theorem sameRegs.of_regs (h : sameRegs s t l) (e : u.regs = t.regs) : sameRegs s u l := fun f hf => (State.rd_congr e f).trans (h f hf)

theorem sameRegs_of_regs_eq (e : t.regs = s.regs) (l : List Fld) : sameRegs s t l := (sameRegs.refl s l).of_regs e

theorem sameRegs.trans (h : sameRegs s t l) (k : sameRegs t u l) : sameRegs s u l := fun f hf => (k f hf).trans (h f hf)

theorem sameRegs.mono (h : sameRegs s t l) (hl : ∀ f ∈ l, f ∈ l') : sameRegs s t l' := fun f hf => h f fun x hx => hf x (hl x hx)

theorem sameRegs.wr (h : sameRegs s t l) {f : Fld} (hf : f ∈ l) (v : Nat) : sameRegs s (t.wr f v) l :=
  fun g hg => (State.wr_rd_ne t f g v (hg f hf)).trans (h g hg)

theorem sameRegs.wrB (h : sameRegs s t l) {f : Fld} (hf : f ∈ l) (b : Bool) : sameRegs s (t.wrB f b) l := h.wr hf _

theorem sameRegs.add (h : sameRegs s t l) {f : Fld} (hf : f ∈ l) (n : Nat) : sameRegs s (t.add f n) l := h.wr hf _

theorem sameRegs.inc (h : sameRegs s t l) {f : Fld} (hf : f ∈ l) : sameRegs s (t.inc f) l := h.wr hf _

theorem sameRegs.dec (h : sameRegs s t l) {f : Fld} (hf : f ∈ l) : sameRegs s (t.dec f) l := h.wr hf _

theorem sameRegs.incSat (h : sameRegs s t l) {f : Fld} (hf : f ∈ l) : sameRegs s (t.incSat f) l := h.wr hf _

theorem sameRegs.ite {c : Prop} [Decidable c] (ht : sameRegs s t l) (hu : sameRegs s u l) : sameRegs s (if c then t else u) l := by
  split
  · exact ht
  · exact hu

theorem sameRegs.foldl {α : Type} {g : State → α → State} (hg : ∀ t a, sameRegs s t l → sameRegs s (g t a) l) :
    ∀ (xs : List α) {t : State}, sameRegs s t l → sameRegs s (xs.foldl g t) l
  | [], _, h => h
  | a :: r, t, h => sameRegs.foldl hg r (hg t a h)

theorem sameRegs.wrWord (h : sameRegs s t l) (v : Word) {fs : List Fld} (hf : ∀ f ∈ fs, f ∈ l) : sameRegs s (t.wrWord v fs) l :=
  fun g hg => (State.wrWord_rd_ne v g fs t fun f hx => hg f (hf f hx)).trans (h g hg)

theorem sameRegs.w1c (h : sameRegs s t l) (v : Word) {fs : List Fld} (hf : ∀ f ∈ fs, f ∈ l) : sameRegs s (t.w1c v fs) l :=
  fun g hg => (State.w1c_rd_ne v g fs t fun f hx => hg f (hf f hx)).trans (h g hg)

theorem sameRegs.reply (h : sameRegs s t l) (a : Answer) : sameRegs s (t.reply a) l := h.of_regs rfl

theorem sameRegs.ack (h : sameRegs s t l) : sameRegs s t.ack l := h.of_regs rfl

theorem sameRegs.raise (h : sameRegs s t l) (e : HearthEvent) : sameRegs s (t.raise e) l := h.of_regs rfl

theorem sameRegs.refusedAns (h : sameRegs s t l) : sameRegs s t.refusedAns l := h.of_regs rfl

theorem sameRegs.irq (h : sameRegs s t l) (x : HallSrc) (i : Nat) : sameRegs s (t.irq x i) l := h.of_regs rfl

theorem sameRegs.irqIf (h : sameRegs s t l) (c : Bool) (x : HallSrc) (i : Nat) : sameRegs s (t.irqIf c x i) l :=
  h.of_regs (State.irqIf_regs t c x i)

theorem sameRegs.irqHost (h : sameRegs s t l) (i : Nat) : sameRegs s (t.irqHost i) l := h.of_regs (State.irqHost_regs t i)

theorem sameRegs.send (h : sameRegs s t l) (m : Sent) : sameRegs s (t.send m) l := h.of_regs rfl

theorem sameRegs.setMem (h : sameRegs s t l) (m : Memory) : sameRegs s (t.setMem m) l := h.of_regs rfl

theorem sameRegs.setStp (h : sameRegs s t l) (x : Steeple) : sameRegs s (t.setStp x) l := h.of_regs rfl

theorem sameRegs.bit (h : sameRegs s t l) {f : Fld} (hf : ∀ x ∈ l, f.key ≠ x.key) : t.bit f = s.bit f := by
  simp only [State.bit_eq, h f hf]

end Sys2Proof.Claims

namespace Sys2Proof.Machine

set_option Elab.async false

@[simp] theorem State.setStp_stp (s : State) (x : Steeple) : (s.setStp x).stp = x := rfl
@[simp] theorem State.setStp_rd (s : State) (x : Steeple) (f : Fld) : (s.setStp x).rd f = s.rd f := rfl
@[simp] theorem State.setStp_bit (s : State) (x : Steeple) (f : Fld) : (s.setStp x).bit f = s.bit f := rfl

/-- A bit field reads 1 or 0. -/
theorem State.rd_of_bit {s : State} {f : Fld} (hw : f.w = 1) : s.rd f = if s.bit f then 1 else 0 := by
  have h := State.rd_lt s f
  rw [hw] at h
  rw [State.bit_eq]
  by_cases h0 : s.rd f = 0
  · simp [h0]
  · rw [if_pos (by simpa using h0)]
    omega

/-- Each listed field holds the bits written to it, where no two of the fields share a place. -/
theorem State.wrWord_rd_mem (v : Word) (f : Fld) (fs : List Fld) (s : State) (hf : f ∈ fs) (hk : ∀ g ∈ fs, g ≠ f → f.key ≠ g.key) :
    (s.wrWord v fs).rd f = f.of v := by
  induction fs generalizing s with
  | nil => exact absurd hf (List.not_mem_nil)
  | cons g r ih =>
    change ((s.wr g (g.of v)).wrWord v r).rd f = f.of v
    have hr : ∀ x ∈ r, x ≠ f → f.key ≠ x.key := fun x hx => hk x (List.mem_cons_of_mem g hx)
    by_cases hm : f ∈ r
    · exact ih _ hm hr
    · have hg : f = g := (List.mem_cons.mp hf).resolve_right hm
      rw [State.wrWord_rd_ne v f r _ fun x hx => hr x hx fun he => hm (he ▸ hx), hg, State.wr_rd_same]
      exact Nat.mod_eq_of_lt (Nat.mod_lt _ (Nat.two_pow_pos _))

theorem Fld.of_lt (f : Fld) (v : Word) : f.of v < 2 ^ f.w := Nat.mod_lt _ (Nat.two_pow_pos f.w)

end Sys2Proof.Machine

/-! ## The Steeple's time (R25, R30, R57) -/

namespace Sys2Proof.Machine

set_option Elab.async false

open Sys2Proof.Claims

/-! ### STEEPLE_CTRL as it bears on the DPLL -/

/-- The fields that DPLL_EN and FORCE_HOLD write or decide. -/
def dpllCtrlFields : List Fld :=
  [R.STEEPLE_CTRL_DPLL_EN, R.STEEPLE_CTRL_FORCE_HOLD, R.STEEPLE_STATUS_ACTIVE_SRC, R.STEEPLE_STATUS_DPLL_STATE]

theorem sameRegs_dpllTo {s t : State} {l : List Fld} (h : sameRegs s t l) (hl : R.STEEPLE_STATUS_DPLL_STATE ∈ l) (d : Nat) :
    sameRegs s (t.dpllTo d) l := .ite h ((h.wr hl d).raise _)

theorem sameRegs_dpllAcquire {s t : State} {l : List Fld} (h : sameRegs s t l) (hs : R.STEEPLE_STATUS_ACTIVE_SRC ∈ l)
    (hd : R.STEEPLE_STATUS_DPLL_STATE ∈ l) (src : Nat) : sameRegs s (t.dpllAcquire src) l :=
  sameRegs_dpllTo ((h.wr hs src).setStp _) hd 1

@[simp] theorem State.dpllTo_stp (s : State) (d : Nat) : (s.dpllTo d).stp = s.stp := by
  unfold State.dpllTo
  split <;> rfl

@[simp] theorem State.dpllTo_rd_state (s : State) (d : Nat) (hd : d < 4) : (s.dpllTo d).rd R.STEEPLE_STATUS_DPLL_STATE = d := by
  unfold State.dpllTo
  split
  · assumption
  · rw [State.raise_rd, State.wr_rd_same]
    exact Nat.mod_eq_of_lt hd

@[simp] theorem State.dpllAcquire_now (s : State) (src : Nat) : (s.dpllAcquire src).stp.now = s.stp.now := by
  simp [State.dpllAcquire]

theorem sameRegs_dpllCtrl (s : State) (v : Word) : sameRegs s (s.dpllCtrl v) dpllCtrlFields := by
  have hw : sameRegs s (s.wrWord v [R.STEEPLE_CTRL_DPLL_EN, R.STEEPLE_CTRL_FORCE_HOLD]) dpllCtrlFields :=
    (sameRegs.refl s _).wrWord v (by decide)
  have hto {t : State} (h : sameRegs s t dpllCtrlFields) (d : Nat) := sameRegs_dpllTo h (by decide) d
  exact .ite (hto (hw.wr (by decide) 0) 0) (.ite (hto hw 3) (.ite (.ite (hto hw 0) (sameRegs_dpllAcquire hw (by decide) (by decide) _)) hw))

theorem State.wrWord_stp (v : Word) : ∀ (fs : List Fld) (s : State), (s.wrWord v fs).stp = s.stp
  | [], _ => rfl
  | f :: r, s => State.wrWord_stp v r (s.wr f (f.of v))

@[simp] theorem State.dpllCtrl_now (s : State) (v : Word) : (s.dpllCtrl v).stp.now = s.stp.now := by
  unfold State.dpllCtrl
  dsimp only
  split_ifs <;> simp [State.wrWord_stp]

/-- Whether the Steeple may step depends on registers of other blocks. -/
theorem mayStep_dpllCtrl (s : State) (v : Word) : (s.dpllCtrl v).mayStep = s.mayStep := by
  have hkeep {f : Fld} (hf : ∀ x ∈ dpllCtrlFields, f.key ≠ x.key) := sameRegs_dpllCtrl s v f hf
  have hgroup (g : Nat) : (s.dpllCtrl v).rd (R.LG_STATUS_STATE g) = s.rd (R.LG_STATUS_STATE g) := hkeep (by
    simp [dpllCtrlFields, Fld.key, R.LG_STATUS_STATE, R.STEEPLE_CTRL_DPLL_EN, R.STEEPLE_CTRL_FORCE_HOLD, R.STEEPLE_STATUS_ACTIVE_SRC, R.STEEPLE_STATUS_DPLL_STATE]
    omega)
  have hbell (b : Nat) : (s.dpllCtrl v).rd (R.BELL_CFG_MODE b) = s.rd (R.BELL_CFG_MODE b) := hkeep (by
    simp [dpllCtrlFields, Fld.key, R.BELL_CFG_MODE, R.STEEPLE_CTRL_DPLL_EN, R.STEEPLE_CTRL_FORCE_HOLD, R.STEEPLE_STATUS_ACTIVE_SRC, R.STEEPLE_STATUS_DPLL_STATE]
    omega)
  simp only [State.mayStep, hgroup, hbell, hkeep (f := R.TALLY_SNAP_STATUS_STATE) (by decide)]

/-- The set time does not depend on what the write decides of the DPLL. -/
theorem setTime_dpllCtrl (s : State) (v : Word) : (s.dpllCtrl v).setTime = s.setTime := by
  have hkeep {f : Fld} (hf : ∀ x ∈ dpllCtrlFields, f.key ≠ x.key) := sameRegs_dpllCtrl s v f hf
  simp only [State.setTime, hkeep (f := R.STEEPLE_SET_SEC_HI) (by decide), hkeep (f := R.STEEPLE_SET_SEC_LO) (by decide),
    hkeep (f := R.STEEPLE_SET_NS) (by decide), hkeep (f := R.STEEPLE_SET_FRAC) (by decide)]

/-- STEP = 1 on a Steeple that may step loads the set time. -/
theorem steepleStep_loads (s : State) (v : Word) (hv : R.STEEPLE_CTRL_STEP.of v = 1) (hm : s.mayStep = true) :
    ∃ t, exec (.steepleStep v) s = .next t ∧ t.stp.now = s.setTime ∧ t.stp.slew = 0 ∧ t.rd R.STEEPLE_STATUS_TIME_VALID = 1 ∧
      t.rd R.STEEPLE_STATUS_SLEWING = 0 ∧ t.ans = acked ∧ t.rd R.STEEPLE_STATUS_STEP_REFUSED = s.rd R.STEEPLE_STATUS_STEP_REFUSED := by
  show ∃ t, execSteepleStep v s = .next t ∧ _
  simp only [execSteepleStep, hv, mayStep_dpllCtrl, hm, setTime_dpllCtrl, one_ne_zero, if_false, if_true]
  refine ⟨_, rfl, rfl, rfl, ?_, State.wr_rd_same _ _ _, rfl, ?_⟩
  · rw [State.ack_rd, State.wr_rd_ne _ _ _ _ (by decide), State.wr_rd_same]
    rfl
  · rw [State.ack_rd, State.wr_rd_ne _ _ _ _ (by decide), State.wr_rd_ne _ _ _ _ (by decide), State.setStp_rd]
    exact sameRegs_dpllCtrl s v _ (by decide)

/-- STEP = 1 on a Steeple that may not step is refused. -/
theorem steepleStep_refused (s : State) (v : Word) (hv : R.STEEPLE_CTRL_STEP.of v = 1) (hm : s.mayStep = false) :
    ∃ t, exec (.steepleStep v) s = .next t ∧ t.rd R.STEEPLE_STATUS_STEP_REFUSED = 1 ∧ t.stp.now = s.stp.now ∧ t.ans = acked := by
  show ∃ t, execSteepleStep v s = .next t ∧ _
  simp only [execSteepleStep, hv, mayStep_dpllCtrl, hm, one_ne_zero, if_false, Bool.false_eq_true]
  exact ⟨_, rfl, State.wr_rd_same _ _ _, State.dpllCtrl_now s v, rfl⟩

theorem sameRegs_steepleStep (s : State) (v : Word) : ∃ t, exec (.steepleStep v) s = .next t ∧
    sameRegs s t [R.STEEPLE_CTRL_DPLL_EN, R.STEEPLE_CTRL_FORCE_HOLD, R.STEEPLE_STATUS_SLEWING, R.STEEPLE_STATUS_TIME_VALID,
      R.STEEPLE_STATUS_STEP_REFUSED, R.STEEPLE_STATUS_ACTIVE_SRC, R.STEEPLE_STATUS_DPLL_STATE] := by
  have hc := (sameRegs_dpllCtrl s v).mono (l' := [R.STEEPLE_CTRL_DPLL_EN, R.STEEPLE_CTRL_FORCE_HOLD, R.STEEPLE_STATUS_SLEWING,
    R.STEEPLE_STATUS_TIME_VALID, R.STEEPLE_STATUS_STEP_REFUSED, R.STEEPLE_STATUS_ACTIVE_SRC, R.STEEPLE_STATUS_DPLL_STATE]) (by decide)
  show ∃ t, execSteepleStep v s = .next t ∧ _
  unfold execSteepleStep
  dsimp only
  split_ifs
  · exact ⟨_, rfl, hc.ack⟩
  · exact ⟨_, rfl, (((hc.setStp _).wr (by decide) 1).wr (by decide) 0).ack⟩
  · exact ⟨_, rfl, (hc.wr (by decide) 1).ack⟩

/-- STEEPLE_LATCH shows the time's seconds, nanoseconds and fraction. -/
theorem steepleLatch_shows (s : State) (sec ns frac : Nat) (hsec : sec < 2 ^ 48) (hns : ns ≤ 999999999) (hfrac : frac ≤ 65535)
    (hnow : s.stp.now = (sec * 1000000000 + ns) * 65536 + frac) : ∃ t, exec .steepleLatch s = .next t ∧
    t.rd R.STEEPLE_LATCH_SEC_HI = sec / 2 ^ 32 ∧ t.rd R.STEEPLE_LATCH_SEC_LO = sec % 2 ^ 32 ∧ t.rd R.STEEPLE_LATCH_NS = ns ∧
    t.rd R.STEEPLE_LATCH_FRAC = frac ∧ t.ans = acked ∧
    sameRegs s t [R.STEEPLE_LATCH_SEC_HI, R.STEEPLE_LATCH_SEC_LO, R.STEEPLE_LATCH_NS, R.STEEPLE_LATCH_FRAC] := by
  have hn : s.stp.now / 65536 = sec * 1000000000 + ns := by omega
  have hs : (sec * 1000000000 + ns) / 1000000000 = sec := by omega
  show ∃ t, execSteepleLatch s = .next t ∧ _
  simp only [execSteepleLatch, hn, hs]
  refine ⟨_, rfl, ?_, ?_, ?_, ?_, rfl, ((((((sameRegs.refl s _).wr ?_ _).wr ?_ _).wr ?_ _).wr ?_ _)).ack⟩
  · rw [State.ack_rd, State.wr_rd_ne _ _ _ _ (by decide), State.wr_rd_ne _ _ _ _ (by decide), State.wr_rd_ne _ _ _ _ (by decide),
      State.wr_rd_same]
    exact Nat.mod_eq_of_lt (Nat.div_lt_of_lt_mul (by rwa [← pow_add]))
  · rw [State.ack_rd, State.wr_rd_ne _ _ _ _ (by decide), State.wr_rd_ne _ _ _ _ (by decide), State.wr_rd_same]
    rfl
  · rw [State.ack_rd, State.wr_rd_ne _ _ _ _ (by decide), State.wr_rd_same, show R.STEEPLE_LATCH_NS.w = 30 from rfl]
    omega
  · rw [State.ack_rd, State.wr_rd_same, show R.STEEPLE_LATCH_FRAC.w = 16 from rfl, hnow]
    omega
  all_goals decide

/-! ### Replicas -/

theorem nbit_eq_testBit (v i : Nat) : nbit v i = v.testBit i := by
  rw [nbit, Nat.testBit_eq_decide_div_mod_eq]

theorem nbit_mod_two_pow {v i w : Nat} (h : i < w) : nbit (v % 2 ^ w) i = nbit v i := by
  simp [nbit_eq_testBit, Nat.testBit_mod_two_pow, h]

/-- A set bit is cleared by taking its value off. -/
theorem nbit_sub_two_pow {v i : Nat} (h : nbit v i = true) : nbit (v - 2 ^ i) i = false := by
  have h1 : v / 2 ^ i % 2 = 1 := of_decide_eq_true h
  have h2 : (v - 2 ^ i) / 2 ^ i = v / 2 ^ i - 1 := by simpa using Nat.sub_mul_div v (2 ^ i) 1
  rw [nbit, h2]
  exact decide_eq_false (by omega)

/-- A clear bit is set by adding its value. -/
theorem nbit_add_two_pow {v i : Nat} (h : nbit v i = false) : nbit (v + 2 ^ i) i = true := by
  have h1 : ¬ v / 2 ^ i % 2 = 1 := of_decide_eq_false h
  rw [nbit, Nat.add_div_right _ (Nat.two_pow_pos i)]
  exact decide_eq_true (by omega)

/-- The LOST bit of a domain is as it was set. -/
theorem setLost_nbit (s : State) (d : Nat) (lost : Bool) :
    nbit ((s.setLost d lost).rd (R.STEEPLE_REPLICA_LOST_LOST (d / 32))) (d % 32) = lost := by
  have hclear : nbit (if nbit (s.rd (R.STEEPLE_REPLICA_LOST_LOST (d / 32))) (d % 32) = true then
      s.rd (R.STEEPLE_REPLICA_LOST_LOST (d / 32)) - 2 ^ (d % 32) else s.rd (R.STEEPLE_REPLICA_LOST_LOST (d / 32))) (d % 32) = false := by
    split
    · exact nbit_sub_two_pow ‹_›
    · exact Bool.eq_false_iff.mpr ‹_›
  rw [State.setLost, State.wr_rd_same, show (R.STEEPLE_REPLICA_LOST_LOST (d / 32)).w = 32 from rfl,
    nbit_mod_two_pow (Nat.mod_lt _ (by decide))]
  cases lost
  · exact hclear
  · exact nbit_add_two_pow hclear

theorem sameRegs_setLost {s t : State} {l : List Fld} (h : sameRegs s t l) {d : Nat} (hl : R.STEEPLE_REPLICA_LOST_LOST (d / 32) ∈ l)
    (lost : Bool) : sameRegs s (t.setLost d lost) l := (h.setStp _).wr hl _

theorem replicaLost_marks (s : State) (d : Fin 106) (hd : d.val ∉ s.stp.lost) : ∃ t, exec (.replicaLost d) s = .next t ∧
    nbit (t.rd (R.STEEPLE_REPLICA_LOST_LOST (d.val / 32))) (d.val % 32) = true ∧ t.rd R.STEEPLE_STATUS_REPLICA_FAULT = 1 ∧
    t.stp.lost = d.val :: s.stp.lost ∧ t.stp.now = s.stp.now ∧
    sameRegs s t [R.STEEPLE_REPLICA_LOST_LOST (d.val / 32), R.STEEPLE_STATUS_REPLICA_FAULT] := by
  have hkey : (R.STEEPLE_REPLICA_LOST_LOST (d.val / 32)).key ≠ R.STEEPLE_STATUS_REPLICA_FAULT.key := by
    simp only [Fld.key, R.STEEPLE_REPLICA_LOST_LOST, R.STEEPLE_STATUS_REPLICA_FAULT]
    omega
  show ∃ t, execReplicaLost d s = .next t ∧ _
  rw [execReplicaLost, if_neg (by simpa using hd)]
  refine ⟨_, rfl, ?_, State.wr_rd_same _ _ _, ?_, rfl, ((sameRegs_setLost (.refl s _) (by simp) true).wr (by simp) 1).raise _⟩
  · rw [State.raise_rd, State.wr_rd_ne _ _ _ _ hkey, setLost_nbit]
  · have hf : s.stp.lost.filter (· != d.val) = s.stp.lost := List.filter_eq_self.mpr fun a ha => by
      simpa using fun he : a = d.val => hd (he ▸ ha)
    show d.val :: s.stp.lost.filter (· != d.val) = _
    rw [hf]

theorem replicaResync_clears (s : State) (d : Fin 106) : ∃ t, exec (.replicaResync d) s = .next t ∧
    nbit (t.rd (R.STEEPLE_REPLICA_LOST_LOST (d.val / 32))) (d.val % 32) = false ∧ d.val ∉ t.stp.lost ∧
    sameRegs s t [R.STEEPLE_REPLICA_LOST_LOST (d.val / 32)] := by
  refine ⟨_, rfl, setLost_nbit s d.val false, ?_, sameRegs_setLost (.refl s _) (by simp) false⟩
  show d.val ∉ s.stp.lost.filter (· != d.val)
  simp

/-- Settles O7: each clause is a lemma above about one command. -/
theorem steepleTimeCommands : Obligations.SteepleTimeCommands :=
  ⟨steepleStep_loads, steepleStep_refused, sameRegs_steepleStep, steepleLatch_shows, replicaLost_marks, replicaResync_clears⟩

end Sys2Proof.Machine

/-! ## The DPLL's states (R29, R598) -/

namespace Sys2Proof.Machine

set_option Elab.async false

open Sys2Proof.Claims

theorem State.dpllTo_rd_ne (s : State) (d : Nat) {f : Fld} (hf : f.key ≠ R.STEEPLE_STATUS_DPLL_STATE.key) : (s.dpllTo d).rd f = s.rd f :=
  sameRegs_dpllTo (.refl s [R.STEEPLE_STATUS_DPLL_STATE]) (by simp) d f (by simpa using hf)

theorem State.dpllTo_bit_ne (s : State) (d : Nat) {f : Fld} (hf : f.key ≠ R.STEEPLE_STATUS_DPLL_STATE.key) : (s.dpllTo d).bit f = s.bit f := by
  simp only [State.bit_eq, s.dpllTo_rd_ne d hf]

theorem State.prios_dpllTo (s : State) (d : Nat) : (s.dpllTo d).prios = s.prios := by
  simp only [State.prios, s.dpllTo_rd_ne d (f := R.STEEPLE_DPLL_SRC_PRIO0) (by decide), s.dpllTo_rd_ne d (f := R.STEEPLE_DPLL_SRC_PRIO1) (by decide),
    s.dpllTo_rd_ne d (f := R.STEEPLE_DPLL_SRC_PRIO2) (by decide), s.dpllTo_rd_ne d (f := R.STEEPLE_DPLL_SRC_PRIO3) (by decide)]

theorem State.prios_lt {s : State} {p : Nat} (h : p ∈ s.prios) : p < 8 := by
  have := of_decide_eq_true (List.mem_filter.mp h).2
  omega

/-! ### Phase updates -/

/-- An update of the source that the DPLL acquires or has locked steers it and is counted. -/
theorem dpllUpdate_active {s : State} {src : Nat} (he : s.bit R.STEEPLE_CTRL_DPLL_EN = true) (hh : s.bit R.STEEPLE_CTRL_FORCE_HOLD = false)
    (hp : s.stp.srcPhase = 0) (hs : s.rd R.STEEPLE_STATUS_DPLL_STATE = 1 ∨ s.rd R.STEEPLE_STATUS_DPLL_STATE = 2)
    (ha : s.rd R.STEEPLE_STATUS_ACTIVE_SRC = src) (err filtered : Int) (freq : Nat) :
    s.dpllUpdate src err filtered freq = (s.dpllSteer err freq).dpllCount filtered := by
  have h0 : ¬ s.rd R.STEEPLE_STATUS_DPLL_STATE = 0 := by omega
  have h3 : ¬ s.rd R.STEEPLE_STATUS_DPLL_STATE = 3 := by omega
  simp only [State.dpllUpdate, he, hh, hp, Bool.not_true, Bool.or_self, Bool.false_eq_true, if_false, OfNat.zero_ne_ofNat, zero_ne_one, h0, h3,
    false_and, or_self, ha, hs, and_self, if_true]

theorem State.dpllSteer_stp (s : State) (err : Int) (freq : Nat) :
    (s.dpllSteer err freq).stp.freq = freq ∧ (s.dpllSteer err freq).stp.good = s.stp.good := by
  unfold State.dpllSteer
  dsimp only
  split <;> exact ⟨rfl, rfl⟩

theorem sameRegs_dpllSteer (s : State) (err : Int) (freq : Nat) :
    sameRegs s (s.dpllSteer err freq) [R.STEEPLE_STATUS_SLEWING, R.STEEPLE_STATUS_TIME_VALID] :=
  .ite ((((sameRegs.refl s _).setStp _).wr (by simp) 1).wr (by simp) 0) (((sameRegs.refl s _).setStp _).wrB (by simp) _)

/-- The eighth good update in a row locks the DPLL. -/
theorem State.dpllCount_locks {s : State} {filtered : Int} (hf : filtered.natAbs < 5120) (hg : 7 ≤ s.stp.good)
    (hs : s.rd R.STEEPLE_STATUS_DPLL_STATE = 1) : (s.dpllCount filtered).rd R.STEEPLE_STATUS_DPLL_STATE = 2 ∧
      (s.dpllCount filtered).rd R.STEEPLE_STATUS_TIME_VALID = 1 ∧ (s.dpllCount filtered).stp.freq = s.stp.freq := by
  have h8 : 8 ≤ s.stp.good + 1 := by omega
  simp only [State.dpllCount, hf, if_true, State.setStp_rd, hs, h8, and_self]
  refine ⟨?_, State.wr_rd_same _ _ _, ?_⟩
  · rw [State.wr_rd_ne _ _ _ _ (by decide), State.dpllTo_rd_state _ _ (by decide)]
  · rw [State.wr_stp, State.dpllTo_stp, State.setStp_stp]

theorem State.dpllCount_stp (s : State) (filtered : Int) : (s.dpllCount filtered).stp =
    { s.stp with good := if filtered.natAbs < 5120 then s.stp.good + 1 else 0, missed := 0 } := by
  unfold State.dpllCount
  dsimp only
  generalize (if filtered.natAbs < 5120 then s.stp.good + 1 else 0) = n
  split <;> simp

theorem sameRegs_dpllCount {s t : State} {l : List Fld} (h : sameRegs s t l) (hd : R.STEEPLE_STATUS_DPLL_STATE ∈ l)
    (hv : R.STEEPLE_STATUS_TIME_VALID ∈ l) (filtered : Int) : sameRegs s (t.dpllCount filtered) l :=
  .ite ((sameRegs_dpllTo (h.setStp _) hd 2).wr hv 1) (h.setStp _)

theorem dpllPhaseUpdate_locks : ∀ (s : State) (src : Fin 8) (err filtered : Int) (freq : Word), s.bit R.STEEPLE_CTRL_DPLL_EN = true →
    s.bit R.STEEPLE_CTRL_FORCE_HOLD = false → s.stp.srcPhase = 0 → s.rd R.STEEPLE_STATUS_DPLL_STATE = 1 →
    s.rd R.STEEPLE_STATUS_ACTIVE_SRC = src.val → filtered.natAbs < 5120 → 7 ≤ s.stp.good →
    ∃ t, exec (.dpllPhaseUpdate src err filtered freq) s = .next t ∧ t.rd R.STEEPLE_STATUS_DPLL_STATE = 2 ∧
      t.rd R.STEEPLE_STATUS_TIME_VALID = 1 ∧ t.stp.freq = freq.toNat := by
  intro s src err filtered freq he hh hp hs ha hf hg
  obtain ⟨hfreq, hgood⟩ := s.dpllSteer_stp err freq.toNat
  have hst := (sameRegs_dpllSteer s err freq.toNat R.STEEPLE_STATUS_DPLL_STATE (by decide)).trans hs
  obtain ⟨h2, hv, hfr⟩ := State.dpllCount_locks hf (hgood ▸ hg) hst
  exact ⟨_, congrArg Host.Outcome.next (dpllUpdate_active he hh hp (.inl hs) ha ..), h2, hv, hfr.trans hfreq⟩

theorem dpllPhaseUpdate_slews : ∀ (s : State) (src : Fin 8) (err filtered : Int) (freq : Word), s.bit R.STEEPLE_CTRL_DPLL_EN = true →
    s.bit R.STEEPLE_CTRL_FORCE_HOLD = false → s.stp.srcPhase = 0 →
    (s.rd R.STEEPLE_STATUS_DPLL_STATE = 2 ∨ (s.rd R.STEEPLE_STATUS_DPLL_STATE = 1 ∧ err.natAbs ≤ 256000)) →
    s.rd R.STEEPLE_STATUS_ACTIVE_SRC = src.val → ∃ t, exec (.dpllPhaseUpdate src err filtered freq) s = .next t ∧
      t.stp.now = s.stp.now ∧ t.stp.slew = -(err * 256) ∧
      t.stp.good = (if filtered.natAbs < 5120 then s.stp.good + 1 else 0) ∧
      sameRegs s t [R.STEEPLE_STATUS_SLEWING, R.STEEPLE_STATUS_TIME_VALID, R.STEEPLE_STATUS_DPLL_STATE] := by
  intro s src err filtered freq he hh hp hs ha
  have hnear : ¬ (s.rd R.STEEPLE_STATUS_DPLL_STATE = 1 ∧ 256000 < err.natAbs) := fun h => by omega
  have hsteer : s.dpllSteer err freq.toNat = (s.setStp { s.stp with freq := freq.toNat, slew := - (err * 256) }).wrB R.STEEPLE_STATUS_SLEWING
      (decide (err ≠ 0)) := by
    rw [State.dpllSteer, if_neg (by simpa using fun h1 h2 => absurd ⟨h1, h2⟩ hnear)]
  refine ⟨_, congrArg Host.Outcome.next (dpllUpdate_active he hh hp (by omega) ha ..), ?_, ?_, ?_, ?_⟩
  · rw [State.dpllCount_stp, hsteer]
    rfl
  · rw [State.dpllCount_stp, hsteer]
    rfl
  · rw [State.dpllCount_stp, hsteer]
    rfl
  · rw [hsteer]
    exact sameRegs_dpllCount (((sameRegs.refl s _).setStp _).wrB (by simp) _) (by simp) (by simp) _

theorem steeplePtpOffsetWrite_updates : ∀ (s u : State) (v : Word) (filtered : Int) (freq : Word), exec (.dpllPhaseUpdate 1 v.toInt filtered freq) s = .next u →
    exec (.steeplePtpOffsetWrite v filtered freq) s = .next { u with ans := acked } := by
  intro s u v filtered freq h
  obtain rfl : s.dpllUpdate 1 v.toInt filtered freq.toNat = u := Host.Outcome.next.inj h
  rfl

/-! ### Holdover -/

theorem dpllHoldoverEntry_holds : ∀ (s : State) (valid : List (Fin 8)), s.rd R.STEEPLE_STATUS_DPLL_STATE = 2 → s.bit R.STEEPLE_DPLL_CFG_AUTO_SWITCH = false →
    ∃ t, exec (.dpllHoldoverEntry valid) s = .next t ∧ t.rd R.STEEPLE_STATUS_DPLL_STATE = 3 ∧ t.stp.freq = s.stp.freq ∧ sameRegs s t [R.STEEPLE_STATUS_DPLL_STATE] := by
  intro s valid hs ha
  have hauto : ((s.setStp { s.stp with good := 0, missed := 3 }).dpllTo 3).bit R.STEEPLE_DPLL_CFG_AUTO_SWITCH = false := by
    rw [State.dpllTo_bit_ne _ _ (by decide), State.setStp_bit, ha]
  show ∃ t, execDpllHoldoverEntry valid s = .next t ∧ _
  simp only [execDpllHoldoverEntry, hs, if_true, hauto, Bool.false_eq_true, if_false]
  exact ⟨_, rfl, State.dpllTo_rd_state _ _ (by decide), by simp, sameRegs_dpllTo ((sameRegs.refl s _).setStp _) (by simp) 3⟩

theorem dpllHoldoverEntry_switches : ∀ (s : State) (valid : List (Fin 8)) (p : Nat), s.rd R.STEEPLE_STATUS_DPLL_STATE = 2 →
    s.bit R.STEEPLE_DPLL_CFG_AUTO_SWITCH = true → s.prios.find? (fun p => valid.any (fun v => v.val == p)) = some p →
    ∃ t, exec (.dpllHoldoverEntry valid) s = .next t ∧ t.rd R.STEEPLE_STATUS_DPLL_STATE = 1 ∧
      t.rd R.STEEPLE_STATUS_ACTIVE_SRC = p ∧ t.stp.good = 0 ∧
      sameRegs s t [R.STEEPLE_STATUS_DPLL_STATE, R.STEEPLE_STATUS_ACTIVE_SRC] := by
  intro s valid p hs ha hp
  have hp8 : p < 8 := State.prios_lt (List.mem_of_find?_eq_some hp)
  have hauto : ((s.setStp { s.stp with good := 0, missed := 3 }).dpllTo 3).bit R.STEEPLE_DPLL_CFG_AUTO_SWITCH = true := by
    rw [State.dpllTo_bit_ne _ _ (by decide), State.setStp_bit, ha]
  have hfind : ((s.setStp { s.stp with good := 0, missed := 3 }).dpllTo 3).prios.find? (fun p => valid.any (fun v => v.val == p)) = some p := by
    rw [State.prios_dpllTo]
    exact hp
  show ∃ t, execDpllHoldoverEntry valid s = .next t ∧ _
  simp only [execDpllHoldoverEntry, hs, if_true, hauto, hfind]
  refine ⟨_, rfl, State.dpllTo_rd_state _ _ (by decide), ?_, by simp [State.dpllAcquire],
    sameRegs_dpllAcquire (sameRegs_dpllTo ((sameRegs.refl s _).setStp _) (by simp) 3) (by simp) (by simp) p⟩
  rw [State.dpllAcquire, State.dpllTo_rd_ne _ _ (by decide), State.setStp_rd, State.wr_rd_same]
  exact Nat.mod_eq_of_lt hp8

/-! ### Sources and FORCE_HOLD -/

/-- The fields of STEEPLE_DPLL_SRC that a write always stores, and those it stores only in FREE_RUN and HOLDOVER. -/
def dpllPrioFields : List Fld :=
  [R.STEEPLE_DPLL_SRC_PRIO0, R.STEEPLE_DPLL_SRC_PRIO1, R.STEEPLE_DPLL_SRC_PRIO2, R.STEEPLE_DPLL_SRC_PRIO3]

def dpllFreqFields : List Fld := [R.STEEPLE_DPLL_SRC_FREQ_REF, R.STEEPLE_DPLL_SRC_SYNCE_PORT]

theorem dpllSourceWrite_stores : ∀ (s : State) (v : Word), ∃ t, exec (.dpllSourceWrite v) s = .next t ∧ t.ans = acked ∧
    (∀ f ∈ [R.STEEPLE_DPLL_SRC_PRIO0, R.STEEPLE_DPLL_SRC_PRIO1, R.STEEPLE_DPLL_SRC_PRIO2, R.STEEPLE_DPLL_SRC_PRIO3],
      t.rd f = f.of v) ∧
    (∀ f ∈ [R.STEEPLE_DPLL_SRC_FREQ_REF, R.STEEPLE_DPLL_SRC_SYNCE_PORT],
      t.rd f = if s.rd R.STEEPLE_STATUS_DPLL_STATE = 0 ∨ s.rd R.STEEPLE_STATUS_DPLL_STATE = 3 then f.of v else s.rd f) ∧
    sameRegs s t [R.STEEPLE_DPLL_SRC_PRIO0, R.STEEPLE_DPLL_SRC_PRIO1, R.STEEPLE_DPLL_SRC_PRIO2, R.STEEPLE_DPLL_SRC_PRIO3,
      R.STEEPLE_DPLL_SRC_FREQ_REF, R.STEEPLE_DPLL_SRC_SYNCE_PORT] := by
  intro s v
  have hfreq (u : State) : ∀ f ∈ dpllFreqFields, (u.wrWord v dpllFreqFields).rd f = f.of v := fun f hf =>
    State.wrWord_rd_mem v f _ _ hf (by revert f; decide)
  have hprio : ∀ f ∈ dpllPrioFields, (s.wrWord v dpllPrioFields).rd f = f.of v := fun f hf =>
    State.wrWord_rd_mem v f _ _ hf (by revert f; decide)
  have hprio' : ∀ f ∈ dpllPrioFields, ((s.wrWord v dpllPrioFields).wrWord v dpllFreqFields).rd f = f.of v := fun f hf =>
    (State.wrWord_rd_ne v f _ _ (by revert f; decide)).trans (hprio f hf)
  have hkeep : ∀ f ∈ dpllFreqFields, (s.wrWord v dpllPrioFields).rd f = s.rd f := fun f hf =>
    State.wrWord_rd_ne v f _ _ (by revert f; decide)
  have hs := (sameRegs.refl s (dpllPrioFields ++ dpllFreqFields)).wrWord v (fs := dpllPrioFields) fun f => List.mem_append_left dpllFreqFields
  show ∃ t, execDpllSourceWrite v s = .next t ∧ _
  unfold execDpllSourceWrite
  dsimp only
  by_cases hd : s.rd R.STEEPLE_STATUS_DPLL_STATE = 0 ∨ s.rd R.STEEPLE_STATUS_DPLL_STATE = 3
  · simp only [if_pos hd]
    split
    all_goals exact ⟨_, rfl, rfl, hprio', hfreq _, fun f hf => hs.wrWord v (fs := dpllFreqFields) (fun f => List.mem_append_right dpllPrioFields) f hf⟩
  · simp only [if_neg hd]
    split
    all_goals exact ⟨_, rfl, rfl, hprio, hkeep, fun f hf => hs f hf⟩

theorem State.wrWord_dpllCtrl_rd (s : State) (v : Word) (f : Fld) (hf : f ∈ [R.STEEPLE_CTRL_DPLL_EN, R.STEEPLE_CTRL_FORCE_HOLD]) :
    (s.wrWord v [R.STEEPLE_CTRL_DPLL_EN, R.STEEPLE_CTRL_FORCE_HOLD]).rd f = f.of v :=
  State.wrWord_rd_mem v f _ _ hf (by revert f; decide)

theorem dpllForceHold_holds : ∀ (s : State) (v : Word), (R.STEEPLE_CTRL_DPLL_EN).of v = 1 → (R.STEEPLE_CTRL_FORCE_HOLD).of v = 1 →
    ∃ t, exec (.dpllForceHold v) s = .next t ∧ t.rd R.STEEPLE_STATUS_DPLL_STATE = 3 ∧ t.rd R.STEEPLE_CTRL_FORCE_HOLD = 1 ∧
      t.stp = s.stp ∧ t.ans = acked ∧
      sameRegs s t [R.STEEPLE_CTRL_DPLL_EN, R.STEEPLE_CTRL_FORCE_HOLD, R.STEEPLE_STATUS_DPLL_STATE] := by
  intro s v he hh
  have hctrl : s.dpllCtrl v = (s.wrWord v [R.STEEPLE_CTRL_DPLL_EN, R.STEEPLE_CTRL_FORCE_HOLD]).dpllTo 3 := by
    simp [State.dpllCtrl, State.bit_eq, s.wrWord_dpllCtrl_rd v _, he, hh]
  refine ⟨_, congrArg (fun t : State => Host.Outcome.next t.ack) hctrl, State.dpllTo_rd_state _ _ (by decide), ?_, ?_, rfl,
    (sameRegs_dpllTo ((sameRegs.refl s _).wrWord v (by simp)) (by simp) 3).ack⟩
  · rw [State.ack_rd, State.dpllTo_rd_ne _ _ (by decide), s.wrWord_dpllCtrl_rd v _ (by simp), hh]
  · rw [State.ack_stp, State.dpllTo_stp, State.wrWord_stp]

theorem dpllForceHold_disables : ∀ (s : State) (v : Word), (R.STEEPLE_CTRL_DPLL_EN).of v = 0 → ∃ t, exec (.dpllForceHold v) s = .next t ∧
    t.rd R.STEEPLE_STATUS_DPLL_STATE = 0 ∧ t.rd R.STEEPLE_STATUS_ACTIVE_SRC = 0 := by
  intro s v he
  have hctrl : s.dpllCtrl v = ((s.wrWord v [R.STEEPLE_CTRL_DPLL_EN, R.STEEPLE_CTRL_FORCE_HOLD]).wr R.STEEPLE_STATUS_ACTIVE_SRC 0).dpllTo 0 := by
    simp [State.dpllCtrl, State.bit_eq, s.wrWord_dpllCtrl_rd v _, he]
  refine ⟨_, congrArg (fun t : State => Host.Outcome.next t.ack) hctrl, State.dpllTo_rd_state _ _ (by decide), ?_⟩
  rw [State.ack_rd, State.dpllTo_rd_ne _ _ (by decide), State.wr_rd_same]
  rfl

/-- Settles O8: each clause is a lemma above about one command. -/
theorem dpllStates : Obligations.DpllStates :=
  ⟨dpllPhaseUpdate_locks, dpllPhaseUpdate_slews, steeplePtpOffsetWrite_updates, dpllHoldoverEntry_holds, dpllHoldoverEntry_switches,
    dpllSourceWrite_stores, dpllForceHold_holds, dpllForceHold_disables⟩

end Sys2Proof.Machine

/-! ## Lock groups at their boundaries (R33, R35, R37, R38) -/

namespace Sys2Proof.Claims

set_option Elab.async false

open Sys2Proof.Machine

theorem sameRegs.setGroup {s t : State} {l : List Fld} (h : sameRegs s t l) (g : Nat) (x : LockGroup) : sameRegs s (t.setGroup g x) l :=
  h.of_regs rfl

theorem sameRegs.showSlot {s t : State} {l : List Fld} (h : sameRegs s t l) {g : Nat} (hs : R.LG_STATUS_SLOT g ∈ l)
    (hf : R.LG_STATUS_SFN g ∈ l) (hh : R.LG_HSFN_HSFN g ∈ l) (n : Int) : sameRegs s (t.showSlot g n) l :=
  ((h.wr hs _).wr hf _).wr hh _

end Sys2Proof.Claims

namespace Sys2Proof.Machine

set_option Elab.async false

open Sys2Proof.Claims

@[simp] theorem State.setGroup_rd (s : State) (g : Nat) (x : LockGroup) (f : Fld) : (s.setGroup g x).rd f = s.rd f := rfl
@[simp] theorem State.setGroup_group (s : State) (g : Nat) (x : LockGroup) : (s.setGroup g x).group g = x := Tab.get_set_same _ _ _
@[simp] theorem State.wr_group (s : State) (f : Fld) (v g : Nat) : (s.wr f v).group g = s.group g := rfl
@[simp] theorem State.ack_group (s : State) (g : Nat) : s.ack.group g = s.group g := rfl
@[simp] theorem State.showSlot_group (s : State) (h g : Nat) (n : Int) : (s.showSlot h n).group g = s.group g := rfl

theorem State.showSlot_rd_state (s : State) (g : Nat) (n : Int) : (s.showSlot g n).rd (R.LG_STATUS_STATE g) = s.rd (R.LG_STATUS_STATE g) := by
  rw [State.showSlot, State.wr_rd_ne _ _ _ _ (by simp only [Fld.key, R.LG_STATUS_STATE, R.LG_HSFN_HSFN, ne_eq]; omega), State.wr_rd_ne _ _ _ _ (by simp only [Fld.key, R.LG_STATUS_STATE, R.LG_STATUS_SFN, ne_eq]; omega),
    State.wr_rd_ne _ _ _ _ (by simp only [Fld.key, R.LG_STATUS_STATE, R.LG_STATUS_SLOT, ne_eq]; omega)]

theorem State.showSlot_rd_slot (s : State) (g : Nat) (n : Int) :
    (s.showSlot g n).rd (R.LG_STATUS_SLOT g) = (n % (s.slotsPerFrame g : Int)).toNat % 1024 := by
  rw [State.showSlot, State.wr_rd_ne _ _ _ _ (by simp only [Fld.key, R.LG_STATUS_SLOT, R.LG_HSFN_HSFN, ne_eq]; omega), State.wr_rd_ne _ _ _ _ (by simp only [Fld.key, R.LG_STATUS_SLOT, R.LG_STATUS_SFN, ne_eq]; omega),
    State.wr_rd_same]
  rfl

theorem State.showSlot_rd_sfn (s : State) (g : Nat) (n : Int) :
    (s.showSlot g n).rd (R.LG_STATUS_SFN g) = s.sfnOf g (n / (s.slotsPerFrame g : Int)) := by
  rw [State.showSlot, State.wr_rd_ne _ _ _ _ (by simp only [Fld.key, R.LG_STATUS_SFN, R.LG_HSFN_HSFN, ne_eq]; omega), State.wr_rd_same, State.sfnOf]
  exact Nat.mod_eq_of_lt (show _ < 1024 by omega)

theorem lgActionBoundaryStart_runs : ∀ (s : State) (g : Fin 64), s.rd (R.LG_STATUS_STATE g) = 1 → (s.group g).action = .start → s.reached (s.group g).actionNs = true →
    s.earlierDone 3 (s.group g).actionNs = true → ∃ t, exec (.lgActionBoundaryStart g) s = .next t ∧
    t.rd (R.LG_STATUS_STATE g) = 2 ∧ (t.group g).action = .none ∧
    (t.group g).cur = ((s.group g).actionNs - s.groupBase g) / s.slotNs g ∧
    sameRegs s t [R.LG_STATUS_STATE g, R.LG_STATUS_SLOT g, R.LG_STATUS_SFN g, R.LG_HSFN_HSFN g] := by
  intro s g hst hact hre hed
  show ∃ t, execLgActionBoundaryStart g s = .next t ∧ _
  rw [execLgActionBoundaryStart]
  simp only [hst, hact, hre, hed, and_self, if_true]
  refine ⟨_, rfl, ?_, ?_, ?_, (((sameRegs.refl s _).setGroup _ _).wr (by simp) 2).showSlot (by simp) (by simp) (by simp) _⟩
  · rw [State.showSlot_rd_state, State.wr_rd_same]
    rfl
  all_goals simp

theorem slotBoundary_advances : ∀ (s : State) (g : Fin 64), s.rd (R.LG_STATUS_STATE g) = 2 → s.reached (s.slotStart g ((s.group g).cur + 1)) = true →
    ∃ t, exec (.slotBoundary g) s = .next t ∧ t.group g = { s.group g with cur := (s.group g).cur + 1 } ∧
    t.rd (R.LG_STATUS_SLOT g) = ((((s.group g).cur + 1) % (s.slotsPerFrame g : Int)).toNat) % 1024 ∧
    t.rd (R.LG_STATUS_SFN g) = ((((s.group g).cur + 1) / (s.slotsPerFrame g : Int) + (s.rd (R.LG_CFG_SFN_OFFSET g) : Int)) % 1024).toNat ∧ sameRegs s t [R.LG_STATUS_SLOT g, R.LG_STATUS_SFN g, R.LG_HSFN_HSFN g] := by
  intro s g hst hre
  have hadv : s.advances g ((s.group g).cur + 1) = true := by simp [State.advances, hst]
  show ∃ t, execSlotBoundary g s = .next t ∧ _
  rw [execSlotBoundary]
  simp only [hadv, hre, Bool.and_self, if_true]
  exact ⟨_, rfl, by simp, State.showSlot_rd_slot _ _ _, State.showSlot_rd_sfn _ _ _,
    ((sameRegs.refl s _).setGroup _ _).showSlot (by simp) (by simp) (by simp) _⟩

theorem lgReturnIdle_idles : ∀ (s : State) (g : Fin 64), s.rd (R.LG_STATUS_STATE g) = 3 → (s.group g).ceased = true →
    s.reached (s.sweepNs g (s.group g).cur) = true → s.earlierDone 3 (s.sweepNs g (s.group g).cur) = true →
    ∃ t, exec (.lgReturnIdle g) s = .next t ∧ t.rd (R.LG_STATUS_STATE g) = 0 ∧ sameRegs s t [R.LG_STATUS_STATE g] := by
  intro s g hst hc hre hed
  show ∃ t, execLgReturnIdle g s = .next t ∧ _
  rw [execLgReturnIdle]
  simp only [hst, hc, hre, hed, and_self, if_true]
  exact ⟨_, rfl, State.wr_rd_same _ _ _, ((sameRegs.refl s _).setGroup _ _).wr (by simp) 0⟩

theorem tddSwapApply_swaps : ∀ (s : State) (g : Fin 64), s.rd (R.LG_STATUS_TDD_SWAP_PENDING g) = 1 → s.reached (s.group g).swapNs = true →
    s.earlierDone 3 (s.group g).swapNs = true → ∃ t, exec (.tddSwapApply g) s = .next t ∧
    t.rd (R.LG_STATUS_ACTIVE_BANK g) = 1 - s.rd (R.LG_STATUS_ACTIVE_BANK g) ∧ t.rd (R.LG_STATUS_TDD_SWAP_PENDING g) = 0 ∧ sameRegs s t [R.LG_STATUS_ACTIVE_BANK g, R.LG_STATUS_TDD_SWAP_PENDING g] := by
  intro s g hp hre hed
  have hbit : s.bit (R.LG_STATUS_TDD_SWAP_PENDING g) = true := by simp [State.bit_eq, hp]
  show ∃ t, execTddSwapApply g s = .next t ∧ _
  rw [execTddSwapApply]
  simp only [hbit, hre, hed, and_self, if_true]
  refine ⟨_, rfl, ?_, State.wr_rd_same _ _ _, ((sameRegs.refl s _).wr (by simp) _).wr (by simp) 0⟩
  rw [State.wr_rd_ne _ _ _ _ (by simp only [Fld.key, R.LG_STATUS_ACTIVE_BANK, R.LG_STATUS_TDD_SWAP_PENDING, ne_eq]; omega), State.wr_rd_same, State.idleBank]
  exact Nat.mod_eq_of_lt (show _ < 2 by omega)

/-! ### A stop -/

/-- The state in which a group that stops has ceased to advance, before its plans are withdrawn. -/
theorem execLgActionBoundaryStop_eq {s : State} {g : Fin 64} (hst : s.lgSt g = 3) (hact : (s.group g).action = .stop)
    (hre : s.reached (s.group g).actionNs = true) (hed : s.earlierDone 3 (s.group g).actionNs = true) : exec (.lgActionBoundaryStop g) s =
    .next (((s.setGroup g { s.group g with action := .none, cur := ((s.group g).actionNs - s.groupBase g) / s.slotNs g - 1, ceased := true }).showSlot g
      (((s.group g).actionNs - s.groupBase g) / s.slotNs g - 1)).withdrawAll g) := by
  show execLgActionBoundaryStop g s = _
  rw [execLgActionBoundaryStop]
  simp only [hst, hact, hre, hed, and_self, if_true]

theorem State.withdrawAll_of_armed_nil {s : State} {g : Nat} (h : (s.group g).armed = []) : s.withdrawAll g = s := by
  simp [State.withdrawAll, h]

theorem State.planOutcome_rd_outcome (s : State) (g seq : Nat) {o : Nat} (ho : o < 16) :
    (s.planOutcome g o seq).rd (R.LG_PLAN_STATUS_LAST_OUTCOME g) = o := by
  rw [State.planOutcome, State.wr_rd_ne _ _ _ _ (by simp only [Fld.key, R.LG_PLAN_STATUS_LAST_OUTCOME, R.LG_PLAN_STATUS_LAST_SEQ, ne_eq]; omega), State.wr_rd_same]
  exact Nat.mod_eq_of_lt ho

/-- The last of several withdrawals leaves WITHDRAWN. -/
theorem foldl_withdrawn_rd_outcome (g : Nat) (l : List ArmedPlan) (s : State) (hl : l ≠ []) :
    (l.foldl (fun t p => t.withdrawn g p) s).rd (R.LG_PLAN_STATUS_LAST_OUTCOME g) = 4 := by
  obtain ⟨r, p, rfl⟩ := List.eq_nil_or_concat l |>.resolve_left hl
  rw [List.concat_eq_append, List.foldl_append, List.foldl_cons, List.foldl_nil]
  exact State.planOutcome_rd_outcome _ g _ (by decide)

theorem lgActionBoundaryStop_ceases : ∀ (s : State) (g : Fin 64), s.lgSt g = 3 → (s.group g).action = .stop → s.reached (s.group g).actionNs = true →
    s.earlierDone 3 (s.group g).actionNs = true → (s.group g).armed = [] → ∃ t, exec (.lgActionBoundaryStop g) s = .next t ∧
    (t.group g).ceased = true ∧ (t.group g).action = .none ∧
    (t.group g).cur = ((s.group g).actionNs - s.groupBase g) / s.slotNs g - 1 ∧ t.rd (R.LG_STATUS_STATE g) = 3 ∧ sameRegs s t [R.LG_STATUS_SLOT g, R.LG_STATUS_SFN g, R.LG_HSFN_HSFN g] := by
  intro s g hst hact hre hed harm
  refine ⟨_, execLgActionBoundaryStop_eq hst hact hre hed, ?_⟩
  rw [State.withdrawAll_of_armed_nil (by simpa using harm)]
  refine ⟨by simp, by simp, by simp, ?_, ((sameRegs.refl s _).setGroup _ _).showSlot (by simp) (by simp) (by simp) _⟩
  rw [State.showSlot_rd_state]
  exact hst

theorem lgActionBoundaryStop_withdraws : ∀ (s : State) (g : Fin 64), s.lgSt g = 3 → (s.group g).action = .stop → s.reached (s.group g).actionNs = true →
    s.earlierDone 3 (s.group g).actionNs = true → (s.group g).armed ≠ [] → ∃ t, exec (.lgActionBoundaryStop g) s = .next t ∧
    t.rd (R.LG_PLAN_STATUS_LAST_OUTCOME g) = 4 := by
  intro s g hst hact hre hed harm
  exact ⟨_, execLgActionBoundaryStop_eq hst hact hre hed, foldl_withdrawn_rd_outcome _ _ _ (by simpa using harm)⟩

/-- Settles O9: each clause is a lemma above about one command. -/
theorem lockGroupBoundaries : Obligations.LockGroupBoundaries :=
  ⟨lgActionBoundaryStart_runs, slotBoundary_advances, lgReturnIdle_idles, tddSwapApply_swaps, lgActionBoundaryStop_ceases,
    lgActionBoundaryStop_withdraws⟩

end Sys2Proof.Machine

/-! ## Writes of LG_CTRL (R37, R38) -/

namespace Sys2Proof.Machine

set_option Elab.async false

open Sys2Proof.Claims

theorem lgStart_arms : ∀ (s : State) (g : Fin 64) (v : Word) (hd : Bool), bitOf v 0 = true → bitOf v 1 = false → s.actionFar g = false → s.lgSt g = 0 →
    s.cfgOk g = true → s.bankOk g 0 = true → s.bit (R.LG_CFG_PARISH g) = false → ∃ t, exec (.lgStart g v hd) s = .next t ∧
    t.lgSt g = 1 ∧ t.rd (R.LG_STATUS_ACTIVE_BANK g) = 0 ∧ t.rd (R.LG_STATUS_CFG_REFUSED g) = 0 ∧ (t.group g).action = .start ∧
    t.ans = acked ∧
    sameRegs s t [R.LG_STATUS_STATE g, R.LG_STATUS_ACTIVE_BANK g, R.LG_STATUS_CFG_REFUSED g, R.LG_STATUS_MISMATCH g] := by
  intro s g v hd h0 h1 hfar hst hcfg hbank hpar
  have hstart : exec (.lgStart g v hd) s = .next (s.lgStart g hd).ack := by
    show execLgStart g v hd s = _
    simp [execLgStart, h0, h1, hfar, hst]
  have harm : s.lgStart g hd = (((((s.wr (R.LG_STATUS_ACTIVE_BANK g) 0).wr (R.LG_STATUS_CFG_REFUSED g) 0).wrB (R.LG_STATUS_MISMATCH g) false).setGroup g
      { s.group g with action := .start, actionNs := s.actionBoundary g }).wr
        (R.LG_STATUS_STATE g) 1) := by
    simp [State.lgStart, hcfg, hbank, hpar]
    rfl
  refine ⟨_, hstart, ?_⟩
  rw [harm]
  refine ⟨State.wr_rd_same _ _ _, ?_, ?_, by simp, rfl, ?_⟩
  · rw [State.ack_rd, State.wr_rd_ne _ _ _ _ (by simp only [Fld.key, R.LG_STATUS_ACTIVE_BANK, R.LG_STATUS_STATE, ne_eq]; omega), State.setGroup_rd,
      State.wrB_rd_ne _ _ _ _ (by simp only [Fld.key, R.LG_STATUS_ACTIVE_BANK, R.LG_STATUS_MISMATCH, ne_eq]; omega), State.wr_rd_ne _ _ _ _ (by simp only [Fld.key, R.LG_STATUS_ACTIVE_BANK, R.LG_STATUS_CFG_REFUSED, ne_eq]; omega),
      State.wr_rd_same, Nat.zero_mod]
  · rw [State.ack_rd, State.wr_rd_ne _ _ _ _ (by simp only [Fld.key, R.LG_STATUS_CFG_REFUSED, R.LG_STATUS_STATE, ne_eq]; omega), State.setGroup_rd,
      State.wrB_rd_ne _ _ _ _ (by simp only [Fld.key, R.LG_STATUS_CFG_REFUSED, R.LG_STATUS_MISMATCH, ne_eq]; omega), State.wr_rd_same, Nat.zero_mod]
  · exact (((((sameRegs.refl s _).wr (by simp) 0).wr (by simp) 0).wrB (by simp) false).setGroup _ _ |>.wr (by simp) 1).ack

theorem lgStart_refused : ∀ (s : State) (g : Fin 64) (v : Word) (hd : Bool), bitOf v 0 = true → bitOf v 1 = false → s.lgSt g = 0 →
    (s.actionFar g = true ∨ s.cfgOk g = false ∨ s.bankOk g 0 = false) →
    exec (.lgStart g v hd) s = .next { s.wr (R.LG_STATUS_CFG_REFUSED g) 1 with ans := acked } := by
  intro s g v hd h0 h1 hst hbad
  show execLgStart g v hd s = _
  cases hfar : s.actionFar g
  · have hno : (!s.cfgOk g || !s.bankOk g 0) = true := by simpa [hfar] using hbad
    simp [execLgStart, State.lgStart, h0, h1, hfar, hst, hno]
    rfl
  · simp [execLgStart, h0, h1, hfar]
    rfl

theorem lgStart_ignored : ∀ (s : State) (g : Fin 64) (v : Word) (hd : Bool), bitOf v 0 = true → bitOf v 1 = false → s.actionFar g = false → s.lgSt g ≠ 0 →
    exec (.lgStart g v hd) s = .next { s with ans := acked } := by
  intro s g v hd h0 h1 hfar hst
  show execLgStart g v hd s = _
  simp [execLgStart, h0, h1, hfar, hst]
  rfl

theorem lgStop_stops : ∀ (s : State) (g : Fin 64) (v : Word), bitOf v 1 = true → bitOf v 0 = false → s.actionFar g = false → s.lgSt g = 2 →
    ∃ t, exec (.lgStop g v) s = .next t ∧ t.lgSt g = 3 ∧ (t.group g).action = .stop ∧ t.ans = acked ∧ sameRegs s t [R.LG_STATUS_STATE g] := by
  intro s g v h1 h0 hfar hst
  show ∃ t, execLgStop g v s = .next t ∧ _
  simp only [execLgStop, h1, h0, hfar, hst, Bool.not_true, Bool.or_self, Bool.false_eq_true, if_false, if_true]
  exact ⟨_, rfl, State.wr_rd_same _ _ _, by simp, rfl, (((sameRegs.refl s _).setGroup _ _).wr (by simp) 3).ack⟩

theorem lgStop_disarms : ∀ (s : State) (g : Fin 64) (v : Word), bitOf v 1 = true → bitOf v 0 = false → s.actionFar g = false → s.lgSt g = 1 →
    (s.group g).armed = [] → ∃ t, exec (.lgStop g v) s = .next t ∧ t.lgSt g = 0 ∧ (t.group g).action = .none ∧
    sameRegs s t [R.LG_STATUS_STATE g] := by
  intro s g v h1 h0 hfar hst harm
  have hnil : (((s.setGroup g { s.group g with action := .none }).wr (R.LG_STATUS_STATE g) 0).withdrawAll g) =
      (s.setGroup g { s.group g with action := .none }).wr (R.LG_STATUS_STATE g) 0 := State.withdrawAll_of_armed_nil (by simpa using harm)
  show ∃ t, execLgStop g v s = .next t ∧ _
  simp only [execLgStop, h1, h0, hfar, hst, Bool.not_true, Bool.or_self, Bool.false_eq_true, if_false, if_true, OfNat.one_ne_ofNat, hnil]
  exact ⟨_, rfl, State.wr_rd_same _ _ _, by simp, (((sameRegs.refl s _).setGroup _ _).wr (by simp) 0).ack⟩

theorem lgStartStopBoth_ignored : ∀ (s : State) (g : Fin 64) (v : Word), exec (.lgStartStopBoth g v) s = .next { s with ans := acked } := fun _ _ _ => rfl

/-! ### TDD_SWAP -/

/-- The frame boundary found lies not before the instant asked for. -/
theorem State.le_frameAtOrAfter (s : State) (g : Nat) (t : Int) (even : Bool) : t ≤ s.frameAtOrAfter g t even := by
  have hk : t - s.groupBase g ≤ -((s.groupBase g - t) / 10000000) * 10000000 := by omega
  unfold State.frameAtOrAfter
  dsimp only
  split <;> omega

/-- A write of TDD_SWAP that is not ignored swaps or is refused for its bank. -/
theorem execLgTddSwap_eq {s : State} {g : Fin 64} {v : Word} (h2 : bitOf v 2 = true) (h01 : (bitOf v 0 && bitOf v 1) = false)
    (hst : s.lgSt g = 1 ∨ s.lgSt g = 2) (hp : s.bit (R.LG_STATUS_TDD_SWAP_PENDING g) = false) : exec (.lgTddSwap g v) s =
    if s.bankOk g (s.idleBank g) then
      .next ((s.setGroup g { s.group g with swapNs := s.frameAtOrAfter g (s.nowUp + 50000) true }).wr (R.LG_STATUS_TDD_SWAP_PENDING g) 1).ack
    else .next (s.wr (R.LG_STATUS_CFG_REFUSED g) 1).ack := by
  have hno : (!bitOf v 2 || (bitOf v 0 && bitOf v 1) || (s.lgSt g != 1 && s.lgSt g != 2) || s.bit (R.LG_STATUS_TDD_SWAP_PENDING g)) = false := by
    rcases hst with h | h <;> simp [h2, h01, h, hp]
  show execLgTddSwap g v s = _
  simp only [execLgTddSwap, hno, Bool.false_eq_true, if_false]

theorem lgTddSwap_pends : ∀ (s : State) (g : Fin 64) (v : Word), bitOf v 2 = true → (bitOf v 0 && bitOf v 1) = false → (s.lgSt g = 1 ∨ s.lgSt g = 2) →
    s.bit (R.LG_STATUS_TDD_SWAP_PENDING g) = false → s.bankOk g (s.idleBank g) = true →
    ∃ t, exec (.lgTddSwap g v) s = .next t ∧ t.rd (R.LG_STATUS_TDD_SWAP_PENDING g) = 1 ∧
    s.nowUp + 50000 ≤ (t.group g).swapNs ∧ t.ans = acked ∧
    sameRegs s t [R.LG_STATUS_TDD_SWAP_PENDING g] := by
  intro s g v h2 h01 hst hp hbank
  refine ⟨_, (execLgTddSwap_eq h2 h01 hst hp).trans (if_pos hbank), State.wr_rd_same _ _ _, ?_, rfl,
    (((sameRegs.refl s _).setGroup _ _).wr (by simp) 1).ack⟩
  simpa using s.le_frameAtOrAfter g (s.nowUp + 50000) true

theorem lgTddSwap_refused : ∀ (s : State) (g : Fin 64) (v : Word), bitOf v 2 = true → (bitOf v 0 && bitOf v 1) = false → (s.lgSt g = 1 ∨ s.lgSt g = 2) →
    s.bit (R.LG_STATUS_TDD_SWAP_PENDING g) = false → s.bankOk g (s.idleBank g) = false →
    exec (.lgTddSwap g v) s = .next { s.wr (R.LG_STATUS_CFG_REFUSED g) 1 with ans := acked } := by
  intro s g v h2 h01 hst hp hbank
  exact (execLgTddSwap_eq h2 h01 hst hp).trans (if_neg (by simp [hbank]))

/-- Settles O10: each clause is a lemma above about one command. -/
theorem lockGroupControl : Obligations.LockGroupControl :=
  ⟨lgStart_arms, lgStart_refused, lgStart_ignored, lgStop_stops, lgStop_disarms, lgStartStopBoth_ignored, lgTddSwap_pends, lgTddSwap_refused⟩

end Sys2Proof.Machine

/-! ## Bells, PPS outputs and captures (R52 to R57) -/

namespace Sys2Proof.Machine

set_option Elab.async false

open Sys2Proof.Claims

@[simp] theorem State.setBell_rd (s : State) (b : Nat) (x : Bell) (f : Fld) : (s.setBell b x).rd f = s.rd f := rfl
@[simp] theorem State.setBell_bell (s : State) (b : Nat) (x : Bell) : (s.setBell b x).bell b = x := Tab.get_set_same _ _ _
@[simp] theorem State.wr_bell (s : State) (f : Fld) (v b : Nat) : (s.wr f v).bell b = s.bell b := rfl
@[simp] theorem State.ack_bell (s : State) (b : Nat) : s.ack.bell b = s.bell b := rfl

/-! ### Writes of BELL_CFG -/

/-- A write to a Bell that is off, or that turns it off, configures the Bell. -/
theorem execBellCfgWrite_eq {s : State} {b : Fin 64} {v : Word} (h : s.rd (R.BELL_CFG_MODE b) = 0 ∨ (R.BELL_CFG_MODE b).of v = 0) :
    exec (.bellCfgWrite b v) s = .next (s.bellCfg b v).ack := by
  show execBellCfgWrite b v s = _
  rw [execBellCfgWrite, if_neg (by rcases h with h | h <;> simp [h])]

/-- What a Bell compares at its start reads the same after a write of the other fields of BELL_CFG. -/
theorem State.wrWord_bellCfg_rd (s : State) (v : Word) (b : Nat) {f : Fld} (hf : ∀ x ∈ bellCfgFields b, f.key ≠ x.key) :
    (s.wrWord v (bellCfgFields b)).rd f = s.rd f := State.wrWord_rd_ne v f _ s hf

/-- A field of a later register of the Bell shares no place with a field of BELL_CFG. -/
theorem key_ne_bellCfg {f : Fld} {a b : Nat} (hf : f.key = (a + b * 0x20) * 64 + 0) (h0 : 0x44020000 < a) (h1 : a < 0x44020020) : ∀ x ∈ bellCfgFields b, f.key ≠ x.key := by
  simp only [Fld.key] at hf
  simp only [bellCfgFields, List.mem_cons, List.not_mem_nil, or_false, forall_eq_or_imp, forall_eq, ne_eq, Fld.key, R.BELL_CFG_LOCK_GROUP,
    R.BELL_CFG_LG_EDGE, R.BELL_CFG_IRQ_EN, R.BELL_CFG_CAPTURE_EDGE, R.BELL_CFG_CAPTURE, R.BELL_CFG_POLARITY]
  omega

theorem bellCfg_keys (b : Nat) : ∀ f ∈ bellCfgFields b, f.key ≠ (R.BELL_CFG_MODE b).key ∧ ∀ x ∈ bellCfgFields b, x ≠ f → f.key ≠ x.key := by
  simp [bellCfgFields, Fld.key, R.BELL_CFG_LOCK_GROUP, R.BELL_CFG_LG_EDGE, R.BELL_CFG_IRQ_EN, R.BELL_CFG_CAPTURE_EDGE, R.BELL_CFG_CAPTURE,
    R.BELL_CFG_POLARITY, R.BELL_CFG_MODE]

theorem absTick_congr {s t : State} (h : t.stp = s.stp) (d : Nat) : t.absTick d = s.absTick d := by
  have htick : t.tick = s.tick := congrArg (fun x : Steeple => x.now / 262144 % tickMod) h
  rw [State.absTick, State.absTick, htick, h]

theorem bellStart_wrWord (s : State) (v : Word) (b : Nat) : (s.wrWord v (bellCfgFields b)).bellStart b = s.bellStart b := by
  rw [State.bellStart, s.wrWord_bellCfg_rd v b (key_ne_bellCfg (f := R.BELL_START b) rfl (by decide) (by decide)),
    s.wrWord_bellCfg_rd v b (key_ne_bellCfg (f := R.BELL_START_FINE b) rfl (by decide) (by decide)), absTick_congr (State.wrWord_stp v _ s), State.bellStart]

theorem sameRegs_bellBegin {s t : State} {l : List Fld} (h : sameRegs s t l) {b : Nat} (hm : R.BELL_CFG_MODE b ∈ l) (hx : R.BELL_MISSED b ∈ l)
    (m : Nat) : sameRegs s (t.bellBegin b m) l :=
  .ite (h.wr hm 0) (.ite ((h.wr hm 0).inc hx) (sameRegs.wr (h.of_regs rfl) hm m))

theorem bellCfgWrite_running : ∀ (s : State) (b : Fin 64) (v : Word), s.rd (R.BELL_CFG_MODE b) ≠ 0 → (R.BELL_CFG_MODE b).of v ≠ 0 →
    ∃ t, exec (.bellCfgWrite b v) s = .next t ∧ t.rd (R.BELL_CFG_IRQ_EN b) = (R.BELL_CFG_IRQ_EN b).of v ∧ t.stp = s.stp ∧
      t.ans = acked ∧ sameRegs s t [R.BELL_CFG_IRQ_EN b] := by
  intro s b v hm hv
  show ∃ t, execBellCfgWrite b v s = .next t ∧ _
  rw [execBellCfgWrite, if_pos ⟨hm, hv⟩]
  exact ⟨_, rfl, State.wrWord_rd_mem v _ _ s (by simp) (by simp), State.wrWord_stp v _ s, rfl, ((sameRegs.refl s _).wrWord v (by simp)).ack⟩

theorem bellCfgWrite_frame : ∀ (s : State) (b : Fin 64) (v : Word), (s.rd (R.BELL_CFG_MODE b) = 0 ∨ (R.BELL_CFG_MODE b).of v = 0) →
    ∃ t, exec (.bellCfgWrite b v) s = .next t ∧ t.ans = acked ∧
      sameRegs s t (R.BELL_CFG_MODE b :: R.BELL_MISSED b :: bellCfgFields b) := by
  intro s b v h
  exact ⟨_, execBellCfgWrite_eq h, rfl,
    (sameRegs_bellBegin ((sameRegs.refl s _).wrWord v fun f hf => by simp [hf]) (by simp) (by simp) _).ack⟩

theorem bellCfgWrite_off : ∀ (s : State) (b : Fin 64) (v : Word), (R.BELL_CFG_MODE b).of v = 0 →
    ∃ t, exec (.bellCfgWrite b v) s = .next t ∧ t.rd (R.BELL_CFG_MODE b) = 0 ∧ t.rd (R.BELL_MISSED b) = s.rd (R.BELL_MISSED b) ∧
      (∀ f ∈ bellCfgFields b, t.rd f = f.of v) := by
  intro s b v hv
  have hoff : s.bellCfg b v = (s.wrWord v (bellCfgFields b)).wr (R.BELL_CFG_MODE b) 0 := by simp [State.bellCfg, State.bellBegin, hv]
  refine ⟨_, execBellCfgWrite_eq (.inr hv), ?_⟩
  rw [hoff]
  refine ⟨State.wr_rd_same _ _ _, ?_, fun f hf => ?_⟩
  · rw [State.ack_rd, State.wr_rd_ne _ _ _ _ (by simp only [Fld.key, R.BELL_MISSED, R.BELL_CFG_MODE, ne_eq]; omega)]
    exact s.wrWord_bellCfg_rd v b (key_ne_bellCfg (f := R.BELL_MISSED b) rfl (by decide) (by decide))
  · rw [State.ack_rd, State.wr_rd_ne _ _ _ _ (bellCfg_keys b f hf).1]
    exact State.wrWord_rd_mem v f _ s hf (bellCfg_keys b f hf).2

theorem bellCfgWrite_missed : ∀ (s : State) (b : Fin 64) (v : Word), s.rd (R.BELL_CFG_MODE b) = 0 → (R.BELL_CFG_MODE b).of v ≠ 0 → s.rd (R.BELL_WIDTH b) = 0 →
    ∃ t, exec (.bellCfgWrite b v) s = .next t ∧ t.rd (R.BELL_CFG_MODE b) = 0 ∧
      t.rd (R.BELL_MISSED b) = (s.rd (R.BELL_MISSED b) + 1) % 2 ^ (R.BELL_MISSED b).w := by
  intro s b v hm hv hw
  have hw' : (s.wrWord v (bellCfgFields b)).rd (R.BELL_WIDTH b) = 0 :=
    (s.wrWord_bellCfg_rd v b (key_ne_bellCfg (f := R.BELL_WIDTH b) rfl (by decide) (by decide))).trans hw
  have hmiss : s.bellCfg b v = ((s.wrWord v (bellCfgFields b)).wr (R.BELL_CFG_MODE b) 0).inc (R.BELL_MISSED b) := by
    simp [State.bellCfg, State.bellBegin, State.bellBad, hv, hw']
  refine ⟨_, execBellCfgWrite_eq (.inl hm), ?_⟩
  rw [hmiss]
  constructor
  · rw [State.ack_rd, State.inc_rd_ne _ _ _ (by simp only [Fld.key, R.BELL_CFG_MODE, R.BELL_MISSED, ne_eq]; omega), State.wr_rd_same]
    rfl
  · rw [State.ack_rd, State.inc_rd_same, State.wr_rd_ne _ _ _ _ (by simp only [Fld.key, R.BELL_MISSED, R.BELL_CFG_MODE, ne_eq]; omega), s.wrWord_bellCfg_rd v b
      (key_ne_bellCfg (f := R.BELL_MISSED b) rfl (by decide) (by decide))]

theorem bellCfgWrite_starts : ∀ (s : State) (b : Fin 64) (v : Word), s.rd (R.BELL_CFG_MODE b) = 0 → (R.BELL_CFG_MODE b).of v = 1 → s.rd (R.BELL_WIDTH b) ≠ 0 →
    65536000 ≤ s.bellStart b - (s.stp.now : Int) → s.bellStart b - (s.stp.now : Int) ≤ 268435456 * 262144 →
    ∃ t, exec (.bellCfgWrite b v) s = .next t ∧ t.rd (R.BELL_CFG_MODE b) = 1 ∧ (t.bell b).start = s.bellStart b ∧ (t.bell b).count = 0 ∧
      t.rd (R.BELL_MISSED b) = s.rd (R.BELL_MISSED b) := by
  intro s b v hm hv hw hlo hhi
  have hkeep {f : Fld} := s.wrWord_bellCfg_rd v b (f := f)
  have hw' : (s.wrWord v (bellCfgFields b)).rd (R.BELL_WIDTH b) ≠ 0 := by
    rwa [hkeep (key_ne_bellCfg (f := R.BELL_WIDTH b) rfl (by decide) (by decide))]
  have hgood : (s.wrWord v (bellCfgFields b)).bellBad b 1 = false := by
    simp [State.bellBad, hw', bellStart_wrWord, State.wrWord_stp, maxLead]
    omega
  refine ⟨_, execBellCfgWrite_eq (.inl hm), ?_⟩
  rw [State.bellCfg, hv, State.bellBegin, if_neg one_ne_zero, if_neg (by simp [hgood])]
  refine ⟨State.wr_rd_same _ _ _, ?_, ?_, ?_⟩
  · simp [bellStart_wrWord]
  · simp
  · rw [State.ack_rd, State.wr_rd_ne _ _ _ _ (by simp only [Fld.key, R.BELL_MISSED, R.BELL_CFG_MODE, ne_eq]; omega), State.setBell_rd]
    exact hkeep (key_ne_bellCfg (f := R.BELL_MISSED b) rfl (by decide) (by decide))

/-! ### Edges of Bells and of PPS outputs -/

theorem State.irqIf_hallIrq_mem (s : State) (x : HallSrc) (i : Nat) : ⟨x, i⟩ ∈ (s.irqIf true x i).hallIrq := by
  simp only [State.irqIf, State.irq, if_true]
  split
  · exact List.contains_iff_mem.mp ‹_›
  · simp

theorem State.bellPulse_bell (s : State) (b : Nat) (t : Int) (x : Bell) : (s.bellPulse b t x).bell b =
    { x with high := true, edge := some t, ends := t + (s.rd (R.BELL_WIDTH b) : Int) * 262144 } := by
  show (State.irqIf _ _ _ _).stp.bells.get b = _
  rw [State.irqIf_stp]
  exact State.setBell_bell _ _ _

theorem bellEdge_begins : ∀ (s : State) (b : Fin 64), (s.bell b).high = false → s.rd (R.BELL_CFG_MODE b) = 2 →
    (s.bell b).start + ((s.bell b).count : Int) * (s.rd (R.BELL_PERIOD b) : Int) * 65536 ≤ (s.stp.now : Int) →
    s.earlierDone 5 (((s.bell b).start + ((s.bell b).count : Int) * (s.rd (R.BELL_PERIOD b) : Int) * 65536) / 65536) = true →
    ∃ t, exec (.bellEdge b) s = .next t ∧ (t.bell b).high = true ∧ (t.bell b).count = (s.bell b).count + 1 ∧
      (t.bell b).ends = (s.bell b).start + ((s.bell b).count : Int) * (s.rd (R.BELL_PERIOD b) : Int) * 65536 +
        (s.rd (R.BELL_WIDTH b) : Int) * 262144 ∧
      (s.bit (R.BELL_CFG_IRQ_EN b) = true → ⟨.bell, b⟩ ∈ t.hallIrq) ∧ t.regs = s.regs := by
  intro s b hlow hm hdue hed
  have hd : s.bellDue b = some ((s.bell b).start + ((s.bell b).count : Int) * (s.rd (R.BELL_PERIOD b) : Int) * 65536,
      { s.bell b with count := (s.bell b).count + 1 }) := by
    simp only [State.bellDue, hm, hdue, if_true]
  show ∃ t, execBellEdge b s = .next t ∧ _
  simp only [execBellEdge, hlow, Bool.false_eq_true, if_false, hd, hed, if_true]
  refine ⟨_, rfl, by rw [State.bellPulse_bell], by rw [State.bellPulse_bell], by rw [State.bellPulse_bell], fun hirq => ?_, by rw [State.bellPulse, State.irqIf_regs]; rfl⟩
  rw [State.bellPulse, hirq]
  exact State.irqIf_hallIrq_mem _ _ _

theorem bellEdge_ends : ∀ (s : State) (b : Fin 64), (s.bell b).high = true → (s.bell b).ends ≤ (s.stp.now : Int) →
    ∃ t, exec (.bellEdge b) s = .next t ∧ (t.bell b).high = false ∧ t.regs = s.regs ∧ t.hallIrq = s.hallIrq := by
  intro s b hhigh hends
  show ∃ t, execBellEdge b s = .next t ∧ _
  simp only [execBellEdge, hhigh, hends, if_true]
  exact ⟨_, rfl, by simp, rfl, rfl⟩

theorem ppsOutPulse_begins : ∀ (s : State) (k : Fin 2), (s.stp.pps.get k).high = false → s.bit (R.PPS_OUT_CFG_ENABLE k) = true → s.rd (R.PPS_OUT_COMP k) = 0 →
    (s.stp.pps.get k).nextSec = some (s.nowNs / 1000000000) → s.earlierDone 5 (s.nowNs / 1000000000 * 1000000000) = true →
    ∃ t, exec (.ppsOutPulse k) s = .next t ∧ (t.stp.pps.get k).high = true ∧
      (t.stp.pps.get k).nextSec = some (s.nowNs / 1000000000 + 1) ∧
      (t.stp.pps.get k).ends = (s.nowNs / 1000000000 * 1000000000 + (s.rd (R.PPS_OUT_CFG_WIDTH_US k) : Int) * 1000) * 65536 ∧ t.regs = s.regs := by
  intro s k hlow hen hcomp hsec hed
  have hzero : sext 32 0 = 0 := by decide
  show ∃ t, execPpsOutPulse k s = .next t ∧ _
  simp only [execPpsOutPulse, hlow, hen, hcomp, hzero, hsec, Bool.false_eq_true, if_false, if_true, sub_zero, add_zero, le_refl, decide_true,
    Bool.true_and, hed]
  refine ⟨_, rfl, ?_, ?_, ?_, rfl⟩
  all_goals rw [State.setStp_stp, Tab.get_set_same]

/-! ### Captures -/

theorem sameRegs_showCap {s t : State} {l : List Fld} (h : sameRegs s t l) {p : Nat} (hl : R.CAP_STATUS_LEVEL p ∈ l) (hs : R.CAP_SEC p ∈ l)
    (hn : R.CAP_NS p ∈ l) (hf : R.CAP_FRAC p ∈ l) (x : List Stamp) : sameRegs s (t.showCap p x) l :=
  ((((h.of_regs rfl).wr hl _).wr hs _).wr hn _).wr hf _

@[simp] theorem State.showCap_caps (s : State) (p : Nat) (l : List Stamp) : (s.showCap p l).stp.caps.get p = l := Tab.get_set_same _ _ _

theorem State.showCap_rd_level (s : State) (p : Nat) (l : List Stamp) : (s.showCap p l).rd (R.CAP_STATUS_LEVEL p) = l.length % 2 ^ 5 := by
  rw [State.showCap, State.wr_rd_ne _ _ _ _ (by simp only [Fld.key, R.CAP_STATUS_LEVEL, R.CAP_FRAC, ne_eq]; omega), State.wr_rd_ne _ _ _ _ (by simp only [Fld.key, R.CAP_STATUS_LEVEL, R.CAP_NS, ne_eq]; omega),
    State.wr_rd_ne _ _ _ _ (by simp only [Fld.key, R.CAP_STATUS_LEVEL, R.CAP_SEC, ne_eq]; omega), State.wr_rd_same]
  rfl

theorem State.showCap_rd_sec (s : State) (p : Nat) (x : Stamp) (l : List Stamp) : (s.showCap p (x :: l)).rd (R.CAP_SEC p) = x.sec % 2 ^ 32 := by
  rw [State.showCap, State.wr_rd_ne _ _ _ _ (by simp only [Fld.key, R.CAP_SEC, R.CAP_FRAC, ne_eq]; omega), State.wr_rd_ne _ _ _ _ (by simp only [Fld.key, R.CAP_SEC, R.CAP_NS, ne_eq]; omega), State.wr_rd_same]
  rfl

theorem State.showCap_rd_ns (s : State) (p : Nat) (x : Stamp) (l : List Stamp) :
    (s.showCap p (x :: l)).rd (R.CAP_NS p) = x.ns % 2 ^ (R.CAP_NS p).w := by
  rw [State.showCap, State.wr_rd_ne _ _ _ _ (by simp only [Fld.key, R.CAP_NS, R.CAP_FRAC, ne_eq]; omega), State.wr_rd_same]
  rfl

theorem captureEdge_stamps : ∀ (s : State) (p : Fin 18) (falling : Bool), s.capSelects p falling = true → (s.stp.caps.get p).length < 16 →
    ∃ t st, exec (.captureEdge p falling) s = .next t ∧ t.stp.caps.get p = s.stp.caps.get p ++ [st] ∧
      st.ns = s.stp.now / 65536 % 1000000000 ∧ t.rd (R.CAP_STATUS_LEVEL p) = (s.stp.caps.get p).length + 1 ∧
      sameRegs s t [R.CAP_STATUS_LEVEL p, R.CAP_SEC p, R.CAP_NS p, R.CAP_FRAC p] := by
  intro s p falling hsel hlen
  show ∃ t st, execCaptureEdge p falling s = .next t ∧ _
  simp only [execCaptureEdge, hsel, if_true, if_neg (Nat.not_le.mpr hlen)]
  refine ⟨_, _, rfl, State.showCap_caps _ _ _, rfl, ?_, sameRegs_showCap (sameRegs.refl s _) (by simp) (by simp) (by simp) (by simp) _⟩
  rw [State.showCap_rd_level, List.length_append, List.length_singleton]
  omega

theorem captureEdge_overflows : ∀ (s : State) (p : Fin 18) (falling : Bool), s.capSelects p falling = true → 16 ≤ (s.stp.caps.get p).length →
    ∃ t, exec (.captureEdge p falling) s = .next t ∧ t.rd (R.CAP_STATUS_OVERFLOW p) = 1 ∧ t.stp = s.stp ∧
      sameRegs s t [R.CAP_STATUS_OVERFLOW p] := by
  intro s p falling hsel hlen
  show ∃ t, execCaptureEdge p falling s = .next t ∧ _
  simp only [execCaptureEdge, hsel, if_true, if_pos hlen]
  exact ⟨_, rfl, State.wr_rd_same _ _ _, rfl, (sameRegs.refl s _).wr (by simp) 1⟩

theorem capPop_retires : ∀ (s : State) (p : Fin 18) (a b : Stamp) (r : List Stamp), s.stp.caps.get p = a :: b :: r → ∃ t, exec (.capPop p) s = .next t ∧
    t.stp.caps.get p = b :: r ∧ t.rd (R.CAP_SEC p) = b.sec % 2 ^ 32 ∧ t.rd (R.CAP_NS p) = b.ns % 2 ^ (R.CAP_NS p).w ∧ t.ans = acked ∧
    sameRegs s t [R.CAP_STATUS_LEVEL p, R.CAP_SEC p, R.CAP_NS p, R.CAP_FRAC p] := by
  intro s p a b r hcaps
  show ∃ t, execCapPop p s = .next t ∧ _
  simp only [execCapPop, hcaps, List.tail_cons]
  exact ⟨_, rfl, by simp, by rw [State.ack_rd, State.showCap_rd_sec], by rw [State.ack_rd, State.showCap_rd_ns], rfl,
    (sameRegs_showCap (sameRegs.refl s _) (by simp) (by simp) (by simp) (by simp) _).ack⟩

/-- Settles O11: each clause is a lemma above about one command. -/
theorem bellsOutputsAndCaptures : Obligations.BellsOutputsAndCaptures :=
  ⟨bellCfgWrite_running, bellCfgWrite_frame, bellCfgWrite_off, bellCfgWrite_missed, bellCfgWrite_starts, bellEdge_begins, bellEdge_ends,
    ppsOutPulse_begins, captureEdge_stamps, captureEdge_overflows, capPop_retires⟩

end Sys2Proof.Machine

/-! ## Plans (R40 to R43) -/

namespace Sys2Proof.Machine

set_option Elab.async false

open Sys2Proof.Claims

theorem State.dropBatch_stp (s : State) (plan : Nat) : (s.dropBatch plan).stp = s.stp :=
  (keeps_dropBatch (.refl [.regs, .hallIrq, .reeve, .tally, .dbg] s) (by simp) (by simp) (by simp) (by simp) (by simp) plan).1 .stp (by simp)

theorem State.granaryRead_stp (s : State) (m : Mid) (a n : Nat) : (s.granaryRead m a n).2.stp = s.stp :=
  (keeps_granaryRead (.refl [.regs, .hallIrq, .ms, .dbg] s) (by simp) (by simp) (by simp) (by simp) m a n).1 .stp (by simp)

/-! ### Outcomes -/

theorem State.planOutcome_rd_ne (s : State) (g o seq : Nat) {f : Fld} (ho : f.key ≠ (R.LG_PLAN_STATUS_LAST_OUTCOME g).key)
    (hs : f.key ≠ (R.LG_PLAN_STATUS_LAST_SEQ g).key) : (s.planOutcome g o seq).rd f = s.rd f := by
  rw [State.planOutcome, State.wr_rd_ne _ _ _ _ hs, State.wr_rd_ne _ _ _ _ ho]

theorem State.planOutcome_rd_seq (s : State) (g o seq : Nat) : (s.planOutcome g o seq).rd (R.LG_PLAN_STATUS_LAST_SEQ g) = seq % 2 ^ 16 :=
  State.wr_rd_same _ _ _

@[simp] theorem State.planOutcome_stp (s : State) (g o seq : Nat) : (s.planOutcome g o seq).stp = s.stp := rfl
@[simp] theorem State.planOutcome_group (s : State) (h o seq g : Nat) : (s.planOutcome h o seq).group g = s.group g := rfl
@[simp] theorem State.setArmed_group (s : State) (g : Nat) (l : List ArmedPlan) : (s.setArmed g l).group g = { s.group g with armed := l } := by
  rw [State.setArmed, State.wr_group, State.setGroup_group]

@[simp] theorem State.planRefused_stp (s : State) (g c p seq : Nat) : (s.planRefused g c p seq).stp = s.stp := rfl

theorem State.planRefused_rd_outcome (s : State) (g c p seq : Nat) : (s.planRefused g c p seq).rd (R.LG_PLAN_STATUS_LAST_OUTCOME g) = 3 :=
  State.planOutcome_rd_outcome _ g seq (by decide)

theorem State.planRefused_rd_seq (s : State) (g c p seq : Nat) : (s.planRefused g c p seq).rd (R.LG_PLAN_STATUS_LAST_SEQ g) = seq % 2 ^ 16 :=
  State.planOutcome_rd_seq _ g 3 seq

theorem State.planRefused_rd_cause (s : State) (g p seq : Nat) {c : Nat} (hc : c < 16) :
    (s.planRefused g c p seq).rd (R.LG_PLAN_STATUS_REFUSE_CAUSE g) = c := by
  rw [State.planRefused, State.planOutcome_rd_ne _ _ _ _ (by simp only [Fld.key, R.LG_PLAN_STATUS_REFUSE_CAUSE, R.LG_PLAN_STATUS_LAST_OUTCOME, ne_eq]; omega)
    (by simp only [Fld.key, R.LG_PLAN_STATUS_REFUSE_CAUSE, R.LG_PLAN_STATUS_LAST_SEQ, ne_eq]; omega), State.inc_rd_ne _ _ _ (by simp only [Fld.key, R.LG_PLAN_STATUS_REFUSE_CAUSE, R.LG_PLANS_REFUSED, ne_eq]; omega),
    State.wr_rd_ne _ _ _ _ (by simp only [Fld.key, R.LG_PLAN_STATUS_REFUSE_CAUSE, R.LG_PLAN_STATUS_REFUSE_PART, ne_eq]; omega), State.wr_rd_same]
  exact Nat.mod_eq_of_lt hc

theorem State.planRefused_rd_count (s : State) (g c p seq : Nat) :
    (s.planRefused g c p seq).rd (R.LG_PLANS_REFUSED g) = (s.rd (R.LG_PLANS_REFUSED g) + 1) % 2 ^ (R.LG_PLANS_REFUSED g).w := by
  rw [State.planRefused, State.planOutcome_rd_ne _ _ _ _ (by simp only [Fld.key, R.LG_PLANS_REFUSED, R.LG_PLAN_STATUS_LAST_OUTCOME, ne_eq]; omega)
    (by simp only [Fld.key, R.LG_PLANS_REFUSED, R.LG_PLAN_STATUS_LAST_SEQ, ne_eq]; omega), State.inc_rd_same, State.wr_rd_ne _ _ _ _ (by simp only [Fld.key, R.LG_PLANS_REFUSED, R.LG_PLAN_STATUS_REFUSE_PART, ne_eq]; omega),
    State.wr_rd_ne _ _ _ _ (by simp only [Fld.key, R.LG_PLANS_REFUSED, R.LG_PLAN_STATUS_REFUSE_CAUSE, ne_eq]; omega)]

/-! ### Arming -/

/-- The header's words as the plan reads them. -/
def headerWords (ws : List PWord) : List Nat := (List.range 16).map (fun i => (word32 ws i).toNat)

/-- What a header that could be read comes to. -/
theorem State.planArm_read {s u : State} {ws : List PWord} {a : Nat} (hread : s.granaryRead 0xE0 a 8 = (some ws, u)) (g : Nat)
    (bells : List BellEntry) (p5 r5 : Bool) : s.planArm g a bells p5 r5 =
    match u.planTiming g (word32 ws 1).toNat (bitsOf (word32 ws 2) 16 10) (bitsOf (word32 ws 2) 0 10) with
    | .error c => u.planRefused g c 0 (word32 ws 3).toNat
    | .ok (commitNs, slot) =>
      if headerBad g (headerWords ws) then u.planRefused g 8 0 (word32 ws 3).toNat
      else u.armParts g (headerWords ws) (anyMark ws) commitNs slot bells p5 r5 := by
  rw [State.planArm, hread]
  rfl

theorem planArm_unread : ∀ (s : State) (g : Fin 64) (v : Word) (bells : List BellEntry) (p5 r5 : Bool), (s.granaryRead 0xE0 (bitsOf v 6 20 * 64) 8).1 = none →
    ∃ t, exec (.planArm g v bells p5 r5) s = .next t ∧ t.rd (R.LG_PLAN_STATUS_LAST_OUTCOME g) = 3 ∧
      t.rd (R.LG_PLAN_STATUS_REFUSE_CAUSE g) = 11 ∧ t.stp = s.stp ∧ t.ans = acked := by
  intro s g v bells p5 r5 hread
  obtain ⟨u, hu⟩ : ∃ u, s.granaryRead 0xE0 (bitsOf v 6 20 * 64) 8 = (none, u) := ⟨_, Prod.ext hread rfl⟩
  have harm : s.planArm g (bitsOf v 6 20 * 64) bells p5 r5 = u.fresh.2.planRefused g 11 0 (Config.freeValue u.fresh.1) := by
    rw [State.planArm, hu]
  refine ⟨_, congrArg (fun t : State => Host.Outcome.next t.ack) harm, ?_, ?_, ?_, rfl⟩
  · rw [State.ack_rd, State.planRefused_rd_outcome]
  · rw [State.ack_rd, State.planRefused_rd_cause _ _ _ _ (by decide)]
  · have := s.granaryRead_stp 0xE0 (bitsOf v 6 20 * 64) 8
    rwa [hu] at this

theorem planArm_refused : ∀ (s u : State) (ws : List PWord) (g : Fin 64) (v : Word) (bells : List BellEntry) (p5 r5 : Bool) (c : Nat),
    s.granaryRead 0xE0 (bitsOf v 6 20 * 64) 8 = (some ws, u) → c < 16 →
    u.planTiming g (word32 ws 1).toNat (bitsOf (word32 ws 2) 16 10) (bitsOf (word32 ws 2) 0 10) = .error c →
    ∃ t, exec (.planArm g v bells p5 r5) s = .next t ∧ t.rd (R.LG_PLAN_STATUS_LAST_OUTCOME g) = 3 ∧
      t.rd (R.LG_PLAN_STATUS_REFUSE_CAUSE g) = c ∧ t.rd (R.LG_PLAN_STATUS_LAST_SEQ g) = (word32 ws 3).toNat % 2 ^ 16 ∧
      t.rd (R.LG_PLANS_REFUSED g) = (u.rd (R.LG_PLANS_REFUSED g) + 1) % 2 ^ (R.LG_PLANS_REFUSED g).w ∧ t.stp = u.stp := by
  intro s u ws g v bells p5 r5 c hread hc htime
  have harm := State.planArm_read hread g bells p5 r5
  rw [htime] at harm
  refine ⟨_, congrArg (fun t : State => Host.Outcome.next t.ack) harm, ?_, ?_, ?_, ?_, rfl⟩
  · rw [State.ack_rd, State.planRefused_rd_outcome]
  · rw [State.ack_rd, State.planRefused_rd_cause _ _ _ _ hc]
  · rw [State.ack_rd, State.planRefused_rd_seq]
  · rw [State.ack_rd, State.planRefused_rd_count]

/-- The armed plan that a header without parts gives. -/
def State.barePlan (u : State) (g seq : Nat) (commitNs slot : Int) : ArmedPlan :=
  { id := u.stp.nextPlan, seq := seq, commitNs := commitNs, slot := slot, wtag := slotTag slot, sweepNs := u.sweepNs g slot,
    part1 := [], part2 := [], part3 := [], part4 := [], bells := [] }

/-- A plan without parts arms: it is the last of the group's armed plans. -/
theorem State.armParts_of_no_parts {u : State} {g : Nat} {w : List Nat} {commitNs slot : Int} (bells : List BellEntry) (p5 r5 : Bool)
    (hw : ∀ i < 6, (planPart w i).2 = 0) : ∃ (b : State) (p : ArmedPlan), b.stp.groups = u.stp.groups ∧ p.seq = w.getD 3 0 ∧
      p.commitNs = commitNs ∧ p.slot = slot ∧ u.armParts g w false commitNs slot bells p5 r5 =
        (b.setArmed g ((b.group g).armed ++ [p])).planOutcome g 1 (w.getD 3 0) := by
  have h0 := hw 0 (by decide)
  have h1 := hw 1 (by decide)
  have h2 := hw 2 (by decide)
  have h3 := hw 3 (by decide)
  have h4 := hw 4 (by decide)
  have h5 := hw 5 (by decide)
  refine ⟨u.setStp { u.stp with nextPlan := u.stp.nextPlan + 1 }, u.barePlan g (w.getD 3 0) commitNs slot, rfl, rfl, rfl, rfl, ?_⟩
  have hnone : [false, false, false, false, false, false].findIdx? (fun b => b) = none := rfl
  simp [State.armParts, hnone, State.readPart0, State.readPlanPart, h0, h1, h2, h3, h4, h5, part2Bad, State.part4Bad, State.takeBatch, State.barePlan]

theorem planArm_arms : ∀ (s u : State) (ws : List PWord) (g : Fin 64) (v : Word) (bells : List BellEntry) (p5 r5 : Bool) (commitNs slot : Int),
    s.granaryRead 0xE0 (bitsOf v 6 20 * 64) 8 = (some ws, u) →
    u.planTiming g (word32 ws 1).toNat (bitsOf (word32 ws 2) 16 10) (bitsOf (word32 ws 2) 0 10) = .ok (commitNs, slot) →
    headerBad g ((List.range 16).map (fun i => (word32 ws i).toNat)) = false → anyMark ws = false →
    (∀ i < 6, (planPart ((List.range 16).map (fun i => (word32 ws i).toNat)) i).2 = 0) →
    ∃ t, exec (.planArm g v bells p5 r5) s = .next t ∧ t.rd (R.LG_PLAN_STATUS_LAST_OUTCOME g) = 1 ∧
      t.rd (R.LG_PLAN_STATUS_LAST_SEQ g) = (word32 ws 3).toNat % 2 ^ 16 ∧
      ((t.group g).armed.map (fun p => (p.seq, p.commitNs, p.slot))) =
        (u.group g).armed.map (fun p => (p.seq, p.commitNs, p.slot)) ++ [((word32 ws 3).toNat, commitNs, slot)] := by
  intro s u ws g v bells p5 r5 commitNs slot hread htime hhead hmark hparts
  have harm := State.planArm_read hread g bells p5 r5
  rw [htime] at harm
  obtain ⟨b, p, hgroups, hseq, hcommit, hslot, hb⟩ := State.armParts_of_no_parts (u := u) (g := g) (commitNs := commitNs) (slot := slot) bells p5 r5 hparts
  have hh : headerBad g (headerWords ws) = false := hhead
  simp only [hh, Bool.false_eq_true, if_false, hmark] at harm
  refine ⟨_, congrArg (fun t : State => Host.Outcome.next t.ack) (harm.trans hb), ?_, ?_, ?_⟩
  · rw [State.ack_rd, State.planOutcome_rd_outcome _ _ _ (by decide)]
  · rw [State.ack_rd, State.planOutcome_rd_seq]
    rfl
  · have hg : b.group g = u.group g := congrArg (fun t : Tab LockGroup => t.get g) hgroups
    rw [State.ack_group, State.planOutcome_group, State.setArmed_group, hg, List.map_append, List.map_singleton, hseq, hcommit, hslot]
    rfl

/-! ### Commit and withdrawal -/

theorem planCommit_commits : ∀ (s : State) (g : Fin 64) (p : ArmedPlan) (rest : List ArmedPlan), (s.group g).armed = p :: rest → s.reached p.commitNs = true →
    s.earlierDone 4 p.commitNs = true → ∃ t, exec (.planCommit g) s = .next t ∧
      t.rd (R.LG_PLAN_STATUS_LAST_OUTCOME g) = 2 ∧ t.rd (R.LG_PLAN_STATUS_LAST_SEQ g) = p.seq % 2 ^ 16 := by
  intro s g p rest harm hre hed
  show ∃ t, execPlanCommit g s = .next t ∧ _
  simp only [execPlanCommit, harm, hre, hed, Bool.and_self, if_true]
  exact ⟨_, rfl, State.planOutcome_rd_outcome _ _ _ (by decide), State.planOutcome_rd_seq _ _ _ _⟩

theorem planCommit_early : ∀ (s : State) (g : Fin 64) (p : ArmedPlan) (rest : List ArmedPlan), (s.group g).armed = p :: rest → s.reached p.commitNs = false →
    exec (.planCommit g) s = .next s := by
  intro s g p rest harm hre
  show execPlanCommit g s = _
  simp only [execPlanCommit, harm, hre, Bool.false_and, Bool.false_eq_true, if_false]

theorem planWithdraw_withdraws : ∀ (s : State) (g : Fin 64) (seq : Word) (p : ArmedPlan), (s.group g).armed.find? (fun p => p.seq == seq.toNat) = some p →
    (s.stp.now : Int) + 655360000 ≤ p.commitNs * 65536 → ∃ t, exec (.planWithdraw g seq) s = .next t ∧
      (t.group g).armed = (s.group g).armed.filter (fun q => q.id != p.id) ∧ t.rd (R.LG_PLAN_STATUS_LAST_OUTCOME g) = 4 ∧ t.ans = acked := by
  intro s g seq p hfind hlead
  show ∃ t, execPlanWithdraw g seq s = .next t ∧ _
  simp only [execPlanWithdraw, hfind, hlead, if_true]
  refine ⟨_, rfl, ?_, ?_, rfl⟩
  · have hstp (t : State) : (if p.part3 = [] then t else t.wr R.COMMONS_STATUS_ARMED3 0).group g = t.group g := by split <;> rfl
    have hdrop (t : State) : (t.dropBatch p.id).group g = t.group g := congrArg (fun x : Steeple => x.groups.get g) (t.dropBatch_stp p.id)
    simp only [State.ack_group, State.withdrawn, State.planOutcome_group, hstp, hdrop, State.setArmed_group]
  · rw [State.ack_rd]
    exact State.planOutcome_rd_outcome _ _ _ (by decide)

theorem planWithdraw_late : ∀ (s : State) (g : Fin 64) (seq : Word) (p : ArmedPlan), (s.group g).armed.find? (fun p => p.seq == seq.toNat) = some p →
    p.commitNs * 65536 < (s.stp.now : Int) + 655360000 → ∃ t, exec (.planWithdraw g seq) s = .next t ∧
      t.rd (R.LG_PLAN_STATUS_WITHDRAW_LATE g) = 1 ∧ t.stp = s.stp ∧ sameRegs s t [R.LG_PLAN_STATUS_WITHDRAW_LATE g] := by
  intro s g seq p hfind hlead
  show ∃ t, execPlanWithdraw g seq s = .next t ∧ _
  simp only [execPlanWithdraw, hfind, if_neg (Int.not_le.mpr hlead)]
  exact ⟨_, rfl, State.wr_rd_same _ _ _, rfl, ((sameRegs.refl s _).wr (by simp) 1).ack⟩

theorem planWithdraw_misses : ∀ (s : State) (g : Fin 64) (seq : Word), (∀ p ∈ (s.group g).armed, p.seq ≠ seq.toNat) →
    ∃ t, exec (.planWithdraw g seq) s = .next t ∧ t.rd (R.LG_PLAN_STATUS_WITHDRAW_MISS g) = 1 ∧ t.stp = s.stp ∧
      sameRegs s t [R.LG_PLAN_STATUS_WITHDRAW_MISS g] := by
  intro s g seq hno
  have hfind : (s.group g).armed.find? (fun p => p.seq == seq.toNat) = none := List.find?_eq_none.mpr fun p hp => by simpa using hno p hp
  show ∃ t, execPlanWithdraw g seq s = .next t ∧ _
  simp only [execPlanWithdraw, hfind]
  exact ⟨_, rfl, State.wr_rd_same _ _ _, rfl, ((sameRegs.refl s _).wr (by simp) 1).ack⟩

/-- Settles O12: each clause is a lemma above about one command. -/
theorem planArmCommitWithdraw : Obligations.PlanArmCommitWithdraw :=
  ⟨planArm_unread, planArm_refused, planArm_arms, planCommit_commits, planCommit_early, planWithdraw_withdraws, planWithdraw_late,
    planWithdraw_misses⟩

end Sys2Proof.Machine

/-! ## The slot sweep and its residue (R50, R51) -/

namespace Sys2Proof.Machine

set_option Elab.async false

open Sys2Proof.Claims

theorem State.reeveSweep_stp (s : State) (g w : Nat) : (s.reeveSweep g w).stp = s.stp :=
  (keeps_reeveSweep (.refl [.regs, .hallIrq, .hostIrq, .cores, .reeve, .tally, .dbg] s) (by simp) (by simp) (by simp) (by simp) (by simp)
    (by simp) (by simp) g w).1 .stp (by simp)

theorem State.group_congr {s t : State} (h : t.stp = s.stp) (g : Nat) : t.group g = s.group g :=
  congrArg (fun x : Steeple => x.groups.get g) h

theorem slotSweep_marks : ∀ (s : State) (g : Fin 64) (wtag : Fin 16) (w : Window), (s.group g).windows.find? (fun w => w.wtag == wtag.val && !w.swept) = some w →
    s.reached w.sweepNs = true → s.earlierDone 2 w.sweepNs = true → ∃ t, exec (.slotSweep g wtag) s = .next t ∧
      (t.group g).windows = (s.group g).windows.map (fun y => if y.slot = w.slot then { y with swept := true } else y) := by
  intro s g wtag w hfind hre hed
  show ∃ t, execSlotSweep g wtag s = .next t ∧ _
  simp only [execSlotSweep, hfind, hre, hed, Bool.and_self, if_true]
  refine ⟨_, rfl, ?_⟩
  rw [State.group_congr (State.reeveSweep_stp _ _ _), State.group_congr (State.add_stp _ _ _), State.setGroup_group]

theorem sweepResidueReport_frees : ∀ (s : State) (g : Fin 64) (w : Window), (s.group g).windows.find? (fun w => w.swept && s.reached (w.sweepNs + 4000)) = some w →
    s.residue g w.wtag = 0 → ∃ t, exec (.sweepResidueReport g) s = .next t ∧
      (t.group g).windows = (s.group g).windows.filter (fun y => y.slot != w.slot) ∧ t.regs = s.regs ∧ t.hallIrq = s.hallIrq := by
  intro s g w hfind hres
  show ∃ t, execSweepResidueReport g s = .next t ∧ _
  simp only [execSweepResidueReport, hfind, hres, if_true]
  exact ⟨_, rfl, congrArg LockGroup.windows (State.setGroup_group _ _ _), rfl, rfl⟩

theorem State.irq_hallIrq_mem (s : State) (x : HallSrc) (i : Nat) : ⟨x, i⟩ ∈ (s.irq x i).hallIrq := s.irqIf_hallIrq_mem x i

theorem sweepResidueReport_reports : ∀ (s : State) (g : Fin 64) (w : Window), (s.group g).windows.find? (fun w => w.swept && s.reached (w.sweepNs + 4000)) = some w →
    s.residue g w.wtag ≠ 0 → s.rd (R.LG_SWEEP_STATUS_RESIDUE g) = 0 → w.wtag < 16 → s.rd (R.LG_SWEEP_STATUS_RESIDUE_MASK g) = 0 →
    ∃ t, exec (.sweepResidueReport g) s = .next t ∧ t.rd (R.LG_SWEEP_STATUS_RESIDUE g) = 1 ∧
      t.rd (R.LG_SWEEP_STATUS_RESIDUE_TAG g) = w.wtag ∧ t.rd (R.LG_SWEEP_STATUS_RESIDUE_MASK g) = 2 ^ w.wtag ∧
      ⟨.residue, g⟩ ∈ t.hallIrq ∧
      sameRegs s t [R.LG_SWEEP_STATUS_RESIDUE g, R.LG_SWEEP_STATUS_RESIDUE_TAG g, R.LG_SWEEP_STATUS_RESIDUE_MASK g] := by
  intro s g w hfind hres hfree hw hmask
  have hbit (x : LockGroup) : (s.setGroup g x).bit (R.LG_SWEEP_STATUS_RESIDUE g) = false := by simp [State.bit_eq, hfree]
  have hzero : nbit 0 w.wtag = false := by simp [nbit]
  show ∃ t, execSweepResidueReport g s = .next t ∧ _
  simp only [execSweepResidueReport, hfind, hres, if_false, State.setGroup_rd, hbit, hmask, hzero,
    Bool.false_eq_true, zero_add]
  refine ⟨_, rfl, ?_, ?_, ?_, State.irq_hallIrq_mem _ _ _, ?_⟩
  · rw [State.irq_rd, State.wr_rd_ne _ _ _ _ (by simp only [Fld.key, R.LG_SWEEP_STATUS_RESIDUE, R.LG_SWEEP_STATUS_RESIDUE_MASK, ne_eq]; omega), State.wr_rd_same]
    rfl
  · rw [State.irq_rd, State.wr_rd_ne _ _ _ _ (by simp only [Fld.key, R.LG_SWEEP_STATUS_RESIDUE_TAG, R.LG_SWEEP_STATUS_RESIDUE_MASK, ne_eq]; omega),
      State.wr_rd_ne _ _ _ _ (by simp only [Fld.key, R.LG_SWEEP_STATUS_RESIDUE_TAG, R.LG_SWEEP_STATUS_RESIDUE, ne_eq]; omega), State.wr_rd_same]
    exact Nat.mod_eq_of_lt hw
  · rw [State.irq_rd, State.wr_rd_same]
    exact Nat.mod_eq_of_lt (Nat.pow_lt_pow_right (by decide) hw)
  · exact (((((sameRegs.refl s _).setGroup _ _).wr (by simp) _).wr (by simp) 1).wr (by simp) _).irq _ _

theorem residueClear_clears : ∀ (s : State) (g : Fin 64) (v : Word), (R.LG_SWEEP_STATUS_RESIDUE g).of v = 1 → ∃ t, exec (.residueClear g v) s = .next t ∧
    t.rd (R.LG_SWEEP_STATUS_RESIDUE g) = 0 ∧ t.rd (R.LG_SWEEP_STATUS_RESIDUE_MASK g) = 0 ∧ t.stp = s.stp ∧ t.ans = acked ∧
    sameRegs s t [R.LG_SWEEP_STATUS_RESIDUE g, R.LG_SWEEP_STATUS_RESIDUE_TAG g, R.LG_SWEEP_STATUS_RESIDUE_MASK g] := by
  intro s g v hv
  show ∃ t, execResidueClear g v s = .next t ∧ _
  simp only [execResidueClear, hv, if_true]
  refine ⟨_, rfl, ?_, ?_, rfl, rfl, sameRegs.ack (.of_regs (((sameRegs.refl s _).wr (by simp) 0).wr (by simp) 0 |>.wr (by simp) 0) rfl)⟩
  · show ((State.wr _ _ _).wr _ _).rd _ = 0
    rw [State.wr_rd_ne _ _ _ _ (by simp only [Fld.key, R.LG_SWEEP_STATUS_RESIDUE, R.LG_SWEEP_STATUS_RESIDUE_TAG, ne_eq]; omega),
      State.wr_rd_ne _ _ _ _ (by simp only [Fld.key, R.LG_SWEEP_STATUS_RESIDUE, R.LG_SWEEP_STATUS_RESIDUE_MASK, ne_eq]; omega), State.wr_rd_same, Nat.zero_mod]
  · show ((State.wr _ _ _).wr _ _).rd _ = 0
    rw [State.wr_rd_ne _ _ _ _ (by simp only [Fld.key, R.LG_SWEEP_STATUS_RESIDUE_MASK, R.LG_SWEEP_STATUS_RESIDUE_TAG, ne_eq]; omega), State.wr_rd_same, Nat.zero_mod]

theorem residueClear_ignored : ∀ (s : State) (g : Fin 64) (v : Word), (R.LG_SWEEP_STATUS_RESIDUE g).of v = 0 →
    exec (.residueClear g v) s = .next { s with ans := acked } := by
  intro s g v hv
  show execResidueClear g v s = _
  rw [execResidueClear, if_neg (by simp [hv])]
  rfl

/-- Settles O13: each clause is a lemma above about one command. -/
theorem slotSweepAndResidue : Obligations.SlotSweepAndResidue :=
  ⟨slotSweep_marks, sweepResidueReport_frees, sweepResidueReport_reports, residueClear_clears, residueClear_ignored⟩

end Sys2Proof.Machine

/-! ## Cores: what a state operation leaves of them

Rules about `State.setCore` and `State.modCore`, what an operation that does not list the cores leaves of them, and the Reeve's
operations that take back a core's interrupt: they change the cores' pending interrupts and nothing else of them. -/

namespace Sys2Proof.Machine

set_option Elab.async false

/-- Every part but `p`. -/
def partsBut (p : Part) : List Part :=
  [.pending, .regs, .ans, .hallIrq, .hostIrq, .sent, .free, .stp, .cores, .querns, .reeve, .ws, .sv, .mem, .ms, .net, .tally, .crt, .ewl,
    .mkt, .host, .cop, .strong, .boot, .pins, .hml, .pwr, .dbg].filter (· ≠ p)

/-- An operation that may change every part but `p` leaves `p`. -/
theorem Keeps.same_of_but {p : Part} {s t : State} (h : Keeps (partsBut p) s t) : p.same s t :=
  h.1 p fun hp => of_decide_eq_true (List.mem_filter.mp hp).2 rfl

/-! ### Writing a core -/

@[simp] theorem State.setCore_core (s : State) (k : Nat) (c : Core) : (s.setCore k c).core k = c := Tab.get_set_same _ _ _
theorem State.setCore_core_ne (s : State) (c : Core) {j k : Nat} (h : j ≠ k) : (s.setCore k c).core j = s.core j := Tab.get_set_ne _ _ _ _ h
@[simp] theorem State.modCore_core (s : State) (k : Nat) (f : Core → Core) : (s.modCore k f).core k = f (s.core k) := Tab.get_set_same _ _ _
theorem State.modCore_core_ne (s : State) (f : Core → Core) {j k : Nat} (h : j ≠ k) : (s.modCore k f).core j = s.core j :=
  Tab.get_set_ne _ _ _ _ h
@[simp] theorem State.setCore_regs (s : State) (k : Nat) (c : Core) : (s.setCore k c).regs = s.regs := rfl
@[simp] theorem State.modCore_regs (s : State) (k : Nat) (f : Core → Core) : (s.modCore k f).regs = s.regs := rfl
@[simp] theorem State.modCore_ms (s : State) (k : Nat) (f : Core → Core) : (s.modCore k f).ms = s.ms := rfl
@[simp] theorem State.modCore_hallIrq (s : State) (k : Nat) (f : Core → Core) : (s.modCore k f).hallIrq = s.hallIrq := rfl
@[simp] theorem State.irq_core (s : State) (x : HallSrc) (i k : Nat) : (s.irq x i).core k = s.core k := rfl

theorem State.core_congr {s t : State} (h : t.cores = s.cores) (k : Nat) : t.core k = s.core k := congrArg (fun x : Tab Core => x.get k) h

/-! ### Control registers -/

theorem Core.setCr_cr (c : Core) (n v : Nat) : (c.setCr n v).cr n = v % 2 ^ 64 := by
  rw [Core.cr, Core.setCr, Tab.get_set_same, BitVec.toNat_ofNat]

theorem Core.setCr_cr_ne (c : Core) (v : Nat) {m n : Nat} (h : m ≠ n) : (c.setCr n v).cr m = c.cr m := by
  rw [Core.cr, Core.setCr, Tab.get_set_ne _ _ _ _ h]
  rfl

/-! ### Operations that leave the cores alone -/

theorem State.setRcore_cores (s : State) (h c : Nat) (r : ReeveCore) : (s.setRcore h c r).cores = s.cores :=
  (keeps_setRcore (.refl (partsBut .cores) s) (by decide) (by decide) h c r).same_of_but

theorem State.modRcore_cores (s : State) (h c : Nat) (f : ReeveCore → ReeveCore) : (s.modRcore h c f).cores = s.cores :=
  State.setRcore_cores _ _ _ _

theorem State.setItem_cores (s : State) (k : Nat) (i : Option Item) : (s.setItem k i).cores = s.cores :=
  (keeps_setItem (.refl (partsBut .cores) s) (by decide) (by decide) k i).same_of_but

theorem State.modItem_cores (s : State) (k : Nat) (f : Item → Item) : (s.modItem k f).cores = s.cores := by
  unfold State.modItem
  split
  · exact State.setItem_cores _ _ _
  · rfl

theorem State.tapEvent_cores (s : State) (ev k : Nat) : (s.tapEvent ev k).cores = s.cores :=
  (keeps_tapEvent (.refl (partsBut .cores) s) (by decide) (by decide) ev k).same_of_but

theorem State.countEnd_cores (s : State) (i : Item) (o : ItemEnd) : (s.countEnd i o).cores = s.cores :=
  (keeps_countEnd (.refl (partsBut .cores) s) (by decide) i o).same_of_but

theorem State.sendSuccs_cores (s : State) (i : Item) (lapse : Bool) : (s.sendSuccs i lapse).cores = s.cores :=
  (keeps_sendSuccs (.refl (partsBut .cores) s) (by decide) (by decide) (by decide) (by decide) (by decide) i lapse).same_of_but

theorem State.setFlags_cores (s : State) (g : Nat) (v : DWord) : (s.setFlags g v).cores = s.cores :=
  (keeps_setFlags (.refl (partsBut .cores) s) (by decide) g v).same_of_but

theorem State.postReport_cores (s : State) (k : Nat) : (s.postReport k).cores = s.cores :=
  (keeps_postReport (.refl (partsBut .cores) s) (by decide) (by decide) (by decide) (by decide) k).same_of_but

theorem State.release_cores (s : State) (k : Nat) : (s.release k).cores = s.cores :=
  (keeps_release (.refl (partsBut .cores) s) (by decide) (by decide) (by decide) (by decide) (by decide) k).same_of_but

theorem State.quernForce_cores (s : State) (h c k : Nat) : (s.quernForce h c k).cores = s.cores :=
  (keeps_quernForce (.refl (partsBut .cores) s) (by decide) (by decide) h c k).same_of_but

theorem State.cutItem_cores (s : State) (h c k : Nat) : (s.cutItem h c k).cores = s.cores := by
  rw [State.cutItem, State.inc_cores, State.release_cores, State.quernForce_cores]

/-! ### Operations that change pending interrupts only -/

/-- From `s` to `t` a core may lose or gain pending interrupts and keeps all else. -/
def SameButIrqs (s t : State) : Prop := ∀ k, ∃ l, t.core k = { s.core k with irqs := l }

theorem SameButIrqs.of_cores {s t u : State} (h : SameButIrqs s t) (e : u.cores = t.cores) : SameButIrqs s u := fun k => by
  obtain ⟨l, hl⟩ := h k
  exact ⟨l, (State.core_congr e k).trans hl⟩

theorem SameButIrqs.refl (s : State) : SameButIrqs s s := fun k => ⟨(s.core k).irqs, rfl⟩

theorem SameButIrqs.modCore {s t : State} (h : SameButIrqs s t) (j : Nat) {f : Core → Core} (hf : ∀ c, ∃ l, f c = { c with irqs := l }) :
    SameButIrqs s (t.modCore j f) := fun k => by
  obtain ⟨l, hl⟩ := h k
  by_cases hk : k = j
  · subst hk
    obtain ⟨l', hl'⟩ := hf (t.core k)
    exact ⟨l', by rw [State.modCore_core, hl', hl]⟩
  · exact ⟨l, by rw [State.modCore_core_ne _ _ hk, hl]⟩

theorem SameButIrqs.coreUnirq {s t : State} (h : SameButIrqs s t) (j code : Nat) : SameButIrqs s (t.coreUnirq j code) :=
  h.modCore j fun _ => ⟨_, rfl⟩

theorem SameButIrqs.coreIrq {s t : State} (h : SameButIrqs s t) (j code : Nat) : SameButIrqs s (t.coreIrq j code) :=
  h.modCore j fun _ => ⟨_, rfl⟩

theorem SameButIrqs.withdraw {s t : State} (h : SameButIrqs s t) (x c : Nat) : SameButIrqs s (t.withdraw x c) := by
  unfold State.withdraw
  dsimp only
  split
  · exact (h.coreUnirq _ _).of_cores (State.setRcore_cores _ _ _ _)
  · exact h

theorem SameButIrqs.foldl {α : Type} {g : State → α → State} {s : State} (hg : ∀ t a, SameButIrqs s t → SameButIrqs s (g t a)) :
    ∀ (xs : List α) {t : State}, SameButIrqs s t → SameButIrqs s (xs.foldl g t)
  | [], _, h => h
  | a :: r, t, h => SameButIrqs.foldl hg r (hg t a h)

theorem SameButIrqs.unreserve {s t : State} (h : SameButIrqs s t) (slot : Nat) : SameButIrqs s (t.unreserve slot) := by
  refine SameButIrqs.foldl (fun u k hu => ?_) _ h
  dsimp only
  split
  · exact hu.of_cores (State.modRcore_cores _ _ _ _)
  · exact hu.withdraw _ _

theorem SameButIrqs.conclude {s t : State} (h : SameButIrqs s t) (slot : Nat) (o : ItemEnd) (late : Bool) :
    SameButIrqs s (t.conclude slot o late) := by
  unfold State.conclude
  split
  · exact h
  · dsimp only
    refine SameButIrqs.unreserve (h.of_cores ?_) slot
    rw [State.postReport_cores, State.tapEvent_cores]
    split
    · rw [State.setFlags_cores, State.sendSuccs_cores, State.countEnd_cores, State.setItem_cores]
    · rw [State.sendSuccs_cores, State.countEnd_cores, State.setItem_cores]

theorem SameButIrqs.haltItem {s t : State} (h : SameButIrqs s t) (x c : Nat) : SameButIrqs s (t.haltItem x c) := by
  unfold State.haltItem
  refine SameButIrqs.of_cores (SameButIrqs.withdraw ?_ x c) (State.modRcore_cores _ _ _ _)
  split
  · exact h
  · refine SameButIrqs.of_cores ?_ (State.cutItem_cores _ _ _ _)
    split
    · split
      · exact h.conclude _ _ _
      · exact h
    · exact h

end Sys2Proof.Machine

/-! ## A sheaf of one syllable (R62, R68, R70, R73, R75, R80, R81, R110) -/

namespace Sys2Proof.Machine

set_option Elab.async false

open Sys2Proof.Claims

/-- Acts that neither hold their sheaf nor access memory: none, a control transfer, and the two traps asked for. -/
def Act.plain : Act → Bool
  | .none => true
  | .goto _ => true
  | .sys => true
  | .brk => true
  | _ => false

/-- The word's register writes, as a sheaf of one syllable commits them. -/
def State.oneCommitted (s : State) (k next : Nat) (y : Syl) (e : Eff) : State :=
  s.modCore k (fun c => { (c.commitWrites k (e.ws.map (fun r => (r, isCrw y.op && decide (syMajor y.w = 0x1C))))).sticky [e] with pc := next })

/-- What a plain act does once its sheaf has committed. -/
def State.onePlainAct (t : State) (k next : Nat) (a : Act) : State :=
  match a with
  | .goto p => t.modCore k (fun c => { c with pc := p / 4 * 4 })
  | .sys => t.trapSync k { code := 13, resume := next }
  | .brk => t.trapSync k { code := 14, resume := next }
  | _ => t

theorem State.onePlainAct_none (t : State) (k next : Nat) : t.onePlainAct k next .none = t := rfl
theorem State.onePlainAct_goto (t : State) (k next p : Nat) : t.onePlainAct k next (.goto p) = t.modCore k (fun c => { c with pc := p / 4 * 4 }) := rfl
theorem Ctx.toG_act (x : Ctx) (v : Int) (b : Bool) : (x.toG v b).act = .none := rfl

theorem State.commit_one_plain (s : State) (k next : Nat) (y : Syl) (e : Eff) (he : e.act.plain = true) :
    s.commit k [y] next [(0, { eff := e })] = (s.oneCommitted k next y e).onePlainAct k next e.act := by
  obtain ⟨ws, ovf, aov, fl, act⟩ := e
  cases act with
  | none | goto _ | sys | brk =>
    simp [State.commit, State.applyWalk, clearsResume, isQueued, orderActs, State.commitStore, State.commitRest, State.oneCommitted,
      State.onePlainAct]
  | _ => cases he

/-- No single syllable whose own registers differ makes an illegal sheaf. -/
theorem sheafBad_one {y : Syl} (hd : hasDup (dests y) = false) : sheafBad [y] = false := by
  have hcls (c : Nat) : ¬ classLimit c < ([classOf (syMajor y.w)].filter (fun x => x == c)).length := by
    have h1 : 1 ≤ classLimit c := by unfold classLimit; split_ifs <;> decide
    have h2 : ([classOf (syMajor y.w)].filter (fun x => x == c)).length ≤ 1 := List.length_filter_le _ _
    omega
  have hmem : ¬ 2 < ([classOf (syMajor y.w)].filter isMemClass).length := by
    have : ([classOf (syMajor y.w)].filter isMemClass).length ≤ 1 := List.length_filter_le _ _
    omega
  simp only [sheafBad, List.map_cons, List.map_nil, decide_eq_false (hcls _), decide_eq_false hmem, List.length_singleton,
    List.flatMap_cons, List.flatMap_nil, List.append_nil, hd, Bool.or_false]
  simp

theorem Core.pv_zero (c : Core) : c.pv 0 = BitVec.allOnes 128 := rfl

/-- A syllable under guard p0 that does not bite does what it evaluates to. -/
theorem Ctx.guarded_p0 {x : Ctx} {y : Syl} (s : State) (slot : Nat) (ans : List SyncAns) (hb : y.bad = false) (hp : syPred y.w = 0)
    (hn : syPneg y.w = false) : x.guarded s y slot ans = match x.evaluate s y.op slot ans with
      | .error t => .error { t with slot := slot }
      | .ok e => .ok (some e) := by
  have hbit : (BitVec.allOnes 128).getLsbD 0 = true := by decide
  simp [Ctx.guarded, hb, hp, hn, Core.pv_zero, Core.ptag] <;> rfl

/-- The context in which the sheaf of core `k` evaluates the word `w`. -/
def State.oneCtx (s : State) (k : Nat) (w : Word) : Ctx := ⟨k, s.core k, w, (s.core k).pc, ((s.core k).pc + 4) % 2 ^ xlen k⟩

/-- Hypotheses under which core `k` issues the sheaf of the one syllable `y`. -/
structure OneSyl (s : State) (k : Nat) (w : Word) (sys : List SysOp) (y : Syl) : Prop where
  sheaf : oneSheaf s k w
  ops : giveOps [⟨w, false, .reserved⟩] sys = [y]
  word : y.w = w
  clean : y.bad = false
  dest : hasDup (dests y) = false

section
variable {s : State} {k : Nat} {w : Word} {sys : List SysOp} {y : Syl} {ans : List SyncAns}

/-- A sheaf of one syllable goes by what the syllable evaluates to. -/
theorem OneSyl.issue_eq (h : OneSyl s k w sys y) : s.issue k sys ans =
    (match s.evalAll k (s.core k) (s.core k).pc (((s.core k).pc + 4) % 2 ^ xlen k) ans 0 [y] with
     | (ev, some (x, part)) =>
       if (match part with | some e => s.holds k (s.core k) e.eff.act | none => false) then s
       else (s.sheafTrap k (s.core k).pc x part
         (if isD k then s.jobsIn k (s.core k) (s.core k).pc (((s.core k).pc + 4) % 2 ^ xlen k) ans [y] else 0)).afterIssue k
     | (ev, none) =>
       let newLoads := (ev.filter (fun r => match r.2.eff.act with | .load x => decide (x.mask ≠ 1) | _ => false)).length
       if ev.any (fun r => s.holds k (s.core k) r.2.eff.act) ∨ (0 < newLoads ∧ 8 < 0 + newLoads) then s
       else (s.commit k [y] (((s.core k).pc + 4) % 2 ^ xlen k) ev).afterIssue k) := by
  obtain ⟨⟨hrun, ⟨hdbg, hstep⟩, ⟨hacc, herr⟩, hbp, hfetch, hguard⟩, hops, hw, hbad, hdest⟩ := h
  have hdef : (s.core k).deferred = none := by simp [Core.deferred, herr]
  have hloads : (s.core k).loadsOut = 0 := by simp [Core.loadsOut, hacc]
  have hwait : waitsForLoad (s.core k) [y] = false := by simp [waitsForLoad, hacc]
  have hany : [y].any (·.bad) = false := by simp [hbad]
  simp only [State.issue, hrun, hdbg, hdef, hbp, hfetch, hops, hany, sheafBad_one hdest, hwait, hloads]
  simp only [ne_eq, not_true_eq_false, Bool.false_eq_true, false_and, or_self, if_false, Bool.not_true, Bool.or_false, Bool.and_false,
    List.length_singleton, mul_one, Nat.lt_irrefl]
  generalize s.evalAll k (s.core k) (s.core k).pc (((s.core k).pc + 4) % 2 ^ xlen k) ans 0 [y] = ev
  obtain ⟨l, r⟩ := ev
  cases r <;> rfl

theorem OneSyl.guarded_eq (h : OneSyl s k w sys y) : Ctx.guarded ⟨k, s.core k, y.w, (s.core k).pc, ((s.core k).pc + 4) % 2 ^ xlen k⟩ s y 0 ans =
    match (s.oneCtx k w).evaluate s y.op 0 ans with
      | .error t => .error { t with slot := 0 }
      | .ok e => .ok (some e) := by
  rw [Ctx.guarded_p0 s 0 ans h.clean (h.word ▸ h.sheaf.guard.1) (h.word ▸ h.sheaf.guard.2), h.word]
  rfl

/-- A syllable with a plain effect commits it. -/
theorem OneSyl.commits (h : OneSyl s k w sys y) {e : Eff} (hev : (s.oneCtx k w).evaluate s y.op 0 ans = .ok { eff := e })
    (hact : e.act.plain = true) : s.issue k sys ans =
      (((s.oneCommitted k (((s.core k).pc + 4) % 2 ^ xlen k) y e).onePlainAct k (((s.core k).pc + 4) % 2 ^ xlen k) e.act).afterIssue k) := by
  have hfault : elemFault { eff := e } = none := by
    obtain ⟨ws, ovf, aov, fl, act⟩ := e
    cases act <;> first | rfl | cases hact
  have hnone : s.holds k (s.core k) e.act = false ∧ (match e.act with | .load x => decide (x.mask ≠ 1) | _ => false) = false := by
    obtain ⟨ws, ovf, aov, fl, act⟩ := e
    cases act <;> first | exact ⟨rfl, rfl⟩ | cases hact
  have hall : s.evalAll k (s.core k) (s.core k).pc (((s.core k).pc + 4) % 2 ^ xlen k) ans 0 [y] = ([(0, { eff := e })], none) := by
    simp only [State.evalAll, h.guarded_eq, hev, hfault]
  rw [h.issue_eq, hall]
  simp only [List.any_cons, List.any_nil, hnone.1, hnone.2, Bool.or_false, Bool.false_eq_true, false_or, List.filter_cons, List.filter_nil,
    if_false, List.length_nil, Nat.lt_irrefl, false_and, State.commit_one_plain _ _ _ _ _ hact]

/-- A syllable that faults traps; no job of its sheaf is squashed. -/
theorem OneSyl.faults (h : OneSyl s k w sys y) {t : Trap} (hev : (s.oneCtx k w).evaluate s y.op 0 ans = .error t) : s.issue k sys ans =
    (s.sheafTrap k (s.core k).pc { t with slot := 0 } none 0).afterIssue k := by
  have hall : s.evalAll k (s.core k) (s.core k).pc (((s.core k).pc + 4) % 2 ^ xlen k) ans 0 [y] = ([], some ({ t with slot := 0 }, none)) := by
    simp only [State.evalAll, h.guarded_eq, hev]
  have hjobs : s.jobsIn k (s.core k) (s.core k).pc (((s.core k).pc + 4) % 2 ^ xlen k) ans [y] = 0 := by
    simp [State.jobsIn, h.guarded_eq, hev]
  rw [h.issue_eq, hall]
  simp only [hjobs, ite_self, Bool.false_eq_true, if_false]

/-- Core `k` steps no further: after the sheaf only DBG_PASS is cleared. -/
theorem State.afterIssue_of_no_step {t : State} (h : (t.core k).dbgStep = false) :
    t.afterIssue k = t.modCore k (fun x => { x with dbgPass := false }) := by
  simp [State.afterIssue, h]

end

/-! ### What the syllable's class commits (O14) -/

theorem giveOps_plain {w : Word} {sys : List SysOp} (h : ¬ (syMajor w = 0x1C ∨ syMajor w = 0x1D ∨ syMajor w = 0x1F)) :
    giveOps [⟨w, false, .reserved⟩] sys = [⟨w, false, .reserved⟩] := by
  simp only [giveOps, if_neg h]

theorem Core.sticky_of_none (c : Core) {e : Eff} (ho : e.ovf = false) (ha : e.aov = false) (hf : e.fl = 0) : c.sticky [e] = c := by
  simp [Core.sticky, ho, ha, hf, orFl]

theorem trunc_lt (w : Nat) (x : Int) : trunc w x < 2 ^ w := by
  have hpos : (0 : Int) < ((2 ^ w : Nat) : Int) := by exact_mod_cast Nat.two_pow_pos w
  have h0 := Int.emod_nonneg x hpos.ne'
  have h1 := Int.emod_lt_of_pos x hpos
  unfold trunc
  omega

theorem xlen_le (k : Nat) : xlen k ≤ 64 := by
  unfold xlen
  split <;> decide

/-- A truncated value is held whole in a g register. -/
theorem toNat_ofNat_trunc (k : Nat) (x : Int) : (BitVec.ofNat 64 (trunc (xlen k) x % 2 ^ xlen k)).toNat = trunc (xlen k) x := by
  have h := trunc_lt (xlen k) x
  rw [Nat.mod_eq_of_lt h, BitVec.toNat_ofNat, Nat.mod_eq_of_lt (lt_of_lt_of_le h (Nat.pow_le_pow_right (by decide) (xlen_le k)))]

/-- What writing one g register leaves to be read. -/
theorem Core.write_g_gv (c : Core) (k d : Nat) (x : Int) (t : Bool) :
    (c.write k (.g d (trunc (xlen k) x) t)).gv d = if d = 0 then 0 else trunc (xlen k) x := by
  by_cases hd : d = 0
  · simp [Core.write, Core.gv, hd]
  · simp only [Core.write, Core.gv, hd, if_false, Tab.get_set_same, toNat_ofNat_trunc]

theorem Core.write_g_gtag (c : Core) (k d v : Nat) (t : Bool) : (c.write k (.g d v t)).gtag d = (d != 0 && t) := by
  by_cases hd : d = 0
  · simp [Core.gtag, hd]
  · simp [Core.write, Core.gtag, hd]

theorem Core.write_g_ne (c : Core) (k v : Nat) (t : Bool) {n d : Nat} (h : n ≠ d) :
    (c.write k (.g d v t)).gv n = c.gv n ∧ (c.write k (.g d v t)).gtag n = c.gtag n := by
  unfold Core.write
  dsimp only
  split
  · exact ⟨rfl, rfl⟩
  · simp only [Core.gv, Core.gtag, Tab.get_set_ne _ _ _ _ h, and_self]

theorem Core.write_g_level (c : Core) (k d v : Nat) (t : Bool) : (c.write k (.g d v t)).level = c.level ∧ (c.write k (.g d v t)).dbgStep = c.dbgStep := by
  unfold Core.write
  dsimp only
  split <;> exact ⟨rfl, rfl⟩

/-- An effect that sets no sticky status. -/
def Eff.quiet (e : Eff) : Prop := e.ovf = false ∧ e.aov = false ∧ e.fl = 0

theorem State.oneCommitted_core {e : Eff} (he : e.quiet) (s : State) (k next : Nat) (y : Syl) : (s.oneCommitted k next y e).core k =
    { (s.core k).commitWrites k (e.ws.map (fun r => (r, isCrw y.op && decide (syMajor y.w = 0x1C)))) with pc := next } := by
  rw [State.oneCommitted, State.modCore_core, Core.sticky_of_none _ he.1 he.2.1 he.2.2]

theorem sheafIssue_addi : ∀ (s : State) (core : Fin 161) (w : Word) (sys : List SysOp) (ans : List SyncAns), oneSheaf s core w → syMajor w = 0x01 →
    ∃ t, exec (.sheafIssue core sys ans) s = .next t ∧ (t.core core).pc = ((s.core core).pc + 4) % 2 ^ xlen core ∧
      (t.core core).gv (syD w) = (if syD w = 0 then 0 else
        trunc (xlen core) (sext (xlen core) ((s.core core).gv (syA w)) + syImm11 w)) ∧
      (t.core core).gtag (syD w) = (syD w != 0 && (s.core core).gtag (syA w)) ∧
      (∀ n, n ≠ syD w → (t.core core).gv n = (s.core core).gv n ∧ (t.core core).gtag n = (s.core core).gtag n) ∧
      (t.core core).level = (s.core core).level ∧ t.regs = s.regs ∧ t.ms = s.ms := by
  intro s core w sys ans h hm
  have hone : OneSyl s core w sys ⟨w, false, .reserved⟩ := ⟨h, giveOps_plain (by omega), rfl, rfl, by
    simp only [dests, hm]
    split_ifs <;> rfl⟩
  have hev : (s.oneCtx core w).evaluate s .reserved 0 ans =
      .ok { eff := (s.oneCtx core w).toG (sext (xlen core) ((s.core core).gv (syA w)) + syImm11 w) ((s.core core).gtag (syA w)) } := by
    simp only [Ctx.evaluate, State.oneCtx, hm]
    simp [classOf, MRes.ofRes, Ctx.integer, hm, Ctx.xl, Ctx.ga, Ctx.ta]
  have hcore := State.oneCommitted_core (e := (s.oneCtx core w).toG (sext (xlen core) ((s.core core).gv (syA w)) + syImm11 w) ((s.core core).gtag (syA w)))
    ⟨rfl, rfl, rfl⟩ s core (((s.core core).pc + 4) % 2 ^ xlen core) ⟨w, false, .reserved⟩
  refine ⟨_, congrArg Host.Outcome.next ((hone.commits hev rfl).trans (State.afterIssue_of_no_step ?_)), ?_⟩
  · exact (congrArg Core.dbgStep hcore).trans ((Core.write_g_level _ _ _ _ _).2.trans h.noDebug.2)
  · rw [State.modCore_core, Ctx.toG_act, State.onePlainAct_none, hcore]
    exact ⟨rfl, Core.write_g_gv _ _ _ _ _, Core.write_g_gtag _ _ _ _ _, fun n hn => Core.write_g_ne _ _ _ _ hn, (Core.write_g_level _ _ _ _ _).1, rfl, rfl⟩

theorem sheafIssue_branch : ∀ (s : State) (core : Fin 161) (w : Word) (sys : List SysOp) (ans : List SyncAns), oneSheaf s core w → syMajor w = 0x18 →
    ∃ t, exec (.sheafIssue core sys ans) s = .next t ∧
      (t.core core).pc = trunc (xlen core) (((s.core core).pc : Int) + syOff21 w * 4) / 4 * 4 ∧ (t.core core).g = (s.core core).g ∧
      t.regs = s.regs ∧ t.ms = s.ms := by
  intro s core w sys ans h hm
  have hone : OneSyl s core w sys ⟨w, false, .reserved⟩ := ⟨h, giveOps_plain (by omega), rfl, rfl, by simp only [dests, hm]; rfl⟩
  have hev : (s.oneCtx core w).evaluate s .reserved 0 ans =
      .ok { eff := { act := .goto (trunc (xlen core) (((s.core core).pc : Int) + syOff21 w * 4)) } } := by
    simp only [Ctx.evaluate, State.oneCtx, hm]
    simp [classOf, MRes.ofRes, Ctx.control, hm, Ctx.xl]
  have hcore := State.oneCommitted_core (e := { act := .goto (trunc (xlen core) (((s.core core).pc : Int) + syOff21 w * 4)) })
    ⟨rfl, rfl, rfl⟩ s core (((s.core core).pc + 4) % 2 ^ xlen core) ⟨w, false, .reserved⟩
  refine ⟨_, congrArg Host.Outcome.next ((hone.commits hev rfl).trans (State.afterIssue_of_no_step ?_)), ?_⟩
  · rw [State.onePlainAct_goto, State.modCore_core]
    exact (congrArg Core.dbgStep hcore).trans h.noDebug.2
  · rw [State.modCore_core, State.onePlainAct_goto, State.modCore_core, hcore]
    exact ⟨rfl, rfl, rfl, rfl⟩

/-- Settles O14: each clause is a lemma above about one class. -/
theorem sheafOfOneSyllable : Obligations.SheafOfOneSyllable := ⟨sheafIssue_addi, sheafIssue_branch⟩

end Sys2Proof.Machine

/-! ## Traps of a sheaf (R73, R75, R80, R81) -/

namespace Sys2Proof.Machine

set_option Elab.async false

open Sys2Proof.Claims

theorem Core.status_lt (c : Core) : c.status < 256 := by
  have : levelCode c.level ≤ 3 := by unfold levelCode; split <;> decide
  unfold Core.status
  split_ifs <;> omega

theorem nbit_two_pow_add {r i : Nat} (h : r < 2 ^ i) : nbit (2 ^ i + r) i = true := by
  rw [nbit, Nat.add_div_left _ (Nat.two_pow_pos i), Nat.div_eq_of_lt h]
  rfl

theorem Core.setCr_parts (c : Core) (n v : Nat) : (c.setCr n v).g = c.g ∧ (c.setCr n v).p = c.p ∧ (c.setCr n v).dbgStep = c.dbgStep :=
  ⟨rfl, rfl, rfl⟩

theorem Core.enter_dbgStep (c : Core) (k : Nat) (l : Level) (esc : Bool) (e : Entry) : (c.enter k l esc e).dbgStep = c.dbgStep := by
  simp only [Core.enter, Core.setCr_parts]

/-- The fields of the core that a trap entry sets beside the trap registers, and the files that it leaves. -/
theorem Core.enter_parts (c : Core) (k : Nat) (l : Level) (esc : Bool) (e : Entry) : (c.enter k l esc e).level = l ∧ (c.enter k l esc e).ie = false ∧
    (c.enter k l esc e).pc = (c.cr (trapBase l) + (if e.irq then e.code * 0x40 else 0)) % 2 ^ xlen k ∧ (c.enter k l esc e).g = c.g ∧
    (c.enter k l esc e).p = c.p := by
  simp only [Core.enter, Core.setCr_parts, and_self]

theorem Core.enter_code (c : Core) (k : Nat) (l : Level) (esc : Bool) (e : Entry) :
    (c.enter k l esc e).cr (trapBase l + 1) = ((if e.irq then 0x100 else 0) + e.code) % 2 ^ 64 := by
  show (((Core.setCr _ _ _).setCr _ _).setCr _ _).cr (trapBase l + 1) = _
  rw [Core.setCr_cr_ne _ _ (by omega), Core.setCr_cr_ne _ _ (by omega), Core.setCr_cr]

theorem Core.enter_resume (c : Core) (k : Nat) (l : Level) (esc : Bool) (e : Entry) :
    (c.enter k l esc e).cr (trapBase l + 2) = e.resume % 2 ^ 64 := by
  show ((((Core.setCr _ _ _).setCr _ _).setCr _ _).setCr _ _).cr (trapBase l + 2) = _
  rw [Core.setCr_cr_ne _ _ (by omega), Core.setCr_cr_ne _ _ (by omega), Core.setCr_cr_ne _ _ (by omega), Core.setCr_cr]

/-- An entry without a deferred error or a bite marks its level busy. -/
theorem Core.enter_busy (c : Core) (k : Nat) (l : Level) (esc : Bool) {e : Entry} (hd : e.defer = false) (hu : e.use = 0) (hr : e.reg = 0)
    (hf : e.file = 0) (hs : e.slot = 0) : nbit ((c.enter k l esc e).cr (trapBase l + 4)) 31 = true := by
  have hst := c.status_lt
  show nbit ((Core.setCr _ _ _).cr (trapBase l + 4)) 31 = true
  rw [Core.setCr_cr, hd, hu, hr, hf, hs, nbit_mod_two_pow (by decide)]
  simp only [Bool.false_eq_true, if_false, add_zero, zero_mul, add_assoc]
  refine nbit_two_pow_add ?_
  split_ifs <;> omega

/-- What a trap entry without a deferred error or a bite leaves in the core (R80). -/
theorem Core.entered_enter (c : Core) (k : Nat) (l : Level) (esc : Bool) {e : Entry} (hd : e.defer = false) (hu : e.use = 0) (hr : e.reg = 0)
    (hf : e.file = 0) (hs : e.slot = 0) (hcode : e.code < 256) (hres : e.resume < 2 ^ 64) :
    entered c (c.enter k l esc e) k l ((if e.irq then 0x100 else 0) + e.code) e.resume (c.cr (trapBase l) + (if e.irq then e.code * 0x40 else 0)) := by
  obtain ⟨hlevel, hie, hpc, hg, hp⟩ := c.enter_parts k l esc e
  refine ⟨hlevel, hie, ?_, ?_, hpc, ?_, hg, hp⟩
  · rw [Core.enter_code]
    exact Nat.mod_eq_of_lt (by split <;> omega)
  · rw [Core.enter_resume, Nat.mod_eq_of_lt hres]
  · exact c.enter_busy k l esc hd hu hr hf hs

/-- The value of the trap value register after an entry. -/
theorem Core.enter_tval (c : Core) (k : Nat) (l : Level) (esc : Bool) (e : Entry) :
    (c.enter k l esc e).cr (trapBase l + 3) = e.tval % 2 ^ xlen k % 2 ^ 64 := by
  show ((Core.setCr _ _ _).setCr _ _).cr (trapBase l + 3) = _
  rw [Core.setCr_cr_ne _ _ (by omega), Core.setCr_cr]

theorem Core.routeSync_keeper {c : Core} (h : c.level = .keeper) (code : Nat) : c.routeSync code = .keeper := by
  simp [Core.routeSync, h]

/-- A synchronous trap at a free Keeper level is taken there. -/
theorem State.trapSync_keeper {s : State} {k : Nat} (hl : (s.core k).level = .keeper) (hb : (s.core k).busy .keeper = false) (e : Entry) :
    s.trapSync k e = s.setCore k ((s.core k).enter k .keeper false e) := by
  simp [State.trapSync, Core.routeSync_keeper hl, hb]

/-- A synchronous trap at a busy Keeper level halts the core. -/
theorem State.trapSync_busy {s : State} {k : Nat} (hl : (s.core k).level = .keeper) (hb : (s.core k).busy .keeper = true) (e : Entry) :
    s.trapSync k e = s.haltCore k := by
  simp [State.trapSync, Core.routeSync_keeper hl, hb]

theorem entered.clear_dbgPass {c c' : Core} {k code resume vector : Nat} {l : Level} (h : entered c c' k l code resume vector) :
    entered c { c' with dbgPass := false } k l code resume vector := h

/-! ### Sys and brk -/

/-- A system syllable with an operation that needs no register, as its sheaf holds it. -/
theorem oneSyl_system {s : State} {k : Nat} {w : Word} (h : oneSheaf s k w) (hm : syMajor w = 0x1C) {op : SysOp} (hop : op = .sys ∨ op = .brk) :
    OneSyl s k w [op] ⟨w, false, op⟩ :=
  ⟨h, by simp [giveOps, hm], rfl, rfl, by rcases hop with rfl | rfl <;> · simp only [dests, hm]; rfl⟩

theorem evaluate_system {s : State} {k : Nat} {w : Word} (hm : syMajor w = 0x1C) (op : SysOp) (ans : List SyncAns) :
    (s.oneCtx k w).evaluate s op 0 ans = MRes.ofRes ((s.oneCtx k w).system s op) := by
  simp [Ctx.evaluate, State.oneCtx, hm, classOf]

/-- The core that takes the trap asked for: its sheaf has committed. -/
theorem oneCommitted_bare {s : State} {k next : Nat} (y : Syl) (a : Act) : (s.oneCommitted k next y { act := a }).core k =
    { s.core k with pc := next } := State.oneCommitted_core ⟨rfl, rfl, rfl⟩ s k next y

/-- Sys and brk take their trap at a free Keeper level. -/
theorem sheafIssue_system_traps {s : State} {core : Fin 161} {w : Word} {ans : List SyncAns} (h : oneSheaf s core w) (hm : syMajor w = 0x1C)
    (hl : (s.core core).level = .keeper) (hb : (s.core core).busy .keeper = false) {op : SysOp} {code : Nat}
    (hop : op = .sys ∧ code = 13 ∨ op = .brk ∧ code = 14) : ∃ t, exec (.sheafIssue core [op] ans) s = .next t ∧
      entered (s.core core) (t.core core) core .keeper code (((s.core core).pc + 4) % 2 ^ xlen core) ((s.core core).cr 0xC00) := by
  have hone := oneSyl_system h hm (hop.imp And.left And.left)
  obtain ⟨act, hact, hsys, htrap⟩ : ∃ act : Act, act.plain = true ∧ (s.oneCtx core w).system s op = .ok { act := act } ∧
      ∀ (t : State) (n : Nat), t.onePlainAct core n act = t.trapSync core { code := code, resume := n } := by
    rcases hop with ⟨rfl, rfl⟩ | ⟨rfl, rfl⟩
    · exact ⟨.sys, rfl, rfl, fun _ _ => rfl⟩
    · exact ⟨.brk, rfl, rfl, fun _ _ => rfl⟩
  have hev : (s.oneCtx core w).evaluate s op 0 ans = .ok { eff := { act := act } } := by rw [evaluate_system hm, hsys]; rfl
  have hcore := oneCommitted_bare (s := s) (k := core) (next := ((s.core core).pc + 4) % 2 ^ xlen core) ⟨w, false, op⟩ act
  have hlev := (congrArg Core.level hcore).trans hl
  have hbusy := (congrArg (fun c : Core => c.busy .keeper) hcore).trans hb
  have hissue := hone.commits hev hact
  rw [htrap, State.trapSync_keeper hlev hbusy, hcore, State.afterIssue_of_no_step (by rw [State.setCore_core, Core.enter_dbgStep]; exact h.noDebug.2)] at hissue
  have hnext : ((s.core core).pc + 4) % 2 ^ xlen core < 2 ^ 64 :=
    lt_of_lt_of_le (Nat.mod_lt _ (Nat.two_pow_pos _)) (Nat.pow_le_pow_right (by decide) (xlen_le core))
  have hcode : code < 256 := by omega
  refine ⟨_, congrArg Host.Outcome.next hissue, ?_⟩
  rw [State.modCore_core, State.setCore_core]
  have hent := Core.entered_enter { s.core core with pc := ((s.core core).pc + 4) % 2 ^ xlen core } core .keeper false
    (e := { code := code, resume := ((s.core core).pc + 4) % 2 ^ xlen core }) rfl rfl rfl rfl rfl hcode hnext
  simp only [Bool.false_eq_true, if_false, zero_add, add_zero] at hent
  exact hent

theorem sheafIssue_sys_brk : ∀ (s : State) (core : Fin 161) (w : Word) (ans : List SyncAns), oneSheaf s core w → syMajor w = 0x1C →
    (s.core core).level = .keeper → (s.core core).busy .keeper = false →
    (∃ t, exec (.sheafIssue core [.sys] ans) s = .next t ∧ entered (s.core core) (t.core core) core .keeper 13
      (((s.core core).pc + 4) % 2 ^ xlen core) ((s.core core).cr 0xC00)) ∧
    (∃ t, exec (.sheafIssue core [.brk] ans) s = .next t ∧ entered (s.core core) (t.core core) core .keeper 14
      (((s.core core).pc + 4) % 2 ^ xlen core) ((s.core core).cr 0xC00)) := fun _ _ _ _ h hm hl hb =>
  ⟨sheafIssue_system_traps h hm hl hb (.inl ⟨rfl, rfl⟩), sheafIssue_system_traps h hm hl hb (.inr ⟨rfl, rfl⟩)⟩

/-! ### The double fault -/

/-- A hamlet core that halts by a double fault is halted, and the Hall learns of it. -/
theorem State.haltCore_halts (s : State) {k : Nat} (hk : k < 144) :
    ((s.haltCore k).core k).run = .halted ∧ ((s.haltCore k).core k).dbgStep = (s.core k).dbgStep ∧ ⟨.doubleFault, k⟩ ∈ (s.haltCore k).hallIrq := by
  obtain ⟨l, hl⟩ := (SameButIrqs.refl (s.modCore k (fun c => { c with run := .halted }))).haltItem (hamOf k)
    ((s.modCore k (fun c => { c with run := .halted })).logicalOf (hamOf k) (phyOf k)) k
  rw [State.modCore_core] at hl
  simp only [State.haltCore, if_pos hk, State.irq_core, hl]
  exact ⟨trivial, trivial, State.irq_hallIrq_mem _ _ _⟩

theorem sheafIssue_double_fault : ∀ (s : State) (core : Fin 161) (w : Word) (ans : List SyncAns), oneSheaf s core w → syMajor w = 0x1C →
    (s.core core).level = .keeper → (s.core core).busy .keeper = true → core.val < 144 →
    ∃ t, exec (.sheafIssue core [.sys] ans) s = .next t ∧ (t.core core).run = .halted ∧ ⟨.doubleFault, core⟩ ∈ t.hallIrq := by
  intro s core w ans h hm hl hb hk
  have hone := oneSyl_system (op := .sys) h hm (.inl rfl)
  have hev : (s.oneCtx core w).evaluate s .sys 0 ans = .ok { eff := { act := .sys } } := by rw [evaluate_system hm]; rfl
  have hcore := oneCommitted_bare (s := s) (k := core) (next := ((s.core core).pc + 4) % 2 ^ xlen core) ⟨w, false, .sys⟩ .sys
  have hlev := (congrArg Core.level hcore).trans hl
  have hbusy := (congrArg (fun c : Core => c.busy .keeper) hcore).trans hb
  obtain ⟨hrun, hstep, hirq⟩ := State.haltCore_halts (s.oneCommitted core (((s.core core).pc + 4) % 2 ^ xlen core) ⟨w, false, .sys⟩ { act := .sys }) hk
  have hissue := hone.commits hev rfl
  rw [State.onePlainAct, State.trapSync_busy hlev hbusy, State.afterIssue_of_no_step (hstep.trans ((congrArg Core.dbgStep hcore).trans h.noDebug.2))]
    at hissue
  refine ⟨_, congrArg Host.Outcome.next hissue, ?_, hirq⟩
  rw [State.modCore_core]
  exact hrun

/-! ### An undefined class -/

theorem sheafIssue_undefined : ∀ (s : State) (core : Fin 161) (w : Word) (sys : List SysOp) (ans : List SyncAns), oneSheaf s core w → syMajor w = 0x2F →
    (s.core core).level = .keeper → (s.core core).busy .keeper = false → (s.core core).pc < 2 ^ 32 →
    ∃ t, exec (.sheafIssue core sys ans) s = .next t ∧ (t.core core).cr 0xC03 = w.toNat ∧
      entered (s.core core) (t.core core) core .keeper 1 (s.core core).pc ((s.core core).cr 0xC00) := by
  intro s core w sys ans h hm hl hb hpc
  have hone : OneSyl s core w sys ⟨w, false, .reserved⟩ := ⟨h, giveOps_plain (by omega), rfl, rfl, by simp only [dests, hm]; rfl⟩
  have hev : (s.oneCtx core w).evaluate s .reserved 0 ans = .error { code := 1, tval := w.toNat } := by
    simp only [Ctx.evaluate, State.oneCtx, hm]
    simp [classOf, MRes.ofRes, Ctx.mac, hm, Ctx.illegal]
  have hissue := hone.faults hev
  have htrap : s.sheafTrap core (s.core core).pc { code := 1, tval := w.toNat, slot := 0 } none 0 =
      s.setCore core ((s.core core).enter core .keeper false { code := 1, resume := (s.core core).pc, tval := w.toNat }) := by
    rw [← State.trapSync_keeper hl hb]
    rfl
  rw [htrap, State.afterIssue_of_no_step (by rw [State.setCore_core, Core.enter_dbgStep]; exact h.noDebug.2)] at hissue
  have hword : w.toNat < 2 ^ xlen core := lt_of_lt_of_le w.isLt (Nat.pow_le_pow_right (by decide) (by unfold xlen; split <;> decide))
  refine ⟨_, congrArg Host.Outcome.next hissue, ?_⟩
  rw [State.modCore_core, State.setCore_core]
  have htval := (s.core core).enter_tval core .keeper false { code := 1, resume := (s.core core).pc, tval := w.toNat }
  rw [Nat.mod_eq_of_lt hword, Nat.mod_eq_of_lt (lt_of_lt_of_le w.isLt (by decide))] at htval
  have hent := Core.entered_enter (s.core core) core .keeper false (e := { code := 1, resume := (s.core core).pc, tval := w.toNat })
    rfl rfl rfl rfl rfl (show 1 < 256 by decide) (show (s.core core).pc < 2 ^ 64 by omega)
  simp only [Bool.false_eq_true, if_false, zero_add, add_zero] at hent
  exact ⟨htval, hent⟩

/-- Settles O15: each clause is a lemma above about one trap. -/
theorem sheafTraps : Obligations.SheafTraps := ⟨sheafIssue_sys_brk, sheafIssue_double_fault, sheafIssue_undefined⟩

end Sys2Proof.Machine

/-! ## Interrupts of a core (R74, R76, R80, R82) -/

namespace Sys2Proof.Machine

set_option Elab.async false

open Sys2Proof.Claims

/-- The only interrupt that the core may take is the one that is taken. -/
theorem irqOrder_find {p : Nat → Bool} {n : Nat} (hn : n ∈ irqOrder) (hp : p n = true) (hone : ∀ m ∈ irqOrder, p m = true → m = n) :
    irqOrder.find? p = some n := by
  obtain ⟨m, hm⟩ := Option.isSome_iff_exists.mp (List.find?_isSome.mpr ⟨n, hn, hp⟩)
  rw [hm, hone m (List.mem_of_find?_eq_some hm) (List.find?_some hm)]

/-- For a hamlet core, what an interrupt taken tells the Reeve leaves the cores. -/
theorem State.irqTaken_core (s : State) {k : Nat} (hk : k < 144) (code : Nat) :
    (s.irqTaken k code).core k = { s.core k with irqs := (s.core k).irqs.filter (fun x => x != code) } := by
  have hhall : ¬ (code = 4 ∧ 144 ≤ k ∧ k < 160) := by omega
  have hcores : (s.irqTaken k code).cores = (s.coreUnirq k code).cores := by
    simp only [State.irqTaken, if_neg hhall, if_pos hk]
    split
    · split
      · rw [State.tapEvent_cores, State.setRcore_cores]
      · rw [State.setRcore_cores]
    · split
      · split
        · rw [State.modRcore_cores, State.modItem_cores]
        · rfl
      · rfl
  rw [State.core_congr hcores, State.coreUnirq, State.modCore_core]

theorem Core.enter_irqs (c : Core) (k : Nat) (l : Level) (esc : Bool) (e : Entry) : (c.enter k l esc e).irqs = c.irqs := by
  have hset (d : Core) (n v : Nat) : (d.setCr n v).irqs = d.irqs := rfl
  simp only [Core.enter, hset]

theorem interruptTake_takes : ∀ (s : State) (core : Fin 161) (n : Nat), core.val < 144 → (s.core core).run = .running → (s.core core).dbgHalt = false →
    (s.core core).acc = [] → (s.core core).errs = [] → n ∈ irqOrder → n ∈ (s.core core).irqs → (s.core core).mayTake n = true →
    (∀ m ∈ irqOrder, m ∈ (s.core core).irqs → (s.core core).mayTake m = true → m = n) → (s.core core).pc < 2 ^ 64 →
    ∃ t, exec (.interruptTake core) s = .next t ∧
      (n = 3 ∨ n = 5 → entered (s.core core) (t.core core) core ((s.core core).routeIrq n) (0x100 + n) (s.core core).pc
        ((s.core core).cr (trapBase ((s.core core).routeIrq n)) + n * 0x40)) ∧
      n ∉ (t.core core).irqs := by
  intro s core n hk hrun hdbg hacc herr hn hirq hmay hone hpc
  have hdef : (s.core core).deferred = none := by simp [Core.deferred, herr]
  have hloads : (s.core core).loadsOut = 0 := by simp [Core.loadsOut, hacc]
  have hpend : s.pendingIrqs core = (s.core core).irqs := by
    simp [State.pendingIrqs, show ¬ 144 ≤ core.val by omega]
  have hfind : irqOrder.find? (fun n => (s.pendingIrqs core).contains n && (s.core core).mayTake n) = some n := by
    refine irqOrder_find hn (by simp [hpend, hirq, hmay]) fun m hm h => ?_
    simp only [hpend, Bool.and_eq_true, List.contains_iff_mem] at h
    exact hone m hm h.1 h.2
  have hn6 : n < 256 := by simp [irqOrder] at hn; omega
  show ∃ t, execInterruptTake core s = .next t ∧ _
  simp only [execInterruptTake, hrun, hdbg, hloads, hdef, hfind, ne_eq, not_true_eq_false, Bool.false_eq_true, Nat.lt_irrefl, or_self, if_false]
  refine ⟨_, rfl, fun _ => ?_, ?_⟩
  · have hent := (s.core core).entered_enter core ((s.core core).routeIrq n) false (e := { code := n, irq := true, resume := (s.core core).pc })
      rfl rfl rfl rfl rfl hn6 hpc
    simp only [if_true] at hent
    rw [State.irqTaken_core _ hk, State.setCore_core]
    exact hent
  · rw [State.irqTaken_core _ hk]
    simp

theorem State.coreIrq_irqs_mem (s : State) (k code : Nat) : code ∈ ((s.coreIrq k code).core k).irqs := by
  rw [State.coreIrq, State.modCore_core]
  dsimp only
  split
  · exact List.contains_iff_mem.mp ‹_›
  · simp

theorem State.coreIrq_pc (s : State) (k code : Nat) : ((s.coreIrq k code).core k).pc = (s.core k).pc := by
  rw [State.coreIrq, State.modCore_core]

theorem tickCompareMatch_pends : ∀ (s : State) (core : Fin 161), (s.core core).tce = true → passed s.tick ((s.core core).cr 0x407 % 2 ^ 32) = true →
    (s.core core).run ≠ .held → ∃ t, exec (.tickCompareMatch core) s = .next t ∧ 3 ∈ (t.core core).irqs ∧
      (t.core core).pc = (s.core core).pc ∧ t.regs = s.regs := by
  intro s core htce hpass hrun
  show ∃ t, execTickCompareMatch core s = .next t ∧ _
  simp only [execTickCompareMatch, htce, hpass, hrun, ne_eq, not_false_eq_true, and_self, if_true]
  exact ⟨_, rfl, State.coreIrq_irqs_mem _ _ _, State.coreIrq_pc _ _ _, rfl⟩

theorem softwareInterrupt_pends : ∀ (s : State) (core : Fin 161), ∃ t, exec (.softwareInterrupt core) s = .next t ∧ 5 ∈ (t.core core).irqs ∧
    (t.core core).pc = (s.core core).pc ∧ (∀ k, k ≠ core.val → t.core k = s.core k) ∧ t.regs = s.regs := fun s core =>
  ⟨_, rfl, State.coreIrq_irqs_mem s core 5, State.coreIrq_pc s core 5, fun _ hk => State.modCore_core_ne _ _ hk, rfl⟩

/-- Settles O16: each clause is a lemma above about one command. -/
theorem coreInterrupts : Obligations.CoreInterrupts := ⟨interruptTake_takes, tickCompareMatch_pends, softwareInterrupt_pends⟩

end Sys2Proof.Machine

/-! ## Answers to loads and posted stores (R86) -/

namespace Sys2Proof.Machine

set_option Elab.async false

open Sys2Proof.Claims

/-- The only access out is the first of its kind. -/
theorem nthOf_single {a : Access} {load : Bool} (hf : a.kind ≠ .fence) (hl : a.isLoad = load) : nthOf load [a] 0 0 = some 0 := by
  simp [nthOf, hf, hl]

theorem mayPerform_single (a : Access) : mayPerform [a] 0 = true := rfl

/-- How the answer to the only load out is served. -/
theorem loadAnswer_single {s : State} {core : Fin 161} {a : Access} (ha : (s.core core).acc = [a]) (hk : a.kind = .load) (g : Answer) :
    exec (.loadAnswer core 0 (some g)) s =
      if goodStatus g.status then
        .next ((s.modCore core (fun x => { x with acc := dropFences (x.acc.eraseIdx 0) })).modCore core (fun x => x.write core
          (loadWrite core a (wordPart (g.words.getD 0 {}).data (a.bus % 8) a.size) ((g.words.getD 0 {}).mark || decide (g.status = .poisoned)))))
      else .next ((s.modCore core (fun x => { x with acc := dropFences (x.acc.eraseIdx 0) })).modCore core
        (fun x => { x with errs := insertErr a x.errs })) := by
  show execLoadAnswer core 0 (some g) s = _
  simp only [execLoadAnswer, ha, nthOf_single (load := true) (a := a) (by simp [hk]) (by simp [Access.isLoad, hk]), List.getElem?_cons_zero,
    mayPerform_single, Bool.not_true, Bool.false_eq_true, if_false]
  rfl

theorem storeAnswer_single {s : State} {core : Fin 161} {a : Access} (ha : (s.core core).acc = [a]) (hk : a.kind = .store) (g : Answer) :
    exec (.storeAnswer core 0 (some g)) s =
      if goodStatus g.status then .next ((s.serveWrite core a).modCore core (fun x => { x with acc := dropFences (x.acc.eraseIdx 0) }))
      else .next ((s.modCore core (fun x => { x with acc := dropFences (x.acc.eraseIdx 0) })).modCore core (fun x =>
        { x with postedErr := x.postedErr + 1, irqs := if x.irqs.contains 6 then x.irqs else x.irqs ++ [6] })) := by
  show execStoreAnswer core 0 (some g) s = _
  simp only [execStoreAnswer, ha, nthOf_single (load := false) (a := a) (by simp [hk]) (by simp [Access.isLoad, hk]), List.getElem?_cons_zero,
    mayPerform_single, Bool.not_true, Bool.false_eq_true, if_false]
  rfl

/-- The core after its only access has gone. -/
theorem State.erased_core {s : State} {k : Nat} {a : Access} (ha : (s.core k).acc = [a]) :
    (s.modCore k (fun x => { x with acc := dropFences (x.acc.eraseIdx 0) })).core k = { s.core k with acc := [] } := by
  rw [State.modCore_core, ha]
  rfl

theorem loadAnswer_writes : ∀ (s : State) (core : Fin 161) (a : Access) (g : Answer), (s.core core).acc = [a] → a.kind = .load → g.status = .ok →
    ∃ t, exec (.loadAnswer core 0 (some g)) s = .next t ∧ t.regs = s.regs ∧ t.ms = s.ms ∧ (∀ k, k ≠ core.val → t.core k = s.core k) ∧
      t.core core = ({ s.core core with acc := [] } : Core).write core
        (loadWrite core a (wordPart (g.words.getD 0 {}).data (a.bus % 8) a.size) (g.words.getD 0 {}).mark) := by
  intro s core a g ha hk hg
  have hgood : goodStatus g.status = true := by rw [hg]; rfl
  have hmark : ((g.words.getD 0 {}).mark || decide (g.status = .poisoned)) = (g.words.getD 0 {}).mark := by
    rw [hg]
    exact Bool.or_false _
  refine ⟨_, (loadAnswer_single ha hk g).trans (if_pos hgood), rfl, rfl, fun j hj => ?_, ?_⟩
  · rw [State.modCore_core_ne _ _ hj, State.modCore_core_ne _ _ hj]
  · rw [State.modCore_core, State.erased_core ha, hmark]

theorem loadAnswer_fails : ∀ (s : State) (core : Fin 161) (a : Access) (g : Answer), (s.core core).acc = [a] → a.kind = .load → (s.core core).errs = [] →
    g.status = .aborted → ∃ t, exec (.loadAnswer core 0 (some g)) s = .next t ∧ (t.core core).acc = [] ∧
      (t.core core).errs = [a] ∧ (t.core core).g = (s.core core).g ∧ t.regs = s.regs := by
  intro s core a g ha hk herr hg
  have hbad : ¬ goodStatus g.status = true := by rw [hg]; decide
  refine ⟨_, (loadAnswer_single ha hk g).trans (if_neg hbad), ?_⟩
  rw [State.modCore_core, State.erased_core ha, herr]
  exact ⟨rfl, rfl, rfl, rfl⟩

theorem storeAnswer_fails : ∀ (s : State) (core : Fin 161) (a : Access) (g : Answer), (s.core core).acc = [a] → a.kind = .store → g.status = .deadTarget →
    ∃ t, exec (.storeAnswer core 0 (some g)) s = .next t ∧ (t.core core).acc = [] ∧
      (t.core core).postedErr = (s.core core).postedErr + 1 ∧ 6 ∈ (t.core core).irqs ∧ t.ms = s.ms ∧ t.regs = s.regs := by
  intro s core a g ha hk hg
  have hbad : ¬ goodStatus g.status = true := by rw [hg]; decide
  refine ⟨_, (storeAnswer_single ha hk g).trans (if_neg hbad), ?_⟩
  rw [State.modCore_core, State.erased_core ha]
  refine ⟨rfl, rfl, ?_, rfl, rfl⟩
  dsimp only
  split
  · exact List.contains_iff_mem.mp ‹_›
  · simp

theorem storeAnswer_performs : ∀ (s : State) (core : Fin 161) (a : Access) (g : Answer), (s.core core).acc = [a] → a.kind = .store → g.status = .ok →
    exec (.storeAnswer core 0 (some g)) s =
      .next ((s.serveWrite core a).modCore core (fun x => { x with acc := dropFences (x.acc.eraseIdx 0) })) := by
  intro s core a g ha hk hg
  exact (storeAnswer_single ha hk g).trans (if_pos (by rw [hg]; rfl))

/-- Settles O17: each clause is a lemma above about one command. -/
theorem loadAndStoreAnswers : Obligations.LoadAndStoreAnswers :=
  ⟨loadAnswer_writes, loadAnswer_fails, storeAnswer_fails, storeAnswer_performs⟩

end Sys2Proof.Machine

/-! ## Instruction halves (R101 to R105) -/

namespace Sys2Proof.Machine

set_option Elab.async false

open Sys2Proof.Claims

/-- A write to an instruction half that is refused or stored. -/
theorem imemWrite_eq {s : State} {r : WriteReq} {st h p : Nat} (ht : s.target (r.addr / 8 * 8) = .inr st) (hr : regionOf st = .imem h p) :
    exec (.imemWrite r) s = .next (if s.imemRefused h p (st / 0x8000 % 2) then
      (s.incSat (R.HAMLET_IMEM_STATUS_REJECT_COUNT h (s.logicalOf h p))).refusedAns
      else (((s.yieldFor st r.mid).writeWords st r.words).ack)) := by
  show execImemWrite r s = _
  simp only [execImemWrite, State.busWrite, ht, hr]

theorem imemWrite_refused : ∀ (s : State) (r : WriteReq) (st h p : Nat), s.target (r.addr / 8 * 8) = .inr st → regionOf st = .imem h p →
    s.imemRefused h p (st / 0x8000 % 2) = true → ∃ t, exec (.imemWrite r) s = .next t ∧ t.ans = abortedBy 7 ∧ t.ms = s.ms ∧
      t.rd (R.HAMLET_IMEM_STATUS_REJECT_COUNT h (s.logicalOf h p)) =
        min (s.rd (R.HAMLET_IMEM_STATUS_REJECT_COUNT h (s.logicalOf h p)) + 1)
          (2 ^ (R.HAMLET_IMEM_STATUS_REJECT_COUNT h (s.logicalOf h p)).w - 1) := by
  intro s r st h p ht hr href
  refine ⟨_, imemWrite_eq ht hr, ?_⟩
  rw [if_pos href]
  exact ⟨rfl, rfl, by rw [State.refusedAns_rd, State.incSat_rd_same]⟩

/-- Where no Gleaner has borrowed a region, none gives one back. -/
theorem State.yieldFor_of_none_borrowed {s : State} (h : ∀ k, (s.ms.gleaners.get k).borrowed = false) (a : Nat) (mid : Mid) :
    s.yieldFor a mid = s := by
  unfold State.yieldFor
  split
  · simp [h]
  · rfl

theorem imemWrite_stores : ∀ (s : State) (r : WriteReq) (st h p : Nat), s.target (r.addr / 8 * 8) = .inr st → regionOf st = .imem h p →
    s.imemRefused h p (st / 0x8000 % 2) = false → (∀ k, (s.ms.gleaners.get k).borrowed = false) →
    exec (.imemWrite r) s = .next { s.writeWords st r.words with ans := acked } := by
  intro s r st h p ht hr href hgl
  rw [imemWrite_eq ht hr, if_neg (by simp [href]), State.yieldFor_of_none_borrowed hgl]
  rfl

/-! ### The flip -/

theorem imemFlipArm_arms : ∀ (s : State) (h : Fin 16) (c : Fin 9) (v : Word), bitOf v 0 = true →
    (tickBefore s.tick (s.rd (R.HAMLET_IMEM_TICK_FLIP_TICK h c)) = false ∨
      leadTicks s.tick (s.rd (R.HAMLET_IMEM_TICK_FLIP_TICK h c)) ≤ maxLead) → ∃ t, exec (.imemFlipArm h c v) s = .next t ∧
      t.rd (R.HAMLET_IMEM_CTRL_ARM h c) = 1 ∧ sameRegs s t [R.HAMLET_IMEM_CTRL_ARM h c] := by
  intro s h c v hv hlead
  have hok : ¬ ((!passed s.tick (s.rd (R.HAMLET_IMEM_TICK_FLIP_TICK h c))) = true ∧
      maxLead < leadTicks s.tick (s.rd (R.HAMLET_IMEM_TICK_FLIP_TICK h c))) := by
    rintro ⟨hp, hl⟩
    rcases hlead with hb | hb
    · simp [passed, hb] at hp
    · omega
  show ∃ t, execImemFlipArm h c v s = .next t ∧ _
  simp only [execImemFlipArm, hv, Bool.not_true, Bool.false_eq_true, if_false, if_neg hok]
  exact ⟨_, rfl, State.wr_rd_same _ _ _, (sameRegs.refl s _).wr (by simp) 1⟩

theorem imemFlipArm_refused : ∀ (s : State) (h : Fin 16) (c : Fin 9) (v : Word), bitOf v 0 = true →
    tickBefore s.tick (s.rd (R.HAMLET_IMEM_TICK_FLIP_TICK h c)) = true →
      maxLead < leadTicks s.tick (s.rd (R.HAMLET_IMEM_TICK_FLIP_TICK h c)) → ∃ t, exec (.imemFlipArm h c v) s = .next t ∧
      t.rd (R.HAMLET_IMEM_STATUS_REFUSED h c) = 1 ∧ sameRegs s t [R.HAMLET_IMEM_STATUS_REFUSED h c] := by
  intro s h c v hv hb hl
  have hfar : (!passed s.tick (s.rd (R.HAMLET_IMEM_TICK_FLIP_TICK h c))) = true ∧
      maxLead < leadTicks s.tick (s.rd (R.HAMLET_IMEM_TICK_FLIP_TICK h c)) := ⟨by simp [passed, hb], hl⟩
  show ∃ t, execImemFlipArm h c v s = .next t ∧ _
  simp only [execImemFlipArm, hv, Bool.not_true, Bool.false_eq_true, if_false, if_pos hfar]
  exact ⟨_, rfl, State.wr_rd_same _ _ _, (sameRegs.refl s _).wr (by simp) 1⟩

theorem imemFlipDisarm_disarms : ∀ (s : State) (h : Fin 16) (c : Fin 9) (v : Word), bitOf v 0 = false → ∃ t, exec (.imemFlipDisarm h c v) s = .next t ∧
      t.rd (R.HAMLET_IMEM_CTRL_ARM h c) = 0 ∧ sameRegs s t [R.HAMLET_IMEM_CTRL_ARM h c] := by
  intro s h c v hv
  show ∃ t, execImemFlipDisarm h c v s = .next t ∧ _
  simp only [execImemFlipDisarm, hv, Bool.false_eq_true, if_false]
  exact ⟨_, rfl, State.wr_rd_same _ _ _, (sameRegs.refl s _).wr (by simp) 0⟩

theorem imemFlipApply_flips : ∀ (s : State) (h : Fin 16) (c : Fin 9), s.flipWaits h c = true → (s.rcore h c).cur = none → (s.rcore h c).held = [] →
    s.rd (R.HAMLET_IMEM_STATUS_ACTIVE h c) ≤ 1 → ∃ t, exec (.imemFlipApply h c) s = .next t ∧
      t.rd (R.HAMLET_IMEM_STATUS_ACTIVE h c) = 1 - s.rd (R.HAMLET_IMEM_STATUS_ACTIVE h c) ∧ t.rd (R.HAMLET_IMEM_CTRL_ARM h c) = 0 ∧
      t.rd (R.HAMLET_IMEM_STATUS_FLIP_COUNT h c) = (s.rd (R.HAMLET_IMEM_STATUS_FLIP_COUNT h c) + 1) % 2 ^ (R.HAMLET_IMEM_STATUS_FLIP_COUNT h c).w ∧
      t.ms = s.ms ∧ sameRegs s t [R.HAMLET_IMEM_STATUS_ACTIVE h c, R.HAMLET_IMEM_CTRL_ARM h c, R.HAMLET_IMEM_STATUS_FLIP_COUNT h c] := by
  intro s h c hw hcur hheld hact
  show ∃ t, execImemFlipApply h c s = .next t ∧ _
  simp only [execImemFlipApply, hw, hcur, hheld, and_self, if_true]
  refine ⟨_, rfl, ?_, ?_, ?_, rfl, (((sameRegs.refl s _).wr (by simp) _).wr (by simp) 0).inc (by simp)⟩
  · rw [State.flipNow, State.inc_rd_ne _ _ _ (by simp only [Fld.key, R.HAMLET_IMEM_STATUS_ACTIVE, R.HAMLET_IMEM_STATUS_FLIP_COUNT, ne_eq]; omega),
      State.wr_rd_ne _ _ _ _ (by simp only [Fld.key, R.HAMLET_IMEM_STATUS_ACTIVE, R.HAMLET_IMEM_CTRL_ARM, ne_eq]; omega), State.wr_rd_same]
    exact Nat.mod_eq_of_lt (show _ < 2 by omega)
  · rw [State.flipNow, State.inc_rd_ne _ _ _ (by simp only [Fld.key, R.HAMLET_IMEM_CTRL_ARM, R.HAMLET_IMEM_STATUS_FLIP_COUNT, ne_eq]; omega), State.wr_rd_same, Nat.zero_mod]
  · rw [State.flipNow, State.inc_rd_same, State.wr_rd_ne _ _ _ _ (by simp only [Fld.key, R.HAMLET_IMEM_STATUS_FLIP_COUNT, R.HAMLET_IMEM_CTRL_ARM, ne_eq]; omega),
      State.wr_rd_ne _ _ _ _ (by simp only [Fld.key, R.HAMLET_IMEM_STATUS_FLIP_COUNT, R.HAMLET_IMEM_STATUS_ACTIVE, ne_eq]; omega)]

theorem imemFlipApply_waits : ∀ (s : State) (h : Fin 16) (c : Fin 9), ((s.rcore h c).cur ≠ none ∨ (s.rcore h c).held ≠ []) → exec (.imemFlipApply h c) s = .next s := by
  intro s h c hbusy
  show execImemFlipApply h c s = _
  have hno : ¬ (s.flipWaits h.val c.val = true ∧ (s.rcore h.val c.val).cur = none ∧ (s.rcore h.val c.val).held = []) :=
    fun ⟨_, hcur, hheld⟩ => hbusy.elim (· hcur) (· hheld)
  simp only [execImemFlipApply, if_neg hno]

/-- Settles O18: each clause is a lemma above about one command. -/
theorem instructionHalves : Obligations.InstructionHalves :=
  ⟨imemWrite_refused, imemWrite_stores, imemFlipArm_arms, imemFlipArm_refused, imemFlipDisarm_disarms, imemFlipApply_flips, imemFlipApply_waits⟩

end Sys2Proof.Machine

/-! ## Quern jobs (R173, R175, R178) -/

namespace Sys2Proof.Machine

set_option Elab.async false

open Sys2Proof.Claims

/-! ### The start: operands are read and the result is computed -/

theorem State.quernStart_mem (s : State) (h : Nat) : (s.quernStart h).ms.mem = s.ms.mem :=
  (keeps_quernStart (.refl (partsBut .mem) s) (by decide) (by decide) (by decide) (by decide) (by decide) h).same_of_but

theorem quernJobStart_computes : ∀ (s : State) (h : Fin 16) (j : QuernJob) (rest : List QuernJob), (s.querns.get h).jobs = j :: rest → j.result = none →
    (∀ a ∈ j.after, a ∉ (s.core j.core).acc) → ∃ t j1, exec (.quernJobStart h) s = .next t ∧ (t.querns.get h).jobs = j1 :: rest ∧
      j1.result ≠ none ∧ j1.z = j.z ∧ j1.core = j.core ∧ (j1.status = 0 ∨ j1.status = 1) ∧ t.ms.mem = s.ms.mem := by
  intro s h j rest hjobs hres hafter
  have hgo : (j.result.isSome || j.after.any (fun a => (s.core j.core).acc.contains a)) = false := by
    simp only [hres, Option.isSome_none, Bool.false_or, List.any_eq_false, List.contains_iff_mem]
    exact hafter
  obtain ⟨t, j1, hstart, hr, hz, hc, hst⟩ : ∃ (t : State) (j1 : QuernJob), s.quernStart h =
      { t with querns := t.querns.set h { s.querns.get h with jobs := j1 :: rest } } ∧ j1.result ≠ none ∧ j1.z = j.z ∧ j1.core = j.core ∧
        (j1.status = 0 ∨ j1.status = 1) := by
    rw [State.quernStart]
    simp only [hjobs, hgo, Bool.false_eq_true, if_false]
    refine ⟨_, _, rfl, Option.some_ne_none _, rfl, rfl, ?_⟩
    exact (ite_eq_or_eq _ _ _).symm
  refine ⟨s.quernStart h, j1, rfl, ?_, hr, hz, hc, hst, s.quernStart_mem h⟩
  rw [hstart, Tab.get_set_same]

/-! ### The end: the result is stored and the status shown -/

theorem State.writeWords_regs (s : State) (a : Nat) (ws : List PWord) : (s.writeWords a ws).regs = s.regs :=
  (keeps_writeWords (.refl (partsBut .regs) s) (by decide) a ws).same_of_but

theorem State.writeWords_querns (s : State) (a : Nat) (ws : List PWord) : (s.writeWords a ws).querns = s.querns :=
  (keeps_writeWords (.refl (partsBut .querns) s) (by decide) a ws).same_of_but

/-- What words leave in memory depends on the memory system alone. -/
theorem State.writeWords_ms_congr {s t : State} (h : t.ms = s.ms) (a : Nat) (ws : List PWord) :
    (t.writeWords a ws).ms = (s.writeWords a ws).ms := by
  induction ws generalizing a s t with
  | nil => exact h
  | cons w r ih => exact ih (by rw [State.setMem, State.setMem, h]) (a + 8)

theorem State.setQuern_querns (s : State) (h : Nat) (q : Quern) : (s.setQuern h q).querns.get h = q := Tab.get_set_same _ _ _

/-- The Quern's own status fields, as the lock and the queue show in them. -/
theorem sameRegs_setQuern (s : State) (h : Nat) (q : Quern) : sameRegs s (s.setQuern h q)
    [R.QUERN_STATUS_LOCKED h, R.QUERN_STATUS_OWNER_CORE h, R.QUERN_STATUS_OWNER_NONE h, R.QUERN_STATUS_JOBS_HELD h, R.QUERN_STATUS_OWNER_ITEM h] :=
  (((((sameRegs_of_regs_eq (t := { s with querns := s.querns.set h q }) rfl _).wrB (by simp) _).wr (by simp) _).wrB (by simp) _).wr (by simp) _).wr
    (by simp) _

section
variable (s : State) (h c : Nat) (j : QuernJob) (late : Bool)

theorem State.quernEnd_querns (st : Nat) : (s.quernEnd h c j st late).querns = s.querns := by simp [State.quernEnd]
theorem State.quernEnd_ms (st : Nat) : (s.quernEnd h c j st late).ms = s.ms := by simp [State.quernEnd]

theorem State.quernEnd_rd_status {st : Nat} (hst : st < 16) : (s.quernEnd h c j st late).rd (R.QUERN_CORE_STATUS_STATUS h c) = st := by
  simp only [State.quernEnd]
  rw [State.inc_rd_ne _ _ _ (by simp only [Fld.key, R.QUERN_CORE_STATUS_STATUS, R.QUERN_JOBS_COUNT, ne_eq]; omega), State.inc_rd_ne _ _ _ (by simp only [Fld.key, R.QUERN_CORE_STATUS_STATUS, R.QUERN_CORE_STATUS_SEQ, ne_eq]; omega),
    State.wr_rd_ne _ _ _ _ (by simp only [Fld.key, R.QUERN_CORE_STATUS_STATUS, R.QUERN_CORE_STATUS_EXP, ne_eq]; omega), State.wr_rd_ne _ _ _ _ (by simp only [Fld.key, R.QUERN_CORE_STATUS_STATUS, R.QUERN_CORE_STATUS_INDEX, ne_eq]; omega),
    State.wrB_rd_ne _ _ _ _ (by simp only [Fld.key, R.QUERN_CORE_STATUS_STATUS, R.QUERN_CORE_STATUS_NONFINITE, ne_eq]; omega), State.wrB_rd_ne _ _ _ _ (by simp only [Fld.key, R.QUERN_CORE_STATUS_STATUS, R.QUERN_CORE_STATUS_SAT, ne_eq]; omega),
    State.wrB_rd_ne _ _ _ _ (by simp only [Fld.key, R.QUERN_CORE_STATUS_STATUS, R.QUERN_CORE_STATUS_SINGULAR, ne_eq]; omega),
    State.wrB_rd_ne _ _ _ _ (by simp only [Fld.key, R.QUERN_CORE_STATUS_STATUS, R.QUERN_CORE_STATUS_ABORT_LATE, ne_eq]; omega), State.wr_rd_same]
  exact Nat.mod_eq_of_lt hst

/-- The fields of a core's Quern status that an end sets from the job. -/
def quernEndFields : List Fld :=
  [R.QUERN_CORE_STATUS_STATUS h c, R.QUERN_CORE_STATUS_ABORT_LATE h c, R.QUERN_CORE_STATUS_SINGULAR h c, R.QUERN_CORE_STATUS_SAT h c,
    R.QUERN_CORE_STATUS_NONFINITE h c, R.QUERN_CORE_STATUS_INDEX h c, R.QUERN_CORE_STATUS_EXP h c]

/-- An end counts the job at its core and at the Quern. -/
theorem State.quernEnd_rd_counts (st : Nat) :
    (s.quernEnd h c j st late).rd (R.QUERN_CORE_STATUS_SEQ h c) = (s.rd (R.QUERN_CORE_STATUS_SEQ h c) + 1) % 2 ^ (R.QUERN_CORE_STATUS_SEQ h c).w ∧
    (s.quernEnd h c j st late).rd (R.QUERN_JOBS_COUNT h) = (s.rd (R.QUERN_JOBS_COUNT h) + 1) % 2 ^ (R.QUERN_JOBS_COUNT h).w := by
  obtain ⟨t, ht, heq⟩ : ∃ t, sameRegs s t (quernEndFields h c) ∧
      s.quernEnd h c j st late = (t.inc (R.QUERN_CORE_STATUS_SEQ h c)).inc (R.QUERN_JOBS_COUNT h) :=
    ⟨_, ((((((((sameRegs.refl s _).wr (by simp [quernEndFields]) st).wrB (by simp [quernEndFields]) late).wrB (by simp [quernEndFields]) _).wrB
      (by simp [quernEndFields]) _).wrB (by simp [quernEndFields]) _).wr (by simp [quernEndFields]) _).wr (by simp [quernEndFields]) _), rfl⟩
  have hseq := ht (R.QUERN_CORE_STATUS_SEQ h c) (by simp [quernEndFields, Fld.key, R.QUERN_CORE_STATUS_STATUS, R.QUERN_CORE_STATUS_ABORT_LATE,
    R.QUERN_CORE_STATUS_SINGULAR, R.QUERN_CORE_STATUS_SAT, R.QUERN_CORE_STATUS_NONFINITE, R.QUERN_CORE_STATUS_INDEX, R.QUERN_CORE_STATUS_EXP, R.QUERN_CORE_STATUS_SEQ])
  have hcount := ht (R.QUERN_JOBS_COUNT h) (by
    simp only [quernEndFields, List.mem_cons, List.not_mem_nil, or_false, forall_eq_or_imp, forall_eq, ne_eq, Fld.key, R.QUERN_CORE_STATUS_STATUS,
      R.QUERN_CORE_STATUS_ABORT_LATE, R.QUERN_CORE_STATUS_SINGULAR, R.QUERN_CORE_STATUS_SAT, R.QUERN_CORE_STATUS_NONFINITE,
      R.QUERN_CORE_STATUS_INDEX, R.QUERN_CORE_STATUS_EXP, R.QUERN_JOBS_COUNT]
    omega)
  rw [heq]
  constructor
  · rw [State.inc_rd_ne _ _ _ (by simp only [Fld.key, R.QUERN_CORE_STATUS_SEQ, R.QUERN_JOBS_COUNT, ne_eq]; omega), State.inc_rd_same, hseq]
  · rw [State.inc_rd_same, State.inc_rd_ne _ _ _ (by simp only [Fld.key, R.QUERN_JOBS_COUNT, R.QUERN_CORE_STATUS_SEQ, ne_eq]; omega), hcount]

end

/-- Storing the result where its address lies in the core's plot or barn. -/
def State.quernPut (t : State) (j : QuernJob) (ws : List PWord) : State :=
  match quernAddr j.core (ptrBase j.z) (matBytes j.fmt) with
  | some st => t.writeWords st ws
  | none => t

theorem State.quernPut_regs (t : State) (j : QuernJob) (ws : List PWord) : (t.quernPut j ws).regs = t.regs := by
  unfold State.quernPut
  split
  · exact State.writeWords_regs _ _ _
  · rfl

theorem State.quernPut_querns (t : State) (j : QuernJob) (ws : List PWord) : (t.quernPut j ws).querns = t.querns := by
  unfold State.quernPut
  split
  · exact State.writeWords_querns _ _ _
  · rfl

theorem quernJobEnd_stores : ∀ (s : State) (h : Fin 16) (j : QuernJob) (rest : List QuernJob) (ws : List PWord), (s.querns.get h).jobs = j :: rest →
    j.result = some ws → j.op ≠ 7 → j.status < 4 → ∃ t, exec (.quernJobEnd h) s = .next t ∧ (t.querns.get h).jobs = rest ∧
      t.rd (R.QUERN_CORE_STATUS_STATUS h (s.logicalOf h (phyOf j.core))) = j.status ∧
      t.rd (R.QUERN_CORE_STATUS_SEQ h (s.logicalOf h (phyOf j.core))) =
        (s.rd (R.QUERN_CORE_STATUS_SEQ h (s.logicalOf h (phyOf j.core))) + 1) % 2 ^ (R.QUERN_CORE_STATUS_SEQ h (s.logicalOf h (phyOf j.core))).w ∧
      t.rd (R.QUERN_JOBS_COUNT h) = (s.rd (R.QUERN_JOBS_COUNT h) + 1) % 2 ^ (R.QUERN_JOBS_COUNT h).w ∧
      (∀ st, quernAddr j.core (ptrBase j.z) (matBytes j.fmt) = some st →
        t.ms.mem = (s.writeWords st (ws.take (matBytes j.fmt / 8))).ms.mem) ∧
      (quernAddr j.core (ptrBase j.z) (matBytes j.fmt) = none → t.ms = s.ms) := by
  intro s h j rest ws hjobs hres hop hst
  have hfin : s.quernFinish h = (((s.setQuern h { s.querns.get h with jobs := rest }).quernPut j (ws.take (matBytes j.fmt / 8))).quernEnd h
      (s.logicalOf h (phyOf j.core)) j j.status false) := by
    simp only [State.quernFinish, hjobs, hres, if_neg hop, State.quernPut] <;> rfl
  have hrd {f : Fld} (hf : ∀ x ∈ [R.QUERN_STATUS_LOCKED h, R.QUERN_STATUS_OWNER_CORE h, R.QUERN_STATUS_OWNER_NONE h, R.QUERN_STATUS_JOBS_HELD h,
      R.QUERN_STATUS_OWNER_ITEM h], f.key ≠ x.key) :
      ((s.setQuern h { s.querns.get h with jobs := rest }).quernPut j (ws.take (matBytes j.fmt / 8))).rd f = s.rd f :=
    (State.rd_congr (State.quernPut_regs _ _ _) f).trans (sameRegs_setQuern s h _ f hf)
  refine ⟨_, congrArg Host.Outcome.next hfin, ?_, State.quernEnd_rd_status _ _ _ _ _ (by omega), ?_, ?_, fun st haddr => ?_, fun haddr => ?_⟩
  · rw [State.quernEnd_querns, State.quernPut_querns, State.setQuern_querns]
  · rw [(State.quernEnd_rd_counts _ _ _ _ _ _).1, hrd (by simp only [List.mem_cons, List.not_mem_nil, or_false, forall_eq_or_imp, forall_eq, Fld.key, R.QUERN_CORE_STATUS_SEQ, R.QUERN_STATUS_LOCKED, R.QUERN_STATUS_OWNER_CORE, R.QUERN_STATUS_OWNER_NONE, R.QUERN_STATUS_JOBS_HELD, R.QUERN_STATUS_OWNER_ITEM, ne_eq]; omega)]
  · rw [(State.quernEnd_rd_counts _ _ _ _ _ _).2, hrd (by simp only [List.mem_cons, List.not_mem_nil, or_false, forall_eq_or_imp, forall_eq, Fld.key, R.QUERN_JOBS_COUNT, R.QUERN_STATUS_LOCKED, R.QUERN_STATUS_OWNER_CORE, R.QUERN_STATUS_OWNER_NONE, R.QUERN_STATUS_JOBS_HELD, R.QUERN_STATUS_OWNER_ITEM, ne_eq]; omega)]
  · simp only [State.quernEnd_ms, State.quernPut, haddr]
    exact congrArg MemSys.mem (State.writeWords_ms_congr (s := s) (t := s.setQuern h _) (by simp [State.setQuern]) st _)
  · simp only [State.quernEnd_ms, State.quernPut, haddr]
    rfl

/-- Settles O19: each clause is a lemma above about one command. -/
theorem quernJobs : Obligations.QuernJobs := ⟨quernJobStart_computes, quernJobEnd_stores⟩

end Sys2Proof.Machine

/-! ## The Reeve's operations: items, cores, queues and registers

What each operation leaves of the items, of the cores as the Reeve sees them and of its report queues, and which registers it writes. -/

namespace Sys2Proof.Machine

set_option Elab.async false

open Sys2Proof.Claims

theorem State.item_congr {s t : State} (h : t.reeve.items = s.reeve.items) (k : Nat) : t.item k = s.item k :=
  congrArg (fun x : Tab (Option Item) => x.get k) h

/-! ### Operations on other parts leave the Reeve alone -/

theorem State.showReeve_reeve (s : State) : s.showReeve.reeve = s.reeve :=
  (keeps_showReeve (.refl (partsBut .reeve) s) (by decide)).same_of_but

theorem State.ledgerAt_reeve (s : State) (id p i r : Nat) : (s.ledgerAt id p i r).reeve = s.reeve :=
  (keeps_ledgerAt (.refl (partsBut .reeve) s) (by decide) (by decide) (by decide) (by decide) id p i r).same_of_but

theorem State.countEnd_reeve (s : State) (i : Item) (o : ItemEnd) : (s.countEnd i o).reeve = s.reeve :=
  (keeps_countEnd (.refl (partsBut .reeve) s) (by decide) i o).same_of_but

theorem State.tapEvent_reeve (s : State) (ev k : Nat) : (s.tapEvent ev k).reeve = s.reeve :=
  (keeps_tapEvent (.refl (partsBut .reeve) s) (by decide) (by decide) ev k).same_of_but

theorem State.setFlags_reeve (s : State) (g : Nat) (v : DWord) : (s.setFlags g v).reeve = s.reeve := rfl
theorem State.coreUnirq_reeve (s : State) (k code : Nat) : (s.coreUnirq k code).reeve = s.reeve := rfl
theorem State.modCore_reeve (s : State) (k : Nat) (f : Core → Core) : (s.modCore k f).reeve = s.reeve := rfl

theorem State.quernForce_reeve (s : State) (h c k : Nat) : (s.quernForce h c k).reeve = s.reeve :=
  (keeps_quernForce (.refl (partsBut .reeve) s) (by decide) (by decide) h c k).same_of_but

/-! ### Items -/

theorem State.setItem_reeve (s : State) (k : Nat) (i : Option Item) : (s.setItem k i).reeve = { s.reeve with items := s.reeve.items.set k i } :=
  State.showReeve_reeve _

@[simp] theorem State.setItem_item (s : State) (k : Nat) (i : Option Item) : (s.setItem k i).item k = i := by
  rw [State.item, State.setItem_reeve, Tab.get_set_same]

theorem State.setItem_item_ne (s : State) (i : Option Item) {j k : Nat} (h : j ≠ k) : (s.setItem k i).item j = s.item j := by
  rw [State.item, State.setItem_reeve, Tab.get_set_ne _ _ _ _ h, State.item]

theorem State.modItem_item {s : State} {k : Nat} {i : Item} (hi : s.item k = some i) (f : Item → Item) : (s.modItem k f).item k = some (f i) := by
  rw [State.modItem, hi]
  exact State.setItem_item _ _ _

theorem State.setQueue_reeve (s : State) (q : Nat) (x : ReportQueue) : (s.setQueue q x).reeve = { s.reeve with queues := s.reeve.queues.set q x } := by
  rw [State.setQueue, State.wrB_reeve, State.wr_reeve, State.showReeve_reeve]

theorem State.setQueue_item (s : State) (q : Nat) (x : ReportQueue) (k : Nat) : (s.setQueue q x).item k = s.item k := by
  rw [State.item, State.setQueue_reeve, State.item]

theorem State.setQueue_queue (s : State) (q : Nat) (x : ReportQueue) : (s.setQueue q x).reeve.queues.get q = x := by
  rw [State.setQueue_reeve, Tab.get_set_same]

theorem State.setRcore_items (s : State) (h c : Nat) (r : ReeveCore) : (s.setRcore h c r).reeve.items = s.reeve.items := by
  simp [State.setRcore]

theorem State.modRcore_items (s : State) (h c : Nat) (f : ReeveCore → ReeveCore) : (s.modRcore h c f).reeve.items = s.reeve.items :=
  State.setRcore_items _ _ _ _

theorem State.withdraw_items (s : State) (h c : Nat) : (s.withdraw h c).reeve.items = s.reeve.items := by
  unfold State.withdraw
  dsimp only
  split
  · rw [State.setRcore_items, State.coreUnirq_reeve]
  · rfl

theorem foldl_items {α : Type} {g : State → α → State} (hg : ∀ t a, (g t a).reeve.items = t.reeve.items) (l : List α) (s : State) :
    (l.foldl g s).reeve.items = s.reeve.items := by
  induction l generalizing s with
  | nil => rfl
  | cons a r ih => exact (ih (g s a)).trans (hg s a)

theorem State.unreserve_items (s : State) (slot : Nat) : (s.unreserve slot).reeve.items = s.reeve.items := by
  refine foldl_items (fun t k => ?_) _ _
  dsimp only
  split
  · exact State.modRcore_items _ _ _ _
  · exact State.withdraw_items _ _ _

theorem State.sendSuccs_items (s : State) (i : Item) (lapse : Bool) : (s.sendSuccs i lapse).reeve.items = s.reeve.items := by
  unfold State.sendSuccs
  split
  · rfl
  · refine foldl_items (fun t x => ?_) _ _
    show (t.decrIssue true).reeve.items = _
    rw [State.decrIssue, State.ledgerAt_reeve]

/-- The state of `conclude` before the item's report is posted. -/
def State.decided (s : State) (slot : Nat) (i : Item) (o : ItemEnd) : State :=
  let u := ((s.setItem slot (some i)).countEnd i o).sendSuccs i (decide (o = .lapsed ∨ o = .aborted))
  (if o = .ok ∧ i.d.evSet ∧ u.bit R.REEVE_CTRL_COMPAT then
    u.setFlags i.d.setGroup (u.flags i.d.setGroup ||| BitVec.ofNat 64 (2 ^ i.d.setFlag)) else u).tapEvent 2 slot

theorem State.conclude_eq {s : State} {slot : Nat} {i : Item} (hi : s.item slot = some i) (o : ItemEnd) (late : Bool) :
    s.conclude slot o late = ((s.decided slot { i with outcome := some o, late := late } o).postReport slot).unreserve slot := by
  rw [State.conclude, hi]
  rfl

theorem State.decided_items (s : State) (slot : Nat) (i : Item) (o : ItemEnd) :
    (s.decided slot i o).reeve.items = s.reeve.items.set slot (some i) := by
  unfold State.decided
  dsimp only
  rw [State.tapEvent_reeve]
  split
  · rw [State.setFlags_reeve, State.sendSuccs_items, State.countEnd_reeve, State.setItem_reeve]
  · rw [State.sendSuccs_items, State.countEnd_reeve, State.setItem_reeve]

theorem State.freeSlot_item (s : State) (slot : Nat) : (s.freeSlot slot).item slot = none := by
  rw [State.freeSlot, State.item, State.ledgerCount, State.ledgerAt_reeve]
  exact State.setItem_item _ _ _

theorem State.freeSlot_item_ne (s : State) {j slot : Nat} (h : j ≠ slot) : (s.freeSlot slot).item j = s.item j := by
  rw [State.freeSlot, State.item, State.ledgerCount, State.ledgerAt_reeve]
  exact State.setItem_item_ne _ _ h

/-- An item that owes no report is marked as reported by its end. -/
theorem State.conclude_item_reported {s : State} {slot : Nat} {i : Item} (hi : s.item slot = some i) (hr : i.d.report = false)
    (ha : i.abortSeen = false) (o : ItemEnd) (late : Bool) :
    (s.conclude slot o late).item slot = some { i with outcome := some o, late := late, reported := true } := by
  have hdec : (s.decided slot { i with outcome := some o, late := late } o).item slot = some { i with outcome := some o, late := late } := by
    rw [State.item, State.decided_items, Tab.get_set_same]
  rw [State.conclude_eq hi, State.item_congr (State.unreserve_items _ _), State.postReport, hdec]
  dsimp only
  rw [if_pos (by simp [hr, ha]), State.modItem_item hdec]

/-! ### A slot that holds no item stays empty -/

/-- Slots that were empty in `s` are empty in `t`. -/
def EmptyStays (j : Nat) (s t : State) : Prop := s.item j = none → t.item j = none

theorem EmptyStays.of_items {j : Nat} {s t u : State} (h : EmptyStays j s t) (e : u.reeve.items = t.reeve.items) : EmptyStays j s u :=
  fun hs => (State.item_congr e j).trans (h hs)

theorem EmptyStays.inc {j : Nat} {s t : State} (h : EmptyStays j s t) (f : Fld) : EmptyStays j s (t.inc f) :=
  h.of_items (congrArg Reeve.items (State.inc_reeve t f))

theorem EmptyStays.setItem {j : Nat} {s t : State} (h : EmptyStays j s t) {k : Nat} (hk : t.item k ≠ none) (i : Option Item) :
    EmptyStays j s (t.setItem k i) := fun hs => by
  have hj := h hs
  rw [State.setItem_item_ne _ _ (fun he => hk (by rw [← he, hj])), hj]

theorem EmptyStays.modItem {j : Nat} {s t : State} (h : EmptyStays j s t) (k : Nat) (f : Item → Item) : EmptyStays j s (t.modItem k f) := by
  unfold State.modItem
  split
  · exact h.setItem (by simp [*]) _
  · exact h

theorem EmptyStays.freeSlot {j : Nat} {s t : State} (h : EmptyStays j s t) (k : Nat) : EmptyStays j s (t.freeSlot k) := fun hs => by
  by_cases hk : j = k
  · exact hk ▸ State.freeSlot_item _ _
  · rw [State.freeSlot_item_ne _ hk, h hs]

theorem EmptyStays.release {j : Nat} {s t : State} (h : EmptyStays j s t) (k : Nat) : EmptyStays j s (t.release k) := by
  unfold State.release
  split
  · exact h
  · split
    · exact h.freeSlot k
    · exact h.setItem (by simp [*]) _

theorem EmptyStays.setQueue {j : Nat} {s t : State} (h : EmptyStays j s t) (q : Nat) (x : ReportQueue) : EmptyStays j s (t.setQueue q x) :=
  fun hs => (State.setQueue_item t q x j).trans (h hs)

theorem EmptyStays.placeReport {j : Nat} {s t : State} (h : EmptyStays j s t) (q k : Nat) : EmptyStays j s (t.placeReport q k) := by
  unfold State.placeReport
  split
  · exact h
  · dsimp only
    have hm := (h.setQueue q { t.reeve.queues.get q with
      unread := (t.reeve.queues.get q).unread ++ [reportBody ‹_› + (t.reeve.queues.get q).seq % 256 * 2 ^ 40],
      seq := ((t.reeve.queues.get q).seq + 1) % 256 }).modItem k (fun y => { y with reported := true })
    split
    · split
      · exact hm.of_items (congrArg Reeve.items (State.irqHost_reeve _ _))
      · exact hm.of_items rfl
    · exact hm

theorem EmptyStays.postReport {j : Nat} {s t : State} (h : EmptyStays j s t) (k : Nat) : EmptyStays j s (t.postReport k) := by
  unfold State.postReport
  split
  · exact h
  · split
    · exact h.modItem k _
    · dsimp only
      split
      · exact h.placeReport _ k
      · exact h.setQueue _ _

theorem EmptyStays.conclude {j : Nat} {s t : State} (h : EmptyStays j s t) (k : Nat) (o : ItemEnd) (late : Bool) :
    EmptyStays j s (t.conclude k o late) := by
  cases hk : t.item k with
  | none => rwa [State.conclude, hk]
  | some i =>
    rw [State.conclude_eq hk]
    have hset := h.setItem (by simp [hk] : t.item k ≠ none) (some { i with outcome := some o, late := late })
    refine EmptyStays.of_items (EmptyStays.postReport (hset.of_items ?_) k) (State.unreserve_items _ _)
    rw [State.decided_items, State.setItem_reeve]

theorem EmptyStays.endWaiting {j : Nat} {s t : State} (h : EmptyStays j s t) (k : Nat) (o : ItemEnd) : EmptyStays j s (t.endWaiting k o) :=
  (h.conclude k o false).release k

theorem EmptyStays.lapseIfPassed {j : Nat} {s t : State} (h : EmptyStays j s t) (k : Nat) : EmptyStays j s (t.lapseIfPassed k) := by
  unfold State.lapseIfPassed
  split
  · split
    · exact (h.inc _).endWaiting k _
    · exact h
  · exact h

theorem EmptyStays.settle {j : Nat} {s t : State} (h : EmptyStays j s t) (k : Nat) : EmptyStays j s (t.settle k) := by
  unfold State.settle
  split
  · exact h
  · split_ifs
    · exact h
    · exact (h.inc _).endWaiting k _
    · exact h.endWaiting k _
    · exact h.modItem k _

theorem EmptyStays.settleLoop {j : Nat} {s : State} (n : Nat) {t : State} (h : EmptyStays j s t) : EmptyStays j s (t.settleLoop n) := by
  induction n generalizing t with
  | zero => exact h
  | succ n ih =>
    unfold State.settleLoop
    split
    · exact h
    · exact ih ((h.lapseIfPassed _).settle _)

theorem EmptyStays.settleAll {j : Nat} {s t : State} (h : EmptyStays j s t) : EmptyStays j s t.settleAll := h.settleLoop _

end Sys2Proof.Machine

/-! ## The ends of items on cores (R48, R198, R207, R218) -/

namespace Sys2Proof.Machine

set_option Elab.async false

open Sys2Proof.Claims

/-! ### Which places of the register file an operation writes -/

/-- From `s` to `t` only fields whose place meets `P` may read differently. -/
def WritesIn (P : Nat → Prop) (s t : State) : Prop := ∀ f : Fld, ¬ P f.key → t.rd f = s.rd f

section
variable {P Q : Nat → Prop} {s t u : State}

theorem WritesIn.refl (P : Nat → Prop) (s : State) : WritesIn P s s := fun _ _ => rfl
theorem WritesIn.of_regs (h : WritesIn P s t) (e : u.regs = t.regs) : WritesIn P s u := fun f hf => (State.rd_congr e f).trans (h f hf)
theorem WritesIn.trans (h : WritesIn P s t) (k : WritesIn P t u) : WritesIn P s u := fun f hf => (k f hf).trans (h f hf)
theorem WritesIn.mono (h : WritesIn P s t) (hPQ : ∀ k, P k → Q k) : WritesIn Q s t := fun f hf => h f fun hp => hf (hPQ _ hp)
theorem WritesIn.wr (h : WritesIn P s t) {x : Fld} (hx : P x.key) (v : Nat) : WritesIn P s (t.wr x v) :=
  fun f hf => (State.wr_rd_ne t x f v fun he => hf (he ▸ hx)).trans (h f hf)
theorem WritesIn.wrB (h : WritesIn P s t) {x : Fld} (hx : P x.key) (b : Bool) : WritesIn P s (t.wrB x b) := h.wr hx _
theorem WritesIn.inc (h : WritesIn P s t) {x : Fld} (hx : P x.key) : WritesIn P s (t.inc x) := h.wr hx _
theorem WritesIn.incSat (h : WritesIn P s t) {x : Fld} (hx : P x.key) : WritesIn P s (t.incSat x) := h.wr hx _

theorem WritesIn.raise (h : WritesIn P s t) (e : HearthEvent) : WritesIn P s (t.raise e) := h.of_regs (State.raise_regs _ _)
theorem WritesIn.irqIf (h : WritesIn P s t) (b : Bool) (k : HallSrc) (n : Nat) : WritesIn P s (t.irqIf b k n) := h.of_regs (State.irqIf_regs _ _ _ _)

theorem WritesIn.foldl {α : Type} {g : State → α → State} (l : List α) (hg : ∀ t, ∀ a ∈ l, WritesIn P s t → WritesIn P s (g t a))
    (h : WritesIn P s t) : WritesIn P s (l.foldl g t) := by
  induction l generalizing t with
  | nil => exact h
  | cons a r ih => exact ih (fun t b hb => hg t b (List.mem_cons_of_mem a hb)) (hg t a List.mem_cons_self h)

end

/-- The addresses from `lo` up to `hi`, as places of the register file. -/
def addrIn (lo hi k : Nat) : Prop := lo * 64 ≤ k ∧ k < hi * 64

theorem State.logicalOf_le (s : State) (h p : Nat) : s.logicalOf h p ≤ 8 := by
  unfold State.logicalOf
  cases hf : (List.range 9).find? (fun c => s.physOf h c == p) with
  | none => exact le_refl 8
  | some c =>
    have := List.mem_range.mp (List.mem_of_find?_eq_some hf)
    simp only [Option.getD_some]
    omega

/-- The Quern registers of hamlet `h`. -/
def quernAddrs (h : Nat) : Nat → Prop := addrIn (0x10F02000 + h * 0x1000000) (0x10F02200 + h * 0x1000000)

theorem WritesIn.setQuern {s t : State} {h : Nat} (w : WritesIn (quernAddrs h) s t) (q : Quern) : WritesIn (quernAddrs h) s (t.setQuern h q) := by
  have hb : WritesIn (quernAddrs h) s { t with querns := t.querns.set h q } := w.of_regs rfl
  refine ((((hb.wrB ?_ _).wr ?_ _).wrB ?_ _).wr ?_ _).wr ?_ _ <;>
    (simp only [quernAddrs, addrIn, Fld.key, R.QUERN_STATUS_LOCKED, R.QUERN_STATUS_OWNER_CORE, R.QUERN_STATUS_OWNER_NONE,
      R.QUERN_STATUS_JOBS_HELD, R.QUERN_STATUS_OWNER_ITEM]; omega)

theorem WritesIn.quernEnd {s t : State} {h c : Nat} (w : WritesIn (quernAddrs h) s t) (hc : c ≤ 8) (j : QuernJob) (st : Nat) (late : Bool) :
    WritesIn (quernAddrs h) s (t.quernEnd h c j st late) := by
  refine ((((((((w.wr ?_ _).wrB ?_ _).wrB ?_ _).wrB ?_ _).wrB ?_ _).wr ?_ _).wr ?_ _).inc ?_).inc ?_ <;>
    (simp only [quernAddrs, addrIn, Fld.key, R.QUERN_CORE_STATUS_STATUS, R.QUERN_CORE_STATUS_ABORT_LATE, R.QUERN_CORE_STATUS_SINGULAR,
      R.QUERN_CORE_STATUS_SAT, R.QUERN_CORE_STATUS_NONFINITE, R.QUERN_CORE_STATUS_INDEX, R.QUERN_CORE_STATUS_EXP, R.QUERN_CORE_STATUS_SEQ,
      R.QUERN_JOBS_COUNT]; omega)

theorem State.quernForce_writes (s : State) (h c slot : Nat) : WritesIn (quernAddrs h) s (s.quernForce h c slot) := by
  unfold State.quernForce
  split
  · refine WritesIn.incSat (WritesIn.setQuern ?_ _) (by simp only [quernAddrs, addrIn, Fld.key, R.QUERN_COUNTS_FORCED_FREE]; omega)
    exact WritesIn.foldl _ (fun t j _ w => w.quernEnd (s.logicalOf_le _ _) _ _ _) ((WritesIn.refl _ s).setQuern _)
  · exact .refl _ s

/-- The registers that show how full the Reeve is, and those of a ledger's fault. -/
def slotAddrs (k : Nat) : Prop := addrIn 0x4A002000 0x4A002050 k ∨ k = R.REEVE_STATUS_REPORT_HELD.key ∨
  k = R.TALLY_STATUS_FAULT.key ∨ k = R.TALLY_FAULT_LAST_ID.key ∨ k = R.TALLY_FAULT_COUNT_COUNT.key

theorem State.showReeve_writes (s : State) : WritesIn slotAddrs s s.showReeve := by
  refine WritesIn.wrB (WritesIn.foldl _ (fun t w hw h => h.wr (.inl ?_) _) (WritesIn.foldl _ (fun t k hk h => h.wr (.inl ?_) _)
    (((WritesIn.refl _ s).wr (.inl ⟨by decide, by decide⟩) _).wr (.inl ⟨by decide, by decide⟩) _))) (.inr (.inl rfl)) _
  · have := List.mem_range.mp hw
    simp only [addrIn, Fld.key, R.REEVE_WS_DEPTH_DEPTH]
    omega
  · have := List.mem_range.mp hk
    simp only [addrIn, Fld.key, R.REEVE_READY_DEPTH_DEPTH]
    omega

theorem State.setItem_writes (s : State) (k : Nat) (i : Option Item) : WritesIn slotAddrs s (s.setItem k i) :=
  fun f hf => (State.showReeve_writes _ f hf).trans (State.rd_congr rfl f)

/-- A ledger that is not a pool's writes the Tally's fault registers only. -/
theorem State.ledgerAt_writes (s : State) {id : Nat} (hid : id / 256 ≠ 4) (p i r : Nat) : WritesIn slotAddrs s (s.ledgerAt id p i r) := by
  have hfault (t : State) (h : WritesIn slotAddrs s t) : WritesIn slotAddrs s (t.ledgerFault id) := by
    by_cases hu : (t.tally.flags.get id).unreconciled = true
    · rwa [State.ledgerFault, if_pos hu]
    · rw [State.ledgerFault, if_neg hu]
      simp only [if_neg hid]
      have ht (x : Tally) : WritesIn slotAddrs s { t with tally := x } := h.of_regs rfl
      exact (((((ht _).wr (.inr (.inr (.inl rfl))) 1).wr (.inr (.inr (.inr (.inl rfl)))) id).inc
        (.inr (.inr (.inr (.inr rfl))))).raise _).irqIf _ _ _
  have htally (x : Tally) : WritesIn slotAddrs s { s with tally := x } := (WritesIn.refl _ s).of_regs rfl
  unfold State.ledgerAt State.ledgerCheck
  split
  · exact hfault _ (htally _)
  · exact htally _

theorem State.release_writes (s : State) (slot : Nat) : WritesIn slotAddrs s (s.release slot) := by
  unfold State.release
  split
  · exact .refl _ s
  · split
    · exact fun f hf => (State.ledgerAt_writes _ (by decide) _ _ _ f hf).trans ((State.setItem_writes _ _ _ f hf).trans (State.rd_congr rfl f))
    · exact State.setItem_writes _ _ _

/-- The registers that show the Reeve's cores. -/
def rcoreAddrs : Nat → Prop := addrIn 0x4A001000 0x4A001C00

theorem State.setRcore_writes (s : State) {h c : Nat} (hh : h < 16) (hc : c < 9) (r : ReeveCore) : WritesIn rcoreAddrs s (s.setRcore h c r) := by
  have hb (x : Reeve) : WritesIn rcoreAddrs s { s with reeve := x } := .of_regs (.refl _ s) rfl
  refine ((((((hb _).wr ?_ _).wr ?_ _).wrB ?_ _).wrB ?_ _).wr ?_ _).wr ?_ _ <;>
    (simp only [rcoreAddrs, addrIn, Fld.key, R.REEVE_CORE_STATE_STATE, R.REEVE_CORE_STATE_HELD, R.REEVE_CORE_STATE_ITEM_VALID,
      R.REEVE_CORE_STATE_OVR_DONE, R.REEVE_CORE_STATE_ITEM_NAME, R.REEVE_CORE_BUSY]; omega)

theorem State.withdraw_writes (s : State) {h c : Nat} (hh : h < 16) (hc : c < 9) : WritesIn rcoreAddrs s (s.withdraw h c) := by
  unfold State.withdraw
  dsimp only
  split
  · exact fun f hf => (State.setRcore_writes _ hh hc _ f hf).trans (State.rd_congr rfl f)
  · exact .refl _ s

/-! ### The Reeve's view of a core -/

theorem State.rcore_congr {s t : State} (e : t.reeve.cores = s.reeve.cores) (h c : Nat) : t.rcore h c = s.rcore h c :=
  congrArg (fun x : Tab ReeveCore => x.get (rkey h c)) e

/-- A core as the Reeve records it: with its time counters. -/
def State.timedRcore (s : State) (h c : Nat) (r : ReeveCore) : ReeveCore :=
  if (s.rcore h c).cur.isSome ∧ r.cur = none then { r with busy := (s.rcore h c).busy + (s.stp.now - (s.rcore h c).from_) * 3 / 131072 }
  else if r.cur.isSome ∧ (s.rcore h c).cur ≠ r.cur then { r with from_ := s.stp.now }
  else r

theorem State.timedRcore_eq (s : State) (h c : Nat) (r : ReeveCore) : ∃ b f, s.timedRcore h c r = { r with busy := b, from_ := f } := by
  unfold State.timedRcore
  split_ifs <;> exact ⟨_, _, rfl⟩

theorem State.setRcore_cores_eq (s : State) (h c : Nat) (r : ReeveCore) :
    (s.setRcore h c r).reeve.cores = s.reeve.cores.set (rkey h c) (s.timedRcore h c r) := by
  simp only [State.setRcore, State.wr_reeve, State.wrB_reeve, State.timedRcore]

/-- A core as the Reeve has set it: only its time counters are its own. -/
theorem State.setRcore_rcore (s : State) (h c : Nat) (r : ReeveCore) :
    ∃ b f, (s.setRcore h c r).rcore h c = { r with busy := b, from_ := f } := by
  rw [State.rcore, State.setRcore_cores_eq, Tab.get_set_same]
  exact s.timedRcore_eq h c r

theorem State.setItem_rcore (s : State) (k : Nat) (i : Option Item) (h c : Nat) : (s.setItem k i).rcore h c = s.rcore h c :=
  State.rcore_congr (by rw [State.setItem_reeve]) h c

/-! ### A core that becomes idle -/

theorem State.coreAt_congr {s t : State} (e : t.hml = s.hml) (h c : Nat) : t.coreAt h c = s.coreAt h c := by
  rw [State.coreAt, State.coreAt, State.physOf, State.physOf, e]

theorem State.setRcore_hml (s : State) (h c : Nat) (r : ReeveCore) : (s.setRcore h c r).hml = s.hml :=
  (keeps_setRcore (.refl (partsBut .hml) s) (by decide) (by decide) h c r).same_of_but

/-- The Reeve's part of a core becoming idle. -/
def State.idled (s : State) (h c : Nat) : State := s.setRcore h c { s.rcore h c with st := .idle, cur := none, taken := false }

theorem State.idleCore_eq (s : State) (h c : Nat) :
    s.idleCore h c = (s.idled h c).modCore (s.coreAt h c) (fun x => { x with run := .idle }) := by
  simp only [State.idleCore, State.modRcore, State.idled]

theorem State.idleCore_reeve (s : State) (h c : Nat) : (s.idleCore h c).reeve = (s.idled h c).reeve := by
  rw [State.idleCore_eq, State.modCore_reeve]

/-- A core becomes idle: the Reeve sees it without an item, and what it held it keeps. -/
theorem State.idleCore_rcore (s : State) (h c : Nat) : ((s.idleCore h c).rcore h c).cur = none ∧ ((s.idleCore h c).rcore h c).st = .idle ∧
    ((s.idleCore h c).rcore h c).held = (s.rcore h c).held ∧ ((s.idleCore h c).rcore h c).ovrDone = (s.rcore h c).ovrDone := by
  obtain ⟨b, f, hr⟩ := s.setRcore_rcore h c { s.rcore h c with st := .idle, cur := none, taken := false }
  rw [State.rcore_congr (congrArg Reeve.cores (s.idleCore_reeve h c)), State.idled, hr]
  exact ⟨rfl, rfl, rfl, rfl⟩

theorem State.idleCore_item (s : State) (h c k : Nat) : (s.idleCore h c).item k = s.item k :=
  State.item_congr (by rw [State.idleCore_reeve, State.idled, State.setRcore_items]) k

theorem State.idleCore_run (s : State) (h c : Nat) : ((s.idleCore h c).core (s.coreAt h c)).run = .idle := by
  rw [State.idleCore_eq, State.modCore_core]

theorem State.modCore_hml (s : State) (k : Nat) (f : Core → Core) : (s.modCore k f).hml = s.hml := rfl

theorem State.idleCore_hml (s : State) (h c : Nat) : (s.idleCore h c).hml = s.hml := by
  rw [State.idleCore_eq, State.modCore_hml, State.idled, State.setRcore_hml]

/-- A command that leaves the map of the hamlet's cores names the same core before and after. -/
theorem coreAt_of_exec {c : Instr} {s t : State} (h : exec c s = .next t) (hp : Part.hml ∉ partsOf c) (x y : Nat) : t.coreAt x y = s.coreAt x y :=
  State.coreAt_congr ((exec_keeps h).1 .hml hp) x y

end Sys2Proof.Machine
namespace Sys2Proof.Machine

set_option Elab.async false

open Sys2Proof.Claims

/-- PREEMPT that a core has not taken is withdrawn when the core's item ends. -/
def State.calmed (s : State) (r : ReeveCore) (k : Nat) : State := if r.taken then s else s.coreUnirq k irqPreempt

theorem State.calmed_reeve (s : State) (r : ReeveCore) (k : Nat) : (s.calmed r k).reeve = s.reeve := by
  unfold State.calmed
  split
  · rfl
  · exact State.coreUnirq_reeve _ _ _

/-- A command that ends with a core becoming idle leaves that core's context idle. -/
theorem idle_of_exec {x : Instr} {s t : State} {h c : Nat} (he : exec x s = .next (t.idleCore h c)) (hp : Part.hml ∉ partsOf x) :
    ((t.idleCore h c).core (s.coreAt h c)).run = .idle := by
  rw [← coreAt_of_exec he hp, State.coreAt_congr (State.idleCore_hml t h c)]
  exact State.idleCore_run t h c

theorem State.release_item {s : State} {slot : Nat} {i : Item} (hi : s.item slot = some i) (hr : i.reported = true) :
    (s.release slot).item slot = none := by
  rw [State.release, hi]
  dsimp only
  rw [if_pos hr, State.freeSlot_item]

/-- The part of `DONE`'s answer that every item's end shares. -/
theorem coreDoneArrival_ends {s t : State} {h : Fin 16} {c : Fin 9} {slot : Nat}
    (he : exec (.coreDoneArrival h c) s = .next ((t.calmed (s.rcore h c) (s.coreAt h c)).idleCore h c)) (hitem : t.item slot = none) :
    ∃ u, exec (.coreDoneArrival h c) s = .next u ∧ u.item slot = none ∧ (u.rcore h c).cur = none ∧ (u.rcore h c).st = .idle ∧
      (u.core (s.coreAt h c)).run = .idle := by
  obtain ⟨hcur, hst, -, -⟩ := (t.calmed (s.rcore h c) (s.coreAt h c)).idleCore_rcore h c
  refine ⟨_, he, ?_, hcur, hst, idle_of_exec he (by simp [partsOf])⟩
  rw [State.idleCore_item, State.item_congr (congrArg Reeve.items (State.calmed_reeve t _ _)), hitem]

theorem State.modCore_rcore (s : State) (k : Nat) (g : Core → Core) (h c : Nat) : (s.modCore k g).rcore h c = s.rcore h c :=
  State.rcore_congr (congrArg Reeve.cores (State.modCore_reeve _ _ _)) h c

theorem State.modCore_item (s : State) (k : Nat) (g : Core → Core) (j : Nat) : (s.modCore k g).item j = s.item j :=
  State.item_congr (congrArg Reeve.items (State.modCore_reeve _ _ _)) j

theorem State.irq_rcore (s : State) (x : HallSrc) (n h c : Nat) : (s.irq x n).rcore h c = s.rcore h c := rfl

theorem State.wr_rcore (s : State) (f : Fld) (v h c : Nat) : (s.wr f v).rcore h c = s.rcore h c :=
  State.rcore_congr (congrArg Reeve.cores (State.wr_reeve _ _ _)) h c

end Sys2Proof.Machine

namespace Sys2Proof.Claims

set_option Elab.async false

open Sys2Proof.Machine

theorem coreDoneArrival_ok : ∀ (s : State) (h : Fin 16) (c : Fin 9) (slot : Nat) (i : Item), (s.core (s.coreAt h c)).run = .doneSent 0 →
    (s.rcore h c).st = .running → (s.rcore h c).cur = some slot → s.item slot = some i → i.outcome = none → i.d.report = false →
    i.abortSeen = false → ∃ t, exec (.coreDoneArrival h c) s = .next t ∧ t.item slot = none ∧ (t.rcore h c).cur = none ∧
      (t.rcore h c).st = .idle ∧ (t.core (s.coreAt h c)).run = .idle := by
  intro s h c slot i hrun hst hcur hi ho hrep hab
  let s1 := s.modCore (s.coreAt h c) (fun x => { x with run := .idle })
  have hi1 : s1.newArrival.item slot = some i := hi
  have hgone : ((s1.newArrival.conclude slot .ok (s1.late i)).release slot).settleAll.item slot = none :=
    (EmptyStays.settleAll (fun hn => hn)) (State.release_item (State.conclude_item_reported hi1 hrep hab _ _) rfl)
  refine coreDoneArrival_ends ?_ hgone
  show execCoreDoneArrival h c s = _
  simp only [execCoreDoneArrival, hrun, State.modCore_rcore, State.modCore_item, hst, hcur, hi, ho, reduceCtorEq, ↓reduceIte,
    Option.isSome_none, Bool.false_eq_true, Nat.reduceEqDiff, decide_true, Bool.true_and, State.calmed, s1]

theorem coreDoneArrival_preempted : ∀ (s : State) (h : Fin 16) (c : Fin 9) (slot : Nat) (i : Item), (s.core (s.coreAt h c)).run = .doneSent 2 →
    (s.rcore h c).st = .preempting → (s.rcore h c).cur = some slot → s.item slot = some i → i.outcome = none →
    ∃ t, exec (.coreDoneArrival h c) s = .next t ∧ (t.item slot).map (·.state) = some .preempted ∧
      (t.rcore h c).held = (s.rcore h c).held ++ [slot] ∧ (t.rcore h c).cur = none ∧ (t.rcore h c).st = .idle := by
  intro s h c slot i hrun hst hcur hi ho
  let s1 := s.modCore (s.coreAt h c) (fun x => { x with run := .idle })
  let t := s1.setItem slot (some { i with state := .preempted })
  let u := if (s.rcore h c).reserved.isSome then t.inc R.REEVE_PREEMPTIONS else t
  have hu : u.reeve = t.reeve := by
    simp only [u]
    split
    · exact State.inc_reeve _ _
    · rfl
  have hur : u.rcore h c = s.rcore h c := by
    rw [State.rcore_congr (congrArg Reeve.cores hu), State.setItem_rcore, State.modCore_rcore]
  have he : exec (.coreDoneArrival h c) s =
      .next (((u.modRcore h c (fun x => { x with held := x.held ++ [slot] })).calmed (s.rcore h c) (s.coreAt h c)).idleCore h c) := by
    show execCoreDoneArrival h c s = _
    simp only [execCoreDoneArrival, hrun, State.modCore_rcore, State.modCore_item, hst, hcur, hi, ho, reduceCtorEq, ↓reduceIte,
      Option.isSome_none, Bool.false_eq_true, State.calmed, s1, t, u]
  obtain ⟨hnone, hidle, hheld, -⟩ :=
    ((u.modRcore h c (fun x => { x with held := x.held ++ [slot] })).calmed (s.rcore h c) (s.coreAt h c)).idleCore_rcore h c
  refine ⟨_, he, ?_, ?_, hnone, hidle⟩
  · rw [State.idleCore_item, State.item_congr (congrArg Reeve.items (State.calmed_reeve _ _ _)), State.item_congr (State.modRcore_items _ _ _ _),
      State.item_congr (congrArg Reeve.items hu), State.setItem_item]
    rfl
  · obtain ⟨b, f, hr⟩ := u.setRcore_rcore h c { u.rcore h c with held := (u.rcore h c).held ++ [slot] }
    rw [hheld, State.rcore_congr (congrArg Reeve.cores (State.calmed_reeve _ _ _)), State.modRcore, hr, hur]

theorem lapseHandlerOverrun_cuts : ∀ (s : State) (h : Fin 16) (c : Fin 9) (slot t0 : Nat) (i : Item), (s.rcore h c).cur = some slot → s.item slot = some i →
    i.killAt = some t0 → t0 + 2000 * 65536 ≤ s.stp.now → (s.rcore h c).st ≠ .lapseOverrun →
    ∃ t, exec (.lapseHandlerOverrun h c) s = .next t ∧ (t.rcore h c).st = .lapseOverrun ∧ (t.rcore h c).cur = none ∧
      t.rd R.REEVE_STATUS_OVERRUN = 1 ∧ ⟨.overrun, rkey h c⟩ ∈ t.hallIrq ∧
      t.rd R.REEVE_OVERRUNS = (s.rd R.REEVE_OVERRUNS + 1) % 2 ^ R.REEVE_OVERRUNS.w := by
  intro s h c slot t0 i hcur hi hk hle hst
  show ∃ t, execLapseHandlerOverrun h c s = .next t ∧ _
  simp only [execLapseHandlerOverrun, hcur, hi, hk]
  rw [if_neg (by simp only [hst, or_false]; omega)]
  let u := (s.cutItem h c slot).withdraw h c
  obtain ⟨b, f, hr⟩ := u.setRcore_rcore h c { u.rcore h c with st := .lapseOverrun, cur := none, reserved := none, taken := false }
  refine ⟨_, rfl, ?_, ?_, ?_, State.irq_hallIrq_mem _ _ _, ?_⟩
  · rw [State.irq_rcore, State.wr_rcore, State.modRcore, hr]
  · rw [State.irq_rcore, State.wr_rcore, State.modRcore, hr]
  · rw [State.irq_rd, State.wr_rd_same]
    rfl
  · rw [State.irq_rd, State.wr_rd_ne _ _ _ _ (by decide), State.modRcore,
      State.setRcore_writes _ h.isLt c.isLt _ _ (by simp only [rcoreAddrs, addrIn]; decide),
      State.withdraw_writes _ h.isLt c.isLt _ (by simp only [rcoreAddrs, addrIn]; decide), State.cutItem, State.inc_rd_same]
    rw [State.release_writes _ _ _ (by simp only [slotAddrs, addrIn]; decide), State.quernForce_writes _ _ _ _ _ ?_]
    simp only [quernAddrs, addrIn, Fld.key, R.REEVE_OVERRUNS]
    omega

theorem overrunCoreRelease_releases : ∀ (s : State) (h : Fin 16) (c : Fin 9) (v : Word), bitOf v 28 = true → (s.rcore h c).st = .lapseOverrun → (s.rcore h c).ovrDone = true →
    ∃ t, exec (.overrunCoreRelease h c v) s = .next t ∧ (t.rcore h c).st = .idle ∧ (t.rcore h c).ovrDone = false ∧
      (t.core (s.coreAt h c)).run = .idle := by
  intro s h c v hv hst hdone
  have he : exec (.overrunCoreRelease h c v) s = .next ((s.setRcore h c { s.rcore h c with ovrDone := false }).idleCore h c) := by
    show execOverrunCoreRelease h c v s = _
    rw [execOverrunCoreRelease]
    dsimp only
    rw [if_pos ⟨hv, hst, hdone⟩]
  obtain ⟨b, f, hr⟩ := s.setRcore_rcore h c { s.rcore h c with ovrDone := false }
  obtain ⟨-, hidle, -, hovr⟩ := (s.setRcore h c { s.rcore h c with ovrDone := false }).idleCore_rcore h c
  exact ⟨_, he, hidle, by rw [hovr, hr], idle_of_exec he (by simp [partsOf])⟩

/-- Settles O21: each clause is a lemma above about one command. -/
theorem reeveItemEnds : Obligations.ReeveItemEnds :=
  ⟨coreDoneArrival_ok, coreDoneArrival_preempted, lapseHandlerOverrun_cuts, overrunCoreRelease_releases⟩

end Sys2Proof.Claims

/-! ## Report queues, event flags and REEVE_CTRL (R213 to R216, R219) -/

namespace Sys2Proof.Machine

set_option Elab.async false

open Sys2Proof.Claims

/-! ### Report queues -/

theorem State.setItem_queues (s : State) (k : Nat) (i : Option Item) : (s.setItem k i).reeve.queues = s.reeve.queues := by rw [State.setItem_reeve]

theorem State.modItem_queues (s : State) (k : Nat) (f : Item → Item) : (s.modItem k f).reeve.queues = s.reeve.queues := by
  unfold State.modItem
  split
  · exact State.setItem_queues _ _ _
  · rfl

theorem State.freeSlot_queues (s : State) (k : Nat) : (s.freeSlot k).reeve.queues = s.reeve.queues := by
  rw [State.freeSlot, State.ledgerCount, State.ledgerAt_reeve, State.setItem_queues]

theorem State.setQueue_level (s : State) (q : Nat) (x : ReportQueue) :
    (s.setQueue q x).rd (R.REEVE_REPORT_LEVEL_COUNT q) = x.unread.length % 2 ^ (R.REEVE_REPORT_LEVEL_COUNT q).w := by
  rw [State.setQueue, State.wrB_rd_ne _ _ _ _ (by simp [Fld.key, R.REEVE_REPORT_LEVEL_COUNT, R.REEVE_REPORT_LEVEL_FULL]), State.wr_rd_same]

theorem State.setQueue_full (s : State) (q : Nat) (x : ReportQueue) :
    (s.setQueue q x).rd (R.REEVE_REPORT_LEVEL_FULL q) = if x.unread.length = 64 then 1 else 0 := by
  rw [State.setQueue, State.wrB, State.wr_rd_same]
  by_cases hx : x.unread.length = 64 <;> simp [R.REEVE_REPORT_LEVEL_FULL, hx]

theorem State.setQueue_writes (s : State) (q : Nat) (x : ReportQueue) :
    WritesIn (fun k => slotAddrs k ∨ k = (R.REEVE_REPORT_LEVEL_COUNT q).key ∨ k = (R.REEVE_REPORT_LEVEL_FULL q).key) s (s.setQueue q x) := by
  have hshow : WritesIn slotAddrs s (State.showReeve { s with reeve := { s.reeve with queues := s.reeve.queues.set q x } }) :=
    fun f hf => (State.showReeve_writes _ f hf).trans (State.rd_congr rfl f)
  exact ((hshow.mono fun _ => .inl).wr (.inr (.inl rfl)) _).wrB (.inr (.inr rfl)) _

/-- A report placed in its queue: after the interrupt, the queue and the items are as they were placed. -/
theorem State.placeReport_reeve {s : State} {slot : Nat} {i : Item} (hi : s.item slot = some i) (q : Nat) :
    (s.placeReport q slot).reeve = ((s.setQueue q { s.reeve.queues.get q with
      unread := (s.reeve.queues.get q).unread ++ [reportBody i + (s.reeve.queues.get q).seq % 256 * 2 ^ 40],
      seq := ((s.reeve.queues.get q).seq + 1) % 256 }).modItem slot (fun y => { y with reported := true })).reeve := by
  rw [State.placeReport, hi]
  dsimp only
  split
  · split
    · exact State.irqHost_reeve _ _
    · rfl
  · rfl

/-! ### Event flags -/

theorem State.flags_congr {s t : State} (e : t.regs = s.regs) (g : Nat) : t.flags g = s.flags g := by
  rw [State.flags, State.flags, State.rd_congr e, State.rd_congr e]

theorem State.newArrival_regs (s : State) : s.newArrival.regs = s.regs := rfl

theorem pair32_split (v : DWord) : pair32 (v.toNat % 2 ^ 32) (v.toNat / 2 ^ 32 % 2 ^ 32) = v := by
  refine BitVec.eq_of_toNat_eq ?_
  rw [pair32, BitVec.toNat_ofNat]
  have := v.isLt
  omega

theorem State.setFlags_flags (s : State) (g : Nat) (v : DWord) : (s.setFlags g v).flags g = v := by
  rw [State.flags, State.setFlags, State.wr_rd_same, State.wr_rd_ne _ _ _ _ (by simp only [Fld.key, R.REEVE_EV_FLAGS_FLAGS, ne_eq]; omega), State.wr_rd_same]
  simp only [R.REEVE_EV_FLAGS_FLAGS, Nat.mod_mod]
  exact pair32_split v

theorem State.setFlags_same (s : State) (g : Nat) (v : DWord) :
    sameRegs s (s.setFlags g v) [R.REEVE_EV_FLAGS_FLAGS g 0, R.REEVE_EV_FLAGS_FLAGS g 1] :=
  ((sameRegs.refl s _).wr (by simp) _).wr (by simp) _

/-- Without items there is nothing to settle. -/
theorem State.settleAll_of_no_items {s : State} (h : s.reeve.items.entries = []) : s.settleAll = s := by
  rw [State.settleAll, h, List.length_nil, State.settleLoop, Tab.filterKeys, h]
  rfl

theorem high_half (v : Word) : BitVec.ofNat 64 (v.toNat * 2 ^ 32) = v.zeroExtend 64 <<< 32 := by
  refine BitVec.eq_of_toNat_eq ?_
  have := v.isLt
  simp only [BitVec.toNat_ofNat, BitVec.toNat_shiftLeft, BitVec.truncate_eq_setWidth, BitVec.toNat_setWidth, Nat.shiftLeft_eq]
  omega

theorem low_half (v : Word) : BitVec.ofNat 64 v.toNat = v.zeroExtend 64 := by
  refine BitVec.eq_of_toNat_eq ?_
  simp

end Sys2Proof.Machine

namespace Sys2Proof.Claims

set_option Elab.async false

open Sys2Proof.Machine

theorem reportPostDeferred_places : ∀ (s : State) (q : Fin 64) (slot : Nat) (rest : List Nat) (i : Item), (s.reeve.queues.get q).waiting = slot :: rest →
    (s.reeve.queues.get q).unread.length < 64 → s.item slot = some i → i.released = false →
    ∃ t, exec (.reportPostDeferred q) s = .next t ∧ (t.reeve.queues.get q).waiting = rest ∧
      (t.reeve.queues.get q).unread.length = (s.reeve.queues.get q).unread.length + 1 ∧ (t.item slot).map (·.reported) = some true := by
  intro s q slot rest i hw hlen hi hrel
  let s1 := s.setQueue q { s.reeve.queues.get q with waiting := rest }
  have hi1 : s1.item slot = some i := (State.setQueue_item _ _ _ _).trans hi
  have hq1 : s1.reeve.queues.get q = { s.reeve.queues.get q with waiting := rest } := State.setQueue_queue _ _ _
  have hr := State.placeReport_reeve hi1 q
  have hitem : (s1.placeReport q slot).item slot = some { i with reported := true } := by
    rw [State.item_congr (congrArg Reeve.items hr), State.modItem_item ((State.setQueue_item _ _ _ _).trans hi1)]
  have hqueue : (s1.placeReport q slot).reeve.queues.get q = { s1.reeve.queues.get q with
      unread := (s1.reeve.queues.get q).unread ++ [reportBody i + (s1.reeve.queues.get q).seq % 256 * 2 ^ 40],
      seq := ((s1.reeve.queues.get q).seq + 1) % 256 } := by
    rw [hr, State.modItem_queues, State.setQueue_queue]
  refine ⟨s1.placeReport q slot, ?_, ?_, ?_, by rw [hitem]; rfl⟩
  · show execReportPostDeferred q s = _
    simp only [execReportPostDeferred, hw, if_pos hlen]
    simp only [s1] at hitem
    simp only [hitem, hrel, Bool.false_eq_true, if_false, s1]
  · rw [hqueue, hq1]
  · rw [hqueue, hq1, List.length_append, List.length_singleton]

theorem reeveReportTake_takes : ∀ (s : State) (q : Fin 64) (b : Nat) (r : List Nat), (s.reeve.queues.get q).unread = b :: r →
    ∃ t, exec (.reeveReportTake q true) s = .next t ∧ t.ans = ⟨.ok, 0, [⟨BitVec.ofNat 64 (2 ^ 63 + b), false⟩]⟩ ∧
      (t.reeve.queues.get q).unread = r ∧ (t.reeve.queues.get q).taken = some b ∧
      t.rd (R.REEVE_REPORT_LEVEL_COUNT q) = r.length % 2 ^ (R.REEVE_REPORT_LEVEL_COUNT q).w := by
  intro s q b r hu
  show ∃ t, execReeveReportTake q true s = .next t ∧ _
  simp only [execReeveReportTake, hu, Bool.not_true, Bool.false_eq_true, if_false]
  refine ⟨_, rfl, rfl, ?_, ?_, ?_⟩
  · rw [State.reply_reeve, State.setQueue_queue]
  · rw [State.reply_reeve, State.setQueue_queue]
  · rw [State.reply_rd, State.setQueue_level]

theorem reeveReportTake_stale : ∀ (s : State) (q : Fin 64) (b : Nat), (s.reeve.queues.get q).unread = [] → (s.reeve.queues.get q).taken = some b →
    exec (.reeveReportTake q true) s = .next { s with ans := ⟨.ok, 0, [⟨BitVec.ofNat 64 (2 ^ 62 + b), false⟩]⟩ } := by
  intro s q b hu ht
  show execReeveReportTake q true s = _
  simp only [execReeveReportTake, hu, ht, Bool.not_true, Bool.false_eq_true, if_false]
  rfl

theorem reportQueueFlush_flushes : ∀ (s : State) (q : Fin 64) (v : Word), bitOf v 0 = true → ∃ t, exec (.reportQueueFlush q v) s = .next t ∧
    (t.reeve.queues.get q).unread = [] ∧ t.rd (R.REEVE_REPORT_LEVEL_COUNT q) = 0 ∧ t.rd (R.REEVE_REPORT_LEVEL_FULL q) = 0 ∧
    t.rd (R.REEVE_REPORT_CFG_IRQ_EN q) = (R.REEVE_REPORT_CFG_IRQ_EN q).of v ∧
    t.rd (R.REEVE_REPORT_LEVEL_LOST q) = min (s.rd (R.REEVE_REPORT_LEVEL_LOST q) + (s.reeve.queues.get q).unread.length)
      (2 ^ (R.REEVE_REPORT_LEVEL_LOST q).w - 1) := by
  intro s q v hv
  show ∃ t, execReportQueueFlush q v s = .next t ∧ _
  simp only [execReportQueueFlush, hv, if_true]
  have hq := q.isLt
  refine ⟨_, rfl, ?_, ?_, ?_, ?_, ?_⟩
  · rw [State.setQueue_queue]
  · rw [State.setQueue_level]
    rfl
  · rw [State.setQueue_full]
    rfl
  · rw [State.setQueue_writes _ _ _ _ ?_, State.addSat_rd_ne _ _ _ _ (by simp only [Fld.key, R.REEVE_REPORT_CFG_IRQ_EN, R.REEVE_REPORT_LEVEL_LOST, ne_eq]; omega)]
    · exact State.wrWord_rd_mem _ _ _ _ (by simp) (by simp [Fld.key, R.REEVE_REPORT_CFG_IRQ_EN, R.REEVE_REPORT_CFG_DEST])
    · simp only [slotAddrs, addrIn, Fld.key, R.REEVE_REPORT_CFG_IRQ_EN, R.REEVE_REPORT_LEVEL_COUNT, R.REEVE_REPORT_LEVEL_FULL,
        R.REEVE_STATUS_REPORT_HELD, R.TALLY_STATUS_FAULT, R.TALLY_FAULT_LAST_ID, R.TALLY_FAULT_COUNT_COUNT]
      omega
  · rw [State.setQueue_writes _ _ _ _ ?_, State.addSat, State.wr_rd_same, State.wrWord_rd_ne _ _ _ _ (by simp only [List.mem_cons, List.not_mem_nil, or_false, forall_eq_or_imp, forall_eq, Fld.key, R.REEVE_REPORT_LEVEL_LOST, R.REEVE_REPORT_CFG_IRQ_EN, R.REEVE_REPORT_CFG_DEST, ne_eq]; omega)]
    · exact Nat.mod_eq_of_lt (by simp only [R.REEVE_REPORT_LEVEL_LOST]; omega)
    · simp only [slotAddrs, addrIn, Fld.key, R.REEVE_REPORT_LEVEL_LOST, R.REEVE_REPORT_LEVEL_COUNT, R.REEVE_REPORT_LEVEL_FULL,
        R.REEVE_STATUS_REPORT_HELD, R.TALLY_STATUS_FAULT, R.TALLY_FAULT_LAST_ID, R.TALLY_FAULT_COUNT_COUNT]
      omega

theorem evSet_low : ∀ (s : State) (g : Fin 64) (v : Word), s.bit R.REEVE_CTRL_COMPAT = true → s.reeve.items.entries = [] →
    ∃ t, exec (.evSet g false v) s = .next t ∧ t.flags g = s.flags g ||| v.zeroExtend 64 ∧
      sameRegs s t [R.REEVE_EV_FLAGS_FLAGS g 0, R.REEVE_EV_FLAGS_FLAGS g 1] := by
  intro s g v hc hempty
  show ∃ t, execEvSet g false v s = .next t ∧ _
  simp only [execEvSet, hc, if_true, Bool.false_eq_true, if_false, low_half]
  rw [State.settleAll_of_no_items (s := (s.setFlags g _).newArrival) (by rw [State.newArrival, State.setFlags_reeve, hempty])]
  exact ⟨_, rfl, by rw [State.flags_congr (State.newArrival_regs _), State.setFlags_flags],
    (State.setFlags_same _ _ _).of_regs (State.newArrival_regs _)⟩

theorem evSet_no_compat : ∀ (s : State) (g : Fin 64) (v : Word), s.bit R.REEVE_CTRL_COMPAT = false → exec (.evSet g false v) s = .next s := by
  intro s g v hc
  show execEvSet g false v s = _
  rw [execEvSet, hc]
  rfl

theorem evFlagsClear_high : ∀ (s : State) (g : Fin 64) (v : Word), ∃ t, exec (.evFlagsClear g true v) s = .next t ∧
    t.flags g = s.flags g &&& ~~~(v.zeroExtend 64 <<< 32) ∧ sameRegs s t [R.REEVE_EV_FLAGS_FLAGS g 0, R.REEVE_EV_FLAGS_FLAGS g 1] := by
  intro s g v
  show ∃ t, execEvFlagsClear g true v s = .next t ∧ _
  simp only [execEvFlagsClear, if_true, high_half]
  exact ⟨_, rfl, State.setFlags_flags _ _ _, State.setFlags_same _ _ _⟩

theorem reeveCompatWrite_no_items : ∀ (s : State) (v : Word), s.reeve.items.entries = [] → ∃ t, exec (.reeveCompatWrite v) s = .next t ∧
    t.rd R.REEVE_CTRL_ENABLE = R.REEVE_CTRL_ENABLE.of v ∧ t.rd R.REEVE_CTRL_COMPAT = R.REEVE_CTRL_COMPAT.of v ∧
    sameRegs s t [R.REEVE_CTRL_ENABLE, R.REEVE_CTRL_COMPAT] := by
  intro s v hempty
  show ∃ t, execReeveCompatWrite v s = .next t ∧ _
  simp only [execReeveCompatWrite, Tab.any, hempty, List.any_nil, Bool.false_eq_true, if_false]
  refine ⟨_, rfl, ?_, ?_, ((sameRegs.refl s _).wr (by simp) _).wr (by simp) _⟩
  · rw [State.wr_rd_ne _ _ _ _ (by decide), State.wr_rd_same]
    exact Nat.mod_eq_of_lt (Fld.of_lt _ _)
  · rw [State.wr_rd_same]
    exact Nat.mod_eq_of_lt (Fld.of_lt _ _)

/-- Settles O23: each clause is a lemma above about one command. -/
theorem reeveReportsAndFlags : Obligations.ReeveReportsAndFlags :=
  ⟨reportPostDeferred_places, reeveReportTake_takes, reeveReportTake_stale, reportQueueFlush_flushes, evSet_low, evSet_no_compat,
    evFlagsClear_high, reeveCompatWrite_no_items⟩

end Sys2Proof.Claims

/-! ## The workshops' jobs

What changing the jobs of an engine leaves of the rest, and what one unit of work makes of a job. -/

namespace Sys2Proof.Machine

set_option Elab.async false

open Sys2Proof.Claims

/-! ### Jobs -/

theorem State.showEng_ws (s : State) (w e : Nat) : (s.showEng w e).ws = s.ws := by
  rw [State.showEng, State.wr_ws, State.wr_ws, State.wr_ws]

theorem State.showWaiting_ws (s : State) : s.showWaiting.ws = s.ws := State.wrB_ws _ _ _

theorem State.setJobs_ws (s : State) (w e : Nat) (l : List WsJob) :
    (s.setJobs w e l).ws = { s.ws with jobs := s.ws.jobs.set (jobKey w e) l } := by
  rw [State.setJobs, State.showWaiting_ws, State.showEng_ws]

theorem State.setJobs_reeve (s : State) (w e : Nat) (l : List WsJob) : (s.setJobs w e l).reeve = s.reeve :=
  (keeps_setJobs (.refl (partsBut .reeve) s) (by decide) (by decide) w e l).same_of_but

theorem State.setJobs_ms (s : State) (w e : Nat) (l : List WsJob) : (s.setJobs w e l).ms = s.ms :=
  (keeps_setJobs (.refl (partsBut .ms) s) (by decide) (by decide) w e l).same_of_but

theorem State.setJobs_jobs (s : State) (w e : Nat) (l : List WsJob) : (s.setJobs w e l).jobs w e = l := by
  rw [State.jobs, State.setJobs_ws, Tab.get_set_same]

theorem State.setJobs_jobs_ne (s : State) (l : List WsJob) {w e w' e' : Nat} (h : jobKey w' e' ≠ jobKey w e) :
    (s.setJobs w e l).jobs w' e' = s.jobs w' e' := by
  rw [State.jobs, State.setJobs_ws, Tab.get_set_ne _ _ _ _ h, State.jobs]

theorem State.setJob_job {s : State} {w e i : Nat} {j0 : WsJob} (h : s.job w e i = some j0) (j : WsJob) : (s.setJob w e i j).job w e i = some j := by
  obtain ⟨hi, -⟩ := List.getElem?_eq_some_iff.mp h
  rw [State.job, State.setJob, State.setJobs_jobs, List.getElem?_set_self hi]

theorem State.setJob_reeve (s : State) (w e i : Nat) (j : WsJob) : (s.setJob w e i j).reeve = s.reeve := State.setJobs_reeve _ _ _ _
theorem State.setJob_ms (s : State) (w e i : Nat) (j : WsJob) : (s.setJob w e i j).ms = s.ms := State.setJobs_ms _ _ _ _

theorem State.job_congr {s t : State} (e : t.ws = s.ws) (w n i : Nat) : t.job w n i = s.job w n i := by rw [State.job, State.job, State.jobs, State.jobs, e]

/-! ### One unit of work -/

/-- `k` is the job `j` still: what a unit of work never changes. -/
def SameJob (j k : WsJob) : Prop := k.started = j.started ∧ k.outs = j.outs ∧ k.slot = j.slot ∧ k.words = j.words ∧ k.addr = j.addr

/-- `k` is the job `j` after a unit of work: it is decided, or the unit is counted. -/
def Worked (j k : WsJob) : Prop := SameJob j k ∧ (k.decided = none → k.done = j.done + 1)

theorem SameJob.refl (j : WsJob) : SameJob j j := ⟨rfl, rfl, rfl, rfl, rfl⟩

theorem SameJob.trans {j k l : WsJob} (h : SameJob j k) (h' : SameJob k l) : SameJob j l :=
  ⟨h'.1.trans h.1, h'.2.1.trans h.2.1, h'.2.2.1.trans h.2.2.1, h'.2.2.2.1.trans h.2.2.2.1, h'.2.2.2.2.trans h.2.2.2.2⟩

theorem SameJob.stop {j k : WsJob} (h : SameJob j k) (o : ItemEnd) (c : Nat) : Worked j (k.stop o c) := ⟨h, nofun⟩

theorem Worked.of_done {j k : WsJob} (h : SameJob j k) (hd : k.done = j.done + 1) : Worked j k := ⟨h, fun _ => hd⟩

/-- Work on a workable job is its one unit. -/
theorem State.workUnits_one {s : State} {w e : Nat} {j : WsJob} (h : workable s w e j) (unit : State → WsJob → WsJob × State)
    (last : WsJob → Bool) : s.workUnits w e unit last 1 = (unit s { j with started := true }).2.setJob w e 0
      (if (unit s { j with started := true }).1.decided = none ∧ last (unit s { j with started := true }).1 then
        { (unit s { j with started := true }).1 with outs := true } else (unit s { j with started := true }).1) := by
  obtain ⟨hj, hl, hw, hlate⟩ := h
  simp only [State.workUnits, hj, hl, hw, hlate, Bool.not_true, Bool.or_self, Bool.false_eq_true, if_false]

/-- A job whose deadline has passed is lapsed instead of worked. -/
theorem State.workUnits_late {s : State} {w e : Nat} {j : WsJob} (hj : s.job w e 0 = some j) (hl : j.live = true) (hw : j.waiting = false)
    (hlate : s.jobLate j = true) (unit : State → WsJob → WsJob × State) (last : WsJob → Bool) :
    s.workUnits w e unit last 1 = s.setJob w e 0 ({ j with started := true }.stop .lapsed 0) := by
  simp only [State.workUnits, hj, hl, hw, hlate, Bool.not_true, Bool.or_self, Bool.false_eq_true, if_false, if_true]

theorem WsJob.live_iff (j : WsJob) : j.live = true ↔ j.decided = none ∧ j.outs = false := by
  rw [WsJob.live, Bool.and_eq_true, Option.isNone_iff_eq_none, Bool.not_eq_true']

/-- A unit worked on a workable job: it is one unit further, and the Reeve has seen nothing of it. -/
theorem State.workUnits_further {s : State} {w e : Nat} {j : WsJob} {unit : State → WsJob → WsJob × State} {last : WsJob → Bool}
    (h : workable s w e j) (hu : Worked { j with started := true } (unit s { j with started := true }).1)
    (hws : (unit s { j with started := true }).2.ws = s.ws) (hr : (unit s { j with started := true }).2.reeve = s.reeve)
    (hlast : ∀ k : WsJob, last { k with outs := true } = last k) (hd : (unit s { j with started := true }).1.decided = none) :
    ∃ j1, (s.workUnits w e unit last 1).job w e 0 = some j1 ∧ unitFurther j j1 last ∧ (s.workUnits w e unit last 1).reeve = s.reeve := by
  obtain ⟨hj, hl, -, -⟩ := id h
  obtain ⟨-, houts⟩ := (WsJob.live_iff j).mp hl
  rw [State.workUnits_one h]
  generalize hx : unit s { j with started := true } = x at *
  obtain ⟨⟨hst, ho, hslot, hwords, haddr⟩, hdone⟩ := hu
  refine ⟨_, State.setJob_job ((State.job_congr hws _ _ _).trans hj) _, ?_, (State.setJob_reeve _ _ _ _ _).trans hr⟩
  cases hlx : last x.1 with
  | true =>
    rw [if_pos ⟨hd, rfl⟩]
    exact ⟨hst, hdone hd, hd, ((hlast x.1).trans hlx).symm, hslot, hwords, haddr⟩
  | false =>
    rw [if_neg (by simp)]
    exact ⟨hst, hdone hd, hd, by rw [ho, houts, hlx], hslot, hwords, haddr⟩

/-! ### Bytes that the engines read -/

theorem State.dmaWords_length {mid : Mid} {n : Nat} {s u : State} {a : Nat} {l : List PWord} (h : s.dmaWords mid a n = (some l, u)) : l.length = n := by
  induction n generalizing s a l with
  | zero =>
    rw [State.dmaWords] at h
    cases h
    rfl
  | succ n ih =>
    rw [State.dmaWords] at h
    split at h
    · cases h
    · split at h
      · cases h
      · dsimp only at h
        split at h
        · next hl =>
          cases h
          rw [List.length_cons, ih hl]
        · cases h

theorem wordBytes_length (l : List PWord) : (wordBytes l).length = 8 * l.length := by
  simp [wordBytes, List.length_flatMap, Nat.mul_comm]

theorem State.dmaRead_length {mid : Mid} {n a : Nat} {s u : State} {l : List (Nat × Bool)} (h : s.dmaRead mid a n = (some l, u)) : l.length = n := by
  rw [State.dmaRead] at h
  split at h
  · cases h
    simp [*]
  · split at h
    · next hw =>
      cases h
      have := State.dmaWords_length hw
      rw [List.length_take, List.length_drop, wordBytes_length]
      omega
    · cases h

theorem unpackBits_length (l : List Nat) {n : Nat} (h : n ≤ 8 * l.length) : (unpackBits l n).length = n := by
  have hb (b : Nat) : (byteBits b).length = 8 := by simp [byteBits]
  rw [unpackBits, List.length_take, List.length_flatMap]
  simp only [hb, List.map_const', List.sum_replicate, smul_eq_mul]
  omega

end Sys2Proof.Machine

/-! ## The Kiln's, the Wheel's and the Mill's operations (R221 to R232, R240 to R245, R271, R281 to R283) -/

namespace Sys2Proof.Machine

set_option Elab.async false

open Sys2Proof.Claims

/-! ### What a unit of the Kiln makes of its job -/

/-- Combining gives a buffer and leaves the count of the job's units, or it stops the job. -/
theorem State.kilnCombine_job (s : State) (j : WsJob) (t : TbJob) (r : Nat) : SameJob j (s.kilnCombine j t r).2.1 ∧
    ((s.kilnCombine j t r).1 = none → (s.kilnCombine j t r).2.1.decided ≠ none) ∧
    ((s.kilnCombine j t r).1 ≠ none → (s.kilnCombine j t r).2.1.done = j.done) := by
  unfold State.kilnCombine
  dsimp only
  split
  · exact ⟨.refl j, fun _ => nofun, fun h => absurd rfl h⟩
  · split
    · exact ⟨.refl j, fun _ => nofun, fun h => absurd rfl h⟩
    · by_cases hm : t.mode = 0
      · rw [if_pos hm]
        exact ⟨.refl j, nofun, fun _ => rfl⟩
      · rw [if_neg hm]
        split
        · exact ⟨.refl j, nofun, fun _ => rfl⟩
        · exact ⟨.refl j, fun _ => nofun, fun h => absurd rfl h⟩

theorem State.kilnDecode_job (s : State) (j : WsJob) (t : TbJob) (r : Nat) (buf : List (Int × Bool)) (bad : Bool) :
    Worked j (s.kilnDecode j t r buf bad).1 := by
  unfold State.kilnDecode
  dsimp only
  cases bad with
  | true =>
    rw [if_pos rfl]
    split
    · exact .of_done (.refl j) rfl
    · exact (SameJob.refl j).stop _ _
  | false =>
    rw [if_neg (by decide)]
    split
    · exact .of_done (.refl j) rfl
    · exact (SameJob.refl j).stop _ _

theorem State.unitDecode_job (s : State) (j : WsJob) (t : TbJob) : Worked j (s.unitDecode j t).1 := by
  obtain ⟨hsame, hstop, hdone⟩ := s.kilnCombine_job { j with poisoned := false } t (t.first + j.done)
  unfold State.unitDecode
  dsimp only
  split
  · next j1 u hc =>
    rw [hc] at hsame hstop
    exact ⟨hsame, fun hd => absurd hd (hstop rfl)⟩
  · next buf j1 u hc =>
    rw [hc] at hsame hdone
    obtain ⟨hs, hd⟩ := u.kilnDecode_job { j1 with poisoned := j.poisoned || j1.poisoned } t (t.first + j.done) buf j1.poisoned
    exact ⟨SameJob.trans (j := j) hsame hs, fun hn => (hd hn).trans (congrArg (· + 1) (hdone nofun))⟩

theorem State.unitEncode_job (s : State) (j : WsJob) (t : TbJob) : Worked j (s.unitEncode j t).1 := by
  unfold State.unitEncode
  dsimp only
  split
  · exact (SameJob.refl j).stop _ _
  · split
    · exact (SameJob.refl j).stop _ _
    · split
      · exact .of_done (.refl j) rfl
      · exact SameJob.stop (k := { j with poisoned := _ }) (.refl j) .aborted 6

theorem State.unitPolar_job (s : State) (j : WsJob) (d : Bool) (p : PolarJob) : Worked j (s.unitPolar j d p).1 := by
  unfold State.unitPolar
  dsimp only
  split
  · exact (SameJob.refl j).stop _ _
  · split
    · exact .of_done (.refl j) rfl
    · exact SameJob.stop (k := { j with poisoned := _ }) (.refl j) .aborted 6

theorem State.unitCrc_job (s : State) (j : WsJob) (c : CrcJob) : Worked j (s.unitCrc j c).1 := by
  unfold State.unitCrc
  dsimp only
  split
  · exact (SameJob.refl j).stop _ _
  · exact .of_done (.refl j) rfl

theorem State.kilnUnit_job (s : State) (j : WsJob) (h : (parseKiln j.words).isSome = true) : Worked j (s.kilnUnit j).1 := by
  unfold State.kilnUnit
  split
  · next t hp =>
    cases hd : t.decode with
    | true =>
      rw [if_pos rfl]
      exact s.unitDecode_job j t
    | false =>
      rw [if_neg (by decide)]
      exact s.unitEncode_job j t
  · exact s.unitPolar_job j _ _
  · exact s.unitCrc_job j _
  · next hp =>
    rw [hp] at h
    exact absurd h (by decide)

/-- The one piece of a CRC job of at most 64 KiB. -/
theorem State.unitCrc_short {s u : State} {j : WsJob} {c : CrcJob} {inp : List (Nat × Bool)} (hdone : j.done = 0) (hlen : c.len ≤ 8 * 65536)
    (hread : s.dmaRead (wsMid 0) (jobIn j.words) (ceilDiv c.len 8) = (some inp, u)) :
    s.unitCrc j c = ({ j with crc := c.g.shift (Nat.xor (c.g.shift j.crc c.len) (c.g.rem (unpackBits (byteVals inp) c.len))) c.tail,
                              crcMark := j.crcMark || anyBad inp, poisoned := j.poisoned || anyBad inp, done := 1 }, u) := by
  have hn : min 65536 (ceilDiv c.len 8) = ceilDiv c.len 8 := by rw [ceilDiv]; omega
  have hall : min (8 * ceilDiv c.len 8) c.len = c.len := by rw [ceilDiv]; omega
  have hfin : c.len ≤ 8 * ceilDiv c.len 8 := by rw [ceilDiv]; omega
  have hbits : (unpackBits (byteVals inp) c.len).length = c.len :=
    unpackBits_length _ (by rwa [byteVals, List.length_map, State.dmaRead_length hread])
  simp only [State.unitCrc, hdone, Nat.zero_mul, Nat.add_zero, Nat.sub_zero, Nat.mul_zero, Nat.zero_add, hn, hread, hall, hbits, hfin,
    decide_true, if_true]

theorem State.kilnUnit_ws (s : State) (j : WsJob) : (s.kilnUnit j).2.ws = s.ws :=
  (keeps_kilnUnit (.refl (partsBut .ws) s) (by decide) (by decide) (by decide) (by decide) (by decide) (by decide) j).same_of_but

theorem State.kilnUnit_reeve (s : State) (j : WsJob) : (s.kilnUnit j).2.reeve = s.reeve :=
  (keeps_kilnUnit (.refl (partsBut .reeve) s) (by decide) (by decide) (by decide) (by decide) (by decide) (by decide) j).same_of_but

theorem State.kilnWork_eq {s : State} {e : Nat} {j : WsJob} (h : s.job 0 e 0 = some j) {op : Nat} (ho : jobOp j.words = op) (n : Nat) :
    s.kilnWork op e n = .next (s.workUnits 0 e State.kilnUnit kilnLast n) := by
  simp only [State.kilnWork, h, ho, if_true]

end Sys2Proof.Machine

namespace Sys2Proof.Claims

set_option Elab.async false

open Sys2Proof.Machine

/-! ### The clauses -/

/-- Each coding operation is work on the running job of its `OP`. -/
theorem exec_kilnOp (s : State) (e : Fin 16) : ∀ p ∈ ([(1, Instr.ldpcDec), (2, Instr.ldpcEnc), (3, Instr.polarDec), (4, Instr.polarEnc),
    (5, Instr.turboDec), (6, Instr.turboEnc), (7, Instr.crcJob)] : List (Nat × (Fin 16 → Nat → Instr))),
    exec (p.2 e 1) s = s.kilnWork p.1 e 1 := by
  simp only [List.mem_cons, List.not_mem_nil, or_false, forall_eq_or_imp, forall_eq]
  exact ⟨rfl, rfl, rfl, rfl, rfl, rfl, rfl⟩

theorem kilnOp_unit : ∀ p ∈ ([(1, Instr.ldpcDec), (2, Instr.ldpcEnc), (3, Instr.polarDec), (4, Instr.polarEnc), (5, Instr.turboDec), (6, Instr.turboEnc),
      (7, Instr.crcJob)] : List (Nat × (Fin 16 → Nat → Instr))),
    ∀ (s : State) (e : Fin 16) (j : WsJob), workable s 0 e j → jobOp j.words = p.1 → (parseKiln j.words).isSome = true →
      (s.kilnUnit { j with started := true }).1.decided = none → ∃ t j1, exec (p.2 e 1) s = .next t ∧ t.job 0 e 0 = some j1 ∧
        unitFurther j j1 kilnLast ∧ t.reeve = s.reeve := by
  intro p hp s e j hw hop hparse hd
  obtain ⟨j1, hj1, hfur, hr⟩ := State.workUnits_further (last := kilnLast) hw (s.kilnUnit_job _ hparse) (s.kilnUnit_ws _) (s.kilnUnit_reeve _)
    (fun _ => rfl) hd
  exact ⟨_, j1, (exec_kilnOp s e p hp).trans (State.kilnWork_eq hw.1 hop 1), hj1, hfur, hr⟩

theorem kilnOp_late : ∀ p ∈ ([(1, Instr.ldpcDec), (2, Instr.ldpcEnc), (3, Instr.polarDec), (4, Instr.polarEnc), (5, Instr.turboDec), (6, Instr.turboEnc),
      (7, Instr.crcJob)] : List (Nat × (Fin 16 → Nat → Instr))),
    ∀ (s : State) (e : Fin 16) (j : WsJob), s.job 0 e 0 = some j → j.live = true → j.waiting = false → s.jobLate j = true →
      jobOp j.words = p.1 → ∃ t j1, exec (p.2 e 1) s = .next t ∧ t.job 0 e 0 = some j1 ∧ j1.decided = some .lapsed ∧ j1.done = j.done ∧
        t.ms = s.ms := by
  intro p hp s e j hj hl hw hlate hop
  refine ⟨_, _, ?_, State.setJob_job hj ({ j with started := true }.stop .lapsed 0), rfl, rfl, State.setJob_ms _ _ _ _ _⟩
  rw [exec_kilnOp s e p hp, State.kilnWork_eq hj hop, State.workUnits_late hj hl hw hlate]

theorem crcJob_short : ∀ (s u : State) (e : Fin 16) (j : WsJob) (c : CrcJob) (inp : List (Nat × Bool)), workable s 0 e j → jobOp j.words = 7 →
    parseKiln j.words = some (.crc c) → j.done = 0 → c.len ≤ 8 * 65536 → s.dmaRead (wsMid 0) (jobIn j.words) (ceilDiv c.len 8) = (some inp, u) →
    anyBad inp = false → ∃ t j1, exec (.crcJob e 1) s = .next t ∧ t.job 0 e 0 = some j1 ∧ j1.outs = true ∧
      j1.crc = c.g.shift (Nat.xor (c.g.shift j.crc c.len) (c.g.rem ((unpackBits (byteVals inp) c.len)))) c.tail ∧ t.ms = u.ms := by
  intro s u e j c inp hw hop hparse hdone hlen hread hbad
  have hunit := (show s.kilnUnit { j with started := true } = s.unitCrc { j with started := true } c by simp only [State.kilnUnit, hparse]).trans
    (State.unitCrc_short (j := { j with started := true }) hdone hlen hread)
  have hlast (k : WsJob) (hk : k.words = j.words) (hd : k.done = 1) : kilnLast k = true := by
    have hone : ceilDiv (ceilDiv c.len 8) 65536 ≤ 1 := by rw [ceilDiv, ceilDiv]; omega
    simp only [kilnLast, hk, hparse, KJob.units, hd, hone, decide_true]
  have hdec : j.decided = none := ((WsJob.live_iff j).mp hw.2.1).1
  have hu : u.ws = s.ws := (congrArg (fun x => x.2.ws) hunit).symm.trans (s.kilnUnit_ws _)
  have hwork := State.workUnits_one hw State.kilnUnit kilnLast
  rw [hunit] at hwork
  dsimp only at hwork
  rw [if_pos ⟨hdec, hlast _ rfl rfl⟩] at hwork
  refine ⟨_, _, (State.kilnWork_eq hw.1 hop 1).trans (congrArg _ hwork), State.setJob_job ((State.job_congr hu _ _ _).trans hw.1) _, rfl, rfl,
    State.setJob_ms _ _ _ _ _⟩

/-- Settles O24: each clause is a lemma above. -/
theorem kilnOperations : Obligations.KilnOperations := ⟨kilnOp_unit, kilnOp_late, crcJob_short⟩

end Sys2Proof.Claims

/-! ## The Wheel's and the Mill's operations (R271, R281 to R283) -/

namespace Sys2Proof.Machine

set_option Elab.async false

open Sys2Proof.Claims

/-- Reading the reference changes nothing that a unit keeps. -/
theorem State.wheelRef_job {s u : State} {j k : WsJob} {w : WheelJob} (h : s.wheelRef j w = (some k, u)) : SameJob j k ∧ k.done = j.done := by
  unfold State.wheelRef at h
  split at h
  · split at h
    · cases h
    · cases h
      exact ⟨.refl j, rfl⟩
  · cases h
    exact ⟨.refl j, rfl⟩

theorem State.wheelUnit_job (s : State) (j : WsJob) (h : (parseWheel j.words).isSome = true) : Worked j (s.wheelUnit j).1 := by
  unfold State.wheelUnit
  dsimp only
  split
  · next hp =>
    rw [hp] at h
    exact absurd h (by decide)
  · next w hp =>
    split
    · exact (SameJob.refl j).stop _ _
    · next j0 s0 href =>
      obtain ⟨hs0, hd0⟩ := State.wheelRef_job href
      split
      · exact hs0.stop _ _
      · next inp u hread =>
        by_cases h3 : w.op = 3
        · rw [if_pos h3]
          by_cases hsum : w.sum = true
          · rw [if_pos hsum]
            by_cases hl : decide (j0.done + 1 = w.count) = true
            · rw [if_pos hl]
              split
              · exact .of_done hs0 (congrArg (· + 1) hd0)
              · exact ⟨hs0, nofun⟩
            · rw [if_neg hl]
              exact .of_done hs0 (congrArg (· + 1) hd0)
          · rw [if_neg hsum]
            split
            · exact .of_done hs0 (congrArg (· + 1) hd0)
            · exact ⟨hs0, nofun⟩
        · rw [if_neg h3]
          split
          · exact ⟨hs0, nofun⟩
          · split
            · split
              · exact .of_done hs0 (congrArg (· + 1) hd0)
              · exact ⟨hs0, nofun⟩
            · exact .of_done hs0 (congrArg (· + 1) hd0)

theorem State.millOut_job (s : State) {j k : WsJob} (h : SameJob j k) (hd : k.done = j.done) (m : MillJob) (g : Nat)
    (outs : List (Nat × List (Nat × Bool))) (b : Block) : Worked j (s.millOut k m g outs b).1 := by
  unfold State.millOut
  dsimp only
  split
  · exact ⟨h, fun _ => congrArg (· + 1) hd⟩
  · exact ⟨h, nofun⟩

theorem State.millUnit_job (s : State) (j : WsJob) {m : MillJob} (hm : parseMill j.words = some m) (hg : (parseGroup m j.table j.done).isSome = true) :
    Worked j (s.millUnit j).1 := by
  unfold State.millUnit
  dsimp only
  rw [hm]
  dsimp only
  split
  · next hp =>
    rw [hp] at hg
    exact absurd hg (by decide)
  · split
    · exact (SameJob.refl j).stop _ _
    · split
      · split
        · exact State.millOut_job _ ⟨rfl, rfl, rfl, rfl, rfl⟩ rfl _ _ _ _
        · exact State.millOut_job _ ⟨rfl, rfl, rfl, rfl, rfl⟩ rfl _ _ _ _
      · exact State.millOut_job _ ⟨rfl, rfl, rfl, rfl, rfl⟩ rfl _ _ _ _
      · split
        · exact State.millOut_job _ ⟨rfl, rfl, rfl, rfl, rfl⟩ rfl _ _ _ _
        · exact State.millOut_job _ ⟨rfl, rfl, rfl, rfl, rfl⟩ rfl _ _ _ _

theorem State.wheelUnit_ws (s : State) (j : WsJob) : (s.wheelUnit j).2.ws = s.ws :=
  (keeps_wheelUnit (.refl (partsBut .ws) s) (by decide) (by decide) (by decide) (by decide) (by decide) (by decide) j).same_of_but

theorem State.wheelUnit_reeve (s : State) (j : WsJob) : (s.wheelUnit j).2.reeve = s.reeve :=
  (keeps_wheelUnit (.refl (partsBut .reeve) s) (by decide) (by decide) (by decide) (by decide) (by decide) (by decide) j).same_of_but

theorem State.millUnit_ws (s : State) (j : WsJob) : (s.millUnit j).2.ws = s.ws :=
  (keeps_millUnit (.refl (partsBut .ws) s) (by decide) (by decide) (by decide) (by decide) (by decide) (by decide) j).same_of_but

theorem State.millUnit_reeve (s : State) (j : WsJob) : (s.millUnit j).2.reeve = s.reeve :=
  (keeps_millUnit (.refl (partsBut .reeve) s) (by decide) (by decide) (by decide) (by decide) (by decide) (by decide) j).same_of_but

end Sys2Proof.Machine

namespace Sys2Proof.Claims

set_option Elab.async false

open Sys2Proof.Machine

theorem exec_wheelOp (s : State) (e : Fin 16) : ∀ p ∈ ([(1, Instr.wheelFwd), (2, Instr.wheelInv), (3, Instr.wheelCorr)] :
    List (Nat × (Fin 16 → Nat → Instr))), exec (p.2 e 1) s = s.wmWork 1 p.1 e 1 := by
  simp only [List.mem_cons, List.not_mem_nil, or_false, forall_eq_or_imp, forall_eq]
  exact ⟨rfl, rfl, rfl⟩

theorem exec_millOp (s : State) (e : Fin 8) : ∀ p ∈ ([(1, Instr.ulWeights), (2, Instr.ulDetect), (3, Instr.dlWeights)] :
    List (Nat × (Fin 8 → Nat → Instr))), exec (p.2 e 1) s = s.wmWork 2 p.1 e 1 := by
  simp only [List.mem_cons, List.not_mem_nil, or_false, forall_eq_or_imp, forall_eq]
  exact ⟨rfl, rfl, rfl⟩

theorem wheelOp_unit : ∀ p ∈ ([(1, Instr.wheelFwd), (2, Instr.wheelInv), (3, Instr.wheelCorr)] : List (Nat × (Fin 16 → Nat → Instr))),
    ∀ (s : State) (e : Fin 16) (j : WsJob), workable s 1 e j → nbits (wword j.words 0) 28 4 = p.1 → (parseWheel j.words).isSome = true →
      (s.wheelUnit { j with started := true }).1.decided = none → ∃ t j1, exec (p.2 e 1) s = .next t ∧ t.job 1 e 0 = some j1 ∧
        unitFurther j j1 wheelLast ∧ t.reeve = s.reeve := by
  intro p hp s e j hw hop hparse hd
  obtain ⟨j1, hj1, hfur, hr⟩ := State.workUnits_further (last := wheelLast) hw (s.wheelUnit_job _ hparse) (s.wheelUnit_ws _) (s.wheelUnit_reeve _)
    (fun _ => rfl) hd
  refine ⟨_, j1, (exec_wheelOp s e p hp).trans ?_, hj1, hfur, hr⟩
  simp only [State.wmWork, hw.1, hop, if_true]

theorem millOp_unit : ∀ p ∈ ([(1, Instr.ulWeights), (2, Instr.ulDetect), (3, Instr.dlWeights)] : List (Nat × (Fin 8 → Nat → Instr))),
    ∀ (s : State) (e : Fin 8) (j : WsJob) (m : MillJob), workable s 2 e j → nbits (wword j.words 0) 28 4 = p.1 →
      parseMill j.words = some m → (parseGroup m j.table j.done).isSome = true →
      (s.millUnit { j with started := true }).1.decided = none → ∃ t j1, exec (p.2 e 1) s = .next t ∧ t.job 2 e 0 = some j1 ∧
        unitFurther j j1 millLast ∧ t.reeve = s.reeve := by
  intro p hp s e j m hw hop hparse hg hd
  obtain ⟨j1, hj1, hfur, hr⟩ := State.workUnits_further (last := millLast) hw (s.millUnit_job { j with started := true } hparse hg) (s.millUnit_ws _)
    (s.millUnit_reeve _) (fun _ => rfl) hd
  refine ⟨_, j1, (exec_millOp s e p hp).trans ?_, hj1, hfur, hr⟩
  simp only [State.wmWork, hw.1, hop, if_true, if_neg (by decide : (2 : Nat) ≠ 1)]

/-- Settles O25: each clause is a lemma above. -/
theorem wheelAndMillOperations : Obligations.WheelAndMillOperations := ⟨wheelOp_unit, millOp_unit⟩

end Sys2Proof.Claims

/-! ## Items to engines and back (R208, R218, R224, R225, R256) -/

namespace Sys2Proof.Machine

set_option Elab.async false

open Sys2Proof.Claims

/-! ### What an item's end leaves of the end statuses on their way -/

/-- The end statuses on their way to the Reeve are those of `s`. -/
def SameEnds (s t : State) : Prop := t.reeve.wsEnds = s.reeve.wsEnds

section
variable {s t u : State}

theorem SameEnds.of_reeve (h : SameEnds s t) (e : u.reeve = t.reeve) : SameEnds s u := (congrArg Reeve.wsEnds e).trans h

theorem SameEnds.setItem (h : SameEnds s t) (k : Nat) (i : Option Item) : SameEnds s (t.setItem k i) := by
  rw [SameEnds, State.setItem_reeve]
  exact h

theorem SameEnds.modItem (h : SameEnds s t) (k : Nat) (f : Item → Item) : SameEnds s (t.modItem k f) := by
  unfold State.modItem
  split
  · exact h.setItem _ _
  · exact h

theorem SameEnds.setQueue (h : SameEnds s t) (q : Nat) (x : ReportQueue) : SameEnds s (t.setQueue q x) := by
  rw [SameEnds, State.setQueue_reeve]
  exact h

theorem SameEnds.setRcore (h : SameEnds s t) (k c : Nat) (r : ReeveCore) : SameEnds s (t.setRcore k c r) := by
  simp only [SameEnds, State.setRcore, State.wr_reeve, State.wrB_reeve]
  exact h

theorem SameEnds.freeSlot (h : SameEnds s t) (k : Nat) : SameEnds s (t.freeSlot k) := by
  rw [SameEnds, State.freeSlot, State.ledgerCount, State.ledgerAt_reeve, State.setItem_reeve]
  exact h

theorem SameEnds.release (h : SameEnds s t) (k : Nat) : SameEnds s (t.release k) := by
  unfold State.release
  split
  · exact h
  · split
    · exact h.freeSlot k
    · exact h.setItem _ _

theorem SameEnds.placeReport (h : SameEnds s t) (q k : Nat) : SameEnds s (t.placeReport q k) := by
  cases hk : t.item k with
  | none => rwa [State.placeReport, hk]
  | some i => exact ((h.setQueue q _).modItem k _).of_reeve (State.placeReport_reeve hk q)

theorem SameEnds.postReport (h : SameEnds s t) (k : Nat) : SameEnds s (t.postReport k) := by
  unfold State.postReport
  split
  · exact h
  · split
    · exact h.modItem k _
    · dsimp only
      split
      · exact h.placeReport _ k
      · exact h.setQueue _ _

theorem SameEnds.foldl {α : Type} {g : State → α → State} (hg : ∀ t a, SameEnds s t → SameEnds s (g t a)) (l : List α) (h : SameEnds s t) :
    SameEnds s (l.foldl g t) := by
  induction l generalizing t with
  | nil => exact h
  | cons a r ih => exact ih (hg t a h)

theorem SameEnds.withdraw (h : SameEnds s t) (k c : Nat) : SameEnds s (t.withdraw k c) := by
  unfold State.withdraw
  dsimp only
  split
  · exact (h.of_reeve (State.coreUnirq_reeve _ _ _)).setRcore _ _ _
  · exact h

theorem SameEnds.unreserve (h : SameEnds s t) (k : Nat) : SameEnds s (t.unreserve k) :=
  h.foldl (fun _ _ hv => by
    dsimp only
    split
    · exact hv.setRcore _ _ _
    · exact hv.withdraw _ _) _

theorem SameEnds.sendSuccs (h : SameEnds s t) (i : Item) (lapse : Bool) : SameEnds s (t.sendSuccs i lapse) := by
  unfold State.sendSuccs
  split
  · exact h
  · refine h.foldl (fun v x hv => ?_) _
    show (v.decrIssue true).reeve.wsEnds = _
    rw [State.decrIssue, State.ledgerAt_reeve]
    exact hv

theorem SameEnds.conclude (h : SameEnds s t) (k : Nat) (o : ItemEnd) (late : Bool) : SameEnds s (t.conclude k o late) := by
  cases hk : t.item k with
  | none => rwa [State.conclude, hk]
  | some i =>
    rw [State.conclude_eq hk]
    refine (SameEnds.postReport (SameEnds.of_reeve ?_ (State.tapEvent_reeve _ _ _)) k).unreserve k
    have hsent (x : Item) : SameEnds s (((t.setItem k (some x)).countEnd x o).sendSuccs x (decide (o = .lapsed ∨ o = .aborted))) :=
      ((h.setItem k (some x)).of_reeve (State.countEnd_reeve _ _ _)).sendSuccs _ _
    split
    · exact (hsent _).of_reeve (State.setFlags_reeve _ _ _)
    · exact hsent _

theorem SameEnds.endWaiting (h : SameEnds s t) (k : Nat) (o : ItemEnd) : SameEnds s (t.endWaiting k o) := (h.conclude k o false).release k

theorem SameEnds.inc (h : SameEnds s t) (f : Fld) : SameEnds s (t.inc f) := h.of_reeve (State.inc_reeve t f)

theorem SameEnds.lapseIfPassed (h : SameEnds s t) (k : Nat) : SameEnds s (t.lapseIfPassed k) := by
  unfold State.lapseIfPassed
  split
  · split
    · exact (h.inc _).endWaiting k _
    · exact h
  · exact h

theorem SameEnds.settle (h : SameEnds s t) (k : Nat) : SameEnds s (t.settle k) := by
  unfold State.settle
  split
  · exact h
  · split_ifs
    · exact h
    · exact (h.inc _).endWaiting k _
    · exact h.endWaiting k _
    · exact h.modItem k _

theorem SameEnds.settleLoop (n : Nat) (h : SameEnds s t) : SameEnds s (t.settleLoop n) := by
  induction n generalizing t with
  | zero => exact h
  | succ n ih =>
    unfold State.settleLoop
    split
    · exact h
    · exact ih ((h.lapseIfPassed _).settle _)

end

end Sys2Proof.Machine

namespace Sys2Proof.Machine

set_option Elab.async false

open Sys2Proof.Claims

/-! ### Staging -/

theorem State.readJob_ws (s : State) (w addr : Nat) : (s.readJob w addr).2.ws = s.ws :=
  (keeps_readJob (.refl (partsBut .ws) s) (by decide) (by decide) (by decide) (by decide) (by decide) w addr).same_of_but

theorem State.millCheck_ws (s : State) (addr : Nat) (ws : List Nat) : (s.millCheck addr ws).2.ws = s.ws :=
  (keeps_millCheck (.refl (partsBut .ws) s) (by decide) (by decide) (by decide) (by decide) (by decide) addr ws).same_of_but

/-- From `s` to `t` engine `e` of workshop `w` has one more job, at the end of its list. -/
def JobAdded (w e : Nat) (s t : State) : Prop := ∃ j, t.jobs w e = s.jobs w e ++ [j]

theorem JobAdded.of_put {w e : Nat} {s u : State} (h : u.ws.jobs = s.ws.jobs) (j : WsJob) : JobAdded w e s (u.setJobs w e (u.jobs w e ++ [j])) :=
  ⟨j, by rw [State.setJobs_jobs, State.jobs, h, State.jobs]⟩

theorem State.stageKiln_jobs (s : State) (e slot : Nat) (d : ItemDesc) : JobAdded 0 e s (s.stageKiln e slot d) := by
  have hread := State.readJob_ws { s with ws := { s.ws with staged := s.ws.staged + 1 } } 0 (d.args.getD 0 0 * 256)
  unfold State.stageKiln
  dsimp only
  split
  · next hr =>
    rw [hr] at hread
    exact .of_put (congrArg Workshops.jobs hread) _
  · next u hr =>
    rw [hr] at hread
    have hu : u.ws.jobs = s.ws.jobs := (congrArg Workshops.jobs hread :)
    split_ifs
    · exact .of_put hu _
    · exact .of_put hu _
    · exact .of_put ((congrArg Workshops.jobs (State.inc_ws _ _)).trans hu) _
    · exact .of_put hu _

theorem State.stageWm_jobs (s : State) (w e slot : Nat) (d : ItemDesc) : JobAdded w e s (s.stageWm w e slot d) := by
  have hread := State.readJob_ws { s with ws := { s.ws with staged := s.ws.staged + 1 } } w (d.args.getD 0 0 * 256)
  unfold State.stageWm
  dsimp only
  split
  · next hr =>
    rw [hr] at hread
    exact .of_put (congrArg Workshops.jobs hread) _
  · next ws u hr =>
    rw [hr] at hread
    have hu : u.ws.jobs = s.ws.jobs := (congrArg Workshops.jobs hread :)
    by_cases hw : w = 1
    · rw [if_pos hw]
      split_ifs <;> exact .of_put hu _
    · rw [if_neg hw]
      have hcheck := State.millCheck_ws u (d.args.getD 0 0 * 256) ws
      split
      · next hm =>
        rw [hm] at hcheck
        exact .of_put ((congrArg Workshops.jobs hcheck).trans hu) _
      · next hm =>
        rw [hm] at hcheck
        split_ifs <;> exact .of_put ((congrArg Workshops.jobs hcheck).trans hu) _

/-- Staging in a workshop: the Kiln, or the Wheel or the Mill. -/
def State.stage (s : State) (w e slot : Nat) (d : ItemDesc) : State := if w = 0 then s.stageKiln e slot d else s.stageWm w e slot d

theorem State.stage_jobs (s : State) (w e slot : Nat) (d : ItemDesc) : JobAdded w e s (s.stage w e slot d) := by
  unfold State.stage
  split
  · next h => exact h ▸ s.stageKiln_jobs e slot d
  · exact s.stageWm_jobs w e slot d

theorem State.stage_reeve (s : State) (w e slot : Nat) (d : ItemDesc) : (s.stage w e slot d).reeve = s.reeve := by
  unfold State.stage
  split
  · exact (keeps_stageKiln (.refl (partsBut .reeve) s) (by decide) (by decide) (by decide) (by decide) (by decide) (by decide) e slot d).same_of_but
  · exact (keeps_stageWm (.refl (partsBut .reeve) s) (by decide) (by decide) (by decide) (by decide) (by decide) (by decide) w e slot d).same_of_but

theorem State.setItem_ws (s : State) (k : Nat) (i : Option Item) : (s.setItem k i).ws = s.ws :=
  (keeps_setItem (.refl (partsBut .ws) s) (by decide) (by decide) k i).same_of_but

theorem State.tapEvent_ws (s : State) (ev k : Nat) : (s.tapEvent ev k).ws = s.ws :=
  (keeps_tapEvent (.refl (partsBut .ws) s) (by decide) (by decide) ev k).same_of_but

/-! ### Ends of jobs -/

/-- Every part but the memory system. -/
def partsButMs : List Part := (partsBut .ms).filter (· ≠ .mem)

theorem Keeps.same_ms {s t : State} (h : Keeps partsButMs s t) : t.ms = s.ms := by
  have hms : t.ms = { s.ms with mem := t.ms.mem } := h.1 .ms (by decide)
  have hmem : t.ms.mem = s.ms.mem := h.1 .mem (by decide)
  rw [hms, hmem]

theorem State.countJob_reeve (s : State) (w : Nat) (o : ItemEnd) (late : Bool) : (s.countJob w o late).reeve = s.reeve :=
  (keeps_countJob (.refl (partsBut .reeve) s) (by decide) w o late).same_of_but

theorem State.countJob_ws (s : State) (w : Nat) (o : ItemEnd) (late : Bool) : (s.countJob w o late).ws = s.ws :=
  (keeps_countJob (.refl (partsBut .ws) s) (by decide) w o late).same_of_but

theorem State.countJob_ms (s : State) (w : Nat) (o : ItemEnd) (late : Bool) : (s.countJob w o late).ms = s.ms :=
  (keeps_countJob (.refl partsButMs s) (by decide) w o late).same_ms

theorem State.writeRecord_ws (s : State) (w : Nat) (j : WsJob) (words : List Nat) (marks : List Bool) : (s.writeRecord w j words marks).2.ws = s.ws :=
  (keeps_writeRecord (.refl (partsBut .ws) s) (by decide) (by decide) (by decide) (by decide) (by decide) w j words marks).same_of_but

theorem State.writeRecord_reeve (s : State) (w : Nat) (j : WsJob) (words : List Nat) (marks : List Bool) :
    (s.writeRecord w j words marks).2.reeve = s.reeve :=
  (keeps_writeRecord (.refl (partsBut .reeve) s) (by decide) (by decide) (by decide) (by decide) (by decide) w j words marks).same_of_but

/-- A job ends: its place is free, and its end status is on its way. -/
theorem State.endJob_jobs {s : State} {w e i : Nat} {j : WsJob} (h : s.job w e i = some j) (ok : Bool) (record : WsJob → State → List Nat × List Bool) :
    (s.endJob w e i ok record).ws.jobs = s.ws.jobs.set (jobKey w e) ((s.jobs w e).eraseIdx i) := by
  unfold State.endJob
  rw [h]
  dsimp only
  rw [State.setJobs_ws, State.jobs, State.jobs, State.countJob_ws]
  cases ok with
  | true => rw [if_pos rfl, State.writeRecord_ws]
  | false => rw [if_neg (by decide)]

/-- The state of `endJob` before the counters: with a record, the record written. -/
theorem State.endJob_ends {s : State} {w e i : Nat} {j : WsJob} (h : s.job w e i = some j) (record : WsJob → State → List Nat × List Bool) :
    ∃ o late, (s.endJob w e i true record).reeve.wsEnds = s.reeve.wsEnds ++ [⟨j.slot, o, late⟩] ∧ (o = j.outcome ∨ o = .aborted) := by
  unfold State.endJob
  rw [h]
  dsimp only
  rw [if_pos rfl, State.setJobs_reeve, State.countJob_reeve, State.writeRecord_reeve]
  refine ⟨_, _, rfl, ?_⟩
  split
  · exact .inl rfl
  · exact .inr rfl

theorem State.endJob_refused {s : State} {w e i : Nat} {j : WsJob} (h : s.job w e i = some j) (record : WsJob → State → List Nat × List Bool) :
    (s.endJob w e i false record).reeve.wsEnds = s.reeve.wsEnds ++ [⟨j.slot, .aborted, false⟩] ∧ (s.endJob w e i false record).ms = s.ms := by
  unfold State.endJob
  rw [h]
  dsimp only
  rw [if_neg (by decide), State.setJobs_reeve, State.countJob_reeve, State.setJobs_ms, State.countJob_ms]
  exact ⟨rfl, rfl⟩

theorem State.freeClosing_jobs (s : State) (h : Nat) : (s.freeClosing h).ws.jobs = s.ws.jobs := by
  unfold State.freeClosing
  split
  · rw [State.ledgerCount]
    have hl (t : State) (id p a b : Nat) : (t.ledgerAt id p a b).ws = t.ws :=
      (keeps_ledgerAt (.refl (partsBut .ws) t) (by decide) (by decide) (by decide) (by decide) id p a b).same_of_but
    rw [hl, State.setHandle, State.wr_ws]
  · rfl

theorem State.freeClosing_reeve (s : State) (h : Nat) : (s.freeClosing h).reeve = s.reeve :=
  (keeps_freeClosing (.refl (partsBut .reeve) s) (by decide) (by decide) (by decide) (by decide) (by decide) h).same_of_but

theorem State.freeClosing_ms (s : State) (h : Nat) : (s.freeClosing h).ms = s.ms :=
  (keeps_freeClosing (.refl partsButMs s) (by decide) (by decide) (by decide) (by decide) (by decide) h).same_ms

/-- What a job's end does beyond the end itself: it counts, and it may free the handle that the job named. -/
def State.kilnClosed (s : State) (j : WsJob) : State :=
  match j.harq with
  | some x => (s.add R.KILN_ITER_TOTAL j.iters).freeClosing x.1
  | none => s.add R.KILN_ITER_TOTAL j.iters

theorem State.kilnClosed_keeps (s : State) (j : WsJob) : (s.kilnClosed j).ws.jobs = s.ws.jobs ∧ (s.kilnClosed j).reeve = s.reeve ∧ (s.kilnClosed j).ms = s.ms := by
  unfold State.kilnClosed
  split
  · exact ⟨(State.freeClosing_jobs _ _).trans (congrArg Workshops.jobs (State.add_ws _ _ _)), (State.freeClosing_reeve _ _).trans (State.add_reeve _ _ _),
      (State.freeClosing_ms _ _).trans (State.add_ms _ _ _)⟩
  · exact ⟨congrArg Workshops.jobs (State.add_ws _ _ _), State.add_reeve _ _ _, State.add_ms _ _ _⟩

theorem State.newArrival_item (s : State) (k : Nat) : s.newArrival.item k = s.item k := rfl
theorem State.newArrival_wsEnds (s : State) : s.newArrival.reeve.wsEnds = s.reeve.wsEnds := rfl

/-- One place of an engine: a waiting job that need not wait any longer is let go. -/
def State.endWait (s : State) (e i : Nat) : State :=
  match s.job 0 e i with
  | some j => if j.waiting && !s.mustWait j then s.setJob 0 e i { j with waiting := false } else s
  | none => s

theorem State.endWait_ms (s : State) (e i : Nat) : (s.endWait e i).ms = s.ms := by
  unfold State.endWait
  split
  · split
    · exact State.setJob_ms _ _ _ _ _
    · rfl
  · rfl

theorem State.endWait_job_ne (s : State) (e : Nat) {i k : Nat} (h : k ≠ i) : (s.endWait e i).job 0 e k = s.job 0 e k := by
  unfold State.endWait
  split
  · split
    · rw [State.job, State.setJob, State.setJobs_jobs, List.getElem?_set_ne h.symm, State.job]
    · rfl
  · rfl

end Sys2Proof.Machine

namespace Sys2Proof.Claims

set_option Elab.async false

open Sys2Proof.Machine

theorem workshopJobHandoff_hands : ∀ (s : State) (w : Fin 3) (k : Nat) (i : Item), s.bit (wsEnable w) = true → s.bit R.REEVE_CTRL_ENABLE = true →
    s.topItem (fun _ i => decide (i.state = .ready ∧ i.d.target = w.val + 1) && (s.engineFor w i.d).isSome) = some k → s.item k = some i →
    s.late i = false → i.d.evWait = false → ∃ t, exec (.workshopJobHandoff w) s = .next t ∧
      (t.item k).map (fun x => (x.state, x.place)) = some (.running, some (.engine w ((s.engineFor w i.d).getD 0))) ∧
      (t.jobs w ((s.engineFor w i.d).getD 0)).length = (s.jobs w ((s.engineFor w i.d).getD 0)).length + 1 := by
  intro s w k i hen hreeve htop hi hlate hev
  let n := (s.engineFor w i.d).getD 0
  let u := (s.setItem k (some { i with state := .running, place := some (.engine w n) })).tapEvent 1 k
  have he : execWorkshopJobHandoff w s = .next (u.stage w n k i.d) := by
    simp only [execWorkshopJobHandoff, hen, hreeve, htop, hi, hlate, hev, Bool.not_true, Bool.or_self, Bool.false_eq_true, false_and, if_false,
      State.stage, u, n]
  obtain ⟨j, hj⟩ := u.stage_jobs w n k i.d
  refine ⟨_, he, ?_, ?_⟩
  · rw [State.item_congr (congrArg Reeve.items (State.stage_reeve _ _ _ _ _)), State.item_congr (congrArg Reeve.items (State.tapEvent_reeve _ _ _)),
      State.setItem_item]
    rfl
  · rw [hj, List.length_append, List.length_singleton, State.jobs, State.tapEvent_ws, State.setItem_ws, State.jobs]

theorem workshopEndStatus_ends : ∀ (s : State) (n : Nat) (x : WsEnd) (i : Item), s.reeve.wsEnds[n]? = some x → s.item x.slot = some i → i.d.report = false →
    i.abortSeen = false → ∃ t, exec (.workshopEndStatus n) s = .next t ∧ t.item x.slot = none ∧ t.reeve.wsEnds = s.reeve.wsEnds.eraseIdx n := by
  intro s n x i hx hi hrep hab
  let s1 : State := { s with reeve := { s.reeve with wsEnds := s.reeve.wsEnds.eraseIdx n, wsAborts := s.reeve.wsAborts.filter (fun k => k != x.slot) } }
  let s2 := (s1.setItem x.slot (some { i with abortLate := x.abortLate })).newArrival
  let s3 := s2.conclude x.slot x.status (decide (x.status = .ok) && s.late i)
  have hi1 : s1.item x.slot = some i := hi
  have hi2 : s2.item x.slot = some { i with abortLate := x.abortLate } := (State.newArrival_item _ _).trans (State.setItem_item _ _ _)
  have hset : SameEnds s1 (s1.setItem x.slot (some { i with abortLate := x.abortLate })) := SameEnds.setItem (Eq.refl s1.reeve.wsEnds) _ _
  have hends : SameEnds s1 s2 := (State.newArrival_wsEnds _).trans hset
  refine ⟨(s3.release x.slot).settleAll, ?_, ?_, ?_⟩
  · show execWorkshopEndStatus n s = _
    simp only [execWorkshopEndStatus, hx]
    rw [show State.item { s with reeve := _ } x.slot = some i from hi1]
  · exact (EmptyStays.settleAll (fun hn => hn)) (State.release_item (State.conclude_item_reported hi2 hrep hab _ _) rfl)
  · exact SameEnds.settleLoop _ ((hends.conclude x.slot _ _).release x.slot)

theorem workshopEngEnWrite_enables : ∀ (s : State) (w : Fin 3) (v : Word), ∃ t, exec (.workshopEngEnWrite w v) s = .next t ∧
    t.rd (engEn w) = bitsOf v 0 (engCount w) ∧ t.ws = s.ws := by
  intro s w v
  have hshow (l : List Nat) (t : State) : (l.foldl (fun t e => t.showEng w e) t).rd (engEn w) = t.rd (engEn w) ∧
      (l.foldl (fun t e => t.showEng w e) t).ws = t.ws := by
    induction l generalizing t with
    | nil => exact ⟨rfl, rfl⟩
    | cons e l ih =>
      obtain ⟨hrd, hws⟩ := ih (t.showEng w e)
      refine ⟨hrd.trans ?_, hws.trans (State.showEng_ws _ _ _)⟩
      rw [State.showEng]
      iterate 3 rw [State.wr_rd_ne _ _ _ _ (by simp only [Fld.key, engEn, wsFld, ne_eq]; omega)]
  refine ⟨_, rfl, ?_, ?_⟩
  · rw [(hshow _ _).1, State.wr_rd_same]
    have hw : engCount w = (engEn w).w := by simp only [engCount, engEn, wsFld]
    exact Nat.mod_eq_of_lt (hw ▸ Nat.mod_lt _ (Nat.two_pow_pos _))
  · rw [(hshow _ _).2, State.wr_ws]

theorem kilnJobEnd_record : ∀ (s : State) (e : Fin 16) (j : WsJob), s.job 0 e 0 = some j → j.live = false → ∃ t o late, exec (.kilnJobEnd e false true) s = .next t ∧
    t.jobs 0 e = (s.jobs 0 e).eraseIdx 0 ∧ t.reeve.wsEnds = s.reeve.wsEnds ++ [⟨j.slot, o, late⟩] ∧ (o = j.outcome ∨ o = .aborted) := by
  intro s e j hj hl
  obtain ⟨o, late, hends, ho⟩ := State.endJob_ends hj (kilnRecord e)
  obtain ⟨hjobs, hreeve, -⟩ := (s.endJob 0 e 0 true (kilnRecord e)).kilnClosed_keeps j
  refine ⟨(s.endJob 0 e 0 true (kilnRecord e)).kilnClosed j, o, late, ?_, ?_, ?_, ho⟩
  · show execKilnJobEnd e false true s = _
    simp only [execKilnJobEnd, Bool.false_eq_true, if_false, hj, hl]
    rfl
  · rw [State.jobs, hjobs, State.endJob_jobs hj, Tab.get_set_same]
  · rw [hreeve, hends]

theorem kilnJobEnd_refused : ∀ (s : State) (e : Fin 16) (j : WsJob), s.job 0 e 0 = some j → j.live = false → ∃ t, exec (.kilnJobEnd e false false) s = .next t ∧
    t.jobs 0 e = (s.jobs 0 e).eraseIdx 0 ∧ t.reeve.wsEnds = s.reeve.wsEnds ++ [⟨j.slot, .aborted, false⟩] ∧ t.ms.mem = s.ms.mem := by
  intro s e j hj hl
  obtain ⟨hends, hms⟩ := State.endJob_refused hj (kilnRecord e)
  obtain ⟨hjobs, hreeve, hms'⟩ := (s.endJob 0 e 0 false (kilnRecord e)).kilnClosed_keeps j
  refine ⟨(s.endJob 0 e 0 false (kilnRecord e)).kilnClosed j, ?_, ?_, ?_, ?_⟩
  · show execKilnJobEnd e false false s = _
    simp only [execKilnJobEnd, Bool.false_eq_true, if_false, hj, hl]
    rfl
  · rw [State.jobs, hjobs, State.endJob_jobs hj, Tab.get_set_same]
  · rw [hreeve, hends]
  · rw [hms', hms]

theorem wheelMillJobEnd_refused : ∀ (s : State) (mill : Bool) (e : Fin 16) (j : WsJob), s.job (wmOf mill) e 0 = some j → j.live = false →
    ∃ t, exec (.wheelMillJobEnd mill e false false) s = .next t ∧ t.jobs (wmOf mill) e = (s.jobs (wmOf mill) e).eraseIdx 0 ∧
      t.reeve.wsEnds = s.reeve.wsEnds ++ [⟨j.slot, .aborted, false⟩] ∧ t.ms.mem = s.ms.mem := by
  intro s mill e j hj hl
  obtain ⟨hends, hms⟩ := State.endJob_refused hj (wmRecord (wmOf mill) e)
  have hjobs := State.endJob_jobs hj false (wmRecord (wmOf mill) e)
  let s1 := s.endJob (wmOf mill) e 0 false (wmRecord (wmOf mill) e)
  let t1 := s1.add (wsCounter (wmOf mill) 0x21C) j.wb
  let u := if j.sat then t1.inc (wsCounter (wmOf mill) 0x218) else t1
  have hu : u.ws = s1.ws ∧ u.reeve = s1.reeve ∧ u.ms = s1.ms := by
    simp only [u]
    split
    · exact ⟨by rw [State.inc_ws, State.add_ws], by rw [State.inc_reeve, State.add_reeve], by rw [State.inc_ms, State.add_ms]⟩
    · exact ⟨State.add_ws _ _ _, State.add_reeve _ _ _, State.add_ms _ _ _⟩
  let v := if mill then u.add (wsCounter 2 0x220) j.singCount else u
  have hv : v.ws = u.ws ∧ v.reeve = u.reeve ∧ v.ms = u.ms := by
    simp only [v]
    split
    · exact ⟨State.add_ws _ _ _, State.add_reeve _ _ _, State.add_ms _ _ _⟩
    · exact ⟨rfl, rfl, rfl⟩
  refine ⟨v, ?_, ?_, ?_, ?_⟩
  · show execWheelMillJobEnd mill e false false s = _
    simp only [execWheelMillJobEnd, Bool.false_eq_true, if_false, hj, hl, v, u, t1, s1]
  · rw [State.jobs, hv.1, hu.1, hjobs, Tab.get_set_same]
  · rw [hv.2.1, hu.2.1, hends]
  · rw [hv.2.2, hu.2.2, hms]

theorem kilnHandleWaitEnd_ends : ∀ (s : State) (e : Fin 16) (j : WsJob), s.job 0 e 0 = some j → j.waiting = true → s.mustWait j = false →
    ∃ t, exec (.kilnHandleWaitEnd e) s = .next t ∧ t.job 0 e 0 = some { j with waiting := false } ∧ t.ms = s.ms := by
  intro s e j hj hw hm
  refine ⟨(s.endWait e 0).endWait e 1, rfl, ?_, (State.endWait_ms _ _ _).trans (State.endWait_ms _ _ _)⟩
  rw [State.endWait_job_ne _ _ (by decide), State.endWait, hj]
  dsimp only
  rw [if_pos (by simp [hw, hm]), State.setJob_job hj]

/-- Settles O26: each clause is a lemma above about one command. -/
theorem workshopHandoverAndEnds : Obligations.WorkshopHandoverAndEnds :=
  ⟨workshopJobHandoff_hands, workshopEndStatus_ends, workshopEngEnWrite_enables, kilnJobEnd_record, kilnJobEnd_refused, wheelMillJobEnd_refused,
    kilnHandleWaitEnd_ends⟩

end Sys2Proof.Claims

/-! ## Checkpoints, sweeps, aborts and bus errors decide jobs (R245 to R249, R259 to R262) -/

namespace Sys2Proof.Machine

set_option Elab.async false

open Sys2Proof.Claims

/-- A change of one job: the memory, the Reeve and the other places of the workshop stay. -/
structure OneJob (w e i : Nat) (s t : State) : Prop where
  ms : t.ms = s.ms
  reeve : t.reeve = s.reeve
  others : ∀ e' i', (e', i') ≠ (e, i) → t.job w e' i' = s.job w e' i'

theorem OneJob.refl (w e i : Nat) (s : State) : OneJob w e i s s := ⟨rfl, rfl, fun _ _ _ => rfl⟩

theorem OneJob.setJob (s : State) (w e i : Nat) (j : WsJob) : OneJob w e i s (s.setJob w e i j) := by
  refine ⟨State.setJob_ms _ _ _ _ _, State.setJob_reeve _ _ _ _ _, fun e' i' h => ?_⟩
  rw [State.job, State.job, State.setJob]
  by_cases he : e' = e
  · subst he
    have hi : i ≠ i' := fun hi => h (hi ▸ rfl)
    rw [State.setJobs_jobs, List.getElem?_set_ne hi]
  · rw [State.setJobs_jobs_ne _ _ (by simp only [jobKey]; omega)]

theorem OneJob.inc {w e i : Nat} {s t : State} (h : OneJob w e i s t) (f : Fld) : OneJob w e i s (t.inc f) :=
  ⟨(State.inc_ms _ _).trans h.ms, (State.inc_reeve _ _).trans h.reeve,
    fun e' i' hn => (State.job_congr (State.inc_ws _ _) _ _ _).trans (h.others e' i' hn)⟩

/-- A function over the jobs of a workshop that changes only the job it is given. -/
def JobLocal (w : Nat) (f : State → Nat → Nat → WsJob → State) : Prop := ∀ t e i j, OneJob w e i t (f t e i j)

/-- One place of `overJobs`. -/
def State.atJob (f : State → Nat → Nat → WsJob → State) (w e : Nat) (s : State) (i : Nat) : State :=
  match s.job w e i with
  | some j => f s e i j
  | none => s

section
variable {f : State → Nat → Nat → WsJob → State} {w : Nat} (hf : JobLocal w f)
include hf

theorem State.atJob_local (e i : Nat) (s : State) : OneJob w e i s (s.atJob f w e i) := by
  unfold State.atJob
  split
  · exact hf _ _ _ _
  · exact .refl _ _ _ _

/-- Engines that are not `e0` do not touch the jobs of `e0`. -/
theorem foldl_atJob_ne (e0 : Nat) (l : List Nat) (hl : e0 ∉ l) (s : State) :
    (l.foldl (fun t e => (t.atJob f w e 0).atJob f w e 1) s).job w e0 0 = s.job w e0 0 ∧
    (l.foldl (fun t e => (t.atJob f w e 0).atJob f w e 1) s).ms = s.ms ∧
    (l.foldl (fun t e => (t.atJob f w e 0).atJob f w e 1) s).reeve = s.reeve := by
  induction l generalizing s with
  | nil => exact ⟨rfl, rfl, rfl⟩
  | cons e l ih =>
    obtain ⟨hne, hl⟩ := not_or.mp (mt List.mem_cons.mpr hl)
    obtain ⟨hj, hms, hr⟩ := ih hl ((s.atJob f w e 0).atJob f w e 1)
    have h0 := State.atJob_local hf e 0 s
    have h1 := State.atJob_local hf e 1 (s.atJob f w e 0)
    exact ⟨hj.trans ((h1.others _ _ (by simp)).trans (h0.others _ _ (by simp [hne]))), hms.trans (h1.ms.trans h0.ms),
      hr.trans (h1.reeve.trans h0.reeve)⟩

/-- The first job of an engine after a local change of every job of the workshop. -/
theorem State.overJobs_job {s : State} {e : Nat} {j j' : WsJob} (hj : s.job w e 0 = some j) (he : e < engCount w)
    (hat : ∀ t, t.reeve = s.reeve → t.ms = s.ms → t.job w e 0 = some j → (f t e 0 j).job w e 0 = some j') :
    (s.overJobs w f).job w e 0 = some j' ∧ (s.overJobs w f).ms = s.ms ∧ (s.overJobs w f).reeve = s.reeve := by
  obtain ⟨a, b, hab⟩ := List.append_of_mem (List.mem_range.mpr he)
  obtain ⟨-, hb, hdisj⟩ := List.nodup_append.mp (hab ▸ List.nodup_range)
  have ha : e ∉ a := fun h => hdisj e h e List.mem_cons_self rfl
  have hb : e ∉ b := (List.nodup_cons.mp hb).1
  have hover : s.overJobs w f = (List.range (engCount w)).foldl (fun t e => (t.atJob f w e 0).atJob f w e 1) s := rfl
  rw [hover, hab, List.foldl_append, List.foldl_cons]
  obtain ⟨hj1, hms1, hr1⟩ := foldl_atJob_ne hf e a ha s
  generalize a.foldl (fun t e => (t.atJob f w e 0).atJob f w e 1) s = t at hj1 hms1 hr1
  have h0 := State.atJob_local hf e 0 t
  have h1 := State.atJob_local hf e 1 (t.atJob f w e 0)
  obtain ⟨hj2, hms2, hr2⟩ := foldl_atJob_ne hf e b hb ((t.atJob f w e 0).atJob f w e 1)
  refine ⟨?_, hms2.trans (h1.ms.trans (h0.ms.trans hms1)), hr2.trans (h1.reeve.trans (h0.reeve.trans hr1))⟩
  rw [hj2, h1.others _ _ (by simp), State.atJob, hj1.trans hj]
  exact hat t hr1 hms1 (hj1.trans hj)

end

theorem wbExtra_none : wbExtra (fun _ => false) = noExtra := by
  funext s e i j
  simp [wbExtra, noExtra]

theorem State.jobWindow_congr {s t : State} (h : t.reeve = s.reeve) (j : WsJob) : t.jobWindow j = s.jobWindow j := by
  rw [State.jobWindow, State.jobWindow, State.item_congr (congrArg Reeve.items h)]

/-- A swept job is lapsed. -/
theorem State.sweepWs_job {s : State} {w e g tag : Nat} {j : WsJob} (hj : s.job w e 0 = some j) (he : e < engCount w) (hl : j.live = true)
    (hw : s.jobWindow j = some (g, tag)) :
    (s.sweepWs w g tag noExtra).job w e 0 = some (j.stop .lapsed 0) ∧ (s.sweepWs w g tag noExtra).ms = s.ms := by
  obtain ⟨hjob, hms, -⟩ := State.overJobs_job (f := fun t e i j => if j.live && decide (t.jobWindow j = some (g, tag)) then
      ((t.setJob w e i (j.stop .lapsed 0)).inc (wsCounter w 0x214)).inc (R.LG_SWEEP_LAPSED g) else t) (fun t e i j => by
    dsimp only
    split
    · exact ((OneJob.setJob t w e i _).inc _).inc _
    · exact .refl _ _ _ _) hj he (j' := j.stop .lapsed 0) (fun t hr _ ht => by
    rw [if_pos (by simp [hl, State.jobWindow_congr hr, hw]), State.job_congr (State.inc_ws _ _), State.job_congr (State.inc_ws _ _),
      State.setJob_job ht])
  exact ⟨hjob, hms⟩

/-- An abort reaches the job of its item: it is aborted, and the abort is no longer on its way. -/
theorem State.abortWs_job {s : State} {w e slot : Nat} {j : WsJob} (hj : s.job w e 0 = some j) (he : e < engCount w) (hs : j.slot = slot)
    (hl : j.live = true) : (s.abortWs w slot noExtra).job w e 0 = some (j.stop .aborted 0) ∧ slot ∉ (s.abortWs w slot noExtra).reeve.wsAborts ∧
      (s.abortWs w slot noExtra).ms = s.ms := by
  have hmem : j ∈ s.jobs w e := List.mem_of_getElem? hj
  have hheld : (List.range (engCount w)).any (fun e => (s.jobs w e).any (fun j => j.slot == slot)) = true :=
    List.any_eq_true.mpr ⟨e, List.mem_range.mpr he, List.any_eq_true.mpr ⟨j, hmem, by simp [hs]⟩⟩
  let t : State := { s with reeve := { s.reeve with wsAborts := s.reeve.wsAborts.filter (fun k => k != slot) } }
  have ht : t.job w e 0 = some j := hj
  have hcut : s.abortWs w slot noExtra = t.overJobs w (fun u e i j => if j.slot ≠ slot then u
      else if j.live then u.setJob w e i (j.stop .aborted 0)
      else if j.decided = none then u.setJob w e i { j with abortLate := true } else u) := by
    unfold State.abortWs
    dsimp only
    rw [if_pos hheld]
    simp only [noExtra, ite_self, t]
  obtain ⟨hjob, hms, hr⟩ := State.overJobs_job (f := fun u e i j => if j.slot ≠ slot then u
      else if j.live then u.setJob w e i (j.stop .aborted 0)
      else if j.decided = none then u.setJob w e i { j with abortLate := true } else u) (fun u e i j => by
    dsimp only
    split_ifs
    · exact .refl _ _ _ _
    · exact .setJob u w e i _
    · exact .setJob u w e i _
    · exact .refl _ _ _ _) ht he (j' := j.stop .aborted 0) (fun u _ _ hu => by
    rw [if_neg (by simp [hs]), if_pos hl, State.setJob_job hu])
  rw [hcut]
  exact ⟨hjob, by rw [hr]; simp [t], hms⟩

theorem State.lapseJob_job {s : State} {w e i : Nat} {j : WsJob} (hj : s.job w e i = some j) (hl : j.live = true) (hlate : s.jobLate j = true) :
    s.lapseJob w e i noExtra = s.setJob w e i (j.stop .lapsed 0) := by
  simp only [State.lapseJob, hj, hl, hlate, Bool.and_self, if_true, noExtra, ite_self]

end Sys2Proof.Machine

namespace Sys2Proof.Claims

set_option Elab.async false

open Sys2Proof.Machine

theorem kilnCheckpointLapse_lapses : ∀ (s : State) (e : Fin 16) (staged : Bool) (j : WsJob), s.job 0 e (if staged then 1 else 0) = some j → j.live = true → s.jobLate j = true →
    ∃ t, exec (.kilnCheckpointLapse e staged false) s = .next t ∧
      t.job 0 e (if staged then 1 else 0) = some (j.stop .lapsed 0) ∧ t.ms = s.ms := by
  intro s e staged j hj hl hlate
  refine ⟨_, ?_, State.setJob_job hj _, State.setJob_ms _ _ _ _ _⟩
  show execKilnCheckpointLapse e staged false s = _
  rw [execKilnCheckpointLapse, wbExtra_none, State.lapseJob_job hj hl hlate]

theorem wheelMillCheckpointLapse_lapses : ∀ (s : State) (mill : Bool) (e : Fin 16) (staged : Bool) (j : WsJob), s.job (wmOf mill) e (if staged then 1 else 0) = some j → j.live = true →
    s.jobLate j = true → ∃ t, exec (.wheelMillCheckpointLapse mill e staged) s = .next t ∧
      t.job (wmOf mill) e (if staged then 1 else 0) = some (j.stop .lapsed 0) ∧ t.ms = s.ms := by
  intro s mill e staged j hj hl hlate
  refine ⟨_, ?_, State.setJob_job hj _, State.setJob_ms _ _ _ _ _⟩
  show execWheelMillCheckpointLapse mill e staged s = _
  rw [execWheelMillCheckpointLapse, State.lapseJob_job hj hl hlate]

theorem kilnSweep_lapses : ∀ (s : State) (g : Fin 64) (tag : Fin 16) (e : Fin 16) (j : WsJob), s.sweepReached g tag = true → s.job 0 e 0 = some j → j.live = true →
    s.jobWindow j = some (g.val, tag.val) → ∃ t, exec (.kilnSweep g tag []) s = .next t ∧ t.job 0 e 0 = some (j.stop .lapsed 0) ∧ t.ms = s.ms := by
  intro s g tag e j hsweep hj hl hw
  obtain ⟨hjob, hms⟩ := State.sweepWs_job hj e.isLt hl hw
  refine ⟨_, ?_, hjob, hms⟩
  show execKilnSweep g tag [] s = _
  rw [execKilnSweep, if_pos hsweep]
  exact congrArg (fun x => Host.Outcome.next (s.sweepWs 0 g tag x)) wbExtra_none

theorem engCount_wmOf (mill : Bool) : 8 ≤ engCount (wmOf mill) := by cases mill <;> decide

theorem wheelMillSweep_lapses : ∀ (s : State) (g : Fin 64) (tag : Fin 16) (e : Fin 8) (mill : Bool) (j : WsJob), s.sweepReached g tag = true → s.job (wmOf mill) e 0 = some j →
    j.live = true → s.jobWindow j = some (g.val, tag.val) → ∃ t, exec (.wheelMillSweep mill g tag) s = .next t ∧
      t.job (wmOf mill) e 0 = some (j.stop .lapsed 0) ∧ t.ms = s.ms := by
  intro s g tag e mill j hsweep hj hl hw
  obtain ⟨hjob, hms⟩ := State.sweepWs_job hj (lt_of_lt_of_le e.isLt (engCount_wmOf mill)) hl hw
  refine ⟨_, ?_, hjob, hms⟩
  show execWheelMillSweep mill g tag s = _
  rw [execWheelMillSweep, if_pos hsweep]

theorem kilnAbort_aborts : ∀ (s : State) (slot : Fin 4096) (i : Item) (e : Fin 16) (j : WsJob), s.item slot = some i → i.d.target = 1 → slot.val ∈ s.reeve.wsAborts →
    s.job 0 e 0 = some j → j.slot = slot → j.live = true → ∃ t, exec (.kilnAbort slot false) s = .next t ∧
      t.job 0 e 0 = some (j.stop .aborted 0) ∧ slot.val ∉ t.reeve.wsAborts ∧ t.ms = s.ms := by
  intro s slot i e j hi ht hin hj hs hl
  obtain ⟨hjob, hgone, hms⟩ := State.abortWs_job hj e.isLt hs hl
  refine ⟨_, ?_, hjob, hgone, hms⟩
  show execKilnAbort slot false s = _
  rw [execKilnAbort, hi]
  dsimp only
  rw [if_pos ⟨by simpa using hin, ht⟩, wbExtra_none]

theorem wheelMillAbort_aborts : ∀ (s : State) (slot : Fin 4096) (i : Item) (e : Fin 8) (j : WsJob), s.item slot = some i → (i.d.target = 2 ∨ i.d.target = 3) →
    slot.val ∈ s.reeve.wsAborts → s.job (i.d.target - 1) e 0 = some j → j.slot = slot → j.live = true →
    ∃ t, exec (.wheelMillAbort slot) s = .next t ∧ t.job (i.d.target - 1) e 0 = some (j.stop .aborted 0) ∧
      slot.val ∉ t.reeve.wsAborts ∧ t.ms = s.ms := by
  intro s slot i e j hi ht hin hj hs hl
  have he : e.val < engCount (i.d.target - 1) := lt_of_lt_of_le e.isLt (by rcases ht with h | h <;> rw [h] <;> decide)
  obtain ⟨hjob, hgone, hms⟩ := State.abortWs_job hj he hs hl
  refine ⟨_, ?_, hjob, hgone, hms⟩
  show execWheelMillAbort slot s = _
  rw [execWheelMillAbort, hi]
  dsimp only
  rw [if_pos ⟨by simpa using hin, ht⟩]

theorem kilnBusError_aborts : ∀ (s : State) (e : Fin 16) (j : WsJob), s.job 0 e 0 = some j → j.started = true → j.live = true →
    ∃ t, exec (.kilnBusError e) s = .next t ∧ t.job 0 e 0 = some (j.stop .aborted 6) ∧ t.ms = s.ms := by
  intro s e j hj hst hl
  refine ⟨_, ?_, State.setJob_job hj _, State.setJob_ms _ _ _ _ _⟩
  show execKilnBusError e s = _
  simp only [execKilnBusError, hj, hst, hl, Bool.and_self, if_true, busStop]

theorem wheelMillBusError_aborts : ∀ (s : State) (mill : Bool) (e : Fin 16) (j : WsJob), s.job (wmOf mill) e 0 = some j → j.started = true → j.live = true →
    ∃ t, exec (.wheelMillBusError mill e) s = .next t ∧ t.job (wmOf mill) e 0 = some (j.stop .aborted 6) ∧ t.ms = s.ms := by
  intro s mill e j hj hst hl
  refine ⟨_, ?_, State.setJob_job hj _, State.setJob_ms _ _ _ _ _⟩
  show execWheelMillBusError mill e s = _
  simp only [execWheelMillBusError, hj, hst, hl, Bool.and_self, if_true, wmStop]

/-- Settles O27: each clause is a lemma above about one command. -/
theorem workshopJobsDecided : Obligations.WorkshopJobsDecided :=
  ⟨kilnCheckpointLapse_lapses, wheelMillCheckpointLapse_lapses, kilnSweep_lapses, wheelMillSweep_lapses, kilnAbort_aborts, wheelMillAbort_aborts,
    kilnBusError_aborts, wheelMillBusError_aborts⟩

end Sys2Proof.Claims

/-! ## HARQ handles and their area (R235, R236) -/

namespace Sys2Proof.Machine

set_option Elab.async false

open Sys2Proof.Claims

theorem State.setHandle_handle (s : State) (h : Nat) (x : Handle) : (s.setHandle h x).handle h = x := by
  rw [State.handle, State.setHandle, State.wr_ws, Tab.get_set_same]

theorem State.setHandle_ms (s : State) (h : Nat) (x : Handle) : (s.setHandle h x).ms = s.ms := State.wr_ms _ _ _

theorem State.ledgerCount_ws (s : State) (id a b : Nat) : (s.ledgerCount id a b).ws = s.ws :=
  (keeps_ledgerCount (.refl (partsBut .ws) s) (by decide) (by decide) (by decide) (by decide) id a b).same_of_but

theorem State.ledgerCount_ms (s : State) (id a b : Nat) : (s.ledgerCount id a b).ms = s.ms :=
  (keeps_ledgerCount (.refl partsButMs s) (by decide) (by decide) (by decide) (by decide) id a b).same_ms

theorem State.handle_congr {s t : State} (e : t.ws = s.ws) (h : Nat) : t.handle h = s.handle h := by rw [State.handle, State.handle, e]

/-- KILN_HARQ_RESULT shows what it is given, and nothing else changes. -/
theorem State.harqResult_shows (s : State) (op h outcome reason : Nat) :
    (s.harqResult op h outcome reason).rd R.KILN_HARQ_RESULT_OP = op % 2 ^ R.KILN_HARQ_RESULT_OP.w ∧
    (s.harqResult op h outcome reason).rd R.KILN_HARQ_RESULT_OUTCOME = outcome % 2 ^ R.KILN_HARQ_RESULT_OUTCOME.w ∧
    (s.harqResult op h outcome reason).rd R.KILN_HARQ_RESULT_REASON = reason % 2 ^ R.KILN_HARQ_RESULT_REASON.w ∧
    (s.harqResult op h outcome reason).rd R.KILN_HARQ_RESULT_HANDLE = h % 2 ^ R.KILN_HARQ_RESULT_HANDLE.w := by
  refine ⟨?_, ?_, ?_, ?_⟩ <;> rw [State.harqResult]
  · rw [State.wr_rd_ne _ _ _ _ (by decide), State.wr_rd_ne _ _ _ _ (by decide), State.wr_rd_ne _ _ _ _ (by decide), State.wr_rd_same]
  · rw [State.wr_rd_ne _ _ _ _ (by decide), State.wr_rd_ne _ _ _ _ (by decide), State.wr_rd_same]
  · rw [State.wr_rd_ne _ _ _ _ (by decide), State.wr_rd_same]
  · rw [State.wr_rd_same]

theorem State.harqResult_ws (s : State) (op h o r : Nat) : (s.harqResult op h o r).ws = s.ws := by
  simp only [State.harqResult, State.wr_ws]

theorem State.harqResult_ms (s : State) (op h o r : Nat) : (s.harqResult op h o r).ms = s.ms := by
  simp only [State.harqResult, State.wr_ms]

theorem State.harqResult_same (s : State) (op h o r : Nat) : sameRegs s (s.harqResult op h o r)
    [R.KILN_HARQ_RESULT_OP, R.KILN_HARQ_RESULT_OUTCOME, R.KILN_HARQ_RESULT_REASON, R.KILN_HARQ_RESULT_HANDLE] :=
  ((((sameRegs.refl s _).wr (by simp) _).wr (by simp) _).wr (by simp) _).wr (by simp) _

end Sys2Proof.Machine

namespace Sys2Proof.Claims

set_option Elab.async false

open Sys2Proof.Machine

theorem kilnHarqOpen_opens : ∀ (s : State) (v : Word), bitsOf v 30 2 = 1 → (s.handle (bitsOf v 0 14)).st = 0 → s.rd R.KILN_HARQ_ARG_LEN ≠ 0 →
    s.rd R.KILN_HARQ_AREA_SIZE ≠ 0 → s.rd R.KILN_HARQ_ARG_BASE + s.rd R.KILN_HARQ_ARG_LEN ≤ s.rd R.KILN_HARQ_AREA_SIZE * 256 →
    ∃ t, exec (.kilnHarqOpen v) s = .next t ∧
      t.handle (bitsOf v 0 14) = ⟨1, s.rd R.KILN_HARQ_ARG_BASE, s.rd R.KILN_HARQ_ARG_LEN⟩ ∧
      t.rd R.KILN_HARQ_RESULT_OP = 1 ∧ t.rd R.KILN_HARQ_RESULT_OUTCOME = 0 ∧ t.rd R.KILN_HARQ_RESULT_HANDLE = bitsOf v 0 14 ∧ t.ms = s.ms := by
  intro s v hop hfree hlen hsize hfit
  show ∃ t, execKilnHarqOpen v s = .next t ∧ _
  simp only [execKilnHarqOpen]
  rw [if_neg (by simp [hop]), if_neg (by simp [hfree]), if_neg hsize, if_neg (by omega)]
  obtain ⟨h1, h2, -, h4⟩ := State.harqResult_shows ((s.setHandle (bitsOf v 0 14) ⟨1, s.rd R.KILN_HARQ_ARG_BASE, s.rd R.KILN_HARQ_ARG_LEN⟩).ledgerCount
    (ledgerId 8 0) 1 0) 1 (bitsOf v 0 14) 0 0
  refine ⟨_, rfl, ?_, h1, h2, h4.trans (Nat.mod_mod _ _), ?_⟩
  · rw [State.handle_congr (State.harqResult_ws _ _ _ _ _), State.handle_congr (State.ledgerCount_ws _ _ _ _), State.setHandle_handle]
  · rw [State.harqResult_ms, State.ledgerCount_ms, State.setHandle_ms]

theorem kilnHarqOpen_held : ∀ (s : State) (v : Word), bitsOf v 30 2 = 1 → (s.handle (bitsOf v 0 14)).st ≠ 0 → ∃ t, exec (.kilnHarqOpen v) s = .next t ∧
    t.rd R.KILN_HARQ_RESULT_OUTCOME = 1 ∧ t.rd R.KILN_HARQ_RESULT_REASON = 1 ∧ t.ws = s.ws ∧
    sameRegs s t [R.KILN_HARQ_RESULT_OP, R.KILN_HARQ_RESULT_OUTCOME, R.KILN_HARQ_RESULT_REASON, R.KILN_HARQ_RESULT_HANDLE] := by
  intro s v hop hheld
  show ∃ t, execKilnHarqOpen v s = .next t ∧ _
  simp only [execKilnHarqOpen]
  rw [if_neg (by simp [hop]), if_pos hheld]
  obtain ⟨-, h2, h3, -⟩ := State.harqResult_shows s 1 (bitsOf v 0 14) 1 1
  exact ⟨_, rfl, h2, h3, State.harqResult_ws _ _ _ _ _, State.harqResult_same _ _ _ _ _⟩

theorem kilnHarqClose_frees : ∀ (s : State) (v : Word), bitsOf v 30 2 = 2 → (s.handle (bitsOf v 0 14)).st = 1 → s.named? (bitsOf v 0 14) = false →
    ∃ t, exec (.kilnHarqClose v) s = .next t ∧ t.handle (bitsOf v 0 14) = {} ∧ t.rd R.KILN_HARQ_RESULT_OP = 2 ∧
      t.rd R.KILN_HARQ_RESULT_OUTCOME = 0 ∧ t.ms = s.ms := by
  intro s v hop hopen hfree
  show ∃ t, execKilnHarqClose v s = .next t ∧ _
  simp only [execKilnHarqClose]
  rw [if_neg (by simp [hop]), if_neg (by simp [hopen]), if_neg (by simp [hfree])]
  obtain ⟨h1, h2, -, -⟩ := State.harqResult_shows ((s.setHandle (bitsOf v 0 14) {}).ledgerCount (ledgerId 8 0) 0 1) 2 (bitsOf v 0 14) 0 0
  refine ⟨_, rfl, ?_, h1, h2, ?_⟩
  · rw [State.handle_congr (State.harqResult_ws _ _ _ _ _), State.handle_congr (State.ledgerCount_ws _ _ _ _), State.setHandle_handle]
  · rw [State.harqResult_ms, State.ledgerCount_ms, State.setHandle_ms]

theorem kilnHarqClose_waits : ∀ (s : State) (v : Word), bitsOf v 30 2 = 2 → (s.handle (bitsOf v 0 14)).st = 1 → s.named? (bitsOf v 0 14) = true →
    ∃ t, exec (.kilnHarqClose v) s = .next t ∧ (t.handle (bitsOf v 0 14)).st = 2 ∧ t.rd R.KILN_HARQ_RESULT_OUTCOME = 2 := by
  intro s v hop hopen hnamed
  show ∃ t, execKilnHarqClose v s = .next t ∧ _
  simp only [execKilnHarqClose]
  rw [if_neg (by simp [hop]), if_neg (by simp [hopen]), if_pos hnamed]
  obtain ⟨-, h2, -, -⟩ := State.harqResult_shows (s.setHandle (bitsOf v 0 14) { s.handle (bitsOf v 0 14) with st := 2 }) 2 (bitsOf v 0 14) 2 0
  exact ⟨_, rfl, by rw [State.handle_congr (State.harqResult_ws _ _ _ _ _), State.setHandle_handle], h2⟩

theorem kilnHarqAreaWrite_moves : ∀ (s : State) (v : Word), s.ws.handles.any (fun _ h => decide (h.st ≠ 0)) = false → bitsOf v 18 14 ≤ 8192 →
    bitsOf v 0 15 + bitsOf v 18 14 ≤ 32768 → ∃ t, exec (.kilnHarqAreaWrite v) s = .next t ∧ t.rd R.KILN_HARQ_AREA_SIZE = bitsOf v 18 14 ∧
      t.rd R.KILN_HARQ_AREA_BASE = bitsOf v 0 15 ∧ sameRegs s t [R.KILN_HARQ_AREA_SIZE, R.KILN_HARQ_AREA_BASE] := by
  intro s v hfree hsize hfit
  show ∃ t, execKilnHarqAreaWrite v s = .next t ∧ _
  simp only [execKilnHarqAreaWrite]
  rw [if_neg (by simp only [hfree, Bool.false_eq_true, false_or]; omega)]
  refine ⟨_, rfl, ?_, ?_, ((sameRegs.refl s _).wr (by simp) _).wr (by simp) _⟩
  · rw [State.wr_rd_ne _ _ _ _ (by decide), State.wr_rd_same]
    exact Nat.mod_mod _ _
  · rw [State.wr_rd_same]
    exact Nat.mod_mod _ _

theorem kilnHarqAreaWrite_refused : ∀ (s : State) (v : Word), s.ws.handles.any (fun _ h => decide (h.st ≠ 0)) = true → ∃ t, exec (.kilnHarqAreaWrite v) s = .next t ∧
    t.rd R.KILN_STATUS_AREA_REFUSED = 1 ∧ t.ws = s.ws ∧ sameRegs s t [R.KILN_STATUS_AREA_REFUSED] := by
  intro s v hheld
  show ∃ t, execKilnHarqAreaWrite v s = .next t ∧ _
  simp only [execKilnHarqAreaWrite]
  rw [if_pos (.inl hheld)]
  exact ⟨_, rfl, State.wr_rd_same _ _ _, State.wr_ws _ _ _, (sameRegs.refl s _).wr (by simp) _⟩

/-- Settles O28: each clause is a lemma above about one command. -/
theorem kilnHarqHandles : Obligations.KilnHarqHandles :=
  ⟨kilnHarqOpen_opens, kilnHarqOpen_held, kilnHarqClose_frees, kilnHarqClose_waits, kilnHarqAreaWrite_moves, kilnHarqAreaWrite_refused⟩

end Sys2Proof.Claims

/-! ## The life of a Sieve channel, its mode, its banks, its delay, its Bell marks (R291, R296, R301 to R305, R308, R309) -/

namespace Sys2Proof.Machine

set_option Elab.async false

open Sys2Proof.Claims

/-! ### What shows a channel -/

/-- The registers that show channel `c`. -/
def chanShown (c : Nat) : List Fld :=
  [R.SIEVE_CH_STATUS_MODE c, R.SIEVE_CH_STATUS_ACTIVE_BANK c, R.SIEVE_CH_STATUS_FADING c, R.SIEVE_CH_STATUS_SWAP_PENDING c,
    R.SIEVE_CH_STATUS_PENDING_BANK c, R.SIEVE_CH_STATUS_DELAY_PENDING c, R.SIEVE_CH_STATUS_GUARD_LEFT c, R.SIEVE_CH_COUNT c, R.SIEVE_CH_SUPPORT c]

theorem State.showChan_same (s : State) (c : Nat) : sameRegs s (s.showChan c) (chanShown c) := by
  refine (((((((((sameRegs.refl s _).wrB ?_ _).wr ?_ _).wrB ?_ _).wrB ?_ _).wr ?_ _).wrB ?_ _).wr ?_ _).wr ?_ _).wr ?_ _ <;> simp [chanShown]

theorem State.showChan_sv (s : State) (c : Nat) : (s.showChan c).sv = s.sv :=
  (keeps_showChan (.refl (partsBut .sv) s) (by decide) c).same_of_but

theorem State.chan_congr {s t : State} (e : t.sv = s.sv) (c : Nat) : t.chan c = s.chan c := by rw [State.chan, State.chan, e]

theorem State.showChan_chan (s : State) (c : Nat) : (s.showChan c).chan c = s.chan c := State.chan_congr (State.showChan_sv s c) c

theorem wrB_bit_rd (s : State) {f : Fld} (hw : f.w = 1) (b : Bool) : (s.wrB f b).rd f = if b then 1 else 0 := by
  cases b <;> simp [State.wrB, State.wr_rd_same, hw]

/-- STATUS shows the channel's mode, its fade, its pending swap and its pending delay. -/
theorem State.showChan_shows (s : State) (c : Nat) :
    (s.showChan c).rd (R.SIEVE_CH_STATUS_MODE c) = (if (s.chan c).guard then 1 else 0) ∧
    (s.showChan c).rd (R.SIEVE_CH_STATUS_FADING c) = (if (s.chan c).fade.isSome then 1 else 0) ∧
    (s.showChan c).rd (R.SIEVE_CH_STATUS_SWAP_PENDING c) = (if (s.chan c).pend.isSome then 1 else 0) ∧
    (s.showChan c).rd (R.SIEVE_CH_STATUS_DELAY_PENDING c) = (if (s.chan c).dpend.isSome then 1 else 0) := by
  refine ⟨?_, ?_, ?_, ?_⟩ <;>
  · simp (disch := (simp only [Fld.key, R.SIEVE_CH_STATUS_MODE, R.SIEVE_CH_STATUS_ACTIVE_BANK, R.SIEVE_CH_STATUS_FADING,
      R.SIEVE_CH_STATUS_SWAP_PENDING, R.SIEVE_CH_STATUS_PENDING_BANK, R.SIEVE_CH_STATUS_DELAY_PENDING, R.SIEVE_CH_STATUS_GUARD_LEFT,
      R.SIEVE_CH_COUNT, R.SIEVE_CH_SUPPORT]; omega)) only [State.showChan, State.showSupport, State.wr_rd_ne, State.wrB_rd_ne]
    exact wrB_bit_rd _ rfl _

theorem State.setChan_chan (s : State) (c : Nat) (h : SieveCh) : (s.setChan c h).chan c = h := Tab.get_set_same _ _ _

/-- A change of a channel, and what then shows it. -/
theorem State.onChan_chan (s : State) (c : Nat) (f : SieveCh → SieveCh) : (s.onChan c f).chan c = f (s.chan c) :=
  (State.showChan_chan _ _).trans (State.setChan_chan _ _ _)

theorem State.onChan_same (s : State) (c : Nat) (f : SieveCh → SieveCh) : sameRegs s (s.onChan c f) (chanShown c) :=
  State.showChan_same (s.setChan c (f (s.chan c))) c

theorem State.onChan_shows (s : State) (c : Nat) (f : SieveCh → SieveCh) :
    (s.onChan c f).rd (R.SIEVE_CH_STATUS_MODE c) = (if (f (s.chan c)).guard then 1 else 0) ∧
    (s.onChan c f).rd (R.SIEVE_CH_STATUS_FADING c) = (if (f (s.chan c)).fade.isSome then 1 else 0) ∧
    (s.onChan c f).rd (R.SIEVE_CH_STATUS_SWAP_PENDING c) = (if (f (s.chan c)).pend.isSome then 1 else 0) ∧
    (s.onChan c f).rd (R.SIEVE_CH_STATUS_DELAY_PENDING c) = (if (f (s.chan c)).dpend.isSome then 1 else 0) := by
  have h := State.showChan_shows (s.setChan c (f (s.chan c))) c
  rwa [State.setChan_chan] at h

theorem State.onChan_ms (s : State) (c : Nat) (f : SieveCh → SieveCh) : (s.onChan c f).ms = s.ms :=
  (keeps_onChan (.refl partsButMs s) (by decide) (by decide) c f).same_ms

/-- A run on a channel, and what then shows it. -/
theorem State.endRun_chan (s : State) (c : Nat) (r : SvRun) : (s.endRun c r).chan c = r.ch ∧
    (s.endRun c r).rd (R.SIEVE_CH_STATUS_MODE c) = (if r.ch.guard then 1 else 0) ∧
    (s.endRun c r).rd (R.SIEVE_CH_STATUS_FADING c) = (if r.ch.fade.isSome then 1 else 0) ∧
    (s.endRun c r).rd (R.SIEVE_CH_STATUS_SWAP_PENDING c) = (if r.ch.pend.isSome then 1 else 0) ∧
    (s.endRun c r).rd (R.SIEVE_CH_STATUS_DELAY_PENDING c) = (if r.ch.dpend.isSome then 1 else 0) := by
  obtain ⟨u, hu, hch⟩ : ∃ u : State, s.endRun c r = u.showChan c ∧ u.chan c = r.ch := by
    refine ⟨_, rfl, ?_⟩
    refine (State.chan_congr ?_ c).trans (State.setChan_chan s c r.ch)
    split_ifs <;> simp only [State.wr_sv, State.add_sv, State.addSat_sv]
  rw [hu, State.showChan_chan, ← hch]
  exact ⟨rfl, State.showChan_shows u c⟩

/-- A field apart from those that show channel `c`, in words of their places. -/
theorem key_ne_chanShown {c : Nat} {f : Fld} (h : f.key < (0x4E100044 + c * 0x100) * 64 ∨
    (0x4E100044 + c * 0x100) * 64 < f.key ∧ f.key < (0x4E100044 + c * 0x100) * 64 + 24 ∨
    (0x4E100044 + c * 0x100) * 64 + 29 < f.key ∧ f.key < (0x4E100048 + c * 0x100) * 64 ∨ (0x4E10004C + c * 0x100) * 64 < f.key) :
    ∀ x ∈ chanShown c, f.key ≠ x.key := by
  generalize f.key = k at h
  simp only [chanShown, List.mem_cons, List.not_mem_nil, or_false, forall_eq_or_imp, forall_eq, Fld.key, R.SIEVE_CH_STATUS_MODE,
    R.SIEVE_CH_STATUS_ACTIVE_BANK, R.SIEVE_CH_STATUS_FADING, R.SIEVE_CH_STATUS_SWAP_PENDING, R.SIEVE_CH_STATUS_PENDING_BANK,
    R.SIEVE_CH_STATUS_DELAY_PENDING, R.SIEVE_CH_STATUS_GUARD_LEFT, R.SIEVE_CH_COUNT, R.SIEVE_CH_SUPPORT, ne_eq]
  omega

/-- One bit of a written word. -/
theorem bitsOf_one (v : Word) (i : Nat) : bitsOf v i 1 = if bitOf v i then 1 else 0 := by
  rw [bitsOf, bitOf, BitVec.getLsbD, Nat.testBit_eq_decide_div_mod_eq]
  rcases Nat.mod_two_eq_zero_or_one (v.toNat / 2 ^ i) with h | h <;> simp [h]

/-- What single writes leave, writing a word leaves. -/
theorem State.wrWord_keeps {α : Type} {π : State → α} (hπ : ∀ t f n, π (t.wr f n) = π t) (v : Word) (fs : List Fld) (s : State) :
    π (s.wrWord v fs) = π s := by
  induction fs generalizing s with
  | nil => rfl
  | cons f r ih => exact (ih (s.wr f (f.of v))).trans (hπ s f _)

theorem State.sieveCfgErr_lt (s : State) (c : Nat) : s.sieveCfgErr c < 8 := by
  unfold State.sieveCfgErr
  dsimp only
  split_ifs <;> decide

/-- The stop instant: the next frame boundary, within 10 ms. -/
theorem next_boundary (x b d : Int) (hd : 0 < d) : x < b + ((x - b) / d + 1) * d ∧ b + ((x - b) / d + 1) * d ≤ x + d := by
  have h1 := Int.emod_add_mul_ediv (x - b) d
  have h2 := Int.emod_nonneg (x - b) hd.ne'
  have h3 := Int.emod_lt_of_pos (x - b) hd
  constructor <;> nlinarith

theorem State.slotNs_pos (s : State) (g : Nat) : 0 < s.slotNs g := by
  have hmu : s.rd (R.LG_CFG_MU g) < 2 ^ 3 := State.rd_lt s (R.LG_CFG_MU g)
  rw [State.slotNs]
  have : (2 : Nat) ^ s.rd (R.LG_CFG_MU g) ≤ 2 ^ 8 := Nat.pow_le_pow_right (by decide) (by omega)
  exact_mod_cast Nat.div_pos (le_trans this (by decide)) (Nat.two_pow_pos _)

end Sys2Proof.Machine

namespace Sys2Proof.Claims

set_option Elab.async false

open Sys2Proof.Machine

theorem sieveStart_starts : ∀ (s : State) (c : Fin 1024), s.chanSt c = 0 → s.sieveCfgErr c = 0 → ∃ t, exec (.sieveStart c) s = .next t ∧ t.chanSt c = 1 ∧
    t.rd (R.SIEVE_CH_STATUS_CFG_ERR c) = 0 ∧ (t.chan c).startNs = s.nowUp ∧ (t.chan c).active = s.rd (R.SIEVE_CH_FIR_START_BANK c) ∧
    t.rd R.SIEVE_RATE_USED_SUM = (s.rd R.SIEVE_RATE_USED_SUM + s.rd (R.SIEVE_CH_RATE_SPF c)) % 2 ^ 29 ∧ t.ms = s.ms := by
  intro s c hst herr
  show ∃ t, execSieveStart c s = .next t ∧ _
  simp only [execSieveStart]
  rw [if_neg (by simp [hst]), if_neg (by simp [herr]), herr]
  refine ⟨_, rfl, ?_, ?_, ?_, ?_, ?_, ?_⟩
  · rw [State.chanSt, State.onChan_same _ _ _ _ (key_ne_chanShown (by simp only [Fld.key, R.SIEVE_CH_STATUS_STATE, ne_eq]; omega)),
      State.add_rd_ne _ _ _ _ (by simp only [Fld.key, R.SIEVE_CH_STATUS_STATE, R.SIEVE_RATE_USED_SUM, ne_eq]; omega), State.wr_rd_same]
    rfl
  · rw [State.onChan_same _ _ _ _ (key_ne_chanShown (by simp only [Fld.key, R.SIEVE_CH_STATUS_CFG_ERR, ne_eq]; omega)),
      State.add_rd_ne _ _ _ _ (by simp only [Fld.key, R.SIEVE_CH_STATUS_CFG_ERR, R.SIEVE_RATE_USED_SUM, ne_eq]; omega),
      State.wr_rd_ne _ _ _ _ (by simp only [Fld.key, R.SIEVE_CH_STATUS_CFG_ERR, R.SIEVE_CH_STATUS_STATE, ne_eq]; omega), State.wr_rd_same]
    rfl
  · rw [State.onChan_chan]
  · rw [State.onChan_chan]
  · rw [State.onChan_same _ _ _ _ (key_ne_chanShown (by simp only [Fld.key, R.SIEVE_RATE_USED_SUM, ne_eq]; omega)), State.add_rd_same,
      State.wr_rd_ne _ _ _ _ (by simp only [Fld.key, R.SIEVE_CH_STATUS_STATE, R.SIEVE_RATE_USED_SUM, ne_eq]; omega), State.wr_rd_ne _ _ _ _ (by simp only [Fld.key, R.SIEVE_CH_STATUS_CFG_ERR, R.SIEVE_RATE_USED_SUM, ne_eq]; omega)]
    rfl
  · rw [State.onChan_ms, State.add_ms, State.wr_ms, State.wr_ms]

theorem sieveStart_refused : ∀ (s : State) (c : Fin 1024), s.chanSt c = 0 → s.sieveCfgErr c ≠ 0 → ∃ t, exec (.sieveStart c) s = .next t ∧ t.chanSt c = 0 ∧
    t.rd (R.SIEVE_CH_STATUS_CFG_ERR c) = s.sieveCfgErr c ∧ sameRegs s t [R.SIEVE_CH_STATUS_CFG_ERR c] ∧ t.sv = s.sv := by
  intro s c hst herr
  show ∃ t, execSieveStart c s = .next t ∧ _
  simp only [execSieveStart]
  rw [if_neg (by simp [hst]), if_pos herr]
  refine ⟨_, rfl, ?_, ?_, (sameRegs.refl s _).wr (by simp) _, State.wr_sv _ _ _⟩
  · rw [State.chanSt, State.wr_rd_ne _ _ _ _ (by simp only [Fld.key, R.SIEVE_CH_STATUS_STATE, R.SIEVE_CH_STATUS_CFG_ERR, ne_eq]; omega)]
    exact hst
  · rw [State.wr_rd_same]
    exact Nat.mod_eq_of_lt (s.sieveCfgErr_lt c)

theorem sieveChannelRun_runs : ∀ (s : State) (c : Fin 1024), s.chanSt c = 1 → s.rd (R.LG_STATUS_STATE (s.chanGroup c)) = 2 →
    s.reached (s.frameAtOrAfter (s.chanGroup c) (max ((s.chan c).startNs + 10000) (s.group (s.chanGroup c)).runNs) false) = true →
    ∃ t, exec (.sieveChannelRun c) s = .next t ∧ t.chanSt c = 2 ∧ (t.chan c).next = 0 ∧ (t.chan c).guard = true ∧ (t.chan c).fir = [] ∧
      (t.chan c).f0 = s.frameAtOrAfter (s.chanGroup c) (max ((s.chan c).startNs + 10000) (s.group (s.chanGroup c)).runNs) false ∧
      t.rd (R.SIEVE_CH_STATUS_MODE c) = 1 := by
  intro s c hst hlg hre
  show ∃ t, execSieveChannelRun c s = .next t ∧ _
  simp only [execSieveChannelRun]
  rw [if_pos ⟨hst, hlg, hre⟩]
  refine ⟨_, rfl, ?_, ?_, ?_, ?_, ?_, ?_⟩
  · rw [State.chanSt, State.onChan_same _ _ _ _ (key_ne_chanShown (by simp only [Fld.key, R.SIEVE_CH_STATUS_STATE, ne_eq]; omega)), State.wr_rd_same]
    rfl
  · rw [State.onChan_chan]
  · rw [State.onChan_chan]
  · rw [State.onChan_chan]
  · rw [State.onChan_chan]
  · rw [(State.onChan_shows _ _ _).1]
    rfl

theorem sieveStop_stops : ∀ (s : State) (c : Fin 1024), s.chanSt c = 2 → ∃ t, exec (.sieveStop c) s = .next t ∧ t.chanSt c = 3 ∧ (t.chan c).pend = none ∧
    s.nowNs < (t.chan c).stopNs ∧ (t.chan c).stopNs ≤ s.nowNs + 10000000 ∧ ((t.chan c).stopNs - s.groupBase (s.chanGroup c)) % 10000000 = 0 ∧
    (t.chan c).bursts = (s.chan c).bursts := by
  intro s c hst
  show ∃ t, execSieveStop c s = .next t ∧ _
  simp only [execSieveStop]
  rw [if_pos hst]
  obtain ⟨hlt, hle⟩ := next_boundary s.nowNs (s.groupBase (s.chanGroup c)) 10000000 (by decide)
  have hch (b : Int) : (((s.onChan c (fun h => { h with pend := none })).wr (R.SIEVE_CH_STATUS_STATE c) 3).onChan c
      (fun h => { h with stopNs := b })).chan c = { s.chan c with pend := none, stopNs := b } := by
    rw [State.onChan_chan, State.chan_congr (State.wr_sv _ _ _), State.onChan_chan]
  refine ⟨_, rfl, ?_, ?_, ?_, ?_, ?_, ?_⟩
  · rw [State.chanSt, State.onChan_same _ _ _ _ (key_ne_chanShown (by simp only [Fld.key, R.SIEVE_CH_STATUS_STATE, ne_eq]; omega)), State.wr_rd_same]
    rfl
  · rw [hch]
  · rw [hch]
    exact hlt
  · rw [hch]
    exact hle
  · rw [hch]
    dsimp only
    omega
  · rw [hch]

theorem sieveChannelCease_ceases : ∀ (s : State) (c : Fin 1024), s.chanSt c = 3 → s.reached (s.chan c).stopNs = true → (s.chan c).bursts = [] →
    ∃ t, exec (.sieveChannelCease c) s = .next t ∧ t.chanSt c = 0 ∧ (t.chan c).buf = [] ∧ (t.chan c).fade = none ∧
      t.rd R.SIEVE_RATE_USED_SUM = s.rd R.SIEVE_RATE_USED_SUM - s.rd (R.SIEVE_CH_RATE_SPF c) := by
  intro s c hst hre hb
  show ∃ t, execSieveChannelCease c s = .next t ∧ _
  simp only [execSieveChannelCease]
  rw [if_pos (by simp [hst, hre, hb])]
  refine ⟨_, rfl, ?_, ?_, ?_, ?_⟩
  · rw [State.chanSt, State.onChan_same _ _ _ _ (key_ne_chanShown (by simp only [Fld.key, R.SIEVE_CH_STATUS_STATE, ne_eq]; omega)),
      State.wr_rd_ne _ _ _ _ (by simp only [Fld.key, R.SIEVE_CH_STATUS_STATE, R.SIEVE_RATE_USED_SUM, ne_eq]; omega), State.wr_rd_same]
    rfl
  · rw [State.onChan_chan]
  · rw [State.onChan_chan]
  · rw [State.onChan_same _ _ _ _ (key_ne_chanShown (by simp only [Fld.key, R.SIEVE_RATE_USED_SUM, ne_eq]; omega)), State.wr_rd_same]
    exact Nat.mod_eq_of_lt (lt_of_le_of_lt (Nat.sub_le _ _) (State.rd_lt s R.SIEVE_RATE_USED_SUM))

theorem sieveSwap_fades : ∀ (s : State) (c : Fin 1024) (v : Word), bitOf v 29 = true → 4 ≤ (R.SIEVE_CH_CTRL_SWAP_FADE_LOG2 c).of v →
    (R.SIEVE_CH_CTRL_SWAP_FADE_LOG2 c).of v ≤ 12 → s.chanSt c ≠ 0 → (s.chan c).fade = none →
    (R.SIEVE_CH_CTRL_SWAP_BANK c).of v ≠ (s.chan c).active → ∃ t, exec (.sieveSwap c v) s = .next t ∧
      (t.chan c).fade = some ⟨(R.SIEVE_CH_CTRL_SWAP_BANK c).of v, (R.SIEVE_CH_CTRL_SWAP_FADE_LOG2 c).of v, s.stp.now, none⟩ ∧
      t.rd (R.SIEVE_CH_STATUS_FADING c) = 1 := by
  intro s c v hv hlo hhi hst hfade hbank
  obtain ⟨hch, -, hfad, -, -⟩ := s.endRun_chan c (({ ch := s.chan c } : SvRun).request ((R.SIEVE_CH_CTRL_SWAP_BANK c).of v)
    ((R.SIEVE_CH_CTRL_SWAP_FADE_LOG2 c).of v) s.stp.now)
  have hreq : ({ ch := s.chan c } : SvRun).request ((R.SIEVE_CH_CTRL_SWAP_BANK c).of v) ((R.SIEVE_CH_CTRL_SWAP_FADE_LOG2 c).of v) s.stp.now =
      { ch := { s.chan c with fade := some ⟨(R.SIEVE_CH_CTRL_SWAP_BANK c).of v, (R.SIEVE_CH_CTRL_SWAP_FADE_LOG2 c).of v, s.stp.now, none⟩ } } := by
    simp only [SvRun.request, hfade, if_neg hbank]
  refine ⟨_, if_pos ⟨hv, hlo, hhi, hst⟩, ?_, ?_⟩
  · rw [State.sieveRequest, State.onRun, hch, hreq]
  · rw [State.sieveRequest, State.onRun, hfad, hreq]
    rfl

theorem sieveSwap_waits : ∀ (s : State) (c : Fin 1024) (v : Word) (f : Fade), bitOf v 29 = true → 4 ≤ (R.SIEVE_CH_CTRL_SWAP_FADE_LOG2 c).of v →
    (R.SIEVE_CH_CTRL_SWAP_FADE_LOG2 c).of v ≤ 12 → s.chanSt c ≠ 0 → (s.chan c).fade = some f → ∃ t, exec (.sieveSwap c v) s = .next t ∧
      (t.chan c).fade = some f ∧ (t.chan c).pend = some ((R.SIEVE_CH_CTRL_SWAP_BANK c).of v, (R.SIEVE_CH_CTRL_SWAP_FADE_LOG2 c).of v) ∧
      t.rd (R.SIEVE_CH_STATUS_SWAP_PENDING c) = 1 := by
  intro s c v f hv hlo hhi hst hfade
  obtain ⟨hch, -, -, hpend, -⟩ := s.endRun_chan c (({ ch := s.chan c } : SvRun).request ((R.SIEVE_CH_CTRL_SWAP_BANK c).of v)
    ((R.SIEVE_CH_CTRL_SWAP_FADE_LOG2 c).of v) s.stp.now)
  have hreq : (({ ch := s.chan c } : SvRun).request ((R.SIEVE_CH_CTRL_SWAP_BANK c).of v) ((R.SIEVE_CH_CTRL_SWAP_FADE_LOG2 c).of v) s.stp.now).ch =
      { s.chan c with pend := some ((R.SIEVE_CH_CTRL_SWAP_BANK c).of v, (R.SIEVE_CH_CTRL_SWAP_FADE_LOG2 c).of v) } := by
    simp only [SvRun.request, hfade]
  refine ⟨_, if_pos ⟨hv, hlo, hhi, hst⟩, ?_, ?_, ?_⟩
  · rw [State.sieveRequest, State.onRun, hch, hreq]
    exact hfade
  · rw [State.sieveRequest, State.onRun, hch, hreq]
  · rw [State.sieveRequest, State.onRun, hpend, hreq]
    rfl

theorem sieveSwap_short : ∀ (s : State) (c : Fin 1024) (v : Word), (R.SIEVE_CH_CTRL_SWAP_FADE_LOG2 c).of v < 4 → exec (.sieveSwap c v) s = .next s := by
  intro s c v hlt
  exact if_neg fun h => absurd h.2.1 (by omega)

theorem sieveFadeEnd_ends : ∀ (s : State) (c : Fin 1024) (f : Fade), (s.chan c).fade = some f → f.j = some (2 ^ f.log2) → (s.chan c).pend = none →
    ∃ t, exec (.sieveFadeEnd c) s = .next t ∧ (t.chan c).active = f.bank ∧ (t.chan c).fade = none ∧ t.rd (R.SIEVE_CH_STATUS_FADING c) = 0 := by
  intro s c f hfade hj hpend
  let start : Int := ((s.svCfg c).f0 * ((s.svCfg c).spf : Int) + ((s.chan c).next : Int) * 10000000) * 65536 / ((s.svCfg c).spf : Int)
  obtain ⟨hch, -, hfad, -, -⟩ := s.endRun_chan c (({ ch := s.chan c } : SvRun).fadeEnd start)
  have hend : ({ ch := s.chan c } : SvRun).fadeEnd start = { ch := { s.chan c with active := f.bank, fade := none } } := by
    simp only [SvRun.fadeEnd, hfade, hj, if_true, hpend]
  refine ⟨_, rfl, ?_, ?_, ?_⟩
  · rw [State.onRun, hch, hend]
  · rw [State.onRun, hch, hend]
  · rw [State.onRun, hfad, hend]
    rfl

theorem forceGuard_guards : ∀ (s : State) (c : Fin 1024), ∃ t, exec (.forceGuard c) s = .next t ∧ (t.chan c).guard = true ∧ (t.chan c).gcount = 0 ∧
    t.rd (R.SIEVE_CH_STATUS_MODE c) = 1 ∧ (t.chan c).next = (s.chan c).next := by
  intro s c
  refine ⟨_, rfl, ?_, ?_, ?_, ?_⟩
  · rw [State.onChan_chan]
    rfl
  · rw [State.onChan_chan]
    rfl
  · rw [(State.onChan_shows _ _ _).1]
    rfl
  · rw [State.onChan_chan]
    rfl

theorem leaveGuard_asks : ∀ (s : State) (c : Fin 1024), s.bit (R.SIEVE_CH_GUARD_TEST c) = false → (s.chan c).guard = true →
    ∃ t, exec (.leaveGuard c) s = .next t ∧ (t.chan c).leave = true ∧ (t.chan c).guard = true := by
  intro s c htest hg
  refine ⟨_, if_neg (by simp [htest, hg]), ?_, ?_⟩
  · rw [State.onChan_chan]
  · rw [State.onChan_chan]
    exact hg

theorem leaveGuard_test : ∀ (s : State) (c : Fin 1024), s.bit (R.SIEVE_CH_GUARD_TEST c) = true → exec (.leaveGuard c) s = .next s := by
  intro s c htest
  exact if_pos (.inl htest)

theorem sieveGuardReturn_serves : ∀ (s : State) (c : Fin 1024), (s.chan c).guard = true → (s.chan c).leave = true → s.bit (R.SIEVE_CH_GUARD_TEST c) = false →
    (s.chan c).next % (s.svCfg c).p5 = 0 → ∃ t, exec (.sieveGuardReturn c) s = .next t ∧ (t.chan c).guard = false ∧
      t.rd (R.SIEVE_CH_STATUS_MODE c) = 0 := by
  intro s c hg hl htest hmod
  obtain ⟨hch, hmode, -, -, -⟩ := s.endRun_chan c (SvRun.pre (s.svCfg c) { ch := s.chan c } (s.chan c).next)
  have hpre : (SvRun.pre (s.svCfg c) { ch := s.chan c } (s.chan c).next).ch.guard = false := by
    have ht : (s.svCfg c).test = false := htest
    simp [SvRun.pre, hg, hl, hmod, ht]
  refine ⟨_, rfl, ?_, ?_⟩
  · rw [State.onRun, hch, hpre]
  · rw [State.onRun, hmode, hpre]
    rfl

theorem sieveGuardCfgWrite_writes : ∀ (s : State) (c : Fin 1024) (v : Word), bitOf v 29 = true → ∃ t, exec (.sieveGuardCfgWrite c v) s = .next t ∧
    t.rd (R.SIEVE_CH_GUARD_TEST c) = 1 ∧ t.rd (R.SIEVE_CH_GUARD_AUTO c) = bitsOf v 31 1 ∧ t.rd (R.SIEVE_CH_GUARD_GUARD_ON_WRAP c) = bitsOf v 30 1 ∧
    t.rd (R.SIEVE_CH_GUARD_GUARD_EXTRA c) = bitsOf v 0 16 ∧ (t.chan c).guard = true := by
  intro s c v hv
  have hw (f : Fld) (hf : f ∈ [R.SIEVE_CH_GUARD_AUTO c, R.SIEVE_CH_GUARD_GUARD_ON_WRAP c, R.SIEVE_CH_GUARD_TEST c, R.SIEVE_CH_GUARD_GUARD_EXTRA c])
      (hs : ∀ x ∈ chanShown c, f.key ≠ x.key) : (((s.wrWord v [R.SIEVE_CH_GUARD_AUTO c, R.SIEVE_CH_GUARD_GUARD_ON_WRAP c, R.SIEVE_CH_GUARD_TEST c,
      R.SIEVE_CH_GUARD_GUARD_EXTRA c]).onChan c (fun h => if bitOf v 29 then h.enterGuard else h))).rd f = f.of v := by
    rw [State.onChan_same _ _ _ _ hs]
    refine State.wrWord_rd_mem v f _ s hf ?_
    simp only [List.mem_cons, List.not_mem_nil, or_false] at hf
    rcases hf with rfl | rfl | rfl | rfl <;> simp [Fld.key, R.SIEVE_CH_GUARD_AUTO, R.SIEVE_CH_GUARD_GUARD_ON_WRAP, R.SIEVE_CH_GUARD_TEST,
      R.SIEVE_CH_GUARD_GUARD_EXTRA]
  refine ⟨_, rfl, ?_, ?_, ?_, ?_, ?_⟩
  · rw [hw _ (by simp) (key_ne_chanShown (by simp only [Fld.key, R.SIEVE_CH_GUARD_TEST, ne_eq]; omega))]
    exact (bitsOf_one v 29).trans (if_pos hv)
  · exact hw _ (by simp) (key_ne_chanShown (by simp only [Fld.key, R.SIEVE_CH_GUARD_AUTO, ne_eq]; omega))
  · exact hw _ (by simp) (key_ne_chanShown (by simp only [Fld.key, R.SIEVE_CH_GUARD_GUARD_ON_WRAP, ne_eq]; omega))
  · exact hw _ (by simp) (key_ne_chanShown (by simp only [Fld.key, R.SIEVE_CH_GUARD_GUARD_EXTRA, ne_eq]; omega))
  · rw [State.onChan_chan, hv]
    rfl

theorem sieveCoefWrite_stopped : ∀ (s : State) (c : Fin 1024) (b : Fin 2) (j : Fin 16) (v : Word), s.chanSt c = 0 → ∃ t, exec (.sieveCoefWrite c b j v) s = .next t ∧
    t.rd (R.SIEVE_CH_COEF c b j) = v.toNat ∧ sameRegs s t [R.SIEVE_CH_COEF c b j] ∧ t.sv = s.sv := by
  intro s c b j v hst
  refine ⟨_, if_neg (by simp [hst]), ?_, (sameRegs.refl s _).wr (by simp) _, State.wr_sv _ _ _⟩
  rw [State.wr_rd_same]
  exact Nat.mod_eq_of_lt v.isLt

theorem sieveCoefWrite_active : ∀ (s : State) (c : Fin 1024) (b : Fin 2) (j : Fin 16) (v : Word), s.chanSt c ≠ 0 → (s.chan c).active = b →
    ∃ t, exec (.sieveCoefWrite c b j v) s = .next t ∧ sameRegs s t [R.SIEVE_CH_SWAP_COUNTS_COEF_REFUSED c] ∧ t.sv = s.sv ∧
      t.rd (R.SIEVE_CH_SWAP_COUNTS_COEF_REFUSED c) = min (s.rd (R.SIEVE_CH_SWAP_COUNTS_COEF_REFUSED c) + 1) 65535 := by
  intro s c b j v hst hact
  refine ⟨_, if_pos ⟨hst, .inl hact⟩, (sameRegs.refl s _).incSat (by simp), State.addSat_sv _ _ _, ?_⟩
  rw [State.incSat, State.addSat, State.wr_rd_same]
  exact Nat.mod_eq_of_lt (lt_of_le_of_lt (Nat.min_le_right _ _) (by simp [R.SIEVE_CH_SWAP_COUNTS_COEF_REFUSED]))

/-- The two fields of a written DELAY. -/
theorem wrWord_delay (s : State) (c : Nat) (v : Word) :
    (s.wrWord v [R.SIEVE_CH_DELAY_INT c, R.SIEVE_CH_DELAY_FRAC c]).rd (R.SIEVE_CH_DELAY_INT c) = bitsOf v 16 12 ∧
    (s.wrWord v [R.SIEVE_CH_DELAY_INT c, R.SIEVE_CH_DELAY_FRAC c]).rd (R.SIEVE_CH_DELAY_FRAC c) = bitsOf v 0 6 :=
  ⟨State.wrWord_rd_mem v _ _ s (by simp) (by simp [Fld.key, R.SIEVE_CH_DELAY_INT, R.SIEVE_CH_DELAY_FRAC]),
    State.wrWord_rd_mem v _ _ s (by simp) (by simp [Fld.key, R.SIEVE_CH_DELAY_INT, R.SIEVE_CH_DELAY_FRAC])⟩

theorem sieveDelayWrite_stopped : ∀ (s : State) (c : Fin 1024) (v : Word), s.chanSt c = 0 → ∃ t, exec (.sieveDelayWrite c v) s = .next t ∧
    t.rd (R.SIEVE_CH_DELAY_INT c) = bitsOf v 16 12 ∧ t.rd (R.SIEVE_CH_DELAY_FRAC c) = bitsOf v 0 6 ∧
    sameRegs s t [R.SIEVE_CH_DELAY_INT c, R.SIEVE_CH_DELAY_FRAC c] := by
  intro s c v hst
  obtain ⟨hint, hfrac⟩ := wrWord_delay s c v
  exact ⟨_, if_pos hst, hint, hfrac, (sameRegs.refl s _).wrWord v (by simp)⟩

theorem sieveDelayWrite_pending : ∀ (s : State) (c : Fin 1024) (v : Word), s.chanSt c ≠ 0 → ∃ t b, exec (.sieveDelayWrite c v) s = .next t ∧
    t.rd (R.SIEVE_CH_DELAY_INT c) = bitsOf v 16 12 ∧ (t.chan c).int = (s.chan c).int ∧ (t.chan c).dpend = some (b * 65536) ∧
    s.nowNs < b ∧ b ≤ s.nowNs + s.slotNs (s.chanGroup c) ∧ t.rd (R.SIEVE_CH_STATUS_DELAY_PENDING c) = 1 := by
  intro s c v hst
  obtain ⟨hlt, hle⟩ := next_boundary s.nowNs (s.groupBase (s.chanGroup c)) (s.slotNs (s.chanGroup c)) (s.slotNs_pos _)
  refine ⟨_, _, if_neg hst, ?_, ?_, ?_, hlt, hle, ?_⟩
  · rw [State.onChan_same _ _ _ _ (key_ne_chanShown (by simp only [Fld.key, R.SIEVE_CH_DELAY_INT, ne_eq]; omega)), (wrWord_delay s c v).1]
  · rw [State.onChan_chan, State.chan_congr (State.wrWord_keeps State.wr_sv v _ s)]
  · rw [State.onChan_chan]
    rfl
  · rw [(State.onChan_shows _ _ _).2.2.2]
    rfl

theorem sieveDelayApply_applies : ∀ (s : State) (c : Fin 1024) (b : Int), s.chanSt c = 2 → (s.chan c).dpend = some b →
    (s.svCfg c).atOrAfter (((s.chan c).next + (s.svCfg c).p5 - 1) / (s.svCfg c).p5 * (s.svCfg c).p5) b = true →
    ∃ t, exec (.sieveDelayApply c) s = .next t ∧ (t.chan c).int = s.rd (R.SIEVE_CH_DELAY_INT c) ∧
      (t.chan c).frac = s.rd (R.SIEVE_CH_DELAY_FRAC c) ∧ (t.chan c).dpend = none ∧ t.rd (R.SIEVE_CH_STATUS_DELAY_PENDING c) = 0 := by
  intro s c b hst hpend hat
  let n := ((s.chan c).next + (s.svCfg c).p5 - 1) / (s.svCfg c).p5 * (s.svCfg c).p5
  obtain ⟨hch, -, -, -, hdel⟩ := s.endRun_chan c (SvRun.delay (s.svCfg c) { ch := s.chan c } n (s.rd (R.SIEVE_CH_DELAY_INT c))
    (s.rd (R.SIEVE_CH_DELAY_FRAC c)))
  have hrun : SvRun.delay (s.svCfg c) { ch := s.chan c } n (s.rd (R.SIEVE_CH_DELAY_INT c)) (s.rd (R.SIEVE_CH_DELAY_FRAC c)) =
      { ch := { s.chan c with int := s.rd (R.SIEVE_CH_DELAY_INT c), frac := s.rd (R.SIEVE_CH_DELAY_FRAC c), dpend := none } } := by
    simp only [SvRun.delay, hpend]
    rw [if_pos hat]
  refine ⟨_, if_pos (.inl hst), ?_, ?_, ?_, ?_⟩
  · rw [State.onRun, hch, hrun]
  · rw [State.onRun, hch, hrun]
  · rw [State.onRun, hch, hrun]
  · rw [State.onRun, hdel, hrun]
    rfl

theorem sieveBellMark_marks : ∀ (s : State) (c : Fin 1024) (e : Int), (s.bell (s.rd (R.SIEVE_CH_MODE_BELL_SEL c))).edge = some e → s.chanSt c = 2 →
    s.bit (R.SIEVE_CH_MODE_BELL_EN c) = true → (s.chan c).mark ≠ some e → ∃ t n, exec (.sieveBellMark c) s = .next t ∧
      t.rd (R.SIEVE_CH_BELL_IDX_MARK_VALID c) = 1 ∧ (t.chan c).mark = some e ∧ t.rd (R.SIEVE_CH_BELL_IDX_NB c) = n % (s.svCfg c).spf % 2 ^ 23 ∧
      n = (-((-((e - (s.chan c).f0 * 65536) * ((s.svCfg c).spf : Int))) / (10000000 * 65536))).toNat ∧
      (s.bit (R.SIEVE_CH_BELL_IDX_MARK_VALID c) = true → t.rd (R.SIEVE_CH_BELL_IDX_MARK_LOST c) = 1) := by
  intro s c e he hst hen hmark
  show ∃ t n, execSieveBellMark c s = .next t ∧ _
  simp only [execSieveBellMark, he]
  rw [if_neg (by simp [hst, hen, hmark])]
  refine ⟨_, _, rfl, ?_, ?_, ?_, rfl, ?_⟩
  · rw [State.onChan_same _ _ _ _ (key_ne_chanShown (by simp only [Fld.key, R.SIEVE_CH_BELL_IDX_MARK_VALID, ne_eq]; omega)), State.wr_rd_same]
    rfl
  · rw [State.onChan_chan]
  · rw [State.onChan_same _ _ _ _ (key_ne_chanShown (by simp only [Fld.key, R.SIEVE_CH_BELL_IDX_NB, ne_eq]; omega)), State.wr_rd_ne _ _ _ _ (by simp only [Fld.key, R.SIEVE_CH_BELL_IDX_NB, R.SIEVE_CH_BELL_IDX_MARK_VALID, ne_eq]; omega),
      State.wr_rd_ne _ _ _ _ (by simp only [Fld.key, R.SIEVE_CH_BELL_IDX_NB, R.SIEVE_CH_BELL_SFN_SFN, ne_eq]; omega), State.wr_rd_same]
    rfl
  · intro hvalid
    rw [State.onChan_same _ _ _ _ (key_ne_chanShown (by simp only [Fld.key, R.SIEVE_CH_BELL_IDX_MARK_LOST, ne_eq]; omega)),
      State.wr_rd_ne _ _ _ _ (by simp only [Fld.key, R.SIEVE_CH_BELL_IDX_MARK_LOST, R.SIEVE_CH_BELL_IDX_MARK_VALID, ne_eq]; omega),
      State.wr_rd_ne _ _ _ _ (by simp only [Fld.key, R.SIEVE_CH_BELL_IDX_MARK_LOST, R.SIEVE_CH_BELL_SFN_SFN, ne_eq]; omega),
      State.wr_rd_ne _ _ _ _ (by simp only [Fld.key, R.SIEVE_CH_BELL_IDX_MARK_LOST, R.SIEVE_CH_BELL_IDX_NB, ne_eq]; omega), if_pos hvalid, State.wr_rd_same]
    rfl

/-- Settles O29: each clause is a lemma above about one command. -/
theorem sieveChannelLifeAndSettings : Obligations.SieveChannelLifeAndSettings :=
  ⟨sieveStart_starts, sieveStart_refused, sieveChannelRun_runs, sieveStop_stops, sieveChannelCease_ceases, sieveSwap_fades, sieveSwap_waits,
    sieveSwap_short, sieveFadeEnd_ends, forceGuard_guards, leaveGuard_asks, leaveGuard_test, sieveGuardReturn_serves, sieveGuardCfgWrite_writes,
    sieveCoefWrite_stopped, sieveCoefWrite_active, sieveDelayWrite_stopped, sieveDelayWrite_pending, sieveDelayApply_applies, sieveBellMark_marks⟩

end Sys2Proof.Claims

/-! ## The registers that the memory system writes

Reads and writes of memory by the engines of the device count and log what they meet; these are the registers of that. -/

namespace Sys2Proof.Machine

set_option Elab.async false

open Sys2Proof.Claims

/-- The places of the memory system's counters, of the error log and of the Gleaner's counters. -/
def memRegs (k : Nat) : Prop := addrIn 0x10F01000 0x20000000 k ∨ addrIn 0x41000004 0x41000020 k ∨ addrIn 0x41000340 0x41000358 k ∨
  addrIn 0x41010000 0x41020000 k ∨ addrIn 0x47000100 0x47000104 k ∨ addrIn 0x47000400 0x47000C00 k ∨ addrIn 0x48000400 0x48000C00 k

/-- MEM and INSTANCE of a region are small numbers. -/
theorem regionOf_ids_lt {a m i : Nat} (h : (regionOf a).ids = some (m, i)) : m < 8 ∧ i < 256 := by
  unfold regionOf granaryEnd cellarBase cellarEnd hearthBase hearthSize bramBase bramSize at h
  dsimp only at h
  split_ifs at h <;> simp only [Region.ids, Option.some.injEq, Prod.mk.injEq, reduceCtorEq] at h <;> omega

theorem regionOf_barn_lt {a h : Nat} (e : regionOf a = .barn h) : h < 16 := by
  unfold regionOf at e
  dsimp only at e
  split_ifs at e <;> simp only [Region.barn.injEq, reduceCtorEq] at e
  omega

theorem regionOf_plot_lt {a h p : Nat} (e : regionOf a = .plot h p) : h < 16 := by
  unfold regionOf at e
  dsimp only at e
  split_ifs at e <;> simp only [Region.plot.injEq, reduceCtorEq] at e
  omega

theorem regionOf_imem_lt {a h p : Nat} (e : regionOf a = .imem h p) : 0x10000000 ≤ a ∧ a < 0x20000000 := by
  unfold regionOf at e
  dsimp only at e
  split_ifs at e <;> cases e
  assumption

section
variable {s t : State}

theorem WritesIn.add {P : Nat → Prop} (h : WritesIn P s t) {x : Fld} (hx : P x.key) (n : Nat) : WritesIn P s (t.add x n) := h.wr hx _

theorem memRegs_ecc {m i : Nat} (hm : m < 8) (hi : i < 256) : memRegs (R.ECC_CE m i).key ∧ memRegs (R.ECC_UE m i).key ∧ memRegs (R.ECC_POISON_READ m i).key := by
  simp only [memRegs, addrIn, Fld.key, R.ECC_CE, R.ECC_UE, R.ECC_POISON_READ]
  omega

theorem WritesIn.showLog (h : WritesIn memRegs s t) (l : List LogEntry) : WritesIn memRegs s (t.showLog l) := by
  have h0 : WritesIn memRegs s { t with ms := { t.ms with log := l } } := h.of_regs rfl
  have hk (w : Nat) (hw : w < 4) : memRegs (R.ECCLOG_HEAD w).key := by
    simp only [memRegs, addrIn, Fld.key, R.ECCLOG_HEAD]
    omega
  exact ((((h0.wr (hk 0 (by decide)) _).wr (hk 1 (by decide)) _).wr (hk 2 (by decide)) _).wr (hk 3 (by decide)) _).wr
    (.inr (.inl ⟨by decide, by decide⟩)) _

theorem WritesIn.enterLog (h : WritesIn memRegs s t) (e : LogEntry) : WritesIn memRegs s (t.enterLog e) := by
  unfold State.enterLog
  split_ifs
  · exact ((h.showLog _).irqIf _ _ _).of_regs rfl
  · exact h.incSat (.inr (.inl ⟨by decide, by decide⟩))
  · exact h.showLog _
  · exact h.incSat (.inr (.inl ⟨by decide, by decide⟩))

theorem WritesIn.logAt (h : WritesIn memRegs s t) (kind : Nat) (ids : Nat × Nat) (syn mid addr bit : Nat) :
    WritesIn memRegs s (t.logAt kind ids syn mid addr bit) := by
  unfold State.logAt State.logEvent
  split
  · split_ifs
    · exact h.showLog _
    · exact h.enterLog _
  · exact h.enterLog _

theorem WritesIn.countRead (h : WritesIn memRegs s t) {ids : Nat × Nat} (hm : ids.1 < 8 ∧ ids.2 < 256) (mid : Mid) (addr : Nat) (d : DWord) (c : Byte)
    (ue : Nat) : WritesIn memRegs s (t.countRead ids mid addr d c ue) := by
  obtain ⟨hce, hue, hpo⟩ := memRegs_ecc hm.1 hm.2
  unfold State.countRead
  split
  · exact h
  · exact (h.inc hce).logAt _ _ _ _ _ _
  · exact h.inc hpo
  · exact (h.inc hue).logAt _ _ _ _ _ _

theorem WritesIn.readWord (h : WritesIn memRegs s t) (mid : Mid) (a : Nat) : WritesIn memRegs s (t.readWord mid a).2 := by
  unfold State.readWord
  dsimp only
  split
  · next hids => exact h.countRead (regionOf_ids_lt hids) _ _ _ _ _
  · exact h

theorem WritesIn.rmwWord (h : WritesIn memRegs s t) (mid : Mid) (a : Nat) (en : Byte) (new : DWord) (mark : Bool) :
    WritesIn memRegs s (t.rmwWord mid a en new mark) := by
  unfold State.rmwWord
  dsimp only
  split
  · next hids => exact (h.countRead (regionOf_ids_lt hids) _ _ _ _ _).of_regs rfl
  · exact h.of_regs rfl

theorem WritesIn.writeWords (h : WritesIn memRegs s t) (a : Nat) (l : List PWord) : WritesIn memRegs s (t.writeWords a l) :=
  h.of_regs (State.writeWords_regs _ _ _)

theorem WritesIn.gleanRestore (h : WritesIn memRegs s t) {mem inst : Nat} (hm : mem < 8) (hi : inst < 256) (a : Nat) (w : DWord × Byte) :
    WritesIn memRegs s (t.gleanRestore mem inst a w) := by
  obtain ⟨hce, hue, -⟩ := memRegs_ecc hm hi
  have hset (m : Memory) : WritesIn memRegs s (t.setMem m) := h.of_regs rfl
  unfold State.gleanRestore
  dsimp only
  split
  · exact hset _
  · exact (((hset _).inc (.inr (.inr (.inl ⟨by decide, by decide⟩)))).inc hce).logAt _ _ _ _ _ _
  · exact (hset _).inc (.inr (.inr (.inl ⟨by decide, by decide⟩)))
  · exact (((hset _).inc (.inr (.inr (.inl ⟨by decide, by decide⟩)))).inc hue).logAt _ _ _ _ _ _

theorem WritesIn.gleanRestoreAll {mem inst : Nat} (hm : mem < 8) (hi : inst < 256) (r : Nat) (l : List (DWord × Byte)) (i : Nat)
    (h : WritesIn memRegs s t) : WritesIn memRegs s (t.gleanRestoreAll mem inst r i l) := by
  induction l generalizing t i with
  | nil => exact h
  | cons w l ih => exact ih (i + 1) (h.gleanRestore hm hi _ w)

theorem WritesIn.countWait (hw : WritesIn memRegs s t) (a : Nat) (mid : Mid) (wait : Nat) : WritesIn memRegs s (t.countWait a mid wait) := by
  have hmid := mid.isLt
  unfold State.countWait
  split
  · exact hw
  · split
    · refine (hw.inc ?_).add ?_ _ <;> (simp only [memRegs, addrIn, Fld.key, R.GRANARY_CONFLICT, R.GRANARY_WAIT]; omega)
    · refine (hw.inc ?_).add ?_ _ <;> (simp only [memRegs, addrIn, Fld.key, R.CELLAR_CONFLICT, R.CELLAR_WAIT]; omega)
    · next hb =>
      have := regionOf_barn_lt hb
      dsimp only
      refine (hw.inc ?_).add ?_ _ <;> (simp only [memRegs, addrIn, Fld.key, R.HAMLET_BARN_CONFLICT, R.HAMLET_BARN_WAIT]; split_ifs <;> omega)
    · next h p hp =>
      have := regionOf_plot_lt hp
      have := t.logicalOf_le h p
      refine (hw.inc ?_).add ?_ _ <;> (simp only [memRegs, addrIn, Fld.key, R.PLOT_EXT_CONFLICT, R.PLOT_EXT_WAIT]; omega)
    · exact hw

theorem WritesIn.setGleaner (h : WritesIn memRegs s t) (k : Nat) (g : Gleaner) : WritesIn memRegs s (t.setGleaner k g) := h.of_regs rfl

theorem WritesIn.gleanYield (h : WritesIn memRegs s t) {mem inst : Nat} (hm : mem < 8) (hi : inst < 256) (mid : Mid) :
    WritesIn memRegs s (t.gleanYield mem inst mid) := by
  unfold State.gleanYield
  dsimp only
  split
  · have hr : WritesIn memRegs s (if (t.ms.gleaners.get (gleanKey mem inst)).wrote then
        t.gleanRestoreAll mem inst (t.ms.gleaners.get (gleanKey mem inst)).region 0 (t.ms.gleaners.get (gleanKey mem inst)).saved else t) := by
      split
      · exact WritesIn.gleanRestoreAll hm hi _ _ _ h
      · exact h
    exact ((hr.setGleaner _ _).inc (.inr (.inr (.inl ⟨by decide, by decide⟩)))).countWait _ _ _
  · exact h

theorem WritesIn.gleanFinish (h : WritesIn memRegs s t) {mem inst : Nat} (hm : mem < 8) (hi : inst < 256) :
    WritesIn memRegs s (t.gleanFinish mem inst) := by
  unfold State.gleanFinish
  dsimp only
  have hr : WritesIn memRegs s (if (t.ms.gleaners.get (gleanKey mem inst)).wrote then
      t.gleanRestoreAll mem inst (t.ms.gleaners.get (gleanKey mem inst)).region 0 (t.ms.gleaners.get (gleanKey mem inst)).saved else t) := by
    split
    · exact WritesIn.gleanRestoreAll hm hi _ _ _ h
    · exact h
  exact (hr.inc (.inr (.inr (.inl ⟨by decide, by decide⟩)))).setGleaner _ _

theorem WritesIn.yieldFor (h : WritesIn memRegs s t) (a : Nat) (mid : Mid) : WritesIn memRegs s (t.yieldFor a mid) := by
  unfold State.yieldFor
  split
  · next hids =>
    obtain ⟨hm, hi⟩ := regionOf_ids_lt hids
    dsimp only
    split
    · split
      · exact h.gleanFinish hm hi
      · exact h.gleanYield hm hi mid
    · exact h
  · exact h

/-- The refusals that count in REJECT_COUNT are those of a hamlet's apertures. -/
theorem WritesIn.countRefusal (h : WritesIn memRegs s t) {a : Nat} {r : Answer} (hr : r.cause = 7 → a < 0x20000000) :
    WritesIn memRegs s (t.countRefusal a r) := by
  have hc : WritesIn memRegs s (match regionOf (t.storeAddr a) with
      | .granary _ => if r.status = AnsStatus.domainClosed then t.inc R.GRANARY_CLOSED_ACCESS else t
      | _ => t) := by
    split
    · split
      · exact h.inc (.inr (.inr (.inr (.inr (.inl ⟨by decide, by decide⟩)))))
      · exact h
    · exact h
  unfold State.countRefusal
  dsimp only
  split
  · next hcause =>
    have := hr hcause.1
    refine hc.incSat ?_
    simp only [memRegs, addrIn, Fld.key, R.HAMLET_IMEM_STATUS_REJECT_COUNT]
    omega
  · exact hc

theorem State.storeAddr_of_far {s : State} {a : Nat} (h : ¬(0x10000000 ≤ a ∧ a < 0x20000000)) : s.storeAddr a = a := if_neg h

theorem State.regionRefuse_cause {s : State} {r : Region} {x : Answer} (h : s.regionRefuse r = some x) : x.cause ≠ 7 := by
  unfold State.regionRefuse at h
  split at h
  all_goals (try split at h) <;> cases h <;> decide

theorem State.target_cause {s : State} {a : Nat} {r : Answer} (h : s.target a = .inl r) (hc : r.cause = 7) : a < 0x20000000 := by
  by_contra hfar
  have hno : ¬(0x10000000 ≤ a ∧ a < 0x20000000 ∧ 0x800000 ≤ a % 0x01000000 ∧ a % 0x01000000 < 0xC80000) := fun hin => hfar hin.2.1
  simp only [State.target, if_neg hno, Bool.false_eq_true, if_false] at h
  split at h
  · cases h
    exact absurd hc (by decide)
  · split at h
    · next hr =>
      cases h
      exact State.regionRefuse_cause hr hc
    · cases h

theorem State.target_inr {s : State} {a st : Nat} (h : s.target a = .inr st) : st = s.storeAddr a := by
  unfold State.target at h
  cases hr : s.regionRefuse (regionOf (s.storeAddr a)) with
  | some r =>
    simp only [hr] at h
    split_ifs at h
  | none =>
    simp only [hr] at h
    split_ifs at h
    all_goals exact (Sum.inr.inj h).symm

theorem State.writeRefused_cause {s : State} {a : Nat} {r : Answer} (h : s.writeRefused a = some r) : r.cause = 7 → a < 0x20000000 := by
  unfold State.writeRefused at h
  split at h
  · next ht =>
    cases h
    exact State.target_cause ht
  · next st ht =>
    split at h
    · next himem =>
      intro _
      by_cases hin : 0x10000000 ≤ a ∧ a < 0x20000000
      · exact hin.2
      · rw [State.target_inr ht, State.storeAddr_of_far hin] at himem
        exact (regionOf_imem_lt himem).2
    · cases h

theorem WritesIn.dmaWords (mid : Mid) (n : Nat) (a : Nat) (h : WritesIn memRegs s t) : WritesIn memRegs s (t.dmaWords mid a n).2 := by
  induction n generalizing t a with
  | zero => exact h
  | succ n ih =>
    rw [State.dmaWords]
    split
    · exact h
    · split
      · next ht => exact h.countRefusal (State.target_cause ht)
      · next st ht =>
        have hn := ih (a + 8) ((h.yieldFor st mid).readWord mid st)
        dsimp only
        split <;> next hd => (rw [hd] at hn; exact hn)

theorem WritesIn.dmaRead (h : WritesIn memRegs s t) (mid : Mid) (a n : Nat) : WritesIn memRegs s (t.dmaRead mid a n).2 := by
  have hn := h.dmaWords mid ((a + n + 7) / 8 - a / 8) (a / 8 * 8)
  unfold State.dmaRead
  split
  · exact h
  · split <;> next hd => (rw [hd] at hn; exact hn)

theorem WritesIn.dmaWord (h : WritesIn memRegs s t) (mid : Mid) (a o : Nat) (bs : List (Nat × Bool)) : WritesIn memRegs s (t.dmaWord mid a o bs) := by
  unfold State.dmaWord
  dsimp only
  split
  · exact (h.yieldFor _ _).writeWords _ _
  · exact (h.yieldFor _ _).rmwWord _ _ _ _ _

theorem WritesIn.dmaGo (mid : Mid) (f a : Nat) (bs : List (Nat × Bool)) (h : WritesIn memRegs s t) : WritesIn memRegs s (t.dmaGo mid f a bs).2 := by
  induction f generalizing t a bs with
  | zero => exact h
  | succ f ih =>
    rw [State.dmaGo]
    split
    · exact h
    · split
      · exact h
      · split
        · next hr => exact h.countRefusal (State.writeRefused_cause hr)
        · exact ih _ _ (h.dmaWord _ _ _ _)

theorem WritesIn.dmaWrite (h : WritesIn memRegs s t) (mid : Mid) (a : Nat) (bs : List (Nat × Bool)) : WritesIn memRegs s (t.dmaWrite mid a bs).2 :=
  h.dmaGo mid _ a bs

end

end Sys2Proof.Machine

/-! ## A Sieve channel's input, its bursts and their tokens, sweeps, and UP output (R292 to R294, R310 to R314) -/

namespace Sys2Proof.Machine

set_option Elab.async false

open Sys2Proof.Claims

/-! ### What a run makes of its channel's index -/

/-- The channel's next index and its mark of a gap are those of `r`. -/
def SameIndex (r r' : SvRun) : Prop := r'.ch.next = r.ch.next ∧ r'.ch.inGap = r.ch.inGap

section
variable {r r' : SvRun}

theorem SameIndex.put (h : SameIndex r r') (y : Int) : SameIndex r (r'.put y).2 := by
  unfold SvRun.put
  split_ifs <;> exact h

theorem SameIndex.put2 (h : SameIndex r r') (y : Int × Int) : SameIndex r (r'.put2 y).2 := (h.put y.1).put y.2

theorem SameIndex.final (h : SameIndex r r') (y : Int) : SameIndex r (r'.final y).2 := by
  unfold SvRun.final
  split_ifs <;> exact h

theorem SameIndex.final2 (h : SameIndex r r') (y : Int × Int) : SameIndex r (r'.final2 y).2 := (h.final y.1).final y.2

theorem SameIndex.pre (h : SameIndex r r') (c : SvCfg) (n : Nat) : SameIndex r (SvRun.pre c r' n) := by
  unfold SvRun.pre
  dsimp only
  split_ifs <;> exact h

theorem SameIndex.request (h : SameIndex r r') (bank log2 : Nat) (start : Int) : SameIndex r (r'.request bank log2 start) := by
  unfold SvRun.request
  dsimp only
  split
  · exact h
  · split_ifs <;> exact h

theorem SameIndex.fadeEnd (h : SameIndex r r') (start : Int) : SameIndex r (r'.fadeEnd start) := by
  unfold SvRun.fadeEnd
  split
  · split
    · dsimp only
      split
      · exact SameIndex.request (r' := { r' with ch := { r'.ch with active := _, fade := _, pend := none } }) h _ _ _
      · exact h
    · exact h
  · exact h

theorem SameIndex.firOut (h : SameIndex r r') (c : SvCfg) (n : Nat) : SameIndex r (r'.firOut c n).2 := by
  unfold SvRun.firOut
  dsimp only
  generalize hf : r'.fadeEnd ((c.f0 * (c.spf : Int) + (n : Int) * 10000000) * 65536 / (c.spf : Int)) = x
  have hx : SameIndex r x := hf ▸ h.fadeEnd _
  split
  · exact hx.put2 _
  · split
    · exact hx.put2 _
    · exact (hx.put2 _).put2 _

theorem SameIndex.fracOut (h : SameIndex r r') : SameIndex r r'.fracOut.2 := h.put2 _

theorem SameIndex.delay (h : SameIndex r r') (c : SvCfg) (n int frac : Nat) : SameIndex r (SvRun.delay c r' n int frac) := by
  unfold SvRun.delay
  split
  · split_ifs <;> exact h
  · exact h

theorem SameIndex.stages (c : SvCfg) (n f : Nat) (u : Int × Int) (h : SameIndex r r') : SameIndex r (SvRun.stages c n f r' u).2 := by
  induction f generalizing r' u with
  | zero => exact h
  | succ f ih =>
    unfold SvRun.stages
    dsimp only
    have hl (x : List (List (Int × Int))) : SameIndex r { r' with ch := { r'.ch with hist := x } } := h
    split_ifs
    · exact hl _
    · exact ih _ (hl _)
    · exact ih _ ((hl _).put2 _)

theorem SameIndex.emit (h : SameIndex r r') (c : SvCfg) (k : Nat) (y : Int × Int) (bad : Bool) : SameIndex r (r'.emit c k y bad) := by
  unfold SvRun.emit
  dsimp only
  split <;> exact h

/-- After an index the next one is due. -/
theorem SameIndex.post (h : SameIndex r r') (c : SvCfg) : (r'.post c).ch.next = r.ch.next + 1 ∧ (r'.post c).ch.inGap = r.ch.inGap := by
  obtain ⟨hn, hg⟩ := h
  unfold SvRun.post SieveCh.enterGuard
  dsimp only
  rw [← hn, ← hg]
  split_ifs <;> exact ⟨rfl, rfl⟩

end

theorem SvRun.down_index (c : SvCfg) (int frac : Nat) (r : SvRun) (x : Int × Int) (bad : Bool) :
    (SvRun.down c int frac r x bad).ch.next = r.ch.next + 1 ∧ (SvRun.down c int frac r x bad).ch.inGap = r.ch.inGap := by
  have h0 : SameIndex r r := ⟨rfl, rfl⟩
  have h1 : SameIndex r (if bad && !c.test then { SvRun.pre c r r.ch.next with ch := { (SvRun.pre c r r.ch.next).ch with plast := some r.ch.next } }
      else SvRun.pre c r r.ch.next) := by
    split <;> exact h0.pre c _
  unfold SvRun.down
  dsimp only
  generalize (if bad && !c.test then { SvRun.pre c r r.ch.next with ch := { (SvRun.pre c r r.ch.next).ch with plast := some r.ch.next } }
      else SvRun.pre c r r.ch.next) = r1 at h1 ⊢
  have h2 := h1.stages c r.ch.next 5 (if c.test then c.testV else c.mix r1.ch r.ch.next (if bad then (0, 0) else x))
  generalize SvRun.stages c r.ch.next 5 r1 (if c.test then c.testV else c.mix r1.ch r.ch.next (if bad then (0, 0) else x)) = st at h2 ⊢
  have hfir (l : List (Int × Int)) : SameIndex r { st.2 with ch := { st.2.ch with fir := l } } := h2
  have hfrh {y : SvRun} (hy : SameIndex r y) (l : List (Int × Int)) : SameIndex r { y with ch := { y.ch with frh := l } } := hy
  split
  · exact h2.post c
  · exact ((((hfrh (((hfir _).delay c r.ch.next int frac).firOut c r.ch.next) _).fracOut).final2 _).emit c _ _ _).post c

/-- Samples taken one after another move the index by their number. -/
theorem downs_index (c : SvCfg) (int frac : Nat) (l : List Sample) (r : SvRun) :
    (l.foldl (fun r v => SvRun.down c int frac r (v.re.toInt, v.im.toInt) v.bad) r).ch.next = r.ch.next + l.length ∧
    (l.foldl (fun r v => SvRun.down c int frac r (v.re.toInt, v.im.toInt) v.bad) r).ch.inGap = r.ch.inGap := by
  induction l generalizing r with
  | nil => exact ⟨rfl, rfl⟩
  | cons v l ih =>
    obtain ⟨hn, hg⟩ := ih (SvRun.down c int frac r (v.re.toInt, v.im.toInt) v.bad)
    obtain ⟨hn1, hg1⟩ := SvRun.down_index c int frac r (v.re.toInt, v.im.toInt) v.bad
    refine ⟨?_, hg.trans hg1⟩
    rw [List.foldl_cons, hn, hn1, List.length_cons]
    omega

end Sys2Proof.Machine

namespace Sys2Proof.Machine

set_option Elab.async false

open Sys2Proof.Claims

/-! ### A channel's registers -/

theorem WritesIn.of_sameRegs {P : Nat → Prop} {s t : State} {l : List Fld} (h : sameRegs s t l) (hl : ∀ x ∈ l, P x.key) : WritesIn P s t :=
  fun f hf => h f fun x hx he => hf (he ▸ hl x hx)

/-- The registers that a run of channel `c` shows and counts in. -/
def runRegs (c k : Nat) : Prop := addrIn (0x4E100044 + c * 0x100) (0x4E100058 + c * 0x100) k ∨ addrIn (0x4E100064 + c * 0x100) (0x4E10006C + c * 0x100) k

theorem State.showChan_writes (s : State) (c : Nat) : WritesIn (runRegs c) s (s.showChan c) := by
  refine .of_sameRegs (s.showChan_same c) ?_
  simp only [chanShown, List.mem_cons, List.not_mem_nil, or_false, forall_eq_or_imp, forall_eq, runRegs, addrIn, Fld.key, R.SIEVE_CH_STATUS_MODE,
    R.SIEVE_CH_STATUS_ACTIVE_BANK, R.SIEVE_CH_STATUS_FADING, R.SIEVE_CH_STATUS_SWAP_PENDING, R.SIEVE_CH_STATUS_PENDING_BANK,
    R.SIEVE_CH_STATUS_DELAY_PENDING, R.SIEVE_CH_STATUS_GUARD_LEFT, R.SIEVE_CH_COUNT, R.SIEVE_CH_SUPPORT]
  omega

theorem WritesIn.showChan {c : Nat} {s t : State} (h : WritesIn (runRegs c) s t) : WritesIn (runRegs c) s (t.showChan c) := h.trans (t.showChan_writes c)

theorem WritesIn.setChan {P : Nat → Prop} {s t : State} (h : WritesIn P s t) (c : Nat) (x : SieveCh) : WritesIn P s (t.setChan c x) := h.of_regs rfl

theorem WritesIn.onChan {c : Nat} {s t : State} (h : WritesIn (runRegs c) s t) (f : SieveCh → SieveCh) : WritesIn (runRegs c) s (t.onChan c f) :=
  (h.setChan c _).showChan

theorem WritesIn.addSat {P : Nat → Prop} {s t : State} (h : WritesIn P s t) {x : Fld} (hx : P x.key) (n : Nat) : WritesIn P s (t.addSat x n) := h.wr hx _

theorem WritesIn.ite {P : Nat → Prop} {s t u : State} {p : Prop} [Decidable p] (ht : WritesIn P s t) (hu : WritesIn P s u) :
    WritesIn P s (if p then t else u) := by
  split
  · exact ht
  · exact hu

theorem WritesIn.endRun {c : Nat} {s t : State} (h : WritesIn (runRegs c) s t) (r : SvRun) : WritesIn (runRegs c) s (t.endRun c r) := by
  have hk : runRegs c (R.SIEVE_CH_SAT_COUNT c).key ∧ runRegs c (R.SIEVE_CH_WRAP_COUNT c).key ∧ runRegs c (R.SIEVE_CH_SWAP_COUNTS_NOOP c).key ∧
      runRegs c (R.SIEVE_CH_SWAP_COUNTS_OVERWRITE c).key ∧ runRegs c (R.SIEVE_CH_STATUS_GUARD_SAT c).key ∧ runRegs c (R.SIEVE_CH_POISON c).key ∧
      runRegs c (R.SIEVE_CH_STATUS_WRAPPED c).key := by
    simp only [runRegs, addrIn, Fld.key, R.SIEVE_CH_SAT_COUNT, R.SIEVE_CH_WRAP_COUNT, R.SIEVE_CH_SWAP_COUNTS_NOOP,
      R.SIEVE_CH_SWAP_COUNTS_OVERWRITE, R.SIEVE_CH_STATUS_GUARD_SAT, R.SIEVE_CH_POISON, R.SIEVE_CH_STATUS_WRAPPED]
    omega
  obtain ⟨hsat, hwrap, hnoop, hover, hguard, hpoison, hwrapped⟩ := hk
  have h1 := ((((h.setChan c r.ch).addSat hsat r.sat).addSat hwrap r.wrap).addSat hnoop r.noop).addSat hover r.replaced
  have h2 := (WritesIn.ite (p := r.guardSat = true) (h1.wr hguard 1) h1).add hpoison r.poison
  exact (WritesIn.ite (h2.wr hwrapped 1) h2).showChan

theorem WritesIn.svTake {c : Nat} {s t : State} (h : WritesIn (runRegs c) s t) (x : List Sample) : WritesIn (runRegs c) s (t.svTake c x) := h.endRun _

/-! ### Gaps and samples -/

theorem State.svTake_chan (s : State) (c : Nat) (x : List Sample) :
    ((s.svTake c x).chan c).next = (s.chan c).next + x.length ∧ ((s.svTake c x).chan c).inGap = (s.chan c).inGap := by
  have hd := downs_index (s.svCfg c) (s.rd (R.SIEVE_CH_DELAY_INT c)) (s.rd (R.SIEVE_CH_DELAY_FRAC c)) x { ch := s.chan c }
  rw [State.svTake, State.onRun, (s.endRun_chan c _).1]
  exact hd

theorem State.svDisc_chan (s : State) (c : Nat) : ((s.svDisc c).chan c).next = (s.chan c).next ∧
    (s.svDisc c).rd (R.SIEVE_CH_DISC_COUNT c) = min (s.rd (R.SIEVE_CH_DISC_COUNT c) + 1) (2 ^ 32 - 1) := by
  constructor
  · rw [State.svDisc, State.onChan_chan, State.chan_congr (State.incSat_sv _ _)]
    rfl
  · rw [State.svDisc, (WritesIn.refl (runRegs c) _).onChan _ _ (by simp only [runRegs, addrIn, Fld.key, R.SIEVE_CH_DISC_COUNT]; omega),
      State.incSat, State.addSat, State.wr_rd_same]
    exact Nat.mod_eq_of_lt (lt_of_le_of_lt (Nat.min_le_right _ _) (by simp [R.SIEVE_CH_DISC_COUNT]))

theorem State.svGap_chan {s : State} {c : Nat} (h : (s.chan c).inGap = false) : ((s.svGap c).chan c).next = (s.chan c).next ∧
    (s.svGap c).rd (R.SIEVE_CH_DISC_COUNT c) = min (s.rd (R.SIEVE_CH_DISC_COUNT c) + 1) (2 ^ 32 - 1) := by
  obtain ⟨hn, hd⟩ := s.svDisc_chan c
  rw [State.svGap, if_neg (by simp [h])]
  refine ⟨by rw [State.onChan_chan, hn], ?_⟩
  rw [(WritesIn.refl (runRegs c) _).onChan _ _ (by simp only [runRegs, addrIn, Fld.key, R.SIEVE_CH_DISC_COUNT]; omega), hd]

theorem State.svGap_next (s : State) (c : Nat) : ((s.svGap c).chan c).next = (s.chan c).next := by
  unfold State.svGap
  split
  · rfl
  · rw [State.onChan_chan, (s.svDisc_chan c).1]

theorem State.svCatch_of_not_overdue {s : State} {c : Nat} (h : overdue s c ≤ (s.chan c).next) : s.svCatch c = s := by
  unfold State.svCatch
  exact if_neg (not_lt.mpr h)

theorem State.svTake_ms (s : State) (c : Nat) (x : List Sample) : (s.svTake c x).ms = s.ms :=
  (keeps_svTake (.refl partsButMs s) (by decide) (by decide) c x).same_ms

theorem State.svCatch_ms (s : State) (c : Nat) : (s.svCatch c).ms = s.ms :=
  (keeps_svCatch (.refl partsButMs s) (by decide) (by decide) c).same_ms

end Sys2Proof.Machine

namespace Sys2Proof.Claims

set_option Elab.async false

open Sys2Proof.Machine

theorem sieveBlockArrival_unplanned : ∀ (s : State) (k : Fin 3) (p : Fin 64) (c f : Fin 1024) (n : Nat) (x : List Sample),
    (s.svDown c = false ∨ s.rd (R.SIEVE_CH_MODE_PORT_KIND c) ≠ k ∨ s.rd (R.SIEVE_CH_MODE_PORT c) ≠ p) →
    exec (.sieveBlockArrival k p c f n x) s = .next (s.inc R.SIEVE_DROP_UNPLANNED) := by
  intro s k p c f n x h
  refine if_pos ?_
  rcases h with h | h | h
  · exact .inl (by simp [h])
  · exact .inr (.inl h)
  · exact .inr (.inr h)

/-- A block of a channel's own port, where no sample is overdue. -/
theorem execSieveBlockArrival_eq {s : State} {k : Fin 3} {p : Fin 64} {c f : Fin 1024} {n : Nat} {x : List Sample} (hdown : s.svDown c = true)
    (hk : s.rd (R.SIEVE_CH_MODE_PORT_KIND c) = k) (hp : s.rd (R.SIEVE_CH_MODE_PORT c) = p) (hdue : overdue s c ≤ (s.chan c).next)
    (hlate : ((s.chan c).next : Int) < s.svIndex c f n + x.length) (hnext : ((s.chan c).next : Int) ≤ s.svIndex c f n) :
    execSieveBlockArrival k p c f n x s = .next (((if ((s.chan c).next : Int) < s.svIndex c f n then
      (s.svGap c).svTake c (List.replicate (s.svIndex c f n - (s.chan c).next).toNat ⟨0, 0, false⟩) else s).onChan c
        (fun h => { h with inGap := false })).svTake c x) := by
  have hzero : (((s.chan c).next : Int) - s.svIndex c f n).toNat = 0 := by omega
  unfold execSieveBlockArrival
  dsimp only
  rw [if_neg (by simp [hdown, hk, hp]), State.svCatch_of_not_overdue hdue, if_neg (not_le.mpr hlate), if_neg (not_lt.mpr hnext), hzero, List.drop_zero]

theorem sieveBlockArrival_inOrder : ∀ (s : State) (k : Fin 3) (p : Fin 64) (c f : Fin 1024) (n : Nat) (x : List Sample), s.svDown c = true →
    s.rd (R.SIEVE_CH_MODE_PORT_KIND c) = k → s.rd (R.SIEVE_CH_MODE_PORT c) = p → overdue s c ≤ (s.chan c).next →
    s.svIndex c f n = (s.chan c).next → x ≠ [] → ∃ t, exec (.sieveBlockArrival k p c f n x) s = .next t ∧
      (t.chan c).next = (s.chan c).next + x.length ∧ (t.chan c).inGap = false ∧
      t.rd (R.SIEVE_CH_DISC_COUNT c) = s.rd (R.SIEVE_CH_DISC_COUNT c) ∧ t.ms = s.ms := by
  intro s k p c f n x hdown hk hp hdue hidx hx
  have hpos := List.length_pos_of_ne_nil hx
  refine ⟨_, execSieveBlockArrival_eq hdown hk hp hdue (by omega) (by omega), ?_⟩
  rw [if_neg (by omega)]
  obtain ⟨hn, hg⟩ := (s.onChan c (fun h => { h with inGap := false })).svTake_chan c x
  rw [State.onChan_chan] at hn hg
  exact ⟨hn, hg, ((WritesIn.refl (runRegs c) s).onChan _).svTake x _ (by simp only [runRegs, addrIn, Fld.key, R.SIEVE_CH_DISC_COUNT]; omega),
    (State.svTake_ms _ _ _).trans (State.onChan_ms _ _ _)⟩

theorem sieveBlockArrival_gap : ∀ (s : State) (k : Fin 3) (p : Fin 64) (c f : Fin 1024) (n : Nat) (x : List Sample), s.svDown c = true →
    s.rd (R.SIEVE_CH_MODE_PORT_KIND c) = k → s.rd (R.SIEVE_CH_MODE_PORT c) = p → overdue s c ≤ (s.chan c).next →
    (s.chan c).inGap = false → ((s.chan c).next : Int) < s.svIndex c f n → ∃ t, exec (.sieveBlockArrival k p c f n x) s = .next t ∧
      ((t.chan c).next : Int) = s.svIndex c f n + x.length ∧
      t.rd (R.SIEVE_CH_DISC_COUNT c) = min (s.rd (R.SIEVE_CH_DISC_COUNT c) + 1) (2 ^ 32 - 1) := by
  intro s k p c f n x hdown hk hp hdue hgap hidx
  refine ⟨_, execSieveBlockArrival_eq hdown hk hp hdue (by omega) hidx.le, ?_⟩
  rw [if_pos hidx]
  obtain ⟨hn0, hd0⟩ := State.svGap_chan hgap
  obtain ⟨hn1, -⟩ := (s.svGap c).svTake_chan c (List.replicate (s.svIndex c f n - (s.chan c).next).toNat ⟨0, 0, false⟩)
  have hdisc := (WritesIn.refl (runRegs c) (s.svGap c)).svTake (List.replicate (s.svIndex c f n - (s.chan c).next).toNat ⟨0, 0, false⟩)
  generalize (s.svGap c).svTake c (List.replicate (s.svIndex c f n - (s.chan c).next).toNat ⟨0, 0, false⟩) = u at hn1 hdisc
  obtain ⟨hn, -⟩ := (u.onChan c (fun h => { h with inGap := false })).svTake_chan c x
  rw [State.onChan_chan] at hn
  rw [List.length_replicate] at hn1
  refine ⟨?_, ?_⟩
  · rw [hn, hn1, hn0]
    omega
  · rw [← hd0]
    exact ((hdisc.onChan _).svTake x) _ (by simp only [runRegs, addrIn, Fld.key, R.SIEVE_CH_DISC_COUNT]; omega)

theorem sieveInputTimeout_zeros : ∀ (s : State) (c : Fin 1024), s.svDown c = true → ∃ t, exec (.sieveInputTimeout c) s = .next t ∧
    (t.chan c).next = max (s.chan c).next (overdue s c) ∧ t.ms = s.ms := by
  intro s c hdown
  refine ⟨_, congrArg Host.Outcome.next (if_pos hdown), ?_, State.svCatch_ms _ _⟩
  by_cases hdue : overdue s c ≤ (s.chan c).next
  · rw [State.svCatch_of_not_overdue hdue, max_eq_left hdue]
  · have hcatch : s.svCatch c = (s.svGap c).svTake c (List.replicate (overdue s c - (s.chan c).next) ⟨0, 0, false⟩) := if_pos (not_le.mp hdue)
    rw [hcatch, ((s.svGap c).svTake_chan c _).1, State.svGap_next, List.length_replicate]
    omega

end Sys2Proof.Claims

namespace Sys2Proof.Machine

set_option Elab.async false

open Sys2Proof.Claims

/-! ### Bursts -/

theorem State.sendToken_sv (s : State) (b : Bool) (x : Token) : (s.sendToken b x).sv = s.sv :=
  (keeps_sendToken (.refl (partsBut .sv) s) (by decide) (by decide) (by decide) (by decide) (by decide) b x).same_of_but

theorem State.sendToken_tokens (s : State) (b : Bool) (x : Token) : (s.sendToken b x).reeve.tokens = s.reeve.tokens ++ [x] := by
  show (s.decrIssue b).reeve.tokens ++ [x] = _
  rw [State.decrIssue, State.ledgerAt_reeve]

theorem State.sendToken_regs (s : State) (b : Bool) (x : Token) : (s.sendToken b x).regs = (s.decrIssue b).regs := by
  simp only [State.sendToken]

theorem State.decrIssue_writes (s : State) (b : Bool) : WritesIn slotAddrs s (s.decrIssue b) := State.ledgerAt_writes s (by decide) _ _ _

theorem WritesIn.sendToken {s t : State} (h : WritesIn slotAddrs s t) (b : Bool) (x : Token) : WritesIn slotAddrs s (t.sendToken b x) :=
  (h.trans (State.decrIssue_writes t b)).of_regs (State.sendToken_regs t b x)

theorem State.burstDone_bursts (s : State) (c k0 : Nat) (ok : Bool) : ((s.burstDone c k0 ok).chan c).bursts = (s.chan c).bursts := by
  unfold State.burstDone
  dsimp only
  split
  · rfl
  · split
    · rw [State.chan_congr (State.sendToken_sv _ _ _), State.setChan_chan]
    · rw [State.setChan_chan]

theorem WritesIn.burstDone {s t : State} (h : WritesIn slotAddrs s t) (c k0 : Nat) (ok : Bool) : WritesIn slotAddrs s (t.burstDone c k0 ok) := by
  unfold State.burstDone
  dsimp only
  split
  · exact h
  · split
    · exact (h.setChan _ _).sendToken _ _
    · exact h.setChan _ _

/-- A burst written, of a notify group of its own: the group's token goes out. -/
theorem State.burstDone_token {s : State} {c : Nat} (hen : s.bit (R.SIEVE_CH_NOTIFY_EN c) = true) (hdiv : s.rd (R.SIEVE_CH_NOTIFY_DIV_M1 c) = 0)
    (hmiss : (s.chan c).missed = []) (k0 : Nat) :
    s.burstDone c k0 true = (s.setChan c { s.chan c with missed := [] }).sendToken false ⟨windowName (s.chanGroup c) (slotTag (s.svSlot c k0))
      ((s.rd (R.SIEVE_CH_NOTIFY_BASE c) + k0 % s.perSlot c / (s.svCfg c).bl) % 4096), false, 0xFFFF⟩ := by
  simp only [State.burstDone, hen, hdiv, hmiss, Nat.zero_add, Nat.mod_one, Nat.div_one, Bool.true_or, Bool.not_true, Bool.false_eq_true, if_true,
    if_false, List.contains_nil, List.filter_nil]

theorem State.setChan_reeve (s : State) (c : Nat) (h : SieveCh) : (s.setChan c h).reeve = s.reeve := rfl

theorem State.burstDone_ms (s : State) (c k0 : Nat) (ok : Bool) : (s.burstDone c k0 ok).ms = s.ms :=
  (keeps_burstDone (.refl partsButMs s) (by decide) (by decide) (by decide) (by decide) (by decide) (by decide) c k0 ok).same_ms

theorem State.dropBurst_bursts (s : State) (c i : Nat) : ((s.dropBurst c i).chan c).bursts = (s.chan c).bursts.eraseIdx i := by
  rw [State.dropBurst, State.setChan_chan]

theorem State.dropBurst_rd (s : State) (c i : Nat) (f : Fld) : (s.dropBurst c i).rd f = s.rd f := State.rd_congr rfl f
theorem State.dropBurst_ms (s : State) (c i : Nat) : (s.dropBurst c i).ms = s.ms := rfl

/-- A burst that is taken out and counted in `f`. -/
theorem State.counted_burst (s : State) (c i k0 : Nat) (ok : Bool) {f : Fld} (hf : ¬ slotAddrs f.key) :
    ((((s.dropBurst c i).inc f).burstDone c k0 ok).chan c).bursts = (s.chan c).bursts.eraseIdx i ∧
    (((s.dropBurst c i).inc f).burstDone c k0 ok).rd f = (s.rd f + 1) % 2 ^ f.w ∧ (((s.dropBurst c i).inc f).burstDone c k0 ok).ms = s.ms := by
  refine ⟨?_, ?_, ?_⟩
  · rw [State.burstDone_bursts, State.chan_congr (State.inc_sv _ _), State.dropBurst_bursts]
  · rw [(WritesIn.refl slotAddrs _).burstDone c k0 ok f hf, State.inc_rd_same, State.dropBurst_rd]
  · rw [State.burstDone_ms, State.inc_ms, State.dropBurst_ms]

/-- The registers of a channel lie apart from those that show the Reeve's slots. -/
theorem not_slotAddrs_of_sieve {k : Nat} (h : 0x4E000000 * 64 ≤ k) (h' : k < 0x4F000000 * 64) : ¬ slotAddrs k := by
  simp only [slotAddrs, addrIn, Fld.key, R.REEVE_STATUS_REPORT_HELD, R.TALLY_STATUS_FAULT, R.TALLY_FAULT_LAST_ID, R.TALLY_FAULT_COUNT_COUNT]
  omega

/-- What a channel's settings and its place in its group's slots depend on. -/
theorem State.svCfg_congr {s t : State} {c : Nat} (h : ∀ f : Fld, f.key ≠ (R.SIEVE_CH_BURSTS c).key → t.rd f = s.rd f)
    (hf0 : (t.chan c).f0 = (s.chan c).f0) : t.svCfg c = s.svCfg c := by
  simp (disch := (simp only [Fld.key, R.SIEVE_CH_BURSTS, R.SIEVE_CH_RATE_SPF, R.SIEVE_CH_STAGE01_M1_M1, R.SIEVE_CH_STAGE01_M2_M1, R.SIEVE_CH_STAGE23_M3_M1, R.SIEVE_CH_STAGE23_M4_M1,
    R.SIEVE_CH_STAGE5_M5_M1, R.SIEVE_CH_COEF, R.SIEVE_CH_TEST, R.SIEVE_CH_STAGE01_L1_M1, R.SIEVE_CH_STAGE01_L2_M1, R.SIEVE_CH_STAGE23_L3_M1,
    R.SIEVE_CH_STAGE23_L4_M1, R.SIEVE_CH_STAGE5_L5_M1, R.SIEVE_CH_STAGE01_SH1, R.SIEVE_CH_STAGE01_SH2, R.SIEVE_CH_STAGE23_SH3,
    R.SIEVE_CH_STAGE23_SH4, R.SIEVE_CH_STAGE5_SH5, R.SIEVE_CH_FIR_TAPS_M1, R.SIEVE_CH_FIR_FIR_SH, R.SIEVE_CH_FIR_OUT_SH,
    R.SIEVE_CH_NCO_FREQ, R.SIEVE_CH_NCO_PHASE, R.SIEVE_CH_MODE_NCO_FRAME, R.SIEVE_CH_GUARD_AUTO, R.SIEVE_CH_GUARD_GUARD_ON_WRAP,
    R.SIEVE_CH_GUARD_TEST, R.SIEVE_CH_GUARD_GUARD_EXTRA, R.SIEVE_CH_BURST_BURST_U]; omega)) only [State.svCfg, State.bit_eq, h, hf0]

theorem State.svSlot_congr {s t : State} {c : Nat} (h : ∀ f : Fld, f.key ≠ (R.SIEVE_CH_BURSTS c).key → t.rd f = s.rd f)
    (hf0 : (t.chan c).f0 = (s.chan c).f0) (k : Nat) : t.perSlot c = s.perSlot c ∧ t.svSlot c k = s.svSlot c k := by
  have hcfg := State.svCfg_congr h hf0
  have hgrp : t.chanGroup c = s.chanGroup c := h (R.SIEVE_CH_MODE_LOCK_GROUP c) (by simp only [Fld.key, R.SIEVE_CH_MODE_LOCK_GROUP, R.SIEVE_CH_BURSTS, ne_eq]; omega)
  have hlt : s.chanGroup c < 2 ^ 6 := State.rd_lt s (R.SIEVE_CH_MODE_LOCK_GROUP c)
  have hmu : t.rd (R.LG_CFG_MU (s.chanGroup c)) = s.rd (R.LG_CFG_MU (s.chanGroup c)) := h _ (by simp only [Fld.key, R.LG_CFG_MU, R.SIEVE_CH_BURSTS, ne_eq]; omega)
  have hoff : t.rd (R.LG_OFFSET_FRAME_OFFSET_NS (s.chanGroup c)) = s.rd (R.LG_OFFSET_FRAME_OFFSET_NS (s.chanGroup c)) :=
    h _ (by simp only [Fld.key, R.LG_OFFSET_FRAME_OFFSET_NS, R.SIEVE_CH_BURSTS, ne_eq]; omega)
  have hper : t.perSlot c = s.perSlot c := by simp only [State.perSlot, State.slotsPerFrame, hcfg, hgrp, hmu]
  refine ⟨hper, ?_⟩
  simp only [State.svSlot, State.groupBase, State.slotNs, hgrp, hmu, hoff, hper, hf0]

theorem State.ringWrite_sv (s : State) (c p : Nat) (l : List (Int × Int × Bool)) : (s.ringWrite c p l).2.sv = s.sv :=
  (keeps_ringWrite (.refl (partsBut .sv) s) (by decide) (by decide) (by decide) (by decide) (by decide) c p l).same_of_but

/-- A swept channel whose one burst waits for the window. -/
theorem State.sweepChan_one {s : State} {c tag : Nat} {b : SvBurst} (hb : (s.chan c).bursts = [b]) (hst : b.started = false)
    (htag : slotTag (s.svSlot c b.k0) = tag) : s.sweepChan c tag 1 = ((s.dropBurst c 0).inc R.SIEVE_SWEEP_DROPPED).burstDone c b.k0 false := by
  simp only [State.sweepChan, hb, List.findIdx?_cons, hst, htag, Bool.not_false, decide_true, Bool.and_self, if_true, State.burstSkip,
    List.getElem?_cons_zero, Bool.false_eq_true, if_false]

/-! ### UP output -/

/-- The registers that UP output writes: the memory's, and those of the channel's run and its gaps. -/
def upRegs (c k : Nat) : Prop := memRegs k ∨ runRegs c k ∨ k = (R.SIEVE_CH_DISC_COUNT c).key

/-- From `s` to `t` nothing is handed to the sink, and only registers of UP output are written. -/
def UpKeeps (c : Nat) (s t : State) : Prop := t.sv.out = s.sv.out ∧ WritesIn (upRegs c) s t

theorem UpKeeps.refl (c : Nat) (s : State) : UpKeeps c s s := ⟨rfl, .refl _ s⟩

theorem UpKeeps.trans {c : Nat} {s t u : State} (h : UpKeeps c s t) (k : UpKeeps c t u) : UpKeeps c s u := ⟨k.1.trans h.1, h.2.trans k.2⟩

theorem State.endRun_up (s : State) (c : Nat) (r : SvRun) : UpKeeps c s (s.endRun c r) := by
  refine ⟨?_, ((WritesIn.refl (runRegs c) s).endRun r).mono fun _ h => .inr (.inl h)⟩
  unfold State.endRun
  dsimp only
  rw [State.showChan_sv]
  split_ifs <;> simp only [State.wr_sv, State.add_sv, State.addSat_sv] <;> rfl

theorem State.svDisc_up (s : State) (c : Nat) : UpKeeps c s (s.svDisc c) := by
  refine ⟨?_, ?_⟩
  · rw [State.svDisc, State.onChan, State.showChan_sv]
    show (s.incSat _).sv.out = _
    rw [State.incSat_sv]
  · exact ((WritesIn.refl (upRegs c) s).incSat (.inr (.inr rfl))).trans
      (((WritesIn.refl (runRegs c) _).onChan _).mono fun _ h => .inr (.inl h))

theorem State.ringRead_up (s : State) (c k : Nat) : UpKeeps c s (s.ringRead c k).2 := by
  refine ⟨congrArg Sieve.out (keeps_ringRead (.refl (partsBut .sv) s) (by decide) (by decide) (by decide) (by decide) (by decide) c k).same_of_but, ?_⟩
  refine WritesIn.mono (P := memRegs) ?_ fun _ => .inl
  unfold State.ringRead
  dsimp only
  split
  · exact .refl _ s
  · have hr := (WritesIn.refl memRegs s).dmaRead sieveMid (s.rd (R.SIEVE_CH_RING_BASE_ADDR c) * 64 +
      4 * ((k + s.rd (R.SIEVE_CH_RING_LEN_LEN c) * 4096 - (s.chan c).int) % s.rd (R.SIEVE_CH_RING_LEN_LEN c))) 4
    split <;> next hd => (rw [hd] at hr; exact hr)

theorem State.upLow_up (s : State) (c : Nat) : UpKeeps c s (s.upLow c).2 := by
  have hread (f : SvCfg → SvRun → SvRun) (k : Nat) : UpKeeps c s ((s.onRun c f).ringRead c k).2 := (s.endRun_up c _).trans (State.ringRead_up _ c k)
  unfold State.upLow
  dsimp only
  refine UpKeeps.trans ?_ (State.endRun_up _ c _)
  split
  · exact hread _ _
  · exact (hread _ _).trans (State.svDisc_up _ c)

theorem State.upLows_up (s : State) (c n : Nat) : UpKeeps c s (s.upLows c n).2 := by
  induction n with
  | zero => exact .refl c s
  | succ n ih => exact ih.trans (State.upLow_up _ c)

end Sys2Proof.Machine

namespace Sys2Proof.Claims

set_option Elab.async false

open Sys2Proof.Machine

theorem sieveBurstWrite_writes : ∀ (s : State) (c : Fin 1024) (i : Nat) (b : SvBurst), s.waitingBurst c = some i → (s.chan c).bursts[i]? = some b →
    passed s.tick (s.burstDeadline c b) = false → s.reached (s.sweepNs (s.chanGroup c) (s.svSlot c b.k0)) = false →
    ∃ t bad, exec (.sieveBurstWrite c) s = .next t ∧ (t.chan c).bursts = (s.chan c).bursts.set i { b with started := true, failed := bad } ∧
      t.ms = (s.ringWrite c ((b.k0 + b.int) % s.rd (R.SIEVE_CH_RING_LEN_LEN c)) b.data).2.ms := by
  intro s c i b hi hb hlate hswept
  show ∃ t bad, execSieveBurstWrite c s = .next t ∧ _
  simp only [execSieveBurstWrite, hi, hb, hlate, hswept, Bool.false_eq_true, if_false]
  refine ⟨_, !(s.ringWrite c ((b.k0 + b.int) % s.rd (R.SIEVE_CH_RING_LEN_LEN c)) b.data).1, rfl, ?_, State.onChan_ms _ _ _⟩
  rw [State.onChan_chan, State.chan_congr (State.ringWrite_sv _ _ _ _)]

/-- The acknowledgement of a burst that was written. -/
theorem execSieveBurstAck_eq {s : State} {c : Fin 1024} {i : Nat} {b : SvBurst} (hi : (s.chan c).bursts.findIdx? (·.started) = some i)
    (hb : (s.chan c).bursts[i]? = some b) (hf : b.failed = false) :
    execSieveBurstAck c s = .next (((s.dropBurst c i).inc (R.SIEVE_CH_BURSTS c)).burstDone c b.k0 true) := by
  simp only [execSieveBurstAck, hi, hb, hf, Bool.false_eq_true, if_false, Bool.not_false]

theorem sieveBurstAck_counts : ∀ (s : State) (c : Fin 1024) (i : Nat) (b : SvBurst), (s.chan c).bursts.findIdx? (·.started) = some i → (s.chan c).bursts[i]? = some b →
    b.failed = false → ∃ t, exec (.sieveBurstAck c) s = .next t ∧ (t.chan c).bursts = (s.chan c).bursts.eraseIdx i ∧
      t.rd (R.SIEVE_CH_BURSTS c) = (s.rd (R.SIEVE_CH_BURSTS c) + 1) % 2 ^ 32 ∧ t.ms = s.ms := by
  intro s c i b hi hb hf
  obtain ⟨h1, h2, h3⟩ := s.counted_burst c i b.k0 true (f := R.SIEVE_CH_BURSTS c)
    (not_slotAddrs_of_sieve (by simp only [Fld.key, R.SIEVE_CH_BURSTS]; omega) (by simp only [Fld.key, R.SIEVE_CH_BURSTS]; omega))
  exact ⟨_, execSieveBurstAck_eq hi hb hf, h1, h2, h3⟩

theorem sieveBurstAck_token : ∀ (s : State) (c : Fin 1024) (i : Nat) (b : SvBurst), (s.chan c).bursts.findIdx? (·.started) = some i → (s.chan c).bursts[i]? = some b →
    b.failed = false → s.bit (R.SIEVE_CH_NOTIFY_EN c) = true → s.rd (R.SIEVE_CH_NOTIFY_DIV_M1 c) = 0 → (s.chan c).missed = [] →
    ∃ t x, exec (.sieveBurstAck c) s = .next t ∧ t.reeve.tokens = s.reeve.tokens ++ [x] ∧ x.lapse = false ∧
      x.name = windowName (s.chanGroup c) (slotTag (s.svSlot c b.k0))
        ((s.rd (R.SIEVE_CH_NOTIFY_BASE c) + b.k0 % s.perSlot c / (s.svCfg c).bl) % 4096) := by
  intro s c i b hi hb hf hen hdiv hmiss
  let s1 := (s.dropBurst c i).inc (R.SIEVE_CH_BURSTS c)
  have hch : s1.chan c = { s.chan c with bursts := (s.chan c).bursts.eraseIdx i } := by
    rw [State.chan_congr (State.inc_sv _ _), State.dropBurst, State.setChan_chan]
  have hrd (f : Fld) (hne : f.key ≠ (R.SIEVE_CH_BURSTS c).key) : s1.rd f = s.rd f := by
    rw [State.inc_rd_ne _ _ _ hne, State.dropBurst_rd]
  have hcfg : s1.svCfg c = s.svCfg c := State.svCfg_congr hrd (by rw [hch])
  have hgrp : s1.chanGroup c = s.chanGroup c := hrd (R.SIEVE_CH_MODE_LOCK_GROUP c) (by simp only [Fld.key, R.SIEVE_CH_MODE_LOCK_GROUP, R.SIEVE_CH_BURSTS, ne_eq]; omega)
  have hslot : s1.perSlot c = s.perSlot c ∧ s1.svSlot c b.k0 = s.svSlot c b.k0 := State.svSlot_congr hrd (by rw [hch]) b.k0
  have hbit : s1.bit (R.SIEVE_CH_NOTIFY_EN c) = true := by
    rw [← hen, State.bit_eq, State.bit_eq, hrd (R.SIEVE_CH_NOTIFY_EN c) (by simp only [Fld.key, R.SIEVE_CH_NOTIFY_EN, R.SIEVE_CH_BURSTS, ne_eq]; omega)]
  let x : Token := ⟨windowName (s.chanGroup c) (slotTag (s.svSlot c b.k0))
    ((s.rd (R.SIEVE_CH_NOTIFY_BASE c) + b.k0 % s.perSlot c / (s.svCfg c).bl) % 4096), false, 0xFFFF⟩
  have hdone : s1.burstDone c b.k0 true = (s1.setChan c { s1.chan c with missed := [] }).sendToken false x := by
    rw [State.burstDone_token hbit ((hrd _ (by simp only [Fld.key, R.SIEVE_CH_NOTIFY_DIV_M1, R.SIEVE_CH_BURSTS, ne_eq]; omega)).trans hdiv) (by rw [hch]; exact hmiss), hcfg, hgrp, hslot.1,
      hslot.2, hrd (R.SIEVE_CH_NOTIFY_BASE c) (by simp only [Fld.key, R.SIEVE_CH_NOTIFY_BASE, R.SIEVE_CH_BURSTS, ne_eq]; omega)]
  refine ⟨_, x, (execSieveBurstAck_eq hi hb hf).trans (congrArg _ hdone), ?_, rfl, rfl⟩
  rw [State.sendToken_tokens, State.setChan_reeve, State.inc_reeve]
  rfl

theorem sieveBurstLate_skips : ∀ (s : State) (c : Fin 1024) (i : Nat) (b : SvBurst), s.waitingBurst c = some i → (s.chan c).bursts[i]? = some b →
    passed s.tick (s.burstDeadline c b) = true → ∃ t, exec (.sieveBurstLate c) s = .next t ∧
      (t.chan c).bursts = (s.chan c).bursts.eraseIdx i ∧ t.rd (R.SIEVE_CH_LATE_BURSTS c) = (s.rd (R.SIEVE_CH_LATE_BURSTS c) + 1) % 2 ^ 32 ∧
      t.ms = s.ms := by
  intro s c i b hi hb hlate
  obtain ⟨h1, h2, h3⟩ := s.counted_burst c i b.k0 false (f := R.SIEVE_CH_LATE_BURSTS c)
    (not_slotAddrs_of_sieve (by simp only [Fld.key, R.SIEVE_CH_LATE_BURSTS]; omega) (by simp only [Fld.key, R.SIEVE_CH_LATE_BURSTS]; omega))
  refine ⟨_, ?_, h1, h2, h3⟩
  show execSieveBurstLate c s = _
  simp only [execSieveBurstLate, hi, hb, hlate, if_true, State.burstSkip]

theorem sieveSweep_no_window : ∀ (s : State) (g : Fin 64) (w : Fin 16), (∀ x ∈ (s.stp.groups.get g).windows, x.wtag ≠ w.val) → exec (.sieveSweep g w) s = .next s := by
  intro s g w h
  refine if_neg ?_
  simp only [List.any_eq_true, Bool.and_eq_true, decide_eq_true_eq, not_exists, not_and]
  exact fun x hx he => absurd he (h x hx)

theorem sieveSweep_drops : ∀ (s : State) (g : Fin 64) (w : Fin 16) (x : Window) (c : Nat) (b : SvBurst), x ∈ (s.stp.groups.get g).windows → x.wtag = w.val →
    s.reached x.sweepNs = true → s.sv.chans.keys = [c] → s.chanGroup c = g.val → s.svDown c = true → (s.chan c).bursts = [b] →
    b.started = false → slotTag (s.svSlot c b.k0) = w.val → ∃ t, exec (.sieveSweep g w) s = .next t ∧ (t.chan c).bursts = [] ∧
      t.rd R.SIEVE_SWEEP_DROPPED = (s.rd R.SIEVE_SWEEP_DROPPED + 1) % 2 ^ 32 := by
  intro s g w x c b hx hw hre hkeys hg hdown hb hst htag
  obtain ⟨h1, h2, -⟩ := s.counted_burst c 0 b.k0 false (f := R.SIEVE_SWEEP_DROPPED) (not_slotAddrs_of_sieve (by decide) (by decide))
  refine ⟨((s.dropBurst c 0).inc R.SIEVE_SWEEP_DROPPED).burstDone c b.k0 false, ?_, by rw [h1, hb]; rfl, h2⟩
  show execSieveSweep g w s = _
  rw [execSieveSweep, if_pos (List.any_eq_true.mpr ⟨x, hx, by simp [hw, hre]⟩), hkeys, List.filter_cons_of_pos (by simp [hg, hdown]),
    List.filter_nil, List.foldl_cons, List.foldl_nil, hb, List.length_singleton, State.sweepChan_one hb hst htag]

theorem sieveUpReady_sets : ∀ (s : State) (c : Fin 1024) (v : Word), ∃ t, exec (.sieveUpReady c v) s = .next t ∧ t.rd (R.SIEVE_CH_UP_READY c) = v.toNat ∧
    sameRegs s t [R.SIEVE_CH_UP_READY c] ∧ t.sv = s.sv := by
  intro s c v
  refine ⟨_, rfl, ?_, (sameRegs.refl s _).wr (by simp) _, State.wr_sv _ _ _⟩
  rw [State.wr_rd_same]
  exact Nat.mod_eq_of_lt v.isLt

/-- The counts of bursts lie apart from what UP output writes. -/
theorem not_upRegs (c : Fin 1024) : ¬ upRegs c (R.SIEVE_CH_BURSTS c).key ∧ ¬ upRegs c (R.SIEVE_CH_LATE_BURSTS c).key := by
  simp only [upRegs, memRegs, runRegs, addrIn, Fld.key, R.SIEVE_CH_BURSTS, R.SIEVE_CH_LATE_BURSTS, R.SIEVE_CH_DISC_COUNT]
  omega

theorem sieveUpOutputRequest_hands : ∀ (s : State) (c : Fin 1024), s.svUp c = true → s.upLate c = false → ∃ t data, exec (.sieveUpOutputRequest c) s = .next t ∧
    t.sv.out = s.sv.out ++ [⟨s.rd (R.SIEVE_CH_MODE_PORT_KIND c), s.rd (R.SIEVE_CH_MODE_PORT c), c,
      s.sfnOf (s.chanGroup c) (((s.chan c).f0 - s.groupBase (s.chanGroup c)) / 10000000 + (((s.chan c).next / (s.svCfg c).spf : Nat) : Int)),
      (s.chan c).next % (s.svCfg c).spf, data⟩] ∧
    t.rd (R.SIEVE_CH_BURSTS c) = (s.rd (R.SIEVE_CH_BURSTS c) + 1) % 2 ^ 32 := by
  intro s c hup hlate
  obtain ⟨hout, hregs⟩ := s.upLows_up c (s.svCfg c).bl
  show ∃ t data, execSieveUpOutputRequest c s = .next t ∧ _
  simp only [execSieveUpOutputRequest]
  rw [if_neg (by simp [hup, hlate])]
  refine ⟨_, (s.upLows c (s.svCfg c).bl).1, rfl, ?_, ?_⟩
  · rw [State.inc_sv, ← hout]
  · have hcount := hregs (R.SIEVE_CH_BURSTS c) (not_upRegs c).1
    rw [State.inc_rd_same, ← hcount]
    rfl

theorem sieveUpBurstSkip_skips : ∀ (s : State) (c : Fin 1024), s.svUp c = true → s.upLate c = true → ∃ t, exec (.sieveUpBurstSkip c) s = .next t ∧
    t.sv.out = s.sv.out ∧ t.rd (R.SIEVE_CH_LATE_BURSTS c) = (s.rd (R.SIEVE_CH_LATE_BURSTS c) + 1) % 2 ^ 32 := by
  intro s c hup hlate
  obtain ⟨hout, hregs⟩ := s.upLows_up c (s.svCfg c).bl
  refine ⟨_, if_pos ⟨hup, hlate⟩, ?_, ?_⟩
  · rw [State.inc_sv, hout]
  · rw [State.inc_rd_same, hregs _ (not_upRegs c).2]
    rfl

/-- Settles O30: each clause is a lemma above about one command. -/
theorem sieveInputAndBursts : Obligations.SieveInputAndBursts :=
  ⟨sieveBlockArrival_unplanned, sieveBlockArrival_inOrder, sieveBlockArrival_gap, sieveInputTimeout_zeros, sieveBurstWrite_writes,
    sieveBurstAck_counts, sieveBurstAck_token, sieveBurstLate_skips, sieveSweep_no_window, sieveSweep_drops, sieveUpReady_sets,
    sieveUpOutputRequest_hands, sieveUpBurstSkip_skips⟩

end Sys2Proof.Claims

namespace Sys2Proof.Machine

set_option Elab.async false
open Sys2Proof.Claims

/-! The storage: the bytes that a stored word leaves, and the word that they read as. -/

theorem testBit_joinBytes : ∀ (l : List Byte) (k : Nat), (joinBytes l).testBit k = (l.getD (k / 8) 0).getLsbD (k % 8)
  | [], k => by simp [joinBytes]
  | b :: r, k => by
    rw [joinBytes, show b.toNat + 256 * joinBytes r = 2 ^ 8 * joinBytes r + b.toNat by omega, Nat.testBit_two_pow_mul_add _ b.isLt]
    split
    · rename_i h
      rw [Nat.div_eq_of_lt h, Nat.mod_eq_of_lt h]; rfl
    · rename_i h
      rw [testBit_joinBytes r, show k / 8 = (k - 8) / 8 + 1 by omega, show (k - 8) % 8 = k % 8 by omega]; rfl

theorem Memory.getLsbD_rawData (m : Memory) (a : Nat) {k : Nat} (hk : k < 64) :
    (m.rawData a).getLsbD k = (m.data.get (a + k / 8)).getLsbD (k % 8) := by
  have hd : k / 8 < 8 := by omega
  rw [Memory.rawData, BitVec.getLsbD_ofNat, testBit_joinBytes, List.getD_eq_getElem?_getD, List.getElem?_map,
    List.getElem?_range hd, decide_eq_true hk, Bool.true_and]
  rfl

theorem setBytes_get (t : Tab Byte) (a : Nat) (d : DWord) (k : Nat) : ∀ n,
    (setBytes t a d n).get k = if a ≤ k ∧ k < a + n then d.extractLsb' (8 * (k - a)) 8 else t.get k
  | 0 => by simp only [setBytes]; rw [if_neg (by omega)]
  | n + 1 => by
    rw [setBytes, Tab.get_set, setBytes_get t a d k n]
    by_cases h : k = a + n
    · rw [if_pos h, if_pos (by omega), show k - a = n by omega]
    · rw [if_neg h]
      exact if_congr (by omega) rfl rfl

theorem Memory.putRaw_data_in (m : Memory) (a : Nat) (d : DWord) (c : Byte) {i : Nat} (hi : i < 8) :
    (m.putRaw a d c).data.get (a + i) = d.extractLsb' (8 * i) 8 := by
  rw [Memory.putRaw, setBytes_get, if_pos (by omega), Nat.add_sub_cancel_left]

theorem Memory.putRaw_data_out (m : Memory) (a : Nat) (d : DWord) (c : Byte) {k : Nat} (hk : ¬(a ≤ k ∧ k < a + 8)) :
    (m.putRaw a d c).data.get k = m.data.get k := by
  rw [Memory.putRaw, setBytes_get, if_neg hk]

theorem Memory.putRaw_check_ne (m : Memory) (a : Nat) (d : DWord) (c : Byte) {k : Nat} (hk : k ≠ a) :
    (m.putRaw a d c).check.get k = m.check.get k := Tab.get_set_ne _ _ _ _ hk

@[simp] theorem Memory.putRaw_rawCheck (m : Memory) (a : Nat) (d : DWord) (c : Byte) : (m.putRaw a d c).rawCheck a = c :=
  Tab.get_set_same _ _ _

@[simp] theorem Memory.putRaw_rawData (m : Memory) (a : Nat) (d : DWord) (c : Byte) : (m.putRaw a d c).rawData a = d := by
  refine BitVec.eq_of_getLsbD_eq fun k hk => ?_
  have hd : k % 8 < 8 := Nat.mod_lt _ (by decide)
  have hx : 8 * (k / 8) + k % 8 = k := Nat.div_add_mod k 8
  simp [Memory.getLsbD_rawData _ _ hk, Memory.putRaw_data_in _ _ _ _ (show k / 8 < 8 by omega), BitVec.getLsbD_extractLsb', hd, hx]

/-- A stored word reads back as it was written (R345, R349). -/
@[simp] theorem Memory.put_word (m : Memory) (a : Nat) (w : PWord) : (m.put a w).word a = w := by
  rw [Memory.word, Memory.put, Memory.putRaw_rawData, Memory.putRaw_rawCheck, eccData_encodeCheck]

theorem Memory.word_congr {m m' : Memory} {a : Nat} (hd : ∀ i < 8, m'.data.get (a + i) = m.data.get (a + i))
    (hc : m'.check.get a = m.check.get a) : m'.word a = m.word a := by
  have hr : m'.rawData a = m.rawData a := by
    refine BitVec.eq_of_getLsbD_eq fun k hk => ?_
    rw [Memory.getLsbD_rawData _ _ hk, Memory.getLsbD_rawData _ _ hk, hd _ (by omega)]
  rw [Memory.word, Memory.word, hr, Memory.rawCheck, Memory.rawCheck, hc]

/-- Words written one after another leave every byte outside them. -/
theorem State.writeWords_out : ∀ (l : List PWord) (s : State) (a : Nat), sameMemory s (s.writeWords a l) (fun k => a ≤ k ∧ k < a + 8 * l.length)
  | [], _, _ => fun _ _ => ⟨rfl, rfl⟩
  | w :: r, s, a => by
    intro k hk
    rw [List.length_cons] at hk
    obtain ⟨hd, hc⟩ := State.writeWords_out r (s.setMem (s.ms.mem.put a w)) (a + 8) k (by omega)
    refine ⟨hd.trans ?_, hc.trans ?_⟩
    · exact Memory.putRaw_data_out _ _ _ _ (by omega)
    · exact Memory.putRaw_check_ne _ _ _ _ (by omega)

/-- Every word of a write reads back as it was written. -/
theorem State.writeWords_word (l : List PWord) (s : State) (a i : Nat) (h : i < l.length) :
    (s.writeWords a l).ms.mem.word (a + 8 * i) = l[i] := by
  induction l generalizing s a i with
  | nil => exact absurd h (Nat.not_lt_zero _)
  | cons w r ih =>
    rw [State.writeWords]
    cases i with
    | zero =>
      have hout := State.writeWords_out r (s.setMem (s.ms.mem.put a w)) (a + 8)
      refine (Memory.word_congr (m := s.ms.mem.put a w) (fun i hi => (hout _ (by omega)).1) (hout _ (by omega)).2).trans ?_
      exact Memory.put_word _ _ _
    | succ i =>
      rw [show a + 8 * (i + 1) = a + 8 + 8 * i by omega]
      exact ih _ _ i (Nat.lt_of_succ_lt_succ h)

/-! ## Filled ranges -/

theorem Memory.fill_data_in (m : Memory) {a b k : Nat} (h : a ≤ k) (h' : k < b) : (m.fill a b).data.get k = 0 := by
  rw [Memory.fill, Tab.get_clear, if_pos (by simp [h, h'])]; rfl

theorem Memory.fill_check_in (m : Memory) {a b k : Nat} (h : a ≤ k) (h' : k < b) : (m.fill a b).check.get k = 0 := by
  rw [Memory.fill, Tab.get_clear, if_pos (by simp [h, h'])]; rfl

theorem Memory.fill_out (m : Memory) {a b k : Nat} (h : ¬(a ≤ k ∧ k < b)) :
    (m.fill a b).data.get k = m.data.get k ∧ (m.fill a b).check.get k = m.check.get k := by
  rw [Memory.fill, Tab.get_clear, Tab.get_clear]
  exact ⟨if_neg (by simpa using h), if_neg (by simpa using h)⟩

/-! ## Merged bytes (R350) -/

/-- Byte `j` of `new` in place of byte `j` of `x`, as `mergeBytes` puts it. -/
def mergeByte (x new : DWord) (j : Nat) : DWord := (x &&& ~~~((255 : DWord) <<< (8 * j))) ||| (new &&& ((255 : DWord) <<< (8 * j)))

theorem mergeByte_extract (x new : DWord) {i j : Nat} (hi : i < 8) (hj : j < 8) :
    (mergeByte x new j).extractLsb' (8 * i) 8 = if i = j then new.extractLsb' (8 * i) 8 else x.extractLsb' (8 * i) 8 := by
  refine BitVec.eq_of_getLsbD_eq fun k hk => ?_
  have h255 (n : Nat) : (255 : DWord).getLsbD n = decide (n < 8) := by
    have h : n < 8 → n < 64 := fun h => by omega
    rw [show (255 : DWord) = BitVec.ofNat 64 (2 ^ 8 - 1) from rfl, BitVec.getLsbD_ofNat, Nat.testBit_two_pow_sub_one]
    simpa using h
  have hlt : 8 * i + k < 64 := by omega
  simp only [mergeByte, BitVec.getLsbD_extractLsb', BitVec.getLsbD_or, BitVec.getLsbD_and, BitVec.getLsbD_not, BitVec.getLsbD_shiftLeft, h255, hk, hlt,
    decide_true, Bool.true_and]
  by_cases hij : i = j
  · rw [if_pos hij, decide_eq_false (show ¬8 * i + k < 8 * j by omega), decide_eq_true (show 8 * i + k - 8 * j < 8 by omega)]
    simp [hk]
  · rw [if_neg hij, Bool.and_comm (!decide _)]
    rcases Nat.lt_or_gt_of_ne hij with h | h
    · rw [decide_eq_true (show 8 * i + k < 8 * j by omega)]; simp [hk]
    · rw [decide_eq_false (show ¬8 * i + k - 8 * j < 8 by omega)]; simp [hk]

/-- Byte `i` of the merged word. -/
theorem mergeBytes_extract (old new : DWord) (en : Byte) {i : Nat} (hi : i < 8) :
    (mergeBytes old new en).extractLsb' (8 * i) 8 =
      if en.getLsbD i then new.extractLsb' (8 * i) 8 else old.extractLsb' (8 * i) 8 := by
  have h : ∀ (l : List Nat) (x : DWord), (∀ j ∈ l, j < 8) → (l.foldl (fun acc j => if en.getLsbD j then
      mergeByte acc new j else acc) x).extractLsb' (8 * i) 8 =
        if i ∈ l ∧ en.getLsbD i then new.extractLsb' (8 * i) 8 else x.extractLsb' (8 * i) 8 := by
    intro l
    induction l with
    | nil => intro x _; rw [List.foldl_nil, if_neg (by simp)]
    | cons j l ih =>
      intro x hl
      rw [List.foldl_cons, ih _ fun k hk => hl k (List.mem_cons_of_mem _ hk)]
      by_cases hij : i = j
      · subst hij
        cases he : en.getLsbD i
        · simp
        · simp [mergeByte_extract x new hi hi]
      · cases en.getLsbD j
        · simp [hij]
        · simp [hij, mergeByte_extract x new hi (hl j (List.mem_cons_self ..))]
  refine (h (List.range 8) old fun j hj => List.mem_range.mp hj).trans ?_
  exact if_congr (and_iff_right (List.mem_range.mpr hi)) rfl rfl

end Sys2Proof.Machine

/-! ## O32: requests to protected memory -/

namespace Sys2Proof.Claims

set_option Elab.async false

open Sys2Proof.Machine

/-- The registers that show the error log. -/
def logFields : List Fld := [R.ECCLOG_HEAD 0, R.ECCLOG_HEAD 1, R.ECCLOG_HEAD 2, R.ECCLOG_HEAD 3, R.ECCLOG_STATUS_LEVEL, R.ECCLOG_STATUS_HIGH_DROPPED,
  R.ECCLOG_STATUS_LOW_DROPPED]

section
variable {s t : State}

theorem sameRegs.showLog {l : List Fld} (h : sameRegs s t l)
    (hl : ∀ f ∈ [R.ECCLOG_STATUS_LEVEL, R.ECCLOG_HEAD 0, R.ECCLOG_HEAD 1, R.ECCLOG_HEAD 2, R.ECCLOG_HEAD 3], f ∈ l) (es : List LogEntry) :
    sameRegs s (t.showLog es) l := by
  have h0 : sameRegs s { t with ms := { t.ms with log := es } } l := h.of_regs rfl
  exact ((((h0.wr (hl _ (by simp)) _).wr (hl _ (by simp)) _).wr (hl _ (by simp)) _).wr (hl _ (by simp)) _).wr (hl _ (by simp)) _

theorem sameRegs.enterLog (h : sameRegs s t logFields) (e : LogEntry) : sameRegs s (t.enterLog e) logFields := by
  have hs (es : List LogEntry) : sameRegs s (t.showLog es) logFields := h.showLog (by simp [logFields]) es
  unfold State.enterLog
  split_ifs
  · exact ((hs _).irqIf _ _ _).of_regs rfl
  · exact h.incSat (by simp [logFields])
  · exact hs _
  · exact h.incSat (by simp [logFields])

theorem sameRegs.logAt (h : sameRegs s t logFields) (kind : Nat) (ids : Nat × Nat) (syn mid addr bit : Nat) :
    sameRegs s (t.logAt kind ids syn mid addr bit) logFields := by
  unfold State.logAt State.logEvent
  split
  · split_ifs
    · exact h.showLog (by simp [logFields]) _
    · exact h.enterLog _
  · exact h.enterLog _

/-- An entry of the error log leaves the other registers. -/
theorem State.logAt_rd (s : State) {f : Fld} (hf : ∀ x ∈ logFields, f.key ≠ x.key) (kind : Nat) (ids : Nat × Nat) (syn mid addr bit : Nat) :
    (s.logAt kind ids syn mid addr bit).rd f = s.rd f := (sameRegs.refl s logFields).logAt kind ids syn mid addr bit f hf

theorem State.logAt_mem (s : State) (kind : Nat) (ids : Nat × Nat) (syn mid addr bit : Nat) :
    (s.logAt kind ids syn mid addr bit).ms.mem = s.ms.mem :=
  (keeps_logAt (.refl (partsBut .mem) s) (by decide) (by decide) (by decide) (by decide) kind ids syn mid addr bit).same_of_but

end

/-- A request that has not waited counts nothing. -/
theorem State.countConflict_zero (s : State) (a : Nat) (mid : Mid) : s.countConflict a mid 0 = s := by
  have h : s.countWait a mid 0 = s := if_pos rfl
  unfold State.countConflict
  rw [h]
  split
  · exact if_neg (by decide)
  · rfl

/-- Where no region is borrowed and the request has not waited, the memory is reached at once. -/
theorem State.reached_at_once {s : State} (h : ∀ k, (s.ms.gleaners.get k).borrowed = false) (a : Nat) (mid : Mid) :
    (s.yieldFor a mid).countConflict a mid 0 = s := by
  rw [State.yieldFor_of_none_borrowed h, State.countConflict_zero]

theorem memoryWrite_stores : ∀ (s : State) (r : WriteReq) (st : Nat), s.target (r.addr / 8 * 8) = .inr st → (∀ h p, regionOf st ≠ .imem h p) → st % 8 = 0 →
    (∀ k, (s.ms.gleaners.get k).borrowed = false) → r.wait = 0 → ∃ t, exec (.memoryWrite r none) s = .next t ∧ t.ans = acked ∧
      (∀ i (h : i < r.words.length), t.ms.mem.word (st + 8 * i) = r.words[i]) ∧
      sameMemory s t (fun a => st ≤ a ∧ a < st + 8 * r.words.length) ∧ t.regs = s.regs := by
  intro s r st ht hni hal hgl hw
  have he : s.busWrite r = (s.writeWords st r.words).ack := by
    unfold State.busWrite
    dsimp only
    rw [ht]
    dsimp only
    split
    · next h p hr => exact absurd hr (hni h p)
    · rw [hw, State.reached_at_once hgl]
  show ∃ t, Host.Outcome.next (s.busWrite r) = .next t ∧ _
  rw [he]
  exact ⟨_, rfl, rfl, fun i h => State.writeWords_word r.words s st i h, State.writeWords_out r.words s st, State.writeWords_regs s st r.words⟩

/-! ### Reads -/

/-- A clean word is delivered as it stands, and nothing is counted. -/
theorem State.readWord_clean {s : State} {a : Nat} (h : eccOutcome (s.ms.mem.rawData a) (s.ms.mem.rawCheck a) = .clean) (mid : Mid) :
    s.readWord mid a = (⟨s.ms.mem.rawData a, false⟩, s) := by
  unfold State.readWord
  dsimp only
  split <;> simp only [eccData, State.countRead, h]

theorem State.readWords_clean (s : State) (mid : Mid) : ∀ n a,
    (∀ i < n, eccOutcome (s.ms.mem.rawData (a + 8 * i)) (s.ms.mem.rawCheck (a + 8 * i)) = .clean) →
    s.readWords mid a n = ((List.range n).map (fun i => ⟨s.ms.mem.rawData (a + 8 * i), false⟩), s)
  | 0, _, _ => rfl
  | n + 1, a, h => by
    have hn := State.readWords_clean s mid n (a + 8) fun i hi => by
      rw [show a + 8 + 8 * i = a + 8 * (i + 1) by omega]
      exact h (i + 1) (by omega)
    have hs : (fun i => (⟨s.ms.mem.rawData (a + 8 * (i + 1)), false⟩ : PWord)) = fun i => ⟨s.ms.mem.rawData (a + 8 + 8 * i), false⟩ := by
      funext i
      rw [show a + 8 * (i + 1) = a + 8 + 8 * i by omega]
    rw [State.readWords]
    simp only [State.readWord_clean (s := s) (a := a) (h 0 (by omega)), hn]
    rw [List.range_succ_eq_map, List.map_cons, List.map_map]
    exact congrArg (fun l => (_ :: List.map l _, s)) hs.symm

theorem memoryRead_clean : ∀ (s : State) (mid : Mid) (addr n st : Nat), s.target (addr / 8 * 8) = .inr st → (∀ k, (s.ms.gleaners.get k).borrowed = false) →
    (∀ i < n, eccOutcome (s.ms.mem.rawData (st + 8 * i)) (s.ms.mem.rawCheck (st + 8 * i)) = .clean) →
    exec (.memoryRead mid addr n 0 .memory) s =
      .next { s with ans := ⟨.ok, 0, (List.range n).map (fun i => ⟨s.ms.mem.rawData (st + 8 * i), false⟩)⟩ } := by
  intro s mid addr n st ht hgl hc
  show execMemoryRead mid addr n 0 .memory s = _
  simp only [execMemoryRead, ht]
  rw [State.reached_at_once hgl, State.readWords_clean s mid n st hc]
  rfl

theorem memoryRead_uncorrectable : ∀ (s : State) (mid : Mid) (addr st : Nat) (ids : Nat × Nat), s.target (addr / 8 * 8) = .inr st → (regionOf st).ids = some ids →
    (∀ k, (s.ms.gleaners.get k).borrowed = false) →
    eccOutcome (s.ms.mem.rawData st) (s.ms.mem.rawCheck st) = .uncorrectable → ∃ t, exec (.memoryRead mid addr 1 0 .memory) s = .next t ∧
      t.ans = ⟨.ok, 0, [⟨s.ms.mem.rawData st, true⟩]⟩ ∧ t.ms.mem = s.ms.mem ∧
      t.rd (R.ECC_UE ids.1 ids.2) = (s.rd (R.ECC_UE ids.1 ids.2) + 1) % 2 ^ (R.ECC_UE ids.1 ids.2).w := by
  intro s mid addr st ids ht hids hgl hu
  show ∃ t, execMemoryRead mid addr 1 0 .memory s = .next t ∧ _
  obtain ⟨hm, hi⟩ := regionOf_ids_lt hids
  simp only [execMemoryRead, ht]
  rw [State.reached_at_once hgl]
  simp only [State.readWords, State.readWord, hids, eccData_of_uncorrectable hu, State.countRead, hu]
  refine ⟨_, rfl, rfl, ?_, ?_⟩
  · rw [State.reply_ms, State.logAt_mem, State.inc_ms]
  · have hne : ∀ x ∈ logFields, (R.ECC_UE ids.1 ids.2).key ≠ x.key := by
      simp only [logFields, List.forall_mem_cons, Fld.key, R.ECC_UE, R.ECCLOG_HEAD, R.ECCLOG_STATUS_LEVEL, R.ECCLOG_STATUS_HIGH_DROPPED,
        R.ECCLOG_STATUS_LOW_DROPPED]
      refine ⟨?_, ?_, ?_, ?_, ?_, ?_, ?_, by simp⟩ <;> omega
    rw [State.reply_rd, State.logAt_rd _ hne, State.inc, State.add, State.wr_rd_same]

theorem State.countRefusal_ms (s : State) (a : Nat) (r : Answer) : (s.countRefusal a r).ms = s.ms :=
  (keeps_countRefusal (.refl partsButMs s) (by decide) a r).same_ms

theorem memoryRead_refused : ∀ (s : State) (mid : Mid) (addr n wait : Nat) (r : Answer), s.target (addr / 8 * 8) = .inl r →
    ∃ t, exec (.memoryRead mid addr n wait .memory) s = .next t ∧ t.ans = r ∧ t.ms = s.ms := by
  intro s mid addr n wait r ht
  show ∃ t, execMemoryRead mid addr n wait .memory s = .next t ∧ _
  simp only [execMemoryRead, ht]
  exact ⟨_, rfl, rfl, State.countRefusal_ms s _ r⟩

/-! ### Narrow writes -/

/-- A narrow write of a word that reads clean merges its bytes, and counts nothing. -/
theorem State.rmwWord_clean {s : State} {a : Nat} (h : eccOutcome (s.ms.mem.rawData a) (s.ms.mem.rawCheck a) = .clean) (mid : Mid) (en : Byte)
    (new : DWord) (mark : Bool) :
    s.rmwWord mid a en new mark = s.setMem (s.ms.mem.put a ⟨mergeBytes (s.ms.mem.rawData a) new en, mark⟩) := by
  unfold State.rmwWord
  dsimp only
  split <;> simp only [eccData, State.countRead, h, Bool.false_or]

theorem Memory.rawData_extract (m : Memory) (a : Nat) {i : Nat} (hi : i < 8) : (m.rawData a).extractLsb' (8 * i) 8 = m.data.get (a + i) := by
  refine BitVec.eq_of_getLsbD_eq fun k hk => ?_
  rw [BitVec.getLsbD_extractLsb', decide_eq_true hk, Bool.true_and, Memory.getLsbD_rawData _ _ (by omega), show (8 * i + k) / 8 = i by omega,
    show (8 * i + k) % 8 = k by omega]

theorem rmwWrite_merges : ∀ (s : State) (r : NarrowReq) (st : Nat), s.target (r.addr / 8 * 8) = .inr st → (∀ h p, regionOf st ≠ .imem h p) →
    st % 8 = 0 → (∀ k, (s.ms.gleaners.get k).borrowed = false) → r.wait = 0 →
    eccOutcome (s.ms.mem.rawData st) (s.ms.mem.rawCheck st) = .clean → ∃ t, exec (.rmwWrite r none) s = .next t ∧ t.ans = acked ∧
      (∀ i < 8, t.ms.mem.data.get (st + i) =
        (if r.enables.getLsbD i then r.data.extractLsb' (8 * i) 8 else s.ms.mem.data.get (st + i))) ∧
      (t.ms.mem.word st).mark = r.mark ∧ sameMemory s t (fun a => st ≤ a ∧ a < st + 8) ∧ t.regs = s.regs := by
  intro s r st ht hni hal hgl hw hc
  have he : s.busNarrow r = (s.setMem (s.ms.mem.put st ⟨mergeBytes (s.ms.mem.rawData st) r.data r.enables, r.mark⟩)).ack := by
    unfold State.busNarrow
    dsimp only
    rw [ht]
    dsimp only
    split
    · next h p hr => exact absurd hr (hni h p)
    · rw [hw, State.reached_at_once hgl, State.rmwWord_clean hc]
  show ∃ t, Host.Outcome.next (s.busNarrow r) = .next t ∧ _
  rw [he]
  refine ⟨_, rfl, rfl, fun i hi => ?_, congrArg PWord.mark (Memory.put_word _ _ _), fun a ha => ?_, rfl⟩
  · refine (Memory.putRaw_data_in _ _ _ _ hi).trans ?_
    rw [mergeBytes_extract _ _ _ hi, Memory.rawData_extract _ _ hi]
  · exact ⟨Memory.putRaw_data_out _ _ _ _ ha, Memory.putRaw_check_ne _ _ _ _ (by omega)⟩

/-- Settles O32: each clause is a lemma above about one command. -/
theorem memoryRequests : Obligations.MemoryRequests :=
  ⟨memoryWrite_stores, memoryRead_clean, memoryRead_uncorrectable, memoryRead_refused, rmwWrite_merges⟩

end Sys2Proof.Claims

/-! ## O33: a Granary bank's power states -/

namespace Sys2Proof.Claims

set_option Elab.async false

open Sys2Proof.Machine

theorem State.bankMove_rd (s : State) (b st : Nat) (m : BankMove) (h : st < 8) : (s.bankMove b st m).rd (R.GRANARY_BANK_PWR_STATE b) = st :=
  (State.wr_rd_same s (R.GRANARY_BANK_PWR_STATE b) st).trans (Nat.mod_eq_of_lt h)

theorem State.bankMove_mem (s : State) (b st : Nat) (m : BankMove) : (s.bankMove b st m).ms.mem = s.ms.mem := congrArg (fun m => m.mem) (State.wr_ms s _ _)

theorem State.bankMove_moves (s : State) (b st : Nat) (m : BankMove) : (s.bankMove b st m).ms.moves.get b = m := Tab.get_set_same _ _ _

theorem sameRegs.bankMove {s t : State} {b : Nat} (h : sameRegs s t [R.GRANARY_BANK_PWR_STATE b]) (st : Nat) (m : BankMove) :
    sameRegs s (t.bankMove b st m) [R.GRANARY_BANK_PWR_STATE b] := (h.wr (List.mem_singleton_self _) st).of_regs rfl

/-- Clearing REFUSED leaves the registers of the banks and pools that a power request reads. -/
theorem State.w1c_bank (s : State) (b : Nat) (v : Word) : (s.w1c v [R.GRANARY_BANK_PWR_REFUSED b]).rd (R.GRANARY_BANK_PWR_STATE b) =
    s.rd (R.GRANARY_BANK_PWR_STATE b) :=
  State.w1c_rd_ne v _ _ s (List.forall_mem_singleton.mpr (by simp only [Fld.key, R.GRANARY_BANK_PWR_STATE, R.GRANARY_BANK_PWR_REFUSED, ne_eq]; omega))

theorem State.w1c_ms (s : State) (v : Word) (f : Fld) : (s.w1c v [f]).ms = s.ms := State.wr_ms _ _ _

theorem State.w1c_poolOverlaps (s : State) {b : Nat} (hb : b < 64) (v : Word) :
    (s.w1c v [R.GRANARY_BANK_PWR_REFUSED b]).poolOverlaps b = s.poolOverlaps b := by
  have h {f : Fld} (hf : f.key ≠ (R.GRANARY_BANK_PWR_REFUSED b).key) : (s.w1c v [R.GRANARY_BANK_PWR_REFUSED b]).rd f = s.rd f :=
    State.w1c_rd_ne v _ _ s (List.forall_mem_singleton.mpr hf)
  have he p := h (f := R.GRANARY_POOL_STATUS_ENABLED p) (by simp only [Fld.key, R.GRANARY_POOL_STATUS_ENABLED, R.GRANARY_BANK_PWR_REFUSED, ne_eq]; omega)
  have hb p := h (f := R.GRANARY_POOL_BASE_ADDR p) (by simp only [Fld.key, R.GRANARY_POOL_BASE_ADDR, R.GRANARY_BANK_PWR_REFUSED, ne_eq]; omega)
  have hc p := h (f := R.GRANARY_POOL_COUNT_COUNT p) (by simp only [Fld.key, R.GRANARY_POOL_COUNT_COUNT, R.GRANARY_BANK_PWR_REFUSED, ne_eq]; omega)
  have hu p := h (f := R.GRANARY_POOL_CFG_BUF_UNITS_M1 p) (by simp only [Fld.key, R.GRANARY_POOL_CFG_BUF_UNITS_M1, R.GRANARY_BANK_PWR_REFUSED, ne_eq]; omega)
  simp only [State.poolOverlaps, State.poolRange, State.bit_eq, he, hb, hc, hu]

theorem bankPowerRequest_toOff : ∀ (s : State) (b : Fin 64) (v : Word), (R.GRANARY_BANK_PWR_REQ_VALID b).of v = 1 → (R.GRANARY_BANK_PWR_REFUSED b).of v = 0 →
    s.rd (R.GRANARY_BANK_PWR_STATE b) = 0 → (R.GRANARY_BANK_PWR_REQ b).of v = 2 → s.poolOverlaps b = false →
    ∃ t, exec (.granaryBankPowerRequest b v) s = .next t ∧ t.rd (R.GRANARY_BANK_PWR_STATE b) = 3 ∧ t.ms.moves.get b = .toOff ∧
      t.ms.mem = s.ms.mem ∧ t.ans = acked := by
  intro s b v hv _ hst hreq hp
  show ∃ t, execGranaryBankPowerRequest b v s = .next t ∧ _
  have hc : ¬((R.GRANARY_BANK_PWR_REQ_VALID b).of v = 0 ∨ (R.GRANARY_BANK_PWR_REQ b).of v = 3) := by omega
  simp only [execGranaryBankPowerRequest]
  rw [State.w1c_bank, Claims.State.w1c_poolOverlaps s b.isLt, hst, if_neg hc, if_neg (by decide), hreq, if_neg (by decide), if_pos rfl, hp,
    if_neg (by decide), if_neg (by decide)]
  exact ⟨_, rfl, State.bankMove_rd _ b 3 .toOff (by decide), State.bankMove_moves _ b 3 .toOff,
    (State.bankMove_mem _ b 3 .toOff).trans (congrArg (fun m => m.mem) (State.w1c_ms s v _)), rfl⟩

theorem bankPowerRequest_busy : ∀ (s : State) (b : Fin 64) (v : Word), (R.GRANARY_BANK_PWR_REQ_VALID b).of v = 1 → 3 ≤ s.rd (R.GRANARY_BANK_PWR_STATE b) →
    (R.GRANARY_BANK_PWR_REQ b).of v ≠ 3 → ∃ t, exec (.granaryBankPowerRequest b v) s = .next t ∧
      t.rd (R.GRANARY_BANK_PWR_REFUSED b) = 1 ∧ t.rd (R.GRANARY_BANK_PWR_CAUSE b) = 2 ∧
      t.rd (R.GRANARY_BANK_PWR_STATE b) = s.rd (R.GRANARY_BANK_PWR_STATE b) ∧ t.ms = s.ms := by
  intro s b v hv hst hreq
  show ∃ t, execGranaryBankPowerRequest b v s = .next t ∧ _
  have hc : ¬((R.GRANARY_BANK_PWR_REQ_VALID b).of v = 0 ∨ (R.GRANARY_BANK_PWR_REQ b).of v = 3) := by omega
  simp only [execGranaryBankPowerRequest]
  rw [State.w1c_bank, if_neg hc, if_pos hst]
  refine ⟨_, rfl, ?_, State.wr_rd_same _ _ _, ?_, ?_⟩
  · rw [State.ack_rd, State.bankRefuse, State.wr_rd_ne _ _ _ _ (by simp only [Fld.key, R.GRANARY_BANK_PWR_REFUSED, R.GRANARY_BANK_PWR_CAUSE, ne_eq]; omega), State.wr_rd_same]; rfl
  · rw [State.ack_rd, State.bankRefuse, State.wr_rd_ne _ _ _ _ (by simp only [Fld.key, R.GRANARY_BANK_PWR_STATE, R.GRANARY_BANK_PWR_CAUSE, ne_eq]; omega),
      State.wr_rd_ne _ _ _ _ (by simp only [Fld.key, R.GRANARY_BANK_PWR_REFUSED, R.GRANARY_BANK_PWR_STATE, ne_eq]; omega), State.w1c_bank]
  · rw [State.ack_ms, State.bankRefuse, State.wr_ms, State.wr_ms, Claims.State.w1c_ms]

theorem bankTransitionEnd_retention : ∀ (s : State) (b : Fin 64), s.ms.moves.get b = .toRetention → ∃ t, exec (.granaryBankTransitionEnd b) s = .next t ∧
    t.rd (R.GRANARY_BANK_PWR_STATE b) = 1 ∧ t.ms.mem = s.ms.mem ∧ sameRegs s t [R.GRANARY_BANK_PWR_STATE b] := by
  intro s b h
  show ∃ t, execGranaryBankTransitionEnd b s = .next t ∧ _
  simp only [execGranaryBankTransitionEnd, h]
  exact ⟨_, rfl, State.bankMove_rd s b 1 .none (by decide), State.bankMove_mem s b 1 .none, (sameRegs.refl s _).bankMove 1 .none⟩

/-- A bank's fill reaches its own megabyte. -/
theorem sameMemory_fill_bankMove (s : State) (b st : Nat) (m : BankMove) :
    sameMemory s ((s.setMem (s.ms.mem.fill (b * 0x100000) ((b + 1) * 0x100000))).bankMove b st m)
      (fun a => b * 0x100000 ≤ a ∧ a < (b + 1) * 0x100000) := by
  intro a ha
  rw [State.bankMove_mem]
  exact s.ms.mem.fill_out ha

theorem bankTransitionEnd_off : ∀ (s : State) (b : Fin 64), s.ms.moves.get b = .toOff → ∃ t, exec (.granaryBankTransitionEnd b) s = .next t ∧
    t.rd (R.GRANARY_BANK_PWR_STATE b) = 2 ∧ sameMemory s t (fun a => b.val * 0x100000 ≤ a ∧ a < (b.val + 1) * 0x100000) ∧
    sameRegs s t [R.GRANARY_BANK_PWR_STATE b] := by
  intro s b h
  show ∃ t, execGranaryBankTransitionEnd b s = .next t ∧ _
  simp only [execGranaryBankTransitionEnd, h]
  exact ⟨_, rfl, State.bankMove_rd _ b 2 .none (by decide), sameMemory_fill_bankMove s b 2 .none, ((sameRegs.refl s _).setMem _).bankMove 2 .none⟩

theorem bankFillEnd_on : ∀ (s : State) (b : Fin 64), s.rd (R.GRANARY_BANK_PWR_STATE b) = 5 → ∃ t, exec (.granaryBankFillEnd b true) s = .next t ∧
    t.rd (R.GRANARY_BANK_PWR_STATE b) = 0 ∧ sameRegs s t [R.GRANARY_BANK_PWR_STATE b] ∧
    (∀ a, b.val * 0x100000 ≤ a → a < (b.val + 1) * 0x100000 → t.ms.mem.data.get a = 0 ∧ t.ms.mem.check.get a = 0) ∧
    sameMemory s t (fun a => b.val * 0x100000 ≤ a ∧ a < (b.val + 1) * 0x100000) := by
  intro s b h
  show ∃ t, execGranaryBankFillEnd b true s = .next t ∧ _
  simp only [execGranaryBankFillEnd, h, if_true]
  refine ⟨_, rfl, State.bankMove_rd _ b 0 .none (by decide), ((sameRegs.refl s _).setMem _).bankMove 0 .none, fun a hlo hhi => ?_,
    sameMemory_fill_bankMove s b 0 .none⟩
  rw [State.bankMove_mem]
  exact ⟨s.ms.mem.fill_data_in hlo hhi, s.ms.mem.fill_check_in hlo hhi⟩

theorem bankFillEnd_checker : ∀ (s : State) (b : Fin 64), s.rd (R.GRANARY_BANK_PWR_STATE b) = 5 → ∃ t, exec (.granaryBankFillEnd b false) s = .next t ∧
    t.rd (R.GRANARY_BANK_PWR_STATE b) = 6 ∧ t.ms.mem = s.ms.mem := by
  intro s b h
  show ∃ t, execGranaryBankFillEnd b false s = .next t ∧ _
  simp only [execGranaryBankFillEnd, h, if_true, Bool.false_eq_true, if_false]
  refine ⟨_, rfl, ?_, ?_⟩
  · have hne : ∀ x ∈ logFields, (R.GRANARY_BANK_PWR_STATE b).key ≠ x.key := by
      simp only [logFields, List.forall_mem_cons, Fld.key, R.GRANARY_BANK_PWR_STATE, R.ECCLOG_HEAD, R.ECCLOG_STATUS_LEVEL, R.ECCLOG_STATUS_HIGH_DROPPED,
        R.ECCLOG_STATUS_LOW_DROPPED]
      refine ⟨?_, ?_, ?_, ?_, ?_, ?_, ?_, by simp⟩ <;> omega
    rw [State.logAt_rd _ hne]
    exact State.bankMove_rd s b 6 .none (by decide)
  · rw [State.logAt_mem, State.bankMove_mem]

/-- Settles O33: each clause is a lemma above about one command. -/
theorem granaryBankPower : Obligations.GranaryBankPower :=
  ⟨bankPowerRequest_toOff, bankPowerRequest_busy, bankTransitionEnd_retention, bankTransitionEnd_off, bankFillEnd_on, bankFillEnd_checker⟩

end Sys2Proof.Claims

/-! ## O34: buffer pools and the tokens they give out -/

namespace Sys2Proof.Claims

set_option Elab.async false

open Sys2Proof.Machine

section
variable (s : State)

theorem State.pool_congr {s t : State} (h : t.ms = s.ms) (p : Nat) : t.pool p = s.pool p := by rw [State.pool, State.pool, h]

theorem State.setPool_pool (p : Nat) (x : Pool) : (s.setPool p x).pool p = x := Tab.get_set_same _ _ _

theorem State.showHeld_ms (p : Nat) : (s.showHeld p).ms = s.ms := State.wr_ms _ _ _

theorem State.wrWord_ms (v : Word) (fs : List Fld) : (s.wrWord v fs).ms = s.ms :=
  (keeps_wrWord (.refl partsButMs s) (by decide) v fs).same_ms

theorem State.poolLedger_ms (p a b : Nat) : (s.poolLedger p a b).ms = s.ms := State.ledgerCount_ms _ _ _ _

theorem State.bit_of_rd_zero {f : Fld} (h : s.bit f = false) : s.rd f = 0 := by simpa [State.bit_eq] using h

end

/-! ### Enabling and disabling -/

theorem poolEnable_enables : ∀ (s : State) (p : Fin 128) (v : Word), (R.GRANARY_POOL_CFG_ENABLE p).of v = 1 → s.bit (R.GRANARY_POOL_STATUS_ENABLED p) = false →
    (s.wrWord v [R.GRANARY_POOL_CFG_WINDOWED p, R.GRANARY_POOL_CFG_BUF_UNITS_M1 p]).poolCause p = 0 →
    ∃ t, exec (.granaryPoolEnable p v) s = .next t ∧ t.rd (R.GRANARY_POOL_STATUS_ENABLED p) = 1 ∧
      (t.pool p).free = List.range (s.rd (R.GRANARY_POOL_COUNT_COUNT p)) ∧ (t.pool p).held = [] ∧ (∀ i, (t.pool p).gens.get i = 0) ∧
      t.rd (R.GRANARY_POOL_STATUS_HELD p) = 0 ∧ t.ans = acked := by
  intro s p v hv he hc
  show ∃ t, execGranaryPoolEnable p v s = .next t ∧ _
  have hcount : (s.wrWord v [R.GRANARY_POOL_CFG_WINDOWED p, R.GRANARY_POOL_CFG_BUF_UNITS_M1 p]).rd (R.GRANARY_POOL_COUNT_COUNT p) =
      s.rd (R.GRANARY_POOL_COUNT_COUNT p) :=
    State.wrWord_rd_ne v _ _ s (List.forall_mem_cons.mpr ⟨(by simp only [Fld.key, R.GRANARY_POOL_COUNT_COUNT, R.GRANARY_POOL_CFG_WINDOWED, ne_eq]; omega),
      List.forall_mem_singleton.mpr (by simp only [Fld.key, R.GRANARY_POOL_COUNT_COUNT, R.GRANARY_POOL_CFG_BUF_UNITS_M1, ne_eq]; omega)⟩)
  simp only [execGranaryPoolEnable, hv, he, hc, one_ne_zero, if_false, Bool.false_eq_true, hcount]
  generalize s.wrWord v _ = t
  have hpool : ((((t.setPool p { free := List.range (s.rd (R.GRANARY_POOL_COUNT_COUNT p)), held := [], gens := ⟨[]⟩ }).wr
      (R.GRANARY_POOL_CFG_ENABLE p) 1).wr (R.GRANARY_POOL_STATUS_ENABLED p) 1).showHeld p).ack.pool p =
        { free := List.range (s.rd (R.GRANARY_POOL_COUNT_COUNT p)), held := [], gens := ⟨[]⟩ } := by
    refine (State.pool_congr ?_ p).trans (State.setPool_pool t p _)
    rw [State.ack_ms, State.showHeld_ms, State.wr_ms, State.wr_ms]
  refine ⟨_, rfl, ?_, ?_, ?_, ?_, ?_, rfl⟩
  · rw [State.ack_rd, State.showHeld, State.wr_rd_ne _ _ _ _ (by simp only [Fld.key, R.GRANARY_POOL_STATUS_ENABLED, R.GRANARY_POOL_STATUS_HELD, ne_eq]; omega), State.wr_rd_same]; rfl
  · rw [hpool]
  · rw [hpool]
  · intro i
    rw [hpool]; rfl
  · rw [State.ack_rd, State.showHeld, State.wr_rd_same, State.pool_congr (t := (State.wr _ _ _)) ((State.wr_ms _ _ _).trans (State.wr_ms _ _ _)),
      State.setPool_pool]
    rfl

theorem poolEnable_noBuffers : ∀ (s : State) (p : Fin 128) (v : Word), (R.GRANARY_POOL_CFG_ENABLE p).of v = 1 → s.bit (R.GRANARY_POOL_STATUS_ENABLED p) = false →
    s.rd (R.GRANARY_POOL_COUNT_COUNT p) = 0 → ∃ t, exec (.granaryPoolEnable p v) s = .next t ∧
      t.rd (R.GRANARY_POOL_STATUS_REFUSED p) = 1 ∧ t.rd (R.GRANARY_POOL_STATUS_CAUSE p) = 1 ∧
      t.rd (R.GRANARY_POOL_STATUS_ENABLED p) = 0 ∧ t.ms = s.ms := by
  intro s p v hv he hc
  show ∃ t, execGranaryPoolEnable p v s = .next t ∧ _
  have hcause : (s.wrWord v [R.GRANARY_POOL_CFG_WINDOWED p, R.GRANARY_POOL_CFG_BUF_UNITS_M1 p]).poolCause p = 1 := by
    refine if_pos (.inl ((State.wrWord_rd_ne v _ _ s ?_).trans hc))
    exact List.forall_mem_cons.mpr ⟨(by simp only [Fld.key, R.GRANARY_POOL_COUNT_COUNT, R.GRANARY_POOL_CFG_WINDOWED, ne_eq]; omega),
      List.forall_mem_singleton.mpr (by simp only [Fld.key, R.GRANARY_POOL_COUNT_COUNT, R.GRANARY_POOL_CFG_BUF_UNITS_M1, ne_eq]; omega)⟩
  simp only [execGranaryPoolEnable, hv, he, hcause, one_ne_zero, if_false, Bool.false_eq_true]
  refine ⟨_, rfl, ?_, ?_, ?_, ?_⟩
  · rw [State.ack_rd, State.wr_rd_ne _ _ _ _ (by simp only [Fld.key, R.GRANARY_POOL_STATUS_REFUSED, R.GRANARY_POOL_STATUS_CAUSE, ne_eq]; omega), State.wr_rd_same]; rfl
  · rw [State.ack_rd, State.wr_rd_same]; rfl
  · rw [State.ack_rd, State.wr_rd_ne _ _ _ _ (by simp only [Fld.key, R.GRANARY_POOL_STATUS_ENABLED, R.GRANARY_POOL_STATUS_CAUSE, ne_eq]; omega),
      State.wr_rd_ne _ _ _ _ (by simp only [Fld.key, R.GRANARY_POOL_STATUS_ENABLED, R.GRANARY_POOL_STATUS_REFUSED, ne_eq]; omega), State.wrWord_rd_ne]
    · exact State.bit_of_rd_zero s he
    · exact List.forall_mem_cons.mpr ⟨(by simp only [Fld.key, R.GRANARY_POOL_STATUS_ENABLED, R.GRANARY_POOL_CFG_WINDOWED, ne_eq]; omega),
        List.forall_mem_singleton.mpr (by simp only [Fld.key, R.GRANARY_POOL_STATUS_ENABLED, R.GRANARY_POOL_CFG_BUF_UNITS_M1, ne_eq]; omega)⟩
  · rw [State.ack_ms, State.wr_ms, State.wr_ms, State.wrWord_ms]

theorem poolDisable_disables : ∀ (s : State) (p : Fin 128) (v : Word), (R.GRANARY_POOL_CFG_ENABLE p).of v = 0 → s.bit (R.GRANARY_POOL_STATUS_ENABLED p) = true →
    (s.pool p).held = [] → ∃ t, exec (.granaryPoolDisable p v) s = .next t ∧ t.rd (R.GRANARY_POOL_STATUS_ENABLED p) = 0 ∧
      t.rd (R.GRANARY_POOL_CFG_ENABLE p) = 0 ∧ t.ans = acked := by
  intro s p v hv he hh
  show ∃ t, execGranaryPoolDisable p v s = .next t ∧ _
  simp only [execGranaryPoolDisable, hv, he, hh, zero_ne_one, if_false, if_true]
  refine ⟨_, rfl, ?_, ?_, rfl⟩
  · rw [State.ack_rd, State.wrWord_rd_ne, State.wr_rd_same]
    · rfl
    · exact List.forall_mem_cons.mpr ⟨(by simp only [Fld.key, R.GRANARY_POOL_STATUS_ENABLED, R.GRANARY_POOL_CFG_WINDOWED, ne_eq]; omega),
        List.forall_mem_singleton.mpr (by simp only [Fld.key, R.GRANARY_POOL_STATUS_ENABLED, R.GRANARY_POOL_CFG_BUF_UNITS_M1, ne_eq]; omega)⟩
  · rw [State.ack_rd, State.wrWord_rd_ne, State.wr_rd_ne _ _ _ _ (by simp only [Fld.key, R.GRANARY_POOL_CFG_ENABLE, R.GRANARY_POOL_STATUS_ENABLED, ne_eq]; omega), State.wr_rd_same]
    · rfl
    · exact List.forall_mem_cons.mpr ⟨(by simp only [Fld.key, R.GRANARY_POOL_CFG_ENABLE, R.GRANARY_POOL_CFG_WINDOWED, ne_eq]; omega),
        List.forall_mem_singleton.mpr (by simp only [Fld.key, R.GRANARY_POOL_CFG_ENABLE, R.GRANARY_POOL_CFG_BUF_UNITS_M1, ne_eq]; omega)⟩

theorem poolDisable_busy : ∀ (s : State) (p : Fin 128) (v : Word), (R.GRANARY_POOL_CFG_ENABLE p).of v = 0 → s.bit (R.GRANARY_POOL_STATUS_ENABLED p) = true →
    (s.pool p).held ≠ [] → ∃ t, exec (.granaryPoolDisable p v) s = .next t ∧ t.rd (R.GRANARY_POOL_STATUS_REFUSED p) = 1 ∧
      t.rd (R.GRANARY_POOL_STATUS_CAUSE p) = 5 ∧ t.ms = s.ms ∧
      sameRegs s t [R.GRANARY_POOL_STATUS_REFUSED p, R.GRANARY_POOL_STATUS_CAUSE p] := by
  intro s p v hv he hh
  show ∃ t, execGranaryPoolDisable p v s = .next t ∧ _
  simp only [execGranaryPoolDisable, hv, he, hh, zero_ne_one, if_false, if_true]
  refine ⟨_, rfl, ?_, State.wr_rd_same _ _ _, ?_, (((sameRegs.refl s _).wr (by simp) _).wr (by simp) _).ack⟩
  · rw [State.ack_rd, State.wr_rd_ne _ _ _ _ (by simp only [Fld.key, R.GRANARY_POOL_STATUS_REFUSED, R.GRANARY_POOL_STATUS_CAUSE, ne_eq]; omega), State.wr_rd_same]; rfl
  · rw [State.ack_ms, State.wr_ms, State.wr_ms]

/-! ### Taking and releasing -/

theorem poolTake_takes : ∀ (s : State) (p : Fin 128) (i : Nat) (r : List Nat), s.bit (R.GRANARY_POOL_STATUS_ENABLED p) = true →
    s.bit (R.GRANARY_POOL_STATUS_FAULT p) = false → (s.pool p).free = i :: r → ∃ t, exec (.granaryPoolTake p) s = .next t ∧
      t.ans = ⟨.ok, 0, [⟨BitVec.ofNat 64 (2 ^ 31 + tokenOf p ((s.pool p).gens.get i) i), false⟩]⟩ ∧ (t.pool p).free = r ∧
      (t.pool p).held = (s.pool p).held ++ [⟨i, none⟩] := by
  intro s p i r he hf hfree
  show ∃ t, execGranaryPoolTake p s = .next t ∧ _
  simp only [execGranaryPoolTake, State.poolTake, he, hf, hfree, Bool.not_false, Bool.and_self, if_true]
  have hpool : ((((s.setPool p { s.pool p with free := r, held := (s.pool p).held ++ [⟨i, none⟩] }).showHeld p).poolLedger p 1 0).reply
      ⟨.ok, 0, [⟨BitVec.ofNat 64 (2 ^ 31 + tokenOf p ((s.pool p).gens.get i) i), false⟩]⟩).pool p =
        { s.pool p with free := r, held := (s.pool p).held ++ [⟨i, none⟩] } := by
    refine (State.pool_congr ?_ p).trans (State.setPool_pool s p _)
    rw [State.reply_ms, State.poolLedger_ms, State.showHeld_ms]
  exact ⟨_, rfl, rfl, congrArg Pool.free hpool, congrArg Pool.held hpool⟩

theorem poolTake_none : ∀ (s : State) (p : Fin 128), (s.bit (R.GRANARY_POOL_STATUS_ENABLED p) = false ∨ (s.pool p).free = []) →
    ∃ t, exec (.granaryPoolTake p) s = .next t ∧ t.ans = ⟨.ok, 0, [⟨0, false⟩]⟩ ∧ t.ms = s.ms ∧
      t.rd (R.GRANARY_POOL_EMPTY_TAKES p) = (s.rd (R.GRANARY_POOL_EMPTY_TAKES p) + 1) % 2 ^ (R.GRANARY_POOL_EMPTY_TAKES p).w ∧
      sameRegs s t [R.GRANARY_POOL_EMPTY_TAKES p] := by
  intro s p h
  have hp : s.poolTake p none = (none, s.inc (R.GRANARY_POOL_EMPTY_TAKES p)) := by
    unfold State.poolTake
    rcases h with he | hfree
    · rw [he]; rfl
    · dsimp only
      rw [hfree]
      exact ite_self _
  show ∃ t, execGranaryPoolTake p s = .next t ∧ _
  simp only [execGranaryPoolTake, hp]
  exact ⟨_, rfl, rfl, State.inc_ms s (R.GRANARY_POOL_EMPTY_TAKES p), State.wr_rd_same s (R.GRANARY_POOL_EMPTY_TAKES p) _, ((sameRegs.refl s _).inc (List.mem_singleton_self _)).reply _⟩

/-- The buffer is at the tail of the free list, with its next generation. -/
theorem State.poolReturn_pool (s : State) (p i : Nat) : (s.poolReturn p i).pool p =
    { free := (s.pool p).free ++ [i], held := (s.pool p).held.filter (fun h => h.index != i),
      gens := (s.pool p).gens.set i (((s.pool p).gens.get i + 1) % 16) } := by
  refine (State.pool_congr ?_ p).trans (State.setPool_pool s p _)
  rw [State.poolReturn, State.poolLedger_ms, State.showHeld_ms]

theorem poolRelease_returns : ∀ (s : State) (p : Fin 128) (tok : Word), s.releaseOk p tok.toNat = true → ∃ t, exec (.granaryPoolRelease p tok) s = .next t ∧
    (t.pool p).free = (s.pool p).free ++ [nbits tok.toNat 0 16] ∧ (t.pool p).held = (s.pool p).held.filter (fun h => h.index != nbits tok.toNat 0 16) ∧
    (t.pool p).gens.get (nbits tok.toNat 0 16) = ((s.pool p).gens.get (nbits tok.toNat 0 16) + 1) % 16 ∧ t.ans = acked := by
  intro s p tok h
  show ∃ t, Host.Outcome.next (s.poolRelease p tok.toNat).ack = .next t ∧ _
  rw [State.poolRelease, if_pos h]
  have hp : (s.poolReturn p (nbits tok.toNat 0 16)).ack.pool p = _ := (State.pool_congr rfl p).trans (State.poolReturn_pool s p (nbits tok.toNat 0 16))
  refine ⟨_, rfl, ?_, ?_, ?_, rfl⟩
  · rw [hp]
  · rw [hp]
  · rw [hp]
    exact Tab.get_set_same _ _ _

theorem poolRelease_bad : ∀ (s : State) (p : Fin 128) (tok : Word), s.releaseOk p tok.toNat = false → ∃ t, exec (.granaryPoolRelease p tok) s = .next t ∧
    t.rd R.GRANARY_RELEASE_BAD_SEEN = 1 ∧ t.rd R.GRANARY_RELEASE_BAD_POOL = nbits tok.toNat 24 7 ∧ t.ms = s.ms ∧
    sameRegs s t [R.GRANARY_RELEASE_BAD_SEEN, R.GRANARY_RELEASE_BAD_POOL, R.GRANARY_RELEASE_BAD_GEN, R.GRANARY_RELEASE_BAD_INDEX] := by
  intro s p tok h
  show ∃ t, Host.Outcome.next (s.poolRelease p tok.toNat).ack = .next t ∧ _
  rw [State.poolRelease, if_neg (by simp [h])]
  refine ⟨_, rfl, ?_, ?_, ?_, ?_⟩
  · rw [State.ack_rd, State.releaseBad, State.wr_rd_ne _ _ _ _ (by decide), State.wr_rd_ne _ _ _ _ (by decide), State.wr_rd_ne _ _ _ _ (by decide),
      State.wr_rd_same]
    rfl
  · rw [State.ack_rd, State.releaseBad, State.wr_rd_ne _ _ _ _ (by decide), State.wr_rd_ne _ _ _ _ (by decide), State.wr_rd_same]
    exact Nat.mod_mod _ _
  · rw [State.ack_ms, State.releaseBad, State.wr_ms, State.wr_ms, State.wr_ms, State.wr_ms]
  · exact (((((sameRegs.refl s _).wr (by simp) _).wr (by simp) _).wr (by simp) _).wr (by simp) _).ack

/-! ### The sweep -/

/-- One buffer of a swept window goes back and is counted. -/
def State.poolSweepOne (p : Nat) (t : State) (h : HeldBuf) : State := (t.poolReturn p h.index).inc (R.GRANARY_POOL_SWEEP_RETURNED p)

theorem poolSweepOne_pool (p : Nat) (t : State) (h : HeldBuf) : (State.poolSweepOne p t h).pool p = (t.poolReturn p h.index).pool p :=
  State.pool_congr (State.inc_ms _ _) p

/-- Returned one after another, buffers leave the held list and stand at the tail of the free list in their order. -/
theorem poolSweepAll_pool (p : Nat) : ∀ (l : List HeldBuf) (s : State),
    ((l.foldl (State.poolSweepOne p) s).pool p).free = (s.pool p).free ++ l.map (·.index) ∧
    ((l.foldl (State.poolSweepOne p) s).pool p).held = (s.pool p).held.filter (fun h => !(l.map (·.index)).contains h.index)
  | [], s => by simp
  | x :: l, s => by
    obtain ⟨hf, hh⟩ := poolSweepAll_pool p l (State.poolSweepOne p s x)
    rw [List.foldl_cons, hf, hh, poolSweepOne_pool, State.poolReturn_pool]
    refine ⟨by simp, ?_⟩
    rw [List.filter_filter]
    refine List.filter_congr fun h _ => ?_
    rw [Bool.eq_iff_iff]
    simp [and_comm]

/-- Held buffers with an index each: those whose index is among the stamped ones' are the stamped ones. -/
theorem filter_not_stamped {l : List HeldBuf} (h : (l.map (·.index)).Nodup) (q : HeldBuf → Bool) :
    l.filter (fun x => !((l.filter q).map (·.index)).contains x.index) = l.filter (fun x => !q x) := by
  refine List.filter_congr fun x hx => congrArg not ?_
  rw [Bool.eq_iff_iff, List.contains_iff_mem, List.mem_map]
  constructor
  · rintro ⟨y, hy, e⟩
    obtain ⟨hyl, hq⟩ := List.mem_filter.mp hy
    rwa [← List.inj_on_of_nodup_map h hyl hx e]
  · exact fun hq => ⟨x, List.mem_filter.mpr ⟨hx, hq⟩, rfl⟩

theorem poolSweepReturn_sweeps : ∀ (s : State) (g : Fin 64) (w : Fin 16), s.windowSwept g w = true → s.ms.pools.keys = [0] →
    s.bit (R.GRANARY_POOL_CFG_WINDOWED 0) = true → s.bit (R.GRANARY_POOL_STATUS_ENABLED 0) = true →
    ((s.pool 0).held.map (·.index)).Nodup → ∃ t, exec (.poolSweepReturn g w) s = .next t ∧
      (t.pool 0).held = (s.pool 0).held.filter (fun h => h.stamp != some (g.val, w.val)) ∧
      (t.pool 0).free = (s.pool 0).free ++ ((s.pool 0).held.filter (fun h => h.stamp == some (g.val, w.val))).map (·.index) := by
  intro s g w hsw hk hw he hnd
  show ∃ t, execPoolSweepReturn g w s = .next t ∧ _
  have hs : s.poolSweep g w 0 = ((s.pool 0).held.filter (fun h => h.stamp == some (g.val, w.val))).foldl (State.poolSweepOne 0) s := by
    rw [State.poolSweep, hw, he]; rfl
  simp only [execPoolSweepReturn, hsw, if_true, hk, List.foldl_cons, List.foldl_nil]
  rw [hs]
  obtain ⟨hf, hh⟩ := poolSweepAll_pool 0 ((s.pool 0).held.filter (fun h => h.stamp == some (g.val, w.val))) s
  exact ⟨_, rfl, hh.trans (filter_not_stamped hnd _), hf⟩

theorem poolFault_faults : ∀ (s : State) (p : Fin 128), ∃ t, exec (.poolFault p) s = .next t ∧ t.rd (R.GRANARY_POOL_STATUS_FAULT p) = 1 ∧ t.ms = s.ms := by
  intro s p
  refine ⟨_, rfl, ?_, ?_⟩
  · unfold State.ledgerFault
    dsimp only
    split
    · exact State.wr_rd_same _ _ _
    · have h4 : ledgerId 4 p / 256 = 4 := by
        have := p.isLt
        simp only [ledgerId]; omega
      have hp : ledgerId 4 p % 256 = p := by
        have := p.isLt
        simp only [ledgerId]; omega
      rw [if_pos h4, hp]
      exact State.wr_rd_same _ _ _
  · rw [(keeps_ledgerFault (.refl partsButMs _) (by decide) (by decide) (by decide) (by decide) _).same_ms, State.wr_ms]

/-- Settles O34: each clause is a lemma above about one command. -/
theorem bufferPools : Obligations.BufferPools :=
  ⟨poolEnable_enables, poolEnable_noBuffers, poolDisable_disables, poolDisable_busy, poolTake_takes, poolTake_none, poolRelease_returns,
    poolRelease_bad, poolSweepReturn_sweeps, poolFault_faults⟩

end Sys2Proof.Claims

/-! ## O35: injection and the error log -/

namespace Sys2Proof.Claims

set_option Elab.async false

open Sys2Proof.Machine

theorem State.showLog_log (s : State) (l : List LogEntry) : (s.showLog l).ms.log = l := by
  simp only [State.showLog, State.wr_ms]

theorem State.showLog_mem (s : State) (l : List LogEntry) : (s.showLog l).ms.mem = s.ms.mem := by
  simp only [State.showLog, State.wr_ms]

theorem State.showLog_level (s : State) (l : List LogEntry) : (s.showLog l).rd R.ECCLOG_STATUS_LEVEL = l.length % 2 ^ R.ECCLOG_STATUS_LEVEL.w :=
  State.wr_rd_same _ _ _

theorem State.showLog_rd (s : State) (l : List LogEntry) {f : Fld}
    (hf : ∀ x ∈ [R.ECCLOG_STATUS_LEVEL, R.ECCLOG_HEAD 0, R.ECCLOG_HEAD 1, R.ECCLOG_HEAD 2, R.ECCLOG_HEAD 3], f.key ≠ x.key) :
    (s.showLog l).rd f = s.rd f := (sameRegs.refl s _).showLog (fun _ h => h) l f hf

/-- An empty log shows 0 at every word of its head. -/
theorem State.showLog_nil_head (s : State) : ∀ i < 4, (s.showLog []).rd (R.ECCLOG_HEAD i) = 0 := by
  have hne {i j : Nat} (h : i ≠ j) : (R.ECCLOG_HEAD i).key ≠ (R.ECCLOG_HEAD j).key := (by simp only [Fld.key, R.ECCLOG_HEAD, ne_eq]; omega)
  have hl (i : Nat) : (R.ECCLOG_HEAD i).key ≠ R.ECCLOG_STATUS_LEVEL.key := (by simp only [Fld.key, R.ECCLOG_HEAD, R.ECCLOG_STATUS_LEVEL, ne_eq]; omega)
  intro i hi
  rw [State.showLog, State.wr_rd_ne _ _ _ _ (hl i)]
  simp only [if_true]
  obtain rfl | h3 := eq_or_ne i 3
  · rw [State.wr_rd_same]; rfl
  rw [State.wr_rd_ne _ _ _ _ (hne h3)]
  obtain rfl | h2 := eq_or_ne i 2
  · rw [State.wr_rd_same]; rfl
  rw [State.wr_rd_ne _ _ _ _ (hne h2)]
  obtain rfl | h1 := eq_or_ne i 1
  · rw [State.wr_rd_same]; rfl
  rw [State.wr_rd_ne _ _ _ _ (hne h1), show i = 0 by omega, State.wr_rd_same]
  rfl

theorem ecclogPop_pops : ∀ (s : State), ∃ t, exec .ecclogPop s = .next t ∧ t.ms.log = s.ms.log.tail ∧ t.rd R.ECCLOG_STATUS_LEVEL = (s.ms.log.length - 1) % 2 ^ R.ECCLOG_STATUS_LEVEL.w ∧
    t.ms.mem = s.ms.mem ∧ t.ans = acked ∧
    sameRegs s t [R.ECCLOG_STATUS_LEVEL, R.ECCLOG_HEAD 0, R.ECCLOG_HEAD 1, R.ECCLOG_HEAD 2, R.ECCLOG_HEAD 3] := by
  intro s
  show ∃ t, Host.Outcome.next (s.showLog s.ms.log.tail).ack = .next t ∧ _
  refine ⟨_, rfl, ?_, ?_, ?_, rfl, ((sameRegs.refl s _).showLog (fun _ h => h) _).ack⟩
  · rw [State.ack_ms, State.showLog_log]
  · rw [State.ack_rd, State.showLog_level, List.length_tail]
  · rw [State.ack_ms, State.showLog_mem]

theorem ecclogFlush_flushes : ∀ (s : State) (v : Word), R.ECCLOG_CTRL_FLUSH.of v = 1 → ∃ t, exec (.ecclogFlush v) s = .next t ∧ t.ms.log = [] ∧
    t.rd R.ECCLOG_STATUS_LEVEL = 0 ∧ t.rd R.ECCLOG_CTRL_IRQ_EN = R.ECCLOG_CTRL_IRQ_EN.of v ∧ (∀ i < 4, t.rd (R.ECCLOG_HEAD i) = 0) := by
  intro s v hv
  show ∃ t, execEcclogFlush v s = .next t ∧ _
  simp only [execEcclogFlush, hv, if_true]
  refine ⟨_, rfl, ?_, ?_, ?_, fun i hi => ?_⟩
  · rw [State.ack_ms, State.showLog_log]
  · rw [State.ack_rd, State.showLog_level]; rfl
  · rw [State.ack_rd, State.showLog_rd _ _ (by decide), State.wrWord_rd_mem v _ _ s (List.mem_singleton_self _) (by simp)]
  · rw [State.ack_rd, State.showLog_nil_head _ i hi]

theorem eccInject_locked : ∀ (s : State) (v : Word), s.wlOpen = false → exec (.eccInject v) s = .next { s with ans := acked } := by
  intro s v h
  show execEccInject v s = _
  simp only [execEccInject, h, Bool.not_false, if_true]
  rfl

/-! ### Injections -/

theorem regionOf_cellar_lt {a st p : Nat} (e : regionOf a = .cellar st p) : st < 2 := by
  unfold regionOf at e
  dsimp only at e
  split_ifs at e
  simp only [Region.cellar.injEq] at e
  omega

/-- The state `u` differs from `s` in the register ECC_INJECT_CTRL. -/
def InjectCtrl (s u : State) : Prop := u.ms = s.ms ∧ u.hml = s.hml ∧ ∀ f : Fld, f.key / 64 ≠ 0x41000100 → u.rd f = s.rd f

theorem InjectCtrl.wr {s u : State} (h : InjectCtrl s u) {f : Fld} (hf : f.key / 64 = 0x41000100) (n : Nat) : InjectCtrl s (u.wr f n) := by
  obtain ⟨hms, hhml, hrd⟩ := h
  exact ⟨hms, hhml, fun g hg => (State.wr_rd_ne u f g n (fun e => hg (e ▸ hf))).trans (hrd g hg)⟩

section
variable {s u : State} (h : InjectCtrl s u)
include h

theorem InjectCtrl.storeAddr (a : Nat) : u.storeAddr a = s.storeAddr a := by
  obtain ⟨-, hhml, -⟩ := h
  simp only [State.storeAddr, State.physOf, hhml]

theorem InjectCtrl.hamletOpen {k : Nat} (hk : k < 16) : u.hamletOpen k = s.hamletOpen k := by
  obtain ⟨hms, -, hrd⟩ := h
  rw [State.hamletOpen, State.hamletOpen, hms, hrd _ (by simp only [Fld.key, R.PWR_DOM_STATE]; omega)]

theorem InjectCtrl.regionRefuse (a : Nat) : u.regionRefuse (regionOf a) = s.regionRefuse (regionOf a) := by
  have hrd := h.2.2
  cases hr : regionOf a with
  | granary b => simp only [State.regionRefuse, hrd (R.GRANARY_BANK_PWR_STATE b) (by simp only [Fld.key, R.GRANARY_BANK_PWR_STATE]; omega)]
  | barn k => simp only [State.regionRefuse, h.hamletOpen (regionOf_barn_lt hr)]
  | plot k p => simp only [State.regionRefuse, h.hamletOpen (regionOf_plot_lt hr)]
  | imem k p =>
    have hk : k < 16 := by
      unfold regionOf at hr
      dsimp only at hr
      split_ifs at hr
      simp only [Region.imem.injEq] at hr
      omega
    simp only [State.regionRefuse, h.hamletOpen hk]
  | cellar st p =>
    have hst := regionOf_cellar_lt hr
    simp only [State.regionRefuse, hrd (R.PWR_DOM_STATE (45 + st)) (by simp only [Fld.key, R.PWR_DOM_STATE]; omega)]
  | hearth => rfl
  | bram k => rfl
  | unmapped => rfl
  | gap => rfl

theorem InjectCtrl.target (a : Nat) : u.target a = s.target a := by
  have hst := h.storeAddr a
  have hre := h.regionRefuse (s.storeAddr a)
  obtain ⟨-, hhml, hrd⟩ := h
  have hb (k : Nat) (hk : k < 16) : u.bit (R.HAMLET_SPARE_STATUS_BUSY k) = s.bit (R.HAMLET_SPARE_STATUS_BUSY k) := by
    rw [State.bit_eq, State.bit_eq, hrd _ (by simp only [Fld.key, R.HAMLET_SPARE_STATUS_BUSY]; omega)]
  have hc (k : Nat) := hrd (R.COPPICE_STOOL_STATUS_STATE k) (by simp only [Fld.key, R.COPPICE_STOOL_STATUS_STATE]; omega)
  simp only [State.target, hst, hre, hc, hhml]
  by_cases hin : 0x10000000 ≤ a ∧ a < 0x20000000 ∧ 0x800000 ≤ a % 0x01000000 ∧ a % 0x01000000 < 0xC80000
  · rw [hb _ (by omega)]
  · simp only [if_neg hin]

theorem InjectCtrl.injectable (a : Nat) : u.injectable a = s.injectable a := by
  rw [State.injectable, State.injectable, h.storeAddr, h.target]

end

/-- A write of ECC_INJECT_CTRL: its fields are written, and DONE and REFUSED are 0. -/
def State.injectBegun (s : State) (v : Word) : State :=
  ((s.wrWord v [R.ECC_INJECT_CTRL_CHECK_XOR, R.ECC_INJECT_CTRL_DATA_FLIP_A, R.ECC_INJECT_CTRL_DATA_FLIP_B]).wr R.ECC_INJECT_CTRL_DONE 0).wr
    R.ECC_INJECT_CTRL_REFUSED 0

theorem State.injectBegun_ctrl (s : State) (v : Word) : InjectCtrl s (State.injectBegun s v) := by
  have h0 : InjectCtrl s s := ⟨rfl, rfl, fun _ _ => rfl⟩
  exact ((((h0.wr (f := R.ECC_INJECT_CTRL_CHECK_XOR) (by decide) _).wr (f := R.ECC_INJECT_CTRL_DATA_FLIP_A) (by decide) _).wr
    (f := R.ECC_INJECT_CTRL_DATA_FLIP_B) (by decide) _).wr (by decide) _).wr (by decide) _

theorem State.injectBegun_rd (s : State) (v : Word) {f : Fld}
    (hf : f ∈ [R.ECC_INJECT_CTRL_CHECK_XOR, R.ECC_INJECT_CTRL_DATA_FLIP_A, R.ECC_INJECT_CTRL_DATA_FLIP_B]) : (State.injectBegun s v).rd f = f.of v := by
  have hd : f.key ≠ R.ECC_INJECT_CTRL_DONE.key ∧ f.key ≠ R.ECC_INJECT_CTRL_REFUSED.key ∧
      ∀ g ∈ [R.ECC_INJECT_CTRL_CHECK_XOR, R.ECC_INJECT_CTRL_DATA_FLIP_A, R.ECC_INJECT_CTRL_DATA_FLIP_B], g ≠ f → f.key ≠ g.key := by
    fin_cases hf <;> decide
  obtain ⟨hdone, href, hne⟩ := hd
  rw [State.injectBegun, State.wr_rd_ne _ _ _ _ href, State.wr_rd_ne _ _ _ _ hdone, State.wrWord_rd_mem v f _ s hf hne]

theorem execEccInject_go {s : State} {v : Word} (ho : s.wlOpen = true) (hg : R.ECC_INJECT_CTRL_GO.of v = 1) :
    execEccInject v s =
      if s.injectable (s.rd R.ECC_INJECT_ADDR_HI_ADDR * 2 ^ 32 + s.rd R.ECC_INJECT_ADDR_LO_ADDR * 8) then
        let st := s.storeAddr (s.rd R.ECC_INJECT_ADDR_HI_ADDR * 2 ^ 32 + s.rd R.ECC_INJECT_ADDR_LO_ADDR * 8)
        let w := (State.injectBegun s v).yieldFor st 0xB1
        let d1 := flipBit (w.ms.mem.rawData st) (w.rd R.ECC_INJECT_CTRL_DATA_FLIP_A)
        let d2 := if w.rd R.ECC_INJECT_CTRL_DATA_FLIP_B = w.rd R.ECC_INJECT_CTRL_DATA_FLIP_A then d1
          else flipBit d1 (w.rd R.ECC_INJECT_CTRL_DATA_FLIP_B)
        let x := (w.setMem (w.ms.mem.putRaw st d2
          (w.ms.mem.rawCheck st ^^^ BitVec.ofNat 8 (w.rd R.ECC_INJECT_CTRL_CHECK_XOR)))).wr R.ECC_INJECT_CTRL_DONE 1
        match (regionOf st).ids with
        | some ids => .next (x.logAt 10 ids 0 0 (s.rd R.ECC_INJECT_ADDR_HI_ADDR * 2 ^ 32 + s.rd R.ECC_INJECT_ADDR_LO_ADDR * 8) 255).ack
        | none => .next x.ack
      else .next ((State.injectBegun s v).wr R.ECC_INJECT_CTRL_REFUSED 1).ack := by
  have hc := State.injectBegun_ctrl s v
  have hhi := hc.2.2 R.ECC_INJECT_ADDR_HI_ADDR (by decide)
  have hlo := hc.2.2 R.ECC_INJECT_ADDR_LO_ADDR (by decide)
  rw [← hc.injectable, ← hc.storeAddr, ← hhi, ← hlo]
  simp only [execEccInject, ho, Bool.not_true, Bool.false_eq_true, if_false, hg, one_ne_zero]
  rfl

theorem eccInject_injects : ∀ (s : State) (v : Word) (ids : Nat × Nat), s.wlOpen = true → R.ECC_INJECT_CTRL_GO.of v = 1 →
    R.ECC_INJECT_CTRL_DATA_FLIP_A.of v = R.ECC_INJECT_CTRL_DATA_FLIP_B.of v →
    s.injectable (s.rd R.ECC_INJECT_ADDR_HI_ADDR * 2 ^ 32 + s.rd R.ECC_INJECT_ADDR_LO_ADDR * 8) = true →
    (∀ k, (s.ms.gleaners.get k).borrowed = false) →
    (regionOf (s.storeAddr (s.rd R.ECC_INJECT_ADDR_HI_ADDR * 2 ^ 32 + s.rd R.ECC_INJECT_ADDR_LO_ADDR * 8))).ids = some ids →
    ∃ t, exec (.eccInject v) s = .next t ∧ t.rd R.ECC_INJECT_CTRL_DONE = 1 ∧ t.rd R.ECC_INJECT_CTRL_REFUSED = 0 ∧ t.ans = acked ∧
      t.ms.mem = s.ms.mem.putRaw (s.storeAddr (s.rd R.ECC_INJECT_ADDR_HI_ADDR * 2 ^ 32 + s.rd R.ECC_INJECT_ADDR_LO_ADDR * 8))
        (flipBit (s.ms.mem.rawData (s.storeAddr (s.rd R.ECC_INJECT_ADDR_HI_ADDR * 2 ^ 32 + s.rd R.ECC_INJECT_ADDR_LO_ADDR * 8))) (R.ECC_INJECT_CTRL_DATA_FLIP_A.of v))
        (s.ms.mem.rawCheck (s.storeAddr (s.rd R.ECC_INJECT_ADDR_HI_ADDR * 2 ^ 32 + s.rd R.ECC_INJECT_ADDR_LO_ADDR * 8)) ^^^
          BitVec.ofNat 8 (R.ECC_INJECT_CTRL_CHECK_XOR.of v)) := by
  intro s v ids ho hg hflip hinj hgl hids
  have hms : (State.injectBegun s v).ms = s.ms := (State.injectBegun_ctrl s v).1
  show ∃ t, execEccInject v s = .next t ∧ _
  rw [execEccInject_go ho hg, if_pos hinj]
  dsimp only
  rw [State.yieldFor_of_none_borrowed (s := State.injectBegun s v) (by rw [hms]; exact hgl), hids,
    State.injectBegun_rd s v (f := R.ECC_INJECT_CTRL_DATA_FLIP_A) (by simp), State.injectBegun_rd s v (f := R.ECC_INJECT_CTRL_DATA_FLIP_B) (by simp),
    State.injectBegun_rd s v (f := R.ECC_INJECT_CTRL_CHECK_XOR) (by simp), hflip, if_pos rfl, hms]
  dsimp only
  refine ⟨_, rfl, ?_, ?_, rfl, ?_⟩
  · rw [State.ack_rd, State.logAt_rd _ (by decide), State.wr_rd_same]; rfl
  · rw [State.ack_rd, State.logAt_rd _ (by decide), State.wr_rd_ne _ _ _ _ (by decide), State.setMem_rd, State.injectBegun, State.wr_rd_same]; rfl
  · rw [State.ack_ms, State.logAt_mem, State.wr_ms]; rfl

theorem eccInject_refused : ∀ (s : State) (v : Word), s.wlOpen = true → R.ECC_INJECT_CTRL_GO.of v = 1 →
    s.injectable (s.rd R.ECC_INJECT_ADDR_HI_ADDR * 2 ^ 32 + s.rd R.ECC_INJECT_ADDR_LO_ADDR * 8) = false →
    ∃ t, exec (.eccInject v) s = .next t ∧ t.rd R.ECC_INJECT_CTRL_DONE = 0 ∧ t.rd R.ECC_INJECT_CTRL_REFUSED = 1 ∧ t.ms = s.ms := by
  intro s v ho hg hinj
  show ∃ t, execEccInject v s = .next t ∧ _
  rw [execEccInject_go ho hg, if_neg (by rw [hinj]; decide)]
  refine ⟨_, rfl, ?_, State.wr_rd_same _ _ _, ?_⟩
  · rw [State.ack_rd, State.wr_rd_ne _ _ _ _ (by decide), State.injectBegun, State.wr_rd_ne _ _ _ _ (by decide), State.wr_rd_same]; rfl
  · rw [State.ack_ms, State.wr_ms]
    exact (State.injectBegun_ctrl s v).1

/-- Settles O35: each clause is a lemma above about one command. -/
theorem errorLogAndInjection : Obligations.ErrorLogAndInjection :=
  ⟨ecclogPop_pops, ecclogFlush_flushes, eccInject_locked, eccInject_injects, eccInject_refused⟩

end Sys2Proof.Claims

/-! ## O36: the Harrow and the Gleaner -/

namespace Sys2Proof.Claims

set_option Elab.async false

open Sys2Proof.Machine

theorem State.harrowCause_le (s : State) (v : Word) : s.harrowCause v ≤ 4 := by
  unfold State.harrowCause
  dsimp only
  split_ifs <;> decide

theorem harrowStart_starts : ∀ (s : State) (v : Word) (ok : Bool), bitOf v 31 = true → s.harrowCause v = 0 → bitsOf v 28 2 = 0 →
    ∃ t, exec (.harrowStart v ok) s = .next t ∧ t.rd R.HARROW_STATUS_STATE = 1 ∧ t.rd (R.GRANARY_BANK_PWR_STATE (bitsOf v 22 6)) = 6 ∧
      t.rd R.HARROW_STATUS_RESULT = 0 ∧ t.ms.mem = s.ms.mem ∧ t.ans = acked ∧
      sameRegs s t [R.HARROW_STATUS_STATE, R.HARROW_STATUS_RESULT, R.HARROW_STATUS_CAUSE, R.GRANARY_BANK_PWR_STATE (bitsOf v 22 6)] := by
  intro s v ok hv hc ht
  show ∃ t, execHarrowStart v ok s = .next t ∧ _
  simp only [execHarrowStart, hv, hc, ht, Bool.not_true, Bool.false_eq_true, if_false, if_true]
  have hne : R.HARROW_STATUS_STATE.key ≠ (R.GRANARY_BANK_PWR_STATE (bitsOf v 22 6)).key := (by simp only [Fld.key, R.HARROW_STATUS_STATE, R.GRANARY_BANK_PWR_STATE, ne_eq]; omega)
  have hne' : R.HARROW_STATUS_RESULT.key ≠ (R.GRANARY_BANK_PWR_STATE (bitsOf v 22 6)).key := (by simp only [Fld.key, R.HARROW_STATUS_RESULT, R.GRANARY_BANK_PWR_STATE, ne_eq]; omega)
  have h0 : sameRegs s (((s.wr R.HARROW_STATUS_STATE 1).wr R.HARROW_STATUS_RESULT 0).wr R.HARROW_STATUS_CAUSE 0)
      [R.HARROW_STATUS_STATE, R.HARROW_STATUS_RESULT, R.HARROW_STATUS_CAUSE, R.GRANARY_BANK_PWR_STATE (bitsOf v 22 6)] :=
    (((sameRegs.refl s _).wr (by simp) _).wr (by simp) _).wr (by simp) _
  have hs : (((s.wr R.HARROW_STATUS_STATE 1).wr R.HARROW_STATUS_RESULT 0).wr R.HARROW_STATUS_CAUSE 0).rd R.HARROW_STATUS_STATE = 1 := by
    rw [State.wr_rd_ne _ _ _ _ (by decide), State.wr_rd_ne _ _ _ _ (by decide), State.wr_rd_same]; rfl
  have hr : (((s.wr R.HARROW_STATUS_STATE 1).wr R.HARROW_STATUS_RESULT 0).wr R.HARROW_STATUS_CAUSE 0).rd R.HARROW_STATUS_RESULT = 0 := by
    rw [State.wr_rd_ne _ _ _ _ (by decide), State.wr_rd_same]; rfl
  have hm : (((s.wr R.HARROW_STATUS_STATE 1).wr R.HARROW_STATUS_RESULT 0).wr R.HARROW_STATUS_CAUSE 0).ms = s.ms := by
    rw [State.wr_ms, State.wr_ms, State.wr_ms]
  generalize ((s.wr R.HARROW_STATUS_STATE 1).wr R.HARROW_STATUS_RESULT 0).wr R.HARROW_STATUS_CAUSE 0 = t at h0 hs hr hm ⊢
  have h1 : sameRegs s { t with ms := { t.ms with harrow := ⟨0, bitsOf v 22 6, bitOf v 21, bitOf v 20, bitsOf v 16 4⟩ } } _ := h0.of_regs rfl
  refine ⟨_, rfl, ?_, ?_, ?_, ?_, rfl, (h1.wr (by simp) _).ack⟩
  · rw [State.ack_rd, State.wr_rd_ne _ _ _ _ hne]
    exact hs
  · rw [State.ack_rd, State.wr_rd_same]; rfl
  · rw [State.ack_rd, State.wr_rd_ne _ _ _ _ hne']
    exact hr
  · rw [State.ack_ms, State.wr_ms, ← hm]

theorem harrowStart_refused : ∀ (s : State) (v : Word) (ok : Bool) (c : Nat), bitOf v 31 = true → s.harrowCause v = c → c ≠ 0 →
    ∃ t, exec (.harrowStart v ok) s = .next t ∧ t.rd R.HARROW_STATUS_RESULT = 3 ∧ t.rd R.HARROW_STATUS_CAUSE = c ∧ t.ms = s.ms ∧
      sameRegs s t [R.HARROW_STATUS_RESULT, R.HARROW_STATUS_CAUSE] := by
  intro s v ok c hv hc h0
  have hlt : c < 16 := by
    have := State.harrowCause_le s v
    omega
  have he : execHarrowStart v ok s = .next (s.harrowRefuse c).ack := by
    simp only [execHarrowStart, hv, Bool.not_true, Bool.false_eq_true, if_false]
    split
    · next h => exact absurd (hc.symm.trans h) h0
    · rw [hc]
  refine ⟨_, he, ?_, ?_, ?_, (((sameRegs.refl s _).wr (by simp) _).wr (by simp) _).ack⟩
  · rw [State.ack_rd, State.harrowRefuse, State.wr_rd_ne _ _ _ _ (by decide), State.wr_rd_same]; rfl
  · rw [State.ack_rd, State.harrowRefuse, State.wr_rd_same]
    exact Nat.mod_eq_of_lt hlt
  · rw [State.ack_ms, State.harrowRefuse, State.wr_ms, State.wr_ms]

/-- The registers of a test that ends without a failing row. -/
def State.harrowPassed (s : State) : State :=
  (((s.wr R.HARROW_STATUS_ROWS_REPAIRED 0).wr R.HARROW_STATUS_FAIL_CORES 0).wr R.HARROW_FAIL_ADDR 0).wr R.HARROW_STATUS_STATE 2

theorem harrowTestEnd_passes : ∀ (s : State), s.rd R.HARROW_STATUS_STATE = 1 → s.rd R.HARROW_STATUS_RESULT = 0 → s.ms.harrow.target = 0 →
    s.ms.harrow.preserve = false → ∃ t, exec (.harrowTestEnd []) s = .next t ∧ t.rd R.HARROW_STATUS_STATE = 2 ∧
      t.rd (R.GRANARY_BANK_PWR_STATE s.ms.harrow.inst) = 0 ∧ t.rd R.HARROW_STATUS_ROWS_REPAIRED = 0 ∧
      (∀ a, s.ms.harrow.inst * 0x100000 ≤ a → a < (s.ms.harrow.inst + 1) * 0x100000 → t.ms.mem.data.get a = 0) := by
  intro s hst hres htgt hpre
  have hres' : (State.harrowPassed s).rd R.HARROW_STATUS_RESULT = 0 := by
    rw [State.harrowPassed, State.wr_rd_ne _ _ _ _ (by decide), State.wr_rd_ne _ _ _ _ (by decide), State.wr_rd_ne _ _ _ _ (by decide),
      State.wr_rd_ne _ _ _ _ (by decide), hres]
  have hrow : (State.harrowPassed s).rd R.HARROW_STATUS_ROWS_REPAIRED = 0 := by
    rw [State.harrowPassed, State.wr_rd_ne _ _ _ _ (by decide), State.wr_rd_ne _ _ _ _ (by decide), State.wr_rd_ne _ _ _ _ (by decide), State.wr_rd_same]; rfl
  have hend : (State.harrowPassed s).rd R.HARROW_STATUS_STATE = 2 := State.wr_rd_same _ _ _
  have he : execHarrowTestEnd [] s = .next (((State.harrowPassed s).setMem ((State.harrowPassed s).ms.mem.fill (s.ms.harrow.inst * 0x100000)
      ((s.ms.harrow.inst + 1) * 0x100000))).wr (R.GRANARY_BANK_PWR_STATE s.ms.harrow.inst) 0) := by
    have hne : ¬(State.harrowPassed s).rd R.HARROW_STATUS_RESULT = 2 := by omega
    unfold State.harrowPassed at hne
    simp only [execHarrowTestEnd, hst, htgt, hpre, if_true, List.map_nil, State.harrowRows, if_neg hne, Bool.false_eq_true, if_false]
    rfl
  generalize State.harrowPassed s = t at *
  refine ⟨_, he, ?_, ?_, ?_, fun a hlo hhi => ?_⟩
  · rw [State.wr_rd_ne _ _ _ _ (by simp only [Fld.key, R.HARROW_STATUS_STATE, R.GRANARY_BANK_PWR_STATE, ne_eq]; omega)]
    exact hend
  · rw [State.wr_rd_same]; rfl
  · rw [State.wr_rd_ne _ _ _ _ (by simp only [Fld.key, R.HARROW_STATUS_ROWS_REPAIRED, R.GRANARY_BANK_PWR_STATE, ne_eq]; omega)]
    exact hrow
  · rw [State.wr_ms]
    exact t.ms.mem.fill_data_in hlo hhi

/-! ### The Gleaner -/

theorem gleanerRegionStart_borrows : ∀ (s : State) (m : Fin 8) (n : Fin 256), s.gleanDue m n = true → ∃ t, exec (.gleanerRegionStart m n [] .beforePattern) s = .next t ∧
    (t.ms.gleaners.get (gleanKey m n)).borrowed = true ∧ (t.ms.gleaners.get (gleanKey m n)).region = (s.ms.gleaners.get (gleanKey m n)).next ∧
    t.ms.mem = s.ms.mem ∧ t.regs = s.regs := by
  intro s m n hd
  show ∃ t, execGleanerRegionStart m n [] .beforePattern s = .next t ∧ _
  simp only [execGleanerRegionStart, hd, if_true]
  have hg (g : Gleaner) : (s.setGleaner (gleanKey m n) g).ms.gleaners.get (gleanKey m n) = g := Tab.get_set_same _ _ _
  refine ⟨_, rfl, ?_, ?_, rfl, rfl⟩
  · rw [hg]
  · rw [hg]

theorem State.countWait_ms (s : State) (a : Nat) (mid : Mid) (w : Nat) : (s.countWait a mid w).ms = s.ms :=
  (keeps_countWait (.refl partsButMs s) (by decide) a mid w).same_ms

/-- The wait counters are not the Gleaner's. -/
theorem State.countWait_yields (s : State) (a : Nat) (mid : Mid) (w : Nat) : (s.countWait a mid w).rd R.GLEANER_YIELDS = s.rd R.GLEANER_YIELDS := by
  unfold State.countWait
  split_ifs
  · rfl
  split
  · rw [State.add, State.wr_rd_ne _ _ _ _ (by simp only [Fld.key, R.GLEANER_YIELDS, R.GRANARY_WAIT, ne_eq]; omega), State.inc, State.add, State.wr_rd_ne _ _ _ _ (by simp only [Fld.key, R.GLEANER_YIELDS, R.GRANARY_CONFLICT, ne_eq]; omega)]
  · rw [State.add, State.wr_rd_ne _ _ _ _ (by simp only [Fld.key, R.GLEANER_YIELDS, R.CELLAR_WAIT, ne_eq]; omega), State.inc, State.add, State.wr_rd_ne _ _ _ _ (by simp only [Fld.key, R.GLEANER_YIELDS, R.CELLAR_CONFLICT, ne_eq]; omega)]
  · next h hr =>
    have := regionOf_barn_lt hr
    dsimp only
    have hn : (if 9 * h ≤ mid.toNat ∧ mid.toNat < 9 * h + 9 ∧ mid.toNat < 0x90 then mid.toNat - 9 * h else if mid.toNat = 0x90 + h then 9 else 11) < 12 := by
      split_ifs <;> omega
    rw [State.add, State.wr_rd_ne _ _ _ _ (by simp only [Fld.key, R.GLEANER_YIELDS, R.HAMLET_BARN_WAIT, ne_eq]; omega), State.inc, State.add,
      State.wr_rd_ne _ _ _ _ (by simp only [Fld.key, R.GLEANER_YIELDS, R.HAMLET_BARN_CONFLICT, ne_eq]; omega)]
  · next h p hr =>
    have := regionOf_plot_lt hr
    have := State.logicalOf_le s h p
    rw [State.add, State.wr_rd_ne _ _ _ _ (by simp only [Fld.key, R.GLEANER_YIELDS, R.PLOT_EXT_WAIT, ne_eq]; omega), State.inc, State.add, State.wr_rd_ne _ _ _ _ (by simp only [Fld.key, R.GLEANER_YIELDS, R.PLOT_EXT_CONFLICT, ne_eq]; omega)]
  · rfl

theorem gleanerYield_yields : ∀ (s : State) (m : Fin 8) (n : Fin 256) (mid : Mid), m.val ≠ 4 → (s.ms.gleaners.get (gleanKey m n)).borrowed = true →
    (s.ms.gleaners.get (gleanKey m n)).wrote = false → ∃ t, exec (.gleanerYield m n mid) s = .next t ∧
    (t.ms.gleaners.get (gleanKey m n)).borrowed = false ∧
    (t.ms.gleaners.get (gleanKey m n)).next = (s.ms.gleaners.get (gleanKey m n)).region ∧ t.ms.mem = s.ms.mem ∧
    t.rd R.GLEANER_YIELDS = (s.rd R.GLEANER_YIELDS + 1) % 2 ^ R.GLEANER_YIELDS.w := by
  intro s m n mid h4 hb hw
  show ∃ t, execGleanerYield m n mid s = .next t ∧ _
  simp only [execGleanerYield, if_neg h4, State.gleanYield, hb, hw, if_true, Bool.false_eq_true, if_false]
  have hg (g : Gleaner) : (s.setGleaner (gleanKey m n) g).ms.gleaners.get (gleanKey m n) = g := Tab.get_set_same _ _ _
  refine ⟨_, rfl, ?_, ?_, ?_, ?_⟩
  · rw [State.countWait_ms, State.inc_ms, hg]
  · rw [State.countWait_ms, State.inc_ms, hg]
  · rw [State.countWait_ms, State.inc_ms]; rfl
  · rw [State.countWait_yields]
    exact State.wr_rd_same _ _ _

/-- Settles O36: each clause is a lemma above about one command. -/
theorem harrowAndGleaner : Obligations.HarrowAndGleaner :=
  ⟨harrowStart_starts, harrowStart_refused, harrowTestEnd_passes, gleanerRegionStart_borrows, gleanerYield_yields⟩

end Sys2Proof.Claims

/-! ## O37: route tables, ports, barriers and probes under command -/

namespace Sys2Proof.Machine

set_option Elab.async false

@[simp] theorem State.setNet_net (s : State) (f : Commons → Commons) : (s.setNet f).net = f s.net := rfl
@[simp] theorem State.setNet_rd (s : State) (f : Commons → Commons) (x : Fld) : (s.setNet f).rd x = s.rd x := rfl
@[simp] theorem State.setNet_bit (s : State) (f : Commons → Commons) (x : Fld) : (s.setNet f).bit x = s.bit x := rfl

theorem State.wrB_bit (s : State) (f : Fld) (b : Bool) (h : f.w = 1) : (s.wrB f b).bit f = b := by
  rw [State.wrB, State.bit_eq, State.wr_rd_same, h]
  cases b <;> rfl

theorem State.wrB_bit_ne (s : State) {f g : Fld} (b : Bool) (h : g.key ≠ f.key) : (s.wrB f b).bit g = s.bit g := State.wr_bit_ne s _ _ _ h

/-- A route entry reads the same where its five fields do. -/
theorem State.route_congr {s t : State} {n d : Nat} (h : ∀ f ∈ [R.COMMONS_NI_ROUTE_A_VALID n d, R.COMMONS_NI_ROUTE_A_CLOSED n d,
    R.COMMONS_NI_ROUTE_A_FIRST n d, R.COMMONS_NI_ROUTE_A_HOPS n d, R.COMMONS_NI_ROUTE_B_CODES n d], t.rd f = s.rd f) : t.route n d = s.route n d := by
  simp only [List.forall_mem_cons] at h
  obtain ⟨hv, hc, hf, hh, hb, -⟩ := h
  simp only [State.route, State.bit_eq, hv, hc, hf, hh, hb]

/-- Registers below the NIs' tables are no part of a route. -/
theorem State.wr_route (s : State) {f : Fld} (hf : f.key < 0x46020000 * 64) (v n d : Nat) : (s.wr f v).route n d = s.route n d := by
  refine State.route_congr fun g hg => State.wr_rd_ne _ _ _ _ ?_
  have : 0x46020800 * 64 ≤ g.key := by
    fin_cases hg <;> simp only [Fld.key, R.COMMONS_NI_ROUTE_A_VALID, R.COMMONS_NI_ROUTE_A_CLOSED, R.COMMONS_NI_ROUTE_A_FIRST, R.COMMONS_NI_ROUTE_A_HOPS,
      R.COMMONS_NI_ROUTE_B_CODES] <;> omega
  omega

/-- An entry's five fields written. -/
def State.wrRoute (s : State) (n d : Nat) (e : RouteEntry) : State :=
  ((((s.wrB (R.COMMONS_NI_ROUTE_A_VALID n d) e.valid).wrB (R.COMMONS_NI_ROUTE_A_CLOSED n d) e.closed).wr
    (R.COMMONS_NI_ROUTE_A_FIRST n d) e.first).wr (R.COMMONS_NI_ROUTE_A_HOPS n d) e.hops).wr
    (R.COMMONS_NI_ROUTE_B_CODES n d) e.codes

theorem State.wrRoute_route (s : State) (n d a b : Nat) : (s.wrRoute n d (routeOf a b)).route n d = routeOf a b := by
  have hvc : (R.COMMONS_NI_ROUTE_A_VALID n d).key ≠ (R.COMMONS_NI_ROUTE_A_CLOSED n d).key := (by simp only [Fld.key, R.COMMONS_NI_ROUTE_A_VALID, R.COMMONS_NI_ROUTE_A_CLOSED, ne_eq]; omega)
  have hvf : (R.COMMONS_NI_ROUTE_A_VALID n d).key ≠ (R.COMMONS_NI_ROUTE_A_FIRST n d).key := (by simp only [Fld.key, R.COMMONS_NI_ROUTE_A_VALID, R.COMMONS_NI_ROUTE_A_FIRST, ne_eq]; omega)
  have hvh : (R.COMMONS_NI_ROUTE_A_VALID n d).key ≠ (R.COMMONS_NI_ROUTE_A_HOPS n d).key := (by simp only [Fld.key, R.COMMONS_NI_ROUTE_A_VALID, R.COMMONS_NI_ROUTE_A_HOPS, ne_eq]; omega)
  have hvb : (R.COMMONS_NI_ROUTE_A_VALID n d).key ≠ (R.COMMONS_NI_ROUTE_B_CODES n d).key := (by simp only [Fld.key, R.COMMONS_NI_ROUTE_A_VALID, R.COMMONS_NI_ROUTE_B_CODES, ne_eq]; omega)
  have hcf : (R.COMMONS_NI_ROUTE_A_CLOSED n d).key ≠ (R.COMMONS_NI_ROUTE_A_FIRST n d).key := (by simp only [Fld.key, R.COMMONS_NI_ROUTE_A_CLOSED, R.COMMONS_NI_ROUTE_A_FIRST, ne_eq]; omega)
  have hch : (R.COMMONS_NI_ROUTE_A_CLOSED n d).key ≠ (R.COMMONS_NI_ROUTE_A_HOPS n d).key := (by simp only [Fld.key, R.COMMONS_NI_ROUTE_A_CLOSED, R.COMMONS_NI_ROUTE_A_HOPS, ne_eq]; omega)
  have hcb : (R.COMMONS_NI_ROUTE_A_CLOSED n d).key ≠ (R.COMMONS_NI_ROUTE_B_CODES n d).key := (by simp only [Fld.key, R.COMMONS_NI_ROUTE_A_CLOSED, R.COMMONS_NI_ROUTE_B_CODES, ne_eq]; omega)
  have hfh : (R.COMMONS_NI_ROUTE_A_FIRST n d).key ≠ (R.COMMONS_NI_ROUTE_A_HOPS n d).key := (by simp only [Fld.key, R.COMMONS_NI_ROUTE_A_FIRST, R.COMMONS_NI_ROUTE_A_HOPS, ne_eq]; omega)
  have hfb : (R.COMMONS_NI_ROUTE_A_FIRST n d).key ≠ (R.COMMONS_NI_ROUTE_B_CODES n d).key := (by simp only [Fld.key, R.COMMONS_NI_ROUTE_A_FIRST, R.COMMONS_NI_ROUTE_B_CODES, ne_eq]; omega)
  have hhb : (R.COMMONS_NI_ROUTE_A_HOPS n d).key ≠ (R.COMMONS_NI_ROUTE_B_CODES n d).key := (by simp only [Fld.key, R.COMMONS_NI_ROUTE_A_HOPS, R.COMMONS_NI_ROUTE_B_CODES, ne_eq]; omega)
  have h1 : (R.COMMONS_NI_ROUTE_A_VALID n d).w = 1 := rfl
  have h2 : (R.COMMONS_NI_ROUTE_A_CLOSED n d).w = 1 := rfl
  simp only [State.route, State.wrRoute, State.wr_bit_ne _ _ _ _ hvb, State.wr_bit_ne _ _ _ _ hvh, State.wr_bit_ne _ _ _ _ hvf, State.wrB_bit_ne _ _ hvc,
    State.wrB_bit _ _ _ h1, State.wr_bit_ne _ _ _ _ hcb, State.wr_bit_ne _ _ _ _ hch, State.wr_bit_ne _ _ _ _ hcf, State.wrB_bit _ _ _ h2,
    State.wr_rd_ne _ _ _ _ hfb, State.wr_rd_ne _ _ _ _ hfh, State.wr_rd_ne _ _ _ _ hhb, State.wr_rd_same, routeOf]
  congr 1 <;> exact Nat.mod_mod _ _

/-- HOLDING is no part of a route. -/
theorem State.showHold_route (s : State) (n d : Nat) : (s.showHold n).route n d = s.route n d := by
  refine State.route_congr fun g hg => State.wr_rd_ne _ _ _ _ ?_
  fin_cases hg <;> simp only [Fld.key, R.COMMONS_NI_ROUTE_A_VALID, R.COMMONS_NI_ROUTE_A_CLOSED, R.COMMONS_NI_ROUTE_A_FIRST, R.COMMONS_NI_ROUTE_A_HOPS,
    R.COMMONS_NI_ROUTE_B_CODES, R.COMMONS_NI_STATUS_HOLDING] <;> omega

/-- An entry that takes effect is what its route reads as. -/
theorem State.applyRoute_route (s : State) (x : StagedRoute) : (s.applyRoute x).route x.src x.dest = routeOf x.a x.b := by
  unfold State.applyRoute
  dsimp only
  generalize (s.useSub _).useAdd _ = t
  have h : (t.wrRoute x.src x.dest (routeOf x.a x.b)).route x.src x.dest = routeOf x.a x.b := t.wrRoute_route x.src x.dest x.a x.b
  unfold State.wrRoute at h
  split
  · exact h
  · rw [State.showHold_route]
    exact h

end Sys2Proof.Machine

namespace Sys2Proof.Claims

set_option Elab.async false

open Sys2Proof.Machine

/-! ### Routes -/

theorem find_staged_none {l : List StagedRoute} {n d : Nat} (h : ∀ x ∈ l, ¬(x.src = n ∧ x.dest = d)) :
    l.find? (fun x => x.src == n && x.dest == d) = none :=
  List.find?_eq_none.mpr fun x hx => by simpa using h x hx

theorem filter_staged_all {l : List StagedRoute} {n d : Nat} (h : ∀ x ∈ l, ¬(x.src = n ∧ x.dest = d)) :
    l.filter (fun y => !(y.src == n && y.dest == d)) = l :=
  List.filter_eq_self.mpr fun x hx => by simpa using not_and_or.mp (h x hx)

theorem routeEntryStage_stages : ∀ (s : State) (n d : Fin 256) (v : Word), niPresent n = true → s.bit R.COMMONS_STATUS_ARMED3 = false →
    (∀ x ∈ s.net.staged, ¬ (x.src = n.val ∧ x.dest = d.val)) → s.routeFault n d (routeOf v.toNat (s.route n d).codes) = none →
    ∃ t, exec (.routeEntryStage n d false v) s = .next t ∧ t.net.staged = s.net.staged ++ [⟨n, d, v.toNat, (s.route n d).codes⟩] ∧
      t.rd R.COMMONS_STATUS_STAGED = 1 ∧ sameRegs s t [R.COMMONS_STATUS_STAGED] ∧ t.route n d = s.route n d := by
  intro s n d v hn ha hst hok
  show ∃ t, execRouteEntryStage n d false v s = .next t ∧ _
  simp only [execRouteEntryStage, hn, ha, Bool.not_true, Bool.false_eq_true, if_false, find_staged_none hst, Option.getD_none, hok]
  refine ⟨_, rfl, ?_, State.wr_rd_same _ _ _, ?_, State.wr_route _ (by decide) _ _ _⟩
  · simp only [State.wr_net, State.setNet_net, filter_staged_all hst]
  · exact ((sameRegs.refl s _).of_regs (u := s.setNet _) rfl).wr (by simp) _

theorem routeEntryStage_second : ∀ (s : State) (n d : Fin 256) (v : Word) (a b : Nat), niPresent n = true → s.bit R.COMMONS_STATUS_ARMED3 = false →
    s.net.staged = [⟨n, d, a, b⟩] → s.routeFault n d (routeOf a v.toNat) = none → ∃ t, exec (.routeEntryStage n d true v) s = .next t ∧
      t.net.staged = [⟨n, d, a, v.toNat⟩] ∧ t.route n d = s.route n d := by
  intro s n d v a b hn ha hst hok
  show ∃ t, execRouteEntryStage n d true v s = .next t ∧ _
  have hf : s.net.staged.find? (fun x => x.src == n.val && x.dest == d.val) = some ⟨n, d, a, b⟩ := by rw [hst]; simp
  simp only [execRouteEntryStage, hn, ha, Bool.not_true, Bool.false_eq_true, if_false, hf, Option.getD_some, if_true, hok]
  refine ⟨_, rfl, ?_, State.wr_route _ (by decide) _ _ _⟩
  simp [hst]

theorem State.routeFault_le {s : State} {n d c : Nat} {e : RouteEntry} (h : s.routeFault n d e = some c) : c ≤ 5 := by
  unfold State.routeFault at h
  split at h
  · cases h
  split at h
  · cases h; decide
  split at h
  · cases h; decide
  split_ifs at h <;> cases h <;> decide

/-- What a rejected entry leaves. -/
theorem State.rejectRoute_rd (s : State) {c : Nat} (hc : c < 7) (n d : Nat) :
    (s.rejectRoute c n d).rd R.COMMONS_STATUS_ROUTE_REJECTED = 1 ∧ (s.rejectRoute c n d).rd R.COMMONS_REJECT_CAUSE = c ∧
      (s.rejectRoute c n d).rd R.COMMONS_REJECT_SRC_NI = n % 256 ∧ (s.rejectRoute c n d).rd R.COMMONS_REJECT_DEST_NI = d % 256 ∧
      (s.rejectRoute c n d).rd R.COMMONS_STATUS_EPOCH = s.rd R.COMMONS_STATUS_EPOCH := by
  have hz : decide (7 ≤ c) = false := decide_eq_false (by omega)
  simp only [State.rejectRoute, hz, Bool.false_eq_true, if_false]
  refine ⟨?_, ?_, ?_, State.wr_rd_same _ _ _, ?_⟩
  · rw [State.wr_rd_ne _ _ _ _ (by decide), State.wr_rd_ne _ _ _ _ (by decide), State.wr_rd_ne _ _ _ _ (by decide), State.wr_rd_same]; rfl
  · rw [State.wr_rd_ne _ _ _ _ (by decide), State.wr_rd_ne _ _ _ _ (by decide), State.wr_rd_same]
    exact Nat.mod_eq_of_lt (show c < 16 by omega)
  · rw [State.wr_rd_ne _ _ _ _ (by decide), State.wr_rd_same]; rfl
  · rw [State.wr_rd_ne _ _ _ _ (by decide), State.wr_rd_ne _ _ _ _ (by decide), State.wr_rd_ne _ _ _ _ (by decide), State.wr_rd_ne _ _ _ _ (by decide)]

theorem routeEntryStage_rejects : ∀ (s : State) (n d : Fin 256) (v : Word) (c : Nat), niPresent n = true → s.bit R.COMMONS_STATUS_ARMED3 = false →
    (∀ x ∈ s.net.staged, ¬ (x.src = n.val ∧ x.dest = d.val)) → s.routeFault n d (routeOf v.toNat (s.route n d).codes) = some c →
    ∃ t, exec (.routeEntryStage n d false v) s = .next t ∧ t.net = s.net ∧ t.rd R.COMMONS_STATUS_ROUTE_REJECTED = 1 ∧
      t.rd R.COMMONS_REJECT_CAUSE = c ∧ t.rd R.COMMONS_REJECT_SRC_NI = n ∧ t.rd R.COMMONS_REJECT_DEST_NI = d := by
  intro s n d v c hn ha hst hbad
  have hc := State.routeFault_le hbad
  show ∃ t, execRouteEntryStage n d false v s = .next t ∧ _
  simp only [execRouteEntryStage, hn, ha, Bool.not_true, Bool.false_eq_true, if_false, find_staged_none hst, Option.getD_none, hbad]
  obtain ⟨hrej, hcause, hsrc, hdest, -⟩ := State.rejectRoute_rd s (show c < 7 by omega) n d
  exact ⟨_, rfl, rfl, hrej, hcause, hsrc.trans (Nat.mod_eq_of_lt n.isLt), hdest.trans (Nat.mod_eq_of_lt d.isLt)⟩

theorem routeAdvance_starts : ∀ (s : State) (x : StagedRoute), s.net.staged = [x] → s.epochBusy = false → ∃ t, exec .routeAdvance s = .next t ∧
    t.route x.src x.dest = routeOf x.a x.b ∧ t.net.staged = [] ∧ t.rd R.COMMONS_STATUS_STAGED = 0 ∧
    t.rd R.COMMONS_STATUS_EPOCH = (s.rd R.COMMONS_STATUS_EPOCH + 1) % 4 := by
  intro s x hst hb
  show ∃ t, execRouteAdvance s = .next t ∧ _
  simp only [execRouteAdvance, hst, hb, Bool.false_eq_true, if_false, State.startEpoch, List.foldl_cons, List.foldl_nil]
  have happ := State.applyRoute_route s x
  generalize s.applyRoute x = u at happ ⊢
  refine ⟨_, rfl, ?_, rfl, State.wr_rd_same _ _ _, ?_⟩
  · rw [State.wr_route _ (by decide)]
    exact (State.wr_route u (by decide) _ _ _).trans happ
  · rw [State.wr_rd_ne _ _ _ _ (by decide), State.setNet_rd, State.wr_rd_same]
    exact Nat.mod_mod _ _

theorem routeAdvance_busy : ∀ (s : State) (x : StagedRoute) (l : List StagedRoute), s.net.staged = x :: l → s.epochBusy = true → ∃ t, exec .routeAdvance s = .next t ∧
    t.net = s.net ∧ t.rd R.COMMONS_STATUS_ROUTE_REJECTED = 1 ∧ t.rd R.COMMONS_REJECT_CAUSE = 6 ∧
    t.rd R.COMMONS_STATUS_EPOCH = s.rd R.COMMONS_STATUS_EPOCH := by
  intro s x l hst hb
  show ∃ t, execRouteAdvance s = .next t ∧ _
  simp only [execRouteAdvance, hst, hb, if_true]
  obtain ⟨hrej, hcause, -, -, hep⟩ := State.rejectRoute_rd s (show 6 < 7 by decide) x.src x.dest
  exact ⟨_, rfl, rfl, hrej, hcause, hep⟩

theorem routeDiscardStage_discards : ∀ (s : State), ∃ t, exec .routeDiscardStage s = .next t ∧ t.net.staged = [] ∧ t.rd R.COMMONS_STATUS_STAGED = 0 ∧
    sameRegs s t [R.COMMONS_STATUS_STAGED] := fun s =>
  ⟨_, rfl, rfl, State.wr_rd_same _ _ _, ((sameRegs.refl s _).of_regs (u := s.setNet _) rfl).wr (List.mem_singleton_self _) _⟩

/-! ### Ports -/

theorem State.setPortSt_portSt (s : State) (r p : Nat) {st : Nat} (h : st < 8) : (s.setPortSt r p st).portSt r p = st :=
  (State.wr_rd_same s (R.COMMONS_RTR_PORT_STATUS_STATE r p) st).trans (Nat.mod_eq_of_lt h)

theorem sameRegs.setPortSt {s t : State} {l : List Fld} {r p : Nat} (h : sameRegs s t l) (hf : R.COMMONS_RTR_PORT_STATUS_STATE r p ∈ l) (st : Nat) :
    sameRegs s (t.setPortSt r p st) l := h.wr hf st

/-- What a refused command on a port leaves. -/
theorem State.refusePort_rd (s : State) (r p : Nat) {c : Nat} (hc : c < 4) :
    (s.refusePort r p c).portSt r p = s.portSt r p ∧ (s.refusePort r p c).rd (R.COMMONS_RTR_PORT_STATUS_REFUSED r p) = 1 ∧
      (s.refusePort r p c).rd (R.COMMONS_RTR_PORT_STATUS_CAUSE r p) = c := by
  refine ⟨?_, ?_, ?_⟩
  · rw [State.portSt, State.refusePort, State.wr_rd_ne _ _ _ _ (by simp only [Fld.key, R.COMMONS_RTR_PORT_STATUS_STATE, R.COMMONS_RTR_PORT_STATUS_CAUSE, ne_eq]; omega),
      State.wr_rd_ne _ _ _ _ (by simp only [Fld.key, R.COMMONS_RTR_PORT_STATUS_STATE, R.COMMONS_RTR_PORT_STATUS_REFUSED, ne_eq]; omega)]
    rfl
  · rw [State.refusePort, State.wr_rd_ne _ _ _ _ (by simp only [Fld.key, R.COMMONS_RTR_PORT_STATUS_REFUSED, R.COMMONS_RTR_PORT_STATUS_CAUSE, ne_eq]; omega), State.wr_rd_same]; rfl
  · rw [State.refusePort, State.wr_rd_same]
    exact Nat.mod_eq_of_lt hc

theorem portRevive_revives : ∀ (s : State) (r : Fin 64) (p : Fin 8), s.portSt r p = 5 → ∃ t, exec (.portRevive r p) s = .next t ∧ t.portSt r p = 0 ∧
    sameRegs s t [R.COMMONS_RTR_PORT_STATUS_STATE r p] ∧ t.net = s.net := by
  intro s r p h
  exact ⟨_, if_pos h, State.setPortSt_portSt s r p (by decide), (sameRegs.refl s _).setPortSt (List.mem_singleton_self _) _, rfl⟩

theorem portRevive_refused : ∀ (s : State) (r : Fin 64) (p : Fin 8), s.portSt r p ≠ 5 → ∃ t, exec (.portRevive r p) s = .next t ∧ t.portSt r p = s.portSt r p ∧
    t.rd (R.COMMONS_RTR_PORT_STATUS_REFUSED r p) = 1 ∧ t.rd (R.COMMONS_RTR_PORT_STATUS_CAUSE r p) = 2 := by
  intro s r p h
  exact ⟨_, if_neg h, State.refusePort_rd s r p (by decide)⟩

theorem closedKey_inj {n n' d : Nat} (h : (R.COMMONS_NI_ROUTE_A_CLOSED n d).key = (R.COMMONS_NI_ROUTE_A_CLOSED n' d).key) : n = n' := by
  simp only [Fld.key, R.COMMONS_NI_ROUTE_A_CLOSED] at h
  omega

/-- Every entry for NI `d` reads what `markClosed` was told. -/
theorem State.markClosed_closed (s : State) (d : Nat) (v : Bool) {n : Nat} (hn : n < 256) (hp : niPresent n = true) :
    (s.markClosed d v).bit (R.COMMONS_NI_ROUTE_A_CLOSED n d) = v := by
  have h : ∀ (l : List Nat) (t : State), (n ∈ l ∨ t.bit (R.COMMONS_NI_ROUTE_A_CLOSED n d) = v) →
      (l.foldl (fun t n => t.wrB (R.COMMONS_NI_ROUTE_A_CLOSED n d) v) t).bit (R.COMMONS_NI_ROUTE_A_CLOSED n d) = v := by
    intro l
    induction l with
    | nil => exact fun t h => h.resolve_left List.not_mem_nil
    | cons m l ih =>
      intro t h
      refine ih _ ?_
      by_cases hm : n = m
      · exact .inr (hm ▸ State.wrB_bit _ _ _ rfl)
      · refine h.imp (fun h => (List.mem_cons.mp h).resolve_left hm) fun h => ?_
        rw [State.wrB_bit_ne _ _ (fun e => hm (closedKey_inj e)), h]
  exact h _ s (.inl (List.mem_filter.mpr ⟨List.mem_range.mpr hn, hp⟩))

theorem portClose_closes : ∀ (s : State) (r : Fin 64) (p : Fin 8), 4 ≤ p.val → s.portSt r p = 0 → ∃ t, exec (.portClose r p) s = .next t ∧ t.portSt r p = 3 ∧
    ∀ n < 256, niPresent n = true → (t.route n (4 * r.val + (p.val - 4))).closed = true := by
  intro s r p hp hst
  show ∃ t, execPortClose r p s = .next t ∧ _
  simp only [execPortClose, hp, hst, true_or, and_self, if_true, show (0 : Nat) ≠ 5 by decide, if_false]
  refine ⟨_, rfl, State.setPortSt_portSt _ r p (by decide), fun n hn hpr => ?_⟩
  exact (State.wr_bit_ne _ _ _ _ (by simp only [Fld.key, R.COMMONS_NI_ROUTE_A_CLOSED, R.COMMONS_RTR_PORT_STATUS_STATE, ne_eq]; omega)).trans (State.markClosed_closed s _ true hn hpr)

theorem portDrained_drains : ∀ (s : State) (r : Fin 64) (l : Fin 4), s.portSt r (4 + l.val) = 3 → (∀ e ∈ s.net.ejected, e.pkt.dest ≠ 4 * r.val + l.val) →
    (∀ o ∈ s.net.outs, o.src ≠ 4 * r.val + l.val) → s.net.waiting r l = [] → (∀ x ∈ s.net.flight, inputAt r x ≠ some (4 + l.val)) →
    ∃ t, exec (.portDrained r l) s = .next t ∧ t.portSt r (4 + l.val) = 4 ∧ t.rd (R.COMMONS_RTR_PORT_STATUS_DRAINED r (4 + l.val)) = 1 ∧
      sameRegs s t [R.COMMONS_RTR_PORT_STATUS_STATE r (4 + l.val), R.COMMONS_RTR_PORT_STATUS_DRAINED r (4 + l.val)] := by
  intro s r l hst hej hout hw hfl
  show ∃ t, execPortDrained r l s = .next t ∧ _
  have hej' : s.net.ejected.any (fun e => e.pkt.dest == 4 * r.val + l.val) = false := by simpa using hej
  have hout' : s.net.outs.any (fun o => o.src == 4 * r.val + l.val) = false := by simpa using hout
  have hfl' : s.net.flight.any (fun x => inputAt r x == some (4 + l.val)) = false := by simpa using hfl
  simp only [execPortDrained, hst, hej', hout', hfl', hw, bne_self_eq_false, Bool.or_false, Bool.false_eq_true, not_false_eq_true, and_self, if_true]
  refine ⟨_, rfl, ?_, State.wr_rd_same _ (R.COMMONS_RTR_PORT_STATUS_DRAINED r (4 + l.val)) _,
    ((sameRegs.refl s _).setPortSt (List.mem_cons_self ..) _).wr (List.mem_cons_of_mem _ (List.mem_singleton_self _)) _⟩
  exact (State.wr_rd_ne _ _ _ _ (by simp only [Fld.key, R.COMMONS_RTR_PORT_STATUS_STATE, R.COMMONS_RTR_PORT_STATUS_DRAINED, ne_eq]; omega)).trans (State.setPortSt_portSt s r _ (by decide))

theorem portOpen_opens : ∀ (s : State) (r : Fin 64) (p : Fin 8), 4 ≤ p.val → s.portSt r p = 4 → ∃ t, exec (.portOpen r p) s = .next t ∧ t.portSt r p = 0 ∧
    t.rd (R.COMMONS_RTR_PORT_STATUS_DRAINED r p) = 0 ∧ ∀ n < 256, niPresent n = true → (t.route n (4 * r.val + (p.val - 4))).closed = false := by
  intro s r p hp hst
  show ∃ t, execPortOpen r p s = .next t ∧ _
  have he : execPortOpen r p s = .next ((((s.markClosed (4 * r.val + (p.val - 4)) false).setPortSt r p 0).wr
      (R.COMMONS_RTR_PORT_STATUS_DRAINED r p) 0).setNet (fun c => { c with wasDead := c.wasDead.filter (fun x => x != 8 * r.val + p.val) })) :=
    if_pos ⟨hp, hst⟩
  refine ⟨_, he, ?_, ?_, fun n hn hpr => ?_⟩
  · rw [State.portSt, State.setNet_rd, State.wr_rd_ne _ _ _ _ (by simp only [Fld.key, R.COMMONS_RTR_PORT_STATUS_STATE, R.COMMONS_RTR_PORT_STATUS_DRAINED, ne_eq]; omega)]
    exact State.setPortSt_portSt _ r p (by decide)
  · rw [State.setNet_rd, State.wr_rd_same]; rfl
  · have h := State.markClosed_closed s (4 * r.val + (p.val - 4)) false hn hpr
    rw [State.route, State.setNet_bit, State.setNet_bit, State.wr_bit_ne _ _ (R.COMMONS_NI_ROUTE_A_CLOSED n (4 * r.val + (p.val - 4))) _
      (by simp only [Fld.key, R.COMMONS_NI_ROUTE_A_CLOSED, R.COMMONS_RTR_PORT_STATUS_DRAINED, ne_eq]; omega), State.setPortSt,
      State.wr_bit_ne _ _ (R.COMMONS_NI_ROUTE_A_CLOSED n (4 * r.val + (p.val - 4))) _ (by simp only [Fld.key, R.COMMONS_NI_ROUTE_A_CLOSED, R.COMMONS_RTR_PORT_STATUS_STATE, ne_eq]; omega), h]

theorem portDisable_begins : ∀ (s : State) (r : Fin 64) (p : Fin 8) (v : Word), p.val < 4 → s.portSt r p = 0 → s.rd (R.COMMONS_RTR_PORT_STATUS_USE_COUNT r p) = 0 →
    ∃ t, exec (.portDisable r p v) s = .next t ∧ t.portSt r p = 2 ∧ t.net.disableE.get (8 * r.val + p.val) = bitsOf v 0 2 := by
  intro s r p v hp hst hu
  show ∃ t, execPortDisable r p v s = .next t ∧ _
  simp only [execPortDisable, show ¬4 ≤ p.val by omega, hst, hu, ne_eq, not_true_eq_false, or_self, if_false]
  exact ⟨_, rfl, State.setPortSt_portSt s r p (by decide), Tab.get_set_same _ _ _⟩

theorem portDisable_inUse : ∀ (s : State) (r : Fin 64) (p : Fin 8) (v : Word), p.val < 4 → s.portSt r p = 0 → s.rd (R.COMMONS_RTR_PORT_STATUS_USE_COUNT r p) ≠ 0 →
    ∃ t, exec (.portDisable r p v) s = .next t ∧ t.portSt r p = 0 ∧ t.rd (R.COMMONS_RTR_PORT_STATUS_REFUSED r p) = 1 ∧
      t.rd (R.COMMONS_RTR_PORT_STATUS_CAUSE r p) = 1 ∧ t.net = s.net := by
  intro s r p v hp hst hu
  obtain ⟨hs, hr, hc⟩ := State.refusePort_rd s r p (show 1 < 4 by decide)
  refine ⟨s.refusePort r p 1, ?_, hs.trans hst, hr, hc, rfl⟩
  show execPortDisable r p v s = _
  exact (if_neg (by simp only [hst]; omega)).trans (if_pos hu)

theorem portDisableComplete_completes : ∀ (s : State) (r : Fin 64) (p : Fin 4), s.portSt r p = 2 → s.rd R.COMMONS_STATUS_EPOCH = s.net.disableE.get (8 * r.val + p.val) →
    (∀ i < 4, i ≠ s.net.disableE.get (8 * r.val + p.val) → s.rd (R.COMMONS_EPOCH_LIVE i) = 0) →
    ∃ t, exec (.portDisableComplete r p) s = .next t ∧ t.portSt r p = 1 ∧ sameRegs s t [R.COMMONS_RTR_PORT_STATUS_STATE r p] := by
  intro s r p hst hep hlive
  refine ⟨_, if_pos ⟨hst, hep, ?_⟩, State.setPortSt_portSt s r p (by decide), (sameRegs.refl s _).setPortSt (List.mem_singleton_self _) _⟩
  rw [List.all_eq_true]
  intro i hi
  by_cases h : i = s.net.disableE.get (8 * r.val + p.val)
  · simp [h]
  · simp [State.bit_eq, hlive i (List.mem_range.mp hi) h]

theorem portEnable_enables : ∀ (s : State) (r : Fin 64) (p : Fin 8), p.val < 4 → (s.portSt r p = 1 ∨ s.portSt r p = 2) → ∃ t, exec (.portEnable r p) s = .next t ∧
    t.portSt r p = 0 ∧ sameRegs s t [R.COMMONS_RTR_PORT_STATUS_STATE r p] := by
  intro s r p hp hst
  refine ⟨_, (if_neg ?_).trans (if_pos hst), State.setPortSt_portSt s r p (by decide), (sameRegs.refl s _).setPortSt (List.mem_singleton_self _) _⟩
  show ¬(4 ≤ p.val ∨ s.portSt r p = 6)
  omega

/-! ### Barriers -/

theorem barrierArrive_enters : ∀ (s : State) (b : Fin 32) (n : Fin 256), n.val ∉ s.net.arrivals.get b → ∃ t, exec (.barrierArrive b n) s = .next t ∧
    t.net.arrivals.get b = s.net.arrivals.get b ++ [n.val] ∧ t.regs = s.regs ∧ t.ans = acked := by
  intro s b n h
  exact ⟨_, if_neg (by simpa using h), Tab.get_set_same _ _ _, rfl, rfl⟩

theorem barrierArrive_extra : ∀ (s : State) (b : Fin 32) (n : Fin 256), n.val ∈ s.net.arrivals.get b → ∃ t, exec (.barrierArrive b n) s = .next t ∧
    t.net = s.net ∧ t.rd (R.COMMONS_BAR_CFG_EXTRA b) = (s.rd (R.COMMONS_BAR_CFG_EXTRA b) + 1) % 256 ∧ t.ans = acked := by
  intro s b n h
  exact ⟨_, if_pos (by simpa using h), rfl, State.wr_rd_same s (R.COMMONS_BAR_CFG_EXTRA b) _, rfl⟩

/-- The barrier event of one NI. -/
def State.barEvent (b : Nat) (t : State) (n : Nat) : State :=
  (t.setNet (fun c => { c with events := if c.events.contains (n, b) then c.events else c.events ++ [(n, b)] })).irqIf (hallNis.contains n) .barrier b

theorem barEvent_regs (b : Nat) (t : State) (n : Nat) : (State.barEvent b t n).regs = t.regs := State.irqIf_regs _ _ _ _

theorem barEvent_arrivals (b : Nat) (t : State) (n : Nat) : (State.barEvent b t n).net.arrivals = t.net.arrivals := by
  rw [State.barEvent, State.irqIf_net]; rfl

theorem barEvent_mem {b : Nat} {t : State} {n m : Nat} (h : m = n ∨ (m, b) ∈ t.net.events) : (m, b) ∈ (State.barEvent b t n).net.events := by
  rw [State.barEvent, State.irqIf_net, State.setNet_net]
  split
  · next hc =>
    rcases h with rfl | h
    · simpa using hc
    · exact h
  · rcases h with rfl | h
    · simp
    · exact List.mem_append_left _ h

theorem foldl_barEvent (b : Nat) : ∀ (l : List Nat) (t : State), (l.foldl (State.barEvent b) t).regs = t.regs ∧
    (l.foldl (State.barEvent b) t).net.arrivals = t.net.arrivals ∧
    ∀ m, (m ∈ l ∨ (m, b) ∈ t.net.events) → (m, b) ∈ (l.foldl (State.barEvent b) t).net.events
  | [], _ => ⟨rfl, rfl, fun _ h => h.resolve_left List.not_mem_nil⟩
  | n :: l, t => by
    obtain ⟨hr, ha, he⟩ := foldl_barEvent b l (State.barEvent b t n)
    refine ⟨hr.trans (barEvent_regs b t n), ha.trans (barEvent_arrivals b t n), fun m hm => he m ?_⟩
    rcases hm with hm | hm
    · rcases List.mem_cons.mp hm with rfl | hm
      · exact .inr (barEvent_mem (.inl rfl))
      · exact .inl hm
    · exact .inr (barEvent_mem (.inr hm))

/-- Barrier events change no register and no arrival, and every NI of the mask has one where IRQ_EN = 1. -/
theorem State.barEvents_spec (t : State) (b : Nat) : (t.barEvents b).regs = t.regs ∧ (t.barEvents b).net.arrivals = t.net.arrivals ∧
    (t.bit (R.COMMONS_BAR_CFG_IRQ_EN b) = true → ∀ n ∈ t.barMask b, (n, b) ∈ (t.barEvents b).net.events) := by
  unfold State.barEvents
  split
  · obtain ⟨hr, ha, he⟩ := foldl_barEvent b (t.barMask b) t
    exact ⟨hr, ha, fun _ n hn => he n (.inl hn)⟩
  · next h => exact ⟨rfl, rfl, fun h' => absurd h' h⟩

theorem barrierRelease_releases : ∀ (s : State) (b : Fin 32), s.barMask b ≠ [] → (∀ n ∈ s.barMask b, n ∈ s.net.arrivals.get b) → ∃ t, exec (.barrierRelease b true) s = .next t ∧
    t.net.arrivals.get b = [] ∧ t.rd (R.COMMONS_BAR_GEN b) = (s.rd (R.COMMONS_BAR_GEN b) + 1) % 2 ^ 32 ∧ sameRegs s t [R.COMMONS_BAR_GEN b] ∧
    (s.bit (R.COMMONS_BAR_CFG_IRQ_EN b) = true → ∀ n ∈ s.barMask b, (n, b.val) ∈ t.net.events) := by
  intro s b hm hall
  have hmask : ((s.setNet (fun c => { c with arrivals := c.arrivals.set b [] })).inc (R.COMMONS_BAR_GEN b)).barMask b = s.barMask b := by
    have h w : ((s.setNet (fun c => { c with arrivals := c.arrivals.set b [] })).inc (R.COMMONS_BAR_GEN b)).rd (R.COMMONS_BAR_MASK b w) =
        s.rd (R.COMMONS_BAR_MASK b w) := State.wr_rd_ne _ _ _ _ (by simp only [Fld.key, R.COMMONS_BAR_MASK, R.COMMONS_BAR_GEN, ne_eq]; omega)
    simp only [State.barMask, h]
  have hirq : ((s.setNet (fun c => { c with arrivals := c.arrivals.set b [] })).inc (R.COMMONS_BAR_GEN b)).bit (R.COMMONS_BAR_CFG_IRQ_EN b) =
      s.bit (R.COMMONS_BAR_CFG_IRQ_EN b) := State.wr_bit_ne _ _ _ _ (by simp only [Fld.key, R.COMMONS_BAR_CFG_IRQ_EN, R.COMMONS_BAR_GEN, ne_eq]; omega)
  obtain ⟨hr, ha, he⟩ := State.barEvents_spec ((s.setNet (fun c => { c with arrivals := c.arrivals.set b [] })).inc (R.COMMONS_BAR_GEN b)) b
  rw [hmask, hirq] at he
  refine ⟨_, if_pos ⟨hm, by simpa using hall, .inl rfl⟩, ?_, ?_, ?_, he⟩
  · rw [ha]
    exact Tab.get_set_same _ _ _
  · rw [State.rd_congr hr]
    exact State.wr_rd_same _ _ _
  · have h0 : sameRegs s (s.setNet (fun c => { c with arrivals := c.arrivals.set b [] })) [R.COMMONS_BAR_GEN b] := (sameRegs.refl s _).of_regs rfl
    exact (h0.inc (List.mem_singleton_self _)).of_regs hr

theorem barrierBcast_shows : ∀ (s : State) (b : Fin 32) (v : Word), ∃ t, exec (.barrierBcast b v) s = .next t ∧ t.rd (R.COMMONS_BAR_VALUE b) = v.toNat ∧
    sameRegs s t [R.COMMONS_BAR_VALUE b] ∧ t.net.arrivals = s.net.arrivals := by
  intro s b v
  obtain ⟨hr, ha, -⟩ := State.barEvents_spec (s.wr (R.COMMONS_BAR_VALUE b.val) v.toNat) b
  refine ⟨_, rfl, ?_, ((sameRegs.refl s _).wr (List.mem_singleton_self _) _).of_regs hr, ha⟩
  rw [State.rd_congr hr, State.wr_rd_same]
  exact Nat.mod_eq_of_lt v.isLt

/-! ### Probes -/

theorem probePop_pops : ∀ (s : State) (k : Fin 32), s.bit R.TRACE_CFG_EN = false → ∃ t, exec (.probePop k) s = .next t ∧
    t.net.traces.get k = (s.net.traces.get k).drop 1 ∧
    t.rd (R.PROBE_LEVEL_LEVEL k) = ((s.net.traces.get k).length - 1) % 2 ^ (R.PROBE_LEVEL_LEVEL k).w ∧
    t.rd (R.PROBE_HEAD k 0) = (((s.net.traces.get k).drop 1).headD []).getD 0 0 % 2 ^ 32 := by
  intro s k he
  show ∃ t, execProbePop k s = .next t ∧ _
  simp only [execProbePop, State.showProbe, State.setNet_bit, he, Bool.false_eq_true, Bool.false_and, false_and, if_false]
  have hh {i j : Nat} (h : i ≠ j) : (R.PROBE_HEAD k i).key ≠ (R.PROBE_HEAD k j).key := (by simp only [Fld.key, R.PROBE_HEAD, ne_eq]; omega)
  refine ⟨_, rfl, Tab.get_set_same _ _ _, ?_, ?_⟩
  · rw [State.wr_rd_same, List.length_drop]
  · rw [State.wr_rd_ne _ _ _ _ (by simp only [Fld.key, R.PROBE_HEAD, R.PROBE_LEVEL_LEVEL, ne_eq]; omega), State.wr_rd_ne _ _ _ _ (hh (by decide)), State.wr_rd_ne _ _ _ _ (hh (by decide)),
      State.wr_rd_ne _ _ _ _ (hh (by decide)), State.wr_rd_same]
    rfl

/-- Settles O37: each clause is a lemma above about one command. -/
theorem commonsRoutesPortsAndBarriers : Obligations.CommonsRoutesPortsAndBarriers :=
  ⟨routeEntryStage_stages, routeEntryStage_second, routeEntryStage_rejects, routeAdvance_starts, routeAdvance_busy, routeDiscardStage_discards,
    portRevive_revives, portRevive_refused, portClose_closes, portDrained_drains, portOpen_opens, portDisable_begins, portDisable_inUse,
    portDisableComplete_completes, portEnable_enables, barrierArrive_enters, barrierArrive_extra, barrierRelease_releases, barrierBcast_shows,
    probePop_pops⟩

end Sys2Proof.Claims

/-! ## Ledgers and the network's packets: what their operations write and leave -/

namespace Sys2Proof.Machine

set_option Elab.async false

open Sys2Proof.Claims

/-- The places that a fault of a ledger writes: the Tally's, and FAULT of a pool whose ledger it is. -/
def ledgerRegs (k : Nat) : Prop :=
  k = R.TALLY_STATUS_FAULT.key ∨ k = R.TALLY_FAULT_LAST_ID.key ∨ k = R.TALLY_FAULT_COUNT_COUNT.key ∨
    (addrIn 0x47010000 0x47012000 k ∧ k % 512 = 286)

section
variable {P : Nat → Prop} {s t : State}

theorem WritesIn.dec (h : WritesIn P s t) {x : Fld} (hx : P x.key) : WritesIn P s (t.dec x) := h.wr hx _
theorem WritesIn.setNet (h : WritesIn P s t) (f : Commons → Commons) : WritesIn P s (t.setNet f) := h.of_regs rfl
theorem WritesIn.reply (h : WritesIn P s t) (a : Answer) : WritesIn P s (t.reply a) := h.of_regs rfl

section
variable (hL : ∀ k, ledgerRegs k → P k)
include hL

theorem WritesIn.ledgerFault (h : WritesIn P s t) (id : Nat) : WritesIn P s (t.ledgerFault id) := by
  unfold State.ledgerFault
  have ht (x : Tally) : WritesIn P s { t with tally := x } := h.of_regs rfl
  have hpool : P (R.GRANARY_POOL_STATUS_FAULT (id % 256)).key := by
    refine hL _ (.inr (.inr (.inr ?_)))
    simp only [addrIn, Fld.key, R.GRANARY_POOL_STATUS_FAULT]
    omega
  split_ifs
  · exact h
  · exact ((((((ht _).wr (hL _ (.inl rfl)) 1).wr (hL _ (.inr (.inl rfl))) id).inc (hL _ (.inr (.inr (.inl rfl))))).raise _).irqIf _ _ _).wr hpool 1
  · exact (((((ht _).wr (hL _ (.inl rfl)) 1).wr (hL _ (.inr (.inl rfl))) id).inc (hL _ (.inr (.inr (.inl rfl))))).raise _).irqIf _ _ _

theorem WritesIn.ledgerAt (h : WritesIn P s t) (id p i r : Nat) : WritesIn P s (t.ledgerAt id p i r) := by
  have ht (x : Tally) : WritesIn P s { t with tally := x } := h.of_regs rfl
  unfold State.ledgerAt State.ledgerCheck
  split
  · exact WritesIn.ledgerFault hL ((ht _).of_regs rfl) _
  · exact ht _

theorem WritesIn.ledgerCount (h : WritesIn P s t) (id i r : Nat) : WritesIn P s (t.ledgerCount id i r) := h.ledgerAt hL _ _ _ _

theorem WritesIn.absorbToken (h : WritesIn P s t) (p : Packet) : WritesIn P s (t.absorbToken p) := by
  unfold State.absorbToken
  split
  · exact h.ledgerAt hL _ _ _ _
  · exact h

theorem WritesIn.endPacket (h : WritesIn P s t) {p : Packet} (hE : P (R.COMMONS_EPOCH_LIVE p.epoch).key) : WritesIn P s (t.endPacket p) :=
  ((h.setNet _).ledgerCount hL _ _ _).dec hE

theorem WritesIn.enterPacket (h : WritesIn P s t) (hE : ∀ e < 4, P (R.COMMONS_EPOCH_LIVE e).key) (n : Nat) (p : Packet) :
    WritesIn P s (t.enterPacket n p) :=
  ((h.setNet _).inc (hE _ (State.rd_lt t R.COMMONS_STATUS_EPOCH))).ledgerCount hL _ _ _

theorem WritesIn.routerAnswer (h : WritesIn P s t) (hE : ∀ e < 4, P (R.COMMONS_EPOCH_LIVE e).key) (r : Nat) (p : Packet) (status cause : Nat) :
    WritesIn P s (t.routerAnswer r p status cause) := by
  unfold State.routerAnswer
  split
  · exact h.enterPacket hL hE _ _
  · exact h

end
end

/-! ### What the network holds -/

theorem State.ledgerCount_net (s : State) (id a b : Nat) : (s.ledgerCount id a b).net = s.net :=
  (keeps_ledgerCount (.refl (partsBut .net) s) (by decide) (by decide) (by decide) (by decide) id a b).same_of_but

theorem State.ledgerCount_stp (s : State) (id a b : Nat) : (s.ledgerCount id a b).stp = s.stp :=
  (keeps_ledgerCount (.refl (partsBut .stp) s) (by decide) (by decide) (by decide) (by decide) id a b).same_of_but

theorem State.absorbToken_net (s : State) (p : Packet) : (s.absorbToken p).net = s.net :=
  (keeps_absorbToken (.refl (partsBut .net) s) (by decide) (by decide) (by decide) (by decide) p).same_of_but

theorem State.endPacket_net (s : State) (p : Packet) : (s.endPacket p).net = { s.net with flight := s.net.flight.filter (fun x => x.id != p.id) } := by
  rw [State.endPacket, State.dec, State.wr_net, State.creditBack, State.ledgerCount_net]
  rfl

/-- The packet that enters by the table of NI `n`. -/
def State.entered (s : State) (n : Nat) (p : Packet) : Packet :=
  { p with
    id := s.net.count, epoch := s.rd R.COMMONS_STATUS_EPOCH, inj := s.tick, heading := (s.route n p.dest).first,
    codes := hopCodes (s.route n p.dest).hops (s.route n p.dest).codes,
    place := if (s.route n p.dest).valid then .input (n / 4) (4 + n % 4) else .port (p.dest / 4) (p.dest % 4) s.stp.now }

theorem State.enterPacket_net (s : State) (n : Nat) (p : Packet) :
    (s.enterPacket n p).net = { s.net with count := s.net.count + 1, flight := s.net.flight ++ [s.entered n p] } := by
  rw [State.enterPacket, State.creditSend, State.ledgerCount_net]
  rfl

theorem Commons.packet_of_flight {c d : Commons} (h : d.flight = c.flight) (k : Nat) : d.packet k = c.packet k := by
  rw [Commons.packet, Commons.packet, h]

/-- A packet that has been taken out is no longer there. -/
theorem Commons.packet_filter_ne {c : Commons} {l : List Packet} {k : Nat} (h : c.flight = l.filter (fun x => x.id != k)) : c.packet k = none := by
  rw [Commons.packet, h, List.find?_eq_none]
  intro x hx
  simpa using (List.mem_filter.mp hx).2

theorem Commons.packet_id {c : Commons} {k : Nat} {p : Packet} (h : c.packet k = some p) : p.id = k := by
  simpa using List.find?_some h

end Sys2Proof.Machine

/-! ## O38: packets, answers and dead ports -/

namespace Sys2Proof.Machine

set_option Elab.async false

open Sys2Proof.Claims

@[simp] theorem State.setNet_stp (s : State) (f : Commons → Commons) : (s.setNet f).stp = s.stp := rfl

/-- The packet of an injected request. -/
def State.requestPacket (s : State) (n d : Nat) (q : PacketReq) : Packet :=
  { id := 0, op := q.op, vn := q.vn, src := n, dest := d, tag := q.tag, mid := q.mid.toNat, addr := q.addr, lines := q.lines,
    epoch := 0, base := s.baseUrg n q.vn, inj := 0, deadline := q.deadline, window := if q.deadline.isSome then q.window else none,
    status := 0, cause := 0, heading := 0, codes := [], place := .input 0 0, w7 := q.w7, data := q.data }

theorem State.entered_route {s : State} {n : Nat} {p : Packet} {e : RouteEntry} (h : s.route n p.dest = e) :
    (s.entered n p).heading = e.first ∧ (s.entered n p).codes = hopCodes e.hops e.codes ∧
      (e.valid = true → (s.entered n p).place = .input (n / 4) (4 + n % 4)) := by
  subst h
  exact ⟨rfl, rfl, fun h => if_pos h⟩

/-- A request that takes its slot. -/
def State.takeRequestSlot (s : State) (n d : Nat) (q : PacketReq) : State :=
  ((s.inc (outFld q.vn n)).ledgerCount (slotLedger q.vn n) 1 0).setNet (fun c => { c with outs := c.outs ++ [⟨n, q.tag, d, q.vn,
    if q.deadline.isSome then q.window else none⟩] })

theorem outFld_key (vn n : Nat) : (outFld vn n).key = (0x46020004 + n * 0x1000) * 64 ∨ (outFld vn n).key = (0x46020004 + n * 0x1000) * 64 + 16 := by
  unfold outFld
  split
  · exact .inr rfl
  · exact .inl rfl

/-- Taking a slot writes the count of slots and a ledger's fault. -/
theorem State.takeRequestSlot_writes (s : State) (n d : Nat) (q : PacketReq) :
    WritesIn (fun k => k = (outFld q.vn n).key ∨ ledgerRegs k) s (s.takeRequestSlot n d q) :=
  (((WritesIn.refl _ s).inc (.inl rfl)).ledgerCount (fun _ => .inr) _ _ _).setNet _

theorem State.takeRequestSlot_net (s : State) (n d : Nat) (q : PacketReq) : (s.takeRequestSlot n d q).net =
    { s.net with outs := s.net.outs ++ [⟨n, q.tag, d, q.vn, if q.deadline.isSome then q.window else none⟩] } := by
  rw [State.takeRequestSlot, State.setNet_net, State.ledgerCount_net, State.inc_net]

theorem State.takeRequestSlot_stp (s : State) (n d : Nat) (q : PacketReq) : (s.takeRequestSlot n d q).stp = s.stp := by
  rw [State.takeRequestSlot, State.setNet_stp, State.ledgerCount_stp, State.inc_stp]

/-- A request that is neither refused nor held enters. -/
theorem State.injectRequest_enters {s : State} {n d : Nat} {q : PacketReq} (hd : s.destNi q.addr q.mid = some d) (hv : (s.route n d).valid = true)
    (hc : (s.route n d).closed = false) (hdl : q.deadline = none) (hhold : (n, d, q.vn) ∉ s.net.holds) (hcap : s.rd (outFld q.vn n) < slotCap q.vn)
    (htag : ∀ o ∈ s.net.outs, o.src = n → o.tag ≠ q.tag) (hused : s.net.used (.input (n / 4) (4 + n % 4)) q.vn = 0)
    (hmute : s.portMute (n / 4) (4 + n % 4) = false) :
    s.injectRequest n q = (s.takeRequestSlot n d q).enterPacket n (s.requestPacket n d q) := by
  have hblocked : ¬(s.net.holds.contains (n, d, q.vn) ∨ slotCap q.vn ≤ s.rd (outFld q.vn n) ∨ s.net.outs.any (fun o => o.src == n && o.tag == q.tag)) := by
    rintro (h | h | h)
    · exact hhold (List.contains_iff_mem.mp h)
    · omega
    · obtain ⟨o, ho, e⟩ := List.any_eq_true.mp h
      rw [Bool.and_eq_true, beq_iff_eq, beq_iff_eq] at e
      exact htag o ho e.1 e.2
  have hfits : s.net.fits (.input (n / 4) (4 + n % 4)) (s.requestPacket n d q) = true := by
    refine decide_eq_true ?_
    rw [show (s.requestPacket n d q).vn = q.vn from rfl, hused, Nat.zero_add]
    exact Nat.min_le_right _ _
  unfold State.requestPacket at hfits
  unfold State.injectRequest
  rw [hd]
  dsimp only
  rw [if_neg (by simp [hv]), if_neg (by simp [hc]), if_neg (by simp [hdl]), if_neg hblocked, if_neg (by rw [hfits]; decide), if_neg (by simp [hmute])]
  rfl

/-! ### Probes -/

/-- The places of the probes. -/
def probeRegs : Nat → Prop := addrIn 0x46004000 0x46005000

theorem State.showProbe_writes {s t : State} (h : WritesIn probeRegs s t) {k : Nat} (hk : k < 32) (l : List (List Nat)) : WritesIn probeRegs s (t.showProbe k l) := by
  have hh (w : Nat) (hw : w < 4) : probeRegs (R.PROBE_HEAD k w).key := by
    simp only [probeRegs, addrIn, Fld.key, R.PROBE_HEAD]
    omega
  have hl : probeRegs (R.PROBE_LEVEL_LEVEL k).key := by
    simp only [probeRegs, addrIn, Fld.key, R.PROBE_LEVEL_LEVEL]
    omega
  exact (((((h.setNet _).wr (hh 0 (by decide)) _).wr (hh 1 (by decide)) _).wr (hh 2 (by decide)) _).wr (hh 3 (by decide)) _).wr hl _

theorem State.probe_writes {s t : State} (h : WritesIn probeRegs s t) {k : Nat} (hk : k < 32) (r i : Nat) (p : Packet) :
    WritesIn probeRegs s (t.probe r i p k) := by
  have hc {f : Fld} (hf : f ∈ [R.PROBE_PKTS k, R.PROBE_FLITS k, R.PROBE_LAT_SUM k, R.PROBE_LAT_MAX k]) : probeRegs f.key := by
    fin_cases hf <;> simp only [probeRegs, addrIn, Fld.key, R.PROBE_PKTS, R.PROBE_FLITS, R.PROBE_LAT_SUM, R.PROBE_LAT_MAX] <;> omega
  have hlose {t : State} (h : WritesIn probeRegs s t) : WritesIn probeRegs s (t.loseRecord k) := h.of_regs (State.loseRecord_regs t k)
  unfold State.probe
  dsimp only
  split_ifs
  · exact h
  · exact State.showProbe_writes h hk _
  · exact hlose (State.showProbe_writes h hk _)
  · exact hlose h
  · exact (((h.inc (hc (by simp))).add (hc (by simp)) _).add (hc (by simp)) _).wr (hc (by simp)) _

theorem State.probes_writes (s : State) (r i : Nat) (p : Packet) : WritesIn probeRegs s (s.probes r i p) :=
  WritesIn.foldl _ (fun _ _ hk h => State.probe_writes h (List.mem_range.mp hk) r i p) (.refl _ s)

/-- The network is as it was but for the probes' traces. -/
def SameButTraces (c d : Commons) : Prop := d = { c with traces := d.traces }

theorem State.probe_net {s t : State} (h : SameButTraces s.net t.net) (k r i : Nat) (p : Packet) : SameButTraces s.net (t.probe r i p k).net := by
  have hs (l : List (List Nat)) : SameButTraces s.net (t.showProbe k l).net := by
    rw [SameButTraces, State.showProbe]
    simp only [State.wr_net, State.setNet_net]
    rw [h]
  unfold State.probe
  dsimp only
  split_ifs
  · exact h
  · exact hs _
  · rw [State.loseRecord_net]
    exact hs _
  · rw [State.loseRecord_net]
    exact h
  · rw [State.wr_net, State.add_net, State.add_net, State.inc_net]
    exact h

theorem State.probes_net (s : State) (r i : Nat) (p : Packet) : SameButTraces s.net (s.probes r i p).net := by
  have h : ∀ (l : List Nat) (t : State), SameButTraces s.net t.net → SameButTraces s.net (l.foldl (fun t k => State.probe t r i p k) t).net := by
    intro l
    induction l with
    | nil => exact fun _ h => h
    | cons k l ih => exact fun t h => ih _ (State.probe_net h k r i p)
  exact h _ s rfl

end Sys2Proof.Machine

namespace Sys2Proof.Claims

set_option Elab.async false

open Sys2Proof.Machine

/-! ### Packets enter -/

theorem packetInject_illFormed : ∀ (s : State) (n : Fin 256) (q : PacketReq), packetFormed q = false → exec (.packetInject n q) s = .fault (.illFormed "PACKET_INJECT") := fun _ _ _ h => if_pos (by rw [h]; rfl)

/-- A well-formed request at an NI that is there. -/
theorem execPacketInject_request {s : State} {n : Fin 256} {q : PacketReq} (hf : packetFormed q = true) (hn : niPresent n = true) (hop : q.op ≤ 2) :
    execPacketInject n q s = .next (s.injectRequest n q) := by
  unfold execPacketInject
  dsimp only
  rw [if_neg (by simp [hf]), if_neg (by simp [hn]), if_pos hop]

theorem packetInject_noRoute : ∀ (s : State) (n : Fin 256) (q : PacketReq) (d : Nat), packetFormed q = true → niPresent n = true → q.op ≤ 2 → s.destNi q.addr q.mid = some d →
    (s.route n d).valid = false → ∃ t, exec (.packetInject n q) s = .next t ∧ t.ans = ⟨.deadTarget, 3, []⟩ ∧ t.net = s.net ∧
      t.rd (R.COMMONS_NI_SELF_ANSWERED n) = (s.rd (R.COMMONS_NI_SELF_ANSWERED n) + 1) % 2 ^ 32 := by
  intro s n q d hf hn hop hd hv
  have he : s.injectRequest n q = s.selfAnswer n ⟨.deadTarget, 3, []⟩ := by
    unfold State.injectRequest
    rw [hd]
    exact if_pos (by rw [hv]; rfl)
  refine ⟨_, execPacketInject_request hf hn hop, ?_, ?_, ?_⟩
  · rw [he]; rfl
  · rw [he]; rfl
  · rw [he]
    exact State.inc_rd_same s (R.COMMONS_NI_SELF_ANSWERED n)

theorem packetInject_closed : ∀ (s : State) (n : Fin 256) (q : PacketReq) (d : Nat), packetFormed q = true → niPresent n = true → q.op ≤ 2 → s.destNi q.addr q.mid = some d →
    (s.route n d).valid = true → (s.route n d).closed = true → ∃ t, exec (.packetInject n q) s = .next t ∧ t.ans = ⟨.domainClosed, 4, []⟩ ∧
      t.net = s.net := by
  intro s n q d hf hn hop hd hv hc
  have he : s.injectRequest n q = s.selfAnswer n ⟨.domainClosed, 4, []⟩ := by
    unfold State.injectRequest
    rw [hd]
    dsimp only
    rw [if_neg (by simp [hv]), if_pos hc]
  refine ⟨_, execPacketInject_request hf hn hop, ?_, ?_⟩
  · rw [he]; rfl
  · rw [he]; rfl

theorem packetInject_late : ∀ (s : State) (n : Fin 256) (q : PacketReq) (d k : Nat), packetFormed q = true → niPresent n = true → q.op ≤ 2 → s.destNi q.addr q.mid = some d →
    (s.route n d).valid = true → (s.route n d).closed = false → q.deadline = some k → passed s.tick k = true →
    ∃ t, exec (.packetInject n q) s = .next t ∧ t.ans = ⟨.lapsed, 1, []⟩ ∧ t.net = s.net := by
  intro s n q d k hf hn hop hd hv hc hk hp
  have he : s.injectRequest n q = s.selfAnswer n ⟨.lapsed, 1, []⟩ := by
    unfold State.injectRequest
    rw [hd]
    dsimp only
    rw [if_neg (by simp [hv]), if_neg (by simp [hc]), if_pos (by simp [hk, hp])]
  refine ⟨_, execPacketInject_request hf hn hop, ?_, ?_⟩
  · rw [he]; rfl
  · rw [he]; rfl

theorem slot_fits {s : State} {vn n : Nat} (h : s.rd (outFld vn n) < slotCap vn) : s.rd (outFld vn n) + 1 < 2 ^ (outFld vn n).w := by
  revert h
  unfold outFld slotCap
  split
  · exact fun h => lt_of_le_of_lt (Nat.succ_le_of_lt h) (show 32 < 2 ^ 6 by decide)
  · exact fun h => lt_of_le_of_lt (Nat.succ_le_of_lt h) (show 64 < 2 ^ 7 by decide)

/-- No place of a ledger's fault is one of the Commons'. -/
theorem not_ledgerRegs {k : Nat} (h : 0x46000000 * 64 ≤ k) (h' : k < 0x47010000 * 64) : ¬ledgerRegs k := by
  unfold ledgerRegs addrIn
  simp only [Fld.key, R.TALLY_STATUS_FAULT, R.TALLY_FAULT_LAST_ID, R.TALLY_FAULT_COUNT_COUNT]
  omega

theorem packetInject_enters : ∀ (s : State) (n : Fin 256) (q : PacketReq) (d : Nat), packetFormed q = true → niPresent n = true → q.op ≤ 2 → s.destNi q.addr q.mid = some d →
    (s.route n d).valid = true → (s.route n d).closed = false → q.deadline = none → (n.val, d, q.vn) ∉ s.net.holds →
    s.rd (outFld q.vn n) < slotCap q.vn → (∀ o ∈ s.net.outs, o.src = n.val → o.tag ≠ q.tag) →
    s.net.used (.input (n.val / 4) (4 + n.val % 4)) q.vn = 0 → s.portMute (n.val / 4) (4 + n.val % 4) = false →
    ∃ t p, exec (.packetInject n q) s = .next t ∧ t.net.outs = s.net.outs ++ [⟨n, q.tag, d, q.vn, none⟩] ∧ t.net.flight = s.net.flight ++ [p] ∧
      p.id = s.net.count ∧ p.src = n.val ∧ p.dest = d ∧ p.vn = q.vn ∧ p.addr = q.addr ∧ p.inj = s.tick ∧ p.epoch = s.rd R.COMMONS_STATUS_EPOCH ∧
      p.heading = (s.route n d).first ∧ p.codes = hopCodes (s.route n d).hops (s.route n d).codes ∧ p.place = .input (n.val / 4) (4 + n.val % 4) ∧
      t.rd (outFld q.vn n) = s.rd (outFld q.vn n) + 1 ∧
      t.rd (R.COMMONS_EPOCH_LIVE (s.rd R.COMMONS_STATUS_EPOCH)) = (s.rd (R.COMMONS_EPOCH_LIVE (s.rd R.COMMONS_STATUS_EPOCH)) + 1) % 2 ^ 32 := by
  intro s n q d hf hn hop hd hv hc hdl hhold hcap htag hused hmute
  have he := State.injectRequest_enters hd hv hc hdl hhold hcap htag hused hmute
  have hw := s.takeRequestSlot_writes n d q
  have hnet := s.takeRequestSlot_net n d q
  have hstp := s.takeRequestSlot_stp n d q
  have hkey := outFld_key q.vn n
  have hn256 := n.isLt
  have hrd {f : Fld} (h1 : f.key ≠ (0x46020004 + n * 0x1000) * 64) (h2 : f.key ≠ (0x46020004 + n * 0x1000) * 64 + 16)
      (h3 : ¬ledgerRegs f.key) : (s.takeRequestSlot n d q).rd f = s.rd f :=
    hw f (by rintro (h | h); exacts [hkey.elim (fun e => h1 (h.trans e)) (fun e => h2 (h.trans e)), h3 h])
  have hep : (s.takeRequestSlot n d q).rd R.COMMONS_STATUS_EPOCH = s.rd R.COMMONS_STATUS_EPOCH :=
    hrd (by simp only [Fld.key, R.COMMONS_STATUS_EPOCH]; omega) (by simp only [Fld.key, R.COMMONS_STATUS_EPOCH]; omega)
      (not_ledgerRegs (by decide) (by decide))
  have hroute : (s.takeRequestSlot n d q).route n d = s.route n d := by
    refine State.route_congr fun f hf => hrd ?_ ?_ ?_
    all_goals
      fin_cases hf <;> simp only [ledgerRegs, addrIn, Fld.key, R.TALLY_STATUS_FAULT, R.TALLY_FAULT_LAST_ID, R.TALLY_FAULT_COUNT_COUNT,
        R.COMMONS_NI_ROUTE_A_VALID, R.COMMONS_NI_ROUTE_A_CLOSED, R.COMMONS_NI_ROUTE_A_FIRST, R.COMMONS_NI_ROUTE_A_HOPS, R.COMMONS_NI_ROUTE_B_CODES] <;> omega
  have hlt : s.rd R.COMMONS_STATUS_EPOCH < 4 := State.rd_lt s R.COMMONS_STATUS_EPOCH
  have hlive : (s.takeRequestSlot n d q).rd (R.COMMONS_EPOCH_LIVE (s.rd R.COMMONS_STATUS_EPOCH)) =
      s.rd (R.COMMONS_EPOCH_LIVE (s.rd R.COMMONS_STATUS_EPOCH)) :=
    hrd (by simp only [Fld.key, R.COMMONS_EPOCH_LIVE]; omega) (by simp only [Fld.key, R.COMMONS_EPOCH_LIVE]; omega)
      (not_ledgerRegs (by simp only [Fld.key, R.COMMONS_EPOCH_LIVE]; omega) (by simp only [Fld.key, R.COMMONS_EPOCH_LIVE]; omega))
  have hout : (s.takeRequestSlot n d q).rd (outFld q.vn n) = s.rd (outFld q.vn n) + 1 := by
    rw [State.takeRequestSlot, State.setNet_rd, (WritesIn.refl ledgerRegs _).ledgerCount (fun _ h => h), State.inc_rd_same, Nat.mod_eq_of_lt (slot_fits hcap)]
    exact not_ledgerRegs (by omega) (by omega)
  have hnetOuts : (s.takeRequestSlot n d q).net.outs = s.net.outs ++ [⟨n, q.tag, d, q.vn, none⟩] := by rw [hnet, hdl]; rfl
  have hflight : (s.takeRequestSlot n d q).net.flight = s.net.flight := by rw [hnet]
  have hcount : (s.takeRequestSlot n d q).net.count = s.net.count := by rw [hnet]
  have htick : (s.takeRequestSlot n d q).tick = s.tick := by rw [State.tick, State.tick, hstp]
  obtain ⟨hhead, hcodes, hplace⟩ := State.entered_route (p := s.requestPacket n d q) hroute
  refine ⟨_, (s.takeRequestSlot n d q).entered n (s.requestPacket n d q), (execPacketInject_request hf hn hop).trans (congrArg _ he), ?_, ?_, hcount, rfl,
    rfl, rfl, rfl, htick, hep, ?_, ?_, ?_, ?_, ?_⟩
  · rw [State.enterPacket_net, hnetOuts]
  · rw [State.enterPacket_net, hflight]
  · exact hhead
  · exact hcodes
  · exact hplace hv
  · rw [← hout]
    refine (WritesIn.refl (fun k => ledgerRegs k ∨ addrIn 0x46000010 0x46000020 k) _).enterPacket (fun _ => .inl) (fun e _ => .inr ?_) _ _ _ ?_
    · simp only [addrIn, Fld.key, R.COMMONS_EPOCH_LIVE]
      omega
    · rintro (h | ⟨-, h⟩)
      · exact not_ledgerRegs (by omega) (by omega) h
      · omega
  · rw [State.enterPacket, State.creditSend, (WritesIn.refl ledgerRegs _).ledgerCount (fun _ h => h), hep, State.inc_rd_same, State.setNet_rd, hlive]
    · rfl
    · exact not_ledgerRegs (by simp only [Fld.key, R.COMMONS_EPOCH_LIVE]; omega) (by simp only [Fld.key, R.COMMONS_EPOCH_LIVE]; omega)

/-! ### Packets travel -/

/-- The answer with which a router answers a request. -/
def State.errorAnswer (s : State) (r : Nat) (p : Packet) (status cause : Nat) : Packet :=
  { p with
    op := 6, vn := 1, src := 4 * r, dest := p.src, lines := 0, deadline := none, status := status, cause := cause, w7 := 0, data := [],
      base := s.rd (R.COMMONS_NI_CFG_BASE_URG_A (4 * r)) }

theorem State.routerAnswer_request {s : State} {p : Packet} (h : p.isReq = true) (r status cause : Nat) :
    s.routerAnswer r p status cause = s.enterPacket (4 * r) (State.errorAnswer s r p status cause) := if_pos h

/-- The places that packets of the four epochs write as they come and go. -/
def packetRegs (k : Nat) : Prop := ledgerRegs k ∨ addrIn 0x46000010 0x46000020 k

theorem packetRegs_live {e : Nat} (h : e < 4) : packetRegs (R.COMMONS_EPOCH_LIVE e).key := by
  refine .inr ?_
  simp only [addrIn, Fld.key, R.COMMONS_EPOCH_LIVE]
  omega

theorem not_packetRegs {k : Nat} (h : 0x46000020 * 64 ≤ k) (h' : k < 0x47010000 * 64) : ¬packetRegs k := by
  rintro (hl | ⟨-, hu⟩)
  · exact not_ledgerRegs (by omega) h' hl
  · omega

theorem Commons.packet_append_none {c : Commons} {l : List Packet} {k : Nat} {a : Packet} (h : c.flight = l.filter (fun x => x.id != k) ++ [a])
    (ha : a.id ≠ k) : c.packet k = none := by
  rw [Commons.packet, h, List.find?_eq_none]
  intro x hx
  rcases List.mem_append.mp hx with hx | hx
  · simpa using (List.mem_filter.mp hx).2
  · rw [List.mem_singleton.mp hx]
    simpa using ha

theorem routerHeadArrival_lapses : ∀ (s : State) (k d r i : Nat) (p : Packet), s.net.packet k = some p → p.place = .input r i → r < 64 → p.epoch < 4 → p.deadline = some d →
    passed s.tick d = true → p.isReq = true → k < s.net.count → ∃ t a, exec (.routerHeadArrival k) s = .next t ∧ t.net.packet k = none ∧
      t.net.flight = s.net.flight.filter (fun x => x.id != k) ++ [a] ∧ a.op = 6 ∧ a.status = 1 ∧ a.cause = 1 ∧ a.dest = p.src ∧ a.tag = p.tag ∧
      t.rd (R.COMMONS_RTR_LAPSED r) = (s.rd (R.COMMONS_RTR_LAPSED r) + 1) % 2 ^ 32 := by
  intro s k d r i p hp hpl hr hep hd hpass hreq hk
  have hid := Commons.packet_id hp
  have hnet : ((((s.probes r i p).inc (R.COMMONS_RTR_LAPSED r)).endPacket p).absorbToken p).net =
      { (s.probes r i p).net with flight := (s.probes r i p).net.flight.filter (fun x => x.id != p.id) } := by
    rw [State.absorbToken_net, State.endPacket_net, State.inc_net]
  have hlapsed : ((((s.probes r i p).inc (R.COMMONS_RTR_LAPSED r)).endPacket p).absorbToken p).rd (R.COMMONS_RTR_LAPSED r) =
      (s.rd (R.COMMONS_RTR_LAPSED r) + 1) % 2 ^ 32 := by
    rw [((WritesIn.refl packetRegs _).endPacket (fun _ => .inl) (packetRegs_live hep)).absorbToken (fun _ => .inl) p, State.inc_rd_same,
      s.probes_writes r i p]
    · rfl
    · simp only [probeRegs, addrIn, Fld.key, R.COMMONS_RTR_LAPSED]
      omega
    · exact not_packetRegs (by simp only [Fld.key, R.COMMONS_RTR_LAPSED]; omega) (by simp only [Fld.key, R.COMMONS_RTR_LAPSED]; omega)
  have hsame := s.probes_net r i p
  have hexec : execRouterHeadArrival k s =
      .next (((((s.probes r i p).inc (R.COMMONS_RTR_LAPSED r)).endPacket p).absorbToken p).routerAnswer r p 1 1) := by
    unfold execRouterHeadArrival
    rw [hp]
    dsimp only
    rw [hpl]
    dsimp only
    exact if_pos (by simp [hd, hpass])
  rw [State.routerAnswer_request hreq] at hexec
  generalize (((s.probes r i p).inc (R.COMMONS_RTR_LAPSED r)).endPacket p).absorbToken p = w at hnet hlapsed hexec
  have hflight : w.net.flight = s.net.flight.filter (fun x => x.id != k) := by rw [hnet, hsame, hid]
  have hcount : w.net.count = s.net.count := by rw [hnet, hsame]
  have hout : (w.enterPacket (4 * r) (State.errorAnswer w r p 1 1)).net.flight =
      s.net.flight.filter (fun x => x.id != k) ++ [w.entered (4 * r) (State.errorAnswer w r p 1 1)] := by
    rw [State.enterPacket_net, hflight]
  refine ⟨_, w.entered (4 * r) (State.errorAnswer w r p 1 1), hexec, Commons.packet_append_none hout ?_, hout, rfl, rfl, rfl, rfl, rfl, ?_⟩
  · show w.net.count ≠ k
    omega
  · rw [← hlapsed]
    refine (WritesIn.refl packetRegs _).enterPacket (fun _ => .inl) (fun e he => packetRegs_live he) _ _ _ (not_packetRegs ?_ ?_) <;>
      simp only [Fld.key, R.COMMONS_RTR_LAPSED] <;> omega

theorem State.creditBack_net (s : State) (p : Packet) : (s.creditBack p).net = s.net := State.ledgerCount_net _ _ _ _
theorem State.creditSend_net (s : State) (p : Packet) : (s.creditSend p).net = s.net := State.ledgerCount_net _ _ _ _

/-- A packet that moves is found with what it has become. -/
theorem find_moved {l : List Packet} {k : Nat} {p q : Packet} (h : l.find? (fun x => x.id == k) = some p) (hq : q.id = k) :
    (l.map (fun x => if x.id == q.id then q else x)).find? (fun x => x.id == k) = some q := by
  induction l with
  | nil => cases h
  | cons x l ih =>
    rw [List.map_cons]
    by_cases hx : x.id = k
    · rw [if_pos (by rw [hx, hq, beq_self_eq_true]), List.find?_cons_of_pos (by simpa using hq)]
    · rw [List.find?_cons_of_neg (by simpa using hx)] at h
      rw [if_neg (by simpa [hq] using hx), List.find?_cons_of_neg (by simpa using hx)]
      exact ih h

theorem State.portMute_open {s : State} {r p : Nat} (h : s.portSt r p = 0) : s.portMute r p = false := by
  rw [State.portMute, h]; rfl

theorem routerHeadArrival_moves : ∀ (s : State) (k r i : Nat) (p : Packet) (b : PktAt), s.net.packet k = some p → p.place = .input r i → p.deadline = none →
    s.portSt r (p.out i).1 = 0 → bufAfter r (p.out i).1 s.stp.now = some b → s.net.fits b p = true → s.granted r i (p.out i).1 p = true →
    ∃ t, exec (.routerHeadArrival k) s = .next t ∧
      t.net.packet k = some { p with heading := (p.out i).2.1, codes := (p.out i).2.2, place := b } ∧ t.net.outs = s.net.outs := by
  intro s k r i p b hp hpl hd hst hb hfit hgr
  have hid := Commons.packet_id hp
  have hsame := s.probes_net r i p
  have hexec : execRouterHeadArrival k s = .next (if p.vn = 0 ∨ p.vn = 2 then
      (((((s.probes r i p).creditBack p).movePacket { p with heading := (p.out i).2.1, codes := (p.out i).2.2, place := b }).creditSend
        { p with heading := (p.out i).2.1, codes := (p.out i).2.2, place := b }).setNet (fun c => { c with last := c.last.set (8 * r + (p.out i).1) p.vn }))
      else ((((s.probes r i p).creditBack p).movePacket { p with heading := (p.out i).2.1, codes := (p.out i).2.2, place := b }).creditSend
        { p with heading := (p.out i).2.1, codes := (p.out i).2.2, place := b })) := by
    unfold execRouterHeadArrival
    rw [hp]
    dsimp only
    rw [hpl]
    dsimp only
    rw [if_neg (by simp [hd]), if_neg (by simp [hst]), if_neg (by simp [State.portMute_open hst]), if_neg (by simp [hst]), hb]
    dsimp only
    rw [if_neg (by simp [hfit, hgr])]
  generalize hq : ({ p with heading := (p.out i).2.1, codes := (p.out i).2.2, place := b } : Packet) = q at hexec ⊢
  have hqid : q.id = k := by rw [← hq]; exact hid
  have hnet : ((((s.probes r i p).creditBack p).movePacket q).creditSend q).net =
      { (s.probes r i p).net with flight := (s.probes r i p).net.flight.map (fun x => if x.id == q.id then q else x) } := by
    rw [State.creditSend_net, State.movePacket, State.setNet_net, State.creditBack_net]
  generalize (((s.probes r i p).creditBack p).movePacket q).creditSend q = u at hnet hexec
  have hflight : u.net.flight = s.net.flight.map (fun x => if x.id == q.id then q else x) := by rw [hnet, hsame]
  have houts : u.net.outs = s.net.outs := by rw [hnet, hsame]
  have hpacket : u.net.packet k = some q := by
    rw [Commons.packet, hflight]
    exact find_moved hp hqid
  refine ⟨_, hexec, ?_, ?_⟩
  · split
    · exact hpacket
    · exact hpacket
  · split
    · exact houts
    · exact houts

/-! ### Ejected packets and their answers -/

theorem Packet.isAns_of_isReq {p : Packet} (h : p.isReq = true) : p.isAns = false := by
  have hop : p.op ≤ 2 := by simpa [Packet.isReq] using h
  simp only [Packet.isAns, Bool.or_eq_false_iff, beq_eq_false_iff_ne]
  omega

theorem State.endPacket_live {s : State} {p : Packet} (h : p.epoch < 4) :
    (s.endPacket p).rd (R.COMMONS_EPOCH_LIVE p.epoch) = s.rd (R.COMMONS_EPOCH_LIVE p.epoch) - 1 := by
  have hk : ¬ledgerRegs (R.COMMONS_EPOCH_LIVE p.epoch).key :=
    not_ledgerRegs (by simp only [Fld.key, R.COMMONS_EPOCH_LIVE]; omega) (by simp only [Fld.key, R.COMMONS_EPOCH_LIVE]; omega)
  have hlt : s.rd (R.COMMONS_EPOCH_LIVE p.epoch) < 2 ^ (R.COMMONS_EPOCH_LIVE p.epoch).w := State.rd_lt _ _
  have hrd : ((s.dropPacket p.id).creditBack p).rd (R.COMMONS_EPOCH_LIVE p.epoch) = s.rd (R.COMMONS_EPOCH_LIVE p.epoch) :=
    (WritesIn.refl ledgerRegs _).ledgerCount (fun _ h => h) _ _ _ _ hk
  rw [State.endPacket, State.dec, State.wr_rd_same, hrd]
  exact Nat.mod_eq_of_lt (lt_of_le_of_lt (Nat.sub_le _ _) hlt)

theorem State.endPacket_packet {s : State} {k : Nat} {p : Packet} (h : s.net.packet k = some p) : (s.endPacket p).net.packet k = none :=
  Commons.packet_filter_ne (l := s.net.flight) (by rw [State.endPacket_net, Commons.packet_id h])

theorem packetEject_ejects : ∀ (s : State) (k r l u : Nat) (p : Packet), s.net.packet k = some p → p.place = .port r l u → p.isReq = true → p.toParish = false →
    s.stoolShut p = false → p.epoch < 4 → ∃ t, exec (.packetEject k) s = .next t ∧ t.net.ejected = s.net.ejected ++ [⟨p, s.stp.now⟩] ∧
      t.net.packet k = none ∧ t.rd (R.COMMONS_EPOCH_LIVE p.epoch) = s.rd (R.COMMONS_EPOCH_LIVE p.epoch) - 1 := by
  intro s k r l u p hp hpl hreq hpar hshut hep
  have hexec : execPacketEject k s = .next ((s.endPacket p).setNet (fun c => { c with ejected := c.ejected ++ [⟨p, s.stp.now⟩] })) := by
    unfold execPacketEject
    rw [hp]
    dsimp only
    rw [hpl]
    dsimp only
    rw [if_neg (by rw [Packet.isAns_of_isReq hreq]; exact Bool.false_ne_true), if_pos hreq, if_neg (by rw [hpar]; exact Bool.false_ne_true),
      if_neg (by rw [hshut]; exact Bool.false_ne_true)]
  refine ⟨(s.endPacket p).setNet (fun c => { c with ejected := c.ejected ++ [⟨p, s.stp.now⟩] }), hexec, ?_, ?_, ?_⟩
  · rw [State.setNet_net, State.endPacket_net]
  · have hflight : ((s.endPacket p).setNet (fun c => { c with ejected := c.ejected ++ [⟨p, s.stp.now⟩] })).net.flight = (s.endPacket p).net.flight := by
      rw [State.setNet_net]
    exact (Commons.packet_of_flight hflight k).trans (State.endPacket_packet hp)
  · rw [State.setNet_rd]
    exact State.endPacket_live hep

theorem answerArrival_stray : ∀ (s : State) (k r l u : Nat) (p : Packet), s.net.packet k = some p → p.place = .port r l u → p.isAns = true → p.dest < 256 →
    (∀ o ∈ s.net.outs, ¬ (o.src = p.dest ∧ o.tag = p.tag)) → p.epoch < 4 → ∃ t, exec (.answerArrival k) s = .next t ∧ t.net.packet k = none ∧
      t.rd (R.COMMONS_NI_STRAY p.dest) = (s.rd (R.COMMONS_NI_STRAY p.dest) + 1) % 2 ^ 32 ∧ t.ans = s.ans := by
  intro s k r l u p hp hpl hans hdest hnone hep
  have hfind : s.net.outs.find? (fun o => o.src == p.dest && o.tag == p.tag) = none :=
    List.find?_eq_none.mpr fun o ho => by simpa using hnone o ho
  have hexec : execAnswerArrival k s = .next ((s.endPacket p).inc (R.COMMONS_NI_STRAY p.dest)) := by
    simp only [execAnswerArrival, hp, hpl, hans, hfind, Bool.not_true, Bool.false_eq_true, if_false]
  refine ⟨_, hexec, ?_, ?_, ?_⟩
  · rw [State.inc_net]
    exact State.endPacket_packet hp
  · rw [State.inc_rd_same, (WritesIn.refl packetRegs _).endPacket (fun _ => .inl) (packetRegs_live hep)]
    · rfl
    · exact not_packetRegs (by simp only [Fld.key, R.COMMONS_NI_STRAY]; omega) (by simp only [Fld.key, R.COMMONS_NI_STRAY]; omega)
  · rw [State.inc_ans]
    exact (keeps_endPacket (.refl (partsBut .ans) s) (by decide) (by decide) (by decide) (by decide) (by decide) p).same_of_but

theorem State.ewlReturn_net (s : State) (n : Nat) (p : Packet) : (s.ewlReturn n p).net = s.net :=
  (keeps_ewlReturn (.refl (partsBut .net) s) (by decide) (by decide) n p).same_of_but

theorem answerArrival_answers : ∀ (s : State) (k r l u : Nat) (p : Packet) (o : OutReq), s.net.packet k = some p → p.place = .port r l u → p.isAns = true →
    s.net.outs.find? (fun o => o.src == p.dest && o.tag == p.tag) = some o → ∃ t, exec (.answerArrival k) s = .next t ∧
      t.ans = ⟨statusOf p.status, p.cause, p.data⟩ ∧ t.net.outs = s.net.outs.filter (fun x => !(x.src == p.dest && x.tag == p.tag)) ∧
      t.net.packet k = none := by
  intro s k r l u p o hp hpl hans hfind
  show ∃ t, execAnswerArrival k s = .next t ∧ _
  simp only [execAnswerArrival, hp, hpl, hans, hfind, Bool.not_true, Bool.false_eq_true, if_false]
  refine ⟨_, rfl, rfl, ?_, ?_⟩
  · rw [State.reply_net, State.ewlReturn_net, State.ledgerCount_net, State.dec, State.wr_net, State.showHold, State.wrB_net]
    rfl
  · rw [State.reply_net, State.ewlReturn_net, State.ledgerCount_net, State.dec, State.wr_net, State.showHold, State.wrB_net]
    rw [State.setNet_net, ← State.endPacket_packet hp]
    exact Commons.packet_of_flight (c := (s.endPacket p).net) rfl k

/-! ### A port dies -/

theorem State.routerAnswer_ejected (s : State) (r : Nat) (p : Packet) (status cause : Nat) :
    (s.routerAnswer r p status cause).net.ejected = s.net.ejected := by
  unfold State.routerAnswer
  split
  · rw [State.enterPacket_net]
  · rfl

/-- The answers that a dying port's requests get leave the states of ports and what has been ejected elsewhere. -/
def portDeathRegs (k : Nat) : Prop := ledgerRegs k ∨ k % 64 = 0

theorem live_lo (e : Nat) : portDeathRegs (R.COMMONS_EPOCH_LIVE e).key := .inr (by simp only [Fld.key, R.COMMONS_EPOCH_LIVE]; omega)

theorem State.killPort_portSt (s : State) {r l : Nat} (hr : r < 64) (hl : l < 4) : (s.killPort r l).portSt r (4 + l) = 5 := by
  have hk : ¬portDeathRegs (R.COMMONS_RTR_PORT_STATUS_STATE r (4 + l)).key := by
    rintro (h | h)
    · exact not_ledgerRegs (by simp only [Fld.key, R.COMMONS_RTR_PORT_STATUS_STATE]; omega) (by simp only [Fld.key, R.COMMONS_RTR_PORT_STATUS_STATE]; omega) h
    · simp only [Fld.key, R.COMMONS_RTR_PORT_STATUS_STATE] at h
      omega
  have habs : portDeathRegs (R.COMMONS_RTR_ABSORBED_DEAD r).key := .inr (by simp only [Fld.key, R.COMMONS_RTR_ABSORBED_DEAD]; omega)
  have hfold {a t : State} (h : WritesIn portDeathRegs a t) (ej : List Ejected) (held : List Packet) : WritesIn portDeathRegs a
      (held.foldl (fun t p => (((t.inc (R.COMMONS_RTR_ABSORBED_DEAD r)).endPacket p).absorbToken p).routerAnswer r p 4 2)
        (ej.foldl (fun t e => t.routerAnswer r e.pkt 4 2) t)) := by
    refine WritesIn.foldl _ (fun t p _ ht => ?_) (WritesIn.foldl _ (fun t e _ ht => ?_) h)
    · exact (((ht.inc habs).endPacket (fun _ => .inl) (live_lo _)).absorbToken (fun _ => .inl) _).routerAnswer (fun _ => .inl) (fun e _ => live_lo e) _ _ _ _
    · exact ht.routerAnswer (fun _ => .inl) (fun e _ => live_lo e) _ _ _ _
  rw [State.portSt, State.killPort, State.irqIf_rd, State.raise_rd, State.wr_rd_ne _ _ _ _ (by simp only [Fld.key, R.COMMONS_RTR_PORT_STATUS_STATE, R.COMMONS_DEAD_LAST_PORT, ne_eq]; omega),
    State.wr_rd_ne _ _ _ _ (by simp only [Fld.key, R.COMMONS_RTR_PORT_STATUS_STATE, R.COMMONS_DEAD_LAST_ROUTER, ne_eq]; omega),
    State.wr_rd_ne _ _ _ _ (by simp only [Fld.key, R.COMMONS_RTR_PORT_STATUS_STATE, R.COMMONS_STATUS_DEAD_SEEN, ne_eq]; omega), hfold (.refl _ _) _ _ _ hk, State.wr_rd_same]
  rfl

theorem State.killPort_ejected (s : State) (r l : Nat) : (s.killPort r l).net.ejected = s.net.ejected.filter (fun e => e.pkt.dest != 4 * r + l) := by
  have hej : ∀ (ej : List Ejected) (t : State), (ej.foldl (fun t e => t.routerAnswer r e.pkt 4 2) t).net.ejected = t.net.ejected := by
    intro ej
    induction ej with
    | nil => exact fun _ => rfl
    | cons e ej ih => exact fun t => (ih _).trans (State.routerAnswer_ejected _ _ _ _ _)
  have hheld : ∀ (l : List Packet) (t : State), (l.foldl (fun t p => (((t.inc (R.COMMONS_RTR_ABSORBED_DEAD r)).endPacket p).absorbToken p).routerAnswer r p 4 2)
      t).net.ejected = t.net.ejected := by
    intro l
    induction l with
    | nil => exact fun _ => rfl
    | cons p l ih =>
      intro t
      rw [List.foldl_cons, ih, State.routerAnswer_ejected, State.absorbToken_net, State.endPacket_net, State.inc_net]
  rw [State.killPort, State.irqIf_net, State.raise_net, State.wr_net, State.wr_net, State.wr_net, hheld, hej, State.wr_net]
  rfl

theorem State.killPort_shows (s : State) {r l : Nat} (hr : r < 64) (hl : l < 4) : (s.killPort r l).rd R.COMMONS_STATUS_DEAD_SEEN = 1 ∧
    (s.killPort r l).rd R.COMMONS_DEAD_LAST_ROUTER = r ∧ (s.killPort r l).rd R.COMMONS_DEAD_LAST_PORT = 4 + l := by
  simp only [State.killPort, State.irqIf_rd, State.raise_rd]
  refine ⟨?_, ?_, ?_⟩
  · rw [State.wr_rd_ne _ _ _ _ (by decide), State.wr_rd_ne _ _ _ _ (by decide), State.wr_rd_same]; rfl
  · rw [State.wr_rd_ne _ _ _ _ (by decide), State.wr_rd_same]
    exact Nat.mod_eq_of_lt hr
  · rw [State.wr_rd_same]
    exact Nat.mod_eq_of_lt (show 4 + l < 8 by omega)

theorem State.mem_irqIf (s : State) (x : HallSrc) (i : Nat) : ⟨x, i⟩ ∈ (s.irqIf true x i).hallIrq := by
  show ⟨x, i⟩ ∈ (if s.hallIrq.contains ⟨x, i⟩ then s.hallIrq else s.hallIrq ++ [⟨x, i⟩])
  split
  · next h => exact List.contains_iff_mem.mp h
  · exact List.mem_append_right _ (List.mem_singleton_self _)

theorem targetTimeout_dies : ∀ (s : State) (r : Fin 64) (l : Fin 4) (e : Ejected), s.portSt r (4 + l.val) = 0 → e ∈ s.net.ejected → e.pkt.dest = 4 * r.val + l.val →
    e.tick + fourUs ≤ s.stp.now → ∃ t, exec (.targetTimeout r l) s = .next t ∧ t.portSt r (4 + l.val) = 5 ∧
      t.rd R.COMMONS_STATUS_DEAD_SEEN = 1 ∧ t.rd R.COMMONS_DEAD_LAST_ROUTER = r ∧ t.rd R.COMMONS_DEAD_LAST_PORT = 4 + l.val ∧
      (∀ x ∈ t.net.ejected, x.pkt.dest ≠ 4 * r.val + l.val) ∧
      (s.bit R.COMMONS_CTRL_IRQ_DEAD = true → ⟨.portDead, 8 * r.val + 4 + l.val⟩ ∈ t.hallIrq) := by
  intro s r l e hst he hdest hlate
  have hexec : execTargetTimeout r l s = .next (s.killPort r l) := by
    have hany : s.net.ejected.any (fun e => e.pkt.dest == 4 * r.val + l.val && decide (e.tick + fourUs ≤ s.stp.now)) = true :=
      List.any_eq_true.mpr ⟨e, he, by simp [hdest, hlate]⟩
    refine if_pos ⟨?_, .inl hst, by simp [State.portMute_open hst]⟩
    simp only [hany, Bool.true_or]
  obtain ⟨hseen, hrouter, hport⟩ := State.killPort_shows s r.isLt l.isLt
  refine ⟨_, hexec, State.killPort_portSt s r.isLt l.isLt, hseen, hrouter, hport, fun x hx => ?_, fun hirq => ?_⟩
  · rw [State.killPort_ejected] at hx
    simpa using (List.mem_filter.mp hx).2
  · rw [State.killPort, hirq]
    exact State.mem_irqIf _ _ _

/-- Settles O38: each clause is a lemma above about one command. -/
theorem commonsPacketsAndDeadPorts : Obligations.CommonsPacketsAndDeadPorts :=
  ⟨packetInject_illFormed, packetInject_noRoute, packetInject_closed, packetInject_late, packetInject_enters, routerHeadArrival_lapses,
    routerHeadArrival_moves, packetEject_ejects, answerArrival_stray, answerArrival_answers, targetTimeout_dies⟩

end Sys2Proof.Claims

/-! ## O39: the Tally's snapshots, peeks and faults -/

namespace Sys2Proof.Machine

set_option Elab.async false

open Sys2Proof.Claims

theorem State.withTally_rd (s : State) (x : Tally) (f : Fld) : ({ s with tally := x } : State).rd f = s.rd f := rfl

theorem State.snapCause_lt (s : State) (p : Bool) : s.snapCause p < 8 := by
  unfold State.snapCause
  dsimp only
  split_ifs <;> decide

/-- Written without an error answer, every record has been written. -/
theorem State.writeRecords_count (l : List (List Nat)) (s : State) (a : Nat) (h : (s.writeRecords a l).2.1 = none) : (s.writeRecords a l).1 = l.length := by
  induction l generalizing s a with
  | nil => rfl
  | cons r l ih =>
    unfold State.writeRecords at h ⊢
    split at h
    · cases h
    · exact congrArg (· + 1) (ih _ _ h)

theorem State.writeRecords_writes (l : List (List Nat)) {s t : State} (h : WritesIn memRegs s t) (a : Nat) : WritesIn memRegs s (t.writeRecords a l).2.2 := by
  induction l generalizing t a with
  | nil => exact h
  | cons r l ih =>
    unfold State.writeRecords
    split
    · exact h
    · exact ih (h.dmaWrite _ _ _) _

theorem snapStatus_lt (a : AnsStatus) : snapStatus a < 16 := by
  unfold snapStatus
  split_ifs <;> decide

/-- What the end of a snapshot shows. -/
theorem State.endSnap_rd (s : State) {st n : Nat} (h : st < 16) : (s.endSnap st n).rd R.TALLY_SNAP_STATUS_STATE = 3 ∧
    (s.endSnap st n).rd R.TALLY_SNAP_STATUS_STATUS = st ∧ (s.endSnap st n).rd R.TALLY_SNAP_STATUS_RECORDS = n % 2 ^ 13 := by
  simp only [State.endSnap, State.irqIf_rd]
  refine ⟨?_, ?_, State.wr_rd_same _ _ _⟩
  · rw [State.wr_rd_ne _ _ _ _ (by decide), State.wr_rd_ne _ _ _ _ (by decide), State.wr_rd_same]; rfl
  · rw [State.wr_rd_ne _ _ _ _ (by decide), State.wr_rd_same]
    exact Nat.mod_eq_of_lt h

/-- What an arm shows. -/
theorem State.armSnap_rd (s : State) (k : Nat) (p : Bool) (r : Option Nat) : (s.armSnap k p r).rd R.TALLY_SNAP_STATUS_STATE = 1 ∧
    (s.armSnap k p r).rd R.TALLY_SNAP_STATUS_STATUS = 0 ∧ (s.armSnap k p r).rd R.TALLY_SNAP_STATUS_RECORDS = 0 := by
  refine ⟨?_, ?_, State.wr_rd_same _ _ _⟩
  · refine (State.wr_rd_ne _ _ _ _ (by decide)).trans ?_
    rw [State.wr_rd_ne _ _ _ _ (by decide), State.wr_rd_same]; rfl
  · refine (State.wr_rd_ne _ _ _ _ (by decide)).trans ?_
    rw [State.wr_rd_same]; rfl

theorem toNat_lo32_hi32 (d : DWord) : lo32 d % 2 ^ 32 + 2 ^ 32 * (hi32 d % 2 ^ 32) = d.toNat := by
  have := d.isLt
  unfold lo32 hi32
  omega

end Sys2Proof.Machine

namespace Sys2Proof.Claims

set_option Elab.async false

open Sys2Proof.Machine

/-! ### Snapshots -/

theorem tallySnapArm_arms : ∀ (s : State) (v : Word), bitOf v 31 = true → s.snapCause (bitOf v 30) = 0 → ∃ t, exec (.tallySnapArm v none) s = .next t ∧
    t.rd R.TALLY_SNAP_STATUS_STATE = 1 ∧ t.rd R.TALLY_SNAP_STATUS_STATUS = 0 ∧ t.rd R.TALLY_SNAP_STATUS_RECORDS = 0 ∧
    t.tally.capTick = s.rd R.TALLY_SNAP_TICK ∧ t.tally.parish = bitOf v 30 ∧
    sameRegs s t [R.TALLY_SNAP_STATUS_STATE, R.TALLY_SNAP_STATUS_STATUS, R.TALLY_SNAP_STATUS_RECORDS] := by
  intro s v hv hc
  have he : execTallySnapArm v none s = .next (s.armSnap (s.rd R.TALLY_SNAP_TICK) (bitOf v 30) none) := by
    unfold execTallySnapArm
    dsimp only
    rw [if_neg (by simp [hv]), if_pos hc]
  obtain ⟨h1, h2, h3⟩ := s.armSnap_rd (s.rd R.TALLY_SNAP_TICK) (bitOf v 30) none
  have h0 : sameRegs s (((s.wr R.TALLY_SNAP_STATUS_STATE 1).wr R.TALLY_SNAP_STATUS_STATUS 0).wr R.TALLY_SNAP_STATUS_RECORDS 0)
      [R.TALLY_SNAP_STATUS_STATE, R.TALLY_SNAP_STATUS_STATUS, R.TALLY_SNAP_STATUS_RECORDS] :=
    (((sameRegs.refl s _).wr (by simp) _).wr (by simp) _).wr (by simp) _
  exact ⟨_, he, h1, h2, h3, rfl, rfl, h0.of_regs rfl⟩

theorem tallySnapArm_refused : ∀ (s : State) (v : Word), bitOf v 31 = true → s.snapCause (bitOf v 30) ≠ 0 → ∃ t, exec (.tallySnapArm v none) s = .next t ∧
    t.rd R.TALLY_STATUS_SNAP_REFUSED = 1 ∧ t.rd R.TALLY_STATUS_REFUSE_CAUSE = s.snapCause (bitOf v 30) ∧ t.tally = s.tally ∧
    sameRegs s t [R.TALLY_STATUS_SNAP_REFUSED, R.TALLY_STATUS_REFUSE_CAUSE] := by
  intro s v hv hc
  have he : execTallySnapArm v none s = .next ((s.wr R.TALLY_STATUS_SNAP_REFUSED 1).wr R.TALLY_STATUS_REFUSE_CAUSE (s.snapCause (bitOf v 30))) := by
    unfold execTallySnapArm
    dsimp only
    rw [if_neg (by simp [hv]), if_neg hc]
  refine ⟨_, he, ?_, ?_, rfl, ((sameRegs.refl s _).wr (by simp) _).wr (by simp) _⟩
  · rw [State.wr_rd_ne _ _ _ _ (by decide), State.wr_rd_same]; rfl
  · rw [State.wr_rd_same]
    exact Nat.mod_eq_of_lt (s.snapCause_lt _)

theorem tallySnapArm_ignored : ∀ (s : State) (v : Word), bitOf v 31 = false → exec (.tallySnapArm v none) s = .next s := by
  intro s v hv
  exact if_pos (by rw [hv]; rfl)

theorem tallySnapArm_member : ∀ (s : State) (v : Word) (k a : Nat), s.bit R.EWL_PARISH_IN_PARISH = true → s.rd R.EWL_PARISH_MEMBER ≠ 0 →
    s.rd R.TALLY_SNAP_STATUS_STATE ≠ 1 → s.rd R.TALLY_SNAP_STATUS_STATE ≠ 2 → tickBefore s.tick k = true →
    ∃ t, exec (.tallySnapArm v (some (k, a))) s = .next t ∧ t.rd R.TALLY_SNAP_STATUS_STATE = 1 ∧ t.tally.capTick = k ∧
      t.tally.remote = some (a + s.rd R.EWL_PARISH_MEMBER * 0x8000) := by
  intro s v k a hp hm h1 h2 hk
  obtain ⟨h, -, -⟩ := s.armSnap_rd k false (some (a + s.rd R.EWL_PARISH_MEMBER * 0x8000))
  exact ⟨_, if_pos ⟨hp, hm, h1, h2, hk⟩, h, rfl, rfl⟩

/-- The snapshot is captured in the Tally. -/
def State.captureSnap (s : State) : State :=
  { s with tally := { s.tally with snap := allLedgers.map s.ledgerRecord, seq := (s.tally.seq + 1) % 2 ^ 32, capTick := s.tick } }

theorem tallySnapshotCapture_captures : ∀ (s : State), s.rd R.TALLY_SNAP_STATUS_STATE = 1 → passed s.tick s.tally.capTick = true → ∃ t, exec .tallySnapshotCapture s = .next t ∧
    t.tally.snap = allLedgers.map s.ledgerRecord ∧ t.tally.capTick = s.tick ∧ t.tally.seq = (s.tally.seq + 1) % 2 ^ 32 ∧
    t.tally.slices = s.tally.slices ∧ t.rd R.TALLY_SNAP_STATUS_STATE = 2 ∧ t.rd R.TALLY_SNAP_STATUS_SNAP_SEQ = (s.tally.seq + 1) % 256 ∧
    sameRegs s t [R.TALLY_SNAP_STATUS_STATE, R.TALLY_SNAP_STATUS_SNAP_SEQ] := by
  intro s h1 hp
  have he : execTallySnapshotCapture s =
      .next (((State.captureSnap s).wr R.TALLY_SNAP_STATUS_STATE 2).wr R.TALLY_SNAP_STATUS_SNAP_SEQ ((s.tally.seq + 1) % 2 ^ 32)) := if_pos ⟨h1, hp⟩
  refine ⟨_, he, ?_, ?_, ?_, ?_, ?_, ?_, ?_⟩
  · rw [State.wr_tally, State.wr_tally, State.captureSnap]
  · rw [State.wr_tally, State.wr_tally, State.captureSnap]
  · rw [State.wr_tally, State.wr_tally, State.captureSnap]
  · rw [State.wr_tally, State.wr_tally, State.captureSnap]
  · rw [State.wr_rd_ne _ _ _ _ (by decide), State.wr_rd_same]; rfl
  · rw [State.wr_rd_same]
    exact Nat.mod_mod_of_dvd _ (by decide)
  · have h0 : sameRegs s (State.captureSnap s) [R.TALLY_SNAP_STATUS_STATE, R.TALLY_SNAP_STATUS_SNAP_SEQ] := (sameRegs.refl s _).of_regs rfl
    exact (h0.wr (by simp) _).wr (by simp) _

theorem tallySnapshotCapture_early : ∀ (s : State), passed s.tick s.tally.capTick = false → exec .tallySnapshotCapture s = .next s := by
  intro s hp
  exact if_neg (by simp [hp])

theorem tallyReadoutEnd_done : ∀ (s : State) (l : Bool), s.rd R.TALLY_SNAP_STATUS_STATE = 2 → s.tally.remote = none →
    (s.writeRecords (64 * s.tally.capAddr) s.snapRecords).2.1 = none → ∃ t, exec (.tallyReadoutEnd l) s = .next t ∧
      t.rd R.TALLY_SNAP_STATUS_STATE = 3 ∧ t.rd R.TALLY_SNAP_STATUS_RECORDS = (s.tally.snap.length + 1) % 2 ^ 13 ∧
      t.rd R.TALLY_SNAP_STATUS_STATUS = (if l = true ∧ s.tally.parish = true then 3 else
        if s.tally.snap.any (fun r => r.flags.unreconciled || r.flags.bound) then 1 else 0) ∧
      t.ms = (s.writeRecords (64 * s.tally.capAddr) s.snapRecords).2.2.ms ∧
      (s.bit R.TALLY_CTRL_IRQ_SNAP = true → ⟨.snapshot, 0⟩ ∈ t.hallIrq) := by
  intro s l h2 hr hok
  have hn : (s.writeRecords (64 * s.tally.capAddr) s.snapRecords).1 = s.tally.snap.length + 1 := by
    rw [State.writeRecords_count _ _ _ hok, State.snapRecords, List.length_append, List.length_map]; rfl
  have he : execTallyReadoutEnd l s = .next ((s.writeRecords (64 * s.tally.capAddr) s.snapRecords).2.2.endSnap (if l = true ∧ s.tally.parish = true then 3 else
        if s.tally.snap.any (fun r => r.flags.unreconciled || r.flags.bound) then 1 else 0) (s.tally.snap.length + 1)) := by
    unfold execTallyReadoutEnd
    rw [if_neg (by simp [h2]), hr]
    dsimp only
    rw [hok, hn]
  have hirq : (s.writeRecords (64 * s.tally.capAddr) s.snapRecords).2.2.bit R.TALLY_CTRL_IRQ_SNAP = s.bit R.TALLY_CTRL_IRQ_SNAP := by
    rw [State.bit_eq, State.bit_eq, State.writeRecords_writes _ (.refl _ s)]
    simp only [memRegs, addrIn]
    decide
  generalize (s.writeRecords (64 * s.tally.capAddr) s.snapRecords).2.2 = t at he hirq ⊢
  have hst : (if l = true ∧ s.tally.parish = true then 3 else if s.tally.snap.any (fun r => r.flags.unreconciled || r.flags.bound) then 1 else 0) < 16 := by
    split_ifs <;> decide
  obtain ⟨h1, h2, h3⟩ := t.endSnap_rd (n := s.tally.snap.length + 1) hst
  refine ⟨_, he, h1, h3, h2, ?_, fun hi => ?_⟩
  · rw [State.endSnap, State.irqIf_ms, State.wr_ms, State.wr_ms, State.wr_ms]
  · rw [State.endSnap, hirq, hi]
    exact State.mem_irqIf _ _ _

theorem tallyReadoutEnd_member : ∀ (s : State) (l : Bool) (a : Nat), s.rd R.TALLY_SNAP_STATUS_STATE = 2 → s.tally.remote = some a → ∃ t, exec (.tallyReadoutEnd l) s = .next t ∧
    t.sent = s.sent ++ [.parish 0 a s.snapRecords.flatten] ∧ t.rd R.TALLY_SNAP_STATUS_STATE = 0 ∧ t.ms = s.ms := by
  intro s l a h2 hr
  have he : execTallyReadoutEnd l s = .next ((s.send (.parish 0 a s.snapRecords.flatten)).wr R.TALLY_SNAP_STATUS_STATE 0) := by
    unfold execTallyReadoutEnd
    rw [if_neg (by simp [h2]), hr]
  exact ⟨_, he, rfl, State.wr_rd_same _ _ _, rfl⟩

theorem tallyReadoutError_ends : ∀ (s : State) (r : Option AnsStatus) (e : Answer), s.rd R.TALLY_SNAP_STATUS_STATE = 2 → s.tally.remote = none →
    (s.writeRecords (64 * s.tally.capAddr) s.snapRecords).2.1 = some e → ∃ t, exec (.tallyReadoutError r) s = .next t ∧
      t.rd R.TALLY_SNAP_STATUS_STATE = 3 ∧ t.rd R.TALLY_SNAP_STATUS_STATUS = snapStatus e.status := by
  intro s r e h2 hr herr
  have he : execTallyReadoutError r s = .next ((s.writeRecords (64 * s.tally.capAddr) s.snapRecords).2.2.endSnap (snapStatus e.status)
      (s.writeRecords (64 * s.tally.capAddr) s.snapRecords).1) := by
    unfold execTallyReadoutError
    rw [if_neg (by simp [h2]), hr]
    dsimp only
    rw [herr]
  obtain ⟨h1, h2, -⟩ := (s.writeRecords (64 * s.tally.capAddr) s.snapRecords).2.2.endSnap_rd
    (n := (s.writeRecords (64 * s.tally.capAddr) s.snapRecords).1) (snapStatus_lt e.status)
  exact ⟨_, he, h1, h2⟩

/-! ### Peeks -/

theorem tallyPeek_peeks : ∀ (s : State) (v : Word), ∃ t, exec (.tallyPeek v) s = .next t ∧ t.rd R.TALLY_PEEK_STATUS_PEEK_VALID = 0 ∧
    t.rd R.TALLY_PEEK_STATUS_LEDGER_ID = bitsOf v 0 12 ∧
    t.rd R.TALLY_PEEK_STATUS_PEEK_ABSENT = (if ledgerPresent (bitsOf v 0 12) then 0 else 1) ∧
    t.tally.peek = (if ledgerPresent (bitsOf v 0 12) then some (bitsOf v 0 12, s.stp.now + 2000 * 65536) else none) := by
  intro s v
  have hid : bitsOf v 0 12 < 2 ^ 12 := Nat.mod_lt _ (by decide)
  show ∃ t, execTallyPeek v s = .next t ∧ _
  refine ⟨_, rfl, ?_, ?_, ?_, rfl⟩
  · refine (State.wr_rd_ne _ _ _ _ (by decide)).trans ?_
    rw [State.wr_rd_ne _ _ _ _ (by decide), State.wr_rd_ne _ _ _ _ (by decide), State.wrB, State.wr_rd_ne _ _ _ _ (by decide), State.wr_rd_same]; rfl
  · exact (State.wr_rd_same _ _ _).trans (Nat.mod_eq_of_lt hid)
  · refine (State.wr_rd_ne _ _ _ _ (by decide)).trans ?_
    rw [State.wr_rd_ne _ _ _ _ (by decide), State.wr_rd_ne _ _ _ _ (by decide), wrB_bit_rd _ rfl]
    cases ledgerPresent (bitsOf v 0 12) <;> rfl

/-- What a peek shows of a ledger. -/
def State.showPeek (s : State) (r : LedgerRecord) : State :=
  ((((((((s.wr R.TALLY_PEEK_ISSUED_LO (lo32 r.issued)).wr R.TALLY_PEEK_ISSUED_HI (hi32 r.issued)).wr R.TALLY_PEEK_RETURNED_LO
    (lo32 r.returned)).wr R.TALLY_PEEK_RETURNED_HI (hi32 r.returned)).wr R.TALLY_PEEK_OUT (lo32 (r.issued - r.returned))).wr
    R.TALLY_PEEK_STATUS_PEEK_VALID 1).wrB R.TALLY_PEEK_STATUS_UNRECONCILED r.flags.unreconciled).wrB R.TALLY_PEEK_STATUS_BOUND r.flags.bound)

theorem State.showPeek_rd (s : State) (r : LedgerRecord) : (State.showPeek s r).rd R.TALLY_PEEK_STATUS_PEEK_VALID = 1 ∧
    (State.showPeek s r).rd R.TALLY_PEEK_ISSUED_LO = lo32 r.issued % 2 ^ 32 ∧ (State.showPeek s r).rd R.TALLY_PEEK_ISSUED_HI = hi32 r.issued % 2 ^ 32 ∧
    (State.showPeek s r).rd R.TALLY_PEEK_RETURNED_LO = lo32 r.returned % 2 ^ 32 ∧
    (State.showPeek s r).rd R.TALLY_PEEK_RETURNED_HI = hi32 r.returned % 2 ^ 32 ∧
    (State.showPeek s r).rd R.TALLY_PEEK_OUT = lo32 (r.issued - r.returned) % 2 ^ 32 := by
  refine ⟨?_, ?_, ?_, ?_, ?_, ?_⟩ <;>
    simp (disch := decide) only [State.showPeek, State.wrB_rd_ne, State.wr_rd_ne] <;> exact State.wr_rd_same _ _ _

theorem tallyPeekValues_shows : ∀ (s : State) (id t0 : Nat), s.tally.peek = some (id, t0) → t0 ≤ s.stp.now → ∃ t, exec .tallyPeekValues s = .next t ∧
    t.rd R.TALLY_PEEK_STATUS_PEEK_VALID = 1 ∧ t.rd R.TALLY_PEEK_ISSUED_LO + 2 ^ 32 * t.rd R.TALLY_PEEK_ISSUED_HI = (s.ledgerIssued id).toNat ∧
    t.rd R.TALLY_PEEK_RETURNED_LO + 2 ^ 32 * t.rd R.TALLY_PEEK_RETURNED_HI = (s.ledgerReturned id).toNat ∧
    t.rd R.TALLY_PEEK_OUT = (s.ledgerIssued id - s.ledgerReturned id).toNat % 2 ^ 32 ∧ t.tally.peek = none := by
  intro s id t0 hp ht
  have he : execTallyPeekValues s = .next { State.showPeek s (s.ledgerRecord id) with tally := { (State.showPeek s (s.ledgerRecord id)).tally with peek := none } } := by
    unfold execTallyPeekValues
    rw [hp]
    exact if_neg (by omega)
  obtain ⟨hv, hil, hih, hrl, hrh, hout⟩ := State.showPeek_rd s (s.ledgerRecord id)
  generalize State.showPeek s (s.ledgerRecord id) = t at *
  refine ⟨_, he, hv, ?_, ?_, hout.trans (Nat.mod_mod _ _), rfl⟩
  · show t.rd R.TALLY_PEEK_ISSUED_LO + 2 ^ 32 * t.rd R.TALLY_PEEK_ISSUED_HI = _
    rw [hil, hih]
    exact toNat_lo32_hi32 _
  · show t.rd R.TALLY_PEEK_RETURNED_LO + 2 ^ 32 * t.rd R.TALLY_PEEK_RETURNED_HI = _
    rw [hrl, hrh]
    exact toNat_lo32_hi32 _

/-! ### Faults and votes -/

/-- A ledger that was reconciled becomes UNRECONCILED, and the Tally shows it. -/
theorem State.ledgerFault_faults {s : State} {id : Nat} (h : (s.tally.flags.get id).unreconciled = false) (hid : id < 4096) :
    ((s.ledgerFault id).tally.flags.get id).unreconciled = true ∧ (s.ledgerFault id).tally.slices = s.tally.slices ∧
    (s.ledgerFault id).rd R.TALLY_STATUS_FAULT = 1 ∧ (s.ledgerFault id).rd R.TALLY_FAULT_LAST_ID = id ∧
    (s.bit R.TALLY_CTRL_IRQ_FAULT = true → ⟨.tallyFault, 0⟩ ∈ (s.ledgerFault id).hallIrq) := by
  have hbit : (((({ s with tally := { s.tally with flags := s.tally.flags.modify id (fun f => { f with unreconciled := true }) } } : State).wr
      R.TALLY_STATUS_FAULT 1).wr R.TALLY_FAULT_LAST_ID id).inc R.TALLY_FAULT_COUNT_COUNT).bit R.TALLY_CTRL_IRQ_FAULT = s.bit R.TALLY_CTRL_IRQ_FAULT := by
    rw [State.bit_eq, State.inc_rd_ne _ _ _ (by decide), State.wr_rd_ne _ _ _ _ (by decide), State.wr_rd_ne _ _ _ _ (by decide), State.withTally_rd, State.bit_eq]
  have hpool {t : State} {f : Fld} (hf : f.key < 0x46000000 * 64) :
      (if id / 256 = 4 then t.wr (R.GRANARY_POOL_STATUS_FAULT (id % 256)) 1 else t).rd f = t.rd f := by
    split
    · refine State.wr_rd_ne _ _ _ _ ?_
      simp only [Fld.key, R.GRANARY_POOL_STATUS_FAULT] at hf ⊢
      omega
    · rfl
  have htally {t : State} : (if id / 256 = 4 then t.wr (R.GRANARY_POOL_STATUS_FAULT (id % 256)) 1 else t).tally = t.tally := by
    split
    · exact State.wr_tally _ _ _
    · rfl
  have hirq {t : State} : (if id / 256 = 4 then t.wr (R.GRANARY_POOL_STATUS_FAULT (id % 256)) 1 else t).hallIrq = t.hallIrq := by
    split
    · exact State.wr_hallIrq _ _ _
    · rfl
  simp only [State.ledgerFault, h, Bool.false_eq_true, if_false]
  refine ⟨?_, ?_, ?_, ?_, fun hi => ?_⟩
  · rw [htally, State.irqIf_tally, State.raise_tally, State.inc_tally, State.wr_tally, State.wr_tally, Tab.get_modify_same]
  · rw [htally, State.irqIf_tally, State.raise_tally, State.inc_tally, State.wr_tally, State.wr_tally]
  · rw [hpool (by decide), State.irqIf_rd, State.raise_rd, State.inc_rd_ne _ _ _ (by decide), State.wr_rd_ne _ _ _ _ (by decide), State.wr_rd_same]; rfl
  · rw [hpool (by decide), State.irqIf_rd, State.raise_rd, State.inc_rd_ne _ _ _ (by decide), State.wr_rd_same]
    exact Nat.mod_eq_of_lt hid
  · rw [hirq, State.raise_bit, hbit, hi]
    exact State.mem_irqIf _ _ _

/-- A counter of a slice whose copies disagree. -/
def State.faultSlice (s : State) (k : Nat) (ret : Bool) : State :=
  { s with free := s.free + 1, tally := { s.tally with slices := s.tally.slices.modify k (fun y =>
    if ret then ⟨y.issued, BitVec.ofNat 64 (Config.freeValue s.free)⟩ else ⟨BitVec.ofNat 64 (Config.freeValue s.free), y.returned⟩) } }

theorem tallyFault_faults : ∀ (s : State) (id : Fin 4096) (p : Fin 49) (r : Bool), slicePresent id p = true → (s.tally.flags.get id).unreconciled = false →
    ∃ t, exec (.tallyFault id p r) s = .next t ∧ (t.tally.flags.get id).unreconciled = true ∧ t.rd R.TALLY_STATUS_FAULT = 1 ∧
      t.rd R.TALLY_FAULT_LAST_ID = id ∧ t.tally.slices.get (sliceKey id p) =
        (if r then ⟨(s.tally.slices.get (sliceKey id p)).issued, BitVec.ofNat 64 (Config.freeValue s.free)⟩
         else ⟨BitVec.ofNat 64 (Config.freeValue s.free), (s.tally.slices.get (sliceKey id p)).returned⟩) ∧
      (s.bit R.TALLY_CTRL_IRQ_FAULT = true → ⟨.tallyFault, 0⟩ ∈ t.hallIrq) := by
  intro s id p r h hflag
  have he : execTallyFault id p r s = .next ((State.faultSlice s (sliceKey id p) r).ledgerFault id) := if_pos h
  obtain ⟨h1, h2, h3, h4, h5⟩ := State.ledgerFault_faults (s := State.faultSlice s (sliceKey id p) r) (id := id) hflag id.isLt
  refine ⟨_, he, h1, h3, h4, ?_, h5⟩
  rw [h2]
  exact Tab.get_modify_same _ _ _

theorem tallyVoteCorrect_counts : ∀ (s : State) (id : Fin 4096) (p : Fin 49) (r : Bool), slicePresent id p = true → ∃ t, exec (.tallyVoteCorrect id p r) s = .next t ∧
    t.rd R.TALLY_CORRECTED = (s.rd R.TALLY_CORRECTED + 1) % 2 ^ 32 ∧ t.tally = s.tally ∧ sameRegs s t [R.TALLY_CORRECTED] := by
  intro s id p r h
  exact ⟨_, if_pos h, State.inc_rd_same s R.TALLY_CORRECTED, rfl, (sameRegs.refl s _).inc (List.mem_singleton_self _)⟩

/-- Settles O39: each clause is a lemma above about one command. -/
theorem tallySnapshotsPeeksAndFaults : Obligations.TallySnapshotsPeeksAndFaults :=
  ⟨tallySnapArm_arms, tallySnapArm_refused, tallySnapArm_ignored, tallySnapArm_member, tallySnapshotCapture_captures, tallySnapshotCapture_early,
    tallyReadoutEnd_done, tallyReadoutEnd_member, tallyReadoutError_ends, tallyPeek_peeks, tallyPeekValues_shows, tallyFault_faults,
    tallyVoteCorrect_counts⟩

end Sys2Proof.Claims

/-! ## O40: the Carter's runs -/

namespace Sys2Proof.Machine

set_option Elab.async false

open Sys2Proof.Claims

/-! ### A channel and the registers that show it -/

/-- Fields of a channel lie apart where they do in the Granary Carter's block. -/
theorem chFld_key_ne {g : Nat} {a b : Nat → Fld} (ha : 0x49001000 ≤ (a 0).addr) (hb : 0x49001000 ≤ (b 0).addr) (h : ∀ c, (a c).key ≠ (b c).key) :
    (chFld g a).key ≠ (chFld g b).key := by
  have hg := h g
  have h0 := h 0
  unfold chFld
  split
  · exact hg
  · simp only [Fld.key] at h0 ⊢
    omega

/-- A field keeps its place in the word whichever channel's it is. -/
theorem chFld_key_mod {g : Nat} {f : Nat → Fld} {n : Nat} (h : ∀ c, (f c).lo = n) (hn : n < 64) : (chFld g f).key % 64 = n := by
  have hg := h g
  have h0 := h 0
  unfold chFld
  split <;> simp only [Fld.key] <;> omega

theorem chFld_w {g : Nat} {f : Nat → Fld} {n : Nat} (h : ∀ c, (f c).w = n) : (chFld g f).w = n := by
  unfold chFld
  split
  · exact h g
  · exact h 0

theorem State.carter_congr {s t : State} (e : t.crt = s.crt) (g : Nat) : t.carter g = s.carter g := by rw [State.carter, State.carter, e]

theorem State.setCarter_crt (s : State) (g : Nat) (x : CarterCh) : (s.setCarter g x).crt = { s.crt with chans := s.crt.chans.set g x } := by
  simp only [State.setCarter, State.wr_crt, State.wrB_crt]

@[simp] theorem State.setCarter_carter (s : State) (g : Nat) (x : CarterCh) : (s.setCarter g x).carter g = x := by
  rw [State.carter, State.setCarter_crt]
  exact Tab.get_set_same _ _ _

theorem State.setCarter_carter_ne (s : State) {g k : Nat} (h : k ≠ g) (x : CarterCh) : (s.setCarter g x).carter k = s.carter k := by
  rw [State.carter, State.setCarter_crt]
  exact Tab.get_set_ne _ _ _ _ h

theorem State.setCarter_ms (s : State) (g : Nat) (x : CarterCh) : (s.setCarter g x).ms = s.ms := by
  simp only [State.setCarter, State.wr_ms, State.wrB_ms]

theorem State.setCarter_stp (s : State) (g : Nat) (x : CarterCh) : (s.setCarter g x).stp = s.stp := by
  simp only [State.setCarter, State.wr_stp, State.wrB_stp]

theorem State.setCarter_reeve (s : State) (g : Nat) (x : CarterCh) : (s.setCarter g x).reeve = s.reeve := by
  simp only [State.setCarter, State.wr_reeve, State.wrB_reeve]

/-- The fields of a channel that `setCarter` writes. -/
def shownCarter (g : Nat) : List Fld :=
  [chFld g R.CARTER_CH_STATE_PLAN_READY, chFld g R.CARTER_CH_STATE_WINDOWED, chFld g R.CARTER_CH_STATE_LOCK_GROUP, chFld g R.CARTER_CH_STATE_WTAG]

theorem State.setCarter_sameRegs (s : State) (g : Nat) (x : CarterCh) : sameRegs s (s.setCarter g x) (shownCarter g) := by
  have h0 : sameRegs s { s with crt := { s.crt with chans := s.crt.chans.set g x } } (shownCarter g) := (sameRegs.refl s _).of_regs rfl
  exact (((h0.wrB (by simp [shownCarter]) _).wrB (by simp [shownCarter]) _).wr (by simp [shownCarter]) _).wr (by simp [shownCarter]) _

/-- They lie between bits 18 and 29. -/
theorem State.setCarter_rd (s : State) (g : Nat) (x : CarterCh) {f : Fld} (h : ∀ n ∈ [29, 28, 22, 18], f.key % 64 ≠ n) :
    (s.setCarter g x).rd f = s.rd f := by
  have hne {a : Nat → Fld} {n : Nat} (ha : ∀ c, (a c).lo = n) (hn : n ∈ [29, 28, 22, 18]) : f.key ≠ (chFld g a).key := fun e =>
    h n hn (e ▸ chFld_key_mod ha (by fin_cases hn <;> decide))
  refine s.setCarter_sameRegs g x f fun y hy => ?_
  simp only [shownCarter, List.mem_cons, List.not_mem_nil, or_false] at hy
  rcases hy with rfl | rfl | rfl | rfl
  · exact hne (n := 29) (fun _ => rfl) (by simp)
  · exact hne (n := 28) (fun _ => rfl) (by simp)
  · exact hne (n := 22) (fun _ => rfl) (by simp)
  · exact hne (n := 18) (fun _ => rfl) (by simp)

/-- CFG of the channel is no part of its STATE. -/
theorem State.setCarter_cfg (s : State) (g : Nat) (x : CarterCh) {a : Nat → Fld} (ha : ∀ c, (a c).addr = 0x49001004 + c * 0x40 ∧ (a c).lo < 64) :
    (s.setCarter g x).rd (chFld g a) = s.rd (chFld g a) := by
  have h0 : 0x49001000 ≤ (a 0).addr := by have := ha 0; omega
  have hne {b : Nat → Fld} (hb : ∀ c, (b c).addr = 0x49001008 + c * 0x40 ∧ (b c).lo < 64) : (chFld g a).key ≠ (chFld g b).key := by
    refine chFld_key_ne h0 (by have := hb 0; omega) fun c => ?_
    obtain ⟨h1, h2⟩ := ha c
    obtain ⟨h3, h4⟩ := hb c
    simp only [Fld.key, h1, h3]
    omega
  refine s.setCarter_sameRegs g x _ fun y hy => ?_
  simp only [shownCarter, List.mem_cons, List.not_mem_nil, or_false] at hy
  rcases hy with rfl | rfl | rfl | rfl
  · exact hne fun c => ⟨rfl, (by decide : 29 < 64)⟩
  · exact hne fun c => ⟨rfl, (by decide : 28 < 64)⟩
  · exact hne fun c => ⟨rfl, (by decide : 22 < 64)⟩
  · exact hne fun c => ⟨rfl, (by decide : 18 < 64)⟩

theorem State.setCarter_carterSt (s : State) (g k : Nat) (x : CarterCh) : (s.setCarter g x).carterSt k = s.carterSt k := by
  have hm := chFld_key_mod (g := k) (f := R.CARTER_CH_STATE_STATE) (fun _ => rfl) (by decide : 30 < 64)
  exact State.setCarter_rd s g x (by rw [hm]; decide)

/-- PLAN_READY and WINDOWED as `setCarter` shows them. -/
theorem State.setCarter_shows (s : State) (g : Nat) (x : CarterCh) :
    (s.setCarter g x).rd (chFld g R.CARTER_CH_STATE_PLAN_READY) = (if x.plan.isSome then 1 else 0) ∧
    (s.setCarter g x).rd (chFld g R.CARTER_CH_STATE_WINDOWED) = (if x.win.isSome then 1 else 0) := by
  have h1 : (chFld g R.CARTER_CH_STATE_PLAN_READY).key ≠ (chFld g R.CARTER_CH_STATE_WINDOWED).key :=
    chFld_key_ne (by decide) (by decide) fun c => (by simp only [Fld.key, R.CARTER_CH_STATE_PLAN_READY, R.CARTER_CH_STATE_WINDOWED, ne_eq]; omega)
  have h2 : (chFld g R.CARTER_CH_STATE_PLAN_READY).key ≠ (chFld g R.CARTER_CH_STATE_LOCK_GROUP).key :=
    chFld_key_ne (by decide) (by decide) fun c => (by simp only [Fld.key, R.CARTER_CH_STATE_PLAN_READY, R.CARTER_CH_STATE_LOCK_GROUP, ne_eq]; omega)
  have h3 : (chFld g R.CARTER_CH_STATE_PLAN_READY).key ≠ (chFld g R.CARTER_CH_STATE_WTAG).key :=
    chFld_key_ne (by decide) (by decide) fun c => (by simp only [Fld.key, R.CARTER_CH_STATE_PLAN_READY, R.CARTER_CH_STATE_WTAG, ne_eq]; omega)
  have h4 : (chFld g R.CARTER_CH_STATE_WINDOWED).key ≠ (chFld g R.CARTER_CH_STATE_LOCK_GROUP).key :=
    chFld_key_ne (by decide) (by decide) fun c => (by simp only [Fld.key, R.CARTER_CH_STATE_WINDOWED, R.CARTER_CH_STATE_LOCK_GROUP, ne_eq]; omega)
  have h5 : (chFld g R.CARTER_CH_STATE_WINDOWED).key ≠ (chFld g R.CARTER_CH_STATE_WTAG).key :=
    chFld_key_ne (by decide) (by decide) fun c => (by simp only [Fld.key, R.CARTER_CH_STATE_WINDOWED, R.CARTER_CH_STATE_WTAG, ne_eq]; omega)
  constructor
  · rw [State.setCarter, State.wr_rd_ne _ _ _ _ h3, State.wr_rd_ne _ _ _ _ h2, State.wrB_rd_ne _ _ _ _ h1]
    exact wrB_bit_rd _ (chFld_w fun _ => rfl) _
  · rw [State.setCarter, State.wr_rd_ne _ _ _ _ h5, State.wr_rd_ne _ _ _ _ h4]
    exact wrB_bit_rd _ (chFld_w fun _ => rfl) _

theorem State.wr_carter (s : State) (f : Fld) (v g : Nat) : (s.wr f v).carter g = s.carter g := State.carter_congr (State.wr_crt s f v) g

theorem State.wr_state (s : State) (g : Nat) {v : Nat} (h : v < 4) : (s.wr (chFld g R.CARTER_CH_STATE_STATE) v).carterSt g = v := by
  rw [State.carterSt, State.wr_rd_same, chFld_w (f := R.CARTER_CH_STATE_STATE) fun _ => rfl]
  exact Nat.mod_eq_of_lt h

/-- The channel as a run begins. -/
def CarterCh.begun (x : CarterCh) (fetch : Bool × Nat) (win : Option CarterPlan) : CarterCh :=
  { x with
    win := win, fetch := some fetch, desc := none, anyBad := false, anyLapsed := false, anyPoisoned := false,
    ending := none, halt := none, final := none, abortLate := false }

theorem State.startRun_spec (s : State) (g : Nat) (x : CarterCh) (fetch : Bool × Nat) (win : Option CarterPlan) :
    (s.startRun g x fetch win).carterSt g = 1 ∧ (s.startRun g x fetch win).carter g = x.begun fetch win ∧
    (s.startRun g x fetch win).rd (chFld g R.CARTER_CH_STATE_DESC_COUNT) = 0 ∧
    (s.startRun g x fetch win).rd (chFld g R.CARTER_CH_STATE_PLAN_READY) = (if x.plan.isSome then 1 else 0) ∧
    (s.startRun g x fetch win).rd (chFld g R.CARTER_CH_STATE_WINDOWED) = (if win.isSome then 1 else 0) := by
  have hdc : (chFld g R.CARTER_CH_STATE_STATE).key ≠ (chFld g R.CARTER_CH_STATE_DESC_COUNT).key :=
    chFld_key_ne (by decide) (by decide) fun c => (by simp only [Fld.key, R.CARTER_CH_STATE_STATE, R.CARTER_CH_STATE_DESC_COUNT, ne_eq]; omega)
  have hps : (chFld g R.CARTER_CH_STATE_PLAN_READY).key ≠ (chFld g R.CARTER_CH_STATE_STATE).key :=
    chFld_key_ne (by decide) (by decide) fun c => (by simp only [Fld.key, R.CARTER_CH_STATE_PLAN_READY, R.CARTER_CH_STATE_STATE, ne_eq]; omega)
  have hpd : (chFld g R.CARTER_CH_STATE_PLAN_READY).key ≠ (chFld g R.CARTER_CH_STATE_DESC_COUNT).key :=
    chFld_key_ne (by decide) (by decide) fun c => (by simp only [Fld.key, R.CARTER_CH_STATE_PLAN_READY, R.CARTER_CH_STATE_DESC_COUNT, ne_eq]; omega)
  have hws : (chFld g R.CARTER_CH_STATE_WINDOWED).key ≠ (chFld g R.CARTER_CH_STATE_STATE).key :=
    chFld_key_ne (by decide) (by decide) fun c => (by simp only [Fld.key, R.CARTER_CH_STATE_WINDOWED, R.CARTER_CH_STATE_STATE, ne_eq]; omega)
  have hwd : (chFld g R.CARTER_CH_STATE_WINDOWED).key ≠ (chFld g R.CARTER_CH_STATE_DESC_COUNT).key :=
    chFld_key_ne (by decide) (by decide) fun c => (by simp only [Fld.key, R.CARTER_CH_STATE_WINDOWED, R.CARTER_CH_STATE_DESC_COUNT, ne_eq]; omega)
  have he : s.startRun g x fetch win = ((s.setCarter g (x.begun fetch win)).wr (chFld g R.CARTER_CH_STATE_STATE) 1).wr
      (chFld g R.CARTER_CH_STATE_DESC_COUNT) 0 := rfl
  obtain ⟨hp, hw⟩ := s.setCarter_shows g (x.begun fetch win)
  rw [he]
  refine ⟨?_, ?_, ?_, ?_, ?_⟩
  · rw [State.carterSt, State.wr_rd_ne _ _ _ _ hdc]
    exact State.wr_state _ g (by decide)
  · rw [State.wr_carter, State.wr_carter, State.setCarter_carter]
  · rw [State.wr_rd_same, Nat.zero_mod]
  · rw [State.wr_rd_ne _ _ _ _ hpd, State.wr_rd_ne _ _ _ _ hps]
    exact hp
  · rw [State.wr_rd_ne _ _ _ _ hwd, State.wr_rd_ne _ _ _ _ hws]
    exact hw

theorem CarterCh.endBy_of_good {x : CarterCh} {d : CarterDesc} (hd : x.desc = some d) (hg : d.good = true) (why : Nat) :
    x.endBy why = { x with fetch := none, ending := x.ending.or (some why), desc := some (d.fix why) } := by
  rw [CarterCh.endBy, hd]
  exact if_pos hg

theorem CarterCh.endBy_of_none {x : CarterCh} (hd : x.desc = none) (why : Nat) :
    x.endBy why = { x with fetch := none, final := x.final.or (some (why, false)) } := by
  rw [CarterCh.endBy, hd]

/-! ### The sweep of one channel after another -/

/-- The plan belongs to the window, whose sweep instant has come. -/
def State.sweptPlan (s : State) (lg w : Nat) : Option CarterPlan → Bool
  | some q => q.group == lg && q.wtag == w && s.reached q.sweepNs
  | none => false

/-- The channel once a planned list of the window is discarded. -/
def State.unplanned (lg w : Nat) (t : State) (g : Nat) : CarterCh :=
  if t.sweptPlan lg w (t.carter g).plan then { t.carter g with plan := none } else t.carter g

/-- The sweep of one channel. -/
def State.sweepCarter (lg w : Nat) (t : State) (g : Nat) : State :=
  if t.carterSt g ≠ 0 ∧ t.sweptPlan lg w (t.unplanned lg w g).win ∧ (t.unplanned lg w g).final.isNone ∧ (t.unplanned lg w g).halt.isNone ∧
      (t.unplanned lg w g).ending ≠ some 1 then
    (t.setCarter g ((t.unplanned lg w g).endBy 1)).inc (carterFld g R.CARTER_SWEEP_STOPPED)
  else if t.unplanned lg w g = t.carter g then t else t.setCarter g (t.unplanned lg w g)

theorem execCarterSweep_eq (lg : Fin 64) (w : Fin 16) (s : State) :
    execCarterSweep lg w s = .next ((List.range 192).foldl (State.sweepCarter lg w) s) := by
  unfold execCarterSweep State.sweepCarter State.unplanned State.sweptPlan
  rfl

/-- Channel `g` and the time are the same in `t`. -/
def SameCarter (g : Nat) (s t : State) : Prop := t.carter g = s.carter g ∧ t.carterSt g = s.carterSt g ∧ t.stp = s.stp

theorem carterSt_inc_swept (s : State) (g k : Nat) : (s.inc (carterFld g R.CARTER_SWEEP_STOPPED)).carterSt k = s.carterSt k := by
  refine State.inc_rd_ne _ _ _ fun e => ?_
  have hm := chFld_key_mod (g := k) (f := R.CARTER_CH_STATE_STATE) (fun _ => rfl) (by decide : 30 < 64)
  have h0 : (carterFld g R.CARTER_SWEEP_STOPPED).key % 64 = 0 := by
    unfold carterFld
    split <;> simp only [Fld.key, R.CARTER_SWEEP_STOPPED] <;> omega
  exact absurd (hm.symm.trans ((congrArg (· % 64) e).trans h0)) (by decide)

theorem State.inc_carter (s : State) (f : Fld) (g : Nat) : (s.inc f).carter g = s.carter g := State.carter_congr (State.inc_crt s f) g

theorem sweepCarter_other {g k : Nat} (h : g ≠ k) (lg w : Nat) (t : State) : SameCarter g t (State.sweepCarter lg w t k) := by
  unfold State.sweepCarter
  split_ifs
  · exact ⟨(State.inc_carter _ _ g).trans (State.setCarter_carter_ne _ h _), (carterSt_inc_swept _ k g).trans (State.setCarter_carterSt _ _ _ _),
      (State.inc_stp _ _).trans (State.setCarter_stp _ _ _)⟩
  · exact ⟨rfl, rfl, rfl⟩
  · exact ⟨State.setCarter_carter_ne _ h _, State.setCarter_carterSt _ _ _ _, State.setCarter_stp _ _ _⟩

theorem sweepCarters_other {g : Nat} (lg w : Nat) : ∀ (l : List Nat) (t : State), g ∉ l → SameCarter g t (l.foldl (State.sweepCarter lg w) t)
  | [], _, _ => ⟨rfl, rfl, rfl⟩
  | k :: l, t, h => by
    obtain ⟨hk, hl⟩ := not_or.mp fun e => h (List.mem_cons.mpr e)
    obtain ⟨a1, a2, a3⟩ := sweepCarter_other hk lg w t
    obtain ⟨b1, b2, b3⟩ := sweepCarters_other lg w l (State.sweepCarter lg w t k) hl
    exact ⟨b1.trans a1, b2.trans a2, b3.trans a3⟩

/-- The sweep leaves channel `g` as its own sweep left it, from a state with the same channel and time. -/
theorem sweepCarters_at {g : Nat} (hg : g < 192) (lg w : Nat) (s : State) : ∃ t, SameCarter g s t ∧
    SameCarter g (State.sweepCarter lg w t g) ((List.range 192).foldl (State.sweepCarter lg w) s) := by
  obtain ⟨a, b, hab⟩ := List.append_of_mem (List.mem_range.mpr hg)
  have hnd := List.nodup_range (n := 192)
  rw [hab, List.nodup_append] at hnd
  obtain ⟨-, hb, hdis⟩ := hnd
  have ha : g ∉ a := fun h => hdis g h g (List.mem_cons_self ..) rfl
  refine ⟨a.foldl (State.sweepCarter lg w) s, sweepCarters_other lg w a s ha, ?_⟩
  rw [hab, List.foldl_append, List.foldl_cons]
  exact sweepCarters_other lg w b _ (List.nodup_cons.mp hb).1

theorem State.sweptPlan_congr {s t : State} (h : t.stp = s.stp) (lg w : Nat) (p : Option CarterPlan) : t.sweptPlan lg w p = s.sweptPlan lg w p := by
  cases p with
  | none => rfl
  | some q =>
    have hr : t.reached q.sweepNs = s.reached q.sweepNs := by rw [State.reached, State.reached, State.nowNs, State.nowNs, h]
    simp only [State.sweptPlan, hr]

/-- The result of a run (R428). -/
def CarterCh.result (x : CarterCh) (e : Nat) (f : Bool) (n : Nat) : Nat :=
  let b := fun (c : Bool) (i : Nat) => if c then 2 ^ i else 0
  e * 2 ^ 58 + b (x.abortLate && (e == 0)) 57 + b f 56 + b x.anyBad 55 + b x.anyLapsed 54 + b x.anyPoisoned 53 + x.seq % 256 * 2 ^ 40 + n

theorem CarterCh.result_fields (x : CarterCh) (e : Nat) (f : Bool) {n : Nat} (hn : n < 2 ^ 17) :
    x.result e f n / 2 ^ 58 = e ∧ x.result e f n / 2 ^ 56 % 2 = (if f then 1 else 0) ∧ x.result e f n / 2 ^ 55 % 2 = (if x.anyBad then 1 else 0) ∧
      x.result e f n / 2 ^ 40 % 256 = x.seq % 256 ∧ x.result e f n % 2 ^ 17 = n := by
  have hs : x.seq % 256 < 256 := Nat.mod_lt _ (by decide)
  unfold CarterCh.result
  dsimp only
  generalize x.seq % 256 = q at hs ⊢
  generalize (x.abortLate && (e == 0)) = b1
  cases f <;> cases x.anyBad <;> cases b1 <;> cases x.anyLapsed <;> cases x.anyPoisoned <;>
    (simp only [Bool.false_eq_true, if_false, if_true]; omega)

end Sys2Proof.Machine

namespace Sys2Proof.Claims

set_option Elab.async false

open Sys2Proof.Machine

/-! ### Starts -/

theorem carterStartLoose_starts : ∀ (s : State) (g : Fin 192) (v : Word), bitOf v 31 = true → bitOf v 29 = false → s.startRefused g v = false →
    ∃ t, exec (.carterStartLoose g v) s = .next t ∧ t.carterSt g = 1 ∧ (t.carter g).fetch = some (bitOf v 28, bitsOf v 5 21 * 32) ∧
      (t.carter g).win = none ∧ (t.carter g).desc = none ∧ t.rd (chFld g R.CARTER_CH_STATE_DESC_COUNT) = 0 ∧
      (t.carter g).plan = (s.carter g).plan := by
  intro s g v h31 h29 hr
  have he : execCarterStartLoose g v s = .next (s.startRun g (s.carter g) (bitOf v 28, bitsOf v 5 21 * 32) none) := by
    unfold execCarterStartLoose
    dsimp only
    rw [if_neg (by simp [h31, h29]), if_neg (by simp [hr])]
  obtain ⟨h1, h2, h3, -, -⟩ := s.startRun_spec g (s.carter g) (bitOf v 28, bitsOf v 5 21 * 32) none
  refine ⟨_, he, h1, ?_, ?_, ?_, h3, ?_⟩ <;> rw [h2] <;> rfl

theorem carterStart_refused : ∀ (s : State) (g : Fin 192) (v : Word), bitOf v 31 = true → s.startRefused g v = true →
    exec (if bitOf v 29 then .carterStartPlanned g v else .carterStartLoose g v) s = .next (s.inc (chFld g R.CARTER_CH_COUNTS_REFUSED_STARTS)) := by
  intro s g v h31 hr
  cases h29 : bitOf v 29
  · show execCarterStartLoose g v s = _
    unfold execCarterStartLoose
    dsimp only
    rw [if_neg (by simp [h31, h29]), if_pos hr]
  · show execCarterStartPlanned g v s = _
    unfold execCarterStartPlanned
    dsimp only
    rw [if_neg (by simp [h31, h29]), if_pos hr]

theorem carterStartPlanned_starts : ∀ (s : State) (g : Fin 192) (v : Word) (p : CarterPlan), bitOf v 31 = true → bitOf v 29 = true → s.startRefused g v = false →
    (s.carter g).plan = some p → s.reached p.sweepNs = false → ∃ t, exec (.carterStartPlanned g v) s = .next t ∧ t.carterSt g = 1 ∧
      (t.carter g).plan = none ∧ (t.carter g).win = some p ∧ (t.carter g).fetch = some (p.space, p.head) ∧
      t.rd (chFld g R.CARTER_CH_STATE_WINDOWED) = 1 ∧ t.rd (chFld g R.CARTER_CH_STATE_PLAN_READY) = 0 := by
  intro s g v p h31 h29 hr hp hsw
  have he : execCarterStartPlanned g v s = .next (s.startRun g { s.carter g with plan := none } (p.space, p.head) (some p)) := by
    unfold execCarterStartPlanned
    dsimp only
    rw [if_neg (by simp [h31, h29]), if_neg (by simp [hr]), hp]
    exact if_neg (by simp [hsw])
  obtain ⟨h1, h2, -, h4, h5⟩ := s.startRun_spec g { s.carter g with plan := none } (p.space, p.head) (some p)
  refine ⟨_, he, h1, ?_, ?_, ?_, h5, h4⟩ <;> rw [h2] <;> rfl

theorem carterStartPlanned_unplanned : ∀ (s : State) (g : Fin 192) (v : Word), bitOf v 31 = true → bitOf v 29 = true → s.startRefused g v = false → (s.carter g).plan = none →
    exec (.carterStartPlanned g v) s = .next (s.inc (carterFld g R.CARTER_DROP_UNPLANNED)) := by
  intro s g v h31 h29 hr hp
  show execCarterStartPlanned g v s = _
  unfold execCarterStartPlanned
  dsimp only
  rw [if_neg (by simp [h31, h29]), if_neg (by simp [hr]), hp]

/-! ### Stops -/

/-- A STOP of a run that is not yet to end. -/
theorem execCarterStop_runs {s : State} {g : Fin 192} (hst : s.carterSt g = 1) (hf : (s.carter g).final = none) (hh : (s.carter g).halt = none)
    (he : (s.carter g).ending = none) :
    execCarterStop g s = .next ((s.setCarter g ((s.carter g).endBy 2)).wr (chFld g R.CARTER_CH_STATE_STATE) 2) := by
  unfold execCarterStop
  dsimp only
  rw [if_neg (by simp [hst]), if_neg (by simp [hf, hh, he])]

theorem carterStop_noDesc : ∀ (s : State) (g : Fin 192), s.carterSt g = 1 → (s.carter g).final = none → (s.carter g).halt = none → (s.carter g).ending = none →
    (s.carter g).desc = none → ∃ t, exec (.carterStop g) s = .next t ∧ t.carterSt g = 2 ∧ (t.carter g).final = some (2, false) ∧
      (t.carter g).fetch = none := by
  intro s g hst hf hh he hd
  refine ⟨_, execCarterStop_runs hst hf hh he, State.wr_state _ g (by decide), ?_, ?_⟩ <;>
    rw [State.wr_carter, State.setCarter_carter, CarterCh.endBy_of_none hd]
  rw [hf]; rfl

theorem carterStop_desc : ∀ (s : State) (g : Fin 192) (d : CarterDesc), s.carterSt g = 1 → (s.carter g).final = none → (s.carter g).halt = none →
    (s.carter g).ending = none → (s.carter g).desc = some d → d.good = true → d.decided = none → ∃ t, exec (.carterStop g) s = .next t ∧
      t.carterSt g = 2 ∧ (t.carter g).ending = some 2 ∧ (t.carter g).desc = some { d with decided := some 2 } ∧ (t.carter g).fetch = none := by
  intro s g d hst hf hh he hd hg hdec
  refine ⟨_, execCarterStop_runs hst hf hh he, State.wr_state _ g (by decide), ?_, ?_, ?_⟩ <;>
    rw [State.wr_carter, State.setCarter_carter, CarterCh.endBy_of_good hd hg]
  · rw [he]; rfl
  · rw [CarterDesc.fix, hdec]; rfl

theorem carterStop_idle : ∀ (s : State) (g : Fin 192), s.carterSt g ≠ 1 → exec (.carterStop g) s = .next s := fun _ _ h => if_pos h

/-! ### The sweep of a window -/

theorem carterSweep_ends : ∀ (s : State) (lg : Fin 64) (w : Fin 16) (g : Nat) (p : CarterPlan), g < 192 → s.carterSt g ≠ 0 → (s.carter g).win = some p → p.group = lg.val →
    p.wtag = w.val → s.reached p.sweepNs = true → (s.carter g).final = none → (s.carter g).halt = none → (s.carter g).ending = none →
    (s.carter g).desc = none → ∃ t, exec (.carterSweep lg w) s = .next t ∧ (t.carter g).final = some (1, false) ∧ (t.carter g).fetch = none := by
  intro s lg w g p hg hst hwin hgrp htag hsw hf hh he hd
  obtain ⟨t, ⟨h1, h2, h3⟩, hlast, -, -⟩ := sweepCarters_at hg lg w s
  have hmine : t.sweptPlan lg w (some p) = true := by
    rw [State.sweptPlan_congr h3]
    simp [State.sweptPlan, hgrp, htag, hsw]
  have hx : (t.unplanned lg w g).win = some p ∧ (t.unplanned lg w g).final = none ∧ (t.unplanned lg w g).halt = none ∧
      (t.unplanned lg w g).ending = none ∧ (t.unplanned lg w g).desc = none := by
    rw [State.unplanned, h1]
    split <;> exact ⟨hwin, hf, hh, he, hd⟩
  obtain ⟨xw, xf, xh, xe, xd⟩ := hx
  have hone : State.sweepCarter lg w t g = (t.setCarter g ((t.unplanned lg w g).endBy 1)).inc (carterFld g R.CARTER_SWEEP_STOPPED) :=
    if_pos ⟨by rw [h2]; exact hst, by rw [xw]; exact hmine, by simp [xf], by simp [xh], by simp [xe]⟩
  rw [hone, State.inc_carter, State.setCarter_carter, CarterCh.endBy_of_none xd] at hlast
  refine ⟨_, execCarterSweep_eq lg w s, ?_, ?_⟩ <;> rw [hlast]
  rw [xf]; rfl

theorem carterSweep_unstarted : ∀ (s : State) (lg : Fin 64) (w : Fin 16) (g : Nat) (p : CarterPlan), g < 192 → s.carterSt g = 0 → (s.carter g).plan = some p → p.group = lg.val →
    p.wtag = w.val → s.reached p.sweepNs = true → ∃ t, exec (.carterSweep lg w) s = .next t ∧ (t.carter g).plan = none ∧ t.carterSt g = 0 := by
  intro s lg w g p hg hst hp hgrp htag hsw
  obtain ⟨t, ⟨h1, h2, h3⟩, hlast, hlastSt, -⟩ := sweepCarters_at hg lg w s
  have hmine : t.sweptPlan lg w (t.carter g).plan = true := by
    rw [State.sweptPlan_congr h3, h1, hp]
    simp [State.sweptPlan, hgrp, htag, hsw]
  have hone : State.sweepCarter lg w t g = t.setCarter g { t.carter g with plan := none } := by
    have hne : ({ t.carter g with plan := none } : CarterCh) ≠ t.carter g := fun e => by
      have h := congrArg CarterCh.plan e
      rw [h1, hp] at h
      cases h
    have hx : t.unplanned lg w g = { t.carter g with plan := none } := if_pos hmine
    rw [State.sweepCarter, hx, if_neg (by simp [h2, hst]), if_neg hne]
  rw [hone] at hlast hlastSt
  refine ⟨_, execCarterSweep_eq lg w s, ?_, ?_⟩
  · rw [hlast, State.setCarter_carter]
  · rw [hlastSt, State.setCarter_carterSt, h2, hst]

/-! ### Halts, ends and results -/

theorem carterChainHalt_halts : ∀ (s : State) (g : Fin 192) (h : Nat × Bool), (s.carter g).halt = some h → ∃ t, exec (.carterChainHalt g) s = .next t ∧
    (t.carter g).halt = none ∧ (t.carter g).final = some h ∧ t.carterSt g = s.carterSt g := by
  intro s g h hh
  have he : execCarterChainHalt g s = .next (s.setCarter g { s.carter g with halt := none, final := some h }) := by
    unfold execCarterChainHalt
    dsimp only
    rw [hh]
  refine ⟨_, he, ?_, ?_, State.setCarter_carterSt _ _ _ _⟩ <;> rw [State.setCarter_carter]

theorem State.carterIrq_crt (s : State) (g : Nat) : (s.carterIrq g).crt = s.crt :=
  (keeps_carterIrq (.refl (partsBut .crt) s) (by decide) (by decide) (by decide) g).same_of_but

theorem State.carterIrq_regs (s : State) (g : Nat) : (s.carterIrq g).regs = s.regs :=
  (keeps_carterIrq (.refl (partsBut .regs) s) (by decide) (by decide) (by decide) g).same_of_but

theorem State.carterIrq_hall {s : State} {g : Nat} (hen : s.bit (chFld g R.CARTER_CH_CFG_IRQ_EN) = true) (hd : s.rd (chFld g R.CARTER_CH_CFG_DEST) = 0) :
    ⟨.carter, g⟩ ∈ (s.carterIrq g).hallIrq := by
  have h : s.carterIrq g = s.irq .carter g := by
    unfold State.carterIrq
    rw [if_neg (by simp [hen])]
    exact if_pos hd
  rw [h]
  exact State.mem_irqIf s .carter g

theorem carterRunEnd_ends : ∀ (s : State) (g : Fin 192) (e : Nat) (f : Bool), (s.carter g).final = some (e, f) → (s.carter g).desc = none →
    ∃ t r, exec (.carterRunEnd g) s = .next t ∧ t.carterSt g = 0 ∧ t.rd (chFld g R.CARTER_CH_IRQ_END) = 1 ∧ (t.carter g).placed = some r ∧
      r / 2 ^ 58 = e ∧ r / 2 ^ 56 % 2 = (if f then 1 else 0) ∧ r / 2 ^ 55 % 2 = (if (s.carter g).anyBad then 1 else 0) ∧
      r / 2 ^ 40 % 256 = (s.carter g).seq % 256 ∧ r % 2 ^ 17 = s.rd (chFld g R.CARTER_CH_STATE_DESC_COUNT) ∧
      (t.carter g).seq = ((s.carter g).seq + 1) % 256 ∧
      (s.bit (chFld g R.CARTER_CH_CFG_IRQ_EN) = true → s.rd (chFld g R.CARTER_CH_CFG_DEST) = 0 → ⟨.carter, g⟩ ∈ t.hallIrq) := by
  intro s g e f hf hd
  have hdc : s.rd (chFld g R.CARTER_CH_STATE_DESC_COUNT) < 2 ^ 17 := by
    have h := State.rd_lt s (chFld g R.CARTER_CH_STATE_DESC_COUNT)
    rwa [chFld_w (f := R.CARTER_CH_STATE_DESC_COUNT) fun _ => rfl] at h
  have he : execCarterRunEnd g s = .next ((((s.setCarter g { s.carter g with
      win := none, fetch := none, ending := none, final := none, abortLate := false,
      placed := some ((s.carter g).result e f (s.rd (chFld g R.CARTER_CH_STATE_DESC_COUNT))), seq := ((s.carter g).seq + 1) % 256 }).wr
        (chFld g R.CARTER_CH_STATE_STATE) 0).wr (chFld g R.CARTER_CH_IRQ_END) 1).carterIrq g) := by
    unfold execCarterRunEnd
    dsimp only
    rw [hf, hd]
    rfl
  obtain ⟨r1, r2, r3, r4, r5⟩ := (s.carter g).result_fields e f hdc
  have hse : (chFld g R.CARTER_CH_STATE_STATE).key ≠ (chFld g R.CARTER_CH_IRQ_END).key :=
    chFld_key_ne (by decide) (by decide) fun c => (by simp only [Fld.key, R.CARTER_CH_STATE_STATE, R.CARTER_CH_IRQ_END, ne_eq]; omega)
  generalize hx : ({ s.carter g with
      win := none, fetch := none, ending := none, final := none, abortLate := false,
      placed := some ((s.carter g).result e f (s.rd (chFld g R.CARTER_CH_STATE_DESC_COUNT))), seq := ((s.carter g).seq + 1) % 256 } : CarterCh) = x at he
  have hcar : ((((s.setCarter g x).wr (chFld g R.CARTER_CH_STATE_STATE) 0).wr (chFld g R.CARTER_CH_IRQ_END) 1).carterIrq g).carter g = x := by
    rw [State.carter_congr (State.carterIrq_crt _ _), State.wr_carter, State.wr_carter, State.setCarter_carter]
  have hkeep {a : Nat → Fld} (ha : ∀ c, (a c).addr = 0x49001004 + c * 0x40 ∧ (a c).lo < 64)
      (h1 : (chFld g a).key ≠ (chFld g R.CARTER_CH_STATE_STATE).key) (h2 : (chFld g a).key ≠ (chFld g R.CARTER_CH_IRQ_END).key) :
      (((s.setCarter g x).wr (chFld g R.CARTER_CH_STATE_STATE) 0).wr (chFld g R.CARTER_CH_IRQ_END) 1).rd (chFld g a) = s.rd (chFld g a) := by
    rw [State.wr_rd_ne _ _ _ _ h2, State.wr_rd_ne _ _ _ _ h1]
    exact State.setCarter_cfg s g x ha
  refine ⟨_, (s.carter g).result e f (s.rd (chFld g R.CARTER_CH_STATE_DESC_COUNT)), he, ?_, ?_, ?_, r1, r2, r3, r4, r5, ?_, fun hen hdest => ?_⟩
  · rw [State.carterSt, State.rd_congr (State.carterIrq_regs _ _), State.wr_rd_ne _ _ _ _ hse]
    exact State.wr_state _ g (by decide)
  · rw [State.rd_congr (State.carterIrq_regs _ _), State.wr_rd_same, chFld_w (f := R.CARTER_CH_IRQ_END) fun _ => rfl]
    rfl
  · rw [hcar, ← hx]
  · rw [hcar, ← hx]
  · refine State.carterIrq_hall ?_ ?_
    · rw [State.bit_eq, hkeep (a := R.CARTER_CH_CFG_IRQ_EN) (fun _ => ⟨rfl, (by decide : 31 < 64)⟩)
        (chFld_key_ne (by decide) (by decide) fun c => (by simp only [Fld.key, R.CARTER_CH_CFG_IRQ_EN, R.CARTER_CH_STATE_STATE, ne_eq]; omega))
        (chFld_key_ne (by decide) (by decide) fun c => (by simp only [Fld.key, R.CARTER_CH_CFG_IRQ_EN, R.CARTER_CH_IRQ_END, ne_eq]; omega)), ← State.bit_eq, hen]
    · rw [hkeep (a := R.CARTER_CH_CFG_DEST) (fun _ => ⟨rfl, (by decide : 29 < 64)⟩)
        (chFld_key_ne (by decide) (by decide) fun c => (by simp only [Fld.key, R.CARTER_CH_CFG_DEST, R.CARTER_CH_STATE_STATE, ne_eq]; omega))
        (chFld_key_ne (by decide) (by decide) fun c => (by simp only [Fld.key, R.CARTER_CH_CFG_DEST, R.CARTER_CH_IRQ_END, ne_eq]; omega)), hdest]

theorem carterResultTake_takes : ∀ (s : State) (g : Fin 192) (b : Nat), (s.carter g).placed = some b → ∃ t, exec (.carterResultTake g true) s = .next t ∧
    t.ans = ⟨.ok, 0, [⟨BitVec.ofNat 64 (2 ^ 63 + b), false⟩]⟩ ∧ (t.carter g).placed = none ∧ (t.carter g).taken = some b := by
  intro s g b hp
  have he : execCarterResultTake g true s = .next ((s.setCarter g { s.carter g with placed := none, taken := some b }).reply
      ⟨.ok, 0, [⟨BitVec.ofNat 64 (2 ^ 63 + b), false⟩]⟩) := by
    unfold execCarterResultTake
    dsimp only
    rw [if_neg (by decide), hp]
  have hcar := s.setCarter_carter g { s.carter g with placed := none, taken := some b }
  refine ⟨_, he, rfl, ?_, ?_⟩ <;> rw [State.carter_congr (State.reply_crt _ _), hcar]

theorem carterResultTake_stale : ∀ (s : State) (g : Fin 192) (b : Nat), (s.carter g).placed = none → (s.carter g).taken = some b →
    exec (.carterResultTake g true) s = .next { s with ans := ⟨.ok, 0, [⟨BitVec.ofNat 64 (2 ^ 62 + b), false⟩]⟩ } := by
  intro s g b hp ht
  show execCarterResultTake g true s = _
  unfold execCarterResultTake
  dsimp only
  rw [if_neg (by decide), hp, ht]
  rfl

theorem carterResultTake_narrow : ∀ (s : State) (g : Fin 192), exec (.carterResultTake g false) s = .next { s with ans := ⟨.ok, 0, [⟨0, false⟩]⟩ } := fun _ _ => rfl

/-- Settles O40: each clause is a lemma above about one command. -/
theorem carterRuns : Obligations.CarterRuns :=
  ⟨carterStartLoose_starts, carterStart_refused, carterStartPlanned_starts, carterStartPlanned_unplanned, carterStop_noDesc, carterStop_desc,
    carterStop_idle, carterSweep_ends, carterSweep_unstarted, carterChainHalt_halts, carterRunEnd_ends, carterResultTake_takes,
    carterResultTake_stale, carterResultTake_narrow⟩

end Sys2Proof.Claims

/-! ## O41: the Carter's descriptors -/

namespace Sys2Proof.Claims

set_option Elab.async false

open Sys2Proof.Machine

theorem State.ledgerCount_crt (s : State) (id a b : Nat) : (s.ledgerCount id a b).crt = s.crt :=
  (keeps_ledgerCount (.refl (partsBut .crt) s) (by decide) (by decide) (by decide) (by decide) id a b).same_of_but

theorem State.ledgerCount_reeve (s : State) (id a b : Nat) : (s.ledgerCount id a b).reeve = s.reeve :=
  (keeps_ledgerCount (.refl (partsBut .reeve) s) (by decide) (by decide) (by decide) (by decide) id a b).same_of_but

theorem State.dmaRead_crt (s : State) (mid : Mid) (a n : Nat) : (s.dmaRead mid a n).2.crt = s.crt :=
  (keeps_dmaRead (.refl (partsBut .crt) s) (by decide) (by decide) (by decide) (by decide) (by decide) mid a n).same_of_but

theorem State.dmaWrite_crt (s : State) (mid : Mid) (a : Nat) (bs : List (Nat × Bool)) : (s.dmaWrite mid a bs).2.crt = s.crt :=
  (keeps_dmaWrite (.refl (partsBut .crt) s) (by decide) (by decide) (by decide) (by decide) (by decide) mid a bs).same_of_but

theorem State.dmaWrite_reeve (s : State) (mid : Mid) (a : Nat) (bs : List (Nat × Bool)) : (s.dmaWrite mid a bs).2.reeve = s.reeve :=
  (keeps_dmaWrite (.refl (partsBut .reeve) s) (by decide) (by decide) (by decide) (by decide) (by decide) mid a bs).same_of_but

/-! ### The fetch of a descriptor -/

section
variable {s u : State} {g : Fin 192} {f : Bool × Nat} {a : Nat} {l : List (Nat × Bool)}

/-- CUR shows the descriptor to be fetched. -/
def State.showCur (s : State) (g : Nat) (f : Bool × Nat) : State :=
  (s.wrB (chFld g R.CARTER_CH_CUR_SPACE) f.1).wr (chFld g R.CARTER_CH_CUR_ADDR) (f.2 / 32)

/-- A descriptor whose words have been read. -/
theorem execCarterDescFetch_read (hf : (s.carter g).fetch = some f) (ha : descAddr g f = some a)
    (hr : State.dmaRead (State.showCur s g f) (carterMid g) a 32 = (some l, u)) :
    execCarterDescFetch g s =
      if anyBad l then .next ((u.inc (chFld g R.CARTER_CH_STATE_DESC_COUNT)).setCarter g { s.carter g with fetch := none, halt := some (3, true) })
      else if CarterDesc.bad { addr := a, words := le32 8 (byteVals l), good := true } (decide (g.val < 64)) then
        .next ((u.inc (chFld g R.CARTER_CH_STATE_DESC_COUNT)).setCarter g { s.carter g with
          fetch := none, desc := some { addr := a, words := le32 8 (byteVals l), good := false, decided := some 4 } })
      else .next (((u.inc (chFld g R.CARTER_CH_STATE_DESC_COUNT)).setCarter g { s.carter g with
          fetch := none, desc := some { addr := a, words := le32 8 (byteVals l), good := true } }).ledgerCount (ledgerId 7 g)
            (CarterDesc.bytes { addr := a, words := le32 8 (byteVals l), good := true }) 0) := by
  unfold State.showCur at hr
  unfold execCarterDescFetch
  dsimp only
  rw [hf]
  dsimp only
  rw [ha]
  dsimp only
  rw [hr]

end

theorem carterDescFetch_good : ∀ (s u : State) (g : Fin 192) (f : Bool × Nat) (a : Nat) (l : List (Nat × Bool)), (s.carter g).fetch = some f → descAddr g f = some a →
    State.dmaRead ((s.wrB (chFld g R.CARTER_CH_CUR_SPACE) f.1).wr (chFld g R.CARTER_CH_CUR_ADDR) (f.2 / 32)) (carterMid g) a 32 = (some l, u) →
    anyBad l = false → CarterDesc.bad { addr := a, words := le32 8 (byteVals l), good := true } (decide (g.val < 64)) = false →
    ∃ t, exec (.carterDescFetch g) s = .next t ∧ (t.carter g).desc = some { addr := a, words := le32 8 (byteVals l), good := true } ∧
      (t.carter g).fetch = none ∧ t.ms = u.ms := by
  intro s u g f a l hf ha hr hbad hok
  have he := execCarterDescFetch_read hf ha hr
  rw [if_neg (by simp [hbad]), if_neg (by simp [hok])] at he
  have hcar {x : CarterCh} {n : Nat} : (((u.inc (chFld g R.CARTER_CH_STATE_DESC_COUNT)).setCarter g x).ledgerCount (ledgerId 7 g) n 0).carter g = x := by
    rw [State.carter_congr (State.ledgerCount_crt _ _ _ _), State.setCarter_carter]
  refine ⟨_, he, ?_, ?_, ?_⟩
  · rw [hcar]
  · rw [hcar]
  · rw [State.ledgerCount_ms, State.setCarter_ms, State.inc_ms]

theorem carterDescFetch_bad : ∀ (s u : State) (g : Fin 192) (f : Bool × Nat) (a : Nat) (l : List (Nat × Bool)), (s.carter g).fetch = some f → descAddr g f = some a →
    State.dmaRead ((s.wrB (chFld g R.CARTER_CH_CUR_SPACE) f.1).wr (chFld g R.CARTER_CH_CUR_ADDR) (f.2 / 32)) (carterMid g) a 32 = (some l, u) →
    anyBad l = false → CarterDesc.bad { addr := a, words := le32 8 (byteVals l), good := true } (decide (g.val < 64)) = true →
    ∃ t, exec (.carterDescFetch g) s = .next t ∧
      (t.carter g).desc = some { addr := a, words := le32 8 (byteVals l), good := false, decided := some 4 } ∧ (t.carter g).fetch = none := by
  intro s u g f a l hf ha hr hbad hok
  have he := execCarterDescFetch_read hf ha hr
  rw [if_neg (by simp [hbad]), if_pos hok] at he
  refine ⟨_, he, ?_, ?_⟩ <;> rw [State.setCarter_carter]

theorem carterDescFetch_poisoned : ∀ (s u : State) (g : Fin 192) (f : Bool × Nat) (a : Nat) (l : List (Nat × Bool)), (s.carter g).fetch = some f → descAddr g f = some a →
    State.dmaRead ((s.wrB (chFld g R.CARTER_CH_CUR_SPACE) f.1).wr (chFld g R.CARTER_CH_CUR_ADDR) (f.2 / 32)) (carterMid g) a 32 = (some l, u) →
    anyBad l = true → ∃ t, exec (.carterDescFetch g) s = .next t ∧ (t.carter g).desc = (s.carter g).desc ∧
      (t.carter g).halt = some (3, true) ∧ (t.carter g).fetch = none := by
  intro s u g f a l hf ha hr hbad
  have he := execCarterDescFetch_read hf ha hr
  rw [if_pos hbad] at he
  refine ⟨_, he, ?_, ?_, ?_⟩ <;> rw [State.setCarter_carter]

/-! ### Bursts -/

/-- The descriptor with its next burst of `n` bytes issued. -/
def CarterDesc.issued (d : CarterDesc) (n : Nat) : CarterDesc :=
  { d with
    out := d.out ++ [(d.src d.row + d.off, d.dst d.row + d.off, n)], row := if decide (d.len ≤ d.off + n) then d.row + 1 else d.row,
    off := if decide (d.len ≤ d.off + n) then 0 else d.off + n }

theorem State.withLast_carter (s : State) (x : Tab (Option Nat)) (g : Nat) : ({ s with crt := { s.crt with last := x } } : State).carter g = s.carter g := rfl

theorem State.withLast_ms (s : State) (x : Tab (Option Nat)) : ({ s with crt := { s.crt with last := x } } : State).ms = s.ms := rfl

theorem carterBurst_issues : ∀ (s : State) (g : Fin 192) (d : CarterDesc), (s.carter g).desc = some d → s.carterNext g = some g.val → (s.carter g).lapsed s d = false →
    ∃ t e, exec (.carterBurst g) s = .next t ∧ (t.carter g).desc = some e ∧
      e.out = d.out ++ [(d.src d.row + d.off, d.dst d.row + d.off, s.burstLen d)] ∧ e.moved = d.moved ∧ e.decided = d.decided ∧
      (e.row, e.off) = (if d.len ≤ d.off + s.burstLen d then (d.row + 1, 0) else (d.row, d.off + s.burstLen d)) ∧ t.ms = s.ms ∧
      t.crt.last.get (carterKey g (s.bit (chFld g R.CARTER_CH_CFG_PRIO))) = some g.val := by
  intro s g d hd hn hl
  have he : execCarterBurst g s = .next { s.setCarter g { s.carter g with desc := some (CarterDesc.issued d (s.burstLen d)) } with
      crt := { (s.setCarter g { s.carter g with desc := some (CarterDesc.issued d (s.burstLen d)) }).crt with
        last := (s.setCarter g { s.carter g with desc := some (CarterDesc.issued d (s.burstLen d)) }).crt.last.set
          (carterKey g (s.bit (chFld g R.CARTER_CH_CFG_PRIO))) (some g.val) } } := by
    unfold execCarterBurst
    dsimp only
    rw [hd]
    dsimp only
    rw [if_neg (by simp [hn]), if_neg (by simp [hl])]
    rfl
  refine ⟨_, CarterDesc.issued d (s.burstLen d), he, ?_, rfl, rfl, rfl, ?_, ?_, Tab.get_set_same _ _ _⟩
  · rw [State.withLast_carter, State.setCarter_carter]
  · by_cases h : d.len ≤ d.off + s.burstLen d
    · simp [CarterDesc.issued, h]
    · simp [CarterDesc.issued, h]
  · rw [State.withLast_ms, State.setCarter_ms]

theorem State.moveBurst_carter (s : State) (g : Nat) (x : CarterCh) (d : CarterDesc) (n : Nat) (bad : Bool) :
    (s.moveBurst g x d n bad).carter g = { x with desc := some { d with moved := d.moved + n, poison := d.poison || bad } } := by
  rw [State.moveBurst, State.carter_congr (State.add_crt _ _ _), State.carter_congr (State.ledgerCount_crt _ _ _ _), State.setCarter_carter]

theorem State.moveBurst_ms (s : State) (g : Nat) (x : CarterCh) (d : CarterDesc) (n : Nat) (bad : Bool) : (s.moveBurst g x d n bad).ms = s.ms := by
  rw [State.moveBurst, State.add_ms, State.ledgerCount_ms, State.setCarter_ms]

theorem carterBurstAnswer_served : ∀ (s u v : State) (g : Fin 192) (i : Fin 8) (d : CarterDesc) (b : Nat × Nat × Nat) (x : List (Nat × Bool)) (l : List (Nat × Bool)),
    (s.carter g).desc = some d → d.out[i.val]? = some b →
    s.burstSource g { d with out := d.out.eraseIdx i.val } b.1 b.2.2 x = (some l, u) → inDevice (s.ownAddr b.2.1) = true →
    u.dmaWrite (carterMid g) (s.ownAddr b.2.1) l = (true, v) → ∃ t, exec (.carterBurstAnswer g i (.served x)) s = .next t ∧
      (t.carter g).desc = some { d with out := d.out.eraseIdx i.val, moved := d.moved + b.2.2, poison := d.poison || burstPoison l } ∧ t.ms = v.ms := by
  intro s u v g i d b x l hd hb hsrc hin hw
  have he : execCarterBurstAnswer g i (.served x) s =
      .next (v.moveBurst g (s.carter g) { d with out := d.out.eraseIdx i.val } b.2.2 (burstPoison l)) := by
    unfold execCarterBurstAnswer
    dsimp only
    rw [hd]
    dsimp only
    rw [hb]
    dsimp only
    rw [hsrc]
    dsimp only
    rw [if_pos hin, hw]
    rfl
  refine ⟨_, he, ?_, State.moveBurst_ms _ _ _ _ _ _⟩
  rw [State.moveBurst_carter]

theorem carterBurstAnswer_error : ∀ (s : State) (g : Fin 192) (i : Fin 8) (d : CarterDesc) (b : Nat × Nat × Nat) (st : AnsStatus), (s.carter g).desc = some d →
    d.out[i.val]? = some b → d.decided = none → (st = .deadTarget ∨ st = .domainClosed ∨ st = .aborted ∨ st = .lapsed) →
    ∃ t, exec (.carterBurstAnswer g i (.error st)) s = .next t ∧
      (t.carter g).desc = some { d with out := d.out.eraseIdx i.val, decided := some (if st = .lapsed then 1 else 4) } ∧ t.ms = s.ms := by
  intro s g i d b st hd hb hdec hst
  have he : execCarterBurstAnswer g i (.error st) s = .next (s.setCarter g { s.carter g with
      desc := some (CarterDesc.fix { d with out := d.out.eraseIdx i.val } (if st = .lapsed then 1 else 4)) }) := by
    unfold execCarterBurstAnswer
    dsimp only
    rw [hd]
    dsimp only
    rw [hb]
    rcases hst with rfl | rfl | rfl | rfl <;> rfl
  refine ⟨_, he, ?_, State.setCarter_ms _ _ _⟩
  rw [State.setCarter_carter]
  simp only [CarterDesc.fix, hdec, Option.none_or]

/-! ### Deadlines and ends -/

theorem carterDescDeadlineLapse_lapses : ∀ (s : State) (g : Fin 192) (d : CarterDesc), (s.carter g).desc = some d → d.more = true → (s.carter g).lapsed s d = true →
    ∃ t, exec (.carterDescDeadlineLapse g) s = .next t ∧ (t.carter g).desc = some { d with decided := some 1 } := by
  intro s g d hd hm hl
  have hdec : d.decided = none := by
    simp only [CarterDesc.more, Bool.and_eq_true, Option.isNone_iff_eq_none] at hm
    exact hm.1.2
  have he : execCarterDescDeadlineLapse g s = .next (s.setCarter g { s.carter g with desc := some (d.fix 1) }) := by
    unfold execCarterDescDeadlineLapse
    dsimp only
    rw [hd]
    exact if_pos ⟨hm, hl⟩
  refine ⟨_, he, ?_⟩
  rw [State.setCarter_carter]
  simp only [CarterDesc.fix, hdec, Option.none_or]

theorem carterDescDeadlineLapse_early : ∀ (s : State) (g : Fin 192) (d : CarterDesc), (s.carter g).desc = some d → (d.more = false ∨ (s.carter g).lapsed s d = false) →
    exec (.carterDescDeadlineLapse g) s = .next s := by
  intro s g d hd h
  show execCarterDescDeadlineLapse g s = _
  unfold execCarterDescDeadlineLapse
  dsimp only
  rw [hd]
  exact if_neg (by rcases h with h | h <;> simp [h])

/-- The channel when its descriptor has ended. -/
def CarterCh.ended (x : CarterCh) (st : Nat) : CarterCh :=
  { x with desc := none, anyBad := x.anyBad || st == 4, anyLapsed := x.anyLapsed || st == 1, anyPoisoned := x.anyPoisoned || st == 3 }

/-- The counter of the status is stepped. -/
def State.countDesc (s : State) (g st : Nat) : State :=
  if st = 4 then s.inc (chFld g R.CARTER_CH_BAD) else if st = 1 then s.inc (chFld g R.CARTER_CH_LAPSED)
  else if st = 3 then s.inc (chFld g R.CARTER_CH_POISONED) else s

/-- The descriptor's token leaves. -/
def State.tokenOut (s : State) (g : Nat) (d : CarterDesc) (x : CarterCh) : State :=
  if nbit (d.w 0) 31 then s.sendToken false ⟨x.tokenName d, !(d.status == 0 || d.status == 3), 0xFFFF⟩ else s

/-- The descriptor's interrupt. -/
def State.descIrq (s : State) (g : Nat) (d : CarterDesc) : State :=
  if nbit (d.w 0) 30 then (s.wr (chFld g R.CARTER_CH_IRQ_DESC) 1).carterIrq g else s

theorem countDesc_spec (s : State) (g st : Nat) : (State.countDesc s g st).crt = s.crt ∧ (State.countDesc s g st).ms = s.ms ∧
    (State.countDesc s g st).reeve = s.reeve := by
  unfold State.countDesc
  split_ifs
  · exact ⟨State.inc_crt _ _, State.inc_ms _ _, State.inc_reeve _ _⟩
  · exact ⟨State.inc_crt _ _, State.inc_ms _ _, State.inc_reeve _ _⟩
  · exact ⟨State.inc_crt _ _, State.inc_ms _ _, State.inc_reeve _ _⟩
  · exact ⟨rfl, rfl, rfl⟩

theorem tokenOut_spec (s : State) (g : Nat) (d : CarterDesc) (x : CarterCh) : (State.tokenOut s g d x).crt = s.crt ∧ (State.tokenOut s g d x).ms = s.ms := by
  unfold State.tokenOut
  split
  · exact ⟨(keeps_sendToken (.refl (partsBut .crt) s) (by decide) (by decide) (by decide) (by decide) (by decide) _ _).same_of_but,
      (keeps_sendToken (.refl partsButMs s) (by decide) (by decide) (by decide) (by decide) (by decide) _ _).same_ms⟩
  · exact ⟨rfl, rfl⟩

theorem tokenOut_tokens {s : State} {d : CarterDesc} (h : nbit (d.w 0) 31 = true) (g : Nat) (x : CarterCh) :
    (State.tokenOut s g d x).reeve.tokens = s.reeve.tokens ++ [⟨x.tokenName d, !(d.status == 0 || d.status == 3), 0xFFFF⟩] := by
  have hr : (s.decrIssue false).reeve = s.reeve :=
    (keeps_decrIssue (.refl (partsBut .reeve) s) (by decide) (by decide) (by decide) (by decide) false).same_of_but
  rw [State.tokenOut, if_pos h, State.sendToken, hr]

theorem descIrq_spec (s : State) (g : Nat) (d : CarterDesc) : (State.descIrq s g d).crt = s.crt ∧ (State.descIrq s g d).ms = s.ms ∧
    (State.descIrq s g d).reeve = s.reeve := by
  unfold State.descIrq
  split
  · exact ⟨(State.carterIrq_crt _ _).trans (State.wr_crt _ _ _),
      (keeps_carterIrq (.refl partsButMs _) (by decide) (by decide) (by decide) g).same_ms.trans (State.wr_ms _ _ _),
      (keeps_carterIrq (.refl (partsBut .reeve) _) (by decide) (by decide) (by decide) g).same_of_but.trans (State.wr_reeve _ _ _)⟩
  · exact ⟨rfl, rfl, rfl⟩

theorem carterDescEnd_ends : ∀ (s : State) (g : Fin 192) (d : CarterDesc), (s.carter g).desc = some d → d.out = [] → d.more = false → ∃ t, exec (.carterDescEnd g) s = .next t ∧
    (t.carter g).desc = none ∧ t.ms = (s.dmaWrite (carterMid g) (d.addr + 0x10) (clean [0, 0x80 + d.status * 8])).2.ms ∧
    (nbit (d.w 0) 30 = true → t.rd (chFld g R.CARTER_CH_IRQ_DESC) = 1) ∧
    (nbit (d.w 0) 31 = true → t.reeve.tokens = s.reeve.tokens ++ [⟨(s.carter g).tokenName d, !(d.status == 0 || d.status == 3), 0xFFFF⟩]) ∧
    (nbit (d.w 0) 31 = false → t.reeve = s.reeve) ∧
    ((s.carter g).ending = none → (s.dmaWrite (carterMid g) (d.addr + 0x10) (clean [0, 0x80 + d.status * 8])).1 = true →
      d.badNext (decide (g.val < 64)) = false → d.last = true → (t.carter g).final = some (0, false)) ∧
    ((s.carter g).ending = none → (s.dmaWrite (carterMid g) (d.addr + 0x10) (clean [0, 0x80 + d.status * 8])).1 = true →
      d.badNext (decide (g.val < 64)) = false → d.last = false → s.rd (chFld g R.CARTER_CH_STATE_DESC_COUNT) < s.rd (chFld g R.CARTER_CH_CFG_LIMIT) →
      (t.carter g).fetch = some (nbit (d.w 7) 30, nbits (d.w 7) 5 21 * 32)) := by
  intro s g d hd hout hmore
  have he : execCarterDescEnd g s = .next (State.descIrq (State.tokenOut (State.countDesc
      (((s.dmaWrite (carterMid g) (d.addr + 0x10) (clean [0, 0x80 + d.status * 8])).2.ledgerCount (ledgerId 7 g) 0 (if d.good then d.bytes - d.moved else 0)).setCarter g
        ((CarterCh.ended (s.carter g) d.status).after d (decide (g.val < 64)) (s.dmaWrite (carterMid g) (d.addr + 0x10) (clean [0, 0x80 + d.status * 8])).1
          (decide (s.rd (chFld g R.CARTER_CH_CFG_LIMIT) ≤ s.rd (chFld g R.CARTER_CH_STATE_DESC_COUNT))))) g d.status) g d (s.carter g)) g d) := by
    unfold execCarterDescEnd
    dsimp only
    rw [hd]
    dsimp only
    rw [if_neg (by simp [hout, hmore])]
    rfl
  have hw : (s.dmaWrite (carterMid g) (d.addr + 0x10) (clean [0, 0x80 + d.status * 8])).2.reeve = s.reeve := State.dmaWrite_reeve _ _ _ _
  generalize s.dmaWrite (carterMid g) (d.addr + 0x10) (clean [0, 0x80 + d.status * 8]) = wb at he hw ⊢
  generalize hx : (CarterCh.ended (s.carter g) d.status).after d (decide (g.val < 64)) wb.1
    (decide (s.rd (chFld g R.CARTER_CH_CFG_LIMIT) ≤ s.rd (chFld g R.CARTER_CH_STATE_DESC_COUNT))) = x at he
  generalize hu : (wb.2.ledgerCount (ledgerId 7 g) 0 (if d.good then d.bytes - d.moved else 0)).setCarter g x = u at he
  have hms : u.ms = wb.2.ms := by rw [← hu, State.setCarter_ms, State.ledgerCount_ms]
  have hre : u.reeve = s.reeve := by rw [← hu, State.setCarter_reeve, State.ledgerCount_reeve, hw]
  obtain ⟨c1, c2, c3⟩ := countDesc_spec u g d.status
  obtain ⟨k1, k2⟩ := tokenOut_spec (State.countDesc u g d.status) g d (s.carter g)
  obtain ⟨i1, i2, i3⟩ := descIrq_spec (State.tokenOut (State.countDesc u g d.status) g d (s.carter g)) g d
  have hcar : (State.descIrq (State.tokenOut (State.countDesc u g d.status) g d (s.carter g)) g d).carter g = x := by
    rw [State.carter_congr (i1.trans (k1.trans c1)), ← hu, State.setCarter_carter]
  refine ⟨_, he, ?_, i2.trans (k2.trans (c2.trans hms)), fun h30 => ?_, fun h31 => ?_, fun h31 => ?_, fun hend hok hbn hlast => ?_,
    fun hend hok hbn hlast hlim => ?_⟩
  · rw [hcar, ← hx, CarterCh.after]
    split
    · rfl
    · rfl
    · split_ifs <;> rfl
  · rw [State.descIrq, if_pos h30, State.rd_congr (State.carterIrq_regs _ _), State.wr_rd_same, chFld_w (f := R.CARTER_CH_IRQ_DESC) fun _ => rfl]
    rfl
  · rw [i3, tokenOut_tokens h31, c3, hre]
  · rw [i3, State.tokenOut, if_neg (by simp [h31]), c3, hre]
  · have hended : (CarterCh.ended (s.carter g) d.status).ending = none := hend
    rw [hcar, ← hx, CarterCh.after, hended]
    dsimp only
    rw [if_neg (by simp [hok]), if_neg (by simp [hbn]), if_pos hlast]
  · have hended : (CarterCh.ended (s.carter g) d.status).ending = none := hend
    rw [hcar, ← hx, CarterCh.after, hended]
    dsimp only
    rw [if_neg (by simp [hok]), if_neg (by simp [hbn]), if_neg (by simp [hlast]), if_neg (by simpa using hlim)]

/-- Settles O41: each clause is a lemma above about one command. -/
theorem carterDescriptors : Obligations.CarterDescriptors :=
  ⟨carterDescFetch_good, carterDescFetch_bad, carterDescFetch_poisoned, carterBurst_issues, carterBurstAnswer_served, carterBurstAnswer_error,
    carterDescDeadlineLapse_lapses, carterDescDeadlineLapse_early, carterDescEnd_ends⟩

end Sys2Proof.Claims

/-! ## Lanes and links: what re-evaluating a link's state writes and leaves (chapter 16) -/

namespace Sys2Proof.Machine

set_option Elab.async false

open Sys2Proof.Claims

/-- The places that the evaluation of link `k` writes: its state and what hangs on it, and REACHABLE of the members. -/
def linkRegs (k x : Nat) : Prop :=
  x = (R.EWL_STATUS_STATE k).key ∨ x = (R.EWL_STATUS_TIME_VALID k).key ∨ x = (R.EWL_STATUS_AM_LOCKED k).key ∨
    x = (R.EWL_STATUS_LANE_MISMATCH k).key ∨ x = (R.EWL_STATUS_SILENT k).key ∨ ∃ d < 8, x = (R.EWL_MEMBER_STATUS_REACHABLE d).key

/-- The registers of quads and lanes lie below those of links. -/
theorem not_linkRegs_of_lt {k x : Nat} (h : x < 0x4F004000 * 64) : ¬ linkRegs k x := by
  rintro (e | e | e | e | e | ⟨d, _, e⟩) <;>
    simp only [Fld.key, R.EWL_STATUS_STATE, R.EWL_STATUS_TIME_VALID, R.EWL_STATUS_AM_LOCKED, R.EWL_STATUS_LANE_MISMATCH, R.EWL_STATUS_SILENT,
      R.EWL_MEMBER_STATUS_REACHABLE] at e <;> omega

/-- EWL_CFG of a link is not among them. -/
theorem not_linkRegs_cfg {k x lo : Nat} (hlo : lo < 64) (h : x = (0x4F004000 + k * 0x100) * 64 + lo) : ¬ linkRegs k x := by
  rintro (e | e | e | e | e | ⟨d, hd, e⟩) <;>
    simp only [Fld.key, R.EWL_STATUS_STATE, R.EWL_STATUS_TIME_VALID, R.EWL_STATUS_AM_LOCKED, R.EWL_STATUS_LANE_MISMATCH, R.EWL_STATUS_SILENT,
      R.EWL_MEMBER_STATUS_REACHABLE] at e <;> omega

section
variable {s t : State} {k : Nat}

theorem WritesIn.setLane {P : Nat → Prop} (h : WritesIn P s t) (l : Nat) (x : LaneRx) : WritesIn P s (t.setLane l x) := h.of_regs rfl
theorem WritesIn.setElink {P : Nat → Prop} (h : WritesIn P s t) (j : Nat) (x : EwlLink) : WritesIn P s (t.setElink j x) := h.of_regs rfl

theorem WritesIn.showReach (h : WritesIn (linkRegs k) s t) : WritesIn (linkRegs k) s t.showReach :=
  .foldl _ (fun _ d hd hu => hu.wrB (.inr (.inr (.inr (.inr (.inr ⟨d, List.mem_range.mp hd, rfl⟩))))) _) h

theorem WritesIn.showLocks (h : WritesIn (linkRegs k) s t) : WritesIn (linkRegs k) s (t.showLocks k) := h.wr (.inr (.inr (.inl rfl))) _

theorem WritesIn.toHunt (h : WritesIn (linkRegs k) s t) : WritesIn (linkRegs k) s (t.toHunt k) :=
  (((h.wr (.inl rfl) 1).wr (.inr (.inl rfl)) 0).setElink k _).showReach

theorem WritesIn.toUp (h : WritesIn (linkRegs k) s t) : WritesIn (linkRegs k) s (t.toUp k) :=
  WritesIn.showReach (.of_regs ((h.wr (.inl rfl) 3).wr (.inr (.inr (.inr (.inr (.inl rfl))))) 0) rfl)

/-- The link's state after the locks have been looked at: ALIGNED where the markers' map holds (R438, R441). -/
def State.linkMap (s : State) (k : Nat) : State :=
  if s.ewlSt k = 1 then
    (if s.mapOk k then ((s.showLocks k).wr (R.EWL_STATUS_STATE k) 2).wr (R.EWL_STATUS_LANE_MISMATCH k) 0
      else (s.showLocks k).wr (R.EWL_STATUS_LANE_MISMATCH k) 1)
  else s.showLocks k

/-- Every lane of the link has block lock and marker lock. -/
def State.linkLocked (s : State) (k : Nat) : Bool :=
  (s.linkLanes k).all (fun l => s.bit (R.LANE_STATUS_BLOCK_LOCK l) && s.bit (R.LANE_STATUS_MARKER_LOCK l))

theorem State.linkEval_eq (s : State) (k : Nat) : s.linkEval k =
    if s.ewlSt k = 0 then s.showLocks k
    else if !s.linkLocked k then (if s.ewlSt k = 1 then s.showLocks k else (s.showLocks k).toHunt k)
    else if (s.linkMap k).ewlSt k = 2 ∧ ((s.linkMap k).elink k).good then (s.linkMap k).toUp k
    else if (s.linkMap k).ewlSt k = 3 ∧ 2 ≤ ((s.linkMap k).elink k).low then (s.linkMap k).toHunt k else s.linkMap k := rfl

theorem WritesIn.linkMap (h : WritesIn (linkRegs k) s t) : WritesIn (linkRegs k) s (t.linkMap k) := by
  unfold State.linkMap
  split_ifs
  · exact (h.showLocks.wr (.inl rfl) 2).wr (.inr (.inr (.inr (.inl rfl)))) 0
  · exact h.showLocks.wr (.inr (.inr (.inr (.inl rfl)))) 1
  · exact h.showLocks

theorem WritesIn.linkEval (h : WritesIn (linkRegs k) s t) : WritesIn (linkRegs k) s (t.linkEval k) := by
  rw [State.linkEval_eq]
  split_ifs
  · exact h.showLocks
  · exact h.showLocks
  · exact h.showLocks.toHunt
  · exact h.linkMap.toUp
  · exact h.linkMap.toHunt
  · exact h.linkMap

end

section
variable (s : State) (k : Nat)

theorem State.linkEval_rd {s : State} {k : Nat} {f : Fld} (h : ¬ linkRegs k f.key) : (s.linkEval k).rd f = s.rd f :=
  WritesIn.linkEval (.refl _ s) f h

theorem State.showReach_rd_state : s.showReach.rd (R.EWL_STATUS_STATE k) = s.rd (R.EWL_STATUS_STATE k) := by
  have hw : WritesIn (fun x => x % 64 = 29) s s.showReach :=
    .foldl _ (fun u d _ hu => hu.wrB (by simp only [Fld.key, R.EWL_MEMBER_STATUS_REACHABLE]; omega) _) (.refl _ s)
  exact hw _ (by simp only [Fld.key, R.EWL_STATUS_STATE]; omega)

theorem State.showReach_ewl : s.showReach.ewl = s.ewl := by
  unfold State.showReach
  generalize List.range 8 = l
  suffices h : ∀ t : State, (l.foldl (fun t d => t.wrB (R.EWL_MEMBER_STATUS_REACHABLE d)
      (match t.ewlRoute d with | some k => decide (k < 6) && t.ewlUp k | none => false)) t).ewl = t.ewl from h s
  induction l with
  | nil => exact fun _ => rfl
  | cons d l ih => exact fun t => (ih _).trans (State.wrB_ewl t _ _)

@[simp] theorem State.setElink_rd (j : Nat) (x : EwlLink) (f : Fld) : (s.setElink j x).rd f = s.rd f := rfl
@[simp] theorem State.setLane_rd (l : Nat) (x : LaneRx) (f : Fld) : (s.setLane l x).rd f = s.rd f := rfl
@[simp] theorem State.setElink_elink (x : EwlLink) : (s.setElink k x).elink k = x := Tab.get_set_same _ _ _
@[simp] theorem State.setElink_lanes (j : Nat) (x : EwlLink) : (s.setElink j x).ewl.lanes = s.ewl.lanes := rfl
@[simp] theorem State.setLane_laneRx (l : Nat) (x : LaneRx) : (s.setLane l x).laneRx l = x := Tab.get_set_same _ _ _
theorem State.elink_congr {s t : State} (h : t.ewl = s.ewl) (k : Nat) : t.elink k = s.elink k := by rw [State.elink, h, State.elink]
theorem State.laneRx_congr {s t : State} (h : t.ewl.lanes = s.ewl.lanes) (l : Nat) : t.laneRx l = s.laneRx l := by rw [State.laneRx, h, State.laneRx]

theorem State.toHunt_ewlSt : (s.toHunt k).ewlSt k = 1 := by
  unfold State.toHunt State.ewlSt
  dsimp only
  rw [State.showReach_rd_state, State.setElink_rd, State.wr_rd_ne _ _ _ _ (by simp only [Fld.key, R.EWL_STATUS_STATE, R.EWL_STATUS_TIME_VALID, ne_eq]; omega)]
  exact State.wr_rd_same _ _ _

theorem State.toHunt_elink : (s.toHunt k).elink k = { s.elink k with
    good := false, low := 0, skew := 0, down := (s.elink k).down || s.ewlUp k, from_ := if s.ewlUp k then s.stp.now else (s.elink k).from_ } :=
  (State.elink_congr (State.showReach_ewl _) k).trans (State.setElink_elink _ _ _)

theorem State.toHunt_lanes : (s.toHunt k).ewl.lanes = s.ewl.lanes := by
  unfold State.toHunt
  exact (congrArg Ewenual.lanes (State.showReach_ewl _)).trans rfl

theorem State.toUp_lanes : (s.toUp k).ewl.lanes = s.ewl.lanes := by
  unfold State.toUp
  exact (congrArg Ewenual.lanes (State.showReach_ewl _)).trans rfl

theorem State.linkMap_ewl : (s.linkMap k).ewl = s.ewl := by
  unfold State.linkMap
  split_ifs <;> rfl

theorem State.linkEval_lanes : (s.linkEval k).ewl.lanes = s.ewl.lanes := by
  rw [State.linkEval_eq]
  split_ifs
  · rfl
  · rfl
  · exact State.toHunt_lanes _ k
  · exact (State.toUp_lanes _ k).trans (congrArg _ (State.linkMap_ewl s k))
  · exact (State.toHunt_lanes _ k).trans (congrArg _ (State.linkMap_ewl s k))
  · exact congrArg _ (State.linkMap_ewl s k)

theorem State.laneEval_lanes (l : Nat) : (s.laneEval l).ewl.lanes = s.ewl.lanes := by
  unfold State.laneEval
  split
  · split_ifs
    · exact State.linkEval_lanes s _
    · rfl
  · rfl

/-- The evaluation of a lane's link writes no register of a quad or of a lane. -/
theorem State.laneEval_rd {s : State} {f : Fld} (l : Nat) (h : f.key < 0x4F004000 * 64) : (s.laneEval l).rd f = s.rd f := by
  unfold State.laneEval
  split
  · split_ifs
    · exact State.linkEval_rd (not_linkRegs_of_lt h)
    · rfl
  · rfl

theorem State.showLocks_ewlSt : (s.showLocks k).ewlSt k = s.ewlSt k := State.wr_rd_ne s _ _ _ (by simp only [Fld.key, R.EWL_STATUS_STATE, R.EWL_STATUS_AM_LOCKED, ne_eq]; omega)

/-- A link in HUNT stays there or becomes ALIGNED as long as no marker has said that the partner is ready (R441). -/
theorem State.linkEval_of_hunt {s : State} {k : Nat} (h : s.ewlSt k = 1) (hg : (s.elink k).good = false) :
    (s.linkEval k).ewlSt k = 1 ∨ (s.linkEval k).ewlSt k = 2 := by
  have hm : (s.linkMap k).ewlSt k = 1 ∨ (s.linkMap k).ewlSt k = 2 := by
    unfold State.linkMap
    rw [if_pos h]
    split
    · right
      rw [State.ewlSt, State.wr_rd_ne _ _ _ _ (by simp only [Fld.key, R.EWL_STATUS_STATE, R.EWL_STATUS_LANE_MISMATCH, ne_eq]; omega)]
      exact State.wr_rd_same _ _ _
    · left
      rw [State.ewlSt, State.wr_rd_ne _ _ _ _ (by simp only [Fld.key, R.EWL_STATUS_STATE, R.EWL_STATUS_LANE_MISMATCH, ne_eq]; omega)]
      exact (State.showLocks_ewlSt s k).trans h
  have hgm : ((s.linkMap k).elink k).good = false := by rw [State.elink_congr (State.linkMap_ewl s k), hg]
  rw [State.linkEval_eq, if_neg (by omega), if_pos h]
  split
  · exact .inl ((State.showLocks_ewlSt s k).trans h)
  · rw [if_neg (by simp [hgm]), if_neg (by omega)]
    exact hm

/-- An UP link one of whose lanes has no block lock goes to HUNT and is down (R441, R445). -/
theorem State.linkEval_unlocked {s : State} {k : Nat} (h : s.ewlSt k = 3) (hl : s.linkLocked k = false) :
    (s.linkEval k).ewlSt k = 1 ∧ ((s.linkEval k).elink k).down = true := by
  have hup : (s.showLocks k).ewlUp k = true := beq_iff_eq.mpr ((State.showLocks_ewlSt s k).trans h)
  rw [State.linkEval_eq, if_neg (by omega), hl, if_pos (by decide), if_neg (by omega)]
  exact ⟨State.toHunt_ewlSt _ k, by rw [State.toHunt_elink, hup, Bool.or_true]⟩

theorem State.laneLink_lt {s : State} {l k : Nat} (h : s.laneLink l = some k) : k < 6 := by
  unfold State.laneLink at h
  split at h
  · next hc => exact Option.some.inj h ▸ hc.2
  · cases h

end

end Sys2Proof.Machine

/-! ## O42: lanes and link states -/

namespace Sys2Proof.Claims

set_option Elab.async false

open Sys2Proof.Machine

/-! ### Configuration -/

theorem quadCfgWrite_writes : ∀ (s : State) (q : Fin 12) (v : Word), (∀ j < 4, s.rd (R.LANE_CFG_USE (4 * q.val + j)) = 0) → ∃ t, exec (.quadCfgWrite q v) s = .next t ∧
    t.rd (R.QUAD_CFG_RATE q) = bitsOf v 0 4 ∧ t.rd (R.QUAD_CFG_REF q) = bitsOf v 4 3 ∧ sameRegs s t [R.QUAD_CFG_RATE q, R.QUAD_CFG_REF q] := by
  intro s q v h
  have hany : ¬(bitsOf v 0 4 ≠ s.rd (R.QUAD_CFG_RATE q) ∧ (List.range 4).any (fun j => s.rd (R.LANE_CFG_USE (4 * q.val + j)) != 0) = true) := by
    rintro ⟨-, ha⟩
    obtain ⟨j, hj, hne⟩ := List.any_eq_true.mp ha
    exact (bne_iff_ne.mp hne) (h j (List.mem_range.mp hj))
  have hne : (R.QUAD_CFG_REF q).key ≠ (R.QUAD_CFG_RATE q).key := (by simp only [Fld.key, R.QUAD_CFG_REF, R.QUAD_CFG_RATE, ne_eq]; omega)
  refine ⟨_, if_neg hany, State.wr_rd_same _ _ _ |>.trans (Nat.mod_mod _ _), ?_, ?_⟩
  · exact (State.wrWord_rd_mem v (R.QUAD_CFG_REF q) [R.QUAD_CFG_REF q, R.QUAD_CFG_RATE q] s (List.mem_cons_self ..)
      (by simpa using fun _ => hne))
  · exact (sameRegs.refl s _).wrWord v (fun f hf => by simpa [or_comm] using hf)

theorem quadCfgWrite_inUse : ∀ (s : State) (q : Fin 12) (v : Word) (j : Nat), j < 4 → s.rd (R.LANE_CFG_USE (4 * q.val + j)) ≠ 0 → bitsOf v 0 4 ≠ s.rd (R.QUAD_CFG_RATE q) →
    exec (.quadCfgWrite q v) s = .next s := fun _ _ _ j hj hu hr =>
  if_pos ⟨hr, List.any_eq_true.mpr ⟨j, List.mem_range.mpr hj, bne_iff_ne.mpr hu⟩⟩

/-- What LANE_CFG_WRITE leaves in the lane's registers before its link is looked at. -/
def laneCfg (s : State) (l : Nat) (v : Word) : State :=
  (s.wrWord v [R.LANE_CFG_USE l, R.LANE_CFG_OWNER l, R.LANE_CFG_TX_INV l, R.LANE_CFG_RX_INV l, R.LANE_CFG_ADAPT_FREEZE l, R.LANE_CFG_TX_PAT l,
    R.LANE_CFG_RX_PAT l]).wrB (R.LANE_STATUS_RATE_ERR l) (rateBad (bitsOf v 30 2) (s.rd (R.QUAD_CFG_RATE (l / 4))))

theorem unlock_rd (s : State) (l : Nat) : (s.unlock l).rd (R.LANE_STATUS_BLOCK_LOCK l) = 0 ∧ (s.unlock l).rd (R.LANE_STATUS_MARKER_LOCK l) = 0 ∧
    sameRegs s (s.unlock l) [R.LANE_STATUS_BLOCK_LOCK l, R.LANE_STATUS_MARKER_LOCK l, R.LANE_STATUS_PRBS_LOCK l] := by
  refine ⟨?_, ?_, ?_⟩
  · rw [State.unlock, State.setLane_rd, State.wr_rd_ne _ _ _ _ (by simp only [Fld.key, R.LANE_STATUS_BLOCK_LOCK, R.LANE_STATUS_PRBS_LOCK, ne_eq]; omega),
      State.wr_rd_ne _ _ _ _ (by simp only [Fld.key, R.LANE_STATUS_BLOCK_LOCK, R.LANE_STATUS_MARKER_LOCK, ne_eq]; omega)]
    exact State.wr_rd_same _ _ _
  · rw [State.unlock, State.setLane_rd, State.wr_rd_ne _ _ _ _ (by simp only [Fld.key, R.LANE_STATUS_MARKER_LOCK, R.LANE_STATUS_PRBS_LOCK, ne_eq]; omega)]
    exact State.wr_rd_same _ _ _
  · exact ((((sameRegs.refl s _).wr (by simp) 0).wr (by simp) 0).wr (by simp) 0).of_regs rfl

theorem laneCfg_rd (s : State) (l : Nat) (v : Word) : (laneCfg s l v).rd (R.LANE_STATUS_RATE_ERR l) =
      (if rateBad (bitsOf v 30 2) (s.rd (R.QUAD_CFG_RATE (l / 4))) then 1 else 0) ∧
    ∀ f ∈ [R.LANE_CFG_USE l, R.LANE_CFG_OWNER l, R.LANE_CFG_RX_PAT l], (laneCfg s l v).rd f = f.of v := by
  constructor
  · refine (State.wr_rd_same _ _ _).trans ?_
    split <;> rfl
  · intro f hf
    refine (State.wrB_rd_ne _ _ _ _ ?_).trans (State.wrWord_rd_mem v f _ s ?_ ?_)
    · fin_cases hf <;> simp only [Fld.key, R.LANE_CFG_USE, R.LANE_CFG_OWNER, R.LANE_CFG_RX_PAT, R.LANE_STATUS_RATE_ERR, ne_eq] <;> omega
    · fin_cases hf <;> simp
    · fin_cases hf <;>
        simp [Fld.key, R.LANE_CFG_USE, R.LANE_CFG_OWNER, R.LANE_CFG_RX_PAT, R.LANE_CFG_TX_INV, R.LANE_CFG_RX_INV, R.LANE_CFG_ADAPT_FREEZE, R.LANE_CFG_TX_PAT]

theorem laneCfgWrite_moves : ∀ (s : State) (l : Fin 48) (v : Word), bitsOf v 30 2 ≠ s.rd (R.LANE_CFG_USE l) → ∃ t, exec (.laneCfgWrite l v) s = .next t ∧
    t.rd (R.LANE_CFG_USE l) = bitsOf v 30 2 ∧ t.rd (R.LANE_CFG_OWNER l) = bitsOf v 25 5 ∧ t.rd (R.LANE_CFG_RX_PAT l) = bitsOf v 18 2 ∧
    t.rd (R.LANE_STATUS_BLOCK_LOCK l) = 0 ∧ t.rd (R.LANE_STATUS_MARKER_LOCK l) = 0 ∧
    t.rd (R.LANE_STATUS_RATE_ERR l) = (if rateBad (bitsOf v 30 2) (s.rd (R.QUAD_CFG_RATE (l.val / 4))) then 1 else 0) := by
  intro s l v h
  have he : exec (.laneCfgWrite l v) s = .next (match s.laneLink l with
      | some k => ((laneCfg s l v).unlock l).linkEval k | none => (laneCfg s l v).unlock l) := by
    show execLaneCfgWrite l v s = _
    unfold execLaneCfgWrite
    dsimp only
    rw [if_pos (by simp [h])]
    rfl
  have hl := l.isLt
  obtain ⟨herr, hcfg⟩ := laneCfg_rd s l v
  obtain ⟨hb, hm, hsame⟩ := unlock_rd (laneCfg s l v) l
  have hkeep (f : Fld) (hf : f.key < 0x4F004000 * 64) : (match s.laneLink l with
      | some k => ((laneCfg s l v).unlock l).linkEval k | none => (laneCfg s l v).unlock l).rd f = ((laneCfg s l v).unlock l).rd f := by
    split
    · exact State.linkEval_rd (not_linkRegs_of_lt hf)
    · rfl
  have hu (f : Fld) (hf : ∀ x ∈ [R.LANE_STATUS_BLOCK_LOCK l, R.LANE_STATUS_MARKER_LOCK l, R.LANE_STATUS_PRBS_LOCK l], f.key ≠ x.key)
      (hlt : f.key < 0x4F004000 * 64) := (hkeep f hlt).trans (hsame f hf)
  refine ⟨_, he, ?_, ?_, ?_, ?_, ?_, ?_⟩
  · exact (hu _ (by simp only [List.mem_cons, List.not_mem_nil, or_false, forall_eq_or_imp, forall_eq, Fld.key, R.LANE_CFG_USE, R.LANE_STATUS_BLOCK_LOCK, R.LANE_STATUS_MARKER_LOCK, R.LANE_STATUS_PRBS_LOCK, ne_eq]; omega) (by simp only [Fld.key, R.LANE_CFG_USE]; omega)).trans (hcfg _ (by simp))
  · exact (hu _ (by simp only [List.mem_cons, List.not_mem_nil, or_false, forall_eq_or_imp, forall_eq, Fld.key, R.LANE_CFG_OWNER, R.LANE_STATUS_BLOCK_LOCK, R.LANE_STATUS_MARKER_LOCK, R.LANE_STATUS_PRBS_LOCK, ne_eq]; omega) (by simp only [Fld.key, R.LANE_CFG_OWNER]; omega)).trans (hcfg _ (by simp))
  · exact (hu _ (by simp only [List.mem_cons, List.not_mem_nil, or_false, forall_eq_or_imp, forall_eq, Fld.key, R.LANE_CFG_RX_PAT, R.LANE_STATUS_BLOCK_LOCK, R.LANE_STATUS_MARKER_LOCK, R.LANE_STATUS_PRBS_LOCK, ne_eq]; omega) (by simp only [Fld.key, R.LANE_CFG_RX_PAT]; omega)).trans (hcfg _ (by simp))
  · exact (hkeep _ (by simp only [Fld.key, R.LANE_STATUS_BLOCK_LOCK]; omega)).trans hb
  · exact (hkeep _ (by simp only [Fld.key, R.LANE_STATUS_MARKER_LOCK]; omega)).trans hm
  · exact (hu _ (by simp only [List.mem_cons, List.not_mem_nil, or_false, forall_eq_or_imp, forall_eq, Fld.key, R.LANE_STATUS_RATE_ERR, R.LANE_STATUS_BLOCK_LOCK, R.LANE_STATUS_MARKER_LOCK, R.LANE_STATUS_PRBS_LOCK, ne_eq]; omega) (by simp only [Fld.key, R.LANE_STATUS_RATE_ERR]; omega)).trans herr

/-! ### Links -/

/-- EWL_CFG_WRITE writes fields of EWL_CFG only. -/
theorem ewlCfg_rd (s : State) (k : Nat) (v : Word) (hen : s.bit (R.EWL_CFG_EN k) = false) :
    (s.ewlCfg k v).rd (R.EWL_CFG_LANES_M1 k) = bitsOf v 27 3 ∧ (s.ewlCfg k v).rd (R.EWL_CFG_FIRST_LANE k) = bitsOf v 21 6 ∧
      (s.ewlCfg k v).rd (R.EWL_STATUS_STATE k) = s.rd (R.EWL_STATUS_STATE k) ∧ (s.ewlCfg k v).ewl = s.ewl := by
  unfold State.ewlCfg
  rw [hen, if_neg Bool.false_ne_true]
  have hmem (f : Fld) (hf : f ∈ [R.EWL_CFG_LANES_M1 k, R.EWL_CFG_FIRST_LANE k]) : (s.wrWord v (ewlCfgFields k)).rd f = f.of v := by
    refine State.wrWord_rd_mem v f _ s ?_ ?_
    · fin_cases hf <;> simp [ewlCfgFields]
    · fin_cases hf <;>
        simp [ewlCfgFields, Fld.key, R.EWL_CFG_MODE, R.EWL_CFG_LANES_M1, R.EWL_CFG_FIRST_LANE, R.EWL_CFG_EXPECT_MEMBER, R.EWL_CFG_TIME_EN, R.EWL_CFG_LINK_ID]
  refine ⟨?_, ?_, ?_, rfl⟩
  · exact (State.wr_rd_ne _ _ _ _ (by simp only [Fld.key, R.EWL_CFG_LANES_M1, R.EWL_CFG_CHAFF_P64, ne_eq]; omega)).trans (hmem _ (by simp))
  · exact (State.wr_rd_ne _ _ _ _ (by simp only [Fld.key, R.EWL_CFG_FIRST_LANE, R.EWL_CFG_CHAFF_P64, ne_eq]; omega)).trans (hmem _ (by simp))
  · refine (State.wr_rd_ne _ _ _ _ (by simp only [Fld.key, R.EWL_STATUS_STATE, R.EWL_CFG_CHAFF_P64, ne_eq]; omega)).trans ((sameRegs.refl s _).wrWord v (fun _ h => h) _ ?_)
    simp only [ewlCfgFields, List.mem_cons, List.not_mem_nil, or_false, forall_eq_or_imp, forall_eq, Fld.key, R.EWL_STATUS_STATE, R.EWL_CFG_MODE,
      R.EWL_CFG_LANES_M1, R.EWL_CFG_FIRST_LANE, R.EWL_CFG_EXPECT_MEMBER, R.EWL_CFG_TIME_EN, R.EWL_CFG_LINK_ID, ne_eq]
    omega

/-- A link that is enabled, before its locks are looked at. -/
def ewlStarted (s : State) (k : Nat) (v : Word) : State :=
  (((((s.ewlCfg k v).wr (R.EWL_CFG_EN k) 1).wr (R.EWL_STATUS_STATE k) 1).wr (R.EWL_STATUS_LANE_CONFLICT k) 0).wr (R.EWL_STATUS_SKEW k) 0).setElink k
    { down := (s.elink k).down, from_ := s.stp.now }

theorem ewlStarted_rd (s : State) (k : Nat) (v : Word) (hen : s.bit (R.EWL_CFG_EN k) = false) :
    (ewlStarted s k v).rd (R.EWL_CFG_EN k) = 1 ∧ (ewlStarted s k v).ewlSt k = 1 ∧ (ewlStarted s k v).rd (R.EWL_STATUS_LANE_CONFLICT k) = 0 ∧
      (ewlStarted s k v).rd (R.EWL_CFG_LANES_M1 k) = bitsOf v 27 3 ∧ (ewlStarted s k v).rd (R.EWL_CFG_FIRST_LANE k) = bitsOf v 21 6 := by
  obtain ⟨hm, hf, -, -⟩ := ewlCfg_rd s k v hen
  unfold ewlStarted State.ewlSt
  simp only [State.setElink_rd]
  generalize s.ewlCfg k v = u at hm hf
  simp (disch := (simp only [Fld.key, R.EWL_CFG_EN, R.EWL_CFG_LANES_M1, R.EWL_CFG_FIRST_LANE, R.EWL_STATUS_STATE, R.EWL_STATUS_LANE_CONFLICT,
    R.EWL_STATUS_SKEW]; omega)) only [State.wr_rd_ne, State.wr_rd_same, hm, hf]
  exact ⟨rfl, rfl, rfl, trivial, trivial⟩

theorem ewlEnable_hunts : ∀ (s : State) (k : Fin 6) (v : Word), s.bit (R.EWL_CFG_EN k) = false → bitOf v 31 = true → (s.ewlCfg k v).lanesOwned k = true →
    ∃ t, exec (.ewlEnable k v) s = .next t ∧ t.rd (R.EWL_CFG_EN k) = 1 ∧ (t.ewlSt k = 1 ∨ t.ewlSt k = 2) ∧
      t.rd (R.EWL_STATUS_LANE_CONFLICT k) = 0 ∧ t.rd (R.EWL_CFG_LANES_M1 k) = bitsOf v 27 3 ∧ t.rd (R.EWL_CFG_FIRST_LANE k) = bitsOf v 21 6 := by
  intro s k v hen hv hown
  have he : exec (.ewlEnable k v) s = .next ((ewlStarted s k v).linkEval k) := by
    show execEwlEnable k v s = _
    unfold execEwlEnable
    dsimp only
    rw [if_neg (by simp [hen, hv]), if_pos hown]
    rfl
  obtain ⟨hen1, hst, hconf, hm1, hfl⟩ := ewlStarted_rd s k v hen
  have hcfg (f : Fld) (lo : Nat) (hlo : lo < 64) (hf : f.key = (0x4F004000 + k.val * 0x100) * 64 + lo) :=
    State.linkEval_rd (s := ewlStarted s k v) (not_linkRegs_cfg (k := k.val) hlo hf)
  refine ⟨_, he, ?_, ?_, ?_, ?_, ?_⟩
  · exact (hcfg (R.EWL_CFG_EN k) 31 (by decide) (by simp only [Fld.key, R.EWL_CFG_EN])).trans hen1
  · refine State.linkEval_of_hunt hst ?_
    rw [ewlStarted, State.setElink_elink]
  · refine (State.linkEval_rd ?_).trans hconf
    rintro (e | e | e | e | e | ⟨d, hd, e⟩) <;>
      simp only [Fld.key, R.EWL_STATUS_STATE, R.EWL_STATUS_TIME_VALID, R.EWL_STATUS_AM_LOCKED, R.EWL_STATUS_LANE_MISMATCH, R.EWL_STATUS_SILENT,
        R.EWL_MEMBER_STATUS_REACHABLE, R.EWL_STATUS_LANE_CONFLICT] at e <;> omega
  · exact (hcfg (R.EWL_CFG_LANES_M1 k) 27 (by decide) (by simp only [Fld.key, R.EWL_CFG_LANES_M1])).trans hm1
  · exact (hcfg (R.EWL_CFG_FIRST_LANE k) 21 (by decide) (by simp only [Fld.key, R.EWL_CFG_FIRST_LANE])).trans hfl

theorem ewlEnable_conflict : ∀ (s : State) (k : Fin 6) (v : Word), s.bit (R.EWL_CFG_EN k) = false → bitOf v 31 = true → (s.ewlCfg k v).lanesOwned k = false →
    ∃ t, exec (.ewlEnable k v) s = .next t ∧ t.rd (R.EWL_STATUS_LANE_CONFLICT k) = 1 ∧ t.ewlSt k = s.ewlSt k ∧ t.ewl = s.ewl := by
  intro s k v hen hv hown
  obtain ⟨-, -, hst, hewl⟩ := ewlCfg_rd s k v hen
  have he : exec (.ewlEnable k v) s = .next (((s.ewlCfg k v).wr (R.EWL_CFG_EN k) 1).wr (R.EWL_STATUS_LANE_CONFLICT k) 1) := by
    show execEwlEnable k v s = _
    unfold execEwlEnable
    dsimp only
    rw [if_neg (by simp [hen, hv]), if_neg (by simp [hown])]
  refine ⟨_, he, State.wr_rd_same _ _ _, ?_, hewl⟩
  refine (State.wr_rd_ne _ _ _ _ (by simp only [Fld.key, R.EWL_STATUS_STATE, R.EWL_STATUS_LANE_CONFLICT, ne_eq]; omega)).trans ((State.wr_rd_ne _ _ _ _ (by simp only [Fld.key, R.EWL_STATUS_STATE, R.EWL_CFG_EN, ne_eq]; omega)).trans hst)

theorem ewlDisable_disables : ∀ (s : State) (k : Fin 6) (v : Word), s.bit (R.EWL_CFG_EN k) = true → bitOf v 31 = false → ∃ t, exec (.ewlDisable k v) s = .next t ∧
    t.rd (R.EWL_CFG_EN k) = 0 ∧ t.ewlSt k = 0 ∧ (t.elink k).good = false ∧ t.rd (R.EWL_CFG_LANES_M1 k) = s.rd (R.EWL_CFG_LANES_M1 k) := by
  intro s k v hen hv
  have he : exec (.ewlDisable k v) s = .next (((s.toHunt k).wr (R.EWL_CFG_EN k) 0).wr (R.EWL_STATUS_STATE k) 0) := by
    show execEwlDisable k v s = _
    unfold execEwlDisable
    dsimp only
    rw [if_neg (by simp [hv]), if_pos hen]
  refine ⟨_, he, ?_, State.wr_rd_same _ _ _, ?_, ?_⟩
  · exact (State.wr_rd_ne _ _ _ _ (by simp only [Fld.key, R.EWL_CFG_EN, R.EWL_STATUS_STATE, ne_eq]; omega)).trans (State.wr_rd_same _ _ _)
  · rw [State.elink_congr (State.wr_ewl _ _ _) k, State.elink_congr (State.wr_ewl _ _ _) k, State.toHunt_elink]
  · rw [State.wr_rd_ne _ _ _ _ (by simp only [Fld.key, R.EWL_CFG_LANES_M1, R.EWL_STATUS_STATE, ne_eq]; omega), State.wr_rd_ne _ _ _ _ (by simp only [Fld.key, R.EWL_CFG_LANES_M1, R.EWL_CFG_EN, ne_eq]; omega)]
    exact WritesIn.toHunt (.refl _ s) _ (not_linkRegs_cfg (lo := 27) (by decide) (by simp only [Fld.key, R.EWL_CFG_LANES_M1]))

/-! ### Blocks, locks and markers -/

/-- A block leaves the lane's receiver at `y`, and a signal with CDR lock. -/
def laneHeard (s : State) (l : Nat) (y : LaneRx) : State := ((s.setLane l y).wr (R.LANE_STATUS_SIGNAL l) 1).wr (R.LANE_STATUS_CDR_LOCK l) 1

theorem laneHeard_rx (s : State) (l : Nat) (y : LaneRx) : (laneHeard s l y).laneRx l = y := State.setLane_laneRx s l y

theorem laneHeard_signal (s : State) (l : Nat) (y : LaneRx) : (laneHeard s l y).rd (R.LANE_STATUS_SIGNAL l) = 1 :=
  (State.wr_rd_ne _ _ _ _ (by simp only [Fld.key, R.LANE_STATUS_SIGNAL, R.LANE_STATUS_CDR_LOCK, ne_eq]; omega)).trans (State.wr_rd_same _ _ _)

theorem laneHeard_syncErr (s : State) (l : Nat) (y : LaneRx) : ((laneHeard s l y).incSat (R.LANE_ERR_SYNC_ERR l)).rd (R.LANE_ERR_SYNC_ERR l) =
    min (s.rd (R.LANE_ERR_SYNC_ERR l) + 1) (2 ^ 16 - 1) := by
  refine (State.wr_rd_same _ _ _).trans ?_
  rw [laneHeard, State.wr_rd_ne _ _ _ _ (by simp only [Fld.key, R.LANE_ERR_SYNC_ERR, R.LANE_STATUS_CDR_LOCK, ne_eq]; omega), State.wr_rd_ne _ _ _ _ (by simp only [Fld.key, R.LANE_ERR_SYNC_ERR, R.LANE_STATUS_SIGNAL, ne_eq]; omega)]
  exact Nat.mod_eq_of_lt (Nat.lt_of_le_of_lt (Nat.min_le_right _ _) (by decide : 2 ^ 16 - 1 < 2 ^ 16))

/-- What one block leaves in a lane's receiver: its sync header counts, its position and its parity (R436, R441). -/
def blockRx (x : LaneRx) (ok : Bool) (raw : DWord) : LaneRx :=
  { x with
    run := if ok then x.run + 1 else 0, hist := ((!ok) :: x.hist).take 64, since := if (x.since == 16383) then 0 else x.since + 1,
    missed := if (x.since == 16383) then x.missed + 1 else x.missed, bip := ((BitVec.ofNat 8 x.bip) ^^^ (BitVec.ofNat 8 (bip8 raw))).toNat,
    scr := (descramble x.scr raw).2 }

theorem ewlBlockReceive_good : ∀ (s : State) (l : Fin 48) (k : Nat) (raw : DWord) (b : Bool), s.laneLink l = some k → ∃ t, exec (.ewlBlockReceive l 1 raw b) s = .next t ∧
    (t.laneRx l).run = (s.laneRx l).run + 1 ∧ (t.laneRx l).hist = (false :: (s.laneRx l).hist).take 64 ∧ t.rd (R.LANE_STATUS_SIGNAL l) = 1 := by
  intro s l k raw b hk
  have he : exec (.ewlBlockReceive l 1 raw b) s = .next (laneHeard s l (blockRx (s.laneRx l) true raw)) := by
    show execEwlBlockReceive l 1 raw b s = _
    unfold execEwlBlockReceive
    simp only [hk]
    rw [if_neg (by simp), if_neg (by simp)]
    rfl
  exact ⟨_, he, by rw [laneHeard_rx, blockRx]; rfl, by rw [laneHeard_rx, blockRx]; rfl, laneHeard_signal s l _⟩

theorem ewlBlockReceive_bad : ∀ (s : State) (l : Fin 48) (k : Nat) (raw : DWord) (b : Bool), s.laneLink l = some k → ∃ t, exec (.ewlBlockReceive l 0 raw b) s = .next t ∧
    (t.laneRx l).run = 0 ∧ (t.laneRx l).hist = (true :: (s.laneRx l).hist).take 64 ∧
    t.rd (R.LANE_ERR_SYNC_ERR l) = min (s.rd (R.LANE_ERR_SYNC_ERR l) + 1) (2 ^ 16 - 1) := by
  intro s l k raw b hk
  have he : exec (.ewlBlockReceive l 0 raw b) s = .next ((laneHeard s l (blockRx (s.laneRx l) false raw)).incSat (R.LANE_ERR_SYNC_ERR l)) := by
    show execEwlBlockReceive l 0 raw b s = _
    unfold execEwlBlockReceive
    simp only [hk]
    rw [if_pos (by simp)]
    rfl
  have hx : ((laneHeard s l (blockRx (s.laneRx l) false raw)).incSat (R.LANE_ERR_SYNC_ERR l)).laneRx l = blockRx (s.laneRx l) false raw :=
    (State.laneRx_congr (congrArg Ewenual.lanes (State.wr_ewl _ _ _)) l).trans (laneHeard_rx s l _)
  exact ⟨_, he, by rw [hx, blockRx]; rfl, by rw [hx, blockRx]; rfl, laneHeard_syncErr s l _⟩

theorem blockLockGain_locks : ∀ (s : State) (l : Fin 48), 64 ≤ (s.laneRx l).run → s.bit (R.LANE_STATUS_BLOCK_LOCK l) = false → ∃ t, exec (.blockLockGain l) s = .next t ∧
    t.rd (R.LANE_STATUS_BLOCK_LOCK l) = 1 ∧ t.ewl.lanes = s.ewl.lanes := by
  intro s l hr hb
  have hl := l.isLt
  exact ⟨_, if_pos ⟨hr, by simp [hb]⟩, (State.laneEval_rd l.val (by simp only [Fld.key, R.LANE_STATUS_BLOCK_LOCK]; omega)).trans (State.wr_rd_same _ _ _), State.laneEval_lanes _ _⟩

theorem State.laneLink_congr {s t : State} {l : Nat} (hu : t.rd (R.LANE_CFG_USE l) = s.rd (R.LANE_CFG_USE l))
    (ho : t.rd (R.LANE_CFG_OWNER l) = s.rd (R.LANE_CFG_OWNER l)) : t.laneLink l = s.laneLink l := by
  rw [State.laneLink, hu, ho, State.laneLink]

theorem State.linkLanes_congr {s t : State} {k : Nat} (hm : t.rd (R.EWL_CFG_LANES_M1 k) = s.rd (R.EWL_CFG_LANES_M1 k))
    (hf : t.rd (R.EWL_CFG_FIRST_LANE k) = s.rd (R.EWL_CFG_FIRST_LANE k)) : t.linkLanes k = s.linkLanes k := by
  rw [State.linkLanes, hm, hf, State.linkLanes]

theorem blockLockLoss_hunts : ∀ (s : State) (l : Fin 48) (k : Nat), s.bit (R.LANE_STATUS_BLOCK_LOCK l) = true → 16 ≤ ((s.laneRx l).hist.filter id).length →
    s.laneLink l = some k → l.val ∈ s.linkLanes k → s.ewlSt k = 3 → ∃ t, exec (.blockLockLoss l) s = .next t ∧
      t.rd (R.LANE_STATUS_BLOCK_LOCK l) = 0 ∧ t.ewlSt k = 1 ∧ (t.elink k).down = true := by
  intro s l k hb hh hk hm hst
  have hl := l.isLt
  have hk6 := State.laneLink_lt hk
  let u := s.wr (R.LANE_STATUS_BLOCK_LOCK l) 0
  have hlink : u.laneLink l = some k := (State.laneLink_congr (State.wr_rd_ne _ _ _ _ (by simp only [Fld.key, R.LANE_CFG_USE, R.LANE_STATUS_BLOCK_LOCK, ne_eq]; omega))
    (State.wr_rd_ne _ _ _ _ (by simp only [Fld.key, R.LANE_CFG_OWNER, R.LANE_STATUS_BLOCK_LOCK, ne_eq]; omega))).trans hk
  have hlanes : u.linkLanes k = s.linkLanes k := State.linkLanes_congr (State.wr_rd_ne _ _ _ _ (by simp only [Fld.key, R.EWL_CFG_LANES_M1, R.LANE_STATUS_BLOCK_LOCK, ne_eq]; omega))
    (State.wr_rd_ne _ _ _ _ (by simp only [Fld.key, R.EWL_CFG_FIRST_LANE, R.LANE_STATUS_BLOCK_LOCK, ne_eq]; omega))
  have heval : u.laneEval l = u.linkEval k := by
    rw [State.laneEval, hlink]
    exact if_pos (List.contains_iff_mem.mpr (hlanes ▸ hm))
  have hbl : u.bit (R.LANE_STATUS_BLOCK_LOCK l) = false := State.wrB_bit s _ false rfl
  have hlock : u.linkLocked k = false := by
    refine Bool.eq_false_iff.mpr fun h => ?_
    have := List.all_eq_true.mp h l.val (hlanes ▸ hm)
    rw [hbl] at this
    exact Bool.false_ne_true this
  have hust : u.ewlSt k = 3 := (State.wr_rd_ne _ _ _ _ (by simp only [Fld.key, R.EWL_STATUS_STATE, R.LANE_STATUS_BLOCK_LOCK, ne_eq]; omega)).trans hst
  refine ⟨_, if_pos ⟨hb, hh⟩, (State.laneEval_rd l.val (by simp only [Fld.key, R.LANE_STATUS_BLOCK_LOCK]; omega)).trans (State.wr_rd_same _ _ _), ?_⟩
  exact heval ▸ State.linkEval_unlocked hust hlock

/-- What a marker leaves in a lane's receiver (R437, R441). -/
def markerRx (x : LaneRx) (m : DWord) : LaneRx :=
  { x with run := x.run + 1, hist := (false :: x.hist).take 64, since := 0, missed := 0, seen := true, lane := dbits m 8 3, linkId := dbits m 16 8, bip := 0 }

/-- What MARKER_RECEIVE does to the lane: the receiver, BIP8 and marker lock. -/
def laneMarked (s : State) (l : Nat) (m : DWord) : State :=
  ((if (s.laneRx l).seen ∧ (s.laneRx l).since = 16383 ∧ dbits m 32 8 ≠ (s.laneRx l).bip then s.incSat (R.LANE_ERR_BIP_ERR l) else s).setLane l
    (markerRx (s.laneRx l) m)).wrB (R.LANE_STATUS_MARKER_LOCK l)
    (s.bit (R.LANE_STATUS_MARKER_LOCK l) || ((s.laneRx l).seen && (s.laneRx l).since == 16383 && (s.laneRx l).lane == dbits m 8 3))

/-- What it does to the link: SKEW, and on link lane 0 what the marker tells (R438, R449). -/
def linkMarked (s : State) (k : Nat) (m : DWord) (skew : Nat) : State :=
  let w := (s.wr (R.EWL_STATUS_SKEW k) (min 255 (max (s.rd (R.EWL_STATUS_SKEW k)) skew))).setElink k { s.elink k with skew := skew }
  if dbits m 8 3 = 0 then w.leadMarker k m else w

theorem leadMarker_keeps (s : State) (k : Nat) (m : DWord) :
    WritesIn (fun x => 0x4F004000 * 64 ≤ x) s (s.leadMarker k m) ∧ (s.leadMarker k m).ewl.lanes = s.ewl.lanes := by
  have hm (b : Bool) : WritesIn (fun x => 0x4F004000 * 64 ≤ x) s (s.wrB (R.EWL_STATUS_MEMBER_MISMATCH k) b) :=
    (WritesIn.refl _ s).wrB (by simp only [Fld.key, R.EWL_STATUS_MEMBER_MISMATCH]; omega) b
  unfold State.leadMarker
  dsimp only
  refine ⟨WritesIn.setElink ?_ k _, ?_⟩
  · split
    · exact (hm _).wr (by simp only [Fld.key, R.EWL_STATUS_TIME_VALID]; omega) 0
    · exact hm _
  · rw [State.setElink_lanes]
    split <;> rfl

theorem linkMarked_keeps (s : State) (k : Nat) (m : DWord) (skew : Nat) :
    WritesIn (fun x => 0x4F004000 * 64 ≤ x) s (linkMarked s k m skew) ∧ (linkMarked s k m skew).ewl.lanes = s.ewl.lanes := by
  have hw : WritesIn (fun x => 0x4F004000 * 64 ≤ x) s
      ((s.wr (R.EWL_STATUS_SKEW k) (min 255 (max (s.rd (R.EWL_STATUS_SKEW k)) skew))).setElink k { s.elink k with skew := skew }) :=
    ((WritesIn.refl _ s).wr (by simp only [Fld.key, R.EWL_STATUS_SKEW]; omega) _).setElink k _
  unfold linkMarked
  dsimp only
  split
  · exact ⟨hw.trans (leadMarker_keeps _ k m).1, (leadMarker_keeps _ k m).2⟩
  · exact ⟨hw, rfl⟩

theorem markerReceive_locks : ∀ (s : State) (l : Fin 48) (k n : Nat) (m : DWord), s.laneLink l = some k → m.toNat % 256 = 0x4B → s.ewlSt k ≠ 0 →
    s.bit (R.LANE_STATUS_MARKER_LOCK l) = false → (s.laneRx l).seen = true → (s.laneRx l).since = 16383 →
    (s.laneRx l).lane = dbits m 8 3 → ∃ t, exec (.markerReceive l m n) s = .next t ∧ t.rd (R.LANE_STATUS_MARKER_LOCK l) = 1 ∧
      (t.laneRx l).lane = dbits m 8 3 ∧ (t.laneRx l).linkId = dbits m 16 8 ∧ (t.laneRx l).since = 0 := by
  intro s l k n m hk hty hst hml hseen hsince hlane
  have hl := l.isLt
  have he : exec (.markerReceive l m n) s = .next ((linkMarked (laneMarked s l m) k m n).laneEval l) := by
    show execMarkerReceive l m n s = _
    unfold execMarkerReceive
    simp only [hk]
    rw [if_neg (by simp [hty, hst, hml])]
    rfl
  obtain ⟨hw, hlanes⟩ := linkMarked_keeps (laneMarked s l m) k m n
  have hrx : ((linkMarked (laneMarked s l m) k m n).laneEval l).laneRx l = markerRx (s.laneRx l) m := by
    refine (State.laneRx_congr ((State.laneEval_lanes _ _).trans hlanes) l).trans ?_
    exact (State.laneRx_congr (congrArg Ewenual.lanes (State.wrB_ewl _ _ _)) l).trans (State.setLane_laneRx _ _ _)
  refine ⟨_, he, ?_, by rw [hrx, markerRx], by rw [hrx, markerRx], by rw [hrx, markerRx]⟩
  rw [State.laneEval_rd l.val (by simp only [Fld.key, R.LANE_STATUS_MARKER_LOCK]; omega), hw _ (by simp only [Fld.key, R.LANE_STATUS_MARKER_LOCK]; omega), laneMarked, hseen, hsince, hlane]
  refine (State.wr_rd_same _ (R.LANE_STATUS_MARKER_LOCK l) _).trans ?_
  simp [R.LANE_STATUS_MARKER_LOCK]

theorem markerLockLoss_unlocks : ∀ (s : State) (l : Fin 48), s.bit (R.LANE_STATUS_MARKER_LOCK l) = true → 4 ≤ (s.laneRx l).missed → ∃ t, exec (.markerLockLoss l) s = .next t ∧
    t.rd (R.LANE_STATUS_MARKER_LOCK l) = 0 ∧ (t.laneRx l).seen = false := by
  intro s l hb hm
  have hl := l.isLt
  refine ⟨_, if_pos ⟨hb, hm⟩, (State.laneEval_rd l.val (by simp only [Fld.key, R.LANE_STATUS_MARKER_LOCK]; omega)).trans (State.wr_rd_same _ _ _), ?_⟩
  rw [State.laneRx_congr ((State.laneEval_lanes _ _).trans (congrArg Ewenual.lanes (State.wr_ewl _ _ _))) l, State.setLane_laneRx]

/-! ### Links that are down or silent, and what a transmitter sends on its own -/

theorem State.unitAnswer_ewl (s : State) (p : Packet) (op status cause lines : Nat) (data : List PWord) :
    (s.unitAnswer p op status cause lines data).ewl = s.ewl :=
  (keeps_unitAnswer (.refl (partsBut .ewl) s) (by decide) (by decide) (by decide) (by decide) (by decide) p op status cause lines data).same_of_but

theorem foldl_unitAnswer_ewl (l : List EwlFwd) (s : State) : (l.foldl (fun w f => w.unitAnswer f.pkt 6 4 2 0 []) s).ewl = s.ewl := by
  induction l generalizing s with
  | nil => rfl
  | cons f l ih => exact (ih _).trans (State.unitAnswer_ewl s _ _ _ _ _ _)

/-- What a link that is down holds: no flits, no credits, and only requests that are answered (R445, R447). -/
def Ewenual.dropped (e : Ewenual) (k : Nat) : Ewenual :=
  { e with
    links := e.links.set k { e.links.get k with down := false }, tx := e.tx.clear (fun i => i / 4 == k), rx := e.rx.clear (fun i => i / 4 == k),
    credits := e.credits.clear (fun i => i / 4 == k), fwd := e.fwd.map (fun f => if f.link == k then { f with late := true } else f) }

theorem ewlLinkDown_drops : ∀ (s : State) (k : Fin 6), (s.elink k).down = true → ∃ t, exec (.ewlLinkDown k) s = .next t ∧ (t.elink k).down = false ∧
    (∀ vn < 4, t.ewl.tx.get (4 * k.val + vn) = [] ∧ t.ewl.rx.get (4 * k.val + vn) = none ∧ t.ewl.credits.get (4 * k.val + vn) = 0) ∧
    (∀ f ∈ t.ewl.fwd, f.link = k.val → f.late = true) := by
  intro s k hd
  have he : ∃ t, exec (.ewlLinkDown k) s = .next t ∧ t.ewl = Ewenual.dropped s.ewl k := by
    refine ⟨_, if_neg (by simp [hd]), ?_⟩
    exact (foldl_unitAnswer_ewl _ _).trans rfl
  obtain ⟨t, he, ht⟩ := he
  refine ⟨t, he, ?_, fun vn hvn => ?_, fun f hf hfk => ?_⟩
  · rw [State.elink, ht, Ewenual.dropped, Tab.get_set_same]
  · have hq : ((4 * k.val + vn) / 4 == k.val) = true := by simp; omega
    rw [ht, Ewenual.dropped]
    dsimp only
    rw [Tab.get_clear, Tab.get_clear, Tab.get_clear, if_pos hq, if_pos hq, if_pos hq]
    exact ⟨rfl, rfl, rfl⟩
  · rw [ht, Ewenual.dropped] at hf
    obtain ⟨g, -, rfl⟩ := List.mem_map.mp hf
    split at hfk
    · next hg => rw [if_pos hg]
    · next hg => exact absurd (beq_iff_eq.mpr hfk) hg

theorem ewlSilent_silent : ∀ (s : State) (k : Fin 6), s.ewlSt k ≠ 0 → s.ewlSt k ≠ 3 → (s.elink k).from_ + 10000000 * 65536 ≤ s.stp.now →
    ∃ t, exec (.ewlSilent k) s = .next t ∧ t.rd (R.EWL_STATUS_SILENT k) = 1 ∧ sameRegs s t [R.EWL_STATUS_SILENT k] := fun s _ h0 h3 ht =>
  ⟨_, if_pos ⟨h0, h3, ht⟩, State.wr_rd_same _ _ _, (sameRegs.refl s _).wr (List.mem_singleton_self _) _⟩

theorem State.linkLanes_one {s : State} {k : Nat} (h : s.rd (R.EWL_CFG_LANES_M1 k) = 0) : s.linkLanes k = [s.rd (R.EWL_CFG_FIRST_LANE k)] := by
  simp [State.linkLanes, h]

theorem markerSend_sends : ∀ (s : State) (k : Fin 6) (bs : List Byte), s.ewlSt k ≠ 0 → s.rd (R.EWL_CFG_LANES_M1 k) = 0 → s.bit (R.EWL_CFG_TIME_EN k) = false →
    s.rd (R.LANE_CFG_TX_PAT (s.rd (R.EWL_CFG_FIRST_LANE k))) = 0 → ∃ t, exec (.markerSend k bs) s = .next t ∧
      t.sent = s.sent ++ [.ewlBlocks k 0 [(2, s.markerOf k 0 (bs.getD 0 0).toNat)]] ∧ (t.elink k).count = ((s.elink k).count + 1) % 256 := by
  intro s k bs hst hm1 hte hpat
  refine ⟨_, if_neg hst, ?_, ?_⟩
  · show (State.setElink (List.foldl _ s (s.linkLanes k).zipIdx) _ _).sent = _
    rw [State.linkLanes_one hm1, hte]
    simp [hpat, State.send, State.setElink]
  · exact congrArg EwlLink.count (State.setElink_elink _ _ _)

theorem chaffSend_sends : ∀ (s : State) (k : Fin 6), s.ewlSt k ≠ 0 → s.rd (R.EWL_CFG_LANES_M1 k) = 0 →
    s.rd (R.LANE_CFG_TX_PAT (s.rd (R.EWL_CFG_FIRST_LANE k))) = 0 → ∃ t, exec (.chaffSend k) s = .next t ∧
      t.sent = s.sent ++ [.ewlBlocks k 0 [(2, 0x55)]] ∧ t.regs = s.regs := by
  intro s k hst hm1 hpat
  refine ⟨_, if_neg hst, ?_⟩
  rw [State.linkLanes_one hm1]
  simp [hpat, State.send]

theorem chaffInsert_counts : ∀ (s : State) (k : Fin 6), 2 ≤ s.ewlSt k → ∃ t, exec (.chaffInsert k) s = .next t ∧
    t.rd (R.EWL_CHAFF_INSERTED k) = (s.rd (R.EWL_CHAFF_INSERTED k) + 1) % 2 ^ 16 ∧ sameRegs s t [R.EWL_CHAFF_INSERTED k] := fun s _ h =>
  ⟨_, if_pos h, State.wr_rd_same _ _ _, (sameRegs.refl s _).inc (List.mem_singleton_self _)⟩

/-! ### Patterns, margins and recalibration -/

theorem prbsCheckLock_locks : ∀ (s : State) (l : Fin 48), s.rd (R.LANE_CFG_RX_PAT l) ≠ 0 → s.bit (R.LANE_STATUS_PRBS_LOCK l) = false → (s.laneRx l).prun = 63 →
    ∃ t, exec (.prbsCheckLock l [false]) s = .next t ∧ t.rd (R.LANE_STATUS_PRBS_LOCK l) = 1 := by
  intro s l hp hb hr
  refine ⟨_, if_neg hp, ?_⟩
  rw [List.foldl_cons, List.foldl_nil, State.prbsBit]
  simp only [hb, hr, Bool.false_eq_true, if_false, Nat.le_refl, if_true]
  exact State.wr_rd_same _ _ _

theorem prbsCheckLock_off : ∀ (s : State) (l : Fin 48) (bs : List Bool), s.rd (R.LANE_CFG_RX_PAT l) = 0 → exec (.prbsCheckLock l bs) s = .next s := fun _ _ _ h => if_pos h

theorem marginStart_starts : ∀ (s : State) (l : Fin 48) (v : Word), bitOf v 31 = true → ∃ t, exec (.marginStart l v) s = .next t ∧ t.rd (R.LANE_MARGIN_CTRL_START l) = 1 ∧
    t.rd (R.LANE_MARGIN_RESULT_DONE l) = 0 ∧ t.rd (R.LANE_MARGIN_CTRL_EYE l) = bitsOf v 29 2 ∧
    t.rd (R.LANE_MARGIN_CTRL_DWELL_LOG2 l) = bitsOf v 24 5 ∧ t.rd (R.LANE_MARGIN_CTRL_H_OFF l) = bitsOf v 8 6 ∧
    t.rd (R.LANE_MARGIN_CTRL_V_OFF l) = bitsOf v 0 6 := by
  intro s l v hv
  have hw (f : Fld) (hf : f ∈ [R.LANE_MARGIN_CTRL_EYE l, R.LANE_MARGIN_CTRL_DWELL_LOG2 l, R.LANE_MARGIN_CTRL_H_OFF l, R.LANE_MARGIN_CTRL_V_OFF l]) :
      (((s.wrWord v [R.LANE_MARGIN_CTRL_EYE l, R.LANE_MARGIN_CTRL_DWELL_LOG2 l, R.LANE_MARGIN_CTRL_H_OFF l, R.LANE_MARGIN_CTRL_V_OFF l]).wr
        (R.LANE_MARGIN_CTRL_START l) 1).wr (R.LANE_MARGIN_RESULT_DONE l) 0).rd f = f.of v := by
    have hne : f.key ≠ (R.LANE_MARGIN_CTRL_START l).key ∧ f.key ≠ (R.LANE_MARGIN_RESULT_DONE l).key := by
      fin_cases hf <;> simp only [Fld.key, R.LANE_MARGIN_CTRL_EYE, R.LANE_MARGIN_CTRL_DWELL_LOG2, R.LANE_MARGIN_CTRL_H_OFF, R.LANE_MARGIN_CTRL_V_OFF,
        R.LANE_MARGIN_CTRL_START, R.LANE_MARGIN_RESULT_DONE, ne_eq] <;> omega
    rw [State.wr_rd_ne _ _ _ _ hne.2, State.wr_rd_ne _ _ _ _ hne.1]
    refine State.wrWord_rd_mem v f _ s hf ?_
    fin_cases hf <;> simp [Fld.key, R.LANE_MARGIN_CTRL_EYE, R.LANE_MARGIN_CTRL_DWELL_LOG2, R.LANE_MARGIN_CTRL_H_OFF, R.LANE_MARGIN_CTRL_V_OFF]
  refine ⟨_, if_pos hv, ?_, State.wr_rd_same _ _ _, hw (R.LANE_MARGIN_CTRL_EYE l) (by simp), hw (R.LANE_MARGIN_CTRL_DWELL_LOG2 l) (by simp),
    hw (R.LANE_MARGIN_CTRL_H_OFF l) (by simp), hw (R.LANE_MARGIN_CTRL_V_OFF l) (by simp)⟩
  exact (State.wr_rd_ne _ _ _ _ (by simp only [Fld.key, R.LANE_MARGIN_CTRL_START, R.LANE_MARGIN_RESULT_DONE, ne_eq]; omega)).trans (State.wr_rd_same _ _ _)

theorem marginEnd_ends : ∀ (s : State) (l : Fin 48) (n : Nat), s.bit (R.LANE_MARGIN_CTRL_START l) = true → ∃ t, exec (.marginEnd l n) s = .next t ∧
    t.rd (R.LANE_MARGIN_RESULT_MISMATCH l) = min n (2 ^ 31 - 1) ∧ t.rd (R.LANE_MARGIN_RESULT_DONE l) = 1 ∧ t.rd (R.LANE_MARGIN_CTRL_START l) = 0 := by
  intro s l n h
  refine ⟨_, if_pos h, ?_, ?_, State.wr_rd_same _ _ _⟩
  · rw [State.wr_rd_ne _ _ _ _ (by simp only [Fld.key, R.LANE_MARGIN_RESULT_MISMATCH, R.LANE_MARGIN_CTRL_START, ne_eq]; omega),
      State.wr_rd_ne _ _ _ _ (by simp only [Fld.key, R.LANE_MARGIN_RESULT_MISMATCH, R.LANE_MARGIN_RESULT_DONE, ne_eq]; omega), State.wr_rd_same]
    exact Nat.mod_eq_of_lt (Nat.lt_of_le_of_lt (Nat.min_le_right _ _) (by decide : 2 ^ 31 - 1 < 2 ^ 31))
  · exact (State.wr_rd_ne _ _ _ _ (by simp only [Fld.key, R.LANE_MARGIN_RESULT_DONE, R.LANE_MARGIN_CTRL_START, ne_eq]; omega)).trans (State.wr_rd_same _ _ _)

theorem laneRecal_restarts : ∀ (s : State) (l : Fin 48), s.rd (R.LANE_CFG_USE l) ≠ 1 → ∃ t, exec (.laneRecal l) s = .next t ∧ t.rd (R.LANE_RECAL_BUSY l) = 1 ∧
    t.rd (R.LANE_STATUS_CDR_LOCK l) = 0 ∧ t.rd (R.LANE_STATUS_BLOCK_LOCK l) = 0 ∧ t.laneRx l = {} := by
  intro s l hu
  have hl := l.isLt
  obtain ⟨hb, -, -⟩ := unlock_rd s l
  have he : exec (.laneRecal l) s = .next ((((s.unlock l).wr (R.LANE_STATUS_CDR_LOCK l) 0).wr (R.LANE_RECAL_BUSY l) 1).laneEval l) :=
    congrArg Host.Outcome.next (if_neg hu)
  refine ⟨_, he, ?_, ?_, ?_, ?_⟩
  · exact (State.laneEval_rd l.val (by simp only [Fld.key, R.LANE_RECAL_BUSY]; omega)).trans (State.wr_rd_same _ _ _)
  · rw [State.laneEval_rd l.val (by simp only [Fld.key, R.LANE_STATUS_CDR_LOCK]; omega), State.wr_rd_ne _ _ _ _ (by simp only [Fld.key, R.LANE_STATUS_CDR_LOCK, R.LANE_RECAL_BUSY, ne_eq]; omega)]
    exact State.wr_rd_same _ _ _
  · rw [State.laneEval_rd l.val (by simp only [Fld.key, R.LANE_STATUS_BLOCK_LOCK]; omega), State.wr_rd_ne _ _ _ _ (by simp only [Fld.key, R.LANE_STATUS_BLOCK_LOCK, R.LANE_RECAL_BUSY, ne_eq]; omega),
      State.wr_rd_ne _ _ _ _ (by simp only [Fld.key, R.LANE_STATUS_BLOCK_LOCK, R.LANE_STATUS_CDR_LOCK, ne_eq]; omega), hb]
  · refine (State.laneRx_congr ((State.laneEval_lanes _ _).trans ?_) l).trans (State.setLane_laneRx
      (((s.wr (R.LANE_STATUS_BLOCK_LOCK l) 0).wr (R.LANE_STATUS_MARKER_LOCK l) 0).wr (R.LANE_STATUS_PRBS_LOCK l) 0) l {})
    simp only [State.wr_ewl]
    rfl

theorem laneRecalEnd_ends : ∀ (s : State) (l : Fin 48), s.bit (R.LANE_RECAL_BUSY l) = true → ∃ t, exec (.laneRecalEnd l) s = .next t ∧ t.rd (R.LANE_RECAL_BUSY l) = 0 ∧
    t.rd (R.LANE_STATUS_CDR_LOCK l) = 1 ∧ t.ewl = s.ewl := by
  intro s l h
  exact ⟨_, if_pos h, State.wr_rd_same _ _ _,
    (State.wr_rd_ne _ _ _ _ (by simp only [Fld.key, R.LANE_STATUS_CDR_LOCK, R.LANE_RECAL_BUSY, ne_eq]; omega)).trans (State.wr_rd_same _ _ _), rfl⟩

/-- Settles O42: each clause is a lemma above about one command. -/
theorem lanesAndLinkStates : Obligations.LanesAndLinkStates :=
  ⟨quadCfgWrite_writes, quadCfgWrite_inUse, laneCfgWrite_moves, ewlEnable_hunts, ewlEnable_conflict, ewlDisable_disables, ewlBlockReceive_good,
    ewlBlockReceive_bad, blockLockGain_locks, blockLockLoss_hunts, markerReceive_locks, markerLockLoss_unlocks, ewlLinkDown_drops, ewlSilent_silent,
    markerSend_sends, chaffSend_sends, chaffInsert_counts, prbsCheckLock_locks, prbsCheckLock_off, marginStart_starts, marginEnd_ends,
    laneRecal_restarts, laneRecalEnd_ends⟩

end Sys2Proof.Claims

/-! ## O43: flits, credits, members, time transfer and radio streams -/

namespace Sys2Proof.Claims

set_option Elab.async false

open Sys2Proof.Machine

theorem State.ewlSt_of_up {s : State} {k : Nat} (h : s.ewlUp k = true) : s.ewlSt k = 3 := beq_iff_eq.mp h

/-! ### Flits and credits -/

theorem ewlFlitReceive_notUp : ∀ (s : State) (k : Fin 6) (f : EwlFlit), s.ewlUp k = false → exec (.ewlFlitReceive k f) s = .next s := fun s k f h => if_pos (by simp [h])

theorem ewlFlitReceive_badHead : ∀ (s : State) (k : Fin 6) (f : EwlFlit), s.ewlUp k = true → f.ft = 0 → flitCrc f ≠ f.crc → ∃ t, exec (.ewlFlitReceive k f) s = .next t ∧
    t.ewlSt k = 1 ∧ t.rd (R.EWL_COUNTS_CRC_ERR k) = (s.rd (R.EWL_COUNTS_CRC_ERR k) + 1) % 2 ^ 16 ∧ t.ewl.rx = s.ewl.rx := by
  intro s k f hup hft hcrc
  have he : exec (.ewlFlitReceive k f) s = .next ((s.inc (R.EWL_COUNTS_CRC_ERR k)).toHunt k) := by
    show execEwlFlitReceive k f s = _
    unfold execEwlFlitReceive
    dsimp only
    rw [if_neg (by simp [hup]), if_pos (by simp [hft, hcrc])]
  refine ⟨_, he, State.toHunt_ewlSt _ _, ?_, ?_⟩
  · rw [WritesIn.toHunt (.refl _ _) (R.EWL_COUNTS_CRC_ERR k) ?_]
    · exact State.inc_rd_same _ _
    · rintro (e | e | e | e | e | ⟨d, hd, e⟩) <;>
        simp only [Fld.key, R.EWL_STATUS_STATE, R.EWL_STATUS_TIME_VALID, R.EWL_STATUS_AM_LOCKED, R.EWL_STATUS_LANE_MISMATCH, R.EWL_STATUS_SILENT,
          R.EWL_MEMBER_STATUS_REACHABLE, R.EWL_COUNTS_CRC_ERR] at e <;> omega
  · unfold State.toHunt
    exact (congrArg Ewenual.rx (State.showReach_ewl _)).trans rfl

theorem ewlFlitReceive_head : ∀ (s : State) (k : Fin 6) (f : EwlFlit), s.ewlUp k = true → f.ft = 0 → f.vn < 4 → flitCrc f = f.crc → ∃ t, exec (.ewlFlitReceive k f) s = .next t ∧
    t.ewl.rx.get (4 * k.val + f.vn) = some ⟨headOf f.data, []⟩ ∧ t.regs = s.regs := by
  intro s k f hup hft hvn hcrc
  have he : exec (.ewlFlitReceive k f) s =
      .next { s with ewl := { s.ewl with rx := s.ewl.rx.set (4 * k.val + f.vn) (some ⟨headOf f.data, []⟩) } } := by
    show execEwlFlitReceive k f s = _
    unfold execEwlFlitReceive
    simp [hup, hft, hcrc, Nat.mod_eq_of_lt hvn]
  exact ⟨_, he, Tab.get_set_same _ _ _, rfl⟩

/-- Credits come in for virtual network `vn`. -/
def addCredits (k : Nat) (m : DWord) (t : State) (vn : Nat) : State :=
  { t with ewl := { t.ewl with credits := t.ewl.credits.modify (4 * k + vn) (fun c => c + dbits m (8 + 8 * vn) 8) } }

/-- Where nothing waits to be sent, credits are only counted. -/
theorem pump_addCredits {k vn : Nat} {m : DWord} {t : State} (htx : ∀ j < 4, t.ewl.tx.get (4 * k + j) = []) (hvn : vn < 4) :
    let u := State.pumpTx (addCredits k m t vn) k vn
    (∀ j < 4, u.ewl.tx.get (4 * k + j) = []) ∧ u.sent = t.sent ∧
      u.ewl.credits.get (4 * k + vn) = t.ewl.credits.get (4 * k + vn) + dbits m (8 + 8 * vn) 8 ∧
      ∀ j, j ≠ vn → u.ewl.credits.get (4 * k + j) = t.ewl.credits.get (4 * k + j) := by
  have hq : (addCredits k m t vn).ewl.tx.get (4 * k + vn) = [] := htx vn hvn
  intro u
  have hu : u = { addCredits k m t vn with ewl := { (addCredits k m t vn).ewl with
      tx := t.ewl.tx.set (4 * k + vn) [],
      credits := (addCredits k m t vn).ewl.credits.set (4 * k + vn) ((addCredits k m t vn).ewl.credits.get (4 * k + vn)) } } := by
    show State.pumpTx (addCredits k m t vn) k vn = _
    unfold State.pumpTx
    simp only [hq, List.length_nil, Nat.min_zero, List.drop_nil, List.take_nil, List.foldl_nil, Nat.sub_zero]
    rfl
  refine ⟨fun j hj => ?_, by rw [hu]; rfl, ?_, fun j hj => ?_⟩
  · rw [hu]
    by_cases h : 4 * k + j = 4 * k + vn
    · exact (Tab.get_set _ _ _ _).trans (if_pos h)
    · exact (Tab.get_set _ _ _ _).trans ((if_neg h).trans (htx j hj))
  · rw [hu]
    exact (Tab.get_set_same _ _ _).trans (Tab.get_modify_same _ _ _)
  · rw [hu]
    refine (Tab.get_set_ne _ _ _ _ ?_).trans (Tab.get_modify_ne _ _ _ _ ?_) <;> omega

theorem ewlCreditReceive_counts : ∀ (s : State) (k : Fin 6) (m : DWord), s.ewlUp k = true → (∀ vn < 4, s.ewl.tx.get (4 * k.val + vn) = []) →
    ∃ t, exec (.ewlCreditReceive k m) s = .next t ∧
      (∀ vn < 4, t.ewl.credits.get (4 * k.val + vn) = s.ewl.credits.get (4 * k.val + vn) + dbits m (8 + 8 * vn) 8) ∧ t.sent = s.sent := by
  intro s k m hup htx
  refine ⟨_, if_neg (by simp [hup]), ?_⟩
  show (∀ vn < 4, (List.foldl (fun t vn => State.pumpTx (addCredits k m t vn) k vn) s (List.range 4)).ewl.credits.get (4 * k.val + vn) = _) ∧
    (List.foldl (fun t vn => State.pumpTx (addCredits k m t vn) k vn) s (List.range 4)).sent = s.sent
  suffices h : ∀ n ≤ 4, (∀ j < 4, (List.foldl (fun t vn => State.pumpTx (addCredits k m t vn) k vn) s (List.range n)).ewl.tx.get (4 * k.val + j) = []) ∧
      (List.foldl (fun t vn => State.pumpTx (addCredits k m t vn) k vn) s (List.range n)).sent = s.sent ∧
      ∀ j, (List.foldl (fun t vn => State.pumpTx (addCredits k m t vn) k vn) s (List.range n)).ewl.credits.get (4 * k.val + j) =
        s.ewl.credits.get (4 * k.val + j) + (if j < n then dbits m (8 + 8 * j) 8 else 0) by
    obtain ⟨-, hsent, hcr⟩ := h 4 (Nat.le_refl 4)
    exact ⟨fun vn hvn => by rw [hcr, if_pos hvn], hsent⟩
  intro n
  induction n with
  | zero => exact fun _ => ⟨htx, rfl, fun j => by simp⟩
  | succ n ih =>
    intro hn
    obtain ⟨h1, h2, h3⟩ := ih (by omega)
    rw [List.range_succ, List.foldl_append, List.foldl_cons, List.foldl_nil]
    obtain ⟨g1, g2, g3, g4⟩ := pump_addCredits (m := m) h1 hn
    refine ⟨g1, g2.trans h2, fun j => ?_⟩
    by_cases hj : j = n
    · rw [hj, g3, h3, if_neg (Nat.lt_irrefl n), if_pos (Nat.lt_succ_self n), Nat.add_zero]
    · rw [g4 j hj, h3]
      congr 1
      simp only [show j < n + 1 ↔ j < n by omega]

/-! ### Members -/

/-- An answer of a unit writes no register of the links. -/
theorem State.unitAnswer_writes (s : State) {p : Packet} (hp : p.dest < 256) (op status cause lines : Nat) (data : List PWord) :
    WritesIn (fun x => x < 0x47012000 * 64) s (s.unitAnswer p op status cause lines data) := by
  have hL (x : Nat) (h : ledgerRegs x) : x < 0x47012000 * 64 := by
    simp only [ledgerRegs, addrIn, Fld.key, R.TALLY_STATUS_FAULT, R.TALLY_FAULT_LAST_ID, R.TALLY_FAULT_COUNT_COUNT] at h
    omega
  have hE (e : Nat) (he : e < 4) : (R.COMMONS_EPOCH_LIVE e).key < 0x47012000 * 64 := (by simp only [Fld.key, R.COMMONS_EPOCH_LIVE]; omega)
  unfold State.unitAnswer
  dsimp only
  refine WritesIn.ite (WritesIn.add ((WritesIn.refl _ s).setNet _) (by simp only [Fld.key, R.COMMONS_RTR_STALE]; omega) 1) ?_
  exact WritesIn.enterPacket hL ((WritesIn.refl _ s).setNet _) hE _ _

theorem ewlRequestTimeout_times : ∀ (s : State) (i : Nat) (f : EwlFwd), s.ewl.fwd[i]? = some f → f.late = false → f.tick + ewlLimit ≤ s.stp.now → f.member < 8 →
    f.pkt.dest < 256 → s.ewl.lastAns.get f.member = none → ∃ t, exec (.ewlRequestTimeout i) s = .next t ∧
      t.ewl.fwd = s.ewl.fwd.set i { f with late := true } ∧ t.rd (R.EWL_MEMBER_STATUS_REMOTE_DEAD f.member) = 1 ∧
      t.rd (R.EWL_MEMBER_STATUS_TIMEOUTS f.member) = (s.rd (R.EWL_MEMBER_STATUS_TIMEOUTS f.member) + 1) % 2 ^ 12 := by
  intro s i f hf hlate ht hm hd hans
  let u : State := ({ s with ewl := { s.ewl with fwd := s.ewl.fwd.set i { f with late := true } } } : State).inc (R.EWL_MEMBER_STATUS_TIMEOUTS f.member)
  have he : exec (.ewlRequestTimeout i) s = .next ((u.unitAnswer f.pkt 6 4 2 0 []).wr (R.EWL_MEMBER_STATUS_REMOTE_DEAD f.member) 1) := by
    show execEwlRequestTimeout i s = _
    unfold execEwlRequestTimeout
    simp only [hf]
    rw [if_neg (by simp only [hlate, Bool.false_eq_true, false_or]; omega)]
    simp only [hans, Bool.false_eq_true, if_false]
    rfl
  have hw := State.unitAnswer_writes u hd 6 4 2 0 []
  refine ⟨_, he, ?_, State.wr_rd_same _ _ _, ?_⟩
  · rw [State.wr_ewl, State.unitAnswer_ewl]
    rfl
  · rw [State.wr_rd_ne _ _ _ _ (by simp only [Fld.key, R.EWL_MEMBER_STATUS_TIMEOUTS, R.EWL_MEMBER_STATUS_REMOTE_DEAD, ne_eq]; omega), hw _ (by simp only [Fld.key, R.EWL_MEMBER_STATUS_TIMEOUTS]; omega)]
    exact State.inc_rd_same _ _

theorem ewlRequestTimeout_early : ∀ (s : State) (i : Nat) (f : EwlFwd), s.ewl.fwd[i]? = some f → s.stp.now < f.tick + ewlLimit → exec (.ewlRequestTimeout i) s = .next s := by
  intro s i f hf ht
  show execEwlRequestTimeout i s = _
  unfold execEwlRequestTimeout
  simp only [hf]
  exact if_pos (.inr ht)

theorem ewlMemberRevive_revives : ∀ (s : State) (d : Fin 8), ∃ t, exec (.ewlMemberRevive d) s = .next t ∧ t.rd (R.EWL_MEMBER_STATUS_REMOTE_DEAD d) = 0 ∧
    sameRegs s t [R.EWL_MEMBER_STATUS_REMOTE_DEAD d] := fun s _ =>
  ⟨_, rfl, State.wr_rd_same _ _ _, (sameRegs.refl s _).wr (List.mem_singleton_self _) _⟩

/-! ### Time transfer -/

theorem ewlTimeReceive_first : ∀ (s : State) (k : Fin 6) (m : DWord), m.toNat % 256 = 0x87 → s.ewlSt k ≠ 0 → s.bit (R.EWL_CFG_TIME_EN k) = true → dbits m 8 1 = 0 →
    (s.elink k).t2 = none → ∃ t, exec (.ewlTimeReceive k m) s = .next t ∧ (t.elink k).t3 = some (dbits m 9 8, dbits m 17 40) ∧ t.regs = s.regs := by
  intro s k m hty hst hte h0 h2
  have he : exec (.ewlTimeReceive k m) s = .next (s.setElink k { s.elink k with t3 := some (dbits m 9 8, dbits m 17 40) }) := by
    show execEwlTimeReceive k m s = _
    unfold execEwlTimeReceive
    dsimp only
    rw [if_neg (by simp [hty, hst, hte]), if_pos h0]
    simp only [h2]
  exact ⟨_, he, congrArg EwlLink.t3 (State.setElink_elink s k _), rfl⟩

theorem ewlTimeReceive_measures : ∀ (s : State) (k : Fin 6) (m : DWord) (a b r n : Nat × Nat), m.toNat % 256 = 0x87 → s.ewlUp k = true → s.bit (R.EWL_CFG_TIME_EN k) = true →
    dbits m 8 1 = 1 → (s.elink k).t3 = some a → b = (dbits m 9 8, dbits m 17 40) → (s.elink k).rcv = some r → a.1 = r.1 →
    (s.elink k).sent.find? (fun x => x.1 == b.1) = some n → ∃ t, exec (.ewlTimeReceive k m) s = .next t ∧ t.rd (R.EWL_STATUS_TIME_VALID k) = 1 ∧
      t.rd (R.EWL_TIME_OFFSET k) = trunc 32 (ewlQuot ((sext 40 (r.2 + 2 ^ 40 - a.2) - sext 40 (b.2 + 2 ^ 40 - n.2)) * 1000
        - sext 32 (s.rd (R.EWL_TIME_ASYM k)) * 64) 2000) ∧
      t.rd (R.EWL_TIME_DELAY k) = trunc 32 (ewlQuot (sext 40 (b.2 + 2 ^ 40 - n.2) + sext 40 (r.2 + 2 ^ 40 - a.2)) 2) := by
  intro s k m a b r n hty hup hte h1 h3 hb hr har hfind
  have hst := State.ewlSt_of_up hup
  let u := s.setElink k { s.elink k with rcv := some r, t3 := some a, t2 := some b }
  have he : exec (.ewlTimeReceive k m) s = .next (((u.wr (R.EWL_TIME_OFFSET k) (trunc 32 (ewlQuot ((sext 40 (r.2 + 2 ^ 40 - a.2) -
      sext 40 (b.2 + 2 ^ 40 - n.2)) * 1000 - sext 32 (s.rd (R.EWL_TIME_ASYM k)) * 64) 2000))).wr (R.EWL_TIME_DELAY k)
      (trunc 32 (ewlQuot (sext 40 (b.2 + 2 ^ 40 - n.2) + sext 40 (r.2 + 2 ^ 40 - a.2)) 2))).wr (R.EWL_STATUS_TIME_VALID k) 1) := by
    show execEwlTimeReceive k m s = _
    unfold execEwlTimeReceive
    dsimp only
    rw [if_neg (by simp [hty, hst, hte]), if_neg (by omega), ← hb]
    simp only [h3, hr, hfind, har, hup, and_self, if_true]
    rfl
  refine ⟨_, he, State.wr_rd_same _ _ _, ?_, ?_⟩
  · rw [State.wr_rd_ne _ _ _ _ (by simp only [Fld.key, R.EWL_TIME_OFFSET, R.EWL_STATUS_TIME_VALID, ne_eq]; omega), State.wr_rd_ne _ _ _ _ (by simp only [Fld.key, R.EWL_TIME_OFFSET, R.EWL_TIME_DELAY, ne_eq]; omega), State.wr_rd_same]
    exact Nat.mod_eq_of_lt (trunc_lt 32 _)
  · rw [State.wr_rd_ne _ _ _ _ (by simp only [Fld.key, R.EWL_TIME_DELAY, R.EWL_STATUS_TIME_VALID, ne_eq]; omega), State.wr_rd_same]
    exact Nat.mod_eq_of_lt (trunc_lt 32 _)

/-! ### Radio streams -/

theorem ewlStreamReceive_hands : ∀ (s : State) (k : Fin 6) (m : DWord) (x : List Sample), s.ewlUp k = true → s.rd (R.EWL_CFG_MODE k) = 1 →
    s.bit (R.EWL_STREAM_CFG_EN (dbits m 8 6)) = true → s.bit (R.EWL_STREAM_CFG_DIR (dbits m 8 6)) = false →
    s.rd (R.EWL_STREAM_CFG_LINK (dbits m 8 6)) = k → ∃ t, exec (.ewlStreamReceive k m x) s = .next t ∧
      t.ewl.bursts = s.ewl.bursts ++ [⟨dbits m 8 6, dbits m 14 10, dbits m 24 23, x.take (2 * (dbits m 47 9 + 1))⟩] ∧ t.regs = s.regs := by
  intro s k m x hup hmode hen hdir hlink
  have he : exec (.ewlStreamReceive k m x) s = .next { s with ewl := { s.ewl with
      bursts := s.ewl.bursts ++ [⟨dbits m 8 6, dbits m 14 10, dbits m 24 23, x.take (2 * (dbits m 47 9 + 1))⟩] } } := by
    show execEwlStreamReceive k m x s = _
    unfold execEwlStreamReceive
    dsimp only
    rw [if_neg (by simp [hup, hmode]), if_neg (by simp [hen, hdir, hlink])]
  exact ⟨_, he, rfl, rfl⟩

theorem ewlStreamReceive_drops : ∀ (s : State) (k : Fin 6) (m : DWord) (x : List Sample), s.ewlUp k = true → s.rd (R.EWL_CFG_MODE k) = 1 →
    s.bit (R.EWL_STREAM_CFG_EN (dbits m 8 6)) = false → exec (.ewlStreamReceive k m x) s = .next (s.inc (R.EWL_DROPS_STREAM_DROPS k)) := by
  intro s k m x hup hmode hen
  show execEwlStreamReceive k m x s = _
  unfold execEwlStreamReceive
  dsimp only
  rw [if_neg (by simp [hup, hmode]), if_pos (by simp [hen])]

theorem ewlStreamSend_sends : ∀ (s : State) (st : Fin 64) (o : SvOut), s.sv.out.find? (fun o => o.kind == 1 && o.port == st.val) = some o →
    s.bit (R.EWL_STREAM_CFG_EN st) = true → s.bit (R.EWL_STREAM_CFG_DIR st) = true → s.ewlUp (s.rd (R.EWL_STREAM_CFG_LINK st)) = true →
    s.rd (R.EWL_CFG_MODE (s.rd (R.EWL_STREAM_CFG_LINK st))) = 1 → ∃ t, exec (.ewlStreamSend st) s = .next t ∧ t.sv.out = s.sv.out.erase o ∧
      t.sent = s.sent ++ [.ewlBlocks (s.rd (R.EWL_STREAM_CFG_LINK st)) 0 ((2, BitVec.ofNat 64 (0x78 + st.val * 2 ^ 8 + o.sfn * 2 ^ 14 +
        o.index * 2 ^ 24 + ((streamBlocks o.data).length - 1) * 2 ^ 47)) :: streamBlocks o.data)] := by
  intro s st o ho hen hdir hup hmode
  refine ⟨State.send { s with sv := { s.sv with out := s.sv.out.erase o } } _, ?_, rfl, rfl⟩
  show execEwlStreamSend st s = _
  unfold execEwlStreamSend
  simp only [ho]
  rw [if_neg (by simp [hen, hdir, hup, hmode])]

/-- Settles O43: each clause is a lemma above about one command. -/
theorem ewenualTransport : Obligations.EwenualTransport :=
  ⟨ewlFlitReceive_notUp, ewlFlitReceive_badHead, ewlFlitReceive_head, ewlCreditReceive_counts, ewlRequestTimeout_times, ewlRequestTimeout_early,
    ewlMemberRevive_revives, ewlTimeReceive_first, ewlTimeReceive_measures, ewlStreamReceive_hands, ewlStreamReceive_drops, ewlStreamSend_sends⟩

end Sys2Proof.Claims

/-! ## The Market: its ports, its cells, and what their operations write and leave (chapter 17) -/

namespace Sys2Proof.Machine

set_option Elab.async false

open Sys2Proof.Claims

theorem bitOf_eq (v : Word) (i : Nat) : bitOf v i = decide (bitsOf v i 1 ≠ 0) := by
  have hlt : v.toNat / 2 ^ i % 2 < 2 := Nat.mod_lt _ (by decide)
  rw [bitOf, BitVec.getLsbD, Nat.testBit_eq_decide_div_mod_eq, bitsOf]
  exact decide_eq_decide.mpr (by omega)

section
variable (s : State)

@[simp] theorem State.setMkt_mkt (m : Market) : (s.setMkt m).mkt = m := rfl
@[simp] theorem State.setMkt_rd (m : Market) (f : Fld) : (s.setMkt m).rd f = s.rd f := rfl
@[simp] theorem State.setMkt_bit (m : Market) (f : Fld) : (s.setMkt m).bit f = s.bit f := rfl

theorem State.ledgerCount_mkt (id a b : Nat) : (s.ledgerCount id a b).mkt = s.mkt :=
  (keeps_ledgerCount (.refl (partsBut .mkt) s) (by decide) (by decide) (by decide) (by decide) id a b).same_of_but

theorem WritesIn.setMkt {P : Nat → Prop} {s t : State} (h : WritesIn P s t) (m : Market) : WritesIn P s (t.setMkt m) := h.of_regs rfl

/-! ### Ports -/

/-- The places that a port's entry into a state writes: its state, and SQUELCHED of the SyncE outputs. -/
def portRegs (p x : Nat) : Prop := x = (R.MARKET_PORT_STATUS_STATE p).key ∨ addrIn 0x50038000 0x50038008 x

theorem WritesIn.portTo {s t : State} {p : Nat} (h : WritesIn (portRegs p) s t) (st : Nat) : WritesIn (portRegs p) s (t.portTo p st) :=
  ((h.wr (.inl rfl) st).wrB (.inr (by simp only [addrIn, Fld.key, R.MARKET_SYNCE_OUT_SQUELCHED]; omega)) _).wrB
    (.inr (by simp only [addrIn, Fld.key, R.MARKET_SYNCE_OUT_SQUELCHED]; omega)) _

theorem State.portTo_rd {s : State} {p st : Nat} {f : Fld} (hf : f.key ≠ (R.MARKET_PORT_STATUS_STATE p).key) (hs : f.key < 0x50038000 * 64) :
    (s.portTo p st).rd f = s.rd f := by
  refine WritesIn.portTo (.refl _ s) st f ?_
  rintro (h | h)
  · exact hf h
  · exact absurd h.1 (by omega)

theorem State.showSynce_writes (k : Nat) : sameRegs s (s.showSynce k) [R.MARKET_SYNCE_OUT_SQUELCHED k] :=
  (sameRegs.refl s _).wrB (List.mem_singleton_self _) _

theorem State.portTo_mktPort {p st : Nat} (hst : st < 4) : (s.portTo p st).mktPort p = st := by
  have h (k : Nat) : (R.MARKET_PORT_STATUS_STATE p).key ≠ (R.MARKET_SYNCE_OUT_SQUELCHED k).key :=
    (by simp only [Fld.key, R.MARKET_PORT_STATUS_STATE, R.MARKET_SYNCE_OUT_SQUELCHED, ne_eq]; omega)
  rw [State.mktPort, State.portTo, State.showSynce_writes _ 1 _ (by simpa using h 1), State.showSynce_writes _ 0 _ (by simpa using h 0)]
  exact (State.wr_rd_same _ _ _).trans (Nat.mod_eq_of_lt hst)

theorem State.portBegin_mktPort (p : Nat) : (s.portBegin p).mktPort p = if s.bit (R.MARKET_PORT_CFG_TRAIN p) then 1 else 2 := by
  rw [State.portBegin, State.portTo_mktPort _ (by split <;> decide)]

theorem State.ack_mktPort (p : Nat) : s.ack.mktPort p = s.mktPort p := State.ack_rd s _

theorem State.portTo_mkt (p st : Nat) : (s.portTo p st).mkt = s.mkt := by
  rw [State.portTo, State.showSynce, State.wrB_mkt, State.showSynce, State.wrB_mkt, State.wr_mkt]

/-! ### Cells -/

/-- The places that taking and freeing cells writes: CELLS, and a ledger's fault. -/
def cellRegs (x : Nat) : Prop := ledgerRegs x ∨ x = R.MARKET_BUF_STATUS_CELLS.key

/-- Every other register of the Market lies apart from them. -/
theorem not_cellRegs {x : Nat} (h : 0x50000018 * 64 ≤ x) : ¬ cellRegs x := by
  simp only [cellRegs, ledgerRegs, addrIn, Fld.key, R.TALLY_STATUS_FAULT, R.TALLY_FAULT_LAST_ID, R.TALLY_FAULT_COUNT_COUNT, R.MARKET_BUF_STATUS_CELLS]
  omega

theorem not_ledgerRegs_of_ge {x : Nat} (h : 0x47012000 * 64 ≤ x) : ¬ ledgerRegs x := by
  simp only [ledgerRegs, addrIn, Fld.key, R.TALLY_STATUS_FAULT, R.TALLY_FAULT_LAST_ID, R.TALLY_FAULT_COUNT_COUNT]
  omega

theorem WritesIn.cellsTake {s t : State} (h : WritesIn cellRegs s t) (tc : Option Nat) (n c : Nat) : WritesIn cellRegs s (t.cellsTake tc n c).2 :=
  WritesIn.ledgerCount (fun _ hx => .inl hx) (WritesIn.add (h.of_regs (u := { t with mkt := { t.mkt with
    bufs := t.mkt.bufs.set t.mkt.nextBuf ⟨n, c, tc⟩, nextBuf := t.mkt.nextBuf + 1 } }) rfl) (.inr rfl) n) _ _ _

theorem WritesIn.cellsFree {s t : State} (h : WritesIn cellRegs s t) (i : Nat) : WritesIn cellRegs s (t.cellsFree i) := by
  unfold State.cellsFree
  dsimp only
  exact .ite (WritesIn.ledgerCount (fun _ hx => .inl hx) ((h.setMkt _).wr (.inr rfl) _) _ _ _) (h.setMkt _)

theorem State.cellsTake_mkt (tc : Option Nat) (n c : Nat) :
    (s.cellsTake tc n c).2.mkt = { s.mkt with bufs := s.mkt.bufs.set s.mkt.nextBuf ⟨n, c, tc⟩, nextBuf := s.mkt.nextBuf + 1 } :=
  (State.ledgerCount_mkt _ _ _ _).trans (State.add_mkt _ _ _)

/-- Freeing cells changes the Market's buffers only. -/
theorem State.cellsFree_mkt (i : Nat) : ∃ b, (s.cellsFree i).mkt = { s.mkt with bufs := b } := by
  unfold State.cellsFree
  dsimp only
  split
  · exact ⟨_, (State.ledgerCount_mkt _ _ _ _).trans (State.wr_mkt _ _ _)⟩
  · exact ⟨_, rfl⟩

theorem State.cellsTake_rd {s : State} {tc : Option Nat} {n c : Nat} {f : Fld} (h : ¬ cellRegs f.key) : (s.cellsTake tc n c).2.rd f = s.rd f :=
  WritesIn.cellsTake (.refl _ s) tc n c f h

theorem State.cellsFree_rd {s : State} {i : Nat} {f : Fld} (h : ¬ cellRegs f.key) : (s.cellsFree i).rd f = s.rd f :=
  WritesIn.cellsFree (.refl _ s) i f h

end

end Sys2Proof.Machine

/-! ## O44: the Market's ports and reception -/

namespace Sys2Proof.Claims

set_option Elab.async false

open Sys2Proof.Machine

/-! ### Ports -/

/-- What MARKET_PORT_CFG_WRITE leaves in the fields of a port that is not enabled. -/
theorem portCfg_rd (s : State) (p : Nat) (v : Word) (hen : s.bit (R.MARKET_PORT_CFG_EN p) = false) :
    (s.portCfg p v).rd (R.MARKET_PORT_CFG_TRAIN p) = bitsOf v 30 1 ∧
      (s.portCfg p v).rd (R.MARKET_PORT_CFG_MAX_FRAME p) = min 9600 (max 1518 (bitsOf v 0 14)) ∧
      (s.portCfg p v).rd (R.MARKET_PORT_STATUS_STATE p) = s.rd (R.MARKET_PORT_STATUS_STATE p) := by
  rw [State.portCfg, hen, if_neg Bool.false_ne_true]
  refine ⟨?_, ?_, ?_⟩
  · rw [State.wr_rd_ne _ _ _ _ (by simp only [Fld.key, R.MARKET_PORT_CFG_TRAIN, R.MARKET_PORT_CFG_MAX_FRAME, ne_eq]; omega)]
    refine State.wrWord_rd_mem v (R.MARKET_PORT_CFG_TRAIN p) _ s (List.mem_cons_self ..) ?_
    simp [Fld.key, R.MARKET_PORT_CFG_TRAIN, R.MARKET_PORT_CFG_MODE, R.MARKET_PORT_CFG_FEC, R.MARKET_PORT_CFG_FIRST_LANE]
  · refine (State.wr_rd_same _ _ _).trans (Nat.mod_eq_of_lt ?_)
    exact Nat.lt_of_le_of_lt (Nat.min_le_left _ _) (by decide : 9600 < 2 ^ 14)
  · rw [State.wr_rd_ne _ _ _ _ (by simp only [Fld.key, R.MARKET_PORT_STATUS_STATE, R.MARKET_PORT_CFG_MAX_FRAME, ne_eq]; omega)]
    exact (sameRegs.refl s _).wrWord v (fun _ h => h) _ (by simp only [List.mem_cons, List.not_mem_nil, or_false, forall_eq_or_imp, forall_eq, Fld.key, R.MARKET_PORT_STATUS_STATE, R.MARKET_PORT_CFG_TRAIN, R.MARKET_PORT_CFG_MODE, R.MARKET_PORT_CFG_FEC, R.MARKET_PORT_CFG_FIRST_LANE, ne_eq]; omega)

/-- A port that MARKET_PORT_ENABLE writes to, before it starts. -/
def portWritten (s : State) (p : Nat) (v : Word) : State := (s.portCfg p v).wrB (R.MARKET_PORT_CFG_EN p) (bitOf v 31)

theorem marketPortEnable_starts : ∀ (s : State) (p : Fin 32) (v : Word), bitOf v 31 = true → s.bit (R.MARKET_PORT_CFG_EN p) = false →
    ((s.portCfg p v).wrB (R.MARKET_PORT_CFG_EN p) true).portCfgOk p = true → ∃ t, exec (.marketPortEnable p v) s = .next t ∧
      t.rd (R.MARKET_PORT_CFG_EN p) = 1 ∧ t.mktPort p = (if bitOf v 30 then 1 else 2) ∧ t.rd (R.MARKET_PORT_STATUS_CFG_ERR p) = 0 ∧
      t.rd (R.MARKET_PORT_CFG_MAX_FRAME p) = min 9600 (max 1518 (bitsOf v 0 14)) ∧ t.ans = acked := by
  intro s p v h31 hen hok
  have hp := p.isLt
  obtain ⟨htr, hmax, -⟩ := portCfg_rd s p v hen
  have he : exec (.marketPortEnable p v) s = .next (((portWritten s p v).wr (R.MARKET_PORT_STATUS_CFG_ERR p) 0).portBegin p).ack := by
    show execMarketPortEnable p v s = _
    unfold execMarketPortEnable portWritten
    dsimp only
    rw [if_neg (by simp [h31]), if_neg (by simp [hen]), if_pos (h31 ▸ hok)]
  have hkeep {f : Fld} (h1 : f.key ≠ (R.MARKET_PORT_STATUS_STATE p).key) (h2 : f.key < 0x50038000 * 64) :
      (((portWritten s p v).wr (R.MARKET_PORT_STATUS_CFG_ERR p) 0).portBegin p).rd f =
        ((portWritten s p v).wr (R.MARKET_PORT_STATUS_CFG_ERR p) 0).rd f := State.portTo_rd h1 h2
  have htb : ((portWritten s p v).wr (R.MARKET_PORT_STATUS_CFG_ERR p) 0).bit (R.MARKET_PORT_CFG_TRAIN p) = bitOf v 30 := by
    rw [State.wr_bit_ne _ _ _ _ (by simp only [Fld.key, R.MARKET_PORT_CFG_TRAIN, R.MARKET_PORT_STATUS_CFG_ERR, ne_eq]; omega), portWritten,
      State.wrB_bit_ne _ _ (by simp only [Fld.key, R.MARKET_PORT_CFG_TRAIN, R.MARKET_PORT_CFG_EN, ne_eq]; omega), bitOf_eq, ← htr]
    rfl
  refine ⟨_, he, ?_, ?_, ?_, ?_, rfl⟩
  · rw [State.ack_rd, hkeep (by simp only [Fld.key, R.MARKET_PORT_CFG_EN, R.MARKET_PORT_STATUS_STATE, ne_eq]; omega) (by simp only [Fld.key, R.MARKET_PORT_CFG_EN]; omega),
      State.wr_rd_ne _ _ _ _ (by simp only [Fld.key, R.MARKET_PORT_CFG_EN, R.MARKET_PORT_STATUS_CFG_ERR, ne_eq]; omega), portWritten, h31]
    exact State.wr_rd_same _ _ _
  · rw [State.ack_mktPort, State.portBegin_mktPort, htb]
  · rw [State.ack_rd, hkeep (by simp only [Fld.key, R.MARKET_PORT_STATUS_CFG_ERR, R.MARKET_PORT_STATUS_STATE, ne_eq]; omega) (by simp only [Fld.key, R.MARKET_PORT_STATUS_CFG_ERR]; omega)]
    exact State.wr_rd_same _ _ _
  · rw [State.ack_rd, hkeep (by simp only [Fld.key, R.MARKET_PORT_CFG_MAX_FRAME, R.MARKET_PORT_STATUS_STATE, ne_eq]; omega) (by simp only [Fld.key, R.MARKET_PORT_CFG_MAX_FRAME]; omega),
      State.wr_rd_ne _ _ _ _ (by simp only [Fld.key, R.MARKET_PORT_CFG_MAX_FRAME, R.MARKET_PORT_STATUS_CFG_ERR, ne_eq]; omega), portWritten,
      State.wrB_rd_ne _ _ _ _ (by simp only [Fld.key, R.MARKET_PORT_CFG_MAX_FRAME, R.MARKET_PORT_CFG_EN, ne_eq]; omega), hmax]

theorem marketPortEnable_refused : ∀ (s : State) (p : Fin 32) (v : Word), bitOf v 31 = true → s.bit (R.MARKET_PORT_CFG_EN p) = false →
    ((s.portCfg p v).wrB (R.MARKET_PORT_CFG_EN p) true).portCfgOk p = false → ∃ t, exec (.marketPortEnable p v) s = .next t ∧
      t.rd (R.MARKET_PORT_STATUS_CFG_ERR p) = 1 ∧ t.mktPort p = s.mktPort p := by
  intro s p v h31 hen hok
  obtain ⟨-, -, hst⟩ := portCfg_rd s p v hen
  have he : exec (.marketPortEnable p v) s = .next ((portWritten s p v).wr (R.MARKET_PORT_STATUS_CFG_ERR p) 1).ack := by
    show execMarketPortEnable p v s = _
    unfold execMarketPortEnable portWritten
    dsimp only
    rw [if_neg (by simp [h31]), if_neg (by simp [hen]), if_neg (by rw [h31, hok]; decide)]
  refine ⟨_, he, State.wr_rd_same _ _ _, ?_⟩
  rw [State.mktPort, State.ack_rd, State.wr_rd_ne _ _ _ _ (by simp only [Fld.key, R.MARKET_PORT_STATUS_STATE, R.MARKET_PORT_STATUS_CFG_ERR, ne_eq]; omega), portWritten,
    State.wrB_rd_ne _ _ _ _ (by simp only [Fld.key, R.MARKET_PORT_STATUS_STATE, R.MARKET_PORT_CFG_EN, ne_eq]; omega), hst, State.mktPort]

theorem State.portCfg_mkt (s : State) (p : Nat) (v : Word) : (s.portCfg p v).mkt = s.mkt := by
  unfold State.portCfg
  split <;> rfl

theorem marketPortEnable_stops : ∀ (s : State) (p : Fin 32) (v : Word), bitOf v 31 = false → ∃ t, exec (.marketPortEnable p v) s = .next t ∧
    t.rd (R.MARKET_PORT_CFG_EN p) = 0 ∧ t.mktPort p = 0 ∧ t.mkt = s.mkt := by
  intro s p v h31
  have hp := p.isLt
  have he : exec (.marketPortEnable p v) s = .next (((portWritten s p v).wr (R.MARKET_PORT_STATUS_FEC_LOCK p) 0).portTo p 0).ack := by
    show execMarketPortEnable p v s = _
    unfold execMarketPortEnable portWritten
    dsimp only
    rw [if_pos (by simp [h31])]
  refine ⟨_, he, ?_, (State.ack_mktPort _ _).trans (State.portTo_mktPort _ (by decide)), ?_⟩
  · rw [State.ack_rd, State.portTo_rd (by simp only [Fld.key, R.MARKET_PORT_CFG_EN, R.MARKET_PORT_STATUS_STATE, ne_eq]; omega) (by simp only [Fld.key, R.MARKET_PORT_CFG_EN]; omega),
      State.wr_rd_ne _ _ _ _ (by simp only [Fld.key, R.MARKET_PORT_CFG_EN, R.MARKET_PORT_STATUS_FEC_LOCK, ne_eq]; omega), portWritten, h31]
    exact State.wr_rd_same _ _ _
  · rw [State.ack_mkt, State.portTo_mkt, State.wr_mkt, portWritten, State.wrB_mkt, State.portCfg_mkt]

theorem marketPortRetrain_trains : ∀ (s : State) (p : Fin 32) (v : Word), bitOf v 29 = true → s.mktPort p ≠ 0 → s.bit (R.MARKET_PORT_CFG_TRAIN p) = true →
    ∃ t, exec (.marketPortRetrain p v) s = .next t ∧ t.mktPort p = 1 ∧ t.rd (R.MARKET_PORT_STATUS_FEC_LOCK p) = 0 := by
  intro s p v h29 hst htr
  have hp := p.isLt
  refine ⟨_, if_pos ⟨h29, hst, htr⟩, (State.ack_mktPort _ _).trans (State.portTo_mktPort _ (by decide)), ?_⟩
  rw [State.ack_rd, State.portTo_rd (by simp only [Fld.key, R.MARKET_PORT_STATUS_FEC_LOCK, R.MARKET_PORT_STATUS_STATE, ne_eq]; omega) (by simp only [Fld.key, R.MARKET_PORT_STATUS_FEC_LOCK]; omega)]
  exact State.wr_rd_same _ _ _

theorem trainingComplete_waits : ∀ (s : State) (p : Fin 32), s.mktPort p = 1 → ∃ t, exec (.trainingComplete p) s = .next t ∧ t.mktPort p = 2 ∧ t.mkt = s.mkt := by
  intro s p h
  have he : exec (.trainingComplete p) s = .next (s.portTo p 2) := congrArg Host.Outcome.next (if_pos h)
  exact ⟨_, he, State.portTo_mktPort s (by decide), State.portTo_mkt s p 2⟩

theorem trainingTimeout_restarts : ∀ (s : State) (p : Fin 32), s.mktPort p = 1 → ∃ t, exec (.trainingTimeout p) s = .next t ∧ t.mktPort p = 1 ∧
    t.rd (R.MARKET_TRAIN_RESTARTS p) = (s.rd (R.MARKET_TRAIN_RESTARTS p) + 1) % 2 ^ 32 ∧ sameRegs s t [R.MARKET_TRAIN_RESTARTS p] := fun s p h =>
  ⟨_, congrArg Host.Outcome.next (if_pos h),
    (State.wr_rd_ne _ _ _ _ (by simp only [Fld.key, R.MARKET_PORT_STATUS_STATE, R.MARKET_TRAIN_RESTARTS, ne_eq]; omega)).trans h, State.inc_rd_same _ _,
    (sameRegs.refl s _).inc (List.mem_singleton_self _)⟩

/-- A port with no queued frame starts none. -/
theorem State.pump_nil {s : State} {p : Nat} (h : s.mkt.queues.get p = []) : s.pump p = s := by
  rw [State.pump, h]
  rfl

theorem pcsLock_up : ∀ (s : State) (p : Fin 32), s.mktPort p = 2 → s.mkt.queues.get p = [] → ∃ t, exec (.pcsLock p) s = .next t ∧ t.mktPort p = 3 ∧
    t.rd (R.MARKET_PORT_STATUS_FEC_LOCK p) = (if s.rd (R.MARKET_PORT_CFG_FEC p) ≠ 0 then 1 else 0) ∧ t.mkt = s.mkt := by
  intro s p h hq
  have hp := p.isLt
  let u := (s.wrB (R.MARKET_PORT_STATUS_FEC_LOCK p) (decide (s.rd (R.MARKET_PORT_CFG_FEC p) ≠ 0))).portTo p 3
  have hmkt : u.mkt = s.mkt := (State.portTo_mkt _ _ _).trans (State.wrB_mkt _ _ _)
  have he : exec (.pcsLock p) s = .next u := (if_pos h).trans (congrArg Host.Outcome.next (State.pump_nil (hmkt ▸ hq)))
  refine ⟨_, he, State.portTo_mktPort _ (by decide), ?_, hmkt⟩
  refine (State.portTo_rd (by simp only [Fld.key, R.MARKET_PORT_STATUS_FEC_LOCK, R.MARKET_PORT_STATUS_STATE, ne_eq]; omega) (by simp only [Fld.key, R.MARKET_PORT_STATUS_FEC_LOCK]; omega)).trans ?_
  refine (State.wr_rd_same _ _ _).trans ?_
  by_cases hf : s.rd (R.MARKET_PORT_CFG_FEC p) = 0
  · rw [if_neg (by simp [hf]), if_neg (by simp [hf])]; rfl
  · rw [if_pos (by simp [hf]), if_pos hf]; rfl

theorem pcsLockLoss_loses : ∀ (s : State) (p : Fin 32), s.mktPort p = 3 → ∃ t, exec (.pcsLockLoss p) s = .next t ∧
    t.mktPort p = (if s.bit (R.MARKET_PORT_CFG_TRAIN p) then 1 else 2) ∧ t.rd (R.MARKET_PORT_STATUS_FEC_LOCK p) = 0 ∧
    t.rd (R.MARKET_LINK_LOSS p) = (s.rd (R.MARKET_LINK_LOSS p) + 1) % 2 ^ 32 := by
  intro s p h
  have hp := p.isLt
  let u := (s.inc (R.MARKET_LINK_LOSS p)).wr (R.MARKET_PORT_STATUS_FEC_LOCK p) 0
  have he : exec (.pcsLockLoss p) s = .next (u.portBegin p) := congrArg Host.Outcome.next (if_pos h)
  have htr : u.bit (R.MARKET_PORT_CFG_TRAIN p) = s.bit (R.MARKET_PORT_CFG_TRAIN p) :=
    (State.wr_bit_ne _ _ _ _ (by simp only [Fld.key, R.MARKET_PORT_CFG_TRAIN, R.MARKET_PORT_STATUS_FEC_LOCK, ne_eq]; omega)).trans
      (State.wr_bit_ne _ _ _ _ (by simp only [Fld.key, R.MARKET_PORT_CFG_TRAIN, R.MARKET_LINK_LOSS, ne_eq]; omega))
  refine ⟨_, he, ?_, ?_, ?_⟩
  · rw [State.portBegin_mktPort, htr]
  · exact (State.portTo_rd (by simp only [Fld.key, R.MARKET_PORT_STATUS_FEC_LOCK, R.MARKET_PORT_STATUS_STATE, ne_eq]; omega) (by simp only [Fld.key, R.MARKET_PORT_STATUS_FEC_LOCK]; omega)).trans (State.wr_rd_same _ _ _)
  · refine (State.portTo_rd (by simp only [Fld.key, R.MARKET_LINK_LOSS, R.MARKET_PORT_STATUS_STATE, ne_eq]; omega) (by simp only [Fld.key, R.MARKET_LINK_LOSS]; omega)).trans ?_
    exact (State.wr_rd_ne _ _ _ _ (by simp only [Fld.key, R.MARKET_LINK_LOSS, R.MARKET_PORT_STATUS_FEC_LOCK, ne_eq]; omega)).trans (State.inc_rd_same _ _)

theorem synceSquelch_on : ∀ (s : State) (k : Fin 2), s.bit (R.MARKET_SYNCE_OUT_SQUELCH k) = true → ∃ t, exec (.synceSquelch k) s = .next t ∧
    t.rd (R.MARKET_SYNCE_OUT_SQUELCHED k) = 1 ∧ sameRegs s t [R.MARKET_SYNCE_OUT_SQUELCHED k] := by
  intro s k h
  refine ⟨_, rfl, ?_, State.showSynce_writes s k⟩
  rw [State.showSynce, h]
  exact State.wr_rd_same _ _ _

theorem synceSquelch_off : ∀ (s : State) (k : Fin 2), s.bit (R.MARKET_SYNCE_OUT_SQUELCH k) = false → s.mktPort (s.rd (R.MARKET_SYNCE_OUT_PORT k)) = 3 →
    s.bit (R.LANE_STATUS_CDR_LOCK (s.rd (R.MARKET_PORT_CFG_FIRST_LANE (s.rd (R.MARKET_SYNCE_OUT_PORT k))))) = true →
    ∃ t, exec (.synceSquelch k) s = .next t ∧ t.rd (R.MARKET_SYNCE_OUT_SQUELCHED k) = 0 := by
  intro s k h hst hl
  refine ⟨_, rfl, ?_⟩
  rw [State.showSynce, h, hst, hl]
  exact State.wr_rd_same _ _ _

/-! ### Reception -/

theorem frameReceive_notUp : ∀ (s : State) (p : Fin 32) (f : RxFrame), s.mktUp p = false → exec (.frameReceive p f) s = .next s := fun s p f h => if_pos (by simp [h])

/-- A received frame is counted, and what FEC corrected of it. -/
def rxCounted (s : State) (p : Nat) (f : RxFrame) : State :=
  ((s.portInc p 0).add (R.MARKET_FEC_CORR p) f.corr).add (R.MARKET_FEC_UNCORR p) f.uncorr

theorem rxCounted_writes (s : State) (p : Nat) (f : RxFrame) :
    sameRegs s (rxCounted s p f) [R.MARKET_PORT_COUNT p 0, R.MARKET_FEC_CORR p, R.MARKET_FEC_UNCORR p] :=
  (((sameRegs.refl s _).inc (by simp)).add (by simp) _).add (by simp) _

theorem rxCounted_count (s : State) (p : Nat) (f : RxFrame) :
    (rxCounted s p f).rd (R.MARKET_PORT_COUNT p 0) = (s.rd (R.MARKET_PORT_COUNT p 0) + 1) % 2 ^ 32 :=
  (State.wr_rd_ne _ _ _ _ (by simp only [Fld.key, R.MARKET_PORT_COUNT, R.MARKET_FEC_UNCORR, ne_eq]; omega)).trans
    ((State.wr_rd_ne _ _ _ _ (by simp only [Fld.key, R.MARKET_PORT_COUNT, R.MARKET_FEC_CORR, ne_eq]; omega)).trans (State.inc_rd_same _ _))

/-- A dropped frame leaves its two counts and nothing of the Market (R458, R461). -/
theorem rxCounted_drop {s : State} {p : Nat} (f : RxFrame) (n : Nat) {i : Nat} (hi : 0 < i ∧ i < 16) :
    ((rxCounted s p f).dropFrame n p i).mkt = s.mkt ∧
      ((rxCounted s p f).dropFrame n p i).rd (R.MARKET_PORT_COUNT p 0) = (s.rd (R.MARKET_PORT_COUNT p 0) + 1) % 2 ^ 32 ∧
      ((rxCounted s p f).dropFrame n p i).rd (R.MARKET_PORT_COUNT p i) = (s.rd (R.MARKET_PORT_COUNT p i) + 1) % 2 ^ 32 := by
  have hw := WritesIn.ledgerCount (P := ledgerRegs) (fun _ h => h) (.refl _ (rxCounted s p f)) (ledgerId 3 0) n n
  have hl (j : Nat) : ((rxCounted s p f).ledgerCount (ledgerId 3 0) n n).rd (R.MARKET_PORT_COUNT p j) = (rxCounted s p f).rd (R.MARKET_PORT_COUNT p j) :=
    hw _ (not_ledgerRegs_of_ge (by simp only [Fld.key, R.MARKET_PORT_COUNT]; omega))
  refine ⟨?_, ?_, ?_⟩
  · exact (State.inc_mkt _ _).trans ((State.ledgerCount_mkt _ _ _ _).trans ((State.add_mkt _ _ _).trans ((State.add_mkt _ _ _).trans (State.inc_mkt _ _))))
  · exact (State.wr_rd_ne _ _ _ _ (by simp only [Fld.key, R.MARKET_PORT_COUNT, ne_eq]; omega)).trans ((hl 0).trans (rxCounted_count s p f))
  · refine (State.inc_rd_same _ _).trans ?_
    rw [hl, rxCounted_writes s p f _ (by simp only [List.mem_cons, List.not_mem_nil, or_false, forall_eq_or_imp, forall_eq, Fld.key, R.MARKET_PORT_COUNT, R.MARKET_FEC_CORR, R.MARKET_FEC_UNCORR, ne_eq]; omega)]
    rfl

theorem frameReceive_short : ∀ (s : State) (p : Fin 32) (f : RxFrame), s.mktUp p = true → f.bytes.length < 64 → ∃ t, exec (.frameReceive p f) s = .next t ∧ t.mkt = s.mkt ∧
    t.rd (R.MARKET_PORT_COUNT p 0) = (s.rd (R.MARKET_PORT_COUNT p 0) + 1) % 2 ^ 32 ∧
    t.rd (R.MARKET_PORT_COUNT p 1) = (s.rd (R.MARKET_PORT_COUNT p 1) + 1) % 2 ^ 32 := by
  intro s p f hup hlen
  have he : exec (.frameReceive p f) s = .next ((rxCounted s p f).dropFrame (cellsOf f.bytes.length) p 1) := by
    show execFrameReceive p f s = _
    unfold execFrameReceive
    dsimp only
    rw [if_neg (by simp [hup]), if_pos (by simp; omega)]
    rfl
  exact ⟨_, he, rxCounted_drop f _ (by decide)⟩

/-- A good frame of a port without MACsec goes to classification. -/
theorem exec_frameReceive_good {s : State} {p : Fin 32} {f : RxFrame} (hup : s.mktUp p = true) (hg : frameGood s p f) :
    exec (.frameReceive p f) s =
      .next ((rxCounted s p f).classify p f.bytes.length (cellMarks (f.bytes.take (f.bytes.length - 4)) f.bad) f.stamp false) := by
  obtain ⟨hmin, hmax, hbad, hfcs, hpause, hsec⟩ := hg
  have hprot (et : Nat) : State.protects (rxCounted s p f) p et = false := by
    have hm : (rxCounted s p f).mkt = s.mkt := (State.add_mkt _ _ _).trans ((State.add_mkt _ _ _).trans (State.inc_mkt _ _))
    rw [State.protects, State.msecOn, State.msec, hm]
    exact Bool.and_eq_false_imp.mpr fun h => absurd (h.symm.trans hsec) (by decide)
  show execFrameReceive p f s = _
  unfold execFrameReceive
  dsimp only
  rw [if_neg (by simp [hup]), if_neg (by rw [hbad]; simp [hmin, hmax]), if_neg (by simp [hfcs]), if_neg hpause]
  exact if_neg (by rw [show ((s.portInc p 0).add (R.MARKET_FEC_CORR p) f.corr).add (R.MARKET_FEC_UNCORR p) f.uncorr = rxCounted s p f from rfl, hprot]; decide)

theorem State.flowMatch_congr {s t : State} (h : ∀ e w, t.rd (R.MARKET_FLOW e w) = s.rd (R.MARKET_FLOW e w)) (p : Nat) (k : FrameKeys) :
    t.flowMatch p k = s.flowMatch p k := by
  unfold State.flowMatch
  simp only [h]

theorem rxCounted_flow (s : State) (p : Fin 32) (f : RxFrame) (e w : Nat) : (rxCounted s p f).rd (R.MARKET_FLOW e w) = s.rd (R.MARKET_FLOW e w) := by
  have hp := p.isLt
  exact rxCounted_writes s p f _ (by simp only [List.mem_cons, List.not_mem_nil, or_false, forall_eq_or_imp, forall_eq, Fld.key, R.MARKET_FLOW, R.MARKET_PORT_COUNT, R.MARKET_FEC_CORR, R.MARKET_FEC_UNCORR, ne_eq]; omega)

theorem frameReceive_noFlow : ∀ (s : State) (p : Fin 32) (f : RxFrame), s.mktUp p = true → frameGood s p f → s.flowMatch p (rxKeys f) = none →
    ∃ t, exec (.frameReceive p f) s = .next t ∧ t.mkt = s.mkt ∧
      t.rd (R.MARKET_PORT_COUNT p 0) = (s.rd (R.MARKET_PORT_COUNT p 0) + 1) % 2 ^ 32 ∧
      t.rd (R.MARKET_PORT_COUNT p 3) = (s.rd (R.MARKET_PORT_COUNT p 3) + 1) % 2 ^ 32 := by
  intro s p f hup hg hfl
  have he : exec (.frameReceive p f) s = .next ((rxCounted s p f).dropFrame (cellsOf f.bytes.length) p 3) := by
    rw [exec_frameReceive_good hup hg]
    unfold State.classify
    dsimp only
    rw [State.flowMatch_congr (rxCounted_flow s p f), show parseFrame _ = rxKeys f from rfl, hfl]
  exact ⟨_, he, rxCounted_drop f _ (by decide)⟩

/-! ### Packets of streams -/

theorem iqSamples_length (n : Nat) (l : List (Nat × Bool)) : (iqSamples n l).length = n := by
  induction n generalizing l with
  | zero => rfl
  | succ n ih => rw [iqSamples, List.length_cons, ih]

theorem cellMarks_fst (l bad : List Nat) : (cellMarks l bad).map Prod.fst = l := by
  rw [cellMarks, List.map_map]
  exact List.zipIdx_map_fst 0 l

theorem fw_take {l : List Nat} {i m : Nat} (h : i + 2 ≤ m) : fw (l.take m) i = fw l i := by
  have hb (j : Nat) (hj : j < m) : fb (l.take m) j = fb l j := by
    rw [fb, fb, List.getD_eq_getElem?_getD, List.getD_eq_getElem?_getD, List.getElem?_take_of_lt hj]
  rw [fw, fw, hb i (by omega), hb (i + 1) (by omega)]

/-- A position of a stream is read back from its number of samples since SFN 0 (R474). -/
theorem anchor_pos {spf sfn idx : Nat} (hi : idx < spf) (hs : sfn < 1024) :
    ((((sfn * spf + idx : Nat) : Int) + 0 * z) % ((1024 * spf : Nat) : Int) / (spf : Int)).toNat = sfn ∧
      ((((sfn * spf + idx : Nat) : Int) + 0 * z) % ((1024 * spf : Nat) : Int) % (spf : Int)).toNat = idx := by
  have hlt : sfn * spf + idx < 1024 * spf := by nlinarith
  rw [zero_mul, add_zero, Int.emod_eq_of_lt (by positivity) (by exact_mod_cast hlt)]
  have hdiv : (sfn * spf + idx) / spf = sfn := by
    rw [Nat.mul_comm, Nat.mul_add_div (by omega), Nat.div_eq_of_lt hi, Nat.add_zero]
  have hmod : (sfn * spf + idx) % spf = idx := by
    rw [Nat.mul_comm, Nat.mul_add_mod, Nat.mod_eq_of_lt hi]
  constructor
  · rw [← Int.natCast_div, hdiv, Int.toNat_natCast]
  · rw [← Int.natCast_mod, hmod, Int.toNat_natCast]

/-- The first packet of a stream that comes with the anchor's sequence number: its block stands at the anchor (R473, R474). -/
theorem streamRx_first {u : State} {st spf : Nat} {k : FrameKeys} {f : List (Nat × Bool)} (het : k.et = 0xFC3D)
    (hen : u.bit (R.MARKET_STREAM_CFG_EN st) = true) (hdir : u.bit (R.MARKET_STREAM_CFG_DIR st) = false) (hspp : u.rd (R.MARKET_STREAM_CFG_SPP st) ≠ 0)
    (hlen : fw (f.map Prod.fst) (k.off + 2) = 4 * u.rd (R.MARKET_STREAM_CFG_SPP st)) (hfit : k.off + 8 + 4 * u.rd (R.MARKET_STREAM_CFG_SPP st) ≤ f.length)
    (hstr : u.stream st = {}) (hseq : beNum (((f.map Prod.fst).drop (k.off + 4)).take 4) = u.rd (R.MARKET_STREAM_ANCHOR_SEQ st))
    (hspf : u.streamSpf st = some spf) (hidx : u.rd (R.MARKET_STREAM_ANCHOR_IDX st) < spf) (hsfn : u.rd (R.MARKET_STREAM_ANCHOR_SFN st) < 1024) :
    (u.streamRx st k f).mkt.blocks = u.mkt.blocks ++ [⟨st, u.rd (R.MARKET_STREAM_ANCHOR_SFN st), u.rd (R.MARKET_STREAM_ANCHOR_IDX st),
        iqSamples (u.rd (R.MARKET_STREAM_CFG_SPP st)) (f.drop (k.off + 8))⟩] ∧
      ((u.streamRx st k f).mkt.streams.get st).seq = some ((u.rd (R.MARKET_STREAM_ANCHOR_SEQ st) + 1) % 4294967296) := by
  have hd : sext 32 ((u.rd (R.MARKET_STREAM_ANCHOR_SEQ st) + 4294967296 - u.rd (R.MARKET_STREAM_ANCHOR_SEQ st)) % 4294967296) = 0 := by
    rw [Nat.add_sub_cancel_left]
    rfl
  obtain ⟨hq, hr⟩ := anchor_pos (z := (u.rd (R.MARKET_STREAM_CFG_SPP st) : Int)) hidx hsfn
  unfold State.streamRx
  dsimp only
  rw [if_neg (by simp only [het, hen, hdir, hlen]; simp [hspp]; omega), hspf, hstr]
  simp only [hseq, Option.getD_none, hd, hq, hr, le_refl, if_true]
  exact ⟨rfl, congrArg MktStream.seq (Tab.get_set_same _ _ _)⟩

/-- The frame's cells are taken: what of the state reception has changed by then. -/
def rxBuffered (s : State) (p : Nat) (f : RxFrame) : State := ((rxCounted s p f).cellsTake none (cellsOf f.bytes.length) 1).2

theorem rxBuffered_rd (s : State) (p : Fin 32) (f : RxFrame) {x : Fld} (h : ¬ cellRegs x.key)
    (h' : ∀ y ∈ [R.MARKET_PORT_COUNT p 0, R.MARKET_FEC_CORR p, R.MARKET_FEC_UNCORR p], x.key ≠ y.key) : (rxBuffered s p f).rd x = s.rd x :=
  (State.cellsTake_rd h).trans (rxCounted_writes s p f x h')

/-- A place outside the ports' counters, above the other registers of reception. -/
theorem rxBuffered_rd_far (s : State) (p : Fin 32) (f : RxFrame) {x : Fld} (h : x.key < 0x50000000 * 64 ∧ ¬ ledgerRegs x.key ∨ 0x50010000 * 64 ≤ x.key) :
    (rxBuffered s p f).rd x = s.rd x := by
  have hp := p.isLt
  refine rxBuffered_rd s p f ?_ ?_
  · rintro (hl | hc)
    · rcases h with h | h
      · exact h.2 hl
      · exact not_ledgerRegs_of_ge (by omega) hl
    · rw [hc] at h
      revert h
      simp only [Fld.key, R.MARKET_BUF_STATUS_CELLS]
      omega
  · have h'' : x.key < 0x50000000 * 64 ∨ 0x50010000 * 64 ≤ x.key := h.imp_left And.left
    simp only [List.mem_cons, List.not_mem_nil, or_false, forall_eq_or_imp, forall_eq, Fld.key, R.MARKET_PORT_COUNT, R.MARKET_FEC_CORR, R.MARKET_FEC_UNCORR,
      ne_eq] at h'' ⊢
    omega

theorem rxBuffered_spf (s : State) (p : Fin 32) (f : RxFrame) (st : Nat) : (rxBuffered s p f).streamSpf st = s.streamSpf st := by
  have hf (x : Fld) (h1 : 0x47012000 * 64 ≤ x.key) (h2 : x.key < 0x50000000 * 64 ∨ 0x50010000 * 64 ≤ x.key) : (rxBuffered s p f).rd x = s.rd x :=
    rxBuffered_rd_far s p f (h2.imp (fun h => ⟨h, not_ledgerRegs_of_ge h1⟩) id)
  have hfind : (List.range 1024).find? (fun c => (rxBuffered s p f).rd (R.SIEVE_CH_MODE_PORT_KIND c) == 0 &&
        (rxBuffered s p f).rd (R.SIEVE_CH_MODE_PORT c) == st && !(rxBuffered s p f).bit (R.SIEVE_CH_MODE_DIR c) && (rxBuffered s p f).chanSt c != 0) =
      (List.range 1024).find? (fun c => s.rd (R.SIEVE_CH_MODE_PORT_KIND c) == 0 && s.rd (R.SIEVE_CH_MODE_PORT c) == st &&
        !s.bit (R.SIEVE_CH_MODE_DIR c) && s.chanSt c != 0) := by
    refine List.find?_congr fun c hc => ?_
    have hc := List.mem_range.mp hc
    rw [hf _ (by simp only [Fld.key, R.SIEVE_CH_MODE_PORT_KIND]; omega) (by simp only [Fld.key, R.SIEVE_CH_MODE_PORT_KIND]; omega), hf _ (by simp only [Fld.key, R.SIEVE_CH_MODE_PORT]; omega) (by simp only [Fld.key, R.SIEVE_CH_MODE_PORT]; omega), State.chanSt,
      hf _ (by simp only [Fld.key, R.SIEVE_CH_STATUS_STATE]; omega) (by simp only [Fld.key, R.SIEVE_CH_STATUS_STATE]; omega), State.bit_eq, hf _ (by simp only [Fld.key, R.SIEVE_CH_MODE_DIR]; omega) (by simp only [Fld.key, R.SIEVE_CH_MODE_DIR]; omega), State.chanSt, State.bit_eq]
  rw [State.streamSpf, hfind, State.streamSpf]
  cases hr : (List.range 1024).find? (fun c => s.rd (R.SIEVE_CH_MODE_PORT_KIND c) == 0 && s.rd (R.SIEVE_CH_MODE_PORT c) == st &&
        !s.bit (R.SIEVE_CH_MODE_DIR c) && s.chanSt c != 0) with
  | none => rfl
  | some c =>
    have hc := List.mem_range.mp (List.mem_of_find?_eq_some hr)
    rw [Option.map_some, Option.map_some, hf _ (by simp only [Fld.key, R.SIEVE_CH_RATE_SPF]; omega) (by simp only [Fld.key, R.SIEVE_CH_RATE_SPF]; omega)]

theorem frameReceive_stream : ∀ (s : State) (p : Fin 32) (f : RxFrame) (e st spf : Nat), s.mktUp p = true → frameGood s p f → s.stamped p = false →
    s.flowMatch p (rxKeys f) = some e → nbits (s.rd (R.MARKET_FLOW e 0)) 28 3 = 3 → st = nbits (s.rd (R.MARKET_FLOW e 5)) 0 6 →
    s.cellsRoom none (cellsOf f.bytes.length) = true → (rxKeys f).et = 0xFC3D → s.bit (R.MARKET_STREAM_CFG_EN st) = true →
    s.bit (R.MARKET_STREAM_CFG_DIR st) = false → s.rd (R.MARKET_STREAM_CFG_SPP st) ≠ 0 →
    fw f.bytes ((rxKeys f).off + 2) = 4 * s.rd (R.MARKET_STREAM_CFG_SPP st) →
    (rxKeys f).off + 8 + 4 * s.rd (R.MARKET_STREAM_CFG_SPP st) ≤ f.bytes.length - 4 → s.mkt.streams.get st = {} →
    beNum ((f.bytes.drop ((rxKeys f).off + 4)).take 4) = s.rd (R.MARKET_STREAM_ANCHOR_SEQ st) → s.streamSpf st = some spf →
    s.rd (R.MARKET_STREAM_ANCHOR_IDX st) < spf → s.rd (R.MARKET_STREAM_ANCHOR_SFN st) < 1024 → ∃ t data, exec (.frameReceive p f) s = .next t ∧
      t.mkt.blocks = s.mkt.blocks ++ [⟨st, s.rd (R.MARKET_STREAM_ANCHOR_SFN st), s.rd (R.MARKET_STREAM_ANCHOR_IDX st), data⟩] ∧
      data.length = s.rd (R.MARKET_STREAM_CFG_SPP st) ∧
      (t.mkt.streams.get st).seq = some ((s.rd (R.MARKET_STREAM_ANCHOR_SEQ st) + 1) % 4294967296) := by
  intro s p f e st spf hup hg hstamp hfl hact hst hroom het hen hdir hspp hlen hfit hstr hseq hspf hidx hsfn
  have hp := p.isLt
  have hfar {x : Fld} (h : 0x50010000 * 64 ≤ x.key) : (rxBuffered s p f).rd x = s.rd x := rxBuffered_rd_far s p f (.inr h)
  have hmkt : (rxCounted s p f).mkt = s.mkt := (State.add_mkt _ _ _).trans ((State.add_mkt _ _ _).trans (State.inc_mkt _ _))
  have hbmkt : (rxBuffered s p f).mkt = _ := State.cellsTake_mkt (rxCounted s p f) none (cellsOf f.bytes.length) 1
  have hroom' : (rxCounted s p f).cellsRoom none (cellsOf f.bytes.length) = true := by
    rw [State.cellsRoom, State.cellsUsed, rxCounted_writes s p f _ (by simp only [List.mem_cons, List.not_mem_nil, or_false, forall_eq_or_imp, forall_eq, Fld.key, R.MARKET_BUF_STATUS_CELLS, R.MARKET_PORT_COUNT, R.MARKET_FEC_CORR, R.MARKET_FEC_UNCORR, ne_eq]; omega)]
    exact hroom
  have hrole : (rxCounted s p f).stamped p = false := by
    rw [State.stamped, rxCounted_writes s p f _ (by simp only [List.mem_cons, List.not_mem_nil, or_false, forall_eq_or_imp, forall_eq, Fld.key, R.MARKET_PTP_CFG_ROLE, R.MARKET_PORT_COUNT, R.MARKET_FEC_CORR, R.MARKET_FEC_UNCORR, ne_eq]; omega)]
    exact hstamp
  let b := cellMarks (f.bytes.take (f.bytes.length - 4)) f.bad
  have he : exec (.frameReceive p f) s = .next (((rxBuffered s p f).streamRx st (rxKeys f) b).cellsFree (rxCounted s p f).mkt.nextBuf) := by
    rw [exec_frameReceive_good hup hg]
    unfold State.classify
    dsimp only
    rw [State.flowMatch_congr (rxCounted_flow s p f), show parseFrame _ = rxKeys f from rfl, hfl]
    dsimp only
    rw [rxCounted_flow, hact, if_neg (by decide), if_neg (by decide), hroom', if_neg (by decide), if_neg (by decide), if_neg (by decide), rxCounted_flow,
      ← hst, State.rxAsym, hrole]
    rfl
  have hbf : b.map Prod.fst = f.bytes.take (f.bytes.length - 4) := cellMarks_fst _ _
  have hbl : b.length = f.bytes.length - 4 := by rw [← List.length_map (f := Prod.fst), hbf, List.length_take]; omega
  have hstrm : (rxBuffered s p f).stream st = {} := by rw [State.stream, hbmkt, hmkt]; exact hstr
  obtain ⟨hblocks, hseq'⟩ := streamRx_first (u := rxBuffered s p f) (f := b) (spf := spf) het
    (by rw [State.bit_eq, hfar (by simp only [Fld.key, R.MARKET_STREAM_CFG_EN]; omega), ← State.bit_eq]; exact hen)
    (by rw [State.bit_eq, hfar (by simp only [Fld.key, R.MARKET_STREAM_CFG_DIR]; omega), ← State.bit_eq]; exact hdir)
    (by rw [hfar (by simp only [Fld.key, R.MARKET_STREAM_CFG_SPP]; omega)]; exact hspp)
    (by rw [hfar (by simp only [Fld.key, R.MARKET_STREAM_CFG_SPP]; omega), hbf, fw_take (by omega)]; exact hlen)
    (by rw [hfar (by simp only [Fld.key, R.MARKET_STREAM_CFG_SPP]; omega), hbl]; exact hfit) hstrm
    (by rw [hfar (by simp only [Fld.key, R.MARKET_STREAM_ANCHOR_SEQ]; omega), hbf, List.drop_take, List.take_take, Nat.min_eq_left (by omega)]; exact hseq)
    ((rxBuffered_spf s p f st).trans hspf) (by rw [hfar (by simp only [Fld.key, R.MARKET_STREAM_ANCHOR_IDX]; omega)]; exact hidx) (by rw [hfar (by simp only [Fld.key, R.MARKET_STREAM_ANCHOR_SFN]; omega)]; exact hsfn)
  obtain ⟨c, hc⟩ := State.cellsFree_mkt ((rxBuffered s p f).streamRx st (rxKeys f) b) (rxCounted s p f).mkt.nextBuf
  rw [hfar (by simp only [Fld.key, R.MARKET_STREAM_ANCHOR_SFN]; omega), hfar (by simp only [Fld.key, R.MARKET_STREAM_ANCHOR_IDX]; omega), hfar (by simp only [Fld.key, R.MARKET_STREAM_CFG_SPP]; omega)] at hblocks
  rw [hfar (by simp only [Fld.key, R.MARKET_STREAM_ANCHOR_SEQ]; omega)] at hseq'
  refine ⟨_, iqSamples (s.rd (R.MARKET_STREAM_CFG_SPP st)) (b.drop ((rxKeys f).off + 8)), he, ?_, iqSamples_length _ _, ?_⟩
  · rw [hc]
    refine hblocks.trans ?_
    rw [hbmkt, hmkt]
  · rw [hc]
    exact hseq'

/-- Settles O44: each clause is a lemma above about one command. -/
theorem marketPortsAndReception : Obligations.MarketPortsAndReception :=
  ⟨marketPortEnable_starts, marketPortEnable_refused, marketPortEnable_stops, marketPortRetrain_trains, trainingComplete_waits,
    trainingTimeout_restarts, pcsLock_up, pcsLockLoss_loses, synceSquelch_on, synceSquelch_off, frameReceive_notUp, frameReceive_short,
    frameReceive_noFlow, frameReceive_stream⟩

end Sys2Proof.Claims

/-! ## O45: landings, planned egress, streams, host queues and captures -/

namespace Sys2Proof.Machine

set_option Elab.async false

open Sys2Proof.Claims

section
variable (s : State)

/-! ### Plans in effect -/

theorem State.planOf_congr {s t : State} (h : t.mkt.plans = s.mkt.plans) (g w : Nat) : t.planOf g w = s.planOf g w := by
  rw [State.planOf, h, State.planOf]

theorem State.outOf_congr {s t : State} (h : t.mkt.plans = s.mkt.plans) (g w i : Nat) : t.outOf g w i = s.outOf g w i := by
  rw [State.outOf, State.planOf_congr h, State.outOf]

theorem State.planOf_isOf {s : State} {g w : Nat} {x : MktPlan} (h : s.planOf g w = some x) : x.isOf g w = true :=
  List.find?_some (p := fun x : MktPlan => x.isOf g w) h

theorem State.planOf_onPlan {s : State} {g w : Nat} {x : MktPlan} {f : MktPlan → MktPlan} (h : s.planOf g w = some x)
    (hf : ∀ y, (f y).isOf g w = y.isOf g w) : (s.onPlan g w f).planOf g w = some (f x) := by
  have hc : ((fun y : MktPlan => y.isOf g w) ∘ fun y => if y.isOf g w then f y else y) = fun y => y.isOf g w := by
    funext y
    simp only [Function.comp]
    split
    · rw [hf]
    · rfl
  rw [State.planOf, State.onPlan, State.setMkt_mkt, List.find?_map, hc, show s.mkt.plans.find? (fun y => y.isOf g w) = some x from h, Option.map_some,
    if_pos (State.planOf_isOf h)]

theorem MktPlan.setOut_isOf (e : MktOut) (g w : Nat) (y : MktPlan) : (y.setOut e).isOf g w = y.isOf g w := rfl

/-- The entry that an update of a plan's entry leaves. -/
theorem MktPlan.out_setOut {x : MktPlan} {i : Nat} {e e' : MktOut} (h : x.out i = some e) (he : e'.index = e.index) : (x.setOut e').out i = some e' := by
  have hi : e.index = i := beq_iff_eq.mp (List.find?_some (p := fun e : MktOut => e.index == i) h)
  have hc : ((fun y : MktOut => y.index == i) ∘ fun y => if y.index = e'.index then e' else y) = fun y => y.index == i := by
    funext y
    simp only [Function.comp]
    split
    · next hy => rw [hy]
    · rfl
  rw [MktPlan.out, MktPlan.setOut, List.find?_map, hc, show x.outs.find? (fun y => y.index == i) = some e from h, Option.map_some, if_pos he.symm]

theorem State.outOf_setOut {s : State} {g w i : Nat} {e e' : MktOut} (h : s.outOf g w i = some e) (he : e'.index = e.index) :
    (s.setOut g w e').outOf g w i = some e' := by
  obtain ⟨x, hx, hxe⟩ := Option.bind_eq_some_iff.mp h
  exact Option.bind_eq_some_iff.mpr ⟨_, State.planOf_onPlan hx (MktPlan.setOut_isOf e' g w), MktPlan.out_setOut hxe he⟩

/-! ### Frames -/

/-- A port that is not up starts no queued frame. -/
theorem State.enqTx_notUp {s : State} {p : Nat} (f : TxFrame) (h : s.mktUp p = false) :
    s.enqTx p f = s.setMkt { s.mkt with queues := s.mkt.queues.set p (s.mkt.queues.get p ++ [f]) } := by
  have hup : (s.setMkt { s.mkt with queues := s.mkt.queues.set p (s.mkt.queues.get p ++ [f]) }).mktUp p = false := h
  rw [State.enqTx]
  generalize s.setMkt { s.mkt with queues := s.mkt.queues.set p (s.mkt.queues.get p ++ [f]) } = u at hup ⊢
  rw [State.pump]
  cases (u.mkt.queues.get p).length with
  | zero => rfl
  | succ n =>
    rw [State.pumpGo, hup]
    exact if_neg (by simp)

/-- What a port sends once it starts frame `f` without MACsec and capture. -/
theorem State.startFrame_now {s : State} {p : Nat} {f : TxFrame} (hsec : s.msecOn p = false) (hcap : f.capture = false) (hearly : f.early = 0) :
    ∃ x, (s.startFrame p f).mkt.now.get p = some x ∧ x.win = f.win ∧ x.pn = none ∧ x.token = f.token ∧ s.wireNow ≤ x.ends ∧
      (s.startFrame p f).rd R.MARKET_BUF_STATUS_CELLS = s.rd R.MARKET_BUF_STATUS_CELLS := by
  have hprot (et : Nat) : s.protects p et = false := by rw [State.protects, hsec, Bool.false_and]
  unfold State.startFrame
  simp only [hprot, hcap, hearly, Bool.false_and, Bool.false_eq_true, if_false, Nat.sub_zero]
  refine ⟨_, Tab.get_set_same _ _ _, rfl, rfl, rfl, ?_, ?_⟩
  · exact le_trans (Nat.le_max_left _ _) (Nat.le_add_right _ _)
  · have h14 : (R.MARKET_BUF_STATUS_CELLS).key ≠ (R.MARKET_PORT_COUNT p 14).key := (by simp only [Fld.key, R.MARKET_BUF_STATUS_CELLS, R.MARKET_PORT_COUNT, ne_eq]; omega)
    have h15 : (R.MARKET_BUF_STATUS_CELLS).key ≠ (R.MARKET_PORT_COUNT p 15).key := (by simp only [Fld.key, R.MARKET_BUF_STATUS_CELLS, R.MARKET_PORT_COUNT, ne_eq]; omega)
    have hkeep (t : State) (b : Bool) (i : Nat) (hi : (R.MARKET_BUF_STATUS_CELLS).key ≠ (R.MARKET_PORT_COUNT p i).key) :
        (if b = true then t.portInc p i else t).rd R.MARKET_BUF_STATUS_CELLS = t.rd R.MARKET_BUF_STATUS_CELLS := by
      split
      · exact State.wr_rd_ne _ _ _ _ hi
      · rfl
    rw [State.setMkt_rd, hkeep _ _ 15 h15, hkeep _ _ 14 h14]

/-! ### What tokens and pools write -/

theorem State.sendToken_far (b : Bool) (x : Token) : WritesIn (fun k => k < 0x50000000 * 64) s (s.sendToken b x) :=
  WritesIn.mono (WritesIn.sendToken (.refl _ s) b x) fun k h => by
    simp only [slotAddrs, addrIn, Fld.key, R.REEVE_STATUS_REPORT_HELD, R.TALLY_STATUS_FAULT, R.TALLY_FAULT_LAST_ID, R.TALLY_FAULT_COUNT_COUNT] at h
    omega

theorem State.poolRelease_far {p : Nat} (hp : p < 128) (tok : Nat) : WritesIn (fun k => k < 0x50000000 * 64) s (s.poolRelease p tok) := by
  have hset (x : Pool) : WritesIn (fun k => k < 0x50000000 * 64) s (s.setPool p x) := .of_regs (.refl _ s) rfl
  have hL (k : Nat) (h : ledgerRegs k) : k < 0x50000000 * 64 :=
    Nat.lt_of_not_le fun hk => not_ledgerRegs_of_ge (Nat.le_trans (by decide) hk) h
  unfold State.poolRelease
  split
  · unfold State.poolReturn State.poolLedger State.showHeld
    exact WritesIn.ledgerCount hL ((hset _).wr (x := R.GRANARY_POOL_STATUS_HELD p) (by simp only [Fld.key, R.GRANARY_POOL_STATUS_HELD]; omega) _) _ _ _
  · exact ((((WritesIn.refl _ s).wr (by decide) _).wr (by decide) _).wr (by decide) _).wr (by decide) _

theorem State.poolRelease_mkt (p tok : Nat) : (s.poolRelease p tok).mkt = s.mkt :=
  (keeps_poolRelease (.refl (partsBut .mkt) s) (by decide) (by decide) (by decide) (by decide) (by decide) p tok).same_of_but

theorem State.poolRelease_sent (p tok : Nat) : (s.poolRelease p tok).sent = s.sent :=
  (keeps_poolRelease (.refl (partsBut .sent) s) (by decide) (by decide) (by decide) (by decide) (by decide) p tok).same_of_but

theorem State.cellsFree_sent (i : Nat) : (s.cellsFree i).sent = s.sent :=
  (keeps_cellsFree (.refl (partsBut .sent) s) (by decide) (by decide) (by decide) (by decide) (by decide) i).same_of_but

theorem State.cellsFree_reeve (i : Nat) : (s.cellsFree i).reeve = s.reeve :=
  (keeps_cellsFree (.refl (partsBut .reeve) s) (by decide) (by decide) (by decide) (by decide) (by decide) i).same_of_but

theorem State.sendToken_mkt (b : Bool) (x : Token) : (s.sendToken b x).mkt = s.mkt :=
  (keeps_sendToken (.refl (partsBut .mkt) s) (by decide) (by decide) (by decide) (by decide) (by decide) b x).same_of_but

theorem State.sendNote_tokens (g w : Nat) (n : MktNotify) (lapse : Bool) :
    (s.sendNote g w n lapse).reeve.tokens = s.reeve.tokens ++ [⟨windowName g w n.index, lapse, 0xFFFF⟩] := State.sendToken_tokens _ _ _

theorem State.sendNote_mkt (g w : Nat) (n : MktNotify) (lapse : Bool) :
    (s.sendNote g w n lapse).mkt = (s.onPlan g w (fun x => x.setNote { n with sent := true })).mkt := State.sendToken_mkt _ _ _

theorem State.dmaRead_mkt (mid : Mid) (a n : Nat) : (s.dmaRead mid a n).2.mkt = s.mkt :=
  (keeps_dmaRead (.refl (partsBut .mkt) s) (by decide) (by decide) (by decide) (by decide) (by decide) mid a n).same_of_but

theorem State.dmaRead_stp (mid : Mid) (a n : Nat) : (s.dmaRead mid a n).2.stp = s.stp :=
  (keeps_dmaRead (.refl (partsBut .stp) s) (by decide) (by decide) (by decide) (by decide) (by decide) mid a n).same_of_but

theorem State.dmaWrite_mkt (mid : Mid) (a : Nat) (bs : List (Nat × Bool)) : (s.dmaWrite mid a bs).2.mkt = s.mkt :=
  (keeps_dmaWrite (.refl (partsBut .mkt) s) (by decide) (by decide) (by decide) (by decide) (by decide) mid a bs).same_of_but

end

end Sys2Proof.Machine

namespace Sys2Proof.Claims

set_option Elab.async false

open Sys2Proof.Machine

/-! ### Landings and their tokens -/

/-- A landing whose writes are answered is gone, its cells are free, its errors are counted. -/
def landed (s : State) (i : Nat) (l : Landing) : State :=
  ((s.setMkt { s.mkt with landings := s.mkt.landings.eraseIdx i }).cellsFree l.buf).add (R.MARKET_PORT_COUNT l.port 10) l.errs

theorem landed_mkt (s : State) (i : Nat) (l : Landing) : ∃ b, (landed s i l).mkt = { s.mkt with landings := s.mkt.landings.eraseIdx i, bufs := b } := by
  obtain ⟨b, hb⟩ := State.cellsFree_mkt (s.setMkt { s.mkt with landings := s.mkt.landings.eraseIdx i }) l.buf
  exact ⟨b, (State.add_mkt _ _ _).trans hb⟩

theorem landed_rd (s : State) (i : Nat) (l : Landing) {f : Fld} (h1 : ¬ cellRegs f.key) (h2 : f.key ≠ (R.MARKET_PORT_COUNT l.port 10).key) :
    (landed s i l).rd f = s.rd f := (State.wr_rd_ne _ _ _ _ h2).trans (State.cellsFree_rd h1)

/-- The units that complete a notify set send its token (R470). -/
theorem countNote_completes {u : State} {g w ns sym n : Nat} {x : MktPlan} {m : MktNotify} (hx : u.planOf g w = some x) (hm : x.note ns sym = some m)
    (hsent : m.sent = false) (hn : m.expect ≤ x.counts.get (ns * 16 + sym) + n) :
    (u.countNote g w ns sym n).mkt.landings = u.mkt.landings ∧
      (u.countNote g w ns sym n).reeve.tokens = u.reeve.tokens ++ [⟨windowName g w m.index, false, 0xFFFF⟩] := by
  let f : MktPlan → MktPlan := fun x => { x with counts := x.counts.modify (ns * 16 + sym) (fun c => c + n) }
  have hplan : (u.onPlan g w f).planOf g w = some (f x) := State.planOf_onPlan hx fun _ => rfl
  have hcount : (f x).counts.get (ns * 16 + sym) = x.counts.get (ns * 16 + sym) + n := Tab.get_modify_same _ _ _
  have he : u.countNote g w ns sym n = (u.onPlan g w f).sendNote g w m false := by
    unfold State.countNote
    dsimp only
    rw [hplan]
    dsimp only
    rw [show (f x).note ns sym = some m from hm]
    dsimp only
    rw [hcount]
    exact if_pos (by simp [hsent, hn])
  rw [he]
  exact ⟨by rw [State.sendNote_mkt]; rfl, State.sendNote_tokens _ g w m false⟩

theorem landingWritesAnswered_notifies : ∀ (s : State) (i : Nat) (l : Landing) (g w ns sym n : Nat) (x : MktPlan) (m : MktNotify), s.mkt.landings[i]? = some l → l.pool = none →
    l.win = some (g, w) → l.counts = [(ns, sym, n)] → s.planOf g w = some x → x.note ns sym = some m → m.sent = false →
    m.expect ≤ x.counts.get (ns * 16 + sym) + n → ∃ t, exec (.landingWritesAnswered i) s = .next t ∧
      t.mkt.landings = s.mkt.landings.eraseIdx i ∧ t.reeve.tokens = s.reeve.tokens ++ [⟨windowName g w m.index, false, 0xFFFF⟩] := by
  intro s i l g w ns sym n x m hl hpool hwin hcounts hx hm hsent hn
  obtain ⟨b, hb⟩ := landed_mkt s i l
  have he : exec (.landingWritesAnswered i) s = .next ((landed s i l).countNote g w ns sym n) := by
    show execLandingWritesAnswered i s = _
    unfold execLandingWritesAnswered
    rw [hl]
    dsimp only
    rw [hpool, hwin, hcounts]
    rfl
  have hplan : (landed s i l).planOf g w = some x := (State.planOf_congr (by rw [hb]) g w).trans hx
  obtain ⟨hland, htok⟩ := countNote_completes hplan hm hsent hn
  refine ⟨_, he, hland.trans (by rw [hb]), htok.trans ?_⟩
  rw [landed, State.add_reeve, State.cellsFree_reeve]
  rfl

theorem lqIsFull_congr {s t : State} {q : Nat} (hs : t.rd (R.MARKET_LQ_CFG_SIZE_LOG2 q) = s.rd (R.MARKET_LQ_CFG_SIZE_LOG2 q))
    (hp : t.rd (R.MARKET_LQ_PROD q) = s.rd (R.MARKET_LQ_PROD q)) (hc : t.rd (R.MARKET_LQ_CONS q) = s.rd (R.MARKET_LQ_CONS q))
    (hm : t.mkt.pushes = s.mkt.pushes) : t.lqIsFull q = s.lqIsFull q := by
  rw [State.lqIsFull, State.lqSize, hs, hp, hc, hm, State.lqIsFull, State.lqSize]

/-- Adding nothing to a register changes no field of it that resets to 0. -/
theorem State.add_zero_rd (s : State) {f f' : Fld} (hr : f.reset = 0) (hr' : f'.reset = 0) (hw : f'.w ≤ f.w) : (s.add f 0).rd f' = s.rd f' := by
  by_cases hk : f'.key = f.key
  · have hmod (v : Nat) : v % 2 ^ f.w % 2 ^ f'.w = v % 2 ^ f'.w := Nat.mod_mod_of_dvd v (Nat.pow_dvd_pow 2 hw)
    have hget (x : Nat) : (if x = 0 then (none : Option Nat) else some x).getD 0 = x := by
      split
      · next h => exact h.symm
      · rfl
    show ((s.regs.tab.set f.key (if (s.regs.rd f + 0) % 2 ^ f.w = f.reset then none else some ((s.regs.rd f + 0) % 2 ^ f.w))).get f'.key).getD f'.reset % 2 ^ f'.w = _
    rw [hk, Tab.get_set_same, hr, hr', hget, Nat.add_zero, RegFile.rd, hr, Nat.mod_mod, hmod]
    show _ = ((s.regs.tab.get f'.key).getD f'.reset) % 2 ^ f'.w
    rw [hk, hr']
  · exact State.wr_rd_ne _ _ _ _ hk

theorem landed_lqIsFull (s : State) (i : Nat) {l : Landing} (he : l.errs = 0) (q : Nat) : (landed s i l).lqIsFull q = s.lqIsFull q := by
  obtain ⟨b, hb⟩ := landed_mkt s i l
  have hrd (f : Fld) (hf : ¬ cellRegs f.key) (hr : f.reset = 0) (hw : f.w ≤ 32) : (landed s i l).rd f = s.rd f := by
    rw [landed, he]
    exact (State.add_zero_rd _ rfl hr hw).trans (State.cellsFree_rd hf)
  exact lqIsFull_congr (hrd _ (not_cellRegs (by simp only [Fld.key, R.MARKET_LQ_CFG_SIZE_LOG2]; omega)) rfl (by decide : 5 ≤ 32))
    (hrd _ (not_cellRegs (by simp only [Fld.key, R.MARKET_LQ_PROD]; omega)) rfl (Nat.le_refl 32)) (hrd _ (not_cellRegs (by simp only [Fld.key, R.MARKET_LQ_CONS]; omega)) rfl (Nat.le_refl 32)) (by rw [hb])

theorem landingWritesAnswered_queues : ∀ (s : State) (i : Nat) (l : Landing) (tok q : Nat), s.mkt.landings[i]? = some l → l.pool = some (tok, q) → l.errs = 0 → l.counts = [] →
    s.lqIsFull q = false → ∃ t, exec (.landingWritesAnswered i) s = .next t ∧ t.mkt.landings = s.mkt.landings.eraseIdx i ∧
      t.mkt.pushes = s.mkt.pushes ++ [(q, tok, l.port)] := by
  intro s i l tok q hl hpool herr hcounts hfull
  obtain ⟨b, hb⟩ := landed_mkt s i l
  have hfull' := (landed_lqIsFull s i herr q).trans hfull
  have he : exec (.landingWritesAnswered i) s =
      .next ((landed s i l).setMkt { (landed s i l).mkt with pushes := (landed s i l).mkt.pushes ++ [(q, tok, l.port)] }) := by
    show execLandingWritesAnswered i s = _
    unfold execLandingWritesAnswered
    rw [hl]
    dsimp only
    rw [hpool, hcounts]
    dsimp only
    rw [if_neg (by simp [herr])]
    refine (if_neg ?_).trans ?_
    · rw [show ((s.setMkt { s.mkt with landings := s.mkt.landings.eraseIdx i }).cellsFree l.buf).add (R.MARKET_PORT_COUNT l.port 10) l.errs = landed s i l from rfl,
        hfull']
      exact Bool.false_ne_true
    · cases l.win <;> rfl
  refine ⟨_, he, ?_, ?_⟩
  · rw [State.setMkt_mkt, hb]
  · rw [State.setMkt_mkt, hb]

theorem exec_notifyDeadline {s : State} {g : Fin 64} {w : Fin 16} {ns : Fin 128} {sym : Fin 14} {x : MktPlan} {m : MktNotify}
    (hx : s.planOf g w = some x) (hm : x.note ns sym = some m) :
    exec (.notifyDeadline g w ns sym) s = .next (if passed s.tick m.deadline then s.lapseNote g w m else s) := by
  show execNotifyDeadline g w ns sym s = _
  unfold execNotifyDeadline
  rw [hx, Option.bind_some, hm]

theorem notifyDeadline_lapses : ∀ (s : State) (g : Fin 64) (w : Fin 16) (ns : Fin 128) (sym : Fin 14) (x : MktPlan) (m : MktNotify), s.planOf g w = some x →
    x.note ns sym = some m → m.sent = false → passed s.tick m.deadline = true → ∃ t, exec (.notifyDeadline g w ns sym) s = .next t ∧
      t.reeve.tokens = s.reeve.tokens ++ [⟨windowName g w m.index, true, 0xFFFF⟩] ∧
      t.rd R.MARKET_NOTIFY_LAPSED = (s.rd R.MARKET_NOTIFY_LAPSED + 1) % 2 ^ 32 := by
  intro s g w ns sym x m hx hm hsent hpass
  have he : exec (.notifyDeadline g w ns sym) s = .next ((s.sendNote g w m true).inc R.MARKET_NOTIFY_LAPSED) := by
    rw [exec_notifyDeadline hx hm, if_pos hpass, State.lapseNote, hsent]
    rfl
  refine ⟨_, he, ?_, ?_⟩
  · rw [State.inc_reeve]
    exact State.sendNote_tokens s g w m true
  · refine (State.inc_rd_same _ _).trans ?_
    rw [State.sendNote, State.sendToken_far _ _ _ R.MARKET_NOTIFY_LAPSED (by decide)]
    rfl

theorem notifyDeadline_none : ∀ (s : State) (g : Fin 64) (w : Fin 16) (ns : Fin 128) (sym : Fin 14) (x : MktPlan) (m : MktNotify), s.planOf g w = some x →
    x.note ns sym = some m → (m.sent = true ∨ passed s.tick m.deadline = false) → exec (.notifyDeadline g w ns sym) s = .next s := by
  intro s g w ns sym x m hx hm h
  rw [exec_notifyDeadline hx hm]
  rcases h with h | h
  · rw [State.lapseNote, if_pos h, ite_self]
  · rw [h]
    rfl

/-! ### Landing queues -/

theorem landingQueuePush_pushes : ∀ (s u : State) (q : Fin 64) (x : Nat × Nat × Nat), s.mkt.pushes.find? (fun x => x.1 == q.val) = some x →
    State.dmaWrite (s.setMkt { s.mkt with pushes := s.mkt.pushes.erase x }) marketMid
      (s.rd (R.MARKET_LQ_BASE_ADDR q) * 4 + s.rd (R.MARKET_LQ_PROD q) % s.lqSize q * 4) (clean (bytesOf32 x.2.1)) = (true, u) →
    ∃ t, exec (.landingQueuePush q) s = .next t ∧ t.ms = u.ms ∧ t.mkt.pushes = s.mkt.pushes.erase x ∧
      t.rd (R.MARKET_LQ_PROD q) = (s.rd (R.MARKET_LQ_PROD q) + 1) % 2 ^ 32 ∧
      (s.bit (R.MARKET_LQ_CFG_IRQ_EN q) = true → s.bit (R.MARKET_LQ_CFG_DEST q) = false → ⟨.landing, q⟩ ∈ t.hallIrq) := by
  intro s u q x hx hu
  have hq := q.isLt
  let t0 := s.setMkt { s.mkt with pushes := s.mkt.pushes.erase x }
  have hmkt : u.mkt = t0.mkt := by rw [← State.dmaWrite_mkt t0 marketMid, hu]
  have hfar : WritesIn memRegs s u := by
    have h := WritesIn.dmaWrite (WritesIn.setMkt (.refl memRegs s) { s.mkt with pushes := s.mkt.pushes.erase x }) marketMid
      (s.rd (R.MARKET_LQ_BASE_ADDR q) * 4 + s.rd (R.MARKET_LQ_PROD q) % s.lqSize q * 4) (clean (bytesOf32 x.2.1))
    rwa [hu] at h
  have hrd {f : Fld} (hf : 0x50000000 * 64 ≤ f.key) : u.rd f = s.rd f := hfar f (by simp only [memRegs, addrIn]; omega)
  have he : exec (.landingQueuePush q) s = .next (if (u.inc (R.MARKET_LQ_PROD q)).bit (R.MARKET_LQ_CFG_IRQ_EN q) then
      (if (u.inc (R.MARKET_LQ_PROD q)).bit (R.MARKET_LQ_CFG_DEST q) then (u.inc (R.MARKET_LQ_PROD q)).irqHost (256 + q) else (u.inc (R.MARKET_LQ_PROD q)).irq .landing q)
      else u.inc (R.MARKET_LQ_PROD q)) := by
    show execLandingQueuePush q s = _
    unfold execLandingQueuePush
    dsimp only
    rw [hx]
    dsimp only
    rw [hu]
    exact if_pos rfl
  have hbit (f : Fld) (hf : 0x50000000 * 64 ≤ f.key) (hne : f.key ≠ (R.MARKET_LQ_PROD q).key) : (u.inc (R.MARKET_LQ_PROD q)).bit f = s.bit f := by
    rw [State.bit_eq, State.inc_rd_ne _ _ _ hne, hrd hf, State.bit_eq]
  have hen := hbit (R.MARKET_LQ_CFG_IRQ_EN q) (by simp only [Fld.key, R.MARKET_LQ_CFG_IRQ_EN]; omega) (by simp only [Fld.key, R.MARKET_LQ_CFG_IRQ_EN, R.MARKET_LQ_PROD, ne_eq]; omega)
  have hdest := hbit (R.MARKET_LQ_CFG_DEST q) (by simp only [Fld.key, R.MARKET_LQ_CFG_DEST]; omega) (by simp only [Fld.key, R.MARKET_LQ_CFG_DEST, R.MARKET_LQ_PROD, ne_eq]; omega)
  have hprod : (u.inc (R.MARKET_LQ_PROD q)).rd (R.MARKET_LQ_PROD q) = (s.rd (R.MARKET_LQ_PROD q) + 1) % 2 ^ 32 := by
    rw [State.inc_rd_same, hrd (f := R.MARKET_LQ_PROD q) (by simp only [Fld.key, R.MARKET_LQ_PROD]; omega)]
    rfl
  rw [hen, hdest] at he
  refine ⟨_, he, ?_, ?_, ?_, ?_⟩
  · split_ifs
    · exact (State.irqHost_ms _ _).trans (State.inc_ms u (R.MARKET_LQ_PROD q))
    · exact State.inc_ms u (R.MARKET_LQ_PROD q)
    · exact State.inc_ms u (R.MARKET_LQ_PROD q)
  · have hm : (u.inc (R.MARKET_LQ_PROD q)).mkt.pushes = s.mkt.pushes.erase x := by rw [State.inc_mkt, hmkt]; rfl
    split_ifs
    · exact (congrArg Market.pushes (State.irqHost_mkt _ _)).trans hm
    · exact hm
    · exact hm
  · split_ifs
    · exact (State.rd_congr (State.irqHost_regs _ _) _).trans hprod
    · exact hprod
    · exact hprod
  · intro h1 h2
    rw [if_pos h1, h2, if_neg Bool.false_ne_true]
    exact State.mem_irqIf _ _ _

theorem lqConsWrite_moves : ∀ (s : State) (q : Fin 64) (v : Word), (v.toNat + 4294967296 - s.rd (R.MARKET_LQ_CONS q)) % 4294967296 ≤
      (s.rd (R.MARKET_LQ_PROD q) + 4294967296 - s.rd (R.MARKET_LQ_CONS q)) % 4294967296 → ∃ t, exec (.lqConsWrite q v) s = .next t ∧
    t.rd (R.MARKET_LQ_CONS q) = v.toNat ∧ sameRegs s t [R.MARKET_LQ_CONS q] ∧ t.ans = acked := by
  intro s q v h
  have he : exec (.lqConsWrite q v) s = .next (s.wr (R.MARKET_LQ_CONS q) v.toNat).ack := by
    show Host.Outcome.next (State.ack (if _ then _ else _)) = _
    rw [if_pos h]
  refine ⟨_, he, ?_, ((sameRegs.refl s _).wr (List.mem_singleton_self _) _).ack, rfl⟩
  exact (State.wr_rd_same s (R.MARKET_LQ_CONS q) _).trans (Nat.mod_eq_of_lt v.isLt)

theorem lqConsWrite_ignored : ∀ (s : State) (q : Fin 64) (v : Word), (s.rd (R.MARKET_LQ_PROD q) + 4294967296 - s.rd (R.MARKET_LQ_CONS q)) % 4294967296 <
      (v.toNat + 4294967296 - s.rd (R.MARKET_LQ_CONS q)) % 4294967296 → exec (.lqConsWrite q v) s = .next s.ack := by
  intro s q v h
  show Host.Outcome.next (State.ack (if _ then _ else _)) = _
  rw [if_neg (by omega)]

/-! ### Streams and planned egress -/

/-- One packet of a stream's burst takes its cells and is queued (R475). -/
def queuePacket (p tc size first : Nat) (template : List Nat) (t : State) (q : List Sample × Nat) : State :=
  (t.cellsTake none (cellsOf (size + 4)) 1).2.enqTx p
    { tc := tc,
      bytes := cellMarks (byteVals (clean (template ++ beBytes 4 ((first + q.2) % 4294967296)) ++ sampleBytes q.1))
        (((clean (template ++ beBytes 4 ((first + q.2) % 4294967296)) ++ sampleBytes q.1).zipIdx.filter (fun z => z.1.2)).map (fun z => z.2 / 8)),
      buf := (t.cellsTake none (cellsOf (size + 4)) 1).1 }

theorem queuePackets_sv {p tc size first : Nat} {template : List Nat} (l : List (List Sample × Nat)) (t : State) :
    (l.foldl (queuePacket p tc size first template) t).sv = t.sv := by
  induction l generalizing t with
  | nil => rfl
  | cons q l ih =>
    refine (ih _).trans ?_
    have h1 := keeps_cellsTake (.refl (partsBut .sv) t) (by decide) (by decide) (by decide) (by decide) (by decide) none (cellsOf (size + 4)) 1
    exact (keeps_enqTx h1 (by decide) (by decide) (by decide) (by decide) (by decide) p _).same_of_but

theorem streamTxBurst_sends : ∀ (s : State) (st : Fin 64) (o : SvOut) (spp : Nat), s.sv.out.find? (fun o => o.kind == 0 && o.port == st.val) = some o →
    s.bit (R.MARKET_STREAM_CFG_EN st) = true → s.bit (R.MARKET_STREAM_CFG_DIR st) = true → spp = s.rd (R.MARKET_STREAM_CFG_SPP st) → spp ≠ 0 →
    o.data.length % spp = 0 →
    s.cellsRoom none (o.data.length / spp * cellsOf ((s.mkt.streams.get st).template.length + 4 + 4 * spp + 4)) = true →
    ∃ t, exec (.streamTxBurst st) s = .next t ∧ t.sv.out = s.sv.out.erase o ∧
      (t.mkt.streams.get st).seq = some (((s.mkt.streams.get st).seq.getD (s.rd (R.MARKET_STREAM_ANCHOR_SEQ st)) + o.data.length / spp) % 4294967296) := by
  intro s st o spp ho hen hdir hspp hne hmod hroom
  let x := s.stream st
  let first := x.seq.getD (s.rd (R.MARKET_STREAM_ANCHOR_SEQ st))
  let t := ((packets spp (o.data.length / spp) o.data).zipIdx).foldl (queuePacket (s.rd (R.MARKET_STREAM_CFG_PORT st)) (s.rd (R.MARKET_STREAM_CFG_TC st))
    (x.template.length + 4 + 4 * spp) first x.template) { s with sv := { s.sv with out := s.sv.out.erase o } }
  have he : exec (.streamTxBurst st) s = .next (t.setStream st { x with seq := some ((first + o.data.length / spp) % 4294967296) }) := by
    show execStreamTxBurst st s = _
    unfold execStreamTxBurst
    dsimp only
    rw [ho]
    dsimp only
    rw [if_neg (by simp [hen, hdir]), if_neg (by rw [← hspp]; simp [hne, hmod]), ← hspp, if_neg (by rw [State.stream, hroom]; decide)]
    rfl
  refine ⟨_, he, congrArg Sieve.out (queuePackets_sv _ _), congrArg MktStream.seq (Tab.get_set_same _ _ _)⟩

theorem egressOpen_opens : ∀ (s : State) (g : Fin 64) (w : Fin 16) (i : Fin 4096) (e : MktOut), s.outOf g w i = some e → e.opened = false → passed s.tick e.open_ = true →
    s.mkt.queues.get e.port = [] → ∃ t, exec (.egressOpen g w i) s = .next t ∧ t.outOf g w i = some { e with opened := true } ∧ t.regs = s.regs := by
  intro s g w i e he hop hpass hq
  have hx : exec (.egressOpen g w i) s = .next (s.setOut g w { e with opened := true }) := by
    show execEgressOpen g w i s = _
    unfold execEgressOpen
    rw [he]
    dsimp only
    rw [hop, hpass, if_pos (by decide)]
    exact congrArg Host.Outcome.next (State.pump_nil hq)
  exact ⟨_, hx, State.outOf_setOut he rfl, rfl⟩

theorem marketTxReady_rings : ∀ (s : State) (v : Word) (e : MktOut), s.outOf (bitsOf v 16 6) (bitsOf v 12 4) (bitsOf v 0 12) = some e → e.done = false → e.rung = false →
    e.doorbell = true → ∃ t, exec (.marketTxReady v) s = .next t ∧
      t.outOf (bitsOf v 16 6) (bitsOf v 12 4) (bitsOf v 0 12) = some { e with rung := true } ∧ t.regs = s.regs ∧ t.ans = acked := by
  intro s v e he hdone hrung hdb
  have hx : exec (.marketTxReady v) s = .next (s.setOut (bitsOf v 16 6) (bitsOf v 12 4) { e with rung := true }).ack := by
    show execMarketTxReady v s = _
    unfold execMarketTxReady
    dsimp only
    rw [he]
    dsimp only
    rw [if_neg (by simp [hdone, hrung]), if_pos hdb]
  exact ⟨_, hx, (State.outOf_congr (congrArg Market.plans (State.ack_mkt _)) _ _ _).trans (State.outOf_setOut he rfl), rfl, rfl⟩

theorem marketTxReady_unplanned : ∀ (s : State) (v : Word), s.outOf (bitsOf v 16 6) (bitsOf v 12 4) (bitsOf v 0 12) = none →
    exec (.marketTxReady v) s = .next (s.inc R.MARKET_DROP_UNPLANNED).ack := by
  intro s v he
  show execMarketTxReady v s = _
  unfold execMarketTxReady
  dsimp only
  rw [he]

theorem cellsTake_cells {s : State} {n c : Nat} (h : s.cellsRoom none n = true) :
    (s.cellsTake none n c).2.rd R.MARKET_BUF_STATUS_CELLS = s.rd R.MARKET_BUF_STATUS_CELLS + n := by
  have hle : s.cellsUsed + n ≤ 65536 := by simpa [State.cellsRoom] using h
  rw [State.cellsTake, WritesIn.ledgerCount (P := ledgerRegs) (fun _ h => h) (.refl _ _) _ _ _ R.MARKET_BUF_STATUS_CELLS (not_ledgerRegs_of_ge (by decide)),
    State.add_rd_same]
  exact Nat.mod_eq_of_lt (Nat.lt_of_le_of_lt hle (by decide))

/-- The state in which an egress entry's frame starts: cells are taken, the entry is over. -/
def egressReady (u : State) (g w : Nat) (e : MktOut) : State :=
  (u.cellsTake none (cellsOf (max e.len 60 + 4)) 1).2.setOut g w { e with done := true }

/-- The frame of an egress entry (R477). -/
def egressFrame (u : State) (g w : Nat) (e : MktOut) (b : List (Nat × Bool)) : TxFrame :=
  { tc := e.tc, bytes := b, buf := (u.cellsTake none (cellsOf (max e.len 60 + 4)) 1).1, token := if e.release then some e.token else none, win := some (g, w) }

theorem egressReady_spec {u : State} {g w : Nat} {e : MktOut} (hroom : u.cellsRoom none (cellsOf (max e.len 60 + 4)) = true) :
    (egressReady u g w e).mkt.sec = u.mkt.sec ∧ (egressReady u g w e).stp = u.stp ∧
      (egressReady u g w e).rd R.MARKET_BUF_STATUS_CELLS = u.rd R.MARKET_BUF_STATUS_CELLS + cellsOf (max e.len 60 + 4) := by
  have hset (t : State) (x : MktOut) : (t.setOut g w x).mkt.sec = t.mkt.sec ∧ (t.setOut g w x).stp = t.stp ∧
      (t.setOut g w x).rd R.MARKET_BUF_STATUS_CELLS = t.rd R.MARKET_BUF_STATUS_CELLS := ⟨rfl, rfl, rfl⟩
  obtain ⟨h1, h2, h3⟩ := hset (u.cellsTake none (cellsOf (max e.len 60 + 4)) 1).2 { e with done := true }
  rw [egressReady, h1, h2, h3, State.cellsTake_mkt]
  exact ⟨rfl, (keeps_cellsTake (.refl (partsBut .stp) u) (by decide) (by decide) (by decide) (by decide) (by decide) none _ 1).same_of_but,
    cellsTake_cells hroom⟩

theorem egressStart_starts : ∀ (s u : State) (p : Fin 32) (g w : Nat) (e : MktOut) (b : List (Nat × Bool)), s.mktUp p = true → s.mkt.now.get p = none → s.msecOn p = false →
    s.nextOut p = some (g, w, e) → s.dmaRead marketMid e.src e.len = (some b, u) → u.cellsRoom none (cellsOf (max e.len 60 + 4)) = true →
    ∃ t x, exec (.egressStart p) s = .next t ∧ t.mkt.now.get p = some x ∧ x.win = some (g, w) ∧ x.pn = none ∧
      x.token = (if e.release then some e.token else none) ∧ s.wireNow ≤ x.ends ∧
      t.rd R.MARKET_BUF_STATUS_CELLS = s.rd R.MARKET_BUF_STATUS_CELLS + cellsOf (max e.len 60 + 4) := by
  intro s u p g w e b hup hnow hsec hnext hread hroom
  have hmkt : u.mkt = s.mkt := by rw [← State.dmaRead_mkt s marketMid e.src e.len, hread]
  have hstp : u.stp = s.stp := by rw [← State.dmaRead_stp s marketMid e.src e.len, hread]
  have hcells : u.rd R.MARKET_BUF_STATUS_CELLS = s.rd R.MARKET_BUF_STATUS_CELLS := by
    have h := WritesIn.dmaRead (.refl memRegs s) marketMid e.src e.len
    rw [hread] at h
    exact h _ (by simp only [memRegs, addrIn, Fld.key, R.MARKET_BUF_STATUS_CELLS]; omega)
  have he : exec (.egressStart p) s = .next ((egressReady u g w e).startFrame p (egressFrame u g w e b)) := by
    show execEgressStart p s = _
    unfold execEgressStart
    dsimp only
    rw [if_neg (by simp [hup, hnow]), hnext]
    dsimp only
    rw [hread]
    dsimp only
    rw [if_neg (by rw [hroom]; decide)]
    rfl
  obtain ⟨hrsec, hrstp, hrc⟩ := egressReady_spec (g := g) (w := w) hroom
  have hysec : (egressReady u g w e).msecOn p = false := by
    rw [State.msecOn, State.msec, hrsec, hmkt]
    exact hsec
  have hwire : (egressReady u g w e).wireNow = s.wireNow := by rw [State.wireNow, hrstp, hstp, State.wireNow]
  obtain ⟨x, hx, hwin, hpn, htok, hends, hc⟩ := State.startFrame_now (f := egressFrame u g w e b) hysec rfl rfl
  exact ⟨_, x, he, hx, hwin, hpn, htok, hwire ▸ hends, by rw [hc, hrc, hcells]⟩

/-- An entry that is withheld is over, and counted (R477). -/
theorem egressWithhold_withholds : ∀ (s : State) (g : Fin 64) (w : Fin 16) (i : Fin 4096) (e : MktOut), s.outOf g w i = some e → e.done = false → passed s.tick e.close = true →
    s.mkt.queues.get e.port = [] → ∃ t, exec (.egressWithhold g w i) s = .next t ∧ t.outOf g w i = some { e with done := true } ∧
      t.rd (R.MARKET_PORT_COUNT e.port 12) = (s.rd (R.MARKET_PORT_COUNT e.port 12) + 1) % 2 ^ 32 := by
  intro s g w i e he hdone hpass hq
  have hx : exec (.egressWithhold g w i) s = .next ((s.setOut g w { e with done := true }).portInc e.port 12) := by
    show execEgressWithhold g w i s = _
    unfold execEgressWithhold
    rw [he]
    dsimp only
    rw [hpass, if_pos rfl, State.withhold, hdone, if_neg Bool.false_ne_true]
    exact congrArg Host.Outcome.next (State.pump_nil ((congrArg (fun m : Market => m.queues.get e.port) (State.inc_mkt _ _)).trans hq))
  exact ⟨_, hx, (State.outOf_congr (congrArg Market.plans (State.inc_mkt _ _)) _ _ _).trans (State.outOf_setOut he rfl), State.inc_rd_same _ _⟩

/-! ### Departure, host queues, captures -/

/-- The frame of a port has left: its cells are free. -/
def departed (s : State) (p : Nat) (f : TxNow) : State :=
  (((s.setMkt { s.mkt with now := s.mkt.now.set p none }).send (.frame p f.out f.pn)).portInc p 11).cellsFree f.buf

theorem departed_spec (s : State) {p : Nat} (hp : p < 32) (f : TxNow) :
    (departed s p f).mkt.now = s.mkt.now.set p none ∧ (departed s p f).mkt.queues = s.mkt.queues ∧ (departed s p f).sent = s.sent ++ [.frame p f.out f.pn] ∧
      (departed s p f).rd (R.MARKET_PORT_COUNT p 11) = (s.rd (R.MARKET_PORT_COUNT p 11) + 1) % 2 ^ 32 := by
  let u := (((s.setMkt { s.mkt with now := s.mkt.now.set p none }).send (.frame p f.out f.pn)).portInc p 11)
  have hu : u.mkt = { s.mkt with now := s.mkt.now.set p none } := State.inc_mkt _ _
  obtain ⟨b, hb⟩ := State.cellsFree_mkt u f.buf
  refine ⟨?_, ?_, ?_, ?_⟩
  · rw [departed, hb, hu]
  · rw [departed, hb, hu]
  · rw [departed, State.cellsFree_sent]
    exact State.inc_sent _ _
  · rw [departed, State.cellsFree_rd (not_cellRegs (by simp only [Fld.key, R.MARKET_PORT_COUNT]; omega))]
    exact State.inc_rd_same _ _

theorem frameDeparture_departs : ∀ (s : State) (p : Fin 32) (f : TxNow), s.mkt.now.get p = some f → f.ends ≤ s.wireNow → s.mkt.queues.get p = [] →
    ∃ t, exec (.frameDeparture p) s = .next t ∧ t.mkt.now.get p = none ∧ t.sent = s.sent ++ [.frame p f.out f.pn] ∧
      t.rd (R.MARKET_PORT_COUNT p 11) = (s.rd (R.MARKET_PORT_COUNT p 11) + 1) % 2 ^ 32 := by
  intro s p f hnow hends hq
  have hp := p.isLt
  obtain ⟨hn, hqs, hs, hc⟩ := departed_spec s hp f
  let t := match f.token with | some k => (departed s p f).poolRelease (nbits k 24 7) k | none => departed s p f
  have ht : t.mkt = (departed s p f).mkt ∧ t.sent = (departed s p f).sent ∧
      t.rd (R.MARKET_PORT_COUNT p 11) = (departed s p f).rd (R.MARKET_PORT_COUNT p 11) := by
    cases hk : f.token with
    | none => simp only [t, hk, and_self]
    | some k =>
      simp only [t, hk]
      refine ⟨State.poolRelease_mkt _ _ _, State.poolRelease_sent _ _ _, ?_⟩
      refine State.poolRelease_far (p := nbits k 24 7) _ (Nat.mod_lt _ (by decide)) k _ ?_
      simp only [Fld.key, R.MARKET_PORT_COUNT]
      omega
  have he : exec (.frameDeparture p) s = .next t := by
    show execFrameDeparture p s = _
    unfold execFrameDeparture
    dsimp only
    rw [hnow]
    dsimp only
    rw [if_neg (by omega)]
    refine congrArg Host.Outcome.next (State.pump_nil (s := t) ?_)
    rw [ht.1, hqs, hq]
  refine ⟨t, he, ?_, ht.2.1.trans hs, ht.2.2.trans hc⟩
  rw [ht.1, hn]
  exact Tab.get_set_same _ _ _

theorem marketTxqPush_pushes : ∀ (s : State) (q : Fin 16) (v : Word), (s.mkt.txq.get q).length < 255 → ∃ t, exec (.marketTxqPush q v) s = .next t ∧
    t.mkt.txq.get q = s.mkt.txq.get q ++ [v.toNat] ∧ t.rd (R.MARKET_TXQ_LEVEL_LEVEL q) = (s.mkt.txq.get q).length + 1 ∧ t.ans = acked := by
  intro s q v h
  refine ⟨_, if_pos h, ?_, ?_, rfl⟩
  · rw [State.ack_mkt, State.wr_mkt]
    exact Tab.get_set_same _ _ _
  · rw [State.ack_rd, State.wr_rd_same]
    exact Nat.mod_eq_of_lt (show _ < 2 ^ 8 by omega)

/-- The oldest descriptor of a host queue is taken. -/
def popTxq (u : State) (q : Nat) (r : List Nat) : State := (u.setMkt { u.mkt with txq := u.mkt.txq.set q r }).wr (R.MARKET_TXQ_LEVEL_LEVEL q) r.length

theorem popTxq_spec (u : State) (q : Nat) (r : List Nat) : (popTxq u q r).mkt = { u.mkt with txq := u.mkt.txq.set q r } ∧
    (popTxq u q r).rd (R.MARKET_TXQ_LEVEL_LEVEL q) = r.length % 256 ∧ sameRegs u (popTxq u q r) [R.MARKET_TXQ_LEVEL_LEVEL q] :=
  ⟨State.wr_mkt _ _ _, State.wr_rd_same _ _ _, ((sameRegs.refl u _).of_regs (u := u.setMkt _) rfl).wr (List.mem_singleton_self _) _⟩

/-- What a host queue's frame finds: the descriptor is gone, cells are taken, ports are as they were. -/
theorem popTxq_cellsTake (u : State) (q : Nat) (r : List Nat) (tc : Option Nat) (n : Nat) :
    let t := ((popTxq u q r).cellsTake tc n 1).2
    t.mkt.txq = u.mkt.txq.set q r ∧ t.mkt.queues = u.mkt.queues ∧ t.rd (R.MARKET_TXQ_LEVEL_LEVEL q) = r.length % 256 ∧
      ∀ p < 32, t.mktUp p = u.mktUp p := by
  obtain ⟨hm, hl, hs⟩ := popTxq_spec u q r
  intro t
  have ht : t.mkt = _ := State.cellsTake_mkt (popTxq u q r) tc n 1
  have hrd {f : Fld} (hf : ¬ cellRegs f.key) : t.rd f = (popTxq u q r).rd f := State.cellsTake_rd hf
  refine ⟨by rw [ht, hm], by rw [ht, hm], (hrd (not_cellRegs (by simp only [Fld.key, R.MARKET_TXQ_LEVEL_LEVEL]; omega))).trans hl, fun p hp => ?_⟩
  have h1 : t.rd R.MARKET_CTRL_ENABLE = u.rd R.MARKET_CTRL_ENABLE := by
    have hc : ¬ cellRegs (R.MARKET_CTRL_ENABLE).key := by
      simp only [cellRegs, ledgerRegs, addrIn, Fld.key, R.TALLY_STATUS_FAULT, R.TALLY_FAULT_LAST_ID, R.TALLY_FAULT_COUNT_COUNT,
        R.MARKET_BUF_STATUS_CELLS, R.MARKET_CTRL_ENABLE]
      omega
    rw [hrd hc, hs R.MARKET_CTRL_ENABLE (by simp only [List.mem_cons, List.not_mem_nil, or_false, forall_eq, Fld.key, R.MARKET_CTRL_ENABLE, R.MARKET_TXQ_LEVEL_LEVEL, ne_eq]; omega)]
  have h2 : t.rd (R.MARKET_PORT_STATUS_STATE p) = u.rd (R.MARKET_PORT_STATUS_STATE p) := by
    rw [hrd (not_cellRegs (by simp only [Fld.key, R.MARKET_PORT_STATUS_STATE]; omega)), hs _ (by simp only [List.mem_cons, List.not_mem_nil, or_false, forall_eq, Fld.key, R.MARKET_PORT_STATUS_STATE, R.MARKET_TXQ_LEVEL_LEVEL, ne_eq]; omega)]
  rw [State.mktUp, State.bit_eq, h1, State.mktPort, h2, State.mktUp, State.bit_eq, State.mktPort]

/-- The frame that a descriptor of a host queue names (R488). -/
def hostFrame (w : List Nat) (b : List (Nat × Bool)) (buf : Nat) : TxFrame :=
  { tc := nbits (w.getD 2 0) 29 3, bytes := b, buf := buf, token := if nbit (w.getD 2 0) 26 then some (w.getD 3 0) else none,
    oneStep := nbit (w.getD 2 0) 28, capture := nbit (w.getD 2 0) 27, tag := nbits (w.getD 2 0) 0 16 }

/-- With its descriptor read, the frame that the descriptor names is read and queued (R488); `words` gives the descriptor's words, which the
kernel is not to compute. -/
def hostRead (words : Nat → List Nat → List Nat) (s : State) (t : Nat) (r : List Nat) (x : Option (List (Nat × Bool)) × State) : Outc :=
  let pop := fun (u : State) => (u.setMkt { u.mkt with txq := u.mkt.txq.set t r }).wr (R.MARKET_TXQ_LEVEL_LEVEL t) r.length
  match x.1 with
  | none => .next (pop x.2)
  | some db =>
    let w := words 4 (byteVals db)
    let w1 := w.getD 1 0
    let w2 := w.getD 2 0
    let len := nbits w1 0 14
    let tc := nbits w2 29 3
    let p := nbits w1 16 5
    let y := x.2.dmaRead marketMid (nbits w1 24 8 * 2 ^ 32 + w.getD 0 0) len
    match y.1 with
    | none => .next (pop y.2)
    | some b =>
      if !y.2.cellsRoom (some tc) (cellsOf (max len 60 + 4)) then .next s
      else
        let z := (pop y.2).cellsTake (some tc) (cellsOf (max len 60 + 4)) 1
        .next (z.2.enqTx p { tc := tc, bytes := b, buf := z.1, token := if nbit w2 26 then some (w.getD 3 0) else none, oneStep := nbit w2 28,
                               capture := nbit w2 27, tag := nbits w2 0 16 })

theorem execHostFrameSend_eq (s : State) (q : Fin 16) : execHostFrameSend q s = match s.mkt.txq.get q with
    | [] => .next s
    | a :: r => hostRead le32 s q r (s.dmaRead marketMid (a / 16 * 16) 16) := rfl

/-- A host queue's frame is read, its cells are had: it is queued at its port. -/
theorem hostRead_queues {s u v : State} {t : Nat} {r w : List Nat} {d b : List (Nat × Bool)} {words : Nat → List Nat → List Nat}
    (hw : words 4 (byteVals d) = w)
    (hread : u.dmaRead marketMid (nbits (w.getD 1 0) 24 8 * 2 ^ 32 + w.getD 0 0) (nbits (w.getD 1 0) 0 14) = (some b, v))
    (hroom : v.cellsRoom (some (nbits (w.getD 2 0) 29 3)) (cellsOf (max (nbits (w.getD 1 0) 0 14) 60 + 4)) = true) :
    hostRead words s t r (some d, u) =
      .next (((popTxq v t r).cellsTake (some (nbits (w.getD 2 0) 29 3)) (cellsOf (max (nbits (w.getD 1 0) 0 14) 60 + 4)) 1).2.enqTx
        (nbits (w.getD 1 0) 16 5) (hostFrame w b
          ((popTxq v t r).cellsTake (some (nbits (w.getD 2 0) 29 3)) (cellsOf (max (nbits (w.getD 1 0) 0 14) 60 + 4)) 1).1)) := by
  simp only [hostRead, popTxq, hostFrame, hw, hread, hroom, Bool.not_true, Bool.false_eq_true, if_false]

theorem exec_hostFrameSend {s u v : State} {q : Fin 16} {a : Nat} {r w : List Nat} {d b : List (Nat × Bool)} (hq : s.mkt.txq.get q = a :: r)
    (hread : s.dmaRead marketMid (a / 16 * 16) 16 = (some d, u)) (hw : le32 4 (byteVals d) = w)
    (hread2 : u.dmaRead marketMid (nbits (w.getD 1 0) 24 8 * 2 ^ 32 + w.getD 0 0) (nbits (w.getD 1 0) 0 14) = (some b, v))
    (hroom : v.cellsRoom (some (nbits (w.getD 2 0) 29 3)) (cellsOf (max (nbits (w.getD 1 0) 0 14) 60 + 4)) = true) :
    exec (.hostFrameSend q) s =
      .next (((popTxq v q r).cellsTake (some (nbits (w.getD 2 0) 29 3)) (cellsOf (max (nbits (w.getD 1 0) 0 14) 60 + 4)) 1).2.enqTx
        (nbits (w.getD 1 0) 16 5) (hostFrame w b
          ((popTxq v q r).cellsTake (some (nbits (w.getD 2 0) 29 3)) (cellsOf (max (nbits (w.getD 1 0) 0 14) 60 + 4)) 1).1)) := by
  refine (execHostFrameSend_eq s q).trans ?_
  rw [hq]
  dsimp only
  rw [hread]
  exact hostRead_queues hw hread2 hroom

theorem hostFrameSend_queues : ∀ (s u v : State) (q : Fin 16) (a : Nat) (r : List Nat) (d b : List (Nat × Bool)) (w : List Nat), s.mkt.txq.get q = a :: r →
    s.dmaRead marketMid (a / 16 * 16) 16 = (some d, u) → w = le32 4 (byteVals d) →
    u.dmaRead marketMid (nbits (w.getD 1 0) 24 8 * 2 ^ 32 + w.getD 0 0) (nbits (w.getD 1 0) 0 14) = (some b, v) →
    v.cellsRoom (some (nbits (w.getD 2 0) 29 3)) (cellsOf (max (nbits (w.getD 1 0) 0 14) 60 + 4)) = true →
    s.mktUp (nbits (w.getD 1 0) 16 5) = false → ∃ t f, exec (.hostFrameSend q) s = .next t ∧ t.mkt.txq.get q = r ∧
      t.rd (R.MARKET_TXQ_LEVEL_LEVEL q) = r.length % 256 ∧
      t.mkt.queues.get (nbits (w.getD 1 0) 16 5) = s.mkt.queues.get (nbits (w.getD 1 0) 16 5) ++ [f] ∧ f.bytes = b ∧ f.tc = nbits (w.getD 2 0) 29 3 := by
  intro s u v q a r d b w hq hread hw hread2 hroom hup
  have hq16 := q.isLt
  have hfar {x y z : State} {l : Option (List (Nat × Bool))} {m : Mid} {i n : Nat} (h : x.dmaRead m i n = (l, y)) {f : Fld}
      (hf : 0x50000000 * 64 ≤ f.key) : y.rd f = x.rd f := by
    have hx := WritesIn.dmaRead (.refl memRegs x) m i n
    rw [h] at hx
    exact hx f (by simp only [memRegs, addrIn]; omega)
  have hmkt {x y : State} {l : Option (List (Nat × Bool))} {m : Mid} {i n : Nat} (h : x.dmaRead m i n = (l, y)) : y.mkt = x.mkt := by
    rw [← State.dmaRead_mkt x m i n, h]
  have hp : nbits (w.getD 1 0) 16 5 < 32 := Nat.mod_lt _ (by decide)
  have he := exec_hostFrameSend hq hread hw.symm hread2 hroom
  clear hw
  obtain ⟨htxq, hqs, hlev, hups⟩ := popTxq_cellsTake v q r (some (nbits (w.getD 2 0) 29 3)) (cellsOf (max (nbits (w.getD 1 0) 0 14) 60 + 4))
  have hvm : v.mkt = s.mkt := (hmkt hread2).trans (hmkt hread)
  have hvup : v.mktUp (nbits (w.getD 1 0) 16 5) = false := by
    have h1 : v.rd R.MARKET_CTRL_ENABLE = s.rd R.MARKET_CTRL_ENABLE := (hfar (z := s) hread2 (by decide)).trans (hfar (z := s) hread (by decide))
    have h2 : v.rd (R.MARKET_PORT_STATUS_STATE (nbits (w.getD 1 0) 16 5)) = s.rd (R.MARKET_PORT_STATUS_STATE (nbits (w.getD 1 0) 16 5)) :=
      (hfar (z := s) hread2 (by simp only [Fld.key, R.MARKET_PORT_STATUS_STATE]; omega)).trans (hfar (z := s) hread (by simp only [Fld.key, R.MARKET_PORT_STATUS_STATE]; omega))
    rw [State.mktUp, State.bit_eq, h1, State.mktPort, h2]
    exact hup
  rw [State.enqTx_notUp _ ((hups _ hp).trans hvup)] at he
  generalize (popTxq v q r).cellsTake (some (nbits (w.getD 2 0) 29 3)) (cellsOf (max (nbits (w.getD 1 0) 0 14) 60 + 4)) 1 = z at he htxq hqs hlev
  refine ⟨_, hostFrame w b z.1, he, ?_, hlev, ?_, rfl, rfl⟩
  · rw [State.setMkt_mkt, htxq]
    exact Tab.get_set_same _ _ _
  · rw [State.setMkt_mkt, hqs, hvm]
    exact Tab.get_set_same _ _ _

theorem marketTsPop_pops : ∀ (s : State) (p : Fin 32) (v : Word), ∃ t, exec (.marketTsPop p v) s = .next t ∧ t.mkt.caps.get p = (s.mkt.caps.get p).tail ∧
    t.rd (R.MARKET_TS_CAP p 0) = (((s.mkt.caps.get p).tail).headD (0, 0, 0, 0)).1 % 2 ^ 32 ∧ t.ans = acked := by
  intro s p v
  refine ⟨_, rfl, ?_, ?_, rfl⟩
  · rw [State.ack_mkt, State.showCaps]
    simp only [State.wr_mkt]
    exact Tab.get_set_same _ _ _
  · rw [State.ack_rd, State.showCaps]
    have hne (i : Nat) (hi : i ≠ 0) : (R.MARKET_TS_CAP p 0).key ≠ (R.MARKET_TS_CAP p i).key := (by simp only [Fld.key, R.MARKET_TS_CAP, ne_eq]; omega)
    dsimp only
    rw [State.wr_rd_ne _ _ _ _ (hne 3 (by decide)), State.wr_rd_ne _ _ _ _ (hne 2 (by decide)), State.wr_rd_ne _ _ _ _ (hne 1 (by decide))]
    exact State.wr_rd_same _ _ _

theorem marketTsCap3Read_reads : ∀ (s : State) (p : Fin 32), ∃ t, exec (.marketTsCap3Read p) s = .next t ∧ t.rd (R.MARKET_PTP_CFG_TS_OVERFLOW p) = 0 ∧
    t.ans = ⟨.ok, 0, [⟨BitVec.ofNat 64 (s.rd (R.MARKET_TS_CAP p 3)), false⟩]⟩ ∧ sameRegs s t [R.MARKET_PTP_CFG_TS_OVERFLOW p] ∧ t.mkt = s.mkt := fun s p =>
  ⟨_, rfl, State.wr_rd_same s (R.MARKET_PTP_CFG_TS_OVERFLOW p) 0, rfl, ((sameRegs.refl s _).wr (List.mem_singleton_self _) _).reply _, rfl⟩

theorem marketPortStatusRead_reads : ∀ (s : State) (p : Fin 32), ∃ t, exec (.marketPortStatusRead p) s = .next t ∧ t.rd (R.MARKET_PORT_STATUS_TXQ_FULL p) = 0 ∧
    t.ans = ⟨.ok, 0, [⟨BitVec.ofNat 64 (s.rd (R.MARKET_PORT_STATUS_STATE p) * 2 ^ 30 + s.rd (R.MARKET_PORT_STATUS_CFG_ERR p) * 2 ^ 29 +
      s.rd (R.MARKET_PORT_STATUS_TXQ_FULL p) * 2 ^ 28 + s.rd (R.MARKET_PORT_STATUS_FEC_LOCK p) * 2 ^ 27), false⟩]⟩ ∧
    sameRegs s t [R.MARKET_PORT_STATUS_TXQ_FULL p] := fun s p =>
  ⟨_, rfl, State.wr_rd_same s (R.MARKET_PORT_STATUS_TXQ_FULL p) 0, rfl, ((sameRegs.refl s _).wr (List.mem_singleton_self _) _).reply _⟩

/-! ### The sweep -/

/-- The sweep of window `w` of group `g` has touched no other window's plan and no landing. -/
def sweepKeeps (g w : Nat) (s t : State) : Prop :=
  t.mkt.plans.filter (fun y => !y.isOf g w) = s.mkt.plans.filter (fun y => !y.isOf g w) ∧ t.mkt.landings = s.mkt.landings

section
variable {g w : Nat} {s t u : State}

theorem sweepKeeps.of_mkt (h : sweepKeeps g w s t) (hp : u.mkt.plans = t.mkt.plans) (hl : u.mkt.landings = t.mkt.landings) : sweepKeeps g w s u :=
  ⟨by rw [hp]; exact h.1, hl.trans h.2⟩

theorem sweepKeeps.onPlan (h : sweepKeeps g w s t) {f : MktPlan → MktPlan} (hf : ∀ y, (f y).isOf g w = y.isOf g w) : sweepKeeps g w s (t.onPlan g w f) := by
  refine ⟨Eq.trans ?_ h.1, h.2⟩
  rw [State.onPlan, State.setMkt_mkt]
  dsimp only
  generalize t.mkt.plans = l
  induction l with
  | nil => rfl
  | cons y l ih =>
    rw [List.map_cons]
    by_cases hy : y.isOf g w = true
    · rw [if_pos hy, List.filter_cons_of_neg (by rw [hf, hy]; decide), List.filter_cons_of_neg (by rw [hy]; decide), ih]
    · rw [if_neg hy, List.filter_cons_of_pos (by simpa using hy), List.filter_cons_of_pos (by simpa using hy), ih]

theorem sweepKeeps.lapseNote (h : sweepKeeps g w s t) (n : MktNotify) : sweepKeeps g w s (t.lapseNote g w n) := by
  have h1 : sweepKeeps g w s (t.onPlan g w (fun x => x.setNote { n with sent := true })) := h.onPlan fun _ => rfl
  have hm : ((t.sendNote g w n true).inc R.MARKET_NOTIFY_LAPSED).mkt = (t.onPlan g w (fun x => x.setNote { n with sent := true })).mkt :=
    (State.inc_mkt _ _).trans (State.sendNote_mkt _ _ _ _ _)
  unfold State.lapseNote
  split
  · exact h
  · exact h1.of_mkt (congrArg Market.plans hm) (congrArg Market.landings hm)

theorem sweepKeeps.withhold (h : sweepKeeps g w s t) (e : MktOut) : sweepKeeps g w s (t.withhold g w e) := by
  have h1 : sweepKeeps g w s (t.setOut g w { e with done := true }) := h.onPlan (MktPlan.setOut_isOf _ g w)
  unfold State.withhold
  split
  · exact h
  · exact h1.of_mkt (congrArg Market.plans (State.inc_mkt _ _)) (congrArg Market.landings (State.inc_mkt _ _))

theorem sweepKeeps.drop (h : sweepKeeps g w s t) (i : Nat) : sweepKeeps g w s ((t.cellsFree i).inc R.MARKET_SWEEP_DROPPED) := by
  obtain ⟨b, hb⟩ := State.cellsFree_mkt t i
  have hm := (State.inc_mkt (t.cellsFree i) R.MARKET_SWEEP_DROPPED).trans hb
  exact h.of_mkt (by rw [hm]) (by rw [hm])

theorem sweepKeeps.foldl {α : Type} {f : State → α → State} (hf : ∀ t a, sweepKeeps g w s t → sweepKeeps g w s (f t a)) (l : List α)
    (h : sweepKeeps g w s t) : sweepKeeps g w s (l.foldl f t) := by
  induction l generalizing t with
  | nil => exact h
  | cons a l ih => exact ih (hf t a h)

end

/-- A sweep drops the frame of window `w` that port `p` is still sending (R480). -/
def sweepPort (g w : Nat) (t : State) (p : Nat) : State :=
  match t.mkt.now.get p with
  | some f => if f.win = some (g, w) ∧ t.wireNow < f.ends then
      ((t.setMkt { t.mkt with now := t.mkt.now.set p none }).cellsFree f.buf).inc R.MARKET_SWEEP_DROPPED else t
  | none => t

theorem sweepKeeps.port {g w : Nat} {s t : State} (h : sweepKeeps g w s t) (p : Nat) : sweepKeeps g w s (sweepPort g w t p) := by
  unfold sweepPort
  split
  · split
    · exact sweepKeeps.drop (h.of_mkt (u := t.setMkt { t.mkt with now := t.mkt.now.set p none }) rfl rfl) _
    · exact h
  · exact h

/-- The window's entries are over: its tokens lapse, its entries are withheld, its frames leave the cells. -/
def swept (s : State) (g w : Nat) (x : MktPlan) : State :=
  let b := x.outs.foldl (fun t e => t.withhold g w e) (x.notes.foldl (fun t n => t.lapseNote g w n) s)
  (List.range 32).foldl (sweepPort g w)
    ((b.mkt.landings.filter (fun l => l.win == some (g, w))).foldl (fun t l => (t.cellsFree l.buf).inc R.MARKET_SWEEP_DROPPED) b)

theorem swept_keeps (s : State) (g w : Nat) (x : MktPlan) : sweepKeeps g w s (swept s g w x) :=
  sweepKeeps.foldl (fun _ p h => h.port p) _ (sweepKeeps.foldl (fun _ l h => h.drop l.buf) _ (sweepKeeps.foldl (fun _ e h => h.withhold e) _
    (sweepKeeps.foldl (fun _ n h => h.lapseNote n) _ ⟨rfl, rfl⟩)))

theorem marketSweep_sweeps : ∀ (s : State) (g : Fin 64) (w : Fin 16) (x : MktPlan), s.planOf g w = some x → s.reached x.sweepNs = true →
    ∃ t, exec (.marketSweep g w) s = .next t ∧ t.mkt.plans = s.mkt.plans.filter (fun y => !y.isOf g w) ∧
      t.mkt.landings = s.mkt.landings.filter (fun l => !(l.win == some (g.val, w.val))) := by
  intro s g w x hx hr
  have he : exec (.marketSweep g w) s = .next ((swept s g w x).setMkt { (swept s g w x).mkt with
      plans := (swept s g w x).mkt.plans.filter (fun y => !y.isOf g w),
      landings := (swept s g w x).mkt.landings.filter (fun l => !(l.win == some (g.val, w.val))) }) := by
    show execMarketSweep g w s = _
    unfold execMarketSweep swept
    dsimp only
    rw [hx]
    dsimp only
    rw [if_neg (by rw [hr]; decide)]
    refine congrArg (fun d : State => Host.Outcome.next (d.setMkt { d.mkt with
      plans := d.mkt.plans.filter (fun y => !y.isOf g w), landings := d.mkt.landings.filter (fun l => !(l.win == some (g.val, w.val))) })) ?_
    refine congrArg (fun f => List.foldl f _ (List.range 32)) ?_
    funext t p
    unfold sweepPort
    cases t.mkt.now.get p <;> rfl
  obtain ⟨hp, hl⟩ := swept_keeps s g w x
  generalize swept s g w x = d at he hp hl
  exact ⟨_, he, hp, congrArg (List.filter _) hl⟩

theorem marketSweep_none : ∀ (s : State) (g : Fin 64) (w : Fin 16), s.planOf g w = none → exec (.marketSweep g w) s = .next s := by
  intro s g w hx
  show execMarketSweep g w s = _
  unfold execMarketSweep
  dsimp only
  rw [hx]

/-- Settles O45: each clause is a lemma above about one command. -/
theorem marketLandingEgressAndQueues : Obligations.MarketLandingEgressAndQueues :=
  ⟨landingWritesAnswered_notifies, landingWritesAnswered_queues, notifyDeadline_lapses, notifyDeadline_none, landingQueuePush_pushes, lqConsWrite_moves,
    lqConsWrite_ignored, streamTxBurst_sends, egressOpen_opens, marketTxReady_rings, marketTxReady_unplanned, egressStart_starts,
    egressWithhold_withholds, frameDeparture_departs, marketTxqPush_pushes, hostFrameSend_queues, marketTsPop_pops, marketTsCap3Read_reads,
    marketPortStatusRead_reads, marketSweep_sweeps, marketSweep_none⟩

end Sys2Proof.Claims

/-! ## O46: the host link, functions, settings and outbound requests -/

namespace Sys2Proof.Machine

set_option Elab.async false

open Sys2Proof.Claims

section
variable (s : State)

@[simp] theorem State.setHost_host (h : HostIf) : (s.setHost h).host = h := rfl
@[simp] theorem State.setHost_rd (h : HostIf) (f : Fld) : (s.setHost h).rd f = s.rd f := rfl
@[simp] theorem State.setHost_regs (h : HostIf) : (s.setHost h).regs = s.regs := rfl

/-- A register once a range of registers is back at its reset values. -/
theorem State.clearRange_rd (a b : Nat) (h : HostIf) (f : Fld) :
    State.rd { s with regs := s.regs.clearRange a b, host := h } f = if a * 64 ≤ f.key ∧ f.key < b * 64 then f.reset % 2 ^ f.w else s.rd f := by
  show ((s.regs.tab.clear (fun k => decide (a * 64 ≤ k) && decide (k < b * 64))).get f.key).getD f.reset % 2 ^ f.w = _
  rw [Tab.get_clear]
  by_cases hk : a * 64 ≤ f.key ∧ f.key < b * 64
  · rw [if_pos (by simpa using hk), if_pos hk]
    rfl
  · rw [if_neg (by simpa using hk), if_neg hk]
    rfl

theorem State.stopFn_busMaster (fn f : Nat) : (s.stopFn fn).busMaster f = (s.busMaster f && f != fn) := by
  rw [State.busMaster, State.busMaster, State.stopFn, State.setHost_host]
  by_cases h : f = fn
  · subst h
    simp
  · simp [h]

theorem State.stopFn_stopped (fn f : Nat) : f ∈ (s.stopFn fn).host.stopped ↔ f = fn ∨ f ∈ s.host.stopped := by
  rw [State.stopFn, State.setHost_host, List.mem_cons, List.mem_filter]
  by_cases h : f = fn
  · simp [h]
  · simp [h]

end

end Sys2Proof.Machine

namespace Sys2Proof.Claims

set_option Elab.async false

open Sys2Proof.Machine

/-! ### Link and configuration -/

theorem pcieLinkUp_up : ∀ (s : State) (v : Fin 8) (w : Fin 32), ∃ t, exec (.pcieLinkUp v w) s = .next t ∧ t.rd R.HOST_STATUS_LINK_UP = 1 ∧
    t.rd R.HOST_STATUS_SPEED = v ∧ t.rd R.HOST_STATUS_WIDTH = w ∧
    sameRegs s t [R.HOST_STATUS_LINK_UP, R.HOST_STATUS_SPEED, R.HOST_STATUS_WIDTH] := by
  intro s v w
  refine ⟨_, rfl, ?_, ?_, ?_, (((sameRegs.refl s _).wr (by simp) 1).wr (by simp) v.val).wr (by simp) w.val⟩
  · rw [State.wr_rd_ne _ _ _ _ (by decide), State.wr_rd_ne _ _ _ _ (by decide)]
    exact State.wr_rd_same _ _ _
  · rw [State.wr_rd_ne _ _ _ _ (by decide), State.wr_rd_same]
    exact Nat.mod_eq_of_lt v.isLt
  · rw [State.wr_rd_same]
    exact Nat.mod_eq_of_lt w.isLt

theorem pcieLinkDown_down : ∀ (s : State), ∃ t, exec .pcieLinkDown s = .next t ∧ t.rd R.HOST_STATUS_LINK_UP = 0 ∧ t.host = s.host ∧
    sameRegs s t [R.HOST_STATUS_LINK_UP, R.HOST_STATUS_SPEED, R.HOST_STATUS_WIDTH] := by
  intro s
  refine ⟨_, rfl, ?_, rfl, (((sameRegs.refl s _).wr (by simp) 0).wr (by simp) 0).wr (by simp) 0⟩
  rw [State.wr_rd_ne _ _ _ _ (by decide), State.wr_rd_ne _ _ _ _ (by decide)]
  exact State.wr_rd_same _ _ _

theorem hostConfigRequest_retry : ∀ (s : State) (fn : Fin 256) (r : ConfigReq), s.hostBoot = 0 → ∃ t, exec (.hostConfigRequest fn r) s = .next t ∧
    t.sent = s.sent ++ [.cpl fn .crs [] false] ∧ t.host = s.host := by
  intro s fn r h
  have ha : s.configAnswer fn = .crs := by rw [State.configAnswer, if_pos h]
  have he : exec (.hostConfigRequest fn r) s = .next (s.send (.cpl fn .crs [] false)) := by
    show execHostConfigRequest fn r s = _
    unfold execHostConfigRequest
    dsimp only
    rw [ha, if_pos (by decide)]
  exact ⟨_, he, rfl, rfl⟩

theorem hostConfigRequest_busMaster : ∀ (s : State) (fn : Fin 256) (on : Bool), s.configAnswer fn = .sc → ∃ t, exec (.hostConfigRequest fn (.busMaster on)) s = .next t ∧
    t.sent = s.sent ++ [.cpl fn .sc [] false] ∧ t.busMaster fn = on ∧ (on = true → fn.val ∉ t.host.stopped) ∧
    (∀ f, f ≠ fn.val → t.busMaster f = s.busMaster f) := by
  intro s fn on ha
  let u := s.send (.cpl fn .sc [] false)
  cases on with
  | true =>
    have he : exec (.hostConfigRequest fn (.busMaster true)) s = .next (u.setHost { u.host with
        master := fn.val :: u.host.master.filter (· != fn.val), stopped := u.host.stopped.filter (· != fn.val) }) := by
      show execHostConfigRequest fn (.busMaster true) s = _
      unfold execHostConfigRequest
      dsimp only
      rw [ha, if_neg (by decide), if_pos rfl]
    refine ⟨_, he, rfl, ?_, fun _ => ?_, fun f hf => ?_⟩
    · simp [State.busMaster]
    · simp
    · simp [State.busMaster, hf, u, State.send]
  | false =>
    have he : exec (.hostConfigRequest fn (.busMaster false)) s = .next (u.setHost { u.host with master := u.host.master.filter (· != fn.val) }) := by
      show execHostConfigRequest fn (.busMaster false) s = _
      unfold execHostConfigRequest
      dsimp only
      rw [ha, if_neg (by decide), if_neg Bool.false_ne_true]
    refine ⟨_, he, rfl, ?_, fun h => absurd h Bool.false_ne_true, fun f hf => ?_⟩
    · simp [State.busMaster]
    · simp [State.busMaster, hf, u, State.send]

/-! ### Functions and their resets -/

theorem functionLevelReset_one : ∀ (s : State) (fn : Fin 256), ∃ t, exec (.functionLevelReset fn false) s = .next t ∧ t.busMaster fn = false ∧ fn.val ∈ t.host.stopped ∧
    (∀ f, f ≠ fn.val → t.busMaster f = s.busMaster f) ∧ t.regs = s.regs := by
  intro s fn
  refine ⟨s.stopFn fn, rfl, ?_, ?_, fun f hf => ?_, rfl⟩
  · simp [State.stopFn_busMaster]
  · simp [State.stopFn_stopped]
  · simp [State.stopFn_busMaster, hf]

/-- One VF of PF2 is reset (R510). -/
def resetVf (t : State) (v : Nat) : State := (t.stopFn (0x50 + v)).wr (R.HOST_PF2_VF_STOOLS_STATE v) 0

theorem vfKey_ne {v w : Nat} (h : v ≠ w) : (R.HOST_PF2_VF_STOOLS_STATE v).key ≠ (R.HOST_PF2_VF_STOOLS_STATE w).key := (by simp only [Fld.key, R.HOST_PF2_VF_STOOLS_STATE, ne_eq]; omega)

theorem resetVfs_spec (l : List Nat) (s : State) (v : Nat) (h : v ∈ l ∨ (s.vfSt v = 0 ∧ s.busMaster (0x50 + v) = false ∧ 0x50 + v ∈ s.host.stopped)) :
    (l.foldl resetVf s).vfSt v = 0 ∧ (l.foldl resetVf s).busMaster (0x50 + v) = false ∧ 0x50 + v ∈ (l.foldl resetVf s).host.stopped := by
  induction l generalizing s with
  | nil => exact h.resolve_left List.not_mem_nil
  | cons w l ih =>
    refine ih _ ?_
    have hm (f : Nat) : (resetVf s w).busMaster f = (s.stopFn (0x50 + w)).busMaster f := rfl
    have hs : (resetVf s w).host = (s.stopFn (0x50 + w)).host := rfl
    by_cases hw : v = w
    · subst hw
      exact .inr ⟨State.wr_rd_same _ _ _, by rw [hm, State.stopFn_busMaster]; simp, by rw [hs, State.stopFn_stopped]; exact .inl rfl⟩
    · refine h.imp (fun hv => (List.mem_cons.mp hv).resolve_left hw) fun ⟨h1, h2, h3⟩ => ⟨?_, ?_, ?_⟩
      · exact (State.wr_rd_ne _ _ _ _ (vfKey_ne hw)).trans h1
      · rw [hm, State.stopFn_busMaster, h2, Bool.false_and]
      · rw [hs, State.stopFn_stopped]
        exact .inr h3

theorem functionLevelReset_pf2 : ∀ (s : State), ∃ t, exec (.functionLevelReset 2 true) s = .next t ∧ t.host.vf2 = false ∧
    (∀ v < 16, t.vfSt v = 0 ∧ t.busMaster (0x50 + v) = false ∧ 0x50 + v ∈ t.host.stopped) := by
  intro s
  have hv (v : Nat) (hv : v < 16) := resetVfs_spec (List.range 16) s v (.inl (List.mem_range.mpr hv))
  have he : exec (.functionLevelReset 2 true) s =
      .next (((List.range 16).foldl resetVf s).setHost { ((List.range 16).foldl resetVf s).host with vf2 := false }) := by
    show execFunctionLevelReset 2 true s = _
    unfold execFunctionLevelReset
    dsimp only
    rw [if_neg (by decide), if_neg (by decide), if_pos (by decide)]
    rfl
  generalize (List.range 16).foldl resetVf s = u at he hv
  exact ⟨_, he, rfl, hv⟩

/-- VF `v` of PF2 enters its first state. -/
def startVf (s t : State) (v : Nat) : State := t.wr (R.HOST_PF2_VF_STOOLS_STATE v) (if s.vfMask v = [] then 3 else 1)

theorem startVfs_spec (s : State) (l : List Nat) (t : State) (v : Nat) (h : v ∈ l ∨ t.vfSt v = if s.vfMask v = [] then 3 else 1) :
    (l.foldl (startVf s) t).vfSt v = if s.vfMask v = [] then 3 else 1 := by
  induction l generalizing t with
  | nil => exact h.resolve_left List.not_mem_nil
  | cons w l ih =>
    refine ih _ ?_
    by_cases hw : v = w
    · subst hw
      refine .inr ((State.wr_rd_same _ _ _).trans ?_)
      split <;> rfl
    · exact h.imp (fun hv => (List.mem_cons.mp hv).resolve_left hw) (State.wr_rd_ne _ _ _ _ (vfKey_ne hw)).trans

theorem startVfs_host (s : State) (l : List Nat) (t : State) : (l.foldl (startVf s) t).host = t.host := by
  induction l generalizing t with
  | nil => rfl
  | cons w l ih => exact (ih _).trans (State.wr_host _ _ _)

theorem pf2VfEnable_enables : ∀ (s : State), s.hostBoot = 1 → s.host.vf2 = false → ∃ t, exec .pf2VfEnable s = .next t ∧ t.host.vf2 = true ∧ t.host.vfAt = s.stp.now ∧
    (∀ v < 16, t.vfSt v = (if s.vfMask v = [] then 3 else 1)) := by
  intro s hb hv
  have he : exec .pf2VfEnable s = .next (((List.range 16).foldl (startVf s) s).setHost
      { ((List.range 16).foldl (startVf s) s).host with vf2 := true, vfAt := s.stp.now }) := if_neg (by simp [hb, hv])
  have hst (v : Nat) (hv : v < 16) := startVfs_spec s (List.range 16) s v (.inl (List.mem_range.mpr hv))
  generalize (List.range 16).foldl (startVf s) s = u at he hst
  exact ⟨_, he, rfl, rfl, hst⟩

theorem pf2VfPresent_present : ∀ (s : State) (v : Fin 16), s.vfSt v = 1 → s.vfLoaded v = true → ∃ t, exec (.pf2VfPresent v) s = .next t ∧ t.vfSt v = 2 ∧
    sameRegs s t [R.HOST_PF2_VF_STOOLS_STATE v] := fun s v h1 h2 =>
  ⟨_, if_pos ⟨h1, h2⟩, State.wr_rd_same s (R.HOST_PF2_VF_STOOLS_STATE v) 2, (sameRegs.refl s _).wr (List.mem_singleton_self _) _⟩

theorem pf2WindowExpiry_absent : ∀ (s : State) (v : Fin 16), s.vfSt v = 1 → s.vfEnd ≤ s.stp.now → s.vfLoaded v = false → ∃ t, exec (.pf2WindowExpiry v) s = .next t ∧
    t.vfSt v = 3 ∧ sameRegs s t [R.HOST_PF2_VF_STOOLS_STATE v] := by
  intro s v h1 h2 h3
  refine ⟨_, if_pos ⟨h1, h2⟩, ?_, (sameRegs.refl s _).wr (List.mem_singleton_self _) _⟩
  rw [if_neg (by simp [h3])]
  exact State.wr_rd_same s (R.HOST_PF2_VF_STOOLS_STATE v) 3

theorem perstAssert_resets : ∀ (s : State), ∃ t, exec .perstAssert s = .next t ∧ t.hostBoot = s.hostBoot ∧ t.host = {} ∧
    (∀ f : Fld, f.lo < 64 → 0x43000000 ≤ f.addr → f.addr < 0x44000000 → f.key ≠ R.HOST_STATUS_BOOT.key → t.rd f = f.reset % 2 ^ f.w) ∧
    (∀ f : Fld, f.lo < 64 → (f.addr < 0x43000000 ∨ 0x44000000 ≤ f.addr) → t.rd f = s.rd f) := by
  intro s
  refine ⟨_, rfl, ?_, State.wr_host _ _ _, fun f hlo h1 h2 hne => ?_, fun f hlo h => ?_⟩
  · rw [State.hostBoot, State.wr_rd_same]
    exact Nat.mod_eq_of_lt (State.rd_lt s R.HOST_STATUS_BOOT)
  · rw [State.wr_rd_ne _ _ _ _ hne, State.clearRange_rd, if_pos (by simp only [Fld.key]; omega)]
  · rw [State.wr_rd_ne _ _ _ _ (by simp only [Fld.key, R.HOST_STATUS_BOOT, ne_eq]; omega), State.clearRange_rd, if_neg (by simp only [Fld.key]; omega)]

/-! ### Settings -/

theorem dbBind_fields (s : State) (f d : Nat) (v : Word) :
    (s.wrWord v [R.HOST_DB_BIND_EN f d, R.HOST_DB_BIND_OFFSET f d]).rd (R.HOST_DB_BIND_EN f d) = bitsOf v 31 1 ∧
      (s.wrWord v [R.HOST_DB_BIND_EN f d, R.HOST_DB_BIND_OFFSET f d]).rd (R.HOST_DB_BIND_OFFSET f d) = bitsOf v 2 28 := by
  constructor
  · exact State.wrWord_rd_mem v (R.HOST_DB_BIND_EN f d) _ s (by simp) (by simp [Fld.key, R.HOST_DB_BIND_EN, R.HOST_DB_BIND_OFFSET])
  · exact State.wrWord_rd_mem v (R.HOST_DB_BIND_OFFSET f d) _ s (by simp) (by simp [Fld.key, R.HOST_DB_BIND_EN, R.HOST_DB_BIND_OFFSET])

theorem hostDbBindWrite_writes : ∀ (s : State) (f : Fin 128) (d : Fin 16) (v : Word), ∃ t, exec (.hostDbBindWrite f d v) s = .next t ∧
    t.rd (R.HOST_DB_BIND_EN f d) = (if bitsOf v 24 6 = 0 ∨ bitsOf v 24 6 = 2 ∨ bitsOf v 24 6 = 3 then 0 else bitsOf v 31 1) ∧
    t.rd (R.HOST_DB_BIND_OFFSET f d) = bitsOf v 2 28 ∧ sameRegs s t [R.HOST_DB_BIND_EN f d, R.HOST_DB_BIND_OFFSET f d] ∧ t.ans = acked := by
  intro s f d v
  obtain ⟨hen, hoff⟩ := dbBind_fields s f d v
  have hsame := (sameRegs.refl s [R.HOST_DB_BIND_EN f d, R.HOST_DB_BIND_OFFSET f d]).wrWord v (fs := [R.HOST_DB_BIND_EN f d, R.HOST_DB_BIND_OFFSET f d]) fun _ h => h
  by_cases hb : bitsOf v 24 6 = 0 ∨ bitsOf v 24 6 = 2 ∨ bitsOf v 24 6 = 3
  · have he : exec (.hostDbBindWrite f d v) s =
        .next ((s.wrWord v [R.HOST_DB_BIND_EN f d, R.HOST_DB_BIND_OFFSET f d]).wr (R.HOST_DB_BIND_EN f d) 0).ack :=
      congrArg (fun t : State => Host.Outcome.next t.ack) (if_pos hb)
    rw [if_pos hb]
    refine ⟨_, he, ?_, ?_, (hsame.wr (List.mem_cons_self ..) 0).ack, rfl⟩
    · exact (State.ack_rd _ _).trans (State.wr_rd_same _ _ _)
    · exact (State.ack_rd _ _).trans ((State.wr_rd_ne _ _ _ _ (by simp only [Fld.key, R.HOST_DB_BIND_OFFSET, R.HOST_DB_BIND_EN, ne_eq]; omega)).trans hoff)
  · have he : exec (.hostDbBindWrite f d v) s = .next (s.wrWord v [R.HOST_DB_BIND_EN f d, R.HOST_DB_BIND_OFFSET f d]).ack :=
      congrArg (fun t : State => Host.Outcome.next t.ack) (if_neg hb)
    rw [if_neg hb]
    exact ⟨_, he, (State.ack_rd _ _).trans hen, (State.ack_rd _ _).trans hoff, hsame.ack, rfl⟩

theorem hostFnWinWrite_writes : ∀ (s : State) (f : Fin 128) (v : Word), ∃ t, exec (.hostFnWinWrite f v) s = .next t ∧
    t.rd (R.HOST_FN_WIN_EN f) = (if windowOk (bitsOf v 0 20 * 2 ^ 20) then bitsOf v 31 1 else 0) ∧ t.rd (R.HOST_FN_WIN_BASE f) = bitsOf v 0 20 ∧
    sameRegs s t [R.HOST_FN_WIN_EN f, R.HOST_FN_WIN_BASE f] := by
  intro s f v
  have hen : (s.wrWord v [R.HOST_FN_WIN_EN f, R.HOST_FN_WIN_BASE f]).rd (R.HOST_FN_WIN_EN f) = bitsOf v 31 1 :=
    State.wrWord_rd_mem v (R.HOST_FN_WIN_EN f) _ s (by simp) (by simp [Fld.key, R.HOST_FN_WIN_EN, R.HOST_FN_WIN_BASE])
  have hbase : (s.wrWord v [R.HOST_FN_WIN_EN f, R.HOST_FN_WIN_BASE f]).rd (R.HOST_FN_WIN_BASE f) = bitsOf v 0 20 :=
    State.wrWord_rd_mem v (R.HOST_FN_WIN_BASE f) _ s (by simp) (by simp [Fld.key, R.HOST_FN_WIN_EN, R.HOST_FN_WIN_BASE])
  have hsame := (sameRegs.refl s [R.HOST_FN_WIN_EN f, R.HOST_FN_WIN_BASE f]).wrWord v (fs := [R.HOST_FN_WIN_EN f, R.HOST_FN_WIN_BASE f]) fun _ h => h
  by_cases hb : windowOk (bitsOf v 0 20 * 2 ^ 20) = true
  · have he : exec (.hostFnWinWrite f v) s = .next (s.wrWord v [R.HOST_FN_WIN_EN f, R.HOST_FN_WIN_BASE f]).ack :=
      congrArg (fun t : State => Host.Outcome.next t.ack) (if_pos hb)
    rw [if_pos hb]
    exact ⟨_, he, (State.ack_rd _ _).trans hen, (State.ack_rd _ _).trans hbase, hsame.ack⟩
  · have he : exec (.hostFnWinWrite f v) s = .next ((s.wrWord v [R.HOST_FN_WIN_EN f, R.HOST_FN_WIN_BASE f]).wr (R.HOST_FN_WIN_EN f) 0).ack :=
      congrArg (fun t : State => Host.Outcome.next t.ack) (if_neg hb)
    rw [if_neg hb]
    refine ⟨_, he, ?_, ?_, (hsame.wr (List.mem_cons_self ..) 0).ack⟩
    · exact (State.ack_rd _ _).trans (State.wr_rd_same _ _ _)
    · exact (State.ack_rd _ _).trans ((State.wr_rd_ne _ _ _ _ (by simp only [Fld.key, R.HOST_FN_WIN_BASE, R.HOST_FN_WIN_EN, ne_eq]; omega)).trans hbase)

theorem hostObMapWrite_high : ∀ (s : State) (r : Fin 64) (v : Word), ∃ t, exec (.hostObMapWrite r true v) s = .next t ∧ t.rd (R.HOST_OB_MAP_HI_ADDR r) = v.toNat ∧
    sameRegs s t [R.HOST_OB_MAP_HI_ADDR r] := by
  intro s r v
  have he : exec (.hostObMapWrite r true v) s = .next (s.wr (R.HOST_OB_MAP_HI_ADDR r) v.toNat).ack := rfl
  refine ⟨_, he, ?_, ((sameRegs.refl s _).wr (List.mem_singleton_self _) _).ack⟩
  exact (State.ack_rd _ _).trans ((State.wr_rd_same _ _ _).trans (Nat.mod_eq_of_lt v.isLt))

theorem hostObMapWrite_low : ∀ (s : State) (r : Fin 64) (v : Word), ∃ t, exec (.hostObMapWrite r false v) s = .next t ∧ t.rd (R.HOST_OB_MAP_LO_EN r) = bitsOf v 31 1 ∧
    t.rd (R.HOST_OB_MAP_LO_NS r) = bitsOf v 30 1 ∧ t.rd (R.HOST_OB_MAP_LO_FN r) = bitsOf v 16 8 ∧ t.rd (R.HOST_OB_MAP_LO_ADDR_31_30 r) = bitsOf v 0 2 := by
  intro s r v
  have hw (f : Fld) (hf : f ∈ [R.HOST_OB_MAP_LO_EN r, R.HOST_OB_MAP_LO_NS r, R.HOST_OB_MAP_LO_FN r, R.HOST_OB_MAP_LO_ADDR_31_30 r]) :
      (s.wrWord v [R.HOST_OB_MAP_LO_EN r, R.HOST_OB_MAP_LO_NS r, R.HOST_OB_MAP_LO_FN r, R.HOST_OB_MAP_LO_ADDR_31_30 r]).ack.rd f = f.of v := by
    refine (State.ack_rd _ _).trans (State.wrWord_rd_mem v f _ s hf ?_)
    fin_cases hf <;> simp [Fld.key, R.HOST_OB_MAP_LO_EN, R.HOST_OB_MAP_LO_NS, R.HOST_OB_MAP_LO_FN, R.HOST_OB_MAP_LO_ADDR_31_30]
  have he : exec (.hostObMapWrite r false v) s =
    .next (s.wrWord v [R.HOST_OB_MAP_LO_EN r, R.HOST_OB_MAP_LO_NS r, R.HOST_OB_MAP_LO_FN r, R.HOST_OB_MAP_LO_ADDR_31_30 r]).ack := rfl
  exact ⟨_, he, hw _ (by simp), hw _ (by simp), hw _ (by simp), hw _ (by simp)⟩

/-! ### Outbound requests -/

theorem outbound_region {a r : Nat} (ha : a < 0x40000000) : (outboundBase + r * 0x40000000 + a - outboundBase) / 0x40000000 = r ∧
    (outboundBase + r * 0x40000000 + a - outboundBase) % 0x40000000 = a := by
  constructor <;> omega

theorem outboundRequest_writes : ∀ (s : State) (a r fn : Nat) (ws : List PWord), r < 64 → a < 0x40000000 → fn = s.rd (R.HOST_OB_MAP_LO_FN r) → s.bit (R.HOST_OB_MAP_LO_EN r) = true →
    s.busMaster fn = true → fn ∉ s.host.stopped → s.linkUp = true → anyMark ws = false →
    ∃ t, exec (.outboundRequest (outboundBase + r * 0x40000000 + a) (.write ws)) s = .next t ∧ t.ans = acked ∧
      t.sent = s.sent ++ [.tlp ws (s.rd (R.HOST_OB_MAP_HI_ADDR r) * 2 ^ 32 + s.rd (R.HOST_OB_MAP_LO_ADDR_31_30 r) * 2 ^ 30 + a) fn false] := by
  intro s a r fn ws hr ha hfn hen hbm hst hl hm
  obtain ⟨hdiv, hmod⟩ := outbound_region (r := r) ha
  subst hfn
  have he : exec (.outboundRequest (outboundBase + r * 0x40000000 + a) (.write ws)) s = .next
      (s.send (.tlp ws (s.rd (R.HOST_OB_MAP_HI_ADDR r) * 2 ^ 32 + s.rd (R.HOST_OB_MAP_LO_ADDR_31_30 r) * 2 ^ 30 + a) (s.rd (R.HOST_OB_MAP_LO_FN r)) false)).ack := by
    show execOutboundRequest (outboundBase + r * 0x40000000 + a) (.write ws) s = _
    unfold execOutboundRequest
    dsimp only
    rw [hdiv, hmod, if_neg (by omega), if_neg (by simp [hen, hbm, hst, hl]), hm, if_neg Bool.false_ne_true]
  exact ⟨_, he, rfl, rfl⟩

theorem outboundRequest_reads : ∀ (s : State) (a r fn n : Nat), r < 64 → a < 0x40000000 → fn = s.rd (R.HOST_OB_MAP_LO_FN r) → s.bit (R.HOST_OB_MAP_LO_EN r) = true →
    s.busMaster fn = true → fn ∉ s.host.stopped → s.linkUp = true →
    ∃ t, exec (.outboundRequest (outboundBase + r * 0x40000000 + a) (.read n)) s = .next t ∧
      t.host.reads = s.host.reads ++ [⟨fn, n, s.stp.now, false⟩] ∧ t.sent.length = s.sent.length + 1 := by
  intro s a r fn n hr ha hfn hen hbm hst hl
  obtain ⟨hdiv, hmod⟩ := outbound_region (r := r) ha
  subst hfn
  have he : exec (.outboundRequest (outboundBase + r * 0x40000000 + a) (.read n)) s = .next
      ((s.setHost { s.host with reads := s.host.reads ++ [⟨s.rd (R.HOST_OB_MAP_LO_FN r), n, s.stp.now, false⟩] }).send (.hostRead (s.rd (R.HOST_OB_MAP_LO_FN r))
        (s.rd (R.HOST_OB_MAP_HI_ADDR r) * 2 ^ 32 + s.rd (R.HOST_OB_MAP_LO_ADDR_31_30 r) * 2 ^ 30 + a) n)) := by
    show execOutboundRequest (outboundBase + r * 0x40000000 + a) (.read n) s = _
    unfold execOutboundRequest
    dsimp only
    rw [hdiv, hmod, if_neg (by omega), if_neg (by simp [hen, hbm, hst, hl])]
  exact ⟨_, he, rfl, List.length_append⟩

theorem outboundRequest_refused : ∀ (s : State) (a r : Nat) (q : OutboundReq), r < 64 → a < 0x40000000 → s.bit (R.HOST_OB_MAP_LO_EN r) = false →
    exec (.outboundRequest (outboundBase + r * 0x40000000 + a) q) s = .next s.refusedAns := by
  intro s a r q hr ha hen
  obtain ⟨hdiv, -⟩ := outbound_region (r := r) ha
  show execOutboundRequest (outboundBase + r * 0x40000000 + a) q s = _
  unfold execOutboundRequest
  dsimp only
  rw [hdiv, if_neg (by omega), if_pos (by simp [hen])]

theorem outboundCompletion_answers : ∀ (s : State) (i : Nat) (x : HostRead) (ws : List DWord) (ep : Bool), s.host.reads[i]? = some x → x.late = false →
    ∃ t, exec (.outboundCompletion i (.data ws ep)) s = .next t ∧ t.ans = ⟨.ok, 0, ws.map (fun w => ⟨w, ep⟩)⟩ ∧
      t.host.reads = s.host.reads.eraseIdx i := by
  intro s i x ws ep hx hlate
  have he : exec (.outboundCompletion i (.data ws ep)) s = .next ((s.dropRead i).reply ⟨.ok, 0, ws.map (fun w => ⟨w, ep⟩)⟩) := by
    show execOutboundCompletion i (.data ws ep) s = _
    unfold execOutboundCompletion
    rw [hx]
    dsimp only
    rw [if_neg (by simp [hlate])]
  exact ⟨_, he, rfl, rfl⟩

theorem outboundCompletion_late : ∀ (s : State) (i : Nat) (x : HostRead) (c : HostCpl), s.host.reads[i]? = some x → x.late = true → ∃ t, exec (.outboundCompletion i c) s = .next t ∧
    t.ans = s.ans ∧ t.host.reads = s.host.reads.eraseIdx i ∧ t.rd R.HOST_LATE_CPL = (s.rd R.HOST_LATE_CPL + 1) % 2 ^ 32 := by
  intro s i x c hx hlate
  have he : exec (.outboundCompletion i c) s = .next ((s.dropRead i).inc R.HOST_LATE_CPL) := by
    show execOutboundCompletion i c s = _
    unfold execOutboundCompletion
    rw [hx]
    exact if_pos hlate
  exact ⟨_, he, State.inc_ans _ _, congrArg HostIf.reads (State.inc_host _ _), State.inc_rd_same _ _⟩

theorem outboundTimeout_times : ∀ (s : State) (i : Nat) (x : HostRead), s.host.reads[i]? = some x → x.late = false → x.sent + 3500 * 65536 ≤ s.stp.now →
    ∃ t, exec (.outboundTimeout i) s = .next t ∧ t.ans = abortedBy 8 ∧ t.host.reads = s.host.reads.set i { x with late := true } ∧
      t.rd R.HOST_OB_TIMEOUTS = (s.rd R.HOST_OB_TIMEOUTS + 1) % 2 ^ 32 := by
  intro s i x hx hlate ht
  have he : exec (.outboundTimeout i) s =
      .next (((s.setHost { s.host with reads := s.host.reads.set i { x with late := true } }).inc R.HOST_OB_TIMEOUTS).reply ⟨.aborted, 8, []⟩) := by
    show execOutboundTimeout i s = _
    unfold execOutboundTimeout
    rw [hx]
    exact if_neg (by simp only [hlate, Bool.false_eq_true, false_or]; omega)
  refine ⟨_, he, rfl, ?_, (State.reply_rd _ _ _).trans (State.inc_rd_same _ _)⟩
  rw [State.reply_host, State.inc_host, State.setHost_host]

theorem requesterCompletionTimeout_frees : ∀ (s : State) (i : Nat) (x : HostRead), s.host.reads[i]? = some x → x.late = true → ∃ t, exec (.requesterCompletionTimeout i) s = .next t ∧
    t.host.reads = s.host.reads.eraseIdx i ∧ t.ans = s.ans := by
  intro s i x hx hlate
  have he : exec (.requesterCompletionTimeout i) s = .next (s.dropRead i) := by
    show execRequesterCompletionTimeout i s = _
    unfold execRequesterCompletionTimeout
    rw [hx]
    exact congrArg Host.Outcome.next (if_pos hlate)
  exact ⟨_, he, rfl, rfl⟩

/-- Settles O46: each clause is a lemma above about one command. -/
theorem hostLinkFunctionsAndOutbound : Obligations.HostLinkFunctionsAndOutbound :=
  ⟨pcieLinkUp_up, pcieLinkDown_down, hostConfigRequest_retry, hostConfigRequest_busMaster, functionLevelReset_one, functionLevelReset_pf2,
    pf2VfEnable_enables, pf2VfPresent_present, pf2WindowExpiry_absent, perstAssert_resets, hostDbBindWrite_writes, hostFnWinWrite_writes,
    hostObMapWrite_high, hostObMapWrite_low, outboundRequest_writes, outboundRequest_reads, outboundRequest_refused, outboundCompletion_answers,
    outboundCompletion_late, outboundTimeout_times, requesterCompletionTimeout_frees⟩

end Sys2Proof.Claims

/-! ## O1, O2: the step, and the state at reset -/

namespace Sys2Proof.Claims

set_option Elab.async false

open Sys2Proof.Machine

theorem step_front : ∀ (s : State) (c : Instr) (rest : List Instr), s.pending = c :: rest → step s = exec c { s with pending := rest } := fun s c rest h => by
  rw [step, h]

theorem step_tick : ∀ (s : State), s.pending = [] → s.stp.slew = 0 → step s = .next { s with stp := { s.stp with now := s.stp.now + 4 * 65536 } } := by
  intro s h hslew
  have hs : step s = .next s.advance := by rw [step, h]
  have ha : s.advance = s.setStp { s.stp with now := s.stp.now + 262144 } := if_pos hslew
  rw [hs, ha]
  rfl

/-- One tick writes the Steeple's own part, and SLEWING while it slews. -/
theorem State.advance_keeps (s : State) :
    s.advance.pending = s.pending ∧ s.advance.ms = s.ms ∧ s.advance.cores = s.cores ∧ sameRegs s s.advance [R.STEEPLE_STATUS_SLEWING] := by
  unfold State.advance
  dsimp only
  split
  · exact ⟨rfl, rfl, rfl, (sameRegs.refl s _).setStp _⟩
  · exact ⟨State.wrB_pending _ _ _, State.wrB_ms _ _ _, State.wrB_cores _ _ _, ((sameRegs.refl s _).setStp _).wrB (List.mem_singleton_self _) _⟩

theorem step_tick_keeps : ∀ (s t : State), s.pending = [] → step s = .next t → t.pending = [] ∧ t.ms = s.ms ∧ t.cores = s.cores ∧ sameRegs s t [R.STEEPLE_STATUS_SLEWING] := by
  intro s t h he
  rw [step, h] at he
  cases he
  obtain ⟨hp, hrest⟩ := State.advance_keeps s
  exact ⟨hp.trans h, hrest⟩

/-- Settles O1: the front command, or one tick. -/
theorem stepRunsFrontCommand : Obligations.StepRunsFrontCommand := ⟨step_front, step_tick, step_tick_keeps⟩

theorem reset_rd : ∀ f : Fld, State.reset.rd f = f.reset % 2 ^ f.w := fun _ => rfl

theorem reset_canonical : canonical State.reset := ⟨rfl, rfl⟩

/-- Settles O2: every field of the reset state reads its table's reset value, which gives the named ones. -/
theorem resetState : Obligations.ResetState :=
  ⟨reset_rd, ⟨rfl, rfl, fun _ _ => ⟨rfl, fun _ _ => rfl⟩⟩, ⟨rfl, fun _ _ => rfl⟩, ⟨rfl, rfl, rfl⟩, fun _ _ => rfl, ⟨rfl, fun _ _ => rfl⟩,
    ⟨rfl, fun _ _ => rfl, fun _ _ => rfl⟩, ⟨rfl, rfl, rfl, rfl, rfl⟩, rfl, rfl, reset_canonical⟩

end Sys2Proof.Claims

/-! ## O47: accesses of the host and of JTAG, interrupts and completion queues -/

namespace Sys2Proof.Machine

set_option Elab.async false

open Sys2Proof.Claims

section
variable (s : State)

@[simp] theorem State.setTap_dbg (f : JtagTap → JtagTap) : (s.setTap f).dbg = { s.dbg with jtag := f s.dbg.jtag } := rfl
@[simp] theorem State.setTap_regs (f : JtagTap → JtagTap) : (s.setTap f).regs = s.regs := rfl

/-- BAR 2 of function 0 maps the first 64 MiB of the memory (R499). -/
theorem State.barTarget_mem {off : Nat} (hb : s.hostBoot = 1) (h : off < 0x4000000) : s.barTarget 0 2 off = .mem off := by
  simp [State.barTarget, hb, h]

theorem State.hostTarget_mem {off n : Nat} (hb : s.hostBoot = 1) (h : off < 0x4000000) (hn : off + n ≤ 0x4000000) :
    s.hostTarget 0 2 off n = .mem off := by
  rw [State.hostTarget, s.barTarget_mem hb (by omega), if_neg (by simp), s.barTarget_mem hb h]

theorem State.hostTarget_past {off n : Nat} (hn : 0x4000000 < off + n) : s.hostTarget 0 2 off n = .unsupported := by
  have h : s.barTarget 0 2 (off + n - 1) = .unsupported := by
    have hlt : ¬ off + n - 1 < 0x4000000 := by omega
    simp [State.barTarget, hlt]
  rw [State.hostTarget, if_pos h]

/-- Functions above the VFs of PF2 have no BAR. -/
theorem State.hostTarget_none {fn bar off n : Nat} (hb : s.hostBoot = 1) (hf : 0x60 ≤ fn) : s.hostTarget fn bar off n = .unsupported := by
  have h (a : Nat) : s.barTarget fn bar a = .unsupported := by
    rw [State.barTarget, if_neg (by omega), if_neg (by omega), if_neg (by omega), if_neg (by omega), if_neg (by omega)]
  rw [State.hostTarget, if_pos (h _)]

theorem State.hostTarget_window {off n : Nat} (hb : s.hostBoot = 1) (hw : s.bit (R.HOST_FN_WIN_EN 1) = false) (h : off < 0x4000000)
    (hn : off + n ≤ 0x4000000) : s.hostTarget 1 2 off n = .refused := by
  have hbar {a : Nat} (ha : a < 0x4000000) : s.barTarget 1 2 a = .refused := by
    simp [State.barTarget, State.windowTarget, hb, hw, Nat.not_le.mpr ha]
  rw [State.hostTarget, hbar (by omega), if_neg (by simp), hbar h]

/-- BAR 0 of function 0 maps the registers. -/
theorem State.hostTarget_reg {off n : Nat} (hb : s.hostBoot = 1) (h : off < 0x40000000) (hn : off + n ≤ 0x40000000) :
    s.hostTarget 0 0 off n = .reg (0x40000000 + off) := by
  have hbar {a : Nat} (ha : a < 0x40000000) : s.barTarget 0 0 a = .reg (0x40000000 + a) := by simp [State.barTarget, hb, ha]
  rw [State.hostTarget, hbar (by omega), if_neg (by simp), hbar h]

/-- Every register but those of the host interface. -/
def notHostRegs (k : Nat) : Prop := ¬ addrIn 0x43000000 0x44000000 k

theorem setQueue_notHost {q : Nat} (hq : q < 64) (x : ReportQueue) : WritesIn notHostRegs s (s.setQueue q x) := by
  refine (s.setQueue_writes q x).mono fun k hk => ?_
  simp only [slotAddrs, addrIn, Fld.key, R.REEVE_STATUS_REPORT_HELD, R.TALLY_STATUS_FAULT, R.TALLY_FAULT_LAST_ID, R.TALLY_FAULT_COUNT_COUNT,
    R.REEVE_REPORT_LEVEL_COUNT, R.REEVE_REPORT_LEVEL_FULL] at hk
  simp only [notHostRegs, addrIn]
  omega

theorem setCarter_notHost {g : Nat} (hg : g < 64) (x : CarterCh) : WritesIn notHostRegs s (s.setCarter g x) := by
  intro f hf
  refine s.setCarter_sameRegs g x f fun y hy e => hf ?_
  simp only [shownCarter, chFld, if_pos hg, List.mem_cons, List.not_mem_nil, or_false] at hy
  rcases hy with rfl | rfl | rfl | rfl <;> rw [e] <;> simp only [notHostRegs, addrIn, Fld.key, R.CARTER_CH_STATE_PLAN_READY,
    R.CARTER_CH_STATE_WINDOWED, R.CARTER_CH_STATE_LOCK_GROUP, R.CARTER_CH_STATE_WTAG] <;> omega

theorem dmaRead_notHost (mid : Mid) (a n : Nat) : WritesIn notHostRegs s (s.dmaRead mid a n).2 := by
  refine ((WritesIn.refl memRegs s).dmaRead mid a n).mono fun k hk => ?_
  simp only [memRegs, notHostRegs, addrIn] at hk ⊢
  omega

theorem State.dmaRead_sent (mid : Mid) (a n : Nat) : (s.dmaRead mid a n).2.sent = s.sent :=
  (keeps_dmaRead (.refl (partsBut .sent) s) (by decide) (by decide) (by decide) (by decide) (by decide) mid a n).same_of_but

theorem State.setQueue_sent (q : Nat) (x : ReportQueue) : (s.setQueue q x).sent = s.sent :=
  (keeps_setQueue (.refl (partsBut .sent) s) (by decide) (by decide) q x).same_of_but

theorem State.setCarter_sent (g : Nat) (x : CarterCh) : (s.setCarter g x).sent = s.sent :=
  (keeps_setCarter (.refl (partsBut .sent) s) (by decide) (by decide) g x).same_of_but

/-- The take of a source's value sends nothing and writes no register of the host interface. -/
theorem State.takeSource_keeps {i k src v : Nat} {bad : Bool} {u : State} (h : s.takeSource i = some (k, src, v, bad, u)) :
    WritesIn notHostRegs s u ∧ u.sent = s.sent := by
  unfold State.takeSource at h
  dsimp only at h
  split_ifs at h with h1 h2 h3 h4 h5 h6
  · obtain ⟨b, r, hu⟩ : ∃ b r, (s.reeve.queues.get (Fin.ofNat 64 i)).unread = b :: r := by
      have hi : (Fin.ofNat 64 i).val = i := Nat.mod_eq_of_lt h1
      rw [hi]
      exact List.exists_cons_of_ne_nil h2
    have he : execReeveReportTake (Fin.ofNat 64 i) true s = .next ((s.setQueue (Fin.ofNat 64 i).val { s.reeve.queues.get (Fin.ofNat 64 i).val with
        unread := r, taken := some b }).reply ⟨.ok, 0, [⟨BitVec.ofNat 64 (2 ^ 63 + b), false⟩]⟩) := by
      unfold execReeveReportTake
      dsimp only
      rw [if_neg (by simp), hu]
    rw [he] at h
    simp only [Option.some.injEq, Prod.mk.injEq] at h
    obtain ⟨-, -, -, -, rfl⟩ := h
    exact ⟨fun f hf => (State.reply_rd _ _ _).trans (setQueue_notHost s (Fin.ofNat 64 i).isLt _ f hf), (State.reply_sent _ _).trans (s.setQueue_sent _ _)⟩
  · have hg : (Fin.ofNat 192 (i - 64)).val = i - 64 := Nat.mod_eq_of_lt (by omega)
    obtain ⟨b, hp⟩ : ∃ b, (s.carter (Fin.ofNat 192 (i - 64)).val).placed = some b := by
      rw [hg]
      exact Option.ne_none_iff_exists'.mp (by simpa using h4)
    have he : execCarterResultTake (Fin.ofNat 192 (i - 64)) true s = .next ((s.setCarter (Fin.ofNat 192 (i - 64)).val
        { s.carter (Fin.ofNat 192 (i - 64)).val with placed := none, taken := some b }).reply ⟨.ok, 0, [⟨BitVec.ofNat 64 (2 ^ 63 + b), false⟩]⟩) := by
      unfold execCarterResultTake
      dsimp only
      rw [if_neg (by simp), hp]
    rw [he] at h
    simp only [Option.some.injEq, Prod.mk.injEq] at h
    obtain ⟨-, -, -, -, rfl⟩ := h
    exact ⟨fun f hf => (State.reply_rd _ _ _).trans (setCarter_notHost s (by omega) _ f hf), (State.reply_sent _ _).trans (s.setCarter_sent _ _)⟩
  · simp only [Option.some.injEq, Prod.mk.injEq] at h
    obtain ⟨-, -, -, -, rfl⟩ := h
    exact ⟨(dmaRead_notHost s _ _ _).inc (by simp only [notHostRegs, addrIn, Fld.key, R.MARKET_LQ_CONS]; omega),
      (State.inc_sent _ _).trans (s.dmaRead_sent _ _ _)⟩

end

end Sys2Proof.Machine

namespace Sys2Proof.Claims

set_option Elab.async false

open Sys2Proof.Machine

/-! ### Reads and writes of the host -/

theorem hostMemoryRead_reads : ∀ (s u : State) (off n : Nat) (ext : List PWord) (l : List (Nat × Bool)), s.hostBoot = 1 → s.linkUp = true → off < 0x4000000 → off + n ≤ 0x4000000 →
    s.dmaRead hostMid off n = (some l, u) → ∃ t, exec (.hostMemoryRead 0 2 off n ext) s = .next t ∧ t.ms = u.ms ∧
      t.sent = s.sent ++ [.cpl 0 .sc (byteVals l) (anyBad l)] := by
  intro s u off n ext l hb hl ho hn hd
  have he : exec (.hostMemoryRead 0 2 off n ext) s = .next (u.complete 0 .sc (byteVals l) (anyBad l)) := by
    show execHostMemoryRead 0 2 off n ext s = _
    unfold execHostMemoryRead
    dsimp only
    rw [if_neg (by simp [hb, hl]), show s.hostTarget (0 : Fin 256).val (2 : Fin 6).val off n = .mem off from s.hostTarget_mem hb ho hn]
    dsimp only
    rw [hd]
    rfl
  have hs : u.sent = s.sent := by
    have h := s.dmaRead_sent hostMid off n
    rwa [hd] at h
  exact ⟨_, he, rfl, congrArg (· ++ [Sent.cpl 0 .sc (byteVals l) (anyBad l)]) hs⟩

/-- A read that reaches nothing of the device is completed with the status of its target. -/
theorem hostMemoryRead_unmapped {s : State} {fn : Fin 256} {bar : Fin 6} {off n : Nat} {ext : List PWord} (hb : s.hostBoot = 1) (hl : s.linkUp = true) :
    (s.hostTarget fn bar off n = .refused → exec (.hostMemoryRead fn bar off n ext) s = .next (s.send (.cpl fn .ca [] false))) ∧
      (s.hostTarget fn bar off n = .unsupported → exec (.hostMemoryRead fn bar off n ext) s = .next (s.send (.cpl fn .ur [] false))) := by
  constructor <;> intro h
  all_goals
    show execHostMemoryRead fn bar off n ext s = _
    unfold execHostMemoryRead
    dsimp only
    rw [if_neg (by simp [hb, hl]), h]
    rfl

theorem hostMemoryRead_window : ∀ (s : State) (off n : Nat) (ext : List PWord), s.hostBoot = 1 → s.linkUp = true → s.bit (R.HOST_FN_WIN_EN 1) = false → off < 0x4000000 → off + n ≤ 0x4000000 →
    exec (.hostMemoryRead 1 2 off n ext) s = .next (s.send (.cpl 1 .ca [] false)) := fun s _ _ _ hb hl hw ho hn =>
  (hostMemoryRead_unmapped hb hl).1 (s.hostTarget_window hb hw ho hn)

theorem hostMemoryRead_past : ∀ (s : State) (off n : Nat) (ext : List PWord), s.hostBoot = 1 → s.linkUp = true → 0x4000000 < off + n →
    exec (.hostMemoryRead 0 2 off n ext) s = .next (s.send (.cpl 0 .ur [] false)) := fun s _ _ _ hb hl hn => (hostMemoryRead_unmapped hb hl).2 (s.hostTarget_past hn)

theorem hostMemoryRead_no_function : ∀ (s : State) (fn : Fin 256) (b : Fin 6) (off n : Nat) (ext : List PWord), s.hostBoot = 1 → s.linkUp = true → 0x60 ≤ fn.val →
    exec (.hostMemoryRead fn b off n ext) s = .next (s.send (.cpl fn .ur [] false)) := fun s _ _ _ _ _ hb hl hf => (hostMemoryRead_unmapped hb hl).2 (s.hostTarget_none hb hf)

/-- A write of memory by function 0, whether it is stored or not. -/
theorem hostMemoryWrite_mem {s u : State} {off : Nat} {bs : List Byte} {ep ok : Bool} {o : Outside} (hb : s.hostBoot = 1) (hl : s.linkUp = true)
    (ho : off < 0x4000000) (hn : off + bs.length ≤ 0x4000000) (hd : s.dmaWrite hostMid off (bs.map (fun b => (b.toNat, ep))) = (ok, u)) :
    exec (.hostMemoryWrite 0 2 off bs ep o) s = .next (if ok then u else u.inc R.HOST_IN_WERR) := by
  show execHostMemoryWrite 0 2 off bs ep o s = _
  unfold execHostMemoryWrite
  dsimp only
  rw [if_neg (by simp [hb, hl]), show s.hostTarget (0 : Fin 256).val (2 : Fin 6).val off bs.length = .mem off from s.hostTarget_mem hb ho hn]
  dsimp only
  rw [hd]
  rfl

theorem hostMemoryWrite_writes : ∀ (s u : State) (off : Nat) (bs : List Byte) (ep : Bool) (o : Outside), s.hostBoot = 1 → s.linkUp = true → off < 0x4000000 → off + bs.length ≤ 0x4000000 →
    s.dmaWrite hostMid off (bs.map (fun b => (b.toNat, ep))) = (true, u) → exec (.hostMemoryWrite 0 2 off bs ep o) s = .next u := fun _ _ _ _ _ _ hb hl ho hn hd => hostMemoryWrite_mem hb hl ho hn hd

theorem hostMemoryWrite_fails : ∀ (s u : State) (off : Nat) (bs : List Byte) (ep : Bool) (o : Outside), s.hostBoot = 1 → s.linkUp = true → off < 0x4000000 → off + bs.length ≤ 0x4000000 →
    s.dmaWrite hostMid off (bs.map (fun b => (b.toNat, ep))) = (false, u) → exec (.hostMemoryWrite 0 2 off bs ep o) s = .next (u.inc R.HOST_IN_WERR) := fun _ _ _ _ _ _ hb hl ho hn hd => hostMemoryWrite_mem hb hl ho hn hd

theorem hostMemoryWrite_poisoned : ∀ (s : State) (off : Nat) (bs : List Byte) (o : Outside), s.hostBoot = 1 → s.linkUp = true → off < 0x40000000 → off + bs.length ≤ 0x40000000 →
    exec (.hostMemoryWrite 0 0 off bs true o) s = .next (s.inc R.HOST_IN_WERR) := by
  intro s off bs o hb hl ho hn
  show execHostMemoryWrite 0 0 off bs true o s = _
  unfold execHostMemoryWrite
  dsimp only
  rw [if_neg (by simp [hb, hl]), show s.hostTarget (0 : Fin 256).val (0 : Fin 6).val off bs.length = .reg (0x40000000 + off) from s.hostTarget_reg hb ho hn]
  rfl

theorem hostDoorbellWrite_writes : ∀ (s u : State) (fn : Fin 128) (d : Fin 16) (v : Word) (o : Outside), s.bit (R.HOST_DB_BIND_EN fn d) = true → fn.val ∉ s.host.stopped →
    s.regWrite hostMid (0x40000000 + s.rd (R.HOST_DB_BIND_OFFSET fn d) * 4) v o = .next u → u.ans.status = .ok →
    exec (.hostDoorbellWrite (fn.castLE (by decide)) d v 4 o) s = .next u := by
  intro s u fn d v o hen hst hw hok
  have he : exec (.hostDoorbellWrite (fn.castLE (by decide)) d v 4 o) s = hostPosted (.next u) := by
    rw [← hw]
    exact if_neg (by simp [hen, hst])
  rw [he]
  exact congrArg Host.Outcome.next (if_pos hok)

theorem hostDoorbellWrite_unbound : ∀ (s : State) (fn : Fin 256) (d : Fin 16) (v : Word) (n : Nat) (o : Outside), (n ≠ 4 ∨ s.bit (R.HOST_DB_BIND_EN fn d) = false) →
    exec (.hostDoorbellWrite fn d v n o) s = .next (s.inc R.HOST_DB_UNBOUND) := by
  intro s fn d v n o h
  refine if_pos ?_
  rcases h with h | h
  · exact .inl h
  · exact .inr (.inr (.inl (by simp [h])))

/-! ### Interrupts and completion queues -/

theorem hostInterruptSend_sends : ∀ (s : State) (i : Fin 512), i.val ∈ s.hostIrq → s.bit (R.HOST_IRQ_ROUTE_EN i) = true → s.bit (R.HOST_IRQ_ROUTE_VIA_HCQ i) = false →
    s.linkUp = true → ∃ t, exec (.hostInterruptSend i) s = .next t ∧ i.val ∉ t.hostIrq ∧ t.regs = s.regs ∧
      t.sent = s.sent ++ [.msix (s.rd (R.HOST_IRQ_ROUTE_FN i)) (s.rd (R.HOST_IRQ_ROUTE_VECTOR i))] := by
  intro s i hi hen hvia hl
  have he : exec (.hostInterruptSend i) s =
      .next ((s.dropHostIrq i).send (.msix (s.rd (R.HOST_IRQ_ROUTE_FN i)) (s.rd (R.HOST_IRQ_ROUTE_VECTOR i)))) := if_pos (by simp [hi, hen, hvia, hl])
  refine ⟨_, he, ?_, rfl, rfl⟩
  show i.val ∉ s.hostIrq.filter (· != i.val)
  simp

/-- The entry that a completion queue takes of a source (R508). -/
def State.hcqEntry (s : State) (h k src v : Nat) (bad : Bool) : List PWord :=
  [⟨pair32 ((if s.rd (R.HOST_HCQ_TAIL h) / s.hcqSize h % 2 = 0 then 2 ^ 31 else 0) + k * 2 ^ 28 + src) s.tick, bad⟩, ⟨BitVec.ofNat 64 v, bad⟩]

/-- HCQ_FILL, once the queue takes an entry of the source. -/
theorem hcqFill_eq {s u : State} {i : Fin 512} {h fn k src v : Nat} {bad lost : Bool} (hh : h = s.rd (R.HOST_IRQ_ROUTE_HCQ i))
    (hfn : fn = s.rd (R.HOST_HCQ_CFG_FN h)) (hen : s.bit (R.HOST_IRQ_ROUTE_EN i) = true) (hvia : s.bit (R.HOST_IRQ_ROUTE_VIA_HCQ i) = true)
    (hq : s.bit (R.HOST_HCQ_CFG_EN h) = true) (hroom : s.hcqHeld h < s.hcqSize h) (hbm : s.busMaster fn = true) (hst : fn ∉ s.host.stopped)
    (hl : s.linkUp = true) (ht : s.takeSource i = some (k, src, v, bad, u)) :
    exec (.hcqFill i lost) s = if lost then .next ((u.dropHostIrq i).inc R.HOST_HCQ_LOST) else
      .next ((((u.dropHostIrq i).send (.tlp (State.hcqEntry s h k src v bad)
        (s.rd (R.HOST_HCQ_BASE_HI_ADDR h) * 2 ^ 32 + s.rd (R.HOST_HCQ_BASE_LO_ADDR h) * 64 + s.rd (R.HOST_HCQ_TAIL h) % s.hcqSize h * 16) fn bad)).inc
        (R.HOST_HCQ_TAIL h)).send (.msix fn (s.rd (R.HOST_HCQ_CFG_VECTOR h)))) := by
  subst hh hfn
  show execHcqFill i lost s = _
  unfold execHcqFill
  dsimp only
  rw [if_neg (by simp [hen, hvia, hq, hroom, hbm, hst, hl]), ht]
  rfl

theorem hcqFill_fills : ∀ (s u : State) (i : Fin 512) (h fn k src v : Nat) (bad : Bool), h = s.rd (R.HOST_IRQ_ROUTE_HCQ i) → fn = s.rd (R.HOST_HCQ_CFG_FN h) →
    s.bit (R.HOST_IRQ_ROUTE_EN i) = true → s.bit (R.HOST_IRQ_ROUTE_VIA_HCQ i) = true → s.bit (R.HOST_HCQ_CFG_EN h) = true →
    s.hcqHeld h < s.hcqSize h → s.busMaster fn = true → fn ∉ s.host.stopped → s.linkUp = true → s.takeSource i = some (k, src, v, bad, u) →
    (∃ t ws a, exec (.hcqFill i false) s = .next t ∧ t.rd (R.HOST_HCQ_TAIL h) = (s.rd (R.HOST_HCQ_TAIL h) + 1) % 2 ^ 32 ∧
      t.sent = s.sent ++ [.tlp ws a fn bad, .msix fn (s.rd (R.HOST_HCQ_CFG_VECTOR h))] ∧
      a = s.rd (R.HOST_HCQ_BASE_HI_ADDR h) * 2 ^ 32 + s.rd (R.HOST_HCQ_BASE_LO_ADDR h) * 64 + s.rd (R.HOST_HCQ_TAIL h) % s.hcqSize h * 16 ∧
      ws.map (·.data) = [pair32 ((if s.rd (R.HOST_HCQ_TAIL h) / s.hcqSize h % 2 = 0 then 2 ^ 31 else 0) + k * 2 ^ 28 + src) s.tick, BitVec.ofNat 64 v]) ∧
    (∃ t, exec (.hcqFill i true) s = .next t ∧ t.rd (R.HOST_HCQ_TAIL h) = s.rd (R.HOST_HCQ_TAIL h) ∧
      t.rd R.HOST_HCQ_LOST = (s.rd R.HOST_HCQ_LOST + 1) % 2 ^ 32 ∧ t.sent = s.sent) := by
  intro s u i h fn k src v bad hh hfn hen hvia hq hroom hbm hst hl ht
  obtain ⟨hregs, hsent⟩ := s.takeSource_keeps ht
  have hlt : h < 128 := hh ▸ s.rd_lt (R.HOST_IRQ_ROUTE_HCQ i)
  have htail : u.rd (R.HOST_HCQ_TAIL h) = s.rd (R.HOST_HCQ_TAIL h) :=
    hregs _ (by simp only [notHostRegs, addrIn, Fld.key, R.HOST_HCQ_TAIL]; omega)
  have hlost : u.rd R.HOST_HCQ_LOST = s.rd R.HOST_HCQ_LOST := hregs _ (by simp only [notHostRegs, addrIn, Fld.key, R.HOST_HCQ_LOST]; omega)
  have he (lost : Bool) := hcqFill_eq (lost := lost) hh hfn hen hvia hq hroom hbm hst hl ht
  refine ⟨⟨_, State.hcqEntry s h k src v bad, _, he false, ?_, ?_, rfl, rfl⟩, _, he true, ?_, ?_, ?_⟩
  · exact (State.inc_rd_same _ (R.HOST_HCQ_TAIL h)).trans (congrArg (fun x => (x + 1) % 2 ^ 32) htail)
  · refine (congrArg (· ++ [_]) ((State.inc_sent _ _).trans (congrArg (· ++ [_]) hsent))).trans ?_
    rw [List.append_assoc]
    rfl
  · exact (State.inc_rd_ne _ _ _ (by simp only [Fld.key, R.HOST_HCQ_TAIL, R.HOST_HCQ_LOST, ne_eq]; omega)).trans htail
  · exact (State.inc_rd_same _ R.HOST_HCQ_LOST).trans (congrArg (fun x => (x + 1) % 2 ^ 32) hlost)
  · exact (State.inc_sent _ _).trans hsent

theorem hcqHeadWrite_writes : ∀ (s : State) (fn : Fin 256) (h : Fin 128) (v : Word), s.rd (R.HOST_HCQ_CFG_FN h) = fn → fn.val ∉ s.host.stopped →
    (v.toNat + 4294967296 - s.host.heads.get h) % 4294967296 ≤ s.hcqHeld h → ∃ t, exec (.hcqHeadWrite fn h v) s = .next t ∧
      t.host.heads.get h = v.toNat ∧ t.regs = s.regs := by
  intro s fn h v hfn hst hstep
  have he : exec (.hcqHeadWrite fn h v) s = .next (s.setHost { s.host with heads := s.host.heads.set h v.toNat }) :=
    if_neg (by simp only [hfn, List.contains_eq_mem, hst]; simpa using hstep)
  exact ⟨_, he, Tab.get_set_same _ _ _, rfl⟩

theorem hcqHeadWrite_refused : ∀ (s : State) (fn : Fin 256) (h : Fin 128) (v : Word), (s.rd (R.HOST_HCQ_CFG_FN h) ≠ fn ∨
      s.hcqHeld h < (v.toNat + 4294967296 - s.host.heads.get h) % 4294967296) →
    exec (.hcqHeadWrite fn h v) s = .next (s.inc R.HOST_DB_UNBOUND) := fun _ _ _ _ h => if_pos (h.imp id .inl)

/-! ### JTAG -/

theorem jtagStart_admitted {s : State} {w : Bool} {a v : Nat} (hb : s.dbg.jtag.busy = false) (h : s.jtagAdmits w a = true) :
    s.jtagStart w a v = s.setTap (fun t => { t with busy := true, done := false, access := some (w, a, v) }) := by
  rw [State.jtagStart, if_neg (by simp [hb]), if_pos h]

theorem jtagDbgRead_starts : ∀ (s : State) (a : BitVec 38), s.dbg.jtag.busy = false → s.jtagAdmits false (a.toNat * 4) = true → ∃ t, exec (.jtagDbgRead a) s = .next t ∧
    t.dbg.jtag.busy = true ∧ t.dbg.jtag.access = some (false, a.toNat * 4, 0) ∧ t.regs = s.regs := fun _ _ hb h => ⟨_, congrArg Host.Outcome.next (jtagStart_admitted hb h), rfl, rfl, rfl⟩

theorem jtagDbgRead_refused : ∀ (s : State) (a : BitVec 38), s.dbg.jtag.busy = false → s.jtagAdmits false (a.toNat * 4) = false → ∃ t, exec (.jtagDbgRead a) s = .next t ∧
    t.dbg.jtag.busy = false ∧ t.dbg.jtag.done = true ∧ t.dbg.jtag.status = 3 ∧ t.dbg.jtag.access = s.dbg.jtag.access := by
  intro s a hb h
  have he : s.jtagStart false (a.toNat * 4) 0 = s.setTap (fun t => { t with done := true, status := 3, data := 0 }) := by
    rw [State.jtagStart, if_neg (by simp [hb]), if_neg (by simp [h])]
  exact ⟨_, congrArg Host.Outcome.next he, hb, rfl, rfl, rfl⟩

theorem jtagDbgWrite_starts : ∀ (s : State) (a : BitVec 38) (v : Word), s.dbg.jtag.busy = false → s.jtagAdmits true (a.toNat * 4) = true → ∃ t, exec (.jtagDbgWrite a v) s = .next t ∧
    t.dbg.jtag.busy = true ∧ t.dbg.jtag.access = some (true, a.toNat * 4, v.toNat) ∧ t.regs = s.regs := fun _ _ _ hb h => ⟨_, congrArg Host.Outcome.next (jtagStart_admitted hb h), rfl, rfl, rfl⟩

theorem jtagDbgAccessDone_ends : ∀ (s u : State) (w : Bool) (a v : Nat) (r : Answer) (o : Outside), s.dbg.jtag.access = some (w, a, v) → s.jtagAccess w a v r o = .next u →
    ∃ t, exec (.jtagDbgAccessDone r o) s = .next t ∧ t.dbg.jtag.busy = false ∧ t.dbg.jtag.done = true ∧ t.dbg.jtag.access = none ∧
      t.dbg.jtag.status = jtagStatus u.ans.status ∧ t.regs = u.regs ∧
      t.dbg.jtag.data = (if w then 0 else (u.ans.words.headD default).data.toNat % 2 ^ 32) := by
  intro s u w a v r o hacc hu
  have he : exec (.jtagDbgAccessDone r o) s = .next (u.setTap (fun x => { x with
      busy := false, done := true, access := none, status := jtagStatus u.ans.status,
      data := if w then 0 else (u.ans.words.headD default).data.toNat % 2 ^ 32 })) := by
    show execJtagDbgAccessDone r o s = _
    unfold execJtagDbgAccessDone
    rw [hacc]
    dsimp only
    rw [hu]
  exact ⟨_, he, rfl, rfl, rfl, rfl, rfl, rfl⟩

/-- Settles O47: each clause is a lemma above about one command. -/
theorem hostAndJtagAccesses : Obligations.HostAndJtagAccesses :=
  ⟨hostMemoryRead_reads, hostMemoryRead_window, hostMemoryRead_past, hostMemoryRead_no_function, hostMemoryWrite_writes, hostMemoryWrite_fails,
    hostMemoryWrite_poisoned, hostDoorbellWrite_writes, hostDoorbellWrite_unbound, hostInterruptSend_sends, hcqFill_fills, hcqHeadWrite_writes,
    hcqHeadWrite_refused, jtagDbgRead_starts, jtagDbgRead_refused, jtagDbgWrite_starts, jtagDbgAccessDone_ends⟩

end Sys2Proof.Claims

/-! ## The Coppice's stools and the end of a load -/

namespace Sys2Proof.Claims

set_option Elab.async false

open Sys2Proof.Machine

section
variable {s t u : State} {k : Nat}

theorem sameStool.refl (s : State) (k : Nat) : sameStool s s k := ⟨rfl, rfl, fun _ _ => rfl⟩

theorem sameStool.trans (h : sameStool s t k) (g : sameStool t u k) : sameStool s u k := by
  obtain ⟨h1, h2, h3⟩ := h
  obtain ⟨g1, g2, g3⟩ := g
  exact ⟨g1.trans h1, g2.trans h2, fun i hi => (g3 i hi).trans (h3 i hi)⟩

/-- A stool shows what its registers and its configuration memory hold. -/
theorem sameStool.of_eq (h1 : t.rd (R.COPPICE_STOOL_STATUS_STATE k) = s.rd (R.COPPICE_STOOL_STATUS_STATE k))
    (h2 : t.rd (R.COPPICE_STOOL_PID k) = s.rd (R.COPPICE_STOOL_PID k)) (h3 : t.cop.cfg = s.cop.cfg) : sameStool s t k :=
  ⟨h1, h2, fun i _ => by rw [h3]⟩

theorem sameMemory.refl (s : State) (p : Nat → Prop) : sameMemory s s p := fun _ _ => ⟨rfl, rfl⟩

theorem sameMemory.trans {p : Nat → Prop} (h : sameMemory s t p) (g : sameMemory t u p) : sameMemory s u p := fun a ha =>
  ⟨(g a ha).1.trans (h a ha).1, (g a ha).2.trans (h a ha).2⟩

theorem sameMemory.mono {p q : Nat → Prop} (h : sameMemory s t p) (hpq : ∀ a, p a → q a) : sameMemory s t q := fun a ha => h a fun hp => ha (hpq a hp)

theorem sameMemory.of_ms {p : Nat → Prop} (h : sameMemory s t p) (e : u.ms = t.ms) : sameMemory s u p := fun a ha => e ▸ h a ha

theorem sameStool.ack (h : sameStool s t k) : sameStool s t.ack k :=
  h.trans (.of_eq (State.ack_rd _ _) (State.ack_rd _ _) (congrArg Coppice.cfg (State.ack_cop _)))

end

theorem loadFailed.ack {s t : State} {st c : Nat} (h : loadFailed s t st c) : loadFailed s t.ack st c := h

end Sys2Proof.Claims

namespace Sys2Proof.Machine

set_option Elab.async false

open Sys2Proof.Claims

section
variable (s : State)

@[simp] theorem State.setCop_cop (f : Coppice → Coppice) : (s.setCop f).cop = f s.cop := rfl
@[simp] theorem State.setCop_rd (f : Coppice → Coppice) (g : Fld) : (s.setCop f).rd g = s.rd g := rfl
@[simp] theorem State.setCop_regs (f : Coppice → Coppice) : (s.setCop f).regs = s.regs := rfl
@[simp] theorem State.setCop_ms (f : Coppice → Coppice) : (s.setCop f).ms = s.ms := rfl

/-! ### Erased stools -/

/-- Stool `k` has no configuration frame, and its block RAM reads zero (R529). -/
def State.stoolErased (k : Nat) : Prop :=
  (∀ i < 768, s.cop.cfg.get (k * 768 + i) = []) ∧ ∀ a, bramBase + k * bramSize ≤ a → a < bramBase + (k + 1) * bramSize → s.ms.mem.data.get a = 0

theorem State.eraseStool_cfg (k i : Nat) : (s.eraseStool k).cop.cfg.get i = if i / 768 = k then [] else s.cop.cfg.get i := by
  show (s.cop.cfg.clear (fun i => i / 768 == k)).get i = _
  rw [Tab.get_clear]
  exact if_congr (by simp) rfl rfl

theorem State.eraseStool_regs (k : Nat) : (s.eraseStool k).regs = s.regs := rfl

theorem State.eraseStool_bytes (k : Nat) : (s.eraseStool k).cop.bytes = s.cop.bytes := rfl

theorem State.eraseStool_erased (k : Nat) : (s.eraseStool k).stoolErased k :=
  ⟨fun i hi => by rw [State.eraseStool_cfg, if_pos (by omega)], fun a h1 h2 => Memory.fill_data_in s.ms.mem h1 h2⟩

/-- An erased stool stays erased while others are. -/
theorem State.eraseStool_keeps_erased {k : Nat} (j : Nat) (h : s.stoolErased k) : (s.eraseStool j).stoolErased k := by
  obtain ⟨hc, hm⟩ := h
  refine ⟨fun i hi => ?_, fun a h1 h2 => ?_⟩
  · rw [State.eraseStool_cfg, hc i hi, ite_self]
  · by_cases ha : bramBase + j * bramSize ≤ a ∧ a < bramBase + (j + 1) * bramSize
    · exact Memory.fill_data_in s.ms.mem ha.1 ha.2
    · exact (Memory.fill_out s.ms.mem ha).1.trans (hm a h1 h2)

theorem State.eraseStool_sameMemory (k : Nat) :
    sameMemory s (s.eraseStool k) (fun a => bramBase + k * bramSize ≤ a ∧ a < bramBase + (k + 1) * bramSize) :=
  fun _ ha => Memory.fill_out s.ms.mem ha

theorem State.eraseStool_sameStool {j k : Nat} (h : k ≠ j) : sameStool s (s.eraseStool j) k :=
  ⟨rfl, rfl, fun i hi => by rw [State.eraseStool_cfg, if_neg (by omega)]⟩

end

/-- The block RAM of the stools of a list. -/
def stoolsRam (l : List Nat) (a : Nat) : Prop := ∃ k ∈ l, bramBase + k * bramSize ≤ a ∧ a < bramBase + (k + 1) * bramSize

/-- What erases one stool of a list after another erases them all. -/
structure ErasesAll (l : List Nat) (s t : State) : Prop where
  erased : ∀ k ∈ l, t.stoolErased k
  others : ∀ k, k ∉ l → sameStool s t k
  memory : sameMemory s t (stoolsRam l)
  bytes : t.cop.bytes = s.cop.bytes

theorem State.eraseStools_all (l : List Nat) (s : State) : ErasesAll l s (l.foldl State.eraseStool s) ∧ (l.foldl State.eraseStool s).regs = s.regs ∧
    ∀ k, s.stoolErased k → (l.foldl State.eraseStool s).stoolErased k := by
  induction l generalizing s with
  | nil => exact ⟨⟨fun _ h => absurd h List.not_mem_nil, fun k _ => .refl s k, .refl s _, rfl⟩, rfl, fun _ h => h⟩
  | cons j l ih =>
    obtain ⟨⟨h1, h2, h3, h4⟩, h5, h6⟩ := ih (s.eraseStool j)
    refine ⟨⟨fun k hk => ?_, fun k hk => ?_, ?_, h4⟩, h5, fun k hk => h6 k (s.eraseStool_keeps_erased j hk)⟩
    · rcases List.mem_cons.mp hk with rfl | hk
      · exact h6 k (s.eraseStool_erased k)
      · exact h1 k hk
    · obtain ⟨hj, hl⟩ := List.ne_and_not_mem_of_not_mem_cons hk
      exact (s.eraseStool_sameStool hj).trans (h2 k hl)
    · refine sameMemory.trans ((s.eraseStool_sameMemory j).mono fun a ha => ⟨j, List.mem_cons_self, ha⟩) (h3.mono ?_)
      rintro a ⟨k, hk, ha⟩
      exact ⟨k, List.mem_cons_of_mem _ hk, ha⟩

/-! ### Fallow stools -/

/-- STATE, CAUSE, CLOCKS and PID of the stools. -/
def stoolRegs (x : Nat) : Prop := 0x51001000 * 64 ≤ x

theorem WritesIn.stoolTo {s t : State} (h : WritesIn stoolRegs s t) (k n : Nat) : WritesIn stoolRegs s (t.stoolTo k n) :=
  h.wr (by simp only [stoolRegs, Fld.key, R.COPPICE_STOOL_STATUS_STATE]; omega) n

theorem stoolTo_same (s : State) (k n : Nat) : (s.stoolTo k n).stoolSt k = n % 8 := State.wr_rd_same _ _ _

theorem stoolTo_sameStool (s : State) {j k : Nat} (h : k ≠ j) (n : Nat) : sameStool s (s.stoolTo j n) k :=
  .of_eq (State.wr_rd_ne _ _ _ _ (by simp only [Fld.key, R.COPPICE_STOOL_STATUS_STATE, ne_eq]; omega)) (State.wr_rd_ne _ _ _ _ (by simp only [Fld.key, R.COPPICE_STOOL_PID, R.COPPICE_STOOL_STATUS_STATE, ne_eq]; omega))
    (congrArg Coppice.cfg (State.wr_cop _ _ _))

theorem pid_sameStool (s : State) {j k : Nat} (h : k ≠ j) (n : Nat) : sameStool s (s.wr (R.COPPICE_STOOL_PID j) n) k :=
  .of_eq (State.wr_rd_ne _ _ _ _ (by simp only [Fld.key, R.COPPICE_STOOL_STATUS_STATE, R.COPPICE_STOOL_PID, ne_eq]; omega)) (State.wr_rd_ne _ _ _ _ (by simp only [Fld.key, R.COPPICE_STOOL_PID, ne_eq]; omega))
    (congrArg Coppice.cfg (State.wr_cop _ _ _))

theorem clocks_sameStool (s : State) (j k n : Nat) : sameStool s (s.wr (R.COPPICE_STOOL_STATUS_CLOCKS j) n) k :=
  .of_eq (State.wr_rd_ne _ _ _ _ (by simp only [Fld.key, R.COPPICE_STOOL_STATUS_STATE, R.COPPICE_STOOL_STATUS_CLOCKS, ne_eq]; omega))
    (State.wr_rd_ne _ _ _ _ (by simp only [Fld.key, R.COPPICE_STOOL_PID, R.COPPICE_STOOL_STATUS_CLOCKS, ne_eq]; omega)) (congrArg Coppice.cfg (State.wr_cop _ _ _))

section
variable (s : State)

theorem State.fallow_ms (k : Nat) : (s.fallow k).ms = (s.eraseStool k).ms := by
  rw [State.fallow, State.wr_ms, State.wr_ms, State.stoolTo, State.wr_ms]

theorem State.fallow_cop (k : Nat) : (s.fallow k).cop = (s.eraseStool k).cop := by
  rw [State.fallow, State.wr_cop, State.wr_cop, State.stoolTo, State.wr_cop]

theorem State.fallow_erased {j k : Nat} : (s.fallow j).stoolErased k ↔ (s.eraseStool j).stoolErased k := by
  rw [State.stoolErased, State.stoolErased, State.fallow_ms, State.fallow_cop]

/-- A stool that is FALLOW, as its registers show it. -/
def State.stoolFallow (k : Nat) : Prop := s.stoolSt k = 0 ∧ s.rd (R.COPPICE_STOOL_PID k) = 0

theorem State.fallow_shows (k : Nat) : (s.fallow k).stoolFallow k := by
  constructor
  · refine (State.wr_rd_ne _ _ _ _ (by simp only [Fld.key, R.COPPICE_STOOL_STATUS_STATE, R.COPPICE_STOOL_STATUS_CLOCKS, ne_eq]; omega)).trans ?_
    exact (State.wr_rd_ne _ _ _ _ (by simp only [Fld.key, R.COPPICE_STOOL_STATUS_STATE, R.COPPICE_STOOL_PID, ne_eq]; omega)).trans (stoolTo_same _ _ _)
  · exact (State.wr_rd_ne _ _ _ _ (by simp only [Fld.key, R.COPPICE_STOOL_PID, R.COPPICE_STOOL_STATUS_CLOCKS, ne_eq]; omega)).trans (State.wr_rd_same _ _ _)

theorem State.fallow_sameStool {j k : Nat} (h : k ≠ j) : sameStool s (s.fallow j) k :=
  (((s.eraseStool_sameStool h).trans (stoolTo_sameStool _ h _)).trans (pid_sameStool _ h _)).trans (clocks_sameStool _ _ _ _)

theorem State.fallow_writes (k : Nat) : WritesIn stoolRegs s (s.fallow k) :=
  ((((WritesIn.refl _ s).of_regs (s.eraseStool_regs k)).stoolTo k 0).wr (by simp only [stoolRegs, Fld.key, R.COPPICE_STOOL_PID]; omega) 0).wr
    (by simp only [stoolRegs, Fld.key, R.COPPICE_STOOL_STATUS_CLOCKS]; omega) 0

end

theorem State.fallow_all (l : List Nat) (s : State) : ErasesAll l s (l.foldl State.fallow s) ∧ (∀ k ∈ l, (l.foldl State.fallow s).stoolFallow k) ∧
    WritesIn stoolRegs s (l.foldl State.fallow s) ∧ (∀ k, s.stoolErased k → (l.foldl State.fallow s).stoolErased k) ∧
    ∀ k, s.stoolFallow k → (l.foldl State.fallow s).stoolFallow k := by
  induction l generalizing s with
  | nil =>
    exact ⟨⟨fun _ h => absurd h List.not_mem_nil, fun k _ => .refl s k, .refl s _, rfl⟩, fun _ h => absurd h List.not_mem_nil, .refl _ s, fun _ h => h,
      fun _ h => h⟩
  | cons j l ih =>
    obtain ⟨⟨h1, h2, h3, h4⟩, h5, h6, h7, h8⟩ := ih (s.fallow j)
    have hf (k : Nat) (hk : s.stoolFallow k) : (s.fallow j).stoolFallow k := by
      by_cases hkj : k = j
      · exact hkj ▸ s.fallow_shows k
      · obtain ⟨e1, e2, -⟩ := s.fallow_sameStool hkj
        exact ⟨e1.trans hk.1, e2.trans hk.2⟩
    have hj : ((j :: l).foldl State.fallow s).stoolErased j ∧ ((j :: l).foldl State.fallow s).stoolFallow j :=
      ⟨h7 j (s.fallow_erased.mpr (s.eraseStool_erased j)), h8 j (s.fallow_shows j)⟩
    refine ⟨⟨fun k hk => ?_, fun k hk => ?_, ?_, h4.trans ((congrArg Coppice.bytes (s.fallow_cop j)).trans (s.eraseStool_bytes j))⟩, fun k hk => ?_, (s.fallow_writes j).trans h6,
      fun k hk => h7 k (s.fallow_erased.mpr (s.eraseStool_keeps_erased j hk)), fun k hk => h8 k (hf k hk)⟩
    · rcases List.mem_cons.mp hk with rfl | hk
      · exact hj.1
      · exact h1 k hk
    · obtain ⟨hkj, hl⟩ := List.ne_and_not_mem_of_not_mem_cons hk
      exact (s.fallow_sameStool hkj).trans (h2 k hl)
    · refine sameMemory.trans (((s.eraseStool_sameMemory j).of_ms (s.fallow_ms j)).mono fun a ha => ⟨j, List.mem_cons_self, ha⟩) (h3.mono ?_)
      rintro a ⟨k, hk, ha⟩
      exact ⟨k, List.mem_cons_of_mem _ hk, ha⟩
    · rcases List.mem_cons.mp hk with rfl | hk
      · exact hj.2
      · exact h5 k hk

/-! ### The end of a load -/

section
variable (s : State) (st c : Nat)

theorem State.loadDone_regs : (s.loadDone st c).regs = (((s.wr R.COPPICE_LOAD_STATUS_STATUS st).wr R.COPPICE_LOAD_STATUS_CAUSE c).loadTo 8).regs := by
  rw [State.loadDone, State.irqIf_regs, State.irqHost_regs, State.setCop_regs]

theorem State.loadDone_cop : (s.loadDone st c).cop = { s.cop with bytes := [] } := by
  rw [State.loadDone, State.irqIf_cop, State.irqHost_cop, State.setCop_cop, State.loadTo, State.wr_cop, State.wr_cop, State.wr_cop]

theorem State.loadDone_ms : (s.loadDone st c).ms = s.ms := by
  rw [State.loadDone, State.irqIf_ms, State.irqHost_ms, State.setCop_ms, State.loadTo, State.wr_ms, State.wr_ms, State.wr_ms]

theorem State.loadDone_sameRegs : sameRegs s (s.loadDone st c) [R.COPPICE_LOAD_STATUS_STATUS, R.COPPICE_LOAD_STATUS_CAUSE, R.COPPICE_LOAD_STATUS_STATE] :=
  ((((sameRegs.refl s _).wr (by simp) st).wr (by simp) c).wr (by simp) 8).of_regs (s.loadDone_regs st c)

theorem State.loadDone_sameStool (k : Nat) : sameStool s (s.loadDone st c) k :=
  .of_eq (s.loadDone_sameRegs st c _ (by simp only [List.mem_cons, List.not_mem_nil, or_false, forall_eq_or_imp, forall_eq, Fld.key, R.COPPICE_STOOL_STATUS_STATE, R.COPPICE_LOAD_STATUS_STATUS, R.COPPICE_LOAD_STATUS_CAUSE, R.COPPICE_LOAD_STATUS_STATE, ne_eq]; omega))
    (s.loadDone_sameRegs st c _ (by simp only [List.mem_cons, List.not_mem_nil, or_false, forall_eq_or_imp, forall_eq, Fld.key, R.COPPICE_STOOL_PID, R.COPPICE_LOAD_STATUS_STATUS, R.COPPICE_LOAD_STATUS_CAUSE, R.COPPICE_LOAD_STATUS_STATE, ne_eq]; omega))
    (by rw [State.loadDone_cop])

theorem mem_irqHost (i : Nat) : i ∈ (s.irqHost i).hostIrq := by
  show i ∈ (if s.hostIrq.contains i then s.hostIrq else s.hostIrq ++ [i])
  split
  · next h => exact List.contains_iff_mem.mp h
  · exact List.mem_append_right _ (List.mem_singleton_self _)

variable {st c} in
theorem State.loadDone_ended (hst : st < 8) (hc : c < 16) : loadEnded (s.loadDone st c) st c := by
  have hrd (f : Fld) := State.rd_congr (s.loadDone_regs st c) f
  refine ⟨(hrd _).trans (State.wr_rd_same _ _ _), ?_, ?_, congrArg Coppice.bytes (s.loadDone_cop st c), ?_, fun hb => ?_⟩
  · rw [hrd, State.loadTo, State.wr_rd_ne _ _ _ _ (by decide), State.wr_rd_ne _ _ _ _ (by decide), State.wr_rd_same]
    exact Nat.mod_eq_of_lt hst
  · rw [hrd, State.loadTo, State.wr_rd_ne _ _ _ _ (by decide), State.wr_rd_same]
    exact Nat.mod_eq_of_lt hc
  · rw [State.loadDone, State.irqIf_hostIrq]
    exact mem_irqHost _ _
  · rw [State.bit_eq, hrd, ← State.bit_eq] at hb
    have ht : ((((s.wr R.COPPICE_LOAD_STATUS_STATUS st).wr R.COPPICE_LOAD_STATUS_CAUSE c).loadTo 8).setCop
        (fun c => { c with bytes := [] })).bit R.COPPICE_CTRL_IRQ_LOAD = true := hb
    rw [State.loadDone, ht]
    exact State.mem_irqIf _ _ _

variable {st c} in
/-- A load that fails erases its targets once its header has passed, and ends. -/
theorem State.loadFail_failed (hst : st < 8) (hc : c < 16) : loadFailed s (s.loadFail st c) st c := by
  let u := if 2 ≤ s.loadSt then s.targets.foldl State.fallow s else s
  have hu : s.loadFail st c = u.loadDone st c := rfl
  have hw : WritesIn stoolRegs s u := WritesIn.ite (State.fallow_all _ s).2.2.1 (.refl _ s)
  have hld {f : Fld} (hne : ∀ x ∈ [R.COPPICE_LOAD_STATUS_STATUS, R.COPPICE_LOAD_STATUS_CAUSE, R.COPPICE_LOAD_STATUS_STATE], f.key ≠ x.key)
      (hlt : f.key < 0x51001000 * 64) : (u.loadDone st c).rd f = s.rd f :=
    (u.loadDone_sameRegs st c f hne).trans (hw f (Nat.not_le.mpr hlt))
  rw [hu]
  refine ⟨u.loadDone_ended hst hc, fun h2 k hk => ?_, fun k _ hk => ?_, ?_, hld (by decide) (by decide), hld (by decide) (by decide)⟩
  · have he : u = s.targets.foldl State.fallow s := if_pos h2
    obtain ⟨⟨h1, -, -, -⟩, h5, -⟩ := State.fallow_all s.targets s
    rw [← he] at h1 h5
    obtain ⟨hcfg, hram⟩ := h1 k hk
    obtain ⟨hs1, hs2⟩ := h5 k hk
    obtain ⟨hd1, hd2, hd3⟩ := u.loadDone_sameStool st c k
    exact ⟨hd1.trans hs1, hd2.trans hs2, fun i hi => (hd3 i hi).trans (hcfg i hi), fun a ha hb => by rw [State.loadDone_ms]; exact hram a ha hb⟩
  · refine sameStool.trans ?_ (u.loadDone_sameStool st c k)
    by_cases h2 : 2 ≤ s.loadSt
    · have he : u = s.targets.foldl State.fallow s := if_pos h2
      rw [he]
      exact (State.fallow_all s.targets s).1.others k (hk.resolve_left (by omega))
    · have he : u = s := if_neg h2
      exact he ▸ .refl s k
  · refine sameMemory.of_ms ?_ (u.loadDone_ms st c)
    by_cases h2 : 2 ≤ s.loadSt
    · have he : u = s.targets.foldl State.fallow s := if_pos h2
      rw [he]
      exact (State.fallow_all s.targets s).1.memory.mono fun a ha => ⟨h2, ha⟩
    · have he : u = s := if_neg h2
      exact he ▸ .refl s _

end

end Sys2Proof.Machine

namespace Sys2Proof.Claims

set_option Elab.async false

open Sys2Proof.Machine

/-! ## O48: a load opens, takes its bytes, and ends early -/

theorem loading_of_loadSt {s : State} (h1 : 1 ≤ s.loadSt) (h7 : s.loadSt ≤ 7) : s.loading = true := by
  simp [State.loading, h1, h7]

/-- The registers of the load as one begins: STATE 1, everything else 0 (R527). -/
def begunLoad (s : State) : State :=
  ((((((((s.loadTo 1).wr R.COPPICE_LOAD_STATUS_STATUS 0).wr R.COPPICE_LOAD_STATUS_CAUSE 0).wr R.COPPICE_LOAD_STATUS_ABORT_LATE 0).wr
    R.COPPICE_LOAD_STATUS_TOUCHED 0).wr R.COPPICE_LOAD_STATUS_BEGIN_REFUSED 0).wr R.COPPICE_LOAD_STATUS_MASK 0).wr R.COPPICE_LOAD_BYTES 0).wr
    R.COPPICE_LOAD_FRAME 0

/-- The registers of the load. -/
def loadRegs (k : Nat) : Prop := addrIn 0x51000014 0x51000030 k

section
variable (s : State)

theorem begunLoad_cop : (begunLoad s).cop = s.cop := by simp only [begunLoad, State.loadTo, State.wr_cop]

theorem begunLoad_loadSt : (begunLoad s).loadSt = 1 := by
  simp (disch := decide) only [State.loadSt, begunLoad, State.loadTo, State.wr_rd_ne, State.wr_rd_same]
  rfl

theorem begunLoad_zero (f : Fld) (hf : f ∈ [R.COPPICE_LOAD_STATUS_STATUS, R.COPPICE_LOAD_STATUS_CAUSE, R.COPPICE_LOAD_STATUS_ABORT_LATE,
    R.COPPICE_LOAD_STATUS_TOUCHED, R.COPPICE_LOAD_STATUS_BEGIN_REFUSED, R.COPPICE_LOAD_STATUS_MASK, R.COPPICE_LOAD_BYTES, R.COPPICE_LOAD_FRAME]) :
    (begunLoad s).rd f = 0 := by
  simp only [List.mem_cons, List.not_mem_nil, or_false] at hf
  rcases hf with rfl | rfl | rfl | rfl | rfl | rfl | rfl | rfl <;>
    simp (disch := decide) only [begunLoad, State.wr_rd_ne, State.wr_rd_same, Nat.zero_mod]

theorem begunLoad_writes : WritesIn loadRegs s (begunLoad s) := by
  refine ((((((((WritesIn.wr (.refl _ s) ?_ 1).wr ?_ 0).wr ?_ 0).wr ?_ 0).wr ?_ 0).wr ?_ 0).wr ?_ 0).wr ?_ 0).wr ?_ 0
  all_goals exact ⟨by decide, by decide⟩

theorem stools_not_loadRegs (k : Nat) : ¬ loadRegs (R.COPPICE_STOOL_STATUS_STATE k).key ∧ ¬ loadRegs (R.COPPICE_STOOL_PID k).key := by
  simp only [loadRegs, addrIn, Fld.key, R.COPPICE_STOOL_STATUS_STATE, R.COPPICE_STOOL_PID]
  omega

/-- A stool is as it was where the load's registers are written only. -/
theorem sameStool.of_writes {s t : State} (hw : WritesIn loadRegs s t) (hc : t.cop.cfg = s.cop.cfg) (k : Nat) : sameStool s t k :=
  .of_eq (hw _ (stools_not_loadRegs k).1) (hw _ (stools_not_loadRegs k).2) hc

end

theorem loadBegin_begins : ∀ (s : State), s.loading = false → s.bit R.COPPICE_CTRL_ENABLE = true → ∃ t, exec .coppiceLoadBegin s = .next t ∧ t.loadSt = 1 ∧ t.cop.bytes = [] ∧
    (∀ f ∈ [R.COPPICE_LOAD_STATUS_STATUS, R.COPPICE_LOAD_STATUS_CAUSE, R.COPPICE_LOAD_STATUS_ABORT_LATE, R.COPPICE_LOAD_STATUS_TOUCHED,
      R.COPPICE_LOAD_STATUS_BEGIN_REFUSED, R.COPPICE_LOAD_STATUS_MASK, R.COPPICE_LOAD_BYTES, R.COPPICE_LOAD_FRAME], t.rd f = 0) ∧
    (∀ k < 16, sameStool s t k) := by
  intro s hl hen
  have he : exec .coppiceLoadBegin s = .next ((begunLoad s).setCop (fun c => { c with bytes := [], last := s.stp.now })) := if_neg (by simp [hl, hen])
  refine ⟨_, he, ?_, rfl, fun f hf => ?_, fun k _ => .of_writes ?_ ?_ k⟩
  · rw [State.loadSt, State.setCop_rd]
    exact begunLoad_loadSt s
  · rw [State.setCop_rd]
    exact begunLoad_zero s f hf
  · exact (begunLoad_writes s).of_regs (State.setCop_regs _ _)
  · rw [State.setCop_cop, begunLoad_cop]

theorem loadBegin_refused : ∀ (s : State), (s.loading = true ∨ s.bit R.COPPICE_CTRL_ENABLE = false) →
    exec .coppiceLoadBegin s = .next (s.wr R.COPPICE_LOAD_STATUS_BEGIN_REFUSED 1) := by
  intro s h
  refine if_pos ?_
  rcases h with h | h <;> simp [h]

theorem cfgDataWrite_foreign : ∀ (s : State) (mid : Mid) (bs : List (Nat × Bool)) (e : Bool), mid ≠ 0xC0 →
    exec (.coppiceCfgDataWrite mid bs e) s = .next { s with ans := abortedBy 7 } := fun _ _ _ _ h => if_pos h

theorem cfgDataWrite_idle : ∀ (s : State) (bs : List (Nat × Bool)) (e : Bool), s.loading = false → ∃ t, exec (.coppiceCfgDataWrite 0xC0 bs e) s = .next t ∧ t.ans = acked ∧
    t.rd R.COPPICE_IDLE_WRITES = (s.rd R.COPPICE_IDLE_WRITES + 1) % 2 ^ 32 ∧ t.cop = s.cop ∧ sameRegs s t [R.COPPICE_IDLE_WRITES] := by
  intro s bs e hl
  have he : exec (.coppiceCfgDataWrite 0xC0 bs e) s = .next (s.inc R.COPPICE_IDLE_WRITES).ack := by
    show execCoppiceCfgDataWrite 0xC0 bs e s = _
    rw [execCoppiceCfgDataWrite, if_neg (by decide), if_pos (by simp [hl])]
  exact ⟨_, he, rfl, (State.ack_rd _ _).trans (State.inc_rd_same _ _), (State.ack_cop _).trans (State.inc_cop _ _),
    ((sameRegs.refl s _).inc (List.mem_singleton_self _)).ack⟩

theorem cfgDataWrite_ragged : ∀ (s : State) (bs : List (Nat × Bool)) (e : Bool), s.loading = true → s.loadSt ≠ 7 → (bs.length % 4 ≠ 0 ∨ e = false) →
    ∃ t, exec (.coppiceCfgDataWrite 0xC0 bs e) s = .next t ∧ t.ans = acked ∧ loadFailed s t 4 8 := by
  intro s bs e hl h7 hbad
  have he : exec (.coppiceCfgDataWrite 0xC0 bs e) s = .next (s.loadFail 4 8).ack := by
    show execCoppiceCfgDataWrite 0xC0 bs e s = _
    rw [execCoppiceCfgDataWrite, if_neg (by decide), if_neg (by simp [hl]), if_neg h7, if_pos (by simpa using hbad)]
  exact ⟨_, he, rfl, (s.loadFail_failed (by decide) (by decide)).ack⟩

/-- The state that has taken bytes of the stream, before it looks at them. -/
def tookBytes (s : State) (bs : List (Nat × Bool)) : State :=
  (s.setCop (fun c => { c with bytes := c.bytes ++ bs, last := s.stp.now })).add R.COPPICE_LOAD_BYTES bs.length

section
variable (s : State) (bs : List (Nat × Bool))

theorem tookBytes_bytes : (tookBytes s bs).cop.bytes = s.cop.bytes ++ bs := congrArg Coppice.bytes (State.add_cop _ _ _)

theorem tookBytes_cfg : (tookBytes s bs).cop.cfg = s.cop.cfg := by rw [tookBytes, State.add_cop, State.setCop_cop]

theorem tookBytes_count : (tookBytes s bs).rd R.COPPICE_LOAD_BYTES = (s.rd R.COPPICE_LOAD_BYTES + bs.length) % 2 ^ 32 := State.add_rd_same _ _ _

theorem tookBytes_sameRegs : sameRegs s (tookBytes s bs) [R.COPPICE_LOAD_BYTES] :=
  ((sameRegs.refl s [R.COPPICE_LOAD_BYTES]).of_regs (State.setCop_regs s _)).add (List.mem_singleton_self _) _

theorem tookBytes_loadSt : (tookBytes s bs).loadSt = s.loadSt := tookBytes_sameRegs s bs _ (by decide)

theorem tookBytes_sameStool (k : Nat) : sameStool s (tookBytes s bs) k :=
  .of_eq (tookBytes_sameRegs s bs _ (by simp only [List.mem_cons, List.not_mem_nil, or_false, forall_eq, Fld.key, R.COPPICE_STOOL_STATUS_STATE, R.COPPICE_LOAD_BYTES, ne_eq]; omega)) (tookBytes_sameRegs s bs _ (by simp only [List.mem_cons, List.not_mem_nil, or_false, forall_eq, Fld.key, R.COPPICE_STOOL_PID, R.COPPICE_LOAD_BYTES, ne_eq]; omega))
    (tookBytes_cfg s bs)

end

/-- Only the bytes of the stream are read as its header. -/
theorem State.hdr_congr {s t : State} (h : t.cop.bytes = s.cop.bytes) (i : Nat) : t.hdr i = s.hdr i := by rw [State.hdr, State.hdr, h]

theorem State.targets_congr {s t : State} (h : t.cop.bytes = s.cop.bytes) : t.targets = s.targets := by
  rw [State.targets, State.targets, State.hdr_congr h]

theorem tookBytes_hdr (s : State) (bs : List (Nat × Bool)) (i : Nat) : (tookBytes s bs).hdr i = (withBytes s bs).hdr i := State.hdr_congr (tookBytes_bytes s bs) i

/-- A write of whole words, of which the holding buffer has room for all. -/
theorem cfgDataWrite_takes {s : State} {bs : List (Nat × Bool)} (h1 : 1 ≤ s.loadSt) (h6 : s.loadSt ≤ 6) (h4 : bs.length % 4 = 0)
    (hroom : s.cop.bytes.length + bs.length ≤ 131072 + s.consumed) : exec (.coppiceCfgDataWrite 0xC0 bs true) s = .next
      ((if s.loadSt = 1 ∧ 64 ≤ s.cop.bytes.length + bs.length then (tookBytes s bs).takeHeader else tookBytes s bs).dropExtra).ack := by
  have hl := loading_of_loadSt h1 (Nat.le_succ_of_le h6)
  have hlen : (tookBytes s bs).cop.bytes.length = s.cop.bytes.length + bs.length := by rw [tookBytes_bytes, List.length_append]
  show execCoppiceCfgDataWrite 0xC0 bs true s = _
  rw [execCoppiceCfgDataWrite, if_neg (by decide), if_neg (by simp [hl]), if_neg (by omega), if_neg (by simp [h4]), if_neg (by omega), ← hlen,
    ← tookBytes_loadSt s bs]
  rfl

/-- Nothing is discarded before the header has passed, after the load has ended, or within LENGTH. -/
theorem State.dropExtra_none {s : State} (h : s.loadSt < 2 ∨ 7 < s.loadSt ∨ s.cop.bytes.length ≤ s.hdrLength) : s.dropExtra = s := by
  refine if_neg fun ⟨h2, hl, hn⟩ => ?_
  simp only [State.loading, Bool.and_eq_true, decide_eq_true_eq] at hl
  omega

theorem State.dropExtra_some {s : State} (h2 : 2 ≤ s.loadSt) (h7 : s.loadSt ≤ 7) (h : s.hdrLength < s.cop.bytes.length) :
    s.dropExtra = ((s.setCop (fun c => { c with bytes := c.bytes.take s.hdrLength })).add R.COPPICE_EXTRA_BYTES (s.cop.bytes.length - s.hdrLength)).wr
      R.COPPICE_LOAD_BYTES s.hdrLength :=
  if_pos ⟨h2, loading_of_loadSt (by omega) h7, by omega⟩

theorem cfgDataWrite_header_part : ∀ (s : State) (bs : List (Nat × Bool)), s.loadSt = 1 → bs.length % 4 = 0 → s.cop.bytes.length + bs.length < 64 →
    ∃ t, exec (.coppiceCfgDataWrite 0xC0 bs true) s = .next t ∧ t.ans = acked ∧ t.loadSt = 1 ∧ t.cop.bytes = s.cop.bytes ++ bs ∧
      t.rd R.COPPICE_LOAD_BYTES = (s.rd R.COPPICE_LOAD_BYTES + bs.length) % 2 ^ 32 ∧ sameRegs s t [R.COPPICE_LOAD_BYTES] := by
  intro s bs h1 h4 hlen
  have he : exec (.coppiceCfgDataWrite 0xC0 bs true) s = .next (tookBytes s bs).ack := by
    rw [cfgDataWrite_takes h1.ge (by omega) h4 (by omega), if_neg (by omega), State.dropExtra_none (.inl (by rw [tookBytes_loadSt]; omega))]
  exact ⟨_, he, rfl, (State.ack_rd _ _).trans ((tookBytes_loadSt s bs).trans h1), (congrArg Coppice.bytes (State.ack_cop _)).trans (tookBytes_bytes s bs),
    (State.ack_rd _ _).trans (tookBytes_count s bs), (tookBytes_sameRegs s bs).ack⟩

/-! ### The header -/

/-- The checks of the header read the stream and settings that a load does not write. -/
theorem State.headerFault_congr {s t : State} (hb : t.cop.bytes = s.cop.bytes) (hw : WritesIn loadRegs s t) : t.headerFault = s.headerFault := by
  have hid : t.rd R.COPPICE_ID = s.rd R.COPPICE_ID := hw _ (by simp only [loadRegs, addrIn, Fld.key, R.COPPICE_ID]; omega)
  have hrev : t.rd R.COPPICE_REV_REV = s.rd R.COPPICE_REV_REV := hw _ (by simp only [loadRegs, addrIn, Fld.key, R.COPPICE_REV_REV]; omega)
  have hsec : t.bit R.COPPICE_CTRL_SECURE_REQ = s.bit R.COPPICE_CTRL_SECURE_REQ := by
    rw [State.bit_eq, State.bit_eq, hw _ (by simp only [loadRegs, addrIn, Fld.key, R.COPPICE_CTRL_SECURE_REQ]; omega)]
  have hst (k : Nat) : t.stoolSt k = s.stoolSt k := hw _ (by simp only [loadRegs, addrIn, Fld.key, R.COPPICE_STOOL_STATUS_STATE]; omega)
  have hen (k : Nat) : t.bit (R.COPPICE_UCLK_CFG_EN k) = s.bit (R.COPPICE_UCLK_CFG_EN k) := by
    rw [State.bit_eq, State.bit_eq, hw _ (by simp only [loadRegs, addrIn, Fld.key, R.COPPICE_UCLK_CFG_EN]; omega)]
  have hlk (k : Nat) : t.bit (R.COPPICE_UCLK_CFG_LOCKED k) = s.bit (R.COPPICE_UCLK_CFG_LOCKED k) := by
    rw [State.bit_eq, State.bit_eq, hw _ (by simp only [loadRegs, addrIn, Fld.key, R.COPPICE_UCLK_CFG_LOCKED]; omega)]
  simp only [State.headerFault, hb, State.targets_congr hb, State.hdr_congr hb, State.hdrSigned, hid, hrev, hsec, hst, hen, hlk]
  rfl

/-- STATUS and CAUSE of a header's fault fit their fields. -/
theorem State.headerFault_lt {s : State} {c : Nat × Nat} (h : s.headerFault = some c) : c.1 < 8 ∧ c.2 < 16 := by
  unfold State.headerFault at h
  dsimp only at h
  split_ifs at h <;> simp only [Option.some.injEq] at h <;> subst h <;> decide

/-- One target of a load becomes LOADING (R529). -/
def State.startTarget (v : Nat) (s : State) (k : Nat) : State := (s.stoolTo k 1).wr (R.COPPICE_STOOL_STATUS_CLOCKS k) v

section
variable (v : Nat)

theorem startTarget_sameStool (s : State) {j k : Nat} (h : k ≠ j) : sameStool s (State.startTarget v s j) k :=
  (stoolTo_sameStool s h 1).trans (clocks_sameStool _ _ _ _)

theorem startTarget_shows (s : State) (k : Nat) :
    (State.startTarget v s k).stoolSt k = 1 ∧ (State.startTarget v s k).rd (R.COPPICE_STOOL_STATUS_CLOCKS k) = v % 2 ^ 8 :=
  ⟨(clocks_sameStool _ k k v).1.trans (stoolTo_same s k 1), State.wr_rd_same _ _ _⟩

theorem startTarget_clocks_ne (s : State) {j k : Nat} (h : k ≠ j) :
    (State.startTarget v s j).rd (R.COPPICE_STOOL_STATUS_CLOCKS k) = s.rd (R.COPPICE_STOOL_STATUS_CLOCKS k) :=
  (State.wr_rd_ne _ _ _ _ (by simp only [Fld.key, R.COPPICE_STOOL_STATUS_CLOCKS, ne_eq]; omega)).trans (State.wr_rd_ne _ _ _ _ (by simp only [Fld.key, R.COPPICE_STOOL_STATUS_CLOCKS, R.COPPICE_STOOL_STATUS_STATE, ne_eq]; omega))

theorem startTargets_spec (l : List Nat) (s : State) :
    (∀ k, k ∈ l ∨ (s.stoolSt k = 1 ∧ s.rd (R.COPPICE_STOOL_STATUS_CLOCKS k) = v % 2 ^ 8) →
      (l.foldl (State.startTarget v) s).stoolSt k = 1 ∧ (l.foldl (State.startTarget v) s).rd (R.COPPICE_STOOL_STATUS_CLOCKS k) = v % 2 ^ 8) ∧
    (∀ k, k ∉ l → sameStool s (l.foldl (State.startTarget v) s) k) ∧ WritesIn stoolRegs s (l.foldl (State.startTarget v) s) ∧
    (l.foldl (State.startTarget v) s).cop = s.cop := by
  induction l generalizing s with
  | nil => exact ⟨fun k h => h.resolve_left List.not_mem_nil, fun k _ => .refl s k, .refl _ s, rfl⟩
  | cons j l ih =>
    obtain ⟨h1, h2, h3, h4⟩ := ih (State.startTarget v s j)
    refine ⟨fun k hk => h1 k ?_, fun k hk => ?_, WritesIn.trans (((WritesIn.refl _ s).stoolTo j 1).wr ?_ v) h3, h4.trans ?_⟩
    · by_cases hkj : k = j
      · exact .inr (hkj ▸ startTarget_shows v s j)
      · refine hk.imp (fun hm => (List.mem_cons.mp hm).resolve_left hkj) fun ⟨e1, e2⟩ => ⟨?_, ?_⟩
        · exact (startTarget_sameStool v s hkj).1.trans e1
        · exact (startTarget_clocks_ne v s hkj).trans e2
    · obtain ⟨hkj, hl⟩ := List.ne_and_not_mem_of_not_mem_cons hk
      exact (startTarget_sameStool v s hkj).trans (h2 k hl)
    · simp only [stoolRegs, Fld.key, R.COPPICE_STOOL_STATUS_CLOCKS]; omega
    · rw [State.startTarget, State.wr_cop, State.stoolTo, State.wr_cop]

end

section
variable (s : State)

theorem dropExtra_sameRegs : sameRegs s s.dropExtra [R.COPPICE_EXTRA_BYTES, R.COPPICE_LOAD_BYTES] := by
  unfold State.dropExtra
  dsimp only
  split
  · exact (((sameRegs.refl s _).of_regs (State.setCop_regs s _)).add (by simp) _).wr (by simp) _
  · exact .refl s _

theorem dropExtra_cfg : s.dropExtra.cop.cfg = s.cop.cfg := by
  unfold State.dropExtra
  dsimp only
  split
  · rw [State.wr_cop, State.add_cop, State.setCop_cop]
  · rfl

theorem dropExtra_sameStool (k : Nat) : sameStool s s.dropExtra k :=
  .of_eq (dropExtra_sameRegs s _ (by simp only [List.mem_cons, List.not_mem_nil, or_false, forall_eq_or_imp, forall_eq, Fld.key, R.COPPICE_STOOL_STATUS_STATE, R.COPPICE_EXTRA_BYTES, R.COPPICE_LOAD_BYTES, ne_eq]; omega))
    (dropExtra_sameRegs s _ (by simp only [List.mem_cons, List.not_mem_nil, or_false, forall_eq_or_imp, forall_eq, Fld.key, R.COPPICE_STOOL_PID, R.COPPICE_EXTRA_BYTES, R.COPPICE_LOAD_BYTES, ne_eq]; omega)) (dropExtra_cfg s)

end

@[simp] theorem loadTo_cop (s : State) (n : Nat) : (s.loadTo n).cop = s.cop := State.wr_cop _ _ _

@[simp] theorem loadTo_ms (s : State) (n : Nat) : (s.loadTo n).ms = s.ms := State.wr_ms _ _ _

theorem loadTo_rd_ne (s : State) (n : Nat) {f : Fld} (h : f.key ≠ R.COPPICE_LOAD_STATUS_STATE.key) : (s.loadTo n).rd f = s.rd f := State.wr_rd_ne _ _ _ _ h

theorem nbits_mod (v lo w : Nat) : nbits v lo w % 2 ^ w = nbits v lo w := Nat.mod_mod _ _

/-- The state whose header the checks of R528 judge, with MASK shown. -/
def judged (s : State) (bs : List (Nat × Bool)) : State :=
  (tookBytes s bs).wr R.COPPICE_LOAD_STATUS_MASK (nbits ((withBytes s bs).hdr 3) 0 16)

section
variable (s : State) (bs : List (Nat × Bool))

theorem judged_sameRegs : sameRegs s (judged s bs) [R.COPPICE_LOAD_BYTES, R.COPPICE_LOAD_STATUS_MASK] :=
  ((tookBytes_sameRegs s bs).mono (by simp)).wr (by simp) _

theorem judged_cop : (judged s bs).cop = (tookBytes s bs).cop := State.wr_cop _ _ _

theorem judged_bytes : (judged s bs).cop.bytes = (withBytes s bs).cop.bytes := by
  rw [judged_cop, tookBytes_bytes]
  rfl

theorem judged_sameStool (k : Nat) : sameStool s (judged s bs) k :=
  .of_eq (judged_sameRegs s bs _ (by simp only [List.mem_cons, List.not_mem_nil, or_false, forall_eq_or_imp, forall_eq, Fld.key, R.COPPICE_STOOL_STATUS_STATE, R.COPPICE_LOAD_BYTES, R.COPPICE_LOAD_STATUS_MASK, ne_eq]; omega))
    (judged_sameRegs s bs _ (by simp only [List.mem_cons, List.not_mem_nil, or_false, forall_eq_or_imp, forall_eq, Fld.key, R.COPPICE_STOOL_PID, R.COPPICE_LOAD_BYTES, R.COPPICE_LOAD_STATUS_MASK, ne_eq]; omega)) (by rw [judged_cop, tookBytes_cfg])

theorem judged_fault : (judged s bs).headerFault = (withBytes s bs).headerFault := by
  refine State.headerFault_congr (judged_bytes s bs) (WritesIn.of_sameRegs (judged_sameRegs s bs) fun x hx => ?_)
  fin_cases hx <;> exact ⟨by decide, by decide⟩

/-- Its targets are LOADING, once the header has passed. -/
def startedLoad (s : State) (bs : List (Nat × Bool)) : State :=
  (withBytes s bs).targets.foldl (State.startTarget (nbits ((withBytes s bs).hdr 4) 8 8)) (judged s bs)

theorem startedLoad_target {k : Nat} (hk : k ∈ (withBytes s bs).targets) :
    (startedLoad s bs).stoolSt k = 1 ∧ (startedLoad s bs).rd (R.COPPICE_STOOL_STATUS_CLOCKS k) = nbits ((withBytes s bs).hdr 4) 8 8 := by
  obtain ⟨h1, h2⟩ := (startTargets_spec _ (withBytes s bs).targets (judged s bs)).1 k (.inl hk)
  exact ⟨h1, h2.trans (nbits_mod _ 8 8)⟩

theorem startedLoad_sameStool {k : Nat} (hk : k ∉ (withBytes s bs).targets) : sameStool s (startedLoad s bs) k :=
  (judged_sameStool s bs k).trans ((startTargets_spec _ _ (judged s bs)).2.1 k hk)

theorem startedLoad_mask : (startedLoad s bs).rd R.COPPICE_LOAD_STATUS_MASK = nbits ((withBytes s bs).hdr 3) 0 16 :=
  ((startTargets_spec _ _ (judged s bs)).2.2.1 _ (by simp only [stoolRegs, Fld.key, R.COPPICE_LOAD_STATUS_MASK]; omega)).trans
    ((State.wr_rd_same _ _ _).trans (nbits_mod _ 0 16))

theorem judged_eq : (tookBytes s bs).wr R.COPPICE_LOAD_STATUS_MASK (nbits ((tookBytes s bs).hdr 3) 0 16) = judged s bs := by
  rw [tookBytes_hdr, judged]

theorem takeHeader_fails {c : Nat × Nat} (h : (withBytes s bs).headerFault = some c) : (tookBytes s bs).takeHeader = (judged s bs).loadFail c.1 c.2 := by
  rw [State.takeHeader, judged_eq, judged_fault, h]

theorem takeHeader_passes (h : (withBytes s bs).headerFault = none) :
    (tookBytes s bs).takeHeader = ((startedLoad s bs).wr R.COPPICE_LOAD_STATUS_TOUCHED 1).loadTo 2 := by
  rw [State.takeHeader, judged_eq, judged_fault, h, startedLoad, State.targets_congr (judged_bytes s bs), tookBytes_hdr]
  rfl

/-- The write that brings the header whole. -/
theorem cfgDataWrite_judges {s : State} {bs : List (Nat × Bool)} (h1 : s.loadSt = 1) (h4 : bs.length % 4 = 0)
    (hlen : 64 ≤ s.cop.bytes.length + bs.length) (hroom : s.cop.bytes.length + bs.length ≤ 131072) :
    exec (.coppiceCfgDataWrite 0xC0 bs true) s = .next (tookBytes s bs).takeHeader.dropExtra.ack := by
  rw [cfgDataWrite_takes h1.ge (by omega) h4 (by omega), if_pos ⟨h1, hlen⟩]

end

theorem cfgDataWrite_header_passes : ∀ (s : State) (bs : List (Nat × Bool)), s.loadSt = 1 → bs.length % 4 = 0 → 64 ≤ s.cop.bytes.length + bs.length →
    s.cop.bytes.length + bs.length ≤ 131072 → (withBytes s bs).headerFault = none →
    ∃ t, exec (.coppiceCfgDataWrite 0xC0 bs true) s = .next t ∧ t.ans = acked ∧ t.loadSt = 2 ∧ t.rd R.COPPICE_LOAD_STATUS_TOUCHED = 1 ∧
      t.rd R.COPPICE_LOAD_STATUS_MASK = nbits ((withBytes s bs).hdr 3) 0 16 ∧
      (∀ k ∈ (withBytes s bs).targets, t.stoolSt k = 1 ∧ t.rd (R.COPPICE_STOOL_STATUS_CLOCKS k) = nbits ((withBytes s bs).hdr 4) 8 8) ∧
      (∀ k < 16, k ∉ (withBytes s bs).targets → sameStool s t k) := by
  intro s bs h1 h4 hlen hroom hfault
  have ht (k : Nat) (hk : k ∈ (withBytes s bs).targets) := startedLoad_target s bs hk
  have ho (k : Nat) (hk : k ∉ (withBytes s bs).targets) := startedLoad_sameStool s bs hk
  have hm := startedLoad_mask s bs
  have he : exec (.coppiceCfgDataWrite 0xC0 bs true) s = .next ((((startedLoad s bs).wr R.COPPICE_LOAD_STATUS_TOUCHED 1).loadTo 2).dropExtra).ack := by
    rw [cfgDataWrite_judges h1 h4 hlen hroom, takeHeader_passes s bs hfault]
  generalize startedLoad s bs = u at ht ho hm he
  have hr := dropExtra_sameRegs ((u.wr R.COPPICE_LOAD_STATUS_TOUCHED 1).loadTo 2)
  have hs (k : Nat) := dropExtra_sameStool ((u.wr R.COPPICE_LOAD_STATUS_TOUCHED 1).loadTo 2) k
  generalize ((u.wr R.COPPICE_LOAD_STATUS_TOUCHED 1).loadTo 2).dropExtra = w at he hr hs
  have hx {f : Fld} (h : ∀ x ∈ [R.COPPICE_EXTRA_BYTES, R.COPPICE_LOAD_BYTES], f.key ≠ x.key) :
      w.ack.rd f = ((u.wr R.COPPICE_LOAD_STATUS_TOUCHED 1).loadTo 2).rd f := (State.ack_rd _ _).trans (hr f h)
  have hstool (k : Nat) : sameStool u w.ack k :=
    sameStool.trans (.of_writes ((WritesIn.wr (.refl _ u) ⟨by decide, by decide⟩ 1).wr ⟨by decide, by decide⟩ 2) (by rw [State.wr_cop, State.wr_cop]) k) (hs k).ack
  refine ⟨_, he, rfl, ?_, ?_, ?_, fun k hk => ⟨?_, ?_⟩, fun k _ hk => ?_⟩
  · exact (hx (by decide)).trans (State.wr_rd_same _ _ _)
  · rw [hx (by decide), loadTo_rd_ne _ _ (by decide), State.wr_rd_same]
    rfl
  · rw [hx (by decide), loadTo_rd_ne _ _ (by decide), State.wr_rd_ne _ _ _ _ (by decide), hm]
  · exact (hstool k).1.trans (ht k hk).1
  · rw [hx (by simp only [List.mem_cons, List.not_mem_nil, or_false, forall_eq_or_imp, forall_eq, Fld.key, R.COPPICE_STOOL_STATUS_CLOCKS, R.COPPICE_EXTRA_BYTES, R.COPPICE_LOAD_BYTES, ne_eq]; omega), loadTo_rd_ne _ _ (by simp only [Fld.key, R.COPPICE_STOOL_STATUS_CLOCKS, R.COPPICE_LOAD_STATUS_STATE, ne_eq]; omega),
      State.wr_rd_ne _ _ _ _ (by simp only [Fld.key, R.COPPICE_STOOL_STATUS_CLOCKS, R.COPPICE_LOAD_STATUS_TOUCHED, ne_eq]; omega), (ht k hk).2]
  · exact (ho k hk).trans (hstool k)

theorem cfgDataWrite_header_fails : ∀ (s : State) (bs : List (Nat × Bool)) (c : Nat × Nat), s.loadSt = 1 → bs.length % 4 = 0 → 64 ≤ s.cop.bytes.length + bs.length →
    s.cop.bytes.length + bs.length ≤ 131072 → (withBytes s bs).headerFault = some c →
    ∃ t, exec (.coppiceCfgDataWrite 0xC0 bs true) s = .next t ∧ t.ans = acked ∧ loadEnded t c.1 c.2 ∧ (∀ k < 16, sameStool s t k) ∧
      t.rd R.COPPICE_LOAD_STATUS_TOUCHED = s.rd R.COPPICE_LOAD_STATUS_TOUCHED := by
  intro s bs c h1 h4 hlen hroom hfault
  obtain ⟨hst, hc⟩ := State.headerFault_lt hfault
  obtain ⟨hend, -, hstool, -, htouched, -⟩ := (judged s bs).loadFail_failed hst hc
  have he : exec (.coppiceCfgDataWrite 0xC0 bs true) s = .next ((judged s bs).loadFail c.1 c.2).ack := by
    rw [cfgDataWrite_judges h1 h4 hlen hroom, takeHeader_fails s bs hfault, State.dropExtra_none (.inr (.inl (by rw [hend.1]; decide)))]
  have hj : (judged s bs).loadSt = s.loadSt := judged_sameRegs s bs _ (by decide)
  exact ⟨_, he, rfl, hend, fun k hk => (judged_sameStool s bs k).trans (hstool k hk (.inl (by omega))),
    htouched.trans (judged_sameRegs s bs _ (by decide))⟩

/-! ### The bytes after the header -/

theorem cfgDataWrite_body : ∀ (s : State) (bs : List (Nat × Bool)), 2 ≤ s.loadSt → s.loadSt ≤ 6 → bs.length % 4 = 0 →
    s.cop.bytes.length + bs.length ≤ 131072 + s.consumed → (withBytes s bs).cop.bytes.length ≤ (withBytes s bs).hdrLength →
    ∃ t, exec (.coppiceCfgDataWrite 0xC0 bs true) s = .next t ∧ t.ans = acked ∧ t.cop.bytes = s.cop.bytes ++ bs ∧ t.loadSt = s.loadSt ∧
      t.rd R.COPPICE_LOAD_BYTES = (s.rd R.COPPICE_LOAD_BYTES + bs.length) % 2 ^ 32 ∧ sameRegs s t [R.COPPICE_LOAD_BYTES] := by
  intro s bs h2 h6 h4 hroom hlen
  have he : exec (.coppiceCfgDataWrite 0xC0 bs true) s = .next (tookBytes s bs).ack := by
    rw [cfgDataWrite_takes (by omega) h6 h4 hroom, if_neg (by omega), State.dropExtra_none (.inr (.inr ?_))]
    rw [State.hdrLength, tookBytes_hdr, tookBytes_bytes]
    exact hlen
  exact ⟨_, he, rfl, (congrArg Coppice.bytes (State.ack_cop _)).trans (tookBytes_bytes s bs), (State.ack_rd _ _).trans (tookBytes_loadSt s bs),
    (State.ack_rd _ _).trans (tookBytes_count s bs), (tookBytes_sameRegs s bs).ack⟩

theorem cfgDataWrite_extra : ∀ (s : State) (bs : List (Nat × Bool)), 2 ≤ s.loadSt → s.loadSt ≤ 6 → bs.length % 4 = 0 →
    s.cop.bytes.length + bs.length ≤ 131072 + s.consumed → (withBytes s bs).hdrLength < s.cop.bytes.length + bs.length →
    ∃ t, exec (.coppiceCfgDataWrite 0xC0 bs true) s = .next t ∧ t.ans = acked ∧ t.cop.bytes = (s.cop.bytes ++ bs).take (withBytes s bs).hdrLength ∧
      t.rd R.COPPICE_EXTRA_BYTES = (s.rd R.COPPICE_EXTRA_BYTES + (s.cop.bytes.length + bs.length - (withBytes s bs).hdrLength)) % 2 ^ 32 := by
  intro s bs h2 h6 h4 hroom hlen
  have hl : (tookBytes s bs).hdrLength = (withBytes s bs).hdrLength := tookBytes_hdr s bs 6
  have hb : (tookBytes s bs).cop.bytes.length = s.cop.bytes.length + bs.length := by rw [tookBytes_bytes, List.length_append]
  have he : exec (.coppiceCfgDataWrite 0xC0 bs true) s = .next ((((tookBytes s bs).setCop
      (fun c => { c with bytes := c.bytes.take (withBytes s bs).hdrLength })).add R.COPPICE_EXTRA_BYTES
        (s.cop.bytes.length + bs.length - (withBytes s bs).hdrLength)).wr R.COPPICE_LOAD_BYTES (withBytes s bs).hdrLength).ack := by
    rw [cfgDataWrite_takes (by omega) h6 h4 hroom, if_neg (by omega), State.dropExtra_some ?_ ?_ ?_, hb, hl]
    · rw [tookBytes_loadSt]
      exact h2
    · rw [tookBytes_loadSt]
      omega
    · rwa [hb, hl]
  refine ⟨_, he, rfl, ?_, ?_⟩
  · rw [State.ack_cop, State.wr_cop, State.add_cop, State.setCop_cop, tookBytes_bytes]
  · rw [State.ack_rd, State.wr_rd_ne _ _ _ _ (by decide), State.add_rd_same, State.setCop_rd, tookBytes_sameRegs s bs _ (by decide)]
    rfl

theorem cfgDataWrite_waits : ∀ (s : State) (bs : List (Nat × Bool)), s.loading = true → s.loadSt ≠ 7 → s.streamWhole = false → bs.length % 4 = 0 →
    131072 + s.consumed < s.cop.bytes.length + bs.length → exec (.coppiceCfgDataWrite 0xC0 bs true) s = .next s := by
  intro s bs hl h7 hw h4 hroom
  show execCoppiceCfgDataWrite 0xC0 bs true s = _
  rw [execCoppiceCfgDataWrite, if_neg (by decide), if_neg (by simp [hl]), if_neg h7, if_neg (by simp [h4]), if_pos ⟨by omega, by simp [hw]⟩]

/-! ### Early ends, and the erasure of the targets -/

theorem loadEnd_fails : ∀ (s : State), s.loading = true → s.streamWhole = false → ∃ t, exec .coppiceLoadEnd s = .next t ∧ loadFailed s t 3 0 := fun s hl hw =>
  ⟨_, if_pos ⟨hl, by simp [hw]⟩, s.loadFail_failed (by decide) (by decide)⟩

theorem loadEnd_whole : ∀ (s : State), s.streamWhole = true → exec .coppiceLoadEnd s = .next s := fun _ hw => if_neg (by simp [hw])

theorem loadAbort_fails : ∀ (s : State), s.loading = true → s.loadSt ≠ 7 → ∃ t, exec .coppiceLoadAbort s = .next t ∧ loadFailed s t 4 9 := by
  intro s hl h7
  have he : exec .coppiceLoadAbort s = .next (s.loadFail 4 9) := by
    show execCoppiceLoadAbort s = _
    rw [execCoppiceLoadAbort, if_neg (by simp [hl]), if_neg h7]
  exact ⟨_, he, s.loadFail_failed (by decide) (by decide)⟩

theorem loadAbort_late : ∀ (s : State), s.loadSt = 7 → exec .coppiceLoadAbort s = .next (s.wr R.COPPICE_LOAD_STATUS_ABORT_LATE 1) := by
  intro s h7
  show execCoppiceLoadAbort s = _
  rw [execCoppiceLoadAbort, if_neg (by simp [loading_of_loadSt (s := s) (by omega) (by omega)]), if_pos h7]

theorem loadTimeout_fails : ∀ (s : State), s.loading = true → s.streamWhole = false → 1 ≤ s.rd R.COPPICE_LOAD_TIMEOUT_MS → s.rd R.COPPICE_LOAD_TIMEOUT_MS ≤ 10000 →
    s.cop.last + s.rd R.COPPICE_LOAD_TIMEOUT_MS * 1000000 * 65536 ≤ s.stp.now → ∃ t, exec .coppiceLoadTimeout s = .next t ∧ loadFailed s t 3 0 := by
  intro s hl hw hlo hhi ht
  have hms : min (max 1 (s.rd R.COPPICE_LOAD_TIMEOUT_MS)) 10000 = s.rd R.COPPICE_LOAD_TIMEOUT_MS := by omega
  have he : exec .coppiceLoadTimeout s = .next (s.loadFail 3 0) := by
    show execCoppiceLoadTimeout s = _
    unfold execCoppiceLoadTimeout
    dsimp only
    rw [hms, if_pos ⟨hl, by simp [hw], ht⟩]
  exact ⟨_, he, s.loadFail_failed (by decide) (by decide)⟩

theorem stoolDrainEnd_target : ∀ (s : State) (k : Fin 16), s.loadSt = 2 → k.val ∈ s.targets → s.targets.all s.drained = true → ∃ t, exec (.stoolDrainEnd k) s = .next t ∧
    (if s.stoolSt k = 3 then t.stoolSt k = 4 else t.loadSt = 3) := by
  intro s k h2 hk hall
  have hd : s.drained k = true := List.all_eq_true.mp hall k hk
  by_cases h3 : s.stoolSt k = 3
  · have he : exec (.stoolDrainEnd k) s = .next (s.stoolTo k 4) := by
      show execStoolDrainEnd k s = _
      rw [execStoolDrainEnd, if_neg (by simp [hd]), if_pos h3]
    refine ⟨_, he, ?_⟩
    rw [if_pos h3]
    exact stoolTo_same s k 4
  · have hn : s.loadNames k = true := by simp [State.loadNames, loading_of_loadSt (s := s) (by omega) (by omega), h2, hk]
    have he : exec (.stoolDrainEnd k) s = .next (s.loadTo 3) := by
      show execStoolDrainEnd k s = _
      rw [execStoolDrainEnd, if_neg (by simp [hd]), if_neg h3, if_pos ⟨h2, hn, hall⟩]
    refine ⟨_, he, ?_⟩
    rw [if_neg h3]
    exact State.wr_rd_same s R.COPPICE_LOAD_STATUS_STATE 3

theorem eraseEnd_erases : ∀ (s : State), (s.loadSt = 2 ∨ s.loadSt = 3) → s.targets.all s.drained = true → ∃ t, exec .coppiceEraseEnd s = .next t ∧ t.loadSt = 4 ∧
    sameRegs s t [R.COPPICE_LOAD_STATUS_STATE] ∧
    (∀ k ∈ s.targets, (∀ i < 768, t.cop.cfg.get (k * 768 + i) = []) ∧
      ∀ a, bramBase + k * bramSize ≤ a → a < bramBase + (k + 1) * bramSize → t.ms.mem.data.get a = 0) ∧
    (∀ k < 16, k ∉ s.targets → sameStool s t k) ∧ sameMemory s t (targetRam s) := by
  intro s h hall
  obtain ⟨⟨her, hoth, hmem, -⟩, hregs, -⟩ := State.eraseStools_all s.targets s
  have he : exec .coppiceEraseEnd s = .next ((s.targets.foldl State.eraseStool s).loadTo 4) := if_pos ⟨h, hall⟩
  generalize s.targets.foldl State.eraseStool s = u at her hoth hmem hregs he
  have hcop : (u.loadTo 4).cop = u.cop := State.wr_cop _ _ _
  have hms : (u.loadTo 4).ms = u.ms := State.wr_ms _ _ _
  refine ⟨_, he, State.wr_rd_same u R.COPPICE_LOAD_STATUS_STATE 4, ((sameRegs.refl s _).of_regs hregs).wr (List.mem_singleton_self _) 4, fun k hk => ?_,
    fun k _ hk => (hoth k hk).trans (.of_writes (WritesIn.wr (.refl _ u) ⟨by decide, by decide⟩ 4) (congrArg Coppice.cfg hcop) k), hmem.of_ms hms⟩
  rw [hcop, hms]
  exact her k hk

/-- Settles O48: each clause is a lemma above about one command. -/
theorem coppiceLoadOpensAndTakesBytes : Obligations.CoppiceLoadOpensAndTakesBytes :=
  ⟨loadBegin_begins, loadBegin_refused, cfgDataWrite_foreign, cfgDataWrite_idle, cfgDataWrite_ragged, cfgDataWrite_header_part,
    cfgDataWrite_header_passes, cfgDataWrite_header_fails, cfgDataWrite_body, cfgDataWrite_extra, cfgDataWrite_waits, loadEnd_fails, loadEnd_whole,
    loadAbort_fails, loadAbort_late, loadTimeout_fails, stoolDrainEnd_target, eraseEnd_erases⟩

end Sys2Proof.Claims

/-! ## O49: frames, trailer, signature and release -/

namespace Sys2Proof.Machine

set_option Elab.async false

open Sys2Proof.Claims

/-! ### The bytes of written words -/

/-- Every byte of a write is the byte of its word. -/
theorem State.writeWords_byte (l : List PWord) (s : State) (a i : Nat) (h : i < 8 * l.length) :
    (s.writeWords a l).ms.mem.data.get (a + i) = (l.getD (i / 8) default).data.extractLsb' (8 * (i % 8)) 8 := by
  induction l generalizing s a i with
  | nil => exact absurd h (Nat.not_lt_zero _)
  | cons w r ih =>
    rw [State.writeWords]
    by_cases hi : i < 8
    · have hout := (State.writeWords_out r (s.setMem (s.ms.mem.put a w)) (a + 8) (a + i) (by omega)).1
      rw [hout, Nat.div_eq_of_lt hi, Nat.mod_eq_of_lt hi]
      exact Memory.putRaw_data_in _ _ _ _ hi
    · obtain ⟨j, rfl⟩ : ∃ j, i = j + 8 := ⟨i - 8, by omega⟩
      rw [List.length_cons] at h
      rw [show a + (j + 8) = a + 8 + j by omega, ih _ _ _ (by omega), Nat.add_div_right _ (by decide), Nat.add_mod_right]
      rfl

/-- The value that bytes have together, the first the lowest. -/
theorem foldl_zipIdx_eq_joinBytes (l : List Nat) (h : ∀ b ∈ l, b < 256) (x k : Nat) :
    (l.zipIdx k).foldl (fun x e => x + e.1 * 2 ^ (8 * e.2)) x = x + 2 ^ (8 * k) * joinBytes (l.map (BitVec.ofNat 8)) := by
  induction l generalizing x k with
  | nil => simp [joinBytes]
  | cons b l ih =>
    have hb : (BitVec.ofNat 8 b).toNat = b := Nat.mod_eq_of_lt (h b List.mem_cons_self)
    rw [List.zipIdx_cons, List.foldl_cons, ih (fun c hc => h c (List.mem_cons_of_mem b hc)), List.map_cons, joinBytes, hb,
      show 8 * (k + 1) = 8 * k + 8 by omega, pow_add]
    ring

theorem extract_joinBytes (l : List Byte) (hl : l.length ≤ 8) {i : Nat} (hi : i < 8) :
    (BitVec.ofNat 64 (joinBytes l)).extractLsb' (8 * i) 8 = l.getD i 0 := by
  refine BitVec.eq_of_getLsbD_eq fun j hj => ?_
  rw [BitVec.getLsbD_extractLsb', BitVec.getLsbD_ofNat, testBit_joinBytes, show (8 * i + j) / 8 = i by omega, show (8 * i + j) % 8 = j by omega]
  simp [hj, show 8 * i + j < 64 by omega]

theorem dwordsOf_length (n : Nat) (b : List Nat) : (dwordsOf n b).length = n := by
  induction n generalizing b with
  | zero => rfl
  | succ n ih => rw [dwordsOf, List.length_cons, ih]

/-- Byte `i` of the words of bytes is byte `i`. -/
theorem dwordsOf_byte (n : Nat) (b : List Nat) (hb : ∀ x ∈ b, x < 256) (i : Nat) (hi : i < 8 * n) :
    (((dwordsOf n b).getD (i / 8) default).data.extractLsb' (8 * (i % 8)) 8).toNat = b.getD i 0 := by
  induction n generalizing b i with
  | zero => exact absurd hi (Nat.not_lt_zero _)
  | succ n ih =>
    rw [dwordsOf]
    by_cases h8 : i < 8
    · have hsmall : ∀ x ∈ b.take 8, x < 256 := fun x hx => hb x (List.mem_of_mem_take hx)
      rw [Nat.div_eq_of_lt h8, Nat.mod_eq_of_lt h8, List.getD_cons_zero, foldl_zipIdx_eq_joinBytes _ hsmall, Nat.zero_add, Nat.mul_zero, pow_zero,
        Nat.one_mul, extract_joinBytes _ (by simp) h8]
      rw [List.getD_eq_getElem?_getD, List.getElem?_map, List.getElem?_take, if_pos h8, List.getD_eq_getElem?_getD]
      cases hx : b[i]? with
      | none => rfl
      | some x => exact Nat.mod_eq_of_lt (hb x (List.mem_of_getElem? hx))
    · obtain ⟨j, rfl⟩ : ∃ j, i = j + 8 := ⟨i - 8, by omega⟩
      rw [Nat.add_div_right _ (by decide), Nat.add_mod_right, List.getD_cons_succ, ih _ (fun x hx => hb x (List.mem_of_mem_drop hx)) _ (by omega)]
      simp [List.getD_eq_getElem?_getD, Nat.add_comm]

section
variable {s : State} {b : List Nat} {a : Nat}

/-! ### A frame -/

theorem State.writeFrame_config (ha : a = (le32 1 b).headD 0) (h : nbits a 26 2 = 0) :
    s.writeFrame b = s.setCop (fun c => { c with cfg := c.cfg.set (nbits a 28 4 * 768 + nbits a 0 11) ((b.drop 4).take 1024) }) := by
  subst ha
  exact if_pos h

theorem State.writeFrame_ram (ha : a = (le32 1 b).headD 0) (h : nbits a 26 2 ≠ 0) :
    s.writeFrame b = s.writeWords (bramBase + nbits a 28 4 * bramSize + nbits a 0 11 * 1024) (dwordsOf 128 ((b.drop 4).take 1024)) := by
  subst ha
  exact if_neg h

theorem State.writeWords_cop (a : Nat) (ws : List PWord) : (s.writeWords a ws).cop = s.cop :=
  (keeps_writeWords (.refl (partsBut .cop) s) (by decide) a ws).same_of_but

theorem State.writeFrame_regs : (s.writeFrame b).regs = s.regs := by
  by_cases h : nbits ((le32 1 b).headD 0) 26 2 = 0
  · rw [State.writeFrame_config rfl h, State.setCop_regs]
  · rw [State.writeFrame_ram rfl h, State.writeWords_regs]

theorem State.frameFault_lt {f : List (Nat × Bool)} {c : Nat × Nat} (h : s.frameFault f = some c) : c.1 < 8 ∧ c.2 < 16 := by
  unfold State.frameFault at h
  dsimp only at h
  split_ifs at h <;> simp only [Option.some.injEq] at h <;> subst h <;> decide

end

end Sys2Proof.Machine

namespace Sys2Proof.Claims

set_option Elab.async false

open Sys2Proof.Machine

/-- The state whose frame is written and counted, which goes on with the next frame or with the trailer. -/
def frameDone (s u : State) : State :=
  if s.rd R.COPPICE_LOAD_FRAME + 1 = s.hdrFrames then (u.wr R.COPPICE_LOAD_FRAME (s.rd R.COPPICE_LOAD_FRAME + 1)).loadTo 5
  else u.wr R.COPPICE_LOAD_FRAME (s.rd R.COPPICE_LOAD_FRAME + 1)

theorem frameDone_cases (s u : State) :
    (s.rd R.COPPICE_LOAD_FRAME + 1 = s.hdrFrames ∧ frameDone s u = (u.wr R.COPPICE_LOAD_FRAME (s.rd R.COPPICE_LOAD_FRAME + 1)).loadTo 5) ∨
      (s.rd R.COPPICE_LOAD_FRAME + 1 ≠ s.hdrFrames ∧ frameDone s u = u.wr R.COPPICE_LOAD_FRAME (s.rd R.COPPICE_LOAD_FRAME + 1)) :=
  (em _).imp (fun h => ⟨h, if_pos h⟩) fun h => ⟨h, if_neg h⟩

section
variable {s u : State}

theorem frameDone_cop : (frameDone s u).cop = u.cop := by
  rcases frameDone_cases s u with ⟨-, h⟩ | ⟨-, h⟩
  · rw [h, loadTo_cop, State.wr_cop]
  · rw [h, State.wr_cop]

theorem frameDone_ms : (frameDone s u).ms = u.ms := by
  rcases frameDone_cases s u with ⟨-, h⟩ | ⟨-, h⟩
  · rw [h, loadTo_ms, State.wr_ms]
  · rw [h, State.wr_ms]

theorem frameDone_sameRegs (h : u.regs = s.regs) : sameRegs s (frameDone s u) [R.COPPICE_LOAD_FRAME, R.COPPICE_LOAD_STATUS_STATE] := by
  have hw : sameRegs s (u.wr R.COPPICE_LOAD_FRAME (s.rd R.COPPICE_LOAD_FRAME + 1)) [R.COPPICE_LOAD_FRAME, R.COPPICE_LOAD_STATUS_STATE] :=
    ((sameRegs.refl s _).of_regs h).wr (by simp) _
  rcases frameDone_cases s u with ⟨-, h⟩ | ⟨-, h⟩ <;> rw [h]
  · exact hw.wr (by simp) 5
  · exact hw

theorem frameDone_frame : (frameDone s u).rd R.COPPICE_LOAD_FRAME = (s.rd R.COPPICE_LOAD_FRAME + 1) % 2 ^ 32 := by
  rcases frameDone_cases s u with ⟨-, h⟩ | ⟨-, h⟩ <;> rw [h]
  · exact (loadTo_rd_ne _ _ (by decide)).trans (State.wr_rd_same _ _ _)
  · exact State.wr_rd_same _ _ _

theorem frameDone_loadSt (hu : u.regs = s.regs) (h4 : s.loadSt = 4) :
    (frameDone s u).loadSt = if s.rd R.COPPICE_LOAD_FRAME + 1 = s.hdrFrames then 5 else 4 := by
  rcases frameDone_cases s u with ⟨hc, h⟩ | ⟨hc, h⟩ <;> rw [h]
  · rw [if_pos hc]
    exact State.wr_rd_same _ _ _
  · rw [if_neg hc]
    exact (State.wr_rd_ne _ _ _ _ (by decide)).trans ((State.rd_congr hu _).trans h4)

end

/-- COPPICE_FRAME_WRITE of a whole frame. -/
theorem frameWrite_eq {s : State} {f : List (Nat × Bool)} (h4 : s.loadSt = 4) (hf : f = (s.cop.bytes.drop (64 + 1032 * s.rd R.COPPICE_LOAD_FRAME)).take 1032)
    (hlen : f.length = 1032) : exec .coppiceFrameWrite s = match s.frameFault f with
      | some (st, cause) => .next (s.loadFail st cause)
      | none => .next (frameDone s (s.writeFrame (byteVals f))) := by
  show execCoppiceFrameWrite s = _
  unfold execCoppiceFrameWrite
  dsimp only
  rw [← hf, if_neg (by omega)]
  rfl

theorem frameWrite_writes : ∀ (s : State) (f : List (Nat × Bool)) (a : Nat), s.loadSt = 4 → f = (s.cop.bytes.drop (64 + 1032 * s.rd R.COPPICE_LOAD_FRAME)).take 1032 →
    f.length = 1032 → s.frameFault f = none → a = (le32 1 (byteVals f)).headD 0 →
    ∃ t, exec .coppiceFrameWrite s = .next t ∧ t.rd R.COPPICE_LOAD_FRAME = (s.rd R.COPPICE_LOAD_FRAME + 1) % 2 ^ 32 ∧
      t.loadSt = (if s.rd R.COPPICE_LOAD_FRAME + 1 = s.hdrFrames then 5 else 4) ∧
      sameRegs s t [R.COPPICE_LOAD_FRAME, R.COPPICE_LOAD_STATUS_STATE] ∧
      (nbits a 26 2 = 0 → t.cop.cfg.get (nbits a 28 4 * 768 + nbits a 0 11) = ((byteVals f).drop 4).take 1024 ∧ t.ms = s.ms ∧
        (∀ i, i ≠ nbits a 28 4 * 768 + nbits a 0 11 → t.cop.cfg.get i = s.cop.cfg.get i)) ∧
      (nbits a 26 2 = 1 → t.cop.cfg = s.cop.cfg ∧ sameMemory s t (fun p => bramBase + nbits a 28 4 * bramSize + nbits a 0 11 * 1024 ≤ p ∧
        p < bramBase + nbits a 28 4 * bramSize + nbits a 0 11 * 1024 + 1024) ∧
        ((∀ x ∈ f, x.1 < 256) → ∀ i < 1024,
          (t.ms.mem.data.get (bramBase + nbits a 28 4 * bramSize + nbits a 0 11 * 1024 + i)).toNat = (byteVals f).getD (4 + i) 0)) := by
  intro s f a h4 hf hlen hok ha
  have he : exec .coppiceFrameWrite s = .next (frameDone s (s.writeFrame (byteVals f))) := by rw [frameWrite_eq h4 hf hlen, hok]
  have hlen' : (byteVals f).length = 1032 := (List.length_map _).trans hlen
  have hbyte (h : ∀ x ∈ f, x.1 < 256) : ∀ x ∈ ((byteVals f).drop 4).take 1024, x < 256 := by
    intro x hx
    obtain ⟨y, hy, rfl⟩ := List.mem_map.mp (List.mem_of_mem_drop (List.mem_of_mem_take hx))
    exact h y hy
  refine ⟨_, he, frameDone_frame, frameDone_loadSt State.writeFrame_regs h4, frameDone_sameRegs State.writeFrame_regs, fun h0 => ?_, fun h1 => ?_⟩
  · rw [frameDone_cop, frameDone_ms, State.writeFrame_config ha h0]
    exact ⟨Tab.get_set_same _ _ _, rfl, fun i hi => Tab.get_set_ne _ _ _ _ hi⟩
  · rw [frameDone_cop, State.writeFrame_ram ha (by omega)]
    generalize byteVals f = b at hlen' hbyte
    generalize bramBase + nbits a 28 4 * bramSize + nbits a 0 11 * 1024 = base
    have hl : (dwordsOf 128 ((b.drop 4).take 1024)).length = 128 := dwordsOf_length _ _
    refine ⟨by rw [State.writeWords_cop], sameMemory.of_ms ?_ frameDone_ms, fun h i hi => ?_⟩
    · refine (State.writeWords_out _ s base).mono fun p hp => ?_
      rw [hl] at hp
      exact hp
    · rw [frameDone_ms, State.writeWords_byte _ _ _ _ (by omega), dwordsOf_byte 128 _ (hbyte h) i (by omega)]
      rw [List.getD_eq_getElem?_getD, List.getElem?_take, if_pos hi, List.getElem?_drop, List.getD_eq_getElem?_getD]

theorem frameWrite_fails : ∀ (s : State) (f : List (Nat × Bool)) (c : Nat × Nat), s.loadSt = 4 →
    f = (s.cop.bytes.drop (64 + 1032 * s.rd R.COPPICE_LOAD_FRAME)).take 1032 → f.length = 1032 → s.frameFault f = some c →
    ∃ t, exec .coppiceFrameWrite s = .next t ∧ loadFailed s t c.1 c.2 := by
  intro s f c h4 hf hlen hbad
  obtain ⟨hst, hc⟩ := State.frameFault_lt hbad
  have he : exec .coppiceFrameWrite s = .next (s.loadFail c.1 c.2) := by rw [frameWrite_eq h4 hf hlen, hbad]
  exact ⟨_, he, s.loadFail_failed hst hc⟩

/-! ### Trailer and signature -/

theorem trailerCheck_passes : ∀ (s : State), s.loadSt = 5 → s.streamWhole = true →
    (le32 1 ((byteVals s.cop.bytes).drop (64 + 1032 * s.hdrFrames))).headD 0 = fcs ((byteVals s.cop.bytes).take (64 + 1032 * s.hdrFrames)) →
    ∃ t, exec .coppiceTrailerCheck s = .next t ∧ t.loadSt = (if s.hdrSigned then 6 else 7) ∧ sameRegs s t [R.COPPICE_LOAD_STATUS_STATE] ∧ t.cop = s.cop := by
  intro s h5 hw hfcs
  have he : exec .coppiceTrailerCheck s = .next (s.loadTo (if s.hdrSigned then 6 else 7)) := by
    show execCoppiceTrailerCheck s = _
    unfold execCoppiceTrailerCheck
    dsimp only
    rw [if_neg (by simp [h5, hw]), if_neg (not_not.mpr hfcs)]
  refine ⟨_, he, (State.wr_rd_same _ R.COPPICE_LOAD_STATUS_STATE _).trans ?_, (sameRegs.refl s _).wr (List.mem_singleton_self _) _, loadTo_cop _ _⟩
  split <;> rfl

theorem trailerCheck_fails : ∀ (s : State), s.loadSt = 5 → s.streamWhole = true →
    (le32 1 ((byteVals s.cop.bytes).drop (64 + 1032 * s.hdrFrames))).headD 0 ≠ fcs ((byteVals s.cop.bytes).take (64 + 1032 * s.hdrFrames)) →
    ∃ t, exec .coppiceTrailerCheck s = .next t ∧ loadFailed s t 4 5 := by
  intro s h5 hw hfcs
  have he : exec .coppiceTrailerCheck s = .next (s.loadFail 4 5) := by
    show execCoppiceTrailerCheck s = _
    unfold execCoppiceTrailerCheck
    dsimp only
    rw [if_neg (by simp [h5, hw]), if_pos hfcs]
  exact ⟨_, he, s.loadFail_failed (by decide) (by decide)⟩

theorem signatureVerified_decides : ∀ (s : State) (b pub : List Nat) (n slot : Nat), s.loadSt = 6 → b = byteVals s.cop.bytes → n = 68 + 1032 * s.hdrFrames →
    slot = (le32 1 (b.drop n)).headD 0 → pub = (b.drop (n + 4)).take 96 →
    ∃ t, exec .coppiceSignatureVerified s = .next t ∧
      (if 4 ≤ slot ∨ slot ∈ s.strong.revoked ∨ Config.sha 2 pub ≠ Config.otpKeyHash slot then loadFailed s t 4 6
       else if Config.ecdsaVerify 5 pub (Config.sha 2 (b.take (n + 100))) ((b.drop (n + 100)).take 96) = true then t.loadSt = 7
       else loadFailed s t 4 7) := by
  intro s b pub n slot h6 hb hn hslot hpub
  have he : exec .coppiceSignatureVerified s =
      if 4 ≤ slot ∨ s.strong.revoked.contains slot ∨ Config.sha 2 pub ≠ Config.otpKeyHash slot then .next (s.loadFail 4 6)
      else if Config.ecdsaVerify 5 pub (Config.sha 2 (b.take (n + 100))) ((b.drop (n + 100)).take 96) then .next (s.loadTo 7)
      else .next (s.loadFail 4 7) := by
    subst hb hn hslot hpub
    exact if_neg (not_not.mpr h6)
  by_cases h1 : 4 ≤ slot ∨ slot ∈ s.strong.revoked ∨ Config.sha 2 pub ≠ Config.otpKeyHash slot
  · rw [if_pos (by simpa using h1)] at he
    simp only [if_pos h1]
    exact ⟨_, he, s.loadFail_failed (by decide) (by decide)⟩
  · rw [if_neg (by simpa using h1)] at he
    simp only [if_neg h1]
    by_cases h2 : Config.ecdsaVerify 5 pub (Config.sha 2 (b.take (n + 100))) ((b.drop (n + 100)).take 96) = true
    · rw [if_pos h2] at he
      simp only [if_pos h2]
      exact ⟨_, he, State.wr_rd_same _ R.COPPICE_LOAD_STATUS_STATE _⟩
    · rw [if_neg h2] at he
      simp only [if_neg h2]
      exact ⟨_, he, s.loadFail_failed (by decide) (by decide)⟩

/-! ### Release -/

/-- One target of a load is released (R533). -/
def releaseStool (pid : Nat) (t : State) (k : Nat) : State := ((t.userReset k).stoolTo k 2).wr (R.COPPICE_STOOL_PID k) pid

section
variable (pid : Nat) (s : State)

theorem releaseStool_cop (k : Nat) : (releaseStool pid s k).cop = (s.userReset k).cop := by
  rw [releaseStool, State.wr_cop, State.stoolTo, State.wr_cop]

theorem releaseStool_ms (k : Nat) : (releaseStool pid s k).ms = s.ms := by
  rw [releaseStool, State.wr_ms, State.stoolTo, State.wr_ms]
  rfl

theorem releaseStool_shows (k : Nat) : (releaseStool pid s k).stoolSt k = 2 ∧ (releaseStool pid s k).rd (R.COPPICE_STOOL_PID k) = pid % 2 ^ 32 :=
  ⟨(State.wr_rd_ne _ _ _ _ (by simp only [Fld.key, R.COPPICE_STOOL_STATUS_STATE, R.COPPICE_STOOL_PID, ne_eq]; omega)).trans (stoolTo_same _ k 2), State.wr_rd_same _ _ _⟩

theorem releaseStool_resets_same (k : Nat) : (releaseStool pid s k).cop.userResets.get k = s.cop.userResets.get k + 1 := by
  rw [releaseStool_cop]
  exact Tab.get_modify_same _ _ _

theorem releaseStool_resets_ne {j k : Nat} (h : k ≠ j) : (releaseStool pid s j).cop.userResets.get k = s.cop.userResets.get k := by
  rw [releaseStool_cop]
  exact Tab.get_modify_ne _ _ _ _ h

theorem releaseStool_sameStool {j k : Nat} (h : k ≠ j) : sameStool s (releaseStool pid s j) k :=
  sameStool.trans (t := s.userReset j) ⟨rfl, rfl, fun _ _ => rfl⟩ ((stoolTo_sameStool _ h 2).trans (pid_sameStool _ h pid))

/-- The stools of a list are released, and nothing else of the fabric has changed. -/
structure Released (l : List Nat) (s t : State) : Prop where
  shows : ∀ k ∈ l, t.stoolSt k = 2 ∧ t.rd (R.COPPICE_STOOL_PID k) = pid % 2 ^ 32 ∧ t.cop.userResets.get k = s.cop.userResets.get k + 1
  others : ∀ k, k ∉ l → sameStool s t k ∧ t.cop.userResets.get k = s.cop.userResets.get k
  ms : t.ms = s.ms
  cfg : t.cop.cfg = s.cop.cfg

theorem releaseStools_released (l : List Nat) (hl : l.Nodup) (s : State) : Released pid l s (l.foldl (releaseStool pid) s) := by
  induction l generalizing s with
  | nil => exact ⟨fun _ h => absurd h List.not_mem_nil, fun k _ => ⟨.refl s k, rfl⟩, rfl, rfl⟩
  | cons j l ih =>
    obtain ⟨hj, hl⟩ := List.nodup_cons.mp hl
    obtain ⟨h1, h2, h3, h4⟩ := ih hl (releaseStool pid s j)
    refine ⟨fun k hk => ?_, fun k hk => ?_, h3.trans (releaseStool_ms pid s j), h4.trans (by rw [releaseStool_cop]; rfl)⟩
    · by_cases hkj : k = j
      · subst hkj
        obtain ⟨⟨e1, e2, -⟩, e3⟩ := h2 k hj
        obtain ⟨g1, g2⟩ := releaseStool_shows pid s k
        exact ⟨e1.trans g1, e2.trans g2, e3.trans (releaseStool_resets_same pid s k)⟩
      · obtain ⟨e1, e2, e3⟩ := h1 k ((List.mem_cons.mp hk).resolve_left hkj)
        exact ⟨e1, e2, e3.trans (congrArg (· + 1) (releaseStool_resets_ne pid s hkj))⟩
    · obtain ⟨hkj, hkl⟩ := List.ne_and_not_mem_of_not_mem_cons hk
      obtain ⟨e1, e2⟩ := h2 k hkl
      exact ⟨(releaseStool_sameStool pid s hkj).trans e1, e2.trans (releaseStool_resets_ne pid s hkj)⟩

/-- The end of the load leaves the released stools as they are. -/
theorem Released.loadDone {l : List Nat} {s t : State} (h : Released pid l s t) (st c : Nat) : Released pid l s (t.loadDone st c) := by
  obtain ⟨h1, h2, h3, h4⟩ := h
  have hres : (t.loadDone st c).cop.userResets = t.cop.userResets := by rw [State.loadDone_cop]
  have hcfg : (t.loadDone st c).cop.cfg = t.cop.cfg := by rw [State.loadDone_cop]
  refine ⟨fun k hk => ?_, fun k hk => ?_, (t.loadDone_ms st c).trans h3, hcfg.trans h4⟩
  · obtain ⟨e1, e2, e3⟩ := h1 k hk
    obtain ⟨d1, d2, -⟩ := t.loadDone_sameStool st c k
    exact ⟨d1.trans e1, d2.trans e2, by rw [hres, e3]⟩
  · obtain ⟨e1, e2⟩ := h2 k hk
    exact ⟨e1.trans (t.loadDone_sameStool st c k), by rw [hres, e2]⟩

end

theorem coppiceRelease_eq {s : State} (h7 : s.loadSt = 7) :
    exec .coppiceRelease s = .next ((s.targets.foldl (releaseStool (s.hdr 7)) s).loadDone 0 0) := by
  show execCoppiceRelease s = _
  rw [execCoppiceRelease, if_neg (not_not.mpr h7)]
  rfl

theorem coppiceRelease_releases : ∀ (s : State), s.loadSt = 7 → ∃ t, exec .coppiceRelease s = .next t ∧ loadEnded t 0 0 ∧
    (∀ k ∈ s.targets, t.stoolSt k = 2 ∧ t.rd (R.COPPICE_STOOL_PID k) = s.hdr 7 % 2 ^ 32 ∧ t.cop.userResets.get k = s.cop.userResets.get k + 1) ∧
    (∀ k < 16, k ∉ s.targets → sameStool s t k ∧ t.cop.userResets.get k = s.cop.userResets.get k) ∧ t.ms = s.ms ∧ t.cop.cfg = s.cop.cfg := by
  intro s h7
  obtain ⟨h1, h2, h3, h4⟩ := (releaseStools_released (s.hdr 7) s.targets (List.nodup_range.filter _) s).loadDone _ 0 0
  exact ⟨_, coppiceRelease_eq h7, State.loadDone_ended _ (by decide) (by decide), h1, fun k _ hk => h2 k hk, h3, h4⟩

/-- Settles O49: each clause is a lemma above about one command. -/
theorem coppiceFramesTrailerAndRelease : Obligations.CoppiceFramesTrailerAndRelease :=
  ⟨frameWrite_writes, frameWrite_fails, trailerCheck_passes, trailerCheck_fails, signatureVerified_decides, coppiceRelease_releases⟩

end Sys2Proof.Claims

/-! ## O50: stools, their requests and blocks, the user clocks and the readback -/

namespace Sys2Proof.Claims

set_option Elab.async false

open Sys2Proof.Machine

/-! ### Commands of a stool -/

section
variable (s : State) (k n : Nat)

theorem stoolTo_sameRegs : sameRegs s (s.stoolTo k n) [R.COPPICE_STOOL_STATUS_STATE k] := (sameRegs.refl s _).wr (List.mem_singleton_self _) n

theorem stoolTo_cop : (s.stoolTo k n).cop = s.cop := State.wr_cop _ _ _

end

section
variable {s t : State} {k : Nat}

theorem stoolCmd_takes (hn : s.loadNames k = false) : s.stoolCmd k true t = t := by
  rw [State.stoolCmd, if_neg (by simp [hn]), if_pos rfl]

/-- A refusal of a stool's command shows its cause, and changes nothing else. -/
theorem stoolCmd_refused {ok : Bool} {c : Nat} (h : s.loadNames k = true ∧ c = 1 ∨ s.loadNames k = false ∧ ok = false ∧ c = 2) :
    (s.stoolCmd k ok t).rd (R.COPPICE_STOOL_STATUS_REFUSED k) = 1 ∧ (s.stoolCmd k ok t).rd (R.COPPICE_STOOL_STATUS_CAUSE k) = c ∧
      sameRegs s (s.stoolCmd k ok t) [R.COPPICE_STOOL_STATUS_REFUSED k, R.COPPICE_STOOL_STATUS_CAUSE k] ∧ (s.stoolCmd k ok t).cop = s.cop := by
  have he : s.stoolCmd k ok t = (s.wr (R.COPPICE_STOOL_STATUS_REFUSED k) 1).wr (R.COPPICE_STOOL_STATUS_CAUSE k) c := by
    rw [State.stoolCmd]
    rcases h with ⟨h, rfl⟩ | ⟨h, rfl, rfl⟩
    · rw [if_pos h]
    · rw [if_neg (by simp [h]), if_neg Bool.false_ne_true]
  have hc : c < 4 := by omega
  rw [he]
  refine ⟨?_, (State.wr_rd_same _ _ _).trans (Nat.mod_eq_of_lt hc), ((sameRegs.refl s _).wr (by simp) 1).wr (by simp) c, ?_⟩
  · exact (State.wr_rd_ne _ _ _ _ (by simp only [Fld.key, R.COPPICE_STOOL_STATUS_REFUSED, R.COPPICE_STOOL_STATUS_CAUSE, ne_eq]; omega)).trans (State.wr_rd_same _ _ _)
  · rw [State.wr_cop, State.wr_cop]

end

theorem stoolCommands_take : ∀ (s : State) (k : Fin 16), s.loadNames k = false →
    (s.stoolSt k = 2 → ∃ t, exec (.stoolQuiesce k) s = .next t ∧ t.stoolSt k = 3 ∧ sameRegs s t [R.COPPICE_STOOL_STATUS_STATE k] ∧ t.cop = s.cop) ∧
    (s.stoolSt k = 4 → ∃ t, exec (.stoolOpen k) s = .next t ∧ t.stoolSt k = 2 ∧ sameRegs s t [R.COPPICE_STOOL_STATUS_STATE k] ∧ t.cop = s.cop) ∧
    (s.stoolSt k = 2 ∨ s.stoolSt k = 4 → ∃ t, exec (.stoolClear k) s = .next t ∧ t.stoolSt k = 5 ∧ sameRegs s t [R.COPPICE_STOOL_STATUS_STATE k] ∧
      t.cop = s.cop) ∧
    (s.stoolSt k = 2 ∨ s.stoolSt k = 4 → ∃ t, exec (.stoolUserReset k) s = .next t ∧ t.regs = s.regs ∧
      t.cop.userResets.get k = s.cop.userResets.get k + 1) := by
  intro s k hn
  have hto {ok : Bool} (n : Nat) (h : ok = true) : s.stoolCmd k ok (s.stoolTo k n) = s.stoolTo k n := h ▸ stoolCmd_takes hn
  refine ⟨fun h => ?_, fun h => ?_, fun h => ?_, fun h => ?_⟩
  · exact ⟨_, congrArg Host.Outcome.next (hto 3 (by simp [h])), stoolTo_same s k 3, stoolTo_sameRegs s k 3, stoolTo_cop s k 3⟩
  · exact ⟨_, congrArg Host.Outcome.next (hto 2 (by simp [h])), stoolTo_same s k 2, stoolTo_sameRegs s k 2, stoolTo_cop s k 2⟩
  · exact ⟨_, congrArg Host.Outcome.next (hto 5 (by simpa using h)), stoolTo_same s k 5, stoolTo_sameRegs s k 5, stoolTo_cop s k 5⟩
  · have hr {ok : Bool} (h : ok = true) : s.stoolCmd k ok (s.userReset k) = s.userReset k := h ▸ stoolCmd_takes hn
    exact ⟨_, congrArg Host.Outcome.next (hr (by simpa using h)), rfl, Tab.get_modify_same _ _ _⟩

theorem stoolCommands_busy : ∀ (s : State) (k : Fin 16) (c : Instr), c ∈ [.stoolQuiesce k, .stoolOpen k, .stoolClear k, .stoolUserReset k] → s.loadNames k = true →
    ∃ t, exec c s = .next t ∧ t.rd (R.COPPICE_STOOL_STATUS_REFUSED k) = 1 ∧ t.rd (R.COPPICE_STOOL_STATUS_CAUSE k) = 1 ∧
      sameRegs s t [R.COPPICE_STOOL_STATUS_REFUSED k, R.COPPICE_STOOL_STATUS_CAUSE k] ∧ t.cop = s.cop := by
  intro s k c hc hn
  simp only [List.mem_cons, List.not_mem_nil, or_false] at hc
  rcases hc with rfl | rfl | rfl | rfl <;> exact ⟨_, rfl, stoolCmd_refused (.inl ⟨hn, rfl⟩)⟩

theorem stoolCommands_state : ∀ (s : State) (k : Fin 16) (c : Instr), c ∈ [.stoolQuiesce k, .stoolOpen k, .stoolClear k, .stoolUserReset k] → s.loadNames k = false →
    s.stoolSt k ∉ [2, 4] → ∃ t, exec c s = .next t ∧ t.rd (R.COPPICE_STOOL_STATUS_REFUSED k) = 1 ∧ t.rd (R.COPPICE_STOOL_STATUS_CAUSE k) = 2 ∧
      sameRegs s t [R.COPPICE_STOOL_STATUS_REFUSED k, R.COPPICE_STOOL_STATUS_CAUSE k] ∧ t.cop = s.cop := by
  intro s k c hc hn hst
  simp only [List.mem_cons, List.not_mem_nil, or_false, not_or] at hc hst
  rcases hc with rfl | rfl | rfl | rfl <;> exact ⟨_, rfl, stoolCmd_refused (.inr ⟨hn, by simp [hst], rfl⟩)⟩

/-! ### Drain and clear -/

theorem stoolDrainEnd_quiesced : ∀ (s : State) (k : Fin 16), s.drained k = true → s.stoolSt k = 3 → ∃ t, exec (.stoolDrainEnd k) s = .next t ∧ t.stoolSt k = 4 ∧
    sameRegs s t [R.COPPICE_STOOL_STATUS_STATE k] ∧ t.cop = s.cop := by
  intro s k hd h3
  have he : exec (.stoolDrainEnd k) s = .next (s.stoolTo k 4) := by
    show execStoolDrainEnd k s = _
    rw [execStoolDrainEnd, if_neg (by simp [hd]), if_pos h3]
  exact ⟨_, he, stoolTo_same s k 4, stoolTo_sameRegs s k 4, stoolTo_cop s k 4⟩

theorem stool_not_drained : ∀ (s : State) (k : Fin 16), s.drained k = false → exec (.stoolDrainEnd k) s = .next s ∧ exec (.stoolClearEnd k) s = .next s := fun _ _ hd => ⟨if_pos (by simp [hd]), if_neg (by simp [hd])⟩

theorem stoolClearEnd_clears : ∀ (s : State) (k : Fin 16), s.drained k = true → s.stoolSt k = 5 → ∃ t, exec (.stoolClearEnd k) s = .next t ∧ t.stoolSt k = 0 ∧
    t.rd (R.COPPICE_STOOL_PID k) = 0 ∧ (∀ i < 768, t.cop.cfg.get (k.val * 768 + i) = []) ∧
    (∀ j < 16, j ≠ k.val → sameStool s t j) ∧
    sameMemory s t (fun a => bramBase + k.val * bramSize ≤ a ∧ a < bramBase + (k.val + 1) * bramSize) := by
  intro s k hd h5
  obtain ⟨hst, hpid⟩ := s.fallow_shows k
  obtain ⟨hcfg, -⟩ := s.fallow_erased.mpr (s.eraseStool_erased k)
  exact ⟨s.fallow k, if_pos ⟨h5, hd⟩, hst, hpid, hcfg, fun j _ hj => s.fallow_sameStool hj, (s.eraseStool_sameMemory k).of_ms (s.fallow_ms k)⟩

/-! ### Requests, blocks and interrupts -/

/-- An answer of a unit takes the request from those delivered to it. -/
theorem State.unitAnswer_ejected (s : State) (p : Packet) (op status cause lines : Nat) (data : List PWord) :
    (s.unitAnswer p op status cause lines data).net.ejected =
      s.net.ejected.filter (fun e => !(e.pkt.dest == p.dest && e.pkt.src == p.src && e.pkt.tag == p.tag)) := by
  unfold State.unitAnswer
  dsimp only
  split
  · rw [State.add_net, State.setNet_net]
  · rw [State.enterPacket_net, State.setNet_net]

theorem stoolRequestTimeout_times : ∀ (s : State) (p : Nat) (e : Ejected), s.net.ejected.find? (fun e => e.pkt.id == p) = some e → isCoppiceNi e.pkt.dest = true →
    e.tick + 3500 * 65536 ≤ s.stp.now → stoolOf e.pkt.addr < 16 → ∃ t, exec (.stoolRequestTimeout p) s = .next t ∧
      t.rd (R.COPPICE_STOOL_TIMEOUTS (stoolOf e.pkt.addr)) = (s.rd (R.COPPICE_STOOL_TIMEOUTS (stoolOf e.pkt.addr)) + 1) % 2 ^ 32 ∧
      e ∉ t.net.ejected := by
  intro s p e hfind hni ht hstool
  have hd : e.pkt.dest < 256 := by
    simp only [isCoppiceNi, Bool.or_eq_true, beq_iff_eq] at hni
    omega
  have he : exec (.stoolRequestTimeout p) s = .next ((s.unitAnswer e.pkt 6 3 8 0 []).inc (R.COPPICE_STOOL_TIMEOUTS (stoolOf e.pkt.addr))) := by
    show execStoolRequestTimeout p s = _
    unfold execStoolRequestTimeout
    rw [hfind]
    exact if_pos ⟨hni, ht⟩
  have hw := State.unitAnswer_writes s hd 6 3 8 0 [] (R.COPPICE_STOOL_TIMEOUTS (stoolOf e.pkt.addr)) (by
    simp only [Fld.key, R.COPPICE_STOOL_TIMEOUTS]; omega)
  refine ⟨_, he, ?_, ?_⟩
  · rw [State.inc_rd_same, hw]
    rfl
  · rw [State.inc_net, State.unitAnswer_ejected, List.mem_filter]
    simp

theorem stoolRequestCheck_passes : ∀ (s : State) (k : Fin 16) (store : Bool) (a n : Nat), s.stoolSt k = 2 → (∃ w < 4, s.windowPasses k store a n w = true) →
    exec (.stoolRequestCheck k store a n) s = .next s := by
  intro s k store a n _ ⟨w, hw, hp⟩
  exact if_pos (.inr (List.any_eq_true.mpr ⟨w, List.mem_range.mpr hw, hp⟩))

theorem stoolRequestCheck_refuses : ∀ (s : State) (k : Fin 16) (store : Bool) (a n : Nat), s.stoolSt k = 2 → (∀ w < 4, s.windowPasses k store a n w = false) →
    ∃ t, exec (.stoolRequestCheck k store a n) s = .next t ∧ t.ans = abortedBy 7 ∧
      t.rd (R.COPPICE_STOOL_REFUSED k) = (s.rd (R.COPPICE_STOOL_REFUSED k) + 1) % 2 ^ 32 ∧ sameRegs s t [R.COPPICE_STOOL_REFUSED k] ∧ t.net = s.net := by
  intro s k store a n h2 hw
  have hnone : (List.range 4).any (s.windowPasses k.val store a n) = false :=
    List.any_eq_false.mpr fun w hm => by simp [hw w (List.mem_range.mp hm)]
  have he : exec (.stoolRequestCheck k store a n) s = .next (s.inc (R.COPPICE_STOOL_REFUSED k)).refusedAns := if_neg (by simp [h2, hnone])
  refine ⟨_, he, rfl, ?_, ((sameRegs.refl s _).inc (List.mem_singleton_self _)).refusedAns, ?_⟩
  · exact (State.reply_rd _ _ _).trans (State.inc_rd_same _ _)
  · exact (State.reply_net _ _).trans (State.inc_net _ _)

theorem stoolBlockTimeout_market : ∀ (s : State) (k : Fin 16) (i : Nat), s.mkt.blocks.findIdx? (s.forStool k) = some i → ∃ t, exec (.stoolBlockTimeout k) s = .next t ∧
    t.mkt.blocks = s.mkt.blocks.eraseIdx i ∧ t.rd (R.COPPICE_STOOL_DROPS k) = (s.rd (R.COPPICE_STOOL_DROPS k) + 1) % 2 ^ 32 := by
  intro s k i hi
  have he : exec (.stoolBlockTimeout k) s =
      .next ({ s with mkt := { s.mkt with blocks := s.mkt.blocks.eraseIdx i } }.inc (R.COPPICE_STOOL_DROPS k)) := by
    show execStoolBlockTimeout k s = _
    rw [execStoolBlockTimeout, hi]
  exact ⟨_, he, congrArg Market.blocks (State.inc_mkt _ _), State.inc_rd_same _ _⟩

theorem stoolBlockTimeout_sieve : ∀ (s : State) (k : Fin 16) (i : Nat), s.mkt.blocks.findIdx? (s.forStool k) = none → s.sv.out.findIdx? (svForStool k) = some i →
    ∃ t, exec (.stoolBlockTimeout k) s = .next t ∧ t.sv.out = s.sv.out.eraseIdx i ∧
      t.rd (R.COPPICE_STOOL_DROPS k) = (s.rd (R.COPPICE_STOOL_DROPS k) + 1) % 2 ^ 32 := by
  intro s k i hno hi
  have he : exec (.stoolBlockTimeout k) s = .next ({ s with sv := { s.sv with out := s.sv.out.eraseIdx i } }.inc (R.COPPICE_STOOL_DROPS k)) := by
    show execStoolBlockTimeout k s = _
    rw [execStoolBlockTimeout, hno, hi]
  exact ⟨_, he, congrArg Sieve.out (State.inc_sv _ _), State.inc_rd_same _ _⟩

theorem stoolIrqEdge_interrupts : ∀ (s : State) (k : Fin 16) (l : Fin 8), s.stoolSt k = 2 → ∃ t, exec (.stoolIrqEdge k l) s = .next t ∧ t.regs = s.regs ∧
    (if nbit (s.rd (R.COPPICE_STOOL_IRQ_IRQ_HOST k)) l = true then 320 + 8 * k.val + l.val ∈ t.hostIrq else ⟨.stool, 8 * k.val + l.val⟩ ∈ t.hallIrq) := by
  intro s k l h2
  by_cases hh : nbit (s.rd (R.COPPICE_STOOL_IRQ_IRQ_HOST k)) l = true
  · have he : exec (.stoolIrqEdge k l) s = .next (s.irqHost (320 + 8 * k.val + l.val)) := by
      show execStoolIrqEdge k l s = _
      rw [execStoolIrqEdge, if_neg (not_not.mpr h2), if_pos hh]
    refine ⟨_, he, rfl, ?_⟩
    rw [if_pos hh]
    exact mem_irqHost _ _
  · have he : exec (.stoolIrqEdge k l) s = .next (s.irq .stool (8 * k.val + l.val)) := by
      show execStoolIrqEdge k l s = _
      rw [execStoolIrqEdge, if_neg (not_not.mpr h2), if_neg hh]
    refine ⟨_, he, rfl, ?_⟩
    rw [if_neg hh]
    exact State.mem_irqIf s .stool _

theorem stoolIrqEdge_closed : ∀ (s : State) (k : Fin 16) (l : Fin 8), s.stoolSt k ≠ 2 → exec (.stoolIrqEdge k l) s = .next s := fun _ _ _ h => if_pos h

/-! ### User clocks and readback -/

theorem uclkCfgWrite_sets : ∀ (s : State) (k : Fin 8) (v : Word) (f : Nat), f = min (max 10000 (bitsOf v 0 20)) 600000 →
    (f ≠ s.rd (R.COPPICE_UCLK_CFG_FREQ_KHZ k) ∨ bitsOf v 31 1 ≠ s.rd (R.COPPICE_UCLK_CFG_EN k)) →
    (∀ i < 16, s.stoolSt i = 1 ∨ s.stoolSt i = 2 → nbit (s.rd (R.COPPICE_STOOL_STATUS_CLOCKS i)) k = false) →
    ∃ t, exec (.uclkCfgWrite k v) s = .next t ∧ t.rd (R.COPPICE_UCLK_CFG_FREQ_KHZ k) = f ∧ t.rd (R.COPPICE_UCLK_CFG_EN k) = bitsOf v 31 1 ∧
      t.rd (R.COPPICE_UCLK_CFG_LOCKED k) = 0 ∧ t.ans = acked := by
  intro s k v f hf hne hfree
  have hany : (List.range 16).any (fun i => (s.stoolSt i == 1 || s.stoolSt i == 2) && nbit (s.rd (R.COPPICE_STOOL_STATUS_CLOCKS i)) k) = false := by
    refine List.any_eq_false.mpr fun i hi => ?_
    have h := hfree i (List.mem_range.mp hi)
    simpa using h
  have he : exec (.uclkCfgWrite k v) s = .next ((((s.w1c v [R.COPPICE_UCLK_CFG_REFUSED k]).wr (R.COPPICE_UCLK_CFG_FREQ_KHZ k) f).wr
      (R.COPPICE_UCLK_CFG_EN k) (bitsOf v 31 1)).wr (R.COPPICE_UCLK_CFG_LOCKED k) 0).ack := by
    subst hf
    show execUclkCfgWrite k v s = _
    unfold execUclkCfgWrite
    dsimp only
    rw [if_neg (fun h => hne.elim (absurd h.1) (absurd h.2)), hany, if_neg Bool.false_ne_true]
    rfl
  have hlt : f < 2 ^ 20 := by omega
  refine ⟨_, he, ?_, ?_, ?_, rfl⟩ <;> rw [State.ack_rd]
  · rw [State.wr_rd_ne _ _ _ _ (by simp only [Fld.key, R.COPPICE_UCLK_CFG_FREQ_KHZ, R.COPPICE_UCLK_CFG_LOCKED, ne_eq]; omega), State.wr_rd_ne _ _ _ _ (by simp only [Fld.key, R.COPPICE_UCLK_CFG_FREQ_KHZ, R.COPPICE_UCLK_CFG_EN, ne_eq]; omega),
      State.wr_rd_same]
    exact Nat.mod_eq_of_lt hlt
  · rw [State.wr_rd_ne _ _ _ _ (by simp only [Fld.key, R.COPPICE_UCLK_CFG_EN, R.COPPICE_UCLK_CFG_LOCKED, ne_eq]; omega), State.wr_rd_same]
    exact Nat.mod_mod _ _
  · exact State.wr_rd_same _ _ _

theorem uclkCfgWrite_refused : ∀ (s : State) (k : Fin 8) (v : Word) (i : Nat), i < 16 → (s.stoolSt i = 1 ∨ s.stoolSt i = 2) →
    nbit (s.rd (R.COPPICE_STOOL_STATUS_CLOCKS i)) k = true → bitsOf v 31 1 ≠ s.rd (R.COPPICE_UCLK_CFG_EN k) →
    ∃ t, exec (.uclkCfgWrite k v) s = .next t ∧ t.rd (R.COPPICE_UCLK_CFG_REFUSED k) = 1 ∧ sameRegs s t [R.COPPICE_UCLK_CFG_REFUSED k] := by
  intro s k v i hi hst hclk hen
  have hany : (List.range 16).any (fun i => (s.stoolSt i == 1 || s.stoolSt i == 2) && nbit (s.rd (R.COPPICE_STOOL_STATUS_CLOCKS i)) k) = true :=
    List.any_eq_true.mpr ⟨i, List.mem_range.mpr hi, by simpa [hclk] using hst⟩
  have he : exec (.uclkCfgWrite k v) s = .next ((s.w1c v [R.COPPICE_UCLK_CFG_REFUSED k]).wr (R.COPPICE_UCLK_CFG_REFUSED k) 1).ack := by
    show execUclkCfgWrite k v s = _
    unfold execUclkCfgWrite
    dsimp only
    rw [if_neg (fun h => hen h.2), hany, if_pos rfl]
  exact ⟨_, he, (State.ack_rd _ _).trans (State.wr_rd_same _ _ _),
    (((sameRegs.refl s _).w1c v fun _ h => h).wr (List.mem_singleton_self _) 1).ack⟩

theorem uclkLocked_locks : ∀ (s : State) (k : Fin 8), s.bit (R.COPPICE_UCLK_CFG_EN k) = true → s.bit (R.COPPICE_UCLK_CFG_LOCKED k) = false →
    ∃ t, exec (.uclkLocked k) s = .next t ∧ t.rd (R.COPPICE_UCLK_CFG_LOCKED k) = 1 ∧ 76 + k.val ∉ t.stp.lost := by
  intro s k hen hl
  have he : exec (.uclkLocked k) s = .next ((s.wr (R.COPPICE_UCLK_CFG_LOCKED k) 1).setLost (76 + k) false) := if_pos ⟨hen, by simp [hl]⟩
  refine ⟨_, he, ?_, ?_⟩
  · refine (State.wr_rd_ne _ _ _ _ (by simp only [Fld.key, R.COPPICE_UCLK_CFG_LOCKED, R.STEEPLE_REPLICA_LOST_LOST, ne_eq]; omega)).trans ?_
    exact State.wr_rd_same s (R.COPPICE_UCLK_CFG_LOCKED k) 1
  · rw [State.setLost, State.wr_stp]
    simp [State.setStp]

theorem readbackSelect_selects : ∀ (s : State) (v : Word), ∃ t, exec (.coppiceReadbackSelect v) s = .next t ∧ t.rd R.COPPICE_READBACK_STOOL = bitsOf v 28 4 ∧
    t.rd R.COPPICE_READBACK_TYPE = bitsOf v 26 2 ∧ t.rd R.COPPICE_READBACK_INDEX = bitsOf v 0 11 ∧
    sameRegs s t [R.COPPICE_READBACK_STOOL, R.COPPICE_READBACK_TYPE, R.COPPICE_READBACK_INDEX] := by
  intro s v
  have hw (f : Fld) (hf : f ∈ [R.COPPICE_READBACK_STOOL, R.COPPICE_READBACK_TYPE, R.COPPICE_READBACK_INDEX]) :
      (s.wrWord v [R.COPPICE_READBACK_STOOL, R.COPPICE_READBACK_TYPE, R.COPPICE_READBACK_INDEX]).ack.rd f = f.of v := by
    refine (State.ack_rd _ _).trans (State.wrWord_rd_mem v f _ s hf ?_)
    fin_cases hf <;> simp [Fld.key, R.COPPICE_READBACK_STOOL, R.COPPICE_READBACK_TYPE, R.COPPICE_READBACK_INDEX]
  exact ⟨_, rfl, hw _ (by simp), hw _ (by simp), hw _ (by simp), ((sameRegs.refl s _).wrWord v fun _ h => h).ack⟩

/-- Settles O50: each clause is a lemma above about one command. -/
theorem coppiceStoolsAndClocks : Obligations.CoppiceStoolsAndClocks :=
  ⟨stoolCommands_take, stoolCommands_busy, stoolCommands_state, stoolDrainEnd_quiesced, stool_not_drained, stoolClearEnd_clears, stoolRequestTimeout_times,
    stoolRequestCheck_passes, stoolRequestCheck_refuses, stoolBlockTimeout_market, stoolBlockTimeout_sieve, stoolIrqEdge_interrupts, stoolIrqEdge_closed,
    uclkCfgWrite_sets, uclkCfgWrite_refused, uclkLocked_locks, readbackSelect_selects⟩

end Sys2Proof.Claims

/-! ## The Strongroom's keys, descriptors and secrets -/

namespace Sys2Proof.Machine

set_option Elab.async false

open Sys2Proof.Claims

section
variable (s : State)

@[simp] theorem State.setStrong_strong (x : Strongroom) : (s.setStrong x).strong = x := rfl
@[simp] theorem State.setStrong_rd (x : Strongroom) (f : Fld) : (s.setStrong x).rd f = s.rd f := rfl
@[simp] theorem State.setStrong_mkt (x : Strongroom) : (s.setStrong x).mkt = s.mkt := rfl
@[simp] theorem State.setStrong_regs (x : Strongroom) : (s.setStrong x).regs = s.regs := rfl

theorem State.keyAt_congr {s t : State} (h : t.strong.keys = s.strong.keys) (i : Nat) : t.keyAt i = s.keyAt i := by rw [State.keyAt, State.keyAt, h]

theorem State.freeKey_congr {s t : State} (h : t.strong.keys = s.strong.keys) : t.freeKey = s.freeKey := by
  rw [State.freeKey, State.freeKey]
  simp only [State.keyAt_congr h]

theorem State.setKey_strong (i : Nat) (k : StrongKey) : (s.setKey i k).strong = { s.strong with keys := s.strong.keys.set i k } := State.wr_strong _ _ _

theorem State.setKey_keyAt_same (i : Nat) (k : StrongKey) : (s.setKey i k).keyAt i = k := by
  rw [State.keyAt, State.setKey_strong]
  exact Tab.get_set_same _ _ _

theorem State.setKey_keyAt_ne {i j : Nat} (h : j ≠ i) (k : StrongKey) : (s.setKey i k).keyAt j = s.keyAt j := by
  rw [State.keyAt, State.setKey_strong]
  exact Tab.get_set_ne _ _ _ _ h

theorem State.setKey_mkt (i : Nat) (k : StrongKey) : (s.setKey i k).mkt = s.mkt := State.wr_mkt _ _ _

theorem State.emptyKey_live (i : Nat) : ((s.emptyKey i).keyAt i).live = false := by rw [State.emptyKey, State.setKey_keyAt_same]

theorem State.emptyKey_keeps_dead {j : Nat} (i : Nat) (h : (s.keyAt j).live = false) : ((s.emptyKey i).keyAt j).live = false := by
  by_cases hj : j = i
  · exact hj ▸ s.emptyKey_live i
  · rw [State.emptyKey, State.setKey_keyAt_ne _ hj, h]

theorem State.dmaRead_strong (mid : Mid) (a n : Nat) : (s.dmaRead mid a n).2.strong = s.strong :=
  (keeps_dmaRead (.refl (partsBut .strong) s) (by decide) (by decide) (by decide) (by decide) (by decide) mid a n).same_of_but

theorem State.dmaWrite_strong (mid : Mid) (a : Nat) (bs : List (Nat × Bool)) : (s.dmaWrite mid a bs).2.strong = s.strong :=
  (keeps_dmaWrite (.refl (partsBut .strong) s) (by decide) (by decide) (by decide) (by decide) (by decide) mid a bs).same_of_but

end

/-! ### Secrets overwritten -/

/-- One entry of the key store is emptied, where it holds a key. -/
def emptyEntry (t : State) (e : Nat × StrongKey) : State := if e.2.live then t.emptyKey e.1 else t

theorem emptyEntry_keeps_dead {t : State} {j : Nat} (e : Nat × StrongKey) (h : (t.keyAt j).live = false) : ((emptyEntry t e).keyAt j).live = false := by
  unfold emptyEntry
  split
  · exact t.emptyKey_keeps_dead e.1 h
  · exact h

/-- Emptying the entries leaves no key in a slot that one of them fills. -/
theorem emptyEntries_dead (l : List (Nat × StrongKey)) (t : State) (j : Nat) (h : (∃ e ∈ l, e.1 = j ∧ e.2.live = true) ∨ (t.keyAt j).live = false) :
    ((l.foldl emptyEntry t).keyAt j).live = false := by
  induction l generalizing t with
  | nil =>
    obtain ⟨e, he, -⟩ | h := h
    · exact absurd he List.not_mem_nil
    · exact h
  | cons e l ih =>
    refine ih _ ?_
    obtain ⟨x, hx, hj, hlive⟩ | h := h
    · rcases List.mem_cons.mp hx with rfl | hx
      · refine .inr ?_
        rw [emptyEntry, if_pos hlive, ← hj]
        exact t.emptyKey_live _
      · exact .inl ⟨x, hx, hj, hlive⟩
    · exact .inr (emptyEntry_keeps_dead e h)

theorem mem_of_lookupAt {α : Type} {k : Nat} {v : α} {l : List (Nat × α)} (h : lookupAt k l = some v) : (k, v) ∈ l := by
  induction l with
  | nil => exact absurd h (by simp [lookupAt])
  | cons e l ih =>
    rw [lookupAt] at h
    split at h
    · next hk =>
      obtain rfl := Option.some.inj h
      obtain rfl : e.1 = k := by simpa using hk
      exact List.mem_cons_self
    · exact List.mem_cons_of_mem _ (ih h)

theorem key_ne_of_mem_eraseAt {α : Type} {k : Nat} {e : Nat × α} {l : List (Nat × α)} (h : e ∈ eraseAt k l) : e.1 ≠ k := by
  induction l with
  | nil => exact absurd h List.not_mem_nil
  | cons x l ih =>
    rw [eraseAt] at h
    split at h
    · exact ih h
    · next hk =>
      rcases List.mem_cons.mp h with rfl | h
      · exact hk
      · exact ih h

/-- An entry after a write is the written one, or an old one of another key. -/
theorem mem_entries_set {α : Type} [DecidableEq α] [Inhabited α] {t : Tab α} {k : Nat} {v : α} {e : Nat × α} (h : e ∈ (t.set k v).entries) :
    e = (k, v) ∨ (e ∈ t.entries ∧ e.1 ≠ k) := by
  have he : (t.set k v).entries = if v = default then eraseAt k t.entries else insertAt k v (eraseAt k t.entries) := rfl
  rw [he] at h
  split at h
  · exact .inr ⟨mem_eraseAt _ _ _ h, key_ne_of_mem_eraseAt h⟩
  · exact (mem_insertAt _ _ _ _ h).imp id fun h => ⟨mem_eraseAt _ _ _ h, key_ne_of_mem_eraseAt h⟩

/-- The keys of the store. -/
def State.keyCount (s : State) : Nat := s.strong.keys.count (fun _ x => x.live)

theorem State.setKey_count (s : State) (i : Nat) (k : StrongKey) : (s.setKey i k).rd R.STRONG_STATUS_KEYS = (s.setKey i k).keyCount % 2 ^ 11 := by
  refine (State.wr_rd_same _ _ _).trans ?_
  rw [State.keyCount, State.setKey_strong]
  rfl

/-- A live entry after a slot has been emptied is an old one, of another slot. -/
theorem State.emptyKey_entries {s : State} {i : Nat} {e : Nat × StrongKey} (h : e ∈ (s.emptyKey i).strong.keys.entries) (hl : e.2.live = true) :
    e ∈ s.strong.keys.entries ∧ e.1 ≠ i := by
  rw [State.emptyKey, State.setKey_strong] at h
  rcases mem_entries_set h with rfl | h
  · exact absurd hl Bool.false_ne_true
  · exact h

/-- No entry is live once every live one has been emptied. -/
theorem emptyEntries_entries (l : List (Nat × StrongKey)) (t : State)
    (h : ∀ e ∈ t.strong.keys.entries, e.2.live = true → ∃ x ∈ l, x.1 = e.1 ∧ x.2.live = true) :
    ∀ e ∈ (l.foldl emptyEntry t).strong.keys.entries, e.2.live = false := by
  induction l generalizing t with
  | nil => exact fun e he => Bool.eq_false_iff.mpr fun hl => (h e he hl).elim fun x hx => absurd hx.1 List.not_mem_nil
  | cons a l ih =>
    refine ih _ fun e he hl => ?_
    by_cases ha : a.2.live = true
    · rw [emptyEntry, if_pos ha] at he
      obtain ⟨he, hne⟩ := State.emptyKey_entries he hl
      obtain ⟨x, hx, hxe, hxl⟩ := h e he hl
      refine ⟨x, (List.mem_cons.mp hx).resolve_left ?_, hxe, hxl⟩
      rintro rfl
      exact hne hxe.symm
    · rw [emptyEntry, if_neg ha] at he
      obtain ⟨x, hx, hxe, hxl⟩ := h e he hl
      refine ⟨x, (List.mem_cons.mp hx).resolve_left ?_, hxe, hxl⟩
      rintro rfl
      exact ha hxl

/-- KEYS shows the count once an entry has been emptied. -/
theorem emptyEntries_count (l : List (Nat × StrongKey)) (t : State)
    (h : (∃ e ∈ l, e.2.live = true) ∨ t.rd R.STRONG_STATUS_KEYS = t.keyCount % 2 ^ 11) :
    (l.foldl emptyEntry t).rd R.STRONG_STATUS_KEYS = (l.foldl emptyEntry t).keyCount % 2 ^ 11 := by
  induction l generalizing t with
  | nil => exact h.resolve_left fun ⟨e, he, _⟩ => absurd he List.not_mem_nil
  | cons a l ih =>
    refine ih _ ?_
    by_cases ha : a.2.live = true
    · rw [emptyEntry, if_pos ha]
      exact .inr (State.setKey_count _ _ _)
    · rw [emptyEntry, if_neg ha]
      refine h.imp (fun ⟨e, he, hl⟩ => ⟨e, (List.mem_cons.mp he).resolve_left ?_, hl⟩) id
      rintro rfl
      exact ha hl

/-- Emptying entries changes the key store, and KEYS, only. -/
theorem emptyEntries_keeps (l : List (Nat × StrongKey)) (t : State) : sameRegs t (l.foldl emptyEntry t) [R.STRONG_STATUS_KEYS] ∧
    (l.foldl emptyEntry t).strong = { t.strong with keys := (l.foldl emptyEntry t).strong.keys } := by
  induction l generalizing t with
  | nil => exact ⟨.refl t _, rfl⟩
  | cons a l ih =>
    obtain ⟨h1, h2⟩ := ih (emptyEntry t a)
    rw [List.foldl_cons]
    have hs : sameRegs t (emptyEntry t a) [R.STRONG_STATUS_KEYS] ∧ (emptyEntry t a).strong = { t.strong with keys := (emptyEntry t a).strong.keys } := by
      unfold emptyEntry
      split
      · rw [State.emptyKey, State.setKey_strong]
        exact ⟨((sameRegs.refl t _).of_regs (State.setStrong_regs t _)).wr (List.mem_singleton_self _) _, rfl⟩
      · exact ⟨.refl t _, rfl⟩
    refine ⟨hs.1.trans h1, ?_⟩
    rw [h2, hs.2]

/-- The key store with every key emptied. -/
def State.noKeys (s : State) : State := s.strong.keys.entries.foldl emptyEntry s

section
variable (s : State)

theorem State.noKeys_dead (j : Nat) : (s.noKeys.keyAt j).live = false := by
  refine emptyEntries_dead _ s j ?_
  by_cases h : (s.keyAt j).live = true
  · refine .inl ?_
    have hg : s.keyAt j = (lookupAt j s.strong.keys.entries).getD default := rfl
    cases hl : lookupAt j s.strong.keys.entries with
    | none =>
      rw [hg, hl] at h
      exact absurd h Bool.false_ne_true
    | some v =>
      rw [hg, hl] at h
      exact ⟨_, mem_of_lookupAt hl, rfl, h⟩
  · exact .inr (Bool.eq_false_iff.mpr h)

theorem State.noKeys_count (j : Nat) (h : (s.keyAt j).live = true) : s.noKeys.rd R.STRONG_STATUS_KEYS = 0 := by
  have hex : ∃ e ∈ s.strong.keys.entries, e.2.live = true := by
    have hg : s.keyAt j = (lookupAt j s.strong.keys.entries).getD default := rfl
    cases hl : lookupAt j s.strong.keys.entries with
    | none =>
      rw [hg, hl] at h
      exact absurd h Bool.false_ne_true
    | some v =>
      rw [hg, hl] at h
      exact ⟨_, mem_of_lookupAt hl, h⟩
  have hz : s.noKeys.keyCount = 0 := by
    refine List.length_eq_zero_iff.mpr (List.filter_eq_nil_iff.mpr fun e he => ?_)
    have hd := emptyEntries_entries _ s (fun e he hl => ⟨e, he, rfl, hl⟩) e he
    exact Bool.eq_false_iff.mp hd
  rw [State.noKeys, emptyEntries_count _ s (.inl hex), ← State.noKeys, hz, Nat.zero_mod]

theorem State.noKeys_sameRegs : sameRegs s s.noKeys [R.STRONG_STATUS_KEYS] := (emptyEntries_keeps _ s).1

theorem State.noKeys_strong : s.noKeys.strong = { s.strong with keys := s.noKeys.strong.keys } := (emptyEntries_keeps _ s).2

end

/-! ### What zeroization overwrites (R551) -/

/-- The registers that zeroization writes. -/
def wipeRegs (k : Nat) : Prop := k = R.STRONG_STATUS_KEYS.key ∨ addrIn 0x42000024 0x42000044 k ∨ ∃ q < 8, k = (R.STRONG_Q_CFG_ROLE q).key

theorem wipeRegs_challenge {i : Nat} (hi : i < 8) : wipeRegs (R.STRONG_CHALLENGE i).key := by
  refine .inr (.inl ?_)
  simp only [addrIn, Fld.key, R.STRONG_CHALLENGE]
  omega

theorem foldl_wr_rd_mem {g : Nat → Fld} {v : Nat → Nat} {f : Nat} (hg : ∀ a b, a ≠ b → (g a).key ≠ (g b).key) (l : List Nat) (s : State)
    (h : f ∈ l ∨ s.rd (g f) = v f % 2 ^ (g f).w) : (l.foldl (fun t i => t.wr (g i) (v i)) s).rd (g f) = v f % 2 ^ (g f).w := by
  induction l generalizing s with
  | nil => exact h.resolve_left List.not_mem_nil
  | cons a l ih =>
    refine ih _ ?_
    by_cases hf : f = a
    · subst hf
      exact .inr (State.wr_rd_same _ _ _)
    · exact h.imp (fun hm => (List.mem_cons.mp hm).resolve_left hf) (State.wr_rd_ne _ _ _ _ (hg _ _ hf)).trans

theorem foldl_wr_strong {g : Nat → Fld} {v : Nat → Nat} (l : List Nat) (s : State) : (l.foldl (fun t i => t.wr (g i) (v i)) s).strong = s.strong := by
  induction l generalizing s with
  | nil => rfl
  | cons a l ih => exact (ih _).trans (State.wr_strong _ _ _)

theorem foldl_wr_mkt {g : Nat → Fld} {v : Nat → Nat} (l : List Nat) (s : State) : (l.foldl (fun t i => t.wr (g i) (v i)) s).mkt = s.mkt := by
  induction l generalizing s with
  | nil => rfl
  | cons a l ih => exact (ih _).trans (State.wr_mkt _ _ _)

section
variable (s : State)

theorem State.clearChallenge_strong : s.clearChallenge.strong = { s.strong with challenge := none } := foldl_wr_strong _ _

theorem State.clearChallenge_rd {i : Nat} (hi : i < 8) : s.clearChallenge.rd (R.STRONG_CHALLENGE i) = 0 :=
  foldl_wr_rd_mem (v := fun _ => 0) (fun a b h => (by simp only [Fld.key, R.STRONG_CHALLENGE, ne_eq]; omega)) _ _ (.inl (List.mem_range.mpr hi))

theorem State.clearChallenge_writes : WritesIn wipeRegs s s.clearChallenge :=
  WritesIn.foldl _ (fun _ _ hi h => h.wr (wipeRegs_challenge (List.mem_range.mp hi)) 0) ((WritesIn.refl _ s).of_regs (State.setStrong_regs _ _))

/-- The secrets are overwritten but for the keys that the Market's ports hold. -/
def State.unbound : State :=
  (List.range 8).foldl (fun x q => x.wr (R.STRONG_Q_CFG_ROLE q) 0) ((s.noKeys.setStrong { s.noKeys.strong with pdcp := ⟨[]⟩ }).clearChallenge)

theorem State.setMkt_strong (m : Market) : (s.setMkt m).strong = s.strong := rfl

theorem State.wipe_eq : s.wipe = s.unbound.setMkt { s.unbound.mkt with sec := s.unbound.mkt.sec.map (fun _ m => { m with keys := ⟨[]⟩ }) } := rfl

theorem State.wipe_strong : s.wipe.strong = { s.strong with keys := s.noKeys.strong.keys, pdcp := ⟨[]⟩, challenge := none } := by
  rw [State.wipe_eq, State.setMkt_strong, State.unbound, foldl_wr_strong, State.clearChallenge_strong, State.setStrong_strong, State.noKeys_strong]

theorem State.wipe_rd (f : Fld) : s.wipe.rd f = s.unbound.rd f := by rw [State.wipe_eq, setMkt_rd]

theorem State.wipe_dead (j : Nat) : (s.wipe.keyAt j).live = false := by
  rw [State.keyAt_congr (s := s.noKeys) (by rw [State.wipe_strong])]
  exact s.noKeys_dead j

theorem State.wipe_role {q : Nat} (hq : q < 8) : s.wipe.rd (R.STRONG_Q_CFG_ROLE q) = 0 :=
  (s.wipe_rd _).trans (foldl_wr_rd_mem (v := fun _ => 0) (fun a b h => (by simp only [Fld.key, R.STRONG_Q_CFG_ROLE, ne_eq]; omega)) _ _ (.inl (List.mem_range.mpr hq)))

theorem State.unbound_writes : WritesIn wipeRegs s s.unbound := by
  refine WritesIn.foldl _ (fun _ q hq h => h.wr (.inr (.inr ⟨q, List.mem_range.mp hq, rfl⟩)) 0) ?_
  refine WritesIn.trans ?_ (State.clearChallenge_writes _)
  exact (WritesIn.of_sameRegs s.noKeys_sameRegs fun x hx => .inl (by rw [List.mem_singleton.mp hx])).of_regs (State.setStrong_regs _ _)

theorem State.wipe_writes : WritesIn wipeRegs s s.wipe := fun f hf => (s.wipe_rd f).trans (s.unbound_writes f hf)

theorem State.wipe_keys (j : Nat) (h : (s.keyAt j).live = true) : s.wipe.rd R.STRONG_STATUS_KEYS = 0 := by
  have hne : ∀ q, R.STRONG_STATUS_KEYS.key ≠ (R.STRONG_Q_CFG_ROLE q).key := fun q => (by simp only [Fld.key, R.STRONG_STATUS_KEYS, R.STRONG_Q_CFG_ROLE, ne_eq]; omega)
  have hroles : WritesIn (fun k => addrIn 0x42000024 0x42000044 k ∨ ∃ q, k = (R.STRONG_Q_CFG_ROLE q).key) s.noKeys s.unbound := by
    refine WritesIn.foldl _ (fun _ q _ h => h.wr (.inr ⟨q, rfl⟩) 0) (WritesIn.foldl _ (fun _ i hi h => h.wr (.inl ?_) 0) ?_)
    · have := List.mem_range.mp hi
      simp only [addrIn, Fld.key, R.STRONG_CHALLENGE]
      omega
    · exact ((WritesIn.refl _ s.noKeys).of_regs (State.setStrong_regs _ _)).of_regs (State.setStrong_regs _ _)
  rw [State.wipe_rd, hroles, s.noKeys_count j h]
  rintro (h | ⟨q, hq⟩)
  · revert h
    simp only [addrIn, Fld.key, R.STRONG_STATUS_KEYS]
    omega
  · exact hne q hq

theorem State.wipe_msec (p j : Nat) : (s.wipe.msec p).keys.get j = [] := by
  rw [State.wipe_eq, State.msec, State.setMkt_mkt]
  have h (v : MacsecPort) (hv : (p, v) ∈ (s.unbound.mkt.sec.map (fun _ m => { m with keys := ⟨[]⟩ })).entries) : v.keys = ⟨[]⟩ := by
    obtain ⟨e, -, he⟩ := List.mem_map.mp (List.mem_filter.mp hv).1
    exact (congrArg (fun x : Nat × MacsecPort => x.2.keys) he).symm
  have hg : (s.unbound.mkt.sec.map (fun _ m => { m with keys := ⟨[]⟩ })).get p =
    (lookupAt p (s.unbound.mkt.sec.map (fun _ m => { m with keys := ⟨[]⟩ })).entries).getD default := rfl
  rw [hg]
  cases hl : lookupAt p (s.unbound.mkt.sec.map (fun _ m => { m with keys := ⟨[]⟩ })).entries with
  | none => rfl
  | some v =>
    rw [Option.getD_some, h v (mem_of_lookupAt hl)]
    rfl

/-! ### The Strongroom's states -/

theorem State.showApproved_strong : s.showApproved.strong = s.strong := State.wrB_strong _ _ _

theorem State.strongTo_strong (n : Nat) : (s.strongTo n).strong = s.strong := (State.showApproved_strong _).trans (State.wr_strong _ _ _)

theorem State.showApproved_rd_ne {f : Fld} (h : f.key ≠ R.STRONG_STATUS_APPROVED.key) : s.showApproved.rd f = s.rd f := State.wr_rd_ne _ _ _ _ h

theorem State.strongTo_rd_ne (n : Nat) {f : Fld} (h : ∀ x ∈ [R.STRONG_STATUS_STATE, R.STRONG_STATUS_APPROVED], f.key ≠ x.key) : (s.strongTo n).rd f = s.rd f :=
  (State.showApproved_rd_ne _ (h _ (by simp))).trans (State.wr_rd_ne _ _ _ _ (h _ (by simp)))

theorem State.strongTo_st (n : Nat) : (s.strongTo n).strongSt = n % 2 ^ 2 := (State.showApproved_rd_ne _ (by decide)).trans (State.wr_rd_same _ _ _)

theorem State.zeroize_strong : s.zeroize.strong = { s.wipe.strong with zeroing := true } := State.strongTo_strong _ _

theorem State.strongError_strong (c : Nat) : (s.strongError c).strong = s.wipe.strong := by
  rw [State.strongError, State.raise_strong, State.strongTo_strong, State.wr_strong, State.inc_strong]

theorem State.strongError_rd (c : Nat) (f : Fld) : (s.strongError c).rd f = (((s.wipe.inc R.STRONG_ZEROIZE_COUNT).wr R.STRONG_ERR_CAUSE c).strongTo 3).rd f :=
  State.rd_congr (State.raise_regs _ _) f

theorem State.strongError_st (c : Nat) : (s.strongError c).strongSt = 3 := (s.strongError_rd c _).trans (State.strongTo_st _ 3)

theorem State.strongError_cause (c : Nat) (hc : c < 16) : (s.strongError c).rd R.STRONG_ERR_CAUSE = c := by
  rw [State.strongError_rd, State.strongTo_rd_ne _ _ (by decide), State.wr_rd_same]
  exact Nat.mod_eq_of_lt hc

theorem State.strongError_dead (c j : Nat) : ((s.strongError c).keyAt j).live = false := by
  rw [State.keyAt_congr (s := s.wipe) (by rw [State.strongError_strong])]
  exact s.wipe_dead j

end

end Sys2Proof.Machine

/-! ## O51: what each service computes, stores and enters -/

namespace Sys2Proof.Claims

set_option Elab.async false

open Sys2Proof.Machine

section
variable {s t u w : State} {q op n : Nat} {d : StrongDesc} {l : List (Nat × Bool)} {k : StrongKey} {types : List Nat} {b : List Nat} {ok : Bool}

/-! ### The parts of a service -/

/-- A descriptor that is due and passes its checks ends as its service decides. -/
theorem service_result (h : performs s q op d t) {f : StrongDesc → State → StrongResult × State} {r : StrongResult} (hf : f d t = (r, w)) :
    s.service q op f = .next (w.decideRes q r) := by
  obtain ⟨hdue, hst, hfetch, hop, hc⟩ := h
  rw [State.service, if_neg (by simp [hdue, hst]), hfetch]
  dsimp only
  rw [if_neg (not_not.mpr hop), hc]
  dsimp only
  rw [hf]

theorem decideRes_rd (s : State) (q : Nat) (r : StrongResult) (f : Fld) : (s.decideRes q r).rd f = s.rd f := rfl

theorem decideRes_keyAt (s : State) (q : Nat) (r : StrongResult) (j : Nat) : (s.decideRes q r).keyAt j = s.keyAt j := rfl

theorem decideRes_end (s : State) (q : Nat) (r : StrongResult) : (s.decideRes q r).strong.ends.get q = some r := Tab.get_set_same _ _ _

theorem keyFor_names (h : names t d types n k) : t.keyFor d types n = .ok k := by
  obtain ⟨i, hk, htype, husage⟩ := h
  rw [State.keyFor, hk]
  exact if_pos ⟨by simpa using htype, husage⟩

theorem source_is (h : sourceIs t d l u) : t.source d d.len = (.ok (byteVals l), u) := by
  rw [State.source, h.1]
  dsimp only
  rw [h.2, if_neg Bool.false_ne_true]

theorem source_strong (h : sourceIs t d l u) : u.strong = t.strong := by
  have hs := t.dmaRead_strong strongMid d.src d.len
  rwa [h.1] at hs

theorem deliver_stored (h : stored u d b ok w) (r : StrongResult) : u.deliver d b r = (if ok then r else abortedErr 7, w) := by
  rw [State.deliver, h]
  rfl

theorem mapBytes_stored {f : List Nat → List Nat} (hb : d.buffers d.len n = true) (hs : sourceIs t d l u)
    (hw : stored u d (fitLen n (f (byteVals l))) ok w) : t.mapBytes d n f = (okStored ok, w) := by
  rw [State.mapBytes, if_neg (by simp [hb]), source_is hs]
  exact deliver_stored hw _

theorem newKey_made {i : Nat} {p : Bool} (hf : u.freeKey = some i) (hp : nbits d.p0 16 4 ∉ [4, 5] ∨ p = true) :
    u.newKey d b p = (okOut (i + 1024 * (u.keyAt i).gen), u.setKey i {
      live := true, gen := (u.keyAt i).gen, type := nbits d.p0 16 4, usage := nbits d.p0 0 7, bytes := fitLen (keyLen (nbits d.p0 16 4)) b }) := by
  have hpair : ¬ ((nbits d.p0 16 4 = 4 ∨ nbits d.p0 16 4 = 5) ∧ (!p) = true) := by
    rintro ⟨h4, hn⟩
    rcases hp with hp | rfl
    · exact hp (by simpa using h4)
    · exact Bool.false_ne_true hn
  unfold State.newKey
  simp only [hf, if_neg hpair]
  rfl

/-- A service that enters a key. -/
theorem service_newKey (h : performs s q op d t) {f : StrongDesc → State → StrongResult × State} {i : Nat} {p : Bool} (hf : f d t = u.newKey d b p)
    (hfree : u.freeKey = some i) (hp : nbits d.p0 16 4 ∉ [4, 5] ∨ p = true) : s.service q op f = .next (keyMade u d q i b) :=
  service_result h (hf.trans (newKey_made hfree hp))

end

theorem freeKey_isNone {t : State} {i : Nat} (h : t.freeKey = some i) : ¬ t.freeKey.isNone = true := by simp [h]

/-! ### Digests, MACs, ciphers and signatures -/

theorem digest_performs : ∀ (s t u w : State) (ok : Bool) (q : Fin 8) (d : StrongDesc) (l : List (Nat × Bool)), performs s q 0x01 d t → 1 ≤ d.p0 → d.p0 ≤ 3 →
    d.buffers d.len (digestLen d.p0) = true → sourceIs t d l u → stored u d (fitLen (digestLen d.p0) (Config.sha d.p0 (byteVals l))) ok w →
    exec (.digest q) s = .next (w.decideRes q (okStored ok)) := by
  intro s t u w ok q d l h h1 h3 hb hs hw
  show execDigest q s = _
  unfold execDigest
  refine service_result h ?_
  rw [if_neg (by omega)]
  exact mapBytes_stored hb hs hw

theorem hmac_performs : ∀ (s t u w : State) (ok : Bool) (q : Fin 8) (d : StrongDesc) (k : StrongKey) (l : List (Nat × Bool)), performs s q 0x02 d t → (d.p0 = 1 ∨ d.p0 = 2) →
    names t d [3] 2 k → d.buffers d.len (digestLen d.p0) = true → sourceIs t d l u →
    stored u d (fitLen (digestLen d.p0) (Config.hmac d.p0 k.bytes (byteVals l))) ok w → exec (.hmac q) s = .next (w.decideRes q (okStored ok)) := by
  intro s t u w ok q d k l h h12 hk hb hs hw
  have hn : (if d.p0 = 1 then 32 else 48) = digestLen d.p0 := by rcases h12 with h | h <;> rw [digestLen, h] <;> rfl
  show execHmac q s = _
  unfold execHmac
  refine service_result h ?_
  rw [if_neg (by omega), keyFor_names hk, hn]
  exact mapBytes_stored hb hs hw

theorem gcmEnc_performs : ∀ (s t u w : State) (ok : Bool) (q : Fin 8) (d : StrongDesc) (k : StrongKey) (l : List (Nat × Bool)) (x : List Nat × List Nat), performs s q 0x03 d t →
    d.aux ≤ d.len → names t d [1, 2] 0 k → d.buffers d.len (d.len - d.aux + 16) = true → sourceIs t d l u →
    x = Config.gcmEnc k.bytes d.iv ((byteVals l).take d.aux) ((byteVals l).drop d.aux) →
    stored u d (fitLen (d.len - d.aux + 16) (fitLen (d.len - d.aux) x.1 ++ fitLen 16 x.2)) ok w → exec (.gcmEnc q) s = .next (w.decideRes q (okStored ok)) := by
  intro s t u w ok q d k l x h hlen hk hb hs hx hw
  subst hx
  show execGcmEnc q s = _
  unfold execGcmEnc
  refine service_result h ?_
  dsimp only
  rw [if_neg (by omega), keyFor_names hk]
  exact mapBytes_stored hb hs hw

theorem gcmDec_performs : ∀ (s t u w : State) (ok : Bool) (q : Fin 8) (d : StrongDesc) (k : StrongKey) (l : List (Nat × Bool)) (n : Nat) (p : Option (List Nat)),
    performs s q 0x04 d t → d.len = d.aux + n + 16 → names t d [1, 2] 1 k → d.buffers d.len n = true → sourceIs t d l u →
    p = Config.gcmDec k.bytes d.iv ((byteVals l).take d.aux) (((byteVals l).drop d.aux).take n) ((byteVals l).drop (d.aux + n)) →
    stored u d (match p with | some x => fitLen n x | none => List.replicate n 0) ok w →
    exec (.gcmDec q) s = .next (w.decideRes q (if p.isSome || !ok then okStored ok else abortedErr 8)) := by
  intro s t u w ok q d k l n p h hlen hk hb hs hp hw
  have hn : d.len - d.aux - 16 = n := by omega
  show execGcmDec q s = _
  unfold execGcmDec
  refine service_result h ?_
  dsimp only
  rw [if_neg (by omega), keyFor_names hk, hn]
  dsimp only
  rw [if_neg (by simp [hb]), source_is hs]
  dsimp only
  rw [← hp]
  cases p with
  | none =>
    refine (deliver_stored hw _).trans (congrArg (·, w) ?_)
    cases ok <;> rfl
  | some x => exact deliver_stored hw _

theorem ecdsaSign_performs : ∀ (s t u w : State) (ok : Bool) (q : Fin 8) (d : StrongDesc) (k : StrongKey) (l : List (Nat × Bool)), performs s q 0x05 d t → (d.len = 32 ∨ d.len = 48) →
    names t d [4, 5] 2 k → d.buffers d.len (sigLen k.type) = true → sourceIs (t.draw (keyLen k.type)).2 d l u →
    stored u d (fitLen (sigLen k.type) (Config.ecdsaSign k.type k.bytes (byteVals l) (t.draw (keyLen k.type)).1)) ok w →
    exec (.ecdsaSign q) s = .next (w.decideRes q (okStored ok)) := by
  intro s t u w ok q d k l h hlen hk hb hs hw
  show execEcdsaSign q s = _
  unfold execEcdsaSign
  refine service_result h ?_
  dsimp only
  rw [if_neg (by omega), keyFor_names hk]
  exact mapBytes_stored hb hs hw

theorem ecdsaVerify_performs : ∀ (s t u : State) (q : Fin 8) (d : StrongDesc) (l : List (Nat × Bool)) (c n m : Nat), performs s q 0x06 d t → (m = 32 ∨ m = 48) →
    (c = 4 ∧ n = 64 ∨ c = 5 ∧ n = 96) → d.len = 2 * n + m → d.buffers d.len 0 = true → sourceIs t d l u → exec (.ecdsaVerify q) s =
      .next (u.decideRes q (okOut (if Config.ecdsaVerify c ((byteVals l).take n) (((byteVals l).drop n).take m) ((byteVals l).drop (n + m)) then 1 else 0))) := by
  intro s t u q d l c n m h hm hcn hlen hb hs
  have hc : (if d.len = 160 ∨ d.len = 176 then 4 else if d.len = 224 ∨ d.len = 240 then 5 else 0) = c := by
    rcases hcn with ⟨rfl, rfl⟩ | ⟨rfl, rfl⟩
    · rw [if_pos (by omega)]
    · rw [if_neg (by omega), if_pos (by omega)]
  have hsig : sigLen c = n := by rcases hcn with ⟨rfl, rfl⟩ | ⟨rfl, rfl⟩ <;> rfl
  show execEcdsaVerify q s = _
  unfold execEcdsaVerify
  refine service_result h ?_
  dsimp only
  rw [hc, if_neg (by omega), if_neg (by simp [hb]), source_is hs, hsig, show d.len - 2 * n = m by omega, show d.len - n = n + m by omega]
  rfl

/-! ### Services that enter a key -/

theorem ecdh_performs : ∀ (s t u : State) (q : Fin 8) (d : StrongDesc) (k : StrongKey) (l : List (Nat × Bool)) (i : Nat), performs s q 0x07 d t → keyTypeOk d.p0 = true →
    names t d [4, 5] 4 k → d.len = sigLen k.type → d.buffers d.len 0 = true → t.freeKey = some i → sourceIs t d l u →
    exec (.ecdh q true) s = .next (keyMade u d q i (Config.ecdh k.type k.bytes (byteVals l))) := by
  intro s t u q d k l i h hty hk hlen hb hfree hs
  show execEcdh q true s = _
  unfold execEcdh
  refine service_newKey h ?_ ((State.freeKey_congr (congrArg Strongroom.keys (source_strong hs))).trans hfree) (.inr rfl)
  rw [if_neg (by simp [hty]), keyFor_names hk]
  dsimp only
  rw [if_neg (not_not.mpr hlen), if_neg (by simp [hb]), if_neg (freeKey_isNone hfree), source_is hs]

theorem draw_freeKey (t : State) (n : Nat) : (t.draw n).2.freeKey = t.freeKey := State.freeKey_congr rfl

theorem keygen_symmetric : ∀ (s t : State) (q : Fin 8) (d : StrongDesc) (p : Bool) (i : Nat), performs s q 0x08 d t → keyTypeOk d.p0 = true → nbits d.p0 16 4 ∉ [4, 5] →
    d.buffers 0 0 = true → t.freeKey = some i → exec (.keygen q p) s =
      .next (keyMade (t.draw (keyLen (nbits d.p0 16 4))).2 d q i (t.draw (keyLen (nbits d.p0 16 4))).1) := by
  intro s t q d p i h hty h45 hb hfree
  have hn : (if nbits d.p0 16 4 = 4 ∨ nbits d.p0 16 4 = 5 then sigLen (nbits d.p0 16 4) else 0) = 0 := if_neg (by simpa using h45)
  show execKeygen q p s = _
  unfold execKeygen
  refine service_newKey (p := p) h ?_ ((draw_freeKey t _).trans hfree) (.inl h45)
  dsimp only
  rw [hn, if_neg (by simp [hty]), if_neg (by simp [hb]), if_neg (freeKey_isNone hfree), if_pos rfl]

/-- KEYGEN of an ECC pair, up to its pairwise-consistency test. -/
theorem keygen_pair {t : State} {d : StrongDesc} {n : Nat} (hty : keyTypeOk d.p0 = true) (hn : nbits d.p0 16 4 = n) (h45 : n ∈ [4, 5])
    (hb : d.buffers 0 (sigLen n) = true) (hfree : t.freeKey ≠ none) :
    (if nbits d.p0 16 4 = 4 ∨ nbits d.p0 16 4 = 5 then sigLen (nbits d.p0 16 4) else 0) = sigLen n ∧ sigLen n ≠ 0 ∧ ¬ (!keyTypeOk d.p0) = true ∧
      ¬ (!d.buffers 0 (sigLen n)) = true ∧ ¬ t.freeKey.isNone = true := by
  refine ⟨?_, ?_, by simp [hty], by simp [hb], by simpa using hfree⟩
  · rw [hn]
    exact if_pos (by simpa using h45)
  · unfold sigLen
    split <;> decide

theorem keygen_performs : ∀ (s t w : State) (ok : Bool) (q : Fin 8) (d : StrongDesc) (n i : Nat), performs s q 0x08 d t → keyTypeOk d.p0 = true → nbits d.p0 16 4 = n →
    n ∈ [4, 5] → d.buffers 0 (sigLen n) = true → t.freeKey = some i →
    stored (t.draw (keyLen n)).2 d (fitLen (sigLen n) (Config.ecPublic n (t.draw (keyLen n)).1)) ok w →
    exec (.keygen q true) s = .next (if ok then keyMade w d q i (t.draw (keyLen n)).1 else w.decideRes q (abortedErr 7)) := by
  intro s t w ok q d n i h hty hn h45 hb hfree hw
  obtain ⟨hlen, h0, hty', hb', hfree'⟩ := keygen_pair (t := t) hty hn h45 hb (by simp [hfree])
  have hf : w.freeKey = some i := by
    have hs := (t.draw (keyLen n)).2.dmaWrite_strong strongMid d.dst (clean ((fitLen (sigLen n) (Config.ecPublic n (t.draw (keyLen n)).1)).map (· % 256)))
    rw [hw] at hs
    exact (State.freeKey_congr (congrArg Strongroom.keys hs)).trans ((draw_freeKey t _).trans hfree)
  show execKeygen q true s = _
  unfold execKeygen
  cases ok with
  | true =>
    refine service_newKey h ?_ hf (.inr rfl)
    dsimp only
    rw [hlen, hn, if_neg hty', if_neg hb', if_neg hfree', if_neg h0, if_neg (show ¬ (!true) = true from Bool.false_ne_true), deliver_stored hw]
    exact if_pos rfl
  | false =>
    refine service_result h ?_
    dsimp only
    rw [hlen, hn, if_neg hty', if_neg hb', if_neg hfree', if_neg h0, if_neg (show ¬ (!true) = true from Bool.false_ne_true), deliver_stored hw]
    rfl

theorem keygen_inconsistent : ∀ (s t : State) (q : Fin 8) (d : StrongDesc) (n : Nat), performs s q 0x08 d t → keyTypeOk d.p0 = true → nbits d.p0 16 4 = n → n ∈ [4, 5] →
    d.buffers 0 (sigLen n) = true → t.freeKey ≠ none → ∃ v, exec (.keygen q false) s = .next v ∧ v.strongSt = 3 ∧ v.rd R.STRONG_ERR_CAUSE = 2 ∧
      v.strong.ends.get q = some (abortedErr 11) ∧ (∀ j, (v.keyAt j).live = false) := by
  intro s t q d n h hty hn h45 hb hfree
  obtain ⟨hlen, h0, hty', hb', hfree'⟩ := keygen_pair hty hn h45 hb hfree
  obtain ⟨i, hi⟩ := Option.ne_none_iff_exists'.mp hfree
  have he : exec (.keygen q false) s = .next (((t.draw (keyLen n)).2.strongError 2).decideRes q (abortedErr 11)) := by
    show execKeygen q false s = _
    unfold execKeygen
    refine service_result h ?_
    dsimp only
    rw [hlen, hn, if_neg hty', if_neg hb', if_neg hfree', if_neg h0, if_pos (show (!false) = true from rfl)]
    have hpair : (nbits d.p0 16 4 = 4 ∨ nbits d.p0 16 4 = 5) ∧ (!false) = true := ⟨by rw [hn]; simpa using h45, rfl⟩
    unfold State.newKey
    simp only [(draw_freeKey t _).trans hi, if_pos hpair]
    rfl
  generalize (t.draw (keyLen n)).2 = u at he
  refine ⟨_, he, (decideRes_rd _ _ _ _).trans (u.strongError_st 2), (decideRes_rd _ _ _ _).trans (u.strongError_cause 2 (by decide)),
    decideRes_end _ _ _, fun j => ?_⟩
  rw [decideRes_keyAt]
  exact u.strongError_dead 2 j

/-- A key that a descriptor names has a handle that is not zero. -/
theorem key_ne_zero_of_names {t : State} {d : StrongDesc} {types : List Nat} {n : Nat} {k : StrongKey} (h : names t d types n k) : d.key ≠ 0 := by
  obtain ⟨i, hk, -⟩ := h
  intro h0
  rw [State.keyOf, if_neg (fun hc => hc.1 h0)] at hk
  exact absurd hk (by simp)

theorem kdf_performs : ∀ (s t u : State) (q : Fin 8) (d : StrongDesc) (k : StrongKey) (l : List (Nat × Bool)) (i : Nat), performs s q 0x09 d t → keyTypeOk d.p0 = true →
    names t d [1, 2, 3, 4, 5, 6] 4 k → d.buffers d.len 0 = true → t.freeKey = some i → sourceIs t d l u →
    exec (.kdf q true) s = .next (keyMade u d q i (Config.kdf k.bytes (byteVals l) (keyLen (nbits d.p0 16 4)))) := by
  intro s t u q d k l i h hty hk hb hfree hs
  show execKdf q true s = _
  unfold execKdf
  refine service_newKey h ?_ ((State.freeKey_congr (congrArg Strongroom.keys (source_strong hs))).trans hfree) (.inr rfl)
  rw [if_neg (by simp [hty]), if_neg (fun hc => key_ne_zero_of_names hk hc.1), keyFor_names hk]
  dsimp only
  rw [if_neg (by simp [hb]), if_neg (freeKey_isNone hfree), source_is hs]

theorem wrap_performs : ∀ (s t w : State) (ok : Bool) (q : Fin 8) (d : StrongDesc) (i : Nat) (k : StrongKey) (kek : List Nat), performs s q 0x0A d t → d.p0 < 65536 →
    t.keyOf d.p0 = some (i, k) → t.kekOf d = .ok kek → d.buffers 0 (8 + (k.bytes.length + 7) / 8 * 8) = true →
    stored t d (fitLen (8 + (k.bytes.length + 7) / 8 * 8) (Config.kwpWrap kek k.bytes)) ok w → exec (.wrap q) s = .next (w.decideRes q (okStored ok)) := by
  intro s t w ok q d i k kek h hp0 hk hkek hb hw
  show execWrap q s = _
  unfold execWrap
  refine service_result h ?_
  dsimp only
  rw [if_neg (by omega), hk, hkek]
  dsimp only
  rw [if_neg (by simp [hb])]
  exact deliver_stored hw _

theorem unwrap_performs : ∀ (s t u : State) (q : Fin 8) (d : StrongDesc) (kek : List Nat) (l : List (Nat × Bool)) (i : Nat), performs s q 0x0B d t → keyTypeOk d.p0 = true →
    t.kekOf d = .ok kek → d.buffers d.len 0 = true → t.freeKey = some i → sourceIs t d l u → exec (.unwrap q true) s =
      .next (match Config.kwpUnwrap kek (byteVals l) with
        | none => u.decideRes q (abortedErr 8)
        | some key => if key.length = keyLen (nbits d.p0 16 4) then keyMade u d q i key else u.decideRes q (abortedErr 1)) := by
  intro s t u q d kek l i h hty hkek hb hfree hs
  have hf : u.freeKey = some i := (State.freeKey_congr (congrArg Strongroom.keys (source_strong hs))).trans hfree
  show execUnwrap q true s = _
  unfold execUnwrap
  cases hx : Config.kwpUnwrap kek (byteVals l) with
  | none =>
    refine service_result h ?_
    rw [if_neg (by simp [hty]), hkek]
    dsimp only
    rw [if_neg (by simp [hb]), if_neg (freeKey_isNone hfree), source_is hs]
    dsimp only
    rw [hx]
    rfl
  | some key =>
    dsimp only
    by_cases hlen : key.length = keyLen (nbits d.p0 16 4)
    · rw [if_pos hlen]
      refine service_newKey h ?_ hf (.inr rfl)
      rw [if_neg (by simp [hty]), hkek]
      dsimp only
      rw [if_neg (by simp [hb]), if_neg (freeKey_isNone hfree), source_is hs]
      dsimp only
      rw [hx]
      exact if_neg (not_not.mpr hlen)
    · rw [if_neg hlen]
      refine service_result h ?_
      rw [if_neg (by simp [hty]), hkek]
      dsimp only
      rw [if_neg (by simp [hb]), if_neg (freeKey_isNone hfree), source_is hs]
      dsimp only
      rw [hx]
      exact if_pos hlen

/-! ### Random bytes, keys destroyed and installed -/

theorem random_performs : ∀ (s t w : State) (ok : Bool) (q : Fin 8) (d : StrongDesc), performs s q 0x0C d t → 1 ≤ d.len → d.len ≤ 65536 → d.buffers 0 d.len = true →
    stored (t.draw d.len).2 d (t.draw d.len).1 ok w → exec (.random q) s = .next (w.decideRes q (okStored ok)) := by
  intro s t w ok q d h h1 h2 hb hw
  show execRandom q s = _
  unfold execRandom
  refine service_result h ?_
  dsimp only
  rw [if_neg (by omega), if_neg (by simp [hb])]
  exact deliver_stored hw _

theorem keyDestroy_destroys : ∀ (s t : State) (q : Fin 8) (d : StrongDesc) (i : Nat) (k : StrongKey), performs s q 0x0D d t → t.keyOf d.key = some (i, k) →
    ∃ v, exec (.keyDestroy q) s = .next v ∧ v.strong.ends.get q = some (okOut 0) ∧ v.keyAt i = { gen := ((t.keyAt i).gen + 1) % 64 } ∧
      (∀ j, j ≠ i → v.keyAt j = t.keyAt j) ∧ v.mkt = t.mkt := by
  intro s t q d i k h hk
  have he : exec (.keyDestroy q) s = .next ((t.emptyKey i).decideRes q (okOut 0)) := by
    show execKeyDestroy q s = _
    unfold execKeyDestroy
    refine service_result h ?_
    rw [hk]
    rfl
  refine ⟨_, he, Tab.get_set_same _ _ _, ?_, fun j hj => ?_, ?_⟩
  · exact t.setKey_keyAt_same i { gen := ((t.keyAt i).gen + 1) % 64 }
  · exact t.setKey_keyAt_ne hj { gen := ((t.keyAt i).gen + 1) % 64 }
  · exact t.setKey_mkt i { gen := ((t.keyAt i).gen + 1) % 64 }

theorem macsecInstall_installs : ∀ (s t : State) (q : Fin 8) (d : StrongDesc) (k : StrongKey) (p c a : Nat), performs s q 0x0E d t → p < 32 → c ≤ 8 → a < 4 →
    d.p0 = p * 2 ^ 24 + c * 2 ^ 16 + a → names t d [1, 2] 5 k →
    (if decide (k.type = 2) = Config.macsec256 p then
      ∃ v, exec (.macsecInstall q) s = .next v ∧ v.strong.ends.get q = some (okOut 0) ∧ (v.msec p).on = true ∧ (v.msec p).keys.get (4 * c + a) = k.bytes ∧
        (∀ j, j ≠ 4 * c + a → (v.msec p).keys.get j = (t.msec p).keys.get j) ∧ (∀ r, r ≠ p → v.msec r = t.msec r) ∧ (c = 0 → (v.msec p).an = a)
     else exec (.macsecInstall q) s = .next (t.decideRes q (abortedErr 4))) := by
  intro s t q d k p c a h hp hc ha hp0 hk
  have e1 : nbits d.p0 24 5 = p := by rw [nbits]; omega
  have e2 : nbits d.p0 16 4 = c := by rw [nbits]; omega
  have e3 : nbits d.p0 0 2 = a := by rw [nbits]; omega
  have hform : ¬ (d.p0 ≠ p * 2 ^ 24 + c * 2 ^ 16 + a ∨ 8 < c) := by omega
  by_cases hm : decide (k.type = 2) = Config.macsec256 p
  · rw [if_pos hm]
    have hm' : ¬ ((k.type == 2) != Config.macsec256 p) = true := by
      rw [← hm, beq_eq_decide, bne_self_eq_false]
      exact Bool.false_ne_true
    by_cases hc0 : c = 0
    · have he : exec (.macsecInstall q) s = .next ((State.setMsec { t with free := t.free + 1 } p { t.msec p with
          on := true, keys := (t.msec p).keys.set (4 * c + a) k.bytes, an := a, pn := Config.freeValue t.free }).decideRes q (okOut 0)) := by
        show execMacsecInstall q s = _
        unfold execMacsecInstall
        refine service_result h ?_
        dsimp only
        rw [e1, e2, e3, if_neg hform, keyFor_names hk]
        dsimp only
        rw [if_neg hm', if_pos hc0]
        rfl
      generalize Config.freeValue t.free = pn at he
      refine ⟨_, he, Tab.get_set_same _ _ _, ?_, ?_, fun j hj => ?_, fun r hr => ?_, fun _ => ?_⟩
      · exact congrArg MacsecPort.on (Tab.get_set_same _ _ _)
      · exact (congrArg (fun m : MacsecPort => m.keys.get (4 * c + a)) (Tab.get_set_same _ _ _)).trans (Tab.get_set_same _ _ _)
      · exact (congrArg (fun m : MacsecPort => m.keys.get j) (Tab.get_set_same _ _ _)).trans (Tab.get_set_ne _ _ _ _ hj)
      · exact Tab.get_set_ne _ _ _ _ hr
      · exact congrArg MacsecPort.an (Tab.get_set_same _ _ _)
    · have he : exec (.macsecInstall q) s = .next ((t.setMsec p { t.msec p with
          on := true, keys := (t.msec p).keys.set (4 * c + a) k.bytes }).decideRes q (okOut 0)) := by
        show execMacsecInstall q s = _
        unfold execMacsecInstall
        refine service_result h ?_
        dsimp only
        rw [e1, e2, e3, if_neg hform, keyFor_names hk]
        dsimp only
        rw [if_neg hm', if_neg hc0]
        rfl
      refine ⟨_, he, Tab.get_set_same _ _ _, ?_, ?_, fun j hj => ?_, fun r hr => ?_, fun h0 => absurd h0 hc0⟩
      · exact congrArg MacsecPort.on (Tab.get_set_same _ _ _)
      · exact (congrArg (fun m : MacsecPort => m.keys.get (4 * c + a)) (Tab.get_set_same _ _ _)).trans (Tab.get_set_same _ _ _)
      · exact (congrArg (fun m : MacsecPort => m.keys.get j) (Tab.get_set_same _ _ _)).trans (Tab.get_set_ne _ _ _ _ hj)
      · exact Tab.get_set_ne _ _ _ _ hr
  · rw [if_neg hm]
    show execMacsecInstall q s = _
    unfold execMacsecInstall
    refine service_result h ?_
    dsimp only
    rw [e1, e2, e3, if_neg hform, keyFor_names hk]
    refine if_pos ?_
    rw [bne_iff_ne]
    intro hx
    exact hm (by rw [← hx, beq_eq_decide])

/-! ### PDCP -/

theorem pdcpKeyLoad_loads : ∀ (s t : State) (q : Fin 8) (d : StrongDesc) (k : StrongKey) (x a : Nat), performs s q 0x0F d t → x < 4096 → a ∈ [1, 2, 3, 5, 6, 7] →
    d.p0 = a * 4096 + x → names t d [1, 6] 6 k → (a ∈ [2, 6] ∨ t.bit R.STRONG_STATUS_APPROVED_ONLY = false) →
    ∃ v, exec (.pdcpKeyLoad q) s = .next v ∧ v.strong.ends.get q = some ⟨0, decide (a ∈ [2, 6]), 0, 0⟩ ∧
      v.strong.pdcp.get x = (if a < 4 then { t.strong.pdcp.get x with cipher := some (a, k.bytes) } else { t.strong.pdcp.get x with integ := some (a, k.bytes) }) ∧
      (∀ y, y ≠ x → v.strong.pdcp.get y = t.strong.pdcp.get y) := by
  intro s t q d k x a h hx ha hp0 hk happ
  have e1 : nbits d.p0 12 4 = a := by rw [nbits]; simp only [List.mem_cons, List.not_mem_nil, or_false] at ha; omega
  have e2 : nbits d.p0 0 12 = x := by rw [nbits]; omega
  have hlt : ¬ (65536 ≤ d.p0 ∨ (!([1, 2, 3, 5, 6, 7].contains a)) = true) := by
    simp only [List.mem_cons, List.not_mem_nil, or_false] at ha
    rcases ha with rfl | rfl | rfl | rfl | rfl | rfl <;> simp <;> omega
  have hun : (!unapproved a) = decide (a ∈ [2, 6]) := by
    simp only [List.mem_cons, List.not_mem_nil, or_false] at ha
    rcases ha with rfl | rfl | rfl | rfl | rfl | rfl <;> rfl
  have hok : ¬ (unapproved a = true ∧ t.bit R.STRONG_STATUS_APPROVED_ONLY = true) := by
    rintro ⟨hu, hb⟩
    rcases happ with hm | hb'
    · rw [hu, decide_eq_true hm] at hun
      exact absurd hun (by decide)
    · rw [hb] at hb'
      exact absurd hb' (by decide)
  have he : exec (.pdcpKeyLoad q) s = .next ((t.setStrong { t.strong with
      pdcp := t.strong.pdcp.set x (if a < 4 then { t.strong.pdcp.get x with cipher := some (a, k.bytes) } else { t.strong.pdcp.get x with integ := some (a, k.bytes) }) }).decideRes q
      ⟨0, decide (a ∈ [2, 6]), 0, 0⟩) := by
    show execPdcpKeyLoad q s = _
    unfold execPdcpKeyLoad
    refine service_result h ?_
    dsimp only
    rw [e1, e2, if_neg hlt, keyFor_names hk]
    dsimp only
    rw [if_neg hok, hun]
  exact ⟨_, he, Tab.get_set_same _ _ _, Tab.get_set_same _ _ _, fun y hy => Tab.get_set_ne _ _ _ _ hy⟩

theorem pdcpKeyLoad_unapproved : ∀ (s t : State) (q : Fin 8) (d : StrongDesc) (k : StrongKey) (x a : Nat), performs s q 0x0F d t → x < 4096 → a ∈ [1, 3, 5, 7] →
    d.p0 = a * 4096 + x → names t d [1, 6] 6 k → t.bit R.STRONG_STATUS_APPROVED_ONLY = true →
    exec (.pdcpKeyLoad q) s = .next (t.decideRes q (abortedErr 9)) := by
  intro s t q d k x a h hx ha hp0 hk happ
  have e1 : nbits d.p0 12 4 = a := by rw [nbits]; simp only [List.mem_cons, List.not_mem_nil, or_false] at ha; omega
  have hlt : ¬ (65536 ≤ d.p0 ∨ (!([1, 2, 3, 5, 6, 7].contains a)) = true) := by
    simp only [List.mem_cons, List.not_mem_nil, or_false] at ha
    rcases ha with rfl | rfl | rfl | rfl <;> simp <;> omega
  have hun : unapproved a = true := by
    simp only [List.mem_cons, List.not_mem_nil, or_false] at ha
    rcases ha with rfl | rfl | rfl | rfl <;> rfl
  show execPdcpKeyLoad q s = _
  unfold execPdcpKeyLoad
  refine service_result h ?_
  dsimp only
  rw [e1, if_neg hlt, keyFor_names hk]
  exact if_pos ⟨hun, happ⟩

theorem pdcp_protects : ∀ (s t u w : State) (ok : Bool) (q : Fin 8) (d : StrongDesc) (l : List (Nat × Bool)) (x bearer dir : Nat) (c : PdcpCtx), performs s q 0x10 d t → x < 4096 →
    bearer < 32 → dir < 2 → d.p0 = bearer * 2 ^ 20 + dir * 2 ^ 17 + x → d.aux ≤ d.len → d.buffers d.len (d.len + 4) = true → c = t.strong.pdcp.get x →
    (c.cipher = none ∨ ∃ k, c.cipher = some (2, k)) → (c.integ = none ∨ ∃ k, c.integ = some (6, k)) → sourceIs t d l u →
    stored u d ((byteVals l).take d.aux ++ c.crypt (d.param 1) bearer (decide (dir = 1))
      ((byteVals l).drop d.aux ++ c.mac (d.param 1) bearer (decide (dir = 1)) (byteVals l))) ok w →
    exec (.pdcp q) s = .next (w.decideRes q (okStored ok)) := by
  intro s t u w ok q d l x bearer dir c h hx hbear hdir hp0 hlen hb hctx hc hi hs hw
  have e0 : nbit d.p0 16 = false := by rw [nbit]; exact decide_eq_false (by omega)
  have e1 : nbit d.p0 17 = decide (dir = 1) := by rw [nbit]; exact decide_eq_decide.mpr (by omega)
  have e2 : nbits d.p0 20 5 = bearer := by rw [nbits]; omega
  have e3 : nbits d.p0 0 12 = x := by rw [nbits]; omega
  have e4 : nbits d.p0 12 4 = 0 := by rw [nbits]; omega
  have e5 : nbits d.p0 18 2 = 0 := by rw [nbits]; omega
  have e6 : nbits d.p0 25 7 = 0 := by rw [nbits]; omega
  subst hctx
  show execPdcp q s = _
  unfold execPdcp
  refine service_result h ?_
  dsimp only
  rw [e0, e1, e2, e3, e4, e5, e6]
  generalize hA : (!(_ || _)) = A
  have happ : A = true := by rcases hc with hc | ⟨k, hc⟩ <;> rcases hi with hi | ⟨j, hi⟩ <;> rw [← hA, hc, hi] <;> rfl
  rw [happ, if_neg (by simp only [Bool.false_eq_true, if_false]; omega), if_neg (c := false = true) Bool.false_ne_true,
    if_neg (by simp [hb]), if_neg (by simp), source_is hs]
  exact deliver_stored hw _

theorem pdcp_unprotects : ∀ (s t u w : State) (ok : Bool) (q : Fin 8) (d : StrongDesc) (l : List (Nat × Bool)) (x bearer dir n : Nat) (c : PdcpCtx) (y : List Nat) (good : Bool), performs s q 0x10 d t →
    x < 4096 → bearer < 32 → dir < 2 → d.p0 = bearer * 2 ^ 20 + dir * 2 ^ 17 + 2 ^ 16 + x → d.len = d.aux + n + 4 → d.buffers d.len (d.aux + n) = true →
    c = t.strong.pdcp.get x → (c.cipher = none ∨ ∃ k, c.cipher = some (2, k)) → (c.integ = none ∨ ∃ k, c.integ = some (6, k)) → sourceIs t d l u →
    y = c.crypt (d.param 1) bearer (decide (dir = 1)) ((byteVals l).drop d.aux) →
    good = decide (y.drop n = c.mac (d.param 1) bearer (decide (dir = 1)) ((byteVals l).take d.aux ++ y.take n)) →
    stored u d (if good then (byteVals l).take d.aux ++ y.take n else List.replicate (d.aux + n) 0) ok w →
    exec (.pdcp q) s = .next (w.decideRes q (if good || !ok then okStored ok else abortedErr 8)) := by
  intro s t u w ok q d l x bearer dir n c y good h hx hbear hdir hp0 hlen hb hctx hc hi hs hy hgood hw
  have e0 : nbit d.p0 16 = true := by rw [nbit]; exact decide_eq_true (by omega)
  have e1 : nbit d.p0 17 = decide (dir = 1) := by rw [nbit]; exact decide_eq_decide.mpr (by omega)
  have e2 : nbits d.p0 20 5 = bearer := by rw [nbits]; omega
  have e3 : nbits d.p0 0 12 = x := by rw [nbits]; omega
  have e4 : nbits d.p0 12 4 = 0 := by rw [nbits]; omega
  have e5 : nbits d.p0 18 2 = 0 := by rw [nbits]; omega
  have e6 : nbits d.p0 25 7 = 0 := by rw [nbits]; omega
  have hl1 : d.len - 4 = d.aux + n := by omega
  have hl2 : d.len - d.aux - 4 = n := by omega
  subst hctx
  show execPdcp q s = _
  unfold execPdcp
  refine service_result h ?_
  dsimp only
  rw [e0, e1, e2, e3, e4, e5, e6]
  generalize hA : (!(_ || _)) = A
  have happ : A = true := by rcases hc with hc | ⟨k, hc⟩ <;> rcases hi with hi | ⟨j, hi⟩ <;> rw [← hA, hc, hi] <;> rfl
  rw [happ, if_neg (by simp only [if_true]; omega), if_pos rfl, hl1, hl2, if_neg (by simp [hb]), if_neg (by simp), source_is hs]
  dsimp only
  rw [if_neg (by decide), ← hy]
  by_cases hg : y.drop n = (t.strong.pdcp.get x).mac (d.param 1) bearer (decide (dir = 1)) ((byteVals l).take d.aux ++ y.take n)
  · rw [decide_eq_true hg] at hgood
    subst hgood
    rw [if_pos hg]
    exact deliver_stored hw _
  · rw [decide_eq_false hg] at hgood
    subst hgood
    rw [if_neg hg]
    refine (deliver_stored hw _).trans (congrArg (·, w) ?_)
    cases ok <;> rfl

theorem verifyImage_performs : ∀ (s t u : State) (q : Fin 8) (d : StrongDesc) (l : List (Nat × Bool)), performs s q 0x11 d t → d.buffers d.len 0 = true → sourceIs t d l u →
    exec (.verifyImage q) s = .next (u.decideRes q (okOut (if u.imageFault (nbits d.p0 0 8) (byteVals l) = none then 1 else 0))) := by
  intro s t u q d l h hb hs
  show execVerifyImage q s = _
  unfold execVerifyImage
  refine service_result h ?_
  rw [if_neg (by simp [hb]), source_is hs]
  exact congrArg (fun n => (okOut n, u)) (if_congr Option.isNone_iff_eq_none rfl rfl)

/-- Settles O51: each clause is a lemma above about one service. -/
theorem strongServicesPerformed : Obligations.StrongServicesPerformed :=
  ⟨digest_performs, hmac_performs, gcmEnc_performs, gcmDec_performs, ecdsaSign_performs, ecdsaVerify_performs, ecdh_performs, keygen_symmetric,
    keygen_performs, keygen_inconsistent, kdf_performs, wrap_performs, unwrap_performs, random_performs, keyDestroy_destroys, macsecInstall_installs,
    pdcpKeyLoad_loads, pdcpKeyLoad_unapproved, pdcp_protects, pdcp_unprotects, verifyImage_performs⟩

end Sys2Proof.Claims

/-! ## O52: queues and results, the crypto officer, challenges, zeroization and self-tests -/

namespace Sys2Proof.Machine

set_option Elab.async false

open Sys2Proof.Claims

section
variable (s : State)

theorem State.strongTo_mkt (n : Nat) : (s.strongTo n).mkt = s.mkt := by rw [State.strongTo, State.showApproved, State.wrB_mkt, State.wr_mkt]

theorem State.zeroize_st : s.zeroize.strongSt = 2 := State.strongTo_st _ 2

theorem State.zeroize_rd_ne {f : Fld} (h : ∀ x ∈ [R.STRONG_STATUS_STATE, R.STRONG_STATUS_APPROVED], f.key ≠ x.key) : s.zeroize.rd f = s.wipe.rd f :=
  (State.strongTo_rd_ne _ 2 h).trans (State.setStrong_rd _ _ _)

theorem State.zeroize_dead (j : Nat) : (s.zeroize.keyAt j).live = false := by
  rw [State.keyAt_congr (s := s.wipe) (by rw [State.zeroize_strong])]
  exact s.wipe_dead j

theorem State.zeroize_msec (p : Nat) : s.zeroize.msec p = s.wipe.msec p := congrArg (fun m : Market => m.sec.get p) (State.strongTo_mkt _ 2)

/-- Registers that zeroization does not write. -/
theorem State.zeroize_rd {f : Fld} (hs : ∀ x ∈ [R.STRONG_STATUS_STATE, R.STRONG_STATUS_APPROVED], f.key ≠ x.key) (hw : ¬ wipeRegs f.key) :
    s.zeroize.rd f = s.rd f := (s.zeroize_rd_ne hs).trans (s.wipe_writes f hw)

theorem State.reject_strong : s.reject.strong = { s.strong with challenge := none, rejected := s.strong.rejected + 1 } := by
  rw [State.reject, State.wrB_strong, State.setStrong_strong, State.clearChallenge_strong]

theorem State.reject_rd {f : Fld} (hne : f.key ≠ R.STRONG_DBG_STATUS_LOCKOUT.key) (hw : ¬ wipeRegs f.key) : s.reject.rd f = s.rd f :=
  (State.wr_rd_ne _ _ _ _ hne).trans ((State.setStrong_rd _ _ _).trans (s.clearChallenge_writes f hw))

end

theorem not_wipeRegs {f : Fld} (h : f.key < 0x42000024 * 64 ∨ (0x42000044 * 64 ≤ f.key ∧ f.key < 0x42000100 * 64) ) (hk : f.key ≠ R.STRONG_STATUS_KEYS.key) :
    ¬ wipeRegs f.key := by
  rintro (h1 | h1 | ⟨q, -, h1⟩)
  · exact hk h1
  · simp only [addrIn] at h1
    omega
  · simp only [Fld.key, R.STRONG_Q_CFG_ROLE] at h h1
    omega

/-- A queue's ROLE is not the challenge's, nor KEYS. -/
theorem State.clearChallenge_role (s : State) (q : Nat) : s.clearChallenge.rd (R.STRONG_Q_CFG_ROLE q) = s.rd (R.STRONG_Q_CFG_ROLE q) := by
  have hw : WritesIn (addrIn 0x42000024 0x42000044) s s.clearChallenge := by
    refine WritesIn.foldl _ (fun _ i hi h => h.wr ?_ 0) ((WritesIn.refl _ s).of_regs (State.setStrong_regs _ _))
    have := List.mem_range.mp hi
    simp only [addrIn, Fld.key, R.STRONG_CHALLENGE]
    omega
  refine hw _ ?_
  simp only [addrIn, Fld.key, R.STRONG_Q_CFG_ROLE]
  omega

theorem le32_lt (n : Nat) (l : List Nat) (h : ∀ b ∈ l, b < 256) : ∀ x ∈ le32 n l, x < 2 ^ 32 := by
  induction n generalizing l with
  | zero => exact fun x hx => absurd hx List.not_mem_nil
  | succ n ih =>
    intro x hx
    have hb (i : Nat) : l.getD i 0 < 256 := by
      rw [List.getD_eq_getElem?_getD]
      cases hi : l[i]? with
      | none => exact Nat.zero_lt_succ _
      | some b => exact h b (List.mem_of_getElem? hi)
    have h0 := hb 0
    have h1 := hb 1
    have h2 := hb 2
    have h3 := hb 3
    rcases List.mem_cons.mp hx with rfl | hx
    · omega
    · exact ih _ (fun b hb => h b (List.mem_of_mem_drop hb)) x hx

theorem le32_getD_lt (n : Nat) {l : List Nat} (h : ∀ b ∈ l, b < 256) (i : Nat) : (le32 n l).getD i 0 < 2 ^ 32 := by
  rw [List.getD_eq_getElem?_getD]
  cases hi : (le32 n l)[i]? with
  | none => exact Nat.two_pow_pos 32
  | some x => exact le32_lt n l h x (List.mem_of_getElem? hi)

end Sys2Proof.Machine

namespace Sys2Proof.Claims

set_option Elab.async false

open Sys2Proof.Machine

/-! ### Queues and their results -/

theorem qProdWrite_writes : ∀ (s : State) (mid : Mid) (q : Fin 8) (v : Word), s.bit (R.STRONG_Q_CFG_BOUND q) = true → s.rd (R.STRONG_Q_CFG_MID q) = mid.toNat →
    ∃ t, exec (.strongQProdWrite mid q v) s = .next t ∧ t.ans = acked ∧ t.rd (R.STRONG_Q_PROD_PROD q) = bitsOf v 0 16 ∧
      sameRegs s t [R.STRONG_Q_PROD_PROD q] := by
  intro s mid q v hb hm
  have he : exec (.strongQProdWrite mid q v) s = .next (s.wr (R.STRONG_Q_PROD_PROD q) v.toNat).ack := if_pos ⟨hb, hm⟩
  refine ⟨_, he, rfl, ?_, ((sameRegs.refl s _).wr (List.mem_singleton_self _) _).ack⟩
  rw [State.ack_rd, State.wr_rd_same, bitsOf, Nat.pow_zero, Nat.div_one]
  rfl

theorem qProdWrite_refused : ∀ (s : State) (mid : Mid) (q : Fin 8) (v : Word), (s.bit (R.STRONG_Q_CFG_BOUND q) = false ∨ s.rd (R.STRONG_Q_CFG_MID q) ≠ mid.toNat) →
    exec (.strongQProdWrite mid q v) s = .next { s with ans := abortedBy 7 } := by
  intro s mid q v h
  refine if_neg fun ⟨hb, hm⟩ => ?_
  rcases h with h | h
  · rw [h] at hb
    exact Bool.false_ne_true hb
  · exact h hm

theorem descriptorEnd_decided : ∀ (s w : State) (ok : Bool) (q : Fin 8) (r : StrongResult), s.strong.ends.get q = some r →
    s.dmaWrite strongMid (s.strongBase q + 60) (clean (bytesOf32 (2 ^ 31 + r.status * 2 ^ 28 + (if r.approved then 2 ^ 27 else 0) + r.error * 2 ^ 21 + r.out)))
      = (ok, w) → ∃ t, exec (.strongDescriptorEnd q) s = .next t ∧ t.strong.ends.get q = none ∧ t.ms = w.ms ∧
      t.rd (R.STRONG_Q_CONS_CONS q) = (w.rd (R.STRONG_Q_CONS_CONS q) + 1) % 2 ^ 16 ∧
      (if w.bit (R.STRONG_Q_CFG_DEST q) = true then 449 + q.val ∈ t.hostIrq else ⟨.strongroom, q.val⟩ ∈ t.hallIrq) := by
  intro s w ok q r hr hw
  let u := (w.setStrong { w.strong with ends := w.strong.ends.set q none }).inc (R.STRONG_Q_CONS_CONS q)
  have he : exec (.strongDescriptorEnd q) s = .next (if u.bit (R.STRONG_Q_CFG_DEST q) then u.irqHost (449 + q.val) else u.irq .strongroom q.val) := by
    show execStrongDescriptorEnd q s = _
    rw [execStrongDescriptorEnd, hr]
    dsimp only
    rw [State.finishDesc]
    dsimp only
    rw [hw]
  have hdest : u.bit (R.STRONG_Q_CFG_DEST q) = w.bit (R.STRONG_Q_CFG_DEST q) := State.wr_bit_ne _ _ _ _ (by simp only [Fld.key, R.STRONG_Q_CFG_DEST, R.STRONG_Q_CONS_CONS, ne_eq]; omega)
  have hends : u.strong.ends.get q = none := by
    rw [State.inc_strong]
    exact Tab.get_set_same _ _ _
  have hms : u.ms = w.ms := State.inc_ms _ _
  have hcons : u.rd (R.STRONG_Q_CONS_CONS q) = (w.rd (R.STRONG_Q_CONS_CONS q) + 1) % 2 ^ 16 := State.inc_rd_same _ _
  rw [hdest] at he
  generalize u = u at he hends hms hcons
  by_cases hb : w.bit (R.STRONG_Q_CFG_DEST q) = true
  · rw [if_pos hb] at he
    simp only [if_pos hb]
    exact ⟨_, he, hends, hms, hcons, mem_irqHost _ _⟩
  · rw [if_neg hb] at he
    simp only [if_neg hb]
    exact ⟨_, he, hends, hms, hcons, State.mem_irqIf u .strongroom _⟩

/-- The end of a descriptor that no service performs. -/
theorem descriptorEnd_bad {s : State} {q : Fin 8} {r : StrongResult} (hdue : s.strongDue q = true) (hbad : s.strongBad q = some r) :
    exec (.strongDescriptorEnd q) s = .next ((s.strongFetch q).2.finishDesc q r) := by
  have hnone : s.strong.ends.get q = none := by
    simp only [State.strongDue, Bool.and_eq_true, Option.isNone_iff_eq_none] at hdue
    exact hdue.1.2
  show execStrongDescriptorEnd q s = _
  rw [execStrongDescriptorEnd, hnone]
  dsimp only
  rw [if_neg (by simp [hdue]), hbad]

theorem descriptorEnd_state : ∀ (s : State) (q : Fin 8), s.strongDue q = true → (s.strongSt = 2 ∨ s.strongSt = 3) →
    exec (.strongDescriptorEnd q) s = .next ((s.strongFetch q).2.finishDesc q (abortedErr (if s.strongSt = 2 then 11 else 10))) := by
  intro s q hdue hst
  refine descriptorEnd_bad hdue ?_
  rw [State.strongBad]
  rcases hst with h | h
  · rw [if_pos h, if_pos h]
    rfl
  · rw [if_neg (by omega), if_pos h, if_neg (by omega)]
    rfl

theorem descriptorEnd_poisoned : ∀ (s t : State) (q : Fin 8), s.strongDue q = true → s.strongSt = 1 → s.strongFetch q = (.error 6, t) →
    exec (.strongDescriptorEnd q) s = .next (t.finishDesc q (abortedErr 6)) := by
  intro s t q hdue hst hf
  have h : exec (.strongDescriptorEnd q) s = .next ((s.strongFetch q).2.finishDesc q (errRes 6)) := by
    refine descriptorEnd_bad hdue ?_
    rw [State.strongBad, if_neg (by omega), if_neg (by omega), hf]
  rw [hf] at h
  exact h

/-- A fetched descriptor knows its queue. -/
theorem strongFetch_q {s t : State} {q : Nat} {d : StrongDesc} (h : s.strongFetch q = (.ok d, t)) : d.q = q := by
  rw [State.strongFetch] at h
  split at h
  · exact absurd (congrArg Prod.fst h) (by simp)
  · split at h
    · exact absurd (congrArg Prod.fst h) (by simp)
    · have hd := Except.ok.inj (congrArg Prod.fst h)
      rw [← hd]

theorem descriptorEnd_role : ∀ (s t : State) (q : Fin 8) (d : StrongDesc), s.strongDue q = true → s.strongSt = 1 → s.strongFetch q = (.ok d, t) → d.op ∈ serviceOps →
    d.formed = true → (keyless d.op = true → d.key = 0) → roleOk d.op (s.rd (R.STRONG_Q_CFG_ROLE q)) = false →
    exec (.strongDescriptorEnd q) s = .next (t.finishDesc q (abortedErr 2)) := by
  intro s t q d hdue hst hf hop hform hkey hrole
  have hc : s.strongCheck d = some 2 := by
    have h1 : ¬ ((!serviceOps.contains d.op) = true ∨ (!d.formed) = true ∨ keyless d.op = true ∧ d.key ≠ 0) := by
      rintro (h | h | ⟨h, h'⟩)
      · simp [hop] at h
      · simp [hform] at h
      · exact h' (hkey h)
    rw [State.strongCheck, if_neg h1, strongFetch_q hf, if_pos (by simp [hrole])]
  have h : exec (.strongDescriptorEnd q) s = .next ((s.strongFetch q).2.finishDesc q (errRes 2)) := by
    refine descriptorEnd_bad hdue ?_
    rw [State.strongBad, if_neg (by omega), if_neg (by omega), hf]
    dsimp only
    rw [hc]
    rfl
  rw [hf] at h
  exact h

/-! ### The crypto officer -/

section
variable (s : State) (q : Nat) (r : StrongResult)

theorem decideRes_challenge : (s.decideRes q r).strong.challenge = s.strong.challenge := rfl

theorem decideRes_rejected : (s.decideRes q r).strong.rejected = s.strong.rejected := rfl

end

/-- AUTH_CO of a response of the right form, with the queue that it names. -/
theorem authCo_result {s t u w : State} {q : Fin 8} {d : StrongDesc} {l : List (Nat × Bool)} {m : Nat} {r : StrongResult} (h : performs s q 0x20 d t)
    (hlen : d.len = 196) (hb : d.buffers d.len 0 = true) (hs : sourceIs t d l u) (hm : (le32 1 (byteVals l)).headD 0 = m)
    (hr : (if m = q.val ∧ u.responseOk 0x434F4131 Config.otpCoHash m (((byteVals l).drop 4).take 96) ((byteVals l).drop 100) then
      (okRes 0, u.clearChallenge.wr (R.STRONG_Q_CFG_ROLE q) 2) else (errRes 8, u.reject)) = (r, w)) :
    exec (.authCo q) s = .next (w.decideRes q r) := by
  have hq : d.q = q := strongFetch_q h.2.2.1
  show execAuthCo q s = _
  unfold execAuthCo
  refine service_result h ?_
  rw [if_neg (not_not.mpr hlen), if_neg (by simp [hb]), source_is hs]
  dsimp only
  rw [hq, hm]
  exact hr

theorem authCo_answers : ∀ (s t u : State) (q : Fin 8) (d : StrongDesc) (l : List (Nat × Bool)), performs s q 0x20 d t → d.len = 196 → d.buffers d.len 0 = true → sourceIs t d l u →
    (if (le32 1 (byteVals l)).headD 0 = q.val ∧
        u.responseOk 0x434F4131 Config.otpCoHash q ((byteVals l).drop 4 |>.take 96) ((byteVals l).drop 100) = true then
      ∃ v, exec (.authCo q) s = .next v ∧ v.strong.ends.get q = some (okOut 0) ∧ v.rd (R.STRONG_Q_CFG_ROLE q) = 2 ∧ v.strong.challenge = none ∧
        v.strong.rejected = u.strong.rejected
     else ∃ v, exec (.authCo q) s = .next v ∧ v.strong.ends.get q = some (abortedErr 8) ∧ v.rd (R.STRONG_Q_CFG_ROLE q) = u.rd (R.STRONG_Q_CFG_ROLE q) ∧
        v.strong.challenge = none ∧ v.strong.rejected = u.strong.rejected + 1 ∧
        v.rd R.STRONG_DBG_STATUS_LOCKOUT = (if 3 ≤ u.strong.rejected + 1 then 1 else 0)) := by
  intro s t u q d l h hlen hb hs
  generalize hm : (le32 1 (byteVals l)).headD 0 = m
  by_cases hc : m = q.val ∧ u.responseOk 0x434F4131 Config.otpCoHash q (((byteVals l).drop 4).take 96) ((byteVals l).drop 100) = true
  · rw [if_pos hc]
    have he := authCo_result h hlen hb hs hm (if_pos ⟨hc.1, hc.1 ▸ hc.2⟩)
    refine ⟨_, he, decideRes_end _ _ _, ?_, ?_, ?_⟩
    · rw [decideRes_rd, State.wr_rd_same]
      rfl
    · rw [decideRes_challenge, State.wr_strong, State.clearChallenge_strong]
    · rw [decideRes_rejected, State.wr_strong, State.clearChallenge_strong]
  · rw [if_neg hc]
    have he := authCo_result h hlen hb hs hm (if_neg (fun ⟨h1, h2⟩ => hc ⟨h1, h1 ▸ h2⟩))
    refine ⟨_, he, decideRes_end _ _ _, ?_, ?_, ?_, ?_⟩
    · rw [decideRes_rd, State.reject, State.wrB_rd_ne _ _ _ _ (by simp only [Fld.key, R.STRONG_Q_CFG_ROLE, R.STRONG_DBG_STATUS_LOCKOUT, ne_eq]; omega), State.setStrong_rd, State.clearChallenge_role]
    · rw [decideRes_challenge, State.reject_strong]
    · rw [decideRes_rejected, State.reject_strong]
    · rw [decideRes_rd, State.reject, State.wrB_rd_same]
      by_cases h3 : 3 ≤ u.strong.rejected + 1 <;> simp [h3, R.STRONG_DBG_STATUS_LOCKOUT]

/-- The registers of a queue as BIND_QUEUE sets them. -/
def boundQueue (t : State) (k role dest mid size base : Nat) : State :=
  (((((((t.wr (R.STRONG_Q_CFG_BOUND k) 1).wr (R.STRONG_Q_CFG_ROLE k) role).wr (R.STRONG_Q_CFG_DEST k) dest).wr (R.STRONG_Q_CFG_MID k) mid).wr
    (R.STRONG_Q_CFG_SIZE_LOG2 k) size).wr (R.STRONG_Q_BASE_ADDR k) base).wr (R.STRONG_Q_PROD_PROD k) 0).wr (R.STRONG_Q_CONS_CONS k) 0

section
variable (t : State) (k : Nat) {role dest mid size base : Nat}

/-- What the queue's registers read then. -/
theorem boundQueue_rd (hrole : role < 4) (hdest : dest < 2) (hmid : mid < 256) (hsize : size < 16) (hbase : base < 2 ^ 20) :
    (boundQueue t k role dest mid size base).rd (R.STRONG_Q_CFG_BOUND k) = 1 ∧
    (boundQueue t k role dest mid size base).rd (R.STRONG_Q_CFG_ROLE k) = role ∧ (boundQueue t k role dest mid size base).rd (R.STRONG_Q_CFG_DEST k) = dest ∧
    (boundQueue t k role dest mid size base).rd (R.STRONG_Q_CFG_MID k) = mid ∧
    (boundQueue t k role dest mid size base).rd (R.STRONG_Q_CFG_SIZE_LOG2 k) = size ∧
    (boundQueue t k role dest mid size base).rd (R.STRONG_Q_BASE_ADDR k) = base ∧
    (boundQueue t k role dest mid size base).rd (R.STRONG_Q_PROD_PROD k) = 0 ∧ (boundQueue t k role dest mid size base).rd (R.STRONG_Q_CONS_CONS k) = 0 := by
  refine ⟨?_, ?_, ?_, ?_, ?_, ?_, ?_, ?_⟩ <;>
    simp (disch := (simp only [Fld.key, R.STRONG_Q_CFG_BOUND, R.STRONG_Q_CFG_ROLE, R.STRONG_Q_CFG_DEST, R.STRONG_Q_CFG_MID, R.STRONG_Q_CFG_SIZE_LOG2,
      R.STRONG_Q_BASE_ADDR, R.STRONG_Q_PROD_PROD, R.STRONG_Q_CONS_CONS]; omega)) only [boundQueue, State.wr_rd_ne, State.wr_rd_same]
  · rfl
  · exact Nat.mod_eq_of_lt hrole
  · exact Nat.mod_eq_of_lt hdest
  · exact Nat.mod_eq_of_lt hmid
  · exact Nat.mod_eq_of_lt hsize
  · exact Nat.mod_eq_of_lt hbase
  · rfl
  · rfl

end

theorem bindQueue_binds : ∀ (s t : State) (q : Fin 8) (d : StrongDesc) (k mid dest role size base : Nat), performs s q 0x21 d t → k < 8 → mid < 256 → dest < 2 → role < 2 →
    4 ≤ size → size ≤ 12 → d.p0 = k * 2 ^ 24 + mid * 2 ^ 16 + dest * 2 ^ 15 + role * 2 ^ 14 + size → base = d.param 2 * 2 ^ 32 + d.param 1 →
    base % 64 = 0 → base + 64 * 2 ^ size ≤ granaryEnd → k ≠ q.val → ∃ v, exec (.bindQueue q) s = .next v ∧ v.strong.ends.get q = some (okOut 0) ∧
      v.bit (R.STRONG_Q_CFG_BOUND k) = true ∧ v.rd (R.STRONG_Q_CFG_ROLE k) = 1 - role ∧ v.rd (R.STRONG_Q_CFG_DEST k) = dest ∧
      v.rd (R.STRONG_Q_CFG_MID k) = mid ∧ v.rd (R.STRONG_Q_CFG_SIZE_LOG2 k) = size ∧ v.rd (R.STRONG_Q_BASE_ADDR k) = base / 64 ∧
      v.rd (R.STRONG_Q_PROD_PROD k) = 0 ∧ v.rd (R.STRONG_Q_CONS_CONS k) = 0 := by
  intro s t q d k mid dest role size base h hk hmid hdest hrole hlo hhi hp0 hbase hal hend hne
  have e1 : nbits d.p0 24 3 = k := by rw [nbits]; omega
  have e2 : nbits d.p0 0 4 = size := by rw [nbits]; omega
  have e3 : nbits d.p0 27 5 = 0 := by rw [nbits]; omega
  have e4 : nbits d.p0 4 10 = 0 := by rw [nbits]; omega
  have e5 : (if nbit d.p0 14 = true then 0 else 1) = 1 - role := by
    have hb : nbit d.p0 14 = decide (role = 1) := by rw [nbit]; exact decide_eq_decide.mpr (by omega)
    rw [hb]
    obtain rfl | rfl : role = 0 ∨ role = 1 := by omega
    · rfl
    · rfl
  have e6 : nbits d.p0 15 1 = dest := by rw [nbits]; omega
  have e7 : nbits d.p0 16 8 = mid := by rw [nbits]; omega
  have hq : d.q = q := strongFetch_q h.2.2.1
  have he : exec (.bindQueue q) s = .next (((boundQueue t k (1 - role) dest mid size (base / 64)).setStrong
      { (boundQueue t k (1 - role) dest mid size (base / 64)).strong with
        ends := (boundQueue t k (1 - role) dest mid size (base / 64)).strong.ends.set k none }).decideRes q (okOut 0)) := by
    show execBindQueue q s = _
    unfold execBindQueue
    refine service_result h ?_
    dsimp only
    rw [e1, e2, e3, e4, e5, e6, e7, ← hbase, hq, if_neg (by omega), if_neg (by omega), if_neg hne]
    rfl
  have h2 : 64 * 2 ^ size > 0 := Nat.mul_pos (by decide) (Nat.two_pow_pos size)
  have hb : base / 64 < 2 ^ 20 := by
    simp only [granaryEnd] at hend
    omega
  obtain ⟨r1, r2, r3, r4, r5, r6, r7, r8⟩ := boundQueue_rd t k (show 1 - role < 4 by omega) hdest hmid (show size < 16 by omega) hb
  generalize boundQueue t k (1 - role) dest mid size (base / 64) = u at he r1 r2 r3 r4 r5 r6 r7 r8
  refine ⟨_, he, decideRes_end _ _ _, ?_, r2, r3, r4, r5, r6, r7, r8⟩
  rw [State.bit_eq, decideRes_rd, State.setStrong_rd, r1]
  rfl

theorem bindQueue_self : ∀ (s t : State) (q : Fin 8) (d : StrongDesc) (size base : Nat), performs s q 0x21 d t → nbits d.p0 24 3 = q.val → nbits d.p0 27 5 = 0 →
    nbits d.p0 4 10 = 0 → nbits d.p0 0 4 = size → 4 ≤ size → size ≤ 12 → base = d.param 2 * 2 ^ 32 + d.param 1 → base % 64 = 0 →
    base + 64 * 2 ^ size ≤ granaryEnd → exec (.bindQueue q) s = .next (t.decideRes q (abortedErr 13)) := by
  intro s t q d size base h e1 e3 e4 e2 hlo hhi hbase hal hend
  have hq : d.q = q := strongFetch_q h.2.2.1
  show execBindQueue q s = _
  unfold execBindQueue
  refine service_result h ?_
  dsimp only
  rw [e1, e2, e3, e4, ← hbase, hq, if_neg (by omega), if_neg (by omega), if_pos rfl]
  rfl

theorem setMode_sets : ∀ (s t : State) (q : Fin 8) (d : StrongDesc), performs s q 0x22 d t → ∃ v, exec (.setMode q) s = .next v ∧ v.strong.ends.get q = some (okOut 0) ∧
    v.rd R.STRONG_STATUS_APPROVED_ONLY = 1 ∧ (t.strongSt = 1 → t.rd R.STRONG_DBG_STATUS_PERM = 0 → v.rd R.STRONG_STATUS_APPROVED = 1) := by
  intro s t q d h
  let u := t.wr R.STRONG_STATUS_APPROVED_ONLY 1
  have he : exec (.setMode q) s = .next (u.showApproved.decideRes q (okOut 0)) := service_result h rfl
  have hst : u.strongSt = t.strongSt := State.wr_rd_ne _ _ _ _ (by decide)
  have honly : u.rd R.STRONG_STATUS_APPROVED_ONLY = 1 := State.wr_rd_same _ _ _
  have hperm : u.rd R.STRONG_DBG_STATUS_PERM = t.rd R.STRONG_DBG_STATUS_PERM := State.wr_rd_ne _ _ _ _ (by decide)
  generalize u = u at he hst honly hperm
  refine ⟨_, he, decideRes_end _ _ _, ?_, fun h1 h0 => ?_⟩
  · rw [decideRes_rd, State.showApproved_rd_ne _ (by decide), honly]
  · rw [decideRes_rd, State.showApproved, State.wrB_rd_same, hst, h1, State.bit_eq, honly, hperm, h0]
    rfl

/-! ### Zeroization -/

/-- The state that ZEROIZE overwrites: with PERMANENT the device's own key has gone (R552). -/
def dukState (t : State) (permanent : Bool) : State :=
  if permanent then (t.setStrong { t.strong with dukGone := true }).wr R.STRONG_OTP_STATE_DUK_DESTROYED 1 else t

section
variable (t : State) (p : Bool)

theorem dukState_keyAt (j : Nat) : (dukState t p).keyAt j = t.keyAt j := by
  unfold dukState
  split
  · exact State.keyAt_congr (congrArg Strongroom.keys (State.wr_strong _ _ _)) j
  · rfl

theorem dukState_gone : (dukState t true).strong.dukGone = true ∧ (dukState t true).rd R.STRONG_OTP_STATE_DUK_DESTROYED = 1 :=
  ⟨congrArg Strongroom.dukGone (State.wr_strong _ _ _), State.wr_rd_same _ _ _⟩

end

theorem zeroize_zeroizes : ∀ (s t : State) (q : Fin 8) (d : StrongDesc), performs s q 0x23 d t → d.p0 ≤ 1 → ∃ v, exec (.zeroize q) s = .next v ∧
    v.strong.ends.get q = some (okOut 0) ∧ v.strongSt = 2 ∧ v.strong.zeroing = true ∧ (∀ j, (v.keyAt j).live = false) ∧
    ((∃ j, (t.keyAt j).live = true) → v.rd R.STRONG_STATUS_KEYS = 0) ∧
    v.strong.pdcp = ⟨[]⟩ ∧ v.strong.challenge = none ∧ (∀ r < 8, v.rd (R.STRONG_Q_CFG_ROLE r) = 0) ∧ (∀ p j, (v.msec p).keys.get j = []) ∧
    (d.p0 = 1 → v.strong.dukGone = true ∧ v.rd R.STRONG_OTP_STATE_DUK_DESTROYED = 1) ∧ (d.p0 = 0 → v.strong.dukGone = t.strong.dukGone) := by
  intro s t q d h hp
  have he : exec (.zeroize q) s = .next ((dukState t (decide (d.p0 = 1))).zeroize.decideRes q (okOut 0)) := by
    show execZeroize q s = _
    unfold execZeroize
    refine service_result h ?_
    dsimp only
    rw [if_neg (by omega), dukState]
    simp only [decide_eq_true_eq]
    rfl
  have hkey := dukState_keyAt t (decide (d.p0 = 1))
  have hgone : d.p0 = 1 → (dukState t (decide (d.p0 = 1))).strong.dukGone = true ∧
      (dukState t (decide (d.p0 = 1))).rd R.STRONG_OTP_STATE_DUK_DESTROYED = 1 := fun h1 => by
    rw [decide_eq_true h1]
    exact dukState_gone t
  have hkept : d.p0 = 0 → (dukState t (decide (d.p0 = 1))).strong.dukGone = t.strong.dukGone := fun h0 => by
    rw [decide_eq_false (by omega)]
    rfl
  generalize dukState t (decide (d.p0 = 1)) = u at he hkey hgone hkept
  have hst := u.zeroize_st
  have hstr := u.zeroize_strong.trans (by rw [State.wipe_strong])
  have hdead := u.zeroize_dead
  have hkeys : (∃ j, (t.keyAt j).live = true) → u.zeroize.rd R.STRONG_STATUS_KEYS = 0 := fun ⟨j, hj⟩ =>
    (u.zeroize_rd_ne (by decide)).trans (u.wipe_keys j (by rw [hkey, hj]))
  have hrole : ∀ r < 8, u.zeroize.rd (R.STRONG_Q_CFG_ROLE r) = 0 := fun r hr =>
    (u.zeroize_rd_ne (by simp only [List.mem_cons, List.not_mem_nil, or_false, forall_eq_or_imp, forall_eq, Fld.key, R.STRONG_Q_CFG_ROLE, R.STRONG_STATUS_STATE, R.STRONG_STATUS_APPROVED, ne_eq]; omega)).trans (u.wipe_role hr)
  have hmsec : ∀ p j, (u.zeroize.msec p).keys.get j = [] := fun p j => by
    rw [State.zeroize_msec]
    exact u.wipe_msec p j
  have hduk : u.zeroize.rd R.STRONG_OTP_STATE_DUK_DESTROYED = u.rd R.STRONG_OTP_STATE_DUK_DESTROYED :=
    u.zeroize_rd (by decide) (not_wipeRegs (.inl (by decide)) (by decide))
  generalize u.zeroize = z at he hst hstr hdead hkeys hrole hmsec hduk
  refine ⟨_, he, decideRes_end _ _ _, ?_, ?_, fun j => ?_, fun hj => ?_, ?_, ?_, fun r hr => ?_, hmsec, fun h1 => ⟨?_, ?_⟩, fun h0 => ?_⟩
  · rw [State.strongSt, decideRes_rd]
    exact hst
  · exact congrArg Strongroom.zeroing hstr
  · rw [decideRes_keyAt]
    exact hdead j
  · rw [decideRes_rd, hkeys hj]
  · exact congrArg Strongroom.pdcp hstr
  · exact congrArg Strongroom.challenge hstr
  · rw [decideRes_rd, hrole r hr]
  · exact (congrArg Strongroom.dukGone hstr).trans (hgone h1).1
  · rw [decideRes_rd, hduk, (hgone h1).2]
  · exact (congrArg Strongroom.dukGone hstr).trans (hkept h0)

theorem revoke_refused : ∀ (s t : State) (q : Fin 8) (d : StrongDesc), performs s q 0x24 d t → d.p0 < 4 →
    (t.strong.boot.map Prod.fst = some d.p0 ∨ (∀ i < 4, i = d.p0 ∨ i ∈ t.strong.revoked)) →
    exec (.revoke q) s = .next (t.decideRes q (abortedErr 13)) := by
  intro s t q d h hp hwhy
  have e : nbits d.p0 0 2 = d.p0 := by rw [nbits]; omega
  show execRevoke q s = _
  unfold execRevoke
  refine service_result h ?_
  dsimp only
  rw [e, if_neg (by omega)]
  refine if_pos (hwhy.imp id fun hall => List.all_eq_true.mpr fun i hi => ?_)
  simpa using hall i (List.mem_range.mp hi)

theorem revoke_revokes : ∀ (s t : State) (q : Fin 8) (d : StrongDesc) (j : Nat), performs s q 0x24 d t → d.p0 < 4 → t.strong.boot.map Prod.fst ≠ some d.p0 →
    j < 4 → j ≠ d.p0 → j ∉ t.strong.revoked → ∃ v, exec (.revoke q) s = .next v ∧ v.strong.ends.get q = some (okOut 0) ∧
      ∀ i, (i ∈ v.strong.revoked ↔ i = d.p0 ∨ i ∈ t.strong.revoked) := by
  intro s t q d j h hp hboot hj hne hnr
  have e : nbits d.p0 0 2 = d.p0 := by rw [nbits]; omega
  have hall : ¬ (t.strong.boot.map Prod.fst = some d.p0 ∨ (List.range 4).all (fun i => i == d.p0 || t.strong.revoked.contains i) = true) := by
    rintro (hb | hall)
    · exact hboot hb
    · have hj' := List.all_eq_true.mp hall j (List.mem_range.mpr hj)
      simp [hne, hnr] at hj'
  let l := d.p0 :: t.strong.revoked.filter (· != d.p0)
  have he : exec (.revoke q) s = .next (((t.setStrong { t.strong with revoked := l }).wr R.STRONG_OTP_STATE_REVOKE
      ((l.map (fun i => 2 ^ i)).sum)).decideRes q (okOut 0)) := by
    show execRevoke q s = _
    unfold execRevoke
    refine service_result h ?_
    dsimp only
    rw [e, if_neg (by omega), if_neg hall]
    rfl
  refine ⟨_, he, decideRes_end _ _ _, fun i => ?_⟩
  have hr : (((t.setStrong { t.strong with revoked := l }).wr R.STRONG_OTP_STATE_REVOKE ((l.map (fun i => 2 ^ i)).sum)).decideRes q (okOut 0)).strong.revoked =
      l := congrArg Strongroom.revoked (State.wr_strong _ _ _)
  rw [hr, List.mem_cons, List.mem_filter]
  by_cases hi : i = d.p0 <;> simp [hi]

theorem rollback_raises : ∀ (s t : State) (q : Fin 8) (d : StrongDesc), performs s q 0x25 d t → d.p0 < 128 →
    (if 64 < d.p0 ∨ (t.strong.boot.map Prod.snd).getD 0 < d.p0 then exec (.rollback q) s = .next (t.decideRes q (abortedErr 13))
     else ∃ v, exec (.rollback q) s = .next v ∧ v.strong.ends.get q = some (okOut 0) ∧ v.strong.rollback = max d.p0 t.strong.rollback ∧
       v.rd R.STRONG_OTP_STATE_ROLLBACK = max d.p0 t.strong.rollback % 2 ^ 7) := by
  intro s t q d h hp
  have e : nbits d.p0 0 7 = d.p0 := by rw [nbits]; omega
  by_cases hc : 64 < d.p0 ∨ (t.strong.boot.map Prod.snd).getD 0 < d.p0
  · rw [if_pos hc]
    show execRollback q s = _
    unfold execRollback
    refine service_result h ?_
    dsimp only
    rw [e, if_neg (by omega)]
    exact if_pos hc
  · rw [if_neg hc]
    have he : exec (.rollback q) s = .next (((t.setStrong { t.strong with rollback := max d.p0 t.strong.rollback }).wr R.STRONG_OTP_STATE_ROLLBACK
        (max d.p0 t.strong.rollback)).decideRes q (okOut 0)) := by
      show execRollback q s = _
      unfold execRollback
      refine service_result h ?_
      dsimp only
      rw [e, if_neg (by omega), if_neg hc]
      rfl
    exact ⟨_, he, decideRes_end _ _ _, congrArg Strongroom.rollback (State.wr_strong _ _ _), (decideRes_rd _ _ _ _).trans (State.wr_rd_same _ _ _)⟩

/-! ### Challenges and responses -/

theorem newChallenge_draws : ∀ (s : State) (v : Word), bitOf v 1 = true → s.strongSt = 1 → ∃ t, exec (.newChallenge v) s = .next t ∧ t.ans = acked ∧
    t.strong.challenge = some ((s.draw 32).1, s.stp.now) ∧ t.strong.drbg = s.strong.drbg + 32 ∧
    (∀ i < 8, t.rd (R.STRONG_CHALLENGE i) = (le32 8 (s.draw 32).1).getD i 0) := by
  intro s v hv hst
  let u := (s.draw 32).2.setStrong { (s.draw 32).2.strong with challenge := some ((s.draw 32).1, s.stp.now) }
  have he : exec (.newChallenge v) s = .next ((List.range 8).foldl (fun u i => u.wr (R.STRONG_CHALLENGE i) ((le32 8 (s.draw 32).1).getD i 0)) u).ack :=
    if_pos ⟨hv, hst⟩
  have hb : ∀ b ∈ (s.draw 32).1, b < 256 := by
    intro b hb
    obtain ⟨i, -, rfl⟩ := List.mem_map.mp hb
    exact Nat.mod_lt _ (by decide)
  have hch : u.strong.challenge = some ((s.draw 32).1, s.stp.now) := rfl
  have hdr : u.strong.drbg = s.strong.drbg + 32 := rfl
  generalize (s.draw 32).1 = b at he hb hch ⊢
  generalize u = u at he hch hdr
  refine ⟨_, he, rfl, ?_, ?_, fun i hi => ?_⟩
  · rw [State.ack_strong, foldl_wr_strong, hch]
  · rw [State.ack_strong, foldl_wr_strong, hdr]
  · rw [State.ack_rd, foldl_wr_rd_mem (g := R.STRONG_CHALLENGE) (v := fun i => (le32 8 b).getD i 0) (fun a b h => (by simp only [Fld.key, R.STRONG_CHALLENGE, ne_eq]; omega)) _ _
      (.inl (List.mem_range.mpr hi))]
    exact Nat.mod_eq_of_lt (le32_getD_lt 8 hb i)

theorem challengeExpiry_clears : ∀ (s : State) (c : List Nat) (a : Nat), s.strong.challenge = some (c, a) → a + 60 * 1000000000 * 65536 ≤ s.stp.now →
    ∃ t, exec .challengeExpiry s = .next t ∧ t.strong.challenge = none ∧ ∀ i < 8, t.rd (R.STRONG_CHALLENGE i) = 0 := by
  intro s c a hc ht
  have he : exec .challengeExpiry s = .next s.clearChallenge := by
    show execChallengeExpiry s = _
    rw [execChallengeExpiry, hc]
    exact congrArg Host.Outcome.next (if_pos ht)
  exact ⟨_, he, by rw [State.clearChallenge_strong], fun i hi => s.clearChallenge_rd hi⟩

theorem not_wipeRegs_perm : ¬ wipeRegs R.STRONG_DBG_STATUS_PERM.key := not_wipeRegs (.inr (by decide)) (by decide)

theorem debugResponse_decides : ∀ (s : State) (v : Word) (b : List Nat) (m : Nat), bitOf v 0 = true → s.strongSt = 1 → m = s.rd (R.STRONG_DBG_RESP 0) →
    b = (List.range 49).flatMap (fun i => bytesOf32 (s.rd (R.STRONG_DBG_RESP i))) →
    (if s.rd R.STRONG_OTP_STATE_LIFECYCLE ≠ 2 ∧ s.responseOk 0x44424731 Config.otpDebugHash m (b.drop 4 |>.take 96) (b.drop 100) = true then
      ∃ t, exec (.debugResponseSubmit v) s = .next t ∧ t.ans = acked ∧ t.strongSt = 2 ∧ t.strong.zeroing = true ∧ (∀ j, (t.keyAt j).live = false) ∧
        t.rd R.STRONG_DBG_STATUS_ACCEPTED = 1 ∧ t.rd R.STRONG_DBG_STATUS_PERM = s.rd R.STRONG_DBG_STATUS_PERM ||| m % 32
     else ∃ t, exec (.debugResponseSubmit v) s = .next t ∧ t.ans = acked ∧ t.strongSt = 1 ∧ t.strong.rejected = s.strong.rejected + 1 ∧
        t.strong.challenge = none ∧ t.rd R.STRONG_DBG_STATUS_PERM = s.rd R.STRONG_DBG_STATUS_PERM ∧ t.rd R.STRONG_DBG_STATUS_ACCEPTED = 0) := by
  intro s v b m hv hst hm hb
  have he : exec (.debugResponseSubmit v) s = if s.rd R.STRONG_OTP_STATE_LIFECYCLE ≠ 2 ∧ s.responseOk 0x44424731 Config.otpDebugHash m ((b.drop 4).take 96)
      (b.drop 100) = true then .next ((s.zeroize.wr R.STRONG_DBG_STATUS_ACCEPTED 1).wr R.STRONG_DBG_STATUS_PERM
        ((s.zeroize.wr R.STRONG_DBG_STATUS_ACCEPTED 1).rd R.STRONG_DBG_STATUS_PERM ||| m % 32)).showApproved.ack
      else .next (s.reject.wr R.STRONG_DBG_STATUS_ACCEPTED 0).ack := by
    subst hm hb
    show execDebugResponseSubmit v s = _
    unfold execDebugResponseSubmit
    rw [if_neg (by simp [hv, hst])]
  by_cases hc : s.rd R.STRONG_OTP_STATE_LIFECYCLE ≠ 2 ∧ s.responseOk 0x44424731 Config.otpDebugHash m ((b.drop 4).take 96) (b.drop 100) = true
  · rw [if_pos hc] at he ⊢
    have hz1 := s.zeroize_st
    have hz2 : s.zeroize.strong.zeroing = true := by rw [State.zeroize_strong]
    have hz3 := s.zeroize_dead
    have hz4 : s.zeroize.rd R.STRONG_DBG_STATUS_PERM = s.rd R.STRONG_DBG_STATUS_PERM := s.zeroize_rd (by decide) not_wipeRegs_perm
    generalize s.zeroize = u at he hz1 hz2 hz3 hz4
    rw [State.wr_rd_ne _ _ _ _ (by decide), hz4] at he
    generalize hperm : (s.rd R.STRONG_DBG_STATUS_PERM ||| m % 32) = perm at he ⊢
    have hlt : perm < 2 ^ 5 := hperm ▸ Nat.or_lt_two_pow (State.rd_lt s R.STRONG_DBG_STATUS_PERM) (Nat.mod_lt _ (by decide))
    have hstrong : ((u.wr R.STRONG_DBG_STATUS_ACCEPTED 1).wr R.STRONG_DBG_STATUS_PERM perm).showApproved.ack.strong = u.strong := by
      rw [State.ack_strong, State.showApproved_strong, State.wr_strong, State.wr_strong]
    refine ⟨_, he, rfl, ?_, ?_, fun j => ?_, ?_, ?_⟩
    · rw [State.strongSt, State.ack_rd, State.showApproved_rd_ne _ (by decide), State.wr_rd_ne _ _ _ _ (by decide), State.wr_rd_ne _ _ _ _ (by decide)]
      exact hz1
    · rw [hstrong, hz2]
    · rw [State.keyAt_congr (congrArg Strongroom.keys hstrong)]
      exact hz3 j
    · rw [State.ack_rd, State.showApproved_rd_ne _ (by decide), State.wr_rd_ne _ _ _ _ (by decide), State.wr_rd_same]
      rfl
    · rw [State.ack_rd, State.showApproved_rd_ne _ (by decide), State.wr_rd_same]
      exact Nat.mod_eq_of_lt hlt
  · rw [if_neg hc] at he ⊢
    have hr1 := s.reject_strong
    have hr2 : s.reject.strongSt = s.strongSt := s.reject_rd (by decide) (not_wipeRegs (.inl (by decide)) (by decide))
    have hr3 : s.reject.rd R.STRONG_DBG_STATUS_PERM = s.rd R.STRONG_DBG_STATUS_PERM := s.reject_rd (by decide) not_wipeRegs_perm
    generalize s.reject = u at he hr1 hr2 hr3
    refine ⟨_, he, rfl, ?_, ?_, ?_, ?_, ?_⟩
    · rw [State.strongSt, State.ack_rd, State.wr_rd_ne _ _ _ _ (by decide)]
      exact hr2.trans hst
    · rw [State.ack_strong, State.wr_strong, hr1]
    · rw [State.ack_strong, State.wr_strong, hr1]
    · rw [State.ack_rd, State.wr_rd_ne _ _ _ _ (by decide), hr3]
    · rw [State.ack_rd, State.wr_rd_same]
      rfl

/-! ### ZEROIZE_N, restart and self-tests -/

theorem zeroizePin_zeroizes : ∀ (s : State), s.strongSt = 1 → s.strong.zeroing = false → ∃ t, exec .zeroizePin s = .next t ∧ t.strongSt = 2 ∧ t.strong.zeroing = true ∧
    t.rd R.STRONG_STATUS_ZEROIZE_PIN = 1 ∧ (∀ j, (t.keyAt j).live = false) := by
  intro s hst hz
  let t := s.wr R.STRONG_STATUS_ZEROIZE_PIN 1
  have he : exec .zeroizePin s = .next t.zeroize := by
    show execZeroizePin s = _
    unfold execZeroizePin
    dsimp only
    rw [if_neg (by omega), if_neg (by simp [hz])]
  have hpin : t.rd R.STRONG_STATUS_ZEROIZE_PIN = 1 := State.wr_rd_same _ _ _
  generalize t = t at he hpin
  refine ⟨_, he, t.zeroize_st, by rw [State.zeroize_strong], ?_, t.zeroize_dead⟩
  rw [t.zeroize_rd (by decide) (not_wipeRegs (.inl (by decide)) (by decide)), hpin]

theorem zeroizationComplete_ends : ∀ (s : State), s.strong.zeroing = true → ∃ t, exec .zeroizationComplete s = .next t ∧ t.strong.zeroing = false ∧
    t.rd R.STRONG_ZEROIZE_COUNT = (s.rd R.STRONG_ZEROIZE_COUNT + 1) % 2 ^ 32 ∧
    t.strongSt = (if s.bit R.STRONG_STATUS_ZEROIZE_PIN = true then s.strongSt else 1) := by
  intro s hz
  let t := (s.setStrong { s.strong with zeroing := false }).inc R.STRONG_ZEROIZE_COUNT
  have he : exec .zeroizationComplete s = .next (if t.bit R.STRONG_STATUS_ZEROIZE_PIN then t else t.strongTo 1) := if_pos hz
  have hpin : t.bit R.STRONG_STATUS_ZEROIZE_PIN = s.bit R.STRONG_STATUS_ZEROIZE_PIN := State.wr_bit_ne _ _ _ _ (by decide)
  have hcount : t.rd R.STRONG_ZEROIZE_COUNT = (s.rd R.STRONG_ZEROIZE_COUNT + 1) % 2 ^ 32 := State.inc_rd_same _ _
  have hst : t.strongSt = s.strongSt := State.inc_rd_ne _ _ _ (by decide)
  have hzero : t.strong.zeroing = false := congrArg Strongroom.zeroing (State.inc_strong _ _)
  rw [hpin] at he
  generalize t = t at he hcount hst hzero
  by_cases hp : s.bit R.STRONG_STATUS_ZEROIZE_PIN = true
  · rw [if_pos hp] at he
    simp only [if_pos hp]
    exact ⟨_, he, hzero, hcount, hst⟩
  · rw [if_neg hp] at he
    simp only [if_neg hp]
    exact ⟨_, he, by rw [State.strongTo_strong, hzero], (t.strongTo_rd_ne 1 (by decide)).trans hcount, t.strongTo_st 1⟩

theorem zeroizeNRelease_releases : ∀ (s : State), ∃ t, exec .zeroizeNRelease s = .next t ∧ t.rd R.STRONG_STATUS_ZEROIZE_PIN = 0 ∧
    t.strongSt = (if s.strongSt = 2 ∧ s.strong.zeroing = false then 1 else s.strongSt) := by
  intro s
  let t := s.wr R.STRONG_STATUS_ZEROIZE_PIN 0
  have he : exec .zeroizeNRelease s = .next (if s.strongSt = 2 ∧ !s.strong.zeroing then t.strongTo 1 else t) := rfl
  have hpin : t.rd R.STRONG_STATUS_ZEROIZE_PIN = 0 := State.wr_rd_same _ _ _
  have hst : t.strongSt = s.strongSt := State.wr_rd_ne _ _ _ _ (by decide)
  generalize t = t at he hpin hst
  by_cases hc : s.strongSt = 2 ∧ s.strong.zeroing = false
  · rw [if_pos (by simpa using hc)] at he
    simp only [if_pos hc]
    exact ⟨_, he, (t.strongTo_rd_ne 1 (by decide)).trans hpin, t.strongTo_st 1⟩
  · rw [if_neg (by simpa using hc)] at he
    simp only [if_neg hc]
    exact ⟨_, he, hpin, hst⟩

theorem strongRestart_restarts : ∀ (s : State) (v : Word), bitOf v 0 = true → ∃ t, exec (.strongRestart 0xB1 v) s = .next t ∧ t.ans = acked ∧ t.strongSt = 0 ∧
    t.strong.restarted = true ∧ (∀ j, (t.keyAt j).live = false) := by
  intro s v hv
  have he : exec (.strongRestart 0xB1 v) s = .next ((s.noKeys.setStrong { s.noKeys.strong with restarted := true, zeroing := false }).strongTo 0).ack := by
    show execStrongRestart 0xB1 v s = _
    rw [execStrongRestart, if_neg (by decide), if_pos hv]
    rfl
  have hdead := s.noKeys_dead
  generalize s.noKeys = u at he hdead
  refine ⟨_, he, rfl, ?_, ?_, fun j => ?_⟩
  · rw [State.strongSt, State.ack_rd]
    exact State.strongTo_st _ 0
  · rw [State.ack_strong, State.strongTo_strong, State.setStrong_strong]
  · rw [State.keyAt_congr (s := u) (by rw [State.ack_strong, State.strongTo_strong, State.setStrong_strong])]
    exact hdead j

theorem strongRestart_refused : ∀ (s : State) (mid : Mid) (v : Word), mid ≠ 0xB1 → exec (.strongRestart mid v) s = .next { s with ans := abortedBy 7 } := fun _ _ _ h => if_pos h

theorem selftestEnd_passes : ∀ (s : State), s.strongSt = 0 → ∃ t, exec (.strongSelftestEnd none) s = .next t ∧ t.strongSt = 1 ∧ t.rd R.STRONG_STATUS_POST_PASS = 1 := by
  intro s hst
  have he : exec (.strongSelftestEnd none) s = .next (((if s.strong.restarted then s else
      s.showOtp.wr R.HEARTH_BOOT_STATUS_STEP (max 8 (s.rd R.HEARTH_BOOT_STATUS_STEP))).wr R.STRONG_STATUS_POST_PASS 1).strongTo 1) := if_neg (not_not.mpr hst)
  generalize (if s.strong.restarted then s else s.showOtp.wr R.HEARTH_BOOT_STATUS_STEP (max 8 (s.rd R.HEARTH_BOOT_STATUS_STEP))) = u at he
  refine ⟨_, he, State.strongTo_st _ 1, ?_⟩
  rw [State.strongTo_rd_ne _ _ (by decide), State.wr_rd_same]
  rfl

theorem selftestEnd_crier : ∀ (s : State) (i : Fin 16), s.strongSt = 0 → s.strong.restarted = false → ∃ t, exec (.strongSelftestEnd (some i)) s = .next t ∧ t.strongSt = 0 ∧
    t.rd R.STRONG_STATUS_POST_PASS = 0 ∧ (s.boot.crierDue = none → t.boot.crierDue = some (8, i.val + 1)) := by
  intro s i hst hr
  let t := s.wr R.STRONG_STATUS_POST_PASS 0
  have he : exec (.strongSelftestEnd (some i)) s = .next { t with boot := { t.boot with crierDue := t.boot.crierDue.or (some (8, i.val + 1)) } } := by
    show execStrongSelftestEnd (some i) s = _
    rw [execStrongSelftestEnd, if_neg (not_not.mpr hst)]
    exact if_neg (by simp [hr])
  have h1 : t.strongSt = s.strongSt := State.wr_rd_ne _ _ _ _ (by decide)
  have h2 : t.rd R.STRONG_STATUS_POST_PASS = 0 := State.wr_rd_same _ _ _
  have h3 : t.boot = s.boot := State.wr_boot _ _ _
  generalize t = t at he h1 h2 h3
  refine ⟨_, he, h1.trans hst, h2, fun hd => ?_⟩
  show t.boot.crierDue.or _ = _
  rw [h3, hd]
  rfl

theorem selftestEnd_error : ∀ (s : State) (i : Fin 16), s.strongSt = 0 → s.strong.restarted = true → ∃ t, exec (.strongSelftestEnd (some i)) s = .next t ∧ t.strongSt = 3 ∧
    t.rd R.STRONG_ERR_CAUSE = 3 ∧ t.boot = s.boot := by
  intro s i hst hr
  have he : exec (.strongSelftestEnd (some i)) s =
      .next ((((s.wr R.STRONG_STATUS_POST_PASS 0).wr R.STRONG_ERR_CAUSE 3).strongTo 3).raise ⟨2, 1, true, 3, 0⟩) := by
    show execStrongSelftestEnd (some i) s = _
    rw [execStrongSelftestEnd, if_neg (not_not.mpr hst)]
    exact if_pos hr
  refine ⟨_, he, ?_, ?_, ?_⟩
  · rw [State.strongSt, State.rd_congr (State.raise_regs _ _)]
    exact State.strongTo_st _ 3
  · rw [State.rd_congr (State.raise_regs _ _), State.strongTo_rd_ne _ _ (by decide), State.wr_rd_same]
    rfl
  · rw [State.raise_boot, State.strongTo, State.showApproved, State.wrB_boot, State.wr_boot, State.wr_boot, State.wr_boot]

theorem entropyHealthFail_errs : ∀ (s : State), (s.strongSt = 1 ∨ s.strongSt = 2) → ∃ t, exec .entropyHealthFail s = .next t ∧ t.strongSt = 3 ∧ t.rd R.STRONG_ERR_CAUSE = 1 ∧
    t.rd R.STRONG_ZEROIZE_COUNT = (s.rd R.STRONG_ZEROIZE_COUNT + 1) % 2 ^ 32 ∧ (∀ j, (t.keyAt j).live = false) ∧
    t.dbg.raised = s.dbg.raised ++ [(⟨2, 1, true, 1, 0⟩, s.tick)] := by
  intro s hst
  have he : exec .entropyHealthFail s = .next (s.strongError 1) := if_neg (by omega)
  have hdbg : s.wipe.dbg = s.dbg := (keeps_wipe (.refl (partsBut .dbg) s) (by decide) (by decide) (by decide)).same_of_but
  have hstp : s.wipe.stp = s.stp := (keeps_wipe (.refl (partsBut .stp) s) (by decide) (by decide) (by decide)).same_of_but
  refine ⟨_, he, s.strongError_st 1, s.strongError_cause 1 (by decide), ?_, s.strongError_dead 1, ?_⟩
  · rw [State.strongError_rd, State.strongTo_rd_ne _ _ (by decide), State.wr_rd_ne _ _ _ _ (by decide), State.inc_rd_same,
      s.wipe_writes _ (not_wipeRegs (.inl (by decide)) (by decide))]
    rfl
  · have hraise (t : State) (e : HearthEvent) : (t.raise e).dbg.raised = t.dbg.raised ++ [(e, t.tick)] := rfl
    rw [State.strongError, hraise, State.tick, State.tick, State.strongTo, State.showApproved, State.wrB_dbg, State.wr_dbg, State.wr_dbg, State.inc_dbg, hdbg,
      State.wrB_stp, State.wr_stp, State.wr_stp, State.inc_stp, hstp]

/-- Settles O52: each clause is a lemma above about one command. -/
theorem strongQueuesOfficerAndStates : Obligations.StrongQueuesOfficerAndStates :=
  ⟨qProdWrite_writes, qProdWrite_refused, descriptorEnd_decided, descriptorEnd_state, descriptorEnd_poisoned, descriptorEnd_role, authCo_answers,
    bindQueue_binds, bindQueue_self, setMode_sets, zeroize_zeroizes, revoke_refused, revoke_revokes, rollback_raises, newChallenge_draws,
    challengeExpiry_clears, debugResponse_decides, zeroizePin_zeroizes, zeroizationComplete_ends, zeroizeNRelease_releases, strongRestart_restarts,
    strongRestart_refused, selftestEnd_passes, selftestEnd_crier, selftestEnd_error, entropyHealthFail_errs⟩

end Sys2Proof.Claims

/-! ## O53: the boot sequence -/

namespace Sys2Proof.Machine

set_option Elab.async false

open Sys2Proof.Claims

/-- Setting a bit that is clear. -/
theorem testBit_add_two_pow : ∀ (i : Nat) {n : Nat} (j : Nat), n.testBit i = false → (n + 2 ^ i).testBit j = (decide (j = i) || n.testBit j)
  | 0, n, j, h => by
    have hn : n % 2 = 0 := by simpa using h
    cases j with
    | zero => simp; omega
    | succ j =>
      rw [Nat.testBit_add_one, Nat.testBit_add_one, show (n + 2 ^ 0) / 2 = n / 2 by omega]
      simp
  | i + 1, n, j, h => by
    have e : n + 2 ^ (i + 1) = n + 2 * 2 ^ i := by rw [Nat.pow_succ, Nat.mul_comm]
    cases j with
    | zero => simp [e]
    | succ j =>
      rw [Nat.testBit_add_one, Nat.testBit_add_one, e, show (n + 2 * 2 ^ i) / 2 = n / 2 + 2 ^ i by omega,
        testBit_add_two_pow i j (by rwa [Nat.testBit_add_one] at h)]
      simp

section
variable (s : State)

@[simp] theorem State.setBoot_boot (f : Boot → Boot) : (s.setBoot f).boot = f s.boot := rfl
@[simp] theorem State.setBoot_rd (f : Boot → Boot) (g : Fld) : (s.setBoot f).rd g = s.rd g := rfl
@[simp] theorem State.setBoot_bit (f : Boot → Boot) (g : Fld) : (s.setBoot f).bit g = s.bit g := rfl
@[simp] theorem State.setBoot_ms (f : Boot → Boot) : (s.setBoot f).ms = s.ms := rfl

theorem State.crier_due (c d : Nat) : (s.crier c d).boot.crierDue = s.boot.crierDue.or (some (c, d)) := rfl

/-- With no cause decided before it, a cause stands (R568). -/
theorem State.crier_first {s : State} (h : s.boot.crierDue = none) (c d : Nat) : (s.crier c d).boot.crierDue = some (c, d) := by
  rw [State.crier_due, h, Option.none_or]

theorem State.crier_decided {s t : State} (h : t.boot.crierDue = s.boot.crierDue) (c d : Nat) : crierDecided s (t.crier c d) c d := by
  rw [crierDecided, State.crier_due, h]
  cases s.boot.crierDue <;> rfl

@[simp] theorem State.stepTo_boot (n : Nat) : (s.stepTo n).boot = s.boot := State.wr_boot _ _ _
@[simp] theorem State.stepTo_ms (n : Nat) : (s.stepTo n).ms = s.ms := State.wr_ms _ _ _
@[simp] theorem State.stepTo_cores (n : Nat) : (s.stepTo n).cores = s.cores := State.wr_cores _ _ _

theorem State.stepTo_rd_ne (n : Nat) {f : Fld} (h : f.key ≠ R.HEARTH_BOOT_STATUS_STEP.key) : (s.stepTo n).rd f = s.rd f := State.wr_rd_ne _ _ _ _ h

theorem State.stepTo_step {n : Nat} (hn : n < 256) : (s.stepTo n).rd R.HEARTH_BOOT_STATUS_STEP = max n (s.rd R.HEARTH_BOOT_STATUS_STEP) :=
  (State.wr_rd_same _ _ _).trans (Nat.mod_eq_of_lt (max_lt hn (s.rd_lt R.HEARTH_BOOT_STATUS_STEP)))

end

theorem State.booting_iff (s : State) : s.booting = true ↔ (∃ a, s.boot.t0 = some a) ∧ s.boot.crierDue = none ∧ s.inCrier = false := by
  simp [State.booting, Option.isSome_iff_exists, and_assoc]

theorem State.no_cause {s : State} (h : s.booting = true) : s.boot.crierDue = none := (s.booting_iff.mp h).2.1

/-! ### Failed cores -/

/-- The first failed core of a hamlet (R566). -/
theorem State.failCore_fresh {s : State} {h : Nat} (hb : ∀ x ∈ s.boot.bad, x.1 ≠ h) (p : Nat) :
    s.failCore h p =
      (let t := s.setBoot (fun b => { b with bad := b.bad ++ [(h, p)] })
       if p = 8 then t.spareNone h
       else ({ t with hml := { t.hml with coreMap := (t.hml.coreMap.set (9 * h + p) (some 8)).set (9 * h + 8) (some p) } }.spareNone h).wr
         (R.HAMLET_SPARE_STATUS_SPARE_PHYS h) p) := by
  have hc : s.boot.bad.contains (h, p) = false := by
    rw [Bool.eq_false_iff]
    exact fun hm => hb _ (List.contains_iff_mem.mp hm) rfl
  have hf : (s.boot.bad ++ [(h, p)]).filter (fun x => x.1 == h) = [(h, p)] := by
    rw [List.filter_append, List.filter_eq_nil_iff.mpr fun x hx => by simpa using hb x hx]
    simp
  unfold State.failCore
  rw [if_neg (by rw [hc]; exact Bool.false_ne_true)]
  dsimp only
  rw [State.setBoot_boot, hf]
  exact if_neg (by simp)

/-- A second failed core of a hamlet decides the Crier state. -/
theorem State.failCore_second {s : State} {h p q : Nat} (hb : s.boot.bad = [(h, p)]) (hpq : p ≠ q) :
    s.failCore h q = (s.setBoot (fun b => { b with bad := b.bad ++ [(h, q)] })).crier 7 (h * 2 ^ 16 + (2 ^ p + 2 ^ q)) := by
  unfold State.failCore
  rw [if_neg (by simp [hb, hpq.symm])]
  dsimp only
  rw [State.setBoot_boot, hb]
  simp

theorem State.failCore_boot {s : State} {h : Nat} (hb : ∀ x ∈ s.boot.bad, x.1 ≠ h) (p : Nat) :
    (s.failCore h p).boot = { s.boot with bad := s.boot.bad ++ [(h, p)] } := by
  rw [State.failCore_fresh hb]
  dsimp only
  by_cases h8 : p = 8
  · rw [if_pos h8]
    exact State.wr_boot _ _ _
  · rw [if_neg h8]
    exact (State.wr_boot _ _ _).trans (State.wr_boot _ _ _)

/-! ### Hearth SRAM -/

theorem State.rmwWord_out (s : State) (mid : Mid) (a : Nat) (en : Byte) (new : DWord) (mark : Bool) :
    sameMemory s (s.rmwWord mid a en new mark) (fun k => a ≤ k ∧ k < a + 8) := by
  intro k hk
  have hm : ∃ w, (s.rmwWord mid a en new mark).ms.mem = s.ms.mem.put a w := by
    unfold State.rmwWord
    dsimp only
    split
    · next ids _ =>
      have hc : (s.countRead ids mid a (s.ms.mem.rawData a) (s.ms.mem.rawCheck a) 2).ms.mem = s.ms.mem :=
        (keeps_countRead (.refl (partsBut .mem) s) (by decide) (by decide) (by decide) (by decide) _ _ _ _ _ _).same_of_but
      exact ⟨_, congrArg (fun m : Memory => m.put a _) hc⟩
    · exact ⟨_, rfl⟩
  obtain ⟨w, hw⟩ := hm
  rw [hw]
  exact ⟨Memory.putRaw_data_out _ _ _ _ hk, Memory.putRaw_check_ne _ _ _ _ (by omega)⟩

theorem State.writeBytes_out (mid : Mid) (m : Bool) : ∀ (l : List Byte) (s : State) (a : Nat),
    sameMemory s (s.writeBytes mid m a l) (fun k => a / 8 * 8 ≤ k ∧ k < (a + l.length + 7) / 8 * 8)
  | [], s, a => sameMemory.refl s _
  | b :: l, s, a => by
    have h1 := (s.rmwWord_out mid (a / 8 * 8) (BitVec.ofNat 8 (2 ^ (a % 8))) (BitVec.ofNat 64 (b.toNat * 2 ^ (8 * (a % 8)))) m).mono
      (q := fun k => a / 8 * 8 ≤ k ∧ k < (a + (b :: l).length + 7) / 8 * 8) (fun k hk => by rw [List.length_cons]; omega)
    exact h1.trans ((State.writeBytes_out mid m l _ (a + 1)).mono fun k hk => by rw [List.length_cons]; omega)

theorem State.hearthWrite_out (s : State) (b : List Nat) :
    sameMemory s (s.hearthWrite 0 b) (fun a => hearthBase ≤ a ∧ a < hearthBase + (b.length + 7) / 8 * 8) := by
  have h1 := (State.writeWords_out (dwordsOf (b.length / 8) b) s (hearthBase + 0)).mono
    (q := fun a => hearthBase ≤ a ∧ a < hearthBase + (b.length + 7) / 8 * 8) (fun k hk => by rw [dwordsOf_length] at hk; omega)
  refine h1.trans ((State.writeBytes_out hearthMid false _ _ _).mono fun k hk => ?_)
  rw [List.length_map, List.length_drop] at hk
  simp only [hearthBase] at hk ⊢
  omega

theorem State.hearthWrite_boot (s : State) (o : Nat) (b : List Nat) : (s.hearthWrite o b).boot = s.boot :=
  (keeps_hearthWrite (.refl (partsBut .boot) s) (by decide) (by decide) (by decide) (by decide) (by decide) o b).same_of_but

theorem le32_take : ∀ (n : Nat) (b : List Nat), le32 n (b.take (4 * n)) = le32 n b
  | 0, _ => rfl
  | n + 1, b => by
    unfold le32
    have hg (i : Nat) (hi : i < 4) : (b.take (4 * (n + 1))).getD i 0 = b.getD i 0 := by
      rw [List.getD_eq_getElem?_getD, List.getD_eq_getElem?_getD, List.getElem?_take_of_lt (by omega)]
    rw [List.drop_take, show 4 * (n + 1) - 4 = 4 * n by omega, le32_take n, hg 0 (by decide), hg 1 (by decide), hg 2 (by decide), hg 3 (by decide)]

theorem fitLen_of_le {n : Nat} {l : List Nat} (h : n ≤ l.length) : fitLen n l = l.take n := by
  rw [fitLen, List.take_append_of_le_length h]

theorem fitLen_length (n : Nat) (l : List Nat) : (fitLen n l).length = n := by
  rw [fitLen, List.length_take, List.length_append, List.length_replicate]
  omega

/-- An image runs from its header's ENTRY, whatever the state in which it starts (R563). -/
theorem State.runImage_runs (s : State) (h : List Nat) (slot : Nat) (hs : slot < 256) : imageRuns ((s.runImage h).bootReady slot) h slot := by
  have hboot : ((s.runImage h).bootReady slot).boot = (s.runImage h).boot := by
    rw [State.bootReady, State.stepTo_boot, State.wr_boot, State.wr_boot]
  have hcores : ((s.runImage h).bootReady slot).cores = (s.runImage h).cores := by
    rw [State.bootReady, State.stepTo_cores, State.wr_cores, State.wr_cores]
  have hstrong : ((s.runImage h).bootReady slot).strong = (s.runImage h).strong := by
    rw [State.bootReady, State.stepTo, State.wr_strong, State.wr_strong, State.wr_strong]
  have hcore : ((s.runImage h).bootReady slot).core 160 = (s.runImage h).core 160 := congrArg (fun t : Tab Core => t.get 160) hcores
  have hrun : (s.runImage h).core 160 = { run := .running, pc := (le32 36 h).getD 5 0, since := (s.runImage h).stp.now } := State.setCore_core _ _ _
  have hslot : ((s.runImage h).bootReady slot).rd R.HEARTH_BOOT_STATUS_BOOT_SLOT = slot := by
    rw [State.bootReady, State.stepTo_rd_ne _ _ (by decide), State.wr_rd_ne _ _ _ _ (by decide), State.wr_rd_same]
    exact Nat.mod_eq_of_lt hs
  have hhost : ((s.runImage h).bootReady slot).rd R.HOST_STATUS_BOOT = 1 := by
    rw [State.bootReady, State.stepTo_rd_ne _ _ (by decide), State.wr_rd_same]
    rfl
  refine ⟨?_, ?_, ⟨?_, ?_⟩, ?_, hslot, hhost⟩
  · rw [hboot]
    rfl
  · rw [hboot]
    rfl
  · rw [hcore, hrun]
  · rw [hcore, hrun]
  · rw [hstrong]
    rfl

theorem State.failCores_one (s : State) (h p : Nat) : s.failCores [(h, p)] = s.failCore h p := rfl

end Sys2Proof.Machine

namespace Sys2Proof.Claims

set_option Elab.async false

open Sys2Proof.Machine

theorem resetNRelease_latches : ∀ (s : State) (b p i : Fin 4) (f : Bool), s.boot.t0 = none → s.pwr.tripped = false → ∃ t, exec (.resetNRelease (b, p, i) f) s = .next t ∧
    t.boot.t0 = some s.stp.now ∧ t.rd R.HEARTH_STRAPS_BOOT = (if s.bit R.HEARTH_STRAPS_RECOVERY then 0 else b.val) ∧ t.rd R.HEARTH_STRAPS_SPI = p ∧
    t.rd R.HEARTH_STRAPS_I2C = i ∧ t.rd R.HEARTH_STRAPS_FAST = (if f then 1 else 0) ∧
    t.rd R.HEARTH_BOOT_STATUS_FAST = (if f = true ∧ Config.otpLifecycle.val = 0 then 1 else 0) ∧
    (if b.val = 3 ∧ s.bit R.HEARTH_STRAPS_RECOVERY = false then crierDecided s t 9 t.straps else t.boot.crierDue = s.boot.crierDue) := by
  intro s b p i f h0 htrip
  let b' := if s.recovering then 0 else b.val
  let t := ((((s.wr R.HEARTH_STRAPS_BOOT b').wr R.HEARTH_STRAPS_SPI p).wr R.HEARTH_STRAPS_I2C i).wrB R.HEARTH_STRAPS_FAST f).wrB R.HEARTH_BOOT_STATUS_FAST
    (f && Config.otpLifecycle.val == 0)
  have he : exec (.resetNRelease (b, p, i) f) s = .next (if b' = 3 then
      (t.setBoot (fun x => { x with t0 := some s.stp.now })).crier 9 (t.setBoot (fun x => { x with t0 := some s.stp.now })).straps
      else t.setBoot (fun x => { x with t0 := some s.stp.now })) := if_neg (by simp [h0, htrip])
  have hb' : b' < 4 := by
    show (if s.recovering then 0 else b.val) < 4
    split
    · decide
    · exact b.isLt
  have hrec : s.recovering = s.bit R.HEARTH_STRAPS_RECOVERY := rfl
  have hboot : t.boot = s.boot := by simp only [t, State.wrB_boot, State.wr_boot]
  have h1 : t.rd R.HEARTH_STRAPS_BOOT = b' := by
    simp only [t]
    rw [State.wrB_rd_ne _ _ _ _ (by decide), State.wrB_rd_ne _ _ _ _ (by decide), State.wr_rd_ne _ _ _ _ (by decide), State.wr_rd_ne _ _ _ _ (by decide),
      State.wr_rd_same]
    exact Nat.mod_eq_of_lt hb'
  have h2 : t.rd R.HEARTH_STRAPS_SPI = p := by
    simp only [t]
    rw [State.wrB_rd_ne _ _ _ _ (by decide), State.wrB_rd_ne _ _ _ _ (by decide), State.wr_rd_ne _ _ _ _ (by decide), State.wr_rd_same]
    exact Nat.mod_eq_of_lt p.isLt
  have h3 : t.rd R.HEARTH_STRAPS_I2C = i := by
    simp only [t]
    rw [State.wrB_rd_ne _ _ _ _ (by decide), State.wrB_rd_ne _ _ _ _ (by decide), State.wr_rd_same]
    exact Nat.mod_eq_of_lt i.isLt
  have h4 : t.rd R.HEARTH_STRAPS_FAST = if f then 1 else 0 := by
    simp only [t]
    rw [State.wrB_rd_ne _ _ _ _ (by decide), State.wrB_rd_same]
    cases f <;> rfl
  have h5 : t.rd R.HEARTH_BOOT_STATUS_FAST = if f = true ∧ Config.otpLifecycle.val = 0 then 1 else 0 := by
    simp only [t]
    rw [State.wrB_rd_same]
    by_cases hl : Config.otpLifecycle.val = 0 <;> cases f <;> simp [hl, R.HEARTH_BOOT_STATUS_FAST]
  generalize t = t at he hboot h1 h2 h3 h4 h5
  have hd : (t.setBoot (fun x => { x with t0 := some s.stp.now })).boot.crierDue = s.boot.crierDue := by
    rw [State.setBoot_boot, hboot]
  have hcond : b' = 3 ↔ b.val = 3 ∧ s.bit R.HEARTH_STRAPS_RECOVERY = false := by
    show (if s.recovering then 0 else b.val) = 3 ↔ _
    rw [hrec]
    cases s.bit R.HEARTH_STRAPS_RECOVERY <;> simp
  by_cases hc : b' = 3
  · rw [if_pos hc] at he
    refine ⟨_, he, rfl, h1, h2, h3, h4, h5, ?_⟩
    rw [if_pos (hcond.mp hc)]
    exact State.crier_decided hd _ _
  · rw [if_neg hc] at he
    refine ⟨_, he, rfl, h1, h2, h3, h4, h5, ?_⟩
    rw [if_neg (mt hcond.mpr hc)]
    exact hd

theorem fuseReadEnd_fault : ∀ (s : State) (k : Fin 3) (d : Nat) (l : List (Fin 16 × Fin 9)), s.booting = true → s.boot.fused = false →
    ∃ t, exec (.fuseReadEnd (some (k, d)) l) s = .next t ∧ crierDecided s t (1 + k.val) d ∧ t.boot.fused = false := by
  intro s k d l hb hf
  have he : exec (.fuseReadEnd (some (k, d)) l) s = .next (s.crier (1 + k.val) d) := if_neg (by simp [hb, hf])
  exact ⟨_, he, State.crier_decided rfl _ _, hf⟩

theorem fuseReadEnd_eq {s : State} (hb : s.booting = true) (hf : s.boot.fused = false) (l : List (Fin 16 × Fin 9)) :
    exec (.fuseReadEnd none l) s =
      .next (((s.setBoot (fun b => { b with fused := true })).failCores (l.map (fun x => (x.1.val, x.2.val)))).stepTo 2) := if_neg (by simp [hb, hf])

theorem fuseReadEnd_fuses : ∀ (s : State), s.booting = true → s.boot.fused = false → ∃ t, exec (.fuseReadEnd none []) s = .next t ∧ t.boot.fused = true ∧
    t.rd R.HEARTH_BOOT_STATUS_STEP = max 2 (s.rd R.HEARTH_BOOT_STATUS_STEP) ∧ t.boot.crierDue = none := by
  intro s hb hf
  refine ⟨_, fuseReadEnd_eq hb hf [], ?_, State.stepTo_step _ (by decide), ?_⟩
  · rw [State.stepTo_boot]
    rfl
  · rw [State.stepTo_boot]
    exact State.no_cause hb

theorem fuseReadEnd_failed : ∀ (s : State) (h : Fin 16) (p : Fin 9), s.booting = true → s.boot.fused = false → (∀ x ∈ s.boot.bad, x.1 ≠ h.val) →
    ∃ t, exec (.fuseReadEnd none [(h, p)]) s = .next t ∧ t.boot.bad = s.boot.bad ++ [(h.val, p.val)] ∧ t.boot.crierDue = none ∧
      t.rd (R.HAMLET_SPARE_STATUS_STATE h) = 2 ∧
      (p.val ≠ 8 → t.hml.coreMap.get (9 * h.val + p.val) = some 8 ∧ t.hml.coreMap.get (9 * h.val + 8) = some p.val ∧
        t.rd (R.HAMLET_SPARE_STATUS_SPARE_PHYS h) = p) := by
  intro s h p hb hf hbad
  let t := s.setBoot (fun b => { b with fused := true })
  have he : exec (.fuseReadEnd none [(h, p)]) s = .next ((t.failCore h.val p.val).stepTo 2) := fuseReadEnd_eq hb hf _
  have ht : t.boot = { s.boot with fused := true } := rfl
  generalize t = t at he ht
  have hbad' : ∀ x ∈ t.boot.bad, x.1 ≠ h.val := by rwa [ht]
  have hboot : ((t.failCore h.val p.val).stepTo 2).boot = { t.boot with bad := t.boot.bad ++ [(h.val, p.val)] } :=
    (State.stepTo_boot _ _).trans (State.failCore_boot hbad' _)
  refine ⟨_, he, ?_, ?_, ?_, fun h8 => ?_⟩
  · rw [hboot, ht]
  · rw [hboot, ht]
    exact State.no_cause hb
  · rw [State.stepTo_rd_ne _ _ (by simp only [Fld.key, R.HAMLET_SPARE_STATUS_STATE, R.HEARTH_BOOT_STATUS_STEP, ne_eq]; omega), State.failCore_fresh hbad']
    dsimp only
    split
    · exact State.wr_rd_same _ _ _
    · exact (State.wr_rd_ne _ _ _ _ (by simp only [Fld.key, R.HAMLET_SPARE_STATUS_STATE, R.HAMLET_SPARE_STATUS_SPARE_PHYS, ne_eq]; omega)).trans (State.wr_rd_same _ _ _)
  · have hmap : ((t.failCore h.val p.val).stepTo 2).hml.coreMap = (t.hml.coreMap.set (9 * h.val + p.val) (some 8)).set (9 * h.val + 8) (some p.val) := by
      rw [State.stepTo, State.wr_hml, State.failCore_fresh hbad']
      dsimp only
      rw [if_neg h8, State.wr_hml, State.spareNone, State.wr_hml]
      rfl
    refine ⟨?_, ?_, ?_⟩
    · rw [hmap, Tab.get_set_ne _ _ _ _ (by omega), Tab.get_set_same]
    · rw [hmap, Tab.get_set_same]
    · rw [State.stepTo_rd_ne _ _ (by simp only [Fld.key, R.HAMLET_SPARE_STATUS_SPARE_PHYS, R.HEARTH_BOOT_STATUS_STEP, ne_eq]; omega), State.failCore_fresh hbad']
      dsimp only
      rw [if_neg h8, State.wr_rd_same]
      exact Nat.mod_eq_of_lt (by have := p.isLt; simp only [R.HAMLET_SPARE_STATUS_SPARE_PHYS]; omega)

theorem fuseReadEnd_second : ∀ (s : State) (h : Fin 16) (p q : Fin 9), s.booting = true → s.boot.fused = false → s.boot.bad = [(h.val, p.val)] → p ≠ q →
    ∃ t, exec (.fuseReadEnd none [(h, q)]) s = .next t ∧ t.boot.crierDue = some (7, h.val * 2 ^ 16 + (2 ^ p.val + 2 ^ q.val)) := by
  intro s h p q hb hf hbad hpq
  let t := s.setBoot (fun b => { b with fused := true })
  have he : exec (.fuseReadEnd none [(h, q)]) s = .next ((t.failCore h.val q.val).stepTo 2) := fuseReadEnd_eq hb hf _
  have ht : t.boot.bad = [(h.val, p.val)] ∧ t.boot.crierDue = none := ⟨hbad, State.no_cause hb⟩
  generalize t = t at he ht
  refine ⟨_, he, ?_⟩
  rw [State.stepTo_boot, State.failCore_second (p := p.val) ht.1 (fun e => hpq (Fin.ext e))]
  exact State.crier_first ht.2 _ _

theorem hamletMemory_of_lt {m i : Nat} (hm : m ≤ 1) (hi : i < 144) : hamletMemory (m, i) = some (i / 9, i % 9) := if_pos ⟨hm, hi⟩

theorem poweronHarrowEnd_decides : ∀ (s : State) (m : Fin 8) (i : Fin 256), s.booting = true → s.boot.fused = true → s.boot.tested = false →
    (2 ≤ m.val ∨ 144 ≤ i.val → ∃ t, exec (.poweronHarrowEnd [(m, i)] []) s = .next t ∧ t.boot.crierDue = some (4, m.val * 2 ^ 24 + i.val * 2 ^ 16)) ∧
    (∃ t, exec (.poweronHarrowEnd [] [(m, i)]) s = .next t ∧ t.boot.crierDue = some (5, m.val * 2 ^ 24 + i.val * 2 ^ 16)) ∧
    (m.val ≤ 1 → i.val < 144 → (∀ x ∈ s.boot.bad, x.1 ≠ i.val / 9) → ∃ t, exec (.poweronHarrowEnd [(m, i)] []) s = .next t ∧
      t.boot.crierDue = none ∧ t.boot.bad = s.boot.bad ++ [(i.val / 9, i.val % 9)] ∧ t.boot.tested = true) := by
  intro s m i hb hf ht
  have hrun : ¬ ((!s.booting) = true ∨ (!s.boot.fused) = true ∨ s.boot.tested = true) := by simp [hb, hf, ht]
  let t := (s.setBoot (fun b => { b with tested := true })).stepTo 4
  have htb : t.boot = { s.boot with tested := true } := State.stepTo_boot _ _
  have hdue : t.boot.crierDue = none := by
    rw [htb]
    exact State.no_cause hb
  refine ⟨fun h => ?_, ?_, fun hm hi hbad => ?_⟩
  · have hno : hamletMemory (m.val, i.val) = none := if_neg (by omega)
    have he : exec (.poweronHarrowEnd [(m, i)] []) s = .next (t.crier 4 (m.val * 2 ^ 24 + i.val * 2 ^ 16)) := by
      show execPoweronHarrowEnd _ _ s = _
      unfold execPoweronHarrowEnd
      dsimp only
      rw [if_neg hrun, List.filter_cons_of_pos (by simp [hno])]
    exact ⟨_, he, State.crier_first hdue _ _⟩
  · have he : exec (.poweronHarrowEnd [] [(m, i)]) s = .next (t.crier 5 (m.val * 2 ^ 24 + i.val * 2 ^ 16)) := if_neg hrun
    exact ⟨_, he, State.crier_first hdue _ _⟩
  · have hsome := hamletMemory_of_lt hm hi
    have he : exec (.poweronHarrowEnd [(m, i)] []) s = .next (t.failCore (i.val / 9) (i.val % 9)) := by
      show execPoweronHarrowEnd _ _ s = _
      unfold execPoweronHarrowEnd
      dsimp only
      rw [if_neg hrun, List.filter_cons_of_neg (by simp [hsome])]
      simp only [List.filter_nil, List.filterMap_cons, hsome, List.filterMap_nil]
      rfl
    have hboot := State.failCore_boot (s := t) (h := i.val / 9) (by rwa [htb]) (i.val % 9)
    rw [htb] at hboot
    refine ⟨_, he, ?_, ?_, ?_⟩ <;> rw [hboot]
    exact State.no_cause hb

/-- Memory after the power-on fill: what `keep` bounds of Hearth SRAM, and all before the Cellar and all fabric RAM, is zero. -/
def filledMem (m : Memory) (keep : Nat) : Memory := ((m.fill 0 cellarBase).fill hearthBase keep).fill bramBase (bramBase + 16 * bramSize)

theorem filledMem_zero (m : Memory) {keep a : Nat} (h : a < cellarBase ∨ hearthBase ≤ a ∧ a < keep ∨ bramBase ≤ a ∧ a < bramBase + 16 * bramSize) :
    (filledMem m keep).data.get a = 0 := by
  by_cases h3 : bramBase ≤ a ∧ a < bramBase + 16 * bramSize
  · exact Memory.fill_data_in _ h3.1 h3.2
  rw [filledMem, (Memory.fill_out _ h3).1]
  by_cases h2 : hearthBase ≤ a ∧ a < keep
  · exact Memory.fill_data_in _ h2.1 h2.2
  rw [(Memory.fill_out _ h2).1]
  exact Memory.fill_data_in _ (Nat.zero_le a) ((h.resolve_right fun h => h.elim h2 h3))

theorem poweronFillEnd_fills : ∀ (s : State), s.booting = true → s.boot.tested = true → s.boot.filled = false → ∃ t, exec .poweronFillEnd s = .next t ∧ t.boot.filled = true ∧
    t.rd R.HEARTH_BOOT_STATUS_STEP = max 6 (s.rd R.HEARTH_BOOT_STATUS_STEP) ∧ t.ms.lines = ⟨[]⟩ ∧
    (∀ a, (a < cellarBase ∨ hearthBase ≤ a ∧ a < hearthBase + 0x40000 ∨ bramBase ≤ a ∧ a < bramBase + 16 * bramSize) → t.ms.mem.data.get a = 0) ∧
    (s.bit R.HEARTH_STRAPS_RECOVERY = true → ∀ a, hearthBase + 0x40000 ≤ a → a < hearthBase + hearthSize → t.ms.mem.data.get a = s.ms.mem.data.get a) := by
  intro s hb ht hf
  let keep := if s.recovering then hearthBase + 0x40000 else hearthBase + hearthSize
  let t := (({ s.setMem (filledMem s.ms.mem keep) with ms := { (s.setMem (filledMem s.ms.mem keep)).ms with lines := ⟨[]⟩ } } : State).setBoot
    (fun b => { b with filled := true }))
  have he : exec .poweronFillEnd s = .next (t.stepTo 6) := if_neg (by simp [hb, ht, hf])
  have hms : (t.stepTo 6).ms = { s.ms with mem := filledMem s.ms.mem keep, lines := ⟨[]⟩ } := State.stepTo_ms _ _
  refine ⟨_, he, by rw [State.stepTo_boot]; rfl, State.stepTo_step _ (by decide), by rw [hms], fun a ha => ?_, fun hr a h1 h2 => ?_⟩
  · rw [hms]
    refine filledMem_zero _ (ha.imp_right (Or.imp_left fun h => ⟨h.1, lt_of_lt_of_le h.2 ?_⟩))
    simp only [keep]
    split
    · exact le_refl _
    · decide
  · have hk : keep = hearthBase + 0x40000 := if_pos hr
    rw [hms, hk]
    simp only [hearthBase, hearthSize] at h1 h2
    rw [filledMem, (Memory.fill_out _ (by simp only [bramBase, bramSize]; omega)).1, (Memory.fill_out _ (by simp only [hearthBase]; omega)).1,
      (Memory.fill_out _ (by simp only [cellarBase]; omega)).1]

theorem lbistEnd_fails : ∀ (s : State) (n : Fin 256), s.booting = true → s.boot.filled = true → s.boot.lbist = false →
    ∃ t, exec (.lbistEnd [n] []) s = .next t ∧ t.boot.crierDue = some (6, n.val) := by
  intro s n hb hf hl
  have he : exec (.lbistEnd [n] []) s = .next (((s.setBoot (fun b => { b with lbist := true })).stepTo 9).crier 6 n.val) := if_neg (by simp [hb, hf, hl])
  refine ⟨_, he, State.crier_first ?_ _ _⟩
  rw [State.stepTo_boot]
  exact State.no_cause hb

theorem lbistEnd_passes : ∀ (s : State), s.booting = true → s.boot.filled = true → s.boot.lbist = false → ∃ t, exec (.lbistEnd [] []) s = .next t ∧ t.boot.lbist = true ∧
    t.boot.crierDue = none ∧ t.rd R.HEARTH_BOOT_STATUS_STEP = max 9 (s.rd R.HEARTH_BOOT_STATUS_STEP) := by
  intro s hb hf hl
  have he : exec (.lbistEnd [] []) s = .next ((s.setBoot (fun b => { b with lbist := true })).stepTo 9) := if_neg (by simp [hb, hf, hl])
  refine ⟨_, he, ?_, ?_, State.stepTo_step _ (by decide)⟩
  · rw [State.stepTo_boot]
    rfl
  · rw [State.stepTo_boot]
    exact State.no_cause hb

theorem flashSlotReadEnd_reads : ∀ (s : State) (b : List Nat), s.booting = true → s.boot.filled = true → s.boot.verified = false → s.boot.slot = none →
    s.bit R.HEARTH_STRAPS_RECOVERY = false → s.rd R.HEARTH_STRAPS_BOOT ≠ 2 → s.boot.tried.length < 2 → 144 ≤ b.length →
    (le32 36 b).getD 0 0 = 0x4D494B53 → (le32 36 b).getD 4 0 ≤ 196608 → ∃ t, exec (.flashSlotReadEnd b) s = .next t ∧
      t.boot.slot = some (b.take 144, fitLen 96 (b.drop (144 + (le32 36 b).getD 4 0))) ∧
      sameMemory s t (fun a => hearthBase ≤ a ∧ a < hearthBase + ((le32 36 b).getD 4 0 + 7) / 8 * 8) := by
  intro s b hb hf hv hslot hrec hboot htried hlen hmagic hbody
  have hh : fitLen 144 b = b.take 144 := fitLen_of_le hlen
  have hw : le32 36 (b.take 144) = le32 36 b := le32_take 36 b
  have hrec' : s.recovering = false := hrec
  let t := s.setBoot (fun x => { x with slot := some (b.take 144, fitLen 96 (b.drop (144 + (le32 36 b).getD 4 0))) })
  let body := fitLen ((le32 36 b).getD 4 0) (b.drop 144)
  have he : exec (.flashSlotReadEnd b) s = .next (t.hearthWrite 0 body) := by
    show execFlashSlotReadEnd b s = _
    unfold execFlashSlotReadEnd
    rw [if_neg (by simp [hb, hf, hv, hslot, hrec', hboot, htried])]
    dsimp only
    rw [hh, hw, if_pos ⟨hmagic, hbody⟩]
  refine ⟨_, he, ?_, ?_⟩
  · rw [State.hearthWrite_boot]
    rfl
  · have h := t.hearthWrite_out body
    rw [fitLen_length] at h
    exact h

theorem mayVerify_runs {s : State} (h : mayVerify s) :
    ¬ ((!s.booting) = true ∨ s.boot.verified = true ∨ s.strongSt ≠ 1 ∨ (!(s.boot.lbist || (s.boot.filled && s.bit R.HEARTH_BOOT_STATUS_FAST))) = true) := by
  obtain ⟨h1, h2, h3, h4⟩ := h
  rcases h4 with h4 | ⟨h4, h5⟩ <;> simp [*]

theorem bootImageVerify_recovers_ok {s : State} (hmay : mayVerify s) (hrec : s.recovering = true) {h : List Nat} {body : List (Nat × Bool)}
    (himg : s.recoveryImage = (h, body, none)) :
    exec .bootImageVerify s = .next ((((s.stepTo 10).hearthWrite 0 (byteVals body)).runImage h).bootReady 2) := by
  refine (if_neg (mayVerify_runs hmay)).trans ((if_pos hrec).trans ?_)
  obtain ⟨img, hi⟩ : ∃ x, x = s.recoveryImage := ⟨_, rfl⟩
  rw [← hi] at himg ⊢
  rw [himg]

theorem bootImageVerify_recovers_bad {s : State} (hmay : mayVerify s) (hrec : s.recovering = true) {h : List Nat} {body : List (Nat × Bool)} {r : Nat}
    (himg : s.recoveryImage = (h, body, some r)) : exec .bootImageVerify s = .next ((s.stepTo 10).crier 10 (r * 2 ^ 16)) := by
  refine (if_neg (mayVerify_runs hmay)).trans ((if_pos hrec).trans ?_)
  obtain ⟨img, hi⟩ : ∃ x, x = s.recoveryImage := ⟨_, rfl⟩
  rw [← hi] at himg ⊢
  rw [himg]

theorem bootImageVerify_parks {s : State} (hmay : mayVerify s) (hrec : ¬ s.recovering = true) (hboot : s.rd R.HEARTH_STRAPS_BOOT = 2) :
    exec .bootImageVerify s = .next ((s.stepTo 10).crier 11 0) :=
  (if_neg (mayVerify_runs hmay)).trans ((if_neg hrec).trans (if_pos hboot))

section
/-! The three cases of an image in a slot. Its check is made a variable before the match on its result is reduced: the kernel
would evaluate it. -/

variable {s : State} {h sig : List Nat} (hmay : mayVerify s) (hrec : ¬ s.recovering = true) (hboot : s.rd R.HEARTH_STRAPS_BOOT ≠ 2)
  (hslot : s.boot.slot = some (h, sig))
include hmay hrec hboot hslot

theorem bootImageVerify_runs (hA : s.rejects h (s.hearthRead 0 (bodyLen h)) sig = none) :
    exec .bootImageVerify s = .next (((s.stepTo 10).runImage h).bootReady ((s.boot.tried.length + s.rd R.HEARTH_STRAPS_BOOT) % 2)) := by
  refine (if_neg (mayVerify_runs hmay)).trans ((if_neg hrec).trans ((if_neg hboot).trans ?_))
  obtain ⟨rejects, hr⟩ : ∃ f, f = s.rejects := ⟨_, rfl⟩
  rw [← hr] at hA ⊢
  simp only [hslot, hA]

theorem bootImageVerify_first {r : Nat} (hA : s.rejects h (s.hearthRead 0 (bodyLen h)) sig = some r) (htried : s.boot.tried = []) :
    exec .bootImageVerify s = .next ((s.stepTo 10).setBoot (fun b => { b with slot := none, tried := b.tried ++ [r] })) := by
  refine (if_neg (mayVerify_runs hmay)).trans ((if_neg hrec).trans ((if_neg hboot).trans ?_))
  obtain ⟨rejects, hr⟩ : ∃ f, f = s.rejects := ⟨_, rfl⟩
  rw [← hr] at hA ⊢
  simp only [hslot, hA, htried]

theorem bootImageVerify_later {r r0 : Nat} {l : List Nat} (hA : s.rejects h (s.hearthRead 0 (bodyLen h)) sig = some r) (htried : s.boot.tried = r0 :: l) :
    exec .bootImageVerify s = .next (((s.stepTo 10).setBoot (fun b => { b with slot := none, tried := b.tried ++ [r] })).crier 10
      (if (s.boot.tried.length + s.rd R.HEARTH_STRAPS_BOOT) % 2 = 1 then r0 * 256 + r else r * 256 + r0)) := by
  refine (if_neg (mayVerify_runs hmay)).trans ((if_neg hrec).trans ((if_neg hboot).trans ?_))
  obtain ⟨rejects, hr⟩ : ∃ f, f = s.rejects := ⟨_, rfl⟩
  rw [← hr] at hA ⊢
  simp only [hslot, hA, htried]

end

theorem not_recovering {s : State} (h : s.bit R.HEARTH_STRAPS_RECOVERY = false) : ¬ s.recovering = true := by simp [State.recovering, h]

theorem stepTo_due {s : State} (hmay : mayVerify s) (n : Nat) : (s.stepTo n).boot.crierDue = none := by
  rw [State.stepTo_boot]
  exact State.no_cause hmay.1

theorem bootImageVerify_slot : ∀ (s : State) (h sig : List Nat) (n : Nat), mayVerify s → s.bit R.HEARTH_STRAPS_RECOVERY = false → s.rd R.HEARTH_STRAPS_BOOT ≠ 2 →
    s.boot.slot = some (h, sig) → n = (s.boot.tried.length + s.rd R.HEARTH_STRAPS_BOOT) % 2 →
    (match s.rejects h (s.hearthRead 0 (bodyLen h)) sig with
     | none => ∃ t, exec .bootImageVerify s = .next t ∧ imageRuns t h n
     | some r => ∃ t, exec .bootImageVerify s = .next t ∧ t.boot.slot = none ∧ t.boot.verified = false ∧ t.boot.tried = s.boot.tried ++ [r] ∧
       (∀ r0, s.boot.tried = [r0] → t.boot.crierDue = some (10, if n = 1 then r0 * 256 + r else r * 256 + r0)) ∧
       (s.boot.tried = [] → t.boot.crierDue = none)) := by
  intro s h sig n hmay hrec hboot hslot hn
  have hrec' := not_recovering hrec
  have hdue : (s.stepTo 10).boot = s.boot := State.stepTo_boot _ _
  have hruns := bootImageVerify_runs hmay hrec' hboot hslot
  have hfirst (r : Nat) := bootImageVerify_first (r := r) hmay hrec' hboot hslot
  have hlater (r r0 : Nat) (l : List Nat) := bootImageVerify_later (r := r) (r0 := r0) (l := l) hmay hrec' hboot hslot
  rw [← hn] at hruns hlater
  generalize s.rejects h (s.hearthRead 0 (bodyLen h)) sig = A at hruns hfirst hlater ⊢
  cases A with
  | none => exact ⟨_, hruns rfl, State.runImage_runs _ _ _ (by omega)⟩
  | some r =>
    dsimp only
    replace hfirst := hfirst r rfl
    replace hlater := fun r0 l => hlater r r0 l rfl
    have hu : ((s.stepTo 10).setBoot (fun b => { b with slot := none, tried := b.tried ++ [r] })).boot =
        { s.boot with slot := none, tried := s.boot.tried ++ [r] } := by rw [State.setBoot_boot, hdue]
    generalize (s.stepTo 10).setBoot (fun b => { b with slot := none, tried := b.tried ++ [r] }) = u at hu hfirst hlater
    have hnone : u.boot.crierDue = none := by
      rw [hu]
      exact State.no_cause hmay.1
    have hc (d : Nat) : (u.crier 10 d).boot = { u.boot with crierDue := u.boot.crierDue.or (some (10, d)) } := rfl
    generalize s.boot.tried = l at hfirst hlater hu ⊢
    cases l with
    | nil =>
      refine ⟨_, hfirst rfl, ?_, ?_, ?_, (fun r0 h0 => nomatch h0), (fun _ => hnone)⟩ <;> rw [hu]
      exact hmay.2.1
    | cons r0 l =>
      refine ⟨_, hlater r0 l rfl, ?_, ?_, ?_, (fun r1 h1 => ?_), (fun h1 => nomatch h1)⟩
      · rw [hc, hu]
      · rw [hc, hu]
        exact hmay.2.1
      · rw [hc, hu]
      · rw [State.crier_first hnone, (List.cons.inj h1).1]

theorem bootImageVerify_recovers : ∀ (s : State) (h : List Nat) (body : List (Nat × Bool)) (r : Option Nat), mayVerify s → s.bit R.HEARTH_STRAPS_RECOVERY = true →
    s.recoveryImage = (h, body, r) → (match r with
      | none => ∃ t, exec .bootImageVerify s = .next t ∧ imageRuns t h 2
      | some r => ∃ t, exec .bootImageVerify s = .next t ∧ t.boot.crierDue = some (10, r * 2 ^ 16)) := by
  intro s h body r hmay hrec himg
  cases r with
  | none => exact ⟨_, bootImageVerify_recovers_ok hmay hrec himg, State.runImage_runs _ _ _ (by decide)⟩
  | some r => exact ⟨_, bootImageVerify_recovers_bad hmay hrec himg, State.crier_first (stepTo_due hmay 10) _ _⟩

theorem bootImageVerify_parked : ∀ (s : State), mayVerify s → s.bit R.HEARTH_STRAPS_RECOVERY = false → s.rd R.HEARTH_STRAPS_BOOT = 2 →
    ∃ t, exec .bootImageVerify s = .next t ∧ t.boot.crierDue = some (11, 0) := by
  intro s hmay hrec hboot
  exact ⟨_, bootImageVerify_parks hmay (not_recovering hrec) hboot, State.crier_first (stepTo_due hmay 10) _ _⟩

theorem hbmTrainingEnd_trains : ∀ (s : State) (k : Fin 2) (n : Fin 256), s.booting = true → s.boot.verified = true → ∃ t, exec (.hbmTrainingEnd k (some n)) s = .next t ∧
    t.rd (R.CELLAR_STACK_STATUS_TRAINED k) = 1 ∧ t.rd (R.CELLAR_STACK_STATUS_LANE_REPAIRS k) = n ∧ t.boot.crierDue = none := by
  intro s k n hb hv
  let t := (s.wr (R.CELLAR_STACK_STATUS_TRAINED k.val) 1).wr (R.CELLAR_STACK_STATUS_LANE_REPAIRS k.val) n.val
  have he : exec (.hbmTrainingEnd k (some n)) s =
      .next (if t.bit (R.CELLAR_STACK_STATUS_TRAINED 0) ∧ t.bit (R.CELLAR_STACK_STATUS_TRAINED 1) then t.stepTo 12 else t) := if_neg (by simp [hb, hv])
  have h1 : t.rd (R.CELLAR_STACK_STATUS_TRAINED k) = 1 :=
    (State.wr_rd_ne _ _ _ _ (by simp only [Fld.key, R.CELLAR_STACK_STATUS_TRAINED, R.CELLAR_STACK_STATUS_LANE_REPAIRS, ne_eq]; omega)).trans (State.wr_rd_same _ _ _)
  have h2 : t.rd (R.CELLAR_STACK_STATUS_LANE_REPAIRS k) = n := (State.wr_rd_same _ _ _).trans (Nat.mod_eq_of_lt n.isLt)
  have h3 : t.boot.crierDue = none := by
    simp only [t, State.wr_boot]
    exact State.no_cause hb
  generalize t = t at he h1 h2 h3
  by_cases hc : t.bit (R.CELLAR_STACK_STATUS_TRAINED 0) = true ∧ t.bit (R.CELLAR_STACK_STATUS_TRAINED 1) = true
  · rw [if_pos hc] at he
    refine ⟨_, he, ?_, ?_, by rw [State.stepTo_boot, h3]⟩
    · rw [State.stepTo_rd_ne _ _ (by simp only [Fld.key, R.CELLAR_STACK_STATUS_TRAINED, R.HEARTH_BOOT_STATUS_STEP, ne_eq]; omega), h1]
    · rw [State.stepTo_rd_ne _ _ (by simp only [Fld.key, R.CELLAR_STACK_STATUS_LANE_REPAIRS, R.HEARTH_BOOT_STATUS_STEP, ne_eq]; omega), h2]
  · rw [if_neg hc] at he
    exact ⟨_, he, h1, h2, h3⟩

theorem hbmTrainingEnd_fails : ∀ (s : State) (k : Fin 2), s.booting = true → s.boot.verified = true → ∃ t, exec (.hbmTrainingEnd k none) s = .next t ∧
    t.boot.crierDue = some (15, k.val) := by
  intro s k hb hv
  have he : exec (.hbmTrainingEnd k none) s = .next (s.crier 15 k.val) := if_neg (by simp [hb, hv])
  exact ⟨_, he, State.crier_first (State.no_cause hb) _ _⟩

theorem cellarFillEnd_fills : ∀ (s : State), s.inCrier = false → s.bit (R.CELLAR_STACK_STATUS_TRAINED 0) = true → s.bit (R.CELLAR_STACK_STATUS_TRAINED 1) = true →
    ∃ t, exec .cellarFillEnd s = .next t ∧ t.rd (R.CELLAR_STACK_STATUS_FILLED 0) = 1 ∧ t.rd (R.CELLAR_STACK_STATUS_FILLED 1) = 1 ∧
      (∀ a, cellarBase ≤ a → a < cellarEnd → t.ms.mem.data.get a = 0) ∧ sameMemory s t (fun a => cellarBase ≤ a ∧ a < cellarEnd) := by
  intro s hc h0 h1
  let t := ((s.setMem (s.ms.mem.fill cellarBase cellarEnd)).wr (R.CELLAR_STACK_STATUS_FILLED 0) 1).wr (R.CELLAR_STACK_STATUS_FILLED 1) 1
  have he : exec .cellarFillEnd s = .next (t.stepTo 13) := if_neg (by simp [hc, h0, h1])
  have hms : (t.stepTo 13).ms.mem = s.ms.mem.fill cellarBase cellarEnd := by
    rw [State.stepTo_ms]
    simp only [t, State.wr_ms]
    rfl
  refine ⟨_, he, ?_, ?_, fun a ha ha' => ?_, fun a ha => ?_⟩
  · rw [State.stepTo_rd_ne _ _ (by decide)]
    exact (State.wr_rd_ne _ _ _ _ (by decide)).trans (State.wr_rd_same _ _ _)
  · rw [State.stepTo_rd_ne _ _ (by decide)]
    exact State.wr_rd_same _ _ _
  · rw [hms]
    exact Memory.fill_data_in _ ha ha'
  · rw [hms]
    exact Memory.fill_out _ ha

theorem bootTimeout_decides : ∀ (s : State) (a : Nat), s.boot.t0 = some a → s.booting = true → s.boot.verified = false → a + 880 * 65536000000 ≤ s.stp.now →
    ∃ t, exec .bootTimeout s = .next t ∧ t.boot.crierDue = some (12, s.rd R.HEARTH_BOOT_STATUS_STEP) := by
  intro s a h0 hb hv hnow
  have he : exec .bootTimeout s = .next (s.crier 12 (s.rd R.HEARTH_BOOT_STATUS_STEP)) := by
    show execBootTimeout s = _
    unfold execBootTimeout
    rw [h0]
    exact if_pos ⟨hb, by simp [hv], hnow⟩
  exact ⟨_, he, State.crier_first (State.no_cause hb) _ _⟩

theorem hearthRelease_foreign : ∀ (s : State) (mid : Mid) (v : Word), mid ≠ 0xB1 → exec (.hearthRelease mid v) s = .next { s with ans := abortedBy 7 } := fun _ _ _ h => if_pos h

/-! ### The release of cores -/

theorem physOf_congr {s t : State} (e : t.hml.coreMap = s.hml.coreMap) (h c : Nat) : t.physOf h c = s.physOf h c := by rw [State.physOf, State.physOf, e]

/-- One Hall core is released. -/
def releaseHall (vec : Nat) (t : State) (k : Nat) : State :=
  (t.releaseCore (144 + k) vec).wr R.HEARTH_RELEASE_HALL (t.rd R.HEARTH_RELEASE_HALL + 2 ^ k)

/-- One logical core of a hamlet is released, at its half 0. -/
def releaseSeat (h : Nat) (t : State) (c : Nat) : State := (t.releaseLogical h c).wr (R.HAMLET_IMEM_STATUS_ACTIVE h c) 0

/-- One hamlet is released. -/
def releaseHam (t : State) (h : Nat) : State := (t.releaseHamlet h).wr R.HEARTH_RELEASE_HAMLET (t.rd R.HEARTH_RELEASE_HAMLET + 2 ^ h)

theorem coreStarts_congr {s t : State} {k pc : Nat} (e : t.core k = s.core k) (h : coreStarts s k pc) : coreStarts t k pc := by rwa [coreStarts, e]

section
variable (t : State) (h c : Nat)

theorem releaseSeat_cores : (releaseSeat h t c).cores = t.cores.set (9 * h + t.physOf h c) { run := .running, pc := 0, since := t.stp.now } := by
  rw [releaseSeat, State.wr_cores, State.releaseLogical, State.modRcore_cores]
  rfl

theorem releaseSeat_coreMap : (releaseSeat h t c).hml.coreMap = t.hml.coreMap := by
  rw [releaseSeat, State.wr_hml, State.releaseLogical, State.modRcore, State.setRcore_hml]
  rfl

theorem releaseSeat_rd {h c : Nat} (hh : h < 16) (hc : c < 8) {f : Fld} (hf : 0x40000000 * 64 ≤ f.key ∧ f.key < 0x40001000 * 64) :
    (releaseSeat h t c).rd f = t.rd f := by
  rw [releaseSeat, State.wr_rd_ne _ _ _ _ (by simp only [Fld.key, R.HAMLET_IMEM_STATUS_ACTIVE] at hf ⊢; omega), State.releaseLogical, State.modRcore,
    State.setRcore_writes _ hh (by omega) _ _ (by simp only [rcoreAddrs, addrIn]; omega)]
  rfl

end

/-- What a released hamlet leaves: its eight seats start at 0, a core that starts elsewhere still does, and the Hearth's registers and
the core map are as they were. -/
structure SeatsReleased (h : Nat) (l : List Nat) (s t : State) : Prop where
  starts : ∀ c ∈ l, coreStarts t (9 * h + s.physOf h c) 0
  still : ∀ k pc, (pc = 0 ∨ ∀ c ∈ l, k ≠ 9 * h + s.physOf h c) → coreStarts s k pc → coreStarts t k pc
  map : t.hml.coreMap = s.hml.coreMap
  regs : ∀ f : Fld, 0x40000000 * 64 ≤ f.key ∧ f.key < 0x40001000 * 64 → t.rd f = s.rd f

theorem releaseSeats_released {h : Nat} (hh : h < 16) : ∀ (l : List Nat) (_ : ∀ c ∈ l, c < 8) (s : State),
    SeatsReleased h l s (l.foldl (releaseSeat h) s)
  | [], _, s => ⟨(fun _ hc => nomatch hc), fun _ _ _ hk => hk, rfl, fun _ _ => rfl⟩
  | c :: l, hl, s => by
    have ih := releaseSeats_released hh l (fun x hx => hl x (.tail _ hx)) (releaseSeat h s c)
    have hphys (x : Nat) : (releaseSeat h s c).physOf h x = s.physOf h x := physOf_congr (releaseSeat_coreMap s h c) h x
    have hcore : coreStarts (releaseSeat h s c) (9 * h + s.physOf h c) 0 := by
      have e : (releaseSeat h s c).core (9 * h + s.physOf h c) = { run := .running, pc := 0, since := s.stp.now } := by
        rw [State.core, releaseSeat_cores, Tab.get_set_same]
      rw [coreStarts, e]
      exact ⟨rfl, rfl⟩
    have hkeep (k pc : Nat) (hk : pc = 0 ∨ k ≠ 9 * h + s.physOf h c) (h1 : coreStarts s k pc) : coreStarts (releaseSeat h s c) k pc := by
      by_cases e : k = 9 * h + s.physOf h c
      · obtain rfl := hk.resolve_right (fun hne => hne e)
        rwa [e]
      · refine coreStarts_congr ?_ h1
        rw [State.core, releaseSeat_cores, Tab.get_set_ne _ _ _ _ e]
        rfl
    refine ⟨fun x hx => ?_, fun k pc hk h1 => ?_, ih.map.trans (releaseSeat_coreMap s h c),
      fun f hf => (ih.regs f hf).trans (releaseSeat_rd s hh (hl c (.head _)) hf)⟩
    · rcases List.mem_cons.mp hx with rfl | hx
      · exact ih.still _ 0 (.inl rfl) hcore
      · rw [← hphys]
        exact ih.starts x hx
    · refine ih.still k pc (hk.imp_right fun hk x hx => ?_) (hkeep k pc (hk.imp_right fun hk => hk c (.head _)) h1)
      rw [hphys]
      exact hk x (.tail _ hx)

/-- What released hamlets leave, and the mark of each in HEARTH_RELEASE. -/
structure HamletsReleased (l : List Nat) (s t : State) : Prop where
  starts : ∀ h ∈ l, ∀ c < 8, coreStarts t (9 * h + s.physOf h c) 0
  still : ∀ k pc, (∀ h < 16, ∀ c < 8, k ≠ 9 * h + s.physOf h c) → coreStarts s k pc → coreStarts t k pc
  zero : ∀ k, coreStarts s k 0 → coreStarts t k 0
  map : t.hml.coreMap = s.hml.coreMap
  hall : t.rd R.HEARTH_RELEASE_HALL = s.rd R.HEARTH_RELEASE_HALL
  marks : ∀ j < 16, nbit (t.rd R.HEARTH_RELEASE_HAMLET) j = (decide (j ∈ l) || nbit (s.rd R.HEARTH_RELEASE_HAMLET) j)

/-- A mark is added to a 16-bit field of marks. -/
theorem nbit_mark {n k : Nat} (j : Nat) (hk : nbit n k = false) (hj : j < 16) :
    nbit ((n + 2 ^ k) % 2 ^ 16) j = (decide (j = k) || nbit n j) := by
  rw [nbit_eq_testBit, nbit_eq_testBit, Nat.testBit_mod_two_pow, decide_eq_true hj, Bool.true_and]
  exact testBit_add_two_pow k j (by rwa [← nbit_eq_testBit])

theorem releaseHam_released (s : State) {h : Nat} (hh : h < 16) : SeatsReleased h (List.range 8) s (s.releaseHamlet h) := by
  have hs := releaseSeats_released hh (List.range 8) (fun c hc => List.mem_range.mp hc) s
  have he : s.releaseHamlet h =
      (let t := (List.range 8).foldl (releaseSeat h) s
       { t with hml := { t.hml with released := h :: t.hml.released.filter (· != h) } }) := rfl
  rw [he]
  generalize (List.range 8).foldl (releaseSeat h) s = t at hs
  exact ⟨hs.starts, hs.still, hs.map, hs.regs⟩

theorem releaseHams_released : ∀ (l : List Nat) (_ : ∀ h ∈ l, h < 16) (_ : l.Nodup) (s : State) (_ : ∀ h ∈ l, nbit (s.rd R.HEARTH_RELEASE_HAMLET) h = false),
    HamletsReleased l s (l.foldl releaseHam s)
  | [], _, _, s, _ => ⟨(fun _ hh => nomatch hh), fun _ _ _ hk => hk, fun _ hk => hk, rfl, rfl, fun _ _ => by simp⟩
  | h :: l, hl, hn, s, hclear => by
    obtain ⟨hnot, hn⟩ := List.nodup_cons.mp hn
    have hr := releaseHam_released s (hl h (.head _))
    have hcore (k : Nat) : (releaseHam s h).core k = (s.releaseHamlet h).core k := by rw [State.core, State.core, releaseHam, State.wr_cores]
    have hmap : (releaseHam s h).hml.coreMap = s.hml.coreMap := by rw [releaseHam, State.wr_hml, hr.map]
    have hphys (x c : Nat) : (releaseHam s h).physOf x c = s.physOf x c := physOf_congr hmap x c
    have hmark (j : Nat) (hj : j < 16) : nbit ((releaseHam s h).rd R.HEARTH_RELEASE_HAMLET) j = (decide (j = h) || nbit (s.rd R.HEARTH_RELEASE_HAMLET) j) := by
      rw [releaseHam, State.wr_rd_same]
      exact nbit_mark j (hclear h (.head _)) hj
    have hhall : (releaseHam s h).rd R.HEARTH_RELEASE_HALL = s.rd R.HEARTH_RELEASE_HALL :=
      (State.wr_rd_ne _ _ _ _ (by decide)).trans (hr.regs _ (by decide))
    have hzero (k : Nat) (h1 : coreStarts s k 0) : coreStarts (releaseHam s h) k 0 := coreStarts_congr (hcore k) (hr.still k 0 (.inl rfl) h1)
    have hstarts (c : Nat) (hc : c < 8) : coreStarts (releaseHam s h) (9 * h + s.physOf h c) 0 :=
      coreStarts_congr (hcore _) (hr.starts c (List.mem_range.mpr hc))
    have hstill (k pc : Nat) (hk : ∀ c < 8, k ≠ 9 * h + s.physOf h c) (h1 : coreStarts s k pc) : coreStarts (releaseHam s h) k pc :=
      coreStarts_congr (hcore k) (hr.still k pc (.inr fun c hc => hk c (List.mem_range.mp hc)) h1)
    rw [List.foldl_cons]
    generalize releaseHam s h = t at hmap hphys hmark hhall hzero hstarts hstill
    have ih := releaseHams_released l (fun x hx => hl x (.tail _ hx)) hn t (fun x hx => by
      rw [hmark x (hl x (.tail _ hx)), hclear x (.tail _ hx), decide_eq_false (ne_of_mem_of_not_mem hx hnot)]
      rfl)
    refine ⟨fun x hx c hc => ?_, fun k pc hk h1 => ?_, fun k h1 => ih.zero k (hzero k h1), ih.map.trans hmap, ih.hall.trans hhall, fun j hj => ?_⟩
    · rcases List.mem_cons.mp hx with rfl | hx
      · exact ih.zero _ (hstarts c hc)
      · rw [← hphys]
        exact ih.starts x hx c hc
    · refine ih.still k pc (fun x hx c hc => ?_) (hstill k pc (hk h (hl h (.head _))) h1)
      rw [hphys]
      exact hk x hx c hc
    · rw [ih.marks j hj, hmark j hj]
      simp only [List.mem_cons, Bool.decide_or, ← Bool.or_assoc, Bool.or_comm]

/-- What released Hall cores leave, and the mark of each in HEARTH_RELEASE. -/
structure HallReleased (vec : Nat) (l : List Nat) (s t : State) : Prop where
  starts : ∀ k ∈ l, coreStarts t (144 + k) vec
  still : ∀ k, coreStarts s (144 + k) vec → coreStarts t (144 + k) vec
  map : t.hml.coreMap = s.hml.coreMap
  hamlet : t.rd R.HEARTH_RELEASE_HAMLET = s.rd R.HEARTH_RELEASE_HAMLET
  marks : ∀ j < 16, nbit (t.rd R.HEARTH_RELEASE_HALL) j = (decide (j ∈ l) || nbit (s.rd R.HEARTH_RELEASE_HALL) j)

theorem releaseHall_core_same (vec : Nat) (s : State) (k : Nat) : coreStarts (releaseHall vec s k) (144 + k) vec := by
  have e : (releaseHall vec s k).core (144 + k) = { run := .running, pc := vec, since := s.stp.now } := by
    rw [State.core, releaseHall, State.wr_cores]
    exact State.setCore_core _ _ _
  rw [coreStarts, e]
  exact ⟨rfl, rfl⟩

theorem releaseHall_still (vec : Nat) (s : State) (j k : Nat) (h : coreStarts s (144 + k) vec) : coreStarts (releaseHall vec s j) (144 + k) vec := by
  by_cases e : k = j
  · rw [e]
    exact releaseHall_core_same vec s j
  · refine coreStarts_congr ?_ h
    rw [State.core, releaseHall, State.wr_cores]
    exact State.setCore_core_ne _ _ (by omega)

theorem releaseHalls_released (vec : Nat) : ∀ (l : List Nat) (_ : ∀ k ∈ l, k < 16) (_ : l.Nodup) (s : State)
    (_ : ∀ k ∈ l, nbit (s.rd R.HEARTH_RELEASE_HALL) k = false), HallReleased vec l s (l.foldl (releaseHall vec) s)
  | [], _, _, s, _ => ⟨(fun _ hh => nomatch hh), fun _ hk => hk, rfl, rfl, fun _ _ => by simp⟩
  | k :: l, hl, hn, s, hclear => by
    obtain ⟨hnot, hn⟩ := List.nodup_cons.mp hn
    have hmark (j : Nat) (hj : j < 16) : nbit ((releaseHall vec s k).rd R.HEARTH_RELEASE_HALL) j = (decide (j = k) || nbit (s.rd R.HEARTH_RELEASE_HALL) j) := by
      rw [releaseHall, State.wr_rd_same]
      exact nbit_mark j (hclear k (.head _)) hj
    rw [List.foldl_cons]
    have ih := releaseHalls_released vec l (fun x hx => hl x (.tail _ hx)) hn (releaseHall vec s k) (fun x hx => by
      rw [hmark x (hl x (.tail _ hx)), hclear x (.tail _ hx), decide_eq_false (ne_of_mem_of_not_mem hx hnot)]
      rfl)
    have hmap : (releaseHall vec s k).hml.coreMap = s.hml.coreMap := by
      rw [releaseHall, State.wr_hml]
      rfl
    have hham : (releaseHall vec s k).rd R.HEARTH_RELEASE_HAMLET = s.rd R.HEARTH_RELEASE_HAMLET := State.wr_rd_ne _ _ _ _ (by decide)
    refine ⟨fun x hx => ?_, fun x h1 => ih.still x (releaseHall_still vec s k x h1), ih.map.trans hmap, ih.hamlet.trans hham, fun j hj => ?_⟩
    · rcases List.mem_cons.mp hx with rfl | hx
      · exact ih.still _ (releaseHall_core_same vec s x)
      · exact ih.starts x hx
    · rw [ih.marks j hj, hmark j hj]
      simp only [List.mem_cons, Bool.decide_or, ← Bool.or_assoc, Bool.or_comm]

/-- The bits of half `lo` of a word that are set and not yet in `done`. -/
def newMarks (v : Word) (lo done : Nat) : List Nat := (List.range 16).filter (fun k => bitOf v (lo + k) && !nbit done k)

theorem mem_newMarks {v : Word} {lo done k : Nat} : k ∈ newMarks v lo done ↔ k < 16 ∧ bitOf v (lo + k) = true ∧ nbit done k = false := by
  simp [newMarks, and_assoc]

theorem newMarks_nodup (v : Word) (lo done : Nat) : (newMarks v lo done).Nodup := List.nodup_range.filter _

/-- A mark that a word asks for stands afterwards. -/
theorem marked {v : Word} {lo done k : Nat} (hk : k < 16) (hv : bitOf v (lo + k) = true) : (decide (k ∈ newMarks v lo done) || nbit done k) = true := by
  cases hd : nbit done k
  · rw [decide_eq_true (mem_newMarks.mpr ⟨hk, hv, hd⟩)]
    rfl
  · exact Bool.or_true _

theorem newMarks_ne_nil {v : Word} (h : v.toNat ≠ 0) : ¬ (newMarks v 0 0 = [] ∧ newMarks v 16 0 = []) := by
  rintro ⟨h1, h2⟩
  suffices hz : v = 0 from h (by rw [hz]; rfl)
  apply BitVec.eq_of_getLsbD_eq
  intro i hi
  rw [show (0 : Word).getLsbD i = false from BitVec.getLsbD_zero]
  by_contra hb
  have hb' : bitOf v i = true := Bool.eq_true_of_not_eq_false hb
  have hz (k : Nat) : nbit 0 k = false := by simp [nbit]
  by_cases hlt : i < 16
  · have : i ∈ newMarks v 0 0 := mem_newMarks.mpr ⟨hlt, by rwa [Nat.zero_add], hz i⟩
    rw [h1] at this
    exact nomatch this
  · have : i - 16 ∈ newMarks v 16 0 := mem_newMarks.mpr ⟨by omega, by rwa [show 16 + (i - 16) = i by omega], hz _⟩
    rw [h2] at this
    exact nomatch this

theorem hearthRelease_eq {s : State} (hcel : ∀ k < 2, s.bit (R.CELLAR_STACK_STATUS_TRAINED k) = true ∧ s.bit (R.CELLAR_STACK_STATUS_FILLED k) = true)
    (hgran : ∀ b < 64, s.rd (R.GRANARY_BANK_PWR_STATE b) = 0) (v : Word) : exec (.hearthRelease 0xB1 v) s =
      .next (if newMarks v 0 (s.rd R.HEARTH_RELEASE_HALL) = [] ∧ newMarks v 16 (s.rd R.HEARTH_RELEASE_HAMLET) = [] then
          ((newMarks v 16 (s.rd R.HEARTH_RELEASE_HAMLET)).foldl releaseHam
            ((newMarks v 0 (s.rd R.HEARTH_RELEASE_HALL)).foldl (releaseHall s.hallVector) s)).ack
        else ((newMarks v 16 (s.rd R.HEARTH_RELEASE_HAMLET)).foldl releaseHam
            ((newMarks v 0 (s.rd R.HEARTH_RELEASE_HALL)).foldl (releaseHall s.hallVector) s)).nowRunning.ack) := by
  have h0 : newMarks v 0 (s.rd R.HEARTH_RELEASE_HALL) = (List.range 16).filter (fun k => bitOf v k && !nbit (s.rd R.HEARTH_RELEASE_HALL) k) := by
    simp only [newMarks, Nat.zero_add]
  rw [h0]
  show execHearthRelease 0xB1 v s = _
  unfold execHearthRelease
  rw [if_neg (by decide)]
  refine if_neg ?_
  have hall : (List.range 64).all (fun b => s.rd (R.GRANARY_BANK_PWR_STATE b) == 0) = true := by
    rw [List.all_eq_true]
    exact fun b hb => beq_iff_eq.mpr (hgran b (List.mem_range.mp hb))
  rw [hall]
  simp [hcel 0 (by decide), hcel 1 (by decide)]

theorem nowRunning_cores (s : State) : s.nowRunning.cores = s.cores := (State.stepTo_cores _ _).trans (State.wr_cores _ _ _)

theorem hearthRelease_releases : ∀ (s : State) (v : Word), (∀ k < 2, s.bit (R.CELLAR_STACK_STATUS_TRAINED k) = true ∧ s.bit (R.CELLAR_STACK_STATUS_FILLED k) = true) →
    (∀ b < 64, s.rd (R.GRANARY_BANK_PWR_STATE b) = 0) → (∀ h < 16, ∀ c < 8, s.physOf h c ≤ 8) →
    ∃ t, exec (.hearthRelease 0xB1 v) s = .next t ∧ t.ans = acked ∧
      (∀ h < 16, bitOf v (16 + h) = true → nbit (s.rd R.HEARTH_RELEASE_HAMLET) h = false → ∀ c < 8, coreStarts t (9 * h + s.physOf h c) 0) ∧
      (∀ k < 16, (bitOf v k = true ∧ nbit (s.rd R.HEARTH_RELEASE_HALL) k = false →
          coreStarts t (144 + k) (s.rd R.HEARTH_HALL_VECTOR_HI * 2 ^ 32 + s.rd R.HEARTH_HALL_VECTOR_LO)) ∧
        (bitOf v k = true → nbit (t.rd R.HEARTH_RELEASE_HALL) k = true) ∧
        (bitOf v (16 + k) = true → nbit (t.rd R.HEARTH_RELEASE_HAMLET) k = true)) ∧
      (v.toNat ≠ 0 → s.rd R.HEARTH_RELEASE_HALL = 0 → s.rd R.HEARTH_RELEASE_HAMLET = 0 → t.rd R.HEARTH_BOOT_STATUS_STATE = 1) := by
  intro s v hcel hgran hphys
  have he := hearthRelease_eq hcel hgran v
  have h1 := releaseHalls_released s.hallVector (newMarks v 0 (s.rd R.HEARTH_RELEASE_HALL)) (fun k hk => (mem_newMarks.mp hk).1) (newMarks_nodup _ _ _) s
    (fun k hk => (mem_newMarks.mp hk).2.2)
  generalize (newMarks v 0 (s.rd R.HEARTH_RELEASE_HALL)).foldl (releaseHall s.hallVector) s = t at he h1
  have h2 := releaseHams_released (newMarks v 16 (s.rd R.HEARTH_RELEASE_HAMLET)) (fun k hk => (mem_newMarks.mp hk).1) (newMarks_nodup _ _ _) t
    (fun k hk => by rw [h1.hamlet]; exact (mem_newMarks.mp hk).2.2)
  generalize (newMarks v 16 (s.rd R.HEARTH_RELEASE_HAMLET)).foldl releaseHam t = u at he h2
  have hp (h c : Nat) : t.physOf h c = s.physOf h c := physOf_congr h1.map h c
  have hham : ∀ h < 16, bitOf v (16 + h) = true → nbit (s.rd R.HEARTH_RELEASE_HAMLET) h = false → ∀ c < 8, coreStarts u (9 * h + s.physOf h c) 0 :=
    fun h hh hb hn c hc => hp h c ▸ h2.starts h (mem_newMarks.mpr ⟨hh, hb, hn⟩) c hc
  have hhall : ∀ k < 16, bitOf v k = true → nbit (s.rd R.HEARTH_RELEASE_HALL) k = false → coreStarts u (144 + k) s.hallVector := fun k hk hb hn =>
    h2.still _ _ (fun h hh c hc => by rw [hp]; have := hphys h hh c hc; omega) (h1.starts k (mem_newMarks.mpr ⟨hk, by rwa [Nat.zero_add], hn⟩))
  have hm1 : ∀ k < 16, bitOf v k = true → nbit (u.rd R.HEARTH_RELEASE_HALL) k = true := fun k hk hb => by
    rw [h2.hall, h1.marks k hk]
    exact marked hk (by rwa [Nat.zero_add])
  have hm2 : ∀ k < 16, bitOf v (16 + k) = true → nbit (u.rd R.HEARTH_RELEASE_HAMLET) k = true := fun k hk hb => by
    rw [h2.marks k hk, h1.hamlet]
    exact marked hk hb
  by_cases hc : newMarks v 0 (s.rd R.HEARTH_RELEASE_HALL) = [] ∧ newMarks v 16 (s.rd R.HEARTH_RELEASE_HAMLET) = []
  · rw [if_pos hc] at he
    refine ⟨_, he, rfl, hham, fun k hk => ⟨fun h => hhall k hk h.1 h.2, fun hb => ?_, fun hb => ?_⟩, fun hv hz1 hz2 => ?_⟩
    · rw [State.ack_rd, hm1 k hk hb]
    · rw [State.ack_rd, hm2 k hk hb]
    · rw [hz1, hz2] at hc
      exact absurd hc (newMarks_ne_nil hv)
  · rw [if_neg hc] at he
    have hcore (k : Nat) : u.nowRunning.ack.core k = u.core k := by rw [State.core, State.core, State.ack_cores, nowRunning_cores]
    have hrd {f : Fld} (hf : f.key ≠ R.HEARTH_BOOT_STATUS_STEP.key) (hf' : f.key ≠ R.HEARTH_BOOT_STATUS_STATE.key) : u.nowRunning.ack.rd f = u.rd f := by
      rw [State.ack_rd, State.nowRunning, State.stepTo_rd_ne _ _ hf, State.wr_rd_ne _ _ _ _ hf']
    refine ⟨_, he, rfl, fun h hh hb hn c hcl => coreStarts_congr (hcore _) (hham h hh hb hn c hcl),
      fun k hk => ⟨fun h => coreStarts_congr (hcore _) (hhall k hk h.1 h.2), fun hb => ?_, fun hb => ?_⟩, fun _ _ _ => ?_⟩
    · rw [hrd (by decide) (by decide), hm1 k hk hb]
    · rw [hrd (by decide) (by decide), hm2 k hk hb]
    · rw [State.ack_rd, State.nowRunning, State.stepTo_rd_ne _ _ (by decide), State.wr_rd_same]
      rfl

theorem hearthRelease_refused : ∀ (s : State) (v : Word), (∃ b < 64, s.rd (R.GRANARY_BANK_PWR_STATE b) ≠ 0) → ∃ t, exec (.hearthRelease 0xB1 v) s = .next t ∧ t.ans = acked ∧
    t.rd R.HEARTH_BOOT_STATUS_REFUSED = 1 ∧ sameRegs s t [R.HEARTH_BOOT_STATUS_REFUSED] ∧ t.cores = s.cores := by
  intro s v ⟨b, hb, hpwr⟩
  have he : exec (.hearthRelease 0xB1 v) s = .next (s.wr R.HEARTH_BOOT_STATUS_REFUSED 1).ack := by
    show execHearthRelease 0xB1 v s = _
    unfold execHearthRelease
    rw [if_neg (by decide)]
    refine if_pos ?_
    have hall : (List.range 64).all (fun b => s.rd (R.GRANARY_BANK_PWR_STATE b) == 0) = false := by
      rw [List.all_eq_false]
      exact ⟨b, List.mem_range.mpr hb, by simpa using hpwr⟩
    rw [hall, Bool.and_false]
    rfl
  refine ⟨_, he, rfl, ?_, ((sameRegs.refl s _).wr (.head _) _).ack, ?_⟩
  · rw [State.ack_rd, State.wr_rd_same]
    rfl
  · rw [State.ack_cores, State.wr_cores]

/-- Settles O53: each clause is a lemma above about one command. -/
theorem bootSequenceAndRelease : Obligations.BootSequenceAndRelease :=
  ⟨resetNRelease_latches, fuseReadEnd_fault, fuseReadEnd_fuses, fuseReadEnd_failed, fuseReadEnd_second, poweronHarrowEnd_decides, poweronFillEnd_fills,
    lbistEnd_fails, lbistEnd_passes, flashSlotReadEnd_reads, bootImageVerify_slot, bootImageVerify_recovers, bootImageVerify_parked, hbmTrainingEnd_trains,
    hbmTrainingEnd_fails, cellarFillEnd_fills, bootTimeout_decides, hearthRelease_foreign, hearthRelease_releases, hearthRelease_refused⟩

end Sys2Proof.Claims

/-! ## O54: the Crier state and recovery -/

namespace Sys2Proof.Machine

set_option Elab.async false

open Sys2Proof.Claims

/-- What each step of a fold makes true and no step undoes holds after it, for every element. -/
theorem foldl_makes {α : Type} {g : State → α → State} {P : α → State → Prop} (hmake : ∀ s a, P a (g s a)) (hkeep : ∀ s a b, P a s → P a (g s b)) :
    ∀ (l : List α) (s : State), (∀ a ∈ l, P a (l.foldl g s)) ∧ ∀ a, P a s → P a (l.foldl g s)
  | [], _ => ⟨(fun _ h => nomatch h), fun _ h => h⟩
  | b :: l, s => by
    obtain ⟨h1, h2⟩ := foldl_makes hmake hkeep l (g s b)
    refine ⟨fun a ha => ?_, fun a h => h2 a (hkeep s a b h)⟩
    rcases List.mem_cons.mp ha with rfl | ha
    · exact h2 a (hmake s a)
    · exact h1 a ha

section
variable (s : State)

/-! ### The frozen record -/

theorem State.straps_lt : s.straps < 2 ^ 32 := by
  have h1 := s.rd_lt R.HEARTH_STRAPS_RECOVERY
  have h2 := s.rd_lt R.HEARTH_STRAPS_FAST
  have h3 := s.rd_lt R.HEARTH_STRAPS_I2C
  have h4 := s.rd_lt R.HEARTH_STRAPS_SPI
  have h5 := s.rd_lt R.HEARTH_STRAPS_BOOT
  simp only [R.HEARTH_STRAPS_RECOVERY, R.HEARTH_STRAPS_FAST, R.HEARTH_STRAPS_I2C, R.HEARTH_STRAPS_SPI, R.HEARTH_STRAPS_BOOT] at h1 h2 h3 h4 h5
  simp only [State.straps, R.HEARTH_STRAPS_RECOVERY, R.HEARTH_STRAPS_FAST, R.HEARTH_STRAPS_I2C, R.HEARTH_STRAPS_SPI, R.HEARTH_STRAPS_BOOT]
  omega

/-- The state whose live words the record freezes. -/
def State.crierState (cause : Nat) : State := (s.wr R.HEARTH_BOOT_STATUS_STATE 2).wr R.HEARTH_BOOT_STATUS_CAUSE cause

theorem State.crierState_rd (c : Nat) : (s.crierState c).rd R.HEARTH_BOOT_STATUS_STATE = 2 ∧ (s.crierState c).rd R.HEARTH_BOOT_STATUS_CAUSE = c % 2 ^ 8 :=
  ⟨(State.wr_rd_ne _ _ _ _ (by decide)).trans (State.wr_rd_same _ _ _), State.wr_rd_same _ _ _⟩

theorem State.crierState_same (c : Nat) : sameRegs s (s.crierState c) [R.HEARTH_BOOT_STATUS_STATE, R.HEARTH_BOOT_STATUS_CAUSE] :=
  ((sameRegs.refl s _).wr (by simp) _).wr (by simp) _

theorem State.crierState_straps (c : Nat) : (s.crierState c).straps = s.straps := by
  simp only [State.straps]
  rw [s.crierState_same c _ (by decide), s.crierState_same c _ (by decide), s.crierState_same c _ (by decide), s.crierState_same c _ (by decide),
    s.crierState_same c _ (by decide)]

theorem State.crierState_word (c : Nat) :
    (s.crierState c).liveWord 0 = 0xC7 * 2 ^ 24 + c % 2 ^ 8 * 2 ^ 16 + s.rd R.HEARTH_BOOT_STATUS_STEP * 256 + 2 := by
  obtain ⟨h1, h2⟩ := s.crierState_rd c
  have h3 := s.crierState_same c R.HEARTH_BOOT_STATUS_STEP (by decide)
  simp only [State.liveWord, h1, h2, h3]

/-- The value of word `w` of the frozen record. -/
def State.frozenWord (c d w : Nat) : Nat :=
  if w = 1 then d
  else if w = 4 then (match s.boot.t0 with | some t => (s.stp.now - t) / 65536000000 | none => 0)
  else (s.crierState c).liveWord w

theorem State.freezeRecord_eq (c d : Nat) : s.freezeRecord c d =
    ((List.range 12).foldl (fun x w => x.wr (R.CRIER_RECORD w) (s.frozenWord c d w)) (s.crierState c)).setBoot (fun b => { b with crierAt := some s.stp.now }) := rfl

theorem State.freezeRecord_word (c d : Nat) {w : Nat} (hw : w < 12) : (s.freezeRecord c d).rd (R.CRIER_RECORD w) = s.frozenWord c d w % 2 ^ 32 := by
  rw [State.freezeRecord_eq, State.setBoot_rd]
  exact foldl_wr_rd_mem (fun a b h => (by simp only [Fld.key, R.CRIER_RECORD, ne_eq]; omega)) (List.range 12) _ (.inl (List.mem_range.mpr hw))

/-- The record's words. -/
def recordRegs : Nat → Prop := addrIn 0x40000100 0x40000130

theorem State.freezeRecord_rd (c d : Nat) {f : Fld} (h : ¬ recordRegs f.key) : (s.freezeRecord c d).rd f = (s.crierState c).rd f := by
  rw [State.freezeRecord_eq, State.setBoot_rd]
  exact WritesIn.foldl (P := recordRegs) (s := s.crierState c) (List.range 12) (fun t w hw ht => ht.wr (by
    have := List.mem_range.mp hw
    simp only [recordRegs, addrIn, Fld.key, R.CRIER_RECORD]
    omega) _) (.refl _ _) f h

theorem State.freezeRecord_boot (c d : Nat) : (s.freezeRecord c d).boot = { s.boot with crierAt := some s.stp.now } := by
  have h : ∀ (l : List Nat) (t : State), (l.foldl (fun x w => x.wr (R.CRIER_RECORD w) (s.frozenWord c d w)) t).boot = t.boot := fun l => by
    induction l with
    | nil => exact fun _ => rfl
    | cons w l ih => exact fun t => (ih _).trans (State.wr_boot _ _ _)
  rw [State.freezeRecord_eq, State.setBoot_boot, h, State.crierState, State.wr_boot, State.wr_boot]

end

/-! ### What the entry closes -/

/-- The Market's ports go OFF. -/
def State.crierMarket (s : State) : State := (List.range 32).foldl (fun x p => x.wr (R.MARKET_PORT_STATUS_STATE p) 0) s
/-- The local ports that the entry closes. -/
def crierPortList : List Nat := (List.range 256).filter (fun n => niPresent n && n != 5 && n != 9 && n != 13)
/-- A Granary bank goes OFF. -/
def State.crierBank (s : State) (b : Nat) : State :=
  (s.wr (R.GRANARY_BANK_PWR_STATE b) 2).setMem (s.ms.mem.fill (b * 0x100000) ((b + 1) * 0x100000))

/-- The registers that the entry writes after the record: the Market's and the Commons's ports, the stools, the Granary's banks,
the power domains, the Tally's view of the domains. -/
def crierRegs (k : Nat) : Prop :=
  addrIn 0x50001004 0x50003004 k ∨ addrIn 0x46010020 0x46014020 k ∨ stoolRegs k ∨ addrIn 0x47000000 0x47000100 k ∨ addrIn 0x40001000 0x400010C0 k ∨
    addrIn 0x45000004 0x45000200 k

section
variable (s : State)

theorem State.crierMarket_off {p : Nat} (hp : p < 32) : s.crierMarket.rd (R.MARKET_PORT_STATUS_STATE p) = 0 :=
  foldl_wr_rd_mem (v := fun _ => 0) (fun a b h => (by simp only [Fld.key, R.MARKET_PORT_STATUS_STATE, ne_eq]; omega)) (List.range 32) s (.inl (List.mem_range.mpr hp))

theorem State.crierMarket_writes : WritesIn (addrIn 0x50001004 0x50003004) s s.crierMarket :=
  WritesIn.foldl (List.range 32) (fun t p hp ht => ht.wr (by
    have := List.mem_range.mp hp
    simp only [addrIn, Fld.key, R.MARKET_PORT_STATUS_STATE]
    omega) _) (.refl _ _)

/-- Local port `n` is CLOSED. -/
def State.localClosed (n : Nat) (s : State) : Prop := s.portSt (n / 4) (4 + n % 4) = 4

theorem State.crierPort_closes (n : Nat) : (s.crierPort n).localClosed n := by
  refine (State.wrB_rd_ne _ _ _ _ ?_).trans (State.setPortSt_portSt _ _ _ (by decide))
  simp only [Fld.key, R.COMMONS_RTR_PORT_STATUS_STATE, R.COMMONS_RTR_PORT_STATUS_DRAINED]
  omega

theorem State.crierPort_keeps (n m : Nat) (h : s.localClosed n) : (s.crierPort m).localClosed n := by
  by_cases e : n = m
  · exact e ▸ s.crierPort_closes n
  · refine ((State.wrB_rd_ne _ _ _ _ ?_).trans (State.wr_rd_ne _ _ _ _ ?_)).trans h <;>
      (simp only [Fld.key, R.COMMONS_RTR_PORT_STATUS_STATE, R.COMMONS_RTR_PORT_STATUS_DRAINED]; omega)

theorem State.crierPorts_writes : WritesIn (addrIn 0x46010020 0x46014020) s (crierPortList.foldl State.crierPort s) :=
  WritesIn.foldl crierPortList (fun t n hn ht => by
    have h := List.mem_range.mp (List.mem_of_mem_filter hn)
    refine (ht.wr ?_ _).wrB ?_ _ <;>
      (simp only [addrIn, Fld.key, R.COMMONS_RTR_PORT_STATUS_STATE, R.COMMONS_RTR_PORT_STATUS_DRAINED]; omega)) (.refl _ _)

/-- Granary bank `b` is OFF and reads zero. -/
def bankOff (b : Nat) (s : State) : Prop :=
  s.rd (R.GRANARY_BANK_PWR_STATE b) = 2 ∧ ∀ a, b * 0x100000 ≤ a → a < (b + 1) * 0x100000 → s.ms.mem.data.get a = 0

theorem State.crierBank_off (b : Nat) : bankOff b (s.crierBank b) :=
  ⟨State.wr_rd_same _ _ _, fun _ h1 h2 => Memory.fill_data_in s.ms.mem h1 h2⟩

theorem State.crierBank_keeps (b c : Nat) (h : bankOff b s) : bankOff b (s.crierBank c) := by
  by_cases e : b = c
  · exact e ▸ s.crierBank_off b
  · refine ⟨(State.wr_rd_ne _ _ _ _ (by simp only [Fld.key, R.GRANARY_BANK_PWR_STATE, ne_eq]; omega)).trans h.1, fun a h1 h2 => ?_⟩
    exact (Memory.fill_out s.ms.mem (by omega)).1.trans (h.2 a h1 h2)

theorem State.crierBanks_writes : WritesIn (addrIn 0x47000000 0x47000100) s ((List.range 64).foldl State.crierBank s) :=
  WritesIn.foldl (List.range 64) (fun t b hb ht => (ht.wr (by
    have := List.mem_range.mp hb
    simp only [addrIn, Fld.key, R.GRANARY_BANK_PWR_STATE]
    omega) _).of_regs rfl) (.refl _ _)

/-- The registers of the power domains and of the Tally's view of them. -/
def gateRegs (k : Nat) : Prop := addrIn 0x40001000 0x400010C0 k ∨ addrIn 0x45000004 0x45000200 k

theorem WritesIn.gateCheck {s t : State} (h : WritesIn gateRegs s t) {d : Nat} (hd : d < 48) (held : Bool) : WritesIn gateRegs s (t.gateCheck d held).2 := by
  have h1 : WritesIn gateRegs s (t.showDomain d) := by
    refine ((h.wrB (.inr ?_) _).wrB (.inr ?_) _).wr (.inr ?_) _ <;>
      simp only [addrIn, Fld.key, R.TALLY_DOMAIN_HELD_UNRECONCILED, R.TALLY_DOMAIN_HELD_NOT_DRAINED, R.TALLY_DOMAIN_HELD_HELD] <;> omega
  unfold State.gateCheck
  dsimp only
  generalize t.showDomain d = u at h1
  have hst : gateRegs R.TALLY_STATUS_GATE_REFUSED.key ∧ gateRegs R.TALLY_STATUS_GATE_CAUSE.key ∧ gateRegs R.TALLY_STATUS_GATE_DOMAIN.key :=
    ⟨.inr ⟨by decide, by decide⟩, .inr ⟨by decide, by decide⟩, .inr ⟨by decide, by decide⟩⟩
  exact h1.ite (((h1.wr hst.1 _).wr hst.2.1 _).wr hst.2.2 _)

theorem State.crierPower_writes : WritesIn gateRegs s ((List.range 48).foldl State.crierPower s) :=
  WritesIn.foldl (List.range 48) (fun t d hd ht => by
    have hd' := List.mem_range.mp hd
    have h := ht.gateCheck hd' false
    unfold State.crierPower
    refine ht.ite ?_
    dsimp only
    refine (h.wr ?_ _).ite h
    simp only [gateRegs, addrIn, Fld.key, R.PWR_DOM_STATE]
    omega) (.refl _ _)

end

/-! ### Entry -/

/-- The Hearth core is held, the host sees the Crier state, and the pins show it. -/
def State.crierShown (s : State) : State :=
  let t := (s.holdCore hearthCore).wr R.HOST_STATUS_BOOT 2
  { t with pins := { t.pins with crierLow := true, quiet := true } }

/-- The state before the entry closes ports, stools and banks. -/
def State.crierHeld (s : State) (c d : Nat) : State := (s.freezeRecord c d).crierShown

/-- The state that the entry leaves. -/
def State.cried (s : State) (c d : Nat) : State :=
  (List.range 48).foldl State.crierPower ((List.range 64).foldl State.crierBank ((List.range 16).foldl State.fallow
    (crierPortList.foldl State.crierPort (s.crierHeld c d).crierMarket)))

section
variable (s : State) (c d : Nat)

theorem State.crierShown_boot : s.crierShown.boot = s.boot := rfl
theorem State.crierShown_rd {f : Fld} (h : f.key ≠ R.HOST_STATUS_BOOT.key) : s.crierShown.rd f = s.rd f := State.wr_rd_ne _ _ _ _ h
theorem State.crierShown_host : s.crierShown.rd R.HOST_STATUS_BOOT = 2 := State.wr_rd_same _ _ _
theorem State.crierShown_core : s.crierShown.core 160 = {} := State.setCore_core _ _ _
theorem State.crierShown_pins : s.crierShown.pins.crierLow = true ∧ s.crierShown.pins.quiet = true := ⟨rfl, rfl⟩

/-- The entry's closing steps leave every part of the state but registers, memory and the fabric. -/
theorem State.cried_keeps : Keeps [.regs, .mem, .cop] (s.crierHeld c d) (s.cried c d) := by
  have hr : Part.regs ∈ [Part.regs, .mem, .cop] := by decide
  have hm : Part.mem ∈ [Part.regs, .mem, .cop] := by decide
  have hc : Part.cop ∈ [Part.regs, .mem, .cop] := by decide
  have h1 : Keeps [.regs, .mem, .cop] (s.crierHeld c d) (s.crierHeld c d).crierMarket := keeps_foldl _ (fun t p ht => keeps_wr ht hr _ _) _ _ (.refl _ _)
  have h2 := keeps_foldl State.crierPort (fun t n ht => keeps_crierPort ht hr n) crierPortList _ h1
  have h3 := keeps_foldl State.fallow (fun t k ht => keeps_fallow ht hr hm hc k) (List.range 16) _ h2
  have h4 := keeps_foldl State.crierBank (fun t b ht => keeps_setMem (keeps_wr ht hr _ _) hm _ (Memory.wf_fill _ _ _)) (List.range 64) _ h3
  exact keeps_foldl State.crierPower (fun t b ht => keeps_crierPower ht hr b) (List.range 48) _ h4

end

end Sys2Proof.Machine

namespace Sys2Proof.Claims

set_option Elab.async false

open Sys2Proof.Machine

theorem lockstepMismatch_decides : ∀ (s : State), ∃ t, exec .hearthLockstepMismatch s = .next t ∧ crierDecided s t 13 0 ∧ t.regs = s.regs := fun _ => ⟨_, rfl, State.crier_decided rfl _ _, rfl⟩

theorem hearthCrierEnter_decides : ∀ (s : State) (v : Word), ∃ t, exec (.hearthCrierEnter 0xB1 v) s = .next t ∧ crierDecided s t 16 v.toNat ∧ t.ans = acked := by
  intro s v
  have he : exec (.hearthCrierEnter 0xB1 v) s = .next (s.crier 16 v.toNat).ack := by
    show execHearthCrierEnter 0xB1 v s = _
    unfold execHearthCrierEnter
    rw [if_neg (by decide)]
  exact ⟨_, he, State.crier_decided (t := s) rfl _ _, rfl⟩

theorem hearthCrierEnter_foreign : ∀ (s : State) (mid : Mid) (v : Word), mid ≠ 0xB1 → exec (.hearthCrierEnter mid v) s = .next { s with ans := abortedBy 7 } := fun _ _ _ h => if_pos h

theorem cried_writes (s : State) (c d : Nat) : WritesIn crierRegs (s.crierHeld c d) (s.cried c d) := by
  refine (((((State.crierMarket_writes _).mono fun k hk => .inl hk).trans ((State.crierPorts_writes _).mono fun k hk => .inr (.inl hk))).trans
    ((State.fallow_all (List.range 16) _).2.2.1.mono fun k hk => .inr (.inr (.inl hk)))).trans
    ((State.crierBanks_writes _).mono fun k hk => .inr (.inr (.inr (.inl hk))))).trans ((State.crierPower_writes _).mono fun k hk => ?_)
  exact .inr (.inr (.inr (.inr hk)))

/-- What else the state held at the entry keeps. -/
theorem cried_parts (s : State) (c d : Nat) : (s.cried c d).boot = (s.freezeRecord c d).boot ∧
    ((s.cried c d).pins.crierLow = true ∧ (s.cried c d).pins.quiet = true) ∧ (s.cried c d).core 160 = {} := by
  have hk := s.cried_keeps c d
  have hboot : (s.cried c d).boot = (s.crierHeld c d).boot := hk.1 .boot (by decide)
  have hpins : (s.cried c d).pins = (s.crierHeld c d).pins := hk.1 .pins (by decide)
  have hcores : (s.cried c d).cores = (s.crierHeld c d).cores := hk.1 .cores (by decide)
  refine ⟨hboot.trans (State.crierShown_boot _), ?_, ?_⟩
  · rw [hpins]
    exact State.crierShown_pins _
  · rw [State.core, hcores]
    exact State.crierShown_core _

/-- The entry leaves the record and the boot status as it froze them. -/
theorem cried_shows (s : State) (c d : Nat) {f : Fld} (h : ¬ crierRegs f.key) (hf : f.key ≠ R.HOST_STATUS_BOOT.key) :
    (s.cried c d).rd f = (s.freezeRecord c d).rd f := by
  exact (cried_writes s c d f h).trans (State.crierShown_rd _ hf)

theorem crierEntry_eq {s : State} {c d : Nat} (hd : s.boot.crierDue = some (c, d)) (hc : s.inCrier = false) : exec .crierEntry s = .next (s.cried c d) := by
  show execCrierEntry s = _
  unfold execCrierEntry
  rw [hd]
  exact if_neg (by simp [hc])

/-- The stage of the entry at which `f` is written for the last time, `t`, decides what the entry leaves there. -/
theorem cried_later (s : State) (c d : Nat) :
    (∀ p < 32, (s.cried c d).rd (R.MARKET_PORT_STATUS_STATE p) = 0) ∧ (∀ k < 16, (s.cried c d).stoolSt k = 0) ∧
    (∀ n ∈ crierPortList, (s.cried c d).portSt (n / 4) (4 + n % 4) = 4) ∧ (∀ b < 64, bankOff b (s.cried c d)) := by
  unfold State.cried
  have h0 (p : Nat) (hp : p < 32) := State.crierMarket_off (s.crierHeld c d) hp
  generalize (s.crierHeld c d).crierMarket = t0 at h0
  have h1 := (foldl_makes (P := State.localClosed) (fun s n => State.crierPort_closes s n) (fun s n m h => State.crierPort_keeps s n m h) crierPortList t0).1
  have w1 := State.crierPorts_writes t0
  generalize crierPortList.foldl State.crierPort t0 = t1 at h1 w1
  obtain ⟨-, h2, w2, -⟩ := State.fallow_all (List.range 16) t1
  generalize (List.range 16).foldl State.fallow t1 = t2 at h2 w2
  have h3 := (foldl_makes (P := bankOff) (fun s b => State.crierBank_off s b) (fun s b e h => State.crierBank_keeps s b e h) (List.range 64) t2).1
  have w3 := State.crierBanks_writes t2
  generalize (List.range 64).foldl State.crierBank t2 = t3 at h3 w3
  have w4 := State.crierPower_writes t3
  have m4 : ((List.range 48).foldl State.crierPower t3).ms.mem = t3.ms.mem :=
    (keeps_foldl State.crierPower (fun t b ht => keeps_crierPower ht (by decide) b) (List.range 48) t3 (.refl (partsBut .mem) t3)).same_of_but
  generalize (List.range 48).foldl State.crierPower t3 = t4 at w4 m4
  refine ⟨fun p hp => ?_, fun k hk => ?_, fun n hn => ?_, fun b hb => ⟨?_, fun a ha ha' => ?_⟩⟩
  · have hk : (R.MARKET_PORT_STATUS_STATE p).key = (0x50001004 + p * 0x100) * 64 + 30 := rfl
    rw [w4 _ (by rw [hk, gateRegs, addrIn, addrIn]; omega), w3 _ (by rw [hk, addrIn]; omega), w2 _ (by rw [hk, stoolRegs]; omega),
      w1 _ (by rw [hk, addrIn]; omega), h0 p hp]
  · have hk' : (R.COPPICE_STOOL_STATUS_STATE k).key = (0x51001004 + k * 0x40) * 64 + 29 := rfl
    refine Eq.trans ?_ (h2 k (List.mem_range.mpr hk)).1
    exact (w4 _ (by rw [hk', gateRegs, addrIn, addrIn]; omega)).trans (w3 _ (by rw [hk', addrIn]; omega))
  · have hlt := List.mem_range.mp (List.mem_of_mem_filter hn)
    have hk : (R.COMMONS_RTR_PORT_STATUS_STATE (n / 4) (4 + n % 4)).key = (0x46010020 + n / 4 * 0x100 + (4 + n % 4) * 0x4) * 64 + 29 := rfl
    refine Eq.trans ?_ (h1 n hn)
    exact (w4 _ (by rw [hk, gateRegs, addrIn, addrIn]; omega)).trans ((w3 _ (by rw [hk, addrIn]; omega)).trans (w2 _ (by rw [hk, stoolRegs]; omega)))
  · have hk : (R.GRANARY_BANK_PWR_STATE b).key = (0x47000000 + b * 0x4) * 64 + 29 := rfl
    rw [w4 _ (by rw [hk, gateRegs, addrIn, addrIn]; omega)]
    exact (h3 b (List.mem_range.mpr hb)).1
  · rw [m4]
    exact (h3 b (List.mem_range.mpr hb)).2 a ha ha'

theorem cried_host (s : State) (c d : Nat) : (s.cried c d).rd R.HOST_STATUS_BOOT = 2 := by
  have hw := cried_writes s c d
  exact (hw _ (by simp only [crierRegs, stoolRegs, addrIn, Fld.key, R.HOST_STATUS_BOOT]; omega)).trans (State.crierShown_host _)

theorem mem_crierPortList {n : Nat} (hn : n < 256) (hp : niPresent n = true) (hne : n ∉ [5, 9, 13]) : n ∈ crierPortList := by
  simp only [List.mem_cons, List.not_mem_nil, or_false, not_or] at hne
  simp [crierPortList, hn, hp, hne]

theorem lt_bank_end (a : Nat) : a < (a / 0x100000 + 1) * 0x100000 := by omega

theorem crierEntry_enters : ∀ (s : State) (c d : Nat), s.boot.crierDue = some (c, d) → s.inCrier = false → ∃ t, exec .crierEntry s = .next t ∧
    t.boot.crierAt = some s.stp.now ∧ t.boot.crierDue = some (c, d) ∧ t.rd R.HEARTH_BOOT_STATUS_STATE = 2 ∧ t.rd R.HEARTH_BOOT_STATUS_CAUSE = c % 2 ^ 8 ∧
    t.rd (R.CRIER_RECORD 0) = (0xC7 * 2 ^ 24 + c % 2 ^ 8 * 2 ^ 16 + s.rd R.HEARTH_BOOT_STATUS_STEP * 256 + 2) ∧ t.rd (R.CRIER_RECORD 1) = d % 2 ^ 32 ∧
    t.rd (R.CRIER_RECORD 2) = s.straps ∧ t.rd R.HOST_STATUS_BOOT = 2 ∧ t.pins.crierLow = true ∧ t.pins.quiet = true ∧ (t.core 160).run ≠ .running ∧
    (∀ p < 32, t.rd (R.MARKET_PORT_STATUS_STATE p) = 0) ∧ (∀ k < 16, t.stoolSt k = 0) ∧
    (∀ n < 256, niPresent n = true → n ∉ [5, 9, 13] → t.portSt (n / 4) (4 + n % 4) = 4) ∧
    (∀ b < 64, t.rd (R.GRANARY_BANK_PWR_STATE b) = 2) ∧ (∀ a < 64 * 0x100000, t.ms.mem.data.get a = 0) := by
  intro s c d hd hc
  have hboot := State.freezeRecord_boot s c d
  have h0 := State.freezeRecord_word s c d (w := 0) (by decide)
  have h1 := State.freezeRecord_word s c d (w := 1) (by decide)
  have h2 := State.freezeRecord_word s c d (w := 2) (by decide)
  have hst : (s.freezeRecord c d).rd R.HEARTH_BOOT_STATUS_STATE = 2 :=
    (State.freezeRecord_rd s c d (by simp only [recordRegs, addrIn, Fld.key, R.HEARTH_BOOT_STATUS_STATE]; omega)).trans (s.crierState_rd c).1
  have hca : (s.freezeRecord c d).rd R.HEARTH_BOOT_STATUS_CAUSE = c % 2 ^ 8 :=
    (State.freezeRecord_rd s c d (by simp only [recordRegs, addrIn, Fld.key, R.HEARTH_BOOT_STATUS_CAUSE]; omega)).trans (s.crierState_rd c).2
  have hword : s.frozenWord c d 0 = 0xC7 * 2 ^ 24 + c % 2 ^ 8 * 2 ^ 16 + s.rd R.HEARTH_BOOT_STATUS_STEP * 256 + 2 := s.crierState_word c
  have hstraps : s.frozenWord c d 2 = s.straps := s.crierState_straps c
  have hrec {w : Nat} (hw : w < 12) : (s.cried c d).rd (R.CRIER_RECORD w) = (s.freezeRecord c d).rd (R.CRIER_RECORD w) :=
    cried_shows s c d (by simp only [crierRegs, stoolRegs, addrIn, Fld.key, R.CRIER_RECORD]; omega) (by simp only [Fld.key, R.CRIER_RECORD, R.HOST_STATUS_BOOT]; omega)
  have hs1 : (s.cried c d).rd R.HEARTH_BOOT_STATUS_STATE = 2 :=
    (cried_shows s c d (by simp only [crierRegs, stoolRegs, addrIn, Fld.key, R.HEARTH_BOOT_STATUS_STATE]; omega) (by decide)).trans hst
  have hs2 : (s.cried c d).rd R.HEARTH_BOOT_STATUS_CAUSE = c % 2 ^ 8 :=
    (cried_shows s c d (by simp only [crierRegs, stoolRegs, addrIn, Fld.key, R.HEARTH_BOOT_STATUS_CAUSE]; omega) (by decide)).trans hca
  have hhost := cried_host s c d
  obtain ⟨hm, hk, hp, hb⟩ := cried_later s c d
  obtain ⟨kboot, kpins, kcore⟩ := cried_parts s c d
  have r0 := (hrec (w := 0) (by decide)).trans h0
  have r1 := (hrec (w := 1) (by decide)).trans h1
  have r2 := (hrec (w := 2) (by decide)).trans h2
  have he := crierEntry_eq hd hc
  generalize s.cried c d = t at he hs1 hs2 hhost hm hk hp hb kboot kpins kcore r0 r1 r2
  have hstep := s.rd_lt R.HEARTH_BOOT_STATUS_STEP
  refine ⟨_, he, ?_, ?_, hs1, hs2, ?_, r1, ?_, hhost, kpins.1, kpins.2, ?_, hm, hk, (fun n hn hpn hne => hp n (mem_crierPortList hn hpn hne)),
    (fun b hb' => (hb b hb').1), fun a ha => ?_⟩
  · rw [kboot, hboot]
  · rw [kboot, hboot, hd]
  · rw [r0, hword]
    simp only [R.HEARTH_BOOT_STATUS_STEP] at hstep ⊢
    omega
  · rw [r2, hstraps]
    exact Nat.mod_eq_of_lt s.straps_lt
  · rw [kcore]
    decide
  · exact (hb _ (Nat.div_lt_of_lt_mul (by rwa [Nat.mul_comm] at ha))).2 a (Nat.div_mul_le_self _ _) (lt_bank_end a)

theorem crierEntry_waits : ∀ (s : State), (s.boot.crierDue = none ∨ s.inCrier = true) → exec .crierEntry s = .next s := by
  intro s h
  show execCrierEntry s = _
  unfold execCrierEntry
  cases hd : s.boot.crierDue with
  | none => rfl
  | some x => exact if_pos (h.resolve_left (by simp [hd]))

theorem crierUartLine_eq {s : State} (hc : s.inCrier = true) (hl : ∀ a, s.boot.line = some a → a + 990 * 65536000000 ≤ s.stp.now) :
    exec .crierUartLine s = .next ((s.send (.uart s.crierLine)).setBoot (fun b => { b with line := some s.stp.now, lines := b.lines + 1 })) := by
  refine if_neg ?_
  rintro (h | h)
  · simp [hc] at h
  · cases ha : s.boot.line with
    | none => exact nomatch ha ▸ h
    | some a =>
      have := hl a ha
      rw [ha, Option.any_some, decide_eq_true_eq] at h
      omega

theorem crierUartLine_first : ∀ (s : State), s.inCrier = true → s.boot.line = none → ∃ t, exec .crierUartLine s = .next t ∧ t.sent = s.sent ++ [.uart s.crierLine] ∧
    t.boot.line = some s.stp.now ∧ t.boot.lines = s.boot.lines + 1 ∧ t.regs = s.regs := fun _ hc hl => ⟨_, crierUartLine_eq hc (fun a ha => nomatch hl.symm.trans ha), rfl, rfl, rfl, rfl⟩

theorem crierUartLine_next : ∀ (s : State) (a : Nat), s.inCrier = true → s.boot.line = some a → a + 990 * 65536000000 ≤ s.stp.now →
    ∃ t, exec .crierUartLine s = .next t ∧ t.sent = s.sent ++ [.uart s.crierLine] ∧ t.boot.lines = s.boot.lines + 1 := fun _ a hc hl h =>
  ⟨_, crierUartLine_eq hc (fun b hb => by rwa [← Option.some.inj (hl.symm.trans hb)]), rfl, rfl⟩

theorem crierUartLine_outside : ∀ (s : State), s.inCrier = false → exec .crierUartLine s = .next s := fun _ h => if_pos (.inl (by rw [h]; rfl))

theorem i2cWrite_points : ∀ (s : State) (b : Nat) (l : List Nat), 2 ≤ s.rd R.HEARTH_BOOT_STATUS_STEP → b < 64 → ∃ t, exec (.i2cWrite (b :: l)) s = .next t ∧
    t.boot.ptr = b ∧ t.regs = s.regs ∧ t.sent = s.sent := by
  intro s b l hs hb
  have he : exec (.i2cWrite (b :: l)) s = .next (s.setBoot (fun x => { x with ptr := b % 64 })) := congrArg Host.Outcome.next (if_pos (decide_eq_true hs))
  exact ⟨_, he, Nat.mod_eq_of_lt hb, rfl, rfl⟩

theorem i2cRead_reads : ∀ (s : State) (n : Nat) (cut : Bool), 2 ≤ s.rd R.HEARTH_BOOT_STATUS_STEP → ∃ t, exec (.i2cRead n cut) s = .next t ∧
    t.sent = s.sent ++ [.i2c ((List.range n).map (fun i => if (s.boot.ptr + i) % 64 < 48 then
      s.crierWord ((s.boot.ptr + i) % 64 / 4) / 256 ^ ((s.boot.ptr + i) % 64 % 4) % 256 else 0))] ∧
    t.boot.ptr = (s.boot.ptr + n) % 64 ∧ t.boot.sda = cut ∧ t.regs = s.regs := by
  intro s n cut hs
  have hon : s.i2cOn = true := decide_eq_true hs
  have he : exec (.i2cRead n cut) s = .next ((s.send (.i2c ((List.range n).map (fun i => s.i2cByte ((s.boot.ptr + i) % 64))))).setBoot
    (fun x => { x with ptr := (x.ptr + n) % 64, sda := cut })) := if_neg (by rw [hon]; exact Bool.false_ne_true)
  exact ⟨_, he, rfl, rfl, rfl, rfl⟩

theorem i2cSclTimeout_releases : ∀ (s : State), ∃ t, exec .i2cSclTimeout s = .next t ∧ t.boot.sda = false ∧ t.regs = s.regs := fun _ => ⟨_, rfl, rfl, rfl⟩

theorem recoveryOpen_iff (s : State) : s.recoveryOpen = true ↔ s.inCrier = true ∧ s.rd R.HEARTH_BOOT_STATUS_CAUSE ≠ 13 := by
  simp [State.recoveryOpen]

theorem rcvDataWrite_writes : ∀ (s : State) (off : Fin 262144) (b : List Nat), s.inCrier = true → s.rd R.HEARTH_BOOT_STATUS_CAUSE ≠ 13 → b.length % 4 = 0 → off.val % 4 = 0 →
    off.val + b.length ≤ 0x40000 → ∃ t, exec (.hearthRcvDataWrite off b true) s = .next t ∧ t.ans = acked ∧
      sameMemory s t (fun a => hearthBase + 0x40000 + off.val / 8 * 8 ≤ a ∧ a < hearthBase + 0x40000 + (off.val + b.length + 7) / 8 * 8) := by
  intro s off b hc h13 hl hoff hend
  let t := s.writeBytes 0xC0 false (hearthBase + 0x40000 + off.val) (b.map (BitVec.ofNat 8))
  have he : exec (.hearthRcvDataWrite off b true) s = .next t.ack := by
    have ho := (recoveryOpen_iff s).mpr ⟨hc, h13⟩
    refine if_neg ?_
    simp only [ho, Bool.not_true, Bool.false_eq_true, false_or]
    omega
  refine ⟨_, he, rfl, fun a ha => ?_⟩
  have hw := State.writeBytes_out 0xC0 false (b.map (BitVec.ofNat 8)) s (hearthBase + 0x40000 + off.val)
  refine hw a fun h => ha ?_
  rw [List.length_map] at h
  simp only [hearthBase] at h ⊢
  omega

theorem rcvDataWrite_refused : ∀ (s : State) (off : Fin 262144) (b : List Nat) (w : Bool), (s.inCrier = false ∨ s.rd R.HEARTH_BOOT_STATUS_CAUSE = 13 ∨ b.length % 4 ≠ 0 ∨ w = false) →
    exec (.hearthRcvDataWrite off b w) s = .next { s with ans := abortedBy 7 } := by
  intro s off b w h
  refine if_pos ?_
  rcases h with h | h | h | h
  · exact .inl (by simp [State.recoveryOpen, h])
  · exact .inl (by simp [State.recoveryOpen, h])
  · exact .inr (.inl h)
  · exact .inr (.inr (.inr (.inl (by rw [h]; rfl))))

/-- A device reset keeps the byte at `k` of memory (R576). -/
def keptByReset (keep : Bool) (k : Nat) : Bool := keep && decide (hearthBase + 0x40000 ≤ k) && decide (k < hearthBase + hearthSize)

/-- The state of a device reset before its status is written. -/
def resetBase (s : State) (keep : Bool) : State :=
  let r : State := { State.reset with pending := s.pending, free := s.free, sent := s.sent, ans := s.ans }
  let t := r.setMem ⟨s.ms.mem.data.clear (fun k => !keptByReset keep k), s.ms.mem.check.clear (fun k => !keptByReset keep k)⟩
  t.setStrong { t.strong with revoked := s.strong.revoked, rollback := s.strong.rollback, dukGone := s.strong.dukGone, drbg := s.strong.drbg }

/-- What a device reset of cause `c` leaves; `keep` says whether it keeps the upper half of Hearth SRAM. -/
structure DeviceReset (s t : State) (c : Nat) (keep : Bool) : Prop where
  boot : t.boot = {}
  recovery : t.rd R.HEARTH_STRAPS_RECOVERY = if keep then 1 else 0
  cause : t.rd R.HEARTH_RESET_STATUS_LAST_CAUSE = c
  keys : t.strong.keys = State.reset.strong.keys
  revoked : t.strong.revoked = s.strong.revoked
  rollback : t.strong.rollback = s.strong.rollback
  dukGone : t.strong.dukGone = s.strong.dukGone
  memory : ∀ a, t.ms.mem.data.get a =
    if keep && (decide (hearthBase + 0x40000 ≤ a) && decide (a < hearthBase + hearthSize)) then s.ms.mem.data.get a else 0
  rest : t.pending = s.pending ∧ t.reeve = State.reset.reeve ∧ t.net = State.reset.net ∧ t.tally = State.reset.tally ∧ t.cores = State.reset.cores ∧
    t.hml = State.reset.hml

theorem deviceReset_resets (s : State) {c : Nat} (hc : c < 8) (keep : Bool) : DeviceReset s (s.deviceReset c keep) c keep := by
  have he : s.deviceReset c keep = (((resetBase s keep).wr R.HEARTH_RESET_STATUS_LAST_CAUSE c).wr R.HEARTH_RESET_STATUS_MISSED
    (s.rd R.HEARTH_RESET_STATUS_MISSED)).wrB R.HEARTH_STRAPS_RECOVERY keep := rfl
  have hboot : (resetBase s keep).boot = {} := rfl
  have hstrong : (resetBase s keep).strong.keys = State.reset.strong.keys ∧ (resetBase s keep).strong.revoked = s.strong.revoked ∧
    (resetBase s keep).strong.rollback = s.strong.rollback ∧ (resetBase s keep).strong.dukGone = s.strong.dukGone := ⟨rfl, rfl, rfl, rfl⟩
  have hmem : (resetBase s keep).ms.mem.data = s.ms.mem.data.clear (fun k => !keptByReset keep k) := rfl
  have hrest : (resetBase s keep).pending = s.pending ∧ (resetBase s keep).reeve = State.reset.reeve ∧ (resetBase s keep).net = State.reset.net ∧
    (resetBase s keep).tally = State.reset.tally ∧ (resetBase s keep).cores = State.reset.cores ∧ (resetBase s keep).hml = State.reset.hml :=
    ⟨rfl, rfl, rfl, rfl, rfl, rfl⟩
  rw [he]
  generalize resetBase s keep = t at hboot hstrong hmem hrest
  refine ⟨hboot, ?_, ?_, hstrong.1, hstrong.2.1, hstrong.2.2.1, hstrong.2.2.2, fun a => ?_, hrest⟩
  · rw [State.wrB_rd_same]
    cases keep <;> rfl
  · rw [State.wrB_rd_ne _ _ _ _ (by decide), State.wr_rd_ne _ _ _ _ (by decide), State.wr_rd_same]
    exact Nat.mod_eq_of_lt hc
  · rw [State.wrB_ms, State.wr_ms, State.wr_ms, hmem, Tab.get_clear, keptByReset, ← Bool.and_assoc]
    cases keep && decide (hearthBase + 0x40000 ≤ a) && decide (a < hearthBase + hearthSize) <;> rfl

theorem recoveryReboot_reboots : ∀ (s : State) (v : Word), s.inCrier = true → s.rd R.HEARTH_BOOT_STATUS_CAUSE ≠ 13 → bitsOf v 16 16 = 0x5243 → bitOf v 0 = true →
    ∃ t, exec (.recoveryReboot v) s = .next t ∧ t.ans = acked ∧ t.boot = {} ∧ t.rd R.HEARTH_STRAPS_RECOVERY = 1 ∧
      t.rd R.HEARTH_RESET_STATUS_LAST_CAUSE = 4 ∧ t.strong.revoked = s.strong.revoked ∧ t.strong.rollback = s.strong.rollback ∧
      t.strong.dukGone = s.strong.dukGone ∧
      (∀ a, hearthBase + 0x40000 ≤ a → a < hearthBase + hearthSize → t.ms.mem.data.get a = s.ms.mem.data.get a) ∧
      (∀ a, (a < hearthBase + 0x40000 ∨ hearthBase + hearthSize ≤ a) → t.ms.mem.data.get a = 0) := by
  intro s v hc h13 hkey hbit
  have he : exec (.recoveryReboot v) s = .next (s.deviceReset 4 true).ack := by
    have ho := (recoveryOpen_iff s).mpr ⟨hc, h13⟩
    refine (if_neg (by rw [ho]; exact Bool.false_ne_true)).trans (if_pos ⟨hkey, hbit⟩)
  have hr := deviceReset_resets s (c := 4) (by decide) true
  generalize s.deviceReset 4 true = t at he hr
  refine ⟨_, he, rfl, hr.boot, hr.recovery, hr.cause, hr.revoked, hr.rollback, hr.dukGone, fun a h h' => ?_, fun a h => ?_⟩
  · rw [State.ack_ms, hr.memory, if_pos (by simp [h, h'])]
  · rw [State.ack_ms, hr.memory, if_neg (by simp only [Bool.true_and, Bool.and_eq_true, decide_eq_true_eq]; omega)]

theorem recoveryReboot_other : ∀ (s : State) (v : Word), s.inCrier = true → s.rd R.HEARTH_BOOT_STATUS_CAUSE ≠ 13 → (bitsOf v 16 16 ≠ 0x5243 ∨ bitOf v 0 = false) →
    exec (.recoveryReboot v) s = .next { s with ans := acked } := by
  intro s v hc h13 h
  have ho := (recoveryOpen_iff s).mpr ⟨hc, h13⟩
  refine (if_neg (by rw [ho]; exact Bool.false_ne_true)).trans (if_neg fun hk => ?_)
  rcases h with h | h
  · exact h hk.1
  · exact Bool.false_ne_true (h.symm.trans hk.2)

theorem recoveryReboot_refused : ∀ (s : State) (v : Word), (s.inCrier = false ∨ s.rd R.HEARTH_BOOT_STATUS_CAUSE = 13) → exec (.recoveryReboot v) s = .next { s with ans := abortedBy 7 } := by
  intro s v h
  refine if_pos ?_
  rcases h with h | h <;> simp [State.recoveryOpen, h]

/-- Settles O54: each clause is a lemma above about one command. -/
theorem crierStateAndRecovery : Obligations.CrierStateAndRecovery :=
  ⟨lockstepMismatch_decides, hearthCrierEnter_decides, hearthCrierEnter_foreign, crierEntry_enters, crierEntry_waits, crierUartLine_first, crierUartLine_next,
    crierUartLine_outside, i2cWrite_points, i2cRead_reads, i2cSclTimeout_releases, rcvDataWrite_writes, rcvDataWrite_refused, recoveryReboot_reboots,
    recoveryReboot_other, recoveryReboot_refused⟩

end Sys2Proof.Claims

/-! ## O55: replacing parts in service -/

namespace Sys2Proof.Machine

set_option Elab.async false

open Sys2Proof.Claims

theorem State.setRcore_rcore_ne (s : State) {h c h' c' : Nat} (hne : rkey h c ≠ rkey h' c') (r : ReeveCore) : (s.setRcore h' c' r).rcore h c = s.rcore h c := by
  rw [State.rcore, State.setRcore_cores_eq, Tab.get_set_ne _ _ _ _ hne]
  rfl

theorem State.wr_core (s : State) (f : Fld) (v k : Nat) : (s.wr f v).core k = s.core k := rfl

/-- A logical core is OFFLINE at the Reeve. -/
def seatOffline (h c : Nat) (s : State) : Prop := (s.rcore h c).st = .offline

section
variable (s : State) (h c : Nat)

theorem State.releaseLogical_offline : seatOffline h c (s.releaseLogical h c) := by
  obtain ⟨b, f, e⟩ := State.setRcore_rcore (s.releaseCore (9 * h + s.physOf h c) 0) h c
    { (s.releaseCore (9 * h + s.physOf h c) 0).rcore h c with st := .offline, ovrDone := false, taken := false }
  exact congrArg ReeveCore.st e

theorem State.releaseLogical_cores :
    (s.releaseLogical h c).cores = s.cores.set (9 * h + s.physOf h c) { run := .running, pc := 0, since := s.stp.now } := by
  rw [State.releaseLogical, State.modRcore_cores]
  rfl

theorem State.releaseLogical_core : coreStarts (s.releaseLogical h c) (9 * h + s.physOf h c) 0 := by
  have e : (s.releaseLogical h c).core (9 * h + s.physOf h c) = { run := .running, pc := 0, since := s.stp.now } := by
    rw [State.core, State.releaseLogical_cores, Tab.get_set_same]
  rw [coreStarts, e]
  exact ⟨rfl, rfl⟩

theorem State.releaseLogical_hml : (s.releaseLogical h c).hml = s.hml := by
  rw [State.releaseLogical, State.modRcore, State.setRcore_hml]
  rfl

theorem State.setRcore_ms (r : ReeveCore) : (s.setRcore h c r).ms = s.ms := by simp only [State.setRcore, State.wr_ms, State.wrB_ms]

theorem State.releaseLogical_ms : (s.releaseLogical h c).ms = s.ms := by
  rw [State.releaseLogical, State.modRcore, State.setRcore_ms]
  rfl

theorem State.releaseLogical_rd {h c : Nat} (hh : h < 16) (hc : c < 9) {f : Fld} (hf : ¬ rcoreAddrs f.key) : (s.releaseLogical h c).rd f = s.rd f :=
  State.setRcore_writes (s.releaseCore (9 * h + s.physOf h c) 0) hh hc _ f hf

end

end Sys2Proof.Machine

namespace Sys2Proof.Claims

set_option Elab.async false

open Sys2Proof.Machine

/-! ### A spare takes a core's identity -/

theorem spareTake_takes : ∀ (s : State) (h : Fin 16) (v : Word) (l : Nat), bitOf v 31 = true → l = bitsOf v 0 4 → l ≤ 7 → bitsOf v 4 26 = 0 → s.coreEn h l = false →
    (s.rcore h l).st ∈ [.offline, .idle, .lapseOverrun, .halted] → s.rd (R.HAMLET_SPARE_STATUS_STATE h) = 0 →
    s.bit (R.HAMLET_SPARE_STATUS_BUSY h) = false → ∃ t, exec (.spareTake h v) s = .next t ∧ t.ans = acked ∧
      t.rd (R.HAMLET_SPARE_STATUS_BUSY h) = 1 ∧ t.hml.takeover.get h = some (l, bitOf v 30) ∧ t.core (9 * h.val + s.physOf h l) = {} ∧
      sameRegs s t [R.HAMLET_SPARE_STATUS_BUSY h] := by
  intro s h v l hv hl hl7 hf hen hst hstate hbusy
  have hc : s.takeCause h v = 0 := by
    unfold State.takeCause
    dsimp only
    rw [← hl, if_neg (by omega), if_neg (by simp [hen]), if_neg, if_neg (by simp [hstate, hbusy])]
    simp only [List.mem_cons, List.not_mem_nil, or_false] at hst
    rcases hst with e | e | e | e <;> rw [e] <;> decide
  let t := (s.holdCore (9 * h.val + s.physOf h l)).wr (R.HAMLET_SPARE_STATUS_BUSY h) 1
  have he : exec (.spareTake h v) s = .next ({ t with hml := { t.hml with takeover := t.hml.takeover.set h (some (l, bitOf v 30)) } } : State).ack := by
    show execSpareTake h v s = _
    unfold execSpareTake
    dsimp only
    rw [if_neg (by simp [hv]), hc, ← hl]
    rfl
  refine ⟨_, he, rfl, ?_, Tab.get_set_same _ _ _, State.setCore_core _ _ _, ?_⟩
  · exact (State.ack_rd _ _).trans (State.wr_rd_same _ _ _)
  · exact (((sameRegs_of_regs_eq rfl _).wr (.head _) _).of_regs (t := t) rfl).ack

theorem takeCause_le (s : State) (h : Nat) (v : Word) : s.takeCause h v ≤ 4 := by
  unfold State.takeCause
  dsimp only
  split_ifs <;> decide

theorem spareTake_refused : ∀ (s : State) (h : Fin 16) (v : Word), bitOf v 31 = true → s.takeCause h v ≠ 0 → ∃ t, exec (.spareTake h v) s = .next t ∧ t.ans = acked ∧
    t.rd (R.HAMLET_SPARE_STATUS_REFUSED h) = 1 ∧ t.rd (R.HAMLET_SPARE_STATUS_CAUSE h) = s.takeCause h v ∧ t.cores = s.cores ∧ t.hml = s.hml ∧
    sameRegs s t [R.HAMLET_SPARE_STATUS_REFUSED h, R.HAMLET_SPARE_STATUS_CAUSE h] := by
  intro s h v hv hc
  have hle := takeCause_le s h v
  have he : exec (.spareTake h v) s =
      .next ((s.wr (R.HAMLET_SPARE_STATUS_REFUSED h) 1).wr (R.HAMLET_SPARE_STATUS_CAUSE h) (s.takeCause h v)).ack := by
    show execSpareTake h v s = _
    unfold execSpareTake
    dsimp only
    rw [if_neg (by simp [hv])]
    generalize s.takeCause h v = n at hc
    cases n with
    | zero => exact absurd rfl hc
    | succ n => rfl
  refine ⟨_, he, rfl, ?_, ?_, ?_, ?_, ((((sameRegs.refl s _).wr (by simp) _).wr (by simp) _)).ack⟩
  · rw [State.ack_rd, State.wr_rd_ne _ _ _ _ (by simp only [Fld.key, R.HAMLET_SPARE_STATUS_REFUSED, R.HAMLET_SPARE_STATUS_CAUSE, ne_eq]; omega), State.wr_rd_same]
    rfl
  · rw [State.ack_rd, State.wr_rd_same]
    exact Nat.mod_eq_of_lt (Nat.lt_of_le_of_lt hle (by simp only [R.HAMLET_SPARE_STATUS_CAUSE]; decide))
  · rw [State.ack_cores, State.wr_cores, State.wr_cores]
  · rw [State.ack_hml, State.wr_hml, State.wr_hml]

theorem takeCause_decides : ∀ (s : State) (h : Fin 16) (v : Word), (s.takeCause h v = 1 ↔ (7 < bitsOf v 0 4 ∨ bitsOf v 4 26 ≠ 0)) ∧
    (s.takeCause h v = 2 ↔ (bitsOf v 0 4 ≤ 7 ∧ bitsOf v 4 26 = 0 ∧ s.coreEn h (bitsOf v 0 4) = true)) ∧ s.takeCause h v ≤ 4 := by
  intro s h v
  refine ⟨?_, ?_, takeCause_le s h v⟩
  · unfold State.takeCause
    dsimp only
    constructor
    · intro e
      by_contra h1
      rw [if_neg h1] at e
      split_ifs at e <;> exact absurd e (by decide)
    · exact fun h1 => if_pos h1
  · unfold State.takeCause
    dsimp only
    constructor
    · intro e
      by_cases h1 : 7 < bitsOf v 0 4 ∨ bitsOf v 4 26 ≠ 0
      · rw [if_pos h1] at e
        exact absurd e (by decide)
      · rw [if_neg h1] at e
        refine ⟨by omega, by omega, ?_⟩
        by_contra h2
        rw [if_neg h2] at e
        split_ifs at e <;> exact absurd e (by decide)
    · rintro ⟨h1, h2, h3⟩
      rw [if_neg (by omega), if_pos h3]

/-- The takeover's end with its copy made. -/
def takenOver (h l : Nat) (t : State) : State :=
  let u := (t.moveIdentity h l).wr (R.HAMLET_SPARE_STATUS_BUSY h) 0
  { u with hml := { u.hml with takeover := u.hml.takeover.set h none } }

section
variable {t : State} {h l p q : Nat} (hl : l < 8) (hp : t.physOf h l = p) (hq : t.physOf h 8 = q)
include hl hp hq

theorem moveIdentity_map :
    (t.moveIdentity h l).hml = { t.hml with coreMap := (t.hml.coreMap.set (9 * h + l) (some q)).set (9 * h + 8) (some p) } := by
  rw [State.moveIdentity, hp, hq]
  rfl

theorem takenOver_phys : (takenOver h l t).physOf h l = q ∧ (takenOver h l t).physOf h 8 = p := by
  have e : (takenOver h l t).hml.coreMap = (t.hml.coreMap.set (9 * h + l) (some q)).set (9 * h + 8) (some p) :=
    congrArg Hamlets.coreMap (moveIdentity_map hl hp hq)
  rw [State.physOf, State.physOf, e, Tab.get_set_same, Tab.get_set_ne _ _ _ _ (by omega), Tab.get_set_same]
  exact ⟨rfl, rfl⟩

theorem takenOver_shows (hp8 : p ≤ 8) : (takenOver h l t).rd (R.HAMLET_SPARE_STATUS_STATE h) = 1 ∧ (takenOver h l t).rd (R.HAMLET_SPARE_STATUS_LOGICAL h) = l ∧
    (takenOver h l t).rd (R.HAMLET_SPARE_STATUS_VICTIM_PHYS h) = p ∧ (takenOver h l t).rd (R.HAMLET_SPARE_STATUS_BUSY h) = 0 := by
  have e (f : Fld) : (takenOver h l t).rd f = ((t.moveIdentity h l).wr (R.HAMLET_SPARE_STATUS_BUSY h) 0).rd f := rfl
  have e2 : t.moveIdentity h l = ((({ t with hml := (t.moveIdentity h l).hml } : State).wr (R.HAMLET_SPARE_STATUS_STATE h) 1).wr (R.HAMLET_SPARE_STATUS_LOGICAL h) l).wr
      (R.HAMLET_SPARE_STATUS_VICTIM_PHYS h) p := by
    rw [moveIdentity_map hl hp hq, State.moveIdentity, hp, hq]
  rw [e, e, e, e, e2]
  generalize ({ t with hml := (t.moveIdentity h l).hml } : State) = u
  refine ⟨?_, ?_, ?_, State.wr_rd_same _ _ _⟩
  · rw [State.wr_rd_ne _ _ _ _ (by simp only [Fld.key, R.HAMLET_SPARE_STATUS_STATE, R.HAMLET_SPARE_STATUS_BUSY, ne_eq]; omega),
      State.wr_rd_ne _ _ _ _ (by simp only [Fld.key, R.HAMLET_SPARE_STATUS_STATE, R.HAMLET_SPARE_STATUS_VICTIM_PHYS, ne_eq]; omega),
      State.wr_rd_ne _ _ _ _ (by simp only [Fld.key, R.HAMLET_SPARE_STATUS_STATE, R.HAMLET_SPARE_STATUS_LOGICAL, ne_eq]; omega), State.wr_rd_same]
    rfl
  · rw [State.wr_rd_ne _ _ _ _ (by simp only [Fld.key, R.HAMLET_SPARE_STATUS_LOGICAL, R.HAMLET_SPARE_STATUS_BUSY, ne_eq]; omega),
      State.wr_rd_ne _ _ _ _ (by simp only [Fld.key, R.HAMLET_SPARE_STATUS_LOGICAL, R.HAMLET_SPARE_STATUS_VICTIM_PHYS, ne_eq]; omega), State.wr_rd_same]
    exact Nat.mod_eq_of_lt (Nat.lt_trans hl (by simp only [R.HAMLET_SPARE_STATUS_LOGICAL]; decide))
  · rw [State.wr_rd_ne _ _ _ _ (by simp only [Fld.key, R.HAMLET_SPARE_STATUS_VICTIM_PHYS, R.HAMLET_SPARE_STATUS_BUSY, ne_eq]; omega), State.wr_rd_same]
    exact Nat.mod_eq_of_lt (Nat.lt_of_le_of_lt hp8 (by simp only [R.HAMLET_SPARE_STATUS_VICTIM_PHYS]; decide))

end

theorem takeoverDone_moves : ∀ (s : State) (h : Fin 16) (l p q : Nat) (copy : Bool), s.hml.takeover.get h = some (l, copy) → l < 8 → s.physOf h l = p → s.physOf h 8 = q → p ≤ 8 →
    q ≤ 8 → p ≠ q → ∃ t, exec (.spareTakeoverDone h) s = .next t ∧ t.physOf h l = q ∧ t.physOf h 8 = p ∧ t.hml.takeover.get h = none ∧
      t.rd (R.HAMLET_SPARE_STATUS_STATE h) = 1 ∧ t.rd (R.HAMLET_SPARE_STATUS_LOGICAL h) = l ∧ t.rd (R.HAMLET_SPARE_STATUS_VICTIM_PHYS h) = p ∧
      t.rd (R.HAMLET_SPARE_STATUS_BUSY h) = 0 ∧ (t.core (9 * h.val + q)).run = .running ∧ (t.core (9 * h.val + q)).pc = 0 ∧
      (t.rcore h l).st = .offline ∧ (copy = false → t.ms = s.ms) := by
  intro s h l p q copy htake hl hp hq hp8 hq8 hpq
  let t := if copy then s.copyPlot h (s.physOf h l) (s.physOf h 8) else s
  have he : exec (.spareTakeoverDone h) s = .next ((takenOver h l t).releaseLogical h l) := by
    show execSpareTakeoverDone h s = _
    unfold execSpareTakeoverDone
    dsimp only
    rw [htake]
    rfl
  have hhml : t.hml = s.hml := by
    simp only [t]
    split <;> rfl
  have hms : copy = false → t.ms = s.ms := fun h => congrArg State.ms (if_neg (by simp [h]))
  generalize t = t at he hhml hms
  have hp' : t.physOf h l = p := (physOf_congr (congrArg Hamlets.coreMap hhml) _ _).trans hp
  have hq' : t.physOf h 8 = q := (physOf_congr (congrArg Hamlets.coreMap hhml) _ _).trans hq
  obtain ⟨f1, f2⟩ := takenOver_phys hl hp' hq'
  obtain ⟨r1, r2, r3, r4⟩ := takenOver_shows hl hp' hq' hp8
  have htaken : (takenOver h l t).hml.takeover.get h = none := Tab.get_set_same _ _ _
  have hms' : (takenOver h l t).ms = t.ms := rfl
  generalize takenOver h l t = u at he f1 f2 r1 r2 r3 r4 htaken hms'
  have hh := u.releaseLogical_hml h l
  have hph (c : Nat) : (u.releaseLogical h l).physOf h c = u.physOf h c := physOf_congr (congrArg Hamlets.coreMap hh) _ _
  have hrd {f : Fld} (hf : f.key < 0x20000000 * 64) : (u.releaseLogical h l).rd f = u.rd f :=
    u.releaseLogical_rd h.isLt (by omega) (by simp only [rcoreAddrs, addrIn]; omega)
  have hcore := u.releaseLogical_core h l
  rw [f1] at hcore
  refine ⟨_, he, (hph l).trans f1, (hph 8).trans f2, by rw [hh, htaken], ?_, ?_, ?_, ?_, hcore.1, hcore.2, u.releaseLogical_offline h l, fun hcopy => ?_⟩
  · rw [hrd (by simp only [Fld.key, R.HAMLET_SPARE_STATUS_STATE]; omega), r1]
  · rw [hrd (by simp only [Fld.key, R.HAMLET_SPARE_STATUS_LOGICAL]; omega), r2]
  · rw [hrd (by simp only [Fld.key, R.HAMLET_SPARE_STATUS_VICTIM_PHYS]; omega), r3]
  · rw [hrd (by simp only [Fld.key, R.HAMLET_SPARE_STATUS_BUSY]; omega), r4]
  · rw [u.releaseLogical_ms, hms', hms hcopy]

/-! ### A hamlet is readmitted -/

/-- The one hamlet that a word asks for. -/
theorem filter_of_two_pow {v : Word} {h : Nat} (hh : h < 16) (hv : v.toNat = 2 ^ h) : (List.range 16).filter (fun k => bitOf v k) = [h] := by
  have hb (k : Nat) : bitOf v k = decide (h = k) := by rw [bitOf, BitVec.getLsbD, hv, Nat.testBit_two_pow]
  have hall : ∀ h < 16, (List.range 16).filter (fun k => decide (h = k)) = [h] := by decide
  simp only [hb]
  exact hall h hh

theorem hearthReadmit_eq {s : State} {mid : Mid} {v : Word} {h : Nat} (hmid : mid = 0xB1 ∨ 0xA0 ≤ mid.toNat ∧ mid.toNat ≤ 0xAF) (hh : h < 16)
    (hv : v.toNat = 2 ^ h) : exec (.hearthReadmit mid v) s = .next (s.readmit h).ack := by
  show execHearthReadmit mid v s = _
  unfold execHearthReadmit
  rw [if_pos (show mid = hearthMid ∨ _ from hmid), filter_of_two_pow hh hv]
  rfl

/-- The cores of hamlet `h` that failed its last test. -/
def failed (s : State) (h : Nat) : List Nat := (List.range 9).filter (nbit (s.ms.failCores.get h))

/-- The hamlet with its failed cores' identities given to its spare. -/
def mended (s : State) (h : Nat) : State :=
  (failed s h).foldl (fun x p => x.replaceCore h p)
    (if (failed s h).contains (s.physOf h 8) ∧ s.rd (R.HAMLET_SPARE_STATUS_STATE h) = 0 then (s.wr R.HEARTH_READMIT_STATUS_HAMLET h).spareNone h
     else s.wr R.HEARTH_READMIT_STATUS_HAMLET h)

/-- The identities that no good core carries. -/
def lostSeats (s : State) (h : Nat) : List Nat := (List.range 8).filter (fun c => (failed s h).contains ((mended s h).physOf h c))

/-- The identities whose cores start. -/
def keptSeats (s : State) (h : Nat) : List Nat := (List.range 8).filter (fun c => !(lostSeats s h).contains c)

/-- The readmission is shown. -/
def shownReadmit (v : State) (h lost : Nat) : State :=
  ({ v with hml := { v.hml with released := h :: v.hml.released } }.wr R.HEARTH_READMIT_STATUS_CAUSE 0).wr R.HEARTH_READMIT_STATUS_LOST lost

theorem readmit_eq {s : State} {h : Nat} (hc : s.readmitCause h = 0) :
    s.readmit h = shownReadmit ((keptSeats s h).foldl (releaseSeat h) (mended s h)) h (((lostSeats s h).map (fun c => 2 ^ c)).sum) := by
  unfold State.readmit
  dsimp only
  rw [hc]
  rfl

theorem replaceCore_rd (s : State) (h p : Nat) {f : Fld} (hf : 0x40000000 * 64 ≤ f.key ∧ f.key < 0x40001000 * 64) (hh : h < 16) :
    (s.replaceCore h p).rd f = s.rd f := by
  unfold State.replaceCore
  split
  · rw [State.moveIdentity]
    refine ((State.wr_rd_ne _ _ _ _ ?_).trans (State.wr_rd_ne _ _ _ _ ?_)).trans (State.wr_rd_ne _ _ _ _ ?_) <;>
      (simp only [Fld.key, R.HAMLET_SPARE_STATUS_STATE, R.HAMLET_SPARE_STATUS_LOGICAL, R.HAMLET_SPARE_STATUS_VICTIM_PHYS] at hf ⊢; omega)
  · rfl

theorem mended_hamlet (s : State) {h : Nat} (hh : h < 16) : (mended s h).rd R.HEARTH_READMIT_STATUS_HAMLET = h := by
  have hfold : ∀ (l : List Nat) (t : State), (l.foldl (fun x p => x.replaceCore h p) t).rd R.HEARTH_READMIT_STATUS_HAMLET =
      t.rd R.HEARTH_READMIT_STATUS_HAMLET := fun l => by
    induction l with
    | nil => exact fun _ => rfl
    | cons p l ih => exact fun t => (ih _).trans (replaceCore_rd t h p (by decide) hh)
  have h1 : (s.wr R.HEARTH_READMIT_STATUS_HAMLET h).rd R.HEARTH_READMIT_STATUS_HAMLET = h :=
    (State.wr_rd_same _ _ _).trans (Nat.mod_eq_of_lt hh)
  rw [mended, hfold]
  split
  · exact (State.wr_rd_ne _ _ _ _ (by simp only [Fld.key, R.HEARTH_READMIT_STATUS_HAMLET, R.HAMLET_SPARE_STATUS_STATE]; omega)).trans h1
  · exact h1

theorem releaseSeat_offline (h : Nat) (s : State) (c : Nat) : seatOffline h c (releaseSeat h s c) := by
  rw [seatOffline, releaseSeat, State.rcore_congr (s := s.releaseLogical h c) (congrArg Reeve.cores (State.wr_reeve _ _ _))]
  exact s.releaseLogical_offline h c

theorem releaseSeat_keeps_offline (h : Nat) (s : State) (c j : Nat) (hc : seatOffline h c s) : seatOffline h c (releaseSeat h s j) := by
  by_cases e : c = j
  · exact e ▸ releaseSeat_offline h s c
  · rw [seatOffline, releaseSeat, State.rcore_congr (s := s.releaseLogical h j) (congrArg Reeve.cores (State.wr_reeve _ _ _)), State.releaseLogical, State.modRcore,
      State.setRcore_rcore_ne _ (by rw [rkey, rkey]; omega)]
    exact hc

theorem shownReadmit_shows (v : State) (h lost : Nat) : (shownReadmit v h lost).cores = v.cores ∧ (shownReadmit v h lost).reeve = v.reeve ∧
    h ∈ (shownReadmit v h lost).hml.released ∧ (shownReadmit v h lost).rd R.HEARTH_READMIT_STATUS_LOST = lost % 2 ^ 8 ∧
    (shownReadmit v h lost).rd R.HEARTH_READMIT_STATUS_HAMLET = v.rd R.HEARTH_READMIT_STATUS_HAMLET :=
  ⟨rfl, rfl, List.mem_cons_self, State.wr_rd_same _ _ _, (State.wr_rd_ne _ _ _ _ (by decide)).trans (State.wr_rd_ne _ _ _ _ (by decide))⟩

theorem readmit_of_sound {s : State} {h : Nat} (h0 : s.ms.failCores.get h = 0) :
    mended s h = s.wr R.HEARTH_READMIT_STATUS_HAMLET h ∧ lostSeats s h = [] ∧ keptSeats s h = List.range 8 := by
  have hf : failed s h = [] := by
    rw [failed, h0]
    decide
  have hl : lostSeats s h = [] := by
    rw [lostSeats, hf]
    exact List.filter_eq_nil_iff.mpr fun _ _ => Bool.false_ne_true
  refine ⟨?_, hl, ?_⟩
  · rw [mended, hf]
    exact if_neg fun h => nomatch h.1
  · rw [keptSeats, hl]
    decide

theorem readmit_readmits : ∀ (s : State) (mid : Mid) (v : Word) (h : Nat), (mid = 0xB1 ∨ 0xA0 ≤ mid.toNat ∧ mid.toNat ≤ 0xAF) → h < 16 → v.toNat = 2 ^ h →
    s.readmitCause h = 0 → (∀ c < 9, s.physOf h c ≤ 8) → ∃ t, exec (.hearthReadmit mid v) s = .next t ∧ t.ans = acked ∧
      t.rd R.HEARTH_READMIT_STATUS_HAMLET = h ∧ h ∈ t.hml.released ∧
      (s.ms.failCores.get h = 0 → t.rd R.HEARTH_READMIT_STATUS_LOST = 0 ∧ ∀ c < 8, (t.core (9 * h + s.physOf h c)).run = .running ∧
        (t.core (9 * h + s.physOf h c)).pc = 0 ∧ (t.rcore h c).st = .offline) := by
  intro s mid v h hmid hh hv hc hph
  have he := hearthReadmit_eq (s := s) hmid hh hv
  rw [readmit_eq hc] at he
  have hseats := releaseSeats_released hh (keptSeats s h) (fun c hc => List.mem_range.mp (List.mem_of_mem_filter hc)) (mended s h)
  have hoff := (foldl_makes (P := seatOffline h) (releaseSeat_offline h) (releaseSeat_keeps_offline h) (keptSeats s h) (mended s h)).1
  have hsound := readmit_of_sound (s := s) (h := h)
  have hham := mended_hamlet s hh
  generalize (keptSeats s h).foldl (releaseSeat h) (mended s h) = u at he hseats hoff
  obtain ⟨f1, f2, f3, f4, f5⟩ := shownReadmit_shows u h (((lostSeats s h).map (fun c => 2 ^ c)).sum)
  generalize shownReadmit u h (((lostSeats s h).map (fun c => 2 ^ c)).sum) = t at he f1 f2 f3 f4 f5
  refine ⟨_, he, rfl, ?_, f3, fun h0 => ⟨?_, fun c hc => ?_⟩⟩
  · rw [State.ack_rd, f5, hseats.regs _ (by decide), hham]
  · rw [State.ack_rd, f4, (hsound h0).2.1]
    rfl
  · obtain ⟨g1, -, g3⟩ := hsound h0
    have hmem : c ∈ keptSeats s h := g3 ▸ List.mem_range.mpr hc
    have hstart := hseats.starts c hmem
    have hp : (mended s h).physOf h c = s.physOf h c := physOf_congr (by rw [g1, State.wr_hml]) h c
    rw [hp] at hstart
    have hcore : t.ack.core (9 * h + s.physOf h c) = u.core (9 * h + s.physOf h c) := by rw [State.core, State.core, State.ack_cores, f1]
    have hr : t.ack.rcore h c = u.rcore h c := State.rcore_congr (by rw [State.ack_reeve, f2]) h c
    rw [hcore, hr]
    exact ⟨hstart.1, hstart.2, hoff c hmem⟩

theorem readmitCause_le (s : State) (h : Nat) : s.readmitCause h < 4 := by
  unfold State.readmitCause
  dsimp only
  split_ifs <;> decide

theorem readmit_refused : ∀ (s : State) (mid : Mid) (v : Word) (h : Nat), (mid = 0xB1 ∨ 0xA0 ≤ mid.toNat ∧ mid.toNat ≤ 0xAF) → h < 16 → v.toNat = 2 ^ h →
    s.readmitCause h ≠ 0 → ∃ t, exec (.hearthReadmit mid v) s = .next t ∧ t.ans = acked ∧ t.rd R.HEARTH_READMIT_STATUS_HAMLET = h ∧
      t.rd R.HEARTH_READMIT_STATUS_REFUSED = 1 ∧ t.rd R.HEARTH_READMIT_STATUS_CAUSE = s.readmitCause h ∧ t.cores = s.cores ∧ t.hml = s.hml := by
  intro s mid v h hmid hh hv hc
  have hle := readmitCause_le s h
  have hr : s.readmit h = ((s.wr R.HEARTH_READMIT_STATUS_HAMLET h).wr R.HEARTH_READMIT_STATUS_REFUSED 1).wr R.HEARTH_READMIT_STATUS_CAUSE (s.readmitCause h) := by
    unfold State.readmit
    dsimp only
    generalize s.readmitCause h = n at hc
    cases n with
    | zero => exact absurd rfl hc
    | succ n => rfl
  have he := hearthReadmit_eq (s := s) hmid hh hv
  rw [hr] at he
  refine ⟨_, he, rfl, ?_, ?_, ?_, ?_, ?_⟩
  · rw [State.ack_rd, State.wr_rd_ne _ _ _ _ (by decide), State.wr_rd_ne _ _ _ _ (by decide), State.wr_rd_same]
    exact Nat.mod_eq_of_lt hh
  · rw [State.ack_rd, State.wr_rd_ne _ _ _ _ (by decide), State.wr_rd_same]
    rfl
  · rw [State.ack_rd, State.wr_rd_same]
    exact Nat.mod_eq_of_lt (Nat.lt_trans hle (by decide))
  · rw [State.ack_cores, State.wr_cores, State.wr_cores, State.wr_cores]
  · rw [State.ack_hml, State.wr_hml, State.wr_hml, State.wr_hml]

theorem readmit_foreign : ∀ (s : State) (mid : Mid) (v : Word), mid ≠ 0xB1 → (mid.toNat < 0xA0 ∨ 0xAF < mid.toNat) →
    exec (.hearthReadmit mid v) s = .next { s with ans := abortedBy 7 } := fun _ _ _ h1 h2 => if_neg (by rintro (e | e); exacts [h1 e, by omega])

/-! ### Microcode -/

theorem ucodeLoad_starts : ∀ (s : State) (w : Fin 3) (e : Fin 16) (v : Word), bitOf v 31 = true → e.val < engCount w → nbit (s.rd (engEn w)) e = false → s.jobs w e = [] →
    s.rd (ucodeState w e) ≠ 1 → ∃ t, exec (.ucodeLoad w e v) s = .next t ∧ t.ans = acked ∧ t.rd (ucodeState w e) = 1 ∧ t.rd (ucodeResult w e) = 0 ∧
      t.rd (ucodeCause w e) = 0 ∧ sameRegs s t [ucodeState w e, ucodeResult w e, ucodeCause w e] := by
  intro s w e v hv hcount hen hjobs hst
  have he : exec (.ucodeLoad w e v) s = .next (((s.wr (ucodeState w e) 1).wr (ucodeResult w e) 0).wr (ucodeCause w e) 0).ack := by
    show execUcodeLoad w e v s = _
    unfold execUcodeLoad
    dsimp only
    rw [if_neg (by simp [hv, hcount]), if_neg (by simp [hen, hjobs, hst])]
  refine ⟨_, he, rfl, ?_, ?_, ?_, ?_⟩
  · rw [State.ack_rd, State.wr_rd_ne _ _ _ _ (by simp only [Fld.key, ucodeState, ucodeCause, wsFld]; omega),
      State.wr_rd_ne _ _ _ _ (by simp only [Fld.key, ucodeState, ucodeResult, wsFld]; omega), State.wr_rd_same]
    rfl
  · rw [State.ack_rd, State.wr_rd_ne _ _ _ _ (by simp only [Fld.key, ucodeResult, ucodeCause, wsFld]; omega), State.wr_rd_same]
    rfl
  · rw [State.ack_rd, State.wr_rd_same]
    rfl
  · exact ((((sameRegs.refl s _).wr (by simp) _).wr (by simp) _).wr (by simp) _).ack

theorem ucodeLoad_refused : ∀ (s : State) (w : Fin 3) (e : Fin 16) (v : Word), bitOf v 31 = true → e.val < engCount w → (nbit (s.rd (engEn w)) e = true ∨ s.jobs w e ≠ []) →
    ∃ t, exec (.ucodeLoad w e v) s = .next t ∧ t.ans = acked ∧ t.rd (ucodeResult w e) = 2 ∧ t.rd (ucodeCause w e) = 1 ∧
      sameRegs s t [ucodeResult w e, ucodeCause w e] := by
  intro s w e v hv hcount hbusy
  have he : exec (.ucodeLoad w e v) s = .next ((s.wr (ucodeResult w e) 2).wr (ucodeCause w e) 1).ack := by
    show execUcodeLoad w e v s = _
    unfold execUcodeLoad
    dsimp only
    rw [if_neg (by simp [hv, hcount]), if_pos (hbusy.imp_right .inl)]
  refine ⟨_, he, rfl, ?_, ?_, (((sameRegs.refl s _).wr (by simp) _).wr (by simp) _).ack⟩
  · rw [State.ack_rd, State.wr_rd_ne _ _ _ _ (by simp only [Fld.key, ucodeResult, ucodeCause, wsFld]; omega), State.wr_rd_same]
    rfl
  · rw [State.ack_rd, State.wr_rd_same]
    rfl

/-- What the end of a microcode load does with its image's result. -/
def ucodeEnded (w e : Nat) : Except Nat (Nat × Nat) × State → State
  | (.ok (version, sec), t) => ((t.wr (ucodeState w e) 2).wr (ucodeVersion w e) version).wr (ucodeSec w e) sec
  | (.error c, t) => ((t.wr (ucodeState w e) 2).wr (ucodeResult w e) 1).wr (ucodeCause w e) c

theorem ucodeLoadEnd_eq {s : State} {w : Fin 3} {e : Fin 16} (hcount : e.val < engCount w) (hst : s.rd (ucodeState w e) = 1)
    {y : Except Nat (Nat × Nat) × State} (himg : s.ucodeImage w e (s.rd (ucodeAddr w e) * 256) = y) :
    exec (.ucodeLoadEnd w e) s = .next (ucodeEnded w e y) := by
  show execUcodeLoadEnd w e s = _
  unfold execUcodeLoadEnd
  dsimp only
  rw [if_neg (by simp [hst, hcount])]
  obtain ⟨img, hi⟩ : ∃ y, y = s.ucodeImage w e (s.rd (ucodeAddr w e) * 256) := ⟨_, rfl⟩
  rw [← hi] at himg ⊢
  rw [himg]
  obtain ⟨x | x, t⟩ := y <;> rfl

theorem ucodeLoadEnd_decides : ∀ (s u : State) (w : Fin 3) (e : Fin 16) (x : Except Nat (Nat × Nat)), e.val < engCount w → s.rd (ucodeState w e) = 1 →
    s.ucodeImage w e (s.rd (ucodeAddr w e) * 256) = (x, u) → ∃ t, exec (.ucodeLoadEnd w e) s = .next t ∧ t.rd (ucodeState w e) = 2 ∧
      (match x with
       | .ok (version, sec) => t.rd (ucodeVersion w e) = version % 2 ^ 32 ∧ t.rd (ucodeSec w e) = sec % 2 ^ 7 ∧
           sameRegs u t [ucodeState w e, ucodeVersion w e, ucodeSec w e]
       | .error c => t.rd (ucodeResult w e) = 1 ∧ t.rd (ucodeCause w e) = c % 2 ^ 4 ∧
           sameRegs u t [ucodeState w e, ucodeResult w e, ucodeCause w e]) := by
  intro s u w e x hcount hst himg
  have he := ucodeLoadEnd_eq hcount hst himg
  cases x with
  | ok vs =>
    obtain ⟨version, sec⟩ := vs
    dsimp only [ucodeEnded] at he
    refine ⟨_, he, ?_, ?_, State.wr_rd_same _ _ _, (((sameRegs.refl u _).wr (by simp) _).wr (by simp) _).wr (by simp) _⟩
    · rw [State.wr_rd_ne _ _ _ _ (by simp only [Fld.key, ucodeState, ucodeSec, wsFld]; omega),
        State.wr_rd_ne _ _ _ _ (by simp only [Fld.key, ucodeState, ucodeVersion, wsFld]; omega), State.wr_rd_same]
      rfl
    · rw [State.wr_rd_ne _ _ _ _ (by simp only [Fld.key, ucodeVersion, ucodeSec, wsFld]; omega), State.wr_rd_same]
      rfl
  | error c =>
    dsimp only [ucodeEnded] at he
    refine ⟨_, he, ?_, ?_, State.wr_rd_same _ _ _, (((sameRegs.refl u _).wr (by simp) _).wr (by simp) _).wr (by simp) _⟩
    · rw [State.wr_rd_ne _ _ _ _ (by simp only [Fld.key, ucodeState, ucodeCause, wsFld]; omega),
        State.wr_rd_ne _ _ _ _ (by simp only [Fld.key, ucodeState, ucodeResult, wsFld]; omega), State.wr_rd_same]
      rfl
    · rw [State.wr_rd_ne _ _ _ _ (by simp only [Fld.key, ucodeResult, ucodeCause, wsFld]; omega), State.wr_rd_same]
      rfl

/-! ### Hearth firmware -/

theorem handover_starts : ∀ (s : State) (v : Word), bitsOf v 16 16 = 0x4857 → bitOf v 15 = true → s.inCrier = false → s.rd R.HEARTH_HANDOVER_RESULT ≠ 1 →
    ∃ t, exec (.hearthHandover 0xB1 v) s = .next t ∧ t.ans = acked ∧ t.rd R.HEARTH_HANDOVER_RESULT = 1 ∧ t.rd R.HEARTH_HANDOVER_REASON = 0 ∧
      t.core 160 = {} ∧ (∀ k, k ≠ 160 → t.core k = s.core k) ∧ t.ms = s.ms := by
  intro s v hkey hgo hc hres
  have he : exec (.hearthHandover 0xB1 v) s = .next (((s.holdCore hearthCore).wr R.HEARTH_HANDOVER_RESULT 1).wr R.HEARTH_HANDOVER_REASON 0).ack := by
    show execHearthHandover 0xB1 v s = _
    unfold execHearthHandover
    refine if_neg ?_
    rintro (h | h | h | h | h)
    · exact h rfl
    · exact h hkey
    · simp [hgo] at h
    · simp [hc] at h
    · exact hres h
  refine ⟨_, he, rfl, ?_, ?_, State.setCore_core _ _ _, fun k hk => State.setCore_core_ne _ _ hk, rfl⟩
  · rw [State.ack_rd, State.wr_rd_ne _ _ _ _ (by decide), State.wr_rd_same]
    rfl
  · rw [State.ack_rd, State.wr_rd_same]
    rfl

theorem handover_ignored : ∀ (s : State) (mid : Mid) (v : Word), (mid ≠ 0xB1 ∨ bitsOf v 16 16 ≠ 0x4857 ∨ bitOf v 15 = false) →
    exec (.hearthHandover mid v) s = .next { s with ans := acked } := by
  intro s mid v h
  refine if_pos ?_
  rcases h with h | h | h
  · exact .inl h
  · exact .inr (.inl h)
  · exact .inr (.inr (.inl (by rw [h]; rfl)))

theorem handoverEnd_runs {s : State} {h : List Nat} {body : List (Nat × Bool)} (h1 : s.rd R.HEARTH_HANDOVER_RESULT = 1) (hc : s.inCrier = false)
    (himg : s.recoveryImage = (h, body, none)) :
    exec .handoverEnd s = .next (((s.hearthWrite 0 (byteVals body)).runImage h).wr R.HEARTH_HANDOVER_RESULT 2) := by
  refine (if_neg (by simp [h1, hc])).trans ?_
  obtain ⟨img, hi⟩ : ∃ x, x = s.recoveryImage := ⟨_, rfl⟩
  rw [← hi] at himg ⊢
  rw [himg]

theorem handoverEnd_returns {s : State} {h : List Nat} {body : List (Nat × Bool)} {r : Nat} (h1 : s.rd R.HEARTH_HANDOVER_RESULT = 1)
    (hc : s.inCrier = false) (himg : s.recoveryImage = (h, body, some r)) :
    exec .handoverEnd s = .next (((s.releaseCore hearthCore s.boot.entry).wr R.HEARTH_HANDOVER_RESULT 3).wr R.HEARTH_HANDOVER_REASON r) := by
  refine (if_neg (by simp [h1, hc])).trans ?_
  obtain ⟨img, hi⟩ : ∃ x, x = s.recoveryImage := ⟨_, rfl⟩
  rw [← hi] at himg ⊢
  rw [himg]

theorem runImage_shows (s : State) (h : List Nat) : ((s.runImage h).core 160).run = .running ∧ ((s.runImage h).core 160).pc = (le32 36 h).getD 5 0 ∧
    (s.runImage h).boot.version = (le32 36 h).getD 2 0 := by
  have hrun : (s.runImage h).core 160 = { run := .running, pc := (le32 36 h).getD 5 0, since := (s.runImage h).stp.now } := State.setCore_core _ _ _
  rw [hrun]
  exact ⟨rfl, rfl, rfl⟩

theorem handoverEnd_decides : ∀ (s : State) (h : List Nat) (body : List (Nat × Bool)) (r : Option Nat), s.rd R.HEARTH_HANDOVER_RESULT = 1 → s.inCrier = false →
    s.recoveryImage = (h, body, r) → ∃ t, exec .handoverEnd s = .next t ∧ (t.core 160).run = .running ∧
      (match r with
       | none => t.rd R.HEARTH_HANDOVER_RESULT = 2 ∧ (t.core 160).pc = (le32 36 h).getD 5 0 ∧ t.boot.version = (le32 36 h).getD 2 0
       | some r => t.rd R.HEARTH_HANDOVER_RESULT = 3 ∧ t.rd R.HEARTH_HANDOVER_REASON = r % 2 ^ R.HEARTH_HANDOVER_REASON.w ∧
           (t.core 160).pc = s.boot.entry ∧ t.ms = s.ms) := by
  intro s h body r h1 hc himg
  cases r with
  | none =>
    have he := handoverEnd_runs h1 hc himg
    obtain ⟨f1, f2, f3⟩ := runImage_shows (s.hearthWrite 0 (byteVals body)) h
    generalize (s.hearthWrite 0 (byteVals body)).runImage h = t at he f1 f2 f3
    refine ⟨_, he, ?_, ?_, ?_, ?_⟩
    · rw [State.wr_core, f1]
    · rw [State.wr_rd_same]
      rfl
    · rw [State.wr_core, f2]
    · rw [State.wr_boot, f3]
  | some r =>
    have he := handoverEnd_returns h1 hc himg
    have hcore : (s.releaseCore hearthCore s.boot.entry).core 160 = { run := .running, pc := s.boot.entry, since := s.stp.now } := State.setCore_core _ _ _
    have hms : (s.releaseCore hearthCore s.boot.entry).ms = s.ms := rfl
    generalize s.releaseCore hearthCore s.boot.entry = t at he hcore hms
    refine ⟨_, he, ?_, ?_, State.wr_rd_same _ _ _, ?_, ?_⟩
    · rw [State.wr_core, State.wr_core, hcore]
    · rw [State.wr_rd_ne _ _ _ _ (by decide), State.wr_rd_same]
      rfl
    · rw [State.wr_core, State.wr_core, hcore]
    · rw [State.wr_ms, State.wr_ms, hms]

/-- Settles O55: each clause is a lemma above about one command. -/
theorem serviceReplacement : Obligations.ServiceReplacement :=
  ⟨spareTake_takes, spareTake_refused, takeCause_decides, takeoverDone_moves, readmit_readmits, readmit_refused, readmit_foreign, ucodeLoad_starts,
    ucodeLoad_refused, ucodeLoadEnd_decides, handover_starts, handover_ignored, handoverEnd_decides⟩

end Sys2Proof.Claims

/-! ## O56: power domains -/

namespace Sys2Proof.Machine

set_option Elab.async false

open Sys2Proof.Claims

/-- Registers from the Strongroom's block on: all that a power domain's own conditions read. -/
def aboveDomains (k : Nat) : Prop := 0x40001100 * 64 ≤ k

section
variable {s t : State} (hrd : ∀ f : Fld, aboveDomains f.key → t.rd f = s.rd f) (hdom : ∀ e, t.domSt e = s.domSt e)
include hrd

theorem State.mayPowerOff_congr (hdom : ∀ e, t.domSt e = s.domSt e) (d : Nat) : t.mayPowerOff d = s.mayPowerOff d := by
  have e1 (i : Nat) : t.rd (R.LANE_CFG_USE i) = s.rd (R.LANE_CFG_USE i) := hrd _ (by simp only [aboveDomains, Fld.key, R.LANE_CFG_USE]; omega)
  have e2 : t.rd R.REEVE_CTRL_ENABLE = s.rd R.REEVE_CTRL_ENABLE := hrd _ (by simp only [aboveDomains, Fld.key, R.REEVE_CTRL_ENABLE]; omega)
  have e3 : t.rd R.KILN_ENG_EN_EN = s.rd R.KILN_ENG_EN_EN := hrd _ (by simp only [aboveDomains, Fld.key, R.KILN_ENG_EN_EN]; omega)
  have e4 : t.rd R.WHEEL_ENG_EN_EN = s.rd R.WHEEL_ENG_EN_EN := hrd _ (by simp only [aboveDomains, Fld.key, R.WHEEL_ENG_EN_EN]; omega)
  have e5 : t.rd R.MILL_ENG_EN_EN = s.rd R.MILL_ENG_EN_EN := hrd _ (by simp only [aboveDomains, Fld.key, R.MILL_ENG_EN_EN]; omega)
  have e6 (c : Nat) : t.rd (R.SIEVE_CH_STATUS_STATE c) = s.rd (R.SIEVE_CH_STATUS_STATE c) :=
    hrd _ (by simp only [aboveDomains, Fld.key, R.SIEVE_CH_STATUS_STATE]; omega)
  have e7 (i : Nat) : t.rd (R.MARKET_PORT_CFG_EN i) = s.rd (R.MARKET_PORT_CFG_EN i) := hrd _ (by simp only [aboveDomains, Fld.key, R.MARKET_PORT_CFG_EN]; omega)
  have e8 (k : Nat) : t.rd (R.EWL_CFG_EN k) = s.rd (R.EWL_CFG_EN k) := hrd _ (by simp only [aboveDomains, Fld.key, R.EWL_CFG_EN]; omega)
  have e9 (k : Nat) : t.stoolSt k = s.stoolSt k := hrd _ (by simp only [aboveDomains, Fld.key, R.COPPICE_STOOL_STATUS_STATE]; omega)
  have e10 (c : Nat) : t.rd (R.CARTER_CH_STATE_STATE c) = s.rd (R.CARTER_CH_STATE_STATE c) :=
    hrd _ (by simp only [aboveDomains, Fld.key, R.CARTER_CH_STATE_STATE]; omega)
  simp only [State.mayPowerOff, State.bit_eq, hdom, e1, e2, e3, e4, e5, e6, e7, e8, e9, e10]

theorem State.gateCause_congr (htally : t.tally = s.tally) (hreeve : t.reeve = s.reeve) (d : Nat) (held : Bool) :
    t.gateCause d held = s.gateCause d held := by
  have e1 (r p : Nat) : t.bit (R.COMMONS_RTR_PORT_STATUS_DRAINED r p) = s.bit (R.COMMONS_RTR_PORT_STATUS_DRAINED r p) := by
    rw [State.bit_eq, State.bit_eq, hrd _ (by simp only [aboveDomains, Fld.key, R.COMMONS_RTR_PORT_STATUS_DRAINED]; omega)]
  have e2 (h c : Nat) : t.rcore h c = s.rcore h c := State.rcore_congr (by rw [hreeve]) h c
  have e3 (id : Nat) : t.ledgerOut id = s.ledgerOut id := by simp only [State.ledgerOut, State.ledgerIssued, State.ledgerReturned, htally]
  have h1 : t.domainUnreconciled d = s.domainUnreconciled d := by rw [State.domainUnreconciled, State.domainUnreconciled, htally]
  have h2 : t.domainUndrained d = s.domainUndrained d := by simp only [State.domainUndrained, e1]
  have h3 : t.hamletItems d = s.hamletItems d := List.foldl_ext _ _ _ fun n c _ => by rw [e2]
  have h4 : t.domainTokens d = s.domainTokens d := by
    unfold State.domainTokens
    rw [h3, htally]
    exact List.foldl_ext _ _ _ fun n id _ => by rw [e3]
  rw [State.gateCause, State.gateCause, h1, h2, h4]

end

/-- What a request's acknowledgement of REFUSED leaves: all that decides the request. -/
structure SameDomains (s t : State) (d : Nat) : Prop where
  dom : ∀ e, t.domSt e = s.domSt e
  off : t.mayPowerOff d = s.mayPowerOff d
  on : t.mayPowerOn d = s.mayPowerOn d
  held : t.heldPlan d = s.heldPlan d
  gate : t.gateCause d false = s.gateCause d false
  regs : sameRegs s t [R.PWR_DOM_REFUSED d]

theorem wr_refused_same (s : State) {d : Nat} (hd : d < 48) (n : Nat) : SameDomains s (s.wr (R.PWR_DOM_REFUSED d) n) d := by
  have hrd : ∀ f : Fld, aboveDomains f.key → (s.wr (R.PWR_DOM_REFUSED d) n).rd f = s.rd f := fun f hf => State.wr_rd_ne _ _ _ _ (by
    simp only [aboveDomains] at hf
    simp only [Fld.key, R.PWR_DOM_REFUSED] at hf ⊢
    omega)
  have hdom (e : Nat) : (s.wr (R.PWR_DOM_REFUSED d) n).domSt e = s.domSt e := State.wr_rd_ne _ _ _ _ (by simp only [Fld.key, R.PWR_DOM_STATE, R.PWR_DOM_REFUSED, ne_eq]; omega)
  exact ⟨hdom, State.mayPowerOff_congr hrd hdom d, by simp only [State.mayPowerOn, State.domOn, hdom], rfl,
    State.gateCause_congr hrd (State.wr_tally _ _ _) (State.wr_reeve _ _ _) d false, (sameRegs.refl s _).wr (.head _) n⟩

theorem pwrClear_same (s : State) {d : Nat} (hd : d < 48) (v : Word) : SameDomains s (s.pwrClear d v) d := wr_refused_same s hd _

section
variable (s : State) (d : Nat)

theorem State.domTo_same {n : Nat} (hn : n < 8) : (s.domTo d n).domSt d = n := (State.wr_rd_same _ _ _).trans (Nat.mod_eq_of_lt hn)

theorem State.domRefuse_refused (c : Nat) : domRefused s (s.domRefuse d c) d (c % 2 ^ 3) :=
  ⟨(State.wr_rd_ne _ _ _ _ (by simp only [Fld.key, R.PWR_DOM_REFUSED, R.PWR_DOM_CAUSE, ne_eq]; omega)).trans (State.wr_rd_same _ _ _), State.wr_rd_same _ _ _,
    (State.wr_rd_ne _ _ _ _ (by simp only [Fld.key, R.PWR_DOM_STATE, R.PWR_DOM_CAUSE, ne_eq]; omega)).trans (State.wr_rd_ne _ _ _ _ (by simp only [Fld.key, R.PWR_DOM_STATE, R.PWR_DOM_REFUSED, ne_eq]; omega))⟩

end

end Sys2Proof.Machine

namespace Sys2Proof.Claims

set_option Elab.async false

open Sys2Proof.Machine

theorem domRefused.of_same {s t u : State} {d c : Nat} (h : domRefused t u d c) (hd : t.domSt d = s.domSt d) : domRefused s u.ack d c := by
  obtain ⟨h1, h2, h3⟩ := h
  exact ⟨(State.ack_rd _ _).trans h1, (State.ack_rd _ _).trans h2, ((State.ack_rd _ _).trans h3).trans hd⟩

section
variable {s : State} {mid : Mid} {d : Fin 48} {v : Word}

theorem pwrDomOff_decides (ha : asks v 1) (h1 : s.domSt d ≠ 1) (h4 : s.domSt d ≠ 4) :
    exec (.pwrDomOff mid d v) s = .next ((s.pwrClear d v).decideOff mid d).ack := by
  have hd := (pwrClear_same s d.isLt v).dom d
  refine if_neg ?_
  rintro (h | h | h | h)
  · simp [ha.1] at h
  · exact h ha.2
  · exact h1 (hd ▸ h)
  · exact h4 (hd ▸ h)

theorem pwrDomOff_idle : ∀ (s : State) (mid : Mid) (d : Fin 48) (v : Word), asks v 1 → (s.domSt d = 1 ∨ s.domSt d = 4) → ∃ t, exec (.pwrDomOff mid d v) s = .next t ∧
    t.ans = acked ∧ t.domSt d = s.domSt d ∧ sameRegs s t [R.PWR_DOM_REFUSED d] := by
  intro s mid d v ha hst
  have hc := pwrClear_same s d.isLt v
  have he : exec (.pwrDomOff mid d v) s = .next (s.pwrClear d v).ack := if_pos (.inr (.inr (by rwa [hc.dom])))
  exact ⟨_, he, rfl, (State.ack_rd _ _).trans (hc.dom d), hc.regs.ack⟩

theorem pwrDomOff_busy : ∀ (s : State) (mid : Mid) (d : Fin 48) (v : Word), asks v 1 → (s.domSt d = 2 ∨ s.domSt d = 3) → ∃ t, exec (.pwrDomOff mid d v) s = .next t ∧
    t.ans = acked ∧ domRefused s t d 3 := by
  intro s mid d v ha hst
  have hc := pwrClear_same s d.isLt v
  have he := pwrDomOff_decides (mid := mid) ha (show s.domSt d ≠ 1 by omega) (by omega)
  rw [State.decideOff, if_pos (by rwa [hc.dom])] at he
  exact ⟨_, he, rfl, (State.domRefuse_refused _ _ 3).of_same (hc.dom d)⟩

/-- An OFF request to a domain that is ON. -/
theorem pwrDomOff_on (ha : asks v 1) (h0 : s.domSt d = 0) : exec (.pwrDomOff mid d v) s = .next ((s.pwrClear d v).decideOff mid d).ack :=
  pwrDomOff_decides ha (by rw [h0]; decide) (by rw [h0]; decide)

theorem decideOff_on {t : State} {e : Nat} (h0 : t.domSt e = 0) : t.decideOff mid e =
    if e = 47 then t.domRefuse e 5 else if selfDomain mid e then t.domRefuse e 6 else if !t.mayPowerOff e then t.domRefuse e 4
    else if t.heldPlan e then { t.domTo e 4 with pwr := { t.pwr with holder := t.pwr.holder.set e mid.toNat } }
    else if (t.gateCheck e false).1 = 0 then (t.gateCheck e false).2.domTo e 2
    else ((t.gateCheck e false).2.domTo e 0).domRefuse e (t.gateCheck e false).1 := if_neg (by omega)

end

theorem pwrDomOff_essential : ∀ (s : State) (mid : Mid) (v : Word), asks v 1 → s.domSt 47 = 0 → ∃ t, exec (.pwrDomOff mid 47 v) s = .next t ∧ t.ans = acked ∧ domRefused s t 47 5 := by
  intro s mid v ha h0
  have hc := pwrClear_same s (d := 47) (by decide) v
  have he := pwrDomOff_on (mid := mid) (d := 47) ha h0
  have h47 : (s.pwrClear 47 v).decideOff mid 47 = (s.pwrClear 47 v).domRefuse 47 5 := (decideOff_on ((hc.dom 47).trans h0)).trans (if_pos rfl)
  exact ⟨_, he.trans (congrArg (fun u : State => Host.Outcome.next u.ack) h47), rfl, (State.domRefuse_refused _ 47 5).of_same (hc.dom 47)⟩

/-- A Hall core's domain is none of the others. -/
theorem selfDomain_ne {mid : Mid} {d : Nat} (h : selfDomain mid d = true) : d ≠ 47 := by
  rintro rfl
  simp [selfDomain] at h

theorem pwrDomOff_self : ∀ (s : State) (mid : Mid) (d : Fin 48) (v : Word), asks v 1 → s.domSt d = 0 → selfDomain mid d = true → ∃ t, exec (.pwrDomOff mid d v) s = .next t ∧
    t.ans = acked ∧ domRefused s t d 6 := by
  intro s mid d v ha h0 hself
  have hc := pwrClear_same s d.isLt v
  have he := pwrDomOff_on (mid := mid) ha h0
  rw [decideOff_on ((hc.dom d).trans h0), if_neg (selfDomain_ne hself), if_pos hself] at he
  exact ⟨_, he, rfl, (State.domRefuse_refused _ _ 6).of_same (hc.dom d)⟩

theorem pwrDomOff_inUse : ∀ (s : State) (mid : Mid) (d : Fin 48) (v : Word), asks v 1 → s.domSt d = 0 → d.val ≠ 47 → selfDomain mid d = false → s.mayPowerOff d = false →
    ∃ t, exec (.pwrDomOff mid d v) s = .next t ∧ t.ans = acked ∧ domRefused s t d 4 := by
  intro s mid d v ha h0 h47 hself hoff
  have hc := pwrClear_same s d.isLt v
  have he := pwrDomOff_on (mid := mid) ha h0
  rw [decideOff_on ((hc.dom d).trans h0), if_neg h47, if_neg (by rw [hself]; exact Bool.false_ne_true), if_pos (by rw [hc.off, hoff]; rfl)] at he
  exact ⟨_, he, rfl, (State.domRefuse_refused _ _ 4).of_same (hc.dom d)⟩

theorem pwrDomOff_holds : ∀ (s : State) (mid : Mid) (d : Fin 48) (v : Word), asks v 1 → s.domSt d = 0 → d.val ≠ 47 → selfDomain mid d = false → s.mayPowerOff d = true →
    s.heldPlan d = true → ∃ t, exec (.pwrDomOff mid d v) s = .next t ∧ t.ans = acked ∧ t.domSt d = 4 ∧ t.pwr.holder.get d = mid.toNat := by
  intro s mid d v ha h0 h47 hself hoff hheld
  have hc := pwrClear_same s d.isLt v
  have he := pwrDomOff_on (mid := mid) ha h0
  rw [decideOff_on ((hc.dom d).trans h0), if_neg h47, if_neg (by rw [hself]; exact Bool.false_ne_true), if_neg (by rw [hc.off, hoff]; exact Bool.false_ne_true),
    if_pos (by rw [hc.held, hheld])] at he
  exact ⟨_, he, rfl, (State.ack_rd _ _).trans (State.domTo_same (s.pwrClear d v) d (n := 4) (by decide)), Tab.get_set_same _ _ _⟩

theorem gateCheck_cause (t : State) (d : Nat) (held : Bool) : (t.gateCheck d held).1 = t.gateCause d held := by rw [State.gateCheck]

/-- The gate's view of a domain leaves the domain's state. -/
theorem gateCheck_domSt (t : State) (d e : Nat) (held : Bool) : (t.gateCheck d held).2.domSt e = t.domSt e := by
  have h1 : (t.showDomain d).domSt e = t.domSt e := by
    refine ((State.wr_rd_ne _ _ _ _ ?_).trans (State.wrB_rd_ne _ _ _ _ ?_)).trans (State.wrB_rd_ne _ _ _ _ ?_) <;>
      (simp only [Fld.key, R.PWR_DOM_STATE, R.TALLY_DOMAIN_HELD_UNRECONCILED, R.TALLY_DOMAIN_HELD_NOT_DRAINED, R.TALLY_DOMAIN_HELD_HELD]; omega)
  unfold State.gateCheck
  dsimp only
  generalize t.showDomain d = u at h1
  split
  · exact h1
  · refine (((State.wr_rd_ne _ _ _ _ ?_).trans (State.wr_rd_ne _ _ _ _ ?_)).trans (State.wr_rd_ne _ _ _ _ ?_)).trans h1 <;>
      (simp only [Fld.key, R.PWR_DOM_STATE, R.TALLY_STATUS_GATE_REFUSED, R.TALLY_STATUS_GATE_CAUSE, R.TALLY_STATUS_GATE_DOMAIN]; omega)

theorem gateCause_lt (s : State) (d : Nat) (held : Bool) : s.gateCause d held < 3 := by
  unfold State.gateCause
  split_ifs <;> decide

theorem pwrDomOff_gate : ∀ (s : State) (mid : Mid) (d : Fin 48) (v : Word), asks v 1 → s.domSt d = 0 → d.val ≠ 47 → selfDomain mid d = false → s.mayPowerOff d = true →
    s.heldPlan d = false → ∃ t, exec (.pwrDomOff mid d v) s = .next t ∧ t.ans = acked ∧
      (if s.gateCause d false = 0 then t.domSt d = 2 else domRefused s t d (s.gateCause d false % 2 ^ 3)) := by
  intro s mid d v ha h0 h47 hself hoff hheld
  have hc := pwrClear_same s d.isLt v
  have he := pwrDomOff_on (mid := mid) ha h0
  have hst := (hc.dom d).trans h0
  have hg : ((s.pwrClear d v).gateCheck d false).1 = s.gateCause d false := (gateCheck_cause _ _ _).trans hc.gate
  rw [decideOff_on hst, if_neg h47, if_neg (by rw [hself]; exact Bool.false_ne_true), if_neg (by rw [hc.off, hoff]; exact Bool.false_ne_true),
    if_neg (by rw [hc.held, hheld]; exact Bool.false_ne_true), hg] at he
  generalize ((s.pwrClear d v).gateCheck d false).2 = u at he
  by_cases hz : s.gateCause d false = 0
  · rw [if_pos hz] at he
    refine ⟨_, he, rfl, ?_⟩
    rw [if_pos hz]
    exact (State.ack_rd _ _).trans (State.domTo_same u d (n := 2) (by decide))
  · rw [if_neg hz] at he
    refine ⟨_, he, rfl, ?_⟩
    rw [if_neg hz]
    exact (State.domRefuse_refused _ _ _).of_same ((State.domTo_same u d (n := 0) (by decide)).trans h0.symm)

/-! ### ON requests -/

section
variable {s : State} {mid : Mid} {d : Fin 48} {v : Word}

theorem pwrDomOn_eq (ha : asks v 0) : exec (.pwrDomOn mid d v) s =
    if (s.pwrClear d v).domSt d = 0 then .next (s.pwrClear d v).ack
    else if (s.pwrClear d v).domSt d = 4 then .next ((s.pwrClear d v).domTo d 0).ack
    else if (s.pwrClear d v).domSt d = 2 ∨ (s.pwrClear d v).domSt d = 3 then .next ((s.pwrClear d v).domRefuse d 3).ack
    else if !(s.pwrClear d v).mayPowerOn d then .next ((s.pwrClear d v).domRefuse d (if selfDomain mid d then 6 else 4)).ack
    else .next ((s.pwrClear d v).domTo d 3).ack := by
  show execPwrDomOn mid d v s = _
  unfold execPwrDomOn
  dsimp only
  exact if_congr (by simp [ha.1, ha.2]) rfl rfl

end

theorem pwrDomOn_on : ∀ (s : State) (mid : Mid) (d : Fin 48) (v : Word), asks v 0 → s.domSt d = 0 → ∃ t, exec (.pwrDomOn mid d v) s = .next t ∧ t.ans = acked ∧
    t.domSt d = 0 ∧ sameRegs s t [R.PWR_DOM_REFUSED d] := by
  intro s mid d v ha h0
  have hc := pwrClear_same s d.isLt v
  have he := (pwrDomOn_eq (mid := mid) (d := d) (s := s) ha).trans (if_pos ((hc.dom d).trans h0))
  exact ⟨_, he, rfl, (State.ack_rd _ _).trans ((hc.dom d).trans h0), hc.regs.ack⟩

theorem pwrDomOn_withdraws : ∀ (s : State) (mid : Mid) (d : Fin 48) (v : Word), asks v 0 → s.domSt d = 4 → ∃ t, exec (.pwrDomOn mid d v) s = .next t ∧ t.ans = acked ∧ t.domSt d = 0 := by
  intro s mid d v ha h4
  have hc := pwrClear_same s d.isLt v
  have he := pwrDomOn_eq (mid := mid) (d := d) (s := s) ha
  rw [hc.dom, h4, if_neg (by decide), if_pos rfl] at he
  exact ⟨_, he, rfl, (State.ack_rd _ _).trans (State.domTo_same _ _ (by decide))⟩

theorem pwrDomOn_busy : ∀ (s : State) (mid : Mid) (d : Fin 48) (v : Word), asks v 0 → (s.domSt d = 2 ∨ s.domSt d = 3) → ∃ t, exec (.pwrDomOn mid d v) s = .next t ∧
    t.ans = acked ∧ domRefused s t d 3 := by
  intro s mid d v ha hst
  have hc := pwrClear_same s d.isLt v
  have he := pwrDomOn_eq (mid := mid) (d := d) (s := s) ha
  rw [hc.dom, if_neg (by omega), if_neg (by omega), if_pos hst] at he
  exact ⟨_, he, rfl, (State.domRefuse_refused _ _ 3).of_same (hc.dom d)⟩

theorem pwrDomOn_powers : ∀ (s : State) (mid : Mid) (d : Fin 48) (v : Word), asks v 0 → s.domSt d = 1 → s.mayPowerOn d = true → ∃ t, exec (.pwrDomOn mid d v) s = .next t ∧
    t.ans = acked ∧ t.domSt d = 3 := by
  intro s mid d v ha h1 hon
  have hc := pwrClear_same s d.isLt v
  have he := pwrDomOn_eq (mid := mid) (d := d) (s := s) ha
  rw [hc.dom, h1, if_neg (by decide), if_neg (by decide), if_neg (by decide), if_neg (by rw [hc.on, hon]; exact Bool.false_ne_true)] at he
  exact ⟨_, he, rfl, (State.ack_rd _ _).trans (State.domTo_same _ _ (by decide))⟩

theorem pwrDomOn_inUse : ∀ (s : State) (mid : Mid) (d : Fin 48) (v : Word), asks v 0 → s.domSt d = 1 → s.mayPowerOn d = false → selfDomain mid d = false →
    ∃ t, exec (.pwrDomOn mid d v) s = .next t ∧ t.ans = acked ∧ domRefused s t d 4 := by
  intro s mid d v ha h1 hon hself
  have hc := pwrClear_same s d.isLt v
  have he := pwrDomOn_eq (mid := mid) (d := d) (s := s) ha
  rw [hc.dom, h1, if_neg (by decide), if_neg (by decide), if_neg (by decide), if_pos (by rw [hc.on, hon]; rfl), hself] at he
  exact ⟨_, he, rfl, (State.domRefuse_refused _ _ 4).of_same (hc.dom d)⟩

/-! ### Holds -/

theorem holdRedecide_waits : ∀ (s : State) (d : Fin 48), s.domSt d = 4 → s.heldPlan d = true → exec (.pwrHoldRedecide d) s = .next s := fun _ _ _ hh => if_pos (.inr hh)

theorem holdRedecide_powers : ∀ (s : State) (d : Fin 48), s.domSt d = 4 → s.heldPlan d = false → d.val ≠ 47 → selfDomain (BitVec.ofNat 8 (s.pwr.holder.get d)) d = false →
    (s.domTo d 0).mayPowerOff d = true → (s.domTo d 0).gateCause d false = 0 → ∃ t, exec (.pwrHoldRedecide d) s = .next t ∧ t.domSt d = 2 := by
  intro s d h4 hheld h47 hself hoff hgate
  have he : exec (.pwrHoldRedecide d) s = .next ((s.domTo d 0).decideOff (BitVec.ofNat 8 (s.pwr.holder.get d)) d) := if_neg (by simp [h4, hheld])
  have h0 : (s.domTo d 0).domSt d = 0 := State.domTo_same _ _ (by decide)
  have hg : ((s.domTo d 0).gateCheck d false).1 = 0 := (gateCheck_cause _ _ _).trans hgate
  rw [decideOff_on h0, if_neg h47, if_neg (by rw [hself]; exact Bool.false_ne_true), if_neg (by rw [hoff]; exact Bool.false_ne_true),
    if_neg (by rw [show (s.domTo d 0).heldPlan d = s.heldPlan d from rfl, hheld]; exact Bool.false_ne_true), if_pos hg] at he
  exact ⟨_, he, State.domTo_same _ _ (by decide)⟩

/-! ### Power-down -/

/-- The clock domains of a domain are no longer LOST. -/
def clockFound (c : Nat) (s : State) : Prop := c ∉ s.stp.lost

theorem setLost_lost (s : State) (c : Nat) : (s.setLost c false).stp.lost = s.stp.lost.filter (· != c) := congrArg Steeple.lost (State.wr_stp _ _ _)

theorem setLost_found (s : State) (c : Nat) : clockFound c (s.setLost c false) := by
  rw [clockFound, setLost_lost]
  simp

theorem setLost_keeps_found (s : State) (c b : Nat) (h : clockFound c s) : clockFound c (s.setLost b false) := by
  rw [clockFound, setLost_lost]
  exact fun hm => h (List.mem_of_mem_filter hm)

/-- The clocks of `l` are found again. -/
def foundAll (l : List Nat) (s : State) : State := l.foldl (fun t c => t.setLost c false) s

theorem foundAll_keeps (l : List Nat) (s : State) : Keeps [.regs, .stp] s (foundAll l s) :=
  keeps_foldl _ (fun _ c ht => keeps_setLost ht (by decide) (by decide) c false) l s (.refl _ s)

theorem foundAll_domSt (l : List Nat) (s : State) (d : Nat) (hd : d < 48) : (foundAll l s).domSt d = s.domSt d := by
  have hw : WritesIn (fun k => 0x44000000 * 64 ≤ k) s (foundAll l s) :=
    WritesIn.foldl l (fun t c _ ht => (ht.of_regs (u := t.setStp _) rfl).wr (by simp only [Fld.key, R.STEEPLE_REPLICA_LOST_LOST]; omega) _) (.refl _ s)
  exact hw (R.PWR_DOM_STATE d) (by simp only [Fld.key, R.PWR_DOM_STATE]; omega)

theorem powerDown_eq {s : State} {d : Fin 48} (h2 : s.domSt d = 2) :
    exec (.powerDown d) s = .next (foundAll (domainClocks d) (((s.foldSlices d).loseDomain d).domTo d 1)) := if_neg (not_not.mpr h2)

/-- What a hamlet's domain loses (R606). -/
structure HamletLost (d : Nat) (s t : State) : Prop where
  barn : ∀ a, barnBase d ≤ a → a < barnBase d + 0x01000000 → t.ms.mem.data.get a = 0
  cores : ∀ k < 9, (t.core (9 * d + k)).run = .held
  closed : t.ms.hamletClosed.get d = true
  released : d ∉ t.hml.released
  map : t.hml.coreMap = s.hml.coreMap

/-- The seats of a hamlet go OFFLINE as its domain loses power. -/
def seatsOff (d : Nat) (t : State) : State :=
  (List.range 9).foldl (fun x c => x.modRcore d c (fun r => { r with st := .offline, ovrDone := false, taken := false })) t

theorem seatsOff_keeps (d : Nat) (t : State) : Keeps [.regs, .reeve] t (seatsOff d t) :=
  keeps_foldl _ (fun _ c ht => keeps_modRcore ht (by decide) (by decide) d c _) _ t (.refl _ t)

/-- What a hamlet's domain clears beside its seats. -/
def hamletCleared (d : Nat) (u : State) : State :=
  { u with
    cores := u.cores.clear (fun k => inRange (9 * d) (9 * d + 9) k), querns := u.querns.set d default,
    crt := { u.crt with chans := u.crt.chans.clear (fun k => inRange (64 + 8 * d) (72 + 8 * d) k) },
    hml := { u.hml with released := u.hml.released.filter (· != d) },
    ms := { u.ms with hamletClosed := u.ms.hamletClosed.set d true } }

theorem hamletCleared_lost (d : Nat) (u : State) (hb : ∀ a, barnBase d ≤ a → a < barnBase d + 0x01000000 → u.ms.mem.data.get a = 0) :
    HamletLost d u (hamletCleared d u) := by
  refine ⟨hb, fun k hk => ?_, Tab.get_set_same _ _ _, ?_, rfl⟩
  · have hg : (hamletCleared d u).core (9 * d + k) = default := by
      refine (Tab.get_clear u.cores _ _).trans (if_pos ?_)
      simp [inRange, hk]
    rw [hg]
    rfl
  · show d ∉ u.hml.released.filter (· != d)
    simp

theorem loseHamlet_lost (s : State) {d : Nat} (hd : d < 16) : HamletLost d s (s.loseDomain d) := by
  let t := ((s.clearRegs (0x10F00000 + d * 0x01000000) (0x10F00000 + d * 0x01000000 + 0x5000)).clearRegs (0x10F00000 + d * 0x01000000 + 0x5008)
    (0x10F00000 + d * 0x01000000 + 0x100000)).setMem (s.ms.mem.fill (barnBase d) (barnBase d + 0x01000000))
  have he : s.loseDomain d = hamletCleared d (seatsOff d t) := if_pos hd
  have hmem : (seatsOff d t).ms.mem = t.ms.mem := (seatsOff_keeps d t).1 .mem (by decide)
  have hhml : (seatsOff d t).hml = t.hml := (seatsOff_keeps d t).1 .hml (by decide)
  have htm : t.ms.mem = s.ms.mem.fill (barnBase d) (barnBase d + 0x01000000) := rfl
  have hth : t.hml = s.hml := rfl
  rw [he]
  generalize seatsOff d t = u at hmem hhml
  obtain ⟨h1, h2, h3, h4, h5⟩ := hamletCleared_lost d u (fun a h1 h2 => by
    rw [hmem, htm]
    exact Memory.fill_data_in _ h1 h2)
  exact ⟨h1, h2, h3, h4, h5.trans (by rw [hhml, hth])⟩

theorem loseDomain_cellar (s : State) {d : Nat} (hd : d = 45 ∨ d = 46) : s.loseDomain d = s := by
  unfold State.loseDomain
  rcases hd with rfl | rfl <;> rfl

theorem powerDown_ends : ∀ (s : State) (d : Fin 48), s.domSt d = 2 → ∃ t, exec (.powerDown d) s = .next t ∧ t.domSt d = 1 ∧ (∀ c ∈ domainClocks d, c ∉ t.stp.lost) ∧
    (d.val < 16 → (∀ a, barnBase d ≤ a → a < barnBase d + 0x01000000 → t.ms.mem.data.get a = 0) ∧ (∀ k < 9, (t.core (9 * d.val + k)).run = .held) ∧
      t.ms.hamletClosed.get d = true ∧ d.val ∉ t.hml.released ∧ t.hml.coreMap = s.hml.coreMap) ∧
    (d.val = 45 ∨ d.val = 46 → t.ms.mem = s.ms.mem) := by
  intro s d h2
  have he := powerDown_eq h2
  have hfound := (foldl_makes (P := clockFound) setLost_found setLost_keeps_found (domainClocks d) (((s.foldSlices d).loseDomain d).domTo d 1)).1
  have hk := foundAll_keeps (domainClocks d) (((s.foldSlices d).loseDomain d).domTo d 1)
  have hdom : (foundAll (domainClocks d) (((s.foldSlices d).loseDomain d).domTo d 1)).domSt d = 1 :=
    (foundAll_domSt _ _ _ d.isLt).trans (State.domTo_same _ _ (by decide))
  have hmem := hk.1 .mem (by decide)
  have hms := hk.1 .ms (by decide)
  have hcores := hk.1 .cores (by decide)
  have hhml := hk.1 .hml (by decide)
  simp only [Part.same] at hmem hms hcores hhml
  have hfs : Keeps [.tally] s (s.foldSlices d) := keeps_foldSlices (.refl _ s) (by decide) d
  have hfm : (s.foldSlices d).ms.mem = s.ms.mem := hfs.1 .mem (by decide)
  have hfh : (s.foldSlices d).hml = s.hml := hfs.1 .hml (by decide)
  refine ⟨_, he, hdom, hfound, fun hlt => ?_, fun hd => ?_⟩
  · have hl := loseHamlet_lost (s.foldSlices d) hlt
    refine ⟨fun a h1 h2 => ?_, fun k hk => ?_, ?_, ?_, ?_⟩
    · rw [hmem]
      exact hl.barn a h1 h2
    · rw [State.core, hcores]
      exact hl.cores k hk
    · rw [hms]
      exact hl.closed
    · rw [hhml]
      exact hl.released
    · rw [hhml]
      exact hl.map.trans (by rw [hfh])
  · rw [hmem, loseDomain_cellar _ hd]
    exact hfm

theorem powerDown_idle : ∀ (s : State) (d : Fin 48), s.domSt d ≠ 2 → exec (.powerDown d) s = .next s := fun _ _ h => if_pos h

/-! ### Power-up -/

/-- The Commons ports of a domain after power-up. -/
def portsClosed (d : Nat) (s : State) : State := (domainNis d).foldl (fun x n => x.setPortSt (n / 4) (4 + n % 4) 4) (s.domTo d 0)

theorem setPortSt_closes (s : State) (n : Nat) : State.localClosed n (s.setPortSt (n / 4) (4 + n % 4) 4) := State.setPortSt_portSt _ _ _ (by decide)

theorem setPortSt_keeps_closed (s : State) (n m : Nat) (h : State.localClosed n s) : State.localClosed n (s.setPortSt (m / 4) (4 + m % 4) 4) := by
  by_cases e : n = m
  · exact e ▸ setPortSt_closes s n
  · exact (State.wr_rd_ne _ _ _ _ (by simp only [Fld.key, R.COMMONS_RTR_PORT_STATUS_STATE]; omega)).trans h

theorem portsClosed_shows (s : State) {d : Nat} (hd : d < 48) : (∀ n ∈ domainNis d, State.localClosed n (portsClosed d s)) ∧ (portsClosed d s).domSt d = 0 ∧
    (portsClosed d s).ms = s.ms := by
  have hw : WritesIn (fun k => 0x46010020 * 64 ≤ k) (s.domTo d 0) (portsClosed d s) :=
    WritesIn.foldl (domainNis d) (fun t n _ ht => ht.wr (by simp only [Fld.key, R.COMMONS_RTR_PORT_STATUS_STATE]; omega) _) (.refl _ _)
  have hms : ∀ (l : List Nat) (t : State), (l.foldl (fun x n => x.setPortSt (n / 4) (4 + n % 4) 4) t).ms = t.ms := fun l => by
    induction l with
    | nil => exact fun _ => rfl
    | cons n l ih => exact fun t => (ih _).trans (State.wr_ms _ _ _)
  refine ⟨(foldl_makes (P := State.localClosed) setPortSt_closes setPortSt_keeps_closed (domainNis d) (s.domTo d 0)).1, ?_, (hms _ _).trans (State.wr_ms _ _ _)⟩
  exact (hw (R.PWR_DOM_STATE d) (by simp only [Fld.key, R.PWR_DOM_STATE]; omega)).trans (State.domTo_same _ _ (by decide))

theorem powerUp_eq {s : State} {d : Fin 48} {ok : Bool} (h3 : s.domSt d = 3) : exec (.powerUpComplete d ok) s =
    if 16 ≤ d.val then .next (portsClosed d s)
    else if ok then .next { portsClosed d s with ms := { (portsClosed d s).ms with hamletClosed := (portsClosed d s).ms.hamletClosed.set d false } }
    else .next ((portsClosed d s).logAt 9 (2, d) 0 0 (barnBase d) 255) := if_neg (not_not.mpr h3)

theorem powerUp_completes : ∀ (s : State) (d : Fin 48), s.domSt d = 3 → ∃ t, exec (.powerUpComplete d true) s = .next t ∧ t.domSt d = 0 ∧
    (∀ n ∈ domainNis d, t.portSt (n / 4) (4 + n % 4) = 4) ∧ (d.val < 16 → t.ms.hamletClosed.get d = false) := by
  intro s d h3
  obtain ⟨h1, h2, -⟩ := portsClosed_shows s d.isLt
  have he := powerUp_eq (ok := true) h3
  by_cases hd : 16 ≤ d.val
  · rw [if_pos hd] at he
    exact ⟨_, he, h2, h1, fun hlt => absurd hlt (by omega)⟩
  · rw [if_neg hd, if_pos rfl] at he
    exact ⟨_, he, h2, h1, fun _ => Tab.get_set_same _ _ _⟩

theorem showLog_hamletClosed (s : State) (l : List LogEntry) : (s.showLog l).ms.hamletClosed = s.ms.hamletClosed := by
  simp only [State.showLog, State.wr_ms]

theorem enterLog_hamletClosed (s : State) (e : LogEntry) : (s.enterLog e).ms.hamletClosed = s.ms.hamletClosed := by
  unfold State.enterLog
  split_ifs
  · dsimp only
    rw [State.irqIf_ms, showLog_hamletClosed]
  · rw [State.incSat_ms]
  · exact showLog_hamletClosed _ _
  · rw [State.incSat_ms]

theorem logAt_hamletClosed (s : State) (kind : Nat) (ids : Nat × Nat) (syn mid addr bit : Nat) :
    (s.logAt kind ids syn mid addr bit).ms.hamletClosed = s.ms.hamletClosed := by
  unfold State.logAt State.logEvent
  split
  · split_ifs
    · exact showLog_hamletClosed _ _
    · exact enterLog_hamletClosed _ _
  · exact enterLog_hamletClosed _ _

/-- A hamlet's port is one of the network's. -/
theorem domainNis_lt {d n : Nat} (hd : d < 16) (hn : n ∈ domainNis d) : n < 256 := by
  have hall : ∀ d < 16, hamletNi d < 256 := by decide
  rw [domainNis, if_pos hd, List.mem_singleton] at hn
  exact hn ▸ hall d hd

theorem powerUp_fails : ∀ (s : State) (d : Fin 48), s.domSt d = 3 → d.val < 16 → ∃ t, exec (.powerUpComplete d false) s = .next t ∧ t.domSt d = 0 ∧
    t.ms.hamletClosed.get d = s.ms.hamletClosed.get d ∧ (∀ n ∈ domainNis d, t.portSt (n / 4) (4 + n % 4) = 4) := by
  intro s d h3 hd
  obtain ⟨h1, h2, hms⟩ := portsClosed_shows s d.isLt
  have he := powerUp_eq (ok := false) h3
  rw [if_neg (by omega), if_neg Bool.false_ne_true] at he
  have hw := (WritesIn.refl memRegs (portsClosed d s)).logAt 9 (2, d.val) 0 0 (barnBase d) 255
  have hc := logAt_hamletClosed (portsClosed d s) 9 (2, d.val) 0 0 (barnBase d) 255
  refine ⟨_, he, ?_, by rw [hc, hms], fun n hn => ?_⟩
  · have hk : (R.PWR_DOM_STATE d).key = (0x40001000 + d.val * 0x4) * 64 + 29 := rfl
    exact (hw _ (by rw [hk]; simp only [memRegs, addrIn]; omega)).trans h2
  · have hk : (R.COMMONS_RTR_PORT_STATUS_STATE (n / 4) (4 + n % 4)).key = (0x46010020 + n / 4 * 0x100 + (4 + n % 4) * 0x4) * 64 + 29 := rfl
    have hlt := domainNis_lt hd hn
    exact (hw _ (by rw [hk]; simp only [memRegs, addrIn]; omega)).trans (h1 n hn)

/-- Settles O56: each clause is a lemma above about one command. -/
theorem powerDomains : Obligations.PowerDomains :=
  ⟨pwrDomOff_idle, pwrDomOff_busy, pwrDomOff_essential, pwrDomOff_self, pwrDomOff_inUse, pwrDomOff_holds, pwrDomOff_gate, pwrDomOn_on, pwrDomOn_withdraws,
    pwrDomOn_busy, pwrDomOn_powers, pwrDomOn_inUse, holdRedecide_waits, holdRedecide_powers, powerDown_ends, powerDown_idle, powerUp_completes, powerUp_fails⟩

end Sys2Proof.Claims

/-! ## O57: resets, temperature and throttling -/

namespace Sys2Proof.Machine

set_option Elab.async false

open Sys2Proof.Claims

/-! ### The end of a core's item writes no register of the Hearth -/

/-- The places of all registers but the Hearth's block. -/
def notHearth (k : Nat) : Prop := k < 0x40000000 * 64 ∨ 0x40001000 * 64 ≤ k

theorem notHearth_of_ge {k : Nat} (h : 0x40001000 * 64 ≤ k) : notHearth k := .inr h

theorem notHearth_ledger (k : Nat) (h : ledgerRegs k) : notHearth k := by
  simp only [ledgerRegs, addrIn, Fld.key, R.TALLY_STATUS_FAULT, R.TALLY_FAULT_LAST_ID, R.TALLY_FAULT_COUNT_COUNT] at h
  exact .inr (by omega)

theorem notHearth_slot (k : Nat) (h : slotAddrs k) : notHearth k := by
  simp only [slotAddrs, addrIn, Fld.key, R.REEVE_STATUS_REPORT_HELD, R.TALLY_STATUS_FAULT, R.TALLY_FAULT_LAST_ID, R.TALLY_FAULT_COUNT_COUNT] at h
  exact .inr (by omega)

section
variable {s t : State} (h : WritesIn notHearth s t)
include h

theorem WritesIn.setItem (k : Nat) (i : Option Item) : WritesIn notHearth s (t.setItem k i) := h.trans ((State.setItem_writes t k i).mono notHearth_slot)

theorem WritesIn.modItem (k : Nat) (f : Item → Item) : WritesIn notHearth s (t.modItem k f) := by
  unfold State.modItem
  split
  · exact h.setItem _ _
  · exact h

theorem WritesIn.setRcore (x c : Nat) (r : ReeveCore) : WritesIn notHearth s (t.setRcore x c r) := by
  have hb (y : Reeve) : WritesIn notHearth s { t with reeve := y } := h.of_regs rfl
  refine ((((((hb _).wr ?_ _).wr ?_ _).wrB ?_ _).wrB ?_ _).wr ?_ _).wr ?_ _ <;>
    (refine notHearth_of_ge ?_
     simp only [Fld.key, R.REEVE_CORE_STATE_STATE, R.REEVE_CORE_STATE_HELD, R.REEVE_CORE_STATE_ITEM_VALID, R.REEVE_CORE_STATE_OVR_DONE,
       R.REEVE_CORE_STATE_ITEM_NAME, R.REEVE_CORE_BUSY]
     omega)

theorem WritesIn.withdraw (x c : Nat) : WritesIn notHearth s (t.withdraw x c) := by
  unfold State.withdraw
  dsimp only
  split
  · exact (h.of_regs (u := t.coreUnirq (t.coreAt x c) irqPreempt) rfl).setRcore _ _ _
  · exact h

theorem WritesIn.modRcore (x c : Nat) (f : ReeveCore → ReeveCore) : WritesIn notHearth s (t.modRcore x c f) := h.setRcore _ _ _

theorem WritesIn.unreserve (slot : Nat) : WritesIn notHearth s (t.unreserve slot) :=
  WritesIn.foldl _ (fun u k _ hu => by
    dsimp only
    split
    · exact hu.modRcore _ _ _
    · exact hu.withdraw _ _) h

theorem WritesIn.setFlags (g : Nat) (v : DWord) : WritesIn notHearth s (t.setFlags g v) := by
  refine (h.wr ?_ _).wr ?_ _ <;> (refine notHearth_of_ge ?_; simp only [Fld.key, R.REEVE_EV_FLAGS_FLAGS]; omega)

theorem WritesIn.showTap (l : List (List Nat)) : WritesIn notHearth s (t.showTap l) := by
  have hb (y : Debug) : WritesIn notHearth s { t with dbg := y } := h.of_regs rfl
  refine (((((hb _).wr ?_ _).wr ?_ _).wr ?_ _).wr ?_ _).wr ?_ _ <;>
    (refine notHearth_of_ge ?_; simp only [Fld.key, R.REEVE_TAP_HEAD, R.REEVE_TAP_LEVEL_LEVEL]; omega)

theorem WritesIn.loseRecord (k : Nat) : WritesIn notHearth s (t.loseRecord k) := h.of_regs rfl

theorem WritesIn.tapEvent (ev slot : Nat) : WritesIn notHearth s (t.tapEvent ev slot) := by
  have hlost : notHearth R.REEVE_TAP_LEVEL_LOST.key := .inr (by decide)
  unfold State.tapEvent
  split
  · exact h
  · dsimp only
    refine WritesIn.ite h (WritesIn.ite (h.showTap _) (WritesIn.ite ?_ ?_))
    · exact ((h.showTap _).incSat hlost).loseRecord _
    · exact (h.incSat hlost).loseRecord _

theorem WritesIn.setQueue (q : Nat) (x : ReportQueue) : WritesIn notHearth s (t.setQueue q x) := by
  have hb (y : Reeve) : WritesIn notHearth s (State.showReeve { t with reeve := y }) :=
    (h.of_regs (u := { t with reeve := y }) rfl).trans ((State.showReeve_writes _).mono notHearth_slot)
  refine ((hb _).wr ?_ _).wrB ?_ _ <;> (refine notHearth_of_ge ?_; simp only [Fld.key, R.REEVE_REPORT_LEVEL_COUNT, R.REEVE_REPORT_LEVEL_FULL]; omega)

theorem WritesIn.placeReport (q slot : Nat) : WritesIn notHearth s (t.placeReport q slot) := by
  unfold State.placeReport
  split
  · exact h
  · next i _ =>
    dsimp only
    have hu := (h.setQueue q { t.reeve.queues.get q with
      unread := (t.reeve.queues.get q).unread ++ [reportBody i + (t.reeve.queues.get q).seq % 256 * 2 ^ 40],
      seq := ((t.reeve.queues.get q).seq + 1) % 256 }).modItem slot (fun y => { y with reported := true })
    split_ifs
    · exact hu.of_regs (State.irqHost_regs _ _)
    · exact hu.of_regs rfl
    · exact hu

theorem WritesIn.postReport (slot : Nat) : WritesIn notHearth s (t.postReport slot) := by
  unfold State.postReport
  split
  · exact h
  · dsimp only
    split_ifs
    · exact h.modItem _ _
    · exact h.placeReport _ _
    · exact h.setQueue _ _

theorem WritesIn.countEnd (i : Item) (o : ItemEnd) : WritesIn notHearth s (t.countEnd i o) := by
  have hr : notHearth R.REEVE_RETIRED.key ∧ notHearth R.REEVE_LATE.key ∧ notHearth R.REEVE_ABORT_LATE.key ∧ notHearth R.REEVE_ABORTED.key ∧
      notHearth R.REEVE_POISONED.key := ⟨.inr (by decide), .inr (by decide), .inr (by decide), .inr (by decide), .inr (by decide)⟩
  obtain ⟨h1, h2, h3, h4, h5⟩ := hr
  cases o with
  | ok =>
    have hl : WritesIn notHearth s (if i.late then (t.inc R.REEVE_RETIRED).inc R.REEVE_LATE else t.inc R.REEVE_RETIRED) := ((h.inc h1).inc h2).ite (h.inc h1)
    exact (hl.inc h3).ite hl
  | aborted => exact h.inc h4
  | poisoned => exact h.inc h5
  | lapsed => exact h

theorem WritesIn.sendSuccs (i : Item) (lapse : Bool) : WritesIn notHearth s (t.sendSuccs i lapse) := by
  unfold State.sendSuccs
  split
  · exact h
  · exact WritesIn.foldl _ (fun u x _ hu => hu.trans (((WritesIn.refl _ u).sendToken true _).mono notHearth_slot)) h

theorem WritesIn.conclude (slot : Nat) (o : ItemEnd) (late : Bool) : WritesIn notHearth s (t.conclude slot o late) := by
  unfold State.conclude
  split
  · exact h
  · next i0 _ =>
    dsimp only
    have hu := ((h.setItem slot (some { i0 with outcome := some o, late := late })).countEnd { i0 with outcome := some o, late := late } o).sendSuccs
      { i0 with outcome := some o, late := late } (decide (o = .lapsed ∨ o = .aborted))
    exact (((WritesIn.ite (hu.setFlags _ _) hu).tapEvent 2 slot).postReport slot).unreserve slot

theorem WritesIn.cutItem {x : Nat} (hx : x < 16) (c slot : Nat) : WritesIn notHearth s (t.cutItem x c slot) := by
  have hq : WritesIn notHearth s (t.quernForce x c slot) := h.trans ((State.quernForce_writes t x c slot).mono fun k hk => .inl (by
    simp only [quernAddrs, addrIn] at hk
    omega))
  exact (hq.trans ((State.release_writes _ _).mono notHearth_slot)).inc (.inr (by decide))

theorem WritesIn.haltItem {x : Nat} (hx : x < 16) (c : Nat) : WritesIn notHearth s (t.haltItem x c) := by
  unfold State.haltItem
  dsimp only
  refine WritesIn.modRcore (WritesIn.withdraw ?_ x c) x c _
  split
  · exact h
  · refine WritesIn.cutItem ?_ hx _ _
    split
    · exact (h.conclude _ _ _).ite h
    · exact h

end

theorem State.haltItem_cur (s : State) (x c : Nat) : ((s.haltItem x c).rcore x c).cur = none := by
  unfold State.haltItem
  dsimp only
  obtain ⟨b, f, e⟩ := State.setRcore_rcore _ x c _
  exact congrArg ReeveCore.cur e

theorem WritesIn.cleanLine {P : Nat → Prop} {s t : State} (h : WritesIn P s t) (j a : Nat) (w d : Bool) : WritesIn P s (t.cleanLine j a w d) := by
  have hw (x : Nat) (l : List PWord) : WritesIn P s (t.writeWords x l) := h.of_regs (State.writeWords_regs _ _ _)
  exact (WritesIn.ite (hw _ _) h).of_regs rfl

theorem State.unitAnswer_ms (s : State) (p : Packet) (op status cause lines : Nat) (data : List PWord) :
    (s.unitAnswer p op status cause lines data).ms = s.ms := by
  have hms := (keeps_unitAnswer (.refl (partsBut .ms) s) (by decide) (by decide) (by decide) (by decide) (by decide) p op status cause lines data).same_of_but
  have hmem := (keeps_unitAnswer (.refl (partsBut .mem) s) (by decide) (by decide) (by decide) (by decide) (by decide) p op status cause lines data).same_of_but
  simp only [Part.same] at hms hmem
  rw [hms, hmem]

/-- Holding a core in reset leaves it as it was at reset, and the Reeve's view of every core alone. -/
theorem State.holdCore_shows (t : State) (k h c : Nat) (f : Fld) (n : Nat) :
    ((t.holdCore k).wr f n).ack.core k = {} ∧ ((t.holdCore k).wr f n).ack.rcore h c = t.rcore h c :=
  ⟨State.setCore_core t k {}, rfl⟩

end Sys2Proof.Machine

namespace Sys2Proof.Claims

set_option Elab.async false

open Sys2Proof.Machine

/-! ### Device resets -/

theorem deviceReset_isReset (s : State) {c : Nat} (hc : c < 8) : deviceIsReset s (s.deviceReset c false) c := by
  have h := deviceReset_resets s hc false
  obtain ⟨r1, r2, r3, r4, r5, r6⟩ := h.rest
  exact ⟨h.cause, fun a => (h.memory a).trans (if_neg (by rw [Bool.false_and]; exact Bool.false_ne_true)), h.boot, r2, r3, r4, r5, r6, h.keys, h.revoked,
    h.rollback, h.dukGone, r1⟩

/-- What does not touch the reset state's parts leaves the device reset. -/
theorem deviceIsReset.of_parts {s t u : State} {c : Nat} (h : deviceIsReset s t c)
    (hk : Keeps [.regs, .ans, .pins, .pwr] t u) (hc : u.rd R.HEARTH_RESET_STATUS_LAST_CAUSE = t.rd R.HEARTH_RESET_STATUS_LAST_CAUSE) : deviceIsReset s u c := by
  obtain ⟨h1, h2, h3, h4, h5, h6, h7, h8, h9, h10, h11, h12, h13⟩ := h
  have hmem := hk.1 .mem (by decide)
  have hboot := hk.1 .boot (by decide)
  have hreeve := hk.1 .reeve (by decide)
  have hnet := hk.1 .net (by decide)
  have htally := hk.1 .tally (by decide)
  have hcores := hk.1 .cores (by decide)
  have hhml := hk.1 .hml (by decide)
  have hstrong := hk.1 .strong (by decide)
  have hpend := hk.1 .pending (by decide)
  simp only [Part.same] at hmem hboot hreeve hnet htally hcores hhml hstrong hpend
  exact ⟨hc.trans h1, by rw [hmem]; exact h2, hboot.trans h3, hreeve.trans h4, hnet.trans h5, htally.trans h6, hcores.trans h7, hhml.trans h8,
    by rw [hstrong, h9], by rw [hstrong, h10], by rw [hstrong, h11], by rw [hstrong, h12], hpend.trans h13⟩

theorem deviceIsReset.ack {s t : State} {c : Nat} (h : deviceIsReset s t c) : deviceIsReset s t.ack c :=
  h.of_parts (keeps_ack (.refl _ t) (by decide)) (State.ack_rd _ _)

section
variable {s : State} {mid : Mid} {v : Word} (hmid : resetMid mid = true) (hkey : bitsOf v 16 16 = 0x5253) (hgo : bitOf v 15 = true)
include hmid hkey hgo

theorem devreset_eq : exec (.hearthDevreset mid v) s =
    if bitOf v 13 ∧ (!bitOf v 14 ∨ ¬ s.bit R.EWL_PARISH_IN_PARISH ∨ s.rd R.EWL_PARISH_MEMBER ≠ 0) then .next (s.resetRefuse 3).ack
    else if !bitOf v 14 then .next (s.deviceReset 2 false).ack
    else if leadTicks s.tick (s.rd R.HEARTH_RESET_TICK) < 2500 ∨ 2147483648 ≤ leadTicks s.tick (s.rd R.HEARTH_RESET_TICK) then .next (s.resetRefuse 1).ack
    else if maxLead < leadTicks s.tick (s.rd R.HEARTH_RESET_TICK) then .next (s.resetRefuse 2).ack
    else .next (if bitOf v 13 then ({ s.wr R.HEARTH_RESET_STATUS_ARMED 1 with pwr := { s.pwr with parish := bitOf v 13 } } : State).send
        (.resetCall (s.rd R.HEARTH_RESET_TICK))
      else { s.wr R.HEARTH_RESET_STATUS_ARMED 1 with pwr := { s.pwr with parish := bitOf v 13 } }).ack :=
  (if_neg (by rw [hmid]; exact Bool.false_ne_true)).trans (if_neg (by simp [hkey, hgo]))

end

theorem devreset_resets : ∀ (s : State) (mid : Mid) (v : Word), resetMid mid = true → bitsOf v 16 16 = 0x5253 → bitOf v 15 = true → bitOf v 14 = false → bitOf v 13 = false →
    ∃ t, exec (.hearthDevreset mid v) s = .next t ∧ t.ans = acked ∧ deviceIsReset s t 2 := by
  intro s mid v hmid hkey hgo h14 h13
  have he := devreset_eq (s := s) hmid hkey hgo
  rw [if_neg (by simp [h13]), if_pos (by rw [h14]; rfl)] at he
  exact ⟨_, he, rfl, (deviceReset_isReset s (by decide)).ack⟩

theorem devreset_foreign : ∀ (s : State) (mid : Mid) (v : Word), resetMid mid = false → exec (.hearthDevreset mid v) s = .next { s with ans := abortedBy 7 } := fun _ _ _ h => if_pos (by rw [h]; rfl)

theorem devreset_idle : ∀ (s : State) (mid : Mid) (v : Word), resetMid mid = true → (bitsOf v 16 16 ≠ 0x5253 ∨ bitOf v 15 = false) →
    exec (.hearthDevreset mid v) s = .next { s with ans := acked } := by
  intro s mid v hmid h
  refine (if_neg (by rw [hmid]; exact Bool.false_ne_true)).trans (if_pos (h.imp_right fun h => ?_))
  rw [h]
  rfl

theorem resetRefuse_shows (s : State) {c : Nat} (hc : c < 4) :
    (s.resetRefuse c).ack.rd R.HEARTH_RESET_STATUS_REFUSED = 1 ∧ (s.resetRefuse c).ack.rd R.HEARTH_RESET_STATUS_CAUSE = c :=
  ⟨(State.ack_rd _ _).trans ((State.wr_rd_ne _ _ _ _ (by decide)).trans (State.wr_rd_same _ _ _)),
    (State.ack_rd _ _).trans ((State.wr_rd_same _ _ _).trans (Nat.mod_eq_of_lt hc))⟩

theorem devreset_timed : ∀ (s : State) (mid : Mid) (v : Word) (lead : Nat), resetMid mid = true → bitsOf v 16 16 = 0x5253 → bitOf v 15 = true → bitOf v 14 = true →
    (bitOf v 13 = true → s.bit R.EWL_PARISH_IN_PARISH = true ∧ s.rd R.EWL_PARISH_MEMBER = 0) → lead = leadTicks s.tick (s.rd R.HEARTH_RESET_TICK) →
    (if lead < 2500 ∨ 2147483648 ≤ lead then ∃ t, exec (.hearthDevreset mid v) s = .next t ∧ t.ans = acked ∧
        t.rd R.HEARTH_RESET_STATUS_REFUSED = 1 ∧ t.rd R.HEARTH_RESET_STATUS_CAUSE = 1
     else if maxLead < lead then ∃ t, exec (.hearthDevreset mid v) s = .next t ∧ t.ans = acked ∧
        t.rd R.HEARTH_RESET_STATUS_REFUSED = 1 ∧ t.rd R.HEARTH_RESET_STATUS_CAUSE = 2
     else ∃ t, exec (.hearthDevreset mid v) s = .next t ∧ t.ans = acked ∧ t.rd R.HEARTH_RESET_STATUS_ARMED = 1 ∧ t.pwr.parish = bitOf v 13 ∧
        sameRegs s t [R.HEARTH_RESET_STATUS_ARMED] ∧ (bitOf v 13 = true → t.sent = s.sent ++ [.resetCall (s.rd R.HEARTH_RESET_TICK)])) := by
  intro s mid v lead hmid hkey hgo h14 hroot hlead
  have he := devreset_eq (s := s) hmid hkey hgo
  rw [if_neg, if_neg (by rw [h14]; exact Bool.false_ne_true), ← hlead] at he
  · by_cases h1 : lead < 2500 ∨ 2147483648 ≤ lead
    · rw [if_pos h1] at he ⊢
      exact ⟨_, he, rfl, resetRefuse_shows s (by decide)⟩
    rw [if_neg h1] at he ⊢
    by_cases h2 : maxLead < lead
    · rw [if_pos h2] at he ⊢
      exact ⟨_, he, rfl, resetRefuse_shows s (by decide)⟩
    rw [if_neg h2] at he ⊢
    cases h13 : bitOf v 13 with
    | true =>
      rw [h13, if_pos rfl] at he
      exact ⟨_, he, rfl, (State.ack_rd _ _).trans (State.wr_rd_same s _ 1), rfl, (((sameRegs.refl s _).wr (.head _) 1).of_regs rfl).ack, fun _ => rfl⟩
    | false =>
      rw [h13, if_neg Bool.false_ne_true] at he
      exact ⟨_, he, rfl, (State.ack_rd _ _).trans (State.wr_rd_same s _ 1), rfl, (((sameRegs.refl s _).wr (.head _) 1).of_regs rfl).ack, fun h => nomatch h⟩
  · rintro ⟨h13, h⟩
    obtain ⟨g1, g2⟩ := hroot h13
    simp [h14, g1, g2] at h

theorem devreset_notRoot : ∀ (s : State) (mid : Mid) (v : Word), resetMid mid = true → bitsOf v 16 16 = 0x5253 → bitOf v 15 = true → bitOf v 13 = true →
    (bitOf v 14 = false ∨ s.bit R.EWL_PARISH_IN_PARISH = false ∨ s.rd R.EWL_PARISH_MEMBER ≠ 0) → ∃ t, exec (.hearthDevreset mid v) s = .next t ∧
      t.ans = acked ∧ t.rd R.HEARTH_RESET_STATUS_REFUSED = 1 ∧ t.rd R.HEARTH_RESET_STATUS_CAUSE = 3 := by
  intro s mid v hmid hkey hgo h13 h
  have he := devreset_eq (s := s) hmid hkey hgo
  rw [if_pos] at he
  · exact ⟨_, he, rfl, resetRefuse_shows s (by decide)⟩
  · refine ⟨h13, h.imp (fun h => by rw [h]; rfl) (Or.imp_left fun h => ?_)⟩
    rw [h]
    exact Bool.false_ne_true

theorem timedReset_resets : ∀ (s : State) (l : List (Fin 8)), s.bit R.HEARTH_RESET_STATUS_ARMED = true → passed s.tick (s.rd R.HEARTH_RESET_TICK) = true → s.pwr.parish = false →
    ∃ t, exec (.timedResetInstant l) s = .next t ∧ deviceIsReset s t 2 := by
  intro s l harm hp hpar
  have he : exec (.timedResetInstant l) s = .next (s.deviceReset 2 false) :=
    (if_pos ⟨harm, hp⟩).trans (if_neg (by rw [hpar]; exact Bool.false_ne_true))
  exact ⟨_, he, deviceReset_isReset s (by decide)⟩

/-- A sum of distinct powers of two has the bits of its exponents. -/
theorem testBit_sum_two_pow : ∀ (l : List Nat) (_ : l.Nodup) (j : Nat), ((l.map (fun m => 2 ^ m)).sum).testBit j = decide (j ∈ l)
  | [], _, j => by simp
  | m :: l, hn, j => by
    obtain ⟨hm, hl⟩ := List.nodup_cons.mp hn
    have ih := testBit_sum_two_pow l hl
    rw [List.map_cons, List.sum_cons, Nat.add_comm, testBit_add_two_pow m j (by rw [ih m, decide_eq_false hm]), ih j]
    simp only [List.mem_cons, Bool.decide_or]

theorem deviceReset_missed (s : State) (c : Nat) (keep : Bool) :
    (s.deviceReset c keep).rd R.HEARTH_RESET_STATUS_MISSED = s.rd R.HEARTH_RESET_STATUS_MISSED := by
  have h : (s.deviceReset c keep).rd R.HEARTH_RESET_STATUS_MISSED = s.rd R.HEARTH_RESET_STATUS_MISSED % 2 ^ 8 :=
    (State.wrB_rd_ne _ _ _ _ (by decide)).trans (State.wr_rd_same _ _ _)
  exact h.trans (Nat.mod_eq_of_lt (s.rd_lt R.HEARTH_RESET_STATUS_MISSED))

theorem deviceIsReset.of_wr {s t : State} {c : Nat} {f : Fld} {n : Nat} (h : deviceIsReset (s.wr f n) t c) : deviceIsReset s t c := by
  obtain ⟨h1, h2, h3, h4, h5, h6, h7, h8, h9, h10, h11, h12, h13⟩ := h
  rw [State.wr_strong] at h10 h11 h12
  exact ⟨h1, h2, h3, h4, h5, h6, h7, h8, h9, h10, h11, h12, h13⟩

/-- The members of the parish that have not acknowledged a reset. -/
def missedBy (s : State) (l : List (Fin 8)) : List Nat :=
  (List.range 8).filter (fun m => m != s.rd R.EWL_PARISH_MEMBER && (s.ewlRoute m).isSome && !(l.map Fin.val).contains m)

theorem missedBy_nodup (s : State) (l : List (Fin 8)) : (missedBy s l).Nodup := List.nodup_range.filter _

theorem mem_missedBy {s : State} {l : List (Fin 8)} {m : Nat} (hm : m < 8) :
    m ∈ missedBy s l ↔ m ≠ s.rd R.EWL_PARISH_MEMBER ∧ s.ewlRoute m ≠ none ∧ ∀ x ∈ l, x.val ≠ m := by
  simp only [missedBy, List.mem_filter, List.mem_range, hm, true_and, Bool.and_eq_true, bne_iff_ne, Option.isSome_iff_ne_none, Bool.not_eq_true',
    List.contains_eq_mem, decide_eq_false_iff_not, List.mem_map, not_exists, not_and, and_assoc, ne_eq]

theorem timedReset_parish : ∀ (s : State) (l : List (Fin 8)), s.bit R.HEARTH_RESET_STATUS_ARMED = true → passed s.tick (s.rd R.HEARTH_RESET_TICK) = true → s.pwr.parish = true →
    ∃ t, exec (.timedResetInstant l) s = .next t ∧ deviceIsReset s t 3 ∧ ∀ m < 8, (nbit (t.rd R.HEARTH_RESET_STATUS_MISSED) m = true ↔
      m ≠ s.rd R.EWL_PARISH_MEMBER ∧ s.ewlRoute m ≠ none ∧ ∀ x ∈ l, x.val ≠ m) := by
  intro s l harm hp hpar
  have he : exec (.timedResetInstant l) s =
      .next ((s.wr R.HEARTH_RESET_STATUS_MISSED (((missedBy s l).map (fun m => 2 ^ m)).sum)).deviceReset 3 false) :=
    (if_pos ⟨harm, hp⟩).trans (if_pos hpar)
  refine ⟨_, he, (deviceReset_isReset _ (by decide)).of_wr, fun m hm => ?_⟩
  rw [deviceReset_missed, State.wr_rd_same, nbit_eq_testBit, show R.HEARTH_RESET_STATUS_MISSED.w = 8 from rfl, Nat.testBit_mod_two_pow, decide_eq_true hm,
    Bool.true_and, testBit_sum_two_pow _ (missedBy_nodup s l), decide_eq_true_iff]
  exact mem_missedBy hm

/-! ### Unit resets -/

/-- A unit reset's acknowledgement of REFUSED. -/
def unitAcked (s : State) (v : Word) : State := s.w1c v [R.HEARTH_UNIT_RESET_REFUSED]

/-- The command of a unit reset as it is recorded. -/
def unitNamed (s : State) (v : Word) : State :=
  (unitAcked s v).wrWord v [R.HEARTH_UNIT_RESET_KIND, R.HEARTH_UNIT_RESET_A, R.HEARTH_UNIT_RESET_B]

theorem unitAcked_regs (s : State) (v : Word) : sameRegs s (unitAcked s v) [R.HEARTH_UNIT_RESET_REFUSED] := (sameRegs.refl s _).w1c v (by simp)

section
variable (s : State) {v : Word} {kind : Nat} {field ok : Bool} {f : State → State}

theorem unitReset_starts (hk : unitFree s v kind) (hf : field = true) (hok : ok = true) :
    s.unitReset v kind field ok f = (f (unitNamed s v)).wr R.HEARTH_UNIT_RESET_STATE 1 := by
  have h2 : (unitAcked s v).rd R.HEARTH_UNIT_RESET_STATE ≠ 1 := by
    rw [unitAcked_regs s v _ (by decide)]
    exact hk.2
  exact (if_neg (not_not.mpr hk.1)).trans ((if_neg h2).trans ((if_neg (by rw [hf]; exact Bool.false_ne_true)).trans (if_neg (by rw [hok]; exact Bool.false_ne_true))))

theorem unitReset_busy (hk : bitsOf v 29 3 = kind) (h1 : s.rd R.HEARTH_UNIT_RESET_STATE = 1) :
    s.unitReset v kind field ok f = (unitAcked s v).unitRefuse 2 := by
  have h2 : (unitAcked s v).rd R.HEARTH_UNIT_RESET_STATE = 1 := by
    rw [unitAcked_regs s v _ (by decide)]
    exact h1
  exact (if_neg (not_not.mpr hk)).trans (if_pos h2)

theorem unitReset_field (hk : unitFree s v kind) (hf : field = false) : s.unitReset v kind field ok f = (unitAcked s v).unitRefuse 3 := by
  have h2 : (unitAcked s v).rd R.HEARTH_UNIT_RESET_STATE ≠ 1 := by
    rw [unitAcked_regs s v _ (by decide)]
    exact hk.2
  exact (if_neg (not_not.mpr hk.1)).trans ((if_neg h2).trans (if_pos (by rw [hf]; rfl)))

theorem unitReset_state (hk : unitFree s v kind) (hf : field = true) (hok : ok = false) : s.unitReset v kind field ok f = (unitAcked s v).unitRefuse 1 := by
  have h2 : (unitAcked s v).rd R.HEARTH_UNIT_RESET_STATE ≠ 1 := by
    rw [unitAcked_regs s v _ (by decide)]
    exact hk.2
  exact (if_neg (not_not.mpr hk.1)).trans ((if_neg h2).trans ((if_neg (by rw [hf]; exact Bool.false_ne_true)).trans (if_pos (by rw [hok]; rfl))))

theorem unitRefuse_refused (t : State) {c : Nat} (hc : c < 4) : unitRefused (t.unitRefuse c).ack c :=
  ⟨(State.ack_rd _ _).trans ((State.wr_rd_ne _ _ _ _ (by decide)).trans (State.wr_rd_same _ _ _)),
    (State.ack_rd _ _).trans ((State.wr_rd_same _ _ _).trans (Nat.mod_eq_of_lt hc)), rfl⟩

/-- KIND, as a unit reset records it. -/
theorem unitNamed_kind {k : Nat} (hk : bitsOf v 29 3 = k) : (unitNamed s v).rd R.HEARTH_UNIT_RESET_KIND = k := by
  have h := State.wrWord_rd_mem v R.HEARTH_UNIT_RESET_KIND [R.HEARTH_UNIT_RESET_KIND, R.HEARTH_UNIT_RESET_A, R.HEARTH_UNIT_RESET_B] (unitAcked s v) (.head _)
    (by decide)
  exact h.trans hk

/-- What starts a unit reset shows it, where the unit's own part writes none of the Hearth's registers. -/
theorem unitStarted_shows {u : State} {k : Nat} (hk : bitsOf v 29 3 = k) (hw : WritesIn notHearth (unitNamed s v) u) :
    (u.wr R.HEARTH_UNIT_RESET_STATE 1).ack.rd R.HEARTH_UNIT_RESET_STATE = 1 ∧ (u.wr R.HEARTH_UNIT_RESET_STATE 1).ack.rd R.HEARTH_UNIT_RESET_KIND = k := by
  refine ⟨(State.ack_rd _ _).trans (State.wr_rd_same _ _ _), (State.ack_rd _ _).trans ((State.wr_rd_ne _ _ _ _ (by decide)).trans ?_)⟩
  exact (hw _ (by simp only [notHearth, Fld.key, R.HEARTH_UNIT_RESET_KIND]; omega)).trans (unitNamed_kind s hk)

end

theorem unitResetHamlet_starts : ∀ (s : State) (v : Word) (h p c : Nat), unitFree s v 1 → h = bitsOf v 16 8 → p = bitsOf v 8 8 → bitsOf v 0 8 = 0 → h < 16 → p < 9 → c = s.logicalOf h p → c < 8 →
    s.coreEn h c = false → s.hamletOpen h = true → h ∈ s.hml.released → ∃ t, exec (.unitResetHamletCore v) s = .next t ∧ t.ans = acked ∧
      t.rd R.HEARTH_UNIT_RESET_STATE = 1 ∧ t.rd R.HEARTH_UNIT_RESET_KIND = 1 ∧ t.core (9 * h + p) = {} ∧ (t.rcore h c).cur = none := by
  intro s v h p c hk hh hp h0 hh16 hp9 hc hc8 hen hopen hrel
  let u := ((unitNamed s v).haltItem h c).holdCore (9 * h + p)
  have he : exec (.unitResetHamletCore v) s = .next (u.wr R.HEARTH_UNIT_RESET_STATE 1).ack := by
    refine congrArg (fun t : State => Host.Outcome.next t.ack) ((unitReset_starts s hk ?_ ?_).trans ?_)
    · rw [← hh, ← hp, h0]
      simp [hh16, hp9]
    · rw [← hh, ← hp, ← hc]
      simp [hc8, hen, hopen, hrel]
    · rw [← hh, ← hp, ← hc]
  have hw : WritesIn notHearth (unitNamed s v) u := ((WritesIn.refl _ (unitNamed s v)).haltItem hh16 c).of_regs rfl
  obtain ⟨h1, h2⟩ := unitStarted_shows s hk.1 hw
  have hcur : ((unitNamed s v).haltItem h c |>.rcore h c).cur = none := State.haltItem_cur _ _ _
  have hshow := ((unitNamed s v).haltItem h c).holdCore_shows (9 * h + p) h c R.HEARTH_UNIT_RESET_STATE 1
  refine ⟨_, he, rfl, h1, h2, hshow.1, ?_⟩
  rw [hshow.2, hcur]

theorem unitResetHamlet_field : ∀ (s : State) (v : Word), unitFree s v 1 → (16 ≤ bitsOf v 16 8 ∨ 9 ≤ bitsOf v 8 8 ∨ bitsOf v 0 8 ≠ 0) →
    ∃ t, exec (.unitResetHamletCore v) s = .next t ∧ unitRefused t 3 ∧ t.cores = s.cores := by
  intro s v hk hf
  have he : exec (.unitResetHamletCore v) s = .next ((unitAcked s v).unitRefuse 3).ack := by
    refine congrArg (fun t : State => Host.Outcome.next t.ack) (unitReset_field s hk ?_)
    rw [← Bool.not_eq_true]
    simp only [Bool.and_eq_true, decide_eq_true_eq, beq_iff_eq]
    omega
  exact ⟨_, he, unitRefuse_refused _ (by decide), rfl⟩

theorem unitResetHamlet_busy : ∀ (s : State) (v : Word), bitsOf v 29 3 = 1 → s.rd R.HEARTH_UNIT_RESET_STATE = 1 → ∃ t, exec (.unitResetHamletCore v) s = .next t ∧
    unitRefused t 2 ∧ t.cores = s.cores := by
  intro s v hk h1
  have he : exec (.unitResetHamletCore v) s = .next ((unitAcked s v).unitRefuse 2).ack :=
    congrArg (fun t : State => Host.Outcome.next t.ack) (unitReset_busy s hk h1)
  exact ⟨_, he, unitRefuse_refused _ (by decide), rfl⟩

/-- The lines of Hall core `k`'s cache. -/
def ownLines (t : State) (k : Nat) : List Nat := (t.ms.lines.keys.filter (fun i => i / 2 ^ 40 == k)).map (fun i => i % 2 ^ 40)

/-- The caches of Hall core `k` written back. -/
def cleaned (t : State) (k : Nat) : State := (ownLines t k).foldl (fun x a => x.cleanLine k a true true) t

theorem cleaned_writes (t : State) (k : Nat) : WritesIn notHearth t (cleaned t k) := WritesIn.foldl _ (fun _ a _ hu => hu.cleanLine k a true true) (.refl _ t)

theorem unitResetHall_starts : ∀ (s : State) (mid : Mid) (v : Word) (k : Nat), unitFree s v 2 → k = bitsOf v 8 8 → k < 16 → bitsOf v 0 8 = 0 → mid.toNat ≠ 0xA0 + k →
    ∃ t, exec (.unitResetHallCore mid v) s = .next t ∧ t.ans = acked ∧ t.rd R.HEARTH_UNIT_RESET_STATE = 1 ∧ t.rd R.HEARTH_UNIT_RESET_KIND = 2 ∧
      t.core (144 + k) = {} := by
  intro s mid v k hk hkv hk16 h0 hmid
  let u := (cleaned (unitNamed s v) k).holdCore (144 + k)
  have he : exec (.unitResetHallCore mid v) s = .next (u.wr R.HEARTH_UNIT_RESET_STATE 1).ack := by
    refine congrArg (fun t : State => Host.Outcome.next t.ack) ((unitReset_starts s hk ?_ ?_).trans ?_)
    · rw [← hkv, h0]
      simp [hk16]
    · rw [← hkv]
      exact decide_eq_true hmid
    · rw [← hkv]
      rfl
  obtain ⟨h1, h2⟩ := unitStarted_shows s hk.1 ((cleaned_writes (unitNamed s v) k).of_regs (u := u) rfl)
  exact ⟨_, he, rfl, h1, h2, State.setCore_core _ _ _⟩

theorem unitResetHall_self : ∀ (s : State) (v : Word) (k : Fin 16), unitFree s v 2 → k.val = bitsOf v 8 8 → bitsOf v 0 8 = 0 →
    ∃ t, exec (.unitResetHallCore (BitVec.ofNat 8 (0xA0 + k.val)) v) s = .next t ∧ unitRefused t 1 ∧ t.cores = s.cores := by
  intro s v k hk hkv h0
  have he : exec (.unitResetHallCore (BitVec.ofNat 8 (0xA0 + k.val)) v) s = .next ((unitAcked s v).unitRefuse 1).ack := by
    refine congrArg (fun t : State => Host.Outcome.next t.ack) (unitReset_state s hk ?_ ?_)
    · rw [← hkv, h0]
      simp
    · rw [← hkv, decide_eq_false_iff_not, BitVec.toNat_ofNat]
      omega
  exact ⟨_, he, unitRefuse_refused _ (by decide), rfl⟩

/-- The answers to all requests that a pseudo-channel has queued. -/
def answered (l : List Ejected) (t : State) : State := l.foldl (fun x e => x.unitAnswer e.pkt 6 3 8 0 []) t

theorem unitAnswer_far (t : State) (p : Packet) (op status cause lines : Nat) (data : List PWord) :
    WritesIn notHearth t (t.unitAnswer p op status cause lines data) := by
  unfold State.unitAnswer
  dsimp only
  refine WritesIn.ite (WritesIn.add ((WritesIn.refl _ t).setNet _) (notHearth_of_ge ?_) 1) ?_
  · simp only [Fld.key, R.COMMONS_RTR_STALE]
    omega
  · refine WritesIn.enterPacket notHearth_ledger ((WritesIn.refl _ t).setNet _) (fun e _ => notHearth_of_ge ?_) _ _
    simp only [Fld.key, R.COMMONS_EPOCH_LIVE]
    omega

theorem answered_writes (l : List Ejected) (t : State) : WritesIn notHearth t (answered l t) :=
  WritesIn.foldl l (fun _ e _ hu => hu.trans (unitAnswer_far _ _ _ _ _ _ _)) (.refl _ t)

/-- No answered request is still delivered, and nothing new is. -/
theorem answered_ejected : ∀ (l : List Ejected) (t : State), (∀ e ∈ (answered l t).net.ejected, e ∈ t.net.ejected) ∧
    ∀ e ∈ l, e ∉ (answered l t).net.ejected
  | [], _ => ⟨fun _ h => h, (fun _ h => nomatch h)⟩
  | e :: l, t => by
    obtain ⟨h1, h2⟩ := answered_ejected l (t.unitAnswer e.pkt 6 3 8 0 [])
    have hej := State.unitAnswer_ejected t e.pkt 6 3 8 0 []
    refine ⟨fun x hx => List.mem_of_mem_filter (hej ▸ h1 x hx), fun x hx hmem => ?_⟩
    rcases List.mem_cons.mp hx with rfl | hx
    · have := (List.mem_filter.mp (hej ▸ h1 x hmem)).2
      simp at this
    · exact h2 x hx hmem

theorem answered_ms (l : List Ejected) (t : State) : (answered l t).ms = t.ms := by
  induction l generalizing t with
  | nil => rfl
  | cons e l ih => exact (ih _).trans (t.unitAnswer_ms e.pkt 6 3 8 0 [])

theorem unitResetCellar_starts : ∀ (s : State) (v : Word) (a b : Nat), unitFree s v 3 → a = bitsOf v 16 8 → b = bitsOf v 8 8 → a < 2 → b < 32 → bitsOf v 0 8 = 0 → s.domSt (45 + a) = 0 →
    ∃ t, exec (.unitResetCellar v) s = .next t ∧ t.ans = acked ∧ t.rd R.HEARTH_UNIT_RESET_STATE = 1 ∧ t.rd R.HEARTH_UNIT_RESET_KIND = 3 ∧
      t.cellarQueue a b = [] ∧ t.ms = s.ms := by
  intro s v a b hk ha hb ha2 hb32 h0 hdom
  let u := answered ((unitNamed s v).cellarQueue a b) (unitNamed s v)
  have he : exec (.unitResetCellar v) s = .next (u.wr R.HEARTH_UNIT_RESET_STATE 1).ack := by
    refine congrArg (fun t : State => Host.Outcome.next t.ack) ((unitReset_starts s hk ?_ ?_).trans ?_)
    · rw [← ha, ← hb, h0]
      simp [ha2, hb32]
    · rw [← ha]
      exact beq_iff_eq.mpr hdom
    · rw [← ha, ← hb]
      rfl
  obtain ⟨h1, h2⟩ := unitStarted_shows s hk.1 (answered_writes ((unitNamed s v).cellarQueue a b) (unitNamed s v))
  obtain ⟨g1, g2⟩ := answered_ejected ((unitNamed s v).cellarQueue a b) (unitNamed s v)
  refine ⟨_, he, rfl, h1, h2, ?_, ?_⟩
  · have hnet : (u.wr R.HEARTH_UNIT_RESET_STATE 1).ack.net = u.net := rfl
    rw [State.cellarQueue, hnet, List.filter_eq_nil_iff]
    exact fun e he' hq => g2 e (List.mem_filter.mpr ⟨g1 e he', hq⟩) he'
  · rw [State.ack_ms, State.wr_ms]
    exact (answered_ms _ _).trans rfl

theorem unitResetDone_restarts : ∀ (s : State), s.rd R.HEARTH_UNIT_RESET_STATE = 1 → ∃ t, exec .unitResetDone s = .next t ∧ t.rd R.HEARTH_UNIT_RESET_STATE = 2 ∧
    (s.rd R.HEARTH_UNIT_RESET_KIND = 2 → (t.core (144 + s.rd R.HEARTH_UNIT_RESET_B)).run = .running ∧
      (t.core (144 + s.rd R.HEARTH_UNIT_RESET_B)).pc = s.rd R.HEARTH_HALL_VECTOR_HI * 2 ^ 32 + s.rd R.HEARTH_HALL_VECTOR_LO) ∧
    (s.rd R.HEARTH_UNIT_RESET_KIND = 1 → ∀ h c, h = s.rd R.HEARTH_UNIT_RESET_A → c = s.logicalOf h (s.rd R.HEARTH_UNIT_RESET_B) →
      (t.core (9 * h + s.physOf h c)).run = .running ∧ (t.core (9 * h + s.physOf h c)).pc = 0 ∧ (t.rcore h c).st = .offline) := by
  intro s h1
  let t := s.wr R.HEARTH_UNIT_RESET_STATE 2
  have hst : t.rd R.HEARTH_UNIT_RESET_STATE = 2 := State.wr_rd_same _ _ _
  have hlog (h p : Nat) : t.logicalOf h p = s.logicalOf h p := rfl
  have hphys (h c : Nat) : t.physOf h c = s.physOf h c := rfl
  have hvec : t.hallVector = s.rd R.HEARTH_HALL_VECTOR_HI * 2 ^ 32 + s.rd R.HEARTH_HALL_VECTOR_LO := by
    rw [State.hallVector, State.wr_rd_ne _ _ _ _ (by decide), State.wr_rd_ne _ _ _ _ (by decide)]
  have he : exec .unitResetDone s =
      if s.rd R.HEARTH_UNIT_RESET_KIND = 1 then
        .next (t.releaseLogical (s.rd R.HEARTH_UNIT_RESET_A) (t.logicalOf (s.rd R.HEARTH_UNIT_RESET_A) (s.rd R.HEARTH_UNIT_RESET_B)))
      else if s.rd R.HEARTH_UNIT_RESET_KIND = 2 then .next (t.releaseCore (144 + s.rd R.HEARTH_UNIT_RESET_B) t.hallVector)
      else .next t := if_neg (not_not.mpr h1)
  generalize t = t at he hst hlog hphys hvec
  by_cases hk1 : s.rd R.HEARTH_UNIT_RESET_KIND = 1
  · rw [if_pos hk1, hlog] at he
    have hw := (WritesIn.refl notHearth (t.releaseCore (9 * s.rd R.HEARTH_UNIT_RESET_A +
      t.physOf (s.rd R.HEARTH_UNIT_RESET_A) (s.logicalOf (s.rd R.HEARTH_UNIT_RESET_A) (s.rd R.HEARTH_UNIT_RESET_B))) 0)).modRcore (s.rd R.HEARTH_UNIT_RESET_A)
        (s.logicalOf (s.rd R.HEARTH_UNIT_RESET_A) (s.rd R.HEARTH_UNIT_RESET_B)) (fun r => { r with st := .offline, ovrDone := false, taken := false })
    refine ⟨_, he, ?_, fun hk2 => by omega, ?_⟩
    · exact (hw R.HEARTH_UNIT_RESET_STATE (by simp only [notHearth, Fld.key, R.HEARTH_UNIT_RESET_STATE]; omega)).trans hst
    · rintro _ h c rfl rfl
      have hcore := State.releaseLogical_core t (s.rd R.HEARTH_UNIT_RESET_A) (s.logicalOf (s.rd R.HEARTH_UNIT_RESET_A) (s.rd R.HEARTH_UNIT_RESET_B))
      rw [hphys] at hcore
      exact ⟨hcore.1, hcore.2, State.releaseLogical_offline _ _ _⟩
  · rw [if_neg hk1] at he
    by_cases hk2 : s.rd R.HEARTH_UNIT_RESET_KIND = 2
    · rw [if_pos hk2] at he
      have hcore : (t.releaseCore (144 + s.rd R.HEARTH_UNIT_RESET_B) t.hallVector).core (144 + s.rd R.HEARTH_UNIT_RESET_B) =
          { run := .running, pc := t.hallVector, since := t.stp.now } := State.setCore_core _ _ _
      refine ⟨_, he, hst, fun _ => ?_, fun h => absurd h hk1⟩
      rw [hcore]
      exact ⟨rfl, hvec⟩
    · rw [if_neg hk2] at he
      exact ⟨_, he, hst, fun h => absurd h hk2, fun h => absurd h hk1⟩

/-! ### Throttling and temperatures -/

theorem hottest_congr {s t : State} (h : ∀ n, t.rd (R.HEARTH_TEMP_TEMP n) = s.rd (R.HEARTH_TEMP_TEMP n)) : t.hottest = s.hottest := by
  have ht : t.temp = s.temp := funext fun n => by rw [State.temp, State.temp, h]
  rw [State.hottest, State.hottest, ht]

/-- What a move of the throttle level by one tells. -/
theorem raise_shows (u : State) (e : HearthEvent) (b : Bool) : ((u.raise e).irqIf b .throttle 0).regs = u.regs ∧
    ((u.raise e).irqIf b .throttle 0).pwr = u.pwr ∧ ((u.raise e).irqIf b .throttle 0).dbg.raised = u.dbg.raised ++ [(e, u.tick)] ∧
    (b = true → ⟨.throttle, 0⟩ ∈ ((u.raise e).irqIf b .throttle 0).hallIrq) := by
  cases b with
  | false => exact ⟨rfl, rfl, rfl, (fun h => nomatch h)⟩
  | true => exact ⟨rfl, rfl, rfl, fun _ => State.mem_irqIf (u.raise e) .throttle 0⟩

/-- The throttle level after one step towards `want`. -/
def nextLevel (l want : Nat) : Nat := if l < want then l + 1 else if want < l then l - 1 else l

theorem nextLevel_eq_iff {l want : Nat} : nextLevel l want = l ↔ l = want := by
  unfold nextLevel
  split
  · omega
  · split <;> omega

theorem nextLevel_lt {l want : Nat} (hl : l < 8) (hw : want ≤ 7) : nextLevel l want < 8 := by
  unfold nextLevel
  split
  · omega
  · split <;> omega

/-- The state with the levels of both controllers and the throttle level written. -/
def levelled (s : State) (th pw n : Nat) : State := ({ s with pwr := { s.pwr with thermal := th, power := pw } } : State).wr R.HEARTH_THROTTLE_LEVEL n

theorem levelled_shows (s : State) (th pw n : Nat) : (levelled s th pw n).pwr.thermal = th ∧ (levelled s th pw n).pwr.power = pw ∧
    (levelled s th pw n).rd R.HEARTH_THROTTLE_LEVEL = n % 8 ∧ sameRegs s (levelled s th pw n) [R.HEARTH_THROTTLE_LEVEL] ∧
    (levelled s th pw n).dbg = s.dbg ∧ (levelled s th pw n).hallIrq = s.hallIrq ∧ (levelled s th pw n).tick = s.tick ∧
    (levelled s th pw n).hottest = s.hottest := by
  have hregs : sameRegs s (levelled s th pw n) [R.HEARTH_THROTTLE_LEVEL] := ((sameRegs.refl s _).of_regs rfl).wr (.head _) n
  exact ⟨rfl, rfl, State.wr_rd_same _ _ _, hregs, rfl, rfl, rfl, hottest_congr fun k => hregs _ (by simp only [List.mem_cons, List.not_mem_nil, or_false, forall_eq, Fld.key, R.HEARTH_TEMP_TEMP, R.HEARTH_THROTTLE_LEVEL, ne_eq]; omega)⟩

theorem throttleUpdate_levels : ∀ (s : State) (mw l th pw want : Nat), l = s.rd R.HEARTH_THROTTLE_LEVEL →
    th = moveLevel s.pwr.thermal ((List.range 24).any (fun n => decide (4 * s.throttleC ≤ s.temp n)))
      ((List.range 24).all (fun n => decide (s.temp n < 4 * (s.throttleC - 5)))) →
    pw = moveLevel s.pwr.power (decide (s.limitW * 1000 < mw)) (decide (mw + 5000 < s.limitW * 1000)) →
    want = max th (max pw (s.rd R.HEARTH_THROTTLE_FORCE_L)) → want ≤ 7 → ∃ t, exec (.throttleUpdate mw) s = .next t ∧ t.pwr.thermal = th ∧ t.pwr.power = pw ∧
      t.rd R.HEARTH_THROTTLE_LEVEL = (if l < want then l + 1 else if want < l then l - 1 else l) ∧
      sameRegs s t [R.HEARTH_THROTTLE_LEVEL] ∧
      (l ≠ want → t.dbg.raised = s.dbg.raised ++ [(⟨5, 1, false, t.rd R.HEARTH_THROTTLE_LEVEL, s.hottest⟩, s.tick)] ∧
        (s.bit R.HEARTH_THROTTLE_IRQ_EN = true → ⟨.throttle, 0⟩ ∈ t.hallIrq)) ∧
      (l = want → t.dbg = s.dbg ∧ t.hallIrq = s.hallIrq) := by
  intro s mw l th pw want hl hth hpw hwant hw7
  have he : exec (.throttleUpdate mw) s = .next (if nextLevel l want = l then levelled s th pw (nextLevel l want)
      else ((levelled s th pw (nextLevel l want)).raise ⟨5, 1, false, nextLevel l want, (levelled s th pw (nextLevel l want)).hottest⟩).irqIf
        (s.bit R.HEARTH_THROTTLE_IRQ_EN) .throttle 0) := by
    subst hl hth hpw hwant
    rfl
  have hlt : nextLevel l want < 8 := nextLevel_lt (hl ▸ s.rd_lt R.HEARTH_THROTTLE_LEVEL) hw7
  obtain ⟨h1, h2, h3, h4, h5, h6, h7, h8⟩ := levelled_shows s th pw (nextLevel l want)
  rw [Nat.mod_eq_of_lt hlt] at h3
  rw [h8] at he
  by_cases h : l = want
  · rw [if_pos (nextLevel_eq_iff.mpr h)] at he
    exact ⟨_, he, h1, h2, h3, h4, fun hn => absurd h hn, fun _ => ⟨h5, h6⟩⟩
  · rw [if_neg (mt nextLevel_eq_iff.mp h)] at he
    obtain ⟨g1, g2, g3, g4⟩ := raise_shows (levelled s th pw (nextLevel l want)) ⟨5, 1, false, nextLevel l want, s.hottest⟩ (s.bit R.HEARTH_THROTTLE_IRQ_EN)
    rw [h5, h7] at g3
    refine ⟨_, he, ?_, ?_, (State.rd_congr g1 _).trans h3, h4.of_regs g1, fun _ => ⟨?_, g4⟩, fun hn => absurd hn h⟩
    · rw [g2, h1]
    · rw [g2, h2]
    · rw [State.rd_congr g1, h3, g3]

theorem tempSensorUpdate_reads : ∀ (s : State) (n : Fin 24) (x : BitVec 10), ∃ t, exec (.tempSensorUpdate n x) s = .next t ∧ t.rd (R.HEARTH_TEMP_TEMP n) = x.toNat ∧
    sameRegs s t [R.HEARTH_TEMP_TEMP n] := fun s n x =>
  ⟨_, rfl, (State.wr_rd_same _ _ _).trans (Nat.mod_eq_of_lt x.isLt), (sameRegs.refl s _).wr (.head _) _⟩

theorem cellarStackTempReport_reads : ∀ (s : State) (k : Fin 2) (x : BitVec 8), ∃ t, exec (.cellarStackTempReport k x) s = .next t ∧ t.rd (R.CELLAR_STACK_STATUS_TEMP k) = x.toNat ∧
    t.rd (R.CELLAR_STACK_STATUS_REFRESH_X2 k) = (if 85 < x.toNat then 1 else 0) ∧
    sameRegs s t [R.CELLAR_STACK_STATUS_TEMP k, R.CELLAR_STACK_STATUS_REFRESH_X2 k] := by
  intro s k x
  refine ⟨_, rfl, ?_, ?_, ((sameRegs.refl s _).wr (.head _) _).wrB (.tail _ (.head _)) _⟩
  · rw [State.wrB_rd_ne _ _ _ _ (by simp only [Fld.key, R.CELLAR_STACK_STATUS_TEMP, R.CELLAR_STACK_STATUS_REFRESH_X2, ne_eq]; omega), State.wr_rd_same]
    exact Nat.mod_eq_of_lt x.isLt
  · rw [State.wrB_rd_same]
    by_cases h : 85 < x.toNat
    · rw [if_pos h, decide_eq_true h]; rfl
    · rw [if_neg h, decide_eq_false h]; rfl

/-! ### Thermal trips, cold resets and RESET_N -/

theorem deviceReset_pwr_pins (s : State) (c : Nat) (keep : Bool) : (s.deviceReset c keep).pwr = State.reset.pwr ∧
    (s.deviceReset c keep).pins = State.reset.pins := ⟨rfl, rfl⟩

/-- Every domain of `l` switched off. -/
def allOff (l : List Nat) (t : State) : State := l.foldl (fun x d => x.domTo d 1) t

/-- A held thermal trip: the pin low, and the trip noted. -/
def held (u : State) : State := { u with pins := { u.pins with thermLow := true }, pwr := { u.pwr with tripped := true } }

theorem allOff_off {l : List Nat} (t : State) {d : Nat} (hd : d ∈ l) : (allOff l t).domSt d = 1 :=
  foldl_wr_rd_mem (v := fun _ => 1) (fun a b h => (by simp only [Fld.key, R.PWR_DOM_STATE, ne_eq]; omega)) l t (.inl hd)

theorem allOff_keeps (l : List Nat) (t : State) : Keeps [.regs, .ans, .pins, .pwr] t (allOff l t) :=
  keeps_foldl (fun x d => x.domTo d 1) (fun _ _ hu => keeps_wr hu (by decide) _ _) l t (.refl _ t)

theorem allOff_rd_ne (l : List Nat) (t : State) {f : Fld} (hf : ∀ d, f.key ≠ (R.PWR_DOM_STATE d).key) : (allOff l t).rd f = t.rd f := by
  induction l generalizing t with
  | nil => rfl
  | cons d l ih => exact (ih _).trans (State.wr_rd_ne _ _ _ _ (hf d))

theorem held_keeps (u : State) : Keeps [.regs, .ans, .pins, .pwr] u (held u) :=
  keeps_set_pwr (keeps_set_pins (.refl _ u) (by decide) { u.pins with thermLow := true }) (by decide) { u.pwr with tripped := true }

theorem held_shows (u : State) : (held u).regs = u.regs ∧ (held u).pins.thermLow = true ∧ (held u).pwr.tripped = true := ⟨rfl, rfl, rfl⟩

theorem thermalTrip_off : ∀ (s : State) (stack : Bool), (stack = true ∨ ∃ n < 24, 500 ≤ s.temp n) → ∃ t, exec (.thermalTrip stack) s = .next t ∧ deviceIsReset s t 5 ∧
    t.pins.thermLow = true ∧ t.pwr.tripped = true ∧ ∀ d < 48, t.domSt d = 1 := by
  intro s stack h
  have he : exec (.thermalTrip stack) s = .next (held (allOff (List.range 48) (s.deviceReset 5 false))) := by
    refine if_pos (h.imp_right ?_)
    rintro ⟨n, hn, hx⟩
    exact List.any_eq_true.mpr ⟨n, List.mem_range.mpr hn, decide_eq_true hx⟩
  have hr := deviceReset_isReset s (by decide : 5 < 8)
  generalize s.deviceReset 5 false = t at he hr
  have hr2 := hr.of_parts (allOff_keeps (List.range 48) t) (allOff_rd_ne _ _ fun d => (by simp only [Fld.key, R.HEARTH_RESET_STATUS_LAST_CAUSE, R.PWR_DOM_STATE, ne_eq]; omega))
  have hoff (d : Nat) (hd : d < 48) := allOff_off t (List.mem_range.mpr hd)
  generalize allOff (List.range 48) t = u at he hr2 hoff
  obtain ⟨h1, h2, h3⟩ := held_shows u
  exact ⟨_, he, hr2.of_parts (held_keeps u) (State.rd_congr h1 _), h2, h3, fun d hd => (State.rd_congr h1 _).trans (hoff d hd)⟩

theorem thermalTrip_idle : ∀ (s : State), (∀ n < 24, s.temp n < 500) → exec (.thermalTrip false) s = .next s := by
  intro s h
  refine if_neg ?_
  rintro (h' | h')
  · exact Bool.false_ne_true h'
  · obtain ⟨n, hn, hx⟩ := List.any_eq_true.mp h'
    have := h n (List.mem_range.mp hn)
    have := of_decide_eq_true hx
    omega

theorem internalColdReset_resets : ∀ (s : State), ∃ t, exec .internalColdReset s = .next t ∧ deviceIsReset s t 0 ∧ t.rd R.HEARTH_RESET_STATUS_MISSED = 0 := by
  intro s
  have hr := deviceReset_isReset s (by decide : 0 < 8)
  have he : exec .internalColdReset s = .next ((s.deviceReset 0 false).wr R.HEARTH_RESET_STATUS_MISSED 0) := rfl
  generalize s.deviceReset 0 false = t at he hr
  exact ⟨_, he, hr.of_parts (keeps_wr (.refl _ t) (by decide) _ _) (State.wr_rd_ne _ _ _ _ (by decide)), State.wr_rd_same _ _ _⟩

theorem resetNPulse_resets : ∀ (s : State) (c : Bool), s.pwr.tripped = false → ∃ t, exec (.resetNPulse c) s = .next t ∧ deviceIsReset s t 1 ∧ t.pwr.tripped = false := by
  intro s c h
  have he : exec (.resetNPulse c) s = .next (s.deviceReset 1 false) := if_neg (by rw [h]; exact Bool.false_ne_true)
  exact ⟨_, he, deviceReset_isReset s (by decide), by rw [(deviceReset_pwr_pins s 1 false).1]; rfl⟩

theorem resetNPulse_tripped : ∀ (s : State), s.pwr.tripped = true → exec (.resetNPulse false) s = .next s ∧
    ∃ t, exec (.resetNPulse true) s = .next t ∧ deviceIsReset s t 5 ∧ t.pwr.tripped = false ∧ t.pins.thermLow = false := by
  intro s h
  have he : exec (.resetNPulse true) s = .next (s.deviceReset 5 false) := if_pos h
  obtain ⟨hpwr, hpins⟩ := deviceReset_pwr_pins s 5 false
  exact ⟨if_pos h, _, he, deviceReset_isReset s (by decide), by rw [hpwr]; rfl, by rw [hpins]; rfl⟩

/-- Settles O57: each clause is a lemma above about one command. -/
theorem resetsAndThrottling : Obligations.ResetsAndThrottling :=
  ⟨devreset_resets, devreset_foreign, devreset_idle, devreset_timed, devreset_notRoot, timedReset_resets, timedReset_parish, unitResetHamlet_starts,
    unitResetHamlet_field, unitResetHamlet_busy, unitResetHall_starts, unitResetHall_self, unitResetCellar_starts, unitResetDone_restarts,
    throttleUpdate_levels, tempSensorUpdate_reads, cellarStackTempReport_reads, thermalTrip_off, thermalTrip_idle, internalColdReset_resets,
    resetNPulse_resets, resetNPulse_tripped⟩

end Sys2Proof.Claims

/-! ## O58: traces, events and boundary scan -/

namespace Sys2Proof.Machine

set_option Elab.async false

open Sys2Proof.Claims

/-! ### Traces -/

/-- The records of source `k` shown as `l`. -/
def State.traceShown (t : State) (k : Nat) (l : List (List Nat)) : State := if k < 32 then t.showProbe k l else t.showTap l

theorem State.showTap_rd (t : State) (l : List (List Nat)) {f : Fld} (hh : ∀ i < 4, f.key ≠ (R.REEVE_TAP_HEAD i).key) (hl : f.key ≠ R.REEVE_TAP_LEVEL_LEVEL.key) :
    (t.showTap l).rd f = t.rd f := by
  unfold State.showTap
  dsimp only
  rw [State.wr_rd_ne _ _ _ _ hl, State.wr_rd_ne _ _ _ _ (hh 3 (by decide)), State.wr_rd_ne _ _ _ _ (hh 2 (by decide)),
    State.wr_rd_ne _ _ _ _ (hh 1 (by decide)), State.wr_rd_ne _ _ _ _ (hh 0 (by decide))]
  rfl

theorem State.showTap_dbg (t : State) (l : List (List Nat)) : (t.showTap l).dbg = { t.dbg with tap := l } := by
  simp only [State.showTap, State.wr_dbg]

theorem State.showTap_ms (t : State) (l : List (List Nat)) : (t.showTap l).ms = t.ms := by
  simp only [State.showTap, State.wr_ms]

theorem State.showProbe_traces (t : State) (k : Nat) (l : List (List Nat)) : (t.showProbe k l).net.traces = t.net.traces.set k l := by
  simp only [State.showProbe, State.wr_net, State.setNet_net]

theorem State.showProbe_ms (t : State) (k : Nat) (l : List (List Nat)) : (t.showProbe k l).ms = t.ms := by
  simp only [State.showProbe, State.wr_ms]
  rfl

theorem State.traceShown_records (t : State) (k : Nat) (l : List (List Nat)) : (t.traceShown k l).traceRecords k = l := by
  unfold State.traceShown State.traceRecords
  by_cases hk : k < 32
  · rw [if_pos hk, if_pos hk, State.showProbe_traces, Tab.get_set_same]
  · rw [if_neg hk, if_neg hk, State.showTap_dbg]

theorem State.traceShown_ms (t : State) (k : Nat) (l : List (List Nat)) : (t.traceShown k l).ms = t.ms := by
  unfold State.traceShown
  split
  · exact t.showProbe_ms k l
  · exact t.showTap_ms l

theorem State.traceShown_prod (t : State) (k : Nat) (l : List (List Nat)) : (t.traceShown k l).rd R.TRACE_PROD = t.rd R.TRACE_PROD := by
  unfold State.traceShown
  split
  · next hk => exact State.showProbe_writes (.refl _ t) hk l _ (by simp only [probeRegs, addrIn, Fld.key, R.TRACE_PROD]; omega)
  · exact t.showTap_rd l (fun i _ => (by simp only [Fld.key, R.TRACE_PROD, R.REEVE_TAP_HEAD, ne_eq]; omega)) (by decide)

/-- A source that has been exported: its losses are told, and the ring's producer moves. -/
def State.exported (t : State) (k : Nat) : State := ((t.setDbg (fun d => { d with lost := d.lost.set k 0 })).inc R.TRACE_PROD).showFull

theorem State.setDbg_shows (t : State) (f : Debug → Debug) : (t.setDbg f).regs = t.regs ∧ (t.setDbg f).ms = t.ms ∧ (t.setDbg f).net = t.net ∧
    (t.setDbg f).dbg = f t.dbg := ⟨rfl, rfl, rfl, rfl⟩

theorem State.showFull_shows (t : State) : t.showFull.dbg = t.dbg ∧ t.showFull.ms = t.ms ∧ t.showFull.rd R.TRACE_STATUS_FULL = (if t.traceFull then 1 else 0) ∧
    sameRegs t t.showFull [R.TRACE_STATUS_FULL] := by
  unfold State.showFull
  refine ⟨State.wrB_dbg _ _ _, State.wrB_ms _ _ _, ?_, (sameRegs.refl t _).wrB (.head _) _⟩
  rw [State.wrB_rd_same]
  cases t.traceFull <;> rfl

theorem State.traceRecords_congr {s t : State} (hn : t.net = s.net) (ht : t.dbg.tap = s.dbg.tap) (k : Nat) : t.traceRecords k = s.traceRecords k := by
  rw [State.traceRecords, State.traceRecords, hn, ht]

theorem State.exported_shows (t : State) (k : Nat) : (t.exported k).ms = t.ms ∧ (t.exported k).traceRecords k = t.traceRecords k ∧
    (t.exported k).dbg.lost.get k = 0 ∧ (t.exported k).rd R.TRACE_PROD = (t.rd R.TRACE_PROD + 1) % 2 ^ 32 := by
  obtain ⟨hr, hm, hn, hd⟩ := t.setDbg_shows (fun d => { d with lost := d.lost.set k 0 })
  unfold State.exported
  generalize t.setDbg (fun d => { d with lost := d.lost.set k 0 }) = u at hr hm hn hd
  obtain ⟨h1, h2, -, h4⟩ := (u.inc R.TRACE_PROD).showFull_shows
  have hnet : (u.inc R.TRACE_PROD).showFull.net = t.net := by rw [State.showFull, State.wrB_net, State.inc_net, hn]
  have hdbg : (u.inc R.TRACE_PROD).showFull.dbg = { t.dbg with lost := t.dbg.lost.set k 0 } := by rw [h1, State.inc_dbg, hd]
  refine ⟨by rw [h2, State.inc_ms, hm], State.traceRecords_congr hnet (by rw [hdbg]) k, by rw [hdbg]; exact Tab.get_set_same _ _ _, ?_⟩
  rw [h4 _ (by decide), State.inc_rd_same, State.rd_congr hr, show R.TRACE_PROD.w = 32 from rfl]

/-! ### The event queue -/

/-- The event queue's registers show its first entry and its length. -/
theorem State.showEvents_shows (t : State) (l : List (List Nat)) : (t.showEvents l).dbg = { t.dbg with queue := l } ∧
    (t.showEvents l).rd R.HEARTH_EVT_STATUS_LEVEL = l.length % 2 ^ R.HEARTH_EVT_STATUS_LEVEL.w ∧
    ∀ i < 4, (t.showEvents l).rd (R.HEARTH_EVT_HEAD i) = (l.headD []).getD i 0 % 2 ^ 32 := by
  refine ⟨by simp only [State.showEvents, State.wr_dbg]; rfl, State.wr_rd_same _ _ _, fun i hi => ?_⟩
  unfold State.showEvents
  dsimp only
  rw [State.wr_rd_ne _ _ _ _ (by simp only [Fld.key, R.HEARTH_EVT_HEAD, R.HEARTH_EVT_STATUS_LEVEL, ne_eq]; omega)]
  have hne {a b : Nat} (h : a ≠ b) : (R.HEARTH_EVT_HEAD a).key ≠ (R.HEARTH_EVT_HEAD b).key := (by simp only [Fld.key, R.HEARTH_EVT_HEAD, ne_eq]; omega)
  obtain rfl | rfl | rfl | rfl : i = 0 ∨ i = 1 ∨ i = 2 ∨ i = 3 := by omega
  · rw [State.wr_rd_ne _ _ _ _ (hne (by decide)), State.wr_rd_ne _ _ _ _ (hne (by decide)), State.wr_rd_ne _ _ _ _ (hne (by decide)), State.wr_rd_same]; rfl
  · rw [State.wr_rd_ne _ _ _ _ (hne (by decide)), State.wr_rd_ne _ _ _ _ (hne (by decide)), State.wr_rd_same]; rfl
  · rw [State.wr_rd_ne _ _ _ _ (hne (by decide)), State.wr_rd_same]; rfl
  · rw [State.wr_rd_same]; rfl

end Sys2Proof.Machine

namespace Sys2Proof.Claims

set_option Elab.async false

open Sys2Proof.Machine

/-! ### The event tap and the exporter -/

theorem reeveTapPop_pops : ∀ (s : State), s.exports 32 = false → ∃ t, exec .reeveTapPop s = .next t ∧ t.dbg.tap = s.dbg.tap.drop 1 ∧ t.ans = acked := by
  intro s h
  have he : exec .reeveTapPop s = .next (s.showTap (s.dbg.tap.drop 1)).ack :=
    congrArg Host.Outcome.next (if_neg (by rw [h]; exact Bool.false_ne_true))
  refine ⟨_, he, ?_, rfl⟩
  rw [State.ack_dbg, State.showTap_dbg]

theorem reeveTapPop_exported : ∀ (s : State), s.exports 32 = true → exec .reeveTapPop s = .next { s with ans := acked } := fun s h => congrArg Host.Outcome.next (if_pos h)

section
variable {s : State} {k : Fin 33}

/-- The record of source `k` as the exporter writes it. -/
def exportWords (s : State) (k : Nat) : List Nat := [2 ^ 31 + k * 2 ^ 24 + min (s.dbg.lost.get k) 65535, 0, 0, 0] ++ (s.traceRecords k).headD []

theorem traceExport_due (h : s.traceDue k = true) {x : Bool × State}
    (hx : s.dmaWrite hearthMid s.traceAddr (clean ((exportWords s k).flatMap bytesOf32)) = x) :
    exec (.traceExport k) s = if !x.1 then .next s else .next ((x.2.traceShown k ((s.traceRecords k).drop 1)).exported k) := by
  subst hx
  exact if_neg (by rw [h]; exact Bool.false_ne_true)

theorem traceDue_of {r : List Nat} {l : List (List Nat)} (h : s.exports k = true) (hr : s.traceRecords k = r :: l) (hf : s.traceFull = false) :
    s.traceDue k = true := by
  rw [State.traceDue, h, hr, hf]
  rfl

end

theorem traceExport_writes : ∀ (s u : State) (k : Fin 33) (r : List Nat) (l : List (List Nat)), s.exports k = true → s.traceRecords k = r :: l → s.traceFull = false →
    s.dmaWrite hearthMid s.traceAddr (clean (([2 ^ 31 + k.val * 2 ^ 24 + min (s.dbg.lost.get k) 65535, 0, 0, 0] ++ r).flatMap bytesOf32)) = (true, u) →
    ∃ t, exec (.traceExport k) s = .next t ∧ t.ms = u.ms ∧ t.traceRecords k = l ∧ t.dbg.lost.get k = 0 ∧
      t.rd R.TRACE_PROD = (u.rd R.TRACE_PROD + 1) % 2 ^ 32 := by
  intro s u k r l h hr hf hx
  have hw : exportWords s k = [2 ^ 31 + k.val * 2 ^ 24 + min (s.dbg.lost.get k) 65535, 0, 0, 0] ++ r := by rw [exportWords, hr]; rfl
  have he := traceExport_due (traceDue_of h hr hf) ((congrArg (fun w => s.dmaWrite hearthMid s.traceAddr (clean (w.flatMap bytesOf32))) hw).trans hx)
  rw [if_neg (show ¬ (!(true, u).1) = true from Bool.false_ne_true), hr] at he
  obtain ⟨h1, h2, h3, h4⟩ := (u.traceShown k l).exported_shows k
  exact ⟨_, he, h1.trans (u.traceShown_ms k l), h2.trans (u.traceShown_records k l), h3, h4.trans (by rw [State.traceShown_prod])⟩

theorem traceExport_refused : ∀ (s u : State) (k : Fin 33), s.traceDue k = true →
    s.dmaWrite hearthMid s.traceAddr (clean (([2 ^ 31 + k.val * 2 ^ 24 + min (s.dbg.lost.get k) 65535, 0, 0, 0] ++ (s.traceRecords k).headD []).flatMap bytesOf32))
      = (false, u) → exec (.traceExport k) s = .next s := by
  intro s u k h hx
  rw [traceExport_due h hx, if_pos (by rfl)]

theorem traceExport_notDue : ∀ (s : State) (k : Fin 33), s.traceDue k = false → ∃ t, exec (.traceExport k) s = .next t ∧ t.dbg = s.dbg ∧ t.ms = s.ms ∧
    t.rd R.TRACE_STATUS_FULL = (if s.traceFull then 1 else 0) ∧ sameRegs s t [R.TRACE_STATUS_FULL] := by
  intro s k h
  have he : exec (.traceExport k) s = .next s.showFull := if_pos (by rw [h]; rfl)
  exact ⟨_, he, s.showFull_shows⟩

theorem traceWriteError_stops : ∀ (s : State) (k : Fin 33) (st : Fin 3), s.traceDue k = true → ∃ t, exec (.traceWriteError k st) s = .next t ∧ t.rd R.TRACE_CFG_EN = 0 ∧
    t.rd R.TRACE_STATUS_ERROR = 1 ∧ t.rd R.TRACE_STATUS_STATUS = 3 + st.val ∧ t.dbg = s.dbg ∧
    sameRegs s t [R.TRACE_CFG_EN, R.TRACE_STATUS_ERROR, R.TRACE_STATUS_STATUS] := by
  intro s k st h
  have he : exec (.traceWriteError k st) s = .next (((s.wr R.TRACE_CFG_EN 0).wr R.TRACE_STATUS_ERROR 1).wr R.TRACE_STATUS_STATUS (3 + st.val)) := if_pos h
  refine ⟨_, he, ?_, ?_, ?_, rfl, (((sameRegs.refl s _).wr (.head _) _).wr (.tail _ (.head _)) _).wr (.tail _ (.tail _ (.head _))) _⟩
  · rw [State.wr_rd_ne _ _ _ _ (by decide), State.wr_rd_ne _ _ _ _ (by decide), State.wr_rd_same]; rfl
  · rw [State.wr_rd_ne _ _ _ _ (by decide), State.wr_rd_same]; rfl
  · rw [State.wr_rd_same]
    exact Nat.mod_eq_of_lt (lt_of_lt_of_le (show 3 + st.val < 6 by omega) (by decide))

/-! ### The Hearth's events and telemetry -/

theorem hearthEventEntry_enters : ∀ (s : State) (e : HearthEvent) (tick : Nat) (r : List (HearthEvent × Nat)) (l : List (List Nat)), s.dbg.raised = (e, tick) :: r →
    s.dbg.queue.length < (if e.high then 256 else 224) → l = s.dbg.queue ++ [[e.source * 2 ^ 24 + e.event * 2 ^ 16, e.detail, e.detail2, tick]] →
    ∃ t, exec .hearthEventEntry s = .next t ∧ t.dbg.raised = r ∧ t.dbg.queue = l ∧ t.rd R.HEARTH_EVT_STATUS_LEVEL = l.length ∧
      ∀ i < 4, t.rd (R.HEARTH_EVT_HEAD i) = (l.headD []).getD i 0 % 2 ^ 32 := by
  intro s e tick r l hr hlen hl
  have he : exec .hearthEventEntry s = .next ((s.setDbg (fun d => { d with raised := r })).showEvents l) := by
    subst hl
    show execHearthEventEntry s = _
    unfold execHearthEventEntry
    rw [hr]
    exact if_pos hlen
  obtain ⟨h1, h2, h3⟩ := (s.setDbg (fun d => { d with raised := r })).showEvents_shows l
  have hl256 : l.length < 2 ^ R.HEARTH_EVT_STATUS_LEVEL.w := by
    rw [hl, List.length_append, List.length_singleton]
    have : s.dbg.queue.length < 256 := lt_of_lt_of_le hlen (by split <;> omega)
    have : 2 ^ R.HEARTH_EVT_STATUS_LEVEL.w = 512 := rfl
    omega
  exact ⟨_, he, by rw [h1]; rfl, by rw [h1], h2.trans (Nat.mod_eq_of_lt hl256), h3⟩

theorem hearthEventEntry_drops : ∀ (s : State) (e : HearthEvent) (tick : Nat) (r : List (HearthEvent × Nat)), s.dbg.raised = (e, tick) :: r →
    (if e.high then 256 else 224) ≤ s.dbg.queue.length → ∃ t, exec .hearthEventEntry s = .next t ∧ t.dbg.raised = r ∧ t.dbg.queue = s.dbg.queue ∧
      t.rd (if e.high then R.HEARTH_EVT_STATUS_HIGH_DROPPED else R.HEARTH_EVT_STATUS_LOW_DROPPED) =
        (s.rd (if e.high then R.HEARTH_EVT_STATUS_HIGH_DROPPED else R.HEARTH_EVT_STATUS_LOW_DROPPED) + 1) % 2 ^ 8 := by
  intro s e tick r hr hlen
  have he : exec .hearthEventEntry s = .next ((s.setDbg (fun d => { d with raised := r })).inc
      (if e.high then R.HEARTH_EVT_STATUS_HIGH_DROPPED else R.HEARTH_EVT_STATUS_LOW_DROPPED)) := by
    show execHearthEventEntry s = _
    unfold execHearthEventEntry
    rw [hr]
    exact if_neg (by omega)
  refine ⟨_, he, rfl, rfl, ?_⟩
  rw [State.inc_rd_same]
  cases e.high <;> rfl

theorem hearthEvtPop_pops : ∀ (s : State), ∃ t, exec (.hearthEvtPop 0xB1) s = .next t ∧ t.ans = acked ∧ t.dbg.queue = s.dbg.queue.drop 1 ∧
    ∀ i < 4, t.rd (R.HEARTH_EVT_HEAD i) = ((s.dbg.queue.drop 1).headD []).getD i 0 % 2 ^ 32 := by
  intro s
  have he : exec (.hearthEvtPop 0xB1) s = .next (s.showEvents (s.dbg.queue.drop 1)).ack := by
    show execHearthEvtPop hearthMid s = _
    exact if_neg (not_not.mpr rfl)
  obtain ⟨h1, -, h3⟩ := s.showEvents_shows (s.dbg.queue.drop 1)
  exact ⟨_, he, rfl, by rw [State.ack_dbg, h1], fun i hi => (State.ack_rd _ _).trans (h3 i hi)⟩

theorem hearthEvtPop_foreign : ∀ (s : State) (mid : Mid), mid ≠ 0xB1 → exec (.hearthEvtPop mid) s = .next { s with ans := abortedBy 7 } := fun _ _ h => if_pos h

section
variable {s : State} {mw : Nat} (hen : s.bit R.TELEM_CFG_EN = true) (hho : s.rd R.HEARTH_HANDOVER_RESULT ≠ 1) (hv : s.boot.verified = true)
  (hc : s.inCrier = false) {size : Nat} (h6 : 6 ≤ s.rd R.TELEM_CFG_SIZE_LOG2) (h15 : s.rd R.TELEM_CFG_SIZE_LOG2 ≤ 15)

/-- A state whose sample has been published interrupts as `s` asks for. -/
def sampleTold (s t : State) : State :=
  if !s.bit R.TELEM_CFG_IRQ_EN then t else if s.bit R.TELEM_CFG_DEST then t.irqHost 457 else t.irq .telemetry 0

theorem sampleTold_shows (s t : State) : (sampleTold s t).ms = t.ms ∧ (sampleTold s t).regs = t.regs ∧
    (s.bit R.TELEM_CFG_IRQ_EN = true → if s.bit R.TELEM_CFG_DEST = true then 457 ∈ (sampleTold s t).hostIrq else ⟨.telemetry, 0⟩ ∈ (sampleTold s t).hallIrq) := by
  unfold sampleTold
  cases s.bit R.TELEM_CFG_IRQ_EN with
  | false => exact ⟨rfl, rfl, (fun h => nomatch h)⟩
  | true =>
    cases s.bit R.TELEM_CFG_DEST with
    | false => exact ⟨rfl, rfl, fun _ => State.irq_hallIrq_mem t .telemetry 0⟩
    | true => exact ⟨rfl, rfl, fun _ => mem_irqHost t 457⟩

include hen hho hv hc in
theorem telemetrySample_publishes (hs : size = 2 ^ min (max 6 (s.rd R.TELEM_CFG_SIZE_LOG2)) 15) : exec (.telemetrySample mw) s =
    if ringHeld (s.rd R.TELEM_PROD) (s.rd R.TELEM_CONS) = size then .next (s.inc R.TELEM_LOST)
    else if !(s.dmaWrite hearthMid (s.rd R.TELEM_BASE_ADDR * 64 + s.rd R.TELEM_PROD % size * 32) (clean ((s.sample mw).flatMap bytesOf32))).1 then
      .next (s.dmaWrite hearthMid (s.rd R.TELEM_BASE_ADDR * 64 + s.rd R.TELEM_PROD % size * 32) (clean ((s.sample mw).flatMap bytesOf32))).2
    else .next (sampleTold s
      ((s.dmaWrite hearthMid (s.rd R.TELEM_BASE_ADDR * 64 + s.rd R.TELEM_PROD % size * 32) (clean ((s.sample mw).flatMap bytesOf32))).2.inc R.TELEM_PROD)) := by
  subst hs
  show execTelemetrySample mw s = _
  unfold execTelemetrySample sampleTold
  dsimp only
  rw [if_neg (by simp [hen, hho, hv, hc])]
  cases s.bit R.TELEM_CFG_IRQ_EN with
  | false => rfl
  | true => cases s.bit R.TELEM_CFG_DEST <;> rfl

include h6 h15 in
theorem telemSize_eq : min (max 6 (s.rd R.TELEM_CFG_SIZE_LOG2)) 15 = s.rd R.TELEM_CFG_SIZE_LOG2 := by omega

end

theorem telemetrySample_writes : ∀ (s u : State) (mw size : Nat), s.bit R.TELEM_CFG_EN = true → s.rd R.HEARTH_HANDOVER_RESULT ≠ 1 → s.boot.verified = true → s.inCrier = false →
    6 ≤ s.rd R.TELEM_CFG_SIZE_LOG2 → s.rd R.TELEM_CFG_SIZE_LOG2 ≤ 15 → size = 2 ^ s.rd R.TELEM_CFG_SIZE_LOG2 →
    ringHeld (s.rd R.TELEM_PROD) (s.rd R.TELEM_CONS) ≠ size →
    s.dmaWrite hearthMid (s.rd R.TELEM_BASE_ADDR * 64 + s.rd R.TELEM_PROD % size * 32) (clean ((s.sample mw).flatMap bytesOf32)) = (true, u) →
    ∃ t, exec (.telemetrySample mw) s = .next t ∧ t.ms = u.ms ∧ t.rd R.TELEM_PROD = (u.rd R.TELEM_PROD + 1) % 2 ^ 32 ∧
      (s.bit R.TELEM_CFG_IRQ_EN = true → if s.bit R.TELEM_CFG_DEST = true then 457 ∈ t.hostIrq else ⟨.telemetry, 0⟩ ∈ t.hallIrq) := by
  intro s u mw size hen hho hv hc h6 h15 hs hfull hx
  have he := telemetrySample_publishes (mw := mw) (size := size) hen hho hv hc (by rw [telemSize_eq h6 h15]; exact hs)
  rw [if_neg hfull, hx, if_neg (show ¬ (!(true, u).1) = true from Bool.false_ne_true)] at he
  obtain ⟨h1, h2, h3⟩ := sampleTold_shows s (u.inc R.TELEM_PROD)
  exact ⟨_, he, h1.trans (State.inc_ms _ _), (State.rd_congr h2 _).trans (State.inc_rd_same _ _), h3⟩

theorem telemetrySample_full : ∀ (s : State) (mw : Nat), s.bit R.TELEM_CFG_EN = true → s.rd R.HEARTH_HANDOVER_RESULT ≠ 1 → s.boot.verified = true → s.inCrier = false →
    6 ≤ s.rd R.TELEM_CFG_SIZE_LOG2 → s.rd R.TELEM_CFG_SIZE_LOG2 ≤ 15 → ringHeld (s.rd R.TELEM_PROD) (s.rd R.TELEM_CONS) = 2 ^ s.rd R.TELEM_CFG_SIZE_LOG2 →
    exec (.telemetrySample mw) s = .next (s.inc R.TELEM_LOST) := by
  intro s mw hen hho hv hc h6 h15 hfull
  rw [telemetrySample_publishes (mw := mw) hen hho hv hc rfl, telemSize_eq h6 h15, if_pos hfull]

theorem telemetrySample_idle : ∀ (s : State) (mw : Nat), (s.bit R.TELEM_CFG_EN = false ∨ s.rd R.HEARTH_HANDOVER_RESULT = 1 ∨ s.boot.verified = false) →
    exec (.telemetrySample mw) s = .next s := by
  intro s mw h
  refine if_pos ?_
  rcases h with h | h | h
  · exact .inl (by rw [h]; rfl)
  · exact .inr (.inl h)
  · exact .inr (.inr (.inl (by rw [h]; rfl)))

/-! ### Boundary scan -/

theorem boundaryScan_shifts : ∀ (s : State) (sh pn : Nat) (c : BitVec 8), (c = 0xFF ∨ c.toNat ∉ [0x00, 0x01, 0x02, 0x03, 0x04, 0x10]) →
    (∃ t, exec (.jtagExtest sh pn) s = .next t ∧ t.dbg.jtag = { s.dbg.jtag with ir := 0x00, boundary := sh, driven := some sh, hiz := false, tdo := pn } ∧ t.regs = s.regs) ∧
    (∃ t, exec (.jtagSamplePreload sh pn) s = .next t ∧ t.dbg.jtag = { s.dbg.jtag with ir := 0x01, boundary := sh, driven := none, hiz := false, tdo := pn } ∧ t.regs = s.regs) ∧
    (∃ t, exec .jtagIdcode s = .next t ∧ t.dbg.jtag = { s.dbg.jtag with ir := 0x02, driven := none, hiz := false, tdo := 0x35C08567 } ∧ t.regs = s.regs) ∧
    (∃ t, exec .jtagClamp s = .next t ∧ t.dbg.jtag = { s.dbg.jtag with ir := 0x03, driven := some s.dbg.jtag.boundary, hiz := false, tdo := 0 } ∧ t.regs = s.regs) ∧
    (∃ t, exec .jtagHighz s = .next t ∧ t.dbg.jtag = { s.dbg.jtag with ir := 0x04, driven := none, hiz := true, tdo := 0 } ∧ t.regs = s.regs) ∧
    (∃ t, exec (.jtagBypass c) s = .next t ∧ t.dbg.jtag = { s.dbg.jtag with ir := c.toNat, driven := none, hiz := false, tdo := 0 } ∧ t.regs = s.regs) := by
  intro s sh pn c hc
  have hcode : bypassCode c = true := by
    have hmem : c ∉ ([0x00, 0x01, 0x02, 0x03, 0x04, 0x10] : List (BitVec 8)) := by
      rcases hc with rfl | hc
      · decide
      · exact fun hm => hc (List.mem_map.mpr ⟨c, hm, rfl⟩)
    rw [bypassCode, Bool.not_eq_true', List.contains_eq_mem, decide_eq_false hmem]
  exact ⟨⟨_, rfl, rfl, rfl⟩, ⟨_, rfl, rfl, rfl⟩, ⟨_, rfl, rfl, rfl⟩, ⟨_, rfl, rfl, rfl⟩, ⟨_, rfl, rfl, rfl⟩, ⟨_, if_pos hcode, rfl, rfl⟩⟩

/-- Settles O58: each clause is a lemma above about one command. -/
theorem tracesEventsAndBoundaryScan : Obligations.TracesEventsAndBoundaryScan :=
  ⟨reeveTapPop_pops, reeveTapPop_exported, traceExport_writes, traceExport_refused, traceExport_notDue, traceWriteError_stops,
    hearthEventEntry_enters, hearthEventEntry_drops, hearthEvtPop_pops, hearthEvtPop_foreign, telemetrySample_writes, telemetrySample_full,
    telemetrySample_idle, boundaryScan_shifts⟩

end Sys2Proof.Claims

/-! ## O59: core debug -/

namespace Sys2Proof.Machine

set_option Elab.async false

open Sys2Proof.Claims

/-! ### The debug registers of a core -/

/-- Every core has its debug registers, at places of their own. -/
theorem dbgRegs_some (k : Fin 160) : ∃ r, dbgRegs k = some r ∧ r.halted.key ≠ r.reason.key := by
  unfold dbgRegs
  split
  · exact ⟨_, rfl, (by simp only [Fld.key, R.DBG_STATUS_DBG_HALTED, R.DBG_STATUS_REASON, ne_eq]; omega)⟩
  · rw [if_pos k.isLt]
    exact ⟨_, rfl, (by simp only [Fld.key, R.HDBG_STATUS_DBG_HALTED, R.HDBG_STATUS_REASON, ne_eq]; omega)⟩

/-- DBG_REG_SEL's fields and DBG_REG_DATA have places of their own, and DBG_REG_DATA is a whole word. -/
theorem dbgSel_places (k : Nat) : (dbgSel k).2.2.2.key ≠ (dbgSel k).1.key ∧ (dbgSel k).2.2.2.w = 32 ∧ (dbgSel k).1.w = 1 := by
  unfold dbgSel
  split
  · exact ⟨(by simp only [Fld.key, R.DBG_REG_DATA, R.DBG_REG_SEL_TAG, ne_eq]; omega), rfl, rfl⟩
  · exact ⟨(by simp only [Fld.key, R.HDBG_REG_DATA, R.HDBG_REG_SEL_TAG, ne_eq]; omega), rfl, rfl⟩

theorem State.ack_core (s : State) (k : Nat) : s.ack.core k = s.core k := rfl

theorem State.wrWord_cores (s : State) (v : Word) (fs : List Fld) : (s.wrWord v fs).cores = s.cores :=
  State.wrWord_keeps State.wr_cores v fs s

/-- A halt for debug touches one core and its status, and no memory. -/
theorem State.dbgStop_shows (s : State) (k : Fin 160) (reason : Nat) :
    (s.dbgStop k reason).core k = { s.core k with dbgHalt := true, dbgStep := false, dbgPass := false } ∧
    (∀ j, j ≠ k.val → (s.dbgStop k reason).core j = s.core j) ∧ (s.dbgStop k reason).ms = s.ms ∧ (s.dbgStop k reason).reeve = s.reeve := by
  obtain ⟨r, hr, -⟩ := dbgRegs_some k
  unfold State.dbgStop
  rw [hr]
  dsimp only
  refine ⟨?_, fun j hj => ?_, ?_, ?_⟩
  · rw [State.wr_core, State.wr_core, State.wr_core, State.modCore_core]
  · rw [State.wr_core, State.wr_core, State.wr_core, State.modCore_core_ne _ _ hj]
  · rw [State.wr_ms, State.wr_ms, State.wr_ms, State.modCore_ms]
  · rw [State.wr_reeve, State.wr_reeve, State.wr_reeve]
    rfl

theorem setWord_low (x v : Nat) : setWord x 0 v % 2 ^ 32 = v % 2 ^ 32 := by
  unfold setWord
  omega

theorem mod_xlen_low (k x : Nat) : x % 2 ^ xlen k % 2 ^ 32 = x % 2 ^ 32 := by
  refine Nat.mod_mod_of_dvd x (pow_dvd_pow 2 ?_)
  unfold xlen
  split <;> decide

/-- A write of a g register's low word. -/
theorem Core.dbgWrite_g (c : Core) (k : Nat) {n v : Nat} (hn : n ≠ 0) (tag : Bool) : (c.dbgWrite k 0 n v tag).gv n % 2 ^ 32 = v % 2 ^ 32 ∧
    (c.dbgWrite k 0 n v tag).gtag n = tag ∧ ∀ m, m ≠ n → (c.dbgWrite k 0 n v tag).gv m = c.gv m := by
  have he : c.dbgWrite k 0 n v tag = c.write k (.g n (setWord (c.gv n) 0 v) tag) := rfl
  rw [he]
  refine ⟨?_, ?_, fun m hm => (c.write_g_ne k _ tag hm).1⟩
  · have hx : xlen k ≤ 64 := xlen_le k
    have hlt : setWord (c.gv n) 0 v % 2 ^ xlen k < 2 ^ 64 :=
      lt_of_lt_of_le (Nat.mod_lt _ (Nat.two_pow_pos _)) (Nat.pow_le_pow_right (by decide) hx)
    simp only [Core.write, Core.gv, hn, if_false, Tab.get_set_same]
    simp only [Core.gv, hn, if_false] at hlt
    rw [BitVec.toNat_ofNat, Nat.mod_eq_of_lt hlt, mod_xlen_low, setWord_low]
  · rw [Core.write_g_gtag]
    simp [hn]

end Sys2Proof.Machine

namespace Sys2Proof.Claims

set_option Elab.async false

open Sys2Proof.Machine

theorem dbgHaltReq_halts : ∀ (s : State) (k : Fin 160), (s.core k).dbgHalt = false → (s.core k).run ≠ .held → ∃ t, exec (.dbgHaltReq k) s = .next t ∧ t.ans = acked ∧
    t.core k = { s.core k with dbgHalt := true, dbgStep := false, dbgPass := false } ∧ (∀ j, j ≠ k.val → t.core j = s.core j) ∧ t.ms = s.ms ∧ t.reeve = s.reeve := by
  intro s k hh hr
  have he : exec (.dbgHaltReq k) s = .next (s.dbgStop k 1).ack := if_neg (by simp [hh, hr])
  exact ⟨_, he, rfl, s.dbgStop_shows k 1⟩

theorem dbgHaltReq_idle : ∀ (s : State) (k : Fin 160), ((s.core k).dbgHalt = true ∨ (s.core k).run = .held) → exec (.dbgHaltReq k) s = .next { s with ans := acked } := fun _ _ h => if_pos h

theorem dbgResume_eq {s : State} {k : Fin 160} {r : DbgRegs} (hr : dbgRegs k = some r) : exec (.dbgResume k) s =
    if !(s.core k).dbgHalt then .next s.ack
    else .next (((s.modCore k (fun c => { c with dbgHalt := false, dbgStep := false, dbgPass := true })).wr r.halted 0).wr r.reason 0).ack := by
  show execDbgResume k s = _
  unfold execDbgResume
  rw [hr]

theorem dbgResume_resumes : ∀ (s : State) (k : Fin 160), (s.core k).dbgHalt = true → ∃ t, exec (.dbgResume k) s = .next t ∧ t.ans = acked ∧
    t.core k = { s.core k with dbgHalt := false, dbgStep := false, dbgPass := true } ∧ (∀ j, j ≠ k.val → t.core j = s.core j) ∧
    ∀ r, dbgRegs k = some r → t.rd r.halted = 0 ∧ t.rd r.reason = 0 := by
  intro s k h
  obtain ⟨r, hr, hne⟩ := dbgRegs_some k
  have he := dbgResume_eq (s := s) hr
  rw [if_neg (by rw [h]; exact Bool.false_ne_true)] at he
  refine ⟨_, he, rfl, ?_, fun j hj => ?_, fun q hq => ?_⟩
  · rw [State.ack_core, State.wr_core, State.wr_core, State.modCore_core]
  · rw [State.ack_core, State.wr_core, State.wr_core, State.modCore_core_ne _ _ hj]
  · obtain rfl : r = q := Option.some.inj (hr.symm.trans hq)
    rw [State.ack_rd, State.ack_rd, State.wr_rd_ne _ _ _ _ hne, State.wr_rd_same, State.wr_rd_same]
    exact ⟨Nat.zero_mod _, Nat.zero_mod _⟩

theorem dbgStep_steps : ∀ (s : State) (k : Fin 160), (s.core k).dbgHalt = true → ∃ t, exec (.dbgStep k) s = .next t ∧ t.ans = acked ∧ t.regs = s.regs ∧
    t.core k = { s.core k with dbgStep := true, dbgPass := true } ∧ (∀ j, j ≠ k.val → t.core j = s.core j) := by
  intro s k h
  have he : exec (.dbgStep k) s = .next (s.modCore k (fun c => { c with dbgStep := true, dbgPass := true })).ack :=
    if_neg (by rw [h]; exact Bool.false_ne_true)
  exact ⟨_, he, rfl, rfl, (State.ack_core _ _).trans (State.modCore_core _ _ _),
    fun j hj => (State.ack_core _ _).trans (State.modCore_core_ne _ _ hj)⟩

theorem dbgRegRead_eq (s : State) (k : Fin 160) (v : Word) : exec (.dbgRegRead k v) s =
    if bitOf v 31 ∨ !(s.core k).dbgHalt then .next s.ack
    else .next (((s.wrWord v [(dbgSel k).2.1, (dbgSel k).2.2.1]).wr (dbgSel k).2.2.2 (s.dbgRead k (bitsOf v 12 4) (bitsOf v 0 12)).1).wrB (dbgSel k).1
      (s.dbgRead k (bitsOf v 12 4) (bitsOf v 0 12)).2).ack := rfl

theorem dbgRegWrite_eq (s : State) (k : Fin 160) (v : Word) : exec (.dbgRegWrite k v) s =
    if !bitOf v 31 ∨ !(s.core k).dbgHalt then .next s.ack
    else if dbgNames k (bitsOf v 12 4) (bitsOf v 0 12) then
      .next ((s.wrWord v [(dbgSel k).1, (dbgSel k).2.1, (dbgSel k).2.2.1]).modCore k
        (fun c => c.dbgWrite k (bitsOf v 12 4) (bitsOf v 0 12) (s.rd (dbgSel k).2.2.2) (bitOf v 30))).ack
    else .next (s.wrWord v [(dbgSel k).1, (dbgSel k).2.1, (dbgSel k).2.2.1]).ack := rfl

theorem dbg_running : ∀ (s : State) (k : Fin 160) (v : Word) (c : Instr), (s.core k).dbgHalt = false →
    c ∈ [.dbgResume k, .dbgStep k, .dbgRegRead k v, .dbgRegWrite k v] → exec c s = .next { s with ans := acked } := by
  intro s k v c h hc
  have hn : (!(s.core k).dbgHalt) = true := by rw [h]; rfl
  simp only [List.mem_cons, List.not_mem_nil, or_false] at hc
  rcases hc with rfl | rfl | rfl | rfl
  · obtain ⟨r, hr, -⟩ := dbgRegs_some k
    exact (dbgResume_eq hr).trans (if_pos hn)
  · exact if_pos hn
  · exact (dbgRegRead_eq s k v).trans (if_pos (.inr hn))
  · exact (dbgRegWrite_eq s k v).trans (if_pos (.inr hn))

theorem dbgRegRead_reads : ∀ (s : State) (k : Fin 160) (v : Word) (x : Nat × Bool), (s.core k).dbgHalt = true → bitOf v 31 = false →
    x = s.dbgRead k (bitsOf v 12 4) (bitsOf v 0 12) → ∃ t, exec (.dbgRegRead k v) s = .next t ∧ t.ans = acked ∧ t.cores = s.cores ∧
      t.rd (dbgSel k).2.2.2 = x.1 % 2 ^ 32 ∧ t.rd (dbgSel k).1 = (if x.2 then 1 else 0) := by
  intro s k v x h h31 hx
  have he := dbgRegRead_eq s k v
  rw [if_neg (by simp [h, h31]), ← hx] at he
  obtain ⟨hne, hw, hw1⟩ := dbgSel_places k
  refine ⟨_, he, rfl, ?_, ?_, ?_⟩
  · rw [State.ack_cores, State.wrB_cores, State.wr_cores, State.wrWord_cores]
  · rw [State.ack_rd, State.wrB_rd_ne _ _ _ _ hne, State.wr_rd_same, hw]
  · rw [State.ack_rd, State.wrB_rd_same, hw1]
    cases x.2 <;> rfl

theorem dbgRegWrite_writes : ∀ (s : State) (k : Fin 160) (v d : Word) (n : Nat), (s.core k).dbgHalt = true → bitOf v 31 = true → bitsOf v 12 4 = 0 → bitsOf v 0 12 = n →
    1 ≤ n → n < 32 → s.rd (dbgSel k).2.2.2 = d.toNat → ∃ t, exec (.dbgRegWrite k v) s = .next t ∧ t.ans = acked ∧
      (t.core k).gv n % 2 ^ 32 = d.toNat ∧ (t.core k).gtag n = bitOf v 30 ∧ (∀ m < 32, m ≠ n → (t.core k).gv m = (s.core k).gv m) ∧
      (∀ j, j ≠ k.val → t.core j = s.core j) := by
  intro s k v d n h h31 hf hn h1 h32 hd
  have hnames : dbgNames k 0 n = true := by
    unfold dbgNames
    simp [h32]
  have he := dbgRegWrite_eq s k v
  rw [if_neg (by simp [h, h31]), hf, hn, if_pos hnames, hd] at he
  have hcore (j : Nat) : (s.wrWord v [(dbgSel k).1, (dbgSel k).2.1, (dbgSel k).2.2.1]).core j = s.core j := by
    rw [State.core, State.wrWord_cores, State.core]
  obtain ⟨g1, g2, g3⟩ := (s.core k).dbgWrite_g k (v := d.toNat) (Nat.pos_iff_ne_zero.mp h1) (bitOf v 30)
  refine ⟨_, he, rfl, ?_, ?_, fun m _ hm => ?_, fun j hj => ?_⟩
  · rw [State.ack_core, State.modCore_core, hcore, g1, Nat.mod_eq_of_lt d.isLt]
  · rw [State.ack_core, State.modCore_core, hcore, g2]
  · rw [State.ack_core, State.modCore_core, hcore, g3 m hm]
  · rw [State.ack_core, State.modCore_core_ne _ _ hj, hcore]

theorem dbgRegWrite_unnamed : ∀ (s : State) (k : Fin 160) (v : Word), (s.core k).dbgHalt = true → bitOf v 31 = true → dbgNames k (bitsOf v 12 4) (bitsOf v 0 12) = false →
    ∃ t, exec (.dbgRegWrite k v) s = .next t ∧ t.ans = acked ∧ t.cores = s.cores := by
  intro s k v h h31 hn
  have he := dbgRegWrite_eq s k v
  rw [if_neg (by simp [h, h31]), if_neg (by rw [hn]; exact Bool.false_ne_true)] at he
  exact ⟨_, he, rfl, by rw [State.ack_cores, State.wrWord_cores]⟩

/-- Settles O59: each clause is a lemma above about one command. -/
theorem coreDebug : Obligations.CoreDebug :=
  ⟨dbgHaltReq_halts, dbgHaltReq_idle, dbgResume_resumes, dbgStep_steps, dbg_running, dbgRegRead_reads, dbgRegWrite_writes, dbgRegWrite_unnamed⟩

end Sys2Proof.Claims

/-! ## O60: register accesses

What a read returns is not always what the register file holds: TALLY_DOMAIN_HELD is computed from the ledgers and the network
interfaces when it is read (R406), and the statement's clause about fields does not leave it out. -/

namespace Sys2Proof.Claims

set_option Elab.async false

open Sys2Proof.Machine

/-- TALLY_DOMAIN_HELD.NOT_DRAINED. -/
def notDrained : FieldDef := ⟨30, 1, .ro, 0⟩

/-- TALLY_DOMAIN_HELD, as the register table gives it. -/
def domainHeld : RegDef := { name := "TALLY_DOMAIN_HELD", base := 0x45000100, dims := [(48, 0x4)], fields := [⟨31, 1, .ro, 0⟩, notDrained, ⟨0, 20, .ro, 0⟩] }

theorem regAt_domainHeld : regAt 0x45000100 = some domainHeld := by decide +kernel

/-- No interface of domain 0 is drained at reset, and a read of its register says so. -/
theorem regVal_notDrained_of_reset : State.reset.regVal 0x45000100 / 2 ^ notDrained.lo % 2 ^ notDrained.w = 1 := by decide +kernel

/-- The register file holds NOT_DRAINED as its table gives it. -/
theorem rd_notDrained_of_reset : State.reset.rd (notDrained.at (busAddr 0x45000100)) = 0 := by decide +kernel

/-- Refutes O60: at reset the clause about a register's fields (the ninth) fails for NOT_DRAINED of TALLY_DOMAIN_HELD for domain 0. A read
computes 1, for none of the domain's interfaces is drained, while the register file holds the field's reset value 0. -/
theorem not_registerAccesses : ¬ Obligations.RegisterAccesses := by
  rintro ⟨-, -, -, -, -, -, -, -, hfields, -⟩
  have h := hfields State.reset 0x45000100 domainHeld regAt_domainHeld (by decide) (by decide) (by decide) notDrained (.tail _ (.head _))
  rw [if_neg (by decide), regVal_notDrained_of_reset, rd_notDrained_of_reset] at h
  exact one_ne_zero h

end Sys2Proof.Claims
